-- ==== Sys2Proof/Word.lean ====
section
/-! DEFINITION. Word types of the part and the value an operand field delivers (spec 01_machine, 03_numbers R66, R79). -/

namespace Sys2Proof

/-- A byte of any store (R3). -/
abbrev Byte := BitVec 8

/-- A 32-bit word: an execute register, a k register, an instruction word (R25, R34). -/
abbrev W32 := BitVec 32

/-- A 64-bit word: an access register, a queue-engine register, an address (R35, R36). -/
abbrev W64 := BitVec 64

/-- A value as a source field delivers it: 64 bits, of which a narrower operand uses the low ones, and the
poison tag of R79. -/
structure Val where
  bits   : W64
  poison : Bool
  deriving DecidableEq, Repr

/-- The zero value without poison (k0, an empty rename entry: R34, R299). -/
def Val.zero : Val := ⟨0, false⟩

/-- A clean value. -/
def Val.of (b : W64) : Val := ⟨b, false⟩

/-- The poisoned zero that R79 writes. -/
def Val.bad : Val := ⟨0, true⟩

/-- The low 32 bits of a value. -/
def Val.w32 (v : Val) : W32 := v.bits.setWidth 32

/-- A predicate f0-f6 with its poison tag (R38, R79). -/
structure PBit where
  val    : Bool
  poison : Bool
  deriving DecidableEq, Repr

/-- A lane mask m0-m6 with its poison tag (R38). -/
structure MaskReg where
  bits   : BitVec 16
  poison : Bool
  deriving DecidableEq, Repr

end Sys2Proof
end

