-- ==== Sys2Proof/Syntax.lean ====
section
/-! DEFINITION. The syntax: register names, operand fields, the operand record of an instruction, the payloads of the
part's events, and the one inductive Instr with a constructor per row of spec/opcode_table.json. -/

namespace Sys2Proof

/-- The sides that share one word layout (R47): execute, access, queue engine. -/
inductive Side where
  | exec
  | access
  | queue
  deriving DecidableEq, Repr

/-- A register name of R34, R35 or R36. -/
inductive Name where
  /-- g0-g95 (execute side). -/
  | g (i : Fin 96)
  /-- k0-k15: k0 reads zero, the others are uniform kernel arguments. -/
  | k (i : Fin 16)
  /-- q0-q15: stream ports. -/
  | q (i : Fin 16)
  /-- a0-a31: access vector registers. -/
  | a (i : Fin 32)
  /-- s0-s15: access scalar registers. -/
  | s (i : Fin 16)
  /-- w0-w15: queue-engine registers. -/
  | w (i : Fin 16)
  deriving DecidableEq, Repr

/-- What one operand field of an instruction holds. -/
inductive Field where
  /-- The entry leaves the field unused (it is zero, R39). -/
  | none
  /-- A register name, with its last-read mark (R41). -/
  | reg (n : Name) (last : Bool)
  /-- A predicate or lane mask number (R38). -/
  | pred (n : Fin 8)
  /-- A 7-bit immediate (R84 and the immediate fields of FENCE, COPY and the like). -/
  | imm (v : BitVec 7)
  /-- A 21-bit word offset in word0 bits 29 to 9 (R32). -/
  | off (v : BitVec 21)
  /-- The literal of a 96-bit form (R29). -/
  | lit (v : W32)
  deriving DecidableEq, Repr

/-- The three lengths of an instruction (R25). -/
inductive Form where
  | w32
  | w64
  | w96
  deriving DecidableEq, Repr

/-- Bytes of an instruction of the form (R25). -/
def Form.bytes : Form → Nat
  | .w32 => 4
  | .w64 => 8
  | .w96 => 12

/-- The operands of one instruction (R26, R27, R28): guard, stall hint, the four fields, the modifier byte, and the
operation code that the atomic sub-opcodes carry (R48; zero in every other instruction). -/
structure Ops where
  form  : Form
  pred  : Fin 8
  pneg  : Bool
  stall : BitVec 4
  d     : Field
  a     : Field
  b     : Field
  c     : Field
  x8    : BitVec 8
  sel   : BitVec 4
  deriving DecidableEq, Repr

/-- A unit that issues instructions: an execute thread of a team, the access thread of a strip of a team, a queue
engine (R289, R17, R321). Teams are named by the model's own number, which pre-emption does not change. -/
inductive Agent where
  | ex (team tid : Nat)
  | ap (team strip : Nat)
  | qe (n : Nat)
  deriving DecidableEq, Repr

/-- Where firmware proposes to place one team (R339): cohort, index within the cohort, core (256 c + 16 y + x), slot,
scratchpad window base in 64-byte units, start delay. -/
structure Placement where
  cohort : Nat
  tix    : Nat
  core   : Nat
  slot   : Nat
  spbase : Nat
  deriving DecidableEq, Repr

/-- A host access over CXL.mem (R379): a host physical address, and the bytes a write carries. -/
structure CxlAccess where
  addr : Nat
  size : Nat
  data : Option Nat
  deriving DecidableEq, Repr

/-- What the patrol finds in a sector (R405). -/
inductive ScrubResult where
  | clean
  | corrected
  | uncorrectable
  deriving DecidableEq, Repr

/-- What a remote request asks of its target (R256, R264). -/
inductive RemoteKind where
  | load
  | store (data : Nat) (poison : Bool)
  | atomic (op width : Nat) (v cmp : W64)
  /-- An SHDW or a PUBL of a pair of the target's memory: its two windows there (R247, R248). -/
  | pair (publ : Bool) (target shadow : List (Nat × Nat))
  deriving DecidableEq, Repr

/-- A request crossing the fabric (R256, R269): requester, its request number, hop index, destination, IA, size, pointer
tag when the handle has tagen, and the issuing thread that R271 hashes. -/
structure Packet where
  src    : Nat
  rid    : Nat
  hop    : Nat
  dst    : Nat
  ia     : Nat
  size   : Nat
  kind   : RemoteKind
  ptag   : Option (BitVec 4)
  thread : Nat
  deriving DecidableEq, Repr

/-- What a packet in transit that is no request for memory carries, as the devices on its way see it (R269, R270): an answer travels in
the reply class and is dropped where it finds no route; a message of the Ladle travels as a request, and its sender hears of it. -/
inductive TransitKind where
  | answer
  | message
  deriving DecidableEq, Repr

/-- A packet of two other devices on its way through this one: sender, destination, hop index, what R271 hashes, and its contents as
one number that no device on the way reads. -/
structure Transit where
  kind   : TransitKind
  src    : Nat
  dst    : Nat
  hop    : Nat
  ia     : Nat
  thread : Nat
  body   : Nat
  deriving DecidableEq, Repr

/-- A reply to a remote request (R261-R266). -/
inductive RemoteResult where
  | ok (data : Nat) (poison : Bool)
  | fail (code sub : BitVec 8) (loc : Nat)
  deriving DecidableEq, Repr

/-- A receiver's answer to a Ladle chunk (R282). -/
inductive LadleAnswer where
  | busy
  | mismatch
  | ack
  /-- The path, or the device at its end, turned the chunk away: REMOTE (R269, R284). -/
  | remote
  /-- The chunk waits at its receiver for a page: a park notice (R153, R257). -/
  | parked
  deriving DecidableEq, Repr

/-- Which lanes of a link trained, and whether their order is reversed (R419). -/
structure LaneResult where
  low      : Bool
  high     : Bool
  reversed : Bool
  deriving DecidableEq, Repr

/-- What firmware finds at bring-up (R413, R416): enabled cores of each cluster, the enabled links as a mask, whether the non-volatile
store can be read, and the stacks of the HBM rows it repairs in place. -/
structure BringUp where
  cores0 : Nat
  cores1 : Nat
  cores2 : Nat
  cores3 : Nat
  links  : Nat
  store  : Bool
  repaired : List Nat := []
  deriving DecidableEq, Repr

/-- A management firmware image (R381): what is signed, its security version, the two public keys it names and the two signatures. -/
structure FwImage where
  body    : List Byte
  version : Nat
  rsaKey  : List Byte
  slhKey  : List Byte
  rsaSig  : List Byte
  slhSig  : List Byte
  deriving DecidableEq, Repr, Inhabited

/-- A request over CXL DOE (R380, R382). -/
inductive DoeRequest where
  /-- A message of SPDM. -/
  | spdm (m : List Byte)
  /-- IDE_KM sets the keys of the stream, or stops it. -/
  | ideKeys
  | ideStop
  deriving DecidableEq, Repr

/-- The instructions and events of spec/opcode_table.json, one constructor a row. The operands of an instruction row
stand beside it (Insn), and what names an event's occurrence is an Occ. -/
inductive Instr where
  /-- MOV (R86). 32-bit form: copies source a to destination d. -/
  | mov
  /-- MOV_LONG (R86). 64- or 96-bit form of MOV, with predicate, stall hint or literal. -/
  | movLong
  /-- IADD (R86). 32-bit form: writes wrap(a + b, W). -/
  | iadd
  /-- IADD_LONG (R86). 64- or 96-bit form of IADD. -/
  | iaddLong
  /-- ISUB (R86). 32-bit form: writes wrap(a - b, W). -/
  | isub
  /-- ISUB_LONG (R86). 64- or 96-bit form of ISUB. -/
  | isubLong
  /-- IMUL (R86). 32-bit form: writes the low W bits of a times b. -/
  | imul
  /-- IMUL_LONG (R86). 64- or 96-bit form of IMUL. -/
  | imulLong
  /-- IMULH (R86). 32-bit form: writes the high W bits of the signed product. -/
  | imulh
  /-- IMULH_LONG (R86). 64- or 96-bit form of IMULH. -/
  | imulhLong
  /-- IMULHU (R86). 32-bit form: writes the high W bits of the unsigned product. -/
  | imulhu
  /-- IMULHU_LONG (R86). 64- or 96-bit form of IMULHU. -/
  | imulhuLong
  /-- IMIN (R86). 32-bit form: writes the signed minimum. -/
  | imin
  /-- IMIN_LONG (R86). 64- or 96-bit form of IMIN. -/
  | iminLong
  /-- IMAX (R86). 32-bit form: writes the signed maximum. -/
  | imax
  /-- IMAX_LONG (R86). 64- or 96-bit form of IMAX. -/
  | imaxLong
  /-- UMIN (R86). 32-bit form: writes the unsigned minimum. -/
  | umin
  /-- UMIN_LONG (R86). 64- or 96-bit form of UMIN. -/
  | uminLong
  /-- UMAX (R86). 32-bit form: writes the unsigned maximum. -/
  | umax
  /-- UMAX_LONG (R86). 64- or 96-bit form of UMAX. -/
  | umaxLong
  /-- AND (R86). 32-bit form: writes a AND b. -/
  | and
  /-- AND_LONG (R86). 64- or 96-bit form of AND. -/
  | andLong
  /-- OR (R86). 32-bit form: writes a OR b. -/
  | or
  /-- OR_LONG (R86). 64- or 96-bit form of OR. -/
  | orLong
  /-- XOR (R86). 32-bit form: writes a XOR b. -/
  | xor
  /-- XOR_LONG (R86). 64- or 96-bit form of XOR. -/
  | xorLong
  /-- ANDN (R86). 32-bit form: writes a AND NOT b. -/
  | andn
  /-- ANDN_LONG (R86). 64- or 96-bit form of ANDN. -/
  | andnLong
  /-- SHL (R86). 32-bit form: shifts a left by bits [7:0] of b. -/
  | shl
  /-- SHL_LONG (R86). 64- or 96-bit form of SHL. -/
  | shlLong
  /-- SHR (R86). 32-bit form: shifts a right logically by bits [7:0] of b. -/
  | shr
  /-- SHR_LONG (R86). 64- or 96-bit form of SHR. -/
  | shrLong
  /-- SAR (R86). 32-bit form: shifts a right arithmetically by bits [7:0] of b. -/
  | sar
  /-- SAR_LONG (R86). 64- or 96-bit form of SAR. -/
  | sarLong
  /-- SHLI (R84). 32-bit form: shifts a left by a 5-bit immediate. -/
  | shli
  /-- SHLI_LONG (R84). 64- or 96-bit form of SHLI. -/
  | shliLong
  /-- SHRI (R84). 32-bit form: shifts a right logically by a 5-bit immediate. -/
  | shri
  /-- SHRI_LONG (R84). 64- or 96-bit form of SHRI. -/
  | shriLong
  /-- SARI (R84). 32-bit form: shifts a right arithmetically by a 5-bit immediate. -/
  | sari
  /-- SARI_LONG (R84). 64- or 96-bit form of SARI. -/
  | sariLong
  /-- ROTL (R86). 32-bit form: rotates a left by bits [7:0] of b mod W. -/
  | rotl
  /-- ROTL_LONG (R86). 64- or 96-bit form of ROTL. -/
  | rotlLong
  /-- POPC (R86). 32-bit form: counts the one bits of a. -/
  | popc
  /-- POPC_LONG (R86). 64-bit form of POPC. -/
  | popcLong
  /-- CLZ (R86). 32-bit form: counts leading zeros of a. -/
  | clz
  /-- CLZ_LONG (R86). 64-bit form of CLZ. -/
  | clzLong
  /-- BREV (R86). 32-bit form: reverses the bits of a. -/
  | brev
  /-- BREV_LONG (R86). 64-bit form of BREV. -/
  | brevLong
  /-- IABS (R86). 32-bit form: writes the wrapped absolute value of a. -/
  | iabs
  /-- IABS_LONG (R86). 64-bit form of IABS. -/
  | iabsLong
  /-- INEG (R86). 32-bit form: writes wrap(-a, W). -/
  | ineg
  /-- INEG_LONG (R86). 64-bit form of INEG. -/
  | inegLong
  /-- IADDI (R84). 32-bit form: adds a signed 7-bit immediate to a. -/
  | iaddi
  /-- IADDI_LONG (R84). 64- or 96-bit form of IADDI. -/
  | iaddiLong
  /-- SH2ADD (R86). 32-bit form: writes wrap(4a + b, W). -/
  | sh2add
  /-- SH2ADD_LONG (R86). 64- or 96-bit form of SH2ADD. -/
  | sh2addLong
  /-- SH3ADD (R86). 32-bit form: writes wrap(8a + b, W). -/
  | sh3add
  /-- SH3ADD_LONG (R86). 64- or 96-bit form of SH3ADD. -/
  | sh3addLong
  /-- PACK2 (R86). 32-bit form: packs the low halves of a and b. -/
  | pack2
  /-- PACK2_LONG (R86). 64- or 96-bit form of PACK2. -/
  | pack2Long
  /-- FADD (R94). 32-bit form: binary32 addition rounded to nearest even. -/
  | fadd
  /-- FADD_LONG (R94). 64- or 96-bit form of FADD with a rounding mode. -/
  | faddLong
  /-- FSUB (R94). 32-bit form: binary32 subtraction. -/
  | fsub
  /-- FSUB_LONG (R94). 64- or 96-bit form of FSUB. -/
  | fsubLong
  /-- FMUL (R94). 32-bit form: binary32 multiplication. -/
  | fmul
  /-- FMUL_LONG (R94). 64- or 96-bit form of FMUL. -/
  | fmulLong
  /-- FMIN (R96). 32-bit form: binary32 minimumNumber. -/
  | fmin
  /-- FMIN_LONG (R96). 64- or 96-bit form of FMIN. -/
  | fminLong
  /-- FMAX (R96). 32-bit form: binary32 maximumNumber. -/
  | fmax
  /-- FMAX_LONG (R96). 64- or 96-bit form of FMAX. -/
  | fmaxLong
  /-- FABS (R96). 32-bit form: clears bit 31 of a. -/
  | fabs
  /-- FABS_LONG (R96). 64-bit form of FABS. -/
  | fabsLong
  /-- FNEG (R96). 32-bit form: inverts bit 31 of a. -/
  | fneg
  /-- FNEG_LONG (R96). 64-bit form of FNEG. -/
  | fnegLong
  /-- FRCP (R101). 32-bit form: correctly rounded reciprocal. -/
  | frcp
  /-- FRCP_LONG (R101). 64-bit form of FRCP. -/
  | frcpLong
  /-- FRSQ (R101). 32-bit form: correctly rounded reciprocal square root. -/
  | frsq
  /-- FRSQ_LONG (R101). 64-bit form of FRSQ. -/
  | frsqLong
  /-- FSQRT (R94). 32-bit form: binary32 square root. -/
  | fsqrt
  /-- FSQRT_LONG (R94). 64-bit form of FSQRT. -/
  | fsqrtLong
  /-- FEXP2 (R101). 32-bit form: correctly rounded 2^a. -/
  | fexp2
  /-- FEXP2_LONG (R101). 64-bit form of FEXP2. -/
  | fexp2Long
  /-- FLOG2 (R101). 32-bit form: correctly rounded log2 a. -/
  | flog2
  /-- FLOG2_LONG (R101). 64-bit form of FLOG2. -/
  | flog2Long
  /-- FSINPI (R101). 32-bit form: correctly rounded sin(pi a). -/
  | fsinpi
  /-- FSINPI_LONG (R101). 64-bit form of FSINPI. -/
  | fsinpiLong
  /-- FCOSPI (R101). 32-bit form: correctly rounded cos(pi a). -/
  | fcospi
  /-- FCOSPI_LONG (R101). 64-bit form of FCOSPI. -/
  | fcospiLong
  /-- FTANH (R101). 32-bit form: correctly rounded tanh a. -/
  | ftanh
  /-- FTANH_LONG (R101). 64-bit form of FTANH. -/
  | ftanhLong
  /-- FCLASS (R97). 32-bit form: writes a one-hot class mask of a binary32 value. -/
  | fclass
  /-- FCLASS_LONG (R97). 64-bit form of FCLASS naming the operand format. -/
  | fclassLong
  /-- HADD2 (R94). 32-bit form: packed binary16 addition. -/
  | hadd2
  /-- HADD2_LONG (R94). 64- or 96-bit form of HADD2. -/
  | hadd2Long
  /-- HMUL2 (R94). 32-bit form: packed binary16 multiplication. -/
  | hmul2
  /-- HMUL2_LONG (R94). 64- or 96-bit form of HMUL2. -/
  | hmul2Long
  /-- BADD2 (R94). 32-bit form: packed bfloat16 addition. -/
  | badd2
  /-- BADD2_LONG (R94). 64- or 96-bit form of BADD2. -/
  | badd2Long
  /-- BMUL2 (R94). 32-bit form: packed bfloat16 multiplication. -/
  | bmul2
  /-- BMUL2_LONG (R94). 64- or 96-bit form of BMUL2. -/
  | bmul2Long
  /-- I2F (R99). 64-bit form: converts an integer to a floating-point format named in x8. -/
  | i2f
  /-- F2I (R99). 64-bit form: converts a floating-point value to a saturated integer towards zero. -/
  | f2i
  /-- FFRAC (R94). 32-bit form: writes a - floor(a). -/
  | ffrac
  /-- FFRAC_LONG (R94). 64-bit form of FFRAC. -/
  | ffracLong
  /-- FFLOOR (R98). 32-bit form: rounds a towards minus infinity to an integral value. -/
  | ffloor
  /-- FFLOOR_LONG (R98). 64-bit form of FFLOOR. -/
  | ffloorLong
  /-- FCEIL (R98). 32-bit form: rounds a towards plus infinity to an integral value. -/
  | fceil
  /-- FCEIL_LONG (R98). 64-bit form of FCEIL. -/
  | fceilLong
  /-- FRINT (R98). 32-bit form: rounds a to an integral value to nearest even. -/
  | frint
  /-- FRINT_LONG (R98). 64-bit form of FRINT with a rounding mode. -/
  | frintLong
  /-- FSCALE (R94). 32-bit form: writes a times 2 to the integer b. -/
  | fscale
  /-- FSCALE_LONG (R94). 64- or 96-bit form of FSCALE. -/
  | fscaleLong
  /-- BRA (R306). 32-bit form: unpredicated branch by a 21-bit word offset. -/
  | bra
  /-- BRA_LONG (R306). 64- or 96-bit predicated branch, with 21-bit or literal offset. -/
  | braLong
  /-- BRX (R306). 32-bit form: branches to a computed code offset. -/
  | brx
  /-- BRX_LONG (R306). 64- or 96-bit form of BRX. -/
  | brxLong
  /-- RET (R306). 32-bit form: returns to the code offset in a. -/
  | ret
  /-- RET_LONG (R306). 64-bit form of RET. -/
  | retLong
  /-- EXIT (R308). 32-bit form: waits for the store counters, takes deferred faults, then ends the thread. -/
  | exit
  /-- EXIT_LONG (R308). 64-bit predicated form of EXIT. -/
  | exitLong
  /-- YIELD (R309). 32-bit form: restarts the thread's ready age. -/
  | yield
  /-- YIELD_LONG (R309). 64-bit form of YIELD. -/
  | yieldLong
  /-- MEET (R310). 32-bit form: sets the meeting register to a target and the full span mask. -/
  | meet
  /-- MEET_LONG (R310). 64- or 96-bit predicated form of MEET. -/
  | meetLong
  /-- NOP (R309). 32-bit form: does nothing. -/
  | nop
  /-- NOP_LONG (R309). 64-bit form of NOP whose stall hint applies. -/
  | nopLong
  /-- BKPT (R397). 32-bit form: takes the BKPT trap. -/
  | bkpt
  /-- BKPT_LONG (R397). 64-bit predicated form of BKPT. -/
  | bkptLong
  /-- LDS_W (R167). 32-bit form: loads 32 bits through h0. -/
  | ldsW
  /-- LDS_W_LONG (R167). 64- or 96-bit form of LDS.W naming a handle. -/
  | ldsWLong
  /-- STS_W (R167). 32-bit form: stores 32 bits through h0. -/
  | stsW
  /-- STS_W_LONG (R167). 64- or 96-bit form of STS.W naming a handle. -/
  | stsWLong
  /-- LDS_D (R167). 32-bit form: loads 64 bits through h0. -/
  | ldsD
  /-- LDS_D_LONG (R167). 64- or 96-bit form of LDS.D naming a handle. -/
  | ldsDLong
  /-- STS_D (R167). 32-bit form: stores 64 bits through h0. -/
  | stsD
  /-- STS_D_LONG (R167). 64- or 96-bit form of STS.D naming a handle. -/
  | stsDLong
  /-- PLD (R172). 32-bit form: reads a BCS word at offset a + b. -/
  | pld
  /-- PLD_LONG (R172). 64- or 96-bit form of PLD. -/
  | pldLong
  /-- IMAD (R87). Writes wrap(a times b + c, W). -/
  | imad
  /-- IMAD64 (R87). Multiplies two 32-bit values and adds a 64-bit value. -/
  | imad64
  /-- IADD64 (R87). Adds 64-bit values. -/
  | iadd64
  /-- ISUB64 (R87). Subtracts 64-bit values. -/
  | isub64
  /-- IMULW (R87). Writes the 64-bit product of two 32-bit values. -/
  | imulw
  /-- ICMPF (R88). Compares integers and combines the result with a predicate. -/
  | icmpf
  /-- PICK (R87). Selects a or b by predicate c. -/
  | pick
  /-- BFGET (R89). Extracts a bit field. -/
  | bfget
  /-- BFPUT (R89). Inserts a bit field. -/
  | bfput
  /-- BYSEL (R90). Builds a word from selected bytes. -/
  | bysel
  /-- IDIV (R91). Signed division rounding towards zero. -/
  | idiv
  /-- UDIV (R91). Unsigned division. -/
  | udiv
  /-- IREM (R91). Signed remainder. -/
  | irem
  /-- UREM (R91). Unsigned remainder. -/
  | urem
  /-- ISAD (R87). Adds the absolute difference of a and b to c. -/
  | isad
  /-- MOVI (R92). Writes a 96-bit form's literal. -/
  | movi
  /-- FUNNEL (R90). Shifts across two registers. -/
  | funnel
  /-- IADDS (R87). Saturating addition. -/
  | iadds
  /-- ISUBS (R87). Saturating subtraction. -/
  | isubs
  /-- MOVP_GET (R92). Moves predicates or a mask into a register. -/
  | movpGet
  /-- MOVP_PUT (R92). Moves register bits into predicates or a mask. -/
  | movpPut
  /-- FLUT (R92). Combines three predicates through an 8-bit truth table. -/
  | flut
  /-- FFMA (R94). Fused binary32 multiply-add. -/
  | ffma
  /-- FCMPF (R95). Compares binary32 values into a predicate. -/
  | fcmpf
  /-- FDIV (R94). Binary32 division. -/
  | fdiv
  /-- DADD (R94). Binary64 addition. -/
  | dadd
  /-- DSUB (R94). Binary64 subtraction. -/
  | dsub
  /-- DMUL (R94). Binary64 multiplication. -/
  | dmul
  /-- DFMA (R94). Fused binary64 multiply-add. -/
  | dfma
  /-- DCMPF (R95). Compares binary64 values into a predicate. -/
  | dcmpf
  /-- DDIV (R94). Binary64 division. -/
  | ddiv
  /-- DSQRT (R94). Binary64 square root. -/
  | dsqrt
  /-- DMIN (R96). Binary64 minimumNumber. -/
  | dmin
  /-- DMAX (R96). Binary64 maximumNumber. -/
  | dmax
  /-- DCLASS (R97). Classifies a binary64 value. -/
  | dclass
  /-- HFMA2 (R94). Packed binary16 fused multiply-add. -/
  | hfma2
  /-- BFMA2 (R94). Packed bfloat16 fused multiply-add. -/
  | bfma2
  /-- FCVT (R99). Converts between floating-point formats. -/
  | fcvt
  /-- FCHK (R100). Writes a predicate true when a value is finite. -/
  | fchk
  /-- XSHUF (R314). Joint shuffle of values among member lanes. -/
  | xshuf
  /-- XBCAST (R314). Joint broadcast of the first participant's value. -/
  | xbcast
  /-- XPOLL (R314). Joint vote over a predicate. -/
  | xpoll
  /-- XRED (R315). Joint tree reduction of participant values. -/
  | xred
  /-- XSCAN (R315). Joint prefix scan. -/
  | xscan
  /-- XMATCH (R314). Joint mask of participants with equal values. -/
  | xmatch
  /-- XSYNC (R317). Joint release and acquire at team scope. -/
  | xsync
  /-- XCOMPACT (R316). Joint compaction of values whose predicate is true. -/
  | xcompact
  /-- REBAL (R316). Joint hand-out of counted items to participants. -/
  | rebal
  /-- SSI (R315). Joint segmented inclusive scan. -/
  | ssi
  /-- HACC (R319). Atomically inserts or updates a key in a scratchpad hash table. -/
  | hacc
  /-- HFIND (R320). Atomically looks up a key in a scratchpad hash table. -/
  | hfind
  /-- CALL (R307). Writes a link code offset and branches. -/
  | call
  /-- BEOS (R214). Branches when the thread's EOS bit for a port is set. -/
  | beos
  /-- TRAP (R396). Takes TRAPI with an immediate subcode and an operand. -/
  | trap
  /-- WAITW (R311). Polls a memory word until a comparison holds, then acquires. -/
  | waitw
  /-- SLEEP (R309). Puts the thread to sleep for a count of clocks. -/
  | sleep
  /-- MEETR (R310). Sets or empties the meeting register from registers. -/
  | meetr
  /-- HEART (R351). Marks a beat of the team in its current period. -/
  | heart
  /-- LDS (R168). Loads a handle-width element, optionally from a peer scratchpad. -/
  | lds
  /-- STS (R168). Stores a handle-width element. -/
  | sts
  /-- ATOMS (R170). Performs an atomic operation and returns the old value. -/
  | atoms
  /-- REDS (R171). Performs an atomic reduction returning nothing. -/
  | reds
  /-- LQ (R216). Reserves a row and loads one element per lane into an access-push port. -/
  | lq
  /-- LQG (R216). Reserves rows and gathers whole lines into a line-mode port. -/
  | lqg
  /-- LQL (R216). Reserves rows and loads n consecutive lines into a line-mode port. -/
  | lql
  /-- SQ (R217). Pops a store-stream row and stores each lane at its offset. -/
  | sq
  /-- SQS (R217). Pops a store-stream row and stores it contiguously. -/
  | sqs
  /-- PFX (R218). Prefetches lines into the caches. -/
  | pfx
  /-- LDSC (R219). Reads granule tags. -/
  | ldsc
  /-- STSC (R219). Writes granule tags. -/
  | stsc
  /-- ATQ (R220). Performs per-lane atomics delivering old values to a register or port. -/
  | atq
  /-- REDQ (R220). Pops a store-stream row and performs reductions with it. -/
  | redq
  /-- QBIND (R206). Strip operation binding a port to a queue. -/
  | qbind
  /-- QUNBIND (R208). Strip operation discarding a port's rows and freeing its resources. -/
  | qunbind
  /-- PAT (R209). Strip operation setting one dimension of a pattern engine. -/
  | pat
  /-- PATGO (R210). Strip operation starting a pattern engine over a pattern-source handle. -/
  | patgo
  /-- QSTAT (R211). Reads a position, end or availability of a port. -/
  | qstat
  /-- QSKIP (R212). Makes n discarding pops from a port. -/
  | qskip
  /-- QDRAIN (R212). Pops and discards until the end of a stream. -/
  | qdrain
  /-- QEOS (R213). Strip operation marking the end of a producer port. -/
  | qeos
  /-- COPY (R240). Reads a copy record and starts an asynchronous copy. -/
  | copy
  /-- CSTAT (R242). Waits until incomplete copies are within a limit and acquires their completion. -/
  | cstat
  /-- ARRW_INIT (R244). Sets an arrival word's target and clears its count and errors. -/
  | arrwInit
  /-- ARRW_ADD (R244). Adds bytes to an arrival word as a release. -/
  | arrwAdd
  /-- ARRW_TGT (R244). Raises an arrival word's target and tests completion. -/
  | arrwTgt
  /-- AWAIT (R245). Waits until an arrival word reaches a generation, then acquires. -/
  | await
  /-- SHDW (R247). Opens a shadow pair in the publish table. -/
  | shdw
  /-- PUBL (R248). Publishes a shadow pair by exchanging frames. -/
  | publ
  /-- MSG (R251). Sends one slot to a team's message ring. -/
  | msg
  /-- NRED (R252). Contributes a cell to a cross-cluster reduction round. -/
  | nred
  /-- WDQ (R347). Requests the next tile from the Sieve. -/
  | wdq
  /-- FENCE (R235). Orders accesses of named kinds and classes at a scope. -/
  | fence
  /-- BAR_WAIT (R345). Arrives at a named barrier and waits for its phase. -/
  | barWait
  /-- BAR_ARR (R345). Arrives at a named barrier without waiting. -/
  | barArr
  /-- CBAR (R345). Cohort barrier. -/
  | cbar
  /-- GBAR (R345). Grid barrier of a coresident grid. -/
  | gbar
  /-- SEMS (R327). Sets a semaphore as a release. -/
  | sems
  /-- SEMI (R327). Atomically increments a semaphore as a release. -/
  | semi
  /-- SEMWK (R327). Waits until a semaphore reaches a threshold, then acquires. -/
  | semwk
  /-- MACQ (R125). Acquires the matrix engine or joins its waiting order. -/
  | macq
  /-- MREL (R125). Releases the matrix engine once its queue is empty. -/
  | mrel
  /-- GANG (R125). Writes the team's gang register. -/
  | gang
  /-- MMA (R108). Arrives at the rendezvous latch of a ganged matrix multiply. -/
  | mma
  /-- MLDW (R126). Queues a load of memory into the weight buffer. -/
  | mldw
  /-- MLDT (R126). Queues a load of a tile into the tile store with flags and a record. -/
  | mldt
  /-- MSTT (R126). Queues a store of the tile store to memory. -/
  | mstt
  /-- MLDA (R126). Queues a widening load into accumulator memory. -/
  | mlda
  /-- MSTA (R126). Queues a converting store of accumulator memory. -/
  | msta
  /-- MZERO (R128). Queues zeroing of accumulator rows. -/
  | mzero
  /-- MRD (R128). Reads and converts an accumulator word. -/
  | mrd
  /-- MWR (R128). Writes an accumulator word. -/
  | mwr
  /-- MWAIT (R129). Waits for the team's earlier queued matrix operations. -/
  | mwait
  /-- MCFG (R130). Queues a write of the matrix configuration word. -/
  | mcfg
  /-- TMV (R134). Per-thread matrix-vector product from the BCS. -/
  | tmv
  /-- TMVA (R134). Per-thread matrix-vector product accumulated into y. -/
  | tmva
  /-- TMVT (R134). Per-thread transposed matrix-vector product. -/
  | tmvt
  /-- PLDV (R135). Loads n consecutive BCS words into registers. -/
  | pldv
  /-- PSTB (R136). Copies memory words into the BCS of every core in scope. -/
  | pstb
  /-- RLQ (R261). Loads peer memory into an access-push port. -/
  | rlq
  /-- RLDW (R262). Loads peer memory into a register, parking the thread until the reply. -/
  | rldw
  /-- RST (R263). Stores to peer memory. -/
  | rst
  /-- RFENCE (R265). Orders remote traffic at system scope, including port-load delivery. -/
  | rfence
  /-- LADLE (R285). Begins a Ladle re-sharding plan. -/
  | ladle
  /-- LSTAT (R286). Reads a field of a Ladle progress record as an acquire. -/
  | lstat
  /-- LABORT (R287). Stops a running Ladle plan of this device. -/
  | labort
  /-- LRESUME (R285). Continues a stopped or failed Ladle plan. -/
  | lresume
  /-- RATOM (R264). Performs an atomic at a peer device and returns the old value. -/
  | ratom
  /-- LAUNCH (R333). Reads a launch record, checks it and posts the grid. -/
  | launch
  /-- LAUNCHI (R333). Launches a grid whose cohort count is read from memory. -/
  | launchi
  /-- SEMW (R335). Waits until a semaphore reaches a value, then acquires. -/
  | semw
  /-- SEMSET (R335). Sets a semaphore as a release. -/
  | semset
  /-- SEMINC (R335). Atomically increments a semaphore as a release. -/
  | seminc
  /-- IRQ (R337). Releases at system scope and signals an MSI-X vector. -/
  | irq
  /-- JMPQ (R336). Enters program mode at a queue program. -/
  | jmpq
  /-- CALLQ (R336). Pushes a frame and enters a queue program. -/
  | callq
  /-- RETQ (R336). Pops a frame and resumes in its mode. -/
  | retq
  /-- WAITG (R334). Waits for a grid to complete and acquires its status. -/
  | waitg
  /-- FENCEQ (R337). Full fence of a queue engine at device or system scope. -/
  | fenceq
  /-- HALTQ (R337). Waits for the counters and halts the engine. -/
  | haltq
  /-- KICKQ (R337). Releases and writes another engine's kick. -/
  | kickq
  /-- MOVS_READ (R303). Reads a special register. -/
  | movsRead
  /-- MOVS_WRITE (R303). Clears EOS bits of sr.portstat. -/
  | movsWrite
  /-- RDSYS (R374). Reads a committed system register word. -/
  | rdsys
  /-- WRSYS (R366). Writes or stages a system register word. -/
  | wrsys
  /-- WBR (R375). Fences and writes back dirty sectors of an IA range. -/
  | wbr
  /-- INVR (R376). Invalidates translations and lines of a range and replays parked requests. -/
  | invr
  /-- RESUMET_WREG (R393). Writes a register or predicate of a stopped thread. -/
  | resumetWreg
  /-- RESUMET_RETRY (R393). Resumes a stopped thread at its trapping instruction. -/
  | resumetRetry
  /-- RESUMET_SKIP (R393). Resumes a stopped thread past its trapping instruction. -/
  | resumetSkip
  /-- RESUMET_REPL (R393). Replaces a fault token and resumes the thread. -/
  | resumetRepl
  /-- RESUMET_JUMP (R393). Resumes a stopped thread at a code offset. -/
  | resumetJump
  /-- RESUMET_KILL (R393). Ends a stopped thread as if it exited. -/
  | resumetKill
  /-- KICK (R324). A write of an engine's write pointer, also through the doorbell, wakes it. -/
  | kick
  /-- ENGINE_ENABLE (R323). A write of en = 1 checks the configuration and starts or resumes the engine. -/
  | engineEnable
  /-- ENGINE_DISABLE (R323). A write of en = 0 stops the engine at its next boundary. -/
  | engineDisable
  /-- RING_PACKET (R325). The engine finds a packet with the expected lap bit and runs it. -/
  | ringPacket
  /-- RING_IDLE_TIMEOUT (R324). 1024 clocks after a kick without a valid header the engine sleeps. -/
  | ringIdleTimeout
  /-- REGISTER_WRITE (R4). A host write to a register or table entry with no behaviour of its own. -/
  | registerWrite
  /-- FIRMWARE_PROPOSAL (R339). Firmware writes a proposal of bind records for a cohort. -/
  | firmwareProposal
  /-- DISPATCH_RESERVE (R340). Dispatch takes a proposal and sends RESERVE to its cores. -/
  | dispatchReserve
  /-- RESERVE (R340). A core receives RESERVE and grants or refuses a slot. -/
  | reserve
  /-- RESERVE_ANSWER (R340). Dispatch receives a grant or refusal and commits or backs off. -/
  | reserveAnswer
  /-- COMMIT (R340). A core receives COMMIT and its record becomes bound. -/
  | commit
  /-- RELEASE (R340). A core receives RELEASE and frees its grant. -/
  | release
  /-- BACKOFF_EXPIRY (R341). A backoff delay ends and dispatch sends RESERVE again. -/
  | backoffExpiry
  /-- TEAM_START (R343). After its stagger a committed team starts with its initial state. -/
  | teamStart
  /-- SLOT_FREE (R342). An ending team's record returns to free once its resources return. -/
  | slotFree
  /-- GRID_COMPLETE (R331). A grid completes and its status is released at system scope. -/
  | gridComplete
  /-- STRIP_REGISTER_FREE (R300). A dead strip-register with no pending writes returns to the pool. -/
  | stripRegisterFree
  /-- REGPOOL_STALL (R301). After 256 stalled clocks pool waiters take REGPOOL. -/
  | regpoolStall
  /-- PORT_SLOT_DELIVER (R196). A load reply fills a reserved port slot as data, zeros or a token. -/
  | portSlotDeliver
  /-- PATTERN_ENGINE_STEP (R204). A running pattern engine makes one step of loads or stores. -/
  | patternEngineStep
  /-- DECOUPLE_TIMEOUT (R201). After 2048 clocks with every party blocked on the strip each takes DECOUPLE. -/
  | decoupleTimeout
  /-- STRIP_OPERATION (R207). A strip operation is performed once every live thread has arrived. -/
  | stripOperation
  /-- MEETING_RELEASE (R295). Held threads are released when all named members are held or exited. -/
  | meetingRelease
  /-- JOINT_PERFORM (R313). A complete set of waiting threads performs a joint instruction. -/
  | jointPerform
  /-- BARRIER_PHASE_COMPLETE (R345). A named barrier phase completes and its waiters go on. -/
  | barrierPhaseComplete
  /-- COHORT_BARRIER_RELEASE (R345). Every live thread of the cohort has arrived at CBAR. -/
  | cohortBarrierRelease
  /-- GRID_BARRIER_RELEASE (R345). Every live thread of the grid has arrived at GBAR. -/
  | gridBarrierRelease
  /-- SLEEP_EXPIRY (R309). A sleeping thread's count runs out. -/
  | sleepExpiry
  /-- WAITW_REPOLL (R311). A write to the location or 4096 clocks make WAITW load again. -/
  | waitwRepoll
  /-- SEMAPHORE_WAIT_SATISFIED (R327). A waited semaphore reaches its threshold and the wait completes. -/
  | semaphoreWaitSatisfied
  /-- SLICE_REQUEST (R378). A slice takes a request of its domain. -/
  | sliceRequest
  /-- REPLAY_REINJECT (R378). A requester receives NACK-REPLAY and re-injects with the current generation. -/
  | replayReinject
  /-- WALK_REQUEST (R148). A walk unit walks the page table and checks the access at the memory side. -/
  | walkRequest
  /-- FAULT_RECORD_POST (R152). A held fault record is written to the fault ring once it has room. -/
  | faultRecordPost
  /-- MEMORY_REPLY (R161). A memory reply returns to the requester with the sixth check's result. -/
  | memoryReply
  /-- STORE_ACK (R231). A store is performed or acknowledged and its counter decrements. -/
  | storeAck
  /-- DOMAIN_SWITCH_COMPLETE (R378). Every slice has drained a domain switch, busy clears and WRSYS completes. -/
  | domainSwitchComplete
  /-- CXL_MEM_ACCESS (R379). A host CXL.mem access arrives and is performed at the owning slice. -/
  | cxlMemAccess
  /-- BACK_INVALIDATE_RESPONSE (R379). The host answers a back-invalidate snoop and the device write proceeds. -/
  | backInvalidateResponse
  /-- PUBL_EXCHANGE (R248). Once both leaves are valid the memory side exchanges target and shadow frames. -/
  | publExchange
  /-- COPY_PROGRESS (R240). A copy engine performs elements and adds arrival bytes. -/
  | copyProgress
  /-- COPY_COMPLETE (R241). A copy completes with its arrival addition and status write. -/
  | copyComplete
  /-- MSG_ARRIVAL (R251). The receiving network interface checks a message. -/
  | msgArrival
  /-- MSG_DELIVER (R251). Once the ring has room the message is written and tail advances. -/
  | msgDeliver
  /-- NRED_CONTRIBUTION (R253). A slice takes a contribution and completes the round when N have arrived. -/
  | nredContribution
  /-- WDQ_ANSWER (R347). The Sieve answers a request with a tile, an end token or 0x8A. -/
  | wdqAnswer
  /-- ENGINE_GRANT (R104). The matrix engine passes to the first waiting team, cleared across contexts. -/
  | engineGrant
  /-- LATCH_RELEASE (R108). Every gang thread has arrived and the MMA enters the queue. -/
  | latchRelease
  /-- MMA_CHUNK_COMMIT (R121). A chunk of an MMA commits its accumulator words and pops its lines. -/
  | mmaChunkCommit
  /-- MMA_COMPLETE (R120). An MMA completes and its gang retires it, the leader taking any FPE. -/
  | mmaComplete
  /-- MATRIX_QUEUE_OP (R106). A queued MZERO or MCFG acts on the engine in queue order. -/
  | matrixQueueOp
  /-- MATRIX_TRANSFER_COMPLETE (R126). A matrix transfer completes and writes its status word. -/
  | matrixTransferComplete
  /-- KETTLE_BEAT_PERIOD (R349). A beat period of a persistent team ends and misses are counted. -/
  | kettleBeatPeriod
  /-- KETTLE_IDLE_LIMIT (R349). A non-persistent team retires nothing in 2^24 active clocks. -/
  | kettleIdleLimit
  /-- KETTLE_FIRE (R350). The Kettle pre-empts a hung team's context and reports HUNG. -/
  | kettleFire
  /-- MESSAGE_PROBE_TIMEOUT (R354). A message packet blocked 4096 clocks sends a probe. -/
  | messageProbeTimeout
  /-- ESCAPE_STEP (R354). A returned probe advances every packet of the cycle one hop. -/
  | escapeStep
  /-- TRAP_RECORD_POST (R387). A held trap record is written to the trap ring once it has room. -/
  | trapRecordPost
  /-- RANGE_REGISTER_COMMIT (R366). A write of word 0 commits a range register in every issuing unit. -/
  | rangeRegisterCommit
  /-- DOMAIN_COMMIT (R377). A write of word 8 commits an interleave domain and starts a switch. -/
  | domainCommit
  /-- EXPORT_COMMIT (R367). A write of word 0 commits an export entry. -/
  | exportCommit
  /-- PTROOT_WRITE (R361). Supervisor writes the partition's page-table root. -/
  | ptrootWrite
  /-- CONTEXT_CREATE (R368). A write of v = 1 creates a context. -/
  | contextCreate
  /-- CONTEXT_DESTROY (R368). A write of v = 0 destroys a context. -/
  | contextDestroy
  /-- FAULT_RING_SET (R368). A write of context word 1 places the fault ring. -/
  | faultRingSet
  /-- FRHEAD_WRITE (R368). Software consumes fault records, freeing ring room. -/
  | frheadWrite
  /-- TRAP_RING_SET (R390). A write of context word 3 places the trap ring. -/
  | trapRingSet
  /-- TRHEAD_WRITE (R387). Software consumes trap records, freeing ring room. -/
  | trheadWrite
  /-- SAVE_AREA_SET (R390). A write of context word 6 places the save area. -/
  | saveAreaSet
  /-- PREEMPT_REQUEST (R398). A write of preq = 1 starts pre-emption of a running context. -/
  | preemptRequest
  /-- SAVE_COMPLETE (R399). Every unit has halted, the save area is written and cstate becomes saved. -/
  | saveComplete
  /-- LATE_REPLY (R401). A reply for a non-running context is logged or discarded. -/
  | lateReply
  /-- RESTORE_REQUEST (R404). A write of rreq = 1 checks the save area and starts a restore. -/
  | restoreRequest
  /-- RESTORE_COMPLETE (R404). The last team is admitted, logs applied, and the context runs. -/
  | restoreComplete
  /-- CONTEXT_KILL (R395). A write of kill = 1 stops every unit of the context. -/
  | contextKill
  /-- KILL_COMPLETE (R395). No access of the killed context remains and cstate reads 5. -/
  | killComplete
  /-- CONTROL_STATE_ERROR (R408). An uncorrectable control-state error fails the owning context. -/
  | controlStateError
  /-- PATROL_SCRUB (R405). The patrol reads HBM sectors and rewrites corrected ones. -/
  | patrolScrub
  /-- COUNTER_FLUSH (R412). Every 60 seconds or on a major event the counters are flushed. -/
  | counterFlush
  /-- POWER_THROTTLE (R421). The power controller withholds issue slots to hold pnow at plimit. -/
  | powerThrottle
  /-- FLIT_RECEIVE (R410). A receiver decodes a flit with p0-p7 and delivers or holds it. -/
  | flitReceive
  /-- PARITY_ARRIVAL (R410). Requested parity symbols arrive and the held flit is decoded again. -/
  | parityArrival
  /-- FLIT_REPLAY_ARRIVAL (R410). A replayed flit arrives and is treated as received. -/
  | flitReplayArrival
  /-- FLIT_RECOVERY_TIMEOUT (R410). No answer within 1024 clocks and a replay is asked for. -/
  | flitRecoveryTimeout
  /-- PARITY_REQUEST (R410). A sender receives a request for further parity symbols and sends them. -/
  | parityRequest
  /-- REPLAY_REQUEST (R410). A sender receives a replay request and resends from its buffer. -/
  | replayRequest
  /-- FLIT_ACK (R409). A cumulative acknowledgement frees the sender's replay buffer. -/
  | flitAck
  /-- LINK_TRAINING (R419). A link finishes training at width 8, width 4 or stays down. -/
  | linkTraining
  /-- LINK_TRAIN_RETRY (R419). A down link is tried again each second. -/
  | linkTrainRetry
  /-- FABRIC_PACKET_FORWARD (R269). A device forwards a fabric packet or answers no-route. -/
  | fabricPacketForward
  /-- REMOTE_REQUEST_ARRIVAL (R256). A target checks export, walks and performs a remote request. -/
  | remoteRequestArrival
  /-- PARK_NOTICE (R257). A requester receives a park notice and parks its request. -/
  | parkNotice
  /-- REMOTE_REPLY (R261). A remote reply arrives at the requester. -/
  | remoteReply
  /-- REMOTE_TIMEOUT (R266). A remote request with no reply or notice after 4,194,304 clocks fails. -/
  | remoteTimeout
  /-- SCALE_OUT_RMA (R274). RMA arriving through the Ethernet endpoint is checked and performed. -/
  | scaleOutRma
  /-- LADLE_CHUNK_ARRIVAL (R282). A receiver's Ladle writes or discards a chunk and answers. -/
  | ladleChunkArrival
  /-- LADLE_CHUNK_ANSWER (R282). A sender receives busy, mismatch or acknowledge for a chunk. -/
  | ladleChunkAnswer
  /-- LADLE_BUSY_RETRY (R282). A busy chunk's backoff ends and it is sent again. -/
  | ladleBusyRetry
  /-- LADLE_DONE (R283). The coordinator receives done and sends commit once all have reported. -/
  | ladleDone
  /-- LADLE_COMMIT (R283). A device receives commit, publishes and answers published. -/
  | ladleCommit
  /-- LADLE_PUBLISHED (R283). The coordinator receives published and sends finished once all have. -/
  | ladlePublished
  /-- LADLE_FINISHED (R283). A device receives finished, sets state 4 and writes its status. -/
  | ladleFinished
  /-- FABRIC_ID_WRITE (R272). A write of the fabric id register; valid = 1 enters stage 6. -/
  | fabricIdWrite
  /-- POWER_GOOD (R414). Power-good starts the boot ROM checking the firmware image slots. -/
  | powerGood
  /-- FIRMWARE_START (R414). Management firmware starts and loads the counters. -/
  | firmwareStart
  /-- HBM_TRAINING_DONE (R414). HBM training of the enabled stacks ends. -/
  | hbmTrainingDone
  /-- CXL_TRAINING_DONE (R414). CXL link training ends. -/
  | cxlTrainingDone
  /-- UMTUR_TRAINING_DONE (R414). Umtur training ends and the route window becomes writable. -/
  | umturTrainingDone
  /-- STAGE_TIMEOUT (R414). A stage passes its bound and sets stage 15 with an error code. -/
  | stageTimeout
  /-- REPORT_CATALOGUE (R417). Mailbox command 0x01 reports the counter catalogue. -/
  | reportCatalogue
  /-- PARTITION_CREATE (R417). Mailbox command 0x02 creates or changes a partition. -/
  | partitionCreate
  /-- PARTITION_DESTROY (R417). Mailbox command 0x03 destroys a partition. -/
  | partitionDestroy
  /-- DECODER_PROGRAM (R417). Mailbox command 0x04 programs a CXL.mem decoder. -/
  | decoderProgram
  /-- IDE_REQUIRE (R417). Mailbox command 0x05 requires or releases CXL IDE. -/
  | ideRequire
  /-- IMAGE_WRITE (R417). Mailbox command 0x10 writes a firmware image to the idle slot. -/
  | imageWrite
  /-- LINK_RETRAIN (R417). Mailbox command 0x11 retrains an Umtur link. -/
  | linkRetrain
  /-- POWER_LOSS (R412). Module power is removed, by orderly power-down or suddenly, and every state of the part is lost. -/
  | powerLoss
  /-- LINK_CREDIT_RETURN (R270). A link credit for a class and channel returns to the sender, and a packet or flit waiting for it is sent.
  -/
  | linkCreditReturn
  /-- PSTB_COMPLETE (R136). A PSTB finishes writing the BCS of every core in scope and writes its status word, 0x00 or 0x8B, as a release.
  -/
  | pstbComplete
  /-- SHDW_COMPLETE (R247). A SHDW obtains its publish-table entry and finishes any seed fill, then writes its status as a release. -/
  | shdwComplete
  /-- DOE_REQUEST (R382). An SPDM or IDE_KM request arriving over CXL DOE is answered, returning measurements or setting IDE keys. -/
  | doeRequest
  /-- UNKNOWN_COMMAND (R416). A write of mcmd with a value the mailbox does not know sets mcode to 3. -/
  | unknownCommand
  /-- FID_EXCHANGE (R419). A link receives its partner's fabric id, and lstat's partner fid and the link's not-ready-only state update. -/
  | fidExchange
  deriving DecidableEq, Repr

/-- What names one occurrence of a machine event: which engine, request, thread or message it concerns, and what arrives
from outside with it. An event of spec/95_what_each_step_holds.md reads the shape its meaning names; with another shape
nothing occurs. -/
inductive Occ where
  /-- Nothing: an instruction, or an event that needs no name. -/
  | none
  /-- One number: an engine, a request, a team, a core, a context, a link, an operation. -/
  | num (n : Nat)
  /-- Two numbers, as each event says. -/
  | num2 (m n : Nat)
  /-- Three numbers, as each event says. -/
  | num3 (l m n : Nat)
  /-- Some numbers. -/
  | nums (ns : List Nat)
  /-- A 64-bit value written to a unit. -/
  | write (n : Nat) (v : W64)
  /-- A host write of a BAR window at an offset, with its size in bytes (R416). -/
  | reg (bar off size : Nat) (v : W64)
  /-- An issuing unit. -/
  | unit (u : Agent)
  /-- Firmware's proposal for a grid (R339). -/
  | proposal (gid : Nat) (place : List Placement)
  /-- A CXL.mem access of the host (R379). -/
  | cxl (acc : CxlAccess)
  /-- A patrol read of a sector (R405). -/
  | scrub (sector : Nat) (found : ScrubResult)
  /-- A link's training result (R419). -/
  | lanes (link : Nat) (l : LaneResult)
  /-- A packet of the fabric (R256, R269). -/
  | packet (p : Packet)
  /-- A packet in transit that is no request (R269). -/
  | transit (t : Transit)
  /-- A reply of a peer device to request req (R261). -/
  | remote (req : Nat) (res : RemoteResult)
  /-- A Ladle chunk (R282): its bytes, and the numbers of its poisoned elements. -/
  | chunk (src : Nat) (tag digest : W64) (index : Nat) (data : List Byte) (bad : List Nat)
  /-- A Ladle receiver's answer for a chunk of a plan slot (R282). -/
  | answer (slot index : Nat) (ans : LadleAnswer)
  /-- A Ladle message that names a plan by its tag (R283). -/
  | ladle (src : Nat) (tag : W64)
  /-- The counts firmware reports (R413). -/
  | report (r : BringUp)
  /-- One outcome. -/
  | flag (b : Bool)
  /-- Two outcomes. -/
  | flags (a b : Bool)
  /-- A firmware image (R417). -/
  | image (i : FwImage)
  /-- A flit of a link (R410): its number, its erroneous symbols, its class times 8 plus channel, and the packet it carries as the
  arrival that its delivery brings about. -/
  | flit (link seq errs ch : Nat) (row : Instr) (o : Occ)
  /-- A DOE request (R380). -/
  | doe (r : DoeRequest)
  deriving DecidableEq, Repr

/-- One instruction as it stands in memory: its row of the table and its operands (R26-R29). -/
structure Insn where
  op   : Instr
  args : Ops
  deriving DecidableEq, Repr

end Sys2Proof
end

