-- ==== Sys2Proof/Machine/Shapes.lean ====
section
/-! DEFINITION. The encoding table (R26-R50 and each instruction's entry): for every opcode the sides it runs on, what each
field holds, whether it takes a literal and what x8 carries; and the constructor each encoding stands for. Decode and
encode are both written over this table. -/

namespace Sys2Proof

/-- Which register names a field accepts, by side (R34-R37, R82, and each entry). E, A, Q abbreviate the sides. -/
inductive RegSet where
  /-- E g, k, q; A a, s, k, q; Q w. -/
  | any
  /-- As any, but on E an even g, k0 or q (a pair operand, R37). -/
  | pair
  /-- E g, k, q; A s, k; Q w. -/
  | scal
  /-- A s alone (MOVP.put, R92). -/
  | sonly
  /-- E even g, k0, q; A s, k. -/
  | scalPair
  /-- E g, k; A s, k; Q w: a field that names no port. -/
  | plain
  /-- E g, k0 (the count of BAR, R344). -/
  | gk0
  /-- E even g, k0 (member masks, R312). -/
  | mask
  /-- E g alone. -/
  | gonly
  /-- A a alone. -/
  | vec
  /-- A a, q. -/
  | vecPort
  /-- E g, q; A a, s, and q is a non-zero must-be-zero field there (R164). -/
  | vecScal
  /-- As vecScal, a pair on E. -/
  | vecScalPair
  /-- A a, s. -/
  | vecScalR
  /-- As any, a pair under x8 bit 4 (R312). -/
  | wide
  /-- As any, a pair when x8[7:4] names a 64-bit format (R99). -/
  | fmtHi
  /-- As any, a pair when x8[3:0] names a 64-bit format (R99). -/
  | fmtLo
  /-- As any, a pair on E under x8 bit 0 (MOVI, R92). -/
  | movi
  /-- The place register of a space 2 access: as any (R145). -/
  | place
  deriving DecidableEq, Repr

/-- What a field of an encoding holds. -/
inductive Kind where
  | zero
  | dst (r : RegSet)
  | src (r : RegSet)
  /-- A source whose last-read mark the encoding fixes at zero (R167). -/
  | srcU (r : RegSet)
  /-- A predicate or mask number (R38). -/
  | pred
  /-- A port that is the object of the instruction (R205). -/
  | obj
  /-- An immediate with the bits it may set. -/
  | imm (mask : Nat)
  /-- The shift amount of R84. -/
  | i5
  /-- The signed 7-bit immediate of R84. -/
  | i7
  /-- The word offset of R32. -/
  | off
  /-- MOVP: by side and direction (R92). -/
  | movp
  /-- XPOLL d: a predicate, or a pair under .mask (R312). -/
  | xpoll
  /-- The compare field: a source for CAS, else zero (R220, R264). -/
  | cas
  /-- COPY d: a status register, zero under .ns (R237). -/
  | copyd
  /-- RFENCE b: a scalar source or a literal under .one, else zero (R260). -/
  | rfb
  /-- MOVS d and a by direction (R303). -/
  | movsd
  | movsa
  /-- RESUMET b: a value for .wreg, .repl and .jump, else zero (R392). -/
  | rsb
  deriving DecidableEq, Repr

/-- Whether a 96-bit form exists (R29). -/
inductive LitRule where
  | no
  | ok
  | need
  /-- MOVP: only .put on the execute side has an operand b. -/
  | movp
  /-- RFENCE: only .one has an operand b (R260). -/
  | rfence
  deriving DecidableEq, Repr

/-- What x8 carries (R31 and each entry). -/
inductive X8 where
  | zero
  /-- Any value: a handle index, a truth table, an immediate. -/
  | any
  /-- A rounding mode (R68). -/
  | rm
  | mask (m : Nat)
  | fclass
  | fchk
  | i2f
  | f2i
  | fcvt
  | mma
  | mrd
  | mwr
  | icmp
  | fcmp
  /-- LANE reductions: operation code in [3:0] within the mask (R312). -/
  | lane (m : Nat)
  | hacc
  | qbind
  | movi
  | scope
  | scopeQ
  | movs
  | resumet
  deriving DecidableEq, Repr

/-- The sides an instruction is valid on (R47, R48). -/
structure Sides where
  e : Bool
  a : Bool
  q : Bool
  deriving DecidableEq, Repr

/-- One row of the encoding table. -/
structure Row where
  sides : Sides
  d     : Kind
  a     : Kind
  b     : Kind
  c     : Kind
  lit   : LitRule
  x8    : X8
  deriving DecidableEq, Repr

/-- The row of a compact major (R46, R47, and the entry of each instruction). -/
def compactRow (op : Nat) : Option Row :=
  match op with
  | 0x01 => some ⟨⟨true, true, true⟩, .dst .any, .src .any, .zero, .zero, .no, .zero⟩ -- mov
  | 0x02 => some ⟨⟨true, true, true⟩, .dst .any, .src .any, .src .any, .zero, .ok, .zero⟩ -- iadd
  | 0x03 => some ⟨⟨true, true, true⟩, .dst .any, .src .any, .src .any, .zero, .ok, .zero⟩ -- isub
  | 0x04 => some ⟨⟨true, true, true⟩, .dst .any, .src .any, .src .any, .zero, .ok, .zero⟩ -- imul
  | 0x05 => some ⟨⟨true, true, true⟩, .dst .any, .src .any, .src .any, .zero, .ok, .zero⟩ -- imulh
  | 0x06 => some ⟨⟨true, true, true⟩, .dst .any, .src .any, .src .any, .zero, .ok, .zero⟩ -- imulhu
  | 0x07 => some ⟨⟨true, true, true⟩, .dst .any, .src .any, .src .any, .zero, .ok, .zero⟩ -- imin
  | 0x08 => some ⟨⟨true, true, true⟩, .dst .any, .src .any, .src .any, .zero, .ok, .zero⟩ -- imax
  | 0x09 => some ⟨⟨true, true, true⟩, .dst .any, .src .any, .src .any, .zero, .ok, .zero⟩ -- umin
  | 0x0A => some ⟨⟨true, true, true⟩, .dst .any, .src .any, .src .any, .zero, .ok, .zero⟩ -- umax
  | 0x0B => some ⟨⟨true, true, true⟩, .dst .any, .src .any, .src .any, .zero, .ok, .zero⟩ -- and
  | 0x0C => some ⟨⟨true, true, true⟩, .dst .any, .src .any, .src .any, .zero, .ok, .zero⟩ -- or
  | 0x0D => some ⟨⟨true, true, true⟩, .dst .any, .src .any, .src .any, .zero, .ok, .zero⟩ -- xor
  | 0x0E => some ⟨⟨true, true, true⟩, .dst .any, .src .any, .src .any, .zero, .ok, .zero⟩ -- andn
  | 0x0F => some ⟨⟨true, true, true⟩, .dst .any, .src .any, .src .any, .zero, .ok, .zero⟩ -- shl
  | 0x10 => some ⟨⟨true, true, true⟩, .dst .any, .src .any, .src .any, .zero, .ok, .zero⟩ -- shr
  | 0x11 => some ⟨⟨true, true, true⟩, .dst .any, .src .any, .src .any, .zero, .ok, .zero⟩ -- sar
  | 0x12 => some ⟨⟨true, true, true⟩, .dst .any, .src .any, .i5, .zero, .ok, .zero⟩ -- shli
  | 0x13 => some ⟨⟨true, true, true⟩, .dst .any, .src .any, .i5, .zero, .ok, .zero⟩ -- shri
  | 0x14 => some ⟨⟨true, true, true⟩, .dst .any, .src .any, .i5, .zero, .ok, .zero⟩ -- sari
  | 0x15 => some ⟨⟨true, true, true⟩, .dst .any, .src .any, .src .any, .zero, .ok, .zero⟩ -- rotl
  | 0x16 => some ⟨⟨true, true, true⟩, .dst .any, .src .any, .zero, .zero, .no, .zero⟩ -- popc
  | 0x17 => some ⟨⟨true, true, true⟩, .dst .any, .src .any, .zero, .zero, .no, .zero⟩ -- clz
  | 0x18 => some ⟨⟨true, true, true⟩, .dst .any, .src .any, .zero, .zero, .no, .zero⟩ -- brev
  | 0x19 => some ⟨⟨true, true, true⟩, .dst .any, .src .any, .zero, .zero, .no, .zero⟩ -- iabs
  | 0x1A => some ⟨⟨true, true, true⟩, .dst .any, .src .any, .zero, .zero, .no, .zero⟩ -- ineg
  | 0x1B => some ⟨⟨true, true, true⟩, .dst .any, .src .any, .i7, .zero, .ok, .zero⟩ -- iaddi
  | 0x1C => some ⟨⟨true, true, true⟩, .dst .any, .src .any, .src .any, .zero, .ok, .zero⟩ -- sh2add
  | 0x1D => some ⟨⟨true, true, true⟩, .dst .any, .src .any, .src .any, .zero, .ok, .zero⟩ -- sh3add
  | 0x1E => some ⟨⟨true, true, true⟩, .dst .any, .src .any, .src .any, .zero, .ok, .zero⟩ -- pack2
  | 0x20 => some ⟨⟨true, false, false⟩, .dst .any, .src .any, .src .any, .zero, .ok, .rm⟩ -- fadd
  | 0x21 => some ⟨⟨true, false, false⟩, .dst .any, .src .any, .src .any, .zero, .ok, .rm⟩ -- fsub
  | 0x22 => some ⟨⟨true, false, false⟩, .dst .any, .src .any, .src .any, .zero, .ok, .rm⟩ -- fmul
  | 0x23 => some ⟨⟨true, false, false⟩, .dst .any, .src .any, .src .any, .zero, .ok, .zero⟩ -- fmin
  | 0x24 => some ⟨⟨true, false, false⟩, .dst .any, .src .any, .src .any, .zero, .ok, .zero⟩ -- fmax
  | 0x25 => some ⟨⟨true, false, false⟩, .dst .any, .src .any, .zero, .zero, .no, .zero⟩ -- fabs
  | 0x26 => some ⟨⟨true, false, false⟩, .dst .any, .src .any, .zero, .zero, .no, .zero⟩ -- fneg
  | 0x27 => some ⟨⟨true, false, false⟩, .dst .any, .src .any, .zero, .zero, .no, .zero⟩ -- frcp
  | 0x28 => some ⟨⟨true, false, false⟩, .dst .any, .src .any, .zero, .zero, .no, .zero⟩ -- frsq
  | 0x29 => some ⟨⟨true, false, false⟩, .dst .any, .src .any, .zero, .zero, .no, .rm⟩ -- fsqrt
  | 0x2A => some ⟨⟨true, false, false⟩, .dst .any, .src .any, .zero, .zero, .no, .zero⟩ -- fexp2
  | 0x2B => some ⟨⟨true, false, false⟩, .dst .any, .src .any, .zero, .zero, .no, .zero⟩ -- flog2
  | 0x2C => some ⟨⟨true, false, false⟩, .dst .any, .src .any, .zero, .zero, .no, .zero⟩ -- fsinpi
  | 0x2D => some ⟨⟨true, false, false⟩, .dst .any, .src .any, .zero, .zero, .no, .zero⟩ -- fcospi
  | 0x2E => some ⟨⟨true, false, false⟩, .dst .any, .src .any, .zero, .zero, .no, .zero⟩ -- ftanh
  | 0x2F => some ⟨⟨true, false, false⟩, .dst .any, .src .any, .zero, .zero, .no, .fclass⟩ -- fclass
  | 0x30 => some ⟨⟨true, false, false⟩, .dst .any, .src .any, .src .any, .zero, .ok, .rm⟩ -- hadd2
  | 0x31 => some ⟨⟨true, false, false⟩, .dst .any, .src .any, .src .any, .zero, .ok, .rm⟩ -- hmul2
  | 0x32 => some ⟨⟨true, false, false⟩, .dst .any, .src .any, .src .any, .zero, .ok, .rm⟩ -- badd2
  | 0x33 => some ⟨⟨true, false, false⟩, .dst .any, .src .any, .src .any, .zero, .ok, .rm⟩ -- bmul2
  | 0x34 => some ⟨⟨true, false, false⟩, .dst .fmtHi, .src .fmtLo, .zero, .zero, .no, .i2f⟩ -- i2f
  | 0x35 => some ⟨⟨true, false, false⟩, .dst .fmtHi, .src .fmtLo, .zero, .zero, .no, .f2i⟩ -- f2i
  | 0x36 => some ⟨⟨true, false, false⟩, .dst .any, .src .any, .zero, .zero, .no, .rm⟩ -- ffrac
  | 0x37 => some ⟨⟨true, false, false⟩, .dst .any, .src .any, .zero, .zero, .no, .zero⟩ -- ffloor
  | 0x38 => some ⟨⟨true, false, false⟩, .dst .any, .src .any, .zero, .zero, .no, .zero⟩ -- fceil
  | 0x39 => some ⟨⟨true, false, false⟩, .dst .any, .src .any, .zero, .zero, .no, .rm⟩ -- frint
  | 0x3A => some ⟨⟨true, false, false⟩, .dst .any, .src .any, .src .any, .zero, .ok, .rm⟩ -- fscale
  | 0x3C => some ⟨⟨true, true, true⟩, .off, .off, .off, .zero, .ok, .zero⟩ -- bra
  | 0x3D => some ⟨⟨true, true, true⟩, .zero, .src .scal, .src .scal, .zero, .ok, .zero⟩ -- brx
  | 0x3E => some ⟨⟨true, true, true⟩, .zero, .src .scal, .zero, .zero, .no, .zero⟩ -- ret
  | 0x3F => some ⟨⟨true, true, true⟩, .zero, .zero, .zero, .zero, .no, .zero⟩ -- exit
  | 0x40 => some ⟨⟨true, false, false⟩, .zero, .zero, .zero, .zero, .no, .zero⟩ -- yield
  | 0x41 => some ⟨⟨true, false, false⟩, .off, .off, .off, .zero, .ok, .zero⟩ -- meet
  | 0x42 => some ⟨⟨true, true, true⟩, .zero, .zero, .zero, .zero, .no, .zero⟩ -- nop
  | 0x43 => some ⟨⟨true, true, false⟩, .zero, .zero, .zero, .zero, .no, .zero⟩ -- bkpt
  | 0x50 => some ⟨⟨true, true, false⟩, .dst .any, .zero, .srcU .any, .zero, .ok, .any⟩ -- ldsW
  | 0x51 => some ⟨⟨true, true, false⟩, .zero, .src .any, .srcU .any, .zero, .ok, .any⟩ -- stsW
  | 0x52 => some ⟨⟨true, true, false⟩, .dst .pair, .zero, .srcU .any, .zero, .ok, .any⟩ -- ldsD
  | 0x53 => some ⟨⟨true, true, false⟩, .zero, .src .pair, .srcU .any, .zero, .ok, .any⟩ -- stsD
  | 0x54 => some ⟨⟨true, false, false⟩, .dst .any, .src .any, .src .any, .zero, .ok, .zero⟩ -- pld
  | _ => none

/-- The rows of wide major 0x60 INTW by sub-opcode (R48). FLUT, whose operand b is a predicate and takes no literal (R29), has no 96-bit form
(DEDUCED, entry 53). -/
def intwRow (sub : Nat) : Option Row :=
  match sub with
  | 0x00 => some ⟨⟨true, true, false⟩, .dst .any, .src .any, .src .any, .src .any, .ok, .zero⟩ -- imad
  | 0x01 => some ⟨⟨true, true, true⟩, .dst .pair, .src .any, .src .any, .src .pair, .ok, .mask 1⟩ -- imad64
  | 0x02 => some ⟨⟨true, true, true⟩, .dst .pair, .src .pair, .src .pair, .zero, .ok, .zero⟩ -- iadd64
  | 0x03 => some ⟨⟨true, true, true⟩, .dst .pair, .src .pair, .src .pair, .zero, .ok, .zero⟩ -- isub64
  | 0x04 => some ⟨⟨true, true, false⟩, .dst .pair, .src .any, .src .any, .zero, .ok, .mask 1⟩ -- imulw
  | 0x05 => some ⟨⟨true, true, false⟩, .pred, .src .any, .src .any, .pred, .ok, .icmp⟩ -- icmpf
  | 0x06 => some ⟨⟨true, true, false⟩, .dst .any, .src .any, .src .any, .pred, .ok, .zero⟩ -- pick
  | 0x07 => some ⟨⟨true, true, true⟩, .dst .any, .src .any, .src .any, .zero, .ok, .mask 1⟩ -- bfget
  | 0x08 => some ⟨⟨true, true, true⟩, .dst .any, .src .any, .src .any, .src .any, .ok, .zero⟩ -- bfput
  | 0x09 => some ⟨⟨true, true, false⟩, .dst .any, .src .any, .src .any, .src .any, .ok, .zero⟩ -- bysel
  | 0x0A => some ⟨⟨true, true, false⟩, .dst .any, .src .any, .src .any, .zero, .ok, .zero⟩ -- idiv
  | 0x0B => some ⟨⟨true, true, false⟩, .dst .any, .src .any, .src .any, .zero, .ok, .zero⟩ -- udiv
  | 0x0C => some ⟨⟨true, true, false⟩, .dst .any, .src .any, .src .any, .zero, .ok, .zero⟩ -- irem
  | 0x0D => some ⟨⟨true, true, false⟩, .dst .any, .src .any, .src .any, .zero, .ok, .zero⟩ -- urem
  | 0x0E => some ⟨⟨true, true, false⟩, .dst .any, .src .any, .src .any, .src .any, .ok, .mask 1⟩ -- isad
  | 0x0F => some ⟨⟨true, true, true⟩, .dst .movi, .zero, .zero, .zero, .need, .movi⟩ -- movi
  | 0x10 => some ⟨⟨true, true, false⟩, .dst .any, .src .any, .src .any, .src .any, .ok, .mask 1⟩ -- funnel
  | 0x11 => some ⟨⟨true, true, false⟩, .dst .any, .src .any, .src .any, .zero, .ok, .mask 1⟩ -- iadds
  | 0x12 => some ⟨⟨true, true, false⟩, .dst .any, .src .any, .src .any, .zero, .ok, .mask 1⟩ -- isubs
  | 0x13 => some ⟨⟨true, true, false⟩, .movp, .movp, .movp, .zero, .movp, .mask 1⟩ -- movpGet/movpPut
  | 0x14 => some ⟨⟨true, true, false⟩, .pred, .pred, .pred, .pred, .no, .any⟩ -- flut
  | _ => none

/-- The rows of wide major 0x61 FPW by sub-opcode (R48). -/
def fpwRow (sub : Nat) : Option Row :=
  match sub with
  | 0x00 => some ⟨⟨true, false, false⟩, .dst .any, .src .any, .src .any, .src .any, .ok, .rm⟩ -- ffma
  | 0x01 => some ⟨⟨true, false, false⟩, .pred, .src .any, .src .any, .pred, .ok, .fcmp⟩ -- fcmpf
  | 0x02 => some ⟨⟨true, false, false⟩, .dst .any, .src .any, .src .any, .zero, .ok, .rm⟩ -- fdiv
  | 0x03 => some ⟨⟨true, false, false⟩, .dst .pair, .src .pair, .src .pair, .zero, .ok, .rm⟩ -- dadd
  | 0x04 => some ⟨⟨true, false, false⟩, .dst .pair, .src .pair, .src .pair, .zero, .ok, .rm⟩ -- dsub
  | 0x05 => some ⟨⟨true, false, false⟩, .dst .pair, .src .pair, .src .pair, .zero, .ok, .rm⟩ -- dmul
  | 0x08 => some ⟨⟨true, false, false⟩, .dst .pair, .src .pair, .src .pair, .zero, .ok, .rm⟩ -- ddiv
  | 0x06 => some ⟨⟨true, false, false⟩, .dst .pair, .src .pair, .src .pair, .src .pair, .ok, .rm⟩ -- dfma
  | 0x07 => some ⟨⟨true, false, false⟩, .pred, .src .pair, .src .pair, .pred, .ok, .fcmp⟩ -- dcmpf
  | 0x09 => some ⟨⟨true, false, false⟩, .dst .pair, .src .pair, .zero, .zero, .no, .rm⟩ -- dsqrt
  | 0x0A => some ⟨⟨true, false, false⟩, .dst .pair, .src .pair, .src .pair, .zero, .ok, .zero⟩ -- dmin
  | 0x0B => some ⟨⟨true, false, false⟩, .dst .pair, .src .pair, .src .pair, .zero, .ok, .zero⟩ -- dmax
  | 0x0C => some ⟨⟨true, false, false⟩, .dst .any, .src .pair, .zero, .zero, .no, .zero⟩ -- dclass
  | 0x0D => some ⟨⟨true, false, false⟩, .dst .any, .src .any, .src .any, .src .any, .ok, .rm⟩ -- hfma2
  | 0x0E => some ⟨⟨true, false, false⟩, .dst .any, .src .any, .src .any, .src .any, .ok, .rm⟩ -- bfma2
  | 0x0F => some ⟨⟨true, false, false⟩, .dst .fmtHi, .src .fmtLo, .zero, .zero, .no, .fcvt⟩ -- fcvt
  | 0x10 => some ⟨⟨true, false, false⟩, .pred, .src .fmtLo, .zero, .zero, .no, .fchk⟩ -- fchk
  | _ => none

/-- The rows of wide major 0x62 LANE by sub-opcode (R48). -/
def laneRow (sub : Nat) : Option Row :=
  match sub with
  | 0x00 => some ⟨⟨true, false, false⟩, .dst .wide, .src .wide, .src .any, .src .mask, .ok, .mask 0x13⟩ -- xshuf
  | 0x01 => some ⟨⟨true, false, false⟩, .dst .wide, .src .wide, .zero, .src .mask, .no, .mask 0x10⟩ -- xbcast
  | 0x02 => some ⟨⟨true, false, false⟩, .xpoll, .pred, .zero, .src .mask, .no, .mask 3⟩ -- xpoll
  | 0x03 => some ⟨⟨true, false, false⟩, .dst .wide, .src .wide, .zero, .src .mask, .no, .lane 0x1F⟩ -- xred
  | 0x04 => some ⟨⟨true, false, false⟩, .dst .wide, .src .wide, .zero, .src .mask, .no, .lane 0x3F⟩ -- xscan
  | 0x05 => some ⟨⟨true, false, false⟩, .dst .pair, .src .wide, .zero, .src .mask, .no, .mask 0x10⟩ -- xmatch
  | 0x06 => some ⟨⟨true, false, false⟩, .zero, .zero, .zero, .src .mask, .no, .zero⟩ -- xsync
  | 0x07 => some ⟨⟨true, false, false⟩, .dst .wide, .src .wide, .pred, .src .mask, .no, .mask 0x10⟩ -- xcompact
  | 0x08 => some ⟨⟨true, false, false⟩, .dst .pair, .src .any, .src .any, .src .mask, .ok, .zero⟩ -- rebal
  | 0x09 => some ⟨⟨true, false, false⟩, .dst .wide, .src .wide, .pred, .src .mask, .no, .lane 0x1F⟩ -- ssi
  | 0x0A => some ⟨⟨true, false, false⟩, .dst .any, .src .any, .src .any, .src .any, .ok, .hacc⟩ -- hacc
  | 0x0B => some ⟨⟨true, false, false⟩, .dst .pair, .src .any, .zero, .src .any, .no, .zero⟩ -- hfind
  | _ => none

/-- The rows of wide major 0x63 CTRL by sub-opcode (R48). -/
def ctrlRow (sub : Nat) : Option Row :=
  match sub with
  | 0x00 => some ⟨⟨true, true, false⟩, .off, .off, .off, .dst .plain, .ok, .zero⟩ -- call
  | 0x01 => some ⟨⟨true, false, false⟩, .zero, .obj, .zero, .zero, .need, .zero⟩ -- beos
  | 0x02 => some ⟨⟨true, true, false⟩, .zero, .src .plain, .zero, .zero, .no, .any⟩ -- trap
  | 0x03 => some ⟨⟨true, true, false⟩, .dst .scal, .src .scal, .src .scal, .imm 0x3F, .ok, .any⟩ -- waitw
  | 0x04 => some ⟨⟨true, true, false⟩, .zero, .zero, .src .scal, .zero, .ok, .zero⟩ -- sleep
  | 0x05 => some ⟨⟨true, false, false⟩, .zero, .src .gonly, .src .pair, .zero, .ok, .zero⟩ -- meetr
  | 0x06 => some ⟨⟨true, false, false⟩, .zero, .zero, .zero, .zero, .no, .zero⟩ -- heart
  | _ => none

/-- The rows of wide major 0x64 MEMX by sub-opcode (R48). -/
def memxRow (sub : Nat) : Option Row :=
  match sub with
  | 0x00 => some ⟨⟨true, true, false⟩, .dst .vecScal, .zero, .src .any, .src .place, .ok, .any⟩ -- lds
  | 0x01 => some ⟨⟨true, true, false⟩, .zero, .src .any, .src .any, .src .place, .ok, .any⟩ -- sts
  | n =>
    if 0x10 ≤ n ∧ n ≤ 0x1E then some ⟨⟨true, true, false⟩, .dst .vecScal, .src .any, .src .any, .src .place, .ok, .any⟩ -- atoms
    else if 0x20 ≤ n ∧ n ≤ 0x2E ∧ n ≠ 0x28 ∧ n ≠ 0x29 then some ⟨⟨true, true, false⟩, .zero, .src .any, .src .any, .src .place, .ok, .any⟩ -- reds
    else none

/-- The rows of wide major 0x65 MEMA by sub-opcode (R48). -/
def memaRow (sub : Nat) : Option Row :=
  match sub with
  | 0x00 => some ⟨⟨false, true, false⟩, .obj, .zero, .src .any, .zero, .ok, .any⟩ -- lq
  | 0x01 => some ⟨⟨false, true, false⟩, .obj, .zero, .src .any, .zero, .ok, .any⟩ -- lqg
  | 0x02 => some ⟨⟨false, true, false⟩, .obj, .zero, .src .scal, .src .scal, .ok, .any⟩ -- lql
  | 0x03 => some ⟨⟨false, true, false⟩, .zero, .obj, .src .any, .zero, .ok, .any⟩ -- sq
  | 0x04 => some ⟨⟨false, true, false⟩, .zero, .obj, .src .scal, .zero, .ok, .any⟩ -- sqs
  | 0x05 => some ⟨⟨false, true, false⟩, .zero, .zero, .src .any, .zero, .ok, .any⟩ -- pfx
  | 0x06 => some ⟨⟨false, true, false⟩, .dst .vec, .zero, .src .any, .zero, .ok, .any⟩ -- ldsc
  | 0x07 => some ⟨⟨false, true, false⟩, .zero, .src .vec, .src .any, .zero, .ok, .any⟩ -- stsc
  | n =>
    if 0x10 ≤ n ∧ n ≤ 0x1E then some ⟨⟨false, true, false⟩, .dst .vecPort, .src .any, .src .any, .cas, .ok, .any⟩ -- atq
    else if 0x20 ≤ n ∧ n ≤ 0x2E ∧ n ≠ 0x28 ∧ n ≠ 0x29 then some ⟨⟨false, true, false⟩, .zero, .obj, .src .any, .zero, .ok, .any⟩ -- redq
    else none

/-- The rows of wide major 0x66 PORT by sub-opcode (R48). On the access side the words, counts and origins are scalar: an a register or a
back-channel port there takes ILLEGAL 0x05 (DEDUCED, entry 53). -/
def portRow (sub : Nat) : Option Row :=
  match sub with
  | 0x00 => some ⟨⟨true, true, false⟩, .obj, .zero, .src .scal, .zero, .ok, .qbind⟩ -- qbind
  | 0x01 => some ⟨⟨true, true, false⟩, .obj, .zero, .zero, .zero, .no, .zero⟩ -- qunbind
  | 0x02 => some ⟨⟨true, true, false⟩, .obj, .src .scal, .src .scal, .zero, .ok, .mask 3⟩ -- pat
  | 0x03 => some ⟨⟨true, true, false⟩, .obj, .zero, .src .scal, .zero, .ok, .any⟩ -- patgo
  | 0x04 => some ⟨⟨true, true, false⟩, .dst .plain, .obj, .zero, .zero, .no, .mask 3⟩ -- qstat
  | 0x05 => some ⟨⟨true, true, false⟩, .obj, .zero, .src .scal, .zero, .ok, .zero⟩ -- qskip
  | 0x06 => some ⟨⟨true, true, false⟩, .obj, .zero, .zero, .zero, .no, .zero⟩ -- qdrain
  | 0x07 => some ⟨⟨true, true, false⟩, .obj, .zero, .zero, .zero, .no, .zero⟩ -- qeos
  | _ => none

/-- The rows of wide major 0x67 ASYNC by sub-opcode (R48). -/
def asyncRow (sub : Nat) : Option Row :=
  match sub with
  | 0x00 => some ⟨⟨true, true, true⟩, .copyd, .zero, .src .scal, .imm 0x1F, .ok, .any⟩ -- copy
  | 0x01 => some ⟨⟨true, true, true⟩, .dst .plain, .src .plain, .zero, .imm 7, .no, .zero⟩ -- cstat
  | 0x02 => some ⟨⟨true, true, false⟩, .dst .plain, .src .plain, .src .scal, .imm 0x1F, .ok, .any⟩ -- arrwInit/arrwAdd/arrwTgt
  | 0x03 => some ⟨⟨true, true, false⟩, .dst .plain, .src .plain, .src .scal, .imm 7, .ok, .any⟩ -- await
  | 0x04 => some ⟨⟨true, true, false⟩, .dst .plain, .zero, .zero, .imm 0xF, .no, .any⟩ -- shdw
  | 0x05 => some ⟨⟨true, true, false⟩, .dst .plain, .zero, .zero, .imm 7, .no, .any⟩ -- publ
  | 0x06 => some ⟨⟨true, true, false⟩, .dst .plain, .src .plain, .src .scal, .src .plain, .ok, .any⟩ -- msg
  | 0x07 => some ⟨⟨true, true, false⟩, .dst .plain, .src .plain, .src .scal, .imm 0x7F, .ok, .any⟩ -- nred
  | 0x08 => some ⟨⟨true, true, false⟩, .dst .plain, .zero, .src .scal, .zero, .ok, .any⟩ -- wdq
  | _ => none

/-- The rows of wide major 0x68 SYNC by sub-opcode (R48). -/
def syncRow (sub : Nat) : Option Row :=
  match sub with
  | 0x00 => some ⟨⟨true, true, false⟩, .zero, .imm 3, .zero, .imm 0x7F, .no, .scope⟩ -- fence
  | 0x01 => some ⟨⟨true, false, false⟩, .zero, .src .gk0, .src .scal, .zero, .ok, .mask 1⟩ -- barWait/barArr
  | 0x02 => some ⟨⟨true, false, false⟩, .zero, .zero, .zero, .zero, .no, .zero⟩ -- cbar
  | 0x03 => some ⟨⟨true, false, false⟩, .zero, .zero, .zero, .zero, .no, .zero⟩ -- gbar
  | 0x04 => some ⟨⟨true, true, false⟩, .zero, .src .scalPair, .src .scal, .imm 7, .ok, .any⟩ -- sems
  | 0x05 => some ⟨⟨true, true, false⟩, .zero, .src .scalPair, .src .scal, .imm 7, .ok, .any⟩ -- semi
  | 0x06 => some ⟨⟨true, true, false⟩, .dst .scalPair, .src .scalPair, .src .scal, .imm 7, .ok, .any⟩ -- semwk
  | _ => none

/-- The rows of wide major 0x69 MTX by sub-opcode (R48). -/
def mtxRow (sub : Nat) : Option Row :=
  match sub with
  | 0x00 => some ⟨⟨true, false, false⟩, .zero, .zero, .zero, .zero, .no, .zero⟩ -- macq
  | 0x01 => some ⟨⟨true, false, false⟩, .zero, .zero, .zero, .zero, .no, .zero⟩ -- mrel
  | 0x02 => some ⟨⟨true, false, false⟩, .zero, .src .pair, .zero, .zero, .no, .zero⟩ -- gang
  | 0x03 => some ⟨⟨true, false, false⟩, .zero, .src .any, .src .any, .src .any, .ok, .mma⟩ -- mma
  | 0x04 => some ⟨⟨true, false, false⟩, .dst .any, .src .any, .src .any, .src .any, .ok, .any⟩ -- mldw
  | 0x05 => some ⟨⟨true, false, false⟩, .dst .any, .src .any, .src .any, .src .any, .ok, .any⟩ -- mldt
  | 0x06 => some ⟨⟨true, false, false⟩, .dst .any, .src .any, .src .any, .src .any, .ok, .any⟩ -- mstt
  | 0x07 => some ⟨⟨true, false, false⟩, .dst .any, .src .any, .src .any, .src .any, .ok, .any⟩ -- mlda
  | 0x08 => some ⟨⟨true, false, false⟩, .dst .any, .src .any, .src .any, .src .any, .ok, .any⟩ -- msta
  | 0x09 => some ⟨⟨true, false, false⟩, .zero, .src .any, .src .any, .zero, .ok, .zero⟩ -- mzero
  | 0x0A => some ⟨⟨true, false, false⟩, .dst .any, .src .any, .zero, .zero, .no, .mrd⟩ -- mrd
  | 0x0B => some ⟨⟨true, false, false⟩, .zero, .src .any, .src .any, .zero, .ok, .mwr⟩ -- mwr
  | 0x0C => some ⟨⟨true, false, false⟩, .zero, .zero, .zero, .zero, .no, .zero⟩ -- mwait
  | 0x0D => some ⟨⟨true, false, false⟩, .zero, .src .any, .zero, .zero, .no, .zero⟩ -- mcfg
  | _ => none

/-- The rows of wide major 0x6A TMX by sub-opcode (R48). -/
def tmxRow (sub : Nat) : Option Row :=
  match sub with
  | 0x00 => some ⟨⟨true, false, false⟩, .dst .gonly, .src .gonly, .src .any, .zero, .ok, .any⟩ -- tmv
  | 0x01 => some ⟨⟨true, false, false⟩, .dst .gonly, .src .gonly, .src .any, .zero, .ok, .any⟩ -- tmva
  | 0x02 => some ⟨⟨true, false, false⟩, .dst .gonly, .src .gonly, .src .any, .zero, .ok, .any⟩ -- tmvt
  | 0x03 => some ⟨⟨true, false, false⟩, .dst .gonly, .src .gonly, .zero, .zero, .no, .mask 0xF⟩ -- pldv
  | 0x04 => some ⟨⟨true, true, true⟩, .dst .scal, .src .scal, .src .scal, .imm 7, .ok, .any⟩ -- pstb
  | _ => none

/-- The rows of wide major 0x6B FAB by sub-opcode (R48). -/
def fabRow (sub : Nat) : Option Row :=
  match sub with
  | 0x00 => some ⟨⟨false, true, false⟩, .obj, .zero, .src .any, .zero, .ok, .any⟩ -- rlq
  | 0x01 => some ⟨⟨false, true, false⟩, .dst .vecScalR, .zero, .src .any, .zero, .ok, .any⟩ -- rldw
  | 0x02 => some ⟨⟨false, true, false⟩, .zero, .src .any, .src .any, .zero, .ok, .any⟩ -- rst
  | 0x03 => some ⟨⟨false, true, false⟩, .zero, .imm 3, .rfb, .zero, .rfence, .mask 1⟩ -- rfence
  | 0x04 => some ⟨⟨false, true, true⟩, .dst .plain, .src .plain, .src .scal, .src .plain, .ok, .any⟩ -- ladle
  | 0x05 => some ⟨⟨false, true, true⟩, .dst .plain, .zero, .src .scal, .imm 3, .ok, .any⟩ -- lstat
  | 0x06 => some ⟨⟨false, true, true⟩, .dst .plain, .zero, .src .scal, .zero, .ok, .any⟩ -- labort
  | 0x07 => some ⟨⟨false, true, true⟩, .dst .plain, .src .plain, .src .scal, .src .plain, .ok, .any⟩ -- lresume
  | n =>
    if 0x10 ≤ n ∧ n ≤ 0x1E then some ⟨⟨false, true, false⟩, .dst .vecScalR, .src .any, .src .any, .cas, .ok, .any⟩ -- ratom
    else none

/-- The rows of wide major 0x6C QPRG by sub-opcode (R48). -/
def qprgRow (sub : Nat) : Option Row :=
  match sub with
  | 0x00 => some ⟨⟨false, false, true⟩, .dst .any, .zero, .src .any, .zero, .ok, .any⟩ -- launch
  | 0x01 => some ⟨⟨false, false, true⟩, .dst .any, .zero, .src .any, .src .any, .ok, .any⟩ -- launchi
  | 0x02 => some ⟨⟨false, false, true⟩, .zero, .src .any, .src .any, .zero, .ok, .zero⟩ -- semw
  | 0x03 => some ⟨⟨false, false, true⟩, .zero, .src .any, .src .any, .zero, .ok, .zero⟩ -- semset
  | 0x04 => some ⟨⟨false, false, true⟩, .zero, .src .any, .src .any, .zero, .ok, .zero⟩ -- seminc
  | 0x05 => some ⟨⟨false, false, true⟩, .zero, .zero, .src .any, .zero, .ok, .zero⟩ -- irq
  | 0x06 => some ⟨⟨false, false, true⟩, .zero, .zero, .src .any, .zero, .ok, .any⟩ -- jmpq
  | 0x07 => some ⟨⟨false, false, true⟩, .zero, .zero, .src .any, .zero, .ok, .any⟩ -- callq
  | 0x08 => some ⟨⟨false, false, true⟩, .zero, .zero, .zero, .zero, .no, .zero⟩ -- retq
  | 0x09 => some ⟨⟨false, false, true⟩, .dst .any, .src .any, .zero, .zero, .no, .zero⟩ -- waitg
  | 0x0A => some ⟨⟨false, false, true⟩, .zero, .zero, .zero, .zero, .no, .scopeQ⟩ -- fenceq
  | 0x0B => some ⟨⟨false, false, true⟩, .zero, .zero, .zero, .zero, .no, .zero⟩ -- haltq
  | 0x0C => some ⟨⟨false, false, true⟩, .zero, .src .any, .src .any, .zero, .ok, .zero⟩ -- kickq
  | _ => none

/-- The rows of wide major 0x6D SYS by sub-opcode (R48). -/
def sysRow (sub : Nat) : Option Row :=
  match sub with
  | 0x00 => some ⟨⟨true, true, true⟩, .movsd, .movsa, .zero, .zero, .no, .movs⟩ -- movsRead/movsWrite
  | 0x01 => some ⟨⟨false, false, true⟩, .dst .any, .src .any, .zero, .zero, .no, .zero⟩ -- rdsys
  | 0x02 => some ⟨⟨false, false, true⟩, .zero, .src .any, .src .any, .zero, .ok, .zero⟩ -- wrsys
  | 0x03 => some ⟨⟨false, false, true⟩, .zero, .src .any, .src .any, .zero, .ok, .zero⟩ -- wbr
  | 0x04 => some ⟨⟨false, false, true⟩, .zero, .src .any, .src .any, .zero, .ok, .zero⟩ -- invr
  | 0x05 => some ⟨⟨false, false, true⟩, .dst .any, .src .any, .rsb, .imm 7, .ok, .resumet⟩ -- resumetWreg/resumetRetry/resumetSkip/resumetRepl/resumetJump/resumetKill
  | _ => none

/-- The row of a wide major and sub-opcode (R46, R48). -/
def wideRow (op sub : Nat) : Option Row :=
  match op with
  | 0x60 => intwRow sub
  | 0x61 => fpwRow sub
  | 0x62 => laneRow sub
  | 0x63 => ctrlRow sub
  | 0x64 => memxRow sub
  | 0x65 => memaRow sub
  | 0x66 => portRow sub
  | 0x67 => asyncRow sub
  | 0x68 => syncRow sub
  | 0x69 => mtxRow sub
  | 0x6A => tmxRow sub
  | 0x6B => fabRow sub
  | 0x6C => qprgRow sub
  | 0x6D => sysRow sub
  | _ => none

/-- The constructor of a compact major in 32-bit form. I2F and F2I have none (their x8 would name binary32 twice, R99). -/
def compactMk (op : Nat) : Option Instr :=
  match op with
  | 0x01 => some .mov
  | 0x02 => some .iadd
  | 0x03 => some .isub
  | 0x04 => some .imul
  | 0x05 => some .imulh
  | 0x06 => some .imulhu
  | 0x07 => some .imin
  | 0x08 => some .imax
  | 0x09 => some .umin
  | 0x0A => some .umax
  | 0x0B => some .and
  | 0x0C => some .or
  | 0x0D => some .xor
  | 0x0E => some .andn
  | 0x0F => some .shl
  | 0x10 => some .shr
  | 0x11 => some .sar
  | 0x12 => some .shli
  | 0x13 => some .shri
  | 0x14 => some .sari
  | 0x15 => some .rotl
  | 0x16 => some .popc
  | 0x17 => some .clz
  | 0x18 => some .brev
  | 0x19 => some .iabs
  | 0x1A => some .ineg
  | 0x1B => some .iaddi
  | 0x1C => some .sh2add
  | 0x1D => some .sh3add
  | 0x1E => some .pack2
  | 0x20 => some .fadd
  | 0x21 => some .fsub
  | 0x22 => some .fmul
  | 0x23 => some .fmin
  | 0x24 => some .fmax
  | 0x25 => some .fabs
  | 0x26 => some .fneg
  | 0x27 => some .frcp
  | 0x28 => some .frsq
  | 0x29 => some .fsqrt
  | 0x2A => some .fexp2
  | 0x2B => some .flog2
  | 0x2C => some .fsinpi
  | 0x2D => some .fcospi
  | 0x2E => some .ftanh
  | 0x2F => some .fclass
  | 0x30 => some .hadd2
  | 0x31 => some .hmul2
  | 0x32 => some .badd2
  | 0x33 => some .bmul2
  | 0x36 => some .ffrac
  | 0x37 => some .ffloor
  | 0x38 => some .fceil
  | 0x39 => some .frint
  | 0x3A => some .fscale
  | 0x3C => some .bra
  | 0x3D => some .brx
  | 0x3E => some .ret
  | 0x3F => some .exit
  | 0x40 => some .yield
  | 0x41 => some .meet
  | 0x42 => some .nop
  | 0x43 => some .bkpt
  | 0x50 => some .ldsW
  | 0x51 => some .stsW
  | 0x52 => some .ldsD
  | 0x53 => some .stsD
  | 0x54 => some .pld
  | _ => none

/-- The constructor of a compact major in 64-bit or 96-bit form. -/
def compactLongMk (op : Nat) : Option Instr :=
  match op with
  | 0x01 => some .movLong
  | 0x02 => some .iaddLong
  | 0x03 => some .isubLong
  | 0x04 => some .imulLong
  | 0x05 => some .imulhLong
  | 0x06 => some .imulhuLong
  | 0x07 => some .iminLong
  | 0x08 => some .imaxLong
  | 0x09 => some .uminLong
  | 0x0A => some .umaxLong
  | 0x0B => some .andLong
  | 0x0C => some .orLong
  | 0x0D => some .xorLong
  | 0x0E => some .andnLong
  | 0x0F => some .shlLong
  | 0x10 => some .shrLong
  | 0x11 => some .sarLong
  | 0x12 => some .shliLong
  | 0x13 => some .shriLong
  | 0x14 => some .sariLong
  | 0x15 => some .rotlLong
  | 0x16 => some .popcLong
  | 0x17 => some .clzLong
  | 0x18 => some .brevLong
  | 0x19 => some .iabsLong
  | 0x1A => some .inegLong
  | 0x1B => some .iaddiLong
  | 0x1C => some .sh2addLong
  | 0x1D => some .sh3addLong
  | 0x1E => some .pack2Long
  | 0x20 => some .faddLong
  | 0x21 => some .fsubLong
  | 0x22 => some .fmulLong
  | 0x23 => some .fminLong
  | 0x24 => some .fmaxLong
  | 0x25 => some .fabsLong
  | 0x26 => some .fnegLong
  | 0x27 => some .frcpLong
  | 0x28 => some .frsqLong
  | 0x29 => some .fsqrtLong
  | 0x2A => some .fexp2Long
  | 0x2B => some .flog2Long
  | 0x2C => some .fsinpiLong
  | 0x2D => some .fcospiLong
  | 0x2E => some .ftanhLong
  | 0x2F => some .fclassLong
  | 0x30 => some .hadd2Long
  | 0x31 => some .hmul2Long
  | 0x32 => some .badd2Long
  | 0x33 => some .bmul2Long
  | 0x34 => some .i2f
  | 0x35 => some .f2i
  | 0x36 => some .ffracLong
  | 0x37 => some .ffloorLong
  | 0x38 => some .fceilLong
  | 0x39 => some .frintLong
  | 0x3A => some .fscaleLong
  | 0x3C => some .braLong
  | 0x3D => some .brxLong
  | 0x3E => some .retLong
  | 0x3F => some .exitLong
  | 0x40 => some .yieldLong
  | 0x41 => some .meetLong
  | 0x42 => some .nopLong
  | 0x43 => some .bkptLong
  | 0x50 => some .ldsWLong
  | 0x51 => some .stsWLong
  | 0x52 => some .ldsDLong
  | 0x53 => some .stsDLong
  | 0x54 => some .pldLong
  | _ => none

/-- The constructors of wide major 0x60 INTW. -/
def intwMk (sub x8 _c : Nat) : Option Instr :=
  match sub with
  | 0x00 => some .imad
  | 0x01 => some .imad64
  | 0x02 => some .iadd64
  | 0x03 => some .isub64
  | 0x04 => some .imulw
  | 0x05 => some .icmpf
  | 0x06 => some .pick
  | 0x07 => some .bfget
  | 0x08 => some .bfput
  | 0x09 => some .bysel
  | 0x0A => some .idiv
  | 0x0B => some .udiv
  | 0x0C => some .irem
  | 0x0D => some .urem
  | 0x0E => some .isad
  | 0x0F => some .movi
  | 0x10 => some .funnel
  | 0x11 => some .iadds
  | 0x12 => some .isubs
  | 0x13 => if x8 % 2 = 0 then some .movpGet else some .movpPut
  | 0x14 => some .flut
  | _ => none

/-- The constructors of wide major 0x61 FPW. -/
def fpwMk (sub _x8 _c : Nat) : Option Instr :=
  match sub with
  | 0x00 => some .ffma
  | 0x01 => some .fcmpf
  | 0x02 => some .fdiv
  | 0x03 => some .dadd
  | 0x04 => some .dsub
  | 0x05 => some .dmul
  | 0x08 => some .ddiv
  | 0x06 => some .dfma
  | 0x07 => some .dcmpf
  | 0x09 => some .dsqrt
  | 0x0A => some .dmin
  | 0x0B => some .dmax
  | 0x0C => some .dclass
  | 0x0D => some .hfma2
  | 0x0E => some .bfma2
  | 0x0F => some .fcvt
  | 0x10 => some .fchk
  | _ => none

/-- The constructors of wide major 0x62 LANE. -/
def laneMk (sub _x8 _c : Nat) : Option Instr :=
  match sub with
  | 0x00 => some .xshuf
  | 0x01 => some .xbcast
  | 0x02 => some .xpoll
  | 0x03 => some .xred
  | 0x04 => some .xscan
  | 0x05 => some .xmatch
  | 0x06 => some .xsync
  | 0x07 => some .xcompact
  | 0x08 => some .rebal
  | 0x09 => some .ssi
  | 0x0A => some .hacc
  | 0x0B => some .hfind
  | _ => none

/-- The constructors of wide major 0x63 CTRL. -/
def ctrlMk (sub _x8 _c : Nat) : Option Instr :=
  match sub with
  | 0x00 => some .call
  | 0x01 => some .beos
  | 0x02 => some .trap
  | 0x03 => some .waitw
  | 0x04 => some .sleep
  | 0x05 => some .meetr
  | 0x06 => some .heart
  | _ => none

/-- The constructors of wide major 0x64 MEMX. -/
def memxMk (sub _x8 _c : Nat) : Option Instr :=
  match sub with
  | 0x00 => some .lds
  | 0x01 => some .sts
  | n =>
    if 0x10 ≤ n ∧ n ≤ 0x1E then some .atoms
    else if 0x20 ≤ n ∧ n ≤ 0x2E ∧ n ≠ 0x28 ∧ n ≠ 0x29 then some .reds
    else none

/-- The constructors of wide major 0x65 MEMA. -/
def memaMk (sub _x8 _c : Nat) : Option Instr :=
  match sub with
  | 0x00 => some .lq
  | 0x01 => some .lqg
  | 0x02 => some .lql
  | 0x03 => some .sq
  | 0x04 => some .sqs
  | 0x05 => some .pfx
  | 0x06 => some .ldsc
  | 0x07 => some .stsc
  | n =>
    if 0x10 ≤ n ∧ n ≤ 0x1E then some .atq
    else if 0x20 ≤ n ∧ n ≤ 0x2E ∧ n ≠ 0x28 ∧ n ≠ 0x29 then some .redq
    else none

/-- The constructors of wide major 0x66 PORT. -/
def portMk (sub _x8 _c : Nat) : Option Instr :=
  match sub with
  | 0x00 => some .qbind
  | 0x01 => some .qunbind
  | 0x02 => some .pat
  | 0x03 => some .patgo
  | 0x04 => some .qstat
  | 0x05 => some .qskip
  | 0x06 => some .qdrain
  | 0x07 => some .qeos
  | _ => none

/-- The constructors of wide major 0x67 ASYNC. -/
def asyncMk (sub _x8 c : Nat) : Option Instr :=
  match sub with
  | 0x00 => some .copy
  | 0x01 => some .cstat
  | 0x02 => if c % 4 = 0 then some .arrwInit else if c % 4 = 1 then some .arrwAdd else some .arrwTgt
  | 0x03 => some .await
  | 0x04 => some .shdw
  | 0x05 => some .publ
  | 0x06 => some .msg
  | 0x07 => some .nred
  | 0x08 => some .wdq
  | _ => none

/-- The constructors of wide major 0x68 SYNC. -/
def syncMk (sub x8 _c : Nat) : Option Instr :=
  match sub with
  | 0x00 => some .fence
  | 0x01 => if x8 % 2 = 0 then some .barWait else some .barArr
  | 0x02 => some .cbar
  | 0x03 => some .gbar
  | 0x04 => some .sems
  | 0x05 => some .semi
  | 0x06 => some .semwk
  | _ => none

/-- The constructors of wide major 0x69 MTX. -/
def mtxMk (sub _x8 _c : Nat) : Option Instr :=
  match sub with
  | 0x00 => some .macq
  | 0x01 => some .mrel
  | 0x02 => some .gang
  | 0x03 => some .mma
  | 0x04 => some .mldw
  | 0x05 => some .mldt
  | 0x06 => some .mstt
  | 0x07 => some .mlda
  | 0x08 => some .msta
  | 0x09 => some .mzero
  | 0x0A => some .mrd
  | 0x0B => some .mwr
  | 0x0C => some .mwait
  | 0x0D => some .mcfg
  | _ => none

/-- The constructors of wide major 0x6A TMX. -/
def tmxMk (sub _x8 _c : Nat) : Option Instr :=
  match sub with
  | 0x00 => some .tmv
  | 0x01 => some .tmva
  | 0x02 => some .tmvt
  | 0x03 => some .pldv
  | 0x04 => some .pstb
  | _ => none

/-- The constructors of wide major 0x6B FAB. -/
def fabMk (sub _x8 _c : Nat) : Option Instr :=
  match sub with
  | 0x00 => some .rlq
  | 0x01 => some .rldw
  | 0x02 => some .rst
  | 0x03 => some .rfence
  | 0x04 => some .ladle
  | 0x05 => some .lstat
  | 0x06 => some .labort
  | 0x07 => some .lresume
  | n =>
    if 0x10 ≤ n ∧ n ≤ 0x1E then some .ratom
    else none

/-- The constructors of wide major 0x6C QPRG. -/
def qprgMk (sub _x8 _c : Nat) : Option Instr :=
  match sub with
  | 0x00 => some .launch
  | 0x01 => some .launchi
  | 0x02 => some .semw
  | 0x03 => some .semset
  | 0x04 => some .seminc
  | 0x05 => some .irq
  | 0x06 => some .jmpq
  | 0x07 => some .callq
  | 0x08 => some .retq
  | 0x09 => some .waitg
  | 0x0A => some .fenceq
  | 0x0B => some .haltq
  | 0x0C => some .kickq
  | _ => none

/-- The constructors of wide major 0x6D SYS. -/
def sysMk (sub x8 c : Nat) : Option Instr :=
  match sub with
  | 0x00 => if x8 < 128 then some .movsRead else some .movsWrite
  | 0x01 => some .rdsys
  | 0x02 => some .wrsys
  | 0x03 => some .wbr
  | 0x04 => some .invr
  | 0x05 => if c % 8 = 0 then some .resumetWreg else if c % 8 = 1 then some .resumetRetry else if c % 8 = 2 then some .resumetSkip else if c % 8 = 3 then some .resumetRepl else if c % 8 = 4 then some .resumetJump else some .resumetKill
  | _ => none

/-- The constructor of a wide major: rows that share a sub-opcode part on x8 or field c. -/
def wideMk (op sub x8 c : Nat) : Option Instr :=
  match op with
  | 0x60 => intwMk sub x8 c
  | 0x61 => fpwMk sub x8 c
  | 0x62 => laneMk sub x8 c
  | 0x63 => ctrlMk sub x8 c
  | 0x64 => memxMk sub x8 c
  | 0x65 => memaMk sub x8 c
  | 0x66 => portMk sub x8 c
  | 0x67 => asyncMk sub x8 c
  | 0x68 => syncMk sub x8 c
  | 0x69 => mtxMk sub x8 c
  | 0x6A => tmxMk sub x8 c
  | 0x6B => fabMk sub x8 c
  | 0x6C => qprgMk sub x8 c
  | 0x6D => sysMk sub x8 c
  | _ => none

/-- How an instruction row is encoded: its major opcode, its sub-opcode (the base of the range for an atomic), and whether
it is the longer form of a compact major. -/
structure Code where
  op   : Nat
  sub  : Nat
  long : Bool
  deriving DecidableEq, Repr

/-- The code of an instruction row; none for an event. -/
def code (i : Instr) : Option Code :=
  match i with
  | .mov => some ⟨0x01, 0x00, false⟩
  | .movLong => some ⟨0x01, 0x00, true⟩
  | .iadd => some ⟨0x02, 0x00, false⟩
  | .iaddLong => some ⟨0x02, 0x00, true⟩
  | .isub => some ⟨0x03, 0x00, false⟩
  | .isubLong => some ⟨0x03, 0x00, true⟩
  | .imul => some ⟨0x04, 0x00, false⟩
  | .imulLong => some ⟨0x04, 0x00, true⟩
  | .imulh => some ⟨0x05, 0x00, false⟩
  | .imulhLong => some ⟨0x05, 0x00, true⟩
  | .imulhu => some ⟨0x06, 0x00, false⟩
  | .imulhuLong => some ⟨0x06, 0x00, true⟩
  | .imin => some ⟨0x07, 0x00, false⟩
  | .iminLong => some ⟨0x07, 0x00, true⟩
  | .imax => some ⟨0x08, 0x00, false⟩
  | .imaxLong => some ⟨0x08, 0x00, true⟩
  | .umin => some ⟨0x09, 0x00, false⟩
  | .uminLong => some ⟨0x09, 0x00, true⟩
  | .umax => some ⟨0x0A, 0x00, false⟩
  | .umaxLong => some ⟨0x0A, 0x00, true⟩
  | .and => some ⟨0x0B, 0x00, false⟩
  | .andLong => some ⟨0x0B, 0x00, true⟩
  | .or => some ⟨0x0C, 0x00, false⟩
  | .orLong => some ⟨0x0C, 0x00, true⟩
  | .xor => some ⟨0x0D, 0x00, false⟩
  | .xorLong => some ⟨0x0D, 0x00, true⟩
  | .andn => some ⟨0x0E, 0x00, false⟩
  | .andnLong => some ⟨0x0E, 0x00, true⟩
  | .shl => some ⟨0x0F, 0x00, false⟩
  | .shlLong => some ⟨0x0F, 0x00, true⟩
  | .shr => some ⟨0x10, 0x00, false⟩
  | .shrLong => some ⟨0x10, 0x00, true⟩
  | .sar => some ⟨0x11, 0x00, false⟩
  | .sarLong => some ⟨0x11, 0x00, true⟩
  | .shli => some ⟨0x12, 0x00, false⟩
  | .shliLong => some ⟨0x12, 0x00, true⟩
  | .shri => some ⟨0x13, 0x00, false⟩
  | .shriLong => some ⟨0x13, 0x00, true⟩
  | .sari => some ⟨0x14, 0x00, false⟩
  | .sariLong => some ⟨0x14, 0x00, true⟩
  | .rotl => some ⟨0x15, 0x00, false⟩
  | .rotlLong => some ⟨0x15, 0x00, true⟩
  | .popc => some ⟨0x16, 0x00, false⟩
  | .popcLong => some ⟨0x16, 0x00, true⟩
  | .clz => some ⟨0x17, 0x00, false⟩
  | .clzLong => some ⟨0x17, 0x00, true⟩
  | .brev => some ⟨0x18, 0x00, false⟩
  | .brevLong => some ⟨0x18, 0x00, true⟩
  | .iabs => some ⟨0x19, 0x00, false⟩
  | .iabsLong => some ⟨0x19, 0x00, true⟩
  | .ineg => some ⟨0x1A, 0x00, false⟩
  | .inegLong => some ⟨0x1A, 0x00, true⟩
  | .iaddi => some ⟨0x1B, 0x00, false⟩
  | .iaddiLong => some ⟨0x1B, 0x00, true⟩
  | .sh2add => some ⟨0x1C, 0x00, false⟩
  | .sh2addLong => some ⟨0x1C, 0x00, true⟩
  | .sh3add => some ⟨0x1D, 0x00, false⟩
  | .sh3addLong => some ⟨0x1D, 0x00, true⟩
  | .pack2 => some ⟨0x1E, 0x00, false⟩
  | .pack2Long => some ⟨0x1E, 0x00, true⟩
  | .fadd => some ⟨0x20, 0x00, false⟩
  | .faddLong => some ⟨0x20, 0x00, true⟩
  | .fsub => some ⟨0x21, 0x00, false⟩
  | .fsubLong => some ⟨0x21, 0x00, true⟩
  | .fmul => some ⟨0x22, 0x00, false⟩
  | .fmulLong => some ⟨0x22, 0x00, true⟩
  | .fmin => some ⟨0x23, 0x00, false⟩
  | .fminLong => some ⟨0x23, 0x00, true⟩
  | .fmax => some ⟨0x24, 0x00, false⟩
  | .fmaxLong => some ⟨0x24, 0x00, true⟩
  | .fabs => some ⟨0x25, 0x00, false⟩
  | .fabsLong => some ⟨0x25, 0x00, true⟩
  | .fneg => some ⟨0x26, 0x00, false⟩
  | .fnegLong => some ⟨0x26, 0x00, true⟩
  | .frcp => some ⟨0x27, 0x00, false⟩
  | .frcpLong => some ⟨0x27, 0x00, true⟩
  | .frsq => some ⟨0x28, 0x00, false⟩
  | .frsqLong => some ⟨0x28, 0x00, true⟩
  | .fsqrt => some ⟨0x29, 0x00, false⟩
  | .fsqrtLong => some ⟨0x29, 0x00, true⟩
  | .fexp2 => some ⟨0x2A, 0x00, false⟩
  | .fexp2Long => some ⟨0x2A, 0x00, true⟩
  | .flog2 => some ⟨0x2B, 0x00, false⟩
  | .flog2Long => some ⟨0x2B, 0x00, true⟩
  | .fsinpi => some ⟨0x2C, 0x00, false⟩
  | .fsinpiLong => some ⟨0x2C, 0x00, true⟩
  | .fcospi => some ⟨0x2D, 0x00, false⟩
  | .fcospiLong => some ⟨0x2D, 0x00, true⟩
  | .ftanh => some ⟨0x2E, 0x00, false⟩
  | .ftanhLong => some ⟨0x2E, 0x00, true⟩
  | .fclass => some ⟨0x2F, 0x00, false⟩
  | .fclassLong => some ⟨0x2F, 0x00, true⟩
  | .hadd2 => some ⟨0x30, 0x00, false⟩
  | .hadd2Long => some ⟨0x30, 0x00, true⟩
  | .hmul2 => some ⟨0x31, 0x00, false⟩
  | .hmul2Long => some ⟨0x31, 0x00, true⟩
  | .badd2 => some ⟨0x32, 0x00, false⟩
  | .badd2Long => some ⟨0x32, 0x00, true⟩
  | .bmul2 => some ⟨0x33, 0x00, false⟩
  | .bmul2Long => some ⟨0x33, 0x00, true⟩
  | .i2f => some ⟨0x34, 0x00, true⟩
  | .f2i => some ⟨0x35, 0x00, true⟩
  | .ffrac => some ⟨0x36, 0x00, false⟩
  | .ffracLong => some ⟨0x36, 0x00, true⟩
  | .ffloor => some ⟨0x37, 0x00, false⟩
  | .ffloorLong => some ⟨0x37, 0x00, true⟩
  | .fceil => some ⟨0x38, 0x00, false⟩
  | .fceilLong => some ⟨0x38, 0x00, true⟩
  | .frint => some ⟨0x39, 0x00, false⟩
  | .frintLong => some ⟨0x39, 0x00, true⟩
  | .fscale => some ⟨0x3A, 0x00, false⟩
  | .fscaleLong => some ⟨0x3A, 0x00, true⟩
  | .bra => some ⟨0x3C, 0x00, false⟩
  | .braLong => some ⟨0x3C, 0x00, true⟩
  | .brx => some ⟨0x3D, 0x00, false⟩
  | .brxLong => some ⟨0x3D, 0x00, true⟩
  | .ret => some ⟨0x3E, 0x00, false⟩
  | .retLong => some ⟨0x3E, 0x00, true⟩
  | .exit => some ⟨0x3F, 0x00, false⟩
  | .exitLong => some ⟨0x3F, 0x00, true⟩
  | .yield => some ⟨0x40, 0x00, false⟩
  | .yieldLong => some ⟨0x40, 0x00, true⟩
  | .meet => some ⟨0x41, 0x00, false⟩
  | .meetLong => some ⟨0x41, 0x00, true⟩
  | .nop => some ⟨0x42, 0x00, false⟩
  | .nopLong => some ⟨0x42, 0x00, true⟩
  | .bkpt => some ⟨0x43, 0x00, false⟩
  | .bkptLong => some ⟨0x43, 0x00, true⟩
  | .ldsW => some ⟨0x50, 0x00, false⟩
  | .ldsWLong => some ⟨0x50, 0x00, true⟩
  | .stsW => some ⟨0x51, 0x00, false⟩
  | .stsWLong => some ⟨0x51, 0x00, true⟩
  | .ldsD => some ⟨0x52, 0x00, false⟩
  | .ldsDLong => some ⟨0x52, 0x00, true⟩
  | .stsD => some ⟨0x53, 0x00, false⟩
  | .stsDLong => some ⟨0x53, 0x00, true⟩
  | .pld => some ⟨0x54, 0x00, false⟩
  | .pldLong => some ⟨0x54, 0x00, true⟩
  | .imad => some ⟨0x60, 0x00, true⟩
  | .imad64 => some ⟨0x60, 0x01, true⟩
  | .iadd64 => some ⟨0x60, 0x02, true⟩
  | .isub64 => some ⟨0x60, 0x03, true⟩
  | .imulw => some ⟨0x60, 0x04, true⟩
  | .icmpf => some ⟨0x60, 0x05, true⟩
  | .pick => some ⟨0x60, 0x06, true⟩
  | .bfget => some ⟨0x60, 0x07, true⟩
  | .bfput => some ⟨0x60, 0x08, true⟩
  | .bysel => some ⟨0x60, 0x09, true⟩
  | .idiv => some ⟨0x60, 0x0A, true⟩
  | .udiv => some ⟨0x60, 0x0B, true⟩
  | .irem => some ⟨0x60, 0x0C, true⟩
  | .urem => some ⟨0x60, 0x0D, true⟩
  | .isad => some ⟨0x60, 0x0E, true⟩
  | .movi => some ⟨0x60, 0x0F, true⟩
  | .funnel => some ⟨0x60, 0x10, true⟩
  | .iadds => some ⟨0x60, 0x11, true⟩
  | .isubs => some ⟨0x60, 0x12, true⟩
  | .movpGet => some ⟨0x60, 0x13, true⟩
  | .movpPut => some ⟨0x60, 0x13, true⟩
  | .flut => some ⟨0x60, 0x14, true⟩
  | .ffma => some ⟨0x61, 0x00, true⟩
  | .fcmpf => some ⟨0x61, 0x01, true⟩
  | .fdiv => some ⟨0x61, 0x02, true⟩
  | .dadd => some ⟨0x61, 0x03, true⟩
  | .dsub => some ⟨0x61, 0x04, true⟩
  | .dmul => some ⟨0x61, 0x05, true⟩
  | .dfma => some ⟨0x61, 0x06, true⟩
  | .dcmpf => some ⟨0x61, 0x07, true⟩
  | .ddiv => some ⟨0x61, 0x08, true⟩
  | .dsqrt => some ⟨0x61, 0x09, true⟩
  | .dmin => some ⟨0x61, 0x0A, true⟩
  | .dmax => some ⟨0x61, 0x0B, true⟩
  | .dclass => some ⟨0x61, 0x0C, true⟩
  | .hfma2 => some ⟨0x61, 0x0D, true⟩
  | .bfma2 => some ⟨0x61, 0x0E, true⟩
  | .fcvt => some ⟨0x61, 0x0F, true⟩
  | .fchk => some ⟨0x61, 0x10, true⟩
  | .xshuf => some ⟨0x62, 0x00, true⟩
  | .xbcast => some ⟨0x62, 0x01, true⟩
  | .xpoll => some ⟨0x62, 0x02, true⟩
  | .xred => some ⟨0x62, 0x03, true⟩
  | .xscan => some ⟨0x62, 0x04, true⟩
  | .xmatch => some ⟨0x62, 0x05, true⟩
  | .xsync => some ⟨0x62, 0x06, true⟩
  | .xcompact => some ⟨0x62, 0x07, true⟩
  | .rebal => some ⟨0x62, 0x08, true⟩
  | .ssi => some ⟨0x62, 0x09, true⟩
  | .hacc => some ⟨0x62, 0x0A, true⟩
  | .hfind => some ⟨0x62, 0x0B, true⟩
  | .call => some ⟨0x63, 0x00, true⟩
  | .beos => some ⟨0x63, 0x01, true⟩
  | .trap => some ⟨0x63, 0x02, true⟩
  | .waitw => some ⟨0x63, 0x03, true⟩
  | .sleep => some ⟨0x63, 0x04, true⟩
  | .meetr => some ⟨0x63, 0x05, true⟩
  | .heart => some ⟨0x63, 0x06, true⟩
  | .lds => some ⟨0x64, 0x00, true⟩
  | .sts => some ⟨0x64, 0x01, true⟩
  | .atoms => some ⟨0x64, 0x10, true⟩
  | .reds => some ⟨0x64, 0x20, true⟩
  | .lq => some ⟨0x65, 0x00, true⟩
  | .lqg => some ⟨0x65, 0x01, true⟩
  | .lql => some ⟨0x65, 0x02, true⟩
  | .sq => some ⟨0x65, 0x03, true⟩
  | .sqs => some ⟨0x65, 0x04, true⟩
  | .pfx => some ⟨0x65, 0x05, true⟩
  | .ldsc => some ⟨0x65, 0x06, true⟩
  | .stsc => some ⟨0x65, 0x07, true⟩
  | .atq => some ⟨0x65, 0x10, true⟩
  | .redq => some ⟨0x65, 0x20, true⟩
  | .qbind => some ⟨0x66, 0x00, true⟩
  | .qunbind => some ⟨0x66, 0x01, true⟩
  | .pat => some ⟨0x66, 0x02, true⟩
  | .patgo => some ⟨0x66, 0x03, true⟩
  | .qstat => some ⟨0x66, 0x04, true⟩
  | .qskip => some ⟨0x66, 0x05, true⟩
  | .qdrain => some ⟨0x66, 0x06, true⟩
  | .qeos => some ⟨0x66, 0x07, true⟩
  | .copy => some ⟨0x67, 0x00, true⟩
  | .cstat => some ⟨0x67, 0x01, true⟩
  | .arrwInit => some ⟨0x67, 0x02, true⟩
  | .arrwAdd => some ⟨0x67, 0x02, true⟩
  | .arrwTgt => some ⟨0x67, 0x02, true⟩
  | .await => some ⟨0x67, 0x03, true⟩
  | .shdw => some ⟨0x67, 0x04, true⟩
  | .publ => some ⟨0x67, 0x05, true⟩
  | .msg => some ⟨0x67, 0x06, true⟩
  | .nred => some ⟨0x67, 0x07, true⟩
  | .wdq => some ⟨0x67, 0x08, true⟩
  | .fence => some ⟨0x68, 0x00, true⟩
  | .barWait => some ⟨0x68, 0x01, true⟩
  | .barArr => some ⟨0x68, 0x01, true⟩
  | .cbar => some ⟨0x68, 0x02, true⟩
  | .gbar => some ⟨0x68, 0x03, true⟩
  | .sems => some ⟨0x68, 0x04, true⟩
  | .semi => some ⟨0x68, 0x05, true⟩
  | .semwk => some ⟨0x68, 0x06, true⟩
  | .macq => some ⟨0x69, 0x00, true⟩
  | .mrel => some ⟨0x69, 0x01, true⟩
  | .gang => some ⟨0x69, 0x02, true⟩
  | .mma => some ⟨0x69, 0x03, true⟩
  | .mldw => some ⟨0x69, 0x04, true⟩
  | .mldt => some ⟨0x69, 0x05, true⟩
  | .mstt => some ⟨0x69, 0x06, true⟩
  | .mlda => some ⟨0x69, 0x07, true⟩
  | .msta => some ⟨0x69, 0x08, true⟩
  | .mzero => some ⟨0x69, 0x09, true⟩
  | .mrd => some ⟨0x69, 0x0A, true⟩
  | .mwr => some ⟨0x69, 0x0B, true⟩
  | .mwait => some ⟨0x69, 0x0C, true⟩
  | .mcfg => some ⟨0x69, 0x0D, true⟩
  | .tmv => some ⟨0x6A, 0x00, true⟩
  | .tmva => some ⟨0x6A, 0x01, true⟩
  | .tmvt => some ⟨0x6A, 0x02, true⟩
  | .pldv => some ⟨0x6A, 0x03, true⟩
  | .pstb => some ⟨0x6A, 0x04, true⟩
  | .rlq => some ⟨0x6B, 0x00, true⟩
  | .rldw => some ⟨0x6B, 0x01, true⟩
  | .rst => some ⟨0x6B, 0x02, true⟩
  | .rfence => some ⟨0x6B, 0x03, true⟩
  | .ladle => some ⟨0x6B, 0x04, true⟩
  | .lstat => some ⟨0x6B, 0x05, true⟩
  | .labort => some ⟨0x6B, 0x06, true⟩
  | .lresume => some ⟨0x6B, 0x07, true⟩
  | .ratom => some ⟨0x6B, 0x10, true⟩
  | .launch => some ⟨0x6C, 0x00, true⟩
  | .launchi => some ⟨0x6C, 0x01, true⟩
  | .semw => some ⟨0x6C, 0x02, true⟩
  | .semset => some ⟨0x6C, 0x03, true⟩
  | .seminc => some ⟨0x6C, 0x04, true⟩
  | .irq => some ⟨0x6C, 0x05, true⟩
  | .jmpq => some ⟨0x6C, 0x06, true⟩
  | .callq => some ⟨0x6C, 0x07, true⟩
  | .retq => some ⟨0x6C, 0x08, true⟩
  | .waitg => some ⟨0x6C, 0x09, true⟩
  | .fenceq => some ⟨0x6C, 0x0A, true⟩
  | .haltq => some ⟨0x6C, 0x0B, true⟩
  | .kickq => some ⟨0x6C, 0x0C, true⟩
  | .movsRead => some ⟨0x6D, 0x00, true⟩
  | .movsWrite => some ⟨0x6D, 0x00, true⟩
  | .rdsys => some ⟨0x6D, 0x01, true⟩
  | .wrsys => some ⟨0x6D, 0x02, true⟩
  | .wbr => some ⟨0x6D, 0x03, true⟩
  | .invr => some ⟨0x6D, 0x04, true⟩
  | .resumetWreg => some ⟨0x6D, 0x05, true⟩
  | .resumetRetry => some ⟨0x6D, 0x05, true⟩
  | .resumetSkip => some ⟨0x6D, 0x05, true⟩
  | .resumetRepl => some ⟨0x6D, 0x05, true⟩
  | .resumetJump => some ⟨0x6D, 0x05, true⟩
  | .resumetKill => some ⟨0x6D, 0x05, true⟩
  | .kick => none
  | .engineEnable => none
  | .engineDisable => none
  | .ringPacket => none
  | .ringIdleTimeout => none
  | .registerWrite => none
  | .firmwareProposal => none
  | .dispatchReserve => none
  | .reserve => none
  | .reserveAnswer => none
  | .commit => none
  | .release => none
  | .backoffExpiry => none
  | .teamStart => none
  | .slotFree => none
  | .gridComplete => none
  | .stripRegisterFree => none
  | .regpoolStall => none
  | .portSlotDeliver => none
  | .patternEngineStep => none
  | .decoupleTimeout => none
  | .stripOperation => none
  | .meetingRelease => none
  | .jointPerform => none
  | .barrierPhaseComplete => none
  | .cohortBarrierRelease => none
  | .gridBarrierRelease => none
  | .sleepExpiry => none
  | .waitwRepoll => none
  | .semaphoreWaitSatisfied => none
  | .sliceRequest => none
  | .replayReinject => none
  | .walkRequest => none
  | .faultRecordPost => none
  | .memoryReply => none
  | .storeAck => none
  | .domainSwitchComplete => none
  | .cxlMemAccess => none
  | .backInvalidateResponse => none
  | .publExchange => none
  | .copyProgress => none
  | .copyComplete => none
  | .msgArrival => none
  | .msgDeliver => none
  | .nredContribution => none
  | .wdqAnswer => none
  | .engineGrant => none
  | .latchRelease => none
  | .mmaChunkCommit => none
  | .mmaComplete => none
  | .matrixQueueOp => none
  | .matrixTransferComplete => none
  | .kettleBeatPeriod => none
  | .kettleIdleLimit => none
  | .kettleFire => none
  | .messageProbeTimeout => none
  | .escapeStep => none
  | .trapRecordPost => none
  | .rangeRegisterCommit => none
  | .domainCommit => none
  | .exportCommit => none
  | .ptrootWrite => none
  | .contextCreate => none
  | .contextDestroy => none
  | .faultRingSet => none
  | .frheadWrite => none
  | .trapRingSet => none
  | .trheadWrite => none
  | .saveAreaSet => none
  | .preemptRequest => none
  | .saveComplete => none
  | .lateReply => none
  | .restoreRequest => none
  | .restoreComplete => none
  | .contextKill => none
  | .killComplete => none
  | .controlStateError => none
  | .patrolScrub => none
  | .counterFlush => none
  | .powerThrottle => none
  | .flitReceive => none
  | .parityArrival => none
  | .flitReplayArrival => none
  | .flitRecoveryTimeout => none
  | .parityRequest => none
  | .replayRequest => none
  | .flitAck => none
  | .linkTraining => none
  | .linkTrainRetry => none
  | .fabricPacketForward => none
  | .remoteRequestArrival => none
  | .parkNotice => none
  | .remoteReply => none
  | .remoteTimeout => none
  | .scaleOutRma => none
  | .ladleChunkArrival => none
  | .ladleChunkAnswer => none
  | .ladleBusyRetry => none
  | .ladleDone => none
  | .ladleCommit => none
  | .ladlePublished => none
  | .ladleFinished => none
  | .fabricIdWrite => none
  | .powerGood => none
  | .firmwareStart => none
  | .hbmTrainingDone => none
  | .cxlTrainingDone => none
  | .umturTrainingDone => none
  | .stageTimeout => none
  | .reportCatalogue => none
  | .partitionCreate => none
  | .partitionDestroy => none
  | .decoderProgram => none
  | .ideRequire => none
  | .imageWrite => none
  | .linkRetrain => none
  | .powerLoss => none
  | .linkCreditReturn => none
  | .pstbComplete => none
  | .shdwComplete => none
  | .doeRequest => none
  | .unknownCommand => none
  | .fidExchange => none

end Sys2Proof
end

