-- ==== Sys2Proof/Machine/Fields.lean ====
section
/-! DEFINITION. The rules of single fields that decoding, encoding and well-formedness share: which code names which register
(R34-R36), which names a field takes on each side (R37, R39, R82), the immediates, x8, and the checks across fields. Errors
are the ILLEGAL subcodes of R49, 0 for none. -/

namespace Sys2Proof

/-- What decoding needs to know of the unit that decodes: its side, and on a queue engine whether it is in ring mode
(R336) and runs at supervisor level (R52); on the execute side whether the grid is coresident (R344). -/
structure DecodeCtx where
  side       : Side
  ring       : Bool
  coresident : Bool
  sup        : Bool
  deriving DecidableEq, Repr

/-- The register a code names on a side; none for an unassigned code (R34, R35, R36). -/
def nameOf (side : Side) (v : BitVec 7) : Option Name :=
  let n := v.toNat
  match side with
  | .queue => if h : n < 16 then some (.w ⟨n, h⟩) else none
  | .exec =>
    if h : n < 96 then some (.g ⟨n, h⟩)
    else if h : n - 96 < 16 then some (.k ⟨n - 96, h⟩)
    else if h : n - 112 < 16 then some (.q ⟨n - 112, h⟩)
    else none
  | .access =>
    if h : n < 32 then some (.a ⟨n, h⟩)
    else if h : n - 32 < 16 then some (.s ⟨n - 32, h⟩)
    else if n < 96 then none
    else if h : n - 96 < 16 then some (.k ⟨n - 96, h⟩)
    else if h : n - 112 < 16 then some (.q ⟨n - 112, h⟩)
    else none

/-- The code of a register name (R34, R35, R36). -/
def Name.code : Name → BitVec 7
  | .g i => BitVec.ofNat 7 i.val
  | .k i => BitVec.ofNat 7 (96 + i.val)
  | .q i => BitVec.ofNat 7 (112 + i.val)
  | .a i => BitVec.ofNat 7 i.val
  | .s i => BitVec.ofNat 7 (32 + i.val)
  | .w i => BitVec.ofNat 7 i.val

/-- Whether a name belongs to a side at all. -/
def Name.onSide : Side → Name → Bool
  | .exec, .g _ => true
  | .exec, .k _ => true
  | .exec, .q _ => true
  | .access, .a _ => true
  | .access, .s _ => true
  | .access, .k _ => true
  | .access, .q _ => true
  | .queue, .w _ => true
  | _, _ => false

/-- A format code of 64 bits: binary64 or INT64 (R60). -/
def fmt64 (f : Nat) : Bool := f == 1 || f == 0xB

/-- Whether a register set is a pair field on the execute side under this x8 (R37, R92, R99, R312). -/
def RegSet.isPair (r : RegSet) (x8 : BitVec 8) : Bool :=
  match r with
  | .pair | .scalPair | .mask | .vecScalPair => true
  | .wide => x8.getLsbD 4
  | .fmtHi => fmt64 (x8.toNat / 16)
  | .fmtLo => fmt64 (x8.toNat % 16)
  | .movi => x8.getLsbD 0
  | _ => false

/-- A pair field of the execute side takes an even g, k0, or a port (R37). -/
def pairName : Name → Bool
  | .g i => i.val % 2 == 0
  | .k i => i.val == 0
  | .q _ => true
  | _ => false

/-- Whether the execute side's field set takes a name. -/
def RegSet.execOk (r : RegSet) (x8 : BitVec 8) (n : Name) : Bool :=
  (!(r.isPair x8) || pairName n) &&
  match r, n with
  | .vec, _ | .vecPort, _ | .vecScalR, _ => false
  | .gonly, .g _ => true
  | .gonly, _ => false
  | .gk0, .g _ => true
  | .gk0, .k i => i.val == 0
  | .gk0, _ => false
  | .mask, .q _ => false
  | .plain, .q _ => false
  | _, .g _ | _, .k _ | _, .q _ => true
  | _, _ => false

/-- The subcode with which the access side's field set turns a name away, 0 when it takes it. -/
def RegSet.accessErr (r : RegSet) (n : Name) : Nat :=
  match r, n with
  | .gk0, _ | .mask, _ | .gonly, _ => 5
  | .scal, .s _ | .scal, .k _ | .scalPair, .s _ | .scalPair, .k _ | .plain, .s _ | .plain, .k _ => 0
  | .scal, _ | .scalPair, _ | .plain, _ => 5
  | .sonly, .s _ => 0
  | .sonly, _ => 5
  | .vec, .a _ => 0
  | .vec, _ => 5
  | .vecPort, .a _ | .vecPort, .q _ => 0
  | .vecPort, _ => 5
  | .vecScal, .a _ | .vecScal, .s _ | .vecScalPair, .a _ | .vecScalPair, .s _ => 0
  | .vecScal, .q _ | .vecScalPair, .q _ => 6
  | .vecScal, _ | .vecScalPair, _ => 5
  | .vecScalR, .a _ | .vecScalR, .s _ => 0
  | .vecScalR, _ => 5
  | _, .a _ | _, .s _ | _, .k _ | _, .q _ => 0
  | _, _ => 5

/-- The subcode with which a register field turns a name away (R39): 0 when it takes it. A k name is no destination. -/
def RegSet.err (r : RegSet) (side : Side) (dst : Bool) (x8 : BitVec 8) (n : Name) : Nat :=
  if dst && (match n with | .k _ => true | _ => false) then 5
  else match side with
    | .exec => if r.execOk x8 n then 0 else 5
    | .access => r.accessErr n
    | .queue => match n with
      | .w _ => 0
      | _ => 5

/-- The four register fields of an instruction. -/
inductive Pos where
  | d
  | a
  | b
  | c
  deriving DecidableEq, Repr

/-- What a conditional kind stands for, given the side, x8, the operation code of an atomic and the immediate in field c. The pair that
MOVS sr.clock writes on the execute side may be a port, as any pair field may (R37; DEDUCED, entry 53). -/
def Kind.resolve (k : Kind) (side : Side) (x8 : BitVec 8) (sel : BitVec 4) (cimm : BitVec 7) (p : Pos) : Kind :=
  match k with
  | .movp =>
    match side, x8.getLsbD 0, p with
    | .exec, false, .d => .dst .any
    | .exec, true, .a => .src .any
    | .exec, true, .b => .src .any
    | .access, false, .d => .dst .scal
    | .access, false, .a => .pred
    | .access, true, .d => .pred
    | .access, true, .a => .src .sonly
    | _, _, _ => .zero
  | .xpoll => if x8.toNat % 4 = 3 then .dst .pair else .pred
  | .cas => if sel.toNat = 9 then .src .any else .zero
  | .copyd => if cimm.getLsbD 4 then .zero else .dst .plain
  | .rfb => if x8.getLsbD 0 then .src .plain else .zero
  | .movsd => if x8.getLsbD 7 then .zero
      else match side with
        | .exec => if x8.toNat % 128 = 8 then .dst .pair else .dst .gonly
        | .access => .dst .plain
        | .queue => .dst .any
  | .movsa => if x8.getLsbD 7 then .srcU .any else .zero
  | .rsb => if cimm.toNat % 8 = 0 ∨ cimm.toNat % 8 = 3 ∨ cimm.toNat % 8 = 4 then .src .any else .zero
  | k => k

/-- Whether a 96-bit form exists for the row on this side (R29, R92). -/
def LitRule.allows (l : LitRule) (side : Side) (x8 : BitVec 8) : Bool :=
  match l with
  | .no => false
  | .ok | .need => true
  | .movp => side == .exec && x8.getLsbD 0
  | .rfence => x8.getLsbD 0

/-- RESUMET takes a literal for the ops that have an operand b (R392, R29). -/
def rsbLit (k : Kind) (cimm : BitVec 7) : Bool :=
  match k with
  | .rsb => decide (cimm.toNat % 8 = 0 ∨ cimm.toNat % 8 = 3 ∨ cimm.toNat % 8 = 4)
  | _ => true

/-- A rounding byte (R31): non-zero high bits 6, a code above 4 is 7. -/
def rmErr (x8 : BitVec 8) : Nat :=
  if x8.toNat / 8 ≠ 0 then 6 else if x8.toNat % 8 > 4 then 7 else 0

/-- A format check: 8 where the predicate fails (R61). -/
def fmtErr (ok : Bool) : Nat := if ok then 0 else 8

/-- Special registers of a side (R40): number, and whether writable. -/
def movsErr (side : Side) (x8 : BitVec 8) : Nat :=
  let n := x8.toNat % 128
  if x8.getLsbD 7 then (if n = 10 ∧ side = .exec then 0 else 5)
  else match side with
    | .exec => if n ≤ 10 then 0 else 5
    | .access => if n = 1 ∨ (3 ≤ n ∧ n ≤ 9) then 0 else 5
    | .queue => if n = 7 ∨ n = 8 then 0 else 5

/-- The accepted pairs of MMA formats, A then B (R109). -/
def mmaPair (a b : Nat) : Bool :=
  (4 ≤ a && a ≤ 8 && 4 ≤ b && b ≤ 8) || (a == 9 && b == 9) || (a == 3 && b == 3) || (a == 2 && b == 2)

/-- The check of x8 (R31, R61 and each entry). DEDUCED, entry 53: where FCLASS and FCHK (R97, R100) or MRD and MWR (R128) use one
half of x8 for a format code, a non-zero other half is a must-be-zero field and takes subcode 6, not the subcode 8 of an
unassigned format code (R49, R61). -/
def X8.err (k : X8) (side : Side) (x8 : BitVec 8) : Nat :=
  let n := x8.toNat
  let lo := n % 16
  let hi := n / 16
  match k with
  | .zero => if n = 0 then 0 else 6
  | .any => 0
  | .rm => rmErr x8
  | .mask m => if n &&& (255 - m) = 0 then 0 else 6
  | .fclass => if hi ≠ 0 then 6 else fmtErr (lo == 0 || lo == 2 || lo == 3)
  | .fchk => if hi ≠ 0 then 6 else fmtErr (lo ≤ 3 || lo == 5)
  | .i2f => fmtErr (9 ≤ lo && lo ≤ 11 && hi ≤ 3)
  | .f2i => fmtErr (9 ≤ hi && hi ≤ 11 && lo ≤ 3)
  | .fcvt => fmtErr (lo ≤ 8 && hi ≤ 8)
  | .mma => fmtErr (mmaPair lo hi)
  | .mrd => if lo ≠ 0 then 6 else fmtErr (hi == 0 || hi == 10 || hi == 2 || hi == 3)
  | .mwr => if hi ≠ 0 then 6 else fmtErr (lo == 0 || lo == 10 || lo == 2 || lo == 3)
  | .icmp => if hi / 4 ≠ 0 ∨ hi % 4 = 3 ∨ lo % 8 > 5 then 6 else 0
  | .fcmp => if hi / 4 ≠ 0 ∨ hi % 4 = 3 ∨ lo > 13 then 6 else 0
  | .lane m => if n &&& (255 - m) ≠ 0 ∨ ¬(lo ≤ 7 ∨ (10 ≤ lo ∧ lo ≤ 12)) then 6 else 0
  | .hacc => if hi ≠ 0 ∨ ¬(lo ≤ 8 ∨ (10 ≤ lo ∧ lo ≤ 12)) then 6 else 0
  | .qbind =>
    let mode := n / 4 % 4
    if mode = 3 ∨ (mode ≠ 0 ∧ n / 16 % 4 ≠ 0) then 6 else 0
  | .movi => if n = 0 ∨ (n = 1 ∧ side = .exec) then 0 else 6
  | .scope => if n / 8 ≠ 0 then 6 else if n > 5 then 9 else 0
  | .scopeQ => if n / 8 ≠ 0 ∨ n < 4 then 6 else if n > 5 then 9 else 0
  | .movs => movsErr side x8
  | .resumet => 0

/-- A scope code in an immediate: 6 and 7 are subcode 9. -/
def scopeErr (v : Nat) : Nat := if v % 8 > 5 then 9 else 0

/-- A run of n g registers from a name must end at or below g95 (R133). -/
def runErr (f : Field) (n : Nat) : Nat :=
  match f with
  | .reg (.g i) _ => if i.val + n ≤ 96 then 0 else 5
  | _ => 0

/-- The value of an immediate field, 0 when the field is none. -/
def Field.immVal : Field → Nat
  | .imm v => v.toNat
  | _ => 0

/-- The checks of an entry that look at an immediate field: c of the SYNC, ASYNC, CTRL and TMX entries, a of the fences;
the register runs of TMX (R133); and the port ATOMS.cas would read and write (R170). -/
def entryErr (side : Side) (i : Instr) (sel : BitVec 4) (x8 : BitVec 8) (d a : Field) (av cv : Nat) : Nat :=
  let n := x8.toNat % 16 + 1
  let m := x8.toNat / 16 + 1
  match i with
  | .atoms => if sel.toNat = 9 then (match d with | .reg (.q _) _ => 6 | _ => 0) else 0
  | .fence => if av % 4 = 3 ∨ cv = 0 then 6 else 0
  | .rfence => if av % 4 = 3 then 6 else 0
  | .waitw => if cv / 8 % 8 > 4 then 6 else scopeErr cv
  | .copy | .cstat => if side = .queue ∧ cv % 8 < 4 then 6 else scopeErr cv
  | .arrwInit | .arrwAdd | .arrwTgt => if cv % 4 = 3 then 6 else scopeErr (cv / 4)
  | .await | .shdw => scopeErr cv
  | .publ => if cv % 8 < 4 then 6 else scopeErr cv
  | .nred => if cv % 16 = 8 ∨ cv % 16 = 9 ∨ cv % 16 ≥ 13 then 6 else 0
  | .sems | .semi | .semwk => scopeErr cv
  | .pstb => if cv % 8 > 5 then 9
      else if cv % 8 = 4 ∨ (side ≠ .queue ∧ (cv % 8 = 2 ∨ cv % 8 = 3)) then 0 else 6
  | .tmv | .tmva => if runErr d n = 0 then runErr a m else 5
  | .tmvt => if runErr d m = 0 then runErr a n else 5
  | .pldv => runErr d n
  | .resumetWreg => 0
  | .resumetRetry | .resumetSkip | .resumetRepl | .resumetJump | .resumetKill =>
    if cv % 8 > 5 ∨ x8 ≠ 0 then 6 else 0
  | _ => 0

/-- A scalar instruction of the access side, one whose destination is an s register, takes no a or q source (R82). -/
def scalarErr (side : Side) (kd : Kind) (d : Field) (srcs : List Field) : Nat :=
  match side, kd, d with
  | .access, .dst _, .reg (.s _) _ =>
    if srcs.any (fun f => match f with | .reg (.a _) _ | .reg (.q _) _ => true | _ => false) then 5 else 0
  | _, _, _ => 0

/-- Whether a field of a kind is a source for the scalar rule: a port named as an object is none, and a field c of zero names no
place register (R145). -/
def scalarSrc (k : Kind) (f : Field) : Bool :=
  match k with
  | .obj => false
  | .src .place => !(f == .reg (.a 0) false)
  | _ => true

/-- The source fields that the scalar rule looks at. -/
def scalarSrcs (ka kb kc : Kind) (a b c : Field) : List Field :=
  ([(ka, a), (kb, b), (kc, c)].filter (fun x => scalarSrc x.1 x.2)).map (·.2)

/-- The guard rules (R38): pred 7 with pneg, any guard but pred 7 on a queue engine, and any but pred 7 on MMA (R124). -/
def guardErr (side : Side) (i : Instr) (pred : Fin 8) (pneg : Bool) : Nat :=
  if pneg && pred.val == 7 then 6
  else if side == .queue && (pred.val != 7 || pneg) then 6
  else if i == .mma && (pred.val != 7 || pneg) then 6
  else 0

/-- Sides of a row, with the two cases decided when the instruction is met: GBAR in a grid that is not coresident (R344), and
the transfers that leave ring mode (R336). -/
def sideOk (cx : DecodeCtx) (row : Row) (i : Instr) : Bool :=
  (match cx.side with | .exec => row.sides.e | .access => row.sides.a | .queue => row.sides.q) &&
  match i with
  | .gbar => cx.coresident
  | .jmpq | .retq | .bra | .braLong | .brx | .brxLong | .ret | .retLong => !(cx.side == .queue && cx.ring)
  | _ => true

/-- The instructions privileged at supervisor level (R52). -/
def privileged : Instr → Bool
  | .rdsys | .wrsys | .wbr | .invr => true
  | .resumetWreg | .resumetRetry | .resumetSkip | .resumetRepl | .resumetJump | .resumetKill => true
  | _ => false

end Sys2Proof
end

