-- ==== Sys2Proof/WellFormed.lean ====
section
/-! DEFINITION. Well-formed instructions: the ones the encoding of R25 to R49 has words for, on the side and in the mode that
decodes them. -/

namespace Sys2Proof

/-- The row of the encoding table an instruction uses; none for an event. -/
def Insn.row (x : Insn) : Option Row :=
  match code x.op with
  | none => none
  | some c => if c.op < 0x60 then compactRow c.op else wideRow c.op (c.sub + x.args.sel.toNat)

/-- A field holds what its kind allows (R34-R41); lit says that field b takes a literal in this form. -/
def Field.ok (f : Field) (k : Kind) (side : Side) (x8 : BitVec 8) (lit : Bool) : Bool :=
  if lit then
    match f, k with
    | .lit v, .i5 => decide (v.toNat < 32)
    | .lit v, .i7 => decide (-64 ≤ v.toInt ∧ v.toInt < 64)
    | .lit _, _ => true
    | _, _ => false
  else
    match k, f with
    | .zero, .none => true
    | .dst r, .reg n last => n.onSide side && r.err side true x8 n == 0 && !last
    | .src r, .reg n last =>
      n.onSide side && r.err side false x8 n == 0 &&
        (!last || (side == .exec && match n with | .g _ => true | _ => false))
    | .srcU r, .reg n last => n.onSide side && r.err side false x8 n == 0 && !last
    | .pred, .pred _ => true
    | .obj, .reg (.q _) last => !last && side != .queue
    | .imm m, .imm v => v.toNat &&& (127 - m) == 0
    | .i5, .imm v => decide (v.toNat < 32)
    | .i7, .imm _ => true
    | _, _ => false

/-- The offset field of a branch in the shorter forms: only field b holds anything (R32). -/
def Ops.offOk (o : Ops) : Bool :=
  o.d == .none && o.a == .none &&
    match o.b with
    | .off _ => o.form != .w96
    | .lit _ => o.form == .w96
    | _ => false

/-- The four fields hold what the row says. -/
def Ops.fieldsOk (o : Ops) (row : Row) (side : Side) : Bool :=
  let ci : BitVec 7 := BitVec.ofNat 7 o.c.immVal
  let r := fun (k : Kind) (p : Pos) => k.resolve side o.x8 o.sel ci p
  let lit := o.form == .w96
  o.c.ok (r row.c .c) side o.x8 false &&
    if row.d == .off then o.offOk
    else
      o.d.ok (r row.d .d) side o.x8 false && o.a.ok (r row.a .a) side o.x8 false &&
        o.b.ok (r row.b .b) side o.x8 lit

/-- The form is one the row has (R25, R28, R30, R29): the 32-bit form carries the default word1. -/
def Ops.formOk (o : Ops) (row : Row) (side : Side) (long : Bool) : Bool :=
  match o.form with
  | .w32 => !long && o.pred.val == 7 && !o.pneg && o.stall == 0 && o.x8 == 0
  | .w64 => long && row.lit != .need
  | .w96 => long && row.lit.allows side o.x8 && rsbLit row.b (BitVec.ofNat 7 o.c.immVal)

/-- The operation code is zero where the instruction is no atomic, and the code table gives the instruction back: rows that
share an encoding part on x8 or field c. -/
def Insn.codeOk (x : Insn) (c : Code) : Bool :=
  let ranged := c.op ≥ 0x60 && (c.sub == 0x10 || c.sub == 0x20) &&
    (c.op == 0x64 || c.op == 0x65 || c.op == 0x6B)
  (ranged || x.args.sel == 0) &&
  if c.op < 0x60 then true
  else wideMk c.op (c.sub + x.args.sel.toNat) x.args.x8.toNat x.args.c.immVal == some x.op

/-- The checks across fields: sides, x8, the entry's immediates, the guard, the scalar rule (R38, R47, R48, R82). -/
def Insn.checksOk (x : Insn) (row : Row) (cx : DecodeCtx) : Bool :=
  let o := x.args
  sideOk cx row x.op &&
  row.x8.err cx.side o.x8 == 0 &&
  entryErr cx.side x.op o.sel o.x8 o.d o.a o.a.immVal o.c.immVal == 0 &&
  guardErr cx.side x.op o.pred o.pneg == 0 &&
  scalarErr cx.side (row.d.resolve cx.side o.x8 o.sel (BitVec.ofNat 7 o.c.immVal) .d) o.d (scalarSrcs row.a row.b row.c o.a o.b o.c) == 0 &&
  (!privileged x.op || cx.sup)

/-- An instruction that has an encoding on the side and in the mode of cx. -/
def Insn.wellFormed (x : Insn) (cx : DecodeCtx) : Bool :=
  match code x.op, x.row with
  | some c, some row =>
    x.codeOk c && x.args.formOk row cx.side c.long && x.args.fieldsOk row cx.side && x.checksOk row cx
  | _, _ => false

end Sys2Proof
end

