-- ==== Sys2Proof/Decode.lean ====
section
/-! DEFINITION. Decoding in the check order of R50, total on any words, and the encoder over the same encoding table. -/

namespace Sys2Proof

/-- Why words are no instruction: ILLEGAL with a subcode of R49, or PRIV (R52). -/
inductive DecodeErr where
  | illegal (sub : BitVec 8)
  | priv
  deriving DecidableEq, Repr

/-- The fields of the words of an instruction (R26, R27, R29). -/
structure Raw where
  lb    : Bool
  la    : Bool
  b     : BitVec 7
  a     : BitVec 7
  d     : BitVec 7
  op    : BitVec 7
  len   : BitVec 2
  x8    : BitVec 8
  stall : BitVec 4
  sub   : BitVec 8
  lc    : Bool
  c     : BitVec 7
  pneg  : Bool
  pred  : BitVec 3
  lit   : W32
  deriving DecidableEq, Repr

/-- Word1 of a 32-bit instruction (R28). -/
def defaultWord1 : W32 := 0x00000007#32

/-- The fields of three words (R26, R27, R29). -/
def Raw.ofWords (w0 w1 w2 : W32) : Raw :=
  { lb := w0.getLsbD 31, la := w0.getLsbD 30, b := w0.extractLsb' 23 7, a := w0.extractLsb' 16 7,
    d := w0.extractLsb' 9 7, op := w0.extractLsb' 2 7, len := w0.extractLsb' 0 2,
    x8 := w1.extractLsb' 24 8, stall := w1.extractLsb' 20 4, sub := w1.extractLsb' 12 8, lc := w1.getLsbD 11,
    c := w1.extractLsb' 4 7, pneg := w1.getLsbD 3, pred := w1.extractLsb' 0 3, lit := w2 }

/-- Word0 of the fields (R26). -/
def Raw.word0 (r : Raw) : W32 :=
  BitVec.ofBool r.lb ++ BitVec.ofBool r.la ++ r.b ++ r.a ++ r.d ++ r.op ++ r.len

/-- Word1 of the fields (R27). -/
def Raw.word1 (r : Raw) : W32 :=
  r.x8 ++ r.stall ++ r.sub ++ BitVec.ofBool r.lc ++ r.c ++ BitVec.ofBool r.pneg ++ r.pred

/-- The first two checks of R50, which word0 alone settles, with the number of words the instruction has. -/
def word0Check (w0 : W32) : Except DecodeErr Nat :=
  let len := (w0.extractLsb' 0 2).toNat
  let op := (w0.extractLsb' 2 7).toNat
  if len = 3 then .error (.illegal 1)
  else if op < 0x60 then
    match compactRow op with
    | none => .error (.illegal 2)
    | some _ => .ok (len + 1)
  else if op > 0x6D then .error (.illegal 2)
  else if len = 0 then .error (.illegal 1)
  else .ok (len + 1)

/-- What field reading yields: the field and the subcode of its first failing check, 0 for none. -/
abbrev FieldResult := Field × Nat

/-- A register field: its name, the set that takes it, and whether its mark may stand (R39, R41). -/
def readReg (side : Side) (r : RegSet) (dst markOk : Bool) (x8 : BitVec 8) (v : BitVec 7) (mk : Bool) : FieldResult :=
  match nameOf side v with
  | none => (.none, 5)
  | some n =>
    let e := r.err side dst x8 n
    let markBad := mk && !(markOk && side == .exec && match n with | .g _ => true | _ => false)
    (.reg n mk, if e ≠ 0 then e else if markBad then 6 else 0)

/-- One field under its resolved kind. -/
def readField (side : Side) (k : Kind) (x8 : BitVec 8) (v : BitVec 7) (mk : Bool) : FieldResult :=
  match k with
  | .dst r => readReg side r true false x8 v mk
  | .src r => readReg side r false true x8 v mk
  | .srcU r => readReg side r false false x8 v mk
  | .pred => (.pred ⟨v.toNat % 8, Nat.mod_lt _ (by decide)⟩, if v.toNat ≥ 8 ∨ mk then 6 else 0)
  | .obj =>
    match nameOf side v with
    | some (.q i) => (.reg (.q i) false, if mk then 6 else 0)
    | _ => (.none, 5)
  | .imm m => (.imm v, if v.toNat &&& (127 - m) ≠ 0 ∨ mk then 6 else 0)
  | .i5 => (.imm v, if v.toNat ≥ 32 ∨ mk then 6 else 0)
  | .i7 => (.imm v, if mk then 6 else 0)
  | _ => (.none, if v ≠ 0 ∨ mk then 6 else 0)

/-- The literal in place of field b (R29). -/
def readLit (k : Kind) (v : BitVec 7) (mk : Bool) (w2 : W32) : FieldResult :=
  (.lit w2,
    if v ≠ 0 ∨ mk then 6
    else match k with
      | .i5 => if w2.toNat < 32 then 0 else 6
      | .i7 => if -64 ≤ w2.toInt ∧ w2.toInt < 64 then 0 else 6
      | _ => 0)

/-- The least failing subcode of a list: the checks of R50 stand in the order of their subcodes. -/
def firstErr : List Nat → Nat
  | [] => 0
  | e :: es =>
    let r := firstErr es
    if e = 0 then r else if r = 0 then e else min e r

/-- The operands and the subcodes of everything that fails, for a row of the table. -/
def readOps (cx : DecodeCtx) (row : Row) (i : Instr) (sel : BitVec 4) (r : Raw) : Ops × List Nat :=
  let side := cx.side
  let form : Form := if r.len = 0 then .w32 else if r.len = 1 then .w64 else .w96
  let k := fun (k : Kind) (p : Pos) => k.resolve side r.x8 sel r.c p
  let is96 := form == .w96
  let litOk := row.lit.allows side r.x8 && rsbLit row.b r.c
  let offRow := row.d == .off
  let rd : FieldResult := if offRow then (.none, 0) else readField side (k row.d .d) r.x8 r.d false
  let ra : FieldResult := if offRow then (.none, 0) else readField side (k row.a .a) r.x8 r.a r.la
  let rb : FieldResult :=
    if offRow then
      if is96 then (.lit r.lit, if r.d ≠ 0 ∨ r.a ≠ 0 ∨ r.b ≠ 0 ∨ r.la ∨ r.lb then 6 else 0)
      else (.off (r.b ++ r.a ++ r.d), if r.la ∨ r.lb then 6 else 0)
    else if is96 && litOk then readLit (k row.b .b) r.b r.lb r.lit
    else readField side (k row.b .b) r.x8 r.b r.lb
  let rc : FieldResult := readField side (k row.c .c) r.x8 r.c r.lc
  let pred : Fin 8 := ⟨r.pred.toNat, r.pred.isLt⟩
  let o : Ops :=
    { form, pred, pneg := r.pneg, stall := r.stall, d := rd.1, a := ra.1, b := rb.1, c := rc.1, x8 := r.x8, sel }
  (o, [rd.2, ra.2, rb.2, rc.2,
       (if is96 && !litOk then 6 else 0),
       (if !is96 && row.lit == .need then 6 else 0),
       scalarErr side (k row.d .d) rd.1 (scalarSrcs row.a row.b row.c ra.1 rb.1 rc.1),
       row.x8.err side r.x8,
       entryErr side i sel r.x8 rd.1 ra.1 ra.1.immVal rc.1.immVal,
       guardErr side i pred r.pneg])

/-- The checks of R50 after the row is known: side, then names, must-be-zero fields, rounding, format and scope in the order
of their subcodes, then privilege. -/
def finish (cx : DecodeCtx) (row : Row) (i : Instr) (sel : BitVec 4) (subOk : Bool) (r : Raw) : Except DecodeErr Insn :=
  if !sideOk cx row i then .error (.illegal 4)
  else
    let q := readOps cx row i sel r
    let e := firstErr ((if subOk then 0 else 6) :: q.2)
    if e ≠ 0 then .error (.illegal (BitVec.ofNat 8 e))
    else if privileged i && !cx.sup then .error .priv
    else .ok ⟨i, q.1⟩

/-- The operation code that the sub-opcode of an atomic carries (R48, R169). -/
def selOf (op sub : Nat) : BitVec 4 :=
  if (op = 0x64 ∨ op = 0x65 ∨ op = 0x6B) ∧ 0x10 ≤ sub then BitVec.ofNat 4 (sub % 16) else 0

/-- Decodes fields whose word0 passed word0Check. -/
def decodeRaw (cx : DecodeCtx) (r : Raw) : Except DecodeErr Insn :=
  let op := r.op.toNat
  if op < 0x60 then
    match compactRow op, compactMk op, compactLongMk op with
    | some row, short, some long =>
      if r.len = 0 then
        match short with
        | some i => finish cx row i 0 true r
        | none => finish cx row long 0 true r
      else finish cx row long 0 (r.sub = 0) r
    | _, _, _ => .error (.illegal 2)
  else
    match wideRow op r.sub.toNat, wideMk op r.sub.toNat r.x8.toNat r.c.toNat with
    | some row, some i => finish cx row i (selOf op r.sub.toNat) true r
    | _, _ => .error (.illegal 3)

/-- Decodes an instruction from its words in the order of R50; words it does not have are ignored. -/
def decodeWords (cx : DecodeCtx) (w0 w1 w2 : W32) : Except DecodeErr Insn :=
  match word0Check w0 with
  | .error e => .error e
  | .ok n => decodeRaw cx (Raw.ofWords w0 (if n = 1 then defaultWord1 else w1) (if n = 3 then w2 else 0))

/-- Words of a little-endian list of bytes (R3). -/
def wordAt (bs : List Byte) (i : Nat) : W32 :=
  (bs.getD (i + 3) 0) ++ (bs.getD (i + 2) 0) ++ (bs.getD (i + 1) 0) ++ (bs.getD i 0)

/-- Decodes the instruction at the head of a list of bytes, and gives the bytes after it. Bytes that run out read as
zero: fetch never hands fewer than an instruction has. -/
def decode (cx : DecodeCtx) (bs : List Byte) : Except DecodeErr (Insn × List Byte) :=
  match decodeWords cx (wordAt bs 0) (wordAt bs 4) (wordAt bs 8) with
  | .error e => .error e
  | .ok x => .ok (x, bs.drop x.args.form.bytes)

/-- The code and mark a field is encoded as (R26, R27). -/
def Field.bits : Field → BitVec 7 × Bool
  | .none => (0, false)
  | .reg n last => (n.code, last)
  | .pred p => (BitVec.ofNat 7 p.val, false)
  | .imm v => (v, false)
  | .off _ => (0, false)
  | .lit _ => (0, false)

/-- The literal word of an instruction (R29). -/
def Field.litWord : Field → W32
  | .lit v => v
  | _ => 0

/-- The fields an instruction is encoded with. -/
def Insn.raw (x : Insn) (c : Code) : Raw :=
  let o := x.args
  let base : Raw :=
    { lb := o.b.bits.2, la := o.a.bits.2, b := o.b.bits.1, a := o.a.bits.1, d := o.d.bits.1,
      op := BitVec.ofNat 7 c.op,
      len := (match o.form with | .w32 => 0 | .w64 => 1 | .w96 => 2),
      x8 := o.x8, stall := o.stall, sub := BitVec.ofNat 8 (c.sub + o.sel.toNat), lc := o.c.bits.2, c := o.c.bits.1,
      pneg := o.pneg, pred := BitVec.ofNat 3 o.pred.val, lit := o.b.litWord }
  match o.b with
  | .off v => { base with b := v.extractLsb' 14 7, a := v.extractLsb' 7 7, d := v.extractLsb' 0 7 }
  | _ => base

/-- The words of an instruction (R25-R29); none for an event. -/
def encode (x : Insn) : List W32 :=
  match code x.op with
  | none => []
  | some c =>
    let r := x.raw c
    match x.args.form with
    | .w32 => [r.word0]
    | .w64 => [r.word0, r.word1]
    | .w96 => [r.word0, r.word1, r.lit]

/-- The four bytes of a word in memory order (R3). -/
def bytesOf (w : W32) : List Byte :=
  [w.extractLsb' 0 8, w.extractLsb' 8 8, w.extractLsb' 16 8, w.extractLsb' 24 8]

/-- The bytes of an instruction in memory order. -/
def encodeBytes (x : Insn) : List Byte := (encode x).flatMap bytesOf

/-- The decoding context of each side in which the most decodes: a coresident grid, a supervisor engine in program mode. -/
def widestCtx (side : Side) : DecodeCtx := ⟨side, false, true, true⟩

/-- The words of a table encoding, bit 0 the least significant of the first word. -/
def tableWord (w i : Nat) : W32 := BitVec.ofNat 32 (w >>> (32 * i))

/-- The first of the three sides on which words decode, execute before access before queue engine, with what they decode to. -/
def decodeAnySide (w0 w1 w2 : W32) : Option (Side × Insn) :=
  match decodeWords (widestCtx .exec) w0 w1 w2 with
  | .ok x => some (.exec, x)
  | .error _ =>
    match decodeWords (widestCtx .access) w0 w1 w2 with
    | .ok x => some (.access, x)
    | .error _ =>
      match decodeWords (widestCtx .queue) w0 w1 w2 with
      | .ok x => some (.queue, x)
      | .error _ => none

/-- The instruction the decoder reads from a table encoding of nbits bits; the bits above are zero. The bytes are laid out
as the part stores them and decoded on the first side that accepts them. -/
def decodeTableWord (nbits w : Nat) : Option Instr :=
  let v := w % 2 ^ nbits
  let bs := bytesOf (tableWord v 0) ++ bytesOf (tableWord v 1) ++ bytesOf (tableWord v 2)
  (decodeAnySide (wordAt bs 0) (wordAt bs 4) (wordAt bs 8)).map (fun p => p.2.op)

end Sys2Proof
end

