-- ==== Sys2Proof/Machine/Cipher.lean ====
section
/-! DEFINITION. AES-XTS-256, under which the memory controllers keep each sector (R370). PRESUMED, entry 6: the algorithm is the standards'
(FIPS 197, IEEE 1619), which the spec names and does not repeat. -/

namespace Sys2Proof.Machine

/-! ### Bytes as elements of the field of 256 elements -/

/-- An element times x. -/
def timesX (a : Nat) : Nat := if 128 ≤ a then (2 * a) ^^^ 0x11B else 2 * a

/-- The product of two elements. -/
def gfMul (a b : Nat) : Nat :=
  ((List.range 8).foldl (fun (x : Nat × Nat) i => (if b / 2 ^ i % 2 = 1 then x.1 ^^^ x.2 else x.1, timesX x.2)) (0, a)).1

/-- The inverse of an element, 0 of 0: its 254th power. -/
def gfInv (a : Nat) : Nat :=
  ((List.range 7).foldl (fun (x : Nat × Nat) _ => let q := gfMul x.2 x.2; (gfMul x.1 q, q)) (1, a)).1

/-- A byte rotated left. -/
def rotByte (b n : Nat) : Nat := b * 2 ^ n % 256 + b * 2 ^ n / 256

/-- The substitution of a byte, and its inverse. -/
def subByte (a : Nat) : Nat :=
  let b := gfInv a
  b ^^^ rotByte b 1 ^^^ rotByte b 2 ^^^ rotByte b 3 ^^^ rotByte b 4 ^^^ 0x63
def unsubByte (a : Nat) : Nat := gfInv (rotByte a 1 ^^^ rotByte a 3 ^^^ rotByte a 6 ^^^ 5)

/-! ### A block: its 16 bytes in order, four to a column -/

/-- Two lists of bytes added. -/
def addBytes (a b : List Nat) : List Nat := (a.zip b).map (fun x => x.1 ^^^ x.2)

/-- Row r of a block turned by r columns. -/
def shiftRows (s : List Nat) : List Nat := (List.range 16).map (fun i => s.getD (4 * ((i / 4 + i % 4) % 4) + i % 4) 0)
def unshiftRows (s : List Nat) : List Nat := (List.range 16).map (fun i => s.getD (4 * ((i / 4 + 4 - i % 4) % 4) + i % 4) 0)

/-- Each column times a fixed polynomial, given by its coefficients for row 0. -/
def mixColumns (m s : List Nat) : List Nat :=
  (List.range 16).map (fun i =>
    (List.range 4).foldl (fun a j => a ^^^ gfMul (s.getD (4 * (i / 4) + (i + j) % 4) 0) (m.getD j 0)) 0)

/-! ### AES-256 -/

/-- The next word of a key schedule, whose words so far stand newest first. -/
def nextWord (ws : List (List Nat)) : List Nat :=
  let i := ws.length
  let last := ws.headD []
  let t :=
    if i % 8 = 0 then addBytes ((last.drop 1 ++ last.take 1).map subByte) [2 ^ (i / 8 - 1), 0, 0, 0]
    else if i % 8 = 4 then last.map subByte else last
  addBytes (ws.getD 7 []) t

/-- A schedule grown by n words. -/
def grow : Nat → List (List Nat) → List (List Nat)
  | 0, ws => ws
  | n + 1, ws => grow n (nextWord ws :: ws)

/-- The fifteen round keys of a key of 32 bytes. -/
def roundKeys (key : List Nat) : List (List Nat) :=
  let ws := (grow 52 ((List.range 8).reverse.map (fun i => (key.drop (4 * i)).take 4))).reverse
  (List.range 15).map (fun r => ((ws.drop (4 * r)).take 4).flatten)

/-- A block enciphered under its round keys. -/
def aesBlock (ks : List (List Nat)) (b : List Nat) : List Nat :=
  let s := (List.range 13).foldl (fun s r => addBytes (mixColumns [2, 3, 1, 1] (shiftRows (s.map subByte))) (ks.getD (r + 1) []))
    (addBytes b (ks.getD 0 []))
  addBytes (shiftRows (s.map subByte)) (ks.getD 14 [])

/-- A block deciphered. -/
def aesUnblock (ks : List (List Nat)) (b : List Nat) : List Nat :=
  let s := (List.range 13).foldl (fun s r =>
      mixColumns [14, 11, 13, 9] (addBytes ((unshiftRows s).map unsubByte) (ks.getD (13 - r) [])))
    (addBytes b (ks.getD 14 []))
  addBytes ((unshiftRows s).map unsubByte) (ks.getD 0 [])

/-! ### XTS over a sector of two blocks -/

/-- The n bytes of a number, the least first, and back. -/
def splitBytes (v n : Nat) : List Nat := (List.range n).map (fun i => v / 256 ^ i % 256)
def joinBytes (l : List Nat) : Nat := l.foldr (fun b n => b + 256 * n) 0

/-- The mask of the next block of a data unit. -/
def nextMask (t : Nat) : Nat := if 2 ^ 127 ≤ t then (2 * t % 2 ^ 128) ^^^ 0x87 else 2 * t

/-- Each block of a sector under its mask: the key's first half works on the data, its second on the tweak. -/
def xts (f : List (List Nat) → List Nat → List Nat) (key : BitVec 512) (tweak : Nat) (v : BitVec 256) : BitVec 256 :=
  let ks := roundKeys (splitBytes (key.toNat % 2 ^ 256) 32)
  let t := joinBytes (aesBlock (roundKeys (splitBytes (key.toNat / 2 ^ 256) 32)) (splitBytes tweak 16))
  let one (x t : Nat) : Nat := joinBytes (f ks (splitBytes (x ^^^ t) 16)) ^^^ t
  BitVec.ofNat 256 (one (v.toNat % 2 ^ 128) t + one (v.toNat / 2 ^ 128) (nextMask t) * 2 ^ 128)

/-- The ciphertext that the HBM holds of a sector, and the sector that a ciphertext reads as (R370). -/
def sealSector (key : BitVec 512) (tweak : Nat) (v : BitVec 256) : BitVec 256 := xts aesBlock key tweak v
def unsealSector (key : BitVec 512) (tweak : Nat) (v : BitVec 256) : BitVec 256 := xts aesUnblock key tweak v

end Sys2Proof.Machine
end

