-- ==== Sys2Proof/Config.lean ====
section
/-! DEFINITION. What an implementation fixes (module counts of R1, R10, R23) and the free values the manual leaves open. -/

namespace Sys2Proof.Config

/-- The two orderable modules (R1). -/
inductive ModuleKind where
  | a
  | b
  deriving DecidableEq, Repr

/-- Logical rows of cores in one cluster (R10). -/
def rows : ModuleKind → Nat
  | .a => 16
  | .b => 15

/-- Enabled HBM stacks of an undegraded module (R1). -/
def hbmStacks : ModuleKind → Nat
  | .a => 8
  | .b => 6

/-- Umtur links of an undegraded module (R1). -/
def links : ModuleKind → Nat
  | .a => 16
  | .b => 12

/-- The module modelled: a JV880-A. Every rule holds per unit on either (R24).
DESIGN CHOICE, entry 5 of the assumption log. -/
def kind : ModuleKind := .a

/-- Bytes of one HBM stack: 48 GB (R23). -/
def stackBytes : Nat := 48000000000

/-- Logical rows of the module modelled. -/
def gridRows : Nat := rows kind

/-- Free value: the bits of a memory key, which firmware loads from the random source and no level ever reads (R370). Argument: the key
with the number of its load. Entry 6 of the assumption log. -/
opaque memoryKey : Nat → BitVec 512

/-- Free value: the hash by which a device chooses among the eligible next hops of least hop count (R271).
Arguments: destination device, line of the target IA, issuing thread. Entry 7. -/
opaque hopHash : Nat → Nat → Nat → Nat

/-- Free value: the bytes of the part's own control image and of the store images whose layout inside a core
region R402 does not give. Arguments: the fresh counter, the byte offset. Entry 8. -/
opaque imageByte : Nat → Nat → BitVec 8

/-- Free value: doublewords of the counter catalogue reply to mailbox command 0x01 (R416). Entry 9. -/
opaque catalogue : Nat → BitVec 64

/-- Free value: which lifetime counter the counter window shows at a doubleword: the catalogue's order (R416). Entry 9. -/
opaque counterAt : Nat → Nat

/-- Free value: the digest of the boot ROM (R382). Entry 9. -/
opaque bootDigest : BitVec 384

/-- Free values of the check of a firmware image (R381), entry 58: the hashes of the two public keys and the security version that are
fused in the die, and the image that stands in a flash slot which no IMAGE_WRITE has written. -/
opaque fusedRsa : BitVec 384
opaque fusedSlh : BitVec 384
opaque fusedVersion : Nat
opaque factoryImage : Nat → FwImage

/-- Free values of attestation (R382), entry 58: the private key that is derived from the fused secret and a firmware digest, the
certificate chain of that key, and, by the fresh counter, the secret number of a signature and the nonce of an answer. -/
opaque deviceKey : BitVec 384 → Nat
opaque certChain : BitVec 384 → List Byte
opaque signSecret : Nat → Nat
opaque nonce : Nat → BitVec 256

/-- Free value: the word an instruction fetch delivers when its memory word reads poisoned, which the manual does not say.
Arguments: the address, the fresh counter. Entry 11. -/
opaque poisonedCode : Nat → Nat → BitVec 32

end Sys2Proof.Config
end

