-- ==== Sys2Proof/Machine/Assoc.lean ====
section
/-! DEFINITION. Finite maps as sorted lists of key and value, and finite sets of numbers as sorted lists: one canonical form,
so that equal maps are equal data. -/

namespace Sys2Proof.Machine

/-- A finite map from numbers: keys strictly rising. -/
abbrev Assoc (α : Type) := List (Nat × α)

/-- The value at a key. -/
def Assoc.find {α : Type} : Assoc α → Nat → Option α
  | [], _ => none
  | (j, v) :: m, k => if j = k then some v else if k < j then none else Assoc.find m k

/-- The map with a key set to a value. -/
def Assoc.put {α : Type} : Assoc α → Nat → α → Assoc α
  | [], k, v => [(k, v)]
  | (j, w) :: m, k, v =>
    if j = k then (k, v) :: m
    else if k < j then (k, v) :: (j, w) :: m
    else (j, w) :: Assoc.put m k v

/-- The map without a key. -/
def Assoc.del {α : Type} : Assoc α → Nat → Assoc α
  | [], _ => []
  | (j, w) :: m, k =>
    if j = k then m
    else if k < j then (j, w) :: m
    else (j, w) :: Assoc.del m k

/-- The map with the value at a key changed, when there is one. -/
def Assoc.alter {α : Type} (m : Assoc α) (k : Nat) (f : α → α) : Assoc α :=
  match m.find k with
  | some v => m.put k (f v)
  | none => m

/-- The value at a key, or a default. -/
def Assoc.get {α : Type} (m : Assoc α) (k : Nat) (d : α) : α := (m.find k).getD d

/-- Keys rise strictly from above a bound. -/
def Assoc.sortedFrom {α : Type} : Nat → Assoc α → Bool
  | _, [] => true
  | b, (j, _) :: m => decide (b ≤ j) && Assoc.sortedFrom (j + 1) m

/-- The canonical form: keys strictly rising. -/
def Assoc.wf {α : Type} (m : Assoc α) : Bool := m.sortedFrom 0

/-- A finite set of numbers: strictly rising. -/
abbrev NatSet := List Nat

/-- Membership. -/
def NatSet.has : NatSet → Nat → Bool
  | [], _ => false
  | j :: m, k => if j = k then true else if k < j then false else NatSet.has m k

/-- The set with a number. -/
def NatSet.add : NatSet → Nat → NatSet
  | [], k => [k]
  | j :: m, k => if j = k then j :: m else if k < j then k :: j :: m else j :: NatSet.add m k

/-- The set without a number. -/
def NatSet.rem : NatSet → Nat → NatSet
  | [], _ => []
  | j :: m, k => if j = k then m else if k < j then j :: m else j :: NatSet.rem m k

end Sys2Proof.Machine
end

