-- ==== Sys2Proof/Machine/State.lean ====
section
/-! DEFINITION. The machine's state as plain data, the reasons a step can stop, and the state right after power-on. -/

namespace Sys2Proof.Machine

/-- A reason the model stops with a fault. -/
inductive Fault where
  /-- Raised by a meaning of an instruction row executed while no unit is current. Safe: step sets the unit before it
  executes, so no step of the machine raises it. -/
  | noUnit
  deriving DecidableEq, Repr

/-- A reason the model refuses. -/
inductive Refusal where
  /-- Raised by an arm of exec whose instruction has no meaning yet. Safe: nothing follows about it. -/
  | notModelled (mnemonic : String)
  deriving DecidableEq, Repr

/-! ### Traps -/

/-- What a failing check fixes of a trap record (R386); the rest is the thread's. -/
structure TrapInfo where
  code     : BitVec 8
  sub      : BitVec 8
  flags    : BitVec 6 := 0
  port     : Option Nat := none
  pos      : W32 := 0
  osub     : BitVec 8 := 0
  handle   : BitVec 8 := 0
  lane     : Option Nat := none
  loc      : W64 := 0
  value    : W64 := 0
  vpois    : Bool := false
  done     : Bool := false
  deferred : Bool := false
  oaddr    : W64 := 0
  chunk    : BitVec 8 := 0
  deriving DecidableEq, Repr

/-- A trap record (R386), with the len of the word0 on which the trap was taken (R393). -/
structure TrapRec where
  info   : TrapInfo
  ctx    : Nat
  side   : Side
  ticket : W64
  pc     : W64
  place  : Nat
  sgen   : Nat
  sclock : Nat
  tflags : BitVec 6
  more   : BitVec 8
  len0   : BitVec 2
  deriving DecidableEq, Repr

/-- A fault kept for a later instruction of the thread (R388): its kind, class and record. -/
structure Deferred where
  /-- 0 a pattern engine's store (R200), 1 an RST refused at its target (R263), 2 a memory-side failure (R161). -/
  kind : Nat
  /-- Destination class (R224). -/
  cls  : Nat
  /-- The port of a pattern store. -/
  port : Nat
  info : TrapInfo
  deriving DecidableEq, Repr

/-! ### Requests and where their answers land -/

/-- Where the value of an operation that ends later is written. -/
inductive Landing where
  | none
  /-- A lane of one strip-register, or of two for a pair (R298). -/
  | sreg (team strip lane lo : Nat) (hi : Option Nat)
  /-- s register of an access thread. -/
  | apS (team strip reg : Nat)
  /-- The access thread's blocking instruction, lane by lane. -/
  | block (team strip lane : Nat)
  /-- One slot of a reserved row of a port. -/
  | port (key row lane : Nat)
  /-- A whole sline row of a port. -/
  | line (key row : Nat)
  /-- w register of a queue engine. -/
  | qW (engine reg : Nat)
  /-- An execute thread that is held until it can push the value (R185). -/
  | push (team tid port : Nat)
  deriving DecidableEq, Repr

/-- What a request does at the memory side. -/
inductive ReqKind where
  | load
  | store (data : Nat) (poison : Bool)
  /-- Operation of R169, width 32 or 64, operand and compare value, and whether the old value returns. -/
  | atomic (op width : Nat) (v cmp : W64) (ret : Bool)
  | tagGet
  | tagSet (t : BitVec 4)
  /-- An SHDW or a PUBL of a pair of a peer's memory: its windows there (R247, R248). -/
  | pair (publ : Bool) (target shadow : List (Nat × Nat))
  deriving DecidableEq, Repr

/-- How far a request has come (R148, R153, R161, R256, R378). -/
inductive Phase where
  /-- On its way to its slice. -/
  | sent
  /-- Answered NACK-REPLAY: to be injected again. -/
  | nacked
  /-- Handed to a walk unit. -/
  | walking
  /-- Parked on a page until INVR covers it: the page's base IA and its fault record cause. -/
  | parked (page cause : Nat)
  /-- Sent to the peer device of its leaf, through a link (16 for none); 32 more once that link has left service (R271). -/
  | remote (dev ia : Nat) (deadline : Nat) (link : Nat)
  /-- A park notice of the peer stands (R257); the link it left by (R271). -/
  | remoteParked (dev ia link : Nat)
  /-- Held for a back-invalidate response (R379). -/
  | snoop
  /-- Performed: the reply is on its way. -/
  | done (data : Nat) (poison : Bool)
  /-- Failed a check of the memory side. -/
  | failed (t : TrapInfo)
  /-- Recorded for reissue at a restore (R400). -/
  | halted
  deriving DecidableEq, Repr

/-- Who a request belongs to: an issuing unit, the pattern engine of a port, or an asynchronous operation by number. -/
inductive Owner where
  | unit (u : Agent)
  | pat (key : Nat)
  | eng (n : Nat)
  deriving DecidableEq, Repr

/-- One request to memory (R400, R401): program order is the order of request numbers. -/
structure Req where
  owner  : Owner
  ctx    : Nat
  core   : Nat
  sgen   : Nat
  space  : Nat
  handle : Nat
  /-- The handle's order and cache fields (R138). -/
  order  : Nat
  cache  : Nat
  loc    : Nat
  size   : Nat
  ia     : Nat
  /-- host and peer of the translating range register (R146). -/
  host   : Bool
  peer   : Bool
  ptag   : Option (BitVec 4)
  kind   : ReqKind
  /-- Destination class (R224). -/
  cls    : Nat
  /-- The leaf's order where the walk has met it (R160). -/
  attr   : Option Nat
  gen    : Nat
  iaddr  : Nat
  lane   : Nat
  /-- Deferred faults of kind 1 (RST) rather than 2 (R263). -/
  rst    : Bool
  /-- Made through a handle with tagen (R273), and the instruction it is part of: its requests to one line are one request of 64 bytes
  (R14). -/
  tagen  : Bool
  issue  : Nat
  /-- The leaf that its walk found, and log2 of the page of that leaf: for peer memory, those it was sent under (R151). -/
  leaf   : Nat := 0
  page   : Nat := 16
  /-- The clock of its issue: with the address, the issue slot that it shares with other threads of its team (R20, R166). -/
  clock  : Nat := 0
  landing : Landing
  /-- Threads whose four counters its elements count in: store-stream elements (R199). -/
  pusher : List (Nat × Nat)
  phase  : Phase
  deriving DecidableEq, Repr

/-! ### Threads -/

/-- What a waiting unit waits for (R289). -/
inductive Wait where
  /-- A port row or a free row (R182, R187): port and whether it pushes. -/
  | port (n : Nat) (push : Bool)
  /-- Strip-registers of the pool (R301). -/
  | pool
  /-- Registers with a write in flight: strip-registers, or s or w registers, by number. -/
  | scoreboard (rs : NatSet)
  /-- The loads and atomics of its blocking instruction (R161). -/
  | mem
  /-- Earlier accesses of its own, by request number (R228). -/
  | order (ns : NatSet)
  /-- A fetch or a table read on a parked page. -/
  | page (ia : Nat)
  /-- The counters and accesses of a fence or an exit that a mask of kinds and classes names, and whether loads are among them (R235,
  R308). -/
  | counters (m : Nat) (loads : Bool)
  /-- A named barrier (R345). -/
  | barrier (n : Nat)
  | cbar
  | gbar
  /-- Companions of a joint instruction: its address and the members read at arrival (R313). -/
  | joint (addr : Nat) (members : NatSet)
  | stripOp
  /-- The rendezvous latch or the MMA it released (R108). -/
  | latch
  /-- Ownership of the matrix engine (R125). -/
  | engine
  /-- The end of the matrix operations that entered before operation number n (R106, R129). -/
  | mqueue (n : Nat)
  /-- A semaphore and the value it must reach (R327, R335). -/
  | sem (i : Nat) (v : W64)
  /-- A word in memory (R311): when it polls again. -/
  | word (deadline : Nat)
  /-- The generation of an arrival word (R245), by its Loc.key. -/
  | arrival (key : Nat)
  | copies
  | messages
  | wdqs
  | publish
  | grids
  | plan
  /-- A free entry of the store buffer or of the outstanding requests (R230, R400). -/
  | room
  /-- The result of an instruction with a port destination (R185). -/
  | result
  /-- Completion of a system operation (R374, R378). -/
  | sysop
  deriving DecidableEq, Repr

/-- The states of R289; parked time is derived from what a unit waits for. -/
inductive Status where
  | ready
  | waiting (w : Wait) (since : Nat)
  | held
  | sleeping (wake : Nat)
  | stopped (r : TrapRec)
  | exited
  deriving DecidableEq, Repr

/-- The blocking load, atomic or remote access of an access thread: what it executes and what each lane has received. -/
structure Block where
  insn  : Insn
  lanes : Assoc (Option (Except TrapInfo Val))
  deriving DecidableEq, Repr

/-- What every execute thread, access thread and queue engine has (R230, R231, R388, R394). -/
structure Ctl where
  pc       : Nat := 0
  status   : Status := .ready
  /-- The clock before which it may not issue (R44), and the clock of its last issue. -/
  stallUntil : Nat := 0
  /-- The len field of the instruction it last issued. -/
  len        : BitVec 2 := 0
  lastIssue  : Option Nat := none
  /-- The clock at which it last became ready (R290). -/
  readySince : Nat := 0
  /-- Store buffer by request number, so oldest first: stores, reductions and store-stream pushes (R230). -/
  sbuf     : Assoc Req := []
  /-- Unacknowledged-store counters by class: local, device, peer, host (R231). -/
  unack    : List Nat := [0, 0, 0, 0]
  deferred : List Deferred := []
  more     : BitVec 8 := 0
  /-- Traps taken, modulo 8 (R392). -/
  traps    : BitVec 3 := 0
  /-- sr.trapinfo (R394). -/
  tinfo    : W32 := 0
  /-- WDQ end bit (R347). -/
  wdqEnd   : Bool := false
  /-- The elements RESUMET .repl gave and the thread has not popped, by port and position (replKey; R194, R393). -/
  repl     : Assoc Val := []
  /-- Discarding pops that a QSKIP or QDRAIN in progress has still to make (R212): none of them counted for QDRAIN. -/
  skip     : Option (Option Nat) := none
  /-- Where it waits for the matrix queue: the operation number from which it need not (R106). -/
  mark     : Option Nat := none
  /-- The address at which it trapped, where a RESUMET has resumed it there: a joint instruction at that address has the thread as its sole
  participant (R313). -/
  solo     : Option Nat := none
  /-- It has tried its next instruction, which could issue: it is ready (R289), and issues when it is chosen (R290). -/
  able     : Bool := false
  deriving DecidableEq, Repr

/-- A write of an L4 to L12 instruction that check mode still watches (R45): the register, its latency, the sum of hints so
far, and whether every hint so far was non-zero. -/
structure Hazard where
  reg  : Nat
  lat  : Nat
  sum  : Nat
  hint : Bool
  deriving DecidableEq, Repr

/-- An execute thread (R289). -/
structure ExThread where
  ctl   : Ctl := {}
  /-- Meeting register: target code offset and member mask (R295). -/
  meet  : Option (W32 × W64) := none
  /-- f0-f6 and their poison (R38, R79). -/
  f     : BitVec 7 := 0
  fp    : BitVec 7 := 0
  /-- sr.portstat eos (R190). -/
  eos   : BitVec 16 := 0
  /-- Pass mark (R313). -/
  pass  : Option Nat := none
  hazards : List Hazard := []
  /-- The instruction at which it waits for companions, and the mask of a joint instruction as it read it on arriving (R313). -/
  arr   : Option Insn := none
  mask  : Val := Val.zero
  deriving DecidableEq, Repr

/-- An access thread (R17, R35). A vector register is 16 lanes of 64 bits with a poison bit a lane. -/
structure ApThread where
  ctl   : Ctl := {}
  a     : List (BitVec 1024 × BitVec 16) := List.replicate 32 (0, 0)
  s     : List (W64 × Bool) := List.replicate 16 (0, false)
  m     : List MaskReg := List.replicate 7 ⟨0, false⟩
  /-- s registers whose status word is still to come. -/
  spend : BitVec 16 := 0
  blk   : Option Block := none
  deriving DecidableEq, Repr

/-- A strip-register in use (R297, R300): the name it was allocated for, the threads whose entry names it, the lanes with a
write in flight, and the lanes' values. -/
structure SReg where
  id    : Nat
  name  : Nat
  live  : BitVec 16
  pend  : BitVec 16
  vals  : BitVec 512
  pois  : BitVec 16
  deriving DecidableEq, Repr

/-- A strip of a team (R19, R297): the current register of each name with its written mask, and its registers. -/
structure Strip where
  cur    : Assoc (Nat × BitVec 16) := []
  regs   : List SReg := []
  /-- The strip operation recorded: address and arrived lanes (R207). -/
  op     : Option (Nat × BitVec 16) := none
  /-- Since when every party is blocked on the strip (R201). -/
  blocked : Option Nat := none
  deriving DecidableEq, Repr

/-! ### Ports -/

/-- A fault token (R193). -/
structure Token where
  code   : BitVec 8
  sub    : BitVec 8
  handle : BitVec 8
  loc    : W64
  deriving DecidableEq, Repr

/-- One lane of a row (R185, R196). -/
inductive Slot where
  | pending
  | data (v : BitVec 512) (poison : Bool)
  | token (t : Token)
  /-- Left by a thread that exited (R185). -/
  | absent
  deriving DecidableEq, Repr

/-- The kinds of R174. -/
inductive PortKind where
  | acc
  | pat
  | back
  | store
  deriving DecidableEq, Repr

/-- The element modes of R175. -/
inductive PortMode where
  | elem
  | sline
  | rline
  deriving DecidableEq, Repr

/-- A pattern engine as its port holds it (R203, R204, R210). -/
structure PatEngine where
  counts  : List Nat
  strides : List Int
  running : Bool
  handle  : Nat
  start   : Nat
  step    : Nat
  total   : Nat
  /-- First row of the current run. -/
  base    : Nat
  /-- A QEOS has ended the stream since the last PATGO (R210, R213). -/
  cut     : Bool := false
  deriving DecidableEq, Repr

/-- A bound port (R173-R178). Positions count rows; rows holds those present, the first with index head. -/
structure Port where
  kind    : PortKind
  mode    : PortMode
  width   : Nat
  depth   : Nat
  adv     : Bool
  eostrap : Bool
  sx      : Bool
  gen     : Bool
  head    : Nat
  rows    : List (List Slot)
  /-- Pop or push position of each lane's execute thread. -/
  pos     : List Nat
  /-- Pop position of the access thread. -/
  apop    : Nat
  /-- Next row a producer reserves. -/
  reserve : Nat
  fin     : Option Nat
  engine  : Option PatEngine
  deriving DecidableEq, Repr

/-! ### Teams, cores, grids -/

/-- A named barrier in a phase (R345). -/
structure Barrier where
  count   : Nat := 0
  arrived : NatSet := []
  total   : Nat := 0
  waiters : NatSet := []
  deriving DecidableEq, Repr

/-- The rendezvous latch and the MMA it released (R108, R123). -/
structure Latch where
  addr      : Nat
  insn      : Insn
  arrived   : NatSet
  released  : Bool
  /-- The threads that trapped at it and have not come back: the MMA is suspended until they do. -/
  suspended : NatSet
  deriving DecidableEq, Repr

/-- A resident or saved team (R18, R338). -/
structure Team where
  gid     : Nat
  ctx     : Nat
  cohort  : Nat
  tix     : Nat
  /-- sr.team (R302). -/
  team    : Nat
  /-- The core, or the one at even x of a pair. -/
  core    : Nat
  pair    : Bool
  placed  : Bool
  started : Bool
  slot    : Nat
  spbase  : Nat
  strips  : Nat
  flags   : BitVec 6 := 0
  /-- Queue-memory entries and engines left of the reserve, on each of its cores (R176, R202). -/
  qmem    : List Nat
  peng    : List Nat
  barriers : Assoc Barrier := []
  cbarrier : NatSet := []
  gbarrier : NatSet := []
  gang    : List Nat := []
  /-- Halves whose matrix engine the team held when it was saved and has not been granted again (R122). -/
  regrant : NatSet := []
  /-- The core and the window base it was saved on (R402), until it is loaded again. -/
  home    : Option (Nat × Nat) := none
  /-- Every thread has exited and the team's record is free again (R342). -/
  ended   : Bool := false
  latch   : Option Latch := none
  poolSince : Option Nat := none
  /-- Kettle: active clocks of the current period, whether it has beaten, missed periods, clocks since a retire (R349). -/
  active  : Nat := 0
  beaten  : Bool := false
  missed  : Nat := 0
  idle    : Nat := 0
  hung    : Bool := false
  deriving DecidableEq, Repr

/-- An entry of the matrix engine's operation queue (R106). -/
structure MatOp where
  id     : Nat
  team   : Nat
  tid    : Nat
  insn   : Insn
  /-- Operand values captured at entry: a, b, c. -/
  va     : W64
  vb     : W64
  vc     : W64
  landing : Landing
  /-- Next chunk of an MMA, the flags raised so far, its strips, the place of its next record, and whether the checks before
  its first chunk have been made (R112). -/
  chunk  : Nat := 0
  flags  : BitVec 6 := 0
  gang   : List Nat := []
  woff   : Nat := 0
  ready  : Bool := false
  /-- Rows of a transfer performed, line of the first poisoned one, and the failure that ended it. -/
  rows   : Nat := 0
  pline  : Option Nat := none
  fail   : Option (Nat × Nat) := none
  /-- The control word was poisoned: so is the status, and no flag is raised (R79). -/
  taint  : Bool := false
  /-- An offset of an MMA was poisoned: its leader takes POISON (R80). -/
  bad    : Bool := false
  deriving DecidableEq, Repr

/-- A tile record that MLDT leaves (R118). -/
structure TileRec where
  off  : Nat
  rows : Nat
  k    : Nat
  fmt  : Nat
  /-- Byte ranges written since by anything but that MLDT. -/
  stale : List (Nat × Nat) := []
  deriving DecidableEq, Repr

/-- A line that a core's L1 holds: 64 bytes, the poison of its two sectors, and log2 of the page it was filled under (R158, R406, R376). -/
structure L1Line where
  data   : BitVec 512
  poison : BitVec 2
  page   : Nat
  deriving DecidableEq, Repr

/-- A core (R12): its matrix engine (R103-R130), BCS owner (R132), and the lines of its caches (R33, R158). -/
structure Core where
  owner   : Option Nat := none
  waiting : List Nat := []
  lastCtx : Option Nat := none
  mcfg    : W32 := 0
  queue   : List MatOp := []
  tiles   : List TileRec := []
  bcsOwner : Option Nat := none
  /-- What stands under the number of half of a saved team: its engine's queued operations, in order (R122); none on a core. -/
  saved   : Option (List MatOp) := none
  /-- Byte ranges of its scratchpad, each with the context whose team held it last (R369); 256 for one that is gone. -/
  windows : List (Nat × Nat × Nat) := []
  /-- L1 lines by context-free line of IA (R158). -/
  l1      : Assoc L1Line := []
  /-- Instruction words by side and context and VA. -/
  icache  : Assoc W32 := []
  /-- The execute threads, by exKey, that have still to issue in the clock in which their groups were formed, that clock, and the first
  clock at which the execute datapath is free again (R13, R290). -/
  group   : List Nat := []
  groupAt : Option Nat := none
  exFree  : Nat := 0
  /-- The clock in which its address processor last issued (R14, R292). -/
  apAt    : Option Nat := none
  /-- The core's clock is the device clock plus this (R302). -/
  skew    : Nat := 0
  deriving DecidableEq, Repr

/-- What a LAUNCH or LAUNCHI has read when it parks: the record and its IA, the count unless that is what it waits for (R333), and the
entries of the port table and of the handle table read before the one it waits for (R427). -/
structure Launching where
  record  : BitVec 1024
  lrec    : Nat
  count   : Option Nat
  ports   : List Nat := []
  handles : List Nat := []
  deriving DecidableEq, Repr

/-- A queue engine (R321, R322). -/
structure Engine where
  rhost : Bool := false
  rbase : Nat := 0
  rlog  : Nat := 0
  en    : Bool := false
  sup   : Bool := false
  ctx   : Nat := 0
  hvec  : Nat := 0
  rptr  : Nat := 0
  kick  : Nat := 0
  /-- 0 idle, 1 running, 2 sleeping, 3 halted. -/
  state : Nat := 0
  code  : Nat := 0
  detail : Nat := 0
  htab  : Nat := 0
  hcnt  : Nat := 0
  ctl   : Ctl := {}
  w     : List (W64 × Bool) := List.replicate 16 (0, false)
  wpend : BitVec 16 := 0
  /-- Code base, ring or program mode with the space its fetch uses (R304, R336). -/
  base  : Nat := 0
  prog  : Bool := false
  fspace : Nat := 0
  frames : List (Bool × Nat × Nat × Nat) := []
  handles : List (BitVec 256) := []
  /-- Launches since the engine was last freshly enabled, and what keeps the grids of earlier enables apart (R323, R331). -/
  seq     : Nat := 0
  epoch   : Nat := 0
  /-- Words of the current packet still to run, and its PC (R325). -/
  left  : Nat := 0
  inPkt : Bool := false
  kickAt : Nat := 0
  /-- A write of kick that came while its context was saved (R391). -/
  kept  : Bool := false
  /-- Staged words: block selector and value (R366). -/
  staged : Assoc W64 := []
  /-- A system operation in progress: selector and value. -/
  sysop : Option (W64 × W64) := none
  /-- en was cleared in the middle of a WRSYS: the engine becomes idle at its end (R323). -/
  stopping : Bool := false
  /-- What a LAUNCH or LAUNCHI that is parked has read. -/
  launch : Option Launching := none
  deriving DecidableEq, Repr

/-- A grid from launch to completion, with its result while its engine remembers it (R328, R331, R346). -/
structure Grid where
  ctx     : Nat
  engine  : Nat
  record  : BitVec 1024
  lrec    : Nat
  count   : Nat
  handles : List (BitVec 256)
  ports   : List W32
  /-- Cohorts admitted so far, and teams that have ended. -/
  admitted : Nat := 0
  ended   : Nat := 0
  flags   : BitVec 6 := 0
  sieve   : Option Nat := none
  /-- Refusals of each cohort's proposals since the grid was posted (R341). -/
  refused : Assoc Nat := []
  lastStart : Option Nat := none
  /-- The clock at which it was posted, by which firmware knows how long it has waited (R339). -/
  posted  : Nat := 0
  status  : Option W64 := none
  deriving DecidableEq, Repr

/-- A proposal in dispatch (R340, R341). -/
structure Proposal where
  gid     : Nat
  place   : List Placement
  /-- Saved teams that it admits again (R404). -/
  restore : Bool
  /-- 0 proposed, 1 reserving, 2 backing off, 3 committed. -/
  state   : Nat := 0
  /-- Cores that have still to act on RESERVE, that hold a grant, that refused, that the dispatcher has heard, and that have
  acted on COMMIT. -/
  out     : NatSet := []
  granted : NatSet := []
  refused : NatSet := []
  answered : NatSet := []
  bound   : NatSet := []
  /-- Refusals since firmware last placed the proposal (R340). -/
  sincePlaced : Nat := 0
  deadline : Nat := 0
  deriving DecidableEq, Repr

/-! ### Asynchronous operations -/

/-- A copy in flight (R239-R241). -/
structure Copy where
  owner   : Agent
  ctx     : Nat
  gid     : Option Nat
  core    : Nat
  scope   : Nat
  ord     : Bool
  record  : BitVec 1024
  src     : BitVec 256
  dst     : BitVec 256
  arr     : Option (BitVec 256)
  landing : Landing
  /-- Elements performed, as disjoint rising intervals [lo, hi). -/
  done    : List (Nat × Nat)
  total   : Nat
  /-- Bytes already added to the arrival word. -/
  added   : Nat
  /-- Line of the first poisoned element written (R238). -/
  pline   : Option Nat
  /-- The fill of an SHDW .seed (R247). -/
  seed    : Bool
  fail    : Option (Nat × Nat)
  deriving DecidableEq, Repr

/-- A message (R251): header offset, target team, bytes. -/
structure Msg where
  owner   : Agent
  ctx     : Nat
  gid     : Nat
  target  : Nat
  hdr     : Nat
  data    : List Byte
  /-- Its poisoned 32-bit words, by number, ascending (R405). -/
  poison  : List Nat
  bad     : Bool
  /-- The target word was poisoned: so is the status (R79). -/
  tainted : Bool
  landing : Landing
  arrived : Bool
  blockedAt : Option Nat
  deriving DecidableEq, Repr

/-- A contribution to a network reduction (R252, R253). -/
structure NredOp where
  owner   : Agent
  ctx     : Nat
  gid     : Nat
  tag     : W32
  op      : Nat
  width   : Nat
  n       : Nat
  cluster : Nat
  core    : Nat
  cell    : Nat
  value   : W64
  poison  : Bool
  /-- The tag was poisoned: so is the status (R79). -/
  tainted : Bool
  landing : Landing
  /-- In an open round, or waiting for the next. -/
  joined  : Bool
  deriving DecidableEq, Repr

/-- A work request to the Sieve (R347). -/
structure WdqOp where
  owner   : Agent
  ctx     : Nat
  gid     : Nat
  core    : Nat
  addr    : Nat
  landing : Landing
  deriving DecidableEq, Repr

/-- An SHDW in its fill, or a PUBL (R247, R248). -/
structure PubOp where
  owner   : Agent
  ctx     : Nat
  gid     : Option Nat
  core    : Nat
  handle  : BitVec 256
  publ    : Bool
  scope   : Nat
  seed    : Bool
  /-- The fill that the SHDW waits for. -/
  fill    : Option Nat
  landing : Landing
  deriving DecidableEq, Repr

/-- A PSTB in progress (R136): destination cores still to write. -/
structure PstbOp where
  owner   : Agent
  ctx     : Nat
  gid     : Option Nat
  core    : Nat
  handle  : BitVec 256
  hidx    : Nat
  off     : Nat
  dst     : Nat
  words   : Nat
  scope   : Nat
  landing : Landing
  /-- Words written, whether a core was skipped, line of the first poisoned word, and the failure that ended it. -/
  done    : Nat
  skipped : Bool
  pline   : Option Nat
  fail    : Option (Nat × Nat)
  deriving DecidableEq, Repr

/-- A tensor layout record with its device list (R275, R276): its bits, and the device and shard base of each mesh index. -/
structure Layout where
  tlr  : BitVec 2048
  devs : List (Nat × Nat)
  deriving DecidableEq, Repr

/-- How far a Ladle plan has come (R283). -/
inductive PlanStage where
  /-- At its instruction, which waits for a plan slot (R285). -/
  | queued
  | sending
  /-- Done has been sent. -/
  | agreeing
  /-- Commit has come; the exchange is still to be made. -/
  | committed
  /-- Published has been answered. -/
  | published
  /-- Stopped, failed or done, with the record's page in transit: the state and fcode to be written and the status code (R153, R284). -/
  | ending (state : Nat) (fcode : Option Nat) (code : Nat)
  deriving DecidableEq, Repr

/-- A chunk that this device sends and whose bit is clear: whether its answer is awaited, the clock it was sent at or may be sent
again from, and the last backoff (R282); whether it is parked at its receiver; and whether it has been acknowledged while the record's
page was in transit. -/
structure Sending where
  awaited : Bool
  clock   : Nat
  backoff : Nat
  parked  : Bool := false
  acked   : Bool := false
  deriving DecidableEq, Repr

/-- A chunk that waits at its receiver for a page (R282). -/
structure Inbox where
  src    : Nat
  index  : Nat
  data   : List Byte
  bad    : List Nat
  deriving DecidableEq, Repr

/-- A Ladle plan in a slot (R282-R285). -/
structure Plan where
  owner   : Agent
  ctx     : Nat
  gid     : Option Nat
  core    : Nat
  /-- The window of the progress record, and the record's offset and IA. -/
  handle  : BitVec 256
  hidx    : Nat
  hdr     : Nat
  hdrIA   : Nat
  src     : Layout
  dst     : Layout
  /-- The plan's shadow pair. -/
  pair    : BitVec 256
  shh     : Nat
  csz     : Nat
  tag     : W64
  digest  : W64
  total   : Nat
  /-- Bits set, by index in this device's chunk list. -/
  bits    : NatSet
  /-- By global chunk index; a chunk without an entry may be sent at once. -/
  send    : Assoc Sending
  inbox   : List Inbox
  stage   : PlanStage
  /-- Poisoned data has landed. -/
  pois    : Bool
  /-- At the coordinator: the devices that have sent done, and those that have answered published. -/
  heard   : NatSet
  answered : NatSet
  landing : Landing
  deriving DecidableEq, Repr

/-! ### Contexts and partitions -/

/-- A range register (R146): three words. -/
abbrev RangeReg := BitVec 192

/-- A reply that came while its context did not run (R401, R403). -/
inductive Logged where
  | word (l : Landing) (v : W64) (poison : Bool)
  | req (r : Req)
  /-- A scratchpad word of 8 bytes: the unit, the location in its team's window, and the value (R347, R403). -/
  | spad (u : Agent) (loc : Nat) (v : W64)
  deriving DecidableEq, Repr

/-- An open shadow pair (R247): IA ranges of target and shadow, and the context that opened it. -/
structure OpenPair where
  ctx    : Nat
  target : List (Nat × Nat)
  shadow : List (Nat × Nat)
  deriving DecidableEq, Repr

/-- A context's control words (R368, R389), range registers and semaphores. -/
structure Context where
  v       : Bool := false
  frlog   : Nat := 0
  frbase  : Nat := 0
  fvec    : Nat := 0
  frhead  : W32 := 0
  frtail  : W32 := 0
  trlog   : Nat := 0
  trbase  : Nat := 0
  tvec    : Nat := 0
  trhead  : W32 := 0
  trtail  : W32 := 0
  cstate  : Nat := 0
  hung    : Bool := false
  cause   : Nat := 0
  svec    : Nat := 0
  sgen    : Nat := 0
  sabase  : Nat := 0
  sasize  : Nat := 0
  dtok    : W32 := 0
  ntrap   : W32 := 0
  /-- A pre-emption asked for while the context was restoring (R398). -/
  preqPending : Bool := false
  ranges  : List RangeReg := List.replicate 16 0
  sems    : Assoc W64 := []
  /-- Trap records not yet written (R387), oldest first. -/
  traps   : List TrapRec := []
  /-- Pages on which an access of the part to a structure of the context is held until an INVR covers them: first IA, end, and whether it
  writes (R426). -/
  stuck   : List (Nat × Nat × Bool) := []
  /-- The hang report: grid id and sr.team of up to 64 teams, and their total number (R350). -/
  hangs   : List (Nat × Nat) := []
  nhang   : Nat := 0
  /-- What the save carries: its teams, of which those still to be admitted at a restore. -/
  saved   : List Nat := []
  /-- Replies logged (R403), oldest first, and how many of them stand in the save area. -/
  log     : List Logged := []
  written : Nat := 0
  /-- The core list of the last save (R402). -/
  corelist : List Nat := []
  /-- When the last pre-emption halted its units. -/
  haltAt   : Nat := 0
  /-- What cstate still reads while a kill completes (R395). -/
  dying    : Option Nat := none
  /-- Ladle plans stopped on this device, by the IA of their progress record: whether poisoned data has landed, and the devices that have
  sent done to this coordinator (R282, R283). -/
  stopped  : Assoc (Bool × NatSet) := []
  /-- Its open shadow pairs while it is saved, by partition (R254). -/
  pairs    : List (Nat × OpenPair) := []
  deriving DecidableEq, Repr

/-- An outstanding fault record (R152): the walk unit that holds it, the number of its place in the ring once it has been written
there, whether its count has grown since, and whether an INVR has covered its page before it was written. -/
structure FaultRec where
  ctx    : Nat
  page   : Nat
  cause  : Nat
  size   : Nat
  count  : Nat
  wr     : Bool
  unit   : Nat := 0
  slot   : Option W32 := none
  stale  : Bool := false
  closed : Bool := false
  deriving DecidableEq, Repr

/-- An interleave domain (R377). -/
structure Domain where
  hmr   : BitVec 512 := 0
  v     : Bool := false
  dbase : Nat := 0
  dend  : Nat := 0
  gen   : Nat := 0
  busy  : Bool := false
  /-- While a switch is in progress, the mask and range that it takes the place of, when the domain was valid (R378). -/
  was   : Option (BitVec 512 × Nat × Nat) := none
  deriving DecidableEq, Repr

/-- A partition (R361): its description, domains, exports and publish table. -/
structure Partition where
  desc    : BitVec 2048
  domains : List Domain := List.replicate 8 {}
  exports : List (BitVec 128) := List.replicate 64 0
  pairs   : List OpenPair := []
  deriving DecidableEq, Repr

/-! ### Memory side -/

/-- A sector of an L2 slice (R157): its 32 bytes, poison, the frame and key it was filled from, and the leaf it was filled under, whose
attributes its line keeps (R151). -/
structure L2Sector where
  data   : BitVec 256
  poison : Bool
  dirty  : Bool
  host   : Bool
  frame  : Nat
  key    : Nat
  slice  : Nat
  leaf   : Nat
  /-- log2 of the page of the leaf it was filled under (R151), and whether it stands at the first eviction position (R159). -/
  page   : Nat
  first  : Bool := false
  deriving DecidableEq, Repr

/-! ### Links, fabric, endpoint, management -/

/-- What leaves the part towards other devices. -/
inductive Outgoing where
  | request (p : Packet)
  | reply (dst rid : Nat) (r : RemoteResult)
  | parked (dst rid : Nat)
  | chunk (dst : Nat) (tag digest : W64) (index : Nat) (data : List Byte) (bad : List Nat)
  | answer (dst : Nat) (tag : W64) (index : Nat) (a : LadleAnswer)
  | done (dst : Nat) (tag : W64)
  | commit (dst : Nat) (tag : W64)
  | published (dst : Nat) (tag : W64)
  | finished (dst : Nat) (tag : W64)
  /-- An RMA over the scale-out endpoint, with its transport context, the Ethernet ports it may take (R268, R273), and what its context's
  record names: the remote IPv6 address and job, and the congestion profile (R418). -/
  | rma (p : Packet) (uctx ports : Nat) (ip : BitVec 128) (job : W32) (profile : W64)
  /-- A packet of other devices that is forwarded (R269). -/
  | passing (t : Transit)
  /-- The no-route answer to a message of another device: its sender, and what it carried. -/
  | noRoute (dst body : Nat)
  /-- The not-ready answer to a message of the Ladle (R272): its sender, and what it carried. -/
  | unready (dst body : Nat)
  | parityAsk (link seq depth : Nat)
  | replayAsk (link seq : Nat)
  | parity (link seq depth : Nat)
  /-- A flit sent again, with what it carries (R410). -/
  | flit (link seq : Nat) (o : Outgoing)
  /-- A cumulative acknowledgement, and a credit of a class and channel, for a flit that has been delivered (R409, R410). -/
  | ack (link seq : Nat)
  | credit (link ch : Nat)
  | fid (link fid : Nat)
  /-- Completion of a CXL.mem access of the host (R379). -/
  | cxl (addr data : Nat) (poison : Bool)
  /-- A message of SPDM that answers the host's (R382). -/
  | spdm (m : List Byte)
  deriving DecidableEq, Repr

/-- What a received flit carries (R270, R410): its class times 8 plus channel, and the arrival that its delivery brings about. -/
structure Cargo where
  ch  : Nat
  row : Instr
  occ : Occ
  deriving DecidableEq, Repr

/-- One direction of an Umtur link as its receiver and sender hold it (R409, R410, R419). -/
structure Link where
  up      : Bool := false
  training : Bool := false
  /-- Width in lanes. -/
  wide    : Nat := 0
  reversed : Bool := false
  /-- Left service under R410; when it was last trained; when it was retrained by itself; given up until command 0x11. -/
  fell    : Bool := false
  trainAt : Nat := 0
  /-- Its last training left it down. -/
  failed  : Bool := false
  retrainAt : List Nat := []
  disabled : Bool := false
  peerFid : Option Nat := none
  /-- Sender: next sequence number, oldest unacknowledged one, the replay buffer by number (R409), credits by class and channel. -/
  next    : Nat := 0
  acked   : Nat := 0
  buffer  : Assoc Outgoing := []
  credits : Assoc Nat := []
  /-- Packets that wait for a credit, oldest first: class times 8 plus channel (R270). -/
  waitq   : List (Nat × Outgoing) := []
  /-- Receiver: next sequence number to deliver; the held flit's state: 1 asked 1, 2 asked 2, 3 replay; what it carries, its deadline and
  replays; flits waiting behind it, with their erroneous symbols; and what has been delivered in the current step. -/
  expect  : Nat := 0
  held    : Nat := 0
  holding : Option Cargo := none
  deadline : Nat := 0
  replays : Nat := 0
  behind  : Assoc (Nat × Cargo) := []
  inq     : List Cargo := []
  /-- Flits by depth 0 to 3, times down, retrains (R412). -/
  depths  : List Nat := [0, 0, 0, 0]
  downs   : Nat := 0
  retrains : Nat := 0
  deriving DecidableEq, Repr

/-- A request of another device being served here (R256, R257). -/
structure Inbound where
  pkt    : Packet
  part   : Nat
  fctx   : Nat
  /-- The page it is parked on. -/
  page   : Option Nat
  deriving DecidableEq, Repr

/-- An exchange of SPDM (R382): how far it has come, 1 version, 2 capabilities, 3 algorithms agreed, and the messages that a signature will be
over: those of the agreement, those about certificates, and those about measurements. -/
structure Spdm where
  stage    : Nat := 0
  agreed   : List Byte := []
  chain    : List Byte := []
  measured : List Byte := []
  deriving DecidableEq, Repr

/-- The management core's registers (R416) and what firmware keeps (R379, R380, R412-R415). -/
structure Mgmt where
  /-- Power is good, since the clock of stageSince. -/
  on      : Bool := false
  stage   : Nat := 0
  recov   : Bool := false
  err     : Nat := 0
  slot    : Nat := 0
  stageSince : Nat := 0
  cores   : List Nat := [0, 0, 0, 0]
  /-- Enabled links and stacks, as masks. -/
  linkMask : Nat := 0
  stackMask : Nat := 0
  plimit  : Nat := 2300
  pnow    : Nat := 0
  slow    : Nat := 0
  mcode   : Nat := 0
  mcmd    : Nat := 0
  marg    : List W64 := List.replicate 8 0
  fid     : Nat := 0
  fidSet  : Bool := false
  cxlUp   : Bool := false
  /-- CXL.mem decoders: host base, length, partition, IA base, key (R379). -/
  decoders : Assoc (Nat × Nat × Nat × Nat × Nat) := []
  /-- Lines of IA that the host has reached over CXL.mem and not given up since: it may hold them (R379). -/
  hostHeld : NatSet := []
  /-- How often firmware has loaded each key from the device's random source (R370). -/
  keyGen  : Assoc Nat := []
  ideNeed : Bool := false
  ideUp   : Bool := false
  /-- What IMAGE_WRITE has written to the two flash slots, and the image that runs (R381, R417). -/
  flashA  : Option FwImage := none
  flashB  : Option FwImage := none
  running : Option FwImage := none
  spdm    : Spdm := {}
  /-- Counters kept since the last flush, and the non-volatile store (R412); when they were last flushed. -/
  counters : Assoc Nat := []
  store   : Assoc Nat := []
  flushAt : Nat := 0
  /-- The bin of the die's hotspot temperature, which only the outside knows (R412). -/
  heat    : Nat := 0
  deriving DecidableEq, Repr

/-! ### Scheduling data (the model's own) -/

/-- What an error strikes (R405, R407, R408): a strip-register's lane, a predicate of an execute thread, a vector register's lane, a scalar
or mask register of an access thread, a register of a queue engine, a slot of a port with the token it may hold, a 32-bit word of a core's
store by Loc.key / 4, a sector of the L2, the tag of a granule, the control state of a unit by its kind and number (Partition.uses). -/
inductive Struck where
  | sreg (tm sp id lane : Nat)
  | pred (tm tid n : Nat)
  | vec (tm sp n lane : Nat)
  | scalar (tm sp n : Nat)
  | mask (tm sp n : Nat)
  | queue (e n : Nat)
  | slot (key row lane : Nat)
  | word (w : Nat)
  | sector (n : Nat)
  | tag (granule : Nat)
  | control (kind n : Nat)
  deriving DecidableEq, Repr

/-- What moves next. Where the manual gives no order, the order comes from a list of these: plain data. -/
inductive Choice where
  /-- An event or input of the table. -/
  | run (i : Instr) (o : Occ)
  /-- A unit issues its next instruction. -/
  | issue (u : Agent)
  /-- A unit finds out whether its next instruction could issue (R289). -/
  | attempt (u : Agent)
  /-- The oldest store of a class leaves a unit's buffer (R230). -/
  | drain (u : Agent) (cls : Nat)
  /-- A slice writes back and drops a sector (R157); a core drops an L1 line or its instruction words. -/
  | evict (sector : Nat)
  | evictL1 (core line : Nat)
  | evictI (core : Nat)
  /-- An uncorrectable error, and one that is corrected (R405). -/
  | strike (x : Struck)
  | corrected (x : Struck)
  /-- A parity error in an L1 line, in a core's instruction words, or in a leaf that a walk unit holds: what is struck is dropped (R405). -/
  | parityL1 (core line : Nat)
  | parityI (core : Nat)
  | parityWalk (key : Nat)
  /-- The bin of the die's hotspot temperature from now on (R412). -/
  | heat (bin : Nat)
  /-- Some clocks pass (at least one). -/
  | tick (n : Nat)
  deriving DecidableEq, Repr

/-- The whole machine. -/
structure State where
  /-- Operands of the instruction being executed, and what names the event that occurs. The model's own. -/
  ir      : Ops
  occ     : Occ
  /-- The unit the instruction being executed belongs to. The model's own. -/
  cur     : Option Agent
  /-- What moves next; the model's own (entry 3). -/
  agenda  : List Choice
  /-- Device clocks since power-on (R302). -/
  now     : Nat
  /-- Counter of free values and of operation numbers; the model's own (entry 4). -/
  fresh   : Nat
  /-- Bytes of every store, keyed by Loc.key. -/
  mem     : List Host.Cell
  /-- 32-bit words that read poisoned (R405, R406), by Loc.key / 4. -/
  poison  : NatSet
  /-- Granule tags that are not zero, by device physical address / 32 (R155), and granules whose tag is lost (R407). -/
  tags    : Assoc (BitVec 4)
  tagBad  : NatSet
  /-- The key each sector was last written under (R370), by device physical address / 32. -/
  keys    : Assoc Nat
  l2      : Assoc L2Sector
  /-- Cached leaves by walk unit, partition and 64 KiB unit of IA (Memory.walkKey), with log2 of the page size (R151). -/
  walkc   : Assoc (W64 × Nat)
  cores   : Assoc Core
  engines : Assoc Engine
  teams   : Assoc Team
  strips  : Assoc Strip
  exs     : Assoc ExThread
  aps     : Assoc ApThread
  ports   : Assoc Port
  grids   : Assoc Grid
  props   : Assoc Proposal
  /-- Bind records in use, by index (R338). -/
  slots   : Assoc (BitVec 512)
  /-- The dispatcher's counter is the device clock plus this (R341, R343). -/
  dskew   : Nat
  /-- Contexts and partitions, by number (R361, R368). -/
  ctxs    : Assoc Context
  parts   : Assoc Partition
  frecs   : List FaultRec
  /-- Asynchronous operations, by number, with the pages their elements are parked on (R153, R289). -/
  parkedOps : List (Nat × Nat)
  reqs    : Assoc Req
  copies  : Assoc Copy
  msgs    : Assoc Msg
  nreds   : Assoc NredOp
  wdqs    : Assoc WdqOp
  pubs    : Assoc PubOp
  pstbs   : Assoc PstbOp
  plans   : Assoc Plan
  inbound : List Inbound
  /-- Done messages of Ladle plans that no running plan of this device has taken up yet: sender and tag (R283). -/
  dones   : List (Nat × W64)
  routes  : Assoc W64
  links   : Assoc Link
  /-- Endpoint registers: context table base and congestion profiles (R418). -/
  eth     : Assoc W64
  mgmt    : Mgmt
  /-- MSI-X vectors signalled, and what was sent to other devices: the latest first. -/
  irqs    : List Nat
  out     : List Outgoing
  deriving DecidableEq, Repr

/-- The operands of an instruction whose every field is zero. -/
def noOps : Ops := ⟨.w32, 7, false, 0, .none, .none, .none, .none, 0, 0⟩

/-- The machine right after power comes on and before power-good (R414): nothing is enabled, every list is empty. -/
def State.reset : State :=
  { ir := noOps, occ := .none, cur := none, agenda := [], now := 0, fresh := 0,
    mem := [], poison := [], tags := [], tagBad := [], keys := [], l2 := [], walkc := [],
    cores := [], engines := [], teams := [], strips := [], exs := [], aps := [], ports := [],
    grids := [], props := [], slots := [], dskew := 0, ctxs := [], parts := [], frecs := [], parkedOps := [], reqs := [],
    copies := [], msgs := [], nreds := [], wdqs := [], pubs := [], pstbs := [], plans := [], inbound := [], dones := [],
    routes := [], links := [], eth := [], mgmt := {}, irqs := [], out := [] }

end Sys2Proof.Machine
end

