-- ==== Sys2Proof/Machine/Memory.lean ====
section
/-! DEFINITION. The stores of the part as one map of bytes, the poison of their words, partitions and contexts, range
registers (R146, R147), the page walk (R148, R149), the checks of the memory side (R150, R153, R156, R371), and the L2 (R157). -/

namespace Sys2Proof.Machine

/-! ### Bytes -/

/-- A place in one of the part's stores. Per-core stores name the core by 256 c + 16 y + x. -/
inductive Loc where
  | hbm (a : Nat)
  | host (a : Nat)
  | spad (core off : Nat)
  | acc (core off : Nat)
  | tile (core off : Nat)
  | wbuf (core off : Nat)
  | bcs (core off : Nat)
  deriving DecidableEq, Repr

/-- One number for each place: stores 2^64 apart, cores 2^20 apart within a store; core numbers from 2^20 on are
the saved images of teams. -/
def Loc.key : Loc → Nat
  | .hbm a => a % 2 ^ 64
  | .host a => 2 ^ 64 + a % 2 ^ 64
  | .spad c o => 2 * 2 ^ 64 + c % 2 ^ 40 * 2 ^ 20 + o % 2 ^ 20
  | .acc c o => 3 * 2 ^ 64 + c % 2 ^ 40 * 2 ^ 20 + o % 2 ^ 20
  | .tile c o => 4 * 2 ^ 64 + c % 2 ^ 40 * 2 ^ 20 + o % 2 ^ 20
  | .wbuf c o => 5 * 2 ^ 64 + c % 2 ^ 40 * 2 ^ 20 + o % 2 ^ 20
  | .bcs c o => 6 * 2 ^ 64 + c % 2 ^ 40 * 2 ^ 20 + o % 2 ^ 20

/-- A map of bytes: keys strictly rising, no byte equal to what an unlisted key reads as. -/
abbrev Memory := List Host.Cell

/-- What a byte that nothing has written reads as: zero. DESIGN CHOICE, entry 1. -/
def Memory.unlisted : Byte := 0

/-- The canonical form. -/
def Memory.wf (m : Memory) : Bool := Assoc.wf m && m.all (fun c => c.2 != Memory.unlisted)

/-- One byte. -/
def Memory.read (m : Memory) (k : Nat) : Byte := Assoc.get m k Memory.unlisted

/-- One byte written: writing what an unlisted key reads as removes the entry. -/
def Memory.write (m : Memory) (k : Nat) (b : Byte) : Memory :=
  if b = Memory.unlisted then Assoc.del m k else Assoc.put m k b

/-- n bytes from a key, little-endian (R3). -/
def Memory.readN (m : Memory) (k : Nat) : Nat → Nat
  | 0 => 0
  | n + 1 => (m.read k).toNat + 256 * Memory.readN m (k + 1) n

/-- n bytes written at a key, little-endian. -/
def Memory.writeN (m : Memory) (k : Nat) (v : Nat) : Nat → Memory
  | 0 => m
  | n + 1 => Memory.writeN (m.write k (BitVec.ofNat 8 v)) (k + 1) (v / 256) n

/-- Whether any 32-bit word with a byte in [k, k + n) reads poisoned. -/
def poisonIn (p : NatSet) (k n : Nat) : Bool := p.any (fun w => decide (k < 4 * w + 4 ∧ 4 * w < k + n))

/-- The 32-bit words from a key set poisoned or clean. -/
def setPoison (p : NatSet) (w : Nat) (b : Bool) : Nat → NatSet
  | 0 => p
  | n + 1 => setPoison (if b then p.add w else p.rem w) (w + 1) b n

/-- A read of n bytes of a core's store with its poison (R405). -/
def State.readStore (s : State) (k n : Nat) : Nat × Bool := (Memory.readN s.mem k n, poisonIn s.poison k n)

/-- A write of n bytes of a core's store. A poisoned write marks every word it touches; a clean write clears the words it
covers whole, and a narrower one leaves a poisoned word poisoned (R405, R406). -/
def State.writeStore (s : State) (k n v : Nat) (poison : Bool) : State :=
  let lo := if poison then k / 4 else (k + 3) / 4
  let hi := if poison then (k + n + 3) / 4 else (k + n) / 4
  { s with mem := Memory.writeN s.mem k v n, poison := setPoison s.poison lo poison (hi - lo) }

/-- A range of a store becomes as nothing has written it. -/
def State.dropBytes (s : State) (lo n : Nat) : State :=
  { s with mem := s.mem.filter (fun x => decide (x.1 < lo ∨ lo + n ≤ x.1)),
           poison := s.poison.filter (fun w => decide (4 * w < lo ∨ lo + n ≤ 4 * w)) }

/-! ### Fields of numbers -/

/-- Bits hi to lo of a number (R58). -/
def bits (v hi lo : Nat) : Nat := v / 2 ^ lo % 2 ^ (hi + 1 - lo)

/-- One bit. -/
def bit (v i : Nat) : Bool := v / 2 ^ i % 2 == 1

/-- Field hi to lo of a bit vector as a number. -/
def fld {w : Nat} (v : BitVec w) (hi lo : Nat) : Nat := bits v.toNat hi lo

/-- A number of n bits read as signed (R58). -/
def sext (v n : Nat) : Int := if v % 2 ^ n < 2 ^ (n - 1) then (v % 2 ^ n : Nat) else (v % 2 ^ n : Nat) - (2 ^ n : Nat)

/-- An integer reduced to n bits (R58). -/
def wrapN (x : Int) (n : Nat) : Nat := (x % (2 ^ n : Nat)).toNat

/-! ### Partitions and contexts -/

/-- A context's control block; a context never created is all zero (R368). -/
def State.context (s : State) (c : Nat) : Context := s.ctxs.get c {}

/-- A context changed. -/
def State.modCtx (s : State) (c : Nat) (f : Context → Context) : State :=
  { s with ctxs := s.ctxs.put c (f (s.context c)) }

namespace Desc
/-- Fields of a partition description (R361). -/
def slices (d : BitVec 2048) : Nat := fld d 511 0
def iabase (d : BitVec 2048) : Nat := fld d 533 512 * 2 ^ 30
def iaend (d : BitVec 2048) : Nat := fld d 555 534 * 2 ^ 30
def keys (d : BitVec 2048) : Nat := fld d 639 576
def ctxbase (d : BitVec 2048) : Nat := fld d 647 640
def ctxcount (d : BitVec 2048) : Nat := fld d 656 648
def qebase (d : BitVec 2048) : Nat := fld d 661 657
def qecount (d : BitVec 2048) : Nat := fld d 667 662
def ptkey (d : BitVec 2048) : Nat := fld d 673 668
def ptroot (d : BitVec 2048) : Nat := fld d 767 704
def cores (d : BitVec 2048) : Nat := fld d 1791 768
def hwin (d : BitVec 2048) (i : Nat) : Nat := fld d (1855 + 64 * i) (1792 + 64 * i)
end Desc

/-- Whether a partition owns a context id. -/
def Partition.ownsCtx (p : Partition) (c : Nat) : Bool :=
  decide (Desc.ctxbase p.desc ≤ c ∧ c < Desc.ctxbase p.desc + Desc.ctxcount p.desc)

/-- The partition a context id belongs to (R369). -/
def State.partOf (s : State) (c : Nat) : Option (Nat × Partition) := s.parts.find? (fun p => p.2.ownsCtx c)

/-- The partition of a queue engine (R364). -/
def State.partOfEngine (s : State) (n : Nat) : Option (Nat × Partition) :=
  s.parts.find? (fun p => decide (Desc.qebase p.2.desc ≤ n ∧ n < Desc.qebase p.2.desc + Desc.qecount p.2.desc))

/-- Whether an IA range lies in a partition's IA range and below 2^52. -/
def Partition.inIA (p : Partition) (lo hi : Nat) : Bool :=
  decide (Desc.iabase p.desc ≤ lo ∧ hi ≤ Desc.iaend p.desc ∧ hi ≤ 2 ^ 52)

/-! ### Range registers -/

namespace Range
/-- Fields of a range register (R146). -/
def vbase (r : RangeReg) : Nat := fld r 63 21 * 2 ^ 21
def vend (r : RangeReg) : Nat := fld r 127 85 * 2 ^ 21
def iabase (r : RangeReg) : Nat := fld r 179 149 * 2 ^ 21
def peer (r : RangeReg) : Bool := r.getLsbD 5
def host (r : RangeReg) : Bool := r.getLsbD 4
def v (r : RangeReg) : Bool := r.getLsbD 3
def rd (r : RangeReg) : Bool := r.getLsbD 2
def wr (r : RangeReg) : Bool := r.getLsbD 1
def ex (r : RangeReg) : Bool := r.getLsbD 0
end Range

/-- The permission an access needs of its range register (R147). -/
inductive Need where
  | rd
  | wr
  | both
  | ex
  deriving DecidableEq, Repr

/-- Whether a range register grants it. -/
def Need.grants : Need → RangeReg → Bool
  | .rd, r => Range.rd r
  | .wr, r => Range.wr r
  | .both, r => Range.rd r && Range.wr r
  | .ex, r => Range.ex r

/-- Whether a need is of write class (R150). -/
def Need.writes : Need → Bool
  | .wr | .both => true
  | _ => false

/-- A PROT failure (R162, R371). -/
def prot (sub : Nat) : TrapInfo := { code := 0x22, sub := BitVec.ofNat 8 sub }

/-- The lowest-numbered register that holds a VA, and the translation with the checks of R147. -/
def translate (c : Context) (va : Nat) (need : Need) : Except TrapInfo (Nat × RangeReg) :=
  match c.ranges.find? (fun r => Range.v r && decide (Range.vbase r ≤ va ∧ va < Range.vend r)) with
  | none => .error (prot 1)
  | some r => if need.grants r then .ok (Range.iabase r + (va - Range.vbase r), r) else .error (prot 2)

/-! ### Device memory -/

/-- A key with the number of its load: a key loaded anew is another key (R370). -/
def State.keyNo (s : State) (key : Nat) : Nat := key + 64 * s.mgmt.keyGen.get key 0

/-- What a sector that one key wrote reads as under another: the decryption of the ciphertext that the first left, whose tweak is the address
of the sector (R370). -/
def reread (wrote reads addr : Nat) (v : BitVec 256) : BitVec 256 :=
  let tweak := addr / 32 * 32
  unsealSector (Config.memoryKey reads) tweak (sealSector (Config.memoryKey wrote) tweak v)

/-- The 32 bytes of a sector of a frame as a key reads them (R370), and whether it is poisoned. -/
def State.readSector (s : State) (addr key : Nat) : BitVec 256 × Bool :=
  let raw := BitVec.ofNat 256 (Memory.readN s.mem (Loc.hbm addr).key 32)
  let v := match s.keys.find (addr / 32) with
    | some k => if k = s.keyNo key then raw else reread k (s.keyNo key) addr raw
    | none => raw
  (v, poisonIn s.poison (Loc.hbm addr).key 32)

/-- A sector of a frame written under a key. -/
def State.writeSector (s : State) (addr key : Nat) (v : BitVec 256) (poison : Bool) : State :=
  let k := (Loc.hbm addr).key
  { s with mem := Memory.writeN s.mem k v.toNat 32, poison := setPoison s.poison (k / 4) poison 8,
           keys := s.keys.put (addr / 32) (s.keyNo key) }

/-- A node entry of the page table, read from HBM under ptkey; none when the read has an uncorrectable error (R148). -/
def State.readNode (s : State) (addr key : Nat) : Option Nat :=
  let r := s.readSector (addr / 32 * 32) key
  if r.2 then none else some (r.1.toNat / 2 ^ (8 * (addr % 32)) % 2 ^ 64)

/-- What a walk ends with (R148): a leaf with log2 of its page size, absence over a range, or a malformed entry. -/
inductive Walk where
  | leaf (e : Nat) (size : Nat)
  | absent (size : Nat)
  | malformed
  deriving DecidableEq, Repr

namespace Leaf
/-- Fields of a leaf entry (R149). -/
def dev (e : Nat) : Nat := bits e 63 52
def frame (e : Nat) : Nat := bits e 51 16 * 2 ^ 16
def key (e : Nat) : Nat := bits e 15 10
def tagen (e : Nat) : Bool := bit e 9
def pcache (e : Nat) : Bool := bit e 8
def cls (e : Nat) : Nat := bits e 7 6
def order (e : Nat) : Nat := bits e 5 4
def state (e : Nat) : Nat := bits e 3 2
def ro (e : Nat) : Bool := bit e 1
end Leaf

/-- Levels of the table: low bit and number of IA bits indexed (R148). -/
def walkLevels : List (Nat × Nat) := [(39, 13), (30, 9), (21, 9), (16, 5)]

/-- A walk down the levels from a node (R148). The page that an all-zero entry stands for is its range, at most 1 GiB (DESIGN CHOICE,
entry 57). -/
def State.walkFrom (s : State) (key ia node : Nat) : List (Nat × Nat) → Walk
  | [] => .malformed
  | (lo, n) :: rest =>
    match s.readNode (node + 8 * bits ia (lo + n - 1) lo) key with
    | none => .malformed
    | some e =>
      if e = 0 then .absent (if lo = 39 then 30 else lo)
      else if bit e 0 then
        if lo = 39 ∨ Leaf.frame e % 2 ^ lo ≠ 0 ∨ Leaf.cls e = 3 ∨ Leaf.order e = 3 ∨ (Leaf.pcache e ∧ ¬Leaf.ro e) then .malformed else .leaf e lo
      else if bits e 51 8 = 0 ∨ bits e 63 52 ≠ 0 ∨ bits e 7 1 ≠ 0 ∨ rest = [] then .malformed
      else State.walkFrom s key ia (bits e 51 8 * 256) rest

/-- The walk of an IA from a partition's root. -/
def State.walk (s : State) (p : Partition) (ia : Nat) : Walk :=
  s.walkFrom (Desc.ptkey p.desc) ia (Desc.ptroot p.desc) walkLevels

/-! ### The memory side -/

/-- The interleave domain that serves an IA (R377). -/
def Partition.domainOf (p : Partition) (ia : Nat) : Option Domain :=
  p.domains.find? (fun d => d.v && decide (d.dbase * 2 ^ 30 ≤ ia ∧ ia < d.dend * 2 ^ 30))

/-- Exclusive OR of the six fields of the line index (R377). -/
def lineHash (ia : Nat) : Nat :=
  let l := bits ia 51 6
  (bits l 8 0) ^^^ (bits l 17 9) ^^^ (bits l 26 18) ^^^ (bits l 35 27) ^^^ (bits l 44 36) ^^^ (bits l 53 45)

/-- Set bits of a number below a bound, rising. -/
def setBits (v : Nat) : Nat → List Nat
  | 0 => []
  | n + 1 => setBits v n ++ (if bit v n then [n] else [])

/-- The slice that owns a line of a domain (R377). -/
def Domain.slice (d : Domain) (ia : Nat) : Nat :=
  let on := setBits d.hmr.toNat 512
  on.getD (lineHash ia % on.length) 0

/-- Whether an IA lies in the range that a switch in progress takes the place of (R378). -/
def Domain.hadIA (d : Domain) (ia : Nat) : Bool :=
  d.busy && d.was.elim false (fun w => decide (w.2.1 * 2 ^ 30 ≤ ia ∧ ia < w.2.2 * 2 ^ 30))

/-- The domain as it was before the switch in progress. -/
def Domain.before (d : Domain) : Domain :=
  match d.was with
  | some w => { d with hmr := w.1, v := true, dbase := w.2.1, dend := w.2.2, busy := false, was := none }
  | none => d

/-- Whether the line of an IA gets another owner by the switch in progress: its new owner holds requests for it (R378). -/
def Domain.moves (d : Domain) (ia : Nat) : Bool := d.v && d.hadIA ia && d.before.slice ia != d.slice ia

/-- The domain whose generation a request for an IA must carry: the one that serves it, or one that a switch takes it from (R378). -/
def Partition.domainAt (p : Partition) (ia : Nat) : Option Domain :=
  (p.domainOf ia).orElse (fun _ => p.domains.find? (·.hadIA ia))

/-- The partition as a request sees it that a slice has accepted under a generation: one from before a switch in progress is finished
under the old mask and range (R378). -/
def Partition.under (p : Partition) (gen ia : Nat) : Partition :=
  { p with domains := p.domains.map (fun d => if d.hadIA ia && d.gen != gen then d.before else d) }

/-- Whether a host window of the partition covers a frame (R361, R371). -/
def Partition.hostOk (p : Partition) (a : Nat) : Bool :=
  (List.range 4).any (fun i =>
    let w := Desc.hwin p.desc i
    bit w 63 && decide (bits w 21 0 * 2 ^ 30 ≤ a ∧ a < bits w 43 22 * 2 ^ 30))

/-- Whether CXL.cache is shut: firmware requires IDE and the stream is not established (R380). -/
def State.cacheShut (s : State) : Bool := s.mgmt.ideNeed && !s.mgmt.ideUp

/-- What the memory side answers an access with (R150, R153). -/
inductive Side2 where
  /-- Performed through this leaf, at this physical address, in a page of this log2 of its size. -/
  | go (leaf phys page : Nat)
  /-- A read of a discarded page: zero bits. -/
  | zeros
  | park (page cause size : Nat)
  | fail (t : TrapInfo)
  deriving DecidableEq, Repr

/-- Tags of the granules of [a, a + n) of a frame all equal the pointer tag (R156); a lost tag is TAG 0x02 (R407). The location of the
failure is that of the first byte of the access that failed, counted from a (R193). -/
def State.tagCheck (s : State) (a n : Nat) (t : BitVec 4) : Option TrapInfo :=
  let gs := (List.range ((a + n - 1) / 32 - a / 32 + 1)).map (fun i => a / 32 + i)
  let fails (sub g : Nat) : TrapInfo := { code := 0x21, sub := BitVec.ofNat 8 sub, loc := BitVec.ofNat 64 (32 * g - a) }
  match gs.find? (fun g => s.tagBad.has g), gs.find? (fun g => s.tags.get g 0 != t) with
  | some g, _ => some (fails 2 g)
  | none, some g => some (fails 1 g)
  | none, none => none

/-- The leaf class each space takes (R150). -/
def spaceClass (space : Nat) : Nat := if space = 0 then 0 else if space = 4 then 1 else 2

/-- Whether a slice must keep a sector: a dirty one of host memory while CXL.cache is shut (R380). -/
def State.mustKeep (s : State) (x : L2Sector) : Bool := x.host && x.dirty && s.cacheShut

/-- The walk that governs an IA: a line that its slice must keep stays under the entry it was filled under (R151, R380). -/
def State.governs (s : State) (w : Walk) (ia : Nat) : Walk :=
  match [ia / 64 * 2, ia / 64 * 2 + 1].findSome? (fun n => (s.l2.find n).filter s.mustKeep) with
  | some x => .leaf x.leaf x.page
  | none => w

/-- The checks of the memory side in the order of R150 with the extensions of R371; an all-zero entry has no leaf to check, but the IA's
domain is asked for before its state. The walk is given: a walk unit may use a
leaf it has cached (R151). The key and the tags of a peer leaf are the peer's own: the requester's leaf is not asked (R156, R256). -/
def State.memSide (s : State) (p : Partition) (w : Walk) (ia size space : Nat) (host peer write tagOp : Bool)
    (ptag : Option (BitVec 4)) : Side2 :=
  match s.governs w ia with
  | .malformed => .fail (prot 5)
  | .absent sz => if (p.domainOf ia).isNone then .fail (prot 8) else .park (ia / 2 ^ sz * 2 ^ sz) 1 sz
  | .leaf e sz =>
    let page := ia / 2 ^ sz * 2 ^ sz
    let phys := Leaf.frame e + ia % 2 ^ sz
    if Leaf.cls e ≠ spaceClass space ∨ (Leaf.cls e = 1 ∧ ¬host) ∨ (Leaf.cls e = 2 ∧ ¬peer) then .fail (prot 4)
    else if Leaf.cls e ≠ 2 ∧ ¬ bit (Desc.keys p.desc) (Leaf.key e) then .fail (prot 6)
    else if Leaf.cls e = 1 ∧ (¬ p.hostOk phys ∨ s.cacheShut) then .fail (prot 7)
    else if (p.domainOf ia).isNone then .fail (prot 8)
    else if Leaf.state e = 1 then .park page 1 sz
    else if Leaf.state e = 2 then .park page 2 sz
    else if Leaf.state e = 3 then (if write then .park page 3 sz else .zeros)
    else if write ∧ Leaf.ro e then .fail (prot 3)
    else
      match ptag with
      | some t =>
        if Leaf.tagen e ∧ Leaf.cls e ≠ 2 ∧ ¬tagOp then
          match s.tagCheck phys size t with
          | some f => .fail f
          | none => .go e phys sz
        else .go e phys sz
      | none => .go e phys sz

/-! ### Walk units (R9, R148) -/

/-- The walk unit that a slice hands its requests to: one of the four of its stack (R9). Which of the four is the model's choice (DESIGN
CHOICE, entry 54). -/
def walkUnit (slice : Nat) : Nat := slice / 64 * 4 + slice % 4

/-- Key of a leaf that a walk unit holds: unit, partition and 64 KiB unit of IA. -/
def walkKey (unit part ia : Nat) : Nat := (unit * 16 + part) * 2 ^ 36 + ia / 2 ^ 16

/-- The partition and the first IA of a key. -/
def walkPart (k : Nat) : Nat := k / 2 ^ 36 % 16
def walkIA (k : Nat) : Nat := k % 2 ^ 36 * 2 ^ 16

/-- The slice of an IA in a partition. -/
def Partition.sliceOf (p : Partition) (ia : Nat) : Nat := (p.domainOf ia).elim 0 (fun d => d.slice ia)

/-- The walk unit that serves an IA of a context's partition. -/
def State.unitOf (s : State) (ctx ia : Nat) : Nat := (s.partOf ctx).elim 0 (fun q => walkUnit (q.2.sliceOf ia))

/-! ### The L2 (R157) -/

/-- How a slice line is reached: the leaf, the physical address behind the IA, log2 of the leaf's page, the owning slice, and the
cache field of the handle (R149, R157, R159). -/
structure Via where
  leaf  : Nat
  phys  : Nat
  page  : Nat
  slice : Nat
  cache : Nat := 0
  deriving DecidableEq, Repr

/-- The same way at a byte further on. -/
def Via.plus (v : Via) (n : Nat) : Via := { v with phys := v.phys + n }

/-- The sector filled from its frame, or from host memory for a host line (R157). -/
def State.l2Fill (s : State) (v : Via) : L2Sector :=
  let a := v.phys / 32 * 32
  let host := Leaf.cls v.leaf == 1
  let r := if host then (let x := s.readStore (Loc.host a).key 32; (BitVec.ofNat 256 x.1, x.2))
    else s.readSector a (Leaf.key v.leaf)
  { data := r.1, poison := r.2, dirty := false, host, frame := a, key := Leaf.key v.leaf, slice := v.slice, leaf := v.leaf, page := v.page }

/-- The L2 sector of an IA, filled when no slice holds it. -/
def State.l2Sector (s : State) (ia : Nat) (v : Via) : L2Sector :=
  match s.l2.find (ia / 32) with
  | some x => x
  | none => s.l2Fill v

/-- A sector's bytes written to the frame, or the host memory, it was filled from. -/
def State.toMemory (s : State) (x : L2Sector) : State :=
  if x.host then s.writeStore (Loc.host x.frame).key 32 x.data.toNat x.poison
  else s.writeSector x.frame x.key x.data x.poison

/-- Whether no slice must keep a sector with a byte in the ranges: what has to be written back can be (R380). -/
def State.canClean (s : State) (l : List (Nat × Nat)) : Bool :=
  s.l2.all (fun q => !(s.mustKeep q.2 && l.any (fun r => decide (r.1 < 32 * q.1 + 32 ∧ 32 * q.1 < r.2))))

/-- A dirty sector written back to the frame it was filled from; the line stays, clean. -/
def State.writeBack (s : State) (sec : Nat) : State :=
  match s.l2.find sec with
  | some x =>
    if x.dirty && !s.mustKeep x then
      let t := s.toMemory x
      { t with l2 := t.l2.put sec { x with dirty := false } }
    else s
  | none => s

/-- A sector written back and dropped, unless its slice must keep it. -/
def State.dropSector (s : State) (sec : Nat) : State :=
  if (s.l2.find sec).elim false s.mustKeep then s
  else
    let t := s.writeBack sec
    { t with l2 := t.l2.del sec }

/-- Lines of 64 bytes that a slice of 512 KiB holds (R9). -/
def sliceLines : Nat := 8192

/-- The lines a slice holds, rising, each with whether it stands at the first eviction position (R159). -/
def State.linesOf (s : State) (slice : Nat) : List (Nat × Bool) :=
  s.l2.foldr (fun q acc =>
    if q.2.slice = slice then
      match acc with
      | (l, f) :: rest => if l = q.1 / 2 then (l, f && q.2.first) :: rest else (q.1 / 2, q.2.first) :: acc
      | [] => [(q.1 / 2, q.2.first)]
    else acc) []

/-- Room made in a slice for a line (R9, R159): a full slice gives up a line at the first eviction position, or else its lowest, of those
it need not keep. Which other line goes is the model's choice (DESIGN CHOICE, entry 54); no result depends on it (R157, R159). -/
def State.l2Room (s : State) (slice line : Nat) : State :=
  let ls := s.linesOf slice
  if ls.length < sliceLines ∨ ls.any (fun q => q.1 == line) then s
  else
    let free := ls.filter (fun q => [2 * q.1, 2 * q.1 + 1].all (fun n => !(s.l2.find n).elim false s.mustKeep))
    match (free.find? (·.2)).orElse (fun _ => free.head?) with
    | some (l, _) => (s.dropSector (2 * l)).dropSector (2 * l + 1)
    | none => s

/-- A sector kept by its slice: a streaming access puts it at the first eviction position (R159). -/
def State.l2Keep (s : State) (sec : Nat) (x : L2Sector) (v : Via) : State :=
  let t := s.l2Room x.slice (sec / 2)
  { t with l2 := t.l2.put sec { x with first := v.cache == 1 } }

/-- A line that was filled under another leaf than an access comes with is given up first, so that the access uses the new entry whole, and
the old frame has what was written under the old one (R151). -/
def State.l2Fit (s : State) (ia : Nat) (v : Via) : State :=
  let ns := [ia / 64 * 2, ia / 64 * 2 + 1]
  if ns.all (fun n => (s.l2.find n).all (fun x => x.leaf == v.leaf)) then s else ns.foldl State.dropSector s

/-- Bytes of one sector through the L2: the part of an access that falls in it. A miss allocates the sector, but not under the
no-allocate field (R159). -/
def State.readL2 (s0 : State) (ia n : Nat) (v : Via) : (Nat × Bool) × State :=
  let s := s0.l2Fit ia v
  let x := s.l2Sector ia v
  ((x.data.toNat / 2 ^ (8 * (ia % 32)) % 2 ^ (8 * n), x.poison),
    if (s.l2.find (ia / 32)).isSome ∨ v.cache = 2 then s else s.l2Keep (ia / 32) x v)

/-- n bytes at an offset of a sector replaced. -/
def patch (d : BitVec 256) (off n v : Nat) : BitVec 256 :=
  let m : Nat := (2 ^ (8 * n) - 1) * 2 ^ (8 * off)
  BitVec.ofNat 256 ((d.toNat &&& (2 ^ 256 - 1 - m)) ||| (v * 2 ^ (8 * off) &&& m))

/-- Bytes of one sector written through the L2. A poisoned write marks the whole sector; a clean one clears the marker only
when it covers the sector (R406). A no-allocate write merges at the slice and goes on to memory: a sector the slice holds stays
there, clean (R159). -/
def State.writeL2 (s0 : State) (ia n d : Nat) (poison : Bool) (v : Via) : State :=
  let s := s0.l2Fit ia v
  let x := s.l2Sector ia v
  let y := { x with data := patch x.data (ia % 32) n d, dirty := true,
                    poison := poison || (x.poison && n != 32) }
  if v.cache = 2 then
    let t := s.toMemory y
    if (s.l2.find (ia / 32)).isSome then { t with l2 := t.l2.put (ia / 32) { y with dirty := false } } else t
  else if (s.l2.find (ia / 32)).isSome then { s with l2 := s.l2.put (ia / 32) y }
  else s.l2Keep (ia / 32) y v

/-- The parts of [a, a + n) by sector: offset in the access, length. -/
def sectorParts (a n : Nat) : List (Nat × Nat) :=
  (List.range ((a + n + 31) / 32 - a / 32)).map (fun i =>
    let lo := max a ((a / 32 + i) * 32)
    let hi := min (a + n) ((a / 32 + i + 1) * 32)
    (lo - a, hi - lo))

/-- A read of n bytes of memory through the slices. -/
def State.readLocal (s : State) (ia n : Nat) (v : Via) : (Nat × Bool) × State :=
  (sectorParts ia n).foldl (fun (acc : (Nat × Bool) × State) q =>
    let r := acc.2.readL2 (ia + q.1) q.2 (v.plus q.1)
    ((acc.1.1 + r.1.1 * 2 ^ (8 * q.1), acc.1.2 || r.1.2), r.2)) ((0, false), s)

/-- A write of n bytes of memory through the slices. -/
def State.writeLocal (s : State) (ia n d : Nat) (poison : Bool) (v : Via) : State :=
  (sectorParts ia n).foldl (fun st q =>
    st.writeL2 (ia + q.1) q.2 (d / 2 ^ (8 * q.1) % 2 ^ (8 * q.2)) poison (v.plus q.1)) s

/-- A line of 64 bytes with n bytes at an offset replaced. -/
def patchLine (d : BitVec 512) (off n v : Nat) : BitVec 512 :=
  let m : Nat := (2 ^ (8 * n) - 1) * 2 ^ (8 * off)
  BitVec.ofNat 512 ((d.toNat &&& (2 ^ 512 - 1 - m)) ||| (v * 2 ^ (8 * off) &&& m))

/-- Lines of 64 bytes of a core's L1 of 32 KiB, and words of each of its instruction caches of 16 KiB (R12). -/
def l1Lines : Nat := 512
def icWords : Nat := 4096

/-- A line put into a core's L1; a full L1 gives up its lowest line (DESIGN CHOICE, entry 54). -/
def Core.l1Put (c : Core) (line : Nat) (x : L1Line) : Core :=
  let l := if c.l1.length < l1Lines ∨ (c.l1.find line).isSome then c.l1 else c.l1.drop 1
  { c with l1 := l.put line x }

/-- A word put into one of a core's two instruction caches, which the key's high bit tells apart; a full one gives up its lowest word
(DESIGN CHOICE, entry 54). -/
def Core.icPut (c : Core) (k : Nat) (w : W32) : Core :=
  let side := fun (q : Nat × W32) => decide (q.1 / 2 ^ 72 = k / 2 ^ 72)
  let l := if (c.icache.filter side).length < icWords ∨ (c.icache.find k).isSome then c.icache
    else match c.icache.find? side with
      | some q => c.icache.del q.1
      | none => c.icache
  { c with icache := l.put k w }

/-- Poison bits of the two sectors of a line (R406). -/
def sectorBits (lo hi : Bool) : BitVec 2 := BitVec.ofNat 2 (lo.toNat + 2 * hi.toNat)

/-- Whether n bytes at an offset of a line lie in a poisoned sector. -/
def sectorBad (p : BitVec 2) (off n : Nat) : Bool :=
  (p.getLsbD 0 && decide (off < 32)) || (p.getLsbD 1 && decide (32 < off + n))

/-- The poison of a line's sectors after a write of n bytes at an offset: a clean write of a whole sector clears it, a partial one leaves
it (R406). -/
def sectorMark (p : BitVec 2) (off n : Nat) (poison : Bool) : BitVec 2 :=
  let f (i : Nat) : Bool :=
    if off < 32 * (i + 1) ∧ 32 * i < off + n then poison || (p.getLsbD i && !decide (off ≤ 32 * i ∧ 32 * (i + 1) ≤ off + n))
    else p.getLsbD i
  sectorBits (f 0) (f 1)

/-- A core's L1 line updated once the slice has performed a store of that core (R158). -/
def State.updateL1 (s : State) (core ia n v : Nat) (poison : Bool) : State :=
  { s with cores := s.cores.alter core (fun c =>
      match c.l1.find (ia / 64) with
      | none => c
      | some x =>
        let y := { x with data := patchLine x.data (ia % 64) n v, poison := sectorMark x.poison (ia % 64) n poison }
        { c with l1 := c.l1.put (ia / 64) y }) }

/-- A core's L1 line dropped: a read that went past the L1 may have seen a newer value (R228). -/
def State.dropL1 (s : State) (core ia : Nat) : State :=
  { s with cores := s.cores.alter core (fun c => { c with l1 := c.l1.del (ia / 64) }) }

/-- A core's whole L1 invalidated (R158). -/
def State.invalL1 (s : State) (core : Nat) : State :=
  { s with cores := s.cores.alter core (fun c => { c with l1 := [] }) }

end Sys2Proof.Machine
end

