-- ==== Sys2Proof/Machine/Fp.lean ====
section
/-! DEFINITION. Floating-point formats (R60-R64), rounding (R68-R71), the rounded arithmetic (R94), comparison, minimum and
maximum, classification, rounding to integers and conversions (R73, R95-R100). Exact values are a sign, a natural number
and a power of two. -/

namespace Sys2Proof.Machine

/-! ### Flags (R74) -/

/-- Flag bits in the positions of R74. -/
abbrev FlagSet := BitVec 6
def fNV : FlagSet := 1
def fDZ : FlagSet := 2
def fOF : FlagSet := 4
def fUF : FlagSet := 8
def fNX : FlagSet := 16
def fNF : FlagSet := 32

/-- A result with the flags raised on the way (R76). -/
structure FRes where
  bits  : Nat
  flags : FlagSet
  deriving DecidableEq, Repr

/-! ### Formats -/

/-- How a format spends its top patterns (R64): IEEE infinities and NaNs, E4M3's NaN alone, or nothing. -/
inductive Special where
  | ieee
  | nanOnly
  | nothing
  deriving DecidableEq, Repr

/-- A floating-point format (R62): exponent and fraction widths, and its specials. -/
structure Fmt where
  eb : Nat
  mb : Nat
  sp : Special
  deriving DecidableEq, Repr

def binary32 : Fmt := ⟨8, 23, .ieee⟩
def binary64 : Fmt := ⟨11, 52, .ieee⟩
def binary16 : Fmt := ⟨5, 10, .ieee⟩
def bfloat16 : Fmt := ⟨8, 7, .ieee⟩

/-- The floating-point formats by code (R60); binary32 for a code that names none. -/
def fmtOf : Nat → Fmt
  | 0 => binary32
  | 1 => binary64
  | 2 => binary16
  | 3 => bfloat16
  | 4 => ⟨4, 3, .nanOnly⟩
  | 5 => ⟨5, 2, .ieee⟩
  | 6 => ⟨2, 3, .nothing⟩
  | 7 => ⟨3, 2, .nothing⟩
  | 8 => ⟨2, 1, .nothing⟩
  | _ => binary32

namespace Fmt
/-- Width of a pattern. -/
def width (f : Fmt) : Nat := f.eb + f.mb + 1
/-- Exponent bias (R62): 2^(eb-1) - 1. -/
def bias (f : Fmt) : Nat := 2 ^ (f.eb - 1) - 1
/-- Precision (R62). -/
def p (f : Fmt) : Nat := f.mb + 1
/-- Least normal exponent. -/
def emin (f : Fmt) : Int := 1 - (f.bias : Int)
/-- The largest exponent field of a finite number. -/
def maxField (f : Fmt) : Nat := if f.sp = .ieee then 2 ^ f.eb - 2 else 2 ^ f.eb - 1
/-- The significand of the largest finite value (R64). -/
def maxM (f : Fmt) : Nat := if f.sp = .nanOnly then 2 ^ f.p - 2 else 2 ^ f.p - 1
/-- Its exponent. -/
def emax (f : Fmt) : Int := (f.maxField : Int) - f.bias
/-- The pattern of the largest finite value. -/
def maxBits (f : Fmt) : Nat := f.maxField * 2 ^ f.mb + (f.maxM - 2 ^ f.mb)
/-- The pattern of the positive infinity of an IEEE format. -/
def infBits (f : Fmt) : Nat := (2 ^ f.eb - 1) * 2 ^ f.mb
/-- The canonical NaN (R64); zero in a format that has none. -/
def nanBits (f : Fmt) : Nat :=
  match f.sp with
  | .ieee => f.infBits + 2 ^ (f.mb - 1)
  | .nanOnly => 2 ^ (f.eb + f.mb) - 1
  | .nothing => 0
/-- The sign bit set. -/
def signBit (f : Fmt) (neg : Bool) : Nat := if neg then 2 ^ (f.eb + f.mb) else 0
end Fmt

/-- What a pattern denotes (R63, R64): a finite value is (-1)^neg m 2^e. -/
inductive FV where
  | nan (signalling : Bool)
  | inf (neg : Bool)
  | fin (neg : Bool) (m : Nat) (e : Int)
  deriving DecidableEq, Repr

/-- The value of a pattern (R63, R64). -/
def Fmt.decode (f : Fmt) (v : Nat) : FV :=
  let neg := bit v (f.eb + f.mb)
  let ex := bits v (f.eb + f.mb - 1) f.mb
  let fr := v % 2 ^ f.mb
  let top := ex = 2 ^ f.eb - 1
  if f.sp = .ieee ∧ top then (if fr = 0 then .inf neg else .nan (!bit fr (f.mb - 1)))
  else if f.sp = .nanOnly ∧ top ∧ fr = 2 ^ f.mb - 1 then .nan false
  else if ex = 0 then .fin neg fr (f.emin - f.mb)
  else .fin neg (2 ^ f.mb + fr) ((ex : Int) - f.bias - f.mb)

def FV.isNan : FV → Bool
  | .nan _ => true
  | _ => false
def FV.isSnan : FV → Bool
  | .nan s => s
  | _ => false
def FV.isInf : FV → Bool
  | .inf _ => true
  | _ => false
def FV.isZero : FV → Bool
  | .fin _ 0 _ => true
  | _ => false
def FV.neg : FV → Bool
  | .nan _ => false
  | .inf n => n
  | .fin n _ _ => n

/-! ### Rounding -/

/-- Number of bits of a number. -/
def bitLen (n : Nat) : Nat := if n = 0 then 0 else n.log2 + 1

/-- Whether a mode rounds a discarded part away from zero (R68): low bit of what is kept, comparison of the part with one
half (0 below, 1 equal, 2 above), the part being non-zero. -/
def roundsUp (mode : Nat) (neg odd : Bool) (half : Nat) : Bool :=
  match mode with
  | 1 => false
  | 2 => neg
  | 3 => !neg
  | 4 => half ≥ 1
  | _ => half = 2 || (half = 1 && odd)

/-- m 2^e over 2^k rounded to an integer, and whether it was inexact. -/
def scaleRound (mode : Nat) (neg : Bool) (m : Nat) (e k : Int) : Nat × Bool :=
  if k ≤ e then (m * 2 ^ (e - k).toNat, false)
  else
    -- beyond the length of m a longer shift changes nothing
    let d := min (k - e).toNat (bitLen m + 2)
    let n := m / 2 ^ d
    let r := m % 2 ^ d
    if r = 0 then (n, false)
    else
      let half := if 2 * r < 2 ^ d then 0 else if 2 * r = 2 ^ d then 1 else 2
      (if roundsUp mode neg (n % 2 == 1) half then n + 1 else n, true)

/-- The overflow value (R70). -/
def Fmt.overflow (f : Fmt) (mode : Nat) (neg : Bool) : Nat :=
  let toInf := mode = 0 ∨ mode = 4 ∨ (mode = 2 ∧ neg) ∨ (mode = 3 ∧ ¬neg)
  f.signBit neg + (if f.sp = .ieee ∧ toInf then f.infBits else f.maxBits)

/-- The pattern of a non-zero rounded magnitude n 2^k whose n has at most p bits, or is 2^p. -/
def Fmt.pack (f : Fmt) (neg : Bool) (n : Nat) (k : Int) : Nat :=
  let (n, k) := if n = 2 ^ f.p then (2 ^ f.mb, k + 1) else (n, k)
  f.signBit neg +
    (if n < 2 ^ f.mb then n else (k + f.mb + f.bias).toNat * 2 ^ f.mb + (n - 2 ^ f.mb))

/-- round() of R69 on the exact value (-1)^neg m 2^e. -/
def Fmt.round (f : Fmt) (mode : Nat) (neg : Bool) (m : Nat) (e : Int) : FRes :=
  if m = 0 then ⟨f.signBit neg, 0⟩
  else
    let ex : Int := (bitLen m : Int) - 1 + e
    let k := max ex f.emin - f.p + 1
    let (n, inexact) := scaleRound mode neg m e k
    let (nu, _) := scaleRound mode neg m e (ex - f.p + 1)
    let tiny := ex < f.emin ∧ ¬(ex = f.emin - 1 ∧ nu = 2 ^ f.p)
    let fl : FlagSet := (if inexact then fNX else 0) ||| (if inexact ∧ tiny then fUF else 0)
    let ey : Int := (bitLen n : Int) - 1 + k
    if n ≠ 0 ∧ (ey > f.emax ∨ (ey = f.emax ∧ n ≠ 2 ^ f.p ∧ n > f.maxM)) then
      let r := f.overflow mode neg
      ⟨r, fl ||| fOF ||| fNX ||| (if f.sp = .ieee ∧ r % 2 ^ (f.eb + f.mb) = f.infBits then fNF else 0)⟩
    else ⟨f.pack neg n k, fl⟩

/-- round() of an inexact quotient or root, given enough leading bits and whether anything is left below them. -/
def Fmt.roundSticky (f : Fmt) (mode : Nat) (neg : Bool) (m : Nat) (e : Int) (sticky : Bool) : FRes :=
  f.round mode neg (2 * m + (if sticky then 1 else 0)) (e - 1)

/-! ### Exact arithmetic -/

/-- A signed integer times a power of two, as sign and magnitude. -/
def signMag (x : Int) : Bool × Nat := (x < 0, x.natAbs)

/-- (-1)^n m as an integer. -/
def toInt (neg : Bool) (m : Nat) : Int := if neg then -(m : Int) else m

/-- The exact sum of two finite values, with the sign of a zero sum by R71. -/
def addExact (mode : Nat) (n1 : Bool) (m1 : Nat) (e1 : Int) (n2 : Bool) (m2 : Nat) (e2 : Int) : Bool × Nat × Int :=
  let e := min e1 e2
  let x := toInt n1 (m1 * 2 ^ (e1 - e).toNat) + toInt n2 (m2 * 2 ^ (e2 - e).toNat)
  if x = 0 then ((if n1 = n2 then n1 else mode == 2), 0, e)
  else ((signMag x).1, (signMag x).2, e)

/-- Integer square root by trial of bits, high to low. -/
def isqrtAux (n : Nat) : Nat → Nat → Nat
  | 0, r => r
  | i + 1, r => if (r + 2 ^ i) * (r + 2 ^ i) ≤ n then isqrtAux n i (r + 2 ^ i) else isqrtAux n i r

/-- floor of the square root. -/
def isqrt (n : Nat) : Nat := isqrtAux n (bitLen n / 2 + 1) 0

/-- The flags and result of an instruction some operand of which is a NaN (R72, R94). -/
def Fmt.nanRes (f : Fmt) (vs : List FV) : FRes := ⟨f.nanBits, fNF ||| (if vs.any FV.isSnan then fNV else 0)⟩

/-- An invalid operation (R94). -/
def Fmt.invalid (f : Fmt) : FRes := ⟨f.nanBits, fNV ||| fNF⟩

/-- An infinite result from infinite operands (R72). -/
def Fmt.infRes (f : Fmt) (neg : Bool) : FRes := ⟨f.signBit neg + f.infBits, fNF⟩

/-- Addition (R94). -/
def Fmt.addV (f : Fmt) (mode : Nat) (a b : FV) : FRes :=
  match a, b with
  | .nan _, _ | _, .nan _ => f.nanRes [a, b]
  | .inf x, .inf y => if x = y then f.infRes x else f.invalid
  | .inf x, _ => f.infRes x
  | _, .inf y => f.infRes y
  | .fin n1 m1 e1, .fin n2 m2 e2 =>
    let r := addExact mode n1 m1 e1 n2 m2 e2
    f.round mode r.1 r.2.1 r.2.2

/-- The negation of a value that is no NaN. -/
def FV.flip : FV → FV
  | .nan s => .nan s
  | .inf n => .inf (!n)
  | .fin n m e => .fin (!n) m e

/-- Multiplication (R94). -/
def Fmt.mulV (f : Fmt) (mode : Nat) (a b : FV) : FRes :=
  match a, b with
  | .nan _, _ | _, .nan _ => f.nanRes [a, b]
  | .inf x, .inf y => f.infRes (x != y)
  | .inf x, .fin y m _ => if m = 0 then f.invalid else f.infRes (x != y)
  | .fin x m _, .inf y => if m = 0 then f.invalid else f.infRes (x != y)
  | .fin n1 m1 e1, .fin n2 m2 e2 => f.round mode (n1 != n2) (m1 * m2) (e1 + e2)

/-- Fused multiply-add: the exact a b + c rounded once (R94). -/
def Fmt.fmaV (f : Fmt) (mode : Nat) (a b c : FV) : FRes :=
  match a, b, c with
  | .nan _, _, _ | _, .nan _, _ | _, _, .nan _ => f.nanRes [a, b, c]
  | .fin n1 m1 e1, .fin n2 m2 e2, .fin n3 m3 e3 =>
    let r := addExact mode (n1 != n2) (m1 * m2) (e1 + e2) n3 m3 e3
    f.round mode r.1 r.2.1 r.2.2
  | .fin _ _ _, .fin _ _ _, .inf z => f.infRes z
  | a, b, c =>
    -- a or b is infinite
    if a.isZero ∨ b.isZero then f.invalid
    else
      let s := a.neg != b.neg
      match c with
      | .inf z => if z = s then f.infRes s else f.invalid
      | _ => f.infRes s

/-- Leading bits of m1 2^e1 / (m2 2^e2): at least n of them, their exponent, and whether a remainder is left. -/
def divBits (n m1 : Nat) (e1 : Int) (m2 : Nat) (e2 : Int) : Nat × Int × Bool :=
  let sh := n + bitLen m2
  (m1 * 2 ^ sh / m2, e1 - e2 - sh, m1 * 2 ^ sh % m2 != 0)

/-- Division (R94). -/
def Fmt.divV (f : Fmt) (mode : Nat) (a b : FV) : FRes :=
  match a, b with
  | .nan _, _ | _, .nan _ => f.nanRes [a, b]
  | .inf _, .inf _ => f.invalid
  | .inf x, .fin y _ _ => f.infRes (x != y)
  | .fin x _ _, .inf y => ⟨f.signBit (x != y), 0⟩
  | .fin n1 m1 e1, .fin n2 m2 e2 =>
    if m2 = 0 then (if m1 = 0 then f.invalid else ⟨f.signBit (n1 != n2) + f.infBits, fDZ ||| fNF⟩)
    else if m1 = 0 then ⟨f.signBit (n1 != n2), 0⟩
    else
      let q := divBits (f.p + 3) m1 e1 m2 e2
      f.roundSticky mode (n1 != n2) q.1 q.2.1 q.2.2

/-- Square root (R94). -/
def Fmt.sqrtV (f : Fmt) (mode : Nat) (a : FV) : FRes :=
  match a with
  | .nan _ => f.nanRes [a]
  | .inf true => f.invalid
  | .inf false => f.infRes false
  | .fin n m e =>
    if m = 0 then ⟨f.signBit n, 0⟩
    else if n then f.invalid
    else
      let sh := 2 * (f.p + 3) + (if e % 2 = 0 then 0 else 1)
      let x := m * 2 ^ sh
      let r := isqrt x
      f.roundSticky mode false r ((e - sh) / 2) (r * r != x)

/-- a - floor(a) (R94, FFRAC). -/
def Fmt.fracV (f : Fmt) (mode : Nat) (a : FV) : FRes :=
  match a with
  | .nan _ => f.nanRes [a]
  | .inf _ => f.invalid
  | .fin n m e =>
    if e ≥ 0 then ⟨0, 0⟩
    else
      let d := (-e).toNat
      let r := m % 2 ^ d
      if r = 0 then ⟨0, 0⟩
      else f.round mode false (if n then 2 ^ d - r else r) e

/-- a 2^n (R94, FSCALE). -/
def Fmt.scaleV (f : Fmt) (mode : Nat) (a : FV) (n : Int) : FRes :=
  match a with
  | .nan _ => f.nanRes [a]
  | .inf x => f.infRes x
  | .fin x m e => f.round mode x m (e + n)

/-! ### Comparison, minimum and maximum (R95, R96) -/

/-- Whether one finite value is below another. -/
def finLt (n1 : Bool) (m1 : Nat) (e1 : Int) (n2 : Bool) (m2 : Nat) (e2 : Int) : Bool :=
  let e := min e1 e2
  decide (toInt n1 (m1 * 2 ^ (e1 - e).toNat) < toInt n2 (m2 * 2 ^ (e2 - e).toNat))

/-- a < b on ordered values; infinities included. -/
def FV.lt (a b : FV) : Bool :=
  match a, b with
  | .nan _, _ | _, .nan _ => false
  | .inf x, .inf y => x && !y
  | .inf x, _ => x
  | _, .inf y => !y
  | .fin n1 m1 e1, .fin n2 m2 e2 => finLt n1 m1 e1 n2 m2 e2

/-- FCMPF and DCMPF: the truth of the comparison and the flags (R95). -/
def cmpV (code : Nat) (un : Bool) (a b : FV) : Bool × FlagSet :=
  let unord := a.isNan || b.isNan
  let snan := a.isSnan || b.isSnan
  let fl : FlagSet := if snan || (unord && decide (2 ≤ code ∧ code ≤ 5) && !un) then fNV else 0
  let lt := a.lt b
  let gt := b.lt a
  let r :=
    match code with
    | 0 => if unord then un else !lt && !gt
    | 1 => unord || lt || gt
    | 2 => if unord then un else lt
    | 3 => if unord then un else !gt
    | 4 => if unord then un else gt
    | 5 => if unord then un else !lt
    | 6 => !unord
    | _ => unord
  (r, fl)

/-- Whether pattern a comes before pattern b as operands of a minimum, -0 below +0 (R96). -/
def below (a b : FV) : Bool := a.lt b || (a.isZero && b.isZero && a.neg && !b.neg)

/-- minimumNumber and maximumNumber (R96): a returned operand passes unchanged. -/
def Fmt.minMax (f : Fmt) (isMax : Bool) (x y : Nat) : FRes :=
  let a := f.decode x
  let b := f.decode y
  let fl : FlagSet := if a.isSnan || b.isSnan then fNV else 0
  let r :=
    if a.isNan ∧ b.isNan then f.nanBits
    else if a.isNan then y
    else if b.isNan then x
    else if isMax then (if below a b then y else x)
    else (if below b a then y else x)
  let v := f.decode r
  ⟨r, fl ||| (if v.isNan ∨ v.isInf then fNF else 0)⟩

/-- The class mask of R97. -/
def Fmt.classOf (f : Fmt) (v : Nat) : Nat :=
  let sub (m : Nat) := decide (m < 2 ^ f.mb)
  match f.decode v with
  | .inf true => 1
  | .inf false => 128
  | .nan true => 256
  | .nan false => 512
  | .fin true m _ => if m = 0 then 8 else if sub m then 4 else 2
  | .fin false m _ => if m = 0 then 16 else if sub m then 32 else 64

/-- Rounding to an integral value in the same format (R98): exact, no NX or UF. -/
def Fmt.rintV (f : Fmt) (mode : Nat) (v : Nat) : FRes :=
  match f.decode v with
  | .nan s => f.nanRes [.nan s]
  | .inf _ => ⟨v, fNF⟩
  | .fin n m e =>
    if m = 0 ∨ e ≥ 0 then ⟨v, 0⟩
    else ⟨(f.round mode n (scaleRound mode n m e 0).1 0).bits, 0⟩

/-! ### Conversions (R73) -/

/-- FCVT (R73, R99). -/
def cvtFF (src dst : Fmt) (v : Nat) : FRes :=
  match src.decode v with
  | .nan s =>
    match dst.sp with
    | .nothing => ⟨0, fNV⟩
    | _ => ⟨dst.nanBits, fNF ||| (if s then fNV else 0)⟩
  | .inf n =>
    match dst.sp with
    | .ieee => ⟨dst.signBit n + dst.infBits, fNF⟩
    | _ => ⟨dst.signBit n + dst.maxBits, fNV⟩
  | .fin n m e => dst.round 0 n m e

/-- I2F (R73, R99): the source pattern of w bits as signed. -/
def cvtIF (w : Nat) (dst : Fmt) (v : Nat) : FRes :=
  let x := sext v w
  dst.round 0 (x < 0) x.natAbs 0

/-- F2I to w bits (R73, R99): RTZ with saturation; the value is a w-bit pattern. -/
def cvtFI (src : Fmt) (w : Nat) (v : Nat) : FRes :=
  let lo : Int := -(2 ^ (w - 1) : Nat)
  let hi : Int := (2 ^ (w - 1) : Nat) - 1
  match src.decode v with
  | .nan _ => ⟨0, fNV⟩
  | .inf n => ⟨wrapN (if n then lo else hi) w, fNV⟩
  | .fin n m e =>
    -- a value of 2^64 or more saturates whatever its size
    if (bitLen m : Int) + e > 65 then ⟨wrapN (if n then lo else hi) w, fNV⟩
    else
      let x := toInt n (scaleRound 1 n m e 0).1
      if x < lo then ⟨wrapN lo w, fNV⟩
      else if x > hi then ⟨wrapN hi w, fNV⟩
      else ⟨wrapN x w, 0⟩

/-! ### Forms on patterns -/

def Fmt.add (f : Fmt) (mode x y : Nat) : FRes := f.addV mode (f.decode x) (f.decode y)
def Fmt.sub (f : Fmt) (mode x y : Nat) : FRes := f.addV mode (f.decode x) (f.decode y).flip
def Fmt.mul (f : Fmt) (mode x y : Nat) : FRes := f.mulV mode (f.decode x) (f.decode y)
def Fmt.div (f : Fmt) (mode x y : Nat) : FRes := f.divV mode (f.decode x) (f.decode y)
def Fmt.fma (f : Fmt) (mode x y z : Nat) : FRes := f.fmaV mode (f.decode x) (f.decode y) (f.decode z)
def Fmt.sqrt (f : Fmt) (mode x : Nat) : FRes := f.sqrtV mode (f.decode x)
def Fmt.frac (f : Fmt) (mode x : Nat) : FRes := f.fracV mode (f.decode x)
def Fmt.scale (f : Fmt) (mode x : Nat) (n : Int) : FRes := f.scaleV mode (f.decode x) n

/-- A packed operation: low and high halves apart, flags of both collected (R77, R94). -/
def packed (op : Nat → Nat → Nat → FRes) (x y z : Nat) : FRes :=
  let lo := op (x % 2 ^ 16) (y % 2 ^ 16) (z % 2 ^ 16)
  let hi := op (x / 2 ^ 16 % 2 ^ 16) (y / 2 ^ 16 % 2 ^ 16) (z / 2 ^ 16 % 2 ^ 16)
  ⟨lo.bits + 2 ^ 16 * hi.bits, lo.flags ||| hi.flags⟩

end Sys2Proof.Machine
end

