-- ==== Sys2Proof/Machine/Ops.lean ====
section
/-! DEFINITION. The operations every instruction is written in: units and their control state, launch records and handles,
taking a trap (R384-R388) and the return from it (R393, R394), and the frame in which a meaning runs. -/

namespace Sys2Proof.Machine

/-! ### How a meaning ends -/

/-- Why a unit does not go on past an instruction: a trap (R384), a wait that is tried again (R289), or a fault of the model. -/
inductive Stop where
  | trap (t : TrapInfo)
  | wait (w : Wait)
  /-- A read the unit waits for met a page that parks it (R153): the page, the record's cause, log2 of its size, a write. -/
  | park (page cause size : Nat) (wr : Bool)
  /-- The oldest deferred fault that the instruction qualifies for is taken (R388); the others stay. -/
  | deferred (rest : List Deferred) (t : TrapInfo)
  /-- The instruction runs past the words of its packet: the engine halts (R325). -/
  | overrun
  | fault (f : Fault)
  deriving DecidableEq, Repr

/-- What an instruction does: a state to go on with, or a reason to stop with no effect (R59). -/
abbrev M (α : Type) := StateT State (Except Stop) α

/-- Takes a trap (R58). -/
def stopTrap {α : Type} (t : TrapInfo) : M α := throw (Stop.trap t)

/-- A trap record's code and subcode alone. -/
def tinfo (code sub : Nat) : TrapInfo := { code := BitVec.ofNat 8 code, sub := BitVec.ofNat 8 sub }

/-- trap(code, sub) of R58. -/
def trap {α : Type} (code sub : Nat) : M α := stopTrap (tinfo code sub)

/-- Waits: the instruction is tried again from its beginning. -/
def wait {α : Type} (w : Wait) : M α := throw (Stop.wait w)

/-- The instruction is tried again unless the condition holds. -/
def waitUnless (c : Bool) (w : Wait) : M Unit := if c then pure () else wait w

/-- Traps when the condition holds. -/
def trapIf (c : Bool) (code sub : Nat) : M Unit := if c then trap code sub else pure ()

/-- Lifts a check that may fail with a trap. -/
def orTrap {α : Type} (x : Except TrapInfo α) : M α :=
  match x with
  | .ok v => pure v
  | .error t => stopTrap t

/-! ### Keys -/

/-- Threads of one team stand 2048 apart. -/
def exKey (team tid : Nat) : Nat := team * 2048 + tid
/-- Strips of one team stand 128 apart. -/
def stripKey (team strip : Nat) : Nat := team * 128 + strip
/-- Ports of one strip stand 16 apart (R173). -/
def portKey (strip n : Nat) : Nat := strip * 16 + n

/-! ### Fields of a launch record (R328) -/

namespace LRec
def kbase (r : BitVec 1024) : Nat := fld r 63 0
def eoff (r : BitVec 1024) : Nat := fld r 95 64
def aoff (r : BitVec 1024) : Nat := fld r 127 96
def htab (r : BitVec 1024) : Nat := fld r 191 128
def hcount (r : BitVec 1024) : Nat := fld r 200 192
def cw (r : BitVec 1024) : Nat := fld r 211 208 + 1
def ch (r : BitVec 1024) : Nat := fld r 215 212 + 1
def strips (r : BitVec 1024) : Nat := fld r 222 216 + 1
def pair (r : BitVec 1024) : Bool := r.getLsbD 223
def group (r : BitVec 1024) : Nat := fld r 225 224
def cores (r : BitVec 1024) : Bool := r.getLsbD 226
def pers (r : BitVec 1024) : Bool := r.getLsbD 227
def check (r : BitVec 1024) : Bool := r.getLsbD 228
def fpen (r : BitVec 1024) : FlagSet := r.extractLsb' 229 6
def peng (r : BitVec 1024) : Nat := fld r 239 235
def count (r : BitVec 1024) : Nat := fld r 287 256
def regpool (r : BitVec 1024) : Nat := fld r 299 288
def qmem (r : BitVec 1024) : Nat := fld r 310 300
def spw (r : BitVec 1024) : Nat := fld r 331 320
def stagger (r : BitVec 1024) : Nat := fld r 351 336
def beat (r : BitVec 1024) : Nat := fld r 383 352
def portoff (r : BitVec 1024) : Nat := fld r 415 384
def tx (r : BitVec 1024) : Nat := fld r 431 416
def ty (r : BitVec 1024) : Nat := fld r 447 432
def torder (r : BitVec 1024) : Nat := fld r 449 448
/-- Kernel argument k(i), 1 to 15 (R34). -/
def arg (r : BitVec 1024) (i : Nat) : Nat := bits r.toNat (32 * i + 511) (32 * i + 480)
/-- Whether the kernel has an access slice (R17). -/
def access (r : BitVec 1024) : Bool := aoff r != 0xFFFFFFFF
/-- Teams of one cohort (R18): one per core, or per core pair. -/
def perCohort (r : BitVec 1024) : Nat := cw r * ch r / (if pair r then 2 else 1)
end LRec

/-! ### Fields of a handle (R138, R139, R203, R246) -/

/-- A handle table entry. -/
abbrev Handle := BitVec 256

namespace Hnd
def base (h : Handle) : Nat := fld h 63 0
def limit (h : Handle) : Nat := fld h 127 64
def space (h : Handle) : Nat := fld h 130 128
def kind (h : Handle) : Nat := fld h 133 131
def tagen (h : Handle) : Bool := h.getLsbD 134
def cache (h : Handle) : Nat := fld h 137 136
def order (h : Handle) : Nat := fld h 139 138
def ew (h : Handle) : Nat := fld h 141 140
def sx (h : Handle) : Bool := h.getLsbD 142
def htag (h : Handle) : Nat := fld h 147 144
def rows (h : Handle) : Nat := fld h 175 160
def cols (h : Handle) : Nat := fld h 191 176
def fmt (h : Handle) : Nat := fld h 195 192
def stride (h : Handle) : Nat := fld h 239 200
def sbase (h : Handle) : Nat := fld h 223 160
def lstride (h : Handle) : Int := sext (fld h 191 160) 32
def ostx (h : Handle) : Nat := fld h 223 192
def osty (h : Handle) : Nat := fld h 255 224
end Hnd

/-- What a handle index at or beyond the entry count names: an entry whose space is 7 (R137). -/
def noHandle : Handle := BitVec.ofNat 256 (7 * 2 ^ 128)

/-! ### Units -/

/-- The core of a strip: the lower half of a pair's strips lies at even x (R19). DESIGN CHOICE, entry 59: of an odd number of strips the
larger part does. -/
def Team.coreOf (t : Team) (strip : Nat) : Nat := if t.pair && decide (2 * strip ≥ t.strips) then t.core + 1 else t.core

/-- The launch record of a team. -/
def State.recordOf (s : State) (t : Team) : BitVec 1024 :=
  match s.grids.find t.gid with
  | some g => g.record
  | none => 0

/-- A unit's control state. -/
def State.ctl (s : State) (u : Agent) : Option Ctl :=
  match u with
  | .ex team tid => (s.exs.find (exKey team tid)).map (·.ctl)
  | .ap team strip => (s.aps.find (stripKey team strip)).map (·.ctl)
  | .qe n => (s.engines.find n).map (·.ctl)

/-- A unit's control state changed. -/
def State.modCtl (s : State) (u : Agent) (f : Ctl → Ctl) : State :=
  match u with
  | .ex team tid => { s with exs := s.exs.alter (exKey team tid) (fun x => { x with ctl := f x.ctl }) }
  | .ap team strip => { s with aps := s.aps.alter (stripKey team strip) (fun x => { x with ctl := f x.ctl }) }
  | .qe n => { s with engines := s.engines.alter n (fun x => { x with ctl := f x.ctl }) }

/-- A thread, access thread, engine, team, strip, port or core changed. -/
def State.modEx (s : State) (team tid : Nat) (f : ExThread → ExThread) : State :=
  { s with exs := s.exs.alter (exKey team tid) f }
def State.modAp (s : State) (team strip : Nat) (f : ApThread → ApThread) : State :=
  { s with aps := s.aps.alter (stripKey team strip) f }
def State.modEngine (s : State) (n : Nat) (f : Engine → Engine) : State := { s with engines := s.engines.alter n f }
def State.modTeam (s : State) (team : Nat) (f : Team → Team) : State := { s with teams := s.teams.alter team f }
def State.modStrip (s : State) (team strip : Nat) (f : Strip → Strip) : State :=
  { s with strips := s.strips.alter (stripKey team strip) f }
def State.modPort (s : State) (key : Nat) (f : Port → Port) : State := { s with ports := s.ports.alter key f }
/-- A core's record; a core nothing has touched is as at power-on. -/
def State.core (s : State) (c : Nat) : Core := s.cores.get c {}
def State.modCore (s : State) (c : Nat) (f : Core → Core) : State := { s with cores := s.cores.put c (f (s.core c)) }

/-- The team a unit belongs to; none for a queue engine. -/
def State.teamOf (s : State) (u : Agent) : Option Team :=
  match u with
  | .ex team _ | .ap team _ => s.teams.find team
  | .qe _ => none

/-- The strip of a unit of a team (R19). -/
def stripOf : Agent → Nat
  | .ex _ tid => tid / 16
  | .ap _ strip => strip
  | .qe _ => 0

/-- A unit's side (R47). -/
def sideOf : Agent → Side
  | .ex _ _ => .exec
  | .ap _ _ => .access
  | .qe _ => .queue

/-- The context a unit works for. -/
def State.ctxOf (s : State) (u : Agent) : Nat :=
  match u with
  | .ex team _ | .ap team _ => (s.teams.find team).elim 0 (·.ctx)
  | .qe n => (s.engines.find n).elim 0 (·.ctx)

/-- The core a unit runs on; none for a queue engine. -/
def State.coreOf (s : State) (u : Agent) : Option Nat := (s.teamOf u).map (fun t => t.coreOf (stripOf u))

/-- The local clock counter of a unit's core or engine (R302). -/
def State.clockOf (s : State) (u : Agent) : Nat :=
  match s.coreOf u with
  | some c => (s.now + (s.core c).skew) % 2 ^ 64
  | none => s.now % 2 ^ 64

/-- sr.place of a core: cluster, y, x (R302). -/
def placeOf (core : Nat) : Nat := core / 256 * 2 ^ 16 + core / 16 % 16 * 2 ^ 8 + core % 16

/-- The code base of a unit (R304). -/
def State.baseOf (s : State) (u : Agent) : Nat :=
  match u with
  | .ex team _ | .ap team _ => (s.teams.find team).elim 0 (fun t => LRec.kbase (s.recordOf t))
  | .qe n => (s.engines.find n).elim 0 (·.base)

/-- The handle an index names for a unit (R137, R321). -/
def State.handleOf (s : State) (u : Agent) (i : Nat) : Handle :=
  match u with
  | .ex team _ | .ap team _ =>
    match (s.teams.find team).bind (fun t => s.grids.find t.gid) with
    | some g => g.handles.getD i noHandle
    | none => noHandle
  | .qe n => (s.engines.find n).elim noHandle (fun e => e.handles.getD i noHandle)

/-- Whether an execute thread is live: it has not exited. -/
def ExThread.live (x : ExThread) : Bool := x.ctl.status != .exited

/-- Whether thread l of a strip is live (R183). -/
def State.laneLive (s : State) (team strip l : Nat) : Bool :=
  (s.exs.find (exKey team (16 * strip + l))).elim false ExThread.live

/-- A fresh number (entry 4): operation numbers and the arguments of free values. -/
def freshId : M Nat := do
  let s ← get
  set { s with fresh := s.fresh + 1 }
  pure s.fresh

/-! ### Saved teams and the BCS of a core (R132, R340, R404) -/

/-- The cores a team stands on at a placement. -/
def placeCores (pair : Bool) (q : Placement) : List Nat := if pair then [q.core, q.core + 1] else [q.core]

/-- The teams of a grid that a restore has still to place, by cohort and place in it. -/
def State.toRestore (s : State) (g : Grid) (gid : Nat) : List (Nat × Team) :=
  (s.context g.ctx).saved.filterMap (fun u => (s.teams.find u).bind (fun t => if t.gid = gid then some (u, t) else none))

/-- The launch record of a proposal's grid. -/
def State.propRecord (s : State) (p : Proposal) : BitVec 1024 := (s.grids.find p.gid).elim 0 (·.record)

/-- A proposal's placements on a core. -/
def State.placesOn (s : State) (p : Proposal) (core : Nat) : List Placement :=
  p.place.filter (fun q => (placeCores (LRec.pair (s.propRecord p)) q).contains core)

/-- The core number under which the image of half of a saved team is kept. -/
def savedCore (team half : Nat) : Nat := 2 ^ 20 + 2 * team + half

/-- Every operation of a core's queue, or kept of one. -/
def Core.ops (k : Core) : List MatOp := k.queue ++ k.saved.getD []

/-- Whether operations of a team's engines are kept until the engines are granted to it again (R122). -/
def State.opsSaved (s : State) (tm : Nat) : Bool := [0, 1].any (fun h => (s.core (savedCore tm h)).saved.getD [] != [])

/-- The cores of a team. -/
def Team.coreList (t : Team) : List Nat := if t.pair then [t.core, t.core + 1] else [t.core]

/-- Whether half of a saved team comes with a BCS image. -/
def State.bcsImage (s : State) (tm half : Nat) : Bool := (s.core (savedCore tm half)).bcsOwner.isSome

/-- Whether a core's BCS is set aside for a context other than the one named: for a saved team with a BCS image that a grant places there,
or that has been admitted there and is not loaded yet (R340, R404). -/
def State.bcsAside (s : State) (core ctx : Nat) : Bool :=
  s.props.any (fun p => p.2.restore && p.2.granted.has core && (s.grids.find p.2.gid).elim false (fun g => g.ctx != ctx &&
    (s.placesOn p.2 core).any (fun q => (s.toRestore g p.2.gid).any (fun t =>
      t.2.cohort == q.cohort && t.2.tix == q.tix && s.bcsImage t.1 (core - q.core))))) ||
    s.teams.any (fun t => t.2.placed && t.2.home.isSome && t.2.ctx != ctx && t.2.coreList.contains core &&
      s.bcsImage t.1 (core - t.2.core))

/-- Whether a context may write a core's BCS (R132): no other owns it, and it is set aside for no other. -/
def State.bcsFree (s : State) (core ctx : Nat) : Bool :=
  ((s.core core).bcsOwner.isNone || (s.core core).bcsOwner == some ctx) && !s.bcsAside core ctx

/-! ### Counters (R412): the model numbers them by unit -/

/-- A counter advanced, saturating at 64 bits. -/
def State.count (s : State) (key n : Nat) : State :=
  { s with mgmt := { s.mgmt with counters := s.mgmt.counters.put key (min (s.mgmt.counters.get key 0 + n) (2 ^ 64 - 1)) } }

/-- Whether firmware has loaded the counters from the store in this power cycle (R414). -/
def Mgmt.loaded (m : Mgmt) : Bool := m.stage != 0 && m.stage != 1 && !(m.stage == 15 && decide (m.err ≤ 2))

/-- What is counted goes to the non-volatile store (R412). -/
def State.flush (s : State) : State :=
  if s.mgmt.loaded then { s with mgmt := { s.mgmt with store := s.mgmt.counters, flushAt := s.now } } else s

/-- Counters of a core: traps by code from 0, discarded tokens at 256, errors from 257 (errKind). -/
def ctrCore (core i : Nat) : Nat := core * 512 + i
/-- The counter of a core for the errors of a kind of store (R405, R412): kind 0 register file and queue memory, 1 token store, 2
scratchpad, accumulators, tile store, weight buffer and BCS, 3 L1 and instruction caches, 4 control state; uncorrected or corrected. -/
def errKind (kind : Nat) (corrected : Bool) : Nat := 257 + 2 * kind + corrected.toNat
/-- Counters of an L2 slice: uncorrected errors, corrected errors, markers written. -/
def ctrSlice (slice i : Nat) : Nat := 2 ^ 24 + slice * 8 + i
/-- Counters of an HBM stack: uncorrected errors by channel from 0, corrected ones by channel from 64, rows repaired at 128, scrub passes
at 129, and, for which R412 names no counter, corrected errors of its walk caches at 130 and errors of its walk units' control state from 131,
uncorrected or corrected. -/
def ctrStack (stack i : Nat) : Nat := 2 ^ 25 + stack * 256 + i
/-- Counters of an Umtur link: flits by depth 0 to 3, times down, retrains, trainings. -/
def ctrLink (link i : Nat) : Nat := 2 ^ 26 + link * 16 + i
/-- The width and the lanes of a link's training number t: the width, plus 16 if lanes 0 to 3 passed, 32 if lanes 4 to 7 did, 64 if their order
is reversed. -/
def ctrTraining (link t : Nat) : Nat := 2 ^ 40 * (link + 1) + t
/-- Counters of a queue engine, for which R412 names none: errors of its registers from 0 and of its control state from 2, uncorrected or
corrected. -/
def ctrEngine (engine i : Nat) : Nat := 2 ^ 28 + engine * 4 + i
/-- Counters of the module: control-state failures, contexts failed, and from 2 the clocks at each of 16 temperatures. -/
def ctrModule (i : Nat) : Nat := 2 ^ 27 + i
/-- The counter of errors in the control state of a unit, by kind 0 a core, 1 an L2 slice, 2 a queue engine, 3 a walk unit. -/
def ctrControl (kind n : Nat) (corrected : Bool) : Nat :=
  match kind with
  | 0 => ctrCore n (errKind 4 corrected)
  | 1 => ctrSlice n corrected.toNat
  | 2 => ctrEngine n (2 + corrected.toNat)
  | _ => ctrStack (n / 4) (131 + corrected.toNat)

/-! ### Taking a trap (R384-R388, R392) -/

/-- The ticket of a stopped unit (R392); an engine's names the engine. -/
def State.ticket (s : State) (u : Agent) (traps : Nat) : Nat :=
  match u with
  | .ex team tid =>
    (s.teams.find team).elim 0 (fun t => t.gid % 2 ^ 32 + t.team % 2 ^ 16 * 2 ^ 32) + tid % 2 ^ 11 * 2 ^ 48 + traps % 8 * 2 ^ 61
  | .ap team strip =>
    (s.teams.find team).elim 0 (fun t => t.gid % 2 ^ 32 + t.team % 2 ^ 16 * 2 ^ 32) + strip % 2 ^ 11 * 2 ^ 48 + 2 ^ 59 +
      traps % 8 * 2 ^ 61
  | .qe n => n % 2 ^ 11 * 2 ^ 48 + 2 * 2 ^ 59 + traps % 8 * 2 ^ 61

/-- The record of a trap taken now by a unit (R386). -/
def State.trapRecord (s : State) (u : Agent) (c : Ctl) (t : TrapInfo) (len0 : BitVec 2) : TrapRec :=
  { info := t, ctx := s.ctxOf u, side := sideOf u, ticket := BitVec.ofNat 64 (s.ticket u c.traps.toNat),
    pc := BitVec.ofNat 64 c.pc, place := (s.coreOf u).elim 0 placeOf, sgen := (s.context (s.ctxOf u)).sgen,
    sclock := s.clockOf u, tflags := (s.teamOf u).elim 0 (fun x => x.flags ||| t.flags), more := c.more, len0 }

/-- A queue engine halts: state 3, the code, and hvec signalled (R321). What it has read for a launch is not kept. -/
def State.haltEngine (s : State) (n code : Nat) : State :=
  let hv := (s.engines.find n).elim 0 (·.hvec)
  { s.modEngine n (fun e => { e with state := 3, code, launch := none }) with irqs := hv :: s.irqs }

/-- A unit's plan that waits for a slot is dropped (R282). -/
def State.unqueue (s : State) (u : Agent) : State :=
  { s with plans := s.plans.filter (fun q => !(q.2.owner == u && q.2.stage == PlanStage.queued)) }

/-- The taking of a trap, shared by every instruction: flags the instruction raised stay raised (R75); the record waits for
its ring (R387); a thread becomes stopped with its pc at the instruction (R385), an engine halts with code 3 (R321). -/
def State.takeTrap (s : State) (u : Agent) (t : TrapInfo) (len0 : BitVec 2) : State :=
  match s.ctl u with
  | none => s
  | some c =>
    let r := s.trapRecord u c t len0
    let s := match u with
      | .ex team _ | .ap team _ => s.modTeam team (fun x => { x with flags := x.flags ||| t.flags })
      | .qe _ => s
    let s := s.modCtx r.ctx (fun x => { x with traps := x.traps ++ [r] })
    let s := (s.unqueue u).modCtl u (fun c => { c with traps := c.traps + 1, more := 0, mark := none, able := false })
    match u with
    | .qe n => (s.modCtl u (fun c => { c with status := .ready })).haltEngine n 3
    | .ex team tid =>
      ((s.modEx team tid (fun x => { x with arr := none })).modCtl u (fun c => { c with status := .stopped r, solo := none })).count
        (ctrCore ((s.coreOf u).getD 0) t.code.toNat) 1
    | .ap team strip =>
      ((s.modAp team strip (fun x => { x with blk := none })).modCtl u (fun c => { c with status := .stopped r })).count
        (ctrCore ((s.coreOf u).getD 0) t.code.toNat) 1

/-- A fault found after its instruction is kept for a later one: up to 16, then counted (R388). -/
def Ctl.defer (c : Ctl) (d : Deferred) : Ctl :=
  if c.deferred.length < 16 then { c with deferred := c.deferred ++ [d] }
  else { c with more := if c.more = 255 then 255 else c.more + 1 }

/-- The oldest pending fault that qualifies, and the rest (R388). -/
def pickDeferred (p : Deferred → Bool) : List Deferred → Option (Deferred × List Deferred)
  | [] => none
  | d :: ds => if p d then some (d, ds) else (pickDeferred p ds).map (fun r => (r.1, d :: r.2))

/-! ### Return from a trap (R393, R394) -/

/-- sr.trapinfo after a resume: resumes counted to 255, the op, and the trap's subcode and code (R394). -/
def resumeInfo (old : W32) (op : Nat) (r : TrapRec) : W32 :=
  let n := old.toNat / 2 ^ 24
  BitVec.ofNat 32 ((if n = 255 then 255 else n + 1) * 2 ^ 24 + op % 8 * 2 ^ 16 + r.info.sub.toNat * 2 ^ 8 + r.info.code.toNat)

/-- The return from a trap, shared by every op that resumes: the unit becomes ready at an address, sr.trapinfo is updated, and
a thread resumed where it trapped performs a joint instruction there alone (R313). -/
def State.resume (s : State) (u : Agent) (r : TrapRec) (op pc : Nat) : State :=
  s.modCtl u (fun c =>
    { c with status := .ready, pc, tinfo := resumeInfo c.tinfo op r, solo := if pc = r.pc.toNat then some pc else none, readySince := s.now,
             skip := if op = 1 then c.skip else none })

/-! ### The frame of a meaning -/

/-- The len field of the word0 an instruction of a form has (R26). -/
def len0Of : Form → BitVec 2
  | .w32 => 0
  | .w64 => 1
  | .w96 => 2

/-- A unit waits; since when is kept while it waits for the same thing. It tries again in a later clock. -/
def State.setWait (s : State) (u : Agent) (w : Wait) : State :=
  s.modCtl u (fun c =>
    { c with lastIssue := some s.now, len := len0Of s.ir.form, able := false,
             mark := (match w with | .mqueue n => some n | _ => none), status := match c.status with
      | .waiting w' t => if w' = w then .waiting w t else .waiting w s.now
      | _ => .waiting w s.now })

/-- Whether a fault record stands for a context, page and cause: an INVR that covered its page has not closed it (R152). -/
def FaultRec.covers (f : FaultRec) (ctx page cause : Nat) : Bool :=
  f.ctx == ctx && f.page == page && f.cause == cause && !f.closed

/-- A request that parks posts its fault record, or adds to the count of the outstanding one for the same context, page and
cause (R152). A new record belongs to the walk unit of the page's first line (DESIGN CHOICE, entry 54). -/
def State.noteFault (s : State) (ctx page cause size : Nat) (wr : Bool) : State :=
  if s.frecs.any (fun f => f.covers ctx page cause) then
    { s with frecs := s.frecs.map (fun f =>
        if f.covers ctx page cause then
          { f with count := min (f.count + 1) (2 ^ 32 - 1), wr := f.wr || wr, stale := f.slot.isSome }
        else f) }
  else { s with frecs := s.frecs ++ [{ ctx, page, cause, size, count := 1, wr, unit := s.unitOf ctx page }] }

/-- An instruction whose length carries it past its packet halts its engine with code 6 (R325). -/
def State.overrun (s : State) (u : Agent) : State :=
  match u with
  | .qe n => s.haltEngine n 6
  | _ => s

/-- Runs what an instruction does for a unit: its next state, or the trap, taken with no other effect (R59), or the wait. -/
def runUnit (u : Agent) (m : M Unit) (s : State) : Host.Outcome State Fault Refusal :=
  match m s with
  | .ok (_, t) => .next t
  | .error (.trap t) => .next (s.takeTrap u t (len0Of s.ir.form))
  | .error (.wait w) => .next (s.setWait u w)
  | .error (.park page cause size wr) =>
    .next ((s.noteFault (s.ctxOf u) page cause size wr).setWait u (.page page))
  | .error (.deferred rest t) =>
    .next ((s.modCtl u (fun c => { c with deferred := rest })).takeTrap u { t with deferred := true } (len0Of s.ir.form))
  | .error .overrun => .next (s.overrun u)
  | .error (.fault f) => .fault f

/-- The current unit; step sets it before it executes an instruction. -/
def unit : M Agent := do
  let s ← get
  match s.cur with
  | some u => pure u
  | none => throw (Stop.fault .noUnit)

/-- The meaning of an instruction row: it runs for the current unit. -/
def meaning (m : M Unit) (s : State) : Host.Outcome State Fault Refusal :=
  match s.cur with
  | some u => runUnit u m s
  | none => .fault .noUnit

/-- The meaning of an event: where its guard or its name does not hold, nothing occurs. -/
def event (f : State → Option State) (s : State) : Host.Outcome State Fault Refusal :=
  match f s with
  | some t => .next t
  | none => .next s

/-- The control state of the current unit. -/
def ctl : M Ctl := do
  let u ← unit
  match (← get).ctl u with
  | some c => pure c
  | none => throw (Stop.fault .noUnit)

/-- Takes the oldest deferred fault that qualifies, when there is one: it leaves the thread's list and its record says deferred
(R388). Everything else is as before the instruction. -/
def takeDeferred (p : Deferred → Bool) : M Unit := do
  match pickDeferred p (← ctl).deferred with
  | some (d, rest) => throw (Stop.deferred rest d.info)
  | none => pure ()

/-- Changes the control state of the current unit. -/
def modCtl (f : Ctl → Ctl) : M Unit := do
  let u ← unit
  modify (fun s => s.modCtl u f)

/-- The team of the current unit. -/
def team : M Team := do
  match (← get).teamOf (← unit) with
  | some t => pure t
  | none => throw (Stop.fault .noUnit)

/-- The core of the current unit. -/
def core : M Nat := do
  pure ((← team).coreOf (stripOf (← unit)))

end Sys2Proof.Machine
end

