-- ==== Sys2Proof/Machine/Operands.lean ====
section
/-! DEFINITION. Operand forms: renamed registers (R297-R301), the access side's and a queue engine's registers (R35, R36),
predicates and masks (R38), ports (R173-R191), literals (R29), and the reading and writing of an instruction's fields. -/

namespace Sys2Proof.Machine

/-! ### Strip-registers -/

/-- Lane l of a strip-register's values. -/
def lane32 (v : BitVec 512) (l : Nat) : W32 := v.extractLsb' (32 * l) 32

/-- Lane l replaced. -/
def setLane32 (v : BitVec 512) (l : Nat) (x : W32) : BitVec 512 :=
  (v &&& ~~~(BitVec.ofNat 512 ((2 ^ 32 - 1) * 2 ^ (32 * l)))) ||| BitVec.ofNat 512 (x.toNat * 2 ^ (32 * l))

/-- Bit l of a 16-bit mask. -/
def laneBit (l : Nat) : BitVec 16 := BitVec.ofNat 16 (2 ^ l)

/-- Bit l set or cleared. -/
def setBit16 (v : BitVec 16) (l : Nat) (b : Bool) : BitVec 16 := if b then v ||| laneBit l else v &&& ~~~laneBit l

/-- The strip-register that entry(l, n) names (R299). -/
def Strip.entry (t : Strip) (n l : Nat) : Option SReg := t.regs.find? (fun r => r.name == n && r.live.getLsbD l)

/-- A read of name n by lane l: zero without poison when the entry is empty (R299). -/
def Strip.readG (t : Strip) (n l : Nat) : Val :=
  match t.entry n l with
  | none => Val.zero
  | some r => ⟨(lane32 r.vals l).setWidth 64, r.pois.getLsbD l⟩

/-- Whether a write to the register that the entry names is in flight. -/
def Strip.inFlight (t : Strip) (n l : Nat) : Bool :=
  match t.entry n l with
  | none => false
  | some r => r.pend.getLsbD l

/-- The numbers of the registers in flight among those that a lane's entries name. -/
def Strip.flights (t : Strip) (ns : List Nat) (l : Nat) : NatSet :=
  ns.filterMap (fun n => if t.inFlight n l then (t.entry n l).map (·.id) else none)

/-- Empties entry(l, n). A register no entry names is dead, and a dead register ceases to be current (R300). -/
def Strip.drop (t : Strip) (n l : Nat) : Strip :=
  let regs := t.regs.map (fun r => if r.name = n then { r with live := setBit16 r.live l false } else r)
  let dead := fun (c : Nat × BitVec 16) => regs.any (fun r => r.id == c.1 && r.live == 0)
  { t with regs, cur := match t.cur.find n with
      | some c => if dead c then t.cur.del n else t.cur
      | none => t.cur }

/-- Whether a write by lane l to name n needs allocate() (R298). -/
def Strip.needsAlloc (t : Strip) (n l : Nat) : Bool :=
  match t.cur.find n with
  | some (_, w) => w.getLsbD l
  | none => true

/-- Lane l of a register set: its value, its poison, and whether the value is still to land. -/
def SReg.set (r : SReg) (l : Nat) (x : W32) (p pending : Bool) : SReg :=
  { r with live := setBit16 r.live l true, pend := setBit16 r.pend l pending,
           vals := setLane32 r.vals l x, pois := setBit16 r.pois l p }

/-- A write by lane l to name n (R298), under a new register number when it allocates; gives the register written. -/
def Strip.writeG (t : Strip) (n l : Nat) (x : W32) (p pending : Bool) (newId : Nat) : Strip × Nat :=
  match t.needsAlloc n l, t.cur.find n with
  | false, some (id, w) =>
    let t := { t with cur := t.cur.put n (id, w ||| laneBit l) }
    let t := t.drop n l
    ({ t with regs := t.regs.map (fun r => if r.id = id then r.set l x p pending else r) }, id)
  | _, _ =>
    let t := t.drop n l
    let r : SReg := ⟨newId, n, 0, 0, 0, 0⟩
    ({ t with regs := t.regs ++ [r.set l x p pending], cur := t.cur.put n (newId, laneBit l) }, newId)

/-- A value lands in lane l of a register (R300): in a dead register it changes nothing visible. -/
def Strip.land (t : Strip) (id l : Nat) (x : W32) (p : Bool) : Strip :=
  { t with regs := t.regs.map (fun r =>
      if r.id = id then { r with pend := setBit16 r.pend l false, vals := setLane32 r.vals l x, pois := setBit16 r.pois l p }
      else r) }

/-- Strip-registers in use on the core a strip of a team lies on (R301). -/
def State.poolUsed (s : State) (team : Nat) (t : Team) (core : Nat) : Nat :=
  ((List.range t.strips).filter (fun i => t.coreOf i == core)).foldl
    (fun n i => n + (s.strips.get (stripKey team i) {}).regs.length) 0

/-- Whether another thread of the team began to wait for the pool earlier: it is served first (R301). -/
def State.poolAhead (s : State) (team : Nat) (t : Team) (tid : Nat) : Bool :=
  let since := fun (i : Nat) => match (s.exs.find (exKey team i)).map (·.ctl.status) with
    | some (.waiting .pool n) => some n
    | _ => none
  (List.range (16 * t.strips)).any (fun i =>
    i != tid && t.coreOf (i / 16) == t.coreOf (tid / 16) &&
      match since i, since tid with
      | some m, some n => decide (m < n ∨ (m = n ∧ i < tid))
      | some _, none => true
      | none, _ => false)

/-- A strip of a team; one that nothing has touched is empty. -/
def State.strip (s : State) (team strip : Nat) : Strip := s.strips.get (stripKey team strip) {}

/-- Writes several names for one thread: all the allocations or none (R301). Gives the registers written. -/
def writeRegs (team tid : Nat) (ws : List (Nat × W32)) (p pending : Bool) : M (List Nat) := do
  let s ← get
  match s.teams.find team with
  | none => throw (Stop.fault .noUnit)
  | some t =>
    let st := s.strip team (tid / 16)
    let l := tid % 16
    let pool := LRec.regpool (s.recordOf t)
    let need := (ws.filter (fun w => st.needsAlloc w.1 l)).length
    trapIf (ws.length > pool) 0x40 2
    let used := s.poolUsed team t (t.coreOf (tid / 16))
    waitUnless (need == 0 || (decide (used + need ≤ pool) && !s.poolAhead team t tid)) .pool
    let r := ws.foldl (fun (a : Strip × Nat × List Nat) w =>
      let q := a.1.writeG w.1 l w.2 p pending a.2.1
      (q.1, a.2.1 + 1, a.2.2 ++ [q.2])) (st, s.fresh, [])
    set { s with strips := s.strips.put (stripKey team (tid / 16)) r.1, fresh := r.2.1 }
    pure r.2.2

/-! ### Ports -/

/-- Whether a slot has been delivered (R182). -/
def Slot.delivered : Slot → Bool
  | .pending => false
  | _ => true

/-- Bits of an element (R175). -/
def Port.elemBits (p : Port) : Nat := match p.mode with
  | .elem => 8 * 2 ^ p.width
  | .sline => 32
  | .rline => 512

/-- Queue-memory entries of a row (R175). -/
def Port.perRow (p : Port) : Nat := match p.mode with
  | .elem => if p.width = 3 then 2 else 1
  | .sline => 1
  | .rline => 16

/-- Whether the execute threads consume the port (R174). -/
def Port.execPops (p : Port) : Bool := p.kind == .acc || p.kind == .pat

/-- Whether a position is at or past the end (R188). -/
def Port.past (p : Port) (k : Nat) : Bool :=
  match p.fin with
  | some e => decide (e ≤ k)
  | none => false

/-- Lane l of row k; pending where the row is not reserved yet. -/
def Port.slot (p : Port) (k l : Nat) : Slot :=
  if k < p.head then .absent
  else match p.rows[k - p.head]? with
    | some r => r.getD l .pending
    | none => .pending

/-- Whether row k is poppable (R182): every lane delivered; a thread that exited without pushing leaves its lane absent
(R185). -/
def State.rowReady (s : State) (team strip : Nat) (p : Port) (k : Nat) : Bool :=
  (List.range 16).all (fun l =>
    (p.slot k l).delivered || (!p.execPops && !s.laneLive team strip l && decide (p.pos.getD l 0 ≤ k)))

/-- Lane l of row k set, rows up to it reserved as the push position requires; a row that has retired takes nothing. -/
def Port.setSlot (p : Port) (k l : Nat) (v : Slot) : Port :=
  if k < p.head then p else
  let blank : List Slot := List.replicate 16 .pending
  let rows := p.rows ++ List.replicate (k + 1 - p.head - p.rows.length) blank
  { p with rows := rows.modify (k - p.head) (fun r => r.set l v), reserve := max p.reserve (k + 1) }

/-- How many tokens stand in that many lanes of a row: a token of a line spread over the lanes stands in the line's slot (R192). -/
def Port.asTokens (p : Port) (lanes : Nat) : Nat := if p.mode = .sline then min lanes 1 else lanes

/-- Tokens in lanes of a row whose thread has exited before popping it: discarded when the row retires (R195). -/
def State.deadTokens (s : State) (team strip : Nat) (p : Port) (k : Nat) : Nat :=
  p.asTokens ((List.range 16).filter (fun l => (match p.slot k l with | .token _ => true | _ => false) &&
    !s.laneLive team strip l && decide (p.pos.getD l 0 ≤ k))).length

/-- Adds discarded tokens to a context's count, which saturates (R195, R389), and to the core's (R412). -/
def State.discard (s : State) (team : Nat) (strip n : Nat) : State :=
  match s.teams.find team with
  | none => s
  | some t =>
    (s.modCtx t.ctx (fun c => { c with dtok := BitVec.ofNat 32 (min (c.dtok.toNat + n) (2 ^ 32 - 1)) })).count
      (ctrCore (t.coreOf strip) 256) n

/-- Retires the rows of a port below the lowest position still to be popped (R183). -/
def State.retire (s : State) (team strip key : Nat) : State :=
  match s.ports.find key with
  | none => s
  | some p =>
    let lo :=
      if p.execPops then
        ((List.range 16).filter (s.laneLive team strip)).foldl (fun m l => min m (p.pos.getD l 0)) p.reserve
      else p.apop
    let n := min (lo - p.head) p.rows.length
    let dead := if p.execPops then (List.range n).foldl (fun a i => a + s.deadTokens team strip p (p.head + i)) 0 else 0
    let s := if dead = 0 then s else s.discard team strip dead
    { s with ports := s.ports.put key { p with head := p.head + n, rows := p.rows.drop n } }

/-- Rows reserved where no execute thread of the strip is live retire at once: an exited thread counts as having popped every row
(R183). -/
def State.retireIdle (s : State) (team strip key : Nat) : State :=
  if (List.range 16).any (s.laneLive team strip) then s else s.retire team strip key

/-- An element extended to n bits, by sign under sx (R180). -/
def Port.extend (p : Port) (v n : Nat) : Nat :=
  let w := p.elemBits
  if p.sx ∧ w < n then wrapN (sext v w) n else v % 2 ^ w

/-- PORTCFG with a port number (R221). -/
def portTrap (sub port : Nat) : TrapInfo := { tinfo 0x32 sub with port := some port }

/-- The PORTTOK trap of a token at a position (R194). -/
def tokenTrap (port pos : Nat) (t : Token) : TrapInfo :=
  { code := 0x30, sub := t.code, osub := t.sub, handle := t.handle, loc := t.loc, port := some port,
    pos := BitVec.ofNat 32 pos }

/-- The check of R179 on a port a register field names: width 2 is a pair field. -/
def portUse (side : Side) (p : Option Port) (n : Nat) (dst : Bool) (width : Nat) : Except TrapInfo Unit :=
  match p with
  | none => .error (portTrap 1 n)
  | some p =>
    let kindOk := match side, dst with
      | .exec, false => p.execPops && p.mode != .rline
      | .exec, true => !p.execPops && p.mode != .rline
      | _, false => p.kind == .back
      | _, true => p.kind == .acc && p.mode == .elem
    if !kindOk then .error (portTrap 2 n)
    else if side == .exec && (decide (width = 2) != decide (p.elemBits = 64)) then .error (portTrap 3 n)
    else .ok ()

/-- Where a thread keeps the element that RESUMET .repl gave it for a position of a port (R194). -/
def replKey (port pos : Nat) : Nat := port * 2 ^ 32 + pos % 2 ^ 32

/-- A pop by the current execute thread: waits for its row, and delivers an element of 64 bits extended as for n bits
(R180, R182, R189), or the replacement that the thread was given for a token (R194, R393). With discard it takes no trap (R181, R212). -/
def popE (port n : Nat) (discard : Bool) : M Val := do
  let s ← get
  match ← unit with
  | .ex team tid =>
    let key := portKey (stripKey team (tid / 16)) port
    let l := tid % 16
    match s.ports.find key with
    | none => stopTrap (portTrap 1 port)
    | some p =>
      let k := p.pos.getD l 0
      if p.past k then
        if p.eostrap && !discard then stopTrap { tinfo 0x31 port with port := some port, pos := BitVec.ofNat 32 k }
        modify (fun s => s.modEx team tid (fun x => { x with eos := setBit16 x.eos port true }))
        pure Val.zero
      else
        waitUnless (s.rowReady team (tid / 16) p k) (.port port false)
        let c ← ctl
        let adv : M Unit := modify (fun s =>
          ({ s with ports := s.ports.put key { p with pos := p.pos.set l (k + 1) } }).retire team (tid / 16) key)
        match p.slot k l with
        | .token t =>
          match c.repl.find (replKey port k) with
          | some v => do
            adv
            modCtl (fun c => { c with repl := c.repl.del (replKey port k) })
            pure ⟨BitVec.ofNat 64 (p.extend v.bits.toNat n), v.poison⟩
          | none =>
            if discard then
              adv
              modify (fun s => s.discard team (tid / 16) 1)
              pure Val.zero
            else stopTrap (tokenTrap port k t)
        | .data v po => do
          adv
          pure ⟨BitVec.ofNat 64 (p.extend v.toNat n), po⟩
        | _ => do
          adv
          pure Val.zero
  | _ => throw (Stop.fault .noUnit)

/-- A pop of a back-channel row by the current access thread: lane l receives thread l's element (R180, R189). -/
def popA (port : Nat) : M (Nat → Val) := do
  let s ← get
  match ← unit with
  | .ap team strip =>
    let key := portKey (stripKey team strip) port
    match s.ports.find key with
    | none => stopTrap (portTrap 1 port)
    | some p =>
      let k := p.apop
      if p.past k then pure (fun _ => Val.zero)
      else
        waitUnless (s.rowReady team strip p k) (.port port false)
        set (({ s with ports := s.ports.put key { p with apop := k + 1 } }).retire team strip key)
        pure (fun l => match p.slot k l with
          | .data v po => ⟨BitVec.ofNat 64 (p.extend v.toNat 64), po⟩
          | _ => Val.zero)
  | _ => throw (Stop.fault .noUnit)

/-- Adds to a thread's four unacknowledged-store counters, or takes away (R199, R231). -/
def Ctl.bump (c : Ctl) (d : Int) : Ctl := { c with unack := c.unack.map (fun (n : Nat) => ((n : Int) + d).toNat) }

/-- A store-stream push as an entry of its thread's store buffer (R230). Class 4 stands for every class, since the element counts in each
of them (R199). -/
def State.pushReq (s : State) (team tid key row : Nat) (v : Nat) : Req :=
  let u := Agent.ex team tid
  { owner := .unit u, ctx := s.ctxOf u, core := 0, sgen := (s.context (s.ctxOf u)).sgen, space := 8, handle := 0, order := 0, cache := 0,
    loc := 0, size := 0, ia := 0, host := false, peer := false, ptag := none, kind := .store v false, cls := 4, attr := none, gen := 0,
    iaddr := (s.ctl u).elim 0 (·.pc), lane := tid % 16, rst := false, tagen := false, issue := s.fresh, clock := s.now, landing := .port key row (tid % 16),
    pusher := [(team, tid)], phase := .sent }

/-- An element pushed by an execute thread at its push position (R185). Into a store-stream it goes through the store buffer (R230), and
counts in the thread's four counters once it has left it (R199, R231; DEDUCED, entry 18). -/
def State.push (s : State) (team tid port : Nat) (p : Port) (v : W64) : State :=
  let key := portKey (stripKey team (tid / 16)) port
  let l := tid % 16
  let k := p.pos.getD l 0
  let x := v.toNat % 2 ^ p.elemBits
  let q := { p with pos := p.pos.set l (k + 1) }
  if p.kind = .store then
    ({ s with ports := s.ports.put key q, fresh := s.fresh + 1 } : State).modEx team tid (fun t =>
      { t with ctl := { t.ctl with sbuf := t.ctl.sbuf.put s.fresh (s.pushReq team tid key k x) } })
  else { s with ports := s.ports.put key (q.setSlot k l (.data (BitVec.ofNat 512 x) false)) }

/-- What a push by the current execute thread asks before it is made (R185, R187, R188): a poisoned value is a use (R80). -/
def pushRoom (port : Nat) (p : Port) (k : Nat) (poison : Bool) : M Unit := do
  takeDeferred (fun d => d.kind == 0 && d.port == port)
  if poison then stopTrap { tinfo 0x11 0 with port := some port }
  if p.past k then stopTrap (portTrap 6 port)
  waitUnless (decide (k < p.head + p.depth)) (.port port true)

/-- A push by the current execute thread. -/
def pushE (port : Nat) (v : Val) : M Unit := do
  let s ← get
  match ← unit with
  | .ex team tid =>
    match s.ports.find (portKey (stripKey team (tid / 16)) port) with
    | none => stopTrap (portTrap 1 port)
    | some p =>
      pushRoom port p (p.pos.getD (tid % 16) 0) v.poison
      set (s.push team tid port p v.bits)
  | _ => throw (Stop.fault .noUnit)

/-- Reserves n rows at an access-push port's push position, each row given whole (R186). -/
def pushRows (port : Nat) (rows : List (List Slot)) : M Nat := do
  let s ← get
  match ← unit with
  | .ap team strip =>
    let key := portKey (stripKey team strip) port
    match s.ports.find key with
    | none => stopTrap (portTrap 1 port)
    | some p =>
      if p.past p.reserve then stopTrap (portTrap 6 port)
      waitUnless (decide (p.reserve + rows.length ≤ p.head + p.depth)) (.port port true)
      set (({ s with ports := s.ports.put key { p with rows := p.rows ++ rows, reserve := p.reserve + rows.length } }).retireIdle
        team strip key)
      pure p.reserve
  | _ => throw (Stop.fault .noUnit)

/-! ### Fields -/

/-- How many registers each field names on the execute side: 0 none, 1 one, 2 a pair, more a run (R37, R133); whether
source ports of the fields are popped; and whether field c is a destination too (the link of CALL, R307). -/
structure Shape where
  d : Nat := 1
  a : Nat := 1
  b : Nat := 1
  c : Nat := 1
  pops : Bool := true
  cDst : Bool := false
  /-- Predicates that the instruction reads, or writes, and no field names (MOVP, R92). -/
  predR : List Nat := []
  predW : List Nat := []
  deriving DecidableEq, Repr

/-- How a literal reads (R29). -/
inductive LitKind where
  | int
  | binary64
  /-- An offset: zero-extended on the execute side (R164). -/
  | offset
  deriving DecidableEq, Repr

/-- A binary32 encoding widened exactly to binary64 (R29). DEDUCED, entry 53: exactness keeps a NaN what it is, so a signalling
NaN stays one, with its fraction at the top of the wider fraction, and raises NV where it is used (R72). -/
def widenLit (v : Nat) : Nat :=
  if v / 2 ^ 23 % 256 = 255 then v / 2 ^ 31 % 2 * 2 ^ 63 + 2047 * 2 ^ 52 + v % 2 ^ 23 * 2 ^ 29
  else (cvtFF binary32 binary64 v).bits

/-- The literal's value for a field of a width (R29). -/
def litVal (side : Side) (k : LitKind) (width : Nat) (v : W32) : W64 :=
  match k with
  | .binary64 => BitVec.ofNat 64 (widenLit v.toNat)
  | .offset => if side = .exec then v.setWidth 64 else v.signExtend 64
  | .int => if side = .exec ∧ width ≤ 1 then v.setWidth 64 else v.signExtend 64

/-- The operands of the instruction being executed. -/
def ops : M Ops := do pure (← get).ir

/-- Guard value of an execute thread, poison first (R38, R80). -/
def exGuard (x : ExThread) (o : Ops) : PBit :=
  if o.pred.val = 7 then ⟨true, false⟩
  else ⟨(x.f.getLsbD o.pred.val) != o.pneg, x.fp.getLsbD o.pred.val⟩

/-- A lane mask of an access thread: m7 reads all set (R38). -/
def ApThread.maskOf (x : ApThread) (n : Nat) : MaskReg := if n = 7 then ⟨0xFFFF, false⟩ else x.m.getD n ⟨0, false⟩

/-- Active lanes of an access thread's instruction (R42, R305). -/
def apGuard (x : ApThread) (o : Ops) : MaskReg :=
  let m := x.maskOf o.pred.val
  ⟨if o.pneg then ~~~m.bits else m.bits, m.poison⟩

/-- The execute thread, or access thread, that runs. -/
def exThread : M ExThread := do
  match ← unit with
  | .ex team tid =>
    match (← get).exs.find (exKey team tid) with
    | some x => pure x
    | none => throw (Stop.fault .noUnit)
  | _ => throw (Stop.fault .noUnit)
def apThread : M ApThread := do
  match ← unit with
  | .ap team strip =>
    match (← get).aps.find (stripKey team strip) with
    | some x => pure x
    | none => throw (Stop.fault .noUnit)
  | _ => throw (Stop.fault .noUnit)
def engine : M Engine := do
  match ← unit with
  | .qe n =>
    match (← get).engines.find n with
    | some x => pure x
    | none => throw (Stop.fault .noUnit)
  | _ => throw (Stop.fault .noUnit)

/-- Active lanes of the current instruction: lane 0 alone off the access side. -/
def lanes : M (BitVec 16) := do
  match ← unit with
  | .ap _ _ => pure (apGuard (← apThread) (← ops)).bits
  | _ => pure 1

/-- The lowest active lane. -/
def lowLane (m : BitVec 16) : Nat := ((List.range 16).find? (fun l => m.getLsbD l)).getD 0

/-- Active lanes in ascending order. -/
def laneList (m : BitVec 16) : List Nat := (List.range 16).filter (fun l => m.getLsbD l)

/-- The port a field names. -/
def portOf : Field → Option Nat
  | .reg (.q n) _ => some n.val
  | _ => none

/-- The g names a field of a width stands for (R37, R133). -/
def gNames (f : Field) (width : Nat) : List Nat :=
  match f with
  | .reg (.g n) _ => (List.range width).map (n.val + ·)
  | _ => []

/-- The strip key of the current unit. -/
def myStrip : M Nat := do
  match ← unit with
  | .ex team tid => pure (stripKey team (tid / 16))
  | .ap team strip => pure (stripKey team strip)
  | .qe _ => throw (Stop.fault .noUnit)

/-- The port check of R179 on every register field that names a port, in the order a, b, c, d (R384). -/
def checkPorts (sh : Shape) : M Unit := do
  let u ← unit
  match u with
  | .qe _ => pure ()
  | _ =>
    let o ← ops
    let s ← get
    let k ← myStrip
    let chk := fun (f : Field) (dst : Bool) (w : Nat) => match portOf f with
      | some n => if w = 0 then .ok () else portUse (sideOf u) (s.ports.find (portKey k n)) n dst w
      | none => .ok ()
    orTrap (chk o.a false sh.a)
    orTrap (chk o.b false sh.b)
    orTrap (chk o.c false sh.c)
    orTrap (chk o.d true sh.d)

/-- Values a source field delivers, by lane. -/
abbrev Lanes := Nat → Val

/-- The distinct ports of the source fields in field order, each with the width of its field. -/
def srcPorts (o : Ops) (sh : Shape) : List (Nat × Nat) :=
  let add := fun (l : List (Nat × Nat)) (f : Field) (w : Nat) =>
    match portOf f with
    | some n => if w = 0 ∨ l.any (fun q => q.1 == n) then l else l ++ [(n, w)]
    | none => l
  if sh.pops then add (add (add [] o.a sh.a) o.b sh.b) o.c sh.c else []

/-- Pops each port once (R180): every row must be there before any is taken. -/
def popAll : List (Nat × Nat) → M (List (Nat × Lanes))
  | [] => pure []
  | (n, w) :: rest => do
    let v ← (do
      match ← unit with
      | .ex _ _ => let v ← popE n (if w = 2 then 64 else 32) false; pure (fun (_ : Nat) => v)
      | _ => popA n)
    let vs ← popAll rest
    pure ((n, v) :: vs)

/-- Waits until every source row is there (R182). -/
def awaitRows (ps : List (Nat × Nat)) : M Unit := do
  let s ← get
  let k ← myStrip
  let u ← unit
  ps.forM (fun q =>
    match s.ports.find (portKey k q.1) with
    | none => pure ()
    | some p =>
      match u with
      | .ex team tid =>
        let i := p.pos.getD (tid % 16) 0
        waitUnless (p.past i || s.rowReady team (tid / 16) p i) (.port q.1 false)
      | .ap team strip => waitUnless (p.past p.apop || s.rowReady team strip p p.apop) (.port q.1 false)
      | .qe _ => pure ())

/-- The value of a register an execute thread names (R34, R37, R299). -/
def readEx (s : State) (team tid : Nat) (n : Name) (width : Nat) : Val :=
  match n with
  | .g i =>
    let st := s.strip team (tid / 16)
    let lo := st.readG i.val (tid % 16)
    if width = 2 then
      let hi := st.readG (i.val + 1) (tid % 16)
      ⟨BitVec.ofNat 64 (lo.bits.toNat + hi.bits.toNat * 2 ^ 32), lo.poison || hi.poison⟩
    else lo
  | .k i =>
    if i.val = 0 then Val.zero
    else Val.of (BitVec.ofNat 64 ((s.teams.find team).elim 0 (fun t => LRec.arg (s.recordOf t) i.val)))
  | _ => Val.zero

/-- The value of a register an access thread names, by lane (R35). -/
def readAp (s : State) (team : Nat) (x : ApThread) (n : Name) : Lanes :=
  match n with
  | .a i => fun l => match x.a[i.val]? with
    | some (v, p) => ⟨v.extractLsb' (64 * l) 64, p.getLsbD l⟩
    | none => Val.zero
  | .s i => match x.s[i.val]? with
    | some (v, p) => fun _ => ⟨v, p⟩
    | none => fun _ => Val.zero
  | .k i =>
    if i.val = 0 then fun _ => Val.zero
    else fun _ => Val.of (BitVec.ofNat 64 ((s.teams.find team).elim 0 (fun t => LRec.arg (s.recordOf t) i.val)))
  | _ => fun _ => Val.zero

/-- The value of a queue engine's register (R36). -/
def readQ (e : Engine) (n : Name) : Val :=
  match n with
  | .w i => match e.w[i.val]? with
    | some (v, p) => ⟨v, p⟩
    | none => Val.zero
  | _ => Val.zero

/-- src(f) of R58 for a register or literal field, given what the ports delivered. -/
def readField1 (f : Field) (width : Nat) (lk : LitKind) (env : List (Nat × Lanes)) : M Lanes := do
  let u ← unit
  let s ← get
  match f with
  | .lit v => pure (fun _ => Val.of (litVal (sideOf u) lk width v))
  | .reg (.q n) _ => pure ((env.find? (fun q => q.1 == n.val)).elim (fun _ => Val.zero) (·.2))
  | .reg n _ =>
    match u with
    | .ex team tid => let v := readEx s team tid n width; pure (fun _ => v)
    | .ap team _ => pure (readAp s team (← apThread) n)
    | .qe _ => let v := readQ (← engine) n; pure (fun _ => v)
  | .imm v => pure (fun _ => Val.of (v.setWidth 64))
  | _ => pure (fun _ => Val.zero)

/-- Waits until no register the fields read or write has a write in flight. -/
def awaitRegs (fs : List (Field × Nat)) : M Unit := do
  let s ← get
  match ← unit with
  | .ex team tid =>
    let st := s.strip team (tid / 16)
    let l := st.flights (fs.flatMap (fun f => gNames f.1 f.2)) (tid % 16)
    waitUnless l.isEmpty (.scoreboard l)
  | .ap _ _ =>
    let x ← apThread
    let l := fs.filterMap (fun f => match f.1 with
      | .reg (.s i) _ => if x.spend.getLsbD i.val then some i.val else none
      | _ => none)
    waitUnless l.isEmpty (.scoreboard l)
  | .qe _ =>
    let e ← engine
    let l := fs.filterMap (fun f => match f.1 with
      | .reg (.w i) _ => if e.wpend.getLsbD i.val then some i.val else none
      | _ => none)
    waitUnless l.isEmpty (.scoreboard l)

/-- Last-read marks: the entries of every marked name empty after the read (R41, R42, R299). -/
def dropMarks (o : Ops) (sh : Shape) : M Unit := do
  match ← unit with
  | .ex team tid =>
    let ns := [(o.a, sh.a), (o.b, sh.b), (o.c, sh.c)].flatMap (fun f =>
      match f.1 with
      | .reg (.g _) true => gNames f.1 (max f.2 1)
      | _ => [])
    if ns = [] then pure ()
    else modify (fun s => s.modStrip team (tid / 16) (fun t => ns.foldl (fun t n => t.drop n (tid % 16)) t))
  | _ => pure ()

/-- A value as a register holds it: zero bits under the poison tag (R79). -/
def heldVal (v : Val) : Val := if v.poison then Val.bad else v

/-- What the source fields deliver, by lane. -/
structure Opnds where
  a : Lanes
  b : Lanes
  c : Lanes

/-- Reads the source fields: port checks (R179), waits (R182, R289), pops (R180), registers and literals, then the last-read
marks (R41). On the access side a scalar destination has its own write to wait for. A poisoned operand has zero bits, so where no rule
reports it the instruction acts on zero (DEDUCED, entry 19). -/
def fetch (sh : Shape) (lk : LitKind) : M Opnds := do
  let o ← ops
  checkPorts sh
  awaitRegs [(o.a, sh.a), (o.b, sh.b), (o.c, sh.c)]
  (match ← unit with
    | .ex _ _ => pure ()
    | _ => awaitRegs [(o.d, sh.d)])
  let ps := srcPorts o sh
  (match ps with
    | [] => pure ()
    | _ => awaitRows ps)
  let env ← popAll ps
  let a ← readField1 o.a sh.a lk env
  let b ← readField1 o.b sh.b lk env
  let c ← readField1 o.c sh.c lk env
  dropMarks o sh
  pure ⟨fun l => heldVal (a l), fun l => heldVal (b l), fun l => heldVal (c l)⟩

/-! ### Predicates and masks -/

/-- A predicate or mask field as the bit of a lane (R38). -/
def readPred (f : Field) : M (Nat → PBit) := do
  match f with
  | .pred n =>
    match ← unit with
    | .ex _ _ =>
      let x ← exThread
      pure (fun _ => if n.val = 7 then ⟨true, false⟩ else ⟨x.f.getLsbD n.val, x.fp.getLsbD n.val⟩)
    | .ap _ _ =>
      let m := (← apThread).maskOf n.val
      pure (fun l => ⟨m.bits.getLsbD l, m.poison⟩)
    | .qe _ => pure (fun _ => ⟨true, false⟩)
  | _ => pure (fun _ => ⟨false, false⟩)

/-- A predicate of an execute thread set; f7 discards (R38). -/
def ExThread.setF (x : ExThread) (n : Nat) (b p : Bool) : ExThread :=
  if n ≥ 7 then x
  else { x with f := if b then x.f ||| BitVec.ofNat 7 (2 ^ n) else x.f &&& ~~~BitVec.ofNat 7 (2 ^ n),
                fp := if p then x.fp ||| BitVec.ofNat 7 (2 ^ n) else x.fp &&& ~~~BitVec.ofNat 7 (2 ^ n) }

/-- Writes a predicate, or each active lane's bit of a mask, and poison for the whole mask (R38, R79, R82). DEDUCED, entry 53: a lane
mask carries one poison tag, since R79 gives a tag to a predicate and names none for a lane of a mask; a clean write of some
of its lanes leaves a poisoned mask poisoned. -/
def writePred (f : Field) (v : Nat → PBit) : M Unit := do
  match f with
  | .pred n =>
    match ← unit with
    | .ex team tid =>
      let b := v 0
      modify (fun s => s.modEx team tid (fun x => x.setF n.val (b.val && !b.poison) b.poison))
    | .ap team strip =>
      let act ← lanes
      let ls := laneList act
      let bad := ls.any (fun l => (v l).poison)
      if n.val = 7 then pure ()
      else modify (fun s => s.modAp team strip (fun x =>
        { x with m := x.m.modify n.val (fun m =>
            ⟨ls.foldl (fun b l => setBit16 b l ((v l).val && !(v l).poison)) m.bits,
             bad || (m.poison && act != 0xFFFF)⟩) }))
    | .qe _ => pure ()
  | _ => pure ()

/-! ### Writing a destination -/

/-- The two words of a 64-bit value. -/
def loW (v : W64) : W32 := v.setWidth 32
def hiW (v : W64) : W32 := v.extractLsb' 32 32

/-- A vector register with the given lanes replaced (R82). -/
def setLanes (r : BitVec 1024 × BitVec 16) (ls : List Nat) (v : Lanes) : BitVec 1024 × BitVec 16 :=
  ls.foldl (fun r l =>
    let m : Nat := (2 ^ 64 - 1) * 2 ^ (64 * l)
    (BitVec.ofNat 1024 ((r.1.toNat &&& (2 ^ 1024 - 1 - m)) ||| ((v l).bits.toNat * 2 ^ (64 * l))),
     setBit16 r.2 l (v l).poison)) r

/-- dst(f, v) of R58: a renamed register or pair, a port, an access register lane by lane, or an engine register. A scalar
instruction of the access side, which executes once, takes the value of the lowest active lane: a choice that shows only for a
PICK with an s destination, whose mask operand differs lane by lane (R82, R87; DESIGN CHOICE, entry 53). -/
def writeF (f : Field) (width : Nat) (v : Lanes) : M Unit := do
  match ← unit with
  | .ex team tid =>
    let x := heldVal (v 0)
    match f with
    | .reg (.g n) _ =>
      let ws := if width = 2 then [(n.val, loW x.bits), (n.val + 1, hiW x.bits)] else [(n.val, loW x.bits)]
      let _ ← writeRegs team tid ws x.poison false
      pure ()
    | .reg (.q n) _ => pushE n.val x
    | _ => pure ()
  | .ap team strip =>
    let act ← lanes
    match f with
    | .reg (.a n) _ =>
      modify (fun s => s.modAp team strip (fun x =>
        { x with a := x.a.modify n.val (fun r => setLanes r (laneList act) (fun l => heldVal (v l))) }))
    | .reg (.s n) _ =>
      let y := heldVal (v (lowLane act))
      modify (fun s => s.modAp team strip (fun x => { x with s := x.s.set n.val (y.bits, y.poison) }))
    | .reg (.q n) _ =>
      if (laneList act).any (fun l => (v l).poison) then stopTrap { tinfo 0x11 0 with port := some n.val }
      let p ← (do match (← get).ports.find (portKey (stripKey team strip) n.val) with
        | some p => pure p
        | none => stopTrap (portTrap 1 n.val))
      let _ ← pushRows n.val [(List.range 16).map (fun l =>
        if act.getLsbD l then
          .data ((v l).bits.setWidth 512 &&& BitVec.ofNat 512 (2 ^ p.elemBits - 1)) false
        else .data 0 false)]
      pure ()
    | _ => pure ()
  | .qe n =>
    let y := heldVal (v 0)
    match f with
    | .reg (.w i) _ => modify (fun s => s.modEngine n (fun e => { e with w := e.w.set i.val (y.bits, y.poison) }))
    | _ => pure ()

/-- The destination field written. -/
def writeD (width : Nat) (v : Lanes) : M Unit := do
  writeF (← ops).d width v

/-- The operation width W (R81). -/
def width : M Nat := do
  match ← unit with
  | .ex _ _ => pure 32
  | _ => pure 64

/-- Whether any operand of a lane is poisoned. -/
def Opnds.bad (v : Opnds) (l : Nat) : Bool := (v.a l).poison || (v.b l).poison || (v.c l).poison

end Sys2Proof.Machine
end

