-- ==== Sys2Proof/Machine/Flags.lean ====
section
/-! DEFINITION. Floating-point flags and their trap (R74-R76), latency classes (R43) and the stall-hint check (R45). -/

namespace Sys2Proof.Machine

/-- The number of the lowest flag of a set (R76). -/
def lowFlag (f : FlagSet) : Nat := ((List.range 6).find? (fun i => f.getLsbD i)).getD 0

/-- raise() at the end of an instruction (R75, R76): every flag enters the team's word, and a flag that is both raised and
enabled traps, before the destination is written. -/
def raise (fl : FlagSet) : M Unit := do
  match ← unit with
  | .ex tm _ | .ap tm _ =>
    let t ← team
    let en := LRec.fpen ((← get).recordOf t)
    if fl &&& en = 0 then modify (fun s => s.modTeam tm (fun x => { x with flags := x.flags ||| fl }))
    else stopTrap { tinfo 0x10 (lowFlag (fl &&& en)) with flags := fl }
  | .qe _ => pure ()

/-- Latency in clocks of an instruction of a class L4 to L12; 0 for variable latency (R43). -/
def latOf (i : Instr) : Nat :=
  match code i with
  | none => 0
  | some c =>
    if c.op < 0x60 then
      if c.op = 4 ∨ c.op = 5 ∨ c.op = 6 then 6
      else if c.op ≤ 0x1E ∨ (0x20 ≤ c.op ∧ c.op ≤ 0x26) ∨ (0x2F ≤ c.op ∧ c.op ≤ 0x3A) then 4
      else if 0x27 ≤ c.op ∧ c.op ≤ 0x2E then 12
      else 0
    else if c.op = 0x60 then
      if c.sub = 0 ∨ c.sub = 4 then 6
      else if c.sub = 1 then 8
      else if 0x0A ≤ c.sub ∧ c.sub ≤ 0x0D then 0
      else 4
    else if c.op = 0x61 then
      if c.sub = 2 ∨ c.sub = 8 ∨ c.sub = 9 then 0
      else if 3 ≤ c.sub ∧ c.sub ≤ 0x0C then 8
      else 4
    else if c.op = 0x6D ∧ c.sub = 0 then 4
    else 0

/-- The registers a field stands for in the check of R45: g names, and predicates from 128. DEDUCED, entry 53: a predicate counts as
a register there, also a guard. -/
def hazNames (f : Field) (width : Nat) : List Nat :=
  match f with
  | .pred n => if n.val = 7 then [] else [128 + n.val]
  | f => gNames f width

/-- The registers an instruction reads or writes. -/
def hazAll (o : Ops) (sh : Shape) : List Nat :=
  (if o.pred.val = 7 then [] else [128 + o.pred.val]) ++ hazNames o.a sh.a ++ hazNames o.b sh.b ++ hazNames o.c sh.c ++
    hazNames o.d sh.d ++ (sh.predR ++ sh.predW).map (128 + ·)

/-- The registers an instruction that executes writes. -/
def hazWrites (o : Ops) (sh : Shape) : List Nat :=
  hazNames o.d sh.d ++ (if sh.cDst then hazNames o.c sh.c else []) ++ sh.predW.map (128 + ·)

/-- Whether an instruction meets a hint that was too short (R45). -/
def hazHit (hs : List Hazard) (o : Ops) (sh : Shape) : Bool :=
  hs.any (fun h => h.hint && decide (h.sum < h.lat) && (hazAll o sh).contains h.reg)

/-- The watched writes after an instruction issued (R45): an unhinted instruction ends every watch; a write ends the watch of
its register and, with a fixed latency and a hint, begins one. -/
def hazNext (hs : List Hazard) (i : Instr) (o : Ops) (sh : Shape) (wrote : Bool) : List Hazard :=
  let st := o.stall.toNat
  let old := if st = 0 then [] else (hs.map (fun h => { h with sum := h.sum + st })).filter (fun h => h.sum < h.lat)
  let ws := if wrote then hazWrites o sh else []
  let old := old.filter (fun h => !ws.contains h.reg)
  let lat := if [o.a, o.b, o.c, o.d].any (fun f => (portOf f).isSome) then 0 else latOf i
  if st = 0 ∨ lat ≤ st then old else old ++ ws.map (fun r => ⟨r, lat, st, true⟩)

end Sys2Proof.Machine
end

