-- ==== Sys2Proof/Machine/Frame.lean ====
section
/-! DEFINITION. What surrounds every instruction: its guard (R38, R42), the stall-hint check (R45), its pc, its stall hint
(R44), discarding pops (R181) and the marks of an instruction that is not executed (R42); control transfers (R25, R304). -/

namespace Sys2Proof.Machine

/-- The pc past the instruction, its stall hint, and its issue clock (R44, R290); in ring mode, the words of the packet that are
left (R325). -/
def advance : M Unit := do
  let o ← ops
  let n := (← get).now
  modCtl (fun c =>
    { c with pc := (c.pc + o.form.bytes) % 2 ^ 64, status := .ready, lastIssue := some n,
             stallUntil := n + o.stall.toNat, readySince := n + max o.stall.toNat 1, able := false })
  match ← unit with
  | .qe q => modify (fun s => s.modEngine q (fun e =>
      if e.prog then e else { e with left := e.left - o.form.bytes / 4 }))
  | _ => pure ()

/-- The address of the instruction being executed, once its pc has advanced. -/
def here : M Nat := do
  pure (((← ctl).pc + 2 ^ 64 - (← ops).form.bytes) % 2 ^ 64)

/-- The pops of a thread whose guard is false from ports under adv (R181). -/
def advPops (sh : Shape) : M Unit := do
  let s ← get
  let k ← myStrip
  let ps := (srcPorts (← ops) sh).filter (fun q => match s.ports.find (portKey k q.1) with
    | some p => p.adv && p.execPops
    | none => false)
  awaitRows ps
  ps.forM (fun q => do
    let _ ← popE q.1 32 true
    pure ())

/-- A retired instruction (R349). -/
def retired : M Unit := do
  match ← unit with
  | .ex tm _ | .ap tm _ =>
    match (← ctl).status with
    | .waiting _ _ => pure ()
    | _ => modify (fun s => s.modTeam tm (fun t => { t with idle := 0 }))
  | .qe _ => pure ()

/-- Whether the team of the current unit checks stall hints (R45). -/
def checkMode : M Bool := do pure (LRec.check ((← get).recordOf (← team)))

/-- The frame of an instruction. Its body runs with the pc already past it when the guard is true, or when at least one lane
is active (R42, R305); a trap or a wait of the body undoes all of it (R59). STALLCHK comes before every other check of the instruction,
since R384 places it nowhere and R45 takes it before any effect (DEDUCED, entry 53). -/
def insnWith (i : Instr) (sh : Shape) (evenIdle : Bool) (body : M Unit) : M Unit := do
  let o ← ops
  match ← unit with
  | .ex tm tid =>
    let x ← exThread
    let g := exGuard x o
    let chk ← checkMode
    trapIf (chk && g.val && hazHit x.hazards o sh) 3 0
    trapIf g.poison 0x11 2
    advance
    (if g.val then body
     else do
       advPops sh
       dropMarks o sh)
    (if chk then modify (fun s => s.modEx tm tid (fun x => { x with hazards := hazNext x.hazards i o sh g.val }))
     else pure ())
    retired
  | .ap _ _ =>
    let g := apGuard (← apThread) o
    trapIf g.poison 0x11 2
    advance
    (if g.bits ≠ 0 ∨ evenIdle then body else pure ())
    retired
  | .qe _ =>
    advance
    body

/-- The frame of an instruction that does nothing where no lane is active. -/
def insn (i : Instr) (sh : Shape) (body : M Unit) : M Unit := insnWith i sh false body

/-- The unit stays at the instruction and waits for what an event will bring; the effects made so far are kept (R399). -/
def stay (i : Instr) (w : Wait) : M Unit := do
  let a ← here
  let n := (← get).now
  let o ← ops
  modCtl (fun c => { c with pc := a, status := .waiting w n, len := len0Of o.form })
  match ← unit with
  | .ex tm tid => modify (fun s => s.modEx tm tid (fun x => { x with arr := some ⟨i, o⟩ }))
  | .ap tm sp => modify (fun s => s.modAp tm sp (fun x => { x with blk := some ⟨⟨i, o⟩, []⟩ }))
  | .qe _ => pure ()

/-- A control transfer (R25, R304): a target that is no multiple of 4 takes ALIGN 0x02. -/
def jump (target : Nat) : M Unit := do
  trapIf (target % 4 != 0) 0x23 2
  modCtl (fun c => { c with pc := target % 2 ^ 64 })

/-- A transfer to a code offset (R304). -/
def jumpOffset (off : Nat) : M Unit := do
  let s ← get
  jump (s.baseOf (← unit) + off % 2 ^ 32)

/-- An execute thread that waited at an instruction with its effects made goes on past it. -/
def State.finishEx (s : State) (tm tid : Nat) : State :=
  match s.exs.find (exKey tm tid) with
  | none => s
  | some x =>
    match x.arr with
    | none => s
    | some i =>
      (s.modEx tm tid (fun x =>
        { x with arr := none, ctl := { x.ctl with pc := (x.ctl.pc + i.args.form.bytes) % 2 ^ 64, status := .ready,
                                                  readySince := s.now, solo := none } })).modTeam tm
        (fun t => { t with idle := 0 })

/-- An access thread likewise. -/
def State.finishAp (s : State) (tm sp : Nat) : State :=
  match s.aps.find (stripKey tm sp) with
  | none => s
  | some x =>
    match x.blk with
    | none => s
    | some b =>
      (s.modAp tm sp (fun x =>
        { x with blk := none, ctl := { x.ctl with pc := (x.ctl.pc + b.insn.args.form.bytes) % 2 ^ 64, status := .ready,
                                                  readySince := s.now } })).modTeam tm
        (fun t => { t with idle := 0 })

end Sys2Proof.Machine
end

