-- ==== Sys2Proof/Machine/Integer.lean ====
section
/-! DEFINITION. The integer instructions: compact (R85, R86) and wide (R87-R92). Pure results on patterns of W bits first, then
one meaning a row. -/

namespace Sys2Proof.Machine

/-! ### Results on W-bit patterns (R86) -/

def movW (_ a : Nat) : Nat := a
def iaddW (w a b : Nat) : Nat := (a + b) % 2 ^ w
def isubW (w a b : Nat) : Nat := wrapN ((a : Int) - b) w
def imulW (w a b : Nat) : Nat := a * b % 2 ^ w
def imulhW (w a b : Nat) : Nat := wrapN (sext a w * sext b w / (2 ^ w : Nat)) w
def imulhuW (w a b : Nat) : Nat := a * b / 2 ^ w % 2 ^ w
def iminW (w a b : Nat) : Nat := if sext a w ≤ sext b w then a else b
def imaxW (w a b : Nat) : Nat := if sext a w ≤ sext b w then b else a
def uminW (_ a b : Nat) : Nat := min a b
def umaxW (_ a b : Nat) : Nat := max a b
def andW (_ a b : Nat) : Nat := a &&& b
def orW (_ a b : Nat) : Nat := a ||| b
def xorW (_ a b : Nat) : Nat := a ^^^ b
def andnW (w a b : Nat) : Nat := a &&& (2 ^ w - 1 - b)
def shlW (w a b : Nat) : Nat := if b % 256 ≥ w then 0 else a * 2 ^ (b % 256) % 2 ^ w
def shrW (w a b : Nat) : Nat := if b % 256 ≥ w then 0 else a / 2 ^ (b % 256)
def sarW (w a b : Nat) : Nat := wrapN (sext a w / (2 ^ min (b % 256) (w - 1) : Nat)) w
def rotlW (w a b : Nat) : Nat :=
  let n := b % 256 % w
  a * 2 ^ n % 2 ^ w + a / 2 ^ (w - n)
def popcW (w a : Nat) : Nat := (setBits a w).length
def clzW (w a : Nat) : Nat := w - bitLen a
def brevW (w a : Nat) : Nat := (List.range w).foldl (fun r i => 2 * r + bits a i i) 0
def iabsW (w a : Nat) : Nat := wrapN (sext a w).natAbs w
def inegW (w a : Nat) : Nat := wrapN (-(a : Int)) w
def sh2addW (w a b : Nat) : Nat := (4 * a + b) % 2 ^ w
def sh3addW (w a b : Nat) : Nat := (8 * a + b) % 2 ^ w
def pack2W (w a b : Nat) : Nat := a % 2 ^ (w / 2) + b % 2 ^ (w / 2) * 2 ^ (w / 2)
def shliW (w a : Nat) (i : Int) : Nat := a * 2 ^ i.toNat % 2 ^ w
def shriW (_ a : Nat) (i : Int) : Nat := a / 2 ^ i.toNat
def sariW (w a : Nat) (i : Int) : Nat := wrapN (sext a w / (2 ^ i.toNat : Nat)) w
def iaddiW (w a : Nat) (i : Int) : Nat := wrapN (a + i) w

/-! ### Wide results (R87, R89-R91) -/

/-- ext of R87: 32 bits by sign, or by zeros with .u. -/
def extU (u : Bool) (v : Nat) : Int := if u then (v % 2 ^ 32 : Nat) else sext v 32

def imadW (w a b c : Nat) : Nat := (a * b + c) % 2 ^ w
def imad64W (u : Bool) (a b c : Nat) : Nat := wrapN (extU u a * extU u b + c) 64
def imulwW (u : Bool) (a b : Nat) : Nat := wrapN (extU u a * extU u b) 64
def idivW (w a b : Nat) : Nat := if b = 0 then 2 ^ w - 1 else wrapN ((sext a w).tdiv (sext b w)) w
def udivW (w a b : Nat) : Nat := if b = 0 then 2 ^ w - 1 else a / b
def iremW (w a b : Nat) : Nat := if b = 0 then a else wrapN ((sext a w).tmod (sext b w)) w
def uremW (_ a b : Nat) : Nat := if b = 0 then a else a % b

/-- ISAD (R87). -/
def isadW (w : Nat) (u : Bool) (a b c : Nat) : Nat :=
  let d : Int := if u then (a : Int) - b else sext a w - sext b w
  (d.natAbs + c) % 2 ^ w

/-- x clamped to the signed or unsigned range of w bits, as a pattern (R58). -/
def satS (x : Int) (w : Nat) : Nat := wrapN (max (-(2 ^ (w - 1) : Nat) : Int) (min x ((2 ^ (w - 1) : Nat) - 1))) w
def satU (x : Int) (w : Nat) : Nat := (max 0 (min x ((2 ^ w : Nat) - 1))).toNat

def iaddsW (w : Nat) (u : Bool) (a b : Nat) : Nat := if u then satU ((a : Int) + b) w else satS (sext a w + sext b w) w
def isubsW (w : Nat) (u : Bool) (a b : Nat) : Nat := if u then satU ((a : Int) - b) w else satS (sext a w - sext b w) w

/-- BFGET (R89). -/
def bfgetW (w : Nat) (s : Bool) (a b : Nat) : Nat :=
  let pos := bits b 7 0
  let len := min (bits b 15 8) w
  if len = 0 then 0
  else
    let x : Int := if s then sext a w else a
    let v := (x / (2 ^ pos : Nat) % (2 ^ len : Nat)).toNat
    if s then wrapN (sext v len) w else v % 2 ^ w

/-- BFPUT (R89). -/
def bfputW (w a b c : Nat) : Nat :=
  let pos := bits b 7 0
  let len := min (bits b 15 8) w
  let m := (2 ^ len - 1) * 2 ^ pos % 2 ^ w
  (c &&& (2 ^ w - 1 - m)) ||| (a * 2 ^ pos % 2 ^ w &&& m)

/-- BYSEL (R90): a 32-bit result. -/
def byselW (a b c : Nat) : Nat :=
  let v := a % 2 ^ 32 + b % 2 ^ 32 * 2 ^ 32
  let byte := fun (i : Nat) =>
    let sel := bits c (8 * i + 7) (8 * i)
    let x := bits v (8 * (sel % 8) + 7) (8 * (sel % 8))
    match sel / 8 % 4 with
    | 0 => x
    | 1 => 0
    | 2 => if x ≥ 128 then 255 else 0
    | _ => 255
  byte 0 + byte 1 * 2 ^ 8 + byte 2 * 2 ^ 16 + byte 3 * 2 ^ 24

/-- FUNNEL (R90). -/
def funnelW (w : Nat) (l : Bool) (a b c : Nat) : Nat :=
  let n := bits c 7 0 % w
  let v := b * 2 ^ w + a
  if l then v * 2 ^ n / 2 ^ w % 2 ^ w else v / 2 ^ n % 2 ^ w

/-! ### Frames of the family -/

/-- Shapes: one source, two sources, two pair sources with a pair destination. -/
def one1 : Shape := { b := 0, c := 0 }
def two1 : Shape := { c := 0 }
def pairs2 : Shape := { d := 2, a := 2, b := 2, c := 0 }

/-- The result of a poisoned source is zero with the tag (R79), lane by lane. -/
def result (v : Opnds) (f : Nat → Nat) : Lanes :=
  fun l => if v.bad l then Val.bad else Val.of (BitVec.ofNat 64 (f l))

/-- An integer instruction whose result on every lane is a function of W, x8 and the operands. -/
def intOpX (i : Instr) (sh : Shape) (f : Nat → Nat → Nat → Nat → Nat → Nat) : M Unit :=
  insn i sh (do
    let v ← fetch sh .int
    let w ← width
    let x := (← ops).x8.toNat
    writeD sh.d (result v (fun l => f w x (v.a l).bits.toNat (v.b l).bits.toNat (v.c l).bits.toNat)))

/-- An integer instruction without modifiers. -/
def intOp (i : Instr) (sh : Shape) (f : Nat → Nat → Nat → Nat → Nat) : M Unit := intOpX i sh (fun w _ => f w)

/-- The value of an immediate field or its literal (R84). -/
def immOf (f : Field) : Int :=
  match f with
  | .imm v => v.toInt
  | .lit v => v.toInt
  | _ => 0

/-- An immediate form (R84). -/
def immOp (i : Instr) (f : Nat → Nat → Int → Nat) : M Unit :=
  insn i one1 (do
    let v ← fetch one1 .int
    let w ← width
    let b := immOf (← ops).b
    writeD 1 (result ⟨v.a, fun _ => Val.zero, v.c⟩ (fun l => f w (v.a l).bits.toNat b)))

/-- The integer comparison a code of R88 names. -/
def icmpW (w x a b : Nat) : Bool :=
  let lt := if bit x 3 then decide (a < b) else decide (sext a w < sext b w)
  match x % 8 with
  | 0 => a == b
  | 1 => a != b
  | 2 => lt
  | 3 => lt || a == b
  | 4 => !(lt || a == b)
  | _ => !lt

/-- A comparison's result combined with predicate c (R88, R95). -/
def combine (x : Nat) (r c : Bool) : Bool :=
  match x / 16 % 4 with
  | 0 => r && c
  | 1 => r || c
  | _ => r != c

def icmpfOp : M Unit :=
  insn .icmpf two1 (do
    let v ← fetch two1 .int
    let w ← width
    let o ← ops
    let c ← readPred o.c
    let x := o.x8.toNat
    writePred o.d (fun l =>
      if (v.a l).poison || (v.b l).poison || (c l).poison then ⟨false, true⟩
      else ⟨combine x (icmpW w x (v.a l).bits.toNat (v.b l).bits.toNat) (c l).val, false⟩))

def pickOp : M Unit :=
  insn .pick two1 (do
    let v ← fetch two1 .int
    let c ← readPred (← ops).c
    writeD 1 (fun l =>
      if (v.a l).poison || (v.b l).poison || (c l).poison then Val.bad else if (c l).val then v.a l else v.b l))

def moviOp : M Unit := do
  let wide := if (← ops).x8.getLsbD 0 then 2 else 1
  let sh : Shape := { d := wide, a := 0, b := wide, c := 0 }
  insn .movi sh (do
    let v ← fetch sh .int
    writeD wide v.b)

/-- The fields of MOVP.get: on the execute side it reads every predicate (R92). -/
def getShape : Shape := { a := 0, b := 0, c := 0, predR := List.range 7 }

def movpGetOp : M Unit := do
  insn .movpGet getShape (do
    awaitRegs [((← ops).d, 1)]
    checkPorts getShape
    match ← unit with
    | .ex _ _ =>
      let x ← exThread
      let v := if x.fp = 0 then Val.of (BitVec.ofNat 64 (x.f.toNat + 128)) else Val.bad
      writeD 1 (fun _ => v)
    | _ =>
      let m ← (match (← ops).a with
        | .pred n => do pure ((← apThread).maskOf n.val)
        | _ => pure ⟨0, false⟩)
      writeD 1 (fun _ => if m.poison then Val.bad else Val.of (m.bits.setWidth 64)))

/-- The fields of MOVP.put: on the execute side it writes the predicates that its operand b names, once that can be read (R92). -/
def putShape (s : State) : Shape :=
  match fetch two1 .int s with
  | .ok (v, _) => { two1 with predW := setBits (heldVal (v.b 0)).bits.toNat 7 }
  | .error _ => two1

/-- MOVP.put (R92). DEDUCED, entry 53: on the access side a guard mask with no lane set gives it no effect (R42); with any lane set it
writes the whole mask. DESIGN CHOICE, entry 20: a poisoned mask operand b names no predicate. -/
def movpPutOp : M Unit := do
  insn .movpPut (putShape (← get)) (do
    let v ← fetch two1 .int
    match ← unit with
    | .ex tm tid =>
      let bad := (v.a 0).poison || (v.b 0).poison
      let a := (v.a 0).bits.toNat
      let b := (heldVal (v.b 0)).bits.toNat
      modify (fun s => s.modEx tm tid (fun x =>
        (List.range 7).foldl (fun x i => if bit b i then x.setF i (bit a i && !bad) bad else x) x))
    | .ap tm sp =>
      let a := v.a 0
      match (← ops).d with
      | .pred n =>
        if n.val = 7 then pure ()
        else modify (fun s => s.modAp tm sp (fun x =>
          { x with m := x.m.set n.val ⟨if a.poison then 0 else a.bits.setWidth 16, a.poison⟩ }))
      | _ => pure ()
    | .qe _ => pure ())

def flutOp : M Unit := do
  let sh : Shape := { a := 0, b := 0, c := 0 }
  insn .flut sh (do
    let o ← ops
    let a ← readPred o.a
    let b ← readPred o.b
    let c ← readPred o.c
    let n := fun (p : PBit) => if p.val then 1 else 0
    writePred o.d (fun l =>
      if (a l).poison || (b l).poison || (c l).poison then ⟨false, true⟩
      else ⟨o.x8.getLsbD (4 * n (a l) + 2 * n (b l) + n (c l)), false⟩))

/-! ### Meanings -/

/-- MOV: a (R86). -/
def execMov (s : State) : Host.Outcome State Fault Refusal :=
  meaning (intOp .mov one1 fun w a _ _ => movW w a) s

/-- MOV: a (R86). -/
def execMovLong (s : State) : Host.Outcome State Fault Refusal :=
  meaning (intOp .movLong one1 fun w a _ _ => movW w a) s

/-- IADD: wrap(a + b, W) (R86). -/
def execIadd (s : State) : Host.Outcome State Fault Refusal :=
  meaning (intOp .iadd two1 fun w a b _ => iaddW w a b) s

/-- IADD: wrap(a + b, W) (R86). -/
def execIaddLong (s : State) : Host.Outcome State Fault Refusal :=
  meaning (intOp .iaddLong two1 fun w a b _ => iaddW w a b) s

/-- ISUB: wrap(a - b, W) (R86). -/
def execIsub (s : State) : Host.Outcome State Fault Refusal :=
  meaning (intOp .isub two1 fun w a b _ => isubW w a b) s

/-- ISUB: wrap(a - b, W) (R86). -/
def execIsubLong (s : State) : Host.Outcome State Fault Refusal :=
  meaning (intOp .isubLong two1 fun w a b _ => isubW w a b) s

/-- IMUL: wrap(a b, W) (R86). -/
def execImul (s : State) : Host.Outcome State Fault Refusal :=
  meaning (intOp .imul two1 fun w a b _ => imulW w a b) s

/-- IMUL: wrap(a b, W) (R86). -/
def execImulLong (s : State) : Host.Outcome State Fault Refusal :=
  meaning (intOp .imulLong two1 fun w a b _ => imulW w a b) s

/-- IMULH: the high half of the signed product (R86). -/
def execImulh (s : State) : Host.Outcome State Fault Refusal :=
  meaning (intOp .imulh two1 fun w a b _ => imulhW w a b) s

/-- IMULH: the high half of the signed product (R86). -/
def execImulhLong (s : State) : Host.Outcome State Fault Refusal :=
  meaning (intOp .imulhLong two1 fun w a b _ => imulhW w a b) s

/-- IMULHU: the high half of the unsigned product (R86). -/
def execImulhu (s : State) : Host.Outcome State Fault Refusal :=
  meaning (intOp .imulhu two1 fun w a b _ => imulhuW w a b) s

/-- IMULHU: the high half of the unsigned product (R86). -/
def execImulhuLong (s : State) : Host.Outcome State Fault Refusal :=
  meaning (intOp .imulhuLong two1 fun w a b _ => imulhuW w a b) s

/-- IMIN: the smaller signed operand (R86). -/
def execImin (s : State) : Host.Outcome State Fault Refusal :=
  meaning (intOp .imin two1 fun w a b _ => iminW w a b) s

/-- IMIN: the smaller signed operand (R86). -/
def execIminLong (s : State) : Host.Outcome State Fault Refusal :=
  meaning (intOp .iminLong two1 fun w a b _ => iminW w a b) s

/-- IMAX: the larger signed operand (R86). -/
def execImax (s : State) : Host.Outcome State Fault Refusal :=
  meaning (intOp .imax two1 fun w a b _ => imaxW w a b) s

/-- IMAX: the larger signed operand (R86). -/
def execImaxLong (s : State) : Host.Outcome State Fault Refusal :=
  meaning (intOp .imaxLong two1 fun w a b _ => imaxW w a b) s

/-- UMIN: the smaller unsigned operand (R86). -/
def execUmin (s : State) : Host.Outcome State Fault Refusal :=
  meaning (intOp .umin two1 fun w a b _ => uminW w a b) s

/-- UMIN: the smaller unsigned operand (R86). -/
def execUminLong (s : State) : Host.Outcome State Fault Refusal :=
  meaning (intOp .uminLong two1 fun w a b _ => uminW w a b) s

/-- UMAX: the larger unsigned operand (R86). -/
def execUmax (s : State) : Host.Outcome State Fault Refusal :=
  meaning (intOp .umax two1 fun w a b _ => umaxW w a b) s

/-- UMAX: the larger unsigned operand (R86). -/
def execUmaxLong (s : State) : Host.Outcome State Fault Refusal :=
  meaning (intOp .umaxLong two1 fun w a b _ => umaxW w a b) s

/-- AND (R86). -/
def execAnd (s : State) : Host.Outcome State Fault Refusal :=
  meaning (intOp .and two1 fun w a b _ => andW w a b) s

/-- AND (R86). -/
def execAndLong (s : State) : Host.Outcome State Fault Refusal :=
  meaning (intOp .andLong two1 fun w a b _ => andW w a b) s

/-- OR (R86). -/
def execOr (s : State) : Host.Outcome State Fault Refusal :=
  meaning (intOp .or two1 fun w a b _ => orW w a b) s

/-- OR (R86). -/
def execOrLong (s : State) : Host.Outcome State Fault Refusal :=
  meaning (intOp .orLong two1 fun w a b _ => orW w a b) s

/-- XOR (R86). -/
def execXor (s : State) : Host.Outcome State Fault Refusal :=
  meaning (intOp .xor two1 fun w a b _ => xorW w a b) s

/-- XOR (R86). -/
def execXorLong (s : State) : Host.Outcome State Fault Refusal :=
  meaning (intOp .xorLong two1 fun w a b _ => xorW w a b) s

/-- ANDN: a AND NOT b (R86). -/
def execAndn (s : State) : Host.Outcome State Fault Refusal :=
  meaning (intOp .andn two1 fun w a b _ => andnW w a b) s

/-- ANDN: a AND NOT b (R86). -/
def execAndnLong (s : State) : Host.Outcome State Fault Refusal :=
  meaning (intOp .andnLong two1 fun w a b _ => andnW w a b) s

/-- SHL: a shifted left by bits 7 to 0 of b (R86). -/
def execShl (s : State) : Host.Outcome State Fault Refusal :=
  meaning (intOp .shl two1 fun w a b _ => shlW w a b) s

/-- SHL: a shifted left by bits 7 to 0 of b (R86). -/
def execShlLong (s : State) : Host.Outcome State Fault Refusal :=
  meaning (intOp .shlLong two1 fun w a b _ => shlW w a b) s

/-- SHR: a shifted right, zeros entering (R86). -/
def execShr (s : State) : Host.Outcome State Fault Refusal :=
  meaning (intOp .shr two1 fun w a b _ => shrW w a b) s

/-- SHR: a shifted right, zeros entering (R86). -/
def execShrLong (s : State) : Host.Outcome State Fault Refusal :=
  meaning (intOp .shrLong two1 fun w a b _ => shrW w a b) s

/-- SAR: a shifted right, sign bits entering (R86). -/
def execSar (s : State) : Host.Outcome State Fault Refusal :=
  meaning (intOp .sar two1 fun w a b _ => sarW w a b) s

/-- SAR: a shifted right, sign bits entering (R86). -/
def execSarLong (s : State) : Host.Outcome State Fault Refusal :=
  meaning (intOp .sarLong two1 fun w a b _ => sarW w a b) s

/-- SHLI: a shifted left by the immediate (R84, R86). -/
def execShli (s : State) : Host.Outcome State Fault Refusal :=
  meaning (immOp .shli fun w a i => shliW w a i) s

/-- SHLI: a shifted left by the immediate (R84, R86). -/
def execShliLong (s : State) : Host.Outcome State Fault Refusal :=
  meaning (immOp .shliLong fun w a i => shliW w a i) s

/-- SHRI: a shifted right by the immediate (R84, R86). -/
def execShri (s : State) : Host.Outcome State Fault Refusal :=
  meaning (immOp .shri fun w a i => shriW w a i) s

/-- SHRI: a shifted right by the immediate (R84, R86). -/
def execShriLong (s : State) : Host.Outcome State Fault Refusal :=
  meaning (immOp .shriLong fun w a i => shriW w a i) s

/-- SARI: a shifted right arithmetically by the immediate (R84, R86). -/
def execSari (s : State) : Host.Outcome State Fault Refusal :=
  meaning (immOp .sari fun w a i => sariW w a i) s

/-- SARI: a shifted right arithmetically by the immediate (R84, R86). -/
def execSariLong (s : State) : Host.Outcome State Fault Refusal :=
  meaning (immOp .sariLong fun w a i => sariW w a i) s

/-- ROTL: a rotated left (R86). -/
def execRotl (s : State) : Host.Outcome State Fault Refusal :=
  meaning (intOp .rotl two1 fun w a b _ => rotlW w a b) s

/-- ROTL: a rotated left (R86). -/
def execRotlLong (s : State) : Host.Outcome State Fault Refusal :=
  meaning (intOp .rotlLong two1 fun w a b _ => rotlW w a b) s

/-- POPC: the number of one bits (R86). -/
def execPopc (s : State) : Host.Outcome State Fault Refusal :=
  meaning (intOp .popc one1 fun w a _ _ => popcW w a) s

/-- POPC: the number of one bits (R86). -/
def execPopcLong (s : State) : Host.Outcome State Fault Refusal :=
  meaning (intOp .popcLong one1 fun w a _ _ => popcW w a) s

/-- CLZ: the number of leading zero bits (R86). -/
def execClz (s : State) : Host.Outcome State Fault Refusal :=
  meaning (intOp .clz one1 fun w a _ _ => clzW w a) s

/-- CLZ: the number of leading zero bits (R86). -/
def execClzLong (s : State) : Host.Outcome State Fault Refusal :=
  meaning (intOp .clzLong one1 fun w a _ _ => clzW w a) s

/-- BREV: the bits reversed (R86). -/
def execBrev (s : State) : Host.Outcome State Fault Refusal :=
  meaning (intOp .brev one1 fun w a _ _ => brevW w a) s

/-- BREV: the bits reversed (R86). -/
def execBrevLong (s : State) : Host.Outcome State Fault Refusal :=
  meaning (intOp .brevLong one1 fun w a _ _ => brevW w a) s

/-- IABS: the absolute value, wrapped (R86). -/
def execIabs (s : State) : Host.Outcome State Fault Refusal :=
  meaning (intOp .iabs one1 fun w a _ _ => iabsW w a) s

/-- IABS: the absolute value, wrapped (R86). -/
def execIabsLong (s : State) : Host.Outcome State Fault Refusal :=
  meaning (intOp .iabsLong one1 fun w a _ _ => iabsW w a) s

/-- INEG: wrap(-a, W) (R86). -/
def execIneg (s : State) : Host.Outcome State Fault Refusal :=
  meaning (intOp .ineg one1 fun w a _ _ => inegW w a) s

/-- INEG: wrap(-a, W) (R86). -/
def execInegLong (s : State) : Host.Outcome State Fault Refusal :=
  meaning (intOp .inegLong one1 fun w a _ _ => inegW w a) s

/-- IADDI: wrap(a + imm, W) (R84, R86). -/
def execIaddi (s : State) : Host.Outcome State Fault Refusal :=
  meaning (immOp .iaddi fun w a i => iaddiW w a i) s

/-- IADDI: wrap(a + imm, W) (R84, R86). -/
def execIaddiLong (s : State) : Host.Outcome State Fault Refusal :=
  meaning (immOp .iaddiLong fun w a i => iaddiW w a i) s

/-- SH2ADD: wrap(4 a + b, W) (R86). -/
def execSh2add (s : State) : Host.Outcome State Fault Refusal :=
  meaning (intOp .sh2add two1 fun w a b _ => sh2addW w a b) s

/-- SH2ADD: wrap(4 a + b, W) (R86). -/
def execSh2addLong (s : State) : Host.Outcome State Fault Refusal :=
  meaning (intOp .sh2addLong two1 fun w a b _ => sh2addW w a b) s

/-- SH3ADD: wrap(8 a + b, W) (R86). -/
def execSh3add (s : State) : Host.Outcome State Fault Refusal :=
  meaning (intOp .sh3add two1 fun w a b _ => sh3addW w a b) s

/-- SH3ADD: wrap(8 a + b, W) (R86). -/
def execSh3addLong (s : State) : Host.Outcome State Fault Refusal :=
  meaning (intOp .sh3addLong two1 fun w a b _ => sh3addW w a b) s

/-- PACK2: the low halves of a and b packed (R86). -/
def execPack2 (s : State) : Host.Outcome State Fault Refusal :=
  meaning (intOp .pack2 two1 fun w a b _ => pack2W w a b) s

/-- PACK2: the low halves of a and b packed (R86). -/
def execPack2Long (s : State) : Host.Outcome State Fault Refusal :=
  meaning (intOp .pack2Long two1 fun w a b _ => pack2W w a b) s

/-- IMAD: wrap(a b + c, W) (R87). -/
def execImad (s : State) : Host.Outcome State Fault Refusal :=
  meaning (intOp .imad ({} : Shape) fun w a b c => imadW w a b c) s

/-- IMAD64: wrap(ext(a) ext(b) + c, 64) (R87). -/
def execImad64 (s : State) : Host.Outcome State Fault Refusal :=
  meaning (intOpX .imad64 ({ d := 2, c := 2 } : Shape) fun _ x a b c => imad64W (bit x 0) a b c) s

/-- IADD64: wrap(a + b, 64), on pairs on the execute side (R87). -/
def execIadd64 (s : State) : Host.Outcome State Fault Refusal :=
  meaning (intOp .iadd64 pairs2 fun _ a b _ => iaddW 64 a b) s

/-- ISUB64: wrap(a - b, 64), on pairs on the execute side (R87). -/
def execIsub64 (s : State) : Host.Outcome State Fault Refusal :=
  meaning (intOp .isub64 pairs2 fun _ a b _ => isubW 64 a b) s

/-- IMULW: ext(a) ext(b) as 64 bits (R87). -/
def execImulw (s : State) : Host.Outcome State Fault Refusal :=
  meaning (intOpX .imulw ({ d := 2, c := 0 } : Shape) fun _ x a b _ => imulwW (bit x 0) a b) s

/-- ICMPF: a comparison combined with a predicate (R88). -/
def execIcmpf (s : State) : Host.Outcome State Fault Refusal :=
  meaning (icmpfOp) s

/-- PICK: a when predicate c is true, else b (R87). -/
def execPick (s : State) : Host.Outcome State Fault Refusal :=
  meaning (pickOp) s

/-- BFGET: a bit field read (R89). -/
def execBfget (s : State) : Host.Outcome State Fault Refusal :=
  meaning (intOpX .bfget two1 fun w x a b _ => bfgetW w (bit x 0) a b) s

/-- BFPUT: a bit field replaced (R89). -/
def execBfput (s : State) : Host.Outcome State Fault Refusal :=
  meaning (intOp .bfput ({} : Shape) fun w a b c => bfputW w a b c) s

/-- BYSEL: bytes selected from two words (R90). -/
def execBysel (s : State) : Host.Outcome State Fault Refusal :=
  meaning (intOp .bysel ({} : Shape) fun _ a b c => byselW a b c) s

/-- IDIV: the signed quotient (R91). -/
def execIdiv (s : State) : Host.Outcome State Fault Refusal :=
  meaning (intOp .idiv two1 fun w a b _ => idivW w a b) s

/-- UDIV: the unsigned quotient (R91). -/
def execUdiv (s : State) : Host.Outcome State Fault Refusal :=
  meaning (intOp .udiv two1 fun w a b _ => udivW w a b) s

/-- IREM: the signed remainder (R91). -/
def execIrem (s : State) : Host.Outcome State Fault Refusal :=
  meaning (intOp .irem two1 fun w a b _ => iremW w a b) s

/-- UREM: the unsigned remainder (R91). -/
def execUrem (s : State) : Host.Outcome State Fault Refusal :=
  meaning (intOp .urem two1 fun w a b _ => uremW w a b) s

/-- ISAD: wrap(abs(a - b) + c, W) (R87). -/
def execIsad (s : State) : Host.Outcome State Fault Refusal :=
  meaning (intOpX .isad ({} : Shape) fun w x a b c => isadW w (bit x 0) a b c) s

/-- MOVI: the literal (R92). -/
def execMovi (s : State) : Host.Outcome State Fault Refusal :=
  meaning (moviOp) s

/-- FUNNEL: a shift across two registers (R90). -/
def execFunnel (s : State) : Host.Outcome State Fault Refusal :=
  meaning (intOpX .funnel ({} : Shape) fun w x a b c => funnelW w (bit x 0) a b c) s

/-- IADDS: the saturated sum (R87). -/
def execIadds (s : State) : Host.Outcome State Fault Refusal :=
  meaning (intOpX .iadds two1 fun w x a b _ => iaddsW w (bit x 0) a b) s

/-- ISUBS: the saturated difference (R87). -/
def execIsubs (s : State) : Host.Outcome State Fault Refusal :=
  meaning (intOpX .isubs two1 fun w x a b _ => isubsW w (bit x 0) a b) s

/-- MOVP.get: predicates into a register, or a mask into an s register (R92). -/
def execMovpGet (s : State) : Host.Outcome State Fault Refusal :=
  meaning (movpGetOp) s

/-- MOVP.put: a register into predicates, or an s register into a mask (R92). -/
def execMovpPut (s : State) : Host.Outcome State Fault Refusal :=
  meaning (movpPutOp) s

/-- FLUT: three predicates through a truth table (R92). -/
def execFlut (s : State) : Host.Outcome State Fault Refusal :=
  meaning (flutOp) s

end Sys2Proof.Machine
end

