-- ==== Sys2Proof/Machine/Route.lean ====
section
/-! DEFINITION. Routes over the Umtur fabric (R268-R271), credits (R270), and the scale-out endpoint (R273, R418). -/

namespace Sys2Proof.Machine

namespace Route
/-- Fields of a route entry (R268). -/
def mode (e : Nat) : Nat := bits e 33 32
def uctx (e : Nat) : Nat := bits e 63 48
/-- The Ethernet ports that a mode 2 entry allows. -/
def eport (e : Nat) : Nat := bits e 35 34
def hop (e i : Nat) : Nat := bits e (8 * i + 7) (8 * i)
/-- Links to the destination through a hop, and its link. -/
def count (h : Nat) : Nat := bits h 6 4
def link (h : Nat) : Nat := bits h 3 0
end Route

/-- A link record; a link nothing has touched is down. -/
def State.link (s : State) (n : Nat) : Link := s.links.get n {}
def State.modLink (s : State) (n : Nat) (f : Link → Link) : State := { s with links := s.links.put n (f (s.link n)) }

/-- Whether a link is enabled and in service. -/
def State.linkOk (s : State) (n : Nat) : Bool := (s.link n).up && !(s.link n).disabled

/-- Hops of an entry eligible for a packet that has crossed h links (R269). -/
def State.eligible (s : State) (e h : Nat) : List Nat :=
  ((List.range 4).map (Route.hop e)).filter (fun x =>
    bit x 7 && s.linkOk (Route.link x) && decide (1 ≤ Route.count x ∧ Route.count x ≤ 6 ∧ h + Route.count x ≤ 6))

/-- The hop a packet takes: least hop count, ties by the hash of R271. -/
def State.chooseHop (s : State) (p : Packet) (e : Nat) : Option Nat :=
  let hs := s.eligible e p.hop
  let m := hs.foldl (fun m x => min m (Route.count x)) 7
  let best := hs.filter (fun x => Route.count x == m)
  best[Config.hopHash p.dst (p.ia / 64) p.thread % best.length]?

/-- Where a device sends a packet (R268, R269, R273). -/
inductive Where where
  /-- Over a link. -/
  | link (n : Nat)
  /-- Through the scale-out endpoint, over some of its ports. -/
  | ether (uctx ports : Nat)
  | none
  deriving DecidableEq, Repr

/-- The decision of one device for a packet (R268, R269). -/
def State.route (s : State) (p : Packet) : Where :=
  let e := (s.routes.get p.dst 0).toNat
  match Route.mode e with
  | 1 => match s.chooseHop p e with
    | some h => .link (Route.link h)
    | none => .none
  | 2 => .ether (Route.uctx e) (Route.eport e)
  | _ => .none

/-- Traffic classes of a link (R270). -/
def clsRequest : Nat := 0
def clsReply : Nat := 1

/-- A packet leaves over a link: it takes a credit of its channel and a place in the replay buffer (R270, R409). -/
def State.crossLink (s : State) (n k : Nat) (o : Outgoing) : State :=
  { s.modLink n (fun l =>
      { l with credits := l.credits.put k (l.credits.get k 0 - 1), next := l.next + 1, buffer := l.buffer.put l.next o }) with
    out := o :: s.out }

/-- Whether a packet is the not-ready answer of R272. -/
def Outgoing.notReady : Outgoing → Bool
  | .reply _ _ (.fail code sub _) => code == 0x50 && sub == 4
  | .unready _ _ => true
  | _ => false

/-- Whether a link carries a packet: nothing but the not-ready answer until its partner's fid is valid (R419). -/
def Link.carries (l : Link) (o : Outgoing) : Bool := l.peerFid.isSome || o.notReady

/-- Whether a packet may leave on a channel now: a credit is there and the replay buffer of 512 has room. -/
def Link.free (l : Link) (k : Nat) : Bool := decide (0 < l.credits.get k 0 ∧ l.next - l.acked < 512)

/-- Sends over a link on a channel when a credit is there and the link carries the packet; otherwise it waits (R270, R419). -/
def State.sendLink (s : State) (n cls ch : Nat) (o : Outgoing) : State :=
  let l := s.link n
  let k := cls * 8 + ch
  if l.free k && l.carries o && l.waitq.all (fun w => w.1 != k || !l.carries w.2) then s.crossLink n k o
  else s.modLink n (fun l => { l with waitq := l.waitq ++ [(k, o)] })

/-- The first element with a property taken out of a list. -/
def pullFirst {α : Type} (p : α → Bool) : List α → Option (α × List α)
  | [] => none
  | x :: l => if p x then some (x, l) else (pullFirst p l).map (fun q => (q.1, x :: q.2))

/-- Packets that wait at a link leave while they can, at most so many. -/
def State.pumpLink (s : State) (n : Nat) : Nat → State
  | 0 => s
  | k + 1 =>
    match pullFirst (fun (w : Nat × Outgoing) => (s.link n).free w.1 && (s.link n).carries w.2) (s.link n).waitq with
    | some (w, rest) => ((s.modLink n (fun l => { l with waitq := rest })).crossLink n w.1 w.2).pumpLink n k
    | none => s

/-- Sends an answer to a device by this device's own entry for it, on a hop that the line of the target IA and the issuing thread choose
(R271); an answer to a device without a route is lost, and the requester's time-out stands for it (R266). -/
def State.replyTo (s : State) (dst ia thread : Nat) (o : Outgoing) : State :=
  match s.route ⟨s.mgmt.fid, 0, 0, dst, ia, 0, .load, none, thread⟩ with
  | .link n => s.sendLink n clsReply 0 o
  | .ether _ _ => { s with out := o :: s.out }
  | .none => s

/-- An answer to a message of the Ladle, which names neither an IA nor a thread. -/
def State.sendBack (s : State) (dst : Nat) (o : Outgoing) : State := s.replyTo dst 0 0 o

/-- Whether a device id is this device's own: none is while the fabric id is not valid (R272). -/
def State.isSelf (s : State) (dev : Nat) : Bool := s.mgmt.fidSet && dev == s.mgmt.fid

/-- A number for the issuing thread, as R271 hashes it. -/
def agentNo : Agent → Nat
  | .ex t i => 3 * exKey t i
  | .ap t i => 3 * stripKey t i + 1
  | .qe n => 3 * n + 2

end Sys2Proof.Machine
end

