-- ==== Sys2Proof/Machine/Access.lean ====
section
/-! DEFINITION. Memory accesses: their checks at issue in the order of R161, the place of an access (R143-R145), store buffers
(R230), the order among one thread's accesses (R228, R229, R160, R225), the atomic operations (R169), and performing an
access at a core or at the memory side. -/

namespace Sys2Proof.Machine

/-! ### Checks 1 to 5 -/

/-- What an instruction asks of a handle: the spaces, kinds and element widths it accepts (R163), its access size, the
multiple its location must be of, and the permission. -/
structure Want where
  hidx   : Nat
  spaces : List Nat
  kinds  : List Nat
  widths : List Nat := [0, 1, 2, 3]
  size   : Nat
  align  : Nat
  need   : Need
  /-- What its offset alone must be a multiple of (R216, R239, R285, R286). -/
  offAlign : Nat := 1
  /-- Whether it may reach the semaphore window (R326). -/
  sem    : Bool := false
  /-- Whether a flat handle's pointer tag applies (R142; not to the tag instructions, R219). -/
  tags   : Bool := true
  deriving DecidableEq, Repr

/-- Where an access lands before its alignment, bounds and translation are checked (R143): the space that governs it, the core
and its window for the stores of a core, offset and location, and the pointer tag. -/
structure Spot where
  hidx  : Nat
  h     : Handle
  space : Nat
  core  : Nat
  win   : Nat
  off   : Nat
  loc   : Nat
  size  : Nat
  align : Nat
  ptag  : Option (BitVec 4)
  offAlign : Nat := 1
  deriving DecidableEq, Repr

/-- An access that passed checks 1 to 5: its address is an IA in spaces 0, 4 and 5, and a Loc.key in the others. -/
structure Acc where
  hidx  : Nat
  h     : Handle
  space : Nat
  core  : Nat
  loc   : Nat
  size  : Nat
  addr  : Nat
  host  : Bool
  peer  : Bool
  ptag  : Option (BitVec 4)
  deriving DecidableEq, Repr

/-- Whether a space lies behind the range registers. -/
def globalSpace (n : Nat) : Bool := n == 0 || n == 4 || n == 5

/-- First location of the semaphore window (R326). -/
def semBase : Nat := 0xFFFFFFFFFFFF8000

/-- A failure of an access through a handle. -/
def accTrap (code sub hidx loc : Nat) : TrapInfo :=
  { tinfo code sub with handle := BitVec.ofNat 8 hidx, loc := BitVec.ofNat 64 loc }

/-- The handle and space part of check 2 that no lane changes (R161, R162, R144). placed: field c names a register. -/
def checkHandle (side : Side) (w : Want) (h : Handle) (regOff placed : Bool) : Except TrapInfo Unit :=
  let bad (sub : Nat) : Except TrapInfo Unit := .error (accTrap 0x24 sub w.hidx 0)
  let sp := Hnd.space h
  if sp = 7 then bad 1
  else if side = .exec ∧ globalSpace sp ∧ regOff then bad 6
  else if sp ∉ w.spaces ∨ (placed ∧ sp ≠ 2) then bad 2
  else if Hnd.kind h ∉ w.kinds then bad 5
  else if Hnd.ew h ∉ w.widths then bad 7
  else .ok ()

/-- Logical rows of a cluster: those of its enabled cores, since a retired core takes its row with it (R10, R413). -/
def State.logicalRows (s : State) (cluster : Nat) : Nat := s.mgmt.cores.getD cluster 0 / 16

/-- The core at a place offset from a core, when it lies in the cluster's logical grid (R10, R11). -/
def State.coreAt (s : State) (core : Nat) (dx dy : Int) : Option Nat :=
  let x : Int := (core % 16 : Nat) + dx
  let y : Int := (core / 16 % 16 : Nat) + dy
  if 0 ≤ x ∧ x < 16 ∧ 0 ≤ y ∧ y < s.logicalRows (core / 256) then some (core / 256 * 256 + y.toNat * 16 + x.toNat) else none

/-- The resident team of a cohort that holds a core. -/
def State.teamAt (s : State) (gid cohort core : Nat) : Option (Nat × Team) :=
  s.teams.find? (fun t => t.2.gid == gid && t.2.cohort == cohort && t.2.placed &&
    (t.2.core == core || (t.2.pair && t.2.core + 1 == core)))

/-- The core and window of a place word (R145): malformed or outside the cluster 0x03, outside the cohort 0x04. Bits
63 to 32 are ignored (DESIGN CHOICE, entry 57). -/
def State.placeTarget (s : State) (u : Agent) (hidx : Nat) (word : W64) : Except TrapInfo (Nat × Nat) :=
  let p := word.toNat % 2 ^ 32
  let bad (sub : Nat) : Except TrapInfo (Nat × Nat) := .error (accTrap 0x24 sub hidx 0)
  match s.teamOf u with
  | none => bad 3
  | some t =>
    if p / 2 ^ 16 ≠ 0 then bad 3
    else match s.coreAt (t.coreOf (stripOf u)) (sext (p % 256) 8) (sext (p / 256) 8) with
      | none => bad 3
      | some c => match s.teamAt t.gid t.cohort c with
        | none => bad 4
        | some q => .ok (c, 64 * q.2.spbase)

/-- The spot of one lane's access: place (R145), pointer tag (R142), location (R143), the semaphore window (R326). A handle of
kind tile, pair or pattern source makes no tag check (DESIGN CHOICE, entry 57). -/
def State.spotOf (s : State) (u : Agent) (w : Want) (h : Handle) (off : Nat) (place : W64) : Except TrapInfo Spot := do
  let own := (s.coreOf u).getD 0
  let base := (s.teamOf u).elim 0 (fun t => 64 * t.spbase)
  let sp := Hnd.space h
  let (core, win) ← (if sp = 2 then s.placeTarget u w.hidx place else pure (own, base))
  let tagged := (Hnd.tagen h || !w.tags) && Hnd.kind h == 1
  let off' := if tagged then off % 2 ^ 60 else off
  let loc := Hnd.base h + off'
  let ptag : Option (BitVec 4) :=
    if !w.tags || !Hnd.tagen h then none
    else if Hnd.kind h = 1 then some (BitVec.ofNat 4 (off / 2 ^ 60))
    else if Hnd.kind h = 0 then some (BitVec.ofNat 4 (Hnd.htag h))
    else none
  let inWin := decide (sp = 0 ∧ loc < 2 ^ 64 ∧ semBase < loc + w.size)
  let whole := decide (sp = 0 ∧ semBase ≤ loc ∧ loc + w.size ≤ 2 ^ 64)
  if inWin ∧ ¬w.sem then .error (accTrap 0x24 8 w.hidx loc)
  else if inWin ∧ ¬whole then .error (accTrap 0x24 8 w.hidx loc)
  else .ok ⟨w.hidx, h, if sp = 2 ∧ core = own then 1 else sp, core, win, off', loc, w.size, w.align, ptag, w.offAlign⟩

/-- Check 3 (R161): a location that is no multiple of the access size, or an offset that is none of what its instruction asks. -/
def Spot.aligned (p : Spot) : Except TrapInfo Unit :=
  if p.loc % p.align = 0 ∧ p.off % p.offAlign = 0 then .ok () else .error (accTrap 0x23 1 p.hidx p.loc)

/-- Check 4 (R143): the offset range within the limit. -/
def Spot.bounded (p : Spot) : Except TrapInfo Unit :=
  if p.off + p.size ≤ Hnd.limit p.h then .ok () else .error (accTrap 0x20 1 p.hidx p.loc)

/-- Check 5 (R147) and the address. An access of naturally aligned bytes never straddles two range registers. -/
def State.addrOf (s : State) (ctx : Nat) (p : Spot) (need : Need) : Except TrapInfo Acc :=
  let at' (a : Nat) (host peer : Bool) : Acc := ⟨p.hidx, p.h, p.space, p.core, p.loc, p.size, a, host, peer, p.ptag⟩
  if globalSpace p.space then
    if p.space = 0 ∧ semBase ≤ p.loc then .ok (at' p.loc false false)
    else match translate (s.context ctx) p.loc need with
      | .ok (ia, r) => .ok (at' ia (Range.host r) (Range.peer r))
      | .error t => .error { t with handle := BitVec.ofNat 8 p.hidx, loc := BitVec.ofNat 64 p.loc }
  else if p.space = 3 then .ok (at' (Loc.acc p.core p.loc).key false false)
  else if p.space = 6 then .ok (at' (Loc.bcs p.core p.loc).key false false)
  else .ok (at' (Loc.spad p.core (p.win + p.loc)).key false false)

/-- Checks 3 to 5 of one lane. -/
def State.finishSpot (s : State) (ctx : Nat) (p : Spot) (need : Need) : Except TrapInfo Acc := do
  p.aligned
  p.bounded
  s.addrOf ctx p need

/-- One check over the lanes in ascending order; the record names the first lane that fails, on the access side (R384). -/
def stage {α β : Type} (tag : Bool) (f : α → Except TrapInfo β) : List (Nat × α) → Except TrapInfo (List (Nat × β))
  | [] => .ok []
  | (l, x) :: rest => do
    match f x with
    | .error t => .error { t with lane := if tag then some l else none }
    | .ok y =>
      let ys ← stage tag f rest
      pure ((l, y) :: ys)

/-- Poison of the data, the offset and the place of a lane (check 1, R80). -/
def poisonCheck (data off place : Val) : Except TrapInfo Unit :=
  if data.poison then .error (tinfo 0x11 0)
  else if off.poison ∨ place.poison then .error (tinfo 0x11 1)
  else .ok ()

/-- Whether field c names a place register: every name but the one whose code is zero, unmarked. -/
def named (f : Field) : Bool :=
  match f with
  | .reg n last => last || n.code != 0
  | _ => false

/-- Whether an offset field is a register or a port rather than a literal (R144). -/
def isReg (f : Field) : Bool :=
  match f with
  | .reg _ _ => true
  | _ => false

/-- Checks 1 and 2 for the given lanes: what remains is checks 3 to 5 lane by lane. vec: whether the record names a
lane; data: whether field a is data; place: whether field c may name a place. A scalar access whose place is a lane
register executes once (DESIGN CHOICE, entry 57). -/
def spots (w : Want) (v : Opnds) (ls : List Nat) (vec data place : Bool) : M (List (Nat × Spot)) := do
  let u ← unit
  let s ← get
  let o ← ops
  let h := s.handleOf u w.hidx
  let tag := vec
  let usesPlace := place && Hnd.space h == 2
  let zero := Val.zero
  let xs := ls.map (fun l => (l, l))
  let _ ← orTrap (stage tag (fun l =>
    poisonCheck (if data then v.a l else zero) (v.b l) (if usesPlace then v.c l else zero)) xs)
  orTrap (match checkHandle (sideOf u) w h (isReg o.b) (place && named o.c) with
    | .error t => .error { t with lane := if tag then ls.head? else none }
    | .ok () => .ok ())
  trapIf (usesPlace && sideOf u == .access && !vec && o.c == .reg (.a 0) false) 1 5
  let mask : Nat := if sideOf u = .exec then 2 ^ 32 else 2 ^ 64
  orTrap (stage tag (fun l => s.spotOf u w h ((v.b l).bits.toNat % mask) (v.c l).bits) xs)

/-- The team owns a core's matrix engine, or the thread takes MTXOWN 0x01 (R105); a team that held it when it was saved waits
for its grant (R122). -/
def ownEngine (tm core : Nat) : M Unit := do
  let s ← get
  let back := (s.teams.find tm).elim false (fun t => t.regrant.has (core - t.core))
  waitUnless (!back) .engine
  trapIf ((s.core core).owner != some tm) 0x41 1

/-- Waits until every matrix operation that entered the core's queue before the instruction began has completed (R106). -/
def awaitQueue (core : Nat) : M Unit := do
  let s ← get
  let n := (← ctl).mark.getD s.fresh
  waitUnless ((s.core core).queue.all (fun q => decide (n ≤ q.id))) (.mqueue n)
  modCtl (fun c => { c with mark := none })

/-- Checks 1 to 5 for the given lanes, each check over every lane before the next (R161); space 3 asks for the engine
(R105). -/
def accesses (w : Want) (v : Opnds) (ls : List Nat) (vec data place : Bool) : M (List (Nat × Acc)) := do
  let u ← unit
  let ps ← spots w v ls vec data place
  let s ← get
  let tag := vec
  (match ps with
    | (_, p) :: _ =>
      match u with
      | .ex tm _ | .ap tm _ => if p.space = 3 then ownEngine tm p.core else pure ()
      | .qe _ => pure ()
    | [] => pure ())
  let _ ← orTrap (stage tag Spot.aligned ps)
  let _ ← orTrap (stage tag Spot.bounded ps)
  let as ← orTrap (stage tag (fun p => s.addrOf (s.ctxOf u) p w.need) ps)
  match as with
  | (_, a) :: _ => if a.space = 3 then awaitQueue a.core else pure ()
  | [] => pure ()
  pure as

/-! ### Order among one thread's accesses -/

/-- Whether a request has still to be performed. -/
def Req.open (r : Req) : Bool :=
  match r.phase with
  | .done _ _ | .failed _ => false
  | _ => true

/-- Whether a request is parked on a page, here or at a peer. -/
def Req.isParked (r : Req) : Bool :=
  match r.phase with
  | .parked _ _ | .remoteParked _ _ _ => true
  | _ => false

/-- Whether a request reads a value for its owner, and whether it writes. -/
def Req.loads (r : Req) : Bool :=
  match r.kind with
  | .load | .tagGet => true
  | .atomic _ _ _ _ ret => ret
  | _ => false
def Req.writes (r : Req) : Bool :=
  match r.kind with
  | .load | .tagGet => false
  | _ => true

/-- Whether two requests touch a common byte; in space 5 a common line of the requester's IA. Addresses of different spaces behind the range
registers, and of the stores of cores, never meet. -/
def Req.overlaps (q r : Req) : Bool :=
  let same := if globalSpace q.space then q.space == r.space else !globalSpace r.space
  same &&
    (if q.space = 5 then decide (q.ia / 64 ≤ (r.ia + r.size - 1) / 64 ∧ r.ia / 64 ≤ (q.ia + q.size - 1) / 64)
     else decide (q.ia < r.ia + r.size ∧ r.ia < q.ia + q.size))

/-- Whether a request is, or may turn out, strong (R160): an attribute not yet known counts as strong. -/
def Req.strongish (r : Req) : Bool := globalSpace r.space && (r.attr == none || r.attr == some 1)

/-- Whether an earlier request q of a thread, out of the store buffer and not yet performed, must be performed before r
(R228 cases 1 and 2, R229, R225, R160). met: they touch a common byte, or one line of a peer device. -/
def precedes (met : Bool) (q r : Req) : Bool :=
  met || (q.loads && r.writes) || (!globalSpace q.space && !globalSpace r.space && q.core == r.core) ||
    (q.strongish && r.attr == some 1)

/-- The same for an earlier store or reduction still in the buffer: a load reads the buffered store instead (R230), but not the
value of a buffered reduction; a load from a peer is performed there after every earlier store to its line (R267), and what is no load
passes no earlier access of the same core's stores (R229). A push is no such access (R184). -/
def precedesBuffered (met : Bool) (q r : Req) : Bool :=
  match r.kind, q.kind with
  | .load, .store _ _ => r.space == 5 && met
  | .load, _ => met
  | _, _ => met || (q.strongish && r.attr == some 1) ||
      (q.cls != 4 && !globalSpace q.space && !globalSpace r.space && q.core == r.core)

/-- The peer device and the IA there that a request of space 5 reaches, where it is known: by its leaf as the table has it now until it has
been sent. -/
def State.peerSpot (s : State) (r : Req) : Option (Nat × Nat) :=
  match r.phase with
  | .remote dev ia _ _ | .remoteParked dev ia _ => some (dev, ia)
  | _ => (s.partOf r.ctx).bind (fun p => match s.walk p.2 r.ia with
    | .leaf e sz => if Leaf.cls e = 2 then some (Leaf.dev e, Leaf.frame e + r.ia % 2 ^ sz) else none
    | _ => none)

/-- Whether two requests touch a common byte, or in space 5 a common line of one device, under whatever pages they reach it (R267, R274). A
line that is not known yet may be the same. -/
def State.sameSpot (s : State) (q r : Req) : Bool :=
  q.overlaps r || (q.space == 5 && r.space == 5 &&
    match s.peerSpot q, s.peerSpot r with
    | some (d, i), some (e, j) => d == e && decide (i / 64 ≤ (j + r.size - 1) / 64 ∧ j / 64 ≤ (i + q.size - 1) / 64)
    | _, _ => true)

/-- The store buffer of a request's owner. -/
def State.bufferOf (s : State) (o : Owner) : Assoc Req :=
  match o with
  | .unit u => (s.ctl u).elim [] (·.sbuf)
  | _ => []

/-- Whether two requests are writes of one byte by threads of one team in one issue, the first by a lower thread: they are performed in
ascending thread index (R166). -/
def lowerInIssue (q r : Req) : Bool :=
  match q.owner, r.owner with
  | .unit (.ex tm i), .unit (.ex tm' j) =>
    tm == tm' && decide (i < j) && q.clock == r.clock && q.iaddr == r.iaddr && q.writes && r.writes && q.overlaps r
  | _, _ => false

/-- Whether a write waits for one of a lower thread of its issue (R166), buffered or on its way. -/
def State.behindLower (s : State) (r : Req) : Bool :=
  s.reqs.any (fun q => q.2.open && lowerInIssue q.2 r) ||
    s.exs.any (fun x => x.2.ctl.sbuf.any (fun q => lowerInIssue q.2 r))

/-- Whether request number n may be performed now, as the earlier requests of its owner stand, and those of lower threads of its
issue. -/
def State.inOrder (s : State) (n : Nat) (r : Req) : Bool :=
  s.reqs.all (fun q => decide (n ≤ q.1) || q.2.owner != r.owner || !q.2.open || !precedes (s.sameSpot q.2 r) q.2 r) &&
    (s.bufferOf r.owner).all (fun q => decide (n ≤ q.1) || !precedesBuffered (s.sameSpot q.2 r) q.2 r) && !s.behindLower r

/-- A value with the bytes that the owner's earlier buffered stores cover taken from them, youngest last (R230); and the bytes
covered. -/
def overlay (buf : Assoc Req) (n : Nat) (r : Req) (v : Nat) : Nat × NatSet :=
  buf.foldl (fun a q =>
    match q.2.kind with
    | .store d _ =>
      if q.1 < n ∧ q.2.overlaps r then
        (List.range r.size).foldl (fun a i =>
          let k := r.ia + i
          if q.2.ia ≤ k ∧ k < q.2.ia + q.2.size then
            let old := a.1 / 2 ^ (8 * i) % 256
            let b := d / 2 ^ (8 * (k - q.2.ia)) % 256
            (a.1 - old * 2 ^ (8 * i) + b * 2 ^ (8 * i), NatSet.add a.2 i)
          else a) a
      else a
    | _ => a) (v, [])

/-- What a load delivers once memory gave a value: its owner's buffered bytes are read first, and a word of which no byte comes
from memory carries no poison (R230). -/
def State.forward (s : State) (n : Nat) (r : Req) (x : Nat × Bool) : Nat × Bool :=
  let q := overlay (s.bufferOf r.owner) n r x.1
  (q.1, x.2 && q.2.length != r.size)

/-! ### Atomic operations -/

/-- The new memory value of R169, without flags. -/
def atomicNew (op w old v cmp : Nat) : Nat :=
  let f := if w = 64 then binary64 else binary32
  match op with
  | 0 => (old + v) % 2 ^ w
  | 1 => if sext v w < sext old w then v else old
  | 2 => if sext old w < sext v w then v else old
  | 3 => min old v
  | 4 => max old v
  | 5 => old &&& v
  | 6 => old ||| v
  | 7 => old ^^^ v
  | 8 => v
  | 9 => if old = cmp then v else old
  | 10 => (f.add 0 old v).bits
  | 11 => (f.minMax false old v).bits
  | 12 => (f.minMax true old v).bits
  | 13 => if v ≤ old then 0 else old + 1
  | 14 => if old = 0 ∨ v < old then v else old - 1
  | _ => old

/-- A narrow element extended to n bits, by sign under sx (R165). -/
def extendTo (sx : Bool) (size v n : Nat) : Nat :=
  if sx ∧ 8 * size < n then wrapN (sext v (8 * size)) n else v % 2 ^ min n (8 * size)

/-! ### At a core -/

/-- Counts an uncorrected error of a request, in a core's store or in the slice of its line, and there the marker that a store of poison
writes (R406, R412). -/
def State.countError (s : State) (r : Req) : State :=
  let slice := (s.partOf r.ctx).elim 0 (fun q => q.2.sliceOf r.ia)
  let marker := match r.kind with
    | .store _ _ => 1
    | _ => 0
  (if globalSpace r.space then (s.count (ctrSlice slice 0) 1).count (ctrSlice slice 2) marker
   else s.count (ctrCore r.core (errKind 2 false)) 1).flush

/-- A request performed in the store of a core: its value and poison, and the state after. A poisoned word is not updated by
an atomic operation (R169). -/
def State.atCore (s : State) (r : Req) : (Nat × Bool) × State :=
  match r.kind with
  | .load | .tagGet => (s.readStore r.ia r.size, s)
  | .store d p =>
    let s := if p then s.countError r else s
    ((0, false), s.writeStore r.ia r.size d p)
  | .atomic op w v cmp ret =>
    let x := s.readStore r.ia r.size
    if x.2 then (x, if ret then s else s.countError r)
    else (x, s.writeStore r.ia r.size (atomicNew op w x.1 (v.toNat % 2 ^ w) (cmp.toNat % 2 ^ w)) false)
  | .tagSet _ | .pair _ _ _ => ((0, false), s)

/-! ### At the memory side -/

/-- A request performed through a leaf, in the slice line of its IA, local or host (R157): value, poison and the state after. A store
of the same core updates its L1 line; one of another observer leaves it, until an acquire (R158). -/
def State.atLeaf (s : State) (r : Req) (v : Via) : (Nat × Bool) × State :=
  let leaf := v.leaf
  let phys := v.phys
  let read : (Nat × Bool) × State := s.readLocal r.ia r.size v
  let write (t : State) (d : Nat) (p : Bool) : State :=
    let t := if p then t.countError r else t
    (t.writeLocal r.ia r.size d p v).updateL1 r.core r.ia r.size d p
  match r.kind with
  | .load => read
  | .store d p => ((0, false), write s d p)
  | .atomic op w v cmp ret =>
    let x := read
    if x.1.2 then (x.1, if ret then x.2 else x.2.countError r)
    else (x.1, write x.2 (atomicNew op w x.1.1 (v.toNat % 2 ^ w) (cmp.toNat % 2 ^ w)) false)
  | .tagGet =>
    if Leaf.tagen leaf then
      if s.tagBad.has (phys / 32) then ((0, true), s) else (((s.tags.get (phys / 32) 0).toNat, false), s)
    else ((0, false), s)
  | .tagSet t =>
    if Leaf.tagen leaf then
      ((0, false), { s with tags := if t = 0 then s.tags.del (phys / 32) else s.tags.put (phys / 32) t,
                            tagBad := s.tagBad.rem (phys / 32) })
    else ((0, false), s)
  | .pair _ _ _ => ((0, false), s)

/-- What the memory side does with a request. -/
inductive Served where
  /-- Performed. -/
  | ok (v : Nat) (poison : Bool) (s : State)
  | park (page cause size : Nat)
  | fail (t : TrapInfo)
  /-- To be performed by a peer device: its id, the IA there, and the requester's leaf. -/
  | peer (dev ia leaf : Nat)
  /-- Held at the new owner of its line while a switch is in progress (R378). -/
  | busy
  /-- A write to a line that the host may hold: it waits for the answer to a back-invalidate snoop (R379). -/
  | snoop
  deriving DecidableEq, Repr

/-- The leaf order a request is performed under (R160), as its attribute: 0 release-consistent, 1 strong, 2 unordered. -/
def attrOf (order leaf : Nat) : Nat :=
  if order = 0 then Leaf.order leaf else if order = 1 then 1 else if order = 2 then 0 else 2

/-- The attribute a handle fixes by itself. -/
def attrOfHandle (order : Nat) : Option Nat := if order = 0 then none else some (attrOf order 0)

/-- Whether a request is one of the tag instructions: no pointer tag is checked (R219). -/
def Req.tagOp (r : Req) : Bool :=
  match r.kind with
  | .tagGet | .tagSet _ => true
  | _ => false

/-- A leaf that a walk unit has used stays in its cache (R151). -/
def State.holdLeaf (s : State) (pi : Nat) (p : Partition) (ia leaf page : Nat) : State :=
  { s with walkc := s.walkc.put (walkKey (walkUnit (p.sliceOf ia)) pi ia) (BitVec.ofNat 64 leaf, page) }

/-- Whether the host may hold a line of [ia, ia + n) (R379). -/
def State.hostMay (s : State) (ia n : Nat) : Bool :=
  (List.range ((ia + n - 1) / 64 - ia / 64 + 1)).any (fun i => s.mgmt.hostHeld.has (ia / 64 + i))

/-- The host gives up the lines of [ia, ia + n) (R379). -/
def State.hostGives (s : State) (ia n : Nat) : State :=
  { s with mgmt := { s.mgmt with hostHeld :=
      (List.range ((ia + n - 1) / 64 - ia / 64 + 1)).foldl (fun h i => NatSet.rem h (ia / 64 + i)) s.mgmt.hostHeld } }

/-- A request at the memory side of a partition under the walk given (R150, R153, R156, R371, R378, R379). A failure is located at the
first byte that failed, which only a line of two granules has elsewhere than at its start (R193). -/
def State.serve (s : State) (pi : Nat) (p : Partition) (w : Walk) (r : Req) : Served :=
  if (p.domainOf r.ia).elim false (·.moves r.ia) then .busy
  else match s.memSide p w r.ia r.size r.space r.host r.peer r.writes r.tagOp r.ptag with
    | .park page cause sz => .park page cause sz
    | .fail t => .fail { t with handle := BitVec.ofNat 8 r.handle, loc := BitVec.ofNat 64 r.loc + t.loc }
    | .zeros => .ok 0 false s
    | .go leaf phys page =>
      if Leaf.cls leaf = 2 then .peer (Leaf.dev leaf) phys leaf
      else if r.writes && !r.tagOp && Leaf.cls leaf == 0 && s.hostMay r.ia r.size then .snoop
      else
        let x := s.atLeaf r ⟨leaf, phys, page, p.sliceOf r.ia, r.cache⟩
        .ok x.1.1 x.1.2 (x.2.holdLeaf pi p r.ia leaf page)

/-- log2 of a range as the size field of a fault record (R152). -/
def sizeCode (sz : Nat) : Nat := if sz ≤ 16 then 0 else if sz ≤ 21 then 1 else 2

/-! ### Requests -/

/-- The core that stands for an engine at the memory side: it has no L1. -/
def noCore : Nat := 2 ^ 20

/-- The loads that an access thread makes from now on see what it synchronised with: its core's L1 is invalidated, as by an acquire
(R158). Execute threads and queue engines have no data cache. -/
def State.seenBy (s : State) (u : Agent) : State :=
  match u with
  | .ap _ _ => (s.coreOf u).elim s s.invalL1
  | _ => s

/-- A request of a unit for an access. -/
def State.reqOf (s : State) (u : Agent) (a : Acc) (kind : ReqKind) (iaddr lane : Nat) (landing : Landing) : Req :=
  { owner := .unit u, ctx := s.ctxOf u, core := if globalSpace a.space then (s.coreOf u).getD noCore else a.core,
    sgen := (s.context (s.ctxOf u)).sgen, space := a.space,
    handle := a.hidx, order := Hnd.order a.h, cache := Hnd.cache a.h, loc := a.loc, size := a.size, ia := a.addr,
    host := a.host, peer := a.peer, ptag := a.ptag, kind,
    cls := match a.space with | 0 => 1 | 5 => 2 | 4 => 3 | _ => 0,
    attr := if globalSpace a.space then attrOfHandle (Hnd.order a.h) else none,
    gen := 0, iaddr, lane, rst := false, tagen := Hnd.tagen a.h, issue := s.fresh, clock := s.now, landing, pusher := [], phase := .sent }

/-- The generation of a request's domain (R378). -/
def State.genOf (s : State) (r : Req) : Nat :=
  ((s.partOf r.ctx).bind (fun p => p.2.domainAt r.ia)).elim 0 (·.gen)

/-- A request put on its way. -/
def State.inject (s : State) (n : Nat) (r : Req) : State := { s with reqs := s.reqs.put n { r with gen := s.genOf r } }

/-- Whether a request is non-idempotent (R400): all but one that only reads. -/
def Req.once (r : Req) : Bool := r.writes

/-- Non-idempotent requests outstanding of the units of a core with their pattern engines, or of a queue engine (R400). -/
def State.unanswered (s : State) (u : Agent) : Nat :=
  let mine (v : Agent) : Bool := match u, v with
    | .qe n, .qe m => n == m
    | .qe _, _ | _, .qe _ => false
    | _, _ => s.coreOf v == s.coreOf u
  let of (r : Req) : Bool := match r.owner with
    | .unit v => mine v
    | .pat k => mine (.ap (k / 16 / 128) (k / 16 % 128))
    | .eng _ => false
  (s.reqs.filter (fun q => q.2.once && of q.2)).length + (s.msgs.filter (fun q => mine q.2.owner)).length +
    (s.nreds.filter (fun q => mine q.2.owner)).length + (s.wdqs.filter (fun q => mine q.2.owner)).length +
    (s.pubs.filter (fun q => mine q.2.owner)).length + (s.plans.filter (fun q => mine q.2.owner)).length

/-- Non-idempotent requests that a core, or a queue engine, keeps outstanding at most (R400). -/
def replyLimit (u : Agent) : Nat :=
  match u with
  | .qe _ => 64
  | _ => 2048

/-- Whether a unit may have k more non-idempotent requests outstanding (R400). -/
def State.replyRoom (s : State) (u : Agent) (k : Nat) : Bool := k == 0 || decide (s.unanswered u + k ≤ replyLimit u)

/-- Waits until the limit of outstanding non-idempotent requests allows k more (R400). -/
def awaitReplies (k : Nat) : M Unit := do
  waitUnless ((← get).replyRoom (← unit) k) .room

/-- A store or reduction of the current unit entering its store buffer (R230). -/
def buffer (r : Req) : M Unit := do
  let n ← freshId
  modCtl (fun c => { c with sbuf := c.sbuf.put n r })

/-- Whether a request acts in the store of its owner's own core: it needs no journey. -/
def State.ownStore (s : State) (r : Req) : Bool :=
  match r.owner with
  | .unit u => !globalSpace r.space && s.coreOf u == some r.core
  | _ => false

/-- The oldest entry of a class in a store buffer; a store-stream push is of every class (R199). -/
def oldest (buf : Assoc Req) (cls : Nat) : Option (Nat × Req) := buf.find? (fun q => q.2.cls == cls || q.2.cls == 4)

/-- The slot that a store-stream push in a store buffer is for, and its element. -/
def Req.pushed (r : Req) : Option (Nat × Nat × Nat × Nat) :=
  match r.landing, r.kind with
  | .port key row lane, .store v _ => some (key, row, lane, v)
  | _, _ => none

/-- One counter of a unit changed (R231). -/
def Ctl.bumpCls (c : Ctl) (cls : Nat) (d : Int) : Ctl :=
  { c with unack := c.unack.modify cls (fun n => ((n : Int) + d).toNat) }

/-- The counters of the thread that pushed an element, once the element is stored or lost (R199). -/
def State.unpush (s : State) (r : Req) : State :=
  r.pusher.foldl (fun s q => s.modCtl (.ex q.1 q.2) (fun c => c.bump (-1))) s

/-- Whether a context runs (R391). -/
def State.running (s : State) (c : Nat) : Bool := (s.context c).cstate == 1

/-- Whether a team owns a core's engine and has been granted it again since its last restore (R103, R122). -/
def State.holdsEngine (s : State) (tm : Nat) (t : Team) (c : Nat) : Bool :=
  (s.core c).owner == some tm && !t.regrant.has (c - t.core)

/-- Whether the accumulator memory that a request of a unit acts in is its team's (R105, R122); true of every other space. -/
def State.engineHeld (s : State) (u : Agent) (r : Req) : Bool :=
  match u with
  | .ex tm _ => r.space != 3 || (s.teams.find tm).elim false (fun t => s.holdsEngine tm t r.core)
  | _ => true

/-- Whether a unit's team still waits for an engine that it owned when it was saved: what stands in a core's accumulator memory is not
its own until then (R122, R254). -/
def State.engineAway (s : State) (u : Agent) (a : Acc) : Bool :=
  a.space == 3 && (s.teamOf u).elim false (fun t => t.regrant.has (a.core - t.core))

/-- The oldest store of a class leaves a unit's buffer (R230). In its own core's store it is performed at once, and a store-stream push
fills its slot and counts in its thread's four counters from then on (R199, R231); elsewhere its counter counts it until it is performed
(R231), and it waits while the limit of outstanding requests is reached (R400). Nothing leaves while an earlier access must come first, and
a push not before every earlier entry. -/
def State.drain (s : State) (u : Agent) (cls : Nat) : Option State :=
  match (if s.running (s.ctxOf u) then oldest (s.bufferOf (.unit u)) cls else none) with
  | none => none
  | some (n, r) =>
    let out (s : State) : State := s.modCtl u (fun c => { c with sbuf := c.sbuf.del n })
    match r.pushed with
    | some (key, row, lane, v) =>
      if (s.bufferOf (.unit u)).all (fun q => decide (n ≤ q.1)) then
        some (((out s).modCtl u (fun c => c.bump 1)).modPort key (fun p => p.setSlot row lane (.data (BitVec.ofNat 512 v) false)))
      else none
    | none =>
    if s.ownStore r then
      if s.inOrder n r && s.engineHeld u r then some ((out (s.atCore r).2).unpush r) else none
    else if s.replyRoom u 1 then some (((out s).modCtl u (fun c => c.bumpCls cls 1)).inject n r)
    else none

/-- Every entry of a class drained, as far as order allows. -/
def State.drainAll (s : State) (u : Agent) (cls : Nat) : Nat → State
  | 0 => s
  | k + 1 => match s.drain u cls with
    | some t => t.drainAll u cls k
    | none => s

/-- The earlier requests of its owner that must be performed before request n. -/
def State.before (s : State) (n : Nat) (r : Req) : NatSet :=
  (s.reqs.filter (fun q => decide (q.1 < n) && q.2.owner == r.owner && q.2.open && precedes (s.sameSpot q.2 r) q.2 r)).map (·.1)

/-- Waits until earlier accesses of the current unit allow a request to be performed now. -/
def awaitOrder (r : Req) : M Unit := do
  let s ← get
  waitUnless (s.inOrder s.fresh r) (.order (s.before s.fresh r))

/-- A load, or an atomic operation after the unit's buffered local stores, in the store of its own core: at once (R229). -/
def doOwnN (r : Req) : M (Nat × Bool) := do
  let u ← unit
  (if r.writes then modify (fun s => s.drainAll u 0 ((s.bufferOf (.unit u)).length))
   else pure ())
  awaitOrder r
  let s ← get
  let x := s.atCore r
  let y := if r.writes then x.1 else s.forward s.fresh r x.1
  set x.2
  pure y

/-- An access behind the range registers that the unit waits for at the instruction, in spaces 0 and 4. Its failures trap; a
page in transit parks the unit (R153). It goes past the L1, which gives up the line: what it saw may be newer (R228). -/
def doGlobalN (r : Req) : M (Nat × Bool) := do
  awaitOrder { r with attr := some (r.attr.getD 1) }
  let u ← unit
  let s ← get
  match s.partOf r.ctx with
  | none => stopTrap (prot 1)
  | some (pi, p) =>
    match s.serve pi p (s.walk p r.ia) r with
    | .ok v po t =>
      let y := if r.loads ∧ ¬r.writes then s.forward s.fresh r (v, po) else (v, po)
      set (match u with
        | .ap _ _ => t.dropL1 r.core r.ia
        | _ => t)
      pure y
    | .park page cause sz => throw (Stop.park page cause (sizeCode sz) r.writes)
    | .fail t => stopTrap t
    | .peer _ _ _ => stopTrap (prot 4)
    | .busy | .snoop => wait .mem

/-- The lane a request is made for, as its failure names it (R384, R386); none for a scalar one. -/
def Req.laneNo (r : Req) : Option Nat := if r.lane < 16 then some r.lane else none

/-- A value of at most 64 bits. -/
def valOf (x : Nat × Bool) : Val := ⟨BitVec.ofNat 64 x.1, x.2⟩

def doOwn (r : Req) : M Val := do pure (valOf (← doOwnN r))

def doGlobal (r : Req) : M Val := do pure (valOf (← doGlobalN r))

/-- An access the unit waits for at the instruction, wherever it lies. -/
def doNowN (r : Req) : M (Nat × Bool) := do
  if globalSpace r.space then doGlobalN r else doOwnN r

def doNow (r : Req) : M Val := do pure (valOf (← doNowN r))

/-! ### Accesses of engines -/

/-- What comes of an element that an asynchronous engine reads or writes. -/
inductive EngRes where
  | ok (v : Nat) (poison : Bool) (s : State)
  /-- Its page is in transit: a record is posted and the element is tried again (R153). -/
  | park (page cause size : Nat)
  /-- A request to a peer device is to be sent for it. -/
  | send (r : Req)
  /-- Nothing can be done yet. -/
  | hold
  | fail (t : TrapInfo)
  deriving DecidableEq, Repr

/-- The request of an engine's element. -/
def State.engReq (s : State) (id : Nat) (u : Agent) (a : Acc) (kind : ReqKind) : Req :=
  let r := s.reqOf u a kind 0 255 .none
  { r with owner := .eng id, core := if globalSpace a.space then noCore else a.core }

/-- Whether two kinds of request are of one sort. -/
def ReqKind.sort : ReqKind → Nat
  | .load => 0
  | .store _ _ => 1
  | .atomic _ _ _ _ _ => 2
  | .tagGet => 3
  | .tagSet _ => 4
  | .pair _ _ _ => 5

/-- One access of an engine: in a core's store and at this device's memory it is performed at once; in space 5 a request goes
out, and the element goes on when its answer is there. -/
def State.engAccess (s : State) (r : Req) : EngRes :=
  if !globalSpace r.space then
    let x := s.atCore r
    .ok x.1.1 x.1.2 x.2
  else if r.space = 5 then
    match s.reqs.find? (fun q => q.2.owner == r.owner && q.2.ia == r.ia && q.2.size == r.size && q.2.kind.sort == r.kind.sort) with
    | none => .send r
    | some (n, q) => match q.phase with
      | .done d po => .ok d po { s with reqs := s.reqs.del n }
      | .failed t => .fail t
      | _ => .hold
  else
    match s.partOf r.ctx with
    | none => .fail (prot 1)
    | some (pi, p) =>
      match s.serve pi p (s.walk p r.ia) r with
      | .ok v po t => .ok v po t
      | .park page cause sz => .park page cause (sizeCode sz)
      | .fail t => .fail t
      | .peer _ _ _ => .fail (prot 4)
      | .busy | .snoop => .hold

/-- Whether an asynchronous operation is parked on a page. -/
def State.waitsOn (s : State) (id page : Nat) : Bool := s.parkedOps.any (fun w => w.1 == id && w.2 == page)

/-- An element of operation id parks on a page: its record or its share of the count (R152), made once (R153). -/
def State.noteOnce (s : State) (id ctx page cause size : Nat) (wr : Bool) : State :=
  if s.waitsOn id page && s.frecs.any (fun f => f.covers ctx page cause) then s
  else { s.noteFault ctx page cause size wr with
    parkedOps := if s.waitsOn id page then s.parkedOps else (id, page) :: s.parkedOps }

/-- An engine's request sent. -/
def State.engSend (s : State) (r : Req) : State :=
  { s.inject s.fresh r with fresh := s.fresh + 1 }

end Sys2Proof.Machine
end

