-- ==== Sys2Proof/Machine/Issue.lean ====
section
/-! DEFINITION. Fetching an instruction (R25, R33, R324, R325, R336), decoding it for its unit (R50), and issuing it (R289). -/

namespace Sys2Proof.Machine

/-- Whether a unit may issue at all: its team is placed and started, or its engine runs and has an instruction. -/
def State.unitUp (s : State) (u : Agent) : Bool :=
  s.running (s.ctxOf u) &&
  match u with
  | .ex tm tid =>
    (s.teams.find tm).elim false (fun t => t.placed && t.started) &&
      (s.exs.find (exKey tm tid)).elim false (fun x => x.arr.isNone)
  | .ap tm sp =>
    (s.teams.find tm).elim false (fun t => t.placed && t.started) &&
      (s.aps.find (stripKey tm sp)).elim false (fun x => x.blk.isNone || x.ctl.status == .ready)
  | .qe n => (s.engines.find n).elim false (fun e => e.en && e.state == 1 && (e.prog || (e.inPkt && e.left != 0)))

/-- Whether a waiting unit tries its instruction again by itself: it does not while a page is parked (R153), a semaphore is below
its value (R327), a word has not been written (R311), or a system operation is in progress (R374); there an event makes it
ready. -/
def Wait.retries : Wait → Bool
  | .page _ | .sem _ _ | .word _ | .sysop => false
  | _ => true

/-- Whether a unit can issue in this clock: ready or trying a wait again, its stall hint elapsed (R44), and not issued already. -/
def State.canIssue (s : State) (u : Agent) : Bool :=
  s.unitUp u &&
  match s.ctl u with
  | none => false
  | some c =>
    (match c.status with | .ready => true | .waiting w _ => w.retries | _ => false) &&
      decide (c.stallUntil ≤ s.now) && c.lastIssue != some s.now

/-- Whether a unit waits. -/
def State.waits (s : State) (u : Agent) : Bool :=
  match s.ctl u with
  | some c => (match c.status with | .waiting _ _ => true | _ => false)
  | none => false

/-- Key of an instruction word in a core's instruction cache. -/
def icKey (side : Side) (ctx va : Nat) : Nat :=
  ((if side = .access then 256 else 0) + ctx % 256) * 2 ^ 64 + va % 2 ^ 64

/-- A read of 4 bytes of code or ring by the current unit. No range register holds the semaphore window, so a fetch there takes
PROT 0x01 (R147, R304), while a ring read, which is a load, fails SPACE 0x08 (R324, R326). -/
def codeRead (space va : Nat) (need : Need) : M W32 := do
  let u ← unit
  let s ← get
  let h : Handle := BitVec.ofNat 256 (space * 2 ^ 128)
  let p : Spot := ⟨0, h, space, 0, 0, va, va, 4, 4, none, 1⟩
  (if space = 0 ∧ semBase < va + 4 ∧ va < 2 ^ 64 then stopTrap (if need = .ex then prot 1 else accTrap 0x24 8 0 va)
   else pure ())
  let a ← orTrap (s.addrOf (s.ctxOf u) p need)
  let v ← doGlobal (s.reqOf u a .load va 0 .none)
  if v.poison then
    let n ← freshId
    pure (Config.poisonedCode va n)
  else pure v.w32

/-- One instruction word of an execute or access thread, through the instruction cache of its core (R25, R33). -/
def fetchCore (va : Nat) : M W32 := do
  let u ← unit
  let s ← get
  let c := (s.coreOf u).getD 0
  let k := icKey (sideOf u) (s.ctxOf u) va
  let _ ← orTrap (translate (s.context (s.ctxOf u)) va .ex)
  match (s.core c).icache.find k with
  | some w => pure w
  | none =>
    let w ← codeRead 0 va .ex
    modify (fun s => s.modCore c (fun c => c.icPut k w))
    pure w

/-- One instruction word at an address, as the unit fetches. -/
def fetchWord (va : Nat) : M W32 := do
  let u ← unit
  match u with
  | .qe _ =>
    let e ← engine
    if e.prog then codeRead e.fspace (va % 2 ^ 64) .ex
    else codeRead (if e.rhost then 4 else 0) (va % 2 ^ 64) .rd
  | _ => fetchCore (va % 2 ^ 64)

/-- What decoding needs to know of a unit (R52, R336, R344). -/
def State.decodeCtx (s : State) (u : Agent) : DecodeCtx :=
  match u with
  | .qe n => (s.engines.find n).elim ⟨.queue, true, false, false⟩ (fun e => ⟨.queue, !e.prog, false, e.sup⟩)
  | _ => ⟨sideOf u, false, (s.teamOf u).elim false (fun t => LRec.cores (s.recordOf t)), false⟩

/-- Words of the packet that an engine in ring mode may still issue; a unit that runs no packet has no bound (R325). -/
def State.packetLeft (s : State) (u : Agent) : Option Nat :=
  match u with
  | .qe n => (s.engines.find n).bind (fun e => if e.prog then none else some e.left)
  | _ => none

/-- Fetches and decodes the instruction at the pc in the order of R50: word0 settles how many words are fetched, and an instruction
that runs past its packet halts the engine before another word is read (R325). DESIGN CHOICE, entry 53: R50 does not say when
word2 is fetched; here it is fetched with word1, so that a refusal or a park of its fetch comes before the checks on word1. -/
def fetchInsn : M (W32 × Except DecodeErr Insn) := do
  let u ← unit
  let pc := (← ctl).pc
  let cx := (← get).decodeCtx u
  let w0 ← fetchWord pc
  match word0Check w0 with
  | .error e => pure (w0, .error e)
  | .ok n =>
    (if ((← get).packetLeft u).elim false (fun k => decide (k < n)) then throw Stop.overrun else pure ())
    let w1 ← (if n ≥ 2 then fetchWord (pc + 4) else pure 0)
    let w2 ← (if n ≥ 3 then fetchWord (pc + 8) else pure 0)
    pure (w0, decodeWords cx w0 w1 w2)

/-- The trap of words that are no instruction (R49, R52). -/
def decodeTrap (e : DecodeErr) : TrapInfo :=
  match e with
  | .illegal sub => { tinfo 1 0 with sub }
  | .priv => tinfo 2 0

/-- What a unit does next at its pc. -/
inductive Next where
  /-- Nothing can issue. -/
  | idle
  /-- A state reached without executing: held, trapped at decode, waiting for a fetch, or halted. -/
  | done (s : State)
  /-- An instruction to execute, on the state after its fetch. -/
  | run (i : Insn) (s : State)

/-- Whether a thread stands at its meeting address (R295). -/
def State.atMeeting (s : State) (u : Agent) : Bool :=
  match u with
  | .ex tm tid =>
    match s.exs.find (exKey tm tid) with
    | some x => match x.meet with
      | some (t, _) => x.ctl.pc == (s.baseOf u + t.toNat) % 2 ^ 64
      | none => false
    | none => false
  | _ => false

/-- The unit's next instruction, fetched and decoded. -/
def State.next (s : State) (u : Agent) : Next :=
  if !s.canIssue u then .idle
  else if s.atMeeting u then .done (s.modCtl u (fun c => { c with status := .held }))
  else
    let s := { s with cur := some u }
    let pending : Option Insn := match u with
      | .ap tm sp => (s.aps.find (stripKey tm sp)).bind (fun x => x.blk.map (·.insn))
      | _ => none
    match pending with
    | some i => .run i { s with ir := i.args }
    | none =>
      match fetchInsn s with
      | .error (.trap t) => .done (s.takeTrap u t 0)
      | .error (.wait w) => .done (s.setWait u w)
      | .error (.park page cause size wr) =>
        .done ((s.noteFault (s.ctxOf u) page cause size wr).setWait u (.page page))
      | .error (.deferred _ _) => .idle
      | .error .overrun => .done (s.overrun u)
      | .error (.fault _) => .idle
      | .ok ((w0, .error e), t) => .done (t.takeTrap u (decodeTrap e) (w0.extractLsb' 0 2))
      | .ok ((_, .ok i), t) => .run i { t with ir := i.args }

/-! ### Choosing what issues (R13, R14, R290, R292, R421) -/

/-- The units that hold instructions. -/
def State.units (s : State) : List Agent :=
  (s.exs.map (fun x => Agent.ex (x.1 / 2048) (x.1 % 2048))) ++ (s.aps.map (fun x => Agent.ap (x.1 / 128) (x.1 % 128))) ++
    (s.engines.map (fun x => Agent.qe x.1))

/-- The clock since which a unit is ready, or at which it last tried: its ready age counts from there (R290). -/
def State.readyAt (s : State) (u : Agent) : Nat :=
  match s.ctl u with
  | some c => max c.readySince (c.lastIssue.getD 0)
  | none => s.now

/-- What the choice among ready units goes by: the greatest ready age first, then the lower team slot, then the lower index (R290, R292).
A promoted unit has the greater ready age, so that the same order puts it first. -/
def State.rank (s : State) (u : Agent) : Nat :=
  let place := match u with
    | .ex tm tid => (s.teams.find tm).elim 0 (fun t => t.slot * 2 ^ 16) + tid
    | .ap tm sp => (s.teams.find tm).elim 0 (fun t => t.slot * 2 ^ 16) + sp
    | .qe n => n
  s.readyAt u * 2 ^ 32 + place

/-- The unit of a list that is first in rank. -/
def State.firstOf (s : State) (us : List Agent) : Option Agent :=
  us.foldl (fun b u => match b with
    | none => some u
    | some v => if s.rank u < s.rank v then some u else some v) none

/-- A unit put into a list in its place by an order. -/
def insertBy (f : Agent → Nat) (u : Agent) : List Agent → List Agent
  | [] => [u]
  | v :: l => if f u < f v then u :: v :: l else v :: insertBy f u l

/-- Whether a unit is ready (R289): it has tried its next instruction, which could issue, and nothing but its turn keeps it from it. -/
def State.isReady (s : State) (u : Agent) : Bool := s.canIssue u && (s.ctl u).elim false (·.able)

/-- Whether an access thread only ends its blocking instruction, whose answers have come: it takes no issue slot. -/
def State.ends (s : State) (u : Agent) : Bool :=
  match u with
  | .ap tm sp => (s.aps.find (stripKey tm sp)).elim false (·.blk.isSome)
  | _ => false

/-- The ready units that share an issue slot with a unit: those of its kind on its core. -/
def State.rivals (s : State) (u : Agent) : List Agent :=
  s.units.filter (fun v => sideOf v == sideOf u && s.coreOf v == s.coreOf u && s.isReady v && !s.ends v)

/-- The group width of a thread's team (R13). -/
def State.widthAt (s : State) (u : Agent) : Nat := (s.teamOf u).elim 16 (fun t => 16 * 2 ^ LRec.group (s.recordOf t))

/-- The threads that issue with a leader (R290): ready threads of its team at its PC, by rank up to the group width of the team, in
ascending thread index (R166). -/
def State.groupOf (s : State) (lead : Agent) (us : List Agent) : List Agent :=
  match lead with
  | .ex tm _ =>
    let pc := (s.ctl lead).map Ctl.pc
    let same := us.filter (fun u => match u with
      | .ex tm' _ => tm' == tm && u != lead && (s.ctl u).map Ctl.pc == pc
      | _ => false)
    (lead :: (same.foldr (insertBy s.rank) []).take (s.widthAt lead - 1)).foldr
      (insertBy (fun u => match u with | .ex _ i => i | _ => 0)) []
  | u => [u]

/-- The group that would issue on a thread's core now: that of the leader among its ready threads (R290). -/
def State.freshGroup (s : State) (u : Agent) : List Agent :=
  let us := s.rivals u
  (s.firstOf us).elim [] (s.groupOf · us)

/-- Whether an instruction is of the FP64 column of R13. -/
def isFp64 (i : Insn) : Bool :=
  match i.op with
  | .dadd | .dsub | .dmul | .dfma | .ddiv | .dsqrt | .dcmpf | .dmin | .dmax | .dclass => true
  | .fcvt | .i2f | .f2i => i.args.x8.toNat % 16 == 1 || i.args.x8.toNat / 16 == 1
  | _ => false

/-- The second group of a clock (R290): of the remaining ready threads, those of the first in rank whose team has group width 16, whose PC
is another and whose instruction is of the FP32 and integer row. -/
def State.secondGroup (s : State) (u : Agent) : List Agent :=
  let us := s.rivals u
  let pc := (s.ctl u).map Ctl.pc
  let other := us.filter (fun v => s.widthAt v == 16 && (s.ctl v).map Ctl.pc != pc)
  ((other.foldr (insertBy s.rank) []).find? (fun v => match s.next v with
    | .run i _ => !isFp64 i
    | _ => false)).elim [] (s.groupOf · other)

/-- Clocks for which a group holds the datapath (R13). -/
def groupClocks (width : Nat) (fp64 : Bool) : Nat := if fp64 then width / 16 else max 1 (width / 32)

/-- Whether the power controller offers issue slots in this clock (R421). DESIGN CHOICE, entry 47: it withholds those of the first clocks
of every 256. -/
def State.offered (s : State) : Bool := decide (s.mgmt.slow ≤ s.now % 256)

/-- The threads of a core's group that have still to issue in this clock. -/
def State.groupLeft (s : State) (k : Core) : List Agent :=
  if k.groupAt = some s.now then (k.group.map (fun x => Agent.ex (x / 2048) (x % 2048))).filter s.isReady else []

/-- Whether a unit may issue now, or try again what it waits for. A ready execute thread issues in its turn of the group of its core, or
begins a group when the datapath is free (R290); a ready access thread when it is first in rank and its address processor has not issued in
this clock (R292). An engine shares no slot. -/
def State.mayIssue (s : State) (u : Agent) : Bool :=
  s.canIssue u && (!s.isReady u || s.ends u || match u, s.coreOf u with
    | .qe _, _ => true
    | _, none => true
    | .ap _ _, some c => s.offered && (s.core c).apAt != some s.now && s.firstOf (s.rivals u) == some u
    | .ex _ _, some c => s.offered && (match s.groupLeft (s.core c) with
      | v :: _ => v == u
      | [] => decide ((s.core c).exFree ≤ s.now) && (s.freshGroup u).head? == some u))

/-- Whether a unit needs no turn: an engine, and an access thread that only ends its blocking instruction. -/
def State.turnless (s : State) (u : Agent) : Bool := sideOf u == .queue || s.ends u

/-- A unit that could issue the instruction it has tried is ready from now on, if it was not before (R289, R290). -/
def State.found (s : State) (u : Agent) : State :=
  if s.isReady u || s.turnless u then s else s.modCtl u (fun c => { c with able := true, readySince := s.now })

/-- The issue slot that a unit has taken with an instruction in a state s, recorded in the state r that it led to. -/
def State.take (s : State) (u : Agent) (i : Insn) (r : State) : State :=
  match u, s.coreOf u with
  | .ap _ _, some c => if s.ends u then r else r.modCore c (fun k => { k with apAt := some s.now })
  | .ex tm tid, some c =>
    let key := exKey tm tid
    if s.groupLeft (s.core c) ≠ [] then r.modCore c (fun k => { k with group := k.group.erase key })
    else
      let w := s.widthAt u
      let more := if w = 16 ∧ !isFp64 i then s.secondGroup u else []
      let keys := (s.freshGroup u ++ more).map (fun v => match v with
        | .ex a b => exKey a b
        | _ => 0)
      r.modCore c (fun k => { k with group := keys.erase key, groupAt := some s.now, exFree := s.now + groupClocks w (isFp64 i) })
  | _, _ => r

/-- Whether a unit has tried an instruction in vain: it waits, with nothing of it begun. -/
def State.vain (s : State) (u : Agent) : Bool :=
  s.waits u && match u with
    | .ex tm tid => (s.exs.find (exKey tm tid)).elim false (·.arr.isNone)
    | .ap tm sp => (s.aps.find (stripKey tm sp)).elim false (·.blk.isNone)
    | .qe _ => true

/-- A packet whose words have all issued is behind the read pointer, once the engine is back in ring mode (R325). -/
def State.endPacket (s : State) (u : Agent) : State :=
  match u with
  | .qe n => s.modEngine n (fun e =>
      if !e.prog && e.inPkt && e.left == 0 then { e with inPkt := false, rptr := (e.rptr + 64) % 2 ^ 32 } else e)
  | _ => s

/-- The state after a unit has tried an instruction in a state s, where executing it gave the state r. One that waits has tried in vain;
one that could go on is ready, and issues in its turn (R289, R290). -/
def State.issued (s : State) (u : Agent) (i : Insn) (r : State) : State :=
  let z := s.found u
  if r.vain u then r.endPacket u
  else if z.mayIssue u then (z.take u i (r.modCtl u (fun c => { c with able := false }))).endPacket u
  else z

end Sys2Proof.Machine
end

