-- ==== Sys2Proof/Machine/Control.lean ====
section
/-! DEFINITION. Control transfer, waiting and meeting (R305-R311), PLD (R172), TRAP and BKPT (R396, R397), BEOS (R214) and
HEART (R351). -/

namespace Sys2Proof.Machine

/-- Poison of a condition or a target (R80). -/
def condPoison (v : Val) : M Unit := trapIf v.poison 0x11 2

/-- Word offset of BRA, CALL and MEET (R32). -/
def wordOffset (f : Field) : Int :=
  match f with
  | .off v => v.toInt
  | .lit v => v.toInt
  | _ => 0

/-- The address a word offset names from the instruction (R32). -/
def offsetTarget : M Nat := do
  let a ← here
  pure (wrapN ((a : Int) + 4 * wordOffset (← ops).b) 64)

/-- The code offset of an address (R304). -/
def codeOffset (a : Nat) : M Nat := do
  let s ← get
  pure (wrapN ((a : Int) - (s.baseOf (← unit) : Int)) 32)

/-- No fields. -/
def noShape : Shape := { d := 0, a := 0, b := 0, c := 0 }

/-- BRA (R306). -/
def braOp (i : Instr) : M Unit := insn i noShape (do jump (← offsetTarget))

/-- BRX (R306): the code offset a + 4 b. -/
def brxOp (i : Instr) : M Unit :=
  insn i { d := 0, a := 1, b := 1, c := 0 } (do
    let v ← fetch { d := 0, a := 1, b := 1, c := 0 } .int
    let m := (lowLane (← lanes))
    condPoison (v.a m)
    condPoison (v.b m)
    jumpOffset (((v.a m).bits.toNat + 4 * ((v.b m).bits.toNat % 2 ^ 32)) % 2 ^ 32))

/-- RET (R306). -/
def retOp (i : Instr) : M Unit :=
  insn i { d := 0, a := 1, b := 0, c := 0 } (do
    let v ← fetch { d := 0, a := 1, b := 0, c := 0 } .int
    let m := (lowLane (← lanes))
    condPoison (v.a m)
    jumpOffset ((v.a m).bits.toNat % 2 ^ 32))

/-! ### Exit (R308) -/

/-- Every entry of a lane empties (R300). -/
def Strip.dropLane (t : Strip) (l : Nat) : Strip :=
  let regs := t.regs.map (fun r => { r with live := setBit16 r.live l false })
  { t with regs, cur := t.cur.filter (fun c => regs.any (fun r => r.id == c.2.1 && r.live != 0)) }

/-- The ports of a strip, by number. -/
def State.portsOf (s : State) (strip : Nat) : List (Nat × Port) :=
  (List.range 16).filterMap (fun n => (s.ports.find (portKey strip n)).map (fun p => (n, p)))

/-- Every port of a strip with a property ends at a position, unless it has ended (R188). -/
def State.endPorts (s : State) (strip : Nat) (q : Port → Bool) (e : Port → Nat) : State :=
  (s.portsOf strip).foldl (fun s x =>
    if q x.2 && x.2.fin.isNone then s.modPort (portKey strip x.1) (fun p => { p with fin := some (e p) }) else s) s

/-- An execute thread exits: its entries empty, it counts as having popped every row, and the last of its strip ends the strip's
back-channels and store-streams (R308, R183, R188). -/
def State.exitEx (s : State) (tm tid : Nat) : State :=
  let sk := stripKey tm (tid / 16)
  let s := s.modEx tm tid (fun x => { x with arr := none, meet := none, ctl := { x.ctl with status := .exited } })
  let s := s.modStrip tm (tid / 16) (fun t => t.dropLane (tid % 16))
  let s := (s.portsOf sk).foldl (fun s x => s.retire tm (tid / 16) (portKey sk x.1)) s
  if (List.range 16).any (s.laneLive tm (tid / 16)) then s
  else s.endPorts sk (fun p => !p.execPops) (fun p => p.pos.foldl max 0)

/-- An access thread exits: the access-push ports of its strip end (R308). -/
def State.exitAp (s : State) (tm sp : Nat) : State :=
  (s.modAp tm sp (fun x => { x with blk := none, ctl := { x.ctl with status := .exited } })).endPorts (stripKey tm sp)
    (fun p => p.kind == .acc) (fun p => p.reserve)

/-- Waits until the store buffer is empty and the four counters are zero. -/
def awaitStores : M Unit := do
  let c ← ctl
  waitUnless (c.sbuf.isEmpty && c.unack.all (· == 0)) (.counters 0x78 false)

/-- EXIT (R308): it waits for the thread's stores, takes a deferred fault instead when one is pending (R388), and exits; on a
queue engine it halts with code 1. -/
def exitOp (i : Instr) : M Unit :=
  insn i noShape (do
    awaitStores
    match ← unit with
    | .ex tm tid =>
      takeDeferred (fun _ => true)
      modify (fun s => s.exitEx tm tid)
    | .ap tm sp =>
      takeDeferred (fun _ => true)
      modify (fun s => s.exitAp tm sp)
    | .qe n => modify (fun s => s.haltEngine n 1))

/-- YIELD (R309). -/
def yieldOp (i : Instr) : M Unit :=
  insn i noShape (do
    let n := (← get).now
    modCtl (fun c => { c with readySince := n + 2, stallUntil := max c.stallUntil (n + 2) }))

/-- MEET (R310): the target's code offset and every thread of the span. -/
def meetOp (i : Instr) : M Unit :=
  insn i noShape (do
    let t ← codeOffset (← offsetTarget)
    match ← unit with
    | .ex tm tid => modify (fun s => s.modEx tm tid (fun x => { x with meet := some (BitVec.ofNat 32 t, BitVec.allOnes 64) }))
    | _ => pure ())

/-- NOP (R309). -/
def nopOp (i : Instr) : M Unit := insn i noShape (pure ())

/-- BKPT (R397). -/
def bkptOp (i : Instr) : M Unit := insn i noShape (trap 4 0)

/-- PLD (R172). -/
def pldOp (i : Instr) : M Unit :=
  insn i { c := 0 } (do
    let v ← fetch { c := 0 } .int
    trapIf ((v.a 0).poison || (v.b 0).poison) 0x11 1
    let c ← core
    let s ← get
    let ctx := s.ctxOf (← unit)
    let owner := (s.core c).bcsOwner
    trapIf (owner.isSome && owner != some ctx) 0x24 9
    let off := (v.a 0).bits.toNat % 2 ^ 32 + (v.b 0).bits.toNat % 2 ^ 32
    if off % 4 ≠ 0 then stopTrap { tinfo 0x23 1 with loc := BitVec.ofNat 64 off }
    if off + 4 > 16384 then stopTrap { tinfo 0x20 0x11 with loc := BitVec.ofNat 64 off }
    let x := s.readStore (Loc.bcs c off).key 4
    writeD 1 (fun _ => if owner.isNone then Val.zero else ⟨BitVec.ofNat 64 x.1, x.2⟩))

/-! ### Acquire -/

/-- What an acquire at a scope does to its core: the access side at team scope or wider invalidates its core's L1 (R158, R235). -/
def renewL1 (scope : Nat) : M Unit := do
  match ← unit with
  | .ap _ _ =>
    let c ← core
    if scope ≥ 1 then modify (fun s => s.invalL1 c) else pure ()
  | _ => pure ()

/-- Whether no earlier load or atomic of a unit is on its way. -/
def State.loadsDone (s : State) (u : Agent) : Bool :=
  s.reqs.all (fun q => q.2.owner != .unit u || !q.2.open || !q.2.loads)

/-- An acquire built into an instruction: no later access is performed before an earlier load or atomic of the unit (R228 case 5, R233,
R235). -/
def acquire (scope : Nat) : M Unit := do
  waitUnless ((← get).loadsDone (← unit)) (.counters 0x7F true)
  renewL1 scope

/-- A release: the unit's earlier accesses are performed first (R228 case 5, R233, R235). -/
def release : M Unit := do
  awaitStores
  let u ← unit
  let s ← get
  waitUnless (s.reqs.all (fun q => q.2.owner != .unit u || !q.2.open)) (.counters 0x7F true)

/-! ### Handles of two widths -/

/-- Registers of a field of a handle's element width on the execute side (R37, R165). -/
def ewFields (h : Handle) : Nat := if Hnd.ew h = 3 then 2 else 1

/-- Fields that are pairs under a 64-bit handle name even g registers, k0 or ports, else ILLEGAL 0x05 (R165). -/
def checkPairs (h : Handle) (fs : List Field) : M Unit := do
  match ← unit with
  | .ex _ _ =>
    trapIf (Hnd.ew h == 3 && Hnd.space h != 7 && fs.any (fun f => match f with
      | .reg n _ => !pairName n
      | _ => false)) 1 5
  | _ => pure ()

/-- The comparison of WAITW (R311). -/
def waitCmp (code w a v : Nat) : Bool :=
  match code with
  | 0 => a == v
  | 1 => a != v
  | 2 => decide (v ≤ a)
  | 3 => decide (a < v)
  | _ => decide (0 ≤ sext (wrapN ((a : Int) - v) w) w)

/-- A 64-bit semaphore of a context (R326). -/
def State.sem (s : State) (ctx i : Nat) : W64 := (s.context ctx).sems.get i 0

/-- The lanes of an access-side instruction that executes once. -/
def onceLane : M (List Nat) := do pure [lowLane (← lanes)]

/-- WAITW (R311): loads until the comparison holds, then acquires. -/
def waitwOp : M Unit := do
  let o ← ops
  let h := (← get).handleOf (← unit) o.x8.toNat
  let w := ewFields h
  let sh : Shape := { d := w, a := w, c := 0 }
  insn .waitw sh (do
    checkPairs h [o.d, o.a]
    let v ← fetch sh .offset
    let l ← onceLane
    let m := lowLane (← lanes)
    condPoison (v.a m)
    let size := 2 ^ Hnd.ew h
    let rs ← accesses { hidx := o.x8.toNat, spaces := [0, 1, 4], kinds := [0, 1], widths := [2, 3], size, align := size,
                        need := .rd, sem := Hnd.ew h == 3 } v l false false false
    match rs with
    | (_, a) :: _ =>
      let s ← get
      let u ← unit
      let x ← (if a.space = 0 ∧ semBase ≤ a.loc then pure (Val.of (s.sem (s.ctxOf u) ((a.loc - semBase) / 8)))
               else do doNow (s.reqOf u a .load (← here) 255 .none))
      condPoison x
      let imm := o.c.immVal
      let mask := 2 ^ (8 * size)
      waitUnless (waitCmp (imm / 8 % 8) (8 * size) (x.bits.toNat % mask) ((v.a m).bits.toNat % mask)) (.word (s.now + 4096))
      acquire (imm % 8)
      writeD w (fun _ => x)
    | [] => pure ())

/-- The fields of CALL: c is the link register it writes (R307). -/
def linkShape : Shape := { d := 0, a := 0, b := 0, pops := false, cDst := true }

/-- The link write waits for a status word still to land in its register (R44); an execute thread's write is renamed. -/
def awaitLink : M Unit := do
  match ← unit with
  | .ex _ _ => pure ()
  | _ => awaitRegs [((← ops).c, 1)]

/-- CALL (R307). -/
def callOp : M Unit :=
  insn .call linkShape (do
    let link ← codeOffset (← ctl).pc
    let t ← offsetTarget
    awaitLink
    writeF (← ops).c 1 (fun _ => Val.of (BitVec.ofNat 64 link))
    jump t)

/-- BEOS (R214). -/
def beosOp : M Unit :=
  insn .beos noShape (do
    let o ← ops
    let x ← exThread
    if x.eos.getLsbD ((portOf o.a).getD 0) then jump (← offsetTarget) else pure ())

/-- TRAP (R396). -/
def trapOp : M Unit :=
  insn .trap { d := 0, b := 0, c := 0 } (do
    let v ← fetch { d := 0, b := 0, c := 0 } .int
    let x := v.a (lowLane (← lanes))
    stopTrap { tinfo 5 (← ops).x8.toNat with value := if x.poison then 0 else x.bits, vpois := x.poison })

/-- SLEEP (R309). -/
def sleepOp : M Unit :=
  insn .sleep { d := 0, a := 0, c := 0 } (do
    let v ← fetch { d := 0, a := 0, c := 0 } .int
    let x := v.b (lowLane (← lanes))
    let n := if x.poison then 0 else x.bits.toNat % 2 ^ 20
    let now := (← get).now
    if n = 0 then pure () else modCtl (fun c => { c with status := .sleeping (now + n) }))

/-- MEETR (R310). -/
def meetrOp : M Unit :=
  insn .meetr { d := 0, b := 2, c := 0 } (do
    let v ← fetch { d := 0, b := 2, c := 0 } .int
    let t := (v.a 0).w32
    let bad := (v.a 0).poison || (v.b 0).poison
    if !bad && t != 0xFFFFFFFF#32 then trapIf (t.toNat % 4 != 0) 0x23 2
    match ← unit with
    | .ex tm tid => modify (fun s => s.modEx tm tid (fun x =>
        { x with meet := if bad || t == 0xFFFFFFFF#32 then none else some (t, (v.b 0).bits) }))
    | _ => pure ())

/-- The beat periods of length p that have ended are counted: a period without a HEART is missed, and four in a row hang the
team (R349). -/
def Team.endPeriods (t : Team) (p : Nat) : Team :=
  let k := t.active / p
  if k = 0 then t
  else
    let m := (if t.beaten then 0 else t.missed + 1) + (k - 1)
    { t with active := t.active % p, beaten := false, missed := m, hung := t.hung || decide (4 ≤ m) }

/-- HEART (R351): a beat in the current period. -/
def heartOp : M Unit :=
  insn .heart noShape (do
    match ← unit with
    | .ex tm _ =>
      modify (fun s => s.modTeam tm (fun t => { t.endPeriods (LRec.beat (s.recordOf t)) with beaten := true }))
    | _ => pure ())

/-! ### Meanings -/

/-- BRA (R306). -/
def execBra (s : State) : Host.Outcome State Fault Refusal := meaning (braOp .bra) s

/-- BRA_LONG (R306). -/
def execBraLong (s : State) : Host.Outcome State Fault Refusal := meaning (braOp .braLong) s

/-- BRX (R306). -/
def execBrx (s : State) : Host.Outcome State Fault Refusal := meaning (brxOp .brx) s

/-- BRX_LONG (R306). -/
def execBrxLong (s : State) : Host.Outcome State Fault Refusal := meaning (brxOp .brxLong) s

/-- RET (R306). -/
def execRet (s : State) : Host.Outcome State Fault Refusal := meaning (retOp .ret) s

/-- RET_LONG (R306). -/
def execRetLong (s : State) : Host.Outcome State Fault Refusal := meaning (retOp .retLong) s

/-- EXIT (R308). -/
def execExit (s : State) : Host.Outcome State Fault Refusal := meaning (exitOp .exit) s

/-- EXIT_LONG (R308). -/
def execExitLong (s : State) : Host.Outcome State Fault Refusal := meaning (exitOp .exitLong) s

/-- YIELD (R309). -/
def execYield (s : State) : Host.Outcome State Fault Refusal := meaning (yieldOp .yield) s

/-- YIELD_LONG (R309). -/
def execYieldLong (s : State) : Host.Outcome State Fault Refusal := meaning (yieldOp .yieldLong) s

/-- MEET (R310). -/
def execMeet (s : State) : Host.Outcome State Fault Refusal := meaning (meetOp .meet) s

/-- MEET_LONG (R310). -/
def execMeetLong (s : State) : Host.Outcome State Fault Refusal := meaning (meetOp .meetLong) s

/-- NOP (R309). -/
def execNop (s : State) : Host.Outcome State Fault Refusal := meaning (nopOp .nop) s

/-- NOP_LONG (R309). -/
def execNopLong (s : State) : Host.Outcome State Fault Refusal := meaning (nopOp .nopLong) s

/-- BKPT (R397). -/
def execBkpt (s : State) : Host.Outcome State Fault Refusal := meaning (bkptOp .bkpt) s

/-- BKPT_LONG (R397). -/
def execBkptLong (s : State) : Host.Outcome State Fault Refusal := meaning (bkptOp .bkptLong) s

/-- PLD (R172). -/
def execPld (s : State) : Host.Outcome State Fault Refusal := meaning (pldOp .pld) s

/-- PLD_LONG (R172). -/
def execPldLong (s : State) : Host.Outcome State Fault Refusal := meaning (pldOp .pldLong) s

/-- CALL (R307). -/
def execCall (s : State) : Host.Outcome State Fault Refusal := meaning (callOp) s

/-- BEOS (R214). -/
def execBeos (s : State) : Host.Outcome State Fault Refusal := meaning (beosOp) s

/-- TRAP (R396). -/
def execTrap (s : State) : Host.Outcome State Fault Refusal := meaning (trapOp) s

/-- WAITW (R311). -/
def execWaitw (s : State) : Host.Outcome State Fault Refusal := meaning (waitwOp) s

/-- SLEEP (R309). -/
def execSleep (s : State) : Host.Outcome State Fault Refusal := meaning (sleepOp) s

/-- MEETR (R310). -/
def execMeetr (s : State) : Host.Outcome State Fault Refusal := meaning (meetrOp) s

/-- HEART (R351). -/
def execHeart (s : State) : Host.Outcome State Fault Refusal := meaning (heartOp) s

end Sys2Proof.Machine
end

