-- ==== Sys2Proof/Machine/Loads.lean ====
section
/-! DEFINITION. The load, store and atomic instructions through handles (R163-R171). -/

namespace Sys2Proof.Machine

/-- Kinds of R163: plain, flat, tile, shadow pair. -/
def kPlain : List Nat := [0]
def kFlat : List Nat := [0, 1]
def kTile : List Nat := [0, 1, 2]
def kRead : List Nat := [0, 1, 2, 3]

/-- Whether an access-side field makes an instruction a vector instruction (R164, R82). -/
def isVec (f : Field) : Bool :=
  match f with
  | .reg (.a _) _ | .reg (.q _) _ => true
  | _ => false

/-- The lanes an instruction's access is made for, and whether it is a vector: each active lane, or once (R164). -/
def accLanes (vec : Bool) : M (List Nat × Bool) := do
  match ← unit with
  | .ap _ _ =>
    let act ← lanes
    pure (if vec then (laneList act, true) else ([lowLane act], false))
  | _ => pure ([0], false)

/-- The lane a record names: 255 for none. -/
def recLane (vec : Bool) (l : Nat) : Nat := if vec then l else 255

/-- An access-side instruction that waits until every active lane has completed or failed (R161). First it sends its requests
and waits with nothing else done; once every lane is answered it is executed again and traps for the lowest lane that failed,
or ends with the lanes' values. -/
def blockOp (i : Instr) (sh : Shape) (start : M (List (Nat × Req))) (fin : (Nat → Val) → M Unit) : M Unit := do
  let s0 ← get
  insn i sh (do
    match (← apThread).blk with
    | some b => do
      let _ ← fetch sh .offset
      let ls := b.lanes
      ls.forM (fun x => match x.2 with
        | some (.error t) => stopTrap t
        | _ => pure ())
      (match ← unit with
        | .ap tm sp => modify (fun s => s.modAp tm sp (fun x => { x with blk := none }))
        | _ => pure ())
      fin (fun l => match ls.find l with
        | some (some (.ok v)) => v
        | _ => Val.zero)
    | none => do
      let rs ← start
      awaitReplies (rs.filter (fun r => r.2.once)).length
      let o ← ops
      match ← unit with
      | .ap tm sp =>
        let s := rs.foldl (fun s (r : Nat × Req) =>
          { s.inject s.fresh { r.2 with landing := .block tm sp r.1 } with fresh := s.fresh + 1 }) s0
        set ((s.modAp tm sp (fun x => { x with blk := some ⟨⟨i, o⟩, rs.map (fun r => (r.1, none))⟩ })).setWait (.ap tm sp) .mem)
      | _ => pure ())

/-- The requests of an access for its lanes. -/
def reqs (rs : List (Nat × Acc)) (vec : Bool) (kind : Nat → ReqKind) : M (List (Nat × Req)) := do
  let s ← get
  let u ← unit
  let a ← here
  pure (rs.map (fun x => (x.1, s.reqOf u x.2 (kind x.1) a (recLane vec x.1) .none)))

/-- A value loaded through a handle, as its destination receives it (R165): the compact forms zero-extend. -/
def loaded (h : Handle) (ew : Bool) (size n : Nat) (v : Val) : Val :=
  { v with bits := BitVec.ofNat 64 (extendTo (ew && Hnd.sx h) size v.bits.toNat n) }

/-- An operation on a core's store that returns a value to an execute thread. Its own core performs it at once; a peer core
answers later, into the registers the write allocates now (R298). A port destination holds the thread until the value is
known (R185): here it is known as soon as the earlier accesses allow it. -/
def exValue (h : Handle) (ew : Bool) (w : Nat) (r : Req) : M Unit := do
  let o ← ops
  let s ← get
  let n := if w = 2 then 64 else 32
  match ← unit with
  | .ex tm tid =>
    if s.ownStore r ∨ (portOf o.d).isSome then
      let v ← doOwn r
      writeD w (fun _ => loaded h ew r.size n v)
    else
      match o.d with
      | .reg (.g g) _ =>
        awaitReplies (if r.once then 1 else 0)
        let ws := if w = 2 then [(g.val, (0 : W32)), (g.val + 1, 0)] else [(g.val, 0)]
        let ids ← writeRegs tm tid ws false true
        let k ← freshId
        modify (fun s => s.inject k { r with landing := .sreg tm (tid / 16) (tid % 16) (ids.getD 0 0) ids[1]? })
      | _ => pure ()
  | _ => pure ()

/-- LDS.W, LDS.D and LDS (R163-R165): size none takes the handle's element width. -/
def ldsOp (i : Instr) (size? : Option Nat) (spE spA kinds : List Nat) : M Unit := do
  let o ← ops
  let u ← unit
  let h := (← get).handleOf u o.x8.toNat
  let ew := size?.isNone
  let size := size?.getD (2 ^ Hnd.ew h)
  let w := if size = 8 then 2 else 1
  let sh : Shape := { d := w, a := 0, b := 1, c := if ew then 1 else 0 }
  let want : Want := { hidx := o.x8.toNat, spaces := if sideOf u = .exec then spE else spA, kinds, size, align := size,
                       need := .rd }
  match u with
  | .ap _ _ =>
    let local' : Bool := !(globalSpace (Hnd.space h) || Hnd.space h == 2)
    if local' then
      insn i sh (do
        let v ← fetch sh .offset
        let (ls, vec) ← accLanes (isVec o.d)
        let rs ← accesses want v ls vec false ew
        let xs ← (← reqs rs vec (fun _ => .load)).mapM (fun r => do pure (r.1, ← doOwn r.2))
        writeD w (fun l => loaded h ew size 64 ((xs.find? (fun x => x.1 == l)).elim Val.zero (·.2))))
    else
      blockOp i sh (do
        let v ← fetch sh .offset
        let (ls, vec) ← accLanes (isVec o.d)
        reqs (← accesses want v ls vec false ew) vec (fun _ => .load))
        (fun x => writeD w (fun l => loaded h ew size 64 (x l)))
  | _ =>
    insn i sh (do
      (if ew then checkPairs h [o.d] else pure ())
      let v ← fetch sh .offset
      let rs ← reqs (← accesses want v [0] false false ew) false (fun _ => .load)
      match rs with
      | (_, r) :: _ => exValue h ew w r
      | [] => pure ())

/-- STS.W, STS.D, STS and REDS (R163-R165, R171): into the store buffer. -/
def stsOp (i : Instr) (size? : Option Nat) (spE spA kinds widths : List Nat) (need : Need)
    (kind : Nat → Nat → W64 → ReqKind) : M Unit := do
  let o ← ops
  let u ← unit
  let h := (← get).handleOf u o.x8.toNat
  let ew := size?.isNone
  let size := size?.getD (2 ^ Hnd.ew h)
  let sh : Shape := { d := 0, a := if size = 8 then 2 else 1, b := 1, c := if ew then 1 else 0 }
  insn i sh (do
    (if ew then checkPairs h [o.a] else pure ())
    let v ← fetch sh .offset
    let (ls, vec) ← accLanes (isVec o.a || isVec o.b)
    let rs ← accesses { hidx := o.x8.toNat, spaces := if sideOf u = .exec then spE else spA, kinds, widths, size,
                        align := size, need } v ls vec true ew
    let qs ← reqs rs vec (fun l => kind size o.sel.toNat (v.a l).bits)
    qs.forM (fun q => buffer q.2))

/-- The data of a store: the low bits of its operand (R165). -/
def storeKind (size _op : Nat) (v : W64) : ReqKind := .store (v.toNat % 2 ^ (8 * size)) false

/-- A reduction (R171). -/
def redKind (size op : Nat) (v : W64) : ReqKind := .atomic op (8 * size) v 0 false

/-- The value of the destination before the instruction, the compare value of CAS (R170). -/
def readDest (w : Nat) : M Lanes := do
  let o ← ops
  awaitRegs [(o.d, w)]
  readField1 o.d w .int []

/-- ATOMS (R170). -/
def atomsOp : M Unit := do
  let o ← ops
  let u ← unit
  let h := (← get).handleOf u o.x8.toNat
  let size := 2 ^ Hnd.ew h
  let w := ewFields h
  let sh : Shape := { d := w, a := w, b := 1, c := 1 }
  let cas := o.sel.toNat == 9
  let want : Want := { hidx := o.x8.toNat, spaces := if sideOf u = .exec then [1, 2] else [0, 1, 2], kinds := kFlat,
                       widths := [2, 3], size, align := size, need := .both }
  let start : M (List (Nat × Req)) := do
    let c ← (if cas then readDest w else pure (fun _ => Val.zero))
    let v ← fetch sh .offset
    let (ls, vec) ← accLanes (isVec o.d)
    let v := { v with a := fun l => { v.a l with poison := (v.a l).poison || (c l).poison } }
    let rs ← accesses want v ls vec true true
    reqs rs vec (fun l => .atomic o.sel.toNat (8 * size) (v.a l).bits (c l).bits true)
  match u with
  | .ap _ _ =>
    if globalSpace (Hnd.space h) ∨ Hnd.space h = 2 then
      blockOp .atoms sh start (fun x => writeD w (fun l => loaded h true size 64 (x l)))
    else
      insn .atoms sh (do
        let xs ← (← start).mapM (fun r => do pure (r.1, ← doOwn r.2))
        writeD w (fun l => loaded h true size 64 ((xs.find? (fun x => x.1 == l)).elim Val.zero (·.2))))
  | _ =>
    insn .atoms sh (do
      checkPairs h [o.d, o.a]
      match ← start with
      | (_, r) :: _ => exValue h true w r
      | [] => pure ())

/-! ### Meanings -/

/-- LDS.W (R167). -/
def execLdsW (s : State) : Host.Outcome State Fault Refusal := meaning (ldsOp .ldsW (some 4) [1] [1] kPlain) s

/-- LDS.W in a longer form (R167). -/
def execLdsWLong (s : State) : Host.Outcome State Fault Refusal := meaning (ldsOp .ldsWLong (some 4) [1] [1] kPlain) s

/-- STS.W (R167). -/
def execStsW (s : State) : Host.Outcome State Fault Refusal :=
  meaning (stsOp .stsW (some 4) [1] [1] kPlain [0, 1, 2, 3] .wr storeKind) s

/-- STS.W in a longer form (R167). -/
def execStsWLong (s : State) : Host.Outcome State Fault Refusal :=
  meaning (stsOp .stsWLong (some 4) [1] [1] kPlain [0, 1, 2, 3] .wr storeKind) s

/-- LDS.D (R167). -/
def execLdsD (s : State) : Host.Outcome State Fault Refusal := meaning (ldsOp .ldsD (some 8) [1] [1] kPlain) s

/-- LDS.D in a longer form (R167). -/
def execLdsDLong (s : State) : Host.Outcome State Fault Refusal := meaning (ldsOp .ldsDLong (some 8) [1] [1] kPlain) s

/-- STS.D (R167). -/
def execStsD (s : State) : Host.Outcome State Fault Refusal :=
  meaning (stsOp .stsD (some 8) [1] [1] kPlain [0, 1, 2, 3] .wr storeKind) s

/-- STS.D in a longer form (R167). -/
def execStsDLong (s : State) : Host.Outcome State Fault Refusal :=
  meaning (stsOp .stsDLong (some 8) [1] [1] kPlain [0, 1, 2, 3] .wr storeKind) s

/-- LDS (R168). -/
def execLds (s : State) : Host.Outcome State Fault Refusal := meaning (ldsOp .lds none [1, 2, 3] [0, 1, 2, 4] kRead) s

/-- STS (R168). -/
def execSts (s : State) : Host.Outcome State Fault Refusal :=
  meaning (stsOp .sts none [1, 2, 3] [0, 1, 2, 4] kTile [0, 1, 2, 3] .wr storeKind) s

/-- ATOMS (R170). -/
def execAtoms (s : State) : Host.Outcome State Fault Refusal := meaning atomsOp s

/-- REDS (R171). -/
def execReds (s : State) : Host.Outcome State Fault Refusal :=
  meaning (stsOp .reds none [1, 2] [0, 1, 2] kFlat [2, 3] .both redKind) s

end Sys2Proof.Machine
end

