-- ==== Sys2Proof/Machine/Remote.lean ====
section
/-! DEFINITION. Peer memory: requests of other devices served here (R256, R257, R367), requests sent to peer devices (R259,
R266, R269-R274), and their answers. -/

namespace Sys2Proof.Machine

/-- REMOTE failures (R266). -/
def remoteFail (sub : Nat) : TrapInfo := tinfo 0x50 sub

namespace Export
/-- Fields of an export entry (R367). -/
def v (e : BitVec 128) : Bool := e.getLsbD 31
def rdev (e : BitVec 128) : Nat := fld e 43 32
def wr (e : BitVec 128) : Bool := e.getLsbD 44
def fctx (e : BitVec 128) : Nat := fld e 52 45
def iabase (e : BitVec 128) : Nat := fld e 30 0 * 2 ^ 21
def iaend (e : BitVec 128) : Nat := fld e 94 64 * 2 ^ 21
end Export

/-- Whether a remote request writes. -/
def remoteWrites : RemoteKind → Bool
  | .load => false
  | _ => true

/-- Whether an export entry admits a request (R367). -/
def Export.admits (e : BitVec 128) (p : Packet) : Bool :=
  Export.v e && Export.rdev e == p.src && decide (Export.iabase e ≤ p.ia ∧ p.ia + p.size ≤ Export.iaend e) &&
    (!remoteWrites p.kind || Export.wr e)

/-- The partition and fault context that a request is admitted to (R256, R367). -/
def State.admitOf (s : State) (p : Packet) : Option (Nat × Partition × Nat) :=
  s.parts.findSome? (fun q => (q.2.exports.find? (fun e => Export.admits e p)).map (fun e => (q.1, q.2, Export.fctx e)))

/-- The windows that a packet asks to be exported, each as a packet of its own: the two of a shadow pair range by range (R247, R259). -/
def packetWindows (p : Packet) : List Packet :=
  match p.kind with
  | .pair _ t d => (t ++ d).map (fun x => { p with ia := x.1, size := x.2 - x.1 })
  | _ => [p]

/-- The partition and fault context to which every window of a packet is admitted: one partition for all. -/
def State.admitAll (s : State) (p : Packet) : Option (Nat × Partition × Nat) :=
  match (packetWindows p).map s.admitOf with
  | some q :: rest => if rest.all (fun x => x.elim false (fun y => y.1 == q.1)) then some q else none
  | _ => none

/-- A packet as a request at this memory side. Its leaf must be local: it takes the class of space 0. -/
def reqOfPacket (p : Packet) (fctx : Nat) : Req :=
  { owner := .eng 0, ctx := fctx, core := 0, sgen := 0, space := 0, handle := 0, order := 0, cache := 0, loc := p.ia,
    size := p.size, ia := p.ia, host := false, peer := false, ptag := p.ptag,
    kind := match p.kind with
      | .load => .load
      | .store d po => .store d po
      | .atomic op w v c => .atomic op w v c true
      | .pair publ t d => .pair publ t d,
    cls := 1, attr := some 0, gen := 0, iaddr := 0, lane := 255, rst := false, tagen := false, issue := 0, landing := .none, pusher := [],
    phase := .walking }

/-- How a request stands once its answer has come: a load takes its owner's buffered bytes (R230), a failure names handle and lane
(R384). -/
def State.answered (s : State) (rid : Nat) (r : Req) (res : RemoteResult) : Phase :=
  match res with
  | .ok d po =>
    if r.loads && !r.writes then (let v := s.forward rid r (d, po); .done v.1 v.2) else .done d po
  | .fail code sub loc => .failed { code, sub, handle := BitVec.ofNat 8 r.handle, loc := BitVec.ofNat 64 loc, lane := r.laneNo }

/-- The answer to a remote request reaches its requester: here, when this device sent it (R259), else over the fabric. One that has failed
meanwhile discards it (R266). -/
def State.answer (s : State) (p : Packet) (res : RemoteResult) : State :=
  if s.isSelf p.src then { s with reqs := s.reqs.alter p.rid (fun r => match r.phase with
    | .remote _ _ _ _ | .remoteParked _ _ _ => { r with phase := s.answered p.rid r res }
    | _ => r) }
  else s.replyTo p.src p.ia p.thread (.reply p.src p.rid res)

/-- A park notice to the requester (R257). -/
def State.notice (s : State) (p : Packet) : State :=
  if s.isSelf p.src then
    { s with reqs := s.reqs.alter p.rid (fun r => match r.phase with
        | .remote dev ia _ l => { r with phase := .remoteParked dev ia l }
        | _ => r) }
  else s.replyTo p.src p.ia p.thread (.parked p.src p.rid)

/-- Whether another part of the same 64-byte request of this device is parked here on a page (R14, R152, R259): the lanes of one
instruction that touch one line make one request. -/
def State.countedHere (s : State) (p : Packet) (page : Nat) : Bool :=
  s.isSelf p.src && s.inbound.any (fun i => s.isSelf i.pkt.src && i.page == some page && i.pkt.ia / 64 == p.ia / 64 &&
    match s.reqs.find i.pkt.rid, s.reqs.find p.rid with
    | some q, some r => q.owner == r.owner && q.issue == r.issue
    | _, _ => false)

/-- A failure as a reply carries it. -/
def failReply (t : TrapInfo) (loc : Nat) : RemoteResult := .fail t.code t.sub loc

/-- A remote request at its target (R256): refused, performed, or parked with a record and, unless the requester has had one, a notice
(R257). A publish operation waits here for its turn at the publish table (R247, R248). -/
def State.serveRemote (s : State) (p : Packet) (again : Bool) : State :=
  if !s.mgmt.fidSet then s.answer p (failReply (remoteFail 4) p.ia)
  else match s.admitAll p, p.kind with
    | none, _ => s.answer p (failReply (remoteFail 3) p.ia)
    | some (pi, _, fctx), .pair _ _ _ => { s with inbound := s.inbound ++ [⟨p, pi, fctx, none⟩] }
    | some (pi, part, fctx), _ =>
      let r := reqOfPacket p fctx
      match s.serve pi part (s.walk part p.ia) r with
      | .ok v po t => t.answer p (.ok v po)
      | .fail t => s.answer p (failReply t t.loc.toNat)
      | .park page cause sz =>
        let t := if s.countedHere p page then s else s.noteFault fctx page cause (sizeCode sz) (remoteWrites p.kind)
        let t := { t with inbound := s.inbound ++ [⟨p, pi, fctx, some page⟩] }
        if again then t else t.notice p
      | .peer _ _ _ => s.answer p (failReply (prot 4) p.ia)
      | .busy | .snoop => { s with inbound := s.inbound ++ [⟨p, pi, fctx, none⟩] }

/-- The thread number a request is hashed under (R271). -/
def ownerNo : Owner → Nat
  | .unit u => agentNo u
  | .pat k => 3 * k + 1
  | .eng n => n

/-- What a request asks of a peer. -/
def remoteKind : ReqKind → RemoteKind
  | .store d p => .store d p
  | .atomic op w v c _ => .atomic op w v c
  | .pair publ t d => .pair publ t d
  | _ => .load

/-- Clocks after which a remote request without an answer fails (R266). -/
def remoteLimit : Nat := 4194304

/-- A request that left by a link which now leaves service: it holds back later ones to its line until it is answered or fails, also once
the link is in service again (R271). -/
def Req.hopLost (n : Nat) (r : Req) : Req :=
  match r.phase with
  | .remote d i t l => if l = n then { r with phase := .remote d i t (n + 32) } else r
  | .remoteParked d i l => if l = n then { r with phase := .remoteParked d i (n + 32) } else r
  | _ => r

/-- Whether a request to the same line, whoever made it, left by a link that has left service since, and has had no answer (R271). -/
def State.lineHeld (s : State) (dev ia : Nat) : Bool :=
  s.reqs.any (fun q => match q.2.phase with
    | .remote d i _ l | .remoteParked d i l => d == dev && i / 64 == ia / 64 && decide (32 ≤ l)
    | _ => false)

/-- The record of a transport context of the scale-out endpoint, when it is valid (R418): the table is, and the record's valid bit. -/
def State.transport (s : State) (u : Nat) : Option Nat :=
  let b := (s.eth.get 0 0).toNat
  let ia := b / 2 ^ 12 % 2 ^ 40 * 2 ^ 12 + 32 * u
  if !bit b 0 then none
  else match s.parts.find? (fun p => p.2.inIA ia (ia + 32)) with
    | none => none
    | some (_, p) => match s.walk p ia with
      | .leaf e sz =>
        let v := (s.readL2 ia 32 ⟨e, Leaf.frame e + ia % 2 ^ sz, sz, p.sliceOf ia, 2⟩).1.1
        if Leaf.cls e = 0 ∧ Leaf.state e = 0 ∧ bit v 168 then some v else none
      | _ => none

/-- An RMA as it leaves under a transport context's record: to its address and job, under its congestion profile (R418). -/
def State.rmaOf (s : State) (p : Packet) (uctx ports rec : Nat) : Outgoing :=
  .rma p uctx ports (BitVec.ofNat 128 (bits rec 127 0)) (BitVec.ofNat 32 (bits rec 159 128)) (s.eth.get (0x100 + 8 * bits rec 164 160) 0)

/-- Operations outstanding at the scale-out endpoint, parked at their target or not (R273). -/
def State.etherOpen (s : State) : Nat :=
  (s.reqs.filter (fun q => match q.2.phase with
    | .remote d _ _ 16 | .remoteParked d _ 16 => !s.isSelf d
    | _ => false)).length

/-- Whether a request is of an instruction that reaches a scale-out device: a load or store of the access side, a load of a pattern
engine, an element of a COPY; no atomic, and nothing through a handle with tagen (R273). -/
def State.carried (s : State) (r : Req) : Bool :=
  !r.tagen && (match r.kind with | .atomic _ _ _ _ _ => false | _ => true) &&
    match r.owner with
    | .unit _ => true
    | .pat _ => !r.writes
    | .eng id => (s.copies.find id).elim false (fun c => !c.seed)

/-- A request goes to its peer (R256, R259, R268, R273); none while it is held. Its 4,194,304 clocks count from here (R266; DESIGN CHOICE,
entry 59). Through the scale-out endpoint, its transport context is
asked for first (R418); DEDUCED, entry 55: an entry that allows no Ethernet port then gives no route. -/
def State.sendRemote (s : State) (n : Nat) (r : Req) (dev ia : Nat) : Option State :=
  let pkt : Packet := ⟨s.mgmt.fid, n, 0, dev, ia, r.size, remoteKind r.kind, r.ptag, ownerNo r.owner⟩
  let setPhase (t : State) (link : Nat) : State :=
    { t with reqs := t.reqs.put n { r with phase := .remote dev ia (s.now + remoteLimit) link } }
  let fail (sub : Nat) : State :=
    { s with reqs := s.reqs.put n { r with phase := .failed { remoteFail sub with
        handle := BitVec.ofNat 8 r.handle, loc := BitVec.ofNat 64 ia, lane := r.laneNo } } }
  if !s.mgmt.fidSet then none
  else if s.isSelf dev then some ((setPhase s 16).serveRemote pkt false)
  else if s.lineHeld dev ia then none
  else match s.route pkt with
    | .link l => some ((setPhase s l).sendLink l clsRequest 0 (.request pkt))
    | .ether u ports =>
      if !s.carried r then some (fail 5)
      else match s.transport u with
        | none => some (fail 6)
        | some rec =>
          if ports = 0 then some (fail 1)
          else if 65536 ≤ s.etherOpen then none
          else some { setPhase s 16 with out := s.rmaOf pkt u ports rec :: s.out }
    | .none => some (fail 1)

/-- A peer line held by the L2 under a leaf (R151, R157, R258): the whole of a load without a pointer tag, when every sector is there. A
load that carries a tag is checked at the peer (R156). -/
def State.peerHit (s : State) (r : Req) (leaf : Nat) : Option (Nat × Bool) :=
  if r.ptag == none && (sectorParts r.ia r.size).all (fun q => (s.l2.find ((r.ia + q.1) / 32)).any (fun x => x.leaf == leaf)) then
    some ((s.readLocal r.ia r.size ⟨leaf, 0, 0, 0, 2⟩).1)
  else none

/-- Whole sectors of a peer line that a load brought are kept where the leaf lets them be (R258). Of two sectors a poisoned answer does not
tell which is, so neither is kept: what is kept reads as its peer would answer (R159). -/
def State.peerFill (s : State) (r : Req) (slice leaf page d : Nat) (po : Bool) : State :=
  if r.size % 32 = 0 ∧ r.ia % 32 = 0 ∧ r.cache ≠ 2 ∧ ¬(po ∧ r.size ≠ 32) then
    (List.range (r.size / 32)).foldl (fun s i =>
      let x : L2Sector := { data := BitVec.ofNat 256 (d / 2 ^ (256 * i)), poison := po, dirty := false, host := false, frame := 0,
                            key := 0, slice, leaf, page }
      s.l2Keep (r.ia / 32 + i) x ⟨leaf, 0, page, slice, r.cache⟩) (s.l2Fit r.ia ⟨leaf, 0, page, slice, r.cache⟩)
  else s

end Sys2Proof.Machine
end

