-- ==== Sys2Proof/Machine/Pipeline.lean ====
section
/-! DEFINITION. The way of a request: slice (R378), walk (R148-R153), reply and its landing (R161, R196, R231, R401), and the
events that carry it. -/

namespace Sys2Proof.Machine

/-! ### Landing -/

/-- What a failed load leaves in a port's slot (R192, R193). -/
def tokenOf (t : TrapInfo) : Token := ⟨t.code, t.sub, t.handle, t.loc⟩

/-- One lane of a blocked access thread is answered; with the last the thread is ready to end its instruction (R161). -/
def State.answerLane (s : State) (tm sp lane : Nat) (x : Except TrapInfo Val) : State :=
  s.modAp tm sp (fun a =>
    match a.blk with
    | none => a
    | some b =>
      let ls := b.lanes.put lane (some x)
      let ready := ls.all (fun q => q.2.isSome)
      { a with blk := some { b with lanes := ls },
               ctl := if ready then { a.ctl with status := .ready, readySince := s.now } else a.ctl })

/-- A whole line in a port's row: lane l receives bytes 4l to 4l + 3 (R175), or the token in every lane (R192). -/
def lineSlots (x : Except TrapInfo Val) (data : Nat) : List Slot :=
  (List.range 16).map (fun l =>
    match x with
    | .ok v => .data (BitVec.ofNat 512 (data / 2 ^ (32 * l) % 2 ^ 32)) v.poison
    | .error t => .token (tokenOf t))

/-- A row of a port replaced whole; one that has retired takes nothing. -/
def Port.setRow (p : Port) (k : Nat) (r : List Slot) : Port := if k < p.head then p else { p with rows := p.rows.modify (k - p.head) (fun _ => r) }

/-- The stream of a pattern port ends when the row of its engine's last step is delivered (R188): the engine runs until then. -/
def Port.ended (p : Port) : Port :=
  match p.engine with
  | none => p
  | some e =>
    let k := e.base + e.total
    if p.kind = .pat ∧ e.running ∧ e.step = e.total ∧ (List.range 16).all (fun l => (p.slot (k - 1) l).delivered) then
      { p with fin := some k, engine := some { e with running := false } }
    else p

/-- A value or failure reaches its landing place. data is the whole of a line. -/
def State.land (s : State) (r : Req) (x : Except TrapInfo Val) (data : Nat) : State :=
  match r.landing with
  | .none | .push _ _ _ => s
  | .sreg tm sp lane lo hi =>
    match x with
    | .error _ => s
    | .ok v =>
      let h := match r.owner with
        | .unit u => s.handleOf u r.handle
        | _ => 0
      let y := heldVal (loaded h true r.size (if hi.isSome then 64 else 32) v)
      s.modStrip tm sp (fun t =>
        let t := t.land lo lane (loW y.bits) y.poison
        match hi with
        | some i => t.land i lane (hiW y.bits) y.poison
        | none => t)
  | .apS tm sp reg =>
    match x with
    | .error _ => s
    | .ok v => s.modAp tm sp (fun a => { a with s := a.s.set reg (v.bits, v.poison), spend := setBit16 a.spend reg false })
  | .block tm sp lane => s.answerLane tm sp lane x
  | .port key row lane =>
    s.modPort key (fun p => (p.setSlot row lane (match x with
      | .ok v => .data (BitVec.ofNat 512 data) v.poison
      | .error t => .token (tokenOf t))).ended)
  | .line key row => s.modPort key (fun p => (p.setRow row (lineSlots x data)).ended)
  | .qW n reg =>
    match x with
    | .error _ => s
    | .ok v => s.modEngine n (fun e => { e with w := e.w.set reg (v.bits, v.poison), wpend := setBit16 e.wpend reg false })

/-- The result of an instruction whose execute thread was held for it (R185): it is pushed and the thread goes on, or a poisoned one
traps there (R80). The thread found room for the row before it was held; a port unbound or ended meanwhile takes no push (R208, R188). -/
def State.pushHeld (s : State) (tm tid n : Nat) (v : W64) (poison : Bool) : State :=
  let u := Agent.ex tm tid
  let trap (t : TrapInfo) : State := s.takeTrap u t ((s.ctl u).elim 0 (·.len))
  match s.ports.find (portKey (stripKey tm (tid / 16)) n) with
  | none => trap (portTrap 1 n)
  | some p =>
    if poison then trap { tinfo 0x11 0 with port := some n }
    else if p.past (p.pos.getD (tid % 16) 0) then trap (portTrap 6 n)
    else (s.push tm tid n p v).finishEx tm tid

/-- A status word or count written where an asynchronous instruction's destination lies (R237). Its reader synchronises with the
completion (R241, R253), so on the access side the core's L1 is invalidated, as by an acquire (R158). -/
def State.landWord (s : State) (l : Landing) (v : W64) (poison : Bool) : State :=
  match l with
  | .sreg tm sp lane lo hi =>
    s.modStrip tm sp (fun t =>
      let t := t.land lo lane (loW v) poison
      match hi with
      | some i => t.land i lane (hiW v) poison
      | none => t)
  | .apS tm sp reg =>
    (s.seenBy (.ap tm sp)).modAp tm sp (fun a => { a with s := a.s.set reg (v, poison), spend := setBit16 a.spend reg false })
  | .qW n reg =>
    s.modEngine n (fun e => { e with w := e.w.set reg (v, poison), wpend := setBit16 e.wpend reg false })
  | .push tm tid n => s.pushHeld tm tid n v poison
  | _ => s

/-- Whether a slot holds a fault token. -/
def Slot.isToken : Slot → Bool
  | .token _ => true
  | _ => false

/-- Records of the token store that a row holds (R193): one for each slot with a token, but one alone for a line spread over its lanes,
which failed as a whole (R192). -/
def Port.rowTokens (p : Port) (r : List Slot) : Nat := p.asTokens (r.filter Slot.isToken).length

/-- Records of the token store of a core in use (R193). -/
def State.tokens (s : State) (core : Nat) : Nat :=
  (s.teams.filter (fun t => t.2.placed)).foldl (fun n t =>
    (List.range t.2.strips).foldl (fun n i =>
      if t.2.coreOf i = core then
        (s.portsOf (stripKey t.1 i)).foldl (fun n p =>
          p.2.rows.foldl (fun n r => n + p.2.rowTokens r) n) n
      else n) n) 0

/-- The core of a port's strip. -/
def State.coreOfPort (s : State) (key : Nat) : Nat :=
  (s.teams.find (key / 16 / 128)).elim 0 (fun t => t.coreOf (key / 16 % 128))

/-! ### The request at its slice -/

/-- What decides whether an answer may land: the context runs and the request is of its save generation (R401). An engine takes
its own answers. -/
def State.lands (s : State) (r : Req) : Bool :=
  s.running r.ctx && r.sgen == (s.context r.ctx).sgen &&
    (match r.owner with | .eng _ => false | _ => true)

/-- SLICE_REQUEST (R378): NACK-REPLAY for a generation that is not current; held while a switch gives its line another owner; else to a
walk unit. -/
def State.sliceRequest (s : State) (n : Nat) : Option State :=
  match s.reqs.find n with
  | none => none
  | some r =>
    if r.phase ≠ .sent ∨ ¬globalSpace r.space then none
    else
      let put (ph : Phase) : Option State := some { s with reqs := s.reqs.put n { r with phase := ph } }
      match (s.partOf r.ctx).bind (fun p => p.2.domainAt r.ia) with
      | some d => if d.gen ≠ r.gen then put .nacked else if d.moves r.ia then none else put .walking
      | none => put .walking

/-- Whether a request may use its core's L1: a load of the access side from a line the L1 may hold (R158, R159), without a
pointer tag to check. -/
def Req.l1Load (r : Req) : Bool :=
  r.kind == .load && r.space == 0 && r.cache == 0 && r.ptag == none && r.attr != some 1 &&
    (match r.owner with | .unit (.ap _ _) => true | _ => false)

/-- A load served by the L1 of its core (R158). -/
def State.l1Request (s : State) (n : Nat) : Option State :=
  match s.reqs.find n with
  | none => none
  | some r =>
    if r.phase = .sent ∧ r.l1Load ∧ s.inOrder n r then
      ((s.core r.core).l1.find (r.ia / 64)).map (fun x =>
        let v := s.forward n r (x.data.toNat / 2 ^ (8 * (r.ia % 64)) % 2 ^ (8 * r.size), sectorBad x.poison (r.ia % 64) r.size)
        { s with reqs := s.reqs.put n { r with phase := .done v.1 v.2 } })
    else none

/-- REPLAY_REINJECT (R378): injected again under the current generation. -/
def State.reinject (s : State) (n : Nat) : Option State :=
  match s.reqs.find n with
  | some r => if r.phase = .nacked then some (s.inject n { r with phase := .sent }) else none
  | none => none

/-- Whether the L1 may hold lines of a leaf: local, not strong, and valid, since a discarded page reads as zero whatever its frame
holds (R153, R157, R158). -/
def l1Leaf (leaf : Nat) : Bool := Leaf.cls leaf == 0 && Leaf.order leaf != 1 && Leaf.state leaf == 0

/-- The L1 of the core after a load at a slice: a line it may hold is filled, another it holds is dropped, since the load may
have seen a later value (R158, R228). -/
def State.l1After (s : State) (r : Req) (v : Via) : State :=
  match r.kind, r.owner with
  | .load, .unit (.ap _ _) =>
    if r.l1Load && l1Leaf v.leaf then
      let base := r.ia / 64 * 64
      let w := { v with phys := v.phys / 64 * 64 }
      let x := s.readLocal base 32 w
      let y := x.2.readLocal (base + 32) 32 (w.plus 32)
      y.2.modCore r.core (fun c =>
        c.l1Put (r.ia / 64) ⟨BitVec.ofNat 512 (x.1.1 + y.1.1 * 2 ^ 256), sectorBits x.1.2 y.1.2, v.page⟩)
    else s.dropL1 r.core r.ia
  | _, _ => s

/-- Whether another part of the same 64-byte request has parked on a page for the same cause: the lanes of one instruction that touch
one line make one request (R14, R152). -/
def State.countedAlready (s : State) (r : Req) (page cause : Nat) : Bool :=
  s.reqs.any (fun q => q.2.owner == r.owner && q.2.issue == r.issue && q.2.ia / 64 == r.ia / 64 &&
    q.2.phase == .parked page cause)

/-- A request at its walk unit under a walk (R150, R153). It is performed only when its owner's earlier accesses allow (R228), and a write
only once the host holds its line no more (R379). -/
def State.walkWith (s : State) (n : Nat) (r : Req) (pi : Nat) (p : Partition) (w : Walk) : Option State :=
  let r := match w with
    | .leaf e sz => { r with attr := some (attrOf r.order e), leaf := e, page := sz }
    | _ => r
  let put (t : State) (ph : Phase) : State := { t with reqs := t.reqs.put n { r with phase := ph } }
  match s.serve pi p w r with
  | .busy => some (put s .nacked)
  | .snoop => if s.inOrder n r then some (put s .snoop) else none
  | .fail t => some (put s (.failed { t with lane := r.laneNo }))
  | .park page cause sz =>
    some ({ (if s.countedAlready r page cause then s else s.noteFault r.ctx page cause (sizeCode sz) r.writes) with
      reqs := s.reqs.put n { r with attr := attrOfHandle r.order, phase := .parked page cause } })
  | .peer dev ia leaf =>
    if !s.inOrder n { r with phase := .remote dev ia 0 16 } then none
    else
      match (if Leaf.pcache leaf ∧ r.kind = .load then s.peerHit r leaf else none) with
      | some x => let v := s.forward n r x; some (put s (.done v.1 v.2))
      | none => s.sendRemote n r dev ia
  | .ok v po t =>
    if !s.inOrder n r then none
    else
      let x := if r.loads && !r.writes then s.forward n r (v, po) else (v, po)
      let t := match w with
        | .leaf e sz => t.l1After r ⟨e, Leaf.frame e + r.ia % 2 ^ sz, sz, p.sliceOf r.ia, r.cache⟩
        | _ => t
      some (put t (.done x.1 x.2))

/-- WALK_REQUEST (R148): the walk unit walks, or uses a leaf it has cached (R151), in the domain under which a slice accepted the request
(R378). -/
def State.walkRequest (s : State) (n : Nat) (cached : Bool) : Option State :=
  match s.reqs.find n with
  | none => none
  | some r =>
    if r.phase ≠ .walking then none
    else match s.partOf r.ctx with
      | none => some { s with reqs := s.reqs.put n { r with phase := .failed (prot 1) } }
      | some (pi, q) =>
        let p := q.under r.gen r.ia
        if cached then
          match s.walkc.find (walkKey (walkUnit (p.sliceOf r.ia)) pi r.ia) with
          | some (e, sz) => s.walkWith n r pi p (.leaf e.toNat sz)
          | none => none
        else s.walkWith n r pi p (s.walk p r.ia)

/-- BACK_INVALIDATE_RESPONSE (R379): the host has answered the snoop for a request, and the write proceeds. -/
def State.snooped (s : State) (n : Nat) : Option State :=
  match s.reqs.find n with
  | none => none
  | some r =>
    if r.phase ≠ .snoop then none
    else (s.partOf r.ctx).bind (fun q =>
      let p := q.2.under r.gen r.ia
      let t := s.hostGives r.ia r.size
      t.walkWith n r q.1 p (t.walk p r.ia))

/-- Requests of other devices taken up again: one that was parked has had its notice (R257). -/
def State.serveAgain (s : State) (q : Inbound → Bool) : State :=
  let l := s.inbound.filter q
  l.foldl (fun s i => s.serveRemote i.pkt i.page.isSome) { s with inbound := s.inbound.filter (fun i => !q i) }

/-- BACK_INVALIDATE_RESPONSE (R379): the host has given up a line that it might hold; what waits for that goes on when it tries again. -/
def State.hostYields (s : State) (line : Nat) : Option State :=
  if s.mgmt.hostHeld.has line then some ((s.hostGives (64 * line) 64).serveAgain (fun i => i.page.isNone)) else none

/-! ### Replies -/

/-- A request that acts in the store of a core other than its owner's, performed there in its turn (R229). -/
def State.atPeerCore (s : State) (n : Nat) (r : Req) : Option (State × Req) :=
  if globalSpace r.space ∨ r.phase ≠ .sent ∨ ¬s.inOrder n r then none
  else
    let x := s.atCore r
    let v := if r.loads && !r.writes then s.forward n r x.1 else x.1
    let q := { r with phase := .done v.1 v.2 }
    some ({ x.2 with reqs := x.2.reqs.put n q }, q)

/-- A request with its turn at a core taken, when it is one. -/
def State.settle (s : State) (n : Nat) : Option (State × Req) :=
  match s.reqs.find n with
  | none => none
  | some r => if r.open then s.atPeerCore n r else some (s, r)

/-- What a performed or failed request answers with: the value that fits a register, and the whole data. -/
def Req.result (r : Req) : Except TrapInfo Val × Nat :=
  match r.phase with
  | .done d po => (.ok ⟨BitVec.ofNat 64 d, po⟩, d)
  | .failed t => (.error t, 0)
  | _ => (.error (tinfo 0 0), 0)

/-- Whether a request returns something to its owner. -/
def Req.returns (r : Req) : Bool :=
  match r.kind with
  | .load | .tagGet | .tagSet _ | .pair _ _ _ => true
  | .atomic _ _ _ _ ret => ret
  | .store _ _ => false

/-- MEMORY_REPLY (R161): the value or failure reaches the requester's register, or the lane of its blocked thread. -/
def State.memoryReply (s : State) (n : Nat) : Option State :=
  match s.settle n with
  | none => none
  | some (s, r) =>
    if r.returns ∧ s.lands r then
      match r.landing with
      | .port _ _ _ | .line _ _ => none
      | _ =>
        let x := r.result
        some ({ s with reqs := s.reqs.del n }.land r x.1 x.2)
    else none

/-- PORT_SLOT_DELIVER (R196): a reply fills its slot as data or, while the token store has room (R193), as a token. -/
def State.portDeliver (s : State) (n : Nat) : Option State :=
  match s.settle n with
  | none => none
  | some (s, r) =>
    let key := match r.landing with
      | .port k _ _ => some k
      | .line k _ => some k
      | _ => none
    match key with
    | none => none
    | some k =>
      let x := r.result
      let room := match x.1 with
        | .error _ => decide (s.tokens (s.coreOfPort k) < 256)
        | .ok _ => true
      if r.returns ∧ s.lands r ∧ room then some ({ s with reqs := s.reqs.del n }.land r x.1 x.2) else none

/-- The fault of a store that fails at the memory side, as its thread will take it (R388, R200, R263). -/
def Req.deferral (r : Req) (t : TrapInfo) : Deferred :=
  match r.owner with
  | .pat key =>
    { kind := 0, cls := r.cls, port := key % 16,
      info := { tinfo 0x30 0 with sub := t.code, osub := t.sub, handle := t.handle, loc := t.loc, port := some (key % 16),
                                  pos := BitVec.ofNat 32 r.iaddr } }
  | _ =>
    { kind := if r.rst then 1 else 2, cls := r.cls, port := 0,
      info := { t with oaddr := BitVec.ofNat 64 r.iaddr, lane := r.laneNo, handle := BitVec.ofNat 8 r.handle } }

/-- Who takes the deferred fault of a request: its unit, or each thread that pushed an element of it (R200). -/
def Req.blamed (r : Req) : List Agent :=
  match r.owner with
  | .unit u => [u]
  | .pat _ => r.pusher.map (fun q => .ex q.1 q.2)
  | .eng _ => []

/-- A store acknowledged: its counters, the element's thread (R199), and a deferred fault when it failed, unless a queue engine that made it
works for another context by now: one context's faults never reach another (R369). -/
def State.acknowledge (s : State) (n : Nat) (r : Req) : State :=
  let s := { s with reqs := s.reqs.del n }
  let s := match r.owner with
    | .unit u => s.modCtl u (fun c => c.bumpCls r.cls (-1))
    | _ => s
  let s := s.unpush r
  match r.phase with
  | .failed t => (r.blamed.filter (fun u => s.ctxOf u == r.ctx)).foldl (fun s u => s.modCtl u (fun c => c.defer (r.deferral t))) s
  | _ => s

/-- Requests that end without an answer: a store among them leaves the counters of the queue engine that made it, which may work for another
context by now (R231, R369). -/
def State.forget (s : State) (gone : Req → Bool) : State :=
  let lost := s.reqs.filter (fun q => gone q.2)
  lost.foldl (fun s q => match q.2.owner with
    | .unit (.qe n) => if q.2.returns then s else s.modEngine n (fun e => { e with ctl := e.ctl.bumpCls q.2.cls (-1) })
    | _ => s) { s with reqs := s.reqs.filter (fun q => !gone q.2) }

/-- The stores of a context that stand in the buffers of queue engines are discarded (R395, R369). -/
def State.emptyBuffers (s : State) (c : Nat) : State :=
  { s with engines := s.engines.map (fun x => (x.1, { x.2 with ctl := { x.2.ctl with sbuf := x.2.ctl.sbuf.filter (fun q => q.2.ctx != c) } })) }

/-- STORE_ACK (R231). -/
def State.storeAck (s : State) (n : Nat) : Option State :=
  match s.settle n with
  | none => none
  | some (s, r) => if !r.returns && s.lands r then some (s.acknowledge n r) else none

/-! ### Meanings of the events -/

/-- The number an event's occurrence names. -/
def occOne : Occ → Option Nat
  | .num n => some n
  | .num2 n _ => some n
  | _ => none

/-- The second number. -/
def occTwo : Occ → Nat
  | .num2 _ n => n
  | _ => 0

/-- An event about one numbered thing. -/
def event1 (f : State → Nat → Option State) (s : State) : Host.Outcome State Fault Refusal :=
  event (fun s => (occOne s.occ).bind (f s)) s

/-- SLICE_REQUEST (R378): request n; with a second number 1 the core's L1 serves it (R158). -/
def execSliceRequest (s : State) : Host.Outcome State Fault Refusal :=
  event1 (fun s n => if occTwo s.occ = 1 then s.l1Request n else s.sliceRequest n) s

/-- REPLAY_REINJECT (R378): request n. -/
def execReplayReinject (s : State) : Host.Outcome State Fault Refusal := event1 State.reinject s

/-- WALK_REQUEST (R148): request n; with a second number 1 a cached leaf is used (R151). -/
def execWalkRequest (s : State) : Host.Outcome State Fault Refusal :=
  event1 (fun s n => s.walkRequest n (occTwo s.occ == 1)) s

/-- MEMORY_REPLY (R161): request n. -/
def execMemoryReply (s : State) : Host.Outcome State Fault Refusal := event1 State.memoryReply s

/-- PORT_SLOT_DELIVER (R196): request n. -/
def execPortSlotDeliver (s : State) : Host.Outcome State Fault Refusal := event1 State.portDeliver s

/-- STORE_ACK (R231): request n. -/
def execStoreAck (s : State) : Host.Outcome State Fault Refusal := event1 State.storeAck s

/-- BACK_INVALIDATE_RESPONSE (R379): request n, or with a second number 1 a line for which an access that is made in one step waits. -/
def execBackInvalidateResponse (s : State) : Host.Outcome State Fault Refusal :=
  event1 (fun s n => if occTwo s.occ = 1 then s.hostYields n else s.snooped n) s

/-- REMOTE_REQUEST_ARRIVAL (R256): a packet of another device for this one. -/
def execRemoteRequestArrival (s : State) : Host.Outcome State Fault Refusal :=
  event (fun s => match s.occ with
    | .packet p => some (s.serveRemote p false)
    | _ => none) s

/-- SCALE_OUT_RMA (R274): a read or write through the endpoint, under the checks of R256. Nothing else crosses it (R273). -/
def execScaleOutRma (s : State) : Host.Outcome State Fault Refusal :=
  event (fun s => match s.occ with
    | .packet p =>
      match p.kind with
      | .load | .store _ _ => some (s.serveRemote p false)
      | _ => none
    | _ => none) s

/-- PARK_NOTICE (R257): request n is parked at its target. -/
def execParkNotice (s : State) : Host.Outcome State Fault Refusal :=
  event1 (fun s n => (s.reqs.find n).bind (fun r => match r.phase with
    | .remote dev ia _ l => some { s with reqs := s.reqs.put n { r with phase := .remoteParked dev ia l } }
    | _ => none)) s

/-- What a load brought from a peer page stays in the L2 where the requester's leaf lets it (R258), unless an INVR covered the page since
the load was sent: under the leaf it was sent under, whatever entry the tables hold by now (R151). -/
def State.keepPeer (s : State) (r : Req) (d : Nat) (po : Bool) : State :=
  match s.partOf r.ctx with
  | none => s
  | some (_, p) =>
    if Leaf.cls r.leaf = 2 ∧ Leaf.pcache r.leaf ∧ Leaf.ro r.leaf then s.peerFill r (p.sliceOf r.ia) r.leaf r.page d po else s

/-- REMOTE_REPLY (R261): the answer to a request that still waits for one. -/
def execRemoteReply (s : State) : Host.Outcome State Fault Refusal :=
  event (fun s => match s.occ with
    | .remote n res => (s.reqs.find n).bind (fun r => match r.phase with
      | .remote _ _ _ _ | .remoteParked _ _ _ =>
        let ph := s.answered n r res
        let s := match res, r.kind with
          | .ok d po, .load => s.keepPeer r d po
          | _, _ => s
        some { s with reqs := s.reqs.put n { r with phase := ph } }
      | _ => none)
    | _ => none) s

/-- A request fails with REMOTE 0x02 that had neither a reply nor a notice in time (R266), or that is parked and whose reply a link
going down has dropped (R411). -/
def State.remoteTimeout (s : State) (n : Nat) (dropped : Bool) : Option State :=
  let fail (r : Req) (ia : Nat) : Option State :=
    some { s with reqs := s.reqs.put n { r with phase := .failed { remoteFail 2 with
      handle := BitVec.ofNat 8 r.handle, loc := BitVec.ofNat 64 ia, lane := r.laneNo } } }
  (s.reqs.find n).bind (fun r => match r.phase with
    | .remote _ ia dl _ => if dl ≤ s.now then fail r ia else none
    | .remoteParked _ ia _ => if dropped then fail r ia else none
    | _ => none)

/-- A packet in transit that is no request, as the route decision reads it: its answer class and hash (R270, R271). -/
def transitPacket (t : Transit) : Packet := ⟨t.src, 0, t.hop, t.dst, t.ia, 0, .load, none, t.thread⟩

/-- FABRIC_PACKET_FORWARD (R269): a packet on its way to another device crosses its next link, on the channel of its class that its hop
index gives (R270), or is dropped, and the requester, which is the destination of a reply, hears that there is no route. The hop index
counts the links crossed to reach this device. A device without a fabric id answers every request with not-ready (R272). -/
def execFabricPacketForward (s : State) : Host.Outcome State Fault Refusal :=
  event (fun s => match s.occ with
    | .packet p =>
      if s.isSelf p.dst then none
      else if !s.mgmt.fidSet then some (s.replyTo p.src p.ia p.thread (.reply p.src p.rid (failReply (remoteFail 4) p.ia)))
      else match s.route p with
        | .link l => some (s.sendLink l clsRequest p.hop (.request p))
        | _ => some (s.replyTo p.src p.ia p.thread (.reply p.src p.rid (failReply (remoteFail 1) p.ia)))
    | .transit t =>
      if s.isSelf t.dst then none
      else if !s.mgmt.fidSet && t.kind == .message then some (s.replyTo t.src t.ia t.thread (.unready t.src t.body))
      else match s.route (transitPacket t), t.kind with
        | .link l, .answer => some (s.sendLink l clsReply t.hop (.passing t))
        | .link l, .message => some (s.sendLink l clsRequest t.hop (.passing t))
        | _, .answer => some (s.replyTo t.dst t.ia t.thread (.noRoute t.dst t.body))
        | _, .message => some (s.replyTo t.src t.ia t.thread (.noRoute t.src t.body))
    | _ => none) s

end Sys2Proof.Machine
end

