-- ==== Sys2Proof/Machine/Lane.lean ====
section
/-! DEFINITION. Cross-lane instructions: the joint instructions of R313-R317 with the event that performs them, and the hash
tables of R318-R320. -/

namespace Sys2Proof.Machine

/-! ### Combining values (R315, R169) -/

/-- One step of XRED, XSCAN and SSI on W-bit values, with its flags. -/
def laneStep (op w x y : Nat) : FRes :=
  let f := if w = 64 then binary64 else binary32
  match op with
  | 10 => f.add 0 x y
  | 11 => f.minMax false x y
  | 12 => f.minMax true x y
  | _ => ⟨atomicNew op w x y 0, 0⟩

/-- The result of XRED, XSCAN or SSI that has one value to combine, so takes no step. Under a floating-point op it still delivers that
value to a floating-point destination: a NaN as the canonical one, with NV for a signalling one (R72), and NF for an infinity or a NaN
(R74). That FMIN and FMAX of one NaN deliver the canonical one, as they do of two, is DEDUCED (entry 59). -/
def laneAlone (op w x : Nat) : FRes :=
  let f := if w = 64 then binary64 else binary32
  if 10 ≤ op ∧ op ≤ 12 then
    match f.decode x with
    | .nan q => f.nanRes [.nan q]
    | .inf _ => ⟨x, fNF⟩
    | .fin _ _ _ => ⟨x, 0⟩
  else ⟨x, 0⟩

/-- Adjacent pairs combined from the left, an odd last value carried up (R315, R253). -/
def pairUp (f : Nat → Nat → FRes) : List Nat → List Nat × FlagSet
  | x :: y :: rest =>
    let r := f x y
    let t := pairUp f rest
    (r.bits :: t.1, r.flags ||| t.2)
  | xs => (xs, 0)

/-- The tree of R315 until one value remains. -/
def treeReduce (f : Nat → Nat → FRes) : Nat → List Nat → Nat × FlagSet
  | 0, xs => (xs.headD 0, 0)
  | k + 1, xs =>
    match xs with
    | [] => (0, 0)
    | [x] => (x, 0)
    | _ =>
      let p := pairUp f xs
      let r := treeReduce f k p.1
      (r.1, p.2 ||| r.2)

/-- The values combined one after another from the first (R315). -/
def chain (f : Nat → Nat → FRes) : List Nat → Nat × FlagSet
  | [] => (0, 0)
  | x :: xs => xs.foldl (fun a y => let r := f a.1 y; (r.bits, a.2 ||| r.flags)) (x, 0)

/-- The values combined in the order f steps through them; one value by itself takes no step (R315, R74). -/
def combineAll (op w : Nat) (f : List Nat → Nat × FlagSet) : List Nat → FRes
  | [x] => laneAlone op w x
  | xs => ⟨(f xs).1, (f xs).2⟩

/-- The identity of an op for .excl (R315). -/
def identityOf (op w : Nat) : Nat :=
  let f := if w = 64 then binary64 else binary32
  match op with
  | 1 => 2 ^ (w - 1) - 1
  | 2 => 2 ^ (w - 1)
  | 3 | 5 => 2 ^ w - 1
  | 11 => f.infBits
  | 12 => f.signBit true + f.infBits
  | _ => 0

/-! ### Joint instructions -/

/-- The joint instructions (R313). -/
def isJoint : Instr → Bool
  | .xshuf | .xbcast | .xpoll | .xred | .xscan | .xmatch | .xsync | .xcompact | .rebal | .ssi => true
  | _ => false

/-- The fields of a joint instruction (R312). -/
def jointShape (i : Instr) (o : Ops) : Shape :=
  let w := if o.x8.getLsbD 4 then 2 else 1
  match i with
  | .xpoll => { d := if o.x8.toNat % 4 = 3 then 2 else 0, a := 0, b := 0, c := 2 }
  | .xsync => { d := 0, a := 0, b := 0, c := 2 }
  | .xmatch => { d := 2, a := w, b := 0, c := 2 }
  | .rebal => { d := 2, a := 1, b := 1, c := 2 }
  | .xshuf => { d := w, a := w, b := 1, c := 2 }
  | .xcompact | .ssi => { d := w, a := w, b := 0, c := 2 }
  | _ => { d := w, a := w, b := 0, c := 2 }

/-- The mask that a thread reads as it arrives at a joint instruction (R313). -/
def State.maskNow (s : State) (tm tid : Nat) (o : Ops) : Val :=
  match o.c with
  | .reg n _ => readEx s tm tid n 2
  | _ => Val.zero

/-- The member set that a mask gives a thread, as thread indices of its team (R294, R313). -/
def spanSet (tid : Nat) (v : Val) : NatSet := NatSet.add ((setBits v.bits.toNat 64).map (fun i => tid / 64 * 64 + i)) tid

/-- The member set of a thread waiting at a joint instruction, by the mask it read as it arrived. -/
def State.members (s : State) (tm tid : Nat) : NatSet := spanSet tid ((s.exs.find (exKey tm tid)).elim Val.zero (·.mask))

/-- A thread waiting for companions at a joint instruction: the instruction. -/
def State.atJoint (s : State) (tm tid : Nat) : Option Insn :=
  match s.exs.find (exKey tm tid) with
  | some x =>
    match x.arr, x.ctl.status with
    | some i, .waiting _ _ => if isJoint i.op then some i else none
    | _, _ => none
  | none => none

/-- The pc of a thread. -/
def State.pcOf (s : State) (tm tid : Nat) : Nat := (s.exs.find (exKey tm tid)).elim 0 (·.ctl.pc)

/-- The members of a set that wait at an address, the set closed under their own sets (R313). -/
def State.closeJoint (s : State) (tm addr : Nat) : Nat → NatSet → NatSet
  | 0, set => set
  | k + 1, set =>
    let more := set.foldl (fun acc t =>
      match s.atJoint tm t with
      | some _ => (s.members tm t).foldl (fun acc j =>
          if (s.atJoint tm j).isSome && s.pcOf tm j == addr then NatSet.add acc j else acc) acc
      | none => acc) set
    if more = set then set else s.closeJoint tm addr k more

/-- Whether a member that does not wait completes the set: it has exited, or passed this instruction (R313, R294). -/
def State.absentOk (s : State) (tm addr j : Nat) : Bool :=
  match s.exs.find (exKey tm j) with
  | none => true
  | some x => !x.live || x.pass == some addr

/-- Whether a thread performs the joint instruction it waits at alone: it was resumed there after it had trapped there (R313). -/
def Ctl.alone (c : Ctl) : Bool := c.solo == some c.pc

/-- The set that performs with a thread, when it is complete (R313). A thread resumed at the instruction at which it trapped
performs alone. DESIGN CHOICE, entry 59: until it has done so it also completes the set of companions that wait there, and the
earlier of the two events takes it. -/
def State.jointSet (s : State) (tm tid : Nat) : Option NatSet :=
  match s.atJoint tm tid with
  | none => none
  | some _ =>
    if (s.ctl (.ex tm tid)).elim false Ctl.alone then some [tid]
    else
      let addr := s.pcOf tm tid
      let set := s.closeJoint tm addr 64 [tid]
      let ok := set.all (fun t =>
        match s.atJoint tm t with
        | some _ => (s.members tm t).all (fun j => NatSet.has set j || s.absentOk tm addr j)
        | none => false)
      if ok then some set else none

/-- What a participant brings. -/
structure Part where
  tid : Nat
  a : Val
  b : Val
  c : Val
  pa : PBit
  pb : PBit
  deriving DecidableEq, Repr

/-- The operands of the current thread's joint instruction; its mask is the one it read as it arrived. -/
def jointIn (i : Instr) : M Part := do
  let o ← ops
  let v ← fetch (jointShape i o) .int
  let pa ← readPred o.a
  let pb ← readPred o.b
  match ← unit with
  | .ex _ tid => pure ⟨tid, v.a 0, v.b 0, (← exThread).mask, pa 0, pb 0⟩
  | _ => throw (Stop.fault .noUnit)

/-- A result of a joint instruction: value, poison and flags; or a predicate. -/
structure JRes where
  v : Nat
  poison : Bool
  flags : FlagSet := 0
  deriving DecidableEq, Repr

/-- Whether a participant's own operands, its mask among them, carry a poison tag: it has read them even where its result discards
them (R79). -/
def Part.tainted (p : Part) : Bool := p.a.poison || p.b.poison || p.c.poison || p.pa.poison || p.pb.poison

/-- The span lane of a thread (R294). -/
def spanLane (tid : Nat) : Nat := tid % 64

/-- The owner and index of item g of counts in order (R316). -/
def itemOf : List (Nat × Nat) → Nat → Option (Nat × Nat)
  | [], _ => none
  | (tid, n) :: rest, g => if g < n then some (tid, g) else itemOf rest (g - n)

/-- What participant t receives from its participants in ascending order, with the poison of what that is made of (R314-R316). W is 32
or 64. -/
def jointValue (i : Instr) (x8 : BitVec 8) (ps : List Part) (t : Part) : JRes :=
  let dbl := x8.getLsbD 4
  let w := if dbl then 64 else 32
  let val (p : Part) : Nat := p.a.bits.toNat % 2 ^ w
  let op := x8.toNat % 16
  let upto := ps.filter (fun p => p.tid ≤ t.tid)
  let anyA (l : List Part) : Bool := l.any (fun p => p.a.poison)
  match i with
  | .xshuf =>
    let l : Int := spanLane t.tid
    let j : Int := (t.b.bits.toNat % 64 : Nat)
    let src : Int := match x8.toNat % 4 with
      | 0 => j
      | 1 => l - j
      | 2 => l + j
      | _ => ((spanLane t.tid) ^^^ (t.b.bits.toNat % 64) : Nat)
    let p := (ps.find? (fun p => ((spanLane p.tid : Nat) : Int) == src)).getD t
    ⟨val p, p.a.poison || t.b.poison, 0⟩
  | .xbcast => let p := ps.headD t; ⟨val p, p.a.poison, 0⟩
  | .xmatch =>
    ⟨ps.foldl (fun m p => if val p = val t then m + 2 ^ spanLane p.tid else m) 0, anyA ps, 0⟩
  | .xpoll =>
    let bad := ps.any (fun p => p.pa.poison)
    match x8.toNat % 4 with
    | 0 => ⟨if ps.all (fun p => p.pa.val) then 1 else 0, bad, 0⟩
    | 1 => ⟨if ps.any (fun p => p.pa.val) then 1 else 0, bad, 0⟩
    | 2 => ⟨if ps.all (fun p => p.pa.val) || ps.all (fun p => !p.pa.val) then 1 else 0, bad, 0⟩
    | _ => ⟨ps.foldl (fun m p => if p.pa.val then m + 2 ^ spanLane p.tid else m) 0, bad, 0⟩
  | .xred =>
    let r := combineAll op w (treeReduce (laneStep op w) 7) (ps.map val)
    ⟨r.bits, anyA ps, r.flags⟩
  | .xscan =>
    let l := if x8.getLsbD 5 then ps.filter (fun p => p.tid < t.tid) else upto
    if l = [] then ⟨identityOf op w, false, 0⟩
    else
      let r := combineAll op w (chain (laneStep op w)) (l.map val)
      ⟨r.bits, anyA l, r.flags⟩
  | .ssi =>
    let l := upto.foldl (fun acc p => if p.pb.val then [p] else acc ++ [p]) []
    let r := combineAll op w (chain (laneStep op w)) (l.map val)
    ⟨r.bits, anyA l || upto.any (fun p => p.pb.poison), r.2⟩
  | .xcompact =>
    let k := (ps.filter (fun p => p.tid < t.tid)).length
    let bad := ps.any (fun p => p.pb.poison)
    match (ps.filter (fun p => p.pb.val))[k]? with
    | some p => ⟨val p, p.a.poison || bad, 0⟩
    | none => ⟨0, bad, 0⟩
  | .rebal =>
    let k := (ps.filter (fun p => p.tid < t.tid)).length
    let g := t.b.bits.toNat % 2 ^ 32 * ps.length + k
    let r := match itemOf (ps.map (fun p => (p.tid, p.a.bits.toNat % 2 ^ 32))) g with
      | some (q, j) => spanLane q + j % 2 ^ 32 * 2 ^ 32
      | none => 2 ^ 64 - 1
    ⟨r, anyA ps || t.b.poison, 0⟩
  | _ => ⟨0, false, 0⟩

/-- The result for participant t: poisoned too where t's own operands are (R79, R313). -/
def jointResult (i : Instr) (x8 : BitVec 8) (ps : List Part) (t : Part) : JRes :=
  let r := jointValue i x8 ps t
  { r with poison := r.poison || t.tainted }

/-- A participant writes its result: poison raises no flag (R79). -/
def jointOut (i : Instr) (r : JRes) : M Unit := do
  let o ← ops
  let sh := jointShape i o
  match i with
  | .xsync => pure ()
  | .xpoll =>
    if o.x8.toNat % 4 = 3 then writeD 2 (fun _ => ⟨BitVec.ofNat 64 r.v, r.poison⟩)
    else writePred o.d (fun _ => ⟨r.v == 1, r.poison⟩)
  | _ =>
    (if r.poison then pure () else raise r.flags)
    writeD sh.d (fun _ => ⟨BitVec.ofNat 64 r.v, r.poison⟩)

/-- A joint instruction when a thread issues it (R313): with a false predicate it passes, and one resumed there performs no later one
alone; with a true one it arrives and
waits for its companions. Its mask is read as it arrives. -/
def jointOp (i : Instr) : M Unit := do
  let o ← ops
  match ← unit with
  | .ex tm tid =>
    let x ← exThread
    let sh := jointShape i o
    (if (exGuard x o).val then pure ()
     else do
       let a := x.ctl.pc
       modify (fun s => s.modEx tm tid (fun x => { x with pass := some a, ctl := { x.ctl with solo := none } })))
    insn i sh (do
      checkPorts sh
      awaitRegs [(o.a, sh.a), (o.b, sh.b), (o.c, sh.c)]
      let m := (← get).maskNow tm tid o
      modify (fun s => s.modEx tm tid (fun x => { x with pass := none, mask := m }))
      stay i (.joint (← here) (spanSet tid m)))
  | _ => throw (Stop.fault .noUnit)

/-- Runs an action for a unit under an instruction's operands. -/
def State.asUnit {α : Type} (s : State) (u : Agent) (o : Ops) (m : M α) : Except Stop (α × State) :=
  m { s with cur := some u, ir := o }

/-- One participant completes: its sources are taken, its result written, and it goes on past the instruction. -/
def jointDone (i : Instr) (r : JRes) : M Unit := do
  let o ← ops
  let _ ← fetch (jointShape i o) .int
  (if i = .xsync then release else pure ())
  match ← unit with
  | .ex tm tid =>
    jointOut i r
    modify (fun s => s.finishEx tm tid)
  | _ => pure ()

/-- What performing a joint set comes to for one thread: done, or it waits for something first. -/
def State.jointStep (s : State) (tm : Nat) (i : Insn) (tid : Nat) (r : JRes) : Except Wait State :=
  let u := Agent.ex tm tid
  match s.asUnit u i.args (jointDone i.op r) with
  | .ok (_, t) => .ok t
  | .error (.trap t) => .ok (s.takeTrap u t (len0Of i.args.form))
  | .error (.deferred rest t) =>
    .ok ((s.modCtl u (fun c => { c with deferred := rest })).takeTrap u { t with deferred := true } (len0Of i.args.form))
  | .error (.wait w) => .error w
  | .error (.park _ _ _ _) => .error .mem
  | .error .overrun => .error .mem
  | .error (.fault _) => .error .mem

/-- The status of a thread that has arrived while it waits for something else than companions. -/
def State.jointWait (s : State) (tm tid : Nat) (w : Wait) : State := s.setWait (.ex tm tid) w

/-- The threads of a team that wait for the pool on a thread's core, each with the clock since when (R301). -/
def State.poolWaits (s : State) (tm : Nat) (t : Team) (tid : Nat) : List (Nat × Nat) :=
  (List.range (16 * t.strips)).filterMap (fun i =>
    if t.coreOf (i / 16) = t.coreOf (tid / 16) then
      match s.exs.find (exKey tm i) with
      | some x => (match x.ctl.status with
        | .waiting .pool n => some (n, i)
        | _ => none)
      | none => none
    else none)

/-- Whether a thread outside a joint set is served from the pool before the set: it began to wait before the first of the set's threads that
waits there, or none of them does (R301). -/
def State.setBehind (s : State) (tm : Nat) (t : Team) (set : NatSet) (tid : Nat) : Bool :=
  let waits := s.poolWaits tm t tid
  let first (w : Nat × Nat) : Bool := waits.all (fun m => !NatSet.has set m.2 || decide (w.1 < m.1 ∨ (w.1 = m.1 ∧ w.2 < m.2)))
  waits.any (fun w => !NatSet.has set w.2 && first w)

/-- A joint set's turn at the pool (R301, R313). DEDUCED, entry 21: since its threads perform together, the set waits as one from when the
first of them began to; at its turn all of them come before every other thread. -/
def State.setTurn (s : State) (tm : Nat) (set : NatSet) : State :=
  match s.teams.find tm with
  | none => s
  | some t => set.foldl (fun r tid => if s.setBehind tm t set tid then r
      else r.modEx tm tid (fun x => { x with ctl := { x.ctl with status := .waiting .pool 0 } })) s

/-- JOINT_PERFORM (R313): the set that waits with a thread performs its instruction together, when it is complete. A thread
that traps reading its own operands brings nothing; a thread that has still to wait holds the set. -/
def State.jointPerform (s : State) (tm tid : Nat) : Option State :=
  match s.jointSet tm tid with
  | none => none
  | some set =>
    let ins := set.filterMap (fun t => (s.atJoint tm t).map (fun i => (t, i)))
    let reads := ins.map (fun x => (x.1, x.2, s.asUnit (.ex tm x.1) x.2.args (jointIn x.2.op)))
    let stuck := reads.findSome? (fun x => match x.2.2 with
      | .error (.wait w) => some (x.1, w)
      | _ => none)
    match stuck with
    | some (t, w) => some (s.jointWait tm t w)
    | none =>
      let parts := reads.filterMap (fun x => match x.2.2 with
        | .ok (p, _) => some p
        | _ => none)
      let r := reads.foldl (fun (acc : Except (Nat × Wait) State) x =>
        match acc with
        | .error e => .error e
        | .ok s =>
          match x.2.2 with
          | .ok (p, _) =>
            let mine := s.members tm x.1
            let ps := if (s.ctl (.ex tm x.1)).elim false Ctl.alone then [p] else parts.filter (fun q => NatSet.has mine q.tid)
            let res := jointResult x.2.1.op x.2.1.args.x8 ps p
            match s.jointStep tm x.2.1 x.1 res with
            | .ok t => .ok t
            | .error w => .error (x.1, w)
          | .error (.trap t) => .ok (s.takeTrap (.ex tm x.1) t (len0Of x.2.1.args.form))
          | .error _ => .ok s) (.ok (s.setTurn tm set))
      match r with
      | .ok t => some t
      | .error (t, w) => some (s.jointWait tm t w)

/-! ### Hash tables (R318-R320) -/

/-- A table's place and header. -/
structure Table where
  key   : Nat
  slots : Nat
  lim   : Nat
  used  : Nat
  bad   : Bool
  poison : Bool
  deriving DecidableEq, Repr

/-- The header at an offset of a window of a number of bytes (R318). -/
def State.tableAt (s : State) (core win size off : Nat) : Table :=
  let k := (Loc.spad core (win + off)).key
  let h := s.readStore k 16
  let slots := bits h.1 31 0
  let lim := bits h.1 39 32
  let pow := decide (2 ≤ slots ∧ slots ≤ 65536) && decide (2 ^ slots.log2 = slots)
  let res := bits h.1 63 40 != 0 || bits h.1 127 96 != 0
  ⟨k, slots, lim, bits h.1 95 64,
   !pow || decide (lim < 1 ∨ 64 < lim) || res || decide (size < off + 16 + 8 * slots), h.2⟩

/-- The home slot of a key (R318). -/
def homeSlot (slots key : Nat) : Nat := key * 0x9E3779B1 % 2 ^ 32 / 2 ^ (32 - slots.log2)

/-- The key and value of a slot, and its poison. -/
def State.slotAt (s : State) (t : Table) (j : Nat) : Nat × Nat × Bool :=
  let x := s.readStore (t.key + 16 + 8 * j) 8
  (x.1 % 2 ^ 32, x.1 / 2 ^ 32, x.2)

/-- The first probe slot of a key that holds it or is empty (R319): its number, whether it holds the key, and its value;
none when the limit is reached. Poison met on the way ends the probe. -/
def State.probe (s : State) (t : Table) (key : Nat) : Nat → Nat → Option (Nat × Bool × Nat × Bool)
  | 0, _ => none
  | n + 1, i =>
    let j := (homeSlot t.slots key + i) % t.slots
    let x := s.slotAt t j
    if x.2.2 then some (j, false, 0, true)
    else if x.1 = key then some (j, true, x.2.1, false)
    else if x.1 = 2 ^ 32 - 1 then some (j, false, 0, false)
    else s.probe t key n (i + 1)

/-- The checks of R318, poison in the field order of R384, and the turn of the thread at its core: the table addressed by c. -/
def hashTable (v : Opnds) (data : Bool) : M Table := do
  trapIf (v.a 0).poison 0x11 1
  trapIf (data && (v.b 0).poison) 0x11 0
  trapIf (v.c 0).poison 0x11 1
  let u ← unit
  let t ← team
  let c ← core
  let off := (v.c 0).bits.toNat % 2 ^ 32
  let size := 64 * LRec.spw ((← get).recordOf t)
  if off % 16 ≠ 0 then stopTrap { tinfo 0x23 1 with loc := BitVec.ofNat 64 off }
  if off + 16 > size then stopTrap { tinfo 0x20 1 with loc := BitVec.ofNat 64 off }
  modify (fun s => s.drainAll u 0 ((s.bufferOf (.unit u)).length))
  let s ← get
  let a : Acc := ⟨0, 0, 1, c, off, 16, (Loc.spad c (64 * t.spbase + off)).key, false, false, none⟩
  awaitOrder (s.reqOf u a (.atomic 8 64 0 0 true) 0 255 .none)
  pure (s.tableAt c (64 * t.spbase) size off)

/-- HACC (R319). A poisoned word of the table leaves the table as it is, and the status carries the tag. -/
def haccOp : M Unit :=
  insn .hacc {} (do
    let v ← fetch {} .int
    let t ← hashTable v true
    let key := (v.a 0).w32.toNat
    let op := (← ops).x8.toNat % 16
    let out (n : Nat) : M Unit := writeD 1 (fun _ => Val.of (BitVec.ofNat 64 n))
    if t.poison then writeD 1 (fun _ => Val.bad)
    else if t.bad then out 4
    else if key = 2 ^ 32 - 1 then out 3
    else
      match (← get).probe t key t.lim 0 with
      | none => out 2
      | some (_, _, _, true) => writeD 1 (fun _ => Val.bad)
      | some (j, true, old, false) =>
        modify (fun s => s.writeStore (t.key + 16 + 8 * j + 4) 4 (atomicNew op 32 old (v.b 0).w32.toNat 0) false)
        out (2 ^ 16 * j)
      | some (j, false, _, false) =>
        modify (fun s => (s.writeStore (t.key + 16 + 8 * j) 8 (key + (v.b 0).w32.toNat * 2 ^ 32) false).writeStore
          (t.key + 8) 4 ((t.used + 1) % 2 ^ 32) false)
        out (1 + 2 ^ 16 * j))

/-- HFIND (R320). -/
def hfindOp : M Unit :=
  insn .hfind { d := 2, b := 0 } (do
    let v ← fetch { d := 2, b := 0 } .int
    let t ← hashTable v false
    let key := (v.a 0).w32.toNat
    let out (x n : Nat) : M Unit := writeD 2 (fun _ => Val.of (BitVec.ofNat 64 (x + n * 2 ^ 32)))
    if t.poison then writeD 2 (fun _ => Val.bad)
    else if t.bad then out 0 4
    else if key = 2 ^ 32 - 1 then out 0 3
    else
      match (← get).probe t key t.lim 0 with
      | some (_, _, _, true) => writeD 2 (fun _ => Val.bad)
      | some (_, true, x, false) => out x 0
      | _ => out 0 1)

/-! ### Meanings -/

/-- XSHUF (R314). -/
def execXshuf (s : State) : Host.Outcome State Fault Refusal := meaning (jointOp .xshuf) s

/-- XBCAST (R314). -/
def execXbcast (s : State) : Host.Outcome State Fault Refusal := meaning (jointOp .xbcast) s

/-- XPOLL (R314). -/
def execXpoll (s : State) : Host.Outcome State Fault Refusal := meaning (jointOp .xpoll) s

/-- XRED (R315). -/
def execXred (s : State) : Host.Outcome State Fault Refusal := meaning (jointOp .xred) s

/-- XSCAN (R315). -/
def execXscan (s : State) : Host.Outcome State Fault Refusal := meaning (jointOp .xscan) s

/-- XMATCH (R314). -/
def execXmatch (s : State) : Host.Outcome State Fault Refusal := meaning (jointOp .xmatch) s

/-- XSYNC (R317). -/
def execXsync (s : State) : Host.Outcome State Fault Refusal := meaning (jointOp .xsync) s

/-- XCOMPACT (R316). -/
def execXcompact (s : State) : Host.Outcome State Fault Refusal := meaning (jointOp .xcompact) s

/-- REBAL (R316). -/
def execRebal (s : State) : Host.Outcome State Fault Refusal := meaning (jointOp .rebal) s

/-- SSI (R315). -/
def execSsi (s : State) : Host.Outcome State Fault Refusal := meaning (jointOp .ssi) s

/-- HACC (R319). -/
def execHacc (s : State) : Host.Outcome State Fault Refusal := meaning haccOp s

/-- HFIND (R320). -/
def execHfind (s : State) : Host.Outcome State Fault Refusal := meaning hfindOp s

/-- JOINT_PERFORM (R313): the set that waits with thread n of team m. -/
def execJointPerform (s : State) : Host.Outcome State Fault Refusal :=
  event (fun s => match s.occ with
    | .num2 tm tid => s.jointPerform tm tid
    | _ => none) s

end Sys2Proof.Machine
end

