-- ==== Sys2Proof/Machine/Async.lean ====
section
/-! DEFINITION. Copies and arrival words (R237-R245), and work requests to the Sieve (R346, R347). -/

namespace Sys2Proof.Machine

/-! ### Status words and where they land -/

/-- A status word (R127, R238). -/
def statusWord (code line flags : Nat) : W64 :=
  BitVec.ofNat 64 (code + 2 ^ 8 + (if code = 0 then 0 else min line 255 * 2 ^ 16) + flags % 64 * 2 ^ 24)

/-- The destination field as the place of a word that is written later: its register is in flight from now (R237). -/
def landD : M Landing := do
  match ← unit, (← ops).d with
  | .ex tm tid, .reg (.g n) _ => do
    let ids ← writeRegs tm tid [(n.val, 0)] false true
    pure (.sreg tm (tid / 16) (tid % 16) (ids.getD 0 0) none)
  | .ap tm sp, .reg (.s n) _ => do
    modify (fun s => s.modAp tm sp (fun x => { x with spend := setBit16 x.spend n.val true }))
    pure (.apS tm sp n.val)
  | .qe q, .reg (.w n) _ => do
    modify (fun s => s.modEngine q (fun e => { e with wpend := setBit16 e.wpend n.val true }))
    pure (.qW q n.val)
  | _, _ => pure .none

/-- A status answered for a context: it lands, or goes to the reply log of a context that does not run (R254, R401). -/
def State.reply (s : State) (ctx : Nat) (l : Landing) (v : W64) (poison : Bool) : State :=
  if s.running ctx then s.landWord l v poison
  else s.modCtx ctx (fun c => { c with log := c.log ++ [.word l v poison] })

/-- A status written at once. -/
def writeStatus (code : Nat) (poison : Bool) : M Unit := writeD 1 (fun _ => ⟨statusWord code 0 0, poison⟩)

/-- The grid of the current unit's team. -/
def myGrid : M (Option Nat) := do pure (((← get).teamOf (← unit)).map (·.gid))

/-- Executes once: on the access side for its lowest active lane (R237). -/
def onceOp (i : Instr) (sh : Shape) (body : Opnds → Nat → M Unit) : M Unit :=
  insn i sh (do
    let v ← fetch sh .offset
    body v (lowLane (← lanes)))

/-- Fields d, a and b, and a alone. -/
def shDAB : Shape := { c := 0 }
def shDB : Shape := { a := 0, c := 0 }
def shDA : Shape := { b := 0, c := 0 }
def shDOnly : Shape := { a := 0, b := 0, c := 0 }

/-- The one access of an instruction that executes once. -/
def oneAccess (w : Want) (v : Opnds) (data : Bool) : M Acc := do
  match ← accesses w v (← onceLane) false data false with
  | (_, a) :: _ => pure a
  | [] => throw (Stop.fault .noUnit)

/-! ### Arrival words (R243) -/

namespace Arr
def target (w : Nat) : Nat := bits w 31 0
def count (w : Nat) : Nat := bits w 63 32
def gen (w : Nat) : Nat := bits w 95 64
def err (w : Nat) : Bool := bit w 96
def past (w : Nat) : Bool := bit w 97
def code (w : Nat) : Nat := bits w 111 104

/-- The word with the given fields. -/
def mk (target count gen : Nat) (err past : Bool) (code : Nat) : Nat :=
  target % 2 ^ 32 + count % 2 ^ 32 * 2 ^ 32 + gen % 2 ^ 32 * 2 ^ 64 + (if err then 2 ^ 96 else 0) +
    (if past then 2 ^ 97 else 0) + code % 256 * 2 ^ 104

/-- An addition of v bytes (R243); a fault's code sets err, and code when err was 0. -/
def add (w v fault : Nat) : Nat :=
  let c := count w + v
  let err' := err w || fault != 0
  let code' := if fault ≠ 0 ∧ ¬err w then fault else code w
  if target w ≠ 0 ∧ target w ≤ c then
    mk (target w) (min (c - target w) (2 ^ 32 - 1)) (gen w + 1) err' (past w || decide (target w < c)) code'
  else mk (target w) (min c (2 ^ 32 - 1)) (gen w) err' (past w) code'

/-- ARRW .init and .tgt (R244). -/
def init (w v : Nat) : Nat := mk v 0 (gen w) false false 0
def retarget (w v : Nat) : Nat := add (mk (target w + v) (count w) (gen w) (err w) (past w) (code w)) 0 0
end Arr

/-- One atomic update of an arrival word at its core; a word that reads poisoned keeps its bits (R169). -/
def State.updateArr (s : State) (key : Nat) (f : Nat → Nat) : State :=
  let x := s.readStore key 16
  if x.2 then s else s.writeStore key 16 (f x.1) false

/-- What ARRW and AWAIT ask of their handle (R244). DESIGN CHOICE, entry 59: ALIGN is judged on the location, not on the offset alone. -/
def arrWant (hidx : Nat) (need : Need) : Want := { hidx, spaces := [1], kinds := [0], size := 16, align := 16, need }

/-- ARRW (R244): gives the generation before its own update. -/
def arrwOp (i : Instr) (rel : Bool) (f : Nat → Nat → Nat) : M Unit := do
  let o ← ops
  onceOp i shDAB (fun v m => do
    let a ← oneAccess (arrWant o.x8.toNat .both) v true
    (if rel then release else pure ())
    let s ← get
    let x ← doOwnN (s.reqOf (← unit) a (.atomic 15 128 0 0 true) (← here) 255 .none)
    modify (fun s => s.updateArr a.addr (fun w => f w ((v.a m).bits.toNat % 2 ^ 32)))
    writeD 1 (fun _ => ⟨BitVec.ofNat 64 (Arr.gen x.1), x.2⟩))

/-- AWAIT (R245). -/
def awaitOp : M Unit := do
  let o ← ops
  onceOp .await shDAB (fun v m => do
    let a ← oneAccess (arrWant o.x8.toNat .rd) v false
    let s ← get
    let x ← doOwnN (s.reqOf (← unit) a .load (← here) 255 .none)
    let g : Nat := (v.a m).bits.toNat % 2 ^ 32
    waitUnless (decide (0 ≤ sext (wrapN ((Arr.gen x.1 : Int) - (g : Int)) 32) 32)) (.arrival a.addr)
    acquire (o.c.immVal % 8)
    writeD 1 (fun _ => heldVal ⟨BitVec.ofNat 64 (x.1 / 2 ^ 96 % 2 ^ 32), x.2 || (v.a m).poison⟩))

/-! ### Copies (R239-R242) -/

namespace CRec
/-- Fields of a copy record (R239). -/
def soff (r : BitVec 1024) : Nat := fld r 63 0
def doff (r : BitVec 1024) : Nat := fld r 127 64
def sh (r : BitVec 1024) : Nat := fld r 135 128
def dh (r : BitVec 1024) : Nat := fld r 143 136
def elem (r : BitVec 1024) : Nat := 2 ^ fld r 145 144
def dims (r : BitVec 1024) : Nat := fld r 148 146 + 1
def ah (r : BitVec 1024) : Nat := fld r 159 152
def splace (r : BitVec 1024) : Nat := fld r 175 160
def dplace (r : BitVec 1024) : Nat := fld r 191 176
def aplace (r : BitVec 1024) : Nat := fld r 207 192
def named (r : BitVec 1024) : Bool := r.getLsbD 208
def aoff (r : BitVec 1024) : Nat := fld r 255 224
def ext (r : BitVec 1024) (k : Nat) : Nat := fld r (32 * k + 287) (32 * k + 256)
/-- Strides of dimension k, 1 to 7. -/
def sstr (r : BitVec 1024) (k : Nat) : Int := sext (fld r (32 * k + 543) (32 * k + 512)) 32
def dstr (r : BitVec 1024) (k : Nat) : Int := sext (fld r (32 * k + 799) (32 * k + 768)) 32

/-- Elements of the transfer. -/
def total (r : BitVec 1024) : Nat := (List.range (dims r)).foldl (fun n k => n * ext r k) 1

/-- Whether the record breaks a rule of R239: each field's own condition, the arrival fields' whether or not flags[0] names a word,
so that with flags[0] = 0 the place is held against the handle that the zero ah names. -/
def malformed (r : BitVec 1024) (s d : Handle) (a : Handle) : Bool :=
  fld r 151 149 != 0 || fld r 215 209 != 0 || fld r 223 216 != 0 || fld r 543 512 != 0 || fld r 799 768 != 0 ||
    (List.range 8).any (fun k =>
      if k < dims r then ext r k == 0
      else ext r k != 0 || (k != 0 && (sstr r k != 0 || dstr r k != 0))) ||
    decide (2 ^ 40 < total r * elem r) ||
    (splace r != 0 && Hnd.space s != 2) || (dplace r != 0 && Hnd.space d != 2) ||
    aoff r % 16 != 0 || (aplace r != 0 && Hnd.space a != 2) || (!named r && ah r != 0)

/-- Indices of element n, dimension 0 first. -/
def indices (r : BitVec 1024) (n : Nat) : Nat → Nat → List Nat
  | _, 0 => []
  | k, m + 1 => n % ext r k :: indices r (n / ext r k) (k + 1) m

/-- The sum over the strided dimensions. -/
def strided (f : Nat → Int) : List Nat → Nat → Int
  | [], _ => 0
  | i :: is, k => f k * i + strided f is (k + 1)

/-- Offsets of element n in the source and the destination. -/
def offsets (r : BitVec 1024) (n : Nat) : Int × Int :=
  match indices r n 0 (dims r) with
  | [] => (soff r, doff r)
  | i0 :: is =>
    ((soff r : Int) + elem r * i0 + strided (sstr r) is 1, (doff r : Int) + elem r * i0 + strided (dstr r) is 1)
end CRec

/-- The code with which a copy turns a handle away (R240), 0 when it takes it. DESIGN CHOICE, entry 59: for a queue engine that is every
handle of space 1, 2 or 3. -/
def State.copyHandle (s : State) (u : Agent) (h : Handle) (source : Bool) : Nat :=
  let sp := Hnd.space h
  if sp = 7 ∨ Hnd.kind h > 3 ∨ (source ∧ sp = 6) then 0x24
  else match u with
    | .qe _ => if globalSpace sp then 0 else 0x24
    | .ex tm _ =>
      if globalSpace sp then 0x24
      else if sp = 3 ∧ (s.core ((s.coreOf u).getD 0)).owner ≠ some tm then 0x41 else 0
    | .ap tm _ => if sp = 3 ∧ (s.core ((s.coreOf u).getD 0)).owner ≠ some tm then 0x41 else 0

/-- The key of a copy's arrival word, or the code of the check it fails. DESIGN CHOICE, entry 59: that code ends the copy before any element
(R240), and a queue engine's copy, which has no place for the word, takes 0x24. -/
def State.arrKey (s : State) (u : Agent) (r : BitVec 1024) (h : Handle) : Except TrapInfo Nat := do
  let w := arrWant (CRec.ah r) .both
  if (Hnd.space h ≠ 1 ∧ Hnd.space h ≠ 2) ∨ Hnd.kind h ≠ 0 ∨ sideOf u = .queue then .error (tinfo 0x24 2)
  else do
    let p ← s.spotOf u w h (CRec.aoff r) (BitVec.ofNat 64 (CRec.aplace r))
    let a ← s.finishSpot 0 p .both
    pure a.addr

/-- A window through a shadow-pair handle as writes see it (R246). -/
def Hnd.shadow (h : Handle) : Handle :=
  if Hnd.kind h = 3 then (h &&& ~~~(BitVec.ofNat 256 (2 ^ 64 - 1))) ||| BitVec.ofNat 256 (Hnd.sbase h) else h

/-- Copies of a unit that count towards its limit (R240, R242). -/
def State.copiesOf (s : State) (u : Agent) : List (Nat × Copy) := s.copies.filter (fun c => c.2.owner == u && !c.2.seed)

/-- COPY (R240). DESIGN CHOICE, entry 59: its record is read through a handle of kind plain or flat (R239). -/
def copyOp : M Unit := do
  let o ← ops
  let c := o.c.immVal
  let u ← unit
  onceOp .copy shDB (fun v _ => do
    let q := decide (sideOf u = .queue)
    let a ← oneAccess { hidx := o.x8.toNat, spaces := if q then [0] else [1], kinds := kFlat, size := 128, align := 128,
                        need := .rd, offAlign := 128 } v false
    let x ← doNowN ((← get).reqOf u a .load (← here) 255 .none)
    trapIf x.2 0x11 1
    release
    let s ← get
    waitUnless (decide ((s.copiesOf u).length < (if q then 256 else 64))) .copies
    let r := BitVec.ofNat 1024 x.1
    let sh := s.handleOf u (CRec.sh r)
    let dh := s.handleOf u (CRec.dh r)
    let ah := s.handleOf u (CRec.ah r)
    let bad := CRec.malformed r sh dh ah
    let c1 := s.copyHandle u sh true
    let c2 := s.copyHandle u dh false
    let key := s.arrKey u r ah
    let code := if bad then 0x80 else if c1 ≠ 0 then c1 else if c2 ≠ 0 then c2
      else if CRec.named r then (match key with | .error t => t.code.toNat | .ok _ => 0) else 0
    let arr : Option (BitVec 256) :=
      if CRec.named r then (match key with | .ok _ => some ah | .error _ => none) else none
    let landing ← (if bit c 4 then pure .none else landD)
    let n ← freshId
    let op : Copy :=
      { owner := u, ctx := s.ctxOf u, gid := ← myGrid, core := (s.coreOf u).getD 0, scope := c % 8, ord := bit c 3,
        record := r, src := sh, dst := dh, arr, landing, done := [], total := CRec.total r, added := 0, pline := none,
        seed := false, fail := if code = 0 then none else some (code, 0) }
    modify (fun s => { s with copies := s.copies.put n op }))

/-- Offsets of an element of a copy. -/
def Copy.offsets (c : Copy) (i : Nat) : Int × Int :=
  if c.seed then (((8 * i : Nat) : Int), ((8 * i : Nat) : Int)) else CRec.offsets c.record i

/-- Adds an element to the elements performed, kept as disjoint rising intervals. -/
def addElem : List (Nat × Nat) → Nat → List (Nat × Nat)
  | [], i => [(i, i + 1)]
  | (a, b) :: r, i =>
    if i + 1 < a then (i, i + 1) :: (a, b) :: r
    else if i + 1 = a then (i, b) :: r
    else if i < b then (a, b) :: r
    else if i = b then
      match r with
      | (c, d) :: r' => if c = i + 1 then (a, d) :: r' else (a, i + 1) :: (c, d) :: r'
      | [] => [(a, i + 1)]
    else (a, b) :: addElem r i

/-- Whether an element has been performed, and how many have. -/
def performed (l : List (Nat × Nat)) (i : Nat) : Bool := l.any (fun x => decide (x.1 ≤ i ∧ i < x.2))
def countDone (l : List (Nat × Nat)) : Nat := l.foldl (fun n x => n + (x.2 - x.1)) 0

/-- Checks 3 to 5 of one end of an element (R161): the alignment of its location comes before its bounds, also where its offset is
negative. -/
def State.elemAcc (s : State) (u : Agent) (ctx hidx : Nat) (h : Handle) (off : Int) (place size : Nat) (need : Need) :
    Except TrapInfo Acc :=
  if off < 0 then do
    let _ ← if Hnd.space h = 2 then s.placeTarget u hidx (BitVec.ofNat 64 place) else pure (0, 0)
    if ((Hnd.base h : Int) + off) % (size : Int) ≠ 0 then .error (accTrap 0x23 1 hidx 0) else .error (accTrap 0x20 1 hidx 0)
  else do
    let w : Want := { hidx, spaces := [], kinds := [], size, align := size, need }
    let p ← s.spotOf u w h off.toNat (BitVec.ofNat 64 place)
    s.finishSpot ctx p need

/-- The data and the poison of the store that an operation has sent to a peer device for an element. -/
def State.sentTo (s : State) (id : Nat) (a : Acc) : Option (Nat × Bool) :=
  if a.space ≠ 5 then none
  else match s.reqs.find? (fun q => q.2.owner == Owner.eng id && q.2.kind.sort == 1 && q.2.ia == a.addr) with
    | some (_, q) => (match q.kind with
      | .store v po => some (v, po)
      | _ => none)
    | none => none

/-- What one element of a copy comes to: the state, and the code of a failure. Its source is read once, and an element in an engine's
accumulator memory waits for the engine (R254). DESIGN CHOICE, entry 59: a place outside the logical grid or
the cohort gives 0x24 (R11), and of several poisoned lines the first one performed is reported (R238). -/
def State.copyElem (s : State) (id : Nat) (c : Copy) (i : Nat) : Option (State × Nat × Bool) :=
  let offs := c.offsets i
  let e := CRec.elem c.record
  let fail (t : TrapInfo) : Option (State × Nat × Bool) := some (s, t.code.toNat, false)
  match s.elemAcc c.owner c.ctx (CRec.sh c.record) c.src offs.1 (CRec.splace c.record) e .rd with
  | .error t => fail t
  | .ok sa =>
    match s.elemAcc c.owner c.ctx (CRec.dh c.record) (Hnd.shadow c.dst) offs.2 (CRec.dplace c.record) e .wr with
    | .error t => fail t
    | .ok da =>
      if s.engineAway c.owner sa || s.engineAway c.owner da then none
      else if da.space = 6 ∧ ¬s.bcsFree da.core c.ctx then some (s, 0x8B, false)
      else
        let dreq (v : Nat) (p : Bool) : Req := s.engReq id c.owner da (.store v p)
        let src : EngRes := match s.sentTo id da with
          | some (v, po) => .ok v po s
          | none => s.engAccess (s.engReq id c.owner sa .load)
        match src with
        | .fail t => fail t
        | .hold => none
        | .send r => some (s.engSend r, 0, true)
        | .park page cause sz => some (s.noteOnce id c.ctx page cause sz false, 0, true)
        | .ok v po s1 =>
          match s1.engAccess (dreq v po) with
          | .fail t => fail t
          | .hold => none
          | .send r => some (s1.engSend r, 0, true)
          | .park page cause sz => some (s.noteOnce id c.ctx page cause sz true, 0, true)
          | .ok _ _ s2 =>
            let s3 := if da.space = 6 then s2.modCore da.core (fun x => { x with bcsOwner := some c.ctx }) else s2
            let i' := i * e / 64
            some ({ s3 with copies := s3.copies.alter id (fun c =>
              { c with done := addElem c.done i,
                       pline := if po && c.pline.isNone then some i' else c.pline }) }, 0, false)

/-- Whether the earlier .ord copies of the same thread have completed (R241). -/
def State.ordReady (s : State) (id : Nat) (c : Copy) : Bool :=
  !c.ord || s.copies.all (fun q => decide (id ≤ q.1) || q.2.owner != c.owner || !q.2.ord)

/-- Adds the bytes performed and not yet added to a copy's arrival word (R243). -/
def State.addArrival (s : State) (id : Nat) (c : Copy) (upto fault : Nat) : State :=
  match c.arr with
  | none => s
  | some h =>
    match s.arrKey c.owner c.record h with
    | .error _ => s
    | .ok key =>
      let s := s.updateArr key (fun w => Arr.add w (upto - c.added) fault)
      { s with copies := s.copies.alter id (fun c => { c with added := upto }) }

/-- COPY_PROGRESS (R240): element i is performed, or waits for its page or a peer device, or ends the copy with its code. Its
bytes are added to the arrival word as it is performed, unless they are held back. -/
def State.copyProgress (s : State) (id i : Nat) (hold : Bool) : Option State :=
  match s.copies.find id with
  | none => none
  | some c =>
    if !s.running c.ctx || c.fail.isSome || decide (c.total ≤ i) || performed c.done i then none
    else match s.copyElem id c i with
      | none => none
      | some (t, code, waits) =>
        if waits then some t
        else if code ≠ 0 then
          some { t with copies := t.copies.alter id (fun c => { c with fail := some (code, i * CRec.elem c.record / 64) }) }
        else
          let c' := { c with done := addElem c.done i }
          some (if hold || c.ord then t else t.addArrival id c' (countDone c'.done * CRec.elem c.record) 0)

/-- COPY_COMPLETE (R241): the rest of the arrival addition, then the status word. -/
def State.copyComplete (s : State) (id : Nat) : Option State :=
  match s.copies.find id with
  | none => none
  | some c =>
    if !s.running c.ctx || !s.ordReady id c || c.seed || !(c.fail.isSome || countDone c.done == c.total) then none
    else
      let q := match c.fail with
        | some (code, line) => (code, line)
        | none => match c.pline with
          | some l => (0x11, l)
          | none => (0, 0)
      let s := s.addArrival id c (c.total * CRec.elem c.record) (match c.fail with | some f => f.1 | none => 0)
      let s := { s with copies := s.copies.del id, reqs := s.reqs.filter (fun r => r.2.owner != Owner.eng id) }
      some (s.landWord c.landing (statusWord q.1 q.2 0) false)

/-- CSTAT (R242). -/
def cstatOp : M Unit := do
  let o ← ops
  let u ← unit
  onceOp .cstat shDA (fun v m => do
    let n := ((← get).copiesOf u).length
    waitUnless (decide (n ≤ (v.a m).bits.toNat % 2 ^ 32)) .copies
    acquire (o.c.immVal % 8)
    writeD 1 (fun _ => heldVal ⟨BitVec.ofNat 64 n, (v.a m).poison⟩))

/-! ### The Sieve (R346, R347) -/

/-- Tile i of a grid's sequence, as an answer word. -/
def tileWord (r : BitVec 1024) (i : Nat) : Nat :=
  let tx := LRec.tx r
  let ty := LRec.ty r
  let xy := match LRec.torder r with
    | 1 => (i / ty, i % ty)
    | 2 => (if i / tx % 2 = 0 then i % tx else tx - 1 - i % tx, i / tx)
    | _ => (i % tx, i / tx)
  xy.2 * 2 ^ 32 + xy.1

/-- WDQ (R347): a request to the Sieve. -/
def wdqOp : M Unit := do
  let o ← ops
  let u ← unit
  onceOp .wdq shDB (fun v _ => do
    let a ← oneAccess { hidx := o.x8.toNat, spaces := [1], kinds := [0], size := 8, align := 8, need := .wr, offAlign := 8 } v false
    let s ← get
    waitUnless (decide ((s.wdqs.filter (fun q => q.2.owner == u)).length < 4)) .wdqs
    awaitReplies 1
    let landing ← landD
    let n ← freshId
    let op : WdqOp := { owner := u, ctx := s.ctxOf u, gid := (← myGrid).getD 0, core := a.core, addr := a.loc, landing }
    modify (fun s => { s with wdqs := s.wdqs.put n op }))

/-- The key of a location of the window of a unit's team, where the team now stands. -/
def State.windowKey (s : State) (u : Agent) (loc : Nat) : Nat :=
  (Loc.spad ((s.coreOf u).getD 0) ((s.teamOf u).elim 0 (fun t => 64 * t.spbase) + loc)).key

/-- Whether an answer for a context is taken now: it runs, or its replies are logged (R401). -/
def State.answerable (s : State) (ctx : Nat) : Bool :=
  s.running ctx || (s.context ctx).cstate == 2 || (s.context ctx).cstate == 3

/-- A scratchpad word answered for a unit: it is written, or goes to the reply log of a context that does not run (R347, R403). -/
def State.replySpad (s : State) (ctx : Nat) (u : Agent) (loc : Nat) (v : W64) : State :=
  if s.running ctx then s.writeStore (s.windowKey u loc) 8 v.toNat false
  else s.modCtx ctx (fun c => { c with log := c.log ++ [.spad u loc v] })

/-- WDQ_ANSWER (R347): the oldest request of its requester is answered with a tile, the end token or 0x8A. -/
def State.wdqAnswer (s : State) (id : Nat) : Option State :=
  match s.wdqs.find id with
  | none => none
  | some q =>
    if !s.answerable q.ctx || s.wdqs.any (fun x => decide (x.1 < id) && x.2.owner == q.owner) then none
    else match s.grids.find q.gid, s.ctl q.owner with
      | some g, some c =>
        let t := LRec.tx g.record * LRec.ty g.record
        let i := g.sieve.getD t
        let s := { s with wdqs := s.wdqs.del id }
        let done (s : State) (v : Nat) : State :=
          (s.replySpad q.ctx q.owner q.addr (BitVec.ofNat 64 v)).reply q.ctx q.landing (statusWord 0 0 0) false
        if i < t then some (done { s with grids := s.grids.put q.gid { g with sieve := some (i + 1) } } (tileWord g.record i))
        else if c.wdqEnd then some (s.reply q.ctx q.landing (statusWord 0x8A 0 0) false)
        else some (done (s.modCtl q.owner (fun c => { c with wdqEnd := true })) (2 ^ 64 - 1))
      | _, _ => none

/-! ### Meanings -/

/-- COPY (R240). -/
def execCopy (s : State) : Host.Outcome State Fault Refusal := meaning copyOp s

/-- CSTAT (R242). -/
def execCstat (s : State) : Host.Outcome State Fault Refusal := meaning cstatOp s

/-- ARRW .init (R244). -/
def execArrwInit (s : State) : Host.Outcome State Fault Refusal := meaning (arrwOp .arrwInit false Arr.init) s

/-- ARRW .add (R244): made as a release. -/
def execArrwAdd (s : State) : Host.Outcome State Fault Refusal :=
  meaning (arrwOp .arrwAdd true (fun w v => Arr.add w v 0)) s

/-- ARRW .tgt (R244). -/
def execArrwTgt (s : State) : Host.Outcome State Fault Refusal := meaning (arrwOp .arrwTgt false Arr.retarget) s

/-- AWAIT (R245). -/
def execAwait (s : State) : Host.Outcome State Fault Refusal := meaning awaitOp s

/-- WDQ (R347). -/
def execWdq (s : State) : Host.Outcome State Fault Refusal := meaning wdqOp s

/-- COPY_PROGRESS (R240): copy, element, and 1 to hold its arrival addition back. -/
def execCopyProgress (s : State) : Host.Outcome State Fault Refusal :=
  event (fun s => match s.occ with
    | .num2 n i => s.copyProgress n i false
    | .num3 n i h => s.copyProgress n i (h == 1)
    | _ => none) s

/-- COPY_COMPLETE (R241): copy n. -/
def execCopyComplete (s : State) : Host.Outcome State Fault Refusal := event1 State.copyComplete s

/-- WDQ_ANSWER (R347): request n. -/
def execWdqAnswer (s : State) : Host.Outcome State Fault Refusal := event1 State.wdqAnswer s

end Sys2Proof.Machine
end

