-- ==== Sys2Proof/Machine/Publish.lean ====
section
/-! DEFINITION. Shadow pairs and publish (R246-R249), messages (R250, R251, R354), and network reductions (R252, R253). -/

namespace Sys2Proof.Machine

/-! ### Windows of a pair -/

/-- The register that holds a VA, and the IA (R147); no permission is asked. -/
def rangeOf (c : Context) (va : Nat) : Option (Nat × RangeReg) :=
  (c.ranges.find? (fun r => Range.v r && decide (Range.vbase r ≤ va ∧ va < Range.vend r))).map
    (fun r => (Range.iabase r + (va - Range.vbase r), r))

/-- The least bound of a valid register above a VA. -/
def nextBound (c : Context) (va hi : Nat) : Nat :=
  c.ranges.foldl (fun m r =>
    if Range.v r then
      let m := if va < Range.vbase r ∧ Range.vbase r < m then Range.vbase r else m
      if va < Range.vend r ∧ Range.vend r < m then Range.vend r else m
    else m) hi

/-- IA ranges of a window of VAs, in order of offset (R247); none where no register holds one. -/
def windowRanges (c : Context) (hi : Nat) : Nat → Nat → Option (List (Nat × Nat))
  | _, 0 => some []
  | va, n + 1 =>
    if hi ≤ va then some []
    else match rangeOf c va with
      | none => none
      | some (ia, _) =>
        let e := nextBound c va hi
        (windowRanges c hi e n).map (fun l => (ia, ia + (e - va)) :: l)

/-- Adjacent ranges joined. -/
def joinRanges : List (Nat × Nat) → List (Nat × Nat)
  | [] => []
  | (a, b) :: r =>
    match joinRanges r with
    | (c, d) :: r' => if b = c then (a, d) :: r' else (a, b) :: (c, d) :: r'
    | [] => [(a, b)]

/-- The IA at an offset of a window. -/
def iaAt : List (Nat × Nat) → Nat → Option Nat
  | [], _ => none
  | (a, b) :: r, o => if o < b - a then some (a + o) else iaAt r (o - (b - a))

/-- Whether two windows share a byte. -/
def rangesMeet (x y : List (Nat × Nat)) : Bool := x.any (fun p => y.any (fun q => decide (p.1 < q.2 ∧ q.1 < p.2)))

/-- What resolving something at the memory side comes to. -/
inductive Found (α : Type) where
  | ok (x : α)
  | fail (code : Nat)
  | park (page cause size : Nat)
  /-- Another device owns it: its id, and the two windows there. -/
  | away (dev : Nat) (target shadow : List (Nat × Nat))
  deriving DecidableEq, Repr

/-- The owning device and the ranges there of a window of peer memory, in units of 64 KiB (R247): each unit's leaf names the device and
the IA. A window of two devices has no one owner and breaks the shape rules (DESIGN CHOICE, entry 26). -/
def State.peerRanges (s : State) (p : Partition) (c : Context) (va : Nat) : Nat → Found (Nat × List (Nat × Nat))
  | 0 => .ok (s.mgmt.fid, [])
  | n + 1 =>
    match rangeOf c va with
    | none => .fail 0x22
    | some (ia, r) =>
      let w := s.walk p ia
      match s.memSide p w ia 1 5 (Range.host r) (Range.peer r) false true none with
      | .park page cause sz => .park page cause (sizeCode sz)
      | .fail t => .fail t.code.toNat
      | .zeros => .park (ia / 2 ^ 16 * 2 ^ 16) 3 0
      | .go leaf phys _ =>
        match s.peerRanges p c (va + 2 ^ 16) n with
        | .ok (dev, l) => if n = 0 ∨ dev = Leaf.dev leaf then .ok (Leaf.dev leaf, (phys, phys + 2 ^ 16) :: l) else .fail 0x84
        | x => x

/-- A shadow pair at its owner: the partition whose publish table holds it, and its two windows. -/
structure PairAt where
  part   : Nat
  target : List (Nat × Nat)
  shadow : List (Nat × Nat)
  deriving DecidableEq, Repr

/-- The shape rules of R246. -/
def pairShape (h : Handle) : Bool :=
  Hnd.base h % 2 ^ 16 == 0 && Hnd.sbase h % 2 ^ 16 == 0 && Hnd.limit h % 2 ^ 16 == 0 && Hnd.limit h != 0 &&
    (decide (Hnd.base h + Hnd.limit h ≤ Hnd.sbase h) || decide (Hnd.sbase h + Hnd.limit h ≤ Hnd.base h))

/-- A pair found at its owner (R247); in peer memory of this device under the export that admits it (R259). -/
def State.pairAt (s : State) (ctx : Nat) (h : Handle) : Found PairAt :=
  if Hnd.kind h ≠ 3 ∨ (Hnd.space h ≠ 0 ∧ Hnd.space h ≠ 5) then .fail 0x24
  else if !pairShape h then .fail 0x84
  else match s.partOf ctx with
    | none => .fail 0x22
    | some (pi, p) =>
      let c := s.context ctx
      let n := Hnd.limit h
      if Hnd.space h = 0 then
        match windowRanges c (Hnd.base h + n) (Hnd.base h) 64, windowRanges c (Hnd.sbase h + n) (Hnd.sbase h) 64 with
        | some t, some d => .ok ⟨pi, joinRanges t, joinRanges d⟩
        | _, _ => .fail 0x22
      else
        match s.peerRanges p c (Hnd.base h) (n / 2 ^ 16), s.peerRanges p c (Hnd.sbase h) (n / 2 ^ 16) with
        | .ok (dev, t), .ok (dev', d) =>
          let t := joinRanges t
          let d := joinRanges d
          if dev ≠ dev' then .fail 0x84
          else if !s.isSelf dev then .away dev t d
          else match s.admitAll ⟨dev, 0, 0, dev, 0, 0, .pair true t d, none, 0⟩ with
            | some q => .ok ⟨q.1, t, d⟩
            | none => .fail 0x50
        | .ok _, .fail code => .fail code
        | .ok _, .park page cause sz => .park page cause sz
        | .ok _, .away dev t d => .away dev t d
        | .fail code, _ => .fail code
        | .park page cause sz, _ => .park page cause sz
        | .away dev t d, _ => .away dev t d

/-- A partition changed. -/
def State.modPart (s : State) (i : Nat) (f : Partition → Partition) : State := { s with parts := s.parts.alter i f }

/-- Whether an open pair is this pair of this context. DESIGN CHOICE, entry 59: the same ranges named by another context are another pair
(R247). -/
def PairAt.is (x : PairAt) (ctx : Nat) (o : OpenPair) : Bool := o.ctx == ctx && o.target == x.target && o.shadow == x.shadow

/-- Its windows meet those of an open pair. -/
def PairAt.meets (x : PairAt) (o : OpenPair) : Bool :=
  rangesMeet x.target o.target || rangesMeet x.target o.shadow || rangesMeet x.shadow o.target || rangesMeet x.shadow o.shadow

/-! ### SHDW (R247) -/

/-- SHDW and PUBL at issue: a handle of space 7 traps (R21); each is a release first (R248), SHDW since its status write is one, and its
fill, where it asks for one, is a copy's (R247, R240). -/
def pubOp (i : Instr) (publ : Bool) : M Unit := do
  let o ← ops
  let u ← unit
  let c := o.c.immVal
  onceOp i shDOnly (fun _ _ => do
    let h := (← get).handleOf u o.x8.toNat
    if Hnd.space h = 7 then stopTrap (accTrap 0x24 1 o.x8.toNat 0)
    release
    awaitReplies 1
    let landing ← landD
    let s ← get
    let n ← freshId
    let op : PubOp := { owner := u, ctx := s.ctxOf u, gid := ← myGrid, core := (s.coreOf u).getD 0, handle := h, publ,
                        scope := c % 8, seed := !publ && bit c 3, fill := none, landing }
    modify (fun s => { s with pubs := s.pubs.put n op }))

/-- An operation of the publish table ends with its status. -/
def State.endPub (s : State) (id : Nat) (op : PubOp) (code line : Nat) : State :=
  ({ s with pubs := s.pubs.del id }).reply op.ctx op.landing (statusWord code line 0) false

/-- The copy that fills a shadow window with its target (R247). -/
def PubOp.fillCopy (op : PubOp) : Copy :=
  { owner := op.owner, ctx := op.ctx, gid := op.gid, core := op.core, scope := op.scope, ord := false,
    record := BitVec.ofNat 1024 (3 * 2 ^ 144), src := op.handle, dst := op.handle, arr := none, landing := .none, done := [],
    total := Hnd.limit op.handle / 8, added := 0, pline := none, seed := true, fail := none }

/-- What an SHDW or a PUBL asks of the device that owns its pair. -/
def PubOp.request (op : PubOp) (sgen : Nat) (target shadow : List (Nat × Nat)) (id : Nat) : Req :=
  { owner := .eng id, ctx := op.ctx, core := noCore, sgen, space := 5, handle := 0, order := 0, cache := 0, loc := 0, size := 0,
    ia := (target.headD (0, 0)).1, host := false, peer := true, ptag := none, kind := .pair op.publ target shadow, cls := 2,
    attr := none, gen := 0, iaddr := 0, lane := 255, rst := false, tagen := false, issue := 0, landing := .none, pusher := [],
    phase := .sent }

/-- The operations of a device's own publish table go on while their context runs or is being halted (R254); what the reply of another
device has brought counts at any time. -/
def State.pubLive (s : State) (op : PubOp) : Bool := s.running op.ctx || (s.context op.ctx).cstate == 2

/-- The owner of a pair in another device's memory asked (R247, R248, R255): a status once its answer is there, or the state in which
the request is on its way; none while it is awaited. A scale-out device turns a PUBL away with 0x24 and an SHDW as REMOTE 0x05
(R273). -/
def State.askOwner (s : State) (id : Nat) (op : PubOp) (dev : Nat) (target shadow : List (Nat × Nat)) : Option (Option Nat × State) :=
  match s.reqs.find? (fun q => q.2.owner == Owner.eng id && q.2.kind.sort == 5) with
  | some (n, q) =>
    match q.phase with
    | .done d _ => some (some (d % 256), { s with reqs := s.reqs.del n })
    | .failed t => some (some t.code.toNat, { s with reqs := s.reqs.del n })
    | _ => none
  | none =>
    let r := op.request (s.context op.ctx).sgen target shadow id
    if !s.pubLive op then none
    else match op.publ, s.route ⟨s.mgmt.fid, 0, 0, dev, r.ia, 0, .load, none, id⟩ with
      | true, .ether _ _ => some (some 0x24, s)
      | _, _ => ({ s with fresh := s.fresh + 1 }.sendRemote s.fresh r dev r.ia).map (fun t => (none, t))

/-- A pair entered in the publish table of its owner for whoever opens it (R247): the status, none while the table is full. -/
def State.openPair (s : State) (who : Nat) (x : PairAt) : Option (Nat × State) :=
  match s.parts.find x.part with
  | none => none
  | some p =>
    if p.pairs.any (x.is who) then some (0x81, s)
    else if rangesMeet x.target x.shadow then some (0x84, s)
    else if p.pairs.any x.meets then some (0x83, s)
    else if p.pairs.length ≥ 64 then none
    else some (0, s.modPart x.part (fun p => { p with pairs := p.pairs ++ [⟨who, x.target, x.shadow⟩] }))

/-- What follows the opening of a pair: the fill that a SHDW .seed asks for, or the status. -/
def State.pairOpened (s : State) (id : Nat) (op : PubOp) (code : Nat) : State :=
  if code = 0 ∧ op.seed then
    { s with copies := s.copies.put s.fresh op.fillCopy, fresh := s.fresh + 1,
             pubs := s.pubs.put id { op with fill := some s.fresh } }
  else s.endPub id op code 0

/-- SHDW_COMPLETE (R247): the pair opens, and once a fill asked for has ended the status is written. -/
def State.shdwComplete (s : State) (id : Nat) : Option State :=
  match s.pubs.find id with
  | none => none
  | some op =>
    if op.publ then none
    else match op.fill with
      | some f =>
        match s.copies.find f with
        | none => none
        | some c =>
          let s' := { s with copies := s.copies.del f, reqs := s.reqs.filter (fun r => r.2.owner != Owner.eng f) }
          match c.fail with
          | some (code, line) => some (s'.endPub id op code line)
          | none =>
            if countDone c.done = c.total then
              some (s'.endPub id op (if c.pline.isSome then 0x11 else 0) (c.pline.getD 0))
            else none
      | none =>
        match s.pairAt op.ctx op.handle with
        | .away dev t d => (s.askOwner id op dev t d).map (fun x => match x.1 with
            | some code => x.2.pairOpened id op code
            | none => x.2)
        | .fail code => some (s.endPub id op code 0)
        | .park page cause sz => if s.pubLive op then some (s.noteOnce id op.ctx page cause sz false) else none
        | .ok x =>
          if s.pubLive op then (s.openPair op.ctx x).map (fun y => y.2.pairOpened id op y.1) else none

/-! ### PUBL (R248, R249) -/

/-- Address of the entry that ends a walk. -/
def State.leafAddr (s : State) (key ia node : Nat) : List (Nat × Nat) → Option Nat
  | [] => none
  | (lo, n) :: rest =>
    let a := node + 8 * bits ia (lo + n - 1) lo
    match s.readNode a key with
    | none => none
    | some e => if bit e 0 then some a else s.leafAddr key ia (bits e 51 8 * 256) rest

/-- An entry of a node written. -/
def State.writeNode (s : State) (addr key v : Nat) : State :=
  let x := s.readSector (addr / 32 * 32) key
  s.writeSector (addr / 32 * 32) key (patch x.1 (addr % 32) 8 v) x.2

/-- The valid leaf of an IA of the owner, whatever its class and key: its entry and log2 of its page size (R248). -/
def State.validLeaf (s : State) (p : Partition) (ia : Nat) : Found (Nat × Nat) :=
  match s.governs (s.walk p ia) ia with
  | .malformed => .fail 0x22
  | .absent sz => if (p.domainOf ia).isNone then .fail 0x22 else .park (ia / 2 ^ sz * 2 ^ sz) 1 (sizeCode sz)
  | .leaf e sz =>
    if (p.domainOf ia).isNone then .fail 0x22
    else if Leaf.state e = 0 then .ok (e, sz)
    else .park (ia / 2 ^ sz * 2 ^ sz) (Leaf.state e) (sizeCode sz)

/-- Whether the partition may use a page that it publishes: local memory, under a key of its own (R150). -/
def State.ownLeaf (s : State) (p : Partition) (ia : Nat) : Bool :=
  match s.memSide p (s.walk p ia) ia 1 0 false false false true none with
  | .fail _ => false
  | _ => true

/-- Pages of a pair from an offset on: IAs of target and shadow page; 0x84 where they disagree, and then 0x22 for a page that is not the
partition's own (R248; the latter DEDUCED, entry 26). -/
def State.pairPages (s : State) (p : Partition) (x : PairAt) (limit : Nat) : Nat → Nat → Found (List (Nat × Nat × Nat))
  | _, 0 => .ok []
  | o, n + 1 =>
    if limit ≤ o then .ok []
    else match iaAt x.target o, iaAt x.shadow o with
      | some ta, some sa =>
        match s.validLeaf p ta with
        | .ok (te, tz) =>
          match s.validLeaf p sa with
          | .ok (se, sz) =>
            let whole (r : List (Nat × Nat)) (a : Nat) : Bool :=
              a % 2 ^ tz == 0 && iaAt r (o + 2 ^ tz - 1) == some (a + 2 ^ tz - 1)
            if tz ≠ sz ∨ Leaf.cls te ≠ Leaf.cls se ∨ Leaf.key te ≠ Leaf.key se ∨ Leaf.tagen te ≠ Leaf.tagen se ∨
                o % 2 ^ tz ≠ 0 ∨ limit < o + 2 ^ tz ∨ !whole x.target ta ∨ !whole x.shadow sa then .fail 0x84
            else if !s.ownLeaf p ta || !s.ownLeaf p sa then .fail 0x22
            else match s.pairPages p x limit (o + 2 ^ tz) n with
              | .ok l => .ok ((ta, sa, tz) :: l)
              | y => y
          | .fail c => .fail c
          | .park a b c => .park a b c
          | .away a b c => .away a b c
        | .fail c => .fail c
        | .park a b c => .park a b c
        | .away a b c => .away a b c
      | _, _ => .fail 0x22

/-- The frames of two leaves exchanged (R248). -/
def State.exchange (s : State) (p : Partition) (ta sa : Nat) : State :=
  let key := Desc.ptkey p.desc
  let root := Desc.ptroot p.desc
  match s.leafAddr key ta root walkLevels, s.leafAddr key sa root walkLevels with
  | some x, some y =>
    match s.readNode x key, s.readNode y key with
    | some e, some f =>
      let rest (v : Nat) : Nat := v - bits v 51 16 * 2 ^ 16
      (s.writeNode x key (rest e + Leaf.frame f)).writeNode y key (rest f + Leaf.frame e)
    | _, _ => s
  | _, _ => s

/-- Whether [a, a + n) meets a list of ranges. -/
def inRanges (l : List (Nat × Nat)) (a n : Nat) : Bool := l.any (fun r => decide (a < r.2 ∧ r.1 < a + n))

/-- Sectors of ranges written back and dropped from every slice. -/
def State.dropRanges (s : State) (l : List (Nat × Nat)) : State :=
  (s.l2.filter (fun x => inRanges l (32 * x.1) 32)).foldl (fun s x => s.dropSector x.1) s

/-- Ranges of IAs invalidated in the walk caches of a partition, every slice and every L1 (R248). -/
def State.invalRanges (s : State) (pi : Nat) (l : List (Nat × Nat)) : State :=
  let s := s.dropRanges l
  { s with
    walkc := s.walkc.filter (fun x => !(walkPart x.1 == pi && inRanges l (walkIA x.1) (2 ^ 16)))
    cores := s.cores.map (fun c => (c.1, { c.2 with l1 := c.2.l1.filter (fun x => !inRanges l (64 * x.1) 64) })) }

/-- What publishing a pair comes to. -/
inductive Published where
  | done (code : Nat) (s : State)
  | park (page cause size : Nat)
  /-- Another device owns the pair. -/
  | away (dev : Nat) (target shadow : List (Nat × Nat))

/-- The checks of R248 at the owner, then the exchange of every leaf's frame in one step; the pair, which is open for this opener,
closes. -/
def State.publishAt (s : State) (who : Nat) (x : PairAt) (limit : Nat) : Published :=
  match s.parts.find x.part with
  | none => .done 0x22 s
  | some p =>
    if !p.pairs.any (x.is who) then .done 0x82 s
    else
      match s.pairPages p x limit 0 (limit / 2 ^ 16) with
      | .fail code => .done code s
      | .park page cause sz => .park page cause sz
      | .away dev t d => .away dev t d
      | .ok pages =>
        let s := s.invalRanges x.part (x.target ++ x.shadow)
        let s := pages.foldl (fun s q => s.exchange p q.1 q.2.1) s
        .done 0 (s.modPart x.part (fun p => { p with pairs := p.pairs.filter (fun o => !x.is who o) }))

/-- The pair of a handle published for a context. -/
def State.publish (s : State) (ctx : Nat) (h : Handle) : Published :=
  match s.pairAt ctx h with
  | .fail code => .done code s
  | .park page cause sz => .park page cause sz
  | .away dev t d => .away dev t d
  | .ok x => s.publishAt ctx x (Hnd.limit h)

/-- The lines of a pair's two windows that this device holds are given up: those of peer memory, which a PUBL of this device covers
(R258). -/
def State.dropPair (s : State) (ctx : Nat) (h : Handle) : State :=
  let w (a : Nat) : List (Nat × Nat) := (windowRanges (s.context ctx) (a + Hnd.limit h) a 64).getD []
  match s.partOf ctx with
  | some (pi, _) => if Hnd.space h = 5 then s.invalRanges pi (w (Hnd.base h) ++ w (Hnd.sbase h)) else s
  | none => s

/-- PUBL_EXCHANGE (R248): the exchange, and the status. -/
def State.publExchange (s : State) (id : Nat) : Option State :=
  match s.pubs.find id with
  | none => none
  | some op =>
    let fin (t : State) (code : Nat) : State :=
      (if code = 0 then t.dropPair op.ctx op.handle else t).endPub id op code 0
    if ¬op.publ then none
    else if Hnd.space op.handle = 5 ∧ op.scope = 4 then some (fin s 0x24)
    else
      match s.publish op.ctx op.handle with
      | .away dev t d => (s.askOwner id op dev t d).map (fun x => match x.1 with
          | some code => fin x.2 code
          | none => x.2)
      | .done code t => if s.pubLive op then some (fin t code) else none
      | .park page cause sz => if s.pubLive op then some (s.noteOnce id op.ctx page cause sz true) else none

/-! ### Publish operations of other devices (R247, R248, R255) -/

/-- Who holds a pair that another device opened. -/
def openerOf (dev : Nat) : Nat := 256 + dev

/-- The i-th request held here, when it is a publish operation of another device, and the list without it. -/
def State.inboundPair (s : State) (i : Nat) (publ : Bool) : Option (Inbound × PairAt × State) :=
  match s.inbound[i]? with
  | some q =>
    match q.pkt.kind with
    | .pair b t d => if b = publ then some (q, ⟨q.part, t, d⟩, { s with inbound := s.inbound.eraseIdx i }) else none
    | _ => none
  | none => none

/-- A device's publish operation answered with its status. -/
def State.answerPair (s : State) (q : Inbound) (code : Nat) : State := s.answer q.pkt (.ok code false)

/-- SHDW_COMPLETE for a pair that another device opens here (R247). -/
def State.inboundShdw (s : State) (i : Nat) : Option State :=
  (s.inboundPair i false).bind (fun (q, x, t) => (t.openPair (openerOf q.pkt.src) x).map (fun y => y.2.answerPair q y.1))

/-- PUBL_EXCHANGE for a pair that another device publishes here (R248): it parks with a record and a notice (R257). -/
def State.inboundPubl (s : State) (i : Nat) : Option State :=
  (s.inboundPair i true).bind (fun (q, x, t) =>
    match t.publishAt (openerOf q.pkt.src) x (x.target.foldl (fun n r => n + (r.2 - r.1)) 0) with
    | .done code u => some (u.answerPair q code)
    | .park page cause sz =>
      if q.page = some page then none
      else some ({ s.noteFault q.fctx page cause sz true with
        inbound := s.inbound.modify i (fun q => { q with page := some page }) }.notice q.pkt)
    | .away _ _ _ => none)

/-! ### Messages (R250, R251) -/

namespace Ring
/-- Fields of a ring header. -/
def base (h : Nat) : Nat := bits h 31 0
def size (h : Nat) : Nat := bits h 63 32
def slot (h : Nat) : Nat := 2 ^ (bits h 66 64 + 4)
def head (h : Nat) : Nat := bits h 159 128
def tail (h : Nat) : Nat := bits h 191 160

/-- Whether a header is well formed for a window and a message length. -/
def ok (h window len : Nat) : Bool :=
  decide (bits h 66 64 ≤ 4) && bits h 127 67 == 0 && bits h 255 192 == 0 && base h % slot h == 0 &&
    decide (slot h ≤ size h ∧ size h ≤ 65536 ∧ base h + size h ≤ window) &&
    size h == 2 ^ (size h).log2 && len == slot h
end Ring

/-- MSG (R251). -/
def msgOp : M Unit := do
  let o ← ops
  let u ← unit
  onceOp .msg {} (fun v m => do
    trapIf (v.c m).poison 0x11 1
    let w := (v.a m).bits.toNat % 2 ^ 32
    let len := 16 * (bits w 19 16 + 1)
    let a ← oneAccess { hidx := o.x8.toNat, spaces := [1], kinds := [0], size := len, align := 16, offAlign := 16, need := .rd } v false
    release
    let x ← doOwnN ((← get).reqOf u a .load (← here) 255 .none)
    let s ← get
    let words := (List.range (len / 4)).filter (fun i => (s.readStore (a.addr + 4 * i) 4).2)
    waitUnless (decide ((s.msgs.filter (fun q => q.2.owner == u)).length < 8)) .messages
    awaitReplies 1
    let g := (← myGrid).getD 0
    let teams := match s.grids.find g with
      | some g => g.count * LRec.perCohort g.record
      | none => 0
    let landing ← landD
    let n ← freshId
    let op : Msg :=
      { owner := u, ctx := s.ctxOf u, gid := g, target := bits w 15 0, hdr := (v.c m).bits.toNat % 2 ^ 32,
        data := (List.range len).map (fun i => BitVec.ofNat 8 (x.1 / 2 ^ (8 * i))), poison := words,
        bad := bits w 31 20 != 0 || decide (teams ≤ bits w 15 0), tainted := (v.a m).poison, landing, arrived := false,
        blockedAt := some s.now }
    modify (fun s => { s with msgs := s.msgs.put n op }))

/-- A message ends with its status; where poison reached the ring, with the first line of the message that holds any (R238). -/
def State.endMsg (s : State) (id : Nat) (m : Msg) (code : Nat) : State :=
  let line := if code = 0x11 then m.poison.headD 0 / 16 else 0
  ({ s with msgs := s.msgs.del id }).reply m.ctx m.landing (if m.tainted then 0 else statusWord code line 0) m.tainted

/-- The words of a message written from a place in a store on, the poisoned ones with the marker (R251, R405, R406). -/
def State.putWords (s : State) (k : Nat) (m : Msg) : State :=
  (List.range (m.data.length / 4)).foldl (fun s i =>
    s.writeStore (k + 4 * i) 4 (((m.data.drop (4 * i)).take 4).foldr (fun b n => b.toNat + 256 * n) 0) (m.poison.contains i)) s

/-- The resident team a message goes to. -/
def State.msgTeam (s : State) (m : Msg) : Option Team :=
  (s.teams.find? (fun t => t.2.gid == m.gid && t.2.team == m.target && t.2.placed)).map (·.2)

/-- Bytes of a team's window. -/
def State.windowBytes (s : State) (t : Team) : Nat := 64 * LRec.spw (s.recordOf t)

/-- Key of a place in a team's window, on its first core. -/
def teamKey (t : Team) (off : Nat) : Nat := (Loc.spad t.core (64 * t.spbase + off)).key

/-- Whether an earlier message of the same thread to the same ring still goes before. -/
def State.msgBehind (s : State) (id : Nat) (m : Msg) (p : Msg → Bool) : Bool :=
  s.msgs.any (fun q => decide (q.1 < id) && q.2.owner == m.owner && q.2.target == m.target && q.2.hdr == m.hdr && p q.2)

/-- MSG_ARRIVAL (R251): the receiving network interface checks a message. -/
def State.msgArrival (s : State) (id : Nat) : Option State :=
  match s.msgs.find id with
  | none => none
  | some m =>
    if m.arrived ∨ s.msgBehind id m (fun q => !q.arrived) then none
    else if m.bad then some (s.endMsg id m 0x88)
    else match s.msgTeam m with
      | none => if s.running m.ctx then some (s.endMsg id m 0x89) else none
      | some t =>
        let w := s.windowBytes t
        let h := s.readStore (teamKey t m.hdr) 32
        if m.hdr % 32 ≠ 0 ∨ w < m.hdr + 32 ∨ h.2 ∨ !Ring.ok h.1 w m.data.length then some (s.endMsg id m 0x88)
        else some { s with msgs := s.msgs.put id { m with arrived := true } }

/-- MSG_DELIVER (R251): once the ring has room the message is written and tail advances. -/
def State.msgDeliver (s : State) (id : Nat) : Option State :=
  match s.msgs.find id with
  | none => none
  | some m =>
    if ¬m.arrived ∨ s.msgBehind id m (fun _ => true) then none
    else match s.msgTeam m with
      | none => none
      | some t =>
        let h := (s.readStore (teamKey t m.hdr) 32).1
        if wrapN ((Ring.tail h : Int) - (Ring.head h : Int)) 32 ≤ Ring.size h - Ring.slot h ∧ Ring.size h ≠ 0 then
          let k := teamKey t (Ring.base h + Ring.tail h % Ring.size h)
          let s := s.putWords k m
          let s := s.writeStore (teamKey t (m.hdr + 20)) 4 ((Ring.tail h + Ring.slot h) % 2 ^ 32) false
          some (s.endMsg id m (if m.poison = [] then 0 else 0x11))
        else none

/-- MESSAGE_PROBE_TIMEOUT (R354): a packet blocked for 4096 clocks sends a probe, which ends without effect where the packet
waits for ring space. -/
def State.probeMsg (s : State) (id : Nat) : Option State :=
  match s.msgs.find id with
  | none => none
  | some m => match m.blockedAt with
    | none => none
    | some b =>
      if s.now < b + 4096 then none
      else some { s with msgs := s.msgs.put id { m with blockedAt := if m.arrived then some s.now else none } }

/-- ESCAPE_STEP (R354): every packet of the cycle advances one hop; their order and their contents stay. -/
def State.escape (s : State) (ids : List Nat) : Option State :=
  if ids ≠ [] ∧ ids.all (fun i => (s.msgs.find i).elim false (fun m => !m.arrived && m.blockedAt.isNone)) then
    some (ids.foldl (fun s i => { s with msgs := s.msgs.alter i (fun m => { m with blockedAt := some s.now }) }) s)
  else none

/-! ### Network reductions (R252, R253) -/

/-- NRED (R252). -/
def nredOp : M Unit := do
  let o ← ops
  let u ← unit
  let c := o.c.immVal
  onceOp .nred shDAB (fun v m => do
    let h := (← get).handleOf u o.x8.toNat
    let size := 2 ^ Hnd.ew h
    let a ← oneAccess { hidx := o.x8.toNat, spaces := [1], kinds := [0], widths := [2, 3], size, align := size, need := .both }
      v false
    let n := bits c 6 4
    let tag := v.a m
    if n = 0 then writeStatus 0x85 tag.poison
    else if n = 1 then writeStatus 0 tag.poison
    else if n > 4 then writeStatus 0x86 tag.poison
    else do
      release
      let x ← doOwn ((← get).reqOf u a .load (← here) 255 .none)
      awaitReplies 1
      let landing ← landD
      let s ← get
      let k ← freshId
      let op : NredOp :=
        { owner := u, ctx := s.ctxOf u, gid := (← myGrid).getD 0, tag := tag.w32, op := bits c 3 0, width := 8 * size, n,
          cluster := (s.coreOf u).getD 0 / 256, core := a.core, cell := a.loc, value := x.bits, poison := x.poison,
          tainted := tag.poison, landing, joined := false }
      modify (fun s => { s with nreds := s.nreds.put k op }))

/-- A contribution ends with its status. The result is an acquire, whatever the destination (R253). -/
def State.endNred (s : State) (id : Nat) (q : NredOp) (code : Nat) : State :=
  (({ s with nreds := s.nreds.del id } : State).seenBy q.owner).reply q.ctx q.landing (if q.tainted then 0 else statusWord code 0 0) q.tainted

/-- The open round that a contribution belongs to: the members that have joined. -/
def State.round (s : State) (q : NredOp) : List (Nat × NredOp) :=
  s.nreds.filter (fun x => x.2.joined && x.2.ctx == q.ctx && x.2.gid == q.gid && x.2.tag == q.tag)

/-- The values of a round by ascending cluster, combined in the tree of R253. -/
def roundResult (op w : Nat) (l : List NredOp) : Nat :=
  let byCluster := (List.range 4).filterMap (fun c => l.find? (fun q => q.cluster == c))
  (treeReduce (fun x y => ⟨atomicNew op w x y 0, 0⟩) 4 (byCluster.map (fun q => q.value.toNat % 2 ^ w))).1

/-- NRED_CONTRIBUTION (R253): the slice takes a contribution, and ends the round with its last. -/
def State.nredContribute (s : State) (id : Nat) : Option State :=
  match s.nreds.find id with
  | none => none
  | some q =>
    if q.joined ∨ ¬(s.running q.ctx || (s.context q.ctx).cstate == 2) then none
    else
      let r := s.round q
      let clash := match r with
        | (_, f) :: _ => f.op != q.op || f.width != q.width || f.n != q.n
        | [] => false
      if clash then some (s.endNred id q 0x87)
      else if r.any (fun x => x.2.cluster == q.cluster) then none
      else
        let all := r ++ [(id, q)]
        if all.length < q.n then some { s with nreds := s.nreds.put id { q with joined := true } }
        else
          let bad := all.any (fun x => x.2.poison)
          let v := if bad then 0 else roundResult q.op q.width (all.map (·.2))
          let s := all.foldl (fun s x => s.writeStore (s.windowKey x.2.owner x.2.cell) (q.width / 8) v bad) s
          some (all.foldl (fun s x => s.endNred x.1 x.2 (if bad then 0x11 else 0)) s)

/-! ### Meanings -/

/-- SHDW (R247). -/
def execShdw (s : State) : Host.Outcome State Fault Refusal := meaning (pubOp .shdw false) s

/-- PUBL (R248). -/
def execPubl (s : State) : Host.Outcome State Fault Refusal := meaning (pubOp .publ true) s

/-- MSG (R251). -/
def execMsg (s : State) : Host.Outcome State Fault Refusal := meaning msgOp s

/-- NRED (R252). -/
def execNred (s : State) : Host.Outcome State Fault Refusal := meaning nredOp s

/-- SHDW_COMPLETE (R247): operation n; with a second number 1 the n-th request held for other devices. -/
def execShdwComplete (s : State) : Host.Outcome State Fault Refusal :=
  event1 (fun s n => if occTwo s.occ = 1 then s.inboundShdw n else s.shdwComplete n) s

/-- PUBL_EXCHANGE (R248): operation n, likewise. -/
def execPublExchange (s : State) : Host.Outcome State Fault Refusal :=
  event1 (fun s n => if occTwo s.occ = 1 then s.inboundPubl n else s.publExchange n) s

/-- MSG_ARRIVAL (R251): message n. -/
def execMsgArrival (s : State) : Host.Outcome State Fault Refusal := event1 State.msgArrival s

/-- MSG_DELIVER (R251): message n. -/
def execMsgDeliver (s : State) : Host.Outcome State Fault Refusal := event1 State.msgDeliver s

/-- MESSAGE_PROBE_TIMEOUT (R354): message n. -/
def execMessageProbeTimeout (s : State) : Host.Outcome State Fault Refusal := event1 State.probeMsg s

/-- ESCAPE_STEP (R354): the messages of a cycle. -/
def execEscapeStep (s : State) : Host.Outcome State Fault Refusal :=
  event (fun s => match s.occ with
    | .nums l => s.escape l
    | _ => none) s

/-- NRED_CONTRIBUTION (R253): contribution n. -/
def execNredContribution (s : State) : Host.Outcome State Fault Refusal := event1 State.nredContribute s

end Sys2Proof.Machine
end

