-- ==== Sys2Proof/Machine/Sync.lean ====
section
/-! DEFINITION. FENCE (R235), barriers (R344, R345), and the semaphore instructions of a kernel (R326, R327). -/

namespace Sys2Proof.Machine

/-! ### FENCE (R235) -/

/-- Whether a mask of kinds and classes names an access: a page attribute that is not known yet may be any kind, and a push is of every
class (R199). -/
def maskNames (m : Nat) (r : Req) : Bool :=
  (if r.cls = 4 then m / 8 % 16 != 0 else bit m (r.cls + 3)) ||
    (globalSpace r.space && match r.attr with
      | none => m % 8 != 0
      | some a => bit m (if a = 0 then 0 else if a = 2 then 1 else 2))

/-- What a fence waits for among the earlier accesses of its unit: every one for a full or release fence, what reads for an
acquire (R235). -/
def State.fenced (s : State) (u : Agent) (m sem : Nat) : Bool :=
  let mine (r : Req) : Bool := r.owner == .unit u && maskNames m r
  s.reqs.all (fun q => !q.2.open || !mine q.2 || (sem == 1 && !q.2.loads)) &&
    (sem == 1 || match s.ctl u with
      | some c => c.sbuf.all (fun q => !maskNames m q.2) &&
          (List.range 4).all (fun i => !bit m (i + 3) || c.unack.getD i 0 == 0)
      | none => true)

/-- Whether a FENCE takes a deferred fault: a full or release one those whose class its mask names (R235), and one of any kind those of
stores that a pattern engine made (R200; DEDUCED, entry 29). -/
def fenceTakes (m sem : Nat) (d : Deferred) : Bool := d.kind == 0 || (sem != 1 && bit m (d.cls + 3))

/-- FENCE (R235). -/
def fenceOp : M Unit :=
  insn .fence noShape (do
    let o ← ops
    let sem := o.a.immVal % 4
    let m := o.c.immVal
    let u ← unit
    waitUnless ((← get).fenced u m sem) (.counters m true)
    takeDeferred (fenceTakes m sem)
    (if sem = 2 then pure () else renewL1 (o.x8.toNat % 8)))

/-! ### Barriers (R344, R345) -/

/-- Whether a phase is complete: its count of arrivals, or every live thread where the count is 0 or beyond the team. -/
def State.phaseDone (s : State) (tm : Nat) (b : Barrier) : Bool :=
  let n := (s.teams.find tm).elim 0 (fun t => 16 * t.strips)
  if b.count = 0 ∨ n < b.count then
    (List.range n).all (fun i => b.arrived.has i || !(s.exs.find (exKey tm i)).elim false ExThread.live)
  else decide (b.count ≤ b.total)

/-- BAR (R345): an arrival in a phase that is not complete; .wait then waits for the phase's end. -/
def barOp (i : Instr) (waits : Bool) : M Unit := do
  let sh : Shape := { d := 0, c := 0 }
  insn i sh (do
    let v ← fetch sh .int
    let n := (v.b 0).bits.toNat % 16
    release
    match ← unit with
    | .ex tm tid =>
      let t ← team
      let old := t.barriers.find n
      let s ← get
      waitUnless (match old with
        | some b => !s.phaseDone tm b
        | none => true) (.barrier n)
      let b := old.getD { count := (v.a 0).bits.toNat % 2 ^ 32 }
      let b' : Barrier := { b with arrived := b.arrived.add tid, total := b.total + 1,
                                   waiters := if waits then b.waiters.add tid else b.waiters }
      modify (fun s => s.modTeam tm (fun t => { t with barriers := t.barriers.put n b' }))
      if waits then stay i (.barrier n) else pure ()
    | _ => pure ())

/-- BARRIER_PHASE_COMPLETE (R345): the phase ends and its waiters go on. -/
def State.barrierComplete (s : State) (tm n : Nat) : Option State :=
  match (s.teams.find tm).bind (fun t => t.barriers.find n) with
  | none => none
  | some b =>
    if s.phaseDone tm b ∧ b.total ≠ 0 then
      some (b.waiters.foldl (fun s i => s.finishEx tm i) (s.modTeam tm (fun t => { t with barriers := t.barriers.del n })))
    else none

/-- CBAR and GBAR (R344): the thread arrives and waits. -/
def wideBarOp (i : Instr) (w : Wait) (arrive : Nat → Team → Team) : M Unit :=
  insn i noShape (do
    release
    match ← unit with
    | .ex tm tid =>
      modify (fun s => s.modTeam tm (arrive tid))
      stay i w
    | _ => pure ())

/-- Whether every live thread of a team has arrived; one not started yet has not. -/
def State.allArrived (s : State) (tm : Nat) (t : Team) (a : NatSet) : Bool :=
  t.started && (List.range (16 * t.strips)).all (fun i => a.has i || !(s.exs.find (exKey tm i)).elim false ExThread.live)

/-- COHORT_BARRIER_RELEASE (R345). -/
def State.cohortRelease (s : State) (gid cohort : Nat) : Option State :=
  let ts := s.teams.filter (fun t => t.2.gid == gid && t.2.cohort == cohort)
  if ts.any (fun t => t.2.cbarrier != []) ∧ ts.all (fun t => s.allArrived t.1 t.2 t.2.cbarrier) then
    some (ts.foldl (fun s t => t.2.cbarrier.foldl (fun s i => s.finishEx t.1 i)
      (s.modTeam t.1 (fun t => { t with cbarrier := [] }))) s)
  else none

/-- GRID_BARRIER_RELEASE (R345). -/
def State.gridRelease (s : State) (gid : Nat) : Option State :=
  let ts := s.teams.filter (fun t => t.2.gid == gid)
  if ts.any (fun t => t.2.gbarrier != []) ∧ ts.all (fun t => s.allArrived t.1 t.2 t.2.gbarrier) ∧
      (s.grids.find gid).elim false (fun g => g.admitted == g.count) then
    some (ts.foldl (fun s t => t.2.gbarrier.foldl (fun s i => s.finishEx t.1 i)
      (s.modTeam t.1 (fun t => { t with gbarrier := [] }))) s)
  else none

/-! ### Semaphores (R326, R327) -/

/-- What the semaphore instructions ask of their handle. -/
def semWant (hidx : Nat) (need : Need) : Want :=
  { hidx, spaces := [0], kinds := [0, 1], size := 8, align := 8, need, sem := true }

/-- The semaphore an instruction names: a location outside the window fails SPACE 0x08, before its alignment (R326). -/
def semIndex (v : Opnds) (data : Bool) : M Nat := do
  let o ← ops
  let ps ← spots (semWant o.x8.toNat .both) v (← onceLane) false data false
  match ps with
  | (_, p) :: _ =>
    (if semBase ≤ p.loc ∧ p.loc + 8 ≤ 2 ^ 64 then pure () else stopTrap (accTrap 0x24 8 p.hidx p.loc))
    orTrap p.aligned
    orTrap p.bounded
    pure ((p.loc - semBase) / 8)
  | [] => throw (Stop.fault .noUnit)

/-- A semaphore set. -/
def State.setSem (s : State) (ctx i : Nat) (v : W64) : State := s.modCtx ctx (fun c => { c with sems := c.sems.put i v })

/-- SEMS and SEMI (R327): the new value from the old one and the operand. -/
def semSetOp (i : Instr) (f : W64 → W64 → W64) : M Unit := do
  let sh : Shape := { d := 0, a := 2, c := 0 }
  insn i sh (do
    let v ← fetch sh .int
    let n ← semIndex v true
    release
    let u ← unit
    let x := (v.a (lowLane (← lanes))).bits
    modify (fun s => s.setSem (s.ctxOf u) n (f (s.sem (s.ctxOf u) n) x)))

/-- SEMWK (R327). -/
def semwkOp : M Unit := do
  let o ← ops
  let sh : Shape := { d := 2, a := 2, c := 0 }
  insn .semwk sh (do
    let v ← fetch sh .int
    let x := v.a (lowLane (← lanes))
    condPoison x
    let n ← semIndex v false
    let u ← unit
    let s ← get
    let y := s.sem (s.ctxOf u) n
    waitUnless (decide (x.bits.toNat ≤ y.toNat)) (.sem n x.bits)
    acquire (o.c.immVal % 8)
    writeD 2 (fun _ => Val.of y))

/-- A unit that waits is ready to try its instruction again. -/
def State.wake (s : State) (u : Agent) : State := s.modCtl u (fun c => { c with status := .ready, readySince := s.now })

/-- SEMAPHORE_WAIT_SATISFIED (R327): a unit's semaphore has reached its value, and the unit ends its instruction when it next
issues. -/
def State.semSatisfied (s : State) (u : Agent) : Option State :=
  match (s.ctl u).map Ctl.status with
  | some (Status.waiting (Wait.sem i v) _) => if v.toNat ≤ (s.sem (s.ctxOf u) i).toNat then some (s.wake u) else none
  | _ => none

/-! ### Meanings -/

/-- FENCE (R235). -/
def execFence (s : State) : Host.Outcome State Fault Refusal := meaning fenceOp s

/-- BAR .wait (R345). -/
def execBarWait (s : State) : Host.Outcome State Fault Refusal := meaning (barOp .barWait true) s

/-- BAR .arr (R345). -/
def execBarArr (s : State) : Host.Outcome State Fault Refusal := meaning (barOp .barArr false) s

/-- CBAR (R345). -/
def execCbar (s : State) : Host.Outcome State Fault Refusal :=
  meaning (wideBarOp .cbar .cbar (fun i t => { t with cbarrier := t.cbarrier.add i })) s

/-- GBAR (R345). -/
def execGbar (s : State) : Host.Outcome State Fault Refusal :=
  meaning (wideBarOp .gbar .gbar (fun i t => { t with gbarrier := t.gbarrier.add i })) s

/-- SEMS (R327). -/
def execSems (s : State) : Host.Outcome State Fault Refusal := meaning (semSetOp .sems (fun _ v => v)) s

/-- SEMI (R327). -/
def execSemi (s : State) : Host.Outcome State Fault Refusal := meaning (semSetOp .semi (fun x v => x + v)) s

/-- SEMWK (R327). -/
def execSemwk (s : State) : Host.Outcome State Fault Refusal := meaning semwkOp s

/-- BARRIER_PHASE_COMPLETE (R345): team and barrier. -/
def execBarrierPhaseComplete (s : State) : Host.Outcome State Fault Refusal :=
  event (fun s => match s.occ with
    | .num2 tm n => s.barrierComplete tm n
    | _ => none) s

/-- COHORT_BARRIER_RELEASE (R345): grid and cohort. -/
def execCohortBarrierRelease (s : State) : Host.Outcome State Fault Refusal :=
  event (fun s => match s.occ with
    | .num2 g c => s.cohortRelease g c
    | _ => none) s

/-- GRID_BARRIER_RELEASE (R345): grid. -/
def execGridBarrierRelease (s : State) : Host.Outcome State Fault Refusal := event1 State.gridRelease s

/-- SEMAPHORE_WAIT_SATISFIED (R327): a unit. -/
def execSemaphoreWaitSatisfied (s : State) : Host.Outcome State Fault Refusal :=
  event (fun s => match s.occ with
    | .unit u => s.semSatisfied u
    | _ => none) s

end Sys2Proof.Machine
end

