-- ==== Sys2Proof/Machine/Mma.lean ====
section
/-! DEFINITION. What the matrix engine computes: elements with their scales (R65, R113), the compressed B image (R114, R115),
skipped blocks and strict specials (R117, R118), and accumulation (R119). -/

namespace Sys2Proof.Machine

/-- Bytes of the engine's stores (R12). -/
def tileBytes : Nat := 65536
def wbufBytes : Nat := 65536
def accBytes : Nat := 32768

/-- Bits of an element of a format code (R60, R66). -/
def elemBits (code : Nat) : Nat :=
  match code with
  | 0 | 10 => 32
  | 2 | 3 => 16
  | 4 | 5 | 9 => 8
  | 6 | 7 => 6
  | 8 => 4
  | _ => 64

/-- Whether a format is one of the OCP formats, which take scales (R113). -/
def ocp (code : Nat) : Bool := decide (4 ≤ code ∧ code ≤ 8)

/-- Element i of packed bytes (R66). -/
def elemAt (code data i : Nat) : Nat := data / 2 ^ (elemBits code * i) % 2 ^ elemBits code

/-- One operand element: its value, its integer under INT8, and whether it is poisoned. -/
structure Elem where
  v : FV
  z : Int
  p : Bool
  deriving DecidableEq, Repr

/-- An element under an E8M0 scale (R65); none for 2^0. -/
def scaled (v : FV) (scale : Option Nat) : FV :=
  match scale with
  | none => v
  | some x =>
    if x = 255 then .nan false
    else match v with
      | .fin n m e => .fin n m (e + x - 127)
      | w => w

/-- A pattern as an element (R63-R65). -/
def elemOf (code pattern : Nat) (scale : Option Nat) (poison : Bool) : Elem :=
  if code = 9 then ⟨.fin false 0 0, sext pattern 8, poison⟩
  else ⟨scaled ((fmtOf code).decode pattern) scale, 0, poison⟩

/-- Whether an element is non-finite (R118). -/
def Elem.special (x : Elem) : Bool := x.v.isNan || x.v.isInf

/-! ### The exact sum of a 4-group -/

/-- The exact product of two elements as the FFMA row of R94 takes it. -/
def exactMul (a b : FV) : FV :=
  match a, b with
  | .nan s, .nan t => .nan (s || t)
  | .nan s, _ => .nan s
  | _, .nan t => .nan t
  | .inf x, .inf y => .inf (x != y)
  | .inf x, .fin y m _ => if m = 0 then .nan true else .inf (x != y)
  | .fin x m _, .inf y => if m = 0 then .nan true else .inf (x != y)
  | .fin n1 m1 e1, .fin n2 m2 e2 => .fin (n1 != n2) (m1 * m2) (e1 + e2)

/-- The exact sum of the products of a group, and NV when an operand is signalling or the sum is invalid; a NaN operand comes
before an invalid sum (R94, R119). -/
def groupSum (l : List (FV × FV)) : FV × FlagSet :=
  let signalling := l.any (fun x => x.1.isSnan || x.2.isSnan)
  let ps := l.map (fun x => exactMul x.1 x.2)
  if l.any (fun x => x.1.isNan || x.2.isNan) then (.nan false, if signalling then fNV else 0)
  else if ps.any FV.isNan || (ps.any (fun x => x.isInf && x.neg) && ps.any (fun x => x.isInf && !x.neg)) then (.nan false, fNV)
  else match ps.find? FV.isInf with
    | some x => (x, 0)
    | none =>
      match ps with
      | [] => (.fin false 0 0, 0)
      | p :: rest =>
        (rest.foldl (fun a b => match a, b with
          | .fin n1 m1 e1, .fin n2 m2 e2 => let r := addExact 0 n1 m1 e1 n2 m2 e2; .fin r.1 r.2.1 r.2.2
          | a, _ => a) p, 0)

/-- Whether a binary32 pattern is subnormal. -/
def subnormal32 (w : Nat) : Bool := bits w 30 23 == 0 && bits w 22 0 != 0

/-- A zero of a pattern's sign. -/
def zeroOf (w : Nat) : Nat := if bit w 31 then 2 ^ 31 else 0

/-- One addition of R119 to an accumulator word. -/
def accStep (flush : Bool) (w : Nat) (l : List (FV × FV)) : Nat × FlagSet :=
  let w0 := if flush && subnormal32 w then zeroOf w else w
  let t := groupSum l
  let r := binary32.addV 0 (binary32.decode w0) t.1
  if flush && subnormal32 r.bits then (zeroOf r.bits, r.flags ||| t.2 ||| fUF ||| fNX) else (r.bits, r.flags ||| t.2)

/-! ### One chunk -/

/-- What a chunk's sum needs: rows, formats, elements of A by row and K, elements of B by K and stored column (none where the
block is skipped), and the column map. -/
structure ChunkIn where
  rows  : Nat
  int8  : Bool
  flush : Bool
  a     : Nat → Nat → Elem
  b     : Nat → Nat → Option Elem
  cmap  : Nat → Nat

/-- An accumulator word through a chunk: its bits, poison and flags (R119). -/
def ChunkIn.word (x : ChunkIn) (r c : Nat) (w : Nat) (poison : Bool) : Nat × Bool × FlagSet :=
  let cols := (List.range 64).filter (fun s => x.cmap s == c)
  let z := (List.range 16).foldl (fun (acc : Nat × Bool × FlagSet) g =>
    cols.foldl (fun (acc : Nat × Bool × FlagSet) s =>
      let ks := (List.range 4).map (fun i => 4 * g + i)
      let prs := ks.filterMap (fun k => (x.b k s).map (fun e => (x.a r k, e)))
      if prs = [] then acc
      else
        let p := acc.2.1 || prs.any (fun q => q.1.p || q.2.p)
        if x.int8 then
          (satS (sext acc.1 32 + prs.foldl (fun n q => n + q.1.z * q.2.z) 0) 32, p, acc.2.2)
        else
          let y := accStep x.flush acc.1 (prs.map (fun q => (q.1.v, q.2.v)))
          (y.1, p, acc.2.2 ||| y.2)) acc) (w, poison, 0)
  if z.2.1 then (0, true, 0) else z

/-- Columns of D that some computed block feeds. -/
def ChunkIn.columns (x : ChunkIn) : List Nat :=
  (List.range 64).filter (fun c => (List.range 64).any (fun s =>
    x.cmap s == c && (List.range 8).any (fun kb => (x.b (8 * kb) s).isSome)))

/-! ### The compressed image (R114, R115) -/

/-- A record of the image: stored blocks, column map, whether scales follow, and its length. -/
structure Image where
  off    : Nat
  bitmap : Nat
  cmap   : Nat
  scales : Bool
  blocks : Nat
  len    : Nat
  deriving DecidableEq, Repr

/-- Set bits of a number below a bound. -/
def popBelow (v n : Nat) : Nat := ((List.range n).filter (bit v)).length

/-- The record at an offset of the weight buffer; none where it breaks R115. -/
def State.imageAt (s : State) (core off code : Nat) : Option Image :=
  if wbufBytes < off + 64 then none
  else
    let h := s.readStore (Loc.wbuf core off).key 64
    let v := h.1
    let bitmap := bits v 63 0
    let nb := popBelow bitmap 64
    let scales := bit v 456
    let want := (nb * 8 * elemBits code + (if scales then 128 else 0) + 63) / 64
    let plen := bits v 479 464
    if h.2 || bits v 451 448 != code || bits v 455 452 != 0 || bits v 463 457 != 0 || bits v 511 480 != 0 || plen != want ||
        decide (wbufBytes < off + 64 + 64 * plen) then none
    else some ⟨off, bitmap, bits v 447 64, scales, nb, 64 + 64 * plen⟩

/-- Bytes of a store of a core that hold bit range [lo, lo + n) from an offset, as a number, and their poison. -/
def State.bitsAt (s : State) (key lo n : Nat) : Nat × Bool :=
  let b := lo / 8
  let m := (lo + n - 1) / 8 - b + 1
  let x := s.readStore (key + b) m
  (x.1 / 2 ^ (lo % 8) % 2 ^ n, x.2)

/-- Element (k, s) of a chunk in weight mode (R115, R117, R118). -/
def State.imageElem (s : State) (core code : Nat) (im : Image) (useScales : Bool) (strict : Nat → Bool) (k col : Nat) :
    Option Elem :=
  let i := 8 * (col / 8) + k / 8
  let sc : Option (Nat × Bool) :=
    if useScales && im.scales then
      some (s.readStore (Loc.wbuf core (im.off + 64 + im.blocks * 8 * elemBits code + 2 * col + k / 32)).key 1)
    else none
  let bad := sc.elim false (·.2)
  if bit im.bitmap i then
    let x := s.bitsAt (Loc.wbuf core (im.off + 64)).key
      (popBelow im.bitmap i * 64 * elemBits code + elemBits code * (8 * (k % 8) + col % 8)) (elemBits code)
    some (elemOf code x.1 (sc.map (·.1)) (x.2 || bad))
  else if strict (k / 8) then some (elemOf code 0 (sc.map (·.1)) bad)
  else none

/-! ### Tile records (R118) -/

/-- Bytes of a tile row. -/
def tileRow (k fmt : Nat) : Nat := k * elemBits fmt / 8

/-- A tile record after a write of [lo, hi) of the tile store by something else; none when nothing of it is left. -/
def TileRec.written (t : TileRec) (lo hi : Nat) : Option TileRec :=
  let e := t.off + t.rows * tileRow t.k t.fmt
  if lo ≤ t.off ∧ e ≤ hi then none
  else if lo < e ∧ t.off < hi then some { t with stale := (lo, hi) :: t.stale }
  else some t

/-- A write of the tile store by anything but the MLDT of a record. -/
def State.tileWritten (s : State) (core lo hi : Nat) : State :=
  s.modCore core (fun c => { c with tiles := c.tiles.filterMap (fun t => t.written lo hi) })

/-- Whether the flags of a record stand for an A tile (R118): then its blocks' non-finite flags are those of its bytes. -/
def TileRec.trusted (t : TileRec) (oa rows k fmt : Nat) : Bool :=
  t.off == oa && t.k == k && t.fmt == fmt && decide (rows ≤ t.rows) &&
    t.stale.all (fun r => decide (oa + rows * tileRow k fmt ≤ r.1 ∨ r.2 ≤ oa))

end Sys2Proof.Machine
end

