-- ==== Sys2Proof/Machine/Matrix.lean ====
section
/-! DEFINITION. The matrix engine's instructions and events (R103-R130). -/

namespace Sys2Proof.Machine

/-! ### Ownership (R103-R105, R125) -/

/-- The core whose engine the current team owns; MTXOWN 0x01 otherwise (R105). -/
def own : M Nat := do
  let c ← core
  match ← unit with
  | .ex tm _ => ownEngine tm c
  | _ => pure ()
  pure c

/-- Whether the latch is open or an MMA is suspended (R125). -/
def Team.latchBusy (t : Team) : Bool := t.latch.elim false (fun l => !l.released || l.suspended != [])

/-- MACQ (R125): the team enters the waiting order once; the thread waits for the grant. -/
def macqOp : M Unit :=
  insn .macq noShape (do
    let c ← core
    match ← unit with
    | .ex tm _ =>
      let k := (← get).core c
      if k.owner = some tm then pure ()
      else do
        (if k.waiting.any (· == tm) then pure ()
         else modify (fun s => s.modCore c (fun k => { k with waiting := k.waiting ++ [tm] })))
        stay .macq .engine
    | _ => pure ())

/-- Whether a thread of a team still holds a store to accumulator memory (R106). -/
def State.accStores (s : State) (tm : Nat) : Bool :=
  s.exs.any (fun x => x.1 / 2048 == tm && x.2.ctl.sbuf.any (fun q => q.2.space == 3))

/-- MREL (R125): it waits for the team's queued operations, and for its stores to accumulator memory (R106). -/
def mrelOp : M Unit :=
  insn .mrel noShape (do
    let c ← own
    trapIf (← team).latchBusy 0x41 2
    let s ← get
    match ← unit with
    | .ex tm _ => waitUnless ((s.core c).queue.isEmpty && !s.accStores tm) .engine
    | _ => pure ()
    modify (fun s => s.modCore c (fun k => { k with owner := none })))

/-- The strips of a gang word (R125); none where the word is bad. -/
def gangOf (t : Team) (w : Nat) : Option (List Nat) :=
  let n := bits w 44 42
  let es := (List.range 6).map (fun i => bits w (7 * i + 6) (7 * i))
  let l := es.take n
  if n < 2 ∨ 6 < n ∨ bits w 63 45 ≠ 0 ∨ (es.drop n).any (· != 0) ∨ l.any (fun x => decide (t.strips ≤ x)) ∨ ¬l.Nodup ∨
      l.any (fun x => t.coreOf x != t.coreOf (l.headD 0)) then none
  else some l

/-- GANG (R125). A poisoned word acts as zero (DEDUCED, entry 19). -/
def gangOp : M Unit := do
  let sh : Shape := { d := 0, a := 2, b := 0, c := 0 }
  insn .gang sh (do
    let _ ← own
    let v ← fetch sh .int
    trapIf (← team).latchBusy 0x42 4
    match gangOf (← team) (heldVal (v.a 0)).bits.toNat, ← unit with
    | some l, .ex tm _ => modify (fun s => s.modTeam tm (fun t => { t with gang := l }))
    | _, _ => trap 0x42 1)

/-- A core's engine cleared between contexts (R104). -/
def State.clearEngine (s : State) (c : Nat) : State :=
  let s := s.dropBytes (Loc.tile c 0).key tileBytes
  let s := s.dropBytes (Loc.wbuf c 0).key wbufBytes
  let s := s.dropBytes (Loc.acc c 0).key accBytes
  s.modCore c (fun k => { k with mcfg := 0, tiles := [] })

/-- Whether every thread of a team has exited, or the team is gone. -/
def State.teamDone (s : State) (tm : Nat) : Bool :=
  match s.teams.find tm with
  | none => true
  | some t =>
    t.ended || (t.started &&
      (List.range (16 * t.strips)).all (fun i => !(s.exs.find (exKey tm i)).elim false ExThread.live) &&
      (List.range t.strips).all (fun i => (s.aps.find (stripKey tm i)).elim true (fun a => a.ctl.status == .exited)))

/-- Words of one store copied to another, with their poison. -/
def State.copyStore (s : State) (src dst n : Nat) : State :=
  (List.range (n / 4)).foldl (fun s i =>
    let x := s.readStore (src + 4 * i) 4
    s.writeStore (dst + 4 * i) 4 x.1 x.2) s

/-- An engine's three stores copied between cores. -/
def State.copyEngine (s : State) (src dst : Nat) : State :=
  ((s.copyStore (Loc.tile src 0).key (Loc.tile dst 0).key tileBytes).copyStore
    (Loc.wbuf src 0).key (Loc.wbuf dst 0).key wbufBytes).copyStore (Loc.acc src 0).key (Loc.acc dst 0).key accBytes

/-- A team that owned an engine when it was saved finds its state and its queued operations there again, and nothing of it is kept any
longer (R122). -/
def State.reloadEngine (s : State) (tm c half : Nat) : State :=
  let p := savedCore tm half
  let k := s.core p
  let s := (s.copyEngine p c).modCore c (fun x => { x with mcfg := k.mcfg, tiles := k.tiles, queue := k.saved.getD [] })
  (s.modCore p (fun x => { x with mcfg := 0, tiles := [], saved := none })).modTeam tm (fun t => { t with regrant := t.regrant.rem half })

/-- ENGINE_GRANT (R104): a free engine passes to the first waiting team. -/
def State.engineGrant (s : State) (c : Nat) : Option State :=
  let k := s.core c
  let free := match k.owner with
    | none => true
    | some tm => s.teamDone tm && k.queue.isEmpty && !s.accStores tm
  match k.waiting with
  | tm :: rest =>
    match s.teams.find tm with
    | none => if free then some (s.modCore c (fun k => { k with waiting := rest })) else none
    | some t =>
      if !free || !s.running t.ctx then none
      else
        let s := if k.lastCtx.isSome && k.lastCtx != some t.ctx then s.clearEngine c else s
        let s := s.modCore c (fun k => { k with owner := some tm, waiting := rest, lastCtx := some t.ctx })
        let s := if t.regrant.has (c - t.core) then s.reloadEngine tm c (c - t.core) else s
        some ((List.range (16 * t.strips)).foldl (fun s i =>
          match s.exs.find (exKey tm i) with
          | some x =>
            if x.arr.elim false (fun j => j.op == .macq) && t.coreOf (i / 16) == c then s.finishEx tm i else s
          | none => s) s)
  | [] =>
    if free && k.owner.isSome then some (s.modCore c (fun k => { k with owner := none })) else none

/-! ### The operation queue (R106) -/

/-- An operation enters the queue when an entry is free. -/
def enqueue (c tm : Nat) (op : Nat → MatOp) : M Unit := do
  let s ← get
  waitUnless (decide ((s.core c).queue.length < 16) && !s.accStores tm) .room
  let n ← freshId
  modify (fun s => s.modCore c (fun k => { k with queue := k.queue ++ [op n] }))

/-- Whether an operation of the queue stays behind an access to the engine's stores that began before it entered (R106): one that still
waits for the operations before it, or a store to accumulator memory that its thread still holds. What enters while such a store is held
waits to enter, so the store began before everything that is in the queue. -/
def State.heldBack (s : State) (c : Nat) (op : MatOp) : Bool :=
  s.exs.any (fun x => x.1 / 2048 == op.team &&
    ((match x.2.ctl.status with
      | .waiting (.mqueue n) _ => decide (n ≤ op.id) && s.coreOf (.ex (x.1 / 2048) (x.1 % 2048)) == some c
      | _ => false) ||
      x.2.ctl.sbuf.any (fun q => q.2.space == 3 && q.2.core == c)))

/-- MCFG (R130). A poisoned word acts as zero (DEDUCED, entry 19). -/
def mcfgOp : M Unit := do
  let sh : Shape := { d := 0, b := 0, c := 0 }
  insn .mcfg sh (do
    let c ← own
    let v ← fetch sh .int
    let w := (heldVal (v.a 0)).bits.toNat % 2 ^ 32
    trapIf (bits w 31 24 != 0 || bit w 3) 0x20 0x12
    let o ← ops
    match ← unit with
    | .ex tm tid =>
      enqueue c tm (fun n => { id := n, team := tm, tid, insn := ⟨.mcfg, o⟩, va := BitVec.ofNat 64 w, vb := 0, vc := 0, landing := .none })
    | _ => pure ())

/-- MZERO (R128). -/
def mzeroOp : M Unit := do
  let sh : Shape := { d := 0, c := 0 }
  insn .mzero sh (do
    let c ← own
    let v ← fetch sh .int
    trapIf ((v.a 0).poison || (v.b 0).poison) 0x11 1
    let a := (v.a 0).bits.toNat % 2 ^ 32
    let n := (v.b 0).bits.toNat % 2 ^ 32
    trapIf (a % 256 != 0) 0x23 1
    trapIf (n == 0 || decide (128 < n ∨ accBytes < a + 256 * n)) 0x20 0x11
    let o ← ops
    match ← unit with
    | .ex tm tid =>
      enqueue c tm (fun k => { id := k, team := tm, tid, insn := ⟨.mzero, o⟩, va := BitVec.ofNat 64 a, vb := BitVec.ofNat 64 n, vc := 0,
                               landing := .none })
    | _ => pure ())

/-- A range of a core's store set to zero bits. -/
def State.zeroStore (s : State) (key n : Nat) : State := s.writeStore key n 0 false

/-- MATRIX_QUEUE_OP (R106): MZERO or MCFG at the head of the queue acts. -/
def State.matrixQueueOp (s : State) (c : Nat) : Option State :=
  let k := s.core c
  match k.queue with
  | [] => none
  | op :: rest =>
    if s.heldBack c op then none
    else match op.insn.op with
    | .mcfg => some (s.modCore c (fun k => { k with mcfg := op.va.setWidth 32, queue := rest }))
    | .mzero =>
      some ((s.zeroStore (Loc.acc c op.va.toNat).key (256 * op.vb.toNat)).modCore c (fun k => { k with queue := rest }))
    | _ => none

/-- MWAIT (R129). -/
def mwaitOp : M Unit :=
  insn .mwait noShape (do
    let c ← own
    awaitQueue c)

/-! ### MRD and MWR (R128) -/

/-- A word of accumulator memory as an access of the thread (R106, R128). -/
def accWord (c off : Nat) : M Acc := do
  trapIf (off % 4 != 0) 0x23 1
  trapIf (decide (accBytes < off + 4)) 0x20 0x11
  awaitQueue c
  pure ⟨0, 0, 3, c, off, 4, (Loc.acc c off).key, false, false, none⟩

/-- MRD (R128). -/
def mrdOp : M Unit := do
  let o ← ops
  let sh : Shape := { b := 0, c := 0 }
  insn .mrd sh (do
    let c ← own
    let v ← fetch sh .int
    trapIf (v.a 0).poison 0x11 1
    let a ← accWord c ((v.a 0).bits.toNat % 2 ^ 32)
    let x ← doOwn ((← get).reqOf (← unit) a .load (← here) 255 .none)
    let code := o.x8.toNat / 16
    if (code = 2 ∨ code = 3) ∧ ¬x.poison then do
      let r := cvtFF binary32 (fmtOf code) (x.bits.toNat % 2 ^ 32)
      raise r.flags
      writeD 1 (fun _ => Val.of (BitVec.ofNat 64 r.bits))
    else writeD 1 (fun _ => x))

/-- MWR (R128). -/
def mwrOp : M Unit := do
  let o ← ops
  let sh : Shape := { d := 0, c := 0 }
  insn .mwr sh (do
    let c ← own
    let v ← fetch sh .int
    trapIf (v.b 0).poison 0x11 0
    trapIf (v.a 0).poison 0x11 1
    let a ← accWord c ((v.a 0).bits.toNat % 2 ^ 32)
    let code := o.x8.toNat % 16
    let w := (v.b 0).bits.toNat % 2 ^ 32
    let r : FRes := if code = 2 ∨ code = 3 then cvtFF (fmtOf code) binary32 (w % 2 ^ 16) else ⟨w, 0⟩
    raise (r.flags &&& (fNV ||| fNF))
    let u ← unit
    modify (fun s => s.drainAll u 0 ((s.bufferOf (.unit u)).length))
    let q := (← get).reqOf u a (.store r.bits false) (← here) 255 .none
    awaitOrder q
    modify (fun s => (s.atCore q).2))

/-! ### Transfers (R126) -/

/-- What a transfer's control word asks for: rows, bytes of a row in memory and in the engine, its format, K, and the engine's
store: 0 weight buffer, 1 tile store, 2 accumulator. None where a bit that must be zero is set. -/
structure Xfer where
  rows  : Nat
  mrow  : Nat
  erow  : Nat
  fmt   : Nat
  k     : Nat
  store : Nat
  deriving DecidableEq, Repr

/-- Whether a transfer's control word sets a bit that must be zero (R126). -/
def xferRes (i : Instr) (w : Nat) : Bool :=
  match i with
  | .mldw => bits w 31 10 != 0
  | .mldt | .mstt => bits w 31 16 != 0 || bits w 7 5 != 0
  | _ => bits w 31 12 != 0 || bit w 7

/-- The control word of a transfer (R126): none where a bit that must be zero is set or its format is not listed. -/
def xferOf (i : Instr) (w : Nat) : Option Xfer :=
  if xferRes i w then none else
  match i with
  | .mldw => some ⟨bits w 9 0 + 1, 64, 64, 9, 0, 0⟩
  | .mldt | .mstt =>
    let f := bits w 15 12
    let k := 64 * (bits w 11 8 + 1)
    if f < 2 ∨ 9 < f then none else some ⟨8 * (bits w 4 0 + 1), tileRow k f, tileRow k f, f, k, 1⟩
  | .mlda | .msta =>
    let f := bits w 11 8
    if f ∉ (if i = .mlda then [0, 2, 3, 10] else [0, 2, 3, 4, 5, 9, 10]) then none
    else some ⟨bits w 6 0 + 1, 8 * elemBits f, 256, f, 0, 2⟩
  | _ => none

/-- Whether a transfer reads memory. -/
def xferLoads (i : Instr) : Bool := i == .mldw || i == .mldt || i == .mlda

/-- Bytes between rows in memory: a tile handle's stride, or contiguous. -/
def Xfer.step (x : Xfer) (h : Handle) : Nat := if Hnd.kind h = 2 ∧ x.store ≠ 0 then Hnd.stride h else x.mrow

/-- Whether an offset range lies in a handle's limit; a flat handle's tag bits are no part of the offset (R142). -/
def rangeOk (h : Handle) (off n : Nat) : Bool :=
  let o := if Hnd.kind h = 1 ∧ Hnd.tagen h then off % 2 ^ 60 else off
  decide (o + n ≤ Hnd.limit h)

/-- The engine's store of a transfer. -/
def Xfer.loc (x : Xfer) (c off : Nat) : Nat :=
  (if x.store = 0 then Loc.wbuf c off else if x.store = 1 then Loc.tile c off else Loc.acc c off).key

/-- The handle checks of the matrix transfers and PSTB (R126, R255): SPACE before bounds. -/
def xferHandle (i : Nat) (h : Handle) : M Unit := do
  let sp := Hnd.space h
  if sp = 7 then stopTrap (accTrap 0x24 1 i 0)
  if sideOf (← unit) = .exec ∧ globalSpace sp ∧ isReg (← ops).b then stopTrap (accTrap 0x24 6 i 0)
  if sp = 3 ∨ sp = 5 ∨ sp = 6 then stopTrap (accTrap 0x24 2 i 0)
  if Hnd.kind h = 4 then stopTrap (accTrap 0x24 5 i 0)

/-- The destination of a status word that may be a port: the thread waits for a free row, and is then held for its push (R185, R187). -/
def landPort : M Landing := do
  match ← unit, portOf (← ops).d with
  | .ex tm tid, some n =>
    match (← get).ports.find (portKey (stripKey tm (tid / 16)) n) with
    | none => stopTrap (portTrap 1 n)
    | some p => do
      pushRoom n p (p.pos.getD (tid % 16) 0) false
      pure (.push tm tid n)
  | _, _ => landD

/-- MLDW, MLDT, MSTT, MLDA and MSTA at issue (R126). A misaligned engine range and one that passes its store take BOUND 0x11, a bit that
must be zero 0x12 (DESIGN CHOICE, entry 55). A format code that the control word's row does not list is unassigned there: ILLEGAL 0x08
(R8, R49). A poisoned control word acts as zero (DEDUCED, entry 19). -/
def xferOp (i : Instr) : M Unit := do
  let o ← ops
  let hi := o.x8.toNat
  insn i {} (do
    let c ← own
    let v ← fetch {} .offset
    trapIf ((v.a 0).poison || (v.b 0).poison) 0x11 1
    (match portOf o.d with
      | some n => (if (v.c 0).poison then stopTrap { tinfo 0x11 0 with port := some n } else pure ())
      | none => pure ())
    let h := (← get).handleOf (← unit) hi
    xferHandle hi h
    let e := (v.a 0).bits.toNat % 2 ^ 32
    let off := (v.b 0).bits.toNat % 2 ^ 32
    let cw := (heldVal (v.c 0)).bits
    match xferOf i (cw.toNat % 2 ^ 32) with
    | none => if xferRes i (cw.toNat % 2 ^ 32) then trap 0x20 0x12 else trap 1 8
    | some x =>
      (if (List.range x.rows).all (fun r => rangeOk h (off + r * x.step h) x.mrow) then pure ()
       else stopTrap (accTrap 0x20 1 hi (Hnd.base h + off)))
      let size := if x.store = 2 then accBytes else 65536
      trapIf (e % (if x.store = 2 then 256 else 64) != 0 || decide (size < e + x.rows * x.erow)) 0x20 0x11
      match ← unit with
      | .ex tm tid =>
        let landing ← landPort
        enqueue c tm (fun n =>
          { id := n, team := tm, tid, insn := ⟨i, o⟩, va := BitVec.ofNat 64 e, vb := BitVec.ofNat 64 off, vc := cw, landing,
            taint := (v.c 0).poison })
        if (portOf o.d).isSome then stay i .result
      | _ => pure ())

/-- Pieces of a row in memory, cut at multiples of g: offset in the row and length. -/
def rowCuts (g base off n : Nat) : Nat → List (Nat × Nat)
  | 0 => []
  | k + 1 =>
    if n ≤ off then []
    else
      let m := min (n - off) (g - (base + off) % g)
      (off, m) :: rowCuts g base (off + m) n k

/-- The grain at which a space keeps poison: a sector of memory, a word of a scratchpad (R405, R406). -/
def poisonGrain (h : Handle) : Nat := if globalSpace (Hnd.space h) then 32 else 4

/-- Checks 3 to 5 of a piece of a row: every byte of it, wherever it begins (R143, R147). A piece that touches a semaphore window fails with
SPACE 0x08, so that a transfer or PSTB ends there with status 0x24 (R326; DESIGN CHOICE, entry 59). -/
def State.pieceAcc (s : State) (u : Agent) (hidx : Nat) (h : Handle) (off n : Nat) (need : Need) : Except TrapInfo Acc := do
  let p ← s.spotOf u { hidx, spaces := [], kinds := [], size := n, align := 1, need } h off 0
  s.finishSpot (s.ctxOf u) p need

/-- What reading or writing a row of memory comes to. -/
inductive RowRes where
  | ok (data : Nat) (poison : List (Nat × Nat)) (s : State)
  /-- Tried again later, with a record to post for a parked page. -/
  | wait (s : State)
  /-- Line within the row and code of the failure. -/
  | fail (at' code : Nat) (t : TrapInfo)

/-- The pieces of a row performed one after another as copies are (R126): all of them, or none. For a write, data holds the
row and bad its poisoned byte ranges. -/
def State.rowPieces (s0 : State) (id : Nat) (u : Agent) (hidx : Nat) (h : Handle) (off : Nat) (write : Bool) (data : Nat)
    (bad : List (Nat × Nat)) : List (Nat × Nat) → State → Nat → List (Nat × Nat) → RowRes
  | [], s, v, p => .ok v p s
  | (o, n) :: rest, s, v, p =>
    match s.pieceAcc u hidx h (off + o) n (if write then .wr else .rd) with
    | .error t => .fail o t.code.toNat t
    | .ok a =>
      let isBad := bad.any (fun b => decide (b.1 < o + n ∧ o < b.2))
      let kind : ReqKind := if write then .store (data / 2 ^ (8 * o) % 2 ^ (8 * n)) isBad else .load
      match s.engAccess (s.engReq id u a kind) with
      | .fail t => .fail o t.code.toNat t
      | .hold => .wait s0
      | .send r => .wait (s0.engSend r)
      | .park page cause sz => .wait (s0.noteOnce id (s.ctxOf u) page cause sz write)
      | .ok x po s' =>
        s0.rowPieces id u hidx h off write data bad rest s' (v + x * 2 ^ (8 * o)) (if po then p ++ [(o, o + n)] else p)

/-- One row of memory. -/
def State.rowAccess (s : State) (id : Nat) (u : Agent) (hidx : Nat) (h : Handle) (off n : Nat) (write : Bool) (data : Nat)
    (bad : List (Nat × Nat)) : RowRes :=
  s.rowPieces id u hidx h off write data bad (rowCuts (poisonGrain h) (Hnd.base h + off) 0 n n) s 0 []

/-- Whether bytes [lo, hi) are poisoned. -/
def hit (p : List (Nat × Nat)) (lo hi : Nat) : Bool := p.any (fun r => decide (r.1 < hi ∧ lo < r.2))

/-- A row brought into the engine: MLDW and MLDT byte by byte with poison by words, MLDA widened word by word (R126). DEDUCED, entry 28:
a poisoned element raises no flag on its way in, as on its way out. -/
def State.engineRow (s : State) (x : Xfer) (c e : Nat) (data : Nat) (p : List (Nat × Nat)) : State × FlagSet :=
  if x.store = 2 then
    (List.range 64).foldl (fun (a : State × FlagSet) i =>
      let w := x.mrow / 64
      let v := data / 2 ^ (8 * w * i) % 2 ^ (8 * w)
      let bad := hit p (w * i) (w * i + w)
      let r : FRes := if !bad && (x.fmt == 2 || x.fmt == 3) then cvtFF (fmtOf x.fmt) binary32 v else ⟨v, 0⟩
      (a.1.writeStore (x.loc c (e + 4 * i)) 4 r.bits bad, a.2 ||| (r.flags &&& (fNV ||| fNF)))) (s, 0)
  else
    ((List.range (x.erow / 4)).foldl (fun s i =>
      s.writeStore (x.loc c (e + 4 * i)) 4 (data / 2 ^ (32 * i) % 2 ^ 32) (hit p (4 * i) (4 * i + 4))) s, 0)

/-- A row taken from the engine: bytes, poisoned ranges, flags (R126). -/
def State.memoryRow (s : State) (x : Xfer) (c e : Nat) : Nat × List (Nat × Nat) × FlagSet :=
  if x.store = 2 then
    let w := x.mrow / 64
    (List.range 64).foldl (fun (a : Nat × List (Nat × Nat) × FlagSet) i =>
      let q := s.readStore (x.loc c (e + 4 * i)) 4
      let r : FRes :=
        if q.2 then ⟨0, 0⟩
        else if x.fmt = 9 then ⟨satS (sext q.1 32) 8, 0⟩
        else if x.fmt = 0 ∨ x.fmt = 10 then ⟨q.1, 0⟩
        else cvtFF binary32 (fmtOf x.fmt) q.1
      (a.1 + r.bits * 2 ^ (8 * w * i), (if q.2 then a.2.1 ++ [(w * i, w * i + w)] else a.2.1), a.2.2 ||| r.flags)) (0, [], 0)
  else
    let q := s.readStore (x.loc c e) x.erow
    let bad := (List.range (x.erow / 4)).filter (fun i => (s.readStore (x.loc c (e + 4 * i)) 4).2)
    (q.1, bad.map (fun i => (4 * i, 4 * i + 4)), 0)

/-- The engine's queue with its head changed. -/
def State.modHead (s : State) (c : Nat) (f : MatOp → MatOp) : State :=
  s.modCore c (fun k => { k with queue := match k.queue with | op :: r => f op :: r | [] => [] })

/-- A transfer at the head of the queue ends (R126, R127): a fault leaves its engine range zero, and MLDT leaves its record. -/
def State.endXfer (s : State) (c : Nat) (op : MatOp) (x : Xfer) : State :=
  let e := op.va.toNat
  let n := x.rows * x.erow
  let q := match op.fail with
    | some (code, line) => (code, line)
    | none => match op.pline with
      | some l => (0x11, l)
      | none => (0, 0)
  let s :=
    if op.fail.isSome then
      let s := s.zeroStore (x.loc c e) n
      if x.store = 1 then s.tileWritten c e (e + n) else s
    else if op.insn.op = .mldt then
      s.modCore c (fun k => { k with tiles := k.tiles ++ [⟨e, x.rows, x.k, x.fmt, []⟩] })
    else s
  let s := s.modCore c (fun k => { k with queue := k.queue.drop 1 })
  let s := if op.taint then s else s.modTeam op.team (fun t => { t with flags := t.flags ||| op.flags })
  s.landWord op.landing (if op.taint then 0 else statusWord q.1 q.2 op.flags.toNat) op.taint

/-- The next rows of the transfer at the head of a core's queue, at most n of them; the transfer ends with its last. -/
def State.xferRows (s : State) (c : Nat) : Nat → State
  | 0 => s
  | n + 1 =>
    match (s.core c).queue with
    | [] => s
    | op :: _ =>
      match xferOf op.insn.op (op.vc.toNat % 2 ^ 32) with
      | none => s
      | some x =>
        if op.fail.isSome ∨ x.rows ≤ op.rows then s.endXfer c op x
        else
          let u := Agent.ex op.team op.tid
          let hi := op.insn.args.x8.toNat
          let h := s.handleOf u hi
          let off := op.vb.toNat + op.rows * x.step h
          let e := op.va.toNat + op.rows * x.erow
          let line (o : Nat) : Nat := (op.rows * x.mrow + o) / 64
          let fail (o code : Nat) : State := s.modHead c (fun op => { op with fail := some (code, line o) })
          if xferLoads op.insn.op then
            match s.rowAccess op.id u hi h off x.mrow false 0 [] with
            | .wait t => t
            | .fail o code _ => (fail o code).xferRows c n
            | .ok data p t =>
              let t := if x.store = 1 then t.tileWritten c e (e + x.erow) else t
              let r := t.engineRow x c e data p
              (r.1.modHead c (fun op =>
                { op with rows := op.rows + 1, flags := op.flags ||| r.2,
                          pline := match op.pline, p with
                            | none, (o, _) :: _ => some (line o)
                            | l, _ => l })).xferRows c n
          else
            let q := s.memoryRow x c e
            match s.rowAccess op.id u hi (Hnd.shadow h) off x.mrow true q.1 q.2.1 with
            | .wait t => t
            | .fail o code _ => (fail o code).xferRows c n
            | .ok _ _ t =>
              (t.modHead c (fun op =>
                { op with rows := op.rows + 1, flags := op.flags ||| q.2.2,
                          pline := match op.pline, q.2.1 with
                            | none, (o, _) :: _ => some (line o)
                            | l, _ => l })).xferRows c n

/-- MATRIX_TRANSFER_COMPLETE (R126): the transfer at the head of a core's queue goes on by some rows, and ends with its last. -/
def State.matrixTransfer (s : State) (c id : Nat) (rows : Option Nat) : Option State :=
  match (s.core c).queue with
  | [] => none
  | op :: _ =>
    if op.id = id ∧ ¬s.heldBack c op ∧ (s.teams.find op.team).elim false (fun t => t.placed && s.running t.ctx) then
      match xferOf op.insn.op (op.vc.toNat % 2 ^ 32) with
      | some x => some (s.xferRows c (rows.getD (x.rows + 2)))
      | none => none
    else none

/-! ### MMA (R107-R123) -/

/-- The fields of MMA: none is popped when it arrives. DEDUCED, entry 28: for the stall-hint check (R45) every thread that executes an MMA
reads its own a, b and c, also one whose leader gives the operands (R108). -/
def mmaShape : Shape := { d := 0, pops := false }

/-- MMA at a thread (R108): the checks in order, then it arrives at the latch and waits. -/
def mmaOp : M Unit :=
  insn .mma mmaShape (do
    let _ ← own
    let o ← ops
    let a ← here
    match ← unit with
    | .ex tm tid =>
      let t ← team
      trapIf (!t.gang.any (· == tid / 16)) 0x42 3
      let s ← get
      (match t.latch with
        | some l =>
          if l.released ∧ ¬l.suspended.has tid then wait .latch
          else trapIf (l.addr != a) 0x42 2
        | none => pure ())
      (match portOf o.a with
        | some n =>
          match s.ports.find (portKey (stripKey tm (tid / 16)) n) with
          | none => stopTrap (portTrap 1 n)
          | some p => if p.mode = .rline ∧ p.execPops then pure () else stopTrap (portTrap 2 n)
        | none => pure ())
      checkPorts { d := 0, a := 0 }
      let l : Latch := t.latch.getD ⟨a, ⟨.mma, o⟩, [], false, []⟩
      let l' : Latch := { l with arrived := l.arrived.add tid, suspended := l.suspended.rem tid }
      modify (fun s => s.modTeam tm (fun t => { t with latch := some l' }))
      stay .mma .latch
    | _ => pure ())

/-- The threads of a gang by row. -/
def gangRows (gang : List Nat) : List Nat := gang.flatMap (fun s => (List.range 16).map (16 * s + ·))

/-- Whether a thread of a team is live. -/
def State.exLive (s : State) (tm tid : Nat) : Bool := (s.exs.find (exKey tm tid)).elim false ExThread.live

/-- What an MMA takes from its leader as it enters the queue: fields a, b and c, with a pop of each port that b or c names (R180); a port
in a is popped chunk by chunk (R108). A k register in field a gives a tile offset as a g register does (DEDUCED, entry 28). -/
def mmaRead : M (Val × Val × Val) := do
  let o ← ops
  awaitRegs [(o.a, 1), (o.b, 1), (o.c, 1)]
  let ps := srcPorts o { d := 0, a := 0 }
  awaitRows ps
  let env ← popAll ps
  let a ← (if (portOf o.a).isSome then pure (fun _ => Val.zero) else readField1 o.a 1 .int [])
  pure (a 0, (← readField1 o.b 1 .offset env) 0, (← readField1 o.c 1 .int env) 0)

/-- A thread of the gang traps at the latch: the others stay there until it comes back or leaves (R123). -/
def State.trapAtLatch (s : State) (tm tid : Nat) (i : Insn) (t : TrapInfo) : State :=
  (s.takeTrap (.ex tm tid) t (len0Of i.args.form)).modTeam tm (fun x =>
    { x with latch := x.latch.map (fun l => { l with arrived := l.arrived.rem tid, suspended := l.suspended.add tid }) })

/-- LATCH_RELEASE (R108): every live thread has arrived; the operation takes its operands from the leader and enters the
queue. -/
def State.latchRelease (s : State) (tm : Nat) : Option State :=
  match s.teams.find tm with
  | none => none
  | some t =>
    match t.latch with
    | none => none
    | some l =>
      let live := (gangRows t.gang).filter (s.exLive tm)
      let c := t.coreOf (t.gang.headD 0)
      if l.released ∨ live = [] ∨ ¬live.all l.arrived.has ∨ ¬s.running t.ctx ∨ s.accStores tm ∨ ¬s.holdsEngine tm t c ∨
          16 ≤ (s.core c).queue.length then none
      else
        let leader := live.foldl min (live.headD 0)
        let u := Agent.ex tm leader
        match s.asUnit u l.insn.args mmaRead with
        | .error (.trap t) => some (s.trapAtLatch tm leader l.insn t)
        | .error _ => none
        | .ok ((a, b, cw), t') =>
          let s := { t' with ir := s.ir, cur := s.cur }
          let op : MatOp :=
            { id := s.fresh, team := tm, tid := leader, insn := l.insn, va := a.bits, vb := b.bits, vc := cw.bits, landing := .none,
              gang := t.gang, woff := b.bits.toNat % 2 ^ 32, taint := cw.poison, bad := a.poison || b.poison }
          some (({ s with fresh := s.fresh + 1 }.modCore c (fun k => { k with queue := k.queue ++ [op] })).modTeam tm
            (fun t => { t with latch := some { l with released := true } }))

namespace Mma
/-- Fields of the control word (R112). -/
def k (w : Nat) : Nat := 64 * (bits w 3 0 + 1)
def tile (w : Nat) : Bool := bit w 4
def dacc (w : Nat) : Nat := bits w 14 8
def bh (w : Nat) : Nat := bits w 23 16
end Mma

/-- The checks made before chunk 0, in the order of R112. -/
def State.mmaCheck (s : State) (c : Nat) (op : MatOp) : Option TrapInfo :=
  let w := op.vc.toNat % 2 ^ 32
  let u := Agent.ex op.team op.tid
  let o := op.insn.args
  let af := o.x8.toNat % 16
  let bf := o.x8.toNat / 16
  let rows := 16 * op.gang.length
  let K := Mma.k w
  let oa := op.va.toNat % 2 ^ 32
  let b := op.vb.toNat % 2 ^ 32
  let inTile := (portOf o.a).isNone
  let cfg := (s.core c).mcfg.toNat
  let sc := bit cfg 2
  let hidx := Mma.bh w
  let h := s.handleOf u hidx
  let es := elemBits bf
  if op.bad then some (tinfo 0x11 1)
  else if bits w 31 24 ≠ 0 ∨ bit w 15 ∨ bits w 7 5 ≠ 0 ∨ (¬Mma.tile w ∧ hidx ≠ 0) then some (tinfo 0x20 0x12)
  else if (inTile ∧ oa % 64 ≠ 0) ∨ (¬Mma.tile w ∧ b % 64 ≠ 0) then some (tinfo 0x23 1)
  else if accBytes < 256 * (Mma.dacc w + rows) ∨ (inTile ∧ tileBytes < oa + rows * tileRow K af) ∨
      (sc ∧ ocp af ∧ tileBytes < 64 * bits cfg 13 4 + rows * (K / 32)) ∨
      (sc ∧ ocp bf ∧ Mma.tile w ∧ tileBytes < 64 * bits cfg 23 14 + 2 * K) then some (tinfo 0x20 0x11)
  else if ¬Mma.tile w then none
  else if Hnd.space h = 7 then some (accTrap 0x24 1 hidx 0)
  else if Hnd.kind h ≠ 2 then some (accTrap 0x24 5 hidx 0)
  else if globalSpace (Hnd.space h) ∧ isReg o.b then some (accTrap 0x24 6 hidx 0)
  else
    let r0 := b / max (Hnd.stride h) 1
    let cb := b % max (Hnd.stride h) 1
    if 8 * cb % es ≠ 0 ∨ Hnd.rows h < r0 + K ∨ Hnd.cols h < 8 * cb / es + 64 then some (tinfo 0x20 0x11) else none

/-- What a chunk's operands come to. -/
inductive Gather (α : Type) where
  | ok (x : α)
  | wait (s : State)
  /-- A thread of the gang traps, and the MMA is suspended (R123). -/
  | trap (tid : Nat) (t : TrapInfo)

/-- A line every byte of which is the low byte of a value (R393). -/
def byteLine (v : W64) : BitVec 512 := BitVec.ofNat 512 ((List.range 64).foldl (fun a j => a + v.toNat % 256 * 2 ^ (8 * j)) 0)

/-- Lines of a thread's port for a chunk: their bytes, and whether each is poisoned (R110). A line past the end traps under eostrap (R189);
a token yields the line that RESUMET .repl gave the thread in its place, else it traps (R194, R393). -/
def State.portLines (s : State) (tm tid n chunk : Nat) : Nat → Nat → Gather (Nat × List Bool)
  | _, 0 => .ok (0, [])
  | i, m + 1 =>
    match s.ports.find (portKey (stripKey tm (tid / 16)) n) with
    | none => .wait s
    | some p =>
      let k := p.pos.getD (tid % 16) 0 + i
      let rest := s.portLines tm tid n chunk (i + 1) m
      let cons (v : Nat) (po : Bool) : Gather (Nat × List Bool) := match rest with
        | .ok y => .ok (v + y.1 * 2 ^ 512, po :: y.2)
        | x => x
      if p.past k then
        if p.eostrap then .trap tid { tinfo 0x31 n with port := some n, pos := BitVec.ofNat 32 k, chunk := BitVec.ofNat 8 chunk }
        else cons 0 false
      else if !s.rowReady tm (tid / 16) p k then .wait s
      else match p.slot k (tid % 16) with
        | .token t =>
          match (s.ctl (.ex tm tid)).bind (·.repl.find (replKey n k)) with
          | some v => cons (byteLine v.bits).toNat v.poison
          | none => .trap tid { tokenTrap n k t with chunk := BitVec.ofNat 8 chunk }
        | .data v po => cons v.toNat po
        | _ => cons 0 false

/-- Rows of A of a chunk, in row-line mode: none for an exited thread. -/
def State.lineRows (s : State) (tm n chunk lines : Nat) : List Nat → Gather (List (Option (Nat × List Bool)))
  | [] => .ok []
  | tid :: rest =>
    if !s.exLive tm tid then
      match s.lineRows tm n chunk lines rest with
      | .ok l => .ok (none :: l)
      | x => x
    else match s.portLines tm tid n chunk 0 lines with
      | .ok y => match s.lineRows tm n chunk lines rest with
        | .ok l => .ok (some y :: l)
        | x => x
      | .wait t => .wait t
      | .trap i t => .trap i t

/-- A row of B: its bytes, and the byte ranges that are poisoned (R405). -/
abbrev BRow := Nat × List (Nat × Nat)

/-- Rows of B of a chunk through a tile handle (R111): data and poison. Where one of them has to wait, none of them is read, and what is
left is s0 with the record of its parked page (R123). -/
def State.tileRows (s0 : State) (op : MatOp) (hidx : Nat) (h : Handle) (chunk n : Nat) : Nat → State → Gather (List BRow × State)
  | 0, s => .ok ([], s)
  | m + 1, s =>
    let off := op.vb.toNat % 2 ^ 32 + (64 * chunk + (64 - (m + 1))) * Hnd.stride h
    match s0.rowPieces op.id (.ex op.team op.tid) hidx h off false 0 [] (rowCuts (poisonGrain h) (Hnd.base h + off) 0 n n) s 0 [] with
    | .wait t => .wait t
    | .fail _ _ t => .trap op.tid { t with chunk := BitVec.ofNat 8 chunk }
    | .ok v p s' => match s0.tileRows op hidx h chunk n m s' with
      | .ok (l, t) => .ok ((v, p) :: l, t)
      | .wait t => .wait t
      | .trap i t => .trap i t

/-- Peer rows of B: a request for each piece that has none yet; whether every one has been answered (R111, R255). -/
def State.peerRows (s : State) (op : MatOp) (hidx : Nat) (h : Handle) (chunk n : Nat) : State × Bool :=
  (List.range 64).foldl (fun (a : State × Bool) i =>
    let off := op.vb.toNat % 2 ^ 32 + (64 * chunk + i) * Hnd.stride h
    (rowCuts (poisonGrain h) (Hnd.base h + off) 0 n n).foldl (fun (a : State × Bool) q =>
      match a.1.pieceAcc (.ex op.team op.tid) hidx h (off + q.1) q.2 .rd with
      | .error _ => a
      | .ok x =>
        let r := a.1.engReq op.id (.ex op.team op.tid) x .load
        match a.1.engAccess r with
        | .send r => (a.1.engSend r, false)
        | .hold => (a.1, false)
        | _ => a) a) (s, true)

/-- Elements of B of a chunk through a tile handle. -/
def State.tileElem (s : State) (c bf : Nat) (sb : Option Nat) (chunk : Nat) (rows : List BRow) (k col : Nat) :
    Option Elem :=
  let row := rows.getD k (0, [])
  let bad := hit row.2 (elemBits bf * col / 8) ((elemBits bf * (col + 1) + 7) / 8)
  let sc := sb.map (fun b => s.readStore (Loc.tile c (b + 64 * (2 * chunk + k / 32) + col)).key 1)
  some (elemOf bf (elemAt bf row.1 col) (sc.map (·.1)) (bad || sc.elim false (·.2)))

/-- Rows of B of a chunk in tile-handle mode: requests to a peer device are all sent before any row is taken. -/
def State.gatherB (s : State) (op : MatOp) : Gather (List BRow × State) :=
  let w := op.vc.toNat % 2 ^ 32
  if ¬Mma.tile w then .ok ([], s)
  else
    let h := s.handleOf (.ex op.team op.tid) (Mma.bh w)
    let n := 8 * elemBits (op.insn.args.x8.toNat / 16)
    let q := if Hnd.space h = 5 then s.peerRows op (Mma.bh w) h op.chunk n else (s, true)
    if q.2 then s.tileRows op (Mma.bh w) h op.chunk n 64 s else .wait q.1

/-- Elements of A of a chunk. The row of a thread that has exited is zero in both modes, and no scale applies to it (R108; DEDUCED, entry
28). -/
def State.elemA (s : State) (c : Nat) (op : MatOp) (lines : List (Option (Nat × List Bool))) (r k : Nat) : Elem :=
  let o := op.insn.args
  let af := o.x8.toNat % 16
  let cfg := (s.core c).mcfg.toNat
  let K := Mma.k (op.vc.toNat % 2 ^ 32)
  let sc := if bit cfg 2 && ocp af then
      some (s.readStore (Loc.tile c (64 * bits cfg 13 4 + r * (K / 32) + 2 * op.chunk + k / 32)).key 1)
    else none
  let scb := sc.elim false (·.2)
  if (portOf o.a).isSome then
    match lines.getD r none with
    | none => elemOf af 0 none false
    | some x => elemOf af (elemAt af x.1 k) (sc.map (·.1)) (x.2.getD (elemBits af * k / 512) false || scb)
  else if !s.exLive op.team ((gangRows op.gang).getD r 0) then elemOf af 0 none false
  else
    let x := s.bitsAt (Loc.tile c (op.va.toNat % 2 ^ 32 + r * tileRow K af)).key (elemBits af * (64 * op.chunk + k)) (elemBits af)
    elemOf af x.1 (sc.map (·.1)) (x.2 || scb)

/-- Whether a K-block of a chunk counts as non-finite (R118): in tile mode every block does where no record vouches for it, under INT8 as
well, where only the poison of A shows it. -/
def State.strictBlock (s : State) (c : Nat) (op : MatOp) (a : Nat → Nat → Elem) (kb : Nat) : Bool :=
  let o := op.insn.args
  let af := o.x8.toNat % 16
  let w := op.vc.toNat % 2 ^ 32
  let rows := 16 * op.gang.length
  let vouched := (portOf o.a).isSome ||
    (s.core c).tiles.any (fun t => t.trusted (op.va.toNat % 2 ^ 32) rows (Mma.k w) af)
  bit (s.core c).mcfg.toNat 0 &&
    (!vouched || (List.range rows).any (fun r => (List.range 8).any (fun i => (a r (8 * kb + i)).special)))

/-- The next chunk of the MMA at the head of a core's queue, committed as one step (R121). bad: a line that it pops is poisoned, so that the
MMA raises no flag (R79). -/
def State.commitChunk (s : State) (c : Nat) (op : MatOp) (x : ChunkIn) (len lines : Nat) (bad : Bool) : State :=
  let base := 256 * Mma.dacc (op.vc.toNat % 2 ^ 32)
  let cols := x.columns
  let z := (List.range x.rows).foldl (fun (a : State × FlagSet) r =>
    cols.foldl (fun (a : State × FlagSet) col =>
      let key := (Loc.acc c (base + 256 * r + 4 * col)).key
      let old := s.readStore key 4
      let y := x.word r col old.1 old.2
      (a.1.writeStore key 4 y.1 y.2.1, a.2 ||| y.2.2)) a) (s, 0)
  let t := z.1.modHead c (fun op => { op with chunk := op.chunk + 1, woff := op.woff + len, flags := op.flags ||| z.2, taint := op.taint || bad })
  match portOf op.insn.args.a with
  | none => t
  | some n =>
    ((gangRows op.gang).filter (t.exLive op.team)).foldl (fun t tid =>
      let sk := stripKey op.team (tid / 16)
      let key := portKey sk n
      match t.ports.find key with
      | none => t
      | some p =>
        let l := tid % 16
        let k := p.pos.getD l 0
        let k' := match p.fin with
          | some e => max k (min e (k + lines))
          | none => k + lines
        let t := if k' < k + lines then t.modEx op.team tid (fun x => { x with eos := setBit16 x.eos n true }) else t
        let t := t.modCtl (.ex op.team tid) (fun c =>
          { c with repl := (List.range lines).foldl (fun m i => m.del (replKey n (k + i))) c.repl })
        (t.modPort key (fun p => { p with pos := p.pos.set l k' })).retire op.team (tid / 16) key) t

/-- The peer fetches of operations end: the chunk they were for is abandoned, and makes them anew when it is tried again (R122, R123). -/
def State.dropFetches (s : State) (ops : List MatOp) : State :=
  { s with reqs := s.reqs.filter (fun q => !ops.any (fun op => q.2.owner == .eng op.id)) }

/-- An MMA is suspended at its chunk: one thread traps there, the others stay, and nothing of what it fetched for the chunk is kept
(R123). -/
def State.suspend (s : State) (tm tid : Nat) (op : MatOp) (t : TrapInfo) : State := (s.dropFetches [op]).trapAtLatch tm tid op.insn t

/-- MMA_CHUNK_COMMIT (R121): once its operands are there the next chunk commits; a token, a fault of the B fetch or a bad image
suspends the MMA (R123), and so does an R112 trap (DEDUCED, entry 28). -/
def State.mmaChunk (s : State) (c : Nat) : Option State :=
  match (s.core c).queue with
  | [] => none
  | op :: _ =>
    let w := op.vc.toNat % 2 ^ 32
    let o := op.insn.args
    let bf := o.x8.toNat / 16
    let af := o.x8.toNat % 16
    let tm := op.team
    let stuck := (s.teams.find tm).elim true (fun t =>
      !t.placed || !s.running t.ctx || t.latch.elim true (fun l => !l.released || l.suspended != []))
    if op.insn.op ≠ .mma ∨ stuck ∨ 64 * op.chunk = Mma.k w ∨ s.heldBack c op ∨ s.mgmt.slow > s.now % 256 then none
    else if ¬op.ready then
      match s.mmaCheck c op with
      | some t => some (s.suspend tm op.tid op t)
      | none => some (s.modHead c (fun op => { op with ready := true }))
    else
      let lines := if af = 2 ∨ af = 3 then 2 else 1
      let a := match portOf o.a with
        | some n => s.lineRows tm n op.chunk lines (gangRows op.gang)
        | none => .ok []
      match a with
      | .wait _ => none
      | .trap tid t => some (s.suspend tm tid op t)
      | .ok rows =>
        match s.gatherB op with
        | .wait t => if t = s then none else some t
        | .trap tid t => some (s.suspend tm tid op t)
        | .ok (brows, s) =>
          let ea := s.elemA c op rows
          let cfg := (s.core c).mcfg.toNat
          let sc := bit cfg 2 && ocp bf
          let run (b : Nat → Nat → Option Elem) (cmap : Nat → Nat) (len : Nat) : State :=
            s.commitChunk c op ⟨16 * op.gang.length, af == 9, bit cfg 1, ea, b, cmap⟩ len lines
              (rows.any (fun x => x.elim false (fun y => y.2.any id)))
          if Mma.tile w then
            some (run (s.tileElem c bf (if sc then some (64 * bits cfg 23 14) else none) op.chunk brows) (fun x => x) 0)
          else match s.imageAt c op.woff bf with
            | none => some (s.suspend tm op.tid op { tinfo 0x20 0x10 with chunk := BitVec.ofNat 8 op.chunk })
            | some im =>
              let strict := s.strictBlock c op ea
              some (run (s.imageElem c bf im sc strict) (fun x => bits im.cmap (6 * x + 5) (6 * x)) im.len)

/-- A thread leaves the MMA it waited at: its last-read marks take effect and it goes on. -/
def State.retireMma (s : State) (tm tid : Nat) (i : Insn) : State :=
  match s.asUnit (.ex tm tid) i.args (dropMarks i.args mmaShape) with
  | .ok (_, t) => t.finishEx tm tid
  | .error _ => s.finishEx tm tid

/-- A thread takes a trap at the MMA it waited at, which is done: its last-read marks take effect. -/
def State.trapMma (s : State) (tm tid : Nat) (i : Insn) (t : TrapInfo) : State :=
  match s.asUnit (.ex tm tid) i.args (dropMarks i.args mmaShape) with
  | .ok (_, s') => s'.takeTrap (.ex tm tid) t (len0Of i.args.form)
  | .error _ => s

/-- MMA_COMPLETE (R120): after its last chunk the gang retires the MMA together; the leader takes an enabled flag's FPE. -/
def State.mmaComplete (s : State) (c : Nat) : Option State :=
  match (s.core c).queue with
  | [] => none
  | op :: rest =>
    if op.insn.op ≠ .mma ∨ 64 * op.chunk ≠ Mma.k (op.vc.toNat % 2 ^ 32) then none
    else match s.teams.find op.team with
      | none => none
      | some t =>
        if ¬s.running t.ctx then none
        else
          let fl := if op.taint then 0 else op.flags
          let en := LRec.fpen (s.recordOf t) &&& fl
          let gang := (t.latch.elim [] (·.arrived))
          let s := s.modCore c (fun k => { k with queue := rest })
          let s := s.modTeam op.team (fun t => { t with flags := t.flags ||| fl, latch := none })
          some (gang.foldl (fun s tid =>
            if en ≠ 0 ∧ tid = op.tid then
              s.trapMma op.team tid op.insn { tinfo 0x10 (lowFlag en) with flags := fl, done := true }
            else s.retireMma op.team tid op.insn) s)

/-- Flags that the committed chunks of a team's MMA have raised (R75). -/
def State.mmaFlags (s : State) (tm : Nat) : FlagSet :=
  s.cores.foldl (fun f c => c.2.ops.foldl (fun f q =>
    if q.team = tm ∧ q.insn.op = Instr.mma ∧ ¬q.taint then f ||| q.flags else f) f) 0

/-- A suspended MMA is abandoned (R123): it keeps its committed chunks and the flags they raised, and each thread that waits takes
GANG 0x06. -/
def State.abandon (s : State) (tm : Nat) : State :=
  match s.teams.find tm with
  | none => s
  | some t =>
    match t.latch with
    | none => s
    | some l =>
      let fl := s.mmaFlags tm
      let others := List.filter (fun q : MatOp => !(q.team == tm && q.insn.op == Instr.mma))
      let s := { s with cores := s.cores.map (fun (c : Nat × Core) =>
        (c.1, { c.2 with queue := others c.2.queue, saved := c.2.saved.map others })) }
      let s := s.modTeam tm (fun t => { t with latch := none, flags := t.flags ||| fl })
      l.arrived.foldl (fun s tid => s.takeTrap (.ex tm tid) (tinfo 0x42 6) (len0Of l.insn.args.form)) s

/-! ### Meanings -/

/-- MACQ (R125). -/
def execMacq (s : State) : Host.Outcome State Fault Refusal := meaning macqOp s

/-- MREL (R125). -/
def execMrel (s : State) : Host.Outcome State Fault Refusal := meaning mrelOp s

/-- GANG (R125). -/
def execGang (s : State) : Host.Outcome State Fault Refusal := meaning gangOp s

/-- MMA (R108). -/
def execMma (s : State) : Host.Outcome State Fault Refusal := meaning mmaOp s

/-- MLDW (R126). -/
def execMldw (s : State) : Host.Outcome State Fault Refusal := meaning (xferOp .mldw) s

/-- MLDT (R126). -/
def execMldt (s : State) : Host.Outcome State Fault Refusal := meaning (xferOp .mldt) s

/-- MSTT (R126). -/
def execMstt (s : State) : Host.Outcome State Fault Refusal := meaning (xferOp .mstt) s

/-- MLDA (R126). -/
def execMlda (s : State) : Host.Outcome State Fault Refusal := meaning (xferOp .mlda) s

/-- MSTA (R126). -/
def execMsta (s : State) : Host.Outcome State Fault Refusal := meaning (xferOp .msta) s

/-- MZERO (R128). -/
def execMzero (s : State) : Host.Outcome State Fault Refusal := meaning mzeroOp s

/-- MRD (R128). -/
def execMrd (s : State) : Host.Outcome State Fault Refusal := meaning mrdOp s

/-- MWR (R128). -/
def execMwr (s : State) : Host.Outcome State Fault Refusal := meaning mwrOp s

/-- MWAIT (R129). -/
def execMwait (s : State) : Host.Outcome State Fault Refusal := meaning mwaitOp s

/-- MCFG (R130). -/
def execMcfg (s : State) : Host.Outcome State Fault Refusal := meaning mcfgOp s

/-- ENGINE_GRANT (R104): core n. -/
def execEngineGrant (s : State) : Host.Outcome State Fault Refusal := event1 State.engineGrant s

/-- LATCH_RELEASE (R108): team n. -/
def execLatchRelease (s : State) : Host.Outcome State Fault Refusal := event1 State.latchRelease s

/-- MMA_CHUNK_COMMIT (R121): core n. -/
def execMmaChunkCommit (s : State) : Host.Outcome State Fault Refusal := event1 State.mmaChunk s

/-- MMA_COMPLETE (R120): core n. -/
def execMmaComplete (s : State) : Host.Outcome State Fault Refusal := event1 State.mmaComplete s

/-- MATRIX_QUEUE_OP (R106): core n. -/
def execMatrixQueueOp (s : State) : Host.Outcome State Fault Refusal := event1 State.matrixQueueOp s

/-- MATRIX_TRANSFER_COMPLETE (R126): core and operation, and with a third number only that many rows. -/
def execMatrixTransferComplete (s : State) : Host.Outcome State Fault Refusal :=
  event (fun s => match s.occ with
    | .num2 c id => s.matrixTransfer c id none
    | .num3 c id n => s.matrixTransfer c id (some n)
    | _ => none) s

end Sys2Proof.Machine
end

