-- ==== Sys2Proof/Machine/Ladle.lean ====
section
/-! DEFINITION. The Ladle: layouts and plans (R275-R281), its instructions (R285-R287), chunks (R282), the agreement round
(R283) and the stopping of a plan (R284). -/

namespace Sys2Proof.Machine

/-! ### Layout records (R275-R277) -/

/-- A tensor layout record. -/
abbrev TLR := BitVec 2048

namespace TLR
def ext (r : TLR) (k : Nat) : Nat := fld r (32 * k + 31) (32 * k)
def rank (r : TLR) : Nat := fld r 263 256
def fmt (r : TLR) : Nat := fld r 267 264
def axes (r : TLR) : Nat := fld r 273 272 + 1
def map (r : TLR) (k : Nat) : Nat := fld r (8 * k + 327) (8 * k + 320)
def mesh (r : TLR) (a : Nat) : Nat := fld r (16 * a + 399) (16 * a + 384)
def dlist (r : TLR) : Nat := fld r 511 448

/-- Devices of the mesh. -/
def size (r : TLR) : Nat := (List.range (axes r)).foldl (fun n a => n * mesh r a) 1

/-- Bytes of an element. -/
def elem (r : TLR) : Nat := (fmtWidth (fmt r)) / 8
where
  /-- Width of a format the Ladle takes (R60). -/
  fmtWidth (f : Nat) : Nat :=
    if f = 0 ∨ f = 10 then 32 else if f = 1 ∨ f = 11 then 64 else if f = 2 ∨ f = 3 then 16 else 8

/-- The rules of R275 and R276 that the record alone can break. -/
def malformed (r : TLR) : Bool :=
  let n := rank r
  let m := axes r
  decide (n < 1 ∨ 8 < n) || decide (fmt r ∉ [0, 1, 2, 3, 4, 5, 9, 10, 11]) || fld r 271 268 != 0 || fld r 319 274 != 0 ||
    fld r 2047 512 != 0 || dlist r % 16 != 0 ||
    (List.range 4).any (fun a => if a < m then mesh r a == 0 else mesh r a != 0) ||
    (List.range 8).any (fun k =>
      if k < n then
        ext r k == 0 || (map r k != 255 && decide (m ≤ map r k)) || (map r k != 255 && ext r k % mesh r (map r k) != 0) ||
          (List.range k).any (fun j => map r k != 255 && map r j == map r k)
      else ext r k != 0 || map r k != 255) ||
    decide (4096 < size r)

/-- The mesh coordinate of a device on an axis (R276). -/
def coord (r : TLR) (i a : Nat) : Nat := i / (List.range a).foldl (fun n b => n * mesh r b) 1 % mesh r a

/-- Local extent and origin of a dimension on a device (R277). -/
def extent (r : TLR) (k : Nat) : Nat := if map r k = 255 then ext r k else ext r k / mesh r (map r k)
def origin (r : TLR) (i k : Nat) : Nat := if map r k = 255 then 0 else coord r i (map r k) * extent r k

/-- The origins of a device's shard. -/
def origins (r : TLR) (i : Nat) : List Nat := (List.range (rank r)).map (origin r i)

/-- Bytes of a shard. -/
def shard (r : TLR) : Nat := (List.range (rank r)).foldl (fun n k => n * extent r k) (elem r)

/-- The byte of a global element in the shard of a device that holds it. -/
def place (r : TLR) (i : Nat) (g : List Nat) : Nat :=
  ((g.zip (origins r i)).zipIdx.foldl (fun (a : Nat × Nat) x =>
    (a.1 + (x.1.1 - x.1.2) * a.2, a.2 * extent r x.2)) (0, elem r)).1
end TLR

/-- Whether a device list breaks a rule of R276: its entries as bits. -/
def badDevices (dst : Bool) (es : List (BitVec 128)) : Bool :=
  es.any (fun e => fld e 63 12 != 0 || (dst && fld e 127 64 != 0)) || !(es.map (fun e => fld e 11 0)).Nodup

/-- Devices and bases of a list. -/
def deviceList (es : List (BitVec 128)) : List (Nat × Nat) := es.map (fun e => (fld e 11 0, fld e 127 64))

/-! ### Regions and chunks (R278, R279) -/

/-- A region: destination and source index, its box as origin and extent of each dimension, the global number of its first
chunk, the same within this device's list, and its chunks. -/
structure Region where
  d     : Nat
  s     : Nat
  box   : List (Nat × Nat)
  first : Nat
  local' : Nat
  n     : Nat
  mine  : Bool
  deriving DecidableEq, Repr

/-- Elements of a box. -/
def boxSize (b : List (Nat × Nat)) : Nat := b.foldl (fun n x => n * x.2) 1

/-- The intersection of two shards. -/
def meetBox (S D : TLR) (s d : Nat) : List (Nat × Nat) :=
  (List.range (TLR.rank D)).map (fun k =>
    let lo := max (TLR.origin S s k) (TLR.origin D d k)
    let hi := min (TLR.origin S s k + TLR.extent S k) (TLR.origin D d k + TLR.extent D k)
    (lo, hi - lo))

/-- Whether source s is the holder that destination d takes from within its group. -/
def holds (S : TLR) (s d : Nat) : Bool :=
  let g := (List.range (TLR.size S)).filter (fun i => TLR.origins S i == TLR.origins S s)
  g[d % g.length]? == some s

/-- The regions of a plan in global order, as device fid sees them. -/
def regions (src dst : Layout) (csz fid : Nat) : List Region :=
  let per := 2 ^ csz / TLR.elem dst.tlr
  let pairs := (List.range (TLR.size dst.tlr)).flatMap (fun d => (List.range (TLR.size src.tlr)).map (fun s => (d, s)))
  (pairs.foldl (fun (a : List Region × Nat × Nat) p =>
    let b := meetBox src.tlr dst.tlr p.2 p.1
    let n := (boxSize b + per - 1) / per
    if n = 0 ∨ !holds src.tlr p.2 p.1 then a
    else
      let mine := (src.devs.getD p.2 (0, 0)).1 == fid || (dst.devs.getD p.1 (0, 0)).1 == fid
      (a.1 ++ [⟨p.1, p.2, b, a.2.1, a.2.2, n, mine⟩], a.2.1 + n, if mine then a.2.2 + n else a.2.2)) ([], 0, 0)).1

def Plan.regions (p : Plan) (fid : Nat) : List Region := Sys2Proof.Machine.regions p.src p.dst p.csz fid

/-- The region of a global chunk. -/
def Plan.regionOf (p : Plan) (fid g : Nat) : Option Region :=
  (p.regions fid).find? (fun r => decide (r.first ≤ g ∧ g < r.first + r.n))

/-- Length of this device's chunk list. -/
def chunkTotal (rs : List Region) : Nat := rs.foldl (fun n r => if r.mine then n + r.n else n) 0

/-- The global element at a position of a box, dimension 0 fastest. -/
def boxElem : List (Nat × Nat) → Nat → List Nat
  | [], _ => []
  | (lo, n) :: r, p => (lo + p % n) :: boxElem r (p / n)

/-- Byte offsets of each element of a chunk in the source and the destination shard. -/
def Plan.elems (p : Plan) (r : Region) (g : Nat) : List (Nat × Nat) :=
  let per := 2 ^ p.csz / TLR.elem p.dst.tlr
  let lo := (g - r.first) * per
  (List.range (min per (boxSize r.box - lo))).map (fun i =>
    let e := boxElem r.box (lo + i)
    (TLR.place p.src.tlr r.s e, TLR.place p.dst.tlr r.d e))

/-! ### The plan digest (R281) -/

/-- One bit of the CRC-64 of R281. -/
def crcBit (c : Nat) (b : Bool) : Nat :=
  let c' := c * 2 % 2 ^ 64
  if bit c 63 != b then c' ^^^ 0x42F0E1EBA9EA3693 else c'

/-- One byte, most significant bit first. -/
def crcByte (c : Nat) (b : Nat) : Nat := [7, 6, 5, 4, 3, 2, 1, 0].foldl (fun c i => crcBit c (bit b i)) c

/-- The CRC-64 of bytes. -/
def crc64 (l : List Nat) : Nat := l.foldl crcByte 0

/-- The n bytes of a number, least significant first. -/
def leBytes (v n : Nat) : List Nat := (List.range n).map (fun i => v / 2 ^ (8 * i) % 256)

/-- The plan digest. -/
def planDigest (src dst : Layout) (csz : Nat) (tag : W64) : Nat :=
  crc64 (leBytes src.tlr.toNat 56 ++ leBytes dst.tlr.toNat 56 ++ (src.devs ++ dst.devs).flatMap (fun d => leBytes d.1 2) ++
    [csz] ++ leBytes tag.toNat 8)

/-! ### The progress record (R280) -/

namespace Prog
def csz (h : Nat) : Nat := bits h 76 72
def shh (h : Nat) : Nat := bits h 71 64
def tag (h : Nat) : Nat := bits h 63 0
def state (h : Nat) : Nat := bits h 87 80
def fcode (h : Nat) : Nat := bits h 95 88
def nbits (h : Nat) : Nat := bits h 127 96
def total (h : Nat) : Nat := bits h 159 128
def done (h : Nat) : Nat := bits h 191 160
def digest (h : Nat) : Nat := bits h 255 192

/-- A header that breaks a rule of R280. -/
def malformed (h : Nat) : Bool :=
  bits h 511 256 != 0 || bits h 79 77 != 0 || decide (csz h < 12 ∨ 20 < csz h) || decide (5 < state h) || decide (2 ^ 22 < nbits h)
end Prog

/-- What writing the progress record comes to. -/
inductive RecRes where
  | ok (s : State)
  /-- Its page is in transit: a record is posted. -/
  | wait (s : State)

/-- A piece of the progress record written, or OR-ed into it. A write that fails a check leaves the record as it is. -/
def State.recPut (s : State) (id : Nat) (p : Plan) (off n : Nat) (kind : ReqKind) : RecRes :=
  match s.elemAcc p.owner p.ctx p.hidx p.handle ((p.hdr + off : Nat) : Int) 0 n .wr with
  | .error _ => .ok s
  | .ok a =>
    match s.engAccess (s.engReq id p.owner a kind) with
    | .ok _ _ t => .ok t
    | .park page cause sz => .wait (s.noteOnce id p.ctx page cause sz true)
    | .hold => .wait s
    | .send _ => .ok s
    | .fail _ => .ok s

/-- Several pieces, all of them or none. -/
def State.recPuts (s0 : State) (id : Nat) (p : Plan) : List (Nat × Nat × ReqKind) → State → RecRes
  | [], s => .ok s
  | (off, n, k) :: r, s =>
    match s.recPut id p off n k with
    | .ok t => s0.recPuts id p r t
    | .wait _ =>
      match s0.recPut id p off n k with
      | .wait t => .wait t
      | .ok _ => .wait s0

/-- A field of the record stored. -/
def putField (off n v : Nat) : Nat × Nat × ReqKind := (off, n, .store v false)

/-- Stores a plan. -/
def State.modPlan (s : State) (id : Nat) (f : Plan → Plan) : State := { s with plans := s.plans.alter id f }

/-- The chunks that wait at a plan that stops are answered busy (R282). -/
def State.freeInbox (s : State) (p : Plan) : State :=
  p.inbox.foldl (fun s x => s.sendBack x.src (.answer x.src p.tag x.index .busy)) s

/-- Whether a plan has its slot and has not ended. -/
def Plan.live (p : Plan) : Bool :=
  match p.stage with
  | .queued | .ending _ _ _ => false
  | _ => true

/-- The plan ends: the record's state (and fcode of a stop or failure), the status, and the slot is free. Where the record's page is in
transit the end stands and waits for it (R153). -/
def State.planEnd (s : State) (id : Nat) (p : Plan) (state : Nat) (fcode : Option Nat) (code : Nat) : State :=
  let s := s.freeInbox p
  match s.recPuts id p (putField 10 1 state :: (match fcode with | some c => [putField 11 1 c] | none => [])) s with
  | .wait t => t.modPlan id (fun p => { p with inbox := [], stage := .ending state fcode code })
  | .ok t =>
    let t := t.modCtx p.ctx (fun c => { c with
      stopped := if state = 4 then c.stopped.del p.hdrIA else c.stopped.put p.hdrIA (p.pois, p.heard) })
    ({ t with plans := t.plans.del id }).reply p.ctx p.landing (statusWord code 0 0) false

/-- A plan fails: state 5 (R284), which a plan that stops with 0x98 or 0x99 also writes (R282; DESIGN CHOICE, entry 59). -/
def State.planFail (s : State) (id : Nat) (p : Plan) (code : Nat) : State := s.planEnd id p 5 (some code) code

/-! ### Sending (R282) -/

/-- A message to another device's Ladle; none without a route. -/
def State.ladleSend (s : State) (id dst cls : Nat) (o : Outgoing) : Option State :=
  if !s.mgmt.fidSet then none
  else match s.route ⟨s.mgmt.fid, id, 0, dst, 0, 0, .load, none, id⟩ with
    | .link n => some (s.sendLink n cls 0 o)
    | _ => none

/-- What moving the bytes of a chunk comes to. -/
inductive ChunkRes where
  | ok (data : List Byte) (bad : List Nat) (s : State)
  | wait (s : State)
  | fail

/-- The access of a space 0 location of a context through its range registers alone: checks 3, 5 and 6. -/
def State.vaAcc (s : State) (ctx hidx va size : Nat) (need : Need) : Except TrapInfo Acc := do
  let p : Spot := ⟨hidx, 0, 0, 0, 0, va, va, size, size, none, 1⟩
  if va < 2 ^ 64 ∧ semBase < va + size then .error (accTrap 0x24 8 hidx va)
  else do
    p.aligned
    s.addrOf ctx p need

/-- A chunk read from the source shard as copy reads (R282). -/
def State.chunkRead (s0 : State) (id : Nat) (p : Plan) (base e : Nat) : List (Nat × Nat) → Nat → State → List Byte → List Nat → ChunkRes
  | [], _, s, d, b => .ok d b s
  | (off, _) :: r, i, s, d, b =>
    match s.vaAcc p.ctx 0 (base + off) e .rd with
    | .error _ => .fail
    | .ok a =>
      match s.engAccess (s.engReq id p.owner a .load) with
      | .ok v po t => s0.chunkRead id p base e r (i + 1) t (d ++ (leBytes v e).map (BitVec.ofNat 8 ·)) (if po then b ++ [i] else b)
      | .park page cause sz => .wait (s0.noteOnce id p.ctx page cause sz false)
      | .hold => .wait s0
      | .send _ => .fail
      | .fail _ => .fail

/-- A chunk written into the shadow window (R282, R246). -/
def State.chunkWrite (s0 : State) (id : Nat) (p : Plan) (e : Nat) (bad : List Nat) :
    List (Nat × Nat) → Nat → List Byte → State → ChunkRes
  | [], _, _, s => .ok [] bad s
  | (_, off) :: r, i, data, s =>
    let v := (data.take e).foldr (fun b n => b.toNat + 256 * n) 0
    match s.elemAcc p.owner p.ctx p.shh (Hnd.shadow p.pair) (off : Int) 0 e .wr with
    | .error _ => .fail
    | .ok a =>
      match s.engAccess (s.engReq id p.owner a (.store v (bad.contains i))) with
      | .ok _ _ t => s0.chunkWrite id p e bad r (i + 1) (data.drop e) t
      | .park page cause sz => .wait (s0.noteOnce id p.ctx page cause sz true)
      | .hold => .wait s0
      | .send _ => .fail
      | .fail _ => .fail

/-- Bit i of the chunk list set, then the count of set bits (R280). -/
def State.setChunk (s : State) (id : Nat) (p : Plan) (i g : Nat) (pois : Bool) : RecRes :=
  let bs := p.bits.add i
  match s.recPuts id p [(64 + i / 8, 1, .atomic 6 8 (BitVec.ofNat 64 (2 ^ (i % 8))) 0 false), putField 20 4 bs.length] s with
  | .ok t => .ok (t.modPlan id (fun p => { p with bits := bs, send := p.send.del g, pois := p.pois || pois,
                                                  inbox := p.inbox.filter (fun x => x.index != g) }))
  | .wait t => .wait t

/-- A chunk that has arrived is written and its bit set; none where it must wait. The second part says that a write failed. -/
def State.takeChunk (s : State) (id : Nat) (p : Plan) (r : Region) (g : Nat) (data : List Byte) (bad : List Nat) :
    Option State × Bool × State :=
  match s.chunkWrite id p (TLR.elem p.dst.tlr) bad (p.elems r g) 0 data s with
  | .fail => (none, true, s)
  | .wait t => (none, false, t)
  | .ok _ _ t =>
    let i := r.local' + (g - r.first)
    match t.setChunk id p i g (!bad.isEmpty) with
    | .ok u => (some u, false, u)
    | .wait _ =>
      match s.setChunk id p i g (!bad.isEmpty) with
      | .wait u => (none, false, u)
      | .ok _ => (none, false, s)

/-- LADLE_BUSY_RETRY (R282): a chunk of the plan whose bit is clear, whose answer is not awaited and whose backoff has ended is
read and sent; a chunk for this device itself lands. -/
def State.ladleSendChunk (s : State) (id g : Nat) : Option State :=
  match s.plans.find id with
  | none => none
  | some p =>
    let fid := s.mgmt.fid
    match p.regionOf fid g with
    | none => none
    | some r =>
      let ready := match p.send.find g with
        | some x => !x.awaited && decide (x.clock ≤ s.now)
        | none => true
      let src := p.src.devs.getD r.s (0, 0)
      let dst := (p.dst.devs.getD r.d (0, 0)).1
      if !s.running p.ctx || p.stage != .sending || src.1 != fid || p.bits.has (r.local' + (g - r.first)) || !ready then none
      else match s.chunkRead id p src.2 (TLR.elem p.dst.tlr) (p.elems r g) 0 s [] [] with
        | .fail => some (s.planFail id p 0x98)
        | .wait t => some t
        | .ok data bad t =>
          if dst = fid then
            match t.takeChunk id p r g data bad with
            | (some u, _, _) => some u
            | (none, true, _) => some (s.planFail id p 0x99)
            | (none, false, u) => some u
          else
            match t.ladleSend id dst clsRequest (.chunk dst p.tag p.digest g data bad) with
            | none => some (s.planFail id p 0x97)
            | some u =>
              let back := (p.send.find g).elim 512 (·.backoff)
              some (u.modPlan id (fun p => { p with send := p.send.put g { awaited := true, clock := s.now, backoff := back } }))

/-- Whether a plan runs: its context does, and it is live. -/
def State.planRuns (s : State) (p : Plan) : Bool := s.running p.ctx && p.live

/-- LADLE_CHUNK_ARRIVAL (R282): what the receiver does with a chunk, and its answer. A chunk that must wait for a page is parked here, and
its sender hears so (R153, R257); one whose write fails stops the plan and is turned away as by a stopped one. -/
def State.ladleChunk (s : State) (src : Nat) (tag digest : W64) (g : Nat) (data : List Byte) (bad : List Nat) : State :=
  let fid := s.mgmt.fid
  let say (s : State) (a : LadleAnswer) : State := s.sendBack src (.answer src tag g a)
  let mine := s.plans.filter (fun q => q.2.tag == tag && s.planRuns q.2)
  match mine.find? (fun q => q.2.digest == digest) with
  | none => if mine.isEmpty then say s .busy else say s .mismatch
  | some (id, p) =>
    match p.regionOf fid g with
    | none => say s .mismatch
    | some r =>
      if (p.dst.devs.getD r.d (0, 0)).1 ≠ fid then say s .mismatch
      else if p.bits.has (r.local' + (g - r.first)) then say s .ack
      else match s.takeChunk id p r g data bad with
        | (some t, _, _) => say t .ack
        | (none, true, _) => say (s.planFail id { p with inbox := p.inbox.filter (fun x => x.index != g) } 0x99) .busy
        | (none, false, t) =>
          if p.inbox.any (fun x => x.index == g) then t
          else say (t.modPlan id (fun p => { p with inbox := p.inbox ++ [⟨src, g, data, bad⟩] })) .parked

/-- A chunk that waited at this receiver is tried again. -/
def State.ladleInbox (s : State) (id g : Nat) : Option State :=
  match s.plans.find id with
  | none => none
  | some p =>
    if !s.planRuns p then none
    else (p.inbox.find? (fun x => x.index == g)).map (fun x => s.ladleChunk x.src p.tag p.digest g x.data x.bad)

/-- An acknowledged chunk's bit is set; the acknowledgement waits where the record's page is in transit (R153). DESIGN CHOICE, entry 59: that
the chunk was poisoned shows in the final status of its receiver alone (R282). -/
def State.ladleAck (s : State) (id g : Nat) (p : Plan) (r : Region) : State :=
  match s.setChunk id p (r.local' + (g - r.first)) g false with
  | .ok t => t
  | .wait t => t.modPlan id (fun p => { p with send := p.send.alter g (fun x => { x with acked := true }) })

/-- LADLE_CHUNK_ANSWER (R282). -/
def State.ladleAnswer (s : State) (id g : Nat) (a : LadleAnswer) : Option State :=
  match s.plans.find id with
  | none => none
  | some p =>
    match p.send.find g, p.regionOf s.mgmt.fid g with
    | some x, some r =>
      if !s.planRuns p || !x.awaited then none
      else match a with
        | .busy =>
          let b := min (2 * x.backoff) (2 ^ 20)
          some (s.modPlan id (fun p => { p with send := p.send.put g { awaited := false, clock := s.now + b, backoff := b } }))
        | .parked => some (s.modPlan id (fun p => { p with send := p.send.put g { x with parked := true } }))
        | .mismatch => some (s.planFail id p 0x96)
        | .remote => some (s.planFail id p 0x97)
        | .ack => some (s.ladleAck id g p r)
    | _, _ => none

/-- An acknowledgement that waits for the record's page is acted on again. -/
def State.ladleKept (s : State) (id g : Nat) : Option State :=
  match s.plans.find id with
  | none => none
  | some p =>
    match p.send.find g, p.regionOf s.mgmt.fid g with
    | some x, some r => if s.planRuns p && x.acked then some (s.ladleAck id g p r) else none
    | _, _ => none

/-- A chunk that has had neither an answer nor a park notice in time fails with REMOTE (R266, R284). -/
def State.ladleLate (s : State) (id g : Nat) : Option State :=
  match s.plans.find id with
  | none => none
  | some p =>
    match p.send.find g with
    | some x =>
      if s.planRuns p ∧ x.awaited ∧ ¬x.parked ∧ ¬x.acked ∧ x.clock + remoteLimit ≤ s.now then some (s.planFail id p 0x97) else none
    | none => none

/-! ### The agreement round (R283) -/

/-- Every device of a plan. -/
def Plan.devices (p : Plan) : List Nat := ((p.src.devs ++ p.dst.devs).map (·.1)).eraseDups

/-- The coordinator: the device of destination index 0. -/
def Plan.coord (p : Plan) : Nat := (p.dst.devs.headD (0, 0)).1

/-- The running plan with a tag. -/
def State.planTagged (s : State) (tag : W64) : Option (Nat × Plan) :=
  s.plans.find? (fun q => q.2.tag == tag && s.planRuns q.2)

/-- A message to every other device of a plan; the plan fails where one cannot be reached. -/
def State.tellAll (s : State) (id : Nat) (p : Plan) (o : Nat → Outgoing) : Option State :=
  (p.devices.filter (· != s.mgmt.fid)).foldl (fun (a : Option State) d => a.bind (fun s => s.ladleSend id d clsRequest (o d))) (some s)

/-- The coordinator has heard done from a device: once all have reported, it sends commit. A device that was stopped after sending done
and sends it again is told the commit it has missed; the round does not go back. -/
def State.heardDone (s : State) (id : Nat) (p : Plan) (src : Nat) : State :=
  let p := { p with heard := p.heard.add src }
  let s := s.modPlan id (fun _ => p)
  if p.stage = .committed ∨ p.stage = .published then (s.ladleSend id src clsRequest (.commit src p.tag)).getD s
  else if p.stage = .agreeing ∧ p.devices.all p.heard.has then
    match s.tellAll id p (fun d => .commit d p.tag) with
    | some t => t.modPlan id (fun p => { p with stage := .committed })
    | none => s.planFail id p 0x97
  else s

/-- LADLE_DONE at the device itself: done equals total, the record's state is 3 and the coordinator hears. -/
def State.ladleDone (s : State) (id : Nat) : Option State :=
  match s.plans.find id with
  | none => none
  | some p =>
    if !s.running p.ctx || p.stage != .sending || p.bits.length != p.total then none
    else match s.recPuts id p [putField 10 1 3] s with
      | .wait t => some t
      | .ok t =>
        let p := { p with stage := .agreeing }
        let t := t.modPlan id (fun _ => p)
        if p.coord = s.mgmt.fid then some (t.heardDone id p s.mgmt.fid)
        else match t.ladleSend id p.coord clsRequest (.done p.coord p.tag) with
          | some u => some u
          | none => some (s.planFail id p 0x97)

/-- LADLE_DONE at the coordinator. A message whose tag no running plan has is kept until one takes it up: the coordinator's plan may not
have been issued yet, or may be stopped (DEDUCED, entry 37). -/
def State.ladleHear (s : State) (src : Nat) (tag : W64) : Option State :=
  match s.planTagged tag with
  | none => if s.dones.any (· == (src, tag)) then none else some { s with dones := s.dones ++ [(src, tag)] }
  | some (id, p) =>
    if p.coord ≠ s.mgmt.fid ∨ src ∉ p.devices then none else some (s.heardDone id p src)

/-- A plan that begins at its coordinator takes up the done messages that came before it ran (R283). -/
def State.takeDones (s : State) (id : Nat) (p : Plan) : State :=
  if p.coord ≠ s.mgmt.fid then s
  else
    let mine (x : Nat × W64) : Bool := x.2 == p.tag && p.devices.contains x.1
    { s.modPlan id (fun p => { p with heard := (s.dones.filter mine).foldl (fun h x => h.add x.1) p.heard }) with
      dones := s.dones.filter (fun x => !mine x) }

/-- The coordinator has an answer published: once every device has answered, it sends finished. DESIGN CHOICE, entry 59: a published or
finished message without a route is dropped, and a done or commit fails the plan with 0x97. -/
def State.heardPublished (s : State) (id : Nat) (p : Plan) (src : Nat) : State :=
  let p := { p with answered := p.answered.add src }
  let s := s.modPlan id (fun _ => p)
  if p.devices.all p.answered.has then (s.tellAll id p (fun d => .finished d p.tag)).getD s else s

/-- LADLE_COMMIT: a destination device publishes its pair, and every device answers published. -/
def State.ladleCommit (s : State) (id : Nat) : Option State :=
  match s.plans.find id with
  | none => none
  | some p =>
    let fid := s.mgmt.fid
    if !s.running p.ctx || p.stage != .committed then none
    else
      let say (t : State) : State :=
        let p := { p with stage := .published }
        let t := t.modPlan id (fun _ => p)
        if p.coord = fid then t.heardPublished id p fid
        else (t.ladleSend id p.coord clsRequest (.published p.coord p.tag)).getD t
      if p.dst.devs.any (fun d => d.1 == fid) then
        match s.publish p.ctx p.pair with
        | .done 0 t => some (say t)
        | .done code t => some (t.planFail id p code)
        | .park page cause sz => some (s.noteOnce id p.ctx page cause sz true)
        | .away _ _ _ => some (s.planFail id p 0x82)
      else some (say s)

/-- Commit has come from the coordinator. -/
def State.ladleCommitted (s : State) (tag : W64) : Option State :=
  match s.planTagged tag with
  | none => none
  | some (id, p) =>
    if p.coord == s.mgmt.fid then none
    else if p.stage = .published then s.ladleSend id p.coord clsRequest (.published p.coord p.tag)
    else if p.stage != .agreeing then none
    else
      let s := s.modPlan id (fun p => { p with stage := .committed })
      some ((s.ladleCommit id).getD s)

/-- LADLE_PUBLISHED at the coordinator. -/
def State.ladlePublished (s : State) (src : Nat) (tag : W64) : Option State :=
  match s.planTagged tag with
  | none => none
  | some (id, p) =>
    if p.coord ≠ s.mgmt.fid ∨ src ∉ p.devices then none else some (s.heardPublished id p src)

/-- LADLE_FINISHED: state 4 and the status. -/
def State.ladleFinish (s : State) (id : Nat) (p : Plan) : Option State :=
  if p.stage != .published then none
  else if p.coord == s.mgmt.fid && !p.devices.all p.answered.has then none
  else some (s.planEnd id p 4 none (if p.pois then 0x11 else 0))

/-! ### Instructions -/

/-- A read of a window at an offset as the Ladle's instructions make it: space 0, plain, the offset itself a multiple of the size
(R285, R286). -/
def ladleAcc (hidx size : Nat) (v : Opnds) (off : Lanes) (need : Need) : M Acc :=
  oneAccess { hidx, spaces := [0], kinds := kPlain, size, align := size, need, offAlign := size } { v with b := off } false

/-- A load at the instruction; poisoned bits are a poisoned address or control word. -/
def loadNow (a : Acc) : M Nat := do
  let x ← doNowN ((← get).reqOf (← unit) a .load (← here) 255 .none)
  trapIf x.2 0x11 1
  pure x.1

/-- A device list (R285). -/
def loadDevices (hidx va : Nat) : Nat → M (List (BitVec 128))
  | 0 => pure []
  | n + 1 => do
    let s ← get
    let a ← orTrap (match s.vaAcc (s.ctxOf (← unit)) hidx va 16 .rd with
      | .ok a => .ok a
      | .error t => .error { t with loc := BitVec.ofNat 64 va })
    let x ← loadNow a
    let r ← loadDevices hidx (va + 16) n
    pure (BitVec.ofNat 128 x :: r)

/-- A layout record with its device list; none where it is malformed (R276). -/
def loadLayout (hidx x : Nat) (dst : Bool) : M (Option Layout) := do
  let r : TLR := BitVec.ofNat 2048 x
  if TLR.malformed r then pure none
  else do
    let es ← loadDevices hidx (TLR.dlist r) (TLR.size r)
    pure (if badDevices dst es then none else some ⟨r, deviceList es⟩)

/-- Whether a device is reached only through the scale-out endpoint (R285). -/
def State.scaleOut (s : State) (d : Nat) : Bool := d != s.mgmt.fid && Route.mode (s.routes.get d 0).toNat == 2

/-- The status with which LADLE or LRESUME ends at issue, 0 when the plan may run (R285). -/
def State.planCheck (s : State) (ctx : Nat) (pair : Handle) (src dst : Layout) (hdr total : Nat) (digest : Nat) (resume : Bool) :
    Nat :=
  let fid := s.mgmt.fid
  let all := src.devs ++ dst.devs
  let own := dst.devs.any (fun d => d.1 == fid)
  if !s.mgmt.fidSet || !all.any (fun d => d.1 == fid) then 0x92
  else if all.any (fun d => s.scaleOut d.1) then 0x97
  else if Hnd.space pair ≠ 0 ∨ Hnd.kind pair ≠ 3 then 0x24
  else
    let opened := match s.pairAt ctx pair with
      | .ok x => (s.parts.find x.part).elim false (fun p => p.pairs.any (x.is ctx))
      | _ => false
    if !opened then 0x82
    else if own ∧ Hnd.limit pair < TLR.shard dst.tlr then 0x20
    else if Prog.nbits hdr < total then 0x93
    else if resume ∧ (Prog.digest hdr ≠ digest ∨ Prog.total hdr ≠ total) then 0x96
    else 0

/-- The set bits of n bytes of a record's bitmap from byte i on: each byte lies in the handle's window and is translated by itself (R280,
R147). -/
def loadBits (hidx : Nat) (h : Handle) (hdr : Nat) : Nat → Nat → M NatSet
  | _, 0 => pure []
  | i, n + 1 => do
    let s ← get
    let u ← unit
    let x ← loadNow (← orTrap (s.elemAcc u (s.ctxOf u) hidx h ((hdr + 64 + i : Nat) : Int) 0 1 .rd))
    let r ← loadBits hidx h hdr (i + 1) n
    pure ((setBits x 8).map (8 * i + ·) ++ r)

/-- The writes that begin a plan; the unit parks where the record's page is in transit. -/
def beginRecord (id : Nat) (p : Plan) (ws : List (Nat × Nat × ReqKind)) : M Unit := do
  let s ← get
  match s.recPuts id p ws s with
  | .ok t => set t
  | .wait _ =>
    match s.elemAcc p.owner p.ctx p.hidx p.handle (p.hdr : Int) 0 1 .wr with
    | .error t => stopTrap t
    | .ok a =>
      match s.engAccess (s.engReq id p.owner a (.store 0 false)) with
      | .park page cause sz => throw (Stop.park page cause sz true)
      | _ => wait .plan

/-- The plan of a unit that waits for a slot, of the context it runs in (R369). -/
def State.queuedPlan (s : State) (u : Agent) : Option (Nat × Plan) :=
  s.plans.find? (fun q => q.2.owner == u && q.2.stage == .queued && q.2.ctx == s.ctxOf u)

/-- A plan that has waited at its instruction begins, once one of the four slots is free (R282, R285). -/
def startPlan (id : Nat) (p : Plan) : M Unit := do
  waitUnless (decide (((← get).plans.filter (fun q => q.2.stage != .queued)).length < 4)) .plan
  let landing ← landD
  beginRecord id p [putField 10 1 1]
  modify (fun s => (s.modPlan id (fun _ => { p with landing, stage := .sending })).takeDones id p)

/-- The unit waits at its instruction for a plan slot (R282, R285): of what it has done, its total and digest and its queued plan stay. -/
def queuePlan (s0 : State) (id : Nat) (p : Plan) (ws : List (Nat × Nat × ReqKind)) : M Unit := do
  let s ← get
  let t := match s0.recPuts id p ws s0 with
    | .ok t => t
    | .wait t => t
  set ({ t with plans := s.plans, fresh := s.fresh }.setWait (← unit) .plan)

/-- LADLE and LRESUME (R285). A poisoned offset is reported before any other check (R80). The total and the digest are written before the
wait for a slot. -/
def ladleOp (i : Instr) (resume : Bool) : M Unit := do
  let o ← ops
  let hi := o.x8.toNat
  let u ← unit
  let s0 ← get
  onceOp i {} (fun v _ => do
    match (← get).queuedPlan u with
    | some (id, p) => startPlan id p
    | none => do
      let m := lowLane (← lanes)
      trapIf ((v.a m).poison || (v.b m).poison || (v.c m).poison) 0x11 1
      let ha ← ladleAcc hi 64 v v.b .rd
      let sa ← ladleAcc hi 256 v v.a .rd
      let da ← ladleAcc hi 256 v v.c .rd
      let hdr ← loadNow ha
      let sx ← loadNow sa
      let dx ← loadNow da
      let st := Prog.state hdr
      let bad := if Prog.malformed hdr then 0x93 else if (if resume then st != 2 && st != 5 else st != 0) then 0x9A else 0
      if bad ≠ 0 then writeStatus bad false
      else do
        match ← loadLayout hi sx false with
        | none => writeStatus 0x90 false
        | some src =>
          match ← loadLayout hi dx true with
          | none => writeStatus 0x90 false
          | some dst =>
            let same := TLR.rank src.tlr == TLR.rank dst.tlr && TLR.fmt src.tlr == TLR.fmt dst.tlr && fld src.tlr 255 0 == fld dst.tlr 255 0
            if !same then writeStatus 0x91 false
            else do
              let s ← get
              let ctx := s.ctxOf u
              let shh := Prog.shh hdr
              let pair := s.handleOf u shh
              let tag : W64 := BitVec.ofNat 64 (Prog.tag hdr)
              let total := chunkTotal (regions src dst (Prog.csz hdr) s.mgmt.fid)
              let digest := planDigest src dst (Prog.csz hdr) tag
              let code := s.planCheck ctx pair src dst hdr total digest resume
              if code ≠ 0 then writeStatus code false
              else do
                let hdrOff := ha.loc - Hnd.base (s.handleOf u hi)
                let set0 ← (if resume then loadBits hi (s.handleOf u hi) hdrOff 0 ((total + 7) / 8) else pure [])
                let old := if resume then (s.context ctx).stopped.get ha.addr (false, []) else (false, [])
                awaitReplies 1
                let id ← freshId
                let p : Plan :=
                  { owner := u, ctx, gid := ← myGrid, core := (s.coreOf u).getD 0, handle := s.handleOf u hi, hidx := hi,
                    hdr := hdrOff, hdrIA := ha.addr, src, dst, pair, shh, csz := Prog.csz hdr, tag,
                    digest := BitVec.ofNat 64 digest, total, bits := set0.filter (· < total), send := [], inbox := [],
                    stage := .queued, pois := old.1, heard := old.2, answered := [], landing := .none }
                let ws := if resume then [] else [putField 16 4 total, putField 24 8 digest]
                beginRecord id p ws
                modify (fun s => { s with plans := s.plans.put id p })
                if ((← get).plans.filter (fun q => q.2.stage != .queued)).length < 4 then startPlan id p
                else queuePlan s0 id p ws)

/-- The plan whose progress record lies at an IA. -/
def State.planAt (s : State) (ctx ia : Nat) : Option (Nat × Plan) :=
  s.plans.find? (fun q => q.2.ctx == ctx && q.2.hdrIA == ia && q.2.stage != .queued)

/-- The state that the record of a plan in its slot shows (R280). -/
def Plan.state (p : Plan) : Nat :=
  match p.stage with
  | .queued | .sending => 1
  | .ending st _ _ => st
  | _ => 3

/-- LSTAT (R286). -/
def lstatOp : M Unit := do
  let o ← ops
  let sel := o.c.immVal % 4
  let sh : Shape := { a := 0, c := 0 }
  onceOp .lstat sh (fun v _ => do
    let a ← ladleAcc o.x8.toNat 64 v v.b .rd
    let x ← doNowN ((← get).reqOf (← unit) a .load (← here) 255 .none)
    acquire 4
    let s ← get
    let h := x.1
    let now := s.planAt (s.ctxOf (← unit)) a.addr
    let r := match sel, now with
      | 0, some (_, p) => p.state
      | 0, none => Prog.state h
      | 1, some (_, p) => p.bits.length
      | 1, none => Prog.done h
      | 2, some (_, p) => p.total
      | 2, none => Prog.total h
      | _, some (_, p) => (match p.stage with
        | .ending _ (some f) _ => f
        | _ => Prog.fcode h)
      | _, none => Prog.fcode h
    writeD 1 (fun _ => heldVal ⟨BitVec.ofNat 64 r, x.2⟩))

/-- LABORT (R287). -/
def labortOp : M Unit := do
  let o ← ops
  let sh : Shape := { a := 0, c := 0 }
  onceOp .labort sh (fun v _ => do
    let a ← ladleAcc o.x8.toNat 64 v v.b .rd
    let s ← get
    match (s.planAt (s.ctxOf (← unit)) a.addr).filter (fun q => q.2.live) with
    | none => writeStatus 0x9B false
    | some (id, p) => do
      beginRecord id p [putField 10 1 2, putField 11 1 0x95]
      modify (fun s => s.planEnd id p 2 (some 0x95) 0x95)
      writeStatus 0 false)

/-! ### Meanings -/

/-- LADLE (R285). -/
def execLadle (s : State) : Host.Outcome State Fault Refusal := meaning (ladleOp .ladle false) s

/-- LRESUME (R285). -/
def execLresume (s : State) : Host.Outcome State Fault Refusal := meaning (ladleOp .lresume true) s

/-- LSTAT (R286). -/
def execLstat (s : State) : Host.Outcome State Fault Refusal := meaning lstatOp s

/-- LABORT (R287). -/
def execLabort (s : State) : Host.Outcome State Fault Refusal := meaning labortOp s

/-- LADLE_CHUNK_ARRIVAL (R282): a chunk of another device, turned away while this device has no fabric id (R272); or plan and chunk of one
that waited here. -/
def execLadleChunkArrival (s : State) : Host.Outcome State Fault Refusal :=
  event (fun s => match s.occ with
    | .chunk src tag digest g data bad =>
      if s.mgmt.fidSet then some (s.ladleChunk src tag digest g data bad)
      else some (s.sendBack src (.answer src tag g .remote))
    | .num2 id g => s.ladleInbox id g
    | _ => none) s

/-- LADLE_CHUNK_ANSWER (R282): an answer; or plan and chunk of an acknowledgement that waited for the record's page. -/
def execLadleChunkAnswer (s : State) : Host.Outcome State Fault Refusal :=
  event (fun s => match s.occ with
    | .answer id g a => s.ladleAnswer id g a
    | .num2 id g => s.ladleKept id g
    | _ => none) s

/-- LADLE_BUSY_RETRY (R282): plan and chunk; the first sending of a chunk has no backoff to wait for. -/
def execLadleBusyRetry (s : State) : Host.Outcome State Fault Refusal :=
  event (fun s => match s.occ with
    | .num2 id g => s.ladleSendChunk id g
    | _ => none) s

/-- A message of the agreement round is answered with not-ready while this device has no fabric id (R272). -/
def State.roundMsg (s : State) (src : Nat) (tag : W64) (f : Option State) : Option State :=
  if s.mgmt.fidSet then f else some (s.sendBack src (.unready src tag.toNat))

/-- LADLE_DONE (R283): the plan of this device, or the message of another. -/
def execLadleDone (s : State) : Host.Outcome State Fault Refusal :=
  event (fun s => match s.occ with
    | .num id => s.ladleDone id
    | .ladle src tag => s.roundMsg src tag (s.ladleHear src tag)
    | _ => none) s

/-- LADLE_COMMIT (R283): the message, or a plan whose exchange waits. -/
def execLadleCommit (s : State) : Host.Outcome State Fault Refusal :=
  event (fun s => match s.occ with
    | .num id => s.ladleCommit id
    | .ladle src tag => s.roundMsg src tag (s.ladleCommitted tag)
    | _ => none) s

/-- LADLE_PUBLISHED (R283). -/
def execLadlePublished (s : State) : Host.Outcome State Fault Refusal :=
  event (fun s => match s.occ with
    | .ladle src tag => s.roundMsg src tag (s.ladlePublished src tag)
    | _ => none) s

/-- LADLE_FINISHED (R283): the message, the coordinator's own plan, or a plan whose end waited for its record's page. -/
def execLadleFinished (s : State) : Host.Outcome State Fault Refusal :=
  event (fun s => match s.occ with
    | .num id => (s.plans.find id).bind (fun p => match p.stage with
      | .ending st f code => some (s.planEnd id p st f code)
      | _ => if s.running p.ctx && p.coord == s.mgmt.fid then s.ladleFinish id p else none)
    | .ladle src tag => s.roundMsg src tag
        ((s.planTagged tag).bind (fun q => if q.2.coord == s.mgmt.fid then none else s.ladleFinish q.1 q.2))
    | _ => none) s

/-- REMOTE_TIMEOUT (R266): request n had neither a reply nor a notice in time, or its reply was dropped while it was parked (R411); or a
chunk of a plan had no answer. -/
def execRemoteTimeout (s : State) : Host.Outcome State Fault Refusal :=
  event (fun s => match s.occ with
    | .num n => s.remoteTimeout n false
    | .nums [n] => s.remoteTimeout n true
    | .num2 id g => s.ladleLate id g
    | _ => none) s

end Sys2Proof.Machine
end

