-- ==== Sys2Proof/Machine/Stream.lean ====
section
/-! DEFINITION. Stream ports: the access-side queue instructions (R215-R220), the strip operations and the other port
instructions (R205-R213), and the pattern engines (R202-R204). -/

namespace Sys2Proof.Machine

/-! ### Ports as objects -/

/-- The bound port of the current unit's strip under a name, or PORTCFG 0x01. -/
def boundPort (n : Nat) : M Port := do
  match (← get).ports.find (portKey (← myStrip) n) with
  | some p => pure p
  | none => stopTrap (portTrap 1 n)

/-- The port a field names. -/
def objPort (f : Field) : Nat := (portOf f).getD 0

/-- The strip, team and port key of the current unit for a port name. -/
def portKeyOf (n : Nat) : M Nat := do pure (portKey (← myStrip) n)

/-- A slot of zero bits. -/
def zeroSlot : Slot := .data 0 false

/-- A failure of checks 3 to 5 as a token's record has it: where only the end of the access lies outside the limit, the first byte that
failed is the one at the limit (R193). -/
def Spot.firstBad (p : Spot) (t : TrapInfo) : TrapInfo :=
  if t.code = 0x20 then { t with loc := BitVec.ofNat 64 (p.loc + (Hnd.limit p.h - p.off)) } else t

/-- A load into a port by an access thread or an engine: its request, or the failure that becomes a token: a request of no bytes, which is
never sent. -/
def portLoad (s : State) (u : Agent) (owner : Owner) (iaddr : Nat) (x : Except TrapInfo Acc) (sp : Spot) (kind : ReqKind)
    (lane : Nat) (landing : Landing) : Req :=
  match x with
  | .ok a => { s.reqOf u a kind iaddr lane landing with owner }
  | .error t =>
    let a : Acc := ⟨sp.hidx, sp.h, 0, 0, sp.loc, 0, 0, false, false, none⟩
    { s.reqOf u a kind iaddr lane landing with owner, phase := .failed (sp.firstBad t) }

/-- Requests put on their way in order. -/
def State.injectAll (s : State) (rs : List Req) : State :=
  rs.foldl (fun s r => { s.inject s.fresh r with fresh := s.fresh + 1 }) s

/-- The loads of R216 after their rows are reserved: checks 3 to 5 lane by lane, each failure a token. -/
def loadRows (need : Need) (kind : Nat → ReqKind) (xs : List (Spot × Nat × Landing)) : M Unit := do
  let u ← unit
  let a ← here
  let s ← get
  let rs := xs.map (fun x => portLoad s u (.unit u) a (s.finishSpot (s.ctxOf u) x.1 need) x.1 (kind x.2.1) x.2.1 x.2.2)
  awaitReplies (rs.filter (·.once)).length
  modify (fun s => s.injectAll rs)

/-- Bytes of a port's element. -/
def Port.bytes (p : Port) : Nat := p.elemBits / 8

/-- A spot moved by a number of bytes. -/
def Spot.shift (p : Spot) (n : Nat) : Spot := { p with off := p.off + n, loc := p.loc + n }

/-- Whether a spot touches the semaphore window (R326). -/
def Spot.inSem (p : Spot) : Bool := decide (p.space = 0 ∧ p.loc < 2 ^ 64 ∧ semBase < p.loc + p.size)

/-- The handle, spaces and kinds of a queue load (R215). Its offset itself is a multiple of the line or element (R216). -/
def lqWant (hidx size : Nat) : Want :=
  { hidx, spaces := [0, 1, 4], kinds := kRead, size, align := size, need := .rd, offAlign := size }

/-- LQ (R216): one row, one element a lane. spaces and kinds differ for RLQ (R261). -/
def lqBody (want : Nat → Want) (p : Port) (n : Nat) : M Unit := do
  let act ← lanes
  let v ← fetch { d := 0, a := 0, c := 0 } .offset
  let ps ← spots (want p.bytes) v (laneList act) true false false
  let k ← pushRows n [(List.range 16).map (fun l => if act.getLsbD l then .pending else zeroSlot)]
  let key ← portKeyOf n
  loadRows .rd (fun _ => .load) (ps.map (fun x => (x.2, x.1, .port key k x.1)))

/-- LQG (R216): lines, one row a lane on sline, one row of lines on rline. -/
def lqgBody (want : Nat → Want) (p : Port) (n : Nat) : M Unit := do
  let act ← lanes
  let v ← fetch { d := 0, a := 0, c := 0 } .offset
  let ls := laneList act
  let ps ← spots (want 64) v ls true false false
  let key ← portKeyOf n
  if p.mode = .sline then
    let k ← pushRows n (ls.map (fun _ => List.replicate 16 .pending))
    loadRows .rd (fun _ => .load) (ps.zipIdx.map (fun x => (x.1.2, x.1.1, .line key (k + x.2))))
  else
    let k ← pushRows n [(List.range 16).map (fun l => if act.getLsbD l then .pending else zeroSlot)]
    loadRows .rd (fun _ => .load) (ps.map (fun x => (x.2, x.1, .port key k x.1)))

/-- LQ, or RLQ on an elem port. -/
def lqOp : M Unit := do
  let o ← ops
  insn .lq { d := 0, a := 0, c := 0 } (do
    checkPorts { d := 0, a := 0, c := 0 }
    let n := objPort o.d
    let p ← boundPort n
    if p.kind ≠ .acc ∨ p.mode ≠ .elem then stopTrap (portTrap 2 n)
    lqBody (lqWant o.x8.toNat) p n)

/-- LQG: with no active lane it loads nothing, and onto an sline port takes PORTCFG 0x03. -/
def lqgOp : M Unit := do
  let o ← ops
  insnWith .lqg { d := 0, a := 0, c := 0 } true (do
    let n := objPort o.d
    if (← lanes) = 0 then
      match (← get).ports.find (← portKeyOf n) with
      | some p => if p.kind = .acc ∧ p.mode = .sline then stopTrap (portTrap 3 n) else pure ()
      | none => pure ()
    else
      checkPorts { d := 0, a := 0, c := 0 }
      let p ← boundPort n
      if p.kind ≠ .acc ∨ p.mode = .elem then stopTrap (portTrap 2 n)
      lqgBody (lqWant o.x8.toNat) p n)

/-- LQL (R216): n consecutive lines. On rline, a line for a lane that is not active is not loaded: its slot takes zero bits (R186). On sline a
line is one slot, which no lane mask divides: the whole line goes to every thread (DEDUCED, entry 22). A poisoned count acts as zero
(DEDUCED, entry 19). -/
def lqlOp : M Unit := do
  let o ← ops
  let sh : Shape := { d := 0, a := 0 }
  insn .lql sh (do
    checkPorts sh
    let n := objPort o.d
    let p ← boundPort n
    if p.kind ≠ .acc ∨ p.mode = .elem then stopTrap (portTrap 2 n)
    let v ← fetch sh .offset
    let act ← lanes
    let l := lowLane act
    let cnt := (heldVal (v.c l)).bits.toNat
    let ps ← spots (lqWant o.x8.toNat 64) v [l] false false false
    if cnt < 1 ∨ cnt > 64 ∨ (p.mode = .rline ∧ cnt % 16 ≠ 0) then stopTrap (portTrap 3 n)
    match ps with
    | (_, sp) :: _ =>
      let spread := p.mode == .sline
      let lines := ((List.range cnt).filter (fun i => spread || act.getLsbD (i % 16))).map (fun i => (i, sp.shift (64 * i)))
      if lines.any (fun x => x.2.inSem) then stopTrap (accTrap 0x24 8 sp.hidx sp.loc)
      let key ← portKeyOf n
      let row : List Slot := (List.range 16).map (fun l => if spread || act.getLsbD l then .pending else zeroSlot)
      let k ← pushRows n (List.replicate (if spread then cnt else cnt / 16) row)
      loadRows .rd (fun _ => .load) (lines.map (fun x =>
        (x.2, 255, if spread then Landing.line key (k + x.1) else .port key (k + x.1 / 16) (x.1 % 16))))
    | [] => pure ())

/-! ### Store-stream consumers -/

/-- Elements of a store-stream row: its present lanes with their values; a thread that exited without pushing leaves its lane
absent (R185). -/
def rowElems (r : List Slot) : List (Nat × BitVec 512) :=
  r.zipIdx.filterMap (fun x => match x.1 with
    | .data v _ => some (x.2, v)
    | _ => none)

/-- Lane l of the row at a store-stream's access thread, as the data of a store: an element struck in the queue is poisoned (R79,
R80). -/
def rowData (p : Port) (l : Nat) : Val :=
  match p.slot p.apop l with
  | .data _ po => ⟨0, po⟩
  | _ => Val.zero

/-- The row at a store-stream's consumer, waiting for it (R182): none past the end (R189). -/
def storeRow (n : Nat) (p : Port) : M (Option (List (Nat × BitVec 512))) := do
  let s ← get
  match ← unit with
  | .ap tm sp =>
    if p.past p.apop then pure none
    else
      waitUnless (s.rowReady tm sp p p.apop) (.port n false)
      pure (some (rowElems ((List.range 16).map (p.slot p.apop))))
  | _ => pure none

/-- The row popped; elements in lanes that are not stored leave their threads' counters. -/
def popStore (n : Nat) (dropped : List Nat) : M Unit := do
  match ← unit with
  | .ap tm sp =>
    let key ← portKeyOf n
    modify (fun s => (s.modPort key (fun p => { p with apop := p.apop + 1 })).retire tm sp key)
    modify (fun s => dropped.foldl (fun s l => s.modCtl (.ex tm (16 * sp + l)) (fun c => c.bump (-1))) s)
  | _ => pure ()

/-- A store made from a row's element, or a reduction with it (R217, R220), as part of the instruction of that issue number (R14). -/
def streamReq (u : Agent) (issue : Nat) (a : Acc) (kind : ReqKind) (lane : Nat) (pushers : List Nat) : M Unit := do
  let at' ← here
  match u with
  | .ap tm sp =>
    let r := (← get).reqOf u a kind at' lane .none
    buffer { r with issue, pusher := pushers.map (fun l => (tm, 16 * sp + l)) }
  | _ => pure ()

/-- SQ and REDQ (R217, R220): each active lane at its own offset. DESIGN CHOICE, entry 59: a past-end row still makes checks 1 and 2, and no
other (R189). -/
def sqOp (i : Instr) (red : Bool) : M Unit := do
  let o ← ops
  let sh : Shape := { d := 0, a := 0, c := 0 }
  insn i sh (do
    let n := objPort o.a
    let p ← boundPort n
    if p.kind ≠ .store ∨ p.gen then stopTrap (portTrap 2 n)
    checkPorts sh
    let u ← unit
    let h := (← get).handleOf u o.x8.toNat
    let size := if red then 2 ^ Hnd.ew h else p.bytes
    if red ∧ 2 ≤ Hnd.ew h ∧ p.bytes ≠ size then stopTrap (portTrap 3 n)
    let row ← storeRow n p
    let v ← fetch sh .offset
    let act ← lanes
    let want : Want := { hidx := o.x8.toNat, spaces := if red then [0, 1] else [0, 1, 4], kinds := if red then kFlat else kTile,
                         widths := if red then [2, 3] else [0, 1, 2, 3], size, align := size,
                         need := if red then .both else .wr }
    let es := (row.getD []).filter (fun e => act.getLsbD e.1)
    let ls := if row.isSome then es.map (·.1) else laneList act
    let ps ← spots want { v with a := if row.isSome then rowData p else fun _ => Val.zero } ls true true false
    if row.isNone then pure ()
    else
      let s ← get
      let _ ← orTrap (stage true Spot.aligned ps)
      let _ ← orTrap (stage true Spot.bounded ps)
      let as ← orTrap (stage true (fun x => s.addrOf (s.ctxOf u) x want.need) ps)
      let val (l : Nat) : Nat := (es.find? (fun e => e.1 == l)).elim 0 (fun e => e.2.toNat % 2 ^ (8 * size))
      as.forM (fun x => streamReq u s.fresh x.2
        (if red then .atomic o.sel.toNat (8 * size) (BitVec.ofNat 64 (val x.1)) 0 false else .store (val x.1) false) x.1 [x.1])
      popStore n (((row.getD []).map (·.1)).filter (fun l => !act.getLsbD l)))

/-- The stores of an sline row at a line: whole 8-byte words where both lanes are there, else one lane's 4 bytes (R217, R227).
Gives offset, bytes, value and lanes. -/
def lineStores (es : List (Nat × BitVec 512)) : List (Nat × Nat × Nat × List Nat) :=
  let val (l : Nat) : Option Nat := (es.find? (fun e => e.1 == l)).map (fun e => e.2.toNat % 2 ^ 32)
  (List.range 8).flatMap (fun i =>
    match val (2 * i), val (2 * i + 1) with
    | some x, some y => [(8 * i, 8, x + y * 2 ^ 32, [2 * i, 2 * i + 1])]
    | some x, none => [(8 * i, 4, x, [2 * i])]
    | none, some y => [(8 * i + 4, 4, y, [2 * i + 1])]
    | none, none => [])

/-- SQS (R217): the row stored contiguously, whatever the lane mask; a line's offset is a multiple of 64. With no active lane it has no
effect, as R42 says (DESIGN CHOICE, entry 59). -/
def sqsOp : M Unit := do
  let o ← ops
  let sh : Shape := { d := 0, a := 0, c := 0 }
  insn .sqs sh (do
    let n := objPort o.a
    let p ← boundPort n
    if p.kind ≠ .store ∨ p.gen then stopTrap (portTrap 2 n)
    checkPorts sh
    let u ← unit
    let row ← storeRow n p
    let v ← fetch sh .offset
    let l0 := lowLane (← lanes)
    let w := p.bytes
    let line := p.mode == .sline
    let size := if line then 64 else w
    let want : Want := { hidx := o.x8.toNat, spaces := [0, 1, 4], kinds := kTile, size, align := size, need := .wr,
                         offAlign := if line then 64 else 1 }
    let bad := row.isSome && (List.range 16).any (fun l => (rowData p l).poison)
    let ps ← spots want { v with a := fun _ => ⟨0, bad⟩ } [l0] false true false
    match row, ps with
    | some es, (_, sp) :: _ =>
      let pieces : List (Nat × Spot × Nat × List Nat) :=
        if line then (lineStores es).map (fun x => (255, { sp.shift x.1 with size := x.2.1, align := x.2.1 }, x.2.2.1, x.2.2.2))
        else es.map (fun e => (e.1, sp.shift (w * e.1), e.2.toNat % 2 ^ (8 * w), [e.1]))
      if pieces.any (fun x => x.2.1.inSem) then stopTrap (accTrap 0x24 8 sp.hidx sp.loc)
      let s ← get
      let ys := pieces.zipIdx.map (fun x => (x.2, x.1))
      let first := if line then [(0, (255, sp, 0, ([] : List Nat)))] else ys
      let _ ← orTrap (stage false (fun x : Nat × Spot × Nat × List Nat => x.2.1.aligned) first)
      let _ ← orTrap (stage false (fun x : Nat × Spot × Nat × List Nat => x.2.1.bounded) first)
      let as ← orTrap (stage false (fun x : Nat × Spot × Nat × List Nat => do
        pure ((← s.addrOf (s.ctxOf u) x.2.1 .wr), x.1, x.2.2)) ys)
      as.forM (fun x => streamReq u s.fresh x.2.1 (.store x.2.2.2.1 false) x.2.2.1 x.2.2.2.2)
      popStore n []
    | _, _ => pure ())

/-- One line brought into the L2, and into the core's L1 where that may hold it (R218, R158): a line that fails a check, lies on a page in
transit or belongs to a peer device is dropped. -/
def State.prefetch (s : State) (u : Agent) (p : Spot) : State :=
  match s.finishSpot (s.ctxOf u) p .rd, s.partOf (s.ctxOf u) with
  | .ok a, some (pi, q) =>
    let r := s.reqOf u a .load 0 255 .none
    let w := s.walk q r.ia
    match s.serve pi q w r, w with
    | .ok _ _ t, .leaf e sz => t.l1After r ⟨e, Leaf.frame e + r.ia % 2 ^ sz, sz, q.sliceOf r.ia, r.cache⟩
    | _, _ => s
  | _, _ => s

/-- PFX (R218): checks 1 and 2, then the lines it asks for; it waits for nothing. DESIGN CHOICE, entry 59: a lane asks for a whole line at a
multiple of 64. -/
def pfxOp : M Unit := do
  let o ← ops
  let sh : Shape := { d := 0, a := 0, c := 0 }
  insn .pfx sh (do
    let v ← fetch sh .offset
    let u ← unit
    let ps ← spots { hidx := o.x8.toNat, spaces := [0, 4], kinds := kTile, size := 64, align := 64, need := .rd } v
      (laneList (← lanes)) true false false
    modify (fun s => ps.foldl (fun s p => s.prefetch u p.2) s))

/-! ### Tags (R219) and ATQ (R220) -/

/-- The access of a tag instruction: a granule. -/
def tagWant (hidx : Nat) (need : Need) : Want :=
  { hidx, spaces := [0], kinds := kFlat, size := 32, align := 32, need, tags := false }

/-- LDSC (R219). -/
def ldscOp : M Unit := do
  let o ← ops
  let sh : Shape := { a := 0, c := 0 }
  blockOp .ldsc sh (do
    let v ← fetch sh .offset
    let rs ← accesses (tagWant o.x8.toNat .rd) v (laneList (← lanes)) true false false
    reqs rs true (fun _ => .tagGet)) (fun x => writeD 1 x)

/-- STSC (R219). -/
def stscOp : M Unit := do
  let o ← ops
  let sh : Shape := { d := 0, c := 0 }
  blockOp .stsc sh (do
    let v ← fetch sh .offset
    let rs ← accesses (tagWant o.x8.toNat .both) v (laneList (← lanes)) true true false
    reqs rs true (fun l => .tagSet (BitVec.ofNat 4 (v.a l).bits.toNat))) (fun _ => pure ())

/-- ATQ (R220): old values to a register, or to a row of a port. DESIGN CHOICE, entry 59: an old value of 32 bits fills the lane of an a
register as a load does, extended by the handle's sx (R165). -/
def atqOp : M Unit := do
  let o ← ops
  let u ← unit
  let h := (← get).handleOf u o.x8.toNat
  let size := 2 ^ Hnd.ew h
  let sh : Shape := { d := 0 }
  let cas := o.sel.toNat == 9
  let want : Want := { hidx := o.x8.toNat, spaces := [0, 1], kinds := kFlat, widths := [2, 3], size, align := size,
                       need := .both }
  let kindOf (v : Opnds) (l : Nat) : ReqKind :=
    .atomic o.sel.toNat (8 * size) (v.a l).bits (if cas then (v.c l).bits else 0) true
  let input : M Opnds := do
    let v ← fetch sh .offset
    pure { v with a := fun l => { v.a l with poison := (v.a l).poison || (cas && (v.c l).poison) } }
  match portOf o.d with
  | none =>
    blockOp .atq sh (do
      let v ← input
      let rs ← accesses want v (laneList (← lanes)) true true false
      reqs rs true (kindOf v)) (fun x => writeD 1 (fun l => loaded h true size 64 (x l)))
  | some n =>
    insn .atq sh (do
      checkPorts sh
      let p ← boundPort n
      if p.kind ≠ .acc ∨ p.mode ≠ .elem then stopTrap (portTrap 2 n)
      if p.bytes ≠ size then stopTrap (portTrap 3 n)
      let act ← lanes
      let v ← input
      let ps ← spots want v (laneList act) true true false
      let k ← pushRows n [(List.range 16).map (fun l => if act.getLsbD l then .pending else zeroSlot)]
      let key ← portKeyOf n
      loadRows .both (kindOf v) (ps.map (fun x => (x.2, x.1, .port key k x.1))))

/-! ### Binding (R173-R178, R206, R208) -/

/-- What a binding fixes. -/
structure Binding where
  kind : Nat
  mode : Nat
  width : Nat
  depth : Nat
  adv : Bool
  eostrap : Bool
  sx : Bool
  gen : Bool
  deriving DecidableEq, Repr

def portKinds : List PortKind := [.acc, .pat, .back, .store]
def portModes : List PortMode := [.elem, .sline, .rline]

/-- The port of a binding, every position 0 and no end (R178). -/
def Binding.port (b : Binding) : Port :=
  { kind := portKinds.getD b.kind .acc, mode := portModes.getD b.mode .elem, width := b.width, depth := b.depth,
    adv := b.adv, eostrap := b.eostrap, sx := b.sx, gen := b.gen, head := 0, rows := [], pos := List.replicate 16 0,
    apop := 0, reserve := 0, fin := none,
    engine := if b.kind = 1 ∨ b.gen then some ⟨[1, 1, 1, 1], [0, 0, 0, 0], false, 0, 0, 0, 0, 0, false⟩ else none }

/-- Whether depth, entries, flags and mode suit the kind (R174, R176, R177). -/
def Binding.ok (b : Binding) : Bool :=
  let mode := match b.kind with
    | 0 | 1 => decide (b.mode ≤ 2)
    | 2 => b.mode == 0
    | _ => decide (b.mode ≤ 1)
  mode && decide (2 ≤ b.depth ∧ b.depth ≤ 1024 ∧ b.depth * b.port.perRow ≤ 1024) &&
    (!(b.adv || b.eostrap) || decide (b.kind ≤ 1)) && (!b.sx || (b.mode == 0 && decide (b.width ≤ 2))) &&
    (!b.gen || b.kind == 3)

/-- Whether the kind needs an access thread (R174). -/
def Binding.needsAccess (b : Binding) : Bool := b.kind == 0 || b.kind == 2 || (b.kind == 3 && !b.gen)

/-- Which of a team's cores a strip lies on. -/
def Team.half (t : Team) (strip : Nat) : Nat := t.coreOf strip - t.core

/-- A binding made, or the PORTCFG subcode that refuses it (R206). -/
def State.bind (s : State) (tm sp n : Nat) (b : Binding) (resOk : Bool) : Except Nat State :=
  match s.teams.find tm with
  | none => .error 1
  | some t =>
    let key := portKey (stripKey tm sp) n
    let c := t.half sp
    let need := b.depth * b.port.perRow
    let eng := if b.port.engine.isSome then 1 else 0
    if (s.ports.find key).isSome then .error 4
    else if !b.ok || !resOk then .error 8
    else if t.qmem.getD c 0 < need ∨ t.peng.getD c 0 < eng then .error 5
    else if b.needsAccess && !LRec.access (s.recordOf t) then .error 7
    else
      let s := { s with ports := s.ports.put key b.port }
      let s := s.modTeam tm (fun t => { t with qmem := t.qmem.modify c (· - need), peng := t.peng.modify c (· - eng) })
      .ok ((List.range 16).foldl (fun s l =>
        s.modEx tm (16 * sp + l) (fun x => { x with eos := setBit16 x.eos n false })) s)

/-- QBIND's binding from its x8 and word (R205, R206). -/
def bindingOf (x8 : BitVec 8) (w : Nat) : Binding :=
  { kind := fld x8 1 0, mode := fld x8 3 2, width := fld x8 5 4, depth := bits w 10 0, adv := x8.getLsbD 6,
    eostrap := x8.getLsbD 7, sx := bit w 11, gen := bit w 12 }

/-- Tokens of a port that an unbind discards (R195, R208): those whose thread has not popped them, which a pop would have counted, or
replaced. -/
def Port.tokensLeft (p : Port) : Nat :=
  p.rows.zipIdx.foldl (fun k r =>
    k + p.asTokens (r.1.zipIdx.filter (fun x => x.1.isToken && decide (p.pos.getD x.2 0 ≤ p.head + r.2))).length) 0

/-- Whether what a request brings fills a row of a port. -/
def Req.fills (r : Req) (key : Nat) : Bool :=
  match r.landing with
  | .port k _ _ | .line k _ => k == key
  | _ => false

/-- A thread whose port is unbound (R208): its pushes still in the store buffer are lost, and so are the replacements it was given
there. -/
def Ctl.unbound (c : Ctl) (key : Nat) : Ctl :=
  { c with
    sbuf := c.sbuf.filter (fun q => !q.2.fills key), repl := c.repl.filter (fun e => e.1 / 2 ^ 32 != key % 16) }

/-- A store of a port's pattern engine that has not been performed. -/
def Req.patStoring (r : Req) (key : Nat) : Bool := r.owner == .pat key && r.writes && r.open

/-- A port unbound (R208): its tokens are counted, its elements leave their threads' counters, its resources return, its engine's
stores that are not performed are lost, and what is still to arrive for its rows lands nowhere. -/
def State.unbind (s : State) (tm sp n : Nat) : State :=
  let key := portKey (stripKey tm sp) n
  match s.ports.find key, s.teams.find tm with
  | some p, some t =>
    let c := t.half sp
    let s := if p.tokensLeft = 0 then s else s.discard tm sp p.tokensLeft
    let s := if p.kind = .store then
        p.rows.foldl (fun s r => (rowElems r).foldl (fun s e => s.modCtl (.ex tm (16 * sp + e.1)) (fun c => c.bump (-1))) s) s
      else s
    let s := (List.range 16).foldl (fun s l => s.modCtl (.ex tm (16 * sp + l)) (fun c => c.unbound key)) s
    let lost := s.reqs.filter (fun q => q.2.patStoring key)
    let s := lost.foldl (fun s q => s.unpush q.2) { s with reqs := s.reqs.filter (fun q => !q.2.patStoring key) }
    let eng := if p.engine.isSome then 1 else 0
    let s := s.modTeam tm (fun t => { t with qmem := t.qmem.modify c (· + p.depth * p.perRow),
                                             peng := t.peng.modify c (· + eng) })
    { s with ports := s.ports.del key,
             reqs := s.reqs.map (fun q => (q.1, if q.2.fills key then { q.2 with landing := .none } else q.2)) }
  | _, _ => s

/-! ### Strip operations (R207) -/

/-- Whether a port's engine is running (R210): it has steps to make or rows to deliver, or, of a store-stream, rows before the end to
store, or a store of its run is still to be performed. -/
def State.patBusy (s : State) (key : Nat) (p : Port) (e : PatEngine) : Bool :=
  (e.running && !(p.gen && p.past p.apop)) || s.reqs.any (fun q => q.2.patStoring key)

/-- The steps of an engine's run. -/
def PatEngine.product (e : PatEngine) : Nat := e.counts.foldl (· * ·) 1

/-- What a strip operation does, with the operands given (R206, R208-R210, R213). Bits 63 to 32 of PATGO's origin word are ignored, and the
largest push position at which QEOS ends a stream is that of all sixteen lanes, threads that have exited included (R188, R204; DESIGN CHOICE,
entry 57). -/
def stripEffect (i : Instr) (o : Ops) (a b : Val) : M Unit := do
  let u ← unit
  let (tm, sp) ← (match u with
    | .ex tm tid => pure (tm, tid / 16)
    | .ap tm sp => pure (tm, sp)
    | .qe _ => throw (Stop.fault .noUnit))
  let n := objPort o.d
  let key := portKey (stripKey tm sp) n
  let x := (heldVal a).bits.toNat
  let y := (heldVal b).bits.toNat
  match i with
  | .qbind =>
    match (← get).bind tm sp n (bindingOf o.x8 y) (y / 2 ^ 13 == 0) with
    | .ok s => set s
    | .error e => stopTrap (portTrap e n)
  | .qunbind => do
    let _ ← boundPort n
    modify (fun s => s.unbind tm sp n)
  | .pat => do
    let p ← boundPort n
    match p.engine with
    | none => stopTrap (portTrap 9 n)
    | some e =>
      if (← get).patBusy key p e ∨ x < 1 ∨ x > 2 ^ 24 then stopTrap (portTrap 9 n)
      let k := o.x8.toNat % 4
      modify (fun s => s.modPort key (fun p =>
        { p with engine := some { e with counts := e.counts.set k x, strides := e.strides.set k (sext y 32) } }))
  | .patgo => do
    let p ← boundPort n
    match p.engine with
    | none => stopTrap (portTrap 9 n)
    | some e =>
      let s ← get
      if s.patBusy key p e ∨ e.product > 2 ^ 32 - 1 then stopTrap (portTrap 9 n)
      trapIf b.poison 0x11 1
      let h := s.handleOf u o.x8.toNat
      if Hnd.space h = 7 then stopTrap (accTrap 0x24 1 o.x8.toNat 0)
      if Hnd.kind h ≠ 4 then stopTrap (accTrap 0x24 5 o.x8.toNat 0)
      let start := y % 2 ^ 16 * Hnd.ostx h + y / 2 ^ 16 % 2 ^ 16 * Hnd.osty h
      let go (base : Nat) : PatEngine :=
        { e with running := true, handle := o.x8.toNat, start, step := 0, total := e.product, base, cut := false }
      if p.kind = .pat then
        let live := (List.range 16).filter (s.laneLive tm sp)
        let fin := p.fin.getD 0
        waitUnless (p.fin.isNone || live.all (fun l => p.pos.getD l 0 == fin)) (.port n true)
        modify (fun s => s.modPort key (fun p => { p with fin := none, engine := some (go p.reserve) }))
      else
        let base := if e.total = 0 then 0 else p.fin.getD 0
        modify (fun s => s.modPort key (fun p => { p with fin := some (base + e.product), engine := some (go base) }))
  | .qeos => do
    let p ← boundPort n
    let mine := match u with
      | .ex _ _ => !p.execPops
      | _ => p.kind == .acc
    if !mine then stopTrap (portTrap 2 n)
    if (if p.gen then p.engine.elim true (·.cut) else p.fin.isSome) then stopTrap (portTrap 6 n)
    let e := match u with
      | .ex _ _ => p.pos.foldl max 0
      | _ => p.reserve
    modify (fun s => s.modPort key (fun p => { p with
      fin := some (p.fin.elim e (min e)), engine := p.engine.map (fun x => { x with cut := true }) }))
  | _ => pure ()

/-- The fields of a strip operation. -/
def stripShape (i : Instr) : Shape :=
  match i with
  | .qbind | .patgo => { d := 0, a := 0, c := 0 }
  | .pat => { d := 0, c := 0 }
  | _ => { d := 0, a := 0, b := 0, c := 0 }

/-- The deferred fault of a pattern store that an instruction on a port takes (R200). -/
def portDeferred (n : Nat) : M Unit := takeDeferred (fun d => d.kind == 0 && d.port == n)

/-- A strip operation when a unit issues it (R207): the access thread performs it; an execute thread records it and waits, or
takes PORTCFG 0x0A where another is recorded. -/
def stripOp (i : Instr) : M Unit := do
  let o ← ops
  let sh := stripShape i
  insn i sh (do
    match ← unit with
    | .ex tm tid =>
      (if i = .qeos then portDeferred (objPort o.d) else pure ())
      checkPorts sh
      let a ← here
      let st := (← get).strip tm (tid / 16)
      (match st.op with
        | some (b, _) => if a ≠ b then stopTrap (portTrap 10 (objPort o.d)) else pure ()
        | none => pure ())
      let m := st.op.elim 0 (·.2)
      let st' : Strip := { st with op := some (a, m ||| laneBit (tid % 16)) }
      modify (fun s => { s with strips := s.strips.put (stripKey tm (tid / 16)) st' })
      stay i .stripOp
    | .ap _ _ =>
      let v ← fetch sh .int
      let l := lowLane (← lanes)
      stripEffect i o (v.a l) (v.b l)
    | .qe _ => pure ())

/-- STRIP_OPERATION (R207): every live thread of the strip has arrived; the operation is performed once with the operands of the lowest of
them, and all go on. Where it traps, that thread alone takes the trap and the others wait on (DESIGN CHOICE, entry 59). An operand that is a
port is popped by that thread alone, as it alone supplies the operands (DEDUCED, entry 57). -/
def State.stripOperation (s : State) (key : Nat) : Option State :=
  let tm := key / 128
  let sp := key % 128
  let live := (List.range 16).filter (s.laneLive tm sp)
  match (s.strips.find key).bind (·.op), live with
  | some (_, arrived), l0 :: _ =>
    if live.all (fun l => arrived.getLsbD l) then
      match (s.exs.find (exKey tm (16 * sp + l0))).bind (·.arr) with
      | none => none
      | some i =>
        let u := Agent.ex tm (16 * sp + l0)
        let body : M Unit := do
          let v ← fetch (stripShape i.op) .int
          stripEffect i.op i.args (v.a 0) (v.b 0)
        let drop (t : State) (l : Nat) : State :=
          match (t.exs.find (exKey tm (16 * sp + l))).bind (·.arr) with
          | some j => match t.asUnit (.ex tm (16 * sp + l)) j.args (dropMarks j.args (stripShape j.op)) with
            | .ok (_, r) => r
            | .error _ => t
          | none => t
        match s.asUnit u i.args body with
        | .ok (_, t) =>
          let t := live.foldl (fun t l => (drop t l).finishEx tm (16 * sp + l)) t
          some (t.modStrip tm sp (fun x => { x with op := none }))
        | .error (.trap t) =>
          some ((s.takeTrap u t (len0Of i.args.form)).modStrip tm sp (fun x =>
            { x with op := let m := setBit16 arrived l0 false
                           if m = 0 then none else x.op.map (fun q => (q.1, m)) }))
        | .error _ => none
    else none
  | _, _ => none

/-! ### QSTAT, QSKIP, QDRAIN -/

/-- Whether the unit consumes a port (R174), and whether the port has a push position for its side (R178): a thread's own on E, the
port's on A. -/
def Port.consumer (p : Port) (side : Side) : Bool :=
  if side = .exec then p.execPops else p.kind == .back || (p.kind == .store && !p.gen)
def Port.pushes (p : Port) (side : Side) : Bool := if side = .exec then !p.execPops else p.execPops

/-- Rows poppable from a position on (R211). -/
def State.avail (s : State) (tm sp : Nat) (p : Port) : Nat → Nat → Nat
  | 0, _ => 0
  | n + 1, k => if p.past k || !s.rowReady tm sp p k then 0 else 1 + s.avail tm sp p n (k + 1)

/-- QSTAT (R211). -/
def qstatOp : M Unit := do
  let o ← ops
  let sh : Shape := { a := 0, b := 0, c := 0 }
  insn .qstat sh (do
    let n := objPort o.a
    let p ← boundPort n
    portDeferred n
    let u ← unit
    let s ← get
    let side := sideOf u
    let sel := o.x8.toNat % 4
    let c := p.consumer side
    if (sel % 3 = 0 ∧ ¬c) ∨ (sel = 1 ∧ ¬p.pushes side) then stopTrap (portTrap 2 n)
    checkPorts { d := 1, a := 0, b := 0, c := 0 }
    let (tm, sp, pos, push) := match u with
      | .ex tm tid => (tm, tid / 16, p.pos.getD (tid % 16) 0, p.pos.getD (tid % 16) 0)
      | .ap tm sp => (tm, sp, p.apop, p.reserve)
      | .qe _ => (0, 0, 0, 0)
    let v := match sel with
      | 0 => pos
      | 1 => push
      | 2 => p.fin.getD (2 ^ 32 - 1)
      | _ => s.avail tm sp p (p.rows.length + 1) pos
    writeD 1 (fun _ => Val.of (BitVec.ofNat 64 (v % 2 ^ 32))))

/-- What one discarding pop comes to (R212). -/
inductive Skip where
  | one
  | ended
  | wait
  deriving DecidableEq, Repr

/-- One discarding pop of the current unit at a port, made when a row is there (R195, R199, R212). -/
def skipOne (n : Nat) : M Skip := do
  let p ← boundPort n
  let s ← get
  match ← unit with
  | .ex tm tid =>
    let k := p.pos.getD (tid % 16) 0
    if p.past k then
      let _ ← popE n 32 true
      pure .ended
    else if s.rowReady tm (tid / 16) p k then
      let _ ← popE n 32 true
      pure .one
    else pure .wait
  | .ap tm sp =>
    if p.past p.apop then pure .ended
    else if s.rowReady tm sp p p.apop then
      let es := rowElems ((List.range 16).map (p.slot p.apop))
      popStore n (if p.kind = .store then es.map (·.1) else [])
      pure .one
    else pure .wait
  | .qe _ => pure .ended

/-- Discarding pops, at most k of those that are there: what is left of the count, or nothing once finished. -/
def skipMany (n : Nat) : Nat → Option Nat → M (Option (Option Nat))
  | 0, left => pure (some left)
  | k + 1, left => do
    if left = some 0 then pure none
    else match ← skipOne n with
      | .ended => pure none
      | .wait => pure (some left)
      | .one => skipMany n k (left.map (· - 1))

/-- QSKIP and QDRAIN (R212): the pops made stand while the unit waits for more rows. -/
def skipOp (i : Instr) (drain : Bool) : M Unit := do
  let o ← ops
  let s0 ← get
  let sh : Shape := { d := 0, a := 0, b := if drain then 0 else 1, c := 0 }
  insn i sh (do
    let n := objPort o.d
    let p ← boundPort n
    (if drain then portDeferred n else pure ())
    let u ← unit
    if !p.consumer (sideOf u) then stopTrap (portTrap 2 n)
    let begun := (← ctl).skip
    let left ← (match begun with
      | some l => pure l
      | none =>
        if drain then pure none
        else do
          let v ← fetch sh .int
          let c := (heldVal (v.b (lowLane (← lanes)))).bits.toNat
          if c ≥ 2 ^ 31 then stopTrap (portTrap 8 n)
          pure (some c))
    match ← skipMany n (p.rows.length + 2) left with
    | none => modCtl (fun c => { c with skip := none })
    | some l =>
      let c0 := (s0.ctl u).getD {}
      modCtl (fun c => { c with pc := c0.pc, stallUntil := c0.stallUntil, skip := some l })
      modify (fun s => (s.modCtl u (fun c => { c with status := c0.status })).setWait u (.port n false)))

/-! ### Pattern engines (R203, R204) -/

/-- The indices of step k in odometer order, dimension 0 fastest. -/
def odometer : List Nat → Nat → List Nat
  | [], _ => []
  | c :: cs, k => k % c :: odometer cs (k / c)

/-- The base offset of an engine's step (R204). -/
def PatEngine.offset (e : PatEngine) : Int :=
  ((odometer e.counts e.step).zip e.strides).foldl (fun o x => o + (x.1 : Int) * x.2) (e.start : Int)

/-- The spot of an offset through a pattern source, which is itself to be a multiple of grain, as the offset of a line is of 64 (R204); a
negative offset lies outside every limit, and its location, aligned or not, below the window (R143, R161). -/
def patSpot (hidx : Nat) (h : Handle) (o : Int) (size grain : Nat) : Spot :=
  if o < 0 then ⟨hidx, h, Hnd.space h, 0, 0, 2 ^ 64 + (o % grain).toNat, wrapN (Hnd.base h + o) 64, size, size, none, grain⟩
  else ⟨hidx, h, Hnd.space h, 0, 0, o.toNat, Hnd.base h + o.toNat, size, size, none, grain⟩

/-- Checks 3 to 5 of an engine's access; the semaphore window is no place for it (R326). -/
def State.patAcc (s : State) (ctx : Nat) (p : Spot) (need : Need) : Except TrapInfo Acc :=
  if p.off < 2 ^ 64 ∧ p.inSem then .error (accTrap 0x24 8 p.hidx p.loc) else s.finishSpot ctx p need

/-- One step of a pattern port (R204): a row reserved and its loads sent; the stream ends when the last step's row is delivered (R188). -/
def State.patLoad (s : State) (tm sp key : Nat) (p : Port) (e : PatEngine) : Option State :=
  if e.step = e.total ∨ p.head + p.depth ≤ p.reserve then none
  else
    let u := Agent.ap tm sp
    let h := s.handleOf u e.handle
    let ctx := s.ctxOf u
    let o := e.offset
    let k := p.reserve
    let mk (off : Int) (size lane : Nat) (l : Landing) : Req :=
      let spt := patSpot e.handle h off size (if p.mode = .elem then 1 else 64)
      portLoad s u (.pat key) 0 (s.patAcc ctx spt .rd) spt .load lane l
    let lanes := List.range 16
    let reqs := match p.mode with
      | .elem => lanes.map (fun (l : Nat) => mk (o + (l : Int) * Hnd.lstride h) p.bytes l (.port key k l))
      | .sline => [mk o 64 255 (.line key k)]
      | .rline => lanes.map (fun (l : Nat) => mk (o + (l : Int) * Hnd.lstride h) 64 l (.port key k l))
    let q := { p with rows := p.rows ++ [List.replicate 16 .pending], reserve := k + 1,
                      engine := some { e with step := e.step + 1 } }
    some ((({ s with ports := s.ports.put key q }.retireIdle tm sp key).modPort key Port.ended).injectAll reqs)

/-- The stores of a row of a store-stream's engine: offset, bytes, value and lanes of each (R199, R217). -/
def storePieces (p : Port) (e : PatEngine) (h : Handle) : List (Int × Nat × Nat × List Nat) :=
  let es := rowElems ((List.range 16).map (p.slot p.apop))
  match p.mode with
  | .elem => es.map (fun x => (e.offset + x.1 * Hnd.lstride h, p.bytes, x.2.toNat % 2 ^ (8 * p.bytes), [x.1]))
  | _ => (lineStores es).map (fun x => (e.offset + x.1, x.2.1, x.2.2.1, x.2.2.2))

/-- One step of a store-stream under gen (R199, R200): the next row is stored lane by lane at the run's addresses, or with a
failure deferred to the threads that pushed the elements; a store whose page is in transit parks the engine. -/
def State.patStore (s : State) (tm sp key : Nat) (p : Port) (e : PatEngine) : Option State :=
  let k := p.apop
  let stop (s : State) : State := s.modPort key (fun p => { p with engine := p.engine.map (fun e => { e with running := false }) })
  if p.past k then some (stop s)
  else if !s.rowReady tm sp p k || s.reqs.any (fun q => q.2.patStoring key && q.2.isParked) then none
  else
    let u := Agent.ap tm sp
    let h := s.handleOf u e.handle
    let ctx := s.ctxOf u
    let pieces := storePieces p e h
    let whole : Except TrapInfo Unit := match p.mode with
      | .elem => .ok ()
      | _ => do
        let spt := patSpot e.handle h e.offset 64 64
        let _ ← s.patAcc ctx spt .wr
        pure ()
    if !s.replyRoom u pieces.length then none
    else
    let issue := s.fresh
    let s := s.modPort key (fun p => { p with apop := k + 1, engine := some { e with step := e.step + 1 } })
    let s := pieces.foldl (fun s x =>
      let spt := patSpot e.handle h x.1 x.2.1 1
      let acc : Except TrapInfo Acc := do
        (if x.2.2.2.any (fun l => (rowData p l).poison) then .error (tinfo 0x11 0) else pure ())
        whole
        s.patAcc ctx spt .wr
      let r := portLoad s u (.pat key) k acc spt (.store x.2.2.1 false) (x.2.2.2.headD 255) .none
      let r := { r with issue, pusher := x.2.2.2.map (fun l => (tm, 16 * sp + l)) }
      { s.inject s.fresh r with fresh := s.fresh + 1 }) s
    let s := s.retire tm sp key
    some (if p.past (k + 1) then stop s else s)

/-- PATTERN_ENGINE_STEP (R204): one step of the engine of a port. -/
def State.patStep (s : State) (key : Nat) : Option State :=
  let tm := key / 16 / 128
  let sp := key / 16 % 128
  match s.ports.find key with
  | none => none
  | some p =>
    match p.engine with
    | some e =>
      if !e.running || !s.running (s.ctxOf (.ap tm sp)) || !(s.teams.find tm).elim false (·.placed) then none
      else if p.kind = .pat then s.patLoad tm sp key p e
      else s.patStore tm sp key p e
    | none => none

/-! ### Meanings -/

/-- LQ (R216). -/
def execLq (s : State) : Host.Outcome State Fault Refusal := meaning lqOp s

/-- LQG (R216). -/
def execLqg (s : State) : Host.Outcome State Fault Refusal := meaning lqgOp s

/-- LQL (R216). -/
def execLql (s : State) : Host.Outcome State Fault Refusal := meaning lqlOp s

/-- SQ (R217). -/
def execSq (s : State) : Host.Outcome State Fault Refusal := meaning (sqOp .sq false) s

/-- SQS (R217). -/
def execSqs (s : State) : Host.Outcome State Fault Refusal := meaning sqsOp s

/-- PFX (R218). -/
def execPfx (s : State) : Host.Outcome State Fault Refusal := meaning pfxOp s

/-- LDSC (R219). -/
def execLdsc (s : State) : Host.Outcome State Fault Refusal := meaning ldscOp s

/-- STSC (R219). -/
def execStsc (s : State) : Host.Outcome State Fault Refusal := meaning stscOp s

/-- ATQ (R220). -/
def execAtq (s : State) : Host.Outcome State Fault Refusal := meaning atqOp s

/-- REDQ (R220). -/
def execRedq (s : State) : Host.Outcome State Fault Refusal := meaning (sqOp .redq true) s

/-- QBIND (R206). -/
def execQbind (s : State) : Host.Outcome State Fault Refusal := meaning (stripOp .qbind) s

/-- QUNBIND (R208). -/
def execQunbind (s : State) : Host.Outcome State Fault Refusal := meaning (stripOp .qunbind) s

/-- PAT (R209). -/
def execPat (s : State) : Host.Outcome State Fault Refusal := meaning (stripOp .pat) s

/-- PATGO (R210). -/
def execPatgo (s : State) : Host.Outcome State Fault Refusal := meaning (stripOp .patgo) s

/-- QSTAT (R211). -/
def execQstat (s : State) : Host.Outcome State Fault Refusal := meaning qstatOp s

/-- QSKIP (R212). -/
def execQskip (s : State) : Host.Outcome State Fault Refusal := meaning (skipOp .qskip false) s

/-- QDRAIN (R212). -/
def execQdrain (s : State) : Host.Outcome State Fault Refusal := meaning (skipOp .qdrain true) s

/-- QEOS (R213). -/
def execQeos (s : State) : Host.Outcome State Fault Refusal := meaning (stripOp .qeos) s

/-- STRIP_OPERATION (R207): the strip of number n. -/
def execStripOperation (s : State) : Host.Outcome State Fault Refusal := event1 State.stripOperation s

/-- PATTERN_ENGINE_STEP (R204): the engine of port n. -/
def execPatternEngineStep (s : State) : Host.Outcome State Fault Refusal := event1 State.patStep s

end Sys2Proof.Machine
end

