-- ==== Sys2Proof/Machine/Fabric.lean ====
section
/-! DEFINITION. The remote instructions: RLQ, RLDW, RST, RATOM and RFENCE (R260-R265). -/

namespace Sys2Proof.Machine

/-- What a remote instruction asks of its handle (R260). -/
def remoteWant (hidx size : Nat) (kinds widths : List Nat) (need : Need) : Want :=
  { hidx, spaces := [5], kinds, widths, size, align := size, need }

/-- What RLQ asks of its handle: its offset itself is a multiple of the line or element, as LQ's is (R216, R261). -/
def rlqWant (hidx size : Nat) : Want := { remoteWant hidx size kRead [0, 1, 2, 3] .rd with offAlign := size }

/-- RLQ (R261): LQ on an elem port, LQG on a line port. -/
def rlqOp : M Unit := do
  let o ← ops
  let sh : Shape := { d := 0, a := 0, c := 0 }
  let want (size : Nat) : Want := rlqWant o.x8.toNat size
  insnWith .rlq sh true (do
    let n := objPort o.d
    if (← lanes) = 0 then
      match (← get).ports.find (← portKeyOf n) with
      | some p => if p.kind = .acc ∧ p.mode = .sline then stopTrap (portTrap 3 n) else pure ()
      | none => pure ()
    else
      checkPorts sh
      let p ← boundPort n
      if p.kind ≠ .acc then stopTrap (portTrap 2 n)
      if p.mode = .elem then lqBody want p n else lqgBody want p n)

/-- RLDW (R262). -/
def rldwOp : M Unit := do
  let o ← ops
  let h := (← get).handleOf (← unit) o.x8.toNat
  let size := 2 ^ Hnd.ew h
  let sh : Shape := { d := 1, a := 0, b := 1, c := 0 }
  blockOp .rldw sh (do
    let v ← fetch sh .offset
    let (ls, vec) ← accLanes (isVec o.d)
    reqs (← accesses (remoteWant o.x8.toNat size kRead [0, 1, 2, 3] .rd) v ls vec false false) vec (fun _ => .load))
    (fun x => writeD 1 (fun l => loaded h true size 64 (x l)))

/-- The requester's own checks of a remote store at its memory side (R263, R256): the first lane that fails traps, and a page
in transit parks the thread. -/
def requesterSide (vec : Bool) (r : Nat × Req) : M Unit := do
  let s ← get
  match s.partOf r.2.ctx with
  | none => stopTrap (prot 1)
  | some (_, p) =>
    match s.memSide p (s.walk p r.2.ia) r.2.ia r.2.size 5 r.2.host r.2.peer true false none with
    | .park page cause sz => throw (Stop.park page cause (sizeCode sz) true)
    | .fail t =>
      stopTrap { t with handle := BitVec.ofNat 8 r.2.handle, loc := BitVec.ofNat 64 r.2.loc, lane := if vec then some r.1 else none }
    | _ => pure ()

/-- RST (R263). -/
def rstOp : M Unit := do
  let o ← ops
  let h := (← get).handleOf (← unit) o.x8.toNat
  let size := 2 ^ Hnd.ew h
  let sh : Shape := { d := 0, a := 1, b := 1, c := 0 }
  insn .rst sh (do
    let v ← fetch sh .offset
    let (ls, vec) ← accLanes (isVec o.a || isVec o.b)
    let rs ← accesses (remoteWant o.x8.toNat size kTile [0, 1, 2, 3] .wr) v ls vec true false
    let qs ← reqs rs vec (fun l => storeKind size 0 (v.a l).bits)
    qs.forM (requesterSide vec)
    qs.forM (fun q => buffer { q.2 with rst := true }))

/-- RATOM (R264). -/
def ratomOp : M Unit := do
  let o ← ops
  let h := (← get).handleOf (← unit) o.x8.toNat
  let size := 2 ^ Hnd.ew h
  let cas := o.sel.toNat == 9
  let sh : Shape := { d := 1, a := 1, b := 1, c := if cas then 1 else 0 }
  blockOp .ratom sh (do
    let v ← fetch sh .offset
    let (ls, vec) ← accLanes (isVec o.d)
    let v := if cas then { v with a := fun l => { v.a l with poison := (v.a l).poison || (v.c l).poison } } else v
    let rs ← accesses (remoteWant o.x8.toNat size kTile [2, 3] .both) v ls vec true false
    reqs rs vec (fun l => .atomic o.sel.toNat (8 * size) (v.a l).bits (if cas then (v.c l).bits else 0) true))
    (fun x => writeD 1 (fun l => loaded h true size 64 (x l)))

/-- The peer device of a request, as its leaf names it now. -/
def State.peerOf (s : State) (r : Req) : Option Nat :=
  match r.phase with
  | .remote dev _ _ _ | .remoteParked dev _ _ => some dev
  | _ => match s.partOf r.ctx with
    | some (_, p) => match s.walk p r.ia with
      | .leaf e _ => if Leaf.cls e = 2 then some (Leaf.dev e) else none
      | _ => none
    | none => none

/-- Whether an RFENCE names a request: peer class, and the device selected; an unknown device may be it. -/
def State.remoteNamed (s : State) (one : Option Nat) (r : Req) : Bool :=
  r.cls == 2 && (match one, s.peerOf r with
    | some d, some e => d == e
    | _, _ => true)

/-- The masks of the FENCE that RFENCE is (R265): every kind, and class peer. -/
def remoteMask : Nat := 0x27

/-- What RFENCE waits for among the earlier accesses of its unit (R265): what its FENCE waits for, or under .one only what goes to that
device; and on that traffic a full or release fence also for the delivery of what port loads read. -/
def State.remoteFenced (s : State) (u : Agent) (one : Option Nat) (sem : Nat) : Bool :=
  s.reqs.all (fun q => q.2.owner != .unit u || !s.remoteNamed one q.2 || (sem == 1 && (!q.2.open || !q.2.loads))) &&
    (sem == 1 || (s.bufferOf (.unit u)).all (fun q => !s.remoteNamed one q.2)) && (one.isSome || s.fenced u remoteMask sem)

/-- RFENCE (R265). -/
def rfenceOp : M Unit := do
  let o ← ops
  let sh : Shape := { d := 0, a := 0, c := 0 }
  insn .rfence sh (do
    let v ← fetch sh .int
    let sem := o.a.immVal % 4
    let x := heldVal (v.b (lowLane (← lanes)))
    let one := if o.x8.toNat % 2 = 1 then some (x.bits.toNat % 4096) else none
    let u ← unit
    waitUnless ((← get).remoteFenced u one sem) (.counters (if one.isSome then 0x20 else remoteMask) true)
    (if sem = 1 then pure () else takeDeferred (fun d => d.kind == 1 || d.cls == 2))
    (if sem = 2 then pure () else renewL1 5))

/-! ### Meanings -/

/-- RLQ (R261). -/
def execRlq (s : State) : Host.Outcome State Fault Refusal := meaning rlqOp s

/-- RLDW (R262). -/
def execRldw (s : State) : Host.Outcome State Fault Refusal := meaning rldwOp s

/-- RST (R263). -/
def execRst (s : State) : Host.Outcome State Fault Refusal := meaning rstOp s

/-- RFENCE (R265). -/
def execRfence (s : State) : Host.Outcome State Fault Refusal := meaning rfenceOp s

/-- RATOM (R264). -/
def execRatom (s : State) : Host.Outcome State Fault Refusal := meaning ratomOp s

end Sys2Proof.Machine
end

