-- ==== Sys2Proof/Machine/Special.lean ====
section
/-! DEFINITION. The special functions of R101 and R102 on binary32. Each irrational value is computed in fixed point with 512
fraction bits from its series and rounded once; the values the manual calls exact are computed exactly. That 512 bits
suffice for a single correct rounding is DEDUCED (entry 10). -/

namespace Sys2Proof.Machine

/-- Fraction bits of the fixed point. -/
def fxBits : Nat := 512

/-- ln 2 in fixed point. -/
def fxLn2 : Nat := 0xb17217f7d1cf79abc9e3b39803f2f6af40f343267298b62d8a0d175b8baafa2be7b876206debac98559552fb4afa1b10ed2eae35c138214427573b291169b825

/-- pi in fixed point. -/
def fxPi : Nat := 0x3243f6a8885a308d313198a2e03707344a4093822299f31d0082efa98ec4e6c89452821e638d01377be5466cf34e90c6cc0ac29b7c97c50dd3f84d5b5b5470917

/-- Product in fixed point. -/
def fxMul (x y : Nat) : Nat := x * y / 2 ^ fxBits

/-- m 2^e in fixed point, rounded down; exact whenever e is at least -512. -/
def fxOf (m : Nat) (e : Int) : Nat :=
  let k := e + fxBits
  if 0 ≤ k then m * 2 ^ k.toNat else m / 2 ^ (min (-k).toNat (bitLen m))

/-- exp(y) - 1 from its series: terms from the k-th on, t the last term. -/
def fxExpSeries (y : Nat) : Nat → Nat → Nat → Nat
  | 0, _, _ => 0
  | fuel + 1, k, t =>
    let t' := fxMul t y / k
    t' + fxExpSeries y fuel (k + 1) t'

/-- exp(y) - 1 for y below 32. -/
def fxExpm1 (y : Nat) : Nat := fxExpSeries y 320 1 (2 ^ fxBits)

/-- atanh(z) from its series: odd powers from the k-th on. -/
def fxAtanhSeries (z2 : Nat) : Nat → Nat → Nat → Nat
  | 0, _, _ => 0
  | fuel + 1, k, t => t / k + fxAtanhSeries z2 fuel (k + 2) (fxMul t z2)

/-- ln(m / 2^23) for a 24-bit m, through atanh. -/
def fxLn (m : Nat) : Nat :=
  let z := (m - 2 ^ 23) * 2 ^ fxBits / (m + 2 ^ 23)
  2 * fxAtanhSeries (fxMul z z) 180 1 z

/-- Alternating series of sine (from k = 1, t = x) and cosine (from k = 0, t = 1): even steps add, odd steps take away. -/
def fxTrig (x2 : Nat) : Nat → Nat → Int → Bool → Int
  | 0, _, _, _ => 0
  | fuel + 1, k, t, neg =>
    (if neg then -t else t) + fxTrig x2 fuel (k + 2) (t * x2 / 2 ^ fxBits / ((k + 1) * (k + 2) : Nat)) (!neg)

def fxSin (x : Nat) : Nat := (fxTrig (fxMul x x) 70 1 x false).toNat
def fxCos (x : Nat) : Nat := (fxTrig (fxMul x x) 70 0 (2 ^ fxBits : Nat) false).toNat

/-- An irrational fixed-point value rounded once to binary32 (R101). -/
def fxRound (neg : Bool) (v : Nat) : FRes := binary32.roundSticky 0 neg v (-(fxBits : Int)) true

/-- +1 or -1 exactly. -/
def oneRes (neg : Bool) : FRes := ⟨binary32.signBit neg + 0x3F800000, 0⟩

/-- FRCP (R101, R102). -/
def frcpV (v : Nat) : FRes :=
  match binary32.decode v with
  | .nan s => binary32.nanRes [.nan s]
  | .inf n => ⟨binary32.signBit n, 0⟩
  | .fin n m e =>
    if m = 0 then ⟨binary32.signBit n + binary32.infBits, fDZ ||| fNF⟩
    else binary32.divV 0 (.fin false 1 0) (.fin n m e)

/-- FRSQ (R101, R102). -/
def frsqV (v : Nat) : FRes :=
  match binary32.decode v with
  | .nan s => binary32.nanRes [.nan s]
  | .inf true => binary32.invalid
  | .inf false => ⟨0, 0⟩
  | .fin n m e =>
    if m = 0 then ⟨binary32.signBit n + binary32.infBits, fDZ ||| fNF⟩
    else if n then binary32.invalid
    else
      -- 1/sqrt(m 2^e) with e even: 2^(-e/2) sqrt(2^(2K) / m) 2^(-K)
      let m' := if e % 2 = 0 then m else 2 * m
      let e' := if e % 2 = 0 then e else e - 1
      let q := 2 ^ 120 / m'
      let r := isqrt q
      binary32.roundSticky 0 false r (-(e' / 2) - 60) (r * r * m' != 2 ^ 120)

/-- FEXP2 (R101, R102). -/
def fexp2V (v : Nat) : FRes :=
  match binary32.decode v with
  | .nan s => binary32.nanRes [.nan s]
  | .inf true => ⟨0, 0⟩
  | .inf false => binary32.infRes false
  | .fin neg m e =>
    if m = 0 then oneRes false
    -- beyond 2^10 in magnitude the result over- or underflows whatever the operand
    else if (bitLen m : Int) + e > 10 then binary32.round 0 false 1 (if neg then -1024 else 1024)
    else if e ≥ 0 then binary32.round 0 false 1 (toInt neg (m * 2 ^ e.toNat))
    else
      let d := (-e).toNat
      let x := toInt neg m
      let n := x / (2 ^ d : Nat)
      let f := (x % (2 ^ d : Nat)).toNat
      if f = 0 then binary32.round 0 false 1 n
      else
        let g := 2 ^ fxBits + fxExpm1 (fxMul (fxOf f e) fxLn2)
        binary32.roundSticky 0 false g (n - fxBits) true

/-- FLOG2 (R101, R102). The exact zero that it delivers for 1.0 is +0 (DESIGN CHOICE, entry 59). -/
def flog2V (v : Nat) : FRes :=
  match binary32.decode v with
  | .nan s => binary32.nanRes [.nan s]
  | .inf true => binary32.invalid
  | .inf false => binary32.infRes false
  | .fin n m e =>
    if m = 0 then ⟨binary32.signBit true + binary32.infBits, fDZ ||| fNF⟩
    else if n then binary32.invalid
    else
      let l := bitLen m
      let m' := m * 2 ^ (24 - l)
      let ex : Int := (l : Int) - 1 + e
      if m' = 2 ^ 23 then binary32.round 0 (ex < 0) ex.natAbs 0
      else
        let x : Int := ex * (2 ^ fxBits : Nat) + (fxLn m' * 2 ^ fxBits / fxLn2 : Nat)
        fxRound (x < 0) x.natAbs

/-- sin(pi q) for a first-quadrant argument q = x / 2^512 below one half, as fixed point. -/
def fxSinPi (x : Nat) : Nat :=
  if 4 * x ≤ 2 ^ fxBits then fxSin (fxMul x fxPi)
  else fxCos (fxMul (2 ^ (fxBits - 1) - x) fxPi)

/-- FSINPI and FCOSPI: the argument as twice a quadrant count plus a rest in fixed point (R101, R102). -/
def trigV (cosine : Bool) (v : Nat) : FRes :=
  match binary32.decode v with
  | .nan s => binary32.nanRes [.nan s]
  | .inf _ => binary32.invalid
  | .fin neg m e =>
    -- |a| mod 2 in fixed point; values of 2^24 and more are even integers
    let x := if e > 0 then 0 else fxOf m e % 2 ^ (fxBits + 1)
    let half := 2 ^ (fxBits - 1)
    let quad := x / half
    let r := x % half
    if cosine then
      if r = 0 then
        match quad with
        | 0 => oneRes false
        | 2 => oneRes true
        | _ => ⟨0, 0⟩
      else
        match quad with
        | 0 => fxRound false (fxSinPi (half - r))
        | 1 => fxRound true (fxSinPi r)
        | 2 => fxRound true (fxSinPi (half - r))
        | _ => fxRound false (fxSinPi r)
    else
      if r = 0 then
        match quad with
        | 1 => oneRes neg
        | 3 => oneRes (!neg)
        | _ => ⟨binary32.signBit neg, 0⟩
      else
        match quad with
        | 0 => fxRound neg (fxSinPi r)
        | 1 => fxRound neg (fxSinPi (half - r))
        | 2 => fxRound (!neg) (fxSinPi r)
        | _ => fxRound (!neg) (fxSinPi (half - r))

/-- FSINPI. -/
def fsinpiV (v : Nat) : FRes := trigV false v
/-- FCOSPI. -/
def fcospiV (v : Nat) : FRes := trigV true v

/-- FTANH (R101, R102). -/
def ftanhV (v : Nat) : FRes :=
  match binary32.decode v with
  | .nan s => binary32.nanRes [.nan s]
  | .inf n => oneRes n
  | .fin neg m e =>
    if m = 0 then ⟨binary32.signBit neg, 0⟩
    -- from 16 on the result is closer to 1 than half a unit in the last place
    else if (bitLen m : Int) + e > 4 then fxRound neg (2 ^ fxBits - 1)
    else
      let w := fxExpm1 (2 * fxOf m e)
      fxRound neg (w * 2 ^ fxBits / (w + 2 ^ (fxBits + 1)))

end Sys2Proof.Machine
end

