-- ==== Sys2Proof/Machine/Floating.lean ====
section
/-! DEFINITION. The floating-point instructions of the execute side (R93-R102). -/

namespace Sys2Proof.Machine

/-- A floating-point instruction: a result with flags from the operands and x8. A poisoned source raises nothing (R79). DESIGN CHOICE, entry
59: an enabled flag traps before the result is pushed or written, and where pushing or writing it traps, no flag stays raised (R75). -/
def fpOp (i : Instr) (sh : Shape) (lk : LitKind) (f : Nat → Nat → Nat → Nat → FRes) : M Unit :=
  insn i sh (do
    let v ← fetch sh lk
    let x := (← ops).x8.toNat
    if v.bad 0 then writeD sh.d (fun _ => Val.bad)
    else
      let r := f x (v.a 0).bits.toNat (v.b 0).bits.toNat (v.c 0).bits.toNat
      raise r.flags
      writeD sh.d (fun _ => Val.of (BitVec.ofNat 64 r.bits)))

/-- Pair shapes of binary64. -/
def dbl1 : Shape := { d := 2, a := 2, b := 0, c := 0 }
def dbl3 : Shape := { d := 2, a := 2, b := 2, c := 2 }

/-- A value with no flags. -/
def noFlags (v : Nat) : FRes := ⟨v, 0⟩

/-- A comparison of two values of a format with predicate destination (R95). -/
def fcmpOp (i : Instr) (f : Fmt) (w : Nat) (lk : LitKind) : M Unit := do
  let sh : Shape := { a := w, b := w, c := 0 }
  insn i sh (do
    let v ← fetch sh lk
    let o ← ops
    let c ← readPred o.c
    let x := o.x8.toNat
    if (v.a 0).poison || (v.b 0).poison || (c 0).poison then writePred o.d (fun _ => ⟨false, true⟩)
    else
      let r := cmpV (x % 8) (bit x 3) (f.decode (v.a 0).bits.toNat) (f.decode (v.b 0).bits.toNat)
      raise r.2
      writePred o.d (fun _ => ⟨combine x r.1 (c 0).val, false⟩))

/-- A conversion's shape: pairs for the 64-bit formats (R99). -/
def cvtShape (x8 : BitVec 8) : Shape :=
  { d := if fmt64 (x8.toNat / 16) then 2 else 1, a := if fmt64 (x8.toNat % 16) then 2 else 1, b := 0, c := 0 }

/-- Bits of an integer format (R60, R67). -/
def intBits (f : Nat) : Nat := if f = 9 then 8 else if f = 10 then 32 else 64

def cvtOp (i : Instr) (f : Nat → Nat → FRes) : M Unit := do
  let sh := cvtShape (← ops).x8
  fpOp i sh .int (fun x a _ _ => f x a)

/-- I2F: a signed integer to a format, nearest-even (R73). -/
def i2fV (x a : Nat) : FRes := cvtIF (intBits (x % 16)) (fmtOf (x / 16)) a

/-- F2I: a format to a signed integer, towards zero with saturation; an INT8 is sign-extended to 32 bits (R67, R73). -/
def f2iV (x a : Nat) : FRes :=
  let r := cvtFI (fmtOf (x % 16)) (intBits (x / 16)) a
  if x / 16 = 9 then ⟨wrapN (sext r.bits 8) 32, r.flags⟩ else r

/-- FCVT between formats (R73). -/
def fcvtV (x a : Nat) : FRes := cvtFF (fmtOf (x % 16)) (fmtOf (x / 16)) a

/-- FCHK: whether a value is finite, into a predicate; NV for a signalling NaN (R100). -/
def fchkOp : M Unit := do
  let o ← ops
  let f := o.x8.toNat % 16
  let sh : Shape := { a := if fmt64 f then 2 else 1, b := 0, c := 0 }
  insn .fchk sh (do
    let v ← fetch sh .int
    if (v.a 0).poison then writePred o.d (fun _ => ⟨false, true⟩)
    else
      let u := (fmtOf f).decode (v.a 0).bits.toNat
      raise (if u.isSnan then fNV else 0)
      writePred o.d (fun _ => ⟨!(u.isNan || u.isInf), false⟩))

/-! ### Meanings -/

/-- FADD: a + b rounded (R94). -/
def execFadd (s : State) : Host.Outcome State Fault Refusal :=
  meaning (fpOp .fadd two1 .int fun x a b _ => binary32.add (x % 8) a b) s

/-- FADD: a + b rounded (R94). -/
def execFaddLong (s : State) : Host.Outcome State Fault Refusal :=
  meaning (fpOp .faddLong two1 .int fun x a b _ => binary32.add (x % 8) a b) s

/-- FSUB: a - b rounded (R94). -/
def execFsub (s : State) : Host.Outcome State Fault Refusal :=
  meaning (fpOp .fsub two1 .int fun x a b _ => binary32.sub (x % 8) a b) s

/-- FSUB: a - b rounded (R94). -/
def execFsubLong (s : State) : Host.Outcome State Fault Refusal :=
  meaning (fpOp .fsubLong two1 .int fun x a b _ => binary32.sub (x % 8) a b) s

/-- FMUL: a b rounded (R94). -/
def execFmul (s : State) : Host.Outcome State Fault Refusal :=
  meaning (fpOp .fmul two1 .int fun x a b _ => binary32.mul (x % 8) a b) s

/-- FMUL: a b rounded (R94). -/
def execFmulLong (s : State) : Host.Outcome State Fault Refusal :=
  meaning (fpOp .fmulLong two1 .int fun x a b _ => binary32.mul (x % 8) a b) s

/-- FMIN: minimumNumber (R96). -/
def execFmin (s : State) : Host.Outcome State Fault Refusal :=
  meaning (fpOp .fmin two1 .int fun _ a b _ => binary32.minMax false a b) s

/-- FMIN: minimumNumber (R96). -/
def execFminLong (s : State) : Host.Outcome State Fault Refusal :=
  meaning (fpOp .fminLong two1 .int fun _ a b _ => binary32.minMax false a b) s

/-- FMAX: maximumNumber (R96). -/
def execFmax (s : State) : Host.Outcome State Fault Refusal :=
  meaning (fpOp .fmax two1 .int fun _ a b _ => binary32.minMax true a b) s

/-- FMAX: maximumNumber (R96). -/
def execFmaxLong (s : State) : Host.Outcome State Fault Refusal :=
  meaning (fpOp .fmaxLong two1 .int fun _ a b _ => binary32.minMax true a b) s

/-- FABS: bit 31 cleared (R96). -/
def execFabs (s : State) : Host.Outcome State Fault Refusal :=
  meaning (fpOp .fabs one1 .int fun _ a _ _ => noFlags (a % 2 ^ 31)) s

/-- FABS: bit 31 cleared (R96). -/
def execFabsLong (s : State) : Host.Outcome State Fault Refusal :=
  meaning (fpOp .fabsLong one1 .int fun _ a _ _ => noFlags (a % 2 ^ 31)) s

/-- FNEG: bit 31 inverted (R96). -/
def execFneg (s : State) : Host.Outcome State Fault Refusal :=
  meaning (fpOp .fneg one1 .int fun _ a _ _ => noFlags (a ^^^ 2 ^ 31)) s

/-- FNEG: bit 31 inverted (R96). -/
def execFnegLong (s : State) : Host.Outcome State Fault Refusal :=
  meaning (fpOp .fnegLong one1 .int fun _ a _ _ => noFlags (a ^^^ 2 ^ 31)) s

/-- FRCP: 1/a, correctly rounded (R101, R102). -/
def execFrcp (s : State) : Host.Outcome State Fault Refusal :=
  meaning (fpOp .frcp one1 .int fun _ a _ _ => frcpV a) s

/-- FRCP: 1/a, correctly rounded (R101, R102). -/
def execFrcpLong (s : State) : Host.Outcome State Fault Refusal :=
  meaning (fpOp .frcpLong one1 .int fun _ a _ _ => frcpV a) s

/-- FRSQ: 1/sqrt a, correctly rounded (R101, R102). -/
def execFrsq (s : State) : Host.Outcome State Fault Refusal :=
  meaning (fpOp .frsq one1 .int fun _ a _ _ => frsqV a) s

/-- FRSQ: 1/sqrt a, correctly rounded (R101, R102). -/
def execFrsqLong (s : State) : Host.Outcome State Fault Refusal :=
  meaning (fpOp .frsqLong one1 .int fun _ a _ _ => frsqV a) s

/-- FSQRT: the square root rounded (R94). -/
def execFsqrt (s : State) : Host.Outcome State Fault Refusal :=
  meaning (fpOp .fsqrt one1 .int fun x a _ _ => binary32.sqrt (x % 8) a) s

/-- FSQRT: the square root rounded (R94). -/
def execFsqrtLong (s : State) : Host.Outcome State Fault Refusal :=
  meaning (fpOp .fsqrtLong one1 .int fun x a _ _ => binary32.sqrt (x % 8) a) s

/-- FEXP2: 2^a, correctly rounded (R101, R102). -/
def execFexp2 (s : State) : Host.Outcome State Fault Refusal :=
  meaning (fpOp .fexp2 one1 .int fun _ a _ _ => fexp2V a) s

/-- FEXP2: 2^a, correctly rounded (R101, R102). -/
def execFexp2Long (s : State) : Host.Outcome State Fault Refusal :=
  meaning (fpOp .fexp2Long one1 .int fun _ a _ _ => fexp2V a) s

/-- FLOG2: log2 a, correctly rounded (R101, R102). -/
def execFlog2 (s : State) : Host.Outcome State Fault Refusal :=
  meaning (fpOp .flog2 one1 .int fun _ a _ _ => flog2V a) s

/-- FLOG2: log2 a, correctly rounded (R101, R102). -/
def execFlog2Long (s : State) : Host.Outcome State Fault Refusal :=
  meaning (fpOp .flog2Long one1 .int fun _ a _ _ => flog2V a) s

/-- FSINPI: sin(pi a), correctly rounded (R101, R102). -/
def execFsinpi (s : State) : Host.Outcome State Fault Refusal :=
  meaning (fpOp .fsinpi one1 .int fun _ a _ _ => fsinpiV a) s

/-- FSINPI: sin(pi a), correctly rounded (R101, R102). -/
def execFsinpiLong (s : State) : Host.Outcome State Fault Refusal :=
  meaning (fpOp .fsinpiLong one1 .int fun _ a _ _ => fsinpiV a) s

/-- FCOSPI: cos(pi a), correctly rounded (R101, R102). -/
def execFcospi (s : State) : Host.Outcome State Fault Refusal :=
  meaning (fpOp .fcospi one1 .int fun _ a _ _ => fcospiV a) s

/-- FCOSPI: cos(pi a), correctly rounded (R101, R102). -/
def execFcospiLong (s : State) : Host.Outcome State Fault Refusal :=
  meaning (fpOp .fcospiLong one1 .int fun _ a _ _ => fcospiV a) s

/-- FTANH: tanh a, correctly rounded (R101, R102). -/
def execFtanh (s : State) : Host.Outcome State Fault Refusal :=
  meaning (fpOp .ftanh one1 .int fun _ a _ _ => ftanhV a) s

/-- FTANH: tanh a, correctly rounded (R101, R102). -/
def execFtanhLong (s : State) : Host.Outcome State Fault Refusal :=
  meaning (fpOp .ftanhLong one1 .int fun _ a _ _ => ftanhV a) s

/-- FCLASS: the class mask (R97). -/
def execFclass (s : State) : Host.Outcome State Fault Refusal :=
  meaning (fpOp .fclass one1 .int fun x a _ _ => noFlags ((fmtOf (x % 16)).classOf a)) s

/-- FCLASS: the class mask (R97). -/
def execFclassLong (s : State) : Host.Outcome State Fault Refusal :=
  meaning (fpOp .fclassLong one1 .int fun x a _ _ => noFlags ((fmtOf (x % 16)).classOf a)) s

/-- HADD2: two binary16 sums (R94). -/
def execHadd2 (s : State) : Host.Outcome State Fault Refusal :=
  meaning (fpOp .hadd2 two1 .int fun x a b _ => packed (fun p q _ => binary16.add (x % 8) p q) a b 0) s

/-- HADD2: two binary16 sums (R94). -/
def execHadd2Long (s : State) : Host.Outcome State Fault Refusal :=
  meaning (fpOp .hadd2Long two1 .int fun x a b _ => packed (fun p q _ => binary16.add (x % 8) p q) a b 0) s

/-- HMUL2: two binary16 products (R94). -/
def execHmul2 (s : State) : Host.Outcome State Fault Refusal :=
  meaning (fpOp .hmul2 two1 .int fun x a b _ => packed (fun p q _ => binary16.mul (x % 8) p q) a b 0) s

/-- HMUL2: two binary16 products (R94). -/
def execHmul2Long (s : State) : Host.Outcome State Fault Refusal :=
  meaning (fpOp .hmul2Long two1 .int fun x a b _ => packed (fun p q _ => binary16.mul (x % 8) p q) a b 0) s

/-- BADD2: two bfloat16 sums (R94). -/
def execBadd2 (s : State) : Host.Outcome State Fault Refusal :=
  meaning (fpOp .badd2 two1 .int fun x a b _ => packed (fun p q _ => bfloat16.add (x % 8) p q) a b 0) s

/-- BADD2: two bfloat16 sums (R94). -/
def execBadd2Long (s : State) : Host.Outcome State Fault Refusal :=
  meaning (fpOp .badd2Long two1 .int fun x a b _ => packed (fun p q _ => bfloat16.add (x % 8) p q) a b 0) s

/-- BMUL2: two bfloat16 products (R94). -/
def execBmul2 (s : State) : Host.Outcome State Fault Refusal :=
  meaning (fpOp .bmul2 two1 .int fun x a b _ => packed (fun p q _ => bfloat16.mul (x % 8) p q) a b 0) s

/-- BMUL2: two bfloat16 products (R94). -/
def execBmul2Long (s : State) : Host.Outcome State Fault Refusal :=
  meaning (fpOp .bmul2Long two1 .int fun x a b _ => packed (fun p q _ => bfloat16.mul (x % 8) p q) a b 0) s

/-- I2F: integer to float (R73, R99). -/
def execI2f (s : State) : Host.Outcome State Fault Refusal :=
  meaning (cvtOp .i2f i2fV) s

/-- F2I: float to integer (R73, R99). -/
def execF2i (s : State) : Host.Outcome State Fault Refusal :=
  meaning (cvtOp .f2i f2iV) s

/-- FFRAC: a - floor a (R94). -/
def execFfrac (s : State) : Host.Outcome State Fault Refusal :=
  meaning (fpOp .ffrac one1 .int fun x a _ _ => binary32.frac (x % 8) a) s

/-- FFRAC: a - floor a (R94). -/
def execFfracLong (s : State) : Host.Outcome State Fault Refusal :=
  meaning (fpOp .ffracLong one1 .int fun x a _ _ => binary32.frac (x % 8) a) s

/-- FFLOOR: towards minus infinity (R98). -/
def execFfloor (s : State) : Host.Outcome State Fault Refusal :=
  meaning (fpOp .ffloor one1 .int fun _ a _ _ => binary32.rintV 2 a) s

/-- FFLOOR: towards minus infinity (R98). -/
def execFfloorLong (s : State) : Host.Outcome State Fault Refusal :=
  meaning (fpOp .ffloorLong one1 .int fun _ a _ _ => binary32.rintV 2 a) s

/-- FCEIL: towards plus infinity (R98). -/
def execFceil (s : State) : Host.Outcome State Fault Refusal :=
  meaning (fpOp .fceil one1 .int fun _ a _ _ => binary32.rintV 3 a) s

/-- FCEIL: towards plus infinity (R98). -/
def execFceilLong (s : State) : Host.Outcome State Fault Refusal :=
  meaning (fpOp .fceilLong one1 .int fun _ a _ _ => binary32.rintV 3 a) s

/-- FRINT: to an integral value by the mode (R98). -/
def execFrint (s : State) : Host.Outcome State Fault Refusal :=
  meaning (fpOp .frint one1 .int fun x a _ _ => binary32.rintV (x % 8) a) s

/-- FRINT: to an integral value by the mode (R98). -/
def execFrintLong (s : State) : Host.Outcome State Fault Refusal :=
  meaning (fpOp .frintLong one1 .int fun x a _ _ => binary32.rintV (x % 8) a) s

/-- FSCALE: a 2^b rounded (R94). -/
def execFscale (s : State) : Host.Outcome State Fault Refusal :=
  meaning (fpOp .fscale two1 .int fun x a b _ => binary32.scale (x % 8) a (sext b 32)) s

/-- FSCALE: a 2^b rounded (R94). -/
def execFscaleLong (s : State) : Host.Outcome State Fault Refusal :=
  meaning (fpOp .fscaleLong two1 .int fun x a b _ => binary32.scale (x % 8) a (sext b 32)) s

/-- FFMA: a b + c rounded once (R94). -/
def execFfma (s : State) : Host.Outcome State Fault Refusal :=
  meaning (fpOp .ffma ({} : Shape) .int fun x a b c => binary32.fma (x % 8) a b c) s

/-- FCMPF: a binary32 comparison (R95). -/
def execFcmpf (s : State) : Host.Outcome State Fault Refusal :=
  meaning (fcmpOp .fcmpf binary32 1 .int) s

/-- FDIV: a / b rounded (R94). -/
def execFdiv (s : State) : Host.Outcome State Fault Refusal :=
  meaning (fpOp .fdiv two1 .int fun x a b _ => binary32.div (x % 8) a b) s

/-- DADD: binary64 a + b (R94). -/
def execDadd (s : State) : Host.Outcome State Fault Refusal :=
  meaning (fpOp .dadd pairs2 .binary64 fun x a b _ => binary64.add (x % 8) a b) s

/-- DSUB: binary64 a - b (R94). -/
def execDsub (s : State) : Host.Outcome State Fault Refusal :=
  meaning (fpOp .dsub pairs2 .binary64 fun x a b _ => binary64.sub (x % 8) a b) s

/-- DMUL: binary64 a b (R94). -/
def execDmul (s : State) : Host.Outcome State Fault Refusal :=
  meaning (fpOp .dmul pairs2 .binary64 fun x a b _ => binary64.mul (x % 8) a b) s

/-- DFMA: binary64 a b + c rounded once (R94). -/
def execDfma (s : State) : Host.Outcome State Fault Refusal :=
  meaning (fpOp .dfma dbl3 .binary64 fun x a b c => binary64.fma (x % 8) a b c) s

/-- DCMPF: a binary64 comparison (R95). -/
def execDcmpf (s : State) : Host.Outcome State Fault Refusal :=
  meaning (fcmpOp .dcmpf binary64 2 .binary64) s

/-- DDIV: binary64 a / b (R94). -/
def execDdiv (s : State) : Host.Outcome State Fault Refusal :=
  meaning (fpOp .ddiv pairs2 .binary64 fun x a b _ => binary64.div (x % 8) a b) s

/-- DSQRT: the binary64 square root (R94). -/
def execDsqrt (s : State) : Host.Outcome State Fault Refusal :=
  meaning (fpOp .dsqrt dbl1 .int fun x a _ _ => binary64.sqrt (x % 8) a) s

/-- DMIN: binary64 minimumNumber (R96). -/
def execDmin (s : State) : Host.Outcome State Fault Refusal :=
  meaning (fpOp .dmin pairs2 .binary64 fun _ a b _ => binary64.minMax false a b) s

/-- DMAX: binary64 maximumNumber (R96). -/
def execDmax (s : State) : Host.Outcome State Fault Refusal :=
  meaning (fpOp .dmax pairs2 .binary64 fun _ a b _ => binary64.minMax true a b) s

/-- DCLASS: the class mask of a binary64 value (R97). -/
def execDclass (s : State) : Host.Outcome State Fault Refusal :=
  meaning (fpOp .dclass ({ a := 2, b := 0, c := 0 } : Shape) .int fun _ a _ _ => noFlags (binary64.classOf a)) s

/-- HFMA2: two binary16 fused products (R94). -/
def execHfma2 (s : State) : Host.Outcome State Fault Refusal :=
  meaning (fpOp .hfma2 ({} : Shape) .int fun x a b c => packed (binary16.fma (x % 8)) a b c) s

/-- BFMA2: two bfloat16 fused products (R94). -/
def execBfma2 (s : State) : Host.Outcome State Fault Refusal :=
  meaning (fpOp .bfma2 ({} : Shape) .int fun x a b c => packed (bfloat16.fma (x % 8)) a b c) s

/-- FCVT: one format to another (R73, R99). -/
def execFcvt (s : State) : Host.Outcome State Fault Refusal :=
  meaning (cvtOp .fcvt fcvtV) s

/-- FCHK: whether a value is finite (R100). -/
def execFchk (s : State) : Host.Outcome State Fault Refusal :=
  meaning (fchkOp) s

end Sys2Proof.Machine
end

