-- ==== Sys2Proof/Machine/Tmx.lean ====
section
/-! DEFINITION. The broadcast constant store: TMV, TMVA, TMVT, PLDV and PSTB (R132-R136). -/

namespace Sys2Proof.Machine

/-! ### Reading the store -/

/-- The check of R132: another context's constants are never read. Gives the core and whether its store has no owner. -/
def bcsOwn : M (Nat × Bool) := do
  let c ← core
  let s ← get
  let owner := (s.core c).bcsOwner
  trapIf (owner.isSome && owner != some (s.ctxOf (← unit))) 0x24 9
  pure (c, owner.isNone)

/-- The bits and poison of n bytes of a core's store; a store with no owner reads zero. -/
def State.bcsRead (s : State) (c : Nat) (free : Bool) (off n : Nat) : Nat × Bool :=
  if free then (0, false) else s.readStore (Loc.bcs c off).key n

/-- The values of a run of registers of the current execute thread (R133). -/
def readRun (f : Field) (n : Nat) : M (List Val) := do
  match ← unit with
  | .ex tm tid =>
    let s ← get
    pure ((gNames f n).map (fun i => (s.strip tm (tid / 16)).readG i (tid % 16)))
  | _ => pure []

/-- A run of registers written, each with its own poison. -/
def writeRun (f : Field) (vs : List Val) : M Unit := do
  match ← unit with
  | .ex tm tid =>
    let vs := vs.map heldVal
    let ids ← writeRegs tm tid ((gNames f vs.length).zip (vs.map (fun v => loW v.bits))) false false
    modify (fun s => s.modStrip tm (tid / 16) (fun t =>
      (ids.zip vs).foldl (fun t q => t.land q.1 (tid % 16) (loW q.2.bits) q.2.poison) t))
  | _ => pure ()

/-! ### TMV, TMVA, TMVT (R134) -/

/-- One output: the chain of multiply-adds over pairs of a matrix element and a vector element. -/
def fmaChain (y : FRes) : List (Nat × Nat) → FRes
  | [] => y
  | (w, x) :: r =>
    let z := binary32.fma 0 w x y.bits
    fmaChain ⟨z.bits, y.flags ||| z.flags⟩ r

/-- Elements of W: n times m words widened exactly, and whether any is poisoned. -/
def State.wElems (s : State) (c : Nat) (free : Bool) (off es k : Nat) : List Nat × Bool :=
  let l := (List.range k).map (fun i => s.bcsRead c free (off + es * i) es)
  (l.map (fun x => if es = 2 then x.1 * 2 ^ 16 else x.1), l.any (·.2))

/-- The product: W by x, row by row, or transposed; y holds the values the chains begin with. -/
def tmvOut (transposed : Bool) (n m : Nat) (w x y : List Nat) : List FRes :=
  let at' (i j : Nat) : Nat := w.getD (i * m + j) 0
  if transposed then
    (List.range m).map (fun j => fmaChain ⟨0, 0⟩ ((List.range n).map (fun i => (at' i j, x.getD i 0))))
  else
    (List.range n).map (fun i => fmaChain ⟨y.getD i 0, 0⟩ ((List.range m).map (fun j => (at' i j, x.getD j 0))))

/-- The body of TMV, TMVA and TMVT. acc: the destination registers give the values the chains begin with. -/
def tmvOp (i : Instr) (acc transposed : Bool) : M Unit := do
  let o ← ops
  let n := o.x8.toNat % 16 + 1
  let m := o.x8.toNat / 16 + 1
  let nx := if transposed then n else m
  let ny := if transposed then m else n
  let sh : Shape := { d := ny, a := nx, b := 1, c := 0 }
  insn i sh (do
    checkPorts sh
    awaitRegs ((o.a, nx) :: (if acc then [(o.d, ny)] else []))
    let xs ← readRun o.a nx
    let ys ← (if acc then readRun o.d ny else pure [])
    let v ← fetch sh .int
    let q ← bcsOwn
    let bad := List.replicate ny Val.bad
    if (v.b 0).poison then writeRun o.d bad
    else do
      let w := (v.b 0).bits.toNat % 2 ^ 32
      trapIf (bit w 1) 0x20 0x12
      let es := if bit w 0 then 2 else 4
      let off := w / 4 * 4
      trapIf (decide (16384 < off + n * m * es)) 0x20 0x11
      let we := (← get).wElems q.1 q.2 off es (n * m)
      if we.2 || xs.any (·.poison) || ys.any (·.poison) then writeRun o.d bad
      else do
        let out := tmvOut transposed n m we.1 (xs.map (fun x => x.bits.toNat % 2 ^ 32)) (ys.map (fun x => x.bits.toNat % 2 ^ 32))
        raise (out.foldl (fun f r => f ||| r.flags) 0)
        writeRun o.d (out.map (fun r => Val.of (BitVec.ofNat 64 r.bits))))

/-- PLDV (R135): consecutive words, each with its own poison. -/
def pldvOp : M Unit := do
  let o ← ops
  let n := o.x8.toNat % 16 + 1
  let sh : Shape := { d := n, a := 1, b := 0, c := 0 }
  insn .pldv sh (do
    let v ← fetch sh .int
    trapIf (v.a 0).poison 0x11 1
    let q ← bcsOwn
    let off := (v.a 0).bits.toNat % 2 ^ 32
    trapIf (off % 4 != 0) 0x20 0x12
    trapIf (decide (16384 < off + 4 * n)) 0x20 0x11
    let s ← get
    writeRun o.d ((List.range n).map (fun i =>
      let x := s.bcsRead q.1 q.2 (off + 4 * i) 4
      ⟨BitVec.ofNat 64 x.1, x.2⟩)))

/-! ### PSTB (R136) -/

/-- PSTB at issue. A port destination holds an execute thread until the status is pushed (R185). -/
def pstbOp : M Unit := do
  let o ← ops
  let hi := o.x8.toNat
  onceOp .pstb shDAB (fun v m => do
    trapIf ((v.a m).poison || (v.b m).poison) 0x11 1
    let u ← unit
    let s ← get
    let h := s.handleOf u hi
    xferHandle hi h
    (if sideOf u = .queue ∧ ¬globalSpace (Hnd.space h) then stopTrap (accTrap 0x24 2 hi 0) else pure ())
    let w := (v.a m).bits.toNat % 2 ^ 32
    let off : Nat := (v.b m).bits.toNat % (if sideOf u = .exec then 2 ^ 32 else 2 ^ 64)
    let dst := bits w 13 0
    let n := bits w 27 16 + 1
    (if rangeOk h off (4 * n) then pure () else stopTrap (accTrap 0x20 1 hi (Hnd.base h + off)))
    trapIf (bits w 15 14 != 0 || bits w 31 28 != 0 || dst % 4 != 0) 0x20 0x12
    trapIf (decide (16384 < dst + 4 * n)) 0x20 0x11
    let landing ← landPort
    let id ← freshId
    let op : PstbOp :=
      { owner := u, ctx := s.ctxOf u, gid := ← myGrid, core := (s.coreOf u).getD 0, handle := h, hidx := hi, off, dst, words := n,
        scope := o.c.immVal % 8, landing, done := 0, skipped := false, pline := none, fail := none }
    modify (fun s => { s with pstbs := s.pstbs.put id op })
    if (portOf o.d).isSome then stay .pstb .result else pure ())

/-- The cores of a PSTB's scope that belong to its context's partition (R136). -/
def State.pstbCores (s : State) (p : PstbOp) : List Nat :=
  match s.partOf p.ctx with
  | none => []
  | some (_, part) =>
    let mine := setBits (Desc.cores part.desc) 1024
    match p.scope, s.teamOf p.owner with
    | 2, some t =>
      let cs := (s.teams.filter (fun x => x.2.gid == t.gid && x.2.cohort == t.cohort)).flatMap (fun x => x.2.coreList)
      mine.filter (cs.contains ·)
    | 3, _ => mine.filter (fun c => c / 256 == p.core / 256)
    | _, _ => mine

/-- One word written on every core of the scope whose store the context may write. -/
def State.pstbWord (s : State) (p : PstbOp) (v : Nat) (poison : Bool) : State × Bool :=
  (s.pstbCores p).foldl (fun (a : State × Bool) c =>
    if a.1.bcsFree c p.ctx then
      ((a.1.writeStore (Loc.bcs c (p.dst + 4 * p.done)).key 4 v poison).modCore c (fun k => { k with bcsOwner := some p.ctx }), a.2)
    else (a.1, true)) (s, false)

/-- The end of a PSTB: its status word (R136). DESIGN CHOICE, entry 59: the code of a fault comes before 0x8B, and that before 0x11. -/
def State.pstbEnd (s : State) (id : Nat) (p : PstbOp) : State :=
  let q := match p.fail with
    | some f => f
    | none => if p.skipped then (0x8B, 0) else match p.pline with
      | some l => (0x11, l)
      | none => (0, 0)
  let s := { s with pstbs := s.pstbs.del id, reqs := s.reqs.filter (fun r => r.2.owner != Owner.eng id) }
  s.landWord p.landing (statusWord q.1 q.2 0) false

/-- The next words of a PSTB, at most n; it ends with its last. -/
def State.pstbWords (s : State) (id : Nat) : Nat → State
  | 0 => s
  | n + 1 =>
    match s.pstbs.find id with
    | none => s
    | some p =>
      if p.fail.isSome ∨ p.words ≤ p.done then s.pstbEnd id p
      else
        let line := p.done * 4 / 64
        match s.rowAccess id p.owner p.hidx p.handle (p.off + 4 * p.done) 4 false 0 [] with
        | .wait t => t
        | .fail _ code _ => s.pstbEnd id { p with fail := some (code, line) }
        | .ok v bad t =>
          let x := t.pstbWord p v (!bad.isEmpty)
          let p' := { p with done := p.done + 1, skipped := p.skipped || x.2,
                             pline := if !bad.isEmpty && p.pline.isNone then some line else p.pline }
          State.pstbWords { x.1 with pstbs := x.1.pstbs.put id p' } id n

/-- PSTB_COMPLETE (R136): up to n words of a PSTB, and its end. -/
def State.pstbComplete (s : State) (id n : Nat) : Option State :=
  match s.pstbs.find id with
  | none => none
  | some p => if s.running p.ctx then some (s.pstbWords id n) else none

/-! ### Meanings -/

/-- TMV (R134). -/
def execTmv (s : State) : Host.Outcome State Fault Refusal := meaning (tmvOp .tmv false false) s

/-- TMVA (R134). -/
def execTmva (s : State) : Host.Outcome State Fault Refusal := meaning (tmvOp .tmva true false) s

/-- TMVT (R134). -/
def execTmvt (s : State) : Host.Outcome State Fault Refusal := meaning (tmvOp .tmvt false true) s

/-- PLDV (R135). -/
def execPldv (s : State) : Host.Outcome State Fault Refusal := meaning pldvOp s

/-- PSTB (R136). -/
def execPstb (s : State) : Host.Outcome State Fault Refusal := meaning pstbOp s

/-- PSTB_COMPLETE (R136): PSTB n whole, or the next k words of it. -/
def execPstbComplete (s : State) : Host.Outcome State Fault Refusal :=
  event (fun s => match s.occ with
    | .num n => s.pstbComplete n 4097
    | .num2 n k => s.pstbComplete n k
    | _ => none) s

end Sys2Proof.Machine
end

