-- ==== Sys2Proof/Machine/Queue.lean ====
section
/-! DEFINITION. Queue engines: their registers, enable and ring (R321-R325), launch records and the checks of a launch
(R328-R334), and the queue-program instructions (R332-R337). -/

namespace Sys2Proof.Machine

/-! ### An engine's record -/

/-- An engine; one nothing has touched is as at power-on. -/
def State.engineRec (s : State) (n : Nat) : Engine := s.engines.get n {}

/-- An engine replaced. -/
def State.putEngine (s : State) (n : Nat) (e : Engine) : State := { s with engines := s.engines.put n e }

/-- What was to be written to an engine's registers lands nowhere. -/
def Landing.less (l : Landing) (n : Nat) : Landing :=
  match l with
  | .qW m _ => if m = n then .none else l
  | _ => l

/-- Every operation in flight loses an engine's registers as its destination. -/
def State.dropLandings (s : State) (n : Nat) : State :=
  { s with
    reqs := s.reqs.map (fun q => (q.1, { q.2 with landing := Landing.less q.2.landing n })),
    copies := s.copies.map (fun q => (q.1, { q.2 with landing := Landing.less q.2.landing n })),
    pubs := s.pubs.map (fun q => (q.1, { q.2 with landing := Landing.less q.2.landing n })),
    pstbs := s.pstbs.map (fun q => (q.1, { q.2 with landing := Landing.less q.2.landing n })),
    plans := s.plans.map (fun q => (q.1, { q.2 with landing := Landing.less q.2.landing n })) }

/-- An engine's completion records discarded: the grids it has launched that have completed (R323). -/
def State.forgetGrids (s : State) (n : Nat) : State :=
  { s with grids := s.grids.filter (fun g => !(g.2.engine == n && g.2.status.isSome)) }

/-! ### Tables that take work (R427) -/

/-- What a read of a table comes to. -/
inductive TableRead where
  | ok (v : Nat) (s : State)
  /-- Check 5 or 6 fails, or the bytes are poisoned. -/
  | bad
  | park (page cause size : Nat)

/-- Bytes of a table within one sector. -/
def State.tablePart (s : State) (ctx va n : Nat) : TableRead :=
  match translate (s.context ctx) va .rd with
  | .error _ => .bad
  | .ok (ia, r) =>
    match s.partOf ctx with
    | none => .bad
    | some (_, p) =>
      match s.memSide p (s.walk p ia) ia n 0 (Range.host r) (Range.peer r) false false none with
      | .fail _ => .bad
      | .park page cause sz => .park page cause (sizeCode sz)
      | .zeros => .ok 0 s
      | .go leaf phys page =>
        let x := s.readLocal ia n ⟨leaf, phys, page, p.sliceOf ia, 0⟩
        if x.1.2 then .bad else .ok x.1.1 x.2

/-- The parts of a table read in turn. -/
def State.tableParts (s : State) (ctx va : Nat) : List (Nat × Nat) → TableRead
  | [] => .ok 0 s
  | (o, n) :: rest =>
    match s.tablePart ctx (va + o) n with
    | .ok v t =>
      match t.tableParts ctx va rest with
      | .ok w u => .ok (v * 2 ^ (8 * o) + w) u
      | x => x
    | x => x

/-- n bytes of a table at a VA. -/
def State.tableRead (s : State) (ctx va n : Nat) : TableRead := s.tableParts ctx va (sectorParts va n)

/-- What reading and checking a whole table comes to: its entries, the index of the first that fails, or the page it waits
for with the entries read before. -/
inductive TableOut where
  | ok (es : List Nat) (s : State)
  | bad (i : Nat) (s : State)
  | park (es : List Nat) (page cause size : Nat) (s : State)

/-- n entries of a size from entry i of a table, each checked as it is read. -/
def State.readTable (s : State) (ctx va size : Nat) (chk : Nat → Bool) (i : Nat) : Nat → TableOut
  | 0 => .ok [] s
  | n + 1 =>
    match s.tableRead ctx (va + size * i) size with
    | .bad => .bad i s
    | .park page cause sz => .park [] page cause sz s
    | .ok v t =>
      if !chk v then .bad i t
      else match t.readTable ctx va size chk (i + 1) n with
        | .ok es u => .ok (v :: es) u
        | .park es page cause sz u => .park (v :: es) page cause sz u
        | x => x

/-- A table of n entries of which some have been read: each is read once (R153). -/
def State.restOfTable (s : State) (ctx va size : Nat) (chk : Nat → Bool) (had : List Nat) (n : Nat) : TableOut :=
  match s.readTable ctx va size chk had.length (n - had.length) with
  | .ok es t => .ok (had ++ es) t
  | .park es page cause sz t => .park (had ++ es) page cause sz t
  | x => x

/-- The bytes of a space within which a window lies (R143). -/
def spaceBytes (spad space : Nat) : Nat :=
  match space with
  | 1 | 2 => spad
  | 3 => accBytes
  | 6 => 16384
  | _ => 2 ^ 64

/-- The spaces a kind is accepted in (R140). -/
def kindSpaces (kind : Nat) : List Nat :=
  match kind with
  | 0 => [0, 1, 2, 3, 4, 5, 6]
  | 1 => [0, 4, 5]
  | 2 => [0, 1, 3, 4, 5]
  | 3 => [0, 5]
  | _ => [0, 4, 5]

/-- The kind-specific bits of a handle (R138, R139, R246). -/
def kindBits (h : Handle) : Bool :=
  match Hnd.kind h with
  | 0 | 1 => fld h 255 160 == 0
  | 2 => Hnd.rows h != 0 && Hnd.cols h != 0 && decide (Hnd.fmt h ≤ 0xB) && fld h 199 196 == 0 &&
      Hnd.stride h % 64 == 0 && fld h 255 240 == 0
  | 3 => fld h 255 224 == 0
  | _ => true

/-- Whether a handle table entry passes the checks of R141; spad is the length of a scratchpad window. -/
def handleOk (spad : Nat) (e : Nat) : Bool :=
  let h : Handle := BitVec.ofNat 256 e
  let sp := Hnd.space h
  sp == 7 ||
    (decide (Hnd.kind h ≤ 4) && Hnd.cache h != 3 && !h.getLsbD 135 && !h.getLsbD 143 && fld h 159 148 == 0 &&
      (Hnd.htag h == 0 || Hnd.kind h == 0) && (kindSpaces (Hnd.kind h)).contains sp &&
      (!Hnd.tagen h || sp == 0 || sp == 5) && (Hnd.order h == 0 || globalSpace sp) &&
      decide (Hnd.base h + Hnd.limit h ≤ spaceBytes spad sp) && kindBits h)

/-! ### Enable and disable (R322, R323) -/

/-- An engine refused an enable: it stays idle, code and detail say why, and hvec is signalled. -/
def State.refuseEngine (s : State) (n code detail : Nat) : State :=
  let e := s.engineRec n
  { s.putEngine n { e with en := false, state := 0, code, detail } with irqs := e.hvec :: s.irqs }

/-- The configuration checks of an enable (R323, R364, R390). -/
def State.engineConfigOk (s : State) (n : Nat) : Bool :=
  let e := s.engineRec n
  let c := s.context e.ctx
  s.mgmt.stage == 6 && decide (12 ≤ e.rlog ∧ e.rlog ≤ 24 ∧ e.hcnt ≤ 256) &&
    (s.partOfEngine n).elim false (fun p => p.2.ownsCtx e.ctx) && c.v && c.frlog != 0 && c.trlog != 0 && c.sasize != 0

/-- An engine that a fresh enable lets run (R323): everything of earlier work is cleared. -/
def Engine.started (e : Engine) (hs : List Handle) : Engine :=
  { e with en := true, state := 1, code := 0, detail := 0, rptr := 0, w := List.replicate 16 (0, false), wpend := 0,
           epoch := e.epoch + e.seq / 2 ^ 27 + 1, seq := 0, frames := [], prog := false, base := 0, fspace := 0, left := 0,
           inPkt := false, handles := hs, sysop := none, stopping := false, launch := none,
           ctl := { sbuf := e.ctl.sbuf, unack := e.ctl.unack, traps := e.ctl.traps, tinfo := e.ctl.tinfo } }

/-- An enable of an idle engine (R323). -/
def State.enableEngine (s : State) (n : Nat) : State :=
  if !s.engineConfigOk n then s.refuseEngine n 7 0
  else
    let e := s.engineRec n
    match s.readTable e.ctx e.htab 32 (handleOk (2 ^ 64)) 0 e.hcnt with
    | .bad i t => t.refuseEngine n 4 i
    | .park es page cause sz t => (t.noteFault e.ctx page cause sz false).refuseEngine n 4 es.length
    | .ok es t =>
      let t := ((t.forgetGrids n).dropLandings n).unqueue (.qe n)
      t.putEngine n ((t.engineRec n).started (es.map (BitVec.ofNat 256)))

/-- An engine becomes idle with en = 0 (R323): grids it launched run on, and a plan that waits for a slot is dropped. -/
def State.stopEngine (s : State) (n : Nat) : State :=
  let s := ((s.forgetGrids n).dropLandings n).unqueue (.qe n)
  s.putEngine n { s.engineRec n with en := false, state := 0, wpend := 0, sysop := none, stopping := false, launch := none }

/-- A write of doubleword 1 of an engine's block (R322, R323). Clearing en stops the engine at its next instruction boundary: at once,
but after a WRSYS in progress, whose system operation has begun. -/
def State.writeEngineCtl (s : State) (n : Nat) (v : W64) : State :=
  let e := s.engineRec n
  let en := v.getLsbD 5
  let e' := if e.en then e else
    { e with rlog := fld v 4 0, sup := v.getLsbD 6, ctx := fld v 15 8, hvec := fld v 26 16 }
  let s := s.putEngine n e'
  if en then
    if e.state = 3 ∧ e.en then s.putEngine n { e' with code := 0, state := 1 }
    else if e.en then s
    else s.enableEngine n
  else if e.en then
    if e.sysop.isSome then s.putEngine n { e with stopping := true } else s.stopEngine n
  else s

/-- A write of kick: bits 5 to 0 are ignored; an engine that sleeps wakes (R324), and one whose context does not run keeps it
(R391). -/
def State.kick (s : State) (n : Nat) (v : W32) : State :=
  let e := s.engineRec n
  let run := s.running e.ctx
  s.putEngine n { e with kick := v.toNat / 64 * 64, kickAt := s.now, kept := e.kept || (e.en && !run),
                         state := if e.en ∧ e.state = 2 ∧ run then 1 else e.state }

/-- A host write of a doubleword of an engine's block (R322). -/
def State.writeEngineReg (s : State) (n k : Nat) (v : W64) : State :=
  let e := s.engineRec n
  match k with
  | 0 => if e.en then s else s.putEngine n { e with rhost := v.getLsbD 0, rbase := v.toNat / 64 * 64 }
  | 1 => s.writeEngineCtl n v
  | 3 => s.kick n (v.setWidth 32)
  | 5 => if e.en then s else s.putEngine n { e with htab := v.toNat }
  | 6 => if e.en then s else s.putEngine n { e with hcnt := fld v 8 0 }
  | _ => s

/-- A doubleword of an engine's block as it reads (R322). -/
def State.readEngineReg (s : State) (n k : Nat) : W64 :=
  let e := s.engineRec n
  BitVec.ofNat 64 (match k with
    | 0 => (if e.rhost then 1 else 0) + e.rbase
    | 1 => e.rlog + (if e.en then 32 else 0) + (if e.sup then 64 else 0) + e.ctx * 2 ^ 8 + e.hvec * 2 ^ 16
    | 2 => e.rptr
    | 4 => e.state + e.code * 2 ^ 8 + e.detail * 2 ^ 16
    | 5 => e.htab
    | 6 => e.hcnt
    | _ => 0)

/-! ### The ring (R324, R325) -/

/-- What the read of a packet's header does to an engine. -/
def State.packetHeader (s : State) (n va hdr : Nat) : State :=
  let e := s.engineRec n
  if bit hdr 31 == bit e.rptr e.rlog then s
  else if bits hdr 30 4 ≠ 0 then s.haltEngine n 6
  else (s.putEngine n { e with inPkt := true, left := hdr % 16, ctl := { e.ctl with pc := (va + 4) % 2 ^ 64 } }).endPacket (.qe n)

/-- The header at an engine's read pointer, read as the ring reads it (R324, R325). -/
def State.ringHeader (s : State) (n : Nat) (e : Engine) : Except Stop (W32 × State) :=
  s.asUnit (.qe n) noOps (codeRead (if e.rhost then 4 else 0) ((e.rbase + e.rptr % 2 ^ e.rlog) % 2 ^ 64) .rd)

/-- Whether that read delivers a header now: it neither fails nor parks. -/
def State.headerSeen (s : State) (n : Nat) : Bool :=
  match s.ringHeader n (s.engineRec n) with
  | .ok _ => true
  | .error _ => false

/-- RING_PACKET (R324): an engine in ring mode between packets looks for its next one. -/
def State.ringPacket (s : State) (n : Nat) : Option State :=
  match s.engines.find n with
  | none => none
  | some e =>
    if !e.en || e.state != 1 || e.prog || e.inPkt || !s.running e.ctx then none
    else
      let room := (e.kick + 2 ^ 32 - e.rptr) % 2 ^ 32
      if room > 2 ^ e.rlog then some (s.haltEngine n 2)
      else if room = 0 then some (s.putEngine n { e with state := 2 })
      else
        let va := (e.rbase + e.rptr % 2 ^ e.rlog) % 2 ^ 64
        let u : Agent := .qe n
        match s.ringHeader n e with
        | .ok (hdr, t) => some ({ t with ir := s.ir, cur := s.cur }.packetHeader n va hdr.toNat)
        | .error (.trap t) => some ((s.modCtl u (fun c => { c with pc := va })).takeTrap u t 0)
        | .error (.park page cause sz wr) => some (s.noteOnce (2 ^ 64 + n) e.ctx page cause sz wr)
        | .error _ => none

/-- RING_IDLE_TIMEOUT (R324): an engine that finds no packet at its read pointer, because nothing is announced or the header there has
the other lap bit, sleeps once 1024 clocks have passed since the latest write of kick. -/
def State.ringIdle (s : State) (n : Nat) : Option State :=
  match s.engines.find n, s.ringPacket n with
  | some e, some t =>
    let f := t.engineRec n
    if f.state = 2 then some t
    else if e.kickAt + 1024 ≤ s.now ∧ f.state = 1 ∧ ¬f.inPkt ∧ f.rptr = e.rptr ∧ s.headerSeen n then
      some (t.putEngine n { f with state := 2 })
    else none
  | _, _ => none

/-! ### The checks of a launch (R330) -/

/-- Strips of a team on one core. -/
def LRec.coreStrips (r : BitVec 1024) : Nat := if LRec.pair r then (LRec.strips r + 1) / 2 else LRec.strips r

/-- The fields of a launch record in order of their bytes, each with whether it breaks R328 or R330. -/
def recordFaults (r : BitVec 1024) : List (Bool × Nat) :=
  [(LRec.kbase r % 64 != 0, 0), (LRec.eoff r % 4 != 0, 8), (LRec.htab r % 32 != 0, 16),
   (decide (256 < LRec.hcount r), 24), (fld r 207 201 != 0, 25), (LRec.pair r && LRec.cw r % 2 == 1, 26),
   (!LRec.pair r && decide (64 < LRec.strips r), 27), (LRec.group r == 3, 28), (decide (16 < LRec.peng r), 29),
   (fld r 255 240 != 0, 30), (LRec.regpool r == 0 || decide (2048 < LRec.regpool r), 36), (decide (1024 < LRec.qmem r), 37),
   (fld r 319 311 != 0, 38), (decide (3072 < LRec.spw r), 40), (fld r 335 332 != 0, 41),
   (if LRec.pers r then decide (LRec.beat r < 4096 ∨ 2 ^ 31 < LRec.beat r) else LRec.beat r != 0, 44),
   (LRec.portoff r % 64 != 0, 48), (LRec.torder r == 3, 56), (fld r 511 450 != 0, 56), (fld r 1023 992 != 0, 124)]

/-- The byte offset of the first field that fails. -/
def recordFault (r : BitVec 1024) : Option Nat := ((recordFaults r).find? (·.1)).map (·.2)

/-- The binding a port table entry declares (R329). -/
def portEntry (w : Nat) : Binding :=
  { kind := bits w 16 15, mode := bits w 18 17, width := bits w 20 19, depth := bits w 10 0, adv := bit w 13,
    eostrap := bit w 14, sx := bit w 11, gen := bit w 12 }

/-- Whether a port table entry is well formed (R329, R174-R177, R17). -/
def portEntryOk (access : Bool) (w : Nat) : Bool :=
  if bits w 10 0 = 0 then w == 0
  else bits w 31 21 == 0 && (portEntry w).ok && (!(portEntry w).needsAccess || access)

/-- Entries and pattern engines that the declared ports of one strip take. -/
def portCost (es : List Nat) : Nat × Nat :=
  es.foldl (fun t w =>
    if bits w 10 0 = 0 then t
    else
      let p := (portEntry w).port
      (t.1 + p.depth * p.perRow, t.2 + if p.engine.isSome then 1 else 0)) (0, 0)

/-- The totals of the declared ports on a core: the field they exceed (R330). -/
def portTotals (r : BitVec 1024) (es : List Nat) : Option Nat :=
  let c := portCost es
  let k := LRec.coreStrips r
  if LRec.peng r < c.2 * k then some 29
  else if LRec.qmem r < c.1 * k then some 37
  else none

/-- Whether a core is enabled for a partition, within the module's logical grid (R10, R361). -/
def Partition.coreOn (p : Partition) (c : Nat) : Bool :=
  bit (Desc.cores p.desc) c && decide (c < 1024 ∧ c / 16 % 16 < Config.gridRows)

/-- The cores of the rectangle w by h whose lowest corner is a core. -/
def rectCores (w h c : Nat) : List Nat := (List.range h).flatMap (fun y => (List.range w).map (fun x => c + 16 * y + x))

/-- Whether a rectangle of a partition's cores may hold a cohort of a record (R18, R339). -/
def Partition.rectOk (p : Partition) (r : BitVec 1024) (c : Nat) : Bool :=
  decide (c % 16 + LRec.cw r ≤ 16 ∧ c / 16 % 16 + LRec.ch r ≤ 16) && (!LRec.pair r || c % 2 == 0) &&
    (rectCores (LRec.cw r) (LRec.ch r) c).all p.coreOn

/-- The lowest corners of the rectangles that may hold a cohort. -/
def Partition.rects (p : Partition) (r : BitVec 1024) : List Nat := (List.range 1024).filter (p.rectOk r)

/-- How often a resource of a core divides by a team's share. -/
def shareOf (total each : Nat) : Nat := if each = 0 then total else total / each

/-- Teams of a record that one core can hold at once, with no other there (R338, R339). -/
def LRec.perCore (r : BitVec 1024) : Nat :=
  min (min (min 8 (64 / LRec.coreStrips r)) (min (shareOf 2048 (LRec.regpool r)) (shareOf 1024 (LRec.qmem r))))
    (min (if LRec.peng r = 0 then 8 else 16 / LRec.peng r) (if LRec.spw r = 0 then 8 else 3072 / LRec.spw r))

/-- Whether n cohorts fit into the rectangles given, each taken any number of times that the cores allow. -/
def packs (w h cap : Nat) : List Nat → Assoc Nat → Nat → Bool
  | [], _, n => n == 0
  | c :: cs, load, n =>
    if n = 0 then true
    else
      let cells := rectCores w h c
      let room := cells.foldl (fun m x => min m (cap - load.get x 0)) n
      (List.range (room + 1)).reverse.any (fun m =>
        packs w h cap cs (cells.foldl (fun l x => l.put x (l.get x 0 + m)) load) (n - m))

/-- Whether every team of a coresident grid could be resident at once (R330). -/
def Partition.placeable (p : Partition) (r : BitVec 1024) (n : Nat) : Bool :=
  let cap := LRec.perCore r
  let area := LRec.cw r * LRec.ch r
  decide (n * area ≤ 1024 * cap) && packs (LRec.cw r) (LRec.ch r) cap (p.rects r) [] n

/-- A grid's status word (R331). -/
def gridStatus (code detail : Nat) (flags : FlagSet) : W64 := BitVec.ofNat 64 (code + detail * 2 ^ 8 + flags.toNat * 2 ^ 16)

/-- What the checks of a launch end with: a park names what has been read so far. -/
inductive LaunchOut where
  | ok (handles : List Handle) (ports : List W32) (s : State)
  | fails (code detail : Nat) (s : State)
  | park (k : Launching) (page cause size : Nat)

/-- The port table of a record read and checked, as far as it has not been (R329, R330, R427). -/
def State.launchPorts (s : State) (ctx : Nat) (r : BitVec 1024) (had : List Nat) : TableOut :=
  if LRec.portoff r = 0 then .ok [] s
  else s.restOfTable ctx (LRec.kbase r + LRec.portoff r) 4 (portEntryOk (LRec.access r)) had 16

/-- The checks of a launch in the order of R330 and R333, by what it has read. -/
def State.launchChecks (s : State) (n ctx : Nat) (k : Launching) (count : Nat) : LaunchOut :=
  let r := k.record
  match recordFault r with
  | some d => .fails 0xA3 d s
  | none =>
    match s.launchPorts ctx r k.ports with
    | .bad i t => .fails 0xA3 (0x80 + i) t
    | .park ps page cause sz _ => .park { k with count := some count, ports := ps } page cause sz
    | .ok ps t =>
      match portTotals r ps, s.partOfEngine n with
      | some d, _ => .fails 0xA3 d t
      | none, none => .fails 0xA0 0 t
      | none, some (_, p) =>
        if p.rects r = [] then .fails 0xA0 0 t
        else if LRec.count r < count then .fails 0xA2 0 t
        else match t.restOfTable ctx (LRec.htab r) 32 (handleOk (64 * LRec.spw r)) k.handles (LRec.hcount r) with
          | .bad i u => .fails 0xA1 i u
          | .park hs page cause sz _ => .park { k with count := some count, ports := ps, handles := hs } page cause sz
          | .ok hs u =>
            if LRec.cores r && !p.placeable r count then .fails 0xA4 0 u
            else .ok (hs.map (BitVec.ofNat 256)) (ps.map (BitVec.ofNat 32)) u

/-! ### Launch (R333) -/

/-- The key of an engine's k-th launch: its grid id in the low 32 bits, and what keeps it apart from earlier ones above. -/
def Engine.gridKey (e : Engine) (n k : Nat) : Nat := 2 ^ 27 * n + k % 2 ^ 27 + 2 ^ 32 * (e.epoch + k / 2 ^ 27)

/-- The window of a launch or a control transfer of a queue program: plain or flat in space 0 or 4 (R332). -/
def qWant (hidx size : Nat) (align : Nat) (need : Need) : Want :=
  { hidx, spaces := [0, 4], kinds := kFlat, size, align, need }

/-- One read of a launch. -/
def launchRead (hidx size : Nat) (off : Val) : M (Nat × Nat) := do
  let a ← oneAccess (qWant hidx size size .rd) ⟨fun _ => off, fun _ => off, fun _ => off⟩ false
  let x ← doNowN ((← get).reqOf (← unit) a .load (← here) 255 .none)
  trapIf x.2 0x11 1
  pure (x.1, a.addr)

/-- An engine's incomplete grids. -/
def State.openGrids (s : State) (n : Nat) : Nat := (s.grids.filter (fun g => g.2.engine == n && g.2.status.isNone)).length

/-- The record of a launch and its IA, and the count of a LAUNCH. A poisoned offset is reported before any other check (R80). -/
def launchRecord (h : Nat) (indirect : Bool) (v : Opnds) : M Launching := do
  trapIf ((v.b 0).poison || (indirect && (v.c 0).poison)) 0x11 1
  trapIf ((v.b 0).bits.toNat % 128 != 0) 0x23 1
  let x ← launchRead h 128 (v.b 0)
  let r : BitVec 1024 := BitVec.ofNat 1024 x.1
  pure { record := r, lrec := x.2, count := if indirect then none else some (LRec.count r) }

/-- The count of a LAUNCHI. -/
def launchCount (h : Nat) (off : Val) : M Nat := do
  trapIf (off.bits.toNat % 4 != 0) 0x23 1
  pure (← launchRead h 4 off).1

/-- What a part that may park comes to: its value, or the page, cause and size on which it parked, with nothing done. -/
def orPark {α : Type} (m : M α) : M (Except (Nat × Nat × Nat) α) := fun s =>
  match m s with
  | .ok (a, t) => .ok (.ok a, t)
  | .error (.park page cause sz _) => .ok (.error (page, cause, sz), s)
  | .error e => .error e

/-- An engine waits, parked, at a LAUNCH or LAUNCHI whose count or table lies on a page in transit; what it has read, table entries
among it, is kept, so that each load is made once (R137, R153, R333, R427). -/
def waitTable (n page : Nat) : M Unit := do
  let a ← here
  let o ← ops
  let now := (← get).now
  modify (fun s => s.modEngine n (fun e =>
    { e with ctl := { e.ctl with pc := a, status := .waiting (.page page) now, len := len0Of o.form },
             left := if e.prog then e.left else e.left + o.form.bytes / 4 }))

/-- LAUNCH and LAUNCHI (R333, R356). -/
def launchOp (i : Instr) (indirect : Bool) : M Unit := do
  let o ← ops
  let sh : Shape := { a := 0, c := if indirect then 1 else 0 }
  insn i sh (do
    match ← unit with
    | .qe n =>
      let v ← fetch sh .offset
      let h := o.x8.toNat
      waitUnless (decide ((← get).openGrids n < 64)) .grids
      release
      let e ← engine
      let k ← (match e.launch with
        | some x => pure x
        | none => launchRecord h indirect v)
      let keep (t : State) (k : Launching) (page cause sz : Nat) : M Unit := do
        set ((t.modEngine n (fun e => { e with launch := some k })).noteFault e.ctx page cause sz false)
        waitTable n page
      match ← (match k.count with
        | some c => pure (.ok c)
        | none => orPark (launchCount h (v.c 0))) with
      | .error (page, cause, sz) => do keep (← get) k page cause sz
      | .ok count => do
        let key := e.gridKey n e.seq
        writeD 1 (fun _ => Val.of (BitVec.ofNat 64 (key % 2 ^ 32)))
        let t ← get
        modify (fun s => s.modEngine n (fun e => { e with seq := e.seq + 1, launch := none }))
        let grid (hs : List Handle) (ps : List W32) (st : Option W64) : Grid :=
          { ctx := e.ctx, engine := n, record := k.record, lrec := k.lrec, count, handles := hs, ports := ps, posted := t.now,
            status := st }
        match (← get).launchChecks n e.ctx k count with
        | .park k page cause sz => keep t k page cause sz
        | .fails code detail t => set { t with grids := t.grids.put key (grid [] [] (some (gridStatus code detail 0))) }
        | .ok hs ps t =>
          set { t with grids := t.grids.put key (grid hs ps (if count = 0 then some (gridStatus 0 0 0) else none)) }
    | _ => pure ())

/-! ### Semaphores, interrupts, transfers -/

/-- Shapes of the queue-program instructions. -/
def qAB : Shape := { d := 0, c := 0 }
def qB : Shape := { d := 0, a := 0, c := 0 }

/-- SEMW (R335). -/
def semwOp : M Unit :=
  insn .semw qAB (do
    let v ← fetch qAB .int
    let i := (v.a 0).bits.toNat % 4096
    let s ← get
    let x := (heldVal (v.b 0)).bits
    waitUnless (decide (x.toNat ≤ (s.sem (s.ctxOf (← unit)) i).toNat)) (.sem i x))

/-- SEMSET and SEMINC (R335). -/
def semPutOp (i : Instr) (f : W64 → W64 → W64) : M Unit :=
  insn i qAB (do
    let v ← fetch qAB .int
    trapIf (v.b 0).poison 0x11 0
    release
    let n := (v.a 0).bits.toNat % 4096
    let u ← unit
    modify (fun s => s.setSem (s.ctxOf u) n (f (s.sem (s.ctxOf u) n) (v.b 0).bits)))

/-- IRQ (R337). -/
def irqOp : M Unit :=
  insn .irq qB (do
    let v ← fetch qB .int
    release
    modify (fun s => { s with irqs := (v.b 0).bits.toNat % 2048 :: s.irqs }))

/-- Check 6 of a read that is not made (R150): its failure traps, and a page in transit parks the unit. -/
def pageCheck (r : Req) : M Unit := do
  let s ← get
  match s.partOf r.ctx with
  | none => stopTrap (prot 1)
  | some (_, p) =>
    match s.memSide p (s.walk p r.ia) r.ia r.size r.space r.host r.peer r.writes r.tagOp r.ptag with
    | .park page cause sz => throw (Stop.park page cause (sizeCode sz) r.writes)
    | .fail t => stopTrap { t with handle := BitVec.ofNat 8 r.handle, loc := BitVec.ofNat 64 r.loc }
    | _ => pure ()

/-- The location of JMPQ and CALLQ, checked as a 4-byte access in the order of R161, of the fetch that follows: it needs ex (R336). -/
def programAt : M (Nat × Nat) := do
  let o ← ops
  let v ← fetch qB .offset
  let h := o.x8.toNat
  match ← spots (qWant h 4 4 .rd) v [0] false false false with
  | (_, p) :: _ =>
    trapIf (p.loc % 4 != 0) 0x23 2
    orTrap p.bounded
    let s ← get
    let u ← unit
    let a ← orTrap (s.addrOf (s.ctxOf u) p .ex)
    pageCheck (s.reqOf u a .load (← here) 255 .none)
    pure (p.loc % 2 ^ 64, p.space)
  | [] => throw (Stop.fault .noUnit)

/-- Enters a queue program at a location (R336). -/
def enterProgram (loc space : Nat) : M Unit := do
  match ← unit with
  | .qe n => modify (fun s => s.modEngine n (fun e =>
      { e with prog := true, base := loc, fspace := space, ctl := { e.ctl with pc := loc } }))
  | _ => pure ()

/-- JMPQ (R336). -/
def jmpqOp : M Unit :=
  insn .jmpq qB (do
    let p ← programAt
    enterProgram p.1 p.2)

/-- The engine halts at the instruction, which has not issued (R336). -/
def haltHere (n code : Nat) : M Unit := do
  let a ← here
  let o ← ops
  modify (fun s => (s.modEngine n (fun e =>
    { e with ctl := { e.ctl with pc := a }, left := if e.prog then e.left else e.left + o.form.bytes / 4 })).haltEngine n code)

/-- CALLQ (R336). -/
def callqOp : M Unit :=
  insn .callq qB (do
    let p ← programAt
    let e ← engine
    match ← unit with
    | .qe n =>
      if 8 ≤ e.frames.length then haltHere n 5
      else
        modify (fun s => s.modEngine n (fun e => { e with frames := (e.prog, e.fspace, e.base, e.ctl.pc) :: e.frames }))
        enterProgram p.1 p.2
    | _ => pure ())

/-- RETQ (R336). -/
def retqOp : M Unit :=
  insn .retq noShape (do
    let e ← engine
    match ← unit with
    | .qe n =>
      match e.frames with
      | [] => haltHere n 5
      | (prog, fspace, base, pc) :: rest =>
        modify (fun s => s.modEngine n (fun e => { e with prog, fspace, base, frames := rest, ctl := { e.ctl with pc } }))
    | _ => pure ())

/-- The grid that a grid id names to an engine's context, when its engine still knows it (R334): its key. -/
def State.gridNamed (s : State) (ctx g : Nat) : Option Nat :=
  let n := g / 2 ^ 27
  let e := s.engineRec n
  if !e.en || e.ctx != ctx then none
  else
    let back := (e.seq + 2 ^ 27 - 1 - g % 2 ^ 27) % 2 ^ 27
    if 255 < back ∨ e.seq ≤ back then none else some (e.gridKey n (e.seq - 1 - back))

/-- WAITG (R334). -/
def waitgOp : M Unit := do
  let sh : Shape := { b := 0, c := 0 }
  insn .waitg sh (do
    let v ← fetch sh .int
    let s ← get
    let u ← unit
    if (v.a 0).poison then writeD 1 (fun _ => Val.bad)
    else
      match (s.gridNamed (s.ctxOf u) ((v.a 0).bits.toNat % 2 ^ 32)).bind (fun k => s.grids.find k) with
      | none => writeD 1 (fun _ => Val.of (gridStatus 0xA5 0 0))
      | some g =>
        match g.status with
        | none => wait .grids
        | some w => writeD 1 (fun _ => Val.of w))

/-- FENCEQ (R337): a full FENCE of every kind and class. -/
def fenceqOp : M Unit :=
  insn .fenceq noShape (do
    waitUnless ((← get).fenced (← unit) 0x7F 0) (.counters 0x7F true)
    takeDeferred (fun _ => true))

/-- KICKQ (R337). -/
def kickqOp : M Unit :=
  insn .kickq qAB (do
    let v ← fetch qAB .int
    trapIf (v.b 0).poison 0x11 0
    release
    let u ← unit
    let n := (v.a 0).bits.toNat % 32
    modify (fun s =>
      let e := s.engineRec n
      if e.en && e.ctx == s.ctxOf u then s.kick n ((v.b 0).bits.setWidth 32) else s))

/-! ### Meanings -/

/-- LAUNCH (R333). -/
def execLaunch (s : State) : Host.Outcome State Fault Refusal := meaning (launchOp .launch false) s

/-- LAUNCHI (R333). -/
def execLaunchi (s : State) : Host.Outcome State Fault Refusal := meaning (launchOp .launchi true) s

/-- SEMW (R335). -/
def execSemw (s : State) : Host.Outcome State Fault Refusal := meaning semwOp s

/-- SEMSET (R335). -/
def execSemset (s : State) : Host.Outcome State Fault Refusal := meaning (semPutOp .semset (fun _ v => v)) s

/-- SEMINC (R335). -/
def execSeminc (s : State) : Host.Outcome State Fault Refusal := meaning (semPutOp .seminc (fun x v => x + v)) s

/-- IRQ (R337). -/
def execIrq (s : State) : Host.Outcome State Fault Refusal := meaning irqOp s

/-- JMPQ (R336). -/
def execJmpq (s : State) : Host.Outcome State Fault Refusal := meaning jmpqOp s

/-- CALLQ (R336). -/
def execCallq (s : State) : Host.Outcome State Fault Refusal := meaning callqOp s

/-- RETQ (R336). -/
def execRetq (s : State) : Host.Outcome State Fault Refusal := meaning retqOp s

/-- WAITG (R334). -/
def execWaitg (s : State) : Host.Outcome State Fault Refusal := meaning waitgOp s

/-- FENCEQ (R337). -/
def execFenceq (s : State) : Host.Outcome State Fault Refusal := meaning fenceqOp s

/-- HALTQ (R337). -/
def execHaltq (s : State) : Host.Outcome State Fault Refusal := meaning (exitOp .haltq) s

/-- KICKQ (R337). -/
def execKickq (s : State) : Host.Outcome State Fault Refusal := meaning kickqOp s

/-- KICK (R322): engine and pointer. In recovery mode there is no doorbell and no queue window (R415). -/
def execKick (s : State) : Host.Outcome State Fault Refusal :=
  event (fun s => match s.occ with
    | .write n v => if n < 32 ∧ ¬s.mgmt.recov then some (s.kick n (v.setWidth 32)) else none
    | _ => none) s

/-- ENGINE_ENABLE (R323): doubleword 1 of an engine written with en set. -/
def execEngineEnable (s : State) : Host.Outcome State Fault Refusal :=
  event (fun s => match s.occ with
    | .write n v => if n < 32 ∧ v.getLsbD 5 ∧ ¬s.mgmt.recov then some (s.writeEngineCtl n v) else none
    | _ => none) s

/-- ENGINE_DISABLE (R323): doubleword 1 of an engine written with en clear. -/
def execEngineDisable (s : State) : Host.Outcome State Fault Refusal :=
  event (fun s => match s.occ with
    | .write n v => if n < 32 ∧ ¬v.getLsbD 5 ∧ ¬s.mgmt.recov then some (s.writeEngineCtl n v) else none
    | _ => none) s

/-- RING_PACKET (R324): an engine. -/
def execRingPacket (s : State) : Host.Outcome State Fault Refusal := event1 State.ringPacket s

/-- RING_IDLE_TIMEOUT (R324): an engine. -/
def execRingIdleTimeout (s : State) : Host.Outcome State Fault Refusal := event1 State.ringIdle s

end Sys2Proof.Machine
end

