-- ==== Sys2Proof/Machine/Place.lean ====
section
/-! DEFINITION. Placement: bind records (R338), firmware's proposals (R339), dispatch and its delays (R340, R341), the start
and the end of teams (R342, R343), and the completion of grids (R331). -/

namespace Sys2Proof.Machine

/-! ### Bind records (R338) -/

/-- The index of a bind record. -/
def slotIdx (core slot : Nat) : Nat := 8 * core + slot

/-- The bind record of a team of a grid at a placement. -/
def bindRecord (gid : Nat) (g : Grid) (q : Placement) (state delay : Nat) : BitVec 512 :=
  let r := g.record
  BitVec.ofNat 512 (state + g.ctx % 256 * 2 ^ 8 + gid % 2 ^ 32 * 2 ^ 32 + q.cohort % 2 ^ 32 * 2 ^ 64 + q.tix % 2 ^ 16 * 2 ^ 96 +
    (if LRec.pair r then 2 ^ 112 else 0) + LRec.regpool r * 2 ^ 128 + LRec.qmem r * 2 ^ 144 + LRec.peng r * 2 ^ 155 +
    q.spbase % 2 ^ 12 * 2 ^ 160 + LRec.spw r * 2 ^ 172 + delay % 2 ^ 32 * 2 ^ 192 + g.lrec % 2 ^ 64 * 2 ^ 256)

/-- A bind record in another state. -/
def slotState (v : BitVec 512) (n : Nat) : BitVec 512 := BitVec.ofNat 512 (v.toNat / 256 * 256 + n)

/-- Some bind records in another state. -/
def State.setSlots (s : State) (l : List Nat) (n : Nat) : State :=
  { s with slots := l.foldl (fun m i => m.alter i (fun v => slotState v n)) s.slots }

/-- Some bind records free again. -/
def State.freeSlots (s : State) (l : List Nat) : State := { s with slots := l.foldl (fun m i => m.del i) s.slots }

/-- The bind records of a placement, and of a team. -/
def placeSlots (pair : Bool) (q : Placement) : List Nat := (placeCores pair q).map (fun c => slotIdx c q.slot)
def Team.slotList (t : Team) : List Nat := t.coreList.map (fun c => slotIdx c t.slot)

/-! ### Proposals (R339) -/

/-- Teams along one row of a cohort. -/
def LRec.perRow (r : BitVec 1024) : Nat := if LRec.pair r then LRec.cw r / 2 else LRec.cw r

/-- Where team tix of a cohort stands from the cohort's lowest corner (R302, R18). -/
def LRec.offset (r : BitVec 1024) (tix : Nat) : Nat :=
  tix % LRec.perRow r * (if LRec.pair r then 2 else 1) + 16 * (tix / LRec.perRow r)

/-- Whether the placements of one cohort are a rectangle of a partition's cores. -/
def Partition.cohortOk (p : Partition) (r : BitVec 1024) (l : List Placement) : Bool :=
  match l with
  | [] => true
  | q :: _ =>
    decide (LRec.offset r q.tix ≤ q.core) &&
      (let o := q.core - LRec.offset r q.tix
       p.rectOk r o && l.all (fun x => x.core == o + LRec.offset r x.tix && decide (x.slot < 8)))

/-- A grid's placements of one cohort. -/
def ofCohort (l : List Placement) (c : Nat) : List Placement := l.filter (fun q => q.cohort == c)

/-- Whether every earlier grid that an engine launched has been admitted whole (R339). -/
def State.earlierAdmitted (s : State) (gid : Nat) (g : Grid) : Bool :=
  s.grids.all (fun x => !(x.2.engine == g.engine && decide (x.1 < gid)) || x.2.status.isSome || x.2.admitted == x.2.count)

/-- The cohorts that a proposal for a grid must cover now. -/
def State.nextCohorts (s : State) (gid : Nat) (g : Grid) (restore : Bool) (l : List Placement) : List Nat :=
  if restore then
    (if LRec.cores g.record then (s.toRestore g gid).map (·.2.cohort) else (l.map (·.cohort)).take 1)
  else if LRec.cores g.record then List.range g.count else [g.admitted]

/-- Whether placements name exactly the teams of a proposal. -/
def State.namesTeams (s : State) (gid : Nat) (g : Grid) (restore : Bool) (l : List Placement) : Bool :=
  let cs := s.nextCohorts gid g restore l
  let want : List (Nat × Nat) :=
    if restore then ((s.toRestore g gid).filter (fun t => cs.contains t.2.cohort)).map (fun t => (t.2.cohort, t.2.tix))
    else cs.flatMap (fun c => (List.range (LRec.perCohort g.record)).map (fun t => (c, t)))
  let got := l.map (fun q => (q.cohort, q.tix))
  want != [] && want.all got.contains && got.all want.contains && got.length == want.length

/-- Whether nothing of a proposal's last round is outstanding. -/
def Proposal.settled (p : Proposal) : Bool := p.out.isEmpty && p.granted.isEmpty

/-- Whether a list has no repeats. -/
def distinct : List Nat → Bool
  | [] => true
  | x :: l => !l.contains x && distinct l

/-- Whether firmware may propose placements for a grid (R339, R342, R404). -/
def State.mayPropose (s : State) (gid : Nat) (g : Grid) (restore : Bool) (l : List Placement) : Bool :=
  match s.partOf g.ctx with
  | none => false
  | some (_, p) =>
    let c := s.context g.ctx
    g.status.isNone && (if restore then c.cstate == 4 else c.cstate == 1 && decide (g.admitted < g.count) && s.earlierAdmitted gid g) &&
      s.namesTeams gid g restore l && (l.map (·.cohort)).all (fun c => p.cohortOk g.record (ofCohort l c)) &&
      (let idx := l.flatMap (placeSlots (LRec.pair g.record))
       distinct idx && idx.all (fun i => (s.slots.find i).isNone))

/-- The bind records of placements written in state 1. -/
def State.writeProposed (s : State) (gid : Nat) (g : Grid) (l : List Placement) : State :=
  { s with slots := l.foldl (fun m q =>
      (placeSlots (LRec.pair g.record) q).foldl (fun m i => m.put i (bindRecord gid g q 1 0)) m) s.slots }

/-- The proposal that stands for a grid. -/
def State.proposalOf (s : State) (gid : Nat) : Option (Nat × Proposal) := s.props.find? (fun p => p.2.gid == gid)

/-- FIRMWARE_PROPOSAL (R339): a new proposal, or one that dispatch returned placed again (R340). -/
def State.propose (s : State) (gid : Nat) (l : List Placement) : Option State :=
  match s.grids.find gid with
  | none => none
  | some g =>
    let restore := (s.context g.ctx).cstate == 4
    match s.proposalOf gid with
    | none =>
      if s.mayPropose gid g restore l then
        let s := s.writeProposed gid g l
        some { s with props := s.props.put s.fresh { gid, place := l, restore }, fresh := s.fresh + 1 }
      else none
    | some (n, p) =>
      if p.state != 0 || !p.settled then none
      else
        let t := s.freeSlots (p.place.flatMap (placeSlots (LRec.pair g.record)))
        if t.mayPropose gid g p.restore l then
          let t := t.writeProposed gid g l
          some { t with props := t.props.put n { p with place := l, sincePlaced := 0 } }
        else none

/-! ### Dispatch (R340) -/

/-- The cores of a proposal. -/
def State.propCores (s : State) (p : Proposal) : NatSet :=
  (p.place.flatMap (placeCores (LRec.pair (s.propRecord p)))).foldl NatSet.add []

/-- What is set aside on a core: the launch record and window base of every team there and of every grant there. -/
def State.heldOn (s : State) (core : Nat) : List (BitVec 1024 × Nat) :=
  ((s.teams.filter (fun t => t.2.placed && t.2.coreList.contains core)).map (fun t => (s.recordOf t.2, t.2.spbase))) ++
    (s.props.flatMap (fun p =>
      if p.2.granted.has core then (s.placesOn p.2 core).map (fun q => (s.propRecord p.2, q.spbase)) else []))

/-- Whether no window meets a later one, and each lies in the scratchpad. -/
def windowsOk : List (BitVec 1024 × Nat) → Bool
  | [] => true
  | (r, b) :: l =>
    decide (b + LRec.spw r ≤ 3072) &&
      l.all (fun x => decide (b + LRec.spw r ≤ x.2 ∨ x.2 + LRec.spw x.1 ≤ b)) && windowsOk l

/-- Whether a core can hold what is asked of it together (R340). -/
def coreHolds (l : List (BitVec 1024 × Nat)) : Bool :=
  let sum (f : BitVec 1024 → Nat) : Nat := l.foldl (fun n x => n + f x.1) 0
  decide (sum LRec.coreStrips ≤ 64 ∧ sum LRec.regpool ≤ 2048 ∧ sum LRec.qmem ≤ 1024 ∧ sum LRec.peng ≤ 16) && windowsOk l

/-- Whether the BCS of a core can take the images of the saved teams placed there (R340, R132). -/
def State.bcsAllows (s : State) (p : Proposal) (core : Nat) : Bool :=
  !p.restore ||
    match s.grids.find p.gid with
    | none => true
    | some g =>
      (s.placesOn p core).all (fun q =>
        (s.toRestore g p.gid).all (fun t =>
          !(t.2.cohort == q.cohort && t.2.tix == q.tix) ||
            !s.bcsImage t.1 (core - q.core) || s.bcsFree core g.ctx))

/-- Grids that hold one of the Sieve's sequences, or are about to (R346). -/
def State.sequences (s : State) (n : Nat) : Nat :=
  (s.grids.filter (fun g => g.2.status.isNone && g.2.sieve.isSome)).length +
    (s.props.filter (fun p => p.1 != n && p.2.state != 0 && !p.2.restore && (s.grids.find p.2.gid).elim false (fun g =>
      g.sieve.isNone && LRec.tx g.record * LRec.ty g.record != 0))).length

/-- RESERVE sent to every core of a proposal. -/
def State.startRound (s : State) (n : Nat) (p : Proposal) : State :=
  { s with props := s.props.put n { p with state := 1, out := s.propCores p, granted := [], refused := [], answered := [] } }

/-- DISPATCH_RESERVE (R340): dispatch takes a proposal; one that needs a Sieve sequence waits for it (R346). -/
def State.dispatch (s : State) (n : Nat) : Option State :=
  match s.props.find n with
  | none => none
  | some p =>
    let need := !p.restore && (s.grids.find p.gid).elim false (fun g =>
      g.sieve.isNone && LRec.tx g.record * LRec.ty g.record != 0)
    if p.state = 0 ∧ p.settled ∧ (¬need ∨ s.sequences n < 64) then some (s.startRound n p) else none

/-- RESERVE at a core (R340): it grants and sets the resources aside, or refuses. -/
def State.reserveCore (s : State) (n core : Nat) : Option State :=
  match s.props.find n with
  | none => none
  | some p =>
    if !p.out.has core then none
    else
      let qs := s.placesOn p core
      let r := s.propRecord p
      let p' := { p with out := p.out.rem core }
      if coreHolds (qs.map (fun q => (r, q.spbase)) ++ s.heldOn core) && s.bcsAllows p core then
        some ({ s with props := s.props.put n { p' with granted := p'.granted.add core } }.setSlots
          (qs.map (fun (q : Placement) => slotIdx core q.slot)) 2)
      else some { s with props := s.props.put n { p' with refused := p'.refused.add core } }

/-- The delay after the k-th refusal (R341). -/
def State.backoff (s : State) (k : Nat) : Nat :=
  let b := min (64 * 2 ^ (k - 1)) 8192
  b + (s.now + s.dskew) % b

/-- A refusal counted for every cohort of a proposal (R341). -/
def State.countRefusal (s : State) (p : Proposal) : State :=
  { s with grids := s.grids.alter p.gid (fun g =>
      { g with refused := (p.place.map (·.cohort)).eraseDups.foldl (fun m c => m.put c (m.get c 0 + 1)) g.refused }) }

/-- Refusals of a proposal's cohorts since its grid was posted, in whatever proposals they stood (R341): the most any of them has had. -/
def State.refusalsOf (s : State) (p : Proposal) : Nat :=
  (s.grids.find p.gid).elim 0 (fun g => p.place.foldl (fun n q => max n (g.refused.get q.cohort 0)) 0)

/-- RESERVE_ANSWER (R340): the dispatcher hears a core's answer; the first refusal of a round ends it. -/
def State.reserveAnswer (s : State) (n core : Nat) : Option State :=
  match s.props.find n with
  | none => none
  | some p =>
    if p.state ≠ 1 ∨ p.answered.has core ∨ ¬(p.granted.has core ∨ p.refused.has core) then none
    else
      let p := { p with answered := p.answered.add core }
      if p.granted.has core then some { s with props := s.props.put n p }
      else
        let s := s.countRefusal p
        let k := s.refusalsOf p
        let back := p.sincePlaced + 1 = 4
        let p := { p with sincePlaced := if back then 0 else p.sincePlaced + 1, state := if back then 0 else 2,
                          deadline := s.now + s.backoff k }
        some { s with props := s.props.put n p }

/-- RELEASE at a core (R340): a grant of a round that has ended is freed. -/
def State.releaseCore (s : State) (n core : Nat) : Option State :=
  match s.props.find n with
  | none => none
  | some p =>
    if (p.state = 0 ∨ p.state = 2) ∧ p.granted.has core then
      some ({ s with props := s.props.put n { p with granted := p.granted.rem core } }.setSlots
        ((s.placesOn p core).map (fun (q : Placement) => slotIdx core q.slot)) 1)
    else none

/-- BACKOFF_EXPIRY (R340): the delay is over and RESERVE goes out again. -/
def State.backoffEnd (s : State) (n : Nat) : Option State :=
  match s.props.find n with
  | none => none
  | some p => if p.state = 2 ∧ p.settled ∧ p.deadline ≤ s.now then some (s.startRound n p) else none

/-! ### The firmware's own choice (R339) -/

/-- The corners of rectangles that together take n cohorts on empty cores, when there are such. -/
def packing (w h cap : Nat) : List Nat → Assoc Nat → Nat → Option (List Nat)
  | [], _, n => if n = 0 then some [] else none
  | c :: cs, load, n =>
    if n = 0 then some []
    else
      let cells := rectCores w h c
      let room := cells.foldl (fun m x => min m (cap - load.get x 0)) n
      (List.range (room + 1)).reverse.findSome? (fun m =>
        (packing w h cap cs (cells.foldl (fun l x => l.put x (l.get x 0 + m)) load) (n - m)).map (List.replicate m c ++ ·))

/-- A place for one team on a core beside what stands there and what has been chosen: the lowest free slot, and the first window
base, of 0 and the ends of the windows there, at which each core holds everything. -/
def State.teamPlace (s : State) (r : BitVec 1024) (chosen : List Placement) (cohort tix core : Nat) : Option Placement :=
  let pair := LRec.pair r
  let cs := if pair then [core, core + 1] else [core]
  let held (c : Nat) : List (BitVec 1024 × Nat) :=
    ((chosen.filter (fun q => (placeCores pair q).contains c)).map (fun q => (r, q.spbase))) ++ s.heldOn c
  let taken := chosen.flatMap (placeSlots pair)
  let bases := 0 :: cs.flatMap (fun c => (held c).map (fun x => x.2 + LRec.spw x.1))
  match (List.range 8).find? (fun k => cs.all (fun c => (s.slots.find (slotIdx c k)).isNone && !taken.contains (slotIdx c k))),
      bases.find? (fun b => cs.all (fun c => coreHolds ((r, b) :: held c))) with
  | some slot, some spbase => some { cohort, tix, core, slot, spbase }
  | _, _ => none

/-- Places for the teams named of a cohort in the rectangle at a corner, after what has been chosen. -/
def State.cohortPlace (s : State) (r : BitVec 1024) (corner : Nat) (chosen : List Placement) (teams : List (Nat × Nat)) :
    Option (List Placement) :=
  teams.foldlM (fun l q => (s.teamPlace r l q.1 q.2 (corner + LRec.offset r q.2)).map (fun x => l ++ [x])) chosen

/-- Places for whole cohorts, each in the first of its corners that takes it. -/
def State.cohortsPlace (s : State) (r : BitVec 1024) (ok : List Placement → Bool) :
    List (List Nat × List (Nat × Nat)) → List Placement → Option (List Placement)
  | [], chosen => some chosen
  | (corners, teams) :: rest, chosen =>
    match corners.findSome? (fun c => (s.cohortPlace r c chosen teams).bind (fun l => if ok l then some l else none)) with
    | some l => s.cohortsPlace r ok rest l
    | none => none

/-- Clocks by which a grid may be younger than one that waits and still be proposed before it. DESIGN CHOICE, entry 3. -/
def patience : Nat := 2 ^ 16

/-- Whether a grid waits for room alone: its next cohort, or in a context that restores its next saved one, may be proposed as soon as it
fits (R339, R404). -/
def State.awaitsRoom (s : State) (gid : Nat) (g : Grid) : Bool :=
  let st := (s.context g.ctx).cstate
  g.status.isNone && ((st == 1 && decide (g.admitted < g.count) && s.earlierAdmitted gid g) || (st == 4 && s.toRestore g gid != []))

/-- What firmware proposes for a grid where nothing else is asked of it: the cohorts that come next, in their first rectangles with
room; for a coresident grid that finds none so, an arrangement for empty cores. DESIGN CHOICE, entry 3: R339 leaves the policy to
firmware. -/
def State.firmwareChoice (s : State) (gid : Nat) (g : Grid) : Option (List Placement) :=
  match s.partOf g.ctx with
  | none => none
  | some (_, p) =>
    let r := g.record
    let c := s.context g.ctx
    let restore := c.cstate == 4
    if g.status.isSome || !(restore || s.awaitsRoom gid g) then none
    else
      let saved := s.toRestore g gid
      let cohorts :=
        if restore then
          let l := (saved.map (fun t => t.2.cohort)).foldl NatSet.add []
          if LRec.cores r then l else l.take 1
        else if LRec.cores r then List.range g.count else [g.admitted]
      let teams (k : Nat) : List (Nat × Nat) :=
        if restore then (saved.filter (fun t => t.2.cohort == k)).map (fun t => (k, t.2.tix))
        else (List.range (LRec.perCohort r)).map (fun t => (k, t))
      let ok (l : List Placement) : Bool := !restore || (let q : Proposal := { gid, place := l, restore }
        (s.propCores q).all (s.bcsAllows q))
      if cohorts.isEmpty then none
      else
        match s.cohortsPlace r ok (cohorts.map (fun k => (p.rects r, teams k))) [] with
        | some l => some l
        | none =>
          if LRec.cores r then
            (packing (LRec.cw r) (LRec.ch r) (LRec.perCore r) (p.rects r) [] cohorts.length).bind (fun cs =>
              s.cohortsPlace r ok ((cohorts.zip cs).map (fun k => ([k.2], teams k.1))) [])
          else none

/-- Whether some saved teams of a context that restores stand on cores again: what they hold is free only after the rest are there too
(R404). -/
def State.halfRestored (s : State) (c : Nat) : Bool :=
  (s.context c).cstate == 4 && s.teams.any (fun t => t.2.ctx == c && t.2.placed && t.2.home.isSome)

/-- Whether a grid must let another go first: of the grids of its partition, one that waits was posted long before it. So only so many
overtake a grid that waits, and it is admitted once resident teams have ended (R339). A context whose restore has begun lets none go first,
and no other restore begins before it is over. DESIGN CHOICE, entry 3. -/
def State.yieldsPlace (s : State) (g : Grid) : Bool :=
  !s.halfRestored g.ctx && s.grids.any (fun x => (s.partOf x.2.ctx).map (·.1) == (s.partOf g.ctx).map (·.1) &&
    ((s.awaitsRoom x.1 x.2 && decide (x.2.posted + patience ≤ g.posted)) || ((s.context g.ctx).cstate == 4 && s.halfRestored x.2.ctx)))

/-- The proposal that firmware makes next, when it makes one. -/
def State.firmwareNext (s : State) : Option (Nat × List Placement) :=
  s.grids.findSome? (fun g =>
    if (s.proposalOf g.1).isSome || s.yieldsPlace g.2 then none else (s.firmwareChoice g.1 g.2).map (fun l => (g.1, l)))

/-! ### Commit and start (R340, R343) -/

/-- A team as it is admitted. -/
def newTeam (gid : Nat) (g : Grid) (q : Placement) : Team :=
  let r := g.record
  let n := if LRec.pair r then 2 else 1
  { gid, ctx := g.ctx, cohort := q.cohort, tix := q.tix, team := q.cohort * LRec.perCohort r + q.tix, core := q.core,
    pair := LRec.pair r, placed := true, started := false, slot := q.slot, spbase := q.spbase, strips := LRec.strips r,
    qmem := List.replicate n (LRec.qmem r), peng := List.replicate n (LRec.peng r) }

/-- Placements in the order of cohort and place in it. -/
def inOrderOf (g : Grid) (l : List Placement) : List Placement :=
  ((l.map (·.cohort)).foldl NatSet.add []).flatMap (fun c =>
    (List.range (LRec.perCohort g.record)).flatMap (fun t => l.filter (fun q => q.cohort == c && q.tix == t)))

/-- The clocks from now to the earliest start of a team, i teams of its grid being committed before it with it (R343). -/
def State.startDelay (s : State) (g : Grid) (i : Nat) : Nat :=
  let first := match g.lastStart with
    | some t => max s.now (t + LRec.stagger g.record)
    | none => s.now
  first - s.now + i * LRec.stagger g.record

/-- The caches of some cores invalidated: their instruction words (R33), and their L1, so that what the LAUNCH of the grid that comes there
covers stands before its loads (R356, R360). -/
def State.freshCores (s : State) (l : List Nat) : State :=
  l.foldl (fun s c => s.modCore c (fun x => { x with icache := [], l1 := [] })) s

/-- What is left of a range beside another. -/
def cutRange (lo hi : Nat) (w : Nat × Nat × Nat) : List (Nat × Nat × Nat) :=
  (if w.1 < lo then [(w.1, min w.2.1 lo, w.2.2)] else []) ++ (if hi < w.2.1 then [(max w.1 hi, w.2.1, w.2.2)] else [])

/-- A range of a core's scratchpad becomes the window of a team of a context: bytes of it that a team of another context held last are
cleared (R369). DESIGN CHOICE, entry 57: they read as bytes that nothing has written. -/
def State.freshWindow (s : State) (ctx core lo hi : Nat) : State :=
  let others := (s.core core).windows.filter (fun w => w.2.2 != ctx && decide (w.1 < hi ∧ lo < w.2.1))
  let s := others.foldl (fun s w => s.dropBytes (Loc.spad core (max lo w.1)).key (min hi w.2.1 - max lo w.1)) s
  s.modCore core (fun k => { k with windows := (lo, hi, ctx) :: k.windows.flatMap (cutRange lo hi) })

/-- The windows of placements. -/
def State.freshWindows (s : State) (g : Grid) (l : List Placement) : State :=
  l.foldl (fun s q => (placeCores (LRec.pair g.record) q).foldl (fun s c =>
    s.freshWindow g.ctx c (64 * q.spbase) (64 * (q.spbase + LRec.spw g.record))) s) s

/-- The teams of a committed proposal come into being (R340), each with its start delay in its bind record. -/
def State.admitTeams (s : State) (gid : Nat) (g : Grid) (l : List Placement) : State :=
  let qs := inOrderOf g l
  let s := (List.range qs.length).foldl (fun s i =>
    match qs[i]? with
    | none => s
    | some q =>
      let d := s.startDelay g i
      { s with teams := s.teams.put s.fresh (newTeam gid g q), fresh := s.fresh + 1,
               slots := (placeSlots (LRec.pair g.record) q).foldl (fun m j => m.put j (bindRecord gid g q 3 d)) s.slots }) s
  let n := ((l.map (·.cohort)).foldl NatSet.add []).length
  let seq := if LRec.tx g.record * LRec.ty g.record ≠ 0 ∧ g.sieve.isNone then some 0 else g.sieve
  { s with grids := s.grids.put gid { g with admitted := g.admitted + n, sieve := seq } }

/-- Saved teams admitted again (R404): each takes its new place, and is loaded when every one has been admitted. -/
def State.readmitTeams (s : State) (gid : Nat) (g : Grid) (l : List Placement) : State :=
  (s.toRestore g gid).foldl (fun s t =>
    match l.find? (fun q => q.cohort == t.2.cohort && q.tix == t.2.tix) with
    | none => s
    | some q =>
      let s := s.modTeam t.1 (fun t => { t with core := q.core, slot := q.slot, spbase := q.spbase, placed := true })
      s.modCtx g.ctx (fun c => { c with saved := c.saved.filter (· != t.1) })) s

/-- COMMIT at a core (R340): its records become state 3; with the last core the teams are admitted. -/
def State.commitCore (s : State) (n core : Nat) : Option State :=
  match s.props.find n with
  | none => none
  | some p =>
    let cs := s.propCores p
    let ready := p.state == 3 || (p.state == 1 && cs.all (fun c => p.granted.has c && p.answered.has c))
    if !ready || !cs.has core || p.bound.has core then none
    else
      let p := { p with state := 3, bound := p.bound.add core }
      let s := s.setSlots ((s.placesOn p core).map (fun (q : Placement) => slotIdx core q.slot)) 3
      if cs.all p.bound.has then
        match s.grids.find p.gid with
        | none => none
        | some g =>
          let s := ({ s with props := s.props.del n }.freshCores cs).freshWindows g p.place
          some (if p.restore then s.readmitTeams p.gid g p.place else s.admitTeams p.gid g p.place)
      else some { s with props := s.props.put n p }

/-- The declared ports of a strip bound (R176). -/
def State.bindDeclared (s : State) (tm sp : Nat) (ports : List W32) : State :=
  (List.range ports.length).foldl (fun s i =>
    let w := (ports.getD i 0).toNat
    if bits w 10 0 = 0 then s
    else match s.bind tm sp i (portEntry w) true with
      | .ok t => t
      | .error _ => s) s

/-- A team's threads as they begin (R343). DESIGN CHOICE, entry 59: the access threads begin at kbase + aoff, whatever multiple of 4 it is or
is not (R25, R328). -/
def State.beginTeam (s : State) (tm : Nat) (t : Team) (g : Grid) : State :=
  let r := g.record
  let ePc := (LRec.kbase r + LRec.eoff r) % 2 ^ 64
  let aPc := (LRec.kbase r + LRec.aoff r) % 2 ^ 64
  let s := (List.range t.strips).foldl (fun s sp =>
    let s := { s with strips := s.strips.put (stripKey tm sp) {} }
    let s := (List.range 16).foldl (fun s l =>
      { s with exs := s.exs.put (exKey tm (16 * sp + l)) { ctl := { pc := ePc, readySince := s.now } } }) s
    if LRec.access r then { s with aps := s.aps.put (stripKey tm sp) { ctl := { pc := aPc, readySince := s.now } } } else s) s
  let s := s.modTeam tm (fun t => { t with started := true, flags := 0 })
  let s := (List.range t.strips).foldl (fun s sp => s.bindDeclared tm sp g.ports) s
  { s with grids := s.grids.alter t.gid (fun g => { g with lastStart := some s.now }) }.setSlots t.slotList 4

/-- TEAM_START (R343): teams of a grid start in commit order, stagger clocks apart. -/
def State.teamStart (s : State) (tm : Nat) : Option State :=
  match s.teams.find tm with
  | none => none
  | some t =>
    match s.grids.find t.gid with
    | none => none
    | some g =>
      let first := s.teams.all (fun x => decide (tm ≤ x.1) || x.2.gid != t.gid || x.2.started)
      let due := g.lastStart.elim true (fun n => decide (n + LRec.stagger g.record ≤ s.now))
      if t.placed && !t.started && first && due && s.running t.ctx then some (s.beginTeam tm t g) else none

/-! ### The end of a team and of a grid (R342, R331) -/

/-- Whether no register of a team's pool has a write in flight (R300). -/
def State.poolBack (s : State) (tm : Nat) (t : Team) : Bool :=
  (List.range t.strips).all (fun sp => (s.strip tm sp).regs.all (fun r => r.pend == 0))

/-- Whether a unit of some of the teams still holds stores in its buffer: one that RESUMET .kill ended may (R393). -/
def State.buffered (s : State) (q : Nat → Bool) : Bool :=
  s.exs.any (fun x => q (x.1 / 2048) && !x.2.ctl.sbuf.isEmpty) || s.aps.any (fun x => q (x.1 / 128) && !x.2.ctl.sbuf.isEmpty)

/-- SLOT_FREE (R342): the record of a team that has ended moves to state 5 with its ports unbound, and to state 0 once its
pool has returned and its engines are released. Its slots also wait for the stores still buffered, which have yet to be performed in
its windows (R331). -/
def State.slotFree (s : State) (tm : Nat) : Option State :=
  match s.teams.find tm with
  | none => none
  | some t =>
    if !t.placed || !t.started || !s.teamDone tm || !s.running t.ctx then none
    else
      let ending := t.slotList.all (fun i => (s.slots.get i 0).toNat % 256 == 5)
      if !ending then
        let s := (List.range t.strips).foldl (fun s sp => (List.range 16).foldl (fun s n => s.unbind tm sp n) s) s
        some (s.setSlots t.slotList 5)
      else if s.poolBack tm t && t.coreList.all (fun c => (s.core c).owner != some tm) && !s.opsSaved tm && !s.buffered (· == tm) then
        let s := { s with strips := s.strips.filter (fun x => x.1 / 128 != tm) }.freeSlots t.slotList
        let s := s.modTeam tm (fun t => { t with placed := false, ended := true })
        some { s with grids := s.grids.alter t.gid (fun g => { g with ended := g.ended + 1, flags := g.flags ||| t.flags }) }
      else none

/-- Whether an operation of a unit of a grid's teams, or of the grid by number, is still open (R331). -/
def State.gridBusy (s : State) (gid : Nat) : Bool :=
  let mine (u : Agent) : Bool := (s.teamOf u).elim false (fun t => t.gid == gid)
  s.copies.any (fun c => c.2.gid == some gid) || s.pubs.any (fun c => c.2.gid == some gid && c.2.fill.isSome) ||
    s.msgs.any (fun c => c.2.gid == gid) || s.nreds.any (fun c => c.2.gid == gid) || s.wdqs.any (fun c => c.2.gid == gid) ||
    s.pstbs.any (fun c => c.2.gid == some gid) || s.buffered (fun tm => (s.teams.find tm).elim false (fun t => t.gid == gid)) ||
    s.cores.any (fun c => c.2.ops.any (fun q => (s.teams.find q.team).elim false (fun t => t.gid == gid))) ||
    s.reqs.any (fun q => q.2.open && q.2.writes && (match q.2.owner with
      | .unit u => mine u
      | .pat k => (s.teams.find (k / 16 / 128)).elim false (fun t => t.gid == gid)
      | .eng _ => false))

/-- The records of a grid's teams are gone. -/
def State.dropTeams (s : State) (gid : Nat) : State :=
  let gone (tm : Nat) : Bool := (s.teams.find tm).elim false (fun t => t.gid == gid)
  { s with teams := s.teams.filter (fun t => t.2.gid != gid),
           exs := s.exs.filter (fun x => !gone (x.1 / 2048)),
           aps := s.aps.filter (fun x => !gone (x.1 / 128)),
           strips := s.strips.filter (fun x => !gone (x.1 / 128)),
           ports := s.ports.filter (fun x => !gone (x.1 / 16 / 128)),
           cores := s.cores.filter (fun x => decide (x.1 < savedCore 0 0) || !gone ((x.1 - savedCore 0 0) / 2)) }

/-- GRID_COMPLETE (R331). -/
def State.gridComplete (s : State) (gid : Nat) : Option State :=
  match s.grids.find gid with
  | none => none
  | some g =>
    if g.status.isSome || !s.running g.ctx || g.admitted != g.count ||
        g.ended != g.count * LRec.perCohort g.record || s.gridBusy gid then none
    else
      let t := s.dropTeams gid
      some { t with grids := t.grids.put gid { g with status := some (gridStatus 0 0 g.flags), sieve := none } }

/-! ### Meanings -/

/-- An event about two numbers. -/
def event2 (f : State → Nat → Nat → Option State) (s : State) : Host.Outcome State Fault Refusal :=
  event (fun s => match s.occ with
    | .num2 m n => f s m n
    | _ => none) s

/-- FIRMWARE_PROPOSAL (R339): a grid and its placements. -/
def execFirmwareProposal (s : State) : Host.Outcome State Fault Refusal :=
  event (fun s => match s.occ with
    | .proposal gid l => s.propose gid l
    | _ => none) s

/-- DISPATCH_RESERVE (R340): proposal n. -/
def execDispatchReserve (s : State) : Host.Outcome State Fault Refusal := event1 State.dispatch s

/-- RESERVE (R340): proposal and core. -/
def execReserve (s : State) : Host.Outcome State Fault Refusal := event2 State.reserveCore s

/-- RESERVE_ANSWER (R340): proposal and core. -/
def execReserveAnswer (s : State) : Host.Outcome State Fault Refusal := event2 State.reserveAnswer s

/-- COMMIT (R340): proposal and core. -/
def execCommit (s : State) : Host.Outcome State Fault Refusal := event2 State.commitCore s

/-- RELEASE (R340): proposal and core. -/
def execRelease (s : State) : Host.Outcome State Fault Refusal := event2 State.releaseCore s

/-- BACKOFF_EXPIRY (R340): proposal n. -/
def execBackoffExpiry (s : State) : Host.Outcome State Fault Refusal := event1 State.backoffEnd s

/-- TEAM_START (R343): team n. -/
def execTeamStart (s : State) : Host.Outcome State Fault Refusal := event1 State.teamStart s

/-- SLOT_FREE (R342): team n. -/
def execSlotFree (s : State) : Host.Outcome State Fault Refusal := event1 State.slotFree s

/-- GRID_COMPLETE (R331): grid n. -/
def execGridComplete (s : State) : Host.Outcome State Fault Refusal := event1 State.gridComplete s

end Sys2Proof.Machine
end

