-- ==== Sys2Proof/Machine/Clock.lean ====
section
/-! DEFINITION. What the passing of clocks brings: stalls of the register pool (R301) and of a strip (R201), dead registers
returning to their pool (R300), meetings (R295), sleeps and polled waits (R309, R311), and the Kettle's watch (R348-R350). -/

namespace Sys2Proof.Machine

/-! ### Parked time (R289) -/

/-- How a unit stands (R289): one that has what it waited for is ready. -/
def Ctl.stand (c : Ctl) : Status :=
  match c.status with
  | .waiting w n => if c.able then .ready else .waiting w n
  | st => st

/-- Whether a parked request holds a row of a port (R196). -/
def State.rowParked (s : State) (key row : Nat) : Bool :=
  s.reqs.any (fun q => q.2.isParked && match q.2.landing with
    | .port k r _ | .line k r => k == key && r == row
    | _ => false)

/-- The row at which a unit pops a port. -/
def popRow (u : Agent) (p : Port) : Nat :=
  match u with
  | .ex _ tid => p.pos.getD (tid % 16) 0
  | _ => p.apop

/-- The strip key of a unit of a team. -/
def stripKeyOf : Agent → Nat
  | .ex tm tid => stripKey tm (tid / 16)
  | .ap tm sp => stripKey tm sp
  | .qe _ => 0

/-- Whether an asynchronous operation is parked: on a page here, or at a peer (R153, R257). -/
def State.opParked (s : State) (id : Nat) : Bool :=
  s.parkedOps.any (fun w => w.1 == id) || s.reqs.any (fun q => q.2.isParked && q.2.owner == .eng id)

/-- Whether a plan waits in parked time: in its round (R283), or for chunks that busy receivers turned back or that are parked (R282). -/
def Plan.parkedTime (p : Plan) (now : Nat) : Bool :=
  match p.stage with
  | .queued => false
  | .sending => p.send.any (fun x => x.2.parked || (!x.2.awaited && decide (now < x.2.clock))) &&
      p.send.all (fun x => !x.2.awaited || x.2.parked)
  | _ => true

/-- Whether a value lands in registers that a unit waits for, or in the port push that it is held for. -/
def Landing.feeds (l : Landing) (u : Agent) (rs : NatSet) : Bool :=
  match l, u with
  | .sreg tm sp lane lo hi, .ex t tid => t == tm && tid == 16 * sp + lane && (rs.has lo || hi.elim false rs.has)
  | .apS tm sp r, .ap t q => t == tm && q == sp && rs.has r
  | .qW n r, .qe m => n == m && rs.has r
  | .push tm tid _, .ex t j => t == tm && j == tid
  | _, _ => false

/-- Whether something that is parked will write what a unit waits for. -/
def State.parkedFeed (s : State) (u : Agent) (rs : NatSet) : Bool :=
  s.reqs.any (fun q => q.2.isParked && q.2.landing.feeds u rs) ||
    s.copies.any (fun c => c.2.landing.feeds u rs && s.opParked c.1) ||
    s.pubs.any (fun c => c.2.landing.feeds u rs && (s.opParked c.1 || c.2.fill.elim false s.opParked)) ||
    s.pstbs.any (fun c => c.2.landing.feeds u rs && s.opParked c.1) ||
    s.plans.any (fun p => p.2.landing.feeds u rs && (s.opParked p.1 || p.2.parkedTime s.now)) ||
    s.cores.any (fun c => c.2.ops.any (fun q => q.landing.feeds u rs && s.opParked q.id))

/-- Whether a parked request is among those that a fence or an exit of a unit waits for; an element it pushed is its own (R199, R235). -/
def State.parkedFence (s : State) (u : Agent) (m : Nat) (loads : Bool) : Bool :=
  s.reqs.any (fun q => q.2.isParked && maskNames m q.2 && (loads || q.2.writes) &&
    (q.2.owner == .unit u || (match u with
      | .ex tm tid => q.2.pusher.contains (tm, tid)
      | _ => false)))

/-- Whether a copy that feeds an arrival word is parked (R245). -/
def State.parkedArrival (s : State) (key : Nat) : Bool :=
  s.copies.any (fun c => s.opParked c.1 && c.2.arr.elim false (fun h =>
    match s.arrKey c.2.owner c.2.record h with
    | .ok k => k == key
    | .error _ => false))

/-- The MMA of a team at the head of its engine's queue, with the core. -/
def State.headMma (s : State) (tm : Nat) (t : Team) : Option MatOp :=
  match (s.core (t.coreOf (t.gang.headD 0))).queue with
  | op :: _ => if op.team = tm ∧ op.insn.op = .mma then some op else none
  | [] => none

/-- The port rows that an MMA still waits for at one of its threads: their keys and numbers (R110). -/
def State.rowsAwaited (s : State) (op : MatOp) (tid : Nat) : List (Nat × Nat) :=
  match portOf op.insn.args.a with
  | none => []
  | some n =>
    let key := portKey (stripKey op.team (tid / 16)) n
    match s.ports.find key with
    | none => []
    | some p =>
      let af := op.insn.args.x8.toNat % 16
      let k := p.pos.getD (tid % 16) 0
      ((List.range (if af = 2 ∨ af = 3 then 2 else 1)).map (k + ·)).filterMap (fun k =>
        if p.past k || s.rowReady op.team (tid / 16) p k then none else some (key, k))

/-- The leader of a gang that has arrived whole at a latch not yet released: its operands are awaited (R107, R108). -/
def State.leaderAt (s : State) (tm : Nat) (t : Team) : Option (Nat × Ops) :=
  t.latch.bind (fun l =>
    let live := (gangRows t.gang).filter (s.exLive tm)
    if !l.released && live != [] && live.all l.arrived.has then some (live.foldl min (live.headD 0), l.insn.args) else none)

/-- The port rows that a thread at the latch still waits for: those of its A lines once the MMA runs (R110), and those that the leader
pops for the other operands before (R108, R180). -/
def State.latchRows (s : State) (tm : Nat) (t : Team) (tid : Nat) : List (Nat × Nat) :=
  if t.latch.elim false (·.released) then (s.headMma tm t).elim [] (fun op => s.rowsAwaited op tid)
  else match s.leaderAt tm t with
    | some (l, o) =>
      if l = tid then
        (srcPorts o { d := 0, a := 0 }).filterMap (fun q =>
          let key := portKey (stripKey tm (tid / 16)) q.1
          (s.ports.find key).bind (fun p =>
            let k := p.pos.getD (tid % 16) 0
            if p.past k || s.rowReady tm (tid / 16) p k then none else some (key, k)))
      else []
    | none => []

/-- Whether the gang of a team waits at an MMA for a parked request: of its B fetch, of a row of one of its ports, or of a register that its
leader supplies (R108, R123, R182). -/
def State.latchParked (s : State) (tm : Nat) : Bool :=
  match s.teams.find tm with
  | none => false
  | some t =>
    ((gangRows t.gang).filter (s.exLive tm)).any (fun tid => (s.latchRows tm t tid).any (fun q => s.rowParked q.1 q.2)) ||
      (if t.latch.elim false (·.released) then (s.headMma tm t).elim false (fun op => s.opParked op.id)
       else (s.leaderAt tm t).elim false (fun (l, o) =>
        s.parkedFeed (.ex tm l) ((s.strip tm (l / 16)).flights ([o.a, o.b, o.c].flatMap (gNames · 1)) (l % 16))))

/-- Whether a unit is parked by itself: it waits on a parked request, or is stopped (R289, R385). -/
def State.parkedSelf (s : State) (u : Agent) : Bool :=
  match (s.ctl u).map Ctl.stand with
  | some (.stopped _) => true
  | some (.waiting w _) =>
    match w with
    | .page _ => true
    | .scoreboard rs => s.parkedFeed u rs
    | .result => s.parkedFeed u []
    | .mem => s.reqs.any (fun q => q.2.isParked && (match q.2.landing, u with
        | .block tm sp _, .ap t p => tm == t && sp == p
        | _, _ => false))
    | .order ns => ns.any (fun n => (s.reqs.find n).elim false Req.isParked)
    | .counters m loads => s.parkedFence u m loads
    | .arrival key => s.parkedArrival key
    | .port n false =>
      let key := portKey (stripKeyOf u) n
      (s.ports.find key).elim false (fun p => s.rowParked key (popRow u p))
    | .latch => match u with
      | .ex tm _ => s.latchParked tm
      | _ => false
    | .mqueue n => match s.coreOf u with
      | some c => (s.core c).queue.any (fun q => decide (q.id < n) && s.opParked q.id)
      | none => false
    | _ => false
  | _ => false

/-- The members of a thread's span that its mask names and that are neither held at its target nor exited (R295). -/
def State.missingAt (s : State) (tm tid : Nat) (target : W32) (mask : W64) : List Nat :=
  (List.range 64).filterMap (fun b =>
    let j := tid / 64 * 64 + b
    if !mask.getLsbD b || j == tid then none
    else match s.exs.find (exKey tm j) with
      | none => none
      | some x =>
        if !x.live || (x.ctl.status == .held && x.meet.elim false (fun m => m.1 == target)) then none else some j)

/-- Live threads of a team that are not in a set, by key; a team not started yet counts as one that is not parked. -/
def State.notArrived (s : State) (tm : Nat) (t : Team) (a : NatSet) : List Nat :=
  if t.started then
    ((List.range (16 * t.strips)).filter (fun i => s.exLive tm i && !a.has i)).map (exKey tm)
  else [exKey tm 0]

/-- Whom a thread that is held or waits for companions still waits for, by key: at its meeting, a joint instruction, a strip operation,
a barrier or the latch (R289, R295, R345, R108). -/
def State.missing (s : State) (tm tid : Nat) : Option (List Nat) :=
  match s.exs.find (exKey tm tid), s.teams.find tm with
  | some x, some t =>
    let here (l : List Nat) : Option (List Nat) := some (l.map (exKey tm))
    match x.ctl.stand with
    | .held => x.meet.bind (fun m => here (s.missingAt tm tid m.1 m.2))
    | .waiting w _ =>
      match w with
      | .joint addr ms => here (ms.filter (fun j => (s.atJoint tm j).isNone && !s.absentOk tm addr j))
      | .stripOp =>
        (s.strip tm (tid / 16)).op.bind (fun q => here (((List.range 16).filter (fun l =>
          s.laneLive tm (tid / 16) l && !q.2.getLsbD l)).map (16 * (tid / 16) + ·)))
      | .barrier n => (t.barriers.find n).map (fun b => s.notArrived tm t b.arrived)
      | .cbar =>
        some ((s.teams.filter (fun q => q.2.gid == t.gid && q.2.cohort == t.cohort)).flatMap (fun q => s.notArrived q.1 q.2 q.2.cbarrier))
      | .gbar =>
        if (s.grids.find t.gid).elim false (fun g => g.admitted == g.count) then
          some ((s.teams.filter (fun q => q.2.gid == t.gid)).flatMap (fun q => s.notArrived q.1 q.2 q.2.gbarrier))
        else none
      | .latch => t.latch.bind (fun l =>
          here (if l.released then l.suspended else (gangRows t.gang).filter (fun i => s.exLive tm i && !l.arrived.has i)))
      | _ => none
    | _ => none
  | _, _ => none

/-- The parked threads among some, by key: those parked by themselves, and those that wait only for parked ones (R289). -/
def State.parkedSet (s : State) (ks : List Nat) : NatSet :=
  let base := (ks.filter (fun k => s.parkedSelf (.ex (k / 2048) (k % 2048)))).foldl NatSet.add []
  ks.foldl (fun ps _ =>
    ks.foldl (fun ps k =>
      match s.missing (k / 2048) (k % 2048) with
      | some (j :: l) => if (j :: l).all (NatSet.has ps) then NatSet.add ps k else ps
      | _ => ps) ps) base

/-- Whether the current clock is active for a team (R348): a live thread of it is not parked. -/
def State.teamActive (s : State) (tm : Nat) (t : Team) : Bool :=
  let tids := (List.range (16 * t.strips)).filter (s.exLive tm)
  let alone (i : Nat) : Bool := !s.parkedSelf (.ex tm i) && (s.missing tm i).isNone
  t.placed && t.started && s.running t.ctx &&
    (tids.any alone ||
      (List.range t.strips).any (fun sp => (s.aps.find (stripKey tm sp)).elim false (fun a =>
        a.ctl.status != .exited && !s.parkedSelf (.ap tm sp))) ||
      (let ks := (s.exs.filter (fun x => x.2.live && (s.teams.find (x.1 / 2048)).elim false (fun q => q.gid == t.gid))).map (·.1)
       let ps := s.parkedSet ks
       tids.any (fun i => !NatSet.has ps (exKey tm i))))

/-! ### Stalls (R301, R201) -/

/-- Whether a thread counts as blocked for the register pool (R301). -/
def poolBlocked : Status → Bool
  | .held => true
  | .waiting w _ =>
    match w with
    | .pool | .joint _ _ | .barrier _ | .latch | .stripOp => true
    | _ => false
  | _ => false

/-- Whether a team's pool is stalled in this clock (R301). -/
def State.poolStalled (s : State) (tm : Nat) (t : Team) : Bool :=
  let sts := (List.range (16 * t.strips)).filterMap (fun i => (s.exs.find (exKey tm i)).map (·.ctl.stand))
  let live := sts.filter (fun x => match x with
    | .exited | .stopped _ => false
    | _ => true)
  live.any (fun x => match x with
      | .waiting .pool _ => true
      | _ => false) &&
    live.all poolBlocked &&
    (List.range t.strips).all (fun sp => (s.strip tm sp).regs.all (fun r => r.live != 0))

/-- Whether an execute thread is blocked on its strip (R201). -/
def State.exBlocked (s : State) (tm tid : Nat) (st : Status) : Bool :=
  match st with
  | .waiting .stripOp _ => true
  | .waiting (.port n push) _ =>
    let key := portKey (stripKey tm (tid / 16)) n
    match s.ports.find key with
    | none => false
    | some p =>
      if push then p.kind == .back || (p.kind == .store && !p.gen)
      else p.kind == .acc && !s.rowParked key (p.pos.getD (tid % 16) 0)
  | .waiting .latch _ =>
    match s.teams.find tm with
    | none => false
    | some t => t.latch.elim false (fun l => l.suspended == []) && (s.latchRows tm t tid).any (fun q =>
        (s.ports.find q.1).elim false (fun p => p.kind == .acc) && !s.rowParked q.1 q.2)
  | _ => false

/-- Whether an access thread is blocked on its strip (R201): a push that waits is the reservation of a row or a PATGO. -/
def State.apBlocked (s : State) (tm sp : Nat) (st : Status) : Bool :=
  match st with
  | .waiting (.port n push) _ =>
    match s.ports.find (portKey (stripKey tm sp) n) with
    | none => false
    | some p => if push then p.kind == .acc || p.kind == .pat else p.kind == .back || p.kind == .store
  | _ => false

/-- The parties of a strip with their state: its live execute threads and its access thread (R201). -/
def State.parties (s : State) (key : Nat) : List (Agent × Status) :=
  let tm := key / 128
  let sp := key % 128
  ((List.range 16).filterMap (fun l => (s.exs.find (exKey tm (16 * sp + l))).bind (fun x =>
      if x.live then some (Agent.ex tm (16 * sp + l), x.ctl.stand) else none))) ++
    (match s.aps.find key with
      | some a => if a.ctl.status == .exited then [] else [(Agent.ap tm sp, a.ctl.stand)]
      | none => [])

/-- Whether every party of a strip is blocked on it. -/
def State.stripBlocked (s : State) (key : Nat) : Bool :=
  let ps := s.parties key
  !ps.isEmpty && ps.all (fun x => match x.1 with
    | .ex tm tid => s.exBlocked tm tid x.2
    | .ap tm sp => s.apBlocked tm sp x.2
    | .qe _ => false)

/-! ### A clock -/

/-- A condition's start: kept while it holds, now when it begins. -/
def stamp (c : Bool) (old : Option Nat) (now : Nat) : Option Nat := if c then some (old.getD now) else none

/-- Clocks at the die's hotspot temperature are counted while there is power (R412). -/
def State.warm (s : State) (n : Nat) : State := if s.mgmt.on then s.count (ctrModule (2 + s.mgmt.heat)) n else s

/-- Some clocks pass: what is counted in clocks is counted. Nothing else changes with them. -/
def State.clock (s : State) (n : Nat) : State :=
  { s.warm n with
    now := s.now + n,
    teams := s.teams.map (fun x =>
      if !(x.2.placed && x.2.started && s.running x.2.ctx) then x
      else
        let on := s.teamActive x.1 x.2
        let pers := LRec.pers (s.recordOf x.2)
        (x.1, { x.2 with poolSince := stamp (s.poolStalled x.1 x.2) x.2.poolSince s.now,
                         active := if on && pers then x.2.active + n else x.2.active,
                         idle := if on && !pers then x.2.idle + n else x.2.idle })),
    strips := s.strips.map (fun x =>
      if (s.teams.find (x.1 / 128)).elim false (fun t => t.placed && t.started && s.running t.ctx) then
        (x.1, { x.2 with blocked := stamp (s.stripBlocked x.1) x.2.blocked s.now })
      else (x.1, { x.2 with blocked := none })) }

/-! ### Events -/

/-- STRIP_REGISTER_FREE (R300): a dead register without a write in flight returns to its team's pool. -/
def State.registerFree (s : State) (tm sp id : Nat) : Option State :=
  match s.strips.find (stripKey tm sp) with
  | none => none
  | some t =>
    if t.regs.any (fun r => r.id == id && r.live == 0 && r.pend == 0) then
      some (s.modStrip tm sp (fun t => { t with regs := t.regs.filter (fun r => r.id != id) }))
    else none

/-- REGPOOL_STALL (R301): after 256 clocks every thread that waits for the pool takes REGPOOL 0x01. -/
def State.poolTrap (s : State) (tm : Nat) : Option State :=
  match s.teams.find tm with
  | none => none
  | some t =>
    if s.running t.ctx && s.poolStalled tm t && t.poolSince.elim false (fun n => decide (n + 256 ≤ s.now)) then
      let s := (List.range (16 * t.strips)).foldl (fun s i =>
        match s.ctl (.ex tm i) with
        | some c => match c.status with
          | .waiting .pool _ => s.takeTrap (.ex tm i) (tinfo 0x40 1) c.len
          | _ => s
        | none => s) s
      some (s.modTeam tm (fun t => { t with poolSince := none }))
    else none

/-- A party takes DECOUPLE where it waits, naming its port; a gang thread leaves the latch (R201, R123). DESIGN CHOICE, entry 59: the record
of one that waits for a strip operation names it by its PC alone, with no port. -/
def State.decoupleTrap (s : State) (u : Agent) (st : Status) : State :=
  match st, u with
  | .waiting (.port n _) _, _ => s.takeTrap u { tinfo 0x33 1 with port := some n } ((s.ctl u).elim 0 (·.len))
  | .waiting .latch _, .ex tm tid =>
    match (s.teams.find tm).bind (·.latch) with
    | some l =>
      let row := ((s.teams.find tm).elim [] (fun t => s.latchRows tm t tid)).head?
      s.trapAtLatch tm tid l.insn { tinfo 0x33 1 with port := row.map (fun q => q.1 % 16) }
    | none => s
  | _, _ => s.takeTrap u (tinfo 0x33 1) ((s.ctl u).elim 0 (·.len))

/-- DECOUPLE_TIMEOUT (R201): after 2048 clocks every party of a blocked strip takes DECOUPLE 0x01, naming its port. -/
def State.decouple (s : State) (key : Nat) : Option State :=
  match s.strips.find key, s.teams.find (key / 128) with
  | some x, some t =>
    if s.running t.ctx && s.stripBlocked key && x.blocked.elim false (fun n => decide (n + 2048 ≤ s.now)) then
      let s := (s.parties key).foldl (fun s q =>
        s.decoupleTrap q.1 q.2) s
      some (s.modStrip (key / 128) (key % 128) (fun x => { x with op := none, blocked := none }))
    else none
  | _, _ => none

/-- Whether a held thread's meeting is complete (R295). -/
def State.meetingDone (s : State) (tm tid : Nat) : Bool :=
  match s.exs.find (exKey tm tid) with
  | some x => match x.ctl.status, x.meet with
    | .held, some (t, m) => (s.missingAt tm tid t m).isEmpty
    | _, _ => false
  | none => false

/-- MEETING_RELEASE (R295): every thread of a span whose meeting is complete is released in one clock. -/
def State.meetingRelease (s : State) (tm tid : Nat) : Option State :=
  let ok := (s.teams.find tm).elim false (fun t => s.running t.ctx)
  let go := ((List.range 64).map (fun b => tid / 64 * 64 + b)).filter (s.meetingDone tm)
  if go.isEmpty || !ok then none
  else some (go.foldl (fun s j => s.modEx tm j (fun x =>
    { x with meet := none, ctl := { x.ctl with status := .ready, readySince := s.now } })) s)

/-- SLEEP_EXPIRY (R309). -/
def State.sleepEnd (s : State) (u : Agent) : Option State :=
  match (s.ctl u).map Ctl.status with
  | some (.sleeping n) => if n ≤ s.now ∧ s.running (s.ctxOf u) then some (s.wake u) else none
  | _ => none

/-- WAITW_REPOLL (R311): the word may have been written, or 4096 clocks have passed, and the unit loads it again. -/
def State.repoll (s : State) (u : Agent) : Option State :=
  match (s.ctl u).map Ctl.status with
  | some (.waiting (.word _) _) => if s.running (s.ctxOf u) then some (s.wake u) else none
  | _ => none

/-- KETTLE_BEAT_PERIOD (R349): the beat periods that have ended are counted. -/
def State.beatPeriod (s : State) (tm : Nat) : Option State :=
  match s.teams.find tm with
  | none => none
  | some t =>
    let p := LRec.beat (s.recordOf t)
    if LRec.pers (s.recordOf t) ∧ p ≠ 0 ∧ p ≤ t.active then some (s.modTeam tm (fun t => t.endPeriods p)) else none

/-- KETTLE_IDLE_LIMIT (R349). -/
def State.idleLimit (s : State) (tm : Nat) : Option State :=
  match s.teams.find tm with
  | none => none
  | some t =>
    if ¬LRec.pers (s.recordOf t) ∧ 2 ^ 24 ≤ t.idle ∧ ¬t.hung then some (s.modTeam tm (fun t => { t with hung := true })) else none

/-! ### Meanings -/

/-- STRIP_REGISTER_FREE (R300): team, strip and register. -/
def execStripRegisterFree (s : State) : Host.Outcome State Fault Refusal :=
  event (fun s => match s.occ with
    | .num3 tm sp id => s.registerFree tm sp id
    | _ => none) s

/-- REGPOOL_STALL (R301): team n. -/
def execRegpoolStall (s : State) : Host.Outcome State Fault Refusal := event1 State.poolTrap s

/-- DECOUPLE_TIMEOUT (R201): the strip's key. -/
def execDecoupleTimeout (s : State) : Host.Outcome State Fault Refusal := event1 State.decouple s

/-- MEETING_RELEASE (R295): team and thread. -/
def execMeetingRelease (s : State) : Host.Outcome State Fault Refusal := event2 State.meetingRelease s

/-- An event about a unit. -/
def eventU (f : State → Agent → Option State) (s : State) : Host.Outcome State Fault Refusal :=
  event (fun s => match s.occ with
    | .unit u => f s u
    | _ => none) s

/-- SLEEP_EXPIRY (R309): a unit. -/
def execSleepExpiry (s : State) : Host.Outcome State Fault Refusal := eventU State.sleepEnd s

/-- WAITW_REPOLL (R311): a unit. -/
def execWaitwRepoll (s : State) : Host.Outcome State Fault Refusal := eventU State.repoll s

/-- KETTLE_BEAT_PERIOD (R349): team n. -/
def execKettleBeatPeriod (s : State) : Host.Outcome State Fault Refusal := event1 State.beatPeriod s

/-- KETTLE_IDLE_LIMIT (R349): team n. -/
def execKettleIdleLimit (s : State) : Host.Outcome State Fault Refusal := event1 State.idleLimit s

end Sys2Proof.Machine
end

