-- ==== Sys2Proof/Machine/System.lean ====
section
/-! DEFINITION. The system registers (R361-R368, R377, R389), MOVS (R303), RDSYS, WRSYS, WBR and INVR (R373-R376), the trap and
fault rings (R152, R386, R387, R426), and RESUMET (R392-R394). -/

namespace Sys2Proof.Machine

/-! ### MOVS (R303, R302, R40) -/

/-- The bound bits of sr.portstat (R190). -/
def State.boundPorts (s : State) (strip : Nat) : Nat :=
  (List.range 16).foldl (fun n i => if (s.ports.find (portKey strip i)).isSome then n + 2 ^ i else n) 0

/-- The value of a special register for a unit (R40, R302). -/
def State.specialReg (s : State) (u : Agent) (n : Nat) : Nat :=
  let tid := match u with
    | .ex _ i => i
    | _ => 0
  let t := s.teamOf u
  match n with
  | 0 => tid
  | 1 => stripOf u
  | 2 => tid % 16
  | 3 => t.elim 0 (·.team)
  | 4 => t.elim 0 (·.cohort)
  | 5 => t.elim 0 (fun t => t.gid % 2 ^ 32)
  | 6 => (s.coreOf u).elim 0 placeOf
  | 7 => s.ctxOf u
  | 8 => s.clockOf u
  | 9 => (s.ctl u).elim 0 (·.tinfo.toNat)
  | 10 => match u with
    | .ex tm tid =>
      (s.exs.find (exKey tm tid)).elim 0 (·.eos.toNat) + s.boundPorts (stripKey tm (tid / 16)) * 2 ^ 16
    | _ => 0
  | _ => 0

/-- MOVS, reading (R303). -/
def movsReadOp : M Unit := do
  let o ← ops
  let n := o.x8.toNat % 128
  let w := if n = 8 then 2 else 1
  let sh : Shape := { d := w, a := 0, b := 0, c := 0 }
  insn .movsRead sh (do
    let _ ← fetch sh .int
    let s ← get
    let v := Val.of (BitVec.ofNat 64 (s.specialReg (← unit) n))
    writeD w (fun _ => v))

/-- MOVS, writing sr.portstat (R303, R190). -/
def movsWriteOp : M Unit := do
  let sh : Shape := { d := 0, b := 0, c := 0 }
  insn .movsWrite sh (do
    let v ← fetch sh .int
    match ← unit with
    | .ex tm tid =>
      if (v.a 0).poison then pure ()
      else modify (fun s => s.modEx tm tid (fun x => { x with eos := x.eos &&& ~~~((v.a 0).bits.setWidth 16) }))
    | _ => pure ())

/-! ### Selectors (R365) -/

namespace Sel
def group (v : W64) : Nat := fld v 7 0
def index (v : W64) : Nat := fld v 15 8
def ctx (v : W64) : Nat := fld v 23 16
def word (v : W64) : Nat := fld v 31 24
/-- Blocks, and words of a block, of a group. -/
def blocks (g : Nat) : Nat := match g with | 1 => 16 | 2 => 8 | 3 => 64 | 4 => 1 | 5 => 1 | _ => 0
def words (g : Nat) : Nat := match g with | 1 => 3 | 2 => 9 | 3 => 2 | 4 => 8 | 5 => 32 | _ => 0
/-- The committing word of a staged group. -/
def commit (g : Nat) : Nat := if g = 2 then 8 else 0
/-- Whether a write only stages. -/
def stages (v : W64) : Bool := decide (1 ≤ group v ∧ group v ≤ 3) && word v != commit (group v)
/-- The selector of another word of the same block. -/
def wordOf (v : W64) (i : Nat) : Nat := v.toNat % 2 ^ 24 + i * 2 ^ 24
end Sel

/-- PRIV 0x03: a malformed selector (R374). -/
def selBad (v : W64) (write : Bool) : Bool :=
  let g := Sel.group v
  fld v 63 32 != 0 || decide (Sel.blocks g ≤ Sel.index v) || decide (Sel.words g ≤ Sel.word v) ||
    (Sel.ctx v != 0 && (g == 2 || g == 3 || g == 5)) ||
    (write && ((g == 5 && Sel.word v != 11) || (g == 4 && Sel.word v == 7)))

/-- PRIV 0x01: whether the context a selector names is a valid one of the partition; a create, which writes v = 1, names any owned id
(R374). -/
def State.selCtxOk (s : State) (p : Partition) (v : W64) (create : Bool) : Bool :=
  let g := Sel.group v
  if g = 1 ∨ g = 4 then p.ownsCtx (Sel.ctx v) && ((s.context (Sel.ctx v)).v || (create && g == 4 && Sel.word v == 0)) else true

/-! ### Blocks -/

/-- A word of a bit vector. -/
def wordAt {w : Nat} (v : BitVec w) (i : Nat) : W64 := BitVec.ofNat 64 (v.toNat / 2 ^ (64 * i))

/-- Words joined, the first lowest. -/
def joinWords (l : List W64) : Nat := l.foldr (fun w n => w.toNat + n * 2 ^ 64) 0

/-- A context control word as it reads (R368, R389). -/
def Context.word (c : Context) (i : Nat) : W64 :=
  BitVec.ofNat 64 (match i with
    | 0 => if c.v then 1 else 0
    | 1 => c.frlog + c.frbase * 2 ^ 8 + c.fvec * 2 ^ 52
    | 2 => c.frhead.toNat + c.frtail.toNat * 2 ^ 32
    | 3 => c.trlog + c.trbase * 2 ^ 8 + c.tvec * 2 ^ 53
    | 4 => c.trhead.toNat + c.trtail.toNat * 2 ^ 32
    | 5 => c.dying.getD c.cstate + (if c.hung then 8 else 0) + c.cause * 2 ^ 8 + c.svec * 2 ^ 21 + c.sgen * 2 ^ 32
    | 6 => c.sasize + c.sabase * 2 ^ 12
    | _ => c.dtok.toNat + c.ntrap.toNat * 2 ^ 32)

/-- A word of an interleave domain as it reads (R377). -/
def Domain.word (d : Domain) (i : Nat) : W64 :=
  if i < 8 then wordAt d.hmr i
  else BitVec.ofNat 64 ((if d.v then 1 else 0) + d.dbase * 2 + d.dend * 2 ^ 23 + d.gen * 2 ^ 48 + (if d.busy then 2 ^ 63 else 0))

/-- A system register word as it reads (R365, R374). -/
def State.sysRead (s : State) (p : Partition) (v : W64) : W64 :=
  let i := Sel.index v
  let w := Sel.word v
  match Sel.group v with
  | 1 => wordAt ((s.context (Sel.ctx v)).ranges.getD i 0) w
  | 2 => (p.domains.getD i {}).word w
  | 3 => wordAt (p.exports.getD i 0) w
  | 4 => (s.context (Sel.ctx v)).word w
  | 5 => wordAt p.desc w
  | _ => 0

/-- A block of a staged group with what an engine has staged and the committing word put in (R366). -/
def State.staged (s : State) (p : Partition) (e : Engine) (v x : W64) : List W64 :=
  (List.range (Sel.words (Sel.group v))).map (fun i =>
    if i = Sel.word v then x
    else (e.staged.find (Sel.wordOf v i)).getD (s.sysRead p (BitVec.ofNat 64 (Sel.wordOf v i))))

/-- A range register's commit refused (R147, R366): the IA range is asked of every register, with v = 0 too. -/
def rangeRefused (p : Partition) (r : RangeReg) : Bool :=
  let hi : Int := (Range.iabase r : Int) + Range.vend r - Range.vbase r
  fld r 20 6 != 0 || fld r 84 64 != 0 || fld r 148 128 != 0 || fld r 191 180 != 0 ||
    (Range.v r && decide (Range.vend r ≤ Range.vbase r)) ||
    !p.inIA (Range.iabase r) (Range.iabase r) || decide (hi < (Desc.iabase p.desc : Int)) || !p.inIA (Desc.iabase p.desc) hi.toNat

/-- An export entry's commit refused (R367). -/
def State.exportRefused (s : State) (p : Partition) (e : BitVec 128) : Bool :=
  fld e 127 95 != 0 || fld e 63 53 != 0 ||
    (Export.v e && (decide (Export.iaend e ≤ Export.iabase e) || !p.inIA (Export.iabase e) (Export.iaend e) ||
      !(p.ownsCtx (Export.fctx e) && (s.context (Export.fctx e)).v)))

/-- A domain as a commit gives it (R377): gen and busy are not written. -/
def domainOfWords (old : Domain) (l : List W64) : Domain :=
  let w := (l.getD 8 0).toNat
  { old with hmr := BitVec.ofNat 512 (joinWords (l.take 8)), v := bit w 0, dbase := bits w 22 1, dend := bits w 44 23 }

/-- A domain's commit refused (R377). Another domain whose switch is in progress counts with its old mask and range as well as the new
ones (R378; DEDUCED for the range, entry 33). -/
def domainRefused (p : Partition) (i : Nat) (d : Domain) : Bool :=
  let others := ((List.range 8).filter (· != i)).flatMap (fun j =>
    let o := p.domains.getD j {}
    [o, o.before])
  d.v && (d.hmr == 0 || (d.hmr.toNat &&& (2 ^ 512 - 1 - Desc.slices p.desc)) != 0 ||
    others.any (fun o => o.v && (d.hmr &&& o.hmr) != 0) || decide (d.dend ≤ d.dbase) ||
    !p.inIA (d.dbase * 2 ^ 30) (d.dend * 2 ^ 30) ||
    others.any (fun o => o.v && decide (d.dbase < o.dend ∧ o.dbase < d.dend)))

/-- Whether a context has an enabled engine, a grid that has not completed, or a running plan (R368, R390). -/
def State.ctxBusy (s : State) (c : Nat) : Bool :=
  s.engines.any (fun e => e.2.en && e.2.ctx == c) || s.grids.any (fun g => g.2.ctx == c && g.2.status.isNone) ||
    s.plans.any (fun p => p.2.ctx == c && p.2.stage != .queued)

/-- A fault ring, trap ring or save area that may not be set (R368, R390). -/
def faultRingRefused (p : Partition) (x : Nat) : Bool :=
  let n := bits x 4 0
  !(decide (4 ≤ n ∧ n ≤ 16) && p.inIA (bits x 51 8 * 2 ^ 8) (bits x 51 8 * 2 ^ 8 + 32 * 2 ^ n))
def trapRingRefused (p : Partition) (x : Nat) : Bool :=
  let n := bits x 4 0
  n != 0 && !(decide (4 ≤ n ∧ n ≤ 12) && p.inIA (bits x 52 8 * 2 ^ 7) (bits x 52 8 * 2 ^ 7 + 128 * 2 ^ n))
def saveAreaRefused (p : Partition) (x : Nat) : Bool :=
  let n := bits x 11 0
  n != 0 && !(decide (1 + popBelow (Desc.cores p.desc) 1024 ≤ n) && p.inIA (bits x 43 12 * 2 ^ 20) (bits x 43 12 * 2 ^ 20 + n * 2 ^ 20))

/-- Device physical addresses in the HBM of enabled stacks: the stacks follow one another from 0. PRESUMED, entry 12. -/
def State.inHbm (s : State) (a : Nat) : Bool := bit s.mgmt.stackMask (a / Config.stackBytes)

/-- PRIV 0x02: a write or commit refused (R374). -/
def State.sysRefused (s : State) (n : Nat) (p : Partition) (v x : W64) : Bool :=
  let e := s.engineRec n
  let c := Sel.ctx v
  let k := s.context c
  let moving := decide (2 ≤ k.dying.getD k.cstate ∧ k.dying.getD k.cstate ≤ 4)
  match Sel.group v, Sel.word v with
  | 1, _ => rangeRefused p (BitVec.ofNat 192 (joinWords (s.staged p e v x)))
  | 2, _ => domainRefused p (Sel.index v) (domainOfWords (p.domains.getD (Sel.index v) {}) (s.staged p e v x))
  | 3, _ => s.exportRefused p (BitVec.ofNat 128 (joinWords (s.staged p e v x)))
  | 4, 0 => k.v && !x.getLsbD 0 && (moving || s.ctxBusy c)
  | 4, 1 => faultRingRefused p x.toNat
  | 4, 3 => moving || trapRingRefused p x.toNat || (bits x.toNat 4 0 == 0 && s.ctxBusy c)
  | 4, 6 => moving || saveAreaRefused p x.toNat || (bits x.toNat 11 0 == 0 && s.ctxBusy c)
  | 5, _ => x.toNat % 2 ^ 16 != 0 || !s.inHbm x.toNat
  | _, _ => false

/-! ### What a commit does -/

/-- Every BCS a context owns becomes zero bits without an owner (R132). -/
def State.clearBcs (s : State) (ctx : Nat) : State :=
  s.cores.foldl (fun s c =>
    if c.2.bcsOwner == some ctx then (s.zeroStore (Loc.bcs c.1 0).key 16384).modCore c.1 (fun x => { x with bcsOwner := none })
    else s) s

/-- The open shadow pairs of a context close without exchange (R249, R395). -/
def State.closePairs (s : State) (ctx : Nat) : State :=
  { s with parts := s.parts.map (fun p => (p.1, { p.2 with pairs := p.2.pairs.filter (fun o => o.ctx != ctx) })) }

/-- CONTEXT_CREATE (R368). -/
def State.createCtx (s : State) (c : Nat) : State := { s with ctxs := s.ctxs.put c { v := true, cstate := 1 } }

/-- The engines that a context owned last have another previous owner from now on, and so have its teams' windows: a context created later
under the same id is a different one (R104, R369). -/
def State.forgetOwner (s : State) (c : Nat) : State :=
  { s with cores := s.cores.map (fun (k : Nat × Core) => (k.1, { k.2 with
      lastCtx := if k.2.lastCtx = some c then some 256 else k.2.lastCtx,
      windows := k.2.windows.map (fun w => if w.2.2 = c then (w.1, w.2.1, 256) else w) })) }

/-- The asynchronous operations of a context end where they are, its plans aside. -/
def State.dropOps (s : State) (c : Nat) : State :=
  { s with copies := s.copies.filter (fun q => q.2.ctx != c), msgs := s.msgs.filter (fun q => q.2.ctx != c),
           nreds := s.nreds.filter (fun q => q.2.ctx != c), wdqs := s.wdqs.filter (fun q => q.2.ctx != c),
           pubs := s.pubs.filter (fun q => q.2.ctx != c), pstbs := s.pstbs.filter (fun q => q.2.ctx != c) }

/-- What queue engines have staged for a context's range registers is for that context alone (R366). -/
def State.dropStaged (s : State) (c : Nat) : State :=
  { s with engines := s.engines.map (fun (e : Nat × Engine) => (e.1, { e.2 with
      staged := e.2.staged.filter (fun q => let v := BitVec.ofNat 64 q.1; !(Sel.group v == 1 && Sel.ctx v == c)) })) }

/-- CONTEXT_DESTROY (R368, R132): nothing of the context acts in one created later under its id (R369; entry 57). -/
def State.destroyCtx (s : State) (c : Nat) : State :=
  let s := (((((s.clearBcs c).closePairs c).forgetOwner c).dropOps c).emptyBuffers c).dropStaged c
  { s.forget (fun r => r.ctx == c) with ctxs := s.ctxs.put c {}, frecs := s.frecs.filter (fun f => f.ctx != c),
                                         plans := s.plans.filter (fun q => q.2.ctx != c) }

/-- An engine's staging for a block emptied (R366). -/
def State.unstage (s : State) (n : Nat) (v : W64) : State :=
  s.modEngine n (fun e => { e with staged := e.staged.filter (fun q => q.1 % 2 ^ 24 != v.toNat % 2 ^ 24) })

/-- A committed word takes effect (R366-R368, R377, R378, R389). Pre-emption, restore and kill are not here. -/
def State.sysWrite (s : State) (n pi : Nat) (p : Partition) (v x : W64) : State :=
  let e := s.engineRec n
  let c := Sel.ctx v
  let i := Sel.index v
  let m := x.toNat
  match Sel.group v, Sel.word v with
  | 1, _ =>
    let r : RangeReg := BitVec.ofNat 192 (joinWords (s.staged p e v x))
    (s.modCtx c (fun k => { k with ranges := k.ranges.set i r })).unstage n v
  | 2, _ =>
    let old := p.domains.getD i {}
    let d := domainOfWords old (s.staged p e v x)
    let switch := old.hmr != d.hmr || old.v != d.v || old.dbase != d.dbase || old.dend != d.dend
    let d := if switch then
        { d with gen := (old.gen + 1) % 256, busy := true, was := if old.v then some (old.hmr, old.dbase, old.dend) else none }
      else d
    (s.modPart pi (fun p => { p with domains := p.domains.set i d })).unstage n v
  | 3, _ =>
    let r := BitVec.ofNat 128 (joinWords (s.staged p e v x))
    (s.modPart pi (fun p => { p with exports := p.exports.set i r })).unstage n v
  | 4, 0 =>
    let k := s.context c
    if x.getLsbD 0 && !k.v then s.createCtx c
    else if !x.getLsbD 0 && k.v then s.destroyCtx c
    else s
  | 4, 1 => s.modCtx c (fun k => { k with frlog := bits m 4 0, frbase := bits m 51 8, fvec := bits m 62 52 })
  | 4, 2 => s.modCtx c (fun k => { k with frhead := x.setWidth 32 })
  | 4, 3 => s.modCtx c (fun k => { k with trlog := bits m 4 0, trbase := bits m 52 8, tvec := bits m 63 53 })
  | 4, 4 => s.modCtx c (fun k => { k with trhead := x.setWidth 32 })
  | 4, 5 => s.modCtx c (fun k => { k with svec := bits m 31 21 })
  | 4, 6 => s.modCtx c (fun k => { k with sasize := bits m 11 0, sabase := bits m 43 12 })
  | 5, _ => s.modPart pi (fun p =>
      { p with desc := BitVec.ofNat 2048 (p.desc.toNat - Desc.ptroot p.desc * 2 ^ 704 + m * 2 ^ 704) })
  | _, _ => s

/-! ### A system operation in progress -/

/-- The engine waits at the instruction for its system operation (R374). -/
def stayQ : M Unit := do
  let a ← here
  let o ← ops
  let now := (← get).now
  match ← unit with
  | .qe n => modify (fun s => s.modEngine n (fun e =>
      { e with ctl := { e.ctl with pc := a, status := .waiting .sysop now, len := len0Of o.form },
               left := if e.prog then e.left else e.left + o.form.bytes / 4 }))
  | _ => pure ()

/-- The boundary after a system operation: an engine whose en was cleared meanwhile becomes idle (R323). -/
def State.atBoundary (s : State) (n : Nat) : State := if (s.engineRec n).stopping then s.stopEngine n else s

/-- The system operation of an engine is complete: the engine goes on past its instruction, or becomes idle. -/
def State.finishQ (s : State) (n : Nat) : State :=
  ((s.modEngine n (fun e =>
    let k := e.ctl.len.toNat + 1
    { e with sysop := none, left := if e.prog then e.left else e.left - k,
             ctl := { e.ctl with pc := (e.ctl.pc + 4 * k) % 2 ^ 64, status := .ready, readySince := s.now } })).endPacket (.qe n)).atBoundary n

/-- The system operation of an engine is refused only now: PRIV 0x02, with no effect (R374). -/
def State.refuseQ (s : State) (n : Nat) : State :=
  ((s.modEngine n (fun e => { e with sysop := none })).takeTrap (.qe n) (tinfo 2 2) (s.engineRec n).ctl.len).atBoundary n

/-- Marks a system operation that has committed and waits for a switch to end (R378). -/
def switching (v : W64) : W64 := v ||| BitVec.ofNat 64 (2 ^ 63)

/-! ### The instructions (R373-R376) -/

/-- The partition an engine acts on. -/
def enginePart : M (Nat × Nat × Partition) := do
  match ← unit with
  | .qe n =>
    match (← get).partOfEngine n with
    | some (pi, p) => pure (n, pi, p)
    | none => trap 2 1
  | _ => throw (Stop.fault .noUnit)

/-- RDSYS (R374). -/
def rdsysOp : M Unit := do
  let sh : Shape := { b := 0, c := 0 }
  insn .rdsys sh (do
    let v ← fetch sh .int
    let (_, _, p) ← enginePart
    let sel := (v.a 0).bits
    trapIf (selBad sel false) 2 3
    let s ← get
    trapIf (!s.selCtxOk p sel false) 2 1
    writeD 1 (fun _ => heldVal ⟨s.sysRead p sel, (v.a 0).poison⟩))

/-- Whether a write of context control asks for nothing beyond the word itself: it does not change v, or sets none of kill, rreq and
preq (R368, R389). -/
def State.plainWrite (s : State) (v x : W64) : Bool :=
  Sel.group v == 4 &&
    ((Sel.word v == 0 && (s.context (Sel.ctx v)).v == x.getLsbD 0) || (Sel.word v == 5 && bits x.toNat 6 4 == 0))

/-- WRSYS (R374): it stages, or commits as an event of its own and waits for it. -/
def wrsysOp : M Unit :=
  insn .wrsys qAB (do
    let v ← fetch qAB .int
    let (n, pi, p) ← enginePart
    let sel := (v.a 0).bits
    let x := (v.b 0).bits
    trapIf (selBad sel true) 2 3
    trapIf (!(← get).selCtxOk p sel (x.getLsbD 0)) 2 1
    if Sel.stages sel then
      modify (fun s => s.modEngine n (fun e => { e with staged := e.staged.put (sel.toNat % 2 ^ 32) x }))
    else
      trapIf ((← get).sysRefused n p sel x) 2 2
      if (← get).plainWrite sel x then modify (fun s => s.sysWrite n pi p sel x)
      else
        modify (fun s => s.modEngine n (fun e => { e with sysop := some (sel, x) }))
        stayQ)

/-- Bytes of a page by the size code of a fault record (R152). -/
def pageBytes (code : Nat) : Nat := if code = 0 then 2 ^ 16 else if code = 1 then 2 ^ 21 else 2 ^ 30

/-- The page of log2 size sz that holds an IA, when it has a byte in [a, a + b). -/
def pageMeets (a b ia sz : Nat) : Option (Nat × Nat) :=
  let lo := ia / 2 ^ sz * 2 ^ sz
  if lo < a + b ∧ a < lo + 2 ^ sz then some (lo, lo + 2 ^ sz) else none

/-- The IA ranges of the pages of a partition with a byte in [a, a + b): whole 64 KiB units, and the pages of the leaves that walk
units hold, that slice and L1 lines were filled under, and that requests under way to a peer were sent under (R151, R376). -/
def State.pagesIn (s : State) (pi a b : Nat) : List (Nat × Nat) :=
  (a / 2 ^ 16 * 2 ^ 16, (a + b + 2 ^ 16 - 1) / 2 ^ 16 * 2 ^ 16) ::
    (s.walkc.filterMap (fun w => if walkPart w.1 = pi then pageMeets a b (walkIA w.1) w.2.2 else none) ++
      s.l2.filterMap (fun x => pageMeets a b (32 * x.1) x.2.page) ++
      s.cores.flatMap (fun c => c.2.l1.filterMap (fun l => pageMeets a b (64 * l.1) l.2.page)) ++
      s.reqs.filterMap (fun q => match q.2.phase with
        | .remote _ _ _ _ | .remoteParked _ _ _ => pageMeets a b q.2.ia q.2.page
        | _ => none))

/-- The operands of WBR and INVR, checked, after their full FENCE, which takes the oldest deferred fault of the engine, since it names every
class (R235, R375, R376). -/
def rangeFence : M (Nat × Nat × Nat × Partition) := do
  let v ← fetch qAB .int
  let (_, pi, p) ← enginePart
  let a := (v.a 0).bits.toNat
  let b := (v.b 0).bits.toNat
  trapIf (b != 0 && !p.inIA a (a + b)) 2 1
  waitUnless ((← get).fenced (← unit) 0x7F 0) (.counters 0x7F true)
  takeDeferred (fun _ => true)
  waitUnless (b == 0 || (← get).canClean ((← get).pagesIn pi a b)) .room
  pure (a, b, pi, p)

/-- WBR (R375). -/
def wbrOp : M Unit :=
  insn .wbr qAB (do
    let (a, b, _, _) ← rangeFence
    if b = 0 then pure ()
    else modify (fun s => s.l2.foldl (fun s x =>
      if a / 64 ≤ x.1 / 2 ∧ x.1 / 2 ≤ (a + b - 1) / 64 then s.writeBack x.1 else s) s))

/-- The size of a page that something is parked on, from its fault record. -/
def State.parkedBytes (s : State) (page : Nat) : Nat :=
  s.frecs.foldl (fun n f => if f.page = page then max n (pageBytes f.size) else n) (2 ^ 16)

/-- Whether a page that something is parked on has a byte in a range. -/
def State.pageIn (s : State) (a b page : Nat) : Bool := decide (page < a + b ∧ a < page + s.parkedBytes page)

/-- Units and asynchronous operations waiting on a page in a range try again (R153). -/
def State.wakeParked (s : State) (a b : Nat) : State :=
  let go (c : Ctl) : Ctl :=
    match c.status with
    | .waiting (.page page) _ => if s.pageIn a b page then { c with status := .ready, readySince := s.now } else c
    | _ => c
  { s with exs := s.exs.map (fun x => (x.1, { x.2 with ctl := go x.2.ctl })),
           aps := s.aps.map (fun x => (x.1, { x.2 with ctl := go x.2.ctl })),
           engines := s.engines.map (fun x => (x.1, { x.2 with ctl := go x.2.ctl })),
           parkedOps := s.parkedOps.filter (fun w => !s.pageIn a b w.2) }

/-- Outstanding fault records that one walk unit holds (R152). -/
def unitRecords : Nat := 256

/-- The fault records that their walk units hold: the oldest 256 of each. The requests of the others wait parked for a free one, and
none of them is posted yet (R152). -/
def heldRecords (l : List FaultRec) : List FaultRec :=
  (l.foldl (fun (a : List FaultRec × Assoc Nat) f =>
    let n := a.2.get f.unit 0
    if n < unitRecords then (a.1 ++ [f], a.2.put f.unit (n + 1)) else a) ([], [])).1

/-- The fault records of the pages in a range close (R152): one that stands in its ring is done with; one that its walk unit
holds and that is still to be posted stays until it has been, for no record is dropped. -/
def State.closeRecords (s : State) (a b : Nat) : State :=
  let held := heldRecords s.frecs
  { s with frecs := s.frecs.filterMap (fun f =>
      if s.pageIn a b f.page then (if f.slot.isNone ∧ f ∈ held then some { f with closed := true } else none) else some f) }

/-- A load that waits for a peer: what it brings is kept nowhere (R151, R258). -/
def Req.unkept (r : Req) : Req :=
  match r.phase with
  | .remote _ _ _ _ | .remoteParked _ _ _ => { r with cache := 2 }
  | _ => r

/-- INVR over a range of a partition (R376). What a peer load that was sent under a covered page brings is not cached; a parked request is
injected again (R153, R378); an access to a structure that was held is tried again (R426). -/
def State.invalidate (s : State) (pi a b : Nat) : State :=
  let ps := s.pagesIn pi a b
  let hit (x n : Nat) : Bool := ps.any (fun r => decide (r.1 < x + n ∧ x < r.2))
  let s := (s.l2.filter (fun x => hit (32 * x.1) 32)).foldl (fun s x => s.dropSector x.1) s
  let s := { s with
    cores := s.cores.map (fun (c : Nat × Core) => (c.1, { c.2 with l1 := c.2.l1.filter (fun l => !hit (64 * l.1) 64) })),
    walkc := s.walkc.filter (fun w => !(walkPart w.1 == pi && hit (walkIA w.1) (2 ^ 16))),
    reqs := s.reqs.map (fun (q : Nat × Req) => match q.2.phase with
      | .parked page _ => (q.1, if s.pageIn a b page then { q.2 with phase := .sent, gen := s.genOf q.2 } else q.2)
      | _ => (q.1, if hit q.2.ia q.2.size then q.2.unkept else q.2)),
    ctxs := s.ctxs.map (fun (c : Nat × Context) =>
      (c.1, { c.2 with stuck := c.2.stuck.filter (fun k => !decide (k.1 < a + b ∧ a < k.2.1)) })) }
  let s := s.wakeParked a b
  (s.closeRecords a b).serveAgain (fun i => i.page.elim false (s.pageIn a b))

/-- INVR (R376). -/
def invrOp : M Unit :=
  insn .invr qAB (do
    let (a, b, pi, _) ← rangeFence
    if b = 0 then pure () else modify (fun s => s.invalidate pi a b))

/-! ### Commits as events (R366-R368, R377, R378, R389, R390) -/

/-- A system operation of an engine that a test of its selector and value picks takes effect: a refusal found only now takes
PRIV 0x02. -/
def State.sysEvent (s : State) (n : Nat) (pick : W64 → W64 → Bool) : Option State :=
  match s.engines.find n, s.partOfEngine n with
  | some e, some (pi, p) =>
    match e.sysop with
    | some (v, x) =>
      if !pick v x || !s.running e.ctx || v.getLsbD 63 then none
      else if s.sysRefused n p v x then
        some (s.refuseQ n)
      else if Sel.group v = 2 then
        if (p.domains.getD (Sel.index v) {}).busy then none
        else
          let t := s.sysWrite n pi p v x
          if ((t.parts.find pi).elim false (fun p => (p.domains.getD (Sel.index v) {}).busy)) then
            some (t.modEngine n (fun e => { e with sysop := some (switching v, x) }))
          else some (t.finishQ n)
      else some ((s.sysWrite n pi p v x).finishQ n)
    | none => none
  | _, _ => none

/-- Picks the operations of a group and word. -/
def isWord (g w : Nat) (v _x : W64) : Bool := Sel.group v == g && Sel.word v == w

/-- Whether a request is one that a slice of a partition accepted before the switch of a domain in progress (R378). -/
def State.acceptedBefore (s : State) (pi : Nat) (d : Domain) (r : Req) : Bool :=
  (r.phase == .walking || r.phase == .snoop) && d.hadIA r.ia && d.gen != r.gen && (s.partOf r.ctx).elim false (fun q => q.1 == pi)

/-- DOMAIN_SWITCH_COMPLETE (R378): no request accepted before it can be finished any more, and one that waits for an earlier request is
injected again; sectors whose slice no longer owns them are written back and dropped, held requests go on, and the WRSYS completes. -/
def State.switchComplete (s : State) (pi i : Nat) : Option State :=
  match s.parts.find pi with
  | none => none
  | some p =>
    let d := p.domains.getD i {}
    if !d.busy then none
    else if s.reqs.any (fun q => s.acceptedBefore pi d q.2 && (q.2.phase == .snoop || (s.walkRequest q.1 false).isSome)) then none
    else
      let moved (x : Nat × L2Sector) : Bool :=
        p.inIA (32 * x.1) (32 * x.1 + 32) && match p.domainOf (32 * x.1) with
          | some d => d.slice (32 * x.1) != x.2.slice
          | none => true
      if s.l2.any (fun x => moved x && s.mustKeep x.2) then none else
      let s := { s with reqs := s.reqs.map (fun (q : Nat × Req) =>
        (q.1, if s.acceptedBefore pi d q.2 then { q.2 with phase := .nacked } else q.2)) }
      let s := (s.l2.filter moved).foldl (fun s x => s.dropSector x.1) s
      let s := s.modPart pi (fun p => { p with domains := p.domains.modify i (fun d => { d with busy := false, was := none }) })
      let s := s.serveAgain (fun q => q.part == pi && q.page.isNone)
      some (s.engines.foldl (fun s e =>
        match e.2.sysop with
        | some (v, _) =>
          if v.getLsbD 63 && Sel.index v == i && decide (Desc.qebase p.desc ≤ e.1 ∧ e.1 < Desc.qebase p.desc + Desc.qecount p.desc) then
            s.finishQ e.1
          else s
        | none => s) s)

/-! ### Structures the part itself writes (R426) -/

/-- Why the part cannot reach a structure now. -/
inductive Blocked where
  /-- Held already; or its line moves to another slice, or waits for the host (R378, R379). -/
  | busy
  /-- Its walk failed in the page [lo, hi): it is held from now on until an INVR covers the page. -/
  | page (lo hi : Nat) (write : Bool)
  deriving DecidableEq, Repr

/-- How the part reaches an IA of a structure of a context. -/
def State.structAt (s : State) (ctx ia : Nat) (write : Bool) : Except Blocked Via :=
  match s.partOf ctx with
  | none => .error .busy
  | some (_, p) =>
    let bad (sz : Nat) : Except Blocked Via := .error (.page (ia / 2 ^ sz * 2 ^ sz) (ia / 2 ^ sz * 2 ^ sz + 2 ^ sz) write)
    if (s.context ctx).stuck.any (fun k => k.2.2 == write && decide (k.1 ≤ ia ∧ ia < k.2.1)) ||
      (p.domainOf ia).elim false (·.moves ia) || (write && s.hostMay ia 1) then .error .busy
    else match s.walk p ia with
      | .leaf e sz =>
        if Leaf.cls e = 0 ∧ Leaf.state e = 0 ∧ ¬(write ∧ Leaf.ro e) then .ok ⟨e, Leaf.frame e + ia % 2 ^ sz, sz, p.sliceOf ia, 0⟩
        else bad sz
      | .absent sz => bad sz
      | .malformed => bad 16

/-- The access of an event to a structure of a context: where its walk fails it is held from then on (R426). -/
def State.structEvent (s : State) (ctx : Nat) (x : Except Blocked State) : Option State :=
  match x with
  | .ok t => some t
  | .error .busy => none
  | .error (.page lo hi write) => some (s.modCtx ctx (fun c => { c with stuck := (lo, hi, write) :: c.stuck }))

/-- Bytes of a structure written, sector by sector; nothing while any of it is held. -/
def State.structWrite (s : State) (ctx ia v : Nat) (n : Nat) : Except Blocked State :=
  (sectorParts ia n).foldlM (fun s q =>
    (s.structAt ctx (ia + q.1) true).map (fun x =>
      s.writeL2 (ia + q.1) q.2 (v / 2 ^ (8 * q.1) % 2 ^ (8 * q.2)) false x)) s

/-- Bytes of a structure read; nothing while any of it is held. -/
def State.structRead (s : State) (ctx ia : Nat) (n : Nat) : Except Blocked (Nat × State) :=
  (sectorParts ia n).foldlM (fun (a : Nat × State) q =>
    (a.2.structAt ctx (ia + q.1) false).map (fun x =>
      let r := a.2.readL2 (ia + q.1) q.2 x
      (a.1 + r.1.1 * 2 ^ (8 * q.1), r.2))) (0, s)

/-- The side field of a trap record. -/
def sideNo : Side → Nat
  | .exec => 0
  | .access => 1
  | .queue => 2

/-- A trap record as it stands in the ring (R386). -/
def TrapRec.bits (r : TrapRec) : Nat :=
  let i := r.info
  let b (c : Bool) (k : Nat) : Nat := if c then 2 ^ k else 0
  i.code.toNat + i.sub.toNat * 2 ^ 8 + i.flags.toNat * 2 ^ 16 + sideNo r.side * 2 ^ 22 + b i.done 24 + b i.deferred 25 +
    b i.vpois 26 + r.ctx % 256 * 2 ^ 32 + i.port.getD 255 % 256 * 2 ^ 40 + i.handle.toNat * 2 ^ 48 +
    i.lane.getD 255 % 256 * 2 ^ 56 + r.ticket.toNat * 2 ^ 64 + r.pc.toNat * 2 ^ 128 + i.oaddr.toNat * 2 ^ 192 +
    i.loc.toNat * 2 ^ 256 + i.pos.toNat * 2 ^ 320 + i.chunk.toNat * 2 ^ 352 + i.osub.toNat * 2 ^ 360 +
    r.tflags.toNat * 2 ^ 368 + r.more.toNat * 2 ^ 376 + i.value.toNat * 2 ^ 384 + r.sclock % 2 ^ 64 * 2 ^ 448 +
    r.sgen % 2 ^ 16 * 2 ^ 512 + r.place % 2 ^ 18 * 2 ^ 528

/-- TRAP_RECORD_POST (R387): the oldest record held for a context is written to its trap ring. -/
def State.postTrap (s : State) (ctx : Nat) : Option State :=
  let c := s.context ctx
  match c.traps with
  | [] => none
  | r :: rest =>
    if c.trlog = 0 ∨ (c.trtail - c.trhead).toNat = 2 ^ c.trlog then none
    else
      let ia := c.trbase * 128 + 128 * (c.trtail.toNat % 2 ^ c.trlog)
      s.structEvent ctx ((s.structWrite ctx ia r.bits 128).map (fun s =>
        let s := s.modCtx ctx (fun c => { c with traps := rest, trtail := c.trtail + 1, ntrap := c.ntrap + 1 })
        if c.trtail = c.trhead then { s with irqs := c.tvec :: s.irqs } else s))

/-- A fault record as it stands in the ring (R152). -/
def FaultRec.bits (f : FaultRec) : Nat :=
  f.page % 2 ^ 52 + f.cause * 2 ^ 52 + f.ctx % 256 * 2 ^ 56 + f.count * 2 ^ 64 + f.size * 2 ^ 96 + (if f.wr then 2 ^ 98 else 0)

/-- The first element with a property replaced. -/
def replaceFirst {α : Type} (p : α → Bool) (f : α → α) : List α → List α
  | [] => []
  | x :: l => if p x then f x :: l else x :: replaceFirst p f l

/-- Where the fault record number n of a context stands. -/
def Context.faultAt (c : Context) (n : W32) : Nat := c.frbase * 256 + 32 * (n.toNat % 2 ^ c.frlog)

/-- FAULT_RECORD_POST (R152): the oldest fault record of a context that its walk unit holds and that is not yet written goes to its
fault ring; one that an INVR has closed is then done with. With none left, a record there whose count has grown is written again,
unless its place has been taken since. -/
def State.postFault (s : State) (ctx : Nat) : Option State :=
  let c := s.context ctx
  let todo (f : FaultRec) : Bool := f.ctx == ctx && f.slot.isNone
  let grown (f : FaultRec) : Bool :=
    f.ctx == ctx && f.stale && f.slot.elim false (fun n => decide ((c.frtail - n).toNat ≤ 2 ^ c.frlog))
  match (heldRecords s.frecs).find? todo with
  | some f =>
    if c.frlog = 0 ∨ (c.frtail - c.frhead).toNat = 2 ^ c.frlog then none
    else
      s.structEvent ctx ((s.structWrite ctx (c.faultAt c.frtail) f.bits 32).map (fun s =>
        let s := { s with frecs :=
          if f.closed then s.frecs.erase f else replaceFirst (· == f) (fun f => { f with slot := some c.frtail }) s.frecs }
        let s := s.modCtx ctx (fun c => { c with frtail := c.frtail + 1 })
        if c.frtail = c.frhead then { s with irqs := c.fvec :: s.irqs } else s))
  | none =>
    match s.frecs.find? grown with
    | none => none
    | some f =>
      s.structEvent ctx ((s.structWrite ctx (c.faultAt (f.slot.getD 0)) f.bits 32).map (fun s =>
        { s with frecs := replaceFirst grown (fun f => { f with stale := false }) s.frecs }))

/-! ### RESUMET (R392-R394) -/

/-- The stopped thread of a context under a ticket, and its record. -/
def State.stoppedUnder (s : State) (ctx : Nat) (ticket : W64) : Option (Agent × TrapRec) :=
  let pick (u : Agent) (st : Status) : Option (Agent × TrapRec) :=
    match st with
    | .stopped r => if r.ctx == ctx && r.ticket == ticket then some (u, r) else none
    | _ => none
  match s.exs.findSome? (fun x => pick (.ex (x.1 / 2048) (x.1 % 2048)) x.2.ctl.status) with
  | some r => some r
  | none => s.aps.findSome? (fun x => pick (.ap (x.1 / 128) (x.1 % 128)) x.2.ctl.status)

/-- A suspended MMA at which a thread trapped is abandoned (R123, R393): by .skip, by .kill, and by .jump wherever it goes (DEDUCED,
entry 28). -/
def State.leaveMma (s : State) (u : Agent) : State :=
  match u with
  | .ex tm tid => if (s.teams.find tm).elim false (fun t => t.latch.elim false (fun l => l.suspended.has tid)) then s.abandon tm else s
  | _ => s

/-- .wreg (R393): a name of the stopped thread written, a poisoned value as zero bits under the tag (R79); false where the name is not
writable. -/
def wregOp (u : Agent) (x8 : BitVec 8) (x : Val) : M Bool := do
  let n := x8.toNat % 128
  let v := x.bits
  let bad := x.poison
  match u with
  | .ex tm tid =>
    if x8.getLsbD 7 then
      if 7 ≤ n then pure false
      else do
        modify (fun s => s.modEx tm tid (fun x => x.setF n (v.getLsbD 0) bad))
        pure true
    else if 96 ≤ n then pure false
    else do
      let _ ← writeRegs tm tid [(n, loW v)] bad false
      pure true
  | .ap tm sp =>
    if x8.getLsbD 7 then
      if 7 ≤ n then pure false
      else do
        modify (fun s => s.modAp tm sp (fun x => { x with m := x.m.set n ⟨v.setWidth 16, bad⟩ }))
        pure true
    else if n < 32 then do
      modify (fun s => s.modAp tm sp (fun x => { x with a := x.a.modify n (fun r => setLanes r (List.range 16) (fun _ => ⟨v, bad⟩)) }))
      pure true
    else if n < 48 then do
      modify (fun s => s.modAp tm sp (fun x => { x with s := x.s.set (n - 32) (v, bad) }))
      pure true
    else pure false
  | .qe _ => pure false

/-- The effect of an op on the thread found (R393): its status. A thread that goes on sees what the release of RESUMET covers. -/
def resumeOp (op : Nat) (x8 : BitVec 8) (x : Val) (u : Agent) (r : TrapRec) : M Nat := do
  let v := x.bits
  match op with
  | 0 => pure (if ← wregOp u x8 x then 0 else 3)
  | 1 =>
    if r.info.done then pure 2
    else do
      modify (fun s => (s.seenBy u).resume u r 1 r.pc.toNat)
      pure 0
  | 2 =>
    if r.len0 = 3 then pure 2
    else do
      modify (fun s => ((s.leaveMma u).seenBy u).resume u r 2 ((r.pc.toNat + 4 * (r.len0.toNat + 1)) % 2 ^ 64))
      pure 0
  | 3 =>
    if r.info.code ≠ 0x30 ∨ r.info.deferred then pure 2
    else do
      modify (fun s => ((s.seenBy u).resume u r 3 r.pc.toNat).modCtl u (fun c =>
        { c with repl := c.repl.put (replKey (r.info.port.getD 0) r.info.pos.toNat) x }))
      pure 0
  | 4 =>
    if v.toNat % 4 ≠ 0 then pure 5
    else do
      modify (fun s => ((s.leaveMma u).seenBy u).resume u r 4 ((s.baseOf u + v.toNat % 2 ^ 32) % 2 ^ 64))
      pure 0
  | _ => do
    modify (fun s => ((s.leaveMma u).modCtl u (fun c => { c with deferred := [], skip := none })))
    (match u with
      | .ex tm tid => modify (fun s => s.exitEx tm tid)
      | .ap tm sp => modify (fun s => s.exitAp tm sp)
      | .qe _ => pure ())
    pure 0

/-- RESUMET (R393). A poisoned ticket or value acts as zero and poisons the status (R79; DEDUCED, entry 19). -/
def resumetOp (i : Instr) (op : Nat) : M Unit := do
  let o ← ops
  let sh : Shape := { b := if op = 0 ∨ op = 3 ∨ op = 4 then 1 else 0, c := 0 }
  insn i sh (do
    let v ← fetch sh .int
    release
    let s ← get
    let ctx := s.ctxOf (← unit)
    let st ← (if !s.running ctx then pure 4
      else match s.stoppedUnder ctx (v.a 0).bits with
        | none => pure 1
        | some (u, r) => resumeOp op o.x8 (v.b 0) u r)
    writeD 1 (fun _ => heldVal ⟨BitVec.ofNat 64 st, (v.a 0).poison || (v.b 0).poison⟩))

/-! ### Meanings -/

/-- MOVS, reading (R303). -/
def execMovsRead (s : State) : Host.Outcome State Fault Refusal := meaning movsReadOp s

/-- MOVS, writing (R303). -/
def execMovsWrite (s : State) : Host.Outcome State Fault Refusal := meaning movsWriteOp s

/-- RDSYS (R374). -/
def execRdsys (s : State) : Host.Outcome State Fault Refusal := meaning rdsysOp s

/-- WRSYS (R374). -/
def execWrsys (s : State) : Host.Outcome State Fault Refusal := meaning wrsysOp s

/-- WBR (R375). -/
def execWbr (s : State) : Host.Outcome State Fault Refusal := meaning wbrOp s

/-- INVR (R376). -/
def execInvr (s : State) : Host.Outcome State Fault Refusal := meaning invrOp s

/-- RESUMET .wreg (R393). -/
def execResumetWreg (s : State) : Host.Outcome State Fault Refusal := meaning (resumetOp .resumetWreg 0) s

/-- RESUMET .retry (R393). -/
def execResumetRetry (s : State) : Host.Outcome State Fault Refusal := meaning (resumetOp .resumetRetry 1) s

/-- RESUMET .skip (R393). -/
def execResumetSkip (s : State) : Host.Outcome State Fault Refusal := meaning (resumetOp .resumetSkip 2) s

/-- RESUMET .repl (R393). -/
def execResumetRepl (s : State) : Host.Outcome State Fault Refusal := meaning (resumetOp .resumetRepl 3) s

/-- RESUMET .jump (R393). -/
def execResumetJump (s : State) : Host.Outcome State Fault Refusal := meaning (resumetOp .resumetJump 4) s

/-- RESUMET .kill (R393). -/
def execResumetKill (s : State) : Host.Outcome State Fault Refusal := meaning (resumetOp .resumetKill 5) s

/-- TRAP_RECORD_POST (R387): a context. -/
def execTrapRecordPost (s : State) : Host.Outcome State Fault Refusal := event1 State.postTrap s

/-- FAULT_RECORD_POST (R152): a context. -/
def execFaultRecordPost (s : State) : Host.Outcome State Fault Refusal := event1 State.postFault s

/-- RANGE_REGISTER_COMMIT (R366): an engine. -/
def execRangeRegisterCommit (s : State) : Host.Outcome State Fault Refusal :=
  event1 (fun s n => s.sysEvent n (isWord 1 0)) s

/-- DOMAIN_COMMIT (R377): an engine. -/
def execDomainCommit (s : State) : Host.Outcome State Fault Refusal := event1 (fun s n => s.sysEvent n (isWord 2 8)) s

/-- DOMAIN_SWITCH_COMPLETE (R378): a partition and a domain. -/
def execDomainSwitchComplete (s : State) : Host.Outcome State Fault Refusal := event2 State.switchComplete s

/-- EXPORT_COMMIT (R367): an engine. -/
def execExportCommit (s : State) : Host.Outcome State Fault Refusal := event1 (fun s n => s.sysEvent n (isWord 3 0)) s

/-- PTROOT_WRITE (R361): an engine. -/
def execPtrootWrite (s : State) : Host.Outcome State Fault Refusal := event1 (fun s n => s.sysEvent n (isWord 5 11)) s

/-- CONTEXT_CREATE (R368): an engine. -/
def execContextCreate (s : State) : Host.Outcome State Fault Refusal :=
  event1 (fun s n => s.sysEvent n (fun v x => isWord 4 0 v x && x.getLsbD 0)) s

/-- CONTEXT_DESTROY (R368): an engine. -/
def execContextDestroy (s : State) : Host.Outcome State Fault Refusal :=
  event1 (fun s n => s.sysEvent n (fun v x => isWord 4 0 v x && !x.getLsbD 0)) s

/-- FAULT_RING_SET (R368): an engine. -/
def execFaultRingSet (s : State) : Host.Outcome State Fault Refusal := event1 (fun s n => s.sysEvent n (isWord 4 1)) s

/-- FRHEAD_WRITE (R368): an engine. -/
def execFrheadWrite (s : State) : Host.Outcome State Fault Refusal := event1 (fun s n => s.sysEvent n (isWord 4 2)) s

/-- TRAP_RING_SET (R389): an engine. -/
def execTrapRingSet (s : State) : Host.Outcome State Fault Refusal := event1 (fun s n => s.sysEvent n (isWord 4 3)) s

/-- TRHEAD_WRITE (R389): an engine. -/
def execTrheadWrite (s : State) : Host.Outcome State Fault Refusal := event1 (fun s n => s.sysEvent n (isWord 4 4)) s

/-- SAVE_AREA_SET (R389): an engine. -/
def execSaveAreaSet (s : State) : Host.Outcome State Fault Refusal := event1 (fun s n => s.sysEvent n (isWord 4 6)) s

end Sys2Proof.Machine
end

