-- ==== Sys2Proof/Machine/Preempt.lean ====
section
/-! DEFINITION. Pre-emption (R398-R400, R254, R284, R122), the save area (R402, R403), late replies (R401), restore (R404), and the
killing and failing of contexts (R395, R408). -/

namespace Sys2Proof.Machine

/-! ### The start of a pre-emption (R398, R350) -/

/-- The plans of a context that still wait for a slot are gone: their instructions are executed again (R399). -/
def State.dropQueued (s : State) (c : Nat) : State :=
  { s with plans := s.plans.filter (fun p => !(p.2.ctx == c && p.2.stage == .queued)) }

/-- Plans of a context stop at their chunk boundary, with state 2 and fcode 0x95 (R284); one that has ended before keeps its end. -/
def State.stopPlans (s : State) (c : Nat) : State :=
  let s := s.dropQueued c
  (s.plans.filter (fun p => p.2.ctx == c)).foldl (fun s p =>
    match p.2.stage with
    | .ending st f code => s.planEnd p.1 p.2 st f code
    | _ => s.planEnd p.1 p.2 2 (some 0x95) 0x95) s

/-- Proposals of a context are withdrawn: what they hold is free again. -/
def State.withdraw (s : State) (c : Nat) : State :=
  let mine (p : Nat × Proposal) : Bool := (s.grids.find p.2.gid).elim false (fun g => g.ctx == c)
  let s' := (s.props.filter mine).foldl (fun t p =>
    t.freeSlots (p.2.place.flatMap (placeSlots (LRec.pair (s.propRecord p.2))))) s
  { s' with props := s.props.filter (fun p => !mine p) }

/-- The hung teams of a context: grid id and sr.team (R350). -/
def State.hungTeams (s : State) (c : Nat) : List (Nat × Nat) :=
  (s.teams.filter (fun t => t.2.ctx == c && t.2.hung)).map (fun t => (t.2.gid % 2 ^ 32, t.2.team % 2 ^ 16))

/-- The chunks of a context's MMAs whose operands are all present complete; one that still waits for an operand is abandoned (R122). -/
def State.finishChunks (s : State) (c : Nat) : State :=
  s.cores.foldl (fun s k =>
    match k.2.queue with
    | [] => s
    | op :: _ =>
      if op.insn.op = .mma ∧ op.ready ∧ (s.teams.find op.team).elim false (fun t => t.ctx == c) then
        match s.mmaChunk k.1 with
        | some t => if (t.core k.1).queue.head?.elim false (fun q => q.id == op.id && q.chunk == op.chunk + 1) then t else s
        | none => s
      else s) s

/-- A running context is pre-empted (R398): its units halt. -/
def State.preempt (s : State) (c : Nat) (hung : Bool) : State :=
  let l := s.hungTeams c
  let s := s.finishChunks c
  let s := s.modCtx c (fun k => { k with cstate := 2, hung, hangs := l.take 64, nhang := l.length, haltAt := s.now })
  (s.withdraw c).stopPlans c

/-- A pre-emption asked for (R398): while the context is restoring it waits. -/
def State.askPreempt (s : State) (c : Nat) : State :=
  let k := s.context c
  if k.cstate = 1 then s.preempt c false
  else if k.cstate = 4 then s.modCtx c (fun k => { k with preqPending := true })
  else s

/-- Whether a context restores or has been asked to (R404): a pre-emption asked for by the same write waits with it. -/
def State.askPreemptWith (s : State) (c : Nat) (x : W64) : State := if bit x.toNat 4 then s.askPreempt c else s

/-- KETTLE_FIRE (R350). -/
def State.kettleFire (s : State) (c : Nat) : Option State :=
  if s.running c ∧ s.hungTeams c ≠ [] then some (s.preempt c true) else none

/-- A write of context word 5 that asks for something (R389): it commits, the WRSYS completes, and the request acts. -/
def State.ctlEvent (s : State) (n : Nat) (pick : W64 → Bool) (f : State → Nat → W64 → Option State) : Option State :=
  match (s.engines.find n).bind (·.sysop) with
  | some (v, x) => (s.sysEvent n (fun v x => isWord 4 5 v x && pick x)).bind (fun t => f t (Sel.ctx v) x)
  | none => none

/-! ### Requests at the halt (R400) -/

/-- Whether a request is idempotent: it only reads. -/
def Req.idempotent (r : Req) : Bool := !r.once

/-- Whether an asynchronous operation owns a request. -/
def Req.engineOwned (r : Req) : Bool :=
  match r.owner with
  | .eng _ => true
  | _ => false

/-- Whether a write into a core's store is still to be performed before the store is saved (R399). -/
def State.localLeft (s : State) (c : Nat) : Bool :=
  s.reqs.any (fun q => q.2.ctx == c && !globalSpace q.2.space && q.2.open && q.2.writes && s.inOrder q.1 q.2) ||
    s.msgs.any (fun m => m.2.ctx == c && ((s.msgArrival m.1).isSome || (s.msgDeliver m.1).isSome))

/-! ### The save area (R402, R426) -/

/-- IA of an offset in a context's save area. -/
def State.areaIA (s : State) (c off : Nat) : Nat := (s.context c).sabase * 2 ^ 20 + off

/-- Offset of region i of the core list. -/
def regionOff (i : Nat) : Nat := 2 ^ 20 * (i + 1)

/-- Bytes of the part's own layout in save number k. -/
def freeBytes (k off n : Nat) : List Nat := (List.range n).map (fun i => (Config.imageByte k (off + i)).toNat)

/-- Sectors of the area written, each with a value. -/
def State.putSectors (s : State) (c off n : Nat) (f : Nat → Nat) : Except Blocked State :=
  (List.range (n / 32)).foldlM (fun s i => s.structWrite c (s.areaIA c (off + 32 * i)) (f i) 32) s

/-- Bytes of the part's own layout written. -/
def State.putFree (s : State) (c k off n : Nat) : Except Blocked State :=
  s.putSectors c off n (fun i => (freeBytes k (off + 32 * i) 32).foldr (fun b v => b + 256 * v) 0)

/-- A core's store, from a key, written into the area. -/
def State.putImage (s : State) (c off key n : Nat) : Except Blocked State :=
  s.putSectors c off n (fun i => (s.readStore (key + 32 * i) 32).1)

/-- A core's store brought from the area, with the poison that was kept at another key. -/
def State.getImage (s : State) (c off kept key n : Nat) : Except Blocked State :=
  (List.range (n / 4)).foldlM (fun s i =>
    (s.structRead c (s.areaIA c (off + 4 * i)) 4).map (fun x =>
      x.2.writeStore (key + 4 * i) 4 x.1 (poisonIn s.poison (kept + 4 * i) 4))) s

/-- Bytes of the area. -/
def State.areaBytes (s : State) (c off n : Nat) : Except Blocked (List Nat) :=
  (List.range (n / 32)).foldlM (fun (l : List Nat) i => (s.structRead c (s.areaIA c (off + 32 * i)) 32).map (fun x => l ++ leBytes x.1 32)) []

/-- What the CRC of the header covers: offset and length of each control image, the engine states, the grid-wide state. -/
def crcRanges (ncores : Nat) : List (Nat × Nat) :=
  (List.range ncores).map (fun i => (regionOff i + 0x8C000, 409600)) ++ [(0x10000, 32768), (0x40000, 786432)]

/-- The header (R402). -/
def headerBits (sgen fid : Nat) (hung : Bool) (crc ncores nhang nlog : Nat) : Nat :=
  1 + sgen % 2 ^ 16 * 2 ^ 16 + fid % 2 ^ 12 * 2 ^ 32 + (if hung then 2 ^ 44 else 0) + crc % 2 ^ 64 * 2 ^ 64 + ncores % 2 ^ 16 * 2 ^ 128 +
    nhang % 2 ^ 16 * 2 ^ 144 + nlog % 2 ^ 32 * 2 ^ 160

/-! ### The reply log (R403) -/

/-- The unit a reply belongs to. -/
def loggedUnit : Logged → Option Agent
  | .word (.sreg tm sp lane _ _) _ _ => some (.ex tm (16 * sp + lane))
  | .word (.apS tm sp _) _ _ => some (.ap tm sp)
  | .word (.push tm tid _) _ _ => some (.ex tm tid)
  | .word (.qW n _) _ _ => some (.qe n)
  | .word _ _ _ => none
  | .spad u _ _ => some u
  | .req r => match r.owner with
    | .unit u => some u
    | .pat k => some (.ap (k / 16 / 128) (k / 16 % 128))
    | .eng _ => none

/-- Region of a reply's entry: 0 the engines' log, i + 1 core i of the core list. -/
def State.logRegion (s : State) (c : Nat) (l : Logged) : Nat :=
  match loggedUnit l with
  | some (.qe _) | none => 0
  | some u => match (s.teamOf u).bind (·.home) with
    | some (core, _) =>
      let half := (s.teamOf u).elim 0 (fun t => t.half (stripOf u))
      (s.context c).corelist.idxOf (core + half) + 1
    | none => 0

/-- Register names of a landing place, as the entry holds them. -/
def State.logName (s : State) (l : Landing) (u : Option Agent) : Nat :=
  match l with
  | .sreg tm sp _ lo _ => ((s.strip tm sp).regs.find? (fun r => r.id == lo)).elim 0 (·.name)
  | .apS _ _ reg => 32 + reg
  | .qW _ reg => reg
  | .port key _ _ | .line key _ => key % 16
  | .push _ _ n => n
  | .block tm sp _ => match (s.aps.find (stripKey tm sp)).bind (·.blk) with
    | some b => (match b.insn.args.d with
      | .reg n _ => n.code.toNat
      | _ => 0)
    | none => 0
  | .none => match u with
    | some _ => 0
    | none => 0

/-- The kind of an entry. -/
def loggedKind : Logged → Nat
  | .word _ _ _ => 4
  | .spad _ _ _ => 5
  | .req r => if !r.returns then 3 else match r.landing with
    | .port _ _ _ | .line _ _ => 2
    | _ => 1

/-- The entry of a reply. -/
def State.logBits (s : State) (l : Logged) : Nat :=
  let u := loggedUnit l
  let (landing, value, pois, lane, cls, row) := match l with
    | .word p v b => (p, v.toNat, b, 0, 0, 0)
    | .spad _ loc v => (.none, v.toNat, false, 0, 0, loc)
    | .req r =>
      let x := r.result
      let row := match r.landing with
        | .port _ k _ => k
        | .line _ k => k
        | _ => 0
      (r.landing, x.2 % 2 ^ 64, (match x.1 with | .ok v => v.poison | .error _ => false), r.lane % 256, r.cls, row)
  let kind := loggedKind l
  let name := if kind = 3 then cls else if kind = 5 then 0 else s.logName landing u
  let (who, sideA) := match u with
    | some (.ex _ tid) => (tid, false)
    | some (.ap _ sp) => (sp, true)
    | some (.qe n) => (n, false)
    | none => (0, false)
  kind + name % 256 * 2 ^ 8 + lane * 2 ^ 16 + who % 2 ^ 11 * 2 ^ 24 + (if sideA then 2 ^ 35 else 0) + (if pois then 2 ^ 36 else 0) +
    value * 2 ^ 64 + row % 2 ^ 32 * 2 ^ 128 + (u.bind s.teamOf).elim 0 (·.slot) % 8 * 2 ^ 160

/-- Offset of a log region. -/
def logOff (region : Nat) : Nat := if region = 0 then 0x20000 else regionOff (region - 1) + 0xF0000

/-- Entries of a region among replies. -/
def State.logCount (s : State) (c region : Nat) (l : List Logged) : Nat := (l.filter (fun x => s.logRegion c x == region)).length

/-- Entries that a log region holds. -/
def logRoom (region : Nat) : Nat := if region = 0 then 4096 else 2048

/-- An entry written behind the earlier ones of its region, and the count of the header. Nothing is written past the end of a region; the
limits of R400 keep a log within it. -/
def State.putLog (s : State) (c : Nat) (earlier : List Logged) (l : Logged) : Except Blocked State :=
  let region := s.logRegion c l
  let k := s.logCount c region earlier
  if logRoom region ≤ k then .ok s
  else (s.structWrite c (s.areaIA c (logOff region + 32 * k)) (s.logBits l) 32).bind (fun s =>
    if region = 0 then s.structWrite c (s.areaIA c 20) (k + 1) 4 else .ok s)

/-- The entries of replies written in order. -/
def State.putLogs (s : State) (c : Nat) (earlier : List Logged) : List Logged → Except Blocked State
  | [] => .ok s
  | l :: rest => (s.putLog c earlier l).bind (fun s => s.putLogs c (earlier ++ [l]) rest)

/-! ### The save (R399, R402) -/

/-- The teams of a context that stand on cores. -/
def State.resident (s : State) (c : Nat) : List (Nat × Team) := s.teams.filter (fun t => t.2.ctx == c && t.2.placed)

/-- Halves of a team. -/
def Team.halves (t : Team) : List Nat := if t.pair then [0, 1] else [0]

/-- Half of a team leaves its core (R122, R132, R342): what the core's stores hold of it is kept under its own number, and the
engine it owned is free. -/
def State.leaveHalf (s : State) (c tm : Nat) (t : Team) (half : Nat) : State :=
  let k := t.core + half
  let p := savedCore tm half
  let core := s.core k
  let mine := core.owner == some tm
  let bcs := core.bcsOwner == some c
  let s := s.copyStore (Loc.spad k (64 * t.spbase)).key (Loc.spad p 0).key (s.windowBytes t)
  let s := if bcs then s.copyStore (Loc.bcs k 0).key (Loc.bcs p 0).key 16384 else s
  let s := if mine then s.copyEngine k p else s
  let s := s.modCore p (fun x =>
    if mine then { mcfg := core.mcfg, tiles := core.tiles, saved := some core.queue, bcsOwner := if bcs then some c else none }
    else { x with bcsOwner := if bcs then some c else none })
  let s := s.modCore k (fun x =>
    { x with waiting := x.waiting.filter (· != tm), owner := if mine then none else x.owner, queue := if mine then [] else x.queue })
  if mine then (s.dropFetches core.queue).modTeam tm (fun t => { t with regrant := t.regrant.add half }) else s

/-- A team leaves its cores. -/
def State.leaveTeam (s : State) (c tm : Nat) (t : Team) : State :=
  let s := t.halves.foldl (fun s h => s.leaveHalf c tm t h) s
  (s.freeSlots t.slotList).modTeam tm (fun t => { t with placed := false, home := some (t.core, t.spbase), poolSince := none })

/-- The share of a core's strip-registers or queue memory that the teams before one of them reserve, where at' says the core that a
team stands on: where its own begins in the core's image. The order of the teams there, and of what a team has, is the model's choice
(DESIGN CHOICE, entry 8). -/
def State.shareBase (s : State) (at' : Team → Nat) (ts : List (Nat × Team)) (tm core : Nat) (f : BitVec 1024 → Nat) : Nat :=
  ts.foldl (fun n t =>
    if t.1 < tm ∧ (at' t.2 = core ∨ (t.2.pair ∧ at' t.2 + 1 = core)) then n + f (s.recordOf t.2) else n) 0

/-- Strips of half of a team. -/
def Team.halfStrips (t : Team) (half : Nat) : List Nat := (List.range t.strips).filter (fun sp => t.half sp == half)

/-- The strip-registers of half of a team, with their strips, in the order of their image. -/
def State.halfRegs (s : State) (tm : Nat) (t : Team) (half : Nat) : List (Nat × SReg) :=
  (t.halfStrips half).flatMap (fun sp => (s.strip tm sp).regs.map (fun r => (sp, r)))

/-- The ports of half of a team with the entry each begins at in the image of its share of the queue memory (R175, R176). -/
def State.halfPorts (s : State) (tm : Nat) (t : Team) (half : Nat) : List (Nat × Port × Nat) :=
  (((t.halfStrips half).flatMap (fun sp => s.portsOf (stripKey tm sp))).foldl
    (fun (a : List (Nat × Port × Nat) × Nat) q => (a.1 ++ [(q.1, q.2, a.2)], a.2 + q.2.depth * q.2.perRow)) ([], 0)).1

/-- Bytes of queue memory that one lane's element takes in its row (R175). -/
def Port.laneBytes (p : Port) : Nat := 4 * p.perRow

/-- A row as it stands in queue memory. -/
def Port.rowBits (p : Port) (r : List Slot) : Nat :=
  r.reverse.foldl (fun v x =>
    v * 2 ^ (8 * p.laneBytes) + (match x with
      | .data d _ => d.toNat % 2 ^ (8 * p.laneBytes)
      | _ => 0)) 0

/-- A row with its data taken from queue memory. -/
def Port.rowOf (p : Port) (r : List Slot) (v : Nat) : List Slot :=
  r.zipIdx.map (fun x => match x.1 with
    | .data _ po => .data (BitVec.ofNat 512 (v / 2 ^ (8 * p.laneBytes * x.2) % 2 ^ (8 * p.laneBytes))) po
    | y => y)

/-- Where row j of those present of a port stands, from the first entry of its image. -/
def Port.rowAt (p : Port) (j : Nat) : Nat := 64 * ((p.head + j) % p.depth * p.perRow)

/-- The strip-registers of half of a team written from an offset of the area. -/
def State.putRegs (s : State) (c off tm : Nat) (t : Team) (half : Nat) : Except Blocked State :=
  (s.halfRegs tm t half).zipIdx.foldlM (fun (s : State) r => s.structWrite c (s.areaIA c (off + 64 * r.2)) r.1.2.vals.toNat 64) s

/-- The queue memory of half of a team written from an offset of the area. -/
def State.putQueues (s : State) (c off tm : Nat) (t : Team) (half : Nat) : Except Blocked State :=
  (s.halfPorts tm t half).foldlM (fun (s : State) q =>
    q.2.1.rows.zipIdx.foldlM (fun (s : State) r =>
      s.structWrite c (s.areaIA c (off + 64 * q.2.2 + q.2.1.rowAt r.2)) (q.2.1.rowBits r.1) (64 * q.2.1.perRow)) s) s

/-- The strip-registers of half of a team loaded from an offset of the area. -/
def State.getRegs (s : State) (c off tm : Nat) (t : Team) (half : Nat) : Except Blocked State :=
  (s.halfRegs tm t half).zipIdx.foldlM (fun (s : State) r => do
    let x ← s.structRead c (s.areaIA c (off + 64 * r.2)) 64
    pure (x.2.modStrip tm r.1.1 (fun p => { p with regs := p.regs.map (fun q =>
      if q.id = r.1.2.id then { q with vals := BitVec.ofNat 512 x.1 } else q) }))) s

/-- The queue memory of half of a team loaded from an offset of the area. -/
def State.getQueues (s : State) (c off tm : Nat) (t : Team) (half : Nat) : Except Blocked State :=
  (s.halfPorts tm t half).foldlM (fun (s : State) q =>
    q.2.1.rows.zipIdx.foldlM (fun (s : State) r => do
      let x ← s.structRead c (s.areaIA c (off + 64 * q.2.2 + q.2.1.rowAt r.2)) (64 * q.2.1.perRow)
      pure (x.2.modPort q.1 (fun p => { p with rows := p.rows.modify r.2 (fun y => p.rowOf y x.1) }))) s) s

/-- The images of half of a team written into the region of its core (R402). -/
def State.putHalf (s : State) (c : Nat) (ts : List (Nat × Team)) (tm : Nat) (t : Team) (half : Nat) : Except Blocked State := do
  let i := (s.context c).corelist.idxOf (t.core + half)
  let p := savedCore tm half
  let o := regionOff i
  let k := s.core p
  let base := s.shareBase (·.core) ts tm (t.core + half)
  let s ← s.putRegs c (o + 64 * base LRec.regpool) tm t half
  let s ← s.putQueues c (o + 0x20000 + 64 * base LRec.qmem) tm t half
  let s ← s.putImage c (o + 0x30000 + 64 * t.spbase) (Loc.spad p 0).key (s.windowBytes t)
  let s ← (if k.saved.isSome then do
      let s ← s.putImage c (o + 0x60000) (Loc.tile p 0).key tileBytes
      let s ← s.putImage c (o + 0x70000) (Loc.acc p 0).key accBytes
      s.putImage c (o + 0x78000) (Loc.wbuf p 0).key wbufBytes
    else pure s)
  if k.bcsOwner.isSome then s.putImage c (o + 0x88000) (Loc.bcs p 0).key 16384 else pure s

/-- The region of core i of the core list before its images: bytes of the part's own layout, a zero BCS image and an empty log. -/
def State.putRegion (s : State) (c k i : Nat) : Except Blocked State := do
  let o := regionOff i
  let s ← s.putFree c k o 0x88000
  let s ← s.putSectors c (o + 0x88000) 16384 (fun _ => 0)
  let s ← s.putFree c k (o + 0x8C000) 409600
  s.putSectors c (o + 0xF0000) 65536 (fun _ => 0)

/-- The save area of a context whose teams have left, written whole (R402). -/
def State.putArea (s : State) (c : Nat) (ts : List (Nat × Team)) : Except Blocked State := do
  let k := s.fresh
  let s := { s with fresh := s.fresh + 1 }
  let x := s.context c
  let n := x.corelist.length
  let crc := crc64 ((crcRanges n).flatMap (fun r => freeBytes k r.1 r.2))
  let s ← s.structWrite c (s.areaIA c 0) (headerBits x.sgen s.mgmt.fid x.hung crc n x.nhang (s.logCount c 0 x.log)) 256
  let s ← s.structWrite c (s.areaIA c 0x100) ((x.corelist.map placeOf).foldr (fun p v => p + 2 ^ 32 * v) 0) (4 * n)
  let s ← s.putFree c k 0x2000 512
  let s ← s.structWrite c (s.areaIA c 0x2000) (x.hangs.foldr (fun h v => h.1 + 2 ^ 32 * h.2 + 2 ^ 64 * v) 0) (8 * x.hangs.length)
  let s ← s.putFree c k 0x10000 32768
  let s ← s.putSectors c 0x20000 131072 (fun _ => 0)
  let s ← s.putFree c k 0x40000 786432
  let s ← (List.range n).foldlM (fun s i => s.putRegion c k i) s
  let s ← ts.foldlM (fun s t => t.2.halves.foldlM (fun s h => s.putHalf c ts t.1 t.2 h) s) s
  s.putLogs c [] x.log

/-- The open shadow pairs of a context leave the publish tables with it (R254). -/
def State.takePairs (s : State) (c : Nat) : State :=
  let mine := s.parts.flatMap (fun p => (p.2.pairs.filter (fun o => o.ctx == c)).map (fun o => (p.1, o)))
  (s.modCtx c (fun k => { k with pairs := mine })).closePairs c

/-- They are reinstated (R254). -/
def State.givePairs (s : State) (c : Nat) : State :=
  ((s.context c).pairs.foldl (fun s q => s.modPart q.1 (fun p => { p with pairs := p.pairs ++ [q.2] })) s).modCtx c
    (fun k => { k with pairs := [] })

/-- SAVE_COMPLETE (R399): every unit has halted; the area is written, the slots and engines are free, and cstate is 3. While the area
cannot be reached the context stays in cstate 2 (R426). -/
def State.saveComplete (s : State) (c : Nat) : Option State :=
  if (s.context c).cstate ≠ 2 ∨ s.localLeft c then none
  else
    let s := s.stopPlans c
    if s.plans.any (fun p => p.2.ctx == c) then none
    else
      let ts := s.resident c
      let cores := (ts.flatMap (fun t => t.2.coreList)).eraseDups
      let t := s.modCtx c (fun k => { k with corelist := cores })
      let t := ts.foldl (fun s t => s.leaveTeam c t.1 t.2) t
      s.structEvent c ((t.putArea c ts).map (fun s =>
        let s := (s.modCtx c (fun k => { k with cstate := 3, saved := ts.map (·.1), written := k.log.length })).takePairs c
        { s with irqs := (s.context c).svec :: s.irqs }))

/-! ### Late replies (R401) -/

/-- The replies of a saved context that do not stand in its save area yet are written there. -/
def State.putRest (s : State) (c : Nat) : Except Blocked State :=
  let k := s.context c
  if k.cstate = 3 then
    (s.putLogs c (k.log.take k.written) (k.log.drop k.written)).map (fun t => t.modCtx c (fun k => { k with written := k.log.length }))
  else .ok s

/-- The same as an event: while the area cannot be reached they wait (R426). -/
def State.writeLog (s : State) (c : Nat) : Option State := s.structEvent c (s.putRest c)

/-- A reply kept in the log of a context that is saving or saved. -/
def State.logReply (s : State) (c n : Nat) (r : Req) : Option State :=
  s.structEvent c (({ s with reqs := s.reqs.del n }.modCtx c (fun k => { k with log := k.log ++ [Logged.req r] })).putRest c)

/-- Whether a request failed one of the checks at its issue (R161): it was never sent, and its token is still to be delivered (R193,
R198). -/
def Req.failedHere (r : Req) : Bool :=
  match r.phase with
  | .failed _ => r.size == 0
  | _ => false

/-- LATE_REPLY (R401): what becomes of a reply for a context that does not run. -/
def State.lateReply (s : State) (n : Nat) : Option State :=
  match s.reqs.find n with
  | none => none
  | some r =>
    let st := (s.context r.ctx).cstate
    let x := if r.open then (if st = 2 ∧ r.writes then s.atPeerCore n r else none) else some (s, r)
    if s.running r.ctx ∨ r.engineOwned then none
    else match x with
      | none => none
      | some (t, r) =>
        if st = 5 ∨ st = 6 ∨ st = 0 then some { t with reqs := t.reqs.del n }
        else if r.idempotent then (if r.failedHere then none else some { t with reqs := t.reqs.put n { r with phase := .halted } })
        else if st = 4 then none
        else t.logReply r.ctx n r

/-! ### Restore (R404) -/

/-- Whether the header of a save area is right: format, device and CRC; nothing while it cannot be reached. -/
def State.headerRight (s : State) (c : Nat) : Except Blocked Bool := do
  let h := (← s.structRead c (s.areaIA c 0) 256).1
  let n := bits h 143 128
  if bits h 15 0 ≠ 1 ∨ bits h 43 32 ≠ s.mgmt.fid ∨ (s.context c).sasize < n + 1 then pure false
  else do
    let bytes ← (crcRanges n).foldlM (fun (l : List Nat) r => (s.areaBytes c r.1 r.2).map (l ++ ·)) []
    pure (crc64 bytes == bits h 127 64)

/-- A restore asked for (R404): refused with cause 1, or cstate 4. -/
def State.askRestore (s : State) (c : Nat) : Except Blocked State :=
  let k := s.context c
  if k.cstate ≠ 3 then .ok s
  else (s.headerRight c).map (fun right =>
    if right then s.modCtx c (fun k => { k with cstate := 4 })
    else { s.modCtx c (fun k => { k with cause := 1 }) with irqs := k.svec :: s.irqs })

/-- The saved teams of a context that stand on cores again. -/
def State.returned (s : State) (c : Nat) : List (Nat × Team) := (s.resident c).filter (fun t => t.2.home.isSome)

/-- Half of a team loaded into the core that admits it (R404, R132). -/
def State.loadHalf (s : State) (c : Nat) (ts : List (Nat × Team)) (tm : Nat) (t : Team) (half : Nat) : Except Blocked State := do
  let (core, spbase) := t.home.getD (0, 0)
  let o := regionOff ((s.context c).corelist.idxOf (core + half))
  let p := savedCore tm half
  let k := s.core p
  let dst := t.core + half
  let base := s.shareBase (fun x => x.home.elim 0 (·.1)) ts tm (core + half)
  let s ← s.getRegs c (o + 64 * base LRec.regpool) tm t half
  let s ← s.getQueues c (o + 0x20000 + 64 * base LRec.qmem) tm t half
  let s ← s.getImage c (o + 0x30000 + 64 * spbase) (Loc.spad p 0).key (Loc.spad dst (64 * t.spbase)).key (s.windowBytes t)
  let s ← (if k.saved.isSome then do
      let s ← s.getImage c (o + 0x60000) (Loc.tile p 0).key (Loc.tile p 0).key tileBytes
      let s ← s.getImage c (o + 0x70000) (Loc.acc p 0).key (Loc.acc p 0).key accBytes
      s.getImage c (o + 0x78000) (Loc.wbuf p 0).key (Loc.wbuf p 0).key wbufBytes
    else pure s)
  if k.bcsOwner.isSome then
    (s.getImage c (o + 0x88000) (Loc.bcs p 0).key (Loc.bcs dst 0).key 16384).map (fun s =>
      s.modCore dst (fun x => { x with bcsOwner := some c }))
  else pure s

/-- The core of the unit, or of the pattern engine's port, that a request belongs to. -/
def State.ownerCore (s : State) (o : Owner) : Option Nat :=
  match o with
  | .unit u => s.coreOf u
  | .pat k => s.coreOf (.ap (k / 16 / 128) (k / 16 % 128))
  | .eng _ => none

/-- A request of a saved team after the restore. Behind the range registers it is one of the core where its owner stands now, whose L1 it
updates or reads (R158); in a core's store its place moves with the window, or with the core. -/
def State.movedReq (s : State) (ts : List (Nat × Team)) (r : Req) : Req :=
  if globalSpace r.space then { r with core := (s.ownerCore r.owner).getD r.core }
  else
    let off := r.ia % 2 ^ 20
    let hit (t : Nat × Team) : Bool := match t.2.home with
      | some (core, b) =>
        (r.core == core || (t.2.pair && r.core == core + 1)) &&
          (r.space == 3 || decide (64 * b ≤ off ∧ off < 64 * b + s.windowBytes t.2))
      | none => false
    match ts.find? hit with
    | some (_, t) => match t.home with
      | some (core, b) =>
        let k := t.core + (r.core - core)
        if r.space = 3 then { r with core := k, ia := (Loc.acc k off).key }
        else { r with core := k, ia := (Loc.spad k (off - 64 * b + 64 * t.spbase)).key }
      | none => r
    | none => r

/-- The status of a thread as it goes on: clocks of the halt do not count (R399, R301, R309, R311). -/
def shiftStatus (d : Nat) : Status → Status
  | .waiting (.word t) n => .waiting (.word (t + d)) (n + d)
  | .waiting w n => .waiting w (n + d)
  | .sleeping t => .sleeping (t + d)
  | x => x

/-- The control state of a restored unit. -/
def State.wakeCtl (s : State) (gen d : Nat) (ts : List (Nat × Team)) (c : Ctl) : Ctl :=
  { c with status := shiftStatus d c.status, readySince := s.now, able := false, stallUntil := c.stallUntil + d,
           sbuf := c.sbuf.map (fun q => (q.1, { s.movedReq ts q.2 with sgen := gen })) }

/-- A team begins again (R404, R349): its record is bound and running, its periods start over, and it takes its place in the waiting
order of an engine that it held or asked for (R122). -/
def State.rejoin (s : State) (tm : Nat) (t : Team) : State :=
  let s := s.modTeam tm (fun t => { t with home := none, active := 0, beaten := false, missed := 0, idle := 0, hung := false })
  let s := s.setSlots t.slotList (if t.started then 4 else 3)
  t.halves.foldl (fun s h =>
    let asked := s.exs.any (fun x => x.1 / 2048 == tm && t.half (x.1 % 2048 / 16) == h && x.2.arr.elim false (fun i => i.op == .macq))
    if t.regrant.has h || asked then s.modCore (t.core + h) (fun k => { k with waiting := k.waiting ++ [tm] }) else s) s

/-- A logged reply delivered (R404). -/
def State.applyLog (s : State) (l : Logged) : State :=
  match l with
  | .word p v b => s.landWord p v b
  | .req r => if r.returns then s.land r r.result.1 r.result.2 else s.acknowledge s.fresh r
  | .spad u loc v => s.writeStore (s.windowKey u loc) 8 v.toNat false

/-- The units, requests and engines of a restored context go on; d clocks went by while it did not run. -/
def State.goOn (s : State) (c d : Nat) (ts : List (Nat × Team)) : State :=
  let gen := ((s.context c).sgen + 1) % 2 ^ 16
  let mine (u : Agent) : Bool := s.ctxOf u == c
  let redo (r : Req) : Req :=
    if r.ctx != c || r.engineOwned then r
    else
      let r := { s.movedReq ts r with sgen := gen }
      if r.idempotent && !r.failedHere then { r with phase := .sent, gen := s.genOf r } else r
  { s with
    exs := s.exs.map (fun x =>
      if mine (.ex (x.1 / 2048) (x.1 % 2048)) then (x.1, { x.2 with ctl := s.wakeCtl gen d ts x.2.ctl }) else x),
    aps := s.aps.map (fun x =>
      if mine (.ap (x.1 / 128) (x.1 % 128)) then (x.1, { x.2 with ctl := s.wakeCtl gen d ts x.2.ctl }) else x),
    engines := s.engines.map (fun x =>
      if x.2.ctx != c then x
      else (x.1, { x.2 with ctl := s.wakeCtl gen d ts x.2.ctl, kept := false, kickAt := if x.2.kept then s.now else x.2.kickAt + d,
                            state := if x.2.kept && x.2.en && x.2.state == 2 then 1 else x.2.state })),
    reqs := s.reqs.map (fun q => (q.1, redo q.2)) }

/-- RESTORE_COMPLETE (R404): the last team has been admitted; everything is loaded, the log is applied, and the context runs. -/
def State.restoreComplete (s : State) (c : Nat) : Option State :=
  let k := s.context c
  if k.cstate ≠ 4 ∨ k.saved ≠ [] then none
  else
    let ts := s.returned c
    s.structEvent c ((ts.foldlM (fun (s : State) (t : Nat × Team) => t.2.halves.foldlM (fun s h => s.loadHalf c ts t.1 t.2 h) s) s).map (fun s =>
      let s := k.log.foldl State.applyLog s
      let s := s.goOn c (s.now - k.haltAt) ts
      let s := ts.foldl (fun s t => s.rejoin t.1 t.2) s
      let s := (s.modCtx c (fun k =>
        { k with cstate := 1, hung := false, sgen := (k.sgen + 1) % 2 ^ 16, log := [], written := 0, preqPending := false })).givePairs c
      if k.preqPending then s.preempt c false else s))

/-! ### Kill and failure (R395, R408) -/

/-- Plans of a killed context: the record says stopped, no status is written, and the chunks that wait there are turned away. Where the
record's page is in transit, or the host holds its line, the end stands and waits for it (R153). -/
def State.killPlans (s : State) (c : Nat) : State :=
  ({ s with plans := s.plans.map (fun p => if p.2.ctx = c then (p.1, { p.2 with landing := .none }) else p) } : State).stopPlans c

/-- An engine of a killed context: idle with en = 0, nothing buffered. Its counters still count the stores on their way. -/
def Engine.killed (e : Engine) : Engine :=
  { e with en := false, state := 0, sysop := none, stopping := false, launch := none, wpend := 0, kept := false,
           ctl := { traps := e.ctl.traps, tinfo := e.ctl.tinfo, pc := e.ctl.pc, unack := e.ctl.unack } }

/-- Requests of a killed context that are still performed: writes on their way to memory. -/
def Req.survives (r : Req) (c : Nat) : Bool :=
  r.ctx != c || (globalSpace r.space && r.open && r.writes && !r.engineOwned && (match r.phase with
    | .parked _ _ => false
    | _ => true))

/-- What a context has in flight ends. -/
def State.dropWork (s : State) (c : Nat) : State :=
  let s := ((s.dropOps c).emptyBuffers c).forget (fun r => !r.survives c)
  { s with engines := s.engines.map (fun x => if x.2.ctx == c then (x.1, x.2.killed) else x) }

/-- The teams and grids of a context are gone, and what they held on cores is free. -/
def State.dropGrids (s : State) (c : Nat) : State :=
  let gone := (s.teams.filter (fun t => t.2.ctx == c)).map (·.1)
  let s := (s.resident c).foldl (fun s t => s.freeSlots t.2.slotList) s
  let s := { s with cores := s.cores.map (fun (k : Nat × Core) =>
    (k.1, if k.2.owner.elim false gone.contains then { k.2 with owner := none, queue := [], waiting := k.2.waiting.filter (fun t => !gone.contains t) }
          else { k.2 with waiting := k.2.waiting.filter (fun t => !gone.contains t) })) }
  let s := (s.grids.filter (fun g => g.2.ctx == c)).foldl (fun s g => s.dropTeams g.1) s
  { s with grids := s.grids.filter (fun g => g.2.ctx != c) }

/-- A context is killed (R395), or fails (R408): everything of it stops. Its semaphores and its save area stay. -/
def State.stopCtx (s : State) (c state : Nat) : State :=
  let old := (s.context c).cstate
  let s := s.modCtx c (fun k => { k with cstate := state, dying := if state = 5 then some old else none })
  let s := ((s.withdraw c).killPlans c).dropWork c
  let s := ((s.dropGrids c).closePairs c).clearBcs c
  s.modCtx c (fun k => { k with traps := [], log := [], written := 0, saved := [], hangs := [], pairs := [], preqPending := false })

/-- A kill asked for (R395). -/
def State.askKill (s : State) (c : Nat) : State :=
  let st := (s.context c).cstate
  if 1 ≤ st ∧ st ≤ 4 then s.stopCtx c 5 else s

/-- KILL_COMPLETE (R395): no access of the context remains to be performed, but for those parked at another device: no write to a plan's
record either. -/
def State.killComplete (s : State) (c : Nat) : Option State :=
  let k := s.context c
  let left := s.plans.any (fun p => p.2.ctx == c) || s.reqs.any (fun q => q.2.ctx == c && q.2.open && (match q.2.phase with
    | .remoteParked _ _ _ => false
    | _ => true))
  if k.cstate = 5 ∧ k.dying.isSome ∧ ¬left then some (s.modCtx c (fun k => { k with dying := none })) else none

/-- A context fails (R408), and is counted (R412). -/
def State.failCtx (s : State) (c : Nat) : State :=
  let k := s.context c
  if 1 ≤ k.cstate ∧ k.cstate ≤ 4 then
    let t := (s.stopCtx c 6).modCtx c (fun k => { k with cause := 2 })
    ({ t with irqs := k.svec :: t.irqs }.count (ctrModule 1) 1).flush
  else s

/-- Whether a partition uses a unit whose control state no context owns (R408): by kind 0 a core, 1 an L2 slice, 2 a queue engine, 3 a
walk unit, which serves the slices of its stack. -/
def Partition.uses (p : Partition) (kind n : Nat) : Bool :=
  match kind with
  | 0 => bit (Desc.cores p.desc) n
  | 1 => bit (Desc.slices p.desc) n
  | 2 => decide (Desc.qebase p.desc ≤ n ∧ n < Desc.qebase p.desc + Desc.qecount p.desc)
  | 3 => (List.range 512).any (fun i => bit (Desc.slices p.desc) i && walkUnit i == n)
  | _ => false

/-- An uncorrected failure of control state is counted once, however many contexts it fails (R412). -/
def State.noteControl (s : State) : State := (s.count (ctrModule 0) 1).flush

/-- An error in control state that no context owns (R408): every context of a partition that uses the unit fails. -/
def State.unitFails (s : State) (kind n : Nat) : State :=
  ((List.range 256).filter (fun c => s.parts.any (fun p => p.2.uses kind n && p.2.ownsCtx c))).foldl State.failCtx s.noteControl

/-! ### Meanings -/

/-- KETTLE_FIRE (R350): a context. -/
def execKettleFire (s : State) : Host.Outcome State Fault Refusal := event1 State.kettleFire s

/-- PREEMPT_REQUEST (R398): the engine whose WRSYS sets preq, and neither rreq nor kill. -/
def execPreemptRequest (s : State) : Host.Outcome State Fault Refusal :=
  event1 (fun s n => s.ctlEvent n (fun x => bits x.toNat 6 4 == 1) (fun t c _ => some (t.askPreempt c))) s

/-- SAVE_COMPLETE (R399): a context. -/
def execSaveComplete (s : State) : Host.Outcome State Fault Refusal := event1 State.saveComplete s

/-- LATE_REPLY (R401): a request; or a context whose logged statuses are written to its save area. -/
def execLateReply (s : State) : Host.Outcome State Fault Refusal :=
  event (fun s => match s.occ with
    | .num n => s.lateReply n
    | .num2 c 0 => s.writeLog c
    | _ => none) s

/-- RESTORE_REQUEST (R404): the engine whose WRSYS sets rreq; a preq of the same write acts after it (R398). -/
def execRestoreRequest (s : State) : Host.Outcome State Fault Refusal :=
  event1 (fun s n => s.ctlEvent n (fun x => bits x.toNat 6 5 == 1) (fun t c x =>
    s.structEvent c ((t.askRestore c).map (fun t => t.askPreemptWith c x)))) s

/-- RESTORE_COMPLETE (R404): a context. -/
def execRestoreComplete (s : State) : Host.Outcome State Fault Refusal := event1 State.restoreComplete s

/-- CONTEXT_KILL (R395): the engine whose WRSYS sets kill. -/
def execContextKill (s : State) : Host.Outcome State Fault Refusal :=
  event1 (fun s n => s.ctlEvent n (fun x => bit x.toNat 6) (fun t c _ => some (t.askKill c))) s

/-- KILL_COMPLETE (R395): a context. -/
def execKillComplete (s : State) : Host.Outcome State Fault Refusal := event1 State.killComplete s

/-- CONTROL_STATE_ERROR (R408): the context that owns the state, with the kind and number of the unit that holds it or without; or these
alone, for state that no context owns. -/
def execControlStateError (s : State) : Host.Outcome State Fault Refusal :=
  event (fun s => match s.occ with
    | .num c => some (s.noteControl.failCtx c)
    | .num2 kind n => some ((s.count (ctrControl kind n false) 1).unitFails kind n)
    | .num3 kind n c => some ((s.count (ctrControl kind n false) 1).noteControl.failCtx c)
    | _ => none) s

end Sys2Proof.Machine
end

