-- ==== Sys2Proof/Machine/Links.lean ====
section
/-! DEFINITION. Umtur links: flits and their recovery (R409-R411), credits (R270), training and the exchange of fids (R419). -/

namespace Sys2Proof.Machine

/-- Clocks of one second: the clock stays at 1.7 GHz (R421). -/
def second : Nat := 1700000000

/-! ### The receiver (R410) -/

/-- A link goes down: it leaves service, requests that it carried hold back later ones to their lines (R271), and the counters are flushed
(R411, R412). -/
def State.linkDown (s : State) (n : Nat) : State :=
  (({ s with reqs := s.reqs.map (fun (q : Nat × Req) => (q.1, q.2.hopLost n)) }.modLink n (fun l =>
    { l with up := false, training := false, fell := true, failed := false, trainAt := s.now, held := 0, behind := [], waitq := [], replays := 0,
             downs := l.downs + 1, buffer := [], holding := none, inq := [] })).count (ctrLink n 4) 1).flush

/-- A replay is asked for from the held flit's number, and the flit is dropped; the eighth that fails takes the link out of service. -/
def State.askReplay (s : State) (n : Nat) : State :=
  let l := s.link n
  if 8 ≤ l.replays then s.linkDown n
  else { s.modLink n (fun l => { l with held := 3, holding := none, replays := l.replays + 1, deadline := s.now + 1024 }) with
         out := .replayAsk n l.expect :: s.out }

/-- Further check symbols are asked for. -/
def State.askParity (s : State) (n depth : Nat) : State :=
  { s.modLink n (fun l => { l with held := depth, deadline := s.now + 1024 }) with out := .parityAsk n (s.link n).expect depth :: s.out }

/-- The flit in turn is delivered at a depth; one that was replayed counts as depth 3. The acknowledgement and the credit go back
(R409, R410). -/
def State.deliverFlit (s : State) (n depth : Nat) (c : Cargo) : State :=
  let d := if (s.link n).replays = 0 then depth else 3
  let t := (s.modLink n (fun l =>
    { l with expect := l.expect + 1, held := 0, holding := none, replays := 0, inq := l.inq ++ [c],
             depths := l.depths.modify d (· + 1) })).count (ctrLink n d) 1
  { t with out := .credit n c.ch :: .ack n (s.link n).expect :: t.out }

/-- The flit in turn with so many erroneous symbols among those decoded with p0-p7. -/
def State.takeFlit (s : State) (n errs : Nat) (c : Cargo) : State :=
  if errs ≤ 4 then s.deliverFlit n 0 c else (s.askParity n 1).modLink n (fun l => { l with holding := some c })

/-- Flits that waited behind a held one go on in order, at most so many. -/
def State.takeBehind (s : State) (n : Nat) : Nat → State
  | 0 => s
  | k + 1 =>
    let l := s.link n
    if l.held ≠ 0 then s
    else match l.behind.find l.expect with
      | some e => ((s.modLink n (fun x => { x with behind := x.behind.del l.expect })).takeFlit n e.1 e.2).takeBehind n k
      | none => s

/-- The packets that a link has delivered arrive next, in the order of their flits (R271). -/
def State.arrivals (s : State) (n : Nat) : State :=
  { s.modLink n (fun l => { l with inq := [] }) with
    agenda := (s.link n).inq.map (fun c => Choice.run c.row c.occ) ++ s.agenda }

/-- Flits behind the one in turn follow it, and what has been delivered arrives. -/
def State.inTurn (s : State) (n : Nat) : State := (s.takeBehind n 65).arrivals n

/-- The arrivals that a flit's packet can bring about. -/
def packetRow : Instr → Bool
  | .remoteRequestArrival | .remoteReply | .parkNotice | .fabricPacketForward | .ladleChunkArrival | .ladleChunkAnswer | .ladleDone
  | .ladleCommit | .ladlePublished | .ladleFinished => true
  | _ => false

/-- Whether a flit can carry what it says: a packet, on a class and channel that are there (R270). -/
def Cargo.ok (c : Cargo) : Bool := packetRow c.row && decide (c.ch / 8 < 2 ∧ c.ch % 8 < 6)

/-- FLIT_RECEIVE (R410): a flit with a number, its erroneous symbols and what it carries. One that is not in turn waits behind a held
flit; one already delivered is dropped. -/
def State.flitReceive (s : State) (n seq errs : Nat) (c : Cargo) : Option State :=
  let l := s.link n
  if !l.up || !c.ok then none
  else if seq = l.expect ∧ l.held = 0 then some ((s.takeFlit n errs c).inTurn n)
  else if l.expect < seq ∧ l.held ≠ 0 ∧ (l.behind.length < 64 ∨ (l.behind.find seq).isSome) then
    some (s.modLink n (fun l => { l with behind := l.behind.put seq (errs, c) }))
  else none

/-- PARITY_ARRIVAL (R410): the held flit is decoded again with the symbols asked for. -/
def State.parityArrival (s : State) (n seq errs : Nat) : Option State :=
  let l := s.link n
  match l.holding with
  | none => none
  | some c =>
    if !l.up || seq != l.expect then none
    else if l.held = 1 then some (if errs ≤ 12 then (s.deliverFlit n 1 c).inTurn n else s.askParity n 2)
    else if l.held = 2 then some (if errs ≤ 24 then (s.deliverFlit n 2 c).inTurn n else s.askReplay n)
    else none

/-- FLIT_REPLAY_ARRIVAL (R410): the replayed flit is treated as received. -/
def State.replayArrival (s : State) (n seq errs : Nat) (c : Cargo) : Option State :=
  let l := s.link n
  if l.up && c.ok && seq == l.expect && l.held == 3 then some ((s.takeFlit n errs c).inTurn n) else none

/-- FLIT_RECOVERY_TIMEOUT (R410): no answer in 1,024 clocks. -/
def State.flitTimeout (s : State) (n : Nat) : Option State :=
  let l := s.link n
  if l.up ∧ l.held ≠ 0 ∧ l.deadline ≤ s.now then some (s.askReplay n) else none

/-! ### The sender (R409, R410) -/

/-- Whether a flit is in the replay buffer. -/
def Link.kept (l : Link) (seq : Nat) : Bool := decide (l.acked ≤ seq ∧ seq < l.next)

/-- PARITY_REQUEST (R410): the check symbols of a kept flit are sent. -/
def State.parityRequest (s : State) (n seq depth : Nat) : Option State :=
  let l := s.link n
  if l.up && l.kept seq && (depth == 1 || depth == 2) then some { s with out := .parity n seq depth :: s.out } else none

/-- REPLAY_REQUEST (R410): the kept flits from a number on are sent again. -/
def State.replayRequest (s : State) (n seq : Nat) : Option State :=
  let l := s.link n
  if l.up && l.kept seq then
    some { s with out := ((List.range (l.next - seq)).filterMap (fun i =>
      (l.buffer.find (seq + i)).map (Outgoing.flit n (seq + i)))).reverse ++ s.out }
  else none

/-- FLIT_ACK (R409): every flit up to a number leaves the replay buffer. -/
def State.flitAck (s : State) (n seq : Nat) : Option State :=
  let l := s.link n
  if l.up && l.kept seq then
    some ((s.modLink n (fun l => { l with acked := seq + 1, buffer := l.buffer.filter (fun x => seq < x.1) })).pumpLink n l.waitq.length)
  else none

/-- The flits that a link's credits of every class and channel still cover. -/
def Link.covered (l : Link) : Nat := l.next + (l.credits.map (·.2)).sum

/-- LINK_CREDIT_RETURN (R270): a credit of a class and channel; a packet that waits for it leaves. The credits cover at most 64 flits
beyond the oldest one not acknowledged (R410). -/
def State.creditReturn (s : State) (n cls ch : Nat) : Option State :=
  if cls < 2 ∧ ch < 6 ∧ (s.link n).up ∧ (s.link n).covered < (s.link n).acked + 65 then
    let k := cls * 8 + ch
    some ((s.modLink n (fun l => { l with credits := l.credits.put k (l.credits.get k 0 + 1) })).pumpLink n (s.link n).waitq.length)
  else none

/-! ### Training (R419) -/

/-- This device's fid goes to the partner of a link. -/
def State.tellFid (s : State) (n : Nat) : State := if s.mgmt.fidSet then { s with out := .fid n s.mgmt.fid :: s.out } else s

/-- The lanes and width of a training as they are kept (R412). -/
def laneCode (r : LaneResult) : Nat :=
  (if r.low && r.high then 8 else 4) + 16 * r.low.toNat + 32 * r.high.toNat + 64 * r.reversed.toNat

/-- LINK_TRAINING (R419): an enabled link ends its training at width 8 or 4, or stays down. Its lanes and width are kept (R412). -/
def State.linkTraining (s : State) (n : Nat) (r : LaneResult) : Option State :=
  let l := s.link n
  if !bit s.mgmt.linkMask n || l.up || l.disabled || !l.training then none
  else if r.low || r.high then
    let t := s.modLink n (fun l =>
      { l with up := true, training := false, wide := if r.low && r.high then 8 else 4, reversed := r.reversed, fell := false,
               failed := false, trainAt := s.now, peerFid := none, next := 0, acked := 0, buffer := [], credits := [], waitq := [],
               expect := 0, held := 0, holding := none, behind := [], inq := [], replays := 0 })
    some (((t.count (ctrTraining n (s.mgmt.counters.get (ctrLink n 6) 0)) (laneCode r)).count (ctrLink n 6) 1).tellFid n)
  else some (s.modLink n (fun l => { l with training := false, failed := true, trainAt := s.now }))

/-- LINK_TRAIN_RETRY (R419): a link that is down is tried again, each second where it did not train; one that left service is
retrained by itself, at once and then each second, at most three times in ten minutes. -/
def State.trainRetry (s : State) (n : Nat) : Option State :=
  let l := s.link n
  if !bit s.mgmt.linkMask n || l.up || l.training || l.disabled || decide (s.mgmt.stage < 4) || s.mgmt.stage == 15 ||
      ((!l.fell || l.failed) && decide (s.now < l.trainAt + second)) then none
  else if l.fell then
    let recent := l.retrainAt.filter (fun t => decide (s.now < t + 600 * second))
    if 3 ≤ recent.length then some (s.modLink n (fun l => { l with disabled := true }))
    else some ((s.modLink n (fun l =>
      { l with training := true, retrainAt := s.now :: recent, retrains := l.retrains + 1 })).count (ctrLink n 5) 1)
  else some (s.modLink n (fun l => { l with training := true }))

/-- FID_EXCHANGE (R419): the partner's fid has come, and what waited for it leaves. -/
def State.fidExchange (s : State) (n fid : Nat) : Option State :=
  if (s.link n).up ∧ fid < 4096 then
    some ((s.modLink n (fun l => { l with peerFid := some fid })).pumpLink n (s.link n).waitq.length)
  else none

/-! ### Meanings -/

/-- An event about three numbers. -/
def event3 (f : State → Nat → Nat → Nat → Option State) (s : State) : Host.Outcome State Fault Refusal :=
  event (fun s => match s.occ with
    | .num3 l m n => f s l m n
    | _ => none) s

/-- An event about a flit. -/
def eventFlit (f : State → Nat → Nat → Nat → Cargo → Option State) (s : State) : Host.Outcome State Fault Refusal :=
  event (fun s => match s.occ with
    | .flit n seq errs ch row o => f s n seq errs ⟨ch, row, o⟩
    | _ => none) s

/-- FLIT_RECEIVE (R410): link, number, erroneous symbols and what the flit carries. -/
def execFlitReceive (s : State) : Host.Outcome State Fault Refusal := eventFlit State.flitReceive s

/-- PARITY_ARRIVAL (R410): link, number, erroneous symbols. -/
def execParityArrival (s : State) : Host.Outcome State Fault Refusal := event3 State.parityArrival s

/-- FLIT_REPLAY_ARRIVAL (R410): link, number, erroneous symbols and what the flit carries. -/
def execFlitReplayArrival (s : State) : Host.Outcome State Fault Refusal := eventFlit State.replayArrival s

/-- FLIT_RECOVERY_TIMEOUT (R410): a link. -/
def execFlitRecoveryTimeout (s : State) : Host.Outcome State Fault Refusal := event1 State.flitTimeout s

/-- PARITY_REQUEST (R410): link, number, 1 for p8-p23 and 2 for p24-p47. -/
def execParityRequest (s : State) : Host.Outcome State Fault Refusal := event3 State.parityRequest s

/-- REPLAY_REQUEST (R410): link and number. -/
def execReplayRequest (s : State) : Host.Outcome State Fault Refusal := event2 State.replayRequest s

/-- FLIT_ACK (R409): link and number. -/
def execFlitAck (s : State) : Host.Outcome State Fault Refusal := event2 State.flitAck s

/-- LINK_CREDIT_RETURN (R270): link, class, channel. -/
def execLinkCreditReturn (s : State) : Host.Outcome State Fault Refusal := event3 State.creditReturn s

/-- LINK_TRAINING (R419): a link and its lanes. -/
def execLinkTraining (s : State) : Host.Outcome State Fault Refusal :=
  event (fun s => match s.occ with
    | .lanes n r => s.linkTraining n r
    | _ => none) s

/-- LINK_TRAIN_RETRY (R419): a link. -/
def execLinkTrainRetry (s : State) : Host.Outcome State Fault Refusal := event1 State.trainRetry s

/-- FID_EXCHANGE (R419): a link and the partner's fid. -/
def execFidExchange (s : State) : Host.Outcome State Fault Refusal := event2 State.fidExchange s

end Sys2Proof.Machine
end

