-- ==== Sys2Proof/Machine/Digest.lean ====
section
/-! DEFINITION. The SHA-2 digests that the spec names, itself (R381, R382) or by the signature schemes it names. PRESUMED, entry 58: the
algorithm is the standard's (FIPS 180-4), which the spec names and does not repeat. -/

namespace Sys2Proof.Machine

/-- The greatest number below 2 ^ bits whose e-th power is at most n, found bit by bit from the top. -/
def rootBelow (e n : Nat) : Nat → Nat → Nat
  | 0, r => r
  | b + 1, r => rootBelow e n b (if (r + 2 ^ b) ^ e ≤ n then r + 2 ^ b else r)

/-- So many of the first bits of the fraction of the e-th root of p. -/
def rootFraction (bits e p : Nat) : Nat := rootBelow e (p * 2 ^ (bits * e)) (bits + 8) 0 % 2 ^ bits

/-- The primes below 410: the first 80. -/
def shaPrimes : List Nat := (List.range 410).filter fun n => 2 ≤ n && (List.range 21).all fun d => d < 2 || n ≤ d || n % d != 0

/-- A member of the SHA-2 family by the bits of its words: how many rounds it has, and how it turns and shifts words: for a new word of the
schedule, and at a and e of a round. -/
structure ShaForm where
  bits   : Nat
  rounds : Nat
  early  : List Nat × Nat
  late   : List Nat × Nat
  atA    : List Nat
  atE    : List Nat
  deriving DecidableEq, Repr

/-- The form with words of 64 bits, and that with words of 32. -/
def shaLong : ShaForm :=
  { bits := 64, rounds := 80, early := ([1, 8], 7), late := ([19, 61], 6), atA := [28, 34, 39], atE := [14, 18, 41] }
def shaShort : ShaForm :=
  { bits := 32, rounds := 64, early := ([7, 18], 3), late := ([17, 19], 10), atA := [2, 13, 22], atE := [6, 11, 25] }

/-- The constants of the rounds: of the cube roots of the first primes, the first bits after the point. -/
def ShaForm.constants (f : ShaForm) : List Nat := (shaPrimes.take f.rounds).map (rootFraction f.bits 3)

/-- The eight words that a digest begins from: of the square roots of eight primes from a place in their order, the same. -/
def ShaForm.start (f : ShaForm) (at' : Nat) : List Nat := ((shaPrimes.drop at').take 8).map (rootFraction f.bits 2)

/-- A word turned right. -/
def ShaForm.turn (f : ShaForm) (x n : Nat) : Nat := (x / 2 ^ n ||| x * 2 ^ (f.bits - n)) % 2 ^ f.bits

/-- The exclusive or of a word's turns and of what is given. -/
def ShaForm.mix (f : ShaForm) (turns : List Nat) (x with' : Nat) : Nat := turns.foldl (fun m n => m ^^^ f.turn x n) with'

/-- The message schedule, the latest word first, made longer by so many words. -/
def ShaForm.schedule (f : ShaForm) : Nat → List Nat → List Nat
  | 0, w => w
  | k + 1, w =>
    let part (how : List Nat × Nat) (x : Nat) : Nat := f.mix how.1 x (x / 2 ^ how.2)
    f.schedule k ((w.getD 15 0 + part f.early (w.getD 14 0) + w.getD 6 0 + part f.late (w.getD 1 0)) % 2 ^ f.bits :: w)

/-- The working words, a to h. -/
structure ShaWords where
  a : Nat
  b : Nat
  c : Nat
  d : Nat
  e : Nat
  f : Nat
  g : Nat
  h : Nat
  deriving DecidableEq, Repr

/-- The words as a list. -/
def ShaWords.list (v : ShaWords) : List Nat := [v.a, v.b, v.c, v.d, v.e, v.f, v.g, v.h]

/-- Working words from a list of eight. -/
def ShaWords.of (l : List Nat) : ShaWords :=
  let word := fun i => l.getD i 0
  { a := word 0, b := word 1, c := word 2, d := word 3, e := word 4, f := word 5, g := word 6, h := word 7 }

/-- One round: a new word enters at a and at e, and the others move on. The choice of f or g by the bits of e and the majority of a, b and
c are taken without a complement. -/
def ShaForm.round (s : ShaForm) (v : ShaWords) (kw : Nat × Nat) : ShaWords :=
  let chosen := v.g ^^^ (v.e &&& (v.f ^^^ v.g))
  let most := (v.a &&& v.b) ||| (v.c &&& (v.a ||| v.b))
  let fresh := v.h + kw.1 + kw.2 + chosen + s.mix s.atE v.e 0
  { v with
    a := (fresh + most + s.mix s.atA v.a 0) % 2 ^ s.bits
    e := (fresh + v.d) % 2 ^ s.bits
    b := v.a, c := v.b, d := v.c, f := v.e, g := v.f, h := v.g }

/-- A number from its bytes, the highest first. -/
def beNat (l : List Byte) : Nat := l.foldl (fun n b => n * 256 + b.toNat) 0

/-- The n low bytes of a number, the highest first. -/
def beBytes (v n : Nat) : List Byte := (List.range n).map (fun i => BitVec.ofNat 8 (v / 2 ^ (8 * (n - 1 - i))))

/-- A block of 16 words taken in, with the constants of the rounds. -/
def ShaForm.block (f : ShaForm) (ks h : List Nat) (block : List Byte) : List Nat :=
  let n := f.bits / 8
  let words := (List.range 16).map (fun i => beNat ((block.drop (n * i)).take n))
  let v := (ks.zip (f.schedule (f.rounds - 16) words.reverse).reverse).foldl f.round (ShaWords.of h)
  (h.zip v.list).map (fun x => (x.1 + x.2) % 2 ^ f.bits)

/-- Whole blocks taken in, so many of them. -/
def ShaForm.blocks (f : ShaForm) (ks : List Nat) : Nat → List Nat → List Byte → List Nat
  | 0, h, _ => h
  | k + 1, h, m => f.blocks ks k (f.block ks h (m.take (2 * f.bits))) (m.drop (2 * f.bits))

/-- The message with its padding: a one bit, zero bits, and its length in bits as two words. -/
def ShaForm.pad (f : ShaForm) (m : List Byte) : List Byte :=
  let tail := f.bits / 4
  m ++ [0x80] ++ List.replicate ((4 * f.bits - 1 - tail - m.length % (2 * f.bits)) % (2 * f.bits)) 0 ++ beBytes (8 * m.length) tail

/-- A digest: the words that the padded message leaves, as bytes. -/
def ShaForm.digest (f : ShaForm) (start : Nat) (m : List Byte) : List Byte :=
  let p := f.pad m
  (f.blocks f.constants (p.length / (2 * f.bits)) (f.start start) p).flatMap (fun w => beBytes w (f.bits / 8))

/-- SHA-256 and SHA-512, and SHA-384, which begins from other words and gives up a quarter. -/
def sha256 (m : List Byte) : List Byte := shaShort.digest 0 m
def sha512 (m : List Byte) : List Byte := shaLong.digest 0 m
def sha384 (m : List Byte) : BitVec 384 := BitVec.ofNat 384 (beNat ((shaLong.digest 8 m).take 48))

end Sys2Proof.Machine
end

