-- ==== Sys2Proof/Machine/Signature.lean ====
section
/-! DEFINITION. The signature schemes that the spec names: RSASSA-PSS with RSA-3072 and SLH-DSA-SHA2-192s of a firmware image (R381), and
ECDSA P-384 of attestation (R382). PRESUMED, entry 58: the schemes are the standards' (RFC 8017, FIPS 205, FIPS 186-5), which the spec names
and does not repeat. -/

namespace Sys2Proof.Machine

/-- So many bytes of a message from a place. -/
def piece (m : List Byte) (start len : Nat) : List Byte := (m.drop start).take len

/-- A mask of so many bytes grown from a seed: the digests of the seed followed by a count (MGF1). -/
def maskFrom (hash : List Byte → List Byte) (seed : List Byte) (len : Nat) : List Byte :=
  ((List.range (len / 32 + 1)).flatMap (fun i => hash (seed ++ beBytes i 4))).take len

/-- A power modulo n; the exponent has at most so many bits. -/
def powMod (n x e : Nat) : Nat → Nat
  | 0 => 1 % n
  | k + 1 =>
    let r := powMod n x (e / 2) k
    if e % 2 = 1 then r * r % n * x % n else r * r % n

/-! ### RSASSA-PSS -/

/-- SHA-384 as bytes. -/
def sha384Bytes (m : List Byte) : List Byte := beBytes (sha384 m).toNat 48

/-- Whether an RSA-3072 signature of a digest verifies under RSASSA-PSS: the key is its modulus; the exponent is 65537, and the hash of
the mask and the salt are those of SHA-384. -/
def rsaVerify (key : List Byte) (digest : BitVec 384) (sig : List Byte) : Bool :=
  let n := beNat key
  let em := beBytes (powMod n (beNat sig) 65537 17) 384
  let masked := piece em 0 335
  let h := piece em 335 48
  let db := (masked.zip (maskFrom sha384Bytes h 335)).map (fun x => x.1 ^^^ x.2)
  key.length == 384 && decide (2 ^ 3071 ≤ n) && sig.length == 384 && decide (beNat sig < n) &&
    em.getD 383 0 == 0xBC && !(em.getD 0 0).getLsbD 7 &&
    (db.getD 0 0) % 128 == 0 && (piece db 1 285).all (· == 0) && db.getD 286 0 == 1 &&
    h == sha384Bytes (List.replicate 8 0 ++ beBytes digest.toNat 48 ++ piece db 287 48)

/-! ### SLH-DSA-SHA2-192s -/

/-- Where a hash of SLH-DSA is made: layer and tree, the kind of the hash, and three numbers in it. -/
structure SlhPlace where
  layer : Nat := 0
  tree  : Nat
  kind  : Nat
  pair  : Nat := 0
  high  : Nat := 0
  low   : Nat := 0
  deriving DecidableEq, Repr

/-- A place in its short form of 22 bytes. -/
def SlhPlace.bytes (p : SlhPlace) : List Byte :=
  beBytes p.layer 1 ++ beBytes p.tree 8 ++ beBytes p.kind 1 ++ beBytes p.pair 4 ++ beBytes p.high 4 ++ beBytes p.low 4

/-- The hash of one value of 24 bytes, and that of several, at a place. -/
def slhOne (seed : List Byte) (p : SlhPlace) (m : List Byte) : List Byte :=
  (sha256 (seed ++ List.replicate 40 0 ++ p.bytes ++ m)).take 24
def slhMany (seed : List Byte) (p : SlhPlace) (m : List Byte) : List Byte :=
  (sha512 (seed ++ List.replicate 104 0 ++ p.bytes ++ m)).take 24

/-- A message of bytes cut into numbers of so many bits, the first count of them. -/
def digits (m : List Byte) (bits count : Nat) : List Nat :=
  (List.range count).map (fun i => beNat m / 2 ^ (8 * m.length - bits * (i + 1)) % 2 ^ bits)

/-- A node climbs a tree from leaf number i, by the siblings that a signature gives from a place on. -/
def slhClimb (seed sig : List Byte) (start : Nat) (p : SlhPlace) (levels i : Nat) (node : List Byte) : List Byte :=
  (List.range levels).foldl (fun node k =>
    let other := piece sig (start + 24 * k) 24
    slhMany seed { p with high := k + 1, low := i / 2 ^ (k + 1) } (if i / 2 ^ k % 2 = 0 then node ++ other else other ++ node)) node

/-- A chain of one-time hashes from step d to its end. -/
def slhChain (seed : List Byte) (p : SlhPlace) (d : Nat) (x : List Byte) : List Byte :=
  (List.range (15 - d)).foldl (fun x j => slhOne seed { p with low := d + j } x) x

/-- The public key of a one-time signature of 51 chains: 48 digits of the message and 3 of their checksum. -/
def slhOnce (seed sig : List Byte) (start : Nat) (p : SlhPlace) (m : List Byte) : List Byte :=
  let ds := digits m 4 48
  let sum := (ds.map (15 - ·)).sum
  let all := (ds ++ digits (beBytes (16 * sum) 2) 4 3).zipIdx
  slhMany seed { p with kind := 1 } (all.flatMap (fun x => slhChain seed { p with high := x.2 } x.1 (piece sig (start + 24 * x.2) 24)))

/-- The root that one layer of the signature gives for what it signs: a one-time signature at a leaf, and a climb of 9 levels. -/
def slhLayer (seed sig : List Byte) (layer tree leaf : Nat) (m : List Byte) : List Byte :=
  let start := 24 + 6120 + 24 * 60 * layer
  slhClimb seed sig (start + 24 * 51) { layer, tree, kind := 2 } 9 leaf
    (slhOnce seed sig start { layer, tree, kind := 0, pair := leaf } m)

/-- The public key of the few-time signature of 17 trees of 14 levels. -/
def slhFew (seed sig md : List Byte) (tree leaf : Nat) : List Byte :=
  let at' (kind : Nat) : SlhPlace := { tree, kind, pair := leaf }
  slhMany seed (at' 4) ((digits md 14 17).zipIdx.flatMap (fun x =>
    let i := 2 ^ 14 * x.2 + x.1
    let start := 24 + 24 * 15 * x.2
    slhClimb seed sig (start + 24) (at' 3) 14 i (slhOne seed { at' 3 with low := i } (piece sig start 24))))

/-- Whether an SLH-DSA-SHA2-192s signature of a digest verifies: the key is its seed and its root, and the message is the digest with an
empty context. -/
def slhVerify (key : List Byte) (digest : BitVec 384) (sig : List Byte) : Bool :=
  let seed := key.take 24
  let root := key.drop 24
  let m : List Byte := [0, 0] ++ beBytes digest.toNat 48
  let r := sig.take 24
  let d := maskFrom sha512 (r ++ seed ++ sha512 (r ++ seed ++ root ++ m)) 39
  let tree := beNat (piece d 30 7) % 2 ^ 54
  let leaf := beNat (piece d 37 2) % 2 ^ 9
  let few := slhFew seed sig (d.take 30) tree leaf
  let top := (List.range 7).foldl (fun node j =>
    slhLayer seed sig j (tree / 2 ^ (9 * j)) (if j = 0 then leaf else tree / 2 ^ (9 * (j - 1)) % 2 ^ 9) node) few
  key.length == 48 && sig.length == 16224 && top == root

/-! ### ECDSA P-384 -/

/-- The prime of the field, the order of the group, and the point that generates it. -/
def p384Field : Nat := 2 ^ 384 - 2 ^ 128 - 2 ^ 96 + 2 ^ 32 - 1
def p384Order : Nat := 0xffffffffffffffffffffffffffffffffffffffffffffffffc7634d81f4372ddf581a0db248b0a77aecec196accc52973
def p384Base : Nat × Nat :=
  (0xaa87ca22be8b05378eb1c71ef320ad746e1d3b628ba79b9859f741e082542a385502f25dbf55296c3a545e3872760ab7,
   0x3617de4a96262c6f5d9e98bf9292dc29f8f41dbd289a147ce9da3113b5f0b8c00a60b1ce1d7e819d7a431d7c90ea0e5f)

/-- The inverse modulo a prime of 384 bits. -/
def inverse (n x : Nat) : Nat := powMod n x (n - 2) 384

/-- The sum of two points of the curve y² = x³ - 3x + b; none is the point at infinity. -/
def p384Add (a b : Option (Nat × Nat)) : Option (Nat × Nat) :=
  let q := p384Field
  match a, b with
  | none, x | x, none => x
  | some (x, y), some (u, v) =>
    if x = u ∧ (y + v) % q = 0 then none
    else
      let slope := if x = u then (3 * x * x + (q - 3)) * inverse q (2 * y) % q else (v + q - y) * inverse q (u + q - x) % q
      let z := (slope * slope + 2 * q - x - u) % q
      some (z, (slope * (x + q - z) + q - y) % q)

/-- A multiple of a point; the number has at most so many bits. -/
def p384Mul (g : Option (Nat × Nat)) (e : Nat) : Nat → Option (Nat × Nat)
  | 0 => none
  | k + 1 =>
    let r := p384Mul g (e / 2) k
    let r := p384Add r r
    if e % 2 = 1 then p384Add r g else r

/-- The ECDSA P-384 signature of a digest under a private key with a secret number: r and s, 48 bytes each. -/
def p384Sign (key : Nat) (digest : BitVec 384) (secret : Nat) : List Byte :=
  let n := p384Order
  let r := (p384Mul (some p384Base) secret 384).elim 0 (·.1) % n
  let s := inverse n secret * (digest.toNat + r * key) % n
  beBytes r 48 ++ beBytes s 48

end Sys2Proof.Machine
end

