-- ==== Sys2Proof/Machine/Attest.lean ====
section
/-! DEFINITION. Firmware images and their check (R381), and attestation by SPDM 1.2 over CXL DOE (R382). PRESUMED, entry 58: the messages of
SPDM are the standard's (DSP0274), which the spec names and does not repeat. -/

namespace Sys2Proof.Machine

/-- The management registers changed. -/
def State.modMgmt (s : State) (f : Mgmt → Mgmt) : State := { s with mgmt := f s.mgmt }

/-- The n low bytes of a number, the lowest first. -/
def byteList (v n : Nat) : List Byte := (leBytes v n).map (BitVec.ofNat 8)

/-! ### Firmware images (R381) -/

/-- The digest of an image that its signatures are over: of its body and its security version (R381). DESIGN CHOICE, entry 58: the image's
layout. -/
def imageDigest (i : FwImage) : BitVec 384 := sha384 (i.body ++ byteList i.version 8)

/-- Whether an image is accepted (R381): both signatures verify against public keys whose hashes are fused, and its security version is at
least the fused one. -/
def imageOk (i : FwImage) : Bool :=
  sha384 i.rsaKey == Config.fusedRsa && sha384 i.slhKey == Config.fusedSlh && rsaVerify i.rsaKey (imageDigest i) i.rsaSig &&
    slhVerify i.slhKey (imageDigest i) i.slhSig && decide (Config.fusedVersion ≤ i.version)

/-- The digest of the firmware that runs (R382). -/
def State.fwDigest (s : State) : BitVec 384 := imageDigest (s.mgmt.running.getD default)

/-! ### Measurements (R382) -/

/-- What measurement block 4 is taken over: every partition description and every decoder, in index order, and zero bits for one that is
not there (R382). DESIGN CHOICE, entry 58: its bytes. -/
def State.measuredOver (s : State) : List Byte :=
  (List.range 16).flatMap (fun i => byteList ((s.parts.find i).elim 0 (·.desc.toNat)) 256) ++
    (List.range 16).flatMap (fun i => match s.mgmt.decoders.find i with
      | some (base, len, part, ia, key) => [base, len, part, ia, key].flatMap (fun x => byteList x 8)
      | none => List.replicate 40 0)

/-- The four measurements with the kind of value each is: immutable ROM, mutable firmware, its security version as it is, and its
configuration (R382). -/
def State.measurements (s : State) : List (Byte × List Byte) :=
  [(0x00, beBytes Config.bootDigest.toNat 48), (0x01, beBytes s.fwDigest.toNat 48),
   (0x87, byteList (s.mgmt.running.getD default).version 8), (0x03, sha384Bytes s.measuredOver)]

/-- A measurement as a block: its index, the form and length of what follows, its kind, its length, and the value. -/
def measurementBlock (i : Nat) (x : Byte × List Byte) : List Byte :=
  [BitVec.ofNat 8 i, 1] ++ byteList (x.2.length + 3) 2 ++ [x.1] ++ byteList x.2.length 2 ++ x.2

/-- The blocks from index 1. -/
def State.measurementBlocks (s : State) : List (List Byte) := s.measurements.zipIdx.map (fun x => measurementBlock (x.2 + 1) x.1)

/-! ### SPDM 1.2 (R382) -/

/-- A message answered with an error code and its data. -/
def spdmError (version code data : Byte) : List Byte := [version, 0x7F, code, data]

/-- A signature over the messages given, for the purpose named, under the device's key. -/
def State.spdmSign (s : State) (purpose : String) (ms : List Byte) : List Byte :=
  let text (x : String) : List Byte := x.toList.map (fun c => BitVec.ofNat 8 c.toNat)
  let name := text purpose
  let head := (List.replicate 4 (text "dmtf-spdm-v1.2.*")).flatten ++ List.replicate (36 - name.length) 0 ++ name
  p384Sign (Config.deviceKey s.fwDigest) (sha384 (head ++ sha384Bytes ms)) (Config.signSecret s.fresh)

/-- The certificate chain of the device's key. -/
def State.certChain (s : State) : List Byte := Config.certChain s.fwDigest

/-- CHALLENGE: the chain's digest, a nonce, a digest of every block where one is asked for, and a signature over all that was agreed and
exchanged. -/
def State.spdmChallenge (s : State) (q : Spdm) (m : List Byte) : List Byte × Spdm :=
  let summary := if m.getD 3 0 == 0 then [] else sha384Bytes s.measurementBlocks.flatten
  let answer := [0x12, 0x03, 0, 1] ++ sha384Bytes s.certChain ++ beBytes (Config.nonce s.fresh).toNat 32 ++ summary ++ [0, 0]
  (answer ++ s.spdmSign "responder-challenge_auth signing" (q.agreed ++ q.chain ++ m ++ answer), { q with chain := [], measured := [] })

/-- GET_MEASUREMENTS: their number, one of them, or all; signed when asked for, over what was agreed and every measurement message since the
last signature. -/
def State.spdmMeasure (s : State) (q : Spdm) (m : List Byte) : List Byte × Spdm :=
  let which := (m.getD 3 0).toNat
  let signed := (m.getD 2 0).getLsbD 0
  let blocks := s.measurementBlocks
  if (4 < which ∧ which ≠ 0xFF) ∨ m.length < (if signed then 37 else 4) then (spdmError 0x12 1 0, q)
  else
    let given := if which = 0xFF then blocks else if which = 0 then [] else [blocks.getD (which - 1) []]
    let answer := [0x12, 0x60, if which = 0 then 4 else 0, 0, BitVec.ofNat 8 given.length] ++ byteList given.flatten.length 3 ++ given.flatten ++
      beBytes (Config.nonce s.fresh).toNat 32 ++ [0, 0]
    let all := q.measured ++ m ++ answer
    if signed then (answer ++ s.spdmSign "responder-measurements signing" (q.agreed ++ all), { q with measured := [] })
    else (answer, { q with measured := all })

/-- GET_CERTIFICATE: part of the chain, and how much of it is left. -/
def State.spdmCertificate (s : State) (m : List Byte) : Option (List Byte) :=
  let at' (i : Nat) : Nat := (m.getD i 0).toNat + 256 * (m.getD (i + 1) 0).toNat
  let part := piece s.certChain (at' 4) (at' 6)
  if m.length < 8 ∨ s.certChain.length ≤ at' 4 then none
  else some ([0x12, 0x02, 0, 0] ++ byteList part.length 2 ++ byteList (s.certChain.length - at' 4 - part.length) 2 ++ part)

/-- What the device is capable of: certificates, challenges, signed measurements. -/
def spdmCapabilities : List Byte := [0x12, 0x61, 0, 0, 0, 0, 0, 0] ++ byteList 0x16 4 ++ byteList 4096 4 ++ byteList 65536 4

/-- The algorithms chosen: measurements by SHA-384, signatures by ECDSA P-384 and digests by SHA-384. -/
def spdmAlgorithms : List Byte :=
  [0x12, 0x63, 0, 0] ++ byteList 36 2 ++ [1, 0] ++ byteList 4 4 ++ byteList 0x80 4 ++ byteList 2 4 ++ List.replicate 16 0

/-- The answer to a message of SPDM 1.2, and what the device keeps of the exchange: the version, the capabilities and the algorithms are
agreed in this order before anything else is answered. -/
def State.spdmAnswer (s : State) (q : Spdm) (m : List Byte) : List Byte × Spdm :=
  let code := (m.getD 1 0).toNat
  let slot := (m.getD 2 0).toNat
  let agree (answer : List Byte) : List Byte × Spdm := (answer, { q with stage := q.stage + 1, agreed := q.agreed ++ m ++ answer })
  let quiet : Spdm := { q with measured := [] }
  let refuse (e d : Byte) : List Byte × Spdm := (spdmError 0x12 e d, quiet)
  let show' (answer : List Byte) : List Byte × Spdm := (answer, { quiet with chain := q.chain ++ m ++ answer })
  if code = 0x84 then
    let answer : List Byte := [0x10, 0x04, 0, 0, 0, 1, 0x00, 0x12]
    if m.getD 0 0 = 0x10 then (answer, { stage := 1, agreed := m ++ answer }) else (spdmError 0x10 0x41 0, q)
  else if m.getD 0 0 ≠ 0x12 then refuse 0x41 0
  else if code = 0xE1 then
    if q.stage ≠ 1 then refuse 4 0 else if m.length < 20 then refuse 1 0 else agree spdmCapabilities
  else if code = 0xE3 then
    if q.stage ≠ 2 then refuse 4 0
    else if m.length < 32 ∨ !(m.getD 8 0).getLsbD 7 ∨ !(m.getD 12 0).getLsbD 1 then refuse 1 0
    else agree spdmAlgorithms
  else if code ≠ 0x81 ∧ code ≠ 0x82 ∧ code ≠ 0x83 ∧ code ≠ 0xE0 then refuse 7 (BitVec.ofNat 8 code)
  else if q.stage ≠ 3 then refuse 4 0
  else if code = 0x81 then show' ([0x12, 0x01, 0, 1] ++ sha384Bytes s.certChain)
  else if code = 0xE0 then s.spdmMeasure q m
  else if slot ≠ 0 then refuse 1 0
  else if code = 0x82 then (s.spdmCertificate m).elim (refuse 1 0) show'
  else if m.length < 36 then refuse 1 0
  else s.spdmChallenge q m

/-- DOE_REQUEST (R380, R382): a message of SPDM, which is answered; or IDE keys set, or the stream stopped. -/
def State.doeRequest (s : State) (r : DoeRequest) : State :=
  match r with
  | .spdm m =>
    let x := s.spdmAnswer s.mgmt.spdm m
    { s.modMgmt (fun g => { g with spdm := x.2 }) with fresh := s.fresh + 1, out := .spdm x.1 :: s.out }
  | .ideKeys => s.modMgmt (fun m => { m with ideUp := true })
  | .ideStop => s.modMgmt (fun m => { m with ideUp := false })

end Sys2Proof.Machine
end

