-- ==== Sys2Proof/Machine/Manage.lean ====
section
/-! DEFINITION. The host's side: BAR windows (R416, R418, R420), the mailbox (R417), partitions (R361, R362), CXL.mem (R379), IDE
(R380), bring-up (R414, R415), the fabric id (R272), counters (R412), the patrol (R405) and power (R421). -/

namespace Sys2Proof.Machine

/-! ### The fabric id (R272, R414) -/

/-- FABRIC_ID_WRITE (R272): from stage 5 on; a valid id brings stage 6, and the links tell it to their partners. -/
def State.writeFid (s : State) (v : W64) : State :=
  if s.mgmt.stage ≠ 5 ∧ s.mgmt.stage ≠ 6 then s
  else
    let set := v.getLsbD 31
    let s := s.modMgmt (fun m => { m with fid := fld v 11 0, fidSet := set, stage := if set then 6 else m.stage })
    s.links.foldl (fun s l => if l.2.up then s.tellFid l.1 else s) s

/-! ### BAR windows (R416) -/

/-- The nearest power limit from 1200 to 2300 watts. -/
def clampPower (v : Nat) : Nat := max 1200 (min 2300 v)

/-- A write of a doubleword of the management window. -/
def State.writeMgmt (s : State) (k : Nat) (v : W64) : State :=
  match k with
  | 2 => s.modMgmt (fun m => { m with plimit := clampPower (v.toNat % 2 ^ 16) })
  | 4 => if s.mgmt.mcode = 1 then s else s.modMgmt (fun m => { m with mcode := 1, mcmd := fld v 7 0 })
  | _ => if 5 ≤ k ∧ k ≤ 12 then s.modMgmt (fun m => { m with marg := m.marg.set (k - 5) v }) else s

/-- A write in the route window: an entry, or the fabric id register; from stage 5 on (R420). -/
def State.writeRoute (s : State) (off : Nat) (v : W64) : State :=
  if s.mgmt.stage ≠ 5 ∧ s.mgmt.stage ≠ 6 then s
  else if off < 0x8000 then
    { s with routes := s.routes.put (off / 8) (BitVec.ofNat 64 (v.toNat % 2 ^ 36 + v.toNat / 2 ^ 48 * 2 ^ 48)) }
  else if off = 0x8000 then s.writeFid v
  else s

/-- A write of the Ethernet endpoint's registers (R418). -/
def State.writeEther (s : State) (off : Nat) (v : W64) : State :=
  if off = 0 then { s with eth := s.eth.put 0 (BitVec.ofNat 64 (v.toNat / 2 ^ 12 % 2 ^ 40 * 2 ^ 12 + v.toNat % 2)) }
  else if 0x100 ≤ off ∧ off < 0x200 then { s with eth := s.eth.put off v }
  else s

/-- A host write (R416): 64 bits, naturally aligned, else discarded; in recovery mode only the management window is there. -/
def State.barWrite (s : State) (bar off size : Nat) (v : W64) : State :=
  if size ≠ 8 ∨ off % 8 ≠ 0 then s
  else if bar = 0 ∧ off < 0x10000 then s.writeMgmt (off / 8) v
  else if s.mgmt.recov then s
  else if bar = 0 then
    if off < 0x10800 then s.writeEngineReg ((off - 0x10000) / 64) (off % 64 / 8) v
    else if 0x20000 ≤ off ∧ off < 0x30000 then s.writeRoute (off - 0x20000) v
    else if 0x40000 ≤ off ∧ off < 0x41000 then s.writeEther (off - 0x40000) v
    else s
  else if bar = 2 ∧ off < 0x20000 ∧ off % 4096 = 0 then s.kick (off / 4096) (v.setWidth 32)
  else s

/-- The lstat doubleword of a link. -/
def Link.status (l : Link) : Nat :=
  (if l.up then 2 else if l.training then 1 else 0) + (if l.reversed then 4 else 0) + (if l.up && l.wide == 4 then 8 else 0) +
    l.peerFid.getD 0 * 16

/-- Bits set among the first sixteen. -/
def pop16 (v : Nat) : Nat := popBelow v 16

/-- A doubleword of the management window as it reads. -/
def State.readMgmt (s : State) (k : Nat) : Nat :=
  let m := s.mgmt
  match k with
  | 0 => m.stage + (if m.recov then 16 else 0) + m.err * 2 ^ 8 + m.slot * 2 ^ 16
  | 1 => m.cores.getD 0 0 + m.cores.getD 1 0 * 2 ^ 9 + m.cores.getD 2 0 * 2 ^ 18 + m.cores.getD 3 0 * 2 ^ 27 +
      pop16 m.stackMask * 2 ^ 36 + pop16 m.linkMask * 2 ^ 40 + (if Config.kind = .b then 2 ^ 45 else 0)
  | 2 => m.plimit + m.pnow * 2 ^ 16 + m.slow * 2 ^ 32
  | 3 => m.mcode
  | 4 => m.mcmd
  | _ =>
    if 5 ≤ k ∧ k ≤ 12 then (m.marg.getD (k - 5) 0).toNat
    else if 13 ≤ k ∧ k < 29 then (s.link (k - 13)).status
    else 0

/-- A host read (R416): what the windows show; zero where nothing is, and for an access that is not performed. -/
def State.barRead (s : State) (bar off size : Nat) : W64 :=
  if size ≠ 8 ∨ off % 8 ≠ 0 ∨ bar ≠ 0 then 0
  else if off < 0x10000 then BitVec.ofNat 64 (s.readMgmt (off / 8))
  else if s.mgmt.recov then 0
  else if off < 0x10800 then s.readEngineReg ((off - 0x10000) / 64) (off % 64 / 8)
  else if 0x20000 ≤ off ∧ off < 0x28000 then s.routes.get ((off - 0x20000) / 8) 0
  else if off = 0x28000 then BitVec.ofNat 64 (s.mgmt.fid + if s.mgmt.fidSet then 2 ^ 31 else 0)
  else if 0x40000 ≤ off ∧ off < 0x41000 then s.eth.get (off - 0x40000) 0
  else if 0x100000 ≤ off ∧ off < 0x200000 then
    BitVec.ofNat 64 (s.mgmt.counters.get (Config.counterAt ((off - 0x100000) / 8)) 0)
  else if 0x800000 ≤ off ∧ off < 0x880000 then wordAt (s.slots.get ((off - 0x800000) / 64) 0) (off % 64 / 8)
  else 0

/-! ### The mailbox (R417) -/

/-- A command refused, with its reason. -/
def State.refuseCmd (s : State) (reason : Nat) : State :=
  s.modMgmt (fun m => { m with mcode := 2, marg := BitVec.ofNat 64 reason :: List.replicate 7 0 })

/-- A command done. -/
def State.doneCmd (s : State) : State := s.modMgmt (fun m => { m with mcode := 0 })

/-- Whether firmware, or in recovery mode the boot ROM, runs and has a command (R414, R415). -/
def State.asked (s : State) (cmd : Nat) : Bool :=
  s.mgmt.on && s.mgmt.stage != 0 && s.mgmt.mcode == 1 && s.mgmt.mcmd == cmd && (!s.mgmt.recov || cmd == 0x10)

/-- The commands there are. -/
def commands : List Nat := [1, 2, 3, 4, 5, 0x10, 0x11]

/-- UNKNOWN_COMMAND (R416): status 3. In recovery mode every command but 0x10 is one (R415). -/
def State.unknownCmd (s : State) : Option State :=
  if s.mgmt.on ∧ s.mgmt.stage ≠ 0 ∧ s.mgmt.mcode = 1 ∧ (s.mgmt.mcmd ∉ commands ∨ (s.mgmt.recov ∧ s.mgmt.mcmd ≠ 0x10)) then
    some (s.modMgmt (fun m => { m with mcode := 3 }))
  else none

/-- REPORT_CATALOGUE (command 0x01). -/
def State.reportCatalogue (s : State) : Option State :=
  if s.asked 1 then some (s.modMgmt (fun m => { m with marg := (List.range 8).map Config.catalogue })).doneCmd else none

/-- Whether a description image is malformed. -/
def descMalformed (d : BitVec 2048) : Bool :=
  fld d 575 556 != 0 || fld d 703 674 != 0 || decide (Desc.iaend d < Desc.iabase d) || decide (256 < Desc.ctxcount d) ||
    decide (32 < Desc.qecount d) || !bit (Desc.keys d) (Desc.ptkey d) || (List.range 4).any (fun i => bits (Desc.hwin d i) 62 44 != 0)

/-- Whether a core is enabled: it lies in a logical row of its cluster. -/
def State.coreEnabled (s : State) (c : Nat) : Bool := decide (c / 16 % 16 < s.logicalRows (c / 256))

/-- Whether a description names a resource that is not there (R413). -/
def State.descAbsent (s : State) (d : BitVec 2048) : Bool :=
  decide (32 < Desc.qebase d + Desc.qecount d) || decide (256 < Desc.ctxbase d + Desc.ctxcount d) ||
    (List.range 8).any (fun i => !bit s.mgmt.stackMask i && Desc.slices d / 2 ^ (64 * i) % 2 ^ 64 != 0) ||
    (List.range 64).any (fun r => !s.coreEnabled (16 * r) && Desc.cores d / 2 ^ (16 * r) % 2 ^ 16 != 0)

/-- Whether two ranges of n and m things meet. -/
def meets (a n b m : Nat) : Bool := decide (n ≠ 0 ∧ m ≠ 0 ∧ a < b + m ∧ b < a + n)

/-- Whether two descriptions name a common resource (R362). -/
def descsMeet (d e : BitVec 2048) : Bool :=
  (Desc.cores d &&& Desc.cores e) != 0 || (Desc.slices d &&& Desc.slices e) != 0 || (Desc.keys d &&& Desc.keys e) != 0 ||
    meets (Desc.ctxbase d) (Desc.ctxcount d) (Desc.ctxbase e) (Desc.ctxcount e) ||
    meets (Desc.qebase d) (Desc.qecount d) (Desc.qebase e) (Desc.qecount e) ||
    meets (Desc.iabase d) (Desc.iaend d - Desc.iabase d) (Desc.iabase e) (Desc.iaend e - Desc.iabase e)

/-- Whether a partition has a valid context. -/
def State.inUse (s : State) (p : Partition) : Bool := s.ctxs.any (fun c => c.2.v && p.ownsCtx c.1)

/-- What the caches hold of a partition is written back and dropped. -/
def State.leavePart (s : State) (i : Nat) (p : Partition) : State :=
  let s := (s.l2.filter (fun x => p.inIA (32 * x.1) (32 * x.1 + 32))).foldl (fun s x => s.dropSector x.1) s
  { s with walkc := s.walkc.filter (fun w => walkPart w.1 != i),
           cores := s.cores.map (fun (c : Nat × Core) => if bit (Desc.cores p.desc) c.1 then (c.1, { c.2 with l1 := [], icache := [] }) else c) }

/-- Whether a description gives its partition a queue engine. -/
def hasEngine (d : BitVec 2048) (n : Nat) : Bool := decide (Desc.qebase d ≤ n ∧ n < Desc.qebase d + Desc.qecount d)

/-- Queue engines leave their partition: what they have staged was for its blocks (R366, R369). -/
def State.leaveEngines (s : State) (gone : Nat → Bool) : State :=
  { s with engines := s.engines.map (fun (e : Nat × Engine) => if gone e.1 then (e.1, { e.2 with staged := [] }) else e) }

/-- The BCS of cores that come into a partition: zero bits and no owner (R132). -/
def State.freshBcs (s : State) (cores : Nat) : State :=
  let lo := (Loc.bcs 0 0).key
  let hit (k : Nat) : Bool := decide (lo ≤ k ∧ k < lo + 2 ^ 30) && bit cores ((k - lo) / 2 ^ 20)
  { s with mem := s.mem.filter (fun x => !hit x.1), poison := s.poison.filter (fun w => !hit (4 * w)),
           cores := s.cores.map (fun (c : Nat × Core) => if bit cores c.1 then (c.1, { c.2 with bcsOwner := none }) else c) }

/-- Keys that a partition did not have are loaded anew (R370). -/
def State.loadKeys (s : State) (keys : Nat) : State :=
  s.modMgmt (fun m => { m with keyGen := (List.range 64).foldl (fun g k => if bit keys k then g.put k (g.get k 0 + 1) else g) m.keyGen })

/-- Whether a partition of a description may hold a domain: its slices and its IAs are the partition's (R362, R377). -/
def domainFits (desc : BitVec 2048) (d : Domain) : Bool :=
  d.hmr.toNat &&& Desc.slices desc == d.hmr.toNat && decide (Desc.iabase desc ≤ d.dbase * 2 ^ 30 ∧ d.dend * 2 ^ 30 ≤ Desc.iaend desc)

/-- A partition created, or its description changed: ptroot stays, and a domain that names what the partition no longer owns is not valid
(R362). -/
def State.putPart (s : State) (i : Nat) (d : BitVec 2048) : State :=
  let old := s.parts.find i
  let was (f : BitVec 2048 → Nat) : Nat := old.elim 0 (fun p => f p.desc)
  let root := was Desc.ptroot
  let d := BitVec.ofNat 2048 (d.toNat - Desc.ptroot d * 2 ^ 704 + root * 2 ^ 704)
  let s := match old with
    | some p => (s.leavePart i p).leaveEngines (fun n => hasEngine p.desc n && !hasEngine d n)
    | none => s
  let s := s.freshBcs (Desc.cores d &&& (2 ^ 1024 - 1 - was Desc.cores))
  let s := s.loadKeys (Desc.keys d &&& (2 ^ 64 - 1 - was Desc.keys))
  { s with parts := s.parts.put i (match old with
      | some p => { p with desc := d, domains := p.domains.map (fun x => { x with v := x.v && domainFits d x, busy := false, was := none }) }
      | none => { desc := d }) }

/-- Whether what the caches hold of a partition's IAs can be written back now (R380). -/
def State.canLeave (s : State) (i : Nat) : Bool :=
  (s.parts.find i).elim true (fun p => s.canClean [(Desc.iabase p.desc, Desc.iaend p.desc)])

/-- PARTITION_CREATE (command 0x02): from stage 6 on (R414), and while the image can be read over CXL.cache (R380); until then the command
is in progress (DESIGN CHOICE, entry 47). -/
def State.partitionCreate (s : State) : Option State :=
  if !s.asked 2 || s.mgmt.stage != 6 || s.cacheShut then none
  else
    let a := (s.mgmt.marg.getD 0 0).toNat
    let b := (s.mgmt.marg.getD 1 0).toNat
    let i := b % 16
    let x := s.readStore (Loc.host a).key 256
    let d := BitVec.ofNat 2048 x.1
    let others := s.parts.filter (fun p => p.1 != i)
    some (
      if b / 16 ≠ 0 ∨ a % 256 ≠ 0 ∨ x.2 then s.refuseCmd 4
      else if (s.parts.find i).elim false s.inUse then s.refuseCmd 3
      else if descMalformed d then s.refuseCmd 4
      else if s.descAbsent d then s.refuseCmd 2
      else if others.any (fun p => descsMeet d p.2.desc) then s.refuseCmd 1
      else (s.putPart i d).doneCmd)

/-- PARTITION_DESTROY (command 0x03). -/
def State.partitionDestroy (s : State) : Option State :=
  let b := (s.mgmt.marg.getD 1 0).toNat
  let i := b % 16
  if !s.asked 3 || !s.canLeave i then none
  else
    some (
      if b / 16 ≠ 0 then s.refuseCmd 4
      else match s.parts.find i with
        | none => s.refuseCmd 5
        | some p =>
          if s.inUse p then s.refuseCmd 3
          else
            let s := (s.leavePart i p).leaveEngines (hasEngine p.desc)
            { s with parts := s.parts.del i }.doneCmd)

/-- DECODER_PROGRAM (command 0x04): a decoder's number, host base, length, partition, IA base and key; length 0 takes it away. -/
def State.decoderProgram (s : State) (i base len part ia key : Nat) : Option State :=
  if !s.asked 4 then none
  else
    let others := s.mgmt.decoders.filter (fun d => d.1 != i)
    some (
      if 16 ≤ i then s.refuseCmd 4
      else if len = 0 then (s.modMgmt (fun m => { m with decoders := m.decoders.del i })).doneCmd
      else match s.parts.find part with
        | none => s.refuseCmd 2
        | some p =>
          if !p.inIA ia (ia + len) || !bit (Desc.keys p.desc) key || others.any (fun d => meets base len d.2.1 d.2.2.1) then s.refuseCmd 7
          else (s.modMgmt (fun m => { m with decoders := m.decoders.put i (base, len, part, ia, key) })).doneCmd)

/-- IDE_REQUIRE (command 0x05): IDE required, or released with its stream; refused where the stream cannot be established or released. A
stream that is required is established by IDE_KM over DOE (R380). -/
def State.ideRequire (s : State) (require able : Bool) : Option State :=
  if !s.asked 5 then none
  else if !able then some (s.refuseCmd 8)
  else some (s.modMgmt (fun m => { m with ideNeed := require, ideUp := require && m.ideUp })).doneCmd

/-- IMAGE_WRITE (command 0x10): an image that passes R381 is in the slot that does not run. -/
def State.imageWrite (s : State) (i : FwImage) : Option State :=
  if !s.asked 0x10 then none
  else if !imageOk i then some (s.refuseCmd 6)
  else some (s.modMgmt (fun m => if m.slot = 0 then { m with flashB := some i } else { m with flashA := some i })).doneCmd

/-- LINK_RETRAIN (command 0x11): the link leaves service and trains again, also one that was given up (R419). The retrainings that it made
by itself still count within their ten minutes. -/
def State.linkRetrain (s : State) : Option State :=
  if !s.asked 0x11 then none
  else
    let n := (s.mgmt.marg.getD 0 0).toNat
    some (
      if 16 ≤ n then s.refuseCmd 4
      else if !bit s.mgmt.linkMask n then s.refuseCmd 2
      else
        let s := if (s.link n).up then s.linkDown n else s
        (((s.modLink n (fun l => { l with training := true, disabled := false, fell := false,
                                          retrains := l.retrains + 1 })).count (ctrLink n 5) 1).doneCmd))

/-! ### CXL.mem (R379) -/

/-- A host access completed. -/
def State.cxlReply (s : State) (a : CxlAccess) (data : Nat) (poison : Bool) : State := { s with out := .cxl a.addr data poison :: s.out }

/-- The decoder that maps a host access. -/
def State.decoderOf (s : State) (a : CxlAccess) : Option (Nat × Nat × Nat × Nat × Nat) :=
  (s.mgmt.decoders.find? (fun d => decide (d.2.1 ≤ a.addr ∧ a.addr + a.size ≤ d.2.1 + d.2.2.1))).map (·.2)

/-- The host reaches a line: from now on it may hold it (R379). -/
def State.hostTakes (s : State) (ia : Nat) : State := s.modMgmt (fun m => { m with hostHeld := m.hostHeld.add (ia / 64) })

/-- CXL_MEM_ACCESS (R379): performed at the owning slice under the decoder's key; outside every decoder, and where a check fails, it
completes with poison. One to a page that parks stays held. -/
def State.cxlAccess (s : State) (a : CxlAccess) : Option State :=
  if a.size = 0 ∨ a.addr / 64 ≠ (a.addr + a.size - 1) / 64 then none
  else if s.cacheShut then some (s.cxlReply a 0 true)
  else match s.decoderOf a with
    | none => some (s.cxlReply a 0 true)
    | some (base, _, part, iabase, key) =>
      let ia := iabase + (a.addr - base)
      match s.parts.find part with
      | none => some (s.cxlReply a 0 true)
      | some p =>
        match s.memSide p (s.walk p ia) ia a.size 0 false false a.data.isSome false none with
        | .fail _ => some (s.cxlReply a 0 true)
        | .park _ _ _ => none
        | .zeros => some (s.cxlReply a 0 false)
        | .go leaf phys page =>
          if (p.domainOf ia).elim false (·.moves ia) then none
          else
            let s := s.hostTakes ia
            let via : Via := ⟨leaf - Leaf.key leaf * 2 ^ 10 + key * 2 ^ 10, phys, page, p.sliceOf ia, 0⟩
            match a.data with
            | some v => some ((s.writeLocal ia a.size v false via).cxlReply a 0 false)
            | none =>
              let x := s.readLocal ia a.size via
              some (x.2.cxlReply a x.1.1 x.1.2)

/-! ### Bring-up (R414, R415) -/

/-- A stage fails. -/
def State.failStage (s : State) (code : Nat) : State := s.modMgmt (fun m => { m with stage := 15, err := code })

/-- The image in a flash slot: 0 A, 1 B (R414). -/
def State.imageIn (s : State) (slot : Nat) : FwImage := (if slot = 0 then s.mgmt.flashA else s.mgmt.flashB).getD (Config.factoryImage slot)

/-- POWER_GOOD (R414, R415): slot A is checked under R381, then slot B; recovery mode when both fail. -/
def State.powerGood (s : State) : Option State :=
  if s.mgmt.on then none
  else
    let s := s.modMgmt (fun m => { m with on := true, stageSince := s.now })
    let run (slot : Nat) : State := s.modMgmt (fun m => { m with stage := 1, slot, running := some (s.imageIn slot) })
    some (
      if imageOk (s.imageIn 0) then run 0
      else if imageOk (s.imageIn 1) then run 1
      else (s.failStage 1).modMgmt (fun m => { m with recov := true }))

/-- Whether bring-up stands at a stage. -/
def State.atStage (s : State) (n : Nat) : Bool := s.mgmt.on && s.mgmt.stage == n

/-- Whether a cluster can have so many enabled cores: a retired core takes its physical row with it (R413). -/
def coresOk (n : Nat) : Bool := n % 16 == 0 && decide (n ≤ 16 * Config.gridRows)

/-- FIRMWARE_START (R414): the counters are loaded, and firmware reports what is enabled; an HBM row that it repairs in place is counted
(R413). -/
def State.firmwareStart (s : State) (r : BringUp) : Option State :=
  let cores := [r.cores0, r.cores1, r.cores2, r.cores3]
  if !s.atStage 1 || !cores.all coresOk || r.repaired.any (fun st => decide (Config.hbmStacks Config.kind ≤ st)) then none
  else if !r.store then some (s.failStage 2)
  else
    let t := s.modMgmt (fun m => { m with stage := 2, counters := m.store, cores, flushAt := s.now,
                                          linkMask := r.links % 2 ^ Config.links Config.kind })
    some (r.repaired.foldl (fun t st => t.count (ctrStack st 128) 1) t)

/-- HBM_TRAINING_DONE (R414): the stacks that trained, as a mask. -/
def State.hbmTraining (s : State) (mask : Nat) : Option State :=
  let mask := mask % 2 ^ Config.hbmStacks Config.kind
  if !s.atStage 2 then none
  else if mask = 0 then some (s.failStage 3)
  else some (s.modMgmt (fun m => { m with stage := 3, stackMask := mask }))

/-- CXL_TRAINING_DONE (R414): also on its own in recovery mode (R415). At stage 4 every enabled link trains. -/
def State.cxlTraining (s : State) (ok : Bool) : Option State :=
  if s.mgmt.recov then some (s.modMgmt (fun m => { m with cxlUp := ok }))
  else if !s.atStage 3 then none
  else if !ok then some (s.failStage 4)
  else
    let s := s.modMgmt (fun m => { m with stage := 4, cxlUp := true })
    some ((List.range 16).foldl (fun s n => if bit s.mgmt.linkMask n then s.modLink n (fun l => { l with training := true }) else s) s)

/-- UMTUR_TRAINING_DONE (R414): no link trains any more. -/
def State.umturTraining (s : State) : Option State :=
  if s.atStage 4 && s.links.all (fun l => !l.2.training) then some (s.modMgmt (fun m => { m with stage := 5 })) else none

/-- Seconds from power-good within which a stage ends. -/
def stageBound (n : Nat) : Nat := [2, 3, 12, 20, 40].getD n 0

/-- STAGE_TIMEOUT (R414): a stage that is not done in time fails with its code; stage 4 has none, and ends. -/
def State.stageTimeout (s : State) : Option State :=
  let n := s.mgmt.stage
  if ¬s.mgmt.on ∨ 4 < n ∨ s.now < s.mgmt.stageSince + second * stageBound n then none
  else if n = 4 then some (s.modMgmt (fun m => { m with stage := 5 }))
  else some (s.failStage (n + 1))

/-! ### Counters, errors, power (R405, R412, R421) -/

/-- The channel of its stack that a sector lies in. PRESUMED, entry 12: an HBM stack has 32 channels, interleaved by sector. -/
def hbmChannel (sector : Nat) : Nat := sector % 32

/-- PATROL_SCRUB (R405): a sector is read; a corrected one is written back, an uncorrectable one reads poisoned. The last sector of a
stack ends a pass over it (R412). -/
def State.patrol (s : State) (sector : Nat) (r : ScrubResult) : State :=
  let st := 32 * sector / Config.stackBytes
  let s := if (32 * sector + 32) % Config.stackBytes = 0 then s.count (ctrStack st 129) 1 else s
  match r with
  | .clean => s
  | .corrected => s.count (ctrStack st (64 + hbmChannel sector)) 1
  | .uncorrectable =>
    ({ s with poison := setPoison s.poison ((Loc.hbm (32 * sector)).key / 4) true 8 }.count (ctrStack st (hbmChannel sector)) 1).flush

/-- A slot of a port struck by an error: its element is poisoned, and a token gives way to a poisoned zero (R405). A line's token stands
in the whole line, and is lost as a whole (R192). -/
def Port.struck (p : Port) (row lane : Nat) : Port :=
  let hit (x : Slot) : Slot := match x with
    | .data _ _ | .token _ => .data 0 true
    | x => x
  if row < p.head then p
  else
    let token := (p.slot row lane).isToken && p.mode == .sline
    { p with rows := p.rows.modify (row - p.head) (fun r => if token then r.map hit else r.modify lane hit) }

/-- An uncorrectable error outside HBM (R405, R407, R408): the word, element or sector carries poison, the tag is lost, or contexts fail. A
clean sector of the L2 is fetched again. -/
def State.strike (s : State) (x : Struck) : State :=
  match x with
  | .sreg tm sp id lane => s.modStrip tm sp (fun t => { t with regs := t.regs.map (fun r =>
      if r.id = id then { r with vals := setLane32 r.vals lane 0, pois := setBit16 r.pois lane true } else r) })
  | .pred tm tid n => s.modEx tm tid (fun e => { e with f := e.f &&& ~~~BitVec.ofNat 7 (2 ^ n), fp := e.fp ||| BitVec.ofNat 7 (2 ^ n) })
  | .vec tm sp n lane => s.modAp tm sp (fun a => { a with a := a.a.modify n (fun r => setLanes r [lane] (fun _ => Val.bad)) })
  | .scalar tm sp n => s.modAp tm sp (fun a => { a with s := a.s.set n (0, true) })
  | .mask tm sp n => s.modAp tm sp (fun a => { a with m := a.m.set n ⟨0, true⟩ })
  | .queue e n => s.modEngine e (fun q => { q with w := q.w.set n (0, true) })
  | .slot key row lane => s.modPort key (fun p => p.struck row lane)
  | .word w => if 2 * 2 ^ 64 ≤ 4 * w then { s with poison := s.poison.add w } else s
  | .sector n => match s.l2.find n with
    | some q => if q.dirty then { s with l2 := s.l2.put n { q with poison := true } } else { s with l2 := s.l2.del n }
    | none => s
  | .tag g => { s with tagBad := s.tagBad.add g }
  | .control kind n => s.unitFails kind n

/-- The counter an error, corrected or not, is counted in (R412). A granule's tag counts in the channel of its sector (PRESUMED, entry 12). -/
def State.strikeCounter (s : State) (x : Struck) (corrected : Bool) : Option Nat :=
  let at' (u : Agent) (kind : Nat) : Option Nat := (s.coreOf u).map (fun c => ctrCore c (errKind kind corrected))
  match x with
  | .sreg tm sp _ _ | .vec tm sp _ _ | .scalar tm sp _ | .mask tm sp _ => at' (.ap tm sp) 0
  | .pred tm tid _ => at' (.ex tm tid) 0
  | .slot key row lane => at' (.ap (key / 16 / 128) (key / 16 % 128))
      ((s.ports.find key).elim 0 (fun p => if (p.slot row lane).isToken then 1 else 0))
  | .word w => some (ctrCore (4 * w % 2 ^ 64 / 2 ^ 20) (errKind 2 corrected))
  | .sector n => (s.l2.find n).map (fun q => ctrSlice q.slice corrected.toNat)
  | .queue e _ => some (ctrEngine e corrected.toNat)
  | .tag g => some (ctrStack (32 * g / Config.stackBytes) (64 * corrected.toNat + hbmChannel g))
  | .control kind n => some (ctrControl kind n corrected)

/-- An error of a store is counted; an uncorrectable one flushes the counters (R412). -/
def State.noteStrike (s : State) (x : Struck) (corrected : Bool) : State :=
  let t := (s.strikeCounter x corrected).elim s (fun k => s.count k 1)
  if corrected then t else t.flush

/-- A parity error in a line of a core's L1, or in its instruction words: what is struck is dropped, and counts as corrected (R405). -/
def State.parityL1 (s : State) (core line : Nat) : State :=
  (s.modCore core (fun c => { c with l1 := c.l1.del line })).count (ctrCore core (errKind 3 true)) 1
def State.parityI (s : State) (core : Nat) : State :=
  (s.modCore core (fun c => { c with icache := [] })).count (ctrCore core (errKind 3 true)) 1

/-- A parity error in a leaf that a walk unit holds, by its key: as for a line (R405). -/
def State.parityWalk (s : State) (key : Nat) : State :=
  { s with walkc := s.walkc.del key }.count (ctrStack (key / 2 ^ 40 / 4) 130) 1

/-- COUNTER_FLUSH (R412): every 60 seconds. -/
def State.counterFlush (s : State) : Option State :=
  if s.mgmt.loaded && decide (s.mgmt.flushAt + 60 * second ≤ s.now) then some s.flush else none

/-- POWER_THROTTLE (R421): issue slots withheld, at most 7 in 8, and the power measured, which they hold at or below plimit. Results do
not change. -/
def State.throttle (s : State) (slow pnow : Nat) : Option State :=
  if slow ≤ 224 ∧ pnow ≤ s.mgmt.plimit then some (s.modMgmt (fun m => { m with slow, pnow })) else none

/-- POWER_LOSS (R412): all but the flash, the non-volatile store and the host's memory is lost; an orderly one flushes first. -/
def State.powerLoss (s : State) (orderly : Bool) : State :=
  let host (k : Nat) : Bool := decide (2 ^ 64 ≤ k ∧ k < 2 * 2 ^ 64)
  let s := if orderly then s.flush else s
  { State.reset with
    agenda := s.agenda, fresh := s.fresh, mem := s.mem.filter (fun x => host x.1), poison := s.poison.filter (fun w => host (4 * w)),
    mgmt := { State.reset.mgmt with store := s.mgmt.store, flashA := s.mgmt.flashA, flashB := s.mgmt.flashB } }

/-! ### Meanings -/

/-- REGISTER_WRITE (R4, R416): window, offset, size and value. -/
def execRegisterWrite (s : State) : Host.Outcome State Fault Refusal :=
  event (fun s => match s.occ with
    | .reg bar off size v => some (s.barWrite bar off size v)
    | _ => none) s

/-- FABRIC_ID_WRITE (R272): the value written. -/
def execFabricIdWrite (s : State) : Host.Outcome State Fault Refusal :=
  event (fun s => match s.occ with
    | .write _ v => some (s.writeFid v)
    | _ => none) s

/-- CXL_MEM_ACCESS (R379). -/
def execCxlMemAccess (s : State) : Host.Outcome State Fault Refusal :=
  event (fun s => match s.occ with
    | .cxl a => s.cxlAccess a
    | _ => none) s

/-- PATROL_SCRUB (R405): a sector and what is found. -/
def execPatrolScrub (s : State) : Host.Outcome State Fault Refusal :=
  event (fun s => match s.occ with
    | .scrub n r => some (s.patrol n r)
    | _ => none) s

/-- COUNTER_FLUSH (R412). -/
def execCounterFlush (s : State) : Host.Outcome State Fault Refusal := event State.counterFlush s

/-- POWER_THROTTLE (R421): slots withheld and power. -/
def execPowerThrottle (s : State) : Host.Outcome State Fault Refusal := event2 State.throttle s

/-- POWER_GOOD (R414). -/
def execPowerGood (s : State) : Host.Outcome State Fault Refusal := event State.powerGood s

/-- FIRMWARE_START (R414): what firmware finds. -/
def execFirmwareStart (s : State) : Host.Outcome State Fault Refusal :=
  event (fun s => match s.occ with
    | .report r => s.firmwareStart r
    | _ => none) s

/-- HBM_TRAINING_DONE (R414): the stacks that trained. -/
def execHbmTrainingDone (s : State) : Host.Outcome State Fault Refusal := event1 State.hbmTraining s

/-- An event with one outcome. -/
def eventB (f : State → Bool → Option State) (s : State) : Host.Outcome State Fault Refusal :=
  event (fun s => match s.occ with
    | .flag b => f s b
    | _ => none) s

/-- CXL_TRAINING_DONE (R414). -/
def execCxlTrainingDone (s : State) : Host.Outcome State Fault Refusal := eventB State.cxlTraining s

/-- UMTUR_TRAINING_DONE (R414). -/
def execUmturTrainingDone (s : State) : Host.Outcome State Fault Refusal := event State.umturTraining s

/-- STAGE_TIMEOUT (R414). -/
def execStageTimeout (s : State) : Host.Outcome State Fault Refusal := event State.stageTimeout s

/-- REPORT_CATALOGUE (R417). -/
def execReportCatalogue (s : State) : Host.Outcome State Fault Refusal := event State.reportCatalogue s

/-- PARTITION_CREATE (R417). -/
def execPartitionCreate (s : State) : Host.Outcome State Fault Refusal := event State.partitionCreate s

/-- PARTITION_DESTROY (R417). -/
def execPartitionDestroy (s : State) : Host.Outcome State Fault Refusal := event State.partitionDestroy s

/-- DECODER_PROGRAM (R417, R379): the request's numbers. -/
def execDecoderProgram (s : State) : Host.Outcome State Fault Refusal :=
  event (fun s => match s.occ with
    | .nums [i, base, len, part, ia, key] => s.decoderProgram i base len part ia key
    | _ => none) s

/-- IDE_REQUIRE (R417, R380): whether IDE is required, and whether the stream can be had. -/
def execIdeRequire (s : State) : Host.Outcome State Fault Refusal :=
  event (fun s => match s.occ with
    | .flags a b => s.ideRequire a b
    | _ => none) s

/-- IMAGE_WRITE (R417): the image. -/
def execImageWrite (s : State) : Host.Outcome State Fault Refusal :=
  event (fun s => match s.occ with
    | .image i => s.imageWrite i
    | _ => none) s

/-- LINK_RETRAIN (R417). -/
def execLinkRetrain (s : State) : Host.Outcome State Fault Refusal := event State.linkRetrain s

/-- UNKNOWN_COMMAND (R416). -/
def execUnknownCommand (s : State) : Host.Outcome State Fault Refusal := event State.unknownCmd s

/-- DOE_REQUEST (R380, R382). -/
def execDoeRequest (s : State) : Host.Outcome State Fault Refusal :=
  event (fun s => match s.occ with
    | .doe r => some (s.doeRequest r)
    | _ => none) s

/-- POWER_LOSS (R412): whether it is orderly. -/
def execPowerLoss (s : State) : Host.Outcome State Fault Refusal := eventB (fun s b => some (s.powerLoss b)) s

end Sys2Proof.Machine
end

