-- ==== Sys2Proof/Machine/Dispatch.lean ====
section
/-! DEFINITION. One arm a constructor of Instr: the call of its meaning. -/

namespace Sys2Proof.Machine

/-- The effect of an instruction for the current unit, or of an event. -/
def exec (i : Instr) (s : State) : Host.Outcome State Fault Refusal :=
  match i with
  | .mov => Sys2Proof.Machine.execMov s
  | .movLong => Sys2Proof.Machine.execMovLong s
  | .iadd => Sys2Proof.Machine.execIadd s
  | .iaddLong => Sys2Proof.Machine.execIaddLong s
  | .isub => Sys2Proof.Machine.execIsub s
  | .isubLong => Sys2Proof.Machine.execIsubLong s
  | .imul => Sys2Proof.Machine.execImul s
  | .imulLong => Sys2Proof.Machine.execImulLong s
  | .imulh => Sys2Proof.Machine.execImulh s
  | .imulhLong => Sys2Proof.Machine.execImulhLong s
  | .imulhu => Sys2Proof.Machine.execImulhu s
  | .imulhuLong => Sys2Proof.Machine.execImulhuLong s
  | .imin => Sys2Proof.Machine.execImin s
  | .iminLong => Sys2Proof.Machine.execIminLong s
  | .imax => Sys2Proof.Machine.execImax s
  | .imaxLong => Sys2Proof.Machine.execImaxLong s
  | .umin => Sys2Proof.Machine.execUmin s
  | .uminLong => Sys2Proof.Machine.execUminLong s
  | .umax => Sys2Proof.Machine.execUmax s
  | .umaxLong => Sys2Proof.Machine.execUmaxLong s
  | .and => Sys2Proof.Machine.execAnd s
  | .andLong => Sys2Proof.Machine.execAndLong s
  | .or => Sys2Proof.Machine.execOr s
  | .orLong => Sys2Proof.Machine.execOrLong s
  | .xor => Sys2Proof.Machine.execXor s
  | .xorLong => Sys2Proof.Machine.execXorLong s
  | .andn => Sys2Proof.Machine.execAndn s
  | .andnLong => Sys2Proof.Machine.execAndnLong s
  | .shl => Sys2Proof.Machine.execShl s
  | .shlLong => Sys2Proof.Machine.execShlLong s
  | .shr => Sys2Proof.Machine.execShr s
  | .shrLong => Sys2Proof.Machine.execShrLong s
  | .sar => Sys2Proof.Machine.execSar s
  | .sarLong => Sys2Proof.Machine.execSarLong s
  | .shli => Sys2Proof.Machine.execShli s
  | .shliLong => Sys2Proof.Machine.execShliLong s
  | .shri => Sys2Proof.Machine.execShri s
  | .shriLong => Sys2Proof.Machine.execShriLong s
  | .sari => Sys2Proof.Machine.execSari s
  | .sariLong => Sys2Proof.Machine.execSariLong s
  | .rotl => Sys2Proof.Machine.execRotl s
  | .rotlLong => Sys2Proof.Machine.execRotlLong s
  | .popc => Sys2Proof.Machine.execPopc s
  | .popcLong => Sys2Proof.Machine.execPopcLong s
  | .clz => Sys2Proof.Machine.execClz s
  | .clzLong => Sys2Proof.Machine.execClzLong s
  | .brev => Sys2Proof.Machine.execBrev s
  | .brevLong => Sys2Proof.Machine.execBrevLong s
  | .iabs => Sys2Proof.Machine.execIabs s
  | .iabsLong => Sys2Proof.Machine.execIabsLong s
  | .ineg => Sys2Proof.Machine.execIneg s
  | .inegLong => Sys2Proof.Machine.execInegLong s
  | .iaddi => Sys2Proof.Machine.execIaddi s
  | .iaddiLong => Sys2Proof.Machine.execIaddiLong s
  | .sh2add => Sys2Proof.Machine.execSh2add s
  | .sh2addLong => Sys2Proof.Machine.execSh2addLong s
  | .sh3add => Sys2Proof.Machine.execSh3add s
  | .sh3addLong => Sys2Proof.Machine.execSh3addLong s
  | .pack2 => Sys2Proof.Machine.execPack2 s
  | .pack2Long => Sys2Proof.Machine.execPack2Long s
  | .fadd => Sys2Proof.Machine.execFadd s
  | .faddLong => Sys2Proof.Machine.execFaddLong s
  | .fsub => Sys2Proof.Machine.execFsub s
  | .fsubLong => Sys2Proof.Machine.execFsubLong s
  | .fmul => Sys2Proof.Machine.execFmul s
  | .fmulLong => Sys2Proof.Machine.execFmulLong s
  | .fmin => Sys2Proof.Machine.execFmin s
  | .fminLong => Sys2Proof.Machine.execFminLong s
  | .fmax => Sys2Proof.Machine.execFmax s
  | .fmaxLong => Sys2Proof.Machine.execFmaxLong s
  | .fabs => Sys2Proof.Machine.execFabs s
  | .fabsLong => Sys2Proof.Machine.execFabsLong s
  | .fneg => Sys2Proof.Machine.execFneg s
  | .fnegLong => Sys2Proof.Machine.execFnegLong s
  | .frcp => Sys2Proof.Machine.execFrcp s
  | .frcpLong => Sys2Proof.Machine.execFrcpLong s
  | .frsq => Sys2Proof.Machine.execFrsq s
  | .frsqLong => Sys2Proof.Machine.execFrsqLong s
  | .fsqrt => Sys2Proof.Machine.execFsqrt s
  | .fsqrtLong => Sys2Proof.Machine.execFsqrtLong s
  | .fexp2 => Sys2Proof.Machine.execFexp2 s
  | .fexp2Long => Sys2Proof.Machine.execFexp2Long s
  | .flog2 => Sys2Proof.Machine.execFlog2 s
  | .flog2Long => Sys2Proof.Machine.execFlog2Long s
  | .fsinpi => Sys2Proof.Machine.execFsinpi s
  | .fsinpiLong => Sys2Proof.Machine.execFsinpiLong s
  | .fcospi => Sys2Proof.Machine.execFcospi s
  | .fcospiLong => Sys2Proof.Machine.execFcospiLong s
  | .ftanh => Sys2Proof.Machine.execFtanh s
  | .ftanhLong => Sys2Proof.Machine.execFtanhLong s
  | .fclass => Sys2Proof.Machine.execFclass s
  | .fclassLong => Sys2Proof.Machine.execFclassLong s
  | .hadd2 => Sys2Proof.Machine.execHadd2 s
  | .hadd2Long => Sys2Proof.Machine.execHadd2Long s
  | .hmul2 => Sys2Proof.Machine.execHmul2 s
  | .hmul2Long => Sys2Proof.Machine.execHmul2Long s
  | .badd2 => Sys2Proof.Machine.execBadd2 s
  | .badd2Long => Sys2Proof.Machine.execBadd2Long s
  | .bmul2 => Sys2Proof.Machine.execBmul2 s
  | .bmul2Long => Sys2Proof.Machine.execBmul2Long s
  | .i2f => Sys2Proof.Machine.execI2f s
  | .f2i => Sys2Proof.Machine.execF2i s
  | .ffrac => Sys2Proof.Machine.execFfrac s
  | .ffracLong => Sys2Proof.Machine.execFfracLong s
  | .ffloor => Sys2Proof.Machine.execFfloor s
  | .ffloorLong => Sys2Proof.Machine.execFfloorLong s
  | .fceil => Sys2Proof.Machine.execFceil s
  | .fceilLong => Sys2Proof.Machine.execFceilLong s
  | .frint => Sys2Proof.Machine.execFrint s
  | .frintLong => Sys2Proof.Machine.execFrintLong s
  | .fscale => Sys2Proof.Machine.execFscale s
  | .fscaleLong => Sys2Proof.Machine.execFscaleLong s
  | .bra => Sys2Proof.Machine.execBra s
  | .braLong => Sys2Proof.Machine.execBraLong s
  | .brx => Sys2Proof.Machine.execBrx s
  | .brxLong => Sys2Proof.Machine.execBrxLong s
  | .ret => Sys2Proof.Machine.execRet s
  | .retLong => Sys2Proof.Machine.execRetLong s
  | .exit => Sys2Proof.Machine.execExit s
  | .exitLong => Sys2Proof.Machine.execExitLong s
  | .yield => Sys2Proof.Machine.execYield s
  | .yieldLong => Sys2Proof.Machine.execYieldLong s
  | .meet => Sys2Proof.Machine.execMeet s
  | .meetLong => Sys2Proof.Machine.execMeetLong s
  | .nop => Sys2Proof.Machine.execNop s
  | .nopLong => Sys2Proof.Machine.execNopLong s
  | .bkpt => Sys2Proof.Machine.execBkpt s
  | .bkptLong => Sys2Proof.Machine.execBkptLong s
  | .ldsW => Sys2Proof.Machine.execLdsW s
  | .ldsWLong => Sys2Proof.Machine.execLdsWLong s
  | .stsW => Sys2Proof.Machine.execStsW s
  | .stsWLong => Sys2Proof.Machine.execStsWLong s
  | .ldsD => Sys2Proof.Machine.execLdsD s
  | .ldsDLong => Sys2Proof.Machine.execLdsDLong s
  | .stsD => Sys2Proof.Machine.execStsD s
  | .stsDLong => Sys2Proof.Machine.execStsDLong s
  | .pld => Sys2Proof.Machine.execPld s
  | .pldLong => Sys2Proof.Machine.execPldLong s
  | .imad => Sys2Proof.Machine.execImad s
  | .imad64 => Sys2Proof.Machine.execImad64 s
  | .iadd64 => Sys2Proof.Machine.execIadd64 s
  | .isub64 => Sys2Proof.Machine.execIsub64 s
  | .imulw => Sys2Proof.Machine.execImulw s
  | .icmpf => Sys2Proof.Machine.execIcmpf s
  | .pick => Sys2Proof.Machine.execPick s
  | .bfget => Sys2Proof.Machine.execBfget s
  | .bfput => Sys2Proof.Machine.execBfput s
  | .bysel => Sys2Proof.Machine.execBysel s
  | .idiv => Sys2Proof.Machine.execIdiv s
  | .udiv => Sys2Proof.Machine.execUdiv s
  | .irem => Sys2Proof.Machine.execIrem s
  | .urem => Sys2Proof.Machine.execUrem s
  | .isad => Sys2Proof.Machine.execIsad s
  | .movi => Sys2Proof.Machine.execMovi s
  | .funnel => Sys2Proof.Machine.execFunnel s
  | .iadds => Sys2Proof.Machine.execIadds s
  | .isubs => Sys2Proof.Machine.execIsubs s
  | .movpGet => Sys2Proof.Machine.execMovpGet s
  | .movpPut => Sys2Proof.Machine.execMovpPut s
  | .flut => Sys2Proof.Machine.execFlut s
  | .ffma => Sys2Proof.Machine.execFfma s
  | .fcmpf => Sys2Proof.Machine.execFcmpf s
  | .fdiv => Sys2Proof.Machine.execFdiv s
  | .dadd => Sys2Proof.Machine.execDadd s
  | .dsub => Sys2Proof.Machine.execDsub s
  | .dmul => Sys2Proof.Machine.execDmul s
  | .dfma => Sys2Proof.Machine.execDfma s
  | .dcmpf => Sys2Proof.Machine.execDcmpf s
  | .ddiv => Sys2Proof.Machine.execDdiv s
  | .dsqrt => Sys2Proof.Machine.execDsqrt s
  | .dmin => Sys2Proof.Machine.execDmin s
  | .dmax => Sys2Proof.Machine.execDmax s
  | .dclass => Sys2Proof.Machine.execDclass s
  | .hfma2 => Sys2Proof.Machine.execHfma2 s
  | .bfma2 => Sys2Proof.Machine.execBfma2 s
  | .fcvt => Sys2Proof.Machine.execFcvt s
  | .fchk => Sys2Proof.Machine.execFchk s
  | .xshuf => Sys2Proof.Machine.execXshuf s
  | .xbcast => Sys2Proof.Machine.execXbcast s
  | .xpoll => Sys2Proof.Machine.execXpoll s
  | .xred => Sys2Proof.Machine.execXred s
  | .xscan => Sys2Proof.Machine.execXscan s
  | .xmatch => Sys2Proof.Machine.execXmatch s
  | .xsync => Sys2Proof.Machine.execXsync s
  | .xcompact => Sys2Proof.Machine.execXcompact s
  | .rebal => Sys2Proof.Machine.execRebal s
  | .ssi => Sys2Proof.Machine.execSsi s
  | .hacc => Sys2Proof.Machine.execHacc s
  | .hfind => Sys2Proof.Machine.execHfind s
  | .call => Sys2Proof.Machine.execCall s
  | .beos => Sys2Proof.Machine.execBeos s
  | .trap => Sys2Proof.Machine.execTrap s
  | .waitw => Sys2Proof.Machine.execWaitw s
  | .sleep => Sys2Proof.Machine.execSleep s
  | .meetr => Sys2Proof.Machine.execMeetr s
  | .heart => Sys2Proof.Machine.execHeart s
  | .lds => Sys2Proof.Machine.execLds s
  | .sts => Sys2Proof.Machine.execSts s
  | .atoms => Sys2Proof.Machine.execAtoms s
  | .reds => Sys2Proof.Machine.execReds s
  | .lq => Sys2Proof.Machine.execLq s
  | .lqg => Sys2Proof.Machine.execLqg s
  | .lql => Sys2Proof.Machine.execLql s
  | .sq => Sys2Proof.Machine.execSq s
  | .sqs => Sys2Proof.Machine.execSqs s
  | .pfx => Sys2Proof.Machine.execPfx s
  | .ldsc => Sys2Proof.Machine.execLdsc s
  | .stsc => Sys2Proof.Machine.execStsc s
  | .atq => Sys2Proof.Machine.execAtq s
  | .redq => Sys2Proof.Machine.execRedq s
  | .qbind => Sys2Proof.Machine.execQbind s
  | .qunbind => Sys2Proof.Machine.execQunbind s
  | .pat => Sys2Proof.Machine.execPat s
  | .patgo => Sys2Proof.Machine.execPatgo s
  | .qstat => Sys2Proof.Machine.execQstat s
  | .qskip => Sys2Proof.Machine.execQskip s
  | .qdrain => Sys2Proof.Machine.execQdrain s
  | .qeos => Sys2Proof.Machine.execQeos s
  | .copy => Sys2Proof.Machine.execCopy s
  | .cstat => Sys2Proof.Machine.execCstat s
  | .arrwInit => Sys2Proof.Machine.execArrwInit s
  | .arrwAdd => Sys2Proof.Machine.execArrwAdd s
  | .arrwTgt => Sys2Proof.Machine.execArrwTgt s
  | .await => Sys2Proof.Machine.execAwait s
  | .shdw => Sys2Proof.Machine.execShdw s
  | .publ => Sys2Proof.Machine.execPubl s
  | .msg => Sys2Proof.Machine.execMsg s
  | .nred => Sys2Proof.Machine.execNred s
  | .wdq => Sys2Proof.Machine.execWdq s
  | .fence => Sys2Proof.Machine.execFence s
  | .barWait => Sys2Proof.Machine.execBarWait s
  | .barArr => Sys2Proof.Machine.execBarArr s
  | .cbar => Sys2Proof.Machine.execCbar s
  | .gbar => Sys2Proof.Machine.execGbar s
  | .sems => Sys2Proof.Machine.execSems s
  | .semi => Sys2Proof.Machine.execSemi s
  | .semwk => Sys2Proof.Machine.execSemwk s
  | .macq => Sys2Proof.Machine.execMacq s
  | .mrel => Sys2Proof.Machine.execMrel s
  | .gang => Sys2Proof.Machine.execGang s
  | .mma => Sys2Proof.Machine.execMma s
  | .mldw => Sys2Proof.Machine.execMldw s
  | .mldt => Sys2Proof.Machine.execMldt s
  | .mstt => Sys2Proof.Machine.execMstt s
  | .mlda => Sys2Proof.Machine.execMlda s
  | .msta => Sys2Proof.Machine.execMsta s
  | .mzero => Sys2Proof.Machine.execMzero s
  | .mrd => Sys2Proof.Machine.execMrd s
  | .mwr => Sys2Proof.Machine.execMwr s
  | .mwait => Sys2Proof.Machine.execMwait s
  | .mcfg => Sys2Proof.Machine.execMcfg s
  | .tmv => Sys2Proof.Machine.execTmv s
  | .tmva => Sys2Proof.Machine.execTmva s
  | .tmvt => Sys2Proof.Machine.execTmvt s
  | .pldv => Sys2Proof.Machine.execPldv s
  | .pstb => Sys2Proof.Machine.execPstb s
  | .rlq => Sys2Proof.Machine.execRlq s
  | .rldw => Sys2Proof.Machine.execRldw s
  | .rst => Sys2Proof.Machine.execRst s
  | .rfence => Sys2Proof.Machine.execRfence s
  | .ladle => Sys2Proof.Machine.execLadle s
  | .lstat => Sys2Proof.Machine.execLstat s
  | .labort => Sys2Proof.Machine.execLabort s
  | .lresume => Sys2Proof.Machine.execLresume s
  | .ratom => Sys2Proof.Machine.execRatom s
  | .launch => Sys2Proof.Machine.execLaunch s
  | .launchi => Sys2Proof.Machine.execLaunchi s
  | .semw => Sys2Proof.Machine.execSemw s
  | .semset => Sys2Proof.Machine.execSemset s
  | .seminc => Sys2Proof.Machine.execSeminc s
  | .irq => Sys2Proof.Machine.execIrq s
  | .jmpq => Sys2Proof.Machine.execJmpq s
  | .callq => Sys2Proof.Machine.execCallq s
  | .retq => Sys2Proof.Machine.execRetq s
  | .waitg => Sys2Proof.Machine.execWaitg s
  | .fenceq => Sys2Proof.Machine.execFenceq s
  | .haltq => Sys2Proof.Machine.execHaltq s
  | .kickq => Sys2Proof.Machine.execKickq s
  | .movsRead => Sys2Proof.Machine.execMovsRead s
  | .movsWrite => Sys2Proof.Machine.execMovsWrite s
  | .rdsys => Sys2Proof.Machine.execRdsys s
  | .wrsys => Sys2Proof.Machine.execWrsys s
  | .wbr => Sys2Proof.Machine.execWbr s
  | .invr => Sys2Proof.Machine.execInvr s
  | .resumetWreg => Sys2Proof.Machine.execResumetWreg s
  | .resumetRetry => Sys2Proof.Machine.execResumetRetry s
  | .resumetSkip => Sys2Proof.Machine.execResumetSkip s
  | .resumetRepl => Sys2Proof.Machine.execResumetRepl s
  | .resumetJump => Sys2Proof.Machine.execResumetJump s
  | .resumetKill => Sys2Proof.Machine.execResumetKill s
  | .kick => Sys2Proof.Machine.execKick s
  | .engineEnable => Sys2Proof.Machine.execEngineEnable s
  | .engineDisable => Sys2Proof.Machine.execEngineDisable s
  | .ringPacket => Sys2Proof.Machine.execRingPacket s
  | .ringIdleTimeout => Sys2Proof.Machine.execRingIdleTimeout s
  | .registerWrite => Sys2Proof.Machine.execRegisterWrite s
  | .firmwareProposal => Sys2Proof.Machine.execFirmwareProposal s
  | .dispatchReserve => Sys2Proof.Machine.execDispatchReserve s
  | .reserve => Sys2Proof.Machine.execReserve s
  | .reserveAnswer => Sys2Proof.Machine.execReserveAnswer s
  | .commit => Sys2Proof.Machine.execCommit s
  | .release => Sys2Proof.Machine.execRelease s
  | .backoffExpiry => Sys2Proof.Machine.execBackoffExpiry s
  | .teamStart => Sys2Proof.Machine.execTeamStart s
  | .slotFree => Sys2Proof.Machine.execSlotFree s
  | .gridComplete => Sys2Proof.Machine.execGridComplete s
  | .stripRegisterFree => Sys2Proof.Machine.execStripRegisterFree s
  | .regpoolStall => Sys2Proof.Machine.execRegpoolStall s
  | .portSlotDeliver => Sys2Proof.Machine.execPortSlotDeliver s
  | .patternEngineStep => Sys2Proof.Machine.execPatternEngineStep s
  | .decoupleTimeout => Sys2Proof.Machine.execDecoupleTimeout s
  | .stripOperation => Sys2Proof.Machine.execStripOperation s
  | .meetingRelease => Sys2Proof.Machine.execMeetingRelease s
  | .jointPerform => Sys2Proof.Machine.execJointPerform s
  | .barrierPhaseComplete => Sys2Proof.Machine.execBarrierPhaseComplete s
  | .cohortBarrierRelease => Sys2Proof.Machine.execCohortBarrierRelease s
  | .gridBarrierRelease => Sys2Proof.Machine.execGridBarrierRelease s
  | .sleepExpiry => Sys2Proof.Machine.execSleepExpiry s
  | .waitwRepoll => Sys2Proof.Machine.execWaitwRepoll s
  | .semaphoreWaitSatisfied => Sys2Proof.Machine.execSemaphoreWaitSatisfied s
  | .sliceRequest => Sys2Proof.Machine.execSliceRequest s
  | .replayReinject => Sys2Proof.Machine.execReplayReinject s
  | .walkRequest => Sys2Proof.Machine.execWalkRequest s
  | .faultRecordPost => Sys2Proof.Machine.execFaultRecordPost s
  | .memoryReply => Sys2Proof.Machine.execMemoryReply s
  | .storeAck => Sys2Proof.Machine.execStoreAck s
  | .domainSwitchComplete => Sys2Proof.Machine.execDomainSwitchComplete s
  | .cxlMemAccess => Sys2Proof.Machine.execCxlMemAccess s
  | .backInvalidateResponse => Sys2Proof.Machine.execBackInvalidateResponse s
  | .publExchange => Sys2Proof.Machine.execPublExchange s
  | .copyProgress => Sys2Proof.Machine.execCopyProgress s
  | .copyComplete => Sys2Proof.Machine.execCopyComplete s
  | .msgArrival => Sys2Proof.Machine.execMsgArrival s
  | .msgDeliver => Sys2Proof.Machine.execMsgDeliver s
  | .nredContribution => Sys2Proof.Machine.execNredContribution s
  | .wdqAnswer => Sys2Proof.Machine.execWdqAnswer s
  | .engineGrant => Sys2Proof.Machine.execEngineGrant s
  | .latchRelease => Sys2Proof.Machine.execLatchRelease s
  | .mmaChunkCommit => Sys2Proof.Machine.execMmaChunkCommit s
  | .mmaComplete => Sys2Proof.Machine.execMmaComplete s
  | .matrixQueueOp => Sys2Proof.Machine.execMatrixQueueOp s
  | .matrixTransferComplete => Sys2Proof.Machine.execMatrixTransferComplete s
  | .kettleBeatPeriod => Sys2Proof.Machine.execKettleBeatPeriod s
  | .kettleIdleLimit => Sys2Proof.Machine.execKettleIdleLimit s
  | .kettleFire => Sys2Proof.Machine.execKettleFire s
  | .messageProbeTimeout => Sys2Proof.Machine.execMessageProbeTimeout s
  | .escapeStep => Sys2Proof.Machine.execEscapeStep s
  | .trapRecordPost => Sys2Proof.Machine.execTrapRecordPost s
  | .rangeRegisterCommit => Sys2Proof.Machine.execRangeRegisterCommit s
  | .domainCommit => Sys2Proof.Machine.execDomainCommit s
  | .exportCommit => Sys2Proof.Machine.execExportCommit s
  | .ptrootWrite => Sys2Proof.Machine.execPtrootWrite s
  | .contextCreate => Sys2Proof.Machine.execContextCreate s
  | .contextDestroy => Sys2Proof.Machine.execContextDestroy s
  | .faultRingSet => Sys2Proof.Machine.execFaultRingSet s
  | .frheadWrite => Sys2Proof.Machine.execFrheadWrite s
  | .trapRingSet => Sys2Proof.Machine.execTrapRingSet s
  | .trheadWrite => Sys2Proof.Machine.execTrheadWrite s
  | .saveAreaSet => Sys2Proof.Machine.execSaveAreaSet s
  | .preemptRequest => Sys2Proof.Machine.execPreemptRequest s
  | .saveComplete => Sys2Proof.Machine.execSaveComplete s
  | .lateReply => Sys2Proof.Machine.execLateReply s
  | .restoreRequest => Sys2Proof.Machine.execRestoreRequest s
  | .restoreComplete => Sys2Proof.Machine.execRestoreComplete s
  | .contextKill => Sys2Proof.Machine.execContextKill s
  | .killComplete => Sys2Proof.Machine.execKillComplete s
  | .controlStateError => Sys2Proof.Machine.execControlStateError s
  | .patrolScrub => Sys2Proof.Machine.execPatrolScrub s
  | .counterFlush => Sys2Proof.Machine.execCounterFlush s
  | .powerThrottle => Sys2Proof.Machine.execPowerThrottle s
  | .flitReceive => Sys2Proof.Machine.execFlitReceive s
  | .parityArrival => Sys2Proof.Machine.execParityArrival s
  | .flitReplayArrival => Sys2Proof.Machine.execFlitReplayArrival s
  | .flitRecoveryTimeout => Sys2Proof.Machine.execFlitRecoveryTimeout s
  | .parityRequest => Sys2Proof.Machine.execParityRequest s
  | .replayRequest => Sys2Proof.Machine.execReplayRequest s
  | .flitAck => Sys2Proof.Machine.execFlitAck s
  | .linkTraining => Sys2Proof.Machine.execLinkTraining s
  | .linkTrainRetry => Sys2Proof.Machine.execLinkTrainRetry s
  | .fabricPacketForward => Sys2Proof.Machine.execFabricPacketForward s
  | .remoteRequestArrival => Sys2Proof.Machine.execRemoteRequestArrival s
  | .parkNotice => Sys2Proof.Machine.execParkNotice s
  | .remoteReply => Sys2Proof.Machine.execRemoteReply s
  | .remoteTimeout => Sys2Proof.Machine.execRemoteTimeout s
  | .scaleOutRma => Sys2Proof.Machine.execScaleOutRma s
  | .ladleChunkArrival => Sys2Proof.Machine.execLadleChunkArrival s
  | .ladleChunkAnswer => Sys2Proof.Machine.execLadleChunkAnswer s
  | .ladleBusyRetry => Sys2Proof.Machine.execLadleBusyRetry s
  | .ladleDone => Sys2Proof.Machine.execLadleDone s
  | .ladleCommit => Sys2Proof.Machine.execLadleCommit s
  | .ladlePublished => Sys2Proof.Machine.execLadlePublished s
  | .ladleFinished => Sys2Proof.Machine.execLadleFinished s
  | .fabricIdWrite => Sys2Proof.Machine.execFabricIdWrite s
  | .powerGood => Sys2Proof.Machine.execPowerGood s
  | .firmwareStart => Sys2Proof.Machine.execFirmwareStart s
  | .hbmTrainingDone => Sys2Proof.Machine.execHbmTrainingDone s
  | .cxlTrainingDone => Sys2Proof.Machine.execCxlTrainingDone s
  | .umturTrainingDone => Sys2Proof.Machine.execUmturTrainingDone s
  | .stageTimeout => Sys2Proof.Machine.execStageTimeout s
  | .reportCatalogue => Sys2Proof.Machine.execReportCatalogue s
  | .partitionCreate => Sys2Proof.Machine.execPartitionCreate s
  | .partitionDestroy => Sys2Proof.Machine.execPartitionDestroy s
  | .decoderProgram => Sys2Proof.Machine.execDecoderProgram s
  | .ideRequire => Sys2Proof.Machine.execIdeRequire s
  | .imageWrite => Sys2Proof.Machine.execImageWrite s
  | .linkRetrain => Sys2Proof.Machine.execLinkRetrain s
  | .powerLoss => Sys2Proof.Machine.execPowerLoss s
  | .linkCreditReturn => Sys2Proof.Machine.execLinkCreditReturn s
  | .pstbComplete => Sys2Proof.Machine.execPstbComplete s
  | .shdwComplete => Sys2Proof.Machine.execShdwComplete s
  | .doeRequest => Sys2Proof.Machine.execDoeRequest s
  | .unknownCommand => Sys2Proof.Machine.execUnknownCommand s
  | .fidExchange => Sys2Proof.Machine.execFidExchange s

end Sys2Proof.Machine
end

