-- ==== Sys2Proof/Machine/Boot.lean ====
section
/-! DEFINITION. A machine with one program loaded: what stands for bring-up, partition, context, page table, launch and
placement, so that the next step issues the instruction given. -/

namespace Sys2Proof.Machine

/-- The code address of the loaded program. -/
def bootPc : Nat := 0x1000

/-- A field value in place. -/
def place (v lo : Nat) : Nat := v * 2 ^ lo

/-- Partition 0: one slice, IAs 0 to 1 GiB, key 0, contexts 0 to 255, every engine and core, root at 0x10000 (R361). -/
def bootPart : Partition :=
  { desc := BitVec.ofNat 2048 (1 + place 1 534 + place 1 576 + place 256 648 + place 32 662 + place 0x10000 704 +
      place (2 ^ 1024 - 1) 768),
    domains := [{ hmr := 1, v := true, dbase := 0, dend := 1 }] ++ List.replicate 7 {} }

/-- Context 1: running, with one range register over its first GiB (R146). -/
def bootCtx : Context :=
  { v := true, cstate := 1, frlog := 4, trlog := 4, sasize := 2,
    ranges := BitVec.ofNat 192 (0xF + place 512 85) :: List.replicate 15 0 }

/-- The handle table: h0 a plain 32-bit window over the scratchpad. -/
def bootHandle : Handle := BitVec.ofNat 256 (place 196608 64 + place 1 128 + place 2 140)

/-- A launch record of one strip with an access slice, coresident (R328). -/
def bootRecord : BitVec 1024 :=
  BitVec.ofNat 1024 (bootPc + place 1 226 + place 1 256 + place 1024 288 + place 1024 300 + place 3072 320 + place 1 192)

def bootGrid : Grid :=
  { ctx := 1, engine := 0, record := bootRecord, lrec := 0, count := 1, handles := [bootHandle], ports := [], admitted := 1 }

def bootTeam : Team :=
  { gid := 0, ctx := 1, cohort := 0, tix := 0, team := 0, core := 0, pair := false, placed := true, started := true,
    slot := 0, spbase := 0, strips := 1, qmem := [1024], peng := [16] }

/-- Queue engine 0 in a queue program of context 1 at supervisor level. -/
def bootEngine : Engine :=
  { en := true, sup := true, ctx := 1, state := 1, prog := true, base := bootPc, rlog := 12,
    handles := [BitVec.ofNat 256 (place (2 ^ 30) 64 + place 2 140)], hcnt := 1, ctl := { pc := bootPc } }

/-- The unit that runs words of a side. -/
def bootUnit : Side → Agent
  | .exec => .ex 0 0
  | .access => .ap 0 0
  | .queue => .qe 0

/-- Bytes written from an address of HBM. -/
def pokeBytes (m : Memory) (a : Nat) : List Byte → Memory
  | [] => m
  | b :: bs => pokeBytes (m.write (Loc.hbm a).key b) (a + 1) bs

/-- The state with a program of three words loaded and its unit next to issue. -/
def State.boot (s : State) (w0 w1 w2 : W32) : State :=
  let side := match decodeAnySide w0 w1 w2 with
    | some (x, _) => x
    | none => .exec
  let mem := pokeBytes s.mem 0x10000 (bytesOf 0x20000 ++ bytesOf 0)
  let mem := pokeBytes mem 0x20000 (bytesOf 0x40000001 ++ bytesOf 0)
  let mem := pokeBytes mem (2 ^ 30 + bootPc) (bytesOf w0 ++ bytesOf w1 ++ bytesOf w2)
  let poison := setPoison s.poison ((2 ^ 30 + bootPc) / 4) false 8
  let poison := setPoison (setPoison poison (0x10000 / 4) false 8) (0x20000 / 4) false 8
  let keys := ((s.keys.del ((2 ^ 30 + bootPc) / 32)).del (0x10000 / 32)).del (0x20000 / 32)
  { s with
    mem, poison, keys,
    l2 := s.l2.del (bootPc / 32),
    parts := s.parts.put 0 bootPart,
    ctxs := s.ctxs.put 1 bootCtx,
    grids := s.grids.put 0 bootGrid,
    teams := s.teams.put 0 bootTeam,
    strips := s.strips.put (stripKey 0 0) {},
    exs := (List.range 16).foldl (fun m i => m.put (exKey 0 i) { ctl := { pc := bootPc } }) s.exs,
    aps := s.aps.put (stripKey 0 0) { ctl := { pc := bootPc } },
    engines := s.engines.put 0 bootEngine,
    cores := s.cores.put 0 { s.cores.get 0 {} with icache := [], group := [], groupAt := none, exFree := 0, apAt := none,
                                                    windows := [(0, 196608, 1)] },
    mgmt := { s.mgmt with slow := 0, cores := List.replicate 4 (16 * Config.gridRows) },
    agenda := [.issue (bootUnit side)] }

/-- The word number i of an instruction given as the bits of nbits bits. -/
def State.bootBits (s : State) (nbits w : Nat) : State :=
  let v := w % 2 ^ nbits
  s.boot (tableWord v 0) (tableWord v 1) (tableWord v 2)

end Sys2Proof.Machine
end

