-- ==== Sys2Proof/Machine/Due.lean ====
section
/-! DEFINITION. The order the model gives to what the manual leaves unordered when its agenda is empty: which event is due,
which unit issues (R290-R292), which store drains, and when time passes. -/

namespace Sys2Proof.Machine

/-! ### Events that may be due -/

/-- An event and what names it. -/
abbrev Event := Instr × Occ

/-- Events about one numbered thing. -/
def eventsOf (is : List Instr) (n : Nat) : List Event := is.map (fun i => (i, .num n))

/-- Events of requests. -/
def State.reqEvents (s : State) : List Event :=
  s.reqs.flatMap (fun q => eventsOf
    [.sliceRequest, .replayReinject, .walkRequest, .portSlotDeliver, .memoryReply, .storeAck, .lateReply, .remoteTimeout] q.1)

/-- Events of contexts and partitions. -/
def State.ctxEvents (s : State) : List Event :=
  (s.parts.flatMap (fun p => (List.range 8).map (fun d => (Instr.domainSwitchComplete, Occ.num2 p.1 d)))) ++
    s.ctxs.flatMap (fun c => eventsOf
      [.faultRecordPost, .trapRecordPost, .kettleFire, .saveComplete, .restoreComplete, .killComplete] c.1 ++
      [(.lateReply, .num2 c.1 0)])

/-- Events of queue engines. -/
def State.engineEvents (s : State) : List Event :=
  s.engines.flatMap (fun e => eventsOf
    [.rangeRegisterCommit, .domainCommit, .exportCommit, .ptrootWrite, .contextCreate, .contextDestroy, .faultRingSet, .frheadWrite,
     .trapRingSet, .trheadWrite, .saveAreaSet, .contextKill, .restoreRequest, .preemptRequest, .ringPacket, .ringIdleTimeout] e.1)

/-- Events of placement, teams and grids. -/
def State.teamEvents (s : State) : List Event :=
  (s.props.flatMap (fun p => (.dispatchReserve, .num p.1) :: (.backoffExpiry, .num p.1) ::
    (s.propCores p.2).flatMap (fun c =>
      [Instr.reserve, .reserveAnswer, .commit, .release].map (fun i => (i, Occ.num2 p.1 c))))) ++
    (s.teams.flatMap (fun t =>
      eventsOf [.teamStart, .slotFree, .regpoolStall, .kettleBeatPeriod, .kettleIdleLimit, .latchRelease] t.1 ++
        (List.range 16).map (fun b => (Instr.barrierPhaseComplete, Occ.num2 t.1 b)) ++
          [(.cohortBarrierRelease, .num2 t.2.gid t.2.cohort)])) ++
    s.grids.flatMap (fun g => eventsOf [.gridBarrierRelease, .gridComplete] g.1)

/-- Events of strips and ports. -/
def State.stripEvents (s : State) : List Event :=
  (s.strips.flatMap (fun x => eventsOf [.stripOperation, .decoupleTimeout] x.1 ++
    x.2.regs.map (fun r => (Instr.stripRegisterFree, Occ.num3 (x.1 / 128) (x.1 % 128) r.id)))) ++
    s.ports.map (fun p => (Instr.patternEngineStep, Occ.num p.1))

/-- Events of units. -/
def State.unitEvents (s : State) : List Event :=
  (s.exs.map (fun x => (Instr.meetingRelease, Occ.num2 (x.1 / 2048) (x.1 % 2048)))) ++
    s.units.flatMap (fun u => [(.sleepExpiry, .unit u), (.semaphoreWaitSatisfied, .unit u), (.waitwRepoll, .unit u)])

/-- Events of the matrix engines. -/
def State.coreEvents (s : State) : List Event :=
  s.cores.flatMap (fun c => eventsOf [.engineGrant, .matrixQueueOp, .mmaChunkCommit, .mmaComplete] c.1 ++
    c.2.queue.map (fun q => (Instr.matrixTransferComplete, Occ.num2 c.1 q.id)))

/-- The first element of a copy not yet performed. -/
def Copy.nextElem (c : Copy) : Nat :=
  match c.done with
  | (lo, hi) :: _ => if lo = 0 then hi else 0
  | [] => 0

/-- Events of asynchronous operations. -/
def State.asyncEvents (s : State) : List Event :=
  (s.copies.flatMap (fun c => [(.copyProgress, .num2 c.1 c.2.nextElem), (.copyComplete, .num c.1)])) ++
    s.pubs.flatMap (fun p => eventsOf [.shdwComplete, .publExchange] p.1) ++
    (List.range s.inbound.length).flatMap (fun i => [(.shdwComplete, .num2 i 1), (.publExchange, .num2 i 1)]) ++
    s.pstbs.flatMap (fun p => eventsOf [.pstbComplete] p.1) ++
    s.msgs.flatMap (fun m => eventsOf [.msgArrival, .msgDeliver] m.1) ++
    s.nreds.flatMap (fun m => eventsOf [.nredContribution] m.1) ++
    s.wdqs.flatMap (fun m => eventsOf [.wdqAnswer] m.1) ++
    s.plans.flatMap (fun p => eventsOf [.ladleDone, .ladleCommit, .ladleFinished] p.1)

/-- Events of links, firmware and bring-up that need nothing from outside. -/
def State.partEvents (s : State) : List Event :=
  (s.links.flatMap (fun l => eventsOf [.flitRecoveryTimeout, .linkTrainRetry] l.1)) ++
    [Instr.stageTimeout, .counterFlush, .reportCatalogue, .partitionCreate, .partitionDestroy, .linkRetrain, .unknownCommand].map
      (fun i => (i, Occ.none))

/-- Events that come after every unit has had its turn in a clock: joint performances (R313) and the Ladle's sends. -/
def State.lateEvents (s : State) : List Event :=
  (s.exs.map (fun x => (Instr.jointPerform, Occ.num2 (x.1 / 2048) (x.1 % 2048)))) ++
    s.plans.flatMap (fun p => p.2.send.map (fun x => (Instr.ladleChunkAnswer, Occ.num2 p.1 x.1))) ++
    s.plans.flatMap (fun p => p.2.inbox.map (fun x => (Instr.ladleChunkArrival, Occ.num2 p.1 x.index))) ++
    s.plans.flatMap (fun p => (List.range (p.2.regions s.mgmt.fid).length).flatMap (fun i =>
      match (p.2.regions s.mgmt.fid)[i]? with
      | some r => (List.range r.n).map (fun k => (Instr.ladleBusyRetry, Occ.num2 p.1 (r.first + k)))
      | none => []))

/-- Whether an event changes anything now. -/
def State.would (s : State) (e : Event) : Bool :=
  match exec e.1 { s with occ := e.2 } with
  | .next t => decide ({ t with occ := s.occ } ≠ s)
  | _ => false

/-- The event that is due first, when one is. -/
def State.due (s : State) : Option Event :=
  (s.ctxEvents ++ s.engineEvents ++ s.reqEvents ++ s.coreEvents ++ s.asyncEvents ++ s.stripEvents ++ s.unitEvents ++ s.teamEvents ++
    s.partEvents).find? s.would

/-! ### The policy -/

/-- A buffered store that may leave (R230). -/
def State.pickDrain (s : State) : Option (Agent × Nat) :=
  s.units.findSome? (fun u => [0, 1, 2, 3].findSome? (fun c => if (s.drain u c).isSome then some (u, c) else none))

/-- What moves next, in order, when nothing is asked for. -/
def State.policy (s : State) : List Choice :=
  match s.due with
  | some (i, o) => [.run i o]
  | none =>
  match s.firmwareNext with
  | some (gid, l) => [.run .firmwareProposal (.proposal gid l)]
  | none =>
    match s.firstOf (s.units.filter (fun u => s.canIssue u && !s.isReady u && !s.turnless u)) with
    | some u => [.attempt u]
    | none =>
      match s.units.find? (fun u => s.mayIssue u) with
      | some u => [.issue u]
      | none =>
        match s.lateEvents.find? s.would with
        | some (i, o) => [.run i o]
        | none =>
          match s.pickDrain with
          | some (u, c) => [.drain u c]
          | none => [.tick 1]

end Sys2Proof.Machine
end

