-- ==== Sys2Proof/Machine/Run.lean ====
section
/-! DEFINITION. What one step does with what moves next. -/

namespace Sys2Proof.Machine

/-- A unit tries its next instruction: k gives what becomes of the state that executing it leads to. -/
def State.tryNext (s : State) (u : Agent) (k : Insn → State → State) : Host.Outcome State Fault Refusal :=
  match s.next u with
  | .idle => .next s
  | .done t => .next t
  | .run i t =>
    match exec i.op t with
    | .next r => .next (k i r)
    | x => x

/-- A unit issues its next instruction, when it may. -/
def State.issue (s : State) (u : Agent) : Host.Outcome State Fault Refusal :=
  if !s.mayIssue u then .next s else s.tryNext u (s.issued u)

/-- A unit that is not known to be ready finds out whether its next instruction could issue (R289). -/
def State.attempt (s : State) (u : Agent) : Host.Outcome State Fault Refusal :=
  if !s.canIssue u || s.isReady u || s.turnless u then .next s
  else s.tryNext u (fun _ r => if r.vain u then r else s.found u)

/-- What one choice does. An instruction row is executed only by a unit that issues it. -/
def State.choose (s : State) (c : Choice) : Host.Outcome State Fault Refusal :=
  match c with
  | .run i o => if (code i).isSome then .next s else exec i { s with occ := o }
  | .issue u => s.issue u
  | .attempt u => s.attempt u
  | .drain u cls => .next ((s.drain u cls).getD s)
  | .evict n => .next (s.dropSector n)
  | .evictL1 c l => .next (s.modCore c (fun x => { x with l1 := x.l1.del l }))
  | .evictI c => .next (s.modCore c (fun x => { x with icache := [] }))
  | .strike x => .next ((s.noteStrike x false).strike x)
  | .corrected x => .next (s.noteStrike x true)
  | .parityL1 c l => .next (s.parityL1 c l)
  | .parityI c => .next (s.parityI c)
  | .parityWalk k => .next (s.parityWalk k)
  | .heat b => .next (if b < 16 then s.modMgmt (fun m => { m with heat := b }) else s)
  | .tick n => .next (s.clock (max n 1))

/-- The next choice: the first of the agenda, or of what the policy gives, whose rest then stands in the agenda. -/
def State.advanceOnce (s : State) : Host.Outcome State Fault Refusal :=
  match s.agenda with
  | c :: rest => ({ s with agenda := rest } : State).choose c
  | [] => match s.policy with
    | c :: rest => ({ s with agenda := rest } : State).choose c
    | [] => .next s

end Sys2Proof.Machine
end

