-- ==== Sys2Proof/Machine/Step.lean ====
section
/-! DEFINITION. The step of the machine, and a machine whose next step runs one given instruction. -/

namespace Sys2Proof.Machine

/-- One step. -/
def step (s : State) : Host.Outcome State Fault Refusal := s.advanceOnce

/-- The state with an instruction, given by its bits, stored where the next step fetches it. The part selects its programs itself
(bring-up, launch, placement): all that this takes is set too. -/
def State.withFetchWord (s : State) (nbits w : Nat) : State := s.bootBits nbits w

end Sys2Proof.Machine
end

