-- ==== Sys2Proof/Safety.lean ====
section
/-! DEFINITION. What counts as a safe run, in the terms the statements use: the canonical form of memory, and what surrounds an
instruction that executes. -/

namespace Sys2Proof.Machine

/-- Memory is in its canonical form: keys strictly rising, no byte listed that an unlisted key reads as. -/
def State.memWf (s : State) : Bool := Memory.wf s.mem

/-- A step stops: with a fault or a refusal. -/
def Stops (o : Host.Outcome State Fault Refusal) : Prop :=
  match o with
  | .next _ => False
  | _ => True

/-! ### An instruction that executes (R42, R44, R45) -/

/-- Unit u executes the instruction whose operands are s.ir: its guard is true, or on the access side at least one lane is
active, no predicate that decides this is poisoned, and in check mode no hint was too short. -/
def Executes (s : State) (u : Agent) (sh : Shape) : Prop :=
  s.cur = some u ∧
    match u with
    | .ex tm tid => ∃ x t, s.exs.find (exKey tm tid) = some x ∧ s.teams.find tm = some t ∧
        exGuard x s.ir = ⟨true, false⟩ ∧ (LRec.check (s.recordOf t) && hazHit x.hazards s.ir sh) = false
    | .ap tm sp => ∃ x, s.aps.find (stripKey tm sp) = some x ∧ (apGuard x s.ir).poison = false ∧ (apGuard x s.ir).bits ≠ 0
    | .qe n => ∃ e, s.engines.find n = some e

/-- The state in which the body of an instruction runs: the pc past it, the stall hint set, the words of a packet taken
(R44, R290, R325). -/
def State.past (s : State) (u : Agent) : State :=
  let n := s.ir.form.bytes
  let s' := s.modCtl u (fun c =>
    { c with pc := (c.pc + n) % 2 ^ 64, status := .ready, lastIssue := some s.now,
             stallUntil := s.now + s.ir.stall.toNat, readySince := s.now + max s.ir.stall.toNat 1, able := false })
  match u with
  | .qe q => s'.modEngine q (fun e => if e.prog then e else { e with left := e.left - n / 4 })
  | _ => s'

/-- The idle clocks of a unit's team start anew unless it waits (R349). -/
def State.idled (s : State) (u : Agent) : State :=
  match u with
  | .ex tm _ | .ap tm _ => if s.waits u then s else s.modTeam tm (fun t => { t with idle := 0 })
  | .qe _ => s

/-- The state after an instruction that began in s and whose body left t: in check mode the watched writes (R45), then the idle
clocks. -/
def State.closed (s t : State) (u : Agent) (i : Instr) (sh : Shape) : State :=
  (match u with
    | .ex tm tid =>
      if (s.teams.find tm).elim false (fun g => LRec.check (s.recordOf g)) then
        t.modEx tm tid (fun x => { x with hazards := hazNext x.hazards i s.ir sh true })
      else t
    | _ => t).idled u

/-- What the source fields of the instruction deliver to its body, and the state they leave (pops and last-read marks). -/
def Delivers (s : State) (u : Agent) (sh : Shape) (lk : LitKind) (v : Opnds) (t : State) : Prop :=
  fetch sh lk (s.past u) = .ok (v, t)

/-- Writing a field gives a state. -/
def Writes (s : State) (f : Field) (w : Nat) (v : Lanes) (t : State) : Prop := writeF f w v s = .ok ((), t)

/-! ### Units, fields and results -/

/-- The operation width W of a unit (R81). -/
def widthOf : Agent → Nat
  | .ex _ _ => 32
  | _ => 64

/-- A unit as the machine numbers it: threads below 2048, strips below 128 (R17). -/
def unitOk : Agent → Prop
  | .ex _ tid => tid < 2048
  | .ap _ sp => sp < 128
  | .qe _ => True

/-- A field that names no port. -/
def noPort (f : Field) : Bool := (portOf f).isNone

/-- What a source field that names no port delivers to an execute thread (R34, R37, R29). -/
def execSource (s : State) (tm tid : Nat) (f : Field) (w : Nat) (lk : LitKind) : Val :=
  match f with
  | .lit v => Val.of (litVal .exec lk w v)
  | .reg n _ => readEx s tm tid n w
  | .imm v => Val.of (v.setWidth 64)
  | _ => Val.zero

/-- The same for an access thread, by lane (R35, R82). -/
def accessSource (s : State) (tm : Nat) (x : ApThread) (f : Field) (w : Nat) (lk : LitKind) : Lanes :=
  match f with
  | .lit v => fun _ => Val.of (litVal .access lk w v)
  | .reg n _ => readAp s tm x n
  | .imm v => fun _ => Val.of (v.setWidth 64)
  | _ => fun _ => Val.zero

/-- The same for a queue engine (R36). -/
def engineSource (e : Engine) (f : Field) (w : Nat) (lk : LitKind) : Val :=
  match f with
  | .lit v => Val.of (litVal .queue lk w v)
  | .reg n _ => readQ e n
  | .imm v => Val.of (v.setWidth 64)
  | _ => Val.zero

/-- The names a field marks as read for the last time (R41). -/
def marksOf (f : Field) (w : Nat) : List Nat :=
  match f with
  | .reg (.g _) true => gNames f (max w 1)
  | _ => []

/-- The names an instruction marks. -/
def marksIn (o : Ops) (sh : Shape) : List Nat := marksOf o.a sh.a ++ marksOf o.b sh.b ++ marksOf o.c sh.c

/-- A strip's registers are well formed: a current register exists, is the name's own and is not dead, and numbers are below
the next one (R298, R300). -/
def Strip.sound (t : Strip) (next : Nat) : Prop :=
  t.cur.wf = true ∧ (∀ r ∈ t.regs, r.id < next) ∧
    ∀ n c, t.cur.find n = some c → (∃ r ∈ t.regs, r.id = c.1) ∧ ∀ r ∈ t.regs, r.id = c.1 → r.name = n ∧ r.live ≠ 0

/-- Every strip's registers are well formed, in a map that is in its canonical form. -/
def State.stripsSound (s : State) : Prop := s.strips.wf = true ∧ ∀ k t, s.strips.find k = some t → t.sound s.fresh

/-- Whether an execute thread can be given the strip-registers that writes to some names take (R298, R301). -/
def State.canAlloc (s : State) (tm tid : Nat) (g : Team) (names : List Nat) : Prop :=
  let pool := LRec.regpool (s.recordOf g)
  let need := (names.filter (fun n => (s.strip tm (tid / 16)).needsAlloc n (tid % 16))).length
  names.length ≤ pool ∧
    (need = 0 ∨ (s.poolUsed tm g (g.coreOf (tid / 16)) + need ≤ pool ∧ s.poolAhead tm g tid = false))

/-- The integer rows whose result on each lane is a function of W, x8 and the operands, with their fields (R86, R87, R89-R91). -/
def intRows : List (List Instr × Shape × (Nat → Nat → Nat → Nat → Nat → Nat)) :=
  [([.mov, .movLong], one1, fun w _ a _ _ => movW w a),
   ([.iadd, .iaddLong], two1, fun w _ a b _ => iaddW w a b),
   ([.isub, .isubLong], two1, fun w _ a b _ => isubW w a b),
   ([.imul, .imulLong], two1, fun w _ a b _ => imulW w a b),
   ([.imulh, .imulhLong], two1, fun w _ a b _ => imulhW w a b),
   ([.imulhu, .imulhuLong], two1, fun w _ a b _ => imulhuW w a b),
   ([.imin, .iminLong], two1, fun w _ a b _ => iminW w a b),
   ([.imax, .imaxLong], two1, fun w _ a b _ => imaxW w a b),
   ([.umin, .uminLong], two1, fun w _ a b _ => uminW w a b),
   ([.umax, .umaxLong], two1, fun w _ a b _ => umaxW w a b),
   ([.and, .andLong], two1, fun w _ a b _ => andW w a b),
   ([.or, .orLong], two1, fun w _ a b _ => orW w a b),
   ([.xor, .xorLong], two1, fun w _ a b _ => xorW w a b),
   ([.andn, .andnLong], two1, fun w _ a b _ => andnW w a b),
   ([.shl, .shlLong], two1, fun w _ a b _ => shlW w a b),
   ([.shr, .shrLong], two1, fun w _ a b _ => shrW w a b),
   ([.sar, .sarLong], two1, fun w _ a b _ => sarW w a b),
   ([.rotl, .rotlLong], two1, fun w _ a b _ => rotlW w a b),
   ([.popc, .popcLong], one1, fun w _ a _ _ => popcW w a),
   ([.clz, .clzLong], one1, fun w _ a _ _ => clzW w a),
   ([.brev, .brevLong], one1, fun w _ a _ _ => brevW w a),
   ([.iabs, .iabsLong], one1, fun w _ a _ _ => iabsW w a),
   ([.ineg, .inegLong], one1, fun w _ a _ _ => inegW w a),
   ([.sh2add, .sh2addLong], two1, fun w _ a b _ => sh2addW w a b),
   ([.sh3add, .sh3addLong], two1, fun w _ a b _ => sh3addW w a b),
   ([.pack2, .pack2Long], two1, fun w _ a b _ => pack2W w a b),
   ([.imad], ({} : Shape), fun w _ a b c => imadW w a b c),
   ([.imad64], ({ d := 2, c := 2 } : Shape), fun _ x a b c => imad64W (bit x 0) a b c),
   ([.iadd64], pairs2, fun _ _ a b _ => iaddW 64 a b),
   ([.isub64], pairs2, fun _ _ a b _ => isubW 64 a b),
   ([.imulw], ({ d := 2, c := 0 } : Shape), fun _ x a b _ => imulwW (bit x 0) a b),
   ([.bfget], two1, fun w x a b _ => bfgetW w (bit x 0) a b),
   ([.bfput], ({} : Shape), fun w _ a b c => bfputW w a b c),
   ([.bysel], ({} : Shape), fun _ _ a b c => byselW a b c),
   ([.idiv], two1, fun w _ a b _ => idivW w a b),
   ([.udiv], two1, fun w _ a b _ => udivW w a b),
   ([.irem], two1, fun w _ a b _ => iremW w a b),
   ([.urem], two1, fun w _ a b _ => uremW w a b),
   ([.isad], ({} : Shape), fun w x a b c => isadW w (bit x 0) a b c),
   ([.funnel], ({} : Shape), fun w x a b c => funnelW w (bit x 0) a b c),
   ([.iadds], two1, fun w x a b _ => iaddsW w (bit x 0) a b),
   ([.isubs], two1, fun w x a b _ => isubsW w (bit x 0) a b)]

/-- The integer rows with an immediate operand (R84, R86). -/
def immRows : List (List Instr × (Nat → Nat → Int → Nat)) :=
  [([.shli, .shliLong], shliW), ([.shri, .shriLong], shriW), ([.sari, .sariLong], sariW), ([.iaddi, .iaddiLong], iaddiW)]

/-- The floating-point rows with a register result, with their fields, how a literal reads, and the result with its flags as a
function of x8 and the operands (R94-R97, R99-R102). -/
def fpRows : List (List Instr × Shape × LitKind × (Nat → Nat → Nat → Nat → FRes)) :=
  [([.fadd, .faddLong], two1, .int, fun x a b _ => binary32.add (x % 8) a b),
   ([.fsub, .fsubLong], two1, .int, fun x a b _ => binary32.sub (x % 8) a b),
   ([.fmul, .fmulLong], two1, .int, fun x a b _ => binary32.mul (x % 8) a b),
   ([.fmin, .fminLong], two1, .int, fun _ a b _ => binary32.minMax false a b),
   ([.fmax, .fmaxLong], two1, .int, fun _ a b _ => binary32.minMax true a b),
   ([.fabs, .fabsLong], one1, .int, fun _ a _ _ => noFlags (a % 2 ^ 31)),
   ([.fneg, .fnegLong], one1, .int, fun _ a _ _ => noFlags (a ^^^ 2 ^ 31)),
   ([.frcp, .frcpLong], one1, .int, fun _ a _ _ => frcpV a),
   ([.frsq, .frsqLong], one1, .int, fun _ a _ _ => frsqV a),
   ([.fsqrt, .fsqrtLong], one1, .int, fun x a _ _ => binary32.sqrt (x % 8) a),
   ([.fexp2, .fexp2Long], one1, .int, fun _ a _ _ => fexp2V a),
   ([.flog2, .flog2Long], one1, .int, fun _ a _ _ => flog2V a),
   ([.fsinpi, .fsinpiLong], one1, .int, fun _ a _ _ => fsinpiV a),
   ([.fcospi, .fcospiLong], one1, .int, fun _ a _ _ => fcospiV a),
   ([.ftanh, .ftanhLong], one1, .int, fun _ a _ _ => ftanhV a),
   ([.fclass, .fclassLong], one1, .int, fun x a _ _ => noFlags ((fmtOf (x % 16)).classOf a)),
   ([.hadd2, .hadd2Long], two1, .int, fun x a b _ => packed (fun p q _ => binary16.add (x % 8) p q) a b 0),
   ([.hmul2, .hmul2Long], two1, .int, fun x a b _ => packed (fun p q _ => binary16.mul (x % 8) p q) a b 0),
   ([.badd2, .badd2Long], two1, .int, fun x a b _ => packed (fun p q _ => bfloat16.add (x % 8) p q) a b 0),
   ([.bmul2, .bmul2Long], two1, .int, fun x a b _ => packed (fun p q _ => bfloat16.mul (x % 8) p q) a b 0),
   ([.ffrac, .ffracLong], one1, .int, fun x a _ _ => binary32.frac (x % 8) a),
   ([.ffloor, .ffloorLong], one1, .int, fun _ a _ _ => binary32.rintV 2 a),
   ([.fceil, .fceilLong], one1, .int, fun _ a _ _ => binary32.rintV 3 a),
   ([.frint, .frintLong], one1, .int, fun x a _ _ => binary32.rintV (x % 8) a),
   ([.fscale, .fscaleLong], two1, .int, fun x a b _ => binary32.scale (x % 8) a (sext b 32)),
   ([.ffma], ({} : Shape), .int, fun x a b c => binary32.fma (x % 8) a b c),
   ([.fdiv], two1, .int, fun x a b _ => binary32.div (x % 8) a b),
   ([.dadd], pairs2, .binary64, fun x a b _ => binary64.add (x % 8) a b),
   ([.dsub], pairs2, .binary64, fun x a b _ => binary64.sub (x % 8) a b),
   ([.dmul], pairs2, .binary64, fun x a b _ => binary64.mul (x % 8) a b),
   ([.dfma], dbl3, .binary64, fun x a b c => binary64.fma (x % 8) a b c),
   ([.ddiv], pairs2, .binary64, fun x a b _ => binary64.div (x % 8) a b),
   ([.dsqrt], dbl1, .int, fun x a _ _ => binary64.sqrt (x % 8) a),
   ([.dmin], pairs2, .binary64, fun _ a b _ => binary64.minMax false a b),
   ([.dmax], pairs2, .binary64, fun _ a b _ => binary64.minMax true a b),
   ([.dclass], ({ a := 2, b := 0, c := 0 } : Shape), .int, fun _ a _ _ => noFlags (binary64.classOf a)),
   ([.hfma2], ({} : Shape), .int, fun x a b c => packed (binary16.fma (x % 8)) a b c),
   ([.bfma2], ({} : Shape), .int, fun x a b c => packed (bfloat16.fma (x % 8)) a b c)]

/-- The conversions, whose fields depend on the formats in x8 (R73, R99). -/
def cvtRows : List (Instr × (Nat → Nat → FRes)) := [(.i2f, i2fV), (.f2i, f2iV), (.fcvt, fcvtV)]

/-- The integer and floating-point rows that write a register, with the fields each has. -/
def registerRows : List (List Instr × (Ops → Shape)) :=
  intRows.map (fun r => (r.1, fun _ => r.2.1)) ++ immRows.map (fun r => (r.1, fun _ => one1)) ++
  fpRows.map (fun r => (r.1, fun _ => r.2.1)) ++ cvtRows.map (fun r => ([r.1], fun o => cvtShape o.x8))

/-- Instructions of the common frame of R42 with the fields each has, under its handle where that sets the width of an access. -/
def fieldRows : List (List Instr × (Ops → Handle → Shape)) :=
  registerRows.map (fun r => (r.1, fun o _ => r.2 o)) ++
  [([.icmpf, .pick], fun _ _ => two1),
   ([.movi], fun o _ => let w := if o.x8.getLsbD 0 then 2 else 1; { d := w, a := 0, b := w, c := 0 }),
   ([.movpGet], fun _ _ => getShape), ([.flut], fun _ _ => { a := 0, b := 0, c := 0 }),
   ([.fcmpf], fun _ _ => { a := 1, b := 1, c := 0 }), ([.dcmpf], fun _ _ => { a := 2, b := 2, c := 0 }),
   ([.fchk], fun o _ => { a := if fmt64 (o.x8.toNat % 16) then 2 else 1, b := 0, c := 0 }),
   ([.bra, .braLong, .exit, .exitLong, .nop, .nopLong, .bkpt, .bkptLong, .yield, .yieldLong, .meet, .meetLong, .beos, .heart, .fence],
     fun _ _ => noShape),
   ([.brx, .brxLong], fun _ _ => { d := 0, a := 1, b := 1, c := 0 }), ([.ret, .retLong], fun _ _ => { d := 0, a := 1, b := 0, c := 0 }),
   ([.call], fun _ _ => linkShape), ([.trap], fun _ _ => { d := 0, b := 0, c := 0 }), ([.sleep], fun _ _ => { d := 0, a := 0, c := 0 }),
   ([.meetr], fun _ _ => { d := 0, b := 2, c := 0 }), ([.pld, .pldLong], fun _ _ => { c := 0 }),
   ([.ldsW, .ldsWLong], fun _ _ => { d := 1, a := 0, b := 1, c := 0 }), ([.ldsD, .ldsDLong], fun _ _ => { d := 2, a := 0, b := 1, c := 0 }),
   ([.lds], fun _ h => { d := if 2 ^ Hnd.ew h = 8 then 2 else 1, a := 0, b := 1, c := 1 }),
   ([.stsW, .stsWLong], fun _ _ => { d := 0, a := 1, b := 1, c := 0 }), ([.stsD, .stsDLong], fun _ _ => { d := 0, a := 2, b := 1, c := 0 }),
   ([.sts, .reds], fun _ h => { d := 0, a := if 2 ^ Hnd.ew h = 8 then 2 else 1, b := 1, c := 1 }),
   ([.atoms], fun _ h => { d := ewFields h, a := ewFields h, b := 1, c := 1 }),
   ([.waitw], fun _ h => { d := ewFields h, a := ewFields h, c := 0 })]

/-- The other instructions of that frame: synchronization, asynchronous work, the matrix engine, port-store streams, ports, the fabric,
special registers and hash tables. -/
def guardRows : List (List Instr × (Ops → Handle → Shape)) :=
  [([.hacc, .msg, .ladle, .lresume, .mldw, .mldt, .mstt, .mlda, .msta], fun _ _ => {}),
   ([.hfind], fun _ _ => { d := 2, b := 0 }), ([.macq, .mrel, .mwait, .cbar, .gbar, .qunbind, .qeos, .qdrain], fun _ _ => noShape),
   ([.barWait, .barArr, .mzero, .mwr, .pat, .rst, .stsc], fun _ _ => { d := 0, c := 0 }),
   ([.sems, .semi], fun _ _ => { d := 0, a := 2, c := 0 }), ([.semwk], fun _ _ => { d := 2, a := 2, c := 0 }),
   ([.arrwInit, .arrwAdd, .arrwTgt, .await, .pstb, .nred], fun _ _ => shDAB), ([.copy, .wdq, .lstat, .labort, .rldw, .ldsc], fun _ _ => shDB),
   ([.cstat, .mrd], fun _ _ => shDA), ([.shdw, .publ, .qstat], fun _ _ => shDOnly), ([.gang], fun _ _ => { d := 0, a := 2, b := 0, c := 0 }),
   ([.mcfg, .movsWrite], fun _ _ => { d := 0, b := 0, c := 0 }), ([.mma], fun _ _ => mmaShape),
   ([.tmv, .tmva], fun o _ => { d := o.x8.toNat % 16 + 1, a := o.x8.toNat / 16 + 1, b := 1, c := 0 }),
   ([.tmvt], fun o _ => { d := o.x8.toNat / 16 + 1, a := o.x8.toNat % 16 + 1, b := 1, c := 0 }),
   ([.pldv], fun o _ => { d := o.x8.toNat % 16 + 1, a := 1, b := 0, c := 0 }),
   ([.qbind, .patgo, .qskip, .lq, .sq, .redq, .sqs, .pfx, .rfence], fun _ _ => { d := 0, a := 0, c := 0 }),
   ([.lql], fun _ _ => { d := 0, a := 0 }), ([.atq], fun _ _ => { d := 0 }),
   ([.ratom], fun o _ => { c := if o.sel.toNat == 9 then 1 else 0 }),
   ([.movsRead], fun o _ => { d := if o.x8.toNat % 128 = 8 then 2 else 1, a := 0, b := 0, c := 0 })]

/-- Every instruction of the common frame but the joint ones and those that act with no lane active, with the fields it has at a unit. -/
def frameRows : List (List Instr × (State → Agent → Shape)) :=
  (fieldRows ++ guardRows).map (fun r => (r.1, fun s u => r.2 s.ir (s.handleOf u s.ir.x8.toNat))) ++
    [([.movpPut], fun s _ => putShape s)]

/-- The joint instructions of LANE (R312). -/
def jointOps : List Instr := [.xshuf, .xbcast, .xpoll, .xred, .xscan, .xmatch, .xsync, .xcompact, .rebal, .ssi]

/-- An instruction that a thread has issued, with its fields and whether it executed. -/
structure Issued where
  op    : Instr
  args  : Ops
  shape : Shape
  ran   : Bool

/-- The registers it writes, as the check of R45 counts them. -/
def Issued.writes (x : Issued) : List Nat :=
  if x.ran then hazWrites x.args x.shape else []

/-- Its latency (R43): 0 stands for variable. -/
def Issued.latency (x : Issued) : Nat :=
  if [x.args.a, x.args.b, x.args.c, x.args.d].any (fun f => (portOf f).isSome) then 0 else latOf x.op

/-- The watched writes after a sequence of instructions of one thread in check mode (R45). -/
def watched (l : List Issued) : List Hazard := l.foldl (fun h x => hazNext h x.op x.args x.shape x.ran) []

/-! ### Rounding (R68, R69) -/

/-- The exact value of a finite pattern (R63). -/
def FV.value : FV → ℚ
  | .fin n m e => (if n then -1 else 1) * (m : ℚ) * (2 : ℚ) ^ e
  | _ => 0

/-- Whether a pattern denotes a finite value. -/
def FV.finite : FV → Bool
  | .fin _ _ _ => true
  | _ => false

/-- A rational rounded to an integer under a mode (R68). -/
def roundQ (mode : Nat) (x : ℚ) : ℤ :=
  let n := ⌊x⌋
  let r := x - n
  match mode with
  | 1 => if x < 0 then ⌈x⌉ else n
  | 2 => n
  | 3 => ⌈x⌉
  | 4 => if r < 1 / 2 ∨ (r = 1 / 2 ∧ x < 0) then n else n + 1
  | _ => if r < 1 / 2 ∨ (r = 1 / 2 ∧ n % 2 = 0) then n else n + 1

/-- A result with its flags is round() of R69 applied to an exact non-zero value: e is the exponent of the value, y the value rounded at the
format's spacing, yu the value rounded with the exponent unbounded. -/
def RoundsTo (f : Fmt) (mode : Nat) (x : ℚ) (r : FRes) : Prop :=
  ∃ e : ℤ, (2 : ℚ) ^ e ≤ |x| ∧ |x| < (2 : ℚ) ^ (e + 1) ∧
    let q := (2 : ℚ) ^ (max e f.emin - f.p + 1)
    let y := roundQ mode (x / q) * q
    let qu := (2 : ℚ) ^ (e - f.p + 1)
    let yu := roundQ mode (x / qu) * qu
    let tooBig := (f.maxM : ℚ) * (2 : ℚ) ^ (f.emax - f.mb) < |y|
    r.flags = (if y = x then 0 else fNX) ||| (if y ≠ x ∧ |yu| < (2 : ℚ) ^ f.emin then fUF else 0) |||
      (if tooBig then fOF ||| fNX else 0) ||| (if (f.decode r.bits).isInf then fNF else 0) ∧
    (tooBig → r.bits = f.overflow mode (decide (x < 0))) ∧
    (¬tooBig → (f.decode r.bits).value = y ∧ (f.decode r.bits).finite = true ∧ (f.decode r.bits).neg = decide (x < 0) ∧
      r.bits < 2 ^ f.width)

/-- The state after an instruction's flags entered the team's word (R75). -/
def State.raised (s : State) (u : Agent) (fl : FlagSet) : State :=
  match u with
  | .ex tm _ | .ap tm _ => s.modTeam tm (fun x => { x with flags := x.flags ||| fl })
  | .qe _ => s

/-- The flags whose trap the team of a unit enables (R76). -/
def State.enabled (s : State) (u : Agent) : FlagSet := (s.teamOf u).elim 0 (fun t => LRec.fpen (s.recordOf t))

/-! ### Control transfer and accesses -/

/-- The lane that decides for an access-side instruction that acts once: the lowest active one. -/
def State.lead (s : State) (u : Agent) : Nat :=
  match u with
  | .ap tm sp => (s.aps.find (stripKey tm sp)).elim 0 (fun x => lowLane (apGuard x s.ir).bits)
  | _ => 0

/-- The pc of a unit. -/
def State.pcAt (s : State) (u : Agent) : Nat := (s.ctl u).elim 0 (·.pc)

/-- The state with a unit's pc moved to a target. -/
def State.jumped (s : State) (u : Agent) (target : Nat) : State := s.modCtl u (fun c => { c with pc := target % 2 ^ 64 })

/-- The target of a word offset from the instruction at the pc (R32). -/
def State.offsetFrom (s : State) (u : Agent) : Nat := wrapN ((s.pcAt u : Int) + 4 * wordOffset s.ir.b) 64

/-- The one access of a unit at lane l through a handle in space 0, 1, 4 or 5, with its location, and its address where the
checks of R161 let it be made: offset within the limit, location and offset aligned, and a translation in spaces 0, 4 and 5 (R143, R147). -/
def accessAt (s : State) (u : Agent) (w : Want) (v : Opnds) (l : Nat) (a : Acc) : Prop :=
  let h := s.handleOf u w.hidx
  let raw := (v.b l).bits.toNat % (if sideOf u = .exec then 2 ^ 32 else 2 ^ 64)
  let tagged := (Hnd.tagen h || !w.tags) && Hnd.kind h == 1
  let off := if tagged then raw % 2 ^ 60 else raw
  let loc := Hnd.base h + off
  let sp := Hnd.space h
  a.hidx = w.hidx ∧ a.h = h ∧ a.space = sp ∧ a.core = (s.coreOf u).getD 0 ∧ a.loc = loc ∧ a.size = w.size ∧
    a.ptag = (if !w.tags || !Hnd.tagen h then none
      else if Hnd.kind h = 1 then some (BitVec.ofNat 4 (raw / 2 ^ 60))
      else if Hnd.kind h = 0 then some (BitVec.ofNat 4 (Hnd.htag h)) else none) ∧
    (sp = 0 ∨ sp = 1 ∨ sp = 4 ∨ sp = 5) ∧ (sp = 0 → loc + w.size ≤ semBase) ∧
    loc % w.align = 0 ∧ off % w.offAlign = 0 ∧ off + w.size ≤ Hnd.limit h ∧
    if sp = 1 then a.addr = (Loc.spad a.core (64 * (s.teamOf u).elim 0 (·.spbase) + loc)).key ∧ a.host = false ∧ a.peer = false
    else ∃ r, translate (s.context (s.ctxOf u)) loc w.need = .ok (a.addr, r) ∧ a.host = Range.host r ∧ a.peer = Range.peer r

/-- The state of an access thread that sent one request a lane and waits until each is answered (R161). -/
def State.sendBlock (s : State) (tm sp : Nat) (i : Instr) (rs : List (Nat × Req)) : State :=
  ((rs.foldl (fun s r => { s.inject s.fresh { r.2 with landing := .block tm sp r.1 } with fresh := s.fresh + 1 }) s).modAp tm sp
    (fun x => { x with blk := some ⟨⟨i, s.ir⟩, rs.map (fun r => (r.1, none))⟩ })).setWait (.ap tm sp) .mem

/-- The values that answered lanes deliver; zero to a lane that sent nothing. -/
def Block.values (b : Block) : Lanes := fun l =>
  match b.lanes.find l with
  | some (some (.ok z)) => z
  | _ => Val.zero

/-- Every lane of a block has its value. -/
def Block.answered (b : Block) : Prop := ∀ y ∈ b.lanes, ∃ z, y.2 = some (.ok z)

/-- Performing a joint set one participant after another: each takes its operands and receives its result (R313). -/
def JointChain (tm : Nat) (parts : List Part) : List (Nat × Insn × Part) → State → State → Prop
  | [], s, t => s = t
  | x :: rest, s, t =>
    let ps := if (s.ctl (.ex tm x.1)).elim false Ctl.alone then [x.2.2]
      else parts.filter (fun q => NatSet.has (s.members tm x.1) q.tid)
    let r := jointResult x.2.1.op x.2.1.args.x8 ps x.2.2
    ∃ m, s.jointStep tm x.2.1 x.1 r = .ok m ∧ JointChain tm parts rest m t

/-- An execute thread that has arrived at an instruction and waits there with the rest still to come (R207, R313). -/
def State.stays (s : State) (tm tid : Nat) (i : Instr) (o : Ops) (pc : Nat) (w : Wait) : State :=
  (s.modCtl (.ex tm tid) (fun c => { c with pc, status := .waiting w s.now, len := len0Of o.form })).modEx tm tid
    (fun x => { x with arr := some ⟨i, o⟩ })

/-- The stores that SQS makes of the row at a store-stream's head, from a spot: lane for the record, where, value, lanes. -/
def sqsPieces (p : Port) (y : Spot) : List (Nat × Spot × Nat × List Nat) :=
  let es := rowElems ((List.range 16).map (p.slot p.apop))
  if p.mode == .sline then
    (lineStores es).map (fun x => (255, { y.shift x.1 with size := x.2.1, align := x.2.1 }, x.2.2.1, x.2.2.2))
  else es.map (fun e => (e.1, y.shift (p.bytes * e.1), e.2.toNat % 2 ^ (8 * p.bytes), [e.1]))

/-- Where a strip operation is accepted, on the state its operands leave: by the strip's unit u, with operands a and b (R206, R208-R210,
R213). -/
def State.stripTakes (s : State) (u : Agent) (tm sp : Nat) (i : Instr) (o : Ops) (a b : Val) : Prop :=
  let n := objPort o.d
  let key := portKey (stripKey tm sp) n
  let x := (heldVal a).bits.toNat
  let w := bindingOf o.x8 (heldVal b).bits.toNat
  let h := s.handleOf u o.x8.toNat
  match i with
  | .qbind => ∃ g, s.teams.find tm = some g ∧ s.ports.find key = none ∧ w.ok = true ∧ (heldVal b).bits.toNat < 2 ^ 13 ∧
      w.depth * w.port.perRow ≤ g.qmem.getD (g.half sp) 0 ∧ (if w.port.engine.isSome then 1 else 0) ≤ g.peng.getD (g.half sp) 0 ∧
      (w.needsAccess = true → LRec.access (s.recordOf g) = true)
  | .qunbind => ∃ p, s.ports.find key = some p
  | .pat => ∃ p e, s.ports.find key = some p ∧ p.engine = some e ∧ s.patBusy key p e = false ∧ 1 ≤ x ∧ x ≤ 2 ^ 24
  | .patgo => ∃ p e, s.ports.find key = some p ∧ p.engine = some e ∧ s.patBusy key p e = false ∧ e.product ≤ 2 ^ 32 - 1 ∧
      b.poison = false ∧ Hnd.space h ≠ 7 ∧ Hnd.kind h = 4 ∧
      (p.kind = .pat → ∀ f, p.fin = some f → ∀ l < 16, s.laneLive tm sp l = true → p.pos.getD l 0 = f)
  | .qeos => ∃ p, s.ports.find key = some p ∧ (if sideOf u = .exec then p.execPops = false else p.kind = .acc) ∧
      (if p.gen then ∃ e, p.engine = some e ∧ e.cut = false else p.fin = none)
  | _ => False

/-- Where a strip operation is refused, on the state its operands leave, with its trap (R206, R208-R210, R213). -/
def State.stripFails (s : State) (u : Agent) (tm sp : Nat) (i : Instr) (o : Ops) (a b : Val) (t : TrapInfo) : Prop :=
  let n := objPort o.d
  let key := portKey (stripKey tm sp) n
  let x := (heldVal a).bits.toNat
  let y := (heldVal b).bits.toNat
  let h := s.handleOf u o.x8.toNat
  if i = .qbind then ∃ e, s.bind tm sp n (bindingOf o.x8 y) (y / 2 ^ 13 == 0) = .error e ∧ t = portTrap e n
  else match s.ports.find key with
    | none => t = portTrap 1 n
    | some p => match i with
      | .pat => (∀ e, p.engine = some e → s.patBusy key p e = true ∨ x < 1 ∨ 2 ^ 24 < x) ∧ t = portTrap 9 n
      | .patgo =>
        (∀ e, p.engine = some e → s.patBusy key p e = true ∨ 2 ^ 32 - 1 < e.product) ∧ t = portTrap 9 n ∨
          ∃ e, p.engine = some e ∧ s.patBusy key p e = false ∧ e.product ≤ 2 ^ 32 - 1 ∧
            t = (if b.poison then tinfo 0x11 1 else if Hnd.space h = 7 then accTrap 0x24 1 o.x8.toNat 0
              else accTrap 0x24 5 o.x8.toNat 0) ∧ (b.poison = true ∨ Hnd.space h = 7 ∨ Hnd.kind h ≠ 4)
      | .qeos =>
        let mine := if sideOf u = .exec then !p.execPops else p.kind == .acc
        let ended := if p.gen then p.engine.elim true (·.cut) else p.fin.isSome
        mine = false ∧ t = portTrap 2 n ∨ mine = true ∧ ended = true ∧ t = portTrap 6 n
      | _ => False

/-- What a strip operation that is accepted leaves (R206, R208-R210, R213). -/
def State.stripLeaves (s : State) (u : Agent) (tm sp : Nat) (i : Instr) (o : Ops) (a b : Val) : State :=
  let n := objPort o.d
  let key := portKey (stripKey tm sp) n
  let x := (heldVal a).bits.toNat
  let y := (heldVal b).bits.toNat
  let h := s.handleOf u o.x8.toNat
  match i with
  | .qbind => match s.bind tm sp n (bindingOf o.x8 y) true with
    | .ok t => t
    | .error _ => s
  | .qunbind => s.unbind tm sp n
  | .pat => s.modPort key (fun p => { p with engine := p.engine.map (fun e =>
      { e with counts := e.counts.set (o.x8.toNat % 4) x, strides := e.strides.set (o.x8.toNat % 4) (sext y 32) }) })
  | .patgo => s.modPort key (fun p =>
      let start := y % 2 ^ 16 * Hnd.ostx h + y / 2 ^ 16 % 2 ^ 16 * Hnd.osty h
      let run := fun (base : Nat) (e : PatEngine) =>
        { e with running := true, handle := o.x8.toNat, start, step := 0, total := e.product, base, cut := false }
      let base := fun (e : PatEngine) => if e.total = 0 then 0 else p.fin.getD 0
      if p.kind = .pat then { p with fin := none, engine := p.engine.map (run p.reserve) }
      else { p with fin := p.engine.map (fun e => base e + e.product), engine := p.engine.map (fun e => run (base e) e) })
  | .qeos => s.modPort key (fun p =>
      let e := if sideOf u = .exec then p.pos.foldl max 0 else p.reserve
      { p with fin := some (p.fin.elim e (min e)), engine := p.engine.map (fun e => { e with cut := true }) })
  | _ => s

/-! ### The matrix engine -/

/-- The team of an execute thread owns the engine of the thread's core c, and waits for no grant after a restore (R105, R122). -/
def State.owns (s : State) (tm tid : Nat) (g : Team) (c : Nat) : Prop :=
  s.teams.find tm = some g ∧ c = g.coreOf (tid / 16) ∧ g.regrant.has (c - g.core) = false ∧ (s.core c).owner = some tm

/-- Whether a core's operation queue can take an operation of a team (R106). -/
def State.canQueue (s : State) (c tm : Nat) : Bool := decide ((s.core c).queue.length < 16) && !s.accStores tm

/-- The state with one more operation at the end of a core's queue, under a fresh number. -/
def State.queued (s : State) (c : Nat) (op : Nat → MatOp) : State :=
  ({ s with fresh := s.fresh + 1 } : State).modCore c (fun k => { k with queue := k.queue ++ [op s.fresh] })

/-- The one word of accumulator memory that MRD and MWR access (R128). -/
def accAt (c off : Nat) : Acc := ⟨0, 0, 3, c, off, 4, (Loc.acc c off).key, false, false, none⟩

/-- Whether a key lies in one of the three stores of a core's engine. -/
def inEngine (c a : Nat) : Bool :=
  [((Loc.tile c 0).key, tileBytes), ((Loc.wbuf c 0).key, wbufBytes), ((Loc.acc c 0).key, accBytes)].any
    (fun r => decide (r.1 ≤ a ∧ a < r.1 + r.2))

end Sys2Proof.Machine
end

