-- ==== Sys2Proof/Certificates/Slice0/Obligations.lean ====
section
/-! DEFINITION. The statements about the model. Each says which rules it formalises; helper predicates stand in Safety. -/

open Sys2Proof Sys2Proof.Machine

/-! ### Encoding and the step -/

/-- Words written out bit by bit from the layouts of word0 and word1 (R26, R27) and the opcode map (R48) decode to the instruction they
stand for; reserved words are refused with the subcode of R50; the all-zero word takes ILLEGAL 0x02 on every side (R51). -/
def Obligations.WordsDecode : Prop :=
  let e : DecodeCtx := ⟨.exec, false, false, false⟩
  let a : DecodeCtx := ⟨.access, false, false, false⟩
  let q : DecodeCtx := ⟨.queue, false, false, false⟩
  -- iadd g3, g1, g2
  decodeWords e 0b0_0_0000010_0000001_0000011_0000010_00#32 0 0 =
    .ok ⟨.iadd, ⟨.w32, 7, false, 0, .reg (.g 3) false, .reg (.g 1) false, .reg (.g 2) false, .none, 0, 0⟩⟩ ∧
  -- (!f1) iadd.d5 g3, g1!, g2
  decodeWords e 0b0_1_0000010_0000001_0000011_0000010_01#32 0b00000000_0101_00000000_0_0000000_1_001#32 0 =
    .ok ⟨.iaddLong, ⟨.w64, 1, true, 5, .reg (.g 3) false, .reg (.g 1) true, .reg (.g 2) false, .none, 0, 0⟩⟩ ∧
  -- ffma.rz g8, g1, g2, g3
  decodeWords e 0b0_0_0000010_0000001_0001000_1100001_01#32 0b00000001_0000_00000000_0_0000011_0_111#32 0 =
    .ok ⟨.ffma, ⟨.w64, 7, false, 0, .reg (.g 8) false, .reg (.g 1) false, .reg (.g 2) false, .reg (.g 3) false, 1, 0⟩⟩ ∧
  -- sh3add a4, a2, s1
  decodeWords a 0b0_0_0100001_0000010_0000100_0011101_00#32 0 0 =
    .ok ⟨.sh3add, ⟨.w32, 7, false, 0, .reg (.a 4) false, .reg (.a 2) false, .reg (.s 1) false, .none, 0, 0⟩⟩ ∧
  -- semset [w1], w2
  decodeWords q 0b0_0_0000010_0000001_0000000_1101100_01#32 0b00000000_0000_00000011_0_0000000_0_111#32 0 =
    .ok ⟨.semset, ⟨.w64, 7, false, 0, .none, .reg (.w 1) false, .reg (.w 2) false, .none, 0, 0⟩⟩ ∧
  -- the same words on the execute side, length 3, an unassigned major, an unassigned sub, RDSYS without supervisor rights
  decodeWords e 0b0_0_0000010_0000001_0000000_1101100_01#32 0b00000000_0000_00000011_0_0000000_0_111#32 0 = .error (.illegal 4) ∧
  decodeWords e 0b11#32 0 0 = .error (.illegal 1) ∧
  -- the all-zero word, whatever follows it
  (∀ (c : DecodeCtx) (w1 w2 : W32), decodeWords c 0#32 w1 w2 = .error (.illegal 2)) ∧
  decodeWords e 0b1011111_00#32 0 0 = .error (.illegal 2) ∧
  decodeWords e 0b1100000_01#32 0b00000000_0000_11111111_0_0000000_0_111#32 0 = .error (.illegal 3) ∧
  decodeWords q 0b0_0_0000000_0000001_0000010_1101101_01#32 0b00000000_0000_00000001_0_0000000_0_111#32 0 = .error .priv

/-- Decoding the bytes of a well-formed instruction gives it back, with every operand, and the bytes after it. -/
def Obligations.DecodeOfEncode : Prop :=
  ∀ (cx : DecodeCtx) (x : Insn) (rest : List Byte), x.wellFormed cx = true → decode cx (encodeBytes x ++ rest) = .ok (x, rest)

/-- What decodes is well formed, and its words are the ones it was decoded from. -/
def Obligations.EncodeOfDecode : Prop :=
  ∀ (cx : DecodeCtx) (w0 w1 w2 : W32) (x : Insn), decodeWords cx w0 w1 w2 = .ok x →
    x.wellFormed cx = true ∧
      (encode x = [w0] ∨ encode x = [w0, w1] ∨ encode x = [w0, w1, w2]) ∧ (encode x).length * 4 = x.args.form.bytes

/-- A step whose agenda has a unit issue, when it may, runs the instruction its fetch and decoder give, on the state after the fetch. When
the unit then waits with nothing begun, that is its new state. Otherwise it is ready (R289), and in its turn (R290, R292) the instruction has
issued: its issue slot is taken, and a ring packet whose words are used up is behind the read pointer; out of its turn it is ready and has
done nothing. A step whose agenda has it try the instruction alone leaves it waiting, or ready. A unit that may not issue does nothing. That an
agenda says what moves next, that a unit that may not issue does nothing, and that a unit becomes ready where a try finds that its instruction
could issue are the model's choices (DESIGN CHOICE, log entry 3), and that one that waits tries again is its reading (DEDUCED, log entry 17).
A fetch of a thread takes the words its instruction cache holds at the pc, as many as word0 says (R25, R33, R50), and gives what they decode to
on its side; it changes nothing. -/
def Obligations.StepRunsDecodedInstruction : Prop :=
  (
  ∀ (s t : State) (u : Agent) (rest : List Choice) (w0 : W32) (i : Insn),
    let z : State := { s with agenda := rest }
    (s.agenda = .issue u :: rest ∧ z.mayIssue u = true ∨
      s.agenda = .attempt u :: rest ∧ z.canIssue u = true ∧ z.isReady u = false ∧ z.turnless u = false) → s.atMeeting u = false →
    (match u with
      | .ap tm sp => ∀ x, s.aps.find (stripKey tm sp) = some x → x.blk = none
      | .qe n => ∀ e, s.engines.find n = some e → e.prog = true ∨ i.args.form.bytes / 4 ≤ e.left
      | .ex _ _ => True) →
    fetchInsn { s with agenda := rest, cur := some u } = .ok ((w0, .ok i), t) →
    step s = match exec i.op { t with ir := i.args } with
      | .next r => .next (
          let y := if z.isReady u || z.turnless u then z else z.modCtl u (fun c => { c with able := true, readySince := s.now })
          if r.vain u then r.endPacket u
          else if s.agenda = .issue u :: rest ∧ y.mayIssue u = true then
            (y.take u i (r.modCtl u (fun c => { c with able := false }))).endPacket u
          else y)
      | o => o) ∧
  (∀ (s : State) (u : Agent) (rest : List Choice),
    let z : State := { s with agenda := rest }
    s.agenda = .issue u :: rest ∧ z.mayIssue u = false ∨
      s.agenda = .attempt u :: rest ∧ (z.canIssue u = false ∨ z.isReady u = true ∨ z.turnless u = true) →
    step s = .next z) ∧
  (
  ∀ (s : State) (u : Agent) (c : Ctl) (k : Nat) (w0 w1 w2 : W32) (n : Nat),
    s.cur = some u → (∀ q, u ≠ .qe q) → s.ctl u = some c → s.coreOf u = some k → c.pc + 12 ≤ 2 ^ 64 →
    word0Check w0 = .ok n →
    (∀ j, j < n → (translate (s.context (s.ctxOf u)) (c.pc + 4 * j) .ex).isOk = true ∧
      (s.core k).icache.find (icKey (sideOf u) (s.ctxOf u) (c.pc + 4 * j)) = some (if j = 0 then w0 else if j = 1 then w1 else w2)) →
    fetchInsn s = .ok ((w0, decodeWords (s.decodeCtx u) w0 w1 w2), s))

/-! ### Operands -/

/-- Source fields that name no port deliver to an execute thread its registers, the kernel arguments and literals; the last-read marks
then empty the marked names, and nothing else changes (R29, R34, R37, R41, R299). Source fields that name no port deliver to an access
thread its registers lane by lane, and to a queue engine its w registers; nothing changes (R35, R36, R82). That a poisoned operand has
zero bits is entry 19's (DEDUCED). -/
def Obligations.OperandSources : Prop :=
  (
  ∀ (s : State) (tm tid : Nat) (x : ExThread) (sh : Shape) (lk : LitKind),
    s.cur = some (.ex tm tid) → s.exs.find (exKey tm tid) = some x →
    noPort s.ir.a = true → noPort s.ir.b = true → noPort s.ir.c = true → noPort s.ir.d = true →
    (∀ n ∈ gNames s.ir.a sh.a ++ gNames s.ir.b sh.b ++ gNames s.ir.c sh.c,
      (s.strip tm (tid / 16)).inFlight n (tid % 16) = false) →
    Delivers s (.ex tm tid) sh lk
      ⟨fun _ => heldVal (execSource s tm tid s.ir.a sh.a lk), fun _ => heldVal (execSource s tm tid s.ir.b sh.b lk),
        fun _ => heldVal (execSource s tm tid s.ir.c sh.c lk)⟩
      (let m := marksIn s.ir sh
       let p := s.past (.ex tm tid)
       if m = [] then p else p.modStrip tm (tid / 16) (fun t => m.foldl (fun t n => t.drop n (tid % 16)) t))) ∧
  (
  (∀ (s : State) (tm sp : Nat) (x : ApThread) (sh : Shape) (lk : LitKind),
    s.cur = some (.ap tm sp) → s.aps.find (stripKey tm sp) = some x → x.spend = 0 →
    noPort s.ir.a = true → noPort s.ir.b = true → noPort s.ir.c = true → noPort s.ir.d = true →
    Delivers s (.ap tm sp) sh lk
      ⟨fun l => heldVal (accessSource s tm x s.ir.a sh.a lk l), fun l => heldVal (accessSource s tm x s.ir.b sh.b lk l),
        fun l => heldVal (accessSource s tm x s.ir.c sh.c lk l)⟩
      (s.past (.ap tm sp))) ∧
  ∀ (s : State) (n : Nat) (e : Engine) (sh : Shape) (lk : LitKind),
    s.cur = some (.qe n) → s.engines.find n = some e → e.wpend = 0 →
    noPort s.ir.a = true → noPort s.ir.b = true → noPort s.ir.c = true →
    Delivers s (.qe n) sh lk
      ⟨fun _ => heldVal (engineSource e s.ir.a sh.a lk), fun _ => heldVal (engineSource e s.ir.b sh.b lk),
        fun _ => heldVal (engineSource e s.ir.c sh.c lk)⟩ (s.past (.qe n)))

/-- A write to g(n), or to the pair g(n), g(n + 1), by an execute thread that can allocate: the thread then reads the value, with zero
bits under a poison tag (R79); every other register of every thread of the team reads as before, and only the team's strip-registers and
the next register number have changed (R298, R299). Destinations of the access side and of a queue engine: a vector register takes the
active lanes and keeps the others (R82), a scalar register the value of the lowest active lane, a w register the value; a poisoned value
leaves zero bits under the tag. The registers that discard writes or read a constant: k0 reads zero, a write to f7 or m7 is discarded,
and a destination field that names a k register does not decode: it fails with the subcode of an unassigned name, 0x05 (R34, R35, R38,
R49). That a scalar register takes the value of the lowest
active lane is the model's choice (DESIGN CHOICE, log entry 53). -/
def Obligations.DestinationWrites : Prop :=
  (
  ∀ (s : State) (tm tid w : Nat) (g : Team) (n : Fin 96) (m : Bool) (v : Lanes),
    s.cur = some (.ex tm tid) → s.teams.find tm = some g → tid < 2048 → (w = 1 ∨ (w = 2 ∧ n.val < 95)) →
    (s.strip tm (tid / 16)).sound s.fresh → s.canAlloc tm tid g (if w = 2 then [n.val, n.val + 1] else [n.val]) →
    ∃ t, Writes s (.reg (.g n) m) w v t ∧
      readEx t tm tid (.g n) w = (if w = 2 then heldVal (v 0) else ⟨((heldVal (v 0)).bits.setWidth 32).setWidth 64, (v 0).poison⟩) ∧
      (∀ (tid' : Nat) (j : Fin 96), tid' < 2048 → (tid' ≠ tid ∨ (j ≠ n ∧ (w = 2 → j.val ≠ n.val + 1))) →
        readEx t tm tid' (.g j) 1 = readEx s tm tid' (.g j) 1) ∧
      (t.strip tm (tid / 16)).sound t.fresh ∧
      (∀ k, k ≠ stripKey tm (tid / 16) → t.strips.find k = s.strips.find k) ∧
      { t with strips := s.strips, fresh := s.fresh } = s) ∧
  (
  (∀ (s : State) (tm sp : Nat) (x : ApThread) (n : Fin 32) (m : Bool) (w : Nat) (v : Lanes),
    s.cur = some (.ap tm sp) → s.aps.find (stripKey tm sp) = some x → x.a.length = 32 →
    ∃ t y, Writes s (.reg (.a n) m) w v t ∧ t.aps.find (stripKey tm sp) = some y ∧
      (∀ l, l < 16 → readAp t tm y (.a n) l =
        (if (apGuard x s.ir).bits.getLsbD l then heldVal (v l) else readAp s tm x (.a n) l)) ∧
      (∀ (j : Fin 32) l, j ≠ n → readAp t tm y (.a j) l = readAp s tm x (.a j) l) ∧
      { y with a := x.a } = x ∧ { t with aps := s.aps } = s) ∧
  (∀ (s : State) (tm sp : Nat) (x : ApThread) (n : Fin 16) (m : Bool) (w : Nat) (v : Lanes),
    s.cur = some (.ap tm sp) → s.aps.find (stripKey tm sp) = some x → x.s.length = 16 →
    ∃ t y, Writes s (.reg (.s n) m) w v t ∧ t.aps.find (stripKey tm sp) = some y ∧
      readAp t tm y (.s n) 0 = heldVal (v (lowLane (apGuard x s.ir).bits)) ∧
      (∀ (j : Fin 16), j ≠ n → readAp t tm y (.s j) 0 = readAp s tm x (.s j) 0) ∧
      { y with s := x.s } = x ∧ { t with aps := s.aps } = s) ∧
  ∀ (s : State) (q : Nat) (e : Engine) (n : Fin 16) (m : Bool) (w : Nat) (v : Lanes),
    s.cur = some (.qe q) → s.engines.find q = some e → e.w.length = 16 →
    ∃ t e', Writes s (.reg (.w n) m) w v t ∧ t.engines.find q = some e' ∧ readQ e' (.w n) = heldVal (v 0) ∧
      (∀ (j : Fin 16), j ≠ n → readQ e' (.w j) = readQ e (.w j)) ∧
      { e' with w := e.w } = e ∧ { t with engines := s.engines } = s) ∧
  (
  (∀ (s : State) (tm tid w : Nat), readEx s tm tid (.k 0) w = Val.zero) ∧
  (∀ (s : State) (tm l : Nat) (x : ApThread), readAp s tm x (.k 0) l = Val.zero) ∧
  (∀ (x : ExThread) (b p : Bool), x.setF 7 b p = x) ∧
  (∀ (s : State) (tm sp : Nat) (v : Nat → PBit), s.cur = some (.ap tm sp) → (s.aps.find (stripKey tm sp)).isSome = true →
    writePred (.pred 7) v s = .ok ((), s)) ∧
  (∀ (x : ApThread), x.maskOf 7 = ⟨0xFFFF, false⟩) ∧
  ∀ (side : Side) (r : RegSet) (x8 : BitVec 8) (v : BitVec 7) (mk : Bool), side ≠ .queue → 96 ≤ v.toNat → v.toNat < 112 →
    (readField side (.dst r) x8 v mk).2 = 5)

/-- The strip-registers of every strip stay well formed: a current register exists, is the name's own and is not dead. They do under what is
done to one strip, a write, a last read, an exit, a landing value (R298-R300), and under what is done to the machine: the writes of an
instruction, all or none (R301), STRIP_REGISTER_FREE, a strip operation, a team's start and end, an error that strikes a register
(R405), and the load of a saved core's registers (R402, R404). -/
def Obligations.StripRegistersStaySound : Prop :=
  (∀ (k : Nat), (({} : Strip)).sound k) ∧
  (∀ (t : Strip) (k n l id : Nat) (x : W32) (p q : Bool), l < 16 → t.sound k →
    (t.drop n l).sound k ∧ (t.dropLane l).sound k ∧ (t.land id l x p).sound k ∧ (t.writeG n l x p q k).1.sound (k + 1)) ∧
  (∀ (s t : State) (tm tid : Nat) (ws : List (Nat × W32)) (p q : Bool) (ids : List Nat), s.stripsSound →
    writeRegs tm tid ws p q s = .ok (ids, t) → t.stripsSound) ∧
  (∀ i ∈ [Instr.stripRegisterFree, .stripOperation, .teamStart, .slotFree], ∀ (s t : State), s.stripsSound → exec i s = .next t →
    t.stripsSound) ∧
  (∀ (s : State) (x : Struck), s.stripsSound → (s.strike x).stripsSound) ∧
  ∀ (s t : State) (c off tm half : Nat) (g : Team), s.stripsSound → s.getRegs c off tm g half = .ok t → t.stripsSound

/-! ### Integer instructions -/

/-- Every integer row writes to d, on each lane it acts on, its function of W, x8 and the operands, zero bits with the poison tag where
a source is poisoned, and goes on past itself (R86, R87, R89-R91). SHLI, SHRI, SARI and IADDI with their immediate or literal (R84,
R86). -/
def Obligations.IntegerRowsComplete : Prop :=
  (
  ∀ r ∈ intRows, ∀ i ∈ r.1, ∀ (s t t' : State) (u : Agent) (v : Opnds),
    Executes s u r.2.1 → Delivers s u r.2.1 .int v t →
    Writes t s.ir.d r.2.1.d (result v fun l =>
      r.2.2 (widthOf u) s.ir.x8.toNat (v.a l).bits.toNat (v.b l).bits.toNat (v.c l).bits.toNat) t' →
    exec i s = .next (s.closed t' u i r.2.1)) ∧
  (
  (∀ r ∈ immRows, ∀ i ∈ r.1, ∀ (s t t' : State) (u : Agent) (v : Opnds),
    Executes s u one1 → Delivers s u one1 .int v t →
    Writes t s.ir.d 1 (fun l => if (v.a l).poison || (v.c l).poison then Val.bad
      else Val.of (BitVec.ofNat 64 (r.2 (widthOf u) (v.a l).bits.toNat (immOf s.ir.b)))) t' →
    exec i s = .next (s.closed t' u i one1)) ∧
  ∀ w, (w = 32 ∨ w = 64) → ∀ (a : BitVec w) (n : Nat), n < 32 →
    shliW w a.toNat n = (a <<< n).toNat ∧ shriW w a.toNat n = (a >>> n).toNat ∧ sariW w a.toNat n = (a.sshiftRight n).toNat ∧
      ∀ z : Int, iaddiW w a.toNat z = (a + BitVec.ofInt w z).toNat)

/-- The functions of the compact integer rows are the operations of R86 on W-bit vectors. Division: the quotient is truncated towards
zero and the remainder takes the dividend's sign; by zero, the quotient is all ones and the remainder the dividend, and the most
negative value by minus one wraps with remainder 0 (R91). The wide rows: IMAD, IMAD64, IMULW, ISAD, IADDS and ISUBS with both their
extensions (R87), the six comparisons of ICMPF and what combines them with a predicate (R88), BFGET and BFPUT at every position and length
(R89), BYSEL byte by byte and FUNNEL both ways (R90). -/
def Obligations.IntegerResults : Prop :=
  (
  ∀ w, (w = 32 ∨ w = 64) → ∀ a b : BitVec w,
    movW w a.toNat = a.toNat ∧
    iaddW w a.toNat b.toNat = (a + b).toNat ∧
    isubW w a.toNat b.toNat = (a - b).toNat ∧
    imulW w a.toNat b.toNat = (a * b).toNat ∧
    imulhW w a.toNat b.toNat = ((a.signExtend (2 * w) * b.signExtend (2 * w)).extractLsb' w w).toNat ∧
    imulhuW w a.toNat b.toNat = ((a.setWidth (2 * w) * b.setWidth (2 * w)).extractLsb' w w).toNat ∧
    iminW w a.toNat b.toNat = (if a.sle b then a else b).toNat ∧
    imaxW w a.toNat b.toNat = (if a.sle b then b else a).toNat ∧
    uminW w a.toNat b.toNat = (if a ≤ b then a else b).toNat ∧
    umaxW w a.toNat b.toNat = (if a ≤ b then b else a).toNat ∧
    andW w a.toNat b.toNat = (a &&& b).toNat ∧
    orW w a.toNat b.toNat = (a ||| b).toNat ∧
    xorW w a.toNat b.toNat = (a ^^^ b).toNat ∧
    andnW w a.toNat b.toNat = (a &&& ~~~b).toNat ∧
    shlW w a.toNat b.toNat = (a <<< (b.toNat % 256)).toNat ∧
    shrW w a.toNat b.toNat = (a >>> (b.toNat % 256)).toNat ∧
    sarW w a.toNat b.toNat = (a.sshiftRight (b.toNat % 256)).toNat ∧
    rotlW w a.toNat b.toNat = (a.rotateLeft (b.toNat % 256)).toNat ∧
    popcW w a.toNat = ((List.range w).filter (fun i => a.getLsbD i)).length ∧
    clzW w a.toNat = ((List.range w).filter (fun i => decide (a.toNat < 2 ^ (w - 1 - i)))).length ∧
    (∀ i, i < w → Nat.testBit (brevW w a.toNat) i = a.getLsbD (w - 1 - i)) ∧
    iabsW w a.toNat = (if a.msb then -a else a).toNat ∧
    inegW w a.toNat = (-a).toNat ∧
    sh2addW w a.toNat b.toNat = (a * 4 + b).toNat ∧
    sh3addW w a.toNat b.toNat = (a * 8 + b).toNat ∧
    pack2W w a.toNat b.toNat = (a.extractLsb' 0 (w / 2)).toNat + 2 ^ (w / 2) * (b.extractLsb' 0 (w / 2)).toNat) ∧
  (
  ∀ w, (w = 32 ∨ w = 64) → ∀ a b : BitVec w,
    idivW w a.toNat 0 = 2 ^ w - 1 ∧ udivW w a.toNat 0 = 2 ^ w - 1 ∧ iremW w a.toNat 0 = a.toNat ∧ uremW w a.toNat 0 = a.toNat ∧
    (b ≠ 0 → idivW w a.toNat b.toNat = (a.sdiv b).toNat ∧ udivW w a.toNat b.toNat = (a / b).toNat ∧
      iremW w a.toNat b.toNat = (a.srem b).toNat ∧ uremW w a.toNat b.toNat = (a % b).toNat) ∧
    idivW w (2 ^ (w - 1)) (2 ^ w - 1) = 2 ^ (w - 1) ∧ iremW w (2 ^ (w - 1)) (2 ^ w - 1) = 0) ∧
  (
  ∀ w, (w = 32 ∨ w = 64) → ∀ a b c : BitVec w,
    let top : Int := 2 ^ (w - 1) - 1
    let clamp := fun x : Int => (BitVec.ofInt w (max (-top - 1) (min x top))).toNat
    let pos := (b.extractLsb' 0 8).toNat
    let len := min (b.extractLsb' 8 8).toNat w
    let n := c.toNat % 256 % w
    imadW w a.toNat b.toNat c.toNat = (a * b + c).toNat ∧
    isadW w false a.toNat b.toNat c.toNat = ((if a.sle b then b - a else a - b) + c).toNat ∧
    isadW w true a.toNat b.toNat c.toNat = ((if a ≤ b then b - a else a - b) + c).toNat ∧
    iaddsW w false a.toNat b.toNat = clamp (a.toInt + b.toInt) ∧ iaddsW w true a.toNat b.toNat = min (a.toNat + b.toNat) (2 ^ w - 1) ∧
    isubsW w false a.toNat b.toNat = clamp (a.toInt - b.toInt) ∧ isubsW w true a.toNat b.toNat = a.toNat - b.toNat ∧
    bfgetW w false a.toNat b.toNat = (a >>> pos).toNat % 2 ^ len ∧
    bfgetW w true a.toNat b.toNat = (((a.sshiftRight pos).setWidth len).signExtend w).toNat ∧
    bfputW w a.toNat b.toNat c.toNat < 2 ^ w ∧
    (∀ i < w, Nat.testBit (bfputW w a.toNat b.toNat c.toNat) i =
      if pos ≤ i ∧ i < pos + len then a.getLsbD (i - pos) else c.getLsbD i) ∧
    funnelW w false a.toNat b.toNat c.toNat = ((b ++ a) >>> n).toNat % 2 ^ w ∧
    funnelW w true a.toNat b.toNat c.toNat = ((b ++ a) <<< n).toNat / 2 ^ w ∧
    ∀ (x : Nat) (p q : Bool),
      let lt := if x.testBit 3 then a.ult b else a.slt b
      (x % 8 = 0 → icmpW w x a.toNat b.toNat = decide (a = b)) ∧ (x % 8 = 1 → icmpW w x a.toNat b.toNat = decide (a ≠ b)) ∧
      (x % 8 = 2 → icmpW w x a.toNat b.toNat = lt) ∧ (x % 8 = 3 → icmpW w x a.toNat b.toNat = (lt || decide (a = b))) ∧
      (x % 8 = 4 → icmpW w x a.toNat b.toNat = !(lt || decide (a = b))) ∧ (x % 8 = 5 → icmpW w x a.toNat b.toNat = !lt) ∧
      (x / 16 % 4 = 0 → combine x p q = (p && q)) ∧ (x / 16 % 4 = 1 → combine x p q = (p || q)) ∧
      (x / 16 % 4 = 2 → combine x p q = (p ^^ q))) ∧
  (
  ∀ a b c : BitVec 64,
    let s := fun v : BitVec 64 => (v.setWidth 32).signExtend 64
    let u := fun v : BitVec 64 => (v.setWidth 32).setWidth 64
    imulwW false a.toNat b.toNat = (s a * s b).toNat ∧ imulwW true a.toNat b.toNat = (u a * u b).toNat ∧
    imad64W false a.toNat b.toNat c.toNat = (s a * s b + c).toNat ∧ imad64W true a.toNat b.toNat c.toNat = (u a * u b + c).toNat ∧
    byselW a.toNat b.toNat c.toNat < 2 ^ 32 ∧
    ∀ i < 4,
      let sel := c.toNat / 256 ^ i % 256
      let k := sel % 8
      let x := if k < 4 then a.toNat / 256 ^ k % 256 else b.toNat / 256 ^ (k - 4) % 256
      byselW a.toNat b.toNat c.toNat / 256 ^ i % 256 =
        if sel / 8 % 4 = 0 then x else if sel / 8 % 4 = 1 then 0 else if sel / 8 % 4 = 2 then (if 128 ≤ x then 255 else 0) else 255)

/-- The integer rows with predicates or masks: ICMPF, PICK, MOVI, MOVP and FLUT complete with the results of R88, R87 and R92. That a
poisoned mask operand of MOVP.put names no predicate is the model's choice (DESIGN CHOICE, log entry 20); that PICK with an s destination
takes the value of the lowest active lane is one too (DESIGN CHOICE, log entry 53), and that one poison tag stands for a whole lane mask is
its reading (DEDUCED, log entry 53). -/
def Obligations.PredicateRowsComplete : Prop :=
  (∀ (s t t' : State) (u : Agent) (v : Opnds) (c : Nat → PBit),
    Executes s u two1 → Delivers s u two1 .int v t → readPred s.ir.c t = .ok (c, t) →
    writePred s.ir.d (fun l =>
      if (v.a l).poison || (v.b l).poison || (c l).poison then ⟨false, true⟩
      else ⟨combine s.ir.x8.toNat (icmpW (widthOf u) s.ir.x8.toNat (v.a l).bits.toNat (v.b l).bits.toNat) (c l).val, false⟩) t =
        .ok ((), t') →
    exec .icmpf s = .next (s.closed t' u .icmpf two1)) ∧
  (∀ (s t t' : State) (u : Agent) (v : Opnds) (c : Nat → PBit),
    Executes s u two1 → Delivers s u two1 .int v t → readPred s.ir.c t = .ok (c, t) →
    Writes t s.ir.d 1 (fun l =>
      if (v.a l).poison || (v.b l).poison || (c l).poison then Val.bad else if (c l).val then v.a l else v.b l) t' →
    exec .pick s = .next (s.closed t' u .pick two1)) ∧
  (∀ (s t t' : State) (u : Agent) (v : Opnds),
    let w := if s.ir.x8.getLsbD 0 then 2 else 1
    let sh : Shape := { d := w, a := 0, b := w, c := 0 }
    Executes s u sh → Delivers s u sh .int v t → Writes t s.ir.d w v.b t' → exec .movi s = .next (s.closed t' u .movi sh)) ∧
  (∀ (s t' : State) (u : Agent) (v : Lanes),
    let sh := getShape
    Executes s u sh → awaitRegs [(s.ir.d, 1)] (s.past u) = .ok ((), s.past u) → checkPorts sh (s.past u) = .ok ((), s.past u) →
    (match u with
      | .ex tm tid => ∀ x, s.exs.find (exKey tm tid) = some x → v =
          fun _ => if x.fp = 0 then Val.of (BitVec.ofNat 64 (x.f.toNat + 128)) else Val.bad
      | .ap tm sp => ∀ x, s.aps.find (stripKey tm sp) = some x → ∃ n, s.ir.a = .pred n ∧ v =
          fun _ => if (x.maskOf n.val).poison then Val.bad else Val.of ((x.maskOf n.val).bits.setWidth 64)
      | .qe _ => False) →
    Writes (s.past u) s.ir.d 1 v t' → exec .movpGet s = .next (s.closed t' u .movpGet sh)) ∧
  (∀ (s t : State) (u : Agent) (v : Opnds),
    Executes s u (putShape s) → Delivers s u two1 .int v t →
    let bad := (v.a 0).poison || (v.b 0).poison
    match u with
    | .ex tm tid => exec .movpPut s = .next (s.closed (t.modEx tm tid (fun x =>
        (List.range 7).foldl (fun x i =>
          if bit (heldVal (v.b 0)).bits.toNat i then x.setF i (bit (v.a 0).bits.toNat i && !bad) bad else x) x)) u .movpPut (putShape s))
    | .ap tm sp => ∀ n, s.ir.d = .pred n → exec .movpPut s = .next (s.closed (if n.val = 7 then t else
        t.modAp tm sp (fun x => { x with m := x.m.set n.val ⟨(heldVal (v.a 0)).bits.setWidth 16, (v.a 0).poison⟩ })) u .movpPut
        (putShape s))
    | .qe _ => True) ∧
  ∀ (s t' : State) (u : Agent) (a b c : Nat → PBit),
    let sh : Shape := { a := 0, b := 0, c := 0 }
    Executes s u sh → readPred s.ir.a (s.past u) = .ok (a, s.past u) → readPred s.ir.b (s.past u) = .ok (b, s.past u) →
    readPred s.ir.c (s.past u) = .ok (c, s.past u) →
    writePred s.ir.d (fun l =>
      if (a l).poison || (b l).poison || (c l).poison then ⟨false, true⟩
      else ⟨s.ir.x8.getLsbD ((if (a l).val then 4 else 0) + (if (b l).val then 2 else 0) + (if (c l).val then 1 else 0)), false⟩)
        (s.past u) = .ok ((), t') →
    exec .flut s = .next (s.closed t' u .flut sh)

/-! ### Floating-point instructions -/

/-- Every floating-point row of the execute side whose flags trap nowhere raises its flags in the team's word and writes its result;
with a poisoned source it raises nothing and writes zero bits with the tag (R75, R79, R94-R102). FCMPF, DCMPF and FCHK write their
predicate and raise their flags (R95, R100). An FPE trap of any of them: when a raised flag is enabled the thread takes code 0x10 with the
lowest such flag, nothing is written, and the record and the team's word carry every flag raised (R75, R76); that it comes before a trap of
the write, and that FLOG2 of 1.0 is +0, are the model's choices (DESIGN CHOICE, log entry 59). -/
def Obligations.FloatingRowsComplete : Prop :=
  (
  (∀ r ∈ fpRows, ∀ i ∈ r.1, ∀ (s t t' : State) (tm tid : Nat) (v : Opnds),
    let u : Agent := .ex tm tid
    let q := r.2.2.2 s.ir.x8.toNat (v.a 0).bits.toNat (v.b 0).bits.toNat (v.c 0).bits.toNat
    Executes s u r.2.1 → Delivers s u r.2.1 r.2.2.1 v t →
    (v.bad 0 = false → q.flags &&& s.enabled u = 0) →
    Writes (if v.bad 0 then t else t.raised u q.flags) s.ir.d r.2.1.d
      (fun _ => if v.bad 0 then Val.bad else Val.of (BitVec.ofNat 64 q.bits)) t' →
    exec i s = .next (s.closed t' u i r.2.1)) ∧
  ∀ r ∈ cvtRows, ∀ (s t t' : State) (tm tid : Nat) (v : Opnds),
    let u : Agent := .ex tm tid
    let sh := cvtShape s.ir.x8
    let q := r.2 s.ir.x8.toNat (v.a 0).bits.toNat
    Executes s u sh → Delivers s u sh .int v t →
    (v.bad 0 = false → q.flags &&& s.enabled u = 0) →
    Writes (if v.bad 0 then t else t.raised u q.flags) s.ir.d sh.d
      (fun _ => if v.bad 0 then Val.bad else Val.of (BitVec.ofNat 64 q.bits)) t' →
    exec r.1 s = .next (s.closed t' u r.1 sh)) ∧
  (
  (∀ r ∈ [(Instr.fcmpf, binary32, 1, LitKind.int), (.dcmpf, binary64, 2, .binary64)],
    ∀ (s t t' : State) (tm tid : Nat) (v : Opnds) (c : Nat → PBit),
    let u : Agent := .ex tm tid
    let sh : Shape := { a := r.2.2.1, b := r.2.2.1, c := 0 }
    let q := cmpV (s.ir.x8.toNat % 8) (bit s.ir.x8.toNat 3) (r.2.1.decode (v.a 0).bits.toNat) (r.2.1.decode (v.b 0).bits.toNat)
    let bad := (v.a 0).poison || (v.b 0).poison || (c 0).poison
    Executes s u sh → Delivers s u sh r.2.2.2 v t → readPred s.ir.c t = .ok (c, t) →
    (bad = false → q.2 &&& s.enabled u = 0) →
    writePred s.ir.d (fun _ => if bad then ⟨false, true⟩ else ⟨combine s.ir.x8.toNat q.1 (c 0).val, false⟩)
      (if bad then t else t.raised u q.2) = .ok ((), t') →
    exec r.1 s = .next (s.closed t' u r.1 sh)) ∧
  ∀ (s t t' : State) (tm tid : Nat) (v : Opnds),
    let u : Agent := .ex tm tid
    let f := s.ir.x8.toNat % 16
    let sh : Shape := { a := if fmt64 f then 2 else 1, b := 0, c := 0 }
    let q := (fmtOf f).decode (v.a 0).bits.toNat
    let fl : FlagSet := if q.isSnan then fNV else 0
    Executes s u sh → Delivers s u sh .int v t → ((v.a 0).poison = false → fl &&& s.enabled u = 0) →
    writePred s.ir.d (fun _ => if (v.a 0).poison then ⟨false, true⟩ else ⟨!(q.isNan || q.isInf), false⟩)
      (if (v.a 0).poison then t else t.raised u fl) = .ok ((), t') →
    exec .fchk s = .next (s.closed t' u .fchk sh)) ∧
  let trapped := fun (i : Instr) (s : State) (u : Agent) (fl : FlagSet) =>
    exec i s = .next (s.takeTrap u { tinfo 0x10 (lowFlag (fl &&& s.enabled u)) with flags := fl } (len0Of s.ir.form))
  (∀ r ∈ fpRows, ∀ i ∈ r.1, ∀ (s t : State) (tm tid : Nat) (v : Opnds),
    let u : Agent := .ex tm tid
    let q := r.2.2.2 s.ir.x8.toNat (v.a 0).bits.toNat (v.b 0).bits.toNat (v.c 0).bits.toNat
    Executes s u r.2.1 → Delivers s u r.2.1 r.2.2.1 v t → v.bad 0 = false → q.flags &&& s.enabled u ≠ 0 → trapped i s u q.flags) ∧
  (∀ r ∈ cvtRows, ∀ (s t : State) (tm tid : Nat) (v : Opnds),
    let u : Agent := .ex tm tid
    let q := r.2 s.ir.x8.toNat (v.a 0).bits.toNat
    Executes s u (cvtShape s.ir.x8) → Delivers s u (cvtShape s.ir.x8) .int v t → v.bad 0 = false → q.flags &&& s.enabled u ≠ 0 →
    trapped r.1 s u q.flags) ∧
  (∀ r ∈ [(Instr.fcmpf, binary32, 1, LitKind.int), (.dcmpf, binary64, 2, .binary64)],
    ∀ (s t : State) (tm tid : Nat) (v : Opnds) (c : Nat → PBit),
    let u : Agent := .ex tm tid
    let sh : Shape := { a := r.2.2.1, b := r.2.2.1, c := 0 }
    let q := cmpV (s.ir.x8.toNat % 8) (bit s.ir.x8.toNat 3) (r.2.1.decode (v.a 0).bits.toNat) (r.2.1.decode (v.b 0).bits.toNat)
    Executes s u sh → Delivers s u sh r.2.2.2 v t → readPred s.ir.c t = .ok (c, t) →
    (v.a 0).poison = false → (v.b 0).poison = false → (c 0).poison = false → q.2 &&& s.enabled u ≠ 0 → trapped r.1 s u q.2) ∧
  ∀ (s t : State) (tm tid : Nat) (v : Opnds),
    let u : Agent := .ex tm tid
    let f := s.ir.x8.toNat % 16
    let sh : Shape := { a := if fmt64 f then 2 else 1, b := 0, c := 0 }
    Executes s u sh → Delivers s u sh .int v t → (v.a 0).poison = false → ((fmtOf f).decode (v.a 0).bits.toNat).isSnan = true →
    fNV &&& s.enabled u ≠ 0 → trapped .fchk s u fNV

/-- Addition, subtraction, multiplication and the fused multiply-add of finite values give the exact result rounded once by round() of R69,
with its value and its flags in every mode (R68, R72). An overflowing result takes the value of R70's table in every format. An exact zero
of terms that do not all share one sign is +0, or -0 under RDN, one of terms of one sign keeps it, and a zero that rounding gives keeps the
sign of what was rounded (R71). NaN and infinite operands, zero divisors and roots of negative numbers give the canonical NaN, the infinity
and the flags of R72 and R94; a quotient is rounded once, and so is a root, which lies between two rationals that bound only numbers
with that result (R94). Conversions between formats, from integers and to them follow the table of R73, and the special functions give the
values of R102's table at their special operands. -/
def Obligations.ArithmeticRoundsOnce : Prop :=
  (∀ k < 9, ∀ (mode m : Nat) (neg : Bool) (e : ℤ), mode < 5 → m ≠ 0 →
    RoundsTo (fmtOf k) mode ((if neg then -1 else 1) * (m : ℚ) * (2 : ℚ) ^ e) ((fmtOf k).round mode neg m e) ∧
    ((fmtOf k).decode ((fmtOf k).round mode neg m e).bits).neg = neg) ∧
  (∀ r ∈ [(binary64, 0x7FEFFFFFFFFFFFFF, 0x7FF0000000000000), (binary32, 0x7F7FFFFF, 0x7F800000), (binary16, 0x7BFF, 0x7C00),
      (bfloat16, 0x7F7F, 0x7F80), (fmtOf 4, 0x7E, 0x7E), (fmtOf 5, 0x7B, 0x7C), (fmtOf 6, 0x1F, 0x1F), (fmtOf 7, 0x1F, 0x1F),
      (fmtOf 8, 0x7, 0x7)],
    ∀ mode < 5, ∀ neg : Bool, r.1.overflow mode neg = r.1.signBit neg +
      (if mode = 1 ∨ (mode = 2 ∧ neg = false) ∨ (mode = 3 ∧ neg = true) then r.2.1 else r.2.2)) ∧
  (∀ f ∈ [binary32, binary64, binary16, bfloat16], ∀ (mode a b c : Nat), mode < 5 → (f.decode a).finite = true → (f.decode b).finite = true →
    let x := f.decode a
    let y := f.decode b
    let z := f.decode c
    let zero := fun (r : FRes) (p q : Bool) => r = ⟨f.signBit (if p = q then p else decide (mode = 2)), 0⟩
    (x.value + y.value ≠ 0 → RoundsTo f mode (x.value + y.value) (f.add mode a b)) ∧
    (x.value + y.value = 0 → zero (f.add mode a b) x.neg y.neg) ∧
    (x.value - y.value ≠ 0 → RoundsTo f mode (x.value - y.value) (f.sub mode a b)) ∧
    (x.value - y.value = 0 → zero (f.sub mode a b) x.neg (!y.neg)) ∧
    (x.value * y.value ≠ 0 → RoundsTo f mode (x.value * y.value) (f.mul mode a b)) ∧
    (x.value * y.value = 0 → f.mul mode a b = ⟨f.signBit (x.neg != y.neg), 0⟩) ∧
    (z.finite = true → x.value * y.value + z.value ≠ 0 → RoundsTo f mode (x.value * y.value + z.value) (f.fma mode a b c)) ∧
    (z.finite = true → x.value * y.value + z.value = 0 → zero (f.fma mode a b c) (x.neg != y.neg) z.neg)) ∧
  (∀ r ∈ [(binary32, 0x7FC00000, 0x7F800000), (binary64, 0x7FF8000000000000, 0x7FF0000000000000), (binary16, 0x7E00, 0x7C00),
      (bfloat16, 0x7FC0, 0x7F80)], ∀ mode a b c : Nat, mode < 5 →
    let f : Fmt := r.1
    let x := f.decode a
    let y := f.decode b
    let z := f.decode c
    let s := x.neg != y.neg
    let nan := fun l : List FV => (⟨r.2.1, fNF ||| (if l.any FV.isSnan then fNV else 0)⟩ : FRes)
    let invalid : FRes := ⟨r.2.1, fNV ||| fNF⟩
    let inf := fun n => (⟨f.signBit n + r.2.2, fNF⟩ : FRes)
    (x.isNan = true ∨ y.isNan = true → ∀ g ∈ [f.add, f.sub, f.mul, f.div], g mode a b = nan [x, y]) ∧
    (x.isNan = true ∨ y.isNan = true ∨ z.isNan = true → f.fma mode a b c = nan [x, y, z]) ∧
    (x.isNan = false → y.isNan = false →
      (x.isInf = true → (f.add mode a b = if y.isInf && y.neg != x.neg then invalid else inf x.neg) ∧
        (f.sub mode a b = if y.isInf && y.neg == x.neg then invalid else inf x.neg) ∧
        f.div mode a b = if y.isInf then invalid else inf s) ∧
      (x.finite = true → y.isInf = true → f.add mode a b = inf y.neg ∧ f.sub mode a b = inf (!y.neg) ∧
        f.div mode a b = ⟨f.signBit s, 0⟩) ∧
      (x.isInf = true ∨ y.isInf = true → (f.mul mode a b = if x.isZero || y.isZero then invalid else inf s) ∧
        (z.isNan = false →
          f.fma mode a b c = if x.isZero || y.isZero || (z.isInf && z.neg != s) then invalid else inf s)) ∧
      (x.finite = true → y.finite = true → z.isInf = true → f.fma mode a b c = inf z.neg) ∧
      (x.finite = true → y.finite = true →
        (y.isZero = true → f.div mode a b = if x.isZero then invalid else ⟨f.signBit s + r.2.2, fDZ ||| fNF⟩) ∧
        (x.isZero = true → y.isZero = false → f.div mode a b = ⟨f.signBit s, 0⟩) ∧
        (x.isZero = false → y.isZero = false → RoundsTo f mode (x.value / y.value) (f.div mode a b)))) ∧
    (x.isNan = true → f.sqrt mode a = nan [x]) ∧
    (x.isInf = true → f.sqrt mode a = if x.neg then invalid else inf false) ∧
    (x.isZero = true → f.sqrt mode a = ⟨f.signBit x.neg, 0⟩) ∧
    (x.value < 0 → f.sqrt mode a = invalid) ∧
    (0 < x.value →
      (∀ q : ℚ, 0 < q → q * q = x.value → RoundsTo f mode q (f.sqrt mode a)) ∧
      ((∀ q : ℚ, q * q ≠ x.value) → ∃ lo hi : ℚ, 0 < lo ∧ lo * lo < x.value ∧ x.value < hi * hi ∧ 0 < hi ∧
        ∀ q, lo < q → q < hi → RoundsTo f mode q (f.sqrt mode a)))) ∧
  (∀ (src v : Nat), src < 9 →
    let x := (fmtOf src).decode v
    (∀ d ∈ [(0, 0x7FC00000, 0x7F800000), (1, 0x7FF8000000000000, 0x7FF0000000000000), (2, 0x7E00, 0x7C00), (3, 0x7FC0, 0x7F80),
        (4, 0x7F, 0x7E), (5, 0x7E, 0x7C), (6, 0, 0x1F), (7, 0, 0x1F), (8, 0, 0x7)],
      let dst := fmtOf d.1
      let ieee := d.1 < 4 ∨ d.1 = 5
      (x.isNan = true → cvtFF (fmtOf src) dst v =
        if d.1 < 6 then ⟨d.2.1, fNF ||| (if x.isSnan then fNV else 0)⟩ else ⟨0, fNV⟩) ∧
      (x.isInf = true → cvtFF (fmtOf src) dst v = ⟨dst.signBit x.neg + d.2.2, if ieee then fNF else fNV⟩) ∧
      (x.isZero = true → cvtFF (fmtOf src) dst v = ⟨dst.signBit x.neg, 0⟩) ∧
      (x.value ≠ 0 → RoundsTo dst 0 x.value (cvtFF (fmtOf src) dst v))) ∧
    ∀ w, (w = 8 ∨ w = 32 ∨ w = 64) →
      let n : ℤ := if x.value < 0 then ⌈x.value⌉ else ⌊x.value⌋
      (x.isNan = true → cvtFI (fmtOf src) w v = ⟨0, fNV⟩) ∧
      (x.isInf = true → cvtFI (fmtOf src) w v = ⟨if x.neg then 2 ^ (w - 1) else 2 ^ (w - 1) - 1, fNV⟩) ∧
      (x.finite = true → cvtFI (fmtOf src) w v =
        if n < -2 ^ (w - 1) then ⟨2 ^ (w - 1), fNV⟩ else if 2 ^ (w - 1) ≤ n then ⟨2 ^ (w - 1) - 1, fNV⟩
        else ⟨(BitVec.ofInt w n).toNat, 0⟩)) ∧
  (∀ w, (w = 8 ∨ w = 32 ∨ w = 64) → ∀ k < 9, ∀ v : BitVec w,
    (v = 0 → cvtIF w (fmtOf k) v.toNat = ⟨0, 0⟩) ∧ (v ≠ 0 → RoundsTo (fmtOf k) 0 v.toInt (cvtIF w (fmtOf k) v.toNat))) ∧
  (∀ (v : Nat), let x := binary32.decode v
    (x.isNan = true → ∀ g ∈ [frcpV, frsqV, fexp2V, flog2V, fsinpiV, fcospiV, ftanhV],
      g v = ⟨0x7FC00000, fNF ||| (if x.isSnan then fNV else 0)⟩) ∧
    (x.value < 0 → ∀ g ∈ [frsqV, flog2V], g v = ⟨0x7FC00000, fNV ||| fNF⟩)) ∧
  ∀ q ∈ [(frcpV, (⟨0x7F800000, fDZ ||| fNF⟩ : FRes), (⟨0xFF800000, fDZ ||| fNF⟩ : FRes), (⟨0, 0⟩ : FRes), (⟨0x80000000, 0⟩ : FRes)),
      (frsqV, ⟨0x7F800000, fDZ ||| fNF⟩, ⟨0xFF800000, fDZ ||| fNF⟩, ⟨0, 0⟩, ⟨0x7FC00000, fNV ||| fNF⟩),
      (fexp2V, ⟨0x3F800000, 0⟩, ⟨0x3F800000, 0⟩, ⟨0x7F800000, fNF⟩, ⟨0, 0⟩),
      (flog2V, ⟨0xFF800000, fDZ ||| fNF⟩, ⟨0xFF800000, fDZ ||| fNF⟩, ⟨0x7F800000, fNF⟩, ⟨0x7FC00000, fNV ||| fNF⟩),
      (fsinpiV, ⟨0, 0⟩, ⟨0x80000000, 0⟩, ⟨0x7FC00000, fNV ||| fNF⟩, ⟨0x7FC00000, fNV ||| fNF⟩),
      (fcospiV, ⟨0x3F800000, 0⟩, ⟨0x3F800000, 0⟩, ⟨0x7FC00000, fNV ||| fNF⟩, ⟨0x7FC00000, fNV ||| fNF⟩),
      (ftanhV, ⟨0, 0⟩, ⟨0x80000000, 0⟩, ⟨0x3F800000, 0⟩, ⟨0xBF800000, 0⟩)],
    q.1 0 = q.2.1 ∧ q.1 0x80000000 = q.2.2.1 ∧ q.1 0x7F800000 = q.2.2.2.1 ∧ q.1 0xFF800000 = q.2.2.2.2

/-! ### Traps, guards, control transfer -/

/-- A guard that is false: the thread goes past the instruction, the pops of its .adv ports are made and its last-read marks take effect,
and no register, predicate, flag or memory changes (R42, R181); a guard that is poisoned takes POISON 0x02 (R80). It holds of every
instruction that has a guard; a joint instruction leaves in addition the mark that the thread passed it, and a thread resumed there performs
no later one alone (R313). On the access side an instruction with no active lane has no effect, and a poisoned mask takes POISON 0x02 (R42,
R82, R80); LQG and RLQ with no active lane take PORTCFG 0x03 onto an sline port (R216). In check mode the thread's earlier writes stay
watched (R45). -/
def Obligations.GuardFalse : Prop :=
  let falls := fun (i : Instr) (sh : Shape) (s r : State) (tm tid : Nat) => ∀ (x : ExThread) (g : Team),
    let u : Agent := .ex tm tid
    s.cur = some u → s.exs.find (exKey tm tid) = some x → s.teams.find tm = some g →
    ((LRec.check (s.recordOf g) && (exGuard x s.ir).val && hazHit x.hazards s.ir sh) = false → (exGuard x s.ir).poison = true →
      exec i s = .next (s.takeTrap u (tinfo 0x11 2) (len0Of s.ir.form))) ∧
    ∀ t, exGuard x s.ir = ⟨false, false⟩ →
      ((∀ q ∈ srcPorts s.ir sh, ∀ p, s.ports.find (portKey (stripKey tm (tid / 16)) q.1) = some p → p.adv = false) ∧ t = r.past u ∨
        advPops sh (r.past u) = .ok ((), t)) →
      let m := marksIn s.ir sh
      let y := if m = [] then t else t.modStrip tm (tid / 16) (fun t => m.foldl (fun t n => t.drop n (tid % 16)) t)
      let z := if LRec.check (s.recordOf g) then
          y.modEx tm tid (fun e => { e with hazards := hazNext x.hazards i s.ir sh false })
        else y
      exec i s = .next (z.idled u)
  (∀ row ∈ frameRows, ∀ i ∈ row.1, ∀ (s : State),
    (∀ tm tid, falls i (row.2 s (.ex tm tid)) s s tm tid) ∧
    ∀ (tm sp : Nat) (x : ApThread),
      let u : Agent := .ap tm sp
      s.cur = some u → s.aps.find (stripKey tm sp) = some x →
      ((apGuard x s.ir).poison = true → exec i s = .next (s.takeTrap u (tinfo 0x11 2) (len0Of s.ir.form))) ∧
      (apGuard x s.ir = ⟨0, false⟩ → (s.teams.find tm).isSome = true → exec i s = .next ((s.past u).idled u))) ∧
  (∀ i ∈ jointOps, ∀ (s : State) (tm tid : Nat), falls i (jointShape i s.ir) s
    (s.modEx tm tid (fun x => { x with pass := some x.ctl.pc, ctl := { x.ctl with solo := none } })) tm tid) ∧
  ∀ i ∈ [Instr.lqg, .rlq], ∀ (s : State) (tm sp : Nat) (x : ApThread),
    let u : Agent := .ap tm sp
    let n := objPort s.ir.d
    s.cur = some u → s.aps.find (stripKey tm sp) = some x →
    ((apGuard x s.ir).poison = true → exec i s = .next (s.takeTrap u (tinfo 0x11 2) (len0Of s.ir.form))) ∧
    (apGuard x s.ir = ⟨0, false⟩ → (s.teams.find tm).isSome = true →
      let bad := (s.ports.find (portKey (stripKey tm sp) n)).any (fun p => p.kind == .acc && p.mode == .sline)
      exec i s = .next (if bad then s.takeTrap u (portTrap 3 n) (len0Of s.ir.form) else (s.past u).idled u))

/-- Taking a trap: a thread stops with its pc at the instruction, and its record holds the pc, the ticket, the cause, the place, the
flags raised so far and joins its context's queue of records; an engine halts in state 3 with code 3 and signals hvec (R385-R387, R321).
Memory, registers, ports and strips stay as before the instruction, and so does every other unit (R59); what changes is the unit's own
standing, its team's flag word, the queue of records and the counts, and a plan of the unit that waits for a slot goes. The return from a
trap: the unit is ready at the address given, sr.trapinfo counts the resume and names the op and the trap, and nothing else of the machine
changes (R393, R394). In check mode an instruction that meets a stall hint too short takes STALLCHK, code 3, before any effect (R45):
exactly where it names a register that an earlier instruction of fixed latency has written, with no write of it between, every hint from
that one on is non-zero, and their sum is less than its latency. That a predicate counts as a register in that check, and that it comes
before the others, are the model's readings (DEDUCED, log entry 53). -/
def Obligations.TrapEntryReturnAndStallCheck : Prop :=
  (
  (∀ (s : State) (u : Agent) (c : Ctl) (t : TrapInfo) (len : BitVec 2), (∀ n, u ≠ .qe n) → s.ctl u = some c →
    let r := s.trapRecord u c t len
    let e := s.takeTrap u t len
    r.info = t ∧ r.pc = BitVec.ofNat 64 c.pc ∧ r.ctx = s.ctxOf u ∧ r.side = sideOf u ∧
    (∃ d, e.ctl u = some d ∧ d.pc = c.pc ∧ d.status = .stopped r ∧ d.sbuf = c.sbuf ∧
      { d with status := c.status, traps := c.traps, more := c.more, mark := c.mark, able := c.able, solo := c.solo } = c) ∧
    (e.context (s.ctxOf u)).traps = (s.context (s.ctxOf u)).traps ++ [r] ∧
    (∀ k, k ≠ s.ctxOf u → e.context k = s.context k) ∧
    (e.teamOf u = (s.teamOf u).map (fun x => { x with flags := x.flags ||| t.flags })) ∧
    e.plans = s.plans.filter (fun q => !(q.2.owner == u && q.2.stage == PlanStage.queued)) ∧
    { e with exs := s.exs, aps := s.aps, teams := s.teams, ctxs := s.ctxs, plans := s.plans, mgmt := s.mgmt } = s ∧
    (∀ tm tid x, u = .ex tm tid → s.exs.find (exKey tm tid) = some x → e.aps = s.aps ∧
      (∀ k, k ≠ tm → e.teams.find k = s.teams.find k) ∧ (∀ k, k ≠ exKey tm tid → e.exs.find k = s.exs.find k) ∧
      ∃ y, e.exs.find (exKey tm tid) = some y ∧ { y with ctl := x.ctl, arr := x.arr } = x) ∧
    (∀ tm sp x, u = .ap tm sp → s.aps.find (stripKey tm sp) = some x → e.exs = s.exs ∧
      (∀ k, k ≠ tm → e.teams.find k = s.teams.find k) ∧ (∀ k, k ≠ stripKey tm sp → e.aps.find k = s.aps.find k) ∧
      ∃ y, e.aps.find (stripKey tm sp) = some y ∧ { y with ctl := x.ctl, blk := x.blk } = x)) ∧
  ∀ (s : State) (n : Nat) (g : Engine) (t : TrapInfo) (len : BitVec 2), s.engines.find n = some g →
    let e := s.takeTrap (.qe n) t len
    (∃ d, e.engines.find n = some d ∧ d.state = 3 ∧ d.code = 3 ∧ d.ctl.pc = g.ctl.pc ∧
      { d with state := g.state, code := g.code, ctl := g.ctl, launch := g.launch } = g) ∧
    (∀ k, k ≠ n → e.engines.find k = s.engines.find k) ∧ e.irqs = g.hvec :: s.irqs ∧
    { e with engines := s.engines, ctxs := s.ctxs, plans := s.plans, irqs := s.irqs } = s) ∧
  (
  ∀ (s : State) (u : Agent) (c : Ctl) (r : TrapRec) (op pc : Nat), unitOk u → s.ctl u = some c →
    let e := s.resume u r op pc
    (∃ d, e.ctl u = some d ∧ d.status = .ready ∧ d.pc = pc ∧ d.solo = (if pc = r.pc.toNat then some pc else none) ∧
      d.tinfo.toNat % 2 ^ 24 = op % 8 * 2 ^ 16 + r.info.sub.toNat * 2 ^ 8 + r.info.code.toNat ∧
      d.tinfo.toNat / 2 ^ 24 = min (c.tinfo.toNat / 2 ^ 24 + 1) 255 ∧ d.sbuf = c.sbuf ∧ d.deferred = c.deferred ∧
      { d with status := c.status, pc := c.pc, tinfo := c.tinfo, solo := c.solo, readySince := c.readySince, skip := c.skip } = c) ∧
    (∀ v, unitOk v → v ≠ u → e.ctl v = s.ctl v) ∧
    (match u with
      | .ex tm tid => { e with exs := s.exs } = s ∧ (∀ k, k ≠ exKey tm tid → e.exs.find k = s.exs.find k) ∧
          ∀ x, s.exs.find (exKey tm tid) = some x → ∃ y, e.exs.find (exKey tm tid) = some y ∧ { y with ctl := x.ctl } = x
      | .ap tm sp => { e with aps := s.aps } = s ∧ (∀ k, k ≠ stripKey tm sp → e.aps.find k = s.aps.find k) ∧
          ∀ x, s.aps.find (stripKey tm sp) = some x → ∃ y, e.aps.find (stripKey tm sp) = some y ∧ { y with ctl := x.ctl } = x
      | .qe n => { e with engines := s.engines } = s ∧ (∀ k, k ≠ n → e.engines.find k = s.engines.find k) ∧
          ∀ x, s.engines.find n = some x → ∃ y, e.engines.find n = some y ∧ { y with ctl := x.ctl } = x)) ∧
  (
  (∀ row ∈ frameRows, ∀ i ∈ row.1, ∀ (s : State) (tm tid : Nat) (x : ExThread) (g : Team),
    let u : Agent := .ex tm tid
    s.cur = some u → s.exs.find (exKey tm tid) = some x → s.teams.find tm = some g → LRec.check (s.recordOf g) = true →
    (exGuard x s.ir).val = true → hazHit x.hazards s.ir (row.2 s u) = true →
    exec i s = .next (s.takeTrap u (tinfo 3 0) (len0Of s.ir.form))) ∧
  ∀ (l : List Issued) (o : Ops) (sh : Shape), hazHit (watched l) o sh = true ↔
    ∃ before w after r, l = before ++ w :: after ∧ r ∈ w.writes ∧ r ∈ hazAll o sh ∧ (∀ x ∈ after, r ∉ x.writes) ∧
      (∀ x ∈ w :: after, x.args.stall ≠ 0) ∧ ((w :: after).map (fun x => x.args.stall.toNat)).sum < w.latency)

/-- Branches: BRA by a word offset from itself, BRX to the code offset a + 4 b, RET to the code offset a, CALL with the code offset of
the next instruction in c, BEOS when the port's end has been met; and their traps on a target that is no multiple of 4 or is poisoned
(R304-R307, R214, R80). -/
def Obligations.BranchesComplete : Prop :=
  (∀ i ∈ [Instr.bra, .braLong], ∀ (s : State) (u : Agent), Executes s u noShape → s.pcAt u < 2 ^ 64 → s.pcAt u % 4 = 0 →
    exec i s = .next (s.closed ((s.past u).jumped u (s.offsetFrom u)) u i noShape)) ∧
  (∀ i ∈ [Instr.brx, .brxLong], ∀ (s t : State) (u : Agent) (v : Opnds),
    let sh : Shape := { d := 0, a := 1, b := 1, c := 0 }
    let a := v.a (t.lead u)
    let b := v.b (t.lead u)
    let target := t.baseOf u + (a.bits.toNat + 4 * (b.bits.toNat % 2 ^ 32)) % 2 ^ 32
    Executes s u sh → Delivers s u sh .int v t →
    (a.poison = false → b.poison = false → target % 4 = 0 → exec i s = .next (s.closed (t.jumped u target) u i sh)) ∧
    (a.poison = true ∨ b.poison = true → exec i s = .next (s.takeTrap u (tinfo 0x11 2) (len0Of s.ir.form))) ∧
    (a.poison = false → b.poison = false → target % 4 ≠ 0 → exec i s = .next (s.takeTrap u (tinfo 0x23 2) (len0Of s.ir.form)))) ∧
  (∀ i ∈ [Instr.ret, .retLong], ∀ (s t : State) (u : Agent) (v : Opnds),
    let sh : Shape := { d := 0, a := 1, b := 0, c := 0 }
    let a := v.a (t.lead u)
    let target := t.baseOf u + a.bits.toNat % 2 ^ 32
    Executes s u sh → Delivers s u sh .int v t →
    (a.poison = false → target % 4 = 0 → exec i s = .next (s.closed (t.jumped u target) u i sh)) ∧
    (a.poison = true → exec i s = .next (s.takeTrap u (tinfo 0x11 2) (len0Of s.ir.form))) ∧
    (a.poison = false → target % 4 ≠ 0 → exec i s = .next (s.takeTrap u (tinfo 0x23 2) (len0Of s.ir.form)))) ∧
  (∀ (s t : State) (u : Agent), Executes s u linkShape → s.pcAt u < 2 ^ 64 → s.pcAt u % 4 = 0 →
    awaitLink (s.past u) = .ok ((), s.past u) →
    Writes (s.past u) s.ir.c 1 (fun _ => Val.of (BitVec.ofNat 64
      (wrapN (((s.pcAt u + s.ir.form.bytes) % 2 ^ 64 : Nat) - (s.baseOf u : Int)) 32))) t →
    exec .call s = .next (s.closed (t.jumped u (s.offsetFrom u)) u .call linkShape)) ∧
  ∀ (s : State) (tm tid n : Nat) (x : ExThread),
    let u : Agent := .ex tm tid
    Executes s u noShape → s.exs.find (exKey tm tid) = some x → portOf s.ir.a = some n → s.pcAt u < 2 ^ 64 → s.pcAt u % 4 = 0 →
    exec .beos s = .next (s.closed (if x.eos.getLsbD n then (s.past u).jumped u (s.offsetFrom u) else s.past u) u .beos noShape)

/-- EXIT completes once the unit's stores are done and no deferred fault is pending: a thread becomes exited, its entries empty and it
holds no rows back; an engine halts with code 1. NOP, YIELD, SLEEP, MEET, MEETR and HEART as R308 to R310 and R351 say. BKPT and TRAP take
their trap: code 4, and code 5 with the subcode of x8 and the operand's value (R396, R397). That HEART ends the periods that are over
before it marks its beat is the model's reading of R351 (DEDUCED, log entry 15). -/
def Obligations.ThreadControlComplete : Prop :=
  (
  (∀ i ∈ [Instr.exit, .exitLong], ∀ (s : State) (u : Agent) (c : Ctl), Executes s u noShape → s.ctl u = some c →
    c.sbuf = [] → c.unack.all (· == 0) = true → c.deferred = [] →
    exec i s = .next (s.closed (match u with
      | .ex tm tid => (s.past u).exitEx tm tid
      | .ap tm sp => (s.past u).exitAp tm sp
      | .qe n => (s.past u).haltEngine n 1) u i noShape)) ∧
  (∀ (s : State) (tm tid : Nat) (x : ExThread), s.exs.find (exKey tm tid) = some x → tid < 2048 →
    ∃ y, (s.exitEx tm tid).exs.find (exKey tm tid) = some y ∧ y.ctl.status = .exited ∧ y.live = false ∧
      ∀ n : Fin 96, (readEx (s.exitEx tm tid) tm tid (.g n) 1).bits = 0) ∧
  (∀ i ∈ [Instr.nop, .nopLong], ∀ (s : State) (u : Agent), Executes s u noShape →
    exec i s = .next (s.closed (s.past u) u i noShape)) ∧
  (∀ i ∈ [Instr.yield, .yieldLong], ∀ (s : State) (u : Agent), Executes s u noShape →
    exec i s = .next (s.closed ((s.past u).modCtl u (fun c =>
      { c with readySince := s.now + 2, stallUntil := max c.stallUntil (s.now + 2) })) u i noShape)) ∧
  (∀ (s t : State) (u : Agent) (v : Opnds),
    let sh : Shape := { d := 0, a := 0, c := 0 }
    let x := v.b (t.lead u)
    let n := if x.poison then 0 else x.bits.toNat % 2 ^ 20
    Executes s u sh → Delivers s u sh .int v t →
    exec .sleep s = .next (s.closed (if n = 0 then t
      else t.modCtl u (fun c => { c with status := .sleeping (t.now + n) })) u .sleep sh)) ∧
  (∀ i ∈ [Instr.meet, .meetLong], ∀ (s : State) (tm tid : Nat),
    let u : Agent := .ex tm tid
    Executes s u noShape → s.pcAt u < 2 ^ 64 →
    exec i s = .next (s.closed ((s.past u).modEx tm tid (fun x => { x with
      meet := some (BitVec.ofNat 32 (wrapN ((s.offsetFrom u : Int) - (s.baseOf u : Int)) 32), BitVec.allOnes 64) })) u i noShape)) ∧
  (∀ (s t : State) (tm tid : Nat) (v : Opnds),
    let u : Agent := .ex tm tid
    let sh : Shape := { d := 0, b := 2, c := 0 }
    let off := (v.a 0).w32
    let none' := (v.a 0).poison || (v.b 0).poison || off == 0xFFFFFFFF#32
    Executes s u sh → Delivers s u sh .int v t →
    ((none' = false → off.toNat % 4 = 0) →
      exec .meetr s = .next (s.closed (t.modEx tm tid (fun x => { x with meet := if none' then none else some (off, (v.b 0).bits) }))
        u .meetr sh)) ∧
    (none' = false → off.toNat % 4 ≠ 0 → exec .meetr s = .next (s.takeTrap u (tinfo 0x23 2) (len0Of s.ir.form)))) ∧
  ∀ (s : State) (tm tid : Nat) (g : Team),
    let u : Agent := .ex tm tid
    Executes s u noShape → s.teams.find tm = some g →
    ∃ t, exec .heart s = .next t ∧ t.teams.find tm = some
      { g.endPeriods (LRec.beat (s.recordOf g)) with beaten := true, idle := 0 }) ∧
  (
  (∀ i ∈ [Instr.bkpt, .bkptLong], ∀ (s : State) (u : Agent), Executes s u noShape →
    exec i s = .next (s.takeTrap u (tinfo 4 0) (len0Of s.ir.form))) ∧
  ∀ (s t : State) (u : Agent) (v : Opnds),
    let sh : Shape := { d := 0, b := 0, c := 0 }
    let x := v.a (t.lead u)
    Executes s u sh → Delivers s u sh .int v t →
    exec .trap s = .next (s.takeTrap u
      { tinfo 5 s.ir.x8.toNat with value := if x.poison then 0 else x.bits, vpois := x.poison } (len0Of s.ir.form)))

/-! ### Frames of the register instructions -/

/-- What an integer or floating-point instruction of an execute thread that names no port leaves alone, whether it executes, is not
executed, waits or traps: all memory, ports, requests and every other thread; its own predicates, end-of-stream flags and meeting; every
register but the one or two its destination names and the marked names, of its strip and of every other; of its team, everything but the
flag word and the idle clocks. Contexts, plans and counts change only where it takes a trap. -/
def Obligations.RegisterRowsFrame : Prop :=
  ∀ row ∈ registerRows, ∀ i ∈ row.1, ∀ (s t : State) (tm tid : Nat) (x : ExThread),
    let sh := row.2 s.ir
    s.cur = some (.ex tm tid) → tid < 2048 → s.exs.find (exKey tm tid) = some x → (s.strip tm (tid / 16)).sound s.fresh →
    noPort s.ir.a = true → noPort s.ir.b = true → noPort s.ir.c = true → noPort s.ir.d = true →
    exec i s = .next t →
    { t with exs := s.exs, teams := s.teams, strips := s.strips, fresh := s.fresh, ctxs := s.ctxs, plans := s.plans, mgmt := s.mgmt } = s ∧
    (∀ k, k ≠ stripKey tm (tid / 16) → t.strips.find k = s.strips.find k) ∧
    (∀ k, k ≠ exKey tm tid → t.exs.find k = s.exs.find k) ∧
    (∃ y, t.exs.find (exKey tm tid) = some y ∧ y.f = x.f ∧ y.fp = x.fp ∧ y.eos = x.eos ∧ y.meet = x.meet ∧ y.ctl.sbuf = x.ctl.sbuf ∧
      ((∃ r, y.ctl.status = .stopped r) ∨ t.ctxs = s.ctxs ∧ t.plans = s.plans ∧ t.mgmt = s.mgmt)) ∧
    (∀ k, k ≠ tm → t.teams.find k = s.teams.find k) ∧
    (∀ g, s.teams.find tm = some g → ∃ g', t.teams.find tm = some g' ∧ { g' with flags := g.flags, idle := g.idle } = g) ∧
    ∀ (tid' : Nat) (j : Fin 96), tid' < 2048 →
      (tid' ≠ tid ∨ (j.val ∉ gNames s.ir.d sh.d ∧ j.val ∉ marksIn s.ir sh)) →
      readEx t tm tid' (.g j) 1 = readEx s tm tid' (.g j) 1

/-! ### Memory -/

/-- An access in space 0, 1, 4 or 5 whose operands are clean and whose handle the instruction accepts is made when its offset is within the
limit, its location and offset aligned and its translation granted, at the address that gives (R143, R147, R161). The checks of an access
that acts once, in their order: poison of the data, of the offset and of a place, the handle's space, kind and width, the place word of
space 2, the semaphore window (R326), alignment, bounds, translation; the first that fails gives its code and subcode, and nothing has
changed (R161, R162, R80, R143, R145, R147). Translation: the lowest-numbered valid range register that holds the VA decides; without one
PROT 0x01, without the permission PROT 0x02 (R147). That R144's check of the offset field's form comes before R163's of the handle is the
model's reading (DEDUCED, log entry 32), and that bits 63 to 32 of a place register are ignored its choice (DESIGN CHOICE, log entry 57). -/
def Obligations.AccessChecks : Prop :=
  (
  ∀ (s : State) (u : Agent) (w : Want) (v : Opnds) (l : Nat) (vec data place : Bool) (a : Acc),
    s.cur = some u → 0 < w.size → (data = true → (v.a l).poison = false) → (v.b l).poison = false →
    checkHandle (sideOf u) w (s.handleOf u w.hidx) (isReg s.ir.b) (place && named s.ir.c) = .ok () →
    accessAt s u w v l a → accesses w v [l] vec data place s = .ok ([(l, a)], s)) ∧
  (
  ∀ (s : State) (u : Agent) (w : Want) (v : Opnds) (l : Nat) (data place : Bool),
    s.cur = some u → 0 < w.size →
    let h := s.handleOf u w.hidx
    let sp := Hnd.space h
    let raw := (v.b l).bits.toNat % (if sideOf u = .exec then 2 ^ 32 else 2 ^ 64)
    let off := if (Hnd.tagen h || !w.tags) && Hnd.kind h == 1 then raw % 2 ^ 60 else raw
    let loc := Hnd.base h + off
    let fails := fun (t : TrapInfo) => accesses w v [l] false data place s = .error (.trap t)
    let checked := checkHandle (sideOf u) w h (isReg s.ir.b) (place && named s.ir.c) = .ok ()
    let placed := place = true ∧ sp = 2
    let clean := (data = true → (v.a l).poison = false) ∧ (v.b l).poison = false ∧ (placed → (v.c l).poison = false)
    let regOff := sideOf u = .exec ∧ globalSpace sp = true ∧ isReg s.ir.b = true
    let foreign := sp ∉ w.spaces ∨ place = true ∧ named s.ir.c = true ∧ sp ≠ 2
    let word := (v.c l).bits.toNat % 2 ^ 32
    (data = true ∧ (v.a l).poison = true → fails (tinfo 0x11 0)) ∧
    ((data = true → (v.a l).poison = false) ∧ ((v.b l).poison = true ∨ placed ∧ (v.c l).poison = true) → fails (tinfo 0x11 1)) ∧
    (clean → sp = 7 → fails (accTrap 0x24 1 w.hidx 0)) ∧
    (clean → sp ≠ 7 → regOff → fails (accTrap 0x24 6 w.hidx 0)) ∧
    (clean → sp ≠ 7 → ¬regOff → foreign → fails (accTrap 0x24 2 w.hidx 0)) ∧
    (clean → sp ≠ 7 → ¬regOff → ¬foreign → Hnd.kind h ∉ w.kinds → fails (accTrap 0x24 5 w.hidx 0)) ∧
    (clean → sp ≠ 7 → ¬regOff → ¬foreign → Hnd.kind h ∈ w.kinds → Hnd.ew h ∉ w.widths → fails (accTrap 0x24 7 w.hidx 0)) ∧
    (∀ g, clean → checked → sp = 2 → s.teamOf u = some g → ¬(placed ∧ sideOf u = .access ∧ s.ir.c = .reg (.a 0) false) →
      let core := s.coreAt (g.coreOf (stripOf u)) (sext (word % 256) 8) (sext (word / 256) 8)
      (word / 2 ^ 16 ≠ 0 ∨ core = none → fails (accTrap 0x24 3 w.hidx 0)) ∧
      ∀ c, word / 2 ^ 16 = 0 → core = some c → s.teamAt g.gid g.cohort c = none → fails (accTrap 0x24 4 w.hidx 0)) ∧
    (clean → checked → sp = 0 → loc < 2 ^ 64 → semBase < loc + w.size → w.sem = false ∨ loc < semBase ∨ 2 ^ 64 < loc + w.size →
      fails (accTrap 0x24 8 w.hidx loc)) ∧
    (clean → checked → ¬(placed ∧ sideOf u = .access ∧ s.ir.c = .reg (.a 0) false) →
      (sp = 0 ∨ sp = 1 ∨ sp = 4 ∨ sp = 5 ∨ sp = 2 ∧ ∃ q, s.placeTarget u w.hidx (v.c l).bits = .ok q) →
      (sp = 0 → loc + w.size ≤ semBase) →
      let aligned := loc % w.align = 0 ∧ off % w.offAlign = 0
      (¬aligned → fails (accTrap 0x23 1 w.hidx loc)) ∧
      (aligned → Hnd.limit h < off + w.size → fails (accTrap 0x20 1 w.hidx loc)) ∧
      (aligned → off + w.size ≤ Hnd.limit h → globalSpace sp = true →
        ∀ t, translate (s.context (s.ctxOf u)) loc w.need = .error t →
          fails { t with handle := BitVec.ofNat 8 w.hidx, loc := BitVec.ofNat 64 loc }))) ∧
  (
  ∀ (c : Context) (va : Nat) (need : Need),
    let holds := fun (r : RangeReg) => Range.v r && decide (Range.vbase r ≤ va ∧ va < Range.vend r)
    ((∀ r ∈ c.ranges, holds r = false) → translate c va need = .error (prot 1)) ∧
    ∀ (before after : List RangeReg) (r : RangeReg), c.ranges = before ++ r :: after → (∀ q ∈ before, holds q = false) →
      holds r = true →
      (need.grants r = true → translate c va need = .ok (Range.iabase r + (va - Range.vbase r), r)) ∧
      (need.grants r = false → translate c va need = .error (prot 2)))

/-- LDS.W, LDS.D and LDS of an execute thread complete: from its own core's store at once, with the thread's earlier buffered stores
read first, and from a peer core's store with a request whose value lands in the registers the write takes; a peer load onto a port is
performed at once (R163-R168, R185, R230, R298). -/
def Obligations.ExecuteLoadsComplete : Prop :=
  ∀ q ∈ [(Instr.ldsW, some 4, [1], kPlain), (.ldsWLong, some 4, [1], kPlain), (.ldsD, some 8, [1], kPlain),
      (.ldsDLong, some 8, [1], kPlain), (.lds, none, [1, 2, 3], kRead)],
  ∀ (s t t1 : State) (tm tid : Nat) (v : Opnds) (l : Nat) (a : Acc),
    let i : Instr := q.1
    let u : Agent := .ex tm tid
    let h := s.handleOf u s.ir.x8.toNat
    let ew := q.2.1.isNone
    let size := q.2.1.getD (2 ^ Hnd.ew h)
    let w := if size = 8 then 2 else 1
    let sh : Shape := { d := w, a := 0, b := 1, c := if ew then 1 else 0 }
    let r := t1.reqOf u a .load (s.pcAt u) 255 .none
    Executes s u sh → s.pcAt u < 2 ^ 64 → (ew = true → checkPairs h [s.ir.d] (s.past u) = .ok ((), s.past u)) →
    Delivers s u sh .offset v t →
    accesses { hidx := s.ir.x8.toNat, spaces := q.2.2.1, kinds := q.2.2.2, size, align := size, need := .rd } v [0] false false ew t =
      .ok ([(l, a)], t1) →
    (∀ t', t1.ownStore r = true ∨ (portOf s.ir.d).isSome = true → t1.inOrder t1.fresh r = true →
      Writes t1 s.ir.d w (fun _ => loaded h ew a.size (if w = 2 then 64 else 32)
        (valOf (t1.forward t1.fresh r (t1.readStore a.addr a.size)))) t' →
      exec i s = .next (s.closed t' u i sh)) ∧
    (∀ (g : Fin 96) (m : Bool) (ids : List Nat) (t2 : State), t1.ownStore r = false → s.ir.d = .reg (.g g) m →
      writeRegs tm tid (if w = 2 then [(g.val, (0 : W32)), (g.val + 1, 0)] else [(g.val, 0)]) false true t1 = .ok (ids, t2) →
      exec i s = .next (s.closed (({ t2 with fresh := t2.fresh + 1 } : State).inject t2.fresh
        { r with landing := .sreg tm (tid / 16) (tid % 16) (ids.getD 0 0) ids[1]? }) u i sh))

/-- Loads and ATOMS of an access thread: in its own core's store each active lane is read, or read and written, at once; elsewhere one
request a lane is sent and the thread waits, ATOMS within the limit of R400, and once every lane is answered the values are written (R161,
R164, R168, R170). -/
def Obligations.AccessLoadsComplete : Prop :=
  (∀ q ∈ [(Instr.ldsW, some 4, [1], kPlain), (.ldsWLong, some 4, [1], kPlain), (.ldsD, some 8, [1], kPlain),
      (.ldsDLong, some 8, [1], kPlain), (.lds, none, [0, 1, 2, 4], kRead)],
  ∀ (s t t1 : State) (tm sp : Nat) (x : ApThread) (v : Opnds) (rs : List (Nat × Acc)),
    let i : Instr := q.1
    let u : Agent := .ap tm sp
    let h := s.handleOf u s.ir.x8.toNat
    let ew := q.2.1.isNone
    let size := q.2.1.getD (2 ^ Hnd.ew h)
    let w := if size = 8 then 2 else 1
    let sh : Shape := { d := w, a := 0, b := 1, c := if ew then 1 else 0 }
    let vec := isVec s.ir.d
    let want : Want := { hidx := s.ir.x8.toNat, spaces := q.2.2.1, kinds := q.2.2.2, size, align := size, need := .rd }
    let far := globalSpace (Hnd.space h) || Hnd.space h == 2
    Executes s u sh → s.pcAt u < 2 ^ 64 → s.aps.find (stripKey tm sp) = some x → Delivers s u sh .offset v t →
    accesses want v (if vec then laneList (apGuard x s.ir).bits else [s.lead u]) vec false ew t = .ok (rs, t1) →
    (∀ (xs : List (Nat × Val)) (t2 t' : State), far = false →
      (rs.map (fun y => (y.1, t1.reqOf u y.2 .load (s.pcAt u) (recLane vec y.1) .none))).mapM
        (fun r => (do pure (r.1, ← doOwn r.2) : M (Nat × Val))) t1 = .ok (xs, t2) →
      Writes t2 s.ir.d w (fun l => loaded h ew size 64 ((xs.find? (fun x => x.1 == l)).elim Val.zero (·.2))) t' →
      exec i s = .next (s.closed t' u i sh)) ∧
    (far = true → x.blk = none → exec i s = .next
      (s.sendBlock tm sp i (rs.map (fun y => (y.1, t1.reqOf u y.2 .load (s.pcAt u) (recLane vec y.1) .none)))))) ∧
  (∀ (s t t1 : State) (tm sp : Nat) (x : ApThread) (c : Lanes) (v : Opnds) (rs : List (Nat × Acc)),
    let u : Agent := .ap tm sp
    let h := s.handleOf u s.ir.x8.toNat
    let size := 2 ^ Hnd.ew h
    let w := ewFields h
    let sh : Shape := { d := w, a := w, b := 1, c := 1 }
    let vec := isVec s.ir.d
    let far := globalSpace (Hnd.space h) || Hnd.space h == 2
    let v' : Opnds := { v with a := fun l => { v.a l with poison := (v.a l).poison || (c l).poison } }
    let qs := rs.map (fun y => (y.1, t1.reqOf u y.2 (.atomic s.ir.sel.toNat (8 * size) (v.a y.1).bits (c y.1).bits true) (s.pcAt u)
      (recLane vec y.1) .none))
    Executes s u sh → s.pcAt u < 2 ^ 64 → s.aps.find (stripKey tm sp) = some x → x.blk = none →
    (if s.ir.sel.toNat = 9 then readDest w (s.past u) = .ok (c, s.past u) else c = fun _ => Val.zero) → Delivers s u sh .offset v t →
    accesses { hidx := s.ir.x8.toNat, spaces := [0, 1, 2], kinds := kFlat, widths := [2, 3], size, align := size, need := .both } v'
      (if vec then laneList (apGuard x s.ir).bits else [s.lead u]) vec true true t = .ok (rs, t1) →
    (far = true → t1.replyRoom u rs.length = true → exec .atoms s = .next (s.sendBlock tm sp .atoms qs)) ∧
    ∀ (xs : List (Nat × Val)) (t2 t' : State), far = false →
      qs.mapM (fun r => (do pure (r.1, ← doOwn r.2) : M (Nat × Val))) t1 = .ok (xs, t2) →
      Writes t2 s.ir.d w (fun l => loaded h true size 64 ((xs.find? (fun x => x.1 == l)).elim Val.zero (·.2))) t' →
      exec .atoms s = .next (s.closed t' u .atoms sh)) ∧
  (∀ q ∈ [(Instr.lds, true), (.atoms, false)],
  ∀ (s t t' : State) (tm sp : Nat) (x : ApThread) (b : Block) (v : Opnds),
    let i : Instr := q.1
    let u : Agent := .ap tm sp
    let h := s.handleOf u s.ir.x8.toNat
    let size := 2 ^ Hnd.ew h
    let w := if q.2 then (if size = 8 then 2 else 1) else ewFields h
    let sh : Shape := if q.2 then { d := w, a := 0, b := 1, c := 1 } else { d := w, a := w, b := 1, c := 1 }
    Executes s u sh → s.aps.find (stripKey tm sp) = some x → x.blk = some b →
    (globalSpace (Hnd.space h) || Hnd.space h == 2) = true → Delivers s u sh .offset v t →
    (∀ y ∈ b.lanes, ∃ z, y.2 = some (.ok z)) →
    Writes (t.modAp tm sp (fun x => { x with blk := none })) s.ir.d w (fun l => loaded h true size 64
      (match b.lanes.find l with
        | some (some (.ok z)) => z
        | _ => Val.zero)) t' →
    exec i s = .next (s.closed t' u i sh))

/-- STS.W, STS.D, STS and REDS enter the unit's store buffer, one entry an active lane with the low bits of its data or the operation;
no byte of memory changes until an entry leaves (R163-R168, R171, R230). -/
def Obligations.StoresEnterBuffer : Prop :=
  ∀ q ∈ [(Instr.stsW, some 4, [1], [1], kPlain, [0, 1, 2, 3], Need.wr), (.stsWLong, some 4, [1], [1], kPlain, [0, 1, 2, 3], .wr),
      (.stsD, some 8, [1], [1], kPlain, [0, 1, 2, 3], .wr), (.stsDLong, some 8, [1], [1], kPlain, [0, 1, 2, 3], .wr),
      (.sts, none, [1, 2, 3], [0, 1, 2, 4], kTile, [0, 1, 2, 3], .wr), (.reds, none, [1, 2], [0, 1, 2], kFlat, [2, 3], .both)],
  ∀ (s t t1 : State) (u : Agent) (v : Opnds) (rs : List (Nat × Acc)),
    let i : Instr := q.1
    let h := s.handleOf u s.ir.x8.toNat
    let ew := q.2.1.isNone
    let size := q.2.1.getD (2 ^ Hnd.ew h)
    let sh : Shape := { d := 0, a := if size = 8 then 2 else 1, b := 1, c := if ew then 1 else 0 }
    let vec := match u with
      | .ap _ _ => isVec s.ir.a || isVec s.ir.b
      | _ => false
    let ls := match u with
      | .ap tm sp => if isVec s.ir.a || isVec s.ir.b
          then laneList ((s.aps.find (stripKey tm sp)).elim 0 (fun x => (apGuard x s.ir).bits)) else [s.lead u]
      | _ => [0]
    let kind := fun (z : W64) => if i = .reds then ReqKind.atomic s.ir.sel.toNat (8 * size) z 0 false
      else .store (z.toNat % 2 ^ (8 * size)) false
    let done := rs.foldl (fun t (y : Nat × Acc) => ({ t with fresh := t.fresh + 1 } : State).modCtl u (fun c =>
      { c with sbuf := c.sbuf.put t.fresh (t1.reqOf u y.2 (kind (v.a y.1).bits) (s.pcAt u) (recLane vec y.1) .none) })) t1
    Executes s u sh → s.pcAt u < 2 ^ 64 → (∀ n, u ≠ .qe n) → (ew = true → checkPairs h [s.ir.a] (s.past u) = .ok ((), s.past u)) →
    Delivers s u sh .offset v t →
    accesses { hidx := s.ir.x8.toNat, spaces := if sideOf u = .exec then q.2.2.1 else q.2.2.2.1, kinds := q.2.2.2.2.1,
               widths := q.2.2.2.2.2.1, size, align := size, need := q.2.2.2.2.2.2 } v ls vec true ew t = .ok (rs, t1) →
    exec i s = .next (s.closed done u i sh) ∧ done.mem = s.mem

/-- ATOMS of an execute thread on its own core's store returns the old value and stores the new one, after the thread's buffered stores
to the core; the comparand of CAS is the destination's old value, and a poisoned word is returned with its tag and not updated (R169, R170,
R229). On a peer core's store a request is sent, within the limit of R400, whose old value lands in the registers the write takes (R298);
the peer core performs it on its word (R169), and with a port as its destination the thread performs it where it stands (R185). The
integer operations of the atomic table on W-bit vectors; FADD rounds to nearest even with a canonical NaN, FMIN and FMAX take the smaller and
larger number with -0 below +0 (R169, R96). -/
def Obligations.ExecuteAtomicCompletes : Prop :=
  (
  ∀ (s t t1 t' : State) (tm tid : Nat) (c : Lanes) (v : Opnds) (l : Nat) (a : Acc),
    let u : Agent := .ex tm tid
    let h := s.handleOf u s.ir.x8.toNat
    let size := 2 ^ Hnd.ew h
    let w := ewFields h
    let sh : Shape := { d := w, a := w, b := 1, c := 1 }
    let cas := s.ir.sel.toNat == 9
    let v' : Opnds := { v with a := fun l => { v.a l with poison := (v.a l).poison || (c l).poison } }
    let r := t1.reqOf u a (.atomic s.ir.sel.toNat (8 * size) (v.a 0).bits (c 0).bits true) (s.pcAt u) 255 .none
    let done := fun e : State =>
      let x := e.readStore a.addr a.size
      (x, if x.2 then e else e.writeStore a.addr a.size
        (atomicNew s.ir.sel.toNat (8 * size) x.1 ((v.a 0).bits.toNat % 2 ^ (8 * size)) ((c 0).bits.toNat % 2 ^ (8 * size))) false)
    let e := t1.drainAll u 0 (t1.bufferOf (.unit u)).length
    Executes s u sh → s.pcAt u < 2 ^ 64 → checkPairs h [s.ir.d, s.ir.a] (s.past u) = .ok ((), s.past u) →
    (if cas then readDest w (s.past u) = .ok (c, s.past u) else c = fun _ => Val.zero) → Delivers s u sh .offset v t →
    accesses { hidx := s.ir.x8.toNat, spaces := [1, 2], kinds := kFlat, widths := [2, 3], size, align := size, need := .both }
      v' [0] false true true t = .ok ([(l, a)], t1) →
    l = 0 →
    ((t1.ownStore r = true ∨ (portOf s.ir.d).isSome = true) → e.inOrder e.fresh r = true →
      Writes (done e).2 s.ir.d w (fun _ => loaded h true a.size (if w = 2 then 64 else 32) (valOf (done e).1)) t' →
      exec .atoms s = .next (s.closed t' u .atoms sh)) ∧
    (∀ (g : Fin 96) (m : Bool) (ids : List Nat) (t2 : State), t1.ownStore r = false → s.ir.d = .reg (.g g) m →
      t1.replyRoom u 1 = true →
      writeRegs tm tid (if w = 2 then [(g.val, (0 : W32)), (g.val + 1, 0)] else [(g.val, 0)]) false true t1 = .ok (ids, t2) →
      exec .atoms s = .next (s.closed (({ t2 with fresh := t2.fresh + 1 } : State).inject t2.fresh
        { r with landing := .sreg tm (tid / 16) (tid % 16) (ids.getD 0 0) ids[1]? }) u .atoms sh)) ∧
    ∀ p : State, p.atCore r = done p) ∧
  (
  ∀ w, (w = 32 ∨ w = 64) → ∀ (old v cmp : BitVec w),
    let f := fun op => atomicNew op w old.toNat v.toNat cmp.toNat
    f 0 = (old + v).toNat ∧
    f 1 = (if v.slt old then v else old).toNat ∧
    f 2 = (if old.slt v then v else old).toNat ∧
    f 3 = (if v < old then v else old).toNat ∧
    f 4 = (if old < v then v else old).toNat ∧
    f 5 = (old &&& v).toNat ∧ f 6 = (old ||| v).toNat ∧ f 7 = (old ^^^ v).toNat ∧
    f 8 = v.toNat ∧
    f 9 = (if old = cmp then v else old).toNat ∧
    f 13 = (if v ≤ old then 0 else old + 1).toNat ∧
    f 14 = (if old = 0 ∨ v < old then v else old - 1).toNat ∧
    let fm := if w = 64 then binary64 else binary32
    let x := fm.decode old.toNat
    let y := fm.decode v.toNat
    (x.isNan = true ∨ y.isNan = true → f 10 = fm.nanBits) ∧
    (x.finite = true → y.finite = true → (x.value + y.value ≠ 0 → ∃ fl, RoundsTo fm 0 (x.value + y.value) ⟨f 10, fl⟩) ∧
      (x.value + y.value = 0 → f 10 = fm.signBit (x.neg && y.neg))) ∧
    (x.isInf = true → y.isNan = false → f 10 = if y.isInf && y.neg != x.neg then fm.nanBits else old.toNat) ∧
    (x.finite = true → y.isInf = true → f 10 = v.toNat) ∧
    (x.isNan = true → (f 11 = if y.isNan then fm.nanBits else v.toNat) ∧ (f 12 = if y.isNan then fm.nanBits else v.toNat)) ∧
    (x.isNan = false → y.isNan = true → f 11 = old.toNat ∧ f 12 = old.toNat) ∧
    (x.finite = true → y.finite = true →
      (f 11 = if x.value < y.value ∨ (x.value = y.value ∧ x.neg = true) then old.toNat else v.toNat) ∧
      (f 12 = if y.value < x.value ∨ (x.value = y.value ∧ y.neg = true) then old.toNat else v.toNat)) ∧
    (x.isInf = true → y.isNan = false → (f 11 = if x.neg then old.toNat else v.toNat) ∧ (f 12 = if x.neg then v.toNat else old.toNat)) ∧
    (x.finite = true → y.isInf = true → (f 11 = if y.neg then v.toNat else old.toNat) ∧ (f 12 = if y.neg then old.toNat else v.toNat)))

/-- The oldest store of a class that may leave for its own core's store changes exactly its bytes, to its value's bytes, little end
first; it leaves the buffer, and every other byte of memory reads as before (R3, R230). A push to a store-stream that is the oldest entry
of all fills its slot and leaves the buffer, and memory stays (R185, R230). -/
def Obligations.DrainedStoreWritesItsBytes : Prop :=
  (∀ (s : State) (u : Agent) (cls n key row lane v : Nat) (r : Req) (p : Port),
    s.running (s.ctxOf u) = true → oldest (s.bufferOf (.unit u)) cls = some (n, r) → r.pushed = some (key, row, lane, v) →
    (∀ q ∈ s.bufferOf (.unit u), n ≤ q.1) → s.ports.find key = some p →
    ∃ t, s.drain u cls = some t ∧ t.bufferOf (.unit u) = (s.bufferOf (.unit u)).del n ∧ t.mem = s.mem ∧
      t.ports.find key = some (p.setSlot row lane (.data (BitVec.ofNat 512 v) false))) ∧
  ∀ (s : State) (u : Agent) (cls n d : Nat) (r : Req), s.memWf = true →
    s.running (s.ctxOf u) = true → oldest (s.bufferOf (.unit u)) cls = some (n, r) → r.kind = .store d false → r.pusher = [] →
    r.pushed = none → s.ownStore r = true → s.inOrder n r = true → s.engineHeld u r = true →
    ∃ t, s.drain u cls = some t ∧ t.bufferOf (.unit u) = (s.bufferOf (.unit u)).del n ∧ t.memWf = true ∧
      ∀ a, Memory.read t.mem a =
        if r.ia ≤ a ∧ a < r.ia + r.size then BitVec.ofNat 8 (d / 256 ^ (a - r.ia)) else Memory.read s.mem a

/-! ### Joint instructions and hash tables -/

/-- A joint instruction issued under a true guard arrives: its thread waits at it for the members its mask names, and keeps its operands
where they are until the set performs (R313). JOINT_PERFORM of a complete set whose members can all read their operands: each member, in
ascending order, takes its operands, receives its result of R314 to R317, and goes on past the instruction. The results of joint
instructions over clean participants in ascending order: XBCAST gives the lowest member's value, XRED with op 0 the sum, XSCAN with op 0
the sum of the members up to the thread, XPOLL all, any and the mask, XMATCH the members that hold the same value (R314, R315). That a set
waits for the pool as one from when its first thread began to, and grows by its members' own sets, is the model's reading (DEDUCED, log
entry 21); that a thread resumed where it had trapped before it arrived may still complete its companions' set is its choice (DESIGN CHOICE,
log entry 59). -/
def Obligations.JointInstructionsComplete : Prop :=
  (
  ∀ i ∈ [Instr.xshuf, .xbcast, .xpoll, .xred, .xscan, .xmatch, .xsync, .xcompact, .rebal, .ssi],
  ∀ (s : State) (tm tid : Nat),
    let u : Agent := .ex tm tid
    let sh := jointShape i s.ir
    let p := s.past u
    let m := p.maskNow tm tid s.ir
    let q := p.modEx tm tid (fun x => { x with pass := none, mask := m })
    Executes s u sh → s.pcAt u < 2 ^ 64 → checkPorts sh p = .ok ((), p) →
    awaitRegs [(s.ir.a, sh.a), (s.ir.b, sh.b), (s.ir.c, sh.c)] p = .ok ((), p) →
    exec i s = .next (s.closed (q.stays tm tid i s.ir (s.pcAt u) (.joint (s.pcAt u) (spanSet tid m))) u i sh)) ∧
  (
  (∀ (s t : State) (tm tid : Nat) (set : NatSet) (ms : List (Nat × Insn × Part)),
    s.occ = .num2 tm tid → s.jointSet tm tid = some set → ms.map (·.1) = set →
    (∀ x ∈ ms, s.atJoint tm x.1 = some x.2.1 ∧ ∃ r, s.asUnit (.ex tm x.1) x.2.1.args (jointIn x.2.1.op) = .ok (x.2.2, r)) →
    JointChain tm (ms.map (·.2.2)) ms (s.setTurn tm set) t → exec .jointPerform s = .next t) ∧
  ∀ (s t : State) (tm tid : Nat) (x : ExThread) (i : Insn) (r : JRes), s.exs.find (exKey tm tid) = some x → x.arr = some i →
    s.asUnit (.ex tm tid) i.args (jointDone i.op r) = .ok ((), t) →
    s.jointStep tm i tid r = .ok t ∧ ∃ y, t.exs.find (exKey tm tid) = some y ∧ y.arr = none ∧ y.ctl.status = .ready ∧
      y.ctl.pc = (x.ctl.pc + i.args.form.bytes) % 2 ^ 64) ∧
  (
  ∀ (x8 : BitVec 8) (ps : List Part) (t : Part), t ∈ ps → ps.length ≤ 64 → ps.Pairwise (fun p q => p.tid < q.tid) →
    (∀ p ∈ ps, p.tainted = false ∧ p.tid / 64 = t.tid / 64) →
    let w := if x8.getLsbD 4 then 64 else 32
    let val := fun (p : Part) => p.a.bits.toNat % 2 ^ w
    jointResult .xbcast x8 ps t = ⟨val (ps.headD t), false, 0⟩ ∧
    (x8.toNat % 16 = 0 → jointResult .xred x8 ps t = ⟨(ps.map val).sum % 2 ^ w, false, 0⟩) ∧
    (x8.toNat % 16 = 0 → x8.getLsbD 5 = false → jointResult .xscan x8 ps t =
      ⟨((ps.filter (fun p => p.tid ≤ t.tid)).map val).sum % 2 ^ w, false, 0⟩) ∧
    (x8.toNat % 4 = 0 → ((jointResult .xpoll x8 ps t).v = 1 ↔ ∀ p ∈ ps, p.pa.val = true)) ∧
    (x8.toNat % 4 = 1 → ((jointResult .xpoll x8 ps t).v = 1 ↔ ∃ p ∈ ps, p.pa.val = true)) ∧
    (x8.toNat % 4 = 3 → ∀ j, j < 64 → ((jointResult .xpoll x8 ps t).v.testBit j = true ↔
      ∃ p ∈ ps, p.tid % 64 = j ∧ p.pa.val = true)) ∧
    ∀ j, j < 64 → ((jointResult .xmatch x8 ps t).v.testBit j = true ↔ ∃ p ∈ ps, p.tid % 64 = j ∧ val p = val t))

/-- HACC and HFIND on a well-formed table of the core's window: HACC combines into the key's slot, or claims the first empty slot of the
probe and counts it; HFIND returns the value of the key's slot; each reports what R319 and R320 say. -/
def Obligations.HashTablesComplete : Prop :=
  (∀ (s t t1 t' : State) (tm tid : Nat) (v : Opnds) (b : Table),
    let u : Agent := .ex tm tid
    let key := (v.a 0).w32.toNat
    let x := (v.b 0).w32.toNat
    let out := fun (r : State) (n : Nat) => Writes r s.ir.d 1 (fun _ => Val.of (BitVec.ofNat 64 n)) t'
    let fin := exec .hacc s = .next (s.closed t' u .hacc {})
    Executes s u {} → Delivers s u {} .int v t → hashTable v true t = .ok (b, t1) → b.poison = false →
    (b.bad = true → out t1 4 → fin) ∧
    (b.bad = false → key = 2 ^ 32 - 1 → out t1 3 → fin) ∧
    (b.bad = false → key ≠ 2 ^ 32 - 1 → t1.probe b key b.lim 0 = none → out t1 2 → fin) ∧
    (∀ j old, b.bad = false → key ≠ 2 ^ 32 - 1 → t1.probe b key b.lim 0 = some (j, true, old, false) →
      out (t1.writeStore (b.key + 16 + 8 * j + 4) 4 (atomicNew (s.ir.x8.toNat % 16) 32 old x 0) false) (2 ^ 16 * j) → fin) ∧
    (∀ j old, b.bad = false → key ≠ 2 ^ 32 - 1 → t1.probe b key b.lim 0 = some (j, false, old, false) →
      out ((t1.writeStore (b.key + 16 + 8 * j) 8 (key + x * 2 ^ 32) false).writeStore (b.key + 8) 4 ((b.used + 1) % 2 ^ 32) false)
        (1 + 2 ^ 16 * j) → fin)) ∧
  (∀ (s t t1 t' : State) (tm tid : Nat) (v : Opnds) (b : Table),
    let u : Agent := .ex tm tid
    let sh : Shape := { d := 2, b := 0 }
    let key := (v.a 0).w32.toNat
    let out := fun (x n : Nat) => Writes t1 s.ir.d 2 (fun _ => Val.of (BitVec.ofNat 64 (x + n * 2 ^ 32))) t'
    let fin := exec .hfind s = .next (s.closed t' u .hfind sh)
    Executes s u sh → Delivers s u sh .int v t → hashTable v false t = .ok (b, t1) → b.poison = false →
    (b.bad = true → out 0 4 → fin) ∧
    (b.bad = false → key = 2 ^ 32 - 1 → out 0 3 → fin) ∧
    (∀ j x, b.bad = false → key ≠ 2 ^ 32 - 1 → t1.probe b key b.lim 0 = some (j, true, x, false) → out x 0 → fin) ∧
    (b.bad = false → key ≠ 2 ^ 32 - 1 → (t1.probe b key b.lim 0 = none ∨ ∃ j x, t1.probe b key b.lim 0 = some (j, false, x, false)) →
      out 0 1 → fin)) ∧
  -- what HACC has stored under a key, HFIND finds: the probe stops at the slot with its value
  ∀ (s : State) (b : Table) (key x j : Nat) (old : Nat), s.memWf = true → 2 ≤ b.slots → key < 2 ^ 32 - 1 → x < 2 ^ 32 →
    b.lim ≤ b.slots → s.probe b key b.lim 0 = some (j, false, old, false) →
    (s.writeStore (b.key + 16 + 8 * j) 8 (key + x * 2 ^ 32) false).probe b key b.lim 0 = some (j, true, x, false)

/-! ### Stream ports -/

/-- LQ, LQG and LQL reserve their rows at the port's push position and send one load for each element or line; the rows' other lanes are
zero (R186, R216). Where no thread of the strip is live any more the rows retire at once (R183). -/
def Obligations.QueueLoadsComplete : Prop :=
  ∀ (s t t1 : State) (tm sp n : Nat) (p q : Port) (x : ApThread) (v : Opnds) (ps : List (Nat × Spot)),
    let u : Agent := .ap tm sp
    let key := portKey (stripKey tm sp) n
    let act := (apGuard x s.ir).bits
    let reserve := fun (rows : List (List Slot)) =>
      ({ t1 with ports := t1.ports.put key { q with rows := q.rows ++ rows, reserve := q.reserve + rows.length } } :
        State).retireIdle tm sp key
    let send := fun (r : State) (xs : List (Spot × Nat × Landing)) => r.injectAll (xs.map (fun x =>
      portLoad r u (.unit u) (s.pcAt u) (r.finishSpot (r.ctxOf u) x.1 .rd) x.1 .load x.2.1 x.2.2))
    let row : List Slot := (List.range 16).map (fun l => if act.getLsbD l then .pending else .data 0 false)
    let blank : List Slot := List.replicate 16 .pending
    s.aps.find (stripKey tm sp) = some x → objPort s.ir.d = n → s.ports.find key = some p → p.kind = .acc → s.pcAt u < 2 ^ 64 →
    t1.ports.find key = some q → q.past q.reserve = false →
    (let sh : Shape := { d := 0, a := 0, c := 0 }
     Executes s u sh → p.mode = .elem → checkPorts sh (s.past u) = .ok ((), s.past u) → Delivers s u sh .offset v t →
     spots (lqWant s.ir.x8.toNat p.bytes) v (laneList act) true false false t = .ok (ps, t1) → q.reserve + 1 ≤ q.head + q.depth →
     exec .lq s = .next (s.closed (send (reserve [row]) (ps.map (fun y => (y.2, y.1, .port key q.reserve y.1)))) u .lq sh)) ∧
    (let sh : Shape := { d := 0, a := 0, c := 0 }
     Executes s u sh → p.mode = .rline → checkPorts sh (s.past u) = .ok ((), s.past u) → Delivers s u sh .offset v t →
     spots (lqWant s.ir.x8.toNat 64) v (laneList act) true false false t = .ok (ps, t1) → q.reserve + 1 ≤ q.head + q.depth →
     exec .lqg s = .next (s.closed (send (reserve [row]) (ps.map (fun y => (y.2, y.1, .port key q.reserve y.1)))) u .lqg sh)) ∧
    (let sh : Shape := { d := 0, a := 0, c := 0 }
     let k := (laneList act).length
     Executes s u sh → p.mode = .sline → checkPorts sh (s.past u) = .ok ((), s.past u) → Delivers s u sh .offset v t →
     spots (lqWant s.ir.x8.toNat 64) v (laneList act) true false false t = .ok (ps, t1) → q.reserve + k ≤ q.head + q.depth →
     exec .lqg s = .next (s.closed (send (reserve (List.replicate k blank))
       (ps.zipIdx.map (fun y => (y.1.2, y.1.1, .line key (q.reserve + y.2))))) u .lqg sh)) ∧
    (let sh : Shape := { d := 0, a := 0 }
     let cnt := (heldVal (v.c (s.lead u))).bits.toNat
     let rows := if p.mode = .sline then cnt else cnt / 16
     let lines := (List.range cnt).filter (fun j => p.mode == .sline || act.getLsbD (j % 16))
     ∀ (l : Nat) (y : Spot), Executes s u sh → p.mode ≠ .elem → checkPorts sh (s.past u) = .ok ((), s.past u) →
     Delivers s u sh .offset v t → spots (lqWant s.ir.x8.toNat 64) v [s.lead u] false false false t = .ok ([(l, y)], t1) →
     1 ≤ cnt → cnt ≤ 64 → (p.mode = .rline → cnt % 16 = 0) → (∀ j ∈ lines, (y.shift (64 * j)).inSem = false) →
     q.reserve + rows ≤ q.head + q.depth →
     exec .lql s = .next (s.closed (send (reserve (List.replicate rows (if p.mode = .sline then blank else row)))
       (lines.map (fun j => (y.shift (64 * j), 255,
         if p.mode = .sline then Landing.line key (q.reserve + j) else .port key (q.reserve + j / 16) (j % 16))))) u .lql sh))

/-- SQ, SQS and REDQ take the row at the consumer's head: its active elements become stores or reductions in the unit's buffer, counted for
the threads that pushed them, and the row is popped; past the end of the stream they store nothing (R189, R199, R217, R220). A row with a
poisoned element that is to be stored takes POISON instead, as does a poisoned offset (R80). PFX makes its checks and brings its lines into
the caches (R218). That a past-end row still makes checks 1 and 2, and that a PFX lane asks for 64 bytes at a multiple of 64, are the model's
choices (DESIGN CHOICE, log entry 59). -/
def Obligations.QueueStoresComplete : Prop :=
  (∀ q ∈ [(Instr.sq, false), (.redq, true)], ∀ (s t t1 t2 t' : State) (tm sp n : Nat) (p : Port) (x : ApThread) (v : Opnds)
      (ps : List (Nat × Spot)) (as : List (Nat × Acc)),
    let i := q.1
    let red := q.2
    let u : Agent := .ap tm sp
    let sh : Shape := { d := 0, a := 0, c := 0 }
    let act := (apGuard x s.ir).bits
    let h := s.handleOf u s.ir.x8.toNat
    let size := if red then 2 ^ Hnd.ew h else p.bytes
    let es := rowElems ((List.range 16).map (p.slot p.apop))
    let live := es.filter (fun e => act.getLsbD e.1)
    let want : Want := { hidx := s.ir.x8.toNat, spaces := if red then [0, 1] else [0, 1, 4], kinds := if red then kFlat else kTile,
                         widths := if red then [2, 3] else [0, 1, 2, 3], size, align := size, need := if red then .both else .wr }
    let val := fun (l : Nat) => (live.find? (fun e => e.1 == l)).elim 0 (fun e => e.2.toNat % 2 ^ (8 * size))
    let data := fun (f : Lanes) => ({ v with a := f } : Opnds)
    Executes s u sh → s.aps.find (stripKey tm sp) = some x → objPort s.ir.a = n →
    s.ports.find (portKey (stripKey tm sp) n) = some p → p.kind = .store → p.gen = false →
    checkPorts sh (s.past u) = .ok ((), s.past u) → (red = true → 2 ≤ Hnd.ew h → p.bytes = size) → Delivers s u sh .offset v t →
    (p.past p.apop = true → spots want (data (fun _ => Val.zero)) (laneList act) true true false t = .ok (ps, t1) →
      exec i s = .next (s.closed t1 u i sh)) ∧
    (∀ l, p.past p.apop = false → s.rowReady tm sp p p.apop = true →
      (live.map (·.1)).find? (fun l => (rowData p l).poison || (v.b l).poison) = some l →
      exec i s = .next (s.takeTrap u { tinfo 0x11 (if (rowData p l).poison then 0 else 1) with lane := some l } (len0Of s.ir.form))) ∧
    (p.past p.apop = false → s.rowReady tm sp p p.apop = true →
      spots want (data (rowData p)) (live.map (·.1)) true true false t = .ok (ps, t1) → stage true Spot.aligned ps = .ok (ps.map (fun y => (y.1, ()))) →
      stage true Spot.bounded ps = .ok (ps.map (fun y => (y.1, ()))) →
      stage true (fun y => t1.addrOf (t1.ctxOf u) y want.need) ps = .ok as →
      as.forM (fun y => streamReq u t1.fresh y.2 (if red then .atomic s.ir.sel.toNat (8 * size) (BitVec.ofNat 64 (val y.1)) 0 false
        else .store (val y.1) false) y.1 [y.1]) t1 = .ok ((), t2) →
      popStore n ((es.map (·.1)).filter (fun l => !act.getLsbD l)) t2 = .ok ((), t') →
      exec i s = .next (s.closed t' u i sh))) ∧
  (∀ (s t t1 t2 t' : State) (tm sp n l : Nat) (p : Port) (v : Opnds) (y : Spot) (as : List Acc),
    let u : Agent := .ap tm sp
    let sh : Shape := { d := 0, a := 0, c := 0 }
    let w := p.bytes
    let line := p.mode == .sline
    let size := if line then 64 else w
    let es := rowElems ((List.range 16).map (p.slot p.apop))
    let pieces := sqsPieces p y
    let want : Want := { hidx := s.ir.x8.toNat, spaces := [0, 1, 4], kinds := kTile, size, align := size, need := .wr,
                         offAlign := if line then 64 else 1 }
    let found := spots want { v with a := fun _ => Val.zero } [s.lead u] false true false t = .ok ([(l, y)], t1)
    Executes s u sh → objPort s.ir.a = n → s.ports.find (portKey (stripKey tm sp) n) = some p → p.kind = .store → p.gen = false →
    checkPorts sh (s.past u) = .ok ((), s.past u) → Delivers s u sh .offset v t →
    (p.past p.apop = true → found → exec .sqs s = .next (s.closed t1 u .sqs sh)) ∧
    (p.past p.apop = false → s.rowReady tm sp p p.apop = true → (∃ j < 16, (rowData p j).poison = true) →
      exec .sqs s = .next (s.takeTrap u (tinfo 0x11 0) (len0Of s.ir.form))) ∧
    (p.past p.apop = false → s.rowReady tm sp p p.apop = true →
    (∀ j, j < 16 → (rowData p j).poison = false) → found →
    (∀ z ∈ pieces, z.2.1.inSem = false) →
    (if line then y.aligned = .ok () ∧ y.bounded = .ok () else ∀ z ∈ pieces, z.2.1.aligned = .ok () ∧ z.2.1.bounded = .ok ()) →
    pieces.map (fun z => t1.addrOf (t1.ctxOf u) z.2.1 .wr) = as.map .ok →
    (as.zip pieces).forM (fun z => streamReq u t1.fresh z.1 (.store z.2.2.2.1 false) z.2.1 z.2.2.2.2) t1 = .ok ((), t2) →
    popStore n [] t2 = .ok ((), t') → exec .sqs s = .next (s.closed t' u .sqs sh) ∧ (line = false → pieces.length = es.length))) ∧
  ∀ (s t t1 : State) (tm sp : Nat) (x : ApThread) (v : Opnds) (ps : List (Nat × Spot)),
    let u : Agent := .ap tm sp
    let sh : Shape := { d := 0, a := 0, c := 0 }
    Executes s u sh → s.aps.find (stripKey tm sp) = some x → Delivers s u sh .offset v t →
    spots { hidx := s.ir.x8.toNat, spaces := [0, 4], kinds := kTile, size := 64, align := 64, need := .rd } v
      (laneList (apGuard x s.ir).bits) true false false t = .ok (ps, t1) →
    exec .pfx s = .next (s.closed (ps.foldl (fun s p => s.prefetch u p.2) t1) u .pfx sh)

/-- LDSC, STSC and ATQ to a register send one request an active lane and wait for every answer; once all are there LDSC and ATQ write
them, and the thread goes on. ATQ to a port reserves a row instead and goes on at once (R219, R220). STSC and ATQ have their requests within
the limit of R400. That an old value of 32 bits is extended by the handle's sx is the model's choice (DESIGN CHOICE, log entry 59). -/
def Obligations.TagAndAtomicQueuesComplete : Prop :=
  (∀ q ∈ [(Instr.ldsc, Need.rd), (.stsc, .both)], ∀ (s t t1 : State) (tm sp : Nat) (x : ApThread) (v : Opnds)
      (rs : List (Nat × Acc)),
    let u : Agent := .ap tm sp
    let sh : Shape := if q.1 = .ldsc then { a := 0, c := 0 } else { d := 0, c := 0 }
    let kind := fun (l : Nat) => if q.1 = .ldsc then ReqKind.tagGet else .tagSet (BitVec.ofNat 4 (v.a l).bits.toNat)
    Executes s u sh → s.pcAt u < 2 ^ 64 → s.aps.find (stripKey tm sp) = some x → x.blk = none → Delivers s u sh .offset v t →
    accesses (tagWant s.ir.x8.toNat q.2) v (laneList (apGuard x s.ir).bits) true (q.1 = .stsc) false t = .ok (rs, t1) →
    t1.replyRoom u (if q.1 = .stsc then rs.length else 0) = true →
    exec q.1 s = .next (s.sendBlock tm sp q.1 (rs.map (fun y => (y.1, t1.reqOf u y.2 (kind y.1) (s.pcAt u) y.1 .none))))) ∧
  (∀ (s t t' : State) (tm sp : Nat) (x : ApThread) (b : Block) (v : Opnds),
    let u : Agent := .ap tm sp
    let r := t.modAp tm sp (fun x => { x with blk := none })
    let size := 2 ^ Hnd.ew (s.handleOf u s.ir.x8.toNat)
    let shGet : Shape := { a := 0, c := 0 }
    let shSet : Shape := { d := 0, c := 0 }
    let shAtq : Shape := { d := 0 }
    s.aps.find (stripKey tm sp) = some x → x.blk = some b → b.answered →
    (Executes s u shGet → Delivers s u shGet .offset v t → Writes r s.ir.d 1 b.values t' →
      exec .ldsc s = .next (s.closed t' u .ldsc shGet)) ∧
    (Executes s u shSet → Delivers s u shSet .offset v t → exec .stsc s = .next (s.closed r u .stsc shSet)) ∧
    (Executes s u shAtq → noPort s.ir.d = true → Delivers s u shAtq .offset v t →
      Writes r s.ir.d 1 (fun l => loaded (s.handleOf u s.ir.x8.toNat) true size 64 (b.values l)) t' →
      exec .atq s = .next (s.closed t' u .atq shAtq))) ∧
  (∀ (s t t1 : State) (tm sp : Nat) (x : ApThread) (v : Opnds) (rs : List (Nat × Acc)),
    let u : Agent := .ap tm sp
    let sh : Shape := { d := 0 }
    let size := 2 ^ Hnd.ew (s.handleOf u s.ir.x8.toNat)
    let cas := s.ir.sel.toNat == 9
    let v' : Opnds := { v with a := fun l => { v.a l with poison := (v.a l).poison || (cas && (v.c l).poison) } }
    Executes s u sh → s.pcAt u < 2 ^ 64 → s.aps.find (stripKey tm sp) = some x → x.blk = none → noPort s.ir.d = true →
    Delivers s u sh .offset v t →
    accesses { hidx := s.ir.x8.toNat, spaces := [0, 1], kinds := kFlat, widths := [2, 3], size, align := size, need := .both } v'
      (laneList (apGuard x s.ir).bits) true true false t = .ok (rs, t1) →
    t1.replyRoom u rs.length = true →
    exec .atq s = .next (s.sendBlock tm sp .atq (rs.map (fun y => (y.1, t1.reqOf u y.2
      (.atomic s.ir.sel.toNat (8 * size) (v.a y.1).bits (if cas then (v.c y.1).bits else 0) true) (s.pcAt u) y.1 .none))))) ∧
  ∀ (s t t1 : State) (tm sp n : Nat) (p q : Port) (x : ApThread) (v : Opnds) (ps : List (Nat × Spot)),
    let u : Agent := .ap tm sp
    let sh : Shape := { d := 0 }
    let key := portKey (stripKey tm sp) n
    let act := (apGuard x s.ir).bits
    let size := 2 ^ Hnd.ew (s.handleOf u s.ir.x8.toNat)
    let cas := s.ir.sel.toNat == 9
    let v' : Opnds := { v with a := fun l => { v.a l with poison := (v.a l).poison || (cas && (v.c l).poison) } }
    let row : List Slot := (List.range 16).map (fun l => if act.getLsbD l then .pending else .data 0 false)
    let q' : Port := { q with rows := q.rows ++ [row], reserve := q.reserve + 1 }
    let r := ({ t1 with ports := t1.ports.put key q' } : State).retireIdle tm sp key
    Executes s u sh → s.pcAt u < 2 ^ 64 → s.aps.find (stripKey tm sp) = some x → portOf s.ir.d = some n →
    checkPorts sh (s.past u) = .ok ((), s.past u) → s.ports.find key = some p → p.kind = .acc → p.mode = .elem → p.bytes = size →
    Delivers s u sh .offset v t →
    spots { hidx := s.ir.x8.toNat, spaces := [0, 1], kinds := kFlat, widths := [2, 3], size, align := size, need := .both } v'
      (laneList act) true true false t = .ok (ps, t1) →
    t1.ports.find key = some q → q.past q.reserve = false → q.reserve + 1 ≤ q.head + q.depth → r.replyRoom u ps.length = true →
    exec .atq s = .next (s.closed (r.injectAll (ps.map (fun y => portLoad r u (.unit u) (s.pcAt u)
      (r.finishSpot (r.ctxOf u) y.2 .both) y.2
      (.atomic s.ir.sel.toNat (8 * size) (v.a y.1).bits (if cas then (v.c y.1).bits else 0) true) y.1 (.port key q.reserve y.1))))
      u .atq sh)

/-- Strip operations: an access thread performs QBIND, QUNBIND, PAT, PATGO and QEOS at once; an execute thread records its arrival and
waits, and once every live thread of the strip has arrived STRIP_OPERATION performs the operation once, with the operands of the lowest
thread, and each of them goes on past its instruction (R206-R210, R213, R207). Where the operation is refused, the access thread, or that
lowest thread alone, takes the trap that its rule names. What the strip operations do: QBIND makes a port with every position 0 and takes its
entries and engine from the core; QUNBIND returns them and the port is gone; PAT sets a dimension; PATGO starts a run of the engine; QEOS
ends the producer's stream, on the execute side at the largest push position of its threads (R188). QBIND's refusals are PORTCFG with the
subcode of R206 and R221. That a poisoned binding, count or stride word reads zero is the model's reading (DEDUCED, log entry 19); that a
port named by an operand is popped by the lowest thread alone, that bits 63:32 of PATGO's origin are not read, and that push positions of
exited threads count are its choices (DESIGN CHOICE, log entry 57), and so is that the other threads wait on after a trap (DESIGN CHOICE,
log entry 59). -/
def Obligations.StripOperationsComplete : Prop :=
  (
  (∀ i ∈ [Instr.qbind, .qunbind, .pat, .patgo, .qeos],
    (∀ (s t : State) (tm sp : Nat) (v : Opnds),
      let u : Agent := .ap tm sp
      let a := v.a (s.lead u)
      let b := v.b (s.lead u)
      Executes s u (stripShape i) → Delivers s u (stripShape i) .int v t → t.stripTakes u tm sp i s.ir a b →
      exec i s = .next (s.closed (t.stripLeaves u tm sp i s.ir a b) u i (stripShape i))) ∧
    ∀ (s : State) (tm tid : Nat) (x : ExThread),
      let u : Agent := .ex tm tid
      let p := s.past u
      let st := s.strip tm (tid / 16)
      let st' : Strip := { st with op := some (s.pcAt u, st.op.elim 0 (·.2) ||| laneBit (tid % 16)) }
      Executes s u (stripShape i) → s.exs.find (exKey tm tid) = some x → s.pcAt u < 2 ^ 64 → x.ctl.deferred = [] →
      checkPorts (stripShape i) p = .ok ((), p) → (∀ b m, st.op = some (b, m) → b = s.pcAt u) →
      exec i s = .next (s.closed
        (({ p with strips := p.strips.put (stripKey tm (tid / 16)) st' } : State).stays tm tid i s.ir (s.pcAt u) .stripOp)
        u i (stripShape i))) ∧
  ∀ (s : State) (tm sp l0 : Nat) (rest : List Nat) (a : Nat) (arrived : BitVec 16) (st : Strip) (x : ExThread) (i : Insn)
      (v : Opnds) (t0 : State),
    let u : Agent := .ex tm (16 * sp + l0)
    sp < 128 → s.occ = .num (stripKey tm sp) → (List.range 16).filter (s.laneLive tm sp) = l0 :: rest →
    s.strips.find (stripKey tm sp) = some st → st.op = some (a, arrived) → (∀ l ∈ l0 :: rest, arrived.getLsbD l = true) →
    s.exs.find (exKey tm (16 * sp + l0)) = some x → x.arr = some i →
    fetch (stripShape i.op) .int { s with cur := some u, ir := i.args } = .ok (v, t0) →
    t0.stripTakes u tm sp i.op i.args (v.a 0) (v.b 0) →
    ∃ t, exec .stripOperation s = .next t ∧ t.ports = (t0.stripLeaves u tm sp i.op i.args (v.a 0) (v.b 0)).ports ∧
      (∀ st', t.strips.find (stripKey tm sp) = some st' → st'.op = none) ∧
      ∀ l ∈ l0 :: rest, ∀ (z : ExThread) (j : Insn), s.exs.find (exKey tm (16 * sp + l)) = some z → z.arr = some j →
        ∃ y, t.exs.find (exKey tm (16 * sp + l)) = some y ∧ y.arr = none ∧ y.ctl.status = .ready ∧
          y.ctl.pc = (z.ctl.pc + j.args.form.bytes) % 2 ^ 64) ∧
  -- refusals on both sides
  (∀ i ∈ [Instr.qbind, .qunbind, .pat, .patgo, .qeos],
    (∀ (s t : State) (tm sp : Nat) (v : Opnds) (info : TrapInfo),
      let u : Agent := .ap tm sp
      Executes s u (stripShape i) → Delivers s u (stripShape i) .int v t →
      t.stripFails u tm sp i s.ir (v.a (s.lead u)) (v.b (s.lead u)) info →
      exec i s = .next (s.takeTrap u info (len0Of s.ir.form))) ∧
    ∀ (s : State) (tm sp l0 : Nat) (rest : List Nat) (a : Nat) (arrived : BitVec 16) (st : Strip) (x : ExThread) (o : Ops)
        (v : Opnds) (t0 : State) (info : TrapInfo),
      let u : Agent := .ex tm (16 * sp + l0)
      let left := setBit16 arrived l0 false
      sp < 128 → s.occ = .num (stripKey tm sp) → (List.range 16).filter (s.laneLive tm sp) = l0 :: rest →
      s.strips.find (stripKey tm sp) = some st → st.op = some (a, arrived) → (∀ l ∈ l0 :: rest, arrived.getLsbD l = true) →
      s.exs.find (exKey tm (16 * sp + l0)) = some x → x.arr = some ⟨i, o⟩ →
      fetch (stripShape i) .int { s with cur := some u, ir := o } = .ok (v, t0) →
      t0.stripFails u tm sp i o (v.a 0) (v.b 0) info →
      exec .stripOperation s = .next ((s.takeTrap u info (len0Of o.form)).modStrip tm sp (fun x =>
        { x with op := if left = 0 then none else x.op.map (fun q => (q.1, left)) }))) ∧
  -- PAT on the access side, and its trap on the execute side (R209)
  (∀ (s t : State) (tm sp : Nat) (v : Opnds) (p : Port),
    let u : Agent := .ap tm sp
    let n := objPort s.ir.d
    let key := portKey (stripKey tm sp) n
    let k := s.ir.x8.toNat % 4
    let cnt := (heldVal (v.a (s.lead u))).bits.toNat
    let stride := sext (heldVal (v.b (s.lead u))).bits.toNat 32
    Executes s u (stripShape .pat) → Delivers s u (stripShape .pat) .int v t → t.ports.find key = some p →
    (∀ e, p.engine = some e → t.patBusy key p e = false → 1 ≤ cnt → cnt ≤ 2 ^ 24 → exec .pat s = .next (s.closed
      (t.modPort key (fun p => { p with engine := some { e with counts := e.counts.set k cnt, strides := e.strides.set k stride } }))
      u .pat (stripShape .pat))) ∧
    (p.engine = none ∨ (∃ e, p.engine = some e ∧ t.patBusy key p e = true) ∨ cnt < 1 ∨ 2 ^ 24 < cnt →
      exec .pat s = .next (s.takeTrap u (portTrap 9 n) (len0Of s.ir.form)))) ∧
  (∀ (s : State) (tm sp l0 : Nat) (rest : List Nat) (a : Nat) (arrived : BitVec 16) (st : Strip) (x : ExThread) (o : Ops)
      (v : Opnds) (t0 : State) (p : Port),
    let u : Agent := .ex tm (16 * sp + l0)
    let n := objPort o.d
    let key := portKey (stripKey tm sp) n
    let cnt := (heldVal (v.a 0)).bits.toNat
    let left := setBit16 arrived l0 false
    sp < 128 → s.occ = .num (stripKey tm sp) → (List.range 16).filter (s.laneLive tm sp) = l0 :: rest →
    s.strips.find (stripKey tm sp) = some st → st.op = some (a, arrived) → (∀ l ∈ l0 :: rest, arrived.getLsbD l = true) →
    s.exs.find (exKey tm (16 * sp + l0)) = some x → x.arr = some ⟨.pat, o⟩ →
    fetch (stripShape .pat) .int { s with cur := some u, ir := o } = .ok (v, t0) → t0.ports.find key = some p →
    p.engine = none ∨ (∃ e, p.engine = some e ∧ t0.patBusy key p e = true) ∨ cnt < 1 ∨ 2 ^ 24 < cnt →
    exec .stripOperation s = .next ((s.takeTrap u (portTrap 9 n) (len0Of o.form)).modStrip tm sp (fun x =>
      { x with op := if left = 0 then none else x.op.map (fun q => (q.1, left)) }))) ∧
  (
  (∀ (s t : State) (tm sp n : Nat) (b : Binding) (g : Team), s.teams.find tm = some g →
    let key := portKey (stripKey tm sp) n
    ((s.ports.find key).isSome = true → s.bind tm sp n b true = .error 4) ∧
    (s.ports.find key = none → b.ok = false → s.bind tm sp n b true = .error 8) ∧
    (s.ports.find key = none → b.ok = true → (g.qmem.getD (g.half sp) 0 < b.depth * b.port.perRow ∨
      g.peng.getD (g.half sp) 0 < (if b.port.engine.isSome then 1 else 0)) → s.bind tm sp n b true = .error 5) ∧
    (s.ports.find key = none → b.ok = true → b.depth * b.port.perRow ≤ g.qmem.getD (g.half sp) 0 →
      (if b.port.engine.isSome then 1 else 0) ≤ g.peng.getD (g.half sp) 0 → b.needsAccess = true →
      LRec.access (s.recordOf g) = false → s.bind tm sp n b true = .error 7) ∧
    (s.bind tm sp n b true = .ok t → t.ports.find key = some b.port ∧ b.port.pos = List.replicate 16 0 ∧ b.port.head = 0 ∧
      b.port.fin = none ∧ (∀ k, k ≠ key → t.ports.find k = s.ports.find k) ∧
      ∃ g', t.teams.find tm = some g' ∧ (∀ c, g'.qmem.getD c 0 =
        if c = g.half sp ∧ c < g.qmem.length then g.qmem.getD c 0 - b.depth * b.port.perRow else g.qmem.getD c 0))) ∧
  (∀ (s : State) (tm sp n : Nat) (p : Port) (g : Team), s.teams.find tm = some g → s.ports.wf = true →
    s.ports.find (portKey (stripKey tm sp) n) = some p →
    (s.unbind tm sp n).ports.find (portKey (stripKey tm sp) n) = none ∧
    ∃ g', (s.unbind tm sp n).teams.find tm = some g' ∧
      (g.half sp < g.qmem.length → g'.qmem.getD (g.half sp) 0 = g.qmem.getD (g.half sp) 0 + p.depth * p.perRow)))

/-- QSTAT reads a port's position, push position, end or poppable rows; QSKIP and QDRAIN complete once their discarding pops are made
(R211, R212); a count of 2^31 or more takes PORTCFG 0x08, and a poisoned count of QSKIP is zero pops (DEDUCED, log entry 19).
PATTERN_ENGINE_STEP of a pattern port reserves one row and sends its loads (R204); the stream ends, and the engine stops, when the last
step's row is delivered (R188). That of a store-stream takes its next row and sends its stores for the threads that pushed the elements,
each failure deferred to them, and stops the engine at the end (R199, R200). -/
def Obligations.PortStatusComplete : Prop :=
  (∀ (s t' : State) (u : Agent) (c : Ctl) (tm sp n pos push : Nat) (p : Port),
    let sh : Shape := { a := 0, b := 0, c := 0 }
    let sel := s.ir.x8.toNat % 4
    (∃ tid, u = .ex tm tid ∧ sp = tid / 16 ∧ pos = p.pos.getD (tid % 16) 0 ∧ push = pos) ∨
      (u = .ap tm sp ∧ pos = p.apop ∧ push = p.reserve) →
    Executes s u sh → s.ctl u = some c → c.deferred = [] → objPort s.ir.a = n →
    s.ports.find (portKey (stripKey tm sp) n) = some p →
    (sel = 0 ∨ sel = 3 → p.consumer (sideOf u) = true) → (sel = 1 → p.pushes (sideOf u) = true) →
    checkPorts { d := 1, a := 0, b := 0, c := 0 } (s.past u) = .ok ((), s.past u) →
    Writes (s.past u) s.ir.d 1 (fun _ => Val.of (BitVec.ofNat 64 ((if sel = 0 then pos else if sel = 1 then push
      else if sel = 2 then p.fin.getD (2 ^ 32 - 1) else (s.past u).avail tm sp p (p.rows.length + 1) pos) % 2 ^ 32))) t' →
    exec .qstat s = .next (s.closed t' u .qstat sh)) ∧
  (∀ (s t t' : State) (u : Agent) (c : Ctl) (k n : Nat) (p : Port) (v : Opnds),
    let sh : Shape := { d := 0, a := 0, b := 1, c := 0 }
    let cnt := (heldVal (v.b (t.lead u))).bits.toNat
    Executes s u sh → s.ctl u = some c → c.skip = none → myStrip s = .ok (k, s) → objPort s.ir.d = n →
    s.ports.find (portKey k n) = some p → p.consumer (sideOf u) = true → Delivers s u sh .int v t → cnt < 2 ^ 31 →
    skipMany n (p.rows.length + 2) (some cnt) t = .ok (none, t') →
    exec .qskip s = .next (s.closed (t'.modCtl u (fun c => { c with skip := none })) u .qskip sh)) ∧
  (∀ (s t : State) (u : Agent) (c : Ctl) (k n : Nat) (p : Port) (v : Opnds),
    let sh : Shape := { d := 0, a := 0, b := 1, c := 0 }
    Executes s u sh → s.ctl u = some c → c.skip = none → myStrip s = .ok (k, s) → objPort s.ir.d = n →
    s.ports.find (portKey k n) = some p → p.consumer (sideOf u) = true → Delivers s u sh .int v t →
    2 ^ 31 ≤ (heldVal (v.b (t.lead u))).bits.toNat →
    exec .qskip s = .next (s.takeTrap u (portTrap 8 n) (len0Of s.ir.form))) ∧
  (∀ (s t' : State) (u : Agent) (c : Ctl) (k n : Nat) (p : Port),
    let sh : Shape := { d := 0, a := 0, b := 0, c := 0 }
    Executes s u sh → s.ctl u = some c → c.skip = none → c.deferred = [] → myStrip s = .ok (k, s) → objPort s.ir.d = n →
    s.ports.find (portKey k n) = some p → p.consumer (sideOf u) = true →
    skipMany n (p.rows.length + 2) none (s.past u) = .ok (none, t') →
    exec .qdrain s = .next (s.closed (t'.modCtl u (fun c => { c with skip := none })) u .qdrain sh)) ∧
  (∀ (p : Port) (e : PatEngine), p.engine = some e → p.kind = .pat → e.running = true → e.step = e.total →
    (p.ended = if (List.range 16).all (fun l => (p.slot (e.base + e.total - 1) l).delivered)
      then { p with fin := some (e.base + e.total), engine := some { e with running := false } } else p)) ∧
  (∀ (s : State) (tm sp n : Nat) (p : Port) (e : PatEngine) (g : Team),
    let key := portKey (stripKey tm sp) n
    let u : Agent := .ap tm sp
    let h := s.handleOf u e.handle
    let xs := storePieces p e h
    let spot := fun (x : Int × Nat × Nat × List Nat) => s.patAcc (s.ctxOf u) (patSpot e.handle h x.1 x.2.1 1) .wr
    let whole := p.mode = .elem ∨ (s.patAcc (s.ctxOf u) (patSpot e.handle h e.offset 64 64) .wr).isOk = true
    sp < 128 → n < 16 → s.occ = .num key → s.ports.find key = some p → p.engine = some e → e.running = true → p.kind = .store →
    s.teams.find tm = some g → g.placed = true → s.running g.ctx = true →
    (p.past p.apop = true → ∃ t, exec .patternEngineStep s = .next t ∧
      t.ports.find key = some { p with engine := some { e with running := false } } ∧ { t with ports := s.ports } = s) ∧
    (p.past p.apop = false → s.rowReady tm sp p p.apop = true → (∀ q ∈ s.reqs, q.2.patStoring key = true → q.2.isParked = false) →
      s.replyRoom u xs.length = true →
      ∃ t q, exec .patternEngineStep s = .next t ∧ t.ports.find key = some q ∧ q.apop = p.apop + 1 ∧ q.reserve = p.reserve ∧
        q.engine = some { e with step := e.step + 1, running := !p.past (p.apop + 1) } ∧ t.mem = s.mem ∧ t.fresh = s.fresh + xs.length ∧
        ∀ j x, xs[j]? = some x → ∃ r, t.reqs.find (s.fresh + j) = some r ∧ r.owner = .pat key ∧ r.kind = .store x.2.2.1 false ∧
          r.issue = s.fresh ∧ r.pusher = x.2.2.2.map (fun l => (tm, 16 * sp + l)) ∧
          (whole → x.2.2.2.any (fun l => (rowData p l).poison) = false → ∀ a, spot x = .ok a →
            r.loc = a.loc ∧ r.ia = a.addr ∧ r.size = a.size ∧ r.phase = .sent) ∧
          (whole → x.2.2.2.any (fun l => (rowData p l).poison) = false → ∀ f, spot x = .error f → ∃ f', r.phase = .failed f'))) ∧
  ∀ (s : State) (tm sp n : Nat) (p : Port) (e : PatEngine) (g : Team),
    let key := portKey (stripKey tm sp) n
    sp < 128 → n < 16 → s.occ = .num key → s.ports.find key = some p → p.engine = some e → e.running = true → p.kind = .pat →
    e.step < e.total → p.reserve = p.head + p.rows.length → p.reserve = e.base + e.step →
    s.teams.find tm = some g → g.placed = true → s.running g.ctx = true → p.reserve < p.head + p.depth →
    (List.range 16).any (s.laneLive tm sp) = true →
    ∃ t q, exec .patternEngineStep s = .next t ∧ t.ports.find key = some q ∧ q.reserve = p.reserve + 1 ∧
      q.rows = p.rows ++ [List.replicate 16 .pending] ∧ q.fin = p.fin ∧ q.engine = some { e with step := e.step + 1 } ∧
      t.mem = s.mem ∧ t.fresh = s.fresh + (if p.mode = .sline then 1 else 16)

/-! ### Fences, barriers, semaphores -/

/-- FENCE completes once the accesses its mask names are over and no deferred fault is due: its acquire renews the core's L1, nothing else
changes (R235). An acquire built into an instruction waits until the loads that its unit has in flight have their values (R233, R235).
WAITW completes when the loaded word stands in the comparison to the operand: it acquires and d receives the word (R311). SEMS, SEMI and
SEMWK set, add to and read a semaphore of the unit's context; SEMWK completes when the value has been reached (R326, R327). -/
def Obligations.WaitsFencesAndSemaphoresComplete : Prop :=
  (∀ (s t t1 t2 t3 t' : State) (u : Agent) (v : Opnds) (l : Nat) (a : Acc) (x : Val),
    let h := s.handleOf u s.ir.x8.toNat
    let w := ewFields h
    let sh : Shape := { d := w, a := w, c := 0 }
    let size := 2 ^ Hnd.ew h
    let imm := s.ir.c.immVal
    Executes s u sh → s.pcAt u < 2 ^ 64 → checkPairs h [s.ir.d, s.ir.a] (s.past u) = .ok ((), s.past u) →
    Delivers s u sh .offset v t → (v.a (t.lead u)).poison = false →
    accesses { hidx := s.ir.x8.toNat, spaces := [0, 1, 4], kinds := [0, 1], widths := [2, 3], size, align := size, need := .rd,
               sem := Hnd.ew h == 3 } v [t.lead u] false false false t = .ok ([(l, a)], t1) →
    (if a.space = 0 ∧ semBase ≤ a.loc then x = Val.of (t1.sem (t1.ctxOf u) ((a.loc - semBase) / 8)) ∧ t2 = t1
     else doNow (t1.reqOf u a .load (s.pcAt u) 255 .none) t1 = .ok (x, t2)) →
    x.poison = false →
    waitCmp (imm / 8 % 8) (8 * size) (x.bits.toNat % 2 ^ (8 * size)) ((v.a (t.lead u)).bits.toNat % 2 ^ (8 * size)) = true →
    acquire (imm % 8) t2 = .ok ((), t3) → Writes t3 s.ir.d w (fun _ => x) t' →
    exec .waitw s = .next (s.closed t' u .waitw sh)) ∧
  (∀ (s t : State) (u : Agent) (c : Ctl),
    let sem := s.ir.a.immVal % 4
    let m := s.ir.c.immVal
    Executes s u noShape → s.ctl u = some c → (s.past u).fenced u m sem = true →
    (∀ d ∈ c.deferred, fenceTakes m sem d = false) →
    (if sem = 2 then t = s.past u else renewL1 (s.ir.x8.toNat % 8) (s.past u) = .ok ((), t)) →
    exec .fence s = .next (s.closed t u .fence noShape)) ∧
  (∀ q ∈ [(Instr.sems, fun (_ v : W64) => v), (.semi, fun x v => x + v)], ∀ (s t t1 : State) (u : Agent) (v : Opnds) (n : Nat),
    let sh : Shape := { d := 0, a := 2, c := 0 }
    Executes s u sh → Delivers s u sh .int v t → semIndex v true t = .ok (n, t1) → release t1 = .ok ((), t1) →
    exec q.1 s = .next (s.closed (t1.setSem (t1.ctxOf u) n (q.2 (t1.sem (t1.ctxOf u) n) (v.a (t1.lead u)).bits)) u q.1 sh)) ∧
  (∀ (s t t1 t2 t' : State) (u : Agent) (v : Opnds) (n : Nat),
    let sh : Shape := { d := 2, a := 2, c := 0 }
    let x := v.a (t.lead u)
    let y := t1.sem (t1.ctxOf u) n
    Executes s u sh → Delivers s u sh .int v t → semIndex v false t = .ok (n, t1) → x.poison = false → x.bits.toNat ≤ y.toNat →
    acquire (s.ir.c.immVal % 8) t1 = .ok ((), t2) → Writes t2 s.ir.d 2 (fun _ => Val.of y) t' →
    exec .semwk s = .next (s.closed t' u .semwk sh)) ∧
  (∀ (s t : State) (u : Agent) (scope : Nat), s.cur = some u →
    (acquire scope s = .ok ((), t) → ∀ q ∈ s.reqs, q.2.owner = .unit u → q.2.open = true → q.2.loads = false) ∧
    ((∀ q ∈ s.reqs, q.2.owner = .unit u → q.2.open = true → q.2.loads = false) → acquire scope s = renewL1 scope s)) ∧
  (∀ (s : State) (ctx i j : Nat) (v : W64),
    (s.setSem ctx i v).sem ctx j = if j = i then v else s.sem ctx j) ∧
  ∀ (s : State) (u : Agent) (c : Ctl) (i since : Nat) (v : W64), unitOk u → s.occ = .unit u → s.ctl u = some c →
    c.status = .waiting (.sem i v) since →
    (v.toNat ≤ (s.sem (s.ctxOf u) i).toNat → ∃ t, exec .semaphoreWaitSatisfied s = .next t ∧
      t.ctl u = some { c with status := .ready, readySince := s.now } ∧ ∀ w, unitOk w → w ≠ u → t.ctl w = s.ctl w) ∧
    ((s.sem (s.ctxOf u) i).toNat < v.toNat → exec .semaphoreWaitSatisfied s = .next s)

/-- BAR, CBAR and GBAR: an execute thread arrives; BAR .arr goes on, the others wait at the instruction until the phase, the cohort's or
the grid's barrier completes, which is once every live thread has arrived, or for a phase with a count once so many arrivals were made;
then all that wait go on past it (R344, R345). A poisoned barrier number or count acts as zero (DEDUCED, log entry 19). -/
def Obligations.BarriersComplete : Prop :=
  (∀ q ∈ [(Instr.barWait, true), (.barArr, false)], ∀ (s t : State) (tm tid : Nat) (v : Opnds) (g : Team),
    let u : Agent := .ex tm tid
    let sh : Shape := { d := 0, c := 0 }
    let n := (v.b 0).bits.toNat % 16
    let b := (g.barriers.find n).getD { count := (v.a 0).bits.toNat % 2 ^ 32 }
    let b' : Barrier := { b with arrived := b.arrived.add tid, total := b.total + 1,
                                 waiters := if q.2 then b.waiters.add tid else b.waiters }
    let r := t.modTeam tm (fun x => { x with barriers := x.barriers.put n b' })
    Executes s u sh → s.pcAt u < 2 ^ 64 → Delivers s u sh .int v t → release t = .ok ((), t) → t.teams.find tm = some g →
    (∀ x, g.barriers.find n = some x → t.phaseDone tm x = false) →
    exec q.1 s = .next (s.closed (if q.2 then r.stays tm tid q.1 s.ir (s.pcAt u) (.barrier n) else r) u q.1 sh)) ∧
  (∀ (s : State) (tm tid : Nat),
    let u : Agent := .ex tm tid
    Executes s u noShape → s.pcAt u < 2 ^ 64 → release (s.past u) = .ok ((), s.past u) →
    exec .cbar s = .next (s.closed (((s.past u).modTeam tm (fun t => { t with cbarrier := t.cbarrier.add tid })).stays
      tm tid .cbar s.ir (s.pcAt u) .cbar) u .cbar noShape) ∧
    exec .gbar s = .next (s.closed (((s.past u).modTeam tm (fun t => { t with gbarrier := t.gbarrier.add tid })).stays
      tm tid .gbar s.ir (s.pcAt u) .gbar) u .gbar noShape)) ∧
  (∀ (s : State) (tm n : Nat) (g : Team) (b : Barrier), s.occ = .num2 tm n → s.teams.find tm = some g →
    g.barriers.find n = some b → b.total ≠ 0 →
    (s.phaseDone tm b = true → exec .barrierPhaseComplete s = .next (b.waiters.foldl (fun s i => s.finishEx tm i)
      (s.modTeam tm (fun t => { t with barriers := t.barriers.del n })))) ∧
    (s.phaseDone tm b = false → exec .barrierPhaseComplete s = .next s)) ∧
  (∀ (s : State) (tm tid : Nat) (x : ExThread) (i : Insn), s.exs.find (exKey tm tid) = some x → x.arr = some i →
    (s.finishEx tm tid).exs.find (exKey tm tid) = some { x with arr := none, ctl := { x.ctl with
      pc := (x.ctl.pc + i.args.form.bytes) % 2 ^ 64, status := .ready, readySince := s.now, solo := none } }) ∧
  (∀ (s : State) (gid c : Nat),
    let ts := s.teams.filter (fun t => t.2.gid == gid && t.2.cohort == c)
    s.occ = .num2 gid c → (∃ t ∈ ts, t.2.cbarrier ≠ []) → (∀ t ∈ ts, s.allArrived t.1 t.2 t.2.cbarrier = true) →
    exec .cohortBarrierRelease s = .next (ts.foldl (fun s t => t.2.cbarrier.foldl (fun s i => s.finishEx t.1 i)
      (s.modTeam t.1 (fun t => { t with cbarrier := [] }))) s)) ∧
  ∀ (s : State) (gid : Nat) (g : Grid),
    let ts := s.teams.filter (fun t => t.2.gid == gid)
    s.occ = .num gid → s.grids.find gid = some g → g.admitted = g.count → (∃ t ∈ ts, t.2.gbarrier ≠ []) →
    (∀ t ∈ ts, s.allArrived t.1 t.2 t.2.gbarrier = true) →
    exec .gridBarrierRelease s = .next (ts.foldl (fun s t => t.2.gbarrier.foldl (fun s i => s.finishEx t.1 i)
      (s.modTeam t.1 (fun t => { t with gbarrier := [] }))) s)

/-! ### Asynchronous operations -/

/-- ARRW and AWAIT act on an arrival word of the team's window: .init, .add and .tgt give the generation before their update, and AWAIT
completes once the generation is past its operand, giving the word's last 32 bits (R243-R245). An addition counts bytes, and at the
target takes the target off, steps the generation and notes an overrun; a fault's code is kept from the first. A poisoned operand of AWAIT
reads zero and poisons the flags it gives (DEDUCED, log entry 19). ALIGN is judged on the location (DESIGN CHOICE, log entry 59). -/
def Obligations.ArrivalWordsComplete : Prop :=
  (∀ q ∈ [(Instr.arrwInit, false, Arr.init), (.arrwAdd, true, fun w v => Arr.add w v 0), (.arrwTgt, false, Arr.retarget)],
    ∀ (s t t1 t2 t' : State) (u : Agent) (v : Opnds) (a : Acc) (x : Nat) (po : Bool),
    Executes s u shDAB → s.pcAt u < 2 ^ 64 → Delivers s u shDAB .offset v t →
    oneAccess (arrWant s.ir.x8.toNat .both) v true t = .ok (a, t1) → (q.2.1 = true → release t1 = .ok ((), t1)) →
    doOwnN (t1.reqOf u a (.atomic 15 128 0 0 true) (s.pcAt u) 255 .none) t1 = .ok ((x, po), t2) →
    Writes (t2.updateArr a.addr (fun w => q.2.2 w ((v.a (t.lead u)).bits.toNat % 2 ^ 32))) s.ir.d 1
      (fun _ => ⟨BitVec.ofNat 64 (x / 2 ^ 64 % 2 ^ 32), po⟩) t' →
    exec q.1 s = .next (s.closed t' u q.1 shDAB)) ∧
  (∀ (s t t1 t2 t3 t' : State) (u : Agent) (v : Opnds) (a : Acc) (x : Nat) (po : Bool),
    let g := BitVec.ofNat 32 (v.a (t.lead u)).bits.toNat
    Executes s u shDAB → s.pcAt u < 2 ^ 64 → Delivers s u shDAB .offset v t →
    oneAccess (arrWant s.ir.x8.toNat .rd) v false t = .ok (a, t1) →
    doOwnN (t1.reqOf u a .load (s.pcAt u) 255 .none) t1 = .ok ((x, po), t2) →
    0 ≤ (BitVec.ofNat 32 (x / 2 ^ 64) - g).toInt → acquire (s.ir.c.immVal % 8) t2 = .ok ((), t3) →
    Writes t3 s.ir.d 1 (fun _ => heldVal ⟨BitVec.ofNat 64 (x / 2 ^ 96 % 2 ^ 32), po || (v.a (t.lead u)).poison⟩) t' →
    exec .await s = .next (s.closed t' u .await shDAB)) ∧
  ∀ (target count gen code v fault : Nat) (err past : Bool), target < 2 ^ 32 → count < 2 ^ 32 → gen < 2 ^ 32 → code < 256 →
    fault < 256 →
    let w := Arr.add (Arr.mk target count gen err past code) v fault
    let c := count + v
    Arr.target w = target ∧ Arr.err w = (err || fault != 0) ∧ Arr.code w = (if fault ≠ 0 ∧ err = false then fault else code) ∧
    (target ≠ 0 → target ≤ c → Arr.count w = min (c - target) (2 ^ 32 - 1) ∧ Arr.gen w = (gen + 1) % 2 ^ 32 ∧
      Arr.past w = (past || decide (target < c))) ∧
    (target = 0 ∨ c < target → Arr.count w = min c (2 ^ 32 - 1) ∧ Arr.gen w = gen ∧ Arr.past w = past)

/-- COPY reads its record, waits for its unit's earlier accesses, and enters an operation that has failed already where R239 or R240 says
so; each element is performed once, and once all are, or one failed, COPY_COMPLETE writes the status of R241. CSTAT reads the copies in
progress; WDQ asks the Sieve for a tile and WDQ_ANSWER gives the next one, then the end token once, then 0x8A (R242, R347). The model's
readings: one element an event (DEDUCED, log entries 23 and 26), ERR added to the arrival word of a malformed record (DEDUCED, log entry
23), a poisoned operand of CSTAT reads zero and poisons the count (DEDUCED, log entry 19). Its choices: the kinds of a record's handle, the
status of a place outside the grid, of an arrival word that fails its checks and of a queue engine's handle of space 1, 2 or 3, and which
poisoned line is reported (DESIGN CHOICE, log entry 59). -/
def Obligations.CopiesAndWorkRequestsComplete : Prop :=
  (∀ (s t t1 t2 t3 : State) (u : Agent) (v : Opnds) (a : Acc) (x : Nat) (l : Landing),
    let c := s.ir.c.immVal
    let q := decide (sideOf u = .queue)
    let r := BitVec.ofNat 1024 x
    let sh := t2.handleOf u (CRec.sh r)
    let dh := t2.handleOf u (CRec.dh r)
    let ah := t2.handleOf u (CRec.ah r)
    let bad := CRec.malformed r sh dh ah
    let key := t2.arrKey u r ah
    let code := if bad then 0x80 else if t2.copyHandle u sh true ≠ 0 then t2.copyHandle u sh true
      else if t2.copyHandle u dh false ≠ 0 then t2.copyHandle u dh false
      else if CRec.named r then (match key with | .error e => e.code.toNat | .ok _ => 0) else 0
    let op : Copy :=
      { owner := u, ctx := t2.ctxOf u, gid := (t3.teamOf u).map (·.gid), core := (t2.coreOf u).getD 0, scope := c % 8,
        ord := bit c 3, record := r, src := sh, dst := dh,
        arr := if CRec.named r then (match key with | .ok _ => some ah | .error _ => none) else none, landing := l,
        done := [], total := CRec.total r, added := 0, pline := none, seed := false,
        fail := if code = 0 then none else some (code, 0) }
    Executes s u shDB → s.pcAt u < 2 ^ 64 → Delivers s u shDB .offset v t →
    oneAccess { hidx := s.ir.x8.toNat, spaces := if q then [0] else [1], kinds := kFlat, size := 128, align := 128, need := .rd,
                offAlign := 128 } v false t = .ok (a, t1) →
    doNowN (t1.reqOf u a .load (s.pcAt u) 255 .none) t1 = .ok ((x, false), t2) → release t2 = .ok ((), t2) →
    (t2.copiesOf u).length < (if q then 256 else 64) →
    (if bit c 4 then l = .none ∧ t3 = t2 else landD t2 = .ok (l, t3)) →
    exec .copy s = .next (s.closed { t3 with fresh := t3.fresh + 1, copies := t3.copies.put t3.fresh op } u .copy shDB)) ∧
  (∀ (s t t1 t' : State) (u : Agent) (v : Opnds),
    let n := (t.copiesOf u).length
    Executes s u shDA → Delivers s u shDA .offset v t → n ≤ (v.a (t.lead u)).bits.toNat % 2 ^ 32 →
    acquire (s.ir.c.immVal % 8) t = .ok ((), t1) →
    Writes t1 s.ir.d 1 (fun _ => heldVal ⟨BitVec.ofNat 64 n, (v.a (t.lead u)).poison⟩) t' →
    exec .cstat s = .next (s.closed t' u .cstat shDA)) ∧
  (∀ (s s1 s2 : State) (n i v w : Nat) (po pd : Bool) (c : Copy) (sa da : Acc),
    let e := CRec.elem c.record
    let s3 := if da.space = 6 then s2.modCore da.core (fun x => { x with bcsOwner := some c.ctx }) else s2
    let r : State := { s3 with copies := s3.copies.alter n (fun c =>
      { c with done := addElem c.done i, pline := if po && c.pline.isNone then some (i * e / 64) else c.pline }) }
    s.occ = .num2 n i → s.copies.find n = some c → s.running c.ctx = true → c.fail = none → i < c.total →
    performed c.done i = false →
    s.elemAcc c.owner c.ctx (CRec.sh c.record) c.src (c.offsets i).1 (CRec.splace c.record) e .rd = .ok sa →
    s.elemAcc c.owner c.ctx (CRec.dh c.record) (Hnd.shadow c.dst) (c.offsets i).2 (CRec.dplace c.record) e .wr = .ok da →
    s.engineAway c.owner sa = false → s.engineAway c.owner da = false → (da.space = 6 → s.bcsFree da.core c.ctx = true) →
    (s.sentTo n da = some (v, po) ∧ s1 = s ∨ s.sentTo n da = none ∧ s.engAccess (s.engReq n c.owner sa .load) = .ok v po s1) →
    s1.engAccess (s.engReq n c.owner da (.store v po)) = .ok w pd s2 →
    exec .copyProgress s = .next (if c.ord then r
      else r.addArrival n { c with done := addElem c.done i } (countDone (addElem c.done i) * e) 0)) ∧
  (∀ (s : State) (n : Nat) (c : Copy),
    let q := match c.fail with
      | some f => f
      | none => (match c.pline with | some l => (0x11, l) | none => (0, 0))
    let r := s.addArrival n c (c.total * CRec.elem c.record) (match c.fail with | some f => f.1 | none => 0)
    s.occ = .num n → s.copies.find n = some c → s.running c.ctx = true → s.ordReady n c = true → c.seed = false →
    (c.fail.isSome = true ∨ countDone c.done = c.total) →
    let e : State := { r with copies := r.copies.del n, reqs := r.reqs.filter (fun y => y.2.owner != Owner.eng n) }
    exec .copyComplete s = .next (e.landWord c.landing (statusWord q.1 q.2 0) false)) ∧
  (∀ (l : List (Nat × Nat)) (i j : Nat), l.Pairwise (fun p q => p.2 < q.1) → (∀ p ∈ l, p.1 < p.2) → performed l i = false →
    (performed (addElem l i) j = true ↔ j = i ∨ performed l j = true) ∧ countDone (addElem l i) = countDone l + 1) ∧
  (∀ (s t t1 t2 : State) (u : Agent) (v : Opnds) (a : Acc) (l : Landing),
    Executes s u shDB → Delivers s u shDB .offset v t →
    oneAccess { hidx := s.ir.x8.toNat, spaces := [1], kinds := [0], size := 8, align := 8, need := .wr, offAlign := 8 } v false t =
      .ok (a, t1) →
    (t1.wdqs.filter (fun q => q.2.owner == u)).length < 4 → t1.replyRoom u 1 = true → landD t1 = .ok (l, t2) →
    let op : WdqOp :=
      { owner := u, ctx := t1.ctxOf u, gid := ((t2.teamOf u).map (·.gid)).getD 0, core := a.core, addr := a.loc, landing := l }
    exec .wdq s = .next (s.closed { t2 with fresh := t2.fresh + 1, wdqs := t2.wdqs.put t2.fresh op } u .wdq shDB)) ∧
  ∀ (s : State) (n : Nat) (q : WdqOp) (g : Grid) (c : Ctl),
    let tiles := LRec.tx g.record * LRec.ty g.record
    let i := g.sieve.getD tiles
    let r : State := { s with wdqs := s.wdqs.del n }
    let key := r.windowKey q.owner q.addr
    s.occ = .num n → s.wdqs.find n = some q → s.running q.ctx = true → (∀ x ∈ s.wdqs, x.2.owner = q.owner → n ≤ x.1) →
    s.grids.find q.gid = some g → s.ctl q.owner = some c →
    (i < tiles → exec .wdqAnswer s = .next ((({ r with grids := s.grids.put q.gid { g with sieve := some (i + 1) } } : State).writeStore
      key 8 (BitVec.ofNat 64 (tileWord g.record i)).toNat false).landWord q.landing (statusWord 0 0 0) false)) ∧
    (tiles ≤ i → c.wdqEnd = true → exec .wdqAnswer s = .next (r.landWord q.landing (statusWord 0x8A 0 0) false)) ∧
    (tiles ≤ i → c.wdqEnd = false → exec .wdqAnswer s = .next (((r.modCtl q.owner (fun c => { c with wdqEnd := true })).writeStore
      key 8 (2 ^ 64 - 1) false).landWord q.landing (statusWord 0 0 0) false))

/-! ### Publish, messages, network reductions -/

/-- SHDW and PUBL enter an operation once their unit's earlier accesses are over; SHDW_COMPLETE opens the pair, with 0x81, 0x83 and 0x84
where R247 turns it away, and fills it first where .seed asks so; PUBL_EXCHANGE of an open pair of the context's own memory, named in space
0 or 5, exchanges the frames of its pages, invalidates what caches hold of both windows, closes the pair and answers 0, with 0x82 for a pair
that is not open and 0x24 for a handle of any other space (R246-R249, R140). A pair in another device's memory is opened and published by
the device that owns it, and a PUBL of peer memory at scope 4 answers 0x24 (R248, R255). The model's own: windows that overlap answer 0x84,
after 0x81 (DESIGN CHOICE, log entry 26), a pair belongs to its opener's context (DESIGN CHOICE, log entry 59), and an opener of another
device is named by 256 plus its number (DEDUCED, log entry 26). -/
def Obligations.PublishComplete : Prop :=
  (∀ q ∈ [(Instr.shdw, false), (.publ, true)], ∀ (s t t1 : State) (u : Agent) (v : Opnds) (l : Landing),
    let h := t.handleOf u s.ir.x8.toNat
    let c := s.ir.c.immVal
    let op : PubOp :=
      { owner := u, ctx := t1.ctxOf u, gid := (t1.teamOf u).map (·.gid), core := (t1.coreOf u).getD 0, handle := h, publ := q.2,
        scope := c % 8, seed := !q.2 && bit c 3, fill := none, landing := l }
    Executes s u shDOnly → Delivers s u shDOnly .offset v t →
    (Hnd.space h ≠ 7 → release t = .ok ((), t) → t.replyRoom u 1 = true → landD t = .ok (l, t1) →
      exec q.1 s = .next (s.closed { t1 with fresh := t1.fresh + 1, pubs := t1.pubs.put t1.fresh op } u q.1 shDOnly)) ∧
    (Hnd.space h = 7 → exec q.1 s = .next (s.takeTrap u (accTrap 0x24 1 s.ir.x8.toNat 0) (len0Of s.ir.form)))) ∧
  (∀ (s : State) (n : Nat) (op : PubOp) (x : PairAt) (p : Partition),
    let opened := s.modPart x.part (fun p => { p with pairs := p.pairs ++ [⟨op.ctx, x.target, x.shadow⟩] })
    let op' : PubOp := { op with fill := some s.fresh }
    let filling : State := { opened with copies := s.copies.put s.fresh op.fillCopy, fresh := s.fresh + 1, pubs := s.pubs.put n op' }
    s.occ = .num n → s.pubs.find n = some op → op.publ = false → s.running op.ctx = true → op.fill = none →
    s.pairAt op.ctx op.handle = .ok x → s.parts.find x.part = some p →
    (p.pairs.any (x.is op.ctx) = true → exec .shdwComplete s = .next (s.endPub n op 0x81 0)) ∧
    (p.pairs.any (x.is op.ctx) = false → rangesMeet x.target x.shadow = false → p.pairs.any x.meets = true →
      exec .shdwComplete s = .next (s.endPub n op 0x83 0)) ∧
    (p.pairs.any (x.is op.ctx) = false → rangesMeet x.target x.shadow = true → exec .shdwComplete s = .next (s.endPub n op 0x84 0)) ∧
    (rangesMeet x.target x.shadow = false → p.pairs.any x.meets = false → p.pairs.any (x.is op.ctx) = false → p.pairs.length < 64 →
      (op.seed = false → exec .shdwComplete s = .next (opened.endPub n op 0 0)) ∧
      (op.seed = true → exec .shdwComplete s = .next filling))) ∧
  (∀ (s : State) (n code : Nat) (op : PubOp), s.occ = .num n → s.pubs.find n = some op → op.publ = false → s.running op.ctx = true →
    op.fill = none → s.pairAt op.ctx op.handle = .fail code → exec .shdwComplete s = .next (s.endPub n op code 0)) ∧
  (∀ (s : State) (n f : Nat) (op : PubOp) (c : Copy), s.occ = .num n → s.pubs.find n = some op → op.publ = false →
    s.running op.ctx = true → op.fill = some f → s.copies.find f = some c → c.fail = none → countDone c.done = c.total →
    let r : State := { s with copies := s.copies.del f, reqs := s.reqs.filter (fun r => r.2.owner != Owner.eng f) }
    exec .shdwComplete s = .next (r.endPub n op (if c.pline.isSome then 0x11 else 0) (c.pline.getD 0))) ∧
  (∀ (s : State) (n : Nat) (op : PubOp) (x : PairAt) (p : Partition) (pages : List (Nat × Nat × Nat)),
    let swapped := pages.foldl (fun s q => s.exchange p q.1 q.2.1) (s.invalRanges x.part (x.target ++ x.shadow))
    s.occ = .num n → s.pubs.find n = some op → op.publ = true → s.running op.ctx = true →
    (Hnd.space op.handle = 5 → op.scope ≠ 4) → s.pairAt op.ctx op.handle = .ok x → s.parts.find x.part = some p →
    (p.pairs.any (x.is op.ctx) = false → exec .publExchange s = .next (s.endPub n op 0x82 0)) ∧
    (p.pairs.any (x.is op.ctx) = true → s.pairPages p x (Hnd.limit op.handle) 0 (Hnd.limit op.handle / 2 ^ 16) = .ok pages →
      exec .publExchange s = .next (((swapped.modPart x.part (fun p =>
        { p with pairs := p.pairs.filter (fun o => !x.is op.ctx o) })).dropPair op.ctx op.handle).endPub n op 0 0)) ∧
    (∀ code, code ≠ 0 → p.pairs.any (x.is op.ctx) = true →
      s.pairPages p x (Hnd.limit op.handle) 0 (Hnd.limit op.handle / 2 ^ 16) = .fail code →
      exec .publExchange s = .next (s.endPub n op code 0))) ∧
  (∀ (s : State) (n code : Nat) (op : PubOp), s.occ = .num n → s.pubs.find n = some op → op.publ = true → s.running op.ctx = true →
    (Hnd.space op.handle = 5 → op.scope ≠ 4) → s.pairAt op.ctx op.handle = .fail code → code ≠ 0 →
    exec .publExchange s = .next (s.endPub n op code 0)) ∧
  (∀ (s : State) (c : Nat) (h : Handle), Hnd.space h ≠ 0 → Hnd.space h ≠ 5 → s.pairAt c h = .fail 0x24) ∧
  (∀ (s : State) (c : Nat) (h : Handle), Hnd.space h ≠ 5 → s.dropPair c h = s) ∧
  (∀ (s : State) (n dev : Nat) (op : PubOp) (tw sw : List (Nat × Nat)), s.occ = .num n → s.pubs.find n = some op →
    (op.publ = true → Hnd.space op.handle = 5 → op.scope = 4 → exec .publExchange s = .next (s.endPub n op 0x24 0)) ∧
    (s.pairAt op.ctx op.handle = .away dev tw sw →
      (∀ code r, op.publ = false → op.fill = none → s.askOwner n op dev tw sw = some (some code, r) →
        exec .shdwComplete s = .next (r.pairOpened n op code)) ∧
      (∀ r, op.publ = false → op.fill = none → s.askOwner n op dev tw sw = some (none, r) → exec .shdwComplete s = .next r) ∧
      (∀ code r, op.publ = true → op.scope ≠ 4 → s.askOwner n op dev tw sw = some (some code, r) →
        exec .publExchange s = .next ((if code = 0 then r.dropPair op.ctx op.handle else r).endPub n op code 0)) ∧
      ∀ r, op.publ = true → op.scope ≠ 4 → s.askOwner n op dev tw sw = some (none, r) → exec .publExchange s = .next r)) ∧
  (∀ (s r : State) (i code : Nat) (q : Inbound) (b : Bool) (tw sw : List (Nat × Nat)),
    let z : State := { s with inbound := s.inbound.eraseIdx i }
    let who := 256 + q.pkt.src
    let bytes := tw.foldl (fun n r => n + (r.2 - r.1)) 0
    s.occ = .num2 i 1 → s.inbound[i]? = some q → q.pkt.kind = .pair b tw sw →
    (b = false → z.openPair who ⟨q.part, tw, sw⟩ = some (code, r) →
      exec .shdwComplete s = .next (r.answer q.pkt (.ok code false))) ∧
    (b = true → z.publishAt who ⟨q.part, tw, sw⟩ bytes = .done code r →
      exec .publExchange s = .next (r.answer q.pkt (.ok code false)))) ∧
  ∀ (h : Handle), pairShape h = true →
    Hnd.base h % 2 ^ 16 = 0 ∧ Hnd.sbase h % 2 ^ 16 = 0 ∧ Hnd.limit h % 2 ^ 16 = 0 ∧ Hnd.limit h ≠ 0 ∧
      ∀ a, Hnd.base h ≤ a → a < Hnd.base h + Hnd.limit h → ¬(Hnd.sbase h ≤ a ∧ a < Hnd.sbase h + Hnd.limit h)

/-- MSG captures its bytes and enters a message; MSG_ARRIVAL checks it, in its thread's order, answering 0x88 and 0x89 as R251 says;
MSG_DELIVER writes it at the ring's tail and steps the tail once there is room. A packet blocked for 4096 clocks probes, and a cycle of
blocked packets steps together (R250, R251, R354). The model's readings: a packet is blocked from its injection, the blocked set moves
together, a ring header that reads poisoned answers 0x88 (DEDUCED, log entry 27), and a poisoned target word reads zero and poisons the
status (DEDUCED, log entry 19). -/
def Obligations.MessagesComplete : Prop :=
  (∀ (s t t1 t2 t3 : State) (u : Agent) (v : Opnds) (a : Acc) (x : Nat) (po : Bool) (l : Landing),
    let m := t.lead u
    let w := (v.a m).bits.toNat % 2 ^ 32
    let len := 16 * (bits w 19 16 + 1)
    let g := ((t2.teamOf u).map (·.gid)).getD 0
    let teams := match t2.grids.find g with
      | some g => g.count * LRec.perCohort g.record
      | none => 0
    let op : Msg :=
      { owner := u, ctx := t2.ctxOf u, gid := g, target := bits w 15 0, hdr := (v.c m).bits.toNat % 2 ^ 32,
        data := (List.range len).map (fun i => BitVec.ofNat 8 (x / 2 ^ (8 * i))),
        poison := (List.range (len / 4)).filter (fun i => (t2.readStore (a.addr + 4 * i) 4).2),
        bad := bits w 31 20 != 0 || decide (teams ≤ bits w 15 0), tainted := (v.a m).poison, landing := l, arrived := false,
        blockedAt := some t2.now }
    Executes s u {} → s.pcAt u < 2 ^ 64 → Delivers s u {} .offset v t → (v.c m).poison = false →
    oneAccess { hidx := s.ir.x8.toNat, spaces := [1], kinds := [0], size := len, align := 16, offAlign := 16, need := .rd } v false t =
      .ok (a, t1) →
    release t1 = .ok ((), t1) → doOwnN (t1.reqOf u a .load (s.pcAt u) 255 .none) t1 = .ok ((x, po), t2) →
    (t2.msgs.filter (fun q => q.2.owner == u)).length < 8 → t2.replyRoom u 1 = true → landD t2 = .ok (l, t3) →
    exec .msg s = .next (s.closed { t3 with fresh := t3.fresh + 1, msgs := t3.msgs.put t3.fresh op } u .msg {})) ∧
  (∀ (s : State) (n : Nat) (m : Msg), s.occ = .num n → s.msgs.find n = some m → m.arrived = false →
    s.msgBehind n m (fun q => !q.arrived) = false →
    (m.bad = true → exec .msgArrival s = .next (s.endMsg n m 0x88)) ∧
    (m.bad = false → s.msgTeam m = none → s.running m.ctx = true → exec .msgArrival s = .next (s.endMsg n m 0x89)) ∧
    ∀ t, m.bad = false → s.msgTeam m = some t →
      let w := s.windowBytes t
      let h := s.readStore (teamKey t m.hdr) 32
      (m.hdr % 32 = 0 → m.hdr + 32 ≤ w → h.2 = false → Ring.ok h.1 w m.data.length = true →
        exec .msgArrival s = .next { s with msgs := s.msgs.put n { m with arrived := true } }) ∧
      (m.hdr % 32 ≠ 0 ∨ w < m.hdr + 32 ∨ h.2 = true ∨ Ring.ok h.1 w m.data.length = false →
        exec .msgArrival s = .next (s.endMsg n m 0x88))) ∧
  (∀ (s : State) (n : Nat) (m : Msg) (t : Team), s.occ = .num n → s.msgs.find n = some m → m.arrived = true →
    s.msgBehind n m (fun _ => true) = false → s.msgTeam m = some t →
    let h := (s.readStore (teamKey t m.hdr) 32).1
    let used := wrapN ((Ring.tail h : Int) - (Ring.head h : Int)) 32
    let full := s.putWords (teamKey t (Ring.base h + Ring.tail h % Ring.size h)) m
    Ring.size h ≠ 0 →
    (used ≤ Ring.size h - Ring.slot h → exec .msgDeliver s = .next
      ((full.writeStore (teamKey t (m.hdr + 20)) 4 ((Ring.tail h + Ring.slot h) % 2 ^ 32) false).endMsg n m
        (if m.poison = [] then 0 else 0x11))) ∧
    (Ring.size h - Ring.slot h < used → exec .msgDeliver s = .next s)) ∧
  (∀ (s : State) (n b : Nat) (m : Msg), s.occ = .num n → s.msgs.find n = some m → m.blockedAt = some b → b + 4096 ≤ s.now →
    exec .messageProbeTimeout s = .next { s with msgs := s.msgs.put n { m with blockedAt := if m.arrived then some s.now else none } }) ∧
  ∀ (s : State) (ids : List Nat), s.occ = .nums ids → ids ≠ [] →
    (∀ i ∈ ids, ∃ m, s.msgs.find i = some m ∧ m.arrived = false ∧ m.blockedAt = none) →
    ∃ t, exec .escapeStep s = .next t ∧ t.mem = s.mem ∧
      ∀ i, t.msgs.find i = if i ∈ ids then (s.msgs.find i).map (fun m => { m with blockedAt := some s.now }) else s.msgs.find i

/-- NRED answers 0x85, 0 or 0x86 at once for 0, 1 or more than 4 members, and else enters its contribution; the slice joins it to its
round, answers 0x87 to one whose operation, width or count differs, and with the last writes the tree's result to the cells of all
members and answers all (R252, R253). A poisoned tag reads zero and poisons the status (DEDUCED, log entry 19). -/
def Obligations.NetworkReductionsComplete : Prop :=
  (∀ (s t t1 : State) (u : Agent) (v : Opnds) (a : Acc),
    let h := t.handleOf u s.ir.x8.toNat
    let size := 2 ^ Hnd.ew h
    let n := bits s.ir.c.immVal 6 4
    let tag := v.a (t.lead u)
    Executes s u shDAB → s.pcAt u < 2 ^ 64 → Delivers s u shDAB .offset v t →
    oneAccess { hidx := s.ir.x8.toNat, spaces := [1], kinds := [0], widths := [2, 3], size, align := size, need := .both } v false t =
      .ok (a, t1) →
    (∀ t', (n = 0 ∨ n = 1 ∨ 4 < n) →
      Writes t1 s.ir.d 1 (fun _ => ⟨statusWord (if n = 0 then 0x85 else if n = 1 then 0 else 0x86) 0 0, tag.poison⟩) t' →
      exec .nred s = .next (s.closed t' u .nred shDAB)) ∧
    ∀ (t2 t3 : State) (x : Val) (l : Landing), 2 ≤ n → n ≤ 4 → release t1 = .ok ((), t1) →
      doOwn (t1.reqOf u a .load (s.pcAt u) 255 .none) t1 = .ok (x, t2) → t2.replyRoom u 1 = true → landD t2 = .ok (l, t3) →
      let op : NredOp :=
        { owner := u, ctx := t3.ctxOf u, gid := ((t3.teamOf u).map (·.gid)).getD 0, tag := tag.w32, op := bits s.ir.c.immVal 3 0,
          width := 8 * size, n, cluster := (t3.coreOf u).getD 0 / 256, core := a.core, cell := a.loc, value := x.bits,
          poison := x.poison, tainted := tag.poison, landing := l, joined := false }
      exec .nred s = .next (s.closed { t3 with fresh := t3.fresh + 1, nreds := t3.nreds.put t3.fresh op } u .nred shDAB)) ∧
  (∀ (s : State) (n : Nat) (q : NredOp), s.occ = .num n → s.nreds.find n = some q → q.joined = false → s.running q.ctx = true →
    let r := s.round q
    let all := r ++ [(n, q)]
    let bad := all.any (fun x => x.2.poison)
    let z := if bad then 0 else roundResult q.op q.width (all.map (·.2))
    let same := fun (f : NredOp) => f.op = q.op ∧ f.width = q.width ∧ f.n = q.n
    (∀ f rest, r = f :: rest → ¬same f.2 → exec .nredContribution s = .next (s.endNred n q 0x87)) ∧
    ((∀ f ∈ r, same f.2 ∧ f.2.cluster ≠ q.cluster) →
      (all.length < q.n → exec .nredContribution s = .next { s with nreds := s.nreds.put n { q with joined := true } }) ∧
      (q.n ≤ all.length → exec .nredContribution s = .next
        (all.foldl (fun s x => s.endNred x.1 x.2 (if bad then 0x11 else 0))
          (all.foldl (fun s x => s.writeStore (s.windowKey x.2.owner x.2.cell) (q.width / 8) z bad) s))))) ∧
  -- the tree of one to four integer additions is the sum of the values by cluster
  ∀ (w : Nat) (l : List NredOp), (w = 32 ∨ w = 64) → l.length ≤ 4 → l.Pairwise (fun p q => p.cluster < q.cluster) →
    (∀ q ∈ l, q.cluster < 4) → roundResult 0 w l = (l.map (fun q => q.value.toNat % 2 ^ w)).sum % 2 ^ w

/-! ### The matrix engine -/

/-- The instructions of the matrix engine: MACQ waits for the grant, MREL gives the engine back, GANG sets the gang, MWAIT waits for the
queue, MRD and MWR reach one accumulator word, and MCFG, MZERO and the transfers enter the operation queue, all only for the engine's
owner (R105, R106, R125-R130); a transfer whose destination is a port holds its thread for the push (R185); an MMA arrives at the latch
and waits (R108). That a poisoned GANG or MCFG word reads zero, and that a poisoned control word of a transfer enters with its taint, are
the model's readings (DEDUCED, log entry 19). -/
def Obligations.MatrixInstructionsComplete : Prop :=
  (∀ (s : State) (tm tid c : Nat) (g : Team),
    let u : Agent := .ex tm tid
    let r := if (s.core c).waiting.any (· == tm) then s.past u
      else (s.past u).modCore c (fun k => { k with waiting := k.waiting ++ [tm] })
    Executes s u noShape → s.pcAt u < 2 ^ 64 → s.teams.find tm = some g → c = g.coreOf (tid / 16) →
    ((s.core c).owner = some tm → exec .macq s = .next (s.closed (s.past u) u .macq noShape)) ∧
    ((s.core c).owner ≠ some tm →
      exec .macq s = .next (s.closed (r.stays tm tid .macq s.ir (s.pcAt u) .engine) u .macq noShape))) ∧
  (∀ (s : State) (tm tid c : Nat) (g : Team),
    let u : Agent := .ex tm tid
    Executes s u noShape → s.owns tm tid g c →
    (g.latchBusy = false → (s.core c).queue = [] → s.accStores tm = false →
      exec .mrel s = .next (s.closed ((s.past u).modCore c (fun k => { k with owner := none })) u .mrel noShape)) ∧
    (g.latchBusy = true → exec .mrel s = .next (s.takeTrap u (tinfo 0x41 2) (len0Of s.ir.form))) ∧
    (∀ t, awaitQueue c (s.past u) = .ok ((), t) → exec .mwait s = .next (s.closed t u .mwait noShape))) ∧
  (∀ i ∈ [Instr.mrel, .mwait], ∀ (s : State) (tm tid c : Nat) (g : Team),
    let u : Agent := .ex tm tid
    Executes s u noShape → s.teams.find tm = some g → c = g.coreOf (tid / 16) → g.regrant.has (c - g.core) = false →
    (s.core c).owner ≠ some tm → exec i s = .next (s.takeTrap u (tinfo 0x41 1) (len0Of s.ir.form))) ∧
  (∀ (s t : State) (tm tid c : Nat) (g : Team) (v : Opnds),
    let u : Agent := .ex tm tid
    let sh : Shape := { d := 0, a := 2, b := 0, c := 0 }
    Executes s u sh → s.owns tm tid g c → Delivers s u sh .int v t → t.teams.find tm = some g → g.latchBusy = false →
    (∀ l, gangOf g (heldVal (v.a 0)).bits.toNat = some l → exec .gang s = .next (s.closed (t.modTeam tm (fun x => { x with gang := l })) u .gang sh)) ∧
    (gangOf g (heldVal (v.a 0)).bits.toNat = none → exec .gang s = .next (s.takeTrap u (tinfo 0x42 1) (len0Of s.ir.form)))) ∧
  (∀ (s t : State) (tm tid c : Nat) (g : Team) (v : Opnds),
    let u : Agent := .ex tm tid
    let sh : Shape := { d := 0, b := 0, c := 0 }
    let w := (heldVal (v.a 0)).bits.toNat % 2 ^ 32
    Executes s u sh → s.owns tm tid g c → Delivers s u sh .int v t → bits w 31 24 = 0 → bit w 3 = false → t.canQueue c tm = true →
    exec .mcfg s = .next (s.closed (t.queued c (fun n =>
      { id := n, team := tm, tid, insn := ⟨.mcfg, s.ir⟩, va := BitVec.ofNat 64 w, vb := 0, vc := 0, landing := .none })) u .mcfg sh)) ∧
  (∀ (s t : State) (tm tid c : Nat) (g : Team) (v : Opnds),
    let u : Agent := .ex tm tid
    let sh : Shape := { d := 0, c := 0 }
    let a := (v.a 0).bits.toNat % 2 ^ 32
    let n := (v.b 0).bits.toNat % 2 ^ 32
    Executes s u sh → s.owns tm tid g c → Delivers s u sh .int v t → (v.a 0).poison = false → (v.b 0).poison = false →
    a % 256 = 0 → 1 ≤ n → n ≤ 128 → a + 256 * n ≤ 32768 → t.canQueue c tm = true →
    exec .mzero s = .next (s.closed (t.queued c (fun k =>
      { id := k, team := tm, tid, insn := ⟨.mzero, s.ir⟩, va := BitVec.ofNat 64 a, vb := BitVec.ofNat 64 n, vc := 0,
        landing := .none })) u .mzero sh)) ∧
  (∀ (s t t1 t2 t' : State) (tm tid c : Nat) (g : Team) (v : Opnds) (x : Val),
    let u : Agent := .ex tm tid
    let sh : Shape := { b := 0, c := 0 }
    let off := (v.a 0).bits.toNat % 2 ^ 32
    let code := s.ir.x8.toNat / 16
    let r := cvtFF binary32 (fmtOf code) (x.bits.toNat % 2 ^ 32)
    let cvt := (code = 2 ∨ code = 3) ∧ x.poison = false
    Executes s u sh → s.pcAt u < 2 ^ 64 → s.owns tm tid g c → Delivers s u sh .int v t → (v.a 0).poison = false → off % 4 = 0 →
    off + 4 ≤ 32768 → awaitQueue c t = .ok ((), t1) → doOwn (t1.reqOf u (accAt c off) .load (s.pcAt u) 255 .none) t1 = .ok (x, t2) →
    (cvt → r.flags &&& t2.enabled u = 0 → Writes (t2.raised u r.flags) s.ir.d 1 (fun _ => Val.of (BitVec.ofNat 64 r.bits)) t' →
      exec .mrd s = .next (s.closed t' u .mrd sh)) ∧
    (¬cvt → Writes t2 s.ir.d 1 (fun _ => x) t' → exec .mrd s = .next (s.closed t' u .mrd sh))) ∧
  (∀ (s t t1 : State) (tm tid c : Nat) (g : Team) (v : Opnds),
    let u : Agent := .ex tm tid
    let sh : Shape := { d := 0, c := 0 }
    let off := (v.a 0).bits.toNat % 2 ^ 32
    let code := s.ir.x8.toNat % 16
    let w := (v.b 0).bits.toNat % 2 ^ 32
    let r : FRes := if code = 2 ∨ code = 3 then cvtFF (fmtOf code) binary32 (w % 2 ^ 16) else ⟨w, 0⟩
    let fl := r.flags &&& (fNV ||| fNF)
    let e := (t1.raised u fl).drainAll u 0 (t1.bufferOf (.unit u)).length
    let q := e.reqOf u (accAt c off) (.store r.bits false) (s.pcAt u) 255 .none
    Executes s u sh → s.pcAt u < 2 ^ 64 → s.owns tm tid g c → Delivers s u sh .int v t → (v.a 0).poison = false →
    (v.b 0).poison = false → off % 4 = 0 → off + 4 ≤ 32768 → awaitQueue c t = .ok ((), t1) → fl &&& t1.enabled u = 0 →
    e.inOrder e.fresh q = true →
    exec .mwr s = .next (s.closed (e.writeStore (Loc.acc c off).key 4 r.bits false) u .mwr sh)) ∧
  (∀ i ∈ [Instr.mldw, .mldt, .mstt, .mlda, .msta], ∀ (s t t1 : State) (tm tid c : Nat) (g : Team) (v : Opnds) (x : Xfer) (l : Landing),
    let u : Agent := .ex tm tid
    let h := t.handleOf u s.ir.x8.toNat
    let e := (v.a 0).bits.toNat % 2 ^ 32
    let off := (v.b 0).bits.toNat % 2 ^ 32
    let cw := (heldVal (v.c 0)).bits
    Executes s u {} → s.owns tm tid g c → Delivers s u {} .offset v t → (v.a 0).poison = false → (v.b 0).poison = false →
    (Hnd.space h ≠ 7 ∧ Hnd.space h ≠ 3 ∧ Hnd.space h ≠ 5 ∧ Hnd.space h ≠ 6) → Hnd.kind h ≠ 4 →
    ¬(globalSpace (Hnd.space h) = true ∧ isReg s.ir.b = true) → xferOf i (cw.toNat % 2 ^ 32) = some x →
    (∀ r, r < x.rows → rangeOk h (off + r * x.step h) x.mrow = true) → e % (if x.store = 2 then 256 else 64) = 0 →
    e + x.rows * x.erow ≤ (if x.store = 2 then 32768 else 65536) →
    let op : Landing → Nat → MatOp := fun l n =>
      { id := n, team := tm, tid, insn := ⟨i, s.ir⟩, va := BitVec.ofNat 64 e, vb := BitVec.ofNat 64 off, vc := cw,
        landing := l, taint := (v.c 0).poison }
    (noPort s.ir.d = true → landD t = .ok (l, t1) → t1.canQueue c tm = true →
      exec i s = .next (s.closed (t1.queued c (op l)) u i {})) ∧
    ∀ n p, portOf s.ir.d = some n → t.ports.find (portKey (stripKey tm (tid / 16)) n) = some p → (v.c 0).poison = false →
      s.pcAt u < 2 ^ 64 → pushRoom n p (p.pos.getD (tid % 16) 0) false t = .ok ((), t1) → t1.canQueue c tm = true →
      exec i s = .next (s.closed ((t1.queued c (op (.push tm tid n))).stays tm tid i s.ir (s.pcAt u) .result) u i {})) ∧
  ∀ (s : State) (tm tid c : Nat) (g : Team),
    let u : Agent := .ex tm tid
    let l : Latch := g.latch.getD ⟨s.pcAt u, ⟨.mma, s.ir⟩, [], false, []⟩
    let l' : Latch := { l with arrived := l.arrived.add tid, suspended := l.suspended.rem tid }
    Executes s u mmaShape → s.pcAt u < 2 ^ 64 → s.owns tm tid g c → tid / 16 ∈ g.gang →
    (∀ k, g.latch = some k → (k.released = false ∨ k.suspended.has tid = true) ∧ k.addr = s.pcAt u) →
    checkPorts { d := 0, a := 0 } (s.past u) = .ok ((), s.past u) →
    (∀ n, portOf s.ir.a = some n → ∃ p, s.ports.find (portKey (stripKey tm (tid / 16)) n) = some p ∧ p.mode = .rline ∧ p.execPops = true) →
    exec .mma s = .next (s.closed (((s.past u).modTeam tm (fun t => { t with latch := some l' })).stays tm tid .mma s.ir (s.pcAt u) .latch)
      u .mma mmaShape)

/-- The events of the matrix engine: ENGINE_GRANT gives a free engine to the first waiting team, cleared when it last served another context
(R104); LATCH_RELEASE enters a complete MMA (R108); MMA_CHUNK_COMMIT checks and commits chunks (R112, R121); MMA_COMPLETE lets the gang go
on (R120); MATRIX_QUEUE_OP performs MCFG and MZERO (R106); MATRIX_TRANSFER_COMPLETE moves rows, MLDW, MLDT and MSTT byte by byte and MLDA
and MSTA element by element to and from accumulator words, and ends with the status word (R126, R127). The model's readings: a poisoned
control word holds its taint and a poisoned offset its trap until the release (DEDUCED, log entry 19), the engine of an exited team comes
back at ENGINE_GRANT, and transfers go row by row (DEDUCED, log entry 28); an R112 trap suspends the MMA as R123 does (DEDUCED, log entry
28). That a row in the semaphore window fails with 0x24 is its choice (DESIGN CHOICE, log entry 59). -/
def Obligations.MatrixEventsComplete : Prop :=
  (∀ (s : State) (c tm : Nat) (rest : List Nat) (t : Team),
    let k := s.core c
    let r := if k.lastCtx.isSome && k.lastCtx != some t.ctx then s.clearEngine c else s
    let r := r.modCore c (fun k => { k with owner := some tm, waiting := rest, lastCtx := some t.ctx })
    s.occ = .num c → k.waiting = tm :: rest → s.teams.find tm = some t → s.running t.ctx = true → t.regrant.has (c - t.core) = false →
    (k.owner = none ∨ ∃ o, k.owner = some o ∧ s.teamDone o = true ∧ k.queue = [] ∧ s.accStores o = false) →
    exec .engineGrant s = .next ((List.range (16 * t.strips)).foldl (fun s i => match s.exs.find (exKey tm i) with
      | some x => if x.arr.elim false (fun j => j.op == .macq) && t.coreOf (i / 16) == c then s.finishEx tm i else s
      | none => s) r)) ∧
  (∀ (s : State) (c a : Nat), s.memWf = true →
    Memory.read (s.clearEngine c).mem a = if inEngine c a then 0 else Memory.read s.mem a) ∧
  (∀ (s : State) (tm : Nat) (t : Team) (l : Latch) (a b w : Val) (z : State),
    let live := (gangRows t.gang).filter (s.exLive tm)
    let c := t.coreOf (t.gang.headD 0)
    let leader := live.foldl min (live.headD 0)
    s.occ = .num tm → s.teams.find tm = some t → t.latch = some l → l.released = false → live ≠ [] →
    (∀ i ∈ live, l.arrived.has i = true) → s.running t.ctx = true → s.canQueue c tm = true → s.holdsEngine tm t c = true →
    s.asUnit (.ex tm leader) l.insn.args mmaRead = .ok ((a, b, w), z) →
    let r : State := { z with ir := s.ir, cur := s.cur }
    exec .latchRelease s = .next ((r.queued c (fun n =>
      { id := n, team := tm, tid := leader, insn := l.insn, va := a.bits, vb := b.bits, vc := w.bits, landing := .none, gang := t.gang,
        woff := b.bits.toNat % 2 ^ 32, taint := w.poison, bad := a.poison || b.poison })).modTeam tm
      (fun t => { t with latch := some { l with released := true } }))) ∧
  (∀ (s : State) (c : Nat) (op : MatOp) (rest : List MatOp) (t : Team) (l : Latch),
    let w := op.vc.toNat % 2 ^ 32
    let o := op.insn.args
    let bf := o.x8.toNat / 16
    let af := o.x8.toNat % 16
    let lines := if af = 2 ∨ af = 3 then 2 else 1
    let cfg := (s.core c).mcfg.toNat
    let sc := bit cfg 2 && ocp bf
    let bad := fun (rows : List (Option (Nat × List Bool))) => rows.any (fun x => x.elim false (fun y => y.2.any id))
    let fed := fun rows => (match portOf o.a with
      | some n => s.lineRows op.team n op.chunk lines (gangRows op.gang)
      | none => .ok []) = .ok rows
    s.occ = .num c → (s.core c).queue = op :: rest → op.insn.op = .mma → 64 * op.chunk ≠ Mma.k w → s.teams.find op.team = some t →
    t.placed = true → s.running t.ctx = true → t.latch = some l → l.released = true → l.suspended = [] → s.heldBack c op = false →
    s.mgmt.slow ≤ s.now % 256 →
    (op.ready = false → s.mmaCheck c op = none →
      exec .mmaChunkCommit s = .next (s.modHead c (fun op => { op with ready := true }))) ∧
    (op.ready = false → ∀ e, s.mmaCheck c op = some e → exec .mmaChunkCommit s = .next (s.suspend op.team op.tid op e)) ∧
    (∀ rows brows z, op.ready = true → Mma.tile w = true → fed rows → s.gatherB op = .ok (brows, z) → (z.core c).mcfg.toNat = cfg →
      exec .mmaChunkCommit s = .next (z.commitChunk c op ⟨16 * op.gang.length, af == 9, bit cfg 1, z.elemA c op rows,
        z.tileElem c bf (if sc then some (64 * bits cfg 23 14) else none) op.chunk brows, fun x => x⟩ 0 lines (bad rows))) ∧
    (∀ rows im, op.ready = true → Mma.tile w = false → fed rows → s.imageAt c op.woff bf = some im →
      exec .mmaChunkCommit s = .next (s.commitChunk c op ⟨16 * op.gang.length, af == 9, bit cfg 1, s.elemA c op rows,
        s.imageElem c bf im sc (s.strictBlock c op (s.elemA c op rows)), fun x => bits im.cmap (6 * x + 5) (6 * x)⟩ im.len lines
        (bad rows))) ∧
    (∀ rows, op.ready = true → Mma.tile w = false → fed rows → s.imageAt c op.woff bf = none →
      exec .mmaChunkCommit s = .next (s.suspend op.team op.tid op { tinfo 0x20 0x10 with chunk := BitVec.ofNat 8 op.chunk }))) ∧
  (∀ (s : State) (c : Nat) (op : MatOp) (rest : List MatOp) (t : Team),
    let fl := if op.taint then 0 else op.flags
    let en := LRec.fpen (s.recordOf t) &&& fl
    let r := (s.modCore c (fun k => { k with queue := rest })).modTeam op.team
      (fun t => { t with flags := t.flags ||| fl, latch := none })
    s.occ = .num c → (s.core c).queue = op :: rest → op.insn.op = .mma → 64 * op.chunk = Mma.k (op.vc.toNat % 2 ^ 32) →
    s.teams.find op.team = some t → s.running t.ctx = true →
    exec .mmaComplete s = .next ((t.latch.elim [] (·.arrived)).foldl (fun s tid =>
      if en ≠ 0 ∧ tid = op.tid then s.trapMma op.team tid op.insn { tinfo 0x10 (lowFlag en) with flags := fl, done := true }
      else s.retireMma op.team tid op.insn) r)) ∧
  (∀ (s : State) (c : Nat) (op : MatOp) (rest : List MatOp), s.occ = .num c → (s.core c).queue = op :: rest → s.heldBack c op = false →
    (op.insn.op = .mcfg → exec .matrixQueueOp s = .next (s.modCore c (fun k => { k with mcfg := op.va.setWidth 32, queue := rest }))) ∧
    (op.insn.op = .mzero → s.memWf = true → ∃ t, exec .matrixQueueOp s = .next t ∧ (t.core c).queue = rest ∧
      ∀ a, Memory.read t.mem a = if (Loc.acc c op.va.toNat).key ≤ a ∧ a < (Loc.acc c op.va.toNat).key + 256 * op.vb.toNat then 0
        else Memory.read s.mem a)) ∧
  (∀ (s : State) (c id : Nat) (op : MatOp) (rest : List MatOp) (t : Team) (x : Xfer), (s.core c).queue = op :: rest → op.id = id →
    s.heldBack c op = false → s.teams.find op.team = some t → t.placed = true → s.running t.ctx = true → xferOf op.insn.op (op.vc.toNat % 2 ^ 32) = some x →
    (s.occ = .num2 c id → exec .matrixTransferComplete s = .next (s.xferRows c (x.rows + 2))) ∧
    (∀ n, s.occ = .num3 c id n → exec .matrixTransferComplete s = .next (s.xferRows c n)) ∧
    (∀ n, op.rows = x.rows → op.fail = none → op.insn.op ≠ .mldt → s.xferRows c (n + 1) =
      (let r := s.modCore c (fun k => { k with queue := rest })
       if op.taint then r else r.modTeam op.team (fun t => { t with flags := t.flags ||| op.flags })).landWord
        op.landing (if op.taint then 0 else match op.pline with
          | some l => statusWord 0x11 l op.flags.toNat
          | none => statusWord 0 0 op.flags.toNat) op.taint)) ∧
  -- one row of a transfer between the team's window and the engine, both clean
  (∀ (s : State) (c : Nat) (op : MatOp) (rest : List MatOp) (x : Xfer),
    let u : Agent := .ex op.team op.tid
    let h := s.handleOf u op.insn.args.x8.toNat
    let off := op.vb.toNat + op.rows * x.step h
    let win := s.windowKey u (Hnd.base h + off)
    let eng := x.loc c (op.va.toNat + op.rows * x.erow)
    let w := x.mrow / 64
    let r := s.xferRows c 1
    let moves := fun (src dst : Nat) => ∀ a, Memory.read r.mem a =
      if dst ≤ a ∧ a < dst + x.mrow then Memory.read s.mem (src + (a - dst)) else Memory.read s.mem a
    let only := fun (dst n : Nat) => ∀ a, ¬(dst ≤ a ∧ a < dst + n) → Memory.read r.mem a = Memory.read s.mem a
    s.memWf = true → (s.core c).queue = op :: rest → xferOf op.insn.op (op.vc.toNat % 2 ^ 32) = some x → op.fail = none →
    op.rows < x.rows → Hnd.space h = 1 → Hnd.kind h = 0 ∨ Hnd.kind h = 2 → off + x.mrow ≤ Hnd.limit h →
    win % 2 ^ 20 + x.mrow ≤ 2 ^ 20 → eng % 2 ^ 20 + x.erow ≤ 2 ^ 20 → poisonIn s.poison win x.mrow = false → poisonIn s.poison eng x.erow = false →
    (r.core c).queue.head?.map (·.rows) = some (op.rows + 1) ∧
    (op.insn.op = .mldw ∨ op.insn.op = .mldt → moves win eng) ∧ (op.insn.op = .mstt → moves eng win) ∧
    (op.insn.op = .mlda → only eng 256 ∧ ∀ i < 64,
      let v := Memory.readN s.mem (win + w * i) w
      Memory.readN r.mem (eng + 4 * i) 4 = if x.fmt = 2 ∨ x.fmt = 3 then (cvtFF (fmtOf x.fmt) binary32 v).bits else v) ∧
    (op.insn.op = .msta → only win x.mrow ∧ ∀ i < 64,
      let v := Memory.readN s.mem (eng + 4 * i) 4
      Memory.readN r.mem (win + w * i) w =
        if x.fmt = 9 then satS (sext v 32) 8 else if x.fmt = 0 ∨ x.fmt = 10 then v else (cvtFF binary32 (fmtOf x.fmt) v).bits)) ∧
  -- an INT8 chunk whose sums stay in range adds the products of A's row and B's column
  ∀ (x : ChunkIn) (e : Nat → Nat → Elem) (r c w : Nat), x.int8 = true → x.cmap = (fun s => s) → c < 64 → w < 2 ^ 32 →
    (∀ k, k < 64 → x.b k c = some (e k c) ∧ (e k c).p = false ∧ (x.a r k).p = false) →
    let sum := fun n => sext w 32 + ((List.range (4 * n)).map (fun k => (x.a r k).z * (e k c).z)).sum
    (∀ n, n ≤ 16 → -2 ^ 31 ≤ sum n ∧ sum n < 2 ^ 31) →
    x.word r c w false = (wrapN (sum 16) 32, false, 0)

/-! ### The broadcast constant store, remote instructions -/

/-- PLD reads four bytes of the core's broadcast constant store at a + b, zeros where no context owns the store; its failures are SPACE
0x09, ALIGN 0x01 and BOUNDS 0x11 (R172). TMV, TMVA and TMVT multiply a matrix of the broadcast constant store by a vector of registers,
PLDV reads words of it with their own poison (DEDUCED, log entry 28), and a poisoned operand poisons every output (R132-R135); PSTB enters
an operation that writes words to the stores of its scope, and PSTB_COMPLETE performs them one by one and then writes the status (R136); a
port destination holds the thread until the status is pushed (R185). The order of several failures in that status is the model's choice
(DESIGN CHOICE, log entry 59). -/
def Obligations.BroadcastStoreComplete : Prop :=
  (
  ∀ i ∈ [Instr.pld, .pldLong], ∀ (s t t' : State) (tm tid : Nat) (v : Opnds) (g : Team),
    let u : Agent := .ex tm tid
    let sh : Shape := { c := 0 }
    let core := g.coreOf (tid / 16)
    let owner := (s.core core).bcsOwner
    let off := (v.a 0).bits.toNat % 2 ^ 32 + (v.b 0).bits.toNat % 2 ^ 32
    Executes s u sh → s.teams.find tm = some g → Delivers s u sh .int v t → (v.a 0).poison = false → (v.b 0).poison = false →
    (owner = none ∨ owner = some g.ctx → off % 4 = 0 → off + 4 ≤ 16384 →
      Writes t s.ir.d 1 (fun _ => if owner.isNone then Val.zero
        else ⟨BitVec.ofNat 64 (Memory.readN s.mem (Loc.bcs core off).key 4), poisonIn s.poison (Loc.bcs core off).key 4⟩) t' →
      exec i s = .next (s.closed t' u i sh)) ∧
    (owner ≠ none → owner ≠ some g.ctx → exec i s = .next (s.takeTrap u (tinfo 0x24 9) (len0Of s.ir.form))) ∧
    (owner = none ∨ owner = some g.ctx → off % 4 ≠ 0 →
      exec i s = .next (s.takeTrap u { tinfo 0x23 1 with loc := BitVec.ofNat 64 off } (len0Of s.ir.form))) ∧
    (owner = none ∨ owner = some g.ctx → off % 4 = 0 → 16384 < off + 4 →
      exec i s = .next (s.takeTrap u { tinfo 0x20 0x11 with loc := BitVec.ofNat 64 off } (len0Of s.ir.form)))) ∧
  (
  (∀ q ∈ [(Instr.tmv, false, false), (.tmva, true, false), (.tmvt, false, true)],
    ∀ (s t t' : State) (tm tid c : Nat) (free : Bool) (xs ys : List Val) (v : Opnds),
    let u : Agent := .ex tm tid
    let acc := q.2.1
    let n := s.ir.x8.toNat % 16 + 1
    let m := s.ir.x8.toNat / 16 + 1
    let nx := if q.2.2 then n else m
    let ny := if q.2.2 then m else n
    let sh : Shape := { d := ny, a := nx, b := 1, c := 0 }
    let p := s.past u
    let w := (v.b 0).bits.toNat % 2 ^ 32
    let es := if bit w 0 then 2 else 4
    let off := w / 4 * 4
    let we := t.wElems c free off es (n * m)
    let out := tmvOut q.2.2 n m we.1 (xs.map (fun x => x.bits.toNat % 2 ^ 32)) (ys.map (fun x => x.bits.toNat % 2 ^ 32))
    let fl := out.foldl (fun f r => f ||| r.flags) 0
    let bad := we.2 || xs.any (·.poison) || ys.any (·.poison)
    Executes s u sh → checkPorts sh p = .ok ((), p) →
    awaitRegs ((s.ir.a, nx) :: (if acc then [(s.ir.d, ny)] else [])) p = .ok ((), p) → readRun s.ir.a nx p = .ok (xs, p) →
    (if acc then readRun s.ir.d ny p = .ok (ys, p) else ys = []) → Delivers s u sh .int v t → bcsOwn t = .ok ((c, free), t) →
    ((v.b 0).poison = true ∨ (bit w 1 = false ∧ off + n * m * es ≤ 16384 ∧ bad = true) →
      writeRun s.ir.d (List.replicate ny Val.bad) t = .ok ((), t') → exec q.1 s = .next (s.closed t' u q.1 sh)) ∧
    ((v.b 0).poison = false → bit w 1 = false → off + n * m * es ≤ 16384 → bad = false → fl &&& t.enabled u = 0 →
      writeRun s.ir.d (out.map (fun r => Val.of (BitVec.ofNat 64 r.bits))) (t.raised u fl) = .ok ((), t') →
      exec q.1 s = .next (s.closed t' u q.1 sh))) ∧
  (∀ (s t t' : State) (tm tid c : Nat) (free : Bool) (v : Opnds),
    let u : Agent := .ex tm tid
    let n := s.ir.x8.toNat % 16 + 1
    let sh : Shape := { d := n, a := 1, b := 0, c := 0 }
    let off := (v.a 0).bits.toNat % 2 ^ 32
    Executes s u sh → Delivers s u sh .int v t → (v.a 0).poison = false → bcsOwn t = .ok ((c, free), t) → off % 4 = 0 →
    off + 4 * n ≤ 16384 →
    writeRun s.ir.d ((List.range n).map (fun i =>
      ⟨BitVec.ofNat 64 (t.bcsRead c free (off + 4 * i) 4).1, (t.bcsRead c free (off + 4 * i) 4).2⟩)) t = .ok ((), t') →
    exec .pldv s = .next (s.closed t' u .pldv sh)) ∧
  (∀ (s t t1 : State) (u : Agent) (v : Opnds),
    let m := t.lead u
    let hi := s.ir.x8.toNat
    let h := t.handleOf u hi
    let w := (v.a m).bits.toNat % 2 ^ 32
    let off : Nat := (v.b m).bits.toNat % (if sideOf u = .exec then 2 ^ 32 else 2 ^ 64)
    let dst := bits w 13 0
    let n := bits w 27 16 + 1
    let op : Landing → PstbOp := fun l =>
      { owner := u, ctx := t.ctxOf u, gid := (t1.teamOf u).map (·.gid), core := (t.coreOf u).getD 0, handle := h, hidx := hi, off, dst,
        words := n, scope := s.ir.c.immVal % 8, landing := l, done := 0, skipped := false, pline := none, fail := none }
    let entered : Landing → State := fun l => { t1 with fresh := t1.fresh + 1, pstbs := t1.pstbs.put t1.fresh (op l) }
    Executes s u shDAB → Delivers s u shDAB .offset v t → (v.a m).poison = false → (v.b m).poison = false →
    (Hnd.space h ≠ 7 ∧ Hnd.space h ≠ 3 ∧ Hnd.space h ≠ 5 ∧ Hnd.space h ≠ 6) → Hnd.kind h ≠ 4 →
    ¬(sideOf u = .exec ∧ globalSpace (Hnd.space h) = true ∧ isReg s.ir.b = true) →
    (sideOf u = .queue → globalSpace (Hnd.space h) = true) → rangeOk h off (4 * n) = true → bits w 15 14 = 0 → bits w 31 28 = 0 →
    dst % 4 = 0 → dst + 4 * n ≤ 16384 →
    (∀ l, noPort s.ir.d = true → landD t = .ok (l, t1) → exec .pstb s = .next (s.closed (entered l) u .pstb shDAB)) ∧
    ∀ tm tid k p, u = .ex tm tid → portOf s.ir.d = some k → t.ports.find (portKey (stripKey tm (tid / 16)) k) = some p →
      s.pcAt u < 2 ^ 64 → pushRoom k p (p.pos.getD (tid % 16) 0) false t = .ok ((), t1) →
      exec .pstb s = .next (s.closed ((entered (.push tm tid k)).stays tm tid .pstb s.ir (s.pcAt u) .result) u .pstb shDAB)) ∧
  (∀ (s : State) (n k : Nat) (p : PstbOp), s.pstbs.find n = some p → s.running p.ctx = true →
    (s.occ = .num n → exec .pstbComplete s = .next (s.pstbWords n 4097)) ∧
    (s.occ = .num2 n k → exec .pstbComplete s = .next (s.pstbWords n k))) ∧
  (∀ (s t : State) (n k v : Nat) (p : PstbOp) (bad : List (Nat × Nat)), s.pstbs.find n = some p →
    (p.fail.isSome = true ∨ p.words ≤ p.done → s.pstbWords n (k + 1) = s.pstbEnd n p) ∧
    (p.fail = none → p.done < p.words →
      s.rowAccess n p.owner p.hidx p.handle (p.off + 4 * p.done) 4 false 0 [] = .ok v bad t →
      let x := t.pstbWord p v (!bad.isEmpty)
      let p' : PstbOp := { p with done := p.done + 1, skipped := p.skipped || x.2,
                                  pline := if !bad.isEmpty && p.pline.isNone then some (p.done * 4 / 64) else p.pline }
      s.pstbWords n (k + 1) = ({ x.1 with pstbs := x.1.pstbs.put n p' } : State).pstbWords n k)) ∧
  -- one word of a PSTB reaches exactly the stores of its scope that its context may write, and skips the others
  ∀ (s : State) (p : PstbOp) (v c : Nat), s.memWf = true → v < 2 ^ 32 → p.dst + 4 * p.done + 4 ≤ 16384 → (s.pstbCores p).Nodup →
    (c ∈ s.pstbCores p → s.bcsFree c p.ctx = true →
      (s.pstbWord p v false).1.readStore (Loc.bcs c (p.dst + 4 * p.done)).key 4 = (v, false)) ∧
    (c ∉ s.pstbCores p ∨ s.bcsFree c p.ctx = false → ∀ o, o < 16384 →
      Memory.read (s.pstbWord p v false).1.mem (Loc.bcs c o).key = Memory.read s.mem (Loc.bcs c o).key) ∧
    ((s.pstbWord p v false).2 = true ↔ ∃ c ∈ s.pstbCores p, s.bcsFree c p.ctx = false))

/-- The remote instructions: RLQ reserves rows as LQ and LQG do, RLDW and RATOM send a request a lane and wait for every answer, RST
enters the unit's buffer once its own checks have passed, RFENCE waits for the peer accesses it names (R260-R265). A poisoned device of
RFENCE names device 0 (DEDUCED, log entry 19). -/
def Obligations.RemoteInstructionsComplete : Prop :=
  (∀ (s t t1 : State) (tm sp n : Nat) (p q : Port) (x : ApThread) (v : Opnds) (ps : List (Nat × Spot)),
    let u : Agent := .ap tm sp
    let sh : Shape := { d := 0, a := 0, c := 0 }
    let key := portKey (stripKey tm sp) n
    let act := (apGuard x s.ir).bits
    let elem := p.mode == .elem
    let want := rlqWant s.ir.x8.toNat (if elem then p.bytes else 64)
    let reserve := fun (rows : List (List Slot)) =>
      ({ t1 with ports := t1.ports.put key { q with rows := q.rows ++ rows, reserve := q.reserve + rows.length } } :
        State).retireIdle tm sp key
    let send := fun (r : State) (xs : List (Spot × Nat × Landing)) => r.injectAll (xs.map (fun x =>
      portLoad r u (.unit u) (s.pcAt u) (r.finishSpot (r.ctxOf u) x.1 .rd) x.1 .load x.2.1 x.2.2))
    let row : List Slot := (List.range 16).map (fun l => if act.getLsbD l then .pending else .data 0 false)
    let blank : List Slot := List.replicate 16 .pending
    let k := (laneList act).length
    Executes s u sh → s.aps.find (stripKey tm sp) = some x → objPort s.ir.d = n → s.ports.find key = some p → p.kind = .acc →
    s.pcAt u < 2 ^ 64 → t1.ports.find key = some q → q.past q.reserve = false → checkPorts sh (s.past u) = .ok ((), s.past u) →
    Delivers s u sh .offset v t → spots want v (laneList act) true false false t = .ok (ps, t1) →
    (p.mode ≠ .sline → q.reserve + 1 ≤ q.head + q.depth →
      exec .rlq s = .next (s.closed (send (reserve [row]) (ps.map (fun y => (y.2, y.1, .port key q.reserve y.1)))) u .rlq sh)) ∧
    (p.mode = .sline → q.reserve + k ≤ q.head + q.depth →
      exec .rlq s = .next (s.closed (send (reserve (List.replicate k blank))
        (ps.zipIdx.map (fun y => (y.1.2, y.1.1, .line key (q.reserve + y.2))))) u .rlq sh))) ∧
  (∀ q ∈ [(Instr.rldw, kRead, [0, 1, 2, 3], Need.rd), (.ratom, kTile, [2, 3], .both)],
    ∀ (s t t1 : State) (tm sp : Nat) (x : ApThread) (v : Opnds) (rs : List (Nat × Acc)),
    let i := q.1
    let u : Agent := .ap tm sp
    let load := i == .rldw
    let cas := s.ir.sel.toNat == 9
    let size := 2 ^ Hnd.ew (s.handleOf u s.ir.x8.toNat)
    let sh : Shape := if load then { d := 1, a := 0, b := 1, c := 0 } else { d := 1, a := 1, b := 1, c := if cas then 1 else 0 }
    let vec := isVec s.ir.d
    let v' : Opnds := if load || !cas then v else { v with a := fun l => { v.a l with poison := (v.a l).poison || (v.c l).poison } }
    let kind := fun (l : Nat) => if load then ReqKind.load
      else .atomic s.ir.sel.toNat (8 * size) (v'.a l).bits (if cas then (v'.c l).bits else 0) true
    Executes s u sh → s.pcAt u < 2 ^ 64 → s.aps.find (stripKey tm sp) = some x → x.blk = none → Delivers s u sh .offset v t →
    accesses (remoteWant s.ir.x8.toNat size q.2.1 q.2.2.1 q.2.2.2) v' (if vec then laneList (apGuard x s.ir).bits else [t.lead u])
      vec (!load) false t = .ok (rs, t1) → t1.replyRoom u (if load then 0 else rs.length) = true →
    exec i s = .next (s.sendBlock tm sp i (rs.map (fun y => (y.1, t1.reqOf u y.2 (kind y.1) (s.pcAt u) (recLane vec y.1) .none))))) ∧
  (∀ i ∈ [Instr.rldw, .ratom], ∀ (s t t' : State) (tm sp : Nat) (x : ApThread) (b : Block) (v : Opnds),
    let u : Agent := .ap tm sp
    let size := 2 ^ Hnd.ew (s.handleOf u s.ir.x8.toNat)
    let sh : Shape := if i = .rldw then { d := 1, a := 0, b := 1, c := 0 }
      else { d := 1, a := 1, b := 1, c := if s.ir.sel.toNat == 9 then 1 else 0 }
    Executes s u sh → s.aps.find (stripKey tm sp) = some x → x.blk = some b → b.answered → Delivers s u sh .offset v t →
    Writes (t.modAp tm sp (fun x => { x with blk := none })) s.ir.d 1
      (fun l => loaded (s.handleOf u s.ir.x8.toNat) true size 64 (b.values l)) t' →
    exec i s = .next (s.closed t' u i sh)) ∧
  (∀ (s t t1 : State) (tm sp : Nat) (x : ApThread) (v : Opnds) (rs : List (Nat × Acc)),
    let u : Agent := .ap tm sp
    let size := 2 ^ Hnd.ew (s.handleOf u s.ir.x8.toNat)
    let sh : Shape := { d := 0, a := 1, b := 1, c := 0 }
    let vec := isVec s.ir.a || isVec s.ir.b
    let qs := rs.map (fun y => (y.1, t1.reqOf u y.2 (.store ((v.a y.1).bits.toNat % 2 ^ (8 * size)) false) (s.pcAt u) (recLane vec y.1) .none))
    Executes s u sh → s.pcAt u < 2 ^ 64 → s.aps.find (stripKey tm sp) = some x → Delivers s u sh .offset v t →
    accesses (remoteWant s.ir.x8.toNat size kTile [0, 1, 2, 3] .wr) v (if vec then laneList (apGuard x s.ir).bits else [t.lead u])
      vec true false t = .ok (rs, t1) →
    (∀ q ∈ qs, requesterSide vec q t1 = .ok ((), t1)) →
    exec .rst s = .next (s.closed (qs.foldl (fun t q => ({ t with fresh := t.fresh + 1 } : State).modCtl u (fun c =>
      { c with sbuf := c.sbuf.put t.fresh { q.2 with rst := true } })) t1) u .rst sh)) ∧
  ∀ (s t t' : State) (u : Agent) (c : Ctl) (v : Opnds),
    let sh : Shape := { d := 0, a := 0, c := 0 }
    let sem := s.ir.a.immVal % 4
    let one := if s.ir.x8.toNat % 2 = 1 then some ((heldVal (v.b (t.lead u))).bits.toNat % 4096) else none
    Executes s u sh → Delivers s u sh .int v t → t.ctl u = some c → t.remoteFenced u one sem = true →
    (sem ≠ 1 → ∀ d ∈ c.deferred, d.kind ≠ 1 ∧ d.cls ≠ 2) → (if sem = 2 then t' = t else renewL1 5 t = .ok ((), t')) →
    exec .rfence s = .next (s.closed t' u .rfence sh)

/-! ### The Ladle -/

/-- LADLE and LRESUME read the progress record and both layouts and answer 0x93, 0x9A, 0x90, 0x91 or a code of R285, or write total and
digest, take one of the four slots, waiting where none is free, and begin the plan: the record is in state 1, and the coordinator takes up the
done messages that came before. LSTAT reads a field of the
record, LABORT stops the plan that runs on it and answers 0x9B where there is none (R285-R287). The model's readings (DEDUCED, log entry
37): a plan that waits for a slot has no state and LABORT does not find it, LRESUME takes up the poison and the done messages of the
stopped plan, and done messages that no running plan takes are kept. -/
def Obligations.LadleInstructionsComplete : Prop :=
  (∀ q ∈ [(Instr.ladle, false), (.lresume, true)], ∀ (s t t1 t2 t3 t' : State) (u : Agent) (v : Opnds) (ha sa da : Acc) (hdr x y : Nat),
    let i := q.1
    let hi := s.ir.x8.toNat
    let st := Prog.state hdr
    let bad := if Prog.malformed hdr then 0x93 else if (if q.2 then st != 2 && st != 5 else st != 0) then 0x9A else 0
    let out := fun (r : State) (code : Nat) => Writes r s.ir.d 1 (fun _ => ⟨statusWord code 0 0, false⟩) t'
    let fin := exec i s = .next (s.closed t' u i {})
    let m := t.lead u
    Executes s u {} → Delivers s u {} .offset v t → t.queuedPlan u = none → (v.a m).poison = false → (v.b m).poison = false →
    (v.c m).poison = false → ladleAcc hi 64 v v.b .rd t = .ok (ha, t) → ladleAcc hi 256 v v.a .rd t = .ok (sa, t) →
    ladleAcc hi 256 v v.c .rd t = .ok (da, t) → loadNow ha t = .ok (hdr, t1) → loadNow sa t1 = .ok (x, t2) →
    loadNow da t2 = .ok (y, t3) →
    (bad ≠ 0 → out t3 bad → fin) ∧
    ∀ (t4 t5 : State), bad = 0 →
      (loadLayout hi x false t3 = .ok (none, t4) → out t4 0x90 → fin) ∧
      ∀ (src : Layout), loadLayout hi x false t3 = .ok (some src, t4) →
        (loadLayout hi y true t4 = .ok (none, t5) → out t5 0x90 → fin) ∧
        ∀ (dst : Layout), loadLayout hi y true t4 = .ok (some dst, t5) →
          let same := TLR.rank src.tlr = TLR.rank dst.tlr ∧ TLR.fmt src.tlr = TLR.fmt dst.tlr ∧ fld src.tlr 255 0 = fld dst.tlr 255 0
          let pair := t5.handleOf u (Prog.shh hdr)
          let tag : W64 := BitVec.ofNat 64 (Prog.tag hdr)
          let total := chunkTotal (regions src dst (Prog.csz hdr) t5.mgmt.fid)
          let digest := planDigest src dst (Prog.csz hdr) tag
          let code := t5.planCheck (t5.ctxOf u) pair src dst hdr total digest q.2
          (¬same → out t5 0x91 → fin) ∧ (same → code ≠ 0 → out t5 code → fin) ∧
          ∀ (set0 : NatSet) (t6 t7 : State), same → code = 0 →
            (if q.2 then loadBits hi (t5.handleOf u hi) (ha.loc - Hnd.base (t5.handleOf u hi)) 0 ((total + 7) / 8) t5 = .ok (set0, t6)
              else set0 = [] ∧ t6 = t5) →
            let old := if q.2 then (t5.context (t5.ctxOf u)).stopped.get ha.addr (false, []) else (false, [])
            let id := t6.fresh
            let p : Plan :=
              { owner := u, ctx := t5.ctxOf u, gid := (t6.teamOf u).map (·.gid), core := (t5.coreOf u).getD 0,
                handle := t5.handleOf u hi, hidx := hi, hdr := ha.loc - Hnd.base (t5.handleOf u hi), hdrIA := ha.addr, src, dst, pair,
                shh := Prog.shh hdr, csz := Prog.csz hdr, tag, digest := BitVec.ofNat 64 digest, total, bits := set0.filter (· < total),
                send := [], inbox := [], stage := .queued, pois := old.1, heard := old.2, answered := [], landing := .none }
            let ws := if q.2 then [] else [putField 16 4 total, putField 24 8 digest]
            t6.replyRoom u 1 = true → beginRecord id p ws { t6 with fresh := id + 1 } = .ok ((), t7) →
            let w : State := { t7 with plans := t7.plans.put id p }
            let running := (w.plans.filter (fun z => z.2.stage != .queued)).length
            (∀ (t8 t9 : State) (l : Landing), running < 4 → landD w = .ok (l, t8) → beginRecord id p [putField 10 1 1] t8 = .ok ((), t9) →
              exec i s = .next (s.closed ((t9.modPlan id (fun _ => { p with landing := l, stage := .sending })).takeDones id p) u i {})) ∧
            ∀ r, 4 ≤ running → s.recPuts id p ws s = .ok r →
              exec i s = .next (s.closed (({ r with plans := w.plans, fresh := w.fresh } : State).setWait u .plan) u i {})) ∧
  -- a unit that has waited for a slot begins its plan once one is free
  (∀ i ∈ [Instr.ladle, .lresume], ∀ (s t t8 t9 : State) (u : Agent) (v : Opnds) (id : Nat) (p : Plan) (l : Landing),
    Executes s u {} → Delivers s u {} .offset v t → t.queuedPlan u = some (id, p) →
    (t.plans.filter (fun z => z.2.stage != .queued)).length < 4 → landD t = .ok (l, t8) →
    beginRecord id p [putField 10 1 1] t8 = .ok ((), t9) →
    exec i s = .next (s.closed ((t9.modPlan id (fun _ => { p with landing := l, stage := .sending })).takeDones id p) u i {})) ∧
  (∀ (s t t1 t2 t' : State) (u : Agent) (v : Opnds) (a : Acc) (h : Nat) (po : Bool),
    let sh : Shape := { a := 0, c := 0 }
    let sel := s.ir.c.immVal % 4
    let r := match sel, t2.planAt (t2.ctxOf u) a.addr with
      | 0, some (_, p) => p.state
      | 0, none => bits h 87 80
      | 1, some (_, p) => p.bits.length
      | 1, none => bits h 191 160
      | 2, some (_, p) => p.total
      | 2, none => bits h 159 128
      | _, some (_, p) => (match p.stage with
        | .ending _ (some f) _ => f
        | _ => bits h 95 88)
      | _, none => bits h 95 88
    Executes s u sh → s.pcAt u < 2 ^ 64 → Delivers s u sh .offset v t → ladleAcc s.ir.x8.toNat 64 v v.b .rd t = .ok (a, t) →
    doNowN (t.reqOf u a .load (s.pcAt u) 255 .none) t = .ok ((h, po), t1) → acquire 4 t1 = .ok ((), t2) →
    Writes t2 s.ir.d 1 (fun _ => heldVal ⟨BitVec.ofNat 64 r, po⟩) t' → exec .lstat s = .next (s.closed t' u .lstat sh)) ∧
  ∀ (s t t' : State) (u : Agent) (v : Opnds) (a : Acc),
    let sh : Shape := { a := 0, c := 0 }
    let out := fun (r : State) (code : Nat) => Writes r s.ir.d 1 (fun _ => ⟨statusWord code 0 0, false⟩) t'
    let fin := exec .labort s = .next (s.closed t' u .labort sh)
    Executes s u sh → Delivers s u sh .offset v t → ladleAcc s.ir.x8.toNat 64 v v.b .rd t = .ok (a, t) →
    ((∀ q, t.planAt (t.ctxOf u) a.addr = some q → q.2.live = false) → out t 0x9B → fin) ∧
    ∀ (n : Nat) (p : Plan) (t1 : State), t.planAt (t.ctxOf u) a.addr = some (n, p) → p.live = true →
      beginRecord n p [putField 10 1 2, putField 11 1 0x95] t = .ok ((), t1) → out (t1.planEnd n p 2 (some 0x95) 0x95) 0 → fin

/-- The events of a plan: a chunk that may go is read and sent, or lands here; its receiver answers busy, mismatch or ack as R282 says; busy
doubles the backoff up to 2^20 clocks, mismatch fails the plan with 0x96, ack sets the chunk's bit; a chunk without an answer fails it with
0x97; done, commit, published and finished pass as R283 says, or are answered with not-ready while this device has no fabric id (R272), and
the plan ends in state 4. A peer request without an answer in time fails with REMOTE 2 (R266). The model's readings (DEDUCED, log entry 37):
a chunk is first sent by LADLE_BUSY_RETRY, a done that no running plan takes is kept, no answer and a refusal give 0x97, PUBL's failure is
the fcode, and an end whose record's page is in transit waits for it; that a poisoned chunk gives 0x11 on the device that wrote it alone,
that 0x98 and 0x99 write state 5, that a message without a route fails or is dropped, and that the clocks of a remote request count from its
sending are its choices (DESIGN CHOICE, log entry 59). -/
def Obligations.LadleEventsComplete : Prop :=
  (∀ (s t u : State) (n g : Nat) (p : Plan) (r : Region) (data : List Byte) (bad : List Nat),
    let src := p.src.devs.getD r.s (0, 0)
    let dst := (p.dst.devs.getD r.d (0, 0)).1
    let back := (p.send.find g).elim 512 (·.backoff)
    s.occ = .num2 n g → s.plans.find n = some p → p.regionOf s.mgmt.fid g = some r → s.running p.ctx = true → p.stage = .sending →
    src.1 = s.mgmt.fid → p.bits.has (r.local' + (g - r.first)) = false →
    (∀ x, p.send.find g = some x → x.awaited = false ∧ x.clock ≤ s.now) →
    s.chunkRead n p src.2 (TLR.elem p.dst.tlr) (p.elems r g) 0 s [] [] = .ok data bad t →
    (dst = s.mgmt.fid → t.takeChunk n p r g data bad = (some u, false, u) → exec .ladleBusyRetry s = .next u) ∧
    (dst ≠ s.mgmt.fid → t.ladleSend n dst clsRequest (.chunk dst p.tag p.digest g data bad) = some u →
      exec .ladleBusyRetry s = .next (u.modPlan n (fun p => { p with send := p.send.put g { awaited := true, clock := s.now, backoff := back } })))) ∧
  (∀ (s : State) (src g : Nat) (tag digest : W64) (data : List Byte) (bad : List Nat),
    let mine := s.plans.filter (fun q => q.2.tag == tag && s.planRuns q.2)
    s.occ = .chunk src tag digest g data bad →
    (s.mgmt.fidSet = false → exec .ladleChunkArrival s = .next (s.sendBack src (.answer src tag g .remote))) ∧
    (s.mgmt.fidSet = true →
    (mine = [] → exec .ladleChunkArrival s = .next (s.sendBack src (.answer src tag g .busy))) ∧
    (mine ≠ [] → (∀ q ∈ mine, q.2.digest ≠ digest) → exec .ladleChunkArrival s = .next (s.sendBack src (.answer src tag g .mismatch))) ∧
    ∀ n p r, mine.find? (fun q => q.2.digest == digest) = some (n, p) → p.regionOf s.mgmt.fid g = some r →
      (p.dst.devs.getD r.d (0, 0)).1 = s.mgmt.fid →
      (p.bits.has (r.local' + (g - r.first)) = true → exec .ladleChunkArrival s = .next (s.sendBack src (.answer src tag g .ack))) ∧
      (∀ t, p.bits.has (r.local' + (g - r.first)) = false → s.takeChunk n p r g data bad = (some t, false, t) →
        exec .ladleChunkArrival s = .next (t.sendBack src (.answer src tag g .ack))) ∧
      (∀ t, p.bits.has (r.local' + (g - r.first)) = false → s.takeChunk n p r g data bad = (none, false, t) →
        (∀ x ∈ p.inbox, x.index ≠ g) → exec .ladleChunkArrival s = .next
          ((t.modPlan n (fun p => { p with inbox := p.inbox ++ [⟨src, g, data, bad⟩] })).sendBack src (.answer src tag g .parked))))) ∧
  (∀ (s : State) (n g : Nat) (p : Plan) (x : Inbox), s.occ = .num2 n g → s.plans.find n = some p → s.planRuns p = true →
    p.inbox.find? (fun x => x.index == g) = some x →
    exec .ladleChunkArrival s = .next (s.ladleChunk x.src p.tag p.digest g x.data x.bad)) ∧
  (∀ (s : State) (n g : Nat) (p : Plan) (x : Sending) (r : Region) (a : LadleAnswer), s.occ = .answer n g a → s.plans.find n = some p →
    p.send.find g = some x → p.regionOf s.mgmt.fid g = some r → s.planRuns p = true → x.awaited = true →
    let b := min (2 * x.backoff) (2 ^ 20)
    (a = .busy → exec .ladleChunkAnswer s = .next (s.modPlan n (fun p =>
      { p with send := p.send.put g { awaited := false, clock := s.now + b, backoff := b } }))) ∧
    (a = .mismatch → exec .ladleChunkAnswer s = .next (s.planFail n p 0x96)) ∧
    (a = .remote → exec .ladleChunkAnswer s = .next (s.planFail n p 0x97)) ∧
    (a = .parked → exec .ladleChunkAnswer s = .next (s.modPlan n (fun p => { p with send := p.send.put g { x with parked := true } }))) ∧
    (∀ t, a = .ack → s.setChunk n p (r.local' + (g - r.first)) g false = .ok t → exec .ladleChunkAnswer s = .next t) ∧
    ∀ t, a = .ack → s.setChunk n p (r.local' + (g - r.first)) g false = .wait t → exec .ladleChunkAnswer s = .next
      (t.modPlan n (fun p => { p with send := p.send.alter g (fun x => { x with acked := true }) }))) ∧
  (∀ (s t : State) (n g : Nat) (p : Plan) (x : Sending) (r : Region), s.occ = .num2 n g → s.plans.find n = some p →
    p.send.find g = some x → p.regionOf s.mgmt.fid g = some r → s.planRuns p = true → x.acked = true →
    s.setChunk n p (r.local' + (g - r.first)) g false = .ok t → exec .ladleChunkAnswer s = .next t) ∧
  (∀ (s : State) (n g : Nat) (p : Plan) (x : Sending), s.occ = .num2 n g → s.plans.find n = some p → p.send.find g = some x →
    s.planRuns p = true → x.awaited = true →
    (x.parked = false → x.acked = false → x.clock + 4194304 ≤ s.now → exec .remoteTimeout s = .next (s.planFail n p 0x97)) ∧
    (x.parked = true ∨ x.acked = true ∨ s.now < x.clock + 4194304 → exec .remoteTimeout s = .next s)) ∧
  (∀ (s : State) (n dev ia dl link : Nat) (r : Req), s.occ = .num n → s.reqs.find n = some r →
    r.phase = .remote dev ia dl link → dl ≤ s.now →
    exec .remoteTimeout s = .next { s with reqs := s.reqs.put n { r with phase := .failed { tinfo 0x50 2 with
      handle := BitVec.ofNat 8 r.handle, loc := BitVec.ofNat 64 ia, lane := r.laneNo } } }) ∧
  (∀ (s : State) (n dev ia link : Nat) (r : Req), s.reqs.find n = some r → r.phase = .remoteParked dev ia link →
    (s.occ = .num n → exec .remoteTimeout s = .next s) ∧
    (s.occ = .nums [n] → exec .remoteTimeout s = .next { s with reqs := s.reqs.put n { r with phase := .failed { tinfo 0x50 2 with
      handle := BitVec.ofNat 8 r.handle, loc := BitVec.ofNat 64 ia, lane := r.laneNo } } })) ∧
  (∀ (s : State) (n st code : Nat) (f : Option Nat) (p : Plan), s.occ = .num n → s.plans.find n = some p → p.stage = .ending st f code →
    exec .ladleFinished s = .next (s.planEnd n p st f code)) ∧
  (∀ (s t : State) (n : Nat) (p : Plan),
    let p' : Plan := { p with stage := .agreeing }
    let r := t.modPlan n (fun _ => p')
    s.occ = .num n → s.plans.find n = some p → s.running p.ctx = true → p.stage = .sending → p.bits.length = p.total →
    s.recPuts n p [putField 10 1 3] s = .ok t →
    (p.coord = s.mgmt.fid → exec .ladleDone s = .next (r.heardDone n p' s.mgmt.fid)) ∧
    ∀ z, p.coord ≠ s.mgmt.fid → r.ladleSend n p.coord clsRequest (.done p.coord p.tag) = some z → exec .ladleDone s = .next z) ∧
  -- without a fabric id every message of the round is answered with not-ready
  (∀ i ∈ [Instr.ladleDone, .ladleCommit, .ladlePublished, .ladleFinished], ∀ (s : State) (src : Nat) (tag : W64), s.occ = .ladle src tag →
    s.mgmt.fidSet = false → exec i s = .next (s.sendBack src (.unready src tag.toNat))) ∧
  -- done that comes while no plan with its tag runs is kept, and the coordinator's plan takes it up when it begins
  (∀ (s : State) (src : Nat) (tag : W64), s.occ = .ladle src tag → s.mgmt.fidSet = true → s.planTagged tag = none →
    exec .ladleDone s = .next (if (src, tag) ∈ s.dones then s else { s with dones := s.dones ++ [(src, tag)] })) ∧
  (∀ (s : State) (n src : Nat) (p : Plan), s.plans.find n = some p → p.coord = s.mgmt.fid → ∃ q, (s.takeDones n p).plans.find n = some q ∧
    { q with heard := p.heard } = p ∧ (src ∈ p.devices → (src, p.tag) ∈ s.dones → src ∈ q.heard) ∧
    ∀ x ∈ (s.takeDones n p).dones, x ∈ s.dones ∧ ¬(x.2 = p.tag ∧ x.1 ∈ p.devices)) ∧
  (∀ (s : State) (src n : Nat) (tag : W64) (p : Plan), s.occ = .ladle src tag → s.mgmt.fidSet = true → s.planTagged tag = some (n, p) →
    p.coord = s.mgmt.fid → src ∈ p.devices →
    exec .ladleDone s = .next (s.heardDone n p src) ∧ exec .ladlePublished s = .next (s.heardPublished n p src)) ∧
  -- the coordinator sends commit once it holds done from all, and the same again to a device that sends done again; and finished once
  -- every device has answered
  (∀ (s : State) (n src : Nat) (p : Plan),
    let p' : Plan := { p with heard := p.heard.add src }
    let r := s.modPlan n (fun _ => p')
    let all := p.devices.all (fun d => p'.heard.has d)
    (p.stage = .agreeing → all = false → s.heardDone n p src = r) ∧
    (∀ t, p.stage = .agreeing → all = true → r.tellAll n p' (fun d => .commit d p.tag) = some t →
      s.heardDone n p src = t.modPlan n (fun p => { p with stage := .committed })) ∧
    (∀ t, p.stage ∈ [.committed, .published] → r.ladleSend n src clsRequest (.commit src p.tag) = some t → s.heardDone n p src = t)) ∧
  (∀ (s : State) (n src : Nat) (p : Plan),
    let p' : Plan := { p with answered := p.answered.add src }
    let r := s.modPlan n (fun _ => p')
    let all := p.devices.all (fun d => p'.answered.has d)
    (all = false → s.heardPublished n p src = r) ∧
    (∀ t, all = true → r.tellAll n p' (fun d => .finished d p.tag) = some t → s.heardPublished n p src = t)) ∧
  (∀ (s : State) (src n : Nat) (tag : W64) (p : Plan), s.occ = .ladle src tag → s.mgmt.fidSet = true → s.planTagged tag = some (n, p) →
    p.coord ≠ s.mgmt.fid →
    (p.stage = .agreeing → let r := s.modPlan n (fun p => { p with stage := .committed })
      exec .ladleCommit s = .next ((r.ladleCommit n).getD r)) ∧
    (p.stage = .published → exec .ladleFinished s = .next (s.planEnd n p 4 none (if p.pois then 0x11 else 0)))) ∧
  (∀ (s : State) (n : Nat) (p : Plan),
    let p' : Plan := { p with stage := .published }
    let say := fun (t : State) => let r := t.modPlan n (fun _ => p')
      if p.coord = s.mgmt.fid then r.heardPublished n p' s.mgmt.fid
      else (r.ladleSend n p.coord clsRequest (.published p.coord p.tag)).getD r
    s.occ = .num n → s.plans.find n = some p → s.running p.ctx = true → p.stage = .committed →
    ((∀ d ∈ p.dst.devs, d.1 ≠ s.mgmt.fid) → exec .ladleCommit s = .next (say s)) ∧
    (∀ t, (∃ d ∈ p.dst.devs, d.1 = s.mgmt.fid) → s.publish p.ctx p.pair = .done 0 t → exec .ladleCommit s = .next (say t)) ∧
    ∀ code t, code ≠ 0 → (∃ d ∈ p.dst.devs, d.1 = s.mgmt.fid) → s.publish p.ctx p.pair = .done code t →
      exec .ladleCommit s = .next (t.planFail n p code)) ∧
  (∀ (s : State) (n : Nat) (p : Plan), s.occ = .num n → s.plans.find n = some p → s.running p.ctx = true → p.coord = s.mgmt.fid →
    p.stage = .published → (∀ d ∈ p.devices, p.answered.has d = true) →
    exec .ladleFinished s = .next (s.planEnd n p 4 none (if p.pois then 0x11 else 0))) ∧
  -- the chunks of a plan tile each of its regions: every element of a box lies in exactly one chunk, at one place of it
  ∀ (p : Plan) (r : Region), 1 ≤ 2 ^ p.csz / TLR.elem p.dst.tlr →
    r.n = (boxSize r.box + 2 ^ p.csz / TLR.elem p.dst.tlr - 1) / (2 ^ p.csz / TLR.elem p.dst.tlr) →
    ((List.range r.n).flatMap (fun c => p.elems r (r.first + c))) =
      (List.range (boxSize r.box)).map (fun i => (TLR.place p.src.tlr r.s (boxElem r.box i), TLR.place p.dst.tlr r.d (boxElem r.box i)))

/-! ### Queue engines -/

/-- LAUNCH and LAUNCHI read a launch record, give the new grid's number, and enter a grid that waits for its placement, or that has failed
with the code of R330; one whose count or table lies on a page in transit parks and keeps what it has
read, so that each load and each table entry is read once (R137, R333, R427), and what a halted engine had read is dropped (DEDUCED, log
entry 33). WAITG gives the status word of a
grid that has completed, or 0xA5 (R334). -/
def Obligations.LaunchesComplete : Prop :=
  (∀ q ∈ [(Instr.launch, false), (.launchi, true)], ∀ (s t t1 : State) (n x lrec : Nat) (k : Launching) (v : Opnds) (e : Engine),
    let u : Agent := .qe n
    let sh : Shape := { a := 0, c := if q.2 then 1 else 0 }
    let h := s.ir.x8.toNat
    let key := e.gridKey n e.seq
    let grid := fun (cnt : Nat) (hs : List Handle) (ps : List W32) (st : Option W64) =>
      ({ ctx := e.ctx, engine := n, record := k.record, lrec := k.lrec, count := cnt, handles := hs, ports := ps,
         posted := t.now, status := st } : Grid)
    Executes s u sh → Delivers s u sh .offset v t → t.openGrids n < 64 → release t = .ok ((), t) → t.engines.find n = some e →
    (e.launch = some k ∧ t1 = t ∨ e.launch = none ∧ (v.b 0).poison = false ∧ (q.2 = true → (v.c 0).poison = false) ∧
      (v.b 0).bits.toNat % 128 = 0 ∧ launchRead h 128 (v.b 0) t = .ok ((x, lrec), t1) ∧
      k = ⟨BitVec.ofNat 1024 x, lrec, if q.2 then none else some (LRec.count (BitVec.ofNat 1024 x)), [], []⟩) →
    (∀ page cause sz w, k.count = none → (v.c 0).bits.toNat % 4 = 0 → launchRead h 4 (v.c 0) t1 = .error (.park page cause sz w) →
      s.pcAt u < 2 ^ 64 → ∃ z d, exec q.1 s = .next z ∧ z.engines.find n = some d ∧ d.launch = some k ∧
        d.ctl.pc = s.pcAt u ∧ d.seq = (t1.engineRec n).seq ∧ d.ctl.status = .waiting (.page page) t1.now ∧ z.grids = t1.grids) ∧
    ∀ (cnt ia : Nat) (t2 t3 : State), (k.count = some cnt ∧ t2 = t1 ∨
      k.count = none ∧ (v.c 0).bits.toNat % 4 = 0 ∧ launchRead h 4 (v.c 0) t1 = .ok ((cnt, ia), t2)) →
    Writes t2 s.ir.d 1 (fun _ => Val.of (BitVec.ofNat 64 (key % 2 ^ 32))) t3 →
    let z := t3.modEngine n (fun e => { e with seq := e.seq + 1, launch := none })
    (∀ hs ps w, z.launchChecks n e.ctx k cnt = .ok hs ps w → exec q.1 s =
      .next { w with grids := w.grids.put key (grid cnt hs ps (if cnt = 0 then some (gridStatus 0 0 0) else none)) }) ∧
    (∀ code detail w, z.launchChecks n e.ctx k cnt = .fails code detail w → exec q.1 s =
      .next { w with grids := w.grids.put key (grid cnt [] [] (some (gridStatus code detail 0))) }) ∧
    (∀ k' page cause sz, z.launchChecks n e.ctx k cnt = .park k' page cause sz → s.pcAt u < 2 ^ 64 → ∃ w d, exec q.1 s = .next w ∧
      w.engines.find n = some d ∧ d.launch = some k' ∧ d.ctl.pc = s.pcAt u ∧ d.seq = (t3.engineRec n).seq ∧
      d.ctl.status = .waiting (.page page) t3.now ∧ w.grids = t3.grids)) ∧
  (∀ (s : State) (n ctx cnt d : Nat) (k : Launching), recordFault k.record = some d → s.launchChecks n ctx k cnt = .fails 0xA3 d s) ∧
  (∀ (s : State) (n ctx cnt page cause sz : Nat) (k k' : Launching), s.launchChecks n ctx k cnt = .park k' page cause sz →
    k'.record = k.record ∧ k'.lrec = k.lrec ∧ k'.count = some cnt ∧ k.ports <+: k'.ports ∧ k.handles <+: k'.handles) ∧
  (∀ (s : State) (n code : Nat) (e : Engine), s.engines.find n = some e → ∃ d, (s.haltEngine n code).engines.find n = some d ∧
    d.launch = none) ∧
  ∀ (s t t' : State) (n : Nat) (v : Opnds),
    let u : Agent := .qe n
    let sh : Shape := { b := 0, c := 0 }
    let found := (t.gridNamed (t.ctxOf u) ((v.a 0).bits.toNat % 2 ^ 32)).bind (fun k => t.grids.find k)
    let out := fun (x : Val) => Writes t s.ir.d 1 (fun _ => x) t'
    Executes s u sh → Delivers s u sh .int v t →
    ((v.a 0).poison = true → out Val.bad → exec .waitg s = .next t') ∧
    ((v.a 0).poison = false → found = none → out (Val.of (gridStatus 0xA5 0 0)) → exec .waitg s = .next t') ∧
    ((v.a 0).poison = false → ∀ g w, found = some g → g.status = some w → out (Val.of w) → exec .waitg s = .next t') ∧
    ((v.a 0).poison = false → ∀ g, found = some g → g.status = none → exec .waitg s = .next (s.setWait u .grids))

/-- The other instructions of queue programs: SEMW, SEMSET, SEMINC, IRQ, JMPQ, CALLQ, RETQ, FENCEQ, HALTQ and KICKQ (R335-R337). RETQ with
an empty stack halts with code 5 and keeps its pc (DEDUCED, log entry 33); a poisoned compare value of SEMW reads zero (DEDUCED, log entry
19), and so does a poisoned index of SEMW, SEMSET or SEMINC, vector of IRQ or engine of KICKQ (DEDUCED, log entry 19). -/
def Obligations.QueueProgramsComplete : Prop :=
  (∀ (s t : State) (n : Nat) (v : Opnds),
    let u : Agent := .qe n
    let i := (v.a 0).bits.toNat % 4096
    let x := t.ctxOf u
    let b := (heldVal (v.b 0)).bits
    Executes s u qAB → Delivers s u qAB .int v t →
    (b.toNat ≤ (t.sem x i).toNat → exec .semw s = .next t) ∧
    ((t.sem x i).toNat < b.toNat → exec .semw s = .next (s.setWait u (.sem i b))) ∧
    ((v.b 0).poison = false → release t = .ok ((), t) → exec .semset s = .next (t.setSem x i (v.b 0).bits) ∧
      exec .seminc s = .next (t.setSem x i (t.sem x i + (v.b 0).bits)))) ∧
  (∀ (s t : State) (n : Nat) (v : Opnds),
    let u : Agent := .qe n
    Executes s u qB → Delivers s u qB .int v t → release t = .ok ((), t) →
    exec .irq s = .next { t with irqs := (v.b 0).bits.toNat % 2048 :: t.irqs }) ∧
  (∀ (s t : State) (n loc sp : Nat) (e : Engine),
    let u : Agent := .qe n
    let enter := fun (e : Engine) => ({ e with prog := true, base := loc, fspace := sp, ctl := { e.ctl with pc := loc } } : Engine)
    Executes s u qB → programAt (s.past u) = .ok ((loc, sp), t) → t.engines.find n = some e →
    exec .jmpq s = .next (t.modEngine n enter) ∧
    (e.frames.length < 8 → exec .callq s = .next
      ((t.modEngine n (fun e => { e with frames := (e.prog, e.fspace, e.base, e.ctl.pc) :: e.frames })).modEngine n enter)) ∧
    (8 ≤ e.frames.length → s.pcAt u < 2 ^ 64 → ∃ r d, exec .callq s = .next r ∧ r.engines.find n = some d ∧ d.state = 3 ∧ d.code = 5 ∧
      d.ctl.pc = s.pcAt u ∧ d.frames = e.frames)) ∧
  (∀ (s : State) (n : Nat) (e : Engine),
    let u : Agent := .qe n
    Executes s u noShape → (s.past u).engines.find n = some e →
    (∀ prog fspace base pc rest, e.frames = (prog, fspace, base, pc) :: rest → exec .retq s = .next ((s.past u).modEngine n (fun e =>
      { e with prog, fspace, base, frames := rest, ctl := { e.ctl with pc } }))) ∧
    (e.frames = [] → s.pcAt u < 2 ^ 64 → ∃ r d, exec .retq s = .next r ∧ r.engines.find n = some d ∧ d.state = 3 ∧ d.code = 5 ∧
      d.ctl.pc = s.pcAt u) ∧
    ((s.past u).fenced u 0x7F 0 = true → e.ctl.deferred = [] → exec .fenceq s = .next (s.past u)) ∧
    (e.ctl.sbuf = [] → e.ctl.unack.all (· == 0) = true → exec .haltq s = .next ((s.past u).haltEngine n 1))) ∧
  ∀ (s t : State) (n : Nat) (v : Opnds),
    let u : Agent := .qe n
    let m := (v.a 0).bits.toNat % 32
    let e := t.engineRec m
    Executes s u qAB → Delivers s u qAB .int v t → (v.b 0).poison = false → release t = .ok ((), t) →
    exec .kickq s = .next (if e.en && e.ctx == t.ctxOf u then t.kick m ((v.b 0).bits.setWidth 32) else t)

/-- An engine's registers and ring: a write of kick wakes it; an enable with a good configuration and handle table starts it afresh,
another refuses it with code 7 or 4; a disable idles it at its next instruction boundary (R322, R323); in ring mode it takes the next
packet, sleeps at an empty ring, halts with 2 or 6 on a bad pointer or header, and sleeps 1024 clocks after its last kick where the header
has the other lap bit (R324). Where it is enabled afresh or stops, a plan of
its own that waits for a slot goes. That en = 0 in the middle of a WRSYS takes effect at its end, and what an engine keeps when it is
enabled again, are the model's readings (DEDUCED, log entry 33). -/
def Obligations.EngineEventsComplete : Prop :=
  (∀ (s : State) (n : Nat) (v : W64), s.occ = .write n v → s.mgmt.recov = true →
    exec .kick s = .next s ∧ exec .engineEnable s = .next s ∧ exec .engineDisable s = .next s) ∧
  (∀ (s : State) (n : Nat) (v : W64), s.occ = .write n v → n < 32 → s.mgmt.recov = false →
    let e := s.engineRec n
    let woken := if e.en ∧ e.state = 2 ∧ s.running e.ctx then 1 else e.state
    let kept := e.kept || (e.en && !s.running e.ctx)
    exec .kick s = .next (s.putEngine n { e with kick := v.toNat % 2 ^ 32 / 64 * 64, kickAt := s.now, kept, state := woken })) ∧
  (∀ (s : State) (n : Nat) (v : W64), s.occ = .write n v → n < 32 → s.mgmt.recov = false → v.getLsbD 5 = true →
    let e := s.engineRec n
    let e' : Engine := { e with rlog := fld v 4 0, sup := v.getLsbD 6, ctx := fld v 15 8, hvec := fld v 26 16 }
    let r := s.putEngine n e'
    (e.en = false → r.engineConfigOk n = false → exec .engineEnable s = .next (r.refuseEngine n 7 0)) ∧
    (∀ i t, e.en = false → r.engineConfigOk n = true → r.readTable e'.ctx e'.htab 32 (handleOk (2 ^ 64)) 0 e'.hcnt = .bad i t →
      exec .engineEnable s = .next (t.refuseEngine n 4 i)) ∧
    (∀ es page cause sz t, e.en = false → r.engineConfigOk n = true →
      r.readTable e'.ctx e'.htab 32 (handleOk (2 ^ 64)) 0 e'.hcnt = .park es page cause sz t →
      exec .engineEnable s = .next ((t.noteFault e'.ctx page cause sz false).refuseEngine n 4 es.length)) ∧
    (∀ es t, e.en = false → r.engineConfigOk n = true → r.readTable e'.ctx e'.htab 32 (handleOk (2 ^ 64)) 0 e'.hcnt = .ok es t →
      ∃ z d, exec .engineEnable s = .next z ∧ z.engines.find n = some d ∧ d.en = true ∧ d.state = 1 ∧ d.code = 0 ∧ d.rptr = 0 ∧
        d.prog = false ∧ d.inPkt = false ∧ d.frames = [] ∧ d.handles = es.map (BitVec.ofNat 256) ∧ (∀ x ∈ d.w, x = (0, false)) ∧
        (∀ g ∈ z.grids, ¬(g.2.engine = n ∧ g.2.status.isSome = true)) ∧
        ∀ q ∈ z.plans, ¬(q.2.owner = .qe n ∧ q.2.stage = .queued)) ∧
    (e.en = true → e.state = 3 → exec .engineEnable s = .next ((s.putEngine n e).putEngine n { e with code := 0, state := 1 })) ∧
    (e.en = true → e.state ≠ 3 → exec .engineEnable s = .next (s.putEngine n e))) ∧
  (∀ (s : State) (n : Nat) (v : W64), s.occ = .write n v → n < 32 → s.mgmt.recov = false → v.getLsbD 5 = false → (s.engineRec n).en = true →
    let e := s.engineRec n
    (e.sysop = none → ∃ z d, exec .engineDisable s = .next z ∧ z.engines.find n = some d ∧ d.en = false ∧ d.state = 0 ∧
      (∀ g ∈ z.grids, ¬(g.2.engine = n ∧ g.2.status.isSome = true)) ∧ z.mem = s.mem ∧ z.teams = s.teams ∧
      ∀ q ∈ z.plans, ¬(q.2.owner = .qe n ∧ q.2.stage = .queued)) ∧
    (e.sysop.isSome = true → exec .engineDisable s = .next ((s.putEngine n e).putEngine n { e with stopping := true }))) ∧
  (∀ (s : State) (n : Nat) (e : Engine), s.occ = .num n → s.engines.find n = some e → e.en = true → e.state = 1 → e.prog = false →
    e.inPkt = false → s.running e.ctx = true →
    let room := (e.kick + 2 ^ 32 - e.rptr) % 2 ^ 32
    let va := (e.rbase + e.rptr % 2 ^ e.rlog) % 2 ^ 64
    (2 ^ e.rlog < room → exec .ringPacket s = .next (s.haltEngine n 2)) ∧
    (room = 0 → exec .ringPacket s = .next (s.putEngine n { e with state := 2 })) ∧
    (room = 0 → exec .ringIdleTimeout s = .next (s.putEngine n { e with state := 2 })) ∧
    ∀ hdr t, 0 < room → room ≤ 2 ^ e.rlog → s.asUnit (.qe n) noOps (codeRead (if e.rhost then 4 else 0) va .rd) = .ok (hdr, t) →
      let z : State := { t with ir := s.ir, cur := s.cur }
      let lap := hdr.getLsbD 31 = bit e.rptr e.rlog
      (lap → exec .ringPacket s = .next z) ∧
      (¬lap → bits hdr.toNat 30 4 ≠ 0 → exec .ringPacket s = .next (z.haltEngine n 6)) ∧
      (¬lap → bits hdr.toNat 30 4 = 0 → hdr.toNat % 16 ≠ 0 → ∃ w d, exec .ringPacket s = .next w ∧ w.engines.find n = some d ∧
        d.inPkt = true ∧ d.left = hdr.toNat % 16 ∧ d.rptr = (z.engineRec n).rptr ∧ d.ctl.pc = (va + 4) % 2 ^ 64) ∧
      (lap → (z.engineRec n).state = 1 → (z.engineRec n).inPkt = false → (z.engineRec n).rptr = e.rptr → e.kickAt + 1024 ≤ s.now →
        exec .ringIdleTimeout s = .next (z.putEngine n { z.engineRec n with state := 2 })) ∧
      (s.now < e.kickAt + 1024 → (z.engineRec n).state = 1 → exec .ringIdleTimeout s = .next s)) ∧
  ∀ (s : State) (n va hdr : Nat) (e : Engine), s.engines.find n = some e → e.prog = false → e.inPkt = false →
    (bit hdr 31 = bit e.rptr e.rlog → s.packetHeader n va hdr = s) ∧
    (bit hdr 31 ≠ bit e.rptr e.rlog → bits hdr 30 4 ≠ 0 → s.packetHeader n va hdr = s.haltEngine n 6) ∧
    (bit hdr 31 ≠ bit e.rptr e.rlog → bits hdr 30 4 = 0 → ∃ d, (s.packetHeader n va hdr).engines.find n = some d ∧
      (hdr % 16 ≠ 0 → d.inPkt = true ∧ d.left = hdr % 16 ∧ d.rptr = e.rptr ∧ d.ctl.pc = (va + 4) % 2 ^ 64) ∧
      (hdr % 16 = 0 → d.inPkt = false ∧ d.rptr = (e.rptr + 64) % 2 ^ 32))

/-! ### System registers, rings, resumption -/

/-- MOVS reads a special register of its thread and clears eos bits of its port status (R302, R303); RDSYS reads a word, WRSYS stages it,
writes it, or leaves it to its commit and waits; WBR writes back and INVR invalidates a range, after their fence. A bad selector of RDSYS
or WRSYS takes PRIV 3, a context of another partition PRIV 1 and a value that WRSYS may not write PRIV 2; WBR and INVR take PRIV 1 for a
range that is not empty and passes 2^52 or leaves the partition's IA range (R373-R376). PRIV is checked in the order 3, 1, 2 (DEDUCED,
log entry 25), and poisoned selectors and operands read zero (DEDUCED, log entry 19). -/
def Obligations.SystemInstructionsComplete : Prop :=
  (∀ (s t t' : State) (u : Agent) (v : Opnds),
    let n := s.ir.x8.toNat % 128
    let w := if n = 8 then 2 else 1
    let sh : Shape := { d := w, a := 0, b := 0, c := 0 }
    Executes s u sh → Delivers s u sh .int v t → Writes t s.ir.d w (fun _ => Val.of (BitVec.ofNat 64 (t.specialReg u n))) t' →
    exec .movsRead s = .next (s.closed t' u .movsRead sh)) ∧
  (∀ (s : State) (tm tid : Nat) (g : Team) (x : ExThread), s.teams.find tm = some g → s.exs.find (exKey tm tid) = some x →
    (List.range 12).map (s.specialReg (.ex tm tid)) =
      [tid, tid / 16, tid % 16, g.team, g.cohort, g.gid % 2 ^ 32, placeOf (g.coreOf (tid / 16)), g.ctx,
       (s.now + (s.core (g.coreOf (tid / 16))).skew) % 2 ^ 64, x.ctl.tinfo.toNat,
       x.eos.toNat + s.boundPorts (stripKey tm (tid / 16)) * 2 ^ 16, 0]) ∧
  (∀ (s t : State) (tm tid : Nat) (v : Opnds),
    let u : Agent := .ex tm tid
    let sh : Shape := { d := 0, b := 0, c := 0 }
    Executes s u sh → Delivers s u sh .int v t → exec .movsWrite s = .next (s.closed (if (v.a 0).poison then t
      else t.modEx tm tid (fun x => { x with eos := x.eos &&& ~~~((v.a 0).bits.setWidth 16) })) u .movsWrite sh)) ∧
  (∀ (s t t' : State) (n pi : Nat) (p : Partition) (v : Opnds),
    let u : Agent := .qe n
    let sh : Shape := { b := 0, c := 0 }
    let sel := (v.a 0).bits
    Executes s u sh → Delivers s u sh .int v t → t.partOfEngine n = some (pi, p) →
    (selBad sel false = false → t.selCtxOk p sel false = true →
      Writes t s.ir.d 1 (fun _ => heldVal ⟨t.sysRead p sel, (v.a 0).poison⟩) t' →
      exec .rdsys s = .next t') ∧
    (selBad sel false = true → exec .rdsys s = .next (s.takeTrap u (tinfo 2 3) (len0Of s.ir.form))) ∧
    (selBad sel false = false → t.selCtxOk p sel false = false →
      exec .rdsys s = .next (s.takeTrap u (tinfo 2 1) (len0Of s.ir.form)))) ∧
  (∀ (s t : State) (n pi : Nat) (p : Partition) (v : Opnds),
    let u : Agent := .qe n
    let sel := (v.a 0).bits
    let x := (v.b 0).bits
    Executes s u qAB → Delivers s u qAB .int v t → t.partOfEngine n = some (pi, p) →
    (selBad sel true = true → exec .wrsys s = .next (s.takeTrap u (tinfo 2 3) (len0Of s.ir.form))) ∧
    (selBad sel true = false → t.selCtxOk p sel (x.getLsbD 0) = false →
      exec .wrsys s = .next (s.takeTrap u (tinfo 2 1) (len0Of s.ir.form))) ∧
    (selBad sel true = false → t.selCtxOk p sel (x.getLsbD 0) = true →
    (Sel.stages sel = true → exec .wrsys s = .next (t.modEngine n (fun e => { e with staged := e.staged.put (sel.toNat % 2 ^ 32) x }))) ∧
    (Sel.stages sel = false → t.sysRefused n p sel x = true → exec .wrsys s = .next (s.takeTrap u (tinfo 2 2) (len0Of s.ir.form))) ∧
    (Sel.stages sel = false → t.sysRefused n p sel x = false → t.plainWrite sel x = true →
      exec .wrsys s = .next (t.sysWrite n pi p sel x)) ∧
    (Sel.stages sel = false → t.sysRefused n p sel x = false → t.plainWrite sel x = false → s.pcAt u < 2 ^ 64 →
      ∃ z d, exec .wrsys s = .next z ∧ z.engines.find n = some d ∧ d.sysop = some (sel, x) ∧
        d.ctl.status = .waiting .sysop t.now ∧ d.ctl.pc = s.pcAt u ∧ z.ctxs = t.ctxs ∧ z.parts = t.parts))) ∧
  (∀ i ∈ [Instr.wbr, .invr], ∀ (s t : State) (n pi : Nat) (p : Partition) (v : Opnds),
    let u : Agent := .qe n
    let a := (v.a 0).bits.toNat
    let b := (v.b 0).bits.toNat
    Executes s u qAB → Delivers s u qAB .int v t → t.partOfEngine n = some (pi, p) → b ≠ 0 →
    (a < Desc.iabase p.desc ∨ Desc.iaend p.desc < a + b ∨ 2 ^ 52 < a + b) →
    exec i s = .next (s.takeTrap u (tinfo 2 1) (len0Of s.ir.form))) ∧
  ∀ (s t : State) (n pi a b : Nat) (p : Partition),
    let u : Agent := .qe n
    Executes s u qAB → rangeFence (s.past u) = .ok ((a, b, pi, p), t) →
    exec .wbr s = .next (if b = 0 then t else t.l2.foldl (fun s x =>
      if a / 64 ≤ x.1 / 2 ∧ x.1 / 2 ≤ (a + b - 1) / 64 then s.writeBack x.1 else s) t) ∧
    exec .invr s = .next (if b = 0 then t else t.invalidate pi a b)

/-- RESUMET acts on the stopped thread under its ticket: .wreg writes a name, .retry resumes at the trap, .skip past it, .repl gives a
token's element, .jump goes to a code offset and .kill makes the thread exit; statuses 1 to 5 as R393 says. That a poisoned ticket or value
poisons the status, and that a poisoned value acts as zero, are the model's readings (DEDUCED, log entry 19), and so is that a suspended MMA
is left by .skip, .jump and .kill (DEDUCED, log entry 28). -/
def Obligations.ResumeComplete : Prop :=
  ∀ q ∈ [(Instr.resumetWreg, 0), (.resumetRetry, 1), (.resumetSkip, 2), (.resumetRepl, 3), (.resumetJump, 4), (.resumetKill, 5)],
  ∀ (s t t' : State) (n : Nat) (v : Opnds),
    let i := q.1
    let op := q.2
    let e : Agent := .qe n
    let sh : Shape := { b := if op = 0 ∨ op = 3 ∨ op = 4 then 1 else 0, c := 0 }
    let x := (v.b 0).bits
    let ends := fun (r : State) (code : Nat) => Writes r s.ir.d 1 (fun _ =>
      heldVal ⟨BitVec.ofNat 64 code, (v.a 0).poison || (v.b 0).poison⟩) t' → exec i s = .next t'
    Executes s e sh → Delivers s e sh .int v t → release t = .ok ((), t) →
    (t.running (t.ctxOf e) = false → ends t 4) ∧
    (t.running (t.ctxOf e) = true → t.stoppedUnder (t.ctxOf e) (v.a 0).bits = none → ends t 1) ∧
    ∀ (u : Agent) (r : TrapRec), t.running (t.ctxOf e) = true → t.stoppedUnder (t.ctxOf e) (v.a 0).bits = some (u, r) →
      (op = 0 → ∀ b z, wregOp u s.ir.x8 (v.b 0) t = .ok (b, z) → ends z (if b then 0 else 3)) ∧
      (op = 1 → if r.info.done then ends t 2 else ends ((t.seenBy u).resume u r 1 r.pc.toNat) 0) ∧
      (op = 2 → if r.len0 = 3 then ends t 2
        else ends (((t.leaveMma u).seenBy u).resume u r 2 ((r.pc.toNat + 4 * (r.len0.toNat + 1)) % 2 ^ 64)) 0) ∧
      (op = 3 → if r.info.code ≠ 0x30 ∨ r.info.deferred then ends t 2
        else ends (((t.seenBy u).resume u r 3 r.pc.toNat).modCtl u (fun c =>
          { c with repl := c.repl.put (replKey (r.info.port.getD 0) r.info.pos.toNat) (v.b 0) })) 0) ∧
      (op = 4 → if x.toNat % 4 ≠ 0 then ends t 5
        else ends (((t.leaveMma u).seenBy u).resume u r 4 ((t.baseOf u + x.toNat % 2 ^ 32) % 2 ^ 64)) 0) ∧
      (op = 5 → ends (let z := (t.leaveMma u).modCtl u (fun c => { c with deferred := [], skip := none })
        match u with
        | .ex tm tid => z.exitEx tm tid
        | .ap tm sp => z.exitAp tm sp
        | .qe _ => z) 0)

/-- The commits of system registers: what an engine's WRSYS left takes effect, or takes PRIV 2, and the engine goes on; a domain whose
map changes is busy until its switch completes (R361, R366-R368, R377, R378, R389); a context's oldest trap and fault records go to
their rings, with the vector where the ring was empty (R152, R387). The model's readings: a fault record whose count has grown is written
again in its place, and one that was closed before it could be written is written once (DEDUCED, log entry 24); an engine disabled meanwhile
is idle from the boundary on (DEDUCED, log entry 33); a failed access to a ring is held until an INVR covers its page (R426). -/
def Obligations.SystemEventsComplete : Prop :=
  (∀ q ∈ [(Instr.rangeRegisterCommit, 1, 0), (.exportCommit, 3, 0), (.ptrootWrite, 5, 11), (.faultRingSet, 4, 1), (.frheadWrite, 4, 2),
      (.trapRingSet, 4, 3), (.trheadWrite, 4, 4), (.saveAreaSet, 4, 6), (.contextCreate, 4, 0), (.contextDestroy, 4, 0)],
    ∀ (s : State) (n pi : Nat) (p : Partition) (e : Engine) (v x : W64),
    s.occ = .num n → s.engines.find n = some e → s.partOfEngine n = some (pi, p) → e.sysop = some (v, x) → Sel.group v = q.2.1 →
    Sel.word v = q.2.2 → s.running e.ctx = true → v.getLsbD 63 = false → (q.1 = .contextCreate → x.getLsbD 0 = true) →
    (q.1 = .contextDestroy → x.getLsbD 0 = false) →
    (s.sysRefused n p v x = false → exec q.1 s = .next ((s.sysWrite n pi p v x).finishQ n)) ∧
    (s.sysRefused n p v x = true → exec q.1 s = .next
      (((s.modEngine n (fun e => { e with sysop := none })).takeTrap (.qe n) (tinfo 2 2) e.ctl.len).atBoundary n))) ∧
  -- the boundary: an engine that was disabled meanwhile is idle from there on
  (∀ (s : State) (n : Nat), ((s.engineRec n).stopping = false → s.atBoundary n = s) ∧
    ((s.engineRec n).stopping = true → ∃ d, (s.atBoundary n).engines.find n = some d ∧ d.en = false ∧ d.state = 0)) ∧
  (∀ (s : State) (n pi : Nat) (p : Partition) (e : Engine) (v x : W64),
    let i := Sel.index v
    let old := p.domains.getD i {}
    let d := domainOfWords old (s.staged p e v x)
    let same := old.hmr = d.hmr ∧ old.v = d.v ∧ old.dbase = d.dbase ∧ old.dend = d.dend
    let t := s.sysWrite n pi p v x
    s.occ = .num n → s.engines.find n = some e → s.partOfEngine n = some (pi, p) → s.parts.find pi = some p → e.sysop = some (v, x) →
    Sel.group v = 2 → Sel.word v = 8 → i < p.domains.length → s.running e.ctx = true → v.getLsbD 63 = false → old.busy = false →
    s.sysRefused n p v x = false →
    (same → exec .domainCommit s = .next (t.finishQ n)) ∧
    (¬same → exec .domainCommit s = .next (t.modEngine n (fun e => { e with sysop := some (switching v, x) })) ∧
      ∃ r, t.parts.find pi = some r ∧ r.domains.getD i {} = { d with
        gen := (old.gen + 1) % 256, busy := true, was := if old.v = true then some (old.hmr, old.dbase, old.dend) else none })) ∧
  (∀ (s : State) (n pi : Nat) (p : Partition) (e : Engine) (v x : W64), s.engines.find n = some e →
    let c := Sel.ctx v
    let m := x.toNat
    let r : RangeReg := BitVec.ofNat 192 (joinWords (s.staged p e v x))
    let k := (s.sysWrite n pi p v x).context c
    (Sel.group v = 1 → k.ranges = (s.context c).ranges.set (Sel.index v) r) ∧
    (s.parts.find pi = some p → ∃ r, (s.sysWrite n pi p v x).parts.find pi = some r ∧
      (Sel.group v = 3 → r.exports = p.exports.set (Sel.index v) (BitVec.ofNat 128 (joinWords (s.staged p e v x)))) ∧
      (Sel.group v = 5 → Desc.ptroot r.desc = m ∧ ∀ j < 32, j ≠ 11 → wordAt r.desc j = wordAt p.desc j)) ∧
    (Sel.group v = 4 → Sel.word v = 0 → x.getLsbD 0 = true → (s.context c).v = false → k = { v := true, cstate := 1 }) ∧
    (Sel.group v = 4 → Sel.word v = 0 → x.getLsbD 0 = false → (s.context c).v = true → k = {} ∧
      ∀ core, ((s.sysWrite n pi p v x).core core).bcsOwner ≠ some c ∧ ((s.sysWrite n pi p v x).core core).lastCtx ≠ some c) ∧
    (Sel.group v = 4 → Sel.word v = 1 → k.frlog = m % 32 ∧ k.frbase = m / 2 ^ 8 % 2 ^ 44 ∧ k.fvec = m / 2 ^ 52 % 2 ^ 11) ∧
    (Sel.group v = 4 → Sel.word v = 2 → k.frhead = BitVec.ofNat 32 m) ∧
    (Sel.group v = 4 → Sel.word v = 3 → k.trlog = m % 32 ∧ k.trbase = m / 2 ^ 8 % 2 ^ 45 ∧ k.tvec = m / 2 ^ 53 % 2 ^ 11) ∧
    (Sel.group v = 4 → Sel.word v = 4 → k.trhead = BitVec.ofNat 32 m) ∧
    (Sel.group v = 4 → Sel.word v = 6 → k.sasize = m % 2 ^ 12 ∧ k.sabase = m / 2 ^ 12 % 2 ^ 32)) ∧
  (∀ (s : State) (pi i : Nat) (p : Partition),
    let moved := fun (x : Nat × L2Sector) => p.inIA (32 * x.1) (32 * x.1 + 32) && match p.domainOf (32 * x.1) with
      | some d => d.slice (32 * x.1) != x.2.slice
      | none => true
    let d := p.domains.getD i {}
    let q := ({ s with reqs := s.reqs.map (fun (q : Nat × Req) =>
      (q.1, if s.acceptedBefore pi d q.2 then { q.2 with phase := .nacked } else q.2)) } : State)
    let r := (q.l2.filter moved).foldl (fun s x => s.dropSector x.1) q
    let r := r.modPart pi (fun p => { p with domains := p.domains.modify i (fun d => { d with busy := false, was := none }) })
    let r := r.serveAgain (fun q => q.part == pi && q.page.isNone)
    s.occ = .num2 pi i → s.parts.find pi = some p → d.busy = true →
    ((∃ x ∈ s.reqs, s.acceptedBefore pi d x.2 = true ∧ (x.2.phase = .snoop ∨ (s.walkRequest x.1 false).isSome = true)) ∨
      (∃ x ∈ s.l2, moved x = true ∧ s.mustKeep x.2 = true) → exec .domainSwitchComplete s = .next s) ∧
    ((∀ x ∈ s.reqs, s.acceptedBefore pi d x.2 = true → x.2.phase ≠ .snoop ∧ s.walkRequest x.1 false = none) →
      (∀ x ∈ s.l2, moved x = true → s.mustKeep x.2 = false) → exec .domainSwitchComplete s = .next (r.engines.foldl (fun s e => match e.2.sysop with
      | some (v, _) =>
        if v.getLsbD 63 && Sel.index v == i && decide (Desc.qebase p.desc ≤ e.1 ∧ e.1 < Desc.qebase p.desc + Desc.qecount p.desc) then
          s.finishQ e.1
        else s
      | none => s) r))) ∧
  (∀ (s t : State) (ctx : Nat) (r : TrapRec) (rest : List TrapRec),
    let c := s.context ctx
    let z := t.modCtx ctx (fun c => { c with traps := rest, trtail := c.trtail + 1, ntrap := c.ntrap + 1 })
    s.occ = .num ctx → c.traps = r :: rest → c.trlog ≠ 0 → (c.trtail - c.trhead).toNat ≠ 2 ^ c.trlog →
    s.structWrite ctx (c.trbase * 128 + 128 * (c.trtail.toNat % 2 ^ c.trlog)) r.bits 128 = .ok t →
    exec .trapRecordPost s = .next (if c.trtail = c.trhead then { z with irqs := c.tvec :: z.irqs } else z)) ∧
  (∀ (s t : State) (ctx : Nat) (f : FaultRec),
    let c := s.context ctx
    let todo := fun (f : FaultRec) => f.ctx == ctx && f.slot.isNone
    let recs := if f.closed then t.frecs.erase f else replaceFirst (· == f) (fun f => { f with slot := some c.frtail }) t.frecs
    let z := ({ t with frecs := recs } : State).modCtx ctx (fun c => { c with frtail := c.frtail + 1 })
    s.occ = .num ctx → (heldRecords s.frecs).find? todo = some f → c.frlog ≠ 0 → (c.frtail - c.frhead).toNat ≠ 2 ^ c.frlog →
    s.structWrite ctx (c.faultAt c.frtail) f.bits 32 = .ok t →
    exec .faultRecordPost s = .next (if c.frtail = c.frhead then { z with irqs := c.fvec :: z.irqs } else z)) ∧
  -- a ring whose page cannot be reached is held from then on, until an INVR covers the page
  ∀ (s : State) (ctx lo hi : Nat) (w : Bool) (r : TrapRec) (rest : List TrapRec),
    let c := s.context ctx
    s.occ = .num ctx → c.traps = r :: rest → c.trlog ≠ 0 → (c.trtail - c.trhead).toNat ≠ 2 ^ c.trlog →
    s.structWrite ctx (c.trbase * 128 + 128 * (c.trtail.toNat % 2 ^ c.trlog)) r.bits 128 = .error (.page lo hi w) →
    exec .trapRecordPost s = .next (s.modCtx ctx (fun c => { c with stuck := (lo, hi, w) :: c.stuck }))

/-! ### The way of a request -/

/-- A request on its way: its slice hands it to a walk unit, holds it while a switch moves its line, or answers NACK-REPLAY under an old
generation, and it is injected again (R378); or the core's L1 serves it, where the line's sectors it reads lie (R158; DEDUCED, log entry
50). The walk unit fails it, parks it with a fault record, which counts it unless another part of the same 64-byte request has parked on
that page (R14; log entry 16), sends it to its peer, lets it wait for the host, or performs it in its turn (R148-R153, R228,
R379); a reply lands the value or failure, and an acknowledged store counts down (R161, R196, R231). -/
def Obligations.RequestEventsComplete : Prop :=
  (∀ (s : State) (n : Nat) (r : Req), s.reqs.find n = some r → r.phase = .sent → globalSpace r.space = true →
    let d := (s.partOf r.ctx).bind (fun p => p.2.domainAt r.ia)
    s.occ = .num n →
    ((∀ x, d = some x → x.gen = r.gen ∧ x.moves r.ia = false) → exec .sliceRequest s = .next { s with reqs := s.reqs.put n { r with phase := .walking } }) ∧
    (∀ x, d = some x → x.gen = r.gen → x.moves r.ia = true → exec .sliceRequest s = .next s) ∧
    (∀ x, d = some x → x.gen ≠ r.gen → exec .sliceRequest s = .next { s with reqs := s.reqs.put n { r with phase := .nacked } })) ∧
  (∀ (s : State) (n : Nat) (r : Req) (x : L1Line), s.occ = .num2 n 1 → s.reqs.find n = some r → r.phase = .sent →
    r.l1Load = true → s.inOrder n r = true → (s.core r.core).l1.find (r.ia / 64) = some x →
    let v := s.forward n r (x.data.toNat / 2 ^ (8 * (r.ia % 64)) % 2 ^ (8 * r.size), sectorBad x.poison (r.ia % 64) r.size)
    exec .sliceRequest s = .next { s with reqs := s.reqs.put n { r with phase := .done v.1 v.2 } }) ∧
  (∀ (s : State) (n : Nat) (r : Req), s.occ = .num n → s.reqs.find n = some r → r.phase = .nacked →
    exec .replayReinject s = .next (s.inject n { r with phase := .sent })) ∧
  (∀ (z : State) (n pi : Nat) (r : Req) (p0 : Partition), z.reqs.find n = some r → z.partOf r.ctx = some (pi, p0) → ∀ b,
    (b = false ∧ z.occ = .num n ∧ r.phase = .walking) ∨ (b = true ∧ z.occ = .num n ∧ r.phase = .snoop) →
    let p := p0.under r.gen r.ia
    let s := if b then z.hostGives r.ia r.size else z
    let w := s.walk p r.ia
    let q := match w with
      | .leaf e sz => { r with attr := some (attrOf r.order e), page := sz }
      | _ => r
    let put := fun (t : State) (ph : Phase) => ({ t with reqs := t.reqs.put n { q with phase := ph } } : State)
    let done := fun t => exec (if b then Instr.backInvalidateResponse else .walkRequest) z = .next t
    (∀ t, s.serve pi p w q = .fail t → done (put s (.failed { t with lane := q.laneNo }))) ∧
    (∀ page cause sz, s.serve pi p w q = .park page cause sz →
      done { (if s.countedAlready q page cause then s else s.noteFault q.ctx page cause (sizeCode sz) q.writes) with
        reqs := s.reqs.put n { q with attr := attrOfHandle q.order, phase := .parked page cause } }) ∧
    (s.serve pi p w q = .busy → done (put s .nacked)) ∧
    (∀ dev ia leaf, s.serve pi p w q = .peer dev ia leaf → s.inOrder n { q with phase := .remote dev ia 0 16 } = true →
      let hit := if Leaf.pcache leaf ∧ q.kind = .load then s.peerHit q leaf else none
      (∀ x, hit = some x → let v := s.forward n q x; done (put s (.done v.1 v.2))) ∧
      (∀ t, hit = none → s.sendRemote n q dev ia = some t → done t)) ∧
    (s.serve pi p w q = .snoop → s.inOrder n q = true → done (put s .snoop)) ∧
    (∀ v po t e sz, w = .leaf e sz → s.serve pi p w q = .ok v po t → s.inOrder n q = true →
      let x := if q.loads && !q.writes then s.forward n q (v, po) else (v, po)
      done (put (t.l1After q ⟨e, Leaf.frame e + q.ia % 2 ^ sz, sz, p.sliceOf q.ia, q.cache⟩) (.done x.1 x.2)))) ∧
  (∀ (s : State) (n : Nat) (r : Req), s.occ = .num n → s.reqs.find n = some r → r.open = false → s.lands r = true →
    (r.returns = true → (∀ a b c, r.landing ≠ .port a b c) → (∀ a b, r.landing ≠ .line a b) →
      exec .memoryReply s = .next (({ s with reqs := s.reqs.del n } : State).land r r.result.1 r.result.2)) ∧
    (∀ k, r.returns = true → ((∃ b c, r.landing = .port k b c) ∨ ∃ b, r.landing = .line k b) →
      ((∃ v, r.result.1 = .ok v) ∨ s.tokens (s.coreOfPort k) < 256) →
      exec .portSlotDeliver s = .next (({ s with reqs := s.reqs.del n } : State).land r r.result.1 r.result.2)) ∧
    (r.returns = false → exec .storeAck s = .next (s.acknowledge n r))) ∧
  (∀ (s : State) (n : Nat) (r : Req),
    let x := s.atCore r
    let v := if r.loads && !r.writes then s.forward n r x.1 else x.1
    let q : Req := { r with phase := .done v.1 v.2 }
    let t : State := { x.2 with reqs := x.2.reqs.put n q }
    s.occ = .num n → s.reqs.find n = some r → r.phase = .sent → globalSpace r.space = false → s.inOrder n r = true → t.lands q = true →
    (r.returns = true → (∀ a b c, r.landing ≠ .port a b c) → (∀ a b, r.landing ≠ .line a b) →
      exec .memoryReply s = .next (({ t with reqs := t.reqs.del n } : State).land q (.ok ⟨BitVec.ofNat 64 v.1, v.2⟩) v.1)) ∧
    (r.returns = false → exec .storeAck s = .next (t.acknowledge n q))) ∧
  ∀ (s : State) (n : Nat) (u : Agent) (c : Ctl) (r : Req), unitOk u → r.owner = .unit u → s.ctl u = some c → r.pusher = [] →
    r.cls < c.unack.length →
    ∃ d, (s.acknowledge n r).ctl u = some d ∧ d.unack.getD r.cls 0 = c.unack.getD r.cls 0 - 1 ∧ (s.acknowledge n r).mem = s.mem ∧
      ((∀ t, r.phase ≠ .failed t) → d.deferred = c.deferred) ∧
      ∀ t, r.phase = .failed t → d.deferred = if s.ctxOf u = r.ctx then (c.defer (r.deferral t)).deferred else c.deferred

/-- Peer memory: a request of another device is refused without a device number (REMOTE 4) or an export of every window it names (REMOTE
3), and else performed and answered; a publish of a pair waits for its turn (R247, R248, R256, R274, R367); a notice and a reply reach
their request (R257, R261); a packet for another device crosses its next link on the channel of its class and hop index, or its requester
hears that there is no route (R269, R270), or, while this device has no fabric id, that it is not ready (R272). -/
def Obligations.FabricEventsComplete : Prop :=
  (∀ i ∈ [Instr.remoteRequestArrival, .scaleOutRma], ∀ (s : State) (p : Packet), s.occ = .packet p →
    (i = .scaleOutRma → p.kind = .load ∨ ∃ v po, p.kind = .store v po) →
    (s.mgmt.fidSet = false → exec i s = .next (s.answer p (.fail 0x50 4 p.ia))) ∧
    (s.mgmt.fidSet = true → s.admitAll p = none → exec i s = .next (s.answer p (.fail 0x50 3 p.ia))) ∧
    ∀ pi part fctx, s.mgmt.fidSet = true → s.admitAll p = some (pi, part, fctx) →
      (∀ a t d, p.kind = .pair a t d → exec i s = .next { s with inbound := s.inbound ++ [⟨p, pi, fctx, none⟩] }) ∧
      ((∀ a t d, p.kind ≠ .pair a t d) →
      (∀ v po t, s.serve pi part (s.walk part p.ia) (reqOfPacket p fctx) = .ok v po t → exec i s = .next (t.answer p (.ok v po))) ∧
      (∀ t, s.serve pi part (s.walk part p.ia) (reqOfPacket p fctx) = .fail t →
        exec i s = .next (s.answer p (.fail t.code t.sub t.loc.toNat))) ∧
      (s.serve pi part (s.walk part p.ia) (reqOfPacket p fctx) ∈ [.busy, .snoop] →
        exec i s = .next { s with inbound := s.inbound ++ [⟨p, pi, fctx, none⟩] }) ∧
      (∀ page cause sz, s.serve pi part (s.walk part p.ia) (reqOfPacket p fctx) = .park page cause sz →
        let z := if s.countedHere p page then s else s.noteFault fctx page cause (sizeCode sz) (remoteWrites p.kind)
        exec i s = .next (({ z with inbound := s.inbound ++ [⟨p, pi, fctx, some page⟩] } : State).notice p)))) ∧
  (∀ (s : State) (p : Packet) (q : Nat × Partition × Nat), s.admitAll p = some q →
    ∀ w ∈ packetWindows p, ∃ y, s.admitOf w = some y ∧ y.1 = q.1) ∧
  (∀ (s : State) (p : Packet) (pi fctx : Nat) (part : Partition), s.admitOf p = some (pi, part, fctx) →
    ∃ e ∈ part.exports, Export.v e = true ∧ Export.rdev e = p.src ∧ Export.iabase e ≤ p.ia ∧ p.ia + p.size ≤ Export.iaend e ∧
      (p.kind ≠ .load → Export.wr e = true) ∧ fctx = Export.fctx e) ∧
  (∀ (s : State) (n dev ia dl l : Nat) (r : Req), s.occ = .num n → s.reqs.find n = some r → r.phase = .remote dev ia dl l →
    exec .parkNotice s = .next { s with reqs := s.reqs.put n { r with phase := .remoteParked dev ia l } }) ∧
  (∀ (s : State) (n loc : Nat) (code sub : BitVec 8) (r : Req), s.occ = .remote n (.fail code sub loc) → s.reqs.find n = some r →
    ((∃ a b c d, r.phase = .remote a b c d) ∨ ∃ a b c, r.phase = .remoteParked a b c) →
    let f : TrapInfo := { code, sub, handle := BitVec.ofNat 8 r.handle, loc := BitVec.ofNat 64 loc, lane := r.laneNo }
    exec .remoteReply s = .next { s with reqs := s.reqs.put n { r with phase := .failed f } }) ∧
  (∀ (s : State) (n d : Nat) (po : Bool) (r : Req), s.occ = .remote n (.ok d po) → s.reqs.find n = some r →
    ((∃ a b c d, r.phase = .remote a b c d) ∨ ∃ a b c, r.phase = .remoteParked a b c) →
    let v := if r.loads && !r.writes then s.forward n r (d, po) else (d, po)
    let z := if r.kind = .load then s.keepPeer r d po else s
    exec .remoteReply s = .next { z with reqs := z.reqs.put n { r with phase := .done v.1 v.2 } }) ∧
  (∀ (s : State) (p : Packet), s.occ = .packet p → s.mgmt.fidSet = false → s.isSelf p.dst = false →
    exec .fabricPacketForward s = .next (s.replyTo p.src p.ia p.thread (.reply p.src p.rid (.fail 0x50 4 p.ia)))) ∧
  (∀ (s : State) (p : Packet), s.occ = .packet p → s.mgmt.fidSet = true → s.isSelf p.dst = false →
    (∀ l, s.route p = .link l → exec .fabricPacketForward s = .next (s.sendLink l clsRequest p.hop (.request p))) ∧
    (s.route p = .none → exec .fabricPacketForward s = .next (s.replyTo p.src p.ia p.thread (.reply p.src p.rid (.fail 0x50 1 p.ia))))) ∧
  (∀ (s : State) (t : Transit), s.occ = .transit t → s.mgmt.fidSet = false → t.kind = .message →
    exec .fabricPacketForward s = .next (s.replyTo t.src t.ia t.thread (.unready t.src t.body))) ∧
  ∀ (s : State) (t : Transit), s.occ = .transit t → s.isSelf t.dst = false → (s.mgmt.fidSet = true ∨ t.kind = .answer) →
    (∀ l, s.route (transitPacket t) = .link l → exec .fabricPacketForward s =
      .next (s.sendLink l (if t.kind = .answer then clsReply else clsRequest) t.hop (.passing t))) ∧
    (s.route (transitPacket t) = .none → exec .fabricPacketForward s =
      .next (if t.kind = .answer then s.replyTo t.dst t.ia t.thread (.noRoute t.dst t.body)
        else s.replyTo t.src t.ia t.thread (.noRoute t.src t.body)))

/-! ### Placement -/

/-- Placement: a proposal that firmware may make is entered with its bind records in state 1; dispatch asks every core, each grants what
it can hold with what stands there and refuses else, a refusal, counted for each cohort since its grid was posted, backs off by R341 and
the fourth returns the proposal, a complete round commits core by core, and with the last core the teams are admitted (R338-R341); a team
starts, ends, and its grid completes (R331, R342, R343). The model's readings: a returned proposal counts as placed anew, k is the
greatest over its cohorts, a slot is free by three conditions (DEDUCED, log entry 35), an ended team keeps its record until its grid
completes (DEDUCED, log entry 52); the base of the stagger is the model's choice (DESIGN CHOICE, log entry 36). -/
def Obligations.PlacementComplete : Prop :=
  (∀ (s : State) (gid : Nat) (l : List Placement) (g : Grid),
    let restore := (s.context g.ctx).cstate == 4
    s.occ = .proposal gid l → s.grids.find gid = some g →
    (s.proposalOf gid = none → s.mayPropose gid g restore l = true →
      let t := s.writeProposed gid g l
      exec .firmwareProposal s = .next { t with props := t.props.put s.fresh { gid, place := l, restore }, fresh := s.fresh + 1 }) ∧
    (s.proposalOf gid = none → s.mayPropose gid g restore l = false → exec .firmwareProposal s = .next s) ∧
    ∀ n p, s.proposalOf gid = some (n, p) → p.state = 0 → p.out = [] → p.granted = [] →
      let t := s.freeSlots (p.place.flatMap (placeSlots (LRec.pair g.record)))
      let r := t.writeProposed gid g l
      t.mayPropose gid g p.restore l = true →
        exec .firmwareProposal s = .next { r with props := r.props.put n { p with place := l, sincePlaced := 0 } }) ∧
  (∀ (s : State) (n : Nat) (p : Proposal), s.occ = .num n → s.props.find n = some p → p.out = [] → p.granted = [] →
    (p.state = 0 → (p.restore = true ∨ s.sequences n < 64) → exec .dispatchReserve s = .next (s.startRound n p)) ∧
    (p.state = 2 → p.deadline ≤ s.now → exec .backoffExpiry s = .next (s.startRound n p)) ∧
    (p.state = 2 → s.now < p.deadline → exec .backoffExpiry s = .next s)) ∧
  (∀ (s : State) (n core : Nat) (p : Proposal), s.occ = .num2 n core → s.props.find n = some p →
    let qs := s.placesOn p core
    let idx := qs.map (fun (q : Placement) => slotIdx core q.slot)
    let fits := coreHolds (qs.map (fun q => (s.propRecord p, q.spbase)) ++ s.heldOn core) && s.bcsAllows p core
    let heard : Proposal := { p with answered := p.answered.add core }
    let c := s.countRefusal p
    let back := p.sincePlaced + 1 = 4
    let turned : Proposal :=
      { heard with sincePlaced := if back then 0 else p.sincePlaced + 1, state := if back then 0 else 2,
                   deadline := s.now + s.backoff (c.refusalsOf p) }
    let out := p.out.rem core
    (p.out.has core = true → fits = true → exec .reserve s =
      .next (({ s with props := s.props.put n { p with out, granted := p.granted.add core } } : State).setSlots idx 2)) ∧
    (p.out.has core = true → fits = false →
      exec .reserve s = .next { s with props := s.props.put n { p with out, refused := p.refused.add core } }) ∧
    (p.state = 1 → p.answered.has core = false → p.granted.has core = true →
      exec .reserveAnswer s = .next { s with props := s.props.put n heard }) ∧
    (p.state = 1 → p.answered.has core = false → p.granted.has core = false → p.refused.has core = true →
      exec .reserveAnswer s = .next { c with props := s.props.put n turned }) ∧
    (p.state = 0 ∨ p.state = 2 → p.granted.has core = true → exec .release s =
      .next (({ s with props := s.props.put n { p with granted := p.granted.rem core } } : State).setSlots idx 1))) ∧
  (∀ (s : State) (k : Nat), 1 ≤ k → let b := min (64 * 2 ^ (k - 1)) 8192
    b ≤ s.backoff k ∧ s.backoff k < 2 * b ∧ s.backoff k = b + (s.now + s.dskew) % b) ∧
  (∀ (s : State) (p : Proposal) (g : Grid) (x : Nat), s.grids.find p.gid = some g →
    ∃ h, (s.countRefusal p).grids.find p.gid = some h ∧
      h.refused.get x 0 = g.refused.get x 0 + (if x ∈ p.place.map (·.cohort) then 1 else 0)) ∧
  (∀ (s : State) (n core : Nat) (p : Proposal), s.occ = .num2 n core → s.props.find n = some p →
    let cs := s.propCores p
    let p' : Proposal := { p with state := 3, bound := p.bound.add core }
    let t := s.setSlots ((s.placesOn p core).map (fun (q : Placement) => slotIdx core q.slot)) 3
    (p.state = 3 ∨ (p.state = 1 ∧ ∀ c ∈ cs, p.granted.has c = true ∧ p.answered.has c = true)) → cs.has core = true →
    p.bound.has core = false →
    (cs.all p'.bound.has = false → exec .commit s = .next { t with props := s.props.put n p' }) ∧
    ∀ g, cs.all p'.bound.has = true → s.grids.find p.gid = some g →
      let r := (({ t with props := s.props.del n } : State).freshCores cs).freshWindows g p.place
      exec .commit s = .next (if p.restore then r.readmitTeams p.gid g p.place else r.admitTeams p.gid g p.place)) ∧
  (∀ (s : State) (tm : Nat) (t : Team) (g : Grid), s.occ = .num tm → s.teams.find tm = some t → s.grids.find t.gid = some g →
    t.placed = true → t.started = false → s.running t.ctx = true →
    (∀ x ∈ s.teams, x.2.gid = t.gid → x.1 < tm → x.2.started = true) →
    (∀ n, g.lastStart = some n → n + LRec.stagger g.record ≤ s.now) → exec .teamStart s = .next (s.beginTeam tm t g)) ∧
  (∀ (s : State) (tm tid : Nat) (t : Team) (g : Grid), s.teams.find tm = some t → t.strips ≤ 128 → tid < 16 * t.strips →
    let pc := (LRec.kbase g.record + LRec.eoff g.record) % 2 ^ 64
    (s.beginTeam tm t g).exs.find (exKey tm tid) = some { ctl := { pc, readySince := s.now } }) ∧
  (∀ (s : State) (tm : Nat) (t : Team), s.occ = .num tm → s.teams.find tm = some t → t.placed = true → t.started = true →
    s.teamDone tm = true → s.running t.ctx = true →
    let ending := t.slotList.all (fun i => (s.slots.get i 0).toNat % 256 == 5)
    let freed := ({ s with strips := s.strips.filter (fun x => x.1 / 128 != tm) } : State).freeSlots t.slotList
    let gone := freed.modTeam tm (fun t => { t with placed := false, ended := true })
    (ending = false → exec .slotFree s = .next (((List.range t.strips).foldl (fun s sp =>
      (List.range 16).foldl (fun s n => s.unbind tm sp n) s) s).setSlots t.slotList 5)) ∧
    let grids := s.grids.alter t.gid (fun g => { g with ended := g.ended + 1, flags := g.flags ||| t.flags })
    let back := s.poolBack tm t = true ∧ (∀ c ∈ t.coreList, (s.core c).owner ≠ some tm) ∧ s.buffered (· == tm) = false
    (ending = true → back → exec .slotFree s = .next { gone with grids }) ∧ (ending = true → ¬back → exec .slotFree s = .next s)) ∧
  ∀ (s : State) (gid : Nat) (g : Grid), s.occ = .num gid → s.grids.find gid = some g → g.status = none → s.running g.ctx = true →
    g.admitted = g.count → g.ended = g.count * LRec.perCohort g.record → s.gridBusy gid = false →
    let t := s.dropTeams gid
    exec .gridComplete s = .next { t with grids := s.grids.put gid { g with status := some (gridStatus 0 0 g.flags), sieve := none } }

/-! ### What clocks bring -/

/-- What the passing of clocks brings: a dead register returns to its pool (R300); a pool stalled for 256 clocks traps the threads that
wait for it (R301); a strip blocked for 2048 traps every party (R201); a complete meeting, a sleep that is over and a polled wait make
their threads ready (R295, R309, R311); a beat period ends and an idle team hangs (R349). Clocks themselves change only what is counted
in them. A polled wait may become ready at any time (DEDUCED, log entry 17), where R311 speaks of a write or 4096 clocks; a DECOUPLE record of a
strip operation has no port (DESIGN CHOICE, log entry 59). -/
def Obligations.ClockEventsComplete : Prop :=
  (∀ (s : State) (tm sp id : Nat) (t : Strip) (r : SReg), s.occ = .num3 tm sp id → s.strips.find (stripKey tm sp) = some t → r ∈ t.regs →
    r.id = id → r.live = 0 → r.pend = 0 → exec .stripRegisterFree s =
      .next (s.modStrip tm sp (fun t => { t with regs := t.regs.filter (fun r => r.id != id) }))) ∧
  (∀ (s : State) (tm n : Nat) (t : Team), s.occ = .num tm → s.teams.find tm = some t → s.running t.ctx = true →
    s.poolStalled tm t = true → t.poolSince = some n →
    (s.now < n + 256 → exec .regpoolStall s = .next s) ∧
    (n + 256 ≤ s.now → exec .regpoolStall s = .next (((List.range (16 * t.strips)).foldl (fun s i => match s.ctl (.ex tm i) with
      | some c => (match c.status with
        | .waiting .pool _ => s.takeTrap (.ex tm i) (tinfo 0x40 1) c.len
        | _ => s)
      | none => s) s).modTeam tm (fun t => { t with poolSince := none })))) ∧
  (∀ (s : State) (key n : Nat) (x : Strip) (t : Team), s.occ = .num key → s.strips.find key = some x →
    s.teams.find (key / 128) = some t → s.running t.ctx = true → s.stripBlocked key = true → x.blocked = some n →
    (s.now < n + 2048 → exec .decoupleTimeout s = .next s) ∧
    (n + 2048 ≤ s.now → exec .decoupleTimeout s = .next (((s.parties key).foldl (fun s q => s.decoupleTrap q.1 q.2) s).modStrip
      (key / 128) (key % 128) (fun x => { x with op := none, blocked := none })))) ∧
  (∀ (s : State) (u : Agent) (c : Ctl) (n m : Nat) (b : Bool), s.ctl u = some c →
    s.decoupleTrap u (.waiting (.port n b) m) = s.takeTrap u { tinfo 0x33 1 with port := some n } c.len ∧
    s.decoupleTrap u (.waiting .stripOp m) = s.takeTrap u (tinfo 0x33 1) c.len) ∧
  (∀ (s : State) (tm tid m : Nat) (t : Team) (l : Latch), s.teams.find tm = some t → t.latch = some l →
    s.decoupleTrap (.ex tm tid) (.waiting .latch m) =
      s.trapAtLatch tm tid l.insn { tinfo 0x33 1 with port := (s.latchRows tm t tid).head?.map (fun q => q.1 % 16) }) ∧
  (∀ (s : State) (tm tid j : Nat) (t : Team) (x : ExThread) (target : W32) (mask : W64), s.occ = .num2 tm tid →
    s.teams.find tm = some t → s.running t.ctx = true → j / 64 = tid / 64 → s.exs.find (exKey tm j) = some x →
    x.ctl.status = .held → x.meet = some (target, mask) → s.missingAt tm j target mask = [] →
    ∃ r, exec .meetingRelease s = .next r ∧ r.exs.find (exKey tm j) =
      some { x with meet := none, ctl := { x.ctl with status := .ready, readySince := s.now } }) ∧
  (∀ (s : State) (u : Agent) (c : Ctl) (n : Nat), s.occ = .unit u → s.ctl u = some c → c.status = .sleeping n →
    s.running (s.ctxOf u) = true →
    (n ≤ s.now → exec .sleepExpiry s = .next (s.modCtl u (fun c => { c with status := .ready, readySince := s.now }))) ∧
    (s.now < n → exec .sleepExpiry s = .next s)) ∧
  (∀ (s : State) (u : Agent) (c : Ctl) (d n : Nat), s.occ = .unit u → s.ctl u = some c → c.status = .waiting (.word d) n →
    s.running (s.ctxOf u) = true →
    exec .waitwRepoll s = .next (s.modCtl u (fun c => { c with status := .ready, readySince := s.now }))) ∧
  (∀ (s : State) (tm : Nat) (t : Team), s.occ = .num tm → s.teams.find tm = some t →
    let p := LRec.beat (s.recordOf t)
    (LRec.pers (s.recordOf t) = true → p ≠ 0 → p ≤ t.active →
      exec .kettleBeatPeriod s = .next (s.modTeam tm (fun t => t.endPeriods p))) ∧
    (LRec.pers (s.recordOf t) = false → 2 ^ 24 ≤ t.idle → t.hung = false →
      exec .kettleIdleLimit s = .next (s.modTeam tm (fun t => { t with hung := true })))) ∧
  ∀ (s : State) (n : Nat), (s.clock n).now = s.now + n ∧
    { s.clock n with now := s.now, teams := s.teams, strips := s.strips, mgmt := s.mgmt } = s ∧
    { (s.clock n).mgmt with counters := s.mgmt.counters } = s.mgmt ∧ (s.mgmt.on = false → (s.clock n).mgmt = s.mgmt) ∧
    (s.clock n).teams.map (·.1) = s.teams.map (·.1) ∧ (s.clock n).strips.map (·.1) = s.strips.map (·.1) ∧
    (∀ k t, (s.clock n).teams.find k = some t → ∃ g, s.teams.find k = some g ∧
      t = { g with poolSince := t.poolSince, active := t.active, idle := t.idle }) ∧
    ∀ k t, (s.clock n).strips.find k = some t → ∃ g, s.strips.find k = some g ∧ t = { g with blocked := t.blocked }

/-! ### Pre-emption, restore, kill -/

/-- Pre-emption: a running context halts when asked or when it has a hung team, its MMA chunks with their operands present complete first,
and a request during a restore waits (R122, R350, R398); the save writes the area, frees the slots, takes the open shadow pairs with it and
signals (R254, R399, R402); what becomes of a reply meanwhile (R400, R401); a restore starts where the header is right and is refused with
cause 1 elsewhere; with its last team admitted the context runs on under the next sgen, and its reads go out again (R404); a kill ends
everything of a context, at once where nothing is on its way (R395); an uncorrectable error of control state is counted once and fails its
context, or every context of the partitions that use the unit (R408, R412; what kinds of unit there are is log entry 51). The order of kill,
rreq and preq in one write, and of effects that stand in two rules, are the model's readings (DEDUCED, log entry 32), and so are what a save
and a restore do with what is on its way, with pairs, plans and replies (log entries 38, 39, 40, 41). -/
def Obligations.PreemptionComplete : Prop :=
  (∀ (s : State) (c : Nat), s.occ = .num c → s.running c = true → s.hungTeams c ≠ [] →
    exec .kettleFire s = .next (s.preempt c true)) ∧
  (∀ (s : State) (c : Nat) (hung : Bool), (∀ p ∈ s.plans, p.2.ctx ≠ c) → s.finishChunks c = s →
    let t := s.preempt c hung
    let k := t.context c
    k.cstate = 2 ∧ k.hung = hung ∧ k.nhang = (s.hungTeams c).length ∧ k.hangs = (s.hungTeams c).take 64 ∧ k.haltAt = s.now ∧
      t.mem = s.mem ∧ t.teams = s.teams ∧ t.exs = s.exs ∧ t.grids = s.grids) ∧
  (∀ (s t : State) (c core : Nat) (k : Core) (op z : MatOp) (g : Team), s.cores = [(core, k)] → k.queue.head? = some op →
    op.insn.op = .mma → op.ready = true → s.teams.find op.team = some g → g.ctx = c → s.mmaChunk core = some t →
    (t.core core).queue.head? = some z → z.id = op.id → z.chunk = op.chunk + 1 → s.finishChunks c = t) ∧
  (∀ (s : State) (n pi : Nat) (p : Partition) (e : Engine) (v x : W64), s.occ = .num n → s.engines.find n = some e →
    s.partOfEngine n = some (pi, p) → e.sysop = some (v, x) → Sel.group v = 4 → Sel.word v = 5 → s.running e.ctx = true →
    v.getLsbD 63 = false →
    let t := (s.sysWrite n pi p v x).finishQ n
    let c := Sel.ctx v
    let st := (t.context c).cstate
    let b := fun i => bit x.toNat i
    (b 6 = true → exec .contextKill s = .next (if 1 ≤ st ∧ st ≤ 4 then t.stopCtx c 5 else t)) ∧
    (b 6 = false → b 5 = false → b 4 = true →
      (st = 1 → exec .preemptRequest s = .next (t.preempt c false)) ∧
      (st = 4 → exec .preemptRequest s = .next (t.modCtx c (fun k => { k with preqPending := true }))) ∧
      (st ≠ 1 → st ≠ 4 → exec .preemptRequest s = .next t)) ∧
    (b 6 = false → b 5 = true →
      (st ≠ 3 → (b 4 = false ∨ (st ≠ 1 ∧ st ≠ 4)) → exec .restoreRequest s = .next t) ∧
      (st = 1 → b 4 = true → exec .restoreRequest s = .next (t.preempt c false)) ∧
      (st = 4 → b 4 = true → exec .restoreRequest s = .next (t.modCtx c (fun k => { k with preqPending := true }))) ∧
      (st = 3 → t.headerRight c = .ok true → ∃ r k, exec .restoreRequest s = .next r ∧ r.ctxs.find c = some k ∧
        k = { t.context c with cstate := 4, preqPending := (t.context c).preqPending || b 4 } ∧ r.mem = t.mem ∧ r.teams = t.teams) ∧
      (st = 3 → t.headerRight c = .ok false → exec .restoreRequest s =
        .next { t.modCtx c (fun k => { k with cause := 1 }) with irqs := (t.context c).svec :: t.irqs }))) ∧
  (∀ (s t : State) (c : Nat), s.occ = .num c → (s.context c).cstate = 2 → s.localLeft c = false → (∀ p ∈ s.plans, p.2.ctx ≠ c) →
    let ts := s.resident c
    let z := s.modCtx c (fun k => { k with corelist := (ts.flatMap (fun t => t.2.coreList)).eraseDups })
    (ts.foldl (fun s t => s.leaveTeam c t.1 t.2) z).putArea c ts = .ok t →
    let r := (t.modCtx c (fun k => { k with cstate := 3, saved := ts.map (·.1), written := k.log.length })).takePairs c
    exec .saveComplete s = .next { r with irqs := (r.context c).svec :: r.irqs }) ∧
  -- an open pair leaves its publish table for the save and comes back with the restore
  (∀ (s : State) (c pi : Nat) (p : Partition) (o : OpenPair), s.parts.find pi = some p →
    (o.ctx = c → o ∈ p.pairs → (pi, o) ∈ ((s.takePairs c).context c).pairs) ∧
    (∃ q, (s.takePairs c).parts.find pi = some q ∧ ∀ o ∈ q.pairs, o.ctx ≠ c) ∧
    (∃ q, (s.givePairs c).parts.find pi = some q ∧ (o ∈ q.pairs ↔ o ∈ p.pairs ∨ (pi, o) ∈ (s.context c).pairs))) ∧
  (∀ (sgen fid crc ncores nhang nlog : Nat) (hung : Bool), let h := headerBits sgen fid hung crc ncores nhang nlog
    bits h 15 0 = 1 ∧ bits h 31 16 = sgen % 2 ^ 16 ∧ bits h 43 32 = fid % 2 ^ 12 ∧ bit h 44 = hung ∧ bits h 63 45 = 0 ∧
      bits h 127 64 = crc % 2 ^ 64 ∧ bits h 143 128 = ncores % 2 ^ 16 ∧ bits h 159 144 = nhang % 2 ^ 16 ∧
      bits h 191 160 = nlog % 2 ^ 32 ∧ h < 2 ^ 192) ∧
  (∀ (s : State) (n : Nat) (r : Req), s.occ = .num n → s.reqs.find n = some r → r.open = false → r.engineOwned = false →
    let k := s.context r.ctx
    let gone : State := { s with reqs := s.reqs.del n }
    let log := fun (s : State) => s.modCtx r.ctx (fun k => { k with log := k.log ++ [Logged.req r] })
    (k.cstate = 0 ∨ k.cstate = 5 ∨ k.cstate = 6 → exec .lateReply s = .next gone) ∧
    (k.cstate = 2 ∨ k.cstate = 3 ∨ k.cstate = 4 → r.idempotent = true → r.failedHere = false →
      exec .lateReply s = .next { s with reqs := s.reqs.put n { r with phase := .halted } }) ∧
    (k.cstate = 4 → r.idempotent = false → exec .lateReply s = .next s) ∧
    (k.cstate = 2 → r.idempotent = false → exec .lateReply s = .next (log gone)) ∧
    ∀ t, k.cstate = 3 → r.idempotent = false → (log gone).putRest r.ctx = .ok t → exec .lateReply s = .next t) ∧
  (∀ (s t : State) (c : Nat),
    let k := s.context c
    let ts := s.returned c
    let r := k.log.foldl State.applyLog t
    let r := ts.foldl (fun s t => s.rejoin t.1 t.2) (r.goOn c (r.now - k.haltAt) ts)
    let z := (r.modCtx c (fun k =>
      { k with cstate := 1, hung := false, sgen := (k.sgen + 1) % 2 ^ 16, log := [], written := 0, preqPending := false })).givePairs c
    s.occ = .num c → k.cstate = 4 → k.saved = [] →
    ts.foldlM (fun (s : State) (t : Nat × Team) => t.2.halves.foldlM (fun s h => s.loadHalf c ts t.1 t.2 h) s) s = .ok t →
    exec .restoreComplete s = .next (if k.preqPending then z.preempt c false else z)) ∧
  (∀ (s : State) (c d n : Nat) (ts : List (Nat × Team)) (r : Req), s.reqs.find n = some r → r.ctx = c → r.engineOwned = false →
    ∃ q, (s.goOn c d ts).reqs.find n = some q ∧ q.sgen = ((s.context c).sgen + 1) % 2 ^ 16 ∧ q.landing = r.landing ∧ q.order = r.order ∧
      (r.idempotent = true → r.failedHere = false → q.phase = .sent) ∧ (r.idempotent = false ∨ r.failedHere = true → q.phase = r.phase)) ∧
  (∀ (s : State) (c st : Nat), (∀ p ∈ s.plans, p.2.ctx ≠ c) →
    let z := s.stopCtx c st
    let k := z.context c
    k.cstate = st ∧ k.traps = [] ∧ k.log = [] ∧ k.sems = (s.context c).sems ∧ k.sabase = (s.context c).sabase ∧
      (∀ q ∈ z.reqs, q.2.ctx = c → q.2.writes = true ∧ globalSpace q.2.space = true) ∧
      (∀ e ∈ z.engines, e.2.ctx = c → e.2.en = false ∧ e.2.state = 0) ∧ (∀ g ∈ z.grids, g.2.ctx ≠ c) ∧ (∀ x ∈ z.copies, x.2.ctx ≠ c) ∧
      (∀ p ∈ z.parts, ∀ o ∈ p.2.pairs, o.ctx ≠ c)) ∧
  (∀ (s : State) (c : Nat), s.occ = .num c → (s.context c).cstate = 5 → (s.context c).dying.isSome = true →
    (∀ p ∈ s.plans, p.2.ctx ≠ c) → (∀ q ∈ s.reqs, q.2.ctx = c → q.2.open = true → ∃ a b d, q.2.phase = .remoteParked a b d) →
    exec .killComplete s = .next (s.modCtx c (fun k => { k with dying := none }))) ∧
  (∀ (s : State) (kind n : Nat), s.occ = .num2 kind n → exec .controlStateError s = .next (((List.range 256).filter (fun c =>
    s.parts.any (fun p => p.2.uses kind n && p.2.ownsCtx c))).foldl State.failCtx
      ((s.count (ctrControl kind n false) 1).count (ctrModule 0) 1).flush)) ∧
  ∀ (s z : State) (c kind n : Nat), (s.occ = .num c ∧ z = s ∨ s.occ = .num3 kind n c ∧ z = s.count (ctrControl kind n false) 1) →
    let w := (z.count (ctrModule 0) 1).flush
    let st := (s.context c).cstate
    let t := (w.stopCtx c 6).modCtx c (fun k => { k with cause := 2 })
    (1 ≤ st ∧ st ≤ 4 → exec .controlStateError s = .next (({ t with
      irqs := (s.context c).svec :: t.irqs } : State).count (ctrModule 1) 1).flush) ∧
    (¬(1 ≤ st ∧ st ≤ 4) → exec .controlStateError s = .next w)

/-! ### Links -/

/-- Umtur links: a flit in turn is delivered with its depth, or held while further check symbols and then a replay are asked for, within
1,024 clocks each; the eighth replay that fails takes the link out of service; later flits wait behind a held one (R410, R411); the sender
answers from its replay buffer and an acknowledgement empties it (R409); a credit returns (R270); a link trains at width 8 or 4, its lanes
and width are kept (R412), it tells its fid, is tried again, at once where it left service and else a second after it failed, and by
itself at most three times in ten minutes (R419). The model's choice (log
entry 42): one flit carries one packet, and the number of its erroneous symbols comes with the occurrence. -/
def Obligations.LinkEventsComplete : Prop :=
  (∀ (s : State) (n seq errs : Nat) (c : Cargo),
    let l := s.link n
    l.up = true → l.behind = [] → seq = l.expect → c.ok = true →
    let asked := fun (depth : Nat) =>
      ({ s.modLink n (fun l => { l with held := depth, deadline := s.now + 1024 }) with out := .parityAsk n seq depth :: s.out } : State)
    let held := ((asked 1).modLink n (fun l => { l with holding := some c })).arrivals n
    (s.occ = .flit n seq errs c.ch c.row c.occ →
      (l.held = 0 → errs ≤ 4 → exec .flitReceive s = .next ((s.deliverFlit n 0 c).arrivals n)) ∧
      (l.held = 0 → 4 < errs → exec .flitReceive s = .next held) ∧
      (l.held = 3 → errs ≤ 4 → exec .flitReplayArrival s = .next ((s.deliverFlit n 0 c).arrivals n)) ∧
      (l.held = 3 → 4 < errs → exec .flitReplayArrival s = .next held)) ∧
    (s.occ = .num3 n seq errs → l.holding = some c →
      (l.held = 1 → errs ≤ 12 → exec .parityArrival s = .next ((s.deliverFlit n 1 c).arrivals n)) ∧
      (l.held = 1 → 12 < errs → exec .parityArrival s = .next (asked 2)) ∧
      (l.held = 2 → errs ≤ 24 → exec .parityArrival s = .next ((s.deliverFlit n 2 c).arrivals n)) ∧
      (l.held = 2 → 24 < errs → exec .parityArrival s = .next (s.askReplay n)))) ∧
  (∀ (s : State) (n seq errs : Nat) (c : Cargo),
    let l := s.link n
    s.occ = .flit n seq errs c.ch c.row c.occ → c.ok = true → l.up = true → l.held ≠ 0 → l.expect < seq → l.behind.length < 64 →
    exec .flitReceive s = .next (s.modLink n (fun l => { l with behind := l.behind.put seq (errs, c) }))) ∧
  -- a delivered flit is acknowledged, its credit goes back, and its packet arrives next
  (∀ (s : State) (n depth : Nat) (c : Cargo),
    let l := s.link n
    let d := if l.replays = 0 then depth else 3
    (s.deliverFlit n depth c).link n = { l with expect := l.expect + 1, held := 0, holding := none, replays := 0, inq := l.inq ++ [c],
                                                depths := l.depths.modify d (· + 1) } ∧
    (s.deliverFlit n depth c).out = .credit n c.ch :: .ack n l.expect :: s.out ∧
    (s.arrivals n).agenda = l.inq.map (fun c => Choice.run c.row c.occ) ++ s.agenda ∧ ((s.arrivals n).link n).inq = [] ∧
    (l.replays < 8 → (s.askReplay n).link n =
        { l with held := 3, holding := none, replays := l.replays + 1, deadline := s.now + 1024 } ∧
      (s.askReplay n).out = .replayAsk n l.expect :: s.out) ∧
    (8 ≤ l.replays → ((s.askReplay n).link n).up = false ∧ ((s.askReplay n).link n).fell = true)) ∧
  (∀ (s : State) (n : Nat), s.occ = .num n → (s.link n).up = true → (s.link n).held ≠ 0 →
    ((s.link n).deadline ≤ s.now → exec .flitRecoveryTimeout s = .next (s.askReplay n)) ∧
    (s.now < (s.link n).deadline → exec .flitRecoveryTimeout s = .next s)) ∧
  (∀ (s : State) (n seq depth : Nat), s.occ = .num3 n seq depth → (s.link n).up = true → depth = 1 ∨ depth = 2 →
    ((s.link n).acked ≤ seq → seq < (s.link n).next → exec .parityRequest s = .next { s with out := .parity n seq depth :: s.out }) ∧
    (seq < (s.link n).acked ∨ (s.link n).next ≤ seq → exec .parityRequest s = .next s)) ∧
  (∀ (s : State) (n seq : Nat), s.occ = .num2 n seq → (s.link n).up = true → (s.link n).acked ≤ seq → seq < (s.link n).next →
    (∃ t, exec .replayRequest s = .next t ∧ (∀ k o, seq ≤ k → k < (s.link n).next →
      (s.link n).buffer.find k = some o → Outgoing.flit n k o ∈ t.out) ∧ t.links = s.links) ∧
    ((s.link n).waitq = [] → exec .flitAck s =
      .next (s.modLink n (fun l => { l with acked := seq + 1, buffer := l.buffer.filter (fun x => seq < x.1) })))) ∧
  (∀ (s : State) (n cls ch : Nat), s.occ = .num3 n cls ch → cls < 2 → ch < 6 → (s.link n).up = true → (s.link n).waitq = [] →
    ((s.link n).covered < (s.link n).acked + 65 → exec .linkCreditReturn s = .next (s.modLink n (fun l =>
      { l with credits := l.credits.put (cls * 8 + ch) (l.credits.get (cls * 8 + ch) 0 + 1) }))) ∧
    ((s.link n).acked + 65 ≤ (s.link n).covered → exec .linkCreditReturn s = .next s)) ∧
  -- nothing but the not-ready answer leaves over a link whose partner's fid has not come; the rest waits for it
  (∀ (s : State) (n cls ch : Nat) (o : Outgoing), (s.link n).peerFid = none → o.notReady = false →
    s.sendLink n cls ch o = s.modLink n (fun l => { l with waitq := l.waitq ++ [(cls * 8 + ch, o)] })) ∧
  (∀ (s : State) (n : Nat) (r : LaneResult),
    let l := s.link n
    s.occ = .lanes n r → bit s.mgmt.linkMask n = true → l.up = false → l.disabled = false → l.training = true →
    (r.low = true ∨ r.high = true → ∃ t, exec .linkTraining s = .next t ∧ (t.link n).up = true ∧
      (t.link n).wide = (if r.low ∧ r.high then 8 else 4) ∧ (t.link n).reversed = r.reversed ∧ (t.link n).peerFid = none ∧
      t.mgmt.counters =
        ((s.count (ctrTraining n (s.mgmt.counters.get (ctrLink n 6) 0)) (laneCode r)).count (ctrLink n 6) 1).mgmt.counters ∧
      (s.mgmt.fidSet = true → t.out = .fid n s.mgmt.fid :: s.out) ∧ (s.mgmt.fidSet = false → t.out = s.out)) ∧
    (r.low = false → r.high = false → exec .linkTraining s =
      .next (s.modLink n (fun l => { l with training := false, failed := true, trainAt := s.now })))) ∧
  (∀ r : LaneResult, laneCode r % 16 = (if r.low ∧ r.high then 8 else 4) ∧ bit (laneCode r) 4 = r.low ∧ bit (laneCode r) 5 = r.high ∧
    bit (laneCode r) 6 = r.reversed) ∧
  (∀ (s : State) (n : Nat),
    let l := s.link n
    let recent := l.retrainAt.filter (fun t => decide (s.now < t + 600 * second))
    s.occ = .num n → bit s.mgmt.linkMask n = true → l.up = false → l.training = false → l.disabled = false → 4 ≤ s.mgmt.stage →
    s.mgmt.stage ≠ 15 →
    let due := (l.fell = true ∧ l.failed = false) ∨ l.trainAt + second ≤ s.now
    (¬due → exec .linkTrainRetry s = .next s) ∧
    (due → l.fell = true → 3 ≤ recent.length → exec .linkTrainRetry s = .next (s.modLink n (fun l => { l with disabled := true }))) ∧
    (due → l.fell = true → recent.length < 3 → exec .linkTrainRetry s = .next ((s.modLink n (fun l =>
      { l with training := true, retrainAt := s.now :: recent, retrains := l.retrains + 1 })).count (ctrLink n 5) 1)) ∧
    (due → l.fell = false → exec .linkTrainRetry s = .next (s.modLink n (fun l => { l with training := true })))) ∧
  ∀ (s : State) (n fid : Nat), s.occ = .num2 n fid → (s.link n).up = true → fid < 4096 →
    exec .fidExchange s = .next ((s.modLink n (fun l => { l with peerFid := some fid })).pumpLink n (s.link n).waitq.length)

/-! ### The host's side -/

/-- Host writes: only a 64-bit, naturally aligned one is performed; the power limit is clamped, a mailbox write starts a command unless
one runs, the route window opens at stage 5, a valid fabric id brings stage 6, a kick reaches its engine; in recovery mode only the
management window is there (R272, R415, R416, R417, R420). -/
def Obligations.HostWritesComplete : Prop :=
  (∀ (s : State) (bar off size : Nat) (v : W64), s.occ = .reg bar off size v →
    (size ≠ 8 ∨ off % 8 ≠ 0 → exec .registerWrite s = .next s) ∧
    (s.mgmt.recov = true → bar ≠ 0 ∨ 0x10000 ≤ off → exec .registerWrite s = .next s)) ∧
  (∀ (s : State) (bar off size : Nat), size ≠ 8 ∨ off % 8 ≠ 0 → s.barRead bar off size = 0) ∧
  (∀ (s : State) (k : Nat) (v : W64), s.occ = .reg 0 (8 * k) 8 v →
    (k = 2 → exec .registerWrite s = .next (s.modMgmt (fun m => { m with plimit := clampPower (v.toNat % 2 ^ 16) }))) ∧
    (k = 4 → s.mgmt.mcode = 1 → exec .registerWrite s = .next s) ∧
    (k = 4 → s.mgmt.mcode ≠ 1 → exec .registerWrite s = .next (s.modMgmt (fun m => { m with mcode := 1, mcmd := fld v 7 0 }))) ∧
    (5 ≤ k → k ≤ 12 → exec .registerWrite s = .next (s.modMgmt (fun m => { m with marg := m.marg.set (k - 5) v }))) ∧
    (k < 0x2000 → k ≠ 2 → k ≠ 4 → k < 5 ∨ 12 < k → exec .registerWrite s = .next s)) ∧
  (∀ n, clampPower n = if n < 1200 then 1200 else if 2300 < n then 2300 else n) ∧
  (∀ (s : State) (n k : Nat) (v : W64), s.mgmt.recov = false →
    (s.occ = .reg 0 (0x10000 + 64 * n + 8 * k) 8 v → n < 32 → k < 8 → exec .registerWrite s = .next (s.writeEngineReg n k v)) ∧
    (s.occ = .reg 2 (4096 * n) 8 v → n < 32 → exec .registerWrite s = .next (s.kick n (v.setWidth 32))) ∧
    (s.occ = .reg 0 (0x20000 + 8 * n) 8 v → n < 4096 →
      (s.mgmt.stage = 5 ∨ s.mgmt.stage = 6 → exec .registerWrite s = .next { s with
        routes := s.routes.put n (BitVec.ofNat 64 (v.toNat % 2 ^ 36 + v.toNat / 2 ^ 48 * 2 ^ 48)) }) ∧
      (s.mgmt.stage ≠ 5 → s.mgmt.stage ≠ 6 → exec .registerWrite s = .next s)) ∧
    (s.occ = .reg 0 0x28000 8 v → exec .registerWrite s = .next (s.writeFid v))) ∧
  ∀ (s : State) (n : Nat) (v : W64), s.occ = .write n v →
    (s.mgmt.stage ≠ 5 → s.mgmt.stage ≠ 6 → exec .fabricIdWrite s = .next s) ∧
    (s.mgmt.stage = 5 ∨ s.mgmt.stage = 6 → ∃ t, exec .fabricIdWrite s = .next t ∧ t.mgmt.fid = v.toNat % 2 ^ 12 ∧
      t.mgmt.fidSet = v.getLsbD 31 ∧ t.mgmt.stage = (if v.getLsbD 31 then 6 else s.mgmt.stage) ∧ t.mem = s.mem)

/-- The mailbox: the catalogue; partitions created, changed and destroyed, or refused with the reasons of R417; decoders, IDE, images,
links; an unknown command; in recovery mode every command but 0x10 is unknown (R361, R362, R379, R380, R413, R415-R417). Of R417's reasons
the first that holds in the order 4, 3 or 5, the image's 4, 2, 1 is the answer: that order is the model's choice (log entry 13). A decoder
of length 0 is taken away, and the arguments of 0x04 and 0x05 come with the occurrence (DESIGN CHOICE, log entry 44); a command that
cannot be performed yet is in progress until it can (DESIGN CHOICE, log entry 47). -/
def Obligations.MailboxComplete : Prop :=
  (∀ s : State, s.asked 1 = true → exec .reportCatalogue s =
    .next (s.modMgmt (fun m => { m with marg := (List.range 8).map Config.catalogue, mcode := 0 }))) ∧
  (∀ s : State, s.asked 2 = true → s.mgmt.stage = 6 → s.cacheShut = false →
    let a := (s.mgmt.marg.getD 0 0).toNat
    let b := (s.mgmt.marg.getD 1 0).toNat
    let x := s.readStore (Loc.host a).key 256
    let d := BitVec.ofNat 2048 x.1
    let used := ∃ p, s.parts.find (b % 16) = some p ∧ s.inUse p = true
    let met := ∃ q ∈ s.parts, q.1 ≠ b % 16 ∧ descsMeet d q.2.desc = true
    let refused := fun n => exec .partitionCreate s = .next (s.refuseCmd n)
    (16 ≤ b ∨ a % 256 ≠ 0 ∨ x.2 = true → refused 4) ∧
    (b < 16 → a % 256 = 0 → x.2 = false →
      (used → refused 3) ∧
      (¬used → descMalformed d = true → refused 4) ∧
      (¬used → descMalformed d = false → s.descAbsent d = true → refused 2) ∧
      (¬used → descMalformed d = false → s.descAbsent d = false → met → refused 1) ∧
      (¬used → descMalformed d = false → s.descAbsent d = false → ¬met → exec .partitionCreate s = .next (s.putPart b d).doneCmd))) ∧
  (∀ (s : State) (i : Nat) (d : BitVec 2048), ∃ p, (s.putPart i d).parts.find i = some p ∧
    ∀ k < 32, k ≠ 11 → wordAt p.desc k = wordAt d k) ∧
  (∀ s : State, s.asked 3 = true →
    let b := (s.mgmt.marg.getD 1 0).toNat
    s.canLeave (b % 16) = true →
    (16 ≤ b → exec .partitionDestroy s = .next (s.refuseCmd 4)) ∧
    (b < 16 → s.parts.find b = none → exec .partitionDestroy s = .next (s.refuseCmd 5)) ∧
    ∀ p, b < 16 → s.parts.find b = some p →
      (s.inUse p = true → exec .partitionDestroy s = .next (s.refuseCmd 3)) ∧
      (s.inUse p = false → let t := (s.leavePart b p).leaveEngines (hasEngine p.desc)
        exec .partitionDestroy s = .next ({ t with parts := t.parts.del b } : State).doneCmd)) ∧
  (∀ (s : State) (i base len part ia key : Nat), s.occ = .nums [i, base, len, part, ia, key] → s.asked 4 = true →
    let others := s.mgmt.decoders.filter (fun d => d.1 != i)
    let conflict := fun (p : Partition) =>
      p.inIA ia (ia + len) = false ∨ bit (Desc.keys p.desc) key = false ∨ ∃ d ∈ others, meets base len d.2.1 d.2.2.1 = true
    (16 ≤ i → exec .decoderProgram s = .next (s.refuseCmd 4)) ∧
    (i < 16 → len = 0 → exec .decoderProgram s =
      .next (s.modMgmt (fun m => { m with decoders := m.decoders.del i, mcode := 0 }))) ∧
    ∀ p, i < 16 → len ≠ 0 → s.parts.find part = some p →
      (conflict p → exec .decoderProgram s = .next (s.refuseCmd 7)) ∧
      (¬conflict p → exec .decoderProgram s =
        .next (s.modMgmt (fun m => { m with decoders := m.decoders.put i (base, len, part, ia, key), mcode := 0 })))) ∧
  (∀ (s : State) (need able : Bool), s.occ = .flags need able → s.asked 5 = true →
    (able = true → exec .ideRequire s = .next (s.modMgmt (fun m => { m with ideNeed := need, ideUp := need && m.ideUp, mcode := 0 }))) ∧
    (able = false → exec .ideRequire s = .next (s.refuseCmd 8))) ∧
  (∀ (s : State) (i : FwImage), s.occ = .image i → s.asked 0x10 = true →
    (imageOk i = false → exec .imageWrite s = .next (s.refuseCmd 6)) ∧
    (imageOk i = true → exec .imageWrite s = .next (s.modMgmt (fun m =>
      if m.slot = 0 then { m with flashB := some i, mcode := 0 } else { m with flashA := some i, mcode := 0 })))) ∧
  (∀ s : State, s.asked 0x11 = true →
    let n := (s.mgmt.marg.getD 0 0).toNat
    (16 ≤ n → exec .linkRetrain s = .next (s.refuseCmd 4)) ∧
    (n < 16 → bit s.mgmt.linkMask n = false → exec .linkRetrain s = .next (s.refuseCmd 2)) ∧
    (n < 16 → bit s.mgmt.linkMask n = true → ∃ t, exec .linkRetrain s = .next t ∧ t.mgmt.mcode = 0 ∧ (t.link n).up = false ∧
      (t.link n).training = true ∧ (t.link n).disabled = false ∧ (t.link n).retrainAt = (s.link n).retrainAt)) ∧
  (∀ s : State, s.mgmt.on = true → s.mgmt.stage ≠ 0 → s.mgmt.mcode = 1 → s.mgmt.mcmd ∉ [1, 2, 3, 4, 5, 0x10, 0x11] ∨ (s.mgmt.recov = true ∧ s.mgmt.mcmd ≠ 0x10) →
    exec .unknownCommand s = .next (s.modMgmt (fun m => { m with mcode := 3 }))) ∧
  ∀ (s : State) (n : Nat), (s.refuseCmd n).mgmt.mcode = 2 ∧
    (s.refuseCmd n).mgmt.marg = BitVec.ofNat 64 n :: List.replicate 7 0 ∧ (s.refuseCmd n).parts = s.parts

/-- Bring-up passes its stages in order, and a stage that fails, or of stages 0 to 3 one that outlasts its bound, sets stage 15 and its
code, while a stage 4 that outlasts its bound goes on to stage 5 (R414, R415; DEDUCED, log entry 47); a host access to memory is performed
at its slice under the decoder's key, or completes with poison (R379, R380); attestation gives its four blocks, signed when asked, once a
version, capabilities and algorithms are agreed (R382); the patrol, the counters, the power and its loss (R405, R412, R421). Poison of a
CXL.mem access that is turned away and the decoder's key in place of the leaf's are log entry 45 (DEDUCED), the images and the bytes of the
messages log entry 58 (DESIGN CHOICE, PRESUMED), and what a power loss keeps log entry 47. -/
def Obligations.ManagementEventsComplete : Prop :=
  (∀ s : State, s.mgmt.on = false →
    let a := s.imageIn 0
    let b := s.imageIn 1
    let up := fun (slot : Nat) (i : FwImage) => s.modMgmt (fun m =>
      { m with on := true, stageSince := s.now, stage := 1, slot, running := some i })
    (imageOk a = true → exec .powerGood s = .next (up 0 a)) ∧
    (imageOk a = false → imageOk b = true → exec .powerGood s = .next (up 1 b)) ∧
    (imageOk a = false → imageOk b = false → exec .powerGood s =
      .next (s.modMgmt (fun m => { m with on := true, stageSince := s.now, stage := 15, err := 1, recov := true })))) ∧
  (∀ s : State, s.mgmt.on = true →
    (∀ r, s.occ = .report r → s.mgmt.stage = 1 → (∀ n ∈ [r.cores0, r.cores1, r.cores2, r.cores3], n % 16 = 0 ∧ n ≤ 16 * Config.gridRows) →
      (∀ n ∈ r.repaired, n < Config.hbmStacks Config.kind) →
      (r.store = true → ∃ t, exec .firmwareStart s = .next t ∧ t.mgmt.stage = 2 ∧
        t.mgmt.cores = [r.cores0, r.cores1, r.cores2, r.cores3] ∧ (r.repaired = [] → t.mgmt.counters = s.mgmt.store) ∧
        t.mgmt.linkMask = r.links % 2 ^ Config.links Config.kind) ∧
      (r.store = false → exec .firmwareStart s = .next (s.failStage 2))) ∧
    (∀ m, s.occ = .num m → s.mgmt.stage = 2 →
      let k := m % 2 ^ Config.hbmStacks Config.kind
      (k ≠ 0 → exec .hbmTrainingDone s = .next (s.modMgmt (fun m => { m with stage := 3, stackMask := k }))) ∧
      (k = 0 → exec .hbmTrainingDone s = .next (s.failStage 3))) ∧
    (s.mgmt.recov = false → s.mgmt.stage = 3 →
      (s.occ = .flag true → ∃ t, exec .cxlTrainingDone s = .next t ∧ t.mgmt.stage = 4 ∧ t.mgmt.cxlUp = true ∧
        ∀ n < 16, bit s.mgmt.linkMask n = true → (t.link n).training = true) ∧
      (s.occ = .flag false → exec .cxlTrainingDone s = .next (s.failStage 4))) ∧
    (s.mgmt.stage = 4 → (∀ l ∈ s.links, l.2.training = false) → exec .umturTrainingDone s = .next (s.modMgmt (fun m => { m with stage := 5 }))) ∧
    ∀ n bound, (n, bound) ∈ [(0, 2), (1, 3), (2, 12), (3, 20), (4, 40)] → s.mgmt.stage = n →
      (s.mgmt.stageSince + second * bound ≤ s.now →
        exec .stageTimeout s = .next (if n = 4 then s.modMgmt (fun m => { m with stage := 5 }) else s.failStage (n + 1))) ∧
      (s.now < s.mgmt.stageSince + second * bound → exec .stageTimeout s = .next s)) ∧
  (∀ (s : State) (ok : Bool), s.occ = .flag ok → s.mgmt.recov = true →
    exec .cxlTrainingDone s = .next (s.modMgmt (fun m => { m with cxlUp := ok }))) ∧
  (∀ (s : State) (code : Nat), (s.failStage code).mgmt = { s.mgmt with stage := 15, err := code }) ∧
  (∀ (s : State) (a : CxlAccess), s.occ = .cxl a → a.size ≠ 0 → a.addr / 64 = (a.addr + a.size - 1) / 64 →
    let bad := ({ s with out := .cxl a.addr 0 true :: s.out } : State)
    (s.cacheShut = true → exec .cxlMemAccess s = .next bad) ∧
    (s.cacheShut = false →
      (s.decoderOf a = none → exec .cxlMemAccess s = .next bad) ∧
      ∀ base len part ia0 key p, s.decoderOf a = some (base, len, part, ia0, key) → s.parts.find part = some p →
        let ia := ia0 + (a.addr - base)
        let side := s.memSide p (s.walk p ia) ia a.size 0 false false a.data.isSome false none
        (∀ t, side = .fail t → exec .cxlMemAccess s = .next bad) ∧
        (side = .zeros → exec .cxlMemAccess s = .next { s with out := .cxl a.addr 0 false :: s.out }) ∧
        ∀ leaf phys page, side = .go leaf phys page → (∀ d, p.domainOf ia = some d → d.moves ia = false) →
          let z := s.modMgmt (fun m => { m with hostHeld := m.hostHeld.add (ia / 64) })
          let via : Via := ⟨leaf - Leaf.key leaf * 2 ^ 10 + key * 2 ^ 10, phys, page, p.sliceOf ia, 0⟩
          (∀ v, a.data = some v → let t := z.writeLocal ia a.size v false via
            exec .cxlMemAccess s = .next { t with out := .cxl a.addr 0 false :: t.out }) ∧
          (a.data = none → let x := z.readLocal ia a.size via
            exec .cxlMemAccess s = .next { x.2 with out := .cxl a.addr x.1.1 x.1.2 :: x.2.out }))) ∧
  (∀ s : State,
    let fw := s.mgmt.running.getD default
    let values : List (Byte × List Byte) := [(0x00, beBytes Config.bootDigest.toNat 48), (0x01, beBytes (imageDigest fw).toNat 48),
      (0x87, byteList fw.version 8), (0x03, beBytes (sha384 s.measuredOver).toNat 48)]
    let blocks := values.zipIdx.flatMap (fun x => measurementBlock (x.2 + 1) x.1)
    let said := fun (q : Spdm) (a : List Byte) =>
      ({ s.modMgmt (fun g => { g with spdm := q }) with fresh := s.fresh + 1, out := .spdm a :: s.out } : State)
    let answer := fun (nonce : List Byte) => [0x12, 0x60, 0, 0, 4] ++ byteList blocks.length 3 ++ blocks ++ nonce ++ [0, 0]
    (s.mgmt.spdm.stage = 3 → s.occ = .doe (.spdm [0x12, 0xE0, 0, 0xFF]) → ∃ q nonce, nonce.length = 32 ∧
      exec .doeRequest s = .next (said q (answer nonce))) ∧
    (∀ rest, s.mgmt.spdm.stage = 3 → rest.length = 33 → s.occ = .doe (.spdm ([0x12, 0xE0, 1, 0xFF] ++ rest)) → ∃ q nonce sig,
      nonce.length = 32 ∧ sig.length = 96 ∧ exec .doeRequest s = .next (said q (answer nonce ++ sig))) ∧
    (∀ m, s.mgmt.spdm.stage ≠ 3 → m.headD 0 ∈ [0x81, 0x82, 0x83, 0xE0] → s.occ = .doe (.spdm (0x12 :: m)) →
      exec .doeRequest s = .next (said { s.mgmt.spdm with measured := [] } [0x12, 0x7F, 4, 0])) ∧
    (s.occ = .doe .ideKeys → exec .doeRequest s = .next (s.modMgmt (fun m => { m with ideUp := true }))) ∧
    (s.occ = .doe .ideStop → exec .doeRequest s = .next (s.modMgmt (fun m => { m with ideUp := false }))) ∧
    (s.mgmt.loaded = true → s.mgmt.flushAt + 60 * second ≤ s.now →
      exec .counterFlush s = .next (s.modMgmt (fun m => { m with store := m.counters, flushAt := s.now }))) ∧
    (s.mgmt.loaded = false ∨ s.now < s.mgmt.flushAt + 60 * second → exec .counterFlush s = .next s)) ∧
  (∀ (s : State) (n : Nat) (r : ScrubResult), s.occ = .scrub n r → ∃ t, exec .patrolScrub s = .next t ∧ t.mem = s.mem ∧
    (r ≠ .uncorrectable → t.poison = s.poison) ∧
    (r = .uncorrectable → t.poison = setPoison s.poison ((Loc.hbm (32 * n)).key / 4) true 8 ∧
      (s.mgmt.loaded = true → t.mgmt.store = t.mgmt.counters))) ∧
  (∀ (s : State) (slow pnow : Nat), s.occ = .num2 slow pnow →
    (slow ≤ 224 → pnow ≤ s.mgmt.plimit → exec .powerThrottle s = .next (s.modMgmt (fun m => { m with slow, pnow }))) ∧
    (224 < slow ∨ s.mgmt.plimit < pnow → exec .powerThrottle s = .next s)) ∧
  ∀ (s : State) (orderly : Bool), s.occ = .flag orderly → ∃ t, exec .powerLoss s = .next t ∧ t.exs = [] ∧ t.engines = [] ∧ t.parts = [] ∧
    t.ctxs = [] ∧ t.mgmt.on = false ∧ t.mgmt.stage = 0 ∧ t.mgmt.flashA = s.mgmt.flashA ∧ t.mgmt.flashB = s.mgmt.flashB ∧
    t.mgmt.store = (if orderly ∧ s.mgmt.loaded then s.mgmt.counters else s.mgmt.store) ∧
    t.mem = s.mem.filter (fun x => decide (2 ^ 64 ≤ x.1 ∧ x.1 < 2 * 2 ^ 64))

/-! ### Memory and reset -/

/-- Every step keeps memory in its canonical form, from every state that has it: equal memories are equal data. -/
def Obligations.StepKeepsMemory : Prop :=
  ∀ s t : State, s.memWf = true → core.step s = .next t → t.memWf = true

/-- Reset leaves the values the tables of the spec give: stage 0, no error, plimit 2300, the mailbox done with no command, no valid
device id, no context valid (cstate 0, empty rings, range registers not valid), every engine block zero with en 0, every slot-table
record free, no partition; memory lists nothing. (That a byte then reads zero is the model's choice, log entry 1.) -/
def Obligations.ResetLeaves : Prop :=
  let s := core.reset
  s = State.reset ∧ s.memWf = true ∧ s.mem = [] ∧ s.parts = [] ∧ s.teams = [] ∧ s.now = 0 ∧
    s.mgmt.stage = 0 ∧ s.mgmt.recov = false ∧ s.mgmt.err = 0 ∧ s.mgmt.slot = 0 ∧ s.mgmt.plimit = 2300 ∧ s.mgmt.pnow = 0 ∧ s.mgmt.slow = 0 ∧
    s.mgmt.mcode = 0 ∧ s.mgmt.mcmd = 0 ∧ s.mgmt.marg = List.replicate 8 0 ∧ s.mgmt.fid = 0 ∧ s.mgmt.fidSet = false ∧
    (∀ c, (s.context c).v = false ∧ (s.context c).cstate = 0 ∧ (s.context c).frlog = 0 ∧ (s.context c).trlog = 0 ∧
      (s.context c).frhead = 0 ∧ (s.context c).frtail = 0 ∧ (s.context c).trhead = 0 ∧ (s.context c).trtail = 0 ∧
      (s.context c).hung = false ∧ (s.context c).cause = 0 ∧ (s.context c).sgen = 0 ∧ (s.context c).ranges = List.replicate 16 0) ∧
    (∀ n, (s.engineRec n).en = false ∧ (s.engineRec n).state = 0 ∧ (s.engineRec n).rlog = 0 ∧ (s.engineRec n).code = 0 ∧
      ∀ k < 8, s.readEngineReg n k = 0) ∧
    (∀ i, s.slots.get i 0 = 0) ∧ ∀ n, (s.link n).status = 0
end

