-- ==== Sys2Proof/Laws/Assoc.lean ====
section
/-! SUPPORT. Reading a finite map after a change: the key changed gives the new value, every other key what it gave; the changes
keep the canonical form. -/

namespace Sys2Proof.Machine

variable {α : Type}

@[simp] theorem Assoc.find_nil (k : Nat) : Assoc.find ([] : Assoc α) k = none := rfl

@[simp] theorem Assoc.find_put_self (m : Assoc α) (k : Nat) (v : α) : (m.put k v).find k = some v := by
  induction m with
  | nil => simp [Assoc.put, Assoc.find]
  | cons p m ih =>
    obtain ⟨j, w⟩ := p
    by_cases h : j = k
    · simp [Assoc.put, Assoc.find, h]
    · by_cases h2 : k < j <;> simp [Assoc.put, Assoc.find, h, h2, ih]

theorem Assoc.find_put_of_ne (m : Assoc α) {k j : Nat} (v : α) (h : j ≠ k) : (m.put k v).find j = m.find j := by
  induction m with
  | nil =>
    have : k ≠ j := fun e => h e.symm
    by_cases h2 : j < k <;> simp [Assoc.put, Assoc.find, this]
  | cons p m ih =>
    obtain ⟨i, w⟩ := p
    have hk : k ≠ j := fun e => h e.symm
    by_cases h1 : i = k
    · subst h1; simp [Assoc.put, Assoc.find, hk]
    · by_cases h2 : k < i
      · by_cases h3 : j < k
        · have h4 : j < i := by omega
          have h5 : i ≠ j := by omega
          simp [Assoc.put, Assoc.find, h1, h2, h3, h4, h5, hk]
        · simp [Assoc.put, Assoc.find, h1, h2, h3, hk]
      · simp [Assoc.put, Assoc.find, h1, h2, ih]

@[simp] theorem Assoc.find_put (m : Assoc α) (k j : Nat) (v : α) :
    (m.put k v).find j = if j = k then some v else m.find j := by
  by_cases h : j = k
  · subst h; simp
  · simp [h, Assoc.find_put_of_ne m v h]

theorem Assoc.find_alter_self (m : Assoc α) (k : Nat) (f : α → α) : (m.alter k f).find k = (m.find k).map f := by
  unfold Assoc.alter; cases h : m.find k <;> simp [h]

theorem Assoc.find_alter_of_ne (m : Assoc α) {k j : Nat} (f : α → α) (h : j ≠ k) : (m.alter k f).find j = m.find j := by
  unfold Assoc.alter; cases hk : m.find k <;> simp [h]

@[simp] theorem Assoc.find_alter (m : Assoc α) (k j : Nat) (f : α → α) :
    (m.alter k f).find j = if j = k then (m.find k).map f else m.find j := by
  by_cases h : j = k
  · subst h; simp [Assoc.find_alter_self]
  · simp [h, Assoc.find_alter_of_ne m f h]

theorem Assoc.get_put_self (m : Assoc α) (k : Nat) (v d : α) : (m.put k v).get k d = v := by simp [Assoc.get]

theorem Assoc.get_put_of_ne (m : Assoc α) {k j : Nat} (v d : α) (h : j ≠ k) : (m.put k v).get j d = m.get j d := by
  simp [Assoc.get, h]

/-! ### The canonical form -/

theorem Assoc.sortedFrom_mono {m : Assoc α} {a b : Nat} (h : a ≤ b) (hs : Assoc.sortedFrom b m = true) :
    Assoc.sortedFrom a m = true := by
  cases m with
  | nil => rfl
  | cons p m => simp only [Assoc.sortedFrom, Bool.and_eq_true, decide_eq_true_eq] at hs ⊢; exact ⟨by omega, hs.2⟩

theorem Assoc.sortedFrom_put {m : Assoc α} {b k : Nat} (v : α) (hb : b ≤ k) (hs : Assoc.sortedFrom b m = true) :
    Assoc.sortedFrom b (m.put k v) = true := by
  induction m generalizing b with
  | nil => simp [Assoc.put, Assoc.sortedFrom, hb]
  | cons p m ih =>
    obtain ⟨j, w⟩ := p
    simp only [Assoc.sortedFrom, Bool.and_eq_true, decide_eq_true_eq] at hs
    unfold Assoc.put
    split
    · next h => subst h; simp [Assoc.sortedFrom, hs]
    · split
      · next h => simp [Assoc.sortedFrom, hb, hs.2]; omega
      · next h1 h2 =>
        simp only [Assoc.sortedFrom, Bool.and_eq_true, decide_eq_true_eq]
        exact ⟨hs.1, ih (by omega) hs.2⟩

theorem Assoc.sortedFrom_del {m : Assoc α} {b k : Nat} (hs : Assoc.sortedFrom b m = true) :
    Assoc.sortedFrom b (m.del k) = true := by
  induction m generalizing b with
  | nil => rfl
  | cons p m ih =>
    obtain ⟨j, w⟩ := p
    simp only [Assoc.sortedFrom, Bool.and_eq_true, decide_eq_true_eq] at hs
    unfold Assoc.del
    split
    · exact Assoc.sortedFrom_mono (by omega) hs.2
    · split
      · simp [Assoc.sortedFrom, hs]
      · simp only [Assoc.sortedFrom, Bool.and_eq_true, decide_eq_true_eq]
        exact ⟨hs.1, ih hs.2⟩

theorem Assoc.wf_put {m : Assoc α} (k : Nat) (v : α) (h : m.wf = true) : (m.put k v).wf = true :=
  Assoc.sortedFrom_put v (Nat.zero_le _) h

theorem Assoc.wf_del {m : Assoc α} (k : Nat) (h : m.wf = true) : (m.del k).wf = true := Assoc.sortedFrom_del h

theorem Assoc.wf_alter {m : Assoc α} (k : Nat) (f : α → α) (h : m.wf = true) : (m.alter k f).wf = true := by
  unfold Assoc.alter; cases m.find k with
  | none => exact h
  | some v => exact Assoc.wf_put k _ h

theorem Assoc.find_lt_bound {m : Assoc α} {b k : Nat} (hs : Assoc.sortedFrom b m = true) (hk : k < b) : m.find k = none := by
  cases m with
  | nil => rfl
  | cons p m =>
    obtain ⟨j, w⟩ := p
    simp only [Assoc.sortedFrom, Bool.and_eq_true, decide_eq_true_eq] at hs
    have : j ≠ k := by omega
    have h2 : k < j := by omega
    simp [Assoc.find, this, h2]

theorem Assoc.find_del {m : Assoc α} (k j : Nat) (h : m.wf = true) :
    (m.del k).find j = if j = k then none else m.find j := by
  have gen : ∀ (b : Nat) (m : Assoc α), Assoc.sortedFrom b m = true →
      (m.del k).find j = if j = k then none else m.find j := by
    intro b m
    induction m generalizing b with
    | nil => intro _; simp [Assoc.del]
    | cons p m ih =>
      obtain ⟨i, w⟩ := p
      intro hs
      simp only [Assoc.sortedFrom, Bool.and_eq_true, decide_eq_true_eq] at hs
      unfold Assoc.del
      split
      · next hik =>
        subst hik
        by_cases hj : j = i
        · subst hj; simp [Assoc.find_lt_bound hs.2 (Nat.lt_succ_self _)]
        · by_cases h3 : j < i
          · have : i ≠ j := by omega
            simp [Assoc.find, hj, h3, this, Assoc.find_lt_bound hs.2 (by omega : j < i + 1)]
          · have : i ≠ j := by omega
            simp [Assoc.find, hj, h3, this]
      · next hik =>
        split
        · next hki =>
          by_cases hj : j = k
          · subst hj; have : i ≠ j := by omega
            simp [Assoc.find, this, hki]
          · simp [hj]
        · next hki =>
          have h4 := ih _ hs.2
          by_cases hj : j = k
          · subst hj
            simp only [if_true] at h4
            simp [Assoc.find, hik, hki, h4]
          · simp only [hj, if_false] at h4
            simp [Assoc.find, hj, h4]
  exact gen 0 m h

/-- Two maps in canonical form that give the same at every key are the same list. -/
theorem Assoc.ext_find {m n : Assoc α} (hm : m.wf = true) (hn : n.wf = true) (h : ∀ k, m.find k = n.find k) : m = n := by
  have gen : ∀ (b : Nat) (m n : Assoc α), Assoc.sortedFrom b m = true → Assoc.sortedFrom b n = true →
      (∀ k, m.find k = n.find k) → m = n := by
    intro b m
    induction m generalizing b with
    | nil =>
      intro n _ _ h
      cases n with
      | nil => rfl
      | cons q n => have := h q.1; simp [Assoc.find] at this
    | cons p m ih =>
      intro n hm hn h
      cases n with
      | nil => have := h p.1; simp [Assoc.find] at this
      | cons q n =>
        obtain ⟨j, v⟩ := p
        obtain ⟨i, w⟩ := q
        simp only [Assoc.sortedFrom, Bool.and_eq_true, decide_eq_true_eq] at hm hn
        have hji : j = i := by
          rcases Nat.lt_trichotomy j i with hlt | heq | hgt
          · have := h j
            have h2 : i ≠ j := by omega
            simp [Assoc.find, hlt, h2] at this
          · exact heq
          · have := h i
            have h2 : j ≠ i := by omega
            simp [Assoc.find, hgt, h2] at this
        subst hji
        have hv : v = w := by have := h j; simpa [Assoc.find] using this
        subst hv
        congr 1
        refine ih _ _ hm.2 hn.2 (fun k => ?_)
        by_cases hk : k ≤ j
        · rw [Assoc.find_lt_bound hm.2 (by omega), Assoc.find_lt_bound hn.2 (by omega)]
        · have := h k
          have h1 : j ≠ k := by omega
          have h2 : ¬ k < j := by omega
          simpa [Assoc.find, h1, h2] using this
  exact gen 0 m n hm hn h

end Sys2Proof.Machine
end

