-- ==== Sys2Proof/Laws/Monad.lean ====
section
/-! SUPPORT. How the parts of a meaning run: one equation per building block, so that a proof evaluates a body step by step
without unfolding the monad. -/

namespace Sys2Proof.Machine

variable {α β : Type}

@[simp] theorem M.pure_run (a : α) (s : State) : (pure a : M α) s = .ok (a, s) := rfl
@[simp] theorem M.get_run (s : State) : (get : M State) s = .ok (s, s) := rfl
@[simp] theorem M.set_run (s t : State) : (set t : M PUnit) s = .ok (⟨⟩, t) := rfl
@[simp] theorem M.modify_run (f : State → State) (s : State) : (modify f : M PUnit) s = .ok (⟨⟩, f s) := rfl
@[simp] theorem M.throw_run (e : Stop) (s : State) : (throw e : M α) s = .error e := rfl
@[simp] theorem M.trap_run (c n : Nat) (s : State) : (trap c n : M α) s = .error (.trap (tinfo c n)) := rfl
@[simp] theorem M.stopTrap_run (t : TrapInfo) (s : State) : (stopTrap t : M α) s = .error (.trap t) := rfl
@[simp] theorem M.wait_run (w : Wait) (s : State) : (wait w : M α) s = .error (.wait w) := rfl

theorem M.bind_run (m : M α) (f : α → M β) (s : State) :
    (m >>= f) s = match m s with | .ok (a, t) => f a t | .error e => .error e := by
  show (StateT.bind m f s : Except Stop (β × State)) = _
  simp only [StateT.bind, bind, Except.bind]
  cases m s <;> rfl

/-- A first part that ends well is followed by the rest. -/
theorem M.bind_ok {m : M α} {f : α → M β} {s t : State} {a : α} (h : m s = .ok (a, t)) : (m >>= f) s = f a t := by
  rw [M.bind_run, h]

/-- A first part that stops, stops the whole. -/
theorem M.bind_error {m : M α} {f : α → M β} {s : State} {e : Stop} (h : m s = .error e) : (m >>= f) s = .error e := by
  rw [M.bind_run, h]

/-- A whole that ends well went through a state between its parts. -/
theorem M.bind_inv {m : M α} {f : α → M β} {s t : State} {b : β} (h : (m >>= f) s = .ok (b, t)) :
    ∃ a r, m s = .ok (a, r) ∧ f a r = .ok (b, t) := by
  rw [M.bind_run] at h
  cases hm : m s with
  | error e => rw [hm] at h; cases h
  | ok p => rw [hm] at h; exact ⟨p.1, p.2, rfl, h⟩

@[simp] theorem M.trapIf_false (c n : Nat) : trapIf false c n = pure () := rfl
@[simp] theorem M.trapIf_true (c n : Nat) : trapIf true c n = trap c n := rfl
@[simp] theorem M.waitUnless_true (w : Wait) : waitUnless true w = pure () := rfl
@[simp] theorem M.waitUnless_false (w : Wait) : waitUnless false w = wait w := rfl

theorem M.unit_run {s : State} {u : Agent} (h : s.cur = some u) : unit s = .ok (u, s) := by
  simp [unit, M.bind_run, h]

theorem M.ctl_run {s : State} {u : Agent} {c : Ctl} (h : s.cur = some u) (hc : s.ctl u = some c) : ctl s = .ok (c, s) := by
  simp [ctl, M.bind_run, M.unit_run h, hc]

theorem M.modCtl_run {s : State} {u : Agent} (f : Ctl → Ctl) (h : s.cur = some u) :
    modCtl f s = .ok (⟨⟩, s.modCtl u f) := by
  simp [modCtl, M.bind_run, M.unit_run h]

theorem M.team_run {s : State} {u : Agent} {t : Team} (h : s.cur = some u) (ht : s.teamOf u = some t) :
    team s = .ok (t, s) := by
  simp [team, M.bind_run, M.unit_run h, ht]

end Sys2Proof.Machine
end

