-- ==== Sys2Proof/Laws/State.lean ====
section
/-! SUPPORT. What each named update of the state leaves alone and what it changes: one equation a field and update, so that no
proof unfolds a record update. -/

namespace Sys2Proof.Machine

variable (s : State)

@[simp] theorem State.modEx_ir (a b : Nat) (f : ExThread → ExThread) : (s.modEx a b f).ir = s.ir := rfl
@[simp] theorem State.modEx_occ (a b : Nat) (f : ExThread → ExThread) : (s.modEx a b f).occ = s.occ := rfl
@[simp] theorem State.modEx_cur (a b : Nat) (f : ExThread → ExThread) : (s.modEx a b f).cur = s.cur := rfl
@[simp] theorem State.modEx_agenda (a b : Nat) (f : ExThread → ExThread) : (s.modEx a b f).agenda = s.agenda := rfl
@[simp] theorem State.modEx_now (a b : Nat) (f : ExThread → ExThread) : (s.modEx a b f).now = s.now := rfl
@[simp] theorem State.modEx_fresh (a b : Nat) (f : ExThread → ExThread) : (s.modEx a b f).fresh = s.fresh := rfl
@[simp] theorem State.modEx_mem (a b : Nat) (f : ExThread → ExThread) : (s.modEx a b f).mem = s.mem := rfl
@[simp] theorem State.modEx_poison (a b : Nat) (f : ExThread → ExThread) : (s.modEx a b f).poison = s.poison := rfl
@[simp] theorem State.modEx_tags (a b : Nat) (f : ExThread → ExThread) : (s.modEx a b f).tags = s.tags := rfl
@[simp] theorem State.modEx_tagBad (a b : Nat) (f : ExThread → ExThread) : (s.modEx a b f).tagBad = s.tagBad := rfl
@[simp] theorem State.modEx_keys (a b : Nat) (f : ExThread → ExThread) : (s.modEx a b f).keys = s.keys := rfl
@[simp] theorem State.modEx_l2 (a b : Nat) (f : ExThread → ExThread) : (s.modEx a b f).l2 = s.l2 := rfl
@[simp] theorem State.modEx_walkc (a b : Nat) (f : ExThread → ExThread) : (s.modEx a b f).walkc = s.walkc := rfl
@[simp] theorem State.modEx_cores (a b : Nat) (f : ExThread → ExThread) : (s.modEx a b f).cores = s.cores := rfl
@[simp] theorem State.modEx_engines (a b : Nat) (f : ExThread → ExThread) : (s.modEx a b f).engines = s.engines := rfl
@[simp] theorem State.modEx_teams (a b : Nat) (f : ExThread → ExThread) : (s.modEx a b f).teams = s.teams := rfl
@[simp] theorem State.modEx_strips (a b : Nat) (f : ExThread → ExThread) : (s.modEx a b f).strips = s.strips := rfl
@[simp] theorem State.modEx_exs (a b : Nat) (f : ExThread → ExThread) : (s.modEx a b f).exs = s.exs.alter (exKey a b) f := rfl
@[simp] theorem State.modEx_aps (a b : Nat) (f : ExThread → ExThread) : (s.modEx a b f).aps = s.aps := rfl
@[simp] theorem State.modEx_ports (a b : Nat) (f : ExThread → ExThread) : (s.modEx a b f).ports = s.ports := rfl
@[simp] theorem State.modEx_grids (a b : Nat) (f : ExThread → ExThread) : (s.modEx a b f).grids = s.grids := rfl
@[simp] theorem State.modEx_props (a b : Nat) (f : ExThread → ExThread) : (s.modEx a b f).props = s.props := rfl
@[simp] theorem State.modEx_slots (a b : Nat) (f : ExThread → ExThread) : (s.modEx a b f).slots = s.slots := rfl
@[simp] theorem State.modEx_dskew (a b : Nat) (f : ExThread → ExThread) : (s.modEx a b f).dskew = s.dskew := rfl
@[simp] theorem State.modEx_ctxs (a b : Nat) (f : ExThread → ExThread) : (s.modEx a b f).ctxs = s.ctxs := rfl
@[simp] theorem State.modEx_parts (a b : Nat) (f : ExThread → ExThread) : (s.modEx a b f).parts = s.parts := rfl
@[simp] theorem State.modEx_frecs (a b : Nat) (f : ExThread → ExThread) : (s.modEx a b f).frecs = s.frecs := rfl
@[simp] theorem State.modEx_parkedOps (a b : Nat) (f : ExThread → ExThread) : (s.modEx a b f).parkedOps = s.parkedOps := rfl
@[simp] theorem State.modEx_reqs (a b : Nat) (f : ExThread → ExThread) : (s.modEx a b f).reqs = s.reqs := rfl
@[simp] theorem State.modEx_copies (a b : Nat) (f : ExThread → ExThread) : (s.modEx a b f).copies = s.copies := rfl
@[simp] theorem State.modEx_msgs (a b : Nat) (f : ExThread → ExThread) : (s.modEx a b f).msgs = s.msgs := rfl
@[simp] theorem State.modEx_nreds (a b : Nat) (f : ExThread → ExThread) : (s.modEx a b f).nreds = s.nreds := rfl
@[simp] theorem State.modEx_wdqs (a b : Nat) (f : ExThread → ExThread) : (s.modEx a b f).wdqs = s.wdqs := rfl
@[simp] theorem State.modEx_pubs (a b : Nat) (f : ExThread → ExThread) : (s.modEx a b f).pubs = s.pubs := rfl
@[simp] theorem State.modEx_pstbs (a b : Nat) (f : ExThread → ExThread) : (s.modEx a b f).pstbs = s.pstbs := rfl
@[simp] theorem State.modEx_plans (a b : Nat) (f : ExThread → ExThread) : (s.modEx a b f).plans = s.plans := rfl
@[simp] theorem State.modEx_inbound (a b : Nat) (f : ExThread → ExThread) : (s.modEx a b f).inbound = s.inbound := rfl
@[simp] theorem State.modEx_dones (a b : Nat) (f : ExThread → ExThread) : (s.modEx a b f).dones = s.dones := rfl
@[simp] theorem State.modEx_routes (a b : Nat) (f : ExThread → ExThread) : (s.modEx a b f).routes = s.routes := rfl
@[simp] theorem State.modEx_links (a b : Nat) (f : ExThread → ExThread) : (s.modEx a b f).links = s.links := rfl
@[simp] theorem State.modEx_eth (a b : Nat) (f : ExThread → ExThread) : (s.modEx a b f).eth = s.eth := rfl
@[simp] theorem State.modEx_mgmt (a b : Nat) (f : ExThread → ExThread) : (s.modEx a b f).mgmt = s.mgmt := rfl
@[simp] theorem State.modEx_irqs (a b : Nat) (f : ExThread → ExThread) : (s.modEx a b f).irqs = s.irqs := rfl
@[simp] theorem State.modEx_out (a b : Nat) (f : ExThread → ExThread) : (s.modEx a b f).out = s.out := rfl

@[simp] theorem State.modAp_ir (a b : Nat) (f : ApThread → ApThread) : (s.modAp a b f).ir = s.ir := rfl
@[simp] theorem State.modAp_occ (a b : Nat) (f : ApThread → ApThread) : (s.modAp a b f).occ = s.occ := rfl
@[simp] theorem State.modAp_cur (a b : Nat) (f : ApThread → ApThread) : (s.modAp a b f).cur = s.cur := rfl
@[simp] theorem State.modAp_agenda (a b : Nat) (f : ApThread → ApThread) : (s.modAp a b f).agenda = s.agenda := rfl
@[simp] theorem State.modAp_now (a b : Nat) (f : ApThread → ApThread) : (s.modAp a b f).now = s.now := rfl
@[simp] theorem State.modAp_fresh (a b : Nat) (f : ApThread → ApThread) : (s.modAp a b f).fresh = s.fresh := rfl
@[simp] theorem State.modAp_mem (a b : Nat) (f : ApThread → ApThread) : (s.modAp a b f).mem = s.mem := rfl
@[simp] theorem State.modAp_poison (a b : Nat) (f : ApThread → ApThread) : (s.modAp a b f).poison = s.poison := rfl
@[simp] theorem State.modAp_tags (a b : Nat) (f : ApThread → ApThread) : (s.modAp a b f).tags = s.tags := rfl
@[simp] theorem State.modAp_tagBad (a b : Nat) (f : ApThread → ApThread) : (s.modAp a b f).tagBad = s.tagBad := rfl
@[simp] theorem State.modAp_keys (a b : Nat) (f : ApThread → ApThread) : (s.modAp a b f).keys = s.keys := rfl
@[simp] theorem State.modAp_l2 (a b : Nat) (f : ApThread → ApThread) : (s.modAp a b f).l2 = s.l2 := rfl
@[simp] theorem State.modAp_walkc (a b : Nat) (f : ApThread → ApThread) : (s.modAp a b f).walkc = s.walkc := rfl
@[simp] theorem State.modAp_cores (a b : Nat) (f : ApThread → ApThread) : (s.modAp a b f).cores = s.cores := rfl
@[simp] theorem State.modAp_engines (a b : Nat) (f : ApThread → ApThread) : (s.modAp a b f).engines = s.engines := rfl
@[simp] theorem State.modAp_teams (a b : Nat) (f : ApThread → ApThread) : (s.modAp a b f).teams = s.teams := rfl
@[simp] theorem State.modAp_strips (a b : Nat) (f : ApThread → ApThread) : (s.modAp a b f).strips = s.strips := rfl
@[simp] theorem State.modAp_exs (a b : Nat) (f : ApThread → ApThread) : (s.modAp a b f).exs = s.exs := rfl
@[simp] theorem State.modAp_aps (a b : Nat) (f : ApThread → ApThread) : (s.modAp a b f).aps = s.aps.alter (stripKey a b) f := rfl
@[simp] theorem State.modAp_ports (a b : Nat) (f : ApThread → ApThread) : (s.modAp a b f).ports = s.ports := rfl
@[simp] theorem State.modAp_grids (a b : Nat) (f : ApThread → ApThread) : (s.modAp a b f).grids = s.grids := rfl
@[simp] theorem State.modAp_props (a b : Nat) (f : ApThread → ApThread) : (s.modAp a b f).props = s.props := rfl
@[simp] theorem State.modAp_slots (a b : Nat) (f : ApThread → ApThread) : (s.modAp a b f).slots = s.slots := rfl
@[simp] theorem State.modAp_dskew (a b : Nat) (f : ApThread → ApThread) : (s.modAp a b f).dskew = s.dskew := rfl
@[simp] theorem State.modAp_ctxs (a b : Nat) (f : ApThread → ApThread) : (s.modAp a b f).ctxs = s.ctxs := rfl
@[simp] theorem State.modAp_parts (a b : Nat) (f : ApThread → ApThread) : (s.modAp a b f).parts = s.parts := rfl
@[simp] theorem State.modAp_frecs (a b : Nat) (f : ApThread → ApThread) : (s.modAp a b f).frecs = s.frecs := rfl
@[simp] theorem State.modAp_parkedOps (a b : Nat) (f : ApThread → ApThread) : (s.modAp a b f).parkedOps = s.parkedOps := rfl
@[simp] theorem State.modAp_reqs (a b : Nat) (f : ApThread → ApThread) : (s.modAp a b f).reqs = s.reqs := rfl
@[simp] theorem State.modAp_copies (a b : Nat) (f : ApThread → ApThread) : (s.modAp a b f).copies = s.copies := rfl
@[simp] theorem State.modAp_msgs (a b : Nat) (f : ApThread → ApThread) : (s.modAp a b f).msgs = s.msgs := rfl
@[simp] theorem State.modAp_nreds (a b : Nat) (f : ApThread → ApThread) : (s.modAp a b f).nreds = s.nreds := rfl
@[simp] theorem State.modAp_wdqs (a b : Nat) (f : ApThread → ApThread) : (s.modAp a b f).wdqs = s.wdqs := rfl
@[simp] theorem State.modAp_pubs (a b : Nat) (f : ApThread → ApThread) : (s.modAp a b f).pubs = s.pubs := rfl
@[simp] theorem State.modAp_pstbs (a b : Nat) (f : ApThread → ApThread) : (s.modAp a b f).pstbs = s.pstbs := rfl
@[simp] theorem State.modAp_plans (a b : Nat) (f : ApThread → ApThread) : (s.modAp a b f).plans = s.plans := rfl
@[simp] theorem State.modAp_inbound (a b : Nat) (f : ApThread → ApThread) : (s.modAp a b f).inbound = s.inbound := rfl
@[simp] theorem State.modAp_dones (a b : Nat) (f : ApThread → ApThread) : (s.modAp a b f).dones = s.dones := rfl
@[simp] theorem State.modAp_routes (a b : Nat) (f : ApThread → ApThread) : (s.modAp a b f).routes = s.routes := rfl
@[simp] theorem State.modAp_links (a b : Nat) (f : ApThread → ApThread) : (s.modAp a b f).links = s.links := rfl
@[simp] theorem State.modAp_eth (a b : Nat) (f : ApThread → ApThread) : (s.modAp a b f).eth = s.eth := rfl
@[simp] theorem State.modAp_mgmt (a b : Nat) (f : ApThread → ApThread) : (s.modAp a b f).mgmt = s.mgmt := rfl
@[simp] theorem State.modAp_irqs (a b : Nat) (f : ApThread → ApThread) : (s.modAp a b f).irqs = s.irqs := rfl
@[simp] theorem State.modAp_out (a b : Nat) (f : ApThread → ApThread) : (s.modAp a b f).out = s.out := rfl

@[simp] theorem State.modEngine_ir (a : Nat) (f : Engine → Engine) : (s.modEngine a f).ir = s.ir := rfl
@[simp] theorem State.modEngine_occ (a : Nat) (f : Engine → Engine) : (s.modEngine a f).occ = s.occ := rfl
@[simp] theorem State.modEngine_cur (a : Nat) (f : Engine → Engine) : (s.modEngine a f).cur = s.cur := rfl
@[simp] theorem State.modEngine_agenda (a : Nat) (f : Engine → Engine) : (s.modEngine a f).agenda = s.agenda := rfl
@[simp] theorem State.modEngine_now (a : Nat) (f : Engine → Engine) : (s.modEngine a f).now = s.now := rfl
@[simp] theorem State.modEngine_fresh (a : Nat) (f : Engine → Engine) : (s.modEngine a f).fresh = s.fresh := rfl
@[simp] theorem State.modEngine_mem (a : Nat) (f : Engine → Engine) : (s.modEngine a f).mem = s.mem := rfl
@[simp] theorem State.modEngine_poison (a : Nat) (f : Engine → Engine) : (s.modEngine a f).poison = s.poison := rfl
@[simp] theorem State.modEngine_tags (a : Nat) (f : Engine → Engine) : (s.modEngine a f).tags = s.tags := rfl
@[simp] theorem State.modEngine_tagBad (a : Nat) (f : Engine → Engine) : (s.modEngine a f).tagBad = s.tagBad := rfl
@[simp] theorem State.modEngine_keys (a : Nat) (f : Engine → Engine) : (s.modEngine a f).keys = s.keys := rfl
@[simp] theorem State.modEngine_l2 (a : Nat) (f : Engine → Engine) : (s.modEngine a f).l2 = s.l2 := rfl
@[simp] theorem State.modEngine_walkc (a : Nat) (f : Engine → Engine) : (s.modEngine a f).walkc = s.walkc := rfl
@[simp] theorem State.modEngine_cores (a : Nat) (f : Engine → Engine) : (s.modEngine a f).cores = s.cores := rfl
@[simp] theorem State.modEngine_engines (a : Nat) (f : Engine → Engine) : (s.modEngine a f).engines = s.engines.alter a f := rfl
@[simp] theorem State.modEngine_teams (a : Nat) (f : Engine → Engine) : (s.modEngine a f).teams = s.teams := rfl
@[simp] theorem State.modEngine_strips (a : Nat) (f : Engine → Engine) : (s.modEngine a f).strips = s.strips := rfl
@[simp] theorem State.modEngine_exs (a : Nat) (f : Engine → Engine) : (s.modEngine a f).exs = s.exs := rfl
@[simp] theorem State.modEngine_aps (a : Nat) (f : Engine → Engine) : (s.modEngine a f).aps = s.aps := rfl
@[simp] theorem State.modEngine_ports (a : Nat) (f : Engine → Engine) : (s.modEngine a f).ports = s.ports := rfl
@[simp] theorem State.modEngine_grids (a : Nat) (f : Engine → Engine) : (s.modEngine a f).grids = s.grids := rfl
@[simp] theorem State.modEngine_props (a : Nat) (f : Engine → Engine) : (s.modEngine a f).props = s.props := rfl
@[simp] theorem State.modEngine_slots (a : Nat) (f : Engine → Engine) : (s.modEngine a f).slots = s.slots := rfl
@[simp] theorem State.modEngine_dskew (a : Nat) (f : Engine → Engine) : (s.modEngine a f).dskew = s.dskew := rfl
@[simp] theorem State.modEngine_ctxs (a : Nat) (f : Engine → Engine) : (s.modEngine a f).ctxs = s.ctxs := rfl
@[simp] theorem State.modEngine_parts (a : Nat) (f : Engine → Engine) : (s.modEngine a f).parts = s.parts := rfl
@[simp] theorem State.modEngine_frecs (a : Nat) (f : Engine → Engine) : (s.modEngine a f).frecs = s.frecs := rfl
@[simp] theorem State.modEngine_parkedOps (a : Nat) (f : Engine → Engine) : (s.modEngine a f).parkedOps = s.parkedOps := rfl
@[simp] theorem State.modEngine_reqs (a : Nat) (f : Engine → Engine) : (s.modEngine a f).reqs = s.reqs := rfl
@[simp] theorem State.modEngine_copies (a : Nat) (f : Engine → Engine) : (s.modEngine a f).copies = s.copies := rfl
@[simp] theorem State.modEngine_msgs (a : Nat) (f : Engine → Engine) : (s.modEngine a f).msgs = s.msgs := rfl
@[simp] theorem State.modEngine_nreds (a : Nat) (f : Engine → Engine) : (s.modEngine a f).nreds = s.nreds := rfl
@[simp] theorem State.modEngine_wdqs (a : Nat) (f : Engine → Engine) : (s.modEngine a f).wdqs = s.wdqs := rfl
@[simp] theorem State.modEngine_pubs (a : Nat) (f : Engine → Engine) : (s.modEngine a f).pubs = s.pubs := rfl
@[simp] theorem State.modEngine_pstbs (a : Nat) (f : Engine → Engine) : (s.modEngine a f).pstbs = s.pstbs := rfl
@[simp] theorem State.modEngine_plans (a : Nat) (f : Engine → Engine) : (s.modEngine a f).plans = s.plans := rfl
@[simp] theorem State.modEngine_inbound (a : Nat) (f : Engine → Engine) : (s.modEngine a f).inbound = s.inbound := rfl
@[simp] theorem State.modEngine_dones (a : Nat) (f : Engine → Engine) : (s.modEngine a f).dones = s.dones := rfl
@[simp] theorem State.modEngine_routes (a : Nat) (f : Engine → Engine) : (s.modEngine a f).routes = s.routes := rfl
@[simp] theorem State.modEngine_links (a : Nat) (f : Engine → Engine) : (s.modEngine a f).links = s.links := rfl
@[simp] theorem State.modEngine_eth (a : Nat) (f : Engine → Engine) : (s.modEngine a f).eth = s.eth := rfl
@[simp] theorem State.modEngine_mgmt (a : Nat) (f : Engine → Engine) : (s.modEngine a f).mgmt = s.mgmt := rfl
@[simp] theorem State.modEngine_irqs (a : Nat) (f : Engine → Engine) : (s.modEngine a f).irqs = s.irqs := rfl
@[simp] theorem State.modEngine_out (a : Nat) (f : Engine → Engine) : (s.modEngine a f).out = s.out := rfl

@[simp] theorem State.modTeam_ir (a : Nat) (f : Team → Team) : (s.modTeam a f).ir = s.ir := rfl
@[simp] theorem State.modTeam_occ (a : Nat) (f : Team → Team) : (s.modTeam a f).occ = s.occ := rfl
@[simp] theorem State.modTeam_cur (a : Nat) (f : Team → Team) : (s.modTeam a f).cur = s.cur := rfl
@[simp] theorem State.modTeam_agenda (a : Nat) (f : Team → Team) : (s.modTeam a f).agenda = s.agenda := rfl
@[simp] theorem State.modTeam_now (a : Nat) (f : Team → Team) : (s.modTeam a f).now = s.now := rfl
@[simp] theorem State.modTeam_fresh (a : Nat) (f : Team → Team) : (s.modTeam a f).fresh = s.fresh := rfl
@[simp] theorem State.modTeam_mem (a : Nat) (f : Team → Team) : (s.modTeam a f).mem = s.mem := rfl
@[simp] theorem State.modTeam_poison (a : Nat) (f : Team → Team) : (s.modTeam a f).poison = s.poison := rfl
@[simp] theorem State.modTeam_tags (a : Nat) (f : Team → Team) : (s.modTeam a f).tags = s.tags := rfl
@[simp] theorem State.modTeam_tagBad (a : Nat) (f : Team → Team) : (s.modTeam a f).tagBad = s.tagBad := rfl
@[simp] theorem State.modTeam_keys (a : Nat) (f : Team → Team) : (s.modTeam a f).keys = s.keys := rfl
@[simp] theorem State.modTeam_l2 (a : Nat) (f : Team → Team) : (s.modTeam a f).l2 = s.l2 := rfl
@[simp] theorem State.modTeam_walkc (a : Nat) (f : Team → Team) : (s.modTeam a f).walkc = s.walkc := rfl
@[simp] theorem State.modTeam_cores (a : Nat) (f : Team → Team) : (s.modTeam a f).cores = s.cores := rfl
@[simp] theorem State.modTeam_engines (a : Nat) (f : Team → Team) : (s.modTeam a f).engines = s.engines := rfl
@[simp] theorem State.modTeam_teams (a : Nat) (f : Team → Team) : (s.modTeam a f).teams = s.teams.alter a f := rfl
@[simp] theorem State.modTeam_strips (a : Nat) (f : Team → Team) : (s.modTeam a f).strips = s.strips := rfl
@[simp] theorem State.modTeam_exs (a : Nat) (f : Team → Team) : (s.modTeam a f).exs = s.exs := rfl
@[simp] theorem State.modTeam_aps (a : Nat) (f : Team → Team) : (s.modTeam a f).aps = s.aps := rfl
@[simp] theorem State.modTeam_ports (a : Nat) (f : Team → Team) : (s.modTeam a f).ports = s.ports := rfl
@[simp] theorem State.modTeam_grids (a : Nat) (f : Team → Team) : (s.modTeam a f).grids = s.grids := rfl
@[simp] theorem State.modTeam_props (a : Nat) (f : Team → Team) : (s.modTeam a f).props = s.props := rfl
@[simp] theorem State.modTeam_slots (a : Nat) (f : Team → Team) : (s.modTeam a f).slots = s.slots := rfl
@[simp] theorem State.modTeam_dskew (a : Nat) (f : Team → Team) : (s.modTeam a f).dskew = s.dskew := rfl
@[simp] theorem State.modTeam_ctxs (a : Nat) (f : Team → Team) : (s.modTeam a f).ctxs = s.ctxs := rfl
@[simp] theorem State.modTeam_parts (a : Nat) (f : Team → Team) : (s.modTeam a f).parts = s.parts := rfl
@[simp] theorem State.modTeam_frecs (a : Nat) (f : Team → Team) : (s.modTeam a f).frecs = s.frecs := rfl
@[simp] theorem State.modTeam_parkedOps (a : Nat) (f : Team → Team) : (s.modTeam a f).parkedOps = s.parkedOps := rfl
@[simp] theorem State.modTeam_reqs (a : Nat) (f : Team → Team) : (s.modTeam a f).reqs = s.reqs := rfl
@[simp] theorem State.modTeam_copies (a : Nat) (f : Team → Team) : (s.modTeam a f).copies = s.copies := rfl
@[simp] theorem State.modTeam_msgs (a : Nat) (f : Team → Team) : (s.modTeam a f).msgs = s.msgs := rfl
@[simp] theorem State.modTeam_nreds (a : Nat) (f : Team → Team) : (s.modTeam a f).nreds = s.nreds := rfl
@[simp] theorem State.modTeam_wdqs (a : Nat) (f : Team → Team) : (s.modTeam a f).wdqs = s.wdqs := rfl
@[simp] theorem State.modTeam_pubs (a : Nat) (f : Team → Team) : (s.modTeam a f).pubs = s.pubs := rfl
@[simp] theorem State.modTeam_pstbs (a : Nat) (f : Team → Team) : (s.modTeam a f).pstbs = s.pstbs := rfl
@[simp] theorem State.modTeam_plans (a : Nat) (f : Team → Team) : (s.modTeam a f).plans = s.plans := rfl
@[simp] theorem State.modTeam_inbound (a : Nat) (f : Team → Team) : (s.modTeam a f).inbound = s.inbound := rfl
@[simp] theorem State.modTeam_dones (a : Nat) (f : Team → Team) : (s.modTeam a f).dones = s.dones := rfl
@[simp] theorem State.modTeam_routes (a : Nat) (f : Team → Team) : (s.modTeam a f).routes = s.routes := rfl
@[simp] theorem State.modTeam_links (a : Nat) (f : Team → Team) : (s.modTeam a f).links = s.links := rfl
@[simp] theorem State.modTeam_eth (a : Nat) (f : Team → Team) : (s.modTeam a f).eth = s.eth := rfl
@[simp] theorem State.modTeam_mgmt (a : Nat) (f : Team → Team) : (s.modTeam a f).mgmt = s.mgmt := rfl
@[simp] theorem State.modTeam_irqs (a : Nat) (f : Team → Team) : (s.modTeam a f).irqs = s.irqs := rfl
@[simp] theorem State.modTeam_out (a : Nat) (f : Team → Team) : (s.modTeam a f).out = s.out := rfl

@[simp] theorem State.modStrip_ir (a b : Nat) (f : Strip → Strip) : (s.modStrip a b f).ir = s.ir := rfl
@[simp] theorem State.modStrip_occ (a b : Nat) (f : Strip → Strip) : (s.modStrip a b f).occ = s.occ := rfl
@[simp] theorem State.modStrip_cur (a b : Nat) (f : Strip → Strip) : (s.modStrip a b f).cur = s.cur := rfl
@[simp] theorem State.modStrip_agenda (a b : Nat) (f : Strip → Strip) : (s.modStrip a b f).agenda = s.agenda := rfl
@[simp] theorem State.modStrip_now (a b : Nat) (f : Strip → Strip) : (s.modStrip a b f).now = s.now := rfl
@[simp] theorem State.modStrip_fresh (a b : Nat) (f : Strip → Strip) : (s.modStrip a b f).fresh = s.fresh := rfl
@[simp] theorem State.modStrip_mem (a b : Nat) (f : Strip → Strip) : (s.modStrip a b f).mem = s.mem := rfl
@[simp] theorem State.modStrip_poison (a b : Nat) (f : Strip → Strip) : (s.modStrip a b f).poison = s.poison := rfl
@[simp] theorem State.modStrip_tags (a b : Nat) (f : Strip → Strip) : (s.modStrip a b f).tags = s.tags := rfl
@[simp] theorem State.modStrip_tagBad (a b : Nat) (f : Strip → Strip) : (s.modStrip a b f).tagBad = s.tagBad := rfl
@[simp] theorem State.modStrip_keys (a b : Nat) (f : Strip → Strip) : (s.modStrip a b f).keys = s.keys := rfl
@[simp] theorem State.modStrip_l2 (a b : Nat) (f : Strip → Strip) : (s.modStrip a b f).l2 = s.l2 := rfl
@[simp] theorem State.modStrip_walkc (a b : Nat) (f : Strip → Strip) : (s.modStrip a b f).walkc = s.walkc := rfl
@[simp] theorem State.modStrip_cores (a b : Nat) (f : Strip → Strip) : (s.modStrip a b f).cores = s.cores := rfl
@[simp] theorem State.modStrip_engines (a b : Nat) (f : Strip → Strip) : (s.modStrip a b f).engines = s.engines := rfl
@[simp] theorem State.modStrip_teams (a b : Nat) (f : Strip → Strip) : (s.modStrip a b f).teams = s.teams := rfl
@[simp] theorem State.modStrip_strips (a b : Nat) (f : Strip → Strip) : (s.modStrip a b f).strips = s.strips.alter (stripKey a b) f := rfl
@[simp] theorem State.modStrip_exs (a b : Nat) (f : Strip → Strip) : (s.modStrip a b f).exs = s.exs := rfl
@[simp] theorem State.modStrip_aps (a b : Nat) (f : Strip → Strip) : (s.modStrip a b f).aps = s.aps := rfl
@[simp] theorem State.modStrip_ports (a b : Nat) (f : Strip → Strip) : (s.modStrip a b f).ports = s.ports := rfl
@[simp] theorem State.modStrip_grids (a b : Nat) (f : Strip → Strip) : (s.modStrip a b f).grids = s.grids := rfl
@[simp] theorem State.modStrip_props (a b : Nat) (f : Strip → Strip) : (s.modStrip a b f).props = s.props := rfl
@[simp] theorem State.modStrip_slots (a b : Nat) (f : Strip → Strip) : (s.modStrip a b f).slots = s.slots := rfl
@[simp] theorem State.modStrip_dskew (a b : Nat) (f : Strip → Strip) : (s.modStrip a b f).dskew = s.dskew := rfl
@[simp] theorem State.modStrip_ctxs (a b : Nat) (f : Strip → Strip) : (s.modStrip a b f).ctxs = s.ctxs := rfl
@[simp] theorem State.modStrip_parts (a b : Nat) (f : Strip → Strip) : (s.modStrip a b f).parts = s.parts := rfl
@[simp] theorem State.modStrip_frecs (a b : Nat) (f : Strip → Strip) : (s.modStrip a b f).frecs = s.frecs := rfl
@[simp] theorem State.modStrip_parkedOps (a b : Nat) (f : Strip → Strip) : (s.modStrip a b f).parkedOps = s.parkedOps := rfl
@[simp] theorem State.modStrip_reqs (a b : Nat) (f : Strip → Strip) : (s.modStrip a b f).reqs = s.reqs := rfl
@[simp] theorem State.modStrip_copies (a b : Nat) (f : Strip → Strip) : (s.modStrip a b f).copies = s.copies := rfl
@[simp] theorem State.modStrip_msgs (a b : Nat) (f : Strip → Strip) : (s.modStrip a b f).msgs = s.msgs := rfl
@[simp] theorem State.modStrip_nreds (a b : Nat) (f : Strip → Strip) : (s.modStrip a b f).nreds = s.nreds := rfl
@[simp] theorem State.modStrip_wdqs (a b : Nat) (f : Strip → Strip) : (s.modStrip a b f).wdqs = s.wdqs := rfl
@[simp] theorem State.modStrip_pubs (a b : Nat) (f : Strip → Strip) : (s.modStrip a b f).pubs = s.pubs := rfl
@[simp] theorem State.modStrip_pstbs (a b : Nat) (f : Strip → Strip) : (s.modStrip a b f).pstbs = s.pstbs := rfl
@[simp] theorem State.modStrip_plans (a b : Nat) (f : Strip → Strip) : (s.modStrip a b f).plans = s.plans := rfl
@[simp] theorem State.modStrip_inbound (a b : Nat) (f : Strip → Strip) : (s.modStrip a b f).inbound = s.inbound := rfl
@[simp] theorem State.modStrip_dones (a b : Nat) (f : Strip → Strip) : (s.modStrip a b f).dones = s.dones := rfl
@[simp] theorem State.modStrip_routes (a b : Nat) (f : Strip → Strip) : (s.modStrip a b f).routes = s.routes := rfl
@[simp] theorem State.modStrip_links (a b : Nat) (f : Strip → Strip) : (s.modStrip a b f).links = s.links := rfl
@[simp] theorem State.modStrip_eth (a b : Nat) (f : Strip → Strip) : (s.modStrip a b f).eth = s.eth := rfl
@[simp] theorem State.modStrip_mgmt (a b : Nat) (f : Strip → Strip) : (s.modStrip a b f).mgmt = s.mgmt := rfl
@[simp] theorem State.modStrip_irqs (a b : Nat) (f : Strip → Strip) : (s.modStrip a b f).irqs = s.irqs := rfl
@[simp] theorem State.modStrip_out (a b : Nat) (f : Strip → Strip) : (s.modStrip a b f).out = s.out := rfl

@[simp] theorem State.modPort_ir (a : Nat) (f : Port → Port) : (s.modPort a f).ir = s.ir := rfl
@[simp] theorem State.modPort_occ (a : Nat) (f : Port → Port) : (s.modPort a f).occ = s.occ := rfl
@[simp] theorem State.modPort_cur (a : Nat) (f : Port → Port) : (s.modPort a f).cur = s.cur := rfl
@[simp] theorem State.modPort_agenda (a : Nat) (f : Port → Port) : (s.modPort a f).agenda = s.agenda := rfl
@[simp] theorem State.modPort_now (a : Nat) (f : Port → Port) : (s.modPort a f).now = s.now := rfl
@[simp] theorem State.modPort_fresh (a : Nat) (f : Port → Port) : (s.modPort a f).fresh = s.fresh := rfl
@[simp] theorem State.modPort_mem (a : Nat) (f : Port → Port) : (s.modPort a f).mem = s.mem := rfl
@[simp] theorem State.modPort_poison (a : Nat) (f : Port → Port) : (s.modPort a f).poison = s.poison := rfl
@[simp] theorem State.modPort_tags (a : Nat) (f : Port → Port) : (s.modPort a f).tags = s.tags := rfl
@[simp] theorem State.modPort_tagBad (a : Nat) (f : Port → Port) : (s.modPort a f).tagBad = s.tagBad := rfl
@[simp] theorem State.modPort_keys (a : Nat) (f : Port → Port) : (s.modPort a f).keys = s.keys := rfl
@[simp] theorem State.modPort_l2 (a : Nat) (f : Port → Port) : (s.modPort a f).l2 = s.l2 := rfl
@[simp] theorem State.modPort_walkc (a : Nat) (f : Port → Port) : (s.modPort a f).walkc = s.walkc := rfl
@[simp] theorem State.modPort_cores (a : Nat) (f : Port → Port) : (s.modPort a f).cores = s.cores := rfl
@[simp] theorem State.modPort_engines (a : Nat) (f : Port → Port) : (s.modPort a f).engines = s.engines := rfl
@[simp] theorem State.modPort_teams (a : Nat) (f : Port → Port) : (s.modPort a f).teams = s.teams := rfl
@[simp] theorem State.modPort_strips (a : Nat) (f : Port → Port) : (s.modPort a f).strips = s.strips := rfl
@[simp] theorem State.modPort_exs (a : Nat) (f : Port → Port) : (s.modPort a f).exs = s.exs := rfl
@[simp] theorem State.modPort_aps (a : Nat) (f : Port → Port) : (s.modPort a f).aps = s.aps := rfl
@[simp] theorem State.modPort_ports (a : Nat) (f : Port → Port) : (s.modPort a f).ports = s.ports.alter a f := rfl
@[simp] theorem State.modPort_grids (a : Nat) (f : Port → Port) : (s.modPort a f).grids = s.grids := rfl
@[simp] theorem State.modPort_props (a : Nat) (f : Port → Port) : (s.modPort a f).props = s.props := rfl
@[simp] theorem State.modPort_slots (a : Nat) (f : Port → Port) : (s.modPort a f).slots = s.slots := rfl
@[simp] theorem State.modPort_dskew (a : Nat) (f : Port → Port) : (s.modPort a f).dskew = s.dskew := rfl
@[simp] theorem State.modPort_ctxs (a : Nat) (f : Port → Port) : (s.modPort a f).ctxs = s.ctxs := rfl
@[simp] theorem State.modPort_parts (a : Nat) (f : Port → Port) : (s.modPort a f).parts = s.parts := rfl
@[simp] theorem State.modPort_frecs (a : Nat) (f : Port → Port) : (s.modPort a f).frecs = s.frecs := rfl
@[simp] theorem State.modPort_parkedOps (a : Nat) (f : Port → Port) : (s.modPort a f).parkedOps = s.parkedOps := rfl
@[simp] theorem State.modPort_reqs (a : Nat) (f : Port → Port) : (s.modPort a f).reqs = s.reqs := rfl
@[simp] theorem State.modPort_copies (a : Nat) (f : Port → Port) : (s.modPort a f).copies = s.copies := rfl
@[simp] theorem State.modPort_msgs (a : Nat) (f : Port → Port) : (s.modPort a f).msgs = s.msgs := rfl
@[simp] theorem State.modPort_nreds (a : Nat) (f : Port → Port) : (s.modPort a f).nreds = s.nreds := rfl
@[simp] theorem State.modPort_wdqs (a : Nat) (f : Port → Port) : (s.modPort a f).wdqs = s.wdqs := rfl
@[simp] theorem State.modPort_pubs (a : Nat) (f : Port → Port) : (s.modPort a f).pubs = s.pubs := rfl
@[simp] theorem State.modPort_pstbs (a : Nat) (f : Port → Port) : (s.modPort a f).pstbs = s.pstbs := rfl
@[simp] theorem State.modPort_plans (a : Nat) (f : Port → Port) : (s.modPort a f).plans = s.plans := rfl
@[simp] theorem State.modPort_inbound (a : Nat) (f : Port → Port) : (s.modPort a f).inbound = s.inbound := rfl
@[simp] theorem State.modPort_dones (a : Nat) (f : Port → Port) : (s.modPort a f).dones = s.dones := rfl
@[simp] theorem State.modPort_routes (a : Nat) (f : Port → Port) : (s.modPort a f).routes = s.routes := rfl
@[simp] theorem State.modPort_links (a : Nat) (f : Port → Port) : (s.modPort a f).links = s.links := rfl
@[simp] theorem State.modPort_eth (a : Nat) (f : Port → Port) : (s.modPort a f).eth = s.eth := rfl
@[simp] theorem State.modPort_mgmt (a : Nat) (f : Port → Port) : (s.modPort a f).mgmt = s.mgmt := rfl
@[simp] theorem State.modPort_irqs (a : Nat) (f : Port → Port) : (s.modPort a f).irqs = s.irqs := rfl
@[simp] theorem State.modPort_out (a : Nat) (f : Port → Port) : (s.modPort a f).out = s.out := rfl

@[simp] theorem State.modCore_ir (a : Nat) (f : Core → Core) : (s.modCore a f).ir = s.ir := rfl
@[simp] theorem State.modCore_occ (a : Nat) (f : Core → Core) : (s.modCore a f).occ = s.occ := rfl
@[simp] theorem State.modCore_cur (a : Nat) (f : Core → Core) : (s.modCore a f).cur = s.cur := rfl
@[simp] theorem State.modCore_agenda (a : Nat) (f : Core → Core) : (s.modCore a f).agenda = s.agenda := rfl
@[simp] theorem State.modCore_now (a : Nat) (f : Core → Core) : (s.modCore a f).now = s.now := rfl
@[simp] theorem State.modCore_fresh (a : Nat) (f : Core → Core) : (s.modCore a f).fresh = s.fresh := rfl
@[simp] theorem State.modCore_mem (a : Nat) (f : Core → Core) : (s.modCore a f).mem = s.mem := rfl
@[simp] theorem State.modCore_poison (a : Nat) (f : Core → Core) : (s.modCore a f).poison = s.poison := rfl
@[simp] theorem State.modCore_tags (a : Nat) (f : Core → Core) : (s.modCore a f).tags = s.tags := rfl
@[simp] theorem State.modCore_tagBad (a : Nat) (f : Core → Core) : (s.modCore a f).tagBad = s.tagBad := rfl
@[simp] theorem State.modCore_keys (a : Nat) (f : Core → Core) : (s.modCore a f).keys = s.keys := rfl
@[simp] theorem State.modCore_l2 (a : Nat) (f : Core → Core) : (s.modCore a f).l2 = s.l2 := rfl
@[simp] theorem State.modCore_walkc (a : Nat) (f : Core → Core) : (s.modCore a f).walkc = s.walkc := rfl
@[simp] theorem State.modCore_cores (a : Nat) (f : Core → Core) : (s.modCore a f).cores = s.cores.put a (f (s.core a)) := rfl
@[simp] theorem State.modCore_engines (a : Nat) (f : Core → Core) : (s.modCore a f).engines = s.engines := rfl
@[simp] theorem State.modCore_teams (a : Nat) (f : Core → Core) : (s.modCore a f).teams = s.teams := rfl
@[simp] theorem State.modCore_strips (a : Nat) (f : Core → Core) : (s.modCore a f).strips = s.strips := rfl
@[simp] theorem State.modCore_exs (a : Nat) (f : Core → Core) : (s.modCore a f).exs = s.exs := rfl
@[simp] theorem State.modCore_aps (a : Nat) (f : Core → Core) : (s.modCore a f).aps = s.aps := rfl
@[simp] theorem State.modCore_ports (a : Nat) (f : Core → Core) : (s.modCore a f).ports = s.ports := rfl
@[simp] theorem State.modCore_grids (a : Nat) (f : Core → Core) : (s.modCore a f).grids = s.grids := rfl
@[simp] theorem State.modCore_props (a : Nat) (f : Core → Core) : (s.modCore a f).props = s.props := rfl
@[simp] theorem State.modCore_slots (a : Nat) (f : Core → Core) : (s.modCore a f).slots = s.slots := rfl
@[simp] theorem State.modCore_dskew (a : Nat) (f : Core → Core) : (s.modCore a f).dskew = s.dskew := rfl
@[simp] theorem State.modCore_ctxs (a : Nat) (f : Core → Core) : (s.modCore a f).ctxs = s.ctxs := rfl
@[simp] theorem State.modCore_parts (a : Nat) (f : Core → Core) : (s.modCore a f).parts = s.parts := rfl
@[simp] theorem State.modCore_frecs (a : Nat) (f : Core → Core) : (s.modCore a f).frecs = s.frecs := rfl
@[simp] theorem State.modCore_parkedOps (a : Nat) (f : Core → Core) : (s.modCore a f).parkedOps = s.parkedOps := rfl
@[simp] theorem State.modCore_reqs (a : Nat) (f : Core → Core) : (s.modCore a f).reqs = s.reqs := rfl
@[simp] theorem State.modCore_copies (a : Nat) (f : Core → Core) : (s.modCore a f).copies = s.copies := rfl
@[simp] theorem State.modCore_msgs (a : Nat) (f : Core → Core) : (s.modCore a f).msgs = s.msgs := rfl
@[simp] theorem State.modCore_nreds (a : Nat) (f : Core → Core) : (s.modCore a f).nreds = s.nreds := rfl
@[simp] theorem State.modCore_wdqs (a : Nat) (f : Core → Core) : (s.modCore a f).wdqs = s.wdqs := rfl
@[simp] theorem State.modCore_pubs (a : Nat) (f : Core → Core) : (s.modCore a f).pubs = s.pubs := rfl
@[simp] theorem State.modCore_pstbs (a : Nat) (f : Core → Core) : (s.modCore a f).pstbs = s.pstbs := rfl
@[simp] theorem State.modCore_plans (a : Nat) (f : Core → Core) : (s.modCore a f).plans = s.plans := rfl
@[simp] theorem State.modCore_inbound (a : Nat) (f : Core → Core) : (s.modCore a f).inbound = s.inbound := rfl
@[simp] theorem State.modCore_dones (a : Nat) (f : Core → Core) : (s.modCore a f).dones = s.dones := rfl
@[simp] theorem State.modCore_routes (a : Nat) (f : Core → Core) : (s.modCore a f).routes = s.routes := rfl
@[simp] theorem State.modCore_links (a : Nat) (f : Core → Core) : (s.modCore a f).links = s.links := rfl
@[simp] theorem State.modCore_eth (a : Nat) (f : Core → Core) : (s.modCore a f).eth = s.eth := rfl
@[simp] theorem State.modCore_mgmt (a : Nat) (f : Core → Core) : (s.modCore a f).mgmt = s.mgmt := rfl
@[simp] theorem State.modCore_irqs (a : Nat) (f : Core → Core) : (s.modCore a f).irqs = s.irqs := rfl
@[simp] theorem State.modCore_out (a : Nat) (f : Core → Core) : (s.modCore a f).out = s.out := rfl

@[simp] theorem State.modCtx_ir (a : Nat) (f : Context → Context) : (s.modCtx a f).ir = s.ir := rfl
@[simp] theorem State.modCtx_occ (a : Nat) (f : Context → Context) : (s.modCtx a f).occ = s.occ := rfl
@[simp] theorem State.modCtx_cur (a : Nat) (f : Context → Context) : (s.modCtx a f).cur = s.cur := rfl
@[simp] theorem State.modCtx_agenda (a : Nat) (f : Context → Context) : (s.modCtx a f).agenda = s.agenda := rfl
@[simp] theorem State.modCtx_now (a : Nat) (f : Context → Context) : (s.modCtx a f).now = s.now := rfl
@[simp] theorem State.modCtx_fresh (a : Nat) (f : Context → Context) : (s.modCtx a f).fresh = s.fresh := rfl
@[simp] theorem State.modCtx_mem (a : Nat) (f : Context → Context) : (s.modCtx a f).mem = s.mem := rfl
@[simp] theorem State.modCtx_poison (a : Nat) (f : Context → Context) : (s.modCtx a f).poison = s.poison := rfl
@[simp] theorem State.modCtx_tags (a : Nat) (f : Context → Context) : (s.modCtx a f).tags = s.tags := rfl
@[simp] theorem State.modCtx_tagBad (a : Nat) (f : Context → Context) : (s.modCtx a f).tagBad = s.tagBad := rfl
@[simp] theorem State.modCtx_keys (a : Nat) (f : Context → Context) : (s.modCtx a f).keys = s.keys := rfl
@[simp] theorem State.modCtx_l2 (a : Nat) (f : Context → Context) : (s.modCtx a f).l2 = s.l2 := rfl
@[simp] theorem State.modCtx_walkc (a : Nat) (f : Context → Context) : (s.modCtx a f).walkc = s.walkc := rfl
@[simp] theorem State.modCtx_cores (a : Nat) (f : Context → Context) : (s.modCtx a f).cores = s.cores := rfl
@[simp] theorem State.modCtx_engines (a : Nat) (f : Context → Context) : (s.modCtx a f).engines = s.engines := rfl
@[simp] theorem State.modCtx_teams (a : Nat) (f : Context → Context) : (s.modCtx a f).teams = s.teams := rfl
@[simp] theorem State.modCtx_strips (a : Nat) (f : Context → Context) : (s.modCtx a f).strips = s.strips := rfl
@[simp] theorem State.modCtx_exs (a : Nat) (f : Context → Context) : (s.modCtx a f).exs = s.exs := rfl
@[simp] theorem State.modCtx_aps (a : Nat) (f : Context → Context) : (s.modCtx a f).aps = s.aps := rfl
@[simp] theorem State.modCtx_ports (a : Nat) (f : Context → Context) : (s.modCtx a f).ports = s.ports := rfl
@[simp] theorem State.modCtx_grids (a : Nat) (f : Context → Context) : (s.modCtx a f).grids = s.grids := rfl
@[simp] theorem State.modCtx_props (a : Nat) (f : Context → Context) : (s.modCtx a f).props = s.props := rfl
@[simp] theorem State.modCtx_slots (a : Nat) (f : Context → Context) : (s.modCtx a f).slots = s.slots := rfl
@[simp] theorem State.modCtx_dskew (a : Nat) (f : Context → Context) : (s.modCtx a f).dskew = s.dskew := rfl
@[simp] theorem State.modCtx_ctxs (a : Nat) (f : Context → Context) : (s.modCtx a f).ctxs = s.ctxs.put a (f (s.context a)) := rfl
@[simp] theorem State.modCtx_parts (a : Nat) (f : Context → Context) : (s.modCtx a f).parts = s.parts := rfl
@[simp] theorem State.modCtx_frecs (a : Nat) (f : Context → Context) : (s.modCtx a f).frecs = s.frecs := rfl
@[simp] theorem State.modCtx_parkedOps (a : Nat) (f : Context → Context) : (s.modCtx a f).parkedOps = s.parkedOps := rfl
@[simp] theorem State.modCtx_reqs (a : Nat) (f : Context → Context) : (s.modCtx a f).reqs = s.reqs := rfl
@[simp] theorem State.modCtx_copies (a : Nat) (f : Context → Context) : (s.modCtx a f).copies = s.copies := rfl
@[simp] theorem State.modCtx_msgs (a : Nat) (f : Context → Context) : (s.modCtx a f).msgs = s.msgs := rfl
@[simp] theorem State.modCtx_nreds (a : Nat) (f : Context → Context) : (s.modCtx a f).nreds = s.nreds := rfl
@[simp] theorem State.modCtx_wdqs (a : Nat) (f : Context → Context) : (s.modCtx a f).wdqs = s.wdqs := rfl
@[simp] theorem State.modCtx_pubs (a : Nat) (f : Context → Context) : (s.modCtx a f).pubs = s.pubs := rfl
@[simp] theorem State.modCtx_pstbs (a : Nat) (f : Context → Context) : (s.modCtx a f).pstbs = s.pstbs := rfl
@[simp] theorem State.modCtx_plans (a : Nat) (f : Context → Context) : (s.modCtx a f).plans = s.plans := rfl
@[simp] theorem State.modCtx_inbound (a : Nat) (f : Context → Context) : (s.modCtx a f).inbound = s.inbound := rfl
@[simp] theorem State.modCtx_dones (a : Nat) (f : Context → Context) : (s.modCtx a f).dones = s.dones := rfl
@[simp] theorem State.modCtx_routes (a : Nat) (f : Context → Context) : (s.modCtx a f).routes = s.routes := rfl
@[simp] theorem State.modCtx_links (a : Nat) (f : Context → Context) : (s.modCtx a f).links = s.links := rfl
@[simp] theorem State.modCtx_eth (a : Nat) (f : Context → Context) : (s.modCtx a f).eth = s.eth := rfl
@[simp] theorem State.modCtx_mgmt (a : Nat) (f : Context → Context) : (s.modCtx a f).mgmt = s.mgmt := rfl
@[simp] theorem State.modCtx_irqs (a : Nat) (f : Context → Context) : (s.modCtx a f).irqs = s.irqs := rfl
@[simp] theorem State.modCtx_out (a : Nat) (f : Context → Context) : (s.modCtx a f).out = s.out := rfl

@[simp] theorem State.writeStore_ir (k n v : Nat) (p : Bool) : (s.writeStore k n v p).ir = s.ir := rfl
@[simp] theorem State.writeStore_occ (k n v : Nat) (p : Bool) : (s.writeStore k n v p).occ = s.occ := rfl
@[simp] theorem State.writeStore_cur (k n v : Nat) (p : Bool) : (s.writeStore k n v p).cur = s.cur := rfl
@[simp] theorem State.writeStore_agenda (k n v : Nat) (p : Bool) : (s.writeStore k n v p).agenda = s.agenda := rfl
@[simp] theorem State.writeStore_now (k n v : Nat) (p : Bool) : (s.writeStore k n v p).now = s.now := rfl
@[simp] theorem State.writeStore_fresh (k n v : Nat) (p : Bool) : (s.writeStore k n v p).fresh = s.fresh := rfl
@[simp] theorem State.writeStore_tags (k n v : Nat) (p : Bool) : (s.writeStore k n v p).tags = s.tags := rfl
@[simp] theorem State.writeStore_tagBad (k n v : Nat) (p : Bool) : (s.writeStore k n v p).tagBad = s.tagBad := rfl
@[simp] theorem State.writeStore_keys (k n v : Nat) (p : Bool) : (s.writeStore k n v p).keys = s.keys := rfl
@[simp] theorem State.writeStore_l2 (k n v : Nat) (p : Bool) : (s.writeStore k n v p).l2 = s.l2 := rfl
@[simp] theorem State.writeStore_walkc (k n v : Nat) (p : Bool) : (s.writeStore k n v p).walkc = s.walkc := rfl
@[simp] theorem State.writeStore_cores (k n v : Nat) (p : Bool) : (s.writeStore k n v p).cores = s.cores := rfl
@[simp] theorem State.writeStore_engines (k n v : Nat) (p : Bool) : (s.writeStore k n v p).engines = s.engines := rfl
@[simp] theorem State.writeStore_teams (k n v : Nat) (p : Bool) : (s.writeStore k n v p).teams = s.teams := rfl
@[simp] theorem State.writeStore_strips (k n v : Nat) (p : Bool) : (s.writeStore k n v p).strips = s.strips := rfl
@[simp] theorem State.writeStore_exs (k n v : Nat) (p : Bool) : (s.writeStore k n v p).exs = s.exs := rfl
@[simp] theorem State.writeStore_aps (k n v : Nat) (p : Bool) : (s.writeStore k n v p).aps = s.aps := rfl
@[simp] theorem State.writeStore_ports (k n v : Nat) (p : Bool) : (s.writeStore k n v p).ports = s.ports := rfl
@[simp] theorem State.writeStore_grids (k n v : Nat) (p : Bool) : (s.writeStore k n v p).grids = s.grids := rfl
@[simp] theorem State.writeStore_props (k n v : Nat) (p : Bool) : (s.writeStore k n v p).props = s.props := rfl
@[simp] theorem State.writeStore_slots (k n v : Nat) (p : Bool) : (s.writeStore k n v p).slots = s.slots := rfl
@[simp] theorem State.writeStore_dskew (k n v : Nat) (p : Bool) : (s.writeStore k n v p).dskew = s.dskew := rfl
@[simp] theorem State.writeStore_ctxs (k n v : Nat) (p : Bool) : (s.writeStore k n v p).ctxs = s.ctxs := rfl
@[simp] theorem State.writeStore_parts (k n v : Nat) (p : Bool) : (s.writeStore k n v p).parts = s.parts := rfl
@[simp] theorem State.writeStore_frecs (k n v : Nat) (p : Bool) : (s.writeStore k n v p).frecs = s.frecs := rfl
@[simp] theorem State.writeStore_parkedOps (k n v : Nat) (p : Bool) : (s.writeStore k n v p).parkedOps = s.parkedOps := rfl
@[simp] theorem State.writeStore_reqs (k n v : Nat) (p : Bool) : (s.writeStore k n v p).reqs = s.reqs := rfl
@[simp] theorem State.writeStore_copies (k n v : Nat) (p : Bool) : (s.writeStore k n v p).copies = s.copies := rfl
@[simp] theorem State.writeStore_msgs (k n v : Nat) (p : Bool) : (s.writeStore k n v p).msgs = s.msgs := rfl
@[simp] theorem State.writeStore_nreds (k n v : Nat) (p : Bool) : (s.writeStore k n v p).nreds = s.nreds := rfl
@[simp] theorem State.writeStore_wdqs (k n v : Nat) (p : Bool) : (s.writeStore k n v p).wdqs = s.wdqs := rfl
@[simp] theorem State.writeStore_pubs (k n v : Nat) (p : Bool) : (s.writeStore k n v p).pubs = s.pubs := rfl
@[simp] theorem State.writeStore_pstbs (k n v : Nat) (p : Bool) : (s.writeStore k n v p).pstbs = s.pstbs := rfl
@[simp] theorem State.writeStore_plans (k n v : Nat) (p : Bool) : (s.writeStore k n v p).plans = s.plans := rfl
@[simp] theorem State.writeStore_inbound (k n v : Nat) (p : Bool) : (s.writeStore k n v p).inbound = s.inbound := rfl
@[simp] theorem State.writeStore_dones (k n v : Nat) (p : Bool) : (s.writeStore k n v p).dones = s.dones := rfl
@[simp] theorem State.writeStore_routes (k n v : Nat) (p : Bool) : (s.writeStore k n v p).routes = s.routes := rfl
@[simp] theorem State.writeStore_links (k n v : Nat) (p : Bool) : (s.writeStore k n v p).links = s.links := rfl
@[simp] theorem State.writeStore_eth (k n v : Nat) (p : Bool) : (s.writeStore k n v p).eth = s.eth := rfl
@[simp] theorem State.writeStore_mgmt (k n v : Nat) (p : Bool) : (s.writeStore k n v p).mgmt = s.mgmt := rfl
@[simp] theorem State.writeStore_irqs (k n v : Nat) (p : Bool) : (s.writeStore k n v p).irqs = s.irqs := rfl
@[simp] theorem State.writeStore_out (k n v : Nat) (p : Bool) : (s.writeStore k n v p).out = s.out := rfl

@[simp] theorem State.writeSector_ir (a key : Nat) (v : BitVec 256) (p : Bool) : (s.writeSector a key v p).ir = s.ir := rfl
@[simp] theorem State.writeSector_occ (a key : Nat) (v : BitVec 256) (p : Bool) : (s.writeSector a key v p).occ = s.occ := rfl
@[simp] theorem State.writeSector_cur (a key : Nat) (v : BitVec 256) (p : Bool) : (s.writeSector a key v p).cur = s.cur := rfl
@[simp] theorem State.writeSector_agenda (a key : Nat) (v : BitVec 256) (p : Bool) : (s.writeSector a key v p).agenda = s.agenda := rfl
@[simp] theorem State.writeSector_now (a key : Nat) (v : BitVec 256) (p : Bool) : (s.writeSector a key v p).now = s.now := rfl
@[simp] theorem State.writeSector_fresh (a key : Nat) (v : BitVec 256) (p : Bool) : (s.writeSector a key v p).fresh = s.fresh := rfl
@[simp] theorem State.writeSector_tags (a key : Nat) (v : BitVec 256) (p : Bool) : (s.writeSector a key v p).tags = s.tags := rfl
@[simp] theorem State.writeSector_tagBad (a key : Nat) (v : BitVec 256) (p : Bool) : (s.writeSector a key v p).tagBad = s.tagBad := rfl
@[simp] theorem State.writeSector_l2 (a key : Nat) (v : BitVec 256) (p : Bool) : (s.writeSector a key v p).l2 = s.l2 := rfl
@[simp] theorem State.writeSector_walkc (a key : Nat) (v : BitVec 256) (p : Bool) : (s.writeSector a key v p).walkc = s.walkc := rfl
@[simp] theorem State.writeSector_cores (a key : Nat) (v : BitVec 256) (p : Bool) : (s.writeSector a key v p).cores = s.cores := rfl
@[simp] theorem State.writeSector_engines (a key : Nat) (v : BitVec 256) (p : Bool) : (s.writeSector a key v p).engines = s.engines := rfl
@[simp] theorem State.writeSector_teams (a key : Nat) (v : BitVec 256) (p : Bool) : (s.writeSector a key v p).teams = s.teams := rfl
@[simp] theorem State.writeSector_strips (a key : Nat) (v : BitVec 256) (p : Bool) : (s.writeSector a key v p).strips = s.strips := rfl
@[simp] theorem State.writeSector_exs (a key : Nat) (v : BitVec 256) (p : Bool) : (s.writeSector a key v p).exs = s.exs := rfl
@[simp] theorem State.writeSector_aps (a key : Nat) (v : BitVec 256) (p : Bool) : (s.writeSector a key v p).aps = s.aps := rfl
@[simp] theorem State.writeSector_ports (a key : Nat) (v : BitVec 256) (p : Bool) : (s.writeSector a key v p).ports = s.ports := rfl
@[simp] theorem State.writeSector_grids (a key : Nat) (v : BitVec 256) (p : Bool) : (s.writeSector a key v p).grids = s.grids := rfl
@[simp] theorem State.writeSector_props (a key : Nat) (v : BitVec 256) (p : Bool) : (s.writeSector a key v p).props = s.props := rfl
@[simp] theorem State.writeSector_slots (a key : Nat) (v : BitVec 256) (p : Bool) : (s.writeSector a key v p).slots = s.slots := rfl
@[simp] theorem State.writeSector_dskew (a key : Nat) (v : BitVec 256) (p : Bool) : (s.writeSector a key v p).dskew = s.dskew := rfl
@[simp] theorem State.writeSector_ctxs (a key : Nat) (v : BitVec 256) (p : Bool) : (s.writeSector a key v p).ctxs = s.ctxs := rfl
@[simp] theorem State.writeSector_parts (a key : Nat) (v : BitVec 256) (p : Bool) : (s.writeSector a key v p).parts = s.parts := rfl
@[simp] theorem State.writeSector_frecs (a key : Nat) (v : BitVec 256) (p : Bool) : (s.writeSector a key v p).frecs = s.frecs := rfl
@[simp] theorem State.writeSector_parkedOps (a key : Nat) (v : BitVec 256) (p : Bool) : (s.writeSector a key v p).parkedOps = s.parkedOps := rfl
@[simp] theorem State.writeSector_reqs (a key : Nat) (v : BitVec 256) (p : Bool) : (s.writeSector a key v p).reqs = s.reqs := rfl
@[simp] theorem State.writeSector_copies (a key : Nat) (v : BitVec 256) (p : Bool) : (s.writeSector a key v p).copies = s.copies := rfl
@[simp] theorem State.writeSector_msgs (a key : Nat) (v : BitVec 256) (p : Bool) : (s.writeSector a key v p).msgs = s.msgs := rfl
@[simp] theorem State.writeSector_nreds (a key : Nat) (v : BitVec 256) (p : Bool) : (s.writeSector a key v p).nreds = s.nreds := rfl
@[simp] theorem State.writeSector_wdqs (a key : Nat) (v : BitVec 256) (p : Bool) : (s.writeSector a key v p).wdqs = s.wdqs := rfl
@[simp] theorem State.writeSector_pubs (a key : Nat) (v : BitVec 256) (p : Bool) : (s.writeSector a key v p).pubs = s.pubs := rfl
@[simp] theorem State.writeSector_pstbs (a key : Nat) (v : BitVec 256) (p : Bool) : (s.writeSector a key v p).pstbs = s.pstbs := rfl
@[simp] theorem State.writeSector_plans (a key : Nat) (v : BitVec 256) (p : Bool) : (s.writeSector a key v p).plans = s.plans := rfl
@[simp] theorem State.writeSector_inbound (a key : Nat) (v : BitVec 256) (p : Bool) : (s.writeSector a key v p).inbound = s.inbound := rfl
@[simp] theorem State.writeSector_dones (a key : Nat) (v : BitVec 256) (p : Bool) : (s.writeSector a key v p).dones = s.dones := rfl
@[simp] theorem State.writeSector_routes (a key : Nat) (v : BitVec 256) (p : Bool) : (s.writeSector a key v p).routes = s.routes := rfl
@[simp] theorem State.writeSector_links (a key : Nat) (v : BitVec 256) (p : Bool) : (s.writeSector a key v p).links = s.links := rfl
@[simp] theorem State.writeSector_eth (a key : Nat) (v : BitVec 256) (p : Bool) : (s.writeSector a key v p).eth = s.eth := rfl
@[simp] theorem State.writeSector_mgmt (a key : Nat) (v : BitVec 256) (p : Bool) : (s.writeSector a key v p).mgmt = s.mgmt := rfl
@[simp] theorem State.writeSector_irqs (a key : Nat) (v : BitVec 256) (p : Bool) : (s.writeSector a key v p).irqs = s.irqs := rfl
@[simp] theorem State.writeSector_out (a key : Nat) (v : BitVec 256) (p : Bool) : (s.writeSector a key v p).out = s.out := rfl

variable (u : Agent) (f : Ctl → Ctl)

@[simp] theorem State.modCtl_ir : (s.modCtl u f).ir = s.ir := by cases u <;> rfl
@[simp] theorem State.modCtl_occ : (s.modCtl u f).occ = s.occ := by cases u <;> rfl
@[simp] theorem State.modCtl_cur : (s.modCtl u f).cur = s.cur := by cases u <;> rfl
@[simp] theorem State.modCtl_agenda : (s.modCtl u f).agenda = s.agenda := by cases u <;> rfl
@[simp] theorem State.modCtl_now : (s.modCtl u f).now = s.now := by cases u <;> rfl
@[simp] theorem State.modCtl_fresh : (s.modCtl u f).fresh = s.fresh := by cases u <;> rfl
@[simp] theorem State.modCtl_mem : (s.modCtl u f).mem = s.mem := by cases u <;> rfl
@[simp] theorem State.modCtl_poison : (s.modCtl u f).poison = s.poison := by cases u <;> rfl
@[simp] theorem State.modCtl_tags : (s.modCtl u f).tags = s.tags := by cases u <;> rfl
@[simp] theorem State.modCtl_tagBad : (s.modCtl u f).tagBad = s.tagBad := by cases u <;> rfl
@[simp] theorem State.modCtl_keys : (s.modCtl u f).keys = s.keys := by cases u <;> rfl
@[simp] theorem State.modCtl_l2 : (s.modCtl u f).l2 = s.l2 := by cases u <;> rfl
@[simp] theorem State.modCtl_walkc : (s.modCtl u f).walkc = s.walkc := by cases u <;> rfl
@[simp] theorem State.modCtl_cores : (s.modCtl u f).cores = s.cores := by cases u <;> rfl
@[simp] theorem State.modCtl_teams : (s.modCtl u f).teams = s.teams := by cases u <;> rfl
@[simp] theorem State.modCtl_strips : (s.modCtl u f).strips = s.strips := by cases u <;> rfl
@[simp] theorem State.modCtl_ports : (s.modCtl u f).ports = s.ports := by cases u <;> rfl
@[simp] theorem State.modCtl_grids : (s.modCtl u f).grids = s.grids := by cases u <;> rfl
@[simp] theorem State.modCtl_props : (s.modCtl u f).props = s.props := by cases u <;> rfl
@[simp] theorem State.modCtl_slots : (s.modCtl u f).slots = s.slots := by cases u <;> rfl
@[simp] theorem State.modCtl_dskew : (s.modCtl u f).dskew = s.dskew := by cases u <;> rfl
@[simp] theorem State.modCtl_ctxs : (s.modCtl u f).ctxs = s.ctxs := by cases u <;> rfl
@[simp] theorem State.modCtl_parts : (s.modCtl u f).parts = s.parts := by cases u <;> rfl
@[simp] theorem State.modCtl_frecs : (s.modCtl u f).frecs = s.frecs := by cases u <;> rfl
@[simp] theorem State.modCtl_parkedOps : (s.modCtl u f).parkedOps = s.parkedOps := by cases u <;> rfl
@[simp] theorem State.modCtl_reqs : (s.modCtl u f).reqs = s.reqs := by cases u <;> rfl
@[simp] theorem State.modCtl_copies : (s.modCtl u f).copies = s.copies := by cases u <;> rfl
@[simp] theorem State.modCtl_msgs : (s.modCtl u f).msgs = s.msgs := by cases u <;> rfl
@[simp] theorem State.modCtl_nreds : (s.modCtl u f).nreds = s.nreds := by cases u <;> rfl
@[simp] theorem State.modCtl_wdqs : (s.modCtl u f).wdqs = s.wdqs := by cases u <;> rfl
@[simp] theorem State.modCtl_pubs : (s.modCtl u f).pubs = s.pubs := by cases u <;> rfl
@[simp] theorem State.modCtl_pstbs : (s.modCtl u f).pstbs = s.pstbs := by cases u <;> rfl
@[simp] theorem State.modCtl_plans : (s.modCtl u f).plans = s.plans := by cases u <;> rfl
@[simp] theorem State.modCtl_inbound : (s.modCtl u f).inbound = s.inbound := by cases u <;> rfl
@[simp] theorem State.modCtl_dones : (s.modCtl u f).dones = s.dones := by cases u <;> rfl
@[simp] theorem State.modCtl_routes : (s.modCtl u f).routes = s.routes := by cases u <;> rfl
@[simp] theorem State.modCtl_links : (s.modCtl u f).links = s.links := by cases u <;> rfl
@[simp] theorem State.modCtl_eth : (s.modCtl u f).eth = s.eth := by cases u <;> rfl
@[simp] theorem State.modCtl_mgmt : (s.modCtl u f).mgmt = s.mgmt := by cases u <;> rfl
@[simp] theorem State.modCtl_irqs : (s.modCtl u f).irqs = s.irqs := by cases u <;> rfl
@[simp] theorem State.modCtl_out : (s.modCtl u f).out = s.out := by cases u <;> rfl

/-- A unit's control state after a change: the change applied. -/
@[simp] theorem State.ctl_modCtl : (s.modCtl u f).ctl u = (s.ctl u).map f := by
  cases u <;> simp [State.ctl, State.modCtl, Option.map_map] <;> rfl

end Sys2Proof.Machine
end

