-- ==== Sys2Proof/Laws/Frame.lean ====
section
/-! SUPPORT. The frame of an instruction: what surrounds a body that ends well, traps or waits. -/

namespace Sys2Proof.Machine

@[simp] theorem M.ops_run (s : State) : ops s = .ok (s.ir, s) := rfl

theorem M.exThread_run {s : State} {tm tid : Nat} {x : ExThread} (h : s.cur = some (.ex tm tid))
    (hx : s.exs.find (exKey tm tid) = some x) : exThread s = .ok (x, s) := by
  simp [exThread, M.bind_run, M.unit_run h, hx]

theorem M.apThread_run {s : State} {tm sp : Nat} {x : ApThread} (h : s.cur = some (.ap tm sp))
    (hx : s.aps.find (stripKey tm sp) = some x) : apThread s = .ok (x, s) := by
  simp [apThread, M.bind_run, M.unit_run h, hx]

theorem M.engine_run {s : State} {n : Nat} {e : Engine} (h : s.cur = some (.qe n)) (he : s.engines.find n = some e) :
    engine s = .ok (e, s) := by
  simp [engine, M.bind_run, M.unit_run h, he]

@[simp] theorem State.past_cur (s : State) (u : Agent) : (s.past u).cur = s.cur := by cases u <;> simp [State.past]
@[simp] theorem State.past_ir (s : State) (u : Agent) : (s.past u).ir = s.ir := by cases u <;> simp [State.past]
@[simp] theorem State.past_teams (s : State) (u : Agent) : (s.past u).teams = s.teams := by cases u <;> simp [State.past]
@[simp] theorem State.past_strips (s : State) (u : Agent) : (s.past u).strips = s.strips := by cases u <;> simp [State.past]
@[simp] theorem State.past_grids (s : State) (u : Agent) : (s.past u).grids = s.grids := by cases u <;> simp [State.past]
@[simp] theorem State.past_ports (s : State) (u : Agent) : (s.past u).ports = s.ports := by cases u <;> simp [State.past]
@[simp] theorem State.past_mem (s : State) (u : Agent) : (s.past u).mem = s.mem := by cases u <;> simp [State.past]
@[simp] theorem State.past_poison (s : State) (u : Agent) : (s.past u).poison = s.poison := by cases u <;> simp [State.past]
@[simp] theorem State.past_now (s : State) (u : Agent) : (s.past u).now = s.now := by cases u <;> simp [State.past]

/-- The pc, status, stall hint and clocks move as R44 and R290 say. -/
theorem M.advance_run {s : State} {u : Agent} (h : s.cur = some u) : advance s = .ok (⟨⟩, s.past u) := by
  cases u <;> simp [advance, M.bind_run, M.modCtl_run _ h, M.unit_run, h, State.past]

theorem M.retired_run {s : State} {u : Agent} (h : s.cur = some u) (hc : (s.ctl u).isSome) :
    retired s = .ok (⟨⟩, s.idled u) := by
  obtain ⟨c, hc⟩ := Option.isSome_iff_exists.1 hc
  cases u <;>
    simp only [retired, M.bind_run, M.unit_run h, State.idled, State.waits, hc, M.ctl_run h hc] <;>
    first | rfl | (cases c.status <;> simp)

/-- An instruction that executes, and whose body ends well, gives the state its body left, closed. -/
theorem insn_next {i : Instr} {sh : Shape} {body : M Unit} {s t : State} {u : Agent} (h : Executes s u sh)
    (hb : body (s.past u) = .ok ((), t)) (hc : t.cur = some u) (hx : (t.ctl u).isSome) :
    meaning (insn i sh body) s = .next (s.closed t u i sh) := by
  obtain ⟨hcur, h⟩ := h
  have hpc : (s.past u).cur = some u := by simp [hcur]
  cases u with
  | ex tm tid =>
    obtain ⟨x, g, hx1, hg, hgd, hz⟩ := h
    have hteam : s.teamOf (.ex tm tid) = some g := hg
    replace hz : (LRec.check (s.recordOf g) && true && hazHit x.hazards s.ir sh) = false := by rwa [Bool.and_true]
    simp only [meaning, hcur, runUnit, insn, insnWith, M.bind_run, M.ops_run, M.unit_run hcur, M.exThread_run hcur hx1,
      checkMode, M.get_run, M.team_run hcur hteam, M.pure_run, hgd, hz, M.trapIf_false, M.advance_run hcur, hb, if_true,
      State.closed, hg, Option.elim_some]
    by_cases hk : LRec.check (s.recordOf g) = true
    · simp only [hk, if_true, M.modify_run]
      rw [M.retired_run (by simpa using hc)]
      obtain ⟨c, hx⟩ := Option.isSome_iff_exists.1 hx
      simp only [State.ctl, Option.map_eq_some_iff] at hx
      obtain ⟨y, hy, _⟩ := hx
      simp [State.ctl, hy]
    · simp only [hk, if_false, M.pure_run, Bool.false_eq_true]
      rw [M.retired_run hc hx]
  | ap tm sp =>
    obtain ⟨x, hx1, hp, hn⟩ := h
    simp only [meaning, hcur, runUnit, insn, insnWith, M.bind_run, M.ops_run, M.unit_run hcur, M.apThread_run hcur hx1,
      hp, M.trapIf_false, M.pure_run, M.advance_run hcur, ne_eq, hn, not_false_iff, true_or, if_true, hb,
      M.retired_run hc hx, State.closed]
  | qe n =>
    simp only [meaning, hcur, runUnit, insn, insnWith, M.bind_run, M.ops_run, M.unit_run hcur, M.advance_run hcur, hb,
      State.closed, State.idled]

end Sys2Proof.Machine
end

