-- ==== Sys2Proof/Laws/Keeps.lean ====
section
/-! SUPPORT. Relations that every part of a meaning keeps between the state before and the state after: once for sequences, once
for reading the operands and writing the destination of an instruction. -/

namespace Sys2Proof.Machine

variable {α β : Type} {P : State → State → Prop}

/-- Whenever m ends well, its states stand in P. -/
def Keeps (P : State → State → Prop) (m : M α) : Prop := ∀ s a t, m s = .ok (a, t) → P s t

/-- P holds of a state and itself, and along a sequence. -/
structure Frames (P : State → State → Prop) : Prop where
  refl : ∀ s, P s s
  trans : ∀ {s t r}, P s t → P t r → P s r

/-- P allows what reading and writing operands does: changes of units, ports, strip-registers and counts. -/
structure Local (P : State → State → Prop) : Prop extends Frames P where
  ex : ∀ s a b f, P s (s.modEx a b f)
  ap : ∀ s a b f, P s (s.modAp a b f)
  engine : ∀ s a f, P s (s.modEngine a f)
  ports : ∀ (s : State) m, P s { s with ports := m }
  strips : ∀ (s : State) m n, P s { s with strips := m, fresh := n }
  ctx : ∀ s a f, P s (s.modCtx a f)
  mgmt : ∀ (s : State) m, P s { s with mgmt := m }

theorem Keeps.pure (h : Frames P) (a : α) : Keeps P (pure a : M α) := by
  rintro s b t ⟨⟩; exact h.refl s

theorem Keeps.bind (h : Frames P) {m : M α} {f : α → M β} (hm : Keeps P m) (hf : ∀ a, Keeps P (f a)) :
    Keeps P (m >>= f) := by
  intro s b t hb
  obtain ⟨a, r, h1, h2⟩ := M.bind_inv hb
  exact h.trans (hm _ _ _ h1) (hf a _ _ _ h2)

theorem Keeps.get (h : Frames P) : Keeps P (get : M State) := by rintro s b t ⟨⟩; exact h.refl s
theorem Keeps.throw (e : Stop) : Keeps P (throw e : M α) := by rintro s b t ⟨⟩
theorem Keeps.stopTrap (e : TrapInfo) : Keeps P (stopTrap e : M α) := by rintro s b t ⟨⟩
theorem Keeps.trap (c n : Nat) : Keeps P (trap c n : M α) := by rintro s b t ⟨⟩
theorem Keeps.wait (w : Wait) : Keeps P (wait w : M α) := by rintro s b t ⟨⟩
theorem Keeps.modify {f : State → State} (h : ∀ s, P s (f s)) : Keeps P (modify f : M PUnit) := by
  rintro s b t ⟨⟩; exact h s
theorem Keeps.set {r : State} (h : ∀ s, P s r) : Keeps P (set r : M PUnit) := by rintro s b t ⟨⟩; exact h s

/-- What follows a read of the state may use that state. -/
theorem Keeps.get_bind {f : State → M β} (hf : ∀ s a t, f s s = .ok (a, t) → P s t) : Keeps P (MonadState.get >>= f) := by
  intro s b t hb
  rw [M.bind_run] at hb
  exact hf s b t hb

theorem Keeps.ite {c : Prop} [Decidable c] {m n : M α} (hm : Keeps P m) (hn : Keeps P n) : Keeps P (if c then m else n) := by
  split <;> assumption

theorem Keeps.trapIf (h : Frames P) (c : Bool) (x y : Nat) : Keeps P (trapIf c x y) := by
  cases c
  · exact Keeps.pure h _
  · exact Keeps.trap _ _

theorem Keeps.waitUnless (h : Frames P) (c : Bool) (w : Wait) : Keeps P (waitUnless c w) := by
  cases c
  · exact Keeps.wait _
  · exact Keeps.pure h _

theorem Keeps.orTrap (h : Frames P) (x : Except TrapInfo α) : Keeps P (orTrap x) := by
  cases x
  · exact Keeps.stopTrap _
  · exact Keeps.pure h _

theorem Keeps.forM (h : Frames P) {l : List α} {f : α → M PUnit} (hf : ∀ a, Keeps P (f a)) : Keeps P (l.forM f) := by
  induction l with
  | nil => exact Keeps.pure h _
  | cons a l ih => exact Keeps.bind h (hf a) (fun _ => ih)

theorem Keeps.unit (h : Frames P) : Keeps P unit := by
  intro s a t he
  unfold Machine.unit at he
  rw [M.bind_run, M.get_run] at he
  cases hc : s.cur <;> simp [hc] at he
  obtain ⟨rfl, rfl⟩ := he; exact h.refl s

theorem Keeps.ctl (h : Frames P) : Keeps P ctl := by
  refine Keeps.bind h (Keeps.unit h) (fun u => Keeps.get_bind ?_)
  intro s a t he
  cases hc : s.ctl u <;> simp [hc] at he
  obtain ⟨rfl, rfl⟩ := he; exact h.refl s

theorem Keeps.team (h : Frames P) : Keeps P team := by
  refine Keeps.get_bind ?_
  intro s a t he
  obtain ⟨u, r, h1, h2⟩ := M.bind_inv he
  refine h.trans (Keeps.unit h _ _ _ h1) ?_
  cases hc : s.teamOf u <;> simp [hc] at h2
  obtain ⟨rfl, rfl⟩ := h2; exact h.refl _

theorem Keeps.core (h : Frames P) : Keeps P core :=
  Keeps.bind h (Keeps.team h) (fun _ => Keeps.bind h (Keeps.unit h) (fun _ => Keeps.pure h _))

theorem Keeps.ops (h : Frames P) : Keeps P ops := by rintro s a t ⟨⟩; exact h.refl s

theorem Keeps.exThread (h : Frames P) : Keeps P exThread := by
  refine Keeps.bind h (Keeps.unit h) (fun u => ?_)
  cases u with
  | ex tm tid =>
    refine Keeps.get_bind ?_
    intro s a t he
    cases hc : s.exs.find (exKey tm tid) <;> simp [hc] at he
    obtain ⟨rfl, rfl⟩ := he; exact h.refl s
  | _ => exact Keeps.throw _

theorem Keeps.apThread (h : Frames P) : Keeps P apThread := by
  refine Keeps.bind h (Keeps.unit h) (fun u => ?_)
  cases u with
  | ap tm sp =>
    refine Keeps.get_bind ?_
    intro s a t he
    cases hc : s.aps.find (stripKey tm sp) <;> simp [hc] at he
    obtain ⟨rfl, rfl⟩ := he; exact h.refl s
  | _ => exact Keeps.throw _

theorem Keeps.engine (h : Frames P) : Keeps P engine := by
  refine Keeps.bind h (Keeps.unit h) (fun u => ?_)
  cases u with
  | qe n =>
    refine Keeps.get_bind ?_
    intro s a t he
    cases hc : s.engines.find n <;> simp [hc] at he
    obtain ⟨rfl, rfl⟩ := he; exact h.refl s
  | _ => exact Keeps.throw _

theorem Local.modCtl (h : Local P) (s : State) (u : Agent) (f : Ctl → Ctl) : P s (s.modCtl u f) := by
  cases u with
  | ex a b => exact h.ex s a b _
  | ap a b => exact h.ap s a b _
  | qe n => exact h.engine s n _

theorem Keeps.modCtl (h : Local P) (f : Ctl → Ctl) : Keeps P (modCtl f) :=
  Keeps.bind h.toFrames (Keeps.unit h.toFrames) (fun _ => Keeps.modify (fun s => h.modCtl s _ f))

theorem Local.strip (h : Local P) (s : State) (a b : Nat) (f : Strip → Strip) : P s (s.modStrip a b f) := h.strips s _ s.fresh

theorem Local.count (h : Local P) (s : State) (k n : Nat) : P s (s.count k n) := h.mgmt s _

theorem Local.discard (h : Local P) (s : State) (tm sp n : Nat) : P s (s.discard tm sp n) := by
  unfold State.discard
  split
  · exact h.refl s
  · exact h.trans (h.ctx s _ _) (h.count _ _ _)

theorem Local.retire (h : Local P) (s : State) (tm sp key : Nat) : P s (s.retire tm sp key) := by
  unfold State.retire
  split
  · exact h.refl s
  · next p _ =>
    have key : ∀ dead : Nat, P s (if dead = 0 then s else s.discard tm sp dead) := by
      intro dead; split
      · exact h.refl s
      · exact h.discard s _ _ _
    exact h.trans (key _) (h.ports _ _)

theorem Local.retireIdle (h : Local P) (s : State) (a b k : Nat) : P s (s.retireIdle a b k) := by
  unfold State.retireIdle
  split
  · exact h.refl s
  · exact h.retire s a b k

theorem Keeps.myStrip (h : Frames P) : Keeps P myStrip :=
  Keeps.bind h (Keeps.unit h) (fun u => by cases u <;> first | exact Keeps.pure h _ | exact Keeps.throw _)

theorem Keeps.lanes (h : Frames P) : Keeps P lanes :=
  Keeps.bind h (Keeps.unit h) (fun u => by
    cases u with
    | ap a b =>
      exact Keeps.bind h (Keeps.apThread h) (fun _ => Keeps.bind h (Keeps.ops h) (fun _ => Keeps.pure h _))
    | _ => exact Keeps.pure h _)

theorem Keeps.width (h : Frames P) : Keeps P width :=
  Keeps.bind h (Keeps.unit h) (fun u => by cases u <;> exact Keeps.pure h _)

theorem Keeps.takeDeferred (h : Frames P) (p : Deferred → Bool) : Keeps P (takeDeferred p) := by
  refine Keeps.bind h (Keeps.ctl h) (fun c => ?_)
  split
  · exact Keeps.throw _
  · exact Keeps.pure h _

/-- A pop changes nothing beyond the thread and its port. -/
theorem Keeps.popE (h : Local P) (port n : Nat) (d : Bool) : Keeps P (popE port n d) := by
  have hf := h.toFrames
  unfold Machine.popE
  repeat' first
    | with_reducible exact Keeps.pure hf _
    | with_reducible exact Keeps.get hf
    | with_reducible exact Keeps.unit hf
    | with_reducible exact Keeps.ctl hf
    | with_reducible exact Keeps.stopTrap _
    | with_reducible exact Keeps.throw _
    | with_reducible exact Keeps.waitUnless hf _ _
    | with_reducible exact Keeps.modCtl h _
    | with_reducible exact Keeps.modify (fun s => h.ex s _ _ _)
    | with_reducible exact Keeps.modify (fun s => h.discard s _ _ _)
    | with_reducible exact Keeps.modify (fun s => h.trans (h.ports s _) (h.retire _ _ _ _))
    | with_reducible refine Keeps.bind hf ?_ (fun _ => ?_)
    | split
    | dsimp only

/-! ### A part that begins in a known state -/

/-- Whenever m ends well from s, it ends in a state that stands in P to s. -/
def From (P : State → State → Prop) (s : State) (m : M α) : Prop := ∀ a t, m s = .ok (a, t) → P s t

/-- Parts that change nothing. -/
theorem framesEq : Frames (fun s t : State => t = s) := ⟨fun _ => rfl, fun h1 h2 => h2.trans h1⟩

theorem Keeps.of_from {m : M α} (h : ∀ s, From P s m) : Keeps P m := fun s a t => h s a t
theorem From.of_keeps {m : M α} (h : Keeps P m) (s : State) : From P s m := fun a t => h s a t

theorem From.get_bind {s : State} {f : State → M β} (h : From P s (f s)) : From P s (MonadState.get >>= f) := by
  intro b t hb; rw [M.bind_run] at hb; exact h b t hb

theorem From.read_bind {s : State} {m : M α} {f : α → M β} (hm : Keeps (fun s t => t = s) m) (hf : ∀ a, From P s (f a)) :
    From P s (m >>= f) := by
  intro b t hb
  obtain ⟨a, r, h1, h2⟩ := M.bind_inv hb
  have := hm _ _ _ h1
  subst this
  exact hf a b t h2

theorem From.bind (h : Frames P) {s : State} {m : M α} {f : α → M β} (hm : From P s m) (hf : ∀ a, Keeps P (f a)) :
    From P s (m >>= f) := by
  intro b t hb
  obtain ⟨a, r, h1, h2⟩ := M.bind_inv hb
  exact h.trans (hm a r h1) (hf a _ _ _ h2)

theorem From.set {s r : State} (h : P s r) : From P s (set r : M PUnit) := by rintro b t ⟨⟩; exact h
theorem From.modify {s : State} {f : State → State} (h : P s (f s)) : From P s (modify f : M PUnit) := by rintro b t ⟨⟩; exact h
theorem From.pure (h : Frames P) (s : State) (a : α) : From P s (pure a : M α) := From.of_keeps (Keeps.pure h a) s
theorem From.throw (s : State) (e : Stop) : From P s (throw e : M α) := From.of_keeps (Keeps.throw e) s
theorem From.stopTrap (s : State) (e : TrapInfo) : From P s (stopTrap e : M α) := From.of_keeps (Keeps.stopTrap e) s

/-- A pop by the access thread changes nothing beyond its port. -/
theorem Keeps.popA (h : Local P) (port : Nat) : Keeps P (popA port) := by
  have hf := h.toFrames
  have he := framesEq
  refine Keeps.of_from (fun s => ?_)
  unfold Machine.popA
  refine From.get_bind ?_
  refine From.read_bind (Keeps.unit he) (fun u => ?_)
  cases u with
  | ap tm sp =>
    dsimp only
    split
    · exact From.stopTrap _ _
    · split
      · exact From.pure hf _ _
      · refine From.read_bind (Keeps.waitUnless he _ _) (fun _ => ?_)
        exact From.bind hf (From.set (h.trans (h.ports s _) (h.retire _ _ _ _))) (fun _ => Keeps.pure hf _)
  | _ => exact From.throw _ _

/-- What a push asks before it is made changes nothing. -/
theorem Keeps.pushRoom (port : Nat) (p : Port) (k : Nat) (b : Bool) : Keeps (fun s t => t = s) (pushRoom port p k b) := by
  have he := framesEq
  unfold Machine.pushRoom
  refine Keeps.bind he (Keeps.takeDeferred he _) (fun _ => ?_)
  repeat' first
    | with_reducible exact Keeps.stopTrap _
    | with_reducible exact Keeps.pure he _
    | with_reducible exact Keeps.waitUnless he _ _
    | with_reducible refine Keeps.bind he ?_ (fun _ => ?_)
    | split

/-- An element pushed changes its port, its thread and the next number. -/
theorem Local.push (h : Local P) (s : State) (tm tid n : Nat) (p : Port) (v : W64) : P s (s.push tm tid n p v) := by
  unfold State.push
  dsimp only
  split
  · exact h.trans (h.trans (h.ports s (s.ports.put _ _)) (h.strips _ s.strips (s.fresh + 1))) (h.ex _ _ _ _)
  · exact h.ports s _

/-- A push by an execute thread changes nothing beyond the thread and its port. -/
theorem Keeps.pushE (h : Local P) (port : Nat) (v : Val) : Keeps P (pushE port v) := by
  have hf := h.toFrames
  have he := framesEq
  refine Keeps.of_from (fun s => ?_)
  unfold Machine.pushE
  refine From.get_bind (From.read_bind (Keeps.unit he) (fun u => ?_))
  cases u with
  | ex tm tid =>
    dsimp only
    split
    · exact From.stopTrap _ _
    · exact From.read_bind (Keeps.pushRoom _ _ _ _) (fun _ => From.set (h.push s _ _ _ _ _))
  | _ => exact From.throw _ _

/-- A row pushed by the access thread changes nothing beyond its port. -/
theorem Keeps.pushRows (h : Local P) (port : Nat) (rows : List (List Slot)) : Keeps P (pushRows port rows) := by
  have hf := h.toFrames
  have he := framesEq
  refine Keeps.of_from (fun s => ?_)
  unfold Machine.pushRows
  refine From.get_bind (From.read_bind (Keeps.unit he) (fun u => ?_))
  cases u with
  | ap tm sp =>
    dsimp only
    split
    · exact From.stopTrap _ _
    · repeat' first
        | with_reducible exact From.stopTrap _ _
        | with_reducible exact Keeps.pure hf _
        | with_reducible refine From.read_bind (Keeps.stopTrap _) (fun _ => ?_)
        | with_reducible refine From.read_bind (Keeps.waitUnless he _ _) (fun _ => ?_)
        | with_reducible refine From.bind hf (From.set (h.trans (h.ports s _) (h.retireIdle _ _ _ _))) (fun _ => ?_)
        | split
  | _ => exact From.throw _ _

/-- Writing strip-registers changes them and the next register number. -/
theorem Keeps.writeRegs (h : Local P) (tm tid : Nat) (ws : List (Nat × W32)) (p q : Bool) :
    Keeps P (writeRegs tm tid ws p q) := by
  have hf := h.toFrames
  have he := framesEq
  refine Keeps.of_from (fun s => ?_)
  unfold Machine.writeRegs
  refine From.get_bind ?_
  split
  · exact From.throw _ _
  · dsimp only
    refine From.read_bind (Keeps.trapIf he _ _ _) (fun _ => From.read_bind (Keeps.waitUnless he _ _) (fun _ => ?_))
    exact From.bind hf (From.set (h.strips s _ _)) (fun _ => Keeps.pure hf _)

theorem Keeps.checkPorts (h : Frames P) (sh : Shape) : Keeps P (checkPorts sh) := by
  unfold Machine.checkPorts
  repeat' first
    | with_reducible exact Keeps.pure h _
    | with_reducible exact Keeps.orTrap h _
    | with_reducible refine Keeps.bind h (Keeps.unit h) (fun _ => ?_)
    | with_reducible refine Keeps.bind h (Keeps.ops h) (fun _ => ?_)
    | with_reducible refine Keeps.bind h (Keeps.get h) (fun _ => ?_)
    | with_reducible refine Keeps.bind h (Keeps.myStrip h) (fun _ => ?_)
    | with_reducible refine Keeps.bind h (Keeps.orTrap h _) (fun _ => ?_)
    | split

theorem Keeps.awaitRows (h : Frames P) (ps : List (Nat × Nat)) : Keeps P (awaitRows ps) := by
  unfold Machine.awaitRows
  refine Keeps.bind h (Keeps.get h) (fun _ => Keeps.bind h (Keeps.myStrip h) (fun _ => Keeps.bind h (Keeps.unit h) (fun _ => ?_)))
  refine Keeps.forM h (fun q => ?_)
  repeat' first
    | with_reducible exact Keeps.pure h _
    | with_reducible exact Keeps.waitUnless h _ _
    | split

theorem Keeps.awaitRegs (h : Frames P) (fs : List (Field × Nat)) : Keeps P (awaitRegs fs) := by
  unfold Machine.awaitRegs
  repeat' first
    | with_reducible exact Keeps.waitUnless h _ _
    | with_reducible refine Keeps.bind h (Keeps.get h) (fun _ => ?_)
    | with_reducible refine Keeps.bind h (Keeps.unit h) (fun _ => ?_)
    | with_reducible refine Keeps.bind h (Keeps.apThread h) (fun _ => ?_)
    | with_reducible refine Keeps.bind h (Keeps.engine h) (fun _ => ?_)
    | split

theorem Keeps.dropMarks (h : Local P) (o : Ops) (sh : Shape) : Keeps P (dropMarks o sh) := by
  unfold Machine.dropMarks
  refine Keeps.bind h.toFrames (Keeps.unit h.toFrames) (fun u => ?_)
  repeat' first
    | with_reducible exact Keeps.pure h.toFrames _
    | with_reducible exact Keeps.modify (fun s => h.strip s _ _ _)
    | split
    | dsimp only

theorem Keeps.popAll (h : Local P) (ps : List (Nat × Nat)) : Keeps P (popAll ps) := by
  have hf := h.toFrames
  induction ps with
  | nil => exact Keeps.pure hf _
  | cons q ps ih =>
    unfold Machine.popAll
    refine Keeps.bind hf ?_ (fun _ => Keeps.bind hf ih (fun _ => Keeps.pure hf _))
    refine Keeps.bind hf (Keeps.unit hf) (fun u => ?_)
    cases u with
    | ex tm tid => exact Keeps.bind hf (Keeps.popE h _ _ _) (fun _ => Keeps.pure hf _)
    | ap tm sp => exact Keeps.popA h _
    | qe n => exact Keeps.popA h _

theorem Keeps.readField1 (h : Frames P) (f : Field) (w : Nat) (lk : LitKind) (env : List (Nat × Lanes)) :
    Keeps P (readField1 f w lk env) := by
  unfold Machine.readField1
  repeat' first
    | with_reducible exact Keeps.pure h _
    | with_reducible refine Keeps.bind h (Keeps.unit h) (fun _ => ?_)
    | with_reducible refine Keeps.bind h (Keeps.get h) (fun _ => ?_)
    | with_reducible refine Keeps.bind h (Keeps.apThread h) (fun _ => ?_)
    | with_reducible refine Keeps.bind h (Keeps.engine h) (fun _ => ?_)
    | split

/-- Reading the operands changes ports, marks and thread state only. -/
theorem Keeps.fetch (h : Local P) (sh : Shape) (lk : LitKind) : Keeps P (fetch sh lk) := by
  have hf := h.toFrames
  unfold Machine.fetch
  repeat' first
    | with_reducible exact Keeps.pure hf _
    | with_reducible refine Keeps.bind hf (Keeps.ops hf) (fun _ => ?_)
    | with_reducible refine Keeps.bind hf (Keeps.checkPorts hf _) (fun _ => ?_)
    | with_reducible refine Keeps.bind hf (Keeps.awaitRegs hf _) (fun _ => ?_)
    | with_reducible refine Keeps.bind hf (Keeps.awaitRows hf _) (fun _ => ?_)
    | with_reducible refine Keeps.bind hf (Keeps.popAll h _) (fun _ => ?_)
    | with_reducible refine Keeps.bind hf (Keeps.readField1 hf _ _ _ _) (fun _ => ?_)
    | with_reducible refine Keeps.bind hf (Keeps.dropMarks h _ _) (fun _ => ?_)
    | with_reducible refine Keeps.bind hf (Keeps.unit hf) (fun _ => ?_)
    | with_reducible refine Keeps.bind hf (Keeps.pure hf _) (fun _ => ?_)
    | split
    | dsimp only

theorem Keeps.readPred (h : Frames P) (f : Field) : Keeps P (readPred f) := by
  unfold Machine.readPred
  repeat' first
    | with_reducible exact Keeps.pure h _
    | with_reducible refine Keeps.bind h (Keeps.unit h) (fun _ => ?_)
    | with_reducible refine Keeps.bind h (Keeps.exThread h) (fun _ => ?_)
    | with_reducible refine Keeps.bind h (Keeps.apThread h) (fun _ => ?_)
    | split

theorem Keeps.writePred (h : Local P) (f : Field) (v : Nat → PBit) : Keeps P (writePred f v) := by
  have hf := h.toFrames
  unfold Machine.writePred
  repeat' first
    | with_reducible exact Keeps.pure hf _
    | with_reducible exact Keeps.modify (fun s => h.ex s _ _ _)
    | with_reducible exact Keeps.modify (fun s => h.ap s _ _ _)
    | with_reducible refine Keeps.bind hf (Keeps.unit hf) (fun _ => ?_)
    | with_reducible refine Keeps.bind hf (Keeps.lanes hf) (fun _ => ?_)
    | split

/-- Writing the destination changes the unit's registers or a port only. -/
theorem Keeps.writeF (h : Local P) (f : Field) (w : Nat) (v : Lanes) : Keeps P (writeF f w v) := by
  have hf := h.toFrames
  unfold Machine.writeF
  repeat' first
    | with_reducible exact Keeps.pure hf _
    | with_reducible exact Keeps.stopTrap _
    | with_reducible exact Keeps.pushE h _ _
    | with_reducible exact Keeps.modify (fun s => h.ex s _ _ _)
    | with_reducible exact Keeps.modify (fun s => h.ap s _ _ _)
    | with_reducible exact Keeps.modify (fun s => h.engine s _ _)
    | with_reducible refine Keeps.bind hf (Keeps.unit hf) (fun _ => ?_)
    | with_reducible refine Keeps.bind hf (Keeps.lanes hf) (fun _ => ?_)
    | with_reducible refine Keeps.bind hf (Keeps.get hf) (fun _ => ?_)
    | with_reducible refine Keeps.bind hf (Keeps.stopTrap _) (fun _ => ?_)
    | with_reducible refine Keeps.bind hf (Keeps.pure hf _) (fun _ => ?_)
    | with_reducible refine Keeps.bind hf (Keeps.writeRegs h _ _ _ _ _) (fun _ => ?_)
    | with_reducible refine Keeps.bind hf (Keeps.pushRows h _ _) (fun _ => ?_)
    | with_reducible refine Keeps.bind hf ?_ (fun _ => ?_)
    | split

theorem Keeps.writeD (h : Local P) (w : Nat) (v : Lanes) : Keeps P (writeD w v) :=
  Keeps.bind h.toFrames (Keeps.ops h.toFrames) (fun _ => Keeps.writeF h _ _ _)

theorem Keeps.raise (h : Local P) (ht : ∀ s a f, P s (s.modTeam a f)) (fl : FlagSet) : Keeps P (raise fl) := by
  have hf := h.toFrames
  unfold Machine.raise
  repeat' first
    | with_reducible exact Keeps.pure hf _
    | with_reducible exact Keeps.stopTrap _
    | with_reducible exact Keeps.modify (fun s => ht s _ _)
    | with_reducible refine Keeps.bind hf (Keeps.unit hf) (fun _ => ?_)
    | with_reducible refine Keeps.bind hf (Keeps.team hf) (fun _ => ?_)
    | with_reducible refine Keeps.bind hf (Keeps.get hf) (fun _ => ?_)
    | split
    | dsimp only

/-! ### The unit that runs -/

/-- The same unit runs with the same operands, and every unit that exists goes on existing. -/
def SameUnit (s t : State) : Prop := t.cur = s.cur ∧ t.ir = s.ir ∧ ∀ u, (t.ctl u).isSome = (s.ctl u).isSome

theorem sameUnit_local : Local SameUnit where
  refl s := ⟨rfl, rfl, fun _ => rfl⟩
  trans h1 h2 := ⟨h2.1.trans h1.1, h2.2.1.trans h1.2.1, fun u => (h2.2.2 u).trans (h1.2.2 u)⟩
  ex s a b f := ⟨rfl, rfl, fun u => by cases u <;> simp [State.ctl]; split <;> simp [*]⟩
  ap s a b f := ⟨rfl, rfl, fun u => by cases u <;> simp [State.ctl]; split <;> simp [*]⟩
  engine s a f := ⟨rfl, rfl, fun u => by cases u <;> simp [State.ctl]; split <;> simp [*]⟩
  ports s m := ⟨rfl, rfl, fun u => by cases u <;> rfl⟩
  strips s m n := ⟨rfl, rfl, fun u => by cases u <;> rfl⟩
  ctx s a f := ⟨rfl, rfl, fun u => by cases u <;> simp [State.ctl]⟩
  mgmt s m := ⟨rfl, rfl, fun u => by cases u <;> rfl⟩

theorem sameUnit_team (s : State) (a : Nat) (f : Team → Team) : SameUnit s (s.modTeam a f) :=
  ⟨rfl, rfl, fun u => by cases u <;> simp [State.ctl]⟩

theorem past_sameUnit (s : State) (u : Agent) : SameUnit s (s.past u) := by
  have h := sameUnit_local
  cases u with
  | qe n => exact h.trans (h.modCtl s (.qe n) _) (h.engine _ _ _)
  | _ => exact h.modCtl s _ _

theorem Executes.isSome {s : State} {u : Agent} {sh : Shape} (h : Executes s u sh) : (s.ctl u).isSome = true := by
  obtain ⟨_, h⟩ := h
  cases u with
  | ex tm tid => obtain ⟨x, g, hx, _⟩ := h; simp [State.ctl, hx]
  | ap tm sp => obtain ⟨x, hx, _⟩ := h; simp [State.ctl, hx]
  | qe n => obtain ⟨e, he⟩ := h; simp [State.ctl, he]

/-- An instruction that executes and whose body keeps the unit completes. -/
theorem insn_completes {i : Instr} {sh : Shape} {body : M Unit} {s t : State} {u : Agent} (h : Executes s u sh)
    (hb : body (s.past u) = .ok ((), t)) (hk : Keeps SameUnit body) :
    meaning (insn i sh body) s = .next (s.closed t u i sh) := by
  have h1 := past_sameUnit s u
  have h2 := hk _ _ _ hb
  refine insn_next h hb (by rw [h2.1, h1.1, h.1]) ?_
  rw [h2.2.2, h1.2.2]; exact h.isSome

end Sys2Proof.Machine
end

