-- ==== Sys2Proof/Laws/Memory.lean ====
section
/-! SUPPORT. The byte map: a read after a write, what a write leaves alone, and the canonical form, which every write keeps. -/

namespace Sys2Proof.Machine

theorem Memory.wf_iff (m : Memory) :
    Memory.wf m = true ↔ Assoc.wf m = true ∧ ∀ c ∈ m, c.2 ≠ Memory.unlisted := by
  simp [Memory.wf, List.all_eq_true]

theorem Assoc.mem_put {α : Type} {m : Assoc α} {k : Nat} {v : α} {p : Nat × α} (h : p ∈ m.put k v) : p = (k, v) ∨ p ∈ m := by
  induction m with
  | nil => simpa [Assoc.put] using h
  | cons q m ih =>
    obtain ⟨j, w⟩ := q
    unfold Assoc.put at h
    split at h
    · simp only [List.mem_cons] at h ⊢; tauto
    · split at h
      · simp only [List.mem_cons] at h ⊢; tauto
      · simp only [List.mem_cons] at h ⊢
        rcases h with h | h
        · tauto
        · rcases ih h with h | h <;> tauto

theorem Assoc.mem_del {α : Type} {m : Assoc α} {k : Nat} {p : Nat × α} (h : p ∈ m.del k) : p ∈ m := by
  induction m with
  | nil => simp [Assoc.del] at h
  | cons q m ih =>
    obtain ⟨j, w⟩ := q
    unfold Assoc.del at h
    split at h
    · exact List.mem_cons_of_mem _ h
    · split at h
      · exact h
      · simp only [List.mem_cons] at h ⊢
        rcases h with h | h
        · tauto
        · exact Or.inr (ih h)

theorem Memory.wf_write {m : Memory} (k : Nat) (b : Byte) (h : Memory.wf m = true) : Memory.wf (Memory.write m k b) = true := by
  rw [Memory.wf_iff] at h ⊢
  unfold Memory.write
  split
  · exact ⟨Assoc.wf_del k h.1, fun c hc => h.2 c (Assoc.mem_del hc)⟩
  · next hb =>
    refine ⟨Assoc.wf_put k b h.1, fun c hc => ?_⟩
    rcases Assoc.mem_put hc with rfl | hc
    · exact hb
    · exact h.2 c hc

theorem Memory.wf_writeN {m : Memory} (k v n : Nat) (h : Memory.wf m = true) : Memory.wf (Memory.writeN m k v n) = true := by
  induction n generalizing m k v with
  | zero => exact h
  | succ n ih => exact ih _ _ (Memory.wf_write k _ h)

theorem Memory.wf_nil : Memory.wf [] = true := rfl

/-- A byte read after a write: the byte written there, the old byte elsewhere. -/
theorem Memory.read_write {m : Memory} (k j : Nat) (b : Byte) (h : Memory.wf m = true) :
    Memory.read (Memory.write m k b) j = if j = k then b else Memory.read m j := by
  have hs := ((Memory.wf_iff m).1 h).1
  unfold Memory.write Memory.read Assoc.get
  split
  · next hb => subst hb; rw [Assoc.find_del k j hs]; split <;> simp
  · rw [Assoc.find_put]; split <;> simp

theorem Memory.read_writeN_of_lt {m : Memory} {k j v n : Nat} (h : Memory.wf m = true) (hj : j < k) :
    Memory.read (Memory.writeN m k v n) j = Memory.read m j := by
  induction n generalizing m k v with
  | zero => rfl
  | succ n ih =>
    unfold Memory.writeN
    rw [ih (Memory.wf_write k _ h) (by omega), Memory.read_write _ _ _ h, if_neg (by omega)]

/-- A write of n bytes leaves every byte outside them. -/
theorem Memory.read_writeN_of_out {m : Memory} {k j v n : Nat} (h : Memory.wf m = true) (hj : j < k ∨ k + n ≤ j) :
    Memory.read (Memory.writeN m k v n) j = Memory.read m j := by
  induction n generalizing m k v with
  | zero => rfl
  | succ n ih =>
    unfold Memory.writeN
    rw [ih (Memory.wf_write k _ h) (by omega), Memory.read_write _ _ _ h, if_neg (by omega)]

/-- Byte i of a write of n bytes is byte i of the value, little-endian (R3). -/
theorem Memory.read_writeN {m : Memory} {k v n i : Nat} (h : Memory.wf m = true) (hi : i < n) :
    Memory.read (Memory.writeN m k v n) (k + i) = BitVec.ofNat 8 (v / 256 ^ i) := by
  induction n generalizing m k v i with
  | zero => omega
  | succ n ih =>
    unfold Memory.writeN
    cases i with
    | zero =>
      rw [Nat.add_zero, Memory.read_writeN_of_lt (Memory.wf_write k _ h) (by omega), Memory.read_write _ _ _ h]
      simp
    | succ i =>
      have : k + (i + 1) = (k + 1) + i := by omega
      rw [this, ih (Memory.wf_write k _ h) (by omega), Nat.div_div_eq_div_mul, Nat.pow_succ, Nat.mul_comm]

/-- What was written is read back. -/
theorem Memory.readN_writeN {m : Memory} (k v n : Nat) (h : Memory.wf m = true) :
    Memory.readN (Memory.writeN m k v n) k n = v % 256 ^ n := by
  induction n generalizing m k v with
  | zero => simp [Memory.readN, Nat.mod_one]
  | succ n ih =>
    have h0 : Memory.read (Memory.writeN m k v (n + 1)) k = BitVec.ofNat 8 v := by
      have := Memory.read_writeN (k := k) (v := v) (i := 0) h (Nat.succ_pos n)
      simpa using this
    unfold Memory.readN
    rw [h0]
    unfold Memory.writeN
    rw [ih _ _ (Memory.wf_write k _ h)]
    simp only [BitVec.toNat_ofNat]
    have e : 256 ^ (n + 1) = 256 * 256 ^ n := by rw [Nat.pow_succ, Nat.mul_comm]
    rw [e, Nat.mod_mul]

/-- Two memories in canonical form that read alike are the same list. -/
theorem Memory.ext_read {m n : Memory} (hm : Memory.wf m = true) (hn : Memory.wf n = true)
    (h : ∀ k, Memory.read m k = Memory.read n k) : m = n := by
  have hm' := (Memory.wf_iff m).1 hm
  have hn' := (Memory.wf_iff n).1 hn
  have key : ∀ (m : Memory), (∀ c ∈ m, c.2 ≠ Memory.unlisted) → ∀ k b, Assoc.find m k = some b → b ≠ Memory.unlisted := by
    intro m hall k b hf
    induction m with
    | nil => simp [Assoc.find] at hf
    | cons q m ih =>
      obtain ⟨j, w⟩ := q
      unfold Assoc.find at hf
      split at hf
      · cases hf; exact hall (j, b) (by simp)
      · split at hf
        · cases hf
        · exact ih (fun c hc => hall c (by simp [hc])) hf
  refine Assoc.ext_find hm'.1 hn'.1 (fun k => ?_)
  have hk := h k
  unfold Memory.read Assoc.get at hk
  cases h1 : Assoc.find m k <;> cases h2 : Assoc.find n k <;> simp only [h1, h2, Option.getD] at hk
  · rfl
  · exact absurd hk.symm (key n hn'.2 k _ h2)
  · exact absurd hk (key m hm'.2 k _ h1)
  · rw [hk]

@[simp] theorem State.writeStore_memWf {s : State} (k n v : Nat) (p : Bool) (h : Memory.wf s.mem = true) :
    Memory.wf (s.writeStore k n v p).mem = true := Memory.wf_writeN k v n h

@[simp] theorem State.writeSector_memWf {s : State} (a key : Nat) (v : BitVec 256) (p : Bool) (h : Memory.wf s.mem = true) :
    Memory.wf (s.writeSector a key v p).mem = true := Memory.wf_writeN _ _ 32 h

end Sys2Proof.Machine
end

