-- ==== Sys2Proof/Tests/Slice0.lean ====
section
/-! SUPPORT. Tests of the model on small machines: words of the spec's own worked examples decode to what they stand for, ill-formed terms
are refused, single steps give what the rules say, and the hypotheses of each statement are met by some state (witness theorems). -/

namespace Sys2Proof.Tests

open Sys2Proof.Machine

set_option Elab.async false

/-! ### Decoding: the worked examples of the spec -/

/-- The decoder's answer on each side, without further rights; queue words are decoded in a ring packet. -/
def onExec (w0 w1 w2 : W32) : Except DecodeErr Insn := decodeWords ⟨.exec, false, false, false⟩ w0 w1 w2
def onAccess (w0 w1 w2 : W32) : Except DecodeErr Insn := decodeWords ⟨.access, false, false, false⟩ w0 w1 w2
def onQueue (sup : Bool) (w0 w1 w2 : W32) : Except DecodeErr Insn := decodeWords ⟨.queue, true, false, sup⟩ w0 w1 w2

/-- fadd.rz.d3 under (!f2) g4, g5!, g6 (02_encoding, after R28). -/
theorem test_decode_fadd : onExec 0x43050881 0x0130000A 0 =
    .ok ⟨.faddLong, ⟨.w64, 2, true, 3, .reg (.g 4) false, .reg (.g 5) true, .reg (.g 6) false, .none, 1, 0⟩⟩ := by decide

/-- iadd g4, g5, 0x1234_5678 (02_encoding, after R29). -/
theorem test_decode_iadd_literal : onExec 0x0005080A 7 0x12345678 =
    .ok ⟨.iaddLong, ⟨.w96, 7, false, 0, .reg (.g 4) false, .reg (.g 5) false, .lit 0x12345678, .none, 0, 0⟩⟩ := by decide

/-- bra three words back (02_encoding, R32). -/
theorem test_decode_bra : onExec 0x3FFFFAF0 0 0 =
    .ok ⟨.bra, ⟨.w32, 7, false, 0, .none, .none, .off 0x1FFFFD, .none, 0, 0⟩⟩ := by decide

/-- fmul q1, q0, k1 (02_encoding, the assembly example). -/
theorem test_decode_fmul_ports : onExec 0x30F0E288 0 0 =
    .ok ⟨.fmul, ⟨.w32, 7, false, 0, .reg (.q 1) false, .reg (.q 0) false, .reg (.k 1) false, .none, 0, 0⟩⟩ := by decide

/-- icmpf.lt.cor f2, g5, g6, f1 (04_alu_instructions, after R88). -/
theorem test_decode_icmpf : onExec 0x03050581 0x12005017 0 =
    .ok ⟨.icmpf, ⟨.w64, 7, false, 0, .pred 2, .reg (.g 5) false, .reg (.g 6) false, .pred 1, 0x12, 0⟩⟩ := by decide

/-- xred.fadd g8, g9, g10 (10_threads, after R314). -/
theorem test_decode_xred : onExec 0x00091189 0x0A0030A7 0 =
    .ok ⟨.xred, ⟨.w64, 7, false, 0, .reg (.g 8) false, .reg (.g 9) false, .none, .reg (.g 10) false, 0x0A, 0⟩⟩ := by decide

/-- call g62, 16 words on (10_threads, R307), and beos q0, 10 words on (07_streams, R214). -/
theorem test_decode_call : onExec 0x0000218D 0x000003E7 0 =
    .ok ⟨.call, ⟨.w64, 7, false, 0, .none, .none, .off 16, .reg (.g 62) false, 0, 0⟩⟩ := by decide
theorem test_decode_beos : onExec 0x0070018E 0x00001007 10 =
    .ok ⟨.beos, ⟨.w96, 7, false, 0, .none, .reg (.q 0) false, .lit 10, .none, 0, 0⟩⟩ := by decide

/-- lq q2, [h1 + a5] (07_streams, R216). -/
theorem test_decode_lq : onAccess 0x0280E595 0x01000007 0 =
    .ok ⟨.lq, ⟨.w64, 7, false, 0, .reg (.q 2) false, .none, .reg (.a 5) false, .none, 1, 0⟩⟩ := by decide

/-- qbind.back.elem.w32 q3, s4 (07_streams, R206). -/
theorem test_decode_qbind : onAccess 0x1200E799 0x22000007 0 =
    .ok ⟨.qbind, ⟨.w64, 7, false, 0, .reg (.q 3) false, .none, .reg (.s 4) false, .none, 0x22, 0⟩⟩ := by decide

/-- copy.ord.dv g6, [h2 + g9] (08_consistency, R241). -/
theorem test_decode_copy : onExec 0x04800D9D 0x020000C7 0 =
    .ok ⟨.copy, ⟨.w64, 7, false, 0, .reg (.g 6) false, .none, .reg (.g 9) false, .imm 0x0C, 2, 0⟩⟩ := by decide

/-- fence.rel.kr.nd.dv (08_consistency, R235), and semwk.dv g4, [h6 + 0x18], g8 (11_launch, R327). -/
theorem test_decode_fence : onExec 0x000201A1 0x04000117 0 =
    .ok ⟨.fence, ⟨.w64, 7, false, 0, .none, .imm 2, .none, .imm 0x11, 4, 0⟩⟩ := by decide
theorem test_decode_semwk : onExec 0x000809A2 0x06006047 0x18 =
    .ok ⟨.semwk, ⟨.w96, 7, false, 0, .reg (.g 4) false, .reg (.g 8) false, .lit 0x18, .imm 4, 6, 0⟩⟩ := by decide

/-- mma.e4m3.e4m3 q3, g10, g11 (05_matrix, R124). -/
theorem test_decode_mma : onExec 0x057301A5 0x440030B7 0 =
    .ok ⟨.mma, ⟨.w64, 7, false, 0, .none, .reg (.q 3) false, .reg (.g 10) false, .reg (.g 11) false, 0x44, 0⟩⟩ := by decide

/-- The tmv line of the plane-stress example (05_matrix, after R136). -/
theorem test_decode_tmv : onExec 0x0F0821A9 0x22000007 0 =
    .ok ⟨.tmv, ⟨.w64, 7, false, 0, .reg (.g 16) false, .reg (.g 8) false, .reg (.g 30) false, .none, 0x22, 0⟩⟩ := by decide

/-- rlq q2, [h9 + a5] and rfence.rel.one s3 (09_fabric_ladle, R261, R265). -/
theorem test_decode_rlq : onAccess 0x0280E5AD 0x09000007 0 =
    .ok ⟨.rlq, ⟨.w64, 7, false, 0, .reg (.q 2) false, .none, .reg (.a 5) false, .none, 9, 0⟩⟩ := by decide
theorem test_decode_rfence : onAccess 0x118201AD 0x01003007 0 =
    .ok ⟨.rfence, ⟨.w64, 7, false, 0, .none, .imm 2, .reg (.s 3) false, .none, 1, 0⟩⟩ := by decide

/-- The packet of R325's example: semw w4, w5 and launch w1, [h2 + w3]. -/
theorem test_decode_semw : onQueue false 0x028401B1 0x00002007 0 =
    .ok ⟨.semw, ⟨.w64, 7, false, 0, .none, .reg (.w 4) false, .reg (.w 5) false, .none, 0, 0⟩⟩ := by decide
theorem test_decode_launch : onQueue false 0x018003B1 0x02000007 0 =
    .ok ⟨.launch, ⟨.w64, 7, false, 0, .reg (.w 1) false, .none, .reg (.w 3) false, .none, 2, 0⟩⟩ := by decide

/-- movs g6, sr.clock (10_threads, R303); wrsys w1, w2 of the recovery program, and without supervisor rights (R374). -/
theorem test_decode_movs : onExec 0x00000DB5 0x08000007 0 =
    .ok ⟨.movsRead, ⟨.w64, 7, false, 0, .reg (.g 6) false, .none, .none, .none, 8, 0⟩⟩ := by decide
theorem test_decode_wrsys : onQueue true 0x010101B5 0x00002007 0 =
    .ok ⟨.wrsys, ⟨.w64, 7, false, 0, .none, .reg (.w 1) false, .reg (.w 2) false, .none, 0, 0⟩⟩ ∧
    onQueue false 0x010101B5 0x00002007 0 = .error .priv := by decide

/-! ### Well-formedness refuses ill-formed terms: one for each of its checks -/

def cxExec : DecodeCtx := ⟨.exec, false, false, false⟩

/-- A source may carry its mark, in the 32-bit form too. -/
theorem test_wf_accepts :
    Insn.wellFormed ⟨.iadd, ⟨.w32, 7, false, 0, .reg (.g 3) false, .reg (.g 1) false, .reg (.g 2) true, .none, 0, 0⟩⟩ cxExec = true := by
  decide
/-- An event has no row. -/
theorem test_wf_no_row : Insn.wellFormed ⟨.kick, noOps⟩ cxExec = false := by decide
/-- A compact word of the other length, and a predicate in the 32-bit form. -/
theorem test_wf_form :
    Insn.wellFormed ⟨.iadd, ⟨.w64, 7, false, 0, .reg (.g 3) false, .reg (.g 1) false, .reg (.g 2) false, .none, 0, 0⟩⟩ cxExec = false ∧
    Insn.wellFormed ⟨.iadd, ⟨.w32, 1, false, 0, .reg (.g 3) false, .reg (.g 1) false, .reg (.g 2) false, .none, 0, 0⟩⟩ cxExec = false := by
  decide
/-- A mark on a destination, a register of another side, a pair that begins at an odd name. -/
theorem test_wf_fields :
    Insn.wellFormed ⟨.iadd, ⟨.w32, 7, false, 0, .reg (.g 3) true, .reg (.g 1) false, .reg (.g 2) false, .none, 0, 0⟩⟩ cxExec = false ∧
    Insn.wellFormed ⟨.iadd, ⟨.w32, 7, false, 0, .reg (.a 3) false, .reg (.g 1) false, .reg (.g 2) false, .none, 0, 0⟩⟩ cxExec = false ∧
    Insn.wellFormed ⟨.iadd64, ⟨.w64, 7, false, 0, .reg (.g 3) false, .reg (.g 2) false, .reg (.g 4) false, .none, 0, 0⟩⟩ cxExec = false := by
  decide
/-- An operation code in an instruction that is no atomic. -/
theorem test_wf_code :
    Insn.wellFormed ⟨.imad, ⟨.w64, 7, false, 0, .reg (.g 3) false, .reg (.g 1) false, .reg (.g 2) false, .reg (.g 4) false, 0, 1⟩⟩ cxExec =
      false := by decide
/-- A queue instruction on the execute side. -/
theorem test_wf_side : Insn.wellFormed ⟨.semw, ⟨.w64, 7, false, 0, .none, .reg (.w 4) false, .reg (.w 5) false, .none, 0, 0⟩⟩ cxExec =
    false := by decide

/-! ### Witnesses: how they are found -/

/-- Whether Executes holds, by evaluation. -/
def executes (s : State) (u : Agent) (sh : Shape) : Bool :=
  decide (s.cur = some u) && match u with
    | .ex tm tid => (match s.exs.find (exKey tm tid), s.teams.find tm with
      | some x, some t => decide (exGuard x s.ir = ⟨true, false⟩) && !(LRec.check (s.recordOf t) && hazHit x.hazards s.ir sh)
      | _, _ => false)
    | .ap tm sp => (match s.aps.find (stripKey tm sp) with
      | some x => !(apGuard x s.ir).poison && decide ((apGuard x s.ir).bits ≠ 0)
      | none => false)
    | .qe n => (s.engines.find n).isSome

theorem executes_holds {s : State} {u : Agent} {sh : Shape} (h : executes s u sh = true) : Executes s u sh := by
  unfold executes at h
  rw [Bool.and_eq_true, decide_eq_true_eq] at h
  refine ⟨h.1, ?_⟩
  cases u with
  | ex tm tid =>
    revert h
    dsimp only
    cases s.exs.find (exKey tm tid) <;> cases s.teams.find tm <;> simp
    intro _ h1 h2
    exact ⟨h1, fun hc => h2.resolve_left (by simp [hc])⟩
  | ap tm sp =>
    revert h
    dsimp only
    cases s.aps.find (stripKey tm sp) <;> simp
  | qe n => exact Option.isSome_iff_exists.mp h.2

/-- A condition met on the way. -/
def need (b : Bool) : M Unit := fun s => if b then .ok ((), s) else .error (.trap (tinfo 0 0))

theorem ends_bind {α β : Type} {x : M α} {f : α → M β} {s : State} (h : ((x >>= f) s).isOk = true) :
    ∃ a t, x s = .ok (a, t) ∧ (f a t).isOk = true := by
  rw [M.bind_run] at h
  cases hx : x s with
  | error e => rw [hx] at h; cases h
  | ok p => rw [hx] at h; exact ⟨p.1, p.2, rfl, h⟩

theorem ends_unit {x : M Unit} {s : State} (h : (x s).isOk = true) : ∃ t, x s = .ok ((), t) := by
  cases hx : x s with
  | error e => rw [hx] at h; cases h
  | ok p => exact ⟨p.2, rfl⟩

theorem ends_need {β : Type} {b : Bool} {f : Unit → M β} {s : State} (h : ((need b >>= f) s).isOk = true) :
    b = true ∧ (f () s).isOk = true := by
  cases b with
  | true => exact ⟨rfl, h⟩
  | false => cases h

/-- The loaded machine with unit u at the instruction whose operands are o. -/
def base : State := State.reset.boot 0 0 0

def on (u : Agent) (o : Ops) (prep : State → State) : State := { prep base with cur := some u, ir := o, agenda := [] }

def thread : Agent := .ex 0 0
def accessUnit : Agent := .ap 0 0
def engine : Agent := .qe 0

def g (n : Fin 96) : Field := .reg (.g n) false

/-- Hypotheses of a row that reads its sources and writes one destination. -/
theorem reads_writes {s : State} {u : Agent} {sh : Shape} {lk : LitKind} {f : Opnds → Lanes} {w : Nat}
    (he : executes s u sh = true) (h : ((fetch sh lk >>= fun v => writeF s.ir.d w (f v)) (s.past u)).isOk = true) :
    ∃ v t t', Executes s u sh ∧ Delivers s u sh lk v t ∧ Writes t s.ir.d w (f v) t' := by
  obtain ⟨v, t, h1, h2⟩ := ends_bind h
  obtain ⟨t', h3⟩ := ends_unit h2
  exact ⟨v, t, t', executes_holds he, h1, h3⟩

def iaddAt : State := on thread ⟨.w32, 7, false, 0, g 3, g 1, g 2, .none, 0, 0⟩ id

theorem witness_IntegerRowsComplete : ∃ v t t', Executes iaddAt thread two1 ∧ Delivers iaddAt thread two1 .int v t ∧
    Writes t iaddAt.ir.d 1 (result v fun l => iaddW 32 (v.a l).bits.toNat (v.b l).bits.toNat) t' :=
  reads_writes (by decide +kernel) (by decide +kernel)

/-! ### Witnesses: operands and arithmetic -/

/-- A compact register instruction d := f(a, b) and its relatives with a third operand. -/
def rrr (x8 : BitVec 8) (d a b c : Field) : Ops := ⟨.w64, 7, false, 0, d, a, b, c, x8, 0⟩

def goes (o : Host.Outcome State Fault Refusal) : Bool :=
  match o with
  | .next _ => true
  | _ => false

theorem goes_next {o : Host.Outcome State Fault Refusal} (h : goes o = true) : ∃ t, o = .next t := by
  cases o <;> first | exact ⟨_, rfl⟩ | cases h

theorem witness_StepRunsDecodedInstruction :
    let s : State := State.reset.withFetchWord 32 0x03050808
    ({ s with agenda := [] } : State).mayIssue thread = true ∧ s.agenda = [.issue thread] ∧ s.atMeeting thread = false ∧
      (∃ w0 i t, fetchInsn { s with agenda := [], cur := some thread } = .ok ((w0, .ok i), t)) := by
  refine ⟨by decide +kernel, by decide +kernel, by decide +kernel, ?_⟩
  have h : (match fetchInsn { State.reset.withFetchWord 32 0x03050808 with agenda := [], cur := some thread } with
    | .ok ((_, .ok _), _) => true
    | _ => false) = true := by decide +kernel
  split at h
  · next w i t e => exact ⟨w, i, t, e⟩
  · cases h

/-- The instruction cache holds the words from the pc on. -/
theorem witness_StepRunsDecodedInstruction_cached :
    let s : State := { base with cur := some thread }.modCore 0 (fun k =>
      { k with icache := (k.icache.put (icKey .exec 1 0x1000) 0x03050808) })
    s.cur = some thread ∧ (s.ctl thread).isSome = true ∧ s.coreOf thread = some 0 ∧ word0Check 0x03050808 = .ok 1 ∧
      (translate (s.context 1) 0x1000 .ex).isOk = true ∧ (s.core 0).icache.find (icKey .exec 1 0x1000) = some 0x03050808 := by
  decide +kernel

theorem witness_OperandSources :
    let s := on thread (rrr 0 (g 3) (g 1) (g 2) .none) id
    let x := on accessUnit (rrr 0 (.reg (.a 3) false) (.reg (.a 1) false) (.reg (.s 2) false) .none) id
    let q := on engine (rrr 0 (.reg (.w 3) false) (.reg (.w 1) false) (.reg (.w 2) false) .none) id
    (s.exs.find (exKey 0 0)).isSome = true ∧ noPort s.ir.a = true ∧ noPort s.ir.b = true ∧ noPort s.ir.d = true ∧
      (∀ n ∈ gNames s.ir.a 1 ++ gNames s.ir.b 1, (s.strip 0 0).inFlight n 0 = false) ∧
      (x.aps.find (stripKey 0 0)).elim false (fun y => decide (y.spend = 0)) = true ∧
      (q.engines.find 0).elim false (fun e => decide (e.wpend = 0)) = true := by decide +kernel

theorem empty_sound (k : Nat) : Strip.sound {} k := ⟨by decide, by simp, by simp [Assoc.find]⟩

theorem witness_DestinationWrites :
    let s := on thread (rrr 0 (g 3) (g 1) (g 2) .none) id
    s.strip 0 0 = {} ∧ s.canAlloc 0 0 bootTeam [3] := by
  unfold State.canAlloc
  decide +kernel

theorem witness_IntegerResults : (32 = 32 ∨ 32 = 64) ∧ (3#32) ≠ 0 := by decide

/-- Each comparison and each combination has a code. -/
theorem witness_IntegerResults_codes : (∀ k < 6, (0x20 + k) % 8 = k) ∧ (∀ k < 3, 16 * k / 16 % 4 = k) := by decide

def fmulAt (prep : State → State) : State := on thread (rrr 0 (g 3) (g 1) (g 2) .none) prep

/-- A clean product, and 0 / 0 in a team that traps NV. -/
theorem witness_FloatingRowsComplete : ∃ v t t', Executes (fmulAt id) thread two1 ∧ Delivers (fmulAt id) thread two1 .int v t ∧
    Writes t (fmulAt id).ir.d 1 (fun _ => Val.of (BitVec.ofNat 64 (binary32.mul 0 (v.a 0).bits.toNat (v.b 0).bits.toNat).bits)) t' :=
  reads_writes (by decide +kernel) (by decide +kernel)

def trapsNV (s : State) : State :=
  { s with grids := s.grids.put 0 { bootGrid with record := bootRecord ||| (0x3F#1024 <<< 229) } }

theorem witness_FloatingRowsComplete_traps :
    Executes (fmulAt trapsNV) thread two1 ∧ (binary32.div 0 0 0).flags &&& (fmulAt trapsNV).enabled thread ≠ 0 :=
  ⟨executes_holds (by decide +kernel), by decide +kernel⟩

theorem witness_PredicateRowsComplete :
    let s := on thread ⟨.w64, 7, false, 0, .pred 2, g 5, g 6, .pred 1, 0x12, 0⟩ id
    ∃ v t c r, Executes s thread two1 ∧ Delivers s thread two1 .int v t ∧ readPred s.ir.c t = .ok (c, r) := by
  obtain ⟨v, t, h1, h2⟩ := ends_bind (x := fetch two1 .int) (f := fun _ => readPred (.pred 1))
    (s := (on thread ⟨.w64, 7, false, 0, .pred 2, g 5, g 6, .pred 1, 0x12, 0⟩ id).past thread) (by decide +kernel)
  cases hc : readPred (.pred 1) t with
  | error e => rw [hc] at h2; cases h2
  | ok p => exact ⟨v, t, p.1, p.2, executes_holds (by decide +kernel), h1, hc⟩

/-- (f1) is false, and a poisoned f1. -/
theorem witness_GuardFalse :
    let s := on thread ⟨.w64, 1, false, 0, g 3, g 1, g 2, .none, 0, 0⟩ id
    let y := on thread ⟨.w64, 1, false, 0, g 3, g 1, g 2, .none, 0, 0⟩ (fun s => s.modEx 0 0 (fun x => { x with fp := 2 }))
    (s.exs.find (exKey 0 0)).elim false (fun x => decide (exGuard x s.ir = ⟨false, false⟩)) = true ∧
      (y.exs.find (exKey 0 0)).elim false (fun x => (exGuard x y.ir).poison) = true ∧
      LRec.check (s.recordOf bootTeam) = false ∧ srcPorts s.ir two1 = [] := by decide +kernel

theorem witness_TrapEntryReturnAndStallCheck : (base.ctl thread).isSome = true ∧ (base.engines.find 0).isSome = true ∧ unitOk thread := by
  unfold unitOk thread
  decide +kernel

theorem witness_BranchesComplete :
    let s := on thread ⟨.w64, 7, false, 0, .none, .none, .off 4, g 62, 0, 0⟩ id
    Executes s thread noShape ∧ s.pcAt thread % 4 = 0 ∧ ∃ t, Writes (s.past thread) s.ir.c 1 (fun _ => Val.of 8) t :=
  ⟨executes_holds (by decide +kernel), by decide +kernel, ends_unit (by decide +kernel)⟩

theorem witness_ThreadControlComplete :
    let s := on thread ⟨.w32, 7, false, 0, .none, .none, .none, .none, 0, 0⟩ id
    Executes s thread noShape ∧ (s.ctl thread).elim false (fun c => decide (c.sbuf = [] ∧ c.deferred = []) && c.unack.all (· == 0)) = true :=
  ⟨executes_holds (by decide +kernel), by decide +kernel⟩

theorem witness_RegisterRowsFrame :
    iaddAt.cur = some (.ex 0 0) ∧ (iaddAt.strip 0 0).sound iaddAt.fresh ∧ ∃ t, exec .iaddLong iaddAt = .next t := by
  refine ⟨by decide +kernel, ?_, goes_next (by decide +kernel)⟩
  rw [show iaddAt.strip 0 0 = {} by decide +kernel]
  exact empty_sound _

/-- A pair row with a marked pair source. -/
theorem witness_RegisterRowsFrame_pair :
    let s := on thread ⟨.w64, 7, false, 0, g 4, .reg (.g 8) true, g 10, .none, 0, 0⟩ id
    gNames s.ir.d pairs2.d = [4, 5] ∧ marksIn s.ir pairs2 = [8, 9] ∧ ∃ t, exec .iadd64 s = .next t :=
  ⟨by decide, by decide, goes_next (by decide +kernel)⟩

/-! ### Witnesses: memory, joint instructions, ports -/

/-- h1: a plain 32-bit window over the first GiB of space 0. -/
def gridWith (hs : List Handle) (s : State) : State := { s with grids := s.grids.put 0 { bootGrid with handles := bootHandle :: hs } }
def globalHandle : Handle := BitVec.ofNat 256 (place (2 ^ 30) 64 + place 2 140)

theorem reads_accesses {s : State} {u : Agent} {sh : Shape} {lk : LitKind} {w : Want} {ls : List Nat} {vec data at' : Bool}
    (he : executes s u sh = true)
    (h : ((fetch sh lk >>= fun v => accesses w v ls vec data at') (s.past u)).isOk = true) :
    ∃ v t rs t1, Executes s u sh ∧ Delivers s u sh lk v t ∧ accesses w v ls vec data at' t = .ok (rs, t1) := by
  obtain ⟨v, t, h1, h2⟩ := ends_bind h
  cases hc : accesses w v ls vec data at' t with
  | error e => rw [hc] at h2; cases h2
  | ok p => exact ⟨v, t, p.1, p.2, executes_holds he, h1, hc⟩

theorem reads_one {s : State} {u : Agent} {sh : Shape} {lk : LitKind} {w : Want} {data : Bool} (he : executes s u sh = true)
    (h : ((fetch sh lk >>= fun v => oneAccess w v data) (s.past u)).isOk = true) :
    ∃ v t a t1, Executes s u sh ∧ Delivers s u sh lk v t ∧ oneAccess w v data t = .ok (a, t1) := by
  obtain ⟨v, t, h1, h2⟩ := ends_bind h
  cases hc : oneAccess w v data t with
  | error e => rw [hc] at h2; cases h2
  | ok p => exact ⟨v, t, p.1, p.2, executes_holds he, h1, hc⟩

/-- d := [hx + b], or [hx + b] := a. -/
def memOps (hx : BitVec 8) (d a b c : Field) (sel : BitVec 4) : Ops := ⟨.w64, 7, false, 0, d, a, b, c, hx, sel⟩

def wordWant (n : Nat) (need : Need) (spaces : List Nat) : Want :=
  { hidx := n, spaces, kinds := kPlain, size := 4, align := 4, need }

theorem witness_AccessChecks :
    let s := on thread (memOps 0 (g 3) .none (g 1) .none 0) id
    let h := s.handleOf thread 0
    checkHandle .exec (wordWant 0 .rd [1]) h true false = .ok () ∧ Hnd.space h = 1 ∧ 0 % (wordWant 0 .rd [1]).align = 0 ∧
      0 + 4 ≤ Hnd.limit h := by decide +kernel

theorem witness_ExecuteLoadsComplete :
    let s := on thread (memOps 0 (g 3) .none (g 1) .none 0) id
    ∃ v t rs t1, Executes s thread { d := 1, a := 0, b := 1, c := 0 } ∧ Delivers s thread { d := 1, a := 0, b := 1, c := 0 } .offset v t ∧
      accesses (wordWant 0 .rd [1]) v [0] false false false t = .ok (rs, t1) :=
  reads_accesses (by decide +kernel) (by decide +kernel)

/-- A vector load through a global handle. -/
theorem witness_AccessLoadsComplete :
    let s := on accessUnit (memOps 1 (.reg (.a 3) false) .none (.reg (.a 1) false) .none 0) (gridWith [globalHandle])
    ∃ v t rs t1, Executes s accessUnit { d := 1, a := 0, b := 1, c := 0 } ∧
      Delivers s accessUnit { d := 1, a := 0, b := 1, c := 0 } .offset v t ∧
      accesses (wordWant 1 .rd [0, 1, 2, 4]) v (List.range 16) true false false t = .ok (rs, t1) :=
  reads_accesses (by decide +kernel) (by decide +kernel)

theorem witness_StoresEnterBuffer :
    let s := on thread (memOps 0 .none (g 2) (g 1) .none 0) id
    ∃ v t rs t1, Executes s thread { d := 0, a := 1, b := 1, c := 0 } ∧ Delivers s thread { d := 0, a := 1, b := 1, c := 0 } .offset v t ∧
      accesses (wordWant 0 .wr [1]) v [0] false true false t = .ok (rs, t1) :=
  reads_accesses (by decide +kernel) (by decide +kernel)

theorem witness_ExecuteAtomicCompletes :
    let s := on thread (memOps 0 (g 3) (g 2) (g 1) .none 0) id
    (∃ v t rs t1, Executes s thread { d := 1, a := 1, b := 1, c := 1 } ∧ Delivers s thread { d := 1, a := 1, b := 1, c := 1 } .offset v t ∧
      accesses { wordWant 0 .both [1, 2] with kinds := kFlat, widths := [2, 3] } v [0] false true true t = .ok (rs, t1)) ∧
      checkPairs (s.handleOf thread 0) [s.ir.d, s.ir.a] (s.past thread) = .ok ((), s.past thread) :=
  ⟨reads_accesses (by decide +kernel) (by decide +kernel), by decide +kernel⟩

/-- A store of a buffer that may leave. -/
def scratchStore (s : State) : Req :=
  s.reqOf thread ⟨0, bootHandle, 1, 0, 64, 4, (Loc.spad 0 64).key, false, false, none⟩ (.store 5 false) 0x1000 255 .none

def buffered (s : State) : State := s.modCtl thread (fun c => { c with sbuf := [(0, scratchStore s)] })

theorem witness_DrainedStoreWritesItsBytes :
    let s := buffered base
    s.memWf = true ∧ s.running 1 = true ∧ oldest (s.bufferOf (.unit thread)) 0 = some (0, scratchStore base) ∧
      s.ownStore (scratchStore base) = true ∧ s.inOrder 0 (scratchStore base) = true ∧ (s.drain thread 0).isSome = true := by
  decide +kernel

theorem witness_WaitsFencesAndSemaphoresComplete :
    let s := on thread (memOps 0 (g 3) (g 2) (g 1) .none 0) id
    (∃ v t rs t1, Executes s thread { d := 1, a := 1, c := 0 } ∧ Delivers s thread { d := 1, a := 1, c := 0 } .offset v t ∧
      accesses { wordWant 0 .rd [0, 1, 4] with kinds := [0, 1], widths := [2, 3] } v [0] false false false t = .ok (rs, t1)) ∧
      waitCmp 0 32 0 0 = true :=
  ⟨reads_accesses (by decide +kernel) (by decide +kernel), by decide +kernel⟩

def part (tid : Nat) : Part := { tid, a := Val.of 5, b := Val.zero, c := Val.zero, pa := ⟨true, false⟩, pb := ⟨false, false⟩ }

theorem witness_JointInstructionsComplete :
    let s := on thread (rrr 0 (g 3) (g 1) .none (g 2)) id
    Executes s thread (jointShape .xred s.ir) ∧ checkPorts (jointShape .xred s.ir) (s.past thread) = .ok ((), s.past thread) ∧
      [part 0, part 1].Pairwise (fun p q => p.tid < q.tid) ∧ ∀ p ∈ [part 0, part 1], p.tainted = false :=
  ⟨executes_holds (by decide +kernel), by decide +kernel, by decide, by decide⟩

/-- A table of two slots, both empty, at the window's start: the first key claims a slot. -/
def tabled (s : State) : State :=
  ((s.writeStore (Loc.spad 0 0).key 16 (2 + 2 * 2 ^ 32) false).writeStore (Loc.spad 0 16).key 8 0xFFFFFFFF false).writeStore
    (Loc.spad 0 24).key 8 0xFFFFFFFF false

theorem witness_HashTablesComplete :
    let s := on thread (rrr 0 (g 3) (g 1) (g 2) (g 4)) tabled
    (∃ v t b r, Executes s thread {} ∧ Delivers s thread {} .int v t ∧ hashTable v true t = .ok (b, r)) ∧
      let b := s.tableAt 0 0 196608 0
      b.bad = false ∧ b.poison = false ∧ (s.probe b 0 b.lim 0).elim false (fun x => !x.2.1) = true := by
  refine ⟨?_, by decide +kernel⟩
  obtain ⟨v, t, h1, h2⟩ := ends_bind (x := fetch {} .int) (f := fun v => hashTable v true)
    (s := (on thread (rrr 0 (g 3) (g 1) (g 2) (g 4)) tabled).past thread) (by decide +kernel)
  cases hc : hashTable v true t with
  | error e => rw [hc] at h2; cases h2
  | ok p => exact ⟨v, t, p.1, p.2, executes_holds (by decide +kernel), h1, hc⟩

def port (kind : PortKind) (rows : List (List Slot)) : Port :=
  { kind, mode := .elem, width := 2, depth := 4, adv := false, eostrap := false, sx := false, gen := false, head := 0, rows,
    pos := List.replicate 16 0, apop := 0, reserve := rows.length, fin := none, engine := none }

def bound (n : Nat) (p : Port) (s : State) : State := { s with ports := s.ports.put (portKey (stripKey 0 0) n) p }

def fullRow : List Slot := List.replicate 16 (.data 7 false)
def loading : Shape := { d := 0, a := 0, c := 0 }
def port2 : Field := .reg (.q 2) false

theorem reads_spots {s : State} {u : Agent} {sh : Shape} {lk : LitKind} {w : Want} {ls : List Nat} {vec data at' : Bool}
    (he : executes s u sh = true) (h : ((fetch sh lk >>= fun v => spots w v ls vec data at') (s.past u)).isOk = true) :
    ∃ v t ps t1, Executes s u sh ∧ Delivers s u sh lk v t ∧ spots w v ls vec data at' t = .ok (ps, t1) := by
  obtain ⟨v, t, h1, h2⟩ := ends_bind h
  cases hc : spots w v ls vec data at' t with
  | error e => rw [hc] at h2; cases h2
  | ok p => exact ⟨v, t, p.1, p.2, executes_holds he, h1, hc⟩

theorem witness_QueueLoadsComplete :
    let s := on accessUnit (memOps 1 port2 .none (.reg (.a 1) false) .none 0) (fun s => bound 2 (port .acc []) (gridWith [globalHandle] s))
    (∃ v t ps t1, Executes s accessUnit loading ∧ Delivers s accessUnit loading .offset v t ∧
      spots (lqWant 1 4) v (List.range 16) true false false t = .ok (ps, t1)) ∧
      checkPorts loading (s.past accessUnit) = .ok ((), s.past accessUnit) :=
  ⟨reads_spots (by decide +kernel) (by decide +kernel), by decide +kernel⟩

theorem witness_QueueStoresComplete :
    let s := on accessUnit (memOps 1 .none port2 (.reg (.a 1) false) .none 0)
      (fun s => bound 2 (port .store [fullRow]) (gridWith [globalHandle] s))
    (∃ v t ps t1, Executes s accessUnit loading ∧ Delivers s accessUnit loading .offset v t ∧
      spots { lqWant 1 4 with kinds := kTile, need := .wr, offAlign := 1 } { v with a := rowData (port .store [fullRow]) } (List.range 16) true true false t =
        .ok (ps, t1)) ∧ s.rowReady 0 0 (port .store [fullRow]) 0 = true ∧ (port .store [fullRow]).past 0 = false := by
  refine ⟨?_, by decide +kernel⟩
  obtain ⟨v, t, h1, h2⟩ := ends_bind (x := fetch loading .offset) (f := fun v =>
      spots { lqWant 1 4 with kinds := kTile, need := .wr, offAlign := 1 } { v with a := rowData (port .store [fullRow]) } (List.range 16) true true false)
    (s := (on accessUnit (memOps 1 .none port2 (.reg (.a 1) false) .none 0)
      (fun s => bound 2 (port .store [fullRow]) (gridWith [globalHandle] s))).past accessUnit) (by decide +kernel)
  cases hc : spots { lqWant 1 4 with kinds := kTile, need := .wr, offAlign := 1 } { v with a := rowData (port .store [fullRow]) } (List.range 16)
      true true false t with
  | error e => rw [hc] at h2; cases h2
  | ok p => exact ⟨v, t, p.1, p.2, executes_holds (by decide +kernel), h1, hc⟩

/-- LDSC through a plain global handle. -/
theorem witness_TagAndAtomicQueuesComplete :
    let s := on accessUnit (memOps 1 (.reg (.a 3) false) .none (.reg (.a 1) false) .none 0) (gridWith [globalHandle])
    ∃ v t rs t1, Executes s accessUnit { a := 0, c := 0 } ∧ Delivers s accessUnit { a := 0, c := 0 } .offset v t ∧
      accesses (tagWant 1 .rd) v (List.range 16) true false false t = .ok (rs, t1) :=
  reads_accesses (by decide +kernel) (by decide +kernel)

/-- A binding of four entries that the boot team's reserve allows, and its end at an unbind. -/
theorem witness_StripOperationsComplete :
    let s := on accessUnit (memOps 0x22 port2 .none (.reg (.s 4) false) .none 0) id
    (∃ v t, Executes s accessUnit loading ∧ Delivers s accessUnit loading .int v t) ∧ (bindingOf 0x22 4).ok = true ∧
      s.ports.find (portKey (stripKey 0 0) 2) = none ∧ 4 * (bindingOf 0x22 4).port.perRow ≤ bootTeam.qmem.getD 0 0 ∧
      LRec.access (s.recordOf bootTeam) = true ∧ (s.bind 0 0 2 (bindingOf 0x22 4) true).isOk = true := by
  refine ⟨?_, by decide +kernel⟩
  cases h : fetch loading .int ((on accessUnit (memOps 0x22 port2 .none (.reg (.s 4) false) .none 0) id).past accessUnit) with
  | error e =>
    have : (fetch loading .int ((on accessUnit (memOps 0x22 port2 .none (.reg (.s 4) false) .none 0) id).past accessUnit)).isOk = true := by
      decide +kernel
    rw [h] at this; cases this
  | ok p => exact ⟨p.1, p.2, executes_holds (by decide +kernel), h⟩

theorem witness_PortStatusComplete :
    let s := on thread (memOps 0 (g 3) port2 .none .none 0) (bound 2 (port .acc [fullRow]))
    let sh : Shape := { a := 0, b := 0, c := 0 }
    Executes s thread sh ∧ (port .acc [fullRow]).consumer .exec = true ∧
      checkPorts { d := 1, a := 0, b := 0, c := 0 } (s.past thread) = .ok ((), s.past thread) ∧
      ∃ t, Writes (s.past thread) s.ir.d 1 (fun _ => Val.of 0) t :=
  ⟨executes_holds (by decide +kernel), by decide +kernel, by decide +kernel, ends_unit (by decide +kernel)⟩

/-! ### Witnesses: fences, asynchronous operations, the matrix engine -/

theorem witness_WaitsFencesAndSemaphoresComplete_fence :
    let s := on thread (memOps 4 .none (.imm 1) .none (.imm 0x11) 0) id
    Executes s thread noShape ∧ (s.past thread).fenced thread 0x11 1 = true ∧ ∃ t, acquire 4 (s.past thread) = .ok ((), t) :=
  ⟨executes_holds (by decide +kernel), by decide +kernel, ends_unit (by decide +kernel)⟩

theorem witness_BarriersComplete :
    let s := on thread (memOps 0 .none (g 1) (g 2) .none 0) id
    ∃ v t r, Executes s thread { d := 0, c := 0 } ∧ Delivers s thread { d := 0, c := 0 } .int v t ∧ release t = .ok ((), r) := by
  obtain ⟨v, t, h1, h2⟩ := ends_bind (x := fetch { d := 0, c := 0 } .int) (f := fun _ => release)
    (s := (on thread (memOps 0 .none (g 1) (g 2) .none 0) id).past thread) (by decide +kernel)
  obtain ⟨r, h3⟩ := ends_unit h2
  exact ⟨v, t, r, executes_holds (by decide +kernel), h1, h3⟩

theorem witness_ArrivalWordsComplete :
    let s := on thread (memOps 0 (g 3) (g 2) (g 1) .none 0) id
    (∃ v t a t1, Executes s thread shDAB ∧ Delivers s thread shDAB .offset v t ∧ oneAccess (arrWant 0 .both) v true t = .ok (a, t1)) ∧
      0 ≤ (BitVec.ofNat 32 (0 / 2 ^ 64) - 0#32).toInt :=
  ⟨reads_one (by decide +kernel) (by decide +kernel), by decide⟩

/-- A copy whose record the window's first 128 bytes are. -/
theorem witness_CopiesAndWorkRequestsComplete :
    let s := on thread (memOps 0 (g 3) .none (g 1) (.imm 4) 0) id
    (∃ v t a t1, Executes s thread shDB ∧ Delivers s thread shDB .offset v t ∧
      oneAccess { hidx := 0, spaces := [1], kinds := kFlat, size := 128, align := 128, need := .rd, offAlign := 128 } v false t =
        .ok (a, t1)) ∧ (s.copiesOf thread).length < 64 ∧ performed [] 0 = false :=
  ⟨reads_one (by decide +kernel) (by decide +kernel), by decide +kernel⟩

theorem witness_PublishComplete :
    let s := on thread (memOps 1 (g 3) .none .none (.imm 4) 0) (gridWith [globalHandle])
    (∃ v t r, Executes s thread shDOnly ∧ Delivers s thread shDOnly .offset v t ∧ landD t = .ok r) ∧
      Hnd.space (s.handleOf thread 1) ≠ 7 := by
  refine ⟨?_, by decide +kernel⟩
  obtain ⟨v, t, h1, h2⟩ := ends_bind (x := fetch shDOnly .offset) (f := fun _ => landD)
    (s := (on thread (memOps 1 (g 3) .none .none (.imm 4) 0) (gridWith [globalHandle])).past thread) (by decide +kernel)
  cases hc : landD t with
  | error e => rw [hc] at h2; cases h2
  | ok p => exact ⟨v, t, p, executes_holds (by decide +kernel), h1, hc⟩

theorem witness_MessagesComplete :
    let s := on thread (memOps 0 (g 3) (g 1) (g 2) (g 4) 0) id
    ∃ v t a t1, Executes s thread {} ∧ Delivers s thread {} .offset v t ∧
      oneAccess { hidx := 0, spaces := [1], kinds := [0], size := 16, align := 16, need := .rd } v false t = .ok (a, t1) :=
  reads_one (by decide +kernel) (by decide +kernel)

theorem witness_NetworkReductionsComplete :
    let s := on thread (memOps 0 (g 3) (g 1) (g 2) (.imm 0x20) 0) id
    ∃ v t a t1, Executes s thread shDAB ∧ Delivers s thread shDAB .offset v t ∧
      oneAccess { hidx := 0, spaces := [1], kinds := [0], widths := [2, 3], size := 4, align := 4, need := .both } v false t = .ok (a, t1) :=
  reads_one (by decide +kernel) (by decide +kernel)

/-- The boot team owns its core's engine. -/
def owning (s : State) : State := s.modCore 0 (fun k => { k with owner := some 0 })

theorem witness_MatrixInstructionsComplete :
    let s := on thread (memOps 0 .none (g 1) (g 2) .none 0) owning
    Executes s thread noShape ∧ s.owns 0 0 bootTeam 0 ∧ bootTeam.latchBusy = false ∧ (s.core 0).queue = [] ∧
      s.canQueue 0 0 = true ∧ (xferOf .mldw 0).isSome = true := by
  unfold State.owns
  exact ⟨executes_holds (by decide +kernel), by decide +kernel, by decide +kernel, by decide +kernel, by decide +kernel, by decide +kernel⟩

/-- The engine is free and the boot team waits for it. -/
theorem witness_MatrixEventsComplete :
    let s : State := { base.modCore 0 (fun k => { k with waiting := [0] }) with occ := .num 0 }
    (s.core 0).waiting = [0] ∧ s.teams.find 0 = some bootTeam ∧ s.running bootTeam.ctx = true ∧ (s.core 0).owner = none ∧
      bootTeam.regrant.has 0 = false ∧ s.memWf = true := by decide +kernel

theorem witness_BroadcastStoreComplete :
    let s := on thread (memOps 0 (g 3) (g 1) (g 2) .none 0) id
    (∃ v t t', Executes s thread { c := 0 } ∧ Delivers s thread { c := 0 } .int v t ∧ Writes t s.ir.d 1 (fun _ => Val.zero) t') ∧
      (s.core 0).bcsOwner = none :=
  ⟨reads_writes (f := fun _ _ => Val.zero) (by decide +kernel) (by decide +kernel), by decide +kernel⟩

/-- RLDW through a handle in space 5. -/
def peerHandle : Handle := BitVec.ofNat 256 (place (2 ^ 30) 64 + place 5 128 + place 2 140)

def peerRange (s : State) : State :=
  s.modCtx 1 (fun c => { c with ranges := [BitVec.ofNat 192 (0x2F + place 512 85)] ++ List.replicate 15 0 })

theorem witness_RemoteInstructionsComplete :
    let s := on accessUnit (memOps 1 (.reg (.a 3) false) .none (.reg (.a 1) false) .none 0) (fun s => peerRange (gridWith [peerHandle] s))
    let sh : Shape := { d := 1, a := 0, b := 1, c := 0 }
    ∃ v t rs t1, Executes s accessUnit sh ∧ Delivers s accessUnit sh .offset v t ∧
      accesses (remoteWant 1 4 kRead [0, 1, 2, 3] .rd) v (List.range 16) true false false t = .ok (rs, t1) :=
  reads_accesses (by decide +kernel) (by decide +kernel)

/-! ### Witnesses: the Ladle, queue engines, system registers -/

theorem witness_LadleInstructionsComplete :
    let s := on thread (memOps 1 (g 3) (g 1) (.lit 0) (g 4) 0) (gridWith [globalHandle])
    (∃ v t a t1, Executes s thread {} ∧ Delivers s thread {} .offset v t ∧
      oneAccess { hidx := 1, spaces := [0], kinds := kPlain, size := 64, align := 64, need := .rd, offAlign := 64 } v false t =
        .ok (a, t1)) ∧ s.queuedPlan thread = none ∧ Prog.malformed 0 = true :=
  ⟨reads_one (by decide +kernel) (by decide +kernel), by decide +kernel⟩

/-- A chunk of a plan that no engine of this device runs. -/
theorem witness_LadleEventsComplete :
    let s : State := { base with occ := .chunk 3 7 9 0 [] [], mgmt := { base.mgmt with fidSet := true } }
    s.plans.filter (fun q => q.2.tag == 7 && s.planRuns q.2) = [] ∧ s.mgmt.fidSet = true ∧ goes (exec .ladleChunkArrival s) = true := by
  decide +kernel

theorem witness_LaunchesComplete :
    let s := on engine (memOps 0 (.reg (.w 1) false) .none (.reg (.w 3) false) .none 0) id
    let sh : Shape := { a := 0, c := 0 }
    (∃ v t x t1, Executes s engine sh ∧ Delivers s engine sh .int v t ∧ launchRead 0 128 (v.b 0) t = .ok (x, t1)) ∧
      s.openGrids 0 < 64 ∧ release (s.past engine) = .ok ((), s.past engine) ∧
      (s.engines.find 0).elim false (fun e => decide (e.launch = none)) = true := by
  refine ⟨?_, by decide +kernel⟩
  obtain ⟨v, t, h1, h2⟩ := ends_bind (x := fetch { a := 0, c := 0 } .int) (f := fun v => launchRead 0 128 (v.b 0))
    (s := (on engine (memOps 0 (.reg (.w 1) false) .none (.reg (.w 3) false) .none 0) id).past engine) (by decide +kernel)
  cases hc : launchRead 0 128 (v.b 0) t with
  | error e => rw [hc] at h2; cases h2
  | ok p => exact ⟨v, t, p.1, p.2, executes_holds (by decide +kernel), h1, hc⟩

/-- A queue instruction without effects on what it reads. -/
theorem engine_reads {o : Ops} {sh : Shape} (he : executes (on engine o id) engine sh = true)
    (h : ((fetch sh .int >>= fun _ => release) ((on engine o id).past engine)).isOk = true) :
    ∃ v t r, Executes (on engine o id) engine sh ∧ Delivers (on engine o id) engine sh .int v t ∧ release t = .ok ((), r) := by
  obtain ⟨v, t, h1, h2⟩ := ends_bind h
  obtain ⟨r, h3⟩ := ends_unit h2
  exact ⟨v, t, r, executes_holds he, h1, h3⟩

theorem witness_QueueProgramsComplete : ∃ v t r,
    Executes (on engine (memOps 0 .none (.reg (.w 4) false) (.reg (.w 5) false) .none 0) id) engine qAB ∧
      Delivers (on engine (memOps 0 .none (.reg (.w 4) false) (.reg (.w 5) false) .none 0) id) engine qAB .int v t ∧
      release t = .ok ((), r) := engine_reads (by decide +kernel) (by decide +kernel)

/-- An enabled engine in ring mode with an empty ring; an engine that a host enables. -/
theorem witness_EngineEventsComplete :
    let s : State := { base.modEngine 0 (fun e => { e with prog := false }) with occ := .num 0 }
    let w : State := { State.reset with occ := .write 3 0x20 }
    (s.engines.find 0).elim false (fun e => e.en && decide (e.state = 1) && !e.prog && !e.inPkt && decide (e.kick = e.rptr)) = true ∧
      s.running 1 = true ∧ (w.engineRec 3).en = false ∧ (0x20#64).getLsbD 5 = true := by decide +kernel

theorem witness_SystemInstructionsComplete :
    (∃ v t r, Executes (on engine (memOps 0 (.reg (.w 3) false) (.reg (.w 1) false) .none .none 0) id) engine { b := 0, c := 0 } ∧
      Delivers (on engine (memOps 0 (.reg (.w 3) false) (.reg (.w 1) false) .none .none 0) id) engine { b := 0, c := 0 } .int v t ∧
      release t = .ok ((), r)) ∧ (base.partOfEngine 0).isSome = true ∧
      -- word 5 of context 1's control words, written too; no selector names group 9
      selBad 0x05010004 true = false ∧ base.selCtxOk bootPart 0x05010004 true = true ∧ selBad 9 false = true ∧
      -- a staged word of a range register, and its commit
      Sel.stages 0x01010001 = true ∧ Sel.stages 0x00010001 = false :=
  ⟨engine_reads (by decide +kernel) (by decide +kernel), by decide +kernel⟩

theorem witness_ResumeComplete :
    (∃ v t r, Executes (on engine (memOps 0 (.reg (.w 3) false) (.reg (.w 1) false) .none .none 0) id) engine { b := 0, c := 0 } ∧
      Delivers (on engine (memOps 0 (.reg (.w 3) false) (.reg (.w 1) false) .none .none 0) id) engine { b := 0, c := 0 } .int v t ∧
      release t = .ok ((), r)) ∧ base.running 1 = true ∧ base.stoppedUnder 1 0 = none ∧
      -- a thread stopped by TRAP is found under its ticket
      (let s := base.takeTrap thread (tinfo 5 7) 1
       match (s.context 1).traps with
       | r :: _ => (s.stoppedUnder 1 r.ticket).elim false (fun x => decide (x.1 = thread))
       | [] => false) = true :=
  ⟨engine_reads (by decide +kernel) (by decide +kernel), by decide +kernel, by decide +kernel, by decide +kernel⟩

/-- A context's oldest trap record with a ring that has room; a domain that is busy. -/
theorem witness_SystemEventsComplete :
    let s := (base.takeTrap thread (tinfo 5 7) 1).modCtx 1 (fun c => { c with trlog := 4, trbase := 8 })
    let c := s.context 1
    c.traps.length = 1 ∧ c.trlog ≠ 0 ∧ (c.trtail - c.trhead).toNat ≠ 2 ^ c.trlog ∧
      (match c.traps with
        | r :: _ => (s.structWrite 1 (c.trbase * 128 + 128 * (c.trtail.toNat % 2 ^ c.trlog)) r.bits 128).isOk
        | [] => false) = true := by decide +kernel

/-! ### Witnesses: requests, the fabric, placement, clocks -/

/-- A load of a global word on its way, as LDS leaves it. -/
def farLoad (phase : Phase) : Req :=
  { base.reqOf accessUnit ⟨1, globalHandle, 0, 0, 64, 4, 64, false, false, none⟩ .load 0x1000 255 (.apS 0 0 3) with phase }

theorem witness_RequestEventsComplete :
    let s : State := { base with reqs := [(0, farLoad .walking)], occ := .num 0 }
    let d : State := { base with reqs := [(0, farLoad (.done 5 false))], occ := .num 0 }
    (s.partOf 1).isSome = true ∧ (farLoad .walking).space = 0 ∧
      (match s.partOf 1 with
        | some (pi, p) => (match s.serve pi p (s.walk p 64) { farLoad .walking with attr := some 0 } with
          | .ok _ _ _ => true
          | _ => false)
        | none => false) = true ∧ s.inOrder 0 (farLoad .walking) = true ∧
      (farLoad (.done 5 false)).open = false ∧ d.lands (farLoad (.done 5 false)) = true ∧ (farLoad (.done 5 false)).returns = true := by
  decide +kernel

theorem witness_FabricEventsComplete :
    let p : Packet := { src := 3, rid := 0, hop := 0, dst := 0, ia := 64, size := 4, kind := .load, ptag := none, thread := 0 }
    let s : State := { base with occ := .packet p, mgmt := { base.mgmt with fidSet := true } }
    -- an export of the first 2 MiB to device 3, whose faults go to context 1
    let x := BitVec.ofNat 128 (place 1 31 + place 3 32 + place 1 45 + place 1 64)
    let e : State := { s with parts := [(0, { bootPart with exports := x :: List.replicate 63 0 })] }
    s.mgmt.fidSet = true ∧ s.admitAll p = none ∧ (e.admitAll p).isSome = true ∧ base.mgmt.fidSet = false := by decide +kernel

/-- A grid of one cohort that waits for its placement, and firmware's first choice for it. -/
def waitingGrid (s : State) : State :=
  { s with grids := s.grids.put 1 { bootGrid with admitted := 0 }, mgmt := { s.mgmt with cores := [256, 0, 0, 0] } }

theorem witness_PlacementComplete :
    let s := waitingGrid base
    s.proposalOf 1 = none ∧ (s.context 1).cstate = 1 ∧
      (match s.grids.find 1 with
        | some x => (s.firmwareChoice 1 x).elim false (fun l => s.mayPropose 1 x false l)
        | none => false) = true := by decide +kernel

theorem witness_ClockEventsComplete :
    let s : State := { base.modCtl thread (fun c => { c with status := .sleeping 0 }) with occ := .unit thread }
    (s.ctl thread).elim false (fun c => decide (c.status = .sleeping 0)) = true ∧ s.running (s.ctxOf thread) = true ∧ 0 ≤ s.now ∧
      goes (exec .sleepExpiry s) = true := by decide +kernel

theorem witness_PreemptionComplete :
    let s : State := { base with occ := .num 1 }
    s.running 1 = true ∧ (∀ p ∈ s.plans, p.2.ctx ≠ 1) ∧ s.finishChunks 1 = s ∧ (s.preempt 1 false).localLeft 1 = false ∧
      ((s.preempt 1 false).context 1).cstate = 2 := by decide +kernel

theorem witness_LinkEventsComplete :
    let s : State := { State.reset with links := [(2, { up := true })], occ := .flit 2 0 4 0 .remoteReply (.num 0) }
    (s.link 2).up = true ∧ (s.link 2).behind = [] ∧ 0 = (s.link 2).expect ∧ (s.link 2).held = 0 ∧ Cargo.ok ⟨0, .remoteReply, .num 0⟩ = true ∧ goes (exec .flitReceive s) = true := by
  decide +kernel

theorem witness_HostWritesComplete :
    let s : State := { State.reset with occ := .reg 0 16 8 2400 }
    s.mgmt.recov = false ∧ 16 % 8 = 0 ∧
      (match exec .registerWrite s with
        | .next t => t.mgmt.plimit == 2300
        | _ => false) = true := by decide +kernel

theorem witness_MailboxComplete :
    let s : State := { State.reset with mgmt := { State.reset.mgmt with on := true, stage := 6, mcode := 1, mcmd := 3, marg := [0, 5] } }
    s.asked 3 = true ∧ s.canLeave 5 = true ∧ (s.mgmt.marg.getD 1 0).toNat = 5 ∧ s.parts.find 5 = none := by decide +kernel

theorem witness_ManagementEventsComplete :
    let s : State := { State.reset with mgmt := { State.reset.mgmt with on := true, stage := 2 }, occ := .num 1 }
    State.reset.mgmt.on = false ∧ s.mgmt.on = true ∧ s.mgmt.stage = 2 ∧ 1 % 2 ^ Config.hbmStacks Config.kind ≠ 0 ∧
      (match exec .hbmTrainingDone s with
        | .next t => t.mgmt.stage == 3
        | _ => false) = true := by decide +kernel

theorem witness_StepKeepsMemory : base.memWf = true ∧ ∃ t, core.step base = .next t :=
  ⟨by decide +kernel, goes_next (by decide +kernel)⟩

/-! ### Witnesses: every clause of the statements of several -/

/-- Whether a unit executes its instruction, its sources are delivered, and what follows them goes through. -/
def can (s : State) (u : Agent) (sh : Shape) (lk : LitKind) (f : Opnds → M Unit) : Bool :=
  executes s u sh && ((fetch sh lk >>= f) (s.past u)).isOk

theorem can_holds {s : State} {u : Agent} {sh : Shape} {lk : LitKind} {f : Opnds → M Unit} (h : can s u sh lk f = true) :
    ∃ v t, Executes s u sh ∧ Delivers s u sh lk v t ∧ (f v t).isOk = true := by
  unfold can at h
  rw [Bool.and_eq_true] at h
  obtain ⟨v, t, h1, h2⟩ := ends_bind h.2
  exact ⟨v, t, executes_holds h.1, h1, h2⟩

/-- A condition on the state met on the way. -/
def needs (p : State → Bool) : M Unit := fun s => need (p s) s

/-- Every condition of a list holds: one for each clause of a statement, in its order. -/
def each (l : List Bool) : Bool := l.all id

/-- A write to the destination that goes through. -/
def writes (w : Nat) (v : Val) : M Unit := do writeF (← get).ir.d w (fun _ => v)

def setEx (f : ExThread → ExThread) (s : State) : State := s.modEx 0 0 f
def rr (x8 : BitVec 8) (d a b c : Field) (prep : State → State := id) : State := on thread (rrr x8 d a b c) prep

/-- A register of the thread with a value, poisoned or not. -/
def gIs (n : Nat) (x : W32) (p : Bool) (s : State) : State :=
  match writeRegs 0 0 [(n, x)] p false s with
  | .ok (_, t) => t
  | .error _ => s

/-- A unit that is not there; an engine whose packet has one word left. -/
theorem witness_StepRunsDecodedInstruction_clauses : each [
    !({ base with agenda := [.issue (.qe 31)] } : State).mayIssue (.qe 31),
    (base.modEngine 0 (fun e => { e with prog := false, inPkt := true, left := 1 })).engines.find 0 |>.elim false (fun e => decide (1 ≤ e.left))] =
    true := by decide +kernel

/-- A single register, the last pair, and the other sides' files. -/
theorem witness_DestinationWrites_clauses :
    let s := on thread (rrr 0 (g 94) (g 1) (g 2) .none) id
    s.canAlloc 0 0 bootTeam [94, 95] ∧ (94 : Fin 96).val < 95 ∧ each [
      (base.aps.find (stripKey 0 0)).elim false (fun x => decide (x.a.length = 32)),
      (base.aps.find (stripKey 0 0)).elim false (fun x => decide (x.s.length = 16)),
      (base.engines.find 0).elim false (fun e => decide (e.w.length = 16))] = true := by
  unfold State.canAlloc
  decide +kernel

/-- A shift by 31, and a divisor of one. -/
theorem witness_IntegerRowsComplete_clauses : each [
    can (rr 0 (g 3) (g 1) (.imm 31) .none) thread one1 .int (fun _ => writes 1 Val.zero), decide (31 < 32)] = true := by decide +kernel

theorem witness_PredicateRowsComplete_clauses :
    let movp := rr 0 (g 3) .none .none .none
    let put := on thread (rrr 0 .none (g 1) (g 2) .none) (gIs 2 5 false)
    let p := fun n : Fin 8 => Field.pred n
    each [
      can (rr 0x12 (.pred 2) (g 1) (g 2) (.pred 1)) thread two1 .int (fun _ => do
        discard (readPred (.pred 1)); writePred (.pred 2) (fun _ => ⟨true, false⟩)),
      can (rr 0 (g 3) (g 1) (g 2) (.pred 1)) thread two1 .int (fun _ => do discard (readPred (.pred 1)); writes 1 Val.zero),
      can (rr 0 (g 3) .none (g 2) .none) thread { d := 1, a := 0, b := 1, c := 0 } .int (fun _ => writes 1 Val.zero),
      can (rr 1 (g 2) .none (g 4) .none) thread { d := 2, a := 0, b := 2, c := 0 } .int (fun _ => writes 2 Val.zero),
      executes movp thread getShape && (awaitRegs [(g 3, 1)] (movp.past thread)).isOk && (checkPorts getShape (movp.past thread)).isOk,
      can put thread two1 .int (fun _ => pure ()) && executes put thread (putShape put) && (putShape put).predW == [0, 2],
      can (on accessUnit (rrr 0 (.pred 7) (.reg (.a 1) false) (.reg (.a 2) false) .none) id) accessUnit two1 .int (fun _ => pure ()),
      can (rr 0xFF (p 6) (p 0) (p 1) (p 2)) thread { a := 0, b := 0, c := 0 } .int (fun _ => do
        discard (readPred (.pred 0)); discard (readPred (.pred 1)); discard (readPred (.pred 2))
        writePred (.pred 6) (fun _ => ⟨true, false⟩))] = true := by decide +kernel

/-- A conversion, the two comparisons, FCHK, and 0 / 0 in a team that traps NV. -/
theorem witness_FloatingRowsComplete_clauses :
    let q := rr 0x12 (.pred 2) (g 2) (g 4) (.pred 1)
    each [
      can (rr 0x90 (g 3) (g 1) .none .none) thread (cvtShape 0x90) .int (fun _ => writes 1 Val.zero),
      can q thread { a := 1, b := 1, c := 0 } .int (fun _ => do
        discard (readPred (.pred 1)); writePred (.pred 2) (fun _ => ⟨false, false⟩)),
      can q thread { a := 2, b := 2, c := 0 } .binary64 (fun _ => do
        discard (readPred (.pred 1)); writePred (.pred 2) (fun _ => ⟨false, false⟩)),
      can (rr 0x0F (.pred 2) (g 2) .none .none) thread { a := if fmt64 15 then 2 else 1, b := 0, c := 0 } .int (fun _ =>
        writePred (.pred 2) (fun _ => ⟨false, false⟩)),
      can (rr 0 (g 3) (g 1) (g 2) .none trapsNV) thread two1 .int (fun v => needs (fun t =>
        !v.bad 0 && (binary32.div 0 (v.a 0).bits.toNat (v.b 0).bits.toNat).flags &&& t.enabled thread != 0))] = true := by decide +kernel

/-- A branch with operands of the given values; its operand clean, poisoned, or no multiple of 4. -/
theorem witness_BranchesComplete_clauses :
    let brx : Shape := { d := 0, a := 1, b := 1, c := 0 }
    let ret : Shape := { d := 0, a := 1, b := 0, c := 0 }
    let at' := fun sh x p => can (rr 0 .none (g 1) (g 2) .none (gIs 1 x p)) thread sh .int (fun v => needs (fun t =>
      (v.a 0).poison == p && (p || decide ((t.baseOf thread + (v.a 0).bits.toNat % 2 ^ 32) % 4 = x.toNat % 4))))
    let call := on thread ⟨.w64, 7, false, 0, .none, .none, .off 4, g 62, 0, 0⟩ id
    let beos := on thread ⟨.w96, 7, false, 0, .none, port2, .off 4, .none, 0, 0⟩ id
    each [
      executes (on thread ⟨.w64, 7, false, 0, .none, .none, .off 4, .none, 0, 0⟩ id) thread noShape,
      at' brx 0xFFFFFFFC false, at' brx 0 true, at' brx 3 false,
      at' ret 0xFFFFFFFC false, at' ret 0 true, at' ret 3 false,
      executes call thread linkShape && (awaitLink (call.past thread)).isOk,
      executes beos thread noShape && (portOf beos.ir.a).isSome] = true := by decide +kernel

/-- SLEEP of 0 and of 2^20 - 1 clocks, MEETR with an offset, without one and with a misaligned one, TRAP with a poisoned operand. -/
theorem witness_ThreadControlComplete_clauses :
    let b1 : Shape := { d := 0, a := 0, c := 0 }
    let ab : Shape := { d := 0, b := 2, c := 0 }
    each [
      can (rr 0 .none .none (g 2) .none) thread b1 .int (fun _ => pure ()),
      can (rr 0 .none .none (g 2) .none (gIs 2 0xFFFFF false)) thread b1 .int (fun v => need (decide ((v.b 0).bits.toNat % 2 ^ 20 = 2 ^ 20 - 1))),
      can (rr 0 .none (g 1) (g 2) .none (gIs 1 0xFFFFFFFC false)) thread ab .int (fun v =>
        need (!(v.a 0).poison && !(v.b 0).poison && (v.a 0).w32 != 0xFFFFFFFF && decide ((v.a 0).w32.toNat % 4 = 0))),
      can (rr 0 .none (g 1) (g 2) .none (gIs 1 0xFFFFFFFF false)) thread ab .int (fun v => need ((v.a 0).w32 == 0xFFFFFFFF)),
      can (rr 0 .none (g 1) (g 2) .none (gIs 1 0xFFFFFFFE false)) thread ab .int (fun v =>
        need (!(v.a 0).poison && !(v.b 0).poison && decide ((v.a 0).w32.toNat % 4 ≠ 0))),
      (base.teams.find 0).isSome,
      can (rr 7 .none (g 1) .none .none (gIs 1 0 true)) thread { d := 0, b := 0, c := 0 } .int (fun v => need (v.a 0).poison)] =
    true := by decide +kernel

/-- One range register over the first 2 MiB, read only. -/
def oneRange (flags : Nat) (s : State) : State :=
  s.modCtx 1 (fun c => { c with ranges := BitVec.ofNat 192 (flags + place 1 85) :: List.replicate 15 0 })

/-- The checks of an access, each failing alone: at the last offset within a limit, the next one, the last of a range register. -/
theorem witness_AccessChecks_clauses :
    let h := fun (space kind : Nat) => (BitVec.ofNat 256 (place 256 64 + place space 128 + place kind 131 + place 2 140) : Handle)
    let s := fun hd prep => on thread (memOps 1 (g 3) (g 2) (.lit 0) .none 0) (fun s => prep (gridWith [hd] s))
    let chk := fun hd sps => checkHandle .exec (wordWant 1 .wr sps) ((s hd id).handleOf thread 1) false false
    let tr := fun (va : Nat) (flags : Nat) (nd : Need) => translate ((oneRange flags base).context 1) va nd
    each [
      -- space 7; a register offset into a global space; a space the instruction does not reach
      decide (Hnd.space (h 7 0) = 7), globalSpace (Hnd.space (h 0 0)) && isReg (g 1), !([1].contains (Hnd.space (h 2 0))),
      -- aligned at the limit's last word; not aligned; one word further
      (chk (h 1 0) [1]).isOk && decide (252 % 4 = 0 ∧ 252 + 4 ≤ Hnd.limit (h 1 0)), decide (253 % 4 ≠ 0),
      decide (Hnd.limit (h 1 0) < 256 + 4),
      -- the first word of the semaphore window
      (chk (BitVec.ofNat 256 (semBase + place 256 64 + place 2 140)) [0]).isOk && decide (semBase < 2 ^ 64 ∧ semBase < semBase + 4),
      -- the range register's last byte, the first outside, and no permission
      (tr (2 ^ 21 - 1) 0xF .wr).isOk, !(tr (2 ^ 21) 0xF .wr).isOk, !(tr 0 0xC .wr).isOk && (tr 0 0xC .rd).isOk] = true := by decide +kernel

/-- A team of the boot team's cohort on core 1. -/
def neighbour (s : State) : State := { s with teams := s.teams.put 1 { bootTeam with core := 1, team := 1, tix := 1 } }
def peerWindow : Handle := BitVec.ofNat 256 (place 196608 64 + place 2 128 + place 1 131 + place 2 140)

/-- LDS from the neighbour's window: the request is for another core's store, and onto a port it is performed at once. -/
theorem witness_ExecuteLoadsComplete_clauses :
    let own := on thread (memOps 0 (g 3) .none (g 1) .none 0) id
    let far := on thread (memOps 1 (g 3) .none (g 1) (g 4) 0) (fun s => gIs 4 1 false (neighbour (gridWith [peerWindow] s)))
    let port := on thread (memOps 1 port2 .none (g 1) (g 4) 0) (fun s =>
      bound 2 (port .back []) (gIs 4 1 false (neighbour (gridWith [peerWindow] s))))
    let w := fun n spaces => { wordWant n .rd spaces with kinds := kRead }
    each [
      can own thread { d := 1, a := 0, b := 1, c := 1 } .offset (fun v => do
        let rs ← accesses (w 0 [1, 2, 3]) v [0] false false true
        needs (fun t => rs.all (fun y => let r := t.reqOf thread y.2 .load 0x1000 255 .none
          t.ownStore r && t.inOrder t.fresh r))
        writes 1 Val.zero),
      can far thread { d := 1, a := 0, b := 1, c := 1 } .offset (fun v => do
        let rs ← accesses (w 1 [1, 2, 3]) v [0] false false true
        needs (fun t => rs.all (fun y => !t.ownStore (t.reqOf thread y.2 .load 0x1000 255 .none)))
        discard (writeRegs 0 0 [(3, 0)] false true)),
      can port thread { d := 1, a := 0, b := 1, c := 1 } .offset (fun v => do
        let rs ← accesses (w 1 [1, 2, 3]) v [0] false false true
        needs (fun t => rs.all (fun y => let r := t.reqOf thread y.2 .load 0x1000 255 .none
          !t.ownStore r && t.inOrder t.fresh r && (portOf t.ir.d).isSome))
        writes 1 Val.zero)] = true := by decide +kernel

/-- LDS of an access thread at the last word of its window, through space 0, and with every lane answered. -/
def answered (s : State) : State :=
  s.modAp 0 0 (fun x => { x with blk := some ⟨⟨.lds, noOps⟩, (List.range 16).map (fun l => (l, some (.ok Val.zero)))⟩ })

def vecOps (hx : BitVec 8) (c : Field := .none) : Ops := memOps hx (.reg (.a 3) false) (.reg (.a 2) false) (.reg (.a 1) false) c 0

theorem witness_AccessLoadsComplete_clauses :
    let sh : Shape := { d := 1, a := 0, b := 1, c := 1 }
    let far := fun prep => on accessUnit (vecOps 1) (fun s => prep (gridWith [globalHandle] s))
    each [
      can (on accessUnit (vecOps 0) id) accessUnit sh .offset (fun v => do
        let rs ← accesses { wordWant 0 .rd [0, 1, 2, 4] with kinds := kRead } v (List.range 16) true false true
        let xs ← rs.mapM (fun r => do pure (r.1, ← doOwn ((← get).reqOf accessUnit r.2 .load 0x1000 r.1 .none)))
        needs (fun _ => xs.length == 16); writes 1 Val.zero),
      can (far id) accessUnit sh .offset (fun v => do
        discard (accesses { wordWant 1 .rd [0, 1, 2, 4] with kinds := kRead } v (List.range 16) true false true)
        needs (fun t => (t.aps.find (stripKey 0 0)).elim false (fun x => decide (x.blk = none)))),
      can (far answered) accessUnit sh .offset (fun _ => writes 1 Val.zero)] = true := by decide +kernel

/-- STS on the access side to space 0, and REDS. -/
theorem witness_StoresEnterBuffer_clauses :
    let sh : Shape := { d := 0, a := 1, b := 1, c := 1 }
    each [
      can (on accessUnit (vecOps 1) (gridWith [globalHandle])) accessUnit sh .offset (fun v => do
        discard (accesses { wordWant 1 .wr [0, 1, 2, 4] with kinds := kTile } v (List.range 16) true true true)),
      can (on accessUnit (vecOps 1) (gridWith [globalHandle])) accessUnit sh .offset (fun v => do
        discard (accesses { wordWant 1 .both [0, 1, 2] with kinds := kFlat, widths := [2, 3] } v (List.range 16) true true true)),
      can (on thread (memOps 0 .none (g 2) (g 1) .none 0) id) thread sh .offset (fun v => do
        checkPairs ((← get).handleOf thread 0) [g 2]
        discard (accesses { wordWant 0 .wr [1, 2, 3] with kinds := kTile } v [0] false true true))] = true := by decide +kernel

/-- ATOMS .cas: the comparand is the destination's old value, and the word is clean. -/
theorem witness_ExecuteAtomicCompletes_clauses :
    let s := on thread (memOps 0 (g 3) (g 2) (g 1) .none 9) id
    let sh : Shape := { d := 1, a := 1, b := 1, c := 1 }
    can s thread sh .offset (fun v => do
      let rs ← accesses { wordWant 0 .both [1, 2] with kinds := kFlat, widths := [2, 3] } v [0] false true true
      needs (fun t => rs.all (fun y =>
        let r := t.reqOf thread y.2 (.atomic 9 32 0 0 true) 0x1000 255 .none
        let e := t.drainAll thread 0 (t.bufferOf (.unit thread)).length
        t.ownStore r && e.inOrder e.fresh r && !(e.readStore y.2.addr 4).2))
      writes 1 Val.zero) = true ∧ (readDest 1 (s.past thread)).isOk = true ∧ (32 = 32 ∨ 32 = 64) := by decide +kernel

/-- A word of a peer core's store; finite, zero, infinite and NaN operands of the float operations. -/
theorem witness_ExecuteAtomicCompletes_peer :
    let far := on thread (memOps 1 (g 3) (g 2) (g 1) (g 4) 0) (fun s => gIs 4 1 false (neighbour (gridWith [peerWindow] s)))
    let v := binary32.decode
    each [
      can far thread { d := 1, a := 1, b := 1, c := 1 } .offset (fun v => do
        let rs ← accesses { wordWant 1 .both [1, 2] with kinds := kFlat, widths := [2, 3] } v [0] false true true
        needs (fun t => rs.all (fun y => !t.ownStore (t.reqOf thread y.2 (.atomic 0 32 0 0 true) 0x1000 255 .none)) && t.replyRoom thread 1)
        discard (writeRegs 0 0 [(3, 0)] false true)),
      (v 0x3F800000).finite, decide ((v 0x3F800000).value + (v 0xBF800000).value = 0), (v 0xFF800000).isInf, (v 0x7F800001).isNan] =
      true := by decide +kernel

/-- A push that waits in the buffer for its row of a bound store-stream. -/
def pushReq : Req :=
  { scratchStore base with kind := .store 5 false, landing := .port (portKey (stripKey 0 0) 2) 0 0, cls := 4 }

theorem witness_DrainedStoreWritesItsBytes_clauses :
    let s := bound 2 (port .store [List.replicate 16 .pending]) (base.modCtl thread (fun c => { c with sbuf := [(0, pushReq)] }))
    each [pushReq.pushed == some (portKey (stripKey 0 0) 2, 0, 0, 5), decide (oldest (s.bufferOf (.unit thread)) 0 = some (0, pushReq)),
      (s.drain thread 0).isSome, base.engineHeld thread (scratchStore base)] = true := by decide +kernel

/-- A word of the window, and a semaphore in the semaphore window, below its operand or at it. -/
theorem witness_WaitsFencesAndSemaphoresComplete_words :
    let s := on thread (memOps 1 (g 2) (g 4) (.lit 0) (.imm 0) 0) (gridWith [BitVec.ofNat 256 (semBase + place 4096 64 + place 3 140)])
    can s thread { d := 2, a := 2, c := 0 } .offset (fun v => do
      let rs ← accesses { wordWant 1 .rd [0, 1, 4] with kinds := [0, 1], widths := [2, 3], size := 8, align := 8, sem := true } v [0] false
        false false
      needs (fun t => rs.all (fun y => decide (y.2.space = 0 ∧ semBase ≤ y.2.loc) &&
        waitCmp 0 64 ((t.sem 1 ((y.2.loc - semBase) / 8)).toNat) (v.a 0).bits.toNat))
      acquire 0; writes 2 Val.zero) = true := by decide +kernel
/-- The state after a unit's instruction. -/
def doing (i : Instr) (u : Agent) (o : Ops) (s : State) : State :=
  match exec i { s with cur := some u, ir := o } with
  | .next t => t
  | _ => s

/-- Registers of an access thread: s(n), and vectors that are all lanes of one value. -/
def sIs (n : Nat) (x : W64) (p : Bool) (s : State) : State := s.modAp 0 0 (fun y => { y with s := y.s.set n (x, p) })

/-- XRED of threads 0 and 1 with members 0 and 1: both have arrived, and both can read their operands; also where thread 1 began to wait
for the pool before thread 0, and where a strike on the mask came after they arrived. -/
theorem witness_JointInstructionsComplete_clauses :
    let o := rrr 0 (g 3) (g 1) .none (g 4)
    let two := fun tid s => match writeRegs 0 tid [(4, 3), (5, 0)] false false s with
      | .ok (_, t) => t
      | .error _ => s
    let s := doing .xred (.ex 0 1) o (doing .xred thread o (two 0 (two 1 base)))
    let pool := fun tid n (s : State) => s.modEx 0 tid (fun x => { x with ctl := { x.ctl with status := .waiting .pool n } })
    let both := fun (s : State) => match exec .jointPerform { s with occ := .num2 0 0 } with
      | .next t => [0, 1].all (fun i => (t.ctl (.ex 0 i)).elim false (fun c => c.status == .ready) && !(readEx t 0 i (.g 3) 1).poison)
      | _ => false
    let struck := match writeRegs 0 0 [(4, 0)] true false s with
      | .ok (_, t) => t
      | .error _ => base
    each [
      both s, both (pool 0 9 (pool 1 5 s)), both struck && (readEx struck 0 0 (.g 4) 1).poison,
      s.jointSet 0 0 == some [0, 1], [0, 1].all (fun i => decide (s.atJoint 0 i = some ⟨.xred, o⟩)),
      [0, 1].all (fun i => (s.asUnit (.ex 0 i) o (jointIn .xred)).isOk),
      (s.jointStep 0 ⟨.xred, o⟩ 0 ⟨5, false, 0⟩).isOk && goes (exec .jointPerform { s with occ := .num2 0 0 }),
      (s.asUnit thread o (jointDone .xred ⟨5, false, 0⟩)).isOk,
      decide ([part 0, part 63].Pairwise (fun p q => p.tid < q.tid)) && [part 0, part 63].all (fun p => p.tid / 64 == 0)] = true := by
  decide +kernel

/-- A table of two slots with the keys given. -/
def keyed (k0 k1 : Nat) (s : State) : State :=
  ((s.writeStore (Loc.spad 0 0).key 16 (2 + 2 * 2 ^ 32) false).writeStore (Loc.spad 0 16).key 8 k0 false).writeStore
    (Loc.spad 0 24).key 8 k1 false

/-- HACC and HFIND: no table, the reserved key, a full probe, a key that is there, an empty slot. -/
theorem witness_HashTablesComplete_clauses :
    let full := 2 ^ 32 - 1
    let with' := fun (sh : Shape) data prep (p : Table → Nat → State → Bool) =>
      can (on thread (rrr 0 (g 2) (g 4) (g 1) (g 6)) prep) thread sh .int (fun v => do
        let b ← hashTable v data
        needs (fun t => !b.poison && p b (v.a 0).w32.toNat t)
        writes sh.d Val.zero)
    let probe := fun (b : Table) k (t : State) => t.probe b k b.lim 0
    let each2 := fun sh data => [
      with' sh data id (fun b _ _ => b.bad),
      with' sh data (fun s => gIs 4 0xFFFFFFFF false (keyed 7 9 s)) (fun b k _ => !b.bad && k == full),
      with' sh data (keyed 7 9) (fun b k t => !b.bad && k != full && (probe b k t).isNone),
      with' sh data (keyed 0 9) (fun b k t => (probe b k t).elim false (fun x => x.2.1 && !x.2.2.2)),
      with' sh data (keyed full full) (fun b k t => (probe b k t).elim false (fun x => !x.2.1 && !x.2.2.2))]
    let s := keyed full full base
    let b := s.tableAt 0 0 196608 0
    each (each2 {} true ++ each2 { d := 2, b := 0 } false ++ [
      s.memWf && decide (2 ≤ b.slots ∧ b.lim ≤ b.slots) && (s.probe b (full - 1) b.lim 0).elim false (fun x => !x.2.1)]) = true := by
  decide +kernel

/-- An access-push port of sixteen rows of depth in a mode. -/
def accPort (m : PortMode) : Port := { port .acc [] with mode := m, depth := 16 }

/-- LQ to element ports, LQG and LQL to both line modes; LQL of one line and of four full rows. -/
theorem witness_QueueLoadsComplete_clauses :
    let sh : Shape := { d := 0, a := 0, c := 0 }
    let shL : Shape := { d := 0, a := 0 }
    let at' := fun m s => bound 2 (accPort m) (gridWith [globalHandle] s)
    let o := memOps 1 port2 .none (.reg (.a 1) false) .none 0
    let oL := memOps 1 port2 .none (.lit 0) (.reg (.s 2) false) 0
    let group := fun m => can (on accessUnit o (at' m)) accessUnit sh .offset (fun v => do
      checkPorts sh
      discard (spots (lqWant 1 (if m = .elem then 4 else 64)) v (List.range 16) true false false)
      needs (fun t => (t.ports.find (portKey (stripKey 0 0) 2)).elim false (fun q =>
        decide (q.reserve + (if m = .sline then 16 else 1) ≤ q.head + q.depth) && !q.past q.reserve)))
    let lines := fun m n => can (on accessUnit oL (fun s => sIs 2 (BitVec.ofNat 64 n) false (at' m s))) accessUnit shL .offset (fun v => do
      checkPorts shL
      let ps ← spots (lqWant 1 64) v [0] false false false
      needs (fun t => ps.all (fun y => (List.range n).all (fun j => !(y.2.shift (64 * j)).inSem)) &&
        (t.ports.find (portKey (stripKey 0 0) 2)).elim false (fun q =>
          decide (q.reserve + (if m = .sline then n else n / 16) ≤ q.head + q.depth))))
    each [group .elem, group .rline, group .sline, lines .sline 1, lines .sline 16, lines .rline 16, lines .rline 64] = true := by
  decide +kernel

/-- The trap of a check, taken. -/
def orTrap {α : Type} (x : Except TrapInfo α) : M α :=
  match x with
  | .ok a => pure a
  | .error t => stopTrap t

def stored (s : State) (p : Port) : State := bound 2 p (gridWith [globalHandle] s)

/-- SQ and REDQ of a row and past the end, SQS by elements and by a line, PFX. -/
theorem witness_QueueStoresComplete_clauses :
    let sh : Shape := { d := 0, a := 0, c := 0 }
    let o := memOps 1 .none port2 (.reg (.a 1) false) .none 0
    let oS := memOps 1 .none port2 (.lit 0) .none 0
    let row := port .store [fullRow]
    let ended := { row with fin := some 0 }
    let line := { port .store [(.data 7 false) :: List.replicate 15 .absent] with mode := .sline }
    let want := fun red => if red then ({ lqWant 1 4 with spaces := [0, 1], kinds := kFlat, widths := [2, 3], need := .both, offAlign := 1 } : Want)
      else { lqWant 1 4 with kinds := kTile, need := .wr, offAlign := 1 }
    let rows := fun red p => can (on accessUnit o (stored · p)) accessUnit sh .offset (fun v => do
      checkPorts sh
      needs (fun t => p.past p.apop || t.rowReady 0 0 p 0)
      let ps ← spots (want red) { v with a := rowData p } (List.range 16) true true false
      if p.past p.apop then pure () else do
        discard (orTrap (stage true Spot.aligned ps)); discard (orTrap (stage true Spot.bounded ps))
        let s ← get
        let as ← orTrap (stage true (fun y => s.addrOf 1 y (want red).need) ps)
        as.forM (fun y => streamReq accessUnit s.fresh y.2 (.store 7 false) y.1 [y.1]); popStore 2 [])
    let whole := fun p (size : Nat) => can (on accessUnit oS (stored · p)) accessUnit sh .offset (fun v => do
      checkPorts sh
      let ps ← spots { lqWant 1 size with kinds := kTile, need := .wr, offAlign := if size = 64 then 64 else 1 } { v with a := fun _ => Val.zero } [0] false true false
      needs (fun t => t.rowReady 0 0 p 0 && ps.all (fun y => (sqsPieces p y.2).all (fun z =>
        !z.2.1.inSem && z.2.1.aligned.isOk && z.2.1.bounded.isOk && (t.addrOf 1 z.2.1 .wr).isOk)))
      popStore 2 [])
    each [rows false row, rows true row, rows false ended, rows true ended, whole row 4, whole line 64,
      can (on accessUnit o (gridWith [globalHandle])) accessUnit sh .offset (fun v =>
        discard (spots { lqWant 1 64 with spaces := [0, 4], kinds := kTile, offAlign := 1 } v (List.range 16) true false false))] = true := by decide +kernel
/-- LDSC and STSC sent and answered, ATQ answered, and ATQ to a port. -/
theorem witness_TagAndAtomicQueuesComplete_clauses :
    let at' := fun prep => on accessUnit (vecOps 1) (fun s => prep (gridWith [globalHandle] s))
    let send := fun sh need data => can (at' id) accessUnit sh .offset (fun v => do
      let rs ← accesses (tagWant 1 need) v (List.range 16) true data false
      needs (fun t => t.replyRoom accessUnit rs.length))
    let done := fun sh => can (at' answered) accessUnit sh .offset (fun _ => writes 1 Val.zero)
    let port' := on accessUnit (memOps 1 port2 (.reg (.a 2) false) (.reg (.a 1) false) .none 0) (stored · (accPort .elem))
    each [send { a := 0, c := 0 } .rd false, send { d := 0, c := 0 } .both true,
      done { a := 0, c := 0 }, can (at' answered) accessUnit { d := 0, c := 0 } .offset (fun _ => pure ()), done { d := 0 },
      can port' accessUnit { d := 0 } .offset (fun v => do
        checkPorts { d := 0 }
        let ps ← spots { lqWant 1 4 with spaces := [0, 1], kinds := kFlat, widths := [2, 3], need := .both, offAlign := 1 } v (List.range 16) true true false
        needs (fun t => t.replyRoom accessUnit ps.length))] = true := by decide +kernel

/-- A pattern-source port with its engine idle, or at a step of its run. -/
def patEngine (running : Bool) (step : Nat) : PatEngine :=
  { counts := [2, 1, 1, 1], strides := [4, 0, 0, 0], running, handle := 1, start := 0, step, total := 2, base := 0 }
def patPort (running : Bool) (step : Nat) : Port :=
  { port .pat (List.replicate step (List.replicate 16 .pending)) with engine := some (patEngine running step) }

/-- h1: a pattern descriptor over global memory. -/
def patHandle : Handle := BitVec.ofNat 256 (place (2 ^ 30) 64 + place 4 131 + place 2 140)

/-- Every live thread of strip 0 but the first has exited. -/
def lone (s : State) : State := (List.range 15).foldl (fun s i => s.exitEx 0 (i + 1)) s

/-- Threads that arrive, and the operation when the strip's one live thread has. -/
theorem witness_StripOperationsComplete_clauses :
    let key := portKey (stripKey 0 0) 2
    let pat := fun (s : State) => bound 2 (patPort false 0) (gridWith [patHandle] s)
    let busy := fun (s : State) => bound 2 (patPort true 0) (gridWith [patHandle] s)
    let o := fun (x8 : BitVec 8) => memOps x8 port2 (.reg (.s 5) false) (.reg (.s 4) false) .none 0
    let oE := fun (x8 : BitVec 8) => memOps x8 port2 (g 5) (g 4) .none 0
    let access := fun i x8 prep => can (on accessUnit (o x8) prep) accessUnit (stripShape i) .int (fun _ => pure ())
    let arrives := on thread (oE 1) (fun s => lone (pat s))
    let arrived := fun x8 i a prep => doing i thread (oE x8) (gIs 5 a false (lone (prep base)))
    let performs := fun (s : State) => decide (sideOf thread = .exec) &&
      (s.strips.find (stripKey 0 0)).elim false (fun t => t.op.elim false (fun q => q.2.getLsbD 0)) &&
      goes (exec .stripOperation { s with occ := .num (stripKey 0 0) })
    let bind := fun x8 n (s : State) => match s.bind 0 0 2 (bindingOf x8 n) true with
      | .ok _ => 0
      | .error e => e
    each [
      -- the access side
      access .qbind 0x22 (sIs 4 2 false) && (bindingOf 0x22 2).ok && base.ports.find key == none, access .qunbind 0 pat,
      access .pat 3 (fun s => sIs 5 (2 ^ 24) false (pat s)) && !base.patBusy key (patPort false 0) (patEngine false 0), access .patgo 1 pat,
      access .qeos 0 (stored · (port .acc [])),
      -- an execute thread arrives, and the operation is performed
      executes arrives thread (stripShape .patgo) && (checkPorts (stripShape .patgo) (arrives.past thread)).isOk,
      performs (arrived 1 .patgo 0 pat),
      -- PAT: no port engine, an engine that runs, a count of 0, one of 2^24 + 1, on either side
      access .pat 0 (stored · (port .acc [])), base.patBusy key (patPort true 0) (patEngine true 0), access .pat 0 pat,
      access .pat 0 (fun s => sIs 5 (2 ^ 24 + 1) false (pat s)), performs (arrived 0 .pat 0 pat),
      performs (arrived 0 .pat (2 ^ 24 + 1) busy),
      -- bindings that are refused, and one that takes all there is
      bind 0x22 2 (pat base) == 4, bind 0x22 1 base == 8, bind 0x26 1024 (base.modTeam 0 (fun t => { t with qmem := [1023] })) != 0,
      bind 0x22 4 (base.modTeam 0 (fun t => { t with qmem := [3] })) == 5,
      bind 0x20 4 { base with grids := base.grids.put 0 { bootGrid with record := bootRecord ||| (0xFFFFFFFF#1024 <<< 96) } } == 7,
      bind 0x22 1024 base == 0,
      (pat base).ports.wf && (pat base).ports.find key == some (patPort false 0)] = true := by decide +kernel

/-- QSTAT on both sides, discards of one row and of none, an end of stream, and a pattern step into the last free row. -/
theorem witness_PortStatusComplete_clauses :
    let sh : Shape := { a := 0, b := 0, c := 0 }
    let stat := fun u d p x8 => can (on u (memOps x8 d port2 .none .none 0) (bound 2 p)) u sh .int (fun _ => do
      checkPorts { d := 1, a := 0, b := 0, c := 0 }; writes 1 Val.zero)
    let skip := fun n left p => can (on thread (memOps 0 port2 .none (g 4) .none 0)
        (fun s => gIs 4 n false (bound 2 p s))) thread { d := 0, a := 0, b := 1, c := 0 } .int (fun _ => do
      let r ← skipMany 2 3 left
      needs (fun _ => r.isNone))
    let ended := { patPort true 2 with rows := List.replicate 2 fullRow, reserve := 2 }
    let step := fun s : State => bound 2 { patPort true 1 with depth := 2, reserve := 1 } (gridWith [patHandle] s)
    let row := { port .store [fullRow] with gen := true, engine := some (patEngine true 0) }
    let stores := fun (p : Port) (f : State → Port → State → Bool) =>
      let s := { bound 2 p (gridWith [patHandle] base) with occ := .num (portKey (stripKey 0 0) 2) }
      match exec .patternEngineStep s with
      | .next t => f s ((t.ports.find (portKey (stripKey 0 0) 2)).getD p) t
      | _ => false
    each [stat thread (g 3) (port .acc [fullRow]) 0, stat thread (g 3) (port .back []) 1,
      stat accessUnit (.reg (.s 3) false) (port .store [fullRow]) 3, stat accessUnit (.reg (.s 3) false) (port .acc []) 2,
      skip 1 (some 1) (port .acc [fullRow]), skip 0 (some 0) (port .acc [fullRow]),
      skip 0 none { port .acc [fullRow] with fin := some 1 },
      (ended.engine.elim false (fun e => (List.range 16).all (fun l => (ended.slot (e.base + e.total - 1) l).delivered))),
      can (on thread (memOps 0 port2 .none (g 4) .none 0) (fun s => gIs 4 (2 ^ 31) false (bound 2 (port .acc [fullRow]) s))) thread
        { d := 0, a := 0, b := 1, c := 0 } .int (fun v => need (decide (2 ^ 31 ≤ (heldVal (v.b 0)).bits.toNat))),
      stores row (fun s q t => s.rowReady 0 0 row 0 && s.replyRoom (.ap 0 0) 16 && q.apop == 1 && decide (t.fresh = s.fresh + 16) &&
        (t.reqs.find (s.fresh + 15)).elim false (fun r => r.pusher == [(0, 15)] && r.kind == .store 7 false)),
      stores { row with fin := some 0 } (fun _ q t => q.engine == some (patEngine false 0) && t.reqs.isEmpty),
      stores { row with fin := some 1 } (fun _ q _ => q.engine == some (patEngine false 1)),
      (List.range 16).any ((step base).laneLive 0 0) && goes (exec .patternEngineStep { step base with occ := .num (portKey (stripKey 0 0) 2) })] =
    true := by decide +kernel

/-- A release, semaphores at their operand, one reached and one not. -/
theorem witness_WaitsFencesAndSemaphoresComplete_clauses :
    let win := gridWith [BitVec.ofNat 256 (semBase + place 32768 64 + place 3 140)]
    let at' := fun imm => on thread (memOps 1 (g 2) (g 4) (.lit 0x7FF8) (.imm imm) 0) win
    let fence := fun sem => on thread (memOps 4 .none (.imm sem) .none (.imm 0x11) 0) id
    let waits := fun v s => (s : State).modCtl thread (fun c => { c with status := .waiting (.sem 4095 v) 0 })
    each [
      executes (fence 2) thread noShape && ((fence 2).past thread).fenced thread 0x11 2,
      executes (fence 0) thread noShape && (acquire 4 ((fence 0).past thread)).isOk,
      can (at' 0) thread { d := 0, a := 2, c := 0 } .int (fun v => do
        let n ← semIndex v true
        release; needs (fun _ => n == 4095)),
      can (at' 0) thread { d := 2, a := 2, c := 0 } .int (fun v => do
        let n ← semIndex v false
        needs (fun t => decide ((v.a 0).bits.toNat ≤ (t.sem 1 n).toNat))
        acquire 0; writes 2 Val.zero),
      (waits 0 base).ctl thread |>.elim false (fun c => decide (c.status = .waiting (.sem 4095 0) 0)),
      decide ((base.sem 1 4095).toNat < (1 : W64).toNat)] =
    true := by decide +kernel

/-- BAR of the last number, and phases, cohorts and grids whose last live thread arrives or is missing. -/
theorem witness_BarriersComplete_clauses :
    let full : NatSet := List.range 16
    let phase := fun (b : Barrier) => base.modTeam 0 (fun t => { t with barriers := t.barriers.put 15 b })
    let cb := base.modTeam 0 (fun t => { t with cbarrier := full })
    let gb := base.modTeam 0 (fun t => { t with gbarrier := full })
    let bar := on thread (memOps 0 .none (g 1) (g 2) .none 0) (gIs 2 15 false)
    each [
      can bar thread { d := 0, c := 0 } .int (fun v => do release; needs (fun _ => (v.b 0).bits.toNat % 16 == 15)),
      can (on thread ⟨.w64, 7, false, 0, .none, .none, .none, .none, 0, 0⟩ id) thread noShape .int (fun _ => release),
      base.phaseDone 0 { arrived := full, total := 16 }, base.phaseDone 0 { count := 2, total := 2 },
      !base.phaseDone 0 { count := 2, total := 1 },
      goes (exec .barrierPhaseComplete { phase { arrived := full, total := 16 } with occ := .num2 0 15 }),
      (doing .cbar thread noOps base).exs.find (exKey 0 0) |>.elim false (fun x => decide (x.arr = some ⟨.cbar, noOps⟩)),
      cb.teams.all (fun t => t.2.cbarrier != [] && cb.allArrived t.1 t.2 t.2.cbarrier),
      decide (bootGrid.admitted = bootGrid.count) && gb.teams.all (fun t => t.2.gbarrier != [] && gb.allArrived t.1 t.2 t.2.gbarrier)] = true := by
  decide +kernel

/-- ARRW with and without a release, and a word that is one short of its generation's turn. -/
theorem witness_ArrivalWordsComplete_clauses :
    let arrw := on thread (memOps 0 (g 3) (g 2) (g 1) .none 0) id
    let reads := fun need data (k : M Unit) => can arrw thread shDAB .offset (fun v => do
      let a ← oneAccess (arrWant 0 need) v data
      k
      let x ← doOwnN ((← get).reqOf thread a (if data then .atomic 15 128 0 0 true else .load) 0x1000 255 .none)
      (if data then modify (fun s => s.updateArr a.addr (fun w => Arr.init w 0)) else acquire 0)
      needs (fun _ => decide (0 ≤ (BitVec.ofNat 32 (x.1 / 2 ^ 64) - (v.a 0).w32).toInt)); writes 1 Val.zero)
    each [reads .both true (pure ()), reads .both true release, reads .rd false (pure ()), decide (2 ^ 32 - 1 < 2 ^ 32 ∧ 255 < 256),
      decide ((4 : Nat) ≠ 0 ∧ 4 ≤ 3 + 1), decide (3 + 0 < (4 : Nat))] = true := by decide +kernel
/-- A copy of one word from the window's first byte to its byte 256, under COPY's operands. -/
def copyRecord : BitVec 1024 := BitVec.ofNat 1024 (place 256 64 + place 2 144 + place 1 256 + place 4 512 + place 4 768)
def copying : Copy :=
  { owner := thread, ctx := 1, gid := some 0, core := 0, scope := 4, ord := false, record := copyRecord, src := bootHandle,
    dst := bootHandle, arr := none, landing := .none, done := [], total := 1, added := 0, pline := none, seed := false, fail := none }
def wanting : WdqOp := { owner := thread, ctx := 1, gid := 0, core := 0, addr := 0, landing := .none }

/-- CSTAT with as many copies as it allows, a copy's one element and its end, and the tiles of a sieve at its last, past it and after. -/
theorem witness_CopiesAndWorkRequestsComplete_clauses :
    let s := { base with copies := [(7, copying)], occ := .num2 7 0 }
    let e := { base with copies := [(7, { copying with done := [(0, 1)] })], occ := .num 7 }
    let acc := fun need off => s.elemAcc thread 1 0 bootHandle off 0 4 need
    let z := peerRange base
    let p := match z.elemAcc thread 1 0 peerHandle 256 0 4 .wr with
      | .ok da => { z with copies := [(7, { copying with dst := peerHandle })], occ := .num2 7 0,
                           reqs := [(9, { z.engReq 7 thread da (.store 9 true) with phase := .done 9 true })] }
      | _ => z
    let w := fun n stop => (({ base with wdqs := [(7, wanting)], occ := .num 7 } : State).modCtl thread (fun c => { c with wdqEnd := stop }))
      |> fun s => { s with grids := s.grids.put 0 { bootGrid with record := bootRecord ||| (0x10001#1024 <<< 416), sieve := n } }
    let tiles := fun (s : State) => s.grids.all (fun x => LRec.tx x.2.record * LRec.ty x.2.record == 1)
    each [
      can (on thread (memOps 0 (g 3) (g 2) .none (.imm 4) 0) id) thread shDA .offset (fun v => do
        needs (fun t => decide ((t.copiesOf thread).length ≤ (v.a 0).bits.toNat))
        acquire 4; writes 1 Val.zero),
      s.running 1 && !performed copying.done 0 && decide ((0 : Nat) < copying.total),
      (match acc .rd (copying.offsets 0).1, acc .wr (copying.offsets 0).2 with
        | .ok sa, .ok da => !s.engineAway thread sa && !s.engineAway thread da && (s.sentTo 7 da).isNone && (match s.engAccess (s.engReq 7 thread sa .load) with
          | .ok v po t => (match t.engAccess (s.engReq 7 thread da (.store v po)) with | .ok _ _ _ => true | _ => false)
          | _ => false)
        | _, _ => false),
      (match p.elemAcc thread 1 0 peerHandle 256 0 4 .wr with
        | .ok da => p.sentTo 7 da == some (9, true) && (match p.engAccess (p.engReq 7 thread da (.store 9 true)) with
          | .ok _ _ _ => true
          | _ => false)
        | _ => false),
      (match exec .copyProgress p with
        | .next t => t.copies.any (fun c => c.2.pline == some 0 && performed c.2.done 0)
        | _ => false),
      (match s.elemAcc thread 1 0 bootHandle (-2) 0 4 .rd, s.elemAcc thread 1 0 bootHandle (-4) 0 4 .rd with
        | .error a, .error b => a.code == 0x23 && b.code == 0x20
        | _, _ => false),
      goes (exec .copyProgress s), e.ordReady 7 { copying with done := [(0, 1)] } && countDone [(0, 1)] == copying.total,
      goes (exec .copyComplete e),
      decide ([(0, 2), (3, 4)].Pairwise (fun p q => p.2 < q.1)) && [(0, 2), (3, 4)].all (fun p => decide (p.1 < p.2)) && !performed [(0, 2), (3, 4)] 2,
      can (on thread (memOps 0 (g 3) .none (g 1) .none 0) id) thread shDB .offset (fun v => do
        discard (oneAccess { hidx := 0, spaces := [1], kinds := [0], size := 8, align := 8, need := .wr, offAlign := 8 } v false)
        needs (fun t => decide ((t.wdqs.filter (fun q => q.2.owner == thread)).length < 4) && t.replyRoom thread 1)
        discard landD),
      tiles (w none false) && goes (exec .wdqAnswer (w none false)), tiles (w (some 1) false) && goes (exec .wdqAnswer (w (some 1) false)),
      tiles (w (some 1) true) && goes (exec .wdqAnswer (w (some 1) true))] = true := by decide +kernel

/-- A shadow pair of one 64 KiB page at 0 and at 64 KiB, and an operation on it. -/
def pairHandle : Handle := BitVec.ofNat 256 (place (2 ^ 16) 64 + place 3 131 + place 2 140 + place (2 ^ 16) 160)
def publishing (publ : Bool) (h : Handle) : PubOp :=
  { owner := thread, ctx := 1, gid := some 0, core := 0, handle := h, publ, scope := 4, seed := false, fill := none, landing := .none }
def openPairs (l : List (List (Nat × Nat) × List (Nat × Nat))) (s : State) : State :=
  s.modPart 0 (fun p => { p with pairs := l.map (fun q => ⟨1, q.1, q.2⟩) })

/-- A pair that is open, one that meets an open one, one whose windows meet, one that can be opened; published, or not open. -/
theorem witness_PublishComplete_clauses :
    let at' := fun op s => ({ (s : State) with pubs := [(7, op)], occ := .num 7 } : State)
    let overlap : Handle := BitVec.ofNat 256 (place (2 ^ 16) 64 + place 3 131 + place 2 140)
    let own := ([(0, 2 ^ 16)], [(2 ^ 16, 2 ^ 17)])
    let pair := fun h => match base.pairAt 1 h with
      | .ok x => some x
      | _ => none
    let meets := fun l h => (pair h).elim false (fun x => (openPairs l base).parts.any (fun p => p.2.pairs.any x.meets && !p.2.pairs.any (x.is 1)))
    each [
      can (on thread (memOps 0 (g 3) .none .none (.imm 4) 0) (gridWith [pairHandle])) thread shDOnly .offset (fun _ => do
        release; needs (fun t => t.replyRoom thread 1); discard landD),
      Hnd.space ((on thread (memOps 2 (g 3) .none .none (.imm 4) 0) id).handleOf thread 2) == 7,
      pair pairHandle == some ⟨0, own.1, own.2⟩,
      (pair pairHandle).elim false (fun x => (openPairs [own] base).parts.any (fun p => p.2.pairs.any (x.is 1))) &&
        goes (exec .shdwComplete (at' (publishing false pairHandle) (openPairs [own] base))),
      meets [([(0, 1)], [(2 ^ 18, 2 ^ 18 + 1)])] pairHandle && !rangesMeet own.1 own.2,
      (pair overlap).elim (pairShape overlap == false) (fun x => rangesMeet x.target x.shadow),
      goes (exec .shdwComplete (at' (publishing false pairHandle) base)),
      goes (exec .shdwComplete (at' { publishing false pairHandle with seed := true } base)),
      (match base.pairAt 1 (pairHandle ||| (1#256 <<< 32)) with | .fail _ => true | _ => false),
      goes (exec .publExchange (at' (publishing true pairHandle) base)),
      goes (exec .publExchange (at' (publishing true pairHandle) (openPairs [own] base))),
      goes (exec .publExchange (at' (publishing true (pairHandle ||| (5#256 <<< 128))) base)),
      (match base.pairAt 1 (pairHandle ||| (4#256 <<< 128)) with | .fail code => code == 0x24 | _ => false) &&
        goes (exec .publExchange (at' (publishing true (pairHandle ||| (4#256 <<< 128))) base)),
      pairShape pairHandle] = true := by decide +kernel

/-- A ring of 64 bytes with slots of 16 at byte 64 of the window, its header at byte 0, and a message of 16 bytes to it. -/
def ringAt (head tail : Nat) (s : State) : State := s.writeStore (Loc.spad 0 0).key 32 (64 + place 64 32 + place head 128 + place tail 160) false
def message (arrived : Bool) : Msg :=
  { owner := thread, ctx := 1, gid := 0, target := 0, hdr := 0, data := List.replicate 16 7, poison := [], bad := false, tainted := false,
    landing := .none, arrived, blockedAt := some 0 }

/-- A message that is malformed, one whose header is none, one that fits a ring with its last free slot and one that finds it full. -/
theorem witness_MessagesComplete_clauses :
    let at' := fun m s => ({ (s : State) with msgs := [(7, m)], occ := .num 7 } : State)
    let used := fun (s : State) => wrapN ((Ring.tail (s.readStore (Loc.spad 0 0).key 32).1 : Int) - Ring.head (s.readStore (Loc.spad 0 0).key 32).1) 32
    each [
      can (on thread (memOps 0 (g 3) (g 1) (g 2) (g 4) 0) id) thread {} .offset (fun v => do
        let a ← oneAccess { hidx := 0, spaces := [1], kinds := [0], size := 16, align := 16, offAlign := 16, need := .rd } v false
        release
        discard (doOwnN ((← get).reqOf thread a .load 0x1000 255 .none))
        needs (fun t => t.replyRoom thread 1); discard landD),
      goes (exec .msgArrival (at' { message false with bad := true } base)),
      (at' { message false with target := 1 } base).msgTeam { message false with target := 1 } == none,
      (at' (message false) (ringAt 0 0 base)).msgTeam (message false) == some bootTeam &&
        Ring.ok ((ringAt 0 0 base).readStore (teamKey bootTeam 0) 32).1 (base.windowBytes bootTeam) 16,
      !Ring.ok (base.readStore (teamKey bootTeam 0) 32).1 (base.windowBytes bootTeam) 16,
      used (ringAt 0 48 base) == 64 - 16 && goes (exec .msgDeliver (at' (message true) (ringAt 0 48 base))),
      decide (64 - 16 < used (ringAt 0 64 base)),
      goes (exec .messageProbeTimeout ((at' (message false) base).clock 4096)),
      goes (exec .escapeStep { at' { message false with blockedAt := none } base with occ := .nums [7] })] = true := by decide +kernel

/-- NRED of no member and of four; a round of two that is joined, refused and completed; a tree of four. -/
def contribution (n cluster : Nat) (joined : Bool) : NredOp :=
  { owner := thread, ctx := 1, gid := 0, tag := 0, op := 0, width := 32, n, cluster, core := 0, cell := 0, value := 5, poison := false,
    tainted := false, landing := .none, joined }

theorem witness_NetworkReductionsComplete_clauses :
    let reads := fun imm (k : M Unit) => can (on thread (memOps 0 (g 3) (g 1) (g 2) (.imm imm) 0) id) thread shDAB .offset (fun v => do
      discard (oneAccess { hidx := 0, spaces := [1], kinds := [0], widths := [2, 3], size := 4, align := 4, need := .both } v false); k)
    let at' := fun l => ({ base with nreds := l, occ := .num 9 } : State)
    let four := [contribution 4 0 true, contribution 4 1 true, contribution 4 2 true, contribution 4 3 true]
    each [
      reads 0x00 (writes 1 Val.zero), reads 0x10 (writes 1 Val.zero), reads 0x50 (writes 1 Val.zero),
      reads 0x40 (do release; needs (fun t => t.replyRoom thread 1); discard landD),
      goes (exec .nredContribution (at' [(8, { contribution 2 1 true with op := 1 }), (9, contribution 2 0 false)])),
      goes (exec .nredContribution (at' [(9, contribution 2 0 false)])),
      goes (exec .nredContribution (at' [(8, contribution 2 1 true), (9, contribution 2 0 false)])),
      decide (four.Pairwise (fun p q => p.cluster < q.cluster)) && four.all (fun q => decide (q.cluster < 4))] = true := by decide +kernel
/-- The team whose gang is its one strip, owning its engine. -/
def ganged (s : State) : State := owning (s.modTeam 0 (fun t => { t with gang := [0] }))

/-- An MMA of one chunk, A from registers, B from the weight buffer or, with bit 4 of its control word, from h1. -/
def mmaInsn : Insn := ⟨.mma, ⟨.w64, 7, false, 0, .none, g 1, g 2, g 4, 0x44, 0⟩⟩
def mmaAt (w : Nat) (chunk : Nat) (ready : Bool) : MatOp :=
  { id := 3, team := 0, tid := 0, insn := mmaInsn, va := 0, vb := 0, vc := BitVec.ofNat 64 w, landing := .none, chunk, gang := [0], ready }
def latched (released : Bool) (s : State) : State :=
  ganged s |>.modTeam 0 (fun t => { t with latch := some ⟨0x1000, mmaInsn, List.range 16, released, []⟩ })
def queuing (l : List MatOp) (s : State) : State := s.modCore 0 (fun k => { k with queue := l })
def matOp (i : Instr) (va vb vc : W64) : MatOp :=
  { id := 3, team := 0, tid := 0, insn := ⟨i, memOps 0 .none (g 1) (g 2) (g 4) 0⟩, va, vb, vc, landing := .none }

/-- The engine's instructions: not the owner, a busy latch, both gangs, the last control words and offsets, both results of MRD, every
transfer to its field and to a port, and an arrival at the latch. -/
theorem witness_MatrixInstructionsComplete_clauses :
    let own := fun o prep => on thread o (fun s => owning (prep s))
    let o := memOps 0 (g 3) (g 1) (g 2) (g 4) 0
    let ab : Shape := { d := 0, c := 0 }
    let two := fun (s : State) => s.modTeam 0 (fun t => { t with strips := 2 })
    let move := fun d prep (k : M Unit) => can (own (memOps 0 d (g 1) (g 2) (g 4) 0) prep) thread {} .offset (fun _ => k)
    let queue := needs (fun t => t.canQueue 0 0)
    each [
      executes (on thread o id) thread noShape && (base.core 0).owner != some 0,
      (owning base).accStores 0 == false && (own o id |>.core 0).owner == some 0,
      ((latched false base).teams.find 0).elim false (·.latchBusy), ((awaitQueue 0) ((own o id).past thread)).isOk,
      gangOf { bootTeam with strips := 2 } (place 1 7 + place 2 42) == some [0, 1] && gangOf bootTeam 0 == none,
      can (own o two) thread { d := 0, a := 2, b := 0, c := 0 } .int (fun _ => needs (fun t => t.teams.all (fun x => !x.2.latchBusy))),
      can (own o (gIs 1 0x00FFFFF7 false)) thread { d := 0, b := 0, c := 0 } .int (fun v => do
        need (bits (v.a 0).w32.toNat 31 24 == 0 && !bit (v.a 0).w32.toNat 3); queue),
      can (own o (fun s => gIs 2 128 false s)) thread ab .int (fun v => do
        need (decide ((v.a 0).w32.toNat % 256 = 0 ∧ (v.b 0).w32.toNat = 128 ∧ (v.a 0).w32.toNat + 256 * 128 ≤ 32768)); queue),
      can (own { o with x8 := 0x20 } (gIs 1 32764 false)) thread { b := 0, c := 0 } .int (fun v => do
        awaitQueue 0
        let x ← doOwn ((← get).reqOf thread (accAt 0 (v.a 0).w32.toNat) .load 0x1000 255 .none)
        need (!x.poison); writes 1 Val.zero),
      can (own { o with x8 := 2 } (gIs 1 32764 false)) thread ab .int (fun v => do
        awaitQueue 0
        needs (fun t => let e := t.drainAll thread 0 (t.bufferOf (.unit thread)).length
          e.inOrder e.fresh (e.reqOf thread (accAt 0 (v.a 0).w32.toNat) (.store 0 false) 0x1000 255 .none))),
      [Instr.mldw, .mldt, .mstt, .mlda, .msta].all (fun i => (xferOf i (if i = .mldw ∨ i = .mlda ∨ i = .msta then 0 else 0x2000)).isSome),
      (xferOf .mldw 0).elim false (fun x => (List.range x.rows).all (fun r => rangeOk bootHandle (r * x.step bootHandle) x.mrow)),
      move (g 3) id (do discard landD; queue),
      move port2 (bound 2 (port .back [])) (do
        discard (pushRoom 2 (port .back []) 0 false); queue),
      executes (on thread mmaInsn.args ganged) thread mmaShape && (checkPorts { d := 0, a := 0 } ((on thread mmaInsn.args ganged).past thread)).isOk]
      = true := by decide +kernel

/-- An image of no blocks in E4M3 at the weight buffer's start. -/
def emptyImage (s : State) : State := s.writeStore (Loc.wbuf 0 0).key 64 (place 4 448) false
/-- h1: a tile of 64 rows of 64 bytes over the scratchpad. -/
def tileHandle : Handle := BitVec.ofNat 256 (place 4096 64 + place 1 128 + place 2 131 + place 64 160 + place 64 176 + place 4 192 + place 64 200)

/-- The events of the engine: a grant, a release of the latch, checks that pass and fail, chunks of both modes, a bad image, completion with
and without a trap, MCFG, MZERO, transfers, and an INT8 sum at its bound. -/
theorem witness_MatrixEventsComplete_clauses :
    let at' := fun i s => goes (exec i { (s : State) with occ := .num 0 })
    let t1 := mmaAt (0x10 + place 1 16) 0 true
    let tiles := fun s => latched true (gridWith [tileHandle] s)
    let xfer := { matOp .mldw 0 0 0 with id := 3 }
    each [
      at' .engineGrant (base.modCore 0 (fun k => { k with waiting := [0] })), base.memWf,
      (let z := latched false base
       (gangRows [0]).all (fun i => z.exLive 0 i && NatSet.has (List.range 16) i) && z.canQueue 0 0 && z.holdsEngine 0 bootTeam 0 &&
        (z.asUnit thread mmaInsn.args mmaRead).isOk && at' .latchRelease z),
      (latched true base).mmaCheck 0 (mmaAt 0 0 false) == none && at' .mmaChunkCommit (queuing [mmaAt 0 0 false] (latched true base)),
      ((latched true base).mmaCheck 0 (mmaAt 0x1000000 0 false)).isSome,
      (tiles base).mmaCheck 0 { t1 with ready := false } == none && (match (queuing [t1] (tiles base)).gatherB t1 with | .ok _ => true | _ => false),
      ((emptyImage base).imageAt 0 0 4).isSome,
      (base.imageAt 0 0 4).isNone && at' .mmaChunkCommit (queuing [mmaAt 0 0 true] (latched true base)),
      64 * 1 == Mma.k 0 && at' .mmaComplete (queuing [mmaAt 0 1 true] (latched true base)),
      at' .mmaComplete (queuing [{ mmaAt 0 1 true with flags := fNV }] (latched true (trapsNV base))),
      !base.heldBack 0 xfer && at' .matrixQueueOp (queuing [matOp .mcfg 0 0 0] base),
      at' .matrixQueueOp (queuing [matOp .mzero 0 1 0] base),
      goes (exec .matrixTransferComplete { queuing [xfer] (owning base) with occ := .num2 0 3 }),
      goes (exec .matrixTransferComplete { queuing [xfer] (owning base) with occ := .num3 0 3 1 }),
      ((xferOf .mldw 0).elim false (fun x => ({ xfer with rows := x.rows }).rows == x.rows && xfer.fail == none)),
      decide (-2 ^ 31 ≤ sext 0x7FFFFFFF 32 ∧ sext 0x7FFFFFFF 32 < 2 ^ 31)] = true := by decide +kernel

/-- Partition 0 with core 0 alone. -/
def oneCore (s : State) : State := s.modPart 0 (fun p => { p with desc := p.desc &&& BitVec.ofNat 2048 (2 ^ 769 - 1) })

/-- The store of the broadcast constants at its last word, one byte further, at no word, and another context's. -/
theorem witness_BroadcastStoreComplete_clauses :
    let mine := fun (c : Nat) (s : State) => s.modCore 0 (fun k => { k with bcsOwner := some c })
    let pld := fun n prep k => can (on thread (memOps 0 (g 3) (g 1) (g 2) .none 0) (fun s => gIs 1 n false (prep s))) thread { c := 0 } .int k
    let runs := fun x8 => memOps x8 (g 8) (g 16) (g 2) .none 0
    let pstb := fun d prep (k : M Unit) => can (on thread (memOps 0 d (g 1) (g 2) (.imm 4) 0) (fun s => gIs 1 (BitVec.ofNat 32 16380) false (prep s))) thread
      shDAB .offset (fun v => do need (decide (bits (v.a 0).w32.toNat 13 0 = 16380) && rangeOk bootHandle 0 4); k)
    let entered := doing .pstb thread (memOps 0 (g 3) (g 1) (g 2) (.imm 2) 0) (oneCore base)
    let op := entered.pstbs.headD (0, { owner := thread, ctx := 1, gid := none, core := 0, handle := 0, hidx := 0, off := 0, dst := 0, words := 1,
                                        scope := 4, landing := .none, done := 0, skipped := false, pline := none, fail := none })
    each [
      pld 16380 id (fun _ => writes 1 Val.zero), pld 16380 (mine 1) (fun _ => writes 1 Val.zero),
      pld 0 (mine 2) (fun _ => needs (fun t => (t.core 0).bcsOwner == some 2)),
      pld 16381 id (fun v => need (decide (((v.a 0).w32.toNat) % 4 ≠ 0))),
      pld 16384 id (fun v => need (decide (16384 < (v.a 0).w32.toNat + 4))),
      can (on thread (runs 0x33) id) thread { d := 4, a := 4, b := 1, c := 0 } .int (fun _ => do
        discard bcsOwn; discard (readRun (g 16) 4); discard (readRun (g 8) 4); writeRun (g 8) (List.replicate 4 Val.zero)),
      can (on thread (runs 0x33) (gIs 2 0 true)) thread { d := 4, a := 4, b := 1, c := 0 } .int (fun v => do
        need (v.b 0).poison; writeRun (g 8) (List.replicate 4 Val.bad)),
      can (on thread (memOps 0x0F (g 80) (g 1) .none .none 0) (gIs 1 16320 false)) thread { d := 16, a := 1, b := 0, c := 0 } .int (fun v => do
        discard bcsOwn
        need (decide ((v.a 0).w32.toNat + 4 * 16 ≤ 16384)); writeRun (g 80) (List.replicate 16 Val.zero)),
      pstb (g 3) id (discard landD), pstb port2 (bound 2 (port .back [])) (discard (pushRoom 2 (port .back []) 0 false)),
      entered.pstbs.length == 1 && goes (exec .pstbComplete { entered with occ := .num op.1 }) && goes (exec .pstbComplete { entered with occ := .num2 op.1 1 }),
      decide (op.2.done < op.2.words),
      (match entered.rowAccess op.1 op.2.owner op.2.hidx op.2.handle op.2.off 4 false 0 [] with | .ok _ _ _ => true | _ => false),
      decide ((entered.pstbCores op.2).Nodup) && (entered.pstbCores op.2).contains 0 && entered.bcsFree 0 1 && !(mine 2 entered).bcsFree 0 1] = true := by
  decide +kernel

/-- The first GiB lies in device 5. -/
def peerLeaf (s : State) : State := { s with mem := pokeBytes s.mem 0x20000 (bytesOf 0x40000081 ++ bytesOf 0x00500000) }

/-- RLQ to each mode, RLDW and RATOM sent and answered, RST, and RFENCE of every peer and of one. -/
theorem witness_RemoteInstructionsComplete_clauses :
    let far := fun (s : State) => peerLeaf (peerRange (gridWith [peerHandle] s))
    let sh : Shape := { d := 0, a := 0, c := 0 }
    let rlq := fun m => can (on accessUnit (memOps 1 port2 .none (.reg (.a 1) false) .none 0) (fun s => bound 2 (accPort m) (far s))) accessUnit sh
      .offset (fun v => do
        checkPorts sh
        discard (spots (remoteWant 1 (if m = .elem then 4 else 64) kRead [0, 1, 2, 3] .rd) v (List.range 16) true false false))
    let two := fun shape kinds widths nd data => can (on accessUnit (vecOps 1) far) accessUnit shape .offset (fun v => do
      let rs ← accesses (remoteWant 1 4 kinds widths nd) v (List.range 16) true data false
      needs (fun t => t.replyRoom accessUnit (if data then rs.length else 0)))
    let done := fun shape => can (on accessUnit (vecOps 1) (fun s => answered (far s))) accessUnit shape .offset (fun _ => writes 1 Val.zero)
    let fence := fun x8 sem => can (on accessUnit (memOps x8 .none (.imm sem) (.reg (.s 3) false) .none 0) id) accessUnit sh .int (fun v => do
      needs (fun t => t.remoteFenced accessUnit (if x8 = 0 then none else some ((v.b 0).bits.toNat % 4096)) sem.toNat)
      (if sem = 2 then pure () else acquire 5))
    each [rlq .elem, rlq .rline, rlq .sline,
      two { d := 1, a := 0, b := 1, c := 0 } kRead [0, 1, 2, 3] .rd false, two { d := 1, a := 1, b := 1, c := 0 } kTile [2, 3] .both true,
      done { d := 1, a := 0, b := 1, c := 0 }, done { d := 1, a := 1, b := 1, c := 0 },
      can (on accessUnit (vecOps 1) far) accessUnit { d := 0, a := 1, b := 1, c := 0 } .offset (fun v => do
        let rs ← accesses (remoteWant 1 4 kTile [0, 1, 2, 3] .wr) v (List.range 16) true true false
        let s ← get
        rs.forM (fun y => requesterSide true (y.1, s.reqOf accessUnit y.2 (.store 0 false) 0x1000 y.1 .none))),
      fence 0 0, fence 1 2] = true := by decide +kernel
/-- A value in global memory. -/
def poke (a n v : Nat) (s : State) : State := s.writeStore (Loc.hbm (2 ^ 30 + a)).key n v false

/-- At an address, the layout of one shard of one word on one device, whose list stands at another. -/
def oneShard (a list : Nat) (s : State) : State :=
  poke (a + 56) 8 list (poke (a + 48) 1 1 (poke (a + 40) 8 (2 ^ 64 - 1) (poke (a + 32) 1 1 (poke a 1 1 s))))

/-- h1 global, h2 an open pair, layouts at 0x400 and 0x500, and a progress record at 0x200 with a state. -/
def redistributing (st : Nat) (s : State) : State :=
  let s := gridWith [globalHandle, pairHandle] s
  let s := openPairs [([(0, 2 ^ 16)], [(2 ^ 16, 2 ^ 17)])] { s with mgmt := { s.mgmt with fidSet := true } }
  let s := poke 0x208 8 (2 + place 12 8 + place st 16 + place 1 32) s
  gIs 1 0x400 false (gIs 4 0x500 false (oneShard 0x500 0x610 (oneShard 0x400 0x600 s)))

def ladleOps : Ops := memOps 1 (g 3) (g 1) (.lit 0x200) (g 4) 0
def started : State := doing .ladle thread ladleOps (redistributing 0 base)
def startedPlan : Nat × Plan := started.plans.headD (0, Plan.mk thread 1 none 0 0 0 0 0 ⟨0, []⟩ ⟨0, []⟩ 0 0 12 0 0 0 [] [] [] .queued false [] [] .none)

/-- A record in another state, an ill-formed layout, different ones, a pair that is not open, a plan that begins, LSTAT and LABORT. -/
theorem witness_LadleInstructionsComplete_clauses :
    let reads := fun (prep : State → State) (p : Nat → Option Layout → Option Layout → State → Bool) =>
      can (on thread ladleOps prep) thread {} .offset (fun v => do
        let ha ← ladleAcc 1 64 v v.b .rd
        let sa ← ladleAcc 1 256 v v.a .rd
        let da ← ladleAcc 1 256 v v.c .rd
        let h ← loadNow ha
        let x ← loadNow sa
        let y ← loadNow da
        let src ← loadLayout 1 x false
        let dst ← loadLayout 1 y true
        needs (fun t => (t.queuedPlan thread).isNone && p h src dst t); writes 1 Val.zero)
    let check := fun h src dst (t : State) => t.planCheck 1 (t.handleOf thread 2) src dst h 1 0 false
    let both := fun (f : Nat → Layout → Layout → State → Bool) h (x y : Option Layout) t => match x, y with
      | some x, some y => f h x y t
      | _, _ => false
    let stat := fun prep k => can (on thread (memOps 1 (g 3) .none (.lit 0x200) (.imm 0) 0) prep) thread { a := 0, c := 0 } .offset (fun v => do
      let a ← ladleAcc 1 64 v v.b .rd
      discard (doNowN ((← get).reqOf thread a .load 0x1000 255 .none)); acquire 4; k a; writes 1 Val.zero)
    each [
      reads (redistributing 1) (fun h _ _ _ => !Prog.malformed h && Prog.state h != 0),
      reads (fun s => poke 0x400 4 0 (redistributing 0 s)) (fun h src _ _ => Prog.state h == 0 && src.isNone),
      reads (fun s => poke 0x500 4 0 (redistributing 0 s)) (fun _ src dst _ => src.isSome && dst.isNone),
      reads (fun s => poke 0x500 4 512 (redistributing 0 s)) (fun _ => both (fun _ x y _ => fld x.tlr 255 0 != fld y.tlr 255 0) 0),
      reads (fun s => openPairs [] (redistributing 0 s)) (both (fun h x y t => check h x y t == 0x82)),
      reads (redistributing 0) (both (fun h x y t => check h x y t == 0 && chunkTotal (regions x y 12 t.mgmt.fid) == 1 && t.replyRoom thread 1)),
      started.plans.length == 1 && startedPlan.2.live, startedPlan.2.stage == .sending,
      stat (fun _ => started) (fun a => needs (fun t => (t.planAt 1 a.addr).isSome)), stat (redistributing 0) (fun a => needs (fun t =>
        (t.planAt 1 a.addr).isNone))] = true := by decide +kernel

/-- The events of the plan that runs alone on its device: its one chunk, its end, and its answers as a sender to device 5. -/
theorem witness_LadleEventsComplete_clauses :
    let n := startedPlan.1
    let p := startedPlan.2
    let run := fun (p : Plan) o => ({ started with plans := [(n, p)], occ := o } : State)
    let full : Plan := { p with bits := [0] }
    let sends := fun x => { p with send := [(0, x)] }
    let waits : Sending := { awaited := true, clock := 0, backoff := 512 }
    let agreed : Plan := { full with stage := .agreeing }
    let r := p.regionOf 0 0
    let answered := fun a x => goes (exec .ladleChunkAnswer (run (sends x) (.answer n 0 a)))
    each [
      r.elim false (fun r => r.first == 0 && r.n == 1) && goes (exec .ladleBusyRetry (run p (.num2 n 0))),
      goes (exec .ladleChunkArrival (run p (.chunk 5 p.tag p.digest 0 (List.replicate 4 0) []))),
      goes (exec .ladleChunkArrival (run p (.chunk 5 p.tag (p.digest + 1) 0 [] []))),
      goes (exec .ladleChunkArrival (run full (.chunk 5 p.tag p.digest 0 [] []))),
      goes (exec .ladleChunkArrival (run { p with inbox := [⟨5, 0, List.replicate 4 0, []⟩] } (.num2 n 0))),
      answered .busy waits, answered .mismatch waits, answered .remote waits, answered .parked waits, answered .ack waits,
      goes (exec .ladleChunkAnswer (run (sends { waits with acked := true }) (.num2 n 0))),
      goes (exec .remoteTimeout ((run (sends waits) (.num2 n 0)).clock 4194304)),
      goes (exec .ladleDone (run full (.num n))), goes (exec .ladleDone (run agreed (.ladle 0 p.tag))),
      goes (exec .ladleCommit (run { agreed with stage := .committed } (.num n))),
      goes (exec .ladleFinished (run { agreed with stage := .published, answered := p.devices } (.num n))),
      goes (exec .ladleFinished (run { p with stage := .ending 5 (some 0x97) 0x97 } (.num n)))] = true := by decide +kernel
/-- A queue program with w registers set. -/
def wIs (l : List (Nat × W64)) (s : State) : State :=
  s.modEngine 0 (fun e => { e with w := l.foldl (fun w x => w.set x.1 (x.2, false)) e.w })
def qOps (x8 : BitVec 8) (d a b c : Field) : Ops := memOps x8 d a b c 0
def w (n : Fin 16) : Field := .reg (.w n) false

/-- LAUNCH and LAUNCHI of a record whose count is allowed, too great or malformed, one whose count's page is away, and WAITG of a number
that is none, of a grid that runs and of one that is complete. -/
theorem witness_LaunchesComplete_clauses :
    let o := qOps 0 (w 1) .none (w 3) (w 4)
    let rec128 := fun n (s : State) => poke 4096 128 ((bootRecord.toNat &&& (2 ^ 1024 - 1 - place (2 ^ 32 - 1) 256)) + place n 256)
      (wIs [(3, 4096)] s)
    let sh : Shape := { a := 0, c := 1 }
    let launch := fun n k => can (on engine o (rec128 n)) engine sh .offset (fun v => do
      needs (fun t => decide (t.openGrids 0 < 64)); release
      let x ← launchRead 0 128 (v.b 0)
      k (BitVec.ofNat 1024 x.1) v)
    let checks := fun (r : BitVec 1024) c => needs (fun t => match t.launchChecks 0 1 ⟨r, 0, none, [], []⟩ c with | .ok _ _ _ => true | _ => false)
    let fails := fun (r : BitVec 1024) c code => needs (fun t => match t.launchChecks 0 1 ⟨r, 0, none, [], []⟩ c with | .fails x _ _ => x == code | _ => false)
    let grids := fun st s => ({ (s : State) with grids := s.grids.put 0 { bootGrid with status := st } } : State).modEngine 0 (fun e => { e with seq := 1 })
    let waitg := fun (s : State) n k => can (on engine o (fun _ => wIs [(1, BitVec.ofNat 64 n)] s)) engine { b := 0, c := 0 } .int (fun v => do
      needs (fun t => k ((t.gridNamed 1 ((v.a 0).bits.toNat % 2 ^ 32)).bind (fun k => t.grids.find k))))
    let manyPages := fun (s : State) => s.modCtx 1 (fun c => { c with ranges := BitVec.ofNat 192 (0xF + place 2048 85) :: List.replicate 15 0 })
    each [
      launch 0 (fun r v => do discard (launchRead 0 4 (v.c 0)); checks r 0; writes 1 Val.zero),
      launch 0 (fun r _ => do checks r (LRec.count r); writes 1 Val.zero),
      launch 0 (fun r _ => fails r 1 0xA2), recordFault (bootRecord ||| 1#1024) == some 0,
      launch 0 (fun r _ => fails (r ||| 1#1024) 0 0xA3),
      can (on engine o (fun s => manyPages (wIs [(4, 2 ^ 30)] (rec128 0 s)))) engine sh .offset (fun v => do
        discard (launchRead 0 128 (v.b 0)); need (decide ((v.c 0).bits.toNat = 2 ^ 30))),
      waitg base 5 (fun x => x.isNone), waitg (grids none base) 0 (fun x => x.elim false (fun g => g.status.isNone)),
      waitg (grids (some 7) base) 0 (fun x => x.elim false (fun g => g.status == some 7))] = true := by decide +kernel

/-- SEMW at its bound and below it, SEMSET of the last semaphore, IRQ of the last vector, a jump and calls with seven and eight frames, a
return, FENCEQ, HALTQ, and kicks of an engine that is enabled and of one that is not. -/
theorem witness_QueueProgramsComplete_clauses :
    let o := qOps 0 .none (w 3) (w 4) .none
    let ab := fun o l k => can (on engine o (wIs l)) engine qAB .int (fun v => k v)
    let fr := fun n (s : State) => s.modEngine 0 (fun e => { e with frames := List.replicate n (true, 0, 0, 0x1000) })
    let jump := fun n => executes (on engine (qOps 1 .none .none (w 3) .none) id) engine qB &&
      (programAt ((on engine (qOps 0 .none .none (w 3) .none) (fr n)).past engine)).isOk
    let e0 := fun (s : State) (p : Engine → Bool) => (s.engines.find 0).elim false p
    each [
      ab (qOps 0 .none (w 3) (w 4) .none) [(3, 4095), (4, 0)] (fun v => needs (fun t =>
        decide ((v.b 0).bits.toNat ≤ (t.sem 1 ((v.a 0).bits.toNat % 4096)).toNat))),
      ab o [(4, 1)] (fun v => needs (fun t => decide ((t.sem 1 ((v.a 0).bits.toNat % 4096)).toNat < (v.b 0).bits.toNat))),
      ab o [(3, 4095), (4, 2 ^ 64 - 1)] (fun v => do need (!(v.b 0).poison); release),
      can (on engine (qOps 0 .none .none (w 4) .none) (wIs [(4, 2047)])) engine qB .int (fun _ => release),
      jump 0, jump 7, jump 8, e0 (fr 7 base) (fun e => decide (e.frames.length < 8)),
      e0 (fr 8 base) (fun e => decide (8 ≤ e.frames.length)),
      executes (on engine noOps id) engine noShape && e0 ((on engine noOps (fr 1)).past engine) (fun e => e.frames.length == 1),
      e0 ((on engine noOps id).past engine) (fun e => decide (e.frames = [])),
      ((on engine noOps id).past engine).fenced engine 0x7F 0 && e0 ((on engine noOps id).past engine) (fun e => e.ctl.deferred.isEmpty),
      e0 ((on engine noOps id).past engine) (fun e => e.ctl.sbuf.isEmpty && e.ctl.unack.all (· == 0)),
      ab o [(3, 0)] (fun v => do need (!(v.b 0).poison); release; needs (fun t => (t.engineRec 0).en && (t.engineRec 0).ctx == t.ctxOf engine)),
      ab o [(3, 31)] (fun v => do need (!(v.b 0).poison); release; needs (fun t => !(t.engineRec 31).en))] = true := by decide +kernel

/-- A kick, an enable that is refused by its configuration, by a bad handle or by a page that is away, and one that is not; a halted
engine enabled; a disable at a boundary and inside a WRSYS; and a ring whose pointer is one byte too far, is reached, or stands before a
packet of either lap. -/
theorem witness_EngineEventsComplete_clauses :
    let s := fun n v => ({ base with occ := .write n v, mgmt := { base.mgmt with stage := 6 } } : State)
    let eng := fun (f : Engine → Engine) (s : State) => s.modEngine 0 f
    let cfg := fun (f : Engine → Engine) => eng (fun e => f { e with en := false, sup := true, rlog := 12, hcnt := 1, htab := 64 }) (s 0 0x16C)
    let ok := fun f => let z := cfg f; let e := z.engineRec 0
      (z.putEngine 0 { e with rlog := 12, sup := true, ctx := 1, hvec := 0 }).engineConfigOk 0
    let table := fun (f : Engine → Engine) m => let z := poke 64 32 m (cfg f); let e := z.engineRec 0
      z.readTable 1 e.htab 32 (handleOk (2 ^ 64)) 0 e.hcnt
    let ring := fun (f : Engine → Engine) (s : State) => eng (fun e => f { e with prog := false, rlog := 12 }) { s with occ := .num 0 }
    let room := fun (s : State) => let e := s.engineRec 0; (e.kick + 2 ^ 32 - e.rptr) % 2 ^ 32
    let hdr := fun (h k : Nat) (p : Engine → Nat → Bool) =>
      let z := ring (fun e => { e with kick := k, rptr := 0 }) (poke 0 4 h base)
      match z.asUnit engine noOps (codeRead 0 0 .rd) with
      | .ok (x, _) => decide (0 < room z ∧ room z ≤ 4096) && p (z.engineRec 0) x.toNat
      | .error _ => false
    each [
      decide ((s 31 64).occ = .write 31 64) && !base.mgmt.recov,
      { State.reset with mgmt := { State.reset.mgmt with recov := true } }.mgmt.recov,
      !ok (fun e => { e with hcnt := 257 }), ok id,
      (match table id (2 ^ 135) with | .bad 0 _ => true | _ => false), (match table id 0 with | .ok [0] _ => true | _ => false),
      (match table (fun e => { e with htab := 2 ^ 30 }) 0 with | .park .. | .bad .. => true | _ => false),
      ((eng (fun e => { e with state := 3 }) (s 0 0x16C)).engineRec 0).state == 3, ((s 0 0).engineRec 0).sysop.isNone,
      ((eng (fun e => { e with sysop := some (4, 1) }) (s 0 0)).engineRec 0).sysop.isSome,
      room (ring (fun e => { e with kick := 4097, rptr := 0 }) base) == 4097,
      room (ring (fun e => { e with kick := 64, rptr := 64 }) base) == 0,
      hdr 0 4096 (fun e x => bit x 31 == bit e.rptr 12),
      hdr (2 ^ 31 + 2 ^ 30) 64 (fun e x => bit x 31 != bit e.rptr 12 && bits x 30 4 != 0),
      hdr (2 ^ 31 + 15) 64 (fun e x => bit x 31 != bit e.rptr 12 && bits x 30 4 == 0 && x % 16 == 15),
      hdr (2 ^ 31) 64 (fun e x => bit x 31 != bit e.rptr 12 && bits x 30 4 == 0 && x % 16 == 0)] = true := by decide +kernel

/-- A selector: group, index, context and word (R365). -/
def selOf (g i c w : Nat) : Nat := g + 2 ^ 8 * i + 2 ^ 16 * c + 2 ^ 24 * w

/-- A 64-bit and the last 32-bit special register, a poll of the end bits, every way RDSYS and WRSYS can go at the last word of a block
and one past it, and a range of no bytes and of one. -/
theorem witness_SystemInstructionsComplete_clauses :
    let s := fun (l : List (Nat × Nat)) o prep => on engine o (fun s => prep (wIs (l.map (fun x => (x.1, BitVec.ofNat 64 x.2))) s))
    let rd := fun x k => can (s [(3, x)] (qOps 0 (w 1) (w 3) .none .none) id) engine { b := 0, c := 0 } .int (fun v =>
      needs (fun t => k t (v.a 0).bits && (t.partOfEngine 0).isSome))
    let part := fun (t : State) (p : Partition → Bool) => (t.partOfEngine 0).elim false (fun q => p q.2)
    let wr := fun x y k => can (s [(3, x), (4, y)] (qOps 0 .none (w 3) (w 4) .none) id) engine qAB .int (fun v => needs (fun t =>
      part t (fun p => let sel := (v.a 0).bits; let x := (v.b 0).bits
        !selBad sel true && t.selCtxOk p sel (x.getLsbD 0) && k t p sel x)))
    let bare := fun x k => can (s [(3, x), (4, 0)] (qOps 0 .none (w 3) (w 4) .none) id) engine qAB .int (fun v =>
      needs (fun t => part t (fun p => k t p (v.a 0).bits)))
    let beyond := fun a b => can (s [(3, a), (4, b)] (qOps 0 .none (w 3) (w 4) .none) id) engine qAB .int (fun v =>
      needs (fun t => part t (fun p => (v.b 0).bits != 0 && decide (Desc.iaend p.desc < (v.a 0).bits.toNat + (v.b 0).bits.toNat))))
    let range := fun a b => (rangeFence ((s [(3, a), (4, b)] (qOps 0 .none (w 3) (w 4) .none) id).past engine)).isOk
    let none0 : Shape := { a := 0, b := 0, c := 0 }
    each [
      can (rr 8 (g 2) .none .none .none) thread { none0 with d := 2 } .int (fun _ => writes 2 Val.zero),
      can (rr 127 (g 2) .none .none .none) thread { none0 with d := 1 } .int (fun _ => writes 1 Val.zero),
      (base.teams.find 0).isSome && (base.exs.find (exKey 0 15)).isSome,
      can (rr 10 .none (g 1) .none .none) thread { d := 0, b := 0, c := 0 } .int (fun _ => pure ()),
      can (s [(3, selOf 4 0 1 7)] (qOps 0 (w 1) (w 3) .none .none) id) engine { b := 0, c := 0 } .int (fun v => do
        needs (fun t => part t (fun p => !selBad (v.a 0).bits false && t.selCtxOk p (v.a 0).bits false)); writes 1 Val.zero),
      rd (selOf 4 0 1 8) (fun _ x => selBad x false),
      rd (selOf 4 0 255 7) (fun t x => part t (fun p => !selBad x false && !t.selCtxOk p x false)),
      wr (selOf 1 15 1 2) 0 (fun _ _ x _ => Sel.stages x),
      wr (selOf 4 0 1 1) 3 (fun t p x y => !Sel.stages x && t.sysRefused 0 p x y),
      wr (selOf 4 0 1 5) 0 (fun t p x y => !Sel.stages x && !t.sysRefused 0 p x y && t.plainWrite x y),
      wr (selOf 4 0 1 1) 4 (fun t p x y => !Sel.stages x && !t.sysRefused 0 p x y && !t.plainWrite x y),
      bare (selOf 4 0 1 8) (fun _ _ x => selBad x true), bare (selOf 4 0 255 1) (fun t p x => !selBad x true && !t.selCtxOk p x false),
      range 0 0, range 4095 1,
      -- a range that ends past the partition's, and one that passes the address space
      beyond (2 ^ 51) (2 ^ 51 - 1), beyond (2 ^ 52 - 1) 2] = true := by decide +kernel

/-- RESUMET on a context that does not run, under a ticket that names none, and each of its operations on a thread stopped by TRAP, at the
end of its program, or at a token; its .jump to a word and beside one. -/
theorem witness_ResumeComplete_clauses :
    let o := fun (b : Field) => qOps 12 (w 1) (w 3) b .none
    let by' := fun (t : TrapInfo) len (s : State) => s.takeTrap thread t len
    let tk := fun (s : State) => match (s.context 1).traps with
      | r :: _ => s.modEngine 0 (fun e => { e with w := e.w.set 3 (r.ticket, false) })
      | [] => s
    let op := fun prep (b : Bool) x (p : Agent → TrapRec → W64 → State → Bool) =>
      can (on engine (o (if b then w 4 else .none)) (fun s => tk (prep (wIs [(4, x)] s)))) engine { b := if b then 1 else 0, c := 0 } .int
        (fun v => do
          release
          needs (fun t => t.running 1 && match t.stoppedUnder 1 (v.a 0).bits with
            | some (u, r) => p u r (v.b 0).bits t
            | none => false)
          writes 1 Val.zero)
    let trapped := by' (tinfo 5 7) 1
    let token := by' { tinfo 0x30 1 with port := some 2 } 1
    each [
      can (on engine (o .none) (fun s => s.modCtx 1 (fun c => { c with cstate := 3 }))) engine { b := 0, c := 0 } .int (fun _ => writes 1 Val.zero),
      can (on engine (o .none) id) engine { b := 0, c := 0 } .int (fun v => do
        needs (fun t => (t.stoppedUnder 1 (v.a 0).bits).isNone); writes 1 Val.zero),
      op trapped true 9 (fun u _ x t => (wregOp u 12 ⟨x, false⟩ t).isOk),
      op trapped true 9 (fun u _ x t => (wregOp u 127 ⟨x, false⟩ t).isOk),
      op (by' { tinfo 5 7 with done := true } 1) false 0 (fun _ r _ _ => r.info.done), op trapped false 0 (fun _ r _ _ => !r.info.done),
      op (by' (tinfo 5 7) 3) false 0 (fun _ r _ _ => r.len0 == 3), op (by' (tinfo 5 7) 2) false 0 (fun _ r _ _ => r.len0 == 2),
      op trapped true 9 (fun _ r _ _ => r.info.code != 0x30), op token true 9 (fun _ r _ _ => r.info.code == 0x30 && !r.info.deferred),
      op trapped true 3 (fun _ _ x _ => x.toNat % 4 != 0), op trapped true (2 ^ 32 - 4) (fun _ _ x _ => x.toNat % 4 == 0),
      op trapped false 0 (fun u _ _ _ => u == thread)] = true := by decide +kernel

/-- A commit of each group that is accepted and one that is refused; an engine that stops and one that goes on; the last word of a domain,
changed and as it was; a context created and destroyed; a switch that must wait and one that need not; and both rings, empty and not,
with a page that is there and one that is away. -/
theorem witness_SystemEventsComplete_clauses :
    let commit := fun (g i c wd x : Nat) (p : State → Partition → W64 → W64 → Bool) =>
      let v : W64 := BitVec.ofNat 64 (selOf g i c wd)
      let s := { base.modEngine 0 (fun e => { e with sysop := some (v, BitVec.ofNat 64 x) }) with occ := .num 0 }
      (s.partOfEngine 0).elim false (fun q => s.running 1 && Sel.group v == g && Sel.word v == wd && !v.getLsbD 63 &&
        p s q.2 v (BitVec.ofNat 64 x))
    let ok := fun (s : State) p v x => !s.sysRefused 0 p v x
    let no := fun (s : State) p v x => s.sysRefused 0 p v x
    let part := fun (p : Partition → Bool) => (base.partOfEngine 0).elim false (fun q => p q.2)
    let dom := fun (p : Partition) v x => domainOfWords (p.domains.getD 0 {}) (base.staged p (base.engineRec 0) v x)
    let same := fun (p : Partition) v x => let d := dom p v x; let o := p.domains.getD 0 {}
      decide (o.hmr = d.hmr ∧ o.v = d.v ∧ o.dbase = d.dbase ∧ o.dend = d.dend)
    let busy := fun (s : State) => s.modPart 0 (fun p => { p with domains := p.domains.modify 0 (fun d => { d with busy := true, gen := 1, was := some (1, 0, 1) }) })
    let load : Req := { farLoad .walking with gen := 0 }
    let ring := fun n h (s : State) => (s.takeTrap thread (tinfo 5 7) 1).modCtx 1 (fun c => { c with trlog := 4, trbase := n, trtail := h })
    let posts := fun (s : State) (p : Except _ State → Bool) => let c := s.context 1
      match c.traps with
      | r :: _ => decide (c.trlog ≠ 0 ∧ (c.trtail - c.trhead).toNat ≠ 2 ^ c.trlog) &&
        p (s.structWrite 1 (c.trbase * 128 + 128 * (c.trtail.toNat % 2 ^ c.trlog)) r.bits 128)
      | [] => false
    let faulted := (base.noteFault 1 5 0 0 false).modCtx 1 (fun c => { c with frlog := 4, frbase := 16 })
    each [
      commit 1 0 1 0 64 no, commit 1 15 1 0 0 ok, commit 3 63 0 0 0 ok, commit 5 0 0 11 1 no, commit 4 0 1 1 16 ok, commit 4 0 1 1 17 no,
      commit 4 0 1 2 0 ok, commit 4 0 1 3 0 no, commit 4 0 1 4 0 ok, commit 4 0 1 6 4095 no, commit 4 0 2 0 1 ok, commit 4 0 1 0 0 no,
      (base.modEngine 0 (fun e => { e with stopping := true })).engineRec 0 |>.stopping, !(base.engineRec 0).stopping,
      part (fun p => same p (BitVec.ofNat 64 (selOf 2 0 0 8)) (BitVec.ofNat 64 (1 + 2 ^ 23))),
      part (fun p => !same p (BitVec.ofNat 64 (selOf 2 0 0 8)) 0 && !base.sysRefused 0 p (BitVec.ofNat 64 (selOf 2 0 0 8)) 0 &&
        !(p.domains.getD 0 {}).busy),
      commit 1 15 1 0 0 (fun _ _ v _ => Sel.group v == 1), (base.context 1).v && !(base.context 2).v, (base.parts.find 0).isSome,
      (let s : State := { busy base with reqs := [(0, load)] }
       ((s.parts.find 0).map (fun p => p.domains.getD 0 {})).elim false (fun d => d.busy && s.acceptedBefore 0 d load && (s.walkRequest 0 false).isSome)),
      ((busy base).parts.find 0).elim false (fun p => (p.domains.getD 0 {}).busy) && (busy base).reqs.isEmpty && (busy base).l2.isEmpty,
      posts (ring 8 0 base) (fun x => x.isOk), posts (ring 8 15 (base.modCtx 1 (fun c => { c with trhead := 14 }))) (fun x => x.isOk),
      posts (ring (2 ^ 23) 0 base) (fun x => match x with | .error (.page _ _ _) => true | _ => false),
      (let c := faulted.context 1
       ((heldRecords faulted.frecs).find? (fun f => f.ctx == 1 && f.slot.isNone)).elim false (fun f =>
        decide (c.frlog ≠ 0 ∧ (c.frtail - c.frhead).toNat ≠ 2 ^ c.frlog) && (faulted.structWrite 1 (c.faultAt c.frtail) f.bits 32).isOk))] =
    true := by decide +kernel

/-- The leaf of the first GiB. -/
def leafIs (lo hi : W32) (s : State) : State := { s with mem := pokeBytes s.mem 0x20000 (bytesOf lo ++ bytesOf hi) }
/-- Request 0, and the event of it. -/
def reqs (l : List (Nat × Req)) (s : State) : State := { s with reqs := l, occ := .num 0 }
def domIs (d : Domain) (s : State) : State := s.modPart 0 (fun p => { p with domains := d :: List.replicate 7 {} })

/-- A request in a domain as it was, one that moves, and one under an older generation; an L1 hit at the end of a line; every outcome at
the walk unit, before and after the host's answer; replies to a register, to a port and of a store; a request in a core's own store. -/
theorem witness_RequestEventsComplete_clauses :
    let sent := { farLoad .sent with ia := 2 ^ 30 - 4 }
    let dom : Domain := { hmr := 1, v := true, dbase := 0, dend := 1 }
    let at' := fun (d : Domain) (r : Req) (p : Domain → Bool) =>
      let s := domIs d base
      ((s.partOf r.ctx).bind (fun q => q.2.domainAt r.ia)).elim false p
    let line := fun (r : Req) (s : State) => s.modCore 0 (fun c => { c with l1 := [(r.ia / 64, ⟨7, 1, 16⟩)] })
    let store : Req := { farLoad .walking with kind := .store 5 false, landing := .none }
    let served := fun (prep : State → State) (r : Req) (ok : Served → Bool) =>
      let s := prep base
      r.phase == .walking && (s.partOf r.ctx).elim false (fun q =>
        let q' := match s.walk (q.2.under r.gen r.ia) r.ia with
          | .leaf e _ => { r with attr := some (attrOf r.order e) }
          | _ => r
        s.inOrder 0 q' && ok (s.serve q.1 (q.2.under r.gen r.ia) (s.walk (q.2.under r.gen r.ia) r.ia) q'))
    let held := fun (s : State) => { s with mgmt := { s.mgmt with hostHeld := NatSet.add [] 1 } }
    let far := fun (r : Req) => { r with space := 5, peer := true }
    let own : Req := { store with space := 1, ia := (Loc.spad 0 4).key, phase := .sent }
    let done := fun (r : Req) p => let s := reqs [(0, r)] base; !r.open && s.lands r && p s r
    each [
      at' dom sent (fun d => d.gen == sent.gen && !d.moves sent.ia),
      at' { dom with hmr := 2, busy := true, was := some (1, 0, 1) } sent (fun d => d.gen == sent.gen && d.moves sent.ia),
      at' { dom with gen := 1 } sent (fun d => d.gen != sent.gen),
      sent.l1Load && (line sent base).inOrder 0 sent && (((line sent base).core 0).l1.find (sent.ia / 64)).isSome,
      (farLoad .nacked).phase == .nacked,
      served (leafIs 0x40000001 0 ∘ domIs {}) (farLoad .walking) (fun x => match x with | .fail _ => true | _ => false),
      served (leafIs 0x40000003 0) store (fun x => match x with | .fail t => t.sub == 3 | _ => false),
      served (leafIs 0 0) (farLoad .walking) (fun x => match x with | .park 0 1 30 => true | _ => false),
      served (leafIs 0x40000009 0) { store with ia := 2 ^ 30 - 4 } (fun x => match x with | .park 0 2 30 => true | _ => false),
      served (domIs { dom with hmr := 2, busy := true, was := some (1, 0, 1) }) (farLoad .walking) (fun x => match x with | .busy => true | _ => false),
      served (leafIs 0x40000081 0x00500000) (far (farLoad .walking)) (fun x => match x with | .peer 5 _ _ => true | _ => false),
      (({ base with mgmt := { base.mgmt with fidSet := true } } : State).sendRemote 0 (far (farLoad .walking)) 5 64).isSome,
      served held store (fun x => match x with | .snoop => true | _ => false),
      served (fun s => (held s).hostGives 64 4) store (fun x => match x with | .ok .. => true | _ => false),
      served id (farLoad .walking) (fun x => match x with | .ok 0 _ _ => true | _ => false),
      done (farLoad (.done 5 false)) (fun _ r => r.returns), done { farLoad (.failed (tinfo 0x10 1)) with landing := .line 0 3 } (fun s r =>
        r.returns && decide (s.tokens (s.coreOfPort 0) < 256)),
      done { farLoad (.done 5 false) with landing := .port 0 1 2 } (fun _ r => r.returns),
      done { store with phase := .done 0 false } (fun _ r => !r.returns),
      own.phase == .sent && !globalSpace own.space && base.inOrder 0 own && !own.returns && (reqs [(0, own)] base).lands own,
      { own with kind := .load, landing := .apS 0 0 3 }.returns,
      store.owner == .unit accessUnit && (base.ctl accessUnit).elim false (fun c => decide (store.cls < c.unack.length))] =
    true := by decide +kernel

/-- Link 2 is in service to device 9, this device being 4, and the table's entry for that device: six links away over it. -/
def linked (s : State) : State := { s with links := [(2, { up := true, peerFid := some 9 })], mgmt := { s.mgmt with fidSet := true, fid := 4 } }
def routed (s : State) : State := { s with routes := [(9, BitVec.ofNat 64 (2 ^ 32 + 0xE2))] }

/-- A packet and an answer of other devices at the last hop index from which device 9 can be reached. -/
theorem witness_FabricEventsComplete_routes (p : Packet) (h : p.dst = 9) (h0 : p.hop = 0) : (routed (linked base)).route p = .link 2 := by
  have hr : (routed (linked base)).routes.get 9 0 = BitVec.ofNat 64 (2 ^ 32 + 0xE2) := by decide +kernel
  have he : (routed (linked base)).eligible (BitVec.ofNat 64 (2 ^ 32 + 0xE2)).toNat 0 = [0xE2] := by decide +kernel
  have hm : Route.mode (BitVec.ofNat 64 (2 ^ 32 + 0xE2)).toNat = 1 := by decide +kernel
  have hb : [0xE2].filter (fun x => Route.count x == [0xE2].foldl (fun m x => min m (Route.count x)) 7) = [0xE2] := by decide +kernel
  simp only [State.route, State.chooseHop, h, h0, hr, hm, he, hb, List.length_singleton, Nat.mod_one]
  rfl

/-- A packet from a device without a number, without an export, with one to its last byte that is performed, fails, waits or parks, and a
pair; a request out at a peer; and a packet of two other devices with a next hop, without one, and while this device has no id. -/
theorem witness_FabricEventsComplete_clauses :
    let p : Packet := { src := 3, rid := 0, hop := 0, dst := 0, ia := 2 ^ 21 - 4, size := 4, kind := .load, ptag := none, thread := 0 }
    let x := fun ro => BitVec.ofNat 128 (place 1 31 + place 3 32 + (if ro then 0 else place 1 44) + place 1 45 + place 1 64)
    let exp := fun (s : State) => { s.modPart 0 (fun q => { q with exports := x false :: List.replicate 63 0 }) with mgmt := { s.mgmt with fidSet := true } }
    let at' := fun (prep : State → State) (p : Packet) (ok : Served → Bool) =>
      let s := exp (prep base)
      s.mgmt.fidSet && (s.admitAll p).elim false (fun a => a.1 == 0 && ok (s.serve a.1 a.2.1 (s.walk a.2.1 p.ia) (reqOfPacket p a.2.2)))
    let far := { farLoad (.remote 5 64 100 16) with space := 5 }
    let t : Transit := ⟨.answer, 3, 9, 0, 0, 0, 0⟩
    each [
      !base.mgmt.fidSet, (base.admitAll p).isNone, at' id p (fun x => match x with | .ok .. => true | _ => false),
      at' (leafIs 0x40000003 0) { p with kind := .store 5 false } (fun x => match x with | .fail _ => true | _ => false),
      at' (leafIs 0x40000041 0) p (fun x => match x with | .fail _ => true | _ => false),
      at' (leafIs 0x40000005 0) p (fun x => match x with | .park .. => true | _ => false),
      at' (domIs { hmr := 2, v := true, dbase := 0, dend := 1, busy := true, was := some (1, 0, 1) }) p (fun x => match x with | .busy => true | _ => false),
      ((exp base).admitAll { p with kind := .pair false [(0, 64)] [(2 ^ 21 - 64, 2 ^ 21)] }).isSome,
      ((exp base).admitOf p).isSome, far.phase == .remote 5 64 100 16, far.loads && !far.writes,
      !base.isSelf 9,
      (match (linked base).route { p with dst := 9 } with | .none => true | _ => false),
      (match (linked base).route (transitPacket t) with | .none => true | _ => false)] = true := by decide +kernel

/-- A proposal for one team of grid 1, on a core that is free or on core 0, whose registers and queue memory are taken. -/
def proposing (core : Nat) (f : Proposal → Proposal) (s : State) : State :=
  { waitingGrid s with props := [(7, f { gid := 1, place := [⟨0, 0, core, 1, 0⟩], restore := false })], occ := .num2 7 core }

/-- Every execute thread of the team with a status; its access thread has exited. -/
def allIn (st : Status) (s : State) : State :=
  { s with
    exs := s.exs.map (fun x => (x.1, { x.2 with ctl := { x.2.ctl with status := st } })),
    aps := s.aps.map (fun x => (x.1, { x.2 with ctl := { x.2.ctl with status := .exited } })) }

/-- A first proposal, one that may not be made and one made again; a round with 63 sequences under way, a backoff at its end and a clock
before; a grant, a refusal and what dispatch hears of each; a commit of the last core; a team's start, at its stagger; its end in both
steps and with its pool out; and its grid's. -/
theorem witness_PlacementComplete_clauses :
    let p := fun core f (k : State → Proposal → Bool) =>
      let s := proposing core f base
      (s.props.find 7).elim false (k s)
    let fits := fun core (s : State) p => let qs := s.placesOn p core
      coreHolds (qs.map (fun q => (s.propRecord p, q.spbase)) ++ s.heldOn core) && s.bcsAllows p core
    let heard := fun (p : Proposal) core => p.state == 1 && !p.answered.has core
    let may := fun core (s : State) => (s.grids.find 1).elim false (fun g => s.mayPropose 1 g false [⟨0, 0, core, 1, 0⟩])
    let gone := allIn .exited
    let ends := fun (s : State) (k : Team → Bool) => s.teamDone 0 && s.running 1 && (s.teams.find 0).elim false (fun t => t.placed && t.started && k t)
    let slot := fun n (s : State) => { s with slots := [(0, BitVec.ofNat 512 n)] }
    let back := fun (s : State) (t : Team) => s.poolBack 0 t && t.coreList.all (fun c => (s.core c).owner != some 0) && !s.buffered (· == 0)
    let starts := fun (last : Nat) (s : State) => { (s.modTeam 0 (fun t => { t with started := false })) with
      grids := s.grids.put 0 { bootGrid with lastStart := some last } }
    each [
      (waitingGrid base).proposalOf 1 == none && may 1023 (waitingGrid base), !may 1024 (waitingGrid base),
      p 1 id (fun s p => p.state == 0 && p.settled && (s.proposalOf 1).isSome), (waitingGrid base |> may 1),
      p 1 id (fun s p => p.state == 0 && p.settled && decide (s.sequences 7 < 64)),
      p 1 (fun p => { p with state := 2, deadline := base.now }) (fun s p => p.state == 2 && p.settled && decide (p.deadline ≤ s.now)),
      p 1 (fun p => { p with state := 2, deadline := base.now + 1 }) (fun s p => p.state == 2 && p.settled && decide (s.now < p.deadline)),
      p 1 (fun p => { p with state := 1, out := [1] }) (fun s p => p.out.has 1 && fits 1 s p),
      p 0 (fun p => { p with state := 1, out := [0] }) (fun s p => p.out.has 0 && !fits 0 s p),
      p 1 (fun p => { p with state := 1, granted := [1] }) (fun _ p => heard p 1 && p.granted.has 1),
      p 0 (fun p => { p with state := 1, refused := [0], sincePlaced := 3 }) (fun _ p => heard p 0 && !p.granted.has 0 && p.refused.has 0),
      p 1 (fun p => { p with state := 2, granted := [1] }) (fun _ p => p.state == 2 && p.granted.has 1),
      (base.grids.find 0).isSome,
      p 1 (fun p => { p with state := 1, granted := [1], answered := [1] }) (fun s p => (s.propCores p).has 1 && !p.bound.has 1 &&
        (s.propCores p).all (fun c => p.granted.has c && p.answered.has c) && (s.propCores p).all (p.bound.add 1).has),
      p 1 (fun p => { p with state := 3, place := p.place ++ [⟨0, 1, 2, 1, 0⟩] }) (fun s p => (s.propCores p).has 1 && !p.bound.has 1 &&
        !(s.propCores p).all (p.bound.add 1).has),
      ((starts base.now base).teams.find 0).elim false (fun t => t.placed && !t.started && (starts base.now base).running t.ctx) &&
        ((starts base.now base).grids.find 0).elim false (fun g => decide (base.now + LRec.stagger g.record ≤ base.now)),
      ends (slot 4 (gone base)) (fun t => !t.slotList.all (fun i => ((slot 4 (gone base)).slots.get i 0).toNat % 256 == 5)),
      ends (slot 5 (gone base)) (fun t => t.slotList.all (fun i => ((slot 5 (gone base)).slots.get i 0).toNat % 256 == 5) && back (slot 5 (gone base)) t),
      ends (slot 5 (owning (gone base))) (fun t => !back (slot 5 (owning (gone base))) t),
      (let s := { base with teams := [], grids := base.grids.put 0 { bootGrid with ended := 1 } }
       (s.grids.find 0).elim false (fun g => g.status.isNone && s.running g.ctx && g.admitted == g.count && g.ended == g.count * LRec.perCohort g.record &&
         !s.gridBusy 0))] = true := by decide +kernel

/-- A dead register; a pool stalled for one clock too few and for enough, a strip likewise; parties at a port, at a strip operation and at
the latch; a meeting that is complete; a sleep at its end and before; a polled wait; a beat period and the idle limit at their bounds. -/
theorem witness_ClockEventsComplete_clauses :
    let strip := { ({} : Strip) with regs := [⟨3, 3, 0, 0, 0, 0⟩] }
    let pool := fun n => let s := (allIn (.waiting .pool 0) base).modTeam 0 (fun t => { t with poolSince := some n })
      (s.teams.find 0).elim false (fun t => s.running t.ctx && s.poolStalled 0 t && t.poolSince == some n)
    let dec := fun n => let s := (allIn (.waiting .stripOp 0) base).modStrip 0 0 (fun x => { x with blocked := some n })
      s.running 1 && s.stripBlocked 0 && (s.strips.find 0).elim false (fun x => x.blocked == some n)
    let met := setEx (fun x => { x with meet := some (0x2000, 0xFFFF), ctl := { x.ctl with status := .held } })
      { base with exs := base.exs.map (fun x => (x.1, { x.2 with meet := some (0x2000, 0xFFFF), ctl := { x.2.ctl with status := .held } })) }
    let is := fun st => ((base.modCtl thread (fun c => { c with status := st })).ctl thread).elim false (fun c => c.status == st)
    let beat := fun pers n => let s := { base with grids := base.grids.put 0 { bootGrid with record := bootRecord ||| (BitVec.ofNat 1024 (place n 352 + place pers 227)) } }
      (s.teams.find 0).map (fun t => (LRec.pers (s.recordOf t), LRec.beat (s.recordOf t)))
    each [
      strip.regs.any (fun r => r.id == 3 && r.live == 0 && r.pend == 0), pool base.now && decide (base.now < base.now + 256),
      let s := { base with now := base.now + 256 }; pool base.now && decide (base.now + 256 ≤ s.now),
      dec base.now && decide (base.now < base.now + 2048), (base.ctl thread).isSome,
      (((latched false base).teams.find 0).elim false (fun t => t.latch.isSome)),
      (met.exs.find (exKey 0 15)).elim false (fun x => x.ctl.status == .held && x.meet == some (0x2000, 0xFFFF)) &&
        (met.missingAt 0 15 0x2000 0xFFFF).isEmpty,
      is (.sleeping base.now), is (.sleeping (base.now + 1)), is (.waiting (.word 0) 0),
      beat 1 4096 == some (true, 4096), beat 0 0 == some (false, 0)] = true := by decide +kernel

/-- A hung team; a context that can be pre-empted; an MMA chunk with its operands; the command bits kill, rreq and preq alone and
together, in every cstate they tell apart; a save area without a right header; an open pair; replies of every class that come too late,
or twice; a context whose last team is back; a stop, a kill that ends, and an error of a core and of a context that is and is not live. -/
theorem witness_PreemptionComplete_clauses :
    let chunk := queuing [mmaAt 0 0 true] (latched true (emptyImage base))
    let cmd := fun st x => let v : W64 := BitVec.ofNat 64 (selOf 4 0 2 5)
      let s := { (base.modEngine 0 (fun e => { e with sysop := some (v, BitVec.ofNat 64 x) })) with
        ctxs := base.ctxs.put 2 { bootCtx with cstate := st }, occ := .num 0 }
      (s.engines.find 0).elim false (fun e => s.running e.ctx && e.sysop == some (v, BitVec.ofNat 64 x) &&
        (s.partOfEngine 0).elim false (fun q => !v.getLsbD 63 &&
          (((s.sysWrite 0 q.1 q.2 v (BitVec.ofNat 64 x)).finishQ 0).context 2).cstate == st &&
          (st != 3 || match ((s.sysWrite 0 q.1 q.2 v (BitVec.ofNat 64 x)).finishQ 0).headerRight 2 with | .ok false => true | _ => false)))
    let inCtx := fun st (f : Context → Context) (s : State) => s.modCtx 1 (fun k => f { k with cstate := st })
    let late := fun st (r : Req) (p : State → Req → Bool) => let s := reqs [(0, r)] (inCtx st id base)
      !r.open && !r.engineOwned && (s.context r.ctx).cstate == st && p s r
    let load := farLoad (.done 5 false)
    let store : Req := { load with kind := .store 5 false, landing := .none }
    let rest := inCtx 4 (fun k => { k with saved := [] }) base
    each [
      base.running 1 && ((base.modTeam 0 (fun t => { t with hung := true })).hungTeams 1).length == 1,
      base.plans.isEmpty && (match chunk.cores with | [(0, k)] => k.queue.length == 1 | _ => false) && (chunk.mmaChunk 0).elim false (fun t =>
        (t.core 0).queue.head?.elim false (fun z => z.id == 3 && z.chunk == 1)),
      cmd 1 0x40, cmd 5 0x40, cmd 1 0x10, cmd 4 0x10, cmd 2 0x10, cmd 1 0x20, cmd 1 0x30, cmd 4 0x30, cmd 3 0x20,
      (openPairs [([(0, 64)], [(64, 128)])] base).parts.all (fun p => p.2.pairs.all (fun o => o.ctx == 1)),
      late 0 load (fun _ _ => true), late 6 store (fun _ _ => true), late 2 load (fun _ r => r.idempotent && !r.failedHere),
      late 4 load (fun _ r => r.idempotent && !r.failedHere), late 4 store (fun _ r => !r.idempotent),
      late 2 store (fun _ r => !r.idempotent),
      (rest.context 1).cstate == 4 && (rest.returned 1).isEmpty, base.plans.all (fun p => p.2.ctx != 1),
      let s := inCtx 5 (fun k => { k with dying := some 1 }) (reqs [(0, farLoad (.remoteParked 5 64 2))] base)
      (s.context 1).cstate == 5 && (s.context 1).dying.isSome && s.reqs.all (fun q => match q.2.phase with | .remoteParked .. => true | _ => false),
      bootPart.uses 0 1023 && bootPart.uses 1 0 && !bootPart.uses 1 1 && bootPart.ownsCtx 1,
      decide (1 ≤ (base.context 1).cstate ∧ (base.context 1).cstate ≤ 4), (base.context 9).cstate == 0] = true := by decide +kernel

/-- A flit and a replayed one at the bound of its check symbols and past it, the 64th that waits behind a held one, a recovery at its
deadline; requests at both ends of the replay buffer; a credit at the bound of 64; lanes and retries at their bounds. -/
theorem witness_LinkEventsComplete_clauses :
    let link := fun (f : Link → Link) => ({ State.reset with links := [(2, f { up := true })] } : State)
    let at' := fun f (p : Link → Bool) => p ((link f).link 2)
    let buf := fun (l : Link) => { l with next := 512, acked := 0, buffer := [(0, .credit 2 0), (511, .credit 2 0)] }
    let retry := fun f (p : Link → Bool) => let s : State := { link (fun l => f { l with up := false }) with mgmt := { State.reset.mgmt with linkMask := 4, stage := 4 } }
      bit s.mgmt.linkMask 2 && s.mgmt.stage != 15 && decide (4 ≤ s.mgmt.stage) && (let l := s.link 2; !l.up && !l.training && !l.disabled && p l)
    each [
      at' (fun l => { l with expect := 5 }) (fun l => l.up && l.behind.isEmpty && l.held == 0 && l.expect == 5) && Cargo.ok ⟨0, .remoteReply, .num 0⟩,
      at' (fun l => { l with held := 3 }) (fun l => l.held == 3 && l.behind.isEmpty),
      at' (fun l => { l with held := 1, holding := some ⟨13, .remoteReply, .num 0⟩ }) (fun l => l.held == 1 && l.holding.isSome),
      at' (fun l => { l with held := 2, holding := some ⟨13, .remoteReply, .num 0⟩ }) (fun l => l.held == 2 && l.holding.isSome),
      at' (fun l => { l with held := 1, behind := (List.range 63).map (fun i => (i + 1, 0, ⟨0, .remoteReply, .num 0⟩)) }) (fun l =>
        decide (l.held ≠ 0 ∧ l.expect < 64 ∧ l.behind.length < 64)),
      at' (fun l => { l with replays := 7 }) (fun l => decide (l.replays < 8)),
      at' (fun l => { l with replays := 8 }) (fun l => decide (8 ≤ l.replays)),
      at' (fun l => { l with held := 1, deadline := 0 }) (fun l => decide (l.held ≠ 0 ∧ l.deadline ≤ 0)),
      at' (fun l => { l with held := 1, deadline := 1 }) (fun l => decide (l.held ≠ 0 ∧ 0 < l.deadline)),
      at' buf (fun l => decide (l.acked ≤ 511 ∧ 511 < l.next)), at' buf (fun l => decide (l.next ≤ 512)),
      at' buf (fun l => l.waitq.isEmpty && (l.buffer.find 511).isSome),
      at' (fun l => { l with next := 64 }) (fun l => decide (l.covered < l.acked + 65)),
      at' (fun l => { l with next := 65 }) (fun l => decide (l.acked + 65 ≤ l.covered)),
      at' id (fun l => l.peerFid.isNone) && !(Outgoing.fid 2 4).notReady,
      bit 4 2 && at' (fun l => { l with up := false, training := true }) (fun l => !l.up && !l.disabled && l.training),
      retry (fun l => { l with fell := true, retrainAt := [0, 0, 0] }) (fun l => decide (3 ≤ (l.retrainAt.filter (fun t => decide (0 < t + 600 * second))).length)),
      retry (fun l => { l with fell := true, retrainAt := [0, 0] }) (fun l => decide ((l.retrainAt.filter (fun t => decide (0 < t + 600 * second))).length < 3)),
      retry (fun l => { l with trainAt := 0 }) (fun l => !l.fell && decide (0 < l.trainAt + second)),
      (let s : State := { link (fun l => { l with up := false, trainAt := 0 }) with now := second }
       !(s.link 2).fell && decide ((s.link 2).trainAt + second ≤ s.now))] = true := by decide +kernel

/-- A 32-bit write, one that is not aligned, recovery mode at the window's edge; the power limits about both bounds, every register of the
management window's head, the last engine's registers, doorbell and route entry, and stages 4, 5 and 6. -/
theorem witness_HostWritesComplete_clauses :
    let s := fun (f : Mgmt → Mgmt) => State.reset.modMgmt f
    each [
      decide (4 ≠ 8 ∨ 8 % 8 ≠ 0), decide (8 ≠ 8 ∨ 12 % 8 ≠ 0),
      (s (fun m => { m with recov := true })).mgmt.recov && decide (0x10000 ≤ 0x10000),
      !State.reset.mgmt.recov, (s (fun m => { m with mcode := 1 })).mgmt.mcode == 1, State.reset.mgmt.mcode != 1,
      clampPower 1199 == 1200 && clampPower 1200 == 1200 && clampPower 2300 == 2300 && clampPower 2301 == 2300,
      decide (5 ≤ 12 ∧ 12 ≤ 12), decide (0x1FFF < 0x2000 ∧ 12 < 0x1FFF), decide (31 < 32 ∧ 7 < 8), decide (4095 < 4096),
      (s (fun m => { m with stage := 5 })).mgmt.stage == 5, (s (fun m => { m with stage := 6 })).mgmt.stage == 6,
      (s (fun m => { m with stage := 4 })).mgmt.stage != 5,
      (0x80000FFF#64).getLsbD 31 && (0x80000FFF#64).toNat % 2 ^ 12 == 4095] = true := by
  decide +kernel

/-- The mailbox in a stage with a command and arguments. -/
def asking (stage cmd : Nat) (arg : List W64) (s : State) : State :=
  s.modMgmt (fun m => { m with on := true, stage, mcode := 1, mcmd := cmd, marg := arg, cores := [256, 256, 256, 256], stackMask := 255, linkMask := 0xF })

/-- Every command, with its first bad argument and its last good one, each refusal, and a command that is none. -/
theorem witness_MailboxComplete_clauses :
    let free := { State.reset with parts := [(0, { bootPart with domains := List.replicate 8 {} })] }
    let image := fun d (s : State) => s.writeStore (Loc.host 0).key 256 d false
    let small := bootPart.desc.toNat % 2 ^ 769
    let create := fun a b (s : State) (p : State → BitVec 2048 → Bool → Bool) =>
      let z := asking 6 2 [a, b] s
      let x := z.readStore (Loc.host (a.toNat)).key 256
      z.asked 2 && z.mgmt.stage == 6 && !z.cacheShut && p z (BitVec.ofNat 2048 x.1) x.2
    let used := fun (s : State) n => (s.parts.find n).elim false s.inUse
    let destroy := fun b (s : State) p => let z := asking 6 3 [0, b] s; z.asked 3 && z.canLeave (b.toNat % 16) && p z
    let dec := fun (l : List Nat) (s : State) => { asking 6 4 [] s with occ := .nums l }
    each [
      (asking 1 1 [] State.reset).asked 1, create 0 16 free (fun _ _ _ => true), create 128 0 free (fun _ _ _ => decide (128 % 256 ≠ 0)),
      create 0 0 (image 0 base) (fun z _ bad => !bad && used z 0),
      create 0 15 (image (2 ^ 575) free) (fun z d bad => !bad && !used z 15 && descMalformed d),
      create 0 1 (image (small + place 1 657) free) (fun z d bad => !bad && !used z 1 && !descMalformed d && z.descAbsent d),
      create 0 1 (image small free) (fun z d bad => !bad && !used z 1 && !descMalformed d && !z.descAbsent d && descsMeet d bootPart.desc),
      create 0 15 (image small State.reset) (fun z d bad => !bad && !descMalformed d && !z.descAbsent d && z.parts.isEmpty),
      destroy 16 free (fun _ => true), destroy 15 free (fun z => (z.parts.find 15).isNone), destroy 0 base (fun z => used z 0),
      destroy 0 free (fun z => !used z 0 && (z.parts.find 0).isSome), (dec [16, 0, 0, 0, 0, 0] free).asked 4,
      (dec [15, 0, 0, 0, 0, 0] free).asked 4,
      (dec [15, 0, 1, 0, 2 ^ 52, 0] free).parts.find 0 |>.elim false (fun p => !p.inIA (2 ^ 52) (2 ^ 52 + 1)),
      (dec [15, 0, 64, 0, 0, 0] free).parts.find 0 |>.elim false (fun p => p.inIA 0 64 && bit (Desc.keys p.desc) 0),
      (asking 6 5 [] free).asked 5, (asking 6 0x10 [] free).asked 0x10, (asking 6 0x11 [16] free).asked 0x11,
      (asking 6 0x11 [15] free).asked 0x11 && !bit (asking 6 0x11 [15] free).mgmt.linkMask 15, bit (asking 6 0x11 [3] free).mgmt.linkMask 3,
      decide ((asking 1 0x12 [] free).mgmt.mcmd ∉ [1, 2, 3, 4, 5, 0x10, 0x11]),
      ((asking 15 1 [] free).modMgmt (fun m => { m with recov := true })).mgmt.recov] = true := by decide +kernel

/-- Power off and each stage; a report of whole rows whose store can and cannot be read, stacks, CXL and links that train and that do not,
each stage's bound; a CXL.mem access to the end of a decoder, beside it, while IDE is down, and to a page that is not there; the flush at
60 seconds; what the patrol finds; and the throttle at its bounds. -/
theorem witness_ManagementEventsComplete_clauses :
    let s := fun (f : Mgmt → Mgmt) => State.reset.modMgmt (fun m => f { m with on := true })
    let report := fun store => ({ cores0 := 256, cores1 := 0, cores2 := 16, cores3 := 256, links := 0xFFFF, store } : BringUp)
    let dec := fun (f : Mgmt → Mgmt) (prep : State → State) => (prep base).modMgmt (fun m => f { m with decoders := [(0, 4096, 4096, 0, 0, 0)] })
    let acc : CxlAccess := { addr := 8188, size := 4, data := none }
    let side := fun prep (p : Side2 → Bool) => let z := dec id prep
      !z.cacheShut && z.decoderOf acc == some (4096, 4096, 0, 0, 0) && (z.parts.find 0).elim false (fun q => p (z.memSide q (z.walk q 4092) 4092 4 0 false false
        false false none))
    each [
      !State.reset.mgmt.on,
      [256, 0, 16, 256].all (fun n => n % 16 == 0 && decide (n ≤ 16 * Config.gridRows)) && (report true).store && !(report false).store,
      255 % 2 ^ Config.hbmStacks Config.kind != 0, 256 % 2 ^ Config.hbmStacks Config.kind == 0,
      (s (fun m => { m with stage := 3 })).mgmt.stage == 3, (s (fun m => { m with stage := 4 })).links.all (fun l => !l.2.training),
      decide ((4, 40) ∈ [(0, 2), (1, 3), (2, 12), (3, 20), (4, 40)]), (s (fun m => { m with recov := true })).mgmt.recov,
      acc.addr / 64 == (acc.addr + acc.size - 1) / 64, (dec (fun m => { m with ideNeed := true }) id).cacheShut,
      !(dec id id).cacheShut && (dec id id).decoderOf { acc with addr := 8192 } == none,
      side (leafIs 0x40000041 0) (fun x => match x with | .fail _ => true | _ => false),
      side (leafIs 0x4000000D 0) (fun x => match x with | .zeros => true | _ => false),
      side id (fun x => match x with | .go .. => true | _ => false), bootPart.domainOf 4092 |>.elim false (fun d => !d.moves 4092),
      Mgmt.loaded (s (fun m => { m with stage := 2 })).mgmt, !Mgmt.loaded State.reset.mgmt, decide (0 + 60 * second ≤ 60 * second),
      decide (ScrubResult.corrected ≠ .uncorrectable), decide (224 ≤ 224 ∧ 2300 ≤ State.reset.mgmt.plimit), decide (224 < 225),
      decide (State.reset.mgmt.plimit < 2301)] = true := by decide +kernel

/-! ### Witnesses: forms and cases beside those above -/

/-- A step that has a unit try its instruction, which can issue though it is not ready yet; one that is ready; and an engine, which needs no
turn. -/
theorem witness_StepRunsDecodedInstruction_attempts :
    let s : State := { State.reset.withFetchWord 32 0x03050808 with agenda := [.attempt thread] }
    let r := ({ s with agenda := [] } : State).modCtl thread (fun c => { c with able := true })
    each [s.canIssue thread && !s.isReady thread && !s.turnless thread && !s.atMeeting thread, r.isReady thread,
      ({ base with agenda := [.attempt engine] } : State).turnless engine] = true := by decide +kernel

/-- A strip with one register of g5, which lane 0 or none holds live. -/
def g5Strip (live : BitVec 16) : Strip := ⟨if live = 0 then [] else [(5, 0, 1)], [⟨0, 5, live, 0, 0, 0⟩], none, none⟩
def oneStrip (live : BitVec 16) (s : State) : State := { s with strips := [(stripKey 0 0, g5Strip live)], fresh := 1 }

theorem g5Strip_sound (live : BitVec 16) (h : live = 0 ∨ live = 1) : (g5Strip live).sound 1 := by
  rcases h with rfl | rfl
  · exact ⟨by decide, by decide, by simp [g5Strip, Assoc.find]⟩
  · refine ⟨by decide, by decide, ?_⟩
    intro n c hc
    by_cases hn : n = 5
    · subst hn
      obtain rfl : c = (0, 1) := by simpa [g5Strip, Assoc.find, eq_comm] using hc
      decide
    · simp [g5Strip, Assoc.find, Ne.symm hn] at hc

theorem oneStrip_sound (live : BitVec 16) (h : live = 0 ∨ live = 1) (s : State) : (oneStrip live s).stripsSound := by
  refine ⟨rfl, ?_⟩
  intro k t hk
  by_cases hn : stripKey 0 0 = k
  · obtain rfl : t = g5Strip live := by simpa [oneStrip, Assoc.find, hn, eq_comm] using hk
    exact g5Strip_sound live h
  · simp [oneStrip, Assoc.find, hn] at hk

/-- A sound strip with a register, and each thing done to a machine that has it: a write, a free, a strip operation, a team that starts and a
slot that is freed, and a half of a team loaded from its area. -/
theorem witness_StripRegistersStaySound :
    (oneStrip 1 base).stripsSound ∧ (oneStrip 0 base).stripsSound ∧ each [
      (writeRegs 0 0 [(5, 7)] false true (oneStrip 1 base)).isOk,
      goes (exec .stripRegisterFree { oneStrip 0 base with occ := .num3 0 0 0 }),
      goes (exec .stripOperation { oneStrip 1 base with occ := .num (stripKey 0 0) }),
      goes (exec .teamStart { oneStrip 1 base with occ := .num 0 }), goes (exec .slotFree { oneStrip 1 base with occ := .num 0 }),
      ((oneStrip 1 base).getRegs 1 0 0 bootTeam 0).isOk] = true :=
  ⟨oneStrip_sound 1 (.inr rfl) base, oneStrip_sound 0 (.inl rfl) base, by decide +kernel⟩

/-- Each clause of the arithmetic of finite values at a boundary: sums that are exact, round, are zero of either kind; the greatest and the
least values of the formats. -/
theorem witness_ArithmeticRoundsOnce :
    let v := fun x => (binary32.decode x).value
    (binary32.decode 0x7F7FFFFF).finite = true ∧ (binary32.decode 1).finite = true ∧ (binary64.decode (2 ^ 63)).finite = true ∧
      v 0x3F800000 + v 0x33800000 ≠ 0 ∧ v 0x3F800000 + v 0xBF800000 = 0 ∧ v 0x80000000 - v 0 = 0 ∧ v 1 * v 0x7F7FFFFF ≠ 0 ∧
      v 1 * v 0x80000000 = 0 ∧ v 0x3F800000 * v 0x3F800000 + v 0xBF800000 = 0 ∧ v 1 * v 1 + v 1 ≠ 0 ∧ v 1 - v 0x80000001 ≠ 0 := by
  decide +kernel

/-- Every kind of operand; a root that is rational, of 4, and one that is not, of 2. -/
theorem witness_ArithmeticRoundsOnce_special :
    let x := binary32.decode
    ((x 0x7F800001).isSnan = true ∧ (x 0x7FC00000).isNan = true ∧ (x 0xFF800000).isInf = true ∧ (x 0x80000000).isZero = true ∧
      (x 0xBF800000).value < 0 ∧ (x 0x3F800000).isZero = false ∧ (2 : ℚ) * 2 = (x 0x40800000).value ∧ (x 0x40000000).value = 2 ∧
      ((fmtOf 5).decode 0x7C).isInf = true ∧ ((fmtOf 8).decode 7).value ≠ 0 ∧ ((2 : BitVec 8) ≠ 0)) ∧ ∀ q : ℚ, q * q ≠ 2 := by
  refine ⟨by decide +kernel, fun q h => ?_⟩
  have : ¬IsSquare (2 : ℚ) := by decide +kernel
  exact this ⟨q, h.symm⟩

/-- The boot team in check mode, and its thread with a watched write of g1. -/
def checking (s : State) : State :=
  { s with grids := s.grids.put 0 { bootGrid with record := bootRecord ||| (1#1024 <<< 228) } }
def watching (sum : Nat) (s : State) : State := (checking s).modEx 0 0 (fun x => { x with hazards := [⟨1, 6, sum, true⟩] })

/-- A hint one clock too short on a row, on a load and on a branch; a trap's other units; the three ends of a resume. -/
theorem witness_TrapEntryReturnAndStallCheck_clauses :
    let hit := fun (o : Ops) (sh : Shape) (s : State) => let z := on thread o (fun _ => s)
      (z.exs.find (exKey 0 0)).elim false (fun x => (exGuard x z.ir).val && hazHit x.hazards z.ir sh) && LRec.check (z.recordOf bootTeam)
    each [
      hit (rrr 0 (g 3) (g 1) (g 2) .none) two1 (watching 5 base), !hit (rrr 0 (g 3) (g 1) (g 2) .none) two1 (watching 6 base),
      hit (memOps 0 (g 3) .none (g 1) .none 0) { d := 1, a := 0, b := 1, c := 0 } (watching 0 base),
      hit (rrr 0 .none (g 1) (g 2) .none) { d := 0, a := 1, b := 1, c := 0 } (watching 0 base),
      (base.ctl accessUnit).isSome, (base.ctl engine).isSome,
      hazHit (watched [⟨.iadd, { rrr 0 (g 3) (g 1) (g 2) .none with stall := 1 }, two1, true⟩]) (rrr 0 (g 4) (g 3) (g 2) .none) two1,
      !hazHit (watched [⟨.iadd, { rrr 0 (g 3) (g 1) (g 2) .none with stall := 0 }, two1, true⟩]) (rrr 0 (g 4) (g 3) (g 2) .none) two1,
      hazHit (watched [⟨.movpPut, { rrr 0 .none (g 1) (g 2) .none with stall := 1 }, { two1 with predW := [3] }, true⟩])
        (rrr 0 (g 4) .none .none .none) getShape,
      hazHit (watched [⟨.icmpf, { rrr 0 (.pred 3) (g 1) (g 2) .none with stall := 1 }, two1, true⟩]) (rrr 0 .none (g 1) (g 2) .none)
        { two1 with predW := [3] }] = true := by decide +kernel

/-- A false guard on a conversion, an immediate form, a load and a branch, on a marked source, on an .adv port with a row, and in check mode;
an access thread with no active lane, and with a poisoned mask. -/
theorem witness_GuardFalse_clauses :
    let off := fun (o : Ops) (prep : State → State) => on thread { o with pred := 1 } prep
    let false' := fun (s : State) => (s.exs.find (exKey 0 0)).elim false (fun x => decide (exGuard x s.ir = ⟨false, false⟩))
    let adv := { port .acc [fullRow] with adv := true }
    let z := off (rrr 0 (g 3) port2 (g 2) .none) (bound 2 adv)
    let ap := fun (m : MaskReg) => on accessUnit { memOps 1 (.reg (.a 3) false) .none (.reg (.a 1) false) .none 0 with pred := 1 }
      (fun s => s.modAp 0 0 (fun x => { x with m := x.m.set 1 m }))
    each [
      false' (off (rrr 0x90 (g 3) (g 1) .none .none) id), false' (off (rrr 0 (g 3) (g 1) (.imm 31) .none) id),
      false' (off (memOps 0 (g 3) .none (g 1) .none 0) id), false' (off ⟨.w64, 7, false, 0, .none, .none, .off 4, .none, 0, 0⟩ id),
      marksIn (off (rrr 0 (g 3) (.reg (.g 1) true) (g 2) .none) id).ir two1 == [1],
      false' z && srcPorts z.ir two1 != [] && (advPops two1 (z.past thread)).isOk,
      false' (off (rrr 0 (g 3) (g 1) (g 2) .none) checking) && LRec.check ((off noOps checking).recordOf bootTeam),
      ((ap ⟨0, false⟩).aps.find (stripKey 0 0)).elim false (fun x => decide (apGuard x (ap ⟨0, false⟩).ir = ⟨0, false⟩)),
      ((ap ⟨0, true⟩).aps.find (stripKey 0 0)).elim false (fun x => (apGuard x (ap ⟨0, true⟩).ir).poison)] = true := by decide +kernel

/-- A joint instruction that the thread passes, and a group load onto an sline port with no lane. -/
theorem witness_GuardFalse_joint :
    let s := on thread { rrr 0 (g 3) (g 1) .none (g 2) with pred := 1 } (setEx (fun x => { x with ctl := { x.ctl with solo := some 4096 } }))
    let p := { port .acc [] with mode := .sline }
    let y := on accessUnit { memOps 1 port2 .none (.reg (.a 1) false) .none 0 with pred := 1 }
      (fun s => bound 2 p (s.modAp 0 0 (fun x => { x with m := x.m.set 1 ⟨0, false⟩ })))
    let after := doing .xred thread s.ir (setEx (fun x => { x with ctl := { x.ctl with solo := some 4096 } }) base)
    each [
      (s.exs.find (exKey 0 0)).elim false (fun x => decide (exGuard x s.ir = ⟨false, false⟩)) && (advPops (jointShape .xred s.ir)
        (s.past thread)).isOk,
      (after.exs.find (exKey 0 0)).elim false (fun x => decide (x.pass = some 4096 ∧ x.ctl.solo = none ∧ x.ctl.pc = 4104)),
      (y.ports.find (portKey (stripKey 0 0) (objPort y.ir.d))).any (fun p => p.kind == .acc && p.mode == .sline),
      !({ y with ports := [] } : State).ports.any (fun p => p.2.kind == .acc)] = true := by decide +kernel

/-- The FPE traps of a conversion, of both comparisons and of FCHK, in a team that traps NV. -/
theorem witness_FloatingRowsComplete_fpe :
    let sNaN : State → State := fun s => gIs 1 0x7FA00000 false (trapsNV s)
    let wide : State → State := fun s => gIs 3 0x7FF40000 false (trapsNV s)
    each [
      can (rr 0x90 (g 3) (g 1) .none .none sNaN) thread (cvtShape 0x90) .int (fun v => needs (fun t =>
        !v.bad 0 && (f2iV 0x90 (v.a 0).bits.toNat).flags &&& t.enabled thread != 0)),
      can (rr 0 (.pred 2) (g 1) (g 1) (.pred 1) sNaN) thread { a := 1, b := 1, c := 0 } .int (fun v => do
        discard (readPred (.pred 1))
        needs (fun t => (cmpV 0 false (binary32.decode (v.a 0).bits.toNat) (binary32.decode (v.b 0).bits.toNat)).2 &&& t.enabled thread != 0)),
      can (rr 0 (.pred 2) (g 2) (g 2) (.pred 1) wide) thread { a := 2, b := 2, c := 0 } .binary64 (fun v => do
        discard (readPred (.pred 1))
        needs (fun t => (cmpV 0 false (binary64.decode (v.a 0).bits.toNat) (binary64.decode (v.b 0).bits.toNat)).2 &&& t.enabled thread != 0)),
      can (rr 0 (.pred 2) (g 1) .none .none sNaN) thread { a := if fmt64 0 then 2 else 1, b := 0, c := 0 } .int (fun v => needs (fun t =>
        ((fmtOf 0).decode (v.a 0).bits.toNat).isSnan && (fNV &&& t.enabled thread != 0)))] = true := by decide +kernel

/-- A handle of a kind and a width that the instruction does not take; a place word that is malformed, names no core of the grid, names a
core without a team of the cohort, and one with; a poisoned place. -/
theorem witness_AccessChecks_handles :
    let h := fun (space kind ew : Nat) => (BitVec.ofNat 256 (place 256 64 + place space 128 + place kind 131 + place ew 140) : Handle)
    let w := wordWant 1 .wr [1, 2]
    let s := on thread (memOps 1 (g 3) (g 2) (.lit 0) (g 4) 0) (fun s => neighbour (gridWith [h 2 0 2] s))
    let at' := fun (x : Nat) => s.placeTarget thread 1 (BitVec.ofNat 64 x)
    each [
      !(w.kinds.contains (Hnd.kind (h 1 5 2))), w.kinds.contains (Hnd.kind (h 1 0 1)) && !({ w with widths := [2, 3] }.widths.contains (Hnd.ew (h 1 0 1))),
      (checkHandle .exec w (s.handleOf thread 1) false true).isOk && (s.teamOf thread).isSome,
      !(at' 0x10000).isOk, (s.coreAt 0 (-1) 0).isNone && !(at' 0xFF).isOk, (s.coreAt 0 2 0).isSome && !(at' 2).isOk,
      (at' 1).isOk, (at' 0).isOk, !(readEx (gIs 4 0 true s) 0 0 (.g 4) 1).poison == false] = true := by decide +kernel

/-- ATOMS of an access thread on a word of its window, of global memory and of a compare and swap. -/
theorem witness_AccessLoadsComplete_atoms :
    let atom := fun (hx : BitVec 8) (sel : BitVec 4) => memOps hx (.reg (.a 3) false) (.reg (.a 2) false) (.reg (.a 1) false) .none sel
    let sh : Shape := { d := 1, a := 1, b := 1, c := 1 }
    let want := fun n => { wordWant n .both [0, 1, 2] with kinds := kFlat, widths := [2, 3] }
    let far := on accessUnit (atom 1 0) (gridWith [globalHandle])
    let cas := on accessUnit (atom 1 9) (gridWith [globalHandle])
    let own := on accessUnit (atom 0 0) id
    each [
      can far accessUnit sh .offset (fun v => do
        let rs ← accesses (want 1) v (List.range 16) true true true
        needs (fun t => t.replyRoom accessUnit rs.length)),
      (readDest 1 (cas.past accessUnit)).isOk,
      can cas accessUnit sh .offset (fun v => do discard (accesses (want 1) v (List.range 16) true true true)),
      can own accessUnit sh .offset (fun v => do
        let rs ← accesses (want 0) v (List.range 16) true true true
        let t ← get
        discard (rs.mapM (fun y => do
          pure (y.1, ← doOwn (t.reqOf accessUnit y.2 (.atomic 0 32 (v.a y.1).bits 0 true) 0x1000 y.1 .none))))
        writes 1 Val.zero)] = true := by decide +kernel

/-- SQ, REDQ and SQS of a row with a poisoned element, and SQS past the end of the stream, by elements and by lines. -/
theorem witness_QueueStoresComplete_poison :
    let sh : Shape := { d := 0, a := 0, c := 0 }
    let bad := port .store [(.data 7 true) :: List.replicate 15 (.data 7 false)]
    let o := memOps 1 .none port2 (.reg (.a 1) false) .none 0
    let oS := memOps 1 .none port2 (.lit 0) .none 0
    let past := fun (p : Port) (size al : Nat) => can (on accessUnit oS (stored · p)) accessUnit sh .offset (fun v => do
      checkPorts sh
      need (p.past p.apop)
      discard (spots { lqWant 1 size with kinds := kTile, need := .wr, offAlign := al } { v with a := fun _ => Val.zero } [0] false true false))
    each [
      can (on accessUnit o (stored · bad)) accessUnit sh .offset (fun v => do
        checkPorts sh
        needs (fun t => t.rowReady 0 0 bad 0 && !bad.past 0 &&
          ((rowElems ((List.range 16).map (bad.slot 0))).map (·.1)).find? (fun l => (rowData bad l).poison || (v.b l).poison) == some 0)),
      can (on accessUnit oS (stored · bad)) accessUnit sh .offset (fun _ => do
        checkPorts sh
        needs (fun t => t.rowReady 0 0 bad 0 && (rowData bad 0).poison)),
      past { port .store [fullRow] with fin := some 0 } 4 1, past { port .store [fullRow] with fin := some 0, mode := .sline } 64 64] =
      true := by decide +kernel

/-- ATQ to a register, a plain operation and a compare and swap. -/
theorem witness_TagAndAtomicQueuesComplete_register :
    let atq := fun (sel : BitVec 4) => can (on accessUnit
        (memOps 1 (.reg (.a 3) false) (.reg (.a 2) false) (.reg (.a 1) false) (.reg (.a 4) false) sel) (gridWith [globalHandle]))
      accessUnit { d := 0 } .offset (fun v => do
        let rs ← accesses { lqWant 1 4 with spaces := [0, 1], kinds := kFlat, widths := [2, 3], need := .both, offAlign := 1 } v (List.range 16) true
          true false
        needs (fun t => t.replyRoom accessUnit rs.length))
    each [atq 0, atq 9] = true := by decide +kernel

/-- An acquire with a load in flight that waits, and with one that is back. -/
theorem witness_WaitsFencesAndSemaphoresComplete_acquire :
    let s := fun (p : Phase) => ({ base with cur := some accessUnit, reqs := [(0, farLoad p)] } : State)
    each [!(acquire 4 (s .sent)).isOk, (acquire 4 (s (.done 5 false))).isOk, (farLoad .sent).loads && (farLoad .sent).open,
      (renewL1 4 (s .sent)).isOk] = true := by decide +kernel

/-- What each strip operation is refused for on the access side, on the state its operands leave; and on the execute side, where the strip's
one live thread has arrived: a port that is not there, an engine that runs, a port that threads do not pop. -/
theorem witness_StripOperationsComplete_refusals :
    let key := portKey (stripKey 0 0) 2
    let pat := fun (s : State) => bound 2 (patPort false 0) (gridWith [patHandle] s)
    let o := fun (x8 : BitVec 8) (b : Field) => memOps x8 port2 (.reg (.s 5) false) b .none 0
    let access := fun i x8 prep (p : Port → Opnds → State → Bool) => can (on accessUnit (o x8 (.reg (.s 4) false)) prep) accessUnit
      (stripShape i) .int (fun v => needs (fun t => match t.ports.find key with
        | some q => p q v t
        | none => false))
    let engine' := fun (f : PatEngine → PatEngine) (s : State) =>
      bound 2 { patPort false 0 with engine := some (f (patEngine false 0)) } (gridWith [patHandle] s)
    let absent := fun i => can (on accessUnit (o 0 (.reg (.s 4) false)) id) accessUnit (stripShape i) .int (fun _ => needs (fun t =>
      t.ports.find key == none))
    let arrived := fun i prep => doing i thread (memOps 1 port2 (g 5) (g 4) .none 0) (lone (prep base))
    let refused := fun i prep (p : State → Bool) => let s := arrived i prep
      p s && (s.strips.find (stripKey 0 0)).elim false (fun t => t.op.elim false (fun q => q.2.getLsbD 0)) &&
      (s.exs.find (exKey 0 0)).elim false (fun x => decide (x.arr.map (·.op) = some i)) &&
      (fetch (stripShape i) .int { s with cur := some thread, ir := memOps 1 port2 (g 5) (g 4) .none 0 }).isOk &&
      goes (exec .stripOperation { s with occ := .num (stripKey 0 0) })
    each [
      absent .qunbind, absent .pat, absent .patgo, absent .qeos,
      access .qbind 0x22 (fun s => sIs 4 2 false (pat s)) (fun _ _ t => match t.bind 0 0 2 (bindingOf 0x22 2) true with
        | .error e => e == 4
        | .ok _ => false),
      access .pat 0 pat (fun p v _ => p.engine.isSome && (v.a 0).bits == 0),
      access .patgo 1 (fun s => bound 2 (patPort true 0) (gridWith [patHandle] s)) (fun p _ t => p.engine.elim false (t.patBusy key p)),
      access .patgo 1 (engine' (fun e => { e with counts := [2 ^ 24, 2 ^ 8, 1, 1] })) (fun p _ t => p.engine.elim false (fun e =>
        !t.patBusy key p e && decide (2 ^ 32 - 1 < e.product))),
      access .patgo 1 (fun s => sIs 4 0 true (pat s)) (fun p v t => (v.b 0).poison && p.engine.elim false (fun e => !t.patBusy key p e)),
      access .patgo 2 pat (fun _ v t => !(v.b 0).poison && decide (Hnd.space (t.handleOf accessUnit 2) = 7)),
      access .patgo 0 pat (fun _ _ t => decide (Hnd.space (t.handleOf accessUnit 0) ≠ 7 ∧ Hnd.kind (t.handleOf accessUnit 0) ≠ 4)),
      access .qeos 0 (stored · (port .store [])) (fun p _ _ => p.kind != .acc),
      access .qeos 0 (stored · { port .acc [] with fin := some 0 }) (fun p _ _ => p.kind == .acc && !p.gen && p.fin.isSome),
      refused .qunbind id (fun s => s.ports.find key == none),
      refused .patgo (fun s => bound 2 (patPort true 0) (gridWith [patHandle] s)) (fun s => s.patBusy key (patPort true 0) (patEngine true 0)),
      refused .qeos (stored · (port .acc [])) (fun _ => (port .acc []).execPops)] = true := by decide +kernel

/-- The last row of each transfer: MLDW's 1024th, MLDT and MSTT through a tile handle, MLDA and MSTA of 128 rows, and MSTA narrowed to a byte. -/
theorem witness_MatrixEventsComplete_rows :
    let row := fun (i : Instr) (hx : BitVec 8) (w : Nat) (n : Nat) (prep : State → State) =>
      let op : MatOp := { matOp i 0 0 (BitVec.ofNat 64 w) with rows := n, insn := ⟨i, memOps hx .none (g 1) (g 2) (g 4) 0⟩ }
      let s := queuing [op] (owning (prep base))
      let h := s.handleOf thread hx.toNat
      s.memWf && (xferOf i w).elim false (fun x =>
        let win := s.windowKey thread (Hnd.base h + n * x.step h)
        let eng := x.loc 0 (n * x.erow)
        n + 1 == x.rows && Hnd.space h == 1 && (Hnd.kind h == 0 || Hnd.kind h == 2) && decide (n * x.step h + x.mrow ≤ Hnd.limit h) &&
          decide (win % 2 ^ 20 + x.mrow ≤ 2 ^ 20 ∧ eng % 2 ^ 20 + x.erow ≤ 2 ^ 20) && !poisonIn s.poison win x.mrow &&
          !poisonIn s.poison eng x.erow && ((s.xferRows 0 1).core 0).queue.head?.map (·.rows) == some (n + 1))
    each [row .mldw 0 1023 1023 id, row .mldt 1 0x2000 7 (gridWith [tileHandle]), row .mstt 1 0x2000 7 (gridWith [tileHandle]),
      row .mlda 0 (127 + 256 * 3) 127 id, row .msta 0 127 127 id, row .msta 0 (127 + 256 * 9) 127 id] = true := by decide +kernel

/-- A round message of each kind while this device has no fabric id; a done for no plan and its taking up; and for a plan that begins. -/
theorem witness_LadleEventsComplete_early :
    let p := startedPlan.2
    let s : State := { started with plans := [(startedPlan.1, p)], dones := [(p.devices.headD 0, p.tag), (9, 77)] }
    let early := { base with occ := .ladle 3 7, mgmt := { base.mgmt with fidSet := true } }
    let unset := { base with occ := .ladle 3 7 }
    each [
      [Instr.ladleDone, .ladleCommit, .ladlePublished, .ladleFinished].all (fun i => !unset.mgmt.fidSet && goes (exec i unset)),
      early.planTagged 7 == none && goes (exec .ladleDone early), decide (p.coord = s.mgmt.fid),
      p.devices.contains (p.devices.headD 0) && s.dones.contains (p.devices.headD 0, p.tag),
      (s.takeDones startedPlan.1 p).dones == [(9, 77)]] = true := by decide +kernel

/-- A launch whose table of handles has a page that is away, with nothing read and with a record kept from its first try. -/
theorem witness_LaunchesComplete_kept :
    let r := bootRecord ||| (1#1024 <<< 192)
    let k : Launching := ⟨r, 0, some 0, [], []⟩
    let kept := on engine (qOps 0 (w 1) .none (w 3) (w 4)) (fun s => (leafIs 0 0 s).modEngine 0 (fun e => { e with launch := some k }))
    each [
      (match (leafIs 0 0 base).launchChecks 0 1 k 0 with | .park k' _ _ _ => k'.count == some 0 && k'.record == r | _ => false),
      (kept.engines.find 0).elim false (fun e => decide (e.launch = some k)) && goes (exec .launch kept),
      (match base.launchChecks 0 1 ⟨bootRecord ||| 1#1024, 0, none, [], []⟩ 0 with | .fails c _ _ => c == 0xA3 | _ => false)] = true := by
  decide +kernel

/-- A round message under way through a device that has no fabric id, and an answer that has. -/
theorem witness_FabricEventsComplete_transit :
    let t : Transit := { src := 3, dst := 5, ia := 0, thread := 0, hop := 0, kind := .message, body := 7 }
    let s : State := { base with occ := .transit t }
    each [!s.mgmt.fidSet && goes (exec .fabricPacketForward s),
      goes (exec .fabricPacketForward { s with occ := .transit { t with kind := .answer } })] = true := by decide +kernel

/-- A control-state error of a context under a unit, with and without a counter of its own. -/
theorem witness_PreemptionComplete_control : each [
    goes (exec .controlStateError { base with occ := .num3 1 0 1 }), goes (exec .controlStateError { base with occ := .num 1 }),
    decide (1 ≤ (base.context 1).cstate ∧ (base.context 1).cstate ≤ 4)] = true := by decide +kernel

/-- A link that fell and whose training failed, at its second and a clock before; the lanes of a training. -/
theorem witness_LinkEventsComplete_retries :
    let s := fun (now : Nat) => ({ State.reset with now, links := [(2, { up := false, fell := true, failed := true, trainAt := 0 })],
                                                    mgmt := { State.reset.mgmt with linkMask := 4, stage := 4 }, occ := .num 2 } : State)
    let goesUp := fun (s : State) => match exec .linkTrainRetry s with | .next t => (t.link 2).training | _ => false
    each [goesUp (s second), !goesUp (s (second - 1)), laneCode ⟨true, true, false⟩ == 0x38, laneCode ⟨false, true, true⟩ == 0x64] = true := by
  decide +kernel

/-- Measurements asked before and after the version, the capabilities and the algorithms are agreed. -/
theorem witness_ManagementEventsComplete_attestation :
    let s := fun (n : Nat) (m : List Byte) => ({ State.reset.modMgmt (fun g => { g with on := true, spdm := { stage := n } }) with occ := .doe (.spdm m) } : State)
    each [goes (exec .doeRequest (s 2 [0x12, 0xE0, 0, 0xFF])), (s 3 [0x12, 0xE0, 0, 0xFF]).mgmt.spdm.stage == 3,
      goes (exec .doeRequest (s 0 [0x12, 0x81]))] = true := by decide +kernel

/-- Clocks go by for a team with a strip that is blocked, with the power on. -/
theorem witness_ClockEventsComplete_count :
    let s := base.modMgmt (fun m => { m with on := true })
    each [s.mgmt.on, (s.teams.find 0).isSome, ({ s with strips := [(stripKey 0 0, { blocked := some 0 })] } : State).strips.map (·.1) == [stripKey 0 0], (s.clock 1000).now == s.now + 1000] = true := by
  decide +kernel

/-! ### Results: the worked examples of the spec -/

/-- SHA-384 of "abc", as FIPS 180-4 gives it. -/
theorem test_sha384 : sha384 [0x61, 0x62, 0x63] =
    0xCB00753F45A35E8BB5A03D699AC65007272C32AB0EDED1631A8B605A43FF5BED8086072BA1E7CC2358BAECA134C825A7 := by
  decide +kernel

/-- BYSEL and its variant (04_alu_instructions, R90). -/
theorem test_bysel : byselW 0x44332211 0x88776655 0x03081704 = 0x4400FF55 ∧ byselW 0x44332211 0x88776655 0x03081404 = 0x44000055 := by
  decide +kernel

/-- binary32 to E4M3 and to binary16 (03_numbers, R73): rounding, overflow, an infinity, a signalling NaN, a tiny value. -/
theorem test_convert_narrow :
    cvtFF binary32 (fmtOf 4) 0x43E40000 = ⟨0x7E, fNX⟩ ∧ cvtFF binary32 (fmtOf 4) 0x43EB0000 = ⟨0x7E, fOF ||| fNX⟩ ∧
      cvtFF binary32 (fmtOf 4) 0x7F800000 = ⟨0x7E, fNV⟩ ∧ (cvtFF binary32 (fmtOf 4) 0x7FA00000).bits = 0x7F ∧
      cvtFF binary32 binary16 0x33400000 = ⟨1, fUF ||| fNX⟩ := by decide +kernel

/-- f2i.i8.f32 of -300.7 and of -3.7 (04_alu_instructions, R99). -/
theorem test_f2i : f2iV 0x90 0xC396599A = ⟨0xFFFFFF80, fNV⟩ ∧ f2iV 0x90 0xC06CCCCD = ⟨0xFFFFFFFD, 0⟩ := by decide +kernel

/-- ffma.rz and .rdn of 1, -1, 1, and with a quiet NaN (04_alu_instructions, R94). -/
theorem test_ffma_zero : binary32.fma 1 0x3F800000 0xBF800000 0x3F800000 = ⟨0, 0⟩ ∧
    binary32.fma 2 0x3F800000 0xBF800000 0x3F800000 = ⟨0x80000000, 0⟩ ∧
    binary32.fma 1 0x3F800000 0xBF800000 0x7FC00001 = ⟨0x7FC00000, fNF⟩ := by decide +kernel

/-- REBAL: four participants hold 3, 0, 5 and 1; lane 3's item of round 0, lane 1's of round 1, lane 0's of round 2 (10_threads, R316). -/
def counted (tid n round : Nat) : Part := { part tid with a := Val.of (BitVec.ofNat 64 n), b := Val.of (BitVec.ofNat 64 round) }
theorem test_rebal :
    let ps := fun r => [counted 0 3 r, counted 1 0 r, counted 2 5 r, counted 3 1 r]
    (jointResult .rebal 0 (ps 0) (counted 3 1 0)).v = 2 ∧ (jointResult .rebal 0 (ps 1) (counted 1 0 1)).v = 2 + 2 * 2 ^ 32 ∧
      (jointResult .rebal 0 (ps 2) (counted 0 3 2)).v = 3 := by decide +kernel

/-- The fourth tile of a serpentine 3 by 2 grid (11_launch, R346). -/
theorem test_tile : tileWord (BitVec.ofNat 1024 (place 3 416 + place 2 432 + place 2 448)) 3 = 0x100000002 := by decide +kernel

/-- HACC .add of key 0 with 10 claims slot 0: status 0x0000_0001 (10_threads, R319). -/
theorem test_hacc :
    (match exec .hacc (on thread (rrr 0 (g 3) (g 1) (g 2) (g 4)) tabled) with
      | .next t => readEx t 0 0 (.g 3) 1 == Val.of 1 && t.readStore (Loc.spad 0 16).key 8 == (0, false)
      | _ => false) = true := by decide +kernel

/-! ### Single steps of a loaded program -/

/-- The state after the first step of a program of one instruction. -/
def after (nbits w : Nat) (f : State → Bool) : Bool :=
  match step (State.reset.withFetchWord nbits w) with
  | .next t => f t
  | _ => false

def pcIs (u : Agent) (n : Nat) (s : State) : Bool := (s.ctl u).elim false (fun c => c.pc == n)

def trapIs (code sub : Nat) (s : State) : Bool :=
  match (s.context 1).traps with
  | [r] => r.info.code == BitVec.ofNat 8 code && r.info.sub == BitVec.ofNat 8 sub && r.pc == 0x1000
  | _ => false

/-- iadd goes on past itself (R25); bra by four words (R32). -/
theorem test_step_iadd : after 32 0x03050808 (pcIs thread 0x1004) = true := by decide +kernel
theorem test_step_bra : after 32 (4 * 2 ^ 9 + 0x3C * 4) (pcIs thread 0x1010) = true := by decide +kernel

/-- The all-zero word takes ILLEGAL 0x02 (R51), bkpt code 4 (R397), trap 7 code 5 with subcode 7 (R396); the thread stays at them. -/
theorem test_step_zero : after 32 0 (trapIs 1 2) = true := by decide +kernel
theorem test_step_bkpt : after 32 0x0000010C (trapIs 4 0) = true := by decide +kernel
theorem test_step_trap : after 64 0x070020070005018D (fun t => trapIs 5 7 t && pcIs thread 0x1000 t) = true := by decide +kernel

/-- seminc w6, w7 of a queue program, with w7 zero, leaves the semaphore and goes on (R335). -/
theorem test_step_seminc : after 64 0x00004007038601B1 (fun t => pcIs engine 0x1008 t && t.sem 1 0 == 0) = true := by decide +kernel

/-- lq q2 on a port that is not bound: PORTCFG 0x01 (R179). -/
theorem test_step_lq_unbound : after 64 0x010000070280E595 (trapIs 0x32 1) = true := by decide +kernel

/-- The AES-256 block of FIPS-197, appendix C.3 (R370). -/
theorem test_aes256_block : aesBlock (roundKeys (List.range 32)) ((List.range 16).map (17 * ·)) =
    [0x8e, 0xa2, 0xb7, 0xca, 0x51, 0x67, 0x45, 0xbf, 0xea, 0xfc, 0x49, 0x90, 0x4b, 0x49, 0x60, 0x89] := by decide +kernel

/-- FADD of a signalling NaN with a sole participant delivers the canonical NaN with NV and NF (R72, R74, R314). -/
theorem test_xred_fadd_alone :
    let p : Part := { tid := 3, a := Val.of 0x7F800001, b := Val.zero, c := Val.zero, pa := ⟨true, false⟩, pb := ⟨false, false⟩ }
    jointValue .xred 10 [p] p = ⟨0x7FC00000, false, fNV ||| fNF⟩ := by decide +kernel

/-- An INVR over one part of a 2 MiB page drops the L1 line of another part (R376); a window that another context's team held reads zero, and
one of the same context stands (R369); an engine that leaves its partition keeps nothing staged (R366). -/
theorem test_isolation :
    let line := base.modCore 0 (fun c => { c with l1 := [(0, ⟨7, 0, 21⟩)] })
    let word := base.writeStore (Loc.spad 0 64).key 4 7 false
    let word' := fun ctx => ((word.freshWindow ctx 0 0 128).readStore (Loc.spad 0 64).key 4).1
    let staging := base.modEngine 0 (fun e => { e with staged := [(0x1000001, 5)] })
    each [((line.invalidate 0 (2 ^ 20) (2 ^ 16)).core 0).l1 == [], word' 1 == 7, word' 2 == 0,
      ((staging.leaveEngines (· == 0)).engineRec 0).staged == [], ((staging.leaveEngines (· == 1)).engineRec 0).staged != []] = true := by
  decide +kernel

/-- A request that left by a link holds back later ones to its line once the link has left service, also when it is back (R271); a restoring
context with a saved team waits for room, and no other then restores beside one whose restore has begun (R339, R404). -/
theorem test_holds :
    let s := linked { base with reqs := [(0, farLoad (.remote 9 64 100 2))] }
    let t := (s.linkDown 2).modLink 2 (fun l => { l with up := true })
    let r := base.modCtx 1 (fun c => { c with cstate := 4, saved := [0] })
    let away := r.modTeam 0 (fun t => { t with placed := false, home := some (0, 0) })
    let back := r.modTeam 0 (fun t => { t with home := some (0, 0) })
    each [!s.lineHeld 9 64, t.lineHeld 9 127, !t.lineHeld 9 128, away.awaitsRoom 0 bootGrid, !away.halfRestored 1, back.halfRestored 1] =
      true := by decide +kernel

/-- A MZERO kept for a saved team stands in no core's queue, and is its engine's again at the grant (R122). -/
theorem test_saved_queue :
    let s := base.modCore (savedCore 0 0) (fun k => { k with saved := some [matOp .mzero 0 1 0] })
    each [(s.core (savedCore 0 0)).queue == [], (s.matrixQueueOp (savedCore 0 0)).isNone, s.opsSaved 0, !base.opsSaved 0] = true := by
  decide +kernel

end Sys2Proof.Tests
end

section
/-! SUPPORT. The decoder, one lemma for each way it can go in the check order of R50; and the words of the encoding tables under it. -/

namespace Sys2Proof

variable {cx : DecodeCtx} {w0 w1 w2 : W32} {r : Raw} {row : Row} {i long : Instr} {sel : BitVec 4} {subOk : Bool}

/-! ### What word0 settles -/

theorem decodeWords_of_word0Check_error {e : DecodeErr} (h : word0Check w0 = .error e) : decodeWords cx w0 w1 w2 = .error e := by
  simp [decodeWords, h]

theorem decodeWords_of_word0Check_ok {n : Nat} (h : word0Check w0 = .ok n) :
    decodeWords cx w0 w1 w2 = decodeRaw cx (Raw.ofWords w0 (if n = 1 then defaultWord1 else w1) (if n = 3 then w2 else 0)) := by
  simp [decodeWords, h]

/-- Length code 3 is no length (R25). -/
theorem word0Check_of_len_three (h : w0.extractLsb' 0 2 = 3) : word0Check w0 = .error (.illegal 1) := by
  simp [word0Check, h]

/-- A compact major opcode without a row is unassigned, in every length there is (R48). -/
theorem word0Check_of_compactRow_none (hlen : w0.extractLsb' 0 2 ≠ 3) (hop : (w0.extractLsb' 2 7).toNat < 0x60)
    (hrow : compactRow (w0.extractLsb' 2 7).toNat = none) : word0Check w0 = .error (.illegal 2) := by
  have hlen' : (w0.extractLsb' 0 2).toNat ≠ 3 := fun h => hlen (BitVec.eq_of_toNat_eq h)
  simp only [word0Check, if_neg hlen', if_pos hop, hrow]

/-! ### The row and the instruction -/

theorem decodeRaw_compact_short (hop : r.op.toNat < 0x60) (hlen : r.len = 0) (hrow : compactRow r.op.toNat = some row)
    (hmk : compactMk r.op.toNat = some i) (hlong : compactLongMk r.op.toNat = some long) :
    decodeRaw cx r = finish cx row i 0 true r := by
  simp [decodeRaw, hop, hlen, hrow, hmk, hlong]

theorem decodeRaw_compact_long (hop : r.op.toNat < 0x60) (hlen : r.len ≠ 0) (hrow : compactRow r.op.toNat = some row)
    (hlong : compactLongMk r.op.toNat = some long) : decodeRaw cx r = finish cx row long 0 (r.sub = 0) r := by
  simp only [decodeRaw, if_pos hop, hrow, hlong, if_neg hlen]

theorem decodeRaw_wide (hop : 0x60 ≤ r.op.toNat) (hrow : wideRow r.op.toNat r.sub.toNat = some row)
    (hmk : wideMk r.op.toNat r.sub.toNat r.x8.toNat r.c.toNat = some i) :
    decodeRaw cx r = finish cx row i (selOf r.op.toNat r.sub.toNat) true r := by
  simp [decodeRaw, Nat.not_lt.mpr hop, hrow, hmk]

/-- A wide major opcode with a sub-opcode that has no row (R48). -/
theorem decodeRaw_of_wideRow_none (hop : 0x60 ≤ r.op.toNat) (hrow : wideRow r.op.toNat r.sub.toNat = none) :
    decodeRaw cx r = .error (.illegal 3) := by
  simp [decodeRaw, Nat.not_lt.mpr hop, hrow]

/-! ### The checks after the row is known -/

theorem finish_of_not_sideOk (h : sideOk cx row i = false) : finish cx row i sel subOk r = .error (.illegal 4) := by
  simp [finish, h]

/-- The subcode of the least of the checks of fields that fails, 0 where none does (R50). -/
def fieldErr (cx : DecodeCtx) (row : Row) (i : Instr) (sel : BitVec 4) (subOk : Bool) (r : Raw) : Nat :=
  firstErr ((if subOk then 0 else 6) :: (readOps cx row i sel r).2)

theorem finish_of_privileged (hside : sideOk cx row i = true) (hfields : fieldErr cx row i sel subOk r = 0)
    (hpriv : privileged i = true) (hsup : cx.sup = false) : finish cx row i sel subOk r = .error .priv := by
  unfold fieldErr at hfields
  simp [finish, hside, hfields, hpriv, hsup]

theorem finish_of_fieldErr_zero (hside : sideOk cx row i = true) (hfields : fieldErr cx row i sel subOk r = 0)
    (hpriv : privileged i = false) : finish cx row i sel subOk r = .ok ⟨i, (readOps cx row i sel r).1⟩ := by
  unfold fieldErr at hfields
  simp [finish, hside, hfields, hpriv]

/-! ### Whole words -/

/-- The all-zero word has length code 0 and major 0x00, which is unassigned; the side and the words after it play no part (R51). -/
theorem decodeWords_zero : decodeWords cx 0#32 w1 w2 = .error (.illegal 2) :=
  decodeWords_of_word0Check_error (word0Check_of_compactRow_none (by decide) (by decide) rfl)

end Sys2Proof

open Sys2Proof

/-- Settles O1: each word goes through word0's checks to its row, and from the row to an instruction or to the first check that fails. -/
theorem wordsDecode : Obligations.WordsDecode := by
  unfold Obligations.WordsDecode
  refine ⟨?iadd, ?iaddLong, ?ffma, ?sh3add, ?semset, ?wrongSide, ?length, fun _ _ _ => decodeWords_zero, ?major, ?sub, ?priv⟩
  case iadd | sh3add =>
    rw [decodeWords_of_word0Check_ok (n := 1) rfl, decodeRaw_compact_short (by decide) rfl rfl rfl rfl,
      finish_of_fieldErr_zero rfl (by decide) rfl]
    rfl
  case iaddLong =>
    rw [decodeWords_of_word0Check_ok (n := 2) rfl, decodeRaw_compact_long (by decide) (by decide) rfl rfl,
      finish_of_fieldErr_zero rfl (by decide) rfl]
    rfl
  case ffma | semset =>
    rw [decodeWords_of_word0Check_ok (n := 2) rfl, decodeRaw_wide (by decide) rfl rfl, finish_of_fieldErr_zero rfl (by decide) rfl]
    rfl
  case wrongSide =>
    rw [decodeWords_of_word0Check_ok (n := 2) rfl, decodeRaw_wide (by decide) rfl rfl, finish_of_not_sideOk rfl]
  case length => exact decodeWords_of_word0Check_error (word0Check_of_len_three rfl)
  case major => exact decodeWords_of_word0Check_error (word0Check_of_compactRow_none (by decide) (by decide) rfl)
  case sub => rw [decodeWords_of_word0Check_ok (n := 2) rfl, decodeRaw_of_wideRow_none (by decide) rfl]
  case priv =>
    rw [decodeWords_of_word0Check_ok (n := 2) rfl, decodeRaw_wide (by decide) rfl rfl,
      finish_of_privileged rfl (by decide) rfl rfl]

end

section
/-! SUPPORT. Rounding to an integer (R68): the model's choice on magnitudes is the statement's rounding of rationals. -/

namespace Sys2Proof.Machine

/-! ### Signs, lengths and exact values -/

/-- The sign of a value as a factor. -/
def signQ (neg : Bool) : ℚ := if neg then -1 else 1

@[simp] theorem signQ_false : signQ false = 1 := rfl
@[simp] theorem signQ_true : signQ true = -1 := rfl
@[simp] theorem abs_signQ (neg : Bool) : |signQ neg| = 1 := by cases neg <;> simp
@[simp] theorem signQ_ne_zero (neg : Bool) : signQ neg ≠ 0 := by cases neg <;> simp

theorem signQ_bne (a b : Bool) : signQ (a != b) = signQ a * signQ b := by cases a <;> cases b <;> simp
theorem signQ_not (a : Bool) : signQ (!a) = -signQ a := by cases a <;> simp

theorem abs_signQ_mul {a : ℚ} (neg : Bool) (ha : 0 ≤ a) : |signQ neg * a| = a := by
  rw [abs_mul, abs_signQ, one_mul, abs_of_nonneg ha]

theorem signQ_mul_neg_iff {a : ℚ} (neg : Bool) (ha : 0 < a) : signQ neg * a < 0 ↔ neg = true := by
  cases neg <;> simp [ha, ha.le]

theorem two_zpow_pos (e : ℤ) : (0 : ℚ) < 2 ^ e := zpow_pos two_pos e

theorem two_zpow_add (a b : ℤ) : (2 : ℚ) ^ (a + b) = 2 ^ a * 2 ^ b := zpow_add₀ two_ne_zero a b

theorem two_zpow_toNat {d : ℤ} (hd : 0 ≤ d) : (2 : ℚ) ^ d.toNat = 2 ^ d := by
  rw [← zpow_natCast, Int.toNat_of_nonneg hd]

theorem FV.value_fin (n : Bool) (m : Nat) (e : ℤ) : (FV.fin n m e).value = signQ n * (m * 2 ^ e) := mul_assoc _ _ _

theorem toInt_cast (n : Bool) (m : Nat) : ((toInt n m : ℤ) : ℚ) = signQ n * m := by cases n <;> simp [toInt]

theorem FV.value_fin_eq_zero {n : Bool} {m : Nat} {e : ℤ} : (FV.fin n m e).value = 0 ↔ m = 0 := by
  simp [FV.value_fin, (two_zpow_pos e).ne']

theorem FV.value_fin_neg_iff {n : Bool} {m : Nat} {e : ℤ} (hm : m ≠ 0) : (FV.fin n m e).value < 0 ↔ n = true := by
  rw [FV.value_fin]
  exact signQ_mul_neg_iff n (mul_pos (by exact_mod_cast Nat.pos_of_ne_zero hm) (two_zpow_pos e))

theorem lt_two_pow_bitLen (n : Nat) : n < 2 ^ bitLen n := by
  by_cases hn : n = 0
  · simp [hn, bitLen]
  · simpa [bitLen, hn] using Nat.lt_log2_self (n := n)

theorem bitLen_pos {n : Nat} (hn : n ≠ 0) : 0 < bitLen n := by simp [bitLen, hn]

theorem two_pow_bitLen_sub_one_le {n : Nat} (hn : n ≠ 0) : 2 ^ (bitLen n - 1) ≤ n := by
  simpa [bitLen, hn] using Nat.log2_self_le hn

theorem bitLen_le_iff {n k : Nat} : bitLen n ≤ k ↔ n < 2 ^ k := by
  by_cases hn : n = 0
  · simp [hn, bitLen]
  · simpa [bitLen, hn, Nat.succ_le_iff] using Nat.log2_lt hn

/-- The exponent of a finite value. -/
theorem two_zpow_exponent_le {m : Nat} (hm : m ≠ 0) (e : ℤ) : (2 : ℚ) ^ ((bitLen m : ℤ) - 1 + e) ≤ m * 2 ^ e := by
  have h : ((bitLen m : ℤ) - 1) = ((bitLen m - 1 : ℕ) : ℤ) := by have := bitLen_pos hm; omega
  rw [two_zpow_add, h, zpow_natCast]
  exact mul_le_mul_of_nonneg_right (by exact_mod_cast two_pow_bitLen_sub_one_le hm) (two_zpow_pos e).le

theorem lt_two_zpow_exponent (m : Nat) (e : ℤ) : (m : ℚ) * 2 ^ e < 2 ^ ((bitLen m : ℤ) - 1 + e + 1) := by
  rw [show (bitLen m : ℤ) - 1 + e + 1 = bitLen m + e by ring, two_zpow_add, zpow_natCast]
  exact mul_lt_mul_of_pos_right (by exact_mod_cast lt_two_pow_bitLen m) (two_zpow_pos e)

/-! ### Rounding to an integer (R68) -/

theorem roundQ_intCast (mode : Nat) (n : ℤ) : roundQ mode n = n := by
  unfold roundQ
  split <;> simp

/-- A discarded part against one half, as `roundsUp` takes it. -/
def halfOf (r : ℚ) : Nat := if 2 * r < 1 then 0 else if 2 * r = 1 then 1 else 2

theorem halfOf_cases (r : ℚ) :
    (r < 1 / 2 ∧ halfOf r = 0) ∨ (r = 1 / 2 ∧ halfOf r = 1) ∨ (1 / 2 < r ∧ halfOf r = 2) := by
  unfold halfOf
  rcases lt_trichotomy r (1 / 2) with h | h | h
  · exact .inl ⟨h, if_pos (by linarith)⟩
  · exact .inr (.inl ⟨h, by norm_num [h]⟩)
  · refine .inr (.inr ⟨h, ?_⟩)
    rw [if_neg (by linarith), if_neg (by linarith)]

/-- The mode's choice for a magnitude (`roundsUp`) is the mode's rounding of the signed number. -/
theorem roundQ_signQ_mul (mode : Nat) (neg : Bool) (n : Nat) {r : ℚ} (h0 : 0 < r) (h1 : r < 1) :
    roundQ mode (signQ neg * (n + r)) = toInt neg (if roundsUp mode neg (n % 2 == 1) (halfOf r) then n + 1 else n) := by
  have hn : (0 : ℚ) ≤ n := n.cast_nonneg
  cases neg with
  | false =>
    have hfloor : ⌊(n : ℚ) + r⌋ = n := by rw [Int.floor_eq_iff]; push_cast; constructor <;> linarith
    have hceil : ⌈(n : ℚ) + r⌉ = n + 1 := by rw [Int.ceil_eq_iff]; push_cast; constructor <;> linarith
    have hpart : (n : ℚ) + r - (n : ℤ) = r := by push_cast; ring
    have hneg : ¬ (n : ℚ) + r < 0 := by linarith
    simp only [roundQ, roundsUp, toInt, signQ_false, one_mul, hfloor, hceil, hpart, hneg]
    rcases halfOf_cases r with ⟨hr, hh⟩ | ⟨hr, hh⟩ | ⟨hr, hh⟩ <;> rw [hh] <;> split <;> grind
  | true =>
    have hfloor : ⌊-((n : ℚ) + r)⌋ = -n - 1 := by rw [Int.floor_eq_iff]; push_cast; constructor <;> linarith
    have hceil : ⌈-((n : ℚ) + r)⌉ = -n := by rw [Int.ceil_eq_iff]; push_cast; constructor <;> linarith
    have hpart : -((n : ℚ) + r) - (-n - 1 : ℤ) = 1 - r := by push_cast; ring
    have hneg : -((n : ℚ) + r) < 0 := by linarith
    simp only [roundQ, roundsUp, toInt, signQ_true, neg_one_mul, hfloor, hceil, hpart, hneg]
    rcases halfOf_cases r with ⟨hr, hh⟩ | ⟨hr, hh⟩ | ⟨hr, hh⟩ <;> rw [hh] <;> split <;> grind

theorem halfOf_div_two_pow (r d : Nat) :
    halfOf ((r : ℚ) / 2 ^ d) = if 2 * r < 2 ^ d then 0 else if 2 * r = 2 ^ d then 1 else 2 := by
  have hd : (0 : ℚ) < 2 ^ d := by positivity
  have hlt : 2 * ((r : ℚ) / 2 ^ d) < 1 ↔ 2 * r < 2 ^ d := by
    rw [← mul_div_assoc, div_lt_one hd]; exact_mod_cast Iff.rfl
  have heq : 2 * ((r : ℚ) / 2 ^ d) = 1 ↔ 2 * r = 2 ^ d := by
    rw [← mul_div_assoc, div_eq_one_iff_eq hd.ne']; exact_mod_cast Iff.rfl
  simp only [halfOf, hlt, heq]

theorem natCast_eq_div_add_mod (m d : Nat) : (m : ℚ) = ((m / 2 ^ d : ℕ) + ((m % 2 ^ d : ℕ) : ℚ) / 2 ^ d) * 2 ^ d := by
  have hd : (2 : ℚ) ^ d ≠ 0 := by positivity
  rw [add_mul, div_mul_cancel₀ _ hd, mul_comm]
  exact_mod_cast (Nat.div_add_mod m (2 ^ d)).symm

theorem mod_two_pow_div_mem {m d : Nat} (h : m % 2 ^ d ≠ 0) :
    0 < ((m % 2 ^ d : ℕ) : ℚ) / 2 ^ d ∧ ((m % 2 ^ d : ℕ) : ℚ) / 2 ^ d < 1 := by
  have hd : (0 : ℚ) < 2 ^ d := by positivity
  refine ⟨div_pos (by exact_mod_cast Nat.pos_of_ne_zero h) hd, (div_lt_one hd).2 ?_⟩
  exact_mod_cast Nat.mod_lt m (Nat.two_pow_pos d)

/-- What `scaleRound` answers is an exact multiple of 2^k, or the mode's choice between the two neighbours. -/
def ScaleRounds (mode : Nat) (neg : Bool) (m : Nat) (e k : ℤ) (y : Nat × Bool) : Prop :=
  (y.2 = false ∧ (y.1 : ℚ) * 2 ^ k = m * 2 ^ e) ∨
  (y.2 = true ∧ ∃ (n : Nat) (r : ℚ), 0 < r ∧ r < 1 ∧ (m : ℚ) * 2 ^ e = (n + r) * 2 ^ k ∧
    y.1 = if roundsUp mode neg (n % 2 == 1) (halfOf r) then n + 1 else n)

theorem scaleRounds (mode : Nat) (neg : Bool) (m : Nat) (e k : ℤ) :
    ScaleRounds mode neg m e k (scaleRound mode neg m e k) := by
  unfold scaleRound
  by_cases hk : k ≤ e
  · rw [if_pos hk]
    refine .inl ⟨rfl, ?_⟩
    push_cast
    rw [two_zpow_toNat (by omega), mul_assoc, ← two_zpow_add, sub_add_cancel]
  · rw [if_neg hk]
    obtain ⟨D, hD⟩ : ∃ D : ℕ, k = e + D := ⟨(k - e).toNat, by omega⟩
    have hDn : (k - e).toNat = D := by omega
    have hscale : (2 : ℚ) ^ k = 2 ^ D * 2 ^ e := by rw [hD, add_comm, two_zpow_add, zpow_natCast]
    simp only [hDn]
    by_cases hshort : D ≤ bitLen m + 2
    · rw [min_eq_left hshort]
      by_cases hr : m % 2 ^ D = 0
      · rw [if_pos hr]
        refine .inl ⟨rfl, ?_⟩
        rw [hscale, ← mul_assoc]
        exact_mod_cast congrArg (fun n : ℕ => (n : ℚ) * 2 ^ e) (Nat.div_mul_cancel (Nat.dvd_of_mod_eq_zero hr))
      · rw [if_neg hr]
        obtain ⟨h0, h1⟩ := mod_two_pow_div_mem hr
        refine .inr ⟨rfl, m / 2 ^ D, ((m % 2 ^ D : ℕ) : ℚ) / 2 ^ D, h0, h1, ?_, ?_⟩
        · rw [hscale, ← mul_assoc, ← natCast_eq_div_add_mod]
        · rw [halfOf_div_two_pow]
    · rw [min_eq_right (by omega)]
      have hlen : 2 * m < 2 ^ (bitLen m + 2) := by have := lt_two_pow_bitLen m; rw [pow_add]; omega
      have hlong : 2 * m < 2 ^ D := hlen.trans_le (Nat.pow_le_pow_right two_pos (by omega))
      rw [Nat.div_eq_of_lt (by omega), Nat.mod_eq_of_lt (by omega), if_pos hlen]
      by_cases hm : m = 0
      · exact .inl (by simp [hm])
      · rw [if_neg hm]
        have hd : (0 : ℚ) < 2 ^ D := by positivity
        refine .inr ⟨rfl, 0, (m : ℚ) / 2 ^ D, div_pos (by exact_mod_cast Nat.pos_of_ne_zero hm) hd, ?_, ?_, ?_⟩
        · rw [div_lt_one hd]; exact_mod_cast (by omega : m < 2 ^ D)
        · rw [hscale, Nat.cast_zero, zero_add, ← mul_assoc, div_mul_cancel₀ _ hd.ne']
        · rw [halfOf_div_two_pow, if_pos hlong]

section
variable {mode : Nat} {neg : Bool} {m : Nat} {e k : ℤ}

theorem roundQ_eq_scaleRound :
    roundQ mode (signQ neg * (m * 2 ^ e) / 2 ^ k) = toInt neg (scaleRound mode neg m e k).1 := by
  have hk := (two_zpow_pos k).ne'
  obtain ⟨-, h⟩ | ⟨-, n, r, h0, h1, hx, hy⟩ := scaleRounds mode neg m e k
  · rw [← h, ← mul_assoc, mul_div_cancel_right₀ _ hk, ← toInt_cast, roundQ_intCast]
  · rw [hx, hy, ← mul_assoc, mul_div_cancel_right₀ _ hk, roundQ_signQ_mul mode neg n h0 h1]

theorem scaleRound_exact_iff :
    (scaleRound mode neg m e k).2 = false ↔ ((scaleRound mode neg m e k).1 : ℚ) * 2 ^ k = m * 2 ^ e := by
  obtain ⟨h2, h⟩ | ⟨h2, n, r, h0, h1, hx, hy⟩ := scaleRounds mode neg m e k
  · simp [h2, h]
  · rw [h2, hx, mul_left_inj' (two_zpow_pos k).ne', hy]
    simp only [Bool.true_eq_false, false_iff]
    split <;> push_cast <;> intro h <;> linarith

theorem le_scaleRound {N : Nat} (h : (N : ℚ) * 2 ^ k ≤ m * 2 ^ e) : N ≤ (scaleRound mode neg m e k).1 := by
  obtain ⟨-, hx⟩ | ⟨-, n, r, h0, h1, hx, hy⟩ := scaleRounds mode neg m e k
  · rw [← hx, mul_le_mul_iff_of_pos_right (two_zpow_pos k)] at h
    exact_mod_cast h
  · rw [hx, mul_le_mul_iff_of_pos_right (two_zpow_pos k)] at h
    have hn : (N : ℚ) < (n + 1 : ℕ) := by push_cast; linarith
    rw [Nat.cast_lt] at hn
    rw [hy]
    split <;> omega

theorem scaleRound_le {N : Nat} (h : (m : ℚ) * 2 ^ e ≤ N * 2 ^ k) : (scaleRound mode neg m e k).1 ≤ N := by
  obtain ⟨-, hx⟩ | ⟨-, n, r, h0, h1, hx, hy⟩ := scaleRounds mode neg m e k
  · rw [← hx, mul_le_mul_iff_of_pos_right (two_zpow_pos k)] at h
    exact_mod_cast h
  · rw [hx, mul_le_mul_iff_of_pos_right (two_zpow_pos k)] at h
    have hn : (n : ℚ) < N := by linarith
    rw [Nat.cast_lt] at hn
    rw [hy]
    split <;> omega

end

end Sys2Proof.Machine
end

section
/-! SUPPORT. round() (R69): what a pattern denotes (R62-R64), the significand that rounding leaves, overflow and tininess; and that
round() of the model meets `RoundsTo`. -/

namespace Sys2Proof.Machine

/-! ### Patterns (R62-R64) -/

/-- The widths every format has: two exponent bits or more, and a fraction bit. -/
structure Fmt.Ok (f : Fmt) : Prop where
  eb : 2 ≤ f.eb
  mb : 1 ≤ f.mb

theorem fmtOf_ok (k : Nat) : (fmtOf k).Ok := by
  unfold fmtOf
  split <;> exact ⟨by decide, by decide⟩

namespace Fmt

variable {f : Fmt}

theorem fields_lt {E F : Nat} (hE : E < 2 ^ f.eb) (hF : F < 2 ^ f.mb) : E * 2 ^ f.mb + F < 2 ^ (f.eb + f.mb) := by
  have : (E + 1) * 2 ^ f.mb ≤ 2 ^ f.eb * 2 ^ f.mb := Nat.mul_le_mul_right _ hE
  rw [pow_add]
  linarith

theorem bit_signBit_add (neg : Bool) {x : Nat} (hx : x < 2 ^ (f.eb + f.mb)) : bit (f.signBit neg + x) (f.eb + f.mb) = neg := by
  cases neg
  · simp [bit, signBit, Nat.div_eq_of_lt hx]
  · simp [bit, signBit, Nat.add_div_left _ (Nat.two_pow_pos _), Nat.div_eq_of_lt hx]

theorem signBit_add_mod (neg : Bool) {x : Nat} (hx : x < 2 ^ (f.eb + f.mb)) : (f.signBit neg + x) % 2 ^ (f.eb + f.mb) = x := by
  cases neg <;> simp [signBit, Nat.mod_eq_of_lt hx]

theorem signBit_add_lt (neg : Bool) {x : Nat} (hx : x < 2 ^ (f.eb + f.mb)) : f.signBit neg + x < 2 ^ f.width := by
  rw [width, pow_succ]
  cases neg <;> simp only [signBit, if_true, if_false, Bool.false_eq_true] <;> omega

/-- The exponent and fraction fields below the sign. -/
theorem mod_eq_fields (hf : f.Ok) (v : Nat) :
    v % 2 ^ (f.eb + f.mb) = bits v (f.eb + f.mb - 1) f.mb * 2 ^ f.mb + v % 2 ^ f.mb := by
  have hw : f.eb + f.mb - 1 + 1 - f.mb = f.eb := by have := hf.eb; omega
  rw [bits, hw, add_comm f.eb, pow_add, Nat.mod_mul]
  ring

theorem decode_fields (hf : f.Ok) (neg : Bool) {E F : Nat} (hE : E < 2 ^ f.eb) (hF : F < 2 ^ f.mb) :
    f.decode (f.signBit neg + (E * 2 ^ f.mb + F)) =
      if f.sp = .ieee ∧ E = 2 ^ f.eb - 1 then (if F = 0 then .inf neg else .nan (!bit F (f.mb - 1)))
      else if f.sp = .nanOnly ∧ E = 2 ^ f.eb - 1 ∧ F = 2 ^ f.mb - 1 then .nan false
      else if E = 0 then .fin neg F (f.emin - f.mb)
      else .fin neg (2 ^ f.mb + F) ((E : ℤ) - f.bias - f.mb) := by
  have hlt := fields_lt hE hF
  have hmod : (f.signBit neg + (E * 2 ^ f.mb + F)) % 2 ^ f.mb = F := by
    rw [← Nat.mod_mod_of_dvd _ (Nat.pow_dvd_pow 2 (Nat.le_add_left f.mb f.eb)), signBit_add_mod neg hlt,
      Nat.mul_add_mod', Nat.mod_eq_of_lt hF]
  have hex : bits (f.signBit neg + (E * 2 ^ f.mb + F)) (f.eb + f.mb - 1) f.mb = E := by
    have h := mod_eq_fields hf (f.signBit neg + (E * 2 ^ f.mb + F))
    rw [signBit_add_mod neg hlt, hmod, Nat.add_right_cancel_iff] at h
    exact (Nat.eq_of_mul_eq_mul_right (Nat.two_pow_pos _) h).symm
  simp only [decode, hmod, hex, bit_signBit_add neg hlt]

theorem decode_isInf_iff (hf : f.Ok) (v : Nat) :
    (f.decode v).isInf = true ↔ f.sp = .ieee ∧ v % 2 ^ (f.eb + f.mb) = f.infBits := by
  have hF : v % 2 ^ f.mb < 2 ^ f.mb := Nat.mod_lt _ (Nat.two_pow_pos _)
  have hfields : v % 2 ^ (f.eb + f.mb) = f.infBits ↔ bits v (f.eb + f.mb - 1) f.mb = 2 ^ f.eb - 1 ∧ v % 2 ^ f.mb = 0 := by
    rw [mod_eq_fields hf, infBits]
    constructor
    · intro h
      have hzero := congrArg (· % 2 ^ f.mb) h
      simp only [Nat.mul_add_mod', Nat.mod_mod, Nat.mul_mod_left] at hzero
      rw [hzero, add_zero] at h
      exact ⟨Nat.eq_of_mul_eq_mul_right (Nat.two_pow_pos _) h, hzero⟩
    · rintro ⟨hE, h⟩
      rw [hE, h, add_zero]
  rw [hfields]
  simp only [decode]
  split_ifs <;> simp_all [FV.isInf]

theorem two_pow_p : 2 ^ f.p = 2 * 2 ^ f.mb := by rw [p, pow_succ, mul_comm]

theorem four_le_two_pow_eb (hf : f.Ok) : 4 ≤ 2 ^ f.eb := Nat.pow_le_pow_right two_pos hf.eb
theorem two_le_two_pow_mb (hf : f.Ok) : 2 ≤ 2 ^ f.mb := Nat.pow_le_pow_right two_pos hf.mb

theorem two_pow_mb_le_maxM (hf : f.Ok) : 2 ^ f.mb ≤ f.maxM := by
  have := two_le_two_pow_mb hf
  have := two_pow_p (f := f)
  unfold maxM
  split <;> omega

theorem maxM_lt : f.maxM < 2 ^ f.p := by
  have := Nat.two_pow_pos f.p
  unfold maxM
  split <;> omega

theorem two_le_maxField (hf : f.Ok) : 2 ≤ f.maxField := by
  have := four_le_two_pow_eb hf
  unfold maxField
  split <;> omega

theorem maxField_lt (hf : f.Ok) : f.maxField < 2 ^ f.eb := by
  have := four_le_two_pow_eb hf
  unfold maxField
  split <;> omega

theorem emin_lt_emax (hf : f.Ok) : f.emin < f.emax := by
  have := two_le_maxField hf
  unfold emin emax
  omega

theorem decode_infinite (hf : f.Ok) (hsp : f.sp = .ieee) (neg : Bool) : f.decode (f.signBit neg + f.infBits) = .inf neg := by
  have h := decode_fields hf neg (Nat.sub_lt (Nat.two_pow_pos f.eb) one_pos) (Nat.two_pow_pos f.mb)
  simpa [infBits, hsp] using h

theorem decode_subnormal (hf : f.Ok) (neg : Bool) {n : Nat} (hn : n < 2 ^ f.mb) :
    f.decode (f.signBit neg + n) = .fin neg n (f.emin - f.mb) := by
  have h := decode_fields hf neg (Nat.two_pow_pos f.eb) hn
  have htop : 0 ≠ 2 ^ f.eb - 1 := by have := four_le_two_pow_eb hf; omega
  simpa [htop] using h

theorem decode_normal (hf : f.Ok) (neg : Bool) {E n : Nat} (hE0 : 1 ≤ E) (hE : E ≤ f.maxField) (hn0 : 2 ^ f.mb ≤ n)
    (hn : n < 2 ^ f.p) (hmax : E = f.maxField → n ≤ f.maxM) :
    f.decode (f.signBit neg + (E * 2 ^ f.mb + (n - 2 ^ f.mb))) = .fin neg n ((E : ℤ) - f.bias - f.mb) := by
  have hp := two_pow_p (f := f)
  have heb := four_le_two_pow_eb hf
  have hieee : ¬ (f.sp = .ieee ∧ E = 2 ^ f.eb - 1) := by
    rintro ⟨hsp, h⟩
    simp only [maxField, if_pos hsp] at hE
    omega
  have hnan : ¬ (f.sp = .nanOnly ∧ E = 2 ^ f.eb - 1 ∧ n - 2 ^ f.mb = 2 ^ f.mb - 1) := by
    rintro ⟨hsp, h, hfr⟩
    simp only [maxField, maxM, hsp, if_true, reduceCtorEq, if_false] at hmax
    have := hmax h
    have := two_le_two_pow_mb hf
    omega
  rw [decode_fields hf neg (hE.trans_lt (maxField_lt hf)) (by omega), if_neg hieee, if_neg hnan, if_neg (by omega),
    Nat.add_sub_cancel' hn0]

theorem decode_maxBits (hf : f.Ok) (neg : Bool) : f.decode (f.signBit neg + f.maxBits) = .fin neg f.maxM (f.emax - f.mb) :=
  decode_normal hf neg (one_le_two.trans (two_le_maxField hf)) le_rfl (two_pow_mb_le_maxM hf) maxM_lt fun _ => le_rfl

end Fmt

/-! ### The rounded significand and its pattern -/

/-- A significand and its exponent as round() leaves them: n has at most p bits, or is 2^p, and is normal above the least exponent. -/
structure Fmt.Sig (f : Fmt) (n : Nat) (k : ℤ) : Prop where
  emin_le : f.emin - f.mb ≤ k
  le : n ≤ 2 ^ f.p
  normal : f.emin - f.mb < k → 2 ^ f.mb ≤ n

/-- A magnitude beyond the largest finite value of the format. -/
abbrev Fmt.TooBig (f : Fmt) (y : ℚ) : Prop := (f.maxM : ℚ) * 2 ^ (f.emax - f.mb) < y

namespace Fmt

variable {f : Fmt}

theorem natCast_two_pow_p : ((2 ^ f.p : ℕ) : ℚ) = 2 ^ f.mb * 2 := by push_cast; rw [p, pow_succ]

theorem not_tooBig_of_lt_exponent (hf : f.Ok) {n : Nat} {k : ℤ} (hn : n ≤ 2 ^ f.p) (hk : k < f.emax - f.mb) :
    ¬ f.TooBig (n * 2 ^ k) := by
  have hM : (2 : ℚ) ^ f.mb ≤ f.maxM := by exact_mod_cast two_pow_mb_le_maxM hf
  refine not_lt.2 ?_
  calc (n : ℚ) * 2 ^ k
      ≤ 2 ^ f.mb * 2 * 2 ^ (f.emax - f.mb - 1) :=
        mul_le_mul (by rw [← natCast_two_pow_p]; exact_mod_cast hn) (zpow_le_zpow_right₀ one_le_two (by omega))
          (two_zpow_pos _).le (by positivity)
    _ = 2 ^ f.mb * 2 ^ (f.emax - f.mb) := by rw [mul_assoc, ← zpow_one_add₀ two_ne_zero, add_sub_cancel]
    _ ≤ f.maxM * 2 ^ (f.emax - f.mb) := mul_le_mul_of_nonneg_right hM (two_zpow_pos _).le

theorem tooBig_of_exponent_lt {n : Nat} {k : ℤ} (hn : 2 ^ f.mb ≤ n) (hk : f.emax - f.mb < k) : f.TooBig (n * 2 ^ k) := by
  have hM : (f.maxM : ℚ) < 2 ^ f.mb * 2 := by rw [← natCast_two_pow_p]; exact_mod_cast maxM_lt
  calc (f.maxM : ℚ) * 2 ^ (f.emax - f.mb)
      < 2 ^ f.mb * 2 * 2 ^ (f.emax - f.mb) := mul_lt_mul_of_pos_right hM (two_zpow_pos _)
    _ = 2 ^ f.mb * 2 ^ (1 + (f.emax - f.mb)) := by rw [two_zpow_add, zpow_one, mul_assoc]
    _ ≤ n * 2 ^ k :=
        mul_le_mul (by exact_mod_cast hn) (zpow_le_zpow_right₀ one_le_two (by omega)) (two_zpow_pos _).le n.cast_nonneg

/-- Overflow of a normal significand, by exponents. -/
theorem tooBig_iff_of_normal (hf : f.Ok) {n : Nat} {k : ℤ} (hn : 2 ^ f.mb ≤ n) (hp : n ≤ 2 ^ f.p) :
    f.TooBig (n * 2 ^ k) ↔ f.emax - f.mb < k ∨ (k = f.emax - f.mb ∧ f.maxM < n) := by
  rcases lt_trichotomy k (f.emax - f.mb) with hk | hk | hk
  · exact iff_of_false (not_tooBig_of_lt_exponent hf hp hk) (by omega)
  · rw [TooBig, ← hk, mul_lt_mul_iff_left₀ (two_zpow_pos k), Nat.cast_lt]
    simp
  · exact iff_of_true (tooBig_of_exponent_lt hn hk) (.inl hk)

theorem bitLen_of_normal {n : Nat} (hn : 2 ^ f.mb ≤ n) (hp : n < 2 ^ f.p) : bitLen n = f.p :=
  le_antisymm (bitLen_le_iff.2 hp) (by unfold p; exact Nat.lt_of_not_le fun h => hn.not_gt (bitLen_le_iff.1 h))

theorem bitLen_two_pow (j : Nat) : bitLen (2 ^ j) = j + 1 := by simp [bitLen]

/-- round()'s own test for overflow, by bit length. -/
theorem Sig.tooBig_iff (hf : f.Ok) {n : Nat} {k : ℤ} (h : f.Sig n k) :
    f.TooBig (n * 2 ^ k) ↔ n ≠ 0 ∧ ((bitLen n : ℤ) - 1 + k > f.emax ∨
      ((bitLen n : ℤ) - 1 + k = f.emax ∧ n ≠ 2 ^ f.p ∧ n > f.maxM)) := by
  have hemin := emin_lt_emax hf
  have hmb := Nat.two_pow_pos f.mb
  have hM := maxM_lt (f := f)
  rcases lt_or_ge n (2 ^ f.mb) with hsub | hnorm
  · have hk : k = f.emin - f.mb := le_antisymm (not_lt.1 fun hk => hsub.not_ge (h.normal hk)) h.emin_le
    have hlen := bitLen_le_iff.2 hsub
    exact iff_of_false (not_tooBig_of_lt_exponent hf h.le (by omega)) (by omega)
  · rw [tooBig_iff_of_normal hf hnorm h.le]
    rcases h.le.lt_or_eq with hlt | heq
    · have hlen := bitLen_of_normal hnorm hlt
      have hp : f.p = f.mb + 1 := rfl
      omega
    · have hlen : bitLen n = f.mb + 1 + 1 := by rw [heq, bitLen_two_pow, p]
      omega

theorem pack_lt_and_decode_of_normal (hf : f.Ok) (neg : Bool) {n : Nat} {k : ℤ} (hk : f.emin - f.mb ≤ k) (hn : 2 ^ f.mb ≤ n)
    (hp : n < 2 ^ f.p) (hbig : ¬ f.TooBig (n * 2 ^ k)) :
    f.pack neg n k < 2 ^ f.width ∧ f.decode (f.pack neg n k) = .fin neg n k := by
  rw [tooBig_iff_of_normal hf hn hp.le] at hbig
  have hK : k ≤ f.emax - f.mb := by omega
  have hmax : k = f.emax - f.mb → n ≤ f.maxM := by omega
  have hE : (((k + f.mb + f.bias).toNat : ℕ) : ℤ) = k + f.mb + f.bias := Int.toNat_of_nonneg (by unfold emin at hk; omega)
  have hE1 : 1 ≤ (k + f.mb + f.bias).toNat := by unfold emin at hk; omega
  have hEmax : (k + f.mb + f.bias).toNat ≤ f.maxField := by unfold emax at hK; omega
  have hpack : f.pack neg n k = f.signBit neg + ((k + f.mb + f.bias).toNat * 2 ^ f.mb + (n - 2 ^ f.mb)) := by
    simp only [pack, if_neg hp.ne, if_neg hn.not_gt]
  rw [hpack]
  constructor
  · exact signBit_add_lt neg (fields_lt (hEmax.trans_lt (maxField_lt hf)) (by have := two_pow_p (f := f); omega))
  · rw [decode_normal hf neg hE1 hEmax hn hp (fun h => hmax (by unfold emax; omega)), hE]
    congr 1
    ring

/-- A finite rounded result: its pattern has the format's width and denotes n 2^k with the sign of what was rounded. -/
theorem Sig.decode_pack (hf : f.Ok) (neg : Bool) {n : Nat} {k : ℤ} (h : f.Sig n k) (hbig : ¬ f.TooBig (n * 2 ^ k)) :
    f.pack neg n k < 2 ^ f.width ∧
      ∃ (n' : Nat) (k' : ℤ), f.decode (f.pack neg n k) = .fin neg n' k' ∧ (n' : ℚ) * 2 ^ k' = n * 2 ^ k := by
  have hp := two_pow_p (f := f)
  have hmb := Nat.two_pow_pos f.mb
  rcases lt_or_ge n (2 ^ f.mb) with hsub | hnorm
  · have hk : k = f.emin - f.mb := le_antisymm (not_lt.1 fun hk => hsub.not_ge (h.normal hk)) h.emin_le
    have hpack : f.pack neg n k = f.signBit neg + n := by simp only [pack, if_neg (by omega : n ≠ 2 ^ f.p), if_pos hsub]
    rw [hpack, decode_subnormal hf neg hsub]
    refine ⟨signBit_add_lt neg ?_, n, _, rfl, by rw [hk]⟩
    exact hsub.trans_le (Nat.pow_le_pow_right two_pos (Nat.le_add_left _ _))
  · rcases h.le.lt_or_eq with hlt | heq
    · obtain ⟨hw, hd⟩ := pack_lt_and_decode_of_normal hf neg h.emin_le hnorm hlt hbig
      exact ⟨hw, n, k, hd, rfl⟩
    · have hval : ((2 ^ f.mb : ℕ) : ℚ) * 2 ^ (k + 1) = n * 2 ^ k := by
        rw [heq, natCast_two_pow_p, two_zpow_add]; push_cast; ring
      have hpack : f.pack neg n k = f.pack neg (2 ^ f.mb) (k + 1) := by
        simp only [pack, if_pos heq, if_neg (by omega : 2 ^ f.mb ≠ 2 ^ f.p)]
      rw [hpack]
      obtain ⟨hw, hd⟩ := pack_lt_and_decode_of_normal hf neg (by have := h.emin_le; omega) le_rfl (by omega) (hval ▸ hbig)
      exact ⟨hw, _, _, hd, hval⟩

end Fmt

/-! ### round() (R69) -/

/-- floor(log2) of the magnitude m 2^e. -/
def exponentOf (m : Nat) (e : ℤ) : ℤ := (bitLen m : ℤ) - 1 + e

theorem scaleRound_le_two_pow {mode : Nat} {neg : Bool} {m j : Nat} {e k : ℤ} (h : exponentOf m e < j + k) :
    (scaleRound mode neg m e k).1 ≤ 2 ^ j := by
  refine scaleRound_le ((lt_two_zpow_exponent m e).le.trans ?_)
  rw [Nat.cast_pow, Nat.cast_ofNat, ← zpow_natCast, ← two_zpow_add]
  exact zpow_le_zpow_right₀ one_le_two h

theorem two_pow_le_scaleRound {mode : Nat} {neg : Bool} {m j : Nat} {e k : ℤ} (hm : m ≠ 0) (h : j + k ≤ exponentOf m e) :
    2 ^ j ≤ (scaleRound mode neg m e k).1 := by
  refine le_scaleRound (le_trans ?_ (two_zpow_exponent_le hm e))
  rw [Nat.cast_pow, Nat.cast_ofNat, ← zpow_natCast, ← two_zpow_add]
  exact zpow_le_zpow_right₀ one_le_two h

namespace Fmt

variable {f : Fmt} {mode : Nat} {neg : Bool} {m : Nat} {e : ℤ}

/-- Exponent of the format's spacing near m 2^e. -/
def spacing (f : Fmt) (m : Nat) (e : ℤ) : ℤ := max (exponentOf m e) f.emin - f.p + 1

/-- The significand that round() keeps. -/
def significand (f : Fmt) (mode : Nat) (neg : Bool) (m : Nat) (e : ℤ) : Nat := (scaleRound mode neg m e (f.spacing m e)).1

/-- The significand of p bits, with the exponent unbounded. -/
def unbounded (f : Fmt) (mode : Nat) (neg : Bool) (m : Nat) (e : ℤ) : Nat :=
  (scaleRound mode neg m e (exponentOf m e - f.p + 1)).1

theorem sig_significand (f : Fmt) (mode : Nat) (neg : Bool) (hm : m ≠ 0) (e : ℤ) :
    f.Sig (f.significand mode neg m e) (f.spacing m e) := by
  have hp : (f.p : ℤ) = f.mb + 1 := rfl
  unfold significand spacing
  exact ⟨by omega, scaleRound_le_two_pow (by omega), fun hk => two_pow_le_scaleRound hm (by omega)⟩

/-- Tininess after rounding: the value rounded to p bits with the exponent unbounded, against the least normal. -/
theorem unbounded_lt_iff_tiny (f : Fmt) (mode : Nat) (neg : Bool) (hm : m ≠ 0) (e : ℤ) :
    (f.unbounded mode neg m e : ℚ) * 2 ^ (exponentOf m e - f.p + 1) < 2 ^ f.emin ↔
      exponentOf m e < f.emin ∧ ¬ (exponentOf m e = f.emin - 1 ∧ f.unbounded mode neg m e = 2 ^ f.p) := by
  have hp : (f.p : ℤ) = f.mb + 1 := rfl
  have hle : f.unbounded mode neg m e ≤ 2 ^ f.p := scaleRound_le_two_pow (by omega)
  have hge : 2 ^ f.mb ≤ f.unbounded mode neg m e := two_pow_le_scaleRound hm (by omega)
  have htop : ((2 ^ f.p : ℕ) : ℚ) * 2 ^ (exponentOf m e - f.p + 1) = 2 ^ (exponentOf m e + 1) := by
    rw [Nat.cast_pow, Nat.cast_ofNat, ← zpow_natCast, ← two_zpow_add]; congr 1; ring
  rcases hle.lt_or_eq with hlt | heq
  · have hlow : (2 : ℚ) ^ exponentOf m e ≤ f.unbounded mode neg m e * 2 ^ (exponentOf m e - f.p + 1) := by
      refine le_trans (le_of_eq ?_) (mul_le_mul_of_nonneg_right (Nat.cast_le.2 hge) (two_zpow_pos _).le)
      rw [Nat.cast_pow, Nat.cast_ofNat, ← zpow_natCast, ← two_zpow_add]; congr 1; omega
    have hhigh := mul_lt_mul_of_pos_right (Nat.cast_lt (α := ℚ).2 hlt) (two_zpow_pos (exponentOf m e - f.p + 1))
    rw [htop] at hhigh
    have hiff : (f.unbounded mode neg m e : ℚ) * 2 ^ (exponentOf m e - f.p + 1) < 2 ^ f.emin ↔ exponentOf m e < f.emin :=
      ⟨fun h => (zpow_lt_zpow_iff_right₀ one_lt_two).1 (hlow.trans_lt h),
        fun h => hhigh.trans_le (zpow_le_zpow_right₀ one_le_two h)⟩
    rw [hiff]
    omega
  · rw [heq, htop, zpow_lt_zpow_iff_right₀ one_lt_two]
    omega

/-- NX and UF of an inexact magnitude. -/
def inexactFlags (f : Fmt) (mode : Nat) (neg : Bool) (m : Nat) (e : ℤ) : FlagSet :=
  let inexact := (scaleRound mode neg m e (f.spacing m e)).2
  let tiny := exponentOf m e < f.emin ∧ ¬ (exponentOf m e = f.emin - 1 ∧ f.unbounded mode neg m e = 2 ^ f.p)
  (if inexact then fNX else 0) ||| (if inexact ∧ tiny then fUF else 0)

theorem round_of_not_tooBig (hf : f.Ok) (hm : m ≠ 0)
    (hbig : ¬ f.TooBig (f.significand mode neg m e * 2 ^ f.spacing m e)) :
    f.round mode neg m e = ⟨f.pack neg (f.significand mode neg m e) (f.spacing m e), f.inexactFlags mode neg m e⟩ := by
  rw [(sig_significand f mode neg hm e).tooBig_iff hf] at hbig
  rw [round, if_neg hm]
  exact if_neg hbig

theorem round_of_tooBig (hf : f.Ok) (hm : m ≠ 0) (hbig : f.TooBig (f.significand mode neg m e * 2 ^ f.spacing m e)) :
    f.round mode neg m e = ⟨f.overflow mode neg, f.inexactFlags mode neg m e ||| fOF ||| fNX |||
      (if f.sp = .ieee ∧ f.overflow mode neg % 2 ^ (f.eb + f.mb) = f.infBits then fNF else 0)⟩ := by
  rw [(sig_significand f mode neg hm e).tooBig_iff hf] at hbig
  rw [round, if_neg hm]
  exact if_pos hbig

theorem decode_overflow_neg (hf : f.Ok) (mode : Nat) (neg : Bool) : (f.decode (f.overflow mode neg)).neg = neg := by
  simp only [overflow]
  split
  next h => rw [decode_infinite hf h.1]; rfl
  next => rw [decode_maxBits hf]; rfl

theorem decode_round_neg (hf : f.Ok) (mode : Nat) (neg : Bool) (hm : m ≠ 0) (e : ℤ) :
    (f.decode (f.round mode neg m e).bits).neg = neg := by
  by_cases hbig : f.TooBig (f.significand mode neg m e * 2 ^ f.spacing m e)
  · rw [round_of_tooBig hf hm hbig, decode_overflow_neg hf]
  · obtain ⟨-, n', k', hd, -⟩ := (sig_significand f mode neg hm e).decode_pack hf neg hbig
    rw [round_of_not_tooBig hf hm hbig, hd]
    rfl

end Fmt

/-- A result against the value x, its rounding y at the format's spacing and its rounding yu with the exponent unbounded: the body of
`RoundsTo`. -/
def Fmt.RoundsWith (f : Fmt) (mode : Nat) (x y yu : ℚ) (r : FRes) : Prop :=
  r.flags = (if y = x then 0 else fNX) ||| (if y ≠ x ∧ |yu| < (2 : ℚ) ^ f.emin then fUF else 0) |||
    (if f.TooBig |y| then fOF ||| fNX else 0) ||| (if (f.decode r.bits).isInf then fNF else 0) ∧
  (f.TooBig |y| → r.bits = f.overflow mode (decide (x < 0))) ∧
  (¬ f.TooBig |y| → (f.decode r.bits).value = y ∧ (f.decode r.bits).finite = true ∧ (f.decode r.bits).neg = decide (x < 0) ∧
    r.bits < 2 ^ f.width)

/-- A number rounded to a multiple of 2^k. -/
def roundAt (mode : Nat) (x : ℚ) (k : ℤ) : ℚ := roundQ mode (x / 2 ^ k) * 2 ^ k

theorem roundsTo_iff {f : Fmt} {mode : Nat} {x : ℚ} {r : FRes} : RoundsTo f mode x r ↔
    ∃ e : ℤ, (2 : ℚ) ^ e ≤ |x| ∧ |x| < (2 : ℚ) ^ (e + 1) ∧
      f.RoundsWith mode x (roundAt mode x (max e f.emin - f.p + 1)) (roundAt mode x (e - f.p + 1)) r := Iff.rfl

theorem roundAt_value (mode : Nat) (neg : Bool) (m : Nat) (e k : ℤ) :
    roundAt mode (FV.fin neg m e).value k = signQ neg * ((scaleRound mode neg m e k).1 * 2 ^ k) := by
  rw [roundAt, FV.value_fin, roundQ_eq_scaleRound, toInt_cast, mul_assoc]

namespace Fmt

variable {f : Fmt}

theorem inexactFlags_eq (f : Fmt) (mode : Nat) (neg : Bool) {m : Nat} (hm : m ≠ 0) (e : ℤ) {x y yu : ℚ}
    (hx : x = (FV.fin neg m e).value) (hy : y = signQ neg * (f.significand mode neg m e * 2 ^ f.spacing m e))
    (hyu : |yu| = f.unbounded mode neg m e * 2 ^ (exponentOf m e - f.p + 1)) :
    f.inexactFlags mode neg m e = (if y = x then 0 else fNX) ||| (if y ≠ x ∧ |yu| < (2 : ℚ) ^ f.emin then fUF else 0) := by
  have hexact : (scaleRound mode neg m e (f.spacing m e)).2 = false ↔ y = x := by
    rw [scaleRound_exact_iff, hx, hy, FV.value_fin, mul_right_inj' (signQ_ne_zero neg)]
    rfl
  have htiny : |yu| < (2 : ℚ) ^ f.emin ↔ _ := hyu ▸ unbounded_lt_iff_tiny f mode neg hm e
  simp only [inexactFlags, htiny, ne_eq, ← hexact, Bool.not_eq_false]
  cases (scaleRound mode neg m e (f.spacing m e)).2 <;> rfl

theorem delivered_round (hf : f.Ok) (mode : Nat) (neg : Bool) {m : Nat} (hm : m ≠ 0) (e : ℤ) :
    f.RoundsWith mode (FV.fin neg m e).value (roundAt mode (FV.fin neg m e).value (f.spacing m e))
      (roundAt mode (FV.fin neg m e).value (exponentOf m e - f.p + 1)) (f.round mode neg m e) := by
  have hsign : decide ((FV.fin neg m e).value < 0) = neg := by simp [FV.value_fin_neg_iff hm]
  have hy : roundAt mode (FV.fin neg m e).value (f.spacing m e) =
      signQ neg * (f.significand mode neg m e * 2 ^ f.spacing m e) := roundAt_value ..
  have hyu : |roundAt mode (FV.fin neg m e).value (exponentOf m e - f.p + 1)| =
      f.unbounded mode neg m e * 2 ^ (exponentOf m e - f.p + 1) := by
    rw [roundAt_value, abs_signQ_mul neg (by positivity)]; rfl
  have habs : |roundAt mode (FV.fin neg m e).value (f.spacing m e)| = f.significand mode neg m e * 2 ^ f.spacing m e := by
    rw [hy, abs_signQ_mul neg (by positivity)]
  have hfl := inexactFlags_eq f mode neg hm e rfl hy hyu
  unfold RoundsWith
  rw [← hfl, habs, hsign]
  by_cases hbig : f.TooBig (f.significand mode neg m e * 2 ^ f.spacing m e)
  · rw [round_of_tooBig hf hm hbig, if_pos hbig]
    simp only [decode_isInf_iff hf]
    exact ⟨by rw [BitVec.or_assoc _ fOF fNX], fun _ => trivial, fun h => absurd hbig h⟩
  · obtain ⟨hw, n', k', hd, hv⟩ := (sig_significand f mode neg hm e).decode_pack hf neg hbig
    rw [round_of_not_tooBig hf hm hbig, if_neg hbig]
    simp only [hd]
    refine ⟨by simp [FV.isInf], fun h => absurd h hbig, fun _ => ⟨?_, rfl, rfl, hw⟩⟩
    rw [FV.value_fin, hv, hy]

/-- round() of the model is round() of R69. -/
theorem roundsTo_round (hf : f.Ok) (mode : Nat) (neg : Bool) {m : Nat} (hm : m ≠ 0) (e : ℤ) :
    RoundsTo f mode (FV.fin neg m e).value (f.round mode neg m e) := by
  have habs : |(FV.fin neg m e).value| = m * 2 ^ e := by rw [FV.value_fin, abs_signQ_mul neg (by positivity)]
  exact roundsTo_iff.2 ⟨exponentOf m e, habs ▸ two_zpow_exponent_le hm e, habs ▸ lt_two_zpow_exponent m e,
    delivered_round hf mode neg hm e⟩

theorem round_zero (f : Fmt) (mode : Nat) (neg : Bool) (e : ℤ) : f.round mode neg 0 e = ⟨f.signBit neg, 0⟩ := rfl

end Fmt

end Sys2Proof.Machine
end

section
/-! SUPPORT. Sums, quotients and roots (R71, R94): exact results go through round(), and leading bits with a mark for the rest round as
the number does. -/

namespace Sys2Proof.Machine

/-! ### Magnitudes that round alike -/

/-- Two magnitudes strictly between the same neighbouring multiples of 2^g. -/
def SameCell (g : ℤ) (a b : ℚ) : Prop :=
  ∃ N : Nat, (N * 2 ^ g < a ∧ a < (N + 1) * 2 ^ g) ∧ N * 2 ^ g < b ∧ b < (N + 1) * 2 ^ g

namespace SameCell

variable {g h k : ℤ} {a b : ℚ}

theorem symm (hc : SameCell g a b) : SameCell g b a := by
  obtain ⟨N, ha, hb⟩ := hc
  exact ⟨N, hb, ha⟩

theorem pos (hc : SameCell g a b) : 0 < a := by
  obtain ⟨N, ⟨ha, -⟩, -⟩ := hc
  exact lt_of_le_of_lt (mul_nonneg N.cast_nonneg (two_zpow_pos g).le) ha

theorem coarsen (hgh : g ≤ h) (hc : SameCell g a b) : SameCell h a b := by
  obtain ⟨N, ⟨ha, ha'⟩, hb, hb'⟩ := hc
  obtain ⟨d, rfl⟩ : ∃ d : ℕ, h = d + g := ⟨(h - g).toNat, by omega⟩
  have hlow : ((N / 2 ^ d : ℕ) : ℚ) * 2 ^ ((d : ℤ) + g) ≤ N * 2 ^ g := by
    rw [two_zpow_add, zpow_natCast, ← mul_assoc]
    exact mul_le_mul_of_nonneg_right (by exact_mod_cast Nat.div_mul_le_self N (2 ^ d)) (two_zpow_pos g).le
  have hhigh : ((N : ℚ) + 1) * 2 ^ g ≤ ((N / 2 ^ d : ℕ) + 1) * 2 ^ ((d : ℤ) + g) := by
    rw [two_zpow_add, zpow_natCast, ← mul_assoc]
    exact mul_le_mul_of_nonneg_right (by exact_mod_cast (Nat.lt_mul_of_div_lt (Nat.lt_succ_self _) (Nat.two_pow_pos d))) (two_zpow_pos g).le
  exact ⟨N / 2 ^ d, ⟨hlow.trans_lt ha, ha'.trans_le hhigh⟩, hlow.trans_lt hb, hb'.trans_le hhigh⟩

theorem ne_natCast_mul (hc : SameCell g a b) (z : Nat) : a ≠ z * 2 ^ g := by
  rintro rfl
  obtain ⟨N, ⟨h1, h2⟩, -⟩ := hc
  rw [mul_lt_mul_iff_left₀ (two_zpow_pos g)] at h1 h2
  have h1' : N < z := by exact_mod_cast h1
  have h2' : z < N + 1 := by exact_mod_cast h2
  omega

/-- A common binary exponent. -/
theorem exponent (hc : SameCell k a b) (h1 : (2 : ℚ) ^ k ≤ a) (h2 : a < (2 : ℚ) ^ (k + 1)) :
    (2 : ℚ) ^ k ≤ b ∧ b < (2 : ℚ) ^ (k + 1) := by
  have hk := two_zpow_pos k
  obtain ⟨N, ⟨ha, ha'⟩, hb, hb'⟩ := hc
  rw [zpow_add_one₀ two_ne_zero, mul_comm] at h2 ⊢
  have hN0 : (0 : ℚ) < N := by nlinarith
  have hN2 : (N : ℚ) < 2 := lt_of_mul_lt_mul_right (ha.trans h2) hk.le
  have hN : N = 1 := by
    have : 0 < N := by exact_mod_cast hN0
    have : N < 2 := by exact_mod_cast hN2
    omega
  subst hN
  norm_num at hb hb' ⊢
  constructor <;> linarith

/-- The cell in units of the next coarser spacing. -/
theorem half_cell {N : Nat} (ha : N * 2 ^ (k - 1) < a ∧ a < (N + 1) * 2 ^ (k - 1)) :
    (N : ℚ) / 2 < a / 2 ^ k ∧ a / 2 ^ k < (N + 1) / 2 := by
  have hk := two_zpow_pos k
  rw [zpow_sub_one₀ two_ne_zero] at ha
  rw [lt_div_iff₀ hk, div_lt_iff₀ hk]
  constructor <;> linarith

/-- A common floor, with both rests on the same side of one half. -/
theorem halves (hc : SameCell (k - 1) a b) : ∃ (n : Nat) (r s : ℚ), (0 < r ∧ r < 1) ∧ (0 < s ∧ s < 1) ∧
    a / 2 ^ k = n + r ∧ b / 2 ^ k = n + s ∧ halfOf r = halfOf s := by
  obtain ⟨N, ha, hb⟩ := hc
  obtain ⟨ha, ha'⟩ := half_cell ha
  obtain ⟨hb, hb'⟩ := half_cell hb
  obtain ⟨n, rfl | rfl⟩ := N.even_or_odd'
  all_goals
    push_cast at ha ha' hb hb'
    refine ⟨n, a / 2 ^ k - n, b / 2 ^ k - n, ⟨by linarith, by linarith⟩, ⟨by linarith, by linarith⟩, by ring, by ring, ?_⟩
  · rw [halfOf, halfOf, if_pos (by linarith), if_pos (by linarith)]
  · rw [halfOf, halfOf, if_neg (by linarith), if_neg (by linarith), if_neg (by linarith), if_neg (by linarith)]

theorem roundAt_eq (hc : SameCell (k - 1) a b) (mode : Nat) (neg : Bool) :
    roundAt mode (signQ neg * a) k = roundAt mode (signQ neg * b) k := by
  obtain ⟨n, r, s, ⟨h0, h1⟩, ⟨h0', h1'⟩, ha, hb, hhalf⟩ := hc.halves
  rw [roundAt, roundAt, mul_div_assoc, mul_div_assoc, ha, hb, roundQ_signQ_mul mode neg n h0 h1,
    roundQ_signQ_mul mode neg n h0' h1', hhalf]

theorem roundAt_ne (hc : SameCell (k - 1) a b) (mode : Nat) (neg : Bool) : roundAt mode (signQ neg * a) k ≠ signQ neg * a := by
  obtain ⟨n, r, -, ⟨h0, h1⟩, -, ha, -⟩ := hc.halves
  rw [roundAt, mul_div_assoc, ha, roundQ_signQ_mul mode neg n h0 h1, toInt_cast, mul_assoc, ne_eq,
    mul_right_inj' (signQ_ne_zero neg)]
  exact (hc.coarsen (by omega : k - 1 ≤ k)).ne_natCast_mul _ |>.symm

theorem signQ_mul_neg_iff (hc : SameCell g a b) (neg : Bool) : signQ neg * a < 0 ↔ signQ neg * b < 0 := by
  rw [Machine.signQ_mul_neg_iff neg hc.pos, Machine.signQ_mul_neg_iff neg hc.symm.pos]

end SameCell

/-- What lies strictly between two neighbouring numbers of more than p bits rounds alike, with the same flags. -/
theorem RoundsTo.of_sameCell {f : Fmt} {mode : Nat} {neg : Bool} {g : ℤ} {a b : ℚ} {r : FRes} (hc : SameCell g a b)
    (hlong : (2 : ℚ) ^ (g + f.p) ≤ a) (h : RoundsTo f mode (signQ neg * a) r) : RoundsTo f mode (signQ neg * b) r := by
  obtain ⟨e, he, he', hd⟩ := roundsTo_iff.1 h
  rw [abs_signQ_mul neg hc.pos.le] at he he'
  have hge : g + f.p < e + 1 := (zpow_lt_zpow_iff_right₀ one_lt_two).1 (hlong.trans_lt he')
  have hfine : SameCell (max e f.emin - f.p + 1 - 1) a b := hc.coarsen (by omega)
  have hfree : SameCell (e - f.p + 1 - 1) a b := hc.coarsen (by omega)
  obtain ⟨hb, hb'⟩ := (hc.coarsen (by omega : g ≤ e)).exponent he he'
  rw [roundsTo_iff, abs_signQ_mul neg hc.symm.pos.le]
  refine ⟨e, hb, hb', ?_⟩
  have hx := hfine.roundAt_ne mode neg
  have hx' := hfine.symm.roundAt_ne mode neg
  rw [← hfine.roundAt_eq, ← hfree.roundAt_eq]
  rw [← hfine.roundAt_eq] at hx'
  simpa only [Fmt.RoundsWith, ne_eq, hx, hx', hc.signQ_mul_neg_iff neg] using hd

/-! ### Sums -/

theorem value_signMag (x e : ℤ) : (FV.fin (decide (x < 0)) x.natAbs e).value = x * 2 ^ e := by
  rw [FV.value_fin, ← mul_assoc, Nat.cast_natAbs]
  rcases lt_or_ge x 0 with hx | hx
  · simp [hx, abs_of_neg hx]
  · simp [hx.not_gt, abs_of_nonneg hx]

/-- A finite value in units of a finer power of two. -/
theorem FV.value_fin_eq_toInt (n : Bool) (m : Nat) {e g : ℤ} (hg : g ≤ e) :
    (FV.fin n m e).value = (toInt n (m * 2 ^ (e - g).toNat) : ℤ) * 2 ^ g := by
  rw [FV.value_fin, toInt_cast]
  push_cast
  rw [two_zpow_toNat (by omega), mul_assoc, mul_assoc, ← two_zpow_add, sub_add_cancel]

namespace Fmt

variable {f : Fmt}

/-- The exact sum of two finite values, rounded once; a zero sum by the rule of signs (R71). -/
theorem round_addExact (hf : f.Ok) (mode : Nat) (n1 : Bool) (m1 : Nat) (e1 : ℤ) (n2 : Bool) (m2 : Nat) (e2 : ℤ) {v : ℚ}
    (hv : v = (FV.fin n1 m1 e1).value + (FV.fin n2 m2 e2).value) :
    let s := addExact mode n1 m1 e1 n2 m2 e2
    (v ≠ 0 → RoundsTo f mode v (f.round mode s.1 s.2.1 s.2.2)) ∧
      (v = 0 → f.round mode s.1 s.2.1 s.2.2 = ⟨f.signBit (if n1 = n2 then n1 else decide (mode = 2)), 0⟩) := by
  intro s
  obtain ⟨x, hx⟩ : ∃ x, x = toInt n1 (m1 * 2 ^ (e1 - min e1 e2).toNat) + toInt n2 (m2 * 2 ^ (e2 - min e1 e2).toNat) := ⟨_, rfl⟩
  have hvx : v = x * 2 ^ min e1 e2 := by
    rw [hv, FV.value_fin_eq_toInt n1 m1 (min_le_left e1 e2), FV.value_fin_eq_toInt n2 m2 (min_le_right e1 e2), hx, Int.cast_add,
      add_mul]
  have hzero : v = 0 ↔ x = 0 := by simp [hvx, (two_zpow_pos (min e1 e2)).ne']
  constructor
  · intro h
    have hx0 : x ≠ 0 := mt hzero.2 h
    have hs : s = (decide (x < 0), x.natAbs, min e1 e2) := by
      simp only [s, addExact, ← hx, if_neg hx0, signMag]
    rw [hs, hvx, ← value_signMag]
    exact roundsTo_round hf mode _ (Int.natAbs_ne_zero.2 hx0) _
  · intro h
    have hs : s = (if n1 = n2 then n1 else mode == 2, 0, min e1 e2) := by
      simp only [s, addExact, ← hx, if_pos (hzero.1 h)]
    rw [hs, round_zero]
    rfl

/-! ### Quotients and roots -/

/-- The leading bits of a number, more than p of them, with a mark for what is left below: they round as the number does. -/
theorem roundsTo_roundSticky (hf : f.Ok) (mode : Nat) (neg : Bool) {m : Nat} {e : ℤ} {sticky : Bool} {a : ℚ} (hm : 2 ^ f.p ≤ m)
    (hlow : m * 2 ^ e ≤ a) (hhigh : a < (m + 1) * 2 ^ e) (hsticky : sticky = true ↔ (m : ℚ) * 2 ^ e ≠ a) :
    RoundsTo f mode (signQ neg * a) (f.roundSticky mode neg m e sticky) := by
  have he : (2 : ℚ) ^ e = 2 * 2 ^ (e - 1) := by rw [← zpow_one_add₀ two_ne_zero, add_sub_cancel]
  have hm0 : m ≠ 0 := (Nat.two_pow_pos f.p |>.trans_le hm).ne'
  cases sticky with
  | false =>
    have ha : signQ neg * a = (FV.fin neg (2 * m) (e - 1)).value := by
      have : (m : ℚ) * 2 ^ e = a := by simpa using hsticky
      rw [FV.value_fin, ← this, he]; push_cast; ring
    rw [ha]
    exact roundsTo_round hf mode neg (by omega) _
  | true =>
    have hlt : m * 2 ^ e < a := lt_of_le_of_ne hlow (hsticky.1 rfl)
    have hcell : SameCell e (((2 * m + 1 : ℕ) : ℚ) * 2 ^ (e - 1)) a := by
      have := two_zpow_pos (e - 1)
      refine ⟨m, ⟨?_, ?_⟩, hlt, hhigh⟩ <;> rw [he] <;> push_cast <;> linarith
    have hlong : (2 : ℚ) ^ (e + f.p) ≤ ((2 * m + 1 : ℕ) : ℚ) * 2 ^ (e - 1) := by
      calc (2 : ℚ) ^ (e + f.p) = 2 ^ f.p * 2 ^ e := by rw [add_comm, two_zpow_add, zpow_natCast]
        _ ≤ m * 2 ^ e := mul_le_mul_of_nonneg_right (by exact_mod_cast hm) (two_zpow_pos e).le
        _ ≤ ((2 * m + 1 : ℕ) : ℚ) * 2 ^ (e - 1) := by rw [he]; push_cast; linarith [two_zpow_pos (e - 1)]
    refine RoundsTo.of_sameCell hcell hlong ?_
    rw [← FV.value_fin]
    exact roundsTo_round hf mode neg (by omega) _

end Fmt

/-- A natural quotient against the rational one. -/
theorem natCast_div_bounds (x : Nat) {y : Nat} (hy : y ≠ 0) :
    ((x / y : ℕ) : ℚ) ≤ x / y ∧ (x : ℚ) / y < (x / y : ℕ) + 1 ∧ (((x / y : ℕ) : ℚ) = x / y ↔ x % y = 0) := by
  have hy0 : (0 : ℚ) < y := by exact_mod_cast Nat.pos_of_ne_zero hy
  refine ⟨Nat.cast_div_le, ?_, ?_⟩
  · rw [div_lt_iff₀ hy0]
    exact_mod_cast Nat.lt_mul_of_div_lt (Nat.lt_succ_self _) (Nat.pos_of_ne_zero hy)
  · rw [eq_div_iff hy0.ne']
    norm_cast
    have := Nat.div_add_mod' x y
    omega

namespace Fmt

variable {f : Fmt}

/-- A quotient of finite non-zero values is rounded once. -/
theorem roundsTo_divV (hf : f.Ok) (mode : Nat) (n1 : Bool) {m1 : Nat} (e1 : ℤ) (n2 : Bool) {m2 : Nat} (e2 : ℤ) (h1 : m1 ≠ 0)
    (h2 : m2 ≠ 0) :
    RoundsTo f mode ((FV.fin n1 m1 e1).value / (FV.fin n2 m2 e2).value) (f.divV mode (.fin n1 m1 e1) (.fin n2 m2 e2)) := by
  have hdiv : f.divV mode (.fin n1 m1 e1) (.fin n2 m2 e2) =
      f.roundSticky mode (n1 != n2) (m1 * 2 ^ (f.p + 3 + bitLen m2) / m2) (e1 - e2 - (f.p + 3 + bitLen m2 : ℕ))
        (m1 * 2 ^ (f.p + 3 + bitLen m2) % m2 != 0) := by
    simp only [divV, if_neg h1, if_neg h2, divBits]
  generalize hsh : f.p + 3 + bitLen m2 = sh at hdiv
  have hg := two_zpow_pos (e1 - e2 - sh)
  have ha : (FV.fin n1 m1 e1).value / (FV.fin n2 m2 e2).value =
      signQ (n1 != n2) * (((m1 * 2 ^ sh : ℕ) : ℚ) / m2 * 2 ^ (e1 - e2 - sh)) := by
    have hn : signQ n1 / signQ n2 = signQ n1 * signQ n2 := by cases n2 <;> simp [div_neg]
    rw [FV.value_fin, FV.value_fin, mul_div_mul_comm, hn, signQ_bne, zpow_sub₀ two_ne_zero, zpow_sub₀ two_ne_zero, zpow_natCast]
    push_cast
    field_simp
  obtain ⟨hle, hlt, hexact⟩ := natCast_div_bounds (m1 * 2 ^ sh) h2
  have hlong : 2 ^ f.p ≤ m1 * 2 ^ sh / m2 := by
    rw [Nat.le_div_iff_mul_le (Nat.pos_of_ne_zero h2)]
    calc 2 ^ f.p * m2 ≤ 2 ^ (f.p + 3) * 2 ^ bitLen m2 :=
          Nat.mul_le_mul (Nat.pow_le_pow_right two_pos (by omega)) (lt_two_pow_bitLen m2).le
      _ = 2 ^ sh := by rw [← pow_add, hsh]
      _ ≤ m1 * 2 ^ sh := Nat.le_mul_of_pos_left _ (Nat.pos_of_ne_zero h1)
  rw [ha, hdiv]
  refine roundsTo_roundSticky hf mode _ hlong (mul_le_mul_of_nonneg_right hle hg.le) (mul_lt_mul_of_pos_right hlt hg) ?_
  rw [ne_eq, mul_left_inj' hg.ne', hexact, bne_iff_ne]

end Fmt

/-! ### The integer square root -/

theorem isqrtAux_bounds (n : Nat) : ∀ (i r : Nat), r * r ≤ n → n < (r + 2 ^ i) * (r + 2 ^ i) →
    isqrtAux n i r * isqrtAux n i r ≤ n ∧ n < (isqrtAux n i r + 1) * (isqrtAux n i r + 1)
  | 0, _, hle, hlt => ⟨hle, hlt⟩
  | i + 1, r, hle, hlt => by
    rw [isqrtAux]
    split
    next h => exact isqrtAux_bounds n i _ h (by rwa [add_assoc, ← two_mul, ← pow_succ'])
    next h => exact isqrtAux_bounds n i r hle (not_le.1 h)

theorem isqrt_bounds (n : Nat) : isqrt n * isqrt n ≤ n ∧ n < (isqrt n + 1) * (isqrt n + 1) := by
  refine isqrtAux_bounds n _ 0 (Nat.zero_le n) ((lt_two_pow_bitLen n).trans_le ?_)
  rw [zero_add, ← pow_add]
  exact Nat.pow_le_pow_right two_pos (by omega)

namespace Fmt

variable {f : Fmt}

/-- What the root of a positive value m 2^e gives to round(): more than p leading bits r of it, in units of 2^g. -/
theorem sqrtV_eq_roundSticky (f : Fmt) (mode : Nat) {m : Nat} (hm : m ≠ 0) (e : ℤ) :
    ∃ (r : Nat) (g : ℤ) (sticky : Bool), f.sqrtV mode (.fin false m e) = f.roundSticky mode false r g sticky ∧ 2 ^ f.p ≤ r ∧
      (r * 2 ^ g : ℚ) * (r * 2 ^ g) ≤ m * 2 ^ e ∧ (m : ℚ) * 2 ^ e < ((r + 1) * 2 ^ g) * ((r + 1) * 2 ^ g) ∧
      (sticky = true ↔ (r * 2 ^ g : ℚ) * (r * 2 ^ g) ≠ m * 2 ^ e) := by
  obtain ⟨sh, hsh⟩ : ∃ sh, sh = 2 * (f.p + 3) + if e % 2 = 0 then 0 else 1 := ⟨_, rfl⟩
  obtain ⟨hle, hlt⟩ := isqrt_bounds (m * 2 ^ sh)
  have hlong : 2 ^ f.p ≤ isqrt (m * 2 ^ sh) := by
    have hsq : 2 ^ (f.p + 3) * 2 ^ (f.p + 3) < (isqrt (m * 2 ^ sh) + 1) * (isqrt (m * 2 ^ sh) + 1) := by
      refine lt_of_le_of_lt ?_ hlt
      rw [← pow_add]
      exact (Nat.pow_le_pow_right two_pos (by omega)).trans (Nat.le_mul_of_pos_left _ (Nat.pos_of_ne_zero hm))
    have := Nat.mul_self_lt_mul_self_iff.1 hsq
    have := Nat.pow_le_pow_right two_pos (by omega : f.p ≤ f.p + 3)
    omega
  have hscale : (m : ℚ) * 2 ^ e = (m * 2 ^ sh : ℕ) * (2 ^ ((e - sh) / 2) * 2 ^ ((e - sh) / 2)) := by
    rw [← two_zpow_add, Nat.cast_mul, Nat.cast_pow, Nat.cast_ofNat, mul_assoc, ← zpow_natCast, ← two_zpow_add]
    congr 2
    split at hsh <;> omega
  have hg := mul_pos (two_zpow_pos ((e - sh) / 2)) (two_zpow_pos ((e - sh) / 2))
  refine ⟨_, (e - sh) / 2, isqrt (m * 2 ^ sh) * isqrt (m * 2 ^ sh) != m * 2 ^ sh, ?_, hlong, ?_, ?_, ?_⟩
  · simp only [sqrtV, if_neg hm, hsh]
    rfl
  · rw [mul_mul_mul_comm, hscale]
    exact mul_le_mul_of_nonneg_right (by exact_mod_cast hle) hg.le
  · rw [mul_mul_mul_comm, hscale]
    exact mul_lt_mul_of_pos_right (by exact_mod_cast hlt) hg
  · rw [mul_mul_mul_comm, hscale, ne_eq, mul_left_inj' hg.ne', bne_iff_ne]
    norm_cast

/-- A rational root is rounded once. -/
theorem roundsTo_sqrtV (hf : f.Ok) (mode : Nat) {m : Nat} (hm : m ≠ 0) (e : ℤ) {q : ℚ} (hq : 0 < q)
    (hqq : q * q = m * 2 ^ e) : RoundsTo f mode q (f.sqrtV mode (.fin false m e)) := by
  obtain ⟨r, g, sticky, hsqrt, hlong, hle, hlt, hsticky⟩ := sqrtV_eq_roundSticky f mode hm e
  have hlow : (0 : ℚ) ≤ r * 2 ^ g := by positivity
  rw [← hqq] at hle hlt hsticky
  rw [hsqrt, ← one_mul q, ← signQ_false]
  refine roundsTo_roundSticky hf mode false hlong ((mul_self_le_mul_self_iff hlow hq.le).2 hle)
    ((mul_self_lt_mul_self_iff hq.le (by positivity)).2 hlt) ?_
  rw [hsticky, ne_eq, mul_self_inj hlow hq.le]

/-- An irrational root lies between two neighbouring rationals, and what lies between them rounds to the result. -/
theorem roundsTo_sqrtV_of_irrational (hf : f.Ok) (mode : Nat) {m : Nat} (hm : m ≠ 0) (e : ℤ)
    (hirr : ∀ q : ℚ, q * q ≠ m * 2 ^ e) :
    ∃ lo hi : ℚ, 0 < lo ∧ lo * lo < m * 2 ^ e ∧ m * 2 ^ e < hi * hi ∧ 0 < hi ∧
      ∀ q, lo < q → q < hi → RoundsTo f mode q (f.sqrtV mode (.fin false m e)) := by
  obtain ⟨r, g, sticky, hsqrt, hlong, hle, hlt, hsticky⟩ := sqrtV_eq_roundSticky f mode hm e
  have hr : (0 : ℚ) < r := by exact_mod_cast (Nat.two_pow_pos f.p).trans_le hlong
  refine ⟨r * 2 ^ g, (r + 1) * 2 ^ g, by positivity, lt_of_le_of_ne hle (hirr _), hlt, by positivity, fun q hq hq' => ?_⟩
  rw [hsqrt, ← one_mul q, ← signQ_false]
  exact roundsTo_roundSticky hf mode false hlong hq.le hq' (iff_of_true (hsticky.2 (hirr _)) hq.ne)

end Fmt

end Sys2Proof.Machine
end

section
/-! SUPPORT. The arithmetic by kind of operand (R71, R72, R94): NaN, infinite, zero and finite operands, one equation a kind. -/

namespace Sys2Proof.Machine

/-! ### Kinds of values -/

theorem FV.isNan_iff {x : FV} : x.isNan = true ↔ ∃ s, x = .nan s := by cases x <;> simp [FV.isNan]
theorem FV.isInf_iff {x : FV} : x.isInf = true ↔ ∃ n, x = .inf n := by cases x <;> simp [FV.isInf]
theorem FV.finite_iff {x : FV} : x.finite = true ↔ ∃ n m e, x = .fin n m e := by cases x <;> simp [FV.finite]
theorem FV.not_nan_iff {x : FV} : x.isNan = false ↔ (∃ n, x = .inf n) ∨ ∃ n m e, x = .fin n m e := by
  cases x <;> simp [FV.isNan]

@[simp] theorem FV.isZero_fin (n : Bool) (m : Nat) (e : ℤ) : (FV.fin n m e).isZero = decide (m = 0) := by
  cases m <;> rfl

theorem FV.isZero_iff {x : FV} : x.isZero = true ↔ ∃ n e, x = .fin n 0 e := by
  cases x with
  | fin n m e => simp
  | _ => simp [FV.isZero]

@[simp] theorem FV.isNan_flip (x : FV) : x.flip.isNan = x.isNan := by cases x <;> rfl
@[simp] theorem FV.isSnan_flip (x : FV) : x.flip.isSnan = x.isSnan := by cases x <;> rfl
@[simp] theorem FV.isInf_flip (x : FV) : x.flip.isInf = x.isInf := by cases x <;> rfl
theorem FV.neg_flip {x : FV} (h : x.isNan = false) : x.flip.neg = !x.neg := by
  obtain ⟨n, rfl⟩ | ⟨n, m, e, rfl⟩ := FV.not_nan_iff.1 h <;> rfl

theorem FV.finite_flip (x : FV) : x.flip.finite = x.finite := by cases x <;> rfl

theorem FV.value_flip (x : FV) : x.flip.value = -x.value := by
  cases x with
  | fin n m e => rw [FV.flip, FV.value_fin, FV.value_fin, signQ_not, neg_mul]
  | _ => simp [FV.flip, FV.value]

theorem FV.isNan_of_finite {x : FV} (h : x.finite = true) : x.isNan = false := by
  obtain ⟨n, m, e, rfl⟩ := FV.finite_iff.1 h
  rfl

theorem FV.finite_of_value_ne_zero {x : FV} (h : x.value ≠ 0) : x.finite = true := by
  cases x with
  | fin n m e => rfl
  | _ => exact absurd rfl h

theorem FV.isNan_of_isInf {x : FV} (h : x.isInf = true) : x.isNan = false := by
  obtain ⟨n, rfl⟩ := FV.isInf_iff.1 h
  rfl

theorem FV.eq_fin_of_value_neg {x : FV} (h : x.value < 0) : ∃ m e, m ≠ 0 ∧ x = .fin true m e := by
  obtain ⟨n, m, e, rfl⟩ := FV.finite_iff.1 (FV.finite_of_value_ne_zero h.ne)
  have hm : m ≠ 0 := mt FV.value_fin_eq_zero.2 h.ne
  obtain rfl := (FV.value_fin_neg_iff hm).1 h
  exact ⟨m, e, hm, rfl⟩

theorem FV.eq_fin_of_value_pos {x : FV} (h : 0 < x.value) : ∃ m e, m ≠ 0 ∧ x = .fin false m e := by
  obtain ⟨n, m, e, rfl⟩ := FV.finite_iff.1 (FV.finite_of_value_ne_zero h.ne')
  have hm : m ≠ 0 := mt FV.value_fin_eq_zero.2 h.ne'
  obtain rfl : n = false := by simpa using mt (FV.value_fin_neg_iff hm).2 h.not_gt
  exact ⟨m, e, hm, rfl⟩

/-! ### Special operands of the arithmetic (R72, R94) -/

namespace Fmt

variable {f : Fmt} {mode : Nat} {x y z : FV}

theorem nanRes_flip (f : Fmt) (x y : FV) : f.nanRes [x, y.flip] = f.nanRes [x, y] := by simp [nanRes]

theorem nanRes_singleton (f : Fmt) (x : FV) : f.nanRes [x] = ⟨f.nanBits, fNF ||| (if x.isSnan then fNV else 0)⟩ := by
  simp [nanRes]

theorem addV_of_isNan (h : x.isNan = true ∨ y.isNan = true) : f.addV mode x y = f.nanRes [x, y] := by
  rcases h with h | h <;> obtain ⟨s, rfl⟩ := FV.isNan_iff.1 h
  · rfl
  · cases x <;> rfl

theorem mulV_of_isNan (h : x.isNan = true ∨ y.isNan = true) : f.mulV mode x y = f.nanRes [x, y] := by
  rcases h with h | h <;> obtain ⟨s, rfl⟩ := FV.isNan_iff.1 h
  · rfl
  · cases x <;> rfl

theorem divV_of_isNan (h : x.isNan = true ∨ y.isNan = true) : f.divV mode x y = f.nanRes [x, y] := by
  rcases h with h | h <;> obtain ⟨s, rfl⟩ := FV.isNan_iff.1 h
  · rfl
  · cases x <;> rfl

theorem fmaV_of_isNan (h : x.isNan = true ∨ y.isNan = true ∨ z.isNan = true) : f.fmaV mode x y z = f.nanRes [x, y, z] := by
  rcases h with h | h | h <;> obtain ⟨s, rfl⟩ := FV.isNan_iff.1 h
  · rfl
  · cases x <;> rfl
  · cases x <;> cases y <;> rfl

theorem addV_of_isInf_left (hx : x.isInf = true) (hy : y.isNan = false) :
    f.addV mode x y = if y.isInf && y.neg != x.neg then f.invalid else f.infRes x.neg := by
  obtain ⟨n, rfl⟩ := FV.isInf_iff.1 hx
  obtain ⟨k, rfl⟩ | ⟨k, m, e, rfl⟩ := FV.not_nan_iff.1 hy
  · cases n <;> cases k <;> rfl
  · rfl

theorem addV_of_isInf_right (hx : x.finite = true) (hy : y.isInf = true) : f.addV mode x y = f.infRes y.neg := by
  obtain ⟨k, m, e, rfl⟩ := FV.finite_iff.1 hx
  obtain ⟨n, rfl⟩ := FV.isInf_iff.1 hy
  rfl

theorem divV_of_isInf_left (hx : x.isInf = true) (hy : y.isNan = false) :
    f.divV mode x y = if y.isInf then f.invalid else f.infRes (x.neg != y.neg) := by
  obtain ⟨n, rfl⟩ := FV.isInf_iff.1 hx
  obtain ⟨k, rfl⟩ | ⟨k, m, e, rfl⟩ := FV.not_nan_iff.1 hy <;> rfl

theorem divV_of_isInf_right (hx : x.finite = true) (hy : y.isInf = true) :
    f.divV mode x y = ⟨f.signBit (x.neg != y.neg), 0⟩ := by
  obtain ⟨k, m, e, rfl⟩ := FV.finite_iff.1 hx
  obtain ⟨n, rfl⟩ := FV.isInf_iff.1 hy
  rfl

theorem mulV_of_isInf (hx : x.isNan = false) (hy : y.isNan = false) (h : x.isInf = true ∨ y.isInf = true) :
    f.mulV mode x y = if x.isZero || y.isZero then f.invalid else f.infRes (x.neg != y.neg) := by
  obtain ⟨j, rfl⟩ | ⟨j, m, e, rfl⟩ := FV.not_nan_iff.1 hx <;> obtain ⟨k, rfl⟩ | ⟨k, m', e', rfl⟩ := FV.not_nan_iff.1 hy
  · rfl
  · simp [mulV, FV.isZero_fin, show (FV.inf j).isZero = false from rfl, FV.neg]
  · simp [mulV, FV.isZero_fin, show (FV.inf k).isZero = false from rfl, FV.neg]
  · simp [FV.isInf] at h

theorem fmaV_inf_factor_fin (hx : x.isNan = false) (hy : y.isNan = false) (h : x.isInf = true ∨ y.isInf = true) (n : Bool)
    (m : Nat) (e : ℤ) :
    f.fmaV mode x y (.fin n m e) = if x.isZero ∨ y.isZero then f.invalid else f.infRes (x.neg != y.neg) := by
  rcases h with h | h <;> obtain ⟨j, rfl⟩ := FV.isInf_iff.1 h
  · obtain ⟨k, rfl⟩ | ⟨k, m', e', rfl⟩ := FV.not_nan_iff.1 hy <;> rfl
  · obtain ⟨k, rfl⟩ | ⟨k, m', e', rfl⟩ := FV.not_nan_iff.1 hx <;> rfl

theorem fmaV_inf_factor_inf (hx : x.isNan = false) (hy : y.isNan = false) (h : x.isInf = true ∨ y.isInf = true) (n : Bool) :
    f.fmaV mode x y (.inf n) = if x.isZero ∨ y.isZero then f.invalid
      else if n = (x.neg != y.neg) then f.infRes (x.neg != y.neg) else f.invalid := by
  rcases h with h | h <;> obtain ⟨j, rfl⟩ := FV.isInf_iff.1 h
  · obtain ⟨k, rfl⟩ | ⟨k, m', e', rfl⟩ := FV.not_nan_iff.1 hy <;> rfl
  · obtain ⟨k, rfl⟩ | ⟨k, m', e', rfl⟩ := FV.not_nan_iff.1 hx <;> rfl

/-- A fused multiply-add with an infinite factor. -/
theorem fmaV_of_isInf (hx : x.isNan = false) (hy : y.isNan = false) (hz : z.isNan = false)
    (h : x.isInf = true ∨ y.isInf = true) :
    f.fmaV mode x y z = if x.isZero || y.isZero || (z.isInf && z.neg != (x.neg != y.neg)) then f.invalid
      else f.infRes (x.neg != y.neg) := by
  obtain ⟨n, rfl⟩ | ⟨n, m, e, rfl⟩ := FV.not_nan_iff.1 hz
  · rw [fmaV_inf_factor_inf hx hy h]
    cases x.isZero <;> cases y.isZero <;> cases n <;> cases (x.neg != y.neg) <;> rfl
  · rw [fmaV_inf_factor_fin hx hy h]
    simp [FV.isInf]

theorem fmaV_of_isInf_addend (hx : x.finite = true) (hy : y.finite = true) (hz : z.isInf = true) :
    f.fmaV mode x y z = f.infRes z.neg := by
  obtain ⟨n1, m1, e1, rfl⟩ := FV.finite_iff.1 hx
  obtain ⟨n2, m2, e2, rfl⟩ := FV.finite_iff.1 hy
  obtain ⟨n, rfl⟩ := FV.isInf_iff.1 hz
  rfl

end Fmt

namespace Fmt

variable {f : Fmt} {mode : Nat} {x y z : FV}

/-! ### Arithmetic of finite values -/

theorem addV_of_finite (hf : f.Ok) (mode : Nat) (hx : x.finite = true) (hy : y.finite = true) :
    (x.value + y.value ≠ 0 → RoundsTo f mode (x.value + y.value) (f.addV mode x y)) ∧
      (x.value + y.value = 0 → f.addV mode x y = ⟨f.signBit (if x.neg = y.neg then x.neg else decide (mode = 2)), 0⟩) := by
  obtain ⟨n1, m1, e1, rfl⟩ := FV.finite_iff.1 hx
  obtain ⟨n2, m2, e2, rfl⟩ := FV.finite_iff.1 hy
  exact round_addExact hf mode n1 m1 e1 n2 m2 e2 rfl

theorem value_mul (n1 : Bool) (m1 : Nat) (e1 : ℤ) (n2 : Bool) (m2 : Nat) (e2 : ℤ) :
    (FV.fin n1 m1 e1).value * (FV.fin n2 m2 e2).value = (FV.fin (n1 != n2) (m1 * m2) (e1 + e2)).value := by
  rw [FV.value_fin, FV.value_fin, FV.value_fin, signQ_bne, two_zpow_add]
  push_cast
  ring

theorem mulV_of_finite (hf : f.Ok) (mode : Nat) (hx : x.finite = true) (hy : y.finite = true) :
    (x.value * y.value ≠ 0 → RoundsTo f mode (x.value * y.value) (f.mulV mode x y)) ∧
      (x.value * y.value = 0 → f.mulV mode x y = ⟨f.signBit (x.neg != y.neg), 0⟩) := by
  obtain ⟨n1, m1, e1, rfl⟩ := FV.finite_iff.1 hx
  obtain ⟨n2, m2, e2, rfl⟩ := FV.finite_iff.1 hy
  rw [value_mul]
  refine ⟨fun h => roundsTo_round hf mode _ (mt FV.value_fin_eq_zero.2 h) _, fun h => ?_⟩
  have hm := FV.value_fin_eq_zero.1 h
  rw [mulV, hm, round_zero]
  rfl

theorem fmaV_of_finite (hf : f.Ok) (mode : Nat) (hx : x.finite = true) (hy : y.finite = true) (hz : z.finite = true) :
    (x.value * y.value + z.value ≠ 0 → RoundsTo f mode (x.value * y.value + z.value) (f.fmaV mode x y z)) ∧
      (x.value * y.value + z.value = 0 →
        f.fmaV mode x y z = ⟨f.signBit (if (x.neg != y.neg) = z.neg then x.neg != y.neg else decide (mode = 2)), 0⟩) := by
  obtain ⟨n1, m1, e1, rfl⟩ := FV.finite_iff.1 hx
  obtain ⟨n2, m2, e2, rfl⟩ := FV.finite_iff.1 hy
  obtain ⟨n3, m3, e3, rfl⟩ := FV.finite_iff.1 hz
  exact round_addExact hf mode _ _ _ n3 m3 e3 (by rw [value_mul])

/-! ### Quotients and roots at the rest of the operands -/

theorem divV_zero_right (hx : x.finite = true) (hy : y.isZero = true) :
    f.divV mode x y = if x.isZero then f.invalid else ⟨f.signBit (x.neg != y.neg) + f.infBits, fDZ ||| fNF⟩ := by
  obtain ⟨n1, m1, e1, rfl⟩ := FV.finite_iff.1 hx
  obtain ⟨n2, e2, rfl⟩ := FV.isZero_iff.1 hy
  simp [divV, FV.neg]

theorem divV_zero_left (hx : x.isZero = true) (hy : y.finite = true) (hy0 : y.isZero = false) :
    f.divV mode x y = ⟨f.signBit (x.neg != y.neg), 0⟩ := by
  obtain ⟨n1, e1, rfl⟩ := FV.isZero_iff.1 hx
  obtain ⟨n2, m2, e2, rfl⟩ := FV.finite_iff.1 hy
  have hm : m2 ≠ 0 := by simpa using hy0
  simp [divV, FV.neg, hm]

theorem divV_of_finite (hf : f.Ok) (mode : Nat) (hx : x.finite = true) (hy : y.finite = true) (hx0 : x.isZero = false)
    (hy0 : y.isZero = false) : RoundsTo f mode (x.value / y.value) (f.divV mode x y) := by
  obtain ⟨n1, m1, e1, rfl⟩ := FV.finite_iff.1 hx
  obtain ⟨n2, m2, e2, rfl⟩ := FV.finite_iff.1 hy
  exact roundsTo_divV hf mode n1 e1 n2 e2 (by simpa using hx0) (by simpa using hy0)

theorem sqrtV_of_isNan (h : x.isNan = true) : f.sqrtV mode x = f.nanRes [x] := by
  obtain ⟨s, rfl⟩ := FV.isNan_iff.1 h
  rfl

theorem sqrtV_of_isInf (h : x.isInf = true) : f.sqrtV mode x = if x.neg then f.invalid else f.infRes false := by
  obtain ⟨n, rfl⟩ := FV.isInf_iff.1 h
  cases n <;> rfl

theorem sqrtV_of_isZero (h : x.isZero = true) : f.sqrtV mode x = ⟨f.signBit x.neg, 0⟩ := by
  obtain ⟨n, e, rfl⟩ := FV.isZero_iff.1 h
  rfl

end Fmt

theorem Fmt.sqrtV_of_value_neg {f : Fmt} {mode : Nat} {x : FV} (h : x.value < 0) : f.sqrtV mode x = f.invalid := by
  obtain ⟨m, e, hm, rfl⟩ := FV.eq_fin_of_value_neg h
  simp [Fmt.sqrtV, hm]

/-! ### Differences, and roots of positive values -/

namespace Fmt

variable {f : Fmt} {x y : FV}

theorem sqrtV_of_value_pos (hf : f.Ok) (mode : Nat) (h : 0 < x.value) :
    (∀ q : ℚ, 0 < q → q * q = x.value → RoundsTo f mode q (f.sqrtV mode x)) ∧
      ((∀ q : ℚ, q * q ≠ x.value) → ∃ lo hi : ℚ, 0 < lo ∧ lo * lo < x.value ∧ x.value < hi * hi ∧ 0 < hi ∧
        ∀ q, lo < q → q < hi → RoundsTo f mode q (f.sqrtV mode x)) := by
  obtain ⟨m, e, hm, rfl⟩ := FV.eq_fin_of_value_pos h
  rw [FV.value_fin, signQ_false, one_mul]
  exact ⟨fun q => roundsTo_sqrtV hf mode hm e, roundsTo_sqrtV_of_irrational hf mode hm e⟩

theorem addV_flip_of_isNan {mode : Nat} (h : x.isNan = true ∨ y.isNan = true) : f.addV mode x y.flip = f.nanRes [x, y] := by
  rw [addV_of_isNan (by rwa [FV.isNan_flip]), nanRes_flip]

theorem addV_flip_of_finite (hf : f.Ok) (mode : Nat) (hx : x.finite = true) (hy : y.finite = true) :
    (x.value - y.value ≠ 0 → RoundsTo f mode (x.value - y.value) (f.addV mode x y.flip)) ∧
      (x.value - y.value = 0 →
        f.addV mode x y.flip = ⟨f.signBit (if x.neg = !y.neg then x.neg else decide (mode = 2)), 0⟩) := by
  have h := addV_of_finite hf mode hx ((FV.finite_flip y).trans hy)
  rwa [FV.value_flip, FV.neg_flip (FV.isNan_of_finite hy), ← sub_eq_add_neg] at h

theorem addV_flip_of_isInf_left {mode : Nat} (hx : x.isInf = true) (hy : y.isNan = false) :
    f.addV mode x y.flip = if y.isInf && y.neg == x.neg then f.invalid else f.infRes x.neg := by
  rw [addV_of_isInf_left hx ((FV.isNan_flip y).trans hy), FV.isInf_flip, FV.neg_flip hy]
  cases y.neg <;> cases x.neg <;> rfl

theorem addV_flip_of_isInf_right {mode : Nat} (hx : x.finite = true) (hy : y.isInf = true) :
    f.addV mode x y.flip = f.infRes (!y.neg) := by
  rw [addV_of_isInf_right hx ((FV.isInf_flip y).trans hy), FV.neg_flip (FV.isNan_of_isInf hy)]

end Fmt

end Sys2Proof.Machine
end

section
/-! SUPPORT. The conversions (R73) and the special functions at their special operands (R102). -/

namespace Sys2Proof.Machine

/-! ### Special functions (R102) -/

section
variable {v : Nat}

theorem special_of_isNan (h : (binary32.decode v).isNan = true) :
    ∀ g ∈ [frcpV, frsqV, fexp2V, flog2V, fsinpiV, fcospiV, ftanhV],
      g v = ⟨binary32.nanBits, fNF ||| (if (binary32.decode v).isSnan then fNV else 0)⟩ := by
  obtain ⟨s, hs⟩ := FV.isNan_iff.1 h
  rw [← Fmt.nanRes_singleton, hs]
  simp [frcpV, frsqV, fexp2V, flog2V, fsinpiV, fcospiV, trigV, ftanhV, hs]

theorem special_of_value_neg (h : (binary32.decode v).value < 0) : ∀ g ∈ [frsqV, flog2V], g v = binary32.invalid := by
  obtain ⟨m, e, hm, hd⟩ := FV.eq_fin_of_value_neg h
  simp [frsqV, flog2V, hd, hm]

end

/-! ### Conversions (R73) -/

/-- Truncation, as conversion to an integer does it. -/
theorem toInt_scaleRound_zero (n : Bool) (m : Nat) (e : ℤ) :
    toInt n (scaleRound 1 n m e 0).1 =
      if (FV.fin n m e).value < 0 then ⌈(FV.fin n m e).value⌉ else ⌊(FV.fin n m e).value⌋ := by
  rw [← roundQ_eq_scaleRound, zpow_zero, div_one, ← FV.value_fin]
  rfl

theorem exponent_le_one_of_decode_zero {f : Fmt} {v : Nat} {n : Bool} {e : ℤ} (h : f.decode v = .fin n 0 e) : e ≤ 1 := by
  have hmb := Nat.two_pow_pos f.mb
  simp only [Fmt.decode] at h
  split_ifs at h <;> simp only [FV.fin.injEq] at h
  · obtain ⟨-, -, rfl⟩ := h
    unfold Fmt.emin
    omega
  · omega

/-- F2I of a finite value: the truncated value where w bits hold it, or the bound on its side. A magnitude so large that the model does
not shift it out saturates too. -/
theorem cvtFI_of_finite {src : Fmt} {v : Nat} {n : Bool} {m : Nat} {e : ℤ} (hd : src.decode v = .fin n m e) {w : Nat}
    (hw : w ≤ 64) {x : ℤ} (hx : x = toInt n (scaleRound 1 n m e 0).1) :
    cvtFI src w v =
      if x < -((2 ^ (w - 1) : ℕ) : ℤ) then ⟨wrapN (-((2 ^ (w - 1) : ℕ) : ℤ)) w, fNV⟩
      else if x > ((2 ^ (w - 1) : ℕ) : ℤ) - 1 then ⟨wrapN (((2 ^ (w - 1) : ℕ) : ℤ) - 1) w, fNV⟩ else ⟨wrapN x w, 0⟩ := by
  by_cases hbig : (bitLen m : ℤ) + e > 65
  · have hm : m ≠ 0 := by
      rintro rfl
      have := exponent_le_one_of_decode_zero hd
      have : bitLen 0 = 0 := rfl
      omega
    have hT : 2 ^ 65 ≤ (scaleRound 1 n m e 0).1 := two_pow_le_scaleRound hm (by unfold exponentOf; omega)
    have hpow : 2 ^ (w - 1) ≤ 2 ^ 64 := Nat.pow_le_pow_right two_pos (by omega)
    have hpos := Nat.two_pow_pos (w - 1)
    simp only [cvtFI, hd, if_pos hbig]
    cases n with
    | false =>
      have hx' : x = (scaleRound 1 false m e 0).1 := hx
      rw [if_neg Bool.false_ne_true, if_neg (by omega), if_pos (by omega)]
    | true =>
      have hx' : x = -((scaleRound 1 true m e 0).1 : ℤ) := hx
      rw [if_pos rfl, if_pos (by omega)]
  · simp only [cvtFI, hd, if_neg hbig, ← hx]

theorem wrapN_eq_ofInt (x : ℤ) (w : Nat) : wrapN x w = (BitVec.ofInt w x).toNat := by
  rw [wrapN, BitVec.toNat_ofInt]

theorem wrapN_low {w : Nat} (hw : 0 < w) : wrapN (-((2 ^ (w - 1) : ℕ) : ℤ)) w = 2 ^ (w - 1) := by
  have h2 : 2 ^ w = 2 * 2 ^ (w - 1) := by rw [← pow_succ', Nat.sub_add_cancel hw]
  have := Nat.two_pow_pos (w - 1)
  rw [wrapN, ← Int.add_emod_right, Int.emod_eq_of_lt] <;> omega

theorem wrapN_high {w : Nat} (hw : 0 < w) : wrapN (((2 ^ (w - 1) : ℕ) : ℤ) - 1) w = 2 ^ (w - 1) - 1 := by
  have h2 : 2 ^ w = 2 * 2 ^ (w - 1) := by rw [← pow_succ', Nat.sub_add_cancel hw]
  have := Nat.two_pow_pos (w - 1)
  rw [wrapN, Int.emod_eq_of_lt] <;> omega

theorem sext_toNat_eq_toInt {w : Nat} (hw : 0 < w) (v : BitVec w) : sext v.toNat w = v.toInt := by
  have h2 : 2 ^ w = 2 * 2 ^ (w - 1) := by rw [← pow_succ', Nat.sub_add_cancel hw]
  rw [sext, BitVec.toInt_eq_toNat_cond, Nat.mod_eq_of_lt v.isLt]
  split <;> split <;> omega

/-! ### The formats of the tables -/

theorem ok_of_mem {f : Fmt} (h : f ∈ [binary32, binary64, binary16, bfloat16]) : f.Ok := by
  simp only [List.mem_cons, List.not_mem_nil, or_false] at h
  obtain rfl | rfl | rfl | rfl := h
  exacts [fmtOf_ok 0, fmtOf_ok 1, fmtOf_ok 2, fmtOf_ok 3]

/-- The canonical NaN and the infinity of the formats of the vector instructions (R64). -/
theorem nan_and_inf_of_mem {f : Fmt} {nan inf : Nat} (h : (f, nan, inf) ∈ [(binary32, 0x7FC00000, 0x7F800000),
    (binary64, 0x7FF8000000000000, 0x7FF0000000000000), (binary16, 0x7E00, 0x7C00), (bfloat16, 0x7FC0, 0x7F80)]) :
    f.Ok ∧ nan = f.nanBits ∧ inf = f.infBits := by
  simp only [List.mem_cons, List.not_mem_nil, or_false, Prod.mk.injEq] at h
  obtain ⟨rfl, rfl, rfl⟩ | ⟨rfl, rfl, rfl⟩ | ⟨rfl, rfl, rfl⟩ | ⟨rfl, rfl, rfl⟩ := h
  exacts [⟨fmtOf_ok 0, rfl, rfl⟩, ⟨fmtOf_ok 1, rfl, rfl⟩, ⟨fmtOf_ok 2, rfl, rfl⟩, ⟨fmtOf_ok 3, rfl, rfl⟩]

theorem cvtFF_of_isNan {src dst : Fmt} {v : Nat} (h : (src.decode v).isNan = true) :
    cvtFF src dst v = if dst.sp = .nothing then ⟨0, fNV⟩
      else ⟨dst.nanBits, fNF ||| (if (src.decode v).isSnan then fNV else 0)⟩ := by
  obtain ⟨s, hs⟩ := FV.isNan_iff.1 h
  rw [hs]
  unfold cvtFF
  rw [hs]
  cases dst.sp <;> rfl

theorem cvtFF_of_isInf {src dst : Fmt} {v : Nat} (h : (src.decode v).isInf = true) :
    cvtFF src dst v = if dst.sp = .ieee then ⟨dst.signBit (src.decode v).neg + dst.infBits, fNF⟩
      else ⟨dst.signBit (src.decode v).neg + dst.maxBits, fNV⟩ := by
  obtain ⟨n, hn⟩ := FV.isInf_iff.1 h
  rw [hn]
  unfold cvtFF
  rw [hn]
  cases dst.sp <;> rfl

theorem cvtFF_of_isZero {src dst : Fmt} {v : Nat} (h : (src.decode v).isZero = true) :
    cvtFF src dst v = ⟨dst.signBit (src.decode v).neg, 0⟩ := by
  obtain ⟨n, e, hn⟩ := FV.isZero_iff.1 h
  simp [cvtFF, hn, Fmt.round_zero, FV.neg]

theorem roundsTo_cvtFF {src dst : Fmt} (hf : dst.Ok) {v : Nat} (h : (src.decode v).value ≠ 0) :
    RoundsTo dst 0 (src.decode v).value (cvtFF src dst v) := by
  obtain ⟨n, m, e, hn⟩ := FV.finite_iff.1 (FV.finite_of_value_ne_zero h)
  rw [hn] at h ⊢
  simp only [cvtFF, hn]
  exact Fmt.roundsTo_round hf 0 n (mt FV.value_fin_eq_zero.2 h) e

/-- What the table of R73 needs of each destination format. -/
theorem destination_formats : ∀ d ∈ [(0, 0x7FC00000, 0x7F800000), (1, 0x7FF8000000000000, 0x7FF0000000000000),
      (2, 0x7E00, 0x7C00), (3, 0x7FC0, 0x7F80), (4, 0x7F, 0x7E), (5, 0x7E, 0x7C), (6, 0, 0x1F), (7, 0, 0x1F), (8, 0, 0x7)],
    ((fmtOf d.1).sp = .nothing ↔ ¬ d.1 < 6) ∧ ((fmtOf d.1).sp = .ieee ↔ d.1 < 4 ∨ d.1 = 5) ∧ d.2.1 = (fmtOf d.1).nanBits ∧
      d.2.2 = if (fmtOf d.1).sp = .ieee then (fmtOf d.1).infBits else (fmtOf d.1).maxBits := by
  decide

theorem cvtFI_of_isNan {src : Fmt} {w v : Nat} (h : (src.decode v).isNan = true) : cvtFI src w v = ⟨0, fNV⟩ := by
  obtain ⟨s, hs⟩ := FV.isNan_iff.1 h
  simp only [cvtFI, hs]

theorem cvtFI_of_isInf {src : Fmt} {w v : Nat} (hw : 0 < w) (h : (src.decode v).isInf = true) :
    cvtFI src w v = ⟨if (src.decode v).neg then 2 ^ (w - 1) else 2 ^ (w - 1) - 1, fNV⟩ := by
  obtain ⟨n, hn⟩ := FV.isInf_iff.1 h
  rw [hn]
  cases n
  · simp only [cvtFI, hn, FV.neg, Bool.false_eq_true, if_false, wrapN_high hw]
  · simp only [cvtFI, hn, FV.neg, if_true, wrapN_low hw]

/-- F2I truncates, and saturates beyond w bits. -/
theorem cvtFI_truncates {src : Fmt} {w v : Nat} (hw : 0 < w) (hw' : w ≤ 64) (h : (src.decode v).finite = true) {n : ℤ}
    (hn : n = if (src.decode v).value < 0 then ⌈(src.decode v).value⌉ else ⌊(src.decode v).value⌋) :
    cvtFI src w v = if n < -2 ^ (w - 1) then ⟨2 ^ (w - 1), fNV⟩ else if 2 ^ (w - 1) ≤ n then ⟨2 ^ (w - 1) - 1, fNV⟩
      else ⟨(BitVec.ofInt w n).toNat, 0⟩ := by
  obtain ⟨s, m, e, hd⟩ := FV.finite_iff.1 h
  rw [hd, ← toInt_scaleRound_zero] at hn
  rw [cvtFI_of_finite hd hw' hn, wrapN_low hw, wrapN_high hw, wrapN_eq_ofInt]
  simp only [gt_iff_lt, Int.sub_one_lt_iff, Nat.cast_pow, Nat.cast_ofNat]

theorem cvtIF_zero (w : Nat) (f : Fmt) : cvtIF w f 0 = ⟨0, 0⟩ := by
  have : sext 0 w = 0 := by simp [sext]
  simp [cvtIF, this, Fmt.round_zero, Fmt.signBit]

theorem roundsTo_cvtIF {f : Fmt} (hf : f.Ok) {w : Nat} (hw : 0 < w) {v : BitVec w} (hv : v ≠ 0) :
    RoundsTo f 0 v.toInt (cvtIF w f v.toNat) := by
  have hv0 : v.toInt.natAbs ≠ 0 := by
    rw [Int.natAbs_ne_zero]
    exact fun h => hv (BitVec.eq_of_toInt_eq (h.trans BitVec.toInt_zero.symm))
  have hval := value_signMag v.toInt 0
  rw [zpow_zero, mul_one] at hval
  rw [← hval]
  simp only [cvtIF, sext_toNat_eq_toInt hw]
  exact Fmt.roundsTo_round hf 0 _ hv0 0

end Sys2Proof.Machine

open Sys2Proof.Machine

/-- Settles O23: round() of the model is round() of R69; exact sums, products and the leading bits of quotients and roots go through it, and
each kind of special operand has its own equation. -/
theorem arithmeticRoundsOnce : Obligations.ArithmeticRoundsOnce := by
  unfold Obligations.ArithmeticRoundsOnce
  refine ⟨?round, ?overflow, ?finite, ?special, ?convert, ?fromInt, ?functions, ?table⟩
  case round =>
    exact fun k _ mode m neg e _ hm =>
      ⟨Fmt.roundsTo_round (fmtOf_ok k) mode neg hm e, Fmt.decode_round_neg (fmtOf_ok k) mode neg hm e⟩
  case overflow => decide
  case finite =>
    intro f hf mode a b c _ hx hy x y z zero
    have hok := ok_of_mem hf
    obtain ⟨hadd, hadd0⟩ := Fmt.addV_of_finite hok mode hx hy
    obtain ⟨hsub, hsub0⟩ := Fmt.addV_flip_of_finite hok mode hx hy
    obtain ⟨hmul, hmul0⟩ := Fmt.mulV_of_finite hok mode hx hy
    exact ⟨hadd, hadd0, hsub, hsub0, hmul, hmul0, fun hz => (Fmt.fmaV_of_finite hok mode hx hy hz).1,
      fun hz => (Fmt.fmaV_of_finite hok mode hx hy hz).2⟩
  case special =>
    rintro ⟨f, _, _⟩ hr mode a b c -
    obtain ⟨hok, rfl, rfl⟩ := nan_and_inf_of_mem hr
    intro f' x y z s nan invalid inf
    refine ⟨?nan2, Fmt.fmaV_of_isNan, fun hx hy => ⟨?infLeft, ?infRight, ?infFactor, ?infAddend, ?quotient⟩, Fmt.sqrtV_of_isNan,
      Fmt.sqrtV_of_isInf, Fmt.sqrtV_of_isZero, Fmt.sqrtV_of_value_neg, Fmt.sqrtV_of_value_pos hok mode⟩
    case nan2 =>
      intro h
      simpa only [List.forall_mem_cons, List.not_mem_nil, IsEmpty.forall_iff, implies_true, and_true] using
        ⟨Fmt.addV_of_isNan h, Fmt.addV_flip_of_isNan h, Fmt.mulV_of_isNan h, Fmt.divV_of_isNan h⟩
    case infLeft =>
      exact fun h => ⟨Fmt.addV_of_isInf_left h hy, Fmt.addV_flip_of_isInf_left h hy, Fmt.divV_of_isInf_left h hy⟩
    case infRight =>
      exact fun hfin h => ⟨Fmt.addV_of_isInf_right hfin h, Fmt.addV_flip_of_isInf_right hfin h, Fmt.divV_of_isInf_right hfin h⟩
    case infFactor => exact fun h => ⟨Fmt.mulV_of_isInf hx hy h, fun hz => Fmt.fmaV_of_isInf hx hy hz h⟩
    case infAddend => exact Fmt.fmaV_of_isInf_addend
    case quotient =>
      exact fun hx hy => ⟨Fmt.divV_zero_right hx, fun h => Fmt.divV_zero_left h hy, Fmt.divV_of_finite hok mode hx hy⟩
  case convert =>
    intro src v _ x
    refine ⟨?_, ?_⟩
    · intro d hd dst ieee
      obtain ⟨hnothing, hieee, hnan, htop⟩ := destination_formats _ hd
      refine ⟨fun h => ?_, fun h => ?_, cvtFF_of_isZero, roundsTo_cvtFF (fmtOf_ok d.1)⟩
      · rw [cvtFF_of_isNan h, hnan]
        simp only [dst, hnothing, ite_not]
        rfl
      · rw [cvtFF_of_isInf h, htop]
        simp only [dst, ieee, ← hieee]
        split <;> rfl
    · intro w hw n
      exact ⟨cvtFI_of_isNan, cvtFI_of_isInf (by omega), fun h => cvtFI_truncates (by omega) (by omega) h rfl⟩
  case fromInt =>
    intro w hw k _ v
    exact ⟨fun hv => by rw [hv]; exact cvtIF_zero w _, roundsTo_cvtIF (fmtOf_ok k) (by omega)⟩
  case functions => exact fun v => ⟨special_of_isNan, special_of_value_neg⟩
  case table => decide +kernel
end

section
/-! SUPPORT. Single fields (R34-R41): a field that is read without complaint holds what its kind allows, under the code and mark it was read from. -/

namespace Sys2Proof

variable {side : Side} {r : RegSet} {x8 : BitVec 8} {v : BitVec 7} {mk : Bool} {f : Field} {k : Kind}

/-! ### Register fields -/

theorem nameOf_code {n : Name} (h : n.onSide side = true) : nameOf side n.code = some n := by
  cases side <;> cases n <;> first
  | (cases h; done)
  | next i =>
    obtain ⟨i, hi⟩ := i
    simp (disch := omega) only [nameOf, Name.code, BitVec.toNat_ofNat, Nat.mod_eq_of_lt, dif_pos, dif_neg,
      Nat.add_sub_cancel_left, if_neg]

theorem code_of_nameOf {n : Name} (h : nameOf side v = some n) : n.onSide side = true ∧ n.code = v := by
  have hv := v.isLt
  unfold nameOf at h
  cases side <;> dsimp only at h <;> repeat' split at h
  all_goals
    cases h <;> refine ⟨rfl, BitVec.eq_of_toNat_eq ?_⟩ <;> simp [Name.code] <;> omega

theorem nameOf_eq_some_iff {n : Name} : nameOf side v = some n ↔ n.onSide side = true ∧ n.code = v :=
  ⟨code_of_nameOf, fun h => h.2 ▸ nameOf_code h.1⟩

/-- A last-read mark may stand on a g register of the execute side (R41). -/
def Name.markable (side : Side) (n : Name) : Bool := side == .exec && match n with | .g _ => true | _ => false

theorem readReg_eq_iff {dst markOk : Bool} :
    readReg side r dst markOk x8 v mk = (f, 0) ↔
      ∃ n, f = .reg n mk ∧ n.onSide side = true ∧ n.code = v ∧ r.err side dst x8 n = 0 ∧
        (mk = true → markOk = true ∧ n.markable side = true) := by
  unfold readReg
  cases hn : nameOf side v with
  | none =>
    refine iff_of_false (by simp) ?_
    rintro ⟨n, -, h1, h2, -⟩
    simp [nameOf_eq_some_iff.2 ⟨h1, h2⟩] at hn
  | some n =>
    obtain ⟨hs, hc⟩ := nameOf_eq_some_iff.1 hn
    have huniq : ∀ n', n'.onSide side = true → n'.code = v → n' = n := fun n' h1 h2 => by
      have := nameOf_eq_some_iff.2 ⟨h1, h2⟩
      rw [hn] at this; exact (Option.some.inj this).symm
    constructor
    · intro h
      simp only [Prod.mk.injEq] at h
      obtain ⟨rfl, h⟩ := h
      by_cases he : r.err side dst x8 n = 0
      · refine ⟨n, rfl, hs, hc, he, fun hm => ?_⟩
        subst hm
        cases markOk <;> cases side <;> cases n <;> simp_all [Name.markable]
      · simp [he] at h
    · rintro ⟨n', rfl, h1, h2, he, hm⟩
      obtain rfl := huniq n' h1 h2
      cases mk <;> cases markOk <;> cases side <;> cases n' <;> simp_all [Name.markable]

/-- A kind that one field of its own holds: every kind but the branch offset and those that stand for another. -/
def Kind.single : Kind → Bool
  | .zero | .dst _ | .src _ | .srcU _ | .pred | .obj | .imm _ | .i5 | .i7 => true
  | _ => false

/-- A field that is read without complaint holds what its kind allows and is encoded as the code and mark it was read from, and
the other way round. -/
theorem readField_eq_iff (hk : k.single = true) :
    readField side k x8 v mk = (f, 0) ↔ f.ok k side x8 false = true ∧ f.bits = (v, mk) := by
  cases k with
  | dst r | src r | srcU r =>
    simp only [readField, readReg_eq_iff]
    cases f <;> simp [Field.ok, Field.bits, Name.markable]
    try (cases mk <;> grind)
  | pred =>
    simp only [readField]
    have hv := v.isLt
    cases f with
    | pred p =>
      have hp := p.isLt
      simp only [Prod.mk.injEq, Field.pred.injEq, Field.ok, Field.bits, Bool.false_eq_true, if_false, true_and]
      constructor
      · rintro ⟨rfl, h⟩
        split at h
        · cases h
        · next h' => exact ⟨BitVec.eq_of_toNat_eq (by simp; omega), by simp_all⟩
      · rintro ⟨rfl, rfl⟩
        simp [Fin.ext_iff]; omega
    | _ => simp [Field.ok]
  | obj =>
    simp only [readField]
    cases hn : nameOf side v with
    | none =>
      refine iff_of_false (by simp) ?_
      rintro ⟨h1, h2⟩
      cases f <;> simp [Field.ok, Field.bits] at h1 h2
      next n l =>
      cases n <;> simp at h1
      have : nameOf side v = some _ := nameOf_eq_some_iff.2 ⟨by cases side <;> simp_all [Name.onSide], h2.1⟩
      simp [hn] at this
    | some n =>
      obtain ⟨hs, hc⟩ := nameOf_eq_some_iff.1 hn
      cases f with
      | reg n' l =>
        cases n' with
        | q i =>
          have : Name.onSide side (.q i) = true ∧ (Name.q i).code = v ↔ n = .q i := by
            rw [← nameOf_eq_some_iff, hn, Option.some.injEq]
          cases n <;> cases side <;> simp_all [Field.ok, Field.bits, Name.onSide] <;> grind
        | _ => cases n <;> simp [Field.ok]
      | _ => cases n <;> simp [Field.ok]
  | zero =>
    simp only [readField]
    cases f <;> simp [Field.ok, Field.bits]
    cases mk <;> simp
    exact eq_comm
  | imm m => cases f <;> cases mk <;> simp [readField, Field.ok, Field.bits]; grind
  | i5 => cases f <;> cases mk <;> simp [readField, Field.ok, Field.bits]; grind
  | i7 =>
    cases f <;> cases mk <;> simp [readField, Field.ok, Field.bits]
    exact eq_comm
  | _ => cases hk

end Sys2Proof
end

section
/-! SUPPORT. The encoding table as a whole (R46-R48): what its rows have in common, and that opcodes and instructions name each other. -/

namespace Sys2Proof

/-! ### The encoding table -/

/-- A kind that looks at field c. -/
def Kind.looksAtC (k : Kind) : Bool := k == .copyd || k == .rsb

/-- An immediate with the bits it may set. -/
def Kind.isImm : Kind → Bool
  | .imm _ => true
  | _ => false

/-- A kind of field d that is no source. -/
def Kind.noSource : Kind → Bool
  | .src _ | .srcU _ | .cas | .rfb | .rsb | .movsa => false
  | _ => true

/-- What the rows of the table have in common: an offset fills d, a and b and no other field; field d is no source; and what looks at
field c has an immediate there. -/
def Row.regular (row : Row) : Bool :=
  row.c != .off && !row.c.looksAtC && ((row.d == .off) == (row.a == .off)) && ((row.d == .off) == (row.b == .off)) && row.d.noSource &&
    (row.c.isImm || !(row.d.looksAtC || row.a.looksAtC || row.b.looksAtC)) &&
    (row.d != .off || row.lit == .ok)

theorem compactRow_regular {op : Nat} {row : Row} (h : compactRow op = some row) :
    row.regular = true ∧ row.c = .zero ∧ row.lit ≠ .need ∧ op < 96 := by
  unfold compactRow at h
  split at h <;> first | cases h; done | (obtain rfl := Option.some.inj h; exact ⟨rfl, rfl, by decide, by decide⟩)

theorem wideRow_regular {op sub : Nat} {row : Row} (h : wideRow op sub = some row) : row.regular = true ∧ 96 ≤ op ∧ op ≤ 0x6D := by
  unfold wideRow intwRow fpwRow laneRow ctrlRow memxRow memaRow portRow asyncRow syncRow mtxRow tmxRow fabRow qprgRow sysRow at h
  repeat' split at h
  all_goals first | cases h; done | (obtain rfl := Option.some.inj h; exact ⟨rfl, by decide, by decide⟩)

/-- The sub-opcodes that carry an operation code (R48). -/
def Code.ranged (c : Code) : Bool := c.op ≥ 0x60 && (c.sub == 0x10 || c.sub == 0x20) && (c.op == 0x64 || c.op == 0x65 || c.op == 0x6B)

/-- What the code of an instruction says: its major opcode is assigned in its form, and gives the instruction back where nothing parts it. -/
def Code.regular (c : Code) (i : Instr) : Bool :=
  if c.op < 0x60 then
    c.sub == 0 && (compactLongMk c.op).isSome && (if c.long then compactLongMk c.op else compactMk c.op) == some i
  else c.op ≤ 0x6D && c.long && (c.ranged || decide (c.sub < 0x10) || !(c.op == 0x64 || c.op == 0x65 || c.op == 0x6B)) && decide (c.sub ≤ 0x20)

theorem code_regular {i : Instr} {c : Code} (h : code i = some c) : c.regular i = true := by
  cases i <;> first | cases h; done | (obtain rfl := Option.some.inj h; rfl)

theorem code_of_compactMk {op : Nat} {i : Instr} (h : compactMk op = some i) : code i = some ⟨op, 0, false⟩ := by
  unfold compactMk at h
  split at h <;> first | cases h; done | (obtain rfl := Option.some.inj h; rfl)

theorem code_of_compactLongMk {op : Nat} {i : Instr} (h : compactLongMk op = some i) : code i = some ⟨op, 0, true⟩ := by
  unfold compactLongMk at h
  split at h <;> first | cases h; done | (obtain rfl := Option.some.inj h; rfl)

theorem selOf_ranged {op n : Nat} (h : op = 0x64 ∨ op = 0x65 ∨ op = 0x6B) (hn : 16 ≤ n) : (selOf op n).toNat = n % 16 := by
  rw [selOf, if_pos ⟨h, hn⟩, BitVec.toNat_ofNat]; omega

theorem code_of_wideMk {op sub x8 c : Nat} {i : Instr} (h : wideMk op sub x8 c = some i) :
    ∃ base, code i = some ⟨op, base, true⟩ ∧ base + (selOf op sub).toNat = sub ∧ (selOf op sub ≠ 0 → Code.ranged ⟨op, base, true⟩ = true) := by
  unfold wideMk intwMk fpwMk laneMk ctrlMk memxMk memaMk portMk asyncMk syncMk mtxMk tmxMk fabMk qprgMk sysMk at h
  repeat' split at h
  all_goals first
    | cases h; done
    | (obtain rfl := Option.some.inj h; exact ⟨_, rfl, rfl, fun h => absurd rfl h⟩)
    | (obtain rfl := Option.some.inj h
       exact ⟨_, rfl, by rw [selOf_ranged (by simp) (by omega)]; omega, fun _ => rfl⟩)

theorem wideMk_congr {op sub x8 c c' : Nat} {row : Row} (hrow : wideRow op sub = some row)
    (hc : (∃ m, row.c = .imm m) → c = c') : wideMk op sub x8 c = wideMk op sub x8 c' := by
  unfold wideMk
  split <;> try rfl
  · unfold asyncMk
    split <;> try rfl
    obtain rfl := Option.some.inj hrow
    rw [hc ⟨_, rfl⟩]
  · unfold sysMk
    split <;> try rfl
    obtain rfl := Option.some.inj hrow
    rw [hc ⟨_, rfl⟩]

end Sys2Proof
end

section
/-! SUPPORT. The four fields of an instruction together: reading them and their codes and marks are the same thing. -/

namespace Sys2Proof

variable {side : Side} {row : Row} {sel : BitVec 4} {r : Raw} {o : Ops} {k : Kind}

/-! ### Kinds that stand for another -/

theorem resolve_single (x8 : BitVec 8) (ci : BitVec 7) (p : Pos) (h : k ≠ .off) : (k.resolve side x8 sel ci p).single = true := by
  cases k <;> simp only [Kind.resolve] <;> repeat' split
  all_goals first | rfl | exact absurd rfl h

/-- Only COPY's d and RESUMET's b look at field c. -/
theorem resolve_congr (x8 : BitVec 8) (ci cj : BitVec 7) (p : Pos) (h : k.looksAtC = false) :
    k.resolve side x8 sel ci p = k.resolve side x8 sel cj p := by
  cases k <;> first | rfl | cases h

/-- A field that is no source carries no mark. -/
theorem bits_unmarked {f : Field} {x8 y : BitVec 8} {ci : BitVec 7} (hk : k.noSource = true)
    (h : f.ok (k.resolve side x8 sel ci .d) side y false = true) : f.bits.2 = false := by
  have plain : ∀ k : Kind, (∀ r, k ≠ .src r) → f.ok k side y false = true → f.bits.2 = false := by
    intro k hk h
    cases k with
    | src r => exact absurd rfl (hk r)
    | obj => cases f with
      | reg n l => cases n <;> simp_all [Field.ok, Field.bits]
      | _ => simp_all [Field.ok]
    | _ => cases f <;> simp_all [Field.ok, Field.bits]
  refine plain _ (fun r => ?_) h
  cases k with
  | src r | srcU r | cas | rfb | rsb | movsa => cases hk
  | movp => simp only [Kind.resolve]; cases side <;> cases x8.getLsbD 0 <;> simp
  | xpoll | copyd | movsd => simp only [Kind.resolve]; repeat' split
                             all_goals simp
  | _ => simp [Kind.resolve]

/-! ### The four fields together -/

/-- The fields of words that hold the operands o: each field's code and mark, an offset over the three of them, and the literal. -/
def Ops.Carried (o : Ops) (r : Raw) : Prop :=
  o.c.bits = (r.c, r.lc) ∧ (∀ w, o.b = .lit w → r.lit = w) ∧
    match o.b with
    | .off v => v = r.b ++ r.a ++ r.d ∧ r.la = false ∧ r.lb = false
    | b => o.d.bits = (r.d, false) ∧ o.a.bits = (r.a, r.la) ∧ b.bits = (r.b, r.lb)

def readD (side : Side) (row : Row) (sel : BitVec 4) (r : Raw) : FieldResult :=
  if row.d == .off then (.none, 0) else readField side (row.d.resolve side r.x8 sel r.c .d) r.x8 r.d false

def readA (side : Side) (row : Row) (sel : BitVec 4) (r : Raw) : FieldResult :=
  if row.d == .off then (.none, 0) else readField side (row.a.resolve side r.x8 sel r.c .a) r.x8 r.a r.la

def readB (side : Side) (row : Row) (sel : BitVec 4) (r : Raw) (is96 litOk : Bool) : FieldResult :=
  if row.d == .off then
    if is96 then (.lit r.lit, if r.d ≠ 0 ∨ r.a ≠ 0 ∨ r.b ≠ 0 ∨ r.la ∨ r.lb then 6 else 0)
    else (.off (r.b ++ r.a ++ r.d), if r.la ∨ r.lb then 6 else 0)
  else if is96 && litOk then readLit (row.b.resolve side r.x8 sel r.c .b) r.b r.lb r.lit
  else readField side (row.b.resolve side r.x8 sel r.c .b) r.x8 r.b r.lb

def readC (side : Side) (row : Row) (sel : BitVec 4) (r : Raw) : FieldResult :=
  readField side (row.c.resolve side r.x8 sel r.c .c) r.x8 r.c r.lc

/-- Each of the four fields is read without complaint, and gives the operand. -/
def Ops.ReadFrom (o : Ops) (side : Side) (row : Row) (sel : BitVec 4) (r : Raw) (is96 litOk : Bool) : Prop :=
  readD side row sel r = (o.d, 0) ∧ readA side row sel r = (o.a, 0) ∧ readB side row sel r is96 litOk = (o.b, 0) ∧
    readC side row sel r = (o.c, 0)

theorem imm_ok {x8 : BitVec 8} {m : Nat} {f : Field} (h : f.ok (.imm m) side x8 false = true) : BitVec.ofNat 7 f.immVal = f.bits.1 := by
  cases f <;> simp_all [Field.ok, Field.immVal, Field.bits]

theorem readC_eq_iff (hreg : row.regular = true) (hx : o.x8 = r.x8) (hs : o.sel = sel) :
    readC side row sel r = (o.c, 0) ↔
      o.c.ok (row.c.resolve side o.x8 o.sel (BitVec.ofNat 7 o.c.immVal) .c) side o.x8 false = true ∧ o.c.bits = (r.c, r.lc) := by
  obtain ⟨hoff, hc⟩ : row.c ≠ .off ∧ row.c.looksAtC = false := by simp_all [Row.regular]
  rw [readC, readField_eq_iff (resolve_single _ _ _ hoff), hx, hs, resolve_congr _ (BitVec.ofNat 7 o.c.immVal) r.c _ hc]

/-- What field c holds where another field's kind depends on it. -/
theorem resolve_of_c (hreg : row.regular = true) (hc : o.c.ok (row.c.resolve side o.x8 o.sel (BitVec.ofNat 7 o.c.immVal) .c) side o.x8 false = true)
    (hb : o.c.bits = (r.c, r.lc)) {k : Kind} (hk : k = row.d ∨ k = row.a ∨ k = row.b) (x8 : BitVec 8) (p : Pos) :
    k.resolve side x8 sel (BitVec.ofNat 7 o.c.immVal) p = k.resolve side x8 sel r.c p := by
  cases h : row.c.isImm with
  | true =>
    cases hrc : row.c <;> simp only [hrc, Kind.isImm, Bool.false_eq_true] at h
    rw [hrc] at hc
    rw [imm_ok hc, hb]
  | false =>
    simp only [Row.regular, h, Bool.false_or, Bool.and_eq_true, Bool.not_eq_true', Bool.or_eq_false_iff] at hreg
    obtain ⟨⟨-, ⟨hd, ha⟩, hb⟩, -⟩ := hreg
    apply resolve_congr
    rcases hk with rfl | rfl | rfl <;> assumption

/-- A field of its own is neither an offset nor a literal. -/
theorem not_off_of_ok {f : Field} {x8 : BitVec 8} (h : f.ok k side x8 false = true) : (∀ v, f ≠ .off v) ∧ ∀ w, f ≠ .lit w := by
  cases f <;> cases k <;> simp_all [Field.ok]

theorem lit_of_ok {f : Field} {x8 : BitVec 8} (h : f.ok k side x8 true = true) : ∃ w, f = .lit w := by
  cases f <;> simp_all [Field.ok]

theorem offOk_iff : o.offOk = true ↔ o.d = .none ∧ o.a = .none ∧ ((∃ v, o.b = .off v ∧ o.form ≠ .w96) ∨ ∃ v, o.b = .lit v ∧ o.form = .w96) := by
  unfold Ops.offOk
  cases o.b <;> simp [and_assoc]

theorem readLit_eq_iff {x8 : BitVec 8} {v : BitVec 7} {mk : Bool} {w : W32} {f : Field} :
    readLit k v mk w = (f, 0) ↔ f.ok k side x8 true = true ∧ f = .lit w ∧ f.bits = (v, mk) := by
  unfold readLit
  constructor
  · intro h
    simp only [Prod.mk.injEq] at h
    obtain ⟨rfl, h⟩ := h
    split at h
    · cases h
    · next hv =>
      refine ⟨?_, rfl, ?_⟩
      · cases k <;> simp_all [Field.ok]
      · cases mk <;> simp_all [Field.bits]
  · rintro ⟨h1, rfl, h2⟩
    simp only [Field.bits, Prod.mk.injEq] at h2
    obtain ⟨rfl, rfl⟩ := h2
    cases k <;> simp_all [Field.ok]

/-- In a row of an offset: reading the four fields and their codes and marks are the same thing. -/
theorem readFrom_iff_of_off {is96 litOk : Bool} (hreg : row.regular = true) (hx : o.x8 = r.x8)
    (h96 : is96 = (o.form == .w96)) (hoff : row.d = .off) :
    o.ReadFrom side row o.sel r is96 litOk ↔ o.fieldsOk row side = true ∧ o.Carried r := by
  unfold Ops.ReadFrom Ops.fieldsOk Ops.Carried
  rw [readC_eq_iff hreg hx rfl]
  simp only [readD, readA, readB, hoff, beq_self_eq_true, if_true, Bool.and_eq_true, offOk_iff]
  cases is96 with
  | false =>
    have h96' : o.form ≠ .w96 := by intro h; simp [h] at h96
    rw [if_neg (by simp)]
    constructor
    · rintro ⟨h1, h2, h3, h4, h5⟩
      simp only [Prod.mk.injEq, and_true] at h1 h2 h3
      obtain ⟨h3, h6⟩ := h3
      rw [← h1, ← h2, ← h3]
      refine ⟨⟨h4, rfl, rfl, .inl ⟨_, rfl, h96'⟩⟩, h5, by simp, rfl, ?_⟩
      simpa using h6
    · rintro ⟨⟨h4, h1, h2, ⟨v, h3, -⟩ | ⟨v, -, h⟩⟩, h5, -, h6⟩
      · rw [h3] at h6 ⊢
        obtain ⟨h6, h7, h8⟩ := h6
        exact ⟨by rw [h1], by rw [h2], by simp [h6, h7, h8], h4, h5⟩
      · exact absurd h h96'
  | true =>
    have h96' : o.form = .w96 := by simpa using h96.symm
    rw [if_pos rfl]
    constructor
    · rintro ⟨h1, h2, h3, h4, h5⟩
      simp only [Prod.mk.injEq, and_true] at h1 h2 h3
      obtain ⟨h3, h6⟩ := h3
      rw [← h1, ← h2, ← h3]
      refine ⟨⟨h4, rfl, rfl, .inr ⟨_, rfl, h96'⟩⟩, h5, by simp, ?_⟩
      obtain ⟨hd, ha, hb, hla, hlb⟩ : r.d = 0 ∧ r.a = 0 ∧ r.b = 0 ∧ r.la = false ∧ r.lb = false := by simpa using h6
      rw [hd, ha, hb, hla, hlb]
      exact ⟨rfl, rfl, rfl⟩
    · rintro ⟨⟨h4, h1, h2, ⟨v, -, h⟩ | ⟨v, h3, -⟩⟩, h5, h6, h7⟩
      · exact absurd h96' h
      · rw [h3] at h7 ⊢
        rw [h1, h2] at h7 ⊢
        simp only [Field.bits, Prod.mk.injEq] at h7
        obtain ⟨⟨hd, -⟩, ⟨ha, hla⟩, hb, hlb⟩ := h7
        refine ⟨rfl, rfl, ?_, h4, h5⟩
        rw [h6 v h3, if_neg]
        rintro (h | h | h | h | h)
        · exact h hd.symm
        · exact h ha.symm
        · exact h hb.symm
        · exact absurd (hla.trans h) (by simp)
        · exact absurd (hlb.trans h) (by simp)

/-- Reading the four fields and their codes and marks are the same thing. -/
theorem readFrom_iff {is96 litOk : Bool} (hreg : row.regular = true) (hx : o.x8 = r.x8)
    (h96 : is96 = (o.form == .w96)) (hlit : is96 = true → litOk = true) :
    o.ReadFrom side row o.sel r is96 litOk ↔ o.fieldsOk row side = true ∧ o.Carried r := by
  by_cases hoff : row.d = .off
  · exact readFrom_iff_of_off hreg hx h96 hoff
  obtain ⟨ha, hb⟩ : row.a ≠ .off ∧ row.b ≠ .off := by simp_all [Row.regular]
  unfold Ops.ReadFrom Ops.fieldsOk Ops.Carried
  rw [readC_eq_iff hreg hx rfl]
  simp only [readD, readA, readB, hoff, beq_iff_eq, if_false, Bool.and_eq_true, ← h96]
  rw [readField_eq_iff (resolve_single _ _ _ hoff), readField_eq_iff (resolve_single _ _ _ ha), ← hx]
  by_cases hoc : o.c.ok (row.c.resolve side o.x8 o.sel (BitVec.ofNat 7 o.c.immVal) .c) side o.x8 false = true ∧ o.c.bits = (r.c, r.lc)
  swap
  · tauto
  have hres := fun k hk => resolve_of_c (sel := o.sel) hreg hoc.1 hoc.2 (k := k) hk o.x8
  rw [← hres _ (.inl rfl), ← hres _ (.inr (.inl rfl)), ← hres _ (.inr (.inr rfl))]
  cases is96 with
  | false =>
    rw [if_neg (by simp), readField_eq_iff (resolve_single _ _ _ hb)]
    constructor
    · rintro ⟨⟨h1, h2⟩, ⟨h3, h4⟩, ⟨h5, h6⟩, h7, h8⟩
      obtain ⟨n1, n2⟩ := not_off_of_ok h5
      refine ⟨⟨h7, ⟨h1, h3⟩, h5⟩, h8, fun w hw => absurd hw (n2 w), ?_⟩
      cases hob : o.b with
      | off v => exact absurd hob (n1 v)
      | _ => rw [hob] at h6; exact ⟨h2, h4, h6⟩
    · rintro ⟨⟨h7, ⟨h1, h3⟩, h5⟩, h8, -, h6⟩
      obtain ⟨n1, -⟩ := not_off_of_ok h5
      cases hob : o.b with
      | off v => exact absurd hob (n1 v)
      | _ => rw [hob] at h5 h6; exact ⟨⟨h1, h6.1⟩, ⟨h3, h6.2.1⟩, ⟨h5, h6.2.2⟩, h7, h8⟩
  | true =>
    rw [if_pos (by simp [hlit]), readLit_eq_iff (side := side) (x8 := o.x8)]
    constructor
    · rintro ⟨⟨h1, h2⟩, ⟨h3, h4⟩, ⟨h5, h6, h7⟩, h9, h8⟩
      rw [h6] at h5 h7 ⊢
      exact ⟨⟨h9, ⟨h1, h3⟩, h5⟩, h8, fun w hw => Field.lit.inj hw, h2, h4, h7⟩
    · rintro ⟨⟨h9, ⟨h1, h3⟩, h5⟩, h8, h6, h7⟩
      obtain ⟨w, hw⟩ := lit_of_ok h5
      obtain rfl := h6 w hw
      rw [hw] at h5 h7 ⊢
      exact ⟨⟨h1, h7.1⟩, ⟨h3, h7.2.1⟩, ⟨h5, rfl, h7.2.2⟩, h9, h8⟩

end Sys2Proof
end

section
/-! SUPPORT. The checks of R50 after the row are those of a well-formed instruction; words and the fields they hold. -/

namespace Sys2Proof

variable {cx : DecodeCtx} {side : Side} {row : Row} {sel : BitVec 4} {r : Raw} {o : Ops} {i : Instr} {c : Code} {x : Insn} {w0 w1 w2 : W32}

/-! ### From fields to the instruction -/

/-- The length code of a form (R25). -/
def Form.len : Form → BitVec 2
  | .w32 => 0
  | .w64 => 1
  | .w96 => 2

/-- The fields of words that hold all of the operands o. -/
structure Ops.Fills (o : Ops) (r : Raw) : Prop where
  len : r.len = o.form.len
  pred : r.pred.toNat = o.pred.val
  pneg : r.pneg = o.pneg
  stall : r.stall = o.stall
  x8 : r.x8 = o.x8
  fields : o.Carried r

/-- The literal stands where the row has one (R29). -/
def Ops.litOk (o : Ops) (row : Row) (side : Side) : Bool :=
  match o.form with
  | .w96 => row.lit.allows side o.x8 && rsbLit row.b (BitVec.ofNat 7 o.c.immVal)
  | _ => row.lit != .need

theorem firstErr_eq_zero_iff (es : List Nat) : firstErr es = 0 ↔ ∀ e ∈ es, e = 0 := by
  induction es with
  | nil => simp [firstErr]
  | cons e es ih =>
    simp only [firstErr, List.mem_cons, forall_eq_or_imp, ← ih]
    split
    · next h => simp [h]
    · next h => split <;> simp_all

/-- The form that a length code names (R25). -/
def formOf (len : BitVec 2) : Form := if len = 0 then .w32 else if len = 1 then .w64 else .w96

theorem formOf_eq_iff {len : BitVec 2} {f : Form} (h : len ≠ 3) : formOf len = f ↔ len = f.len := by
  revert len; cases f <;> decide

theorem readOps_eq (cx : DecodeCtx) (row : Row) (i : Instr) (sel : BitVec 4) (r : Raw) :
    readOps cx row i sel r =
      let litOk := row.lit.allows cx.side r.x8 && rsbLit row.b r.c
      let is96 := formOf r.len == .w96
      let rd := readD cx.side row sel r
      let ra := readA cx.side row sel r
      let rb := readB cx.side row sel r is96 litOk
      let rc := readC cx.side row sel r
      let kd := row.d.resolve cx.side r.x8 sel r.c .d
      (⟨formOf r.len, ⟨r.pred.toNat, r.pred.isLt⟩, r.pneg, r.stall, rd.1, ra.1, rb.1, rc.1, r.x8, sel⟩,
        [rd.2, ra.2, rb.2, rc.2, if is96 && !litOk then 6 else 0, if !is96 && row.lit == .need then 6 else 0,
          scalarErr cx.side kd rd.1 (scalarSrcs row.a row.b row.c ra.1 rb.1 rc.1), row.x8.err cx.side r.x8,
          entryErr cx.side i sel r.x8 rd.1 ra.1 ra.1.immVal rc.1.immVal, guardErr cx.side i ⟨r.pred.toNat, r.pred.isLt⟩ r.pneg]) := rfl

/-- A decoder that finds nothing wrong after the side. -/
theorem finish_eq_ok_iff_errs {subOk : Bool} : finish cx row i sel subOk r = .ok x ↔
    sideOk cx row i = true ∧ subOk = true ∧ (∀ e ∈ (readOps cx row i sel r).2, e = 0) ∧ (!privileged i || cx.sup) = true ∧
      x = ⟨i, (readOps cx row i sel r).1⟩ := by
  unfold finish
  cases hs : sideOk cx row i with
  | false => simp
  | true =>
    simp only [Bool.not_true, Bool.false_eq_true, if_false, true_and]
    by_cases he : firstErr ((if subOk = true then 0 else 6) :: (readOps cx row i sel r).2) = 0
    · rw [if_neg (by simpa using he)]
      rw [firstErr_eq_zero_iff, List.forall_mem_cons] at he
      obtain ⟨h1, h2⟩ := he
      have h1 : subOk = true := by cases subOk <;> simp_all
      cases hp : privileged i <;> cases hc : cx.sup <;> simp [h1, eq_comm]
      all_goals exact fun _ => h2
    · rw [if_pos (by simpa using he)]
      refine iff_of_false (by simp) ?_
      rintro ⟨h1, h2, -⟩
      exact he ((firstErr_eq_zero_iff _).2 (List.forall_mem_cons.2 ⟨by simp [h1], h2⟩))

theorem rsbLit_congr (ci cj : BitVec 7) {k : Kind} (h : k.looksAtC = false) : rsbLit k ci = rsbLit k cj := by
  cases k <;> first | rfl | cases h

/-- RESUMET's literal looks at the immediate that field c holds. -/
theorem rsbLit_of_c {side : Side} (hreg : row.regular = true) (hf : o.fieldsOk row side = true) (hb : o.c.bits = (r.c, r.lc)) :
    rsbLit row.b (BitVec.ofNat 7 o.c.immVal) = rsbLit row.b r.c := by
  cases h : row.c.isImm with
  | true =>
    cases hrc : row.c <;> simp only [hrc, Kind.isImm, Bool.false_eq_true] at h
    simp only [Ops.fieldsOk, Bool.and_eq_true, hrc] at hf
    rw [imm_ok hf.1, hb]
  | false =>
    simp only [Row.regular, h, Bool.false_or, Bool.and_eq_true, Bool.not_eq_true', Bool.or_eq_false_iff] at hreg
    exact rsbLit_congr _ _ hreg.1.2.2

theorem resolve_d_of_c {side : Side} (hreg : row.regular = true) (hf : o.fieldsOk row side = true) (hb : o.c.bits = (r.c, r.lc)) (x8 : BitVec 8) :
    row.d.resolve side x8 sel (BitVec.ofNat 7 o.c.immVal) .d = row.d.resolve side x8 sel r.c .d := by
  simp only [Ops.fieldsOk, Bool.and_eq_true] at hf
  exact resolve_of_c hreg hf.1 hb (.inl rfl) _ _

/-- The decoder's checks after the row are those of a well-formed instruction. -/
theorem finish_eq_ok_iff {subOk : Bool} (hreg : row.regular = true) (hlen : r.len ≠ 3) :
    finish cx row i sel subOk r = .ok x ↔
      subOk = true ∧ x.op = i ∧ x.args.sel = sel ∧ x.args.Fills r ∧ x.args.litOk row cx.side = true ∧
        x.args.fieldsOk row cx.side = true ∧ x.checksOk row cx = true := by
  obtain ⟨j, o⟩ := x
  rw [finish_eq_ok_iff_errs, readOps_eq]
  simp only [List.forall_mem_cons, List.not_mem_nil, false_implies, implies_true, and_true, Insn.mk.injEq, Insn.checksOk,
    Bool.and_eq_true, beq_iff_eq]
  constructor
  · rintro ⟨hs, hsub, ⟨ed, ea, eb, ec, e96, eneed, escal, ex8, eent, egd⟩, hpriv, rfl, ho⟩
    have hform : o.form = formOf r.len := by rw [ho]
    have hx : o.x8 = r.x8 := by rw [ho]
    have hsel : o.sel = sel := by rw [ho]
    have hlit : (formOf r.len == .w96) = true → (row.lit.allows cx.side r.x8 && rsbLit row.b r.c) = true := by
      intro h
      by_contra hc
      rw [if_pos ⟨eq_of_beq h, by simp [hc]⟩] at e96
      cases e96
    obtain ⟨hf, hcar⟩ := (readFrom_iff hreg hx (by rw [hform]) hlit).1
      (⟨Prod.ext (by rw [ho]) (hsel ▸ ed), Prod.ext (by rw [ho]) (hsel ▸ ea), Prod.ext (by rw [ho]) (hsel ▸ eb),
        Prod.ext (by rw [ho]) (hsel ▸ ec)⟩ : o.ReadFrom cx.side row o.sel r _ _)
    refine ⟨hsub, rfl, hsel, ⟨(formOf_eq_iff hlen).1 hform.symm, by rw [ho], by rw [ho], by rw [ho], hx.symm, hcar⟩, ?_, hf,
      ⟨⟨⟨⟨hs, by rw [hx, ex8]⟩, by rw [ho]; exact eent⟩, by rw [ho]; exact egd⟩, ?_⟩, hpriv⟩
    · unfold Ops.litOk
      cases hfo : formOf r.len <;> rw [hform, hfo]
      case w96 =>
        simp only [hx, rsbLit_of_c hreg hf hcar.1]
        simpa using hlit (by rw [hfo]; rfl)
      all_goals
        refine bne_iff_ne.2 fun hneed => ?_
        rw [hfo, if_pos ⟨rfl, hneed⟩] at eneed
        cases eneed
    · rw [resolve_d_of_c hreg hf hcar.1, ho]; exact escal
  · rintro ⟨hsub, rfl, rfl, ⟨hlen', hpred, hpneg, hstall, hx, hcar⟩, hlit, hf, ⟨⟨⟨⟨hs, ex8⟩, eent⟩, egd⟩, escal⟩, hpriv⟩
    have hform : formOf r.len = o.form := (formOf_eq_iff hlen).2 hlen'
    have hl : (formOf r.len == .w96) = true → (row.lit.allows cx.side r.x8 && rsbLit row.b r.c) = true := by
      intro h
      rw [hform] at h
      simpa [Ops.litOk, eq_of_beq h, hx, rsbLit_of_c hreg hf hcar.1] using hlit
    obtain ⟨hd, ha, hb, hc⟩ := (readFrom_iff hreg hx.symm (by rw [hform]) hl).2 ⟨hf, hcar⟩
    have hp : (⟨r.pred.toNat, r.pred.isLt⟩ : Fin 8) = o.pred := Fin.ext hpred
    rw [hd, ha, hb, hc, hform, hx, hpneg, hstall, hp]
    rw [resolve_d_of_c hreg hf hcar.1] at escal
    refine ⟨hs, hsub, ⟨rfl, rfl, rfl, rfl, ?_, ?_, escal, ex8, eent, egd⟩, hpriv, rfl, rfl⟩
    · rw [hform, hx] at hl
      refine if_neg fun ⟨h1, h2⟩ => ?_
      rw [hl (by rw [h1]; rfl)] at h2
      cases h2
    · refine if_neg fun ⟨h1, h2⟩ => ?_
      unfold Ops.litOk at hlit
      cases hfo : o.form <;> simp_all

/-! ### Words of fields -/

theorem ofWords_word0 (w0 w1 w2 : W32) : (Raw.ofWords w0 w1 w2).word0 = w0 := by
  apply BitVec.eq_of_getLsbD_eq
  intro i hi
  simp only [Raw.ofWords, Raw.word0, BitVec.getLsbD_append, BitVec.getLsbD_extractLsb', BitVec.getLsbD_ofBool]
  interval_cases i <;> simp

theorem ofWords_word1 (w0 w1 w2 : W32) : (Raw.ofWords w0 w1 w2).word1 = w1 := by
  apply BitVec.eq_of_getLsbD_eq
  intro i hi
  simp only [Raw.ofWords, Raw.word1, BitVec.getLsbD_append, BitVec.getLsbD_extractLsb', BitVec.getLsbD_ofBool]
  interval_cases i <;> simp

theorem ofWords_words (r : Raw) (w : W32) : Raw.ofWords r.word0 r.word1 w = { r with lit := w } := by
  obtain ⟨lb, la, b, a, d, op, len, x8, stall, sub, lc, c, pneg, pred, lit⟩ := r
  simp only [Raw.ofWords, Raw.word0, Raw.word1, Raw.mk.injEq, and_true]
  refine ⟨?_, ?_, ?_, ?_, ?_, ?_, ?_, ?_, ?_, ?_, ?_, ?_, ?_, ?_⟩
  case refine_1 | refine_2 | refine_11 | refine_13 =>
    simp only [BitVec.getLsbD_append, BitVec.getLsbD_ofBool]
    simp
  all_goals
    apply BitVec.eq_of_getLsbD_eq
    intro i hi
    simp only [BitVec.getLsbD_append, BitVec.getLsbD_extractLsb', BitVec.getLsbD_ofBool]
    interval_cases i <;> simp

end Sys2Proof
end

section
/-! SUPPORT. The fields an instruction is encoded with, the row and the instruction that words name, and the way from words to bytes and back. -/

namespace Sys2Proof

variable {cx : DecodeCtx} {side : Side} {row : Row} {sel : BitVec 4} {r : Raw} {o : Ops} {i : Instr} {c : Code} {x : Insn} {w0 w1 w2 : W32}

/-! ### The fields an instruction is encoded with -/

/-- Field b is a literal in the 96-bit form, and in no other (R29). -/
theorem lit_iff_w96 (h : o.fieldsOk row side = true) : (∃ w, o.b = .lit w) ↔ o.form = .w96 := by
  simp only [Ops.fieldsOk, Bool.and_eq_true] at h
  obtain ⟨-, h⟩ := h
  split at h
  · obtain ⟨-, -, ⟨v, hb, hf⟩ | ⟨v, hb, hf⟩⟩ := offOk_iff.1 h <;> simp [hb, hf]
  · simp only [Bool.and_eq_true] at h
    obtain ⟨-, h⟩ := h
    cases hf : (o.form == Form.w96) <;> rw [hf] at h
    · have h2 := (not_off_of_ok h).2
      simp only [beq_eq_false_iff_ne, ne_eq] at hf
      simp [h2, hf]
    · simp [lit_of_ok h, eq_of_beq hf]

/-- An offset stands alone (R32). -/
theorem alone_of_off {v : BitVec 21} (h : o.fieldsOk row side = true) (hb : o.b = .off v) : o.d = .none ∧ o.a = .none := by
  simp only [Ops.fieldsOk, Bool.and_eq_true] at h
  obtain ⟨-, h⟩ := h
  split at h
  · obtain ⟨hd, ha, -⟩ := offOk_iff.1 h
    exact ⟨hd, ha⟩
  · simp only [Bool.and_eq_true, hb] at h
    obtain ⟨-, h⟩ := h
    cases hf : (o.form == Form.w96) <;> rw [hf] at h
    · exact absurd rfl ((not_off_of_ok h).1 v)
    · obtain ⟨w, hw⟩ := lit_of_ok h; cases hw

/-- Field d carries no mark: no row has a source there. -/
theorem d_unmarked (hreg : row.regular = true) (h : o.fieldsOk row side = true) : o.d.bits.2 = false := by
  simp only [Ops.fieldsOk, Bool.and_eq_true] at h
  obtain ⟨-, h⟩ := h
  split at h
  · rw [(offOk_iff.1 h).1]; rfl
  · simp only [Bool.and_eq_true] at h
    exact bits_unmarked (by simp_all [Row.regular]) h.1.1

theorem off_eq_append (v : BitVec 21) : v = v.extractLsb' 14 7 ++ v.extractLsb' 7 7 ++ v.extractLsb' 0 7 := by
  apply BitVec.eq_of_getLsbD_eq
  intro i hi
  simp only [BitVec.getLsbD_append, BitVec.getLsbD_extractLsb']
  interval_cases i <;> simp

theorem extract_append (b a d : BitVec 7) :
    (b ++ a ++ d).extractLsb' 14 7 = b ∧ (b ++ a ++ d).extractLsb' 7 7 = a ∧ (b ++ a ++ d).extractLsb' 0 7 = d := by
  refine ⟨?_, ?_, ?_⟩ <;> apply BitVec.eq_of_getLsbD_eq <;> intro i hi <;>
    simp only [BitVec.getLsbD_append, BitVec.getLsbD_extractLsb'] <;> interval_cases i <;> simp

theorem carried_raw (hreg : row.regular = true) (h : x.args.fieldsOk row side = true) (c : Code) : x.args.Carried (x.raw c) := by
  have hmark := d_unmarked hreg h
  have halone := fun v => alone_of_off (v := v) h
  obtain ⟨op, form, p, n, st, d, a, b, c', x8, sel⟩ := x
  cases b with
  | off v =>
    obtain ⟨rfl, rfl⟩ := halone v rfl
    exact ⟨rfl, by simp, off_eq_append v, rfl, rfl⟩
  | lit w => exact ⟨rfl, fun _ hw => Field.lit.inj hw, Prod.ext rfl hmark, rfl, rfl⟩
  | _ => exact ⟨rfl, by simp, Prod.ext rfl hmark, rfl, rfl⟩

theorem fills_raw (hreg : row.regular = true) (h : x.args.fieldsOk row side = true) (c : Code) : x.args.Fills (x.raw c) := by
  have hcar := carried_raw hreg h c
  obtain ⟨op, form, p, n, st, d, a, b, c', x8, sel⟩ := x
  have hp : (BitVec.ofNat 3 p.val).toNat = p.val := by have := p.isLt; simp
  cases b <;> exact ⟨by cases form <;> rfl, hp, rfl, rfl, rfl, hcar⟩

theorem Ops.Fills.lit (h : o.Fills r) (v : W32) (hb : ∀ w, o.b = .lit w → v = w) : o.Fills { r with lit := v } :=
  ⟨h.len, h.pred, h.pneg, h.stall, h.x8, h.fields.1, hb, h.fields.2.2⟩

theorem raw_op (x : Insn) (c : Code) : (x.raw c).op = BitVec.ofNat 7 c.op := by
  obtain ⟨op, form, p, n, st, d, a, b, c', x8, sel⟩ := x
  cases b <;> rfl

theorem raw_sub (x : Insn) (c : Code) : (x.raw c).sub = BitVec.ofNat 8 (c.sub + x.args.sel.toNat) := by
  obtain ⟨op, form, p, n, st, d, a, b, c', x8, sel⟩ := x
  cases b <;> rfl

theorem raw_lit (x : Insn) (c : Code) : (x.raw c).lit = x.args.b.litWord := by
  obtain ⟨op, form, p, n, st, d, a, b, c', x8, sel⟩ := x
  cases b <;> rfl

/-- Words that hold the operands of an instruction, under its code, are the ones it is encoded with. -/
theorem raw_of_fills (h : x.args.Fills r) (hf : x.args.fieldsOk row side = true) (hop : r.op = BitVec.ofNat 7 c.op)
    (hsub : r.sub = BitVec.ofNat 8 (c.sub + x.args.sel.toNat)) : { x.raw c with lit := r.lit } = r := by
  have halone := fun v => alone_of_off (v := v) hf
  obtain ⟨hlen, hpred, hpneg, hstall, hx8, hc, -, hb⟩ := h
  obtain ⟨op', form, p, n, st, d', a', b', c'', x8', sel⟩ := x
  obtain ⟨lb, la, b, a, d, op, len, x8, stall, sub, lc, c', pneg, pred, lit⟩ := r
  simp only at hlen hpred hpneg hstall hx8 hc hb hop hsub
  have hpred' : BitVec.ofNat 3 p.val = pred := BitVec.eq_of_toNat_eq (by rw [← hpred]; simp)
  subst hpred' hpneg hstall hx8 hop hsub hlen
  clear hf
  cases b' with
  | off v =>
    obtain ⟨rfl, rfl⟩ := halone v rfl
    obtain ⟨rfl, rfl, rfl⟩ := hb
    obtain ⟨h1, h2, h3⟩ := extract_append b a d
    simp only [Insn.raw, hc, h1, h2, h3]
    cases form <;> rfl
  | _ =>
    obtain ⟨hd, ha, hb⟩ := hb
    simp only [Insn.raw, hc, hd, ha, hb]
    cases form <;> rfl

/-! ### Which row and which instruction -/

/-- A row of the table that gives the instruction i, with what its words carry of it: the compact majors in the short and the longer
form, and the wide majors. -/
inductive Names (r : Raw) (row : Row) (i : Instr) (sel : BitVec 4) : Prop where
  | short (hop : r.op.toNat < 0x60) (hrow : compactRow r.op.toNat = some row) (hlen : r.len = 0) (hmk : compactMk r.op.toNat = some i)
      (hlong : (compactLongMk r.op.toNat).isSome = true) (hsel : sel = 0)
  | long (hop : r.op.toNat < 0x60) (hrow : compactRow r.op.toNat = some row) (hlen : r.len ≠ 0) (hmk : compactLongMk r.op.toNat = some i)
      (hsub : r.sub = 0) (hsel : sel = 0)
  | wide (hop : 0x60 ≤ r.op.toNat) (hrow : wideRow r.op.toNat r.sub.toNat = some row)
      (hmk : wideMk r.op.toNat r.sub.toNat r.x8.toNat r.c.toNat = some i) (hsel : sel = selOf r.op.toNat r.sub.toNat)

theorem Names.regular {sel : BitVec 4} (h : Names r row i sel) : row.regular = true := by
  cases h with
  | short _ hrow | long _ hrow => exact (compactRow_regular hrow).1
  | wide _ hrow => exact (wideRow_regular hrow).1

/-- I2F and F2I have no short form: the formats that x8 zero would name are turned away (R99). -/
theorem x8_of_compactMk_none {op : Nat} (hrow : compactRow op = some row) (hmk : compactMk op = none) (side : Side) : row.x8.err side 0 ≠ 0 := by
  unfold compactRow at hrow
  split at hrow <;> first | (cases hmk; done) | (cases hrow; done) | (obtain rfl := Option.some.inj hrow; cases side <;> decide)

theorem compactLongMk_isSome {op : Nat} (hrow : compactRow op = some row) : (compactLongMk op).isSome = true := by
  unfold compactRow at hrow
  split at hrow <;> first | rfl | cases hrow

/-- The fields of words under word0's length: those that a 32-bit instruction does not have are word1's default. -/
def Raw.lenOk (r : Raw) : Prop := r.len ≠ 3 ∧ (r.len = 0 → r.op.toNat < 0x60 ∧ r.x8 = 0 ∧ r.stall = 0 ∧ r.sub = 0 ∧ r.lc = false ∧ r.c = 0 ∧ r.pneg = false ∧ r.pred = 7)

/-- What decodes under fields of words. -/
theorem decodeRaw_eq_ok_iff (h : r.lenOk) : decodeRaw cx r = .ok x ↔
    ∃ row, Names r row x.op x.args.sel ∧ finish cx row x.op x.args.sel true r = .ok x := by
  constructor
  · intro hd
    unfold decodeRaw at hd
    dsimp only at hd
    split at hd
    · next hop =>
      split at hd
      · next row _ long hrow hmkl =>
        split at hd
        · next hlen =>
          split at hd
          · next i hmk =>
            obtain ⟨-, rfl, hsel, -⟩ := (finish_eq_ok_iff (compactRow_regular hrow).1 h.1).1 hd
            exact ⟨_, .short hop hrow hlen hmk (by simp [hmkl]) hsel, hsel ▸ hd⟩
          · next hmk =>
            obtain ⟨-, -, -, hfill, -, -, hchk⟩ := (finish_eq_ok_iff (compactRow_regular hrow).1 h.1).1 hd
            simp only [Insn.checksOk, Bool.and_eq_true, beq_iff_eq, ← hfill.x8, (h.2 hlen).2.1] at hchk
            exact absurd hchk.1.1.1.1.2 (x8_of_compactMk_none hrow hmk _)
        · next hlen =>
          obtain ⟨hsub, rfl, hsel, -⟩ := (finish_eq_ok_iff (compactRow_regular hrow).1 h.1).1 hd
          simp only [decide_eq_true_eq] at hsub
          refine ⟨_, .long hop hrow hlen hmkl hsub hsel, ?_⟩
          simpa [hsub, hsel] using hd
      · cases hd
    · next hop =>
      split at hd
      · next row i hrow hmk =>
        obtain ⟨-, rfl, hsel, -⟩ := (finish_eq_ok_iff (wideRow_regular hrow).1 h.1).1 hd
        exact ⟨row, .wide (by omega) hrow hmk hsel, hsel ▸ hd⟩
      · cases hd
  · rintro ⟨row, hn, hf⟩
    cases hn with
    | short hop hrow hlen hmk hlong hsel =>
      obtain ⟨l, hl⟩ := Option.isSome_iff_exists.1 hlong
      rw [decodeRaw_compact_short hop hlen hrow hmk hl, ← hsel]; exact hf
    | long hop hrow hlen hmk hsub hsel =>
      rw [decodeRaw_compact_long hop hlen hrow hmk, decide_eq_true hsub, ← hsel]; exact hf
    | wide hop hrow hmk hsel =>
      rw [decodeRaw_wide hop hrow hmk, ← hsel]; exact hf


theorem immVal_of_imm {m : Nat} {f : Field} {x8 : BitVec 8} (h : f.ok (.imm m) side x8 false = true) : f.immVal = f.bits.1.toNat := by
  cases f <;> simp_all [Field.ok, Field.immVal, Field.bits]

/-- What parts the instructions of a sub-opcode is read alike from field c and from its immediate. -/
theorem wideMk_of_c {op sub : Nat} (hrow : wideRow op sub = some row) (hf : o.fieldsOk row side = true) (hb : o.c.bits = (r.c, r.lc)) (x8 : Nat) :
    wideMk op sub x8 o.c.immVal = wideMk op sub x8 r.c.toNat := by
  refine wideMk_congr hrow fun ⟨m, hm⟩ => ?_
  simp only [Ops.fieldsOk, Bool.and_eq_true, hm] at hf
  rw [immVal_of_imm hf.1, hb]

theorem code_of_names (hn : Names r row x.op x.args.sel) (hl : r.lenOk) (hfill : x.args.Fills r) (hf : x.args.fieldsOk row side = true) :
    ∃ c, code x.op = some c ∧ r.op = BitVec.ofNat 7 c.op ∧ r.sub = BitVec.ofNat 8 (c.sub + x.args.sel.toNat) ∧ c.long = decide (r.len ≠ 0) ∧
      x.row = some row ∧ x.codeOk c = true := by
  cases hn with
  | short hop hrow hlen hmk hlong hsel =>
    have hc := code_of_compactMk hmk
    refine ⟨_, hc, by simp, by simp [hsel, (hl.2 hlen).2.2.2.1], by simp [hlen], ?_, ?_⟩
    · simp only [Insn.row, hc, if_pos hop, hrow]
    · simp [Insn.codeOk, hsel, hop]
  | long hop hrow hlen hmk hsub hsel =>
    have hc := code_of_compactLongMk hmk
    refine ⟨_, hc, by simp, by simp [hsel, hsub], by simp; exact hlen, ?_, ?_⟩
    · simp only [Insn.row, hc, if_pos hop, hrow]
    · simp [Insn.codeOk, hsel, hop]
  | wide hop hrow hmk hsel =>
    obtain ⟨base, hc, hadd, hran⟩ := code_of_wideMk hmk
    rw [← hsel] at hadd hran
    have hlen : r.len ≠ 0 := fun h => absurd (hl.2 h).1 (by omega)
    refine ⟨_, hc, by simp, by simp [hadd], by simp; exact hlen, ?_, ?_⟩
    · simp only [Insn.row, hc, if_neg (Nat.not_lt.2 hop), hadd, hrow]
    · rw [Insn.codeOk, if_neg (Nat.not_lt.2 hop), hadd, wideMk_of_c hrow hf hfill.fields.1, ← hfill.x8, hmk, beq_self_eq_true, Bool.and_true]
      by_cases h0 : x.args.sel = 0
      · simp [h0]
      · have := hran h0
        simp only [Code.ranged] at this
        simp [this]

theorem names_of_code (hc : code x.op = some c) (hrow : x.row = some row) (hok : x.codeOk c = true) (hop : r.op = BitVec.ofNat 7 c.op)
    (hsub : r.sub = BitVec.ofNat 8 (c.sub + x.args.sel.toNat)) (hlong : c.long = decide (r.len ≠ 0)) (hfill : x.args.Fills r)
    (hf : x.args.fieldsOk row side = true) : Names r row x.op x.args.sel := by
  have hreg := code_regular hc
  simp only [Insn.row, hc] at hrow
  unfold Code.regular at hreg
  by_cases h : c.op < 0x60
  · have hop' : r.op.toNat = c.op := by rw [hop, BitVec.toNat_ofNat]; omega
    rw [if_pos h] at hrow
    simp only [if_pos h, Bool.and_eq_true, beq_iff_eq] at hreg
    obtain ⟨⟨hs, hl⟩, hmk⟩ := hreg
    have hsel : x.args.sel = 0 := by
      simp only [Insn.codeOk, Bool.and_eq_true] at hok
      have h1 : decide (c.op ≥ 0x60) = false := by simpa using h
      simpa [h1] using hok.1
    by_cases hlen : r.len = 0
    · rw [hlong, if_neg (by simp [hlen])] at hmk
      exact .short (by omega) (hop' ▸ hrow) hlen (hop' ▸ hmk) (hop' ▸ hl) hsel
    · rw [hlong, if_pos (by simp; exact hlen)] at hmk
      exact .long (by omega) (hop' ▸ hrow) hlen (hop' ▸ hmk) (by simp [hsub, hs, hsel]) hsel
  · rw [if_neg h] at hrow
    simp only [if_neg h, Bool.and_eq_true, decide_eq_true_eq] at hreg
    obtain ⟨⟨⟨ho, hl⟩, hrg⟩, hs⟩ := hreg
    have hop' : r.op.toNat = c.op := by rw [hop, BitVec.toNat_ofNat]; omega
    have hselb := x.args.sel.isLt
    have hsub' : r.sub.toNat = c.sub + x.args.sel.toNat := by rw [hsub, BitVec.toNat_ofNat]; omega
    simp only [Insn.codeOk, Bool.and_eq_true, if_neg h, beq_iff_eq] at hok
    obtain ⟨hran, hmk⟩ := hok
    rw [wideMk_of_c hrow hf hfill.fields.1, ← hfill.x8] at hmk
    refine .wide (by omega) (by rw [hop', hsub', hrow]) (by rw [hop', hsub', hmk]) ?_
    rw [hop', hsub']
    unfold selOf
    cases hr : c.ranged with
    | true =>
      simp only [Code.ranged, Bool.and_eq_true, Bool.or_eq_true, beq_iff_eq, decide_eq_true_eq] at hr
      rw [if_pos (by omega)]
      refine BitVec.eq_of_toNat_eq ?_
      rw [BitVec.toNat_ofNat]; omega
    | false =>
      have h0 : x.args.sel = 0 := by
        simp only [Code.ranged] at hr
        simpa [hr] using hran
      have : x.args.sel.toNat = 0 := by rw [h0]; rfl
      simp only [hr, Bool.false_or, Bool.or_eq_true, decide_eq_true_eq, Bool.not_eq_true', Bool.or_eq_false_iff, beq_eq_false_iff_ne] at hrg
      rw [if_neg (by omega), h0]

/-! ### Words and their fields -/

/-- Words an instruction of a length has, in fields: the others are word1's default and a literal of zero (R25, R28). -/
def Raw.ofLen (len : BitVec 2) (w0 w1 w2 : W32) : Raw :=
  Raw.ofWords w0 (if len.toNat + 1 = 1 then defaultWord1 else w1) (if len.toNat + 1 = 3 then w2 else 0)

theorem word0Check_ok {n : Nat} (h : word0Check w0 = .ok n) :
    n = (w0.extractLsb' 0 2).toNat + 1 ∧ w0.extractLsb' 0 2 ≠ 3 ∧ (w0.extractLsb' 0 2 = 0 → (w0.extractLsb' 2 7).toNat < 0x60) := by
  unfold word0Check at h
  dsimp only at h
  repeat' split at h
  all_goals first
    | cases h; done
    | (obtain rfl := Except.ok.inj h; exact ⟨rfl, fun h => by simp_all, fun h => by simp_all⟩)

theorem lenOk_ofLen (h : w0.extractLsb' 0 2 ≠ 3) (hop : w0.extractLsb' 0 2 = 0 → (w0.extractLsb' 2 7).toNat < 0x60) :
    (Raw.ofLen (w0.extractLsb' 0 2) w0 w1 w2).lenOk := by
  refine ⟨h, fun h0 => ?_⟩
  have h0 : w0.extractLsb' 0 2 = 0 := h0
  refine ⟨hop h0, ?_⟩
  rw [h0]
  have h1 : (0 : BitVec 2).toNat + 1 = 1 := rfl
  simp only [Raw.ofLen, Raw.ofWords, h1, if_true]
  decide

theorem formOk_iff {long : Bool} (hl : r.lenOk) (hfill : o.Fills r) (hlong : long = decide (r.len ≠ 0)) (hlit : o.litOk row side = true) :
    o.formOk row side long = true := by
  unfold Ops.formOk
  unfold Ops.litOk at hlit
  have hlen := hfill.len
  cases hf : o.form <;> rw [hf] at hlit hlen <;> rw [hlen] at hlong <;> subst hlong
  · obtain ⟨-, hx, hst, -, -, -, hpn, hp⟩ := hl.2 hlen
    have : o.pred.val = 7 := by rw [← hfill.pred, hp]; rfl
    simp [this, ← hfill.x8, ← hfill.stall, ← hfill.pneg, hx, hst, hpn, Form.len]
  · simpa [Form.len] using hlit
  · simpa [Form.len] using hlit

theorem encode_eq (hc : code x.op = some c) (hr : { x.raw c with lit := w2 } = r) (hlit : x.args.form = .w96 → x.args.b.litWord = w2) :
    encode x = match x.args.form with | .w32 => [r.word0] | .w64 => [r.word0, r.word1] | .w96 => [r.word0, r.word1, w2] := by
  subst hr
  unfold encode
  rw [hc]
  cases hf : x.args.form <;> simp only [raw_lit]
  · rfl
  · rfl
  · rw [hlit hf]; rfl

/-! ### Bytes -/

theorem wordAt_bytesOf (w : W32) (bs : List Byte) : wordAt (bytesOf w ++ bs) 0 = w := by
  show w.extractLsb' 24 8 ++ w.extractLsb' 16 8 ++ w.extractLsb' 8 8 ++ w.extractLsb' 0 8 = w
  apply BitVec.eq_of_getLsbD_eq
  intro i hi
  simp only [BitVec.getLsbD_append, BitVec.getLsbD_extractLsb']
  interval_cases i <;> simp

theorem wordAt_skip (w : W32) (bs : List Byte) (i : Nat) : wordAt (bytesOf w ++ bs) (i + 4) = wordAt bs i := rfl

theorem length_flatMap_bytesOf (ws : List W32) : (ws.flatMap bytesOf).length = ws.length * 4 := by
  induction ws with
  | nil => rfl
  | cons w ws ih => rw [List.flatMap_cons, List.length_append, ih, List.length_cons]; simp only [bytesOf, List.length_cons, List.length_nil]; omega

/-- An instruction that decodes from its words, whatever stands for the words it does not have, decodes from their bytes. -/
theorem decode_bytes {ws : List W32} {rest : List Byte} (hlen : ws.length * 4 = x.args.form.bytes)
    (h : ∀ w1 w2, decodeWords cx (ws.getD 0 0) (ws.getD 1 w1) (ws.getD 2 w2) = .ok x) :
    decode cx (ws.flatMap bytesOf ++ rest) = .ok (x, rest) := by
  have hd : decodeWords cx (wordAt (ws.flatMap bytesOf ++ rest) 0) (wordAt (ws.flatMap bytesOf ++ rest) 4)
      (wordAt (ws.flatMap bytesOf ++ rest) 8) = .ok x := by
    match ws, hlen with
    | [], hlen => cases hf : x.args.form <;> simp [hf, Form.bytes] at hlen
    | [a], _ =>
      simp only [List.flatMap_cons, List.flatMap_nil, List.append_assoc, List.nil_append, wordAt_bytesOf]
      exact h _ _
    | [a, b], _ =>
      simp only [List.flatMap_cons, List.flatMap_nil, List.append_assoc, List.nil_append, wordAt_bytesOf, wordAt_skip _ _ 0]
      exact h 0 _
    | [a, b, d], _ =>
      simp only [List.flatMap_cons, List.flatMap_nil, List.append_assoc, List.nil_append, wordAt_bytesOf, wordAt_skip _ _ 0,
        wordAt_skip _ _ 4]
      exact h 0 0
    | a :: b :: d :: e :: ws, hlen => cases hf : x.args.form <;> simp [hf, Form.bytes] at hlen <;> omega
  unfold decode
  rw [hd]
  dsimp only
  rw [List.drop_left' (by rw [length_flatMap_bytesOf, hlen])]

/-! ### An instruction's own words -/

theorem word0_len (r : Raw) : r.word0.extractLsb' 0 2 = r.len := congrArg Raw.len (ofWords_words r 0)
theorem word0_op (r : Raw) : r.word0.extractLsb' 2 7 = r.op := congrArg Raw.op (ofWords_words r 0)

theorem raw_toNat_op (hc : code x.op = some c) : (x.raw c).op.toNat = c.op := by
  have hreg := code_regular hc
  unfold Code.regular at hreg
  rw [raw_op, BitVec.toNat_ofNat]
  split at hreg
  · omega
  · simp only [Bool.and_eq_true, decide_eq_true_eq] at hreg; omega

/-- A short form has the default word1 (R28). -/
theorem lenOk_raw (hc : code x.op = some c) (hrow : x.row = some row) (hok : x.codeOk c = true) (hform : x.args.formOk row side c.long = true)
    (hfill : x.args.Fills (x.raw c)) (hf : x.args.fieldsOk row side = true) : (x.raw c).lenOk := by
  have hreg := code_regular hc
  refine ⟨by rw [hfill.len]; cases x.args.form <;> decide, fun h0 => ?_⟩
  have h32 : x.args.form = .w32 := by
    rw [hfill.len] at h0
    cases hfo : x.args.form <;> rw [hfo] at h0 <;> first | rfl | cases h0
  simp only [Ops.formOk, h32, Bool.and_eq_true, Bool.not_eq_true', beq_iff_eq] at hform
  obtain ⟨⟨⟨⟨hlong, hp⟩, hpn⟩, hst⟩, hx⟩ := hform
  have hop : c.op < 0x60 := by
    by_contra h
    simp only [Code.regular, if_neg h, hlong, Bool.and_eq_true] at hreg
    exact absurd hreg.1.1.2 (by simp)
  simp only [Code.regular, if_pos hop, Bool.and_eq_true, beq_iff_eq] at hreg
  have hsel : x.args.sel = 0 := by
    have h1 : decide (c.op ≥ 0x60) = false := by simpa using hop
    simp only [Insn.codeOk, Bool.and_eq_true, h1] at hok
    simpa using hok.1
  have hcz : row.c = .zero := by
    simp only [Insn.row, hc, if_pos hop] at hrow
    exact (compactRow_regular hrow).2.1
  have hcn : x.args.c = .none := by
    simp only [Ops.fieldsOk, hcz, Kind.resolve, Bool.and_eq_true] at hf
    cases hcc : x.args.c <;> simp_all [Field.ok]
  have hcb := hfill.fields.1
  rw [hcn] at hcb
  simp only [Field.bits, Prod.mk.injEq] at hcb
  have hsub : (x.raw c).sub = 0 := by rw [raw_sub, hsel, hreg.1.1]; rfl
  exact ⟨by rw [raw_toNat_op hc]; exact hop, hfill.x8.trans hx, hfill.stall.trans hst, hsub, hcb.2.symm, hcb.1.symm, hfill.pneg.trans hpn,
    BitVec.eq_of_toNat_eq (hfill.pred.trans hp)⟩

theorem litOk_of_formOk (hc : code x.op = some c) (hrow : x.row = some row) (hform : x.args.formOk row side c.long = true) :
    x.args.litOk row side = true := by
  unfold Ops.litOk
  cases hfo : x.args.form <;> simp only [Ops.formOk, hfo, Bool.and_eq_true, Bool.not_eq_true'] at hform
  · have hop : c.op < 0x60 := by
      by_contra h
      have hreg := code_regular hc
      simp only [Code.regular, if_neg h, hform.1.1.1.1, Bool.and_eq_true] at hreg
      exact absurd hreg.1.1.2 (by simp)
    simp only [Insn.row, hc, if_pos hop] at hrow
    simpa using (compactRow_regular hrow).2.2.1
  · exact hform.2
  · simpa using ⟨hform.1.2, hform.2⟩

theorem word1_default (h : r.lenOk) (h0 : r.len = 0) : r.word1 = defaultWord1 := by
  obtain ⟨-, hx, hst, hs, hlc, hc, hpn, hp⟩ := h.2 h0
  simp only [Raw.word1, hx, hst, hs, hlc, hc, hpn, hp]
  decide

/-- Every row of a major opcode passes word0's checks in the lengths it has (R50). -/
theorem word0Check_raw (hc : code x.op = some c) (hrow : x.row = some row) (hl : (x.raw c).lenOk) :
    word0Check (x.raw c).word0 = .ok ((x.raw c).len.toNat + 1) := by
  unfold word0Check
  simp only [word0_len, word0_op, raw_toNat_op hc]
  have h3 : (x.raw c).len.toNat ≠ 3 := fun h => hl.1 (BitVec.eq_of_toNat_eq h)
  rw [if_neg h3]
  simp only [Insn.row, hc] at hrow
  by_cases hop : c.op < 0x60
  · rw [if_pos hop] at hrow ⊢
    rw [hrow]
  · have hreg := code_regular hc
    simp only [Code.regular, if_neg hop, Bool.and_eq_true, decide_eq_true_eq] at hreg
    have h0 : (x.raw c).len.toNat ≠ 0 := fun h => hop (raw_toNat_op hc ▸ (hl.2 (BitVec.eq_of_toNat_eq h)).1)
    rw [if_neg hop, if_neg (by omega), if_neg h0]

end Sys2Proof

open Sys2Proof

/-- Settles O2: the words of a well-formed instruction name its row and hold its operands, so every check of R50 passes and gives them back. -/
theorem decodeOfEncode : Obligations.DecodeOfEncode := by
  unfold Obligations.DecodeOfEncode
  intro cx x rest h
  unfold Insn.wellFormed at h
  split at h
  swap
  · cases h
  next c row hc hrow =>
  simp only [Bool.and_eq_true] at h
  obtain ⟨⟨⟨hok, hform⟩, hf⟩, hchk⟩ := h
  have hreg : row.regular = true := by
    unfold Insn.row at hrow
    rw [hc] at hrow
    dsimp only at hrow
    split at hrow
    · exact (compactRow_regular hrow).1
    · exact (wideRow_regular hrow).1
  have hfill := fills_raw hreg hf c
  have hl := lenOk_raw hc hrow hok hform hfill hf
  have h96 := fun h => (lit_iff_w96 hf).2 h
  have hdec : ∀ w1 w2, (x.args.form ≠ .w32 → w1 = (x.raw c).word1) → (x.args.form = .w96 → w2 = x.args.b.litWord) →
      decodeWords cx (x.raw c).word0 w1 w2 = .ok x := by
    intro w1 w2 h1 h2
    rw [decodeWords_of_word0Check_ok (word0Check_raw hc hrow hl)]
    have e1 : (if (x.raw c).len.toNat + 1 = 1 then defaultWord1 else w1) = (x.raw c).word1 := by
      split
      · next h => exact (word1_default hl (BitVec.eq_of_toNat_eq (by simpa using h))).symm
      · next h => exact h1 fun hw => h (by rw [hfill.len, hw]; rfl)
    rw [e1, ofWords_words]
    have hfill' : x.args.Fills { x.raw c with lit := if (x.raw c).len.toNat + 1 = 3 then w2 else 0 } := by
      refine hfill.lit _ fun w hw => ?_
      have hw96 := (lit_iff_w96 hf).1 ⟨w, hw⟩
      rw [hfill.len, hw96, if_pos (by decide), h2 hw96, hw]; rfl
    have hl' : Raw.lenOk { x.raw c with lit := if (x.raw c).len.toNat + 1 = 3 then w2 else 0 } := hl
    have hlong : c.long = decide ((x.raw c).len ≠ 0) := by
      rw [hfill.len]
      cases hfo : x.args.form <;> simp only [Ops.formOk, hfo, Bool.and_eq_true, Bool.not_eq_true'] at hform
      · rw [hform.1.1.1.1]; rfl
      · rw [hform.1]; rfl
      · rw [hform.1.1]; rfl
    have hlit := litOk_of_formOk hc hrow hform
    have hn' : Names { x.raw c with lit := if (x.raw c).len.toNat + 1 = 3 then w2 else 0 } row x.op x.args.sel :=
      names_of_code hc hrow hok (raw_op x c) (raw_sub x c) hlong hfill' hf
    exact (decodeRaw_eq_ok_iff hl').2 ⟨row, hn', (finish_eq_ok_iff hreg hl'.1).2 ⟨rfl, rfl, rfl, hfill', hlit, hf, hchk⟩⟩
  unfold encodeBytes encode
  rw [hc]
  dsimp only
  cases hfo : x.args.form
  · exact decode_bytes (by rw [hfo]; rfl) fun w1 w2 => hdec _ _ (by simp [hfo]) (by simp [hfo])
  · exact decode_bytes (by rw [hfo]; rfl) fun w1 w2 => hdec _ _ (fun _ => rfl) (by simp [hfo])
  · exact decode_bytes (by rw [hfo]; rfl) fun w1 w2 => hdec _ _ (fun _ => rfl) (fun _ => raw_lit x c)

/-- Settles O3: words that pass every check of R50 hold the operands they give, and the code of their instruction. -/
theorem encodeOfDecode : Obligations.EncodeOfDecode := by
  unfold Obligations.EncodeOfDecode
  intro cx w0 w1 w2 x h
  cases hw : word0Check w0 with
  | error e => rw [decodeWords_of_word0Check_error hw] at h; cases h
  | ok n =>
    rw [decodeWords_of_word0Check_ok hw] at h
    obtain ⟨rfl, h3, h0⟩ := word0Check_ok hw
    have hl := lenOk_ofLen (w1 := w1) (w2 := w2) h3 h0
    obtain ⟨row, hn, hfin⟩ := (decodeRaw_eq_ok_iff hl).1 h
    obtain ⟨-, -, -, hfill, hlit, hf, hchk⟩ := (finish_eq_ok_iff hn.regular hl.1).1 hfin
    obtain ⟨c, hc, hop, hsub, hlong, hrow, hcode⟩ := code_of_names hn hl hfill hf
    have hlen : w0.extractLsb' 0 2 = x.args.form.len := hfill.len
    refine ⟨?_, ?_⟩
    · simp only [Insn.wellFormed, hc, hrow, hcode, formOk_iff hl hfill hlong hlit, hf, hchk, Bool.and_self]
    · rw [encode_eq hc (raw_of_fills hfill hf hop hsub) fun h96 => ?_]
      · simp only [Raw.ofLen, ofWords_word0, ofWords_word1, hlen]
        cases x.args.form <;> simp [Form.len, Form.bytes, Raw.ofWords]
      · obtain ⟨w, hw⟩ := (lit_iff_w96 hf).2 h96
        rw [hfill.fields.2.1 w hw, hw]; rfl

end

section
/-! SUPPORT. Canonical memories (00_scope.md, Notation), for each kind of result a function of the model has: a state, an optional
state, an instruction's run, an outcome, and the results of the loops that read and write memory piece by piece. -/

namespace Sys2Proof.Machine

/-- From a canonical memory to a canonical memory. -/
def MemKept (s t : State) : Prop := Memory.wf s.mem = true → Memory.wf t.mem = true

theorem memKept_local : Local MemKept where
  refl _ h := h
  trans h1 h2 h := h2 (h1 h)
  ex _ _ _ _ h := h
  ap _ _ _ _ h := h
  engine _ _ _ h := h
  ports _ _ h := h
  strips _ _ _ h := h
  ctx _ _ _ h := h
  mgmt _ _ h := h

/-- A state that comes out, if one does, has a canonical memory; so in the next definitions for the other shapes of a result. -/
def OptWf (x : Option State) : Prop := ∀ t, x = some t → Memory.wf t.mem = true

def ExceptWf {ε : Type} (x : Except ε State) : Prop := ∀ t, x = .ok t → Memory.wf t.mem = true

theorem OptWf.none : OptWf none := by rintro t ⟨⟩

theorem OptWf.some {s : State} (h : Memory.wf s.mem = true) : OptWf (some s) := by rintro t ⟨⟩; exact h

theorem OptWf.pure {s : State} (h : Memory.wf s.mem = true) : OptWf (pure s) := OptWf.some h

theorem OptWf.bind {x : Option State} {f : State → Option State} (h : OptWf x) (hf : ∀ s, Memory.wf s.mem = true → OptWf (f s)) :
    OptWf (x >>= f) := by
  intro t ht
  obtain ⟨s, hs, ht⟩ := Option.bind_eq_some_iff.1 ht
  exact hf s (h s hs) t ht

theorem OptWf.bind_any {α : Type} {x : Option α} {f : α → Option State} (hf : ∀ a, OptWf (f a)) : OptWf (x >>= f) := by
  intro t ht
  obtain ⟨s, -, ht⟩ := Option.bind_eq_some_iff.1 ht
  exact hf s t ht

theorem OptWf.bind' {x : Option State} {f : State → Option State} (h : OptWf x) (hf : ∀ s, Memory.wf s.mem = true → OptWf (f s)) :
    OptWf (x.bind f) := OptWf.bind h hf

theorem OptWf.bind_any' {α : Type} {x : Option α} {f : α → Option State} (hf : ∀ a, OptWf (f a)) :
    OptWf (x.bind f) := OptWf.bind_any hf

theorem OptWf.map {x : Option State} {f : State → State} (h : OptWf x) (hf : ∀ s, Memory.wf s.mem = true → Memory.wf
    (f s).mem = true) :
    OptWf (x.map f) := by
  intro t ht
  obtain ⟨s, hs, rfl⟩ := Option.map_eq_some_iff.1 ht
  exact hf s (h s hs)

theorem OptWf.map_any {α : Type} {x : Option α} {f : α → State} (hf : ∀ s, Memory.wf (f s).mem = true) :
    OptWf (x.map f) := by
  intro t ht
  obtain ⟨s, hs, rfl⟩ := Option.map_eq_some_iff.1 ht
  exact hf s

theorem OptWf.getD {x : Option State} {s : State} (h : OptWf x) (hs : Memory.wf s.mem = true) :
    Memory.wf (x.getD s).mem = true := by
  cases x
  · exact hs
  · exact h _ rfl

theorem ExceptWf.error {ε : Type} {e : ε} : ExceptWf (Except.error e) := by rintro t ⟨⟩

theorem ExceptWf.throw {ε : Type} {e : ε} : ExceptWf (throw e : Except ε State) := by rintro t ⟨⟩

theorem ExceptWf.ok {ε : Type} {s : State} (h : Memory.wf s.mem = true) :
    ExceptWf (Except.ok (ε := ε) s) := by rintro t ⟨⟩; exact h

theorem ExceptWf.pure {ε : Type} {s : State} (h : Memory.wf s.mem = true) :
    ExceptWf (pure s : Except ε State) := by rintro t ⟨⟩; exact h

theorem ExceptWf.bind {ε : Type} {x : Except ε State} {f : State → Except ε State} (h : ExceptWf x)
    (hf : ∀ s, Memory.wf s.mem = true → ExceptWf (f s)) : ExceptWf (x >>= f) := by
  intro t ht
  cases x with
  | error e => cases ht
  | ok s => exact hf s (h s rfl) t ht

theorem ExceptWf.bind_any {ε α : Type} {x : Except ε α} {f : α → Except ε State} (hf : ∀ a, ExceptWf (f a)) :
    ExceptWf (x >>= f) := by
  intro t ht
  cases x with
  | error e => cases ht
  | ok s => exact hf s t ht

theorem ExceptWf.foldlM {ε α : Type} {f : State → α → Except ε State} {l : List α} {s : State}
    (hf : ∀ s a, Memory.wf s.mem = true → ExceptWf (f s a)) (h : Memory.wf s.mem = true) : ExceptWf (l.foldlM f s) := by
  induction l generalizing s with
  | nil => exact ExceptWf.pure h
  | cons a l ih => exact ExceptWf.bind (hf s a h) (fun s hs => ih hs)

theorem foldl_memWf {α : Type} {f : State → α → State} {l : List α} {s : State}
    (hf : ∀ s a, Memory.wf s.mem = true → Memory.wf (f s a).mem = true) (h : Memory.wf s.mem = true) :
    Memory.wf (l.foldl f s).mem = true := by
  induction l generalizing s with
  | nil => exact h
  | cons a l ih => exact ih (hf s a h)

theorem elim_memWf {α : Type} {x : Option α} {s : State} {f : α → State}
    (h : Memory.wf s.mem = true) (hf : ∀ a, Memory.wf (f a).mem = true) : Memory.wf (x.elim s f).mem = true := by
  cases x
  · exact h
  · exact hf _

theorem sortedFrom_filter {α : Type} {m : Assoc α} {b : Nat} (p : Nat × α → Bool) (h : Assoc.sortedFrom b m = true) :
    Assoc.sortedFrom b (m.filter p) = true := by
  induction m generalizing b with
  | nil => rfl
  | cons q m ih =>
    simp only [Assoc.sortedFrom, Bool.and_eq_true, decide_eq_true_eq] at h
    simp only [List.filter_cons]
    split
    · simp only [Assoc.sortedFrom, Bool.and_eq_true, decide_eq_true_eq]
      exact ⟨h.1, ih h.2⟩
    · exact Assoc.sortedFrom_mono (by omega) (ih h.2)

theorem filter_memWf {m : Memory} (p : Host.Cell → Bool) (h : Memory.wf m = true) : Memory.wf (m.filter p) = true := by
  rw [Memory.wf_iff] at h ⊢
  exact ⟨sortedFrom_filter p h.1, fun c hc => h.2 c (List.mem_filter.1 hc).1⟩

theorem get_keepsWf {α : Type} {f : State → M α} (hf : ∀ s, Memory.wf s.mem = true → Keeps MemKept (f s)) :
    Keeps MemKept (MonadState.get >>= f) := by
  intro s a t h hs
  rw [M.bind_run] at h
  exact hf s hs s a t h hs

theorem set_keepsWf {r : State} (h : Memory.wf r.mem = true) : Keeps MemKept (set r : M Unit) := by
  rintro s b t ⟨⟩ -; exact h

theorem modify_keepsWf {f : State → State} (h : ∀ s, Memory.wf s.mem = true → Memory.wf (f s).mem = true) :
    Keeps MemKept (modify f : M PUnit) := by
  rintro s b t ⟨⟩; exact h s

theorem bind_keepsWf {α β : Type} {m : M α} {f : α → M β} (hm : Keeps MemKept m) (hf : ∀ a, Keeps MemKept (f a)) :
    Keeps MemKept (m >>= f) :=
  Keeps.bind memKept_local.toFrames hm hf

theorem pure_keepsWf {α : Type} (a : α) : Keeps MemKept (Pure.pure a : M α) := Keeps.pure memKept_local.toFrames a

theorem forM_keepsWf {α : Type} {l : List α} {f : α → M PUnit} (hf : ∀ a, Keeps MemKept (f a)) : Keeps MemKept (l.forM f) :=
  Keeps.forM memKept_local.toFrames hf

theorem OptWf.elim {x : Option State} {t : State} (h : OptWf x) (e : x = .some t) : Memory.wf t.mem = true := h t e

theorem ExceptWf.elim {ε : Type} {x : Except ε State} {t : State} (h : ExceptWf x) (e : x = .ok t) :
    Memory.wf t.mem = true := h t e

theorem ExceptWf.map {ε : Type} {x : Except ε State} {f : State → State} (h : ExceptWf x)
    (hf : ∀ s, Memory.wf s.mem = true → Memory.wf (f s).mem = true) :
    ExceptWf (x.map f) := by
  rintro t ht
  cases x with
  | error e => cases ht
  | ok s => cases ht; exact hf s (h s rfl)

theorem ExceptWf.map_any {ε α : Type} {x : Except ε α} {f : α → State} (hf : ∀ s, Memory.wf (f s).mem = true) :
    ExceptWf (x.map f) := by
  rintro t ht
  cases x with
  | error e => cases ht
  | ok s => cases ht; exact hf s

def OptFstWf {α : Type} (x : Option (State × α)) : Prop := ∀ a, x = some a → Memory.wf a.1.mem = true

def OptSndWf {α : Type} (x : Option (α × State)) : Prop := ∀ a, x = some a → Memory.wf a.2.mem = true

def OptTrdWf {α β : Type} (x : Option (α × β × State)) : Prop := ∀ a, x = some a → Memory.wf a.2.2.mem = true

def ExceptSndWf {ε α : Type} (x : Except ε (α × State)) : Prop := ∀ a, x = .ok a → Memory.wf a.2.mem = true

theorem OptFstWf.none {α : Type} : OptFstWf (none : Option (State × α)) := by rintro t ⟨⟩

theorem OptSndWf.none {α : Type} : OptSndWf (none : Option (α × State)) := by rintro t ⟨⟩

theorem OptTrdWf.none {α β : Type} : OptTrdWf (none : Option (α × β × State)) := by rintro t ⟨⟩

theorem OptFstWf.some {α : Type} {a : State × α} (h : Memory.wf a.1.mem = true) : OptFstWf (some a) := by rintro t ⟨⟩; exact h

theorem OptSndWf.some {α : Type} {a : α × State} (h : Memory.wf a.2.mem = true) : OptSndWf (some a) := by rintro t ⟨⟩; exact h

theorem OptTrdWf.some {α β : Type} {a : α × β × State} (h : Memory.wf a.2.2.mem = true) :
    OptTrdWf (some a) := by rintro t ⟨⟩; exact h

theorem OptFstWf.elim {α : Type} {x : Option (State × α)} {t : State} {a : α} (h : OptFstWf x) (e : x = .some (t, a)) :
    Memory.wf t.mem = true := h _ e

theorem OptSndWf.elim {α : Type} {x : Option (α × State)} {t : State} {a : α} (h : OptSndWf x) (e : x = .some (a, t)) :
    Memory.wf t.mem = true := h _ e

theorem OptTrdWf.elim {α β : Type} {x : Option (α × β × State)} {t : State} {a : α} {b : β} (h : OptTrdWf x) (e : x = .some
    (a, b, t)) : Memory.wf t.mem = true := h _ e

theorem OptSndWf.map {α : Type} {x : Option State} {f : State → α × State} (h : OptWf x)
    (hf : ∀ s, Memory.wf s.mem = true → Memory.wf (f s).2.mem = true) :
    OptSndWf (x.map f) := by
  intro t ht
  obtain ⟨s, hs, rfl⟩ := Option.map_eq_some_iff.1 ht
  exact hf s (h s hs)

theorem ExceptSndWf.ok {ε α : Type} {a : α × State} (h : Memory.wf a.2.mem = true) :
    ExceptSndWf (Except.ok (ε := ε) a) := by rintro t ⟨⟩; exact h

theorem ExceptSndWf.error {ε α : Type} {e : ε} : ExceptSndWf (Except.error e : Except ε (α × State)) := by rintro t ⟨⟩

theorem ExceptSndWf.elim {ε α : Type} {x : Except ε (α × State)} {t : State} {a : α} (h : ExceptSndWf x) (e : x = .ok (a, t)) :
    Memory.wf t.mem = true := h _ e

theorem ExceptSndWf.map_any {ε α β : Type} {x : Except ε β} {f : β → α × State} (hf : ∀ s, Memory.wf (f s).2.mem = true) :
    ExceptSndWf (x.map f) := by
  rintro t ht
  cases x with
  | error e => cases ht
  | ok s => cases ht; exact hf s

theorem ExceptSndWf.foldlM {ε α β : Type} {f : α × State → β → Except ε (α × State)} {l : List β} {s : α × State}
    (hf : ∀ s a, Memory.wf s.2.mem = true → ExceptSndWf (f s a)) (h : Memory.wf s.2.mem = true) : ExceptSndWf (l.foldlM f s) := by
  induction l generalizing s with
  | nil => rintro t ⟨⟩; exact h
  | cons a l ih =>
    intro t ht
    simp only [List.foldlM_cons] at ht
    cases hx : f s a with
    | error e => rw [hx] at ht; cases ht
    | ok b => rw [hx] at ht; exact ih (hf s a h b hx) t ht

theorem ExceptWf.bind_snd {ε α : Type} {x : Except ε (α × State)} {f : α × State → Except ε State} (h : ExceptSndWf x)
    (hf : ∀ s : α × State, Memory.wf s.2.mem = true → ExceptWf (f s)) : ExceptWf (x >>= f) := by
  intro t ht
  cases x with
  | error e => cases ht
  | ok s => exact hf s (h s rfl) t ht

theorem foldlSnd_memWf {α β : Type} {f : β × State → α → β × State} {l : List α} {s : β × State}
    (hf : ∀ s a, Memory.wf s.2.mem = true → Memory.wf (f s a).2.mem = true) (h : Memory.wf s.2.mem = true) :
    Memory.wf (l.foldl f s).2.mem = true := by
  induction l generalizing s with
  | nil => exact h
  | cons a l ih => exact ih (hf s a h)

theorem foldlFst_memWf {α β : Type} {f : State × β → α → State × β} {l : List α} {s : State × β}
    (hf : ∀ s a, Memory.wf s.1.mem = true → Memory.wf (f s a).1.mem = true) (h : Memory.wf s.1.mem = true) :
    Memory.wf (l.foldl f s).1.mem = true := by
  induction l generalizing s with
  | nil => exact h
  | cons a l ih => exact ih (hf s a h)

def OutWf (x : Host.Outcome State Fault Refusal) : Prop := ∀ t, x = .next t → Memory.wf t.mem = true

theorem OutWf.next {s : State} (h : Memory.wf s.mem = true) : OutWf (.next s) := by rintro t ⟨⟩; exact h

theorem OutWf.fault {f : Fault} : OutWf (.fault f) := by rintro t ⟨⟩

theorem OutWf.elim {x : Host.Outcome State Fault Refusal} {t : State} (h : OutWf x) (e : x = .next t) :
    Memory.wf t.mem = true := h t e

/-- The state inside a result, in the constructors that carry one, has a canonical memory; so in the next definitions. -/
def EngRes.MemWf : EngRes → Prop
  | .ok _ _ s => Memory.wf s.mem = true
  | _ => True

def Served.MemWf : Served → Prop
  | .ok _ _ s => Memory.wf s.mem = true
  | _ => True

def RowRes.MemWf : RowRes → Prop
  | .ok _ _ s => Memory.wf s.mem = true
  | .wait s => Memory.wf s.mem = true
  | _ => True

def ChunkRes.MemWf : ChunkRes → Prop
  | .ok _ _ s => Memory.wf s.mem = true
  | .wait s => Memory.wf s.mem = true
  | _ => True

def RecRes.MemWf : RecRes → Prop
  | .ok s => Memory.wf s.mem = true
  | .wait s => Memory.wf s.mem = true

def TableRead.MemWf : TableRead → Prop
  | .ok _ s => Memory.wf s.mem = true
  | _ => True

def TableOut.MemWf : TableOut → Prop
  | .ok _ s => Memory.wf s.mem = true
  | .bad _ s => Memory.wf s.mem = true
  | .park _ _ _ _ s => Memory.wf s.mem = true

def LaunchOut.MemWf : LaunchOut → Prop
  | .ok _ _ s => Memory.wf s.mem = true
  | .fails _ _ s => Memory.wf s.mem = true
  | _ => True

def Published.MemWf : Published → Prop
  | .done _ s => Memory.wf s.mem = true
  | _ => True

def Next.MemWf : Next → Prop
  | .done s => Memory.wf s.mem = true
  | .run _ s => Memory.wf s.mem = true
  | _ => True

def Gather.MemWf {α : Type} : Gather α → Prop
  | .wait s => Memory.wf s.mem = true
  | _ => True

def Gather.SndWf {α : Type} : Gather (α × State) → Prop
  | .ok x => Memory.wf x.2.mem = true
  | .wait s => Memory.wf s.mem = true
  | _ => True

theorem EngRes.MemWf.ok {x : EngRes} {v p s} (h : x.MemWf) (e : x = .ok v p s) : Memory.wf s.mem = true := by subst e; exact h

theorem Served.MemWf.ok {x : Served} {v p s} (h : x.MemWf) (e : x = .ok v p s) : Memory.wf s.mem = true := by subst e; exact h

theorem RowRes.MemWf.ok {x : RowRes} {v p s} (h : x.MemWf) (e : x = .ok v p s) : Memory.wf s.mem = true := by subst e; exact h

theorem RowRes.MemWf.wait {x : RowRes} {s} (h : x.MemWf) (e : x = .wait s) : Memory.wf s.mem = true := by subst e; exact h

theorem ChunkRes.MemWf.ok {x : ChunkRes} {v p s} (h : x.MemWf) (e : x = .ok v p s) : Memory.wf s.mem = true := by subst e; exact h

theorem ChunkRes.MemWf.wait {x : ChunkRes} {s} (h : x.MemWf) (e : x = .wait s) : Memory.wf s.mem = true := by subst e; exact h

theorem RecRes.MemWf.ok {x : RecRes} {s} (h : x.MemWf) (e : x = .ok s) : Memory.wf s.mem = true := by subst e; exact h

theorem RecRes.MemWf.wait {x : RecRes} {s} (h : x.MemWf) (e : x = .wait s) : Memory.wf s.mem = true := by subst e; exact h

theorem TableRead.MemWf.ok {x : TableRead} {v s} (h : x.MemWf) (e : x = .ok v s) : Memory.wf s.mem = true := by subst e; exact h

theorem TableOut.MemWf.ok {x : TableOut} {v s} (h : x.MemWf) (e : x = .ok v s) : Memory.wf s.mem = true := by subst e; exact h

theorem TableOut.MemWf.bad {x : TableOut} {v s} (h : x.MemWf) (e : x = .bad v s) : Memory.wf s.mem = true := by subst e; exact h

theorem TableOut.MemWf.park {x : TableOut} {a b c d s} (h : x.MemWf) (e : x = .park a b c d s) :
    Memory.wf s.mem = true := by subst e; exact h

theorem LaunchOut.MemWf.ok {x : LaunchOut} {a v s} (h : x.MemWf) (e : x = .ok a v s) :
    Memory.wf s.mem = true := by subst e; exact h

theorem LaunchOut.MemWf.fails {x : LaunchOut} {a v s} (h : x.MemWf) (e : x = .fails a v s) :
    Memory.wf s.mem = true := by subst e; exact h

theorem Published.MemWf.done {x : Published} {v s} (h : x.MemWf) (e : x = .done v s) :
    Memory.wf s.mem = true := by subst e; exact h

theorem Next.MemWf.done {x : Next} {s} (h : x.MemWf) (e : x = .done s) : Memory.wf s.mem = true := by subst e; exact h

theorem Next.MemWf.run {x : Next} {i s} (h : x.MemWf) (e : x = .run i s) : Memory.wf s.mem = true := by subst e; exact h

theorem Gather.MemWf.wait {α : Type} {x : Gather α} {s} (h : x.MemWf) (e : x = .wait s) :
    Memory.wf s.mem = true := by subst e; exact h

theorem Gather.SndWf.wait {α : Type} {x : Gather (α × State)} {s} (h : x.SndWf) (e : x = .wait s) :
    Memory.wf s.mem = true := by subst e; exact h

theorem Gather.SndWf.ok {α : Type} {x : Gather (α × State)} {a s} (h : x.SndWf) (e : x = .ok (a, s)) :
    Memory.wf s.mem = true := by subst e; exact h

theorem ExceptSndWf.bind {ε α β : Type} {x : Except ε (α × State)} {f : α × State → Except ε (β × State)} (h : ExceptSndWf x)
    (hf : ∀ s : α × State, Memory.wf s.2.mem = true → ExceptSndWf (f s)) : ExceptSndWf (x >>= f) := by
  intro t ht
  cases x with
  | error e => cases ht
  | ok s => exact hf s (h s rfl) t ht

theorem ExceptSndWf.bind_any {ε α β : Type} {x : Except ε α} {f : α → Except ε (β × State)} 
    (hf : ∀ s, ExceptSndWf (f s)) : ExceptSndWf (x >>= f) := by
  intro t ht
  cases x with
  | error e => cases ht
  | ok s => exact hf s t ht

theorem ExceptSndWf.map {ε α β : Type} {x : Except ε (α × State)} {f : α × State → β × State} (h : ExceptSndWf x)
    (hf : ∀ s, Memory.wf s.2.mem = true → Memory.wf (f s).2.mem = true) : ExceptSndWf (x.map f) := by
  rintro t ht
  cases x with
  | error e => cases ht
  | ok s => cases ht; exact hf s (h _ rfl)

theorem Keeps.runWf {α : Type} {m : M α} {s : State} (h : Keeps MemKept m) (hs : Memory.wf s.mem = true) : ExceptSndWf (m s) :=
  fun a e => h s a.1 a.2 e hs

theorem mapM_keepsWf {α β : Type} {l : List α} {f : α → M β} (hf : ∀ a, Keeps MemKept (f a)) : Keeps MemKept (l.mapM f) := by
  induction l with
  | nil => exact pure_keepsWf _
  | cons a l ih =>
    rw [List.mapM_cons]
    exact bind_keepsWf (hf a) (fun _ => bind_keepsWf ih (fun _ => pure_keepsWf _))

theorem OptWf.bind_trd {α β : Type} {x : Option (α × β × State)} {f : α × β × State → Option State} (h : OptTrdWf x)
    (hf : ∀ a b s, Memory.wf s.mem = true → OptWf (f (a, b, s))) : OptWf (x.bind f) := by
  intro t ht
  obtain ⟨⟨a, b, s⟩, hs, ht⟩ := Option.bind_eq_some_iff.1 ht
  exact hf a b s (h _ hs) t ht

theorem OptWf.map_snd {α : Type} {x : Option (α × State)} {f : α × State → State} (h : OptSndWf x)
    (hf : ∀ a s, Memory.wf s.mem = true → Memory.wf (f (a, s)).mem = true) : OptWf (x.map f) := by
  intro t ht
  obtain ⟨⟨a, s⟩, hs, rfl⟩ := Option.map_eq_some_iff.1 ht
  exact hf a s (h _ hs)

theorem OptWf.foldl {α : Type} {l : List α} {x : Option State} {f : Option State → α → Option State} (h : OptWf x)
    (hf : ∀ x a, OptWf x → OptWf (f x a)) : OptWf (l.foldl f x) := by
  induction l generalizing x with
  | nil => exact h
  | cons a l ih => exact ih (hf x a h)

theorem ExceptWf.foldl {α ε : Type} {l : List α} {x : Except ε State} {f : Except ε State → α → Except ε State} (h : ExceptWf x)
    (hf : ∀ x a, ExceptWf x → ExceptWf (f x a)) : ExceptWf (l.foldl f x) := by
  induction l generalizing x with
  | nil => exact h
  | cons a l ih => exact ih (hf x a h)

theorem OptSndWf.map_any {α β : Type} {x : Option β} {f : β → α × State} (hf : ∀ s, Memory.wf (f s).2.mem = true) :
    OptSndWf (x.map f) := by
  intro t ht
  obtain ⟨s, hs, rfl⟩ := Option.map_eq_some_iff.1 ht
  exact hf s

theorem ExceptWf.map_snd {ε α : Type} {x : Except ε (α × State)} {f : α × State → State} (h : ExceptSndWf x)
    (hf : ∀ s, Memory.wf s.2.mem = true → Memory.wf (f s).mem = true) : ExceptWf (x.map f) := by
  rintro t ht
  cases x with
  | error e => cases ht
  | ok s => cases ht; exact hf s (h _ rfl)

theorem EngRes.memWf_ok {v p s} (h : Memory.wf s.mem = true) : (EngRes.ok v p s).MemWf := h

theorem EngRes.memWf_park {a b c} : (EngRes.park a b c).MemWf := trivial

theorem EngRes.memWf_send {r} : (EngRes.send r).MemWf := trivial

theorem EngRes.memWf_hold : (EngRes.hold ).MemWf := trivial

theorem EngRes.memWf_fail {t} : (EngRes.fail t).MemWf := trivial

theorem Served.memWf_ok {v p s} (h : Memory.wf s.mem = true) : (Served.ok v p s).MemWf := h

theorem Served.memWf_park {a b c} : (Served.park a b c).MemWf := trivial

theorem Served.memWf_fail {t} : (Served.fail t).MemWf := trivial

theorem Served.memWf_peer {a b c} : (Served.peer a b c).MemWf := trivial

theorem Served.memWf_busy : (Served.busy ).MemWf := trivial

theorem Served.memWf_snoop : (Served.snoop ).MemWf := trivial

theorem RowRes.memWf_ok {v p s} (h : Memory.wf s.mem = true) : (RowRes.ok v p s).MemWf := h

theorem RowRes.memWf_wait {s} (h : Memory.wf s.mem = true) : (RowRes.wait s).MemWf := h

theorem RowRes.memWf_fail {a b c} : (RowRes.fail a b c).MemWf := trivial

theorem ChunkRes.memWf_ok {v p s} (h : Memory.wf s.mem = true) : (ChunkRes.ok v p s).MemWf := h

theorem ChunkRes.memWf_wait {s} (h : Memory.wf s.mem = true) : (ChunkRes.wait s).MemWf := h

theorem ChunkRes.memWf_fail : (ChunkRes.fail ).MemWf := trivial

theorem RecRes.memWf_ok {s} (h : Memory.wf s.mem = true) : (RecRes.ok s).MemWf := h

theorem RecRes.memWf_wait {s} (h : Memory.wf s.mem = true) : (RecRes.wait s).MemWf := h

theorem TableRead.memWf_ok {v s} (h : Memory.wf s.mem = true) : (TableRead.ok v s).MemWf := h

theorem TableRead.memWf_bad : (TableRead.bad ).MemWf := trivial

theorem TableRead.memWf_park {a b c} : (TableRead.park a b c).MemWf := trivial

theorem TableOut.memWf_ok {v s} (h : Memory.wf s.mem = true) : (TableOut.ok v s).MemWf := h

theorem TableOut.memWf_bad {v s} (h : Memory.wf s.mem = true) : (TableOut.bad v s).MemWf := h

theorem TableOut.memWf_park {a b c d s} (h : Memory.wf s.mem = true) : (TableOut.park a b c d s).MemWf := h

theorem LaunchOut.memWf_ok {a b s} (h : Memory.wf s.mem = true) : (LaunchOut.ok a b s).MemWf := h

theorem LaunchOut.memWf_fails {a b s} (h : Memory.wf s.mem = true) : (LaunchOut.fails a b s).MemWf := h

theorem LaunchOut.memWf_park {a b c d} : (LaunchOut.park a b c d).MemWf := trivial

theorem Published.memWf_done {v s} (h : Memory.wf s.mem = true) : (Published.done v s).MemWf := h

theorem Published.memWf_park {a b c} : (Published.park a b c).MemWf := trivial

theorem Published.memWf_away {a b c} : (Published.away a b c).MemWf := trivial

theorem Next.memWf_idle : (Next.idle ).MemWf := trivial

theorem Next.memWf_done {s} (h : Memory.wf s.mem = true) : (Next.done s).MemWf := h

theorem Next.memWf_run {i s} (h : Memory.wf s.mem = true) : (Next.run i s).MemWf := h

theorem Gather.memWf_ok {α : Type} {x : α} : (Gather.ok x).MemWf := trivial

theorem Gather.memWf_wait {α : Type} {s : State} (h : Memory.wf s.mem = true) : (Gather.wait s : Gather (α)).MemWf := h

theorem Gather.sndWf_ok {α : Type} {x : α × State} (h : Memory.wf x.2.mem = true) : (Gather.ok x).SndWf := h

theorem Gather.sndWf_wait {α : Type} {s : State} (h : Memory.wf s.mem = true) : (Gather.wait s : Gather (α × State)).SndWf := h

theorem Gather.sndWf_trap {α : Type} {i t} : (Gather.trap i t : Gather (α × State)).SndWf := trivial

theorem ExceptWf.bind' {ε : Type} {x : Except ε State} {f : State → Except ε State} (h : ExceptWf x)
    (hf : ∀ s, Memory.wf s.mem = true → ExceptWf (f s)) : ExceptWf (x.bind f) := ExceptWf.bind h hf

theorem ExceptWf.bind_any' {ε α : Type} {x : Except ε α} {f : α → Except ε State} (hf : ∀ a, ExceptWf (f a)) :
    ExceptWf (x.bind f) :=
  ExceptWf.bind_any hf

theorem ExceptWf.of_ok {ε : Type} {s : State} (h : ExceptWf (Except.ok (ε := ε) s)) : Memory.wf s.mem = true := h s rfl

end Sys2Proof.Machine
end

section
/-! SUPPORT. Memory stays canonical, one lemma a function of the model, in the order and under the names of its files: where the
function stores, it stores through `writeStore` or `writeSector`; elsewhere it hands a memory on. -/

namespace Sys2Proof.Machine

/-! ### Lane -/

theorem State.asUnit_memWf {α : Type} {s : State} (u : Agent) (o : Ops) {m : M α} (hm : Keeps MemKept m)
    (hs : Memory.wf s.mem = true) :
    ExceptSndWf (s.asUnit u o m) := Keeps.runWf hm hs

/-! ### Ops -/

theorem event_memWf {f : State → Option State} {s : State} (hs : Memory.wf s.mem = true) (h : OptWf (f s)) :
    OutWf (event f s) := by
  intro t ht
  unfold event at ht
  split at ht
  · next e => cases ht; exact h t e
  · cases ht; exact hs

/-! ### Pipeline -/

theorem event1_memWf {f : State → Nat → Option State} {s : State} (hs : Memory.wf s.mem = true) (h : ∀ n, OptWf (f s n)) :
    OutWf (event1 f s) := event_memWf hs (OptWf.bind_any' h)

/-! ### Place -/

theorem event2_memWf {f : State → Nat → Nat → Option State} {s : State} (hs : Memory.wf s.mem = true) (h : ∀ m n, OptWf
    (f s m n)) :
    OutWf (event2 f s) := by
  refine event_memWf hs ?_
  split
  · exact h _ _
  · exact OptWf.none

/-! ### Links -/

theorem event3_memWf {f : State → Nat → Nat → Nat → Option State} {s : State} (hs : Memory.wf s.mem = true)
    (h : ∀ l m n, OptWf (f s l m n)) : OutWf (event3 f s) := by
  refine event_memWf hs ?_
  split
  · exact h _ _ _
  · exact OptWf.none

/-! ### Clock -/

theorem eventU_memWf {f : State → Agent → Option State} {s : State} (hs : Memory.wf s.mem = true) (h : ∀ u, OptWf (f s u)) :
    OutWf (eventU f s) := by
  refine event_memWf hs ?_
  split
  · exact h _
  · exact OptWf.none

/-! ### Manage -/

theorem eventB_memWf {f : State → Bool → Option State} {s : State} (hs : Memory.wf s.mem = true) (h : ∀ b, OptWf (f s b)) :
    OutWf (eventB f s) := by
  refine event_memWf hs ?_
  split
  · exact h _
  · exact OptWf.none

/-! ### Links -/

theorem eventFlit_memWf {f : State → Nat → Nat → Nat → Cargo → Option State} {s : State} (hs : Memory.wf s.mem = true)
    (h : ∀ n q e c, OptWf (f s n q e c)) : OutWf (eventFlit f s) := by
  refine event_memWf hs ?_
  split
  · exact h _ _ _ _
  · exact OptWf.none

/-! ### System -/

theorem State.structEvent_memWf {s : State} (ctx : Nat) {x : Except Blocked State} (h : Memory.wf s.mem = true)
    (hx : ExceptWf x) :
    OptWf (s.structEvent ctx x) := by
  unfold State.structEvent
  split
  · exact OptWf.some (hx _ rfl)
  · exact OptWf.none
  · exact OptWf.some h

/-! ### Flags -/

theorem raise_memWf (f : FlagSet) : Keeps MemKept (raise f) := Keeps.raise memKept_local (fun _ _ _ h => h) f

/-! ### Queue -/

theorem orPark_memWf {α : Type} {m : M α} (hm : Keeps MemKept m) : Keeps MemKept (orPark m) := by
  intro s a t e
  unfold orPark at e
  split at e
  · next x h => cases e; exact hm s _ _ h
  · cases e; exact id
  · cases e

/-! ### Memory -/

theorem State.dropBytes_memWf (s : State) (lo n : ℕ) (h : Memory.wf s.mem = true) :
    Memory.wf (State.dropBytes s lo n).mem = true :=
  filter_memWf _ h

theorem State.modCtx_memWf (s : State) (c : ℕ) (f : Context → Context) (h : Memory.wf s.mem = true) :
    Memory.wf (State.modCtx s c f).mem = true :=
  h

theorem State.toMemory_memWf (s : State) (x : L2Sector) (h : Memory.wf s.mem = true) :
    Memory.wf (State.toMemory s x).mem = true := by
  unfold State.toMemory
  with_reducible repeat' first
    | assumption | apply State.writeStore_memWf | apply State.writeSector_memWf | split

theorem State.writeBack_memWf (s : State) (sec : ℕ) (h : Memory.wf s.mem = true) :
    Memory.wf (State.writeBack s sec).mem = true := by
  unfold State.writeBack
  with_reducible repeat' first
    | assumption | apply State.toMemory_memWf | split

theorem State.dropSector_memWf (s : State) (sec : ℕ) (h : Memory.wf s.mem = true) :
    Memory.wf (State.dropSector s sec).mem = true := by
  unfold State.dropSector
  with_reducible repeat' first
    | assumption | apply State.writeBack_memWf | split

theorem State.l2Room_memWf (s : State) (slice line : ℕ) (h : Memory.wf s.mem = true) :
    Memory.wf (State.l2Room s slice line).mem = true := by
  unfold State.l2Room
  with_reducible repeat' first
    | assumption | apply State.dropSector_memWf | split | dsimp only

theorem State.l2Keep_memWf (s : State) (sec : ℕ) (x : L2Sector) (v : Via) (h : Memory.wf s.mem = true) :
    Memory.wf (State.l2Keep s sec x v).mem = true :=
  State.l2Room_memWf _ _ _ h

theorem State.l2Fit_memWf (s : State) (ia : ℕ) (v : Via) (h : Memory.wf s.mem = true) :
    Memory.wf (State.l2Fit s ia v).mem = true := by
  unfold State.l2Fit
  with_reducible repeat' first
    | assumption | apply State.dropSector_memWf | split | apply foldl_memWf | dsimp only

theorem State.readL2_memWf (s0 : State) (ia n : ℕ) (v : Via) (h : Memory.wf s0.mem = true) :
    Memory.wf (State.readL2 s0 ia n v).2.mem = true := by
  unfold State.readL2
  with_reducible repeat' first
    | assumption | apply State.l2Fit_memWf | apply State.l2Keep_memWf | split | dsimp only

theorem State.writeL2_memWf (s0 : State) (ia n d : ℕ) (poison : Bool) (v : Via) (h : Memory.wf s0.mem = true) :
    Memory.wf (State.writeL2 s0 ia n d poison v).mem = true := by
  unfold State.writeL2
  with_reducible repeat' first
    | assumption | apply State.l2Fit_memWf | apply State.toMemory_memWf | apply State.l2Keep_memWf | split | dsimp only

theorem State.readLocal_memWf (s : State) (ia n : ℕ) (v : Via) (h : Memory.wf s.mem = true) :
    Memory.wf (State.readLocal s ia n v).2.mem = true := by
  unfold State.readLocal
  with_reducible repeat' first
    | assumption | apply State.readL2_memWf | apply foldlSnd_memWf | dsimp only | intro _

theorem State.writeLocal_memWf (s : State) (ia n d : ℕ) (poison : Bool) (v : Via) (h : Memory.wf s.mem = true) :
    Memory.wf (State.writeLocal s ia n d poison v).mem = true := by
  unfold State.writeLocal
  with_reducible repeat' first
    | assumption | apply State.writeL2_memWf | apply foldl_memWf | intro _

theorem State.updateL1_memWf (s : State) (core ia n v : ℕ) (poison : Bool) (h : Memory.wf s.mem = true) :
    Memory.wf (State.updateL1 s core ia n v poison).mem = true :=
  h

theorem State.dropL1_memWf (s : State) (core ia : ℕ) (h : Memory.wf s.mem = true) :
    Memory.wf (State.dropL1 s core ia).mem = true :=
  h

theorem State.invalL1_memWf (s : State) (core : ℕ) (h : Memory.wf s.mem = true) : Memory.wf (State.invalL1 s core).mem = true :=
  h

/-! ### Ops -/

theorem State.modCtl_memWf (s : State) (u : Agent) (f : Ctl → Ctl) (h : Memory.wf s.mem = true) :
    Memory.wf (State.modCtl s u f).mem = true := by
  unfold State.modCtl
  split <;> exact h

theorem State.modEx_memWf (s : State) (team tid : ℕ) (f : ExThread → ExThread) (h : Memory.wf s.mem = true) :
    Memory.wf (State.modEx s team tid f).mem = true :=
  h

theorem State.modAp_memWf (s : State) (team strip : ℕ) (f : ApThread → ApThread) (h : Memory.wf s.mem = true) :
    Memory.wf (State.modAp s team strip f).mem = true :=
  h

theorem State.modEngine_memWf (s : State) (n : ℕ) (f : Engine → Engine) (h : Memory.wf s.mem = true) :
    Memory.wf (State.modEngine s n f).mem = true :=
  h

theorem State.modTeam_memWf (s : State) (team : ℕ) (f : Team → Team) (h : Memory.wf s.mem = true) :
    Memory.wf (State.modTeam s team f).mem = true :=
  h

theorem State.modStrip_memWf (s : State) (team strip : ℕ) (f : Strip → Strip) (h : Memory.wf s.mem = true) :
    Memory.wf (State.modStrip s team strip f).mem = true :=
  h

theorem State.modPort_memWf (s : State) (key : ℕ) (f : Port → Port) (h : Memory.wf s.mem = true) :
    Memory.wf (State.modPort s key f).mem = true :=
  h

theorem State.modCore_memWf (s : State) (c : ℕ) (f : Core → Core) (h : Memory.wf s.mem = true) :
    Memory.wf (State.modCore s c f).mem = true :=
  h

theorem freshId_memWf : Keeps MemKept (freshId) :=
  get_keepsWf (fun _ h1 => bind_keepsWf (set_keepsWf h1) (fun _ => pure_keepsWf _))

theorem State.count_memWf (s : State) (key n : ℕ) (h : Memory.wf s.mem = true) : Memory.wf (State.count s key n).mem = true :=
  h

theorem State.flush_memWf (s : State) (h : Memory.wf s.mem = true) : Memory.wf (State.flush s).mem = true := by
  unfold State.flush
  split <;> exact h

theorem State.haltEngine_memWf (s : State) (n code : ℕ) (h : Memory.wf s.mem = true) :
    Memory.wf (State.haltEngine s n code).mem = true :=
  h

theorem State.unqueue_memWf (s : State) (u : Agent) (h : Memory.wf s.mem = true) : Memory.wf (State.unqueue s u).mem = true :=
  h

theorem State.takeTrap_memWf (s : State) (u : Agent) (t : TrapInfo) (len0 : BitVec 2) (h : Memory.wf s.mem = true) :
    Memory.wf (State.takeTrap s u t len0).mem = true := by
  unfold State.takeTrap
  with_reducible repeat' first
    | assumption | apply State.modTeam_memWf | apply State.modCtx_memWf | apply State.modCtl_memWf | apply State.unqueue_memWf
    | apply State.haltEngine_memWf | apply State.count_memWf | apply State.modEx_memWf | apply State.modAp_memWf | split

theorem State.resume_memWf (s : State) (u : Agent) (r : TrapRec) (op pc : ℕ) (h : Memory.wf s.mem = true) :
    Memory.wf (State.resume s u r op pc).mem = true :=
  State.modCtl_memWf _ _ _ h

theorem State.setWait_memWf (s : State) (u : Agent) (w : Wait) (h : Memory.wf s.mem = true) :
    Memory.wf (State.setWait s u w).mem = true :=
  State.modCtl_memWf _ _ _ h

theorem State.noteFault_memWf (s : State) (ctx page cause size : ℕ) (wr : Bool) (h : Memory.wf s.mem = true) :
    Memory.wf (State.noteFault s ctx page cause size wr).mem = true := by
  unfold State.noteFault
  split <;> exact h

theorem State.overrun_memWf (s : State) (u : Agent) (h : Memory.wf s.mem = true) : Memory.wf (State.overrun s u).mem = true := by
  unfold State.overrun
  with_reducible repeat' first
    | assumption | apply State.haltEngine_memWf | split

theorem runUnit_memWf (u : Agent) (m : M Unit) (s : State) (hm : Keeps MemKept m) (h : Memory.wf s.mem = true) :
    OutWf (runUnit u m s) := by
  unfold runUnit
  with_reducible repeat' first
    | assumption | apply State.takeTrap_memWf | apply State.setWait_memWf | apply State.noteFault_memWf
    | apply State.modCtl_memWf | apply State.overrun_memWf | exact OutWf.fault | split | apply OutWf.next | apply Keeps.runWf
    | refine ExceptSndWf.elim ?_ (by assumption)

theorem meaning_memWf (m : M Unit) (s : State) (hm : Keeps MemKept m) (h : Memory.wf s.mem = true) : OutWf (meaning m s) := by
  unfold meaning
  with_reducible repeat' first
    | assumption | apply runUnit_memWf | exact OutWf.fault | split

/-! ### Operands -/

theorem State.discard_memWf (s : State) (team strip n : ℕ) (h : Memory.wf s.mem = true) :
    Memory.wf (State.discard s team strip n).mem = true := by
  unfold State.discard
  with_reducible repeat' first
    | assumption | apply State.count_memWf | apply State.modCtx_memWf | split

theorem State.retire_memWf (s : State) (team strip key : ℕ) (h : Memory.wf s.mem = true) :
    Memory.wf (State.retire s team strip key).mem = true := by
  unfold State.retire
  with_reducible repeat' first
    | assumption | apply State.discard_memWf | split | dsimp only

theorem State.retireIdle_memWf (s : State) (team strip key : ℕ) (h : Memory.wf s.mem = true) :
    Memory.wf (State.retireIdle s team strip key).mem = true := by
  unfold State.retireIdle
  with_reducible repeat' first
    | assumption | apply State.retire_memWf | split

theorem State.push_memWf (s : State) (team tid port : ℕ) (p : Port) (v : W64) (h : Memory.wf s.mem = true) :
    Memory.wf (State.push s team tid port p v).mem = true := by
  unfold State.push
  with_reducible repeat' first
    | assumption | apply State.modEx_memWf | split

theorem pushRoom_memWf (port : ℕ) (p : Port) (k : ℕ) (poison : Bool) : Keeps MemKept (pushRoom port p k poison) := by
  unfold pushRoom
  with_reducible repeat' first
    | exact Keeps.stopTrap _ | exact Keeps.waitUnless memKept_local.toFrames _ _
    | exact Keeps.takeDeferred memKept_local.toFrames _ | apply bind_keepsWf | split | dsimp only | intro _

/-! ### Frame -/

theorem advance_memWf : Keeps MemKept (advance) := by
  unfold advance
  with_reducible repeat' first
    | exact pure_keepsWf _ | exact Keeps.unit memKept_local.toFrames | exact Keeps.ops memKept_local.toFrames
    | exact Keeps.modCtl memKept_local _ | apply State.modEngine_memWf | apply get_keepsWf | apply modify_keepsWf
    | apply bind_keepsWf | split | dsimp only | intro _

theorem here_memWf : Keeps MemKept (here) :=
  bind_keepsWf (Keeps.ctl memKept_local.toFrames) (fun _ => bind_keepsWf (Keeps.ops memKept_local.toFrames)
    (fun _ => pure_keepsWf _))

theorem advPops_memWf (sh : Shape) : Keeps MemKept (advPops sh) := by
  unfold advPops
  with_reducible repeat' first
    | exact pure_keepsWf _ | exact Keeps.ops memKept_local.toFrames | exact Keeps.myStrip memKept_local.toFrames
    | exact Keeps.popE memKept_local _ _ _ | exact Keeps.awaitRows memKept_local.toFrames _ | apply get_keepsWf
    | apply bind_keepsWf | apply forM_keepsWf | dsimp only | intro _

theorem retired_memWf : Keeps MemKept (retired) := by
  unfold retired
  with_reducible repeat' first
    | exact pure_keepsWf _ | exact Keeps.unit memKept_local.toFrames | exact Keeps.ctl memKept_local.toFrames
    | apply State.modTeam_memWf | apply modify_keepsWf | apply bind_keepsWf | split | intro _

theorem checkMode_memWf : Keeps MemKept (checkMode) :=
  get_keepsWf (fun _ _ => bind_keepsWf (Keeps.team memKept_local.toFrames) (fun _ => pure_keepsWf _))

theorem insnWith_memWf (i : Instr) (sh : Shape) (evenIdle : Bool) (body : M Unit) (hbody : Keeps MemKept body) :
    Keeps MemKept (insnWith i sh evenIdle body) := by
  unfold insnWith
  with_reducible repeat' first
    | assumption | exact pure_keepsWf _ | exact Keeps.unit memKept_local.toFrames | exact Keeps.ops memKept_local.toFrames
    | exact Keeps.exThread memKept_local.toFrames | exact Keeps.apThread memKept_local.toFrames
    | exact Keeps.trapIf memKept_local.toFrames _ _ _ | exact Keeps.dropMarks memKept_local _ _ | apply checkMode_memWf
    | apply advance_memWf | apply advPops_memWf | apply State.modEx_memWf | apply retired_memWf | apply modify_keepsWf
    | apply bind_keepsWf | split | dsimp only | intro _

theorem insn_memWf (i : Instr) (sh : Shape) (body : M Unit) (hbody : Keeps MemKept body) : Keeps MemKept (insn i sh body) := by
  unfold insn
  with_reducible repeat' first
    | assumption | apply insnWith_memWf

theorem stay_memWf (i : Instr) (w : Wait) : Keeps MemKept (stay i w) := by
  unfold stay
  with_reducible repeat' first
    | exact pure_keepsWf _ | exact Keeps.unit memKept_local.toFrames | exact Keeps.ops memKept_local.toFrames
    | exact Keeps.modCtl memKept_local _ | apply here_memWf | apply State.modEx_memWf | apply State.modAp_memWf
    | apply get_keepsWf | apply modify_keepsWf | apply bind_keepsWf | split | dsimp only | intro _

theorem jump_memWf (target : ℕ) : Keeps MemKept (jump target) :=
  bind_keepsWf (Keeps.trapIf memKept_local.toFrames _ _ _) (fun _ => Keeps.modCtl memKept_local _)

theorem jumpOffset_memWf (off : ℕ) : Keeps MemKept (jumpOffset off) :=
  get_keepsWf (fun _ _ => bind_keepsWf (Keeps.unit memKept_local.toFrames) (fun _ => jump_memWf _))

theorem State.finishEx_memWf (s : State) (tm tid : ℕ) (h : Memory.wf s.mem = true) :
    Memory.wf (State.finishEx s tm tid).mem = true := by
  unfold State.finishEx
  with_reducible repeat' first
    | assumption | apply State.modTeam_memWf | apply State.modEx_memWf | split

/-! ### Integer -/

theorem intOpX_memWf (i : Instr) (sh : Shape) (f : ℕ → ℕ → ℕ → ℕ → ℕ → ℕ) : Keeps MemKept (intOpX i sh f) := by
  unfold intOpX
  with_reducible repeat' first
    | exact Keeps.ops memKept_local.toFrames | exact Keeps.width memKept_local.toFrames | exact Keeps.fetch memKept_local _ _
    | exact Keeps.writeD memKept_local _ _ | apply insn_memWf | apply bind_keepsWf | dsimp only | intro _

theorem intOp_memWf (i : Instr) (sh : Shape) (f : ℕ → ℕ → ℕ → ℕ → ℕ) : Keeps MemKept (intOp i sh f) :=
  intOpX_memWf _ _ _

theorem immOp_memWf (i : Instr) (f : ℕ → ℕ → ℤ → ℕ) : Keeps MemKept (immOp i f) := by
  unfold immOp
  with_reducible repeat' first
    | exact Keeps.ops memKept_local.toFrames | exact Keeps.width memKept_local.toFrames | exact Keeps.fetch memKept_local _ _
    | exact Keeps.writeD memKept_local _ _ | apply insn_memWf | apply bind_keepsWf | dsimp only | intro _

theorem icmpfOp_memWf : Keeps MemKept (icmpfOp) := by
  unfold icmpfOp
  with_reducible repeat' first
    | exact Keeps.ops memKept_local.toFrames | exact Keeps.width memKept_local.toFrames | exact Keeps.fetch memKept_local _ _
    | exact Keeps.writePred memKept_local _ _ | exact Keeps.readPred memKept_local.toFrames _ | apply insn_memWf
    | apply bind_keepsWf | dsimp only | intro _

theorem pickOp_memWf : Keeps MemKept (pickOp) :=
  insn_memWf _ _ _ (bind_keepsWf (Keeps.fetch memKept_local _ _) (fun _ => bind_keepsWf (Keeps.ops memKept_local.toFrames)
    (fun _ => bind_keepsWf (Keeps.readPred memKept_local.toFrames _) (fun _ => Keeps.writeD memKept_local _ _))))

theorem moviOp_memWf : Keeps MemKept (moviOp) := by
  unfold moviOp
  with_reducible repeat' first
    | exact Keeps.ops memKept_local.toFrames | exact Keeps.fetch memKept_local _ _ | exact Keeps.writeD memKept_local _ _
    | apply insn_memWf | apply bind_keepsWf | split | dsimp only | intro _

theorem movpGetOp_memWf : Keeps MemKept (movpGetOp) := by
  unfold movpGetOp
  with_reducible repeat' first
    | exact pure_keepsWf _ | exact Keeps.unit memKept_local.toFrames | exact Keeps.ops memKept_local.toFrames
    | exact Keeps.exThread memKept_local.toFrames | exact Keeps.apThread memKept_local.toFrames
    | exact Keeps.writeD memKept_local _ _ | exact Keeps.checkPorts memKept_local.toFrames _
    | exact Keeps.awaitRegs memKept_local.toFrames _ | apply insn_memWf | apply bind_keepsWf | split | dsimp only | intro _

theorem movpPutOp_memWf : Keeps MemKept (movpPutOp) := by
  unfold movpPutOp
  with_reducible repeat' first
    | exact pure_keepsWf _ | exact Keeps.unit memKept_local.toFrames | exact Keeps.ops memKept_local.toFrames
    | exact Keeps.fetch memKept_local _ _ | apply insn_memWf | apply State.modEx_memWf | apply State.modAp_memWf
    | apply get_keepsWf | apply modify_keepsWf | apply bind_keepsWf | split | dsimp only | intro _

theorem flutOp_memWf : Keeps MemKept (flutOp) := by
  unfold flutOp
  with_reducible repeat' first
    | exact Keeps.ops memKept_local.toFrames | exact Keeps.writePred memKept_local _ _
    | exact Keeps.readPred memKept_local.toFrames _ | apply insn_memWf | apply bind_keepsWf | dsimp only | intro _

/-! ### Route -/

theorem State.modLink_memWf (s : State) (n : ℕ) (f : Link → Link) (h : Memory.wf s.mem = true) :
    Memory.wf (State.modLink s n f).mem = true :=
  h

theorem State.crossLink_memWf (s : State) (n k : ℕ) (o : Outgoing) (h : Memory.wf s.mem = true) :
    Memory.wf (State.crossLink s n k o).mem = true :=
  h

theorem State.sendLink_memWf (s : State) (n cls ch : ℕ) (o : Outgoing) (h : Memory.wf s.mem = true) :
    Memory.wf (State.sendLink s n cls ch o).mem = true := by
  unfold State.sendLink
  with_reducible repeat' first
    | assumption | apply State.crossLink_memWf | apply State.modLink_memWf | split | dsimp only

theorem State.pumpLink_memWf (s : State) (n a : ℕ) (h : Memory.wf s.mem = true) :
    Memory.wf (State.pumpLink s n a).mem = true := by
  induction a generalizing s with
  | zero => exact h
  | succ k ih =>
    rw [State.pumpLink]
    with_reducible repeat' first
      | assumption | apply ih | apply State.modLink_memWf | apply State.crossLink_memWf | split

theorem State.replyTo_memWf (s : State) (dst ia thread : ℕ) (o : Outgoing) (h : Memory.wf s.mem = true) :
    Memory.wf (State.replyTo s dst ia thread o).mem = true := by
  unfold State.replyTo
  with_reducible repeat' first
    | assumption | apply State.sendLink_memWf | split

theorem State.sendBack_memWf (s : State) (dst : ℕ) (o : Outgoing) (h : Memory.wf s.mem = true) :
    Memory.wf (State.sendBack s dst o).mem = true :=
  State.replyTo_memWf _ _ _ _ _ h

/-! ### Access -/

theorem spots_memWf (w : Want) (v : Opnds) (ls : List ℕ) (vec data place : Bool) :
    Keeps MemKept (spots w v ls vec data place) := by
  unfold spots
  with_reducible repeat' first
    | exact Keeps.unit memKept_local.toFrames | exact Keeps.ops memKept_local.toFrames
    | exact Keeps.trapIf memKept_local.toFrames _ _ _ | exact Keeps.orTrap memKept_local.toFrames _ | apply get_keepsWf
    | apply bind_keepsWf | split | dsimp only | intro _

theorem ownEngine_memWf (tm core : ℕ) : Keeps MemKept (ownEngine tm core) := by
  unfold ownEngine
  with_reducible repeat' first
    | exact Keeps.trapIf memKept_local.toFrames _ _ _ | exact Keeps.waitUnless memKept_local.toFrames _ _ | apply get_keepsWf
    | apply bind_keepsWf | dsimp only | intro _

theorem awaitQueue_memWf (core : ℕ) : Keeps MemKept (awaitQueue core) := by
  unfold awaitQueue
  with_reducible repeat' first
    | exact Keeps.ctl memKept_local.toFrames | exact Keeps.waitUnless memKept_local.toFrames _ _
    | exact Keeps.modCtl memKept_local _ | apply get_keepsWf | apply bind_keepsWf | dsimp only | intro _

theorem accesses_memWf (w : Want) (v : Opnds) (ls : List ℕ) (vec data place : Bool) :
    Keeps MemKept (accesses w v ls vec data place) := by
  unfold accesses
  with_reducible repeat' first
    | exact pure_keepsWf _ | exact Keeps.unit memKept_local.toFrames | exact Keeps.orTrap memKept_local.toFrames _
    | apply spots_memWf | apply ownEngine_memWf | apply awaitQueue_memWf | apply get_keepsWf | apply bind_keepsWf | split
    | dsimp only | intro _

theorem State.countError_memWf (s : State) (r : Req) (h : Memory.wf s.mem = true) :
    Memory.wf (State.countError s r).mem = true := by
  unfold State.countError
  with_reducible repeat' first
    | assumption | apply State.flush_memWf | apply State.count_memWf | split

theorem State.atCore_memWf (s : State) (r : Req) (h : Memory.wf s.mem = true) : Memory.wf (State.atCore s r).2.mem = true := by
  unfold State.atCore
  with_reducible repeat' first
    | assumption | apply State.countError_memWf | apply State.writeStore_memWf | split | dsimp only

theorem State.atLeaf_memWf (s : State) (r : Req) (v : Via) (h : Memory.wf s.mem = true) :
    Memory.wf (State.atLeaf s r v).2.mem = true := by
  unfold State.atLeaf
  with_reducible repeat' first
    | assumption | apply State.readLocal_memWf | apply State.countError_memWf | apply State.updateL1_memWf
    | apply State.writeLocal_memWf | split | dsimp only

theorem State.holdLeaf_memWf (s : State) (pi : ℕ) (p : Partition) (ia leaf page : ℕ) (h : Memory.wf s.mem = true) :
    Memory.wf (State.holdLeaf s pi p ia leaf page).mem = true :=
  h

theorem State.hostGives_memWf (s : State) (ia n : ℕ) (h : Memory.wf s.mem = true) :
    Memory.wf (State.hostGives s ia n).mem = true :=
  h

theorem State.serve_memWf (s : State) (pi : ℕ) (p : Partition) (w : Walk) (r : Req) (h : Memory.wf s.mem = true) :
    (State.serve s pi p w r).MemWf := by
  unfold State.serve
  with_reducible repeat' first
    | assumption | apply State.atLeaf_memWf | apply State.holdLeaf_memWf | apply Served.memWf_ok | apply Served.memWf_park
    | apply Served.memWf_fail | apply Served.memWf_peer | apply Served.memWf_busy | apply Served.memWf_snoop | split

theorem State.seenBy_memWf (s : State) (u : Agent) (h : Memory.wf s.mem = true) : Memory.wf (State.seenBy s u).mem = true := by
  unfold State.seenBy
  with_reducible repeat' first
    | assumption | apply State.invalL1_memWf | split | apply elim_memWf | intro _

theorem State.inject_memWf (s : State) (n : ℕ) (r : Req) (h : Memory.wf s.mem = true) :
    Memory.wf (State.inject s n r).mem = true :=
  h

theorem awaitReplies_memWf (k : ℕ) : Keeps MemKept (awaitReplies k) :=
  get_keepsWf (fun _ _ => bind_keepsWf (Keeps.unit memKept_local.toFrames) (fun _ => Keeps.waitUnless memKept_local.toFrames _ _))

theorem buffer_memWf (r : Req) : Keeps MemKept (buffer r) :=
  bind_keepsWf freshId_memWf (fun _ => Keeps.modCtl memKept_local _)

theorem State.unpush_memWf (s : State) (r : Req) (h : Memory.wf s.mem = true) : Memory.wf (State.unpush s r).mem = true := by
  unfold State.unpush
  with_reducible repeat' first
    | assumption | apply State.modCtl_memWf | apply foldl_memWf | intro _

theorem State.drain_memWf (s : State) (u : Agent) (cls : ℕ) (h : Memory.wf s.mem = true) : OptWf (State.drain s u cls) := by
  unfold State.drain
  with_reducible repeat' first
    | assumption | apply State.modCtl_memWf | apply State.modPort_memWf | apply State.unpush_memWf | apply State.atCore_memWf
    | apply State.inject_memWf | exact OptWf.none | split | apply OptWf.some

theorem State.drainAll_memWf (s : State) (u : Agent) (cls a : ℕ) (h : Memory.wf s.mem = true) :
    Memory.wf (State.drainAll s u cls a).mem = true := by
  induction a generalizing s with
  | zero => exact h
  | succ k ih =>
    rw [State.drainAll]
    with_reducible repeat' first
      | assumption | apply ih | apply State.drain_memWf | split | refine OptWf.elim ?_ (by assumption)

theorem awaitOrder_memWf (r : Req) : Keeps MemKept (awaitOrder r) :=
  get_keepsWf (fun _ _ => Keeps.waitUnless memKept_local.toFrames _ _)

theorem doOwnN_memWf (r : Req) : Keeps MemKept (doOwnN r) := by
  unfold doOwnN
  with_reducible repeat' first
    | assumption | exact pure_keepsWf _ | exact Keeps.unit memKept_local.toFrames | apply State.drainAll_memWf
    | apply awaitOrder_memWf | apply State.atCore_memWf | apply get_keepsWf | apply set_keepsWf | apply modify_keepsWf
    | apply bind_keepsWf | split | dsimp only | intro _

theorem doGlobalN_memWf (r : Req) : Keeps MemKept (doGlobalN r) := by
  unfold doGlobalN
  with_reducible repeat' first
    | assumption | exact Keeps.throw _ | exact Keeps.stopTrap _ | exact Keeps.wait _ | exact pure_keepsWf _
    | exact Keeps.unit memKept_local.toFrames | apply awaitOrder_memWf | apply State.serve_memWf | apply State.dropL1_memWf
    | apply get_keepsWf | apply set_keepsWf | apply bind_keepsWf | split | dsimp only | intro _
    | refine Served.MemWf.ok ?_ (by assumption)

theorem doOwn_memWf (r : Req) : Keeps MemKept (doOwn r) :=
  bind_keepsWf (doOwnN_memWf _) (fun _ => pure_keepsWf _)

theorem doGlobal_memWf (r : Req) : Keeps MemKept (doGlobal r) :=
  bind_keepsWf (doGlobalN_memWf _) (fun _ => pure_keepsWf _)

theorem doNowN_memWf (r : Req) : Keeps MemKept (doNowN r) := by
  unfold doNowN
  with_reducible repeat' first
    | apply doGlobalN_memWf | apply doOwnN_memWf | split

theorem doNow_memWf (r : Req) : Keeps MemKept (doNow r) :=
  bind_keepsWf (doNowN_memWf _) (fun _ => pure_keepsWf _)

theorem State.engAccess_memWf (s : State) (r : Req) (h : Memory.wf s.mem = true) : (State.engAccess s r).MemWf := by
  unfold State.engAccess
  with_reducible repeat' first
    | assumption | apply State.atCore_memWf | apply State.serve_memWf | apply EngRes.memWf_ok | apply EngRes.memWf_park
    | apply EngRes.memWf_send | apply EngRes.memWf_hold | apply EngRes.memWf_fail | split
    | refine Served.MemWf.ok ?_ (by assumption)

theorem State.noteOnce_memWf (s : State) (id ctx page cause size : ℕ) (wr : Bool) (h : Memory.wf s.mem = true) :
    Memory.wf (State.noteOnce s id ctx page cause size wr).mem = true := by
  unfold State.noteOnce
  with_reducible repeat' first
    | assumption | apply State.noteFault_memWf | split

theorem State.engSend_memWf (s : State) (r : Req) (h : Memory.wf s.mem = true) : Memory.wf (State.engSend s r).mem = true :=
  h

/-! ### Issue -/

theorem codeRead_memWf (space va : ℕ) (need : Need) : Keeps MemKept (codeRead space va need) := by
  unfold codeRead
  with_reducible repeat' first
    | exact Keeps.stopTrap _ | exact pure_keepsWf _ | exact Keeps.unit memKept_local.toFrames
    | exact Keeps.orTrap memKept_local.toFrames _ | apply doGlobal_memWf | apply freshId_memWf | apply get_keepsWf
    | apply bind_keepsWf | split | dsimp only | intro _

theorem fetchCore_memWf (va : ℕ) : Keeps MemKept (fetchCore va) := by
  unfold fetchCore
  with_reducible repeat' first
    | exact pure_keepsWf _ | exact Keeps.unit memKept_local.toFrames | exact Keeps.orTrap memKept_local.toFrames _
    | apply codeRead_memWf | apply State.modCore_memWf | apply get_keepsWf | apply modify_keepsWf | apply bind_keepsWf | split
    | dsimp only | intro _

theorem fetchWord_memWf (va : ℕ) : Keeps MemKept (fetchWord va) := by
  unfold fetchWord
  with_reducible repeat' first
    | exact Keeps.unit memKept_local.toFrames | exact Keeps.engine memKept_local.toFrames | apply codeRead_memWf
    | apply fetchCore_memWf | apply bind_keepsWf | split | intro _

theorem fetchInsn_memWf : Keeps MemKept (fetchInsn) := by
  unfold fetchInsn
  with_reducible repeat' first
    | exact Keeps.throw _ | exact pure_keepsWf _ | exact Keeps.unit memKept_local.toFrames
    | exact Keeps.ctl memKept_local.toFrames | apply fetchWord_memWf | apply get_keepsWf | apply bind_keepsWf | split
    | dsimp only | intro _

theorem State.next_memWf (s : State) (u : Agent) (h : Memory.wf s.mem = true) : (State.next s u).MemWf := by
  unfold State.next
  with_reducible repeat' first
    | assumption | apply State.modCtl_memWf | apply fetchInsn_memWf | apply State.takeTrap_memWf | apply State.setWait_memWf
    | apply State.noteFault_memWf | apply State.overrun_memWf | apply Next.memWf_idle | apply Next.memWf_done
    | apply Next.memWf_run | split | apply Keeps.runWf | dsimp only | refine ExceptSndWf.elim ?_ (by assumption)

theorem State.found_memWf (s : State) (u : Agent) (h : Memory.wf s.mem = true) : Memory.wf (State.found s u).mem = true := by
  unfold State.found
  with_reducible repeat' first
    | assumption | apply State.modCtl_memWf | split

theorem State.take_memWf (s : State) (u : Agent) (i : Insn) (r : State) (ws : Memory.wf s.mem = true)
    (wr : Memory.wf r.mem = true) : Memory.wf (State.take s u i r).mem = true := by
  unfold State.take
  with_reducible repeat' first
    | assumption | apply State.modCore_memWf | split

theorem State.endPacket_memWf (s : State) (u : Agent) (h : Memory.wf s.mem = true) :
    Memory.wf (State.endPacket s u).mem = true := by
  unfold State.endPacket
  with_reducible repeat' first
    | assumption | apply State.modEngine_memWf | split

theorem State.issued_memWf (s : State) (u : Agent) (i : Insn) (r : State) (ws : Memory.wf s.mem = true)
    (wr : Memory.wf r.mem = true) : Memory.wf (State.issued s u i r).mem = true := by
  unfold State.issued
  with_reducible repeat' first
    | assumption | apply State.found_memWf | apply State.endPacket_memWf | apply State.take_memWf | apply State.modCtl_memWf
    | split | dsimp only

/-! ### Control -/

theorem condPoison_memWf (v : Val) : Keeps MemKept (condPoison v) :=
  Keeps.trapIf memKept_local.toFrames _ _ _

theorem offsetTarget_memWf : Keeps MemKept (offsetTarget) :=
  bind_keepsWf here_memWf (fun _ => bind_keepsWf (Keeps.ops memKept_local.toFrames) (fun _ => pure_keepsWf _))

theorem codeOffset_memWf (a : ℕ) : Keeps MemKept (codeOffset a) :=
  get_keepsWf (fun _ _ => bind_keepsWf (Keeps.unit memKept_local.toFrames) (fun _ => pure_keepsWf _))

theorem braOp_memWf (i : Instr) : Keeps MemKept (braOp i) := by
  unfold braOp
  with_reducible repeat' first
    | apply insn_memWf | apply offsetTarget_memWf | apply jump_memWf | apply bind_keepsWf

theorem brxOp_memWf (i : Instr) : Keeps MemKept (brxOp i) := by
  unfold brxOp
  with_reducible repeat' first
    | exact Keeps.lanes memKept_local.toFrames | exact Keeps.fetch memKept_local _ _ | apply insn_memWf
    | apply condPoison_memWf | apply jumpOffset_memWf | apply bind_keepsWf | dsimp only | intro _

theorem retOp_memWf (i : Instr) : Keeps MemKept (retOp i) := by
  unfold retOp
  with_reducible repeat' first
    | exact Keeps.lanes memKept_local.toFrames | exact Keeps.fetch memKept_local _ _ | apply insn_memWf
    | apply condPoison_memWf | apply jumpOffset_memWf | apply bind_keepsWf | dsimp only | intro _

theorem State.endPorts_memWf (s : State) (strip : ℕ) (q : Port → Bool) (e : Port → ℕ) (h : Memory.wf s.mem = true) :
    Memory.wf (State.endPorts s strip q e).mem = true := by
  unfold State.endPorts
  with_reducible repeat' first
    | assumption | apply State.modPort_memWf | split | apply foldl_memWf | intro _

theorem State.exitEx_memWf (s : State) (tm tid : ℕ) (h : Memory.wf s.mem = true) :
    Memory.wf (State.exitEx s tm tid).mem = true := by
  unfold State.exitEx
  with_reducible repeat' first
    | assumption | apply State.modEx_memWf | apply State.modStrip_memWf | apply State.retire_memWf
    | apply State.endPorts_memWf | split | apply foldl_memWf | dsimp only | intro _

theorem State.exitAp_memWf (s : State) (tm sp : ℕ) (h : Memory.wf s.mem = true) : Memory.wf (State.exitAp s tm sp).mem = true :=
  State.endPorts_memWf _ _ _ _ (State.modAp_memWf _ _ _ _ h)

theorem awaitStores_memWf : Keeps MemKept (awaitStores) :=
  bind_keepsWf (Keeps.ctl memKept_local.toFrames) (fun _ => Keeps.waitUnless memKept_local.toFrames _ _)

theorem exitOp_memWf (i : Instr) : Keeps MemKept (exitOp i) := by
  unfold exitOp
  with_reducible repeat' first
    | exact Keeps.unit memKept_local.toFrames | exact Keeps.takeDeferred memKept_local.toFrames _ | apply insn_memWf
    | apply awaitStores_memWf | apply State.exitEx_memWf | apply State.exitAp_memWf | apply State.haltEngine_memWf
    | apply modify_keepsWf | apply bind_keepsWf | split | intro _

theorem yieldOp_memWf (i : Instr) : Keeps MemKept (yieldOp i) := by
  unfold yieldOp
  with_reducible repeat' first
    | exact Keeps.modCtl memKept_local _ | apply insn_memWf | apply get_keepsWf | dsimp only | intro _

theorem meetOp_memWf (i : Instr) : Keeps MemKept (meetOp i) := by
  unfold meetOp
  with_reducible repeat' first
    | exact pure_keepsWf _ | exact Keeps.unit memKept_local.toFrames | apply insn_memWf | apply offsetTarget_memWf
    | apply codeOffset_memWf | apply State.modEx_memWf | apply modify_keepsWf | apply bind_keepsWf | split | intro _

theorem nopOp_memWf (i : Instr) : Keeps MemKept (nopOp i) :=
  insn_memWf _ _ _ (pure_keepsWf _)

theorem bkptOp_memWf (i : Instr) : Keeps MemKept (bkptOp i) :=
  insn_memWf _ _ _ (Keeps.trap _ _)

theorem pldOp_memWf (i : Instr) : Keeps MemKept (pldOp i) := by
  unfold pldOp
  with_reducible repeat' first
    | exact Keeps.stopTrap _ | exact Keeps.unit memKept_local.toFrames | exact Keeps.core memKept_local.toFrames
    | exact Keeps.trapIf memKept_local.toFrames _ _ _ | exact Keeps.fetch memKept_local _ _
    | exact Keeps.writeD memKept_local _ _ | apply insn_memWf | apply get_keepsWf | apply bind_keepsWf | split | dsimp only
    | intro _

theorem renewL1_memWf (scope : ℕ) : Keeps MemKept (renewL1 scope) := by
  unfold renewL1
  with_reducible repeat' first
    | exact pure_keepsWf _ | exact Keeps.unit memKept_local.toFrames | exact Keeps.core memKept_local.toFrames
    | apply State.invalL1_memWf | apply modify_keepsWf | apply bind_keepsWf | split | intro _

theorem acquire_memWf (scope : ℕ) : Keeps MemKept (acquire scope) :=
  get_keepsWf (fun _ _ => bind_keepsWf (Keeps.unit memKept_local.toFrames) (fun _ => bind_keepsWf
    (Keeps.waitUnless memKept_local.toFrames _ _) (fun _ => renewL1_memWf _)))

theorem release_memWf : Keeps MemKept (release) :=
  bind_keepsWf awaitStores_memWf (fun _ => bind_keepsWf (Keeps.unit memKept_local.toFrames) (fun _ => get_keepsWf
    (fun _ _ => Keeps.waitUnless memKept_local.toFrames _ _)))

theorem checkPairs_memWf (h : Handle) (fs : List Field) : Keeps MemKept (checkPairs h fs) := by
  unfold checkPairs
  with_reducible repeat' first
    | exact pure_keepsWf _ | exact Keeps.unit memKept_local.toFrames | exact Keeps.trapIf memKept_local.toFrames _ _ _
    | apply bind_keepsWf | split | intro _

theorem onceLane_memWf : Keeps MemKept (onceLane) :=
  bind_keepsWf (Keeps.lanes memKept_local.toFrames) (fun _ => pure_keepsWf _)

theorem waitwOp_memWf : Keeps MemKept (waitwOp) := by
  unfold waitwOp
  with_reducible repeat' first
    | exact pure_keepsWf _ | exact Keeps.unit memKept_local.toFrames | exact Keeps.ops memKept_local.toFrames
    | exact Keeps.lanes memKept_local.toFrames | exact Keeps.waitUnless memKept_local.toFrames _ _
    | exact Keeps.fetch memKept_local _ _ | exact Keeps.writeD memKept_local _ _ | apply insn_memWf | apply checkPairs_memWf
    | apply onceLane_memWf | apply condPoison_memWf | apply accesses_memWf | apply here_memWf | apply doNow_memWf
    | apply acquire_memWf | apply get_keepsWf | apply bind_keepsWf | split | dsimp only | intro _

theorem awaitLink_memWf : Keeps MemKept (awaitLink) := by
  unfold awaitLink
  with_reducible repeat' first
    | exact pure_keepsWf _ | exact Keeps.unit memKept_local.toFrames | exact Keeps.ops memKept_local.toFrames
    | exact Keeps.awaitRegs memKept_local.toFrames _ | apply bind_keepsWf | split | intro _

theorem callOp_memWf : Keeps MemKept (callOp) :=
  insn_memWf _ _ _ (bind_keepsWf (Keeps.ctl memKept_local.toFrames) (fun _ => bind_keepsWf (codeOffset_memWf _)
    (fun _ => bind_keepsWf offsetTarget_memWf (fun _ => bind_keepsWf awaitLink_memWf (fun _ => bind_keepsWf
        (Keeps.ops memKept_local.toFrames) (fun _ => bind_keepsWf (Keeps.writeF memKept_local _ _ _) (fun _ => jump_memWf _)))))))

theorem beosOp_memWf : Keeps MemKept (beosOp) := by
  unfold beosOp
  with_reducible repeat' first
    | exact pure_keepsWf _ | exact Keeps.ops memKept_local.toFrames | exact Keeps.exThread memKept_local.toFrames
    | apply insn_memWf | apply offsetTarget_memWf | apply jump_memWf | apply bind_keepsWf | split | intro _

theorem trapOp_memWf : Keeps MemKept (trapOp) := by
  unfold trapOp
  with_reducible repeat' first
    | exact Keeps.stopTrap _ | exact Keeps.ops memKept_local.toFrames | exact Keeps.lanes memKept_local.toFrames
    | exact Keeps.fetch memKept_local _ _ | apply insn_memWf | apply bind_keepsWf | split | dsimp only | intro _

theorem sleepOp_memWf : Keeps MemKept (sleepOp) := by
  unfold sleepOp
  with_reducible repeat' first
    | exact pure_keepsWf _ | exact Keeps.lanes memKept_local.toFrames | exact Keeps.fetch memKept_local _ _
    | exact Keeps.modCtl memKept_local _ | apply insn_memWf | apply get_keepsWf | apply bind_keepsWf | split | dsimp only
    | intro _

theorem meetrOp_memWf : Keeps MemKept (meetrOp) := by
  unfold meetrOp
  with_reducible repeat' first
    | exact pure_keepsWf _ | exact Keeps.unit memKept_local.toFrames | exact Keeps.trapIf memKept_local.toFrames _ _ _
    | exact Keeps.fetch memKept_local _ _ | apply insn_memWf | apply State.modEx_memWf | apply modify_keepsWf
    | apply bind_keepsWf | split | dsimp only | intro _

theorem heartOp_memWf : Keeps MemKept (heartOp) := by
  unfold heartOp
  with_reducible repeat' first
    | exact pure_keepsWf _ | exact Keeps.unit memKept_local.toFrames | apply insn_memWf | apply State.modTeam_memWf
    | apply modify_keepsWf | apply bind_keepsWf | split | dsimp only | intro _

/-! ### Loads -/

theorem accLanes_memWf (vec : Bool) : Keeps MemKept (accLanes vec) := by
  unfold accLanes
  with_reducible repeat' first
    | exact pure_keepsWf _ | exact Keeps.unit memKept_local.toFrames | exact Keeps.lanes memKept_local.toFrames
    | apply bind_keepsWf | split | intro _

theorem blockOp_memWf (i : Instr) (sh : Shape) (start : M (List (ℕ × Req))) (fin : (ℕ → Val) → M Unit)
    (hstart : Keeps MemKept start) (hfin : ∀ a, Keeps MemKept (fin a)) : Keeps MemKept (blockOp i sh start fin) := by
  unfold blockOp
  with_reducible repeat' first
    | assumption | exact Keeps.stopTrap _ | exact pure_keepsWf _ | exact Keeps.unit memKept_local.toFrames
    | exact Keeps.ops memKept_local.toFrames | exact Keeps.apThread memKept_local.toFrames
    | exact Keeps.fetch memKept_local _ _ | apply hfin | apply insn_memWf | apply State.modAp_memWf | apply awaitReplies_memWf
    | apply State.inject_memWf | apply State.setWait_memWf | apply get_keepsWf | apply set_keepsWf | apply modify_keepsWf
    | apply bind_keepsWf | apply forM_keepsWf | split | dsimp only | intro _ | apply foldl_memWf

theorem reqs_memWf (rs : List (ℕ × Acc)) (vec : Bool) (kind : ℕ → ReqKind) : Keeps MemKept (reqs rs vec kind) :=
  get_keepsWf (fun _ _ => bind_keepsWf (Keeps.unit memKept_local.toFrames) (fun _ => bind_keepsWf here_memWf
    (fun _ => pure_keepsWf _)))

theorem exValue_memWf (h : Handle) (ew : Bool) (w : ℕ) (r : Req) : Keeps MemKept (exValue h ew w r) := by
  unfold exValue
  with_reducible repeat' first
    | exact pure_keepsWf _ | exact Keeps.unit memKept_local.toFrames | exact Keeps.ops memKept_local.toFrames
    | exact Keeps.writeD memKept_local _ _ | exact Keeps.writeRegs memKept_local _ _ _ _ _ | apply doOwn_memWf
    | apply awaitReplies_memWf | apply freshId_memWf | apply State.inject_memWf | apply get_keepsWf | apply modify_keepsWf
    | apply bind_keepsWf | split | dsimp only | intro _

theorem ldsOp_memWf (i : Instr) (x1 : Option ℕ) (spE spA kinds : List ℕ) : Keeps MemKept (ldsOp i x1 spE spA kinds) := by
  unfold ldsOp
  with_reducible repeat' first
    | exact pure_keepsWf _ | exact Keeps.unit memKept_local.toFrames | exact Keeps.ops memKept_local.toFrames
    | exact Keeps.fetch memKept_local _ _ | exact Keeps.writeD memKept_local _ _ | apply insn_memWf | apply accLanes_memWf
    | apply accesses_memWf | apply reqs_memWf | apply doOwn_memWf | apply blockOp_memWf | apply checkPairs_memWf
    | apply exValue_memWf | apply get_keepsWf | apply bind_keepsWf | apply mapM_keepsWf | split | dsimp only | intro _

theorem stsOp_memWf (i : Instr) (x1 : Option ℕ) (spE spA kinds widths : List ℕ) (need : Need) (kind : ℕ → ℕ → W64 → ReqKind) :
    Keeps MemKept (stsOp i x1 spE spA kinds widths need kind) := by
  unfold stsOp
  with_reducible repeat' first
    | exact pure_keepsWf _ | exact Keeps.unit memKept_local.toFrames | exact Keeps.ops memKept_local.toFrames
    | exact Keeps.fetch memKept_local _ _ | apply insn_memWf | apply checkPairs_memWf | apply accLanes_memWf
    | apply accesses_memWf | apply reqs_memWf | apply buffer_memWf | apply get_keepsWf | apply bind_keepsWf
    | apply forM_keepsWf | split | dsimp only | intro _

theorem readDest_memWf (w : ℕ) : Keeps MemKept (readDest w) :=
  bind_keepsWf (Keeps.ops memKept_local.toFrames) (fun _ => bind_keepsWf (Keeps.awaitRegs memKept_local.toFrames _)
    (fun _ => Keeps.readField1 memKept_local.toFrames _ _ _ _))

theorem atomsOp_memWf : Keeps MemKept (atomsOp) := by
  unfold atomsOp
  with_reducible repeat' first
    | exact pure_keepsWf _ | exact Keeps.unit memKept_local.toFrames | exact Keeps.ops memKept_local.toFrames
    | exact Keeps.fetch memKept_local _ _ | exact Keeps.writeD memKept_local _ _ | apply readDest_memWf | apply accLanes_memWf
    | apply accesses_memWf | apply reqs_memWf | apply blockOp_memWf | apply insn_memWf | apply doOwn_memWf
    | apply checkPairs_memWf | apply exValue_memWf | apply get_keepsWf | apply bind_keepsWf | apply mapM_keepsWf | split
    | dsimp only | intro _

/-! ### Remote -/

theorem State.answer_memWf (s : State) (p : Packet) (res : RemoteResult) (h : Memory.wf s.mem = true) :
    Memory.wf (State.answer s p res).mem = true := by
  unfold State.answer
  with_reducible repeat' first
    | assumption | apply State.replyTo_memWf | split

theorem State.notice_memWf (s : State) (p : Packet) (h : Memory.wf s.mem = true) : Memory.wf (State.notice s p).mem = true := by
  unfold State.notice
  with_reducible repeat' first
    | assumption | apply State.replyTo_memWf | split

theorem State.serveRemote_memWf (s : State) (p : Packet) (again : Bool) (h : Memory.wf s.mem = true) :
    Memory.wf (State.serveRemote s p again).mem = true := by
  unfold State.serveRemote
  with_reducible repeat' first
    | assumption | apply State.answer_memWf | apply State.serve_memWf | apply State.noteFault_memWf | apply State.notice_memWf
    | split | dsimp only | refine Served.MemWf.ok ?_ (by assumption)

theorem State.sendRemote_memWf (s : State) (n : ℕ) (r : Req) (dev ia : ℕ) (h : Memory.wf s.mem = true) :
    OptWf (State.sendRemote s n r dev ia) := by
  unfold State.sendRemote
  with_reducible repeat' first
    | assumption | apply State.serveRemote_memWf | apply State.sendLink_memWf | exact OptWf.none | split | apply OptWf.some
    | dsimp only

theorem State.peerFill_memWf (s : State) (r : Req) (slice leaf page d : ℕ) (po : Bool) (h : Memory.wf s.mem = true) :
    Memory.wf (State.peerFill s r slice leaf page d po).mem = true := by
  unfold State.peerFill
  with_reducible repeat' first
    | assumption | apply State.l2Keep_memWf | apply State.l2Fit_memWf | split | apply foldl_memWf | dsimp only | intro _

/-! ### Pipeline -/

theorem State.answerLane_memWf (s : State) (tm sp lane : ℕ) (x : Except TrapInfo Val) (h : Memory.wf s.mem = true) :
    Memory.wf (State.answerLane s tm sp lane x).mem = true :=
  h

theorem State.land_memWf (s : State) (r : Req) (x : Except TrapInfo Val) (data : ℕ) (h : Memory.wf s.mem = true) :
    Memory.wf (State.land s r x data).mem = true := by
  unfold State.land
  with_reducible repeat' first
    | assumption | apply State.modStrip_memWf | apply State.modAp_memWf | apply State.answerLane_memWf
    | apply State.modPort_memWf | apply State.modEngine_memWf | split

theorem State.pushHeld_memWf (s : State) (tm tid n : ℕ) (v : W64) (poison : Bool) (h : Memory.wf s.mem = true) :
    Memory.wf (State.pushHeld s tm tid n v poison).mem = true := by
  unfold State.pushHeld
  with_reducible repeat' first
    | assumption | apply State.takeTrap_memWf | apply State.finishEx_memWf | apply State.push_memWf | split

theorem State.landWord_memWf (s : State) (l : Landing) (v : W64) (poison : Bool) (h : Memory.wf s.mem = true) :
    Memory.wf (State.landWord s l v poison).mem = true := by
  unfold State.landWord
  with_reducible repeat' first
    | assumption | apply State.modStrip_memWf | apply State.modAp_memWf | apply State.seenBy_memWf
    | apply State.modEngine_memWf | apply State.pushHeld_memWf | split

theorem State.sliceRequest_memWf (s : State) (n : ℕ) (h : Memory.wf s.mem = true) : OptWf (State.sliceRequest s n) := by
  unfold State.sliceRequest
  with_reducible repeat' first
    | assumption | exact OptWf.none | split | apply OptWf.some

theorem State.l1Request_memWf (s : State) (n : ℕ) (h : Memory.wf s.mem = true) : OptWf (State.l1Request s n) := by
  unfold State.l1Request
  with_reducible repeat' first
    | assumption | exact OptWf.none | split | apply OptWf.map_any | dsimp only | intro _

theorem State.reinject_memWf (s : State) (n : ℕ) (h : Memory.wf s.mem = true) : OptWf (State.reinject s n) := by
  unfold State.reinject
  with_reducible repeat' first
    | assumption | apply State.inject_memWf | exact OptWf.none | split | apply OptWf.some

theorem State.l1After_memWf (s : State) (r : Req) (v : Via) (h : Memory.wf s.mem = true) :
    Memory.wf (State.l1After s r v).mem = true := by
  unfold State.l1After
  with_reducible repeat' first
    | assumption | apply State.readLocal_memWf | apply State.modCore_memWf | apply State.dropL1_memWf | split

theorem State.walkWith_memWf (s : State) (n : ℕ) (r : Req) (pi : ℕ) (p : Partition) (w : Walk) (h : Memory.wf s.mem = true) :
    OptWf (State.walkWith s n r pi p w) := by
  unfold State.walkWith
  with_reducible repeat' first
    | assumption | apply State.serve_memWf | apply State.noteFault_memWf | apply State.sendRemote_memWf
    | apply State.l1After_memWf | exact OptWf.none | split | apply OptWf.some | dsimp only
    | refine Served.MemWf.ok ?_ (by assumption)

theorem State.walkRequest_memWf (s : State) (n : ℕ) (cached : Bool) (h : Memory.wf s.mem = true) :
    OptWf (State.walkRequest s n cached) := by
  unfold State.walkRequest
  with_reducible repeat' first
    | assumption | apply State.walkWith_memWf | exact OptWf.none | split | apply OptWf.some | dsimp only

theorem State.snooped_memWf (s : State) (n : ℕ) (h : Memory.wf s.mem = true) : OptWf (State.snooped s n) := by
  unfold State.snooped
  with_reducible repeat' first
    | assumption | apply State.hostGives_memWf | apply State.walkWith_memWf | exact OptWf.none | split | apply OptWf.bind_any'
    | dsimp only | intro _

theorem State.serveAgain_memWf (s : State) (q : Inbound → Bool) (h : Memory.wf s.mem = true) :
    Memory.wf (State.serveAgain s q).mem = true := by
  unfold State.serveAgain
  with_reducible repeat' first
    | assumption | apply State.serveRemote_memWf | apply foldl_memWf | intro _

theorem State.hostYields_memWf (s : State) (line : ℕ) (h : Memory.wf s.mem = true) : OptWf (State.hostYields s line) := by
  unfold State.hostYields
  with_reducible repeat' first
    | assumption | apply State.serveAgain_memWf | apply State.hostGives_memWf | exact OptWf.none | split | apply OptWf.some

theorem State.atPeerCore_memWf (s : State) (n : ℕ) (r : Req) (h : Memory.wf s.mem = true) :
    OptFstWf (State.atPeerCore s n r) := by
  unfold State.atPeerCore
  with_reducible repeat' first
    | assumption | apply State.atCore_memWf | exact OptFstWf.none | split | apply OptFstWf.some

theorem State.settle_memWf (s : State) (n : ℕ) (h : Memory.wf s.mem = true) : OptFstWf (State.settle s n) := by
  unfold State.settle
  with_reducible repeat' first
    | assumption | apply State.atPeerCore_memWf | exact OptFstWf.none | split | apply OptFstWf.some

theorem State.memoryReply_memWf (s : State) (n : ℕ) (h : Memory.wf s.mem = true) : OptWf (State.memoryReply s n) := by
  unfold State.memoryReply
  with_reducible repeat' first
    | assumption | apply State.settle_memWf | apply State.land_memWf | exact OptWf.none | split | apply OptWf.some
    | dsimp only | refine OptFstWf.elim ?_ (by assumption)

theorem State.portDeliver_memWf (s : State) (n : ℕ) (h : Memory.wf s.mem = true) : OptWf (State.portDeliver s n) := by
  unfold State.portDeliver
  with_reducible repeat' first
    | assumption | apply State.settle_memWf | apply State.land_memWf | exact OptWf.none | split | apply OptWf.some
    | dsimp only | refine OptFstWf.elim ?_ (by assumption)

theorem State.acknowledge_memWf (s : State) (n : ℕ) (r : Req) (h : Memory.wf s.mem = true) :
    Memory.wf (State.acknowledge s n r).mem = true := by
  unfold State.acknowledge
  with_reducible repeat' first
    | assumption | apply State.modCtl_memWf | apply State.unpush_memWf | split | apply foldl_memWf | intro _

theorem State.forget_memWf (s : State) (gone : Req → Bool) (h : Memory.wf s.mem = true) :
    Memory.wf (State.forget s gone).mem = true := by
  unfold State.forget
  with_reducible repeat' first
    | assumption | apply State.modEngine_memWf | split | apply foldl_memWf | intro _

theorem State.emptyBuffers_memWf (s : State) (c : ℕ) (h : Memory.wf s.mem = true) :
    Memory.wf (State.emptyBuffers s c).mem = true :=
  h

theorem State.storeAck_memWf (s : State) (n : ℕ) (h : Memory.wf s.mem = true) : OptWf (State.storeAck s n) := by
  unfold State.storeAck
  with_reducible repeat' first
    | assumption | apply State.settle_memWf | apply State.acknowledge_memWf | exact OptWf.none | split | apply OptWf.some
    | refine OptFstWf.elim ?_ (by assumption)

theorem State.keepPeer_memWf (s : State) (r : Req) (d : ℕ) (po : Bool) (h : Memory.wf s.mem = true) :
    Memory.wf (State.keepPeer s r d po).mem = true := by
  unfold State.keepPeer
  with_reducible repeat' first
    | assumption | apply State.peerFill_memWf | split

theorem State.remoteTimeout_memWf (s : State) (n : ℕ) (dropped : Bool) (h : Memory.wf s.mem = true) :
    OptWf (State.remoteTimeout s n dropped) := by
  unfold State.remoteTimeout
  with_reducible repeat' first
    | assumption | exact OptWf.none | split | apply OptWf.some | apply OptWf.bind_any' | dsimp only | intro _

/-! ### Lane -/

theorem jointOut_memWf (i : Instr) (r : JRes) : Keeps MemKept (jointOut i r) := by
  unfold jointOut
  with_reducible repeat' first
    | exact pure_keepsWf _ | exact Keeps.ops memKept_local.toFrames | exact Keeps.writeD memKept_local _ _
    | exact Keeps.writePred memKept_local _ _ | exact raise_memWf _ | apply bind_keepsWf | split | dsimp only | intro _

theorem jointOp_memWf (i : Instr) : Keeps MemKept (jointOp i) := by
  unfold jointOp
  with_reducible repeat' first
    | exact Keeps.throw _ | exact pure_keepsWf _ | exact Keeps.unit memKept_local.toFrames
    | exact Keeps.ops memKept_local.toFrames | exact Keeps.exThread memKept_local.toFrames
    | exact Keeps.checkPorts memKept_local.toFrames _ | exact Keeps.awaitRegs memKept_local.toFrames _
    | apply State.modEx_memWf | apply insn_memWf | apply here_memWf | apply stay_memWf | apply get_keepsWf
    | apply modify_keepsWf | apply bind_keepsWf | split | dsimp only | intro _

theorem jointDone_memWf (i : Instr) (r : JRes) : Keeps MemKept (jointDone i r) := by
  unfold jointDone
  with_reducible repeat' first
    | exact pure_keepsWf _ | exact Keeps.unit memKept_local.toFrames | exact Keeps.ops memKept_local.toFrames
    | exact Keeps.fetch memKept_local _ _ | apply release_memWf | apply jointOut_memWf | apply State.finishEx_memWf
    | apply modify_keepsWf | apply bind_keepsWf | split | intro _

theorem State.jointStep_memWf (s : State) (tm : ℕ) (i : Insn) (tid : ℕ) (r : JRes) (h : Memory.wf s.mem = true) :
    ExceptWf (State.jointStep s tm i tid r) := by
  unfold State.jointStep
  with_reducible repeat' first
    | assumption | apply State.asUnit_memWf | apply jointDone_memWf | apply State.takeTrap_memWf | apply State.modCtl_memWf
    | exact ExceptWf.error | split | apply ExceptWf.ok | dsimp only | refine ExceptSndWf.elim ?_ (by assumption)

theorem State.jointWait_memWf (s : State) (tm tid : ℕ) (w : Wait) (h : Memory.wf s.mem = true) :
    Memory.wf (State.jointWait s tm tid w).mem = true :=
  h

theorem State.setTurn_memWf (s : State) (tm : ℕ) (set : NatSet) (h : Memory.wf s.mem = true) :
    Memory.wf (State.setTurn s tm set).mem = true := by
  unfold State.setTurn
  with_reducible repeat' first
    | assumption | apply State.modEx_memWf | split | apply foldl_memWf | dsimp only | intro _

theorem State.jointPerform_memWf (s : State) (tm tid : ℕ) (h : Memory.wf s.mem = true) : OptWf (State.jointPerform s tm tid) := by
  unfold State.jointPerform
  with_reducible repeat' first
    | assumption | apply State.jointWait_memWf | apply State.jointStep_memWf | apply State.takeTrap_memWf
    | apply State.setTurn_memWf | exact OptWf.none | exact ExceptWf.error | split | apply OptWf.some | apply ExceptWf.ok
    | apply ExceptWf.foldl | dsimp only | intro _ | refine ExceptWf.elim ?_ (by assumption)
    | exact ExceptWf.of_ok (by assumption)

theorem hashTable_memWf (v : Opnds) (data : Bool) : Keeps MemKept (hashTable v data) := by
  unfold hashTable
  with_reducible repeat' first
    | exact Keeps.stopTrap _ | exact pure_keepsWf _ | exact Keeps.unit memKept_local.toFrames
    | exact Keeps.team memKept_local.toFrames | exact Keeps.core memKept_local.toFrames
    | exact Keeps.trapIf memKept_local.toFrames _ _ _ | apply State.drainAll_memWf | apply awaitOrder_memWf
    | apply get_keepsWf | apply modify_keepsWf | apply bind_keepsWf | split | dsimp only | intro _

theorem haccOp_memWf : Keeps MemKept (haccOp) := by
  unfold haccOp
  with_reducible repeat' first
    | assumption | exact Keeps.ops memKept_local.toFrames | exact Keeps.fetch memKept_local _ _
    | exact Keeps.writeD memKept_local _ _ | apply insn_memWf | apply hashTable_memWf | apply State.writeStore_memWf
    | apply get_keepsWf | apply modify_keepsWf | apply bind_keepsWf | split | dsimp only | intro _

theorem hfindOp_memWf : Keeps MemKept (hfindOp) := by
  unfold hfindOp
  with_reducible repeat' first
    | exact Keeps.fetch memKept_local _ _ | exact Keeps.writeD memKept_local _ _ | apply insn_memWf | apply hashTable_memWf
    | apply get_keepsWf | apply bind_keepsWf | split | dsimp only | intro _

/-! ### Async -/

theorem landD_memWf : Keeps MemKept (landD) := by
  unfold landD
  with_reducible repeat' first
    | exact pure_keepsWf _ | exact Keeps.unit memKept_local.toFrames | exact Keeps.ops memKept_local.toFrames
    | exact Keeps.writeRegs memKept_local _ _ _ _ _ | apply State.modAp_memWf | apply State.modEngine_memWf
    | apply modify_keepsWf | apply bind_keepsWf | split | intro _

theorem State.reply_memWf (s : State) (ctx : ℕ) (l : Landing) (v : W64) (poison : Bool) (h : Memory.wf s.mem = true) :
    Memory.wf (State.reply s ctx l v poison).mem = true := by
  unfold State.reply
  with_reducible repeat' first
    | assumption | apply State.landWord_memWf | apply State.modCtx_memWf | split

theorem writeStatus_memWf (code : ℕ) (poison : Bool) : Keeps MemKept (writeStatus code poison) :=
  Keeps.writeD memKept_local _ _

theorem myGrid_memWf : Keeps MemKept (myGrid) :=
  get_keepsWf (fun _ _ => bind_keepsWf (Keeps.unit memKept_local.toFrames) (fun _ => pure_keepsWf _))

theorem onceOp_memWf (i : Instr) (sh : Shape) (body : Opnds → ℕ → M Unit) (hbody : ∀ a b, Keeps MemKept (body a b)) :
    Keeps MemKept (onceOp i sh body) := by
  unfold onceOp
  with_reducible repeat' first
    | exact Keeps.lanes memKept_local.toFrames | exact Keeps.fetch memKept_local _ _ | apply hbody | apply insn_memWf
    | apply bind_keepsWf | intro _

theorem oneAccess_memWf (w : Want) (v : Opnds) (data : Bool) : Keeps MemKept (oneAccess w v data) := by
  unfold oneAccess
  with_reducible repeat' first
    | exact Keeps.throw _ | exact pure_keepsWf _ | apply onceLane_memWf | apply accesses_memWf | apply bind_keepsWf | split
    | intro _

theorem State.updateArr_memWf (s : State) (key : ℕ) (f : ℕ → ℕ) (h : Memory.wf s.mem = true) :
    Memory.wf (State.updateArr s key f).mem = true := by
  unfold State.updateArr
  with_reducible repeat' first
    | assumption | apply State.writeStore_memWf | split | dsimp only

theorem arrwOp_memWf (i : Instr) (rel : Bool) (f : ℕ → ℕ → ℕ) : Keeps MemKept (arrwOp i rel f) := by
  unfold arrwOp
  with_reducible repeat' first
    | exact pure_keepsWf _ | exact Keeps.unit memKept_local.toFrames | exact Keeps.ops memKept_local.toFrames
    | exact Keeps.writeD memKept_local _ _ | apply onceOp_memWf | apply oneAccess_memWf | apply release_memWf
    | apply here_memWf | apply doOwnN_memWf | apply State.updateArr_memWf | apply get_keepsWf | apply modify_keepsWf
    | apply bind_keepsWf | split | intro _

theorem awaitOp_memWf : Keeps MemKept (awaitOp) := by
  unfold awaitOp
  with_reducible repeat' first
    | exact Keeps.unit memKept_local.toFrames | exact Keeps.ops memKept_local.toFrames
    | exact Keeps.waitUnless memKept_local.toFrames _ _ | exact Keeps.writeD memKept_local _ _ | apply onceOp_memWf
    | apply oneAccess_memWf | apply here_memWf | apply doOwnN_memWf | apply acquire_memWf | apply get_keepsWf
    | apply bind_keepsWf | dsimp only | intro _

theorem copyOp_memWf : Keeps MemKept copyOp := by
  unfold copyOp
  refine bind_keepsWf (Keeps.ops memKept_local.toFrames) fun o => bind_keepsWf (Keeps.unit memKept_local.toFrames) fun u =>
    onceOp_memWf _ _ _ fun v _ => ?_
  refine bind_keepsWf (oneAccess_memWf _ _ _) fun a => ?_
  refine get_keepsWf fun s hs => ?_
  refine bind_keepsWf here_memWf fun pc => ?_
  refine bind_keepsWf (doNowN_memWf _) fun x => ?_
  refine bind_keepsWf (Keeps.trapIf memKept_local.toFrames _ _ _) fun _ => ?_
  refine bind_keepsWf release_memWf fun _ => ?_
  refine get_keepsWf fun s hs => ?_
  refine bind_keepsWf (Keeps.waitUnless memKept_local.toFrames _ _) fun _ => ?_
  extract_lets
  refine bind_keepsWf ?_ fun _ => bind_keepsWf freshId_memWf fun _ => bind_keepsWf myGrid_memWf fun _ => ?_
  · split
    · exact pure_keepsWf _
    · exact landD_memWf
  · extract_lets
    exact modify_keepsWf fun _ h => h

theorem State.copyElem_memWf (s : State) (id : ℕ) (c : Copy) (i : ℕ) (h : Memory.wf s.mem = true) :
    OptFstWf (State.copyElem s id c i) := by
  unfold State.copyElem
  with_reducible repeat' first
    | assumption | apply State.engAccess_memWf | apply State.engSend_memWf | apply State.noteOnce_memWf
    | apply State.modCore_memWf | exact OptFstWf.none | apply EngRes.memWf_ok | split | apply OptFstWf.some | dsimp only
    | refine EngRes.MemWf.ok ?_ (by assumption)

theorem State.addArrival_memWf (s : State) (id : ℕ) (c : Copy) (upto fault : ℕ) (h : Memory.wf s.mem = true) :
    Memory.wf (State.addArrival s id c upto fault).mem = true := by
  unfold State.addArrival
  with_reducible repeat' first
    | assumption | apply State.updateArr_memWf | split

theorem State.copyProgress_memWf (s : State) (id i : ℕ) (hold : Bool) (h : Memory.wf s.mem = true) :
    OptWf (State.copyProgress s id i hold) := by
  unfold State.copyProgress
  with_reducible repeat' first
    | assumption | apply State.copyElem_memWf | apply State.addArrival_memWf | exact OptWf.none | split | apply OptWf.some
    | dsimp only | refine OptFstWf.elim ?_ (by assumption)

theorem State.copyComplete_memWf (s : State) (id : ℕ) (h : Memory.wf s.mem = true) : OptWf (State.copyComplete s id) := by
  unfold State.copyComplete
  with_reducible repeat' first
    | assumption | apply State.addArrival_memWf | apply State.landWord_memWf | exact OptWf.none | split | apply OptWf.some

theorem cstatOp_memWf : Keeps MemKept (cstatOp) := by
  unfold cstatOp
  with_reducible repeat' first
    | exact Keeps.unit memKept_local.toFrames | exact Keeps.ops memKept_local.toFrames
    | exact Keeps.waitUnless memKept_local.toFrames _ _ | exact Keeps.writeD memKept_local _ _ | apply onceOp_memWf
    | apply acquire_memWf | apply get_keepsWf | apply bind_keepsWf | dsimp only | intro _

theorem wdqOp_memWf : Keeps MemKept (wdqOp) := by
  unfold wdqOp
  with_reducible repeat' first
    | assumption | exact Keeps.unit memKept_local.toFrames | exact Keeps.ops memKept_local.toFrames
    | exact Keeps.waitUnless memKept_local.toFrames _ _ | apply onceOp_memWf | apply oneAccess_memWf
    | apply awaitReplies_memWf | apply landD_memWf | apply freshId_memWf | apply myGrid_memWf | apply get_keepsWf
    | apply modify_keepsWf | apply bind_keepsWf | dsimp only | intro _

theorem State.replySpad_memWf (s : State) (ctx : ℕ) (u : Agent) (loc : ℕ) (v : W64) (h : Memory.wf s.mem = true) :
    Memory.wf (State.replySpad s ctx u loc v).mem = true := by
  unfold State.replySpad
  with_reducible repeat' first
    | assumption | apply State.writeStore_memWf | apply State.modCtx_memWf | split

theorem State.wdqAnswer_memWf (s : State) (id : ℕ) (h : Memory.wf s.mem = true) : OptWf (State.wdqAnswer s id) := by
  unfold State.wdqAnswer
  with_reducible repeat' first
    | assumption | apply State.reply_memWf | apply State.replySpad_memWf | apply State.modCtl_memWf | exact OptWf.none | split
    | apply OptWf.some | dsimp only

/-! ### Publish -/

theorem State.modPart_memWf (s : State) (i : ℕ) (f : Partition → Partition) (h : Memory.wf s.mem = true) :
    Memory.wf (State.modPart s i f).mem = true :=
  h

theorem pubOp_memWf (i : Instr) (publ : Bool) : Keeps MemKept (pubOp i publ) := by
  unfold pubOp
  with_reducible repeat' first
    | assumption | exact Keeps.stopTrap _ | exact Keeps.unit memKept_local.toFrames | exact Keeps.ops memKept_local.toFrames
    | apply onceOp_memWf | apply release_memWf | apply awaitReplies_memWf | apply landD_memWf | apply freshId_memWf
    | apply myGrid_memWf | apply get_keepsWf | apply modify_keepsWf | apply bind_keepsWf | split | dsimp only | intro _

theorem State.endPub_memWf (s : State) (id : ℕ) (op : PubOp) (code line : ℕ) (h : Memory.wf s.mem = true) :
    Memory.wf (State.endPub s id op code line).mem = true :=
  State.reply_memWf _ _ _ _ _ h

theorem State.askOwner_memWf (s : State) (id : ℕ) (op : PubOp) (dev : ℕ) (target : List (ℕ × ℕ)) (shadow : List (ℕ × ℕ))
    (h : Memory.wf s.mem = true) : OptSndWf (State.askOwner s id op dev target shadow) := by
  unfold State.askOwner
  with_reducible repeat' first
    | assumption | apply State.sendRemote_memWf | exact OptSndWf.none | split | apply OptSndWf.some | apply OptSndWf.map
    | dsimp only | intro _

theorem State.openPair_memWf (s : State) (who : ℕ) (x : PairAt) (h : Memory.wf s.mem = true) :
    OptSndWf (State.openPair s who x) := by
  unfold State.openPair
  with_reducible repeat' first
    | assumption | apply State.modPart_memWf | exact OptSndWf.none | split | apply OptSndWf.some

theorem State.pairOpened_memWf (s : State) (id : ℕ) (op : PubOp) (code : ℕ) (h : Memory.wf s.mem = true) :
    Memory.wf (State.pairOpened s id op code).mem = true := by
  unfold State.pairOpened
  with_reducible repeat' first
    | assumption | apply State.endPub_memWf | split

theorem State.shdwComplete_memWf (s : State) (id : ℕ) (h : Memory.wf s.mem = true) : OptWf (State.shdwComplete s id) := by
  unfold State.shdwComplete
  with_reducible repeat' first
    | assumption | apply State.endPub_memWf | apply State.pairOpened_memWf | apply State.askOwner_memWf
    | apply State.noteOnce_memWf | apply State.openPair_memWf | exact OptWf.none | split | apply OptWf.some
    | apply OptWf.map_snd | dsimp only | intro _

theorem State.writeNode_memWf (s : State) (addr key v : ℕ) (h : Memory.wf s.mem = true) :
    Memory.wf (State.writeNode s addr key v).mem = true := by
  unfold State.writeNode
  with_reducible repeat' first
    | assumption | apply State.writeSector_memWf

theorem State.exchange_memWf (s : State) (p : Partition) (ta sa : ℕ) (h : Memory.wf s.mem = true) :
    Memory.wf (State.exchange s p ta sa).mem = true := by
  unfold State.exchange
  with_reducible repeat' first
    | assumption | apply State.writeNode_memWf | split | dsimp only

theorem State.dropRanges_memWf (s : State) (l : List (ℕ × ℕ)) (h : Memory.wf s.mem = true) :
    Memory.wf (State.dropRanges s l).mem = true := by
  unfold State.dropRanges
  with_reducible repeat' first
    | assumption | apply State.dropSector_memWf | apply foldl_memWf | intro _

theorem State.invalRanges_memWf (s : State) (pi : ℕ) (l : List (ℕ × ℕ)) (h : Memory.wf s.mem = true) :
    Memory.wf (State.invalRanges s pi l).mem = true :=
  State.dropRanges_memWf _ _ h

theorem State.publishAt_memWf (s : State) (who : ℕ) (x : PairAt) (limit : ℕ) (h : Memory.wf s.mem = true) :
    (State.publishAt s who x limit).MemWf := by
  unfold State.publishAt
  with_reducible repeat' first
    | assumption | apply State.invalRanges_memWf | apply State.exchange_memWf | apply State.modPart_memWf
    | apply Published.memWf_done | apply Published.memWf_park | apply Published.memWf_away | split | apply foldl_memWf
    | intro _

theorem State.publish_memWf (s : State) (ctx : ℕ) (h : Handle) (hs : Memory.wf s.mem = true) : (State.publish s ctx h).MemWf := by
  unfold State.publish
  with_reducible repeat' first
    | assumption | apply State.publishAt_memWf | apply Published.memWf_done | apply Published.memWf_park
    | apply Published.memWf_away | split

theorem State.dropPair_memWf (s : State) (ctx : ℕ) (h : Handle) (hs : Memory.wf s.mem = true) :
    Memory.wf (State.dropPair s ctx h).mem = true := by
  unfold State.dropPair
  with_reducible repeat' first
    | assumption | apply State.invalRanges_memWf | split

theorem State.publExchange_memWf (s : State) (id : ℕ) (h : Memory.wf s.mem = true) : OptWf (State.publExchange s id) := by
  unfold State.publExchange
  with_reducible repeat' first
    | assumption | apply State.endPub_memWf | apply State.dropPair_memWf | apply State.publish_memWf
    | apply State.askOwner_memWf | apply State.noteOnce_memWf | exact OptWf.none | split | apply OptWf.some
    | apply OptWf.map_snd | dsimp only | intro _ | refine Published.MemWf.done ?_ (by assumption)

theorem State.inboundPair_memWf (s : State) (i : ℕ) (publ : Bool) (h : Memory.wf s.mem = true) :
    OptTrdWf (State.inboundPair s i publ) := by
  unfold State.inboundPair
  with_reducible repeat' first
    | assumption | exact OptTrdWf.none | split | apply OptTrdWf.some

theorem State.answerPair_memWf (s : State) (q : Inbound) (code : ℕ) (h : Memory.wf s.mem = true) :
    Memory.wf (State.answerPair s q code).mem = true :=
  State.answer_memWf _ _ _ h

theorem State.inboundShdw_memWf (s : State) (i : ℕ) (h : Memory.wf s.mem = true) : OptWf (State.inboundShdw s i) := by
  unfold State.inboundShdw
  refine OptWf.bind_trd (State.inboundPair_memWf _ _ _ h) (fun q x t ht => ?_)
  dsimp only
  with_reducible repeat' first
    | assumption | apply State.answerPair_memWf | apply State.openPair_memWf | split | apply OptWf.map_snd | dsimp only
    | intro _

theorem State.inboundPubl_memWf (s : State) (i : ℕ) (h : Memory.wf s.mem = true) : OptWf (State.inboundPubl s i) := by
  unfold State.inboundPubl
  refine OptWf.bind_trd (State.inboundPair_memWf _ _ _ h) (fun q x t ht => ?_)
  dsimp only
  with_reducible repeat' first
    | assumption | apply State.publishAt_memWf | apply State.answerPair_memWf | apply State.notice_memWf
    | apply State.noteFault_memWf | exact OptWf.none | split | apply OptWf.some
    | refine Published.MemWf.done ?_ (by assumption)

theorem msgOp_memWf : Keeps MemKept (msgOp) := by
  unfold msgOp
  with_reducible repeat' first
    | assumption | exact Keeps.unit memKept_local.toFrames | exact Keeps.ops memKept_local.toFrames
    | exact Keeps.trapIf memKept_local.toFrames _ _ _ | exact Keeps.waitUnless memKept_local.toFrames _ _ | apply onceOp_memWf
    | apply oneAccess_memWf | apply release_memWf | apply here_memWf | apply doOwnN_memWf | apply awaitReplies_memWf
    | apply myGrid_memWf | apply landD_memWf | apply freshId_memWf | apply get_keepsWf | apply modify_keepsWf
    | apply bind_keepsWf | split | dsimp only | intro _

theorem State.endMsg_memWf (s : State) (id : ℕ) (m : Msg) (code : ℕ) (h : Memory.wf s.mem = true) :
    Memory.wf (State.endMsg s id m code).mem = true :=
  State.reply_memWf _ _ _ _ _ h

theorem State.putWords_memWf (s : State) (k : ℕ) (m : Msg) (h : Memory.wf s.mem = true) :
    Memory.wf (State.putWords s k m).mem = true := by
  unfold State.putWords
  with_reducible repeat' first
    | assumption | apply State.writeStore_memWf | apply foldl_memWf | intro _

theorem State.msgArrival_memWf (s : State) (id : ℕ) (h : Memory.wf s.mem = true) : OptWf (State.msgArrival s id) := by
  unfold State.msgArrival
  with_reducible repeat' first
    | assumption | apply State.endMsg_memWf | exact OptWf.none | split | apply OptWf.some | dsimp only

theorem State.msgDeliver_memWf (s : State) (id : ℕ) (h : Memory.wf s.mem = true) : OptWf (State.msgDeliver s id) := by
  unfold State.msgDeliver
  with_reducible repeat' first
    | assumption | apply State.putWords_memWf | apply State.writeStore_memWf | apply State.endMsg_memWf | exact OptWf.none
    | split | apply OptWf.some | dsimp only

theorem State.probeMsg_memWf (s : State) (id : ℕ) (h : Memory.wf s.mem = true) : OptWf (State.probeMsg s id) := by
  unfold State.probeMsg
  with_reducible repeat' first
    | assumption | exact OptWf.none | split | apply OptWf.some

theorem State.escape_memWf (s : State) (ids : List ℕ) (h : Memory.wf s.mem = true) : OptWf (State.escape s ids) := by
  unfold State.escape
  with_reducible repeat' first
    | assumption | exact OptWf.none | split | apply OptWf.some | apply foldl_memWf | dsimp only | intro _

theorem nredOp_memWf : Keeps MemKept (nredOp) := by
  unfold nredOp
  with_reducible repeat' first
    | assumption | exact Keeps.unit memKept_local.toFrames | exact Keeps.ops memKept_local.toFrames | apply onceOp_memWf
    | apply oneAccess_memWf | apply writeStatus_memWf | apply release_memWf | apply here_memWf | apply doOwn_memWf
    | apply awaitReplies_memWf | apply landD_memWf | apply freshId_memWf | apply myGrid_memWf | apply get_keepsWf
    | apply modify_keepsWf | apply bind_keepsWf | split | dsimp only | intro _

theorem State.endNred_memWf (s : State) (id : ℕ) (q : NredOp) (code : ℕ) (h : Memory.wf s.mem = true) :
    Memory.wf (State.endNred s id q code).mem = true :=
  State.reply_memWf _ _ _ _ _ (State.seenBy_memWf _ _ h)

theorem State.nredContribute_memWf (s : State) (id : ℕ) (h : Memory.wf s.mem = true) : OptWf (State.nredContribute s id) := by
  unfold State.nredContribute
  with_reducible repeat' first
    | assumption | apply State.endNred_memWf | apply State.writeStore_memWf | exact OptWf.none | split | apply OptWf.some
    | apply foldl_memWf | dsimp only | intro _

/-! ### Sync -/

theorem fenceOp_memWf : Keeps MemKept (fenceOp) := by
  unfold fenceOp
  with_reducible repeat' first
    | exact pure_keepsWf _ | exact Keeps.unit memKept_local.toFrames | exact Keeps.ops memKept_local.toFrames
    | exact Keeps.waitUnless memKept_local.toFrames _ _ | exact Keeps.takeDeferred memKept_local.toFrames _ | apply insn_memWf
    | apply renewL1_memWf | apply get_keepsWf | apply bind_keepsWf | split | dsimp only | intro _

theorem barOp_memWf (i : Instr) (waits : Bool) : Keeps MemKept (barOp i waits) := by
  unfold barOp
  with_reducible repeat' first
    | exact pure_keepsWf _ | exact Keeps.unit memKept_local.toFrames | exact Keeps.team memKept_local.toFrames
    | exact Keeps.waitUnless memKept_local.toFrames _ _ | exact Keeps.fetch memKept_local _ _ | apply insn_memWf
    | apply release_memWf | apply State.modTeam_memWf | apply stay_memWf | apply get_keepsWf | apply modify_keepsWf
    | apply bind_keepsWf | split | dsimp only | intro _

theorem State.barrierComplete_memWf (s : State) (tm n : ℕ) (h : Memory.wf s.mem = true) :
    OptWf (State.barrierComplete s tm n) := by
  unfold State.barrierComplete
  with_reducible repeat' first
    | assumption | apply State.finishEx_memWf | apply State.modTeam_memWf | exact OptWf.none | split | apply OptWf.some
    | apply foldl_memWf | intro _

theorem wideBarOp_memWf (i : Instr) (w : Wait) (arrive : ℕ → Team → Team) : Keeps MemKept (wideBarOp i w arrive) := by
  unfold wideBarOp
  with_reducible repeat' first
    | exact pure_keepsWf _ | exact Keeps.unit memKept_local.toFrames | apply insn_memWf | apply release_memWf
    | apply State.modTeam_memWf | apply stay_memWf | apply modify_keepsWf | apply bind_keepsWf | split | intro _

theorem State.cohortRelease_memWf (s : State) (gid cohort : ℕ) (h : Memory.wf s.mem = true) :
    OptWf (State.cohortRelease s gid cohort) := by
  unfold State.cohortRelease
  with_reducible repeat' first
    | assumption | apply State.finishEx_memWf | apply State.modTeam_memWf | exact OptWf.none | split | apply OptWf.some
    | apply foldl_memWf | dsimp only | intro _

theorem State.gridRelease_memWf (s : State) (gid : ℕ) (h : Memory.wf s.mem = true) : OptWf (State.gridRelease s gid) := by
  unfold State.gridRelease
  with_reducible repeat' first
    | assumption | apply State.finishEx_memWf | apply State.modTeam_memWf | exact OptWf.none | split | apply OptWf.some
    | apply foldl_memWf | dsimp only | intro _

theorem semIndex_memWf (v : Opnds) (data : Bool) : Keeps MemKept (semIndex v data) := by
  unfold semIndex
  with_reducible repeat' first
    | exact Keeps.throw _ | exact Keeps.stopTrap _ | exact pure_keepsWf _ | exact Keeps.ops memKept_local.toFrames
    | exact Keeps.orTrap memKept_local.toFrames _ | apply onceLane_memWf | apply spots_memWf | apply bind_keepsWf | split
    | intro _

theorem State.setSem_memWf (s : State) (ctx i : ℕ) (v : W64) (h : Memory.wf s.mem = true) :
    Memory.wf (State.setSem s ctx i v).mem = true :=
  h

theorem semSetOp_memWf (i : Instr) (f : W64 → W64 → W64) : Keeps MemKept (semSetOp i f) := by
  unfold semSetOp
  with_reducible repeat' first
    | exact Keeps.unit memKept_local.toFrames | exact Keeps.lanes memKept_local.toFrames | exact Keeps.fetch memKept_local _ _
    | apply insn_memWf | apply semIndex_memWf | apply release_memWf | apply State.setSem_memWf | apply modify_keepsWf
    | apply bind_keepsWf | dsimp only | intro _

theorem semwkOp_memWf : Keeps MemKept (semwkOp) := by
  unfold semwkOp
  with_reducible repeat' first
    | exact Keeps.unit memKept_local.toFrames | exact Keeps.ops memKept_local.toFrames
    | exact Keeps.lanes memKept_local.toFrames | exact Keeps.waitUnless memKept_local.toFrames _ _
    | exact Keeps.fetch memKept_local _ _ | exact Keeps.writeD memKept_local _ _ | apply insn_memWf | apply condPoison_memWf
    | apply semIndex_memWf | apply acquire_memWf | apply get_keepsWf | apply bind_keepsWf | dsimp only | intro _

theorem State.wake_memWf (s : State) (u : Agent) (h : Memory.wf s.mem = true) : Memory.wf (State.wake s u).mem = true :=
  State.modCtl_memWf _ _ _ h

theorem State.semSatisfied_memWf (s : State) (u : Agent) (h : Memory.wf s.mem = true) : OptWf (State.semSatisfied s u) := by
  unfold State.semSatisfied
  with_reducible repeat' first
    | assumption | apply State.wake_memWf | exact OptWf.none | split | apply OptWf.some

/-! ### Mma -/

theorem State.tileWritten_memWf (s : State) (core lo hi : ℕ) (h : Memory.wf s.mem = true) :
    Memory.wf (State.tileWritten s core lo hi).mem = true :=
  h

/-! ### Matrix -/

theorem own_memWf : Keeps MemKept (own) := by
  unfold own
  with_reducible repeat' first
    | exact pure_keepsWf _ | exact Keeps.unit memKept_local.toFrames | exact Keeps.core memKept_local.toFrames
    | apply ownEngine_memWf | apply bind_keepsWf | split | dsimp only | intro _

theorem macqOp_memWf : Keeps MemKept (macqOp) := by
  unfold macqOp
  with_reducible repeat' first
    | exact pure_keepsWf _ | exact Keeps.unit memKept_local.toFrames | exact Keeps.core memKept_local.toFrames
    | apply insn_memWf | apply State.modCore_memWf | apply stay_memWf | apply get_keepsWf | apply modify_keepsWf
    | apply bind_keepsWf | split | dsimp only | intro _

theorem mrelOp_memWf : Keeps MemKept (mrelOp) := by
  unfold mrelOp
  with_reducible repeat' first
    | exact Keeps.unit memKept_local.toFrames | exact Keeps.team memKept_local.toFrames
    | exact Keeps.trapIf memKept_local.toFrames _ _ _ | exact Keeps.waitUnless memKept_local.toFrames _ _ | apply insn_memWf
    | apply own_memWf | apply State.modCore_memWf | apply get_keepsWf | apply modify_keepsWf | apply bind_keepsWf | split
    | dsimp only | intro _

theorem gangOp_memWf : Keeps MemKept (gangOp) := by
  unfold gangOp
  with_reducible repeat' first
    | exact Keeps.trap _ _ | exact Keeps.unit memKept_local.toFrames | exact Keeps.team memKept_local.toFrames
    | exact Keeps.trapIf memKept_local.toFrames _ _ _ | exact Keeps.fetch memKept_local _ _ | apply insn_memWf
    | apply own_memWf | apply State.modTeam_memWf | apply modify_keepsWf | apply bind_keepsWf | split | intro _

theorem State.clearEngine_memWf (s : State) (c : ℕ) (h : Memory.wf s.mem = true) : Memory.wf (State.clearEngine s c).mem = true :=
  State.modCore_memWf _ _ _ (State.dropBytes_memWf _ _ _ (State.dropBytes_memWf _ _ _ (State.dropBytes_memWf _ _ _ h)))

theorem State.copyStore_memWf (s : State) (src dst n : ℕ) (h : Memory.wf s.mem = true) :
    Memory.wf (State.copyStore s src dst n).mem = true := by
  unfold State.copyStore
  with_reducible repeat' first
    | assumption | apply State.writeStore_memWf | apply foldl_memWf | dsimp only | intro _

theorem State.copyEngine_memWf (s : State) (src dst : ℕ) (h : Memory.wf s.mem = true) :
    Memory.wf (State.copyEngine s src dst).mem = true :=
  State.copyStore_memWf _ _ _ _ (State.copyStore_memWf _ _ _ _ (State.copyStore_memWf _ _ _ _ h))

theorem State.reloadEngine_memWf (s : State) (tm c half : ℕ) (h : Memory.wf s.mem = true) :
    Memory.wf (State.reloadEngine s tm c half).mem = true :=
  State.modTeam_memWf _ _ _ (State.modCore_memWf _ _ _ (State.modCore_memWf _ _ _ (State.copyEngine_memWf _ _ _ h)))

theorem State.engineGrant_memWf (s : State) (c : ℕ) (h : Memory.wf s.mem = true) : OptWf (State.engineGrant s c) := by
  unfold State.engineGrant
  with_reducible repeat' first
    | assumption | apply State.modCore_memWf | apply State.clearEngine_memWf | apply State.reloadEngine_memWf
    | apply State.finishEx_memWf | exact OptWf.none | split | apply OptWf.some | apply foldl_memWf | dsimp only | intro _

theorem enqueue_memWf (c tm : ℕ) (op : ℕ → MatOp) : Keeps MemKept (enqueue c tm op) := by
  unfold enqueue
  with_reducible repeat' first
    | exact Keeps.waitUnless memKept_local.toFrames _ _ | apply freshId_memWf | apply State.modCore_memWf | apply get_keepsWf
    | apply modify_keepsWf | apply bind_keepsWf | intro _

theorem mcfgOp_memWf : Keeps MemKept (mcfgOp) := by
  unfold mcfgOp
  with_reducible repeat' first
    | exact pure_keepsWf _ | exact Keeps.unit memKept_local.toFrames | exact Keeps.ops memKept_local.toFrames
    | exact Keeps.trapIf memKept_local.toFrames _ _ _ | exact Keeps.fetch memKept_local _ _ | apply insn_memWf
    | apply own_memWf | apply enqueue_memWf | apply bind_keepsWf | split | dsimp only | intro _

theorem mzeroOp_memWf : Keeps MemKept (mzeroOp) := by
  unfold mzeroOp
  with_reducible repeat' first
    | exact pure_keepsWf _ | exact Keeps.unit memKept_local.toFrames | exact Keeps.ops memKept_local.toFrames
    | exact Keeps.trapIf memKept_local.toFrames _ _ _ | exact Keeps.fetch memKept_local _ _ | apply insn_memWf
    | apply own_memWf | apply enqueue_memWf | apply bind_keepsWf | split | dsimp only | intro _

theorem State.zeroStore_memWf (s : State) (key n : ℕ) (h : Memory.wf s.mem = true) :
    Memory.wf (State.zeroStore s key n).mem = true := by
  unfold State.zeroStore
  with_reducible repeat' first
    | assumption | apply State.writeStore_memWf

theorem State.matrixQueueOp_memWf (s : State) (c : ℕ) (h : Memory.wf s.mem = true) : OptWf (State.matrixQueueOp s c) := by
  unfold State.matrixQueueOp
  with_reducible repeat' first
    | assumption | apply State.modCore_memWf | apply State.zeroStore_memWf | exact OptWf.none | split | apply OptWf.some
    | dsimp only

theorem mwaitOp_memWf : Keeps MemKept (mwaitOp) := by
  unfold mwaitOp
  with_reducible repeat' first
    | apply insn_memWf | apply own_memWf | apply awaitQueue_memWf | apply bind_keepsWf

theorem accWord_memWf (c off : ℕ) : Keeps MemKept (accWord c off) :=
  bind_keepsWf (Keeps.trapIf memKept_local.toFrames _ _ _) (fun _ => bind_keepsWf (Keeps.trapIf memKept_local.toFrames _ _ _)
    (fun _ => bind_keepsWf (awaitQueue_memWf _) (fun _ => pure_keepsWf _)))

theorem mrdOp_memWf : Keeps MemKept (mrdOp) := by
  unfold mrdOp
  with_reducible repeat' first
    | exact Keeps.unit memKept_local.toFrames | exact Keeps.ops memKept_local.toFrames
    | exact Keeps.trapIf memKept_local.toFrames _ _ _ | exact Keeps.fetch memKept_local _ _
    | exact Keeps.writeD memKept_local _ _ | exact raise_memWf _ | apply insn_memWf | apply own_memWf | apply accWord_memWf
    | apply here_memWf | apply doOwn_memWf | apply get_keepsWf | apply bind_keepsWf | split | dsimp only | intro _

theorem mwrOp_memWf : Keeps MemKept (mwrOp) := by
  unfold mwrOp
  with_reducible repeat' first
    | exact Keeps.unit memKept_local.toFrames | exact Keeps.ops memKept_local.toFrames
    | exact Keeps.trapIf memKept_local.toFrames _ _ _ | exact Keeps.fetch memKept_local _ _ | exact raise_memWf _
    | apply insn_memWf | apply own_memWf | apply accWord_memWf | apply State.drainAll_memWf | apply here_memWf
    | apply awaitOrder_memWf | apply State.atCore_memWf | apply get_keepsWf | apply modify_keepsWf | apply bind_keepsWf
    | split | dsimp only | intro _

theorem xferHandle_memWf (i : ℕ) (h : Handle) : Keeps MemKept (xferHandle i h) := by
  unfold xferHandle
  with_reducible repeat' first
    | exact Keeps.stopTrap _ | exact pure_keepsWf _ | exact Keeps.unit memKept_local.toFrames
    | exact Keeps.ops memKept_local.toFrames | apply bind_keepsWf | split | dsimp only | intro _

theorem landPort_memWf : Keeps MemKept (landPort) := by
  unfold landPort
  with_reducible repeat' first
    | exact Keeps.stopTrap _ | exact pure_keepsWf _ | exact Keeps.unit memKept_local.toFrames
    | exact Keeps.ops memKept_local.toFrames | apply pushRoom_memWf | apply landD_memWf | apply get_keepsWf
    | apply bind_keepsWf | split | intro _

theorem xferOp_memWf (i : Instr) : Keeps MemKept (xferOp i) := by
  unfold xferOp
  with_reducible repeat' first
    | exact Keeps.stopTrap _ | exact Keeps.trap _ _ | exact pure_keepsWf _ | exact Keeps.unit memKept_local.toFrames
    | exact Keeps.ops memKept_local.toFrames | exact Keeps.trapIf memKept_local.toFrames _ _ _
    | exact Keeps.fetch memKept_local _ _ | apply insn_memWf | apply own_memWf | apply xferHandle_memWf | apply landPort_memWf
    | apply enqueue_memWf | apply stay_memWf | apply get_keepsWf | apply bind_keepsWf | split | dsimp only | intro _

theorem State.rowPieces_memWf (s0 : State) (id : ℕ) (u : Agent) (hidx : ℕ) (h : Handle) (off : ℕ) (write : Bool) (data : ℕ)
    (bad : List (ℕ × ℕ)) (a : List (ℕ × ℕ)) (x10 : State) (x11 : ℕ) (x12 : List (ℕ × ℕ)) (ws0 : Memory.wf s0.mem = true)
        (wx10 : Memory.wf x10.mem = true) : (State.rowPieces s0 id u hidx h off write data bad a x10 x11 x12).MemWf := by
  induction a generalizing x10 x11 x12 with
  | nil => exact wx10
  | cons l r ih =>
    rw [State.rowPieces]
    with_reducible repeat' first
      | assumption | apply ih | apply State.engAccess_memWf | apply State.engSend_memWf | apply State.noteOnce_memWf
      | apply RowRes.memWf_wait | apply RowRes.memWf_fail | split | dsimp only | refine EngRes.MemWf.ok ?_ (by assumption)

theorem State.rowAccess_memWf (s : State) (id : ℕ) (u : Agent) (hidx : ℕ) (h : Handle) (off n : ℕ) (write : Bool) (data : ℕ)
    (bad : List (ℕ × ℕ)) (hs : Memory.wf s.mem = true) : (State.rowAccess s id u hidx h off n write data bad).MemWf :=
  State.rowPieces_memWf _ _ _ _ _ _ _ _ _ _ _ _ _ hs hs

theorem State.engineRow_memWf (s : State) (x : Xfer) (c e data : ℕ) (p : List (ℕ × ℕ)) (h : Memory.wf s.mem = true) :
    Memory.wf (State.engineRow s x c e data p).1.mem = true := by
  unfold State.engineRow
  with_reducible repeat' first
    | assumption | apply State.writeStore_memWf | split | apply foldl_memWf | apply foldlFst_memWf | dsimp only | intro _

theorem State.modHead_memWf (s : State) (c : ℕ) (f : MatOp → MatOp) (h : Memory.wf s.mem = true) :
    Memory.wf (State.modHead s c f).mem = true :=
  h

theorem State.endXfer_memWf (s : State) (c : ℕ) (op : MatOp) (x : Xfer) (h : Memory.wf s.mem = true) :
    Memory.wf (State.endXfer s c op x).mem = true := by
  unfold State.endXfer
  with_reducible repeat' first
    | assumption | apply State.zeroStore_memWf | apply State.tileWritten_memWf | apply State.modCore_memWf
    | apply State.modTeam_memWf | apply State.landWord_memWf | split

theorem State.xferRows_memWf (s : State) (c a : ℕ) (h : Memory.wf s.mem = true) :
    Memory.wf (State.xferRows s c a).mem = true := by
  induction a generalizing s with
  | zero => exact h
  | succ k ih =>
    rw [State.xferRows]
    with_reducible repeat' first
      | assumption | apply ih | apply State.endXfer_memWf | apply State.modHead_memWf | apply State.rowAccess_memWf
      | apply State.tileWritten_memWf | apply State.engineRow_memWf | split | dsimp only
      | refine RowRes.MemWf.ok ?_ (by assumption) | refine RowRes.MemWf.wait ?_ (by assumption)

theorem State.matrixTransfer_memWf (s : State) (c id : ℕ) (rows : Option ℕ) (h : Memory.wf s.mem = true) :
    OptWf (State.matrixTransfer s c id rows) := by
  unfold State.matrixTransfer
  with_reducible repeat' first
    | assumption | apply State.xferRows_memWf | exact OptWf.none | split | apply OptWf.some

theorem mmaOp_memWf : Keeps MemKept (mmaOp) := by
  unfold mmaOp
  with_reducible repeat' first
    | exact Keeps.stopTrap _ | exact Keeps.wait _ | exact pure_keepsWf _ | exact Keeps.unit memKept_local.toFrames
    | exact Keeps.team memKept_local.toFrames | exact Keeps.ops memKept_local.toFrames
    | exact Keeps.trapIf memKept_local.toFrames _ _ _ | exact Keeps.checkPorts memKept_local.toFrames _ | apply insn_memWf
    | apply own_memWf | apply here_memWf | apply State.modTeam_memWf | apply stay_memWf | apply get_keepsWf
    | apply modify_keepsWf | apply bind_keepsWf | split | dsimp only | intro _

theorem mmaRead_memWf : Keeps MemKept (mmaRead) := by
  unfold mmaRead
  with_reducible repeat' first
    | exact pure_keepsWf _ | exact Keeps.ops memKept_local.toFrames | exact Keeps.readField1 memKept_local.toFrames _ _ _ _
    | exact Keeps.popAll memKept_local _ | exact Keeps.awaitRows memKept_local.toFrames _
    | exact Keeps.awaitRegs memKept_local.toFrames _ | apply bind_keepsWf | split | dsimp only | intro _

theorem State.trapAtLatch_memWf (s : State) (tm tid : ℕ) (i : Insn) (t : TrapInfo) (h : Memory.wf s.mem = true) :
    Memory.wf (State.trapAtLatch s tm tid i t).mem = true :=
  State.modTeam_memWf _ _ _ (State.takeTrap_memWf _ _ _ _ h)

theorem State.latchRelease_memWf (s : State) (tm : ℕ) (h : Memory.wf s.mem = true) : OptWf (State.latchRelease s tm) := by
  unfold State.latchRelease
  with_reducible repeat' first
    | assumption | apply State.asUnit_memWf | apply mmaRead_memWf | apply State.trapAtLatch_memWf | apply State.modTeam_memWf
    | apply State.modCore_memWf | exact OptWf.none | split | apply OptWf.some | dsimp only
    | refine ExceptSndWf.elim ?_ (by assumption)

theorem State.tileRows_memWf (s0 : State) (op : MatOp) (hidx : ℕ) (h : Handle) (chunk n a : ℕ) (x7 : State)
    (ws0 : Memory.wf s0.mem = true) (wx7 : Memory.wf x7.mem = true) : (State.tileRows s0 op hidx h chunk n a x7).SndWf := by
  induction a generalizing x7 with
  | zero => exact wx7
  | succ k ih =>
    rw [State.tileRows]
    with_reducible repeat' first
      | assumption | apply ih | apply State.rowPieces_memWf | apply Gather.sndWf_ok | apply Gather.sndWf_wait
      | apply Gather.sndWf_trap | split | dsimp only | refine RowRes.MemWf.ok ?_ (by assumption)
      | refine RowRes.MemWf.wait ?_ (by assumption) | refine Gather.SndWf.wait ?_ (by assumption)
      | refine Gather.SndWf.ok ?_ (by assumption)

theorem State.peerRows_memWf (s : State) (op : MatOp) (hidx : ℕ) (h : Handle) (chunk n : ℕ) (hs : Memory.wf s.mem = true) :
    Memory.wf (State.peerRows s op hidx h chunk n).1.mem = true := by
  unfold State.peerRows
  with_reducible repeat' first
    | assumption | apply State.engSend_memWf | split | apply foldlFst_memWf | dsimp only | intro _

theorem State.gatherB_memWf (s : State) (op : MatOp) (h : Memory.wf s.mem = true) : (State.gatherB s op).SndWf := by
  unfold State.gatherB
  with_reducible repeat' first
    | assumption | apply State.peerRows_memWf | apply State.tileRows_memWf | apply Gather.sndWf_ok | apply Gather.sndWf_wait
    | split | dsimp only

theorem State.commitChunk_memWf (s : State) (c : ℕ) (op : MatOp) (x : ChunkIn) (len lines : ℕ) (bad : Bool)
    (h : Memory.wf s.mem = true) : Memory.wf (State.commitChunk s c op x len lines bad).mem = true := by
  unfold State.commitChunk
  with_reducible repeat' first
    | assumption | apply State.writeStore_memWf | apply State.modHead_memWf | apply State.modEx_memWf
    | apply State.modCtl_memWf | apply State.retire_memWf | apply State.modPort_memWf | split | apply foldl_memWf
    | apply foldlFst_memWf | dsimp only | intro _

theorem State.dropFetches_memWf (s : State) (ops : List MatOp) (h : Memory.wf s.mem = true) :
    Memory.wf (State.dropFetches s ops).mem = true :=
  h

theorem State.suspend_memWf (s : State) (tm tid : ℕ) (op : MatOp) (t : TrapInfo) (h : Memory.wf s.mem = true) :
    Memory.wf (State.suspend s tm tid op t).mem = true :=
  State.trapAtLatch_memWf _ _ _ _ _ (State.dropFetches_memWf _ _ h)

theorem State.mmaChunk_memWf (s : State) (c : ℕ) (h : Memory.wf s.mem = true) : OptWf (State.mmaChunk s c) := by
  unfold State.mmaChunk
  with_reducible repeat' first
    | assumption | apply State.suspend_memWf | apply State.modHead_memWf | apply State.gatherB_memWf
    | apply State.commitChunk_memWf | exact OptWf.none | split | apply OptWf.some | dsimp only
    | refine Gather.SndWf.wait ?_ (by assumption) | refine Gather.SndWf.ok ?_ (by assumption)

theorem State.retireMma_memWf (s : State) (tm tid : ℕ) (i : Insn) (h : Memory.wf s.mem = true) :
    Memory.wf (State.retireMma s tm tid i).mem = true := by
  unfold State.retireMma
  with_reducible repeat' first
    | assumption | apply State.asUnit_memWf | apply State.finishEx_memWf | split | refine ExceptSndWf.elim ?_ (by assumption)
    | exact Keeps.dropMarks memKept_local _ _

theorem State.trapMma_memWf (s : State) (tm tid : ℕ) (i : Insn) (t : TrapInfo) (h : Memory.wf s.mem = true) :
    Memory.wf (State.trapMma s tm tid i t).mem = true := by
  unfold State.trapMma
  with_reducible repeat' first
    | assumption | apply State.asUnit_memWf | apply State.takeTrap_memWf | split | refine ExceptSndWf.elim ?_ (by assumption)
    | exact Keeps.dropMarks memKept_local _ _

theorem State.mmaComplete_memWf (s : State) (c : ℕ) (h : Memory.wf s.mem = true) : OptWf (State.mmaComplete s c) := by
  unfold State.mmaComplete
  with_reducible repeat' first
    | assumption | apply State.modCore_memWf | apply State.modTeam_memWf | apply State.trapMma_memWf
    | apply State.retireMma_memWf | exact OptWf.none | split | apply OptWf.some | apply foldl_memWf | dsimp only | intro _

theorem State.abandon_memWf (s : State) (tm : ℕ) (h : Memory.wf s.mem = true) : Memory.wf (State.abandon s tm).mem = true := by
  unfold State.abandon
  with_reducible repeat' first
    | assumption | apply State.modTeam_memWf | apply State.takeTrap_memWf | split | apply foldl_memWf | intro _

/-! ### Ladle -/

theorem State.recPut_memWf (s : State) (id : ℕ) (p : Plan) (off n : ℕ) (kind : ReqKind) (h : Memory.wf s.mem = true) :
    (State.recPut s id p off n kind).MemWf := by
  unfold State.recPut
  with_reducible repeat' first
    | assumption | apply State.engAccess_memWf | apply State.noteOnce_memWf | apply RecRes.memWf_ok | apply RecRes.memWf_wait
    | split | refine EngRes.MemWf.ok ?_ (by assumption)

theorem State.recPuts_memWf (s0 : State) (id : ℕ) (p : Plan) (a : List (ℕ × ℕ × ReqKind)) (x4 : State)
    (ws0 : Memory.wf s0.mem = true) (wx4 : Memory.wf x4.mem = true) : (State.recPuts s0 id p a x4).MemWf := by
  induction a generalizing x4 with
  | nil => exact wx4
  | cons l r ih =>
    rw [State.recPuts]
    with_reducible repeat' first
      | assumption | apply ih | apply State.recPut_memWf | apply RecRes.memWf_wait | split
      | refine RecRes.MemWf.ok ?_ (by assumption) | refine RecRes.MemWf.wait ?_ (by assumption)

theorem State.modPlan_memWf (s : State) (id : ℕ) (f : Plan → Plan) (h : Memory.wf s.mem = true) :
    Memory.wf (State.modPlan s id f).mem = true :=
  h

theorem State.freeInbox_memWf (s : State) (p : Plan) (h : Memory.wf s.mem = true) :
    Memory.wf (State.freeInbox s p).mem = true := by
  unfold State.freeInbox
  with_reducible repeat' first
    | assumption | apply State.sendBack_memWf | apply foldl_memWf | intro _

theorem State.planEnd_memWf (s : State) (id : ℕ) (p : Plan) (state : ℕ) (fcode : Option ℕ) (code : ℕ)
    (h : Memory.wf s.mem = true) : Memory.wf (State.planEnd s id p state fcode code).mem = true := by
  unfold State.planEnd
  with_reducible repeat' first
    | assumption | apply State.freeInbox_memWf | apply State.recPuts_memWf | apply State.modPlan_memWf
    | apply State.modCtx_memWf | apply State.reply_memWf | split | dsimp only | refine RecRes.MemWf.ok ?_ (by assumption)
    | refine RecRes.MemWf.wait ?_ (by assumption)

theorem State.planFail_memWf (s : State) (id : ℕ) (p : Plan) (code : ℕ) (h : Memory.wf s.mem = true) :
    Memory.wf (State.planFail s id p code).mem = true :=
  State.planEnd_memWf _ _ _ _ _ _ h

theorem State.ladleSend_memWf (s : State) (id dst cls : ℕ) (o : Outgoing) (h : Memory.wf s.mem = true) :
    OptWf (State.ladleSend s id dst cls o) := by
  unfold State.ladleSend
  with_reducible repeat' first
    | assumption | apply State.sendLink_memWf | exact OptWf.none | split | apply OptWf.some

theorem State.chunkRead_memWf (s0 : State) (id : ℕ) (p : Plan) (base e : ℕ) (a : List (ℕ × ℕ)) (x6 : ℕ) (x7 : State)
    (x8 : List Byte) (x9 : List ℕ) (ws0 : Memory.wf s0.mem = true) (wx7 : Memory.wf x7.mem = true) :
        (State.chunkRead s0 id p base e a x6 x7 x8 x9).MemWf := by
  induction a generalizing x6 x7 x8 x9 with
  | nil => exact wx7
  | cons l r ih =>
    rw [State.chunkRead]
    with_reducible repeat' first
      | assumption | apply ih | apply State.engAccess_memWf | apply State.noteOnce_memWf | apply ChunkRes.memWf_wait
      | apply ChunkRes.memWf_fail | split | refine EngRes.MemWf.ok ?_ (by assumption)

theorem State.chunkWrite_memWf (s0 : State) (id : ℕ) (p : Plan) (e : ℕ) (bad : List ℕ) (a : List (ℕ × ℕ)) (x6 : ℕ)
    (x7 : List Byte) (x8 : State) (ws0 : Memory.wf s0.mem = true) (wx8 : Memory.wf x8.mem = true) :
        (State.chunkWrite s0 id p e bad a x6 x7 x8).MemWf := by
  induction a generalizing x6 x7 x8 with
  | nil => exact wx8
  | cons l r ih =>
    rw [State.chunkWrite]
    with_reducible repeat' first
      | assumption | apply ih | apply State.engAccess_memWf | apply State.noteOnce_memWf | apply ChunkRes.memWf_wait
      | apply ChunkRes.memWf_fail | split | refine EngRes.MemWf.ok ?_ (by assumption)

theorem State.setChunk_memWf (s : State) (id : ℕ) (p : Plan) (i g : ℕ) (pois : Bool) (h : Memory.wf s.mem = true) :
    (State.setChunk s id p i g pois).MemWf := by
  unfold State.setChunk
  with_reducible repeat' first
    | assumption | apply State.recPuts_memWf | apply State.modPlan_memWf | apply RecRes.memWf_ok | apply RecRes.memWf_wait
    | split | dsimp only | refine RecRes.MemWf.ok ?_ (by assumption) | refine RecRes.MemWf.wait ?_ (by assumption)

theorem State.takeChunk_memWf (s : State) (id : ℕ) (p : Plan) (r : Region) (g : ℕ) (data : List Byte) (bad : List ℕ)
    (h : Memory.wf s.mem = true) :
    OptWf (State.takeChunk s id p r g data bad).1 ∧ Memory.wf (State.takeChunk s id p r g data bad).2.2.mem = true := by
  unfold State.takeChunk
  with_reducible repeat' first
    | assumption | refine ⟨?_, ?_⟩ | apply State.chunkWrite_memWf | apply State.setChunk_memWf | exact OptWf.none | split
    | apply OptWf.some | dsimp only | refine ChunkRes.MemWf.ok ?_ (by assumption)
    | refine ChunkRes.MemWf.wait ?_ (by assumption) | refine RecRes.MemWf.ok ?_ (by assumption)
    | refine RecRes.MemWf.wait ?_ (by assumption)

theorem State.takeChunk_some {s : State} {id p r g data bad u b v} (h : Memory.wf s.mem = true)
    (e : s.takeChunk id p r g data bad = (some u, b, v)) : Memory.wf u.mem = true := by
  have hx := (State.takeChunk_memWf s id p r g data bad h).1
  rw [e] at hx
  exact hx u rfl

theorem State.takeChunk_left {s : State} {id p r g data bad x b v} (h : Memory.wf s.mem = true)
    (e : s.takeChunk id p r g data bad = (x, b, v)) : Memory.wf v.mem = true := by
  have hx := (State.takeChunk_memWf s id p r g data bad h).2
  rw [e] at hx
  exact hx

theorem State.ladleSendChunk_memWf (s : State) (id g : ℕ) (h : Memory.wf s.mem = true) : OptWf (State.ladleSendChunk s id g) := by
  unfold State.ladleSendChunk
  with_reducible repeat' first
    | assumption | refine State.takeChunk_some ?_ (by assumption) | refine State.takeChunk_left ?_ (by assumption)
    | apply State.chunkRead_memWf | apply State.planFail_memWf | apply State.ladleSend_memWf | apply State.modPlan_memWf
    | exact OptWf.none | split | apply OptWf.some | dsimp only | refine OptWf.elim ?_ (by assumption)
    | refine ChunkRes.MemWf.ok ?_ (by assumption) | refine ChunkRes.MemWf.wait ?_ (by assumption)

theorem State.ladleChunk_memWf (s : State) (src : ℕ) (tag digest : W64) (g : ℕ) (data : List Byte) (bad : List ℕ)
    (h : Memory.wf s.mem = true) : Memory.wf (State.ladleChunk s src tag digest g data bad).mem = true := by
  unfold State.ladleChunk
  with_reducible repeat' first
    | assumption | refine State.takeChunk_some ?_ (by assumption) | refine State.takeChunk_left ?_ (by assumption)
    | apply State.sendBack_memWf | apply State.planFail_memWf | apply State.modPlan_memWf | split | dsimp only

theorem State.ladleInbox_memWf (s : State) (id g : ℕ) (h : Memory.wf s.mem = true) : OptWf (State.ladleInbox s id g) := by
  unfold State.ladleInbox
  with_reducible repeat' first
    | assumption | apply State.ladleChunk_memWf | exact OptWf.none | split | apply OptWf.map_any | intro _

theorem State.ladleAck_memWf (s : State) (id g : ℕ) (p : Plan) (r : Region) (h : Memory.wf s.mem = true) :
    Memory.wf (State.ladleAck s id g p r).mem = true := by
  unfold State.ladleAck
  with_reducible repeat' first
    | assumption | apply State.setChunk_memWf | apply State.modPlan_memWf | split | refine RecRes.MemWf.ok ?_ (by assumption)
    | refine RecRes.MemWf.wait ?_ (by assumption)

theorem State.ladleAnswer_memWf (s : State) (id g : ℕ) (a : LadleAnswer) (h : Memory.wf s.mem = true) :
    OptWf (State.ladleAnswer s id g a) := by
  unfold State.ladleAnswer
  with_reducible repeat' first
    | assumption | apply State.modPlan_memWf | apply State.planFail_memWf | apply State.ladleAck_memWf | exact OptWf.none
    | split | apply OptWf.some

theorem State.ladleKept_memWf (s : State) (id g : ℕ) (h : Memory.wf s.mem = true) : OptWf (State.ladleKept s id g) := by
  unfold State.ladleKept
  with_reducible repeat' first
    | assumption | apply State.ladleAck_memWf | exact OptWf.none | split | apply OptWf.some

theorem State.ladleLate_memWf (s : State) (id g : ℕ) (h : Memory.wf s.mem = true) : OptWf (State.ladleLate s id g) := by
  unfold State.ladleLate
  with_reducible repeat' first
    | assumption | apply State.planFail_memWf | exact OptWf.none | split | apply OptWf.some

theorem State.tellAll_memWf (s : State) (id : ℕ) (p : Plan) (o : ℕ → Outgoing) (h : Memory.wf s.mem = true) :
    OptWf (State.tellAll s id p o) := by
  unfold State.tellAll
  with_reducible repeat' first
    | assumption | apply State.ladleSend_memWf | apply OptWf.some | apply OptWf.bind' | apply OptWf.foldl | intro _

theorem State.heardDone_memWf (s : State) (id : ℕ) (p : Plan) (src : ℕ) (h : Memory.wf s.mem = true) :
    Memory.wf (State.heardDone s id p src).mem = true := by
  unfold State.heardDone
  with_reducible repeat' first
    | assumption | apply State.modPlan_memWf | apply State.ladleSend_memWf | apply State.tellAll_memWf
    | apply State.planFail_memWf | split | apply OptWf.getD | dsimp only | refine OptWf.elim ?_ (by assumption)

theorem State.ladleDone_memWf (s : State) (id : ℕ) (h : Memory.wf s.mem = true) : OptWf (State.ladleDone s id) := by
  unfold State.ladleDone
  with_reducible repeat' first
    | assumption | apply State.recPuts_memWf | apply State.modPlan_memWf | apply State.heardDone_memWf
    | apply State.ladleSend_memWf | apply State.planFail_memWf | exact OptWf.none | split | apply OptWf.some | dsimp only
    | refine OptWf.elim ?_ (by assumption) | refine RecRes.MemWf.ok ?_ (by assumption)
    | refine RecRes.MemWf.wait ?_ (by assumption)

theorem State.ladleHear_memWf (s : State) (src : ℕ) (tag : W64) (h : Memory.wf s.mem = true) :
    OptWf (State.ladleHear s src tag) := by
  unfold State.ladleHear
  with_reducible repeat' first
    | assumption | apply State.heardDone_memWf | exact OptWf.none | split | apply OptWf.some

theorem State.takeDones_memWf (s : State) (id : ℕ) (p : Plan) (h : Memory.wf s.mem = true) :
    Memory.wf (State.takeDones s id p).mem = true := by
  unfold State.takeDones
  with_reducible repeat' first
    | assumption | apply State.modPlan_memWf | split

theorem State.heardPublished_memWf (s : State) (id : ℕ) (p : Plan) (src : ℕ) (h : Memory.wf s.mem = true) :
    Memory.wf (State.heardPublished s id p src).mem = true := by
  unfold State.heardPublished
  with_reducible repeat' first
    | assumption | apply State.modPlan_memWf | apply State.tellAll_memWf | split | apply OptWf.getD | dsimp only

theorem State.ladleCommit_memWf (s : State) (id : ℕ) (h : Memory.wf s.mem = true) : OptWf (State.ladleCommit s id) := by
  unfold State.ladleCommit
  with_reducible repeat' first
    | assumption | apply State.modPlan_memWf | apply State.heardPublished_memWf | apply State.ladleSend_memWf
    | apply State.publish_memWf | apply State.planFail_memWf | apply State.noteOnce_memWf | exact OptWf.none | split
    | apply OptWf.some | apply OptWf.getD | dsimp only | refine Published.MemWf.done ?_ (by assumption)

theorem State.ladleCommitted_memWf (s : State) (tag : W64) (h : Memory.wf s.mem = true) : OptWf (State.ladleCommitted s tag) := by
  unfold State.ladleCommitted
  with_reducible repeat' first
    | assumption | apply State.ladleSend_memWf | apply State.modPlan_memWf | apply State.ladleCommit_memWf | exact OptWf.none
    | split | apply OptWf.some | apply OptWf.getD

theorem State.ladlePublished_memWf (s : State) (src : ℕ) (tag : W64) (h : Memory.wf s.mem = true) :
    OptWf (State.ladlePublished s src tag) := by
  unfold State.ladlePublished
  with_reducible repeat' first
    | assumption | apply State.heardPublished_memWf | exact OptWf.none | split | apply OptWf.some

theorem State.ladleFinish_memWf (s : State) (id : ℕ) (p : Plan) (h : Memory.wf s.mem = true) :
    OptWf (State.ladleFinish s id p) := by
  unfold State.ladleFinish
  with_reducible repeat' first
    | assumption | apply State.planEnd_memWf | exact OptWf.none | split | apply OptWf.some

theorem ladleAcc_memWf (hidx size : ℕ) (v : Opnds) (off : Lanes) (need : Need) : Keeps MemKept (ladleAcc hidx size v off need) :=
  oneAccess_memWf _ _ _

theorem loadNow_memWf (a : Acc) : Keeps MemKept (loadNow a) :=
  get_keepsWf (fun _ _ => bind_keepsWf (Keeps.unit memKept_local.toFrames) (fun _ => bind_keepsWf here_memWf
    (fun _ => bind_keepsWf (doNowN_memWf _) (fun _ => bind_keepsWf (Keeps.trapIf memKept_local.toFrames _ _ _)
        (fun _ => pure_keepsWf _)))))

theorem loadDevices_memWf (hidx va a : ℕ) : Keeps MemKept (loadDevices hidx va a) := by
  induction a generalizing va with
  | zero => exact pure_keepsWf _
  | succ k ih =>
    rw [loadDevices]
    with_reducible repeat' first
      | exact pure_keepsWf _ | exact Keeps.unit memKept_local.toFrames | exact Keeps.orTrap memKept_local.toFrames _
      | apply ih | apply loadNow_memWf | apply get_keepsWf | apply bind_keepsWf | split | intro _

theorem loadLayout_memWf (hidx x : ℕ) (dst : Bool) : Keeps MemKept (loadLayout hidx x dst) := by
  unfold loadLayout
  with_reducible repeat' first
    | exact pure_keepsWf _ | apply loadDevices_memWf | apply bind_keepsWf | split | dsimp only | intro _

theorem loadBits_memWf (hidx : ℕ) (h : Handle) (hdr a x4 : ℕ) : Keeps MemKept (loadBits hidx h hdr a x4) := by
  induction x4 generalizing a with
  | zero => exact pure_keepsWf _
  | succ k ih =>
    rw [loadBits]
    with_reducible repeat' first
      | exact pure_keepsWf _ | exact Keeps.unit memKept_local.toFrames | exact Keeps.orTrap memKept_local.toFrames _
      | apply ih | apply loadNow_memWf | apply get_keepsWf | apply bind_keepsWf | split | intro _

theorem beginRecord_memWf (id : ℕ) (p : Plan) (ws : List (ℕ × ℕ × ReqKind)) : Keeps MemKept (beginRecord id p ws) := by
  unfold beginRecord
  with_reducible repeat' first
    | assumption | exact Keeps.throw _ | exact Keeps.stopTrap _ | exact Keeps.wait _ | apply State.recPuts_memWf
    | apply get_keepsWf | apply set_keepsWf | split | intro _ | refine RecRes.MemWf.ok ?_ (by assumption)

theorem startPlan_memWf (id : ℕ) (p : Plan) : Keeps MemKept (startPlan id p) :=
  get_keepsWf (fun _ _ => bind_keepsWf (Keeps.waitUnless memKept_local.toFrames _ _) (fun _ => bind_keepsWf landD_memWf
    (fun _ => bind_keepsWf (beginRecord_memWf _ _ _) (fun _ => modify_keepsWf (fun _ h5 => State.takeDones_memWf _ _ _
        (State.modPlan_memWf _ _ _ h5))))))

theorem queuePlan_memWf (s0 : State) (id : ℕ) (p : Plan) (ws : List (ℕ × ℕ × ReqKind)) (h : Memory.wf s0.mem = true) :
    Keeps MemKept (queuePlan s0 id p ws) := by
  unfold queuePlan
  with_reducible repeat' first
    | assumption | exact Keeps.unit memKept_local.toFrames | apply State.recPuts_memWf | apply State.setWait_memWf
    | apply get_keepsWf | apply set_keepsWf | apply bind_keepsWf | split | dsimp only | intro _
    | refine RecRes.MemWf.ok ?_ (by assumption) | refine RecRes.MemWf.wait ?_ (by assumption)

theorem ladleOp_memWf (i : Instr) (resume : Bool) : Keeps MemKept (ladleOp i resume) := by
  unfold ladleOp
  with_reducible repeat' first
    | assumption | exact pure_keepsWf _ | exact Keeps.unit memKept_local.toFrames | exact Keeps.ops memKept_local.toFrames
    | exact Keeps.lanes memKept_local.toFrames | exact Keeps.trapIf memKept_local.toFrames _ _ _ | apply onceOp_memWf
    | apply startPlan_memWf | apply ladleAcc_memWf | apply loadNow_memWf | apply writeStatus_memWf | apply loadLayout_memWf
    | apply loadBits_memWf | apply awaitReplies_memWf | apply freshId_memWf | apply myGrid_memWf | apply beginRecord_memWf
    | apply queuePlan_memWf | apply get_keepsWf | apply modify_keepsWf | apply bind_keepsWf | split | dsimp only | intro _

theorem lstatOp_memWf : Keeps MemKept (lstatOp) := by
  unfold lstatOp
  with_reducible repeat' first
    | exact Keeps.unit memKept_local.toFrames | exact Keeps.ops memKept_local.toFrames | exact Keeps.writeD memKept_local _ _
    | apply onceOp_memWf | apply ladleAcc_memWf | apply here_memWf | apply doNowN_memWf | apply acquire_memWf
    | apply get_keepsWf | apply bind_keepsWf | dsimp only | intro _

theorem labortOp_memWf : Keeps MemKept (labortOp) := by
  unfold labortOp
  with_reducible repeat' first
    | exact Keeps.unit memKept_local.toFrames | exact Keeps.ops memKept_local.toFrames | apply onceOp_memWf
    | apply ladleAcc_memWf | apply writeStatus_memWf | apply beginRecord_memWf | apply State.planEnd_memWf | apply get_keepsWf
    | apply modify_keepsWf | apply bind_keepsWf | split | dsimp only | intro _

theorem State.roundMsg_memWf {s : State} (src : Nat) (tag : W64) {f : Option State} (h : Memory.wf s.mem = true) (hf : OptWf f) :
    OptWf (s.roundMsg src tag f) := by
  unfold State.roundMsg
  split
  · exact hf
  · exact OptWf.some (State.sendBack_memWf _ _ _ h)

/-! ### Stream -/

theorem boundPort_memWf (n : ℕ) : Keeps MemKept (boundPort n) := by
  unfold boundPort
  with_reducible repeat' first
    | exact Keeps.stopTrap _ | exact pure_keepsWf _ | exact Keeps.myStrip memKept_local.toFrames | apply get_keepsWf
    | apply bind_keepsWf | split | intro _

theorem portKeyOf_memWf (n : ℕ) : Keeps MemKept (portKeyOf n) :=
  bind_keepsWf (Keeps.myStrip memKept_local.toFrames) (fun _ => pure_keepsWf _)

theorem State.injectAll_memWf (s : State) (rs : List Req) (h : Memory.wf s.mem = true) :
    Memory.wf (State.injectAll s rs).mem = true := by
  unfold State.injectAll
  with_reducible repeat' first
    | assumption | apply State.inject_memWf | apply foldl_memWf | dsimp only | intro _

theorem loadRows_memWf (need : Need) (kind : ℕ → ReqKind) (xs : List (Spot × ℕ × Landing)) :
    Keeps MemKept (loadRows need kind xs) := by
  unfold loadRows
  with_reducible repeat' first
    | exact Keeps.unit memKept_local.toFrames | apply here_memWf | apply awaitReplies_memWf | apply State.injectAll_memWf
    | apply get_keepsWf | apply modify_keepsWf | apply bind_keepsWf | dsimp only | intro _

theorem lqBody_memWf (want : ℕ → Want) (p : Port) (n : ℕ) : Keeps MemKept (lqBody want p n) :=
  bind_keepsWf (Keeps.lanes memKept_local.toFrames) (fun _ => bind_keepsWf (Keeps.fetch memKept_local _ _)
    (fun _ => bind_keepsWf (spots_memWf _ _ _ _ _ _) (fun _ => bind_keepsWf (Keeps.pushRows memKept_local _ _)
        (fun _ => bind_keepsWf (portKeyOf_memWf _) (fun _ => loadRows_memWf _ _ _)))))

theorem lqgBody_memWf (want : ℕ → Want) (p : Port) (n : ℕ) : Keeps MemKept (lqgBody want p n) := by
  unfold lqgBody
  with_reducible repeat' first
    | exact Keeps.lanes memKept_local.toFrames | exact Keeps.fetch memKept_local _ _ | exact Keeps.pushRows memKept_local _ _
    | apply spots_memWf | apply portKeyOf_memWf | apply loadRows_memWf | apply bind_keepsWf | split | dsimp only | intro _

theorem lqOp_memWf : Keeps MemKept (lqOp) := by
  unfold lqOp
  with_reducible repeat' first
    | exact Keeps.stopTrap _ | exact Keeps.ops memKept_local.toFrames | exact Keeps.checkPorts memKept_local.toFrames _
    | apply insn_memWf | apply boundPort_memWf | apply lqBody_memWf | apply bind_keepsWf | split | dsimp only | intro _

theorem lqgOp_memWf : Keeps MemKept (lqgOp) := by
  unfold lqgOp
  with_reducible repeat' first
    | exact Keeps.stopTrap _ | exact pure_keepsWf _ | exact Keeps.ops memKept_local.toFrames
    | exact Keeps.lanes memKept_local.toFrames | exact Keeps.checkPorts memKept_local.toFrames _ | apply insnWith_memWf
    | apply portKeyOf_memWf | apply boundPort_memWf | apply lqgBody_memWf | apply get_keepsWf | apply bind_keepsWf | split
    | dsimp only | intro _

theorem lqlOp_memWf : Keeps MemKept (lqlOp) := by
  unfold lqlOp
  with_reducible repeat' first
    | exact Keeps.stopTrap _ | exact pure_keepsWf _ | exact Keeps.ops memKept_local.toFrames
    | exact Keeps.lanes memKept_local.toFrames | exact Keeps.fetch memKept_local _ _ | exact Keeps.pushRows memKept_local _ _
    | exact Keeps.checkPorts memKept_local.toFrames _ | apply insn_memWf | apply boundPort_memWf | apply spots_memWf
    | apply portKeyOf_memWf | apply loadRows_memWf | apply bind_keepsWf | split | dsimp only | intro _

theorem storeRow_memWf (n : ℕ) (p : Port) : Keeps MemKept (storeRow n p) := by
  unfold storeRow
  with_reducible repeat' first
    | exact pure_keepsWf _ | exact Keeps.unit memKept_local.toFrames | exact Keeps.waitUnless memKept_local.toFrames _ _
    | apply get_keepsWf | apply bind_keepsWf | split | intro _

theorem popStore_memWf (n : ℕ) (dropped : List ℕ) : Keeps MemKept (popStore n dropped) := by
  unfold popStore
  with_reducible repeat' first
    | assumption | exact pure_keepsWf _ | exact Keeps.unit memKept_local.toFrames | apply portKeyOf_memWf
    | apply State.retire_memWf | apply State.modPort_memWf | apply State.modCtl_memWf | apply modify_keepsWf
    | apply bind_keepsWf | split | intro _ | apply foldl_memWf

theorem streamReq_memWf (u : Agent) (issue : ℕ) (a : Acc) (kind : ReqKind) (lane : ℕ) (pushers : List ℕ) :
    Keeps MemKept (streamReq u issue a kind lane pushers) := by
  unfold streamReq
  with_reducible repeat' first
    | exact pure_keepsWf _ | apply here_memWf | apply buffer_memWf | apply get_keepsWf | apply bind_keepsWf | split
    | dsimp only | intro _

theorem sqOp_memWf (i : Instr) (red : Bool) : Keeps MemKept (sqOp i red) := by
  unfold sqOp
  with_reducible repeat' first
    | exact Keeps.stopTrap _ | exact pure_keepsWf _ | exact Keeps.unit memKept_local.toFrames
    | exact Keeps.ops memKept_local.toFrames | exact Keeps.lanes memKept_local.toFrames
    | exact Keeps.orTrap memKept_local.toFrames _ | exact Keeps.fetch memKept_local _ _
    | exact Keeps.checkPorts memKept_local.toFrames _ | apply insn_memWf | apply boundPort_memWf | apply storeRow_memWf
    | apply spots_memWf | apply streamReq_memWf | apply popStore_memWf | apply get_keepsWf | apply bind_keepsWf
    | apply forM_keepsWf | split | dsimp only | intro _

theorem sqsOp_memWf : Keeps MemKept (sqsOp) := by
  unfold sqsOp
  with_reducible repeat' first
    | exact Keeps.stopTrap _ | exact pure_keepsWf _ | exact Keeps.unit memKept_local.toFrames
    | exact Keeps.ops memKept_local.toFrames | exact Keeps.lanes memKept_local.toFrames
    | exact Keeps.orTrap memKept_local.toFrames _ | exact Keeps.fetch memKept_local _ _
    | exact Keeps.checkPorts memKept_local.toFrames _ | apply insn_memWf | apply boundPort_memWf | apply storeRow_memWf
    | apply spots_memWf | apply streamReq_memWf | apply popStore_memWf | apply get_keepsWf | apply bind_keepsWf
    | apply forM_keepsWf | split | dsimp only | intro _

theorem State.prefetch_memWf (s : State) (u : Agent) (p : Spot) (h : Memory.wf s.mem = true) :
    Memory.wf (State.prefetch s u p).mem = true := by
  unfold State.prefetch
  with_reducible repeat' first
    | assumption | apply State.serve_memWf | apply State.l1After_memWf | split | dsimp only
    | refine Served.MemWf.ok ?_ (by assumption)

theorem pfxOp_memWf : Keeps MemKept (pfxOp) := by
  unfold pfxOp
  with_reducible repeat' first
    | assumption | exact Keeps.unit memKept_local.toFrames | exact Keeps.ops memKept_local.toFrames
    | exact Keeps.lanes memKept_local.toFrames | exact Keeps.fetch memKept_local _ _ | apply insn_memWf | apply spots_memWf
    | apply State.prefetch_memWf | apply modify_keepsWf | apply bind_keepsWf | dsimp only | intro _ | apply foldl_memWf

theorem ldscOp_memWf : Keeps MemKept (ldscOp) := by
  unfold ldscOp
  with_reducible repeat' first
    | exact Keeps.ops memKept_local.toFrames | exact Keeps.lanes memKept_local.toFrames | exact Keeps.fetch memKept_local _ _
    | exact Keeps.writeD memKept_local _ _ | apply blockOp_memWf | apply accesses_memWf | apply reqs_memWf
    | apply bind_keepsWf | dsimp only | intro _

theorem stscOp_memWf : Keeps MemKept (stscOp) := by
  unfold stscOp
  with_reducible repeat' first
    | exact pure_keepsWf _ | exact Keeps.ops memKept_local.toFrames | exact Keeps.lanes memKept_local.toFrames
    | exact Keeps.fetch memKept_local _ _ | apply blockOp_memWf | apply accesses_memWf | apply reqs_memWf | apply bind_keepsWf
    | dsimp only | intro _

theorem atqOp_memWf : Keeps MemKept (atqOp) := by
  unfold atqOp
  with_reducible repeat' first
    | exact Keeps.stopTrap _ | exact pure_keepsWf _ | exact Keeps.unit memKept_local.toFrames
    | exact Keeps.ops memKept_local.toFrames | exact Keeps.lanes memKept_local.toFrames | exact Keeps.fetch memKept_local _ _
    | exact Keeps.writeD memKept_local _ _ | exact Keeps.pushRows memKept_local _ _
    | exact Keeps.checkPorts memKept_local.toFrames _ | apply blockOp_memWf | apply accesses_memWf | apply reqs_memWf
    | apply insn_memWf | apply boundPort_memWf | apply spots_memWf | apply portKeyOf_memWf | apply loadRows_memWf
    | apply get_keepsWf | apply bind_keepsWf | split | dsimp only | intro _

theorem State.bind_memWf (s : State) (tm sp n : ℕ) (b : Binding) (resOk : Bool) (h : Memory.wf s.mem = true) :
    ExceptWf (State.bind s tm sp n b resOk) := by
  unfold State.bind
  with_reducible repeat' first
    | assumption | apply State.modTeam_memWf | apply State.modEx_memWf | exact ExceptWf.error | split | apply ExceptWf.ok
    | apply foldl_memWf | dsimp only | intro _

theorem State.unbind_memWf (s : State) (tm sp n : ℕ) (h : Memory.wf s.mem = true) :
    Memory.wf (State.unbind s tm sp n).mem = true := by
  unfold State.unbind
  with_reducible repeat' first
    | assumption | apply State.discard_memWf | apply State.modCtl_memWf | apply State.unpush_memWf | apply State.modTeam_memWf
    | split | apply foldl_memWf | dsimp only | intro _

theorem stripEffect_memWf (i : Instr) (o : Ops) (a b : Val) : Keeps MemKept (stripEffect i o a b) := by
  unfold stripEffect
  with_reducible repeat' first
    | assumption | exact Keeps.throw _ | exact Keeps.stopTrap _ | exact pure_keepsWf _
    | exact Keeps.unit memKept_local.toFrames | exact Keeps.trapIf memKept_local.toFrames _ _ _
    | exact Keeps.waitUnless memKept_local.toFrames _ _ | apply State.bind_memWf | apply boundPort_memWf
    | apply State.unbind_memWf | apply State.modPort_memWf | apply get_keepsWf | apply set_keepsWf | apply modify_keepsWf
    | apply bind_keepsWf | split | dsimp only | intro _ | refine ExceptWf.elim ?_ (by assumption)

theorem portDeferred_memWf (n : ℕ) : Keeps MemKept (portDeferred n) :=
  Keeps.takeDeferred memKept_local.toFrames _

theorem stripOp_memWf (i : Instr) : Keeps MemKept (stripOp i) := by
  unfold stripOp
  with_reducible repeat' first
    | assumption | exact Keeps.stopTrap _ | exact pure_keepsWf _ | exact Keeps.unit memKept_local.toFrames
    | exact Keeps.ops memKept_local.toFrames | exact Keeps.lanes memKept_local.toFrames | exact Keeps.fetch memKept_local _ _
    | exact Keeps.checkPorts memKept_local.toFrames _ | apply insn_memWf | apply portDeferred_memWf | apply here_memWf
    | apply stay_memWf | apply stripEffect_memWf | apply get_keepsWf | apply modify_keepsWf | apply bind_keepsWf | split
    | dsimp only | intro _

theorem State.stripOperation_memWf (s : State) (key : ℕ) (h : Memory.wf s.mem = true) : OptWf (State.stripOperation s key) := by
  unfold State.stripOperation
  with_reducible repeat' first
    | assumption | apply stripEffect_memWf | apply State.asUnit_memWf | apply State.finishEx_memWf
    | apply State.modStrip_memWf | apply State.takeTrap_memWf | exact OptWf.none | split | apply OptWf.some
    | apply foldl_memWf | apply bind_keepsWf | dsimp only | intro _ | refine ExceptSndWf.elim ?_ (by assumption)
    | exact Keeps.fetch memKept_local _ _ | exact Keeps.dropMarks memKept_local _ _

theorem qstatOp_memWf : Keeps MemKept (qstatOp) := by
  unfold qstatOp
  with_reducible repeat' first
    | exact Keeps.stopTrap _ | exact Keeps.unit memKept_local.toFrames | exact Keeps.ops memKept_local.toFrames
    | exact Keeps.writeD memKept_local _ _ | exact Keeps.checkPorts memKept_local.toFrames _ | apply insn_memWf
    | apply boundPort_memWf | apply portDeferred_memWf | apply get_keepsWf | apply bind_keepsWf | split | dsimp only | intro _

theorem skipOne_memWf (n : ℕ) : Keeps MemKept (skipOne n) := by
  unfold skipOne
  with_reducible repeat' first
    | exact pure_keepsWf _ | exact Keeps.unit memKept_local.toFrames | exact Keeps.popE memKept_local _ _ _
    | apply boundPort_memWf | apply popStore_memWf | apply get_keepsWf | apply bind_keepsWf | split | dsimp only | intro _

theorem skipMany_memWf (n a : ℕ) (x2 : Option ℕ) : Keeps MemKept (skipMany n a x2) := by
  induction a generalizing x2 with
  | zero => exact pure_keepsWf _
  | succ k ih =>
    rw [skipMany]
    with_reducible repeat' first
      | exact pure_keepsWf _ | apply ih | apply skipOne_memWf | apply bind_keepsWf | split | intro _

theorem skipOp_memWf (i : Instr) (drain : Bool) : Keeps MemKept (skipOp i drain) := by
  unfold skipOp
  with_reducible repeat' first
    | assumption | exact Keeps.stopTrap _ | exact pure_keepsWf _ | exact Keeps.unit memKept_local.toFrames
    | exact Keeps.ctl memKept_local.toFrames | exact Keeps.ops memKept_local.toFrames
    | exact Keeps.lanes memKept_local.toFrames | exact Keeps.fetch memKept_local _ _ | exact Keeps.modCtl memKept_local _
    | apply insn_memWf | apply boundPort_memWf | apply portDeferred_memWf | apply skipMany_memWf | apply State.setWait_memWf
    | apply State.modCtl_memWf | apply get_keepsWf | apply modify_keepsWf | apply bind_keepsWf | split | dsimp only | intro _

theorem State.patLoad_memWf (s : State) (tm sp key : ℕ) (p : Port) (e : PatEngine) (h : Memory.wf s.mem = true) :
    OptWf (State.patLoad s tm sp key p e) := by
  unfold State.patLoad
  with_reducible repeat' first
    | assumption | apply State.injectAll_memWf | apply State.modPort_memWf | apply State.retireIdle_memWf | exact OptWf.none
    | split | apply OptWf.some

theorem State.patStore_memWf (s : State) (tm sp key : ℕ) (p : Port) (e : PatEngine) (h : Memory.wf s.mem = true) :
    OptWf (State.patStore s tm sp key p e) := by
  unfold State.patStore
  with_reducible repeat' first
    | assumption | apply State.modPort_memWf | apply State.inject_memWf | apply State.retire_memWf | exact OptWf.none | split
    | apply OptWf.some | apply foldl_memWf | dsimp only | intro _

theorem State.patStep_memWf (s : State) (key : ℕ) (h : Memory.wf s.mem = true) : OptWf (State.patStep s key) := by
  unfold State.patStep
  with_reducible repeat' first
    | assumption | apply State.patLoad_memWf | apply State.patStore_memWf | exact OptWf.none | split | dsimp only

/-! ### Fabric -/

theorem rlqOp_memWf : Keeps MemKept (rlqOp) := by
  unfold rlqOp
  with_reducible repeat' first
    | exact Keeps.stopTrap _ | exact pure_keepsWf _ | exact Keeps.ops memKept_local.toFrames
    | exact Keeps.lanes memKept_local.toFrames | exact Keeps.checkPorts memKept_local.toFrames _ | apply insnWith_memWf
    | apply portKeyOf_memWf | apply boundPort_memWf | apply lqBody_memWf | apply lqgBody_memWf | apply get_keepsWf
    | apply bind_keepsWf | split | dsimp only | intro _

theorem rldwOp_memWf : Keeps MemKept (rldwOp) := by
  unfold rldwOp
  with_reducible repeat' first
    | exact Keeps.unit memKept_local.toFrames | exact Keeps.ops memKept_local.toFrames | exact Keeps.fetch memKept_local _ _
    | exact Keeps.writeD memKept_local _ _ | apply blockOp_memWf | apply accLanes_memWf | apply accesses_memWf
    | apply reqs_memWf | apply get_keepsWf | apply bind_keepsWf | dsimp only | intro _

theorem requesterSide_memWf (vec : Bool) (r : ℕ × Req) : Keeps MemKept (requesterSide vec r) := by
  unfold requesterSide
  with_reducible repeat' first
    | exact Keeps.throw _ | exact Keeps.stopTrap _ | exact pure_keepsWf _ | apply get_keepsWf | split | intro _

theorem rstOp_memWf : Keeps MemKept (rstOp) := by
  unfold rstOp
  with_reducible repeat' first
    | exact Keeps.unit memKept_local.toFrames | exact Keeps.ops memKept_local.toFrames | exact Keeps.fetch memKept_local _ _
    | apply insn_memWf | apply accLanes_memWf | apply accesses_memWf | apply reqs_memWf | apply requesterSide_memWf
    | apply buffer_memWf | apply get_keepsWf | apply bind_keepsWf | apply forM_keepsWf | dsimp only | intro _

theorem ratomOp_memWf : Keeps MemKept (ratomOp) := by
  unfold ratomOp
  with_reducible repeat' first
    | exact Keeps.unit memKept_local.toFrames | exact Keeps.ops memKept_local.toFrames | exact Keeps.fetch memKept_local _ _
    | exact Keeps.writeD memKept_local _ _ | apply blockOp_memWf | apply accLanes_memWf | apply accesses_memWf
    | apply reqs_memWf | apply get_keepsWf | apply bind_keepsWf | split | dsimp only | intro _

theorem rfenceOp_memWf : Keeps MemKept (rfenceOp) := by
  unfold rfenceOp
  with_reducible repeat' first
    | exact pure_keepsWf _ | exact Keeps.unit memKept_local.toFrames | exact Keeps.ops memKept_local.toFrames
    | exact Keeps.lanes memKept_local.toFrames | exact Keeps.waitUnless memKept_local.toFrames _ _
    | exact Keeps.takeDeferred memKept_local.toFrames _ | exact Keeps.fetch memKept_local _ _ | apply insn_memWf
    | apply renewL1_memWf | apply get_keepsWf | apply bind_keepsWf | split | dsimp only | intro _

/-! ### Floating -/

theorem fpOp_memWf (i : Instr) (sh : Shape) (lk : LitKind) (f : ℕ → ℕ → ℕ → ℕ → FRes) : Keeps MemKept (fpOp i sh lk f) := by
  unfold fpOp
  with_reducible repeat' first
    | exact Keeps.ops memKept_local.toFrames | exact Keeps.fetch memKept_local _ _ | exact Keeps.writeD memKept_local _ _
    | exact raise_memWf _ | apply insn_memWf | apply bind_keepsWf | split | dsimp only | intro _

theorem fcmpOp_memWf (i : Instr) (f : Fmt) (w : ℕ) (lk : LitKind) : Keeps MemKept (fcmpOp i f w lk) := by
  unfold fcmpOp
  with_reducible repeat' first
    | exact Keeps.ops memKept_local.toFrames | exact Keeps.fetch memKept_local _ _ | exact Keeps.writePred memKept_local _ _
    | exact Keeps.readPred memKept_local.toFrames _ | exact raise_memWf _ | apply insn_memWf | apply bind_keepsWf | split
    | dsimp only | intro _

theorem cvtOp_memWf (i : Instr) (f : ℕ → ℕ → FRes) : Keeps MemKept (cvtOp i f) := by
  unfold cvtOp
  with_reducible repeat' first
    | exact Keeps.ops memKept_local.toFrames | apply fpOp_memWf | apply bind_keepsWf | dsimp only | intro _

theorem fchkOp_memWf : Keeps MemKept (fchkOp) := by
  unfold fchkOp
  with_reducible repeat' first
    | exact Keeps.ops memKept_local.toFrames | exact Keeps.fetch memKept_local _ _ | exact Keeps.writePred memKept_local _ _
    | exact raise_memWf _ | apply insn_memWf | apply bind_keepsWf | split | dsimp only | intro _

/-! ### Tmx -/

theorem bcsOwn_memWf : Keeps MemKept (bcsOwn) := by
  unfold bcsOwn
  with_reducible repeat' first
    | exact pure_keepsWf _ | exact Keeps.unit memKept_local.toFrames | exact Keeps.core memKept_local.toFrames
    | exact Keeps.trapIf memKept_local.toFrames _ _ _ | apply get_keepsWf | apply bind_keepsWf | dsimp only | intro _

theorem readRun_memWf (f : Field) (n : ℕ) : Keeps MemKept (readRun f n) := by
  unfold readRun
  with_reducible repeat' first
    | exact pure_keepsWf _ | exact Keeps.unit memKept_local.toFrames | apply get_keepsWf | apply bind_keepsWf | split
    | intro _

theorem writeRun_memWf (f : Field) (vs : List Val) : Keeps MemKept (writeRun f vs) := by
  unfold writeRun
  with_reducible repeat' first
    | exact pure_keepsWf _ | exact Keeps.unit memKept_local.toFrames | exact Keeps.writeRegs memKept_local _ _ _ _ _
    | apply State.modStrip_memWf | apply modify_keepsWf | apply bind_keepsWf | split | dsimp only | intro _

theorem tmvOp_memWf (i : Instr) (acc transposed : Bool) : Keeps MemKept (tmvOp i acc transposed) := by
  unfold tmvOp
  with_reducible repeat' first
    | exact pure_keepsWf _ | exact Keeps.ops memKept_local.toFrames | exact Keeps.trapIf memKept_local.toFrames _ _ _
    | exact Keeps.fetch memKept_local _ _ | exact Keeps.checkPorts memKept_local.toFrames _
    | exact Keeps.awaitRegs memKept_local.toFrames _ | exact raise_memWf _ | apply insn_memWf | apply readRun_memWf
    | apply bcsOwn_memWf | apply writeRun_memWf | apply get_keepsWf | apply bind_keepsWf | split | dsimp only | intro _

theorem pldvOp_memWf : Keeps MemKept (pldvOp) := by
  unfold pldvOp
  with_reducible repeat' first
    | exact Keeps.ops memKept_local.toFrames | exact Keeps.trapIf memKept_local.toFrames _ _ _
    | exact Keeps.fetch memKept_local _ _ | apply insn_memWf | apply bcsOwn_memWf | apply writeRun_memWf | apply get_keepsWf
    | apply bind_keepsWf | dsimp only | intro _

theorem pstbOp_memWf : Keeps MemKept (pstbOp) := by
  unfold pstbOp
  with_reducible repeat' first
    | assumption | exact Keeps.stopTrap _ | exact pure_keepsWf _ | exact Keeps.unit memKept_local.toFrames
    | exact Keeps.ops memKept_local.toFrames | exact Keeps.trapIf memKept_local.toFrames _ _ _ | apply onceOp_memWf
    | apply xferHandle_memWf | apply landPort_memWf | apply freshId_memWf | apply myGrid_memWf | apply stay_memWf
    | apply get_keepsWf | apply modify_keepsWf | apply bind_keepsWf | split | dsimp only | intro _

theorem State.pstbWord_memWf (s : State) (p : PstbOp) (v : ℕ) (poison : Bool) (h : Memory.wf s.mem = true) :
    Memory.wf (State.pstbWord s p v poison).1.mem = true := by
  unfold State.pstbWord
  with_reducible repeat' first
    | assumption | apply State.modCore_memWf | apply State.writeStore_memWf | split | apply foldlFst_memWf | dsimp only
    | intro _

theorem State.pstbEnd_memWf (s : State) (id : ℕ) (p : PstbOp) (h : Memory.wf s.mem = true) :
    Memory.wf (State.pstbEnd s id p).mem = true :=
  State.landWord_memWf _ _ _ _ h

theorem State.pstbWords_memWf (s : State) (id a : ℕ) (h : Memory.wf s.mem = true) :
    Memory.wf (State.pstbWords s id a).mem = true := by
  induction a generalizing s with
  | zero => exact h
  | succ k ih =>
    rw [State.pstbWords]
    with_reducible repeat' first
      | assumption | apply ih | apply State.pstbEnd_memWf | apply State.rowAccess_memWf | apply State.pstbWord_memWf | split
      | dsimp only | refine RowRes.MemWf.ok ?_ (by assumption) | refine RowRes.MemWf.wait ?_ (by assumption)

theorem State.pstbComplete_memWf (s : State) (id n : ℕ) (h : Memory.wf s.mem = true) : OptWf (State.pstbComplete s id n) := by
  unfold State.pstbComplete
  with_reducible repeat' first
    | assumption | apply State.pstbWords_memWf | exact OptWf.none | split | apply OptWf.some

/-! ### Queue -/

theorem State.putEngine_memWf (s : State) (n : ℕ) (e : Engine) (h : Memory.wf s.mem = true) :
    Memory.wf (State.putEngine s n e).mem = true :=
  h

theorem State.dropLandings_memWf (s : State) (n : ℕ) (h : Memory.wf s.mem = true) :
    Memory.wf (State.dropLandings s n).mem = true :=
  h

theorem State.forgetGrids_memWf (s : State) (n : ℕ) (h : Memory.wf s.mem = true) : Memory.wf (State.forgetGrids s n).mem = true :=
  h

theorem State.tablePart_memWf (s : State) (ctx va n : ℕ) (h : Memory.wf s.mem = true) : (State.tablePart s ctx va n).MemWf := by
  unfold State.tablePart
  with_reducible repeat' first
    | assumption | apply State.readLocal_memWf | apply TableRead.memWf_ok | apply TableRead.memWf_bad
    | apply TableRead.memWf_park | split | dsimp only

theorem State.tableParts_memWf (s : State) (ctx va : ℕ) (a : List (ℕ × ℕ)) (h : Memory.wf s.mem = true) :
    (State.tableParts s ctx va a).MemWf := by
  induction a generalizing s with
  | nil => exact h
  | cons l r ih =>
    rw [State.tableParts]
    with_reducible repeat' first
      | assumption | apply ih | apply State.tablePart_memWf | apply TableRead.memWf_ok | split
      | refine TableRead.MemWf.ok ?_ (by assumption)

theorem State.tableRead_memWf (s : State) (ctx va n : ℕ) (h : Memory.wf s.mem = true) : (State.tableRead s ctx va n).MemWf :=
  State.tableParts_memWf _ _ _ _ h

theorem State.readTable_memWf (s : State) (ctx va size : ℕ) (chk : ℕ → Bool) (i a : ℕ) (h : Memory.wf s.mem = true) :
    (State.readTable s ctx va size chk i a).MemWf := by
  induction a generalizing s i with
  | zero => exact h
  | succ k ih =>
    rw [State.readTable]
    with_reducible repeat' first
      | assumption | apply ih | apply State.tableRead_memWf | apply TableOut.memWf_ok | apply TableOut.memWf_bad
      | apply TableOut.memWf_park | split | refine TableRead.MemWf.ok ?_ (by assumption)
      | refine TableOut.MemWf.ok ?_ (by assumption) | refine TableOut.MemWf.park ?_ (by assumption)

theorem State.restOfTable_memWf (s : State) (ctx va size : ℕ) (chk : ℕ → Bool) (had : List ℕ) (n : ℕ)
    (h : Memory.wf s.mem = true) : (State.restOfTable s ctx va size chk had n).MemWf := by
  unfold State.restOfTable
  with_reducible repeat' first
    | assumption | apply State.readTable_memWf | apply TableOut.memWf_ok | apply TableOut.memWf_park | split
    | refine TableOut.MemWf.ok ?_ (by assumption) | refine TableOut.MemWf.park ?_ (by assumption)

theorem State.refuseEngine_memWf (s : State) (n code detail : ℕ) (h : Memory.wf s.mem = true) :
    Memory.wf (State.refuseEngine s n code detail).mem = true :=
  h

theorem State.enableEngine_memWf (s : State) (n : ℕ) (h : Memory.wf s.mem = true) :
    Memory.wf (State.enableEngine s n).mem = true := by
  unfold State.enableEngine
  with_reducible repeat' first
    | assumption | apply State.refuseEngine_memWf | apply State.readTable_memWf | apply State.noteFault_memWf
    | apply State.unqueue_memWf | apply State.dropLandings_memWf | apply State.forgetGrids_memWf | apply State.putEngine_memWf
    | split | dsimp only | refine TableOut.MemWf.ok ?_ (by assumption) | refine TableOut.MemWf.bad ?_ (by assumption)
    | refine TableOut.MemWf.park ?_ (by assumption)

theorem State.stopEngine_memWf (s : State) (n : ℕ) (h : Memory.wf s.mem = true) : Memory.wf (State.stopEngine s n).mem = true :=
  h

theorem State.writeEngineCtl_memWf (s : State) (n : ℕ) (v : W64) (h : Memory.wf s.mem = true) :
    Memory.wf (State.writeEngineCtl s n v).mem = true := by
  unfold State.writeEngineCtl
  with_reducible repeat' first
    | assumption | apply State.putEngine_memWf | apply State.enableEngine_memWf | apply State.stopEngine_memWf | split
    | dsimp only

theorem State.kick_memWf (s : State) (n : ℕ) (v : W32) (h : Memory.wf s.mem = true) : Memory.wf (State.kick s n v).mem = true :=
  h

theorem State.writeEngineReg_memWf (s : State) (n k : ℕ) (v : W64) (h : Memory.wf s.mem = true) :
    Memory.wf (State.writeEngineReg s n k v).mem = true := by
  unfold State.writeEngineReg
  with_reducible repeat' first
    | assumption | apply State.putEngine_memWf | apply State.writeEngineCtl_memWf | apply State.kick_memWf | split
    | dsimp only

theorem State.packetHeader_memWf (s : State) (n va hdr : ℕ) (h : Memory.wf s.mem = true) :
    Memory.wf (State.packetHeader s n va hdr).mem = true := by
  unfold State.packetHeader
  with_reducible repeat' first
    | assumption | apply State.haltEngine_memWf | apply State.endPacket_memWf | apply State.putEngine_memWf | split
    | dsimp only

theorem State.ringHeader_memWf (s : State) (n : ℕ) (e : Engine) (h : Memory.wf s.mem = true) :
    ExceptSndWf (State.ringHeader s n e) :=
  State.asUnit_memWf _ _ (codeRead_memWf _ _ _) h

theorem State.ringPacket_memWf (s : State) (n : ℕ) (h : Memory.wf s.mem = true) : OptWf (State.ringPacket s n) := by
  unfold State.ringPacket
  with_reducible repeat' first
    | assumption | apply State.haltEngine_memWf | apply State.putEngine_memWf | apply State.ringHeader_memWf
    | apply State.packetHeader_memWf | apply State.takeTrap_memWf | apply State.modCtl_memWf | apply State.noteOnce_memWf
    | exact OptWf.none | split | apply OptWf.some | dsimp only | refine ExceptSndWf.elim ?_ (by assumption)

theorem State.ringIdle_memWf (s : State) (n : ℕ) (h : Memory.wf s.mem = true) : OptWf (State.ringIdle s n) := by
  unfold State.ringIdle
  with_reducible repeat' first
    | assumption | apply State.ringPacket_memWf | apply State.putEngine_memWf | exact OptWf.none | split | apply OptWf.some
    | dsimp only | refine OptWf.elim ?_ (by assumption)

theorem State.launchPorts_memWf (s : State) (ctx : ℕ) (r : BitVec 1024) (had : List ℕ) (h : Memory.wf s.mem = true) :
    (State.launchPorts s ctx r had).MemWf := by
  unfold State.launchPorts
  with_reducible repeat' first
    | assumption | apply State.restOfTable_memWf | apply TableOut.memWf_ok | split

theorem State.launchChecks_memWf (s : State) (n ctx : ℕ) (k : Launching) (count : ℕ) (h : Memory.wf s.mem = true) :
    (State.launchChecks s n ctx k count).MemWf := by
  unfold State.launchChecks
  extract_lets r
  split
  · exact LaunchOut.memWf_fails h
  have hp := State.launchPorts_memWf s ctx r k.ports h
  split
  · next e => exact LaunchOut.memWf_fails (hp.bad e)
  · exact LaunchOut.memWf_park
  · next t e =>
    have ht := hp.ok e
    split
    · exact LaunchOut.memWf_fails ht
    · exact LaunchOut.memWf_fails ht
    · next p _ _ =>
      generalize p.rects r = q
      by_cases hrects : q = []
      · rw [if_pos hrects]
        exact LaunchOut.memWf_fails ht
      rw [if_neg hrects]
      by_cases hcount : LRec.count r < count
      · rw [if_pos hcount]
        exact LaunchOut.memWf_fails ht
      rw [if_neg hcount]
      have hr := State.restOfTable_memWf t ctx (LRec.htab r) 32 (handleOk (64 * LRec.spw r)) k.handles (LRec.hcount r) ht
      split
      · next e => exact LaunchOut.memWf_fails (hr.bad e)
      · exact LaunchOut.memWf_park
      · next u e =>
        split
        · exact LaunchOut.memWf_fails (hr.ok e)
        · exact LaunchOut.memWf_ok (hr.ok e)

theorem launchRead_memWf (hidx size : ℕ) (off : Val) : Keeps MemKept (launchRead hidx size off) :=
  bind_keepsWf (oneAccess_memWf _ _ _) (fun _ => get_keepsWf (fun _ _ => bind_keepsWf (Keeps.unit memKept_local.toFrames)
    (fun _ => bind_keepsWf here_memWf (fun _ => bind_keepsWf (doNowN_memWf _) (fun _ => bind_keepsWf
        (Keeps.trapIf memKept_local.toFrames _ _ _) (fun _ => pure_keepsWf _))))))

theorem launchRecord_memWf (h : ℕ) (indirect : Bool) (v : Opnds) : Keeps MemKept (launchRecord h indirect v) := by
  unfold launchRecord
  with_reducible repeat' first
    | exact pure_keepsWf _ | exact Keeps.trapIf memKept_local.toFrames _ _ _ | apply launchRead_memWf | apply bind_keepsWf
    | split | dsimp only | intro _

theorem launchCount_memWf (h : ℕ) (off : Val) : Keeps MemKept (launchCount h off) :=
  bind_keepsWf (Keeps.trapIf memKept_local.toFrames _ _ _) (fun _ => bind_keepsWf (launchRead_memWf _ _ _)
    (fun _ => pure_keepsWf _))

theorem waitTable_memWf (n page : ℕ) : Keeps MemKept (waitTable n page) := by
  unfold waitTable
  with_reducible repeat' first
    | exact Keeps.ops memKept_local.toFrames | apply here_memWf | apply State.modEngine_memWf | apply get_keepsWf
    | apply modify_keepsWf | apply bind_keepsWf | dsimp only | intro _

theorem launchOp_memWf (i : Instr) (indirect : Bool) : Keeps MemKept (launchOp i indirect) := by
  unfold launchOp
  with_reducible repeat' first
    | assumption | exact pure_keepsWf _ | exact Keeps.unit memKept_local.toFrames | exact Keeps.ops memKept_local.toFrames
    | exact Keeps.engine memKept_local.toFrames | exact Keeps.waitUnless memKept_local.toFrames _ _
    | exact Keeps.fetch memKept_local _ _ | exact Keeps.writeD memKept_local _ _ | apply insn_memWf | apply release_memWf
    | apply launchRecord_memWf | apply State.noteFault_memWf | apply State.modEngine_memWf | apply waitTable_memWf
    | apply orPark_memWf | apply launchCount_memWf | apply State.launchChecks_memWf | apply get_keepsWf | apply set_keepsWf
    | apply modify_keepsWf | apply bind_keepsWf | split | dsimp only | intro _ | refine LaunchOut.MemWf.ok ?_ (by assumption)
    | refine LaunchOut.MemWf.fails ?_ (by assumption)

theorem semwOp_memWf : Keeps MemKept (semwOp) := by
  unfold semwOp
  with_reducible repeat' first
    | exact Keeps.unit memKept_local.toFrames | exact Keeps.waitUnless memKept_local.toFrames _ _
    | exact Keeps.fetch memKept_local _ _ | apply insn_memWf | apply get_keepsWf | apply bind_keepsWf | dsimp only | intro _

theorem semPutOp_memWf (i : Instr) (f : W64 → W64 → W64) : Keeps MemKept (semPutOp i f) := by
  unfold semPutOp
  with_reducible repeat' first
    | exact Keeps.unit memKept_local.toFrames | exact Keeps.trapIf memKept_local.toFrames _ _ _
    | exact Keeps.fetch memKept_local _ _ | apply insn_memWf | apply release_memWf | apply State.setSem_memWf
    | apply modify_keepsWf | apply bind_keepsWf | dsimp only | intro _

theorem irqOp_memWf : Keeps MemKept (irqOp) := by
  unfold irqOp
  with_reducible repeat' first
    | assumption | exact Keeps.fetch memKept_local _ _ | apply insn_memWf | apply release_memWf | apply modify_keepsWf
    | apply bind_keepsWf | dsimp only | intro _

theorem pageCheck_memWf (r : Req) : Keeps MemKept (pageCheck r) := by
  unfold pageCheck
  with_reducible repeat' first
    | exact Keeps.throw _ | exact Keeps.stopTrap _ | exact pure_keepsWf _ | apply get_keepsWf | split | intro _

theorem programAt_memWf : Keeps MemKept (programAt) := by
  unfold programAt
  with_reducible repeat' first
    | exact Keeps.throw _ | exact pure_keepsWf _ | exact Keeps.unit memKept_local.toFrames
    | exact Keeps.ops memKept_local.toFrames | exact Keeps.trapIf memKept_local.toFrames _ _ _
    | exact Keeps.orTrap memKept_local.toFrames _ | exact Keeps.fetch memKept_local _ _ | apply spots_memWf | apply here_memWf
    | apply pageCheck_memWf | apply get_keepsWf | apply bind_keepsWf | split | dsimp only | intro _

theorem enterProgram_memWf (loc space : ℕ) : Keeps MemKept (enterProgram loc space) := by
  unfold enterProgram
  with_reducible repeat' first
    | exact pure_keepsWf _ | exact Keeps.unit memKept_local.toFrames | apply State.modEngine_memWf | apply modify_keepsWf
    | apply bind_keepsWf | split | dsimp only | intro _

theorem jmpqOp_memWf : Keeps MemKept (jmpqOp) :=
  insn_memWf _ _ _ (bind_keepsWf programAt_memWf (fun _ => enterProgram_memWf _ _))

theorem haltHere_memWf (n code : ℕ) : Keeps MemKept (haltHere n code) := by
  unfold haltHere
  with_reducible repeat' first
    | assumption | exact Keeps.ops memKept_local.toFrames | apply here_memWf | apply State.haltEngine_memWf
    | apply State.modEngine_memWf | apply modify_keepsWf | apply bind_keepsWf | dsimp only | intro _

theorem callqOp_memWf : Keeps MemKept (callqOp) := by
  unfold callqOp
  with_reducible repeat' first
    | exact pure_keepsWf _ | exact Keeps.unit memKept_local.toFrames | exact Keeps.engine memKept_local.toFrames
    | apply insn_memWf | apply programAt_memWf | apply haltHere_memWf | apply State.modEngine_memWf | apply enterProgram_memWf
    | apply modify_keepsWf | apply bind_keepsWf | split | intro _

theorem retqOp_memWf : Keeps MemKept (retqOp) := by
  unfold retqOp
  with_reducible repeat' first
    | exact pure_keepsWf _ | exact Keeps.unit memKept_local.toFrames | exact Keeps.engine memKept_local.toFrames
    | apply insn_memWf | apply haltHere_memWf | apply State.modEngine_memWf | apply modify_keepsWf | apply bind_keepsWf
    | split | dsimp only | intro _

theorem waitgOp_memWf : Keeps MemKept (waitgOp) := by
  unfold waitgOp
  with_reducible repeat' first
    | exact Keeps.wait _ | exact Keeps.unit memKept_local.toFrames | exact Keeps.fetch memKept_local _ _
    | exact Keeps.writeD memKept_local _ _ | apply insn_memWf | apply get_keepsWf | apply bind_keepsWf | split | intro _

theorem fenceqOp_memWf : Keeps MemKept (fenceqOp) :=
  insn_memWf _ _ _ (get_keepsWf (fun _ _ => bind_keepsWf (Keeps.unit memKept_local.toFrames) (fun _ => bind_keepsWf
    (Keeps.waitUnless memKept_local.toFrames _ _) (fun _ => Keeps.takeDeferred memKept_local.toFrames _))))

theorem kickqOp_memWf : Keeps MemKept (kickqOp) := by
  unfold kickqOp
  with_reducible repeat' first
    | assumption | exact Keeps.unit memKept_local.toFrames | exact Keeps.trapIf memKept_local.toFrames _ _ _
    | exact Keeps.fetch memKept_local _ _ | apply insn_memWf | apply release_memWf | apply State.kick_memWf
    | apply modify_keepsWf | apply bind_keepsWf | split | dsimp only | intro _

/-! ### Place -/

theorem State.setSlots_memWf (s : State) (l : List ℕ) (n : ℕ) (h : Memory.wf s.mem = true) :
    Memory.wf (State.setSlots s l n).mem = true :=
  h

theorem State.freeSlots_memWf (s : State) (l : List ℕ) (h : Memory.wf s.mem = true) :
    Memory.wf (State.freeSlots s l).mem = true :=
  h

theorem State.writeProposed_memWf (s : State) (gid : ℕ) (g : Grid) (l : List Placement) (h : Memory.wf s.mem = true) :
    Memory.wf (State.writeProposed s gid g l).mem = true :=
  h

theorem State.propose_memWf (s : State) (gid : ℕ) (l : List Placement) (h : Memory.wf s.mem = true) :
    OptWf (State.propose s gid l) := by
  unfold State.propose
  with_reducible repeat' first
    | assumption | apply State.writeProposed_memWf | apply State.freeSlots_memWf | exact OptWf.none | split | apply OptWf.some
    | dsimp only

theorem State.startRound_memWf (s : State) (n : ℕ) (p : Proposal) (h : Memory.wf s.mem = true) :
    Memory.wf (State.startRound s n p).mem = true :=
  h

theorem State.dispatch_memWf (s : State) (n : ℕ) (h : Memory.wf s.mem = true) : OptWf (State.dispatch s n) := by
  unfold State.dispatch
  with_reducible repeat' first
    | assumption | apply State.startRound_memWf | exact OptWf.none | split | apply OptWf.some | dsimp only

theorem State.reserveCore_memWf (s : State) (n core : ℕ) (h : Memory.wf s.mem = true) : OptWf (State.reserveCore s n core) := by
  unfold State.reserveCore
  with_reducible repeat' first
    | assumption | apply State.setSlots_memWf | exact OptWf.none | split | apply OptWf.some | dsimp only

theorem State.countRefusal_memWf (s : State) (p : Proposal) (h : Memory.wf s.mem = true) :
    Memory.wf (State.countRefusal s p).mem = true :=
  h

theorem State.reserveAnswer_memWf (s : State) (n core : ℕ) (h : Memory.wf s.mem = true) :
    OptWf (State.reserveAnswer s n core) := by
  unfold State.reserveAnswer
  with_reducible repeat' first
    | assumption | apply State.countRefusal_memWf | exact OptWf.none | split | apply OptWf.some | dsimp only

theorem State.releaseCore_memWf (s : State) (n core : ℕ) (h : Memory.wf s.mem = true) : OptWf (State.releaseCore s n core) := by
  unfold State.releaseCore
  with_reducible repeat' first
    | assumption | apply State.setSlots_memWf | exact OptWf.none | split | apply OptWf.some

theorem State.backoffEnd_memWf (s : State) (n : ℕ) (h : Memory.wf s.mem = true) : OptWf (State.backoffEnd s n) := by
  unfold State.backoffEnd
  with_reducible repeat' first
    | assumption | apply State.startRound_memWf | exact OptWf.none | split | apply OptWf.some

theorem State.freshCores_memWf (s : State) (l : List ℕ) (h : Memory.wf s.mem = true) :
    Memory.wf (State.freshCores s l).mem = true := by
  unfold State.freshCores
  with_reducible repeat' first
    | assumption | apply State.modCore_memWf | apply foldl_memWf | intro _

theorem State.freshWindow_memWf (s : State) (ctx core lo hi : ℕ) (h : Memory.wf s.mem = true) :
    Memory.wf (State.freshWindow s ctx core lo hi).mem = true := by
  unfold State.freshWindow
  with_reducible repeat' first
    | assumption | apply State.dropBytes_memWf | apply State.modCore_memWf | apply foldl_memWf | intro _

theorem State.freshWindows_memWf (s : State) (g : Grid) (l : List Placement) (h : Memory.wf s.mem = true) :
    Memory.wf (State.freshWindows s g l).mem = true := by
  unfold State.freshWindows
  with_reducible repeat' first
    | assumption | apply State.freshWindow_memWf | apply foldl_memWf | intro _

theorem State.admitTeams_memWf (s : State) (gid : ℕ) (g : Grid) (l : List Placement) (h : Memory.wf s.mem = true) :
    Memory.wf (State.admitTeams s gid g l).mem = true := by
  unfold State.admitTeams
  with_reducible repeat' first
    | assumption | split | apply foldl_memWf | dsimp only | intro _

theorem State.readmitTeams_memWf (s : State) (gid : ℕ) (g : Grid) (l : List Placement) (h : Memory.wf s.mem = true) :
    Memory.wf (State.readmitTeams s gid g l).mem = true := by
  unfold State.readmitTeams
  with_reducible repeat' first
    | assumption | apply State.modTeam_memWf | apply State.modCtx_memWf | split | apply foldl_memWf | dsimp only | intro _

theorem State.commitCore_memWf (s : State) (n core : ℕ) (h : Memory.wf s.mem = true) : OptWf (State.commitCore s n core) := by
  unfold State.commitCore
  with_reducible repeat' first
    | assumption | apply State.setSlots_memWf | apply State.freshWindows_memWf | apply State.freshCores_memWf
    | apply State.readmitTeams_memWf | apply State.admitTeams_memWf | exact OptWf.none | split | apply OptWf.some | dsimp only

theorem State.bindDeclared_memWf (s : State) (tm sp : ℕ) (ports : List W32) (h : Memory.wf s.mem = true) :
    Memory.wf (State.bindDeclared s tm sp ports).mem = true := by
  unfold State.bindDeclared
  with_reducible repeat' first
    | assumption | apply State.bind_memWf | split | apply foldl_memWf | dsimp only | intro _
    | refine ExceptWf.elim ?_ (by assumption)

theorem State.beginTeam_memWf (s : State) (tm : ℕ) (t : Team) (g : Grid) (h : Memory.wf s.mem = true) :
    Memory.wf (State.beginTeam s tm t g).mem = true := by
  unfold State.beginTeam
  with_reducible repeat' first
    | assumption | apply State.modTeam_memWf | apply State.bindDeclared_memWf | apply State.setSlots_memWf | split
    | apply foldl_memWf | dsimp only | intro _

theorem State.teamStart_memWf (s : State) (tm : ℕ) (h : Memory.wf s.mem = true) : OptWf (State.teamStart s tm) := by
  unfold State.teamStart
  with_reducible repeat' first
    | assumption | apply State.beginTeam_memWf | exact OptWf.none | split | apply OptWf.some | dsimp only

theorem State.slotFree_memWf (s : State) (tm : ℕ) (h : Memory.wf s.mem = true) : OptWf (State.slotFree s tm) := by
  unfold State.slotFree
  with_reducible repeat' first
    | assumption | apply State.unbind_memWf | apply State.setSlots_memWf | apply State.freeSlots_memWf
    | apply State.modTeam_memWf | exact OptWf.none | split | apply OptWf.some | apply foldl_memWf | dsimp only | intro _

theorem State.dropTeams_memWf (s : State) (gid : ℕ) (h : Memory.wf s.mem = true) : Memory.wf (State.dropTeams s gid).mem = true :=
  h

theorem State.gridComplete_memWf (s : State) (gid : ℕ) (h : Memory.wf s.mem = true) : OptWf (State.gridComplete s gid) := by
  unfold State.gridComplete
  with_reducible repeat' first
    | assumption | apply State.dropTeams_memWf | exact OptWf.none | split | apply OptWf.some

/-! ### Clock -/

theorem State.warm_memWf (s : State) (n : ℕ) (h : Memory.wf s.mem = true) : Memory.wf (State.warm s n).mem = true := by
  unfold State.warm
  with_reducible repeat' first
    | assumption | apply State.count_memWf | split

theorem State.clock_memWf (s : State) (n : ℕ) (h : Memory.wf s.mem = true) : Memory.wf (State.clock s n).mem = true :=
  State.warm_memWf _ _ h

theorem State.registerFree_memWf (s : State) (tm sp id : ℕ) (h : Memory.wf s.mem = true) :
    OptWf (State.registerFree s tm sp id) := by
  unfold State.registerFree
  with_reducible repeat' first
    | assumption | apply State.modStrip_memWf | exact OptWf.none | split | apply OptWf.some

theorem State.poolTrap_memWf (s : State) (tm : ℕ) (h : Memory.wf s.mem = true) : OptWf (State.poolTrap s tm) := by
  unfold State.poolTrap
  with_reducible repeat' first
    | assumption | apply State.takeTrap_memWf | apply State.modTeam_memWf | exact OptWf.none | split | apply OptWf.some
    | apply foldl_memWf | intro _

theorem State.decoupleTrap_memWf (s : State) (u : Agent) (st : Status) (h : Memory.wf s.mem = true) :
    Memory.wf (State.decoupleTrap s u st).mem = true := by
  unfold State.decoupleTrap
  with_reducible repeat' first
    | assumption | apply State.takeTrap_memWf | apply State.trapAtLatch_memWf | split

theorem State.decouple_memWf (s : State) (key : ℕ) (h : Memory.wf s.mem = true) : OptWf (State.decouple s key) := by
  unfold State.decouple
  with_reducible repeat' first
    | assumption | apply State.decoupleTrap_memWf | apply State.modStrip_memWf | exact OptWf.none | split | apply OptWf.some
    | apply foldl_memWf | intro _

theorem State.meetingRelease_memWf (s : State) (tm tid : ℕ) (h : Memory.wf s.mem = true) :
    OptWf (State.meetingRelease s tm tid) := by
  unfold State.meetingRelease
  with_reducible repeat' first
    | assumption | apply State.modEx_memWf | exact OptWf.none | split | apply OptWf.some | apply foldl_memWf | dsimp only
    | intro _

theorem State.sleepEnd_memWf (s : State) (u : Agent) (h : Memory.wf s.mem = true) : OptWf (State.sleepEnd s u) := by
  unfold State.sleepEnd
  with_reducible repeat' first
    | assumption | apply State.wake_memWf | exact OptWf.none | split | apply OptWf.some

theorem State.repoll_memWf (s : State) (u : Agent) (h : Memory.wf s.mem = true) : OptWf (State.repoll s u) := by
  unfold State.repoll
  with_reducible repeat' first
    | assumption | apply State.wake_memWf | exact OptWf.none | split | apply OptWf.some

theorem State.beatPeriod_memWf (s : State) (tm : ℕ) (h : Memory.wf s.mem = true) : OptWf (State.beatPeriod s tm) := by
  unfold State.beatPeriod
  with_reducible repeat' first
    | assumption | apply State.modTeam_memWf | exact OptWf.none | split | apply OptWf.some | dsimp only

theorem State.idleLimit_memWf (s : State) (tm : ℕ) (h : Memory.wf s.mem = true) : OptWf (State.idleLimit s tm) := by
  unfold State.idleLimit
  with_reducible repeat' first
    | assumption | apply State.modTeam_memWf | exact OptWf.none | split | apply OptWf.some

/-! ### System -/

theorem movsReadOp_memWf : Keeps MemKept (movsReadOp) := by
  unfold movsReadOp
  with_reducible repeat' first
    | exact Keeps.unit memKept_local.toFrames | exact Keeps.ops memKept_local.toFrames | exact Keeps.fetch memKept_local _ _
    | exact Keeps.writeD memKept_local _ _ | apply insn_memWf | apply get_keepsWf | apply bind_keepsWf | split | dsimp only
    | intro _

theorem movsWriteOp_memWf : Keeps MemKept (movsWriteOp) := by
  unfold movsWriteOp
  with_reducible repeat' first
    | exact pure_keepsWf _ | exact Keeps.unit memKept_local.toFrames | exact Keeps.fetch memKept_local _ _ | apply insn_memWf
    | apply State.modEx_memWf | apply modify_keepsWf | apply bind_keepsWf | split | intro _

theorem State.clearBcs_memWf (s : State) (ctx : ℕ) (h : Memory.wf s.mem = true) :
    Memory.wf (State.clearBcs s ctx).mem = true := by
  unfold State.clearBcs
  with_reducible repeat' first
    | assumption | apply State.modCore_memWf | apply State.zeroStore_memWf | split | apply foldl_memWf | intro _

theorem State.closePairs_memWf (s : State) (ctx : ℕ) (h : Memory.wf s.mem = true) :
    Memory.wf (State.closePairs s ctx).mem = true :=
  h

theorem State.createCtx_memWf (s : State) (c : ℕ) (h : Memory.wf s.mem = true) : Memory.wf (State.createCtx s c).mem = true :=
  h

theorem State.forgetOwner_memWf (s : State) (c : ℕ) (h : Memory.wf s.mem = true) : Memory.wf (State.forgetOwner s c).mem = true :=
  h

theorem State.dropOps_memWf (s : State) (c : ℕ) (h : Memory.wf s.mem = true) : Memory.wf (State.dropOps s c).mem = true :=
  h

theorem State.dropStaged_memWf (s : State) (c : ℕ) (h : Memory.wf s.mem = true) : Memory.wf (State.dropStaged s c).mem = true :=
  h

theorem State.destroyCtx_memWf (s : State) (c : ℕ) (h : Memory.wf s.mem = true) : Memory.wf (State.destroyCtx s c).mem = true :=
  State.forget_memWf _ _ (State.dropStaged_memWf _ _ (State.emptyBuffers_memWf _ _ (State.dropOps_memWf _ _
    (State.forgetOwner_memWf _ _ (State.closePairs_memWf _ _ (State.clearBcs_memWf _ _ h))))))

theorem State.unstage_memWf (s : State) (n : ℕ) (v : W64) (h : Memory.wf s.mem = true) :
    Memory.wf (State.unstage s n v).mem = true :=
  h

theorem State.sysWrite_memWf (s : State) (n pi : ℕ) (p : Partition) (v x : W64) (h : Memory.wf s.mem = true) :
    Memory.wf (State.sysWrite s n pi p v x).mem = true := by
  unfold State.sysWrite
  with_reducible repeat' first
    | assumption | apply State.unstage_memWf | apply State.modCtx_memWf | apply State.modPart_memWf
    | apply State.createCtx_memWf | apply State.destroyCtx_memWf | split | dsimp only

theorem stayQ_memWf : Keeps MemKept (stayQ) := by
  unfold stayQ
  with_reducible repeat' first
    | exact pure_keepsWf _ | exact Keeps.unit memKept_local.toFrames | exact Keeps.ops memKept_local.toFrames
    | apply here_memWf | apply State.modEngine_memWf | apply get_keepsWf | apply modify_keepsWf | apply bind_keepsWf | split
    | dsimp only | intro _

theorem State.atBoundary_memWf (s : State) (n : ℕ) (h : Memory.wf s.mem = true) :
    Memory.wf (State.atBoundary s n).mem = true := by
  unfold State.atBoundary
  with_reducible repeat' first
    | assumption | apply State.stopEngine_memWf | split

theorem State.finishQ_memWf (s : State) (n : ℕ) (h : Memory.wf s.mem = true) : Memory.wf (State.finishQ s n).mem = true :=
  State.atBoundary_memWf _ _ (State.endPacket_memWf _ _ (State.modEngine_memWf _ _ _ h))

theorem State.refuseQ_memWf (s : State) (n : ℕ) (h : Memory.wf s.mem = true) : Memory.wf (State.refuseQ s n).mem = true :=
  State.atBoundary_memWf _ _ (State.takeTrap_memWf _ _ _ _ (State.modEngine_memWf _ _ _ h))

theorem enginePart_memWf : Keeps MemKept (enginePart) := by
  unfold enginePart
  with_reducible repeat' first
    | exact Keeps.throw _ | exact Keeps.trap _ _ | exact pure_keepsWf _ | exact Keeps.unit memKept_local.toFrames
    | apply get_keepsWf | apply bind_keepsWf | split | intro _

theorem rdsysOp_memWf : Keeps MemKept (rdsysOp) := by
  unfold rdsysOp
  with_reducible repeat' first
    | exact Keeps.trapIf memKept_local.toFrames _ _ _ | exact Keeps.fetch memKept_local _ _
    | exact Keeps.writeD memKept_local _ _ | apply insn_memWf | apply enginePart_memWf | apply get_keepsWf
    | apply bind_keepsWf | dsimp only | intro _

theorem wrsysOp_memWf : Keeps MemKept (wrsysOp) := by
  unfold wrsysOp
  with_reducible repeat' first
    | exact Keeps.trapIf memKept_local.toFrames _ _ _ | exact Keeps.fetch memKept_local _ _ | apply insn_memWf
    | apply enginePart_memWf | apply State.modEngine_memWf | apply State.sysWrite_memWf | apply stayQ_memWf
    | apply get_keepsWf | apply modify_keepsWf | apply bind_keepsWf | split | dsimp only | intro _

theorem rangeFence_memWf : Keeps MemKept (rangeFence) := by
  unfold rangeFence
  with_reducible repeat' first
    | exact pure_keepsWf _ | exact Keeps.unit memKept_local.toFrames | exact Keeps.trapIf memKept_local.toFrames _ _ _
    | exact Keeps.waitUnless memKept_local.toFrames _ _ | exact Keeps.takeDeferred memKept_local.toFrames _
    | exact Keeps.fetch memKept_local _ _ | apply enginePart_memWf | apply get_keepsWf | apply bind_keepsWf | dsimp only
    | intro _

theorem wbrOp_memWf : Keeps MemKept (wbrOp) := by
  unfold wbrOp
  with_reducible repeat' first
    | assumption | exact pure_keepsWf _ | apply insn_memWf | apply rangeFence_memWf | apply State.writeBack_memWf
    | apply modify_keepsWf | apply bind_keepsWf | split | dsimp only | intro _ | apply foldl_memWf

theorem State.wakeParked_memWf (s : State) (a b : ℕ) (h : Memory.wf s.mem = true) :
    Memory.wf (State.wakeParked s a b).mem = true :=
  h

theorem State.closeRecords_memWf (s : State) (a b : ℕ) (h : Memory.wf s.mem = true) :
    Memory.wf (State.closeRecords s a b).mem = true :=
  h

theorem State.invalidate_memWf (s : State) (pi a b : ℕ) (h : Memory.wf s.mem = true) :
    Memory.wf (State.invalidate s pi a b).mem = true := by
  unfold State.invalidate
  with_reducible repeat' first
    | assumption | apply State.dropSector_memWf | apply State.wakeParked_memWf | apply State.serveAgain_memWf
    | apply State.closeRecords_memWf | apply foldl_memWf | intro _

theorem invrOp_memWf : Keeps MemKept (invrOp) := by
  unfold invrOp
  with_reducible repeat' first
    | exact pure_keepsWf _ | apply insn_memWf | apply rangeFence_memWf | apply State.invalidate_memWf | apply modify_keepsWf
    | apply bind_keepsWf | split | dsimp only | intro _

theorem State.sysEvent_memWf (s : State) (n : ℕ) (pick : W64 → W64 → Bool) (h : Memory.wf s.mem = true) :
    OptWf (State.sysEvent s n pick) := by
  unfold State.sysEvent
  with_reducible repeat' first
    | assumption | apply State.refuseQ_memWf | apply State.sysWrite_memWf | apply State.modEngine_memWf
    | apply State.finishQ_memWf | exact OptWf.none | split | apply OptWf.some | dsimp only

theorem State.switchComplete_memWf (s : State) (pi i : ℕ) (h : Memory.wf s.mem = true) : OptWf (State.switchComplete s pi i) := by
  unfold State.switchComplete
  with_reducible repeat' first
    | assumption | apply State.dropSector_memWf | apply State.modPart_memWf | apply State.serveAgain_memWf
    | apply State.finishQ_memWf | exact OptWf.none | split | apply OptWf.some | apply foldl_memWf | dsimp only | intro _

theorem State.structWrite_memWf (s : State) (ctx ia v n : ℕ) (h : Memory.wf s.mem = true) :
    ExceptWf (State.structWrite s ctx ia v n) := by
  unfold State.structWrite
  with_reducible repeat' first
    | assumption | apply State.writeL2_memWf | apply ExceptWf.map_any | apply ExceptWf.foldlM | intro _

theorem State.structRead_memWf (s : State) (ctx ia n : ℕ) (h : Memory.wf s.mem = true) :
    ExceptSndWf (State.structRead s ctx ia n) := by
  unfold State.structRead
  with_reducible repeat' first
    | assumption | apply State.readL2_memWf | apply ExceptSndWf.map_any | apply ExceptSndWf.foldlM | dsimp only | intro _

theorem State.postTrap_memWf (s : State) (ctx : ℕ) (h : Memory.wf s.mem = true) : OptWf (State.postTrap s ctx) := by
  unfold State.postTrap
  with_reducible repeat' first
    | assumption | apply State.structEvent_memWf | apply State.modCtx_memWf | apply State.structWrite_memWf | exact OptWf.none
    | split | apply ExceptWf.map | dsimp only | intro _

theorem State.postFault_memWf (s : State) (ctx : ℕ) (h : Memory.wf s.mem = true) : OptWf (State.postFault s ctx) := by
  unfold State.postFault
  with_reducible repeat' first
    | assumption | apply State.structEvent_memWf | apply State.modCtx_memWf | apply State.structWrite_memWf | exact OptWf.none
    | split | apply ExceptWf.map | dsimp only | intro _

theorem State.leaveMma_memWf (s : State) (u : Agent) (h : Memory.wf s.mem = true) :
    Memory.wf (State.leaveMma s u).mem = true := by
  unfold State.leaveMma
  with_reducible repeat' first
    | assumption | apply State.abandon_memWf | split

theorem wregOp_memWf (u : Agent) (x8 : BitVec 8) (x : Val) : Keeps MemKept (wregOp u x8 x) := by
  unfold wregOp
  with_reducible repeat' first
    | exact pure_keepsWf _ | exact Keeps.writeRegs memKept_local _ _ _ _ _ | apply State.modEx_memWf | apply State.modAp_memWf
    | apply modify_keepsWf | apply bind_keepsWf | split | dsimp only | intro _

theorem resumeOp_memWf (op : ℕ) (x8 : BitVec 8) (x : Val) (u : Agent) (r : TrapRec) : Keeps MemKept (resumeOp op x8 x u r) := by
  unfold resumeOp
  with_reducible repeat' first
    | assumption | exact pure_keepsWf _ | apply wregOp_memWf | apply State.resume_memWf | apply State.seenBy_memWf
    | apply State.leaveMma_memWf | apply State.modCtl_memWf | apply State.exitEx_memWf | apply State.exitAp_memWf
    | apply modify_keepsWf | apply bind_keepsWf | split | dsimp only | intro _

theorem resumetOp_memWf (i : Instr) (op : ℕ) : Keeps MemKept (resumetOp i op) := by
  unfold resumetOp
  with_reducible repeat' first
    | exact pure_keepsWf _ | exact Keeps.unit memKept_local.toFrames | exact Keeps.ops memKept_local.toFrames
    | exact Keeps.fetch memKept_local _ _ | exact Keeps.writeD memKept_local _ _ | apply insn_memWf | apply release_memWf
    | apply resumeOp_memWf | apply get_keepsWf | apply bind_keepsWf | split | dsimp only | intro _

/-! ### Preempt -/

theorem State.dropQueued_memWf (s : State) (c : ℕ) (h : Memory.wf s.mem = true) : Memory.wf (State.dropQueued s c).mem = true :=
  h

theorem State.stopPlans_memWf (s : State) (c : ℕ) (h : Memory.wf s.mem = true) : Memory.wf (State.stopPlans s c).mem = true := by
  unfold State.stopPlans
  with_reducible repeat' first
    | assumption | apply State.dropQueued_memWf | apply State.planEnd_memWf | split | apply foldl_memWf | intro _

theorem State.withdraw_memWf (s : State) (c : ℕ) (h : Memory.wf s.mem = true) : Memory.wf (State.withdraw s c).mem = true := by
  unfold State.withdraw
  with_reducible repeat' first
    | assumption | apply State.freeSlots_memWf | apply foldl_memWf | intro _

theorem State.finishChunks_memWf (s : State) (c : ℕ) (h : Memory.wf s.mem = true) :
    Memory.wf (State.finishChunks s c).mem = true := by
  unfold State.finishChunks
  with_reducible repeat' first
    | assumption | apply State.mmaChunk_memWf | split | apply foldl_memWf | intro _ | refine OptWf.elim ?_ (by assumption)

theorem State.preempt_memWf (s : State) (c : ℕ) (hung : Bool) (h : Memory.wf s.mem = true) :
    Memory.wf (State.preempt s c hung).mem = true :=
  State.stopPlans_memWf _ _ (State.withdraw_memWf _ _ (State.modCtx_memWf _ _ _ (State.finishChunks_memWf _ _ h)))

theorem State.askPreempt_memWf (s : State) (c : ℕ) (h : Memory.wf s.mem = true) :
    Memory.wf (State.askPreempt s c).mem = true := by
  unfold State.askPreempt
  with_reducible repeat' first
    | assumption | apply State.preempt_memWf | apply State.modCtx_memWf | split | dsimp only

theorem State.askPreemptWith_memWf (s : State) (c : ℕ) (x : W64) (h : Memory.wf s.mem = true) :
    Memory.wf (State.askPreemptWith s c x).mem = true := by
  unfold State.askPreemptWith
  with_reducible repeat' first
    | assumption | apply State.askPreempt_memWf | split

theorem State.kettleFire_memWf (s : State) (c : ℕ) (h : Memory.wf s.mem = true) : OptWf (State.kettleFire s c) := by
  unfold State.kettleFire
  with_reducible repeat' first
    | assumption | apply State.preempt_memWf | exact OptWf.none | split | apply OptWf.some

theorem State.ctlEvent_memWf {s : State} (n : Nat) (pick : W64 → Bool) {f : State → Nat → W64 → Option State}
    (h : Memory.wf s.mem = true) (hf : ∀ t c x, Memory.wf t.mem = true → OptWf (f t c x)) : OptWf (s.ctlEvent n pick f) := by
  unfold State.ctlEvent
  split
  · exact OptWf.bind' (State.sysEvent_memWf _ _ _ h) (fun t ht => hf t _ _ ht)
  · exact OptWf.none

theorem State.putSectors_memWf (s : State) (c off n : ℕ) (f : ℕ → ℕ) (h : Memory.wf s.mem = true) :
    ExceptWf (State.putSectors s c off n f) := by
  unfold State.putSectors
  with_reducible repeat' first
    | assumption | apply State.structWrite_memWf | apply ExceptWf.foldlM | intro _

theorem State.putFree_memWf (s : State) (c k off n : ℕ) (h : Memory.wf s.mem = true) : ExceptWf (State.putFree s c k off n) :=
  State.putSectors_memWf _ _ _ _ _ h

theorem State.putImage_memWf (s : State) (c off key n : ℕ) (h : Memory.wf s.mem = true) :
    ExceptWf (State.putImage s c off key n) :=
  State.putSectors_memWf _ _ _ _ _ h

theorem State.getImage_memWf (s : State) (c off kept key n : ℕ) (h : Memory.wf s.mem = true) :
    ExceptWf (State.getImage s c off kept key n) := by
  unfold State.getImage
  with_reducible repeat' first
    | assumption | apply State.writeStore_memWf | apply State.structRead_memWf | apply ExceptWf.map_snd
    | apply ExceptWf.foldlM | intro _

theorem State.putLog_memWf (s : State) (c : ℕ) (earlier : List Logged) (l : Logged) (h : Memory.wf s.mem = true) :
    ExceptWf (State.putLog s c earlier l) := by
  unfold State.putLog
  with_reducible repeat' first
    | assumption | apply State.structWrite_memWf | split | apply ExceptWf.ok | apply ExceptWf.bind' | dsimp only | intro _

theorem State.putLogs_memWf (s : State) (c : ℕ) (earlier a : List Logged) (h : Memory.wf s.mem = true) :
    ExceptWf (State.putLogs s c earlier a) := by
  induction a generalizing s earlier with
  | nil => exact ExceptWf.ok h
  | cons l r ih => exact ExceptWf.bind' (State.putLog_memWf _ _ _ _ h) (fun s hs => ih s _ hs)

theorem State.leaveHalf_memWf (s : State) (c tm : ℕ) (t : Team) (half : ℕ) (h : Memory.wf s.mem = true) :
    Memory.wf (State.leaveHalf s c tm t half).mem = true := by
  unfold State.leaveHalf
  with_reducible repeat' first
    | assumption | apply State.copyStore_memWf | apply State.copyEngine_memWf | apply State.modCore_memWf
    | apply State.modTeam_memWf | apply State.dropFetches_memWf | split | dsimp only

theorem State.leaveTeam_memWf (s : State) (c tm : ℕ) (t : Team) (h : Memory.wf s.mem = true) :
    Memory.wf (State.leaveTeam s c tm t).mem = true := by
  unfold State.leaveTeam
  with_reducible repeat' first
    | assumption | apply State.leaveHalf_memWf | apply State.modTeam_memWf | apply State.freeSlots_memWf | apply foldl_memWf
    | intro _

theorem State.putRegs_memWf (s : State) (c off tm : ℕ) (t : Team) (half : ℕ) (h : Memory.wf s.mem = true) :
    ExceptWf (State.putRegs s c off tm t half) := by
  unfold State.putRegs
  with_reducible repeat' first
    | assumption | apply State.structWrite_memWf | apply ExceptWf.foldlM | intro _

theorem State.putQueues_memWf (s : State) (c off tm : ℕ) (t : Team) (half : ℕ) (h : Memory.wf s.mem = true) :
    ExceptWf (State.putQueues s c off tm t half) := by
  unfold State.putQueues
  with_reducible repeat' first
    | assumption | apply State.structWrite_memWf | apply ExceptWf.foldlM | intro _

theorem State.getRegs_memWf (s : State) (c off tm : ℕ) (t : Team) (half : ℕ) (h : Memory.wf s.mem = true) :
    ExceptWf (State.getRegs s c off tm t half) := by
  unfold State.getRegs
  with_reducible repeat' first
    | assumption | apply State.structRead_memWf | apply State.modStrip_memWf | apply ExceptWf.pure | apply ExceptWf.bind_snd
    | apply ExceptWf.foldlM | intro _

theorem State.getQueues_memWf (s : State) (c off tm : ℕ) (t : Team) (half : ℕ) (h : Memory.wf s.mem = true) :
    ExceptWf (State.getQueues s c off tm t half) := by
  unfold State.getQueues
  with_reducible repeat' first
    | assumption | apply State.structRead_memWf | apply State.modPort_memWf | apply ExceptWf.pure | apply ExceptWf.bind_snd
    | apply ExceptWf.foldlM | intro _

theorem State.putHalf_memWf (s : State) (c : ℕ) (ts : List (ℕ × Team)) (tm : ℕ) (t : Team) (half : ℕ)
    (h : Memory.wf s.mem = true) : ExceptWf (State.putHalf s c ts tm t half) := by
  unfold State.putHalf
  with_reducible repeat' first
    | assumption | apply State.putRegs_memWf | apply State.putQueues_memWf | apply State.putImage_memWf | split
    | apply ExceptWf.pure | apply ExceptWf.bind | intro _

theorem State.putRegion_memWf (s : State) (c k i : ℕ) (h : Memory.wf s.mem = true) : ExceptWf (State.putRegion s c k i) := by
  unfold State.putRegion
  with_reducible repeat' first
    | assumption | apply State.putFree_memWf | apply State.putSectors_memWf | apply ExceptWf.bind | intro _

theorem State.putArea_memWf (s : State) (c : ℕ) (ts : List (ℕ × Team)) (h : Memory.wf s.mem = true) :
    ExceptWf (State.putArea s c ts) := by
  unfold State.putArea
  with_reducible repeat' first
    | assumption | apply State.structWrite_memWf | apply State.putFree_memWf | apply State.putSectors_memWf
    | apply State.putRegion_memWf | apply State.putHalf_memWf | apply State.putLogs_memWf | apply ExceptWf.bind
    | apply ExceptWf.foldlM | intro _

theorem State.takePairs_memWf (s : State) (c : ℕ) (h : Memory.wf s.mem = true) : Memory.wf (State.takePairs s c).mem = true :=
  h

theorem State.givePairs_memWf (s : State) (c : ℕ) (h : Memory.wf s.mem = true) : Memory.wf (State.givePairs s c).mem = true := by
  unfold State.givePairs
  with_reducible repeat' first
    | assumption | apply State.modCtx_memWf | apply State.modPart_memWf | apply foldl_memWf | intro _

theorem State.saveComplete_memWf (s : State) (c : ℕ) (h : Memory.wf s.mem = true) : OptWf (State.saveComplete s c) := by
  unfold State.saveComplete
  with_reducible repeat' first
    | assumption | apply State.stopPlans_memWf | apply State.modCtx_memWf | apply State.leaveTeam_memWf
    | apply State.structEvent_memWf | apply State.takePairs_memWf | apply State.putArea_memWf | exact OptWf.none | split
    | apply ExceptWf.map | apply foldl_memWf | dsimp only | intro _

theorem State.putRest_memWf (s : State) (c : ℕ) (h : Memory.wf s.mem = true) : ExceptWf (State.putRest s c) := by
  unfold State.putRest
  with_reducible repeat' first
    | assumption | apply State.modCtx_memWf | apply State.putLogs_memWf | split | apply ExceptWf.ok | apply ExceptWf.map
    | dsimp only | intro _

theorem State.writeLog_memWf (s : State) (c : ℕ) (h : Memory.wf s.mem = true) : OptWf (State.writeLog s c) :=
  State.structEvent_memWf _ h (State.putRest_memWf _ _ h)

theorem State.logReply_memWf (s : State) (c n : ℕ) (r : Req) (h : Memory.wf s.mem = true) : OptWf (State.logReply s c n r) :=
  State.structEvent_memWf _ h (State.putRest_memWf _ _ (State.modCtx_memWf _ _ _ h))

theorem State.lateReply_memWf (s : State) (n : ℕ) (h : Memory.wf s.mem = true) : OptWf (State.lateReply s n) := by
  unfold State.lateReply
  with_reducible repeat' first
    | assumption | apply State.atPeerCore_memWf | apply State.logReply_memWf | exact OptWf.none | exact OptFstWf.none | split
    | apply OptWf.some | dsimp only | refine OptFstWf.elim ?_ (by assumption)

theorem State.askRestore_memWf (s : State) (c : ℕ) (h : Memory.wf s.mem = true) : ExceptWf (State.askRestore s c) := by
  unfold State.askRestore
  with_reducible repeat' first
    | assumption | apply State.modCtx_memWf | split | apply ExceptWf.ok | apply ExceptWf.map_any | dsimp only | intro _

theorem State.loadHalf_memWf (s : State) (c : ℕ) (ts : List (ℕ × Team)) (tm : ℕ) (t : Team) (half : ℕ)
    (h : Memory.wf s.mem = true) : ExceptWf (State.loadHalf s c ts tm t half) := by
  unfold State.loadHalf
  with_reducible repeat' first
    | assumption | apply State.getRegs_memWf | apply State.getQueues_memWf | apply State.getImage_memWf
    | apply State.modCore_memWf | split | apply ExceptWf.pure | apply ExceptWf.bind | apply ExceptWf.map | intro _

theorem State.rejoin_memWf (s : State) (tm : ℕ) (t : Team) (h : Memory.wf s.mem = true) :
    Memory.wf (State.rejoin s tm t).mem = true := by
  unfold State.rejoin
  with_reducible repeat' first
    | assumption | apply State.modTeam_memWf | apply State.setSlots_memWf | apply State.modCore_memWf | split
    | apply foldl_memWf | dsimp only | intro _

theorem State.applyLog_memWf (s : State) (l : Logged) (h : Memory.wf s.mem = true) :
    Memory.wf (State.applyLog s l).mem = true := by
  unfold State.applyLog
  with_reducible repeat' first
    | assumption | apply State.landWord_memWf | apply State.land_memWf | apply State.acknowledge_memWf
    | apply State.writeStore_memWf | split

theorem State.goOn_memWf (s : State) (c d : ℕ) (ts : List (ℕ × Team)) (h : Memory.wf s.mem = true) :
    Memory.wf (State.goOn s c d ts).mem = true :=
  h

theorem State.restoreComplete_memWf (s : State) (c : ℕ) (h : Memory.wf s.mem = true) : OptWf (State.restoreComplete s c) := by
  unfold State.restoreComplete
  with_reducible repeat' first
    | assumption | apply State.structEvent_memWf | apply State.applyLog_memWf | apply State.goOn_memWf
    | apply State.rejoin_memWf | apply State.givePairs_memWf | apply State.modCtx_memWf | apply State.preempt_memWf
    | apply State.loadHalf_memWf | exact OptWf.none | split | apply ExceptWf.map | apply ExceptWf.foldlM | apply foldl_memWf
    | dsimp only | intro _

theorem State.killPlans_memWf (s : State) (c : ℕ) (h : Memory.wf s.mem = true) : Memory.wf (State.killPlans s c).mem = true :=
  State.stopPlans_memWf _ _ h

theorem State.dropWork_memWf (s : State) (c : ℕ) (h : Memory.wf s.mem = true) : Memory.wf (State.dropWork s c).mem = true :=
  State.forget_memWf _ _ (State.emptyBuffers_memWf _ _ (State.dropOps_memWf _ _ h))

theorem State.dropGrids_memWf (s : State) (c : ℕ) (h : Memory.wf s.mem = true) : Memory.wf (State.dropGrids s c).mem = true := by
  unfold State.dropGrids
  with_reducible repeat' first
    | assumption | apply State.freeSlots_memWf | apply State.dropTeams_memWf | apply foldl_memWf | intro _

theorem State.stopCtx_memWf (s : State) (c state : ℕ) (h : Memory.wf s.mem = true) :
    Memory.wf (State.stopCtx s c state).mem = true := by
  unfold State.stopCtx
  with_reducible repeat' first
    | assumption | apply State.modCtx_memWf | apply State.dropWork_memWf | apply State.killPlans_memWf
    | apply State.withdraw_memWf | apply State.clearBcs_memWf | apply State.closePairs_memWf | apply State.dropGrids_memWf

theorem State.askKill_memWf (s : State) (c : ℕ) (h : Memory.wf s.mem = true) : Memory.wf (State.askKill s c).mem = true := by
  unfold State.askKill
  with_reducible repeat' first
    | assumption | apply State.stopCtx_memWf | split | dsimp only

theorem State.killComplete_memWf (s : State) (c : ℕ) (h : Memory.wf s.mem = true) : OptWf (State.killComplete s c) := by
  unfold State.killComplete
  with_reducible repeat' first
    | assumption | apply State.modCtx_memWf | exact OptWf.none | split | apply OptWf.some | dsimp only

theorem State.failCtx_memWf (s : State) (c : ℕ) (h : Memory.wf s.mem = true) : Memory.wf (State.failCtx s c).mem = true := by
  unfold State.failCtx
  with_reducible repeat' first
    | assumption | apply State.modCtx_memWf | apply State.stopCtx_memWf | apply State.flush_memWf | apply State.count_memWf
    | split | dsimp only

theorem State.noteControl_memWf (s : State) (h : Memory.wf s.mem = true) : Memory.wf (State.noteControl s).mem = true :=
  State.flush_memWf _ (State.count_memWf _ _ _ h)

theorem State.unitFails_memWf (s : State) (kind n : ℕ) (h : Memory.wf s.mem = true) :
    Memory.wf (State.unitFails s kind n).mem = true := by
  unfold State.unitFails
  with_reducible repeat' first
    | assumption | apply State.failCtx_memWf | apply State.noteControl_memWf | apply foldl_memWf

/-! ### Links -/

theorem State.linkDown_memWf (s : State) (n : ℕ) (h : Memory.wf s.mem = true) : Memory.wf (State.linkDown s n).mem = true :=
  State.flush_memWf _ (State.count_memWf _ _ _ (State.modLink_memWf _ _ _ h))

theorem State.askReplay_memWf (s : State) (n : ℕ) (h : Memory.wf s.mem = true) : Memory.wf (State.askReplay s n).mem = true := by
  unfold State.askReplay
  with_reducible repeat' first
    | assumption | apply State.linkDown_memWf | apply State.modLink_memWf | split | dsimp only

theorem State.askParity_memWf (s : State) (n depth : ℕ) (h : Memory.wf s.mem = true) :
    Memory.wf (State.askParity s n depth).mem = true :=
  h

theorem State.deliverFlit_memWf (s : State) (n depth : ℕ) (c : Cargo) (h : Memory.wf s.mem = true) :
    Memory.wf (State.deliverFlit s n depth c).mem = true :=
  h

theorem State.takeFlit_memWf (s : State) (n errs : ℕ) (c : Cargo) (h : Memory.wf s.mem = true) :
    Memory.wf (State.takeFlit s n errs c).mem = true := by
  unfold State.takeFlit
  with_reducible repeat' first
    | assumption | apply State.deliverFlit_memWf | apply State.modLink_memWf | apply State.askParity_memWf | split

theorem State.takeBehind_memWf (s : State) (n a : ℕ) (h : Memory.wf s.mem = true) :
    Memory.wf (State.takeBehind s n a).mem = true := by
  induction a generalizing s with
  | zero => exact h
  | succ k ih =>
    rw [State.takeBehind]
    with_reducible repeat' first
      | assumption | apply ih | apply State.modLink_memWf | apply State.takeFlit_memWf | split

theorem State.arrivals_memWf (s : State) (n : ℕ) (h : Memory.wf s.mem = true) : Memory.wf (State.arrivals s n).mem = true :=
  h

theorem State.inTurn_memWf (s : State) (n : ℕ) (h : Memory.wf s.mem = true) : Memory.wf (State.inTurn s n).mem = true :=
  State.arrivals_memWf _ _ (State.takeBehind_memWf _ _ _ h)

theorem State.flitReceive_memWf (s : State) (n seq errs : ℕ) (c : Cargo) (h : Memory.wf s.mem = true) :
    OptWf (State.flitReceive s n seq errs c) := by
  unfold State.flitReceive
  with_reducible repeat' first
    | assumption | apply State.inTurn_memWf | apply State.takeFlit_memWf | apply State.modLink_memWf | exact OptWf.none
    | split | apply OptWf.some | dsimp only

theorem State.parityArrival_memWf (s : State) (n seq errs : ℕ) (h : Memory.wf s.mem = true) :
    OptWf (State.parityArrival s n seq errs) := by
  unfold State.parityArrival
  with_reducible repeat' first
    | assumption | apply State.inTurn_memWf | apply State.deliverFlit_memWf | apply State.askParity_memWf
    | apply State.askReplay_memWf | exact OptWf.none | split | apply OptWf.some | dsimp only

theorem State.replayArrival_memWf (s : State) (n seq errs : ℕ) (c : Cargo) (h : Memory.wf s.mem = true) :
    OptWf (State.replayArrival s n seq errs c) := by
  unfold State.replayArrival
  with_reducible repeat' first
    | assumption | apply State.inTurn_memWf | apply State.takeFlit_memWf | exact OptWf.none | split | apply OptWf.some
    | dsimp only

theorem State.flitTimeout_memWf (s : State) (n : ℕ) (h : Memory.wf s.mem = true) : OptWf (State.flitTimeout s n) := by
  unfold State.flitTimeout
  with_reducible repeat' first
    | assumption | apply State.askReplay_memWf | exact OptWf.none | split | apply OptWf.some | dsimp only

theorem State.parityRequest_memWf (s : State) (n seq depth : ℕ) (h : Memory.wf s.mem = true) :
    OptWf (State.parityRequest s n seq depth) := by
  unfold State.parityRequest
  with_reducible repeat' first
    | assumption | exact OptWf.none | split | apply OptWf.some | dsimp only

theorem State.replayRequest_memWf (s : State) (n seq : ℕ) (h : Memory.wf s.mem = true) : OptWf (State.replayRequest s n seq) := by
  unfold State.replayRequest
  with_reducible repeat' first
    | assumption | exact OptWf.none | split | apply OptWf.some | dsimp only

theorem State.flitAck_memWf (s : State) (n seq : ℕ) (h : Memory.wf s.mem = true) : OptWf (State.flitAck s n seq) := by
  unfold State.flitAck
  with_reducible repeat' first
    | assumption | apply State.pumpLink_memWf | apply State.modLink_memWf | exact OptWf.none | split | apply OptWf.some
    | dsimp only

theorem State.creditReturn_memWf (s : State) (n cls ch : ℕ) (h : Memory.wf s.mem = true) :
    OptWf (State.creditReturn s n cls ch) := by
  unfold State.creditReturn
  with_reducible repeat' first
    | assumption | apply State.pumpLink_memWf | apply State.modLink_memWf | exact OptWf.none | split | apply OptWf.some

theorem State.tellFid_memWf (s : State) (n : ℕ) (h : Memory.wf s.mem = true) : Memory.wf (State.tellFid s n).mem = true := by
  unfold State.tellFid
  split <;> exact h

theorem State.linkTraining_memWf (s : State) (n : ℕ) (r : LaneResult) (h : Memory.wf s.mem = true) :
    OptWf (State.linkTraining s n r) := by
  unfold State.linkTraining
  with_reducible repeat' first
    | assumption | apply State.modLink_memWf | apply State.tellFid_memWf | apply State.count_memWf | exact OptWf.none | split
    | apply OptWf.some | dsimp only

theorem State.trainRetry_memWf (s : State) (n : ℕ) (h : Memory.wf s.mem = true) : OptWf (State.trainRetry s n) := by
  unfold State.trainRetry
  with_reducible repeat' first
    | assumption | apply State.modLink_memWf | apply State.count_memWf | exact OptWf.none | split | apply OptWf.some
    | dsimp only

theorem State.fidExchange_memWf (s : State) (n fid : ℕ) (h : Memory.wf s.mem = true) : OptWf (State.fidExchange s n fid) := by
  unfold State.fidExchange
  with_reducible repeat' first
    | assumption | apply State.pumpLink_memWf | apply State.modLink_memWf | exact OptWf.none | split | apply OptWf.some

/-! ### Attest -/

theorem State.modMgmt_memWf (s : State) (f : Mgmt → Mgmt) (h : Memory.wf s.mem = true) :
    Memory.wf (State.modMgmt s f).mem = true :=
  h

theorem State.doeRequest_memWf (s : State) (r : DoeRequest) (h : Memory.wf s.mem = true) :
    Memory.wf (State.doeRequest s r).mem = true := by
  unfold State.doeRequest
  with_reducible repeat' first
    | assumption | apply State.modMgmt_memWf | split

/-! ### Manage -/

theorem State.writeFid_memWf (s : State) (v : W64) (h : Memory.wf s.mem = true) : Memory.wf (State.writeFid s v).mem = true := by
  unfold State.writeFid
  with_reducible repeat' first
    | assumption | apply State.modMgmt_memWf | apply State.tellFid_memWf | split | apply foldl_memWf | intro _

theorem State.writeMgmt_memWf (s : State) (k : ℕ) (v : W64) (h : Memory.wf s.mem = true) :
    Memory.wf (State.writeMgmt s k v).mem = true := by
  unfold State.writeMgmt
  with_reducible repeat' first
    | assumption | apply State.modMgmt_memWf | split

theorem State.writeRoute_memWf (s : State) (off : ℕ) (v : W64) (h : Memory.wf s.mem = true) :
    Memory.wf (State.writeRoute s off v).mem = true := by
  unfold State.writeRoute
  with_reducible repeat' first
    | assumption | apply State.writeFid_memWf | split

theorem State.writeEther_memWf (s : State) (off : ℕ) (v : W64) (h : Memory.wf s.mem = true) :
    Memory.wf (State.writeEther s off v).mem = true := by
  unfold State.writeEther
  with_reducible repeat' first
    | assumption | split

theorem State.barWrite_memWf (s : State) (bar off size : ℕ) (v : W64) (h : Memory.wf s.mem = true) :
    Memory.wf (State.barWrite s bar off size v).mem = true := by
  unfold State.barWrite
  with_reducible repeat' first
    | assumption | apply State.writeMgmt_memWf | apply State.writeEngineReg_memWf | apply State.writeRoute_memWf
    | apply State.writeEther_memWf | apply State.kick_memWf | split

theorem State.refuseCmd_memWf (s : State) (reason : ℕ) (h : Memory.wf s.mem = true) :
    Memory.wf (State.refuseCmd s reason).mem = true :=
  h

theorem State.doneCmd_memWf (s : State) (h : Memory.wf s.mem = true) : Memory.wf (State.doneCmd s).mem = true :=
  h

theorem State.unknownCmd_memWf (s : State) (h : Memory.wf s.mem = true) : OptWf (State.unknownCmd s) := by
  unfold State.unknownCmd
  with_reducible repeat' first
    | assumption | apply State.modMgmt_memWf | exact OptWf.none | split | apply OptWf.some

theorem State.reportCatalogue_memWf (s : State) (h : Memory.wf s.mem = true) : OptWf (State.reportCatalogue s) := by
  unfold State.reportCatalogue
  with_reducible repeat' first
    | assumption | apply State.doneCmd_memWf | apply State.modMgmt_memWf | exact OptWf.none | split | apply OptWf.some

theorem State.leavePart_memWf (s : State) (i : ℕ) (p : Partition) (h : Memory.wf s.mem = true) :
    Memory.wf (State.leavePart s i p).mem = true := by
  unfold State.leavePart
  with_reducible repeat' first
    | assumption | apply State.dropSector_memWf | apply foldl_memWf | intro _

theorem State.leaveEngines_memWf (s : State) (gone : ℕ → Bool) (h : Memory.wf s.mem = true) :
    Memory.wf (State.leaveEngines s gone).mem = true :=
  h

theorem State.freshBcs_memWf (s : State) (cores : ℕ) (h : Memory.wf s.mem = true) :
    Memory.wf (State.freshBcs s cores).mem = true :=
  filter_memWf _ h

theorem State.loadKeys_memWf (s : State) (keys : ℕ) (h : Memory.wf s.mem = true) : Memory.wf (State.loadKeys s keys).mem = true :=
  h

theorem State.putPart_memWf (s : State) (i : ℕ) (d : BitVec 2048) (h : Memory.wf s.mem = true) :
    Memory.wf (State.putPart s i d).mem = true := by
  unfold State.putPart
  with_reducible repeat' first
    | assumption | apply State.leaveEngines_memWf | apply State.leavePart_memWf | apply State.freshBcs_memWf
    | apply State.loadKeys_memWf | split

theorem State.partitionCreate_memWf (s : State) (h : Memory.wf s.mem = true) : OptWf (State.partitionCreate s) := by
  unfold State.partitionCreate
  with_reducible repeat' first
    | assumption | apply State.refuseCmd_memWf | apply State.doneCmd_memWf | apply State.putPart_memWf | exact OptWf.none
    | split | apply OptWf.some

theorem State.partitionDestroy_memWf (s : State) (h : Memory.wf s.mem = true) : OptWf (State.partitionDestroy s) := by
  unfold State.partitionDestroy
  with_reducible repeat' first
    | assumption | apply State.refuseCmd_memWf | apply State.leaveEngines_memWf | apply State.leavePart_memWf
    | apply State.doneCmd_memWf | exact OptWf.none | split | apply OptWf.some | dsimp only

theorem State.decoderProgram_memWf (s : State) (i base len part ia key : ℕ) (h : Memory.wf s.mem = true) :
    OptWf (State.decoderProgram s i base len part ia key) := by
  unfold State.decoderProgram
  with_reducible repeat' first
    | assumption | apply State.refuseCmd_memWf | apply State.doneCmd_memWf | apply State.modMgmt_memWf | exact OptWf.none
    | split | apply OptWf.some

theorem State.ideRequire_memWf (s : State) (require able : Bool) (h : Memory.wf s.mem = true) :
    OptWf (State.ideRequire s require able) := by
  unfold State.ideRequire
  with_reducible repeat' first
    | assumption | apply State.refuseCmd_memWf | apply State.doneCmd_memWf | apply State.modMgmt_memWf | exact OptWf.none
    | split | apply OptWf.some

theorem State.imageWrite_memWf (s : State) (i : FwImage) (h : Memory.wf s.mem = true) : OptWf (State.imageWrite s i) := by
  unfold State.imageWrite
  with_reducible repeat' first
    | assumption | apply State.refuseCmd_memWf | apply State.doneCmd_memWf | apply State.modMgmt_memWf | exact OptWf.none
    | split | apply OptWf.some

theorem State.linkRetrain_memWf (s : State) (h : Memory.wf s.mem = true) : OptWf (State.linkRetrain s) := by
  unfold State.linkRetrain
  with_reducible repeat' first
    | assumption | apply State.refuseCmd_memWf | apply State.linkDown_memWf | apply State.doneCmd_memWf
    | apply State.count_memWf | apply State.modLink_memWf | exact OptWf.none | split | apply OptWf.some

theorem State.cxlReply_memWf (s : State) (a : CxlAccess) (data : ℕ) (poison : Bool) (h : Memory.wf s.mem = true) :
    Memory.wf (State.cxlReply s a data poison).mem = true :=
  h

theorem State.hostTakes_memWf (s : State) (ia : ℕ) (h : Memory.wf s.mem = true) : Memory.wf (State.hostTakes s ia).mem = true :=
  h

theorem State.cxlAccess_memWf (s : State) (a : CxlAccess) (h : Memory.wf s.mem = true) : OptWf (State.cxlAccess s a) := by
  unfold State.cxlAccess
  with_reducible repeat' first
    | assumption | apply State.cxlReply_memWf | apply State.hostTakes_memWf | apply State.writeLocal_memWf
    | apply State.readLocal_memWf | exact OptWf.none | split | apply OptWf.some | dsimp only

theorem State.failStage_memWf (s : State) (code : ℕ) (h : Memory.wf s.mem = true) :
    Memory.wf (State.failStage s code).mem = true :=
  h

theorem State.powerGood_memWf (s : State) (h : Memory.wf s.mem = true) : OptWf (State.powerGood s) := by
  unfold State.powerGood
  with_reducible repeat' first
    | assumption | apply State.modMgmt_memWf | apply State.failStage_memWf | exact OptWf.none | split | apply OptWf.some

theorem State.firmwareStart_memWf (s : State) (r : BringUp) (h : Memory.wf s.mem = true) : OptWf (State.firmwareStart s r) := by
  unfold State.firmwareStart
  with_reducible repeat' first
    | assumption | apply State.failStage_memWf | apply State.modMgmt_memWf | apply State.count_memWf | exact OptWf.none
    | split | apply OptWf.some | apply foldl_memWf | dsimp only | intro _

theorem State.hbmTraining_memWf (s : State) (mask : ℕ) (h : Memory.wf s.mem = true) : OptWf (State.hbmTraining s mask) := by
  unfold State.hbmTraining
  with_reducible repeat' first
    | assumption | apply State.failStage_memWf | apply State.modMgmt_memWf | exact OptWf.none | split | apply OptWf.some
    | dsimp only

theorem State.cxlTraining_memWf (s : State) (ok : Bool) (h : Memory.wf s.mem = true) : OptWf (State.cxlTraining s ok) := by
  unfold State.cxlTraining
  with_reducible repeat' first
    | assumption | apply State.modMgmt_memWf | apply State.failStage_memWf | apply State.modLink_memWf | exact OptWf.none
    | split | apply OptWf.some | apply foldl_memWf | intro _

theorem State.umturTraining_memWf (s : State) (h : Memory.wf s.mem = true) : OptWf (State.umturTraining s) := by
  unfold State.umturTraining
  with_reducible repeat' first
    | assumption | apply State.modMgmt_memWf | exact OptWf.none | split | apply OptWf.some

theorem State.stageTimeout_memWf (s : State) (h : Memory.wf s.mem = true) : OptWf (State.stageTimeout s) := by
  unfold State.stageTimeout
  with_reducible repeat' first
    | assumption | apply State.modMgmt_memWf | apply State.failStage_memWf | exact OptWf.none | split | apply OptWf.some
    | dsimp only

theorem State.patrol_memWf (s : State) (sector : ℕ) (r : ScrubResult) (h : Memory.wf s.mem = true) :
    Memory.wf (State.patrol s sector r).mem = true := by
  unfold State.patrol
  with_reducible repeat' first
    | assumption | apply State.count_memWf | apply State.flush_memWf | split

theorem State.strike_memWf (s : State) (x : Struck) (h : Memory.wf s.mem = true) : Memory.wf (State.strike s x).mem = true := by
  unfold State.strike
  with_reducible repeat' first
    | assumption | apply State.modStrip_memWf | apply State.modEx_memWf | apply State.modAp_memWf
    | apply State.modEngine_memWf | apply State.modPort_memWf | apply State.unitFails_memWf | split

theorem State.noteStrike_memWf (s : State) (x : Struck) (corrected : Bool) (h : Memory.wf s.mem = true) :
    Memory.wf (State.noteStrike s x corrected).mem = true := by
  unfold State.noteStrike
  with_reducible repeat' first
    | assumption | apply State.count_memWf | apply State.flush_memWf | split | apply elim_memWf | intro _

theorem State.parityL1_memWf (s : State) (core line : ℕ) (h : Memory.wf s.mem = true) :
    Memory.wf (State.parityL1 s core line).mem = true :=
  h

theorem State.parityI_memWf (s : State) (core : ℕ) (h : Memory.wf s.mem = true) : Memory.wf (State.parityI s core).mem = true :=
  h

theorem State.parityWalk_memWf (s : State) (key : ℕ) (h : Memory.wf s.mem = true) :
    Memory.wf (State.parityWalk s key).mem = true :=
  h

theorem State.counterFlush_memWf (s : State) (h : Memory.wf s.mem = true) : OptWf (State.counterFlush s) := by
  unfold State.counterFlush
  with_reducible repeat' first
    | assumption | apply State.flush_memWf | exact OptWf.none | split | apply OptWf.some

theorem State.throttle_memWf (s : State) (slow pnow : ℕ) (h : Memory.wf s.mem = true) : OptWf (State.throttle s slow pnow) := by
  unfold State.throttle
  with_reducible repeat' first
    | assumption | apply State.modMgmt_memWf | exact OptWf.none | split | apply OptWf.some

theorem State.powerLoss_memWf (s : State) (orderly : Bool) (h : Memory.wf s.mem = true) :
    Memory.wf (State.powerLoss s orderly).mem = true := by
  unfold State.powerLoss
  with_reducible repeat' first
    | assumption | apply State.flush_memWf | split | apply filter_memWf

/-! ### Pipeline -/

theorem execSliceRequest_memWf (s : State) (h : Memory.wf s.mem = true) : OutWf (execSliceRequest s) := by
  unfold execSliceRequest
  with_reducible repeat' first
    | assumption | apply event1_memWf | apply State.l1Request_memWf | apply State.sliceRequest_memWf | split | intro _

theorem execReplayReinject_memWf (s : State) (h : Memory.wf s.mem = true) : OutWf (execReplayReinject s) :=
  event1_memWf h (fun _ => State.reinject_memWf _ _ h)

theorem execWalkRequest_memWf (s : State) (h : Memory.wf s.mem = true) : OutWf (execWalkRequest s) :=
  event1_memWf h (fun _ => State.walkRequest_memWf _ _ _ h)

theorem execMemoryReply_memWf (s : State) (h : Memory.wf s.mem = true) : OutWf (execMemoryReply s) :=
  event1_memWf h (fun _ => State.memoryReply_memWf _ _ h)

theorem execPortSlotDeliver_memWf (s : State) (h : Memory.wf s.mem = true) : OutWf (execPortSlotDeliver s) :=
  event1_memWf h (fun _ => State.portDeliver_memWf _ _ h)

theorem execStoreAck_memWf (s : State) (h : Memory.wf s.mem = true) : OutWf (execStoreAck s) :=
  event1_memWf h (fun _ => State.storeAck_memWf _ _ h)

theorem execBackInvalidateResponse_memWf (s : State) (h : Memory.wf s.mem = true) : OutWf (execBackInvalidateResponse s) := by
  unfold execBackInvalidateResponse
  with_reducible repeat' first
    | assumption | apply event1_memWf | apply State.hostYields_memWf | apply State.snooped_memWf | split | intro _

theorem execRemoteRequestArrival_memWf (s : State) (h : Memory.wf s.mem = true) : OutWf (execRemoteRequestArrival s) := by
  unfold execRemoteRequestArrival
  with_reducible repeat' first
    | assumption | apply event_memWf | apply State.serveRemote_memWf | exact OptWf.none | split | apply OptWf.some

theorem execScaleOutRma_memWf (s : State) (h : Memory.wf s.mem = true) : OutWf (execScaleOutRma s) := by
  unfold execScaleOutRma
  with_reducible repeat' first
    | assumption | apply event_memWf | apply State.serveRemote_memWf | exact OptWf.none | split | apply OptWf.some

theorem execParkNotice_memWf (s : State) (h : Memory.wf s.mem = true) : OutWf (execParkNotice s) := by
  unfold execParkNotice
  with_reducible repeat' first
    | assumption | apply event1_memWf | exact OptWf.none | split | apply OptWf.some | apply OptWf.bind_any' | intro _

theorem execRemoteReply_memWf (s : State) (h : Memory.wf s.mem = true) : OutWf (execRemoteReply s) := by
  unfold execRemoteReply
  with_reducible repeat' first
    | assumption | apply event_memWf | apply State.keepPeer_memWf | exact OptWf.none | split | apply OptWf.some
    | apply OptWf.bind_any' | dsimp only | intro _

theorem execFabricPacketForward_memWf (s : State) (h : Memory.wf s.mem = true) : OutWf (execFabricPacketForward s) := by
  unfold execFabricPacketForward
  with_reducible repeat' first
    | assumption | apply event_memWf | apply State.replyTo_memWf | apply State.sendLink_memWf | exact OptWf.none | split
    | apply OptWf.some

/-! ### Lane -/

theorem execJointPerform_memWf (s : State) (h : Memory.wf s.mem = true) : OutWf (execJointPerform s) := by
  unfold execJointPerform
  with_reducible repeat' first
    | assumption | apply event_memWf | apply State.jointPerform_memWf | exact OptWf.none | split

/-! ### Async -/

theorem execCopyProgress_memWf (s : State) (h : Memory.wf s.mem = true) : OutWf (execCopyProgress s) := by
  unfold execCopyProgress
  with_reducible repeat' first
    | assumption | apply event_memWf | apply State.copyProgress_memWf | exact OptWf.none | split

theorem execCopyComplete_memWf (s : State) (h : Memory.wf s.mem = true) : OutWf (execCopyComplete s) :=
  event1_memWf h (fun _ => State.copyComplete_memWf _ _ h)

theorem execWdqAnswer_memWf (s : State) (h : Memory.wf s.mem = true) : OutWf (execWdqAnswer s) :=
  event1_memWf h (fun _ => State.wdqAnswer_memWf _ _ h)

/-! ### Publish -/

theorem execShdwComplete_memWf (s : State) (h : Memory.wf s.mem = true) : OutWf (execShdwComplete s) := by
  unfold execShdwComplete
  with_reducible repeat' first
    | assumption | apply event1_memWf | apply State.inboundShdw_memWf | apply State.shdwComplete_memWf | split | intro _

theorem execPublExchange_memWf (s : State) (h : Memory.wf s.mem = true) : OutWf (execPublExchange s) := by
  unfold execPublExchange
  with_reducible repeat' first
    | assumption | apply event1_memWf | apply State.inboundPubl_memWf | apply State.publExchange_memWf | split | intro _

theorem execMsgArrival_memWf (s : State) (h : Memory.wf s.mem = true) : OutWf (execMsgArrival s) :=
  event1_memWf h (fun _ => State.msgArrival_memWf _ _ h)

theorem execMsgDeliver_memWf (s : State) (h : Memory.wf s.mem = true) : OutWf (execMsgDeliver s) :=
  event1_memWf h (fun _ => State.msgDeliver_memWf _ _ h)

theorem execMessageProbeTimeout_memWf (s : State) (h : Memory.wf s.mem = true) : OutWf (execMessageProbeTimeout s) :=
  event1_memWf h (fun _ => State.probeMsg_memWf _ _ h)

theorem execEscapeStep_memWf (s : State) (h : Memory.wf s.mem = true) : OutWf (execEscapeStep s) := by
  unfold execEscapeStep
  with_reducible repeat' first
    | assumption | apply event_memWf | apply State.escape_memWf | exact OptWf.none | split

theorem execNredContribution_memWf (s : State) (h : Memory.wf s.mem = true) : OutWf (execNredContribution s) :=
  event1_memWf h (fun _ => State.nredContribute_memWf _ _ h)

/-! ### Sync -/

theorem execBarrierPhaseComplete_memWf (s : State) (h : Memory.wf s.mem = true) : OutWf (execBarrierPhaseComplete s) := by
  unfold execBarrierPhaseComplete
  with_reducible repeat' first
    | assumption | apply event_memWf | apply State.barrierComplete_memWf | exact OptWf.none | split

theorem execCohortBarrierRelease_memWf (s : State) (h : Memory.wf s.mem = true) : OutWf (execCohortBarrierRelease s) := by
  unfold execCohortBarrierRelease
  with_reducible repeat' first
    | assumption | apply event_memWf | apply State.cohortRelease_memWf | exact OptWf.none | split

theorem execGridBarrierRelease_memWf (s : State) (h : Memory.wf s.mem = true) : OutWf (execGridBarrierRelease s) :=
  event1_memWf h (fun _ => State.gridRelease_memWf _ _ h)

theorem execSemaphoreWaitSatisfied_memWf (s : State) (h : Memory.wf s.mem = true) : OutWf (execSemaphoreWaitSatisfied s) := by
  unfold execSemaphoreWaitSatisfied
  with_reducible repeat' first
    | assumption | apply event_memWf | apply State.semSatisfied_memWf | exact OptWf.none | split

/-! ### Matrix -/

theorem execEngineGrant_memWf (s : State) (h : Memory.wf s.mem = true) : OutWf (execEngineGrant s) :=
  event1_memWf h (fun _ => State.engineGrant_memWf _ _ h)

theorem execLatchRelease_memWf (s : State) (h : Memory.wf s.mem = true) : OutWf (execLatchRelease s) :=
  event1_memWf h (fun _ => State.latchRelease_memWf _ _ h)

theorem execMmaChunkCommit_memWf (s : State) (h : Memory.wf s.mem = true) : OutWf (execMmaChunkCommit s) :=
  event1_memWf h (fun _ => State.mmaChunk_memWf _ _ h)

theorem execMmaComplete_memWf (s : State) (h : Memory.wf s.mem = true) : OutWf (execMmaComplete s) :=
  event1_memWf h (fun _ => State.mmaComplete_memWf _ _ h)

theorem execMatrixQueueOp_memWf (s : State) (h : Memory.wf s.mem = true) : OutWf (execMatrixQueueOp s) :=
  event1_memWf h (fun _ => State.matrixQueueOp_memWf _ _ h)

theorem execMatrixTransferComplete_memWf (s : State) (h : Memory.wf s.mem = true) : OutWf (execMatrixTransferComplete s) := by
  unfold execMatrixTransferComplete
  with_reducible repeat' first
    | assumption | apply event_memWf | apply State.matrixTransfer_memWf | exact OptWf.none | split

/-! ### Ladle -/

theorem execLadleChunkArrival_memWf (s : State) (h : Memory.wf s.mem = true) : OutWf (execLadleChunkArrival s) := by
  unfold execLadleChunkArrival
  with_reducible repeat' first
    | assumption | apply event_memWf | apply State.ladleChunk_memWf | apply State.sendBack_memWf
    | apply State.ladleInbox_memWf | exact OptWf.none | split | apply OptWf.some

theorem execLadleChunkAnswer_memWf (s : State) (h : Memory.wf s.mem = true) : OutWf (execLadleChunkAnswer s) := by
  unfold execLadleChunkAnswer
  with_reducible repeat' first
    | assumption | apply event_memWf | apply State.ladleAnswer_memWf | apply State.ladleKept_memWf | exact OptWf.none | split

theorem execLadleBusyRetry_memWf (s : State) (h : Memory.wf s.mem = true) : OutWf (execLadleBusyRetry s) := by
  unfold execLadleBusyRetry
  with_reducible repeat' first
    | assumption | apply event_memWf | apply State.ladleSendChunk_memWf | exact OptWf.none | split

theorem execLadleDone_memWf (s : State) (h : Memory.wf s.mem = true) : OutWf (execLadleDone s) := by
  unfold execLadleDone
  with_reducible repeat' first
    | assumption | apply event_memWf | apply State.ladleDone_memWf | apply State.roundMsg_memWf | apply State.ladleHear_memWf
    | exact OptWf.none | split

theorem execLadleCommit_memWf (s : State) (h : Memory.wf s.mem = true) : OutWf (execLadleCommit s) := by
  unfold execLadleCommit
  with_reducible repeat' first
    | assumption | apply event_memWf | apply State.ladleCommit_memWf | apply State.roundMsg_memWf
    | apply State.ladleCommitted_memWf | exact OptWf.none | split

theorem execLadlePublished_memWf (s : State) (h : Memory.wf s.mem = true) : OutWf (execLadlePublished s) := by
  unfold execLadlePublished
  with_reducible repeat' first
    | assumption | apply event_memWf | apply State.roundMsg_memWf | apply State.ladlePublished_memWf | exact OptWf.none
    | split

theorem execLadleFinished_memWf (s : State) (h : Memory.wf s.mem = true) : OutWf (execLadleFinished s) := by
  unfold execLadleFinished
  with_reducible repeat' first
    | assumption | apply event_memWf | apply State.planEnd_memWf | apply State.ladleFinish_memWf | apply State.roundMsg_memWf
    | exact OptWf.none | split | apply OptWf.some | apply OptWf.bind_any' | intro _

theorem execRemoteTimeout_memWf (s : State) (h : Memory.wf s.mem = true) : OutWf (execRemoteTimeout s) := by
  unfold execRemoteTimeout
  with_reducible repeat' first
    | assumption | apply event_memWf | apply State.remoteTimeout_memWf | apply State.ladleLate_memWf | exact OptWf.none
    | split

/-! ### Stream -/

theorem execStripOperation_memWf (s : State) (h : Memory.wf s.mem = true) : OutWf (execStripOperation s) :=
  event1_memWf h (fun _ => State.stripOperation_memWf _ _ h)

theorem execPatternEngineStep_memWf (s : State) (h : Memory.wf s.mem = true) : OutWf (execPatternEngineStep s) :=
  event1_memWf h (fun _ => State.patStep_memWf _ _ h)

/-! ### Tmx -/

theorem execPstbComplete_memWf (s : State) (h : Memory.wf s.mem = true) : OutWf (execPstbComplete s) := by
  unfold execPstbComplete
  with_reducible repeat' first
    | assumption | apply event_memWf | apply State.pstbComplete_memWf | exact OptWf.none | split

/-! ### Queue -/

theorem execKick_memWf (s : State) (h : Memory.wf s.mem = true) : OutWf (execKick s) := by
  unfold execKick
  with_reducible repeat' first
    | assumption | apply event_memWf | apply State.kick_memWf | exact OptWf.none | split | apply OptWf.some

theorem execEngineEnable_memWf (s : State) (h : Memory.wf s.mem = true) : OutWf (execEngineEnable s) := by
  unfold execEngineEnable
  with_reducible repeat' first
    | assumption | apply event_memWf | apply State.writeEngineCtl_memWf | exact OptWf.none | split | apply OptWf.some

theorem execEngineDisable_memWf (s : State) (h : Memory.wf s.mem = true) : OutWf (execEngineDisable s) := by
  unfold execEngineDisable
  with_reducible repeat' first
    | assumption | apply event_memWf | apply State.writeEngineCtl_memWf | exact OptWf.none | split | apply OptWf.some

theorem execRingPacket_memWf (s : State) (h : Memory.wf s.mem = true) : OutWf (execRingPacket s) :=
  event1_memWf h (fun _ => State.ringPacket_memWf _ _ h)

theorem execRingIdleTimeout_memWf (s : State) (h : Memory.wf s.mem = true) : OutWf (execRingIdleTimeout s) :=
  event1_memWf h (fun _ => State.ringIdle_memWf _ _ h)

/-! ### Place -/

theorem execFirmwareProposal_memWf (s : State) (h : Memory.wf s.mem = true) : OutWf (execFirmwareProposal s) := by
  unfold execFirmwareProposal
  with_reducible repeat' first
    | assumption | apply event_memWf | apply State.propose_memWf | exact OptWf.none | split

theorem execDispatchReserve_memWf (s : State) (h : Memory.wf s.mem = true) : OutWf (execDispatchReserve s) :=
  event1_memWf h (fun _ => State.dispatch_memWf _ _ h)

theorem execReserve_memWf (s : State) (h : Memory.wf s.mem = true) : OutWf (execReserve s) :=
  event2_memWf h (fun _ _ => State.reserveCore_memWf _ _ _ h)

theorem execReserveAnswer_memWf (s : State) (h : Memory.wf s.mem = true) : OutWf (execReserveAnswer s) :=
  event2_memWf h (fun _ _ => State.reserveAnswer_memWf _ _ _ h)

theorem execCommit_memWf (s : State) (h : Memory.wf s.mem = true) : OutWf (execCommit s) :=
  event2_memWf h (fun _ _ => State.commitCore_memWf _ _ _ h)

theorem execRelease_memWf (s : State) (h : Memory.wf s.mem = true) : OutWf (execRelease s) :=
  event2_memWf h (fun _ _ => State.releaseCore_memWf _ _ _ h)

theorem execBackoffExpiry_memWf (s : State) (h : Memory.wf s.mem = true) : OutWf (execBackoffExpiry s) :=
  event1_memWf h (fun _ => State.backoffEnd_memWf _ _ h)

theorem execTeamStart_memWf (s : State) (h : Memory.wf s.mem = true) : OutWf (execTeamStart s) :=
  event1_memWf h (fun _ => State.teamStart_memWf _ _ h)

theorem execSlotFree_memWf (s : State) (h : Memory.wf s.mem = true) : OutWf (execSlotFree s) :=
  event1_memWf h (fun _ => State.slotFree_memWf _ _ h)

theorem execGridComplete_memWf (s : State) (h : Memory.wf s.mem = true) : OutWf (execGridComplete s) :=
  event1_memWf h (fun _ => State.gridComplete_memWf _ _ h)

/-! ### Clock -/

theorem execStripRegisterFree_memWf (s : State) (h : Memory.wf s.mem = true) : OutWf (execStripRegisterFree s) := by
  unfold execStripRegisterFree
  with_reducible repeat' first
    | assumption | apply event_memWf | apply State.registerFree_memWf | exact OptWf.none | split

theorem execRegpoolStall_memWf (s : State) (h : Memory.wf s.mem = true) : OutWf (execRegpoolStall s) :=
  event1_memWf h (fun _ => State.poolTrap_memWf _ _ h)

theorem execDecoupleTimeout_memWf (s : State) (h : Memory.wf s.mem = true) : OutWf (execDecoupleTimeout s) :=
  event1_memWf h (fun _ => State.decouple_memWf _ _ h)

theorem execMeetingRelease_memWf (s : State) (h : Memory.wf s.mem = true) : OutWf (execMeetingRelease s) :=
  event2_memWf h (fun _ _ => State.meetingRelease_memWf _ _ _ h)

theorem execSleepExpiry_memWf (s : State) (h : Memory.wf s.mem = true) : OutWf (execSleepExpiry s) :=
  eventU_memWf h (fun _ => State.sleepEnd_memWf _ _ h)

theorem execWaitwRepoll_memWf (s : State) (h : Memory.wf s.mem = true) : OutWf (execWaitwRepoll s) :=
  eventU_memWf h (fun _ => State.repoll_memWf _ _ h)

theorem execKettleBeatPeriod_memWf (s : State) (h : Memory.wf s.mem = true) : OutWf (execKettleBeatPeriod s) :=
  event1_memWf h (fun _ => State.beatPeriod_memWf _ _ h)

theorem execKettleIdleLimit_memWf (s : State) (h : Memory.wf s.mem = true) : OutWf (execKettleIdleLimit s) :=
  event1_memWf h (fun _ => State.idleLimit_memWf _ _ h)

/-! ### System -/

theorem execTrapRecordPost_memWf (s : State) (h : Memory.wf s.mem = true) : OutWf (execTrapRecordPost s) :=
  event1_memWf h (fun _ => State.postTrap_memWf _ _ h)

theorem execFaultRecordPost_memWf (s : State) (h : Memory.wf s.mem = true) : OutWf (execFaultRecordPost s) :=
  event1_memWf h (fun _ => State.postFault_memWf _ _ h)

theorem execRangeRegisterCommit_memWf (s : State) (h : Memory.wf s.mem = true) : OutWf (execRangeRegisterCommit s) :=
  event1_memWf h (fun _ => State.sysEvent_memWf _ _ _ h)

theorem execDomainCommit_memWf (s : State) (h : Memory.wf s.mem = true) : OutWf (execDomainCommit s) :=
  event1_memWf h (fun _ => State.sysEvent_memWf _ _ _ h)

theorem execDomainSwitchComplete_memWf (s : State) (h : Memory.wf s.mem = true) : OutWf (execDomainSwitchComplete s) :=
  event2_memWf h (fun _ _ => State.switchComplete_memWf _ _ _ h)

theorem execExportCommit_memWf (s : State) (h : Memory.wf s.mem = true) : OutWf (execExportCommit s) :=
  event1_memWf h (fun _ => State.sysEvent_memWf _ _ _ h)

theorem execPtrootWrite_memWf (s : State) (h : Memory.wf s.mem = true) : OutWf (execPtrootWrite s) :=
  event1_memWf h (fun _ => State.sysEvent_memWf _ _ _ h)

theorem execContextCreate_memWf (s : State) (h : Memory.wf s.mem = true) : OutWf (execContextCreate s) :=
  event1_memWf h (fun _ => State.sysEvent_memWf _ _ _ h)

theorem execContextDestroy_memWf (s : State) (h : Memory.wf s.mem = true) : OutWf (execContextDestroy s) :=
  event1_memWf h (fun _ => State.sysEvent_memWf _ _ _ h)

theorem execFaultRingSet_memWf (s : State) (h : Memory.wf s.mem = true) : OutWf (execFaultRingSet s) :=
  event1_memWf h (fun _ => State.sysEvent_memWf _ _ _ h)

theorem execFrheadWrite_memWf (s : State) (h : Memory.wf s.mem = true) : OutWf (execFrheadWrite s) :=
  event1_memWf h (fun _ => State.sysEvent_memWf _ _ _ h)

theorem execTrapRingSet_memWf (s : State) (h : Memory.wf s.mem = true) : OutWf (execTrapRingSet s) :=
  event1_memWf h (fun _ => State.sysEvent_memWf _ _ _ h)

theorem execTrheadWrite_memWf (s : State) (h : Memory.wf s.mem = true) : OutWf (execTrheadWrite s) :=
  event1_memWf h (fun _ => State.sysEvent_memWf _ _ _ h)

theorem execSaveAreaSet_memWf (s : State) (h : Memory.wf s.mem = true) : OutWf (execSaveAreaSet s) :=
  event1_memWf h (fun _ => State.sysEvent_memWf _ _ _ h)

/-! ### Preempt -/

theorem execKettleFire_memWf (s : State) (h : Memory.wf s.mem = true) : OutWf (execKettleFire s) :=
  event1_memWf h (fun _ => State.kettleFire_memWf _ _ h)

theorem execPreemptRequest_memWf (s : State) (h : Memory.wf s.mem = true) : OutWf (execPreemptRequest s) := by
  unfold execPreemptRequest
  with_reducible repeat' first
    | assumption | apply event1_memWf | apply State.ctlEvent_memWf | apply State.askPreempt_memWf | apply OptWf.some | intro _

theorem execSaveComplete_memWf (s : State) (h : Memory.wf s.mem = true) : OutWf (execSaveComplete s) :=
  event1_memWf h (fun _ => State.saveComplete_memWf _ _ h)

theorem execLateReply_memWf (s : State) (h : Memory.wf s.mem = true) : OutWf (execLateReply s) := by
  unfold execLateReply
  with_reducible repeat' first
    | assumption | apply event_memWf | apply State.lateReply_memWf | apply State.writeLog_memWf | exact OptWf.none | split

theorem execRestoreRequest_memWf (s : State) (h : Memory.wf s.mem = true) : OutWf (execRestoreRequest s) := by
  unfold execRestoreRequest
  with_reducible repeat' first
    | assumption | apply event1_memWf | apply State.ctlEvent_memWf | apply State.structEvent_memWf
    | apply State.askPreemptWith_memWf | apply State.askRestore_memWf | apply ExceptWf.map | intro _

theorem execRestoreComplete_memWf (s : State) (h : Memory.wf s.mem = true) : OutWf (execRestoreComplete s) :=
  event1_memWf h (fun _ => State.restoreComplete_memWf _ _ h)

theorem execContextKill_memWf (s : State) (h : Memory.wf s.mem = true) : OutWf (execContextKill s) := by
  unfold execContextKill
  with_reducible repeat' first
    | assumption | apply event1_memWf | apply State.ctlEvent_memWf | apply State.askKill_memWf | apply OptWf.some | intro _

theorem execKillComplete_memWf (s : State) (h : Memory.wf s.mem = true) : OutWf (execKillComplete s) :=
  event1_memWf h (fun _ => State.killComplete_memWf _ _ h)

theorem execControlStateError_memWf (s : State) (h : Memory.wf s.mem = true) : OutWf (execControlStateError s) := by
  unfold execControlStateError
  with_reducible repeat' first
    | assumption | apply event_memWf | apply State.failCtx_memWf | apply State.noteControl_memWf | apply State.unitFails_memWf
    | apply State.count_memWf | exact OptWf.none | split | apply OptWf.some

/-! ### Links -/

theorem execFlitReceive_memWf (s : State) (h : Memory.wf s.mem = true) : OutWf (execFlitReceive s) :=
  eventFlit_memWf h (fun _ _ _ _ => State.flitReceive_memWf _ _ _ _ _ h)

theorem execParityArrival_memWf (s : State) (h : Memory.wf s.mem = true) : OutWf (execParityArrival s) :=
  event3_memWf h (fun _ _ _ => State.parityArrival_memWf _ _ _ _ h)

theorem execFlitReplayArrival_memWf (s : State) (h : Memory.wf s.mem = true) : OutWf (execFlitReplayArrival s) :=
  eventFlit_memWf h (fun _ _ _ _ => State.replayArrival_memWf _ _ _ _ _ h)

theorem execFlitRecoveryTimeout_memWf (s : State) (h : Memory.wf s.mem = true) : OutWf (execFlitRecoveryTimeout s) :=
  event1_memWf h (fun _ => State.flitTimeout_memWf _ _ h)

theorem execParityRequest_memWf (s : State) (h : Memory.wf s.mem = true) : OutWf (execParityRequest s) :=
  event3_memWf h (fun _ _ _ => State.parityRequest_memWf _ _ _ _ h)

theorem execReplayRequest_memWf (s : State) (h : Memory.wf s.mem = true) : OutWf (execReplayRequest s) :=
  event2_memWf h (fun _ _ => State.replayRequest_memWf _ _ _ h)

theorem execFlitAck_memWf (s : State) (h : Memory.wf s.mem = true) : OutWf (execFlitAck s) :=
  event2_memWf h (fun _ _ => State.flitAck_memWf _ _ _ h)

theorem execLinkCreditReturn_memWf (s : State) (h : Memory.wf s.mem = true) : OutWf (execLinkCreditReturn s) :=
  event3_memWf h (fun _ _ _ => State.creditReturn_memWf _ _ _ _ h)

theorem execLinkTraining_memWf (s : State) (h : Memory.wf s.mem = true) : OutWf (execLinkTraining s) := by
  unfold execLinkTraining
  with_reducible repeat' first
    | assumption | apply event_memWf | apply State.linkTraining_memWf | exact OptWf.none | split

theorem execLinkTrainRetry_memWf (s : State) (h : Memory.wf s.mem = true) : OutWf (execLinkTrainRetry s) :=
  event1_memWf h (fun _ => State.trainRetry_memWf _ _ h)

theorem execFidExchange_memWf (s : State) (h : Memory.wf s.mem = true) : OutWf (execFidExchange s) :=
  event2_memWf h (fun _ _ => State.fidExchange_memWf _ _ _ h)

/-! ### Manage -/

theorem execRegisterWrite_memWf (s : State) (h : Memory.wf s.mem = true) : OutWf (execRegisterWrite s) := by
  unfold execRegisterWrite
  with_reducible repeat' first
    | assumption | apply event_memWf | apply State.barWrite_memWf | exact OptWf.none | split | apply OptWf.some

theorem execFabricIdWrite_memWf (s : State) (h : Memory.wf s.mem = true) : OutWf (execFabricIdWrite s) := by
  unfold execFabricIdWrite
  with_reducible repeat' first
    | assumption | apply event_memWf | apply State.writeFid_memWf | exact OptWf.none | split | apply OptWf.some

theorem execCxlMemAccess_memWf (s : State) (h : Memory.wf s.mem = true) : OutWf (execCxlMemAccess s) := by
  unfold execCxlMemAccess
  with_reducible repeat' first
    | assumption | apply event_memWf | apply State.cxlAccess_memWf | exact OptWf.none | split

theorem execPatrolScrub_memWf (s : State) (h : Memory.wf s.mem = true) : OutWf (execPatrolScrub s) := by
  unfold execPatrolScrub
  with_reducible repeat' first
    | assumption | apply event_memWf | apply State.patrol_memWf | exact OptWf.none | split | apply OptWf.some

theorem execCounterFlush_memWf (s : State) (h : Memory.wf s.mem = true) : OutWf (execCounterFlush s) :=
  event_memWf h (State.counterFlush_memWf _ h)

theorem execPowerThrottle_memWf (s : State) (h : Memory.wf s.mem = true) : OutWf (execPowerThrottle s) :=
  event2_memWf h (fun _ _ => State.throttle_memWf _ _ _ h)

theorem execPowerGood_memWf (s : State) (h : Memory.wf s.mem = true) : OutWf (execPowerGood s) :=
  event_memWf h (State.powerGood_memWf _ h)

theorem execFirmwareStart_memWf (s : State) (h : Memory.wf s.mem = true) : OutWf (execFirmwareStart s) := by
  unfold execFirmwareStart
  with_reducible repeat' first
    | assumption | apply event_memWf | apply State.firmwareStart_memWf | exact OptWf.none | split

theorem execHbmTrainingDone_memWf (s : State) (h : Memory.wf s.mem = true) : OutWf (execHbmTrainingDone s) :=
  event1_memWf h (fun _ => State.hbmTraining_memWf _ _ h)

theorem execCxlTrainingDone_memWf (s : State) (h : Memory.wf s.mem = true) : OutWf (execCxlTrainingDone s) :=
  eventB_memWf h (fun _ => State.cxlTraining_memWf _ _ h)

theorem execUmturTrainingDone_memWf (s : State) (h : Memory.wf s.mem = true) : OutWf (execUmturTrainingDone s) :=
  event_memWf h (State.umturTraining_memWf _ h)

theorem execStageTimeout_memWf (s : State) (h : Memory.wf s.mem = true) : OutWf (execStageTimeout s) :=
  event_memWf h (State.stageTimeout_memWf _ h)

theorem execReportCatalogue_memWf (s : State) (h : Memory.wf s.mem = true) : OutWf (execReportCatalogue s) :=
  event_memWf h (State.reportCatalogue_memWf _ h)

theorem execPartitionCreate_memWf (s : State) (h : Memory.wf s.mem = true) : OutWf (execPartitionCreate s) :=
  event_memWf h (State.partitionCreate_memWf _ h)

theorem execPartitionDestroy_memWf (s : State) (h : Memory.wf s.mem = true) : OutWf (execPartitionDestroy s) :=
  event_memWf h (State.partitionDestroy_memWf _ h)

theorem execDecoderProgram_memWf (s : State) (h : Memory.wf s.mem = true) : OutWf (execDecoderProgram s) := by
  unfold execDecoderProgram
  with_reducible repeat' first
    | assumption | apply event_memWf | apply State.decoderProgram_memWf | exact OptWf.none | split

theorem execIdeRequire_memWf (s : State) (h : Memory.wf s.mem = true) : OutWf (execIdeRequire s) := by
  unfold execIdeRequire
  with_reducible repeat' first
    | assumption | apply event_memWf | apply State.ideRequire_memWf | exact OptWf.none | split

theorem execImageWrite_memWf (s : State) (h : Memory.wf s.mem = true) : OutWf (execImageWrite s) := by
  unfold execImageWrite
  with_reducible repeat' first
    | assumption | apply event_memWf | apply State.imageWrite_memWf | exact OptWf.none | split

theorem execLinkRetrain_memWf (s : State) (h : Memory.wf s.mem = true) : OutWf (execLinkRetrain s) :=
  event_memWf h (State.linkRetrain_memWf _ h)

theorem execUnknownCommand_memWf (s : State) (h : Memory.wf s.mem = true) : OutWf (execUnknownCommand s) :=
  event_memWf h (State.unknownCmd_memWf _ h)

theorem execDoeRequest_memWf (s : State) (h : Memory.wf s.mem = true) : OutWf (execDoeRequest s) := by
  unfold execDoeRequest
  with_reducible repeat' first
    | assumption | apply event_memWf | apply State.doeRequest_memWf | exact OptWf.none | split | apply OptWf.some

theorem execPowerLoss_memWf (s : State) (h : Memory.wf s.mem = true) : OutWf (execPowerLoss s) :=
  eventB_memWf h (fun _ => OptWf.some (State.powerLoss_memWf _ _ h))

/-! ### Dispatch -/

theorem exec_memWf (i : Instr) (s : State) (h : Memory.wf s.mem = true) : OutWf (exec i s) :=
  match i with
  | .mov => meaning_memWf _ _ (intOp_memWf _ _ _) h
  | .movLong => meaning_memWf _ _ (intOp_memWf _ _ _) h
  | .iadd => meaning_memWf _ _ (intOp_memWf _ _ _) h
  | .iaddLong => meaning_memWf _ _ (intOp_memWf _ _ _) h
  | .isub => meaning_memWf _ _ (intOp_memWf _ _ _) h
  | .isubLong => meaning_memWf _ _ (intOp_memWf _ _ _) h
  | .imul => meaning_memWf _ _ (intOp_memWf _ _ _) h
  | .imulLong => meaning_memWf _ _ (intOp_memWf _ _ _) h
  | .imulh => meaning_memWf _ _ (intOp_memWf _ _ _) h
  | .imulhLong => meaning_memWf _ _ (intOp_memWf _ _ _) h
  | .imulhu => meaning_memWf _ _ (intOp_memWf _ _ _) h
  | .imulhuLong => meaning_memWf _ _ (intOp_memWf _ _ _) h
  | .imin => meaning_memWf _ _ (intOp_memWf _ _ _) h
  | .iminLong => meaning_memWf _ _ (intOp_memWf _ _ _) h
  | .imax => meaning_memWf _ _ (intOp_memWf _ _ _) h
  | .imaxLong => meaning_memWf _ _ (intOp_memWf _ _ _) h
  | .umin => meaning_memWf _ _ (intOp_memWf _ _ _) h
  | .uminLong => meaning_memWf _ _ (intOp_memWf _ _ _) h
  | .umax => meaning_memWf _ _ (intOp_memWf _ _ _) h
  | .umaxLong => meaning_memWf _ _ (intOp_memWf _ _ _) h
  | .and => meaning_memWf _ _ (intOp_memWf _ _ _) h
  | .andLong => meaning_memWf _ _ (intOp_memWf _ _ _) h
  | .or => meaning_memWf _ _ (intOp_memWf _ _ _) h
  | .orLong => meaning_memWf _ _ (intOp_memWf _ _ _) h
  | .xor => meaning_memWf _ _ (intOp_memWf _ _ _) h
  | .xorLong => meaning_memWf _ _ (intOp_memWf _ _ _) h
  | .andn => meaning_memWf _ _ (intOp_memWf _ _ _) h
  | .andnLong => meaning_memWf _ _ (intOp_memWf _ _ _) h
  | .shl => meaning_memWf _ _ (intOp_memWf _ _ _) h
  | .shlLong => meaning_memWf _ _ (intOp_memWf _ _ _) h
  | .shr => meaning_memWf _ _ (intOp_memWf _ _ _) h
  | .shrLong => meaning_memWf _ _ (intOp_memWf _ _ _) h
  | .sar => meaning_memWf _ _ (intOp_memWf _ _ _) h
  | .sarLong => meaning_memWf _ _ (intOp_memWf _ _ _) h
  | .shli => meaning_memWf _ _ (immOp_memWf _ _) h
  | .shliLong => meaning_memWf _ _ (immOp_memWf _ _) h
  | .shri => meaning_memWf _ _ (immOp_memWf _ _) h
  | .shriLong => meaning_memWf _ _ (immOp_memWf _ _) h
  | .sari => meaning_memWf _ _ (immOp_memWf _ _) h
  | .sariLong => meaning_memWf _ _ (immOp_memWf _ _) h
  | .rotl => meaning_memWf _ _ (intOp_memWf _ _ _) h
  | .rotlLong => meaning_memWf _ _ (intOp_memWf _ _ _) h
  | .popc => meaning_memWf _ _ (intOp_memWf _ _ _) h
  | .popcLong => meaning_memWf _ _ (intOp_memWf _ _ _) h
  | .clz => meaning_memWf _ _ (intOp_memWf _ _ _) h
  | .clzLong => meaning_memWf _ _ (intOp_memWf _ _ _) h
  | .brev => meaning_memWf _ _ (intOp_memWf _ _ _) h
  | .brevLong => meaning_memWf _ _ (intOp_memWf _ _ _) h
  | .iabs => meaning_memWf _ _ (intOp_memWf _ _ _) h
  | .iabsLong => meaning_memWf _ _ (intOp_memWf _ _ _) h
  | .ineg => meaning_memWf _ _ (intOp_memWf _ _ _) h
  | .inegLong => meaning_memWf _ _ (intOp_memWf _ _ _) h
  | .iaddi => meaning_memWf _ _ (immOp_memWf _ _) h
  | .iaddiLong => meaning_memWf _ _ (immOp_memWf _ _) h
  | .sh2add => meaning_memWf _ _ (intOp_memWf _ _ _) h
  | .sh2addLong => meaning_memWf _ _ (intOp_memWf _ _ _) h
  | .sh3add => meaning_memWf _ _ (intOp_memWf _ _ _) h
  | .sh3addLong => meaning_memWf _ _ (intOp_memWf _ _ _) h
  | .pack2 => meaning_memWf _ _ (intOp_memWf _ _ _) h
  | .pack2Long => meaning_memWf _ _ (intOp_memWf _ _ _) h
  | .fadd => meaning_memWf _ _ (fpOp_memWf _ _ _ _) h
  | .faddLong => meaning_memWf _ _ (fpOp_memWf _ _ _ _) h
  | .fsub => meaning_memWf _ _ (fpOp_memWf _ _ _ _) h
  | .fsubLong => meaning_memWf _ _ (fpOp_memWf _ _ _ _) h
  | .fmul => meaning_memWf _ _ (fpOp_memWf _ _ _ _) h
  | .fmulLong => meaning_memWf _ _ (fpOp_memWf _ _ _ _) h
  | .fmin => meaning_memWf _ _ (fpOp_memWf _ _ _ _) h
  | .fminLong => meaning_memWf _ _ (fpOp_memWf _ _ _ _) h
  | .fmax => meaning_memWf _ _ (fpOp_memWf _ _ _ _) h
  | .fmaxLong => meaning_memWf _ _ (fpOp_memWf _ _ _ _) h
  | .fabs => meaning_memWf _ _ (fpOp_memWf _ _ _ _) h
  | .fabsLong => meaning_memWf _ _ (fpOp_memWf _ _ _ _) h
  | .fneg => meaning_memWf _ _ (fpOp_memWf _ _ _ _) h
  | .fnegLong => meaning_memWf _ _ (fpOp_memWf _ _ _ _) h
  | .frcp => meaning_memWf _ _ (fpOp_memWf _ _ _ _) h
  | .frcpLong => meaning_memWf _ _ (fpOp_memWf _ _ _ _) h
  | .frsq => meaning_memWf _ _ (fpOp_memWf _ _ _ _) h
  | .frsqLong => meaning_memWf _ _ (fpOp_memWf _ _ _ _) h
  | .fsqrt => meaning_memWf _ _ (fpOp_memWf _ _ _ _) h
  | .fsqrtLong => meaning_memWf _ _ (fpOp_memWf _ _ _ _) h
  | .fexp2 => meaning_memWf _ _ (fpOp_memWf _ _ _ _) h
  | .fexp2Long => meaning_memWf _ _ (fpOp_memWf _ _ _ _) h
  | .flog2 => meaning_memWf _ _ (fpOp_memWf _ _ _ _) h
  | .flog2Long => meaning_memWf _ _ (fpOp_memWf _ _ _ _) h
  | .fsinpi => meaning_memWf _ _ (fpOp_memWf _ _ _ _) h
  | .fsinpiLong => meaning_memWf _ _ (fpOp_memWf _ _ _ _) h
  | .fcospi => meaning_memWf _ _ (fpOp_memWf _ _ _ _) h
  | .fcospiLong => meaning_memWf _ _ (fpOp_memWf _ _ _ _) h
  | .ftanh => meaning_memWf _ _ (fpOp_memWf _ _ _ _) h
  | .ftanhLong => meaning_memWf _ _ (fpOp_memWf _ _ _ _) h
  | .fclass => meaning_memWf _ _ (fpOp_memWf _ _ _ _) h
  | .fclassLong => meaning_memWf _ _ (fpOp_memWf _ _ _ _) h
  | .hadd2 => meaning_memWf _ _ (fpOp_memWf _ _ _ _) h
  | .hadd2Long => meaning_memWf _ _ (fpOp_memWf _ _ _ _) h
  | .hmul2 => meaning_memWf _ _ (fpOp_memWf _ _ _ _) h
  | .hmul2Long => meaning_memWf _ _ (fpOp_memWf _ _ _ _) h
  | .badd2 => meaning_memWf _ _ (fpOp_memWf _ _ _ _) h
  | .badd2Long => meaning_memWf _ _ (fpOp_memWf _ _ _ _) h
  | .bmul2 => meaning_memWf _ _ (fpOp_memWf _ _ _ _) h
  | .bmul2Long => meaning_memWf _ _ (fpOp_memWf _ _ _ _) h
  | .i2f => meaning_memWf _ _ (cvtOp_memWf _ _) h
  | .f2i => meaning_memWf _ _ (cvtOp_memWf _ _) h
  | .ffrac => meaning_memWf _ _ (fpOp_memWf _ _ _ _) h
  | .ffracLong => meaning_memWf _ _ (fpOp_memWf _ _ _ _) h
  | .ffloor => meaning_memWf _ _ (fpOp_memWf _ _ _ _) h
  | .ffloorLong => meaning_memWf _ _ (fpOp_memWf _ _ _ _) h
  | .fceil => meaning_memWf _ _ (fpOp_memWf _ _ _ _) h
  | .fceilLong => meaning_memWf _ _ (fpOp_memWf _ _ _ _) h
  | .frint => meaning_memWf _ _ (fpOp_memWf _ _ _ _) h
  | .frintLong => meaning_memWf _ _ (fpOp_memWf _ _ _ _) h
  | .fscale => meaning_memWf _ _ (fpOp_memWf _ _ _ _) h
  | .fscaleLong => meaning_memWf _ _ (fpOp_memWf _ _ _ _) h
  | .bra => meaning_memWf _ _ (braOp_memWf _) h
  | .braLong => meaning_memWf _ _ (braOp_memWf _) h
  | .brx => meaning_memWf _ _ (brxOp_memWf _) h
  | .brxLong => meaning_memWf _ _ (brxOp_memWf _) h
  | .ret => meaning_memWf _ _ (retOp_memWf _) h
  | .retLong => meaning_memWf _ _ (retOp_memWf _) h
  | .exit => meaning_memWf _ _ (exitOp_memWf _) h
  | .exitLong => meaning_memWf _ _ (exitOp_memWf _) h
  | .yield => meaning_memWf _ _ (yieldOp_memWf _) h
  | .yieldLong => meaning_memWf _ _ (yieldOp_memWf _) h
  | .meet => meaning_memWf _ _ (meetOp_memWf _) h
  | .meetLong => meaning_memWf _ _ (meetOp_memWf _) h
  | .nop => meaning_memWf _ _ (nopOp_memWf _) h
  | .nopLong => meaning_memWf _ _ (nopOp_memWf _) h
  | .bkpt => meaning_memWf _ _ (bkptOp_memWf _) h
  | .bkptLong => meaning_memWf _ _ (bkptOp_memWf _) h
  | .ldsW => meaning_memWf _ _ (ldsOp_memWf _ _ _ _ _) h
  | .ldsWLong => meaning_memWf _ _ (ldsOp_memWf _ _ _ _ _) h
  | .stsW => meaning_memWf _ _ (stsOp_memWf _ _ _ _ _ _ _ _) h
  | .stsWLong => meaning_memWf _ _ (stsOp_memWf _ _ _ _ _ _ _ _) h
  | .ldsD => meaning_memWf _ _ (ldsOp_memWf _ _ _ _ _) h
  | .ldsDLong => meaning_memWf _ _ (ldsOp_memWf _ _ _ _ _) h
  | .stsD => meaning_memWf _ _ (stsOp_memWf _ _ _ _ _ _ _ _) h
  | .stsDLong => meaning_memWf _ _ (stsOp_memWf _ _ _ _ _ _ _ _) h
  | .pld => meaning_memWf _ _ (pldOp_memWf _) h
  | .pldLong => meaning_memWf _ _ (pldOp_memWf _) h
  | .imad => meaning_memWf _ _ (intOp_memWf _ _ _) h
  | .imad64 => meaning_memWf _ _ (intOpX_memWf _ _ _) h
  | .iadd64 => meaning_memWf _ _ (intOp_memWf _ _ _) h
  | .isub64 => meaning_memWf _ _ (intOp_memWf _ _ _) h
  | .imulw => meaning_memWf _ _ (intOpX_memWf _ _ _) h
  | .icmpf => meaning_memWf _ _ icmpfOp_memWf h
  | .pick => meaning_memWf _ _ pickOp_memWf h
  | .bfget => meaning_memWf _ _ (intOpX_memWf _ _ _) h
  | .bfput => meaning_memWf _ _ (intOp_memWf _ _ _) h
  | .bysel => meaning_memWf _ _ (intOp_memWf _ _ _) h
  | .idiv => meaning_memWf _ _ (intOp_memWf _ _ _) h
  | .udiv => meaning_memWf _ _ (intOp_memWf _ _ _) h
  | .irem => meaning_memWf _ _ (intOp_memWf _ _ _) h
  | .urem => meaning_memWf _ _ (intOp_memWf _ _ _) h
  | .isad => meaning_memWf _ _ (intOpX_memWf _ _ _) h
  | .movi => meaning_memWf _ _ moviOp_memWf h
  | .funnel => meaning_memWf _ _ (intOpX_memWf _ _ _) h
  | .iadds => meaning_memWf _ _ (intOpX_memWf _ _ _) h
  | .isubs => meaning_memWf _ _ (intOpX_memWf _ _ _) h
  | .movpGet => meaning_memWf _ _ movpGetOp_memWf h
  | .movpPut => meaning_memWf _ _ movpPutOp_memWf h
  | .flut => meaning_memWf _ _ flutOp_memWf h
  | .ffma => meaning_memWf _ _ (fpOp_memWf _ _ _ _) h
  | .fcmpf => meaning_memWf _ _ (fcmpOp_memWf _ _ _ _) h
  | .fdiv => meaning_memWf _ _ (fpOp_memWf _ _ _ _) h
  | .dadd => meaning_memWf _ _ (fpOp_memWf _ _ _ _) h
  | .dsub => meaning_memWf _ _ (fpOp_memWf _ _ _ _) h
  | .dmul => meaning_memWf _ _ (fpOp_memWf _ _ _ _) h
  | .dfma => meaning_memWf _ _ (fpOp_memWf _ _ _ _) h
  | .dcmpf => meaning_memWf _ _ (fcmpOp_memWf _ _ _ _) h
  | .ddiv => meaning_memWf _ _ (fpOp_memWf _ _ _ _) h
  | .dsqrt => meaning_memWf _ _ (fpOp_memWf _ _ _ _) h
  | .dmin => meaning_memWf _ _ (fpOp_memWf _ _ _ _) h
  | .dmax => meaning_memWf _ _ (fpOp_memWf _ _ _ _) h
  | .dclass => meaning_memWf _ _ (fpOp_memWf _ _ _ _) h
  | .hfma2 => meaning_memWf _ _ (fpOp_memWf _ _ _ _) h
  | .bfma2 => meaning_memWf _ _ (fpOp_memWf _ _ _ _) h
  | .fcvt => meaning_memWf _ _ (cvtOp_memWf _ _) h
  | .fchk => meaning_memWf _ _ fchkOp_memWf h
  | .xshuf => meaning_memWf _ _ (jointOp_memWf _) h
  | .xbcast => meaning_memWf _ _ (jointOp_memWf _) h
  | .xpoll => meaning_memWf _ _ (jointOp_memWf _) h
  | .xred => meaning_memWf _ _ (jointOp_memWf _) h
  | .xscan => meaning_memWf _ _ (jointOp_memWf _) h
  | .xmatch => meaning_memWf _ _ (jointOp_memWf _) h
  | .xsync => meaning_memWf _ _ (jointOp_memWf _) h
  | .xcompact => meaning_memWf _ _ (jointOp_memWf _) h
  | .rebal => meaning_memWf _ _ (jointOp_memWf _) h
  | .ssi => meaning_memWf _ _ (jointOp_memWf _) h
  | .hacc => meaning_memWf _ _ haccOp_memWf h
  | .hfind => meaning_memWf _ _ hfindOp_memWf h
  | .call => meaning_memWf _ _ callOp_memWf h
  | .beos => meaning_memWf _ _ beosOp_memWf h
  | .trap => meaning_memWf _ _ trapOp_memWf h
  | .waitw => meaning_memWf _ _ waitwOp_memWf h
  | .sleep => meaning_memWf _ _ sleepOp_memWf h
  | .meetr => meaning_memWf _ _ meetrOp_memWf h
  | .heart => meaning_memWf _ _ heartOp_memWf h
  | .lds => meaning_memWf _ _ (ldsOp_memWf _ _ _ _ _) h
  | .sts => meaning_memWf _ _ (stsOp_memWf _ _ _ _ _ _ _ _) h
  | .atoms => meaning_memWf _ _ atomsOp_memWf h
  | .reds => meaning_memWf _ _ (stsOp_memWf _ _ _ _ _ _ _ _) h
  | .lq => meaning_memWf _ _ lqOp_memWf h
  | .lqg => meaning_memWf _ _ lqgOp_memWf h
  | .lql => meaning_memWf _ _ lqlOp_memWf h
  | .sq => meaning_memWf _ _ (sqOp_memWf _ _) h
  | .sqs => meaning_memWf _ _ sqsOp_memWf h
  | .pfx => meaning_memWf _ _ pfxOp_memWf h
  | .ldsc => meaning_memWf _ _ ldscOp_memWf h
  | .stsc => meaning_memWf _ _ stscOp_memWf h
  | .atq => meaning_memWf _ _ atqOp_memWf h
  | .redq => meaning_memWf _ _ (sqOp_memWf _ _) h
  | .qbind => meaning_memWf _ _ (stripOp_memWf _) h
  | .qunbind => meaning_memWf _ _ (stripOp_memWf _) h
  | .pat => meaning_memWf _ _ (stripOp_memWf _) h
  | .patgo => meaning_memWf _ _ (stripOp_memWf _) h
  | .qstat => meaning_memWf _ _ qstatOp_memWf h
  | .qskip => meaning_memWf _ _ (skipOp_memWf _ _) h
  | .qdrain => meaning_memWf _ _ (skipOp_memWf _ _) h
  | .qeos => meaning_memWf _ _ (stripOp_memWf _) h
  | .copy => meaning_memWf _ _ copyOp_memWf h
  | .cstat => meaning_memWf _ _ cstatOp_memWf h
  | .arrwInit => meaning_memWf _ _ (arrwOp_memWf _ _ _) h
  | .arrwAdd => meaning_memWf _ _ (arrwOp_memWf _ _ _) h
  | .arrwTgt => meaning_memWf _ _ (arrwOp_memWf _ _ _) h
  | .await => meaning_memWf _ _ awaitOp_memWf h
  | .shdw => meaning_memWf _ _ (pubOp_memWf _ _) h
  | .publ => meaning_memWf _ _ (pubOp_memWf _ _) h
  | .msg => meaning_memWf _ _ msgOp_memWf h
  | .nred => meaning_memWf _ _ nredOp_memWf h
  | .wdq => meaning_memWf _ _ wdqOp_memWf h
  | .fence => meaning_memWf _ _ fenceOp_memWf h
  | .barWait => meaning_memWf _ _ (barOp_memWf _ _) h
  | .barArr => meaning_memWf _ _ (barOp_memWf _ _) h
  | .cbar => meaning_memWf _ _ (wideBarOp_memWf _ _ _) h
  | .gbar => meaning_memWf _ _ (wideBarOp_memWf _ _ _) h
  | .sems => meaning_memWf _ _ (semSetOp_memWf _ _) h
  | .semi => meaning_memWf _ _ (semSetOp_memWf _ _) h
  | .semwk => meaning_memWf _ _ semwkOp_memWf h
  | .macq => meaning_memWf _ _ macqOp_memWf h
  | .mrel => meaning_memWf _ _ mrelOp_memWf h
  | .gang => meaning_memWf _ _ gangOp_memWf h
  | .mma => meaning_memWf _ _ mmaOp_memWf h
  | .mldw => meaning_memWf _ _ (xferOp_memWf _) h
  | .mldt => meaning_memWf _ _ (xferOp_memWf _) h
  | .mstt => meaning_memWf _ _ (xferOp_memWf _) h
  | .mlda => meaning_memWf _ _ (xferOp_memWf _) h
  | .msta => meaning_memWf _ _ (xferOp_memWf _) h
  | .mzero => meaning_memWf _ _ mzeroOp_memWf h
  | .mrd => meaning_memWf _ _ mrdOp_memWf h
  | .mwr => meaning_memWf _ _ mwrOp_memWf h
  | .mwait => meaning_memWf _ _ mwaitOp_memWf h
  | .mcfg => meaning_memWf _ _ mcfgOp_memWf h
  | .tmv => meaning_memWf _ _ (tmvOp_memWf _ _ _) h
  | .tmva => meaning_memWf _ _ (tmvOp_memWf _ _ _) h
  | .tmvt => meaning_memWf _ _ (tmvOp_memWf _ _ _) h
  | .pldv => meaning_memWf _ _ pldvOp_memWf h
  | .pstb => meaning_memWf _ _ pstbOp_memWf h
  | .rlq => meaning_memWf _ _ rlqOp_memWf h
  | .rldw => meaning_memWf _ _ rldwOp_memWf h
  | .rst => meaning_memWf _ _ rstOp_memWf h
  | .rfence => meaning_memWf _ _ rfenceOp_memWf h
  | .ladle => meaning_memWf _ _ (ladleOp_memWf _ _) h
  | .lstat => meaning_memWf _ _ lstatOp_memWf h
  | .labort => meaning_memWf _ _ labortOp_memWf h
  | .lresume => meaning_memWf _ _ (ladleOp_memWf _ _) h
  | .ratom => meaning_memWf _ _ ratomOp_memWf h
  | .launch => meaning_memWf _ _ (launchOp_memWf _ _) h
  | .launchi => meaning_memWf _ _ (launchOp_memWf _ _) h
  | .semw => meaning_memWf _ _ semwOp_memWf h
  | .semset => meaning_memWf _ _ (semPutOp_memWf _ _) h
  | .seminc => meaning_memWf _ _ (semPutOp_memWf _ _) h
  | .irq => meaning_memWf _ _ irqOp_memWf h
  | .jmpq => meaning_memWf _ _ jmpqOp_memWf h
  | .callq => meaning_memWf _ _ callqOp_memWf h
  | .retq => meaning_memWf _ _ retqOp_memWf h
  | .waitg => meaning_memWf _ _ waitgOp_memWf h
  | .fenceq => meaning_memWf _ _ fenceqOp_memWf h
  | .haltq => meaning_memWf _ _ (exitOp_memWf _) h
  | .kickq => meaning_memWf _ _ kickqOp_memWf h
  | .movsRead => meaning_memWf _ _ movsReadOp_memWf h
  | .movsWrite => meaning_memWf _ _ movsWriteOp_memWf h
  | .rdsys => meaning_memWf _ _ rdsysOp_memWf h
  | .wrsys => meaning_memWf _ _ wrsysOp_memWf h
  | .wbr => meaning_memWf _ _ wbrOp_memWf h
  | .invr => meaning_memWf _ _ invrOp_memWf h
  | .resumetWreg => meaning_memWf _ _ (resumetOp_memWf _ _) h
  | .resumetRetry => meaning_memWf _ _ (resumetOp_memWf _ _) h
  | .resumetSkip => meaning_memWf _ _ (resumetOp_memWf _ _) h
  | .resumetRepl => meaning_memWf _ _ (resumetOp_memWf _ _) h
  | .resumetJump => meaning_memWf _ _ (resumetOp_memWf _ _) h
  | .resumetKill => meaning_memWf _ _ (resumetOp_memWf _ _) h
  | .kick => execKick_memWf s h
  | .engineEnable => execEngineEnable_memWf s h
  | .engineDisable => execEngineDisable_memWf s h
  | .ringPacket => execRingPacket_memWf s h
  | .ringIdleTimeout => execRingIdleTimeout_memWf s h
  | .registerWrite => execRegisterWrite_memWf s h
  | .firmwareProposal => execFirmwareProposal_memWf s h
  | .dispatchReserve => execDispatchReserve_memWf s h
  | .reserve => execReserve_memWf s h
  | .reserveAnswer => execReserveAnswer_memWf s h
  | .commit => execCommit_memWf s h
  | .release => execRelease_memWf s h
  | .backoffExpiry => execBackoffExpiry_memWf s h
  | .teamStart => execTeamStart_memWf s h
  | .slotFree => execSlotFree_memWf s h
  | .gridComplete => execGridComplete_memWf s h
  | .stripRegisterFree => execStripRegisterFree_memWf s h
  | .regpoolStall => execRegpoolStall_memWf s h
  | .portSlotDeliver => execPortSlotDeliver_memWf s h
  | .patternEngineStep => execPatternEngineStep_memWf s h
  | .decoupleTimeout => execDecoupleTimeout_memWf s h
  | .stripOperation => execStripOperation_memWf s h
  | .meetingRelease => execMeetingRelease_memWf s h
  | .jointPerform => execJointPerform_memWf s h
  | .barrierPhaseComplete => execBarrierPhaseComplete_memWf s h
  | .cohortBarrierRelease => execCohortBarrierRelease_memWf s h
  | .gridBarrierRelease => execGridBarrierRelease_memWf s h
  | .sleepExpiry => execSleepExpiry_memWf s h
  | .waitwRepoll => execWaitwRepoll_memWf s h
  | .semaphoreWaitSatisfied => execSemaphoreWaitSatisfied_memWf s h
  | .sliceRequest => execSliceRequest_memWf s h
  | .replayReinject => execReplayReinject_memWf s h
  | .walkRequest => execWalkRequest_memWf s h
  | .faultRecordPost => execFaultRecordPost_memWf s h
  | .memoryReply => execMemoryReply_memWf s h
  | .storeAck => execStoreAck_memWf s h
  | .domainSwitchComplete => execDomainSwitchComplete_memWf s h
  | .cxlMemAccess => execCxlMemAccess_memWf s h
  | .backInvalidateResponse => execBackInvalidateResponse_memWf s h
  | .publExchange => execPublExchange_memWf s h
  | .copyProgress => execCopyProgress_memWf s h
  | .copyComplete => execCopyComplete_memWf s h
  | .msgArrival => execMsgArrival_memWf s h
  | .msgDeliver => execMsgDeliver_memWf s h
  | .nredContribution => execNredContribution_memWf s h
  | .wdqAnswer => execWdqAnswer_memWf s h
  | .engineGrant => execEngineGrant_memWf s h
  | .latchRelease => execLatchRelease_memWf s h
  | .mmaChunkCommit => execMmaChunkCommit_memWf s h
  | .mmaComplete => execMmaComplete_memWf s h
  | .matrixQueueOp => execMatrixQueueOp_memWf s h
  | .matrixTransferComplete => execMatrixTransferComplete_memWf s h
  | .kettleBeatPeriod => execKettleBeatPeriod_memWf s h
  | .kettleIdleLimit => execKettleIdleLimit_memWf s h
  | .kettleFire => execKettleFire_memWf s h
  | .messageProbeTimeout => execMessageProbeTimeout_memWf s h
  | .escapeStep => execEscapeStep_memWf s h
  | .trapRecordPost => execTrapRecordPost_memWf s h
  | .rangeRegisterCommit => execRangeRegisterCommit_memWf s h
  | .domainCommit => execDomainCommit_memWf s h
  | .exportCommit => execExportCommit_memWf s h
  | .ptrootWrite => execPtrootWrite_memWf s h
  | .contextCreate => execContextCreate_memWf s h
  | .contextDestroy => execContextDestroy_memWf s h
  | .faultRingSet => execFaultRingSet_memWf s h
  | .frheadWrite => execFrheadWrite_memWf s h
  | .trapRingSet => execTrapRingSet_memWf s h
  | .trheadWrite => execTrheadWrite_memWf s h
  | .saveAreaSet => execSaveAreaSet_memWf s h
  | .preemptRequest => execPreemptRequest_memWf s h
  | .saveComplete => execSaveComplete_memWf s h
  | .lateReply => execLateReply_memWf s h
  | .restoreRequest => execRestoreRequest_memWf s h
  | .restoreComplete => execRestoreComplete_memWf s h
  | .contextKill => execContextKill_memWf s h
  | .killComplete => execKillComplete_memWf s h
  | .controlStateError => execControlStateError_memWf s h
  | .patrolScrub => execPatrolScrub_memWf s h
  | .counterFlush => execCounterFlush_memWf s h
  | .powerThrottle => execPowerThrottle_memWf s h
  | .flitReceive => execFlitReceive_memWf s h
  | .parityArrival => execParityArrival_memWf s h
  | .flitReplayArrival => execFlitReplayArrival_memWf s h
  | .flitRecoveryTimeout => execFlitRecoveryTimeout_memWf s h
  | .parityRequest => execParityRequest_memWf s h
  | .replayRequest => execReplayRequest_memWf s h
  | .flitAck => execFlitAck_memWf s h
  | .linkTraining => execLinkTraining_memWf s h
  | .linkTrainRetry => execLinkTrainRetry_memWf s h
  | .fabricPacketForward => execFabricPacketForward_memWf s h
  | .remoteRequestArrival => execRemoteRequestArrival_memWf s h
  | .parkNotice => execParkNotice_memWf s h
  | .remoteReply => execRemoteReply_memWf s h
  | .remoteTimeout => execRemoteTimeout_memWf s h
  | .scaleOutRma => execScaleOutRma_memWf s h
  | .ladleChunkArrival => execLadleChunkArrival_memWf s h
  | .ladleChunkAnswer => execLadleChunkAnswer_memWf s h
  | .ladleBusyRetry => execLadleBusyRetry_memWf s h
  | .ladleDone => execLadleDone_memWf s h
  | .ladleCommit => execLadleCommit_memWf s h
  | .ladlePublished => execLadlePublished_memWf s h
  | .ladleFinished => execLadleFinished_memWf s h
  | .fabricIdWrite => execFabricIdWrite_memWf s h
  | .powerGood => execPowerGood_memWf s h
  | .firmwareStart => execFirmwareStart_memWf s h
  | .hbmTrainingDone => execHbmTrainingDone_memWf s h
  | .cxlTrainingDone => execCxlTrainingDone_memWf s h
  | .umturTrainingDone => execUmturTrainingDone_memWf s h
  | .stageTimeout => execStageTimeout_memWf s h
  | .reportCatalogue => execReportCatalogue_memWf s h
  | .partitionCreate => execPartitionCreate_memWf s h
  | .partitionDestroy => execPartitionDestroy_memWf s h
  | .decoderProgram => execDecoderProgram_memWf s h
  | .ideRequire => execIdeRequire_memWf s h
  | .imageWrite => execImageWrite_memWf s h
  | .linkRetrain => execLinkRetrain_memWf s h
  | .powerLoss => execPowerLoss_memWf s h
  | .linkCreditReturn => execLinkCreditReturn_memWf s h
  | .pstbComplete => execPstbComplete_memWf s h
  | .shdwComplete => execShdwComplete_memWf s h
  | .doeRequest => execDoeRequest_memWf s h
  | .unknownCommand => execUnknownCommand_memWf s h
  | .fidExchange => execFidExchange_memWf s h

/-! ### Run -/

theorem State.tryNext_memWf (s : State) (u : Agent) {k : Insn → State → State} (h : Memory.wf s.mem = true)
    (hk : ∀ i r, Memory.wf r.mem = true → Memory.wf (k i r).mem = true) : OutWf (s.tryNext u k) := by
  unfold State.tryNext
  have hn := State.next_memWf s u h
  split
  · exact OutWf.next h
  · next e => exact OutWf.next (hn.done e)
  · next i t e =>
    have he := exec_memWf i.op t (hn.run e)
    split
    · next e' => exact OutWf.next (hk _ _ (he.elim e'))
    · exact he

theorem State.issue_memWf (s : State) (u : Agent) (h : Memory.wf s.mem = true) : OutWf (State.issue s u) := by
  unfold State.issue
  with_reducible repeat' first
    | assumption | apply State.tryNext_memWf | apply State.issued_memWf | split | apply OutWf.next | intro _

theorem State.attempt_memWf (s : State) (u : Agent) (h : Memory.wf s.mem = true) : OutWf (State.attempt s u) := by
  unfold State.attempt
  with_reducible repeat' first
    | assumption | apply State.tryNext_memWf | apply State.found_memWf | split | apply OutWf.next | intro _

theorem State.choose_memWf (s : State) (c : Choice) (h : Memory.wf s.mem = true) : OutWf (State.choose s c) := by
  unfold State.choose
  with_reducible repeat' first
    | assumption | apply exec_memWf | apply State.issue_memWf | apply State.attempt_memWf | apply State.drain_memWf
    | apply State.dropSector_memWf | apply State.modCore_memWf | apply State.strike_memWf | apply State.noteStrike_memWf
    | apply State.parityL1_memWf | apply State.parityI_memWf | apply State.parityWalk_memWf | apply State.modMgmt_memWf
    | apply State.clock_memWf | split | apply OptWf.getD | apply OutWf.next

theorem State.advanceOnce_memWf (s : State) (h : Memory.wf s.mem = true) : OutWf (State.advanceOnce s) := by
  unfold State.advanceOnce
  with_reducible repeat' first
    | assumption | apply State.choose_memWf | split | apply OutWf.next

/-! ### Step -/

theorem step_memWf (s : State) (h : Memory.wf s.mem = true) : OutWf (step s) :=
  State.advanceOnce_memWf _ h

end Sys2Proof.Machine
end

section
open Sys2Proof Machine

/-- Settles O59: `step` is `advanceOnce`, and every function under it hands on a memory as canonical as the one it was given. -/
theorem stepKeepsMemory : Obligations.StepKeepsMemory := by
  unfold Obligations.StepKeepsMemory
  intro s t hs h
  exact step_memWf s hs t h

end

section
open Sys2Proof Machine

/-- Settles O60: reset lists no context, engine, slot or link, so each reads as its record's default. -/
theorem resetLeaves : Obligations.ResetLeaves := by
  unfold Obligations.ResetLeaves
  refine ⟨rfl, rfl, rfl, rfl, rfl, rfl, rfl, rfl, rfl, rfl, rfl, rfl, rfl, rfl, rfl, rfl, rfl, rfl, fun c => ?_, fun n => ?_,
    fun i => rfl, fun n => rfl⟩
  · exact ⟨rfl, rfl, rfl, rfl, rfl, rfl, rfl, rfl, rfl, rfl, rfl, rfl⟩
  · have hrec : (core.reset : State).engineRec n = {} := rfl
    refine ⟨rfl, rfl, rfl, rfl, fun k hk => ?_⟩
    interval_cases k <;> simp [State.readEngineReg, hrec]

end
section
/-! SUPPORT. What a choice of the agenda makes of a unit: the instruction its fetch gives, run once, or nothing. -/

namespace Sys2Proof.Machine

variable {s t : State} {u : Agent} {rest : List Choice} {w0 : W32} {i : Insn}

theorem step_of_issue (h : s.agenda = .issue u :: rest) : step s = ({ s with agenda := rest } : State).issue u := by
  simp [step, State.advanceOnce, h, State.choose]

theorem step_of_attempt (h : s.agenda = .attempt u :: rest) : step s = ({ s with agenda := rest } : State).attempt u := by
  simp [step, State.advanceOnce, h, State.choose]

theorem State.canIssue_of_mayIssue (h : s.mayIssue u = true) : s.canIssue u = true := by
  simp only [State.mayIssue, Bool.and_eq_true] at h
  exact h.1

/-- The instruction that runs next is the fetched one, unless a block operation of an access thread is under way. -/
theorem State.next_of_fetchInsn (hcan : s.canIssue u = true) (hmeet : s.atMeeting u = false)
    (hblk : ∀ tm sp, u = .ap tm sp → ∀ x, s.aps.find (stripKey tm sp) = some x → x.blk = none)
    (hf : fetchInsn { s with cur := some u } = .ok ((w0, .ok i), t)) : s.next u = .run i { t with ir := i.args } := by
  simp only [State.next, hcan, hmeet, Bool.not_true, Bool.false_eq_true, if_false, hf]
  cases u with
  | ap tm sp =>
    have hpend : ((s.aps.find (stripKey tm sp)).bind fun x => x.blk.map (·.insn)) = none := by
      cases hx : s.aps.find (stripKey tm sp) with
      | none => rfl
      | some x => simp [hblk tm sp rfl x hx]
    simp only [hpend]
  | ex _ _ => rfl
  | qe _ => rfl

theorem State.endPacket_of_turnful (h : s.turnless u = false) (r : State) : r.endPacket u = r := by
  cases u with
  | qe n => simp [State.turnless, sideOf] at h
  | ex _ _ => rfl
  | ap _ _ => rfl

/-! ### The fetch of a thread -/

section Fetch
variable {c : Ctl} {k : Nat} {w : W32}

/-- A word that the instruction cache holds, at an address that may be executed, is fetched and changes nothing. -/
theorem fetchWord_run {va : Nat} (hcur : s.cur = some u) (hq : ∀ q, u ≠ .qe q) (hk : s.coreOf u = some k) (hva : va < 2 ^ 64)
    (htr : (translate (s.context (s.ctxOf u)) va .ex).isOk = true)
    (hw : (s.core k).icache.find (icKey (sideOf u) (s.ctxOf u) va) = some w) : fetchWord va s = .ok (w, s) := by
  have hcore : fetchWord va s = fetchCore (va % 2 ^ 64) s := by
    cases u with
    | qe q => exact absurd rfl (hq q)
    | ex _ _ => simp [fetchWord, M.bind_run, M.unit_run hcur]
    | ap _ _ => simp [fetchWord, M.bind_run, M.unit_run hcur]
  rw [hcore, Nat.mod_eq_of_lt hva]
  cases htr' : translate (s.context (s.ctxOf u)) va .ex with
  | error e => rw [htr'] at htr; cases htr
  | ok x => simp [fetchCore, M.bind_run, M.unit_run hcur, hk, htr', orTrap, hw]

theorem State.packetLeft_of_thread (hq : ∀ q, u ≠ .qe q) : s.packetLeft u = none := by
  cases u with
  | qe q => exact absurd rfl (hq q)
  | ex _ _ => rfl
  | ap _ _ => rfl

/-- The length code of a word counts the words of its instruction, and there are at most three. -/
theorem word0Check_bounds {n : Nat} (h : word0Check w = .ok n) : 1 ≤ n ∧ n ≤ 3 := by
  simp only [word0Check] at h
  split at h
  · cases h
  · split at h
    · split at h
      · cases h
      · cases h; omega
    · split at h
      · cases h
      · split at h <;> cases h
        omega

end Fetch

end Sys2Proof.Machine
end

section
open Sys2Proof Machine

/-- Settles O4. A turn and a try come to the same run of the fetched instruction; a fetch reads as many words as word0 says. -/
theorem stepRunsDecodedInstruction : Obligations.StepRunsDecodedInstruction := by
  unfold Obligations.StepRunsDecodedInstruction
  refine ⟨?_, ?_, ?_⟩
  · intro s t u rest w0 i z hag hmeet hblk hf
    have hcan : z.canIssue u = true := by
      rcases hag with ⟨-, h⟩ | ⟨-, h, -⟩
      · exact State.canIssue_of_mayIssue h
      · exact h
    have hnext : z.next u = .run i { t with ir := i.args } := by
      refine State.next_of_fetchInsn hcan hmeet ?_ hf
      rintro tm sp rfl
      exact hblk
    rcases hag with ⟨hag, hmay⟩ | ⟨hag, -, hready, hturn⟩
    · have hstep : step s = z.tryNext u (z.issued u) := by
        simp only [step_of_issue hag, State.issue, z, hmay, Bool.not_true, Bool.false_eq_true, if_false]
      simp only [hstep, State.tryNext, hnext]
      have hnow : z.now = s.now := rfl
      clear_value z
      generalize exec i.op { t with ir := i.args } = x
      cases x with
      | next r => simp only [State.issued, State.found, hag, hnow, true_and]
      | fault _ => rfl
      | refused _ => rfl
    · have hstep : step s = z.tryNext u (fun _ r => if r.vain u then r else z.found u) := by
        simp only [step_of_attempt hag, State.attempt, z, hcan, hready, hturn, Bool.not_true, Bool.or_self, Bool.false_eq_true,
          if_false]
      simp only [hstep, State.tryNext, hnext]
      have hnow : z.now = s.now := rfl
      clear_value z
      generalize exec i.op { t with ir := i.args } = x
      cases x with
      | next r => simp [State.found, State.endPacket_of_turnful hturn, hag, hnow]
      | fault _ => rfl
      | refused _ => rfl
  · intro s u rest z h
    rcases h with ⟨hag, h⟩ | ⟨hag, h⟩
    · simp only [step_of_issue hag, State.issue, z, h, Bool.not_false, if_true]
    · have : (!z.canIssue u || z.isReady u || z.turnless u) = true := by
        rcases h with h | h | h <;> simp [h]
      simp only [step_of_attempt hag, State.attempt, z, this, if_true]
  · intro s u c k w0 w1 w2 n hcur hq hc hk hpc hw0 hwords
    obtain ⟨hn1, hn3⟩ := word0Check_bounds hw0
    have hfetch : ∀ j, j < n → fetchWord (c.pc + 4 * j) s = .ok (if j = 0 then w0 else if j = 1 then w1 else w2, s) :=
      fun j hj => fetchWord_run hcur hq hk (by omega) (hwords j hj).1 (hwords j hj).2
    have h0 : fetchWord c.pc s = .ok (w0, s) := hfetch 0 hn1
    simp only [fetchInsn, M.bind_run, M.unit_run hcur, M.ctl_run hcur hc, M.get_run, h0, hw0, State.packetLeft_of_thread hq,
      Option.elim_none, Bool.false_eq_true, if_false, M.pure_run]
    have h1 : (if 2 ≤ n then fetchWord (c.pc + 4) else pure 0) s = .ok (if 2 ≤ n then w1 else 0, s) := by
      split
      · exact hfetch 1 (by omega)
      · rfl
    have h2 : (if 3 ≤ n then fetchWord (c.pc + 8) else pure 0) s = .ok (if 3 ≤ n then w2 else 0, s) := by
      split
      · exact hfetch 2 (by omega)
      · rfl
    simp only [ge_iff_le, h1, h2, decodeWords, hw0]
    have hw1 : (if n = 1 then defaultWord1 else if 2 ≤ n then w1 else 0) = if n = 1 then defaultWord1 else w1 := by
      split
      · rfl
      · rw [if_pos (by omega)]
    have hw2 : (if n = 3 then if 3 ≤ n then w2 else 0 else 0) = if n = 3 then w2 else 0 := by
      split
      · rw [if_pos (by omega)]
      · rfl
    rw [hw1, hw2]

end

section
/-! SUPPORT. The reading of source fields that name no port (R34-R37, R41): each part of `fetch` in turn. -/

namespace Sys2Proof.Machine

variable {s : State} {u : Agent} {sh : Shape} {lk : LitKind} {tm tid sp n : Nat}

theorem M.map_run {α β : Type} (f : α → β) (m : M α) (s : State) :
    (f <$> m) s = match m s with | .ok (a, t) => .ok (f a, t) | .error e => .error e := by
  rw [← bind_pure_comp, M.bind_run]
  rfl

/-! ### The state past the pc -/

@[simp] theorem State.past_engines_ex (s : State) (tm tid : Nat) : (s.past (.ex tm tid)).engines = s.engines := rfl

@[simp] theorem State.strip_past (s : State) (u : Agent) (tm sp : Nat) : (s.past u).strip tm sp = s.strip tm sp := by
  simp [State.strip]

@[simp] theorem State.recordOf_past (s : State) (u : Agent) (t : Team) : (s.past u).recordOf t = s.recordOf t := by
  simp [State.recordOf]

theorem readEx_past (s : State) (u : Agent) (tm tid : Nat) (n : Name) (w : Nat) : readEx (s.past u) tm tid n w = readEx s tm tid n w := by
  cases n <;> simp [readEx]

theorem readAp_past (s : State) (u : Agent) (tm : Nat) (x : ApThread) (n : Name) : readAp (s.past u) tm x n = readAp s tm x n := by
  cases n <;> simp [readAp]

/-- Going past an instruction changes the control state of its access thread alone. -/
theorem State.past_aps_find {x : ApThread} (hx : s.aps.find (stripKey tm sp) = some x) :
    ∃ y, (s.past (.ap tm sp)).aps.find (stripKey tm sp) = some y ∧ { y with ctl := x.ctl } = x := by
  simp [State.past, State.modCtl, hx]

/-- Going past an instruction changes the control state and the packet of its engine alone. -/
theorem State.past_engines_find {e : Engine} (he : s.engines.find n = some e) :
    ∃ y, (s.past (.qe n)).engines.find n = some y ∧ y.w = e.w ∧ y.wpend = e.wpend := by
  simp only [State.past, State.modCtl, State.modEngine_engines, Assoc.find_alter_self, he, Option.map_some, Option.some.injEq,
    exists_eq_left']
  split <;> exact ⟨rfl, rfl⟩

/-! ### The parts of `fetch` where no field names a port -/

theorem portOf_of_noPort {f : Field} (h : noPort f = true) : portOf f = none := by
  simpa [noPort] using h

/-- The fields of an operand list name no port. -/
def noPortsIn (o : Ops) : Prop := noPort o.a = true ∧ noPort o.b = true ∧ noPort o.c = true

theorem srcPorts_of_noPorts {o : Ops} (h : noPortsIn o) : srcPorts o sh = [] := by
  obtain ⟨ha, hb, hc⟩ := h
  simp [srcPorts, portOf_of_noPort ha, portOf_of_noPort hb, portOf_of_noPort hc]

theorem checkPorts_run (hcur : s.cur = some u) (h : noPortsIn s.ir) (hd : sideOf u ≠ .queue → noPort s.ir.d = true) :
    checkPorts sh s = .ok ((), s) := by
  obtain ⟨ha, hb, hc⟩ := h
  cases u with
  | qe n => simp [checkPorts, M.bind_run, M.unit_run hcur]
  | ex tm tid =>
    simp [checkPorts, M.bind_run, M.unit_run hcur, myStrip, orTrap, portOf_of_noPort ha, portOf_of_noPort hb, portOf_of_noPort hc,
      portOf_of_noPort (hd (by simp [sideOf]))]
  | ap tm sp =>
    simp [checkPorts, M.bind_run, M.unit_run hcur, myStrip, orTrap, portOf_of_noPort ha, portOf_of_noPort hb, portOf_of_noPort hc,
      portOf_of_noPort (hd (by simp [sideOf]))]

theorem Strip.flights_of_not_inFlight {t : Strip} {ns : List Nat} {l : Nat} (h : ∀ n ∈ ns, t.inFlight n l = false) :
    t.flights ns l = [] := by
  simp only [Strip.flights, List.filterMap_eq_nil_iff]
  intro n hn
  simp [h n hn]

theorem awaitRegs_run_ex {fs : List (Field × Nat)} (hcur : s.cur = some (.ex tm tid))
    (h : ∀ n ∈ fs.flatMap (fun f => gNames f.1 f.2), (s.strip tm (tid / 16)).inFlight n (tid % 16) = false) :
    awaitRegs fs s = .ok ((), s) := by
  simp [awaitRegs, M.bind_run, M.unit_run hcur, Strip.flights_of_not_inFlight h]

theorem filterMap_eq_nil_of_none {α β : Type} {f : α → Option β} {l : List α} (h : ∀ a ∈ l, f a = none) : l.filterMap f = [] :=
  List.filterMap_eq_nil_iff.2 h

theorem awaitRegs_run_ap {fs : List (Field × Nat)} {x : ApThread} (hcur : s.cur = some (.ap tm sp))
    (hx : s.aps.find (stripKey tm sp) = some x) (h : x.spend = 0) : awaitRegs fs s = .ok ((), s) := by
  simp only [awaitRegs, M.bind_run, M.get_run, M.unit_run hcur, M.apThread_run hcur hx]
  rw [filterMap_eq_nil_of_none]
  · rfl
  · rintro ⟨f, w⟩ -
    dsimp only
    split <;> simp [h]

theorem awaitRegs_run_qe {fs : List (Field × Nat)} {e : Engine} (hcur : s.cur = some (.qe n))
    (he : s.engines.find n = some e) (h : e.wpend = 0) : awaitRegs fs s = .ok ((), s) := by
  simp only [awaitRegs, M.bind_run, M.get_run, M.unit_run hcur, M.engine_run hcur he]
  rw [filterMap_eq_nil_of_none]
  · rfl
  · rintro ⟨f, w⟩ -
    dsimp only
    split <;> simp [h]

theorem readField1_run_ex {f : Field} {w : Nat} {env : List (Nat × Lanes)} (hcur : s.cur = some (.ex tm tid)) (hf : noPort f = true) :
    readField1 f w lk env s = .ok (fun _ => execSource s tm tid f w lk, s) := by
  cases f with
  | reg n m =>
    cases n with
    | q i => simp [noPort, portOf] at hf
    | _ => simp [readField1, M.bind_run, M.unit_run hcur, execSource]
  | _ => simp [readField1, M.bind_run, M.unit_run hcur, execSource, sideOf]

theorem readField1_run_ap {f : Field} {w : Nat} {env : List (Nat × Lanes)} {x : ApThread} (hcur : s.cur = some (.ap tm sp))
    (hx : s.aps.find (stripKey tm sp) = some x) (hf : noPort f = true) :
    readField1 f w lk env s = .ok (accessSource s tm x f w lk, s) := by
  cases f with
  | reg n m =>
    cases n with
    | q i => simp [noPort, portOf] at hf
    | _ => simp [readField1, M.bind_run, M.map_run, M.unit_run hcur, M.apThread_run hcur hx, accessSource]
  | _ => simp [readField1, M.bind_run, M.unit_run hcur, accessSource, sideOf]

theorem readField1_run_qe {f : Field} {w : Nat} {env : List (Nat × Lanes)} {e : Engine} (hcur : s.cur = some (.qe n))
    (he : s.engines.find n = some e) (hf : noPort f = true) :
    readField1 f w lk env s = .ok (fun _ => engineSource e f w lk, s) := by
  cases f with
  | reg n m =>
    cases n with
    | q i => simp [noPort, portOf] at hf
    | _ => simp [readField1, M.bind_run, M.map_run, M.unit_run hcur, M.engine_run hcur he, engineSource]
  | _ => simp [readField1, M.bind_run, M.unit_run hcur, engineSource, sideOf]

/-- The state after the marked names of an instruction have been read for the last time. -/
def State.dropped (s : State) (tm tid : Nat) (sh : Shape) : State :=
  if marksIn s.ir sh = [] then s
  else s.modStrip tm (tid / 16) (fun t => (marksIn s.ir sh).foldl (fun t n => t.drop n (tid % 16)) t)

theorem marks_flatMap (o : Ops) (sh : Shape) :
    [(o.a, sh.a), (o.b, sh.b), (o.c, sh.c)].flatMap (fun f => marksOf f.1 f.2) = marksIn o sh := by
  simp [marksIn, List.append_assoc]

theorem dropMarks_run_ex (hcur : s.cur = some (.ex tm tid)) : dropMarks s.ir sh s = .ok ((), s.dropped tm tid sh) := by
  have hrun : dropMarks s.ir sh s = (if marksIn s.ir sh = [] then (pure () : M Unit) else
      modify (fun r => r.modStrip tm (tid / 16) (fun t => (marksIn s.ir sh).foldl (fun t n => t.drop n (tid % 16)) t))) s := by
    simp only [dropMarks, M.bind_run, M.unit_run hcur, ← marks_flatMap]
    rfl
  rw [hrun, State.dropped]
  split <;> rfl

theorem dropMarks_run_ap {o : Ops} (hcur : s.cur = some (.ap tm sp)) : dropMarks o sh s = .ok ((), s) := by
  simp [dropMarks, M.bind_run, M.unit_run hcur]

theorem dropMarks_run_qe {o : Ops} (hcur : s.cur = some (.qe n)) : dropMarks o sh s = .ok ((), s) := by
  simp [dropMarks, M.bind_run, M.unit_run hcur]

/-! ### `fetch` of fields that name no port -/

theorem fetch_run_ex (hcur : s.cur = some (.ex tm tid)) (hp : noPortsIn s.ir) (hd : noPort s.ir.d = true)
    (hfl : ∀ n ∈ gNames s.ir.a sh.a ++ gNames s.ir.b sh.b ++ gNames s.ir.c sh.c,
      (s.strip tm (tid / 16)).inFlight n (tid % 16) = false) :
    fetch sh lk s = .ok (⟨fun _ => heldVal (execSource s tm tid s.ir.a sh.a lk), fun _ => heldVal (execSource s tm tid s.ir.b sh.b lk),
      fun _ => heldVal (execSource s tm tid s.ir.c sh.c lk)⟩, s.dropped tm tid sh) := by
  have hregs : awaitRegs [(s.ir.a, sh.a), (s.ir.b, sh.b), (s.ir.c, sh.c)] s = .ok ((), s) :=
    awaitRegs_run_ex hcur (by simpa using hfl)
  simp only [fetch, M.bind_run, M.ops_run, checkPorts_run hcur hp (fun _ => hd), hregs, M.unit_run hcur, M.pure_run,
    srcPorts_of_noPorts hp, popAll, readField1_run_ex hcur hp.1, readField1_run_ex hcur hp.2.1, readField1_run_ex hcur hp.2.2,
    dropMarks_run_ex hcur]

theorem fetch_run_ap {x : ApThread} (hcur : s.cur = some (.ap tm sp)) (hx : s.aps.find (stripKey tm sp) = some x)
    (hpend : x.spend = 0) (hp : noPortsIn s.ir) (hd : noPort s.ir.d = true) :
    fetch sh lk s = .ok (⟨fun l => heldVal (accessSource s tm x s.ir.a sh.a lk l), fun l => heldVal (accessSource s tm x s.ir.b sh.b lk l),
      fun l => heldVal (accessSource s tm x s.ir.c sh.c lk l)⟩, s) := by
  simp only [fetch, M.bind_run, M.ops_run, checkPorts_run hcur hp (fun _ => hd), awaitRegs_run_ap hcur hx hpend, M.unit_run hcur,
    M.pure_run, srcPorts_of_noPorts hp, popAll, readField1_run_ap hcur hx hp.1, readField1_run_ap hcur hx hp.2.1,
    readField1_run_ap hcur hx hp.2.2, dropMarks_run_ap hcur]

theorem fetch_run_qe {e : Engine} (hcur : s.cur = some (.qe n)) (he : s.engines.find n = some e) (hpend : e.wpend = 0)
    (hp : noPortsIn s.ir) :
    fetch sh lk s = .ok (⟨fun _ => heldVal (engineSource e s.ir.a sh.a lk), fun _ => heldVal (engineSource e s.ir.b sh.b lk),
      fun _ => heldVal (engineSource e s.ir.c sh.c lk)⟩, s) := by
  have hports : checkPorts sh s = .ok ((), s) := checkPorts_run hcur hp (fun h => absurd rfl h)
  simp only [fetch, M.bind_run, M.ops_run, hports, awaitRegs_run_qe hcur he hpend, M.unit_run hcur, M.pure_run,
    srcPorts_of_noPorts hp, popAll, readField1_run_qe hcur he hp.1, readField1_run_qe hcur he hp.2.1,
    readField1_run_qe hcur he hp.2.2, dropMarks_run_qe hcur]

/-! ### Sources read past the pc -/

theorem execSource_past (s : State) (u : Agent) (tm tid : Nat) (f : Field) (w : Nat) (lk : LitKind) :
    execSource (s.past u) tm tid f w lk = execSource s tm tid f w lk := by
  cases f <;> simp [execSource, readEx_past]

theorem accessSource_past {x y : ApThread} (s : State) (u : Agent) (tm : Nat) (f : Field) (w : Nat) (lk : LitKind)
    (h : { y with ctl := x.ctl } = x) : accessSource (s.past u) tm y f w lk = accessSource s tm x f w lk := by
  have ha : y.a = x.a := by rw [← h]
  have hs : y.s = x.s := by rw [← h]
  cases f with
  | reg n m => cases n <;> simp [accessSource, readAp, ha, hs]
  | _ => rfl

theorem engineSource_of_w {e y : Engine} (f : Field) (w : Nat) (lk : LitKind) (h : y.w = e.w) :
    engineSource y f w lk = engineSource e f w lk := by
  cases f with
  | reg n m => cases n <;> simp [engineSource, readQ, h]
  | _ => rfl

end Sys2Proof.Machine
end

section
open Sys2Proof Machine

/-- Settles O5. Where no field names a port, `fetch` waits for nothing and pops nothing: it reads the three fields and drops the marks. -/
theorem operandSources : Obligations.OperandSources := by
  unfold Obligations.OperandSources
  refine ⟨?_, ?_, ?_⟩
  · intro s tm tid x sh lk hcur hx ha hb hc hd hfl
    have h := fetch_run_ex (s := s.past (.ex tm tid)) (tm := tm) (tid := tid) (sh := sh) (lk := lk) (by simp [hcur]) (by simpa [noPortsIn] using ⟨ha, hb, hc⟩)
      (by simpa using hd) (by simpa using hfl)
    simpa [Delivers, State.dropped, execSource_past] using h
  · intro s tm sp x sh lk hcur hx hpend ha hb hc hd
    obtain ⟨y, hy, hyx⟩ := State.past_aps_find hx
    have hspend : y.spend = 0 := by rw [← hpend, ← hyx]
    have h := fetch_run_ap (s := s.past (.ap tm sp)) (sh := sh) (lk := lk) (by simp [hcur]) hy hspend
      (by simpa [noPortsIn] using ⟨ha, hb, hc⟩) (by simpa using hd)
    simpa [Delivers, accessSource_past s _ tm _ _ _ hyx] using h
  · intro s n e sh lk hcur he hpend ha hb hc
    obtain ⟨y, hy, hw, hwp⟩ := State.past_engines_find he
    have h := fetch_run_qe (s := s.past (.qe n)) (sh := sh) (lk := lk) (by simp [hcur]) hy (hwp.trans hpend)
      (by simpa [noPortsIn] using ⟨ha, hb, hc⟩)
    simpa [Delivers, engineSource_of_w _ _ _ hw] using h

end

section
/-! SUPPORT. Lanes of a strip-register (R297): a lane set is the lane read, and the other lanes are as before. -/

namespace Sys2Proof.Machine

theorem getLsbD_setLane32 (v : BitVec 512) (l : Nat) (x : W32) (i : Nat) :
    (setLane32 v l x).getLsbD i =
      if 32 * l ≤ i ∧ i < 32 * l + 32 then x.getLsbD (i - 32 * l) && decide (i < 512) else v.getLsbD i := by
  simp only [setLane32, BitVec.getLsbD_or, BitVec.getLsbD_and, BitVec.getLsbD_not, BitVec.getLsbD_ofNat]
  rw [Nat.testBit_mul_two_pow, Nat.testBit_mul_two_pow, Nat.testBit_two_pow_sub_one, BitVec.testBit_toNat]
  by_cases hi : i < 512
  · by_cases h1 : 32 * l ≤ i
    · by_cases h2 : i < 32 * l + 32
      · have : i - 32 * l < 32 := by omega
        simp [hi, h1, h2, this]
      · have : ¬ (i - 32 * l < 32) := by omega
        simp [hi, h1, h2, this, BitVec.getLsbD_of_ge x (i - 32 * l) (by omega)]
    · simp [hi, h1]
  · simp [hi, BitVec.getLsbD_of_ge v i (by omega)]

@[simp] theorem lane32_setLane32_same (v : BitVec 512) {l : Nat} (x : W32) (hl : l < 16) : lane32 (setLane32 v l x) l = x := by
  apply BitVec.eq_of_getLsbD_eq
  intro i hi
  rw [lane32, BitVec.getLsbD_extractLsb', getLsbD_setLane32, if_pos (by omega)]
  simp [hi, show 32 * l + i < 512 by omega]

theorem lane32_setLane32_of_ne (v : BitVec 512) {l j : Nat} (x : W32) (h : j ≠ l) : lane32 (setLane32 v l x) j = lane32 v j := by
  apply BitVec.eq_of_getLsbD_eq
  intro i hi
  rw [lane32, lane32, BitVec.getLsbD_extractLsb', BitVec.getLsbD_extractLsb', getLsbD_setLane32, if_neg (by omega)]

theorem getLsbD_laneBit (l i : Nat) : (laneBit l).getLsbD i = (decide (i < 16) && decide (i = l)) := by
  rw [laneBit, BitVec.getLsbD_ofNat, Nat.testBit_two_pow]
  simp [eq_comm]

theorem getLsbD_setBit16 (v : BitVec 16) (l i : Nat) (b : Bool) :
    (setBit16 v l b).getLsbD i = if i = l then b && decide (i < 16) else v.getLsbD i := by
  rcases Nat.lt_or_ge i 16 with hi | hi
  · cases b <;> simp only [setBit16, BitVec.getLsbD_or, BitVec.getLsbD_and, BitVec.getLsbD_not, getLsbD_laneBit, hi, decide_true,
      Bool.true_and, Bool.false_eq_true, if_false, if_true, Bool.false_and] <;> split <;> simp_all
  · rw [BitVec.getLsbD_of_ge _ i hi, BitVec.getLsbD_of_ge _ i hi]
    simp [Nat.not_lt.2 hi]

theorem getLsbD_setBit16_same (v : BitVec 16) {l : Nat} (b : Bool) (hl : l < 16) : (setBit16 v l b).getLsbD l = b := by
  rw [getLsbD_setBit16, if_pos rfl, decide_eq_true hl, Bool.and_true]

theorem getLsbD_setBit16_of_ne (v : BitVec 16) {l j : Nat} (b : Bool) (h : j ≠ l) : (setBit16 v l b).getLsbD j = v.getLsbD j := by
  rw [getLsbD_setBit16, if_neg h]

theorem setBit16_true_ne_zero (v : BitVec 16) {l : Nat} (hl : l < 16) : setBit16 v l true ≠ 0 := by
  intro h
  have hbit := getLsbD_setBit16_same v true hl
  rw [h] at hbit
  simp at hbit

/-! ### A lane of one register set -/

variable (r : SReg) (x : W32) (p q : Bool)

@[simp] theorem SReg.set_id (l : Nat) : (r.set l x p q).id = r.id := rfl
@[simp] theorem SReg.set_name (l : Nat) : (r.set l x p q).name = r.name := rfl

theorem SReg.set_live_ne_zero {l : Nat} (hl : l < 16) : (r.set l x p q).live ≠ 0 := setBit16_true_ne_zero _ hl

/-- What a lane of a register reads as. -/
def SReg.lane (r : SReg) (l : Nat) : Val := ⟨(lane32 r.vals l).setWidth 64, r.pois.getLsbD l⟩

theorem SReg.lane_set_same {l : Nat} (hl : l < 16) : (r.set l x p q).lane l = ⟨x.setWidth 64, p⟩ := by
  simp only [SReg.lane, SReg.set, lane32_setLane32_same _ _ hl, getLsbD_setBit16_same _ _ hl]

theorem SReg.lane_set_of_ne {l j : Nat} (h : j ≠ l) : (r.set l x p q).lane j = r.lane j := by
  simp [SReg.lane, SReg.set, lane32_setLane32_of_ne _ _ h, getLsbD_setBit16_of_ne _ _ h]

theorem SReg.live_set_same {l : Nat} (hl : l < 16) : (r.set l x p q).live.getLsbD l = true := getLsbD_setBit16_same _ _ hl

theorem SReg.live_set_of_ne {l j : Nat} (h : j ≠ l) : (r.set l x p q).live.getLsbD j = r.live.getLsbD j :=
  getLsbD_setBit16_of_ne _ _ h

theorem Strip.readG_eq (t : Strip) (n l : Nat) : t.readG n l = (t.entry n l).elim Val.zero (·.lane l) := by
  unfold Strip.readG
  cases t.entry n l <;> rfl

end Sys2Proof.Machine
end
section
/-! SUPPORT. Strip-registers under a write, a last read and a landing value (R298-R300): what entries name, and that they stay sound. -/

namespace Sys2Proof.Machine

variable {t : Strip} {k n l : Nat} {x : W32} {p q : Bool}

/-! ### What an entry names -/

/-- The register an entry names after every register changed under a map that keeps names, and at one lane keeps liveness. -/
theorem Strip.entry_map {t : Strip} {f : SReg → SReg} {j i : Nat}
    (hname : ∀ r ∈ t.regs, r.name = j → ((f r).name = r.name ∧ (f r).live.getLsbD i = r.live.getLsbD i))
    (hother : ∀ r ∈ t.regs, r.name ≠ j → (f r).name ≠ j) :
    ({ t with regs := t.regs.map f } : Strip).entry j i = (t.entry j i).map f := by
  simp only [Strip.entry, List.find?_map]
  congr 1
  apply List.find?_congr
  intro r hr
  by_cases h : r.name = j
  · obtain ⟨h1, h2⟩ := hname r hr h
    simp [h1, h2]
  · simp only [Function.comp_apply, beq_eq_false_iff_ne.2 h, beq_eq_false_iff_ne.2 (hother r hr h), Bool.false_and]

/-- The registers of a strip after a last read of name n by lane l. -/
def clearLane (n l : Nat) (r : SReg) : SReg := if r.name = n then { r with live := setBit16 r.live l false } else r

@[simp] theorem clearLane_id (r : SReg) : (clearLane n l r).id = r.id := by unfold clearLane; split <;> rfl
@[simp] theorem clearLane_name (r : SReg) : (clearLane n l r).name = r.name := by unfold clearLane; split <;> rfl
@[simp] theorem clearLane_lane (r : SReg) (i : Nat) : (clearLane n l r).lane i = r.lane i := by unfold clearLane; split <;> rfl

theorem clearLane_of_ne {r : SReg} (h : r.name ≠ n) : clearLane n l r = r := if_neg h

theorem clearLane_live_of_ne (r : SReg) {i : Nat} (h : i ≠ l) : (clearLane n l r).live.getLsbD i = r.live.getLsbD i := by
  unfold clearLane
  split
  · exact getLsbD_setBit16_of_ne _ _ h
  · rfl

theorem Strip.drop_regs (t : Strip) (n l : Nat) : (t.drop n l).regs = t.regs.map (clearLane n l) := rfl

theorem Strip.drop_entry (t : Strip) {n l j i : Nat} (h : j ≠ n ∨ i ≠ l) :
    (t.drop n l).entry j i = (t.entry j i).map (clearLane n l) := by
  refine Strip.entry_map (t := t) (f := clearLane n l) (fun r _ hr => ⟨clearLane_name r, ?_⟩) (fun r _ hr => by simpa using hr)
  rcases h with h | h
  · rw [clearLane_of_ne (by rw [hr]; exact h)]
  · exact clearLane_live_of_ne r h

/-- A last read leaves what the other entries read. -/
theorem Strip.readG_drop (t : Strip) {n l j i : Nat} (h : j ≠ n ∨ i ≠ l) : (t.drop n l).readG j i = t.readG j i := by
  rw [Strip.readG_eq, Strip.readG_eq, Strip.drop_entry t h]
  cases t.entry j i <;> simp

/-- After a last read no register of the name is live at the lane. -/
theorem Strip.drop_live (t : Strip) {n l : Nat} (hl : l < 16) {r : SReg} (hr : r ∈ (t.drop n l).regs) (hn : r.name = n) :
    r.live.getLsbD l = false := by
  rw [Strip.drop_regs, List.mem_map] at hr
  obtain ⟨r, -, rfl⟩ := hr
  have h : r.name = n := by simpa using hn
  rw [clearLane, if_pos h]
  exact getLsbD_setBit16_same _ _ hl

/-! ### Soundness -/

theorem Strip.sound_empty (k : Nat) : ({} : Strip).sound k := by
  refine ⟨rfl, by simp, ?_⟩
  simp

theorem Strip.sound_mono {k' : Nat} (h : t.sound k) (hk : k ≤ k') : t.sound k' :=
  ⟨h.1, fun r hr => Nat.lt_of_lt_of_le (h.2.1 r hr) hk, h.2.2⟩

/-- Soundness under a map of the registers that keeps numbers and names, with what is still current: registers that are live then. -/
theorem Strip.sound_map {f : SReg → SReg} {cur : Assoc (Nat × BitVec 16)} {k' : Nat} (h : t.sound k) (hk : k ≤ k')
    (hid : ∀ r, (f r).id = r.id) (hname : ∀ r, (f r).name = r.name) (hwf : cur.wf = true)
    (hcur : ∀ m c, cur.find m = some c → (∃ d, t.cur.find m = some d ∧ d.1 = c.1) ∧ ∀ r ∈ t.regs, r.id = c.1 → (f r).live ≠ 0) :
    ({ t with regs := t.regs.map f, cur := cur } : Strip).sound k' := by
  obtain ⟨-, hlt, hc⟩ := h
  refine ⟨hwf, ?_, ?_⟩
  · intro r' hr'
    obtain ⟨r, hr, rfl⟩ := List.mem_map.1 hr'
    exact hid r ▸ Nat.lt_of_lt_of_le (hlt r hr) hk
  · intro m c hm
    obtain ⟨⟨d, hd, hdc⟩, hlive⟩ := hcur m c hm
    obtain ⟨⟨r, hr, hrd⟩, hall⟩ := hc m d hd
    refine ⟨⟨f r, List.mem_map_of_mem hr, by rw [hid, hrd, hdc]⟩, ?_⟩
    intro r' hr' hr'c
    obtain ⟨u, hu, rfl⟩ := List.mem_map.1 hr'
    have hid' : u.id = c.1 := (hid u).symm.trans hr'c
    exact ⟨(hname u).trans (hall u hu (hid'.trans hdc.symm)).1, hlive u hu hid'⟩

theorem Strip.drop_cur_find (t : Strip) (n l : Nat) (hwf : t.cur.wf = true) {m : Nat} {c : Nat × BitVec 16}
    (h : (t.drop n l).cur.find m = some c) :
    t.cur.find m = some c ∧ (m = n → ∀ r ∈ t.regs, r.id = c.1 → (clearLane n l r).live ≠ 0) := by
  simp only [Strip.drop] at h
  cases hn : t.cur.find n with
  | none =>
    simp only [hn] at h
    exact ⟨h, by rintro rfl; rw [hn] at h; cases h⟩
  | some d =>
    simp only [hn] at h
    split at h
    · rw [Assoc.find_del _ _ hwf] at h
      split at h
      · cases h
      · next hne => exact ⟨h, fun e => absurd e hne⟩
    · next hdead =>
      refine ⟨h, ?_⟩
      rintro rfl r hr hid h0
      rw [hn] at h
      cases h
      refine hdead (List.any_eq_true.2 ⟨clearLane m l r, List.mem_map_of_mem hr, ?_⟩)
      simp [hid, h0]

theorem Strip.drop_cur_wf (t : Strip) (n l : Nat) (hwf : t.cur.wf = true) : (t.drop n l).cur.wf = true := by
  simp only [Strip.drop]
  split
  · split
    · exact Assoc.wf_del _ hwf
    · exact hwf
  · exact hwf

theorem Strip.sound_drop (h : t.sound k) : (t.drop n l).sound k := by
  refine Strip.sound_map (f := clearLane n l) (cur := (t.drop n l).cur) h le_rfl clearLane_id clearLane_name
    (Strip.drop_cur_wf t n l h.1) ?_
  intro m c hm
  obtain ⟨hc, hlive⟩ := Strip.drop_cur_find t n l h.1 hm
  refine ⟨⟨c, hc, rfl⟩, fun r hr hid => ?_⟩
  by_cases hmn : m = n
  · exact hlive hmn r hr hid
  · obtain ⟨hname, h0⟩ := (h.2.2 m c hc).2 r hr hid
    rwa [clearLane_of_ne (by rw [hname]; exact hmn)]

theorem Strip.sound_land (h : t.sound k) (id : Nat) : (t.land id l x p).sound k := by
  refine Strip.sound_map (t := t) (cur := t.cur) h le_rfl (fun r => ?_) (fun r => ?_) h.1 ?_
  · split <;> rfl
  · split <;> rfl
  · intro m c hm
    refine ⟨⟨c, hm, rfl⟩, fun r hr hid => ?_⟩
    have h0 := ((h.2.2 m c hm).2 r hr hid).2
    split <;> exact h0

end Sys2Proof.Machine
end
section
/-! SUPPORT. A write of one name by one lane (R298): what every entry then reads. -/

namespace Sys2Proof.Machine

variable {t : Strip} {k n l : Nat} {x : W32} {p q : Bool}

/-- Giving one lane of the registers of a number its value. -/
def setNumbered (id l : Nat) (x : W32) (p q : Bool) (r : SReg) : SReg := if r.id = id then r.set l x p q else r

@[simp] theorem setNumbered_id (id : Nat) (r : SReg) : (setNumbered id l x p q r).id = r.id := by
  unfold setNumbered; split <;> rfl
@[simp] theorem setNumbered_name (id : Nat) (r : SReg) : (setNumbered id l x p q r).name = r.name := by
  unfold setNumbered; split <;> rfl

theorem setNumbered_of_eq {id : Nat} {r : SReg} (h : r.id = id) : setNumbered id l x p q r = r.set l x p q := if_pos h
theorem setNumbered_of_ne {id : Nat} {r : SReg} (h : r.id ≠ id) : setNumbered id l x p q r = r := if_neg h

theorem setNumbered_of_ne_lane (id : Nat) (r : SReg) {i : Nat} (h : i ≠ l) :
    (setNumbered id l x p q r).lane i = r.lane i ∧ (setNumbered id l x p q r).live.getLsbD i = r.live.getLsbD i := by
  unfold setNumbered
  split
  · exact ⟨SReg.lane_set_of_ne _ _ _ _ h, SReg.live_set_of_ne _ _ _ _ h⟩
  · exact ⟨rfl, rfl⟩

/-- A write of a name makes its lane of a current register, or of a new one, the value. -/
theorem Strip.writeG_cases (t : Strip) (n l : Nat) (x : W32) (p q : Bool) (k : Nat) :
    (∃ id w, t.cur.find n = some (id, w) ∧
      (t.writeG n l x p q k).1 = { ({ t with cur := t.cur.put n (id, w ||| laneBit l) } : Strip).drop n l with
        regs := (t.drop n l).regs.map (setNumbered id l x p q) }) ∨
    (t.writeG n l x p q k).1 = { t.drop n l with
      regs := (t.drop n l).regs ++ [(⟨k, n, 0, 0, 0, 0⟩ : SReg).set l x p q]
      cur := (t.drop n l).cur.put n (k, laneBit l) } := by
  unfold Strip.writeG
  split
  · next id w _ hc => exact .inl ⟨id, w, hc, rfl⟩
  · exact .inr rfl

/-- The register the name is given is found at the lane: no other register of the name is live there. -/
theorem Strip.writeG_entry_same (h : t.sound k) (hl : l < 16) :
    ∃ r, ((t.writeG n l x p q k).1.entry n l) = some r ∧ r.lane l = ⟨x.setWidth 64, p⟩ := by
  obtain ⟨r, hr, hn, hlive, hother⟩ : ∃ r ∈ (t.writeG n l x p q k).1.regs, r.name = n ∧ r.live.getLsbD l = true ∧
      ∀ r ∈ (t.writeG n l x p q k).1.regs, r.name = n → r.live.getLsbD l = true → r.lane l = ⟨x.setWidth 64, p⟩ := by
    rcases t.writeG_cases n l x p q k with ⟨id, w, hc, he⟩ | he
    · obtain ⟨⟨r, hr, hid⟩, hall⟩ := h.2.2 n _ hc
      refine ⟨(clearLane n l r).set l x p q, ?_, ?_, SReg.live_set_same _ _ _ _ hl, ?_⟩
      · rw [he]
        refine List.mem_map.2 ⟨clearLane n l r, List.mem_map_of_mem hr, setNumbered_of_eq ?_⟩
        rw [clearLane_id]; exact hid
      · simpa using (hall r hr hid).1
      · rw [he]
        intro r' hr' hn' hlive'
        obtain ⟨u, hu, rfl⟩ := List.mem_map.1 hr'
        by_cases hu' : u.id = id
        · rw [setNumbered_of_eq hu']
          exact SReg.lane_set_same _ _ _ _ hl
        · rw [setNumbered_of_ne hu'] at hlive' hn'
          rw [Strip.drop_live t hl hu hn'] at hlive'
          cases hlive'
    · refine ⟨_, by rw [he]; exact List.mem_append_right _ (List.mem_singleton_self _), rfl, SReg.live_set_same _ _ _ _ hl, ?_⟩
      rw [he]
      intro r' hr' hn' hlive'
      rcases List.mem_append.1 hr' with hr' | hr'
      · rw [Strip.drop_live t hl hr' hn'] at hlive'
        cases hlive'
      · rw [List.mem_singleton.1 hr']
        exact SReg.lane_set_same _ _ _ _ hl
  cases he : (t.writeG n l x p q k).1.entry n l with
  | none =>
    have := List.find?_eq_none.1 he r hr
    simp [hn, hlive] at this
  | some u =>
    have hu := List.find?_some he
    simp only [Bool.and_eq_true, beq_iff_eq] at hu
    exact ⟨u, rfl, hother u (List.mem_of_find?_eq_some he) hu.1 hu.2⟩

theorem Strip.readG_writeG_same (h : t.sound k) (hl : l < 16) : (t.writeG n l x p q k).1.readG n l = ⟨x.setWidth 64, p⟩ := by
  obtain ⟨r, he, hr⟩ := Strip.writeG_entry_same (n := n) (x := x) (p := p) (q := q) h hl
  rw [Strip.readG_eq, he]
  exact hr

theorem Strip.readG_writeG_of_ne (h : t.sound k) {j i : Nat} (hji : j ≠ n ∨ i ≠ l) :
    (t.writeG n l x p q k).1.readG j i = t.readG j i := by
  rw [← Strip.readG_drop t hji, Strip.readG_eq, Strip.readG_eq]
  rcases t.writeG_cases n l x p q k with ⟨id, w, hc, he⟩ | he
  · have hname : ∀ r ∈ (t.drop n l).regs, r.id = id → r.name = n := by
      intro r hr hid
      rw [Strip.drop_regs] at hr
      obtain ⟨u, hu, rfl⟩ := List.mem_map.1 hr
      rw [clearLane_name]
      rw [clearLane_id] at hid
      exact ((h.2.2 n _ hc).2 u hu hid).1
    have hmap : ((t.drop n l).regs.map (setNumbered id l x p q)).find? (fun r => r.name == j && r.live.getLsbD i) =
        ((t.drop n l).entry j i).map (setNumbered id l x p q) := by
      refine Strip.entry_map (t := t.drop n l) (f := setNumbered id l x p q) (fun r hr hj => ⟨setNumbered_name _ r, ?_⟩)
        (fun r _ hj => by simpa using hj)
      rcases hji with hj' | hi
      · rw [setNumbered_of_ne (fun hid => hj' (hj.symm.trans (hname r hr hid)))]
      · exact (setNumbered_of_ne_lane id r hi).2
    rw [he]
    change (List.find? _ ((t.drop n l).regs.map (setNumbered id l x p q))).elim _ _ = _
    rw [hmap]
    cases hu : (t.drop n l).entry j i with
    | none => rfl
    | some u =>
      have hmem := List.mem_of_find?_eq_some hu
      have hju := List.find?_some hu
      simp only [Bool.and_eq_true, beq_iff_eq] at hju
      change (setNumbered id l x p q u).lane i = u.lane i
      rcases hji with hj' | hi
      · rw [setNumbered_of_ne (fun hid => hj' (hju.1.symm.trans (hname u hmem hid)))]
      · exact (setNumbered_of_ne_lane id u hi).1
  · rw [he]
    have hnew : ((n == j && ((⟨k, n, 0, 0, 0, 0⟩ : SReg).set l x p q).live.getLsbD i)) = false := by
      rcases hji with hj | hi
      · rw [beq_eq_false_iff_ne.2 (Ne.symm hj), Bool.false_and]
      · rw [SReg.live_set_of_ne _ _ _ _ hi]; simp
    change (List.find? _ (_ ++ [_])).elim _ _ = (List.find? _ _).elim _ _
    rw [List.find?_append, List.find?_cons_of_neg (by rw [SReg.set_name, hnew]; exact Bool.false_ne_true), List.find?_nil,
      Option.or_none]

theorem Strip.sound_writeG (h : t.sound k) (hl : l < 16) : (t.writeG n l x p q k).1.sound (k + 1) := by
  rcases t.writeG_cases n l x p q k with ⟨id, w, hc, he⟩ | he
  · rw [he]
    have hwf : (t.cur.put n (id, w ||| laneBit l)).wf = true := Assoc.wf_put _ _ h.1
    have hmid : ({ t with cur := t.cur.put n (id, w ||| laneBit l) } : Strip).sound k := by
      refine ⟨hwf, h.2.1, fun m c hm => ?_⟩
      rw [Assoc.find_put] at hm
      split at hm
      · next e => subst e; cases hm; exact h.2.2 m (id, w) hc
      · exact h.2.2 m c hm
    have hdrop := Strip.sound_drop (n := n) (l := l) hmid
    refine Strip.sound_map (t := Strip.drop { t with cur := t.cur.put n (id, w ||| laneBit l) } n l)
      (cur := (Strip.drop { t with cur := t.cur.put n (id, w ||| laneBit l) } n l).cur) (f := setNumbered id l x p q) hdrop (Nat.le_succ k)
      (setNumbered_id id) (setNumbered_name id) hdrop.1 ?_
    intro m c hm
    refine ⟨⟨c, hm, rfl⟩, fun r hr hid => ?_⟩
    by_cases h' : r.id = id
    · rw [setNumbered_of_eq h']
      exact SReg.set_live_ne_zero r x p q hl
    · rw [setNumbered_of_ne h']
      exact ((hdrop.2.2 m c hm).2 r hr hid).2
  · rw [he]
    have hdrop := Strip.sound_drop (n := n) (l := l) h
    refine ⟨Assoc.wf_put _ _ hdrop.1, fun r hr => ?_, fun m c hm => ?_⟩
    · rcases List.mem_append.1 hr with hr | hr
      · exact Nat.lt_succ_of_lt (hdrop.2.1 r hr)
      · rw [List.mem_singleton.1 hr]; exact Nat.lt_succ_self k
    · rw [Assoc.find_put] at hm
      split at hm
      · next e =>
        subst e; cases hm
        refine ⟨⟨_, List.mem_append_right _ (List.mem_singleton_self _), rfl⟩, fun r hr hid => ?_⟩
        rcases List.mem_append.1 hr with hr | hr
        · exact absurd hid (Nat.ne_of_lt (hdrop.2.1 r hr))
        · rw [List.mem_singleton.1 hr]
          exact ⟨rfl, SReg.set_live_ne_zero _ x p q hl⟩
      · obtain ⟨⟨r, hr, hid⟩, hall⟩ := hdrop.2.2 m c hm
        refine ⟨⟨r, List.mem_append_left _ hr, hid⟩, fun u hu huid => ?_⟩
        rcases List.mem_append.1 hu with hu | hu
        · exact hall u hu huid
        · rw [List.mem_singleton.1 hu] at huid
          exact absurd (hid.trans (huid.symm)) (Nat.ne_of_lt (hdrop.2.1 r hr))

end Sys2Proof.Machine
end
section
/-! SUPPORT. Destination writes as each side makes them: the strip-registers of an execute thread, the lanes of an access
thread's vector register. -/

namespace Sys2Proof.Machine

variable {s : State} {tm tid : Nat} {p q : Bool}

/-- One write more: the strip, the next number, and the numbers that were given. -/
def Strip.writeStep (l : Nat) (p q : Bool) (a : Strip × Nat × List Nat) (w : Nat × W32) : Strip × Nat × List Nat :=
  ((a.1.writeG w.1 l w.2 p q a.2.1).1, a.2.1 + 1, a.2.2 ++ [(a.1.writeG w.1 l w.2 p q a.2.1).2])

/-- The writes of one instruction in turn. -/
def Strip.writeMany (t : Strip) (l k : Nat) (ws : List (Nat × W32)) (p q : Bool) : Strip × Nat × List Nat :=
  ws.foldl (Strip.writeStep l p q) (t, k, [])

/-- The state after writes to a thread's registers. -/
def State.wrote (s : State) (tm tid : Nat) (ws : List (Nat × W32)) (p q : Bool) : State :=
  { s with strips := s.strips.put (stripKey tm (tid / 16)) ((s.strip tm (tid / 16)).writeMany (tid % 16) s.fresh ws p q).1
           fresh := ((s.strip tm (tid / 16)).writeMany (tid % 16) s.fresh ws p q).2.1 }

/-- A thread that can allocate makes its writes. -/
theorem writeRegs_run {g : Team} {ws : List (Nat × W32)} (hg : s.teams.find tm = some g)
    (h : s.canAlloc tm tid g (ws.map (·.1))) :
    writeRegs tm tid ws p q s =
      .ok (((s.strip tm (tid / 16)).writeMany (tid % 16) s.fresh ws p q).2.2, s.wrote tm tid ws p q) := by
  simp only [State.canAlloc, List.filter_map, List.length_map, Function.comp_def] at h
  obtain ⟨h1, h2⟩ := h
  have hpool : decide (ws.length > LRec.regpool (s.recordOf g)) = false := decide_eq_false (Nat.not_lt.2 h1)
  have hwait : ∀ (n u r : Nat) (b : Bool), n = 0 ∨ (u + n ≤ r ∧ b = false) → (n == 0 || (decide (u + n ≤ r) && !b)) = true := by
    rintro n u r b (rfl | ⟨h, rfl⟩)
    · rfl
    · simp [h]
  simp only [writeRegs, M.bind_run, M.get_run, hg, hpool, M.trapIf_false, M.pure_run]
  rw [hwait _ _ _ _ h2]
  rfl

theorem stripKey_inj {tm a b : Nat} (h : stripKey tm a = stripKey tm b) : a = b := by
  simp only [stripKey] at h; omega

theorem State.wrote_strip_same (s : State) (tm tid : Nat) (ws : List (Nat × W32)) (p q : Bool) :
    (s.wrote tm tid ws p q).strip tm (tid / 16) = ((s.strip tm (tid / 16)).writeMany (tid % 16) s.fresh ws p q).1 :=
  Assoc.get_put_self _ _ _ _

theorem State.wrote_strip_of_ne (s : State) {tm tid i : Nat} (ws : List (Nat × W32)) (p q : Bool) (h : i ≠ tid / 16) :
    (s.wrote tm tid ws p q).strip tm i = s.strip tm i :=
  Assoc.get_put_of_ne _ _ _ (fun e => h (stripKey_inj e))

theorem State.wrote_frame (s : State) (tm tid : Nat) (ws : List (Nat × W32)) (p q : Bool) :
    { s.wrote tm tid ws p q with strips := s.strips, fresh := s.fresh } = s := rfl

theorem Strip.readG_foldl_writeStep {a : Strip × Nat × List Nat} {l : Nat} {ws : List (Nat × W32)} (hl : l < 16)
    (h : a.1.sound a.2.1) {j i : Nat} (hji : (∀ w ∈ ws, j ≠ w.1) ∨ i ≠ l) :
    (ws.foldl (Strip.writeStep l p q) a).1.readG j i = a.1.readG j i := by
  induction ws generalizing a with
  | nil => rfl
  | cons w ws ih =>
    rw [List.foldl_cons, ih (Strip.sound_writeG h hl) (hji.imp_left fun hw v hv => hw v (List.mem_cons_of_mem _ hv))]
    exact Strip.readG_writeG_of_ne h (hji.imp_left fun hw => hw w List.mem_cons_self)

theorem Strip.sound_foldl_writeStep {a : Strip × Nat × List Nat} {l : Nat} {ws : List (Nat × W32)} (hl : l < 16)
    (h : a.1.sound a.2.1) :
    (ws.foldl (Strip.writeStep l p q) a).1.sound (ws.foldl (Strip.writeStep l p q) a).2.1 := by
  induction ws generalizing a with
  | nil => exact h
  | cons w ws ih => exact ih (Strip.sound_writeG h hl)

/-- Every name that is not written, and every other thread's names, read as before the writes. -/
theorem Strip.readG_writeMany_of_ne {t : Strip} {k l : Nat} {ws : List (Nat × W32)} (hl : l < 16) (h : t.sound k) {j i : Nat}
    (hji : (∀ w ∈ ws, j ≠ w.1) ∨ i ≠ l) : (t.writeMany l k ws p q).1.readG j i = t.readG j i :=
  Strip.readG_foldl_writeStep hl h hji

theorem Strip.sound_writeMany {t : Strip} {k l : Nat} {ws : List (Nat × W32)} (hl : l < 16) (h : t.sound k) :
    (t.writeMany l k ws p q).1.sound (t.writeMany l k ws p q).2.1 := Strip.sound_foldl_writeStep hl h

theorem Strip.readG_writeMany_one {t : Strip} {k l n : Nat} {x : W32} (hl : l < 16) (h : t.sound k) :
    (t.writeMany l k [(n, x)] p q).1.readG n l = ⟨x.setWidth 64, p⟩ := Strip.readG_writeG_same h hl

theorem Strip.readG_writeMany_pair {t : Strip} {k l n : Nat} {x y : W32} (hl : l < 16) (h : t.sound k) :
    (t.writeMany l k [(n, x), (n + 1, y)] p q).1.readG n l = ⟨x.setWidth 64, p⟩ ∧
      (t.writeMany l k [(n, x), (n + 1, y)] p q).1.readG (n + 1) l = ⟨y.setWidth 64, p⟩ := by
  have h1 := Strip.sound_writeG (n := n) (x := x) (p := p) (q := q) h hl
  exact ⟨(Strip.readG_writeG_of_ne h1 (.inl (Nat.ne_of_lt (Nat.lt_succ_self n)))).trans (Strip.readG_writeG_same h hl),
    Strip.readG_writeG_same h1 hl⟩

theorem ofNat_loW_hiW (v : W64) :
    BitVec.ofNat 64 (((loW v).setWidth 64).toNat + ((hiW v).setWidth 64).toNat * 2 ^ 32) = v := by
  apply BitVec.eq_of_toNat_eq
  have hv := v.isLt
  simp only [loW, hiW, BitVec.toNat_ofNat, BitVec.toNat_setWidth, BitVec.extractLsb'_toNat, Nat.shiftRight_eq_div_pow]
  omega

/-! ### The lanes of a vector register -/

theorem getLsbD_setLane64 (a : BitVec 1024) (l i : Nat) (x : W64) (hl : l < 16) :
    (BitVec.ofNat 1024 ((a.toNat &&& (2 ^ 1024 - 1 - (2 ^ 64 - 1) * 2 ^ (64 * l))) ||| (x.toNat * 2 ^ (64 * l)))).getLsbD i =
      if 64 * l ≤ i ∧ i < 64 * l + 64 then x.getLsbD (i - 64 * l) else a.getLsbD i := by
  have hmask : (2 ^ 1024 - 1 - (2 ^ 64 - 1) * 2 ^ (64 * l)).testBit i =
      (decide (i < 1024) && !(decide (64 * l ≤ i) && decide (i - 64 * l < 64))) := by
    have hlt : (2 ^ 64 - 1) * 2 ^ (64 * l) < 2 ^ 1024 := by
      calc (2 ^ 64 - 1) * 2 ^ (64 * l) < 2 ^ 64 * 2 ^ (64 * l) := Nat.mul_lt_mul_of_pos_right (by decide) (by positivity)
        _ = 2 ^ (64 + 64 * l) := by rw [pow_add]
        _ ≤ 2 ^ 1024 := Nat.pow_le_pow_right (by decide) (by omega)
    rw [Nat.sub_sub, Nat.add_comm, Nat.testBit_two_pow_sub_succ hlt, Nat.testBit_mul_two_pow,
      Nat.testBit_two_pow_sub_one]
  rw [BitVec.getLsbD_ofNat, Nat.testBit_or, Nat.testBit_and, hmask, Nat.testBit_mul_two_pow, BitVec.testBit_toNat,
    BitVec.testBit_toNat]
  by_cases hi : i < 1024
  · by_cases h1 : 64 * l ≤ i
    · by_cases h2 : i < 64 * l + 64
      · have : i - 64 * l < 64 := by omega
        simp [hi, h1, h2, this]
      · have : ¬ (i - 64 * l < 64) := by omega
        simp [hi, h1, h2, this, BitVec.getLsbD_of_ge x (i - 64 * l) (by omega)]
    · simp [hi, h1]
  · have : ¬ (i < 64 * l + 64) := by omega
    simp [hi, this, BitVec.getLsbD_of_ge a i (by omega)]

theorem laneList_mem {act : BitVec 16} {l : Nat} : l ∈ laneList act ↔ l < 16 ∧ act.getLsbD l = true := by
  simp [laneList]

/-- Lanes that a list names take their values, the others stay. -/
theorem setLanes_read (r : BitVec 1024 × BitVec 16) (ls : List Nat) (hls : ∀ l ∈ ls, l < 16) (v : Lanes) {l : Nat} (hl : l < 16) :
    (⟨(setLanes r ls v).1.extractLsb' (64 * l) 64, (setLanes r ls v).2.getLsbD l⟩ : Val) =
      if l ∈ ls then v l else ⟨r.1.extractLsb' (64 * l) 64, r.2.getLsbD l⟩ := by
  unfold setLanes
  induction ls generalizing r with
  | nil => rfl
  | cons j ls ih =>
    have hj : j < 16 := hls j List.mem_cons_self
    rw [List.foldl_cons, ih _ (fun i hi => hls i (List.mem_cons_of_mem _ hi))]
    by_cases hmem : l ∈ ls
    · simp [hmem]
    · rw [if_neg hmem]
      by_cases e : l = j
      · subst e
        rw [if_pos List.mem_cons_self, getLsbD_setBit16_same _ _ hl]
        congr 1
        apply BitVec.eq_of_getLsbD_eq
        intro i hi
        rw [BitVec.getLsbD_extractLsb', getLsbD_setLane64 _ _ _ _ hl, if_pos (by omega), decide_eq_true hi, Bool.true_and,
          Nat.add_sub_cancel_left]
      · rw [if_neg (by simp [e, hmem]), getLsbD_setBit16_of_ne _ _ e]
        congr 1
        apply BitVec.eq_of_getLsbD_eq
        intro i hi
        rw [BitVec.getLsbD_extractLsb', BitVec.getLsbD_extractLsb', getLsbD_setLane64 _ _ _ _ hj, if_neg (by omega)]

theorem M.lanes_run_ap {sp : Nat} {x : ApThread} (h : s.cur = some (.ap tm sp)) (hx : s.aps.find (stripKey tm sp) = some x) :
    lanes s = .ok ((apGuard x s.ir).bits, s) := by
  simp only [lanes, M.bind_run, M.unit_run h, M.apThread_run h hx, M.ops_run, M.pure_run]

end Sys2Proof.Machine
end

section
/-! SUPPORT. The state after a destination write, side by side. -/

namespace Sys2Proof.Machine

variable {s : State} {tm tid : Nat}

/-- What an execute thread's destination of one name or a pair writes. -/
def gWrites (n w : Nat) (x : Val) : List (Nat × W32) := if w = 2 then [(n, loW x.bits), (n + 1, hiW x.bits)] else [(n, loW x.bits)]

theorem writeF_run_g {g : Team} {n : Fin 96} {m : Bool} {w : Nat} {v : Lanes} (hcur : s.cur = some (.ex tm tid))
    (hg : s.teams.find tm = some g) (h : s.canAlloc tm tid g (if w = 2 then [n.val, n.val + 1] else [n.val])) :
    writeF (.reg (.g n) m) w v s = .ok ((), s.wrote tm tid (gWrites n.val w (heldVal (v 0))) (heldVal (v 0)).poison false) := by
  have hnames : s.canAlloc tm tid g ((gWrites n.val w (heldVal (v 0))).map (·.1)) := by
    unfold gWrites
    split at h <;> rename_i hw <;> simpa [hw] using h
  have := writeRegs_run (p := (heldVal (v 0)).poison) (q := false) hg hnames
  simp only [gWrites] at this
  simp only [writeF, M.bind_run, M.unit_run hcur, this, M.pure_run, gWrites]

theorem heldVal_poison (v : Val) : (heldVal v).poison = v.poison := by
  unfold heldVal
  split
  · next h => exact h.symm
  · rfl

theorem readEx_wrote_same {n : Fin 96} {w : Nat} {x : Val} (hsound : (s.strip tm (tid / 16)).sound s.fresh) :
    readEx (s.wrote tm tid (gWrites n.val w x) x.poison false) tm tid (.g n) w =
      if w = 2 then x else ⟨(x.bits.setWidth 32).setWidth 64, x.poison⟩ := by
  have hl : tid % 16 < 16 := Nat.mod_lt _ (by decide)
  simp only [readEx, State.wrote_strip_same]
  by_cases hw : w = 2
  · obtain ⟨h1, h2⟩ := Strip.readG_writeMany_pair (n := n.val) (x := loW x.bits) (y := hiW x.bits) (p := x.poison) (q := false)
      hl hsound
    simp only [gWrites, if_pos hw, h1, h2, Bool.or_self, ofNat_loW_hiW]
  · simp only [gWrites, if_neg hw, Strip.readG_writeMany_one hl hsound, loW]

theorem readEx_wrote_of_ne {n j : Fin 96} {w tid' : Nat} {x : Val} (hsound : (s.strip tm (tid / 16)).sound s.fresh)
    (h : tid' ≠ tid ∨ (j ≠ n ∧ (w = 2 → j.val ≠ n.val + 1))) :
    readEx (s.wrote tm tid (gWrites n.val w x) x.poison false) tm tid' (.g j) 1 = readEx s tm tid' (.g j) 1 := by
  have hl : tid % 16 < 16 := Nat.mod_lt _ (by decide)
  simp only [readEx, if_neg (show ¬ (1 : Nat) = 2 by decide)]
  by_cases hstrip : tid' / 16 = tid / 16
  · rw [hstrip, State.wrote_strip_same]
    refine Strip.readG_writeMany_of_ne hl hsound ?_
    rcases h with h | ⟨h1, h2⟩
    · exact .inr (by omega)
    · refine .inl fun y hy => ?_
      have h1 : j.val ≠ n.val := fun e => h1 (Fin.ext e)
      unfold gWrites at hy
      split at hy
      · next hw =>
        simp only [List.mem_cons, List.not_mem_nil, or_false] at hy
        rcases hy with rfl | rfl
        · exact h1
        · exact h2 hw
      · rw [List.mem_singleton.1 hy]
        exact h1
  · rw [State.wrote_strip_of_ne s _ _ _ hstrip]

theorem State.wrote_sound {ws : List (Nat × W32)} {p q : Bool} (hsound : (s.strip tm (tid / 16)).sound s.fresh) :
    ((s.wrote tm tid ws p q).strip tm (tid / 16)).sound (s.wrote tm tid ws p q).fresh := by
  rw [State.wrote_strip_same]
  exact Strip.sound_writeMany (Nat.mod_lt _ (by decide)) hsound

theorem writeF_run_a {sp : Nat} {x : ApThread} {n : Fin 32} {m : Bool} {w : Nat} {v : Lanes} (hcur : s.cur = some (.ap tm sp))
    (hx : s.aps.find (stripKey tm sp) = some x) :
    writeF (.reg (.a n) m) w v s = .ok ((), s.modAp tm sp (fun x' =>
      { x' with a := x'.a.modify n.val (fun r => setLanes r (laneList (apGuard x s.ir).bits) (fun l => heldVal (v l))) })) := by
  simp only [writeF, M.bind_run, M.unit_run hcur, M.lanes_run_ap hcur hx, M.modify_run]

theorem writeF_run_s {sp : Nat} {x : ApThread} {n : Fin 16} {m : Bool} {w : Nat} {v : Lanes} (hcur : s.cur = some (.ap tm sp))
    (hx : s.aps.find (stripKey tm sp) = some x) :
    writeF (.reg (.s n) m) w v s = .ok ((), s.modAp tm sp (fun x' =>
      { x' with s := x'.s.set n.val ((heldVal (v (lowLane (apGuard x s.ir).bits))).bits,
          (heldVal (v (lowLane (apGuard x s.ir).bits))).poison) })) := by
  simp only [writeF, M.bind_run, M.unit_run hcur, M.lanes_run_ap hcur hx, M.modify_run]

theorem writeF_run_w {q : Nat} {n : Fin 16} {m : Bool} {w : Nat} {v : Lanes} (hcur : s.cur = some (.qe q)) :
    writeF (.reg (.w n) m) w v s = .ok ((), s.modEngine q (fun e =>
      { e with w := e.w.set n.val ((heldVal (v 0)).bits, (heldVal (v 0)).poison) })) := by
  simp only [writeF, M.bind_run, M.unit_run hcur, M.modify_run]

theorem readAp_a (s : State) (tm : Nat) {x : ApThread} {n : Fin 32} (h : n.val < x.a.length) (l : Nat) :
    readAp s tm x (.a n) l = ⟨x.a[n.val].1.extractLsb' (64 * l) 64, x.a[n.val].2.getLsbD l⟩ := by
  simp only [readAp, List.getElem?_eq_getElem h]

theorem Assoc.find_alter_some {α : Type} {m : Assoc α} {k : Nat} {v : α} (f : α → α) (h : m.find k = some v) :
    (m.alter k f).find k = some (f v) := by
  rw [Assoc.find_alter_self, h]; rfl

/-- A field that names a k register is no destination. -/
theorem nameOf_k {side : Side} {v : BitVec 7} (hs : side ≠ .queue) (h1 : 96 ≤ v.toNat) (h2 : v.toNat < 112) :
    ∃ i, nameOf side v = some (.k i) := by
  cases side with
  | queue => exact absurd rfl hs
  | exec => exact ⟨⟨v.toNat - 96, by omega⟩, by
      simp only [nameOf, dif_neg (show ¬ v.toNat < 96 by omega), dif_pos (show v.toNat - 96 < 16 by omega)]⟩
  | access => exact ⟨⟨v.toNat - 96, by omega⟩, by
      simp only [nameOf, dif_neg (show ¬ v.toNat < 32 by omega), dif_neg (show ¬ v.toNat - 32 < 16 by omega),
        if_neg (show ¬ v.toNat < 96 by omega), dif_pos (show v.toNat - 96 < 16 by omega)]⟩

end Sys2Proof.Machine
end

section open Sys2Proof Machine

/-- Settles O6: the write of each side evaluated, and what reads of the changed registers give. -/
theorem destinationWrites : Obligations.DestinationWrites := by
  unfold Obligations.DestinationWrites
  refine ⟨?_, ⟨?_, ?_, ?_⟩, ?_⟩
  · intro s tm tid w g n m v hcur hg htid hw hsound halloc
    refine ⟨_, writeF_run_g hcur hg halloc, heldVal_poison (v 0) ▸ readEx_wrote_same hsound, fun tid' j _ h => readEx_wrote_of_ne hsound h,
      State.wrote_sound hsound, fun k hk => Assoc.find_put_of_ne _ _ hk, State.wrote_frame s tm tid _ _ _⟩
  · intro s tm sp x n m w v hcur hx hlen
    have hn : n.val < x.a.length := by rw [hlen]; exact n.isLt
    refine ⟨_, _, writeF_run_a hcur hx, Assoc.find_alter_some _ hx, ?_, ?_, rfl, rfl⟩
    · intro l hl
      rw [readAp_a _ _ (by simpa using hn), readAp_a _ _ hn, List.getElem_modify, if_pos rfl,
        setLanes_read _ _ (fun i hi => (laneList_mem.1 hi).1) _ hl]
      simp only [laneList_mem, hl, true_and]
    · intro j l hj
      have hj' : n.val ≠ j.val := fun e => hj (Fin.ext e.symm)
      simp only [readAp, List.getElem?_modify, if_neg hj', Option.map_eq_map, Option.map_id']
  · intro s tm sp x n m w v hcur hx hlen
    refine ⟨_, _, writeF_run_s hcur hx, Assoc.find_alter_some _ hx, ?_, ?_, rfl, rfl⟩
    · simp only [readAp, List.getElem?_set_self (show n.val < x.s.length by rw [hlen]; exact n.isLt)]
    · intro j hj
      have hj' : n.val ≠ j.val := fun e => hj (Fin.ext e.symm)
      simp only [readAp, List.getElem?_set_ne hj']
  · intro s q e n m w v hcur he hlen
    refine ⟨_, _, writeF_run_w hcur, Assoc.find_alter_some _ he, ?_, ?_, rfl, rfl⟩
    · simp only [readQ, List.getElem?_set_self (show n.val < e.w.length by rw [hlen]; exact n.isLt)]
    · intro j hj
      have hj' : n.val ≠ j.val := fun e => hj (Fin.ext e.symm)
      simp only [readQ, List.getElem?_set_ne hj']
  · refine ⟨fun _ _ _ _ => rfl, fun _ _ _ _ => rfl, fun _ _ _ => rfl, ?_, fun _ => rfl, ?_⟩
    · intro s tm sp v hcur hx
      obtain ⟨x, hx⟩ := Option.isSome_iff_exists.1 hx
      simp only [writePred, M.bind_run, M.unit_run hcur, M.lanes_run_ap hcur hx]
      rfl
    · intro side r x8 v mk hs h1 h2
      obtain ⟨i, hi⟩ := nameOf_k hs h1 h2
      simp only [readField, readReg, hi]
      rfl

end

section
/-! SUPPORT. A strip with two records of one number. -/

namespace Sys2Proof.Machine

/-- A sound strip whose current register has two records of one number, one of them live at lane 0 alone. -/
def twinStrip : Strip := { cur := [(0, (0, 3))], regs := [⟨0, 0, 1, 0, 0, 0⟩, ⟨0, 0, 2, 0, 0, 0⟩] }

theorem twinStrip_sound : twinStrip.sound 1 := by
  refine ⟨by decide, by decide, ?_⟩
  intro n c hc
  have h : n = 0 ∧ c = (0, 3) := by
    simp only [twinStrip, Assoc.find] at hc
    split at hc
    · next h0 => exact ⟨by simpa using h0.symm, by simpa using hc.symm⟩
    · simp at hc
  obtain ⟨rfl, rfl⟩ := h
  decide

/-- The last read of lane 0 keeps the name current, by the second record, while the first has no lane live any more. -/
theorem dropLane_twinStrip_not_sound : ¬ (twinStrip.dropLane 0).sound 1 := by
  rintro ⟨-, -, h⟩
  obtain ⟨-, h⟩ := h 0 (0, 3) (by decide)
  exact absurd h (by decide)

end Sys2Proof.Machine
end

section open Sys2Proof Machine

/-- Refutes O7: `Strip.sound` allows two records of one number, and of such a strip `dropLane` keeps a name current
by one of them where the other is dead. -/
theorem not_stripRegistersStaySound : ¬ Obligations.StripRegistersStaySound := by
  unfold Obligations.StripRegistersStaySound
  rintro ⟨-, h, -⟩
  obtain ⟨-, h, -⟩ := h twinStrip 1 0 0 0 0 false false (by decide) twinStrip_sound
  exact dropLane_twinStrip_not_sound h

end

section
/-! SUPPORT. Integer instructions complete: what is read, computed and written, once for the family. -/

namespace Sys2Proof.Machine

variable {s t t' : State} {u : Agent} {v : Opnds}

theorem M.width_run (h : s.cur = some u) : width s = .ok (widthOf u, s) := by
  cases u <;> simp only [width, M.bind_run, M.unit_run h, M.pure_run, widthOf]

/-- The fetch leaves the unit and its operands. -/
theorem Delivers.same {sh : Shape} {lk : LitKind} (h : Delivers s u sh lk v t) : t.cur = s.cur ∧ t.ir = s.ir := by
  have h1 := past_sameUnit s u
  have h2 := Keeps.fetch sameUnit_local sh lk _ _ _ h
  exact ⟨h2.1.trans h1.1, h2.2.1.trans h1.2.1⟩

theorem Delivers.cur {sh : Shape} {lk : LitKind} (h : Delivers s u sh lk v t) (he : Executes s u sh) : t.cur = some u :=
  h.same.1.trans he.1

theorem Delivers.ir {sh : Shape} {lk : LitKind} (h : Delivers s u sh lk v t) : t.ir = s.ir := h.same.2

/-- An integer row's body completes with its function of W, x8 and the operands. -/
theorem intOpX_completes {i : Instr} {sh : Shape} {f : Nat → Nat → Nat → Nat → Nat → Nat} (he : Executes s u sh)
    (hd : Delivers s u sh .int v t)
    (hw : Writes t s.ir.d sh.d (result v fun l =>
      f (widthOf u) s.ir.x8.toNat (v.a l).bits.toNat (v.b l).bits.toNat (v.c l).bits.toNat) t') :
    meaning (intOpX i sh f) s = .next (s.closed t' u i sh) := by
  have hk := sameUnit_local
  refine insn_completes he ?_ (Keeps.bind hk.toFrames (Keeps.fetch hk _ _) (fun _ => Keeps.bind hk.toFrames (Keeps.width hk.toFrames)
    (fun _ => Keeps.bind hk.toFrames (Keeps.ops hk.toFrames) (fun _ => Keeps.writeD hk _ _))))
  have hfetch : fetch sh .int (s.past u) = .ok (v, t) := hd
  simp only [M.bind_run, hfetch, M.width_run (hd.cur he), M.ops_run, writeD, hd.ir]
  exact hw

/-- Every integer row is its function under the family's frame. -/
theorem exec_intRow : ∀ r ∈ intRows, ∀ i ∈ r.1, ∀ s, exec i s = meaning (intOpX i r.2.1 r.2.2) s := by
  simp only [intRows, List.forall_mem_cons, List.not_mem_nil, false_implies, implies_true, and_true]
  and_intros <;> exact fun _ => rfl

theorem immOp_completes {i : Instr} {f : Nat → Nat → Int → Nat} (he : Executes s u one1) (hd : Delivers s u one1 .int v t)
    (hw : Writes t s.ir.d 1 (fun l => if (v.a l).poison || (v.c l).poison then Val.bad
      else Val.of (BitVec.ofNat 64 (f (widthOf u) (v.a l).bits.toNat (immOf s.ir.b)))) t') :
    meaning (immOp i f) s = .next (s.closed t' u i one1) := by
  have hk := sameUnit_local
  refine insn_completes he ?_ (Keeps.bind hk.toFrames (Keeps.fetch hk _ _) (fun _ => Keeps.bind hk.toFrames (Keeps.width hk.toFrames)
    (fun _ => Keeps.bind hk.toFrames (Keeps.ops hk.toFrames) (fun _ => Keeps.writeD hk _ _))))
  have hfetch : fetch one1 .int (s.past u) = .ok (v, t) := hd
  have hres : ∀ g, result ⟨v.a, fun _ => Val.zero, v.c⟩ g =
      fun l => if (v.a l).poison || (v.c l).poison then Val.bad else Val.of (BitVec.ofNat 64 (g l)) := by
    intro g; funext l; simp only [result, Opnds.bad, Val.zero, Bool.or_false]
  simp only [M.bind_run, hfetch, M.width_run (hd.cur he), M.ops_run, writeD, hd.ir, hres]
  exact hw

theorem exec_immRow : ∀ r ∈ immRows, ∀ i ∈ r.1, ∀ s, exec i s = meaning (immOp i r.2) s := by
  simp only [immRows, List.forall_mem_cons, List.not_mem_nil, false_implies, implies_true, and_true]
  and_intros <;> exact fun _ => rfl

/-! ### The immediate functions -/

variable {w : Nat} (a : BitVec w) (n : Nat)

theorem shliW_toNat : shliW w a.toNat n = (a <<< n).toNat := by
  simp only [shliW, Int.toNat_natCast, BitVec.toNat_shiftLeft, Nat.shiftLeft_eq]

theorem shriW_toNat : shriW w a.toNat n = (a >>> n).toNat := by
  simp only [shriW, Int.toNat_natCast, BitVec.toNat_ushiftRight, Nat.shiftRight_eq_div_pow]

theorem wrapN_toInt_shift (hw : 0 < w) : wrapN (sext a.toNat w / (2 ^ n : Nat)) w = (a.sshiftRight n).toNat := by
  rw [wrapN_eq_ofInt, sext_toNat_eq_toInt hw, ← Int.shiftRight_eq_div_pow]
  rfl

theorem iaddiW_toNat (z : Int) : iaddiW w a.toNat z = (a + BitVec.ofInt w z).toNat := by
  rw [iaddiW, wrapN_eq_ofInt, BitVec.ofInt_add, BitVec.ofInt_natCast, BitVec.ofNat_toNat, BitVec.setWidth_eq]

end Sys2Proof.Machine
end

section open Sys2Proof Machine

/-- Settles O8: every row is its function under the family's frame, and the frame completes. -/
theorem integerRowsComplete : Obligations.IntegerRowsComplete := by
  unfold Obligations.IntegerRowsComplete
  refine ⟨?_, ?_, ?_⟩
  · intro r hr i hi s t t' u v he hd hw
    rw [exec_intRow r hr i hi]
    exact intOpX_completes he hd hw
  · intro r hr i hi s t t' u v he hd hw
    rw [exec_immRow r hr i hi]
    exact immOp_completes he hd hw
  · intro w hw a n _
    have hpos : 0 < w := by omega
    exact ⟨shliW_toNat a n, shriW_toNat a n, wrapN_toInt_shift a n hpos, iaddiW_toNat a⟩

end

section
/-! SUPPORT. The compact integer functions against operations on bit vectors (R86). -/

namespace Sys2Proof.Machine

variable {w : Nat} (a b c : BitVec w)

theorem ofInt_sub (w : Nat) (x y : Int) : BitVec.ofInt w (x - y) = BitVec.ofInt w x - BitVec.ofInt w y := by
  rw [Int.sub_eq_add_neg, BitVec.ofInt_add, BitVec.ofInt_neg, BitVec.sub_eq_add_neg]

theorem ofInt_toNat (a : BitVec w) : BitVec.ofInt w (a.toNat : Int) = a := by
  rw [BitVec.ofInt_natCast, BitVec.ofNat_toNat, BitVec.setWidth_eq]

theorem isubW_toNat : isubW w a.toNat b.toNat = (a - b).toNat := by
  rw [isubW, wrapN_eq_ofInt, ofInt_sub, ofInt_toNat, ofInt_toNat]

theorem inegW_toNat : inegW w a.toNat = (-a).toNat := by
  rw [inegW, wrapN_eq_ofInt, BitVec.ofInt_neg, ofInt_toNat]

/-- A quotient by the modulus, below the modulus, is that of the residue modulo its square. -/
theorem emod_mul_self_ediv (x m : Int) (hm : 0 < m) : x % (m * m) / m % m = x / m % m := by
  rw [Int.emod_def x (m * m), Int.sub_eq_add_neg, Int.mul_assoc, ← Int.mul_neg,
    Int.add_mul_ediv_left _ _ (Int.ne_of_gt hm), ← Int.mul_neg, Int.add_mul_emod_self_left]

theorem imulhW_toNat (hw : 0 < w) :
    imulhW w a.toNat b.toNat = ((a.signExtend (2 * w) * b.signExtend (2 * w)).extractLsb' w w).toNat := by
  have hpow : ((2 ^ (2 * w) : Nat) : Int) = (2 ^ w : Nat) * (2 ^ w : Nat) := by rw [Nat.two_mul, pow_add]; push_cast; rfl
  have hm : (0 : Int) < (2 ^ w : Nat) := by exact_mod_cast Nat.two_pow_pos w
  rw [BitVec.signExtend, BitVec.signExtend, ← BitVec.ofInt_mul, BitVec.extractLsb'_toNat, Nat.shiftRight_eq_div_pow,
    BitVec.toNat_ofInt, imulhW, sext_toNat_eq_toInt hw, sext_toNat_eq_toInt hw, wrapN, ← emod_mul_self_ediv _ _ hm, hpow]
  generalize a.toInt * b.toInt = x
  obtain ⟨y, hy⟩ := Int.eq_ofNat_of_zero_le (Int.emod_nonneg x (Int.ne_of_gt (Int.mul_pos hm hm)))
  rw [hy]
  norm_cast

theorem imulhuW_toNat :
    imulhuW w a.toNat b.toNat = ((a.setWidth (2 * w) * b.setWidth (2 * w)).extractLsb' w w).toNat := by
  have hle : 2 ^ w ≤ 2 ^ (2 * w) := Nat.pow_le_pow_right (by decide) (by omega)
  have hlt : a.toNat * b.toNat < 2 ^ (2 * w) := by
    rw [Nat.two_mul, pow_add]
    exact Nat.mul_lt_mul'' a.isLt b.isLt
  rw [BitVec.extractLsb'_toNat, Nat.shiftRight_eq_div_pow, BitVec.toNat_mul, BitVec.toNat_setWidth, BitVec.toNat_setWidth,
    Nat.mod_eq_of_lt (Nat.lt_of_lt_of_le a.isLt hle), Nat.mod_eq_of_lt (Nat.lt_of_lt_of_le b.isLt hle), Nat.mod_eq_of_lt hlt,
    imulhuW]

theorem iminW_toNat (hw : 0 < w) : iminW w a.toNat b.toNat = (if a.sle b then a else b).toNat := by
  rw [iminW, sext_toNat_eq_toInt hw, sext_toNat_eq_toInt hw, BitVec.sle_eq_decide]
  simp only [decide_eq_true_eq, apply_ite BitVec.toNat]

theorem imaxW_toNat (hw : 0 < w) : imaxW w a.toNat b.toNat = (if a.sle b then b else a).toNat := by
  rw [imaxW, sext_toNat_eq_toInt hw, sext_toNat_eq_toInt hw, BitVec.sle_eq_decide]
  simp only [decide_eq_true_eq, apply_ite BitVec.toNat]

theorem uminW_toNat : uminW w a.toNat b.toNat = (if a ≤ b then a else b).toNat := by
  simp only [uminW, apply_ite BitVec.toNat, BitVec.le_def, Nat.min_def]

theorem umaxW_toNat : umaxW w a.toNat b.toNat = (if a ≤ b then b else a).toNat := by
  simp only [umaxW, apply_ite BitVec.toNat, BitVec.le_def, Nat.max_def]

theorem andnW_toNat : andnW w a.toNat b.toNat = (a &&& ~~~b).toNat := by
  rw [andnW, BitVec.toNat_and, BitVec.toNat_not]

theorem shlW_toNat : shlW w a.toNat b.toNat = (a <<< (b.toNat % 256)).toNat := by
  rw [shlW, BitVec.toNat_shiftLeft, Nat.shiftLeft_eq]
  split
  · next h =>
    obtain ⟨k, hk⟩ := Nat.exists_eq_add_of_le h
    rw [hk, pow_add, Nat.mul_left_comm, Nat.mul_mod_right]
  · rfl

theorem shrW_toNat : shrW w a.toNat b.toNat = (a >>> (b.toNat % 256)).toNat := by
  rw [shrW, BitVec.toNat_ushiftRight, Nat.shiftRight_eq_div_pow]
  split
  · next h => exact (Nat.div_eq_of_lt (Nat.lt_of_lt_of_le a.isLt (Nat.pow_le_pow_right (by decide) h))).symm
  · rfl

/-- A number of w bits shifted by w - 1 places or more is its sign. -/
theorem toInt_ediv_of_le (hw : 0 < w) {n : Nat} (h : w - 1 ≤ n) : a.toInt / (2 ^ n : Nat) = if a.toInt < 0 then -1 else 0 := by
  have hle : (2 ^ (w - 1) : Nat) ≤ 2 ^ n := Nat.pow_le_pow_right (by decide) h
  have h1 := BitVec.two_mul_toInt_lt (x := a)
  have h2 := BitVec.le_two_mul_toInt (x := a)
  have h3 : (2 : Int) ^ w = 2 * (2 ^ (w - 1) : Nat) := by
    push_cast
    rw [← pow_succ', Nat.sub_add_cancel hw]
  have hpos : (0 : Int) < (2 ^ n : Nat) := by exact_mod_cast Nat.two_pow_pos n
  split
  · exact ((Int.ediv_emod_unique (r := a.toInt + (2 ^ n : Nat)) hpos).2 ⟨by omega, by omega, by omega⟩).1
  · exact Int.ediv_eq_zero_of_lt (by omega) (by omega)

theorem sarW_toNat (hw : 0 < w) : sarW w a.toNat b.toNat = (a.sshiftRight (b.toNat % 256)).toNat := by
  rw [sarW, sext_toNat_eq_toInt hw, ← wrapN_toInt_shift a _ hw, sext_toNat_eq_toInt hw]
  rcases Nat.le_total (b.toNat % 256) (w - 1) with h | h
  · rw [Nat.min_eq_left h]
  · rw [Nat.min_eq_right h, toInt_ediv_of_le a hw le_rfl, toInt_ediv_of_le a hw h]

theorem rotlW_toNat (hw : 0 < w) : rotlW w a.toNat b.toNat = (a.rotateLeft (b.toNat % 256)).toNat := by
  rw [rotlW, BitVec.toNat_rotateLeft, Nat.shiftLeft_eq, Nat.shiftRight_eq_div_pow]
  have hn : b.toNat % 256 % w < w := Nat.mod_lt _ hw
  generalize b.toNat % 256 % w = n at hn
  have h1 : a.toNat / 2 ^ (w - n) < 2 ^ n := by
    rw [Nat.div_lt_iff_lt_mul (Nat.two_pow_pos _), ← pow_add, Nat.add_sub_cancel' (Nat.le_of_lt hn)]
    exact a.isLt
  have h2 : a.toNat * 2 ^ n % 2 ^ w = 2 ^ n * (a.toNat % 2 ^ (w - n)) := by
    rw [show 2 ^ w = 2 ^ n * 2 ^ (w - n) by rw [← pow_add, Nat.add_sub_cancel' (Nat.le_of_lt hn)], Nat.mul_comm,
      Nat.mul_mod_mul_left]
  rw [h2, Nat.two_pow_add_eq_or_of_lt h1]

theorem bit_eq_testBit (v i : Nat) : bit v i = v.testBit i := by
  rw [Nat.testBit_eq_decide_div_mod_eq, bit]
  rfl

theorem setBits_eq_filter (v n : Nat) : setBits v n = (List.range n).filter (fun i => v.testBit i) := by
  induction n with
  | zero => rfl
  | succ n ih =>
    rw [setBits, ih, List.range_succ, List.filter_append, bit_eq_testBit]
    cases h : v.testBit n <;> simp [h]

theorem popcW_toNat : popcW w a.toNat = ((List.range w).filter (fun i => a.getLsbD i)).length := by
  rw [popcW, setBits_eq_filter]
  rfl

theorem length_filter_range_lt {k n : Nat} (h : k ≤ n) : ((List.range n).filter (fun i => decide (i < k))).length = k := by
  induction n with
  | zero => simp; omega
  | succ n ih =>
    rw [List.range_succ, List.filter_append, List.length_append]
    rcases Nat.lt_or_ge n k with hk | hk
    · have hkn : k = n + 1 := by omega
      subst hkn
      rw [List.filter_eq_self.2 (fun i hi => by simpa using Nat.lt_succ_of_lt (List.mem_range.1 hi))]
      simp
    · rw [ih hk, List.filter_singleton, decide_eq_false (Nat.not_lt.2 hk)]
      rfl

theorem clzW_toNat : clzW w a.toNat = ((List.range w).filter (fun i => decide (a.toNat < 2 ^ (w - 1 - i)))).length := by
  rw [clzW, ← length_filter_range_lt (Nat.sub_le w (bitLen a.toNat))]
  congr 1
  refine List.filter_congr (fun i hi => ?_)
  have hi := List.mem_range.1 hi
  exact decide_eq_decide.2 (Iff.trans (by omega) bitLen_le_iff)

/-- Bits taken one after the other, the first in front. -/
theorem testBit_foldl_bits (v n i : Nat) :
    ((List.range n).foldl (fun r j => 2 * r + bits v j j) 0).testBit i = (decide (i < n) && v.testBit (n - 1 - i)) := by
  induction n generalizing i with
  | zero => simp
  | succ n ih =>
    rw [List.range_succ, List.foldl_append, List.foldl_cons, List.foldl_nil]
    have hb : bits v n n = (v.testBit n).toNat := by
      rw [bits, Nat.add_sub_cancel_left, pow_one, Nat.testBit_eq_decide_div_mod_eq]
      rcases Nat.mod_two_eq_zero_or_one (v / 2 ^ n) with h | h <;> simp [h]
    rw [hb]
    cases i with
    | zero => rw [Nat.testBit_zero]; cases hv : v.testBit n <;> simp [hv, Nat.add_mod]
    | succ i =>
      rw [Nat.testBit_succ, show (2 * _ + (v.testBit n).toNat) / 2 = _ from ?_, ih]
      · congr 1
        · exact decide_eq_decide.2 (by omega)
        · congr 1; omega
      · have := Bool.toNat_lt (v.testBit n)
        omega

theorem testBit_brevW {i : Nat} (hi : i < w) : Nat.testBit (brevW w a.toNat) i = a.getLsbD (w - 1 - i) := by
  rw [brevW, testBit_foldl_bits, decide_eq_true hi, Bool.true_and]
  rfl

theorem iabsW_toNat (hw : 0 < w) : iabsW w a.toNat = (if a.msb then -a else a).toNat := by
  rw [iabsW, sext_toNat_eq_toInt hw, wrapN_eq_ofInt, BitVec.msb_eq_toInt]
  rcases lt_or_ge a.toInt 0 with h | h
  · rw [Int.ofNat_natAbs_of_nonpos (Int.le_of_lt h), BitVec.ofInt_neg, BitVec.ofInt_toInt, decide_eq_true h, if_pos rfl]
  · rw [Int.natAbs_of_nonneg h, BitVec.ofInt_toInt, decide_eq_false (Int.not_lt.2 h), if_neg Bool.false_ne_true]

theorem sh2addW_toNat : sh2addW w a.toNat b.toNat = (a * 4 + b).toNat := by
  rw [BitVec.toNat_add, BitVec.toNat_mul, BitVec.ofNat_eq_ofNat, BitVec.toNat_ofNat, sh2addW, Nat.mul_mod_mod, Nat.mod_add_mod, Nat.mul_comm]

theorem sh3addW_toNat : sh3addW w a.toNat b.toNat = (a * 8 + b).toNat := by
  rw [BitVec.toNat_add, BitVec.toNat_mul, BitVec.ofNat_eq_ofNat, BitVec.toNat_ofNat, sh3addW, Nat.mul_mod_mod, Nat.mod_add_mod, Nat.mul_comm]

theorem pack2W_toNat :
    pack2W w a.toNat b.toNat = (a.extractLsb' 0 (w / 2)).toNat + 2 ^ (w / 2) * (b.extractLsb' 0 (w / 2)).toNat := by
  rw [pack2W, BitVec.extractLsb'_toNat, BitVec.extractLsb'_toNat, Nat.shiftRight_zero, Nat.shiftRight_zero, Nat.mul_comm (2 ^ _)]

end Sys2Proof.Machine
end
section
/-! SUPPORT. Division and the wide integer functions against operations on bit vectors (R87-R91). -/

namespace Sys2Proof.Machine

variable {w : Nat} (a b c : BitVec w)

theorem toNat_ne_zero {b : BitVec w} (h : b ≠ 0) : b.toNat ≠ 0 := fun h0 => h (BitVec.eq_of_toNat_eq (by simpa using h0))

theorem idivW_toNat (hw : 0 < w) {b : BitVec w} (h : b ≠ 0) : idivW w a.toNat b.toNat = (a.sdiv b).toNat := by
  rw [idivW, if_neg (toNat_ne_zero h), sext_toNat_eq_toInt hw, sext_toNat_eq_toInt hw, wrapN_eq_ofInt]
  congr 1
  exact BitVec.eq_of_toInt_eq (by rw [BitVec.toInt_ofInt, BitVec.toInt_sdiv])

theorem iremW_toNat (hw : 0 < w) {b : BitVec w} (h : b ≠ 0) : iremW w a.toNat b.toNat = (a.srem b).toNat := by
  rw [iremW, if_neg (toNat_ne_zero h), sext_toNat_eq_toInt hw, sext_toNat_eq_toInt hw, wrapN_eq_ofInt, ← BitVec.toInt_srem,
    BitVec.ofInt_toInt]

theorem imadW_toNat : imadW w a.toNat b.toNat c.toNat = (a * b + c).toNat := by
  rw [BitVec.toNat_add, BitVec.toNat_mul, imadW, Nat.mod_add_mod]

/-- A sum of w bits depends on its parts modulo 2^w. -/
theorem natAbs_add_mod (x y : BitVec w) (d : Int) (hd : BitVec.ofInt w d.natAbs = x) : (d.natAbs + y.toNat) % 2 ^ w = (x + y).toNat := by
  rw [← hd, BitVec.toNat_add, BitVec.ofInt_natCast, BitVec.toNat_ofNat, Nat.mod_add_mod]

theorem isadW_signed (hw : 0 < w) :
    isadW w false a.toNat b.toNat c.toNat = ((if a.sle b then b - a else a - b) + c).toNat := by
  refine natAbs_add_mod _ _ _ ?_
  rw [if_neg Bool.false_ne_true, sext_toNat_eq_toInt hw, sext_toNat_eq_toInt hw, BitVec.sle_eq_decide]
  rcases Int.le_total a.toInt b.toInt with h | h
  · rw [decide_eq_true h, if_pos rfl, Int.ofNat_natAbs_of_nonpos (by omega), Int.neg_sub, ofInt_sub, BitVec.ofInt_toInt,
      BitVec.ofInt_toInt]
  · rw [Int.natAbs_of_nonneg (by omega), ofInt_sub, BitVec.ofInt_toInt, BitVec.ofInt_toInt]
    split
    · next h' =>
      have : a = b := BitVec.eq_of_toInt_eq (Int.le_antisymm (of_decide_eq_true h') h)
      subst this
      rfl
    · rfl

theorem isadW_unsigned : isadW w true a.toNat b.toNat c.toNat = ((if a ≤ b then b - a else a - b) + c).toNat := by
  refine natAbs_add_mod _ _ _ ?_
  rw [if_pos rfl]
  simp only [BitVec.le_def]
  split
  · next h => rw [Int.ofNat_natAbs_of_nonpos (by omega), Int.neg_sub, ofInt_sub, ofInt_toNat, ofInt_toNat]
  · next h => rw [Int.natAbs_of_nonneg (by omega), ofInt_sub, ofInt_toNat, ofInt_toNat]

theorem satS_eq (x : Int) : satS x w =
    (BitVec.ofInt w (max (-((2 : Int) ^ (w - 1) - 1) - 1) (min x ((2 : Int) ^ (w - 1) - 1)))).toNat := by
  rw [satS, wrapN_eq_ofInt, Int.neg_sub, sub_sub_cancel_left]
  push_cast
  rfl

theorem satU_add : satU ((a.toNat : Int) + b.toNat) w = min (a.toNat + b.toNat) (2 ^ w - 1) := by
  have := Nat.two_pow_pos w
  unfold satU
  omega

theorem satU_sub : satU ((a.toNat : Int) - b.toNat) w = a.toNat - b.toNat := by
  have := a.isLt
  unfold satU
  omega

/-! ### Bit fields -/

theorem bits_pos : bits b.toNat 7 0 = (b.extractLsb' 0 8).toNat := by
  rw [BitVec.extractLsb'_toNat, Nat.shiftRight_eq_div_pow]; rfl

theorem bits_len : bits b.toNat 15 8 = (b.extractLsb' 8 8).toNat := by
  rw [BitVec.extractLsb'_toNat, Nat.shiftRight_eq_div_pow]; rfl

theorem bfgetW_unsigned :
    bfgetW w false a.toNat b.toNat =
      (a >>> (b.extractLsb' 0 8).toNat).toNat % 2 ^ min (b.extractLsb' 8 8).toNat w := by
  rw [bfgetW, bits_pos, bits_len, BitVec.toNat_ushiftRight, Nat.shiftRight_eq_div_pow]
  generalize (b.extractLsb' 0 8).toNat = pos
  have hlen : min (b.extractLsb' 8 8).toNat w ≤ w := Nat.min_le_right _ _
  generalize min (b.extractLsb' 8 8).toNat w = len at hlen
  simp only [Bool.false_eq_true, if_false]
  split
  · next h => rw [h, pow_zero, Nat.mod_one]
  · have : (((a.toNat : Int) / (2 ^ pos : Nat)) % (2 ^ len : Nat)).toNat = a.toNat / 2 ^ pos % 2 ^ len := by norm_cast
    rw [this]
    exact Nat.mod_eq_of_lt (Nat.lt_of_lt_of_le (Nat.mod_lt _ (Nat.two_pow_pos _)) (Nat.pow_le_pow_right (by decide) hlen))

theorem toNat_setWidth_sshiftRight {len : Nat} (hlen : len ≤ w) (pos : Nat) :
    ((a.sshiftRight pos).setWidth len).toNat = (a.toInt / (2 ^ pos : Nat) % (2 ^ len : Nat)).toNat := by
  have hdvd : ((2 ^ len : Nat) : Int) ∣ (2 ^ w : Nat) := by exact_mod_cast Nat.pow_dvd_pow 2 hlen
  have hpos : (0 : Int) < (2 ^ w : Nat) := by exact_mod_cast Nat.two_pow_pos w
  rw [BitVec.toNat_setWidth, BitVec.sshiftRight, BitVec.toNat_ofInt, Int.shiftRight_eq_div_pow, ← Int.emod_emod_of_dvd _ hdvd]
  obtain ⟨y, hy⟩ := Int.eq_ofNat_of_zero_le (Int.emod_nonneg (a.toInt / (2 ^ pos : Nat)) (Int.ne_of_gt hpos))
  rw [hy]
  norm_cast

theorem bfgetW_signed (hw : 0 < w) :
    bfgetW w true a.toNat b.toNat =
      (((a.sshiftRight (b.extractLsb' 0 8).toNat).setWidth (min (b.extractLsb' 8 8).toNat w)).signExtend w).toNat := by
  rw [bfgetW, bits_pos, bits_len, sext_toNat_eq_toInt hw]
  generalize (b.extractLsb' 0 8).toNat = pos
  have hlen : min (b.extractLsb' 8 8).toNat w ≤ w := Nat.min_le_right _ _
  generalize min (b.extractLsb' 8 8).toNat w = len at hlen
  simp only [if_true]
  split
  · next h => subst h; simp [BitVec.signExtend, BitVec.toInt_zero_length]
  · next h =>
    rw [← toNat_setWidth_sshiftRight a hlen, sext_toNat_eq_toInt (Nat.pos_of_ne_zero h), wrapN_eq_ofInt]
    rfl

theorem testBit_field {pos len i : Nat} (hi : i < w) :
    Nat.testBit ((2 ^ len - 1) * 2 ^ pos % 2 ^ w) i = decide (pos ≤ i ∧ i < pos + len) := by
  rw [Nat.testBit_mod_two_pow, Nat.testBit_mul_two_pow, Nat.testBit_two_pow_sub_one, decide_eq_true hi, Bool.true_and,
    ← Bool.decide_and]
  exact decide_eq_decide.2 (by omega)

theorem bfputW_lt : bfputW w a.toNat b.toNat c.toNat < 2 ^ w :=
  Nat.or_lt_two_pow (Nat.lt_of_le_of_lt Nat.and_le_left c.isLt)
    (Nat.lt_of_le_of_lt Nat.and_le_left (Nat.mod_lt _ (Nat.two_pow_pos w)))

theorem testBit_bfputW {i : Nat} (hi : i < w) :
    Nat.testBit (bfputW w a.toNat b.toNat c.toNat) i =
      if (b.extractLsb' 0 8).toNat ≤ i ∧ i < (b.extractLsb' 0 8).toNat + min (b.extractLsb' 8 8).toNat w then
        a.getLsbD (i - (b.extractLsb' 0 8).toNat) else c.getLsbD i := by
  rw [bfputW, bits_pos, bits_len]
  generalize (b.extractLsb' 0 8).toNat = pos
  generalize min (b.extractLsb' 8 8).toNat w = len
  simp only [Nat.testBit_or, Nat.testBit_and]
  rw [Nat.sub_sub, Nat.add_comm 1, Nat.testBit_two_pow_sub_succ (Nat.mod_lt _ (Nat.two_pow_pos w)), testBit_field hi,
    Nat.testBit_mod_two_pow, Nat.testBit_mul_two_pow, decide_eq_true hi]
  by_cases h : pos ≤ i ∧ i < pos + len
  · simp [h, BitVec.getLsbD]
  · simp [h, BitVec.getLsbD]

/-! ### Shifts across two registers -/

theorem bits_low_byte (c : Nat) : bits c 7 0 = c % 256 := by rw [bits, pow_zero, Nat.div_one]; rfl

theorem append_toNat : (b ++ a).toNat = b.toNat * 2 ^ w + a.toNat := by
  rw [BitVec.toNat_append, Nat.shiftLeft_eq, Nat.mul_comm, Nat.two_pow_add_eq_or_of_lt a.isLt]

theorem funnelW_right : funnelW w false a.toNat b.toNat c.toNat = ((b ++ a) >>> (c.toNat % 256 % w)).toNat % 2 ^ w := by
  rw [BitVec.toNat_ushiftRight, append_toNat, Nat.shiftRight_eq_div_pow, funnelW, bits_low_byte]
  rfl

theorem funnelW_left : funnelW w true a.toNat b.toNat c.toNat = ((b ++ a) <<< (c.toNat % 256 % w)).toNat / 2 ^ w := by
  rw [BitVec.toNat_shiftLeft, append_toNat, Nat.shiftLeft_eq, funnelW, bits_low_byte, pow_add, Nat.mod_mul_right_div_self]
  rfl

/-! ### Comparisons -/

theorem icmpW_less (hw : 0 < w) (x : Nat) :
    (if bit x 3 then decide (a.toNat < b.toNat) else decide (sext a.toNat w < sext b.toNat w)) =
      if x.testBit 3 then a.ult b else a.slt b := by
  rw [bit_eq_testBit, sext_toNat_eq_toInt hw, sext_toNat_eq_toInt hw, BitVec.ult_eq_decide, BitVec.slt_eq_decide]

theorem icmpW_cases (hw : 0 < w) (x : Nat) :
    icmpW w x a.toNat b.toNat =
      match x % 8 with
      | 0 => decide (a = b)
      | 1 => decide (a ≠ b)
      | 2 => if x.testBit 3 then a.ult b else a.slt b
      | 3 => (if x.testBit 3 then a.ult b else a.slt b) || decide (a = b)
      | 4 => !((if x.testBit 3 then a.ult b else a.slt b) || decide (a = b))
      | _ => !(if x.testBit 3 then a.ult b else a.slt b) := by
  have heq : (a.toNat == b.toNat) = decide (a = b) := decide_eq_decide.2 BitVec.toNat_inj
  simp only [icmpW, icmpW_less a b hw, heq, bne, decide_not] <;> rfl

/-! ### 64-bit products of 32-bit words -/

theorem sext_mod (v n : Nat) : sext (v % 2 ^ n) n = sext v n := by
  unfold sext
  rw [Nat.mod_mod]

theorem ofInt_extU_false (v : BitVec 64) : BitVec.ofInt 64 (extU false v.toNat) = (v.setWidth 32).signExtend 64 := by
  rw [BitVec.signExtend, ← sext_toNat_eq_toInt (by decide), BitVec.toNat_setWidth, sext_mod]
  rfl

theorem ofInt_extU_true (v : BitVec 64) : BitVec.ofInt 64 (extU true v.toNat) = (v.setWidth 32).setWidth 64 := by
  apply BitVec.eq_of_toNat_eq
  rw [extU, if_pos rfl, BitVec.ofInt_natCast, BitVec.toNat_ofNat, BitVec.toNat_setWidth, BitVec.toNat_setWidth]

theorem imulwW_toNat (x : Bool) (a b : BitVec 64) :
    imulwW x a.toNat b.toNat = (BitVec.ofInt 64 (extU x a.toNat) * BitVec.ofInt 64 (extU x b.toNat)).toNat := by
  rw [imulwW, wrapN_eq_ofInt, BitVec.ofInt_mul]

theorem imad64W_toNat (x : Bool) (a b c : BitVec 64) :
    imad64W x a.toNat b.toNat c.toNat = (BitVec.ofInt 64 (extU x a.toNat) * BitVec.ofInt 64 (extU x b.toNat) + c).toNat := by
  rw [imad64W, wrapN_eq_ofInt, BitVec.ofInt_add, BitVec.ofInt_mul, ofInt_toNat]

/-! ### Bytes selected -/

/-- The byte BYSEL gives for one selector (R90). -/
def selectByte (a b sel : Nat) : Nat :=
  let x := if sel % 8 < 4 then a / 256 ^ (sel % 8) % 256 else b / 256 ^ (sel % 8 - 4) % 256
  if sel / 8 % 4 = 0 then x else if sel / 8 % 4 = 1 then 0 else if sel / 8 % 4 = 2 then (if 128 ≤ x then 255 else 0) else 255

theorem selectByte_lt (a b sel : Nat) : selectByte a b sel < 256 := by
  unfold selectByte
  dsimp only
  split_ifs <;> omega

theorem bits_byte (v k : Nat) : bits v (8 * k + 7) (8 * k) = v / 256 ^ k % 256 := by
  rw [bits, show 8 * k + 7 + 1 - 8 * k = 8 by omega, pow_mul]; rfl

theorem byte_of_pair (a b : Nat) {k : Nat} (hk : k < 8) :
    (a % 2 ^ 32 + b % 2 ^ 32 * 2 ^ 32) / 256 ^ k % 256 = if k < 4 then a / 256 ^ k % 256 else b / 256 ^ (k - 4) % 256 := by
  interval_cases k <;> simp <;> omega

theorem byselW_eq (a b c : Nat) :
    byselW a b c = selectByte a b (c / 256 ^ 0 % 256) + selectByte a b (c / 256 ^ 1 % 256) * 2 ^ 8 +
      selectByte a b (c / 256 ^ 2 % 256) * 2 ^ 16 + selectByte a b (c / 256 ^ 3 % 256) * 2 ^ 24 := by
  have hbyte : ∀ sel : Nat, (match sel / 8 % 4 with
      | 0 => (a % 2 ^ 32 + b % 2 ^ 32 * 2 ^ 32) / 256 ^ (sel % 8) % 256
      | 1 => 0
      | 2 => if (a % 2 ^ 32 + b % 2 ^ 32 * 2 ^ 32) / 256 ^ (sel % 8) % 256 ≥ 128 then 255 else 0
      | _ => 255) = selectByte a b sel := by
    intro sel
    rw [byte_of_pair a b (Nat.mod_lt sel (by decide)), selectByte]
    have h4 : sel / 8 % 4 < 4 := Nat.mod_lt _ (by decide)
    generalize sel / 8 % 4 = m at h4
    interval_cases m <;> simp
  simp only [byselW, bits_byte, ← hbyte] <;> rfl

theorem byselW_lt (a b c : Nat) : byselW a b c < 2 ^ 32 := by
  rw [byselW_eq]
  have h0 := selectByte_lt a b (c / 256 ^ 0 % 256)
  have h1 := selectByte_lt a b (c / 256 ^ 1 % 256)
  have h2 := selectByte_lt a b (c / 256 ^ 2 % 256)
  have h3 := selectByte_lt a b (c / 256 ^ 3 % 256)
  omega

theorem byselW_byte (a b c : Nat) {i : Nat} (hi : i < 4) :
    byselW a b c / 256 ^ i % 256 = selectByte a b (c / 256 ^ i % 256) := by
  rw [byselW_eq]
  have h0 := selectByte_lt a b (c / 256 ^ 0 % 256)
  have h1 := selectByte_lt a b (c / 256 ^ 1 % 256)
  have h2 := selectByte_lt a b (c / 256 ^ 2 % 256)
  have h3 := selectByte_lt a b (c / 256 ^ 3 % 256)
  interval_cases i <;> omega

end Sys2Proof.Machine
end

section open Sys2Proof Machine

/-- Settles O9: function by function, against the operation on bit vectors. -/
theorem integerResults : Obligations.IntegerResults := by
  unfold Obligations.IntegerResults
  refine ⟨?_, ?_, ?_, ?_⟩
  · intro w hw a b
    have hpos : 0 < w := by omega
    exact ⟨rfl, (BitVec.toNat_add a b).symm, isubW_toNat a b, (BitVec.toNat_mul a b).symm, imulhW_toNat a b hpos,
      imulhuW_toNat a b, iminW_toNat a b hpos, imaxW_toNat a b hpos, uminW_toNat a b, umaxW_toNat a b,
      (BitVec.toNat_and a b).symm, (BitVec.toNat_or a b).symm, (BitVec.toNat_xor a b).symm, andnW_toNat a b, shlW_toNat a b,
      shrW_toNat a b, sarW_toNat a b hpos, rotlW_toNat a b hpos, popcW_toNat a, clzW_toNat a, fun i => testBit_brevW a,
      iabsW_toNat a hpos, inegW_toNat a, sh2addW_toNat a b, sh3addW_toNat a b, pack2W_toNat a b⟩
  · intro w hw a b
    have hpos : 0 < w := by omega
    refine ⟨rfl, rfl, rfl, rfl, fun hb => ?_, ?_⟩
    · have h0 := toNat_ne_zero hb
      exact ⟨idivW_toNat a hpos hb, by rw [udivW, if_neg h0, BitVec.toNat_udiv], iremW_toNat a hpos hb,
        by rw [uremW, if_neg h0, BitVec.toNat_umod]⟩
    · rcases hw with rfl | rfl <;> decide
  · intro w hw a b c
    have hpos : 0 < w := by omega
    dsimp only
    refine ⟨imadW_toNat a b c, isadW_signed a b c hpos, isadW_unsigned a b c, ?_, satU_add a b, ?_, satU_sub a b,
      bfgetW_unsigned a b, bfgetW_signed a b hpos, bfputW_lt a b c, fun i => testBit_bfputW a b c, funnelW_right a b c,
      funnelW_left a b c, fun x p q => ?_⟩
    · rw [← sext_toNat_eq_toInt hpos, ← sext_toNat_eq_toInt hpos]
      exact satS_eq _
    · rw [← sext_toNat_eq_toInt hpos, ← sext_toNat_eq_toInt hpos]
      exact satS_eq _
    · rw [icmpW_cases a b hpos]
      refine ⟨fun h => by rw [h]; rfl, fun h => by rw [h]; rfl, fun h => by rw [h]; rfl, fun h => by rw [h]; rfl,
        fun h => by rw [h]; rfl, fun h => by rw [h]; rfl, fun h => by rw [combine, h]; rfl, fun h => by rw [combine, h]; rfl,
        fun h => by rw [combine, h]; cases p <;> cases q <;> rfl⟩
  · intro a b c
    dsimp only
    refine ⟨?_, ?_, ?_, ?_, byselW_lt _ _ _, fun i hi => byselW_byte _ _ _ hi⟩
    · rw [imulwW_toNat, ofInt_extU_false, ofInt_extU_false]
    · rw [imulwW_toNat, ofInt_extU_true, ofInt_extU_true]
    · rw [imad64W_toNat, ofInt_extU_false, ofInt_extU_false]
    · rw [imad64W_toNat, ofInt_extU_true, ofInt_extU_true]

end

section
/-! SUPPORT. Completion of an instruction from what its body's parts leave: the unit that runs, and parts that only read. -/

namespace Sys2Proof.Machine

variable {α : Type} {s t t' : State} {u : Agent} {v : Opnds} {sh : Shape}

/-- A first part that only reads may be evaluated before the instruction's frame. -/
theorem meaning_read {m : M α} {f : α → M Unit} {a : α} (h : m s = .ok (a, s)) : meaning (m >>= f) s = meaning (f a) s := by
  unfold meaning
  split
  · simp only [runUnit, M.bind_run, h]
  · rfl

theorem SameUnit.trans {r : State} (h1 : SameUnit s t) (h2 : SameUnit t r) : SameUnit s r := sameUnit_local.trans h1 h2

theorem SameUnit.refl (s : State) : SameUnit s s := sameUnit_local.refl s

/-- An instruction that executes, and whose body ends well in the same unit, completes. -/
theorem insn_completes_of_sameUnit {i : Instr} {body : M Unit} (h : Executes s u sh) (hb : body (s.past u) = .ok ((), t))
    (hs : SameUnit (s.past u) t) : meaning (insn i sh body) s = .next (s.closed t u i sh) := by
  have h1 := (past_sameUnit s u).trans hs
  exact insn_next h hb (h1.1.trans h.1) (by rw [h1.2.2]; exact h.isSome)

theorem Delivers.sameUnit {lk : LitKind} (h : Delivers s u sh lk v t) : SameUnit (s.past u) t :=
  Keeps.fetch sameUnit_local sh lk _ _ _ h

theorem Writes.sameUnit {f : Field} {w : Nat} {x : Lanes} (h : Writes s f w x t) : SameUnit s t :=
  Keeps.writeF sameUnit_local f w x _ _ _ h

theorem writePred_sameUnit {f : Field} {x : Nat → PBit} (h : writePred f x s = .ok ((), t)) : SameUnit s t :=
  Keeps.writePred sameUnit_local f x _ _ _ h

theorem Executes.past_cur (h : Executes s u sh) : (s.past u).cur = some u := (State.past_cur s u).trans h.1

/-- Passing an instruction leaves a thread's fields but its control. -/
theorem State.past_exs_find {tm tid : Nat} {x : ExThread} (hx : s.exs.find (exKey tm tid) = some x) :
    ∃ c, (s.past (.ex tm tid)).exs.find (exKey tm tid) = some { x with ctl := c } :=
  ⟨_, Assoc.find_alter_some _ hx⟩

theorem State.past_aps_find_ctl {tm sp : Nat} {x : ApThread} (hx : s.aps.find (stripKey tm sp) = some x) :
    ∃ c, (s.past (.ap tm sp)).aps.find (stripKey tm sp) = some { x with ctl := c } :=
  ⟨_, Assoc.find_alter_some _ hx⟩

end Sys2Proof.Machine
end

section
/-! SUPPORT. The integer instructions with predicates complete. -/

namespace Sys2Proof.Machine

variable {s t t' : State} {u : Agent} {v : Opnds}

theorem icmpf_completes {c : Nat → PBit} (he : Executes s u two1) (hd : Delivers s u two1 .int v t)
    (hc : readPred s.ir.c t = .ok (c, t))
    (hw : writePred s.ir.d (fun l =>
      if (v.a l).poison || (v.b l).poison || (c l).poison then ⟨false, true⟩
      else ⟨combine s.ir.x8.toNat (icmpW (widthOf u) s.ir.x8.toNat (v.a l).bits.toNat (v.b l).bits.toNat) (c l).val, false⟩) t =
        .ok ((), t')) :
    exec .icmpf s = .next (s.closed t' u .icmpf two1) := by
  have hfetch : fetch two1 .int (s.past u) = .ok (v, t) := hd
  refine insn_completes_of_sameUnit he ?_ (hd.sameUnit.trans (writePred_sameUnit hw))
  simp only [M.bind_run, hfetch, M.width_run (hd.cur he), M.ops_run, hd.ir, hc]
  exact hw

theorem pick_completes {c : Nat → PBit} (he : Executes s u two1) (hd : Delivers s u two1 .int v t)
    (hc : readPred s.ir.c t = .ok (c, t))
    (hw : Writes t s.ir.d 1 (fun l =>
      if (v.a l).poison || (v.b l).poison || (c l).poison then Val.bad else if (c l).val then v.a l else v.b l) t') :
    exec .pick s = .next (s.closed t' u .pick two1) := by
  have hfetch : fetch two1 .int (s.past u) = .ok (v, t) := hd
  refine insn_completes_of_sameUnit he ?_ (hd.sameUnit.trans hw.sameUnit)
  simp only [M.bind_run, hfetch, M.ops_run, hd.ir, hc, writeD]
  exact hw

/-- The fields of MOVI with its width. -/
def moviShape (w : Nat) : Shape := { d := w, a := 0, b := w, c := 0 }

theorem movi_completes {w : Nat} (hw : w = if s.ir.x8.getLsbD 0 then 2 else 1) (he : Executes s u (moviShape w))
    (hd : Delivers s u (moviShape w) .int v t) (ht : Writes t s.ir.d w v.b t') :
    exec .movi s = .next (s.closed t' u .movi (moviShape w)) := by
  subst hw
  have hfetch : fetch (moviShape _) .int (s.past u) = .ok (v, t) := hd
  have hbody : meaning moviOp s = _ := meaning_read (M.ops_run s)
  refine hbody.trans (insn_completes_of_sameUnit he ?_ (hd.sameUnit.trans ht.sameUnit))
  refine (M.bind_ok hfetch).trans ?_
  simp only [writeD, M.bind_run, M.ops_run, hd.ir]
  exact ht

/-- What MOVP.get reads: an execute thread's predicates, an access thread's mask. -/
def movpRead (s : State) (u : Agent) (v : Lanes) : Prop :=
  match u with
  | .ex tm tid => ∀ x, s.exs.find (exKey tm tid) = some x → v =
      fun _ => if x.fp = 0 then Val.of (BitVec.ofNat 64 (x.f.toNat + 128)) else Val.bad
  | .ap tm sp => ∀ x, s.aps.find (stripKey tm sp) = some x → ∃ n, s.ir.a = .pred n ∧ v =
      fun _ => if (x.maskOf n.val).poison then Val.bad else Val.of ((x.maskOf n.val).bits.setWidth 64)
  | .qe _ => False

theorem movpGet_completes {v : Lanes} (he : Executes s u getShape)
    (hr : awaitRegs [(s.ir.d, 1)] (s.past u) = .ok ((), s.past u)) (hp : checkPorts getShape (s.past u) = .ok ((), s.past u))
    (hv : movpRead s u v) (hw : Writes (s.past u) s.ir.d 1 v t') :
    exec .movpGet s = .next (s.closed t' u .movpGet getShape) := by
  refine insn_completes_of_sameUnit he ?_ hw.sameUnit
  have hcur := he.past_cur
  simp only [M.bind_run, M.ops_run, State.past_ir, hr, hp, M.unit_run hcur]
  obtain ⟨-, he⟩ := he
  cases u with
  | ex tm tid =>
    obtain ⟨x, g, hx, -⟩ := he
    obtain ⟨c, hx'⟩ := State.past_exs_find hx
    obtain rfl := hv x hx
    simp only [M.bind_run, M.exThread_run hcur hx', writeD, M.ops_run, State.past_ir]
    exact hw
  | ap tm sp =>
    obtain ⟨x, hx, -⟩ := he
    obtain ⟨c, hx'⟩ := State.past_aps_find_ctl hx
    obtain ⟨n, hn, rfl⟩ := hv x hx
    simp only [M.bind_run, M.apThread_run hcur hx', writeD, M.ops_run, State.past_ir, hn, M.pure_run]
    exact hw
  | qe n => exact hv.elim

/-- What MOVP.put does to the unit: the predicates that b names, or the whole mask. -/
def movpWritten (s t : State) (u : Agent) (v : Opnds) (r : State) : Prop :=
  match u with
  | .ex tm tid => r = t.modEx tm tid (fun x => (List.range 7).foldl (fun x i =>
      if bit (heldVal (v.b 0)).bits.toNat i then
        x.setF i (bit (v.a 0).bits.toNat i && !((v.a 0).poison || (v.b 0).poison)) ((v.a 0).poison || (v.b 0).poison)
      else x) x)
  | .ap tm sp => ∃ n, s.ir.d = .pred n ∧ r = if n.val = 7 then t else
      t.modAp tm sp (fun x => { x with m := x.m.set n.val ⟨(heldVal (v.a 0)).bits.setWidth 16, (v.a 0).poison⟩ })
  | .qe _ => False

theorem movpPut_completes {r : State} (he : Executes s u (putShape s)) (hd : Delivers s u two1 .int v t)
    (hr : movpWritten s t u v r) : exec .movpPut s = .next (s.closed r u .movpPut (putShape s)) := by
  have hfetch : fetch two1 .int (s.past u) = .ok (v, t) := hd
  have hbody : meaning movpPutOp s = _ := meaning_read (M.get_run s)
  have hcur : t.cur = some u := hd.same.1.trans he.1
  refine hbody.trans ?_
  cases u with
  | ex tm tid =>
    obtain rfl := hr
    refine insn_completes_of_sameUnit he ?_ (hd.sameUnit.trans (sameUnit_local.ex _ _ _ _))
    simp only [M.bind_run, hfetch, M.unit_run hcur]
    rfl
  | ap tm sp =>
    obtain ⟨n, hn, rfl⟩ := hr
    have hv : (if (v.a 0).poison then (0 : BitVec 16) else (v.a 0).bits.setWidth 16) = (heldVal (v.a 0)).bits.setWidth 16 := by
      unfold heldVal
      split
      · rfl
      · rfl
    by_cases h7 : n.val = 7
    · refine insn_completes_of_sameUnit he ?_ (by rw [if_pos h7]; exact hd.sameUnit)
      simp only [M.bind_run, hfetch, M.unit_run hcur, M.ops_run, hd.ir, hn, if_pos h7, M.pure_run]
    · refine insn_completes_of_sameUnit he ?_ (by rw [if_neg h7]; exact hd.sameUnit.trans (sameUnit_local.ap _ _ _ _))
      simp only [M.bind_run, hfetch, M.unit_run hcur, M.ops_run, hd.ir, hn, if_neg h7, M.modify_run, hv]
  | qe n => exact hr.elim

/-- The fields of FLUT: predicates alone. -/
def flutShape : Shape := { a := 0, b := 0, c := 0 }

theorem flut_completes {a b c : Nat → PBit} (he : Executes s u flutShape)
    (ha : readPred s.ir.a (s.past u) = .ok (a, s.past u)) (hb : readPred s.ir.b (s.past u) = .ok (b, s.past u))
    (hc : readPred s.ir.c (s.past u) = .ok (c, s.past u))
    (hw : writePred s.ir.d (fun l =>
      if (a l).poison || (b l).poison || (c l).poison then ⟨false, true⟩
      else ⟨s.ir.x8.getLsbD ((if (a l).val then 4 else 0) + (if (b l).val then 2 else 0) + (if (c l).val then 1 else 0)), false⟩)
        (s.past u) = .ok ((), t')) :
    exec .flut s = .next (s.closed t' u .flut flutShape) := by
  refine insn_completes_of_sameUnit he ?_ (writePred_sameUnit hw)
  have hindex : ∀ x y z : Bool, 4 * (if x then 1 else 0) + 2 * (if y then 1 else 0) + (if z then 1 else 0) =
      (if x then 4 else 0) + (if y then 2 else 0) + (if z then 1 else 0) := by decide
  simp only [M.bind_run, M.ops_run, State.past_ir, ha, hb, hc, hindex]
  exact hw

end Sys2Proof.Machine
end

section open Sys2Proof Machine

/-- Settles O10: instruction by instruction, the body evaluated on what its fields deliver. -/
theorem predicateRowsComplete : Obligations.PredicateRowsComplete := by
  unfold Obligations.PredicateRowsComplete
  refine ⟨?_, ?_, ?_, ?_, ?_, ?_⟩
  · intro s t t' u v c he hd hc hw
    exact icmpf_completes he hd hc hw
  · intro s t t' u v c he hd hc hw
    exact pick_completes he hd hc hw
  · intro s t t' u v w sh he hd hw
    exact movi_completes rfl he hd hw
  · intro s t' u v sh he hr hp hv hw
    exact movpGet_completes he hr hp hv hw
  · intro s t u v he hd bad
    cases u with
    | ex tm tid => exact movpPut_completes he hd rfl
    | ap tm sp => exact fun n hn => movpPut_completes he hd ⟨n, hn, rfl⟩
    | qe n => trivial
  · intro s t' u a b c sh he ha hb hc hw
    exact flut_completes he ha hb hc hw

end

section
/-! SUPPORT. Exception flags: raising them enters them in the team's word or traps (R75). -/

namespace Sys2Proof.Machine

variable {s t t' : State} {u : Agent} {v : Opnds} {sh : Shape} {tm tid : Nat}

/-- The same unit runs in the same team and grid. -/
def SameTeams (s t : State) : Prop := t.cur = s.cur ∧ t.ir = s.ir ∧ t.teams = s.teams ∧ t.grids = s.grids

theorem sameTeams_local : Local SameTeams where
  refl _ := ⟨rfl, rfl, rfl, rfl⟩
  trans h1 h2 := ⟨h2.1.trans h1.1, h2.2.1.trans h1.2.1, h2.2.2.1.trans h1.2.2.1, h2.2.2.2.trans h1.2.2.2⟩
  ex _ _ _ _ := ⟨rfl, rfl, rfl, rfl⟩
  ap _ _ _ _ := ⟨rfl, rfl, rfl, rfl⟩
  engine _ _ _ := ⟨rfl, rfl, rfl, rfl⟩
  ports _ _ := ⟨rfl, rfl, rfl, rfl⟩
  strips _ _ _ := ⟨rfl, rfl, rfl, rfl⟩
  ctx _ _ _ := ⟨rfl, rfl, rfl, rfl⟩
  mgmt _ _ := ⟨rfl, rfl, rfl, rfl⟩

theorem past_sameTeams (s : State) (u : Agent) : SameTeams s (s.past u) :=
  ⟨State.past_cur s u, State.past_ir s u, State.past_teams s u, State.past_grids s u⟩

theorem Delivers.sameTeams {lk : LitKind} (h : Delivers s u sh lk v t) : SameTeams s t :=
  sameTeams_local.trans (past_sameTeams s u) (Keeps.fetch sameTeams_local sh lk _ _ _ h)

theorem SameTeams.enabled (h : SameTeams s t) (u : Agent) : t.enabled u = s.enabled u := by
  obtain ⟨-, -, hteams, hgrids⟩ := h
  cases u <;> simp only [State.enabled, State.teamOf, State.recordOf, hteams, hgrids]

/-- Flags none of which is enabled enter the team's word. -/
theorem raise_run {g : Team} {fl : FlagSet} (hcur : s.cur = some (.ex tm tid)) (hg : s.teams.find tm = some g)
    (h : fl &&& s.enabled (.ex tm tid) = 0) : raise fl s = .ok ((), s.raised (.ex tm tid) fl) := by
  have hteam : s.teamOf (.ex tm tid) = some g := hg
  simp only [State.enabled, hteam, Option.elim_some] at h
  simp only [raise, M.bind_run, M.unit_run hcur, M.team_run hcur hteam, M.get_run, h, if_true, M.modify_run, State.raised]

/-- An enabled flag traps with the lowest. -/
theorem raise_traps {g : Team} {fl : FlagSet} (hcur : s.cur = some (.ex tm tid)) (hg : s.teams.find tm = some g)
    (h : fl &&& s.enabled (.ex tm tid) ≠ 0) :
    raise fl s = .error (.trap { tinfo 0x10 (lowFlag (fl &&& s.enabled (.ex tm tid))) with flags := fl }) := by
  have hteam : s.teamOf (.ex tm tid) = some g := hg
  simp only [State.enabled, hteam, Option.elim_some] at h ⊢
  simp only [raise, M.bind_run, M.unit_run hcur, M.team_run hcur hteam, M.get_run, if_neg h, M.stopTrap_run]

theorem raised_sameUnit (s : State) (tm tid : Nat) (fl : FlagSet) : SameUnit s (s.raised (.ex tm tid) fl) := sameUnit_team s _ _

theorem Executes.team (h : Executes s (.ex tm tid) sh) : ∃ g, s.teams.find tm = some g := by
  obtain ⟨-, -, g, -, hg, -⟩ := h
  exact ⟨g, hg⟩

/-- An instruction that executes, and whose body stops in a trap, takes it. -/
theorem insn_traps {i : Instr} {body : M Unit} {x : TrapInfo} (h : Executes s (.ex tm tid) sh)
    (hb : body (s.past (.ex tm tid)) = .error (.trap x)) :
    meaning (insn i sh body) s = .next (s.takeTrap (.ex tm tid) x (len0Of s.ir.form)) := by
  obtain ⟨hcur, x, g, hx1, hg, hgd, hz⟩ := h
  have hteam : s.teamOf (.ex tm tid) = some g := hg
  replace hz : (LRec.check (s.recordOf g) && true && hazHit x.hazards s.ir sh) = false := by rwa [Bool.and_true]
  simp only [meaning, hcur, runUnit, insn, insnWith, M.bind_run, M.ops_run, M.unit_run hcur, M.exThread_run hcur hx1,
    checkMode, M.get_run, M.team_run hcur hteam, M.pure_run, hgd, hz, M.trapIf_false, M.advance_run hcur, hb, if_true]

end Sys2Proof.Machine
end

section
/-! SUPPORT. Floating-point instructions complete, or take FPE: once for each frame of the family. -/

namespace Sys2Proof.Machine

variable {s t t' : State} {v : Opnds} {sh : Shape} {tm tid : Nat} {i : Instr} {lk : LitKind}

/-- What a floating-point body computes on its operands. -/
def fpResult (f : Nat → Nat → Nat → Nat → FRes) (s : State) (v : Opnds) : FRes :=
  f s.ir.x8.toNat (v.a 0).bits.toNat (v.b 0).bits.toNat (v.c 0).bits.toNat

theorem fpOp_completes {f : Nat → Nat → Nat → Nat → FRes} (he : Executes s (.ex tm tid) sh)
    (hd : Delivers s (.ex tm tid) sh lk v t) (hq : v.bad 0 = false → (fpResult f s v).flags &&& s.enabled (.ex tm tid) = 0)
    (hw : Writes (if v.bad 0 then t else t.raised (.ex tm tid) (fpResult f s v).flags) s.ir.d sh.d
      (fun _ => if v.bad 0 then Val.bad else Val.of (BitVec.ofNat 64 (fpResult f s v).bits)) t') :
    meaning (fpOp i sh lk f) s = .next (s.closed t' (.ex tm tid) i sh) := by
  have hfetch : fetch sh lk (s.past (.ex tm tid)) = .ok (v, t) := hd
  obtain ⟨g, hg⟩ := he.team
  have hsame := hd.sameTeams
  have hg' : t.teams.find tm = some g := by rw [hsame.2.2.1]; exact hg
  cases hbad : v.bad 0 with
  | true =>
    simp only [hbad, if_true] at hw
    refine insn_completes_of_sameUnit he ?_ (hd.sameUnit.trans hw.sameUnit)
    simp only [M.bind_run, hfetch, M.ops_run, hbad, if_true, writeD, hd.ir]
    exact hw
  | false =>
    simp only [hbad, Bool.false_eq_true, if_false] at hw
    refine insn_completes_of_sameUnit he ?_ ((hd.sameUnit.trans (raised_sameUnit t tm tid _)).trans hw.sameUnit)
    have hraise := raise_run (hd.cur he) hg' ((congrArg _ (hsame.enabled _)).trans (hq hbad))
    simp only [fpResult] at hraise hw
    simp only [M.bind_run, hfetch, M.ops_run, hbad, Bool.false_eq_true, if_false, writeD, hd.ir, hraise, State.raised,
      State.modTeam_ir]
    exact hw

theorem fpOp_traps {f : Nat → Nat → Nat → Nat → FRes} (he : Executes s (.ex tm tid) sh)
    (hd : Delivers s (.ex tm tid) sh lk v t) (hbad : v.bad 0 = false)
    (hq : (fpResult f s v).flags &&& s.enabled (.ex tm tid) ≠ 0) :
    meaning (fpOp i sh lk f) s = .next (s.takeTrap (.ex tm tid)
      { tinfo 0x10 (lowFlag ((fpResult f s v).flags &&& s.enabled (.ex tm tid))) with flags := (fpResult f s v).flags }
      (len0Of s.ir.form)) := by
  have hfetch : fetch sh lk (s.past (.ex tm tid)) = .ok (v, t) := hd
  obtain ⟨g, hg⟩ := he.team
  have hsame := hd.sameTeams
  have hg' : t.teams.find tm = some g := by rw [hsame.2.2.1]; exact hg
  refine insn_traps he ?_
  rw [← hsame.enabled] at hq ⊢
  have hraise := raise_traps (hd.cur he) hg' hq
  simp only [fpResult] at hraise
  simp only [M.bind_run, hfetch, M.ops_run, hbad, Bool.false_eq_true, if_false, hd.ir, hraise, fpResult]

/-- Every floating-point row is its function under the family's frame. -/
theorem exec_fpRow : ∀ r ∈ fpRows, ∀ i ∈ r.1, ∀ s, exec i s = meaning (fpOp i r.2.1 r.2.2.1 r.2.2.2) s := by
  simp only [fpRows, List.forall_mem_cons, List.not_mem_nil, false_implies, implies_true, and_true]
  and_intros <;> exact fun _ => rfl

theorem exec_cvtRow : ∀ r ∈ cvtRows, ∀ s : State, exec r.1 s =
    meaning (fpOp r.1 (cvtShape s.ir.x8) .int (fun x a _ _ => r.2 x a)) s := by
  simp only [cvtRows, List.forall_mem_cons, List.not_mem_nil, false_implies, implies_true, and_true]
  and_intros <;> exact fun s => meaning_read (M.ops_run s)

/-! ### Comparisons and the check for a finite value -/

/-- A body that reads its operands, raises flags and writes a predicate, unless a source is poisoned. -/
theorem predicate_completes {body : M Unit} {bad : Bool} {fl : FlagSet} {f : Field} {x y : Nat → PBit}
    (he : Executes s (.ex tm tid) sh) (hd : Delivers s (.ex tm tid) sh lk v t)
    (hbody : body (s.past (.ex tm tid)) = (if bad then writePred f x else raise fl >>= fun _ => writePred f y) t)
    (hq : bad = false → fl &&& s.enabled (.ex tm tid) = 0)
    (hw : writePred f (if bad then x else y) (if bad then t else t.raised (.ex tm tid) fl) = .ok ((), t')) :
    meaning (insn i sh body) s = .next (s.closed t' (.ex tm tid) i sh) := by
  obtain ⟨g, hg⟩ := he.team
  have hsame := hd.sameTeams
  have hg' : t.teams.find tm = some g := by rw [hsame.2.2.1]; exact hg
  cases bad with
  | true =>
    simp only [if_true] at hw hbody
    exact insn_completes_of_sameUnit he (hbody.trans hw) (hd.sameUnit.trans (writePred_sameUnit hw))
  | false =>
    simp only [Bool.false_eq_true, if_false] at hw hbody
    refine insn_completes_of_sameUnit he (hbody.trans ?_)
      ((hd.sameUnit.trans (raised_sameUnit t tm tid _)).trans (writePred_sameUnit hw))
    rw [M.bind_ok (raise_run (hd.cur he) hg' ((congrArg _ (hsame.enabled _)).trans (hq rfl)))]
    exact hw

theorem predicate_traps {body : M Unit} {fl : FlagSet} {f : Field} {y : Nat → PBit}
    (he : Executes s (.ex tm tid) sh) (hd : Delivers s (.ex tm tid) sh lk v t)
    (hbody : body (s.past (.ex tm tid)) = (raise fl >>= fun _ => writePred f y) t)
    (hq : fl &&& s.enabled (.ex tm tid) ≠ 0) :
    meaning (insn i sh body) s = .next (s.takeTrap (.ex tm tid)
      { tinfo 0x10 (lowFlag (fl &&& s.enabled (.ex tm tid))) with flags := fl } (len0Of s.ir.form)) := by
  obtain ⟨g, hg⟩ := he.team
  have hsame := hd.sameTeams
  have hg' : t.teams.find tm = some g := by rw [hsame.2.2.1]; exact hg
  refine insn_traps he ?_
  rw [← hsame.enabled] at hq ⊢
  rw [hbody, M.bind_error (raise_traps (hd.cur he) hg' hq)]

/-- The fields of a comparison of values of width w. -/
def cmpShape (w : Nat) : Shape := { a := w, b := w, c := 0 }

/-- The comparison x8 selects. -/
def cmpResult (f : Fmt) (s : State) (v : Opnds) : Bool × FlagSet :=
  cmpV (s.ir.x8.toNat % 8) (bit s.ir.x8.toNat 3) (f.decode (v.a 0).bits.toNat) (f.decode (v.b 0).bits.toNat)

/-- The body of a comparison, as it stands under its frame. -/
def fcmpBody (f : Fmt) (w : Nat) (lk : LitKind) : M Unit := do
  let v ← fetch (cmpShape w) lk
  let o ← ops
  let c ← readPred o.c
  let x := o.x8.toNat
  if (v.a 0).poison || (v.b 0).poison || (c 0).poison then writePred o.d (fun _ => ⟨false, true⟩)
  else
    let r := cmpV (x % 8) (bit x 3) (f.decode (v.a 0).bits.toNat) (f.decode (v.b 0).bits.toNat)
    raise r.2
    writePred o.d (fun _ => ⟨combine x r.1 (c 0).val, false⟩)

theorem fcmpOp_eq (i : Instr) (f : Fmt) (w : Nat) (lk : LitKind) : fcmpOp i f w lk = insn i (cmpShape w) (fcmpBody f w lk) := rfl

theorem fcmpBody_run {f : Fmt} {w : Nat} {c : Nat → PBit} (hd : Delivers s (.ex tm tid) (cmpShape w) lk v t)
    (hc : readPred s.ir.c t = .ok (c, t)) :
    fcmpBody f w lk (s.past (.ex tm tid)) =
      (if (v.a 0).poison || (v.b 0).poison || (c 0).poison then writePred s.ir.d (fun _ => ⟨false, true⟩)
       else raise (cmpResult f s v).2 >>= fun _ =>
        writePred s.ir.d (fun _ => ⟨combine s.ir.x8.toNat (cmpResult f s v).1 (c 0).val, false⟩)) t := by
  refine (M.bind_ok hd).trans ?_
  rw [M.bind_ok (M.ops_run t), hd.ir, M.bind_ok hc]
  rfl

theorem fcmp_completes {f : Fmt} {w : Nat} {c : Nat → PBit} (he : Executes s (.ex tm tid) (cmpShape w))
    (hd : Delivers s (.ex tm tid) (cmpShape w) lk v t) (hc : readPred s.ir.c t = .ok (c, t))
    (hq : ((v.a 0).poison || (v.b 0).poison || (c 0).poison) = false → (cmpResult f s v).2 &&& s.enabled (.ex tm tid) = 0)
    (hw : writePred s.ir.d (fun _ => if (v.a 0).poison || (v.b 0).poison || (c 0).poison then ⟨false, true⟩
        else ⟨combine s.ir.x8.toNat (cmpResult f s v).1 (c 0).val, false⟩)
      (if (v.a 0).poison || (v.b 0).poison || (c 0).poison then t else t.raised (.ex tm tid) (cmpResult f s v).2) = .ok ((), t')) :
    meaning (fcmpOp i f w lk) s = .next (s.closed t' (.ex tm tid) i (cmpShape w)) := by
  refine predicate_completes he hd (fcmpBody_run hd hc) hq (Eq.trans (congrArg (fun z => writePred _ z _) ?_) hw)
  split <;> rfl

theorem fcmp_traps {f : Fmt} {w : Nat} {c : Nat → PBit} (he : Executes s (.ex tm tid) (cmpShape w))
    (hd : Delivers s (.ex tm tid) (cmpShape w) lk v t) (hc : readPred s.ir.c t = .ok (c, t))
    (ha : (v.a 0).poison = false) (hb : (v.b 0).poison = false) (hcp : (c 0).poison = false)
    (hq : (cmpResult f s v).2 &&& s.enabled (.ex tm tid) ≠ 0) :
    meaning (fcmpOp i f w lk) s = .next (s.takeTrap (.ex tm tid)
      { tinfo 0x10 (lowFlag ((cmpResult f s v).2 &&& s.enabled (.ex tm tid))) with flags := (cmpResult f s v).2 }
      (len0Of s.ir.form)) := by
  have hrun := fcmpBody_run (f := f) hd hc
  simp only [ha, hb, hcp, Bool.or_self, Bool.false_eq_true, if_false] at hrun
  exact predicate_traps he hd hrun hq

/-- Every comparison with its format, width and literal kind. -/
theorem exec_fcmp : ∀ r ∈ [(Instr.fcmpf, binary32, 1, LitKind.int), (.dcmpf, binary64, 2, .binary64)], ∀ s,
    exec r.1 s = meaning (fcmpOp r.1 r.2.1 r.2.2.1 r.2.2.2) s := by
  simp only [List.forall_mem_cons, List.not_mem_nil, false_implies, implies_true, and_true]
  and_intros <;> exact fun _ => rfl

/-- The fields of FCHK for a format. -/
def fchkShape (x8 : BitVec 8) : Shape := { a := if fmt64 (x8.toNat % 16) then 2 else 1, b := 0, c := 0 }

/-- The value FCHK looks at. -/
def fchkValue (s : State) (v : Opnds) : FV := (fmtOf (s.ir.x8.toNat % 16)).decode (v.a 0).bits.toNat

/-- The body of FCHK, as it stands under its frame. -/
def fchkBody (o : Ops) : M Unit := do
  let v ← fetch (fchkShape o.x8) .int
  if (v.a 0).poison then writePred o.d (fun _ => ⟨false, true⟩)
  else
    let u := (fmtOf (o.x8.toNat % 16)).decode (v.a 0).bits.toNat
    raise (if u.isSnan then fNV else 0)
    writePred o.d (fun _ => ⟨!(u.isNan || u.isInf), false⟩)

theorem exec_fchk (s : State) : exec .fchk s = meaning (insn .fchk (fchkShape s.ir.x8) (fchkBody s.ir)) s :=
  meaning_read (M.ops_run s)

theorem fchkBody_run (hd : Delivers s (.ex tm tid) (fchkShape s.ir.x8) .int v t) :
    fchkBody s.ir (s.past (.ex tm tid)) =
      (if (v.a 0).poison then writePred s.ir.d (fun _ => ⟨false, true⟩)
       else raise (if (fchkValue s v).isSnan then fNV else 0) >>= fun _ =>
        writePred s.ir.d (fun _ => ⟨!((fchkValue s v).isNan || (fchkValue s v).isInf), false⟩)) t := M.bind_ok hd

theorem fchk_completes (he : Executes s (.ex tm tid) (fchkShape s.ir.x8)) (hd : Delivers s (.ex tm tid) (fchkShape s.ir.x8) .int v t)
    (hq : (v.a 0).poison = false → (if (fchkValue s v).isSnan then fNV else 0) &&& s.enabled (.ex tm tid) = 0)
    (hw : writePred s.ir.d (fun _ => if (v.a 0).poison then ⟨false, true⟩
        else ⟨!((fchkValue s v).isNan || (fchkValue s v).isInf), false⟩)
      (if (v.a 0).poison then t else t.raised (.ex tm tid) (if (fchkValue s v).isSnan then fNV else 0)) = .ok ((), t')) :
    exec .fchk s = .next (s.closed t' (.ex tm tid) .fchk (fchkShape s.ir.x8)) := by
  refine (exec_fchk s).trans
    (predicate_completes he hd (fchkBody_run hd) hq (Eq.trans (congrArg (fun z => writePred _ z _) ?_) hw))
  split <;> rfl

theorem fchk_traps (he : Executes s (.ex tm tid) (fchkShape s.ir.x8)) (hd : Delivers s (.ex tm tid) (fchkShape s.ir.x8) .int v t)
    (ha : (v.a 0).poison = false) (hn : (fchkValue s v).isSnan = true) (hq : fNV &&& s.enabled (.ex tm tid) ≠ 0) :
    exec .fchk s = .next (s.takeTrap (.ex tm tid)
      { tinfo 0x10 (lowFlag (fNV &&& s.enabled (.ex tm tid))) with flags := fNV } (len0Of s.ir.form)) := by
  have hrun := fchkBody_run hd
  simp only [ha, hn, Bool.false_eq_true, if_false, if_true] at hrun
  exact (exec_fchk s).trans (predicate_traps he hd hrun hq)

end Sys2Proof.Machine
end

section open Sys2Proof Machine

/-- Settles O11: each frame of the family completes, or stops in the trap of its enabled flags. -/
theorem floatingRowsComplete : Obligations.FloatingRowsComplete := by
  unfold Obligations.FloatingRowsComplete
  refine ⟨⟨?_, ?_⟩, ⟨?_, ?_⟩, ?_⟩
  · intro r hr i hi s t t' tm tid v u q he hd hq hw
    rw [exec_fpRow r hr i hi]
    exact fpOp_completes he hd hq hw
  · intro r hr s t t' tm tid v u sh q he hd hq hw
    rw [exec_cvtRow r hr]
    exact fpOp_completes he hd hq hw
  · intro r hr s t t' tm tid v c u sh q bad he hd hc hq hw
    rw [exec_fcmp r hr]
    exact fcmp_completes he hd hc hq hw
  · intro s t t' tm tid v u f sh q fl he hd hq hw
    exact fchk_completes he hd hq hw
  · intro trapped
    refine ⟨?_, ?_, ?_, ?_⟩
    · intro r hr i hi s t tm tid v u q he hd hbad hq
      exact (exec_fpRow r hr i hi s).trans (fpOp_traps he hd hbad hq)
    · intro r hr s t tm tid v u q he hd hbad hq
      exact (exec_cvtRow r hr s).trans (fpOp_traps he hd hbad hq)
    · intro r hr s t tm tid v c u sh q he hd hc ha hb hcp hq
      exact (exec_fcmp r hr s).trans (fcmp_traps he hd hc ha hb hcp hq)
    · intro s t tm tid v u f sh he hd ha hn hq
      exact fchk_traps he hd ha hn hq

end

section
/-! SUPPORT. Instructions of the common frame of R42: an instruction runs a body under the frame, after reads that give it its fields. -/

namespace Sys2Proof.Machine

/-- A meaning in a state that is an instruction's frame around some body. -/
def Framed (i : Instr) (sh : Shape) (s : State) (o : Host.Outcome State Fault Refusal) : Prop :=
  ∃ body, o = meaning (insn i sh body) s

namespace Framed

variable {α : Type} {i : Instr} {sh : Shape} {s : State} {u : Agent}

theorem insn (body : M Unit) : Framed i sh s (meaning (insn i sh body) s) := ⟨body, rfl⟩

theorem read {m : M α} {f : α → M Unit} {a : α} (h : m s = .ok (a, s)) (hf : Framed i sh s (meaning (f a) s)) :
    Framed i sh s (meaning (m >>= f) s) := by
  obtain ⟨b, hb⟩ := hf
  exact ⟨b, (meaning_read h).trans hb⟩

theorem ops {f : Ops → M Unit} (hf : Framed i sh s (meaning (f s.ir) s)) : Framed i sh s (meaning (Machine.ops >>= f) s) :=
  read (M.ops_run s) hf

theorem unit {f : Agent → M Unit} (h : s.cur = some u) (hf : Framed i sh s (meaning (f u) s)) :
    Framed i sh s (meaning (Machine.unit >>= f) s) := read (M.unit_run h) hf

theorem get {f : State → M Unit} (hf : Framed i sh s (meaning (f s) s)) : Framed i sh s (meaning (MonadState.get >>= f) s) :=
  read (M.get_run s) hf

theorem blockOp (start : M (List (Nat × Req))) (fin : (Nat → Val) → M Unit) :
    Framed i sh s (meaning (blockOp i sh start fin) s) := get (insn _)

theorem ite {c : Prop} [Decidable c] {m n : M Unit} (hm : Framed i sh s (meaning m s)) (hn : Framed i sh s (meaning n s)) :
    Framed i sh s (meaning (if c then m else n) s) := by
  split
  · exact hm
  · exact hn

end Framed

variable {s : State} {u : Agent}

theorem ldsOp_framed (h : s.cur = some u) (i : Instr) (size? : Option Nat) (spE spA kinds : List Nat) :
    Framed i { d := if size?.getD (2 ^ Hnd.ew (s.handleOf u s.ir.x8.toNat)) = 8 then 2 else 1, a := 0, b := 1,
               c := if size?.isNone then 1 else 0 } s (meaning (ldsOp i size? spE spA kinds) s) := by
  refine .ops (.unit h (.get ?_))
  cases u with
  | ap tm sp => exact .ite (.insn _) (.blockOp _ _)
  | ex tm tid => exact .insn _
  | qe n => exact .insn _

theorem atomsOp_framed (h : s.cur = some u) :
    Framed .atoms { d := ewFields (s.handleOf u s.ir.x8.toNat), a := ewFields (s.handleOf u s.ir.x8.toNat), b := 1, c := 1 } s
      (exec .atoms s) := by
  refine .ops (.unit h (.get ?_))
  cases u with
  | ap tm sp => exact .ite (.blockOp _ _) (.insn _)
  | ex tm tid => exact .insn _
  | qe n => exact .insn _

theorem atqOp_framed (h : s.cur = some u) : Framed .atq { d := 0 } s (exec .atq s) := by
  refine .ops (.unit h (.get ?_))
  dsimp only
  cases portOf s.ir.d with
  | none => exact .blockOp _ _
  | some n => exact .insn _


theorem exec_registerRow_framed (s : State) : ∀ r ∈ registerRows, ∀ i ∈ r.1, Framed i (r.2 s.ir) s (exec i s) := by
  intro r hr i hi
  simp only [registerRows, List.mem_append, List.mem_map] at hr
  rcases hr with ((⟨r, hr, rfl⟩ | ⟨r, hr, rfl⟩) | ⟨r, hr, rfl⟩) | ⟨r, hr, rfl⟩
  · exact ⟨_, exec_intRow r hr i hi s⟩
  · exact ⟨_, exec_immRow r hr i hi s⟩
  · exact ⟨_, exec_fpRow r hr i hi s⟩
  · rw [List.mem_singleton.1 hi]
    exact ⟨_, exec_cvtRow r hr s⟩

theorem exec_mappedRow_framed (s : State) (u : Agent) :
    ∀ r ∈ registerRows.map (fun r => (r.1, fun (o : Ops) (_ : Handle) => r.2 o)), ∀ i ∈ r.1,
      Framed i (r.2 s.ir (s.handleOf u s.ir.x8.toNat)) s (exec i s) := by
  intro r hr i hi
  obtain ⟨q, hq, rfl⟩ := List.mem_map.1 hr
  exact exec_registerRow_framed s q hq i hi

/-- Every instruction of the frame but MOVP.put is one under the reads that give it its fields, in the order of the rows. -/
theorem exec_row_framed (h : s.cur = some u) :
    ∀ r ∈ fieldRows ++ guardRows, ∀ i ∈ r.1, Framed i (r.2 s.ir (s.handleOf u s.ir.x8.toNat)) s (exec i s) := by
  simp only [fieldRows, guardRows, List.forall_mem_append, List.forall_mem_cons, List.not_mem_nil, false_implies,
    implies_true, and_true, and_assoc]
  exact ⟨exec_mappedRow_framed s u,
    .insn _, .insn _, .ops (.insn _), .insn _, .insn _, .insn _, .insn _, .ops (.insn _), .insn _, .insn _, .insn _,
    .insn _, .insn _, .insn _, .insn _, .insn _, .insn _, .insn _, .insn _, .insn _, .insn _, .insn _, .insn _, .insn _,
    .insn _, .insn _, .insn _, .insn _, .insn _, .insn _, .insn _, .insn _, .insn _, ldsOp_framed h _ _ _ _ _, ldsOp_framed h _ _ _ _ _,
    ldsOp_framed h _ _ _ _ _, ldsOp_framed h _ _ _ _ _, ldsOp_framed h _ _ _ _ _, .ops (.unit h (.get (.insn _))), .ops (.unit h (.get (.insn _))),
    .ops (.unit h (.get (.insn _))), .ops (.unit h (.get (.insn _))), .ops (.unit h (.get (.insn _))),
    .ops (.unit h (.get (.insn _))), atomsOp_framed h, .ops (.get (.unit h (.insn _))), .insn _, .ops (.unit h (.insn _)),
    .ops (.unit h (.get (.insn _))), .ops (.unit h (.get (.insn _))), .ops (.insn _), .ops (.insn _), .ops (.insn _),
    .ops (.insn _), .ops (.insn _), .insn _, .insn _, .insn _, .insn _, .insn _, .insn _, .ops (.insn _), .ops (.insn _),
    .ops (.get (.insn _)), .insn _, .insn _, .insn _, .ops (.insn _), .ops (.insn _), .ops (.get (.unit h (.insn _))),
    .ops (.get (.insn _)), .insn _, .insn _, .ops (.insn _), .ops (.insn _), .ops (.insn _), .ops (.insn _), .ops (.insn _),
    .ops (.insn _), .ops (.unit h (.insn _)), .ops (.unit h (.insn _)), .ops (.unit h (.insn _)), .ops (.insn _),
    .ops (.insn _), .ops (.get (.unit h (.get (.insn _)))), .ops (.get (.insn _)), .ops (.unit h (.insn _)), .ops (.insn _),
    .ops (.unit h (.insn _)), .ops (.unit h (.insn _)), .ops (.insn _), .insn _, .insn _, .insn _, .insn _, .ops (.insn _),
    .ops (.insn _), .ops (.insn _), .ops (.insn _), .ops (.insn _), .ops (.insn _), .ops (.get (.insn _)), .ops (.insn _),
    .ops (.insn _), .ops (.insn _), .ops (.insn _), .ops (.insn _), .ops (.insn _), .ops (.insn _), atqOp_framed h,
    .ops (.get (.unit h (.get (.insn _)))), .ops (.insn _)⟩

theorem exec_movpPut_framed (s : State) : Framed .movpPut (putShape s) s (exec .movpPut s) := .get (.insn _)

theorem exec_frameRow_framed (h : s.cur = some u) : ∀ row ∈ frameRows, ∀ i ∈ row.1, Framed i (row.2 s u) s (exec i s) := by
  intro row hrow i hi
  rcases List.mem_append.1 hrow with hrow | hrow
  · obtain ⟨r, hr, rfl⟩ := List.mem_map.1 hrow
    exact exec_row_framed h r hr i hi
  · obtain rfl := List.mem_singleton.1 hrow
    obtain rfl := List.mem_singleton.1 hi
    exact exec_movpPut_framed s

end Sys2Proof.Machine
end
section
/-! SUPPORT. An instruction whose guard is false or poisoned (R42): what it still does, and that no body matters. -/

namespace Sys2Proof.Machine

/-- Every thread watches the same writes. -/
def SameHazards (s t : State) : Prop := ∀ k, (t.exs.find k).map (·.hazards) = (s.exs.find k).map (·.hazards)

theorem sameHazards_frames : Frames SameHazards := ⟨fun _ _ => rfl, fun h1 h2 k => (h2 k).trans (h1 k)⟩

theorem sameHazards_of_exs {s t : State} (h : t.exs = s.exs) : SameHazards s t := fun k => by rw [h]

theorem sameHazards_modEx (s : State) (tm tid : Nat) (f : ExThread → ExThread) (hf : ∀ x, (f x).hazards = x.hazards) :
    SameHazards s (s.modEx tm tid f) := by
  intro k
  rw [State.modEx_exs, Assoc.find_alter]
  split
  · next h => rw [h]; cases s.exs.find (exKey tm tid) <;> simp [hf]
  · rfl

theorem sameHazards_modCtl (s : State) (u : Agent) (f : Ctl → Ctl) : SameHazards s (s.modCtl u f) := by
  cases u with
  | ex tm tid => exact sameHazards_modEx s tm tid _ (fun _ => rfl)
  | ap tm sp => exact fun _ => rfl
  | qe n => exact fun _ => rfl

theorem State.discard_exs (s : State) (tm sp n : Nat) : (s.discard tm sp n).exs = s.exs := by
  unfold State.discard
  split <;> rfl

theorem State.retire_exs (s : State) (tm sp key : Nat) : (s.retire tm sp key).exs = s.exs := by
  have hdead : ∀ dead : Nat, (if dead = 0 then s else s.discard tm sp dead).exs = s.exs := by
    intro dead
    split
    · rfl
    · exact State.discard_exs s tm sp _
  unfold State.retire
  split
  · rfl
  · exact hdead _

theorem modCtl_sameHazards (f : Ctl → Ctl) : Keeps SameHazards (modCtl f) :=
  Keeps.bind sameHazards_frames (Keeps.unit sameHazards_frames) (fun u => Keeps.modify (fun s => sameHazards_modCtl s u f))

/-- A pop changes its thread's position, tokens and end marks, never what it watches. -/
theorem popE_sameHazards (port n : Nat) (d : Bool) : Keeps SameHazards (popE port n d) := by
  have hf := sameHazards_frames
  have hadv : ∀ (s : State) (m : Assoc Port) (tm sp key : Nat), SameHazards s (({ s with ports := m } : State).retire tm sp key) :=
    fun s m tm sp key => sameHazards_of_exs (State.retire_exs _ tm sp key)
  unfold Machine.popE
  repeat' first
    | with_reducible exact Keeps.pure hf _
    | with_reducible exact Keeps.get hf
    | with_reducible exact Keeps.unit hf
    | with_reducible exact Keeps.ctl hf
    | with_reducible exact Keeps.stopTrap _
    | with_reducible exact Keeps.throw _
    | with_reducible exact Keeps.waitUnless hf _ _
    | with_reducible exact modCtl_sameHazards _
    | with_reducible exact Keeps.modify (fun s => sameHazards_modEx s _ _ _ (fun _ => rfl))
    | with_reducible exact Keeps.modify (fun s => sameHazards_of_exs (State.discard_exs s _ _ _))
    | with_reducible exact Keeps.modify (fun s => hadv s _ _ _ _)
    | with_reducible refine Keeps.bind hf ?_ (fun _ => ?_)
    | split
    | dsimp only

theorem advPops_sameHazards (sh : Shape) : Keeps SameHazards (advPops sh) := by
  have hf := sameHazards_frames
  unfold Machine.advPops
  refine Keeps.bind hf (Keeps.get hf) (fun _ => Keeps.bind hf (Keeps.myStrip hf) (fun _ => Keeps.bind hf (Keeps.ops hf) (fun _ =>
    Keeps.bind hf (Keeps.awaitRows hf _) (fun _ => Keeps.forM hf (fun _ => Keeps.bind hf (popE_sameHazards _ _ _) (fun _ =>
      Keeps.pure hf _))))))

theorem advPops_sameUnit (sh : Shape) : Keeps SameUnit (advPops sh) := by
  have hk := sameUnit_local
  have hf := hk.toFrames
  unfold Machine.advPops
  refine Keeps.bind hf (Keeps.get hf) (fun _ => Keeps.bind hf (Keeps.myStrip hf) (fun _ => Keeps.bind hf (Keeps.ops hf) (fun _ =>
    Keeps.bind hf (Keeps.awaitRows hf _) (fun _ => Keeps.forM hf (fun _ => Keeps.bind hf (Keeps.popE hk _ _ _) (fun _ =>
      Keeps.pure hf _))))))

variable {i : Instr} {sh : Shape} {body : M Unit} {s r t : State} {tm tid : Nat} {x : ExThread} {g : Team}

/-- Where no port it names pops under adv, the pops of an instruction not executed are none. -/
theorem advPops_run_none (hcur : s.cur = some (.ex tm tid))
    (h : ∀ q ∈ srcPorts s.ir sh, ∀ p, s.ports.find (portKey (stripKey tm (tid / 16)) q.1) = some p → p.adv = false) :
    advPops sh s = .ok ((), s) := by
  simp only [advPops, M.bind_run, M.get_run, myStrip, M.unit_run hcur, M.pure_run, M.ops_run]
  rw [List.filter_eq_nil_iff.2 (fun q hq => ?_)]
  · simp only [awaitRows, M.bind_run, M.get_run, myStrip, M.unit_run hcur, M.pure_run]
    rfl
  · split
    · next p hp => rw [h q hq p hp]; simp
    · simp

/-- The state after a thread's watched writes grew by an instruction that was not executed. -/
def State.watching (s : State) (tm tid : Nat) (i : Instr) (o : Ops) (sh : Shape) (x : ExThread) (chk : Bool) : State :=
  if chk then s.modEx tm tid (fun e => { e with hazards := hazNext x.hazards i o sh false }) else s

theorem modEx_hazards_eq (hs : (s.exs.find (exKey tm tid)).map (·.hazards) = some x.hazards) (f : List Hazard → List Hazard) :
    s.modEx tm tid (fun e => { e with hazards := f e.hazards }) = s.modEx tm tid (fun e => { e with hazards := f x.hazards }) := by
  obtain ⟨y, hy, hyx⟩ := Option.map_eq_some_iff.1 hs
  simp only [State.modEx, Assoc.alter, hy, hyx]

/-- The frame around a false guard: the pc moves on, ports under adv pop, marked names drop. -/
theorem insn_falls_run (hcur : r.cur = some (.ex tm tid)) (hx : r.exs.find (exKey tm tid) = some x)
    (hg : r.teams.find tm = some g) (hgd : exGuard x r.ir = ⟨false, false⟩) (hpop : advPops sh (r.past (.ex tm tid)) = .ok ((), t)) :
    insn i sh body r = .ok ((), (((t.dropped tm tid sh).watching tm tid i r.ir sh x (LRec.check (r.recordOf g))).idled (.ex tm tid))) := by
  have hteam : r.teamOf (.ex tm tid) = some g := hg
  have hu := (past_sameUnit r (.ex tm tid)).trans (advPops_sameUnit sh _ _ _ hpop)
  have htcur : t.cur = some (.ex tm tid) := hu.1.trans hcur
  have hctl : (t.ctl (.ex tm tid)).isSome = true := by rw [hu.2.2]; simp [State.ctl, hx]
  have hhaz : (t.exs.find (exKey tm tid)).map (·.hazards) = some x.hazards := by
    obtain ⟨c, hc⟩ := State.past_exs_find hx
    rw [advPops_sameHazards sh _ _ _ hpop, hc]
    rfl
  have hdrop : dropMarks r.ir sh t = .ok ((), t.dropped tm tid sh) := by
    have := dropMarks_run_ex (sh := sh) htcur
    rwa [hu.2.1] at this
  have hsame : SameUnit t (t.dropped tm tid sh) := by
    unfold State.dropped
    split
    · exact SameUnit.refl t
    · exact sameUnit_local.strip t _ _ _
  have hexs : (t.dropped tm tid sh).exs = t.exs := by
    unfold State.dropped
    split <;> rfl
  have hz : (⟨false, false⟩ : PBit).val = false := rfl
  simp only [insn, insnWith, M.bind_run, M.ops_run, M.unit_run hcur, M.exThread_run hcur hx, checkMode, M.get_run,
    M.team_run hcur hteam, M.pure_run, hgd, Bool.and_false, Bool.false_and, M.trapIf_false, M.advance_run hcur, hpop, hdrop,
    Bool.false_eq_true, if_false]
  have hret : ∀ y, SameUnit (t.dropped tm tid sh) y → retired y = .ok ((), y.idled (.ex tm tid)) := fun y hy =>
    M.retired_run ((hsame.trans hy).1.trans htcur) (by rw [(hsame.trans hy).2.2]; exact hctl)
  unfold State.watching
  cases LRec.check (r.recordOf g) with
  | true =>
    simp only [if_true, M.modify_run]
    rw [hret _ (sameUnit_local.ex _ _ _ _), modEx_hazards_eq (x := x) (by rw [hexs]; exact hhaz)
      (fun hs => hazNext hs i r.ir sh false)]
  | false =>
    simp only [Bool.false_eq_true, if_false, M.pure_run]
    rw [hret _ (SameUnit.refl _)]

/-- A poisoned guard stops the instruction before anything. -/
theorem insn_poisoned_run (hcur : r.cur = some (.ex tm tid)) (hx : r.exs.find (exKey tm tid) = some x)
    (hg : r.teams.find tm = some g)
    (hz : (LRec.check (r.recordOf g) && (exGuard x r.ir).val && hazHit x.hazards r.ir sh) = false)
    (hp : (exGuard x r.ir).poison = true) : insn i sh body r = .error (.trap (tinfo 0x11 2)) := by
  have hteam : r.teamOf (.ex tm tid) = some g := hg
  simp only [insn, insnWith, M.bind_run, M.ops_run, M.unit_run hcur, M.exThread_run hcur hx, checkMode, M.get_run,
    M.team_run hcur hteam, M.pure_run, hz, M.trapIf_false, hp, M.trapIf_true, M.trap_run]

/-- Where no lane is active, nothing but the pc moves. -/
theorem insn_idle_run {sp : Nat} {x : ApThread} (hcur : s.cur = some (.ap tm sp)) (hx : s.aps.find (stripKey tm sp) = some x)
    (hgd : apGuard x s.ir = ⟨0, false⟩) : insn i sh body s = .ok ((), (s.past (.ap tm sp)).idled (.ap tm sp)) := by
  have hpc : (s.past (.ap tm sp)).cur = some (.ap tm sp) := (State.past_cur s _).trans hcur
  have hctl : ((s.past (.ap tm sp)).ctl (.ap tm sp)).isSome = true := by
    rw [(past_sameUnit s _).2.2]; simp [State.ctl, hx]
  simp only [insn, insnWith, M.bind_run, M.ops_run, M.unit_run hcur, M.apThread_run hcur hx, hgd, M.trapIf_false, M.pure_run,
    M.advance_run hcur, ne_eq, not_true_eq_false, Bool.false_eq_true, or_self, if_false, M.retired_run hpc hctl]

theorem insnWith_poisoned_run {sp : Nat} {x : ApThread} (e : Bool) (hcur : s.cur = some (.ap tm sp))
    (hx : s.aps.find (stripKey tm sp) = some x) (hp : (apGuard x s.ir).poison = true) :
    insnWith i sh e body s = .error (.trap (tinfo 0x11 2)) := by
  simp only [insnWith, M.bind_run, M.ops_run, M.unit_run hcur, M.apThread_run hcur hx, hp, M.trapIf_true, M.trap_run]

/-- An instruction that acts with no lane active runs its body all the same. -/
theorem insnWith_idle_run {sp : Nat} {x : ApThread} (hcur : s.cur = some (.ap tm sp))
    (hx : s.aps.find (stripKey tm sp) = some x) (hgd : apGuard x s.ir = ⟨0, false⟩) :
    insnWith i sh true body s = (body >>= fun _ => retired) (s.past (.ap tm sp)) := by
  simp only [insnWith, M.bind_run, M.ops_run, M.unit_run hcur, M.apThread_run hcur hx, hgd, M.trapIf_false, M.pure_run,
    M.advance_run hcur, ne_eq, not_true_eq_false, false_or, if_true]

theorem meaning_of_ok {m : M Unit} {u : Agent} (hcur : s.cur = some u) (h : m s = .ok ((), t)) : meaning m s = .next t := by
  simp only [meaning, hcur, runUnit, h]

theorem meaning_of_trap {m : M Unit} {u : Agent} {e : TrapInfo} (hcur : s.cur = some u) (h : m s = .error (.trap e)) :
    meaning m s = .next (s.takeTrap u e (len0Of s.ir.form)) := by
  simp only [meaning, hcur, runUnit, h]

end Sys2Proof.Machine
end

section
/-! SUPPORT. False guards of the joint instructions and of those that act with no lane active. -/

namespace Sys2Proof.Machine

variable {i : Instr} {s t : State} {tm tid sp : Nat} {x : ExThread} {g : Team}

theorem exec_joint : ∀ i ∈ jointOps, ∀ s, exec i s = meaning (jointOp i) s := by
  simp only [jointOps, List.forall_mem_cons, List.not_mem_nil, false_implies, implies_true, and_true]
  and_intros <;> exact fun _ => rfl

/-- The mark that the thread has passed a joint instruction without its companions (R313). -/
def State.passed (s : State) (tm tid : Nat) : State :=
  s.modEx tm tid (fun x => { x with pass := some x.ctl.pc, ctl := { x.ctl with solo := none } })

theorem modEx_at (f : ExThread → ExThread → ExThread) (hx : s.exs.find (exKey tm tid) = some x) :
    s.modEx tm tid (f x) = s.modEx tm tid (fun y => f y y) := by
  simp only [State.modEx, Assoc.alter, hx]

/-- The body of a joint instruction under its frame: the thread arrives and waits. -/
def jointBody (i : Instr) (o : Ops) (tm tid : Nat) : M Unit := do
  checkPorts (jointShape i o)
  awaitRegs [(o.a, (jointShape i o).a), (o.b, (jointShape i o).b), (o.c, (jointShape i o).c)]
  let m := (← get).maskNow tm tid o
  modify (fun s => s.modEx tm tid (fun x => { x with pass := none, mask := m }))
  stay i (.joint (← here) (spanSet tid m))

theorem jointOp_run_false (hcur : s.cur = some (.ex tm tid)) (hx : s.exs.find (exKey tm tid) = some x)
    (h : (exGuard x s.ir).val = false) :
    jointOp i s = insn i (jointShape i s.ir) (jointBody i s.ir tm tid) (s.passed tm tid) := by
  simp only [jointOp, M.bind_run, M.ops_run, M.unit_run hcur, M.exThread_run hcur hx, h, Bool.false_eq_true, if_false,
    M.modify_run]
  rw [modEx_at (fun x y => { y with pass := some x.ctl.pc, ctl := { y.ctl with solo := none } }) hx]
  rfl

theorem jointOp_run_true (hcur : s.cur = some (.ex tm tid)) (hx : s.exs.find (exKey tm tid) = some x)
    (h : (exGuard x s.ir).val = true) : jointOp i s = insn i (jointShape i s.ir) (jointBody i s.ir tm tid) s := by
  simp only [jointOp, M.bind_run, M.ops_run, M.unit_run hcur, M.exThread_run hcur hx, h, if_true, M.pure_run]
  rfl

theorem State.passed_exs_find (hx : s.exs.find (exKey tm tid) = some x) :
    (s.passed tm tid).exs.find (exKey tm tid) = some { x with pass := some x.ctl.pc, ctl := { x.ctl with solo := none } } :=
  Assoc.find_alter_some _ hx

/-! ### LQG and RLQ -/

/-- What LQG and RLQ look at with no lane active: an sline row cannot be empty (R187). -/
def slineCheck (n : Nat) : M Unit := do
  match (← get).ports.find (← portKeyOf n) with
  | some p => if p.kind = .acc ∧ p.mode = .sline then stopTrap (portTrap 3 n) else pure ()
  | none => pure ()

theorem slineCheck_run (n : Nat) (hcur : s.cur = some (.ap tm sp)) :
    slineCheck n s = if (s.ports.find (portKey (stripKey tm sp) n)).any (fun p => p.kind == .acc && p.mode == .sline)
      then .error (.trap (portTrap 3 n)) else .ok ((), s) := by
  simp only [slineCheck, M.bind_run, M.get_run, portKeyOf, myStrip, M.unit_run hcur, M.pure_run]
  cases s.ports.find (portKey (stripKey tm sp) n) with
  | none => rfl
  | some p =>
    by_cases h : p.kind = .acc ∧ p.mode = .sline
    · simp [h]
    · simp only [h, if_false, Option.any_some, M.pure_run]
      rw [if_neg]
      simpa using h

/-- An instruction of an access thread that looks at its port's kind alone when no lane is active. -/
def idleChecked (i : Instr) (sh : Shape) (n : Nat) (rest : M Unit) : M Unit :=
  insnWith i sh true (do if (← lanes) = 0 then slineCheck n else rest)

theorem idleChecked_idle {sh : Shape} {n : Nat} {rest : M Unit} {x : ApThread} (hcur : s.cur = some (.ap tm sp))
    (hx : s.aps.find (stripKey tm sp) = some x) (hgd : apGuard x s.ir = ⟨0, false⟩) :
    meaning (idleChecked i sh n rest) s =
      .next (if (s.ports.find (portKey (stripKey tm sp) n)).any (fun p => p.kind == .acc && p.mode == .sline)
        then s.takeTrap (.ap tm sp) (portTrap 3 n) (len0Of s.ir.form) else (s.past (.ap tm sp)).idled (.ap tm sp)) := by
  have hpc : (s.past (.ap tm sp)).cur = some (.ap tm sp) := (State.past_cur s _).trans hcur
  obtain ⟨c, hpx⟩ := State.past_aps_find_ctl hx
  have hctl : ((s.past (.ap tm sp)).ctl (.ap tm sp)).isSome = true := by simp [State.ctl, hpx]
  have hlanes : lanes (s.past (.ap tm sp)) = .ok (0, s.past (.ap tm sp)) := by
    rw [M.lanes_run_ap hpc hpx, State.past_ir]
    exact congrArg (fun m : MaskReg => Except.ok (m.bits, _)) hgd
  have hrun : idleChecked i sh n rest s = (slineCheck n >>= fun _ => retired) (s.past (.ap tm sp)) := by
    rw [idleChecked, insnWith_idle_run hcur hx hgd]
    simp only [M.bind_run, hlanes, if_true]
  rw [M.bind_run, slineCheck_run n hpc, State.past_ports] at hrun
  split
  · next h =>
    rw [if_pos h] at hrun
    exact meaning_of_trap hcur hrun
  · next h =>
    rw [if_neg h] at hrun
    exact meaning_of_ok hcur (hrun.trans (M.retired_run hpc hctl))

/-- The body LQG runs when a lane is active. -/
def lqgRest (o : Ops) : M Unit := do
  checkPorts { d := 0, a := 0, c := 0 }
  let p ← boundPort (objPort o.d)
  if p.kind ≠ .acc ∨ p.mode = .elem then stopTrap (portTrap 2 (objPort o.d))
  lqgBody (lqWant o.x8.toNat) p (objPort o.d)

/-- The body RLQ runs when a lane is active. -/
def rlqRest (o : Ops) : M Unit := do
  checkPorts { d := 0, a := 0, c := 0 }
  let p ← boundPort (objPort o.d)
  if p.kind ≠ .acc then stopTrap (portTrap 2 (objPort o.d))
  if p.mode = .elem then lqBody (rlqWant o.x8.toNat) p (objPort o.d) else lqgBody (rlqWant o.x8.toNat) p (objPort o.d)

theorem exec_lqg (s : State) : exec .lqg s = meaning (idleChecked .lqg { d := 0, a := 0, c := 0 } (objPort s.ir.d) (lqgRest s.ir)) s :=
  meaning_read (M.ops_run s)

theorem exec_rlq (s : State) : exec .rlq s = meaning (idleChecked .rlq { d := 0, a := 0, c := 0 } (objPort s.ir.d) (rlqRest s.ir)) s :=
  meaning_read (M.ops_run s)

theorem exec_idleChecked : ∀ i ∈ [Instr.lqg, .rlq], ∃ rest : Ops → M Unit, ∀ s,
    exec i s = meaning (idleChecked i { d := 0, a := 0, c := 0 } (objPort s.ir.d) (rest s.ir)) s := by
  simp only [List.forall_mem_cons, List.not_mem_nil, false_implies, implies_true, and_true]
  exact ⟨⟨lqgRest, exec_lqg⟩, rlqRest, exec_rlq⟩

end Sys2Proof.Machine
end

section open Sys2Proof Machine

/-- Settles O12: the frame of R42 around any body, and the two families that stand around it. -/
theorem guardFalse : Obligations.GuardFalse := by
  unfold Obligations.GuardFalse
  intro falls
  refine ⟨?_, ?_, ?_⟩
  · intro row hrow i hi s
    refine ⟨?_, ?_⟩
    · intro tm tid x g u hcur hx hg
      obtain ⟨body, hexec⟩ := exec_frameRow_framed hcur row hrow i hi
      refine ⟨fun hz hp => hexec.trans (meaning_of_trap hcur (insn_poisoned_run hcur hx hg hz hp)), fun t hgd ht => ?_⟩
      have hpop : advPops (row.2 s u) (s.past u) = .ok ((), t) := by
        rcases ht with ⟨hadv, rfl⟩ | ht
        · exact advPops_run_none ((State.past_cur s u).trans hcur) (by rwa [State.past_ir, State.past_ports])
        · exact ht
      have hir : t.ir = s.ir := (advPops_sameUnit _ _ _ _ hpop).2.1.trans (State.past_ir s u)
      have := meaning_of_ok hcur (insn_falls_run (i := i) (body := body) hcur hx hg hgd hpop)
      simp only [State.dropped, State.watching, hir] at this
      exact hexec.trans this
    · intro tm sp x u hcur hx
      obtain ⟨body, hexec⟩ := exec_frameRow_framed hcur row hrow i hi
      exact ⟨fun hp => hexec.trans (meaning_of_trap hcur (insnWith_poisoned_run false hcur hx hp)),
        fun hgd _ => hexec.trans (meaning_of_ok hcur (insn_idle_run hcur hx hgd))⟩
  · intro i hi s tm tid x g u hcur hx hg
    refine ⟨fun hz hp => (exec_joint i hi s).trans (meaning_of_trap hcur ?_), fun t hgd ht => ?_⟩
    · cases hv : (exGuard x s.ir).val with
      | true =>
        rw [jointOp_run_true hcur hx hv]
        exact insn_poisoned_run hcur hx hg hz hp
      | false =>
        rw [jointOp_run_false hcur hx hv]
        exact insn_poisoned_run (r := s.passed tm tid) hcur (State.passed_exs_find hx) hg hz hp
    · have hpc : ((s.passed tm tid).past u).cur = some u := (State.past_cur _ u).trans hcur
      have hpop : advPops (jointShape i s.ir) ((s.passed tm tid).past u) = .ok ((), t) := by
        rcases ht with ⟨hadv, rfl⟩ | ht
        · exact advPops_run_none hpc (by rw [State.past_ir, State.past_ports]; exact hadv)
        · exact ht
      have hir : t.ir = s.ir := (advPops_sameUnit _ _ _ _ hpop).2.1.trans (State.past_ir (s.passed tm tid) u)
      have hrun := insn_falls_run (i := i) (body := jointBody i s.ir tm tid) (r := s.passed tm tid) hcur
        (State.passed_exs_find hx) hg hgd hpop
      rw [← jointOp_run_false hcur hx (by rw [hgd])] at hrun
      have := (exec_joint i hi s).trans (meaning_of_ok hcur hrun)
      simp only [State.dropped, State.watching, hir] at this
      exact this
  · intro i hi s tm sp x u n hcur hx
    obtain ⟨rest, hexec⟩ := exec_idleChecked i hi
    exact ⟨fun hp => (hexec s).trans (meaning_of_trap hcur (insnWith_poisoned_run true hcur hx hp)),
      fun hgd _ => (hexec s).trans (idleChecked_idle hcur hx hgd)⟩

end

section
/-! SUPPORT. Taking a trap (R384-R387): what of a unit and of the machine it changes. -/

namespace Sys2Proof.Machine

variable {s : State} {tm tid sp : Nat}

/-- The state with a unit's trap in its team's flag word and its context's queue, and no plan of it left waiting. -/
def State.trapNoted (s : State) (u : Agent) (tm : Nat) (c : Ctl) (t : TrapInfo) (len : BitVec 2) : State :=
  ((s.modTeam tm (fun x => { x with flags := x.flags ||| t.flags })).modCtx (s.ctxOf u)
    (fun x => { x with traps := x.traps ++ [s.trapRecord u c t len] })).unqueue u

theorem State.takeTrap_ex {x : ExThread} (t : TrapInfo) (len : BitVec 2) (hx : s.exs.find (exKey tm tid) = some x) :
    ∃ n, s.takeTrap (.ex tm tid) t len =
      ((((s.trapNoted (.ex tm tid) tm x.ctl t len).modCtl (.ex tm tid)
        (fun c => { c with traps := c.traps + 1, more := 0, mark := none, able := false })).modEx tm tid
          (fun x => { x with arr := none })).modCtl (.ex tm tid)
            (fun c => { c with status := .stopped (s.trapRecord (.ex tm tid) x.ctl t len), solo := none })).count n 1 :=
  ⟨_, by simp only [State.takeTrap, State.ctl, hx, Option.map_some]; rfl⟩

theorem State.takeTrap_ap {x : ApThread} (t : TrapInfo) (len : BitVec 2) (hx : s.aps.find (stripKey tm sp) = some x) :
    ∃ n, s.takeTrap (.ap tm sp) t len =
      ((((s.trapNoted (.ap tm sp) tm x.ctl t len).modCtl (.ap tm sp)
        (fun c => { c with traps := c.traps + 1, more := 0, mark := none, able := false })).modAp tm sp
          (fun x => { x with blk := none })).modCtl (.ap tm sp)
            (fun c => { c with status := .stopped (s.trapRecord (.ap tm sp) x.ctl t len) })).count n 1 :=
  ⟨_, by simp only [State.takeTrap, State.ctl, hx, Option.map_some]; rfl⟩

/-- An execute thread that stopped in a trap. -/
def ExThread.trapped (x : ExThread) (r : TrapRec) : ExThread :=
  { x with arr := none, ctl := { x.ctl with status := .stopped r, traps := x.ctl.traps + 1, more := 0, mark := none, able := false,
                                            solo := none } }

/-- An access thread that stopped in a trap. -/
def ApThread.trapped (x : ApThread) (r : TrapRec) : ApThread :=
  { x with blk := none, ctl := { x.ctl with status := .stopped r, traps := x.ctl.traps + 1, more := 0, mark := none, able := false } }

theorem State.takeTrap_exs_find {x : ExThread} (t : TrapInfo) (len : BitVec 2) (hx : s.exs.find (exKey tm tid) = some x) (k : Nat) :
    (s.takeTrap (.ex tm tid) t len).exs.find k =
      if k = exKey tm tid then some (x.trapped (s.trapRecord (.ex tm tid) x.ctl t len)) else s.exs.find k := by
  obtain ⟨n, h⟩ := State.takeTrap_ex t len hx
  rw [h]
  simp only [State.count, State.modCtl, State.modEx, State.trapNoted, State.unqueue, State.modCtx, State.modTeam, Assoc.find_alter,
    if_true, hx, Option.map_some]
  split <;> rfl

theorem State.takeTrap_aps_find {x : ApThread} (t : TrapInfo) (len : BitVec 2) (hx : s.aps.find (stripKey tm sp) = some x) (k : Nat) :
    (s.takeTrap (.ap tm sp) t len).aps.find k =
      if k = stripKey tm sp then some (x.trapped (s.trapRecord (.ap tm sp) x.ctl t len)) else s.aps.find k := by
  obtain ⟨n, h⟩ := State.takeTrap_ap t len hx
  rw [h]
  simp only [State.count, State.modCtl, State.modAp, State.trapNoted, State.unqueue, State.modCtx, State.modTeam, Assoc.find_alter,
    if_true, hx, Option.map_some]
  split <;> rfl

/-- What a thread's trap leaves alone whatever the side, its team's flags and its context's queue. -/
structure TrapFrame (s e : State) (u : Agent) (tm : Nat) (c : Ctl) (t : TrapInfo) (len : BitVec 2) : Prop where
  ctxs : e.ctxs = (s.modCtx (s.ctxOf u) (fun x => { x with traps := x.traps ++ [s.trapRecord u c t len] })).ctxs
  teams : e.teams = (s.modTeam tm (fun x => { x with flags := x.flags ||| t.flags })).teams
  plans : e.plans = s.plans.filter (fun q => !(q.2.owner == u && q.2.stage == PlanStage.queued))
  rest : { e with exs := s.exs, aps := s.aps, teams := s.teams, ctxs := s.ctxs, plans := s.plans, mgmt := s.mgmt } = s

theorem State.takeTrap_ex_frame {x : ExThread} (t : TrapInfo) (len : BitVec 2) (hx : s.exs.find (exKey tm tid) = some x) :
    TrapFrame s (s.takeTrap (.ex tm tid) t len) (.ex tm tid) tm x.ctl t len ∧ (s.takeTrap (.ex tm tid) t len).aps = s.aps := by
  obtain ⟨n, h⟩ := State.takeTrap_ex t len hx
  rw [h]
  refine ⟨⟨rfl, rfl, rfl, ?_⟩, ?_⟩ <;>
  simp only [State.count, State.modCtl, State.modEx, State.trapNoted, State.unqueue, State.modCtx, State.modTeam]

theorem State.takeTrap_ap_frame {x : ApThread} (t : TrapInfo) (len : BitVec 2) (hx : s.aps.find (stripKey tm sp) = some x) :
    TrapFrame s (s.takeTrap (.ap tm sp) t len) (.ap tm sp) tm x.ctl t len ∧ (s.takeTrap (.ap tm sp) t len).exs = s.exs := by
  obtain ⟨n, h⟩ := State.takeTrap_ap t len hx
  rw [h]
  refine ⟨⟨rfl, rfl, rfl, ?_⟩, ?_⟩ <;>
  simp only [State.count, State.modCtl, State.modAp, State.trapNoted, State.unqueue, State.modCtx, State.modTeam]

namespace TrapFrame

variable {e : State} {u : Agent} {c : Ctl} {t : TrapInfo} {len : BitVec 2} (h : TrapFrame s e u tm c t len)
include h

theorem context_same : (e.context (s.ctxOf u)).traps = (s.context (s.ctxOf u)).traps ++ [s.trapRecord u c t len] := by
  unfold State.context
  rw [h.ctxs]
  simp only [State.modCtx, Assoc.get_put_self]
  rfl

theorem context_of_ne {k : Nat} (hk : k ≠ s.ctxOf u) : e.context k = s.context k := by
  unfold State.context
  rw [h.ctxs]
  exact Assoc.get_put_of_ne _ _ _ hk

theorem team_same : e.teams.find tm = (s.teams.find tm).map (fun x => { x with flags := x.flags ||| t.flags }) := by
  rw [h.teams]
  exact Assoc.find_alter_self _ _ _

theorem team_of_ne {k : Nat} (hk : k ≠ tm) : e.teams.find k = s.teams.find k := by
  rw [h.teams]
  exact Assoc.find_alter_of_ne _ _ hk

end TrapFrame

/-- A queue engine that stopped in a trap (R325, R386). -/
def Engine.trapped (g : Engine) : Engine :=
  { g with state := 3, code := 3, launch := none,
           ctl := { g.ctl with status := .ready, traps := g.ctl.traps + 1, more := 0, mark := none, able := false } }

theorem State.takeTrap_engines_find {n : Nat} {g : Engine} (t : TrapInfo) (len : BitVec 2) (hg : s.engines.find n = some g) (k : Nat) :
    (s.takeTrap (.qe n) t len).engines.find k = if k = n then some g.trapped else s.engines.find k := by
  simp only [State.takeTrap, State.ctl, hg, Option.map_some, State.haltEngine, State.modEngine, State.modCtl, State.unqueue,
    State.modCtx, Assoc.find_alter, if_true]
  split <;> rfl

theorem State.takeTrap_qe_frame {n : Nat} {g : Engine} (t : TrapInfo) (len : BitVec 2) (hg : s.engines.find n = some g) :
    (s.takeTrap (.qe n) t len).irqs = g.hvec :: s.irqs ∧
      { s.takeTrap (.qe n) t len with engines := s.engines, ctxs := s.ctxs, plans := s.plans, irqs := s.irqs } = s := by
  simp only [State.takeTrap, State.ctl, hg, Option.map_some, State.haltEngine, State.modEngine, State.modCtl, State.unqueue,
    State.modCtx, Assoc.find_alter, if_true, Option.elim_some, and_self]

end Sys2Proof.Machine
end

section
/-! SUPPORT. The return from a trap (R393): the unit's control and nothing else. -/

namespace Sys2Proof.Machine

variable {s : State}

/-- The control of a unit that resumes. -/
def Ctl.resumed (c : Ctl) (r : TrapRec) (op pc now : Nat) : Ctl :=
  { c with status := .ready, pc, tinfo := resumeInfo c.tinfo op r, solo := if pc = r.pc.toNat then some pc else none,
           readySince := now, skip := if op = 1 then c.skip else none }

theorem State.resume_eq (s : State) (u : Agent) (r : TrapRec) (op pc : Nat) :
    s.resume u r op pc = s.modCtl u (fun c => c.resumed r op pc s.now) := rfl

theorem exKey_inj {tm tid tm' tid' : Nat} (h : tid < 2048) (h' : tid' < 2048) (he : exKey tm tid = exKey tm' tid') :
    tm = tm' ∧ tid = tid' := by
  simp only [exKey] at he; omega

theorem stripKey_pair_inj {tm sp tm' sp' : Nat} (h : sp < 128) (h' : sp' < 128) (he : stripKey tm sp = stripKey tm' sp') :
    tm = tm' ∧ sp = sp' := by
  simp only [stripKey] at he; omega

/-- A change of a unit's control leaves every other unit's. -/
theorem State.ctl_modCtl_of_ne (s : State) {u v : Agent} (f : Ctl → Ctl) (hu : unitOk u) (hv : unitOk v) (h : v ≠ u) :
    (s.modCtl u f).ctl v = s.ctl v := by
  cases u <;> cases v <;> simp only [State.ctl, State.modCtl]
  case ex.ex tm tid tm' tid' =>
    rw [Assoc.find_alter_of_ne]
    intro he
    obtain ⟨rfl, rfl⟩ := exKey_inj hv hu he
    exact h rfl
  case ap.ap tm sp tm' sp' =>
    rw [Assoc.find_alter_of_ne]
    intro he
    obtain ⟨rfl, rfl⟩ := stripKey_pair_inj hv hu he
    exact h rfl
  case qe.qe n m =>
    rw [Assoc.find_alter_of_ne]
    rintro rfl
    exact h rfl

/-- The fields of sr.trapinfo after a resume: its count, saturating, and the op and trap it was for. -/
theorem resumeInfo_fields (old : W32) (op : Nat) (r : TrapRec) :
    (resumeInfo old op r).toNat % 2 ^ 24 = op % 8 * 2 ^ 16 + r.info.sub.toNat * 2 ^ 8 + r.info.code.toNat ∧
      (resumeInfo old op r).toNat / 2 ^ 24 = min (old.toNat / 2 ^ 24 + 1) 255 := by
  have h1 := r.info.sub.isLt
  have h2 := r.info.code.isLt
  have h3 := old.isLt
  unfold resumeInfo
  dsimp only
  rw [BitVec.toNat_ofNat]
  split <;> omega

end Sys2Proof.Machine
end

section
/-! SUPPORT. The watched writes of check mode (R45): what the list holds after a sequence of instructions. -/

namespace Sys2Proof.Machine

theorem watched_append_singleton (l : List Issued) (x : Issued) :
    watched (l ++ [x]) = hazNext (watched l) x.op x.args x.shape x.ran := by
  simp only [watched, List.foldl_append, List.foldl_cons, List.foldl_nil]

/-- The clocks from an issue to the end of a sequence, as the hints give them. -/
def hints (l : List Issued) : Nat := (l.map (fun x => x.args.stall.toNat)).sum

/-- What an instruction keeps of the watched writes, and what it adds. -/
theorem mem_hazNext {hs : List Hazard} {x : Issued} {h : Hazard} :
    h ∈ hazNext hs x.op x.args x.shape x.ran ↔
      x.args.stall ≠ 0 ∧
        ((∃ h' ∈ hs, h = { h' with sum := h'.sum + x.args.stall.toNat } ∧ h.sum < h.lat ∧ h.reg ∉ x.writes) ∨
          (x.args.stall.toNat < x.latency ∧ ∃ r ∈ x.writes, h = ⟨r, x.latency, x.args.stall.toNat, true⟩)) := by
  have h0 : x.args.stall.toNat = 0 ↔ x.args.stall = 0 := by
    rw [← BitVec.toNat_inj]
    rfl
  change h ∈ (let st := x.args.stall.toNat
    let old := (if st = 0 then [] else (hs.map (fun h => { h with sum := h.sum + st })).filter (fun h => h.sum < h.lat)).filter
      (fun h => !x.writes.contains h.reg)
    if st = 0 ∨ x.latency ≤ st then old else old ++ x.writes.map (fun r => ⟨r, x.latency, st, true⟩)) ↔ _
  by_cases hst : x.args.stall = 0
  · simp [hst]
  · have hst' : ¬ x.args.stall.toNat = 0 := fun e => hst (h0.1 e)
    have hold : h ∈ ((hs.map (fun h => { h with sum := h.sum + x.args.stall.toNat })).filter (fun h => h.sum < h.lat)).filter
        (fun h => !x.writes.contains h.reg) ↔
        ∃ h' ∈ hs, h = { h' with sum := h'.sum + x.args.stall.toNat } ∧ h.sum < h.lat ∧ h.reg ∉ x.writes := by
      simp only [List.mem_filter, List.mem_map, decide_eq_true_eq, Bool.not_eq_true', List.contains_eq_mem, decide_eq_false_iff_not]
      constructor
      · rintro ⟨⟨⟨h', hm, rfl⟩, hlt⟩, hnot⟩
        exact ⟨h', hm, rfl, hlt, hnot⟩
      · rintro ⟨h', hm, rfl, hlt, hnot⟩
        exact ⟨⟨⟨h', hm, rfl⟩, hlt⟩, hnot⟩
    dsimp only
    rw [if_neg hst']
    simp only [ne_eq, hst, not_false_eq_true, true_and]
    by_cases hlat : x.latency ≤ x.args.stall.toNat
    · rw [if_pos (.inr hlat), hold]
      exact ⟨.inl, fun h => h.resolve_right (fun h => absurd h.1 (Nat.not_lt.2 hlat))⟩
    · rw [if_neg (not_or.2 ⟨hst', hlat⟩), List.mem_append, hold, List.mem_map]
      simp only [Nat.not_le.1 hlat, true_and, eq_comm]

/-- A write is watched exactly while no later instruction writes its register, every hint since is non-zero, and their sum is below its
latency. -/
theorem mem_watched {l : List Issued} {h : Hazard} :
    h ∈ watched l ↔ ∃ before w after, l = before ++ w :: after ∧ h.reg ∈ w.writes ∧ (∀ x ∈ after, h.reg ∉ x.writes) ∧
      (∀ x ∈ w :: after, x.args.stall ≠ 0) ∧ hints (w :: after) < w.latency ∧ h = ⟨h.reg, w.latency, hints (w :: after), true⟩ := by
  induction l using List.reverseRecOn generalizing h with
  | nil =>
    simp [watched]
  | append_singleton l x ih =>
    rw [watched_append_singleton, mem_hazNext]
    have hsum : ∀ w after, hints (w :: (after ++ [x])) = hints (w :: after) + x.args.stall.toNat := by
      intro w after
      simp [hints, Nat.add_assoc]
    constructor
    · rintro ⟨hst, ⟨h', hm, rfl, hlt, hnot⟩ | ⟨hlt, r, hr, rfl⟩⟩
      · obtain ⟨before, w, after, rfl, hw, hafter, hstall, hsum', he⟩ := ih.1 hm
        rw [he] at hlt hnot ⊢
        refine ⟨before, w, after ++ [x], by simp, hw, ?_, ?_, ?_, ?_⟩
        · intro y hy
          rcases List.mem_append.1 hy with hy | hy
          · exact hafter y hy
          · rw [List.mem_singleton.1 hy]; exact hnot
        · intro y hy
          rcases List.mem_append.1 (show y ∈ (w :: after) ++ [x] from hy) with hy | hy
          · exact hstall y hy
          · rw [List.mem_singleton.1 hy]; exact hst
        · rw [hsum]; exact hlt
        · rw [hsum]
      · exact ⟨l, x, [], by simp, hr, by simp, by simpa using hst, by simpa [hints] using hlt, by simp [hints]⟩
    · rintro ⟨before, w, after, hl, hw, hafter, hstall, hlt, he⟩
      rcases List.eq_nil_or_concat after with rfl | ⟨after', y, rfl⟩
      · obtain ⟨rfl, rfl⟩ := List.append_singleton_inj.1 hl
        refine ⟨hstall x List.mem_cons_self, .inr ⟨by simpa [hints] using hlt, h.reg, hw, ?_⟩⟩
        rw [he]
        simp [hints]
      · rw [List.concat_eq_append] at *
        obtain ⟨rfl, rfl⟩ := List.append_singleton_inj.1 (show l ++ [x] = (before ++ w :: after') ++ [y] by simpa using hl)
        rw [hsum] at hlt he
        refine ⟨hstall x (by simp), .inl ⟨⟨h.reg, w.latency, hints (w :: after'), true⟩, ih.2 ⟨before, w, after', rfl, hw,
          fun z hz => hafter z (by simp [hz]), fun z hz => hstall z ?_, by omega, rfl⟩, he, ?_, hafter x (by simp)⟩⟩
        · rcases List.mem_cons.1 hz with rfl | hz
          · exact List.mem_cons_self
          · exact List.mem_cons_of_mem _ (List.mem_append_left _ hz)
        · rw [he]; exact hlt

theorem hazHit_watched (l : List Issued) (o : Ops) (sh : Shape) : hazHit (watched l) o sh = true ↔
    ∃ before w after r, l = before ++ w :: after ∧ r ∈ w.writes ∧ r ∈ hazAll o sh ∧ (∀ x ∈ after, r ∉ x.writes) ∧
      (∀ x ∈ w :: after, x.args.stall ≠ 0) ∧ hints (w :: after) < w.latency := by
  simp only [hazHit, List.any_eq_true, Bool.and_eq_true, decide_eq_true_eq, List.contains_eq_mem]
  constructor
  · rintro ⟨h, hm, ⟨-, -⟩, hr⟩
    obtain ⟨before, w, after, hl, hw, hafter, hstall, hlt, -⟩ := mem_watched.1 hm
    exact ⟨before, w, after, h.reg, hl, hw, hr, hafter, hstall, hlt⟩
  · rintro ⟨before, w, after, r, hl, hw, hr, hafter, hstall, hlt⟩
    exact ⟨⟨r, w.latency, hints (w :: after), true⟩, mem_watched.2 ⟨before, w, after, hl, hw, hafter, hstall, hlt, rfl⟩,
      ⟨rfl, hlt⟩, hr⟩

/-- STALLCHK comes before anything the instruction does. -/
theorem insn_stallchk_run {i : Instr} {sh : Shape} {body : M Unit} {s : State} {tm tid : Nat} {x : ExThread} {g : Team}
    (hcur : s.cur = some (.ex tm tid)) (hx : s.exs.find (exKey tm tid) = some x) (hg : s.teams.find tm = some g)
    (hk : LRec.check (s.recordOf g) = true) (hv : (exGuard x s.ir).val = true) (hz : hazHit x.hazards s.ir sh = true) :
    insn i sh body s = .error (.trap (tinfo 3 0)) := by
  have hteam : s.teamOf (.ex tm tid) = some g := hg
  simp only [insn, insnWith, M.bind_run, M.ops_run, M.unit_run hcur, M.exThread_run hcur hx, checkMode, M.get_run,
    M.team_run hcur hteam, M.pure_run, hk, hv, hz, Bool.and_self, M.trapIf_true, M.trap_run]

end Sys2Proof.Machine
end

section open Sys2Proof Machine

/-- Settles O13: the state a trap and a resume leave, field by field, and the list of watched writes. -/
theorem trapEntryReturnAndStallCheck : Obligations.TrapEntryReturnAndStallCheck := by
  unfold Obligations.TrapEntryReturnAndStallCheck
  refine ⟨⟨?_, ?_⟩, ?_, ?_, hazHit_watched⟩
  · intro s u c t len hu hc r e
    cases u with
    | ex tm tid =>
      obtain ⟨x, hx, rfl⟩ := Option.map_eq_some_iff.1 hc
      have hfind := State.takeTrap_exs_find t len hx
      obtain ⟨hf, haps⟩ := State.takeTrap_ex_frame t len hx
      refine ⟨rfl, rfl, rfl, rfl, ⟨(x.trapped r).ctl, by rw [State.ctl, hfind, if_pos rfl]; rfl, rfl, rfl, rfl, rfl⟩, hf.context_same,
        fun k hk => hf.context_of_ne hk, hf.team_same, hf.plans, hf.rest, ?_, by rintro _ _ _ ⟨⟩⟩
      rintro _ _ y ⟨⟩ hy
      obtain rfl : x = y := Option.some_inj.1 (hx.symm.trans hy)
      exact ⟨haps, fun k hk => hf.team_of_ne hk, fun k hk => by rw [hfind, if_neg hk], x.trapped r, by rw [hfind, if_pos rfl], rfl⟩
    | ap tm sp =>
      obtain ⟨x, hx, rfl⟩ := Option.map_eq_some_iff.1 hc
      have hfind := State.takeTrap_aps_find t len hx
      obtain ⟨hf, hexs⟩ := State.takeTrap_ap_frame t len hx
      refine ⟨rfl, rfl, rfl, rfl, ⟨(x.trapped r).ctl, by rw [State.ctl, hfind, if_pos rfl]; rfl, rfl, rfl, rfl, rfl⟩, hf.context_same,
        fun k hk => hf.context_of_ne hk, hf.team_same, hf.plans, hf.rest, by rintro _ _ _ ⟨⟩, ?_⟩
      rintro _ _ y ⟨⟩ hy
      obtain rfl : x = y := Option.some_inj.1 (hx.symm.trans hy)
      exact ⟨hexs, fun k hk => hf.team_of_ne hk, fun k hk => by rw [hfind, if_neg hk], x.trapped r, by rw [hfind, if_pos rfl], rfl⟩
    | qe n => exact absurd rfl (hu n)
  · intro s n g t len hg e
    have hfind := State.takeTrap_engines_find t len hg
    obtain ⟨hirqs, hrest⟩ := State.takeTrap_qe_frame t len hg
    exact ⟨⟨g.trapped, by rw [hfind, if_pos rfl], rfl, rfl, rfl, rfl⟩, fun k hk => by rw [hfind, if_neg hk], hirqs, hrest⟩
  · intro s u c r op pc hu hc e
    have hself : e.ctl u = some (c.resumed r op pc s.now) := (State.ctl_modCtl s u _).trans (by rw [hc]; rfl)
    obtain ⟨hlow, hhigh⟩ := resumeInfo_fields c.tinfo op r
    refine ⟨⟨_, hself, rfl, rfl, rfl, hlow, hhigh, rfl, rfl, rfl⟩, fun v hv hne => State.ctl_modCtl_of_ne s _ hu hv hne, ?_⟩
    cases u with
    | ex tm tid =>
      exact ⟨rfl, fun k hk => Assoc.find_alter_of_ne _ _ hk, fun x hx => ⟨_, Assoc.find_alter_some _ hx, rfl⟩⟩
    | ap tm sp =>
      exact ⟨rfl, fun k hk => Assoc.find_alter_of_ne _ _ hk, fun x hx => ⟨_, Assoc.find_alter_some _ hx, rfl⟩⟩
    | qe n =>
      exact ⟨rfl, fun k hk => Assoc.find_alter_of_ne _ _ hk, fun x hx => ⟨_, Assoc.find_alter_some _ hx, rfl⟩⟩
  · intro row hrow i hi s tm tid x g u hcur hx hg hk hv hz
    obtain ⟨body, hexec⟩ := exec_frameRow_framed hcur row hrow i hi
    exact hexec.trans (meaning_of_trap hcur (insn_stallchk_run hcur hx hg hk hv hz))

end

section
/-! SUPPORT. Where a unit stands and goes (R25, R304-R306): the address of the instruction, targets and jumps. -/

namespace Sys2Proof.Machine

variable {s t : State} {u : Agent} {sh : Shape}

/-- A body that stops in a trap, on any side. -/
theorem insn_traps_any {i : Instr} {body : M Unit} {x : TrapInfo} (h : Executes s u sh)
    (hb : body (s.past u) = .error (.trap x)) :
    meaning (insn i sh body) s = .next (s.takeTrap u x (len0Of s.ir.form)) := by
  cases u with
  | ex tm tid => exact insn_traps h hb
  | ap tm sp =>
    obtain ⟨hcur, y, hy, hp, hn⟩ := h
    refine meaning_of_trap hcur ?_
    simp only [insn, insnWith, M.bind_run, M.ops_run, M.unit_run hcur, M.apThread_run hcur hy, hp, M.trapIf_false, M.pure_run,
      M.advance_run hcur, ne_eq, hn, not_false_iff, true_or, if_true, hb]
  | qe n =>
    refine meaning_of_trap h.1 ?_
    simp only [insn, insnWith, M.bind_run, M.ops_run, M.unit_run h.1, M.advance_run h.1, hb]

/-- The control of a unit past its instruction. -/
def Ctl.past (c : Ctl) (o : Ops) (now : Nat) : Ctl :=
  { c with pc := (c.pc + o.form.bytes) % 2 ^ 64, status := .ready, lastIssue := some now,
           stallUntil := now + o.stall.toNat, readySince := now + max o.stall.toNat 1, able := false }

theorem State.ctl_past (s : State) (u : Agent) : (s.past u).ctl u = (s.ctl u).map (fun c => c.past s.ir s.now) := by
  have h : (s.modCtl u (fun c => c.past s.ir s.now)).ctl u = (s.ctl u).map (fun c => c.past s.ir s.now) :=
    State.ctl_modCtl s u _
  cases u with
  | qe n =>
    rw [← h]
    simp only [State.past, State.modEngine, State.ctl, State.modCtl, Assoc.find_alter_self, Option.map_map]
    congr 1
    funext e
    simp only [Function.comp_apply]
    split <;> rfl
  | _ => exact h

theorem State.pcAt_eq {c : Ctl} (h : s.ctl u = some c) : s.pcAt u = c.pc := by rw [State.pcAt, h]; rfl

@[simp] theorem State.past_baseOf (s : State) (u v : Agent) : (s.past u).baseOf v = s.baseOf v := by
  cases v with
  | qe n =>
    simp only [State.baseOf]
    cases u with
    | qe m =>
      simp only [State.past, State.modEngine, State.modCtl, Assoc.find_alter]
      split
      · next h => subst h; cases s.engines.find n <;> simp; split <;> rfl
      · rfl
    | _ => rfl
  | _ => simp only [State.baseOf, State.past_teams, State.recordOf_past]

theorem form_bytes_le (f : Form) : f.bytes ≤ 2 ^ 64 := by cases f <;> decide

theorem M.here_run (h : Executes s u sh) (hpc : s.pcAt u < 2 ^ 64) : here (s.past u) = .ok (s.pcAt u, s.past u) := by
  obtain ⟨c, hc⟩ := Option.isSome_iff_exists.1 h.isSome
  have hctl : (s.past u).ctl u = some (c.past s.ir s.now) := by rw [State.ctl_past, hc]; rfl
  rw [State.pcAt_eq hc] at hpc ⊢
  have hb := form_bytes_le s.ir.form
  simp only [here, M.bind_run, M.ctl_run h.past_cur hctl, M.ops_run, M.pure_run, State.past_ir, Ctl.past]
  congr 2
  omega

theorem M.offsetTarget_run (h : Executes s u sh) (hpc : s.pcAt u < 2 ^ 64) :
    offsetTarget (s.past u) = .ok (s.offsetFrom u, s.past u) := by
  simp only [offsetTarget, M.bind_run, M.here_run h hpc, M.ops_run, M.pure_run, State.past_ir, State.offsetFrom]

theorem M.codeOffset_run (a : Nat) (h : s.cur = some u) : codeOffset a s = .ok (wrapN ((a : Int) - (s.baseOf u : Int)) 32, s) := by
  simp only [codeOffset, M.bind_run, M.get_run, M.unit_run h, M.pure_run]

theorem wrapN_mod_four (x : Int) (h : x % 4 = 0) : wrapN x 64 % 4 = 0 := by
  unfold wrapN
  omega

theorem State.offsetFrom_mod_four (h : s.pcAt u % 4 = 0) : s.offsetFrom u % 4 = 0 := wrapN_mod_four _ (by omega)

theorem M.jump_run {target : Nat} (h : s.cur = some u) (h4 : target % 4 = 0) : jump target s = .ok ((), s.jumped u target) := by
  simp only [jump, M.bind_run, h4, bne_self_eq_false, M.trapIf_false, M.pure_run, M.modCtl_run _ h, State.jumped]

theorem M.jump_traps {target : Nat} (h4 : target % 4 ≠ 0) : jump target s = .error (.trap (tinfo 0x23 2)) := by
  have : (target % 4 != 0) = true := by simpa using h4
  simp only [jump, M.bind_run, this, M.trapIf_true, M.trap_run]

theorem M.jumpOffset_eq (off : Nat) (h : s.cur = some u) : jumpOffset off s = jump (s.baseOf u + off % 2 ^ 32) s := by
  simp only [jumpOffset, M.bind_run, M.get_run, M.unit_run h]

theorem jumped_sameUnit (s : State) (u : Agent) (a : Nat) : SameUnit s (s.jumped u a) := sameUnit_local.modCtl s u _

/-- The lane that stands for the unit in an instruction that acts once. -/
theorem M.lead_run (h : s.cur = some u) (hx : (s.ctl u).isSome = true) : ∃ m, lanes s = .ok (m, s) ∧ lowLane m = s.lead u := by
  cases u with
  | ap tm sp =>
    obtain ⟨c, hc⟩ := Option.isSome_iff_exists.1 hx
    obtain ⟨x, hx, -⟩ := Option.map_eq_some_iff.1 hc
    exact ⟨_, M.lanes_run_ap h hx, by rw [State.lead, hx]; rfl⟩
  | ex tm tid => exact ⟨1, by simp only [lanes, M.bind_run, M.unit_run h, M.pure_run], rfl⟩
  | qe n => exact ⟨1, by simp only [lanes, M.bind_run, M.unit_run h, M.pure_run], rfl⟩

theorem Delivers.isSome {lk : LitKind} {v : Opnds} (h : Delivers s u sh lk v t) (he : Executes s u sh) : (t.ctl u).isSome = true := by
  rw [h.sameUnit.2.2, (past_sameUnit s u).2.2]
  exact he.isSome

theorem M.condPoison_ok {v : Val} (h : v.poison = false) : condPoison v s = .ok ((), s) := by rw [condPoison, h]; rfl
theorem M.condPoison_traps {v : Val} (h : v.poison = true) : condPoison v s = .error (.trap (tinfo 0x11 2)) := by
  rw [condPoison, h]; rfl

end Sys2Proof.Machine
end

section
/-! SUPPORT. The branches, one by one. -/

namespace Sys2Proof.Machine

variable {s t : State} {u : Agent} {v : Opnds}

theorem bra_completes (i : Instr) (he : Executes s u noShape) (hpc : s.pcAt u < 2 ^ 64) (h4 : s.pcAt u % 4 = 0) :
    meaning (braOp i) s = .next (s.closed ((s.past u).jumped u (s.offsetFrom u)) u i noShape) :=
  insn_completes_of_sameUnit he ((M.bind_ok (M.offsetTarget_run he hpc)).trans
    (M.jump_run he.past_cur (State.offsetFrom_mod_four h4))) (jumped_sameUnit _ _ _)

/-- The fields of BRX and RET. -/
def brxShape : Shape := { d := 0, a := 1, b := 1, c := 0 }
def retShape : Shape := { d := 0, a := 1, b := 0, c := 0 }

/-- Where BRX goes (R306). -/
def brxTarget (t : State) (u : Agent) (v : Opnds) : Nat :=
  t.baseOf u + ((v.a (t.lead u)).bits.toNat + 4 * ((v.b (t.lead u)).bits.toNat % 2 ^ 32)) % 2 ^ 32

/-- Where RET goes (R306). -/
def retTarget (t : State) (u : Agent) (v : Opnds) : Nat := t.baseOf u + (v.a (t.lead u)).bits.toNat % 2 ^ 32

/-- The body of BRX. -/
def brxBody : M Unit := do
  let v ← fetch brxShape .int
  let m := (lowLane (← lanes))
  condPoison (v.a m)
  condPoison (v.b m)
  jumpOffset (((v.a m).bits.toNat + 4 * ((v.b m).bits.toNat % 2 ^ 32)) % 2 ^ 32)

/-- The body of RET. -/
def retBody : M Unit := do
  let v ← fetch retShape .int
  let m := (lowLane (← lanes))
  condPoison (v.a m)
  jumpOffset ((v.a m).bits.toNat % 2 ^ 32)

theorem exec_brx : ∀ i ∈ [Instr.brx, .brxLong], ∀ s, exec i s = meaning (insn i brxShape brxBody) s := by
  simp only [List.forall_mem_cons, List.not_mem_nil, false_implies, implies_true, and_true]
  exact ⟨fun _ => rfl, fun _ => rfl⟩

theorem exec_ret : ∀ i ∈ [Instr.ret, .retLong], ∀ s, exec i s = meaning (insn i retShape retBody) s := by
  simp only [List.forall_mem_cons, List.not_mem_nil, false_implies, implies_true, and_true]
  exact ⟨fun _ => rfl, fun _ => rfl⟩

theorem exec_bra : ∀ i ∈ [Instr.bra, .braLong], ∀ s, exec i s = meaning (braOp i) s := by
  simp only [List.forall_mem_cons, List.not_mem_nil, false_implies, implies_true, and_true]
  exact ⟨fun _ => rfl, fun _ => rfl⟩

theorem brxBody_run (he : Executes s u brxShape) (hd : Delivers s u brxShape .int v t) :
    brxBody (s.past u) =
      (condPoison (v.a (t.lead u)) >>= fun _ => condPoison (v.b (t.lead u)) >>= fun _ => jump (brxTarget t u v)) t := by
  have hfetch : fetch brxShape .int (s.past u) = .ok (v, t) := hd
  obtain ⟨m, hm, hlead⟩ := M.lead_run (hd.cur he) (hd.isSome he)
  have hc : ∀ x : Val, condPoison x t = .ok ((), t) ∨ ∃ e, condPoison x t = .error e := by
    intro x
    cases h : x.poison
    · exact .inl (M.condPoison_ok h)
    · exact .inr ⟨_, M.condPoison_traps h⟩
  simp only [brxBody, M.bind_run, hfetch, hm, hlead]
  rcases hc (v.a (t.lead u)) with ha | ⟨e, ha⟩ <;> simp only [ha]
  rcases hc (v.b (t.lead u)) with hb | ⟨e, hb⟩ <;> simp only [hb]
  rw [M.jumpOffset_eq _ (hd.cur he), Nat.mod_mod]
  rfl

theorem retBody_run (he : Executes s u retShape) (hd : Delivers s u retShape .int v t) :
    retBody (s.past u) = (condPoison (v.a (t.lead u)) >>= fun _ => jump (retTarget t u v)) t := by
  have hfetch : fetch retShape .int (s.past u) = .ok (v, t) := hd
  obtain ⟨m, hm, hlead⟩ := M.lead_run (hd.cur he) (hd.isSome he)
  simp only [retBody, M.bind_run, hfetch, hm, hlead]
  cases h : (v.a (t.lead u)).poison
  · simp only [M.condPoison_ok h]
    rw [M.jumpOffset_eq _ (hd.cur he), Nat.mod_mod]
    rfl
  · simp only [M.condPoison_traps h]

theorem call_completes (he : Executes s u linkShape) (hpc : s.pcAt u < 2 ^ 64) (h4 : s.pcAt u % 4 = 0)
    (hl : awaitLink (s.past u) = .ok ((), s.past u))
    (hw : Writes (s.past u) s.ir.c 1 (fun _ => Val.of (BitVec.ofNat 64
      (wrapN (((s.pcAt u + s.ir.form.bytes) % 2 ^ 64 : Nat) - (s.baseOf u : Int)) 32))) t) :
    exec .call s = .next (s.closed (t.jumped u (s.offsetFrom u)) u .call linkShape) := by
  obtain ⟨c, hc⟩ := Option.isSome_iff_exists.1 he.isSome
  have hctl : (s.past u).ctl u = some (c.past s.ir s.now) := by rw [State.ctl_past, hc]; rfl
  rw [State.pcAt_eq hc] at hw
  refine insn_completes_of_sameUnit he ?_ (hw.sameUnit.trans (jumped_sameUnit _ _ _))
  have hwrite : writeF s.ir.c 1 _ (s.past u) = .ok ((), t) := hw
  simp only [M.bind_run, M.ctl_run he.past_cur hctl, M.codeOffset_run _ he.past_cur, State.past_baseOf, M.offsetTarget_run he hpc, hl,
    M.ops_run, State.past_ir, Ctl.past, hwrite]
  exact M.jump_run (hw.sameUnit.1.trans he.past_cur) (State.offsetFrom_mod_four h4)

theorem beos_completes {tm tid n : Nat} {x : ExThread} (he : Executes s (.ex tm tid) noShape)
    (hx : s.exs.find (exKey tm tid) = some x) (hn : portOf s.ir.a = some n) (hpc : s.pcAt (.ex tm tid) < 2 ^ 64)
    (h4 : s.pcAt (.ex tm tid) % 4 = 0) :
    exec .beos s = .next (s.closed (if x.eos.getLsbD n then (s.past (.ex tm tid)).jumped (.ex tm tid) (s.offsetFrom (.ex tm tid))
      else s.past (.ex tm tid)) (.ex tm tid) .beos noShape) := by
  obtain ⟨c, hx'⟩ := State.past_exs_find hx
  refine insn_completes_of_sameUnit he ?_ ?_
  · simp only [M.bind_run, M.ops_run, State.past_ir, M.exThread_run he.past_cur hx', hn, Option.getD_some]
    split
    · exact (M.bind_ok (M.offsetTarget_run he hpc)).trans (M.jump_run he.past_cur (State.offsetFrom_mod_four h4))
    · rfl
  · split
    · exact jumped_sameUnit _ _ _
    · exact SameUnit.refl _

end Sys2Proof.Machine
end

section open Sys2Proof Machine

/-- Settles O14: each branch evaluated to its jump, or to the trap on its target. -/
theorem branchesComplete : Obligations.BranchesComplete := by
  unfold Obligations.BranchesComplete
  refine ⟨?_, ?_, ?_, ?_, ?_⟩
  · intro i hi s u he hpc h4
    rw [exec_bra i hi]
    exact bra_completes i he hpc h4
  · intro i hi s t u v sh a b target he hd
    have hrun := brxBody_run he hd
    have hexec := exec_brx i hi s
    refine ⟨fun ha hb h4 => hexec.trans ?_, fun hab => hexec.trans (insn_traps_any he (hrun.trans ?_)), fun ha hb h4 => hexec.trans ?_⟩
    · rw [M.bind_ok (M.condPoison_ok ha), M.bind_ok (M.condPoison_ok hb)] at hrun
      exact insn_completes_of_sameUnit he (hrun.trans (M.jump_run (hd.cur he) h4)) (hd.sameUnit.trans (jumped_sameUnit _ _ _))
    · cases ha : a.poison with
      | true => exact M.bind_error (M.condPoison_traps ha)
      | false =>
        rw [M.bind_ok (M.condPoison_ok ha)]
        exact M.bind_error (M.condPoison_traps (hab.resolve_left (by simp [ha])))
    · rw [M.bind_ok (M.condPoison_ok ha), M.bind_ok (M.condPoison_ok hb)] at hrun
      exact insn_traps_any he (hrun.trans (M.jump_traps h4))
  · intro i hi s t u v sh a target he hd
    have hrun := retBody_run he hd
    have hexec := exec_ret i hi s
    refine ⟨fun ha h4 => hexec.trans ?_, fun ha => hexec.trans (insn_traps_any he (hrun.trans ?_)), fun ha h4 => hexec.trans ?_⟩
    · rw [M.bind_ok (M.condPoison_ok ha)] at hrun
      exact insn_completes_of_sameUnit he (hrun.trans (M.jump_run (hd.cur he) h4)) (hd.sameUnit.trans (jumped_sameUnit _ _ _))
    · exact M.bind_error (M.condPoison_traps ha)
    · rw [M.bind_ok (M.condPoison_ok ha)] at hrun
      exact insn_traps_any he (hrun.trans (M.jump_traps h4))
  · intro s t u he hpc h4 hl hw
    exact call_completes he hpc h4 hl hw
  · intro s tm tid n x u he hx hn hpc h4
    exact beos_completes he hx hn hpc h4

end

section
/-! SUPPORT. Exits (R308): what an exit leaves of a unit. -/

namespace Sys2Proof.Machine

variable {s t : State} {u : Agent} {v : Opnds} {P : State → State → Prop}

theorem Frames.foldl {α : Type} (h : Frames P) {f : State → α → State} (hf : ∀ s x, P s (f s x)) (l : List α) (s : State) :
    P s (l.foldl f s) := by
  induction l generalizing s with
  | nil => exact h.refl s
  | cons x l ih => exact h.trans (hf s x) (ih _)

theorem Local.modPort (h : Local P) (s : State) (k : Nat) (f : Port → Port) : P s (s.modPort k f) := h.ports s _

theorem Local.endPorts (h : Local P) (s : State) (k : Nat) (q : Port → Bool) (e : Port → Nat) : P s (s.endPorts k q e) := by
  refine h.toFrames.foldl (fun s x => ?_) _ s
  split
  · exact h.modPort s _ _
  · exact h.refl s

theorem Local.exitEx (h : Local P) (s : State) (tm tid : Nat) : P s (s.exitEx tm tid) := by
  have hstart := h.trans (h.ex s tm tid (fun x => { x with arr := none, meet := none, ctl := { x.ctl with status := .exited } }))
    (h.strip _ tm (tid / 16) (fun t => t.dropLane (tid % 16)))
  have hretire : ∀ s (x : Nat × Port), P s (s.retire tm (tid / 16) (portKey (stripKey tm (tid / 16)) x.1)) :=
    fun s _ => h.retire s _ _ _
  unfold State.exitEx
  dsimp only
  split
  · exact h.trans hstart (h.toFrames.foldl hretire _ _)
  · exact h.trans hstart (h.trans (h.toFrames.foldl hretire _ _) (h.endPorts _ _ _ _))

theorem Local.exitAp (h : Local P) (s : State) (tm sp : Nat) : P s (s.exitAp tm sp) :=
  h.trans (h.ap s tm sp _) (h.endPorts _ _ _ _)

theorem haltEngine_sameUnit (s : State) (n code : Nat) : SameUnit s (s.haltEngine n code) :=
  (sameUnit_local.engine s n _).trans ⟨rfl, rfl, fun v => by cases v <;> rfl⟩

/-! ### What a thread that exited leaves -/

theorem State.endPorts_same (s : State) (k : Nat) (q : Port → Bool) (e : Port → Nat) :
    (s.endPorts k q e).exs = s.exs ∧ (s.endPorts k q e).strips = s.strips := by
  have hf : Frames (fun s t : State => t.exs = s.exs ∧ t.strips = s.strips) :=
    ⟨fun _ => ⟨rfl, rfl⟩, fun h1 h2 => ⟨h2.1.trans h1.1, h2.2.trans h1.2⟩⟩
  refine hf.foldl (fun s x => ?_) _ s
  split <;> exact ⟨rfl, rfl⟩

theorem State.retire_strips (s : State) (tm sp key : Nat) : (s.retire tm sp key).strips = s.strips := by
  have hdead : ∀ dead : Nat, (if dead = 0 then s else s.discard tm sp dead).strips = s.strips := by
    intro dead
    unfold State.discard
    split
    · rfl
    · split <;> rfl
  unfold State.retire
  split
  · rfl
  · exact hdead _

/-- Beyond ports and counts, an exit is the thread's status and its lane's entries. -/
theorem State.exitEx_same (s : State) (tm tid : Nat) :
    (s.exitEx tm tid).exs =
      s.exs.alter (exKey tm tid) (fun x => { x with arr := none, meet := none, ctl := { x.ctl with status := .exited } }) ∧
    (s.exitEx tm tid).strips = s.strips.alter (stripKey tm (tid / 16)) (fun t => t.dropLane (tid % 16)) := by
  have hf : Frames (fun s t : State => t.exs = s.exs ∧ t.strips = s.strips) :=
    ⟨fun _ => ⟨rfl, rfl⟩, fun h1 h2 => ⟨h2.1.trans h1.1, h2.2.trans h1.2⟩⟩
  have hret := hf.foldl (fun s (x : Nat × Port) =>
      ⟨State.retire_exs s tm (tid / 16) (portKey (stripKey tm (tid / 16)) x.1), State.retire_strips s tm (tid / 16) _⟩)
    (State.portsOf ((s.modEx tm tid (fun x => { x with arr := none, meet := none, ctl := { x.ctl with status := .exited } })).modStrip
      tm (tid / 16) (fun t => t.dropLane (tid % 16))) (stripKey tm (tid / 16)))
    ((s.modEx tm tid (fun x => { x with arr := none, meet := none, ctl := { x.ctl with status := .exited } })).modStrip
      tm (tid / 16) (fun t => t.dropLane (tid % 16)))
  unfold State.exitEx
  dsimp only
  split
  · exact hret
  · exact hf.trans hret (State.endPorts_same _ _ _ _)

theorem Strip.entry_dropLane (t : Strip) (n : Nat) {l : Nat} (hl : l < 16) : (t.dropLane l).entry n l = none := by
  refine List.find?_eq_none.2 (fun r hr => ?_)
  obtain ⟨q, -, rfl⟩ := List.mem_map.1 (show r ∈ t.regs.map (fun r => { r with live := setBit16 r.live l false }) from hr)
  rw [getLsbD_setBit16_same _ _ hl, Bool.and_false]
  exact Bool.false_ne_true

/-- Every name of an exited thread reads zero. -/
theorem readEx_exitEx (s : State) (tm tid : Nat) (n : Fin 96) : readEx (s.exitEx tm tid) tm tid (.g n) 1 = Val.zero := by
  have hstrip : (s.exitEx tm tid).strip tm (tid / 16) = {} ∨
      ∃ t : Strip, (s.exitEx tm tid).strip tm (tid / 16) = t.dropLane (tid % 16) := by
    unfold State.strip Assoc.get
    rw [(State.exitEx_same s tm tid).2, Assoc.find_alter_self]
    cases s.strips.find (stripKey tm (tid / 16)) with
    | none => exact .inl rfl
    | some t => exact .inr ⟨t, rfl⟩
  simp only [readEx, if_neg (show ¬ (1 : Nat) = 2 by decide), Strip.readG_eq]
  rcases hstrip with h | ⟨t, h⟩
  · rw [h]; rfl
  · rw [h, Strip.entry_dropLane t _ (Nat.mod_lt _ (by decide))]; rfl

end Sys2Proof.Machine
end

section
/-! SUPPORT. Thread control, instruction by instruction. -/

namespace Sys2Proof.Machine

variable {s t : State} {u : Agent} {v : Opnds}

/-- The state after EXIT's effect. -/
def State.exited (s : State) (u : Agent) : State :=
  match u with
  | .ex tm tid => s.exitEx tm tid
  | .ap tm sp => s.exitAp tm sp
  | .qe n => s.haltEngine n 1

theorem exited_sameUnit (s : State) (u : Agent) : SameUnit s (s.exited u) := by
  cases u with
  | ex tm tid => exact sameUnit_local.exitEx s tm tid
  | ap tm sp => exact sameUnit_local.exitAp s tm sp
  | qe n => exact haltEngine_sameUnit s n 1

theorem M.takeDeferred_nil {c : Ctl} (p : Deferred → Bool) (h : s.cur = some u) (hc : s.ctl u = some c) (hd : c.deferred = []) :
    takeDeferred p s = .ok ((), s) := by
  simp only [takeDeferred, M.bind_run, M.ctl_run h hc, hd]
  rfl

theorem exit_completes (i : Instr) {c : Ctl} (he : Executes s u noShape) (hc : s.ctl u = some c) (hb : c.sbuf = [])
    (hu : c.unack.all (· == 0) = true) (hd : c.deferred = []) :
    meaning (exitOp i) s = .next (s.closed ((s.past u).exited u) u i noShape) := by
  have hctl : (s.past u).ctl u = some (c.past s.ir s.now) := by rw [State.ctl_past, hc]; rfl
  refine insn_completes_of_sameUnit he ?_ (exited_sameUnit _ u)
  have hstores : awaitStores (s.past u) = .ok ((), s.past u) := by
    have hready : ((c.past s.ir s.now).sbuf.isEmpty && (c.past s.ir s.now).unack.all (· == 0)) = true := by
      simp only [Ctl.past, hb, hu, List.isEmpty_nil, Bool.and_self]
    simp only [awaitStores, M.bind_run, M.ctl_run he.past_cur hctl, hready, M.waitUnless_true, M.pure_run]
  have hdef := M.takeDeferred_nil (fun _ => true) he.past_cur hctl hd
  cases u <;> simp only [M.bind_run, hstores, M.unit_run he.past_cur, hdef, M.modify_run, State.exited]

theorem exec_exit : ∀ i ∈ [Instr.exit, .exitLong], ∀ s, exec i s = meaning (exitOp i) s := by
  simp only [List.forall_mem_cons, List.not_mem_nil, false_implies, implies_true, and_true]
  exact ⟨fun _ => rfl, fun _ => rfl⟩

theorem exec_nop : ∀ i ∈ [Instr.nop, .nopLong], ∀ s, exec i s = meaning (insn i noShape (pure ())) s := by
  simp only [List.forall_mem_cons, List.not_mem_nil, false_implies, implies_true, and_true]
  exact ⟨fun _ => rfl, fun _ => rfl⟩

theorem exec_yield : ∀ i ∈ [Instr.yield, .yieldLong], ∀ s, exec i s = meaning (yieldOp i) s := by
  simp only [List.forall_mem_cons, List.not_mem_nil, false_implies, implies_true, and_true]
  exact ⟨fun _ => rfl, fun _ => rfl⟩

theorem exec_meet : ∀ i ∈ [Instr.meet, .meetLong], ∀ s, exec i s = meaning (meetOp i) s := by
  simp only [List.forall_mem_cons, List.not_mem_nil, false_implies, implies_true, and_true]
  exact ⟨fun _ => rfl, fun _ => rfl⟩

theorem exec_bkpt : ∀ i ∈ [Instr.bkpt, .bkptLong], ∀ s, exec i s = meaning (insn i noShape (trap 4 0)) s := by
  simp only [List.forall_mem_cons, List.not_mem_nil, false_implies, implies_true, and_true]
  exact ⟨fun _ => rfl, fun _ => rfl⟩

theorem yield_completes (i : Instr) (he : Executes s u noShape) :
    meaning (yieldOp i) s = .next (s.closed ((s.past u).modCtl u (fun c =>
      { c with readySince := s.now + 2, stallUntil := max c.stallUntil (s.now + 2) })) u i noShape) := by
  refine insn_completes_of_sameUnit he ?_ (sameUnit_local.modCtl _ u _)
  simp only [M.bind_run, M.get_run, State.past_now, M.modCtl_run _ he.past_cur]

/-- The clocks SLEEP sleeps (R309). -/
def sleepClocks (x : Val) : Nat := if x.poison then 0 else x.bits.toNat % 2 ^ 20

theorem sleep_completes (he : Executes s u { d := 0, a := 0, c := 0 }) (hd : Delivers s u { d := 0, a := 0, c := 0 } .int v t) :
    exec .sleep s = .next (s.closed (if sleepClocks (v.b (t.lead u)) = 0 then t
      else t.modCtl u (fun c => { c with status := .sleeping (t.now + sleepClocks (v.b (t.lead u))) })) u .sleep
        { d := 0, a := 0, c := 0 }) := by
  have hfetch : fetch { d := 0, a := 0, c := 0 } .int (s.past u) = .ok (v, t) := hd
  obtain ⟨m, hm, hlead⟩ := M.lead_run (hd.cur he) (hd.isSome he)
  refine insn_completes_of_sameUnit he ?_ ?_
  · simp only [M.bind_run, hfetch, hm, hlead, M.get_run, sleepClocks]
    split <;> split <;> simp only [M.pure_run, M.modCtl_run _ (hd.cur he)]
  · split
    · exact hd.sameUnit
    · exact hd.sameUnit.trans (sameUnit_local.modCtl _ u _)

theorem meet_completes (i : Instr) {tm tid : Nat} (he : Executes s (.ex tm tid) noShape) (hpc : s.pcAt (.ex tm tid) < 2 ^ 64) :
    meaning (meetOp i) s = .next (s.closed ((s.past (.ex tm tid)).modEx tm tid (fun x => { x with
      meet := some (BitVec.ofNat 32 (wrapN ((s.offsetFrom (.ex tm tid) : Int) - (s.baseOf (.ex tm tid) : Int)) 32),
        BitVec.allOnes 64) })) (.ex tm tid) i noShape) := by
  refine insn_completes_of_sameUnit he ?_ (sameUnit_local.ex _ _ _ _)
  simp only [M.bind_run, M.offsetTarget_run he hpc, M.codeOffset_run _ he.past_cur, State.past_baseOf, M.unit_run he.past_cur,
    M.modify_run]

/-- The fields of MEETR, and whether it empties the meeting register. -/
def meetrShape : Shape := { d := 0, b := 2, c := 0 }
def meetrNone (v : Opnds) : Bool := (v.a 0).poison || (v.b 0).poison || (v.a 0).w32 == 0xFFFFFFFF#32

/-- The body of MEETR. -/
def meetrBody : M Unit := do
  let v ← fetch meetrShape .int
  let t := (v.a 0).w32
  let bad := (v.a 0).poison || (v.b 0).poison
  if !bad && t != 0xFFFFFFFF#32 then trapIf (t.toNat % 4 != 0) 0x23 2
  match ← unit with
  | .ex tm tid => modify (fun s => s.modEx tm tid (fun x =>
      { x with meet := if bad || t == 0xFFFFFFFF#32 then none else some (t, (v.b 0).bits) }))
  | _ => pure ()

theorem exec_meetr (s : State) : exec .meetr s = meaning (insn .meetr meetrShape meetrBody) s := rfl

theorem meetrBody_run {tm tid : Nat} (he : Executes s (.ex tm tid) meetrShape) (hd : Delivers s (.ex tm tid) meetrShape .int v t) :
    meetrBody (s.past (.ex tm tid)) = if meetrNone v = false ∧ (v.a 0).w32.toNat % 4 ≠ 0 then .error (.trap (tinfo 0x23 2))
      else .ok ((), t.modEx tm tid (fun x => { x with meet := if meetrNone v then none else some ((v.a 0).w32, (v.b 0).bits) })) := by
  have hfetch : fetch meetrShape .int (s.past (.ex tm tid)) = .ok (v, t) := hd
  have hbad : (!((v.a 0).poison || (v.b 0).poison) && (v.a 0).w32 != 0xFFFFFFFF#32) = !meetrNone v := by
    unfold meetrNone
    rw [bne, ← Bool.not_or]
  have hnone : ((v.a 0).poison || (v.b 0).poison || (v.a 0).w32 == 0xFFFFFFFF#32) = meetrNone v := rfl
  simp only [meetrBody, M.bind_run, hfetch, hbad, hnone]
  cases hn : meetrNone v with
  | true => simp only [M.bind_run, Bool.not_true, Bool.false_eq_true, if_false, M.unit_run (hd.cur he), M.modify_run, if_true,
      reduceCtorEq, false_and]
  | false =>
    by_cases h4 : (v.a 0).w32.toNat % 4 = 0
    · simp only [M.bind_run, Bool.not_false, if_true, h4, bne_self_eq_false, M.trapIf_false, M.pure_run, M.unit_run (hd.cur he), M.modify_run,
        ne_eq, not_true_eq_false, and_false, if_false, Bool.false_eq_true]
    · have h4' : ((v.a 0).w32.toNat % 4 != 0) = true := by simpa using h4
      simp only [M.bind_run, Bool.not_false, if_true, h4', M.trapIf_true, M.trap_run, ne_eq, h4, not_false_iff, and_self]

/-- An execute thread that goes on starts its team's idle clocks anew (R349). -/
theorem State.closed_teams {tm tid : Nat} {c : Ctl} (i : Instr) (sh : Shape) (hc : t.ctl (.ex tm tid) = some c)
    (hs : c.status = .ready) : (s.closed t (.ex tm tid) i sh).teams = t.teams.alter tm (fun g => { g with idle := 0 }) := by
  have hidled : ∀ y : State, y.ctl (.ex tm tid) = some c → y.teams = t.teams →
      (y.idled (.ex tm tid)).teams = t.teams.alter tm (fun g => { g with idle := 0 }) := by
    intro y hy hteams
    have hw : y.waits (.ex tm tid) = false := by simp only [State.waits, hy, hs]
    rw [State.idled, hw, ← hteams]
    rfl
  unfold State.closed
  dsimp only
  split
  · refine hidled _ ?_ rfl
    obtain ⟨x, hx, rfl⟩ := Option.map_eq_some_iff.1 hc
    exact congrArg (Option.map ExThread.ctl) (Assoc.find_alter_some _ hx)
  · exact hidled t hc rfl

/-- The state after HEART's effect: the periods that are over have ended and the team's beat is marked. -/
def State.marked (s : State) (tm : Nat) : State :=
  s.modTeam tm (fun t => { t.endPeriods (LRec.beat (s.recordOf t)) with beaten := true })

/-- The body of HEART. -/
def heartBody : M Unit := do
  match ← unit with
  | .ex tm _ =>
    modify (fun s => s.modTeam tm (fun t => { t.endPeriods (LRec.beat (s.recordOf t)) with beaten := true }))
  | _ => pure ()

theorem exec_heart (s : State) : exec .heart s = meaning (insn .heart noShape heartBody) s := rfl

theorem heart_completes {tm tid : Nat} {g : Team} (he : Executes s (.ex tm tid) noShape) (hg : s.teams.find tm = some g) :
    ∃ t, exec .heart s = .next t ∧
      t.teams.find tm = some { g.endPeriods (LRec.beat (s.recordOf g)) with beaten := true, idle := 0 } := by
  have hrun : heartBody (s.past (.ex tm tid)) = .ok ((), (s.past (.ex tm tid)).marked tm) := by
    simp only [heartBody, M.bind_run, M.unit_run he.past_cur, M.modify_run, State.marked]
  refine ⟨_, (exec_heart s).trans (insn_completes_of_sameUnit he hrun (sameUnit_team _ _ _)), ?_⟩
  obtain ⟨c, hc⟩ := Option.isSome_iff_exists.1 he.isSome
  have hctl : ((s.past (.ex tm tid)).marked tm).ctl (.ex tm tid) = some (c.past s.ir s.now) :=
    (State.ctl_past s _).trans (congrArg (Option.map _) hc)
  rw [State.closed_teams .heart noShape hctl rfl, Assoc.find_alter_self, State.marked, State.modTeam, Assoc.find_alter_self, State.past_teams, hg]
  simp only [Option.map_some, State.recordOf_past]

end Sys2Proof.Machine
end

section open Sys2Proof Machine

/-- Settles O15: each instruction of thread control evaluated to its effect or its trap. -/
theorem threadControlComplete : Obligations.ThreadControlComplete := by
  unfold Obligations.ThreadControlComplete
  refine ⟨⟨?_, ?_, ?_, ?_, ?_, ?_, ?_, ?_⟩, ?_, ?_⟩
  · intro i hi s u c he hc hb hu hd
    exact (exec_exit i hi s).trans (exit_completes i he hc hb hu hd)
  · intro s tm tid x hx _
    refine ⟨_, by rw [(State.exitEx_same s tm tid).1, Assoc.find_alter_some _ hx], rfl, rfl, fun n => ?_⟩
    rw [readEx_exitEx]
    rfl
  · intro i hi s u he
    exact (exec_nop i hi s).trans (insn_completes_of_sameUnit he rfl (SameUnit.refl _))
  · intro i hi s u he
    exact (exec_yield i hi s).trans (yield_completes i he)
  · intro s t u v sh x n he hd
    exact sleep_completes he hd
  · intro i hi s tm tid u he hpc
    exact (exec_meet i hi s).trans (meet_completes i he hpc)
  · intro s t tm tid v u sh off none' he hd
    have hrun := meetrBody_run he hd
    refine ⟨fun h4 => ?_, fun hn h4 => ?_⟩
    · rw [if_neg (fun h => h.2 (h4 h.1))] at hrun
      exact (exec_meetr s).trans (insn_completes_of_sameUnit he hrun (hd.sameUnit.trans (sameUnit_local.ex _ _ _ _)))
    · rw [if_pos ⟨hn, h4⟩] at hrun
      exact (exec_meetr s).trans (insn_traps_any he hrun)
  · intro s tm tid g u he hg
    exact heart_completes he hg
  · intro i hi s u he
    exact (exec_bkpt i hi s).trans (insn_traps_any he rfl)
  · intro s t u v sh x he hd
    have hfetch : fetch sh .int (s.past u) = .ok (v, t) := hd
    obtain ⟨m, hm, hlead⟩ := M.lead_run (hd.cur he) (hd.isSome he)
    refine insn_traps_any he ?_
    simp only [M.bind_run]
    rw [hfetch]
    simp only [hm, hlead, M.ops_run, hd.ir, M.stopTrap_run]
    rfl

end

section
/-! SUPPORT. The frame of the register instructions: a quiet step changes a thread's registers under given names, its control and its
team's flags and idle clock (R42, R86), and stops in nothing but a trap, a wait or a fault. -/

namespace Sys2Proof.Machine

variable {α β : Type} {s t r : State} {tm tid : Nat} {N : List Nat} {i : Instr} {sh : Shape} {lk : LitKind}

/-- What a step of a thread leaves alone that may change the names N of it. -/
structure Quiet (tm tid : Nat) (N : List Nat) (s t : State) : Prop where
  rest : { t with exs := s.exs, teams := s.teams, strips := s.strips, fresh := s.fresh } = s
  strips : ∀ k, k ≠ stripKey tm (tid / 16) → t.strips.find k = s.strips.find k
  exs : ∀ k, k ≠ exKey tm tid → t.exs.find k = s.exs.find k
  thread : ∀ x, s.exs.find (exKey tm tid) = some x → ∃ y, t.exs.find (exKey tm tid) = some y ∧
    y.f = x.f ∧ y.fp = x.fp ∧ y.eos = x.eos ∧ y.meet = x.meet ∧ y.ctl.sbuf = x.ctl.sbuf
  teams : ∀ k, k ≠ tm → t.teams.find k = s.teams.find k
  team : ∀ g, s.teams.find tm = some g → ∃ g', t.teams.find tm = some g' ∧ { g' with flags := g.flags, idle := g.idle } = g
  sound : (s.strip tm (tid / 16)).sound s.fresh → (t.strip tm (tid / 16)).sound t.fresh
  reads : (s.strip tm (tid / 16)).sound s.fresh → ∀ (tid' : Nat) (j : Fin 96), (tid' ≠ tid ∨ j.val ∉ N) →
    readEx t tm tid' (.g j) 1 = readEx s tm tid' (.g j) 1

namespace Quiet

theorem refl (s : State) : Quiet tm tid N s s :=
  ⟨rfl, fun _ _ => rfl, fun _ _ => rfl, fun x hx => ⟨x, hx, rfl, rfl, rfl, rfl, rfl⟩, fun _ _ => rfl, fun g hg => ⟨g, hg, rfl⟩,
    id, fun _ _ _ _ => rfl⟩

theorem trans (h1 : Quiet tm tid N s t) (h2 : Quiet tm tid N t r) : Quiet tm tid N s r where
  rest := by
    have e := congrArg (fun q : State => { q with exs := s.exs, teams := s.teams, strips := s.strips, fresh := s.fresh }) h2.rest
    exact e.trans h1.rest
  strips k hk := (h2.strips k hk).trans (h1.strips k hk)
  exs k hk := (h2.exs k hk).trans (h1.exs k hk)
  thread x hx := by
    obtain ⟨y, hy, f1, p1, e1, m1, b1⟩ := h1.thread x hx
    obtain ⟨z, hz, f2, p2, e2, m2, b2⟩ := h2.thread y hy
    exact ⟨z, hz, f2.trans f1, p2.trans p1, e2.trans e1, m2.trans m1, b2.trans b1⟩
  teams k hk := (h2.teams k hk).trans (h1.teams k hk)
  team g hg := by
    obtain ⟨g1, hg1, e1⟩ := h1.team g hg
    obtain ⟨g2, hg2, e2⟩ := h2.team g1 hg1
    exact ⟨g2, hg2, (congrArg (fun q : Team => { q with flags := g.flags, idle := g.idle }) e2).trans e1⟩
  sound h := h2.sound (h1.sound h)
  reads h tid' j hj := (h2.reads (h1.sound h) tid' j hj).trans (h1.reads h tid' j hj)

theorem cur (h : Quiet tm tid N s t) : t.cur = s.cur := by rw [← h.rest]
theorem ir (h : Quiet tm tid N s t) : t.ir = s.ir := by rw [← h.rest]

/-- A change of the thread's record that keeps its predicates, end marks, meeting and buffer. -/
theorem modEx (s : State) {f : ExThread → ExThread}
    (hf : ∀ x, (f x).f = x.f ∧ (f x).fp = x.fp ∧ (f x).eos = x.eos ∧ (f x).meet = x.meet ∧ (f x).ctl.sbuf = x.ctl.sbuf) :
    Quiet tm tid N s (s.modEx tm tid f) :=
  ⟨rfl, fun _ _ => rfl, fun _ hk => Assoc.find_alter_of_ne _ _ hk,
    fun x hx => ⟨f x, Assoc.find_alter_some f hx, hf x⟩, fun _ _ => rfl, fun g hg => ⟨g, hg, rfl⟩, id, fun _ _ _ _ => rfl⟩

theorem modCtl (s : State) {f : Ctl → Ctl} (hf : ∀ c, (f c).sbuf = c.sbuf) : Quiet tm tid N s (s.modCtl (.ex tm tid) f) :=
  modEx s (fun x => ⟨rfl, rfl, rfl, rfl, hf x.ctl⟩)

theorem modTeam (s : State) {f : Team → Team} (hf : ∀ g, { f g with flags := g.flags, idle := g.idle } = g) :
    Quiet tm tid N s (s.modTeam tm f) :=
  ⟨rfl, fun _ _ => rfl, fun _ _ => rfl, fun x hx => ⟨x, hx, rfl, rfl, rfl, rfl, rfl⟩, fun _ hk => Assoc.find_alter_of_ne _ _ hk,
    fun g hg => ⟨f g, Assoc.find_alter_some f hg, hf g⟩, id, fun _ _ _ _ => rfl⟩

end Quiet

/-! ### Strips -/

theorem State.modStrip_strip_same (s : State) (tm i : Nat) (f : Strip → Strip) :
    (s.modStrip tm i f).strip tm i = s.strip tm i ∨ (s.modStrip tm i f).strip tm i = f (s.strip tm i) := by
  unfold State.strip Assoc.get
  rw [show (s.modStrip tm i f).strips = s.strips.alter (stripKey tm i) f from rfl, Assoc.find_alter_self]
  cases s.strips.find (stripKey tm i) with
  | none => exact .inl rfl
  | some t => exact .inr rfl

theorem State.modStrip_strip_of_ne (s : State) {tm i j : Nat} (f : Strip → Strip) (h : j ≠ i) :
    (s.modStrip tm i f).strip tm j = s.strip tm j := by
  unfold State.strip Assoc.get
  rw [show (s.modStrip tm i f).strips = s.strips.alter (stripKey tm i) f from rfl,
    Assoc.find_alter_of_ne _ _ (fun e => h (stripKey_inj e))]

theorem Strip.sound_drops {t : Strip} {k : Nat} (h : t.sound k) (ns : List Nat) (l : Nat) :
    (ns.foldl (fun t n => t.drop n l) t).sound k := by
  induction ns generalizing t with
  | nil => exact h
  | cons n ns ih => exact ih (Strip.sound_drop h)

theorem Strip.readG_drops (t : Strip) (ns : List Nat) {l j i : Nat} (h : i ≠ l ∨ j ∉ ns) :
    (ns.foldl (fun t n => t.drop n l) t).readG j i = t.readG j i := by
  induction ns generalizing t with
  | nil => rfl
  | cons n ns ih =>
    rw [List.foldl_cons, ih _ (h.imp_right fun h m => h (List.mem_cons_of_mem _ m))]
    exact Strip.readG_drop t (h.symm.imp_left fun h e => h (e ▸ List.mem_cons_self))

/-- A register a thread reads is in its strip at its lane. -/
theorem readEx_congr {j : Fin 96} {tid' : Nat}
    (h : (t.strip tm (tid' / 16)).readG j.val (tid' % 16) = (s.strip tm (tid' / 16)).readG j.val (tid' % 16)) :
    readEx t tm tid' (.g j) 1 = readEx s tm tid' (.g j) 1 := by
  simpa only [readEx, if_neg (show ¬ (1 : Nat) = 2 by decide)] using h

theorem Quiet.dropped (s : State) (h : ∀ n ∈ marksIn s.ir sh, n ∈ N) : Quiet tm tid N s (s.dropped tm tid sh) := by
  unfold State.dropped
  split
  · exact Quiet.refl s
  · refine ⟨rfl, fun _ hk => Assoc.find_alter_of_ne _ _ hk, fun _ _ => rfl, fun x hx => ⟨x, hx, rfl, rfl, rfl, rfl, rfl⟩,
      fun _ _ => rfl, fun g hg => ⟨g, hg, rfl⟩, fun hs => ?_, fun _ tid' j hj => readEx_congr ?_⟩
    · rcases State.modStrip_strip_same s tm (tid / 16) _ with e | e <;> rw [e]
      · exact hs
      · exact Strip.sound_drops hs _ _
    · by_cases hst : tid' / 16 = tid / 16
      · rw [hst]
        rcases State.modStrip_strip_same s tm (tid / 16) _ with e | e <;> rw [e]
        refine Strip.readG_drops _ _ ?_
        rcases hj with hj | hj
        · exact .inl (by omega)
        · exact .inr (fun m => hj (h _ m))
      · rw [State.modStrip_strip_of_ne s _ hst]

theorem Quiet.wrote (s : State) {n : Fin 96} {m : Bool} {w : Nat} {x : Val} (h : ∀ k ∈ gNames (.reg (.g n) m) w, k ∈ N) (h1 : n.val ∈ N) :
    Quiet tm tid N s (s.wrote tm tid (gWrites n.val w x) x.poison false) where
  rest := rfl
  strips k hk := Assoc.find_put_of_ne _ _ hk
  exs _ _ := rfl
  thread x hx := ⟨x, hx, rfl, rfl, rfl, rfl, rfl⟩
  teams _ _ := rfl
  team g hg := ⟨g, hg, rfl⟩
  sound hs := State.wrote_sound hs
  reads hs tid' j hj := by
    refine readEx_wrote_of_ne hs (hj.imp_right fun hj => ⟨fun e => hj (e ▸ h1), fun hw e => hj (h _ ?_)⟩)
    subst hw
    simp only [gNames, List.mem_map, List.mem_range]
    exact ⟨1, by decide, e.symm⟩

/-! ### Runs -/

/-- The stops that leave the state to what a trap, a wait or a fault does. -/
def Stop.plain : Stop → Bool
  | .trap _ | .wait _ | .fault _ => true
  | _ => false

/-- A part that ends quietly, or stops plainly. -/
def QuietRun (tm tid : Nat) (N : List Nat) (m : M α) (s : State) : Prop :=
  match m s with
  | .ok p => Quiet tm tid N s p.2
  | .error e => e.plain = true

namespace QuietRun

theorem ok {m : M α} {a : α} (h : m s = .ok (a, t)) (hq : Quiet tm tid N s t) : QuietRun tm tid N m s := by
  unfold QuietRun
  rw [h]
  exact hq

theorem stop {m : M α} {e : Stop} (h : m s = .error e) (he : e.plain = true) : QuietRun tm tid N m s := by
  unfold QuietRun
  rw [h]
  exact he

theorem bind {m : M α} {f : α → M β} (hm : QuietRun tm tid N m s) (hf : ∀ a t, Quiet tm tid N s t → QuietRun tm tid N (f a) t) :
    QuietRun tm tid N (m >>= f) s := by
  unfold QuietRun at hm ⊢
  rw [M.bind_run]
  cases h : m s with
  | error e => rw [h] at hm; exact hm
  | ok p =>
    rw [h] at hm
    have hq := hf p.1 p.2 hm
    unfold QuietRun at hq
    dsimp only
    cases h2 : f p.1 p.2 with
    | error e => rw [h2] at hq; exact hq
    | ok q => rw [h2] at hq; exact hm.trans hq

theorem read {m : M α} {f : α → M β} {a : α} (hm : m s = .ok (a, s)) (hf : QuietRun tm tid N (f a) s) :
    QuietRun tm tid N (m >>= f) s := by
  unfold QuietRun
  rw [M.bind_ok hm]
  exact hf

theorem get_bind {f : State → M β} (hf : QuietRun tm tid N (f s) s) : QuietRun tm tid N (MonadState.get >>= f) s := read (M.get_run s) hf
theorem ops_bind {f : Ops → M β} (hf : QuietRun tm tid N (f s.ir) s) : QuietRun tm tid N (Machine.ops >>= f) s := read (M.ops_run s) hf

theorem pure (a : α) : QuietRun tm tid N (Pure.pure a : M α) s := ok rfl (Quiet.refl s)

theorem modify {f : State → State} (h : Quiet tm tid N s (f s)) : QuietRun tm tid N (modify f) s := ok rfl h

theorem trapIf (b : Bool) (c n : Nat) : QuietRun tm tid N (trapIf b c n) s := by
  cases b
  · exact pure _
  · exact stop rfl rfl

theorem waitUnless (b : Bool) (w : Wait) : QuietRun tm tid N (waitUnless b w) s := by
  cases b
  · exact stop rfl rfl
  · exact pure _

theorem trapIf_bind {b : Bool} {c n : Nat} {f : Unit → M β} (hf : QuietRun tm tid N (f ()) s) :
    QuietRun tm tid N (Machine.trapIf b c n >>= f) s := by
  cases b
  · exact read rfl hf
  · exact stop rfl rfl

theorem waitUnless_bind {b : Bool} {w : Wait} {f : Unit → M β} (hf : QuietRun tm tid N (f ()) s) :
    QuietRun tm tid N (Machine.waitUnless b w >>= f) s := by
  cases b
  · exact stop rfl rfl
  · exact read rfl hf

theorem stopTrap (e : TrapInfo) : QuietRun tm tid N (stopTrap e : M α) s := stop rfl rfl

variable (hcur : s.cur = some (.ex tm tid))
include hcur

theorem unit_bind {f : Agent → M β} (hf : QuietRun tm tid N (f (.ex tm tid)) s) : QuietRun tm tid N (Machine.unit >>= f) s :=
  read (M.unit_run hcur) hf

theorem team : QuietRun tm tid N team s := by
  unfold Machine.team
  refine get_bind (unit_bind hcur ?_)
  split
  · exact pure _
  · exact stop rfl rfl

theorem exThread : QuietRun tm tid N exThread s := by
  unfold Machine.exThread
  refine unit_bind hcur (get_bind ?_)
  split
  · exact pure _
  · exact stop rfl rfl

theorem checkMode : QuietRun tm tid N checkMode s :=
  get_bind (bind (team hcur) (fun _ _ _ => pure _))

theorem ctl : QuietRun tm tid N ctl s := by
  unfold Machine.ctl
  refine unit_bind hcur (get_bind ?_)
  split
  · exact pure _
  · exact stop rfl rfl

theorem modCtl {f : Ctl → Ctl} (hf : ∀ c, (f c).sbuf = c.sbuf) : QuietRun tm tid N (modCtl f) s :=
  ok (M.modCtl_run f hcur) (Quiet.modCtl s hf)

theorem advance : QuietRun tm tid N advance s := ok (M.advance_run hcur) (Quiet.modCtl (f := fun c => c.past s.ir s.now) s (fun _ => rfl))

theorem retired : QuietRun tm tid N retired s := by
  unfold Machine.retired
  refine unit_bind hcur (bind (ctl hcur) (fun c t ht => ?_))
  split
  · exact pure _
  · exact modify (Quiet.modTeam t (fun _ => rfl))

theorem awaitRegs (fs : List (Field × Nat)) : QuietRun tm tid N (awaitRegs fs) s := by
  unfold Machine.awaitRegs
  exact get_bind (unit_bind hcur (waitUnless _ _))

theorem dropMarks (h : ∀ n ∈ marksIn s.ir sh, n ∈ N) : QuietRun tm tid N (dropMarks s.ir sh) s :=
  ok (dropMarks_run_ex hcur) (Quiet.dropped s h)

theorem fetch (h : ∀ n ∈ marksIn s.ir sh, n ∈ N) (hp : noPortsIn s.ir) (hd : noPort s.ir.d = true) :
    QuietRun tm tid N (fetch sh lk) s := by
  unfold Machine.fetch
  refine ops_bind (read (checkPorts_run hcur hp (fun _ => hd)) (bind (awaitRegs hcur _) (fun _ t ht => ?_)))
  have hct := ht.cur.trans hcur
  have hir := ht.ir
  rw [← hir] at h hp ⊢
  simp only [srcPorts_of_noPorts hp]
  refine unit_bind hct (read rfl (read rfl (read rfl (read (readField1_run_ex hct hp.1) (read (readField1_run_ex hct hp.2.1)
    (read (readField1_run_ex hct hp.2.2) (bind (dropMarks hct h) (fun _ _ _ => pure _))))))))

theorem raise (fl : FlagSet) : QuietRun tm tid N (raise fl) s := by
  unfold Machine.raise
  refine unit_bind hcur (bind (team hcur) (fun g t ht => get_bind ?_))
  dsimp only
  split
  · exact modify (Quiet.modTeam t (fun _ => rfl))
  · exact stopTrap _

omit hcur in
theorem writeRegs {n : Fin 96} {m : Bool} {w : Nat} {x : Val} (h : ∀ k ∈ gNames (.reg (.g n) m) w, k ∈ N) (h1 : n.val ∈ N) :
    QuietRun tm tid N (writeRegs tm tid (gWrites n.val w x) x.poison false) s := by
  unfold Machine.writeRegs
  refine get_bind ?_
  split
  · exact stop rfl rfl
  · exact trapIf_bind (waitUnless_bind (ok rfl (Quiet.wrote s h h1)))

theorem writeD {w : Nat} {v : Lanes} (hw : w ≠ 0) (h : ∀ k ∈ gNames s.ir.d w, k ∈ N) (hd : noPort s.ir.d = true) :
    QuietRun tm tid N (writeD w v) s := by
  unfold Machine.writeD
  refine ops_bind ?_
  generalize s.ir.d = f at h hd
  unfold Machine.writeF
  refine unit_bind hcur ?_
  cases f with
  | reg n m =>
    cases n with
    | g n =>
      have h1 : n.val ∈ N := h _ (List.mem_map.2 ⟨0, List.mem_range.2 (Nat.pos_of_ne_zero hw), rfl⟩)
      exact bind (writeRegs (x := heldVal (v 0)) h h1) (fun _ _ _ => pure _)
    | q n => cases hd
    | _ => exact pure _
  | _ => exact pure _

theorem advPops (hp : noPortsIn s.ir) : QuietRun tm tid N (advPops sh) s := by
  refine ok (advPops_run_none hcur ?_) (Quiet.refl s)
  rw [srcPorts_of_noPorts hp]
  simp

/-- The frame of R42 around a quiet body. -/
theorem insn {body : M Unit} (hb : ∀ t, Quiet tm tid N s t → QuietRun tm tid N body t) (hp : noPortsIn s.ir)
    (hm : ∀ n ∈ marksIn s.ir sh, n ∈ N) : QuietRun tm tid N (insn i sh body) s := by
  unfold Machine.insn insnWith
  refine ops_bind (unit_bind hcur (bind (exThread hcur) (fun x t ht => ?_)))
  have hct := ht.cur.trans hcur
  refine bind (checkMode hct) (fun chk t2 ht2 => ?_)
  have hct2 := ht2.cur.trans hct
  refine trapIf_bind (trapIf_bind (bind (advance hct2) (fun _ t3 ht3 => ?_)))
  have hall := (ht.trans ht2).trans ht3
  have hct3 := ht3.cur.trans hct2
  refine bind ?_ (fun _ t4 ht4 => bind ?_ (fun _ t5 ht5 => retired (ht5.cur.trans (ht4.cur.trans hct3))))
  · split
    · exact hb t3 hall
    · have hir := hall.ir
      rw [← hir] at hp hm ⊢
      refine bind (advPops hct3 hp) (fun _ t4 ht4 => ?_)
      have hir4 := ht4.ir
      rw [← hir4] at hm ⊢
      exact dropMarks (ht4.cur.trans hct3) hm
  · split
    · exact modify (Quiet.modEx _ (fun _ => ⟨rfl, rfl, rfl, rfl, rfl⟩))
    · exact pure _

end QuietRun

/-- What an instruction whose fields name no port may change of its thread's names. -/
def touched (o : Ops) (sh : Shape) : List Nat := gNames o.d sh.d ++ marksIn o sh

/-- The fields of the state's instruction name no port. -/
def portless (o : Ops) : Prop := noPortsIn o ∧ noPort o.d = true

namespace QuietRun

variable (hcur : s.cur = some (.ex tm tid)) (hp : portless s.ir)
include hcur hp

/-- A body that reads its fields and goes on quietly. -/
theorem fetched {f : Opnds → M Unit}
    (hf : ∀ v t, t.cur = some (.ex tm tid) → t.ir = s.ir → QuietRun tm tid (touched s.ir sh) (f v) t) :
    QuietRun tm tid (touched s.ir sh) (Machine.insn i sh (Machine.fetch sh lk >>= f)) s := by
  obtain ⟨hsrc, hd⟩ := hp
  have hm : ∀ n ∈ marksIn s.ir sh, n ∈ touched s.ir sh := fun n h => List.mem_append_right _ h
  refine insn hcur (fun t ht => ?_) hsrc hm
  have hct := ht.cur.trans hcur
  have hir := ht.ir
  rw [← hir] at hsrc hd hm
  refine bind ?_ (fun v t2 ht2 => hf v t2 (ht2.cur.trans hct) (ht2.ir.trans hir))
  rw [← hir]
  exact fetch hct hm hsrc hd

/-- The write to the destination. -/
theorem written {w : Nat} {v : Lanes} (hw : sh.d = w) (h0 : w ≠ 0) : QuietRun tm tid (touched s.ir sh) (Machine.writeD w v) s :=
  writeD hcur h0 (fun _ hk => List.mem_append_left _ (hw ▸ hk)) hp.2

end QuietRun

theorem intOpX_quiet {f : Nat → Nat → Nat → Nat → Nat → Nat} (hcur : s.cur = some (.ex tm tid)) (hp : portless s.ir) (h0 : sh.d ≠ 0) :
    QuietRun tm tid (touched s.ir sh) (intOpX i sh f) s := by
  refine QuietRun.fetched hcur hp (fun v t hct hir => QuietRun.read (M.width_run hct) (QuietRun.ops_bind ?_))
  rw [← hir] at hp ⊢
  exact QuietRun.written hct hp rfl h0

theorem immOp_quiet {f : Nat → Nat → Int → Nat} (hcur : s.cur = some (.ex tm tid)) (hp : portless s.ir) :
    QuietRun tm tid (touched s.ir one1) (immOp i f) s := by
  refine QuietRun.fetched hcur hp (fun v t hct hir => QuietRun.read (M.width_run hct) (QuietRun.ops_bind ?_))
  rw [← hir] at hp ⊢
  exact QuietRun.written hct hp rfl (by decide)

theorem fpOp_quiet {f : Nat → Nat → Nat → Nat → FRes} (hcur : s.cur = some (.ex tm tid)) (hp : portless s.ir) (h0 : sh.d ≠ 0) :
    QuietRun tm tid (touched s.ir sh) (fpOp i sh lk f) s := by
  refine QuietRun.fetched hcur hp (fun v t hct hir => QuietRun.ops_bind ?_)
  rw [← hir] at hp ⊢
  split
  · exact QuietRun.written hct hp rfl h0
  · refine QuietRun.bind (QuietRun.raise hct _) (fun _ t2 ht2 => ?_)
    have hir2 := ht2.ir
    rw [← hir2] at hp ⊢
    exact QuietRun.written (ht2.cur.trans hct) hp rfl h0

/-- Every register row runs quietly. -/
theorem exec_registerRow_quiet (hcur : s.cur = some (.ex tm tid)) (hp : portless s.ir) :
    ∀ r ∈ registerRows, ∀ i ∈ r.1, ∃ m, exec i s = meaning m s ∧ QuietRun tm tid (touched s.ir (r.2 s.ir)) m s := by
  have hint : ∀ r ∈ intRows, r.2.1.d ≠ 0 := by decide
  have hfp : ∀ r ∈ fpRows, r.2.1.d ≠ 0 := by decide
  intro r hr i hi
  simp only [registerRows, List.mem_append, List.mem_map] at hr
  rcases hr with ((⟨r, hr, rfl⟩ | ⟨r, hr, rfl⟩) | ⟨r, hr, rfl⟩) | ⟨r, hr, rfl⟩
  · exact ⟨_, exec_intRow r hr i hi s, intOpX_quiet hcur hp (hint r hr)⟩
  · exact ⟨_, exec_immRow r hr i hi s, immOp_quiet hcur hp⟩
  · exact ⟨_, exec_fpRow r hr i hi s, fpOp_quiet hcur hp (hfp r hr)⟩
  · rw [List.mem_singleton.1 hi]
    refine ⟨_, exec_cvtRow r hr s, fpOp_quiet hcur hp ?_⟩
    dsimp only [cvtShape]
    split <;> decide

/-- What a quiet meaning leaves, with the trap or the wait it may end in. -/
structure Outcomes (tm tid : Nat) (N : List Nat) (s t : State) : Prop where
  quiet : Quiet tm tid N s { t with ctxs := s.ctxs, plans := s.plans, mgmt := s.mgmt }
  stopped : (∃ y r, t.exs.find (exKey tm tid) = some y ∧ y.ctl.status = .stopped r) ∨
    t.ctxs = s.ctxs ∧ t.plans = s.plans ∧ t.mgmt = s.mgmt

theorem Outcomes.of_quiet (h : Quiet tm tid N s t) : Outcomes tm tid N s t := by
  have hc : t.ctxs = s.ctxs := by rw [← h.rest]
  have hp : t.plans = s.plans := by rw [← h.rest]
  have hm : t.mgmt = s.mgmt := by rw [← h.rest]
  refine ⟨?_, .inr ⟨hc, hp, hm⟩⟩
  rw [← hc, ← hp, ← hm]
  exact h

theorem Outcomes.of_trap {x : ExThread} (hx : s.exs.find (exKey tm tid) = some x) (e : TrapInfo) (len : BitVec 2) :
    Outcomes tm tid N s (s.takeTrap (.ex tm tid) e len) := by
  have hfind := State.takeTrap_exs_find e len hx
  obtain ⟨hframe, haps⟩ := State.takeTrap_ex_frame e len hx
  have hrest := hframe.rest
  generalize s.takeTrap (.ex tm tid) e len = r at *
  have hstrips : r.strips = s.strips := by
    have h := congrArg (fun q : State => q.strips) hrest
    exact h
  have hfresh : r.fresh = s.fresh := by
    have h := congrArg (fun q : State => q.fresh) hrest
    exact h
  refine ⟨⟨?_, fun _ _ => by rw [← hstrips], fun k hk => ?_, fun y hy => ?_, fun k hk => hframe.team_of_ne hk, fun g hg => ?_,
    fun hs => ?_, fun _ _ _ _ => readEx_congr (congrArg (fun m : Assoc Strip => (m.get _ {}).readG _ _) hstrips)⟩,
    .inl ⟨_, _, (hfind _).trans (if_pos rfl), rfl⟩⟩
  · refine (congrArg (fun q : State => { q with strips := s.strips, fresh := s.fresh, aps := r.aps }) hrest).trans ?_
    simp only [haps]
  · exact (hfind k).trans (if_neg hk)
  · obtain rfl := Option.some.inj (hx.symm.trans hy)
    exact ⟨_, (hfind _).trans (if_pos rfl), rfl, rfl, rfl, rfl, rfl⟩
  · refine ⟨{ g with flags := g.flags ||| e.flags }, ?_, rfl⟩
    exact hframe.team_same.trans (congrArg (Option.map _) hg)
  · unfold State.strip at hs ⊢
    rw [← hstrips, ← hfresh] at hs
    exact hs

theorem Outcomes.of_run {m : M Unit} {x : ExThread} (hcur : s.cur = some (.ex tm tid)) (hx : s.exs.find (exKey tm tid) = some x)
    (hm : QuietRun tm tid N m s) (h : meaning m s = .next t) : Outcomes tm tid N s t := by
  simp only [meaning, hcur, runUnit] at h
  unfold QuietRun at hm
  cases hr : m s with
  | ok p =>
    rw [hr] at hm h
    cases h
    exact .of_quiet hm
  | error e =>
    rw [hr] at hm h
    cases e with
    | trap e => cases h; exact .of_trap hx _ _
    | wait w => cases h; exact .of_quiet (Quiet.modCtl s (fun _ => rfl))
    | fault f => cases h
    | _ => cases hm

end Sys2Proof.Machine
end

section open Sys2Proof Machine

/-- Settles O16: a register row's meaning ends quietly, or in a trap or a wait. -/
theorem registerRowsFrame : Obligations.RegisterRowsFrame := by
  unfold Obligations.RegisterRowsFrame
  intro row hrow i hi s t tm tid x sh hcur _ hx hs ha hb hc hd he
  obtain ⟨m, hm, hq⟩ := exec_registerRow_quiet hcur ⟨⟨ha, hb, hc⟩, hd⟩ row hrow i hi
  obtain ⟨⟨hrest, hstrips, hexs, hthread, hteams, hteam, -, hreads⟩, hstop⟩ := Outcomes.of_run hcur hx hq (hm.symm.trans he)
  obtain ⟨y, hy, hf, hfp, heos, hmeet, hbuf⟩ := hthread x hx
  refine ⟨hrest, hstrips, hexs, ⟨y, hy, hf, hfp, heos, hmeet, hbuf, ?_⟩, hteams, hteam, fun tid' j _ hj => ?_⟩
  · rcases hstop with ⟨z, r, hz, hr⟩ | h
    · obtain rfl := Option.some.inj (hy.symm.trans hz)
      exact .inl ⟨r, hr⟩
    · exact .inr h
  · refine hreads hs tid' j (hj.imp_right fun h m => ?_)
    exact (List.mem_append.1 m).elim h.1 h.2

end

section
/-! SUPPORT. The checks of an access (R161-R163): each check of `accesses` in turn for one lane. -/

namespace Sys2Proof.Machine

variable {s : State} {u : Agent} {w : Want} {v : Opnds} {l : Nat} {vec data place : Bool}

@[simp] theorem M.orTrap_ok {α : Type} (x : α) : orTrap (.ok x) = pure x := rfl
@[simp] theorem M.orTrap_error {α : Type} (t : TrapInfo) : (orTrap (.error t) : M α) = stopTrap t := rfl

theorem stage_ok {α β : Type} (tag : Bool) {f : α → Except TrapInfo β} {x : α} {y : β} (h : f x = .ok y) :
    stage tag f [(l, x)] = .ok [(l, y)] := by
  simp only [stage, h]
  rfl

theorem stage_error {α β : Type} {f : α → Except TrapInfo β} {x : α} {t : TrapInfo} (h : f x = .error t) (ht : t.lane = none) :
    stage false f [(l, x)] = .error t := by
  simp only [stage, h, Bool.false_eq_true, if_false, ← ht]

/-- The data, offset and place that a lane's poison check looks at. -/
def checkedPoison (s : State) (u : Agent) (w : Want) (v : Opnds) (data place : Bool) (l : Nat) : Except TrapInfo Unit :=
  poisonCheck (if data then v.a l else Val.zero) (v.b l)
    (if place && Hnd.space (s.handleOf u w.hidx) == 2 then v.c l else Val.zero)

/-- The handle check of an instruction. -/
def checkedHandle (s : State) (u : Agent) (w : Want) (place : Bool) : Except TrapInfo Unit :=
  checkHandle (sideOf u) w (s.handleOf u w.hidx) (isReg s.ir.b) (place && named s.ir.c)

/-- The offset field's value that a lane's spot is made from. -/
def rawOffset (u : Agent) (v : Opnds) (l : Nat) : Nat := (v.b l).bits.toNat % (if sideOf u = .exec then 2 ^ 32 else 2 ^ 64)

/-- The spot of a lane, where it has one. -/
def checkedSpot (s : State) (u : Agent) (w : Want) (v : Opnds) (l : Nat) : Except TrapInfo Spot :=
  s.spotOf u w (s.handleOf u w.hidx) (rawOffset u v l) (v.c l).bits

/-- A scalar access asks a place of the first lane register. -/
def scalarPlace (s : State) (u : Agent) (w : Want) (vec place : Bool) : Bool :=
  place && Hnd.space (s.handleOf u w.hidx) == 2 && sideOf u == .access && !vec && s.ir.c == .reg (.a 0) false

/-- A trap of the handle check under the lane it names. -/
def handleLaned (s : State) (u : Agent) (w : Want) (vec place : Bool) (l : Nat) : Except TrapInfo Unit :=
  match checkedHandle s u w place with
  | .error t => .error { t with lane := if vec then some l else none }
  | .ok () => .ok ()

theorem spots_eq (hcur : s.cur = some u) : spots w v [l] vec data place s =
    (orTrap (stage vec (checkedPoison s u w v data place) [(l, l)]) >>= fun _ => orTrap (handleLaned s u w vec place l) >>= fun _ =>
      trapIf (scalarPlace s u w vec place) 1 5 >>= fun _ => orTrap (stage vec (checkedSpot s u w v) [(l, l)])) s := by
  simp only [spots, M.bind_run, M.unit_run hcur, M.get_run, M.ops_run, List.map_cons, List.map_nil]
  rfl

theorem spots_run {p : Spot} (hcur : s.cur = some u) (hp : checkedPoison s u w v data place l = .ok ())
    (hh : checkedHandle s u w place = .ok ()) (hs : scalarPlace s u w vec place = false) (hsp : checkedSpot s u w v l = .ok p) :
    spots w v [l] vec data place s = .ok ([(l, p)], s) := by
  rw [spots_eq hcur, stage_ok vec hp, handleLaned, hh, hs, stage_ok vec hsp]
  rfl

theorem spots_poison {t : TrapInfo} (hcur : s.cur = some u) (hp : checkedPoison s u w v data place l = .error t) (ht : t.lane = none) :
    spots w v [l] false data place s = .error (.trap t) := by
  rw [spots_eq hcur, stage_error hp ht]
  rfl

theorem spots_handle {t : TrapInfo} (hcur : s.cur = some u) (hp : checkedPoison s u w v data place l = .ok ())
    (hh : checkedHandle s u w place = .error t) (ht : t.lane = none) : spots w v [l] false data place s = .error (.trap t) := by
  have hl : handleLaned s u w false place l = .error t := by
    rw [handleLaned, hh]
    simp only [Bool.false_eq_true, if_false, ← ht]
  rw [spots_eq hcur, stage_ok false hp, hl]
  rfl

theorem spots_spot {t : TrapInfo} (hcur : s.cur = some u) (hp : checkedPoison s u w v data place l = .ok ())
    (hh : checkedHandle s u w place = .ok ()) (hs : scalarPlace s u w false place = false) (hsp : checkedSpot s u w v l = .error t)
    (ht : t.lane = none) : spots w v [l] false data place s = .error (.trap t) := by
  rw [spots_eq hcur, stage_ok false hp, handleLaned, hh, hs, stage_error hsp ht]
  rfl

theorem accesses_of_spots_error {ls : List Nat} {t : TrapInfo} (hcur : s.cur = some u)
    (h : spots w v ls vec data place s = .error (.trap t)) : accesses w v ls vec data place s = .error (.trap t) := by
  simp only [accesses, M.bind_run, M.unit_run hcur, h]

/-- What is accessed, once the queue of an engine whose store it is in has gone. -/
def queueFirst (as : List (Nat × Acc)) : M (List (Nat × Acc)) :=
  match as with
  | (_, a) :: _ => if a.space = 3 then awaitQueue a.core >>= fun _ => pure as else pure as
  | [] => pure as

section
variable {p : Spot} (hcur : s.cur = some u) (h : spots w v [l] vec data place s = .ok ([(l, p)], s)) (h3 : p.space ≠ 3)
include hcur h h3

/-- Past the spots, an access off the engine's store makes checks 3 to 5 of its lane in turn. -/
theorem accesses_past_spots : accesses w v [l] vec data place s =
    (orTrap (stage vec Spot.aligned [(l, p)]) >>= fun _ => orTrap (stage vec Spot.bounded [(l, p)]) >>= fun _ =>
      orTrap (stage vec (fun p => s.addrOf (s.ctxOf u) p w.need) [(l, p)]) >>= fun as =>
      queueFirst as) s := by
  simp only [accesses, M.bind_run, M.unit_run hcur, h, M.get_run, if_neg h3]
  cases u <;> rfl

theorem accesses_run {a : Acc} (h1 : p.aligned = .ok ()) (h2 : p.bounded = .ok ()) (ha : s.addrOf (s.ctxOf u) p w.need = .ok a)
    (ha3 : a.space ≠ 3) : accesses w v [l] vec data place s = .ok ([(l, a)], s) := by
  rw [accesses_past_spots hcur h h3, stage_ok vec h1, stage_ok vec h2, stage_ok (f := fun p => s.addrOf (s.ctxOf u) p w.need) vec ha]
  simp only [M.orTrap_ok, M.bind_run, M.pure_run, queueFirst, if_neg ha3]

end

section
variable {p : Spot} {t : TrapInfo} (hcur : s.cur = some u) (h : spots w v [l] false data place s = .ok ([(l, p)], s)) (h3 : p.space ≠ 3)
  (ht : t.lane = none)
include hcur h h3 ht

theorem accesses_misaligned (h1 : p.aligned = .error t) : accesses w v [l] false data place s = .error (.trap t) := by
  rw [accesses_past_spots hcur h h3, stage_error h1 ht]
  rfl

theorem accesses_unbounded (h1 : p.aligned = .ok ()) (h2 : p.bounded = .error t) :
    accesses w v [l] false data place s = .error (.trap t) := by
  rw [accesses_past_spots hcur h h3, stage_ok false h1, stage_error h2 ht]
  rfl

theorem accesses_untranslated (h1 : p.aligned = .ok ()) (h2 : p.bounded = .ok ()) (ha : s.addrOf (s.ctxOf u) p w.need = .error t) :
    accesses w v [l] false data place s = .error (.trap t) := by
  rw [accesses_past_spots hcur h h3, stage_ok false h1, stage_ok false h2,
    stage_error (f := fun p => s.addrOf (s.ctxOf u) p w.need) ha ht]
  rfl

end

/-! ### The single checks -/

theorem poisonCheck_address (hd : data = true → (v.a l).poison = false)
    (h : (v.b l).poison = true ∨ (place = true ∧ Hnd.space (s.handleOf u w.hidx) = 2) ∧ (v.c l).poison = true) :
    checkedPoison s u w v data place l = .error (tinfo 0x11 1) := by
  have hdata : (if data then v.a l else Val.zero).poison = false := by
    split
    · next e => exact hd e
    · rfl
  unfold checkedPoison poisonCheck
  rw [hdata, if_neg Bool.false_ne_true, if_pos (h.imp_right fun h => ?_)]
  rw [if_pos (by simpa using h.1)]
  exact h.2

theorem poisonCheck_clean {d o p : Val} (hd : d.poison = false) (ho : o.poison = false) (hp : p.poison = false) :
    poisonCheck d o p = .ok () := by
  simp only [poisonCheck, hd, ho, hp, Bool.false_eq_true, or_self, if_false]

theorem checkedPoison_clean (hd : data = true → (v.a l).poison = false) (ho : (v.b l).poison = false)
    (hp : place = true ∧ Hnd.space (s.handleOf u w.hidx) = 2 → (v.c l).poison = false) : checkedPoison s u w v data place l = .ok () := by
  refine poisonCheck_clean ?_ ho ?_
  · split
    · next h => exact hd h
    · rfl
  · split
    · next h => exact hp (by simpa using h)
    · rfl

/-- The offset and location of a lane, its pointer tag taken off. -/
def offsetOf (s : State) (u : Agent) (w : Want) (v : Opnds) (l : Nat) : Nat :=
  if (Hnd.tagen (s.handleOf u w.hidx) || !w.tags) && Hnd.kind (s.handleOf u w.hidx) == 1 then rawOffset u v l % 2 ^ 60 else rawOffset u v l

def locOf (s : State) (u : Agent) (w : Want) (v : Opnds) (l : Nat) : Nat := Hnd.base (s.handleOf u w.hidx) + offsetOf s u w v l

/-- The pointer tag of a lane. -/
def tagOf (s : State) (u : Agent) (w : Want) (v : Opnds) (l : Nat) : Option (BitVec 4) :=
  if !w.tags || !Hnd.tagen (s.handleOf u w.hidx) then none
  else if Hnd.kind (s.handleOf u w.hidx) = 1 then some (BitVec.ofNat 4 (rawOffset u v l / 2 ^ 60))
  else if Hnd.kind (s.handleOf u w.hidx) = 0 then some (BitVec.ofNat 4 (Hnd.htag (s.handleOf u w.hidx))) else none

/-- The core and window a lane's access is at. -/
def corePlace (s : State) (u : Agent) (w : Want) (v : Opnds) (l : Nat) : Except TrapInfo (Nat × Nat) :=
  if Hnd.space (s.handleOf u w.hidx) = 2 then s.placeTarget u w.hidx (v.c l).bits
  else .ok ((s.coreOf u).getD 0, (s.teamOf u).elim 0 (fun t => 64 * t.spbase))

/-- A lane's access meets the semaphore window, and lies in it whole. -/
abbrev meetsWindow (s : State) (u : Agent) (w : Want) (v : Opnds) (l : Nat) : Prop :=
  Hnd.space (s.handleOf u w.hidx) = 0 ∧ locOf s u w v l < 2 ^ 64 ∧ semBase < locOf s u w v l + w.size

abbrev inWindow (s : State) (u : Agent) (w : Want) (v : Opnds) (l : Nat) : Prop :=
  Hnd.space (s.handleOf u w.hidx) = 0 ∧ semBase ≤ locOf s u w v l ∧ locOf s u w v l + w.size ≤ 2 ^ 64

/-- The spot of a lane at a core and window. -/
def spotAt (s : State) (u : Agent) (w : Want) (v : Opnds) (l : Nat) (q : Nat × Nat) : Spot :=
  ⟨w.hidx, s.handleOf u w.hidx, if Hnd.space (s.handleOf u w.hidx) = 2 ∧ q.1 = (s.coreOf u).getD 0 then 1 else Hnd.space (s.handleOf u w.hidx),
    q.1, q.2, offsetOf s u w v l, locOf s u w v l, w.size, w.align, tagOf s u w v l, w.offAlign⟩

/-- The spot of a lane at its place, unless it meets the semaphore window where it may not. -/
def spotChecked (s : State) (u : Agent) (w : Want) (v : Opnds) (l : Nat) (q : Nat × Nat) : Except TrapInfo Spot :=
  if meetsWindow s u w v l ∧ (w.sem = false ∨ ¬ inWindow s u w v l) then .error (accTrap 0x24 8 w.hidx (locOf s u w v l))
  else .ok (spotAt s u w v l q)

theorem window_ite {α : Type} {m n k : Prop} [Decidable m] [Decidable n] [Decidable k] (x y : α) :
    (if decide m = true ∧ ¬ decide k = true then x else if decide m = true ∧ ¬ decide n = true then x else y) =
      if m ∧ (decide k = false ∨ ¬ n) then x else y := by
  by_cases hm : m <;> by_cases hk : k <;> by_cases hn : n <;> simp [hm, hk, hn]

theorem checkedSpot_eq : checkedSpot s u w v l = corePlace s u w v l >>= spotChecked s u w v l := by
  refine (show checkedSpot s u w v l = corePlace s u w v l >>= fun q =>
      if decide (meetsWindow s u w v l) = true ∧ ¬ w.sem = true then .error (accTrap 0x24 8 w.hidx (locOf s u w v l))
      else if decide (meetsWindow s u w v l) = true ∧ ¬ decide (inWindow s u w v l) = true then
        .error (accTrap 0x24 8 w.hidx (locOf s u w v l))
      else .ok (spotAt s u w v l q) from rfl).trans (congrArg _ (funext fun q => ?_))
  have h := window_ite (m := meetsWindow s u w v l) (n := inWindow s u w v l) (k := w.sem = true)
    (Except.error (accTrap 0x24 8 w.hidx (locOf s u w v l))) (.ok (spotAt s u w v l q))
  simp only [Bool.decide_eq_true] at h
  exact h

theorem checkedSpot_no_place {t : TrapInfo} (h : corePlace s u w v l = .error t) : checkedSpot s u w v l = .error t := by
  rw [checkedSpot_eq, h]
  rfl

theorem checkedSpot_window {q : Nat × Nat} (h : corePlace s u w v l = .ok q) (hm : meetsWindow s u w v l)
    (hw : w.sem = false ∨ ¬ inWindow s u w v l) : checkedSpot s u w v l = .error (accTrap 0x24 8 w.hidx (locOf s u w v l)) := by
  rw [checkedSpot_eq, h]
  exact if_pos ⟨hm, hw⟩

theorem checkedSpot_run {q : Nat × Nat} (h : corePlace s u w v l = .ok q) (hm : ¬ meetsWindow s u w v l) :
    checkedSpot s u w v l = .ok (spotAt s u w v l q) := by
  rw [checkedSpot_eq, h]
  exact if_neg (fun h => hm h.1)

theorem corePlace_own (h : Hnd.space (s.handleOf u w.hidx) ≠ 2) :
    corePlace s u w v l = .ok ((s.coreOf u).getD 0, 64 * (s.teamOf u).elim 0 (·.spbase)) := by
  refine (if_neg h).trans ?_
  cases s.teamOf u <;> rfl

theorem not_meetsWindow (h : Hnd.space (s.handleOf u w.hidx) = 0 → locOf s u w v l + w.size ≤ semBase) : ¬ meetsWindow s u w v l :=
  fun hm => absurd hm.2.2 (Nat.not_lt.2 (h hm.1))

section
variable (q : Nat × Nat)

theorem spotAt_aligned (h1 : locOf s u w v l % w.align = 0) (h2 : offsetOf s u w v l % w.offAlign = 0) :
    (spotAt s u w v l q).aligned = .ok () := if_pos ⟨h1, h2⟩

theorem spotAt_misaligned (h : ¬ (locOf s u w v l % w.align = 0 ∧ offsetOf s u w v l % w.offAlign = 0)) :
    (spotAt s u w v l q).aligned = .error (accTrap 0x23 1 w.hidx (locOf s u w v l)) := if_neg h

theorem spotAt_bounded (h : offsetOf s u w v l + w.size ≤ Hnd.limit (s.handleOf u w.hidx)) : (spotAt s u w v l q).bounded = .ok () :=
  if_pos h

theorem spotAt_unbounded (h : ¬ offsetOf s u w v l + w.size ≤ Hnd.limit (s.handleOf u w.hidx)) :
    (spotAt s u w v l q).bounded = .error (accTrap 0x20 1 w.hidx (locOf s u w v l)) := if_neg h

theorem spotAt_space (h : Hnd.space (s.handleOf u w.hidx) ≠ 2) : (spotAt s u w v l q).space = Hnd.space (s.handleOf u w.hidx) :=
  if_neg (fun h2 => h h2.1)

theorem spotAt_space_ne (h : Hnd.space (s.handleOf u w.hidx) ≠ 3) : (spotAt s u w v l q).space ≠ 3 := by
  unfold spotAt
  dsimp only
  split
  · decide
  · exact h

end

section
variable {ctx : Nat} {p : Spot} {need : Need} (hg : globalSpace p.space = true) (hs : p.space = 0 → p.loc < semBase)
include hg hs

/-- Check 5 behind the range registers, off the semaphore window. -/
theorem addrOf_translated {ia : Nat} {r : RangeReg} (h : translate (s.context ctx) p.loc need = .ok (ia, r)) :
    s.addrOf ctx p need =
      .ok ⟨p.hidx, p.h, p.space, p.core, p.loc, p.size, ia, Range.host r, Range.peer r, p.ptag⟩ := by
  unfold State.addrOf
  dsimp only
  rw [if_pos hg, if_neg (fun h => absurd h.2 (Nat.not_le.2 (hs h.1))), h]

theorem addrOf_untranslated {t : TrapInfo} (h : translate (s.context ctx) p.loc need = .error t) :
    s.addrOf ctx p need = .error { t with handle := BitVec.ofNat 8 p.hidx, loc := BitVec.ofNat 64 p.loc } := by
  unfold State.addrOf
  dsimp only
  rw [if_pos hg, if_neg (fun h => absurd h.2 (Nat.not_le.2 (hs h.1))), h]

end

theorem addrOf_spad {ctx : Nat} {p : Spot} {need : Need} (h : p.space = 1) :
    s.addrOf ctx p need = .ok ⟨p.hidx, p.h, p.space, p.core, p.loc, p.size, (Loc.spad p.core (p.win + p.loc)).key, false, false, p.ptag⟩ := by
  unfold State.addrOf
  dsimp only
  rw [h]
  rfl

/-! ### The handle check -/

section
variable {side : Side} {h : Handle} {reg placed : Bool} {sub : Nat}

theorem checkHandle_none (h7 : Hnd.space h = 7) : checkHandle side w h reg placed = .error (accTrap 0x24 1 w.hidx 0) := if_pos h7

variable (h7 : Hnd.space h ≠ 7)
include h7

theorem checkHandle_literal (hr : side = .exec ∧ globalSpace (Hnd.space h) = true ∧ reg = true) :
    checkHandle side w h reg placed = .error (accTrap 0x24 6 w.hidx 0) := (if_neg h7).trans (if_pos hr)

variable (hr : ¬(side = .exec ∧ globalSpace (Hnd.space h) = true ∧ reg = true))
include hr

theorem checkHandle_space (hs : Hnd.space h ∉ w.spaces ∨ placed = true ∧ Hnd.space h ≠ 2) :
    checkHandle side w h reg placed = .error (accTrap 0x24 2 w.hidx 0) := (if_neg h7).trans ((if_neg hr).trans (if_pos hs))

variable (hs : ¬(Hnd.space h ∉ w.spaces ∨ placed = true ∧ Hnd.space h ≠ 2))
include hs

theorem checkHandle_kind (hk : Hnd.kind h ∉ w.kinds) : checkHandle side w h reg placed = .error (accTrap 0x24 5 w.hidx 0) :=
  (if_neg h7).trans ((if_neg hr).trans ((if_neg hs).trans (if_pos hk)))

theorem checkHandle_width (hk : Hnd.kind h ∈ w.kinds) (hw : Hnd.ew h ∉ w.widths) :
    checkHandle side w h reg placed = .error (accTrap 0x24 7 w.hidx 0) :=
  (if_neg h7).trans ((if_neg hr).trans ((if_neg hs).trans ((if_neg (not_not.2 hk)).trans (if_pos hw))))

end

theorem scalarPlace_false (h : ¬((place = true ∧ Hnd.space (s.handleOf u w.hidx) = 2) ∧ sideOf u = .access ∧ s.ir.c = .reg (.a 0) false)) :
    scalarPlace s u w vec place = false := by
  refine Bool.eq_false_iff.2 (fun e => h ?_)
  simp only [scalarPlace, Bool.and_eq_true, beq_iff_eq] at e
  obtain ⟨⟨⟨⟨h1, h2⟩, h3⟩, -⟩, h4⟩ := e
  exact ⟨⟨h1, h2⟩, h3, h4⟩

theorem scalarPlace_own (h : Hnd.space (s.handleOf u w.hidx) ≠ 2) : scalarPlace s u w vec place = false :=
  scalarPlace_false (fun e => h e.1.2)

theorem placeTarget_malformed {g : Team} {hidx : Nat} {x : W64} (hg : s.teamOf u = some g)
    (h : x.toNat % 2 ^ 32 / 2 ^ 16 ≠ 0 ∨ s.coreAt (g.coreOf (stripOf u)) (sext (x.toNat % 2 ^ 32 % 256) 8)
      (sext (x.toNat % 2 ^ 32 / 256) 8) = none) : s.placeTarget u hidx x = .error (accTrap 0x24 3 hidx 0) := by
  unfold State.placeTarget
  dsimp only
  rw [hg]
  dsimp only
  split
  · rfl
  · next h0 => rw [h.resolve_left h0]

theorem placeTarget_vacant {g : Team} {hidx : Nat} {x : W64} {c : Nat} (hg : s.teamOf u = some g) (h0 : x.toNat % 2 ^ 32 / 2 ^ 16 = 0)
    (hc : s.coreAt (g.coreOf (stripOf u)) (sext (x.toNat % 2 ^ 32 % 256) 8) (sext (x.toNat % 2 ^ 32 / 256) 8) = some c)
    (ht : s.teamAt g.gid g.cohort c = none) : s.placeTarget u hidx x = .error (accTrap 0x24 4 hidx 0) := by
  unfold State.placeTarget
  dsimp only
  rw [hg]
  dsimp only
  rw [if_neg (not_not.2 h0), hc]
  dsimp only
  rw [ht]

/-! ### Translation -/

/-- A range register that holds a VA. -/
def Range.holds (va : Nat) (r : RangeReg) : Bool := Range.v r && decide (Range.vbase r ≤ va ∧ va < Range.vend r)

theorem translate_none {c : Context} {va : Nat} (need : Need) (h : ∀ r ∈ c.ranges, Range.holds va r = false) :
    translate c va need = .error (prot 1) := by
  unfold translate
  rw [List.find?_eq_none.2 (fun r hr => by rw [← Range.holds, h r hr]; exact Bool.false_ne_true)]

theorem translate_first {c : Context} {va : Nat} (need : Need) {before after : List RangeReg} {r : RangeReg}
    (hc : c.ranges = before ++ r :: after) (hb : ∀ q ∈ before, Range.holds va q = false) (hr : Range.holds va r = true) :
    translate c va need = if need.grants r then .ok (Range.iabase r + (va - Range.vbase r), r) else .error (prot 2) := by
  have hfind : c.ranges.find? (Range.holds va) = some r := by
    rw [hc, List.find?_append, List.find?_eq_none.2 (fun q hq => by rw [hb q hq]; exact Bool.false_ne_true), Option.none_or,
      List.find?_cons_of_pos hr]
  unfold translate
  unfold Range.holds at hfind
  rw [hfind]

theorem translate_error_lane {c : Context} {va : Nat} {need : Need} {t : TrapInfo} (h : translate c va need = .error t) : t.lane = none := by
  unfold translate at h
  split at h
  · cases h; rfl
  · split at h
    · cases h
    · cases h; rfl

/-! ### One lane's access as a whole -/

theorem accesses_own {a : Acc} (hcur : s.cur = some u) (hsize : 0 < w.size) (hd : data = true → (v.a l).poison = false)
    (ho : (v.b l).poison = false) (hh : checkedHandle s u w place = .ok ()) (ha : accessAt s u w v l a) :
    accesses w v [l] vec data place s = .ok ([(l, a)], s) := by
  obtain ⟨h1, h2, h3, h4, h5, h6, h7, hsp, hsem, halign, hoff, hlim, haddr⟩ := ha
  have hn2 : Hnd.space (s.handleOf u w.hidx) ≠ 2 := by rcases hsp with h | h | h | h <;> rw [h] <;> decide
  have hn3 : Hnd.space (s.handleOf u w.hidx) ≠ 3 := by rcases hsp with h | h | h | h <;> rw [h] <;> decide
  have hspots := spots_run (vec := vec) hcur (checkedPoison_clean hd ho (fun h => absurd h.2 hn2)) hh (scalarPlace_own hn2)
    (checkedSpot_run (corePlace_own hn2) (not_meetsWindow hsem))
  refine accesses_run hcur hspots (spotAt_space_ne _ hn3) (spotAt_aligned _ halign hoff) (spotAt_bounded _ hlim) ?_ (h3.trans_ne hn3)
  have hspace := spotAt_space (v := v) (l := l) ((s.coreOf u).getD 0, 64 * (s.teamOf u).elim 0 (·.spbase)) hn2
  split at haddr
  · next h =>
    rw [addrOf_spad (hspace.trans h)]
    obtain ⟨ha, hhost, hpeer⟩ := haddr
    cases a
    simp only at h1 h2 h3 h4 h5 h6 h7 ha hhost hpeer
    subst h1 h2 h3 h4 h5 h6 h7 ha hhost hpeer
    rw [hspace]
    rfl
  · next h =>
    obtain ⟨r, ht, hhost, hpeer⟩ := haddr
    have hg : globalSpace (Hnd.space (s.handleOf u w.hidx)) = true := by
      rcases hsp with e | e | e | e
      · rw [e]; rfl
      · exact absurd e h
      · rw [e]; rfl
      · rw [e]; rfl
    refine (addrOf_translated (by rw [hspace]; exact hg)
      (fun e => Nat.lt_of_lt_of_le (Nat.lt_add_of_pos_right hsize) (hsem (hspace ▸ e))) ht).trans ?_
    cases a
    simp only at h1 h2 h3 h4 h5 h6 h7 hhost hpeer
    subst h1 h2 h3 h4 h5 h6 h7 hhost hpeer
    rw [hspace]
    rfl

end Sys2Proof.Machine
end

section open Sys2Proof Machine

/-- Settles O17: the checks of one lane in their order, and the range register that decides. -/
theorem accessChecks : Obligations.AccessChecks := by
  unfold Obligations.AccessChecks
  refine ⟨?_, ?_, ?_⟩
  · intro s u w v l vec data place a hcur hsize hd ho hh ha
    exact accesses_own hcur hsize hd ho hh ha
  · intro s u w v l data place hcur hsize h sp raw off loc fails checked placed clean regOff foreign word
    have hpoison : clean → checkedPoison s u w v data place l = .ok () := fun hc => checkedPoison_clean hc.1 hc.2.1 hc.2.2
    have hhandle : ∀ sub, clean → checkedHandle s u w place = .error (accTrap 0x24 sub w.hidx 0) → fails (accTrap 0x24 sub w.hidx 0) :=
      fun sub hc e => accesses_of_spots_error hcur (spots_handle hcur (hpoison hc) e rfl)
    have hspot : clean → checked → ¬(placed ∧ sideOf u = .access ∧ s.ir.c = .reg (.a 0) false) → ∀ sub loc,
        checkedSpot s u w v l = .error (accTrap 0x24 sub w.hidx loc) → fails (accTrap 0x24 sub w.hidx loc) :=
      fun hc hk hp sub loc e => accesses_of_spots_error hcur (spots_spot hcur (hpoison hc) hk (scalarPlace_false hp) e rfl)
    refine ⟨fun hd => ?_, fun hd => ?_, fun hc h7 => hhandle 1 hc (checkHandle_none h7),
      fun hc h7 hr => hhandle 6 hc (checkHandle_literal h7 hr), fun hc h7 hr hf => hhandle 2 hc (checkHandle_space h7 hr ?_),
      fun hc h7 hr hf hk => hhandle 5 hc (checkHandle_kind h7 hr ?_ hk),
      fun hc h7 hr hf hk hw => hhandle 7 hc (checkHandle_width h7 hr ?_ hk hw), fun g hc hk h2 hg hp => ⟨fun hm => ?_, fun c h0 hcore ht => ?_⟩,
      fun hc hk h0 hlt hmeet hor => ?_, fun hc hk hp hsp hsem => ?_⟩
    · refine accesses_of_spots_error hcur (spots_poison hcur (t := tinfo 0x11 0) ?_ rfl)
      simp only [checkedPoison, poisonCheck, hd.1, hd.2, if_true]
    · refine accesses_of_spots_error hcur (spots_poison hcur (t := tinfo 0x11 1) ?_ rfl)
      exact poisonCheck_address hd.1 hd.2
    · rwa [Bool.and_eq_true, and_assoc]
    · rwa [Bool.and_eq_true, and_assoc]
    · rwa [Bool.and_eq_true, and_assoc]
    · exact hspot hc hk hp 3 0 (checkedSpot_no_place ((if_pos h2).trans (placeTarget_malformed hg hm)))
    · exact hspot hc hk hp 4 0 (checkedSpot_no_place ((if_pos h2).trans (placeTarget_vacant hg h0 hcore ht)))
    · have hn2 : sp ≠ 2 := fun e => absurd (e.symm.trans h0) (by decide)
      refine hspot hc hk (fun e => hn2 e.1.2) 8 _ (checkedSpot_window (corePlace_own hn2) ⟨h0, hlt, hmeet⟩ (hor.imp_right fun h => ?_))
      rcases h with h | h
      · exact fun e => absurd e.2.1 (Nat.not_le.2 h)
      · exact fun e => absurd e.2.2 (Nat.not_le.2 h)
    · have hn3 : sp ≠ 3 := by
        rcases hsp with h | h | h | h | ⟨h, -⟩ <;> rw [h] <;> decide
      obtain ⟨q, hq⟩ : ∃ q, corePlace s u w v l = .ok q := by
        by_cases h2 : sp = 2
        · obtain ⟨q, hq⟩ : ∃ q, s.placeTarget u w.hidx (v.c l).bits = .ok q := by
            rcases hsp with h | h | h | h | ⟨-, h⟩
            case inr.inr.inr.inr => exact h
            all_goals exact absurd (h2.symm.trans h) (by decide)
          exact ⟨q, (if_pos h2).trans hq⟩
        · exact ⟨_, corePlace_own h2⟩
      have hspots := spots_run (vec := false) hcur (hpoison hc) hk (scalarPlace_false hp) (checkedSpot_run hq (not_meetsWindow hsem))
      have h3 := spotAt_space_ne (v := v) (l := l) q hn3
      refine ⟨fun h => accesses_misaligned hcur hspots h3 rfl (spotAt_misaligned q h),
        fun h hlim => accesses_unbounded hcur hspots h3 rfl (spotAt_aligned q h.1 h.2) (spotAt_unbounded q (Nat.not_le.2 hlim)),
        fun h hlim hg t ht => ?_⟩
      refine accesses_untranslated (t := { t with handle := _, loc := _ }) hcur hspots h3 (translate_error_lane (t := t) ht) (spotAt_aligned q h.1 h.2) (spotAt_bounded q hlim) ?_
      have hn2 : sp ≠ 2 := by
        intro e
        rw [e] at hg
        cases hg
      have hspace := spotAt_space (v := v) (l := l) q hn2
      exact addrOf_untranslated (by rw [hspace]; exact hg)
        (fun e => Nat.lt_of_lt_of_le (Nat.lt_add_of_pos_right hsize) (hsem (hspace.symm.trans e))) ht
  · intro c va need holds
    refine ⟨fun h => translate_none need h, fun before after r hc hb hr => ⟨fun hg => ?_, fun hg => ?_⟩⟩
    · exact (translate_first need hc hb hr).trans (if_pos hg)
    · exact (translate_first need hc hb hr).trans (if_neg (by rw [hg]; exact Bool.false_ne_true))

end

section
/-! SUPPORT. Reading the operands and checking an access change little: ports, strips, what a unit notes for itself, and counts. -/

namespace Sys2Proof.Machine

variable {α β : Type} {s t r : State} {u : Agent} {tm tid sp n : Nat}

/-- A unit's control without what reading its operands uses up, and without the mark of a wait for the matrix queue. -/
def Ctl.calm (c : Ctl) : Ctl := { c with repl := [], mark := none }

def ExThread.calm (x : ExThread) : ExThread := { x with eos := 0, ctl := x.ctl.calm }
def ApThread.calm (x : ApThread) : ApThread := { x with ctl := x.ctl.calm }
def Engine.calm (x : Engine) : Engine := { x with ctl := x.ctl.calm }
def Context.calm (x : Context) : Context := { x with dtok := 0 }

/-- What reading operands and checking an access leaves alone. -/
structure Calm (s t : State) : Prop where
  rest : { t with ports := s.ports, strips := s.strips, exs := s.exs, aps := s.aps, engines := s.engines, ctxs := s.ctxs, mgmt := s.mgmt } = s
  exs : ∀ k, (t.exs.find k).map ExThread.calm = (s.exs.find k).map ExThread.calm
  aps : ∀ k, (t.aps.find k).map ApThread.calm = (s.aps.find k).map ApThread.calm
  engines : ∀ k, (t.engines.find k).map Engine.calm = (s.engines.find k).map Engine.calm
  ctxs : ∀ k, (t.context k).calm = (s.context k).calm
  mgmt : { t.mgmt with counters := s.mgmt.counters } = s.mgmt

namespace Calm

theorem refl (s : State) : Calm s s := ⟨rfl, fun _ => rfl, fun _ => rfl, fun _ => rfl, fun _ => rfl, rfl⟩

theorem trans (h1 : Calm s t) (h2 : Calm t r) : Calm s r where
  rest := by
    have e := congrArg (fun q : State => { q with ports := s.ports, strips := s.strips, exs := s.exs, aps := s.aps, engines := s.engines, ctxs := s.ctxs, mgmt := s.mgmt }) h2.rest
    exact e.trans h1.rest
  exs k := (h2.exs k).trans (h1.exs k)
  aps k := (h2.aps k).trans (h1.aps k)
  engines k := (h2.engines k).trans (h1.engines k)
  ctxs k := (h2.ctxs k).trans (h1.ctxs k)
  mgmt := by
    have e := congrArg (fun q : Mgmt => { q with counters := s.mgmt.counters }) h2.mgmt
    exact e.trans h1.mgmt

theorem frames : Frames Calm := ⟨refl, trans⟩

theorem ports (s : State) (m : Assoc Port) : Calm s { s with ports := m } :=
  ⟨rfl, fun _ => rfl, fun _ => rfl, fun _ => rfl, fun _ => rfl, rfl⟩

theorem strips (s : State) (m : Assoc Strip) : Calm s { s with strips := m } :=
  ⟨rfl, fun _ => rfl, fun _ => rfl, fun _ => rfl, fun _ => rfl, rfl⟩

theorem modStrip (s : State) (a b : Nat) (f : Strip → Strip) : Calm s (s.modStrip a b f) := strips s _

theorem count (s : State) (a b : Nat) : Calm s (s.count a b) :=
  ⟨rfl, fun _ => rfl, fun _ => rfl, fun _ => rfl, fun _ => rfl, rfl⟩

theorem find_alter_map {α : Type} {m : Assoc α} {k : Nat} {f g : α → α} (h : ∀ x, g (f x) = g x) (j : Nat) :
    ((m.alter k f).find j).map g = (m.find j).map g := by
  rw [Assoc.find_alter]
  split
  · next e => subst e; cases m.find j <;> simp [h]
  · rfl

theorem modEx (s : State) (a b : Nat) {f : ExThread → ExThread} (h : ∀ x, (f x).calm = x.calm) : Calm s (s.modEx a b f) :=
  ⟨rfl, fun k => find_alter_map h k, fun _ => rfl, fun _ => rfl, fun _ => rfl, rfl⟩

theorem modCtl (s : State) (u : Agent) {f : Ctl → Ctl} (h : ∀ x, (f x).calm = x.calm) : Calm s (s.modCtl u f) := by
  cases u with
  | ex tm tid => exact modEx s _ _ (fun x => congrArg (fun c => { x with eos := 0, ctl := c }) (h x.ctl))
  | ap tm sp => exact ⟨rfl, fun _ => rfl, fun k => find_alter_map (fun x => congrArg (fun c => { x with ctl := c }) (h x.ctl)) k,
      fun _ => rfl, fun _ => rfl, rfl⟩
  | qe n => exact ⟨rfl, fun _ => rfl, fun _ => rfl, fun k => find_alter_map (fun x => congrArg (fun c => { x with ctl := c }) (h x.ctl)) k,
      fun _ => rfl, rfl⟩

theorem modCtx (s : State) (a : Nat) {f : Context → Context} (h : ∀ x, (f x).calm = x.calm) : Calm s (s.modCtx a f) := by
  refine ⟨rfl, fun _ => rfl, fun _ => rfl, fun _ => rfl, fun k => ?_, rfl⟩
  by_cases hk : k = a
  · subst hk
    exact (congrArg Context.calm (Assoc.get_put_self _ _ _ _)).trans (h _)
  · exact congrArg Context.calm (Assoc.get_put_of_ne _ _ _ hk)

theorem discard (s : State) (a b n : Nat) : Calm s (s.discard a b n) := by
  unfold State.discard
  split
  · exact refl s
  · refine trans (modCtx s _ (f := fun c => { c with dtok := BitVec.ofNat 32 (min (c.dtok.toNat + n) (2 ^ 32 - 1)) }) (fun _ => rfl)) (count _ _ _)

theorem retire (s : State) (a b k : Nat) : Calm s (s.retire a b k) := by
  have hdead : ∀ (dead : Nat) (m : Assoc Port), Calm s { (if dead = 0 then s else s.discard a b dead) with ports := m } := by
    intro dead m
    split
    · exact ports s m
    · exact (discard s a b dead).trans (ports _ m)
  unfold State.retire
  split
  · exact refl s
  · exact hdead _ _

/-! ### What stays -/

variable (h : Calm s t)
include h

theorem cur : t.cur = s.cur := by rw [← h.rest]
theorem ir : t.ir = s.ir := by rw [← h.rest]
theorem now : t.now = s.now := by rw [← h.rest]
theorem teams : t.teams = s.teams := by rw [← h.rest]
theorem grids : t.grids = s.grids := by rw [← h.rest]
theorem mem : t.mem = s.mem := by rw [← h.rest]
theorem cores : t.cores = s.cores := by rw [← h.rest]
theorem parts : t.parts = s.parts := by rw [← h.rest]
theorem fresh : t.fresh = s.fresh := by rw [← h.rest]
theorem reqs : t.reqs = s.reqs := by rw [← h.rest]

theorem ctl (u : Agent) : (t.ctl u).map Ctl.calm = (s.ctl u).map Ctl.calm := by
  cases u with
  | ex tm tid =>
    have := congrArg (Option.map ExThread.ctl) (h.exs (exKey tm tid))
    simp only [Option.map_map] at this
    simp only [State.ctl, Option.map_map]
    exact this
  | ap tm sp =>
    have := congrArg (Option.map ApThread.ctl) (h.aps (stripKey tm sp))
    simp only [Option.map_map] at this
    simp only [State.ctl, Option.map_map]
    exact this
  | qe n =>
    have := congrArg (Option.map Engine.ctl) (h.engines n)
    simp only [Option.map_map] at this
    simp only [State.ctl, Option.map_map]
    exact this

theorem sameUnit : SameUnit s t := by
  refine ⟨h.cur, h.ir, fun u => ?_⟩
  have := congrArg Option.isSome (h.ctl u)
  simpa only [Option.isSome_map] using this

theorem ctl_some {c : Ctl} (hc : s.ctl u = some c) : ∃ d, t.ctl u = some d ∧ d.calm = c.calm := by
  have := h.ctl u
  rw [hc] at this
  obtain ⟨d, hd, e⟩ := Option.map_eq_some_iff.1 this
  exact ⟨d, hd, e⟩

theorem pcAt (u : Agent) : t.pcAt u = s.pcAt u := by
  have := congrArg (fun c : Option Ctl => c.elim 0 (·.pc)) (h.ctl u)
  unfold State.pcAt
  cases h1 : t.ctl u <;> cases h2 : s.ctl u <;> rw [h1, h2] at this <;> exact this

theorem aps_find {x : ApThread} (hx : s.aps.find (stripKey tm sp) = some x) :
    ∃ y, t.aps.find (stripKey tm sp) = some y ∧ y.calm = x.calm := by
  have := h.aps (stripKey tm sp)
  rw [hx] at this
  obtain ⟨y, hy, e⟩ := Option.map_eq_some_iff.1 this
  exact ⟨y, hy, e⟩

end Calm

/-! ### The parts of the reading that stay calm -/

theorem modCtl_calm {f : Ctl → Ctl} (hf : ∀ c, (f c).calm = c.calm) : Keeps Calm (modCtl f) :=
  Keeps.bind Calm.frames (Keeps.unit Calm.frames) (fun u => Keeps.modify (fun s => Calm.modCtl s u hf))

theorem popE_calm (port n : Nat) (d : Bool) : Keeps Calm (popE port n d) := by
  have hf := Calm.frames
  unfold Machine.popE
  repeat' first
    | with_reducible exact Keeps.pure hf _
    | with_reducible exact Keeps.get hf
    | with_reducible exact Keeps.unit hf
    | with_reducible exact Keeps.ctl hf
    | with_reducible exact Keeps.stopTrap _
    | with_reducible exact Keeps.throw _
    | with_reducible exact Keeps.waitUnless hf _ _
    | with_reducible exact modCtl_calm (fun _ => rfl)
    | with_reducible exact Keeps.modify (fun s => Calm.modEx s _ _ (fun _ => rfl))
    | with_reducible exact Keeps.modify (fun s => Calm.discard s _ _ _)
    | with_reducible exact Keeps.modify (fun s => (Calm.ports s _).trans (Calm.retire _ _ _ _))
    | with_reducible refine Keeps.bind hf ?_ (fun _ => ?_)
    | split
    | dsimp only

theorem popA_calm (port : Nat) : Keeps Calm (popA port) := by
  have hf := Calm.frames
  have he := framesEq
  refine Keeps.of_from (fun s => ?_)
  unfold Machine.popA
  refine From.get_bind ?_
  refine From.read_bind (Keeps.unit he) (fun u => ?_)
  cases u with
  | ap tm sp =>
    dsimp only
    split
    · exact From.stopTrap _ _
    · split
      · exact From.pure hf _ _
      · refine From.read_bind (Keeps.waitUnless he _ _) (fun _ => ?_)
        exact From.bind hf (From.set ((Calm.ports s _).trans (Calm.retire _ _ _ _))) (fun _ => Keeps.pure hf _)
  | _ => exact From.throw _ _

theorem popAll_calm (ps : List (Nat × Nat)) : Keeps Calm (popAll ps) := by
  have hf := Calm.frames
  induction ps with
  | nil => exact Keeps.pure hf _
  | cons q ps ih =>
    unfold Machine.popAll
    refine Keeps.bind hf ?_ (fun _ => Keeps.bind hf ih (fun _ => Keeps.pure hf _))
    refine Keeps.bind hf (Keeps.unit hf) (fun u => ?_)
    cases u with
    | ex tm tid => exact Keeps.bind hf (popE_calm _ _ _) (fun _ => Keeps.pure hf _)
    | ap tm sp => exact popA_calm _
    | qe n => exact popA_calm _

theorem dropMarks_calm (o : Ops) (sh : Shape) : Keeps Calm (dropMarks o sh) := by
  have hf := Calm.frames
  unfold Machine.dropMarks
  refine Keeps.bind hf (Keeps.unit hf) (fun u => ?_)
  repeat' first
    | with_reducible exact Keeps.pure hf _
    | with_reducible exact Keeps.modify (fun s => Calm.modStrip s _ _ _)
    | split
    | dsimp only

theorem fetch_calm (sh : Shape) (lk : LitKind) : Keeps Calm (fetch sh lk) := by
  have hf := Calm.frames
  unfold Machine.fetch
  repeat' first
    | with_reducible exact Keeps.pure hf _
    | with_reducible refine Keeps.bind hf (Keeps.ops hf) (fun _ => ?_)
    | with_reducible refine Keeps.bind hf (Keeps.checkPorts hf _) (fun _ => ?_)
    | with_reducible refine Keeps.bind hf (Keeps.awaitRegs hf _) (fun _ => ?_)
    | with_reducible refine Keeps.bind hf (Keeps.awaitRows hf _) (fun _ => ?_)
    | with_reducible refine Keeps.bind hf (popAll_calm _) (fun _ => ?_)
    | with_reducible refine Keeps.bind hf (Keeps.readField1 hf _ _ _ _) (fun _ => ?_)
    | with_reducible refine Keeps.bind hf (dropMarks_calm _ _) (fun _ => ?_)
    | with_reducible refine Keeps.bind hf (Keeps.unit hf) (fun _ => ?_)
    | with_reducible refine Keeps.bind hf (Keeps.pure hf _) (fun _ => ?_)
    | split
    | dsimp only

theorem Delivers.calm {sh : Shape} {lk : LitKind} {v : Opnds} (h : Delivers s u sh lk v t) : Calm (s.past u) t := fetch_calm sh lk _ _ _ h

/-! ### Checks of an access -/

theorem spots_calm (w : Want) (v : Opnds) (ls : List Nat) (vec data place : Bool) : Keeps Calm (spots w v ls vec data place) := by
  have hf := Calm.frames
  unfold Machine.spots
  refine Keeps.bind hf (Keeps.unit hf) (fun _ => Keeps.bind hf (Keeps.get hf) (fun _ => Keeps.bind hf (Keeps.ops hf) (fun _ => ?_)))
  exact Keeps.bind hf (Keeps.orTrap hf _) (fun _ => Keeps.bind hf (Keeps.orTrap hf _) (fun _ =>
    Keeps.bind hf (Keeps.trapIf hf _ _ _) (fun _ => Keeps.orTrap hf _)))

theorem ownEngine_calm (tm core : Nat) : Keeps Calm (ownEngine tm core) := by
  have hf := Calm.frames
  exact Keeps.bind hf (Keeps.get hf) (fun _ => Keeps.bind hf (Keeps.waitUnless hf _ _) (fun _ => Keeps.trapIf hf _ _ _))

theorem awaitQueue_calm (core : Nat) : Keeps Calm (awaitQueue core) := by
  have hf := Calm.frames
  exact Keeps.bind hf (Keeps.get hf) (fun _ => Keeps.bind hf (Keeps.ctl hf) (fun _ => Keeps.bind hf (Keeps.waitUnless hf _ _) (fun _ =>
    modCtl_calm (fun _ => rfl))))

theorem accesses_calm (w : Want) (v : Opnds) (ls : List Nat) (vec data place : Bool) : Keeps Calm (accesses w v ls vec data place) := by
  have hf := Calm.frames
  unfold Machine.accesses
  repeat' first
    | with_reducible exact Keeps.pure hf _
    | with_reducible refine Keeps.bind hf (Keeps.unit hf) (fun _ => ?_)
    | with_reducible refine Keeps.bind hf (Keeps.get hf) (fun _ => ?_)
    | with_reducible refine Keeps.bind hf (Keeps.orTrap hf _) (fun _ => ?_)
    | with_reducible refine Keeps.bind hf (spots_calm _ _ _ _ _ _) (fun _ => ?_)
    | with_reducible refine Keeps.bind hf (ownEngine_calm _ _) (fun _ => ?_)
    | with_reducible refine Keeps.bind hf (awaitQueue_calm _) (fun _ => ?_)
    | with_reducible refine Keeps.bind hf (Keeps.pure hf _) (fun _ => ?_)
    | split

/-- The instruction's own address, in every state that the reading leaves. -/
theorem M.here_calm {sh : Shape} (he : Executes s u sh) (hpc : s.pcAt u < 2 ^ 64) (h : Calm (s.past u) t) :
    here t = .ok (s.pcAt u, t) := by
  obtain ⟨c, hc⟩ := Option.isSome_iff_exists.1 he.isSome
  have hctl : (s.past u).ctl u = some (c.past s.ir s.now) := by rw [State.ctl_past, hc]; rfl
  obtain ⟨d, hd, hdc⟩ := h.ctl_some hctl
  have hdpc : d.pc = (c.past s.ir s.now).pc := by
    have h := congrArg (fun x : Ctl => x.pc) hdc
    exact h
  have hir : t.ir = s.ir := h.ir.trans (State.past_ir s u)
  rw [State.pcAt_eq hc] at hpc ⊢
  have hb := form_bytes_le s.ir.form
  simp only [here, M.bind_run, M.ctl_run (h.cur.trans he.past_cur) hd, M.ops_run, M.pure_run, hir, hdpc, Ctl.past]
  congr 2
  omega

end Sys2Proof.Machine
end

section
/-! SUPPORT. Requests of an execute thread to the stores of cores (R165, R228-R230, R298): made, performed at once, or sent. -/

namespace Sys2Proof.Machine

variable {s t t1 t2 e : State} {u : Agent} {tm tid l : Nat} {a : Acc} {r : Req} {h : Handle} {ew : Bool} {w : Nat}

/-- The requests of the accesses, under the instruction's address. -/
theorem M.reqs_run {rs : List (Nat × Acc)} {pc : Nat} (vec : Bool) (kind : Nat → ReqKind) (hcur : s.cur = some u) (hh : here s = .ok (pc, s)) :
    reqs rs vec kind s = .ok (rs.map (fun x => (x.1, s.reqOf u x.2 (kind x.1) pc (recLane vec x.1) .none)), s) := by
  simp only [reqs, M.bind_run, M.get_run, M.unit_run hcur, hh, M.pure_run]

theorem M.awaitOrder_run (h : s.inOrder s.fresh r = true) : awaitOrder r s = .ok ((), s) := by
  simp only [awaitOrder, M.bind_run, M.get_run, h, M.waitUnless_true, M.pure_run]

/-- A load of the thread's own store, or of any store for a port, is performed at once, after its buffered stores. -/
theorem doOwn_load (hcur : s.cur = some u) (hk : r.kind = .load) (ho : s.inOrder s.fresh r = true) :
    doOwn r s = .ok (valOf (s.forward s.fresh r (s.readStore r.ia r.size)), s) := by
  have hw : r.writes = false := by rw [Req.writes, hk]
  have hc : s.atCore r = (s.readStore r.ia r.size, s) := by rw [State.atCore, hk]
  simp only [doOwn, doOwnN, M.bind_run, M.unit_run hcur, hw, M.awaitOrder_run ho, M.get_run, hc, M.set_run, M.pure_run,
    Bool.false_eq_true, if_false]

theorem M.freshId_run (s : State) : freshId s = .ok (s.fresh, { s with fresh := s.fresh + 1 }) := rfl

/-- What a value loaded through a handle gives an execute thread's destination. -/
def exLoaded (h : Handle) (ew : Bool) (w : Nat) (r : Req) (x : Val) : Lanes := fun _ => loaded h ew r.size (if w = 2 then 64 else 32) x

theorem exValue_own {x : Val} {t' : State} (hcur : s.cur = some (.ex tm tid)) (hown : s.ownStore r = true ∨ (portOf s.ir.d).isSome = true)
    (hv : doOwn r s = .ok (x, e)) (hir : e.ir = s.ir) (hw : Writes e s.ir.d w (exLoaded h ew w r x) t') :
    exValue h ew w r s = .ok ((), t') := by
  rw [← hir] at hw
  simp only [exValue, M.bind_run, M.ops_run, M.get_run, M.unit_run hcur, if_pos hown, hv, writeD]
  exact hw

/-- The registers of a destination, as its write allocates them before the value is there. -/
def claimed (g : Fin 96) (w : Nat) : List (Nat × W32) := if w = 2 then [(g.val, (0 : W32)), (g.val + 1, 0)] else [(g.val, 0)]

/-- The state with a request on its way to the registers that were claimed for it. -/
def State.sentFor (s : State) (tm tid : Nat) (r : Req) (ids : List Nat) : State :=
  ({ s with fresh := s.fresh + 1 } : State).inject s.fresh { r with landing := .sreg tm (tid / 16) (tid % 16) (ids.getD 0 0) ids[1]? }

theorem exValue_peer {g : Fin 96} {m : Bool} {ids : List Nat} (hcur : s.cur = some (.ex tm tid)) (hown : s.ownStore r = false)
    (hd : s.ir.d = .reg (.g g) m) (hroom : s.replyRoom (.ex tm tid) (if r.once then 1 else 0) = true)
    (hw : writeRegs tm tid (claimed g w) false true s = .ok (ids, e)) :
    exValue h ew w r s = .ok ((), e.sentFor tm tid r ids) := by
  have hn : ¬ (s.ownStore r = true ∨ (portOf s.ir.d).isSome = true) := by
    rw [hown, hd]
    exact fun h => h.elim Bool.false_ne_true Bool.false_ne_true
  have hroom' : awaitReplies (if r.once then 1 else 0) s = .ok ((), s) := by
    simp only [awaitReplies, M.bind_run, M.get_run, M.unit_run hcur, hroom, M.waitUnless_true, M.pure_run]
  simp only [exValue, M.bind_run, M.ops_run, M.get_run, M.unit_run hcur, if_neg hn]
  rw [hd]
  dsimp only
  unfold claimed at hw
  simp only [M.bind_run, hroom', hw, M.freshId_run, M.modify_run, State.sentFor]

theorem sentFor_sameUnit (s : State) (tm tid : Nat) (r : Req) (ids : List Nat) : SameUnit s (s.sentFor tm tid r ids) :=
  ⟨rfl, rfl, fun v => by cases v <;> rfl⟩

/-! ### Loads -/

/-- What a load asks of its handle. -/
def loadWant (hidx size : Nat) (spaces kinds : List Nat) : Want := { hidx, spaces, kinds, size, align := size, need := .rd }

/-- The fields of a load. -/
def loadShape (ew : Bool) (w : Nat) : Shape := { d := w, a := 0, b := 1, c := if ew then 1 else 0 }

/-- The body of an execute thread's load. -/
def exLoadBody (h : Handle) (ew : Bool) (w : Nat) (d : Field) (want : Want) : M Unit := do
  (if ew then checkPairs h [d] else pure ())
  let v ← fetch (loadShape ew w) .offset
  let rs ← reqs (← accesses want v [0] false false ew) false (fun _ => .load)
  match rs with
  | (_, r) :: _ => exValue h ew w r
  | [] => pure ()

/-- The loads with their size, the spaces of either side and their kinds. -/
def ldsTable : List (Instr × Option Nat × List Nat × List Nat × List Nat) :=
  [(.ldsW, some 4, [1], [1], kPlain), (.ldsWLong, some 4, [1], [1], kPlain), (.ldsD, some 8, [1], [1], kPlain),
    (.ldsDLong, some 8, [1], [1], kPlain), (.lds, none, [1, 2, 3], [0, 1, 2, 4], kRead)]

theorem exec_load : ∀ q ∈ ldsTable, ∀ s, exec q.1 s = meaning (ldsOp q.1 q.2.1 q.2.2.1 q.2.2.2.1 q.2.2.2.2) s := by
  simp only [ldsTable, List.forall_mem_cons, List.not_mem_nil, false_implies, implies_true, and_true]
  and_intros <;> exact fun _ => rfl

/-- The size of a load, and the registers it takes. -/
def loadSize (size? : Option Nat) (h : Handle) : Nat := size?.getD (2 ^ Hnd.ew h)
def loadWidth (size? : Option Nat) (h : Handle) : Nat := if loadSize size? h = 8 then 2 else 1

theorem ldsOp_ex (i : Instr) (size? : Option Nat) (spE spA kinds : List Nat) (hcur : s.cur = some (.ex tm tid)) :
    meaning (ldsOp i size? spE spA kinds) s =
      meaning (insn i (loadShape size?.isNone (loadWidth size? (s.handleOf (.ex tm tid) s.ir.x8.toNat)))
        (exLoadBody (s.handleOf (.ex tm tid) s.ir.x8.toNat) size?.isNone (loadWidth size? (s.handleOf (.ex tm tid) s.ir.x8.toNat)) s.ir.d
          (loadWant s.ir.x8.toNat (loadSize size? (s.handleOf (.ex tm tid) s.ir.x8.toNat)) spE kinds))) s :=
  (meaning_read (M.ops_run s)).trans ((meaning_read (M.unit_run hcur)).trans (meaning_read (M.get_run s)))

theorem exLoadBody_run {d : Field} {want : Want} {v : Opnds} {x : State} (he : Executes s (.ex tm tid) (loadShape ew w))
    (hpc : s.pcAt (.ex tm tid) < 2 ^ 64)
    (hpair : ew = true → checkPairs h [d] (s.past (.ex tm tid)) = .ok ((), s.past (.ex tm tid)))
    (hd : Delivers s (.ex tm tid) (loadShape ew w) .offset v t) (ha : accesses want v [0] false false ew t = .ok ([(l, a)], t1))
    (hx : exValue h ew w (t1.reqOf (.ex tm tid) a .load (s.pcAt (.ex tm tid)) 255 .none) t1 = .ok ((), x)) :
    exLoadBody h ew w d want (s.past (.ex tm tid)) = .ok ((), x) := by
  have hcalm : Calm (s.past (.ex tm tid)) t1 := hd.calm.trans (accesses_calm _ _ _ _ _ _ _ _ _ ha)
  have hfetch : fetch (loadShape ew w) .offset (s.past (.ex tm tid)) = .ok (v, t) := hd
  have hp : (if ew then checkPairs h [d] else pure ()) (s.past (.ex tm tid)) = .ok ((), s.past (.ex tm tid)) := by
    split
    · next e => exact hpair e
    · rfl
  have hr := M.reqs_run (rs := [(l, a)]) false (fun _ => .load) (hcalm.cur.trans he.past_cur) (M.here_calm he hpc hcalm)
  simp only [exLoadBody, M.bind_run, hp, hfetch, ha, hr, List.map_cons]
  exact hx

end Sys2Proof.Machine
end

section open Sys2Proof Machine

/-- Settles O18: the body evaluated to its request, which is performed at once or sent. -/
theorem executeLoadsComplete : Obligations.ExecuteLoadsComplete := by
  unfold Obligations.ExecuteLoadsComplete
  intro q hq s t t1 tm tid v l a i u h ew size w sh r he hpc hpair hd ha
  have hrow : ∃ spA, (q.1, q.2.1, q.2.2.1, spA, q.2.2.2) ∈ ldsTable := by
    simp only [List.mem_cons, List.not_mem_nil, or_false] at hq
    rcases hq with rfl | rfl | rfl | rfl | rfl
    · exact ⟨_, .head _⟩
    · exact ⟨_, .tail _ (.head _)⟩
    · exact ⟨_, .tail _ (.tail _ (.head _))⟩
    · exact ⟨_, .tail _ (.tail _ (.tail _ (.head _)))⟩
    · exact ⟨_, .tail _ (.tail _ (.tail _ (.tail _ (.head _))))⟩
  obtain ⟨spA, hrow⟩ := hrow
  have hexec := (exec_load _ hrow s).trans (ldsOp_ex q.1 q.2.1 q.2.2.1 spA q.2.2.2 he.1)
  have hcalm : Calm (s.past u) t1 := hd.calm.trans (accesses_calm _ _ _ _ _ _ _ _ _ ha)
  have hcur : t1.cur = some u := hcalm.cur.trans he.past_cur
  have hir : t1.ir = s.ir := hcalm.ir.trans (State.past_ir s u)
  refine ⟨fun t' hown ho hw => ?_, fun g m ids t2 hown hdst hw => ?_⟩
  · have hv := doOwn_load (r := r) hcur rfl ho
    rw [← hir] at hown hw
    exact hexec.trans (insn_completes_of_sameUnit he (exLoadBody_run he hpc hpair hd ha (exValue_own hcur hown hv rfl hw))
      (hcalm.sameUnit.trans hw.sameUnit))
  · have hkeep := Keeps.writeRegs sameUnit_local tm tid _ _ _ _ _ _ hw
    rw [← hir] at hdst
    exact hexec.trans (insn_completes_of_sameUnit he (exLoadBody_run he hpc hpair hd ha (exValue_peer hcur hown hdst rfl hw))
      (hcalm.sameUnit.trans (SameUnit.trans hkeep (sentFor_sameUnit _ _ _ _ _))))

end

section
/-! SUPPORT. Stores of cores and store buffers keep the unit that runs. -/

namespace Sys2Proof.Machine

variable {s t : State} {u : Agent} {r : Req}

theorem sameUnit_of_units (hcur : t.cur = s.cur) (hir : t.ir = s.ir) (hex : t.exs = s.exs) (hap : t.aps = s.aps)
    (hqe : t.engines = s.engines) : SameUnit s t :=
  ⟨hcur, hir, fun u => by cases u <;> simp only [State.ctl, hex, hap, hqe]⟩

theorem flush_sameUnit (s : State) : SameUnit s s.flush := by
  unfold State.flush
  split
  · exact sameUnit_local.mgmt s _
  · exact SameUnit.refl s

theorem countError_sameUnit (s : State) (r : Req) : SameUnit s (s.countError r) := by
  unfold State.countError
  dsimp only
  split
  · exact ((sameUnit_local.mgmt s _).trans (sameUnit_local.mgmt _ _)).trans (flush_sameUnit _)
  · exact (sameUnit_local.mgmt s _).trans (flush_sameUnit _)

theorem writeStore_sameUnit (s : State) (k n v : Nat) (p : Bool) : SameUnit s (s.writeStore k n v p) :=
  sameUnit_of_units rfl rfl rfl rfl rfl

theorem atCore_sameUnit (s : State) (r : Req) : SameUnit s (s.atCore r).2 := by
  unfold State.atCore
  split
  · exact SameUnit.refl s
  · exact SameUnit.refl s
  · dsimp only
    split
    · exact (countError_sameUnit s r).trans (writeStore_sameUnit _ _ _ _ _)
    · exact writeStore_sameUnit _ _ _ _ _
  · dsimp only
    split
    · dsimp only
      split
      · exact SameUnit.refl s
      · exact countError_sameUnit s r
    · exact writeStore_sameUnit _ _ _ _ _
  · exact SameUnit.refl s
  · exact SameUnit.refl s

theorem unpush_sameUnit (s : State) (r : Req) : SameUnit s (s.unpush r) :=
  sameUnit_local.toFrames.foldl (fun s _ => sameUnit_local.modCtl s _ _) _ s

theorem inject_sameUnit (s : State) (n : Nat) (r : Req) : SameUnit s (s.inject n r) := sameUnit_of_units rfl rfl rfl rfl rfl

theorem drain_sameUnit {cls : Nat} (h : s.drain u cls = some t) : SameUnit s t := by
  have hout := fun n => sameUnit_local.modCtl s u (fun c => { c with sbuf := c.sbuf.del n })
  unfold State.drain at h
  split at h
  · cases h
  · next n r _ =>
    dsimp only at h
    split at h
    · split at h
      · cases h
        exact ((hout n).trans (sameUnit_local.modCtl _ u _)).trans (sameUnit_local.modPort _ _ _)
      · cases h
    · split at h
      · split at h
        · cases h
          exact ((atCore_sameUnit s r).trans (sameUnit_local.modCtl _ u _)).trans (unpush_sameUnit _ r)
        · cases h
      · split at h
        · cases h
          exact ((hout n).trans (sameUnit_local.modCtl _ u _)).trans (inject_sameUnit _ _ _)
        · cases h

theorem drainAll_sameUnit (s : State) (u : Agent) (cls n : Nat) : SameUnit s (s.drainAll u cls n) := by
  induction n generalizing s with
  | zero => exact SameUnit.refl s
  | succ n ih =>
    unfold State.drainAll
    split
    · next t h => exact (drain_sameUnit h).trans (ih t)
    · exact SameUnit.refl s

theorem doOwn_sameUnit (r : Req) : Keeps SameUnit (doOwn r) := by
  have hf := sameUnit_local.toFrames
  have hn : Keeps SameUnit (doOwnN r) := by
    unfold doOwnN
    refine Keeps.bind hf (Keeps.unit hf) (fun u => Keeps.bind hf ?_ (fun _ => ?_))
    · exact Keeps.ite (Keeps.modify (fun s => drainAll_sameUnit s u 0 _)) (Keeps.pure hf _)
    · refine Keeps.bind hf (Keeps.bind hf (Keeps.get hf) (fun _ => Keeps.waitUnless hf _ _)) (fun _ => ?_)
      refine Keeps.of_from (fun s => From.get_bind ?_)
      exact From.bind hf (From.set (atCore_sameUnit s r)) (fun _ => Keeps.pure hf _)
  exact Keeps.bind hf hn (fun _ => Keeps.pure hf _)

theorem Keeps.mapM {P : State → State → Prop} (h : Frames P) {α β : Type} {f : α → M β} (hf : ∀ a, Keeps P (f a)) (l : List α) :
    Keeps P (l.mapM f) := by
  induction l with
  | nil => rw [List.mapM_nil]; exact Keeps.pure h _
  | cons a l ih =>
    rw [List.mapM_cons]
    exact Keeps.bind h (hf a) (fun _ => Keeps.bind h ih (fun _ => Keeps.pure h _))

/-- The requests of an instruction performed one after the other in the own core's store. -/
def performOwn (rs : List (Nat × Req)) : M (List (Nat × Val)) := rs.mapM (fun r => (do pure (r.1, ← doOwn r.2) : M (Nat × Val)))

theorem performOwn_sameUnit (rs : List (Nat × Req)) : Keeps SameUnit (performOwn rs) := by
  have hf := sameUnit_local.toFrames
  exact Keeps.mapM hf (fun r => Keeps.bind hf (doOwn_sameUnit r.2) (fun _ => Keeps.pure hf _)) rs

end Sys2Proof.Machine
end

section
/-! SUPPORT. Instructions of an access thread that send, wait and complete (R161). -/

namespace Sys2Proof.Machine

variable {s t t' : State} {u : Agent} {tm sp : Nat} {x : ApThread} {i : Instr} {sh : Shape} {v : Opnds}

/-- The frame of an access thread's instruction that executes is its body past the pc. -/
theorem insn_run_ap {body : M Unit} (he : Executes s (.ap tm sp) sh) : insn i sh body s = (body >>= fun _ => retired) (s.past (.ap tm sp)) := by
  obtain ⟨hcur, y, hy, hp, hn⟩ := he
  simp only [insn, insnWith, M.bind_run, M.ops_run, M.unit_run hcur, M.apThread_run hcur hy, hp, M.trapIf_false, M.pure_run,
    M.advance_run hcur, ne_eq, hn, not_false_iff, true_or, if_true]

/-- A unit that waits retires nothing. -/
theorem M.retired_waiting {c : Ctl} {w : Wait} {n : Nat} (hcur : s.cur = some (.ap tm sp)) (hc : s.ctl (.ap tm sp) = some c)
    (hw : c.status = .waiting w n) : retired s = .ok ((), s) := by
  simp only [retired, M.bind_run, M.unit_run hcur, M.ctl_run hcur hc, hw, M.pure_run]

theorem Calm.apThread_run (h : Calm (s.past (.ap tm sp)) t) (hcur : s.cur = some (.ap tm sp)) (hx : s.aps.find (stripKey tm sp) = some x) :
    ∃ y, apThread t = .ok (y, t) ∧ { y with ctl := x.ctl } = x := by
  obtain ⟨c, hc⟩ := State.past_aps_find_ctl hx
  obtain ⟨y, hy, e⟩ := h.aps_find hc
  refine ⟨y, M.apThread_run (h.cur.trans ((State.past_cur s _).trans hcur)) hy, ?_⟩
  have := congrArg (fun z : ApThread => { z with ctl := x.ctl }) e
  exact this

/-- The lanes of an access thread's access. -/
def apLanes (s : State) (u : Agent) (x : ApThread) (vec : Bool) : List Nat :=
  if vec then laneList (apGuard x s.ir).bits else [s.lead u]

theorem M.accLanes_ap (vec : Bool) (h : Calm (s.past (.ap tm sp)) t) (hcur : s.cur = some (.ap tm sp))
    (hx : s.aps.find (stripKey tm sp) = some x) : accLanes vec t = .ok ((apLanes s (.ap tm sp) x vec, vec), t) := by
  have hct := h.cur.trans ((State.past_cur s _).trans hcur)
  obtain ⟨y, hy, e⟩ := h.apThread_run hcur hx
  have hguard : apGuard y t.ir = apGuard x s.ir := by
    rw [h.ir.trans (State.past_ir s _), ← e]
    rfl
  have hl : lanes t = .ok ((apGuard x s.ir).bits, t) := by
    simp only [lanes, M.bind_run, M.unit_run hct, hy, M.ops_run, M.pure_run, hguard]
  simp only [accLanes, M.bind_run, M.unit_run hct, hl]
  cases vec with
  | true => rfl
  | false =>
    have hlead : s.lead (.ap tm sp) = lowLane (apGuard x s.ir).bits := by rw [State.lead, hx]; rfl
    simp only [Bool.false_eq_true, if_false, M.pure_run, apLanes, hlead]

/-- A request of a blocked thread's lane put on its way. -/
def State.postLane (s : State) (tm sp : Nat) (r : Nat × Req) : State :=
  { s.inject s.fresh { r.2 with landing := .block tm sp r.1 } with fresh := s.fresh + 1 }

theorem postLanes_sameUnit (s : State) (tm sp : Nat) (rs : List (Nat × Req)) :
    SameUnit s (rs.foldl (fun s r => s.postLane tm sp r) s) :=
  sameUnit_local.toFrames.foldl (f := fun s r => s.postLane tm sp r) (fun _ _ => sameUnit_of_units rfl rfl rfl rfl rfl) rs s

/-- How a unit stands that begins to wait, or waits on. -/
def Status.waitedFor (st : Status) (w : Wait) (now : Nat) : Status :=
  match st with
  | .waiting w' t => if w' = w then .waiting w t else .waiting w now
  | _ => .waiting w now

theorem Status.waitedFor_waiting (st : Status) (w : Wait) (now : Nat) : ∃ n, st.waitedFor w now = .waiting w n := by
  cases st with
  | waiting w' t =>
    by_cases h : w' = w
    · exact ⟨t, if_pos h⟩
    · exact ⟨now, if_neg h⟩
  | _ => exact ⟨now, rfl⟩

/-- The control of a unit that waits. -/
def Ctl.waited (c : Ctl) (w : Wait) (s : State) : Ctl :=
  { c with lastIssue := some s.now, len := len0Of s.ir.form, able := false, status := c.status.waitedFor w s.now,
           mark := (match w with | .mqueue n => some n | _ => none) }

theorem State.setWait_eq (s : State) (u : Agent) (w : Wait) : s.setWait u w = s.modCtl u (fun c => c.waited w s) := rfl

theorem State.setWait_ctl (s : State) (u : Agent) (w : Wait) {c : Ctl} (h : s.ctl u = some c) :
    (s.setWait u w).ctl u = some (c.waited w s) := by
  rw [State.setWait_eq, State.ctl_modCtl, h]
  rfl

theorem sendBlock_waits (rs : List (Nat × Req)) (hcur : s.cur = some (.ap tm sp)) (hx : s.aps.find (stripKey tm sp) = some x) :
    retired (s.sendBlock tm sp i rs) = .ok ((), s.sendBlock tm sp i rs) := by
  have hsame := (postLanes_sameUnit s tm sp rs).trans (sameUnit_local.ap _ tm sp
    (fun x => { x with blk := some ⟨⟨i, s.ir⟩, rs.map (fun r => (r.1, none))⟩ }))
  obtain ⟨c, hc⟩ := Option.isSome_iff_exists.1 ((hsame.2.2 (.ap tm sp)).trans (by simp only [State.ctl, hx]; rfl))
  obtain ⟨n, hn⟩ := Status.waitedFor_waiting c.status .mem _
  exact M.retired_waiting (hsame.1.trans hcur) (State.setWait_ctl _ (.ap tm sp) .mem hc) hn

/-- The body of a blocking instruction, as it stands under its frame. -/
def blockBody (i : Instr) (sh : Shape) (start : M (List (Nat × Req))) (fin : (Nat → Val) → M Unit) (s0 : State) : M Unit := do
  match (← apThread).blk with
  | some b => do
    let _ ← fetch sh .offset
    let ls := b.lanes
    ls.forM (fun x => match x.2 with
      | some (.error t) => stopTrap t
      | _ => pure ())
    (match ← unit with
      | .ap tm sp => modify (fun s => s.modAp tm sp (fun x => { x with blk := none }))
      | _ => pure ())
    fin (fun l => match ls.find l with
      | some (some (.ok v)) => v
      | _ => Val.zero)
  | none => do
    let rs ← start
    awaitReplies (rs.filter (fun r => r.2.once)).length
    let o ← ops
    match ← unit with
    | .ap tm sp =>
      let s := rs.foldl (fun s (r : Nat × Req) =>
        { s.inject s.fresh { r.2 with landing := .block tm sp r.1 } with fresh := s.fresh + 1 }) s0
      set ((s.modAp tm sp (fun x => { x with blk := some ⟨⟨i, o⟩, rs.map (fun r => (r.1, none))⟩ })).setWait (.ap tm sp) .mem)
    | _ => pure ()

theorem blockOp_eq (start : M (List (Nat × Req))) (fin : (Nat → Val) → M Unit) (s : State) :
    meaning (blockOp i sh start fin) s = meaning (insn i sh (blockBody i sh start fin s)) s := meaning_read (M.get_run s)

/-- The limit of R400 allows the requests. -/
theorem M.awaitReplies_run {k : Nat} (hcur : s.cur = some u) (h : s.replyRoom u k = true) : awaitReplies k s = .ok ((), s) := by
  simp only [awaitReplies, M.bind_run, M.get_run, M.unit_run hcur, h, M.waitUnless_true, M.pure_run]

/-- The first part of a blocking instruction: what it started is sent, and the thread waits with nothing else done. -/
theorem blockOp_sends {start : M (List (Nat × Req))} {fin : (Nat → Val) → M Unit} {rs : List (Nat × Req)}
    (he : Executes s (.ap tm sp) sh) (hx : s.aps.find (stripKey tm sp) = some x) (hb : x.blk = none)
    (hs : start (s.past (.ap tm sp)) = .ok (rs, t)) (hc : Calm (s.past (.ap tm sp)) t)
    (hroom : t.replyRoom (.ap tm sp) (rs.filter (fun r => r.2.once)).length = true) :
    meaning (blockOp i sh start fin) s = .next (s.sendBlock tm sp i rs) := by
  have hct := hc.cur.trans he.past_cur
  obtain ⟨c, hpast⟩ := State.past_aps_find_ctl hx
  have hir : t.ir = s.ir := hc.ir.trans (State.past_ir s _)
  have hbody : blockBody i sh start fin s (s.past (.ap tm sp)) = .ok ((), s.sendBlock tm sp i rs) := by
    simp only [blockBody, M.bind_run, M.apThread_run he.past_cur hpast, hb, hs, M.awaitReplies_run hct hroom, M.ops_run, M.unit_run hct,
      M.set_run, hir]
    rfl
  refine (blockOp_eq start fin s).trans (meaning_of_ok he.1 ?_)
  rw [insn_run_ap he]
  exact (M.bind_ok hbody).trans (sendBlock_waits rs he.1 hx)

/-- What the lanes of a blocked thread have been answered. -/
def Block.answers (b : Block) : Nat → Val := fun l => match b.lanes.find l with
  | some (some (.ok v)) => v
  | _ => Val.zero

theorem forM_no_errors {ls : Assoc (Option (Except TrapInfo Val))} (h : ∀ y ∈ ls, ∃ z, y.2 = some (.ok z)) (s : State) :
    (List.forM ls (fun x => match x.2 with
      | some (.error t) => stopTrap t
      | _ => pure ()) : M PUnit) s = .ok ((), s) := by
  induction ls with
  | nil => rfl
  | cons y ls ih =>
    obtain ⟨z, hz⟩ := h y List.mem_cons_self
    refine (M.bind_ok (a := ⟨⟩) (t := s) ?_).trans (ih (fun q hq => h q (List.mem_cons_of_mem _ hq)))
    dsimp only
    rw [hz]
    rfl

/-- The last part of a blocking instruction, every lane answered: the thread goes on with the values. -/
theorem blockOp_ends {start : M (List (Nat × Req))} {fin : (Nat → Val) → M Unit} {b : Block} {e : State}
    (he : Executes s (.ap tm sp) sh) (hx : s.aps.find (stripKey tm sp) = some x) (hb : x.blk = some b)
    (hd : Delivers s (.ap tm sp) sh .offset v t) (hok : ∀ y ∈ b.lanes, ∃ z, y.2 = some (.ok z))
    (hf : fin b.answers (t.modAp tm sp (fun x => { x with blk := none })) = .ok ((), e))
    (hs : SameUnit (t.modAp tm sp (fun x => { x with blk := none })) e) :
    meaning (blockOp i sh start fin) s = .next (s.closed e (.ap tm sp) i sh) := by
  have hct := hd.calm.cur.trans he.past_cur
  obtain ⟨c, hpast⟩ := State.past_aps_find_ctl hx
  have hfetch : fetch sh .offset (s.past (.ap tm sp)) = .ok (v, t) := hd
  have hbody : blockBody i sh start fin s (s.past (.ap tm sp)) = .ok ((), e) := by
    simp only [blockBody, M.bind_run, M.apThread_run he.past_cur hpast, hb, hfetch, forM_no_errors hok, M.unit_run hct, M.modify_run]
    exact hf
  exact (blockOp_eq start fin s).trans (insn_completes_of_sameUnit he hbody
    (hd.sameUnit.trans (SameUnit.trans (sameUnit_local.ap t tm sp (fun x => { x with blk := none })) hs)))

end Sys2Proof.Machine
end

section
/-! SUPPORT. Loads and ATOMS of an access thread. -/

namespace Sys2Proof.Machine

variable {s t t1 t' : State} {tm sp : Nat} {x : ApThread} {i : Instr} {h : Handle} {ew : Bool} {w size : Nat} {v : Opnds}
  {rs : List (Nat × Acc)}

/-- A handle's space lies beyond the thread's own core. -/
def farSpace (h : Handle) : Bool := globalSpace (Hnd.space h) || Hnd.space h == 2

/-- The requests of an access thread's accesses. -/
def apReqs (s t : State) (u : Agent) (vec : Bool) (kind : Nat → ReqKind) (rs : List (Nat × Acc)) : List (Nat × Req) :=
  rs.map (fun y => (y.1, t.reqOf u y.2 (kind y.1) (s.pcAt u) (recLane vec y.1) .none))

/-- What an access thread's load sends. -/
def apLoadStart (ew : Bool) (w : Nat) (d : Field) (want : Want) : M (List (Nat × Req)) := do
  let v ← fetch (loadShape ew w) .offset
  let (ls, vec) ← accLanes (isVec d)
  reqs (← accesses want v ls vec false ew) vec (fun _ => .load)

/-- What it writes. -/
def apLoadEnd (h : Handle) (ew : Bool) (w size : Nat) (x : Nat → Val) : M Unit := writeD w (fun l => loaded h ew size 64 (x l))

/-- The value of a lane among those that were read. -/
def laneValue (xs : List (Nat × Val)) (l : Nat) : Val := (xs.find? (fun x => x.1 == l)).elim Val.zero (·.2)

/-- The body of a load from the own core's store. -/
def apLoadBody (h : Handle) (ew : Bool) (w size : Nat) (d : Field) (want : Want) : M Unit := do
  let v ← fetch (loadShape ew w) .offset
  let (ls, vec) ← accLanes (isVec d)
  let rs ← accesses want v ls vec false ew
  let xs ← performOwn (← reqs rs vec (fun _ => .load))
  apLoadEnd h ew w size (laneValue xs)

theorem ldsOp_ap (i : Instr) (size? : Option Nat) (spE spA kinds : List Nat) (hcur : s.cur = some (.ap tm sp)) :
    meaning (ldsOp i size? spE spA kinds) s =
      if farSpace (s.handleOf (.ap tm sp) s.ir.x8.toNat) = true then
        meaning (blockOp i (loadShape size?.isNone (loadWidth size? (s.handleOf (.ap tm sp) s.ir.x8.toNat)))
          (apLoadStart size?.isNone (loadWidth size? (s.handleOf (.ap tm sp) s.ir.x8.toNat)) s.ir.d
            (loadWant s.ir.x8.toNat (loadSize size? (s.handleOf (.ap tm sp) s.ir.x8.toNat)) spA kinds))
          (apLoadEnd (s.handleOf (.ap tm sp) s.ir.x8.toNat) size?.isNone (loadWidth size? (s.handleOf (.ap tm sp) s.ir.x8.toNat))
            (loadSize size? (s.handleOf (.ap tm sp) s.ir.x8.toNat)))) s
      else
        meaning (insn i (loadShape size?.isNone (loadWidth size? (s.handleOf (.ap tm sp) s.ir.x8.toNat)))
          (apLoadBody (s.handleOf (.ap tm sp) s.ir.x8.toNat) size?.isNone (loadWidth size? (s.handleOf (.ap tm sp) s.ir.x8.toNat))
            (loadSize size? (s.handleOf (.ap tm sp) s.ir.x8.toNat)) s.ir.d
            (loadWant s.ir.x8.toNat (loadSize size? (s.handleOf (.ap tm sp) s.ir.x8.toNat)) spA kinds))) s := by
  refine (meaning_read (M.ops_run s)).trans ((meaning_read (M.unit_run hcur)).trans ((meaning_read (M.get_run s)).trans ?_))
  dsimp only
  cases hf : farSpace (s.handleOf (.ap tm sp) s.ir.x8.toNat) with
  | true =>
    have : (!(globalSpace (Hnd.space (s.handleOf (.ap tm sp) s.ir.x8.toNat)) || Hnd.space (s.handleOf (.ap tm sp) s.ir.x8.toNat) == 2)) = false := by
      rw [← farSpace, hf]; rfl
    rw [this, if_neg Bool.false_ne_true, if_pos rfl]
    rfl
  | false =>
    have : (!(globalSpace (Hnd.space (s.handleOf (.ap tm sp) s.ir.x8.toNat)) || Hnd.space (s.handleOf (.ap tm sp) s.ir.x8.toNat) == 2)) = true := by
      rw [← farSpace, hf]; rfl
    rw [this, if_pos rfl, if_neg Bool.false_ne_true]
    rfl

section
variable {d : Field} {want : Want} (he : Executes s (.ap tm sp) (loadShape ew w)) (hpc : s.pcAt (.ap tm sp) < 2 ^ 64)
  (hx : s.aps.find (stripKey tm sp) = some x) (hd : Delivers s (.ap tm sp) (loadShape ew w) .offset v t)
  (ha : accesses want v (apLanes s (.ap tm sp) x (isVec d)) (isVec d) false ew t = .ok (rs, t1))
include he hpc hx hd ha

theorem apLoadStart_run : apLoadStart ew w d want (s.past (.ap tm sp)) =
    .ok (apReqs s t1 (.ap tm sp) (isVec d) (fun _ => .load) rs, t1) := by
  have hcalm : Calm (s.past (.ap tm sp)) t1 := hd.calm.trans (accesses_calm _ _ _ _ _ _ _ _ _ ha)
  have hfetch : fetch (loadShape ew w) .offset (s.past (.ap tm sp)) = .ok (v, t) := hd
  simp only [apLoadStart, M.bind_run, hfetch, M.accLanes_ap _ hd.calm he.1 hx, ha,
    M.reqs_run _ _ (hcalm.cur.trans he.past_cur) (M.here_calm he hpc hcalm), apReqs]

theorem apLoadBody_run {xs : List (Nat × Val)} {t2 : State}
    (hp : performOwn (apReqs s t1 (.ap tm sp) (isVec d) (fun _ => .load) rs) t1 = .ok (xs, t2))
    (hw : apLoadEnd h ew w size (laneValue xs) t2 = .ok ((), t')) :
    apLoadBody h ew w size d want (s.past (.ap tm sp)) = .ok ((), t') := by
  have hcalm : Calm (s.past (.ap tm sp)) t1 := hd.calm.trans (accesses_calm _ _ _ _ _ _ _ _ _ ha)
  have hfetch : fetch (loadShape ew w) .offset (s.past (.ap tm sp)) = .ok (v, t) := hd
  have hr := M.reqs_run (rs := rs) (isVec d) (fun _ => .load) (hcalm.cur.trans he.past_cur) (M.here_calm he hpc hcalm)
  unfold apReqs at hp
  simp only [apLoadBody, M.bind_run, hfetch, M.accLanes_ap _ hd.calm he.1 hx, ha, hr, hp, hw]

end

/-! ### ATOMS -/

/-- What ATOMS asks of its handle. -/
def atomWant (hidx size : Nat) (spaces : List Nat) : Want :=
  { hidx, spaces, kinds := kFlat, widths := [2, 3], size, align := size, need := .both }

def atomShape (w : Nat) : Shape := { d := w, a := w, b := 1, c := 1 }

/-- The data of CAS is bad where its comparand is. -/
def withComparand (v : Opnds) (c : Lanes) : Opnds := { v with a := fun l => { v.a l with poison := (v.a l).poison || (c l).poison } }

/-- The operation a lane of ATOMS asks for. -/
def atomKind (op size : Nat) (v : Opnds) (c : Lanes) (l : Nat) : ReqKind := .atomic op (8 * size) (v.a l).bits (c l).bits true

/-- What ATOMS sends. -/
def atomStart (o : Ops) (w size : Nat) (want : Want) : M (List (Nat × Req)) := do
  let c ← (if o.sel.toNat == 9 then readDest w else pure (fun _ => Val.zero))
  let v ← fetch (atomShape w) .offset
  let (ls, vec) ← accLanes (isVec o.d)
  let rs ← accesses want (withComparand v c) ls vec true true
  reqs rs vec (atomKind o.sel.toNat size v c)

/-- The body of ATOMS on the own core's store. -/
def apAtomBody (h : Handle) (o : Ops) (w size : Nat) (want : Want) : M Unit := do
  let xs ← performOwn (← atomStart o w size want)
  apLoadEnd h true w size (laneValue xs)

theorem atomsOp_ap (hcur : s.cur = some (.ap tm sp)) :
    exec .atoms s =
      if farSpace (s.handleOf (.ap tm sp) s.ir.x8.toNat) = true then
        meaning (blockOp .atoms (atomShape (ewFields (s.handleOf (.ap tm sp) s.ir.x8.toNat)))
          (atomStart s.ir (ewFields (s.handleOf (.ap tm sp) s.ir.x8.toNat)) (2 ^ Hnd.ew (s.handleOf (.ap tm sp) s.ir.x8.toNat))
            (atomWant s.ir.x8.toNat (2 ^ Hnd.ew (s.handleOf (.ap tm sp) s.ir.x8.toNat)) [0, 1, 2]))
          (apLoadEnd (s.handleOf (.ap tm sp) s.ir.x8.toNat) true (ewFields (s.handleOf (.ap tm sp) s.ir.x8.toNat))
            (2 ^ Hnd.ew (s.handleOf (.ap tm sp) s.ir.x8.toNat)))) s
      else
        meaning (insn .atoms (atomShape (ewFields (s.handleOf (.ap tm sp) s.ir.x8.toNat)))
          (apAtomBody (s.handleOf (.ap tm sp) s.ir.x8.toNat) s.ir (ewFields (s.handleOf (.ap tm sp) s.ir.x8.toNat))
            (2 ^ Hnd.ew (s.handleOf (.ap tm sp) s.ir.x8.toNat))
            (atomWant s.ir.x8.toNat (2 ^ Hnd.ew (s.handleOf (.ap tm sp) s.ir.x8.toNat)) [0, 1, 2]))) s := by
  refine (meaning_read (M.ops_run s)).trans ((meaning_read (M.unit_run hcur)).trans ((meaning_read (M.get_run s)).trans ?_))
  dsimp only
  have hiff : globalSpace (Hnd.space (s.handleOf (.ap tm sp) s.ir.x8.toNat)) = true ∨ Hnd.space (s.handleOf (.ap tm sp) s.ir.x8.toNat) = 2 ↔
      farSpace (s.handleOf (.ap tm sp) s.ir.x8.toNat) = true := by
    simp only [farSpace, Bool.or_eq_true, beq_iff_eq]
  by_cases hf : farSpace (s.handleOf (.ap tm sp) s.ir.x8.toNat) = true
  · rw [if_pos (hiff.2 hf), if_pos hf]
    rfl
  · rw [if_neg (fun e => hf (hiff.1 e)), if_neg hf]
    rfl

theorem atomStart_run {c : Lanes} {want : Want} (he : Executes s (.ap tm sp) (atomShape w)) (hpc : s.pcAt (.ap tm sp) < 2 ^ 64)
    (hx : s.aps.find (stripKey tm sp) = some x)
    (hc : if s.ir.sel.toNat = 9 then readDest w (s.past (.ap tm sp)) = .ok (c, s.past (.ap tm sp)) else c = fun _ => Val.zero)
    (hd : Delivers s (.ap tm sp) (atomShape w) .offset v t)
    (ha : accesses want (withComparand v c) (apLanes s (.ap tm sp) x (isVec s.ir.d)) (isVec s.ir.d) true true t = .ok (rs, t1)) :
    atomStart s.ir w size want (s.past (.ap tm sp)) =
      .ok (apReqs s t1 (.ap tm sp) (isVec s.ir.d) (atomKind s.ir.sel.toNat size v c) rs, t1) := by
  have hcalm : Calm (s.past (.ap tm sp)) t1 := hd.calm.trans (accesses_calm _ _ _ _ _ _ _ _ _ ha)
  have hfetch : fetch (atomShape w) .offset (s.past (.ap tm sp)) = .ok (v, t) := hd
  have hcmp : (if (s.ir.sel.toNat == 9) = true then readDest w else pure (fun _ => Val.zero)) (s.past (.ap tm sp)) =
      .ok (c, s.past (.ap tm sp)) := by
    by_cases h9 : s.ir.sel.toNat = 9
    · rw [if_pos (beq_iff_eq.2 h9)]
      rwa [if_pos h9] at hc
    · rw [if_neg (fun e => h9 (beq_iff_eq.1 e))]
      rw [if_neg h9] at hc
      rw [hc]
      rfl
  simp only [atomStart, M.bind_run, hcmp, hfetch, M.accLanes_ap _ hd.calm he.1 hx, ha,
    M.reqs_run _ _ (hcalm.cur.trans he.past_cur) (M.here_calm he hpc hcalm), apReqs]

end Sys2Proof.Machine
end

section open Sys2Proof Machine

/-- Settles O19: the accesses become requests, performed at once or sent, and a thread whose lanes are answered goes on. -/
theorem accessLoadsComplete : Obligations.AccessLoadsComplete := by
  unfold Obligations.AccessLoadsComplete
  refine ⟨?_, ?_, ?_⟩
  · intro q hq s t t1 tm sp x v rs i u h ew size w sh vec want far he hpc hx hd ha
    have hrow : ∃ spE, (q.1, q.2.1, spE, q.2.2.1, q.2.2.2) ∈ ldsTable := by
      simp only [List.mem_cons, List.not_mem_nil, or_false] at hq
      rcases hq with rfl | rfl | rfl | rfl | rfl
      · exact ⟨_, .head _⟩
      · exact ⟨_, .tail _ (.head _)⟩
      · exact ⟨_, .tail _ (.tail _ (.head _))⟩
      · exact ⟨_, .tail _ (.tail _ (.tail _ (.head _)))⟩
      · exact ⟨_, .tail _ (.tail _ (.tail _ (.tail _ (.head _))))⟩
    obtain ⟨spE, hrow⟩ := hrow
    have hexec := (exec_load _ hrow s).trans (ldsOp_ap q.1 q.2.1 spE q.2.2.1 q.2.2.2 he.1)
    have hcalm : Calm (s.past u) t1 := hd.calm.trans (accesses_calm _ _ _ _ _ _ _ _ _ ha)
    refine ⟨fun xs t2 t' hf hp hw => ?_, fun hf hb => ?_⟩
    · have hend : apLoadEnd h ew w size (laneValue xs) t2 = .ok ((), t') := by
        have hir : t2.ir = s.ir := ((performOwn_sameUnit _ _ _ _ hp).2.1.trans hcalm.ir).trans (State.past_ir s u)
        simp only [apLoadEnd, writeD, M.bind_run, M.ops_run, hir]
        exact hw
      refine hexec.trans ((if_neg (fun e => Bool.false_ne_true (hf.symm.trans e))).trans ?_)
      exact insn_completes_of_sameUnit he (apLoadBody_run he hpc hx hd ha hp hend)
        (hcalm.sameUnit.trans (SameUnit.trans (performOwn_sameUnit _ _ _ _ hp) hw.sameUnit))
    · refine hexec.trans ((if_pos hf).trans (blockOp_sends he hx hb (apLoadStart_run he hpc hx hd ha) hcalm ?_))
      have hnone : (apReqs s t1 u vec (fun _ => .load) rs).filter (fun r => r.2.once) = [] := by
        simp [apReqs, List.filter_map, Function.comp_def, Req.once, Req.writes, State.reqOf]
      exact congrArg (fun l : List (Nat × Req) => t1.replyRoom u l.length) hnone
  · intro s t t1 tm sp x c v rs u h size w sh vec far v' qs he hpc hx hb hc hd ha
    have hcalm : Calm (s.past u) t1 := hd.calm.trans (accesses_calm _ _ _ _ _ _ _ _ _ ha)
    have hexec := atomsOp_ap (s := s) he.1
    have hstart := atomStart_run (size := size) he hpc hx hc hd ha
    refine ⟨fun hf hroom => ?_, fun xs t2 t' hf hp hw => ?_⟩
    · refine hexec.trans ((if_pos hf).trans (blockOp_sends he hx hb hstart hcalm ?_))
      have hall : ((apReqs s t1 u vec (atomKind s.ir.sel.toNat size v c) rs).filter (fun r => r.2.once)).length = rs.length := by
        simp [apReqs, List.filter_map, Function.comp_def, Req.once, Req.writes, State.reqOf, atomKind]
      exact (congrArg (t1.replyRoom u) hall).trans hroom
    · have hir : t2.ir = s.ir := ((performOwn_sameUnit _ _ _ _ hp).2.1.trans hcalm.ir).trans (State.past_ir s u)
      have hend : apLoadEnd h true w size (laneValue xs) t2 = .ok ((), t') := by
        simp only [apLoadEnd, writeD, M.bind_run, M.ops_run, hir]
        exact hw
      refine hexec.trans ((if_neg (fun e => Bool.false_ne_true (hf.symm.trans e))).trans ?_)
      refine insn_completes_of_sameUnit he ?_ (hcalm.sameUnit.trans (SameUnit.trans (performOwn_sameUnit _ _ _ _ hp) hw.sameUnit))
      have hp' : performOwn (apReqs s t1 u vec (atomKind s.ir.sel.toNat size v c) rs) t1 = .ok (xs, t2) := hp
      exact (M.bind_ok hstart).trans ((M.bind_ok hp').trans hend)
  · intro q hq s t t' tm sp x b v i u h size w sh he hx hb hf hd hok hw
    have hir : t.ir = s.ir := hd.calm.ir.trans (State.past_ir s u)
    have hend : ∀ y : Nat → Val, Writes (t.modAp tm sp (fun x => { x with blk := none })) s.ir.d w (fun l => loaded h true size 64 (y l)) t' →
        apLoadEnd h true w size y (t.modAp tm sp (fun x => { x with blk := none })) = .ok ((), t') := by
      intro y hy
      simp only [apLoadEnd, writeD, M.bind_run, M.ops_run, State.modAp_ir, hir]
      exact hy
    simp only [List.mem_cons, List.not_mem_nil, or_false] at hq
    rcases hq with rfl | rfl
    · have hexec := (exec_load (.lds, none, [1, 2, 3], [0, 1, 2, 4], kRead) (.tail _ (.tail _ (.tail _ (.tail _ (.head _))))) s).trans
        (ldsOp_ap .lds none [1, 2, 3] [0, 1, 2, 4] kRead he.1)
      exact hexec.trans ((if_pos hf).trans (blockOp_ends he hx hb hd hok (hend _ hw) hw.sameUnit))
    · exact (atomsOp_ap he.1).trans ((if_pos hf).trans (blockOp_ends he hx hb hd hok (hend _ hw) hw.sameUnit))

end

section
/-! SUPPORT. Stores and reductions enter the store buffer (R163-R165, R171, R230). -/

namespace Sys2Proof.Machine

variable {s t t1 : State} {u : Agent} {i : Instr} {h : Handle} {size : Nat} {v : Opnds} {rs : List (Nat × Acc)}

/-- The state with a request in its unit's store buffer. -/
def State.withStore (s : State) (u : Agent) (r : Req) : State :=
  ({ s with fresh := s.fresh + 1 } : State).modCtl u (fun c => { c with sbuf := c.sbuf.put s.fresh r })

theorem withStore_sameUnit (s : State) (u : Agent) (r : Req) : SameUnit s (s.withStore u r) :=
  SameUnit.trans (sameUnit_of_units rfl rfl rfl rfl rfl) (sameUnit_local.modCtl _ u _)

theorem M.buffer_run (r : Req) (hcur : s.cur = some u) : buffer r s = .ok ((), s.withStore u r) := by
  have hcur' : ({ s with fresh := s.fresh + 1 } : State).cur = some u := hcur
  simp only [buffer, M.bind_run, M.freshId_run, M.modCtl_run _ hcur', State.withStore]

theorem M.buffers_run (qs : List (Nat × Req)) (hcur : s.cur = some u) :
    (List.forM qs (fun q => buffer q.2) : M PUnit) s = .ok ((), qs.foldl (fun t q => t.withStore u q.2) s) := by
  induction qs generalizing s with
  | nil => rfl
  | cons q qs ih =>
    exact (M.bind_ok (M.buffer_run q.2 hcur)).trans (ih ((withStore_sameUnit s u q.2).1.trans hcur))

theorem State.modCtl_mem' (s : State) (u : Agent) (f : Ctl → Ctl) : (s.modCtl u f).mem = s.mem := by cases u <;> rfl

theorem buffers_mem (qs : List (Nat × Req)) (s : State) (u : Agent) : (qs.foldl (fun t q => t.withStore u q.2) s).mem = s.mem := by
  induction qs generalizing s with
  | nil => rfl
  | cons q qs ih => exact (ih _).trans (State.modCtl_mem' _ u _)

theorem buffers_sameUnit (qs : List (Nat × Req)) (s : State) (u : Agent) : SameUnit s (qs.foldl (fun t q => t.withStore u q.2) s) :=
  sameUnit_local.toFrames.foldl (f := fun t q => t.withStore u q.2) (fun s q => withStore_sameUnit s u q.2) qs s

/-- What a store or reduction asks of its handle. -/
def storeWant (hidx size : Nat) (spaces kinds widths : List Nat) (need : Need) : Want :=
  { hidx, spaces, kinds, widths, size, align := size, need }

def storeShape (ew : Bool) (size : Nat) : Shape := { d := 0, a := if size = 8 then 2 else 1, b := 1, c := if ew then 1 else 0 }

/-- The body of a store or a reduction. -/
def storeBody (h : Handle) (o : Ops) (ew : Bool) (size : Nat) (want : Want) (kind : Nat → Nat → W64 → ReqKind) : M Unit := do
  (if ew then checkPairs h [o.a] else pure ())
  let v ← fetch (storeShape ew size) .offset
  let (ls, vec) ← accLanes (isVec o.a || isVec o.b)
  let rs ← accesses want v ls vec true ew
  let qs ← reqs rs vec (fun l => kind size o.sel.toNat (v.a l).bits)
  qs.forM (fun q => buffer q.2)

theorem stsOp_eq (i : Instr) (size? : Option Nat) (spE spA kinds widths : List Nat) (need : Need) (kind : Nat → Nat → W64 → ReqKind)
    (hcur : s.cur = some u) :
    meaning (stsOp i size? spE spA kinds widths need kind) s =
      meaning (insn i (storeShape size?.isNone (loadSize size? (s.handleOf u s.ir.x8.toNat)))
        (storeBody (s.handleOf u s.ir.x8.toNat) s.ir size?.isNone (loadSize size? (s.handleOf u s.ir.x8.toNat))
          (storeWant s.ir.x8.toNat (loadSize size? (s.handleOf u s.ir.x8.toNat)) (if sideOf u = .exec then spE else spA) kinds widths need)
          kind)) s :=
  (meaning_read (M.ops_run s)).trans ((meaning_read (M.unit_run hcur)).trans (meaning_read (M.get_run s)))

/-- Whether a store of a unit is a vector, and its lanes. -/
def storeVec (o : Ops) (u : Agent) : Bool :=
  match u with
  | .ap _ _ => isVec o.a || isVec o.b
  | _ => false

def storeLanes (s : State) (u : Agent) : List Nat :=
  match u with
  | .ap tm sp => if isVec s.ir.a || isVec s.ir.b
      then laneList ((s.aps.find (stripKey tm sp)).elim 0 (fun x => (apGuard x s.ir).bits)) else [s.lead u]
  | _ => [0]

theorem M.accLanes_store {sh : Shape} (he : Executes s u sh) (h : Calm (s.past u) t) :
    accLanes (isVec s.ir.a || isVec s.ir.b) t = .ok ((storeLanes s u, storeVec s.ir u), t) := by
  have hct := h.cur.trans he.past_cur
  cases u with
  | ap tm sp =>
    obtain ⟨hcur, x, hx, -, -⟩ := he
    have h1 := M.accLanes_ap (isVec s.ir.a || isVec s.ir.b) h hcur hx
    rw [h1, apLanes, storeLanes, hx]
    rfl
  | ex tm tid => simp only [accLanes, M.bind_run, M.unit_run hct, M.pure_run, storeLanes, storeVec]
  | qe n => simp only [accLanes, M.bind_run, M.unit_run hct, M.pure_run, storeLanes, storeVec]

/-- The requests of a store's accesses. -/
def storeReqs (s t : State) (u : Agent) (size : Nat) (v : Opnds) (kind : Nat → Nat → W64 → ReqKind) (rs : List (Nat × Acc)) : List (Nat × Req) :=
  rs.map (fun x => (x.1, t.reqOf u x.2 (kind size s.ir.sel.toNat (v.a x.1).bits) (s.pcAt u) (recLane (storeVec s.ir u) x.1) .none))

section
variable {ew : Bool} {want : Want} {kind : Nat → Nat → W64 → ReqKind} (he : Executes s u (storeShape ew size)) (hpc : s.pcAt u < 2 ^ 64)
  (hpair : ew = true → checkPairs h [s.ir.a] (s.past u) = .ok ((), s.past u)) (hd : Delivers s u (storeShape ew size) .offset v t)
  (ha : accesses want v (storeLanes s u) (storeVec s.ir u) true ew t = .ok (rs, t1))
include he hpc hpair hd ha

theorem storeBody_run : storeBody h s.ir ew size want kind (s.past u) =
    .ok ((), (storeReqs s t1 u size v kind rs).foldl (fun t q => t.withStore u q.2) t1) := by
  have hcalm : Calm (s.past u) t1 := hd.calm.trans (accesses_calm _ _ _ _ _ _ _ _ _ ha)
  have hfetch : fetch (storeShape ew size) .offset (s.past u) = .ok (v, t) := hd
  have hp : (if ew then checkPairs h [s.ir.a] else pure ()) (s.past u) = .ok ((), s.past u) := by
    split
    · next e => exact hpair e
    · rfl
  have hct := hcalm.cur.trans he.past_cur
  have hr := M.reqs_run (rs := rs) (storeVec s.ir u) (fun l => kind size s.ir.sel.toNat (v.a l).bits) hct (M.here_calm he hpc hcalm)
  simp only [storeBody, M.bind_run, hp, hfetch, M.accLanes_store he hd.calm, ha, hr]
  exact M.buffers_run _ hct

theorem store_completes {i : Instr} : meaning (insn i (storeShape ew size) (storeBody h s.ir ew size want kind)) s =
      .next (s.closed ((storeReqs s t1 u size v kind rs).foldl (fun t q => t.withStore u q.2) t1) u i (storeShape ew size)) ∧
    ((storeReqs s t1 u size v kind rs).foldl (fun t q => t.withStore u q.2) t1).mem = s.mem := by
  have hcalm : Calm (s.past u) t1 := hd.calm.trans (accesses_calm _ _ _ _ _ _ _ _ _ ha)
  exact ⟨insn_completes_of_sameUnit he (storeBody_run he hpc hpair hd ha) (hcalm.sameUnit.trans (buffers_sameUnit _ _ _)),
    (buffers_mem _ _ _).trans (hcalm.mem.trans (State.past_mem s u))⟩

end

/-- The stores and the reduction, with what each asks of its handle and its kind of request. -/
def stsTable : List ((Instr × Option Nat × List Nat × List Nat × List Nat × List Nat × Need) × (Nat → Nat → W64 → ReqKind)) :=
  [((.stsW, some 4, [1], [1], kPlain, [0, 1, 2, 3], .wr), storeKind), ((.stsWLong, some 4, [1], [1], kPlain, [0, 1, 2, 3], .wr), storeKind),
    ((.stsD, some 8, [1], [1], kPlain, [0, 1, 2, 3], .wr), storeKind), ((.stsDLong, some 8, [1], [1], kPlain, [0, 1, 2, 3], .wr), storeKind),
    ((.sts, none, [1, 2, 3], [0, 1, 2, 4], kTile, [0, 1, 2, 3], .wr), storeKind), ((.reds, none, [1, 2], [0, 1, 2], kFlat, [2, 3], .both), redKind)]

theorem exec_store : ∀ q ∈ stsTable, ∀ s, exec q.1.1 s =
    meaning (stsOp q.1.1 q.1.2.1 q.1.2.2.1 q.1.2.2.2.1 q.1.2.2.2.2.1 q.1.2.2.2.2.2.1 q.1.2.2.2.2.2.2 q.2) s := by
  simp only [stsTable, List.forall_mem_cons, List.not_mem_nil, false_implies, implies_true, and_true]
  and_intros <;> exact fun _ => rfl

/-- The request of a store's value, or of a reduction's. -/
def storedKind (i : Instr) (size op : Nat) (z : W64) : ReqKind :=
  if i = .reds then .atomic op (8 * size) z 0 false else .store (z.toNat % 2 ^ (8 * size)) false

theorem stsTable_kind : ∀ q ∈ stsTable, q.2 = storedKind q.1.1 := by
  simp only [stsTable, List.forall_mem_cons, List.not_mem_nil, false_implies, implies_true, and_true]
  and_intros <;> rfl

end Sys2Proof.Machine
end

section open Sys2Proof Machine

/-- Settles O20: the accesses become requests that enter the buffer one by one. -/
theorem storesEnterBuffer : Obligations.StoresEnterBuffer := by
  unfold Obligations.StoresEnterBuffer
  intro q hq s t t1 u v rs i h ew size sh vec ls kind done he hpc hside hpair hd ha
  have hrow : (q, storedKind q.1) ∈ stsTable := by
    have hk := stsTable_kind
    have hmem : ∃ k, (q, k) ∈ stsTable := by
      have hmap : q ∈ stsTable.map (·.1) := hq
      obtain ⟨p, hp, rfl⟩ := List.mem_map.1 hmap
      exact ⟨p.2, hp⟩
    obtain ⟨k, hm⟩ := hmem
    exact hk _ hm ▸ hm
  have hexec := (exec_store _ hrow s).trans (stsOp_eq q.1 q.2.1 q.2.2.1 q.2.2.2.1 q.2.2.2.2.1 q.2.2.2.2.2.1 q.2.2.2.2.2.2 _ he.1)
  have hdone : done = (storeReqs s t1 u size v (storedKind q.1) rs).foldl (fun t q => t.withStore u q.2) t1 :=
    (List.foldl_map (f := fun x : Nat × Acc => (x.1, t1.reqOf u x.2 (storedKind q.1 size s.ir.sel.toNat (v.a x.1).bits) (s.pcAt u)
      (recLane (storeVec s.ir u) x.1) .none)) (g := fun t q => t.withStore u q.2) (l := rs) (init := t1)).symm
  have hcomplete := store_completes (i := q.1) (kind := storedKind q.1) he hpc hpair hd ha
  rw [hdone]
  exact ⟨hexec.trans hcomplete.1, hcomplete.2⟩

end

section
/-! SUPPORT. Patterns of binary formats: two finite patterns of one sign and value are the same, and the order of minimum and maximum. -/

namespace Sys2Proof.Machine

namespace Fmt

variable {f : Fmt}

theorem bits_lt_two_pow (hf : f.Ok) (v : Nat) : bits v (f.eb + f.mb - 1) f.mb < 2 ^ f.eb := by
  have hw : f.eb + f.mb - 1 + 1 - f.mb = f.eb := by have := hf.eb; omega
  rw [bits, hw]
  exact Nat.mod_lt _ (Nat.two_pow_pos _)

/-- A pattern is its sign and its two fields. -/
theorem eq_signBit_add_mod {v : Nat} (hv : v < 2 ^ f.width) : v = f.signBit (bit v (f.eb + f.mb)) + v % 2 ^ (f.eb + f.mb) := by
  have hdiv : v / 2 ^ (f.eb + f.mb) < 2 := by
    rw [Nat.div_lt_iff_lt_mul (Nat.two_pow_pos _), Nat.mul_comm, ← Nat.pow_succ]
    exact hv
  have h := Nat.div_add_mod v (2 ^ (f.eb + f.mb))
  unfold signBit bit
  by_cases h1 : v / 2 ^ (f.eb + f.mb) = 1
  · rw [h1] at h ⊢
    simp only [Nat.mod_succ, beq_self_eq_true, if_true]
    omega
  · have h0 : v / 2 ^ (f.eb + f.mb) = 0 := by
      generalize v / 2 ^ (f.eb + f.mb) = q at hdiv h1
      omega
    rw [h0] at h ⊢
    simp only [Nat.zero_mod, Nat.reduceBEq, Bool.false_eq_true, if_false]
    omega

theorem eq_of_fields (hf : f.Ok) {v v' : Nat} (hv : v < 2 ^ f.width) (hv' : v' < 2 ^ f.width)
    (hs : bit v (f.eb + f.mb) = bit v' (f.eb + f.mb)) (hE : bits v (f.eb + f.mb - 1) f.mb = bits v' (f.eb + f.mb - 1) f.mb)
    (hF : v % 2 ^ f.mb = v' % 2 ^ f.mb) : v = v' := by
  rw [eq_signBit_add_mod hv, eq_signBit_add_mod hv', mod_eq_fields hf, mod_eq_fields hf v', hs, hE, hF]

/-- What the fields of a finite pattern are. -/
theorem decode_fin (v : Nat) {n : Bool} {m : Nat} {e : ℤ} (h : f.decode v = .fin n m e) :
    n = bit v (f.eb + f.mb) ∧ (bits v (f.eb + f.mb - 1) f.mb = 0 ∧ m = v % 2 ^ f.mb ∧ e = f.emin - f.mb ∨
      1 ≤ bits v (f.eb + f.mb - 1) f.mb ∧ m = 2 ^ f.mb + v % 2 ^ f.mb ∧ e = (bits v (f.eb + f.mb - 1) f.mb : ℤ) - f.bias - f.mb) := by
  unfold decode at h
  dsimp only at h
  split at h
  · split at h <;> cases h
  · split at h
    · cases h
    · split at h
      · next h0 => cases h; exact ⟨rfl, .inl ⟨h0, rfl, rfl⟩⟩
      · next h0 => cases h; exact ⟨rfl, .inr ⟨Nat.one_le_iff_ne_zero.2 h0, rfl, rfl⟩⟩

/-- A significand with its exponent, as the patterns of a format have them. -/
def Canonical (f : Fmt) (m : Nat) (e : ℤ) : Prop := m < 2 ^ (f.mb + 1) ∧ f.emin - f.mb ≤ e ∧ (2 ^ f.mb ≤ m ∨ e = f.emin - f.mb)

theorem canonical_of_decode {v : Nat} {n : Bool} {m : Nat} {e : ℤ} (h : f.decode v = .fin n m e) : f.Canonical m e := by
  have hF : v % 2 ^ f.mb < 2 ^ f.mb := Nat.mod_lt _ (Nat.two_pow_pos _)
  have hp : 2 ^ (f.mb + 1) = 2 * 2 ^ f.mb := by rw [pow_succ, mul_comm]
  have hmin : f.emin = 1 - (f.bias : ℤ) := rfl
  obtain ⟨-, ⟨h0, rfl, rfl⟩ | ⟨h1, rfl, rfl⟩⟩ := decode_fin v h
  · exact ⟨by omega, le_rfl, .inr rfl⟩
  · exact ⟨by omega, by omega, .inl (Nat.le_add_right _ _)⟩

/-- Two canonical significands of one value have one exponent. -/
theorem Canonical.le_of_value_eq {m m' : Nat} {e e' : ℤ} (h : f.Canonical m e) (h' : f.Canonical m' e')
    (hv : (m : ℚ) * 2 ^ e = m' * 2 ^ e') : e ≤ e' := by
  by_contra hlt
  obtain ⟨-, he, hn⟩ := h
  obtain ⟨hm', he', -⟩ := h'
  have hm : 2 ^ f.mb ≤ m := hn.resolve_right (fun h0 => by omega)
  have hle : (2 : ℚ) ^ (e' + 1) ≤ 2 ^ e := zpow_le_zpow_right₀ one_le_two (by omega)
  have h1 : (2 : ℚ) ^ f.mb * 2 ^ (e' + 1) ≤ m * 2 ^ e := by
    have hm1 : (2 : ℚ) ^ f.mb ≤ m := by exact_mod_cast hm
    exact mul_le_mul hm1 hle (two_zpow_pos _).le (by positivity)
  have h2 : (m' : ℚ) * 2 ^ e' < 2 ^ f.mb * 2 ^ (e' + 1) := by
    have hm2 : (m' : ℚ) < 2 ^ f.mb * 2 := by rw [← pow_succ]; exact_mod_cast hm'
    rw [two_zpow_add, zpow_one]
    calc (m' : ℚ) * 2 ^ e' < 2 ^ f.mb * 2 * 2 ^ e' := mul_lt_mul_of_pos_right hm2 (two_zpow_pos _)
      _ = 2 ^ f.mb * (2 ^ e' * 2) := by ring
  exact absurd (h1.trans_eq hv) (not_le.2 h2)

theorem Canonical.unique {m m' : Nat} {e e' : ℤ} (h : f.Canonical m e) (h' : f.Canonical m' e')
    (hv : (m : ℚ) * 2 ^ e = m' * 2 ^ e') : m = m' ∧ e = e' := by
  have he := le_antisymm (h.le_of_value_eq h' hv) (h'.le_of_value_eq h hv.symm)
  subst he
  exact ⟨by exact_mod_cast mul_right_cancel₀ (two_zpow_pos e).ne' hv, rfl⟩

/-- Finite patterns of one sign and one value are one pattern. -/
theorem eq_of_decode_finite (hf : f.Ok) {v v' : Nat} (hv : v < 2 ^ f.width) (hv' : v' < 2 ^ f.width) (h : (f.decode v).finite = true)
    (h' : (f.decode v').finite = true) (hn : (f.decode v).neg = (f.decode v').neg) (hval : (f.decode v).value = (f.decode v').value) :
    v = v' := by
  obtain ⟨n, m, e, hd⟩ := FV.finite_iff.1 h
  obtain ⟨n', m', e', hd'⟩ := FV.finite_iff.1 h'
  rw [hd, hd'] at hn hval
  obtain rfl : n = n' := hn
  rw [FV.value_fin, FV.value_fin] at hval
  have hsign : signQ n ≠ 0 := by cases n <;> simp [signQ]
  obtain ⟨rfl, rfl⟩ := (canonical_of_decode hd).unique (canonical_of_decode hd') (mul_left_cancel₀ hsign hval)
  have hF : v % 2 ^ f.mb < 2 ^ f.mb := Nat.mod_lt _ (Nat.two_pow_pos _)
  have hF' : v' % 2 ^ f.mb < 2 ^ f.mb := Nat.mod_lt _ (Nat.two_pow_pos _)
  obtain ⟨hs, hc⟩ := decode_fin v hd
  obtain ⟨hs', hc'⟩ := decode_fin v' hd'
  refine eq_of_fields hf hv hv' (hs.symm.trans hs') ?_ ?_ <;>
  · rcases hc with ⟨a1, a2, a3⟩ | ⟨a1, a2, a3⟩ <;> rcases hc' with ⟨b1, b2, b3⟩ | ⟨b1, b2, b3⟩ <;> omega

theorem decode_inf {v : Nat} {n : Bool} (h : f.decode v = .inf n) : n = bit v (f.eb + f.mb) := by
  unfold decode at h
  dsimp only at h
  split at h
  · split at h <;> cases h
    rfl
  · split at h
    · cases h
    · split at h <;> cases h

/-- An infinite pattern is the infinity of its sign. -/
theorem eq_of_decode_inf (hf : f.Ok) {v : Nat} (hv : v < 2 ^ f.width) (h : (f.decode v).isInf = true) :
    v = f.signBit (f.decode v).neg + f.infBits := by
  obtain ⟨n, hn⟩ := FV.isInf_iff.1 h
  have hmod := ((decode_isInf_iff hf v).1 h).2
  have hs := decode_inf hn
  rw [hn]
  conv_lhs => rw [eq_signBit_add_mod hv, hmod, ← hs]
  rfl

theorem lt_width_of_lt {w v : Nat} (hw : f.width = w) (hv : v < 2 ^ w) : v < 2 ^ f.width := hw ▸ hv

end Fmt

/-! ### The order of values (R95, R96) -/

theorem FV.lt_iff_of_finite {a b : FV} (ha : a.finite = true) (hb : b.finite = true) : a.lt b = true ↔ a.value < b.value := by
  obtain ⟨n1, m1, e1, rfl⟩ := FV.finite_iff.1 ha
  obtain ⟨n2, m2, e2, rfl⟩ := FV.finite_iff.1 hb
  rw [FV.value_fin_eq_toInt n1 m1 (min_le_left e1 e2), FV.value_fin_eq_toInt n2 m2 (min_le_right e1 e2)]
  simp only [FV.lt, finLt, decide_eq_true_eq]
  rw [mul_lt_mul_iff_of_pos_right (two_zpow_pos _)]
  exact_mod_cast Iff.rfl

theorem FV.isZero_iff_value {a : FV} (ha : a.finite = true) : a.isZero = true ↔ a.value = 0 := by
  obtain ⟨n, m, e, rfl⟩ := FV.finite_iff.1 ha
  rw [FV.isZero_iff, FV.value_fin_eq_zero]
  constructor
  · rintro ⟨n', e', h⟩
    cases h
    rfl
  · rintro rfl
    exact ⟨n, e, rfl⟩

theorem below_iff_of_finite {a b : FV} (ha : a.finite = true) (hb : b.finite = true) :
    below a b = true ↔ a.value < b.value ∨ a.value = 0 ∧ b.value = 0 ∧ a.neg = true ∧ b.neg = false := by
  simp only [below, Bool.or_eq_true, Bool.and_eq_true, Bool.not_eq_true', FV.lt_iff_of_finite ha hb, FV.isZero_iff_value ha,
    FV.isZero_iff_value hb, and_assoc]

/-- Two finite values that are equal have one sign, or are zeros. -/
theorem FV.neg_eq_of_value_eq {a b : FV} (ha : a.finite = true) (hb : b.finite = true) (h : a.value = b.value) :
    a.neg = b.neg ∨ a.value = 0 := by
  obtain ⟨n1, m1, e1, rfl⟩ := FV.finite_iff.1 ha
  obtain ⟨n2, m2, e2, rfl⟩ := FV.finite_iff.1 hb
  by_cases h1 : m1 = 0
  · exact .inr (FV.value_fin_eq_zero.2 h1)
  · refine .inl ?_
    have h2 : m2 ≠ 0 := fun e => h1 (FV.value_fin_eq_zero.1 (h.trans (FV.value_fin_eq_zero.2 e)))
    have i1 := FV.value_fin_neg_iff (n := n1) (e := e1) h1
    have i2 := FV.value_fin_neg_iff (n := n2) (e := e2) h2
    rw [h] at i1
    exact Bool.eq_iff_iff.2 (i1.symm.trans i2)

/-! ### Minimum and maximum of patterns -/

namespace Fmt

variable {f : Fmt} {x y : Nat}

theorem minMax_of_nan_left (b : Bool) (h : (f.decode x).isNan = true) :
    (f.minMax b x y).bits = if (f.decode y).isNan then f.nanBits else y := by
  simp only [minMax, h, true_and, if_true]

theorem minMax_of_nan_right (b : Bool) (hx : (f.decode x).isNan = false) (hy : (f.decode y).isNan = true) : (f.minMax b x y).bits = x := by
  simp only [minMax, hx, hy, Bool.false_eq_true, false_and, if_false, if_true]

theorem minMax_of_numbers (b : Bool) (hx : (f.decode x).isNan = false) (hy : (f.decode y).isNan = false) :
    (f.minMax b x y).bits = if b then (if below (f.decode x) (f.decode y) then y else x)
      else (if below (f.decode y) (f.decode x) then y else x) := by
  simp only [minMax, hx, hy, Bool.false_eq_true, false_and, if_false]

section
variable (hf : f.Ok) (hx : x < 2 ^ f.width) (hy : y < 2 ^ f.width)
include hf hx hy

theorem min_of_finite (h1 : (f.decode x).finite = true) (h2 : (f.decode y).finite = true) :
    (f.minMax false x y).bits = if (f.decode x).value < (f.decode y).value ∨
      ((f.decode x).value = (f.decode y).value ∧ (f.decode x).neg = true) then x else y := by
  rw [minMax_of_numbers false (FV.isNan_of_finite h1) (FV.isNan_of_finite h2), if_neg Bool.false_ne_true]
  have hb := below_iff_of_finite h2 h1
  by_cases hbelow : below (f.decode y) (f.decode x) = true
  · rw [if_pos hbelow, if_neg]
    rcases hb.1 hbelow with h | ⟨h3, h4, h5, h6⟩
    · exact fun e => e.elim (fun e => absurd e (not_lt.2 h.le)) (fun e => absurd e.1.symm h.ne)
    · exact fun e => e.elim (fun e => by rw [h3, h4] at e; exact lt_irrefl _ e) (fun e => Bool.false_ne_true (h6.symm.trans e.2))
  · rw [if_neg hbelow]
    split
    · rfl
    · next hn =>
      have hle : (f.decode y).value ≥ (f.decode x).value := not_lt.1 (fun e => hbelow (hb.2 (.inl e)))
      have heq : (f.decode x).value = (f.decode y).value := hle.antisymm (not_lt.1 fun e => hn (.inl e))
      have hpos : (f.decode x).neg = false := Bool.eq_false_iff.2 (fun e => hn (.inr ⟨heq, e⟩))
      refine eq_of_decode_finite hf hx hy h1 h2 ?_ heq
      rcases FV.neg_eq_of_value_eq h1 h2 heq with h | h
      · exact h
      · rw [hpos]
        exact (Bool.eq_false_iff.2 (fun e => hbelow (hb.2 (.inr ⟨heq ▸ h, h, e, hpos⟩)))).symm

theorem max_of_finite (h1 : (f.decode x).finite = true) (h2 : (f.decode y).finite = true) :
    (f.minMax true x y).bits = if (f.decode y).value < (f.decode x).value ∨
      ((f.decode x).value = (f.decode y).value ∧ (f.decode y).neg = true) then x else y := by
  rw [minMax_of_numbers true (FV.isNan_of_finite h1) (FV.isNan_of_finite h2), if_pos rfl]
  have hb := below_iff_of_finite h1 h2
  by_cases hbelow : below (f.decode x) (f.decode y) = true
  · rw [if_pos hbelow, if_neg]
    rcases hb.1 hbelow with h | ⟨h3, h4, h5, h6⟩
    · exact fun e => e.elim (fun e => absurd e (not_lt.2 h.le)) (fun e => absurd e.1 h.ne)
    · exact fun e => e.elim (fun e => by rw [h3, h4] at e; exact lt_irrefl _ e) (fun e => Bool.false_ne_true (h6.symm.trans e.2))
  · rw [if_neg hbelow]
    split
    · rfl
    · next hn =>
      have hle : (f.decode y).value ≤ (f.decode x).value := not_lt.1 (fun e => hbelow (hb.2 (.inl e)))
      have heq : (f.decode x).value = (f.decode y).value := (hle.antisymm (not_lt.1 fun e => hn (.inl e))).symm
      have hpos : (f.decode y).neg = false := Bool.eq_false_iff.2 (fun e => hn (.inr ⟨heq, e⟩))
      refine eq_of_decode_finite hf hx hy h1 h2 ?_ heq
      rcases FV.neg_eq_of_value_eq h1 h2 heq with h | h
      · exact h
      · rw [hpos]
        exact Bool.eq_false_iff.2 (fun e => hbelow (hb.2 (.inr ⟨h, heq ▸ h, e, hpos⟩)))

/-- Two infinite patterns of one sign are one pattern. -/
theorem eq_of_infinite (h1 : (f.decode x).isInf = true) (h2 : (f.decode y).isInf = true) (h : (f.decode x).neg = (f.decode y).neg) : x = y := by
  rw [eq_of_decode_inf hf hx h1, eq_of_decode_inf hf hy h2, h]

theorem min_of_inf_left (h1 : (f.decode x).isInf = true) (h2 : (f.decode y).isNan = false) :
    (f.minMax false x y).bits = if (f.decode x).neg then x else y := by
  rw [minMax_of_numbers false (FV.isNan_of_isInf h1) h2, if_neg Bool.false_ne_true]
  obtain ⟨n, hn⟩ := FV.isInf_iff.1 h1
  have heq := eq_of_infinite hf hx hy h1
  rcases FV.not_nan_iff.1 h2 with ⟨k, hk⟩ | ⟨k, m, e, hk⟩
  · rw [hn, hk] at heq
    rw [hn, hk]
    cases n <;> cases k
    · exact heq rfl rfl
    · rfl
    · rfl
    · rfl
  · rw [hn, hk]
    cases n
    · simp [below, FV.lt, FV.isZero, FV.neg]
    · simp [below, FV.lt, FV.isZero, FV.neg]

theorem max_of_inf_left (h1 : (f.decode x).isInf = true) (h2 : (f.decode y).isNan = false) :
    (f.minMax true x y).bits = if (f.decode x).neg then y else x := by
  rw [minMax_of_numbers true (FV.isNan_of_isInf h1) h2, if_pos rfl]
  obtain ⟨n, hn⟩ := FV.isInf_iff.1 h1
  have heq := eq_of_infinite hf hx hy h1
  rcases FV.not_nan_iff.1 h2 with ⟨k, hk⟩ | ⟨k, m, e, hk⟩
  · rw [hn, hk] at heq
    rw [hn, hk]
    cases n <;> cases k
    · rfl
    · rfl
    · rfl
    · exact heq rfl rfl
  · rw [hn, hk]
    cases n
    · simp [below, FV.lt, FV.isZero, FV.neg]
    · simp [below, FV.lt, FV.isZero, FV.neg]

omit hf hx hy in
theorem min_of_inf_right (h1 : (f.decode x).finite = true) (h2 : (f.decode y).isInf = true) :
    (f.minMax false x y).bits = if (f.decode y).neg then y else x := by
  rw [minMax_of_numbers false (FV.isNan_of_finite h1) (FV.isNan_of_isInf h2), if_neg Bool.false_ne_true]
  obtain ⟨n, hn⟩ := FV.isInf_iff.1 h2
  obtain ⟨k, m, e, hk⟩ := FV.finite_iff.1 h1
  rw [hn, hk]
  cases n
  · rfl
  · rfl

omit hf hx hy in
theorem max_of_inf_right (h1 : (f.decode x).finite = true) (h2 : (f.decode y).isInf = true) :
    (f.minMax true x y).bits = if (f.decode y).neg then x else y := by
  rw [minMax_of_numbers true (FV.isNan_of_finite h1) (FV.isNan_of_isInf h2), if_pos rfl]
  obtain ⟨n, hn⟩ := FV.isInf_iff.1 h2
  obtain ⟨k, m, e, hk⟩ := FV.finite_iff.1 h1
  rw [hn, hk]
  cases n
  · simp [below, FV.lt, FV.isZero, FV.neg]
  · simp [below, FV.lt, FV.isZero, FV.neg]

end

end Fmt

end Sys2Proof.Machine
end

section
/-! SUPPORT. The atomic operations (R169) on bit vectors, and on patterns. -/

namespace Sys2Proof.Machine

/-- The format an atomic operation of a width works in. -/
def atomFmt (w : Nat) : Fmt := if w = 64 then binary64 else binary32

theorem atomFmt_ok (w : Nat) : (atomFmt w).Ok := by
  unfold atomFmt
  split <;> exact ⟨by decide, by decide⟩

theorem atomFmt_width {w : Nat} (h : w = 32 ∨ w = 64) : (atomFmt w).width = w := by
  rcases h with rfl | rfl <;> rfl

section
variable {w : Nat} (hw : 0 < w) (old v cmp : BitVec w)

theorem atomic_add : atomicNew 0 w old.toNat v.toNat cmp.toNat = (old + v).toNat := (BitVec.toNat_add old v).symm

include hw in
theorem atomic_smin : atomicNew 1 w old.toNat v.toNat cmp.toNat = (if v.slt old then v else old).toNat := by
  simp only [atomicNew, sext_toNat_eq_toInt hw, apply_ite BitVec.toNat, BitVec.slt, decide_eq_true_eq]

include hw in
theorem atomic_smax : atomicNew 2 w old.toNat v.toNat cmp.toNat = (if old.slt v then v else old).toNat := by
  simp only [atomicNew, sext_toNat_eq_toInt hw, apply_ite BitVec.toNat, BitVec.slt, decide_eq_true_eq]

theorem atomic_umin : atomicNew 3 w old.toNat v.toNat cmp.toNat = (if v < old then v else old).toNat := by
  simp only [atomicNew, apply_ite BitVec.toNat, BitVec.lt_def]
  split <;> omega

theorem atomic_umax : atomicNew 4 w old.toNat v.toNat cmp.toNat = (if old < v then v else old).toNat := by
  simp only [atomicNew, apply_ite BitVec.toNat, BitVec.lt_def]
  split <;> omega

theorem atomic_cas : atomicNew 9 w old.toNat v.toNat cmp.toNat = (if old = cmp then v else old).toNat := by
  simp only [atomicNew, apply_ite BitVec.toNat, BitVec.toNat_inj]

theorem atomic_inc : atomicNew 13 w old.toNat v.toNat cmp.toNat = (if v ≤ old then 0 else old + 1).toNat := by
  have hv := v.isLt
  simp only [atomicNew, apply_ite BitVec.toNat, BitVec.le_def]
  split
  · exact BitVec.toNat_zero.symm
  · next h =>
    have h1 : (1 : BitVec w).toNat = 1 := (BitVec.toNat_ofNat 1 w).trans (Nat.mod_eq_of_lt (by omega))
    rw [BitVec.toNat_add, h1, Nat.mod_eq_of_lt (by omega)]

theorem atomic_dec : atomicNew 14 w old.toNat v.toNat cmp.toNat = (if old = 0 ∨ v < old then v else old - 1).toNat := by
  have ho := old.isLt
  have h0 : old = 0 ↔ old.toNat = 0 := by rw [← BitVec.toNat_inj]; exact Iff.of_eq (congrArg (old.toNat = ·) BitVec.toNat_zero)
  simp only [atomicNew, apply_ite BitVec.toNat, BitVec.lt_def, h0]
  split
  · rfl
  · next h =>
    have h1 : (1 : BitVec w).toNat = 1 := (BitVec.toNat_ofNat 1 w).trans (Nat.mod_eq_of_lt (by omega))
    rw [BitVec.toNat_sub, h1, show 2 ^ w - 1 + old.toNat = (old.toNat - 1) + 2 ^ w by omega,
      Nat.add_mod_right, Nat.mod_eq_of_lt (by omega)]

theorem atomic_fadd (x y c : Nat) : atomicNew 10 w x y c = ((atomFmt w).addV 0 ((atomFmt w).decode x) ((atomFmt w).decode y)).bits := rfl
theorem atomic_fmin (x y c : Nat) : atomicNew 11 w x y c = ((atomFmt w).minMax false x y).bits := rfl
theorem atomic_fmax (x y c : Nat) : atomicNew 12 w x y c = ((atomFmt w).minMax true x y).bits := rfl

end

/-- A sum with an infinite first addend is that infinity's pattern, or the NaN of opposite infinities. -/
theorem addV_inf_left_bits {f : Fmt} (hf : f.Ok) {x y : Nat} (hx : x < 2 ^ f.width) (h1 : (f.decode x).isInf = true)
    (h2 : (f.decode y).isNan = false) :
    (f.addV 0 (f.decode x) (f.decode y)).bits = if (f.decode y).isInf && (f.decode y).neg != (f.decode x).neg then f.nanBits else x := by
  rw [Fmt.addV_of_isInf_left h1 h2, apply_ite FRes.bits]
  split
  · rfl
  · exact (Fmt.eq_of_decode_inf hf hx h1).symm

theorem addV_inf_right_bits {f : Fmt} (hf : f.Ok) {x y : Nat} (hy : y < 2 ^ f.width) (h1 : (f.decode x).finite = true)
    (h2 : (f.decode y).isInf = true) : (f.addV 0 (f.decode x) (f.decode y)).bits = y := by
  rw [Fmt.addV_of_isInf_right h1 h2]
  exact (Fmt.eq_of_decode_inf hf hy h2).symm

theorem addV_nan_bits {f : Fmt} {x y : Nat} (h : (f.decode x).isNan = true ∨ (f.decode y).isNan = true) :
    (f.addV 0 (f.decode x) (f.decode y)).bits = f.nanBits := by
  rw [Fmt.addV_of_isNan h]
  rfl

theorem addV_zero_bits {f : Fmt} (hf : f.Ok) {x y : Nat} (h1 : (f.decode x).finite = true) (h2 : (f.decode y).finite = true)
    (h : (f.decode x).value + (f.decode y).value = 0) :
    (f.addV 0 (f.decode x) (f.decode y)).bits = f.signBit ((f.decode x).neg && (f.decode y).neg) := by
  rw [(Fmt.addV_of_finite hf 0 h1 h2).2 h]
  cases (f.decode x).neg <;> cases (f.decode y).neg <;> rfl

end Sys2Proof.Machine
end

section
/-! SUPPORT. ATOMS of an execute thread (R170, R229, R298). -/

namespace Sys2Proof.Machine

variable {s t t1 e : State} {tm tid l : Nat} {a : Acc} {v : Opnds} {c : Lanes} {h : Handle} {w size : Nat}

/-- The body of an execute thread's ATOMS. -/
def exAtomBody (h : Handle) (o : Ops) (w size : Nat) (want : Want) : M Unit := do
  checkPairs h [o.d, o.a]
  match ← atomStart o w size want with
  | (_, r) :: _ => exValue h true w r
  | [] => pure ()

theorem atomsOp_ex (hcur : s.cur = some (.ex tm tid)) : exec .atoms s =
    meaning (insn .atoms (atomShape (ewFields (s.handleOf (.ex tm tid) s.ir.x8.toNat)))
      (exAtomBody (s.handleOf (.ex tm tid) s.ir.x8.toNat) s.ir (ewFields (s.handleOf (.ex tm tid) s.ir.x8.toNat))
        (2 ^ Hnd.ew (s.handleOf (.ex tm tid) s.ir.x8.toNat))
        (atomWant s.ir.x8.toNat (2 ^ Hnd.ew (s.handleOf (.ex tm tid) s.ir.x8.toNat)) [1, 2]))) s :=
  (meaning_read (M.ops_run s)).trans ((meaning_read (M.unit_run hcur)).trans (meaning_read (M.get_run s)))

theorem atomStart_run_ex {want : Want} (he : Executes s (.ex tm tid) (atomShape w)) (hpc : s.pcAt (.ex tm tid) < 2 ^ 64)
    (hc : if s.ir.sel.toNat = 9 then readDest w (s.past (.ex tm tid)) = .ok (c, s.past (.ex tm tid)) else c = fun _ => Val.zero)
    (hd : Delivers s (.ex tm tid) (atomShape w) .offset v t)
    (ha : accesses want (withComparand v c) [0] false true true t = .ok ([(l, a)], t1)) :
    atomStart s.ir w size want (s.past (.ex tm tid)) =
      .ok ([(l, t1.reqOf (.ex tm tid) a (atomKind s.ir.sel.toNat size v c l) (s.pcAt (.ex tm tid)) 255 .none)], t1) := by
  have hcalm : Calm (s.past (.ex tm tid)) t1 := hd.calm.trans (accesses_calm _ _ _ _ _ _ _ _ _ ha)
  have hfetch : fetch (atomShape w) .offset (s.past (.ex tm tid)) = .ok (v, t) := hd
  have hcmp : (if (s.ir.sel.toNat == 9) = true then readDest w else pure (fun _ => Val.zero)) (s.past (.ex tm tid)) =
      .ok (c, s.past (.ex tm tid)) := by
    by_cases h9 : s.ir.sel.toNat = 9
    · rw [if_pos (beq_iff_eq.2 h9)]
      rwa [if_pos h9] at hc
    · rw [if_neg (fun e => h9 (beq_iff_eq.1 e))]
      rw [if_neg h9] at hc
      rw [hc]
      rfl
  have hlanes : accLanes (isVec s.ir.d) t = .ok (([0], false), t) := by
    simp only [accLanes, M.bind_run, M.unit_run (hd.calm.cur.trans he.past_cur), M.pure_run]
  have hr := M.reqs_run (rs := [(l, a)]) false (atomKind s.ir.sel.toNat size v c) (hcalm.cur.trans he.past_cur) (M.here_calm he hpc hcalm)
  simp only [atomStart, M.bind_run, hcmp, hfetch, hlanes, ha, hr]
  rfl

/-- What an atomic operation does to a core's store. -/
def atomDone (op size : Nat) (x y : W64) (k n : Nat) (s : State) : (Nat × Bool) × State :=
  let z := s.readStore k n
  (z, if z.2 then s else s.writeStore k n (atomicNew op (8 * size) z.1 (x.toNat % 2 ^ (8 * size)) (y.toNat % 2 ^ (8 * size))) false)

theorem atCore_atomic {r : Req} {op : Nat} {x y : W64} (hk : r.kind = .atomic op (8 * size) x y true) (s : State) :
    s.atCore r = atomDone op size x y r.ia r.size s := by
  simp only [State.atCore, hk, atomDone, if_true]
  split <;> rfl

/-- An atomic operation of the thread's own store, after its buffered stores to the core. -/
theorem doOwn_atomic {u : Agent} {r : Req} {op : Nat} {x y : W64} (hcur : s.cur = some u) (hk : r.kind = .atomic op (8 * size) x y true)
    (he : e = s.drainAll u 0 (s.bufferOf (.unit u)).length) (ho : e.inOrder e.fresh r = true) :
    doOwn r s = .ok (valOf (atomDone op size x y r.ia r.size e).1, (atomDone op size x y r.ia r.size e).2) := by
  have hw : r.writes = true := by rw [Req.writes, hk]
  simp only [doOwn, doOwnN, M.bind_run, M.unit_run hcur, hw, if_true, M.modify_run, ← he, M.awaitOrder_run ho, M.get_run,
    atCore_atomic hk, M.set_run, M.pure_run]

theorem exAtomBody_run {want : Want} {x : State} (he : Executes s (.ex tm tid) (atomShape w)) (hpc : s.pcAt (.ex tm tid) < 2 ^ 64)
    (hpair : checkPairs h [s.ir.d, s.ir.a] (s.past (.ex tm tid)) = .ok ((), s.past (.ex tm tid)))
    (hc : if s.ir.sel.toNat = 9 then readDest w (s.past (.ex tm tid)) = .ok (c, s.past (.ex tm tid)) else c = fun _ => Val.zero)
    (hd : Delivers s (.ex tm tid) (atomShape w) .offset v t)
    (ha : accesses want (withComparand v c) [0] false true true t = .ok ([(l, a)], t1))
    (hx : exValue h true w (t1.reqOf (.ex tm tid) a (atomKind s.ir.sel.toNat size v c l) (s.pcAt (.ex tm tid)) 255 .none) t1 = .ok ((), x)) :
    exAtomBody h s.ir w size want (s.past (.ex tm tid)) = .ok ((), x) := by
  simp only [exAtomBody, M.bind_run, hpair, atomStart_run_ex he hpc hc hd ha]
  exact hx

end Sys2Proof.Machine
end

section open Sys2Proof Machine

/-- Settles O21: ATOMS evaluated to its request, performed after the thread's buffered stores or sent; and the table of operations on bit
vectors and on patterns. -/
theorem executeAtomicCompletes : Obligations.ExecuteAtomicCompletes := by
  unfold Obligations.ExecuteAtomicCompletes
  refine ⟨?_, ?_⟩
  · intro s t t1 t' tm tid c v l a u h size w sh cas v' r done e he hpc hpair hc hd ha hl
    subst hl
    have hc' : if s.ir.sel.toNat = 9 then readDest w (s.past u) = .ok (c, s.past u) else c = fun _ => Val.zero := by
      by_cases h9 : s.ir.sel.toNat = 9
      · rw [if_pos h9]
        rwa [if_pos (show cas = true from beq_iff_eq.2 h9)] at hc
      · rw [if_neg h9]
        rwa [if_neg (show ¬ cas = true from fun e => h9 (beq_iff_eq.1 e))] at hc
    have hexec := atomsOp_ex (s := s) (tm := tm) (tid := tid) he.1
    have hcalm : Calm (s.past u) t1 := hd.calm.trans (accesses_calm _ _ _ _ _ _ _ _ _ ha)
    have hcur : t1.cur = some u := hcalm.cur.trans he.past_cur
    have hir : t1.ir = s.ir := hcalm.ir.trans (State.past_ir s u)
    refine ⟨fun hown ho hw => ?_, fun g m ids t2 hown hdst hroom hw => ?_, fun p => atCore_atomic (r := r) rfl p⟩
    · have hv := doOwn_atomic (r := r) (size := size) hcur rfl rfl ho
      have hkeep := doOwn_sameUnit r _ _ _ hv
      rw [← hir] at hown hw
      exact hexec.trans (insn_completes_of_sameUnit he
        (exAtomBody_run he hpc hpair hc' hd ha (exValue_own hcur hown hv hkeep.2.1 hw))
        (hcalm.sameUnit.trans (SameUnit.trans hkeep hw.sameUnit)))
    · have hkeep := Keeps.writeRegs sameUnit_local tm tid _ _ _ _ _ _ hw
      rw [← hir] at hdst
      exact hexec.trans (insn_completes_of_sameUnit he
        (exAtomBody_run he hpc hpair hc' hd ha (exValue_peer hcur hown hdst hroom hw))
        (hcalm.sameUnit.trans (SameUnit.trans hkeep (sentFor_sameUnit _ _ _ _ _))))
  · intro w hw old v cmp f
    have h0 : 0 < w := by omega
    have hf := atomFmt_ok w
    have hwidth := atomFmt_width hw
    have hold : old.toNat < 2 ^ (atomFmt w).width := hwidth.symm ▸ old.isLt
    have hv : v.toNat < 2 ^ (atomFmt w).width := hwidth.symm ▸ v.isLt
    refine ⟨atomic_add old v cmp, atomic_smin h0 old v cmp, atomic_smax h0 old v cmp, atomic_umin old v cmp, atomic_umax old v cmp,
      (BitVec.toNat_and old v).symm, (BitVec.toNat_or old v).symm, (BitVec.toNat_xor old v).symm, rfl, atomic_cas old v cmp,
      atomic_inc old v cmp, atomic_dec old v cmp, ?_⟩
    intro fm x y
    refine ⟨fun h => addV_nan_bits h, fun h1 h2 => ⟨fun h => ⟨_, (Fmt.addV_of_finite hf 0 h1 h2).1 h⟩, fun h => addV_zero_bits hf h1 h2 h⟩,
      fun h1 h2 => addV_inf_left_bits hf hold h1 h2, fun h1 h2 => addV_inf_right_bits hf hv h1 h2,
      fun h1 => ⟨Fmt.minMax_of_nan_left false h1, Fmt.minMax_of_nan_left true h1⟩,
      fun h1 h2 => ⟨Fmt.minMax_of_nan_right false h1 h2, Fmt.minMax_of_nan_right true h1 h2⟩,
      fun h1 h2 => ⟨Fmt.min_of_finite hf hold hv h1 h2, Fmt.max_of_finite hf hold hv h1 h2⟩,
      fun h1 h2 => ⟨Fmt.min_of_inf_left hf hold hv h1 h2, Fmt.max_of_inf_left hf hold hv h1 h2⟩,
      fun h1 h2 => ⟨Fmt.min_of_inf_right h1 h2, Fmt.max_of_inf_right h1 h2⟩⟩

end


section
/-! SUPPORT. What a store that leaves its unit's buffer changes (R226, R229). -/

namespace Sys2Proof.Machine

/-- A unit whose buffer holds an entry is there. -/
theorem State.ctl_of_oldest {s : State} {u : Agent} {cls n : Nat} {r : Req} (h : oldest (s.bufferOf (.unit u)) cls = some (n, r)) :
    ∃ c, s.ctl u = some c := by
  cases hc : s.ctl u with
  | some c => exact ⟨c, rfl⟩
  | none => simp [State.bufferOf, hc, oldest] at h

/-- An entry taken out of the buffer of a unit that is there. -/
theorem State.bufferOf_modCtl {s : State} {u : Agent} {c : Ctl} {f : Ctl → Ctl} (hc : s.ctl u = some c) :
    (s.modCtl u f).bufferOf (.unit u) = (f c).sbuf := by
  simp [State.bufferOf, State.ctl_modCtl, hc]

theorem State.bufferOf_of_ctl {s : State} {u : Agent} {c : Ctl} (hc : s.ctl u = some c) : s.bufferOf (.unit u) = c.sbuf := by
  simp [State.bufferOf, hc]

theorem Memory.read_stored {m : Memory} {k n d : Nat} (h : Memory.wf m = true) (a : Nat) :
    Memory.read (Memory.writeN m k d n) a = if k ≤ a ∧ a < k + n then BitVec.ofNat 8 (d / 256 ^ (a - k)) else Memory.read m a := by
  split
  · next hin =>
    obtain ⟨i, rfl⟩ := Nat.exists_eq_add_of_le hin.1
    rw [Nat.add_sub_cancel_left]
    exact Memory.read_writeN h (by omega)
  · exact Memory.read_writeN_of_out h (by omega)

/-- The oldest entry of a class, a push that is the oldest of all, leaves. -/
theorem State.drain_push {s : State} {u : Agent} {cls n key row lane v : Nat} {r : Req} (hrun : s.running (s.ctxOf u) = true)
    (ho : oldest (s.bufferOf (.unit u)) cls = some (n, r)) (hp : r.pushed = some (key, row, lane, v))
    (hall : ∀ q ∈ s.bufferOf (.unit u), n ≤ q.1) :
    s.drain u cls = some (((s.modCtl u (fun c => { c with sbuf := c.sbuf.del n })).modCtl u (fun c => c.bump 1)).modPort key
      (fun p => p.setSlot row lane (.data (BitVec.ofNat 512 v) false))) := by
  have hle : (s.bufferOf (.unit u)).all (fun q => decide (n ≤ q.1)) = true :=
    List.all_eq_true.2 fun q hq => decide_eq_true (hall q hq)
  simp only [State.drain, hrun, if_true, ho, hp, hle]

/-- The oldest entry of a class, a store to the unit's own core, leaves. -/
theorem State.drain_own {s : State} {u : Agent} {cls n d : Nat} {r : Req} (hrun : s.running (s.ctxOf u) = true)
    (ho : oldest (s.bufferOf (.unit u)) cls = some (n, r)) (hk : r.kind = .store d false) (hq : r.pusher = []) (hp : r.pushed = none)
    (hown : s.ownStore r = true) (hord : s.inOrder n r = true) (heng : s.engineHeld u r = true) :
    s.drain u cls = some ((s.writeStore r.ia r.size d false).modCtl u (fun c => { c with sbuf := c.sbuf.del n })) := by
  simp [State.drain, hrun, ho, hp, hown, hord, heng, State.atCore, hk, State.unpush, hq]

end Sys2Proof.Machine
end

section open Sys2Proof Machine

/-- Settles O22: the two ways out of a buffer, written as one update of the state each, and the bytes read after it. -/
theorem drainedStoreWritesItsBytes : Obligations.DrainedStoreWritesItsBytes := by
  unfold Obligations.DrainedStoreWritesItsBytes
  refine ⟨?_, ?_⟩
  · intro s u cls n key row lane v r p hrun ho hpush hall hport
    obtain ⟨c, hc⟩ := State.ctl_of_oldest ho
    refine ⟨_, State.drain_push hrun ho hpush hall, ?_, ?_, ?_⟩
    · rw [State.bufferOf_of_ctl hc]
      exact (State.bufferOf_modCtl (c := { c with sbuf := c.sbuf.del n }) (by rw [State.ctl_modCtl, hc]; rfl)).trans rfl
    · rw [State.modPort_mem, State.modCtl_mem, State.modCtl_mem]
    · exact Assoc.find_alter_some _ (by rw [State.modCtl_ports, State.modCtl_ports]; exact hport)
  · intro s u cls n d r hwf hrun ho hk hq hp hown hord heng
    obtain ⟨c, hc⟩ := State.ctl_of_oldest ho
    have hmem : ∀ f, ((s.writeStore r.ia r.size d false).modCtl u f).mem = Memory.writeN s.mem r.ia d r.size := fun f => State.modCtl_mem' _ _ _
    refine ⟨_, State.drain_own hrun ho hk hq hp hown hord heng, ?_, ?_, fun a => ?_⟩
    · rw [State.bufferOf_of_ctl hc]
      exact State.bufferOf_modCtl (s := s.writeStore r.ia r.size d false) hc
    · exact (congrArg Memory.wf (hmem _)).trans (Memory.wf_writeN _ _ _ hwf)
    · rw [hmem]
      exact Memory.read_stored hwf a

end


section
/-! SUPPORT. A thread that stays at its instruction, and what a joint instruction changes of its thread (R290, R313). -/

namespace Sys2Proof.Machine

variable {s t r : State} {u : Agent} {tm tid n : Nat} {sh : Shape} {i : Instr}

/-- The instruction's own address, in every state in which the unit's control is as it was. -/
theorem M.here_of_ctl (he : Executes s u sh) (hpc : s.pcAt u < 2 ^ 64) (hcur : t.cur = some u) (hir : t.ir = s.ir)
    (hctl : t.ctl u = (s.past u).ctl u) : here t = .ok (s.pcAt u, t) := by
  have h := M.here_run he hpc
  obtain ⟨c, hc⟩ := Option.isSome_iff_exists.1 (((past_sameUnit s u).2.2 u).trans he.isSome)
  simp only [here, M.bind_run, M.ctl_run he.past_cur hc, M.ops_run, M.pure_run, State.past_ir] at h
  simp only [here, M.bind_run, M.ctl_run hcur (hctl.trans hc), M.ops_run, M.pure_run, hir]
  have h1 := congrArg (fun x : Except Stop (Nat × State) => x.toOption.map Prod.fst) h
  exact congrArg (fun a => Except.ok (a, t)) (Option.some.inj h1)

/-- An execute thread that stays. -/
theorem M.stay_run {w : Wait} {pc : Nat} (hcur : t.cur = some (.ex tm tid)) (h : here t = .ok (pc, t)) :
    stay i w t = .ok ((), t.stays tm tid i t.ir pc w) := by
  have hcur' : ∀ f, (t.modCtl (.ex tm tid) f).cur = some (.ex tm tid) := fun f => hcur
  simp only [stay, M.bind_run, h, M.get_run, M.ops_run, M.modCtl_run _ hcur, M.unit_run (hcur' _), M.modify_run]
  rfl

theorem stays_sameUnit (s : State) (tm tid : Nat) (i : Instr) (o : Ops) (pc : Nat) (w : Wait) :
    SameUnit s (s.stays tm tid i o pc w) :=
  (sameUnit_local.modCtl s _ _).trans (sameUnit_local.ex _ _ _ _)

/-! ### A joint instruction's own thread -/

/-- Every execute thread keeps its pc and the instruction it has arrived at, and the same unit runs. -/
def Arrived (s t : State) : Prop :=
  t.cur = s.cur ∧ ∀ k, (t.exs.find k).map (fun x => (x.arr, x.ctl.pc)) = (s.exs.find k).map (fun x => (x.arr, x.ctl.pc))

theorem Arrived.frames : Frames Arrived :=
  ⟨fun _ => ⟨rfl, fun _ => rfl⟩, fun h1 h2 => ⟨h2.1.trans h1.1, fun k => (h2.2 k).trans (h1.2 k)⟩⟩

theorem Arrived.modEx (s : State) {f : ExThread → ExThread} (h : ∀ x, (f x).arr = x.arr ∧ (f x).ctl.pc = x.ctl.pc) :
    Arrived s (s.modEx tm tid f) :=
  ⟨rfl, fun k => by
    rw [State.modEx_exs, Assoc.find_alter]
    split
    · next e => subst e; cases s.exs.find (exKey tm tid) <;> simp [h]
    · rfl⟩

theorem Calm.arrived (h : Calm s t) : Arrived s t := by
  refine ⟨h.cur, fun k => ?_⟩
  have := congrArg (Option.map (fun x : ExThread => (x.arr, x.ctl.pc))) (h.exs k)
  simp only [Option.map_map] at this
  exact this

theorem Arrived.push (s : State) (p : Port) (v : W64) : Arrived s (s.push tm tid n p v) := by
  unfold State.push
  dsimp only
  split
  · exact Arrived.modEx _ (fun x => ⟨rfl, rfl⟩)
  · exact ⟨rfl, fun _ => rfl⟩

theorem pushE_arrived (n : Nat) (v : Val) : Keeps Arrived (pushE n v) := by
  refine Keeps.of_from (fun s => ?_)
  unfold Machine.pushE
  refine From.get_bind (From.read_bind (Keeps.unit framesEq) (fun u => ?_))
  cases u with
  | ex tm tid =>
    dsimp only
    split
    · exact From.stopTrap _ _
    · exact From.read_bind (Keeps.pushRoom _ _ _ _) (fun _ => From.set (Arrived.push s _ _))
  | _ => exact From.throw _ _

theorem writeRegs_arrived (ws : List (Nat × W32)) (p q : Bool) : Keeps Arrived (writeRegs tm tid ws p q) := by
  refine Keeps.of_from (fun s => ?_)
  unfold Machine.writeRegs
  refine From.get_bind ?_
  split
  · exact From.throw _ _
  · dsimp only
    refine From.read_bind (Keeps.trapIf framesEq _ _ _) (fun _ => From.read_bind (Keeps.waitUnless framesEq _ _) (fun _ => ?_))
    exact From.bind Arrived.frames (From.set ⟨rfl, fun _ => rfl⟩) (fun _ => Keeps.pure Arrived.frames _)

/-- What an execute thread writes to a destination leaves its pc. -/
theorem writeF_arrived {f : Field} {w : Nat} {v : Lanes} {a : Unit} (hcur : s.cur = some (.ex tm tid)) (h : writeF f w v s = .ok (a, t)) :
    Arrived s t := by
  have hf := Arrived.frames
  unfold writeF at h
  rw [M.bind_run, M.unit_run hcur] at h
  dsimp only at h
  split at h
  · exact Keeps.bind hf (writeRegs_arrived _ _ _) (fun _ => Keeps.pure hf _) _ _ _ h
  · exact pushE_arrived _ _ _ _ _ h
  · exact Keeps.pure hf _ _ _ _ h

theorem writePred_arrived {f : Field} {v : Nat → PBit} {a : Unit} (hcur : s.cur = some (.ex tm tid)) (h : writePred f v s = .ok (a, t)) :
    Arrived s t := by
  have hf := Arrived.frames
  unfold writePred at h
  split at h
  · rw [M.bind_run, M.unit_run hcur] at h
    exact Keeps.modify (fun s => Arrived.modEx s (fun x => by unfold ExThread.setF; split <;> exact ⟨rfl, rfl⟩)) _ _ _ h
  · exact Keeps.pure hf _ _ _ _ h

theorem raise_arrived (fl : FlagSet) : Keeps Arrived (raise fl) := by
  have hf := Arrived.frames
  have hex : ∀ tm, Keeps Arrived (do
      let t ← team
      let en := LRec.fpen ((← get).recordOf t)
      if fl &&& en = 0 then modify (fun s => s.modTeam tm (fun x => { x with flags := x.flags ||| fl }))
      else stopTrap { tinfo 0x10 (lowFlag (fl &&& en)) with flags := fl }) := fun tm =>
    Keeps.bind hf (Keeps.team hf) (fun _ => Keeps.bind hf (Keeps.get hf) (fun _ =>
      Keeps.ite (Keeps.modify (fun s => ⟨rfl, fun _ => rfl⟩)) (Keeps.stopTrap _)))
  refine Keeps.bind hf (Keeps.unit hf) (fun u => ?_)
  cases u with
  | ex tm tid => exact hex tm
  | ap tm sp => exact hex tm
  | qe n => exact Keeps.pure hf _

theorem release_arrived : Keeps Arrived release := by
  have hf := Arrived.frames
  exact Keeps.bind hf (Keeps.bind hf (Keeps.ctl hf) (fun _ => Keeps.waitUnless hf _ _)) (fun _ => Keeps.bind hf (Keeps.unit hf) (fun _ =>
    Keeps.bind hf (Keeps.get hf) (fun _ => Keeps.waitUnless hf _ _)))

theorem writeD_arrived {w : Nat} {v : Lanes} {a : Unit} (hcur : s.cur = some (.ex tm tid)) (h : writeD w v s = .ok (a, t)) : Arrived s t := by
  simp only [writeD, M.bind_run, M.ops_run] at h
  exact writeF_arrived hcur h

theorem jointOut_arrived {r : JRes} {a : Unit} (hcur : s.cur = some (.ex tm tid)) (h : jointOut i r s = .ok (a, t)) : Arrived s t := by
  have hf := Arrived.frames
  unfold jointOut at h
  simp only [M.bind_run, M.ops_run] at h
  split at h
  · exact Keeps.pure hf _ _ _ _ h
  · split at h
    · exact writeD_arrived hcur h
    · exact writePred_arrived hcur h
  · obtain ⟨b, s1, h1, h2⟩ := M.bind_inv h
    have k1 : Arrived s s1 := Keeps.ite (c := r.poison = true) (Keeps.pure hf _) (raise_arrived _) _ _ _ h1
    exact hf.trans k1 (writeD_arrived (k1.1.trans hcur) h2)

/-- A thread that performs its joint instruction goes on past it. -/
theorem jointDone_run {x : ExThread} {j : Insn} {r : JRes} (hcur : s.cur = some (.ex tm tid)) (hx : s.exs.find (exKey tm tid) = some x)
    (ha : x.arr = some j) (h : jointDone i r s = .ok ((), t)) :
    ∃ y, t.exs.find (exKey tm tid) = some y ∧ y.arr = none ∧ y.ctl.status = .ready ∧ y.ctl.pc = (x.ctl.pc + j.args.form.bytes) % 2 ^ 64 := by
  have hf := Arrived.frames
  obtain ⟨o, s0, h0, h⟩ := M.bind_inv h
  cases h0
  obtain ⟨v, s1, h1, h⟩ := M.bind_inv h
  obtain ⟨_, s2, h2, h⟩ := M.bind_inv h
  have k1 : Arrived s s1 := (fetch_calm _ _ _ _ _ h1).arrived
  have k2 : Arrived s1 s2 := Keeps.ite (c := i = .xsync) release_arrived (Keeps.pure hf _) _ _ _ h2
  have k12 := hf.trans k1 k2
  have hcur2 := k12.1.trans hcur
  rw [M.bind_run, M.unit_run hcur2] at h
  obtain ⟨_, s3, h3, h⟩ := M.bind_inv h
  cases h
  have hx3 := ((hf.trans k12 (jointOut_arrived hcur2 h3)).2 (exKey tm tid)).trans (congrArg _ hx)
  obtain ⟨y, hy, hyx⟩ := Option.map_eq_some_iff.1 hx3
  obtain ⟨hya, hypc⟩ := Prod.mk.inj hyx
  have hya' : y.arr = some j := hya.trans ha
  refine ⟨{ y with arr := none, ctl := { y.ctl with pc := (y.ctl.pc + j.args.form.bytes) % 2 ^ 64, status := .ready, readySince := s3.now, solo := none } },
    ?_, rfl, rfl, congrArg (fun a => (a + j.args.form.bytes) % 2 ^ 64) hypc⟩
  simp only [State.finishEx, hy, hya']
  exact Assoc.find_alter_some _ hy

/-- The issue of a joint instruction under a true guard: its thread arrives. -/
theorem jointBody_run (he : Executes s (.ex tm tid) sh) (hpc : s.pcAt (.ex tm tid) < 2 ^ 64)
    (hp : checkPorts (jointShape i s.ir) (s.past (.ex tm tid)) = .ok ((), s.past (.ex tm tid)))
    (hr : awaitRegs [(s.ir.a, (jointShape i s.ir).a), (s.ir.b, (jointShape i s.ir).b), (s.ir.c, (jointShape i s.ir).c)]
      (s.past (.ex tm tid)) = .ok ((), s.past (.ex tm tid))) :
    jointBody i s.ir tm tid (s.past (.ex tm tid)) =
      .ok ((), ((s.past (.ex tm tid)).modEx tm tid (fun x =>
        { x with pass := none, mask := (s.past (.ex tm tid)).maskNow tm tid s.ir })).stays tm tid i s.ir (s.pcAt (.ex tm tid))
          (.joint (s.pcAt (.ex tm tid)) (spanSet tid ((s.past (.ex tm tid)).maskNow tm tid s.ir)))) := by
  have hctl : ∀ m, ((s.past (.ex tm tid)).modEx tm tid (fun x => { x with pass := none, mask := m })).ctl (.ex tm tid) =
      (s.past (.ex tm tid)).ctl (.ex tm tid) := fun m => by
    simp only [State.ctl, State.modEx_exs, Assoc.find_alter_self, Option.map_map]
    rfl
  have hhere := M.here_of_ctl he hpc (t := (s.past (.ex tm tid)).modEx tm tid (fun x =>
    { x with pass := none, mask := (s.past (.ex tm tid)).maskNow tm tid s.ir })) he.past_cur (State.past_ir s _) (hctl _)
  simp only [jointBody, M.bind_run, hp, hr, M.get_run, M.modify_run, hhere]
  refine (M.stay_run (t := (s.past (.ex tm tid)).modEx tm tid _) he.past_cur hhere).trans ?_
  rw [State.modEx_ir, State.past_ir]

/-- What a member of a joint set has read of its operands. -/
abbrev MemberRead : Type := Nat × Insn × Except Stop (Part × State)

/-- What a member waits for that cannot read its operands yet. -/
def MemberRead.stuck (x : MemberRead) : Option (Nat × Wait) :=
  match x.2.2 with
  | .error (.wait w) => some (x.1, w)
  | _ => none

/-- What a member brings that has read its operands. -/
def MemberRead.part (x : MemberRead) : Option Part :=
  match x.2.2 with
  | .ok (p, _) => some p
  | _ => none

/-- One member's turn when its set performs. -/
def performMember (tm : Nat) (parts : List Part) (acc : Except (Nat × Wait) State) (x : MemberRead) : Except (Nat × Wait) State :=
  match acc with
  | .error e => .error e
  | .ok s =>
    match x.2.2 with
    | .ok (p, _) =>
      let ps := if (s.ctl (.ex tm x.1)).elim false Ctl.alone then [p] else parts.filter (fun q => NatSet.has (s.members tm x.1) q.tid)
      match s.jointStep tm x.2.1 x.1 (jointResult x.2.1.op x.2.1.args.x8 ps p) with
      | .ok t => .ok t
      | .error w => .error (x.1, w)
    | .error (.trap t) => .ok (s.takeTrap (.ex tm x.1) t (len0Of x.2.1.args.form))
    | .error _ => .ok s

/-- What the members of a set have read of their operands, in ascending order. -/
def State.memberReads (s : State) (tm : Nat) (set : NatSet) : List MemberRead :=
  (set.filterMap (fun t => (s.atJoint tm t).map (fun i => (t, i)))).map
    (fun x => (x.1, x.2, s.asUnit (.ex tm x.1) x.2.args (jointIn x.2.op)))

theorem performMember_error {parts : List Part} (e : Nat × Wait) (x : MemberRead) : performMember tm parts (.error e) x = .error e := rfl

theorem performMember_ok {parts : List Part} {p : Part} {x : Nat × Insn} {m : State} (s : State)
    (h : s.jointStep tm x.2 x.1 (jointResult x.2.op x.2.args.x8
      (if (s.ctl (.ex tm x.1)).elim false Ctl.alone then [p] else parts.filter (fun q => NatSet.has (s.members tm x.1) q.tid)) p) = .ok m) :
    performMember tm parts (.ok s) (x.1, x.2, .ok (p, r)) = .ok m := by
  simp only [performMember, h]

theorem jointPerform_eq {set : NatSet} (hset : s.jointSet tm tid = some set) (hst : (s.memberReads tm set).findSome? MemberRead.stuck = none) :
    s.jointPerform tm tid =
      match (s.memberReads tm set).foldl (performMember tm ((s.memberReads tm set).filterMap MemberRead.part)) (.ok (s.setTurn tm set)) with
      | .ok t => some t
      | .error (t, w) => some (s.jointWait tm t w) := by
  have h : s.jointPerform tm tid = match s.jointSet tm tid with
      | none => none
      | some set =>
        match (s.memberReads tm set).findSome? MemberRead.stuck with
        | some (t, w) => some (s.jointWait tm t w)
        | none =>
          match (s.memberReads tm set).foldl (performMember tm ((s.memberReads tm set).filterMap MemberRead.part)) (.ok (s.setTurn tm set)) with
          | .ok t => some t
          | .error (t, w) => some (s.jointWait tm t w) := by
    unfold State.jointPerform State.memberReads MemberRead.stuck MemberRead.part performMember
    rfl
  rw [h, hset]
  simp only [hst]

/-- The members of a set perform one after another. -/
theorem jointChain_foldl {parts : List Part} {F : Nat × Insn × Part → MemberRead} :
    ∀ (ms : List (Nat × Insn × Part)) (s : State), (∀ x ∈ ms, ∃ r, F x = (x.1, x.2.1, .ok (x.2.2, r))) → JointChain tm parts ms s t →
      (ms.map F).foldl (performMember tm parts) (.ok s) = .ok t := by
  intro ms
  induction ms with
  | nil => rintro s _ rfl; rfl
  | cons x ms ih =>
    rintro s hF ⟨m, hm, hrest⟩
    obtain ⟨r, hr⟩ := hF x (List.mem_cons_self ..)
    rw [List.map_cons, List.foldl_cons, hr, performMember_ok (x := (x.1, x.2.1)) s hm]
    exact ih m (fun y hy => hF y (List.mem_cons_of_mem _ hy)) hrest

/-- JOINT_PERFORM of a complete set whose members can all read their operands. -/
theorem jointPerform_run {set : NatSet} {ms : List (Nat × Insn × Part)} (hset : s.jointSet tm tid = some set) (hms : ms.map (·.1) = set)
    (hall : ∀ x ∈ ms, s.atJoint tm x.1 = some x.2.1 ∧ ∃ r, s.asUnit (.ex tm x.1) x.2.1.args (jointIn x.2.1.op) = .ok (x.2.2, r))
    (hc : JointChain tm (ms.map (·.2.2)) ms (s.setTurn tm set) t) : s.jointPerform tm tid = some t := by
  let F : Nat × Insn × Part → MemberRead := fun x => (x.1, x.2.1, s.asUnit (.ex tm x.1) x.2.1.args (jointIn x.2.1.op))
  have hF : ∀ x ∈ ms, ∃ r, F x = (x.1, x.2.1, .ok (x.2.2, r)) := fun x hx => by
    obtain ⟨r, hr⟩ := (hall x hx).2
    exact ⟨r, by simp only [F, hr]⟩
  have hreads : s.memberReads tm set = ms.map F := by
    subst hms
    rw [State.memberReads, List.filterMap_map, List.map_filterMap, ← List.filterMap_eq_map]
    refine List.filterMap_congr (fun x hx => ?_)
    simp only [Function.comp, (hall x hx).1, Option.map_some, F]
  have hstuck : (ms.map F).findSome? MemberRead.stuck = none := by
    rw [List.findSome?_eq_none_iff]
    intro y hy
    obtain ⟨x, hx, rfl⟩ := List.mem_map.1 hy
    obtain ⟨r, hr⟩ := hF x hx
    rw [hr]
    rfl
  have hparts : (ms.map F).filterMap MemberRead.part = ms.map (·.2.2) := by
    rw [List.filterMap_map, ← List.filterMap_eq_map]
    refine List.filterMap_congr (fun x hx => ?_)
    obtain ⟨r, hr⟩ := hF x hx
    rw [Function.comp, hr]
    rfl
  rw [jointPerform_eq hset (by rw [hreads, hstuck]), hreads, hparts, jointChain_foldl ms (s.setTurn tm set) hF hc]

end Sys2Proof.Machine
end

section
/-! SUPPORT. The results of joint instructions over clean participants (R314, R315). -/

namespace Sys2Proof.Machine

variable {w : Nat}

theorem laneStep_sum (w x y : Nat) : laneStep 0 w x y = ⟨(x + y) % 2 ^ w, 0⟩ := rfl

/-- Pairing up keeps a sum, halves the length and raises nothing. -/
theorem pairUp_sum (w : Nat) : ∀ xs : List Nat, (∀ x ∈ xs, x < 2 ^ w) →
    (pairUp (laneStep 0 w) xs).1.sum % 2 ^ w = xs.sum % 2 ^ w ∧ (pairUp (laneStep 0 w) xs).2 = 0 ∧
      (pairUp (laneStep 0 w) xs).1.length = (xs.length + 1) / 2 ∧ ∀ x ∈ (pairUp (laneStep 0 w) xs).1, x < 2 ^ w
  | [], _ => by simp [pairUp]
  | [x], h => by simpa [pairUp] using h
  | x :: y :: rest, h => by
    obtain ⟨hs, hf, hl, hb⟩ := pairUp_sum w rest (fun z hz => h z (List.mem_cons_of_mem _ (List.mem_cons_of_mem _ hz)))
    simp only [pairUp, laneStep_sum]
    refine ⟨?_, by rw [hf]; rfl, by simp only [List.length_cons, hl]; omega, ?_⟩
    · simp only [List.sum_cons]
      rw [Nat.mod_add_mod, Nat.add_mod, hs, ← Nat.add_mod, Nat.add_assoc]
    · intro z hz
      rcases List.mem_cons.1 hz with rfl | hz
      · exact Nat.mod_lt _ (by positivity)
      · exact hb z hz

/-- The tree of additions gives the sum. -/
theorem treeReduce_sum (w : Nat) : ∀ (k : Nat) (xs : List Nat), xs.length ≤ 2 ^ k → (∀ x ∈ xs, x < 2 ^ w) →
    treeReduce (laneStep 0 w) k xs = (xs.sum % 2 ^ w, 0)
  | 0, [], _, _ => by simp [treeReduce]
  | 0, [x], _, h => by simp [treeReduce, Nat.mod_eq_of_lt (h x (List.mem_cons_self ..))]
  | 0, _ :: _ :: _, hl, _ => by simp at hl
  | k + 1, [], _, _ => by simp [treeReduce]
  | k + 1, [x], _, h => by simp [treeReduce, Nat.mod_eq_of_lt (h x (List.mem_cons_self ..))]
  | k + 1, x :: y :: rest, hl, h => by
    obtain ⟨hs, hf, hlen, hb⟩ := pairUp_sum w (x :: y :: rest) h
    have hk : 2 ^ (k + 1) = 2 * 2 ^ k := pow_succ' 2 k
    have ih := treeReduce_sum w k _ (show _ ≤ 2 ^ k by omega) hb
    simp only [treeReduce, ih, hs, hf]
    rfl

theorem chain_foldl_sum (w : Nat) : ∀ (xs : List Nat) (a : Nat), a < 2 ^ w →
    xs.foldl (fun a y => let r := laneStep 0 w a.1 y; (r.bits, a.2 ||| r.flags)) (a, (0 : FlagSet)) = ((a + xs.sum) % 2 ^ w, 0)
  | [], a, h => by simp [Nat.mod_eq_of_lt h]
  | x :: xs, a, _ => by
    have ih := chain_foldl_sum w xs ((a + x) % 2 ^ w) (Nat.mod_lt _ (by positivity))
    simp only [List.foldl_cons, laneStep_sum, List.sum_cons] at ih ⊢
    refine Eq.trans ?_ (ih.trans ?_)
    · rfl
    · rw [Nat.mod_add_mod, Nat.add_assoc]

theorem chain_sum (w : Nat) : ∀ xs : List Nat, (∀ x ∈ xs, x < 2 ^ w) → chain (laneStep 0 w) xs = (xs.sum % 2 ^ w, 0)
  | [], _ => by simp [chain]
  | x :: xs, h => by
    simp only [chain, List.sum_cons]
    exact chain_foldl_sum w xs x (h x (List.mem_cons_self ..))

/-- A combination whose steps give the sum gives it for one value too. -/
theorem combineAll_sum {f : List Nat → Nat × FlagSet} (xs : List Nat) (h : ∀ x ∈ xs, x < 2 ^ w) (hf : f xs = (xs.sum % 2 ^ w, 0)) :
    combineAll 0 w f xs = ⟨xs.sum % 2 ^ w, 0⟩ := by
  match xs, h, hf with
  | [], _, hf => simp only [combineAll, hf]
  | [x], h, _ => simp [combineAll, laneAlone, Nat.mod_eq_of_lt (h x (List.mem_cons_self ..))]
  | x :: y :: rest, _, hf => simp only [combineAll, hf]

/-- A mask made by adding the powers of ascending positions has a bit for each of them. -/
theorem testBit_foldl_pow {α : Type} (g : α → Nat) (c : α → Bool) (j : Nat) :
    ∀ (ps : List α) (m : Nat), ps.Pairwise (fun p q => g p < g q) → (∀ p ∈ ps, m < 2 ^ g p) →
      ((ps.foldl (fun m p => if c p then m + 2 ^ g p else m) m).testBit j = true ↔ m.testBit j = true ∨ ∃ p ∈ ps, g p = j ∧ c p = true)
  | [], m, _, _ => by simp
  | p :: ps, m, hp, hm => by
    obtain ⟨hlt, hrest⟩ := List.pairwise_cons.1 hp
    have hmp := hm p (List.mem_cons_self ..)
    rw [List.foldl_cons]
    by_cases hc : c p = true
    · have hnext : ∀ q ∈ ps, m + 2 ^ g p < 2 ^ g q := fun q hq => by
        have := Nat.pow_le_pow_right (n := 2) (by omega) (hlt q hq)
        rw [Nat.pow_succ] at this
        omega
      have hor : m + 2 ^ g p = 2 ^ g p ||| m := by
        have h1 := Nat.two_pow_add_eq_or_of_lt hmp 1
        rwa [Nat.mul_one, Nat.add_comm] at h1
      rw [if_pos hc, testBit_foldl_pow g c j ps _ hrest hnext, hor, Nat.testBit_or, Nat.testBit_two_pow]
      simp only [Bool.or_eq_true, decide_eq_true_eq, List.exists_mem_cons_iff, hc, and_true, or_assoc]
      exact or_left_comm
    · rw [if_neg hc, testBit_foldl_pow g c j ps _ hrest (fun q hq => hm q (List.mem_cons_of_mem _ hq))]
      simp [hc]

/-! ### Clean participants -/

section
variable {ps : List Part} {t : Part} {x8 : BitVec 8}

/-- The value a participant brings, of W bits. -/
def Part.val (w : Nat) (p : Part) : Nat := p.a.bits.toNat % 2 ^ w

theorem Part.val_lt (w : Nat) (l : List Part) : ∀ x ∈ l.map (Part.val w), x < 2 ^ w := by
  intro x hx
  obtain ⟨p, _, rfl⟩ := List.mem_map.1 hx
  exact Nat.mod_lt _ (by positivity)

theorem Part.clean {p : Part} (h : p.tainted = false) : p.a.poison = false ∧ p.pa.poison = false ∧ p.pb.poison = false := by
  simp only [Part.tainted, Bool.or_eq_false_iff] at h
  obtain ⟨⟨⟨⟨ha, _⟩, _⟩, hpa⟩, hpb⟩ := h
  exact ⟨ha, hpa, hpb⟩

theorem any_poison_false {l : List Part} (h : ∀ p ∈ l, p.tainted = false) : (l.any fun p => p.a.poison) = false :=
  List.any_eq_false.2 fun p hp => by rw [(Part.clean (h p hp)).1]; exact Bool.false_ne_true

/-- The width of the values of a joint instruction. -/
def jointWidth (x8 : BitVec 8) : Nat := if x8.getLsbD 4 then 64 else 32

theorem xbcast_result (h : ∀ p ∈ ps, p.tainted = false) (ht : t ∈ ps) :
    jointResult .xbcast x8 ps t = ⟨Part.val (jointWidth x8) (ps.headD t), false, 0⟩ := by
  have hhead : (ps.headD t) ∈ ps := by
    cases ps with
    | nil => cases ht
    | cons p ps => exact List.mem_cons_self ..
  simp only [jointResult, jointValue, (Part.clean (h _ hhead)).1, h t ht, Bool.or_self]
  rfl

theorem xred_result (h : ∀ p ∈ ps, p.tainted = false) (ht : t ∈ ps) (hl : ps.length ≤ 64) (h0 : x8.toNat % 16 = 0) :
    jointResult .xred x8 ps t = ⟨(ps.map (Part.val (jointWidth x8))).sum % 2 ^ jointWidth x8, false, 0⟩ := by
  have hsum := combineAll_sum (w := jointWidth x8) _ (Part.val_lt (jointWidth x8) ps)
    (treeReduce_sum (jointWidth x8) 7 _ (by rw [List.length_map]; omega) (Part.val_lt _ ps))
  simp only [jointResult, jointValue, h0, any_poison_false h, h t ht, Bool.or_self]
  exact congrArg (fun r : FRes => JRes.mk r.bits false r.flags) hsum

theorem xscan_result (h : ∀ p ∈ ps, p.tainted = false) (ht : t ∈ ps) (h0 : x8.toNat % 16 = 0) (h5 : x8.getLsbD 5 = false) :
    jointResult .xscan x8 ps t =
      ⟨((ps.filter (fun p => p.tid ≤ t.tid)).map (Part.val (jointWidth x8))).sum % 2 ^ jointWidth x8, false, 0⟩ := by
  have hne : ps.filter (fun p => decide (p.tid ≤ t.tid)) ≠ [] := List.ne_nil_of_mem (List.mem_filter.2 ⟨ht, decide_eq_true le_rfl⟩)
  have hclean : ∀ p ∈ ps.filter (fun p => decide (p.tid ≤ t.tid)), p.tainted = false := fun p hp => h p (List.mem_filter.1 hp).1
  have hsum := combineAll_sum (w := jointWidth x8) _ (Part.val_lt (jointWidth x8) (ps.filter (fun p => decide (p.tid ≤ t.tid))))
    (chain_sum (jointWidth x8) _ (Part.val_lt _ _))
  simp only [jointResult, jointValue, h0, h5, Bool.false_eq_true, if_false, hne, any_poison_false hclean, h t ht, Bool.or_self]
  exact congrArg (fun r : FRes => JRes.mk r.bits false r.flags) hsum

theorem xpoll_all (h : x8.toNat % 4 = 0) : (jointResult .xpoll x8 ps t).v = 1 ↔ ∀ p ∈ ps, p.pa.val = true := by
  simp only [jointResult, jointValue, h]
  split
  · next ha => exact iff_of_true rfl (List.all_eq_true.1 ha)
  · next ha => exact iff_of_false Nat.zero_ne_one (fun hp => ha (List.all_eq_true.2 hp))

theorem xpoll_any (h : x8.toNat % 4 = 1) : (jointResult .xpoll x8 ps t).v = 1 ↔ ∃ p ∈ ps, p.pa.val = true := by
  simp only [jointResult, jointValue, h]
  split
  · next ha => exact iff_of_true rfl (List.any_eq_true.1 ha)
  · next ha => exact iff_of_false Nat.zero_ne_one (fun hp => ha (List.any_eq_true.2 hp))

/-- Ascending threads of one span lie in ascending lanes of it. -/
theorem spanLane_pairwise (hp : ps.Pairwise (fun p q => p.tid < q.tid)) (hs : ∀ p ∈ ps, p.tid / 64 = t.tid / 64) :
    ps.Pairwise (fun p q => spanLane p.tid < spanLane q.tid) := by
  refine hp.imp_of_mem (fun ha hb hab => ?_)
  have h1 := hs _ ha
  have h2 := hs _ hb
  unfold spanLane
  omega

theorem xpoll_mask (hp : ps.Pairwise (fun p q => p.tid < q.tid)) (hs : ∀ p ∈ ps, p.tid / 64 = t.tid / 64) (h : x8.toNat % 4 = 3) (j : Nat) :
    (jointResult .xpoll x8 ps t).v.testBit j = true ↔ ∃ p ∈ ps, p.tid % 64 = j ∧ p.pa.val = true := by
  have hmask := testBit_foldl_pow (fun p : Part => spanLane p.tid) (fun p => p.pa.val) j ps 0 (spanLane_pairwise hp hs)
    (fun p _ => by positivity)
  simp only [jointResult, jointValue, h]
  refine hmask.trans ?_
  rw [Nat.zero_testBit]
  exact or_iff_right Bool.false_ne_true

theorem xmatch_mask (hp : ps.Pairwise (fun p q => p.tid < q.tid)) (hs : ∀ p ∈ ps, p.tid / 64 = t.tid / 64) (j : Nat) :
    (jointResult .xmatch x8 ps t).v.testBit j = true ↔
      ∃ p ∈ ps, p.tid % 64 = j ∧ Part.val (jointWidth x8) p = Part.val (jointWidth x8) t := by
  have hmask := testBit_foldl_pow (fun p : Part => spanLane p.tid)
    (fun p => decide (Part.val (jointWidth x8) p = Part.val (jointWidth x8) t)) j ps 0 (spanLane_pairwise hp hs) (fun p _ => by positivity)
  simp only [decide_eq_true_eq] at hmask
  refine Iff.trans (Eq.to_iff ?_) (hmask.trans ?_)
  · rfl
  · rw [Nat.zero_testBit]
    exact or_iff_right Bool.false_ne_true

end

end Sys2Proof.Machine
end

section open Sys2Proof Machine

/-- Settles O24: the arrival of a joint instruction, the chain of members that performs, and the results. -/
theorem jointInstructionsComplete : Obligations.JointInstructionsComplete := by
  unfold Obligations.JointInstructionsComplete
  refine ⟨?_, ⟨?_, ?_⟩, ?_⟩
  · intro i hi s tm tid u sh p m q he hpc hp hr
    obtain ⟨x, g, hx, hg, hgd, hz⟩ := he.2
    have hbody := jointBody_run (i := i) he hpc hp hr
    have hs : SameUnit (s.past u) _ := (sameUnit_local.ex (s.past u) tm tid (fun x => { x with pass := none, mask := m })).trans
      (stays_sameUnit q tm tid i s.ir (s.pcAt u) (.joint (s.pcAt u) (spanSet tid m)))
    refine (exec_joint i hi s).trans (Eq.trans ?_ (insn_completes_of_sameUnit (i := i) he hbody hs))
    simp only [meaning, he.1, runUnit, jointOp_run_true he.1 hx (show (exGuard x s.ir).val = true by rw [hgd])]
    rfl
  · intro s t tm tid set ms hocc hset hms hall hc
    have h := jointPerform_run hset hms hall hc
    refine (show exec .jointPerform s = execJointPerform s from rfl).trans ?_
    simp only [execJointPerform, event, hocc, h]
  · intro s t tm tid x i r hx ha h
    exact ⟨by simp only [State.jointStep, h], jointDone_run (s := { s with cur := some (.ex tm tid), ir := i.args }) rfl hx ha h⟩
  · intro x8 ps t ht hl hp hall w val
    have hclean : ∀ p ∈ ps, p.tainted = false := fun p hp => (hall p hp).1
    have hspan : ∀ p ∈ ps, p.tid / 64 = t.tid / 64 := fun p hp => (hall p hp).2
    exact ⟨xbcast_result hclean ht, fun h0 => xred_result hclean ht hl h0, fun h0 h5 => xscan_result hclean ht h0 h5, fun h => xpoll_all h,
      fun h => xpoll_any h, fun h j _ => xpoll_mask hp hspan h j, fun j _ => xmatch_mask hp hspan j⟩

end


section
/-! SUPPORT. Hash tables in scratchpad (R318-R320): the frame of their instructions, and the probe after a claim. -/

namespace Sys2Proof.Machine

variable {s t r : State} {u : Agent} {tm tid : Nat}

theorem Keeps.awaitOrder {P : State → State → Prop} (hf : Frames P) (r : Req) : Keeps P (awaitOrder r) :=
  Keeps.bind hf (Keeps.get hf) (fun _ => Keeps.waitUnless hf _ _)

theorem hashTable_sameUnit (v : Opnds) (data : Bool) : Keeps SameUnit (hashTable v data) := by
  have hf := sameUnit_local.toFrames
  unfold hashTable
  refine Keeps.bind hf (Keeps.trapIf hf _ _ _) (fun _ => Keeps.bind hf (Keeps.trapIf hf _ _ _) (fun _ =>
    Keeps.bind hf (Keeps.trapIf hf _ _ _) (fun _ => Keeps.bind hf (Keeps.unit hf) (fun u => Keeps.bind hf (Keeps.team hf) (fun t =>
      Keeps.bind hf (Keeps.core hf) (fun c => Keeps.bind hf (Keeps.get hf) (fun s0 => ?_)))))))
  have hdrain : Keeps SameUnit (modify (fun s => s.drainAll u 0 ((s.bufferOf (.unit u)).length)) : M PUnit) :=
    Keeps.modify (fun s => drainAll_sameUnit s _ _ _)
  have hrest := Keeps.bind hf hdrain (fun _ => Keeps.bind hf (Keeps.get hf) (fun s => Keeps.bind hf (Keeps.awaitOrder hf (s.reqOf u
    ⟨0, 0, 1, c, (v.c 0).bits.toNat % 2 ^ 32, 16, (Loc.spad c (64 * t.spbase + (v.c 0).bits.toNat % 2 ^ 32)).key, false, false, none⟩
    (.atomic 8 64 0 0 true) 0 255 .none)) (fun _ => Keeps.pure hf (s.tableAt c (64 * t.spbase) (64 * LRec.spw (s0.recordOf t))
      ((v.c 0).bits.toNat % 2 ^ 32)))))
  have hbounds := Keeps.ite (c := (v.c 0).bits.toNat % 2 ^ 32 + 16 > 64 * LRec.spw (s0.recordOf t))
    (Keeps.bind hf (Keeps.stopTrap { tinfo 0x20 1 with loc := BitVec.ofNat 64 ((v.c 0).bits.toNat % 2 ^ 32) }) (fun _ : Unit => hrest)) hrest
  exact Keeps.ite (Keeps.bind hf (Keeps.stopTrap _) (fun _ => hbounds)) hbounds

/-! ### The probe -/

theorem NatSet.mem_of_mem_rem {p : NatSet} {k x : Nat} (h : x ∈ p.rem k) : x ∈ p := by
  induction p with
  | nil => exact h
  | cons j m ih =>
    unfold NatSet.rem at h
    split at h
    · exact List.mem_cons_of_mem _ h
    · split at h
      · exact h
      · rcases List.mem_cons.1 h with rfl | h
        · exact List.mem_cons_self ..
        · exact List.mem_cons_of_mem _ (ih h)

theorem mem_of_mem_unpoison {n x : Nat} : ∀ {p : NatSet} {w : Nat}, x ∈ setPoison p w false n → x ∈ p := by
  induction n with
  | zero => exact fun h => h
  | succ n ih => exact fun h => NatSet.mem_of_mem_rem (ih h)

/-- A write without poison poisons nothing. -/
theorem poisonIn_writeStore {k n v j m : Nat} (h : poisonIn s.poison j m = false) :
    poisonIn (s.writeStore k n v false).poison j m = false := by
  rw [poisonIn, List.any_eq_false] at h ⊢
  exact fun x hx => h x (mem_of_mem_unpoison hx)

theorem Memory.readN_writeN_of_out {m : Memory} (hm : Memory.wf m = true) {k n v : Nat} :
    ∀ {l j : Nat}, (j + l ≤ k ∨ k + n ≤ j) → Memory.readN (Memory.writeN m k v n) j l = Memory.readN m j l := by
  intro l
  induction l with
  | zero => exact fun _ => rfl
  | succ l ih =>
    intro j h
    simp only [Memory.readN]
    rw [Memory.read_writeN_of_out hm (by omega), ih (by omega)]

/-- The claimed slot holds what was stored in it. -/
theorem slotAt_claimed {b : Table} {j key x : Nat} (hm : s.memWf = true) (hk : key < 2 ^ 32) (hx : x < 2 ^ 32)
    (hp : (s.slotAt b j).2.2 = false) :
    (s.writeStore (b.key + 16 + 8 * j) 8 (key + x * 2 ^ 32) false).slotAt b j = (key, x, false) := by
  have hread : Memory.readN (s.writeStore (b.key + 16 + 8 * j) 8 (key + x * 2 ^ 32) false).mem (b.key + 16 + 8 * j) 8 = key + x * 2 ^ 32 :=
    (Memory.readN_writeN _ _ _ hm).trans (Nat.mod_eq_of_lt (by omega))
  simp only [State.slotAt, State.readStore, hread, Prod.mk.injEq]
  exact ⟨by omega, by omega, poisonIn_writeStore hp⟩

/-- Every other slot without poison stays as it is. -/
theorem slotAt_other {b : Table} {j i v : Nat} (hm : s.memWf = true) (h : i ≠ j) (hp : (s.slotAt b i).2.2 = false) :
    (s.writeStore (b.key + 16 + 8 * j) 8 v false).slotAt b i = s.slotAt b i := by
  have hread : Memory.readN (s.writeStore (b.key + 16 + 8 * j) 8 v false).mem (b.key + 16 + 8 * i) 8 = Memory.readN s.mem (b.key + 16 + 8 * i) 8 :=
    Memory.readN_writeN_of_out hm (by omega)
  simp only [State.slotAt, State.readStore] at hp ⊢
  rw [hread, hp, poisonIn_writeStore hp]

/-- Slots that a probe visits within the table's size differ. -/
theorem probeSlot_ne {n h i k : Nat} (hik : i < k) (hk : k < n) : (h + i) % n ≠ (h + k) % n := by
  intro e
  have := Nat.ModEq.add_left_cancel' h e
  rw [Nat.ModEq, Nat.mod_eq_of_lt (by omega), Nat.mod_eq_of_lt hk] at this
  omega

/-- A probe that ends at an empty slot has passed over slots of other keys only. -/
theorem probe_claim {b : Table} {key x j old : Nat} (hm : s.memWf = true) (hk : key < 2 ^ 32 - 1) (hx : x < 2 ^ 32) :
    ∀ (n i : Nat), i + n ≤ b.slots → s.probe b key n i = some (j, false, old, false) →
      (∃ m, i ≤ m ∧ m < i + n ∧ j = (homeSlot b.slots key + m) % b.slots) ∧
      (s.writeStore (b.key + 16 + 8 * j) 8 (key + x * 2 ^ 32) false).probe b key n i = some (j, true, x, false)
  | 0, i, _, h => by simp [State.probe] at h
  | n + 1, i, hb, h => by
    unfold State.probe at h ⊢
    dsimp only at h ⊢
    by_cases hp : (s.slotAt b ((homeSlot b.slots key + i) % b.slots)).2.2 = true
    · simp [hp] at h
    · rw [if_neg hp] at h
      by_cases hkey : (s.slotAt b ((homeSlot b.slots key + i) % b.slots)).1 = key
      · simp [hkey] at h
      · rw [if_neg hkey] at h
        have hp' := Bool.eq_false_iff.2 hp
        by_cases he : (s.slotAt b ((homeSlot b.slots key + i) % b.slots)).1 = 2 ^ 32 - 1
        · rw [if_pos he] at h
          obtain ⟨rfl, -⟩ := Prod.mk.inj (Option.some.inj h)
          refine ⟨⟨i, le_rfl, by omega, rfl⟩, ?_⟩
          rw [slotAt_claimed hm (show key < 2 ^ 32 by omega) hx hp']
          simp
        · rw [if_neg he] at h
          obtain ⟨⟨m, h1, h2, hj⟩, hrest⟩ := probe_claim hm hk hx n (i + 1) (by omega) h
          have hne : (homeSlot b.slots key + i) % b.slots ≠ j := hj ▸ probeSlot_ne (by omega) (by omega)
          refine ⟨⟨m, by omega, by omega, hj⟩, ?_⟩
          rw [slotAt_other hm hne hp', if_neg hp, if_neg hkey, if_neg he, hrest]

/-! ### HACC and HFIND -/

section
variable {t1 t' : State} {sh : Shape} {v : Opnds} {b : Table}

/-- A destination write of the current instruction. -/
theorem M.writeD_of_writes {w : Nat} {x : Lanes} (hir : r.ir = s.ir) (h : Writes r s.ir.d w x t) : writeD w x r = .ok ((), t) := by
  simp only [writeD, M.bind_run, M.ops_run, hir]
  exact h

/-- The body of HACC. -/
def haccBody : M Unit := do
  let v ← fetch {} .int
  let t ← hashTable v true
  let key := (v.a 0).w32.toNat
  let op := (← ops).x8.toNat % 16
  let out (n : Nat) : M Unit := writeD 1 (fun _ => Val.of (BitVec.ofNat 64 n))
  if t.poison then writeD 1 (fun _ => Val.bad)
  else if t.bad then out 4
  else if key = 2 ^ 32 - 1 then out 3
  else
    match (← get).probe t key t.lim 0 with
    | none => out 2
    | some (_, _, _, true) => writeD 1 (fun _ => Val.bad)
    | some (j, true, old, false) =>
      modify (fun s => s.writeStore (t.key + 16 + 8 * j + 4) 4 (atomicNew op 32 old (v.b 0).w32.toNat 0) false)
      out (2 ^ 16 * j)
    | some (j, false, _, false) =>
      modify (fun s => (s.writeStore (t.key + 16 + 8 * j) 8 (key + (v.b 0).w32.toNat * 2 ^ 32) false).writeStore
        (t.key + 8) 4 ((t.used + 1) % 2 ^ 32) false)
      out (1 + 2 ^ 16 * j)

/-- The body of HFIND. -/
def hfindBody : M Unit := do
  let v ← fetch { d := 2, b := 0 } .int
  let t ← hashTable v false
  let key := (v.a 0).w32.toNat
  let out (x n : Nat) : M Unit := writeD 2 (fun _ => Val.of (BitVec.ofNat 64 (x + n * 2 ^ 32)))
  if t.poison then writeD 2 (fun _ => Val.bad)
  else if t.bad then out 0 4
  else if key = 2 ^ 32 - 1 then out 0 3
  else
    match (← get).probe t key t.lim 0 with
    | some (_, _, _, true) => writeD 2 (fun _ => Val.bad)
    | some (_, true, x, false) => out x 0
    | _ => out 0 1

theorem exec_hacc (s : State) : exec .hacc s = meaning (insn .hacc {} haccBody) s := rfl

theorem exec_hfind (s : State) : exec .hfind s = meaning (insn .hfind { d := 2, b := 0 } hfindBody) s := rfl

/-- A hash instruction that has its table changes the store, and writes its result. -/
theorem hash_completes {r : State} {data : Bool} {body : M Unit} (he : Executes s u sh) (hd : Delivers s u sh .int v t)
    (ht : hashTable v data t = .ok (b, t1)) (hs : SameUnit t1 r) {w : Nat} {x : Lanes} {i : Instr} (hw : Writes r s.ir.d w x t')
    (hb : writeD w x r = .ok ((), t') → body (s.past u) = .ok ((), t')) : meaning (insn i sh body) s = .next (s.closed t' u i sh) := by
  have h1 : SameUnit (s.past u) r := (hd.sameUnit.trans (hashTable_sameUnit _ _ _ _ _ ht)).trans hs
  exact insn_completes_of_sameUnit he (hb (M.writeD_of_writes (h1.2.1.trans (State.past_ir s u)) hw)) (h1.trans hw.sameUnit)

end

end Sys2Proof.Machine
end

section open Sys2Proof Machine

/-- Settles O25: the branches of HACC and HFIND over the table they find, and the probe that finds what a claim has stored. -/
theorem hashTablesComplete : Obligations.HashTablesComplete := by
  unfold Obligations.HashTablesComplete
  refine ⟨?_, ?_, ?_⟩
  · intro s t t1 t' tm tid v b
    dsimp only
    intro he hd ht hp
    have hfetch : fetch {} .int (s.past (.ex tm tid)) = .ok (v, t) := hd
    have hir : t1.ir = s.ir := ((hd.sameUnit.trans (hashTable_sameUnit _ _ _ _ _ ht)).2.1).trans (State.past_ir s _)
    have hstart := fun (r : State) (n : Nat) (hs : SameUnit t1 r)
      (hw : Writes r s.ir.d 1 (fun _ => Val.of (BitVec.ofNat 64 n)) t') => hash_completes (i := .hacc) (body := haccBody) he hd ht hs hw
    refine ⟨fun hb hw => ?_, fun hb hk hw => ?_, fun hb hk hpr hw => ?_, fun j old hb hk hpr hw => ?_, fun j old hb hk hpr hw => ?_⟩
    · refine (exec_hacc s).trans (hstart _ _ (SameUnit.refl t1) hw fun hd => ?_)
      simp only [haccBody, M.bind_run, hfetch, ht, M.ops_run, hp, hb, Bool.false_eq_true, if_false, if_true, hd]
    · refine (exec_hacc s).trans (hstart _ _ (SameUnit.refl t1) hw fun hd => ?_)
      simp only [haccBody, M.bind_run, hfetch, ht, M.ops_run, hp, hb, Bool.false_eq_true, if_false, if_pos hk, hd]
    · refine (exec_hacc s).trans (hstart _ _ (SameUnit.refl t1) hw fun hd => ?_)
      simp only [haccBody, M.bind_run, hfetch, ht, M.ops_run, hp, hb, Bool.false_eq_true, if_false, if_neg hk, M.get_run, hpr, hd]
    · refine (exec_hacc s).trans (hstart _ _ (writeStore_sameUnit _ _ _ _ _) hw fun hd => ?_)
      simp only [haccBody, M.bind_run, hfetch, ht, M.ops_run, hp, hb, Bool.false_eq_true, if_false, if_neg hk, M.get_run, hpr, M.modify_run,
        hir, hd]
    · refine (exec_hacc s).trans (hstart _ _ ((writeStore_sameUnit _ _ _ _ _).trans (writeStore_sameUnit _ _ _ _ _)) hw fun hd => ?_)
      simp only [haccBody, M.bind_run, hfetch, ht, M.ops_run, hp, hb, Bool.false_eq_true, if_false, if_neg hk, M.get_run, hpr, M.modify_run,
        hd]
  · intro s t t1 t' tm tid v b
    dsimp only
    intro he hd ht hp
    have hfetch : fetch { d := 2, b := 0 } .int (s.past (.ex tm tid)) = .ok (v, t) := hd
    have hstart := fun (x n : Nat)
      (hw : Writes t1 s.ir.d 2 (fun _ => Val.of (BitVec.ofNat 64 (x + n * 2 ^ 32))) t') => hash_completes (i := .hfind) (body := hfindBody) he hd ht (SameUnit.refl t1) hw
    refine ⟨fun hb hw => ?_, fun hb hk hw => ?_, fun j x hb hk hpr hw => ?_, fun hb hk hpr hw => ?_⟩
    · refine (exec_hfind s).trans (hstart _ _ hw fun hd => ?_)
      simp only [hfindBody, M.bind_run, hfetch, ht, hp, hb, Bool.false_eq_true, if_false, if_true, hd]
    · refine (exec_hfind s).trans (hstart _ _ hw fun hd => ?_)
      simp only [hfindBody, M.bind_run, hfetch, ht, hp, hb, Bool.false_eq_true, if_false, if_pos hk, hd]
    · refine (exec_hfind s).trans (hstart _ _ hw fun hd => ?_)
      simp only [hfindBody, M.bind_run, hfetch, ht, hp, hb, Bool.false_eq_true, if_false, if_neg hk, M.get_run, hpr, hd]
    · refine (exec_hfind s).trans (hstart _ _ hw fun hd => ?_)
      rcases hpr with hpr | ⟨j, x, hpr⟩ <;>
        simp only [hfindBody, M.bind_run, hfetch, ht, hp, hb, Bool.false_eq_true, if_false, if_neg hk, M.get_run, hpr, hd]
  · intro s b key x j old hm _ hk hx hl hpr
    exact (probe_claim hm hk hx b.lim 0 (by omega) hpr).2

end


section
/-! SUPPORT. Rows reserved at a port's push position, and the loads that fill them (R182, R215, R216). -/

namespace Sys2Proof.Machine

variable {s t t1 r : State} {u : Agent} {tm sp n : Nat} {i : Instr} {sh : Shape} {p q : Port} {x : ApThread} {rows : List (List Slot)}

theorem M.boundPort_run (hcur : s.cur = some (.ap tm sp)) (hp : s.ports.find (portKey (stripKey tm sp) n) = some p) :
    boundPort n s = .ok (p, s) := by
  simp only [boundPort, M.bind_run, M.get_run, myStrip, M.unit_run hcur, M.pure_run, hp]

theorem M.portKeyOf_run (hcur : s.cur = some (.ap tm sp)) (n : Nat) : portKeyOf n s = .ok (portKey (stripKey tm sp) n, s) := by
  simp only [portKeyOf, M.bind_run, myStrip, M.unit_run hcur, M.pure_run]

/-- Rows appended at the push position of a strip's port. -/
def State.rowsReserved (s : State) (tm sp n : Nat) (q : Port) (rows : List (List Slot)) : State :=
  ({ s with ports := s.ports.put (portKey (stripKey tm sp) n) { q with rows := q.rows ++ rows, reserve := q.reserve + rows.length } } : State).retireIdle
    tm sp (portKey (stripKey tm sp) n)

theorem Calm.retireIdle (s : State) (a b k : Nat) : Calm s (s.retireIdle a b k) := by
  unfold State.retireIdle
  split
  · exact Calm.refl s
  · exact Calm.retire s a b k

theorem rowsReserved_calm (s : State) (tm sp n : Nat) (q : Port) (rows : List (List Slot)) : Calm s (s.rowsReserved tm sp n q rows) :=
  (Calm.ports s _).trans (Calm.retireIdle _ _ _ _)

theorem M.pushRows_run (hcur : s.cur = some (.ap tm sp)) (hq : s.ports.find (portKey (stripKey tm sp) n) = some q)
    (hpast : q.past q.reserve = false) (hroom : q.reserve + rows.length ≤ q.head + q.depth) :
    pushRows n rows s = .ok (q.reserve, s.rowsReserved tm sp n q rows) := by
  simp only [pushRows, M.bind_run, M.get_run, M.unit_run hcur, hq, hpast, Bool.false_eq_true, if_false, decide_eq_true hroom, M.waitUnless_true,
    M.pure_run, M.set_run]
  rfl

/-- The loads of reserved rows, each a request or a token. -/
def State.portLoads (r : State) (u : Agent) (pc : Nat) (need : Need) (kind : Nat → ReqKind) (xs : List (Spot × Nat × Landing)) : List Req :=
  xs.map (fun x => portLoad r u (.unit u) pc (r.finishSpot (r.ctxOf u) x.1 need) x.1 (kind x.2.1) x.2.1 x.2.2)

theorem portLoad_once (s : State) (u : Agent) (o : Owner) (a : Nat) (y : Except TrapInfo Acc) (sp : Spot) (l : Nat) (ld : Landing) :
    (portLoad s u o a y sp .load l ld).once = false := by
  cases y <;> rfl

theorem M.loadRows_run {need : Need} {pc : Nat} (xs : List (Spot × Nat × Landing)) (hcur : r.cur = some u) (hh : here r = .ok (pc, r)) :
    loadRows need (fun _ => .load) xs r = .ok ((), r.injectAll (r.portLoads u pc need (fun _ => .load) xs)) := by
  have hnone : ((r.portLoads u pc need (fun _ => .load) xs).filter (·.once)).length = 0 := by
    rw [List.length_eq_zero_iff, List.filter_eq_nil_iff]
    intro y hy
    obtain ⟨x, _, rfl⟩ := List.mem_map.1 hy
    rw [portLoad_once]
    exact Bool.false_ne_true
  have hroom : r.replyRoom u ((r.portLoads u pc need (fun _ => .load) xs).filter (·.once)).length = true := by rw [hnone]; rfl
  simp only [loadRows, M.bind_run, M.unit_run hcur, hh, M.get_run]
  have hwait := M.awaitReplies_run hcur hroom
  unfold State.portLoads at hwait
  simp only [hwait]
  rfl

theorem injectAll_sameUnit (s : State) (rs : List Req) : SameUnit s (s.injectAll rs) :=
  sameUnit_local.toFrames.foldl (f := fun s r => { s.inject s.fresh r with fresh := s.fresh + 1 })
    (fun _ _ => sameUnit_of_units rfl rfl rfl rfl rfl) rs s

/-- An access thread with an active lane runs the body, whether or not it would run with none. -/
theorem insnWith_active {idle : Bool} {body : M Unit} (he : Executes s (.ap tm sp) sh) : insnWith i sh idle body s = insn i sh body s := by
  obtain ⟨hcur, x, hx, hp, hn⟩ := he
  simp only [insn, insnWith, M.bind_run, M.ops_run, M.unit_run hcur, M.apThread_run hcur hx, hp, ne_eq, hn, not_false_iff, true_or, if_true]

/-- The active lanes of an access thread, in every state that its reading leaves. -/
theorem M.lanes_calm (h : Calm (s.past (.ap tm sp)) t) (hcur : s.cur = some (.ap tm sp)) (hx : s.aps.find (stripKey tm sp) = some x) :
    lanes t = .ok ((apGuard x s.ir).bits, t) := by
  obtain ⟨y, hy, e⟩ := h.apThread_run hcur hx
  have hct := h.cur.trans ((State.past_cur s _).trans hcur)
  have hguard : apGuard y t.ir = apGuard x s.ir := by
    rw [h.ir.trans (State.past_ir s _), ← e]
    rfl
  simp only [lanes, M.bind_run, M.unit_run hct, hy, M.ops_run, M.pure_run, hguard]

/-- The row of one element a lane (R216). -/
def laneRow (act : BitVec 16) : List Slot := (List.range 16).map (fun l => if act.getLsbD l then .pending else .data 0 false)

/-! ### LQ, LQG and LQL -/

/-- The body of LQ. -/
def lqInsnBody (o : Ops) : M Unit := do
  checkPorts { d := 0, a := 0, c := 0 }
  let n := objPort o.d
  let p ← boundPort n
  if p.kind ≠ .acc ∨ p.mode ≠ .elem then stopTrap (portTrap 2 n)
  lqBody (lqWant o.x8.toNat) p n

/-- The body of LQL. -/
def lqlInsnBody (o : Ops) : M Unit := do
  let sh : Shape := { d := 0, a := 0 }
  checkPorts sh
  let n := objPort o.d
  let p ← boundPort n
  if p.kind ≠ .acc ∨ p.mode = .elem then stopTrap (portTrap 2 n)
  let v ← fetch sh .offset
  let act ← lanes
  let l := lowLane act
  let cnt := (heldVal (v.c l)).bits.toNat
  let ps ← spots (lqWant o.x8.toNat 64) v [l] false false false
  if cnt < 1 ∨ cnt > 64 ∨ (p.mode = .rline ∧ cnt % 16 ≠ 0) then stopTrap (portTrap 3 n)
  match ps with
  | (_, sp) :: _ =>
    let spread := p.mode == .sline
    let lines := ((List.range cnt).filter (fun i => spread || act.getLsbD (i % 16))).map (fun i => (i, sp.shift (64 * i)))
    if lines.any (fun x => x.2.inSem) then stopTrap (accTrap 0x24 8 sp.hidx sp.loc)
    let key ← portKeyOf n
    let row : List Slot := (List.range 16).map (fun l => if spread || act.getLsbD l then .pending else zeroSlot)
    let k ← pushRows n (List.replicate (if spread then cnt else cnt / 16) row)
    loadRows .rd (fun _ => .load) (lines.map (fun x =>
      (x.2, 255, if spread then Landing.line key (k + x.1) else .port key (k + x.1 / 16) (x.1 % 16))))
  | [] => pure ()

theorem exec_lq (s : State) : exec .lq s = meaning (insn .lq { d := 0, a := 0, c := 0 } (lqInsnBody s.ir)) s :=
  meaning_read (M.ops_run s)

theorem exec_lql (s : State) : exec .lql s = meaning (insn .lql { d := 0, a := 0 } (lqlInsnBody s.ir)) s :=
  meaning_read (M.ops_run s)

section
variable {v : Opnds} {pc : Nat} {ps : List (Nat × Spot)} {xs : Nat → List (Spot × Nat × Landing)}

/-- Rows reserved and their loads sent. -/
def State.rowsSent (s t1 : State) (tm sp n : Nat) (q : Port) (rows : List (List Slot)) (xs : List (Spot × Nat × Landing)) : State :=
  (t1.rowsReserved tm sp n q rows).injectAll
    ((t1.rowsReserved tm sp n q rows).portLoads (.ap tm sp) (s.pcAt (.ap tm sp)) .rd (fun _ => .load) xs)

theorem rowsSent_sameUnit (s t1 : State) (tm sp n : Nat) (q : Port) (rows : List (List Slot)) (xs : List (Spot × Nat × Landing)) :
    SameUnit t1 (s.rowsSent t1 tm sp n q rows xs) :=
  (rowsReserved_calm t1 tm sp n q rows).sameUnit.trans (injectAll_sameUnit _ _)

section
variable {want : Nat → Want} (he : Executes s (.ap tm sp) sh) (hpc : s.pcAt (.ap tm sp) < 2 ^ 64)
  (hx : s.aps.find (stripKey tm sp) = some x) (hcalm : Calm (s.past (.ap tm sp)) t1)
  (hq : t1.ports.find (portKey (stripKey tm sp) n) = some q) (hpast : q.past q.reserve = false)
include he hpc hcalm

theorem M.loadRows_reserved (xs : List (Spot × Nat × Landing)) :
    loadRows .rd (fun _ => .load) xs (t1.rowsReserved tm sp n q rows) = .ok ((), s.rowsSent t1 tm sp n q rows xs) := by
  have hr := hcalm.trans (rowsReserved_calm t1 tm sp n q rows)
  exact M.loadRows_run xs (hr.cur.trans he.past_cur) (M.here_calm he hpc hr)

include hx hq hpast

theorem lqBody_run (hd : Delivers s (.ap tm sp) { d := 0, a := 0, c := 0 } .offset v t)
    (hs : spots (want p.bytes) v (laneList (apGuard x s.ir).bits) true false false t = .ok (ps, t1))
    (hroom : q.reserve + 1 ≤ q.head + q.depth) :
    lqBody want p n (s.past (.ap tm sp)) = .ok ((), s.rowsSent t1 tm sp n q [laneRow (apGuard x s.ir).bits]
      (ps.map (fun y => (y.2, y.1, .port (portKey (stripKey tm sp) n) q.reserve y.1)))) := by
  have hfetch : fetch { d := 0, a := 0, c := 0 } .offset (s.past (.ap tm sp)) = .ok (v, t) := hd
  have hcur := hcalm.cur.trans he.past_cur
  have hr := hcalm.trans (rowsReserved_calm t1 tm sp n q [laneRow (apGuard x s.ir).bits])
  have hpush := M.pushRows_run (rows := [laneRow (apGuard x s.ir).bits]) hcur hq hpast hroom
  have hkey := M.portKeyOf_run (hr.cur.trans he.past_cur) n
  unfold laneRow at hpush hkey
  simp only [lqBody, M.bind_run, M.lanes_calm (Calm.refl _) he.1 hx, hfetch, hs, zeroSlot, hpush, hkey]
  exact M.loadRows_reserved he hpc hcalm _

theorem lqgBody_sline_run (hm : p.mode = .sline) (hd : Delivers s (.ap tm sp) { d := 0, a := 0, c := 0 } .offset v t)
    (hs : spots (want 64) v (laneList (apGuard x s.ir).bits) true false false t = .ok (ps, t1))
    (hroom : q.reserve + (laneList (apGuard x s.ir).bits).length ≤ q.head + q.depth) :
    lqgBody want p n (s.past (.ap tm sp)) = .ok ((), s.rowsSent t1 tm sp n q
      (List.replicate (laneList (apGuard x s.ir).bits).length (List.replicate 16 .pending))
      (ps.zipIdx.map (fun y => (y.1.2, y.1.1, .line (portKey (stripKey tm sp) n) (q.reserve + y.2))))) := by
  have hfetch : fetch { d := 0, a := 0, c := 0 } .offset (s.past (.ap tm sp)) = .ok (v, t) := hd
  have hcur := hcalm.cur.trans he.past_cur
  have hpush := M.pushRows_run (rows := List.replicate (laneList (apGuard x s.ir).bits).length (List.replicate 16 .pending)) hcur hq hpast
    (by rwa [List.length_replicate])
  simp only [lqgBody, M.bind_run, M.lanes_calm (Calm.refl _) he.1 hx, hfetch, hs, M.portKeyOf_run hcur, hm, if_true, List.map_const', hpush]
  exact M.loadRows_reserved he hpc hcalm _

theorem lqgBody_rline_run (hm : p.mode ≠ .sline) (hd : Delivers s (.ap tm sp) { d := 0, a := 0, c := 0 } .offset v t)
    (hs : spots (want 64) v (laneList (apGuard x s.ir).bits) true false false t = .ok (ps, t1))
    (hroom : q.reserve + 1 ≤ q.head + q.depth) :
    lqgBody want p n (s.past (.ap tm sp)) = .ok ((), s.rowsSent t1 tm sp n q [laneRow (apGuard x s.ir).bits]
      (ps.map (fun y => (y.2, y.1, .port (portKey (stripKey tm sp) n) q.reserve y.1)))) := by
  have hfetch : fetch { d := 0, a := 0, c := 0 } .offset (s.past (.ap tm sp)) = .ok (v, t) := hd
  have hcur := hcalm.cur.trans he.past_cur
  have hpush := M.pushRows_run (rows := [laneRow (apGuard x s.ir).bits]) hcur hq hpast hroom
  unfold laneRow at hpush
  simp only [lqgBody, M.bind_run, M.lanes_calm (Calm.refl _) he.1 hx, hfetch, hs, M.portKeyOf_run hcur, hm, if_false, zeroSlot, hpush]
  exact M.loadRows_reserved he hpc hcalm _

omit hpc hx hq hpast hcalm in
theorem lqInsnBody_run (hp : s.ports.find (portKey (stripKey tm sp) n) = some p) (hn : objPort s.ir.d = n) (hk : p.kind = .acc)
    (hm : p.mode = .elem) (hc : checkPorts { d := 0, a := 0, c := 0 } (s.past (.ap tm sp)) = .ok ((), s.past (.ap tm sp))) :
    lqInsnBody s.ir (s.past (.ap tm sp)) = lqBody (lqWant s.ir.x8.toNat) p n (s.past (.ap tm sp)) := by
  have hbound := M.boundPort_run (n := n) he.past_cur (by rw [State.past_ports]; exact hp)
  simp only [lqInsnBody, M.bind_run, hc, hn, hbound, hk, hm, ne_eq, not_true_eq_false, or_self, if_false]

omit hpc hx hq hpast hcalm in
theorem lqgRest_run (hp : s.ports.find (portKey (stripKey tm sp) n) = some p) (hn : objPort s.ir.d = n) (hk : p.kind = .acc)
    (hm : p.mode ≠ .elem) (hc : checkPorts { d := 0, a := 0, c := 0 } (s.past (.ap tm sp)) = .ok ((), s.past (.ap tm sp))) :
    lqgRest s.ir (s.past (.ap tm sp)) = lqgBody (lqWant s.ir.x8.toNat) p n (s.past (.ap tm sp)) := by
  have hbound := M.boundPort_run (n := n) he.past_cur (by rw [State.past_ports]; exact hp)
  simp only [lqgRest, M.bind_run, hc, hn, hbound, hk, hm, ne_eq, not_true_eq_false, or_self, if_false]

omit hpc hx hq hpast hcalm in
/-- With an active lane the rest of LQG or RLQ is its body. -/
theorem idleChecked_completes {rest : M Unit} {m : Nat} (hrun : rest (s.past (.ap tm sp)) = .ok ((), t))
    (hs : SameUnit (s.past (.ap tm sp)) t) : meaning (idleChecked i sh m rest) s = .next (s.closed t (.ap tm sp) i sh) := by
  obtain ⟨x, hx, hz, hne⟩ := he.2
  have hbody : (do if (← lanes) = 0 then slineCheck m else rest : M Unit) (s.past (.ap tm sp)) = .ok ((), t) := by
    simp only [M.bind_run, M.lanes_calm (Calm.refl _) he.1 hx, hne, if_false, hrun]
  refine Eq.trans ?_ (insn_completes_of_sameUnit he hbody hs)
  simp only [meaning, he.1, runUnit, idleChecked, insnWith_active he]

theorem lqlBody_run {y : Spot} {l cnt : Nat} {lines : List Nat} (hp : s.ports.find (portKey (stripKey tm sp) n) = some p)
    (hn : objPort s.ir.d = n) (hk : p.kind = .acc) (hm : p.mode ≠ .elem)
    (hc : checkPorts { d := 0, a := 0 } (s.past (.ap tm sp)) = .ok ((), s.past (.ap tm sp)))
    (hd : Delivers s (.ap tm sp) { d := 0, a := 0 } .offset v t)
    (hcnt : cnt = (heldVal (v.c (s.lead (.ap tm sp)))).bits.toNat)
    (hlines : lines = (List.range cnt).filter (fun j => p.mode == .sline || (apGuard x s.ir).bits.getLsbD (j % 16)))
    (hs : spots (lqWant s.ir.x8.toNat 64) v [s.lead (.ap tm sp)] false false false t = .ok ([(l, y)], t1))
    (h1 : 1 ≤ cnt) (h64 : cnt ≤ 64) (h16 : p.mode = .rline → cnt % 16 = 0) (hsem : ∀ j ∈ lines, (y.shift (64 * j)).inSem = false)
    (hroom : q.reserve + (if p.mode = .sline then cnt else cnt / 16) ≤ q.head + q.depth) :
    lqlInsnBody s.ir (s.past (.ap tm sp)) = .ok ((), s.rowsSent t1 tm sp n q
      (List.replicate (if p.mode = .sline then cnt else cnt / 16)
        (if p.mode = .sline then List.replicate 16 .pending else laneRow (apGuard x s.ir).bits))
      (lines.map (fun j => (y.shift (64 * j), 255,
        if p.mode = .sline then Landing.line (portKey (stripKey tm sp) n) (q.reserve + j)
        else .port (portKey (stripKey tm sp) n) (q.reserve + j / 16) (j % 16))))) := by
  have hfetch : fetch { d := 0, a := 0 } .offset (s.past (.ap tm sp)) = .ok (v, t) := hd
  have hcur := hcalm.cur.trans he.past_cur
  have hlead : lowLane (apGuard x s.ir).bits = s.lead (.ap tm sp) := by simp only [State.lead, hx, Option.elim_some]
  have hkind : ¬ (p.kind ≠ .acc ∨ p.mode = .elem) := fun h => h.elim (· hk) hm
  have hbound := M.boundPort_run (n := n) he.past_cur (by rw [State.past_ports]; exact hp)
  have hok : ¬ (cnt < 1 ∨ cnt > 64 ∨ (p.mode = .rline ∧ cnt % 16 ≠ 0)) := by
    rintro (h | h | ⟨h, h'⟩)
    · omega
    · omega
    · exact h' (h16 h)
  have hsem' : (lines.map (fun i => (i, y.shift (64 * i)))).any (fun x => x.2.inSem) = false := by
    rw [List.any_eq_false]
    intro z hz
    obtain ⟨j, hj, rfl⟩ := List.mem_map.1 hz
    rw [hsem j hj]
    exact Bool.false_ne_true
  have hpush := M.pushRows_run (rows := List.replicate (if p.mode = .sline then cnt else cnt / 16)
    (if p.mode = .sline then List.replicate 16 .pending else laneRow (apGuard x s.ir).bits)) hcur hq hpast (by rwa [List.length_replicate])
  simp only [lqlInsnBody, M.bind_run, hc, hn, hbound, if_neg hkind, hfetch, M.lanes_calm hd.calm he.1 hx, hlead, ← hcnt, hs,
    if_neg hok, ← hlines, hsem', Bool.false_eq_true, if_false, M.portKeyOf_run hcur]
  by_cases hsl : p.mode = .sline
  · rw [if_pos hsl, if_pos hsl] at hpush
    simp only [hsl, beq_self_eq_true, Bool.true_or, if_true, List.map_const', List.length_range, hpush, List.map_map]
    exact M.loadRows_reserved he hpc hcalm _
  · rw [if_neg hsl, if_neg hsl] at hpush
    unfold laneRow at hpush
    simp only [beq_eq_false_iff_ne.2 hsl, Bool.false_or, Bool.false_eq_true, if_false, zeroSlot, hpush, List.map_map, if_neg hsl]
    exact M.loadRows_reserved he hpc hcalm _

end

end

end Sys2Proof.Machine
end

section open Sys2Proof Machine

/-- Settles O26: each queue load brought to its rows, which it reserves, and to the loads that fill them. -/
theorem queueLoadsComplete : Obligations.QueueLoadsComplete := by
  unfold Obligations.QueueLoadsComplete
  intro s t t1 tm sp n p q x v ps u key act reserve send row blank hx hn hp hk hpc hq hpast
  refine ⟨?_, ?_, ?_, ?_⟩
  · intro sh he hm hc hd hs hroom
    have hcalm := hd.calm.trans (spots_calm _ _ _ _ _ _ _ _ _ hs)
    have hrun := (lqInsnBody_run he hp hn hk hm hc).trans (lqBody_run he hpc hx hcalm hq hpast hd hs hroom)
    exact (exec_lq s).trans (insn_completes_of_sameUnit he hrun (hcalm.sameUnit.trans (rowsSent_sameUnit _ _ _ _ _ _ _ _)))
  · intro sh he hm hc hd hs hroom
    have hcalm := hd.calm.trans (spots_calm _ _ _ _ _ _ _ _ _ hs)
    have hrun := (lqgRest_run he hp hn hk (by rw [hm]; decide) hc).trans
      (lqgBody_rline_run he hpc hx hcalm hq hpast (by rw [hm]; decide) hd hs hroom)
    exact (exec_lqg s).trans (idleChecked_completes he hrun (hcalm.sameUnit.trans (rowsSent_sameUnit _ _ _ _ _ _ _ _)))
  · intro sh k he hm hc hd hs hroom
    have hcalm := hd.calm.trans (spots_calm _ _ _ _ _ _ _ _ _ hs)
    have hrun := (lqgRest_run he hp hn hk (by rw [hm]; decide) hc).trans (lqgBody_sline_run he hpc hx hcalm hq hpast hm hd hs hroom)
    exact (exec_lqg s).trans (idleChecked_completes he hrun (hcalm.sameUnit.trans (rowsSent_sameUnit _ _ _ _ _ _ _ _)))
  · intro sh cnt rows lines l y he hm hc hd hs h1 h64 h16 hsem hroom
    have hcalm := hd.calm.trans (spots_calm _ _ _ _ _ _ _ _ _ hs)
    have hrun := lqlBody_run he hpc hx hcalm hq hpast hp hn hk hm hc hd rfl rfl hs h1 h64 h16 hsem hroom
    exact (exec_lql s).trans (insn_completes_of_sameUnit he hrun (hcalm.sameUnit.trans (rowsSent_sameUnit _ _ _ _ _ _ _ _)))

end


section
/-! SUPPORT. Reading a line of HBM into the L2 and an L1 moves no unit (R155-R158). -/

namespace Sys2Proof.Machine

variable {s t t1 t2 r : State} {u : Agent}

theorem toMemory_sameUnit (s : State) (x : L2Sector) : SameUnit s (s.toMemory x) := by
  unfold State.toMemory
  split
  · exact writeStore_sameUnit _ _ _ _ _
  · exact sameUnit_of_units rfl rfl rfl rfl rfl

theorem writeBack_sameUnit (s : State) (n : Nat) : SameUnit s (s.writeBack n) := by
  unfold State.writeBack
  split
  · next x _ =>
    split
    · exact (toMemory_sameUnit s x).trans (sameUnit_of_units rfl rfl rfl rfl rfl)
    · exact SameUnit.refl s
  · exact SameUnit.refl s

theorem dropSector_sameUnit (s : State) (n : Nat) : SameUnit s (s.dropSector n) := by
  unfold State.dropSector
  split
  · exact SameUnit.refl s
  · exact (writeBack_sameUnit s n).trans (sameUnit_of_units rfl rfl rfl rfl rfl)

theorem l2Fit_sameUnit (s : State) (ia : Nat) (v : Via) : SameUnit s (s.l2Fit ia v) := by
  unfold State.l2Fit
  dsimp only
  split
  · exact SameUnit.refl s
  · exact sameUnit_local.toFrames.foldl (f := State.dropSector) dropSector_sameUnit _ s

theorem l2Keep_sameUnit (s : State) (n : Nat) (x : L2Sector) (v : Via) : SameUnit s (s.l2Keep n x v) := by
  have hroom : SameUnit s (s.l2Room x.slice (n / 2)) := by
    unfold State.l2Room
    dsimp only
    split
    · exact SameUnit.refl s
    · split
      · exact (dropSector_sameUnit s _).trans (dropSector_sameUnit _ _)
      · exact SameUnit.refl s
  exact hroom.trans (sameUnit_of_units rfl rfl rfl rfl rfl)

theorem readL2_sameUnit (s : State) (ia n : Nat) (v : Via) : SameUnit s (s.readL2 ia n v).2 := by
  unfold State.readL2
  dsimp only
  split
  · exact l2Fit_sameUnit s ia v
  · exact (l2Fit_sameUnit s ia v).trans (l2Keep_sameUnit _ _ _ _)

theorem foldl_snd {α β : Type} {P : State → State → Prop} (h : Frames P) {f : β × State → α → β × State}
    (hf : ∀ x a, P x.2 (f x a).2) (l : List α) (x : β × State) : P x.2 (l.foldl f x).2 := by
  induction l generalizing x with
  | nil => exact h.refl _
  | cons a l ih => exact h.trans (hf x a) (ih _)

/-- One part of a read, in one sector. -/
def readPart (ia : Nat) (v : Via) (acc : (Nat × Bool) × State) (q : Nat × Nat) : (Nat × Bool) × State :=
  let r := acc.2.readL2 (ia + q.1) q.2 (v.plus q.1)
  ((acc.1.1 + r.1.1 * 2 ^ (8 * q.1), acc.1.2 || r.1.2), r.2)

theorem readPart_sameUnit (ia : Nat) (v : Via) (acc : (Nat × Bool) × State) (q : Nat × Nat) : SameUnit acc.2 (readPart ia v acc q).2 :=
  readL2_sameUnit acc.2 (ia + q.1) q.2 (v.plus q.1)

theorem readLocal_eq (s : State) (ia n : Nat) (v : Via) :
    s.readLocal ia n v = (sectorParts ia n).foldl (readPart ia v) ((0, false), s) := rfl

theorem readLocal_sameUnit (s : State) (ia n : Nat) (v : Via) : SameUnit s (s.readLocal ia n v).2 := by
  rw [readLocal_eq]
  exact foldl_snd sameUnit_local.toFrames (readPart_sameUnit ia v) _ ((0, false), s)

theorem l1After_sameUnit (s : State) (r : Req) (v : Via) : SameUnit s (s.l1After r v) := by
  unfold State.l1After
  split
  · split
    · exact ((readLocal_sameUnit s _ _ _).trans (readLocal_sameUnit _ _ _ _)).trans (sameUnit_of_units rfl rfl rfl rfl rfl)
    · exact sameUnit_of_units rfl rfl rfl rfl rfl
  · exact SameUnit.refl s

/-- A load that the memory side answers. -/
theorem serve_load_sameUnit {pi : Nat} {p : Partition} {w : Walk} {x : Req} {v : Nat} {b : Bool} (hk : x.kind = .load)
    (h : s.serve pi p w x = .ok v b t) : SameUnit s t := by
  unfold State.serve at h
  split at h
  · cases h
  · split at h
    · cases h
    · cases h
    · cases h
      exact SameUnit.refl s
    · split at h
      · cases h
      · split at h
        · cases h
        · cases h
          simp only [State.atLeaf, hk]
          exact (readLocal_sameUnit s _ _ _).trans (sameUnit_of_units rfl rfl rfl rfl rfl)

theorem prefetch_sameUnit (s : State) (u : Agent) (p : Spot) : SameUnit s (s.prefetch u p) := by
  unfold State.prefetch
  split
  · dsimp only
    split
    · next h _ => exact (serve_load_sameUnit rfl h).trans (l1After_sameUnit _ _ _)
    · exact SameUnit.refl s
  · exact SameUnit.refl s

end Sys2Proof.Machine
end

section
/-! SUPPORT. The rows of a store-stream at its access thread: SQ, SQS and REDQ (R217, R220). -/

namespace Sys2Proof.Machine

variable {s t t1 t2 t' : State} {u : Agent} {tm sp n : Nat} {i : Instr} {sh : Shape} {p : Port} {x : ApThread} {o : Ops} {red : Bool}

theorem Keeps.here {P : State → State → Prop} (hf : Frames P) : Keeps P here :=
  Keeps.bind hf (Keeps.ctl hf) (fun _ => Keeps.bind hf (Keeps.ops hf) (fun _ => Keeps.pure hf _))

theorem buffer_sameUnit (r : Req) : Keeps SameUnit (buffer r) := by
  have hf := sameUnit_local.toFrames
  refine Keeps.bind hf ?_ (fun _ => Keeps.modCtl sameUnit_local _)
  rintro s a t ⟨⟩
  exact sameUnit_of_units rfl rfl rfl rfl rfl

theorem streamReq_sameUnit (u : Agent) (k : Nat) (a : Acc) (kind : ReqKind) (l : Nat) (ls : List Nat) :
    Keeps SameUnit (streamReq u k a kind l ls) := by
  have hf := sameUnit_local.toFrames
  refine Keeps.bind hf (Keeps.here hf) (fun _ => ?_)
  cases u with
  | ap tm sp => exact Keeps.bind hf (Keeps.get hf) (fun _ => buffer_sameUnit _)
  | _ => exact Keeps.pure hf _

theorem Keeps.portKeyOf {P : State → State → Prop} (hf : Frames P) (n : Nat) : Keeps P (portKeyOf n) :=
  Keeps.bind hf (Keeps.myStrip hf) (fun _ => Keeps.pure hf _)

theorem popStore_sameUnit (n : Nat) (ls : List Nat) : Keeps SameUnit (popStore n ls) := by
  have hf := sameUnit_local.toFrames
  refine Keeps.bind hf (Keeps.unit hf) (fun u => ?_)
  cases u with
  | ap tm sp =>
    refine Keeps.bind hf (Keeps.portKeyOf hf n) (fun _ => Keeps.bind hf
      (Keeps.modify (fun s => (sameUnit_local.modPort s _ _).trans (sameUnit_local.retire _ _ _ _))) (fun _ => Keeps.modify (fun s => ?_)))
    exact sameUnit_local.toFrames.foldl (f := fun s l => s.modCtl (.ex tm (16 * sp + l)) (fun c => c.bump (-1)))
      (fun s l => sameUnit_local.modCtl s _ _) ls s
  | _ => exact Keeps.pure hf _

/-- The elements of the row at a store-stream's access thread. -/
def Port.headElems (p : Port) : List (Nat × BitVec 512) := rowElems ((List.range 16).map (p.slot p.apop))

theorem M.storeRow_past (hcur : s.cur = some (.ap tm sp)) (h : p.past p.apop = true) : storeRow n p s = .ok (none, s) := by
  simp only [storeRow, M.bind_run, M.get_run, M.unit_run hcur, h, if_true, M.pure_run]

theorem M.storeRow_ready (hcur : s.cur = some (.ap tm sp)) (h : p.past p.apop = false) (hr : s.rowReady tm sp p p.apop = true) :
    storeRow n p s = .ok (some p.headElems, s) := by
  simp only [storeRow, M.bind_run, M.get_run, M.unit_run hcur, h, Bool.false_eq_true, if_false, hr, M.waitUnless_true, M.pure_run]
  rfl

/-- A stage that passes over lanes that are in order stops at the first that is not. -/
theorem stage_error_first {α β : Type} {f : α → Except TrapInfo β} {c : α → Bool} {e : α → TrapInfo} (hok : ∀ a, c a = false → ∃ b, f a = .ok b)
    (herr : ∀ a, c a = true → f a = .error (e a)) {tag : Bool} {k : α → Nat} {a : α} :
    ∀ l : List α, l.find? c = some a →
      stage tag f (l.map (fun a => (k a, a))) = .error { e a with lane := if tag then some (k a) else none }
  | [], h => by cases h
  | b :: l, h => by
    rw [List.find?_cons] at h
    split at h
    · next hc =>
      cases h
      simp only [List.map_cons, stage, herr _ hc]
    · next hc =>
      obtain ⟨y, hy⟩ := hok b (Bool.eq_false_iff.2 (by simpa using hc))
      simp only [List.map_cons, stage, hy, stage_error_first hok herr l h]
      rfl

/-- Poison in the first lanes' data or offset (R163). -/
theorem spots_poison_first {w : Want} {v : Opnds} {ls : List Nat} {vec : Bool} {l : Nat} (hcur : s.cur = some u)
    (h : ls.find? (fun l => (v.a l).poison || (v.b l).poison) = some l) :
    spots w v ls vec true false s =
      .error (.trap { tinfo 0x11 (if (v.a l).poison then 0 else 1) with lane := if vec then some l else none }) := by
  have hst := stage_error_first (k := fun l : Nat => l) (tag := vec)
    (f := fun l => poisonCheck (v.a l) (v.b l) Val.zero)
    (c := fun l => (v.a l).poison || (v.b l).poison) (e := fun l => tinfo 0x11 (if (v.a l).poison then 0 else 1)) ?_ ?_ ls h
  · simp only [spots, M.bind_run, M.unit_run hcur, M.get_run, M.ops_run, if_true, Bool.false_and, Bool.false_eq_true, if_false, hst]
    rfl
  · intro a ha
    simp only [Bool.or_eq_false_iff] at ha
    exact ⟨(), poisonCheck_clean ha.1 ha.2 rfl⟩
  · intro a ha
    cases h1 : (v.a a).poison
    · rw [h1, Bool.false_or] at ha
      simp [poisonCheck, h1, ha]
    · simp [poisonCheck, h1]

/-- What a stream store or reduction asks of its handle. -/
def streamWant (o : Ops) (red : Bool) (size : Nat) : Want :=
  { hidx := o.x8.toNat, spaces := if red then [0, 1] else [0, 1, 4], kinds := if red then kFlat else kTile, widths := if red then [2, 3] else [0, 1, 2, 3],
    size, align := size, need := if red then .both else .wr }

/-- The request that an element becomes. -/
def streamKind (o : Ops) (red : Bool) (size x : Nat) : ReqKind :=
  if red then .atomic o.sel.toNat (8 * size) (BitVec.ofNat 64 x) 0 false else .store x false

/-- The value of a lane's element. -/
def elemVal (es : List (Nat × BitVec 512)) (size l : Nat) : Nat := (es.find? (fun e => e.1 == l)).elim 0 (fun e => e.2.toNat % 2 ^ (8 * size))

/-- The body of SQ and REDQ. -/
def sqBody (o : Ops) (red : Bool) : M Unit := do
  let n := objPort o.a
  let p ← boundPort n
  if p.kind ≠ .store ∨ p.gen then stopTrap (portTrap 2 n)
  checkPorts { d := 0, a := 0, c := 0 }
  let u ← unit
  let h := (← get).handleOf u o.x8.toNat
  let size := if red then 2 ^ Hnd.ew h else p.bytes
  if red ∧ 2 ≤ Hnd.ew h ∧ p.bytes ≠ size then stopTrap (portTrap 3 n)
  let row ← storeRow n p
  let v ← fetch { d := 0, a := 0, c := 0 } .offset
  let act ← lanes
  let want := streamWant o red size
  let es := (row.getD []).filter (fun e => act.getLsbD e.1)
  let ls := if row.isSome then es.map (·.1) else laneList act
  let ps ← spots want { v with a := if row.isSome then rowData p else fun _ => Val.zero } ls true true false
  if row.isNone then pure ()
  else
    let s ← get
    let _ ← orTrap (stage true Spot.aligned ps)
    let _ ← orTrap (stage true Spot.bounded ps)
    let as ← orTrap (stage true (fun x => s.addrOf (s.ctxOf u) x want.need) ps)
    as.forM (fun x => streamReq u s.fresh x.2 (streamKind o red size (elemVal es size x.1)) x.1 [x.1])
    popStore n (((row.getD []).map (·.1)).filter (fun l => !act.getLsbD l))

theorem exec_sq : ∀ q ∈ [(Instr.sq, false), (.redq, true)], ∀ s,
    exec q.1 s = meaning (insn q.1 { d := 0, a := 0, c := 0 } (sqBody s.ir q.2)) s := by
  simp only [List.forall_mem_cons, List.not_mem_nil, false_implies, implies_true, and_true]
  exact ⟨fun s => meaning_read (M.ops_run s), fun s => meaning_read (M.ops_run s)⟩

section
variable {v : Opnds} {ps : List (Nat × Spot)} {as : List (Nat × Acc)} {size : Nat}
  (he : Executes s (.ap tm sp) { d := 0, a := 0, c := 0 }) (hx : s.aps.find (stripKey tm sp) = some x) (hn : objPort s.ir.a = n)
  (hp : s.ports.find (portKey (stripKey tm sp) n) = some p) (hk : p.kind = .store) (hg : p.gen = false)
  (hc : checkPorts { d := 0, a := 0, c := 0 } (s.past (.ap tm sp)) = .ok ((), s.past (.ap tm sp)))
  (hd : Delivers s (.ap tm sp) { d := 0, a := 0, c := 0 } .offset v t)
include he hx hn hp hk hg hc hd

section
variable (hsize : size = if red then 2 ^ Hnd.ew (s.handleOf (.ap tm sp) s.ir.x8.toNat) else p.bytes)
  (hw : red = true → 2 ≤ Hnd.ew (s.handleOf (.ap tm sp) s.ir.x8.toNat) → p.bytes = size)
include hsize hw

/-- SQ and REDQ up to the checks of the accesses. -/
theorem sqBody_spots {row : Option (List (Nat × BitVec 512))} (hrow : storeRow n p (s.past (.ap tm sp)) = .ok (row, s.past (.ap tm sp))) :
    sqBody s.ir red (s.past (.ap tm sp)) = (do
      let act := (apGuard x s.ir).bits
      let es := (row.getD []).filter (fun e => act.getLsbD e.1)
      let ps ← spots (streamWant s.ir red size) { v with a := if row.isSome then rowData p else fun _ => Val.zero }
        (if row.isSome then es.map (·.1) else laneList act) true true false
      if row.isNone then pure ()
      else
        let r ← get
        let _ ← orTrap (stage true Spot.aligned ps)
        let _ ← orTrap (stage true Spot.bounded ps)
        let as ← orTrap (stage true (fun x => r.addrOf (r.ctxOf (.ap tm sp)) x (streamWant s.ir red size).need) ps)
        as.forM (fun x => streamReq (.ap tm sp) r.fresh x.2 (streamKind s.ir red size (elemVal es size x.1)) x.1 [x.1])
        popStore n (((row.getD []).map (·.1)).filter (fun l => !act.getLsbD l)) : M Unit) t := by
  have hfetch : fetch { d := 0, a := 0, c := 0 } .offset (s.past (.ap tm sp)) = .ok (v, t) := hd
  have hbound := M.boundPort_run (n := n) he.past_cur (by rw [State.past_ports]; exact hp)
  have hkind : ¬ (p.kind ≠ .store ∨ p.gen = true) := fun h => h.elim (· hk) (fun h => by rw [hg] at h; cases h)
  have hhandle : (s.past (.ap tm sp)).handleOf (.ap tm sp) s.ir.x8.toNat = s.handleOf (.ap tm sp) s.ir.x8.toNat := rfl
  have hwidth : ¬ (red = true ∧ 2 ≤ Hnd.ew (s.handleOf (.ap tm sp) s.ir.x8.toNat) ∧ p.bytes ≠ size) := fun ⟨h1, h2, h3⟩ => h3 (hw h1 h2)
  simp only [sqBody, M.bind_run, hn, hbound, if_neg hkind, hc, M.unit_run he.past_cur, M.get_run, hhandle, ← hsize, if_neg hwidth, hrow, hfetch,
    M.lanes_calm hd.calm he.1 hx]

/-- A row past the end: nothing is stored. -/
theorem sqBody_past (hpast : p.past p.apop = true)
    (hs : spots (streamWant s.ir red size) { v with a := fun _ => Val.zero } (laneList (apGuard x s.ir).bits) true true false t = .ok (ps, t1)) :
    sqBody s.ir red (s.past (.ap tm sp)) = .ok ((), t1) := by
  rw [sqBody_spots he hx hn hp hk hg hc hd hsize hw (M.storeRow_past he.past_cur hpast)]
  simp only [M.bind_run, Option.isSome_none, Bool.false_eq_true, if_false, hs, Option.isNone_none, if_true, M.pure_run]

section
variable (hpast : p.past p.apop = false) (hr : s.rowReady tm sp p p.apop = true)
include hpast hr

/-- The first active lane with poison in its element or its offset. -/
theorem sqBody_poisoned {l : Nat}
    (hl : ((p.headElems.filter (fun e => (apGuard x s.ir).bits.getLsbD e.1)).map (·.1)).find?
      (fun l => (rowData p l).poison || (v.b l).poison) = some l) :
    sqBody s.ir red (s.past (.ap tm sp)) =
      .error (.trap { tinfo 0x11 (if (rowData p l).poison then 0 else 1) with lane := some l }) := by
  rw [sqBody_spots he hx hn hp hk hg hc hd hsize hw (M.storeRow_ready he.past_cur hpast hr)]
  have hs := spots_poison_first (w := streamWant s.ir red size) (v := { v with a := rowData p }) (vec := true) (hd.calm.cur.trans he.past_cur) hl
  simp only [M.bind_run, Option.isSome_some, if_true, Option.getD_some, hs]

/-- The row stored and popped. -/
theorem sqBody_stores {es : List (Nat × BitVec 512)} (hes : es = p.headElems.filter (fun e => (apGuard x s.ir).bits.getLsbD e.1))
    (hs : spots (streamWant s.ir red size) { v with a := rowData p } (es.map (·.1)) true true false t = .ok (ps, t1))
    (h1 : stage true Spot.aligned ps = .ok (ps.map (fun y => (y.1, ())))) (h2 : stage true Spot.bounded ps = .ok (ps.map (fun y => (y.1, ()))))
    (h3 : stage true (fun y => t1.addrOf (t1.ctxOf (.ap tm sp)) y (streamWant s.ir red size).need) ps = .ok as)
    (h4 : as.forM (fun y => streamReq (.ap tm sp) t1.fresh y.2 (streamKind s.ir red size (elemVal es size y.1)) y.1 [y.1]) t1 = .ok ((), t2))
    (h5 : popStore n ((p.headElems.map (·.1)).filter (fun l => !(apGuard x s.ir).bits.getLsbD l)) t2 = .ok ((), t')) :
    sqBody s.ir red (s.past (.ap tm sp)) = .ok ((), t') := by
  rw [sqBody_spots he hx hn hp hk hg hc hd hsize hw (M.storeRow_ready he.past_cur hpast hr)]
  simp only [M.bind_run, Option.isSome_some, if_true, Option.getD_some, ← hes, hs, Option.isNone_some, Bool.false_eq_true, if_false, M.get_run,
    h1, h2, h3, M.orTrap_ok, M.pure_run, h4, h5]

end

end

end

/-! ### SQS -/

/-- What SQS asks of its handle. -/
def sqsWant (o : Ops) (p : Port) : Want :=
  { hidx := o.x8.toNat, spaces := [0, 1, 4], kinds := kTile, size := if p.mode == .sline then 64 else p.bytes,
    align := if p.mode == .sline then 64 else p.bytes, need := .wr, offAlign := if p.mode == .sline then 64 else 1 }

/-- The stores that a row's elements become. -/
def rowPieces (p : Port) (es : List (Nat × BitVec 512)) (y : Spot) : List (Nat × Spot × Nat × List Nat) :=
  if p.mode == .sline then
    (lineStores es).map (fun x => (255, { y.shift x.1 with size := x.2.1, align := x.2.1 }, x.2.2.1, x.2.2.2))
  else es.map (fun e => (e.1, y.shift (p.bytes * e.1), e.2.toNat % 2 ^ (8 * p.bytes), [e.1]))

theorem sqsPieces_eq (p : Port) (y : Spot) : sqsPieces p y = rowPieces p p.headElems y := rfl

/-- What of a row's stores is checked for alignment and bounds: the line itself, or each element. -/
def sqsFirst (p : Port) (y : Spot) (pieces : List (Nat × Spot × Nat × List Nat)) : List (Nat × Nat × Spot × Nat × List Nat) :=
  if p.mode == .sline then [(0, (255, y, 0, []))] else pieces.zipIdx.map (fun x => (x.2, x.1))

/-- The body of SQS. -/
def sqsBody (o : Ops) : M Unit := do
  let n := objPort o.a
  let p ← boundPort n
  if p.kind ≠ .store ∨ p.gen then stopTrap (portTrap 2 n)
  checkPorts { d := 0, a := 0, c := 0 }
  let u ← unit
  let row ← storeRow n p
  let v ← fetch { d := 0, a := 0, c := 0 } .offset
  let l0 := lowLane (← lanes)
  let bad := row.isSome && (List.range 16).any (fun l => (rowData p l).poison)
  let ps ← spots (sqsWant o p) { v with a := fun _ => ⟨0, bad⟩ } [l0] false true false
  match row, ps with
  | some es, (_, sp) :: _ =>
    let pieces := rowPieces p es sp
    if pieces.any (fun x => x.2.1.inSem) then stopTrap (accTrap 0x24 8 sp.hidx sp.loc)
    let s ← get
    let ys := pieces.zipIdx.map (fun x => (x.2, x.1))
    let first := sqsFirst p sp pieces
    let _ ← orTrap (stage false (fun x : Nat × Spot × Nat × List Nat => x.2.1.aligned) first)
    let _ ← orTrap (stage false (fun x : Nat × Spot × Nat × List Nat => x.2.1.bounded) first)
    let as ← orTrap (stage false (fun x : Nat × Spot × Nat × List Nat => do
      pure ((← s.addrOf (s.ctxOf u) x.2.1 .wr), x.1, x.2.2)) ys)
    as.forM (fun x => streamReq u s.fresh x.2.1 (.store x.2.2.2.1 false) x.2.2.1 x.2.2.2.2)
    popStore n []
  | _, _ => pure ()

theorem exec_sqs (s : State) : exec .sqs s = meaning (insn .sqs { d := 0, a := 0, c := 0 } (sqsBody s.ir)) s :=
  meaning_read (M.ops_run s)

/-- A stage that no item fails. -/
theorem stage_all_ok {α β : Type} {tag : Bool} {f : α → Except TrapInfo β} {g : α → β} : ∀ l : List (Nat × α), (∀ q ∈ l, f q.2 = .ok (g q.2)) →
    stage tag f l = .ok (l.map (fun q => (q.1, g q.2)))
  | [], _ => rfl
  | (k, x) :: l, h => by
    simp only [stage, h _ (List.mem_cons_self ..), stage_all_ok l (fun q hq => h q (List.mem_cons_of_mem _ hq))]
    rfl

/-- A stage over numbered items whose results are known. -/
theorem stage_numbered {α β γ : Type} {A : α → Except TrapInfo β} {f : α → Except TrapInfo γ} {g : β → α → γ}
    (hf : ∀ x y, A x = .ok y → f x = .ok (g y x)) : ∀ (l : List α) (ys : List β) (k : Nat), l.map A = ys.map .ok →
      stage false f ((l.zipIdx k).map (fun x => (x.2, x.1))) = .ok (((ys.zip l).zipIdx k).map (fun z => (z.2, g z.1.1 z.1.2)))
  | [], ys, k, h => by
    cases ys with
    | nil => rfl
    | cons y ys => cases h
  | x :: l, [], k, h => by cases h
  | x :: l, y :: ys, k, h => by
    obtain ⟨h1, h2⟩ := List.cons.inj h
    simp only [List.zipIdx_cons, List.map_cons, stage, hf x y h1, stage_numbered hf l ys (k + 1) h2]
    rfl

theorem forM_numbered {α : Type} (f : α → M PUnit) (l : List α) (k : Nat) : (l.zipIdx k).forM (fun z => f z.1) = l.forM f := by
  induction l generalizing k with
  | nil => rfl
  | cons x l ih => exact congrArg (fun m => f x >>= fun _ => m) (ih (k + 1))

theorem forM_map_list {α β : Type} (f : β → M PUnit) (g : α → β) (l : List α) : (l.map g).forM f = l.forM (fun x => f (g x)) := by
  induction l with
  | nil => rfl
  | cons x l ih => exact congrArg (fun m => f (g x) >>= fun _ => m) ih

section
variable {v : Opnds} {ps : List (Nat × Spot)} (he : Executes s (.ap tm sp) { d := 0, a := 0, c := 0 }) (hn : objPort s.ir.a = n)
  (hp : s.ports.find (portKey (stripKey tm sp) n) = some p) (hk : p.kind = .store) (hg : p.gen = false)
  (hc : checkPorts { d := 0, a := 0, c := 0 } (s.past (.ap tm sp)) = .ok ((), s.past (.ap tm sp)))
  (hd : Delivers s (.ap tm sp) { d := 0, a := 0, c := 0 } .offset v t)
include he hn hp hk hg hc hd

/-- SQS up to the checks of its accesses. -/
theorem sqsBody_spots {row : Option (List (Nat × BitVec 512))} (hrow : storeRow n p (s.past (.ap tm sp)) = .ok (row, s.past (.ap tm sp)))
    {r : Except Stop (List (Nat × Spot) × State)}
    (hs : spots (sqsWant s.ir p) { v with a := fun _ => ⟨0, row.isSome && (List.range 16).any (fun l => (rowData p l).poison)⟩ }
      [s.lead (.ap tm sp)] false true false t = r) :
    (∀ e, r = .error e → sqsBody s.ir (s.past (.ap tm sp)) = .error e) ∧
    (row = none → ∀ ps, r = .ok (ps, t1) → sqsBody s.ir (s.past (.ap tm sp)) = .ok ((), t1)) := by
  have hfetch : fetch { d := 0, a := 0, c := 0 } .offset (s.past (.ap tm sp)) = .ok (v, t) := hd
  have hbound := M.boundPort_run (n := n) he.past_cur (by rw [State.past_ports]; exact hp)
  have hkind : ¬ (p.kind ≠ .store ∨ p.gen = true) := fun h => h.elim (· hk) (fun h => by rw [hg] at h; cases h)
  obtain ⟨x, hx, hz, hne⟩ := he.2
  have hlead : lowLane (apGuard x s.ir).bits = s.lead (.ap tm sp) := by simp only [State.lead, hx, Option.elim_some]
  subst hs
  refine ⟨fun e hr => ?_, fun h0 ps hr => ?_⟩
  · simp only [sqsBody, M.bind_run, hn, hbound, if_neg hkind, hc, M.unit_run he.past_cur, hrow, hfetch, M.lanes_calm hd.calm he.1 hx, hlead, hr]
  · subst h0
    simp only [sqsBody, M.bind_run, hn, hbound, if_neg hkind, hc, M.unit_run he.past_cur, hrow, hfetch, M.lanes_calm hd.calm he.1 hx, hlead, hr,
      M.pure_run]

/-- The row stored contiguously and popped. -/
theorem sqsBody_stores {y : Spot} {l : Nat} {as : List Acc} (hpast : p.past p.apop = false) (hr : s.rowReady tm sp p p.apop = true)
    (hclean : ∀ j, j < 16 → (rowData p j).poison = false)
    (hs : spots (sqsWant s.ir p) { v with a := fun _ => Val.zero } [s.lead (.ap tm sp)] false true false t = .ok ([(l, y)], t1))
    (hsem : ∀ z ∈ sqsPieces p y, z.2.1.inSem = false)
    (hchk : if p.mode == .sline then y.aligned = .ok () ∧ y.bounded = .ok () else ∀ z ∈ sqsPieces p y, z.2.1.aligned = .ok () ∧ z.2.1.bounded = .ok ())
    (has : (sqsPieces p y).map (fun z => t1.addrOf (t1.ctxOf (.ap tm sp)) z.2.1 .wr) = as.map .ok)
    (hbuf : (as.zip (sqsPieces p y)).forM (fun z => streamReq (.ap tm sp) t1.fresh z.1 (.store z.2.2.2.1 false) z.2.1 z.2.2.2.2) t1 = .ok ((), t2))
    (hpop : popStore n [] t2 = .ok ((), t')) : sqsBody s.ir (s.past (.ap tm sp)) = .ok ((), t') := by
  have hfetch : fetch { d := 0, a := 0, c := 0 } .offset (s.past (.ap tm sp)) = .ok (v, t) := hd
  have hbound := M.boundPort_run (n := n) he.past_cur (by rw [State.past_ports]; exact hp)
  have hkind : ¬ (p.kind ≠ .store ∨ p.gen = true) := fun h => h.elim (· hk) (fun h => by rw [hg] at h; cases h)
  obtain ⟨x, hx, hz, hne⟩ := he.2
  have hlead : lowLane (apGuard x s.ir).bits = s.lead (.ap tm sp) := by simp only [State.lead, hx, Option.elim_some]
  have hbad : ((List.range 16).any fun l => (rowData p l).poison) = false :=
    List.any_eq_false.2 fun j hj => by rw [hclean j (List.mem_range.1 hj)]; exact Bool.false_ne_true
  have hsem' : (sqsPieces p y).any (fun x => x.2.1.inSem) = false :=
    List.any_eq_false.2 fun z hz => by rw [hsem z hz]; exact Bool.false_ne_true
  rw [sqsPieces_eq] at hsem' hchk has hbuf
  have hfirst : ∀ q ∈ sqsFirst p y (rowPieces p p.headElems y), q.2.2.1.aligned = .ok () ∧ q.2.2.1.bounded = .ok () := by
    intro q hq
    unfold sqsFirst at hq
    split at hq
    · rw [if_pos ‹_›] at hchk
      obtain rfl := List.mem_singleton.1 hq
      exact hchk
    · rw [if_neg ‹_›] at hchk
      obtain ⟨x, hx, rfl⟩ := List.mem_map.1 hq
      exact hchk _ (List.fst_mem_of_mem_zipIdx hx)
  have haligned := stage_all_ok (tag := false) (f := fun x : Nat × Spot × Nat × List Nat => x.2.1.aligned) (g := fun _ => ()) _
    (fun q hq => (hfirst q hq).1)
  have hbounded := stage_all_ok (tag := false) (f := fun x : Nat × Spot × Nat × List Nat => x.2.1.bounded) (g := fun _ => ()) _
    (fun q hq => (hfirst q hq).2)
  have hacc := stage_numbered (A := fun z : Nat × Spot × Nat × List Nat => t1.addrOf (t1.ctxOf (.ap tm sp)) z.2.1 .wr)
    (f := fun x : Nat × Spot × Nat × List Nat => do pure ((← t1.addrOf (t1.ctxOf (.ap tm sp)) x.2.1 .wr), x.1, x.2.2))
    (g := fun a x => (a, x.1, x.2.2)) (fun x a h => by rw [h]; rfl) (rowPieces p p.headElems y) as 0 has
  simp only [sqsBody, M.bind_run, hn, hbound, if_neg hkind, hc, M.unit_run he.past_cur, M.storeRow_ready he.past_cur hpast hr, hfetch,
    M.lanes_calm hd.calm he.1 hx, hlead, Option.isSome_some, Bool.true_and, hbad, show (⟨0, false⟩ : Val) = Val.zero from rfl, hs, hsem',
    Bool.false_eq_true, if_false, M.get_run, haligned, hbounded, M.orTrap_ok, M.pure_run, hacc]
  rw [forM_map_list, forM_numbered (fun z : Acc × Nat × Spot × Nat × List Nat =>
    streamReq (.ap tm sp) t1.fresh z.1 (.store z.2.2.2.1 false) z.2.1 z.2.2.2.2), hbuf]
  exact hpop
end

/-- The body of PFX. -/
def pfxBody (o : Ops) : M Unit := do
  let v ← fetch { d := 0, a := 0, c := 0 } .offset
  let u ← unit
  let ps ← spots { hidx := o.x8.toNat, spaces := [0, 4], kinds := kTile, size := 64, align := 64, need := .rd } v
    (laneList (← lanes)) true false false
  modify (fun s => ps.foldl (fun s p => s.prefetch u p.2) s)

theorem exec_pfx (s : State) : exec .pfx s = meaning (insn .pfx { d := 0, a := 0, c := 0 } (pfxBody s.ir)) s :=
  meaning_read (M.ops_run s)

end Sys2Proof.Machine
end

section open Sys2Proof Machine

/-- Settles O27: the row at the consumer's head past the end, poisoned, or stored and popped; and the lines PFX asks for. -/
theorem queueStoresComplete : Obligations.QueueStoresComplete := by
  unfold Obligations.QueueStoresComplete
  refine ⟨?_, ?_, ?_⟩
  · intro q hq s t t1 t2 t' tm sp n p x v ps as i red u sh act h size es live want val data he hx hn hp hk hg hc hw hd
    have hw' : red = true → 2 ≤ Hnd.ew (s.handleOf u s.ir.x8.toNat) → p.bytes = size := hw
    refine ⟨fun hpast hs => ?_, fun l hpast hr hl => ?_, fun hpast hr hs h1 h2 h3 h4 h5 => ?_⟩
    · have hrun := sqBody_past he hx hn hp hk hg hc hd rfl hw' hpast hs
      exact (exec_sq q hq s).trans (insn_completes_of_sameUnit he hrun (hd.calm.trans (spots_calm _ _ _ _ _ _ _ _ _ hs)).sameUnit)
    · exact (exec_sq q hq s).trans (insn_traps_any he (sqBody_poisoned he hx hn hp hk hg hc hd rfl hw' hpast hr hl))
    · have hrun := sqBody_stores he hx hn hp hk hg hc hd rfl hw' hpast hr rfl hs h1 h2 h3 h4 h5
      have hstreams := Keeps.forM sameUnit_local.toFrames (l := as) (fun y => streamReq_sameUnit u t1.fresh y.2
        (streamKind s.ir red size (elemVal live size y.1)) y.1 [y.1]) _ _ _ h4
      exact (exec_sq q hq s).trans (insn_completes_of_sameUnit he hrun
        (((hd.calm.trans (spots_calm _ _ _ _ _ _ _ _ _ hs)).sameUnit.trans hstreams).trans (popStore_sameUnit _ _ _ _ _ h5)))
  · intro s t t1 t2 t' tm sp n l p v y as u sh w line size es pieces want found he hn hp hk hg hc hd
    refine ⟨fun hpast hs => ?_, fun hpast hr hbad => ?_, fun hpast hr hclean hs hsem hchk has hbuf hpop => ⟨?_, fun hl => ?_⟩⟩
    · have hrun := (sqsBody_spots he hn hp hk hg hc hd (M.storeRow_past he.past_cur hpast) hs).2 rfl _ rfl
      exact (exec_sqs s).trans (insn_completes_of_sameUnit he hrun (hd.calm.trans (spots_calm _ _ _ _ _ _ _ _ _ hs)).sameUnit)
    · have hany : ((List.range 16).any fun l => (rowData p l).poison) = true := by
        obtain ⟨j, hj, hjp⟩ := hbad
        exact List.any_eq_true.2 ⟨j, List.mem_range.2 hj, hjp⟩
      have hs := spots_poison_first (w := sqsWant s.ir p) (v := { v with a := fun _ => ⟨0, true⟩ }) (ls := [s.lead u]) (vec := false)
        (l := s.lead u) (hd.calm.cur.trans he.past_cur) rfl
      have hrun := (sqsBody_spots (t1 := t1) he hn hp hk hg hc hd (M.storeRow_ready he.past_cur hpast hr) (by rw [hany]; exact hs)).1 _ rfl
      exact (exec_sqs s).trans (insn_traps_any he hrun)
    · have hrun := sqsBody_stores he hn hp hk hg hc hd hpast hr hclean hs hsem hchk has hbuf hpop
      have hstreams := Keeps.forM sameUnit_local.toFrames (l := as.zip pieces)
        (fun z => streamReq_sameUnit u t1.fresh z.1 (.store z.2.2.2.1 false) z.2.1 z.2.2.2.2) _ _ _ hbuf
      exact (exec_sqs s).trans (insn_completes_of_sameUnit he hrun
        (((hd.calm.trans (spots_calm _ _ _ _ _ _ _ _ _ hs)).sameUnit.trans hstreams).trans (popStore_sameUnit _ _ _ _ _ hpop)))
    · have hl' : (p.mode == .sline) = false := hl
      simp only [pieces, sqsPieces_eq, rowPieces, hl', Bool.false_eq_true, if_false, List.length_map]
      rfl
  · intro s t t1 tm sp x v ps u sh he hx hd hs
    have hfetch : fetch sh .offset (s.past u) = .ok (v, t) := hd
    have hrun : pfxBody s.ir (s.past u) = .ok ((), ps.foldl (fun s p => s.prefetch u p.2) t1) := by
      simp only [pfxBody, M.bind_run, show fetch { d := 0, a := 0, c := 0 } .offset (s.past u) = .ok (v, t) from hfetch,
        M.unit_run (hd.calm.cur.trans he.past_cur), M.lanes_calm hd.calm he.1 hx, show spots _ _ _ true false false t = _ from hs, M.modify_run]
    have hpre := sameUnit_local.toFrames.foldl (f := fun s (p : Nat × Spot) => s.prefetch u p.2) (fun s p => prefetch_sameUnit s u p.2) ps t1
    exact (exec_pfx s).trans (insn_completes_of_sameUnit he hrun ((hd.calm.trans (spots_calm _ _ _ _ _ _ _ _ _ hs)).sameUnit.trans hpre))

end


section
/-! SUPPORT. Tags and ATQ (R219, R220): a request for each active lane, or a row of them. -/

namespace Sys2Proof.Machine

variable {s t t1 r : State} {u : Agent} {tm sp n : Nat} {i : Instr} {sh : Shape} {x : ApThread} {v : Opnds} {rs : List (Nat × Acc)}
  {want : Want} {kind : Nat → ReqKind} {data : Bool} {o : Ops} {size : Nat}

/-- What a tag instruction sends. -/
def tagStart (sh : Shape) (want : Want) (data : Bool) (kind : Opnds → Nat → ReqKind) : M (List (Nat × Req)) := do
  let v ← fetch sh .offset
  let rs ← accesses want v (laneList (← lanes)) true data false
  reqs rs true (kind v)

theorem tagStart_run {kind : Opnds → Nat → ReqKind} (he : Executes s (.ap tm sp) sh) (hpc : s.pcAt (.ap tm sp) < 2 ^ 64)
    (hx : s.aps.find (stripKey tm sp) = some x) (hd : Delivers s (.ap tm sp) sh .offset v t)
    (ha : accesses want v (laneList (apGuard x s.ir).bits) true data false t = .ok (rs, t1)) :
    tagStart sh want data kind (s.past (.ap tm sp)) = .ok (apReqs s t1 (.ap tm sp) true (kind v) rs, t1) := by
  have hcalm : Calm (s.past (.ap tm sp)) t1 := hd.calm.trans (accesses_calm _ _ _ _ _ _ _ _ _ ha)
  have hfetch : fetch sh .offset (s.past (.ap tm sp)) = .ok (v, t) := hd
  simp only [tagStart, M.bind_run, hfetch, M.lanes_calm hd.calm he.1 hx, ha,
    M.reqs_run _ _ (hcalm.cur.trans he.past_cur) (M.here_calm he hpc hcalm), apReqs]

theorem exec_ldsc (s : State) : exec .ldsc s = meaning (blockOp .ldsc { a := 0, c := 0 }
    (tagStart { a := 0, c := 0 } (tagWant s.ir.x8.toNat .rd) false (fun _ _ => .tagGet)) (fun x => writeD 1 x)) s :=
  meaning_read (M.ops_run s)

theorem exec_stsc (s : State) : exec .stsc s = meaning (blockOp .stsc { d := 0, c := 0 }
    (tagStart { d := 0, c := 0 } (tagWant s.ir.x8.toNat .both) true (fun v l => .tagSet (BitVec.ofNat 4 (v.a l).bits.toNat)))
      (fun _ => pure ())) s :=
  meaning_read (M.ops_run s)

/-- Requests of reserved rows put on their way, where the unit has room for the answers of those that act once (R400). -/
theorem M.loadRows_sent {need : Need} {pc : Nat} (xs : List (Spot × Nat × Landing)) (hcur : r.cur = some u) (hh : here r = .ok (pc, r))
    (hroom : r.replyRoom u ((r.portLoads u pc need kind xs).filter (·.once)).length = true) :
    loadRows need kind xs r = .ok ((), r.injectAll (r.portLoads u pc need kind xs)) := by
  have hwait := M.awaitReplies_run hcur hroom
  unfold State.portLoads at hwait
  simp only [loadRows, M.bind_run, M.unit_run hcur, hh, M.get_run, hwait]
  rfl

theorem portLoad_once_atomic (s : State) (u : Agent) (o : Owner) (a : Nat) (y : Except TrapInfo Acc) (sp : Spot) (op w : Nat) (d c : W64)
    (b : Bool) (l : Nat) (ld : Landing) : (portLoad s u o a y sp (.atomic op w d c b) l ld).once = true := by
  cases y <;> rfl

/-! ### ATQ -/

/-- What ATQ asks of its handle. -/
def atqWant (o : Ops) (size : Nat) : Want :=
  { hidx := o.x8.toNat, spaces := [0, 1], kinds := kFlat, widths := [2, 3], size, align := size, need := .both }

/-- The request of a lane of ATQ. -/
def atqKind (o : Ops) (size : Nat) (v : Opnds) (l : Nat) : ReqKind :=
  .atomic o.sel.toNat (8 * size) (v.a l).bits (if o.sel.toNat == 9 then (v.c l).bits else 0) true

/-- The operands of ATQ: a comparand's poison counts as its data's. -/
def atqOpnds (o : Ops) (v : Opnds) : Opnds :=
  { v with a := fun l => { v.a l with poison := (v.a l).poison || (o.sel.toNat == 9 && (v.c l).poison) } }

def atqInput (o : Ops) : M Opnds := do
  let v ← fetch { d := 0 } .offset
  pure (atqOpnds o v)

/-- What ATQ to a register sends. -/
def atqStart (o : Ops) (size : Nat) : M (List (Nat × Req)) := do
  let v ← atqInput o
  let rs ← accesses (atqWant o size) v (laneList (← lanes)) true true false
  reqs rs true (atqKind o size v)

/-- The body of ATQ onto a port. -/
def atqPortBody (o : Ops) (size n : Nat) : M Unit := do
  checkPorts { d := 0 }
  let p ← boundPort n
  if p.kind ≠ .acc ∨ p.mode ≠ .elem then stopTrap (portTrap 2 n)
  if p.bytes ≠ size then stopTrap (portTrap 3 n)
  let act ← lanes
  let v ← atqInput o
  let ps ← spots (atqWant o size) v (laneList act) true true false
  let k ← pushRows n [(List.range 16).map (fun l => if act.getLsbD l then .pending else zeroSlot)]
  let key ← portKeyOf n
  loadRows .both (atqKind o size v) (ps.map (fun x => (x.2, x.1, .port key k x.1)))

theorem exec_atq (hcur : s.cur = some u) : exec .atq s = meaning (match portOf s.ir.d with
    | none => blockOp .atq { d := 0 } (atqStart s.ir (2 ^ Hnd.ew (s.handleOf u s.ir.x8.toNat)))
        (fun x => writeD 1 (fun l => loaded (s.handleOf u s.ir.x8.toNat) true (2 ^ Hnd.ew (s.handleOf u s.ir.x8.toNat)) 64 (x l)))
    | some n => insn .atq { d := 0 } (atqPortBody s.ir (2 ^ Hnd.ew (s.handleOf u s.ir.x8.toNat)) n)) s :=
  (meaning_read (M.ops_run s)).trans ((meaning_read (M.unit_run hcur)).trans (meaning_read (M.get_run s)))

section
variable (he : Executes s (.ap tm sp) { d := 0 }) (hpc : s.pcAt (.ap tm sp) < 2 ^ 64) (hx : s.aps.find (stripKey tm sp) = some x)
  (hd : Delivers s (.ap tm sp) { d := 0 } .offset v t)
include he hpc hx hd

omit he hpc hx in
theorem atqInput_run : atqInput s.ir (s.past (.ap tm sp)) = .ok (atqOpnds s.ir v, t) := by
  have hfetch : fetch { d := 0 } .offset (s.past (.ap tm sp)) = .ok (v, t) := hd
  simp only [atqInput, M.bind_run, hfetch, M.pure_run]

theorem atqStart_run (ha : accesses (atqWant s.ir size) (atqOpnds s.ir v) (laneList (apGuard x s.ir).bits) true true false t = .ok (rs, t1)) :
    atqStart s.ir size (s.past (.ap tm sp)) = .ok (apReqs s t1 (.ap tm sp) true (atqKind s.ir size v) rs, t1) := by
  have hcalm : Calm (s.past (.ap tm sp)) t1 := hd.calm.trans (accesses_calm _ _ _ _ _ _ _ _ _ ha)
  simp only [atqStart, M.bind_run, atqInput_run hd, M.lanes_calm hd.calm he.1 hx, ha,
    M.reqs_run _ _ (hcalm.cur.trans he.past_cur) (M.here_calm he hpc hcalm)]
  rfl

theorem atqPortBody_run {p q : Port} {ps : List (Nat × Spot)} (hc : checkPorts { d := 0 } (s.past (.ap tm sp)) = .ok ((), s.past (.ap tm sp)))
    (hp : s.ports.find (portKey (stripKey tm sp) n) = some p) (hk : p.kind = .acc) (hm : p.mode = .elem) (hb : p.bytes = size)
    (hs : spots (atqWant s.ir size) (atqOpnds s.ir v) (laneList (apGuard x s.ir).bits) true true false t = .ok (ps, t1))
    (hq : t1.ports.find (portKey (stripKey tm sp) n) = some q) (hpast : q.past q.reserve = false) (hroom : q.reserve + 1 ≤ q.head + q.depth)
    (hr : r = t1.rowsReserved tm sp n q [laneRow (apGuard x s.ir).bits]) (hrep : r.replyRoom (.ap tm sp) ps.length = true) :
    atqPortBody s.ir size n (s.past (.ap tm sp)) = .ok ((), r.injectAll (r.portLoads (.ap tm sp) (s.pcAt (.ap tm sp)) .both (atqKind s.ir size v)
      (ps.map (fun y => (y.2, y.1, .port (portKey (stripKey tm sp) n) q.reserve y.1))))) := by
  have hcalm : Calm (s.past (.ap tm sp)) t1 := hd.calm.trans (spots_calm _ _ _ _ _ _ _ _ _ hs)
  have hres := hcalm.trans (rowsReserved_calm t1 tm sp n q [laneRow (apGuard x s.ir).bits])
  have hcur := hcalm.cur.trans he.past_cur
  have hbound := M.boundPort_run (n := n) he.past_cur (by rw [State.past_ports]; exact hp)
  have hpush := M.pushRows_run (rows := [laneRow (apGuard x s.ir).bits]) hcur hq hpast hroom
  subst hr
  have hall : ((t1.rowsReserved tm sp n q [laneRow (apGuard x s.ir).bits]).portLoads (.ap tm sp) (s.pcAt (.ap tm sp)) .both (atqKind s.ir size v)
      (ps.map (fun y => (y.2, y.1, Landing.port (portKey (stripKey tm sp) n) q.reserve y.1)))).filter (·.once) =
      (t1.rowsReserved tm sp n q [laneRow (apGuard x s.ir).bits]).portLoads (.ap tm sp) (s.pcAt (.ap tm sp)) .both (atqKind s.ir size v)
      (ps.map (fun y => (y.2, y.1, Landing.port (portKey (stripKey tm sp) n) q.reserve y.1))) := by
    refine List.filter_eq_self.2 fun y hy => ?_
    obtain ⟨z, _, rfl⟩ := List.mem_map.1 hy
    exact portLoad_once_atomic _ _ _ _ _ _ _ _ _ _ _ _ _
  have hload := M.loadRows_sent (kind := atqKind s.ir size v) (need := .both)
    (ps.map (fun y => (y.2, y.1, Landing.port (portKey (stripKey tm sp) n) q.reserve y.1))) (hres.cur.trans he.past_cur) (M.here_calm he hpc hres)
    (by rw [hall]; simpa [State.portLoads] using hrep)
  have hkey := M.portKeyOf_run (hres.cur.trans he.past_cur) n
  unfold laneRow at hpush hkey
  simp only [atqPortBody, M.bind_run, hc, hbound, hk, hm, hb, ne_eq, not_true_eq_false, or_self, if_false, M.lanes_calm (Calm.refl _) he.1 hx,
    atqInput_run hd, hs, zeroSlot, hpush, hkey]
  exact hload

end

end Sys2Proof.Machine
end

section open Sys2Proof Machine

/-- Settles O28: what LDSC, STSC and ATQ send and how they end, and ATQ's row of requests. -/
theorem tagAndAtomicQueuesComplete : Obligations.TagAndAtomicQueuesComplete := by
  unfold Obligations.TagAndAtomicQueuesComplete
  refine ⟨?_, ?_, ?_, ?_⟩
  · intro q hq s t t1 tm sp x v rs
    simp only [List.mem_cons, List.not_mem_nil, or_false] at hq
    rcases hq with rfl | rfl <;> dsimp only <;> intro he hpc hx hb hd ha hroom
    · have hcalm : Calm (s.past (.ap tm sp)) t1 := hd.calm.trans (accesses_calm _ _ _ _ _ _ _ _ _ ha)
      have hstart := tagStart_run (kind := fun _ _ => .tagGet) he hpc hx hd ha
      refine (exec_ldsc s).trans (blockOp_sends he hx hb hstart hcalm ?_)
      have hnone : (apReqs s t1 (.ap tm sp) true (fun _ => .tagGet) rs).filter (fun r => r.2.once) = [] := by
        simp [apReqs, List.filter_map, Function.comp_def, Req.once, Req.writes, State.reqOf]
      exact congrArg (fun l : List (Nat × Req) => t1.replyRoom (.ap tm sp) l.length) hnone
    · have hcalm : Calm (s.past (.ap tm sp)) t1 := hd.calm.trans (accesses_calm _ _ _ _ _ _ _ _ _ ha)
      have hstart := tagStart_run (kind := fun v l => .tagSet (BitVec.ofNat 4 (v.a l).bits.toNat)) he hpc hx hd ha
      refine (exec_stsc s).trans (blockOp_sends he hx hb hstart hcalm ?_)
      have hall : ((apReqs s t1 (.ap tm sp) true (fun l => .tagSet (BitVec.ofNat 4 (v.a l).bits.toNat)) rs).filter (fun r => r.2.once)).length =
          rs.length := by
        simp [apReqs, List.filter_map, Function.comp_def, Req.once, Req.writes, State.reqOf]
      exact (congrArg (t1.replyRoom (.ap tm sp)) hall).trans hroom
  · intro s t t' tm sp x b v u r size shGet shSet shAtq hx hb hok
    refine ⟨fun he hd hw => ?_, fun he hd => ?_, fun he hn hd hw => ?_⟩
    · have hir : t.ir = s.ir := hd.calm.ir.trans (State.past_ir s u)
      exact (exec_ldsc s).trans (blockOp_ends he hx hb hd hok (M.writeD_of_writes (r := r) hir hw) hw.sameUnit)
    · exact (exec_stsc s).trans (blockOp_ends he hx hb hd hok rfl (SameUnit.refl _))
    · have hir : t.ir = s.ir := hd.calm.ir.trans (State.past_ir s u)
      have hexec := exec_atq he.1
      rw [portOf_of_noPort hn] at hexec
      exact hexec.trans (blockOp_ends he hx hb hd hok (M.writeD_of_writes (r := r) hir hw) hw.sameUnit)
  · intro s t t1 tm sp x v rs u sh size cas v' he hpc hx hb hn hd ha hroom
    have hcalm : Calm (s.past u) t1 := hd.calm.trans (accesses_calm _ _ _ _ _ _ _ _ _ ha)
    have hexec := exec_atq he.1
    rw [portOf_of_noPort hn] at hexec
    refine hexec.trans (blockOp_sends he hx hb (atqStart_run he hpc hx hd ha) hcalm ?_)
    have hall : ((apReqs s t1 u true (atqKind s.ir size v) rs).filter (fun r => r.2.once)).length = rs.length := by
      simp [apReqs, List.filter_map, Function.comp_def, Req.once, Req.writes, State.reqOf, atqKind]
    exact (congrArg (t1.replyRoom u) hall).trans hroom
  · intro s t t1 tm sp n p q x v ps u sh key act size cas v' row q' r he hpc hx hn hc hp hk hm hb hd hs hq hpast hroom hrep
    have hexec := exec_atq he.1
    rw [hn] at hexec
    have hrun := atqPortBody_run he hpc hx hd hc hp hk hm hb hs hq hpast hroom (show r = _ from rfl) hrep
    have hcalm : Calm (s.past u) r := (hd.calm.trans (spots_calm _ _ _ _ _ _ _ _ _ hs)).trans (rowsReserved_calm t1 tm sp n q [laneRow act])
    refine hexec.trans ((insn_completes_of_sameUnit he hrun (hcalm.sameUnit.trans (injectAll_sameUnit _ _))).trans ?_)
    simp only [State.portLoads, List.map_map]
    rfl

end


section
/-! SUPPORT. What a strip operation does, or why it is refused, on either side (R206-R210, R213). -/

namespace Sys2Proof.Machine

variable {s t r : State} {u : Agent} {tm sp tid n : Nat} {i : Instr} {o : Ops} {a b : Val}

/-- The team and strip of a thread. -/
def OfStrip (u : Agent) (tm sp : Nat) : Prop :=
  match u with
  | .ex m tid => m = tm ∧ tid / 16 = sp
  | .ap m p => m = tm ∧ p = sp
  | .qe _ => False

theorem M.myStrip_run (hcur : t.cur = some u) (hu : OfStrip u tm sp) : myStrip t = .ok (stripKey tm sp, t) := by
  cases u with
  | ex m tid =>
    obtain ⟨rfl, rfl⟩ := hu
    simp only [myStrip, M.bind_run, M.unit_run hcur, M.pure_run]
  | ap m p =>
    obtain ⟨rfl, rfl⟩ := hu
    simp only [myStrip, M.bind_run, M.unit_run hcur, M.pure_run]
  | qe n => cases hu

/-- A strip operation for a thread of a known strip. -/
def stripAct (i : Instr) (o : Ops) (a b : Val) (u : Agent) (tm sp : Nat) : M Unit := do
  let n := objPort o.d
  let key := portKey (stripKey tm sp) n
  let x := (heldVal a).bits.toNat
  let y := (heldVal b).bits.toNat
  match i with
  | .qbind =>
    match (← get).bind tm sp n (bindingOf o.x8 y) (y / 2 ^ 13 == 0) with
    | .ok s => set s
    | .error e => stopTrap (portTrap e n)
  | .qunbind => do
    let _ ← boundPort n
    modify (fun s => s.unbind tm sp n)
  | .pat => do
    let p ← boundPort n
    match p.engine with
    | none => stopTrap (portTrap 9 n)
    | some e =>
      if (← get).patBusy key p e ∨ x < 1 ∨ x > 2 ^ 24 then stopTrap (portTrap 9 n)
      let k := o.x8.toNat % 4
      modify (fun s => s.modPort key (fun p =>
        { p with engine := some { e with counts := e.counts.set k x, strides := e.strides.set k (sext y 32) } }))
  | .patgo => do
    let p ← boundPort n
    match p.engine with
    | none => stopTrap (portTrap 9 n)
    | some e =>
      let s ← get
      if s.patBusy key p e ∨ e.product > 2 ^ 32 - 1 then stopTrap (portTrap 9 n)
      trapIf b.poison 0x11 1
      let h := s.handleOf u o.x8.toNat
      if Hnd.space h = 7 then stopTrap (accTrap 0x24 1 o.x8.toNat 0)
      if Hnd.kind h ≠ 4 then stopTrap (accTrap 0x24 5 o.x8.toNat 0)
      let start := y % 2 ^ 16 * Hnd.ostx h + y / 2 ^ 16 % 2 ^ 16 * Hnd.osty h
      let go (base : Nat) : PatEngine :=
        { e with running := true, handle := o.x8.toNat, start, step := 0, total := e.product, base, cut := false }
      if p.kind = .pat then
        let live := (List.range 16).filter (s.laneLive tm sp)
        let fin := p.fin.getD 0
        waitUnless (p.fin.isNone || live.all (fun l => p.pos.getD l 0 == fin)) (.port n true)
        modify (fun s => s.modPort key (fun p => { p with fin := none, engine := some (go p.reserve) }))
      else
        let base := if e.total = 0 then 0 else p.fin.getD 0
        modify (fun s => s.modPort key (fun p => { p with fin := some (base + e.product), engine := some (go base) }))
  | .qeos => do
    let p ← boundPort n
    let mine := if sideOf u = .exec then !p.execPops else p.kind == .acc
    if !mine then stopTrap (portTrap 2 n)
    if (if p.gen then p.engine.elim true (·.cut) else p.fin.isSome) then stopTrap (portTrap 6 n)
    let e := if sideOf u = .exec then p.pos.foldl max 0 else p.reserve
    modify (fun s => s.modPort key (fun p => { p with
      fin := some (p.fin.elim e (min e)), engine := p.engine.map (fun x => { x with cut := true }) }))
  | _ => pure ()

theorem stripEffect_run (hcur : t.cur = some u) (hu : OfStrip u tm sp) : stripEffect i o a b t = stripAct i o a b u tm sp t := by
  cases u with
  | ex m tid =>
    obtain ⟨rfl, rfl⟩ := hu
    exact (M.bind_ok (M.unit_run hcur)).trans rfl
  | ap m p =>
    obtain ⟨rfl, rfl⟩ := hu
    exact (M.bind_ok (M.unit_run hcur)).trans rfl
  | qe n => cases hu

theorem M.boundPort_some {p : Port} {k : Nat} (hk : myStrip t = .ok (k, t)) (hp : t.ports.find (portKey k n) = some p) :
    boundPort n t = .ok (p, t) := by
  simp only [boundPort, M.bind_run, M.get_run, hk, hp, M.pure_run]

theorem M.boundPort_none {k : Nat} (hk : myStrip t = .ok (k, t)) (hp : t.ports.find (portKey k n) = none) :
    boundPort n t = .error (.trap (portTrap 1 n)) := by
  simp only [boundPort, M.bind_run, M.get_run, hk, hp]
  rfl

/-- A change of a port that is there is its change of that port. -/
theorem modPort_found {p : Port} {k : Nat} {f g : Port → Port} (hp : t.ports.find k = some p) (h : f p = g p) : t.modPort k f = t.modPort k g := by
  simp only [State.modPort, Assoc.alter, hp, h]

/-! ### Bindings -/

/-- The state with a port bound: it takes its entries and engine from the core. -/
def State.bound (s : State) (tm sp n : Nat) (c : Nat) (b : Binding) : State :=
  (List.range 16).foldl (fun s l => s.modEx tm (16 * sp + l) (fun x => { x with eos := setBit16 x.eos n false }))
    (({ s with ports := s.ports.put (portKey (stripKey tm sp) n) b.port } : State).modTeam tm (fun t =>
      { t with qmem := t.qmem.modify c (· - b.depth * b.port.perRow), peng := t.peng.modify c (· - (if b.port.engine.isSome then 1 else 0)) }))

theorem bind_eq {g : Team} (hg : s.teams.find tm = some g) (n : Nat) (b : Binding) (resOk : Bool) : s.bind tm sp n b resOk =
    if (s.ports.find (portKey (stripKey tm sp) n)).isSome then .error 4
    else if !b.ok || !resOk then .error 8
    else if g.qmem.getD (g.half sp) 0 < b.depth * b.port.perRow ∨ g.peng.getD (g.half sp) 0 < (if b.port.engine.isSome then 1 else 0) then .error 5
    else if b.needsAccess && !LRec.access (s.recordOf g) then .error 7
    else .ok (s.bound tm sp n (g.half sp) b) := by
  simp only [State.bind, hg]
  rfl

theorem bind_taken {g : Team} {b : Binding} (hg : s.teams.find tm = some g) (hport : s.ports.find (portKey (stripKey tm sp) n) = none)
    (hok : b.ok = true) (hmem : b.depth * b.port.perRow ≤ g.qmem.getD (g.half sp) 0)
    (heng : (if b.port.engine.isSome then 1 else 0) ≤ g.peng.getD (g.half sp) 0)
    (hacc : b.needsAccess = true → LRec.access (s.recordOf g) = true) : s.bind tm sp n b true = .ok (s.bound tm sp n (g.half sp) b) := by
  have hres : ¬ (g.qmem.getD (g.half sp) 0 < b.depth * b.port.perRow ∨
      g.peng.getD (g.half sp) 0 < (if b.port.engine.isSome then 1 else 0)) := by omega
  have hthread : (b.needsAccess && !LRec.access (s.recordOf g)) = false := by
    cases h : b.needsAccess
    · rfl
    · rw [hacc h]; rfl
  rw [bind_eq hg, hport, hok, if_neg hres, hthread]
  rfl

theorem bound_keeps {P : State → State → Prop} (hf : Frames P) (s : State) (tm sp n c : Nat) (b : Binding)
    (hex : ∀ s l, P s (s.modEx tm l (fun x => { x with eos := setBit16 x.eos n false }))) (hports : ∀ m, P s ({ s with ports := m } : State))
    (hteam : ∀ s g, P s (s.modTeam tm g)) : P s (s.bound tm sp n c b) :=
  hf.trans (hf.trans (hports _) (hteam _ _))
    (hf.foldl (f := fun s l => s.modEx tm (16 * sp + l) (fun x => { x with eos := setBit16 x.eos n false })) (fun s _ => hex s _) _ _)

/-! ### What is done -/

theorem stripAct_takes (hi : i ∈ [Instr.qbind, .qunbind, .pat, .patgo, .qeos]) (hmy : myStrip t = .ok (stripKey tm sp, t))
    (h : t.stripTakes u tm sp i o a b) : stripAct i o a b u tm sp t = .ok ((), t.stripLeaves u tm sp i o a b) := by
  simp only [List.mem_cons, List.not_mem_nil, or_false] at hi
  rcases hi with rfl | rfl | rfl | rfl | rfl
  · obtain ⟨g, hg, hport, hok, hy, hmem, heng, hacc⟩ := h
    have hres : ((heldVal b).bits.toNat / 2 ^ 13 == 0) = true := beq_iff_eq.2 (Nat.div_eq_of_lt hy)
    have hbind := bind_taken hg hport hok hmem heng hacc
    simp only [stripAct, M.bind_run, M.get_run, hres, hbind, M.set_run, State.stripLeaves]
  · obtain ⟨p, hp⟩ := h
    simp only [stripAct, M.bind_run, M.boundPort_some hmy hp, M.modify_run]
    rfl
  · obtain ⟨p, e, hp, he, hbusy, h1, h2⟩ := h
    have hok : ¬ (t.patBusy (portKey (stripKey tm sp) (objPort o.d)) p e = true ∨ (heldVal a).bits.toNat < 1 ∨ (heldVal a).bits.toNat > 2 ^ 24) := by
      rintro (h | h | h)
      · exact Bool.false_ne_true (hbusy.symm.trans h)
      · exact absurd h1 (Nat.not_le.2 h)
      · exact absurd h2 (Nat.not_le.2 h)
    simp only [stripAct, M.bind_run, M.boundPort_some hmy hp, he, M.get_run, if_neg hok, M.modify_run, State.stripLeaves]
    exact congrArg (fun q => Except.ok ((), q)) (modPort_found hp (by simp only [he, Option.map_some]))
  · obtain ⟨p, e, hp, he, hbusy, hprod, hpoison, h7, h4, hfin⟩ := h
    have hok : ¬ (t.patBusy (portKey (stripKey tm sp) (objPort o.d)) p e = true ∨ e.product > 2 ^ 32 - 1) := by
      rintro (h | h)
      · exact Bool.false_ne_true (hbusy.symm.trans h)
      · exact absurd hprod (Nat.not_le.2 h)
    simp only [stripAct, M.bind_run, M.boundPort_some hmy hp, he, M.get_run, if_neg hok, hpoison, M.trapIf_false, M.pure_run, if_neg h7, h4,
      ne_eq, not_true_eq_false, if_false, State.stripLeaves]
    by_cases hk : p.kind = .pat
    · have hready : (p.fin.isNone || ((List.range 16).filter (t.laneLive tm sp)).all (fun l => p.pos.getD l 0 == p.fin.getD 0)) = true := by
        cases hf : p.fin with
        | none => rfl
        | some f =>
          refine Bool.or_eq_true_iff.2 (.inr (List.all_eq_true.2 fun l hl => beq_iff_eq.2 ?_))
          obtain ⟨hl, hlive⟩ := List.mem_filter.1 hl
          exact hfin hk f hf l (List.mem_range.1 hl) hlive
      simp only [if_pos hk, hready, M.waitUnless_true]
      exact congrArg (fun q => Except.ok ((), q)) (modPort_found hp (by simp only [if_pos hk, he, Option.map_some]))
    · simp only [if_neg hk, M.modify_run]
      exact congrArg (fun q => Except.ok ((), q)) (modPort_found hp (by simp only [if_neg hk, he, Option.map_some]))
  · obtain ⟨p, hp, hmine, hend⟩ := h
    have hopen : (if p.gen then p.engine.elim true (·.cut) else p.fin.isSome) = false := by
      split
      · obtain ⟨e, he, hc⟩ := (if_pos ‹_›).mp hend
        rw [he]
        exact hc
      · rw [(if_neg ‹_›).mp hend]
        rfl
    have hown : (if sideOf u = .exec then !p.execPops else p.kind == .acc) = true := by
      split
      · rw [(if_pos ‹_›).mp hmine]
        rfl
      · rw [(if_neg ‹_›).mp hmine]
        rfl
    simp only [stripAct, M.bind_run, M.boundPort_some hmy hp, hown, Bool.not_true, Bool.false_eq_true, if_false, hopen, M.modify_run, State.stripLeaves]
    exact congrArg (fun q => Except.ok ((), q)) (modPort_found hp rfl)

/-! ### What is refused -/

theorem stripAct_fails {e : TrapInfo} (hi : i ∈ [Instr.qbind, .qunbind, .pat, .patgo, .qeos]) (hmy : myStrip t = .ok (stripKey tm sp, t))
    (h : t.stripFails u tm sp i o a b e) : stripAct i o a b u tm sp t = .error (.trap e) := by
  simp only [List.mem_cons, List.not_mem_nil, or_false] at hi
  unfold State.stripFails at h
  dsimp only at h
  rcases hi with rfl | hi
  · obtain ⟨k, hk, rfl⟩ := h
    simp only [stripAct, M.bind_run, M.get_run, hk]
    rfl
  · cases hp : t.ports.find (portKey (stripKey tm sp) (objPort o.d)) with
    | none =>
      have hnone := M.boundPort_none (n := objPort o.d) hmy hp
      rw [hp] at h
      rcases hi with rfl | rfl | rfl | rfl <;> obtain rfl := h <;> simp only [stripAct, M.bind_run, hnone]
    | some p =>
      have hsome := M.boundPort_some (n := objPort o.d) hmy hp
      rw [hp] at h
      rcases hi with rfl | rfl | rfl | rfl
      · cases h
      · obtain ⟨h, rfl⟩ := h
        cases he : p.engine with
        | none =>
          simp only [stripAct, M.bind_run, hsome, he]
          rfl
        | some e =>
          simp only [stripAct, M.bind_run, hsome, he, M.get_run, gt_iff_lt, if_pos (h e he), M.stopTrap_run]
      · rcases h with ⟨h, rfl⟩ | ⟨e', he, hbusy, hprod, rfl, hbad⟩
        · cases he : p.engine with
          | none =>
            simp only [stripAct, M.bind_run, hsome, he]
            rfl
          | some e =>
            simp only [stripAct, M.bind_run, hsome, he, M.get_run, gt_iff_lt, if_pos (h e he), M.stopTrap_run]
        · have hok : ¬ (t.patBusy (portKey (stripKey tm sp) (objPort o.d)) p e' = true ∨ 2 ^ 32 - 1 < e'.product) := by
            rintro (h | h)
            · exact Bool.false_ne_true (hbusy.symm.trans h)
            · exact absurd hprod (Nat.not_le.2 h)
          simp only [stripAct, M.bind_run, hsome, he, M.get_run, gt_iff_lt, if_neg hok]
          cases hpo : b.poison with
          | true => rfl
          | false =>
            rw [hpo] at hbad
            by_cases h7 : Hnd.space (t.handleOf u o.x8.toNat) = 7
            · simp only [M.trapIf_false, M.pure_run, if_pos h7, Bool.false_eq_true, if_false, M.bind_run, M.stopTrap_run]
            · have h4 := hbad.resolve_left Bool.false_ne_true |>.resolve_left h7
              simp only [M.trapIf_false, M.pure_run, if_neg h7, Bool.false_eq_true, if_false, if_pos h4, M.bind_run,
                M.stopTrap_run]
      · rcases h with ⟨hmine, rfl⟩ | ⟨hmine, hend, rfl⟩
        · simp only [stripAct, M.bind_run, hsome, hmine, Bool.not_false, if_true, M.stopTrap_run]
        · simp only [stripAct, M.bind_run, hsome, hmine, Bool.not_true, Bool.false_eq_true, if_false, hend, if_true, M.stopTrap_run]

end Sys2Proof.Machine
end

section
/-! SUPPORT. What strip operations leave of their threads, and STRIP_OPERATION (R207, R208). -/

namespace Sys2Proof.Machine

variable {s t r : State} {u : Agent} {tm sp tid n l : Nat} {i : Instr} {o : Ops} {a b : Val}

/-- Relations that allow changes of no unit, and of units that keep their pc and what they have arrived at. -/
structure Gentle (P : State → State → Prop) : Prop extends Frames P where
  ctl : ∀ (s : State) u (f : Ctl → Ctl), (∀ c, (f c).pc = c.pc) → P s (s.modCtl u f)
  eos : ∀ (s : State) a b (f : ExThread → BitVec 16), P s (s.modEx a b (fun x => { x with eos := f x }))
  units : ∀ (s t : State), t.cur = s.cur → t.ir = s.ir → t.exs = s.exs → t.aps = s.aps → t.engines = s.engines → P s t

theorem gentle_sameUnit : Gentle SameUnit where
  toFrames := sameUnit_local.toFrames
  ctl s u f _ := sameUnit_local.modCtl s u f
  eos s _ _ _ := sameUnit_local.ex s _ _ _
  units _ _ h1 h2 h3 h4 h5 := sameUnit_of_units h1 h2 h3 h4 h5

theorem Arrived.modCtl (s : State) (u : Agent) {f : Ctl → Ctl} (h : ∀ c, (f c).pc = c.pc) : Arrived s (s.modCtl u f) := by
  cases u with
  | ex tm tid => exact Arrived.modEx s (fun x => ⟨rfl, h x.ctl⟩)
  | _ => exact ⟨rfl, fun _ => rfl⟩

theorem gentle_arrived : Gentle Arrived where
  toFrames := Arrived.frames
  ctl s u _ h := Arrived.modCtl s u h
  eos s _ _ _ := Arrived.modEx s (fun _ => ⟨rfl, rfl⟩)
  units s t h1 _ h3 _ _ := ⟨h1, fun k => by rw [h3]⟩

/-- What an unbind does to the units: discarded tokens are counted, elements leave their threads' counters, and stores not performed are
lost. -/
def State.unbindUnits (s : State) (tm sp n : Nat) (p : Port) : State :=
  let key := portKey (stripKey tm sp) n
  let s := if p.tokensLeft = 0 then s else s.discard tm sp p.tokensLeft
  let s := if p.kind = .store then
      p.rows.foldl (fun s r => (rowElems r).foldl (fun s e => s.modCtl (.ex tm (16 * sp + e.1)) (fun c => c.bump (-1))) s) s
    else s
  let s := (List.range 16).foldl (fun s l => s.modCtl (.ex tm (16 * sp + l)) (fun c => c.unbound key)) s
  let lost := s.reqs.filter (fun q => q.2.patStoring key)
  lost.foldl (fun s q => s.unpush q.2) { s with reqs := s.reqs.filter (fun q => !q.2.patStoring key) }

theorem unbind_eq {p : Port} {g : Team} (hp : s.ports.find (portKey (stripKey tm sp) n) = some p) (hg : s.teams.find tm = some g) :
    s.unbind tm sp n =
      let r := (s.unbindUnits tm sp n p).modTeam tm (fun t =>
        { t with qmem := t.qmem.modify (g.half sp) (· + p.depth * p.perRow), peng := t.peng.modify (g.half sp) (· + if p.engine.isSome then 1 else 0) })
      { r with ports := r.ports.del (portKey (stripKey tm sp) n),
               reqs := r.reqs.map (fun q => (q.1, if q.2.fills (portKey (stripKey tm sp) n) then { q.2 with landing := .none } else q.2)) } := by
  simp only [State.unbind, hp, hg]
  rfl

/-- Every relation that allows those steps stands between the state and what the unbind makes of its units. -/
theorem unbindUnits_keeps {P : State → State → Prop} (hf : Frames P) (hctl : ∀ (s : State) u (f : Ctl → Ctl), (∀ c, (f c).pc = c.pc) → P s (s.modCtl u f))
    (hdis : ∀ (s : State) a b k, P s (s.discard a b k)) (hreqs : ∀ (s : State) m, P s { s with reqs := m }) (s : State) (tm sp n : Nat) (p : Port) :
    P s (s.unbindUnits tm sp n p) := by
  unfold State.unbindUnits
  dsimp only
  refine hf.trans ?_ (hf.trans (hreqs _ _) (hf.foldl (f := fun (s : State) (q : Nat × Req) => s.unpush q.2)
    (fun s q => hf.foldl (f := fun (s : State) (q : Nat × Nat) => s.modCtl (.ex q.1 q.2) (fun c => c.bump (-1))) (fun s _ => hctl s _ _ fun _ => rfl) _ s)
    _ _))
  refine hf.trans ?_ (hf.foldl (f := fun s l => s.modCtl (.ex tm (16 * sp + l)) (fun c => c.unbound (portKey (stripKey tm sp) n)))
    (fun s _ => hctl s _ _ fun _ => rfl) _ _)
  have hdiscard : P s (if p.tokensLeft = 0 then s else s.discard tm sp p.tokensLeft) := by
    split
    · exact hf.refl s
    · exact hdis s _ _ _
  split
  · exact hf.trans hdiscard (hf.foldl (f := fun s r => (rowElems r).foldl (fun s e => s.modCtl (.ex tm (16 * sp + e.1)) (fun c => c.bump (-1))) s)
      (fun s r => hf.foldl (f := fun (s : State) (e : Nat × BitVec 512) => s.modCtl (.ex tm (16 * sp + e.1)) (fun c => c.bump (-1)))
        (fun s _ => hctl s _ _ fun _ => rfl) _ s) _ _)
  · exact hdiscard

theorem Gentle.discard {P : State → State → Prop} (h : Gentle P) (s : State) (a b k : Nat) : P s (s.discard a b k) := by
  unfold State.discard
  split
  · exact h.refl s
  · exact h.units _ _ rfl rfl rfl rfl rfl

theorem unbind_keeps {P : State → State → Prop} (h : Gentle P) (s : State) (tm sp n : Nat) : P s (s.unbind tm sp n) := by
  cases hp : s.ports.find (portKey (stripKey tm sp) n) with
  | none =>
    have : s.unbind tm sp n = s := by simp only [State.unbind, hp]
    rw [this]
    exact h.refl s
  | some p =>
    cases hg : s.teams.find tm with
    | none =>
      have : s.unbind tm sp n = s := by simp only [State.unbind, hp, hg]
      rw [this]
      exact h.refl s
    | some g =>
      rw [unbind_eq hp hg]
      exact h.trans (unbindUnits_keeps h.toFrames h.ctl h.discard (fun s m => h.units _ _ rfl rfl rfl rfl rfl) s tm sp n p)
        (h.units _ _ rfl rfl rfl rfl rfl)

theorem bind_ok {w : Binding} {c : Bool} (hb : s.bind tm sp n w c = .ok t) :
    ∃ g, s.teams.find tm = some g ∧ t = s.bound tm sp n (g.half sp) w := by
  cases hg : s.teams.find tm with
  | none => simp [State.bind, hg] at hb
  | some g =>
    refine ⟨g, rfl, ?_⟩
    rw [bind_eq hg] at hb
    generalize (if w.port.engine.isSome then 1 else 0) = eng at hb
    repeat' split at hb
    all_goals cases hb
    rfl

theorem bind_keeps {P : State → State → Prop} (h : Gentle P) {w : Binding} {c : Bool} (hb : s.bind tm sp n w c = .ok t) : P s t := by
  obtain ⟨g, _, rfl⟩ := bind_ok hb
  exact bound_keeps h.toFrames _ _ _ _ _ _ (fun s l => h.eos s tm l _) (fun m => h.units _ _ rfl rfl rfl rfl rfl)
    (fun s g => h.units _ _ rfl rfl rfl rfl rfl)

/-- A strip operation moves no unit. -/
theorem stripLeaves_keeps {P : State → State → Prop} (h : Gentle P) (s : State) (u : Agent) (tm sp : Nat) (i : Instr) (o : Ops) (a b : Val) :
    P s (s.stripLeaves u tm sp i o a b) := by
  have hport : ∀ f k, P s (s.modPort k f) := fun f k => h.units _ _ rfl rfl rfl rfl rfl
  unfold State.stripLeaves
  dsimp only
  split
  · split
    · exact bind_keeps h ‹_›
    · exact h.refl s
  · exact unbind_keeps h s tm sp _
  · exact hport _ _
  · exact hport _ _
  · exact hport _ _
  · exact h.refl s

/-! ### Every live thread of the strip goes on -/

/-- The last-read marks of an arrived lane take effect. -/
def State.dropArrived (t : State) (tm sp l : Nat) : State :=
  match (t.exs.find (exKey tm (16 * sp + l))).bind (·.arr) with
  | some j => match t.asUnit (.ex tm (16 * sp + l)) j.args (dropMarks j.args (stripShape j.op)) with
    | .ok (_, r) => r
    | .error _ => t
  | none => t

/-- The lane goes on past its instruction. -/
def State.laneDone (t : State) (tm sp l : Nat) : State := (t.dropArrived tm sp l).finishEx tm (16 * sp + l)

/-- Same threads and ports. -/
def SameExsPorts (s t : State) : Prop := t.exs = s.exs ∧ t.ports = s.ports

theorem sameExsPorts_frames : Frames SameExsPorts := ⟨fun _ => ⟨rfl, rfl⟩, fun h1 h2 => ⟨h2.1.trans h1.1, h2.2.trans h1.2⟩⟩

theorem dropMarks_sameExsPorts (o : Ops) (sh : Shape) : Keeps SameExsPorts (dropMarks o sh) := by
  have hf := sameExsPorts_frames
  unfold Machine.dropMarks
  refine Keeps.bind hf (Keeps.unit hf) (fun u => ?_)
  cases u with
  | ex tm tid => exact Keeps.ite (Keeps.pure hf _) (Keeps.modify (fun s => ⟨rfl, rfl⟩))
  | _ => exact Keeps.pure hf _

theorem dropArrived_same (t : State) (tm sp l : Nat) : SameExsPorts t (t.dropArrived tm sp l) := by
  unfold State.dropArrived
  split
  · next j _ =>
    split
    · next h => exact dropMarks_sameExsPorts _ _ { t with cur := some (.ex tm (16 * sp + l)), ir := j.args } _ _ h
    · exact ⟨rfl, rfl⟩
  · exact ⟨rfl, rfl⟩

theorem finishEx_ports (t : State) (tm tid : Nat) : (t.finishEx tm tid).ports = t.ports := by
  unfold State.finishEx
  split
  · rfl
  · split <;> rfl

theorem finishEx_exs_of_ne {k : Nat} (hk : k ≠ exKey tm tid) : (t.finishEx tm tid).exs.find k = t.exs.find k := by
  unfold State.finishEx
  split
  · rfl
  · split
    · rfl
    · exact Assoc.find_alter_of_ne _ _ hk

/-- A thread that has gone on past the instruction it had arrived at. -/
def WentOn (t : State) (k : Nat) (j : Insn) (pc : Nat) : Prop :=
  ∃ y, t.exs.find k = some y ∧ y.arr = none ∧ y.ctl.status = .ready ∧ y.ctl.pc = (pc + j.args.form.bytes) % 2 ^ 64

theorem finishEx_wentOn {z : ExThread} {j : Insn} (hz : t.exs.find (exKey tm tid) = some z) (ha : z.arr = some j) :
    WentOn (t.finishEx tm tid) (exKey tm tid) j z.ctl.pc := by
  refine ⟨{ z with arr := none, ctl := { z.ctl with pc := (z.ctl.pc + j.args.form.bytes) % 2 ^ 64, status := .ready, readySince := t.now, solo := none } },
    ?_, rfl, rfl, rfl⟩
  simp only [State.finishEx, hz, ha]
  exact Assoc.find_alter_some _ hz

theorem lanesDone_same (tm sp : Nat) : ∀ (L : List Nat) (t : State), (∀ l ∈ L, l < 16) →
    (L.foldl (fun t l => t.laneDone tm sp l) t).ports = t.ports ∧
      ∀ k, (∀ l ∈ L, k ≠ exKey tm (16 * sp + l)) → (L.foldl (fun t l => t.laneDone tm sp l) t).exs.find k = t.exs.find k
  | [], t, _ => ⟨rfl, fun _ _ => rfl⟩
  | l :: L, t, hL => by
    obtain ⟨h1, h2⟩ := lanesDone_same tm sp L (t.laneDone tm sp l) (fun m hm => hL m (List.mem_cons_of_mem _ hm))
    obtain ⟨d1, d2⟩ := dropArrived_same t tm sp l
    refine ⟨h1.trans ((finishEx_ports _ _ _).trans d2), fun k hk => (h2 k (fun m hm => hk m (List.mem_cons_of_mem _ hm))).trans ?_⟩
    rw [State.laneDone, finishEx_exs_of_ne (hk l (List.mem_cons_self ..)), d1]

theorem laneKey_inj {x y : Nat} (h : exKey tm (16 * sp + x) = exKey tm (16 * sp + y)) : x = y := by
  simp only [exKey] at h
  omega

/-- Each lane of the strip that had arrived goes on. -/
theorem lanesDone_wentOn {L : List Nat} (hn : L.Nodup) (hL : ∀ l ∈ L, l < 16) : ∀ (t : State), ∀ l ∈ L, ∀ (z : ExThread) (j : Insn),
    t.exs.find (exKey tm (16 * sp + l)) = some z → z.arr = some j →
    WentOn (L.foldl (fun t l => t.laneDone tm sp l) t) (exKey tm (16 * sp + l)) j z.ctl.pc := by
  induction L with
  | nil => intro t l hl; cases hl
  | cons m L ih =>
    intro t l hl z j hz ha
    obtain ⟨hm, hn'⟩ := List.nodup_cons.1 hn
    have hL' : ∀ l ∈ L, l < 16 := fun x hx => hL x (List.mem_cons_of_mem _ hx)
    rw [← (dropArrived_same t tm sp m).1] at hz
    rw [List.foldl_cons]
    rcases List.mem_cons.1 hl with rfl | hl
    · obtain ⟨y, hy, hrest⟩ := finishEx_wentOn hz ha
      exact ⟨y, ((lanesDone_same tm sp L _ hL').2 _ (fun x hx e => hm (laneKey_inj (x := l) (y := x) e ▸ hx))).trans hy, hrest⟩
    · have hne : exKey tm (16 * sp + l) ≠ exKey tm (16 * sp + m) := fun e => hm (laneKey_inj (x := l) (y := m) e ▸ hl)
      exact ih hn' hL' _ l hl z j ((finishEx_exs_of_ne hne).trans hz) ha

/-- What STRIP_OPERATION runs for the lowest thread. -/
def stripBody (i : Insn) : M Unit := do
  let v ← fetch (stripShape i.op) .int
  stripEffect i.op i.args (v.a 0) (v.b 0)

section
variable {l0 : Nat} {rest : List Nat} {pc : Nat} {arrived : BitVec 16} {st : Strip} {x : ExThread} {j : Insn} {v : Opnds} {t0 : State}
  (hsp : sp < 128) (hlive : (List.range 16).filter (s.laneLive tm sp) = l0 :: rest) (hst : s.strips.find (stripKey tm sp) = some st)
  (hop : st.op = some (pc, arrived)) (harr : ∀ l ∈ l0 :: rest, arrived.getLsbD l = true) (hx : s.exs.find (exKey tm (16 * sp + l0)) = some x)
  (ha : x.arr = some j)
include hsp hlive hst hop harr hx ha

/-- STRIP_OPERATION of a strip whose live threads have all arrived. -/
theorem stripOperation_eq : s.stripOperation (stripKey tm sp) =
    match s.asUnit (.ex tm (16 * sp + l0)) j.args (stripBody j) with
    | .ok (_, t) => some (((l0 :: rest).foldl (fun t l => t.laneDone tm sp l) t).modStrip tm sp (fun x => { x with op := none }))
    | .error (.trap t) => some ((s.takeTrap (.ex tm (16 * sp + l0)) t (len0Of j.args.form)).modStrip tm sp (fun x =>
        { x with op := if setBit16 arrived l0 false = 0 then none else x.op.map (fun q => (q.1, setBit16 arrived l0 false)) }))
    | .error _ => none := by
  have h1 : stripKey tm sp / 128 = tm := by simp only [stripKey]; omega
  have h2 : stripKey tm sp % 128 = sp := by simp only [stripKey]; omega
  have hbind : (s.strips.find (stripKey tm sp)).bind (·.op) = some (pc, arrived) := by rw [hst]; exact hop
  have hall : (l0 :: rest).all (fun l => arrived.getLsbD l) = true := List.all_eq_true.2 harr
  have hfound : (s.exs.find (exKey tm (16 * sp + l0))).bind (·.arr) = some j := by rw [hx]; exact ha
  simp only [State.stripOperation, h1, h2, hbind, hlive, hall, if_true, hfound]
  rfl

omit hsp hst hop harr hx ha in
theorem stripBody_run
    (hf : fetch (stripShape j.op) .int { s with cur := some (.ex tm (16 * sp + l0)), ir := j.args } = .ok (v, t0)) :
    s.asUnit (.ex tm (16 * sp + l0)) j.args (stripBody j) = stripAct j.op j.args (v.a 0) (v.b 0) (.ex tm (16 * sp + l0)) tm sp t0 ∧
      myStrip t0 = .ok (stripKey tm sp, t0) := by
  have hl0 : l0 < 16 := by
    have : l0 ∈ (List.range 16).filter (s.laneLive tm sp) := hlive ▸ List.mem_cons_self ..
    exact List.mem_range.1 (List.mem_filter.1 this).1
  have hcur : t0.cur = some (.ex tm (16 * sp + l0)) := (fetch_calm _ _ _ _ _ hf).cur
  have hof : OfStrip (.ex tm (16 * sp + l0)) tm sp := ⟨rfl, by omega⟩
  exact ⟨(M.bind_ok hf).trans (stripEffect_run hcur hof), M.myStrip_run hcur hof⟩

end

/-! ### Issue -/

/-- PORTCFG 0x0A where another operation of the strip is recorded. -/
def sameStripOp (n a : Nat) (op : Option (Nat × BitVec 16)) : M Unit :=
  match op with
  | some (b, _) => if a ≠ b then stopTrap (portTrap 10 n) else pure ()
  | none => pure ()

/-- The body of a strip operation as a unit issues it. -/
def stripIssue (i : Instr) (o : Ops) : M Unit := do
  match ← unit with
  | .ex tm tid =>
    (if i = .qeos then portDeferred (objPort o.d) else pure ())
    checkPorts (stripShape i)
    let a ← here
    let st := (← get).strip tm (tid / 16)
    sameStripOp (objPort o.d) a st.op
    let m := st.op.elim 0 (·.2)
    let st' : Strip := { st with op := some (a, m ||| laneBit (tid % 16)) }
    modify (fun s => { s with strips := s.strips.put (stripKey tm (tid / 16)) st' })
    stay i .stripOp
  | .ap _ _ =>
    let v ← fetch (stripShape i) .int
    let l := lowLane (← lanes)
    stripEffect i o (v.a l) (v.b l)
  | .qe _ => pure ()

theorem exec_strip : ∀ i ∈ [Instr.qbind, .qunbind, .pat, .patgo, .qeos], ∀ s, exec i s = meaning (insn i (stripShape i) (stripIssue i s.ir)) s := by
  simp only [List.forall_mem_cons, List.not_mem_nil, false_implies, implies_true, and_true]
  and_intros <;> exact fun s => meaning_read (M.ops_run s)

/-- The access thread performs it. -/
theorem stripIssue_ap {v : Opnds} (he : Executes s (.ap tm sp) (stripShape i)) (hd : Delivers s (.ap tm sp) (stripShape i) .int v t) :
    stripIssue i s.ir (s.past (.ap tm sp)) =
      stripAct i s.ir (v.a (s.lead (.ap tm sp))) (v.b (s.lead (.ap tm sp))) (.ap tm sp) tm sp t ∧ myStrip t = .ok (stripKey tm sp, t) := by
  have hfetch : fetch (stripShape i) .int (s.past (.ap tm sp)) = .ok (v, t) := hd
  have hcur := hd.calm.cur.trans he.past_cur
  have hof : OfStrip (.ap tm sp) tm sp := ⟨rfl, rfl⟩
  obtain ⟨x, hx, _⟩ := he.2
  have hlead : lowLane (apGuard x s.ir).bits = s.lead (.ap tm sp) := by simp only [State.lead, hx, Option.elim_some]
  refine ⟨?_, M.myStrip_run hcur hof⟩
  simp only [stripIssue, M.bind_run, M.unit_run he.past_cur, hfetch, M.lanes_calm hd.calm he.1 hx, hlead]
  exact stripEffect_run hcur hof

/-- A thread's arrival at a strip operation recorded with its strip. -/
def State.stripArrival (s : State) (tm tid pc : Nat) (st : Strip) : State :=
  { s with strips := s.strips.put (stripKey tm (tid / 16)) { st with op := some (pc, st.op.elim 0 (·.2) ||| laneBit (tid % 16)) } }

/-- An execute thread records its arrival and stays. -/
theorem stripIssue_ex {x : ExThread} {st : Strip} (he : Executes s (.ex tm tid) (stripShape i)) (hx : s.exs.find (exKey tm tid) = some x)
    (hpc : s.pcAt (.ex tm tid) < 2 ^ 64) (hdef : x.ctl.deferred = [])
    (hc : checkPorts (stripShape i) (s.past (.ex tm tid)) = .ok ((), s.past (.ex tm tid))) (hst : st = s.strip tm (tid / 16))
    (hop : ∀ b m, st.op = some (b, m) → b = s.pcAt (.ex tm tid)) :
    stripIssue i s.ir (s.past (.ex tm tid)) = .ok ((), ((s.past (.ex tm tid)).stripArrival tm tid (s.pcAt (.ex tm tid)) st).stays tm tid i s.ir
      (s.pcAt (.ex tm tid)) .stripOp) := by
  have hctl : s.ctl (.ex tm tid) = some x.ctl := by simp [State.ctl, hx]
  have hpast : (s.past (.ex tm tid)).ctl (.ex tm tid) = some (x.ctl.past s.ir s.now) := by rw [State.ctl_past, hctl]; rfl
  have hnone : (if i = .qeos then portDeferred (objPort s.ir.d) else pure () : M Unit) (s.past (.ex tm tid)) = .ok ((), s.past (.ex tm tid)) := by
    split
    · exact M.takeDeferred_nil _ he.past_cur hpast hdef
    · rfl
  have hsame : sameStripOp (objPort s.ir.d) (s.pcAt (.ex tm tid)) st.op (s.past (.ex tm tid)) = .ok ((), s.past (.ex tm tid)) := by
    rcases hs : st.op with _ | ⟨b, m⟩
    · rfl
    · simp only [sameStripOp, if_neg (not_not.2 (hop b m hs).symm), M.pure_run]
  have hstrip : (s.past (.ex tm tid)).strip tm (tid / 16) = st := by
    rw [hst, State.strip_past]
  have harrive : here ((s.past (.ex tm tid)).stripArrival tm tid (s.pcAt (.ex tm tid)) st) =
      .ok (s.pcAt (.ex tm tid), (s.past (.ex tm tid)).stripArrival tm tid (s.pcAt (.ex tm tid)) st) :=
    M.here_of_ctl he hpc he.past_cur (State.past_ir s _) rfl
  have hstay := M.stay_run (i := i) (w := .stripOp) (t := (s.past (.ex tm tid)).stripArrival tm tid (s.pcAt (.ex tm tid)) st) he.past_cur harrive
  simp only [stripIssue, M.bind_run, M.unit_run he.past_cur, hnone, hc, M.here_run he hpc, M.get_run, hstrip, hsame, M.modify_run]
  refine hstay.trans ?_
  rw [show ((s.past (.ex tm tid)).stripArrival tm tid (s.pcAt (.ex tm tid)) st).ir = s.ir from State.past_ir s _]

theorem stripTakes_ops (h : t.stripTakes u tm sp i o a b) : i ∈ [Instr.qbind, .qunbind, .pat, .patgo, .qeos] := by
  unfold State.stripTakes at h
  dsimp only at h
  split at h
  · decide
  · decide
  · decide
  · decide
  · decide
  · cases h

/-- When PAT is refused (R209). -/
theorem patFails_of {p : Port} (hp : t.ports.find (portKey (stripKey tm sp) (objPort o.d)) = some p)
    (h : p.engine = none ∨ (∃ e, p.engine = some e ∧ t.patBusy (portKey (stripKey tm sp) (objPort o.d)) p e = true) ∨
      (heldVal a).bits.toNat < 1 ∨ 2 ^ 24 < (heldVal a).bits.toNat) :
    t.stripFails u tm sp .pat o a b (portTrap 9 (objPort o.d)) := by
  unfold State.stripFails
  simp only [hp, reduceCtorEq, if_false, and_true]
  intro e he
  rcases h with h | ⟨e', he', hb⟩ | h
  · rw [h] at he
    cases he
  · obtain rfl := Option.some.inj (he.symm.trans he')
    exact .inl hb
  · exact .inr h

/-! ### Bindings and the core's entries -/

/-- Same ports and teams. -/
def SamePorts (s t : State) : Prop := t.ports = s.ports ∧ t.teams = s.teams

theorem samePorts_frames : Frames SamePorts := ⟨fun _ => ⟨rfl, rfl⟩, fun h1 h2 => ⟨h2.1.trans h1.1, h2.2.trans h1.2⟩⟩

theorem samePorts_modCtl (s : State) (u : Agent) (f : Ctl → Ctl) : SamePorts s (s.modCtl u f) := by
  cases u <;> exact ⟨rfl, rfl⟩

theorem samePorts_discard (s : State) (a b k : Nat) : SamePorts s (s.discard a b k) := by
  unfold State.discard
  split <;> exact ⟨rfl, rfl⟩

theorem bound_samePorts (s : State) (tm sp n c : Nat) (b : Binding) :
    SamePorts (({ s with ports := s.ports.put (portKey (stripKey tm sp) n) b.port } : State).modTeam tm (fun t =>
      { t with qmem := t.qmem.modify c (· - b.depth * b.port.perRow), peng := t.peng.modify c (· - (if b.port.engine.isSome then 1 else 0)) }))
      (s.bound tm sp n c b) :=
  samePorts_frames.foldl (f := fun s l => s.modEx tm (16 * sp + l) (fun x => { x with eos := setBit16 x.eos n false })) (fun _ _ => ⟨rfl, rfl⟩) _ _

theorem bound_ports (s : State) (tm sp n c : Nat) (b : Binding) :
    (s.bound tm sp n c b).ports = s.ports.put (portKey (stripKey tm sp) n) b.port := (bound_samePorts s tm sp n c b).1

theorem bound_teams {g : Team} (s : State) (n c : Nat) (b : Binding) (hg : s.teams.find tm = some g) :
    (s.bound tm sp n c b).teams.find tm = some { g with qmem := g.qmem.modify c (· - b.depth * b.port.perRow), peng := g.peng.modify c (· - (if b.port.engine.isSome then 1 else 0)) } := by
  rw [(bound_samePorts s tm sp n c b).2]
  exact Assoc.find_alter_some _ hg

theorem getD_modify_sub (l : List Nat) (c d m : Nat) : (l.modify c (· - m)).getD d 0 = if d = c ∧ d < l.length then l.getD d 0 - m else l.getD d 0 := by
  rw [List.getD_eq_getElem?_getD, List.getElem?_modify, List.getD_eq_getElem?_getD]
  by_cases h : c = d
  · subst h
    cases hl : l[c]? with
    | none =>
      have := List.getElem?_eq_none_iff.1 hl
      simp [Nat.not_lt.2 this]
    | some v =>
      obtain ⟨hlt, _⟩ := List.getElem?_eq_some_iff.1 hl
      simp [hlt]
  · simp [h, Ne.symm h]

theorem getD_modify_add {l : List Nat} {c : Nat} (m : Nat) (h : c < l.length) : (l.modify c (· + m)).getD c 0 = l.getD c 0 + m := by
  simp [List.getD_eq_getElem?_getD, h]

end Sys2Proof.Machine
end

section open Sys2Proof Machine

/-- Settles O29: a strip operation's effect and refusals, performed by the access thread or by STRIP_OPERATION; and what QBIND and QUNBIND
take from the core and return to it. -/
theorem stripOperationsComplete : Obligations.StripOperationsComplete := by
  unfold Obligations.StripOperationsComplete
  have hissue : ∀ i ∈ [Instr.qbind, .qunbind, .pat, .patgo, .qeos], ∀ (s t : State) (tm sp : Nat) (v : Opnds) (info : TrapInfo),
      Executes s (.ap tm sp) (stripShape i) → Delivers s (.ap tm sp) (stripShape i) .int v t →
      t.stripFails (.ap tm sp) tm sp i s.ir (v.a (s.lead (.ap tm sp))) (v.b (s.lead (.ap tm sp))) info →
      exec i s = .next (s.takeTrap (.ap tm sp) info (len0Of s.ir.form)) := by
    intro i hi s t tm sp v info he hd hf
    obtain ⟨hrun, hmy⟩ := stripIssue_ap he hd
    exact (exec_strip i hi s).trans (insn_traps_any he (hrun.trans (stripAct_fails hi hmy hf)))
  have hrefuse : ∀ i ∈ [Instr.qbind, .qunbind, .pat, .patgo, .qeos], ∀ (s : State) (tm sp l0 : Nat) (rest : List Nat) (a : Nat)
      (arrived : BitVec 16) (st : Strip) (x : ExThread) (o : Ops) (v : Opnds) (t0 : State) (info : TrapInfo), sp < 128 →
      s.occ = .num (stripKey tm sp) → (List.range 16).filter (s.laneLive tm sp) = l0 :: rest → s.strips.find (stripKey tm sp) = some st →
      st.op = some (a, arrived) → (∀ l ∈ l0 :: rest, arrived.getLsbD l = true) → s.exs.find (exKey tm (16 * sp + l0)) = some x →
      x.arr = some ⟨i, o⟩ → fetch (stripShape i) .int { s with cur := some (.ex tm (16 * sp + l0)), ir := o } = .ok (v, t0) →
      t0.stripFails (.ex tm (16 * sp + l0)) tm sp i o (v.a 0) (v.b 0) info →
      exec .stripOperation s = .next ((s.takeTrap (.ex tm (16 * sp + l0)) info (len0Of o.form)).modStrip tm sp (fun x =>
        { x with op := if setBit16 arrived l0 false = 0 then none else x.op.map (fun q => (q.1, setBit16 arrived l0 false)) })) := by
    intro i hi s tm sp l0 rest a arrived st x o v t0 info hsp hocc hlive hst hop harr hx ha hf hfail
    obtain ⟨hrun, hmy⟩ := stripBody_run (j := ⟨i, o⟩) hlive hf
    have heq := stripOperation_eq hsp hlive hst hop harr hx ha
    rw [hrun, stripAct_fails hi hmy hfail] at heq
    refine (show exec .stripOperation s = execStripOperation s from rfl).trans ?_
    simp only [execStripOperation, event1, event, hocc, occOne, Option.bind_some, heq]
  refine ⟨⟨fun i hi => ⟨?_, ?_⟩, ?_⟩, fun i hi => ⟨fun s t tm sp v info => hissue i hi s t tm sp v info,
    fun s tm sp l0 rest a arrived st x o v t0 info => hrefuse i hi s tm sp l0 rest a arrived st x o v t0 info⟩, ?_, ?_, ?_, ?_⟩
  · intro s t tm sp v u a b he hd h
    obtain ⟨hrun, hmy⟩ := stripIssue_ap he hd
    exact (exec_strip i hi s).trans (insn_completes_of_sameUnit he (hrun.trans (stripAct_takes hi hmy h))
      (hd.sameUnit.trans (stripLeaves_keeps gentle_sameUnit t u tm sp i s.ir a b)))
  · intro s tm tid x u p st st' he hx hpc hdef hc hop
    have hrun := stripIssue_ex he hx hpc hdef hc rfl hop
    exact (exec_strip i hi s).trans (insn_completes_of_sameUnit he hrun
      (SameUnit.trans (sameUnit_local.strips p _ p.fresh) (stays_sameUnit _ tm tid i s.ir _ _)))
  · intro s tm sp l0 rest a arrived st x i v t0 u hsp hocc hlive hst hop harr hx ha hf h
    obtain ⟨hrun, hmy⟩ := stripBody_run (j := i) hlive hf
    have hi := stripTakes_ops h
    have heq := stripOperation_eq hsp hlive hst hop harr hx ha
    rw [hrun, stripAct_takes hi hmy h] at heq
    have hmem : ∀ l ∈ l0 :: rest, l < 16 := fun l hl => List.mem_range.1 (List.mem_filter.1 (hlive ▸ hl)).1
    have hnodup : (l0 :: rest).Nodup := hlive ▸ List.nodup_range.filter _
    have harrived := (Arrived.frames.trans (fetch_calm _ _ _ _ _ hf).arrived
      (stripLeaves_keeps gentle_arrived t0 u tm sp i.op i.args (v.a 0) (v.b 0))).2
    refine ⟨State.modStrip ((l0 :: rest).foldl (fun t l => t.laneDone tm sp l) (t0.stripLeaves u tm sp i.op i.args (v.a 0) (v.b 0))) tm sp
      (fun x => { x with op := none }), ?_,
      (lanesDone_same tm sp (l0 :: rest) (t0.stripLeaves u tm sp i.op i.args (v.a 0) (v.b 0)) hmem).1, fun st' hst' => ?_,
      fun l hl z j hz hj => ?_⟩
    · refine (show exec .stripOperation s = execStripOperation s from rfl).trans ?_
      simp only [execStripOperation, event1, event, hocc, occOne, Option.bind_some, heq]
    · obtain ⟨y, _, rfl⟩ := Option.map_eq_some_iff.1 ((Assoc.find_alter_self _ _ _).symm.trans hst')
      rfl
    · obtain ⟨z', hz', e⟩ := Option.map_eq_some_iff.1 ((harrived (exKey tm (16 * sp + l))).trans (congrArg _ hz))
      obtain ⟨harr', hpc'⟩ := Prod.mk.inj e
      exact hpc' ▸ lanesDone_wentOn hnodup hmem _ l hl z' j hz' (harr'.trans hj)
  · intro s t tm sp v p u n key k cnt stride he hd hp
    have hi : Instr.pat ∈ [Instr.qbind, .qunbind, .pat, .patgo, .qeos] := by decide
    refine ⟨fun e hpe hbusy h1 h2 => ?_, fun h => hissue .pat hi s t tm sp v _ he hd (patFails_of hp h)⟩
    obtain ⟨hrun, hmy⟩ := stripIssue_ap he hd
    have htakes := stripAct_takes hi hmy (show t.stripTakes u tm sp .pat s.ir (v.a (s.lead u)) (v.b (s.lead u)) from ⟨p, e, hp, hpe, hbusy, h1, h2⟩)
    have hkeep := stripLeaves_keeps gentle_sameUnit t u tm sp .pat s.ir (v.a (s.lead u)) (v.b (s.lead u))
    refine (exec_strip .pat hi s).trans ((insn_completes_of_sameUnit he (hrun.trans htakes) (hd.sameUnit.trans hkeep)).trans ?_)
    exact congrArg (fun q => Host.Outcome.next (s.closed q u .pat (stripShape .pat))) (modPort_found hp (by simp only [hpe, Option.map_some]; rfl))
  · intro s tm sp l0 rest a arrived st x o v t0 p u n key cnt left hsp hocc hlive hst hop harr hx ha hf hp h
    exact hrefuse .pat (by decide) s tm sp l0 rest a arrived st x o v t0 _ hsp hocc hlive hst hop harr hx ha hf (patFails_of hp h)
  · intro s t tm sp n b g hg key
    refine ⟨fun h => ?_, fun h1 h2 => ?_, fun h1 h2 h3 => ?_, fun h1 h2 h3 h4 h5 h6 => ?_, fun h => ?_⟩
    · rw [bind_eq hg, if_pos h]
    · rw [bind_eq hg, h1, h2]
      rfl
    · rw [bind_eq hg, h1, h2, if_pos h3]
      rfl
    · have hres : ¬ (g.qmem.getD (g.half sp) 0 < b.depth * b.port.perRow ∨
          g.peng.getD (g.half sp) 0 < (if b.port.engine.isSome then 1 else 0)) := by omega
      rw [bind_eq hg, h1, h2, if_neg hres, h5, h6]
      rfl
    · obtain ⟨g', hg', rfl⟩ := bind_ok h
      obtain rfl := Option.some.inj (hg.symm.trans hg')
      have hp := bound_ports s tm sp n (g.half sp) b
      refine ⟨by rw [hp, Assoc.find_put_self], rfl, rfl, rfl, fun k hk => by rw [hp, Assoc.find_put_of_ne _ _ hk], _,
        bound_teams s n (g.half sp) b hg, fun c => ?_⟩
      exact getD_modify_sub _ _ _ _
  · intro s tm sp n p g hg hwf hp
    have hkeep : SamePorts s (s.unbindUnits tm sp n p) := unbindUnits_keeps samePorts_frames (fun s u f _ => samePorts_modCtl s u f)
      samePorts_discard (fun _ _ => ⟨rfl, rfl⟩) s tm sp n p
    rw [unbind_eq hp hg]
    refine ⟨?_, _, (Assoc.find_alter_some _ (by rw [hkeep.2]; exact hg)), fun hc => ?_⟩
    · exact (Assoc.find_del _ _ (by rw [show (State.modTeam _ _ _).ports = s.ports from hkeep.1]; exact hwf)).trans (if_pos rfl)
    · exact getD_modify_add _ hc

end


section
/-! SUPPORT. QSTAT, QSKIP and QDRAIN (R211, R212). -/

namespace Sys2Proof.Machine

variable {s t t' : State} {u : Agent} {tm sp k n : Nat} {p : Port} {c : Ctl} {o : Ops} {sh : Shape}

theorem Keeps.boundPort {P : State → State → Prop} (hf : Frames P) (n : Nat) : Keeps P (boundPort n) := by
  refine Keeps.bind hf (Keeps.get hf) (fun s => Keeps.bind hf (Keeps.myStrip hf) (fun k => ?_))
  split
  · exact Keeps.pure hf _
  · exact Keeps.stopTrap _

theorem skipOne_sameUnit (n : Nat) : Keeps SameUnit (skipOne n) := by
  have hf := sameUnit_local.toFrames
  refine Keeps.bind hf (Keeps.boundPort hf n) (fun p => Keeps.bind hf (Keeps.get hf) (fun s => Keeps.bind hf (Keeps.unit hf) (fun u => ?_)))
  cases u with
  | ex tm tid =>
    have hpop : ∀ x : Skip, Keeps SameUnit (do let _ ← popE n 32 true; pure x) := fun x =>
      Keeps.bind hf (Keeps.popE sameUnit_local _ _ _) (fun _ => Keeps.pure hf _)
    exact Keeps.ite (hpop _) (Keeps.ite (hpop _) (Keeps.pure hf _))
  | ap tm sp =>
    exact Keeps.ite (Keeps.pure hf _) (Keeps.ite (Keeps.bind hf (popStore_sameUnit _ _) (fun _ => Keeps.pure hf _)) (Keeps.pure hf _))
  | qe m => exact Keeps.pure hf _

theorem skipMany_sameUnit (n : Nat) : ∀ (m : Nat) (left : Option Nat), Keeps SameUnit (skipMany n m left)
  | 0, left => Keeps.pure sameUnit_local.toFrames _
  | m + 1, left => by
    have hf := sameUnit_local.toFrames
    refine Keeps.ite (Keeps.pure hf _) (Keeps.bind hf (skipOne_sameUnit n) (fun r => ?_))
    cases r with
    | ended => exact Keeps.pure hf _
    | wait => exact Keeps.pure hf _
    | one => exact skipMany_sameUnit n m _

/-- The body of QSKIP and QDRAIN, in a state s0 at its issue. -/
def skipBody (s0 : State) (o : Ops) (drain : Bool) : M Unit := do
  let n := objPort o.d
  let p ← boundPort n
  (if drain then portDeferred n else pure ())
  let u ← unit
  if !p.consumer (sideOf u) then stopTrap (portTrap 2 n)
  let begun := (← ctl).skip
  let left ← (match begun with
    | some l => pure l
    | none =>
      if drain then pure none
      else do
        let v ← fetch { d := 0, a := 0, b := if drain then 0 else 1, c := 0 } .int
        let c := (heldVal (v.b (lowLane (← lanes)))).bits.toNat
        if c ≥ 2 ^ 31 then stopTrap (portTrap 8 n)
        pure (some c))
  match ← skipMany n (p.rows.length + 2) left with
  | none => modCtl (fun c => { c with skip := none })
  | some l =>
    let c0 := (s0.ctl u).getD {}
    modCtl (fun c => { c with pc := c0.pc, stallUntil := c0.stallUntil, skip := some l })
    modify (fun s => (s.modCtl u (fun c => { c with status := c0.status })).setWait u (.port n false))

theorem exec_qskip (s : State) : exec .qskip s = meaning (insn .qskip { d := 0, a := 0, b := 1, c := 0 } (skipBody s s.ir false)) s :=
  (meaning_read (M.ops_run s)).trans (meaning_read (M.get_run s))

theorem exec_qdrain (s : State) : exec .qdrain s = meaning (insn .qdrain { d := 0, a := 0, b := 0, c := 0 } (skipBody s s.ir true)) s :=
  (meaning_read (M.ops_run s)).trans (meaning_read (M.get_run s))

/-- The lane that supplies an instruction's operands. -/
theorem M.lowLane_run (hu : t.cur = some u) (hs : (t.ctl u).isSome) : ∃ act, lanes t = .ok (act, t) ∧ lowLane act = t.lead u := by
  cases u with
  | ap tm sp =>
    obtain ⟨c, hc⟩ := Option.isSome_iff_exists.1 hs
    simp only [State.ctl, Option.map_eq_some_iff] at hc
    obtain ⟨x, hx, _⟩ := hc
    exact ⟨_, M.lanes_run_ap hu hx, by simp only [State.lead, hx, Option.elim_some]⟩
  | ex tm tid =>
    refine ⟨1, ?_, rfl⟩
    simp only [lanes, M.bind_run, M.unit_run hu, M.pure_run]
  | qe m =>
    refine ⟨1, ?_, rfl⟩
    simp only [lanes, M.bind_run, M.unit_run hu, M.pure_run]

theorem M.myStrip_past (hcur : s.cur = some u) (h : myStrip s = .ok (k, s)) : myStrip (s.past u) = .ok (k, s.past u) := by
  have hp : (s.past u).cur = some u := (State.past_cur s u).trans hcur
  cases u with
  | qe m =>
    simp only [myStrip, M.bind_run, M.unit_run hcur] at h
    cases h
  | _ =>
    simp only [myStrip, M.bind_run, M.unit_run hcur, M.pure_run, Except.ok.injEq, Prod.mk.injEq, and_true] at h
    simp only [myStrip, M.bind_run, M.unit_run hp, M.pure_run, h]

section
variable (he : Executes s u sh) (hc : s.ctl u = some c) (hk : myStrip s = .ok (k, s)) (hn : objPort s.ir.d = n)
  (hp : s.ports.find (portKey k n) = some p) (hcons : p.consumer (sideOf u) = true) (hsk : c.skip = none)
include he hc hk hn hp hcons hsk

/-- QSKIP with its count. -/
theorem skipBody_count {v : Opnds} (s0 : State) (hd : Delivers s u { d := 0, a := 0, b := 1, c := 0 } .int v t) :
    skipBody s0 s.ir false (s.past u) =
      if 2 ^ 31 ≤ (heldVal (v.b (t.lead u))).bits.toNat then .error (.trap (portTrap 8 n))
      else (do
        match ← skipMany n (p.rows.length + 2) (some (heldVal (v.b (t.lead u))).bits.toNat) with
        | none => modCtl (fun c => { c with skip := none })
        | some l =>
          let c0 := (s0.ctl u).getD {}
          modCtl (fun c => { c with pc := c0.pc, stallUntil := c0.stallUntil, skip := some l })
          modify (fun s => (s.modCtl u (fun c => { c with status := c0.status })).setWait u (.port n false)) : M Unit) t := by
  have hfetch : fetch { d := 0, a := 0, b := 1, c := 0 } .int (s.past u) = .ok (v, t) := hd
  have hbound := M.boundPort_some (n := n) (M.myStrip_past he.1 hk) (by rw [State.past_ports]; exact hp)
  have hpast : (s.past u).ctl u = some (c.past s.ir s.now) := by rw [State.ctl_past, hc]; rfl
  have hskip : (c.past s.ir s.now).skip = none := hsk
  obtain ⟨act, hact, hlow⟩ := M.lowLane_run (t := t) (hd.calm.cur.trans he.past_cur) (by rw [hd.sameUnit.2.2, hpast]; rfl)
  simp only [skipBody, M.bind_run, hn, hbound, Bool.false_eq_true, if_false, M.pure_run, M.unit_run he.past_cur, hcons, Bool.not_true,
    M.ctl_run he.past_cur hpast, hskip, hfetch, hact, hlow, ge_iff_le]
  by_cases h : 2 ^ 31 ≤ (heldVal (v.b (t.lead u))).bits.toNat
  · simp only [if_pos h, M.bind_run, M.stopTrap_run]
  · simp only [if_neg h, M.pure_run]

/-- QDRAIN. -/
theorem skipBody_drain (s0 : State) (hdef : c.deferred = []) (hs : skipMany n (p.rows.length + 2) none (s.past u) = .ok (none, t')) :
    skipBody s0 s.ir true (s.past u) = .ok ((), t'.modCtl u (fun c => { c with skip := none })) := by
  have hbound := M.boundPort_some (n := n) (M.myStrip_past he.1 hk) (by rw [State.past_ports]; exact hp)
  have hpast : (s.past u).ctl u = some (c.past s.ir s.now) := by rw [State.ctl_past, hc]; rfl
  have hskip : (c.past s.ir s.now).skip = none := hsk
  have hdefer : portDeferred n (s.past u) = .ok ((), s.past u) := M.takeDeferred_nil _ he.past_cur hpast hdef
  have hcur : t'.cur = some u := (skipMany_sameUnit _ _ _ _ _ _ hs).1.trans he.past_cur
  simp only [skipBody, M.bind_run, hn, hbound, if_true, hdefer, M.unit_run he.past_cur, hcons, Bool.not_true, Bool.false_eq_true, if_false,
    M.ctl_run he.past_cur hpast, hskip, M.pure_run, hs, M.modCtl_run _ hcur]

end


/-! QSTAT. -/

/-- The strip and the positions that QSTAT reads for a unit. -/
def Port.qstatAt (p : Port) (u : Agent) : Nat × Nat × Nat × Nat :=
  match u with
  | .ex tm tid => (tm, tid / 16, p.pos.getD (tid % 16) 0, p.pos.getD (tid % 16) 0)
  | .ap tm sp => (tm, sp, p.apop, p.reserve)
  | .qe _ => (0, 0, 0, 0)

/-- What QSTAT reads (R211). -/
def qstatVal (sel pos push fin av : Nat) : Nat :=
  match sel with
  | 0 => pos
  | 1 => push
  | 2 => fin
  | _ => av

theorem qstatVal_eq (sel pos push fin av : Nat) (h : sel < 4) :
    qstatVal sel pos push fin av = if sel = 0 then pos else if sel = 1 then push else if sel = 2 then fin else av := by
  obtain rfl | rfl | rfl | rfl : sel = 0 ∨ sel = 1 ∨ sel = 2 ∨ sel = 3 := by omega
  all_goals rfl

/-- The body of QSTAT. -/
def qstatBody (o : Ops) : M Unit := do
  let n := objPort o.a
  let p ← boundPort n
  portDeferred n
  let u ← unit
  let s ← get
  let side := sideOf u
  let sel := o.x8.toNat % 4
  let c := p.consumer side
  if (sel % 3 = 0 ∧ ¬c) ∨ (sel = 1 ∧ ¬p.pushes side) then stopTrap (portTrap 2 n)
  checkPorts { d := 1, a := 0, b := 0, c := 0 }
  let x := p.qstatAt u
  writeD 1 (fun _ => Val.of (BitVec.ofNat 64 (qstatVal sel x.2.2.1 x.2.2.2 (p.fin.getD (2 ^ 32 - 1))
    (s.avail x.1 x.2.1 p (p.rows.length + 1) x.2.2.1) % 2 ^ 32)))

theorem exec_qstat (s : State) : exec .qstat s = meaning (insn .qstat { a := 0, b := 0, c := 0 } (qstatBody s.ir)) s :=
  meaning_read (M.ops_run s)

theorem qstat_completes {pos push : Nat} (hu : (∃ tid, u = .ex tm tid ∧ sp = tid / 16 ∧ pos = p.pos.getD (tid % 16) 0 ∧ push = pos) ∨
      (u = .ap tm sp ∧ pos = p.apop ∧ push = p.reserve))
    (he : Executes s u { a := 0, b := 0, c := 0 }) (hc : s.ctl u = some c) (hdef : c.deferred = []) (hn : objPort s.ir.a = n)
    (hp : s.ports.find (portKey (stripKey tm sp) n) = some p)
    (hcons : s.ir.x8.toNat % 4 = 0 ∨ s.ir.x8.toNat % 4 = 3 → p.consumer (sideOf u) = true)
    (hpush : s.ir.x8.toNat % 4 = 1 → p.pushes (sideOf u) = true)
    (hports : checkPorts { d := 1, a := 0, b := 0, c := 0 } (s.past u) = .ok ((), s.past u))
    (hw : Writes (s.past u) s.ir.d 1 (fun _ => Val.of (BitVec.ofNat 64 ((if s.ir.x8.toNat % 4 = 0 then pos
      else if s.ir.x8.toNat % 4 = 1 then push else if s.ir.x8.toNat % 4 = 2 then p.fin.getD (2 ^ 32 - 1)
      else (s.past u).avail tm sp p (p.rows.length + 1) pos) % 2 ^ 32))) t') :
    exec .qstat s = .next (s.closed t' u .qstat { a := 0, b := 0, c := 0 }) := by
  have hstrip : myStrip (s.past u) = .ok (stripKey tm sp, s.past u) := by
    obtain ⟨tid, rfl, rfl, _⟩ | ⟨rfl, _⟩ := hu <;> simp only [myStrip, M.bind_run, M.unit_run he.past_cur, M.pure_run]
  have hbound := M.boundPort_some (n := n) hstrip (by rw [State.past_ports]; exact hp)
  have hpast : (s.past u).ctl u = some (c.past s.ir s.now) := by rw [State.ctl_past, hc]; rfl
  have hdefer : portDeferred n (s.past u) = .ok ((), s.past u) := M.takeDeferred_nil _ he.past_cur hpast hdef
  have hside : ¬((s.ir.x8.toNat % 4 % 3 = 0 ∧ ¬p.consumer (sideOf u) = true) ∨ (s.ir.x8.toNat % 4 = 1 ∧ ¬p.pushes (sideOf u) = true)) := by
    rintro (⟨h0, h1⟩ | ⟨h0, h1⟩)
    · exact h1 (hcons (by omega))
    · exact h1 (hpush h0)
  have hwd := M.writeD_of_writes (State.past_ir s u) hw
  have hx : p.qstatAt u = (tm, sp, pos, push) := by
    obtain ⟨tid, rfl, rfl, rfl, rfl⟩ | ⟨rfl, rfl, rfl⟩ := hu <;> rfl
  refine (exec_qstat s).trans (insn_completes_of_sameUnit he ?_ (Writes.sameUnit hw))
  simp only [qstatBody, M.bind_run, hn, hbound, hdefer, M.unit_run he.past_cur, M.get_run, if_neg hside, hports, hx,
    qstatVal_eq _ _ _ _ _ (Nat.mod_lt s.ir.x8.toNat (show 0 < 4 by norm_num))]
  exact hwd

/-! The step of a pattern engine (R199, R204). -/

/-- The request of one store of an engine's step (R199): it goes out, or has failed for the threads that pushed its elements. -/
def State.pieceReq (s : State) (tm sp key issue : Nat) (p : Port) (e : PatEngine) (h : Handle) (ctx : Nat) (whole : Except TrapInfo Unit)
    (x : Int × Nat × Nat × List Nat) : Req :=
  let spt := patSpot e.handle h x.1 x.2.1 1
  let acc : Except TrapInfo Acc := do
    (if x.2.2.2.any (fun l => (rowData p l).poison) then .error (tinfo 0x11 0) else pure ())
    whole
    s.patAcc ctx spt .wr
  let r := portLoad s (.ap tm sp) (.pat key) p.apop acc spt (.store x.2.2.1 false) (x.2.2.2.headD 255) .none
  { r with issue, pusher := x.2.2.2.map (fun l => (tm, 16 * sp + l)) }

/-- The state after a request is sent under the next number. -/
def State.posted (s : State) (r : Req) : State := { s.inject s.fresh r with fresh := s.fresh + 1 }

/-- Sending the stores of an engine's step, one after the other. -/
def State.piecesSent (s : State) (tm sp key issue : Nat) (p : Port) (e : PatEngine) (h : Handle) (ctx : Nat) (whole : Except TrapInfo Unit)
    (xs : List (Int × Nat × Nat × List Nat)) : State :=
  xs.foldl (fun s x => s.posted (s.pieceReq tm sp key issue p e h ctx whole x)) s

section
variable (issue : Nat) (key : Nat) (e : PatEngine) (h : Handle) (ctx : Nat) (whole : Except TrapInfo Unit)

/-- A piece's request does not depend on the requests sent before it. -/
theorem pieceReq_posted (r : Req) (x : Int × Nat × Nat × List Nat) :
    (s.posted r).pieceReq tm sp key issue p e h ctx whole x = s.pieceReq tm sp key issue p e h ctx whole x := by
  unfold State.pieceReq
  have hs : (s.posted r).patAcc = s.patAcc := rfl
  rw [hs]
  dsimp only
  cases (do (if x.2.2.2.any (fun l => (rowData p l).poison) then .error (tinfo 0x11 0) else pure ())
            whole
            s.patAcc ctx (patSpot e.handle h x.1 x.2.1 1) .wr : Except TrapInfo Acc) <;> rfl

/-- Sending the pieces changes the requests and the next number alone, and each piece's request is there under its number. -/
theorem piecesSent_spec : ∀ (xs : List (Int × Nat × Nat × List Nat)) (s : State),
    ∃ R, s.piecesSent tm sp key issue p e h ctx whole xs = { s with reqs := R, fresh := s.fresh + xs.length } ∧
      (∀ j, j < s.fresh → R.find j = s.reqs.find j) ∧
      ∀ j x, xs[j]? = some x → ∃ g, R.find (s.fresh + j) = some { s.pieceReq tm sp key issue p e h ctx whole x with gen := g }
  | [], s => ⟨s.reqs, rfl, fun _ _ => rfl, fun j x hx => by simp at hx⟩
  | y :: ys, s => by
    obtain ⟨R, hR, hlt, hat⟩ := piecesSent_spec ys (s.posted (s.pieceReq tm sp key issue p e h ctx whole y))
    have hfresh : (s.posted (s.pieceReq tm sp key issue p e h ctx whole y)).fresh = s.fresh + 1 := rfl
    rw [hfresh] at hlt hat hR
    refine ⟨R, ?_, fun j hj => ?_, fun j x hx => ?_⟩
    · refine Eq.trans hR ?_
      rw [List.length_cons, Nat.add_assoc, Nat.add_comm 1]
      rfl
    · rw [hlt j (by omega)]
      exact Assoc.find_put_of_ne _ _ (by omega)
    · cases j with
      | zero =>
        obtain rfl : y = x := by simpa using hx
        refine ⟨s.genOf (s.pieceReq tm sp key issue p e h ctx whole y), ?_⟩
        rw [Nat.add_zero, hlt _ (by omega)]
        exact Assoc.find_put_self _ _ _
      | succ j =>
        obtain ⟨g, hg⟩ := hat j x (by simpa using hx)
        refine ⟨g, ?_⟩
        rw [show s.fresh + (j + 1) = s.fresh + 1 + j by omega, hg, pieceReq_posted]

/-- What a piece's request is, whatever becomes of its checks. -/
theorem pieceReq_fields (x : Int × Nat × Nat × List Nat) :
    (s.pieceReq tm sp key issue p e h ctx whole x).owner = .pat key ∧ (s.pieceReq tm sp key issue p e h ctx whole x).kind = .store x.2.2.1 false ∧
      (s.pieceReq tm sp key issue p e h ctx whole x).issue = issue ∧
      (s.pieceReq tm sp key issue p e h ctx whole x).pusher = x.2.2.2.map (fun l => (tm, 16 * sp + l)) := by
  unfold State.pieceReq
  dsimp only
  cases (do (if x.2.2.2.any (fun l => (rowData p l).poison) then .error (tinfo 0x11 0) else pure ())
            whole
            s.patAcc ctx (patSpot e.handle h x.1 x.2.1 1) .wr : Except TrapInfo Acc) <;>
    exact ⟨rfl, rfl, rfl, rfl⟩

variable {whole} {x : Int × Nat × Nat × List Nat} (hw : whole = .ok ()) (hx : x.2.2.2.any (fun l => (rowData p l).poison) = false)
include hw hx

theorem pieceReq_ok {a : Acc}
    (ha : s.patAcc ctx (patSpot e.handle h x.1 x.2.1 1) .wr = .ok a) :
    (s.pieceReq tm sp key issue p e h ctx whole x).loc = a.loc ∧ (s.pieceReq tm sp key issue p e h ctx whole x).ia = a.addr ∧
      (s.pieceReq tm sp key issue p e h ctx whole x).size = a.size ∧ (s.pieceReq tm sp key issue p e h ctx whole x).phase = .sent := by
  subst hw
  simp only [State.pieceReq, hx, ha]
  exact ⟨rfl, rfl, rfl, rfl⟩

theorem pieceReq_error {f : TrapInfo}
    (ha : s.patAcc ctx (patSpot e.handle h x.1 x.2.1 1) .wr = .error f) :
    ∃ f', (s.pieceReq tm sp key issue p e h ctx whole x).phase = .failed f' := by
  subst hw
  simp only [State.pieceReq, hx, ha]
  exact ⟨_, rfl⟩

end

/-- Retiring a port's rows moves its head and takes rows from it, and nothing else of the port. -/
theorem retire_found (s : State) (tm sp : Nat) {key : Nat} {p : Port} (hp : s.ports.find key = some p) :
    ∃ h rows, (s.retire tm sp key).ports.find key = some { p with head := h, rows := rows } := by
  simp only [State.retire, hp]
  exact ⟨_, _, Assoc.find_put_self _ _ _⟩

theorem retire_reqs (s : State) (tm sp key : Nat) :
    (s.retire tm sp key).mem = s.mem ∧ (s.retire tm sp key).reqs = s.reqs ∧ (s.retire tm sp key).fresh = s.fresh :=
  ⟨(Calm.retire s tm sp key).mem, (Calm.retire s tm sp key).reqs, (Calm.retire s tm sp key).fresh⟩

theorem injectAll_spec : ∀ (rs : List Req) (s : State),
    (s.injectAll rs).ports = s.ports ∧ (s.injectAll rs).mem = s.mem ∧ (s.injectAll rs).fresh = s.fresh + rs.length
  | [], _ => ⟨rfl, rfl, rfl⟩
  | r :: rs, s => by
    obtain ⟨h1, h2, h3⟩ := injectAll_spec rs { s.inject s.fresh r with fresh := s.fresh + 1 }
    refine ⟨h1, h2, h3.trans ?_⟩
    simp only [List.length_cons]
    omega

section
variable {e : PatEngine} {g : Team} {key : Nat} (hkey : key = portKey (stripKey tm sp) n) (hsp : sp < 128) (hn : n < 16)
  (hocc : s.occ = .num key) (hp : s.ports.find key = some p) (hen : p.engine = some e) (hrun : e.running = true)
  (hg : s.teams.find tm = some g) (hpl : g.placed = true) (hctx : s.running g.ctx = true)
include hkey hsp hn hocc hp hen hrun hg hpl hctx

/-- The engine of a port of a placed team of a running context takes its step. -/
theorem exec_patternEngineStep : exec .patternEngineStep s =
    event (fun s => if p.kind = .pat then s.patLoad tm sp key p e else s.patStore tm sp key p e) s := by
  have htm : key / 16 / 128 = tm := by subst hkey; simp only [portKey, stripKey]; omega
  have hst : key / 16 % 128 = sp := by subst hkey; simp only [portKey, stripKey]; omega
  refine (show exec .patternEngineStep s = execPatternEngineStep s from rfl).trans ?_
  have hc : s.ctxOf (.ap tm sp) = g.ctx := by simp only [State.ctxOf, hg, Option.elim_some]
  simp only [execPatternEngineStep, event1, event, hocc, occOne, Option.bind_some, State.patStep, htm, hst, hp, hen, hrun, hc, hctx, hg,
    Option.elim_some, hpl, Bool.not_true, Bool.or_self, Bool.false_eq_true, if_false]

end

/-- The engine of a port is stopped. -/
def State.engineStopped (s : State) (key : Nat) : State :=
  s.modPort key (fun p => { p with engine := p.engine.map (fun e => { e with running := false }) })

/-- The port after its engine's step: its next row is taken. -/
def State.engineStepped (s : State) (key k : Nat) (e : PatEngine) : State :=
  s.modPort key (fun p => { p with apop := k + 1, engine := some { e with step := e.step + 1 } })

/-- The check of a line's base offset; elements have none. -/
def State.wholeCheck (s : State) (tm sp : Nat) (p : Port) (e : PatEngine) : Except TrapInfo Unit :=
  match p.mode with
  | .elem => .ok ()
  | _ => do
    let spt := patSpot e.handle (s.handleOf (.ap tm sp) e.handle) e.offset 64 64
    let _ ← s.patAcc (s.ctxOf (.ap tm sp)) spt .wr
    pure ()

/-- The state after a step of a store-stream's engine, before the end of the stream is looked at. -/
def State.patStored (s : State) (tm sp key : Nat) (p : Port) (e : PatEngine) : State :=
  ((s.engineStepped key p.apop e).piecesSent tm sp key s.fresh p e (s.handleOf (.ap tm sp) e.handle) (s.ctxOf (.ap tm sp)) (s.wholeCheck tm sp p e)
    (storePieces p e (s.handleOf (.ap tm sp) e.handle))).retire tm sp key

theorem patStore_eq (s : State) (tm sp key : Nat) (p : Port) (e : PatEngine) : s.patStore tm sp key p e =
    if p.past p.apop then some (s.engineStopped key)
    else if !s.rowReady tm sp p p.apop || s.reqs.any (fun q => q.2.patStoring key && q.2.isParked) then none
    else if !s.replyRoom (.ap tm sp) (storePieces p e (s.handleOf (.ap tm sp) e.handle)).length then none
    else some (if p.past (p.apop + 1) then (s.patStored tm sp key p e).engineStopped key else s.patStored tm sp key p e) := rfl

theorem wholeCheck_ok {e : PatEngine} (h : p.mode = .elem ∨
    (s.patAcc (s.ctxOf (.ap tm sp)) (patSpot e.handle (s.handleOf (.ap tm sp) e.handle) e.offset 64 64) .wr).isOk = true) :
    s.wholeCheck tm sp p e = .ok () := by
  unfold State.wholeCheck
  obtain h | h := h
  · simp only [h]
  · cases hm : p.mode with
    | elem => rfl
    | _ =>
      cases ha : s.patAcc (s.ctxOf (.ap tm sp)) (patSpot e.handle (s.handleOf (.ap tm sp) e.handle) e.offset 64 64) .wr with
      | error f => rw [ha] at h; cases h
      | ok a => simp only [ha]; rfl

theorem engineStopped_found {key : Nat} {e : PatEngine} (hp : s.ports.find key = some p) (he : p.engine = some e) :
    (s.engineStopped key).ports.find key = some { p with engine := some { e with running := false } } := by
  refine (Assoc.find_alter_some _ hp).trans ?_
  rw [he]
  rfl

/-- The rest of the state when an engine stops. -/
theorem engineStopped_rest (s : State) (key : Nat) : { s.engineStopped key with ports := s.ports } = s := rfl

/-- What a step of a store-stream's engine leaves (R199). -/
theorem patStored_spec {key : Nat} {e : PatEngine} (hp : s.ports.find key = some p) :
    (∃ h rows, (s.patStored tm sp key p e).ports.find key =
      some { p with apop := p.apop + 1, engine := some { e with step := e.step + 1 }, head := h, rows := rows }) ∧
    (s.patStored tm sp key p e).mem = s.mem ∧
    (s.patStored tm sp key p e).fresh = s.fresh + (storePieces p e (s.handleOf (.ap tm sp) e.handle)).length ∧
    ∀ j x, (storePieces p e (s.handleOf (.ap tm sp) e.handle))[j]? = some x → ∃ y,
      (s.patStored tm sp key p e).reqs.find (s.fresh + j) = some { s.pieceReq tm sp key s.fresh p e (s.handleOf (.ap tm sp) e.handle) (s.ctxOf (.ap tm sp)) (s.wholeCheck tm sp p e) x with gen := y } := by
  obtain ⟨R, hR, _, hat⟩ := piecesSent_spec (p := p) (tm := tm) (sp := sp) s.fresh key e (s.handleOf (.ap tm sp) e.handle) (s.ctxOf (.ap tm sp)) (s.wholeCheck tm sp p e)
    (storePieces p e (s.handleOf (.ap tm sp) e.handle)) (s.engineStepped key p.apop e)
  obtain ⟨hmem, hreqs, hfresh⟩ := retire_reqs ((s.engineStepped key p.apop e).piecesSent tm sp key s.fresh p e (s.handleOf (.ap tm sp) e.handle) (s.ctxOf (.ap tm sp)) (s.wholeCheck tm sp p e)
    (storePieces p e (s.handleOf (.ap tm sp) e.handle))) tm sp key
  refine ⟨?_, ?_, ?_, fun j x hx => ?_⟩
  · refine retire_found _ tm sp (p := { p with apop := p.apop + 1, engine := some { e with step := e.step + 1 } }) ?_
    rw [hR]
    exact Assoc.find_alter_some _ hp
  · refine hmem.trans ?_
    rw [hR]
    rfl
  · refine hfresh.trans ?_
    rw [hR]
    rfl
  · obtain ⟨y, hy⟩ := hat j x hx
    refine ⟨y, ?_⟩
    unfold State.patStored
    rw [hreqs, hR]
    refine Eq.trans ?_ (hy.trans ?_)
    · rfl
    · rfl

/-- A step of a store-stream's engine with room for its answers. -/
theorem patStore_steps {key : Nat} {e : PatEngine} (hp : s.ports.find key = some p) (hrun : e.running = true)
    (hpast : p.past p.apop = false) (hready : s.rowReady tm sp p p.apop = true)
    (hpark : ∀ q ∈ s.reqs, q.2.patStoring key = true → q.2.isParked = false)
    (hroom : s.replyRoom (.ap tm sp) (storePieces p e (s.handleOf (.ap tm sp) e.handle)).length = true) :
    ∃ t q, s.patStore tm sp key p e = some t ∧ t.ports.find key = some q ∧ q.apop = p.apop + 1 ∧ q.reserve = p.reserve ∧
      q.engine = some { e with step := e.step + 1, running := !p.past (p.apop + 1) } ∧ t.mem = s.mem ∧
      t.fresh = s.fresh + (storePieces p e (s.handleOf (.ap tm sp) e.handle)).length ∧ t.reqs = (s.patStored tm sp key p e).reqs := by
  have hany : s.reqs.any (fun q => q.2.patStoring key && q.2.isParked) = false := by
    rw [List.any_eq_false]
    intro q hq hb
    obtain ⟨h1, h2⟩ := Bool.and_eq_true_iff.1 hb
    rw [hpark q hq h1] at h2
    cases h2
  obtain ⟨⟨h, rows, hport⟩, hmem, hfresh, _⟩ := patStored_spec (tm := tm) (sp := sp) (e := e) hp
  rw [patStore_eq, hpast, hready, hany, hroom]
  cases hp1 : p.past (p.apop + 1) with
  | true =>
    refine ⟨_, _, rfl, engineStopped_found hport rfl, rfl, rfl, ?_, hmem, hfresh, rfl⟩
    rfl
  | false =>
    refine ⟨_, _, rfl, hport, rfl, rfl, ?_, hmem, hfresh, rfl⟩
    simp only [Bool.not_false, ← hrun]

/-- A new row has nothing in its lanes. -/
theorem slot_new {q : Port} {rows : List (List Slot)} (hq : q.rows = rows ++ [List.replicate 16 .pending]) (l : Nat) :
    q.slot (q.head + rows.length) l = .pending := by
  have hr : q.rows[rows.length]? = some (List.replicate 16 .pending) := by rw [hq]; simp
  simp only [Port.slot, Nat.not_lt.2 (Nat.le_add_right _ _), if_false, Nat.add_sub_cancel_left, hr, List.getD_eq_getElem?_getD]
  rw [List.getElem?_replicate]
  split <;> rfl

/-- A stream whose last row has still to come goes on. -/
theorem ended_new {q : Port} {rows : List (List Slot)} {e : PatEngine} (hq : q.rows = rows ++ [List.replicate 16 .pending])
    (he : q.engine = some e) (hl : e.step = e.total → e.base + e.total - 1 = q.head + rows.length) : q.ended = q := by
  simp only [Port.ended, he]
  refine if_neg (fun h => ?_)
  obtain ⟨_, _, hstep, hall⟩ := h
  have h0 := List.all_eq_true.1 hall 0 (by decide)
  rw [hl hstep, slot_new hq] at h0
  cases h0

/-- A pattern port after a step of its engine: a row is reserved. -/
def Port.rowTaken (p : Port) (e : PatEngine) : Port :=
  { p with rows := p.rows ++ [List.replicate 16 .pending], reserve := p.reserve + 1, engine := some { e with step := e.step + 1 } }

/-- One step of a pattern port reserves its row and sends one load for a line, or one a lane. -/
theorem patLoad_sends (key : Nat) {e : PatEngine} (h : ¬(e.step = e.total ∨ p.head + p.depth ≤ p.reserve)) :
    ∃ reqs : List Req, s.patLoad tm sp key p e =
        some ((({ s with ports := s.ports.put key (p.rowTaken e) }.retireIdle tm sp key).modPort key Port.ended).injectAll reqs) ∧
      reqs.length = if p.mode = .sline then 1 else 16 := by
  unfold State.patLoad
  rw [if_neg h]
  refine ⟨_, rfl, ?_⟩
  cases p.mode <;> simp

/-- One step of a pattern port whose strip has a live thread. -/
theorem patLoad_steps (key : Nat) {e : PatEngine} (hstep : e.step < e.total) (hres : p.reserve = p.head + p.rows.length)
    (hbase : p.reserve = e.base + e.step) (hdepth : p.reserve < p.head + p.depth) (hlive : (List.range 16).any (s.laneLive tm sp) = true) :
    ∃ t q, s.patLoad tm sp key p e = some t ∧ t.ports.find key = some q ∧ q.reserve = p.reserve + 1 ∧
      q.rows = p.rows ++ [List.replicate 16 .pending] ∧ q.fin = p.fin ∧ q.engine = some { e with step := e.step + 1 } ∧
      t.mem = s.mem ∧ t.fresh = s.fresh + (if p.mode = .sline then 1 else 16) := by
  obtain ⟨reqs, hload, hlen⟩ := patLoad_sends (s := s) (tm := tm) (sp := sp) (p := p) key (e := e) (by omega)
  have hret : State.retireIdle { s with ports := s.ports.put key (p.rowTaken e) } tm sp key = { s with ports := s.ports.put key (p.rowTaken e) } :=
    if_pos hlive
  have hended : (p.rowTaken e).ended = p.rowTaken e :=
    ended_new (rows := p.rows) rfl rfl (fun h => by simp only [Port.rowTaken] at h ⊢; omega)
  rw [hret] at hload
  obtain ⟨hports, hmem, hfresh⟩ := injectAll_spec reqs (({ s with ports := s.ports.put key (p.rowTaken e) } : State).modPort key Port.ended)
  refine ⟨_, p.rowTaken e, hload, ?_, rfl, rfl, rfl, rfl, hmem, ?_⟩
  · rw [hports]
    exact (Assoc.find_alter_some _ (Assoc.find_put_self _ _ _)).trans (congrArg some hended)
  · rw [hfresh, hlen]
    rfl

/-- Where a stream under a pattern engine ends (R188). -/
theorem ended_eq {e : PatEngine} (he : p.engine = some e) (hk : p.kind = .pat) (hr : e.running = true) (hs : e.step = e.total) :
    p.ended = if (List.range 16).all (fun l => (p.slot (e.base + e.total - 1) l).delivered) = true
      then { p with fin := some (e.base + e.total), engine := some { e with running := false } } else p := by
  simp only [Port.ended, he, hk, hr, hs, true_and]

end Sys2Proof.Machine
end

section
open Sys2Proof Machine

/-- Settles O30: what QSTAT reads, QSKIP and QDRAIN once their pops are made, and the step of either engine with its requests. -/
theorem portStatusComplete : Obligations.PortStatusComplete := by
  unfold Obligations.PortStatusComplete
  dsimp only
  refine ⟨?_, ?_, ?_, ?_, ?_, ?_, ?_⟩
  · intro s t' u c tm sp n pos push p hu he hc hdef hn hp hcons hpush hports hw
    exact qstat_completes hu he hc hdef hn hp hcons hpush hports hw
  · intro s t t' u c k n p v he hc hsk hk hn hp hcons hd hcnt hs
    have hrun := skipBody_count he hc hk hn hp hcons hsk s hd
    have hcur : t'.cur = some u := (skipMany_sameUnit _ _ _ _ _ _ hs).1.trans (hd.calm.cur.trans he.past_cur)
    rw [if_neg (by omega)] at hrun
    simp only [M.bind_run, hs, M.modCtl_run _ hcur] at hrun
    have hmod := sameUnit_local.modCtl t' u (fun c => { c with skip := none }) 
    exact (exec_qskip s).trans (insn_completes_of_sameUnit he hrun ((hd.sameUnit.trans (skipMany_sameUnit _ _ _ _ _ _ hs)).trans hmod))
  · intro s t u c k n p v he hc hsk hk hn hp hcons hd hcnt
    have hrun := skipBody_count he hc hk hn hp hcons hsk s hd
    rw [if_pos hcnt] at hrun
    exact (exec_qskip s).trans (insn_traps_any he hrun)
  · intro s t' u c k n p he hc hsk hdef hk hn hp hcons hs
    have hmod := sameUnit_local.modCtl t' u (fun c => { c with skip := none })
    exact (exec_qdrain s).trans (insn_completes_of_sameUnit he (skipBody_drain he hc hk hn hp hcons hsk s hdef hs)
      ((skipMany_sameUnit _ _ _ _ _ _ hs).trans hmod))
  · exact fun p e he hk hr hs => ended_eq he hk hr hs
  · intro s tm sp n p e g hsp hn hocc hp hen hrun hkind hg hpl hctx
    have hexec := exec_patternEngineStep rfl hsp hn hocc hp hen hrun hg hpl hctx
    simp only [event, hkind, reduceCtorEq, if_false] at hexec
    refine ⟨fun hpast => ?_, fun hpast hready hpark hroom => ?_⟩
    · rw [patStore_eq, if_pos hpast] at hexec
      exact ⟨_, hexec, engineStopped_found hp hen, engineStopped_rest s _⟩
    · obtain ⟨t, q, hstep, hq, hap, hre, heng, hmem, hfresh, hreqs⟩ := patStore_steps hp hrun hpast hready hpark hroom
      rw [hstep] at hexec
      refine ⟨t, q, hexec, hq, hap, hre, heng, hmem, hfresh, fun j x hx => ?_⟩
      obtain ⟨-, -, -, hat⟩ := patStored_spec (tm := tm) (sp := sp) (e := e) hp
      obtain ⟨y, hy⟩ := hat j x hx
      rw [← hreqs] at hy
      obtain ⟨ho, hk, hi, hpu⟩ := pieceReq_fields (s := s) (tm := tm) (sp := sp) (p := p) s.fresh (portKey (stripKey tm sp) n) e
        (s.handleOf (.ap tm sp) e.handle) (s.ctxOf (.ap tm sp)) (s.wholeCheck tm sp p e) x
      exact ⟨_, hy, ho, hk, hi, hpu, fun hw hpo a ha => pieceReq_ok s.fresh _ _ _ _ (wholeCheck_ok hw) hpo ha,
        fun hw hpo f hf => pieceReq_error s.fresh _ _ _ _ (wholeCheck_ok hw) hpo hf⟩
  · intro s tm sp n p e g hsp hn hocc hp hen hrun hkind hstep hres hbase hg hpl hctx hdepth hlive
    have hexec := exec_patternEngineStep rfl hsp hn hocc hp hen hrun hg hpl hctx
    simp only [event, hkind, if_true] at hexec
    obtain ⟨t, q, hload, h⟩ := patLoad_steps (portKey (stripKey tm sp) n) hstep hres hbase hdepth hlive
    rw [hload] at hexec
    exact ⟨t, q, hexec, h⟩

end


section
/-! SUPPORT. WAITW, FENCE, acquires and the semaphore instructions (R235, R311, R326, R327). -/

namespace Sys2Proof.Machine

variable {s t t1 t2 t3 t' : State} {u : Agent} {n : Nat} {c : Ctl} {sh : Shape} {v : Opnds}

/-- A load performed at once leaves its unit where it was. -/
theorem doNow_load_sameUnit {r : Req} (hk : r.kind = .load) : Keeps SameUnit (doNow r) := by
  have hf := sameUnit_local.toFrames
  have hglobal : Keeps SameUnit (doGlobalN r) := by
    refine Keeps.bind hf (Keeps.awaitOrder hf _) (fun _ => Keeps.bind hf (Keeps.unit hf) (fun u => Keeps.of_from (fun s => From.get_bind ?_)))
    cases hp : s.partOf r.ctx with
    | none => exact From.stopTrap s _
    | some q =>
      dsimp only
      split
      · next h =>
        have hs := serve_load_sameUnit hk h
        refine From.bind hf (From.set (hs.trans ?_)) (fun _ => Keeps.pure hf _)
        cases u with
        | ap tm sp => exact sameUnit_of_units rfl rfl rfl rfl rfl
        | _ => exact hf.refl _
      · exact From.throw s _
      · exact From.stopTrap s _
      · exact From.stopTrap s _
      · exact From.of_keeps (Keeps.wait _) s
      · exact From.of_keeps (Keeps.wait _) s
  have hown : Keeps SameUnit (doOwnN r) := fun s a t h => doOwn_sameUnit r s (valOf a) t (by simp only [doOwn, M.bind_run, h, M.pure_run])
  exact Keeps.bind hf (Keeps.ite hglobal hown) (fun _ => Keeps.pure hf _)

theorem renewL1_sameUnit (scope : Nat) : Keeps SameUnit (renewL1 scope) := by
  have hf := sameUnit_local.toFrames
  refine Keeps.bind hf (Keeps.unit hf) (fun u => ?_)
  cases u with
  | ap tm sp =>
    exact Keeps.bind hf (Keeps.core hf) (fun k => Keeps.ite (Keeps.modify (fun s => sameUnit_of_units rfl rfl rfl rfl rfl)) (Keeps.pure hf _))
  | _ => exact Keeps.pure hf _

theorem acquire_sameUnit (scope : Nat) : Keeps SameUnit (acquire scope) := by
  have hf := sameUnit_local.toFrames
  exact Keeps.bind hf (Keeps.get hf) (fun s => Keeps.bind hf (Keeps.unit hf) (fun u => Keeps.bind hf (Keeps.waitUnless hf _ _)
    (fun _ => renewL1_sameUnit scope)))

theorem loadsDone_iff : s.loadsDone u = true ↔ ∀ q ∈ s.reqs, q.2.owner = .unit u → q.2.open = true → q.2.loads = false := by
  simp only [State.loadsDone, List.all_eq_true, Bool.or_eq_true, bne_iff_ne, ne_eq, Bool.not_eq_true']
  refine forall₂_congr (fun q _ => ?_)
  by_cases h1 : q.2.owner = .unit u <;> cases q.2.open <;> simp [h1]

theorem acquire_eq (scope : Nat) (hcur : s.cur = some u) :
    acquire scope s = if s.loadsDone u = true then renewL1 scope s else .error (.wait (.counters 0x7F true)) := by
  simp only [acquire, M.bind_run, M.get_run, M.unit_run hcur, waitUnless]
  cases s.loadsDone u <;> simp only [Bool.false_eq_true, if_false, if_true, M.pure_run]
  rfl

/-- Where no deferred fault is one of those looked for, none is taken. -/
theorem pickDeferred_none {p : Deferred → Bool} : ∀ {ds : List Deferred}, (∀ d ∈ ds, p d = false) → pickDeferred p ds = none
  | [], _ => rfl
  | d :: ds, h => by
    simp only [pickDeferred, h d List.mem_cons_self, Bool.false_eq_true, if_false,
      pickDeferred_none (fun x hx => h x (List.mem_cons_of_mem _ hx)), Option.map_none]

theorem M.takeDeferred_none {p : Deferred → Bool} (h : s.cur = some u) (hc : s.ctl u = some c) (hd : ∀ d ∈ c.deferred, p d = false) :
    takeDeferred p s = .ok ((), s) := by
  simp only [takeDeferred, M.bind_run, M.ctl_run h hc, pickDeferred_none hd, M.pure_run]

/-! WAITW. -/

/-- The body of WAITW, of the handle given. -/
def waitwBody (o : Ops) (h : Handle) : M Unit := do
  let w := ewFields h
  checkPairs h [o.d, o.a]
  let v ← fetch { d := w, a := w, c := 0 } .offset
  let l ← onceLane
  let m := lowLane (← lanes)
  condPoison (v.a m)
  let size := 2 ^ Hnd.ew h
  let rs ← accesses { hidx := o.x8.toNat, spaces := [0, 1, 4], kinds := [0, 1], widths := [2, 3], size, align := size,
                      need := .rd, sem := Hnd.ew h == 3 } v l false false false
  match rs with
  | (_, a) :: _ =>
    let s ← get
    let u ← unit
    let x ← (if a.space = 0 ∧ semBase ≤ a.loc then pure (Val.of (s.sem (s.ctxOf u) ((a.loc - semBase) / 8)))
             else do doNow (s.reqOf u a .load (← here) 255 .none))
    condPoison x
    let imm := o.c.immVal
    let mask := 2 ^ (8 * size)
    waitUnless (waitCmp (imm / 8 % 8) (8 * size) (x.bits.toNat % mask) ((v.a m).bits.toNat % mask)) (.word (s.now + 4096))
    acquire (imm % 8)
    writeD w (fun _ => x)
  | [] => pure ()

theorem exec_waitw (hcur : s.cur = some u) : exec .waitw s =
    meaning (insn .waitw { d := ewFields (s.handleOf u s.ir.x8.toNat), a := ewFields (s.handleOf u s.ir.x8.toNat), c := 0 }
      (waitwBody s.ir (s.handleOf u s.ir.x8.toNat))) s :=
  (meaning_read (M.ops_run s)).trans ((meaning_read (M.get_run s)).trans (meaning_read (M.unit_run hcur)))

theorem M.condPoison_clean {x : Val} (h : x.poison = false) : condPoison x s = .ok ((), s) := by
  rw [condPoison, h]
  rw [M.trapIf_false]; rfl

section
variable {l : Nat} {a : Acc} {x : Val} {h : Handle} (he : Executes s u { d := ewFields h, a := ewFields h, c := 0 }) (hpc : s.pcAt u < 2 ^ 64)
  (hpair : checkPairs h [s.ir.d, s.ir.a] (s.past u) = .ok ((), s.past u))
  (hd : Delivers s u { d := ewFields h, a := ewFields h, c := 0 } .offset v t) (hclean : (v.a (t.lead u)).poison = false)
  (ha : accesses { hidx := s.ir.x8.toNat, spaces := [0, 1, 4], kinds := [0, 1], widths := [2, 3], size := 2 ^ Hnd.ew h, align := 2 ^ Hnd.ew h, need := .rd, sem := Hnd.ew h == 3 }
    v [t.lead u] false false false t = .ok ([(l, a)], t1))
  (hx : if a.space = 0 ∧ semBase ≤ a.loc then x = Val.of (t1.sem (t1.ctxOf u) ((a.loc - semBase) / 8)) ∧ t2 = t1
    else doNow (t1.reqOf u a .load (s.pcAt u) 255 .none) t1 = .ok (x, t2))
  (hxc : x.poison = false)
  (hcmp : waitCmp (s.ir.c.immVal / 8 % 8) (8 * 2 ^ Hnd.ew h) (x.bits.toNat % 2 ^ (8 * 2 ^ Hnd.ew h))
    ((v.a (t.lead u)).bits.toNat % 2 ^ (8 * 2 ^ Hnd.ew h)) = true)
  (hacq : acquire (s.ir.c.immVal % 8) t2 = .ok ((), t3)) (hw : Writes t3 s.ir.d (ewFields h) (fun _ => x) t')
include he hpc hd ha hx

theorem waitw_loaded : SameUnit (s.past u) t2 ∧ (if a.space = 0 ∧ semBase ≤ a.loc then pure (Val.of (t1.sem (t1.ctxOf u) ((a.loc - semBase) / 8)))
    else do doNow (t1.reqOf u a .load (← here) 255 .none) : M Val) t1 = .ok (x, t2) := by
  have hcalm := hd.calm.trans (accesses_calm _ _ _ _ _ _ _ _ _ ha)
  have hhere := M.here_calm he hpc hcalm
  by_cases hsem : a.space = 0 ∧ semBase ≤ a.loc
  · rw [if_pos hsem] at hx
    obtain ⟨rfl, rfl⟩ := hx
    rw [if_pos hsem]
    exact ⟨hcalm.sameUnit, rfl⟩
  · rw [if_neg hsem] at hx
    rw [if_neg hsem]
    exact ⟨hcalm.sameUnit.trans (doNow_load_sameUnit rfl _ _ _ hx), (M.bind_ok hhere).trans hx⟩

include hpair hclean hxc hcmp hacq hw

theorem waitwBody_run : waitwBody s.ir h (s.past u) = .ok ((), t') ∧ SameUnit (s.past u) t' := by
  have hfetch : fetch { d := ewFields h, a := ewFields h, c := 0 } .offset (s.past u) = .ok (v, t) := hd
  have hcalm := hd.calm.trans (accesses_calm _ _ _ _ _ _ _ _ _ ha)
  obtain ⟨hsame, hload⟩ := waitw_loaded he hpc hd ha hx
  have h3 := hsame.trans (acquire_sameUnit _ _ _ _ hacq)
  obtain ⟨act, hact, hlow⟩ := M.lowLane_run (t := t) (hd.calm.cur.trans he.past_cur)
    (by rw [hd.sameUnit.2.2, State.ctl_past]; exact (Option.isSome_map).trans he.isSome)
  refine ⟨?_, h3.trans hw.sameUnit⟩
  have hwd := M.writeD_of_writes (h3.2.1.trans (State.past_ir s u)) hw
  simp only [waitwBody, M.bind_run, hpair, hfetch, onceLane, hact, hlow, M.pure_run, M.condPoison_clean hclean, ha, M.get_run,
    M.unit_run (hcalm.cur.trans he.past_cur)]
  rw [hload]
  simp only [M.condPoison_clean hxc, hcmp, M.waitUnless_true, M.pure_run, hacq]
  exact hwd

end

/-! FENCE. -/

/-- The body of FENCE. -/
def fenceBody : M Unit := do
  let o ← ops
  let sem := o.a.immVal % 4
  let m := o.c.immVal
  let u ← unit
  waitUnless ((← get).fenced u m sem) (.counters m true)
  takeDeferred (fenceTakes m sem)
  (if sem = 2 then pure () else renewL1 (o.x8.toNat % 8))

theorem fence_completes (he : Executes s u noShape) (hc : s.ctl u = some c) (hf : (s.past u).fenced u s.ir.c.immVal (s.ir.a.immVal % 4) = true)
    (hdef : ∀ d ∈ c.deferred, fenceTakes s.ir.c.immVal (s.ir.a.immVal % 4) d = false)
    (ht : if s.ir.a.immVal % 4 = 2 then t = s.past u else renewL1 (s.ir.x8.toNat % 8) (s.past u) = .ok ((), t)) :
    exec .fence s = .next (s.closed t u .fence noShape) := by
  have hctl : (s.past u).ctl u = some (c.past s.ir s.now) := by rw [State.ctl_past, hc]; rfl
  have htake := M.takeDeferred_none (p := fenceTakes s.ir.c.immVal (s.ir.a.immVal % 4)) he.past_cur hctl hdef
  have hend : SameUnit (s.past u) t ∧ (if s.ir.a.immVal % 4 = 2 then pure () else renewL1 (s.ir.x8.toNat % 8) : M Unit) (s.past u) = .ok ((), t) := by
    by_cases h2 : s.ir.a.immVal % 4 = 2
    · rw [if_pos h2] at ht
      subst ht
      rw [if_pos h2]
      exact ⟨SameUnit.refl _, rfl⟩
    · rw [if_neg h2] at ht
      rw [if_neg h2]
      exact ⟨renewL1_sameUnit _ _ _ _ ht, ht⟩
  refine insn_completes_of_sameUnit (body := fenceBody) he ?_ hend.1
  simp only [fenceBody, M.bind_run, M.ops_run, M.unit_run he.past_cur, M.get_run, State.past_ir, hf, M.waitUnless_true, M.pure_run, htake]
  exact hend.2

/-! SEMS, SEMI and SEMWK. -/

theorem semIndex_calm (v : Opnds) (data : Bool) : Keeps Calm (semIndex v data) := by
  have hf := Calm.frames
  refine Keeps.bind hf (Keeps.ops hf) (fun o => Keeps.bind hf ?_ (fun l => Keeps.bind hf (spots_calm _ _ _ _ _ _) (fun ps => ?_)))
  · exact Keeps.bind hf (Keeps.lanes hf) (fun _ => Keeps.pure hf _)
  · cases ps with
    | nil => exact Keeps.throw _
    | cons p ps =>
      exact Keeps.bind hf (Keeps.ite (Keeps.pure hf _) (Keeps.stopTrap _)) (fun _ => Keeps.bind hf (Keeps.orTrap hf _) (fun _ =>
        Keeps.bind hf (Keeps.orTrap hf _) (fun _ => Keeps.pure hf _)))

/-- The body of SEMS and SEMI. -/
def semSetBody (f : W64 → W64 → W64) : M Unit := do
  let v ← fetch { d := 0, a := 2, c := 0 } .int
  let n ← semIndex v true
  release
  let u ← unit
  let x := (v.a (lowLane (← lanes))).bits
  modify (fun s => s.setSem (s.ctxOf u) n (f (s.sem (s.ctxOf u) n) x))

theorem semSet_completes {i : Instr} {f : W64 → W64 → W64} (he : Executes s u { d := 0, a := 2, c := 0 })
    (hd : Delivers s u { d := 0, a := 2, c := 0 } .int v t) (hn : semIndex v true t = .ok (n, t1)) (hr : release t1 = .ok ((), t1)) :
    meaning (insn i { d := 0, a := 2, c := 0 } (semSetBody f)) s =
      .next (s.closed (t1.setSem (t1.ctxOf u) n (f (t1.sem (t1.ctxOf u) n) (v.a (t1.lead u)).bits)) u i { d := 0, a := 2, c := 0 }) := by
  have hfetch : fetch { d := 0, a := 2, c := 0 } .int (s.past u) = .ok (v, t) := hd
  have hcalm := hd.calm.trans (semIndex_calm _ _ _ _ _ hn)
  have hcur := hcalm.cur.trans he.past_cur
  obtain ⟨act, hact, hlow⟩ := M.lowLane_run (t := t1) hcur
    (by rw [hcalm.sameUnit.2.2, State.ctl_past]; exact (Option.isSome_map).trans he.isSome)
  refine insn_completes_of_sameUnit he ?_ (hcalm.sameUnit.trans (sameUnit_of_units rfl rfl rfl rfl rfl))
  simp only [semSetBody, M.bind_run, hfetch, hn, hr, M.unit_run hcur, hact, hlow, M.modify_run]

theorem exec_sems (s : State) : exec .sems s = meaning (insn .sems { d := 0, a := 2, c := 0 } (semSetBody (fun _ v => v))) s := rfl

theorem exec_semi (s : State) : exec .semi s = meaning (insn .semi { d := 0, a := 2, c := 0 } (semSetBody (fun x v => x + v))) s := rfl

/-- The body of SEMWK. -/
def semwkBody (o : Ops) : M Unit := do
  let v ← fetch { d := 2, a := 2, c := 0 } .int
  let x := v.a (lowLane (← lanes))
  condPoison x
  let n ← semIndex v false
  let u ← unit
  let s ← get
  let y := s.sem (s.ctxOf u) n
  waitUnless (decide (x.bits.toNat ≤ y.toNat)) (.sem n x.bits)
  acquire (o.c.immVal % 8)
  writeD 2 (fun _ => Val.of y)

theorem exec_semwk (s : State) : exec .semwk s = meaning (insn .semwk { d := 2, a := 2, c := 0 } (semwkBody s.ir)) s :=
  meaning_read (M.ops_run s)

theorem semwk_completes (he : Executes s u { d := 2, a := 2, c := 0 }) (hd : Delivers s u { d := 2, a := 2, c := 0 } .int v t)
    (hn : semIndex v false t = .ok (n, t1)) (hclean : (v.a (t.lead u)).poison = false)
    (hle : (v.a (t.lead u)).bits.toNat ≤ (t1.sem (t1.ctxOf u) n).toNat) (hacq : acquire (s.ir.c.immVal % 8) t1 = .ok ((), t2))
    (hw : Writes t2 s.ir.d 2 (fun _ => Val.of (t1.sem (t1.ctxOf u) n)) t') :
    exec .semwk s = .next (s.closed t' u .semwk { d := 2, a := 2, c := 0 }) := by
  have hfetch : fetch { d := 2, a := 2, c := 0 } .int (s.past u) = .ok (v, t) := hd
  have hcalm := hd.calm.trans (semIndex_calm _ _ _ _ _ hn)
  have h2 := hcalm.sameUnit.trans (acquire_sameUnit _ _ _ _ hacq)
  obtain ⟨act, hact, hlow⟩ := M.lowLane_run (t := t) (hd.calm.cur.trans he.past_cur)
    (by rw [hd.sameUnit.2.2, State.ctl_past]; exact (Option.isSome_map).trans he.isSome)
  refine (exec_semwk s).trans (insn_completes_of_sameUnit he ?_ (h2.trans hw.sameUnit))
  simp only [semwkBody, M.bind_run, hfetch, hact, hlow, M.condPoison_clean hclean, hn, M.unit_run (hcalm.cur.trans he.past_cur), M.get_run,
    decide_eq_true hle, M.waitUnless_true, M.pure_run, hacq]
  exact M.writeD_of_writes (h2.2.1.trans (State.past_ir s u)) hw

theorem sem_setSem (s : State) (ctx i j : Nat) (v : W64) : (s.setSem ctx i v).sem ctx j = if j = i then v else s.sem ctx j := by
  have hctx : (s.setSem ctx i v).context ctx = { s.context ctx with sems := (s.context ctx).sems.put i v } := Assoc.get_put_self _ _ _ _
  rw [State.sem, hctx]
  split
  · next h => rw [h]; exact Assoc.get_put_self _ _ _ _
  · next h => exact Assoc.get_put_of_ne _ _ _ h

/-- A unit made ready; the others stay. -/
theorem wake_ctl (hu : unitOk u) (hc : s.ctl u = some c) : (s.wake u).ctl u = some { c with status := .ready, readySince := s.now } ∧
    ∀ w, unitOk w → w ≠ u → (s.wake u).ctl w = s.ctl w := by
  refine ⟨?_, fun w hw hne => State.ctl_modCtl_of_ne s _ hu hw hne⟩
  rw [State.wake, State.ctl_modCtl, hc]
  rfl

theorem exec_semaphoreWaitSatisfied {i since : Nat} {v : W64} (hocc : s.occ = .unit u) (hc : s.ctl u = some c)
    (hs : c.status = .waiting (.sem i v) since) :
    exec .semaphoreWaitSatisfied s = if v.toNat ≤ (s.sem (s.ctxOf u) i).toNat then .next (s.wake u) else .next s := by
  refine (show exec .semaphoreWaitSatisfied s = execSemaphoreWaitSatisfied s from rfl).trans ?_
  simp only [execSemaphoreWaitSatisfied, event, hocc, State.semSatisfied, hc, Option.map_some, hs]
  by_cases h : v.toNat ≤ (s.sem (s.ctxOf u) i).toNat
  · simp only [if_pos h]
  · simp only [if_neg h]

end Sys2Proof.Machine
end

section
open Sys2Proof Machine

/-- Settles O31: waits on words, fences, acquires and the semaphores of a context. -/
theorem waitsFencesAndSemaphoresComplete : Obligations.WaitsFencesAndSemaphoresComplete := by
  unfold Obligations.WaitsFencesAndSemaphoresComplete
  dsimp only
  refine ⟨?_, ?_, ?_, ?_, ?_, sem_setSem, ?_⟩
  · intro s t t1 t2 t3 t' u v l a x he hpc hpair hd hclean ha hx hxc hcmp hacq hw
    obtain ⟨hrun, hsame⟩ := waitwBody_run he hpc hpair hd hclean ha hx hxc hcmp hacq hw
    exact (exec_waitw he.1).trans (insn_completes_of_sameUnit he hrun hsame)
  · intro s t u c he hc hf hdef ht
    exact fence_completes he hc hf hdef ht
  · simp only [List.forall_mem_cons, List.not_mem_nil, false_imp_iff, implies_true, and_true]
    exact ⟨fun s t t1 u v n he hd hn hr => (exec_sems s).trans (semSet_completes he hd hn hr),
      fun s t t1 u v n he hd hn hr => (exec_semi s).trans (semSet_completes he hd hn hr)⟩
  · intro s t t1 t2 t' u v n he hd hn hclean hle hacq hw
    exact semwk_completes he hd hn hclean hle hacq hw
  · intro s t u scope hcur
    rw [← loadsDone_iff, acquire_eq scope hcur]
    refine ⟨fun h => ?_, fun h => if_pos h⟩
    by_contra hno
    rw [if_neg hno] at h
    cases h
  · intro s u c i since v hu hocc hc hs
    rw [exec_semaphoreWaitSatisfied hocc hc hs]
    exact ⟨fun h => ⟨_, if_pos h, wake_ctl hu hc⟩, fun h => if_neg (by omega)⟩

end


section
/-! SUPPORT. The barriers of a team, a cohort and a grid (R344, R345). -/

namespace Sys2Proof.Machine

variable {s t : State} {tm tid n : Nat} {i : Instr} {v : Opnds} {g : Team}

/-- The instruction's address is where it was while its unit's control is as it was. -/
theorem M.here_congr {t1 : State} {u : Agent} {a : Nat} (h : here t = .ok (a, t)) (hcur : t.cur = some u) (hsome : (t.ctl u).isSome)
    (hcur1 : t1.cur = t.cur) (hir : t1.ir = t.ir) (hctl : t1.ctl u = t.ctl u) : here t1 = .ok (a, t1) := by
  obtain ⟨c, hc⟩ := Option.isSome_iff_exists.1 hsome
  simp only [here, M.bind_run, M.ctl_run hcur hc, M.ops_run, M.pure_run, Except.ok.injEq, Prod.mk.injEq, and_true] at h
  simp only [here, M.bind_run, M.ctl_run (hcur1.trans hcur) (hctl.trans hc), M.ops_run, M.pure_run, hir, h]

/-- A change of a team leaves every unit where it was. -/
theorem modTeam_sameUnit (s : State) (k : Nat) (f : Team → Team) : SameUnit s (s.modTeam k f) := sameUnit_of_units rfl rfl rfl rfl rfl

/-- The body of BAR. -/
def barBody (i : Instr) (waits : Bool) : M Unit := do
  let v ← fetch { d := 0, c := 0 } .int
  let n := (v.b 0).bits.toNat % 16
  release
  match ← unit with
  | .ex tm tid =>
    let t ← team
    let old := t.barriers.find n
    let s ← get
    waitUnless (match old with
      | some b => !s.phaseDone tm b
      | none => true) (.barrier n)
    let b := old.getD { count := (v.a 0).bits.toNat % 2 ^ 32 }
    let b' : Barrier := { b with arrived := b.arrived.add tid, total := b.total + 1,
                                 waiters := if waits then b.waiters.add tid else b.waiters }
    modify (fun s => s.modTeam tm (fun t => { t with barriers := t.barriers.put n b' }))
    if waits then stay i (.barrier n) else pure ()
  | _ => pure ()

/-- A phase with one more arrival. -/
def Barrier.arrive (b : Barrier) (tid : Nat) (waits : Bool) : Barrier :=
  { b with arrived := b.arrived.add tid, total := b.total + 1, waiters := if waits then b.waiters.add tid else b.waiters }

/-- The arrival of a thread at a barrier that is open. -/
theorem bar_completes {b : Barrier} (waits : Bool) (he : Executes s (.ex tm tid) { d := 0, c := 0 }) (hpc : s.pcAt (.ex tm tid) < 2 ^ 64)
    (hd : Delivers s (.ex tm tid) { d := 0, c := 0 } .int v t) (hr : release t = .ok ((), t)) (hg : t.teams.find tm = some g)
    (hn : n = (v.b 0).bits.toNat % 16) (hb : b = (g.barriers.find n).getD { count := (v.a 0).bits.toNat % 2 ^ 32 })
    (hopen : ∀ x, g.barriers.find n = some x → t.phaseDone tm x = false) :
    meaning (insn i { d := 0, c := 0 } (barBody i waits)) s =
      .next (s.closed (if waits = true then (t.modTeam tm (fun x => { x with barriers := x.barriers.put n (b.arrive tid waits) })).stays tm tid i s.ir
          (s.pcAt (.ex tm tid)) (.barrier n)
        else t.modTeam tm (fun x => { x with barriers := x.barriers.put n (b.arrive tid waits) })) (.ex tm tid) i { d := 0, c := 0 }) := by
  have hfetch : fetch { d := 0, c := 0 } .int (s.past (.ex tm tid)) = .ok (v, t) := hd
  have hcur : t.cur = some (.ex tm tid) := hd.calm.cur.trans he.past_cur
  have hteam := modTeam_sameUnit t tm (fun x => { x with barriers := x.barriers.put n (b.arrive tid waits) })
  have hhere : here t = .ok (s.pcAt (.ex tm tid), t) := M.here_calm he hpc hd.calm
  have hsome : (t.ctl (.ex tm tid)).isSome := by rw [hd.sameUnit.2.2, State.ctl_past]; exact (Option.isSome_map).trans he.isSome
  have hstay := M.stay_run (i := i) (w := .barrier n) (hteam.1.trans hcur) (M.here_congr hhere hcur hsome hteam.1 hteam.2.1 rfl)
  have hwait : (match g.barriers.find n with
      | some b => !t.phaseDone tm b
      | none => true) = true := by
    cases hf : g.barriers.find n with
    | none => rfl
    | some x => simp only [hopen x hf, Bool.not_false]
  subst hn hb
  refine insn_completes_of_sameUnit he ?_ ?_
  · simp only [barBody, M.bind_run, hfetch, hr, M.unit_run hcur, M.team_run hcur hg, M.get_run, hwait, M.waitUnless_true, M.pure_run, M.modify_run]
    cases waits with
    | true =>
      simp only [if_true]
      refine hstay.trans ?_
      rw [hteam.2.1, hd.calm.ir, State.past_ir]
    | false => rfl
  · cases waits with
    | true => exact (hd.sameUnit.trans hteam).trans (stays_sameUnit _ _ _ _ _ _ _)
    | false => exact hd.sameUnit.trans hteam

theorem exec_barWait (s : State) : exec .barWait s = meaning (insn .barWait { d := 0, c := 0 } (barBody .barWait true)) s := rfl

theorem exec_barArr (s : State) : exec .barArr s = meaning (insn .barArr { d := 0, c := 0 } (barBody .barArr false)) s := rfl

/-- The arrival of a thread at a barrier of its cohort or grid. -/
theorem wideBar_completes {w : Wait} (arrive : Nat → Team → Team) (he : Executes s (.ex tm tid) noShape) (hpc : s.pcAt (.ex tm tid) < 2 ^ 64)
    (hr : release (s.past (.ex tm tid)) = .ok ((), s.past (.ex tm tid))) :
    meaning (wideBarOp i w arrive) s = .next (s.closed (((s.past (.ex tm tid)).modTeam tm (arrive tid)).stays tm tid i s.ir
      (s.pcAt (.ex tm tid)) w) (.ex tm tid) i noShape) := by
  have hteam := modTeam_sameUnit (s.past (.ex tm tid)) tm (arrive tid)
  have hstay := M.stay_run (i := i) (w := w) (hteam.1.trans he.past_cur) (M.here_of_ctl he hpc (hteam.1.trans he.past_cur)
    (hteam.2.1.trans (State.past_ir s _)) rfl)
  refine insn_completes_of_sameUnit he ?_ (hteam.trans (stays_sameUnit _ _ _ _ _ _ _))
  simp only [M.bind_run, hr, M.unit_run he.past_cur, M.modify_run]
  refine hstay.trans ?_
  rw [hteam.2.1, State.past_ir]

theorem exec_cbar (s : State) : exec .cbar s = meaning (wideBarOp .cbar .cbar (fun i t => { t with cbarrier := t.cbarrier.add i })) s := rfl

theorem exec_gbar (s : State) : exec .gbar s = meaning (wideBarOp .gbar .gbar (fun i t => { t with gbarrier := t.gbarrier.add i })) s := rfl

/-! The ends of barriers. -/

theorem exec_barrierPhaseComplete {b : Barrier} (hocc : s.occ = .num2 tm n) (hg : s.teams.find tm = some g) (hb : g.barriers.find n = some b)
    (htot : b.total ≠ 0) : exec .barrierPhaseComplete s = if s.phaseDone tm b = true then
      .next (b.waiters.foldl (fun s i => s.finishEx tm i) (s.modTeam tm (fun t => { t with barriers := t.barriers.del n })))
    else .next s := by
  refine (show exec .barrierPhaseComplete s = execBarrierPhaseComplete s from rfl).trans ?_
  simp only [execBarrierPhaseComplete, event, hocc, State.barrierComplete, hg, Option.bind_some, hb, htot, ne_eq, not_false_iff, and_true]
  cases s.phaseDone tm b <;> simp only [Bool.false_eq_true, if_false, if_true]

/-- A thread that waited at an instruction goes on past it. -/
theorem finishEx_found {x : ExThread} {j : Insn} (hx : s.exs.find (exKey tm tid) = some x) (ha : x.arr = some j) :
    (s.finishEx tm tid).exs.find (exKey tm tid) = some { x with arr := none, ctl := { x.ctl with
      pc := (x.ctl.pc + j.args.form.bytes) % 2 ^ 64, status := .ready, readySince := s.now, solo := none } } := by
  simp only [State.finishEx, hx, ha]
  exact Assoc.find_alter_some _ hx

/-- Some team waits, and all have arrived. -/
theorem barrier_complete {ts : List (Nat × Team)} {f : Team → NatSet} (hany : ∃ t ∈ ts, f t.2 ≠ [])
    (hall : ∀ t ∈ ts, s.allArrived t.1 t.2 (f t.2) = true) :
    ts.any (fun t => f t.2 != []) = true ∧ ts.all (fun t => s.allArrived t.1 t.2 (f t.2)) = true := by
  obtain ⟨t, ht, hne⟩ := hany
  exact ⟨List.any_eq_true.2 ⟨t, ht, bne_iff_ne.2 hne⟩, List.all_eq_true.2 hall⟩

theorem exec_cohortBarrierRelease {gid c : Nat} (hocc : s.occ = .num2 gid c)
    (hany : ∃ t ∈ s.teams.filter (fun t => t.2.gid == gid && t.2.cohort == c), t.2.cbarrier ≠ [])
    (hall : ∀ t ∈ s.teams.filter (fun t => t.2.gid == gid && t.2.cohort == c), s.allArrived t.1 t.2 t.2.cbarrier = true) :
    exec .cohortBarrierRelease s = .next ((s.teams.filter (fun t => t.2.gid == gid && t.2.cohort == c)).foldl
      (fun s t => t.2.cbarrier.foldl (fun s i => s.finishEx t.1 i) (s.modTeam t.1 (fun t => { t with cbarrier := [] }))) s) := by
  refine (show exec .cohortBarrierRelease s = execCohortBarrierRelease s from rfl).trans ?_
  simp only [execCohortBarrierRelease, event, hocc, State.cohortRelease, if_pos (barrier_complete (f := Team.cbarrier) hany hall)]

theorem exec_gridBarrierRelease {gid : Nat} {y : Grid} (hocc : s.occ = .num gid) (hy : s.grids.find gid = some y) (hadm : y.admitted = y.count)
    (hany : ∃ t ∈ s.teams.filter (fun t => t.2.gid == gid), t.2.gbarrier ≠ [])
    (hall : ∀ t ∈ s.teams.filter (fun t => t.2.gid == gid), s.allArrived t.1 t.2 t.2.gbarrier = true) :
    exec .gridBarrierRelease s = .next ((s.teams.filter (fun t => t.2.gid == gid)).foldl
      (fun s t => t.2.gbarrier.foldl (fun s i => s.finishEx t.1 i) (s.modTeam t.1 (fun t => { t with gbarrier := [] }))) s) := by
  obtain ⟨h1, h2⟩ := barrier_complete (s := s) (f := Team.gbarrier) hany hall
  have hgrid : (s.grids.find gid).elim false (fun g => g.admitted == g.count) = true := by
    rw [hy]
    exact beq_iff_eq.2 hadm
  refine (show exec .gridBarrierRelease s = execGridBarrierRelease s from rfl).trans ?_
  simp only [execGridBarrierRelease, event1, event, hocc, occOne, Option.bind_some, State.gridRelease, if_pos (And.intro h1 (And.intro h2 hgrid))]

end Sys2Proof.Machine
end

section
open Sys2Proof Machine

/-- Settles O32: arrivals at the three barriers, and what releases them. -/
theorem barriersComplete : Obligations.BarriersComplete := by
  unfold Obligations.BarriersComplete
  dsimp only
  refine ⟨?_, ?_, ?_, ?_, ?_, ?_⟩
  · simp only [List.forall_mem_cons, List.not_mem_nil, false_imp_iff, implies_true, and_true]
    exact ⟨fun s t tm tid v g he hpc hd hr hg hopen => (exec_barWait s).trans (bar_completes true he hpc hd hr hg rfl rfl hopen),
      fun s t tm tid v g he hpc hd hr hg hopen => (exec_barArr s).trans (bar_completes false he hpc hd hr hg rfl rfl hopen)⟩
  · exact fun s tm tid he hpc hr => ⟨(exec_cbar s).trans (wideBar_completes _ he hpc hr), (exec_gbar s).trans (wideBar_completes _ he hpc hr)⟩
  · intro s tm n g b hocc hg hb htot
    rw [exec_barrierPhaseComplete hocc hg hb htot]
    exact ⟨fun h => if_pos h, fun h => if_neg (by rw [h]; exact Bool.false_ne_true)⟩
  · exact fun s tm tid x i hx ha => finishEx_found hx ha
  · exact fun s gid c hocc hany hall => exec_cohortBarrierRelease hocc hany hall
  · exact fun s gid g hocc hg hadm hany hall => exec_gridBarrierRelease hocc hg hadm hany hall

end


section
/-! SUPPORT. Arrival words (R243, R244, R245). -/

namespace Sys2Proof.Machine

variable {s t t1 t2 t3 t' : State} {u : Agent} {i : Instr} {v : Opnds} {a : Acc} {x : Nat} {po : Bool}

/-! The fields of an arrival word. -/

theorem Arr.mk_eq (target count gen code : Nat) (err past : Bool) : Arr.mk target count gen err past code =
    target % 2 ^ 32 + 2 ^ 32 * (count % 2 ^ 32 + 2 ^ 32 * (gen % 2 ^ 32 + 2 ^ 32 * (err.toNat + 2 * (past.toNat + 2 * (2 ^ 6 * (code % 256)))))) := by
  cases err <;> cases past <;> simp only [Arr.mk, Bool.toNat_true, Bool.toNat_false, if_true, Bool.false_eq_true, if_false] <;> ring

theorem Arr.mk_target (target count gen code : Nat) (err past : Bool) : Arr.target (Arr.mk target count gen err past code) = target % 2 ^ 32 := by
  rw [Arr.mk_eq, Arr.target, bits]
  omega

theorem Arr.mk_count (target count gen code : Nat) (err past : Bool) : Arr.count (Arr.mk target count gen err past code) = count % 2 ^ 32 := by
  rw [Arr.mk_eq, Arr.count, bits]
  omega

theorem Arr.mk_gen (target count gen code : Nat) (err past : Bool) : Arr.gen (Arr.mk target count gen err past code) = gen % 2 ^ 32 := by
  rw [Arr.mk_eq, Arr.gen, bits]
  omega

theorem Arr.mk_code (target count gen code : Nat) (err past : Bool) : Arr.code (Arr.mk target count gen err past code) = code % 256 := by
  have he := err.toNat_le
  have hp := past.toNat_le
  rw [Arr.mk_eq, Arr.code, bits]
  omega

theorem Arr.mk_err (target count gen code : Nat) (err past : Bool) : Arr.err (Arr.mk target count gen err past code) = err := by
  have he := err.toNat_le
  have hbit : Arr.mk target count gen err past code / 2 ^ 96 % 2 = err.toNat := by
    rw [Arr.mk_eq]
    omega
  rw [Arr.err, bit, hbit]
  cases err <;> rfl

theorem Arr.mk_past (target count gen code : Nat) (err past : Bool) : Arr.past (Arr.mk target count gen err past code) = past := by
  have he := err.toNat_le
  have hp := past.toNat_le
  have hbit : Arr.mk target count gen err past code / 2 ^ 97 % 2 = past.toNat := by
    rw [Arr.mk_eq]
    omega
  rw [Arr.past, bit, hbit]
  cases past <;> rfl

/-- An addition to a word whose fields are given (R243). -/
theorem Arr.add_mk {target count gen code : Nat} (v fault : Nat) (err past : Bool) (ht : target < 2 ^ 32) (hc : count < 2 ^ 32)
    (hg : gen < 2 ^ 32) (hcode : code < 256) : Arr.add (Arr.mk target count gen err past code) v fault =
      if target ≠ 0 ∧ target ≤ count + v then
        Arr.mk target (min (count + v - target) (2 ^ 32 - 1)) (gen + 1) (err || fault != 0) (past || decide (target < count + v))
          (if fault ≠ 0 ∧ err = false then fault else code)
      else Arr.mk target (min (count + v) (2 ^ 32 - 1)) gen (err || fault != 0) past (if fault ≠ 0 ∧ err = false then fault else code) := by
  simp only [Arr.add, Arr.mk_target, Arr.mk_count, Arr.mk_gen, Arr.mk_code, Arr.mk_err, Arr.mk_past, Nat.mod_eq_of_lt ht, Nat.mod_eq_of_lt hc,
    Nat.mod_eq_of_lt hg, Nat.mod_eq_of_lt hcode, Bool.not_eq_true]

theorem Arr.add_fields {target count gen code v fault : Nat} {err past : Bool} (ht : target < 2 ^ 32) (hc : count < 2 ^ 32)
    (hg : gen < 2 ^ 32) (hcode : code < 256) (hfault : fault < 256) :
    let w := Arr.add (Arr.mk target count gen err past code) v fault
    let c := count + v
    Arr.target w = target ∧ Arr.err w = (err || fault != 0) ∧ Arr.code w = (if fault ≠ 0 ∧ err = false then fault else code) ∧
    (target ≠ 0 → target ≤ c → Arr.count w = min (c - target) (2 ^ 32 - 1) ∧ Arr.gen w = (gen + 1) % 2 ^ 32 ∧
      Arr.past w = (past || decide (target < c))) ∧
    (target = 0 ∨ c < target → Arr.count w = min c (2 ^ 32 - 1) ∧ Arr.gen w = gen ∧ Arr.past w = past) := by
  dsimp only
  have hcd : (if fault ≠ 0 ∧ err = false then fault else code) % 256 = if fault ≠ 0 ∧ err = false then fault else code := by
    split <;> omega
  rw [Arr.add_mk v fault err past ht hc hg hcode]
  by_cases h : target ≠ 0 ∧ target ≤ count + v
  · rw [if_pos h]
    simp only [Arr.mk_target, Arr.mk_count, Arr.mk_gen, Arr.mk_code, Arr.mk_err, Arr.mk_past, Nat.mod_eq_of_lt ht, hcd, true_and]
    exact ⟨fun _ _ => ⟨Nat.mod_eq_of_lt (by omega), trivial⟩, fun hno => by omega⟩
  · rw [if_neg h]
    simp only [Arr.mk_target, Arr.mk_count, Arr.mk_gen, Arr.mk_code, Arr.mk_err, Arr.mk_past, Nat.mod_eq_of_lt ht, Nat.mod_eq_of_lt hg, hcd, true_and]
    exact ⟨fun h1 h2 => absurd ⟨h1, h2⟩ h, fun _ => ⟨Nat.mod_eq_of_lt (by omega), trivial⟩⟩

/-! ARRW and AWAIT. -/

theorem doOwnN_sameUnit (r : Req) : Keeps SameUnit (doOwnN r) :=
  fun s a t h => doOwn_sameUnit r s (valOf a) t (by simp only [doOwn, M.bind_run, h, M.pure_run])

theorem updateArr_sameUnit (s : State) (key : Nat) (f : Nat → Nat) : SameUnit s (s.updateArr key f) := by
  unfold State.updateArr
  dsimp only
  split
  · exact SameUnit.refl s
  · exact writeStore_sameUnit _ _ _ _ _

/-- The one access of an instruction leaves its unit as calm as its operands did. -/
theorem oneAccess_calm (w : Want) (v : Opnds) (data : Bool) : Keeps Calm (oneAccess w v data) := by
  have hf := Calm.frames
  refine Keeps.bind hf (Keeps.bind hf (Keeps.lanes hf) (fun _ => Keeps.pure hf _)) (fun l => Keeps.bind hf (accesses_calm _ _ _ _ _ _) (fun ps => ?_))
  cases ps with
  | nil => exact Keeps.throw _
  | cons p ps => exact Keeps.pure hf _

/-- The body of ARRW. -/
def arrwBody (o : Ops) (rel : Bool) (f : Nat → Nat → Nat) : M Unit := do
  let v ← fetch shDAB .offset
  let m := lowLane (← lanes)
  let a ← oneAccess (arrWant o.x8.toNat .both) v true
  (if rel then release else pure ())
  let s ← get
  let x ← doOwnN (s.reqOf (← unit) a (.atomic 15 128 0 0 true) (← here) 255 .none)
  modify (fun s => s.updateArr a.addr (fun w => f w ((v.a m).bits.toNat % 2 ^ 32)))
  writeD 1 (fun _ => ⟨BitVec.ofNat 64 (Arr.gen x.1), x.2⟩)

theorem arrw_eq (i : Instr) (rel : Bool) (f : Nat → Nat → Nat) (s : State) :
    meaning (arrwOp i rel f) s = meaning (insn i shDAB (arrwBody s.ir rel f)) s := meaning_read (M.ops_run s)

/-- The lane that supplies the operands, after they are read. -/
theorem Delivers.lowLane {sh : Shape} {lk : LitKind} (he : Executes s u sh) (hd : Delivers s u sh lk v t) :
    ∃ act, lanes t = .ok (act, t) ∧ Sys2Proof.Machine.lowLane act = t.lead u :=
  M.lowLane_run (hd.calm.cur.trans he.past_cur) (by rw [hd.sameUnit.2.2, State.ctl_past]; exact (Option.isSome_map).trans he.isSome)

theorem arrw_completes {rel : Bool} {f : Nat → Nat → Nat} (he : Executes s u shDAB) (hpc : s.pcAt u < 2 ^ 64) (hd : Delivers s u shDAB .offset v t)
    (ha : oneAccess (arrWant s.ir.x8.toNat .both) v true t = .ok (a, t1)) (hrel : rel = true → release t1 = .ok ((), t1))
    (hx : doOwnN (t1.reqOf u a (.atomic 15 128 0 0 true) (s.pcAt u) 255 .none) t1 = .ok ((x, po), t2))
    (hw : Writes (t2.updateArr a.addr (fun w => f w ((v.a (t.lead u)).bits.toNat % 2 ^ 32))) s.ir.d 1
      (fun _ => ⟨BitVec.ofNat 64 (x / 2 ^ 64 % 2 ^ 32), po⟩) t') :
    meaning (arrwOp i rel f) s = .next (s.closed t' u i shDAB) := by
  have hfetch : fetch shDAB .offset (s.past u) = .ok (v, t) := hd
  have hcalm := hd.calm.trans (oneAccess_calm _ _ _ _ _ _ ha)
  have hrelease : (if rel then release else pure () : M Unit) t1 = .ok ((), t1) := by
    cases rel with
    | true => exact hrel rfl
    | false => rfl
  have hupd := (hcalm.sameUnit.trans (doOwnN_sameUnit _ _ _ _ hx)).trans
    (updateArr_sameUnit t2 a.addr (fun w => f w ((v.a (t.lead u)).bits.toNat % 2 ^ 32)))
  obtain ⟨act, hact, hlow⟩ := hd.lowLane he
  refine (arrw_eq i rel f s).trans (insn_completes_of_sameUnit he ?_ (hupd.trans hw.sameUnit))
  simp only [arrwBody, M.bind_run, hfetch, hact, hlow, ha, hrelease, M.get_run, M.unit_run (hcalm.cur.trans he.past_cur), M.here_calm he hpc hcalm,
    hx, M.modify_run]
  exact M.writeD_of_writes (hupd.2.1.trans (State.past_ir s u)) hw

/-- The body of AWAIT. -/
def awaitBody (o : Ops) : M Unit := do
  let v ← fetch shDAB .offset
  let m := lowLane (← lanes)
  let a ← oneAccess (arrWant o.x8.toNat .rd) v false
  let s ← get
  let x ← doOwnN (s.reqOf (← unit) a .load (← here) 255 .none)
  let g : Nat := (v.a m).bits.toNat % 2 ^ 32
  waitUnless (decide (0 ≤ sext (wrapN ((Arr.gen x.1 : Int) - (g : Int)) 32) 32)) (.arrival a.addr)
  acquire (o.c.immVal % 8)
  writeD 1 (fun _ => heldVal ⟨BitVec.ofNat 64 (x.1 / 2 ^ 96 % 2 ^ 32), x.2 || (v.a m).poison⟩)

theorem exec_await (s : State) : exec .await s = meaning (insn .await shDAB (awaitBody s.ir)) s := meaning_read (M.ops_run s)

theorem sext_nonneg {v n : Nat} (h : v % 2 ^ n < 2 ^ (n - 1)) : 0 ≤ sext v n := by
  rw [sext, if_pos h]
  exact Int.natCast_nonneg _

/-- The generation is past the operand, as a signed difference. -/
theorem generation_past {x g : Nat} (h : 0 ≤ (BitVec.ofNat 32 (x / 2 ^ 64) - BitVec.ofNat 32 g).toInt) :
    0 ≤ sext (wrapN ((Arr.gen x : Int) - ((g % 2 ^ 32 : Nat) : Int)) 32) 32 := by
  rw [BitVec.toInt_eq_toNat_cond, BitVec.toNat_sub, BitVec.toNat_ofNat, BitVec.toNat_ofNat] at h
  refine sext_nonneg ?_
  simp only [wrapN, Arr.gen, bits]
  split at h <;> omega

theorem await_completes (he : Executes s u shDAB) (hpc : s.pcAt u < 2 ^ 64) (hd : Delivers s u shDAB .offset v t)
    (ha : oneAccess (arrWant s.ir.x8.toNat .rd) v false t = .ok (a, t1))
    (hx : doOwnN (t1.reqOf u a .load (s.pcAt u) 255 .none) t1 = .ok ((x, po), t2))
    (hg : 0 ≤ (BitVec.ofNat 32 (x / 2 ^ 64) - BitVec.ofNat 32 (v.a (t.lead u)).bits.toNat).toInt)
    (hacq : acquire (s.ir.c.immVal % 8) t2 = .ok ((), t3))
    (hw : Writes t3 s.ir.d 1 (fun _ => heldVal ⟨BitVec.ofNat 64 (x / 2 ^ 96 % 2 ^ 32), po || (v.a (t.lead u)).poison⟩) t') :
    exec .await s = .next (s.closed t' u .await shDAB) := by
  have hfetch : fetch shDAB .offset (s.past u) = .ok (v, t) := hd
  have hcalm := hd.calm.trans (oneAccess_calm _ _ _ _ _ _ ha)
  have h3 := (hcalm.sameUnit.trans (doOwnN_sameUnit _ _ _ _ hx)).trans (acquire_sameUnit _ _ _ _ hacq)
  obtain ⟨act, hact, hlow⟩ := hd.lowLane he
  refine (exec_await s).trans (insn_completes_of_sameUnit he ?_ (h3.trans hw.sameUnit))
  simp only [awaitBody, M.bind_run, hfetch, hact, hlow, ha, M.get_run, M.unit_run (hcalm.cur.trans he.past_cur), M.here_calm he hpc hcalm,
    hx, decide_eq_true (generation_past hg), M.waitUnless_true, M.pure_run, hacq]
  exact M.writeD_of_writes (h3.2.1.trans (State.past_ir s u)) hw

theorem exec_arrwInit (s : State) : exec .arrwInit s = meaning (arrwOp .arrwInit false Arr.init) s := rfl

theorem exec_arrwAdd (s : State) : exec .arrwAdd s = meaning (arrwOp .arrwAdd true (fun w v => Arr.add w v 0)) s := rfl

theorem exec_arrwTgt (s : State) : exec .arrwTgt s = meaning (arrwOp .arrwTgt false Arr.retarget) s := rfl

end Sys2Proof.Machine
end

section
open Sys2Proof Machine

/-- Settles O33: the instructions of an arrival word, and what an addition does to each field. -/
theorem arrivalWordsComplete : Obligations.ArrivalWordsComplete := by
  unfold Obligations.ArrivalWordsComplete
  refine ⟨?_, ?_, ?_⟩
  · simp only [List.forall_mem_cons, List.not_mem_nil, false_imp_iff, implies_true, and_true]
    exact ⟨fun s t t1 t2 t' u v a x po he hpc hd ha hrel hx hw => (exec_arrwInit s).trans (arrw_completes he hpc hd ha hrel hx hw),
      fun s t t1 t2 t' u v a x po he hpc hd ha hrel hx hw =>
        (exec_arrwAdd s).trans (arrw_completes he hpc hd ha (fun _ => hrel trivial) hx hw),
      fun s t t1 t2 t' u v a x po he hpc hd ha hrel hx hw => (exec_arrwTgt s).trans (arrw_completes he hpc hd ha hrel hx hw)⟩
  · exact fun s t t1 t2 t3 t' u v a x po he hpc hd ha hx hg hacq hw => await_completes he hpc hd ha hx hg hacq hw
  · exact fun target count gen code v fault err past ht hc hg hcode hfault => Arr.add_fields ht hc hg hcode hfault

end


section
/-! SUPPORT. COPY, CSTAT and WDQ (R239 to R243, R347). -/

namespace Sys2Proof.Machine

variable {s t t1 t2 t3 t' : State} {u : Agent} {v : Opnds} {a : Acc} {x n i : Nat} {l : Landing}

/-! The elements performed. -/

theorem performed_cons (p : Nat × Nat) (r : List (Nat × Nat)) (j : Nat) : performed (p :: r) j = true ↔ (p.1 ≤ j ∧ j < p.2) ∨ performed r j = true := by
  simp only [performed, List.any_cons, Bool.or_eq_true, decide_eq_true_eq]

theorem performed_nil (j : Nat) : ¬performed [] j = true := Bool.false_ne_true

theorem countDone_foldl : ∀ (l : List (Nat × Nat)) (n : Nat), l.foldl (fun n x => n + (x.2 - x.1)) n = n + countDone l
  | [], n => (Nat.add_zero n).symm
  | p :: r, n => by
    have h : countDone (p :: r) = r.foldl (fun n x => n + (x.2 - x.1)) (0 + (p.2 - p.1)) := rfl
    rw [List.foldl_cons, countDone_foldl r, h, countDone_foldl r]
    omega

theorem countDone_cons (p : Nat × Nat) (r : List (Nat × Nat)) : countDone (p :: r) = p.2 - p.1 + countDone r := by
  have h : countDone (p :: r) = r.foldl (fun n x => n + (x.2 - x.1)) (0 + (p.2 - p.1)) := rfl
  rw [h, countDone_foldl, Nat.zero_add]

theorem countDone_nil : countDone [] = 0 := rfl

/-- An element that is added is performed, and counted once (R240). -/
theorem addElem_spec (i j : Nat) : ∀ (l : List (Nat × Nat)), l.Pairwise (fun p q => p.2 < q.1) → (∀ p ∈ l, p.1 < p.2) → ¬performed l i = true →
    (performed (addElem l i) j = true ↔ j = i ∨ performed l j = true) ∧ countDone (addElem l i) = countDone l + 1
  | [], _, _, _ => by
    simp only [addElem, performed_cons, countDone_cons, countDone_nil]
    exact ⟨⟨fun h => h.imp_left (fun h => by omega), fun h => h.imp_left (fun h => by omega)⟩, by omega⟩
  | (a, b) :: r, hp, hlt, hi => by
    have hab : a < b := hlt _ List.mem_cons_self
    rw [performed_cons] at hi
    obtain ⟨hi1, hi2⟩ := not_or.1 hi
    simp only at hi1
    unfold addElem
    by_cases h1 : i + 1 < a
    · simp only [if_pos h1, performed_cons, countDone_cons]
      exact ⟨⟨fun h => h.imp_left (fun h => by omega), fun h => h.imp_left (fun h => by omega)⟩, by omega⟩
    by_cases h2 : i + 1 = a
    · simp only [if_neg h1, if_pos h2, performed_cons, countDone_cons]
      refine ⟨?_, by omega⟩
      rw [← or_assoc]
      exact or_congr_left (by omega)
    by_cases h3 : i < b
    · exact absurd ⟨by omega, h3⟩ hi1
    by_cases h4 : i = b
    · subst h4
      cases r with
      | nil =>
        simp only [if_neg h1, if_neg h2, if_neg h3, if_true, performed_cons, countDone_cons, countDone_nil]
        refine ⟨?_, by omega⟩
        rw [← or_assoc]
        exact or_congr_left (by omega)
      | cons q r =>
        obtain ⟨c, d⟩ := q
        have hcd : c < d := hlt _ (List.mem_cons_of_mem _ List.mem_cons_self)
        by_cases h5 : c = i + 1
        · simp only [if_neg h1, if_neg h2, if_neg h3, if_true, if_pos h5, performed_cons, countDone_cons]
          refine ⟨?_, by omega⟩
          rw [← or_assoc, ← or_assoc, or_assoc (a := j = i)]
          exact or_congr_left (by omega)
        · simp only [if_neg h1, if_neg h2, if_neg h3, if_true, if_neg h5, performed_cons, countDone_cons]
          refine ⟨?_, by omega⟩
          rw [← or_assoc (a := j = i)]
          exact or_congr_left (by omega)
    · obtain ⟨ih1, ih2⟩ := addElem_spec i j r (List.Pairwise.of_cons hp) (fun p hm => hlt p (List.mem_cons_of_mem _ hm)) hi2
      simp only [if_neg h1, if_neg h2, if_neg h3, if_neg h4, performed_cons, countDone_cons, ih1, ih2]
      exact ⟨or_left_comm, by omega⟩

/-! Where a status word lands. -/

theorem doNowN_load_sameUnit {r : Req} (hk : r.kind = .load) : Keeps SameUnit (doNowN r) :=
  fun s a t h => doNow_load_sameUnit hk s (valOf a) t (by simp only [doNow, M.bind_run, h, M.pure_run])

theorem landD_sameUnit : Keeps SameUnit landD := by
  have hf := sameUnit_local.toFrames
  refine Keeps.bind hf (Keeps.unit hf) (fun u => Keeps.bind hf (Keeps.ops hf) (fun o => ?_))
  split
  · exact Keeps.bind hf (Keeps.writeRegs sameUnit_local _ _ _ _ _) (fun _ => Keeps.pure hf _)
  · exact Keeps.bind hf (Keeps.modify (fun s => sameUnit_local.ap s _ _ _)) (fun _ => Keeps.pure hf _)
  · exact Keeps.bind hf (Keeps.modify (fun s => sameUnit_local.engine s _ _)) (fun _ => Keeps.pure hf _)
  · exact Keeps.pure hf _

theorem M.myGrid_run (hcur : s.cur = some u) : myGrid s = .ok ((s.teamOf u).map (·.gid), s) := by
  simp only [myGrid, M.bind_run, M.get_run, M.unit_run hcur, M.pure_run]

/-! COPY. -/

/-- The code with which a copy has failed as it is entered, 0 for one that goes on (R239, R240). -/
def State.copyCode (s : State) (u : Agent) (r : BitVec 1024) : Nat :=
  if CRec.malformed r (s.handleOf u (CRec.sh r)) (s.handleOf u (CRec.dh r)) (s.handleOf u (CRec.ah r)) then 0x80
  else if s.copyHandle u (s.handleOf u (CRec.sh r)) true ≠ 0 then s.copyHandle u (s.handleOf u (CRec.sh r)) true
  else if s.copyHandle u (s.handleOf u (CRec.dh r)) false ≠ 0 then s.copyHandle u (s.handleOf u (CRec.dh r)) false
  else if CRec.named r then (match s.arrKey u r (s.handleOf u (CRec.ah r)) with | .error t => t.code.toNat | .ok _ => 0) else 0

/-- The handle of the arrival word of a copy. -/
def State.copyArr (s : State) (u : Agent) (r : BitVec 1024) : Option (BitVec 256) :=
  if CRec.named r then (match s.arrKey u r (s.handleOf u (CRec.ah r)) with | .ok _ => some (s.handleOf u (CRec.ah r)) | .error _ => none) else none

/-- A copy as it is entered. -/
def State.newCopy (s : State) (u : Agent) (gid : Option Nat) (c : Nat) (r : BitVec 1024) (landing : Landing) : Copy :=
  { owner := u, ctx := s.ctxOf u, gid := gid, core := (s.coreOf u).getD 0, scope := c % 8, ord := bit c 3, record := r,
    src := s.handleOf u (CRec.sh r), dst := s.handleOf u (CRec.dh r), arr := s.copyArr u r, landing, done := [], total := CRec.total r, added := 0,
    pline := none, seed := false, fail := if s.copyCode u r = 0 then none else some (s.copyCode u r, 0) }

/-- The body of COPY. -/
def copyBody (o : Ops) (u : Agent) : M Unit := do
  let v ← fetch shDB .offset
  let _ := lowLane (← lanes)
  let q := decide (sideOf u = .queue)
  let a ← oneAccess { hidx := o.x8.toNat, spaces := if q then [0] else [1], kinds := kFlat, size := 128, align := 128,
                      need := .rd, offAlign := 128 } v false
  let x ← doNowN ((← get).reqOf u a .load (← here) 255 .none)
  trapIf x.2 0x11 1
  release
  let s ← get
  waitUnless (decide ((s.copiesOf u).length < (if q then 256 else 64))) .copies
  let landing ← (if bit o.c.immVal 4 then pure .none else landD)
  let n ← freshId
  let op := s.newCopy u (← myGrid) o.c.immVal (BitVec.ofNat 1024 x.1) landing
  modify (fun s => { s with copies := s.copies.put n op })

theorem exec_copy (hcur : s.cur = some u) : exec .copy s = meaning (insn .copy shDB (copyBody s.ir u)) s :=
  (meaning_read (M.ops_run s)).trans (meaning_read (M.unit_run hcur))

theorem copy_completes (he : Executes s u shDB) (hpc : s.pcAt u < 2 ^ 64) (hd : Delivers s u shDB .offset v t)
    (ha : oneAccess { hidx := s.ir.x8.toNat, spaces := if decide (sideOf u = .queue) then [0] else [1], kinds := kFlat, size := 128, align := 128, need := .rd, offAlign := 128 } v false t = .ok (a, t1))
    (hx : doNowN (t1.reqOf u a .load (s.pcAt u) 255 .none) t1 = .ok ((x, false), t2)) (hrel : release t2 = .ok ((), t2))
    (hroom : (t2.copiesOf u).length < (if decide (sideOf u = .queue) then 256 else 64))
    (hl : if bit s.ir.c.immVal 4 = true then l = .none ∧ t3 = t2 else landD t2 = .ok (l, t3)) :
    exec .copy s = .next (s.closed { t3 with fresh := t3.fresh + 1, copies := t3.copies.put t3.fresh (t2.newCopy u ((t3.teamOf u).map (·.gid))
      s.ir.c.immVal (BitVec.ofNat 1024 x) l) } u .copy shDB) := by
  have hfetch : fetch shDB .offset (s.past u) = .ok (v, t) := hd
  have hcalm := hd.calm.trans (oneAccess_calm _ _ _ _ _ _ ha)
  have h2 := hcalm.sameUnit.trans (doNowN_load_sameUnit rfl _ _ _ hx)
  have hland : SameUnit t2 t3 ∧ (if bit s.ir.c.immVal 4 = true then pure .none else landD : M Landing) t2 = .ok (l, t3) := by
    by_cases hb : bit s.ir.c.immVal 4 = true
    · rw [if_pos hb] at hl
      obtain ⟨rfl, rfl⟩ := hl
      rw [if_pos hb]
      exact ⟨SameUnit.refl _, rfl⟩
    · rw [if_neg hb] at hl
      rw [if_neg hb]
      exact ⟨landD_sameUnit _ _ _ hl, hl⟩
  have h3 := h2.trans hland.1
  have hgrid : myGrid { t3 with fresh := t3.fresh + 1 } = .ok ((t3.teamOf u).map (·.gid), { t3 with fresh := t3.fresh + 1 }) :=
    M.myGrid_run (h3.1.trans he.past_cur)
  obtain ⟨act, hact, hlow⟩ := hd.lowLane he
  refine (exec_copy he.1).trans (insn_completes_of_sameUnit he ?_ (h3.trans (sameUnit_of_units rfl rfl rfl rfl rfl)))
  simp only [copyBody, M.bind_run, hfetch, hact, ha, M.get_run, M.here_calm he hpc hcalm, hx, M.trapIf_false, hrel, decide_eq_true hroom,
    M.waitUnless_true, M.pure_run, hland.2, M.freshId_run, hgrid, M.modify_run]

/-! CSTAT and WDQ. -/

/-- The body of CSTAT. -/
def cstatBody (o : Ops) (u : Agent) : M Unit := do
  let v ← fetch shDA .offset
  let m := lowLane (← lanes)
  let n := ((← get).copiesOf u).length
  waitUnless (decide (n ≤ (v.a m).bits.toNat % 2 ^ 32)) .copies
  acquire (o.c.immVal % 8)
  writeD 1 (fun _ => heldVal ⟨BitVec.ofNat 64 n, (v.a m).poison⟩)

theorem exec_cstat (hcur : s.cur = some u) : exec .cstat s = meaning (insn .cstat shDA (cstatBody s.ir u)) s :=
  (meaning_read (M.ops_run s)).trans (meaning_read (M.unit_run hcur))

theorem cstat_completes (he : Executes s u shDA) (hd : Delivers s u shDA .offset v t)
    (hn : (t.copiesOf u).length ≤ (v.a (t.lead u)).bits.toNat % 2 ^ 32) (hacq : acquire (s.ir.c.immVal % 8) t = .ok ((), t1))
    (hw : Writes t1 s.ir.d 1 (fun _ => heldVal ⟨BitVec.ofNat 64 (t.copiesOf u).length, (v.a (t.lead u)).poison⟩) t') :
    exec .cstat s = .next (s.closed t' u .cstat shDA) := by
  have hfetch : fetch shDA .offset (s.past u) = .ok (v, t) := hd
  have h1 := hd.sameUnit.trans (acquire_sameUnit _ _ _ _ hacq)
  obtain ⟨act, hact, hlow⟩ := hd.lowLane he
  refine (exec_cstat he.1).trans (insn_completes_of_sameUnit he ?_ (h1.trans hw.sameUnit))
  simp only [cstatBody, M.bind_run, hfetch, hact, hlow, M.get_run, decide_eq_true hn, M.waitUnless_true, M.pure_run, hacq]
  exact M.writeD_of_writes (h1.2.1.trans (State.past_ir s u)) hw

/-- A request to the Sieve as it is entered (R347). -/
def State.newWdq (s : State) (u : Agent) (gid : Option Nat) (a : Acc) (landing : Landing) : WdqOp :=
  { owner := u, ctx := s.ctxOf u, gid := gid.getD 0, core := a.core, addr := a.loc, landing }

/-- The body of WDQ. -/
def wdqBody (o : Ops) (u : Agent) : M Unit := do
  let v ← fetch shDB .offset
  let _ := lowLane (← lanes)
  let a ← oneAccess { hidx := o.x8.toNat, spaces := [1], kinds := [0], size := 8, align := 8, need := .wr, offAlign := 8 } v false
  let s ← get
  waitUnless (decide ((s.wdqs.filter (fun q => q.2.owner == u)).length < 4)) .wdqs
  awaitReplies 1
  let landing ← landD
  let n ← freshId
  let op := s.newWdq u (← myGrid) a landing
  modify (fun s => { s with wdqs := s.wdqs.put n op })

theorem exec_wdq (hcur : s.cur = some u) : exec .wdq s = meaning (insn .wdq shDB (wdqBody s.ir u)) s :=
  (meaning_read (M.ops_run s)).trans (meaning_read (M.unit_run hcur))

theorem wdq_completes (he : Executes s u shDB) (hd : Delivers s u shDB .offset v t)
    (ha : oneAccess { hidx := s.ir.x8.toNat, spaces := [1], kinds := [0], size := 8, align := 8, need := .wr, offAlign := 8 } v false t = .ok (a, t1))
    (hroom : (t1.wdqs.filter (fun q => q.2.owner == u)).length < 4) (hreply : t1.replyRoom u 1 = true) (hl : landD t1 = .ok (l, t2)) :
    exec .wdq s = .next (s.closed { t2 with fresh := t2.fresh + 1, wdqs := t2.wdqs.put t2.fresh (t1.newWdq u ((t2.teamOf u).map (·.gid)) a l) } u .wdq shDB) := by
  have hfetch : fetch shDB .offset (s.past u) = .ok (v, t) := hd
  have hcalm := hd.calm.trans (oneAccess_calm _ _ _ _ _ _ ha)
  have h2 := hcalm.sameUnit.trans (landD_sameUnit _ _ _ hl)
  have hgrid : myGrid { t2 with fresh := t2.fresh + 1 } = .ok ((t2.teamOf u).map (·.gid), { t2 with fresh := t2.fresh + 1 }) :=
    M.myGrid_run (h2.1.trans he.past_cur)
  obtain ⟨act, hact, hlow⟩ := hd.lowLane he
  refine (exec_wdq he.1).trans (insn_completes_of_sameUnit he ?_ (h2.trans (sameUnit_of_units rfl rfl rfl rfl rfl)))
  simp only [wdqBody, M.bind_run, hfetch, hact, ha, M.get_run, decide_eq_true hroom, M.waitUnless_true, M.pure_run,
    M.awaitReplies_run (hcalm.cur.trans he.past_cur) hreply, hl, M.freshId_run, hgrid, M.modify_run]

/-! The events. -/

/-- An element that is performed: it counts, and the first poisoned line is noted. -/
def State.elemDone (s : State) (n i : Nat) (c : Copy) (da : Acc) (po : Bool) : State :=
  let s3 := if da.space = 6 then s.modCore da.core (fun x => { x with bcsOwner := some c.ctx }) else s
  { s3 with copies := s3.copies.alter n (fun x =>
    { x with done := addElem x.done i, pline := if po && x.pline.isNone then some (i * CRec.elem c.record / 64) else x.pline }) }

section
variable {c : Copy} {sa da : Acc} {s1 s2 : State} {val w : Nat} {po pd : Bool}

theorem copyElem_ok (hsa : s.elemAcc c.owner c.ctx (CRec.sh c.record) c.src (c.offsets i).1 (CRec.splace c.record) (CRec.elem c.record) .rd = .ok sa)
    (hda : s.elemAcc c.owner c.ctx (CRec.dh c.record) (Hnd.shadow c.dst) (c.offsets i).2 (CRec.dplace c.record) (CRec.elem c.record) .wr = .ok da)
    (hs : s.engineAway c.owner sa = false) (hdd : s.engineAway c.owner da = false) (hb : da.space = 6 → s.bcsFree da.core c.ctx = true)
    (hsrc : s.sentTo n da = some (val, po) ∧ s1 = s ∨ s.sentTo n da = none ∧ s.engAccess (s.engReq n c.owner sa .load) = .ok val po s1)
    (hdst : s1.engAccess (s.engReq n c.owner da (.store val po)) = .ok w pd s2) :
    s.copyElem n c i = some (s2.elemDone n i c da po, 0, false) := by
  have hbcs : ¬(da.space = 6 ∧ ¬s.bcsFree da.core c.ctx = true) := fun h => h.2 (hb h.1)
  obtain ⟨h1, rfl⟩ | ⟨h1, h2⟩ := hsrc
  · simp only [State.copyElem, hsa, hda, hs, hdd, Bool.or_self, Bool.false_eq_true, if_false, if_neg hbcs, h1, hdst]
    rfl
  · simp only [State.copyElem, hsa, hda, hs, hdd, Bool.or_self, Bool.false_eq_true, if_false, if_neg hbcs, h1, h2, hdst]
    rfl

theorem exec_copyProgress (hocc : s.occ = .num2 n i) (hc : s.copies.find n = some c) (hrun : s.running c.ctx = true) (hfail : c.fail = none)
    (hi : i < c.total) (hnew : performed c.done i = false) (helem : s.copyElem n c i = some (t, 0, false)) :
    exec .copyProgress s = .next (if c.ord then t
      else t.addArrival n { c with done := addElem c.done i } (countDone (addElem c.done i) * CRec.elem c.record) 0) := by
  refine (show exec .copyProgress s = execCopyProgress s from rfl).trans ?_
  simp only [execCopyProgress, event, hocc, State.copyProgress, hc, hrun, hfail, Option.isSome_none, decide_eq_false (Nat.not_le.2 hi), hnew,
    Bool.not_true, Bool.or_self, Bool.false_eq_true, if_false, helem, ne_eq, not_true, Bool.false_or]

/-- What a copy reports: the failure that ended it, else the first poisoned line (R241). -/
def Copy.status (c : Copy) : Nat × Nat :=
  match c.fail with
  | some f => f
  | none => match c.pline with
    | some l => (0x11, l)
    | none => (0, 0)

theorem exec_copyComplete (hocc : s.occ = .num n) (hc : s.copies.find n = some c) (hrun : s.running c.ctx = true) (hord : s.ordReady n c = true)
    (hseed : c.seed = false) (hend : c.fail.isSome = true ∨ countDone c.done = c.total) (hr : t = s.addArrival n c (c.total * CRec.elem c.record) (c.fail.elim 0 Prod.fst)) :
    exec .copyComplete s = .next (({ t with copies := t.copies.del n, reqs := t.reqs.filter (fun y => y.2.owner != Owner.eng n) } : State).landWord
      c.landing (statusWord c.status.1 c.status.2 0) false) := by
  have hdone : (c.fail.isSome || countDone c.done == c.total) = true := by
    rw [Bool.or_eq_true, beq_iff_eq]
    exact hend
  subst hr
  refine (show exec .copyComplete s = execCopyComplete s from rfl).trans ?_
  simp only [execCopyComplete, event1, event, hocc, occOne, Option.bind_some, State.copyComplete, hc, hrun, hord, hseed, hdone, Bool.not_true,
    Bool.or_self, Bool.false_eq_true, if_false]
  unfold Copy.status
  cases c.fail with
  | some f => rfl
  | none => cases c.pline <;> rfl

end

/-- What is answered while a context runs lands at once (R403). -/
theorem reply_running {k : Nat} (l : Landing) (v : W64) (ht : t.ctxs = s.ctxs) (hrun : s.running k = true) : t.reply k l v false = t.landWord l v false := by
  have hr : t.running k = true := by
    unfold State.running State.context at hrun ⊢
    rw [ht]
    exact hrun
  rw [State.reply, if_pos hr]

theorem replySpad_reply_running {k : Nat} (u : Agent) (loc : Nat) (l : Landing) (v w : W64) (ht : t.ctxs = s.ctxs) (hrun : s.running k = true) :
    (t.replySpad k u loc v).reply k l w false = (t.writeStore (t.windowKey u loc) 8 v.toNat false).landWord l w false := by
  have hr : t.running k = true := by
    unfold State.running State.context at hrun ⊢
    rw [ht]
    exact hrun
  rw [State.replySpad, if_pos hr]
  exact reply_running (s := s) l w ht hrun

/-- What an event of one number does. -/
theorem event1_run (f : State → Nat → Option State) (hocc : s.occ = .num n) : event1 f s = .next ((f s n).getD s) := by
  simp only [event1, event, hocc, occOne, Option.bind_some]
  cases f s n <;> rfl

/-- A tile, or the end token, is written and its request answered. -/
def State.wdqDone (s : State) (q : WdqOp) (v : Nat) : State :=
  (s.replySpad q.ctx q.owner q.addr (BitVec.ofNat 64 v)).reply q.ctx q.landing (statusWord 0 0 0) false

/-- The oldest request of a requester is answered while its context runs. -/
theorem wdqAnswer_eq {q : WdqOp} {g : Grid} {c : Ctl} (hq : s.wdqs.find n = some q) (hrun : s.running q.ctx = true)
    (hold : ∀ x ∈ s.wdqs, x.2.owner = q.owner → n ≤ x.1) (hg : s.grids.find q.gid = some g) (hc : s.ctl q.owner = some c) (r : State)
    (hr : r = { s with wdqs := s.wdqs.del n }) (tiles : Nat) (ht : tiles = LRec.tx g.record * LRec.ty g.record) :
    s.wdqAnswer n = some (if g.sieve.getD tiles < tiles then
        State.wdqDone { r with grids := r.grids.put q.gid { g with sieve := some (g.sieve.getD tiles + 1) } } q (tileWord g.record (g.sieve.getD tiles))
      else if c.wdqEnd = true then r.reply q.ctx q.landing (statusWord 0x8A 0 0) false
      else (r.modCtl q.owner (fun c => { c with wdqEnd := true })).wdqDone q (2 ^ 64 - 1)) := by
  have hans : s.answerable q.ctx = true := by simp only [State.answerable, hrun, Bool.true_or]
  have hany : s.wdqs.any (fun x => decide (x.1 < n) && x.2.owner == q.owner) = false := by
    rw [List.any_eq_false]
    intro x hx h
    obtain ⟨h1, h2⟩ := Bool.and_eq_true_iff.1 h
    have := hold x hx (eq_of_beq h2)
    have := of_decide_eq_true h1
    omega
  subst hr ht
  simp only [State.wdqAnswer, hq, hans, hany, Bool.not_true, Bool.or_self, Bool.false_eq_true, if_false, hg, hc]
  by_cases hi : g.sieve.getD (LRec.tx g.record * LRec.ty g.record) < LRec.tx g.record * LRec.ty g.record
  · simp only [if_pos hi]
    rfl
  · simp only [if_neg hi]
    cases c.wdqEnd <;> rfl

theorem wdqDone_running {q : WdqOp} (v : Nat) (ht : t.ctxs = s.ctxs) (hrun : s.running q.ctx = true) :
    t.wdqDone q v = (t.writeStore (t.windowKey q.owner q.addr) 8 (BitVec.ofNat 64 v).toNat false).landWord q.landing (statusWord 0 0 0) false :=
  replySpad_reply_running q.owner q.addr q.landing _ _ ht hrun

theorem windowKey_modCtl (s : State) (u w : Agent) (f : Ctl → Ctl) (k : Nat) : (s.modCtl u f).windowKey w k = s.windowKey w k := by
  cases u <;> rfl

end Sys2Proof.Machine
end

section
open Sys2Proof Machine

/-- Settles O34: COPY, CSTAT and WDQ, and the events that perform their elements, end them and answer the Sieve's requests. -/
theorem copiesAndWorkRequestsComplete : Obligations.CopiesAndWorkRequestsComplete := by
  unfold Obligations.CopiesAndWorkRequestsComplete
  refine ⟨?_, ?_, ?_, ?_, ?_, ?_, ?_⟩
  · exact fun s t t1 t2 t3 u v a x l he hpc hd ha hx hrel hroom hl => copy_completes he hpc hd ha hx hrel hroom hl
  · exact fun s t t1 t' u v he hd hn hacq hw => cstat_completes he hd hn hacq hw
  · intro s s1 s2 n i v w po pd c sa da e s3 r hocc hc hrun hfail hi hnew hsa hda hs hdd hb hsrc hdst
    exact exec_copyProgress hocc hc hrun hfail hi hnew (copyElem_ok hsa hda hs hdd hb hsrc hdst)
  · intro s n c q r hocc hc hrun hord hseed hend
    refine exec_copyComplete hocc hc hrun hord hseed hend ?_
    dsimp only [r]
    cases c.fail <;> rfl
  · exact fun l i j hp hlt hi => addElem_spec i j l hp hlt (by rw [hi]; exact Bool.false_ne_true)
  · exact fun s t t1 t2 u v a l he hd ha hroom hreply hl => wdq_completes he hd ha hroom hreply hl
  · intro s n q g c tiles i r key hocc hq hrun hold hg hc
    have hexec : exec .wdqAnswer s = _ := event1_run State.wdqAnswer hocc
    rw [wdqAnswer_eq hq hrun hold hg hc r rfl tiles rfl, Option.getD_some] at hexec
    refine ⟨fun h => ?_, fun h he => ?_, fun h he => ?_⟩
    · rw [if_pos h] at hexec
      exact hexec.trans (congrArg _ (wdqDone_running (s := s) _ (by rfl) hrun))
    · rw [if_neg (Nat.not_lt.2 h), if_pos he] at hexec
      exact hexec.trans (congrArg _ (reply_running (s := s) _ _ (by rfl) hrun))
    · rw [if_neg (Nat.not_lt.2 h), if_neg (by rw [he]; exact Bool.false_ne_true),
        wdqDone_running (s := s) _ (State.modCtl_ctxs r _ _) hrun, windowKey_modCtl] at hexec
      exact hexec

end


section
/-! SUPPORT. SHDW and PUBL with their events (R246 to R249). -/

namespace Sys2Proof.Machine

variable {s t t1 r : State} {u : Agent} {v : Opnds} {l : Landing} {n code dev : Nat} {op : PubOp} {x : PairAt} {p : Partition}
  {tw sw : List (Nat × Nat)} {publ : Bool} {i : Instr}

/-! The instructions. -/

/-- An operation of the publish table as it is entered. -/
def State.newPub (s : State) (u : Agent) (gid : Option Nat) (h : Handle) (publ : Bool) (c : Nat) (landing : Landing) : PubOp :=
  { owner := u, ctx := s.ctxOf u, gid, core := (s.coreOf u).getD 0, handle := h, publ, scope := c % 8, seed := !publ && bit c 3, fill := none,
    landing }

/-- An operation entered in the publish table under the next number. -/
def State.withPub (s : State) (op : PubOp) : State := { s with fresh := s.fresh + 1, pubs := s.pubs.put s.fresh op }

/-- The body of SHDW and PUBL. -/
def pubBody (o : Ops) (u : Agent) (publ : Bool) : M Unit := do
  let _ ← fetch shDOnly .offset
  let _ := lowLane (← lanes)
  let h := (← get).handleOf u o.x8.toNat
  if Hnd.space h = 7 then stopTrap (accTrap 0x24 1 o.x8.toNat 0)
  release
  awaitReplies 1
  let landing ← landD
  let s ← get
  let n ← freshId
  let op := s.newPub u (← myGrid) h publ o.c.immVal landing
  modify (fun s => { s with pubs := s.pubs.put n op })

theorem pub_eq (hcur : s.cur = some u) : meaning (pubOp i publ) s = meaning (insn i shDOnly (pubBody s.ir u publ)) s :=
  (meaning_read (M.ops_run s)).trans (meaning_read (M.unit_run hcur))

theorem pub_completes (he : Executes s u shDOnly) (hd : Delivers s u shDOnly .offset v t) (hs : Hnd.space (t.handleOf u s.ir.x8.toNat) ≠ 7)
    (hrel : release t = .ok ((), t)) (hreply : t.replyRoom u 1 = true) (hl : landD t = .ok (l, t1)) :
    meaning (pubOp i publ) s = .next (s.closed (t1.withPub (t1.newPub u ((t1.teamOf u).map (·.gid)) (t.handleOf u s.ir.x8.toNat) publ
      s.ir.c.immVal l)) u i shDOnly) := by
  have hfetch : fetch shDOnly .offset (s.past u) = .ok (v, t) := hd
  have h1 := hd.sameUnit.trans (landD_sameUnit _ _ _ hl)
  have hgrid : myGrid { t1 with fresh := t1.fresh + 1 } = .ok ((t1.teamOf u).map (·.gid), { t1 with fresh := t1.fresh + 1 }) :=
    M.myGrid_run (h1.1.trans he.past_cur)
  obtain ⟨act, hact, hlow⟩ := hd.lowLane he
  refine (pub_eq he.1).trans (insn_completes_of_sameUnit he ?_ (h1.trans (sameUnit_of_units rfl rfl rfl rfl rfl)))
  simp only [pubBody, M.bind_run, hfetch, hact, M.get_run, if_neg hs, hrel, M.awaitReplies_run (hd.calm.cur.trans he.past_cur) hreply,
    hl, M.freshId_run, hgrid, M.modify_run]
  rfl

theorem pub_traps (he : Executes s u shDOnly) (hd : Delivers s u shDOnly .offset v t) (hs : Hnd.space (t.handleOf u s.ir.x8.toNat) = 7) :
    meaning (pubOp i publ) s = .next (s.takeTrap u (accTrap 0x24 1 s.ir.x8.toNat 0) (len0Of s.ir.form)) := by
  have hfetch : fetch shDOnly .offset (s.past u) = .ok (v, t) := hd
  obtain ⟨act, hact, hlow⟩ := hd.lowLane he
  refine (pub_eq he.1).trans (insn_traps_any he ?_)
  simp only [pubBody, M.bind_run, hfetch, hact, M.get_run, if_pos hs, M.stopTrap_run]

theorem exec_shdw (s : State) : exec .shdw s = meaning (pubOp .shdw false) s := rfl

theorem exec_publ (s : State) : exec .publ s = meaning (pubOp .publ true) s := rfl

/-! SHDW_COMPLETE. -/

theorem exec_shdwComplete (hocc : s.occ = .num n) : exec .shdwComplete s = .next ((s.shdwComplete n).getD s) := by
  refine (event1_run (fun s n => if occTwo s.occ = 1 then s.inboundShdw n else s.shdwComplete n) hocc).trans ?_
  rw [hocc]
  rfl

theorem exec_publExchange (hocc : s.occ = .num n) : exec .publExchange s = .next ((s.publExchange n).getD s) := by
  refine (event1_run (fun s n => if occTwo s.occ = 1 then s.inboundPubl n else s.publExchange n) hocc).trans ?_
  rw [hocc]
  rfl

theorem pubLive_running (h : s.running op.ctx = true) : s.pubLive op = true := by simp only [State.pubLive, h, Bool.true_or]

section
variable (hop : s.pubs.find n = some op) (hpub : op.publ = false) (hfill : op.fill = none)
include hop hpub hfill

theorem shdwComplete_ok (hrun : s.running op.ctx = true) (hx : s.pairAt op.ctx op.handle = .ok x) :
    s.shdwComplete n = (s.openPair op.ctx x).map (fun y => y.2.pairOpened n op y.1) := by
  simp only [State.shdwComplete, hop, hpub, hfill, hx, pubLive_running hrun, Bool.false_eq_true, if_false, if_true]

theorem shdwComplete_fail (hx : s.pairAt op.ctx op.handle = .fail code) : s.shdwComplete n = some (s.endPub n op code 0) := by
  simp only [State.shdwComplete, hop, hpub, hfill, hx, Bool.false_eq_true, if_false]

theorem shdwComplete_away (hx : s.pairAt op.ctx op.handle = .away dev tw sw) {y : Option Nat × State} (hask : s.askOwner n op dev tw sw = some y) :
    s.shdwComplete n = some (match y.1 with
      | some code => y.2.pairOpened n op code
      | none => y.2) := by
  simp only [State.shdwComplete, hop, hpub, hfill, hx, hask, Bool.false_eq_true, if_false, Option.map_some]
  <;> rfl

end

theorem shdwComplete_filled {f : Nat} {c : Copy} (hop : s.pubs.find n = some op) (hpub : op.publ = false) (hfill : op.fill = some f)
    (hc : s.copies.find f = some c) (hfail : c.fail = none) (hdone : countDone c.done = c.total) :
    s.shdwComplete n = some (State.endPub { s with copies := s.copies.del f, reqs := s.reqs.filter (fun r => r.2.owner != Owner.eng f) } n op
      (if c.pline.isSome then 0x11 else 0) (c.pline.getD 0)) := by
  simp only [State.shdwComplete, hop, hpub, hfill, hc, hfail, hdone, Bool.false_eq_true, if_false, if_true]

/-- Whether a pair may be entered in its owner's table (R247). -/
theorem openPair_eq (hp : s.parts.find x.part = some p) (who : Nat) : s.openPair who x =
    if p.pairs.any (x.is who) then some (0x81, s)
    else if rangesMeet x.target x.shadow then some (0x84, s)
    else if p.pairs.any x.meets then some (0x83, s)
    else if p.pairs.length ≥ 64 then none
    else some (0, s.modPart x.part (fun p => { p with pairs := p.pairs ++ [⟨who, x.target, x.shadow⟩] })) := by
  simp only [State.openPair, hp]

theorem pairOpened_refused (h : code ≠ 0) : s.pairOpened n op code = s.endPub n op code 0 := by
  rw [State.pairOpened, if_neg (fun hc => h hc.1)]

/-! PUBL_EXCHANGE. -/

/-- A publish ends: on success this device gives up the lines it holds of the windows. -/
def State.endPubl (s : State) (n : Nat) (op : PubOp) (code : Nat) : State :=
  (if code = 0 then s.dropPair op.ctx op.handle else s).endPub n op code 0

theorem endPubl_failed (h : code ≠ 0) : s.endPubl n op code = s.endPub n op code 0 := by rw [State.endPubl, if_neg h]

section
variable (hop : s.pubs.find n = some op) (hpub : op.publ = true)
include hop hpub

theorem publExchange_scope (h5 : Hnd.space op.handle = 5) (h4 : op.scope = 4) : s.publExchange n = some (s.endPub n op 0x24 0) := by
  simp only [State.publExchange, hop, hpub, h5, h4, not_true, if_false, and_self, if_true]
  rfl

theorem publExchange_eq (hscope : Hnd.space op.handle = 5 → op.scope ≠ 4) : s.publExchange n =
    match s.publish op.ctx op.handle with
    | .away dev t d => (s.askOwner n op dev t d).map (fun x => match x.1 with
        | some code => x.2.endPubl n op code
        | none => x.2)
    | .done code t => if s.pubLive op then some (t.endPubl n op code) else none
    | .park page cause sz => if s.pubLive op then some (s.noteOnce n op.ctx page cause sz true) else none := by
  have hno : ¬(Hnd.space op.handle = 5 ∧ op.scope = 4) := fun h => hscope h.1 h.2
  simp only [State.publExchange, hop, hpub, not_true, if_false, if_neg hno, State.endPubl]
  <;> rfl

theorem publExchange_done (hscope : Hnd.space op.handle = 5 → op.scope ≠ 4) (hrun : s.running op.ctx = true)
    (h : s.publish op.ctx op.handle = .done code r) : s.publExchange n = some (r.endPubl n op code) := by
  rw [publExchange_eq hop hpub hscope, h]
  exact if_pos (pubLive_running hrun)

theorem publExchange_away (hscope : Hnd.space op.handle = 5 → op.scope ≠ 4) (hx : s.pairAt op.ctx op.handle = .away dev tw sw)
    {y : Option Nat × State} (hask : s.askOwner n op dev tw sw = some y) :
    s.publExchange n = some (match y.1 with
      | some code => y.2.endPubl n op code
      | none => y.2) := by
  have h : s.publish op.ctx op.handle = .away dev tw sw := by simp only [State.publish, hx]
  rw [publExchange_eq hop hpub hscope, h]
  simp only [hask, Option.map_some]
  <;> rfl

end

theorem publish_ok {ctx : Nat} {h : Handle} (hx : s.pairAt ctx h = .ok x) : s.publish ctx h = s.publishAt ctx x (Hnd.limit h) := by
  simp only [State.publish, hx]

theorem publish_fail {ctx : Nat} {h : Handle} (hx : s.pairAt ctx h = .fail code) : s.publish ctx h = .done code s := by
  simp only [State.publish, hx]

section
variable {who limit : Nat} (hp : s.parts.find x.part = some p)
include hp

theorem publishAt_closed (hno : p.pairs.any (x.is who) = false) : s.publishAt who x limit = .done 0x82 s := by
  simp only [State.publishAt, hp, hno, Bool.not_false, if_true]

theorem publishAt_fail (his : p.pairs.any (x.is who) = true) (hpages : s.pairPages p x limit 0 (limit / 2 ^ 16) = .fail code) :
    s.publishAt who x limit = .done code s := by
  simp only [State.publishAt, hp, his, Bool.not_true, Bool.false_eq_true, if_false, hpages]

theorem publishAt_ok {pages : List (Nat × Nat × Nat)} (his : p.pairs.any (x.is who) = true)
    (hpages : s.pairPages p x limit 0 (limit / 2 ^ 16) = .ok pages) :
    s.publishAt who x limit = .done 0 ((pages.foldl (fun s q => s.exchange p q.1 q.2.1) (s.invalRanges x.part (x.target ++ x.shadow))).modPart x.part
      (fun p => { p with pairs := p.pairs.filter (fun o => !x.is who o) })) := by
  simp only [State.publishAt, hp, his, Bool.not_true, Bool.false_eq_true, if_false, hpages]

end

theorem pairAt_space {c : Nat} {h : Handle} (h0 : Hnd.space h ≠ 0) (h5 : Hnd.space h ≠ 5) : s.pairAt c h = .fail 0x24 :=
  if_pos (Or.inr ⟨h0, h5⟩)

theorem dropPair_local {c : Nat} {h : Handle} (h5 : Hnd.space h ≠ 5) : s.dropPair c h = s := by
  simp only [State.dropPair, if_neg h5]
  cases s.partOf c with
  | none => rfl
  | some q => rfl

/-! Publish operations of other devices. -/

section
variable {k : Nat} {q : Inbound} {b : Bool} (hocc : s.occ = .num2 k 1) (hq : s.inbound[k]? = some q) (hk : q.pkt.kind = .pair b tw sw)
include hocc hq hk

theorem exec_inboundShdw (hb : b = false) (ho : State.openPair { s with inbound := s.inbound.eraseIdx k } (256 + q.pkt.src) ⟨q.part, tw, sw⟩ = some (code, r)) :
    exec .shdwComplete s = .next (r.answer q.pkt (.ok code false)) := by
  subst hb
  have hin : s.inboundShdw k = some (r.answer q.pkt (.ok code false)) := by
    simp only [State.inboundShdw, State.inboundPair, hq, hk, if_true, Option.bind_some, openerOf, ho, Option.map_some]
    rfl
  refine (show exec .shdwComplete s = execShdwComplete s from rfl).trans ?_
  simp only [execShdwComplete, event1, event, occOne, occTwo, Option.bind_some, if_true, hocc, hin]

theorem exec_inboundPubl (hb : b = true) (ho : State.publishAt { s with inbound := s.inbound.eraseIdx k } (256 + q.pkt.src) ⟨q.part, tw, sw⟩
      (tw.foldl (fun n r => n + (r.2 - r.1)) 0) = .done code r) :
    exec .publExchange s = .next (r.answer q.pkt (.ok code false)) := by
  subst hb
  have hin : s.inboundPubl k = some (r.answer q.pkt (.ok code false)) := by
    simp only [State.inboundPubl, State.inboundPair, hq, hk, if_true, Option.bind_some, openerOf, ho]
    rfl
  refine (show exec .publExchange s = execPublExchange s from rfl).trans ?_
  simp only [execPublExchange, event1, event, occOne, occTwo, Option.bind_some, if_true, hocc, hin]

end

/-- The shape of a pair: both windows aligned, of one size, and apart (R246). -/
theorem pairShape_apart {h : Handle} (hs : pairShape h = true) :
    Hnd.base h % 2 ^ 16 = 0 ∧ Hnd.sbase h % 2 ^ 16 = 0 ∧ Hnd.limit h % 2 ^ 16 = 0 ∧ Hnd.limit h ≠ 0 ∧
      ∀ a, Hnd.base h ≤ a → a < Hnd.base h + Hnd.limit h → ¬(Hnd.sbase h ≤ a ∧ a < Hnd.sbase h + Hnd.limit h) := by
  simp only [pairShape, Bool.and_eq_true, beq_iff_eq, bne_iff_ne, Bool.or_eq_true, decide_eq_true_eq] at hs
  obtain ⟨⟨⟨⟨h1, h2⟩, h3⟩, h4⟩, h5⟩ := hs
  exact ⟨h1, h2, h3, h4, fun a _ _ => by omega⟩

end Sys2Proof.Machine
end

section
open Sys2Proof Machine

/-- Settles O35: SHDW and PUBL enter their operations; their events open, fill, exchange and close a pair, here or at its owner. -/
theorem publishComplete : Obligations.PublishComplete := by
  unfold Obligations.PublishComplete
  refine ⟨?_, ?_, ?_, ?_, ?_, ?_, ?_, ?_, ?_, ?_, ?_⟩
  · simp only [List.forall_mem_cons, List.not_mem_nil, false_imp_iff, implies_true, and_true]
    exact ⟨fun s t t1 u v l he hd => ⟨fun hs hrel hreply hl => (exec_shdw s).trans (pub_completes he hd hs hrel hreply hl),
        fun hs => (exec_shdw s).trans (pub_traps he hd hs)⟩,
      fun s t t1 u v l he hd => ⟨fun hs hrel hreply hl => (exec_publ s).trans (pub_completes he hd hs hrel hreply hl),
        fun hs => (exec_publ s).trans (pub_traps he hd hs)⟩⟩
  · intro s n op x p opened op' filling hocc hop hpub hrun hfill hx hp
    have hexec := exec_shdwComplete hocc
    rw [shdwComplete_ok hop hpub hfill hrun hx, openPair_eq hp] at hexec
    refine ⟨fun his => ?_, fun hno hsep hmeet => ?_, fun hno hself => ?_, fun hsep hmeet hno hlen => ?_⟩
    · rw [if_pos his] at hexec
      exact hexec.trans (congrArg _ (pairOpened_refused (code := 0x81) (by decide)))
    · rw [if_neg (by rw [hno]; decide), if_neg (by rw [hsep]; decide), if_pos hmeet] at hexec
      exact hexec.trans (congrArg _ (pairOpened_refused (code := 0x83) (by decide)))
    · rw [if_neg (by rw [hno]; decide), if_pos hself] at hexec
      exact hexec.trans (congrArg _ (pairOpened_refused (code := 0x84) (by decide)))
    · rw [if_neg (by rw [hno]; decide), if_neg (by rw [hsep]; decide), if_neg (by rw [hmeet]; decide), if_neg (by omega)] at hexec
      refine ⟨fun hseed => hexec.trans (congrArg _ ?_), fun hseed => hexec.trans (congrArg _ ?_)⟩
      · exact if_neg (fun h => by rw [hseed] at h; exact absurd h.2 (by decide))
      · exact if_pos ⟨rfl, hseed⟩
  · intro s n code op hocc hop hpub hrun hfill hx
    rw [exec_shdwComplete hocc, shdwComplete_fail hop hpub hfill hx]
    rfl
  · intro s n f op c hocc hop hpub hrun hfill hc hfail hdone r
    rw [exec_shdwComplete hocc, shdwComplete_filled hop hpub hfill hc hfail hdone]
    rfl
  · intro s n op x p pages swapped hocc hop hpub hrun hscope hx hp
    have hdone : ∀ code r, s.publishAt op.ctx x (Hnd.limit op.handle) = .done code r → exec .publExchange s = .next (r.endPubl n op code) := by
      intro code r h
      rw [exec_publExchange hocc, publExchange_done hop hpub hscope hrun ((publish_ok hx).trans h)]
      rfl
    exact ⟨fun hno => hdone _ _ (publishAt_closed hp hno), fun his hpages => hdone _ _ (publishAt_ok hp his hpages),
      fun code hcode his hpages => (hdone _ _ (publishAt_fail hp his hpages)).trans (congrArg _ (endPubl_failed hcode))⟩
  · intro s n code op hocc hop hpub hrun hscope hx hcode
    rw [exec_publExchange hocc, publExchange_done hop hpub hscope hrun (publish_fail hx)]
    exact congrArg _ (endPubl_failed hcode)
  · exact fun s c h h0 h5 => pairAt_space h0 h5
  · exact fun s c h h5 => dropPair_local h5
  · intro s n dev op tw sw hocc hop
    refine ⟨fun hpub h5 h4 => ?_, fun hx => ⟨fun code r hpub hfill hask => ?_, fun r hpub hfill hask => ?_, fun code r hpub h4 hask => ?_,
      fun r hpub h4 hask => ?_⟩⟩
    · rw [exec_publExchange hocc, publExchange_scope hop hpub h5 h4]
      rfl
    · rw [exec_shdwComplete hocc, shdwComplete_away hop hpub hfill hx hask]
      rfl
    · rw [exec_shdwComplete hocc, shdwComplete_away hop hpub hfill hx hask]
      rfl
    · rw [exec_publExchange hocc, publExchange_away hop hpub (fun _ => h4) hx hask]
      rfl
    · rw [exec_publExchange hocc, publExchange_away hop hpub (fun _ => h4) hx hask]
      rfl
  · exact fun s r i code q b tw sw hocc hq hk => ⟨fun hb ho => exec_inboundShdw hocc hq hk hb ho,
      fun hb ho => exec_inboundPubl hocc hq hk hb ho⟩
  · exact fun h hs => pairShape_apart hs

end


section
/-! SUPPORT. MSG with its arrival, delivery and escape events (R250, R251, R354). -/

namespace Sys2Proof.Machine

variable {s t t1 t2 t3 : State} {u : Agent} {v : Opnds} {l : Landing} {n : Nat} {m : Msg} {a : Acc} {x : Nat} {po : Bool}

/-! The instruction. -/

/-- The teams of a grid. -/
def State.gridTeams (s : State) (g : Nat) : Nat :=
  match s.grids.find g with
  | some g => g.count * LRec.perCohort g.record
  | none => 0

/-- A message as it is entered: its target word, header and bytes. -/
def State.newMsg (s : State) (u : Agent) (g : Nat) (w hdr : Nat) (tainted : Bool) (a : Acc) (x : Nat) (landing : Landing) : Msg :=
  { owner := u, ctx := s.ctxOf u, gid := g, target := bits w 15 0, hdr,
    data := (List.range (16 * (bits w 19 16 + 1))).map (fun i => BitVec.ofNat 8 (x / 2 ^ (8 * i))),
    poison := (List.range (16 * (bits w 19 16 + 1) / 4)).filter (fun i => (s.readStore (a.addr + 4 * i) 4).2),
    bad := bits w 31 20 != 0 || decide (s.gridTeams g ≤ bits w 15 0), tainted, landing, arrived := false, blockedAt := some s.now }

/-- A message entered under the next number. -/
def State.withMsg (s : State) (m : Msg) : State := { s with fresh := s.fresh + 1, msgs := s.msgs.put s.fresh m }

/-- The body of MSG. -/
def msgBody (o : Ops) (u : Agent) : M Unit := do
  let v ← fetch {} .offset
  let m := lowLane (← lanes)
  trapIf (v.c m).poison 0x11 1
  let w := (v.a m).bits.toNat % 2 ^ 32
  let len := 16 * (bits w 19 16 + 1)
  let a ← oneAccess { hidx := o.x8.toNat, spaces := [1], kinds := [0], size := len, align := 16, offAlign := 16, need := .rd } v false
  release
  let x ← doOwnN ((← get).reqOf u a .load (← here) 255 .none)
  let s ← get
  waitUnless (decide ((s.msgs.filter (fun q => q.2.owner == u)).length < 8)) .messages
  awaitReplies 1
  let g := (← myGrid).getD 0
  let landing ← landD
  let n ← freshId
  let op := s.newMsg u g w ((v.c m).bits.toNat % 2 ^ 32) (v.a m).poison a x.1 landing
  modify (fun s => { s with msgs := s.msgs.put n op })

theorem exec_msg (hcur : s.cur = some u) : exec .msg s = meaning (insn .msg {} (msgBody s.ir u)) s :=
  (meaning_read (M.ops_run s)).trans (meaning_read (M.unit_run hcur))

theorem msg_completes (he : Executes s u {}) (hpc : s.pcAt u < 2 ^ 64) (hd : Delivers s u {} .offset v t) (hc : (v.c (t.lead u)).poison = false)
    (ha : oneAccess { hidx := s.ir.x8.toNat, spaces := [1], kinds := [0], size := 16 * (bits ((v.a (t.lead u)).bits.toNat % 2 ^ 32) 19 16 + 1), align := 16, offAlign := 16, need := .rd } v false t = .ok (a, t1))
    (hrel : release t1 = .ok ((), t1)) (hx : doOwnN (t1.reqOf u a .load (s.pcAt u) 255 .none) t1 = .ok ((x, po), t2))
    (hroom : (t2.msgs.filter (fun q => q.2.owner == u)).length < 8) (hreply : t2.replyRoom u 1 = true) (hl : landD t2 = .ok (l, t3)) :
    exec .msg s = .next (s.closed (t3.withMsg (t2.newMsg u (((t2.teamOf u).map (·.gid)).getD 0) ((v.a (t.lead u)).bits.toNat % 2 ^ 32)
      ((v.c (t.lead u)).bits.toNat % 2 ^ 32) (v.a (t.lead u)).poison a x l)) u .msg {}) := by
  have hfetch : fetch {} .offset (s.past u) = .ok (v, t) := hd
  have hcalm := hd.calm.trans (oneAccess_calm _ _ _ _ _ _ ha)
  have h2 := hcalm.sameUnit.trans (doOwnN_sameUnit _ _ _ _ hx)
  have h3 := h2.trans (landD_sameUnit _ _ _ hl)
  have hcur2 := h2.1.trans he.past_cur
  obtain ⟨act, hact, hlow⟩ := hd.lowLane he
  refine (exec_msg he.1).trans (insn_completes_of_sameUnit he ?_ (h3.trans (sameUnit_of_units rfl rfl rfl rfl rfl)))
  simp only [msgBody, M.bind_run, hfetch, hact, hlow, hc, M.trapIf_false, M.pure_run, ha, hrel, M.get_run, M.here_calm he hpc hcalm, hx,
    decide_eq_true hroom, M.waitUnless_true, M.awaitReplies_run hcur2 hreply, M.myGrid_run hcur2, hl, M.freshId_run, M.modify_run]
  rfl

/-! The events. -/

section
variable (hm : s.msgs.find n = some m)
include hm

theorem msgArrival_bad (harr : m.arrived = false) (hbehind : s.msgBehind n m (fun q => !q.arrived) = false) (hbad : m.bad = true) :
    s.msgArrival n = some (s.endMsg n m 0x88) := by
  simp only [State.msgArrival, hm, harr, hbehind, hbad, Bool.false_eq_true, or_self, if_false, if_true]

theorem msgArrival_gone (harr : m.arrived = false) (hbehind : s.msgBehind n m (fun q => !q.arrived) = false) (hbad : m.bad = false)
    (hteam : s.msgTeam m = none) (hrun : s.running m.ctx = true) : s.msgArrival n = some (s.endMsg n m 0x89) := by
  simp only [State.msgArrival, hm, harr, hbehind, hbad, hteam, hrun, Bool.false_eq_true, or_self, if_false, if_true]

/-- The check of a message's ring at its team (R251). -/
theorem msgArrival_team {g : Team} (harr : m.arrived = false) (hbehind : s.msgBehind n m (fun q => !q.arrived) = false) (hbad : m.bad = false)
    (hteam : s.msgTeam m = some g) : s.msgArrival n =
      if m.hdr % 32 ≠ 0 ∨ s.windowBytes g < m.hdr + 32 ∨ (s.readStore (teamKey g m.hdr) 32).2 = true ∨
          Ring.ok (s.readStore (teamKey g m.hdr) 32).1 (s.windowBytes g) m.data.length = false then some (s.endMsg n m 0x88)
      else some { s with msgs := s.msgs.put n { m with arrived := true } } := by
  simp only [State.msgArrival, hm, harr, hbehind, hbad, hteam, Bool.false_eq_true, or_self, if_false, Bool.not_eq_true']

/-- The delivery of a message to its ring, once there is room (R251). -/
theorem msgDeliver_team {g : Team} (harr : m.arrived = true) (hbehind : s.msgBehind n m (fun _ => true) = false)
    (hteam : s.msgTeam m = some g) (h : Nat) (hh : h = (s.readStore (teamKey g m.hdr) 32).1) (hsize : Ring.size h ≠ 0) : s.msgDeliver n =
      if wrapN ((Ring.tail h : Int) - (Ring.head h : Int)) 32 ≤ Ring.size h - Ring.slot h then
        some (((s.putWords (teamKey g (Ring.base h + Ring.tail h % Ring.size h)) m).writeStore (teamKey g (m.hdr + 20)) 4
          ((Ring.tail h + Ring.slot h) % 2 ^ 32) false).endMsg n m (if m.poison = [] then 0 else 0x11))
      else none := by
  simp only [State.msgDeliver, hm, harr, hbehind, hteam, ← hh, not_true, Bool.false_eq_true, or_self, if_false, hsize, ne_eq, not_false_iff, and_true]

theorem probeMsg_eq {b : Nat} (hb : m.blockedAt = some b) (hnow : b + 4096 ≤ s.now) :
    s.probeMsg n = some { s with msgs := s.msgs.put n { m with blockedAt := if m.arrived then some s.now else none } } := by
  simp only [State.probeMsg, hm, hb, Nat.not_lt.2 hnow, if_false]

end

/-- One hop of a blocked packet. -/
def State.hop (s : State) (i : Nat) : State := { s with msgs := s.msgs.alter i (fun m => { m with blockedAt := some s.now }) }

/-- A cycle of blocked packets moves together (R354): each is blocked afresh from now on, and no byte changes. -/
theorem hops_spec : ∀ (ids : List Nat) (s : State), (ids.foldl State.hop s).mem = s.mem ∧
    ∀ i, (ids.foldl State.hop s).msgs.find i = if i ∈ ids then (s.msgs.find i).map (fun m => { m with blockedAt := some s.now }) else s.msgs.find i
  | [], _ => ⟨rfl, fun _ => (if_neg List.not_mem_nil).symm⟩
  | j :: ids, s => by
    obtain ⟨hmem, hfind⟩ := hops_spec ids (s.hop j)
    refine ⟨hmem, fun i => (hfind i).trans ?_⟩
    have hj : (s.hop j).msgs.find i = if i = j then (s.msgs.find j).map (fun m => { m with blockedAt := some s.now }) else s.msgs.find i :=
      Assoc.find_alter _ _ _ _
    have hnow : (s.hop j).now = s.now := rfl
    rw [hj, hnow]
    by_cases h1 : i = j
    · subst h1
      rw [if_pos rfl, if_pos List.mem_cons_self]
      cases s.msgs.find i <;> split <;> rfl
    · rw [if_neg h1]
      exact if_congr (by rw [List.mem_cons, or_iff_right h1]) rfl rfl

theorem escape_eq {ids : List Nat} (hne : ids ≠ []) (hall : ∀ i ∈ ids, ∃ m, s.msgs.find i = some m ∧ m.arrived = false ∧ m.blockedAt = none) :
    s.escape ids = some (ids.foldl State.hop s) := by
  refine if_pos ⟨hne, List.all_eq_true.2 (fun i hi => ?_)⟩
  obtain ⟨m, hm, harr, hb⟩ := hall i hi
  rw [hm, Option.elim_some, harr, hb]
  rfl

theorem exec_escapeStep {ids : List Nat} (hocc : s.occ = .nums ids) (h : s.escape ids = some t) : exec .escapeStep s = .next t := by
  refine (show exec .escapeStep s = execEscapeStep s from rfl).trans ?_
  simp only [execEscapeStep, event, hocc, h]

end Sys2Proof.Machine
end

section
open Sys2Proof Machine

/-- Settles O36: a message is entered, checked, delivered, probed and moved on. -/
theorem messagesComplete : Obligations.MessagesComplete := by
  unfold Obligations.MessagesComplete
  refine ⟨?_, ?_, ?_, ?_, ?_⟩
  · exact fun s t t1 t2 t3 u v a x po l he hpc hd hc ha hrel hx hroom hreply hl => msg_completes he hpc hd hc ha hrel hx hroom hreply hl
  · intro s n m hocc hm harr hbehind
    have hexec : exec .msgArrival s = _ := event1_run State.msgArrival hocc
    refine ⟨fun hbad => ?_, fun hbad hteam hrun => ?_, fun t hbad hteam => ?_⟩
    · rw [hexec, msgArrival_bad hm harr hbehind hbad]
      rfl
    · rw [hexec, msgArrival_gone hm harr hbehind hbad hteam hrun]
      rfl
    · rw [hexec, msgArrival_team hm harr hbehind hbad hteam]
      refine ⟨fun h1 h2 h3 h4 => ?_, fun hfail => ?_⟩
      · rw [if_neg (by rw [h3, h4]; exact fun h => h.elim (fun h => h h1) (fun h => h.elim (fun h => absurd h2 (Nat.not_le.2 h)) (fun h => h.elim nofun nofun)))]
        rfl
      · rw [if_pos hfail]
        rfl
  · intro s n m t hocc hm harr hbehind hteam h used full hsize
    have hexec : exec .msgDeliver s = _ := event1_run State.msgDeliver hocc
    rw [msgDeliver_team hm harr hbehind hteam h rfl hsize] at hexec
    refine ⟨fun hroom => ?_, fun hfull => ?_⟩
    · rw [if_pos hroom] at hexec
      exact hexec
    · rw [if_neg (Nat.not_le.2 hfull)] at hexec
      exact hexec
  · intro s n b m hocc hm hb hnow
    have hexec : exec .messageProbeTimeout s = _ := event1_run State.probeMsg hocc
    rw [hexec, probeMsg_eq hm hb hnow]
    rfl
  · intro s ids hocc hne hall
    obtain ⟨hmem, hfind⟩ := hops_spec ids s
    exact ⟨_, exec_escapeStep hocc (escape_eq hne hall), hmem, hfind⟩

end


section
/-! SUPPORT. NRED and its contributions (R252, R253). -/

namespace Sys2Proof.Machine

variable {s t t1 t2 t3 t' : State} {u : Agent} {v : Opnds} {l : Landing} {n : Nat} {q : NredOp} {a : Acc} {x : Val}

/-! The instruction. -/

/-- A contribution as it is entered. -/
def State.newNred (s : State) (u : Agent) (gid : Option Nat) (c size : Nat) (tag : Val) (a : Acc) (x : Val) (landing : Landing) : NredOp :=
  { owner := u, ctx := s.ctxOf u, gid := gid.getD 0, tag := tag.w32, op := bits c 3 0, width := 8 * size, n := bits c 6 4,
    cluster := (s.coreOf u).getD 0 / 256, core := a.core, cell := a.loc, value := x.bits, poison := x.poison, tainted := tag.poison, landing,
    joined := false }

/-- A contribution entered under the next number. -/
def State.withNred (s : State) (q : NredOp) : State := { s with fresh := s.fresh + 1, nreds := s.nreds.put s.fresh q }

/-- The body of NRED. -/
def nredBody (o : Ops) (u : Agent) : M Unit := do
  let v ← fetch shDAB .offset
  let m := lowLane (← lanes)
  let h := (← get).handleOf u o.x8.toNat
  let size := 2 ^ Hnd.ew h
  let a ← oneAccess { hidx := o.x8.toNat, spaces := [1], kinds := [0], widths := [2, 3], size, align := size, need := .both } v false
  let n := bits o.c.immVal 6 4
  let tag := v.a m
  if n = 0 then writeStatus 0x85 tag.poison
  else if n = 1 then writeStatus 0 tag.poison
  else if n > 4 then writeStatus 0x86 tag.poison
  else do
    release
    let x ← doOwn ((← get).reqOf u a .load (← here) 255 .none)
    awaitReplies 1
    let landing ← landD
    let s ← get
    let k ← freshId
    let op := s.newNred u (← myGrid) o.c.immVal size tag a x landing
    modify (fun s => { s with nreds := s.nreds.put k op })

theorem exec_nred (hcur : s.cur = some u) : exec .nred s = meaning (insn .nred shDAB (nredBody s.ir u)) s :=
  (meaning_read (M.ops_run s)).trans (meaning_read (M.unit_run hcur))

section
variable (he : Executes s u shDAB) (hpc : s.pcAt u < 2 ^ 64) (hd : Delivers s u shDAB .offset v t)
  (ha : oneAccess { hidx := s.ir.x8.toNat, spaces := [1], kinds := [0], widths := [2, 3], size := 2 ^ Hnd.ew (t.handleOf u s.ir.x8.toNat), align := 2 ^ Hnd.ew (t.handleOf u s.ir.x8.toNat), need := .both }
    v false t = .ok (a, t1))
include he hd ha

/-- NRED of a count of members that needs no round. -/
theorem nred_immediate (hn : bits s.ir.c.immVal 6 4 = 0 ∨ bits s.ir.c.immVal 6 4 = 1 ∨ 4 < bits s.ir.c.immVal 6 4)
    (hw : Writes t1 s.ir.d 1 (fun _ => ⟨statusWord (if bits s.ir.c.immVal 6 4 = 0 then 0x85 else if bits s.ir.c.immVal 6 4 = 1 then 0 else 0x86) 0 0,
      (v.a (t.lead u)).poison⟩) t') :
    exec .nred s = .next (s.closed t' u .nred shDAB) := by
  have hfetch : fetch shDAB .offset (s.past u) = .ok (v, t) := hd
  have hcalm := hd.calm.trans (oneAccess_calm _ _ _ _ _ _ ha)
  have hwd := M.writeD_of_writes (hcalm.ir.trans (State.past_ir s u)) hw
  obtain ⟨act, hact, hlow⟩ := hd.lowLane he
  refine (exec_nred he.1).trans (insn_completes_of_sameUnit he ?_ (hcalm.sameUnit.trans hw.sameUnit))
  simp only [nredBody, M.bind_run, hfetch, hact, hlow, M.get_run, ha]
  by_cases h0 : bits s.ir.c.immVal 6 4 = 0
  · rw [if_pos h0] at hwd ⊢
    exact hwd
  by_cases h1 : bits s.ir.c.immVal 6 4 = 1
  · rw [if_neg h0, if_pos h1] at hwd ⊢
    exact hwd
  · rw [if_neg h0, if_neg h1] at hwd ⊢
    rw [if_pos (by omega)]
    exact hwd

include hpc

/-- NRED of two to four members enters its contribution. -/
theorem nred_enters (h2 : 2 ≤ bits s.ir.c.immVal 6 4) (h4 : bits s.ir.c.immVal 6 4 ≤ 4) (hrel : release t1 = .ok ((), t1))
    (hx : doOwn (t1.reqOf u a .load (s.pcAt u) 255 .none) t1 = .ok (x, t2)) (hreply : t2.replyRoom u 1 = true) (hl : landD t2 = .ok (l, t3)) :
    exec .nred s = .next (s.closed (t3.withNred (t3.newNred u ((t3.teamOf u).map (·.gid)) s.ir.c.immVal (2 ^ Hnd.ew (t.handleOf u s.ir.x8.toNat))
      (v.a (t.lead u)) a x l)) u .nred shDAB) := by
  have hfetch : fetch shDAB .offset (s.past u) = .ok (v, t) := hd
  have hcalm := hd.calm.trans (oneAccess_calm _ _ _ _ _ _ ha)
  have h2' := hcalm.sameUnit.trans (doOwn_sameUnit _ _ _ _ hx)
  have h3 := h2'.trans (landD_sameUnit _ _ _ hl)
  have hgrid : myGrid { t3 with fresh := t3.fresh + 1 } = .ok ((t3.teamOf u).map (·.gid), { t3 with fresh := t3.fresh + 1 }) :=
    M.myGrid_run (h3.1.trans he.past_cur)
  obtain ⟨act, hact, hlow⟩ := hd.lowLane he
  refine (exec_nred he.1).trans (insn_completes_of_sameUnit he ?_ (h3.trans (sameUnit_of_units rfl rfl rfl rfl rfl)))
  simp only [nredBody, M.bind_run, hfetch, hact, hlow, M.get_run, ha]
  rw [if_neg (by omega), if_neg (by omega), if_neg (by omega)]
  simp only [M.bind_run, M.get_run, hrel, M.here_calm he hpc hcalm, hx, M.awaitReplies_run (h2'.1.trans he.past_cur) hreply, hl, M.freshId_run,
    hgrid, M.modify_run]
  rfl

end

/-! The contributions. -/

/-- Whether a contribution asks for another round than those that have joined. -/
def NredOp.clashes (q : NredOp) (r : List (Nat × NredOp)) : Bool :=
  match r with
  | (_, f) :: _ => f.op != q.op || f.width != q.width || f.n != q.n
  | [] => false

/-- A round that is complete: its result is written to every member's cell, and all are answered (R253). -/
def State.roundEnds (s : State) (q : NredOp) (all : List (Nat × NredOp)) : State :=
  let bad := all.any (fun x => x.2.poison)
  let v := if bad then 0 else roundResult q.op q.width (all.map (·.2))
  all.foldl (fun s x => s.endNred x.1 x.2 (if bad then 0x11 else 0))
    (all.foldl (fun s x => s.writeStore (s.windowKey x.2.owner x.2.cell) (q.width / 8) v bad) s)

theorem nredContribute_eq (hq : s.nreds.find n = some q) (hj : q.joined = false) (hrun : s.running q.ctx = true) : s.nredContribute n =
    if q.clashes (s.round q) = true then some (s.endNred n q 0x87)
    else if (s.round q).any (fun x => x.2.cluster == q.cluster) = true then none
    else if (s.round q ++ [(n, q)]).length < q.n then some { s with nreds := s.nreds.put n { q with joined := true } }
    else some (s.roundEnds q (s.round q ++ [(n, q)])) := by
  simp only [State.nredContribute, hq, hj, hrun, Bool.true_or, not_true, Bool.false_eq_true, or_self, if_false]
  rfl

theorem clashes_cons {f : Nat × NredOp} {rest : List (Nat × NredOp)} :
    q.clashes (f :: rest) = true ↔ ¬(f.2.op = q.op ∧ f.2.width = q.width ∧ f.2.n = q.n) := by
  simp only [NredOp.clashes, Bool.or_eq_true, bne_iff_ne]
  tauto

/-- No clash where every member asks for the same round. -/
theorem clashes_same {r : List (Nat × NredOp)} (h : ∀ f ∈ r, f.2.op = q.op ∧ f.2.width = q.width ∧ f.2.n = q.n) : ¬q.clashes r = true := by
  cases r with
  | nil => exact Bool.false_ne_true
  | cons f rest => exact fun hc => clashes_cons.1 hc (h f List.mem_cons_self)

/-! The tree of additions. -/

/-- Looking up the clusters one by one gives a list that ascends by cluster. -/
theorem filterMap_find_cluster : ∀ (k a : Nat) (l : List NredOp), l.Pairwise (fun p q => p.cluster < q.cluster) →
    (∀ q ∈ l, a ≤ q.cluster ∧ q.cluster < a + k) → (List.range' a k).filterMap (fun c => l.find? (fun q => q.cluster == c)) = l
  | 0, a, l, _, hb => by
    cases l with
    | nil => rfl
    | cons q l => have := hb q List.mem_cons_self; omega
  | k + 1, a, l, hp, hb => by
    rw [List.range'_succ, List.filterMap_cons]
    cases l with
    | nil => exact filterMap_find_cluster k (a + 1) [] List.Pairwise.nil (fun q hq => absurd hq List.not_mem_nil)
    | cons q l =>
      obtain ⟨hq, hl⟩ := List.pairwise_cons.1 hp
      have hqb := hb q List.mem_cons_self
      by_cases ha : q.cluster = a
      · have hrest := filterMap_find_cluster k (a + 1) l hl (fun x hx => by
          have := hq x hx
          have := hb x (List.mem_cons_of_mem _ hx)
          omega)
        have hcongr : (List.range' (a + 1) k).filterMap (fun c => (q :: l).find? (fun q => q.cluster == c)) =
            (List.range' (a + 1) k).filterMap (fun c => l.find? (fun q => q.cluster == c)) := by
          refine List.filterMap_congr (fun c hc => ?_)
          have hlow := (List.mem_range'_1.1 hc).1
          rw [List.find?_cons_of_neg (by rw [beq_iff_eq]; omega)]
        have hhead : (q :: l).find? (fun q => q.cluster == a) = some q := List.find?_cons_of_pos (beq_iff_eq.2 ha)
        rw [hhead]
        exact congrArg (q :: ·) (hcongr.trans hrest)
      · have hnone : (q :: l).find? (fun q => q.cluster == a) = none := by
          rw [List.find?_eq_none]
          intro x hx
          rw [beq_iff_eq]
          obtain rfl | hx := List.mem_cons.1 hx
          · exact ha
          · have := hq x hx
            omega
        rw [hnone]
        refine filterMap_find_cluster k (a + 1) (q :: l) hp (fun x hx => ?_)
        have hxb := hb x hx
        obtain rfl | hx := List.mem_cons.1 hx
        · omega
        · have := hq x hx
          omega

/-- The tree of integer additions gives the sum of the values (R253). -/
theorem roundResult_sum (w : Nat) {l : List NredOp} (hl : l.length ≤ 4) (hp : l.Pairwise (fun p q => p.cluster < q.cluster))
    (hc : ∀ q ∈ l, q.cluster < 4) : roundResult 0 w l = (l.map (fun q => q.value.toNat % 2 ^ w)).sum % 2 ^ w := by
  have hcl : (List.range 4).filterMap (fun c => l.find? (fun q => q.cluster == c)) = l := by
    rw [List.range_eq_range']
    exact filterMap_find_cluster 4 0 l hp (fun q hq => ⟨Nat.zero_le _, by have := hc q hq; omega⟩)
  have htree := treeReduce_sum w 4 (l.map (fun q => q.value.toNat % 2 ^ w)) (by rw [List.length_map]; omega) (fun x hx => by
    obtain ⟨q, _, rfl⟩ := List.mem_map.1 hx
    exact Nat.mod_lt _ (by positivity))
  simp only [roundResult, hcl]
  exact congrArg Prod.fst htree

end Sys2Proof.Machine
end

section
open Sys2Proof Machine

/-- Settles O37: NRED answers at once or enters its contribution; a round refuses, grows or ends; its tree of additions is the sum. -/
theorem networkReductionsComplete : Obligations.NetworkReductionsComplete := by
  unfold Obligations.NetworkReductionsComplete
  refine ⟨?_, ?_, ?_⟩
  · exact fun s t t1 u v a he hpc hd ha => ⟨fun t' hn hw => nred_immediate he hd ha hn hw,
      fun t2 t3 x l h2 h4 hrel hx hreply hl => nred_enters he hpc hd ha h2 h4 hrel hx hreply hl⟩
  · intro s n q hocc hq hj hrun r all bad z same
    have hexec : exec .nredContribution s = _ := event1_run State.nredContribute hocc
    rw [nredContribute_eq hq hj hrun] at hexec
    refine ⟨fun f rest hr hno => ?_, fun hall => ?_⟩
    · have hclash : q.clashes (s.round q) = true := by
        rw [show s.round q = f :: rest from hr]
        exact clashes_cons.2 hno
      rw [if_pos hclash] at hexec
      exact hexec
    · have hnone : ¬(s.round q).any (fun x => x.2.cluster == q.cluster) = true := by
        rw [List.any_eq_true]
        rintro ⟨f, hf, he⟩
        exact (hall f hf).2 (eq_of_beq he)
      rw [if_neg (clashes_same (fun f hf => (hall f hf).1)), if_neg hnone] at hexec
      refine ⟨fun hlt => ?_, fun hge => ?_⟩
      · rw [if_pos hlt] at hexec
        exact hexec
      · rw [if_neg (Nat.not_lt.2 hge)] at hexec
        exact hexec
  · exact fun w l _ hl hp hc => roundResult_sum w hl hp hc

end


section
/-! SUPPORT. A unit's instruction stays where it is while its stores drain. -/

namespace Sys2Proof.Machine

variable {s t : State} {u : Agent} {tm tid n : Nat} {P : State → State → Prop}

theorem flush_gentle (h : Gentle P) (s : State) : P s s.flush := by
  unfold State.flush
  split
  · exact h.units _ _ rfl rfl rfl rfl rfl
  · exact h.refl s

theorem count_gentle (h : Gentle P) (s : State) (a k : Nat) : P s (s.count a k) := h.units s _ rfl rfl rfl rfl rfl

theorem countError_gentle (h : Gentle P) (s : State) (r : Req) : P s (s.countError r) := by
  unfold State.countError
  dsimp only
  split
  · exact h.trans (h.trans (count_gentle h _ _ _) (count_gentle h _ _ _)) (flush_gentle h _)
  · exact h.trans (count_gentle h _ _ _) (flush_gentle h _)

theorem writeStore_gentle (h : Gentle P) (s : State) (k n v : Nat) (p : Bool) : P s (s.writeStore k n v p) := h.units s _ rfl rfl rfl rfl rfl

theorem atCore_gentle (h : Gentle P) (s : State) (r : Req) : P s (s.atCore r).2 := by
  unfold State.atCore
  split
  · exact h.refl s
  · exact h.refl s
  · dsimp only
    split
    · exact h.trans (countError_gentle h s r) (writeStore_gentle h _ _ _ _ _)
    · exact writeStore_gentle h _ _ _ _ _
  · dsimp only
    split
    · dsimp only
      split
      · exact h.refl s
      · exact countError_gentle h s r
    · exact writeStore_gentle h _ _ _ _ _
  · exact h.refl s
  · exact h.refl s

theorem bump_pc (c : Ctl) (d : Int) : (c.bump d).pc = c.pc := by
  unfold Ctl.bump
  rfl

theorem bumpCls_pc (c : Ctl) (i : Nat) (d : Int) : (c.bumpCls i d).pc = c.pc := by
  unfold Ctl.bumpCls
  rfl

theorem unpush_gentle (h : Gentle P) (s : State) (r : Req) : P s (s.unpush r) := by
  unfold State.unpush
  exact h.toFrames.foldl (fun s _ => h.ctl s _ _ (fun c => bump_pc c _)) _ s

theorem modPort_gentle (h : Gentle P) (s : State) (k : Nat) (f : Port → Port) : P s (s.modPort k f) := h.units s _ rfl rfl rfl rfl rfl

theorem inject_gentle (h : Gentle P) (s : State) (k : Nat) (r : Req) : P s (s.inject k r) := h.units s _ rfl rfl rfl rfl rfl

theorem drain_gentle (h : Gentle P) {cls : Nat} (hd : s.drain u cls = some t) : P s t := by
  have hout := fun (s : State) n => h.ctl s u (fun c => { c with sbuf := c.sbuf.del n }) (fun _ => rfl)
  unfold State.drain at hd
  split at hd
  · cases hd
  · next n r _ =>
    dsimp only at hd
    split at hd
    · split at hd
      · cases hd
        exact h.trans (h.trans (hout s n) (h.ctl _ u _ (fun c => bump_pc c _))) (modPort_gentle h _ _ _)
      · cases hd
    · split at hd
      · split at hd
        · cases hd
          exact h.trans (h.trans (atCore_gentle h s r) (hout _ n)) (unpush_gentle h _ r)
        · cases hd
      · split at hd
        · cases hd
          exact h.trans (h.trans (hout s n) (h.ctl _ u _ (fun c => bumpCls_pc c _ _))) (inject_gentle h _ _ _)
        · cases hd

theorem drainAll_gentle (h : Gentle P) (u : Agent) (cls : Nat) : ∀ (n : Nat) (s : State), P s (s.drainAll u cls n)
  | 0, s => h.refl s
  | n + 1, s => by
    unfold State.drainAll
    split
    · next t hd => exact h.trans (drain_gentle h hd) (drainAll_gentle h u cls n t)
    · exact h.refl s

/-- The address of a thread's instruction depends on its pc alone. -/
theorem M.here_arrived {a : Nat} (h : here s = .ok (a, s)) (hcur : s.cur = some (.ex tm tid)) (hsome : (s.ctl (.ex tm tid)).isSome)
    (ha : Arrived s t) (hir : t.ir = s.ir) : here t = .ok (a, t) := by
  obtain ⟨c, hc⟩ := Option.isSome_iff_exists.1 hsome
  simp only [here, M.bind_run, M.ctl_run hcur hc, M.ops_run, M.pure_run, Except.ok.injEq, Prod.mk.injEq, and_true] at h
  obtain ⟨x, hx, hxc⟩ := Option.map_eq_some_iff.1 (show (s.exs.find (exKey tm tid)).map ExThread.ctl = some c from hc)
  have hk := ha.2 (exKey tm tid)
  rw [hx] at hk
  obtain ⟨y, hy, hye⟩ := Option.map_eq_some_iff.1 hk
  have hpc : y.ctl.pc = c.pc := by rw [← hxc]; exact congrArg Prod.snd hye
  have hct : t.ctl (.ex tm tid) = some y.ctl := by
    show (t.exs.find (exKey tm tid)).map ExThread.ctl = _
    rw [hy]
    rfl
  simp only [here, M.bind_run, M.ctl_run (ha.1.trans hcur) hct, M.ops_run, M.pure_run, hir, hpc, h]

theorem Assoc.mem_of_find {α : Type} {v : α} {k : Nat} : ∀ {m : Assoc α}, m.find k = some v → (k, v) ∈ m
  | [], h => nomatch h
  | (j, w) :: m, h => by
    unfold Assoc.find at h
    split at h
    · next e =>
      cases h
      rw [e]
      exact List.mem_cons_self
    · split at h
      · cases h
      · exact List.mem_cons_of_mem _ (Assoc.mem_of_find h)

/-- What holds of no entry holds of none after one is changed so that it does not hold there. -/
theorem Assoc.any_alter_false {α : Type} {m : Assoc α} {k : Nat} {f : α → α} {p : Nat × α → Bool} (h : m.any p = false)
    (hf : ∀ x, p (k, x) = false → p (k, f x) = false) : (m.alter k f).any p = false := by
  rw [List.any_eq_false] at h ⊢
  intro q hq
  unfold Assoc.alter at hq
  split at hq
  · next v hv =>
    obtain rfl | hq := Assoc.mem_put hq
    · rw [hf v (by simpa using h _ (Assoc.mem_of_find hv))]
      exact Bool.false_ne_true
    · exact h q hq
  · exact h q hq

end Sys2Proof.Machine
end


section
/-! SUPPORT. The instructions of the matrix engine (R103 to R130). -/

namespace Sys2Proof.Machine

variable {s t t1 t2 t' : State} {tm tid c n : Nat} {g : Team} {v : Opnds} {sh : Shape} {i : Instr} {l : Landing} {x : Val}

/-! The engine's owner. -/

theorem State.past_cores (s : State) (u : Agent) : (s.past u).cores = s.cores := by
  cases u <;> simp [State.past]

theorem State.past_core (s : State) (u : Agent) (c : Nat) : (s.past u).core c = s.core c := by
  rw [State.core, State.core, State.past_cores]

theorem M.core_run (hcur : s.cur = some (.ex tm tid)) (hg : s.teams.find tm = some g) : core s = .ok (g.coreOf (tid / 16), s) := by
  have hteam : s.teamOf (.ex tm tid) = some g := hg
  simp only [Machine.core, M.bind_run, M.team_run hcur hteam, M.unit_run hcur, M.pure_run]
  rfl

theorem M.own_run (hcur : s.cur = some (.ex tm tid)) (ho : s.owns tm tid g c) : own s = .ok (c, s) := by
  obtain ⟨hg, hc, hback, hown⟩ := ho
  subst hc
  have hne : ((s.core (g.coreOf (tid / 16))).owner != some tm) = false := by rw [hown]; exact bne_self_eq_false' _
  simp only [own, M.bind_run, M.core_run hcur hg, M.unit_run hcur, ownEngine, M.get_run, hg, Option.elim_some, hback, Bool.not_false,
    M.waitUnless_true, M.pure_run, hne, M.trapIf_false]

theorem M.own_traps (hcur : s.cur = some (.ex tm tid)) (hg : s.teams.find tm = some g) (hc : c = g.coreOf (tid / 16))
    (hback : g.regrant.has (c - g.core) = false) (hown : (s.core c).owner ≠ some tm) : own s = .error (.trap (tinfo 0x41 1)) := by
  subst hc
  have hne : ((s.core (g.coreOf (tid / 16))).owner != some tm) = true := bne_iff_ne.2 hown
  simp only [own, M.bind_run, M.core_run hcur hg, M.unit_run hcur, ownEngine, M.get_run, hg, Option.elim_some, hback, Bool.not_false,
    M.waitUnless_true, M.pure_run, hne]
  rfl

theorem State.owns_past (ho : s.owns tm tid g c) : (s.past (.ex tm tid)).owns tm tid g c := by
  obtain ⟨hg, hc, hback, hown⟩ := ho
  exact ⟨by rw [State.past_teams]; exact hg, hc, hback, by rw [State.past_core]; exact hown⟩

theorem modCore_sameUnit (s : State) (c : Nat) (f : Core → Core) : SameUnit s (s.modCore c f) := sameUnit_of_units rfl rfl rfl rfl rfl

/-! MACQ, MREL and MWAIT. -/

/-- The body of MACQ. -/
def macqBody : M Unit := do
  let c ← core
  match ← unit with
  | .ex tm _ =>
    let k := (← get).core c
    if k.owner = some tm then pure ()
    else do
      (if k.waiting.any (· == tm) then pure ()
       else modify (fun s => s.modCore c (fun k => { k with waiting := k.waiting ++ [tm] })))
      stay .macq .engine
  | _ => pure ()

/-- A team in the waiting order of an engine. -/
def State.waitsFor (s : State) (c tm : Nat) : State :=
  if (s.core c).waiting.any (· == tm) then s else s.modCore c (fun k => { k with waiting := k.waiting ++ [tm] })

theorem waitsFor_sameUnit (s : State) (c tm : Nat) : SameUnit s (s.waitsFor c tm) := by
  unfold State.waitsFor
  split
  · exact SameUnit.refl s
  · exact modCore_sameUnit _ _ _

theorem waitsFor_ctl (s : State) (c tm : Nat) (u : Agent) : (s.waitsFor c tm).ctl u = s.ctl u := by
  unfold State.waitsFor
  split <;> cases u <;> rfl

section
variable (he : Executes s (.ex tm tid) noShape) (hg : s.teams.find tm = some g) (hc : c = g.coreOf (tid / 16))
include he hg hc

theorem macq_owned (hown : (s.core c).owner = some tm) : exec .macq s = .next (s.closed (s.past (.ex tm tid)) (.ex tm tid) .macq noShape) := by
  subst hc
  refine insn_completes_of_sameUnit (body := macqBody) he ?_ (SameUnit.refl _)
  simp only [macqBody, M.bind_run, M.core_run he.past_cur ((congrArg (fun m => Assoc.find m tm) (State.past_teams s _)).trans hg),
    M.unit_run he.past_cur, M.get_run, State.past_core, if_pos hown, M.pure_run]

theorem macq_waits (hpc : s.pcAt (.ex tm tid) < 2 ^ 64) (hown : (s.core c).owner ≠ some tm) :
    exec .macq s = .next (s.closed (((s.past (.ex tm tid)).waitsFor c tm).stays tm tid .macq s.ir (s.pcAt (.ex tm tid)) .engine)
      (.ex tm tid) .macq noShape) := by
  subst hc
  have hsame := waitsFor_sameUnit (s.past (.ex tm tid)) (g.coreOf (tid / 16)) tm
  have hstay := M.stay_run (i := .macq) (w := .engine) (hsame.1.trans he.past_cur) (M.here_of_ctl he hpc (hsame.1.trans he.past_cur)
    (hsame.2.1.trans (State.past_ir s _)) (waitsFor_ctl _ _ _ _))
  refine insn_completes_of_sameUnit (body := macqBody) he ?_ (hsame.trans (stays_sameUnit _ _ _ _ _ _ _))
  have henter : (if (s.core (g.coreOf (tid / 16))).waiting.any (· == tm) then pure ()
      else modify (fun s => s.modCore (g.coreOf (tid / 16)) (fun k => { k with waiting := k.waiting ++ [tm] })) : M Unit) (s.past (.ex tm tid)) =
        .ok ((), (s.past (.ex tm tid)).waitsFor (g.coreOf (tid / 16)) tm) := by
    rw [State.waitsFor, State.past_core]
    split <;> rfl
  simp only [macqBody, M.bind_run, M.core_run he.past_cur ((congrArg (fun m => Assoc.find m tm) (State.past_teams s _)).trans hg),
    M.unit_run he.past_cur, M.get_run, State.past_core, if_neg hown, henter]
  refine hstay.trans ?_
  rw [hsame.2.1, State.past_ir]

end

/-- Passing an instruction leaves the buffered stores. -/
theorem accStores_past (h : s.accStores tm = false) (tm' tid : Nat) : (s.past (.ex tm' tid)).accStores tm = false :=
  Assoc.any_alter_false (m := s.exs) h (fun _ hx => hx)

/-- The body of MREL. -/
def mrelBody : M Unit := do
  let c ← own
  trapIf (← team).latchBusy 0x41 2
  let s ← get
  match ← unit with
  | .ex tm _ => waitUnless ((s.core c).queue.isEmpty && !s.accStores tm) .engine
  | _ => pure ()
  modify (fun s => s.modCore c (fun k => { k with owner := none }))

section
variable (he : Executes s (.ex tm tid) noShape) (ho : s.owns tm tid g c)
include he ho

theorem mrel_completes (hlatch : g.latchBusy = false) (hq : (s.core c).queue = []) (hacc : s.accStores tm = false) :
    exec .mrel s = .next (s.closed ((s.past (.ex tm tid)).modCore c (fun k => { k with owner := none })) (.ex tm tid) .mrel noShape) := by
  have hp := State.owns_past ho
  have hteam : (s.past (.ex tm tid)).teamOf (.ex tm tid) = some g := hp.1
  refine insn_completes_of_sameUnit (body := mrelBody) he ?_ (modCore_sameUnit _ _ _)
  simp only [mrelBody, M.bind_run, M.own_run he.past_cur hp, M.team_run he.past_cur hteam, hlatch, M.trapIf_false, M.pure_run, M.get_run,
    M.unit_run he.past_cur, State.past_core, hq, List.isEmpty_nil, accStores_past hacc, Bool.not_false, Bool.and_self, M.waitUnless_true,
    M.modify_run]

theorem mrel_busy (hlatch : g.latchBusy = true) : exec .mrel s = .next (s.takeTrap (.ex tm tid) (tinfo 0x41 2) (len0Of s.ir.form)) := by
  have hp := State.owns_past ho
  have hteam : (s.past (.ex tm tid)).teamOf (.ex tm tid) = some g := hp.1
  refine insn_traps_any (body := mrelBody) he ?_
  simp only [mrelBody, M.bind_run, M.own_run he.past_cur hp, M.team_run he.past_cur hteam, hlatch]
  rfl

/-- The body of MWAIT. -/
def mwaitBody : M Unit := do
  let c ← own
  awaitQueue c

omit he ho in
theorem awaitQueue_sameUnit (c : Nat) : Keeps SameUnit (awaitQueue c) := fun s a t h => (awaitQueue_calm c s a t h).sameUnit

theorem mwait_completes (h : awaitQueue c (s.past (.ex tm tid)) = .ok ((), t)) :
    exec .mwait s = .next (s.closed t (.ex tm tid) .mwait noShape) := by
  refine insn_completes_of_sameUnit (body := mwaitBody) he ?_ (awaitQueue_sameUnit _ _ _ _ h)
  simp only [mwaitBody, M.bind_run, M.own_run he.past_cur (State.owns_past ho), h]

end

section
variable (he : Executes s (.ex tm tid) noShape) (hg : s.teams.find tm = some g) (hc : c = g.coreOf (tid / 16))
  (hback : g.regrant.has (c - g.core) = false) (hown : (s.core c).owner ≠ some tm)
include he hg hc hback hown

theorem own_past_traps : own (s.past (.ex tm tid)) = .error (.trap (tinfo 0x41 1)) :=
  M.own_traps he.past_cur (by rw [State.past_teams]; exact hg) hc hback (by rw [State.past_core]; exact hown)

theorem mrel_unowned : exec .mrel s = .next (s.takeTrap (.ex tm tid) (tinfo 0x41 1) (len0Of s.ir.form)) := by
  refine insn_traps_any (body := mrelBody) he ?_
  simp only [mrelBody, M.bind_run, own_past_traps he hg hc hback hown]

theorem mwait_unowned : exec .mwait s = .next (s.takeTrap (.ex tm tid) (tinfo 0x41 1) (len0Of s.ir.form)) := by
  refine insn_traps_any (body := mwaitBody) he ?_
  simp only [mwaitBody, M.bind_run, own_past_traps he hg hc hback hown]

end

/-! GANG. -/

/-- The body of GANG. -/
def gangBody : M Unit := do
  let _ ← own
  let v ← fetch { d := 0, a := 2, b := 0, c := 0 } .int
  trapIf (← team).latchBusy 0x42 4
  match gangOf (← team) (heldVal (v.a 0)).bits.toNat, ← unit with
  | some l, .ex tm _ => modify (fun s => s.modTeam tm (fun t => { t with gang := l }))
  | _, _ => trap 0x42 1

section
variable (he : Executes s (.ex tm tid) { d := 0, a := 2, b := 0, c := 0 }) (ho : s.owns tm tid g c)
  (hd : Delivers s (.ex tm tid) { d := 0, a := 2, b := 0, c := 0 } .int v t) (hlatch : g.latchBusy = false)
include he ho hd hlatch

theorem gang_completes {gl : List Nat} (hl : gangOf g (heldVal (v.a 0)).bits.toNat = some gl) :
    exec .gang s = .next (s.closed (t.modTeam tm (fun x => { x with gang := gl })) (.ex tm tid) .gang { d := 0, a := 2, b := 0, c := 0 }) := by
  have hfetch : fetch { d := 0, a := 2, b := 0, c := 0 } .int (s.past (.ex tm tid)) = .ok (v, t) := hd
  have hcur := hd.calm.cur.trans he.past_cur
  have hteam : t.teamOf (.ex tm tid) = some g := by
    show t.teams.find tm = some g
    rw [hd.calm.teams]
    exact (State.owns_past ho).1
  refine insn_completes_of_sameUnit (body := gangBody) he ?_ (hd.sameUnit.trans (modTeam_sameUnit _ _ _))
  simp only [gangBody, M.bind_run, M.own_run he.past_cur (State.owns_past ho), hfetch, M.team_run hcur hteam, hlatch, M.trapIf_false, M.pure_run,
    hl, M.unit_run hcur, M.modify_run]

theorem gang_bad (hl : gangOf g (heldVal (v.a 0)).bits.toNat = none) :
    exec .gang s = .next (s.takeTrap (.ex tm tid) (tinfo 0x42 1) (len0Of s.ir.form)) := by
  have hfetch : fetch { d := 0, a := 2, b := 0, c := 0 } .int (s.past (.ex tm tid)) = .ok (v, t) := hd
  have hcur := hd.calm.cur.trans he.past_cur
  have hteam : t.teamOf (.ex tm tid) = some g := by
    show t.teams.find tm = some g
    rw [hd.calm.teams]
    exact (State.owns_past ho).1
  refine insn_traps_any (body := gangBody) he ?_
  simp only [gangBody, M.bind_run, M.own_run he.past_cur (State.owns_past ho), hfetch, M.team_run hcur hteam, hlatch, M.trapIf_false, M.pure_run,
    hl, M.unit_run hcur]
  rfl

end

/-! The operation queue: MCFG and MZERO. -/

theorem queued_sameUnit (s : State) (c : Nat) (op : Nat → MatOp) : SameUnit s (s.queued c op) := sameUnit_of_units rfl rfl rfl rfl rfl

theorem M.enqueue_run {op : Nat → MatOp} (h : s.canQueue c tm = true) : enqueue c tm op s = .ok ((), s.queued c op) := by
  have hroom : (decide ((s.core c).queue.length < 16) && !s.accStores tm) = true := h
  simp only [enqueue, M.bind_run, M.get_run, hroom, M.waitUnless_true, M.pure_run, M.freshId_run, M.modify_run]
  rfl

/-- An operation as MCFG and MZERO enter it. -/
def matOp (tm tid : Nat) (i : Insn) (va vb : W64) (n : Nat) : MatOp := { id := n, team := tm, tid, insn := i, va, vb, vc := 0, landing := .none }

/-- The body of MCFG. -/
def mcfgBody : M Unit := do
  let c ← own
  let v ← fetch { d := 0, b := 0, c := 0 } .int
  let w := (heldVal (v.a 0)).bits.toNat % 2 ^ 32
  trapIf (bits w 31 24 != 0 || bit w 3) 0x20 0x12
  let o ← ops
  match ← unit with
  | .ex tm tid => enqueue c tm (matOp tm tid ⟨.mcfg, o⟩ (BitVec.ofNat 64 w) 0)
  | _ => pure ()

theorem mcfg_completes (he : Executes s (.ex tm tid) { d := 0, b := 0, c := 0 }) (ho : s.owns tm tid g c)
    (hd : Delivers s (.ex tm tid) { d := 0, b := 0, c := 0 } .int v t) (h1 : bits ((heldVal (v.a 0)).bits.toNat % 2 ^ 32) 31 24 = 0)
    (h2 : bit ((heldVal (v.a 0)).bits.toNat % 2 ^ 32) 3 = false) (hq : t.canQueue c tm = true) :
    exec .mcfg s = .next (s.closed (t.queued c (matOp tm tid ⟨.mcfg, s.ir⟩ (BitVec.ofNat 64 ((heldVal (v.a 0)).bits.toNat % 2 ^ 32)) 0))
      (.ex tm tid) .mcfg { d := 0, b := 0, c := 0 }) := by
  have hfetch : fetch { d := 0, b := 0, c := 0 } .int (s.past (.ex tm tid)) = .ok (v, t) := hd
  refine insn_completes_of_sameUnit (body := mcfgBody) he ?_ (hd.sameUnit.trans (queued_sameUnit _ _ _))
  simp only [mcfgBody, M.bind_run, M.own_run he.past_cur (State.owns_past ho), hfetch, h1, h2, bne_self_eq_false, Bool.or_self, M.trapIf_false,
    M.pure_run, M.ops_run, M.unit_run (hd.calm.cur.trans he.past_cur), M.enqueue_run hq, hd.calm.ir, State.past_ir]

/-- The body of MZERO. -/
def mzeroBody : M Unit := do
  let c ← own
  let v ← fetch { d := 0, c := 0 } .int
  trapIf ((v.a 0).poison || (v.b 0).poison) 0x11 1
  let a := (v.a 0).bits.toNat % 2 ^ 32
  let n := (v.b 0).bits.toNat % 2 ^ 32
  trapIf (a % 256 != 0) 0x23 1
  trapIf (n == 0 || decide (128 < n ∨ accBytes < a + 256 * n)) 0x20 0x11
  let o ← ops
  match ← unit with
  | .ex tm tid => enqueue c tm (matOp tm tid ⟨.mzero, o⟩ (BitVec.ofNat 64 a) (BitVec.ofNat 64 n))
  | _ => pure ()

theorem mzero_completes (he : Executes s (.ex tm tid) { d := 0, c := 0 }) (ho : s.owns tm tid g c)
    (hd : Delivers s (.ex tm tid) { d := 0, c := 0 } .int v t) (hpa : (v.a 0).poison = false) (hpb : (v.b 0).poison = false)
    (ha : (v.a 0).bits.toNat % 2 ^ 32 % 256 = 0) (hn : 1 ≤ (v.b 0).bits.toNat % 2 ^ 32) (hn' : (v.b 0).bits.toNat % 2 ^ 32 ≤ 128)
    (hfit : (v.a 0).bits.toNat % 2 ^ 32 + 256 * ((v.b 0).bits.toNat % 2 ^ 32) ≤ 32768) (hq : t.canQueue c tm = true) :
    exec .mzero s = .next (s.closed (t.queued c (matOp tm tid ⟨.mzero, s.ir⟩ (BitVec.ofNat 64 ((v.a 0).bits.toNat % 2 ^ 32))
      (BitVec.ofNat 64 ((v.b 0).bits.toNat % 2 ^ 32)))) (.ex tm tid) .mzero { d := 0, c := 0 }) := by
  have hfetch : fetch { d := 0, c := 0 } .int (s.past (.ex tm tid)) = .ok (v, t) := hd
  have hbound : ((v.b 0).bits.toNat % 2 ^ 32 == 0 || decide (128 < (v.b 0).bits.toNat % 2 ^ 32 ∨
      accBytes < (v.a 0).bits.toNat % 2 ^ 32 + 256 * ((v.b 0).bits.toNat % 2 ^ 32))) = false := by
    rw [Bool.or_eq_false_iff, beq_eq_false_iff_ne, decide_eq_false_iff_not]
    simp only [accBytes]
    omega
  refine insn_completes_of_sameUnit (body := mzeroBody) he ?_ (hd.sameUnit.trans (queued_sameUnit _ _ _))
  simp only [mzeroBody, M.bind_run, M.own_run he.past_cur (State.owns_past ho), hfetch, hpa, hpb, ha, hbound, bne_self_eq_false, Bool.or_self,
    M.trapIf_false, M.pure_run, M.ops_run, M.unit_run (hd.calm.cur.trans he.past_cur), M.enqueue_run hq, hd.calm.ir, State.past_ir]


/-! MRD and MWR. -/

section
variable {off : Nat}

/-- A word of accumulator memory that may be accessed once the queue is past it. -/
theorem M.accWord_run (h4 : off % 4 = 0) (hfit : off + 4 ≤ 32768) (hq : awaitQueue c t = .ok ((), t1)) : accWord c off t = .ok (accAt c off, t1) := by
  have hfit' : decide (accBytes < off + 4) = false := decide_eq_false (by simp only [accBytes]; omega)
  simp only [accWord, M.bind_run, h4, bne_self_eq_false, M.trapIf_false, M.pure_run, hfit', hq]
  rfl

end

/-- The body of MRD. -/
def mrdBody (o : Ops) : M Unit := do
  let c ← own
  let v ← fetch { b := 0, c := 0 } .int
  trapIf (v.a 0).poison 0x11 1
  let a ← accWord c ((v.a 0).bits.toNat % 2 ^ 32)
  let x ← doOwn ((← get).reqOf (← unit) a .load (← here) 255 .none)
  let code := o.x8.toNat / 16
  if (code = 2 ∨ code = 3) ∧ ¬x.poison then do
    let r := cvtFF binary32 (fmtOf code) (x.bits.toNat % 2 ^ 32)
    raise r.flags
    writeD 1 (fun _ => Val.of (BitVec.ofNat 64 r.bits))
  else writeD 1 (fun _ => x)

theorem exec_mrd (s : State) : exec .mrd s = meaning (insn .mrd { b := 0, c := 0 } (mrdBody s.ir)) s := meaning_read (M.ops_run s)

/-- A load that is performed at once in its own core's store changes nothing. -/
theorem doOwn_load_state {r : Req} {u : Agent} (hcur : s.cur = some u) (hk : r.kind = .load) (h : doOwn r s = .ok (x, t)) : t = s := by
  have hw : r.writes = false := by rw [Req.writes, hk]
  have hc : s.atCore r = (s.readStore r.ia r.size, s) := by rw [State.atCore, hk]
  by_cases ho : s.inOrder s.fresh r = true
  · rw [doOwn_load hcur hk ho] at h
    cases h
    rfl
  · simp only [doOwn, doOwnN, M.bind_run, M.unit_run hcur, hw, Bool.false_eq_true, if_false, M.pure_run, Machine.awaitOrder, M.get_run, waitUnless,
      if_neg ho] at h
    cases h

section
variable {off : Nat} (he : Executes s (.ex tm tid) { b := 0, c := 0 }) (hpc : s.pcAt (.ex tm tid) < 2 ^ 64) (ho : s.owns tm tid g c)
  (hd : Delivers s (.ex tm tid) { b := 0, c := 0 } .int v t) (hpo : (v.a 0).poison = false) (h4 : (v.a 0).bits.toNat % 2 ^ 32 % 4 = 0)
  (hfit : (v.a 0).bits.toNat % 2 ^ 32 + 4 ≤ 32768) (hq : awaitQueue c t = .ok ((), t1))
  (hx : doOwn (t1.reqOf (.ex tm tid) (accAt c ((v.a 0).bits.toNat % 2 ^ 32)) .load (s.pcAt (.ex tm tid)) 255 .none) t1 = .ok (x, t2))
include he hpc ho hd hpo h4 hfit hq hx

/-- MRD up to the word that it reads. -/
theorem mrdBody_read : Calm (s.past (.ex tm tid)) t2 ∧ mrdBody s.ir (s.past (.ex tm tid)) =
    (if (s.ir.x8.toNat / 16 = 2 ∨ s.ir.x8.toNat / 16 = 3) ∧ ¬x.poison = true then do
      raise (cvtFF binary32 (fmtOf (s.ir.x8.toNat / 16)) (x.bits.toNat % 2 ^ 32)).flags
      writeD 1 (fun _ => Val.of (BitVec.ofNat 64 (cvtFF binary32 (fmtOf (s.ir.x8.toNat / 16)) (x.bits.toNat % 2 ^ 32)).bits))
    else writeD 1 (fun _ => x) : M Unit) t2 := by
  have hfetch : fetch { b := 0, c := 0 } .int (s.past (.ex tm tid)) = .ok (v, t) := hd
  have hcalm := hd.calm.trans (awaitQueue_calm c _ _ _ hq)
  have hcur := hcalm.cur.trans he.past_cur
  have ht2 := doOwn_load_state hcur rfl hx
  subst ht2
  refine ⟨hcalm, ?_⟩
  simp only [mrdBody, M.bind_run, M.own_run he.past_cur (State.owns_past ho), hfetch, hpo, M.trapIf_false, M.pure_run, M.accWord_run h4 hfit hq,
    M.get_run, M.unit_run hcur, M.here_calm he hpc hcalm, hx]

theorem mrd_converts (hcvt : (s.ir.x8.toNat / 16 = 2 ∨ s.ir.x8.toNat / 16 = 3) ∧ x.poison = false)
    (hfl : (cvtFF binary32 (fmtOf (s.ir.x8.toNat / 16)) (x.bits.toNat % 2 ^ 32)).flags &&& t2.enabled (.ex tm tid) = 0)
    (hw : Writes (t2.raised (.ex tm tid) (cvtFF binary32 (fmtOf (s.ir.x8.toNat / 16)) (x.bits.toNat % 2 ^ 32)).flags) s.ir.d 1
      (fun _ => Val.of (BitVec.ofNat 64 (cvtFF binary32 (fmtOf (s.ir.x8.toNat / 16)) (x.bits.toNat % 2 ^ 32)).bits)) t') :
    exec .mrd s = .next (s.closed t' (.ex tm tid) .mrd { b := 0, c := 0 }) := by
  obtain ⟨hcalm, hrun⟩ := mrdBody_read he hpc ho hd hpo h4 hfit hq hx
  have hg : t2.teams.find tm = some g := by
    rw [hcalm.teams]
    exact (State.owns_past ho).1
  have hs := hcalm.sameUnit.trans (raised_sameUnit t2 tm tid (cvtFF binary32 (fmtOf (s.ir.x8.toNat / 16)) (x.bits.toNat % 2 ^ 32)).flags)
  refine (exec_mrd s).trans (insn_completes_of_sameUnit he ?_ (hs.trans hw.sameUnit))
  rw [hrun, if_pos ⟨hcvt.1, by rw [hcvt.2]; exact Bool.false_ne_true⟩]
  simp only [M.bind_run, raise_run (hcalm.cur.trans he.past_cur) hg hfl]
  exact M.writeD_of_writes (hs.2.1.trans (State.past_ir s _)) hw

theorem mrd_plain (hcvt : ¬((s.ir.x8.toNat / 16 = 2 ∨ s.ir.x8.toNat / 16 = 3) ∧ x.poison = false)) (hw : Writes t2 s.ir.d 1 (fun _ => x) t') :
    exec .mrd s = .next (s.closed t' (.ex tm tid) .mrd { b := 0, c := 0 }) := by
  obtain ⟨hcalm, hrun⟩ := mrdBody_read he hpc ho hd hpo h4 hfit hq hx
  refine (exec_mrd s).trans (insn_completes_of_sameUnit he ?_ (hcalm.sameUnit.trans hw.sameUnit))
  rw [hrun, if_neg (fun h => hcvt ⟨h.1, Bool.eq_false_iff.2 h.2⟩)]
  exact M.writeD_of_writes (hcalm.ir.trans (State.past_ir s _)) hw

end

/-- What MWR stores: a word, or a 16-bit value widened (R128). -/
def mwrValue (code w : Nat) : FRes := if code = 2 ∨ code = 3 then cvtFF (fmtOf code) binary32 (w % 2 ^ 16) else ⟨w, 0⟩

/-- The body of MWR. -/
def mwrBody (o : Ops) : M Unit := do
  let c ← own
  let v ← fetch { d := 0, c := 0 } .int
  trapIf (v.b 0).poison 0x11 0
  trapIf (v.a 0).poison 0x11 1
  let a ← accWord c ((v.a 0).bits.toNat % 2 ^ 32)
  let r := mwrValue (o.x8.toNat % 16) ((v.b 0).bits.toNat % 2 ^ 32)
  raise (r.flags &&& (fNV ||| fNF))
  let u ← unit
  modify (fun s => s.drainAll u 0 ((s.bufferOf (.unit u)).length))
  let q := (← get).reqOf u a (.store r.bits false) (← here) 255 .none
  awaitOrder q
  modify (fun s => (s.atCore q).2)

theorem exec_mwr (s : State) : exec .mwr s = meaning (insn .mwr { d := 0, c := 0 } (mwrBody s.ir)) s := meaning_read (M.ops_run s)

theorem mwr_completes {r : FRes} {e : State} (he : Executes s (.ex tm tid) { d := 0, c := 0 }) (hpc : s.pcAt (.ex tm tid) < 2 ^ 64)
    (ho : s.owns tm tid g c) (hd : Delivers s (.ex tm tid) { d := 0, c := 0 } .int v t) (hpa : (v.a 0).poison = false)
    (hpb : (v.b 0).poison = false) (h4 : (v.a 0).bits.toNat % 2 ^ 32 % 4 = 0) (hfit : (v.a 0).bits.toNat % 2 ^ 32 + 4 ≤ 32768)
    (hq : awaitQueue c t = .ok ((), t1)) (hr : r = mwrValue (s.ir.x8.toNat % 16) ((v.b 0).bits.toNat % 2 ^ 32))
    (hfl : (r.flags &&& (fNV ||| fNF)) &&& t1.enabled (.ex tm tid) = 0)
    (hee : e = (t1.raised (.ex tm tid) (r.flags &&& (fNV ||| fNF))).drainAll (.ex tm tid) 0 (t1.bufferOf (.unit (.ex tm tid))).length)
    (hord : e.inOrder e.fresh (e.reqOf (.ex tm tid) (accAt c ((v.a 0).bits.toNat % 2 ^ 32)) (.store r.bits false) (s.pcAt (.ex tm tid)) 255 .none) = true) :
    exec .mwr s = .next (s.closed (e.writeStore (Loc.acc c ((v.a 0).bits.toNat % 2 ^ 32)).key 4 r.bits false) (.ex tm tid) .mwr { d := 0, c := 0 }) := by
  have hfetch : fetch { d := 0, c := 0 } .int (s.past (.ex tm tid)) = .ok (v, t) := hd
  have hcalm := hd.calm.trans (awaitQueue_calm c _ _ _ hq)
  have hcur := hcalm.cur.trans he.past_cur
  have hg : t1.teams.find tm = some g := by
    rw [hcalm.teams]
    exact (State.owns_past ho).1
  have hraised : SameUnit t1 (t1.raised (.ex tm tid) (r.flags &&& (fNV ||| fNF))) := raised_sameUnit _ _ _ _
  have harr : Arrived (s.past (.ex tm tid)) e := by
    rw [hee]
    exact Arrived.frames.trans (Arrived.frames.trans hcalm.arrived ⟨rfl, fun _ => rfl⟩) (drainAll_gentle gentle_arrived _ _ _ _)
  have hsame : SameUnit (s.past (.ex tm tid)) e := by
    rw [hee]
    exact (hcalm.sameUnit.trans hraised).trans (drainAll_sameUnit _ _ _ _)
  have hhere : here e = .ok (s.pcAt (.ex tm tid), e) := M.here_arrived (M.here_run he hpc) he.past_cur
    (by rw [State.ctl_past]; exact (Option.isSome_map).trans he.isSome) harr hsame.2.1
  have hbuf : (t1.raised (.ex tm tid) (r.flags &&& (fNV ||| fNF))).bufferOf (.unit (.ex tm tid)) = t1.bufferOf (.unit (.ex tm tid)) := rfl
  have hcur' : (t1.raised (.ex tm tid) (r.flags &&& (fNV ||| fNF))).cur = some (.ex tm tid) := hraised.1.trans hcur
  refine (exec_mwr s).trans (insn_completes_of_sameUnit he ?_ (hsame.trans (writeStore_sameUnit _ _ _ _ _)))
  simp only [mwrBody, M.bind_run, M.own_run he.past_cur (State.owns_past ho), hfetch, hpa, hpb, M.trapIf_false, M.pure_run, M.accWord_run h4 hfit hq,
    ← hr, raise_run hcur hg hfl, M.unit_run hcur', M.modify_run, hbuf, ← hee, M.get_run, hhere, M.awaitOrder_run hord]
  rfl


/-! The transfers. -/

/-- A port destination takes no poisoned control word. -/
def xferPoison (f : Field) (p : Bool) : M Unit :=
  match portOf f with
  | some n => (if p then stopTrap { tinfo 0x11 0 with port := some n } else pure ())
  | none => pure ()

/-- A transfer as it enters the queue. -/
def xferMat (tm tid : Nat) (i : Insn) (va vb vc : W64) (taint : Bool) (landing : Landing) (n : Nat) : MatOp :=
  { id := n, team := tm, tid, insn := i, va, vb, vc, landing, taint }

/-- The body of a transfer. -/
def xferBody (i : Instr) (o : Ops) : M Unit := do
  let hi := o.x8.toNat
  let c ← own
  let v ← fetch {} .offset
  trapIf ((v.a 0).poison || (v.b 0).poison) 0x11 1
  xferPoison o.d (v.c 0).poison
  let h := (← get).handleOf (← unit) hi
  xferHandle hi h
  let e := (v.a 0).bits.toNat % 2 ^ 32
  let off := (v.b 0).bits.toNat % 2 ^ 32
  let cw := (heldVal (v.c 0)).bits
  match xferOf i (cw.toNat % 2 ^ 32) with
  | none => if xferRes i (cw.toNat % 2 ^ 32) then trap 0x20 0x12 else trap 1 8
  | some x =>
    (if (List.range x.rows).all (fun r => rangeOk h (off + r * x.step h) x.mrow) then pure ()
     else stopTrap (accTrap 0x20 1 hi (Hnd.base h + off)))
    let size := if x.store = 2 then accBytes else 65536
    trapIf (e % (if x.store = 2 then 256 else 64) != 0 || decide (size < e + x.rows * x.erow)) 0x20 0x11
    match ← unit with
    | .ex tm tid =>
      let landing ← landPort
      enqueue c tm (xferMat tm tid ⟨i, o⟩ (BitVec.ofNat 64 e) (BitVec.ofNat 64 off) cw (v.c 0).poison landing)
      if (portOf o.d).isSome then stay i .result
    | _ => pure ()

theorem xfer_eq (i : Instr) (s : State) : meaning (xferOp i) s = meaning (insn i {} (xferBody i s.ir)) s := meaning_read (M.ops_run s)

/-- A handle that a transfer of an execute thread accepts. -/
theorem M.xferHandle_run {hi : Nat} {h : Handle} (hcur : s.cur = some (.ex tm tid))
    (hs : Hnd.space h ≠ 7 ∧ Hnd.space h ≠ 3 ∧ Hnd.space h ≠ 5 ∧ Hnd.space h ≠ 6) (hk : Hnd.kind h ≠ 4)
    (hreg : ¬(globalSpace (Hnd.space h) = true ∧ isReg s.ir.b = true)) : xferHandle hi h s = .ok ((), s) := by
  obtain ⟨h7, h3, h5, h6⟩ := hs
  have hno : ¬(sideOf (.ex tm tid) = .exec ∧ globalSpace (Hnd.space h) = true ∧ isReg s.ir.b = true) := fun h => hreg h.2
  have hsp : ¬(Hnd.space h = 3 ∨ Hnd.space h = 5 ∨ Hnd.space h = 6) := by tauto
  simp only [xferHandle, M.bind_run, if_neg h7, M.pure_run, M.unit_run hcur, M.ops_run, if_neg hno, if_neg hsp, if_neg hk]

section
variable {y : Xfer} (he : Executes s (.ex tm tid) {}) (ho : s.owns tm tid g c) (hd : Delivers s (.ex tm tid) {} .offset v t)
  (hpa : (v.a 0).poison = false) (hpb : (v.b 0).poison = false)
  (hs : Hnd.space (t.handleOf (.ex tm tid) s.ir.x8.toNat) ≠ 7 ∧ Hnd.space (t.handleOf (.ex tm tid) s.ir.x8.toNat) ≠ 3 ∧
    Hnd.space (t.handleOf (.ex tm tid) s.ir.x8.toNat) ≠ 5 ∧ Hnd.space (t.handleOf (.ex tm tid) s.ir.x8.toNat) ≠ 6)
  (hk : Hnd.kind (t.handleOf (.ex tm tid) s.ir.x8.toNat) ≠ 4)
  (hreg : ¬(globalSpace (Hnd.space (t.handleOf (.ex tm tid) s.ir.x8.toNat)) = true ∧ isReg s.ir.b = true))
  (hx : xferOf i ((heldVal (v.c 0)).bits.toNat % 2 ^ 32) = some y)
  (hrows : ∀ r, r < y.rows → rangeOk (t.handleOf (.ex tm tid) s.ir.x8.toNat)
    ((v.b 0).bits.toNat % 2 ^ 32 + r * y.step (t.handleOf (.ex tm tid) s.ir.x8.toNat)) y.mrow = true)
  (halign : (v.a 0).bits.toNat % 2 ^ 32 % (if y.store = 2 then 256 else 64) = 0)
  (hfit : (v.a 0).bits.toNat % 2 ^ 32 + y.rows * y.erow ≤ (if y.store = 2 then 32768 else 65536))
include he ho hd hpa hpb hs hk hreg hx hrows halign hfit

/-- A transfer up to its entry into the queue. -/
theorem xferBody_run {op : Landing → Nat → MatOp} (hop : op = xferMat tm tid ⟨i, s.ir⟩ (BitVec.ofNat 64 ((v.a 0).bits.toNat % 2 ^ 32))
      (BitVec.ofNat 64 ((v.b 0).bits.toNat % 2 ^ 32)) (heldVal (v.c 0)).bits (v.c 0).poison)
    (hpo : xferPoison s.ir.d (v.c 0).poison t = .ok ((), t)) (hl : landPort t = .ok (l, t1)) (hq : t1.canQueue c tm = true) :
    xferBody i s.ir (s.past (.ex tm tid)) = (if (portOf s.ir.d).isSome = true then stay i .result else pure () : M Unit) (t1.queued c (op l)) := by
  have hfetch : fetch {} .offset (s.past (.ex tm tid)) = .ok (v, t) := hd
  have hcur := hd.calm.cur.trans he.past_cur
  have hir : t.ir = s.ir := hd.calm.ir.trans (State.past_ir s _)
  have hall : (List.range y.rows).all (fun r => rangeOk (t.handleOf (.ex tm tid) s.ir.x8.toNat)
      ((v.b 0).bits.toNat % 2 ^ 32 + r * y.step (t.handleOf (.ex tm tid) s.ir.x8.toNat)) y.mrow) = true :=
    List.all_eq_true.2 (fun r hr => hrows r (List.mem_range.1 hr))
  have hbound : (((v.a 0).bits.toNat % 2 ^ 32 % (if y.store = 2 then 256 else 64) != 0) ||
      decide ((if y.store = 2 then accBytes else 65536) < (v.a 0).bits.toNat % 2 ^ 32 + y.rows * y.erow)) = false := by
    rw [halign, bne_self_eq_false, Bool.false_or, decide_eq_false_iff_not]
    exact Nat.not_lt.2 hfit
  subst hop
  simp only [xferBody, M.bind_run, M.own_run he.past_cur (State.owns_past ho), hfetch, hpa, hpb, Bool.or_self, M.trapIf_false, M.pure_run, hpo,
    M.get_run, M.unit_run hcur, M.xferHandle_run hcur hs hk (by rw [hir]; exact hreg), hx, hall, if_true, hbound, hl, M.enqueue_run hq]

/-- A transfer whose status lands in a register. -/
theorem xfer_completes (hd' : noPort s.ir.d = true) (hl : landD t = .ok (l, t1)) (hq : t1.canQueue c tm = true) :
    meaning (xferOp i) s = .next (s.closed (t1.queued c (xferMat tm tid ⟨i, s.ir⟩ (BitVec.ofNat 64 ((v.a 0).bits.toNat % 2 ^ 32))
      (BitVec.ofNat 64 ((v.b 0).bits.toNat % 2 ^ 32)) (heldVal (v.c 0)).bits (v.c 0).poison l)) (.ex tm tid) i {}) := by
  have hnone : portOf s.ir.d = none := Option.isNone_iff_eq_none.1 hd'
  have hir : t.ir = s.ir := hd.calm.ir.trans (State.past_ir s _)
  have hpo : xferPoison s.ir.d (v.c 0).poison t = .ok ((), t) := by
    rw [xferPoison, hnone]
    rfl
  have hland : landPort t = .ok (l, t1) := by
    simp only [landPort, M.bind_run, M.unit_run (hd.calm.cur.trans he.past_cur), M.ops_run, hir, hnone]
    exact hl
  refine (xfer_eq i s).trans (insn_completes_of_sameUnit he ?_ ((hd.sameUnit.trans (landD_sameUnit _ _ _ hl)).trans (queued_sameUnit _ _ _)))
  rw [xferBody_run he ho hd hpa hpb hs hk hreg hx hrows halign hfit rfl hpo hland hq, hnone]
  rfl

/-- A transfer whose status goes to a port: its thread is held for the push. -/
theorem xfer_port {p : Port} (hn : portOf s.ir.d = some n) (hp : t.ports.find (portKey (stripKey tm (tid / 16)) n) = some p)
    (hpc' : (v.c 0).poison = false) (hpc : s.pcAt (.ex tm tid) < 2 ^ 64) (hroom : pushRoom n p (p.pos.getD (tid % 16) 0) false t = .ok ((), t1))
    (hq : t1.canQueue c tm = true) :
    meaning (xferOp i) s = .next (s.closed ((t1.queued c (xferMat tm tid ⟨i, s.ir⟩ (BitVec.ofNat 64 ((v.a 0).bits.toNat % 2 ^ 32))
      (BitVec.ofNat 64 ((v.b 0).bits.toNat % 2 ^ 32)) (heldVal (v.c 0)).bits (v.c 0).poison (.push tm tid n))).stays tm tid i s.ir
        (s.pcAt (.ex tm tid)) .result) (.ex tm tid) i {}) := by
  have hir : t.ir = s.ir := hd.calm.ir.trans (State.past_ir s _)
  have hcur := hd.calm.cur.trans he.past_cur
  obtain rfl : t1 = t := Keeps.pushRoom _ _ _ _ _ _ _ hroom
  have hpo : xferPoison s.ir.d (v.c 0).poison t1 = .ok ((), t1) := by
    rw [xferPoison, hn, hpc']
    rfl
  have hland : landPort t1 = .ok (.push tm tid n, t1) := by
    simp only [landPort, M.bind_run, M.unit_run hcur, M.ops_run, hir, hn, M.get_run, hp, hroom, M.pure_run]
  have hsame := hd.sameUnit.trans (queued_sameUnit t1 c (xferMat tm tid ⟨i, s.ir⟩ (BitVec.ofNat 64 ((v.a 0).bits.toNat % 2 ^ 32))
    (BitVec.ofNat 64 ((v.b 0).bits.toNat % 2 ^ 32)) (heldVal (v.c 0)).bits (v.c 0).poison (.push tm tid n)))
  refine (xfer_eq i s).trans (insn_completes_of_sameUnit he ?_ (hsame.trans (stays_sameUnit _ _ _ _ _ _ _)))
  rw [xferBody_run he ho hd hpa hpb hs hk hreg hx hrows halign hfit rfl hpo hland hq, hn]
  have hsome : (t1.ctl (.ex tm tid)).isSome := by rw [hd.sameUnit.2.2, State.ctl_past]; exact (Option.isSome_map).trans he.isSome
  refine (M.stay_run (hsame.1.trans he.past_cur) (M.here_congr (M.here_calm he hpc hd.calm) hcur hsome rfl rfl rfl)).trans ?_
  rw [hsame.2.1, State.past_ir]

end

/-! MMA. -/

/-- Whether the latch takes an arrival at an address (R108). -/
def latchCheck (t : Team) (tid a : Nat) : M Unit :=
  match t.latch with
  | some l =>
    if l.released ∧ ¬l.suspended.has tid then wait .latch
    else trapIf (l.addr != a) 0x42 2
  | none => pure ()

/-- A port that gives the operands in field a is a row port that execute threads pop. -/
def mmaPort (s : State) (o : Ops) (tm tid : Nat) : M Unit :=
  match portOf o.a with
  | some n =>
    match s.ports.find (portKey (stripKey tm (tid / 16)) n) with
    | none => stopTrap (portTrap 1 n)
    | some p => if p.mode = .rline ∧ p.execPops then pure () else stopTrap (portTrap 2 n)
  | none => pure ()

/-- The body of MMA. -/
def mmaBody : M Unit := do
  let _ ← own
  let o ← ops
  let a ← here
  match ← unit with
  | .ex tm tid =>
    let t ← team
    trapIf (!t.gang.any (· == tid / 16)) 0x42 3
    let s ← get
    latchCheck t tid a
    mmaPort s o tm tid
    checkPorts { d := 0, a := 0 }
    let l : Latch := t.latch.getD ⟨a, ⟨.mma, o⟩, [], false, []⟩
    let l' : Latch := { l with arrived := l.arrived.add tid, suspended := l.suspended.rem tid }
    modify (fun s => s.modTeam tm (fun t => { t with latch := some l' }))
    stay .mma .latch
  | _ => pure ()

/-- The latch once a thread has arrived: it opens with the first. -/
def Team.latchWith (g : Team) (tid pc : Nat) (o : Ops) : Latch :=
  let l := g.latch.getD ⟨pc, ⟨.mma, o⟩, [], false, []⟩
  { l with arrived := l.arrived.add tid, suspended := l.suspended.rem tid }

theorem mma_arrives (he : Executes s (.ex tm tid) mmaShape) (hpc : s.pcAt (.ex tm tid) < 2 ^ 64) (ho : s.owns tm tid g c) (hgang : tid / 16 ∈ g.gang)
    (hlatch : ∀ k, g.latch = some k → (k.released = false ∨ k.suspended.has tid = true) ∧ k.addr = s.pcAt (.ex tm tid))
    (hports : checkPorts { d := 0, a := 0 } (s.past (.ex tm tid)) = .ok ((), s.past (.ex tm tid)))
    (hport : ∀ n, portOf s.ir.a = some n → ∃ p, s.ports.find (portKey (stripKey tm (tid / 16)) n) = some p ∧ p.mode = .rline ∧ p.execPops = true) :
    exec .mma s = .next (s.closed (((s.past (.ex tm tid)).modTeam tm (fun t => { t with latch := some (g.latchWith tid (s.pcAt (.ex tm tid)) s.ir) })).stays tm tid .mma s.ir (s.pcAt (.ex tm tid)) .latch)
      (.ex tm tid) .mma mmaShape) := by
  have hp := State.owns_past ho
  have hteam : (s.past (.ex tm tid)).teamOf (.ex tm tid) = some g := hp.1
  have hany : (!g.gang.any (· == tid / 16)) = false := by
    rw [Bool.not_eq_false', List.any_eq_true]
    exact ⟨_, hgang, beq_self_eq_true _⟩
  have hcheck : latchCheck g tid (s.pcAt (.ex tm tid)) (s.past (.ex tm tid)) = .ok ((), s.past (.ex tm tid)) := by
    unfold latchCheck
    cases hl : g.latch with
    | none => rfl
    | some k =>
      obtain ⟨hk, haddr⟩ := hlatch k hl
      have hno : ¬(k.released = true ∧ ¬k.suspended.has tid = true) := by
        rintro ⟨h1, h2⟩
        obtain h | h := hk
        · rw [h] at h1
          cases h1
        · exact h2 h
      simp only [if_neg hno, haddr, bne_self_eq_false, M.trapIf_false, M.pure_run]
  have hmp : mmaPort (s.past (.ex tm tid)) s.ir tm tid (s.past (.ex tm tid)) = .ok ((), s.past (.ex tm tid)) := by
    unfold mmaPort
    cases hn : portOf s.ir.a with
    | none => rfl
    | some n =>
      obtain ⟨p, hf, hmode, hpops⟩ := hport n hn
      simp only [State.past_ports, hf, hmode, hpops, and_self, if_true, M.pure_run]
  have hsame := modTeam_sameUnit (s.past (.ex tm tid)) tm (fun t => { t with latch := some (g.latchWith tid (s.pcAt (.ex tm tid)) s.ir) })
  have hstay := M.stay_run (i := .mma) (w := .latch) (hsame.1.trans he.past_cur)
    (M.here_of_ctl he hpc (hsame.1.trans he.past_cur) (hsame.2.1.trans (State.past_ir s _)) rfl)
  refine insn_completes_of_sameUnit (body := mmaBody) he ?_ (hsame.trans (stays_sameUnit _ _ _ _ _ _ _))
  simp only [mmaBody, M.bind_run, M.own_run he.past_cur hp, M.ops_run, State.past_ir, M.here_run he hpc, M.unit_run he.past_cur,
    M.team_run he.past_cur hteam, hany, M.trapIf_false, M.pure_run, M.get_run, hcheck, hmp, hports, M.modify_run]
  refine hstay.trans ?_
  rw [hsame.2.1, State.past_ir]

end Sys2Proof.Machine
end

section
open Sys2Proof Machine

/-- Settles O38: the instructions of the matrix engine, for the owner of the engine and for others. -/
theorem matrixInstructionsComplete : Obligations.MatrixInstructionsComplete := by
  unfold Obligations.MatrixInstructionsComplete
  refine ⟨?_, ?_, ?_, ?_, ?_, ?_, ?_, ?_, ?_, ?_⟩
  · intro s tm tid c g u r he hpc hg hc
    refine ⟨fun hown => macq_owned he hg hc hown, fun hown => ?_⟩
    have hr : r = (s.past u).waitsFor c tm := by
      simp only [r, State.waitsFor, State.past_core]
    rw [hr]
    exact macq_waits he hg hc hpc hown
  · exact fun s tm tid c g he ho => ⟨fun hlatch hq hacc => mrel_completes he ho hlatch hq hacc, fun hlatch => mrel_busy he ho hlatch,
      fun t h => mwait_completes he ho h⟩
  · simp only [List.forall_mem_cons, List.not_mem_nil, false_imp_iff, implies_true, and_true]
    exact ⟨fun s tm tid c g he hg hc hback hown => mrel_unowned he hg hc hback hown,
      fun s tm tid c g he hg hc hback hown => mwait_unowned he hg hc hback hown⟩
  · exact fun s t tm tid c g v he ho hd _ hlatch => ⟨fun l hl => gang_completes he ho hd hlatch hl, fun hl => gang_bad he ho hd hlatch hl⟩
  · exact fun s t tm tid c g v he ho hd h1 h2 hq => mcfg_completes he ho hd h1 h2 hq
  · exact fun s t tm tid c g v he ho hd hpa hpb ha hn hn' hfit hq => mzero_completes he ho hd hpa hpb ha hn hn' hfit hq
  · intro s t t1 t2 t' tm tid c g v x u sh off code r cvt he hpc ho hd hpo h4 hfit hq hx
    exact ⟨fun hcvt hfl hw => mrd_converts he hpc ho hd hpo h4 hfit hq hx hcvt hfl hw,
      fun hcvt hw => mrd_plain he hpc ho hd hpo h4 hfit hq hx hcvt hw⟩
  · intro s t t1 tm tid c g v u sh off code w r fl e q he hpc ho hd hpa hpb h4 hfit hq hfl hord
    exact mwr_completes he hpc ho hd hpa hpb h4 hfit hq rfl hfl rfl hord
  · simp only [List.forall_mem_cons, List.not_mem_nil, false_imp_iff, implies_true, and_true]
    and_intros
    all_goals
      intro s t t1 tm tid c g v x l he ho hd hpa hpb hs hk hreg hx hrows halign hfit
      exact ⟨fun hd' hl hq => xfer_completes he ho hd hpa hpb hs hk hreg hx hrows halign hfit hd' hl hq,
        fun n p hn hp hpc' hpc hroom hq => xfer_port he ho hd hpa hpb hs hk hreg hx hrows halign hfit hn hp hpc' hpc hroom hq⟩
  · exact fun s tm tid c g he hpc ho hgang hlatch hports hport => mma_arrives he hpc ho hgang hlatch hports hport

end

section
/-! SUPPORT. The events of the matrix engine (R104, R106, R108, R120 to R126). -/

namespace Sys2Proof.Machine

variable {s t z : State} {c e tm n oid : Nat} {g : Team} {op : MatOp} {rest : List MatOp} {l : Latch} {x : Xfer} {u : Agent}
  {h : Handle} {hi off win eng : Nat}

/-! The engine passes to a team. -/

/-- A thread of a team whose engine came goes on past its MACQ. -/
def State.unblockMacq (s : State) (g : Team) (tm c i : Nat) : State :=
  match s.exs.find (exKey tm i) with
  | some x => if x.arr.elim false (fun j => j.op == .macq) && g.coreOf (i / 16) == c then s.finishEx tm i else s
  | none => s

/-- A team that has the engine now goes on past its MACQ. -/
theorem engineGrant_eq {r : State} {waiters : List Nat} (hw : (s.core c).waiting = tm :: waiters) (hg : s.teams.find tm = some g)
    (hrun : s.running g.ctx = true) (hback : g.regrant.has (c - g.core) = false)
    (hfree : (s.core c).owner = none ∨
      ∃ o, (s.core c).owner = some o ∧ s.teamDone o = true ∧ (s.core c).queue = [] ∧ s.accStores o = false)
    (hr : (if (s.core c).lastCtx.isSome && (s.core c).lastCtx != some g.ctx then s.clearEngine c else s).modCore c
      (fun k => { k with owner := some tm, waiting := waiters, lastCtx := some g.ctx }) = r) :
    s.engineGrant c = some ((List.range (16 * g.strips)).foldl (fun s i => s.unblockMacq g tm c i) r) := by
  unfold State.engineGrant
  rcases hfree with ho | ⟨o, ho, hdone, hq, hacc⟩
  · simp only [ho, hw, hg, hrun, Bool.not_true, Bool.or_self, Bool.false_eq_true, if_false, hback, ← hr]
    rfl
  · simp only [ho, hdone, hq, hacc, List.isEmpty_nil, Bool.not_false, Bool.and_self, hw, hg, hrun, Bool.not_true, Bool.or_self,
      Bool.false_eq_true, if_false, hback, ← hr]
    rfl


theorem Assoc.find_filter {α : Type} {p : Nat → Bool} (a : Nat) :
    ∀ {m : Assoc α} {b : Nat}, Assoc.sortedFrom b m = true →
      Assoc.find (m.filter (fun x => p x.1)) a = if p a then Assoc.find m a else none
  | [], _, _ => by simp
  | (j, v) :: m, b, h => by
    simp only [Assoc.sortedFrom, Bool.and_eq_true, decide_eq_true_eq] at h
    have ih := Assoc.find_filter (p := p) a h.2
    rcases Nat.lt_trichotomy a j with hlt | heq | hgt
    · rw [List.filter_cons]
      have hnone : Assoc.find m a = none := Assoc.find_lt_bound h.2 (by omega)
      have hnone' : Assoc.find ((j, v) :: m) a = none := by simp only [Assoc.find]; rw [if_neg (by omega), if_pos hlt]
      rw [hnone, ite_self] at ih
      rw [hnone', ite_self]
      split
      · simp only [Assoc.find]; rw [if_neg (by omega), if_pos hlt]
      · exact ih
    · subst heq
      rw [List.filter_cons]
      split
      · simp only [Assoc.find, if_true]
      · rw [Assoc.find_lt_bound h.2 (by omega), ite_self] at ih
        exact ih
    · have hcons : Assoc.find ((j, v) :: m) a = Assoc.find m a := by
        simp only [Assoc.find]; rw [if_neg (by omega), if_neg (by omega)]
      rw [List.filter_cons, hcons, ← ih]
      split
      · simp only [Assoc.find]; rw [if_neg (by omega), if_neg (by omega)]
      · rfl

theorem Memory.read_filter {m : Memory} {p : Nat → Bool} (hm : Memory.wf m = true) (a : Nat) :
    Memory.read (m.filter (fun x => p x.1)) a = if p a then Memory.read m a else 0 := by
  have h := Assoc.find_filter (p := p) a ((Memory.wf_iff m).1 hm).1
  simp only [Memory.read, Assoc.get]
  rw [h]
  split <;> rfl

theorem dropBytes_read (hm : s.memWf = true) (lo k a : Nat) :
    Memory.read (s.dropBytes lo k).mem a = if lo ≤ a ∧ a < lo + k then 0 else Memory.read s.mem a := by
  refine (Memory.read_filter (p := fun x => decide (x < lo ∨ lo + k ≤ x)) hm a).trans ?_
  simp only [decide_eq_true_eq]
  by_cases hin : lo ≤ a ∧ a < lo + k
  · rw [if_pos hin, if_neg (by omega)]
  · rw [if_neg hin, if_pos (by omega)]

theorem clearEngine_read (hm : s.memWf = true) (a : Nat) :
    Memory.read (s.clearEngine c).mem a = if inEngine c a then 0 else Memory.read s.mem a := by
  have h1 : (s.dropBytes (Loc.tile c 0).key tileBytes).memWf = true := State.dropBytes_memWf _ _ _ hm
  have h2 : ((s.dropBytes (Loc.tile c 0).key tileBytes).dropBytes (Loc.wbuf c 0).key wbufBytes).memWf = true := State.dropBytes_memWf _ _ _ h1
  refine (dropBytes_read h2 _ _ a).trans ?_
  rw [dropBytes_read h1, dropBytes_read hm]
  simp only [inEngine, List.any_cons, List.any_nil, Bool.or_eq_true, decide_eq_true_eq, Bool.false_eq_true, or_false]
  by_cases htile : (Loc.tile c 0).key ≤ a ∧ a < (Loc.tile c 0).key + tileBytes
  · simp only [htile, and_self, true_or, if_true, ite_self]
  · by_cases hwbuf : (Loc.wbuf c 0).key ≤ a ∧ a < (Loc.wbuf c 0).key + wbufBytes
    · simp only [hwbuf, and_self, true_or, or_true, if_true, ite_self]
    · simp only [htile, hwbuf, false_or, if_false]

/-! MMA enters the queue, commits its chunks and completes. -/

theorem latchRelease_eq {live : List Nat} {leader : Nat} {a b w : Val} (hlive : (gangRows g.gang).filter (s.exLive tm) = live)
    (hc : g.coreOf (g.gang.headD 0) = c) (hleader : live.foldl min (live.headD 0) = leader)
    (hg : s.teams.find tm = some g) (hl : g.latch = some l) (hrel : l.released = false) (hne : live ≠ [])
    (hall : ∀ i ∈ live, l.arrived.has i = true) (hrun : s.running g.ctx = true) (hq : s.canQueue c tm = true)
    (hown : s.holdsEngine tm g c = true) (hread : s.asUnit (.ex tm leader) l.insn.args mmaRead = .ok ((a, b, w), z)) :
    s.latchRelease tm = some ((({ z with ir := s.ir, cur := s.cur } : State).queued c (fun n =>
      { id := n, team := tm, tid := leader, insn := l.insn, va := a.bits, vb := b.bits, vc := w.bits, landing := .none, gang := g.gang,
        woff := b.bits.toNat % 2 ^ 32, taint := w.poison, bad := a.poison || b.poison })).modTeam tm
      (fun t => { t with latch := some { l with released := true } })) := by
  subst hlive hc hleader
  have hall' : ((gangRows g.gang).filter (s.exLive tm)).all l.arrived.has = true := List.all_eq_true.2 hall
  simp only [State.canQueue, Bool.and_eq_true, decide_eq_true_eq, Bool.not_eq_true'] at hq
  have hroom : ¬16 ≤ (s.core (g.coreOf (g.gang.headD 0))).queue.length := by omega
  simp only [State.latchRelease, hg, hl, hrel, hne, hall', hrun, hq.2, hown, hroom, hread, Bool.false_eq_true, not_true, or_self,
    if_false]
  rfl

theorem modCore_congr {f f' : Core → Core} (h : f (s.core c) = f' (s.core c)) : s.modCore c f = s.modCore c f' := by
  simp only [State.modCore, h]

theorem mmaComplete_eq {fl en : FlagSet} {r : State} (hq : (s.core c).queue = op :: rest) (hop : op.insn.op = .mma)
    (hlast : 64 * op.chunk = Mma.k (op.vc.toNat % 2 ^ 32)) (hg : s.teams.find op.team = some g) (hrun : s.running g.ctx = true)
    (hfl : (if op.taint then 0 else op.flags) = fl) (hen : LRec.fpen (s.recordOf g) &&& fl = en)
    (hr : (s.modCore c (fun k => { k with queue := rest })).modTeam op.team
      (fun t => { t with flags := t.flags ||| fl, latch := none }) = r) :
    s.mmaComplete c = some ((g.latch.elim [] (·.arrived)).foldl (fun s tid =>
      if en ≠ 0 ∧ tid = op.tid then s.trapMma op.team tid op.insn { tinfo 0x10 (lowFlag en) with flags := fl, done := true }
      else s.retireMma op.team tid op.insn) r) := by
  subst hfl hen hr
  simp only [State.mmaComplete, hq, hop, hlast, hg, hrun, ne_eq, not_true, or_self, if_false]


/-- The operands of the MMA at the head of a core's queue may be taken for its next chunk, or it be checked. -/
structure State.ChunkDue (s : State) (c : Nat) (op : MatOp) (rest : List MatOp) (g : Team) (l : Latch) : Prop where
  queue : (s.core c).queue = op :: rest
  isMma : op.insn.op = .mma
  more : 64 * op.chunk ≠ Mma.k (op.vc.toNat % 2 ^ 32)
  team : s.teams.find op.team = some g
  placed : g.placed = true
  running : s.running g.ctx = true
  latch : g.latch = some l
  released : l.released = true
  suspended : l.suspended = []
  free : s.heldBack c op = false
  pace : s.mgmt.slow ≤ s.now % 256

/-- Lines of A that a chunk takes of each row, and those lines. -/
def chunkLines (op : MatOp) : Nat := if op.insn.args.x8.toNat % 16 = 2 ∨ op.insn.args.x8.toNat % 16 = 3 then 2 else 1

def State.chunkRows (s : State) (op : MatOp) : Gather (List (Option (Nat × List Bool))) :=
  match portOf op.insn.args.a with
  | some n => s.lineRows op.team n op.chunk (chunkLines op) (gangRows op.gang)
  | none => .ok []

/-- What a chunk whose checks are made comes to. -/
def State.runChunk (s : State) (c : Nat) (op : MatOp) : Option State :=
  let w := op.vc.toNat % 2 ^ 32
  let o := op.insn.args
  let bf := o.x8.toNat / 16
  let af := o.x8.toNat % 16
  let tm := op.team
  match s.chunkRows op with
  | .wait _ => none
  | .trap tid t => some (s.suspend tm tid op t)
  | .ok rows =>
    match s.gatherB op with
    | .wait t => if t = s then none else some t
    | .trap tid t => some (s.suspend tm tid op t)
    | .ok (brows, s) =>
      let ea := s.elemA c op rows
      let cfg := (s.core c).mcfg.toNat
      let sc := bit cfg 2 && ocp bf
      let run (b : Nat → Nat → Option Elem) (cmap : Nat → Nat) (len : Nat) : State :=
        s.commitChunk c op ⟨16 * op.gang.length, af == 9, bit cfg 1, ea, b, cmap⟩ len (chunkLines op)
          (rows.any (fun x => x.elim false (fun y => y.2.any id)))
      if Mma.tile w then
        some (run (s.tileElem c bf (if sc then some (64 * bits cfg 23 14) else none) op.chunk brows) (fun x => x) 0)
      else match s.imageAt c op.woff bf with
        | none => some (s.suspend tm op.tid op { tinfo 0x20 0x10 with chunk := BitVec.ofNat 8 op.chunk })
        | some im =>
          let strict := s.strictBlock c op ea
          some (run (s.imageElem c bf im sc strict) (fun x => bits im.cmap (6 * x + 5) (6 * x)) im.len)

theorem mmaChunk_checks (h : s.ChunkDue c op rest g l) (hready : op.ready = false) : s.mmaChunk c = match s.mmaCheck c op with
    | some t => some (s.suspend op.team op.tid op t)
    | none => some (s.modHead c (fun op => { op with ready := true })) := by
  simp only [State.mmaChunk, h.queue, h.isMma, h.team, h.placed, h.running, h.latch, h.released, h.suspended, h.free, hready, h.more,
    Nat.not_lt.2 h.pace, Option.elim_some, ne_eq, not_true, bne_self_eq_false, Bool.not_true, Bool.or_self, Bool.false_eq_true, or_self,
    if_false, not_false_eq_true, if_true] <;> rfl

theorem mmaChunk_runs (h : s.ChunkDue c op rest g l) (hready : op.ready = true) : s.mmaChunk c = s.runChunk c op := by
  simp only [State.mmaChunk, h.queue, h.isMma, h.team, h.placed, h.running, h.latch, h.released, h.suspended, h.free, hready, h.more,
    Nat.not_lt.2 h.pace, Option.elim_some, ne_eq, not_true, bne_self_eq_false, Bool.not_true, Bool.or_self, Bool.false_eq_true, or_self,
    if_false]
  rfl

/-- In weight mode no row of B is fetched. -/
theorem gatherB_image (htile : Mma.tile (op.vc.toNat % 2 ^ 32) = false) : s.gatherB op = .ok ([], s) := by
  simp only [State.gatherB, htile, Bool.false_eq_true, not_false_eq_true, if_true]

theorem event_run (f : State → Option State) (s : State) : event f s = .next ((f s).getD s) := by
  unfold event
  cases f s <;> rfl

/-- MATRIX_TRANSFER_COMPLETE as its occurrence names it. -/
def State.transferEvent (s : State) : Option State :=
  match s.occ with
  | .num2 c n => s.matrixTransfer c n none
  | .num3 c n k => s.matrixTransfer c n (some k)
  | _ => none

theorem exec_matrixTransfer (s : State) : exec .matrixTransferComplete s = .next (s.transferEvent.getD s) := event_run State.transferEvent s

/-! MZERO, MCFG and the end of a transfer. -/

theorem matrixQueueOp_mcfg (hq : (s.core c).queue = op :: rest) (hfree : s.heldBack c op = false) (hop : op.insn.op = .mcfg) :
    s.matrixQueueOp c = some (s.modCore c (fun k => { k with mcfg := op.va.setWidth 32, queue := rest })) := by
  simp only [State.matrixQueueOp, hq, hfree, Bool.false_eq_true, if_false, hop]

theorem matrixQueueOp_mzero (hq : (s.core c).queue = op :: rest) (hfree : s.heldBack c op = false) (hop : op.insn.op = .mzero) :
    s.matrixQueueOp c = some ((s.zeroStore (Loc.acc c op.va.toNat).key (256 * op.vb.toNat)).modCore c (fun k => { k with queue := rest })) := by
  simp only [State.matrixQueueOp, hq, hfree, Bool.false_eq_true, if_false, hop]

theorem zeroStore_read (hm : s.memWf = true) (k j a : Nat) :
    Memory.read (s.zeroStore k j).mem a = if k ≤ a ∧ a < k + j then 0 else Memory.read s.mem a := by
  refine (Memory.read_stored hm a).trans ?_
  rw [Nat.zero_div]
  rfl

theorem matrixTransfer_eq {x : Xfer} {rows : Option Nat} (hq : (s.core c).queue = op :: rest) (hid : op.id = oid)
    (hfree : s.heldBack c op = false) (hg : s.teams.find op.team = some g) (hplaced : g.placed = true) (hrun : s.running g.ctx = true)
    (hx : xferOf op.insn.op (op.vc.toNat % 2 ^ 32) = some x) : s.matrixTransfer c oid rows = some (s.xferRows c (rows.getD (x.rows + 2))) := by
  simp only [State.matrixTransfer, hq, hid, hfree, hg, hplaced, hrun, hx, Option.elim_some, Bool.and_self, Bool.false_eq_true,
    not_false_eq_true, and_self, if_true]

/-- A transfer whose rows are all done leaves the queue, with its flags and its status. -/
theorem xferRows_last {x : Xfer} (hq : (s.core c).queue = op :: rest) (hx : xferOf op.insn.op (op.vc.toNat % 2 ^ 32) = some x)
    (hrows : op.rows = x.rows) (hfail : op.fail = none) (hop : op.insn.op ≠ .mldt) : s.xferRows c (n + 1) =
      (let r := s.modCore c (fun k => { k with queue := rest })
       if op.taint then r else r.modTeam op.team (fun t => { t with flags := t.flags ||| op.flags })).landWord
        op.landing (if op.taint then 0 else match op.pline with
          | some l => statusWord 0x11 l op.flags.toNat
          | none => statusWord 0 0 op.flags.toNat) op.taint := by
  have hdrop : s.modCore c (fun k => { k with queue := k.queue.drop 1 }) = s.modCore c (fun k => { k with queue := rest }) :=
    modCore_congr (by rw [hq]; rfl)
  simp only [State.xferRows, hq, hx, hrows, le_refl, or_true, if_true, State.endXfer, hfail, Option.isSome_none, Bool.false_eq_true,
    if_false, if_neg hop, hdrop]
  cases op.pline <;> rfl

/-! INT8. -/
theorem sext_wrapN {v : Int} (h : -2 ^ 31 ≤ v) (h' : v < 2 ^ 31) : sext (wrapN v 32) 32 = v := by
  simp only [sext, wrapN]; norm_num at *; split <;> omega

theorem satS_eq_wrapN {v : Int} (h : -2 ^ 31 ≤ v) (h' : v < 2 ^ 31) : satS v 32 = wrapN v 32 := by
  have : max (-((2 ^ (32 - 1) : Nat) : Int)) (min v (((2 ^ (32 - 1) : Nat) : Int) - 1)) = v := by norm_num at *; omega
  simp only [satS, this]

/-- The products of row r of A and column c of B, up to k = n. -/
def dotInt (x : ChunkIn) (e : Nat → Nat → Elem) (r c n : Nat) : Int :=
  ((List.range n).map (fun k => (x.a r k).z * (e k c).z)).sum

theorem dotInt_add_four (x : ChunkIn) (e : Nat → Nat → Elem) (r c n : Nat) : dotInt x e r c (n + 4) = dotInt x e r c n +
    ((x.a r n).z * (e n c).z + (x.a r (n + 1)).z * (e (n + 1) c).z + (x.a r (n + 2)).z * (e (n + 2) c).z +
      (x.a r (n + 3)).z * (e (n + 3) c).z) := by
  simp [dotInt, List.range_succ]
  ring

theorem filter_range_eq {n c : Nat} (h : c < n) : (List.range n).filter (fun s => s == c) = [c] := by
  induction n with
  | zero => omega
  | succ n ih =>
    rw [List.range_succ, List.filter_append]
    rcases Nat.lt_succ_iff_lt_or_eq.1 h with h | rfl
    · have hne : (n == c) = false := by simp; omega
      simp [ih h, hne]
    · have hnone : (List.range c).filter (fun s => s == c) = [] := by
        rw [List.filter_eq_nil_iff]; intro a ha; rw [List.mem_range] at ha; simp; omega
      simp [hnone]

/-- One group of four products added to an accumulator word of integers. -/
def groupStep (x : ChunkIn) (r c : Nat) (acc : Nat × Bool × FlagSet) (g : Nat) : Nat × Bool × FlagSet :=
  [c].foldl (fun (acc : Nat × Bool × FlagSet) s =>
      let ks := (List.range 4).map (fun i => 4 * g + i)
      let prs := ks.filterMap (fun k => (x.b k s).map (fun e => (x.a r k, e)))
      if prs = [] then acc
      else
        let p := acc.2.1 || prs.any (fun q => q.1.p || q.2.p)
        if x.int8 then
          (satS (sext acc.1 32 + prs.foldl (fun n q => n + q.1.z * q.2.z) 0) 32, p, acc.2.2)
        else
          let y := accStep x.flush acc.1 (prs.map (fun q => (q.1.v, q.2.v)))
          (y.1, p, acc.2.2 ||| y.2)) acc

theorem word_eq {x : ChunkIn} {r c w : Nat} (hmap : x.cmap = (fun s => s)) (hc : c < 64) :
    x.word r c w false = let z := (List.range 16).foldl (groupStep x r c) (w, false, 0)
      if z.2.1 then (0, true, 0) else z := by
  simp only [ChunkIn.word, hmap, filter_range_eq hc]
  rfl

theorem groupStep_int8 {x : ChunkIn} {e : Nat → Nat → Elem} {r c w g : Nat} (h8 : x.int8 = true) (hg : g < 16)
    (hall : ∀ k, k < 64 → x.b k c = some (e k c) ∧ (e k c).p = false ∧ (x.a r k).p = false) :
    groupStep x r c (w, false, 0) g =
      (satS (sext w 32 + (dotInt x e r c (4 * (g + 1)) - dotInt x e r c (4 * g))) 32, false, 0) := by
  obtain ⟨h0, p0, q0⟩ := hall (4 * g) (by omega)
  obtain ⟨h1, p1, q1⟩ := hall (4 * g + 1) (by omega)
  obtain ⟨h2, p2, q2⟩ := hall (4 * g + 2) (by omega)
  obtain ⟨h3, p3, q3⟩ := hall (4 * g + 3) (by omega)
  have hks : (List.range 4).map (fun i => 4 * g + i) = [4 * g, 4 * g + 1, 4 * g + 2, 4 * g + 3] := rfl
  have hdot : dotInt x e r c (4 * (g + 1)) - dotInt x e r c (4 * g) = _ :=
    sub_eq_of_eq_add' (dotInt_add_four x e r c (4 * g))
  simp only [groupStep, List.foldl_cons, List.foldl_nil, hks, List.filterMap_cons, List.filterMap_nil, h0, h1, h2, h3, Option.map_some,
    h8, if_true, List.any_cons, List.any_nil, p0, p1, p2, p3, q0, q1, q2, q3, Bool.or_self, hdot, zero_add, reduceCtorEq, if_false]

theorem groupSteps_int8 {x : ChunkIn} {e : Nat → Nat → Elem} {r c w : Nat} (h8 : x.int8 = true) (hw : w < 2 ^ 32)
    (hall : ∀ k, k < 64 → x.b k c = some (e k c) ∧ (e k c).p = false ∧ (x.a r k).p = false)
    (hrange : ∀ n, n ≤ 16 → -2 ^ 31 ≤ sext w 32 + dotInt x e r c (4 * n) ∧ sext w 32 + dotInt x e r c (4 * n) < 2 ^ 31) :
    ∀ n, n ≤ 16 → (List.range n).foldl (groupStep x r c) (w, false, 0) = (wrapN (sext w 32 + dotInt x e r c (4 * n)) 32, false, 0)
  | 0, _ => by
    have : wrapN (sext w 32) 32 = w := by simp only [sext, wrapN]; norm_num at *; split <;> omega
    simp [dotInt, this]
  | n + 1, hn => by
    obtain ⟨hlo, hhi⟩ := hrange n (by omega)
    obtain ⟨hlo', hhi'⟩ := hrange (n + 1) hn
    have hsum : sext w 32 + dotInt x e r c (4 * n) + (dotInt x e r c (4 * (n + 1)) - dotInt x e r c (4 * n)) =
      sext w 32 + dotInt x e r c (4 * (n + 1)) := by ring
    rw [List.range_succ, List.foldl_append, groupSteps_int8 h8 hw hall hrange n (by omega), List.foldl_cons, List.foldl_nil,
      groupStep_int8 h8 (by omega) hall, sext_wrapN hlo hhi, hsum, satS_eq_wrapN hlo' hhi']


/-! Bytes of a number read from memory. -/

theorem byte_readN (m : Memory) {i : Nat} : ∀ {n k : Nat}, i < n → BitVec.ofNat 8 (Memory.readN m k n / 256 ^ i) = Memory.read m (k + i) := by
  induction i with
  | zero =>
    intro n k h
    obtain ⟨n, rfl⟩ : ∃ j, n = j + 1 := ⟨n - 1, by omega⟩
    simp only [Memory.readN, pow_zero, Nat.div_one, Nat.add_zero]
    apply BitVec.eq_of_toNat_eq
    have := (Memory.read m k).isLt
    rw [BitVec.toNat_ofNat]
    omega
  | succ i ih =>
    intro n k h
    obtain ⟨n, rfl⟩ : ∃ j, n = j + 1 := ⟨n - 1, by omega⟩
    have hdiv : ((Memory.read m k).toNat + 256 * Memory.readN m (k + 1) n) / 256 = Memory.readN m (k + 1) n := by
      have := (Memory.read m k).isLt
      omega
    rw [Memory.readN, pow_succ', ← Nat.div_div_eq_div_mul, hdiv, ih (by omega), Nat.add_right_comm, Nat.add_assoc]

theorem readN_of_bytes {m : Memory} {v : Nat} : ∀ {n k o : Nat}, (∀ i < n, Memory.read m (k + i) = BitVec.ofNat 8 (v / 256 ^ (o + i))) →
    Memory.readN m k n = v / 256 ^ o % 256 ^ n := by
  intro n
  induction n with
  | zero => intro k o _; simp [Memory.readN, Nat.mod_one]
  | succ n ih =>
    intro k o h
    have h0 := h 0 (by omega)
    have hrest : Memory.readN m (k + 1) n = v / 256 ^ (o + 1) % 256 ^ n :=
      ih (fun i hi => by have := h (i + 1) (by omega); rw [Nat.add_assoc, Nat.add_comm 1 i, this]; congr 3; omega)
    rw [Nat.add_zero, Nat.add_zero] at h0
    rw [Memory.readN, h0, hrest, BitVec.toNat_ofNat, pow_succ' 256 n, Nat.mod_mul, pow_succ 256 o, ← Nat.div_div_eq_div_mul]

theorem readN_add (m : Memory) (a b k : Nat) : Memory.readN m k (a + b) = Memory.readN m k a + 256 ^ a * Memory.readN m (k + a) b := by
  induction a generalizing k with
  | zero => simp [Memory.readN]
  | succ a ih =>
    rw [Nat.add_right_comm, Memory.readN, Memory.readN, ih, pow_succ', Nat.add_right_comm k 1 a]
    ring_nf

/-- The byte of a word cut out of a number. -/
theorem byte_of_word (v : Nat) {w i j : Nat} (hj : j < w) :
    BitVec.ofNat 8 (v / 256 ^ (w * i) % 256 ^ w / 256 ^ j) = BitVec.ofNat 8 (v / 256 ^ (w * i + j)) := by
  have hw : 256 ^ w = 256 ^ j * 256 ^ (w - j) := by rw [← pow_add]; congr 1; omega
  have hd : (256 : Nat) ∣ 256 ^ (w - j) := dvd_pow_self 256 (by omega)
  apply BitVec.eq_of_toNat_eq
  rw [BitVec.toNat_ofNat, BitVec.toNat_ofNat, hw, Nat.mod_mul_right_div_self, pow_add, ← Nat.div_div_eq_div_mul,
    Nat.mod_mod_of_dvd _ hd]

theorem poisonIn_part {p : NatSet} {k n j m : Nat} (h : poisonIn p k n = false) (hlo : k ≤ j) (hhi : j + m ≤ k + n) :
    poisonIn p j m = false := by
  rw [poisonIn, List.any_eq_false] at h ⊢
  intro x hx
  have := h x hx
  simp only [decide_eq_true_eq] at this ⊢
  omega

/-! Words written one after another. -/

/-- n words of w bytes written from a place on. -/
def State.storeWords (s : State) (k w : Nat) (f : Nat → Nat) (n : Nat) : State :=
  (List.range n).foldl (fun s i => s.writeStore (k + w * i) w (f i) false) s

theorem storeWords_succ (s : State) (k w : Nat) (f : Nat → Nat) (n : Nat) :
    s.storeWords k w f (n + 1) = (s.storeWords k w f n).writeStore (k + w * n) w (f n) false := by
  rw [State.storeWords, List.range_succ, List.foldl_append]
  rfl

theorem storeWords_cores (s : State) (k w : Nat) (f : Nat → Nat) (n : Nat) : (s.storeWords k w f n).cores = s.cores := by
  induction n with
  | zero => rfl
  | succ n ih => rw [storeWords_succ]; exact ih

theorem storeWords_memWf {k w : Nat} {f : Nat → Nat} (hm : s.memWf = true) (n : Nat) : (s.storeWords k w f n).memWf = true := by
  induction n with
  | zero => exact hm
  | succ n ih => rw [storeWords_succ]; exact State.writeStore_memWf _ _ _ _ ih

theorem storeWords_out {k w : Nat} {f : Nat → Nat} (hm : s.memWf = true) {n a : Nat} (h : ¬(k ≤ a ∧ a < k + w * n)) :
    Memory.read (s.storeWords k w f n).mem a = Memory.read s.mem a := by
  induction n with
  | zero => rfl
  | succ n ih =>
    rw [Nat.mul_succ] at h
    rw [storeWords_succ]
    exact (Memory.read_writeN_of_out (storeWords_memWf hm n) (by omega)).trans (ih (by omega))

theorem storeWords_in {k w : Nat} {f : Nat → Nat} (hm : s.memWf = true) {n i j : Nat} (hi : i < n) (hj : j < w) :
    Memory.read (s.storeWords k w f n).mem (k + w * i + j) = BitVec.ofNat 8 (f i / 256 ^ j) := by
  induction n with
  | zero => omega
  | succ n ih =>
    rw [storeWords_succ]
    rcases Nat.lt_succ_iff_lt_or_eq.1 hi with hlt | rfl
    · have hle : w * (i + 1) ≤ w * n := Nat.mul_le_mul_left w hlt
      rw [Nat.mul_succ] at hle
      exact (Memory.read_writeN_of_out (storeWords_memWf hm n) (by omega)).trans (ih hlt)
    · exact Memory.read_writeN (storeWords_memWf hm i) hj

theorem storeWords_word {k w : Nat} {f : Nat → Nat} (hm : s.memWf = true) {n i : Nat} (hi : i < n) :
    Memory.readN (s.storeWords k w f n).mem (k + w * i) w = f i % 256 ^ w := by
  have := readN_of_bytes (m := (s.storeWords k w f n).mem) (v := f i) (n := w) (k := k + w * i) (o := 0)
    (fun j hj => by rw [storeWords_in hm hi hj, Nat.zero_add])
  rw [this, pow_zero, Nat.div_one]

/-- A number written word by word. -/
theorem storeWords_number {k w v : Nat} (hm : s.memWf = true) (hw : 0 < w) {n : Nat} (a : Nat) :
    Memory.read (s.storeWords k w (fun i => v / 256 ^ (w * i) % 256 ^ w) n).mem a =
      if k ≤ a ∧ a < k + w * n then BitVec.ofNat 8 (v / 256 ^ (a - k)) else Memory.read s.mem a := by
  split
  · next hin =>
    obtain ⟨d, rfl⟩ := Nat.exists_eq_add_of_le hin.1
    have hd : w * (d / w) + d % w = d := Nat.div_add_mod d w
    have hmod := Nat.mod_lt d hw
    have hi : d / w < n := (Nat.div_lt_iff_lt_mul hw).2 (by rw [Nat.mul_comm]; omega)
    have := storeWords_in (s := s) (k := k) (f := fun i => v / 256 ^ (w * i) % 256 ^ w) hm hi hmod
    rw [byte_of_word v hmod, hd, Nat.add_assoc, hd] at this
    rw [this, Nat.add_sub_cancel_left]
  · next hout => exact storeWords_out hm hout

/-! Pieces of a row in the team's own window. -/

theorem windowKey_add {loc i : Nat} (h : s.windowKey u loc % 2 ^ 20 + i < 2 ^ 20) : s.windowKey u (loc + i) = s.windowKey u loc + i := by
  simp only [State.windowKey, Loc.key] at h ⊢
  omega

theorem pieceAcc_window {m : Nat} {need : Need} (hsp : Hnd.space h = 1) (hk : Hnd.kind h = 0 ∨ Hnd.kind h = 2)
    (hlim : off + m ≤ Hnd.limit h) : ∃ tag, s.pieceAcc u hi h off m need =
      .ok ⟨hi, h, 1, (s.coreOf u).getD 0, Hnd.base h + off, m, s.windowKey u (Hnd.base h + off), false, false, tag⟩ := by
  have hkind : (Hnd.kind h == 1) = false := by rcases hk with hk | hk <;> rw [hk] <;> rfl
  have hspot : ∃ tag, s.spotOf u { hidx := hi, spaces := [], kinds := [], size := m, align := 1, need } h off 0 =
      .ok ⟨hi, h, 1, (s.coreOf u).getD 0, (s.teamOf u).elim 0 (fun t => 64 * t.spbase), off, Hnd.base h + off, m, 1, tag, 1⟩ := by
    simp only [State.spotOf, hsp, hkind, Bool.and_false]
    exact ⟨_, rfl⟩
  obtain ⟨tag, hspot⟩ := hspot
  have halign : (Hnd.base h + off) % 1 = 0 ∧ off % 1 = 0 := ⟨Nat.mod_one _, Nat.mod_one _⟩
  refine ⟨tag, ?_⟩
  simp only [State.pieceAcc, hspot]
  simp only [bind, Except.bind, State.finishSpot, Spot.aligned, if_pos halign, Spot.bounded, if_pos hlim, State.addrOf]
  rfl

theorem rowPieces_cons_load {s0 : State} {o m data v : Nat} {bad p : List (Nat × Nat)} {rest : List (Nat × Nat)} (hsp : Hnd.space h = 1)
    (hk : Hnd.kind h = 0 ∨ Hnd.kind h = 2) (hlim : off + o + m ≤ Hnd.limit h)
    (hp : poisonIn s.poison (s.windowKey u (Hnd.base h + (off + o))) m = false) :
    s0.rowPieces oid u hi h off false data bad ((o, m) :: rest) s v p =
      s0.rowPieces oid u hi h off false data bad rest s (v + Memory.readN s.mem (s.windowKey u (Hnd.base h + (off + o))) m * 2 ^ (8 * o)) p := by
  obtain ⟨tag, ha⟩ := pieceAcc_window (s := s) (u := u) (hi := hi) (need := .rd) hsp hk hlim
  have hacc : ∀ a : Acc, a.space = 1 → a.addr = s.windowKey u (Hnd.base h + (off + o)) → a.size = m →
      s.engAccess (s.engReq oid u a .load) = .ok (Memory.readN s.mem (s.windowKey u (Hnd.base h + (off + o))) m) false s := by
    rintro a h1 h2 h3
    rw [← hp, ← h2, ← h3]
    simp only [State.engAccess, State.engReq, State.reqOf, h1]
    rfl
  rw [State.rowPieces]
  simp only [Bool.false_eq_true, if_false, ha]
  rw [hacc _ rfl rfl rfl]
  rfl

theorem rowPieces_cons_store {s0 : State} {o m data v : Nat} {p : List (Nat × Nat)} {rest : List (Nat × Nat)} (hsp : Hnd.space h = 1)
    (hk : Hnd.kind h = 0 ∨ Hnd.kind h = 2) (hlim : off + o + m ≤ Hnd.limit h) :
    s0.rowPieces oid u hi h off true data [] ((o, m) :: rest) s v p =
      s0.rowPieces oid u hi h off true data [] rest
        (s.writeStore (s.windowKey u (Hnd.base h + (off + o))) m (data / 2 ^ (8 * o) % 2 ^ (8 * m)) false) (v + 0 * 2 ^ (8 * o)) p := by
  obtain ⟨tag, ha⟩ := pieceAcc_window (s := s) (u := u) (hi := hi) (need := .wr) hsp hk hlim
  have hacc : ∀ a : Acc, a.space = 1 → a.addr = s.windowKey u (Hnd.base h + (off + o)) → a.size = m →
      ∀ d, s.engAccess (s.engReq oid u a (.store d false)) =
        .ok 0 false (s.writeStore (s.windowKey u (Hnd.base h + (off + o))) m d false) := by
    rintro a h1 h2 h3 d
    rw [← h2, ← h3]
    simp only [State.engAccess, State.engReq, State.reqOf, h1]
    rfl
  rw [State.rowPieces]
  simp only [if_true, ha, List.any_nil]
  rw [hacc _ rfl rfl rfl]
  rfl

theorem two_pow_eight_mul (n : Nat) : 2 ^ (8 * n) = 256 ^ n := by rw [pow_mul]; rfl

theorem rowPieces_load {s0 : State} {g base win n data : Nat} {bad : List (Nat × Nat)} (hg : 0 < g) (hsp : Hnd.space h = 1)
    (hk : Hnd.kind h = 0 ∨ Hnd.kind h = 2) (hlim : off + n ≤ Hnd.limit h) (hwin : s.windowKey u (Hnd.base h + off) = win)
    (hfit : win % 2 ^ 20 + n ≤ 2 ^ 20) (hp : poisonIn s.poison win n = false) : ∀ (k o v : Nat), n ≤ o + k → o ≤ n →
    s0.rowPieces oid u hi h off false data bad (rowCuts g base o n k) s v [] =
      .ok (v + 256 ^ o * Memory.readN s.mem (win + o) (n - o)) [] s
  | 0, o, v, hk0, ho => by
    have : n - o = 0 := by omega
    rw [rowCuts, State.rowPieces, this, Memory.readN, Nat.mul_zero, Nat.add_zero]
  | k + 1, o, v, hk1, ho => by
    rw [rowCuts]
    split
    · have : n - o = 0 := by omega
      rw [State.rowPieces, this, Memory.readN, Nat.mul_zero, Nat.add_zero]
    · next hlt =>
      generalize hm : min (n - o) (g - (base + o) % g) = m
      have hmod := Nat.mod_lt (base + o) hg
      have hpos : 0 < m := by omega
      have hle : o + m ≤ n := by omega
      have hkey : s.windowKey u (Hnd.base h + (off + o)) = win + o := by
        rw [← Nat.add_assoc, windowKey_add (by rw [hwin]; omega), hwin]
      rw [rowPieces_cons_load hsp hk (by omega) (by rw [hkey]; exact poisonIn_part hp (by omega) (by omega)), hkey,
        rowPieces_load hg hsp hk hlim hwin hfit hp k (o + m) _ (by omega) hle]
      have hsplit : n - o = m + (n - (o + m)) := by omega
      congr 1
      rw [hsplit, readN_add, two_pow_eight_mul, pow_add, Nat.add_assoc win o m, Nat.mul_add]
      ring_nf

theorem writeStore_windowKey (s : State) (k n v : Nat) (b : Bool) (u : Agent) (loc : Nat) :
    (s.writeStore k n v b).windowKey u loc = s.windowKey u loc := rfl

/-- A row written in pieces is the row written at once. -/
theorem rowPieces_store {s0 : State} {g base win n data : Nat} (hg : 0 < g) (hsp : Hnd.space h = 1)
    (hk : Hnd.kind h = 0 ∨ Hnd.kind h = 2) (hlim : off + n ≤ Hnd.limit h) (hfit : win % 2 ^ 20 + n ≤ 2 ^ 20) :
    ∀ (k o v : Nat) (s : State), s.windowKey u (Hnd.base h + off) = win → s.memWf = true → n ≤ o + k → o ≤ n →
    ∃ y z, s0.rowPieces oid u hi h off true data [] (rowCuts g base o n k) s v [] = .ok y [] z ∧ z.cores = s.cores ∧
      ∀ a, Memory.read z.mem a = if win + o ≤ a ∧ a < win + n then BitVec.ofNat 8 (data / 256 ^ (a - win)) else Memory.read s.mem a := by
  intro k
  induction k with
  | zero =>
    intro o v s hwin hwf hk0 ho
    refine ⟨v, s, ?_, rfl, fun a => (if_neg (by omega)).symm⟩
    rw [rowCuts, State.rowPieces]
  | succ k ih =>
    intro o v s hwin hwf hk1 ho
    rw [rowCuts]
    split
    · exact ⟨v, s, by rw [State.rowPieces], rfl, fun a => (if_neg (by omega)).symm⟩
    · next hlt =>
      generalize hm : min (n - o) (g - (base + o) % g) = m
      have hmod := Nat.mod_lt (base + o) hg
      have hpos : 0 < m := by omega
      have hle : o + m ≤ n := by omega
      have hkey : s.windowKey u (Hnd.base h + (off + o)) = win + o := by
        rw [← Nat.add_assoc, windowKey_add (by rw [hwin]; omega), hwin]
      rw [rowPieces_cons_store hsp hk (by omega), hkey]
      obtain ⟨y, z, hz, hcores, hread⟩ := ih (o + m) (v + 0 * 2 ^ (8 * o))
        (s.writeStore (win + o) m (data / 2 ^ (8 * o) % 2 ^ (8 * m)) false) hwin
        (State.writeStore_memWf _ _ _ _ hwf) (by omega) hle
      refine ⟨y, z, hz, hcores, fun a => ?_⟩
      rw [hread a]
      by_cases hrest : win + (o + m) ≤ a ∧ a < win + n
      · rw [if_pos hrest, if_pos (by omega)]
      · rw [if_neg hrest]
        refine (Memory.read_stored hwf a).trans ?_
        by_cases hin : win + o ≤ a ∧ a < win + o + m
        · obtain ⟨j, rfl⟩ := Nat.exists_eq_add_of_le hin.1
          have hbyte := byte_of_word (data / 256 ^ o) (w := m) (i := 0) (j := j) (by omega)
          rw [Nat.mul_zero, pow_zero, Nat.div_one, Nat.zero_add, Nat.div_div_eq_div_mul, ← pow_add] at hbyte
          rw [if_pos hin, if_pos (by omega), Nat.add_sub_cancel_left, two_pow_eight_mul, two_pow_eight_mul, hbyte]
          congr 3
          omega
        · rw [if_neg hin, if_neg (by omega)]


/-! What a transfer's control word gives. -/

/-- A row of bytes: MLDW, MLDT and MSTT. -/
structure Xfer.Bytes (x : Xfer) : Prop where
  store : x.store ≠ 2
  row : x.mrow = x.erow
  words : x.erow = 4 * (x.erow / 4)

theorem xferOf_bytes {i : Instr} {w : Nat} (hi : i = .mldw ∨ i = .mldt ∨ i = .mstt) (h : xferOf i w = some x) : x.Bytes := by
  have htile : ∀ (m f : Nat), 2 ≤ f → f ≤ 9 → tileRow (64 * (m + 1)) f = 4 * (tileRow (64 * (m + 1)) f / 4) := by
    intro m f h2 h9
    interval_cases f <;> simp only [tileRow, elemBits] <;> omega
  unfold xferOf at h
  split at h
  · cases h
  · rcases hi with rfl | rfl | rfl
    · cases h
      exact ⟨show (0 : Nat) ≠ 2 by decide, rfl, (by norm_num : 64 = 4 * (64 / 4))⟩
    all_goals
      simp only at h
      split at h
      · cases h
      · cases h
        exact ⟨show (1 : Nat) ≠ 2 by decide, rfl, htile _ _ (by omega) (by omega)⟩

/-- A row of accumulator words: MLDA and MSTA. -/
structure Xfer.Words (x : Xfer) : Prop where
  store : x.store = 2
  erow : x.erow = 256
  mrow : x.mrow = 64 * (x.mrow / 64)
  pos : 0 < x.mrow / 64
  le : x.mrow / 64 ≤ 4

theorem elemBits_words : ∀ f ∈ [0, 2, 3, 4, 5, 9, 10],
    8 * elemBits f = 64 * (8 * elemBits f / 64) ∧ 0 < 8 * elemBits f / 64 ∧ 8 * elemBits f / 64 ≤ 4 := by
  decide

/-- The bytes of an element of MSTA's formats. -/
theorem elemBits_width : ∀ f ∈ [0, 2, 3, 4, 5, 9, 10], (f = 9 → 8 * elemBits f / 64 = 1) ∧ (f = 0 ∨ f = 10 → 8 * elemBits f / 64 = 4) ∧
    (f ≠ 9 ∧ ¬(f = 0 ∨ f = 10) → (fmtOf f).width = 8 * (8 * elemBits f / 64)) := by
  decide

theorem xferOf_mlda {w : Nat} (h : xferOf .mlda w = some x) : x.Words := by
  unfold xferOf at h
  split at h
  · cases h
  · simp only [if_true] at h
    split at h
    · cases h
    · next hf =>
      cases h
      rw [not_not] at hf
      obtain ⟨h1, h2, h3⟩ := elemBits_words _ ((show [0, 2, 3, 10] ⊆ [0, 2, 3, 4, 5, 9, 10] by decide) hf)
      exact ⟨rfl, rfl, h1, h2, h3⟩

theorem xferOf_msta {w : Nat} (h : xferOf .msta w = some x) :
    x.Words ∧ (x.fmt = 9 → x.mrow / 64 = 1) ∧ (x.fmt = 0 ∨ x.fmt = 10 → x.mrow / 64 = 4) ∧
      (x.fmt ≠ 9 ∧ ¬(x.fmt = 0 ∨ x.fmt = 10) → (fmtOf x.fmt).width = 8 * (x.mrow / 64)) := by
  unfold xferOf at h
  split at h
  · cases h
  · simp only [reduceCtorEq, if_false] at h
    split at h
    · cases h
    · next hf =>
      cases h
      rw [not_not] at hf
      obtain ⟨h1, h2, h3⟩ := elemBits_words _ hf
      exact ⟨⟨rfl, rfl, h1, h2, h3⟩, elemBits_width _ hf⟩

/-! Conversions give patterns of their format's width. -/

theorem Fmt.maxBits_lt {f : Fmt} (hf : f.Ok) : f.maxBits < 2 ^ (f.eb + f.mb) :=
  fields_lt (maxField_lt hf) (by have := maxM_lt (f := f); have := two_pow_p (f := f); omega)

theorem Fmt.infBits_lt {f : Fmt} : f.infBits < 2 ^ (f.eb + f.mb) := by
  have := fields_lt (f := f) (E := 2 ^ f.eb - 1) (F := 0) (Nat.sub_lt (Nat.two_pow_pos _) one_pos) (Nat.two_pow_pos _)
  simpa [infBits] using this

theorem Fmt.nanBits_lt {f : Fmt} (hf : f.Ok) : f.nanBits < 2 ^ (f.eb + f.mb) := by
  unfold nanBits
  split
  · have hm : 2 ^ (f.mb - 1) < 2 ^ f.mb := Nat.pow_lt_pow_right (by omega) (by have := hf.mb; omega)
    exact fields_lt (Nat.sub_lt (Nat.two_pow_pos _) one_pos) hm
  · exact Nat.sub_lt (Nat.two_pow_pos _) one_pos
  · exact Nat.two_pow_pos _

theorem Fmt.round_bits_lt {f : Fmt} (hf : f.Ok) (mode : Nat) (neg : Bool) (m : Nat) (k : Int) : (f.round mode neg m k).bits < 2 ^ f.width := by
  by_cases hm : m = 0
  · rw [hm, round_zero]
    exact signBit_add_lt (x := 0) neg (Nat.two_pow_pos _)
  · by_cases hbig : f.TooBig (f.significand mode neg m k * 2 ^ f.spacing m k)
    · rw [round_of_tooBig hf hm hbig]
      simp only [overflow]
      refine signBit_add_lt neg ?_
      split
      · exact infBits_lt
      · exact maxBits_lt hf
    · rw [round_of_not_tooBig hf hm hbig]
      exact ((sig_significand f mode neg hm k).decode_pack hf neg hbig).1

theorem cvtFF_bits_lt (src : Fmt) {dst : Fmt} (hf : dst.Ok) (v : Nat) : (cvtFF src dst v).bits < 2 ^ dst.width := by
  have hlt : ∀ y, y < 2 ^ (dst.eb + dst.mb) → y < 2 ^ dst.width := fun y hy => by
    simpa [Fmt.signBit] using Fmt.signBit_add_lt (f := dst) false hy
  unfold cvtFF
  split
  · split
    · exact Nat.two_pow_pos _
    · exact hlt _ (Fmt.nanBits_lt hf)
  · split
    · exact Fmt.signBit_add_lt _ Fmt.infBits_lt
    · exact Fmt.signBit_add_lt _ (Fmt.maxBits_lt hf)
  · exact Fmt.round_bits_lt hf _ _ _ _

theorem wrapN_lt (v : Int) (n : Nat) : wrapN v n < 2 ^ n := by
  have h0 : (0 : Int) < (2 ^ n : Nat) := by positivity
  have := Int.emod_lt_of_pos v h0
  have := Int.emod_nonneg v h0.ne'
  rw [wrapN]
  omega

/-! A row into the engine and out of it. -/

theorem Xfer.loc_add {i : Nat} (h : x.loc c e % 2 ^ 20 + i < 2 ^ 20) : x.loc c (e + i) = x.loc c e + i := by
  unfold Xfer.loc at h ⊢
  split_ifs at h ⊢ <;> simp only [Loc.key] at h ⊢ <;> omega

theorem foldl_congr_mem {α β : Type} {f g : α → β → α} : ∀ {l : List β} {a : α}, (∀ b ∈ l, ∀ a, f a b = g a b) → l.foldl f a = l.foldl g a
  | [], _, _ => rfl
  | b :: l, a, h => by
    rw [List.foldl_cons, List.foldl_cons, h b (List.mem_cons_self ..), foldl_congr_mem (fun b hb => h b (List.mem_cons_of_mem _ hb))]

theorem foldl_fst {α β γ : Type} {f : α × β → γ → α × β} {g : α → γ → α} (h : ∀ a c, (f a c).1 = g a.1 c) :
    ∀ (l : List γ) (a : α × β), (l.foldl f a).1 = l.foldl g a.1
  | [], _ => rfl
  | c :: l, a => by rw [List.foldl_cons, List.foldl_cons, foldl_fst h l, h]

theorem engineRow_bytes {data : Nat} (hx : x.Bytes) (hfit : x.loc c e % 2 ^ 20 + x.erow ≤ 2 ^ 20) :
    (s.engineRow x c e data []).1 = s.storeWords (x.loc c e) 4 (fun i => data / 256 ^ (4 * i) % 256 ^ 4) (x.erow / 4) := by
  have hwords := hx.words
  rw [State.engineRow, if_neg hx.store]
  refine foldl_congr_mem (fun i hi a => ?_)
  rw [List.mem_range] at hi
  have hpow : (2 : Nat) ^ (32 * i) = 256 ^ (4 * i) := by rw [← two_pow_eight_mul, ← Nat.mul_assoc]
  rw [Xfer.loc_add (by omega), hpow]
  rfl

/-- What MLDA writes of a word of a row. -/
def mldaWord (x : Xfer) (v : Nat) : Nat := if x.fmt = 2 ∨ x.fmt = 3 then (cvtFF (fmtOf x.fmt) binary32 v).bits else v

theorem engineRow_words {data : Nat} (hx : x.Words) (hfit : x.loc c e % 2 ^ 20 + x.erow ≤ 2 ^ 20) :
    (s.engineRow x c e data []).1 =
      s.storeWords (x.loc c e) 4 (fun i => mldaWord x (data / 256 ^ (x.mrow / 64 * i) % 256 ^ (x.mrow / 64))) 64 := by
  have hrow := hx.erow
  rw [State.engineRow, if_pos hx.store]
  refine (foldl_fst (g := fun (s : State) i => s.writeStore (x.loc c (e + 4 * i)) 4
    (mldaWord x (data / 256 ^ (x.mrow / 64 * i) % 256 ^ (x.mrow / 64))) false) (fun a i => ?_) _ _).trans
    (foldl_congr_mem (fun i hi a => ?_))
  · have hpow : (2 : Nat) ^ (8 * (x.mrow / 64) * i) = 256 ^ (x.mrow / 64 * i) := by rw [Nat.mul_assoc, two_pow_eight_mul]
    have hcond : (x.fmt == 2 || x.fmt == 3) = decide (x.fmt = 2 ∨ x.fmt = 3) := by rw [Bool.decide_or]; rfl
    simp only [hit, List.any_nil, Bool.not_false, Bool.true_and, hpow, two_pow_eight_mul, mldaWord, hcond, decide_eq_true_eq, apply_ite FRes.bits]
  · rw [List.mem_range] at hi
    rw [Xfer.loc_add (by omega)]

/-- What MSTA takes of an accumulator word. -/
def mstaWord (x : Xfer) (v : Nat) : Nat :=
  if x.fmt = 9 then satS (sext v 32) 8 else if x.fmt = 0 ∨ x.fmt = 10 then v else (cvtFF binary32 (fmtOf x.fmt) v).bits

/-- The row that MSTA writes: its elements side by side. -/
def mstaRow (x : Xfer) (f : Nat → Nat) (n : Nat) : Nat :=
  (List.range n).foldl (fun a i => a + mstaWord x (f i) * 256 ^ (x.mrow / 64 * i)) 0

theorem memoryRow_bytes (hx : x.Bytes) (hfit : x.loc c e % 2 ^ 20 + x.erow ≤ 2 ^ 20) (hp : poisonIn s.poison (x.loc c e) x.erow = false) :
    s.memoryRow x c e = (Memory.readN s.mem (x.loc c e) x.erow, [], 0) := by
  have hwords := hx.words
  have hclean : (List.range (x.erow / 4)).filter (fun i => (s.readStore (x.loc c (e + 4 * i)) 4).2) = [] := by
    rw [List.filter_eq_nil_iff]
    intro i hi
    rw [List.mem_range] at hi
    rw [Xfer.loc_add (by omega), Bool.not_eq_true]
    exact poisonIn_part hp (by omega) (by omega)
  simp only [State.memoryRow, if_neg hx.store, hclean, List.map_nil]
  rfl

/-- One accumulator word taken into a row. -/
def State.takeWord (s : State) (x : Xfer) (c e : Nat) (a : Nat × List (Nat × Nat) × FlagSet) (i : Nat) : Nat × List (Nat × Nat) × FlagSet :=
  let w := x.mrow / 64
  let q := s.readStore (x.loc c (e + 4 * i)) 4
  let r : FRes :=
    if q.2 then ⟨0, 0⟩
    else if x.fmt = 9 then ⟨satS (sext q.1 32) 8, 0⟩
    else if x.fmt = 0 ∨ x.fmt = 10 then ⟨q.1, 0⟩
    else cvtFF binary32 (fmtOf x.fmt) q.1
  (a.1 + r.bits * 2 ^ (8 * w * i), (if q.2 then a.2.1 ++ [(w * i, w * i + w)] else a.2.1), a.2.2 ||| r.flags)

theorem mstaRow_succ (x : Xfer) (f : Nat → Nat) (n : Nat) :
    mstaRow x f (n + 1) = mstaRow x f n + mstaWord x (f n) * 256 ^ (x.mrow / 64 * n) := by
  rw [mstaRow, List.range_succ, List.foldl_append]
  rfl

theorem takeWord_clean {a : Nat} {fl : FlagSet} {n : Nat} (hx : x.Words) (hfit : x.loc c e % 2 ^ 20 + x.erow ≤ 2 ^ 20)
    (hp : poisonIn s.poison (x.loc c e) x.erow = false) (hn : n < 64) : ∃ fl', s.takeWord x c e (a, [], fl) n =
      (a + mstaWord x (Memory.readN s.mem (x.loc c e + 4 * n) 4) * 256 ^ (x.mrow / 64 * n), [], fl') := by
  have hrow := hx.erow
  have hclean : s.readStore (x.loc c (e + 4 * n)) 4 = (Memory.readN s.mem (x.loc c e + 4 * n) 4, false) := by
    rw [Xfer.loc_add (by omega), State.readStore, poisonIn_part hp (by omega) (by omega)]
  have hpow : (2 : Nat) ^ (8 * (x.mrow / 64) * n) = 256 ^ (x.mrow / 64 * n) := by rw [Nat.mul_assoc, two_pow_eight_mul]
  simp only [State.takeWord, hclean, hpow, Bool.false_eq_true, if_false, apply_ite FRes.bits, mstaWord]
  exact ⟨_, rfl⟩

theorem memoryRow_words (hx : x.Words) (hfit : x.loc c e % 2 ^ 20 + x.erow ≤ 2 ^ 20) (hp : poisonIn s.poison (x.loc c e) x.erow = false) :
    ∃ fl, s.memoryRow x c e = (mstaRow x (fun i => Memory.readN s.mem (x.loc c e + 4 * i) 4) 64, [], fl) := by
  have hfold : ∀ n ≤ 64, ∃ fl, (List.range n).foldl (s.takeWord x c e) (0, [], 0) =
      (mstaRow x (fun i => Memory.readN s.mem (x.loc c e + 4 * i) 4) n, [], fl) := by
    intro n
    induction n with
    | zero => exact fun _ => ⟨0, rfl⟩
    | succ n ih =>
      intro hn
      obtain ⟨fl, hfl⟩ := ih (by omega)
      obtain ⟨fl', hfl'⟩ := takeWord_clean (a := mstaRow x (fun i => Memory.readN s.mem (x.loc c e + 4 * i) 4) n) (fl := fl) hx hfit hp hn
      exact ⟨fl', by rw [List.range_succ, List.foldl_append, hfl, List.foldl_cons, List.foldl_nil, hfl', mstaRow_succ]⟩
  obtain ⟨fl, hfl⟩ := hfold 64 (le_refl _)
  rw [State.memoryRow, if_pos hx.store]
  exact ⟨fl, hfl⟩

theorem mstaWord_lt {v : Nat} (hv : v < 2 ^ 32) (h9 : x.fmt = 9 → x.mrow / 64 = 1) (h0 : x.fmt = 0 ∨ x.fmt = 10 → x.mrow / 64 = 4)
    (hf : x.fmt ≠ 9 ∧ ¬(x.fmt = 0 ∨ x.fmt = 10) → (fmtOf x.fmt).width = 8 * (x.mrow / 64)) :
    mstaWord x v < 256 ^ (x.mrow / 64) := by
  unfold mstaWord
  split
  · next h => rw [h9 h]; exact wrapN_lt _ 8
  · next hne =>
    split
    · next h => rw [h0 h]; exact hv
    · next h =>
      rw [← two_pow_eight_mul, ← hf ⟨hne, h⟩]
      exact cvtFF_bits_lt _ (fmtOf_ok _) v

theorem mstaRow_lt {f : Nat → Nat} (hlt : ∀ i, mstaWord x (f i) < 256 ^ (x.mrow / 64)) (n : Nat) : mstaRow x f n < 256 ^ (x.mrow / 64 * n) := by
  induction n with
  | zero => exact Nat.one_pos
  | succ n ih =>
    rw [mstaRow_succ, Nat.mul_succ, pow_add]
    have hmul := Nat.mul_le_mul_right (256 ^ (x.mrow / 64 * n)) (Nat.succ_le_of_lt (hlt n))
    rw [Nat.succ_mul] at hmul
    rw [Nat.mul_comm (256 ^ (x.mrow / 64 * n))]
    omega

theorem mstaRow_word {f : Nat → Nat} (hlt : ∀ i, mstaWord x (f i) < 256 ^ (x.mrow / 64)) {n i : Nat} (hi : i < n) :
    mstaRow x f n / 256 ^ (x.mrow / 64 * i) % 256 ^ (x.mrow / 64) = mstaWord x (f i) := by
  induction n with
  | zero => omega
  | succ n ih =>
    rw [mstaRow_succ]
    rcases Nat.lt_succ_iff_lt_or_eq.1 hi with h | rfl
    · have hsplit : 256 ^ (x.mrow / 64 * n) = 256 ^ (x.mrow / 64 * i) * (256 ^ (x.mrow / 64) * 256 ^ (x.mrow / 64 * (n - (i + 1)))) := by
        have hn : n = i + (1 + (n - (i + 1))) := by omega
        conv_lhs => rw [hn, Nat.mul_add, Nat.mul_add, Nat.mul_one, pow_add, pow_add]
      rw [hsplit, Nat.mul_left_comm, Nat.add_mul_div_left _ _ (Nat.pow_pos (by decide)), Nat.mul_left_comm, Nat.add_mul_mod_self_left, ih h]
    · rw [Nat.add_mul_div_right _ _ (Nat.pow_pos (by decide)), Nat.div_eq_of_lt (mstaRow_lt hlt i), Nat.zero_add, Nat.mod_eq_of_lt (hlt i)]


/-! A transfer goes on by rows, and ends. -/

theorem core_modCore (s : State) (c : Nat) (f : Core → Core) : (s.modCore c f).core c = f (s.core c) := by
  rw [State.core, State.modCore_cores, Assoc.get_put_self]

theorem modHead_queue {f : MatOp → MatOp} (hq : (s.core c).queue = op :: rest) : ((s.modHead c f).core c).queue = f op :: rest := by
  rw [State.modHead, core_modCore, hq]

theorem modHead_mem (f : MatOp → MatOp) : (s.modHead c f).mem = s.mem := rfl

/-- What the row of a transfer leaves: its operation has one row more behind it. -/
def AfterRow (s r z : State) (c : Nat) : Prop := r.mem = z.mem ∧ (r.core c).queue.head?.map (·.rows) = (s.core c).queue.head?.map (·.rows + 1)

theorem afterRow_modHead {f : MatOp → MatOp} (hq : (s.core c).queue = op :: rest) (hz : (z.core c).queue = op :: rest)
    (hf : (f op).rows = op.rows + 1) : AfterRow s (z.modHead c f) z c := by
  refine ⟨rfl, ?_⟩
  rw [modHead_queue hz, hq, List.head?_cons, List.head?_cons, Option.map_some, Option.map_some, hf]

theorem tileWritten_queue (s : State) (c lo hi : Nat) : ((s.tileWritten c lo hi).core c).queue = (s.core c).queue := by
  rw [State.tileWritten, core_modCore]

/-- The handle of a transfer, and the offset of its next row. -/
abbrev State.xferHnd (s : State) (op : MatOp) : Handle := s.handleOf (.ex op.team op.tid) op.insn.args.x8.toNat

abbrev State.xferOff (s : State) (op : MatOp) (x : Xfer) : Nat := op.vb.toNat + op.rows * x.step (s.xferHnd op)

theorem xferOf_instr {i : Instr} {w : Nat} (h : xferOf i w = some x) : i = .mldw ∨ i = .mldt ∨ i = .mstt ∨ i = .mlda ∨ i = .msta := by
  unfold xferOf at h
  split at h
  · cases h
  · split at h <;> simp_all

/-- A row that goes into the engine. -/
theorem xferRows_load {data : Nat} (hq : (s.core c).queue = op :: rest) (hx : xferOf op.insn.op (op.vc.toNat % 2 ^ 32) = some x)
    (hfail : op.fail = none) (hrow : op.rows < x.rows) (hload : xferLoads op.insn.op = true)
    (hread : s.rowAccess op.id (.ex op.team op.tid) op.insn.args.x8.toNat (s.xferHnd op) (s.xferOff op x) x.mrow false 0 [] = .ok data [] s)
    (hcores : ∀ t : State, (t.engineRow x c (op.va.toNat + op.rows * x.erow) data []).1.cores = t.cores) :
    ∃ t : State, t.mem = s.mem ∧ AfterRow s (s.xferRows c 1) (t.engineRow x c (op.va.toNat + op.rows * x.erow) data []).1 c := by
  have hrow' : ¬x.rows ≤ op.rows := by omega
  refine ⟨if x.store = 1 then s.tileWritten c (op.va.toNat + op.rows * x.erow) (op.va.toNat + op.rows * x.erow + x.erow) else s, ?_, ?_⟩
  · split <;> rfl
  · simp only [State.xferRows, hq, hx, hfail, Option.isSome_none, Bool.false_eq_true, hrow', or_self, if_false, hload, if_true, hread]
    refine afterRow_modHead hq ?_ rfl
    rw [State.core, hcores, ← State.core]
    split
    · rw [tileWritten_queue, hq]
    · exact hq

/-- A row that goes out to memory. -/
theorem xferRows_store {data y : Nat} {fl : FlagSet} (hq : (s.core c).queue = op :: rest)
    (hx : xferOf op.insn.op (op.vc.toNat % 2 ^ 32) = some x) (hfail : op.fail = none) (hrow : op.rows < x.rows)
    (hload : xferLoads op.insn.op = false) (hmem : s.memoryRow x c (op.va.toNat + op.rows * x.erow) = (data, [], fl))
    (hkind : Hnd.kind (s.xferHnd op) ≠ 3)
    (hwrite : s.rowAccess op.id (.ex op.team op.tid) op.insn.args.x8.toNat (s.xferHnd op) (s.xferOff op x) x.mrow true data [] = .ok y [] z)
    (hcores : z.cores = s.cores) : AfterRow s (s.xferRows c 1) z c := by
  have hrow' : ¬x.rows ≤ op.rows := by omega
  simp only [State.xferRows, hq, hx, hfail, Option.isSome_none, Bool.false_eq_true, hrow', or_self, if_false, hload, hmem, Hnd.shadow,
    if_neg hkind, hwrite]
  refine afterRow_modHead hq ?_ rfl
  rw [State.core, hcores, ← State.core, hq]

theorem readN_lt_pow (m : Memory) (k n : Nat) : Memory.readN m k n < 256 ^ n := by
  induction n generalizing k with
  | zero => exact Nat.one_pos
  | succ n ih =>
    have := ih (k + 1)
    have := (Memory.read m k).isLt
    rw [Memory.readN, pow_succ]
    omega

/-- Word i of a row read whole. -/
theorem readN_part {m : Memory} {k r w i : Nat} (hr : r = 64 * w) (hi : i < 64) :
    Memory.readN m k r / 256 ^ (w * i) % 256 ^ w = Memory.readN m (k + w * i) w := by
  have hle : w * (i + 1) ≤ w * 64 := Nat.mul_le_mul_left _ hi
  rw [Nat.mul_succ] at hle
  exact (readN_of_bytes fun j hj => by rw [Nat.add_assoc, byte_readN m (by omega)]).symm

theorem poisonGrain_pos (h : Handle) : 0 < poisonGrain h := by
  unfold poisonGrain
  split <;> decide

theorem rowAccess_load {u : Agent} {h : Handle} {hi off : Nat} (hsp : Hnd.space h = 1) (hk : Hnd.kind h = 0 ∨ Hnd.kind h = 2)
    (hlim : off + n ≤ Hnd.limit h) (hwin : s.windowKey u (Hnd.base h + off) = win) (hfit : win % 2 ^ 20 + n ≤ 2 ^ 20)
    (hp : poisonIn s.poison win n = false) : s.rowAccess oid u hi h off n false 0 [] = .ok (Memory.readN s.mem win n) [] s := by
  refine (rowPieces_load (poisonGrain_pos h) hsp hk hlim hwin hfit hp n 0 0 (by omega) (by omega)).trans ?_
  rw [pow_zero, Nat.zero_add, Nat.one_mul, Nat.add_zero, Nat.sub_zero]

theorem rowAccess_store {u : Agent} {h : Handle} {hi off data : Nat} (hm : s.memWf = true) (hsp : Hnd.space h = 1)
    (hk : Hnd.kind h = 0 ∨ Hnd.kind h = 2) (hlim : off + n ≤ Hnd.limit h) (hwin : s.windowKey u (Hnd.base h + off) = win)
    (hfit : win % 2 ^ 20 + n ≤ 2 ^ 20) : ∃ y z, s.rowAccess oid u hi h off n true data [] = .ok y [] z ∧ z.cores = s.cores ∧
      ∀ a, Memory.read z.mem a = if win ≤ a ∧ a < win + n then BitVec.ofNat 8 (data / 256 ^ (a - win)) else Memory.read s.mem a :=
  rowPieces_store (poisonGrain_pos h) hsp hk hlim hfit n 0 0 s hwin hm (by omega) (by omega)

/-- A number that stands in memory, at another place. -/
theorem moved_iff {m : Memory} {src dst k : Nat} (r : Memory)
    (h : ∀ a, Memory.read r a = if dst ≤ a ∧ a < dst + k then BitVec.ofNat 8 (Memory.readN m src k / 256 ^ (a - dst)) else Memory.read m a) (a : Nat) :
    Memory.read r a = if dst ≤ a ∧ a < dst + k then Memory.read m (src + (a - dst)) else Memory.read m a := by
  rw [h a]
  split
  · exact byte_readN m (by omega)
  · rfl

/-- The next row of the transfer at the head of a core's queue, between the team's window and the engine, both clean. -/
structure State.RowAt (s : State) (c : Nat) (op : MatOp) (rest : List MatOp) (x : Xfer) (win eng : Nat) : Prop where
  wf : s.memWf = true
  queue : (s.core c).queue = op :: rest
  xfer : xferOf op.insn.op (op.vc.toNat % 2 ^ 32) = some x
  fail : op.fail = none
  rows : op.rows < x.rows
  space : Hnd.space (s.xferHnd op) = 1
  kind : Hnd.kind (s.xferHnd op) = 0 ∨ Hnd.kind (s.xferHnd op) = 2
  limit : s.xferOff op x + x.mrow ≤ Hnd.limit (s.xferHnd op)
  winAt : s.windowKey (.ex op.team op.tid) (Hnd.base (s.xferHnd op) + s.xferOff op x) = win
  engAt : x.loc c (op.va.toNat + op.rows * x.erow) = eng
  wfit : win % 2 ^ 20 + x.mrow ≤ 2 ^ 20
  efit : eng % 2 ^ 20 + x.erow ≤ 2 ^ 20
  wclean : poisonIn s.poison win x.mrow = false
  eclean : poisonIn s.poison eng x.erow = false

section
variable (hr : s.RowAt c op rest x win eng)
include hr

theorem State.RowAt.kind_ne : Hnd.kind (s.xferHnd op) ≠ 3 := by
  have := hr.kind
  omega

/-- MLDW and MLDT bring the row into the engine as it stands. -/
theorem xferRow_load_bytes (hload : xferLoads op.insn.op = true) (hb : x.Bytes) : ∃ z, AfterRow s (s.xferRows c 1) z c ∧
    ∀ a, Memory.read z.mem a = if eng ≤ a ∧ a < eng + x.mrow then Memory.read s.mem (win + (a - eng)) else Memory.read s.mem a := by
  have hread := rowAccess_load (oid := op.id) (hi := op.insn.args.x8.toNat) hr.space hr.kind hr.limit hr.winAt hr.wfit hr.wclean
  have hfit : x.loc c (op.va.toNat + op.rows * x.erow) % 2 ^ 20 + x.erow ≤ 2 ^ 20 := by rw [hr.engAt]; exact hr.efit
  obtain ⟨t, htmem, hafter⟩ := xferRows_load hr.queue hr.xfer hr.fail hr.rows hload hread
    (fun t => by rw [engineRow_bytes hb hfit, storeWords_cores])
  refine ⟨_, hafter, moved_iff _ fun a => ?_⟩
  have hwords := hb.words
  have hmr := hb.row
  have htm : t.memWf = true := by rw [State.memWf, htmem]; exact hr.wf
  rw [engineRow_bytes hb hfit, storeWords_number htm (by decide), htmem, hmr, ← hwords, hr.engAt]

omit hr in
theorem mldaWord_lt {v w : Nat} (hv : v < 256 ^ w) (hw : w ≤ 4) : mldaWord x v < 256 ^ 4 := by
  unfold mldaWord
  split
  · exact cvtFF_bits_lt _ (fmtOf_ok 0) v
  · exact hv.trans_le (Nat.pow_le_pow_right (by decide) hw)

/-- MLDA brings a row's elements into accumulator words. -/
theorem xferRow_load_words (hload : xferLoads op.insn.op = true) (hw : x.Words) : ∃ z, AfterRow s (s.xferRows c 1) z c ∧
    (∀ a, ¬(eng ≤ a ∧ a < eng + 256) → Memory.read z.mem a = Memory.read s.mem a) ∧
    ∀ i < 64, Memory.readN z.mem (eng + 4 * i) 4 = mldaWord x (Memory.readN s.mem (win + x.mrow / 64 * i) (x.mrow / 64)) := by
  have hread := rowAccess_load (oid := op.id) (hi := op.insn.args.x8.toNat) hr.space hr.kind hr.limit hr.winAt hr.wfit hr.wclean
  have hfit : x.loc c (op.va.toNat + op.rows * x.erow) % 2 ^ 20 + x.erow ≤ 2 ^ 20 := by rw [hr.engAt]; exact hr.efit
  obtain ⟨t, htmem, hafter⟩ := xferRows_load hr.queue hr.xfer hr.fail hr.rows hload hread
    (fun t => by rw [engineRow_words hw hfit, storeWords_cores])
  have htm : t.memWf = true := by rw [State.memWf, htmem]; exact hr.wf
  refine ⟨_, hafter, fun a ha => ?_, fun i hi => ?_⟩
  · rw [engineRow_words hw hfit, hr.engAt, storeWords_out htm ha, htmem]
  · rw [engineRow_words hw hfit, hr.engAt, storeWords_word htm hi, readN_part hw.mrow hi,
      Nat.mod_eq_of_lt (mldaWord_lt (readN_lt_pow _ _ _) hw.le)]

/-- MSTT writes the row to memory as it stands. -/
theorem xferRow_store_bytes (hload : xferLoads op.insn.op = false) (hb : x.Bytes) : ∃ z, AfterRow s (s.xferRows c 1) z c ∧
    ∀ a, Memory.read z.mem a = if win ≤ a ∧ a < win + x.mrow then Memory.read s.mem (eng + (a - win)) else Memory.read s.mem a := by
  have hfit : x.loc c (op.va.toNat + op.rows * x.erow) % 2 ^ 20 + x.erow ≤ 2 ^ 20 := by rw [hr.engAt]; exact hr.efit
  have hrow := memoryRow_bytes hb hfit (by rw [hr.engAt]; exact hr.eclean)
  obtain ⟨y, z, hwrite, hcores, hz⟩ := rowAccess_store (oid := op.id) (hi := op.insn.args.x8.toNat)
    (data := Memory.readN s.mem (x.loc c (op.va.toNat + op.rows * x.erow)) x.erow) hr.wf hr.space hr.kind hr.limit hr.winAt hr.wfit
  refine ⟨z, xferRows_store hr.queue hr.xfer hr.fail hr.rows hload hrow hr.kind_ne hwrite hcores, moved_iff _ fun a => ?_⟩
  rw [hz a, hr.engAt, hb.row]

/-- MSTA writes a row of elements to memory. -/
theorem xferRow_store_words (hload : xferLoads op.insn.op = false) (hw : x.Words) (h9 : x.fmt = 9 → x.mrow / 64 = 1)
    (h0 : x.fmt = 0 ∨ x.fmt = 10 → x.mrow / 64 = 4)
    (hf : x.fmt ≠ 9 ∧ ¬(x.fmt = 0 ∨ x.fmt = 10) → (fmtOf x.fmt).width = 8 * (x.mrow / 64)) : ∃ z, AfterRow s (s.xferRows c 1) z c ∧
    (∀ a, ¬(win ≤ a ∧ a < win + x.mrow) → Memory.read z.mem a = Memory.read s.mem a) ∧
    ∀ i < 64, Memory.readN z.mem (win + x.mrow / 64 * i) (x.mrow / 64) = mstaWord x (Memory.readN s.mem (eng + 4 * i) 4) := by
  have hfit : x.loc c (op.va.toNat + op.rows * x.erow) % 2 ^ 20 + x.erow ≤ 2 ^ 20 := by rw [hr.engAt]; exact hr.efit
  obtain ⟨fl, hrow⟩ := memoryRow_words hw hfit (by rw [hr.engAt]; exact hr.eclean)
  obtain ⟨y, z, hwrite, hcores, hz⟩ := rowAccess_store (oid := op.id) (hi := op.insn.args.x8.toNat)
    (data := mstaRow x (fun i => Memory.readN s.mem (x.loc c (op.va.toNat + op.rows * x.erow) + 4 * i) 4) 64)
    hr.wf hr.space hr.kind hr.limit hr.winAt hr.wfit
  refine ⟨z, xferRows_store hr.queue hr.xfer hr.fail hr.rows hload hrow hr.kind_ne hwrite hcores, fun a ha => ?_, fun i hi => ?_⟩
  · rw [hz a, if_neg ha]
  · have hlt : ∀ i, mstaWord x (Memory.readN s.mem (x.loc c (op.va.toNat + op.rows * x.erow) + 4 * i) 4) < 256 ^ (x.mrow / 64) :=
      fun i => mstaWord_lt (readN_lt_pow _ _ 4) h9 h0 hf
    have hle : x.mrow / 64 * (i + 1) ≤ x.mrow / 64 * 64 := Nat.mul_le_mul_left _ hi
    have hmrow := hw.mrow
    rw [Nat.mul_succ] at hle
    rw [readN_of_bytes (o := x.mrow / 64 * i) fun j hj => by
      rw [hz, if_pos (by omega), Nat.add_assoc, Nat.add_sub_cancel_left], mstaRow_word hlt hi, hr.engAt]

end

theorem matrixRow (hr : s.RowAt c op rest x win eng) :
    ((s.xferRows c 1).core c).queue.head?.map (·.rows) = some (op.rows + 1) ∧
    (op.insn.op = .mldw ∨ op.insn.op = .mldt → ∀ a, Memory.read (s.xferRows c 1).mem a =
      if eng ≤ a ∧ a < eng + x.mrow then Memory.read s.mem (win + (a - eng)) else Memory.read s.mem a) ∧
    (op.insn.op = .mstt → ∀ a, Memory.read (s.xferRows c 1).mem a =
      if win ≤ a ∧ a < win + x.mrow then Memory.read s.mem (eng + (a - win)) else Memory.read s.mem a) ∧
    (op.insn.op = .mlda → (∀ a, ¬(eng ≤ a ∧ a < eng + 256) → Memory.read (s.xferRows c 1).mem a = Memory.read s.mem a) ∧
      ∀ i < 64, Memory.readN (s.xferRows c 1).mem (eng + 4 * i) 4 = mldaWord x (Memory.readN s.mem (win + x.mrow / 64 * i) (x.mrow / 64))) ∧
    (op.insn.op = .msta → (∀ a, ¬(win ≤ a ∧ a < win + x.mrow) → Memory.read (s.xferRows c 1).mem a = Memory.read s.mem a) ∧
      ∀ i < 64, Memory.readN (s.xferRows c 1).mem (win + x.mrow / 64 * i) (x.mrow / 64) =
        mstaWord x (Memory.readN s.mem (eng + 4 * i) 4)) := by
  have hx := hr.xfer
  have hcount : ∀ z, AfterRow s (s.xferRows c 1) z c → ((s.xferRows c 1).core c).queue.head?.map (·.rows) = some (op.rows + 1) := by
    intro z hz
    rw [hz.2, hr.queue]
    rfl
  have hbytes (hop : op.insn.op = .mldw ∨ op.insn.op = .mldt) :=
    xferRow_load_bytes hr (by rcases hop with hop | hop <;> rw [hop] <;> rfl) (xferOf_bytes (by tauto) hx)
  have hmstt (hop : op.insn.op = .mstt) := xferRow_store_bytes hr (by rw [hop]; rfl) (xferOf_bytes (by tauto) hx)
  have hmlda (hop : op.insn.op = .mlda) := xferRow_load_words hr (by rw [hop]; rfl) (xferOf_mlda (hop ▸ hx))
  have hmsta (hop : op.insn.op = .msta) := by
    obtain ⟨hw, h9, h0, hf⟩ := xferOf_msta (hop ▸ hx)
    exact xferRow_store_words hr (by rw [hop]; rfl) hw h9 h0 hf
  refine ⟨?_, fun hop => ?_, fun hop => ?_, fun hop => ?_, fun hop => ?_⟩
  · rcases xferOf_instr hx with hop | hop | hop | hop | hop
    · exact (hbytes (.inl hop)).elim fun z hz => hcount z hz.1
    · exact (hbytes (.inr hop)).elim fun z hz => hcount z hz.1
    · exact (hmstt hop).elim fun z hz => hcount z hz.1
    · exact (hmlda hop).elim fun z hz => hcount z hz.1
    · exact (hmsta hop).elim fun z hz => hcount z hz.1
  · obtain ⟨z, hafter, hz⟩ := hbytes hop
    rw [hafter.1]; exact hz
  · obtain ⟨z, hafter, hz⟩ := hmstt hop
    rw [hafter.1]; exact hz
  · obtain ⟨z, hafter, hz⟩ := hmlda hop
    rw [hafter.1]; exact hz
  · obtain ⟨z, hafter, hz⟩ := hmsta hop
    rw [hafter.1]; exact hz

end Sys2Proof.Machine
end

section open Sys2Proof Machine

/-- Settles O39: each event read off its definition; a transfer's row through the pieces it is moved in; an INT8 chunk group by group. -/
theorem matrixEventsComplete : Obligations.MatrixEventsComplete := by
  unfold Obligations.MatrixEventsComplete
  refine ⟨?_, ?_, ?_, ?_, ?_, ?_, ?_, ?_, ?_⟩
  · intro s c tm rest t k r r' hocc hw hg hrun hback hfree
    have hexec : exec .engineGrant s = _ := event1_run State.engineGrant hocc
    rw [engineGrant_eq hw hg hrun hback hfree rfl] at hexec
    exact hexec
  · exact fun s c a hm => clearEngine_read hm a
  · intro s tm t l a b w z live c leader hocc hg hl hrel hne hall hrun hq hown hread r
    have hexec : exec .latchRelease s = _ := event1_run State.latchRelease hocc
    rw [latchRelease_eq rfl rfl rfl hg hl hrel hne hall hrun hq hown hread] at hexec
    exact hexec
  · intro s c op rest t l w o bf af lines cfg sc bad fed hocc hq hop hk hg hplaced hrun hl hrel hsus hfree hpace
    have hexec : exec .mmaChunkCommit s = _ := event1_run State.mmaChunk hocc
    have hdue : s.ChunkDue c op rest t l := ⟨hq, hop, hk, hg, hplaced, hrun, hl, hrel, hsus, hfree, hpace⟩
    refine ⟨fun hready hcheck => ?_, fun hready e hcheck => ?_, fun rows brows z hready htile hfed hb hcfg => ?_,
      fun rows im hready htile hfed him => ?_, fun rows hready htile hfed him => ?_⟩
    · rw [mmaChunk_checks hdue hready, hcheck] at hexec
      exact hexec
    · rw [mmaChunk_checks hdue hready, hcheck] at hexec
      exact hexec
    · rw [mmaChunk_runs hdue hready] at hexec
      simp only [State.runChunk, show s.chunkRows op = .ok rows from hfed, hb, show Mma.tile (op.vc.toNat % 2 ^ 32) = true from htile, if_true] at hexec
      rw [hcfg] at hexec
      exact hexec
    · rw [mmaChunk_runs hdue hready] at hexec
      simp only [State.runChunk, show s.chunkRows op = .ok rows from hfed, gatherB_image htile,
        show Mma.tile (op.vc.toNat % 2 ^ 32) = false from htile, show s.imageAt c op.woff (op.insn.args.x8.toNat / 16) = some im from him,
        Bool.false_eq_true, if_false] at hexec
      exact hexec
    · rw [mmaChunk_runs hdue hready] at hexec
      simp only [State.runChunk, show s.chunkRows op = .ok rows from hfed, gatherB_image htile,
        show Mma.tile (op.vc.toNat % 2 ^ 32) = false from htile, show s.imageAt c op.woff (op.insn.args.x8.toNat / 16) = none from him,
        Bool.false_eq_true, if_false] at hexec
      exact hexec
  · intro s c op rest t fl en r hocc hq hop hlast hg hrun
    have hexec : exec .mmaComplete s = _ := event1_run State.mmaComplete hocc
    rw [mmaComplete_eq hq hop hlast hg hrun rfl rfl rfl] at hexec
    exact hexec
  · intro s c op rest hocc hq hfree
    have hexec : exec .matrixQueueOp s = _ := event1_run State.matrixQueueOp hocc
    refine ⟨fun hop => ?_, fun hop hm => ?_⟩
    · rw [matrixQueueOp_mcfg hq hfree hop] at hexec
      exact hexec
    · rw [matrixQueueOp_mzero hq hfree hop] at hexec
      exact ⟨_, hexec, by rw [Option.getD_some, core_modCore], fun a => zeroStore_read hm _ _ a⟩
  · intro s c id op rest t x hq hid hfree hg hplaced hrun hx
    refine ⟨fun hocc => ?_, fun n hocc => ?_, fun n hrows hfail hop => xferRows_last hq hx hrows hfail hop⟩
    · have hexec : exec .matrixTransferComplete s = .next ((s.matrixTransfer c id none).getD s) := by
        rw [exec_matrixTransfer, State.transferEvent, hocc]
      rw [matrixTransfer_eq hq hid hfree hg hplaced hrun hx] at hexec
      exact hexec
    · have hexec : exec .matrixTransferComplete s = .next ((s.matrixTransfer c id (some n)).getD s) := by
        rw [exec_matrixTransfer, State.transferEvent, hocc]
      rw [matrixTransfer_eq hq hid hfree hg hplaced hrun hx] at hexec
      exact hexec
  · intro s c op rest x u h off win eng w r moves only hm hq hx hfail hrows hsp hk hlim hwfit hefit hwp hep
    exact matrixRow ⟨hm, hq, hx, hfail, hrows, hsp, hk, hlim, rfl, rfl, hwfit, hefit, hwp, hep⟩
  · intro x e r c w h8 hmap hc hw hall sum hrange
    rw [word_eq hmap hc, groupSteps_int8 h8 hw hall hrange 16 (le_refl _)]
    rfl

end

section
/-! SUPPORT. Two core numbers with one key of the broadcast constant store. -/

namespace Sys2Proof.Machine

/-- A partition of context 0 and core 0 alone. -/
def coreZeroPart : Partition := { desc := 1#2048 <<< 768 ||| 1#2048 <<< 648 }

/-- That partition on a device that is otherwise as reset leaves it. -/
def coreZeroState : State := { State.reset with parts := [(0, coreZeroPart)] }

/-- A PSTB of one word to offset 0 of every core of context 0's partition. -/
def coreZeroPstb : PstbOp :=
  { owner := .qe 0, ctx := 0, gid := none, core := 0, handle := 0, hidx := 0, off := 0, dst := 0, words := 1, scope := 4, landing := .none,
    done := 0, skipped := false, pline := none, fail := none }

theorem pstbCores_coreZero : coreZeroState.pstbCores coreZeroPstb = [0] := by decide +kernel

/-- Numbers 0 and 2^40 name one place. -/
theorem bcs_key_wraps (o : Nat) : (Loc.bcs (2 ^ 40) o).key = (Loc.bcs 0 o).key := by
  simp only [Loc.key]
  norm_num

/-- Core 0 takes the word. -/
theorem pstbWord_coreZero : Memory.read (coreZeroState.pstbWord coreZeroPstb 1 false).1.mem (Loc.bcs 0 0).key = 1 := by decide +kernel

end Sys2Proof.Machine
end

section open Sys2Proof Machine

/-- Refutes O40: its last part speaks of every number c, and `Loc.key` takes a core's number modulo 2^40, so that the word that core 0
takes is read at "core" 2^40 as well, which is in no scope. -/
theorem not_broadcastStoreComplete : ¬ Obligations.BroadcastStoreComplete := by
  unfold Obligations.BroadcastStoreComplete
  rintro ⟨-, -, -, -, -, -, hword⟩
  have hcores := pstbCores_coreZero
  obtain ⟨-, hframe, -⟩ := hword coreZeroState coreZeroPstb 1 (2 ^ 40) rfl (by decide) (by decide) (by rw [hcores]; decide)
  have hread := hframe (.inl (by rw [hcores]; decide)) 0 (by decide)
  have hzero : Memory.read coreZeroState.mem (Loc.bcs 0 0).key = 0 := rfl
  rw [bcs_key_wraps, pstbWord_coreZero, hzero] at hread
  exact absurd hread (by decide)

end

section
/-! SUPPORT. The remote instructions (R261 to R265). -/

namespace Sys2Proof.Machine

variable {s t t1 t' : State} {u : Agent} {tm sp n : Nat} {i : Instr} {sh : Shape} {p : Port} {x : ApThread} {v : Opnds} {rs : List (Nat × Acc)}
  {want : Want} {c : Ctl}

/-- The lane that a thread's reading names first is the lane it began with. -/
theorem Delivers.lead_eq {k : LitKind} (hd : Delivers s (.ap tm sp) sh k v t) (he : Executes s (.ap tm sp) sh)
    (hx : s.aps.find (stripKey tm sp) = some x) : t.lead (.ap tm sp) = s.lead (.ap tm sp) := by
  obtain ⟨act, hact, hlow⟩ := hd.lowLane he
  have h := hact.symm.trans (M.lanes_calm hd.calm he.1 hx)
  rw [Except.ok.injEq, Prod.mk.injEq] at h
  rw [← hlow, h.1, State.lead, hx]
  rfl

/-- With a port of the access side RLQ is LQ or LQG. -/
theorem rlqRest_run (he : Executes s (.ap tm sp) sh) (hp : s.ports.find (portKey (stripKey tm sp) n) = some p) (hn : objPort s.ir.d = n)
    (hk : p.kind = .acc) (hc : checkPorts { d := 0, a := 0, c := 0 } (s.past (.ap tm sp)) = .ok ((), s.past (.ap tm sp))) :
    rlqRest s.ir (s.past (.ap tm sp)) = (if p.mode = .elem then lqBody (rlqWant s.ir.x8.toNat) p n else lqgBody (rlqWant s.ir.x8.toNat) p n)
      (s.past (.ap tm sp)) := by
  have hbound := M.boundPort_run (n := n) he.past_cur (by rw [State.past_ports]; exact hp)
  simp only [rlqRest, M.bind_run, hc, hn, hbound, hk, ne_eq, not_true_eq_false, if_false]

/-- What RLDW and RATOM send, from their operands as their accesses take them. -/
def remoteStart (o : Ops) (sh : Shape) (want : Want) (data : Bool) (shown : Opnds → Opnds) (kind : Opnds → Nat → ReqKind) : M (List (Nat × Req)) := do
  let v ← fetch sh .offset
  let (ls, vec) ← accLanes (isVec o.d)
  let rs ← accesses want (shown v) ls vec data false
  reqs rs vec (kind (shown v))

theorem remoteStart_run {data : Bool} {shown : Opnds → Opnds} {kind : Opnds → Nat → ReqKind} (he : Executes s (.ap tm sp) sh)
    (hpc : s.pcAt (.ap tm sp) < 2 ^ 64) (hx : s.aps.find (stripKey tm sp) = some x) (hd : Delivers s (.ap tm sp) sh .offset v t)
    (ha : accesses want (shown v) (apLanes s (.ap tm sp) x (isVec s.ir.d)) (isVec s.ir.d) data false t = .ok (rs, t1)) :
    remoteStart s.ir sh want data shown kind (s.past (.ap tm sp)) =
      .ok (apReqs s t1 (.ap tm sp) (isVec s.ir.d) (kind (shown v)) rs, t1) := by
  have hcalm : Calm (s.past (.ap tm sp)) t1 := hd.calm.trans (accesses_calm _ _ _ _ _ _ _ _ _ ha)
  have hfetch : fetch sh .offset (s.past (.ap tm sp)) = .ok (v, t) := hd
  simp only [remoteStart, M.bind_run, hfetch, M.accLanes_ap _ hd.calm he.1 hx, ha,
    M.reqs_run _ _ (hcalm.cur.trans he.past_cur) (M.here_calm he hpc hcalm), apReqs]

/-- The operands of RATOM: a comparand's poison counts as its data's. -/
def ratomOpnds (o : Ops) (v : Opnds) : Opnds :=
  if o.sel.toNat == 9 then { v with a := fun l => { v.a l with poison := (v.a l).poison || (v.c l).poison } } else v

def ratomShape (o : Ops) : Shape := { d := 1, a := 1, b := 1, c := if o.sel.toNat == 9 then 1 else 0 }

def ratomKind (o : Ops) (size : Nat) (v : Opnds) (l : Nat) : ReqKind :=
  .atomic o.sel.toNat (8 * size) (v.a l).bits (if o.sel.toNat == 9 then (v.c l).bits else 0) true

/-- The values that a remote load or atomic writes. -/
def remoteEnd (h : Handle) (x : Nat → Val) : M Unit := writeD 1 (fun l => loaded h true (2 ^ Hnd.ew h) 64 (x l))

theorem exec_rldw (hcur : s.cur = some u) : exec .rldw s = meaning (blockOp .rldw { d := 1, a := 0, b := 1, c := 0 }
    (remoteStart s.ir { d := 1, a := 0, b := 1, c := 0 }
      (remoteWant s.ir.x8.toNat (2 ^ Hnd.ew (s.handleOf u s.ir.x8.toNat)) kRead [0, 1, 2, 3] .rd) false (fun v => v) (fun _ _ => .load))
    (remoteEnd (s.handleOf u s.ir.x8.toNat))) s :=
  (meaning_read (M.ops_run s)).trans ((meaning_read (M.get_run s)).trans (meaning_read (M.unit_run hcur)))

theorem exec_ratom (hcur : s.cur = some u) : exec .ratom s = meaning (blockOp .ratom (ratomShape s.ir)
    (remoteStart s.ir (ratomShape s.ir)
      (remoteWant s.ir.x8.toNat (2 ^ Hnd.ew (s.handleOf u s.ir.x8.toNat)) kTile [2, 3] .both) true (ratomOpnds s.ir)
      (ratomKind s.ir (2 ^ Hnd.ew (s.handleOf u s.ir.x8.toNat))))
    (remoteEnd (s.handleOf u s.ir.x8.toNat))) s :=
  (meaning_read (M.ops_run s)).trans ((meaning_read (M.get_run s)).trans (meaning_read (M.unit_run hcur)))

theorem remoteEnd_run {h : Handle} {y : Nat → Val} (hir : t.ir = s.ir)
    (hw : Writes t s.ir.d 1 (fun l => loaded h true (2 ^ Hnd.ew h) 64 (y l)) t') : remoteEnd h y t = .ok ((), t') := by
  simp only [remoteEnd, writeD, M.bind_run, M.ops_run, hir]
  exact hw

theorem rldw_sends (he : Executes s (.ap tm sp) { d := 1, a := 0, b := 1, c := 0 }) (hpc : s.pcAt (.ap tm sp) < 2 ^ 64)
    (hx : s.aps.find (stripKey tm sp) = some x) (hb : x.blk = none) (hd : Delivers s (.ap tm sp) { d := 1, a := 0, b := 1, c := 0 } .offset v t)
    (ha : accesses (remoteWant s.ir.x8.toNat (2 ^ Hnd.ew (s.handleOf (.ap tm sp) s.ir.x8.toNat)) kRead [0, 1, 2, 3] .rd) v
      (apLanes s (.ap tm sp) x (isVec s.ir.d)) (isVec s.ir.d) false false t = .ok (rs, t1)) (hroom : t1.replyRoom (.ap tm sp) 0 = true) :
    exec .rldw s = .next (s.sendBlock tm sp .rldw (apReqs s t1 (.ap tm sp) (isVec s.ir.d) (fun _ => .load) rs)) := by
  refine (exec_rldw he.1).trans (blockOp_sends he hx hb (remoteStart_run (shown := fun v => v) he hpc hx hd ha)
    (hd.calm.trans (accesses_calm _ _ _ _ _ _ _ _ _ ha)) ?_)
  have hnone : (apReqs s t1 (.ap tm sp) (isVec s.ir.d) (fun _ => .load) rs).filter (fun r => r.2.once) = [] := by
    simp [apReqs, List.filter_map, Function.comp_def, Req.once, Req.writes, State.reqOf]
  rw [hnone]
  exact hroom

theorem ratom_sends {size : Nat} (he : Executes s (.ap tm sp) (ratomShape s.ir)) (hpc : s.pcAt (.ap tm sp) < 2 ^ 64)
    (hx : s.aps.find (stripKey tm sp) = some x) (hb : x.blk = none) (hd : Delivers s (.ap tm sp) (ratomShape s.ir) .offset v t)
    (ha : accesses (remoteWant s.ir.x8.toNat (2 ^ Hnd.ew (s.handleOf (.ap tm sp) s.ir.x8.toNat)) kTile [2, 3] .both) (ratomOpnds s.ir v)
      (apLanes s (.ap tm sp) x (isVec s.ir.d)) (isVec s.ir.d) true false t = .ok (rs, t1)) (hroom : t1.replyRoom (.ap tm sp) rs.length = true)
    (hsize : 2 ^ Hnd.ew (s.handleOf (.ap tm sp) s.ir.x8.toNat) = size) :
    exec .ratom s = .next (s.sendBlock tm sp .ratom
      (apReqs s t1 (.ap tm sp) (isVec s.ir.d) (ratomKind s.ir size (ratomOpnds s.ir v)) rs)) := by
  subst hsize
  refine (exec_ratom he.1).trans (blockOp_sends he hx hb (remoteStart_run he hpc hx hd ha)
    (hd.calm.trans (accesses_calm _ _ _ _ _ _ _ _ _ ha)) ?_)
  have hall : ((apReqs s t1 (.ap tm sp) (isVec s.ir.d)
      (ratomKind s.ir (2 ^ Hnd.ew (s.handleOf (.ap tm sp) s.ir.x8.toNat)) (ratomOpnds s.ir v)) rs).filter (fun r => r.2.once)).length = rs.length := by
    simp [apReqs, List.filter_map, Function.comp_def, Req.once, Req.writes, State.reqOf, ratomKind]
  rw [hall]
  exact hroom

/-- The body of RST. -/
def rstBody (o : Ops) (size : Nat) : M Unit := do
  let v ← fetch { d := 0, a := 1, b := 1, c := 0 } .offset
  let (ls, vec) ← accLanes (isVec o.a || isVec o.b)
  let rs ← accesses (remoteWant o.x8.toNat size kTile [0, 1, 2, 3] .wr) v ls vec true false
  let qs ← reqs rs vec (fun l => storeKind size 0 (v.a l).bits)
  qs.forM (requesterSide vec)
  qs.forM (fun q => buffer { q.2 with rst := true })

theorem exec_rst (hcur : s.cur = some u) : exec .rst s = meaning (insn .rst { d := 0, a := 1, b := 1, c := 0 }
    (rstBody s.ir (2 ^ Hnd.ew (s.handleOf u s.ir.x8.toNat)))) s :=
  (meaning_read (M.ops_run s)).trans ((meaning_read (M.get_run s)).trans (meaning_read (M.unit_run hcur)))

theorem M.forM_run {α : Type} {f : α → M Unit} : ∀ {l : List α}, (∀ a ∈ l, f a s = .ok ((), s)) → l.forM f s = .ok ((), s)
  | [], _ => rfl
  | a :: l, h => (M.bind_ok (h a List.mem_cons_self)).trans (M.forM_run fun b hb => h b (List.mem_cons_of_mem _ hb))

/-- A request of RST among the stores of its unit. -/
def asRst (r : Req) : Req := { r with rst := true }

theorem rst_buffers (qs : List (Nat × Req)) (hcur : s.cur = some u) :
    (qs.forM (fun q => buffer { q.2 with rst := true }) : M PUnit) s = .ok (⟨⟩, qs.foldl (fun t q => t.withStore u (asRst q.2)) s) := by
  induction qs generalizing s with
  | nil => rfl
  | cons q qs ih =>
    have hnext : (s.withStore u (asRst q.2)).cur = some u := (withStore_sameUnit s u (asRst q.2)).1.trans hcur
    exact (M.bind_ok (M.buffer_run (asRst q.2) hcur)).trans (ih hnext)

theorem rst_completes {qs : List (Nat × Req)} {size : Nat} (he : Executes s (.ap tm sp) { d := 0, a := 1, b := 1, c := 0 })
    (hpc : s.pcAt (.ap tm sp) < 2 ^ 64) (hx : s.aps.find (stripKey tm sp) = some x)
    (hd : Delivers s (.ap tm sp) { d := 0, a := 1, b := 1, c := 0 } .offset v t)
    (hsize : 2 ^ Hnd.ew (s.handleOf (.ap tm sp) s.ir.x8.toNat) = size)
    (ha : accesses (remoteWant s.ir.x8.toNat size kTile [0, 1, 2, 3] .wr) v (apLanes s (.ap tm sp) x (isVec s.ir.a || isVec s.ir.b))
      (isVec s.ir.a || isVec s.ir.b) true false t = .ok (rs, t1))
    (hqs : apReqs s t1 (.ap tm sp) (isVec s.ir.a || isVec s.ir.b) (fun j => .store ((v.a j).bits.toNat % 2 ^ (8 * size)) false) rs = qs)
    (hside : ∀ q ∈ qs, requesterSide (isVec s.ir.a || isVec s.ir.b) q t1 = .ok ((), t1)) :
    exec .rst s = .next (s.closed (qs.foldl (fun t q => t.withStore (.ap tm sp) (asRst q.2)) t1) (.ap tm sp) .rst
      { d := 0, a := 1, b := 1, c := 0 }) := by
  have hcalm : Calm (s.past (.ap tm sp)) t1 := hd.calm.trans (accesses_calm _ _ _ _ _ _ _ _ _ ha)
  have hfetch : fetch { d := 0, a := 1, b := 1, c := 0 } .offset (s.past (.ap tm sp)) = .ok (v, t) := hd
  have hct := hcalm.cur.trans he.past_cur
  have hbody : rstBody s.ir size (s.past (.ap tm sp)) = .ok ((), qs.foldl (fun t q => t.withStore (.ap tm sp) (asRst q.2)) t1) := by
    have hreqs := M.reqs_run (rs := rs) (isVec s.ir.a || isVec s.ir.b) (fun j => .store ((v.a j).bits.toNat % 2 ^ (8 * size)) false) hct (M.here_calm he hpc hcalm)
    unfold apReqs at hqs
    rw [hqs] at hreqs
    simp only [rstBody, M.bind_run, hfetch, M.accLanes_ap _ hd.calm he.1 hx, ha, storeKind, hreqs, M.forM_run hside]
    exact rst_buffers qs hct
  rw [exec_rst he.1, hsize]
  exact insn_completes_of_sameUnit he hbody (hcalm.sameUnit.trans
    (sameUnit_local.toFrames.foldl (f := fun (t : State) (q : Nat × Req) => t.withStore (.ap tm sp) (asRst q.2)) (fun t q => withStore_sameUnit t _ _) _ _))

/-- The body of RFENCE. -/
def rfenceBody (o : Ops) : M Unit := do
  let v ← fetch { d := 0, a := 0, c := 0 } .int
  let sem := o.a.immVal % 4
  let x := heldVal (v.b (lowLane (← lanes)))
  let one := if o.x8.toNat % 2 = 1 then some (x.bits.toNat % 4096) else none
  let u ← unit
  waitUnless ((← get).remoteFenced u one sem) (.counters (if one.isSome then 0x20 else remoteMask) true)
  (if sem = 1 then pure () else takeDeferred (fun d => d.kind == 1 || d.cls == 2))
  (if sem = 2 then pure () else renewL1 5)

theorem exec_rfence (s : State) : exec .rfence s = meaning (insn .rfence { d := 0, a := 0, c := 0 } (rfenceBody s.ir)) s :=
  meaning_read (M.ops_run s)

theorem rfence_completes (he : Executes s u { d := 0, a := 0, c := 0 }) (hd : Delivers s u { d := 0, a := 0, c := 0 } .int v t)
    (hc : t.ctl u = some c)
    (hf : t.remoteFenced u (if s.ir.x8.toNat % 2 = 1 then some ((heldVal (v.b (t.lead u))).bits.toNat % 4096) else none) (s.ir.a.immVal % 4) = true)
    (hdef : s.ir.a.immVal % 4 ≠ 1 → ∀ d ∈ c.deferred, d.kind ≠ 1 ∧ d.cls ≠ 2)
    (ht : if s.ir.a.immVal % 4 = 2 then t' = t else renewL1 5 t = .ok ((), t')) :
    exec .rfence s = .next (s.closed t' u .rfence { d := 0, a := 0, c := 0 }) := by
  have hfetch : fetch { d := 0, a := 0, c := 0 } .int (s.past u) = .ok (v, t) := hd
  have hct := hd.cur he
  obtain ⟨act, hact, hlow⟩ := hd.lowLane he
  have htake : (if s.ir.a.immVal % 4 = 1 then pure () else takeDeferred (fun d => d.kind == 1 || d.cls == 2) : M Unit) t = .ok ((), t) := by
    split
    · rfl
    · next h1 =>
      refine M.takeDeferred_none hct hc fun d hmem => ?_
      obtain ⟨hk, hcls⟩ := hdef h1 d hmem
      rw [beq_eq_false_iff_ne.2 hk, beq_eq_false_iff_ne.2 hcls]
      rfl
  have hend : SameUnit t t' ∧ (if s.ir.a.immVal % 4 = 2 then pure () else renewL1 5 : M Unit) t = .ok ((), t') := by
    by_cases h2 : s.ir.a.immVal % 4 = 2
    · rw [if_pos h2] at ht ⊢
      subst ht
      exact ⟨SameUnit.refl _, rfl⟩
    · rw [if_neg h2] at ht ⊢
      exact ⟨renewL1_sameUnit _ _ _ _ ht, ht⟩
  refine (exec_rfence s).trans (insn_completes_of_sameUnit he ?_ (hd.sameUnit.trans hend.1))
  simp only [rfenceBody, M.bind_run, hfetch, hact, hlow, M.unit_run hct, M.get_run, hf, M.waitUnless_true, M.pure_run, htake]
  exact hend.2

end Sys2Proof.Machine
end

section open Sys2Proof Machine

/-- Settles O41: RLQ by LQ's and LQG's rows, RLDW and RATOM by their requests and answers, RST by its buffer, RFENCE by FENCE's steps. -/
theorem remoteInstructionsComplete : Obligations.RemoteInstructionsComplete := by
  unfold Obligations.RemoteInstructionsComplete
  refine ⟨?_, ?_, ?_, ?_, ?_⟩
  · intro s t t1 tm sp n p q x v ps u sh key act elem want reserve send row blank k he hx hn hp hk hpc hq hpast hc hd hs
    have hcalm := hd.calm.trans (spots_calm _ _ _ _ _ _ _ _ _ hs)
    have hrest := rlqRest_run he hp hn hk hc
    refine ⟨fun hm hroom => ?_, fun hm hroom => ?_⟩
    · refine (exec_rlq s).trans (idleChecked_completes he ?_ (hcalm.sameUnit.trans (rowsSent_sameUnit s _ tm sp n q _ _)))
      by_cases hel : p.mode = .elem
      · rw [if_pos hel] at hrest
        have hwant : want = rlqWant s.ir.x8.toNat p.bytes := by simp only [want, elem, hel, beq_self_eq_true, if_true]
        exact hrest.trans (lqBody_run he hpc hx hcalm hq hpast hd (hwant ▸ hs) hroom)
      · rw [if_neg hel] at hrest
        have hwant : want = rlqWant s.ir.x8.toNat 64 := by
          simp only [want, elem, beq_eq_false_iff_ne.2 hel, Bool.false_eq_true, if_false]
        exact hrest.trans (lqgBody_rline_run he hpc hx hcalm hq hpast hm hd (hwant ▸ hs) hroom)
    · have hel : p.mode ≠ .elem := by rw [hm]; decide
      rw [if_neg hel] at hrest
      have hwant : want = rlqWant s.ir.x8.toNat 64 := by
        simp only [want, elem, beq_eq_false_iff_ne.2 hel, Bool.false_eq_true, if_false]
      exact (exec_rlq s).trans (idleChecked_completes he
        (hrest.trans (lqgBody_sline_run he hpc hx hcalm hq hpast hm hd (hwant ▸ hs) hroom))
        (hcalm.sameUnit.trans (rowsSent_sameUnit s _ tm sp n q _ _)))
  · intro q hq
    simp only [List.mem_cons, List.not_mem_nil, or_false] at hq
    rcases hq with rfl | rfl
    · intro s t t1 tm sp x v rs i u load cas size sh vec v' kind he hpc hx hb hd ha hroom
      have hload : load = true := rfl
      have hsh : sh = { d := 1, a := 0, b := 1, c := 0 } := by simp only [sh, hload, if_true]
      have hv : v' = v := by simp only [v', hload, Bool.true_or, if_true]
      have hkind : kind = fun _ => .load := by funext l; simp only [kind, hload, if_true]
      rw [hsh] at he hd
      rw [hv, hload, hd.lead_eq he hx] at ha
      rw [hload] at hroom
      rw [hkind]
      exact rldw_sends he hpc hx hb hd ha hroom
    · intro s t t1 tm sp x v rs i u load cas size sh vec v' kind he hpc hx hb hd ha hroom
      have hload : load = false := rfl
      have hsh : sh = ratomShape s.ir := by simp only [sh, hload, Bool.false_eq_true, if_false, ratomShape, cas]
      have hv : v' = ratomOpnds s.ir v := by
        simp only [v', hload, Bool.false_or, ratomOpnds, cas]
        cases (s.ir.sel.toNat == 9) <;> rfl
      have hkind : kind = ratomKind s.ir size v' := by
        funext l
        simp only [kind, hload, Bool.false_eq_true, if_false, ratomKind, cas]
      rw [hsh] at he hd
      rw [hv, hload, hd.lead_eq he hx] at ha
      rw [hload] at hroom
      rw [hkind, hv]
      exact ratom_sends he hpc hx hb hd ha hroom rfl
  · intro i hi
    simp only [List.mem_cons, List.not_mem_nil, or_false] at hi
    rcases hi with rfl | rfl
    · intro s t t' tm sp x b v u size sh he hx hb hok hd hw
      have hir : (t.modAp tm sp (fun x => { x with blk := none })).ir = s.ir := hd.calm.ir.trans (State.past_ir s u)
      exact (exec_rldw he.1).trans (blockOp_ends he hx hb hd hok (remoteEnd_run hir hw) hw.sameUnit)
    · intro s t t' tm sp x b v u size sh he hx hb hok hd hw
      have hir : (t.modAp tm sp (fun x => { x with blk := none })).ir = s.ir := hd.calm.ir.trans (State.past_ir s u)
      exact (exec_ratom he.1).trans (blockOp_ends he hx hb hd hok (remoteEnd_run hir hw) hw.sameUnit)
  · intro s t t1 tm sp x v rs u size sh vec qs he hpc hx hd ha hside
    rw [hd.lead_eq he hx] at ha
    exact rst_completes he hpc hx hd rfl ha rfl hside
  · intro s t t' u c v sh sem one he hd hc hf hdef ht
    exact rfence_completes he hd hc hf hdef ht

end

section
/-! SUPPORT. What the memory side and the answers to units leave of the units: nothing but their registers and their control. -/

namespace Sys2Proof.Machine

variable {s t r : State} {u : Agent}

theorem writeL2_sameUnit (s : State) (ia n d : Nat) (poison : Bool) (v : Via) : SameUnit s (s.writeL2 ia n d poison v) := by
  unfold State.writeL2
  have hfit := l2Fit_sameUnit s ia v
  dsimp only
  split
  · have hmem : ∀ y, SameUnit s ((s.l2Fit ia v).toMemory y) := fun y => hfit.trans (toMemory_sameUnit _ y)
    split
    · exact (hmem _).trans (sameUnit_of_units rfl rfl rfl rfl rfl)
    · exact hmem _
  · split
    · exact hfit.trans (sameUnit_of_units rfl rfl rfl rfl rfl)
    · exact hfit.trans (l2Keep_sameUnit _ _ _ _)

/-- One part of a write, in one sector. -/
def writePart (ia d : Nat) (poison : Bool) (v : Via) (s : State) (q : Nat × Nat) : State :=
  s.writeL2 (ia + q.1) q.2 (d / 2 ^ (8 * q.1) % 2 ^ (8 * q.2)) poison (v.plus q.1)

theorem writeLocal_eq (s : State) (ia n d : Nat) (poison : Bool) (v : Via) :
    s.writeLocal ia n d poison v = (sectorParts ia n).foldl (writePart ia d poison v) s := rfl

theorem writeLocal_sameUnit (s : State) (ia n d : Nat) (poison : Bool) (v : Via) : SameUnit s (s.writeLocal ia n d poison v) := by
  rw [writeLocal_eq]
  exact sameUnit_local.toFrames.foldl (fun st q => writeL2_sameUnit st _ _ _ _ _) _ s

/-- A write at a leaf. -/
theorem leafWrite_sameUnit (s : State) (x : Req) (v : Via) (d : Nat) (p : Bool) :
    SameUnit s (((if p then s.countError x else s).writeLocal x.ia x.size d p v).updateL1 x.core x.ia x.size d p) := by
  have hc : SameUnit s (if p then s.countError x else s) := by
    split
    · exact countError_sameUnit s x
    · exact SameUnit.refl s
  exact (hc.trans (writeLocal_sameUnit _ _ _ _ _ _)).trans (sameUnit_of_units rfl rfl rfl rfl rfl)

theorem atLeaf_sameUnit (s : State) (x : Req) (v : Via) : SameUnit s (s.atLeaf x v).2 := by
  unfold State.atLeaf
  dsimp only
  split
  · exact readLocal_sameUnit s _ _ _
  · exact leafWrite_sameUnit s x v _ _
  · have hread := readLocal_sameUnit s x.ia x.size v
    split
    · dsimp only
      split
      · exact hread
      · exact hread.trans (countError_sameUnit _ _)
    · exact hread.trans (leafWrite_sameUnit _ x v _ false)
  · split
    · split
      · exact SameUnit.refl s
      · exact SameUnit.refl s
    · exact SameUnit.refl s
  · split
    · exact sameUnit_of_units rfl rfl rfl rfl rfl
    · exact SameUnit.refl s
  · exact SameUnit.refl s

theorem serve_sameUnit {pi : Nat} {p : Partition} {w : Walk} {x : Req} {v : Nat} {b : Bool} (h : s.serve pi p w x = .ok v b t) :
    SameUnit s t := by
  unfold State.serve at h
  split at h
  · cases h
  · split at h
    · cases h
    · cases h
    · cases h
      exact SameUnit.refl s
    · split at h
      · cases h
      · split at h
        · cases h
        · cases h
          exact (atLeaf_sameUnit s _ _).trans (sameUnit_of_units rfl rfl rfl rfl rfl)

theorem engAccess_sameUnit {x : Req} {v : Nat} {b : Bool} (h : s.engAccess x = .ok v b t) : SameUnit s t := by
  unfold State.engAccess at h
  split at h
  · cases h
    exact atCore_sameUnit s x
  · split at h
    · split at h
      · cases h
      · split at h
        · cases h
          exact sameUnit_of_units rfl rfl rfl rfl rfl
        · cases h
        · cases h
    · split at h
      · cases h
      · split at h
        · next hs =>
          cases h
          exact serve_sameUnit hs
        · cases h
        · cases h
        · cases h
        · cases h
        · cases h

theorem takeTrap_sameUnit (s : State) (u : Agent) (t : TrapInfo) (len : BitVec 2) : SameUnit s (s.takeTrap u t len) := by
  unfold State.takeTrap
  split
  · exact SameUnit.refl s
  · have hunqueue : ∀ r : State, SameUnit r (r.unqueue u) := fun r => sameUnit_of_units rfl rfl rfl rfl rfl
    cases u with
    | qe n =>
      exact ((((sameUnit_local.ctx s _ _).trans (hunqueue _)).trans (sameUnit_local.modCtl _ _ _)).trans (sameUnit_local.modCtl _ _ _)).trans
        (haltEngine_sameUnit _ _ _)
    | ex tm tid =>
      exact ((((((sameUnit_team s _ _).trans (sameUnit_local.ctx _ _ _)).trans (hunqueue _)).trans (sameUnit_local.modCtl _ _ _)).trans
        (sameUnit_local.ex _ _ _ _)).trans (sameUnit_local.modCtl _ _ _)).trans (sameUnit_local.mgmt _ _)
    | ap tm sp =>
      exact ((((((sameUnit_team s _ _).trans (sameUnit_local.ctx _ _ _)).trans (hunqueue _)).trans (sameUnit_local.modCtl _ _ _)).trans
        (sameUnit_local.ap _ _ _ _)).trans (sameUnit_local.modCtl _ _ _)).trans (sameUnit_local.mgmt _ _)

theorem finishEx_sameUnit (s : State) (tm tid : Nat) : SameUnit s (s.finishEx tm tid) := by
  unfold State.finishEx
  split
  · exact SameUnit.refl s
  · split
    · exact SameUnit.refl s
    · exact (sameUnit_local.ex s _ _ _).trans (sameUnit_team _ _ _)

theorem push_sameUnit (s : State) (tm tid n : Nat) (p : Port) (v : W64) : SameUnit s (s.push tm tid n p v) := by
  unfold State.push
  dsimp only
  split
  · have hports : ∀ m, SameUnit s ({ s with ports := m, fresh := s.fresh + 1 } : State) := fun _ => sameUnit_of_units rfl rfl rfl rfl rfl
    exact (hports _).trans (sameUnit_local.ex _ _ _ _)
  · exact sameUnit_of_units rfl rfl rfl rfl rfl

theorem pushHeld_sameUnit (s : State) (tm tid n : Nat) (v : W64) (poison : Bool) : SameUnit s (s.pushHeld tm tid n v poison) := by
  unfold State.pushHeld
  dsimp only
  split
  · exact takeTrap_sameUnit _ _ _ _
  · split
    · exact takeTrap_sameUnit _ _ _ _
    · split
      · exact takeTrap_sameUnit _ _ _ _
      · exact (push_sameUnit _ _ _ _ _ _).trans (finishEx_sameUnit _ _ _)

theorem seenBy_sameUnit (s : State) (u : Agent) : SameUnit s (s.seenBy u) := by
  unfold State.seenBy
  split
  · cases s.coreOf _ with
    | none => exact SameUnit.refl s
    | some c => exact sameUnit_of_units rfl rfl rfl rfl rfl
  · exact SameUnit.refl s

theorem landWord_sameUnit (s : State) (l : Landing) (v : W64) (poison : Bool) : SameUnit s (s.landWord l v poison) := by
  unfold State.landWord
  split
  · exact sameUnit_of_units rfl rfl rfl rfl rfl
  · exact (seenBy_sameUnit s _).trans (sameUnit_local.ap _ _ _ _)
  · exact sameUnit_local.engine s _ _
  · exact pushHeld_sameUnit s _ _ _ _ _
  · exact SameUnit.refl s

theorem reply_sameUnit (s : State) (ctx : Nat) (l : Landing) (v : W64) (poison : Bool) : SameUnit s (s.reply ctx l v poison) := by
  unfold State.reply
  split
  · exact landWord_sameUnit s l v poison
  · exact sameUnit_local.ctx s _ _

theorem sendLink_sameUnit (s : State) (n cls ch : Nat) (o : Outgoing) : SameUnit s (s.sendLink n cls ch o) := by
  unfold State.sendLink
  dsimp only
  split <;> exact sameUnit_of_units rfl rfl rfl rfl rfl

theorem sendBack_sameUnit (s : State) (dst : Nat) (o : Outgoing) : SameUnit s (s.sendBack dst o) := by
  unfold State.sendBack State.replyTo
  split
  · exact sendLink_sameUnit s _ _ _ _
  · exact sameUnit_of_units rfl rfl rfl rfl rfl
  · exact SameUnit.refl s

theorem noteFault_sameUnit (s : State) (ctx page cause size : Nat) (wr : Bool) : SameUnit s (s.noteFault ctx page cause size wr) := by
  unfold State.noteFault
  split <;> exact sameUnit_of_units rfl rfl rfl rfl rfl

theorem noteOnce_sameUnit (s : State) (id ctx page cause size : Nat) (wr : Bool) : SameUnit s (s.noteOnce id ctx page cause size wr) := by
  unfold State.noteOnce
  split
  · exact SameUnit.refl s
  · exact (noteFault_sameUnit s _ _ _ _ _).trans (sameUnit_of_units rfl rfl rfl rfl rfl)

end Sys2Proof.Machine
end

section
/-! SUPPORT. The instructions of the Ladle (R285 to R287). -/

namespace Sys2Proof.Machine

variable {s t t1 t2 t3 t4 t5 t6 t7 t8 t9 t' r s0 : State} {u : Agent} {v : Opnds} {sh : Shape} {i : Instr} {hi hdr sx dx id code : Nat} {p : Plan}
  {ha sa da : Acc} {src dst : Layout} {resume : Bool} {set0 : NatSet} {l : Landing}

/-! The progress record. -/

theorem recPut_sameUnit {off n : Nat} {k : ReqKind} (h : s.recPut id p off n k = .ok t) : SameUnit s t := by
  unfold State.recPut at h
  split at h
  · cases h
    exact SameUnit.refl s
  · split at h
    · next hs =>
      cases h
      exact engAccess_sameUnit hs
    · cases h
    · cases h
    · cases h
      exact SameUnit.refl s
    · cases h
      exact SameUnit.refl s

theorem recPuts_sameUnit : ∀ {ws : List (Nat × Nat × ReqKind)} {r : State}, s0.recPuts id p ws r = .ok t → SameUnit r t
  | [], r, h => by
    cases h
    exact SameUnit.refl _
  | (off, n, k) :: ws, r, h => by
    rw [State.recPuts] at h
    split at h
    · next hput => exact (recPut_sameUnit hput).trans (recPuts_sameUnit h)
    · split at h <;> cases h

theorem recPut_waits_sameUnit {off n : Nat} {k : ReqKind} (h : s.recPut id p off n k = .wait t) : SameUnit s t := by
  unfold State.recPut at h
  split at h
  · cases h
  · split at h
    · cases h
    · cases h
      exact noteOnce_sameUnit _ _ _ _ _ _ _
    · cases h
      exact SameUnit.refl s
    · cases h
    · cases h

theorem recPuts_waits_sameUnit : ∀ {ws : List (Nat × Nat × ReqKind)} {r : State}, s0.recPuts id p ws r = .wait t → SameUnit s0 t
  | [], r, h => by cases h
  | (off, n, k) :: ws, r, h => by
    rw [State.recPuts] at h
    split at h
    · exact recPuts_waits_sameUnit h
    · split at h
      · next hput =>
        cases h
        exact recPut_waits_sameUnit hput
      · cases h
        exact SameUnit.refl _

theorem beginRecord_sameUnit (id : Nat) (p : Plan) (ws : List (Nat × Nat × ReqKind)) : Keeps SameUnit (beginRecord id p ws) := by
  have hf := sameUnit_local.toFrames
  intro s a t h
  unfold beginRecord at h
  simp only [M.bind_run, M.get_run] at h
  cases hp : s.recPuts id p ws s with
  | ok z =>
    rw [hp] at h
    cases h
    exact recPuts_sameUnit hp
  | wait z =>
    rw [hp] at h
    dsimp only at h
    cases he : s.elemAcc p.owner p.ctx p.hidx p.handle (p.hdr : Int) 0 1 .wr with
    | error e =>
      rw [he] at h
      cases h
    | ok b =>
      rw [he] at h
      dsimp only at h
      cases hacc : s.engAccess (s.engReq id p.owner b (.store 0 false)) <;> rw [hacc] at h <;> cases h

theorem modPlan_sameUnit (s : State) (id : Nat) (f : Plan → Plan) : SameUnit s (s.modPlan id f) := sameUnit_of_units rfl rfl rfl rfl rfl

theorem takeDones_sameUnit (s : State) (id : Nat) (p : Plan) : SameUnit s (s.takeDones id p) := by
  unfold State.takeDones
  split
  · exact SameUnit.refl s
  · exact sameUnit_of_units rfl rfl rfl rfl rfl

theorem freeInbox_sameUnit (s : State) (p : Plan) : SameUnit s (s.freeInbox p) :=
  sameUnit_local.toFrames.foldl (f := fun (s : State) (x : Inbox) => s.sendBack x.src (.answer x.src p.tag x.index .busy))
    (fun s _ => sendBack_sameUnit s _ _) _ s

theorem planEnd_sameUnit (s : State) (id : Nat) (p : Plan) (state : Nat) (fcode : Option Nat) (code : Nat) :
    SameUnit s (s.planEnd id p state fcode code) := by
  have hfree := freeInbox_sameUnit s p
  have hplans : ∀ (x : State) (m : Assoc Plan), SameUnit x { x with plans := m } := fun _ _ => sameUnit_of_units rfl rfl rfl rfl rfl
  unfold State.planEnd
  dsimp only
  split
  · next h =>
    exact (hfree.trans (recPuts_waits_sameUnit h)).trans (modPlan_sameUnit _ _ _)
  · next h =>
    exact ((hfree.trans (recPuts_sameUnit h)).trans (sameUnit_local.ctx _ _ _)).trans
      ((hplans _ _).trans (reply_sameUnit _ _ _ _ _))

/-! LADLE and LRESUME. -/

/-- The plan of LADLE or LRESUME, once its checks are passed. -/
def newPlan (s r : State) (u : Agent) (hi : Nat) (resume : Bool) (ha : Acc) (hdr : Nat) (src dst : Layout) (set0 : NatSet) : Plan :=
  { owner := u, ctx := s.ctxOf u, gid := (r.teamOf u).map (·.gid), core := (s.coreOf u).getD 0, handle := s.handleOf u hi, hidx := hi,
    hdr := ha.loc - Hnd.base (s.handleOf u hi), hdrIA := ha.addr, src, dst, pair := s.handleOf u (Prog.shh hdr), shh := Prog.shh hdr,
    csz := Prog.csz hdr, tag := BitVec.ofNat 64 (Prog.tag hdr),
    digest := BitVec.ofNat 64 (planDigest src dst (Prog.csz hdr) (BitVec.ofNat 64 (Prog.tag hdr))),
    total := chunkTotal (regions src dst (Prog.csz hdr) s.mgmt.fid),
    bits := set0.filter (· < chunkTotal (regions src dst (Prog.csz hdr) s.mgmt.fid)), send := [], inbox := [], stage := .queued,
    pois := (if resume then (s.context (s.ctxOf u)).stopped.get ha.addr (false, []) else (false, [])).1,
    heard := (if resume then (s.context (s.ctxOf u)).stopped.get ha.addr (false, []) else (false, [])).2,
    answered := [], landing := .none }

/-- The code of a progress record that LADLE or LRESUME does not take, 0 for one that it takes. -/
def recordCode (resume : Bool) (hdr : Nat) : Nat :=
  if Prog.malformed hdr then 0x93 else if (if resume then Prog.state hdr != 2 && Prog.state hdr != 5 else Prog.state hdr != 0) then 0x9A else 0

/-- The code of R285 for a plan whose layouts stand. -/
def State.ladleCode (s : State) (u : Agent) (resume : Bool) (hdr : Nat) (src dst : Layout) : Nat :=
  s.planCheck (s.ctxOf u) (s.handleOf u (Prog.shh hdr)) src dst hdr (chunkTotal (regions src dst (Prog.csz hdr) s.mgmt.fid))
    (planDigest src dst (Prog.csz hdr) (BitVec.ofNat 64 (Prog.tag hdr))) resume

/-- Whether two layouts hold tensors of one shape and format. -/
def sameTensor (src dst : Layout) : Bool :=
  TLR.rank src.tlr == TLR.rank dst.tlr && TLR.fmt src.tlr == TLR.fmt dst.tlr && fld src.tlr 255 0 == fld dst.tlr 255 0

/-- A plan that has passed its checks takes a slot, or waits for one. -/
def enterPlan (s0 : State) (id : Nat) (p : Plan) (ws : List (Nat × Nat × ReqKind)) : M Unit := do
  beginRecord id p ws
  modify (fun s => { s with plans := s.plans.put id p })
  if ((← get).plans.filter (fun q => q.2.stage != .queued)).length < 4 then startPlan id p
  else queuePlan s0 id p ws

/-- The fields that LADLE writes into a record before its plan has a slot. -/
def recordFields (resume : Bool) (src dst : Layout) (hdr fid : Nat) : List (Nat × Nat × ReqKind) :=
  if resume then [] else [putField 16 4 (chunkTotal (regions src dst (Prog.csz hdr) fid)),
    putField 24 8 (planDigest src dst (Prog.csz hdr) (BitVec.ofNat 64 (Prog.tag hdr)))]

/-- LADLE and LRESUME from their layouts on. -/
def ladlePlan (s0 : State) (u : Agent) (hi : Nat) (resume : Bool) (ha : Acc) (hdr : Nat) (src dst : Layout) : M Unit := do
  let s ← get
  let code := s.ladleCode u resume hdr src dst
  if code ≠ 0 then writeStatus code false
  else do
    let set0 ← (if resume then loadBits hi (s.handleOf u hi) (ha.loc - Hnd.base (s.handleOf u hi)) 0
        ((chunkTotal (regions src dst (Prog.csz hdr) s.mgmt.fid) + 7) / 8) else pure [])
    awaitReplies 1
    let id ← freshId
    let g ← myGrid
    enterPlan s0 id { newPlan s s u hi resume ha hdr src dst set0 with gid := g } (recordFields resume src dst hdr s.mgmt.fid)

/-- LADLE and LRESUME from their layout records on. -/
def ladleLayouts (s0 : State) (u : Agent) (hi : Nat) (resume : Bool) (ha : Acc) (hdr sx dx : Nat) : M Unit := do
  match ← loadLayout hi sx false with
  | none => writeStatus 0x90 false
  | some src =>
    match ← loadLayout hi dx true with
    | none => writeStatus 0x90 false
    | some dst => if !sameTensor src dst then writeStatus 0x91 false else ladlePlan s0 u hi resume ha hdr src dst

/-- LADLE and LRESUME with their operands. -/
def ladleBody (s0 : State) (u : Agent) (hi : Nat) (resume : Bool) (v : Opnds) (_m : Nat) : M Unit := do
  match (← get).queuedPlan u with
  | some (id, p) => startPlan id p
  | none => do
    let m := lowLane (← lanes)
    trapIf ((v.a m).poison || (v.b m).poison || (v.c m).poison) 0x11 1
    let ha ← ladleAcc hi 64 v v.b .rd
    let sa ← ladleAcc hi 256 v v.a .rd
    let da ← ladleAcc hi 256 v v.c .rd
    let hdr ← loadNow ha
    let sx ← loadNow sa
    let dx ← loadNow da
    if recordCode resume hdr ≠ 0 then writeStatus (recordCode resume hdr) false else ladleLayouts s0 u hi resume ha hdr sx dx

theorem exec_ladle (hcur : s.cur = some u) : exec .ladle s = meaning (onceOp .ladle {} (ladleBody s u s.ir.x8.toNat false)) s :=
  (meaning_read (M.ops_run s)).trans ((meaning_read (M.unit_run hcur)).trans (meaning_read (M.get_run s)))

theorem exec_lresume (hcur : s.cur = some u) : exec .lresume s = meaning (onceOp .lresume {} (ladleBody s u s.ir.x8.toNat true)) s :=
  (meaning_read (M.ops_run s)).trans ((meaning_read (M.unit_run hcur)).trans (meaning_read (M.get_run s)))

/-- An instruction that acts once, from what its body leaves. -/
theorem onceOp_completes {body : Opnds → Nat → M Unit} (he : Executes s u sh) (hd : Delivers s u sh .offset v t)
    (hb : body v (t.lead u) t = .ok ((), t')) (hcur : t'.cur = some u) (hctl : (t'.ctl u).isSome) :
    meaning (onceOp i sh body) s = .next (s.closed t' u i sh) := by
  obtain ⟨act, hact, hlow⟩ := hd.lowLane he
  have hfetch : fetch sh .offset (s.past u) = .ok (v, t) := hd
  refine insn_next he ?_ hcur hctl
  simp only [M.bind_run, hfetch, hact, hlow, hb]

theorem onceOp_completes_of_sameUnit {body : Opnds → Nat → M Unit} (he : Executes s u sh) (hd : Delivers s u sh .offset v t)
    (hb : body v (t.lead u) t = .ok ((), t')) (hs : SameUnit t t') : meaning (onceOp i sh body) s = .next (s.closed t' u i sh) := by
  have h := ((past_sameUnit s u).trans hd.sameUnit).trans hs
  exact onceOp_completes he hd hb (h.1.trans he.1) (by rw [h.2.2]; exact he.isSome)

theorem loadNow_sameUnit (a : Acc) : Keeps SameUnit (loadNow a) := by
  have hf := sameUnit_local.toFrames
  exact Keeps.bind hf (Keeps.get hf) (fun _ => Keeps.bind hf (Keeps.unit hf) (fun _ => Keeps.bind hf (Keeps.here hf) (fun _ =>
    Keeps.bind hf (doNowN_load_sameUnit rfl) (fun _ => Keeps.bind hf (Keeps.trapIf hf _ _ _) (fun _ => Keeps.pure hf _)))))

theorem loadDevices_sameUnit (hi : Nat) : ∀ (n va : Nat), Keeps SameUnit (loadDevices hi va n)
  | 0, _ => Keeps.pure sameUnit_local.toFrames _
  | n + 1, va => by
    have hf := sameUnit_local.toFrames
    exact Keeps.bind hf (Keeps.get hf) (fun _ => Keeps.bind hf (Keeps.unit hf) (fun _ => Keeps.bind hf (Keeps.orTrap hf _) (fun _ =>
      Keeps.bind hf (loadNow_sameUnit _) (fun _ => Keeps.bind hf (loadDevices_sameUnit hi n _) (fun _ => Keeps.pure hf _)))))

theorem loadLayout_sameUnit (hi x : Nat) (dst : Bool) : Keeps SameUnit (loadLayout hi x dst) := by
  have hf := sameUnit_local.toFrames
  unfold loadLayout
  dsimp only
  split
  · exact Keeps.pure hf _
  · exact Keeps.bind hf (loadDevices_sameUnit _ _ _) (fun _ => Keeps.pure hf _)

theorem loadBits_sameUnit (hi : Nat) (h : Handle) (k : Nat) : ∀ (n j : Nat), Keeps SameUnit (loadBits hi h k j n)
  | 0, _ => Keeps.pure sameUnit_local.toFrames _
  | n + 1, j => by
    have hf := sameUnit_local.toFrames
    exact Keeps.bind hf (Keeps.get hf) (fun _ => Keeps.bind hf (Keeps.unit hf) (fun _ => Keeps.bind hf (Keeps.orTrap hf _) (fun _ =>
      Keeps.bind hf (loadNow_sameUnit _) (fun _ => Keeps.bind hf (loadBits_sameUnit hi h k n _) (fun _ => Keeps.pure hf _)))))

/-- A plan that has its slot. -/
def State.planStarted (r : State) (id : Nat) (p : Plan) (l : Landing) : State :=
  (r.modPlan id (fun _ => { p with landing := l, stage := .sending })).takeDones id p

theorem planStarted_sameUnit (r : State) (id : Nat) (p : Plan) (l : Landing) : SameUnit r (r.planStarted id p l) :=
  (modPlan_sameUnit r id _).trans (takeDones_sameUnit _ _ _)

section
variable (hslots : (r.plans.filter (fun z => z.2.stage != .queued)).length < 4) (hl : landD r = .ok (l, t8))
  (hb : beginRecord id p [putField 10 1 1] t8 = .ok ((), t9))
include hslots hl hb

theorem startPlan_run : startPlan id p r = .ok ((), t9.planStarted id p l) := by
  simp only [startPlan, M.bind_run, M.get_run, decide_eq_true hslots, M.waitUnless_true, M.pure_run, hl, hb, M.modify_run]
  rfl

omit hslots in
theorem startPlan_sameUnit : SameUnit r (t9.planStarted id p l) :=
  ((landD_sameUnit _ _ _ hl).trans (beginRecord_sameUnit _ _ _ _ _ _ hb)).trans (planStarted_sameUnit _ _ _ _)

end

/-- A unit whose plan waits for a slot, with the plans of another state. -/
def State.planWaits (z w : State) (u : Agent) : State := ({ z with plans := w.plans, fresh := w.fresh } : State).setWait u .plan

theorem planWaits_sameUnit (z w : State) (u : Agent) : SameUnit z (z.planWaits w u) :=
  SameUnit.trans (sameUnit_of_units rfl rfl rfl rfl rfl : SameUnit z ({ z with plans := w.plans, fresh := w.fresh } : State))
    (sameUnit_local.modCtl _ _ _)

theorem queuePlan_run {ws : List (Nat × Nat × ReqKind)} {z w : State} (hz : s0.recPuts id p ws s0 = .ok z)
    (hw : w.cur = some u) : queuePlan s0 id p ws w = .ok ((), z.planWaits w u) := by
  simp only [queuePlan, M.bind_run, M.get_run, hz, M.unit_run hw, M.set_run]
  rfl

theorem enterPlan_starts {ws : List (Nat × Nat × ReqKind)} (hb : beginRecord id p ws t = .ok ((), t7))
    (hslots : (({ t7 with plans := t7.plans.put id p } : State).plans.filter (fun z => z.2.stage != .queued)).length < 4)
    (hl : landD { t7 with plans := t7.plans.put id p } = .ok (l, t8)) (hr : beginRecord id p [putField 10 1 1] t8 = .ok ((), t9)) :
    enterPlan s0 id p ws t = .ok ((), t9.planStarted id p l) := by
  simp only [enterPlan, M.bind_run, hb, M.modify_run, M.get_run, if_pos hslots]
  exact startPlan_run hslots hl hr

theorem enterPlan_waits {ws : List (Nat × Nat × ReqKind)} {z : State} (hb : beginRecord id p ws t = .ok ((), t7)) (hcur : t7.cur = some u)
    (hslots : 4 ≤ (({ t7 with plans := t7.plans.put id p } : State).plans.filter (fun z => z.2.stage != .queued)).length)
    (hz : s0.recPuts id p ws s0 = .ok z) :
    enterPlan s0 id p ws t = .ok ((), z.planWaits { t7 with plans := t7.plans.put id p } u) := by
  simp only [enterPlan, M.bind_run, hb, M.modify_run, M.get_run, if_neg (Nat.not_lt.2 hslots)]
  exact queuePlan_run hz hcur

/-- A plan that passes its checks is entered. -/
theorem ladlePlan_enters (hcur : t5.cur = some u) (hcode : t5.ladleCode u resume hdr src dst = 0)
    (hset : if resume then loadBits hi (t5.handleOf u hi) (ha.loc - Hnd.base (t5.handleOf u hi)) 0
        ((chunkTotal (regions src dst (Prog.csz hdr) t5.mgmt.fid) + 7) / 8) t5 = .ok (set0, t6) else set0 = [] ∧ t6 = t5)
    (hroom : t6.replyRoom u 1 = true) : SameUnit t5 t6 ∧ ladlePlan s0 u hi resume ha hdr src dst t5 =
      enterPlan s0 t6.fresh (newPlan t5 t6 u hi resume ha hdr src dst set0) (recordFields resume src dst hdr t5.mgmt.fid)
        { t6 with fresh := t6.fresh + 1 } := by
  have hload : SameUnit t5 t6 ∧ (if resume then loadBits hi (t5.handleOf u hi) (ha.loc - Hnd.base (t5.handleOf u hi)) 0
      ((chunkTotal (regions src dst (Prog.csz hdr) t5.mgmt.fid) + 7) / 8) else pure [] : M NatSet) t5 = .ok (set0, t6) := by
    cases resume with
    | true => exact ⟨loadBits_sameUnit _ _ _ _ _ _ _ _ hset, hset⟩
    | false =>
      obtain ⟨rfl, rfl⟩ := hset
      exact ⟨SameUnit.refl _, rfl⟩
  have hct := hload.1.1.trans hcur
  have hct' : ({ t6 with fresh := t6.fresh + 1 } : State).cur = some u := hct
  refine ⟨hload.1, ?_⟩
  simp only [ladlePlan, M.bind_run, M.get_run, hcode, ne_eq, not_true_eq_false, if_false, hload.2, M.awaitReplies_run hct hroom, M.freshId_run,
    M.myGrid_run hct']
  rfl

/-- What LADLE and LRESUME find of their record and layouts, from their operands. -/
structure LadleReads (t : State) (u : Agent) (v : Opnds) (hi hdr x y : Nat) (ha sa da : Acc) (t1 t2 t3 : State) : Prop where
  clean : ((v.a (t.lead u)).poison || (v.b (t.lead u)).poison || (v.c (t.lead u)).poison) = false
  record : ladleAcc hi 64 v v.b .rd t = .ok (ha, t)
  source : ladleAcc hi 256 v v.a .rd t = .ok (sa, t)
  dest : ladleAcc hi 256 v v.c .rd t = .ok (da, t)
  header : loadNow ha t = .ok (hdr, t1)
  first : loadNow sa t1 = .ok (x, t2)
  second : loadNow da t2 = .ok (y, t3)

section
variable {x y m : Nat} (he : Executes s u {}) (hd : Delivers s u {} .offset v t) (hq : t.queuedPlan u = none)
  (hr : LadleReads t u v hi hdr x y ha sa da t1 t2 t3)
include hr

theorem LadleReads.sameUnit : SameUnit t t3 :=
  ((loadNow_sameUnit _ _ _ _ hr.header).trans (loadNow_sameUnit _ _ _ _ hr.first)).trans (loadNow_sameUnit _ _ _ _ hr.second)

include he hd hq

theorem ladleBody_run : ladleBody s0 u hi resume v m t =
    (if recordCode resume hdr ≠ 0 then writeStatus (recordCode resume hdr) false else ladleLayouts s0 u hi resume ha hdr x y) t3 := by
  obtain ⟨hclean, hrec, hsrc, hdst, hhdr, hx, hy⟩ := hr
  obtain ⟨act, hact, hlow⟩ := hd.lowLane he
  simp only [ladleBody, M.bind_run, M.get_run, hq, hact, hlow, hclean, M.trapIf_false, M.pure_run, hrec, hsrc, hdst, hhdr, hx, hy]

omit hq in
/-- The status of a plan that is refused. -/
theorem ladle_refused {r : State} (hs : SameUnit t3 r)
    (hbody : ladleBody s u hi resume v (t.lead u) t = writeStatus code false r)
    (hw : Writes r s.ir.d 1 (fun _ => ⟨statusWord code 0 0, false⟩) t') :
    meaning (onceOp i {} (ladleBody s u hi resume)) s = .next (s.closed t' u i {}) := by
  have h := hr.sameUnit.trans hs
  refine onceOp_completes_of_sameUnit he hd (hbody.trans ?_) (h.trans hw.sameUnit)
  exact M.writeD_of_writes (h.2.1.trans (hd.ir)) hw

variable (hok : recordCode resume hdr = 0)
include hok

theorem ladleBody_layouts : ladleBody s0 u hi resume v m t = ladleLayouts s0 u hi resume ha hdr x y t3 := by
  rw [ladleBody_run he hd hq hr, hok, if_neg (by simp)]

end

section
variable {x y : Nat} (hs : loadLayout hi x false t3 = .ok (some src, t4))

theorem ladleLayouts_no_source (hs : loadLayout hi x false t3 = .ok (none, t4)) :
    ladleLayouts s0 u hi resume ha hdr x y t3 = writeStatus 0x90 false t4 := by
  simp only [ladleLayouts, M.bind_run, hs]

include hs

theorem ladleLayouts_no_dest (hd : loadLayout hi y true t4 = .ok (none, t5)) :
    ladleLayouts s0 u hi resume ha hdr x y t3 = writeStatus 0x90 false t5 := by
  simp only [ladleLayouts, M.bind_run, hs, hd]

theorem ladleLayouts_both (hd : loadLayout hi y true t4 = .ok (some dst, t5)) :
    ladleLayouts s0 u hi resume ha hdr x y t3 =
      (if !sameTensor src dst then writeStatus 0x91 false else ladlePlan s0 u hi resume ha hdr src dst) t5 := by
  simp only [ladleLayouts, M.bind_run, hs, hd]

end

theorem sameTensor_iff : sameTensor src dst = true ↔
    TLR.rank src.tlr = TLR.rank dst.tlr ∧ TLR.fmt src.tlr = TLR.fmt dst.tlr ∧ fld src.tlr 255 0 = fld dst.tlr 255 0 := by
  simp only [sameTensor, Bool.and_eq_true, beq_iff_eq, and_assoc]

theorem ladlePlan_refuses (h : t5.ladleCode u resume hdr src dst ≠ 0) :
    ladlePlan s0 u hi resume ha hdr src dst t5 = writeStatus (t5.ladleCode u resume hdr src dst) false t5 := by
  simp only [ladlePlan, M.bind_run, M.get_run, if_pos h]

/-- A unit whose plan waits begins it once a slot is free. -/
theorem ladle_begins (he : Executes s u {}) (hd : Delivers s u {} .offset v t) (hq : t.queuedPlan u = some (id, p))
    (hslots : (t.plans.filter (fun z => z.2.stage != .queued)).length < 4) (hl : landD t = .ok (l, t8))
    (hb : beginRecord id p [putField 10 1 1] t8 = .ok ((), t9)) :
    meaning (onceOp i {} (ladleBody s u hi resume)) s = .next (s.closed (t9.planStarted id p l) u i {}) := by
  refine onceOp_completes_of_sameUnit he hd ?_ (startPlan_sameUnit hl hb)
  simp only [ladleBody, M.bind_run, M.get_run, hq]
  exact startPlan_run hslots hl hb

/-- What LADLE or LRESUME finds up to its plan: the record and both layouts stand, and the plan passes its checks. -/
structure LadleEnters (s t : State) (u : Agent) (v : Opnds) (hi hdr : Nat) (resume : Bool) (ha : Acc) (src dst : Layout) (t5 : State) :
    Prop where
  same : SameUnit t t5
  runs : ladleBody s u hi resume v (t.lead u) t = ladlePlan s u hi resume ha hdr src dst t5

theorem idTaken_sameUnit : SameUnit t6 { t6 with fresh := t6.fresh + 1 } := sameUnit_of_units rfl rfl rfl rfl rfl

section
variable {ws : List (Nat × Nat × ReqKind)} (he : Executes s u {}) (hd : Delivers s u {} .offset v t)
  (hent : LadleEnters s t u v hi hdr resume ha src dst t5) (hcode : t5.ladleCode u resume hdr src dst = 0)
  (hset : if resume then loadBits hi (t5.handleOf u hi) (ha.loc - Hnd.base (t5.handleOf u hi)) 0
      ((chunkTotal (regions src dst (Prog.csz hdr) t5.mgmt.fid) + 7) / 8) t5 = .ok (set0, t6) else set0 = [] ∧ t6 = t5)
  (hroom : t6.replyRoom u 1 = true) (hp : newPlan t5 t6 u hi resume ha hdr src dst set0 = p)
  (hws : recordFields resume src dst hdr t5.mgmt.fid = ws)
  (hb : beginRecord t6.fresh p ws { t6 with fresh := t6.fresh + 1 } = .ok ((), t7))
include he hd hent hcode hset hroom hp hws hb

/-- A plan that gets a slot runs from LADLE or LRESUME on. -/
theorem ladle_starts
    (hslots : (({ t7 with plans := t7.plans.put t6.fresh p } : State).plans.filter (fun z => z.2.stage != .queued)).length < 4)
    (hl : landD { t7 with plans := t7.plans.put t6.fresh p } = .ok (l, t8))
    (hr : beginRecord t6.fresh p [putField 10 1 1] t8 = .ok ((), t9)) :
    meaning (onceOp i {} (ladleBody s u hi resume)) s = .next (s.closed (t9.planStarted t6.fresh p l) u i {}) := by
  have hcur5 : t5.cur = some u := (hd.sameUnit.trans hent.same).1.trans he.past_cur
  obtain ⟨h56, hrun⟩ := ladlePlan_enters (s0 := s) hcur5 hcode hset hroom
  have h67 := idTaken_sameUnit.trans (beginRecord_sameUnit _ _ _ _ _ _ hb)
  have hplans : ∀ m : Assoc Plan, SameUnit t7 { t7 with plans := m } := fun _ => sameUnit_of_units rfl rfl rfl rfl rfl
  rw [hp, hws, enterPlan_starts hb hslots hl hr] at hrun
  exact onceOp_completes_of_sameUnit he hd (hent.runs.trans hrun)
    (((hent.same.trans h56).trans (h67.trans (hplans _))).trans (startPlan_sameUnit hl hr))

/-- A plan that finds no free slot waits at LADLE or LRESUME. -/
theorem ladle_waits
    (hslots : 4 ≤ (({ t7 with plans := t7.plans.put t6.fresh p } : State).plans.filter (fun z => z.2.stage != .queued)).length)
    (hz : s.recPuts t6.fresh p ws s = .ok r) :
    meaning (onceOp i {} (ladleBody s u hi resume)) s =
      .next (s.closed (r.planWaits { t7 with plans := t7.plans.put t6.fresh p } u) u i {}) := by
  have hcur5 : t5.cur = some u := (hd.sameUnit.trans hent.same).1.trans he.past_cur
  obtain ⟨h56, hrun⟩ := ladlePlan_enters (s0 := s) hcur5 hcode hset hroom
  have h67 := idTaken_sameUnit.trans (beginRecord_sameUnit _ _ _ _ _ _ hb)
  rw [hp, hws, enterPlan_waits hb (h67.1.trans (h56.1.trans hcur5)) hslots hz] at hrun
  have hs : SameUnit s (r.planWaits { t7 with plans := t7.plans.put t6.fresh p } u) :=
    (recPuts_sameUnit hz).trans (planWaits_sameUnit _ _ _)
  exact onceOp_completes he hd (hent.runs.trans hrun) (hs.1.trans he.1) (by rw [hs.2.2]; exact he.isSome)

end

/-! LSTAT and LABORT. -/

/-- What LSTAT reads: a field of the plan that runs on the record, else of the record itself (R286). -/
def lstatField (sel : Nat) (now : Option (Nat × Plan)) (h : Nat) : Nat :=
  match sel, now with
  | 0, some (_, p) => p.state
  | 0, none => Prog.state h
  | 1, some (_, p) => p.bits.length
  | 1, none => Prog.done h
  | 2, some (_, p) => p.total
  | 2, none => Prog.total h
  | _, some (_, p) => (match p.stage with
    | .ending _ (some f) _ => f
    | _ => Prog.fcode h)
  | _, none => Prog.fcode h

/-- LSTAT with its operands. -/
def lstatBody (o : Ops) (v : Opnds) (_m : Nat) : M Unit := do
  let a ← ladleAcc o.x8.toNat 64 v v.b .rd
  let x ← doNowN ((← get).reqOf (← unit) a .load (← here) 255 .none)
  acquire 4
  let s ← get
  let now := s.planAt (s.ctxOf (← unit)) a.addr
  writeD 1 (fun _ => heldVal ⟨BitVec.ofNat 64 (lstatField (o.c.immVal % 4) now x.1), x.2⟩)

theorem exec_lstat : exec .lstat s = meaning (onceOp .lstat { a := 0, c := 0 } (lstatBody s.ir)) s :=
  meaning_read (M.ops_run s)

section
variable {a : Acc} {h : Nat} {po : Bool} (he : Executes s u { a := 0, c := 0 })
  (hd : Delivers s u { a := 0, c := 0 } .offset v t) (hacc : ladleAcc s.ir.x8.toNat 64 v v.b .rd t = .ok (a, t))
include he hd hacc

theorem lstat_completes (hpc : s.pcAt u < 2 ^ 64) (hx : doNowN (t.reqOf u a .load (s.pcAt u) 255 .none) t = .ok ((h, po), t1))
    (hacq : acquire 4 t1 = .ok ((), t2))
    (hw : Writes t2 s.ir.d 1
      (fun _ => heldVal ⟨BitVec.ofNat 64 (lstatField (s.ir.c.immVal % 4) (t2.planAt (t2.ctxOf u) a.addr) h), po⟩) t') :
    exec .lstat s = .next (s.closed t' u .lstat { a := 0, c := 0 }) := by
  have h1 := doNowN_load_sameUnit rfl _ _ _ hx
  have h2 := h1.trans (acquire_sameUnit _ _ _ _ hacq)
  have hct := hd.sameUnit.1.trans he.past_cur
  refine exec_lstat.trans (onceOp_completes_of_sameUnit he hd ?_ (h2.trans hw.sameUnit))
  simp only [lstatBody, M.bind_run, hacc, M.get_run, M.unit_run hct, M.here_calm he hpc hd.calm, hx, hacq, M.unit_run (h2.1.trans hct)]
  exact M.writeD_of_writes (h2.2.1.trans hd.ir) hw

end

/-- LABORT with its operands. -/
def labortBody (o : Ops) (v : Opnds) (_m : Nat) : M Unit := do
  let a ← ladleAcc o.x8.toNat 64 v v.b .rd
  let s ← get
  match (s.planAt (s.ctxOf (← unit)) a.addr).filter (fun q => q.2.live) with
  | none => writeStatus 0x9B false
  | some (id, p) => do
    beginRecord id p [putField 10 1 2, putField 11 1 0x95]
    modify (fun s => s.planEnd id p 2 (some 0x95) 0x95)
    writeStatus 0 false

theorem exec_labort : exec .labort s = meaning (onceOp .labort { a := 0, c := 0 } (labortBody s.ir)) s :=
  meaning_read (M.ops_run s)

section
variable {a : Acc} {n : Nat} (he : Executes s u { a := 0, c := 0 })
  (hd : Delivers s u { a := 0, c := 0 } .offset v t) (hacc : ladleAcc s.ir.x8.toNat 64 v v.b .rd t = .ok (a, t))
include he hd hacc

theorem labort_of_none (hq : ∀ q, t.planAt (t.ctxOf u) a.addr = some q → q.2.live = false)
    (hw : Writes t s.ir.d 1 (fun _ => ⟨statusWord 0x9B 0 0, false⟩) t') :
    exec .labort s = .next (s.closed t' u .labort { a := 0, c := 0 }) := by
  have hct := hd.sameUnit.1.trans he.past_cur
  have hnone : (t.planAt (t.ctxOf u) a.addr).filter (fun q => q.2.live) = none := by
    cases hp : t.planAt (t.ctxOf u) a.addr with
    | none => rfl
    | some q => simp only [Option.filter_some, hq q hp, Bool.false_eq_true, if_false]
  refine exec_labort.trans (onceOp_completes_of_sameUnit he hd ?_ hw.sameUnit)
  simp only [labortBody, M.bind_run, hacc, M.get_run, M.unit_run hct, hnone]
  exact M.writeD_of_writes hd.ir hw

theorem labort_stops (hp : t.planAt (t.ctxOf u) a.addr = some (n, p)) (hlive : p.live = true)
    (hb : beginRecord n p [putField 10 1 2, putField 11 1 0x95] t = .ok ((), t1))
    (hw : Writes (t1.planEnd n p 2 (some 0x95) 0x95) s.ir.d 1 (fun _ => ⟨statusWord 0 0 0, false⟩) t') :
    exec .labort s = .next (s.closed t' u .labort { a := 0, c := 0 }) := by
  have hct := hd.sameUnit.1.trans he.past_cur
  have h1 := (beginRecord_sameUnit _ _ _ _ _ _ hb).trans (planEnd_sameUnit t1 n p 2 (some 0x95) 0x95)
  have hsome : (t.planAt (t.ctxOf u) a.addr).filter (fun q => q.2.live) = some (n, p) := by
    rw [hp]
    simp only [Option.filter_some, hlive, if_true]
  refine exec_labort.trans (onceOp_completes_of_sameUnit he hd ?_ (h1.trans hw.sameUnit))
  simp only [labortBody, M.bind_run, hacc, M.get_run, M.unit_run hct, hsome, hb, M.modify_run]
  exact M.writeD_of_writes (h1.2.1.trans hd.ir) hw

end

/-- What O42 says of LADLE and LRESUME up to the layouts, in the words of the lemmas above. -/
theorem LadleReads.enters {x y : Nat} (he : Executes s u {}) (hd : Delivers s u {} .offset v t) (hq : t.queuedPlan u = none)
    (hr : LadleReads t u v hi hdr x y ha sa da t1 t2 t3) (hok : recordCode resume hdr = 0)
    (hs : loadLayout hi x false t3 = .ok (some src, t4)) (hl : loadLayout hi y true t4 = .ok (some dst, t5))
    (hsame : sameTensor src dst = true) : LadleEnters s t u v hi hdr resume ha src dst t5 :=
  ⟨hr.sameUnit.trans ((loadLayout_sameUnit _ _ _ _ _ _ hs).trans (loadLayout_sameUnit _ _ _ _ _ _ hl)), by
    rw [ladleBody_layouts he hd hq hr hok, ladleLayouts_both hs hl, hsame, Bool.not_true, if_neg Bool.false_ne_true]⟩

end Sys2Proof.Machine
end

section open Sys2Proof Machine

/-- Settles O42: each clause by the body of its instruction, run from the loads and layouts that the clause names. -/
theorem ladleInstructionsComplete : Obligations.LadleInstructionsComplete := by
  unfold Obligations.LadleInstructionsComplete
  refine ⟨?_, ?_, ?_, ?_⟩
  · intro q hq s t t1 t2 t3 t' u v ha sa da hdr x y i hi st bad out fin m he hd hplan hpa hpb hpc hrec hsrc hdst hhdr hx hy
    have hr : LadleReads t u v hi hdr x y ha sa da t1 t2 t3 :=
      ⟨by rw [hpa, hpb, hpc]; rfl, hrec, hsrc, hdst, hhdr, hx, hy⟩
    have hexec : exec i s = meaning (onceOp i {} (ladleBody s u hi q.2)) s := by
      simp only [List.mem_cons, List.not_mem_nil, or_false] at hq
      rcases hq with rfl | rfl
      · exact exec_ladle he.1
      · exact exec_lresume he.1
    refine ⟨fun hbad hw => ?_, fun t4 t5 hok => ⟨fun hl hw => ?_, fun src hl => ⟨fun hl2 hw => ?_, fun dst hl2 => ?_⟩⟩⟩
    · refine hexec.trans (ladle_refused he hd hr (SameUnit.refl _) ?_ hw)
      rw [ladleBody_run he hd hplan hr]
      exact congrFun (if_pos hbad) t3
    · refine hexec.trans (ladle_refused he hd hr (loadLayout_sameUnit _ _ _ _ _ _ hl) ?_ hw)
      rw [ladleBody_layouts he hd hplan hr hok, ladleLayouts_no_source hl]
    · refine hexec.trans (ladle_refused he hd hr ((loadLayout_sameUnit _ _ _ _ _ _ hl).trans (loadLayout_sameUnit _ _ _ _ _ _ hl2)) ?_ hw)
      rw [ladleBody_layouts he hd hplan hr hok, ladleLayouts_no_dest hl hl2]
    · have h35 := (loadLayout_sameUnit _ _ _ _ _ _ hl).trans (loadLayout_sameUnit _ _ _ _ _ _ hl2)
      intro same pair tag total digest code
      refine ⟨fun hsame hw => ?_, fun hsame hcode hw => ?_, ?_⟩
      · refine hexec.trans (ladle_refused he hd hr h35 ?_ hw)
        have hn : sameTensor src dst = false := Bool.eq_false_iff.2 (fun h => hsame (sameTensor_iff.1 h))
        rw [ladleBody_layouts he hd hplan hr hok, ladleLayouts_both hl hl2, hn, Bool.not_false, if_pos rfl]
      · have hent := hr.enters he hd hplan hok hl hl2 (sameTensor_iff.2 hsame)
        exact hexec.trans (ladle_refused he hd hr h35 (hent.runs.trans (ladlePlan_refuses hcode)) hw)
      · intro set0 t6 t7 hsame hcode hset old id p ws hroom hb w running
        have hent := hr.enters he hd hplan hok hl hl2 (sameTensor_iff.2 hsame)
        refine ⟨fun t8 t9 l hslots hland hrec' => ?_, fun r hslots hz => ?_⟩
        · exact hexec.trans (ladle_starts he hd hent hcode hset hroom rfl rfl hb hslots hland hrec')
        · exact hexec.trans (ladle_waits he hd hent hcode hset hroom rfl rfl hb hslots hz)
  · intro i hi s t t8 t9 u v id p l he hd hq hslots hl hb
    simp only [List.mem_cons, List.not_mem_nil, or_false] at hi
    rcases hi with rfl | rfl
    · exact (exec_ladle he.1).trans (ladle_begins he hd hq hslots hl hb)
    · exact (exec_lresume he.1).trans (ladle_begins he hd hq hslots hl hb)
  · intro s t t1 t2 t' u v a h po sh sel r he hpc hd ha hx hacq hw
    have hr : r = lstatField sel (t2.planAt (t2.ctxOf u) a.addr) h := by
      simp only [r]
      rfl
    rw [hr] at hw
    exact lstat_completes he hd ha hpc hx hacq hw
  · intro s t t' u v a sh out fin he hd ha
    exact ⟨fun hq hw => labort_of_none he hd ha hq hw, fun n p t1 hp hlive hb hw => labort_stops he hd ha hp hlive hb hw⟩

end

section
/-! SUPPORT. The events of a Ladle plan (R282 to R284). -/

namespace Sys2Proof.Machine

variable {s t u z r0 : State} {n g src code : Nat} {p : Plan} {r : Region} {data : List Byte} {bad : List Nat} {tag digest : W64}
  {x : Sending} {a : LadleAnswer}

/-! Occurrences. -/

theorem exec_ladleBusyRetry (h : s.occ = .num2 n g) : exec .ladleBusyRetry s = .next ((s.ladleSendChunk n g).getD s) := by
  show execLadleBusyRetry s = _
  rw [execLadleBusyRetry, event_run]
  simp only [h]

theorem exec_ladleChunkArrival_chunk (h : s.occ = .chunk src tag digest g data bad) : exec .ladleChunkArrival s =
    .next (if s.mgmt.fidSet then s.ladleChunk src tag digest g data bad else s.sendBack src (.answer src tag g .remote)) := by
  show execLadleChunkArrival s = _
  rw [execLadleChunkArrival, event_run]
  simp only [h]
  cases s.mgmt.fidSet <;> rfl

theorem exec_ladleChunkArrival_kept (h : s.occ = .num2 n g) : exec .ladleChunkArrival s = .next ((s.ladleInbox n g).getD s) := by
  show execLadleChunkArrival s = _
  rw [execLadleChunkArrival, event_run]
  simp only [h]

theorem exec_ladleChunkAnswer (h : s.occ = .answer n g a) : exec .ladleChunkAnswer s = .next ((s.ladleAnswer n g a).getD s) := by
  show execLadleChunkAnswer s = _
  rw [execLadleChunkAnswer, event_run]
  simp only [h]

theorem exec_ladleChunkAnswer_kept (h : s.occ = .num2 n g) : exec .ladleChunkAnswer s = .next ((s.ladleKept n g).getD s) := by
  show execLadleChunkAnswer s = _
  rw [execLadleChunkAnswer, event_run]
  simp only [h]

theorem exec_remoteTimeout_chunk (h : s.occ = .num2 n g) : exec .remoteTimeout s = .next ((s.ladleLate n g).getD s) := by
  show execRemoteTimeout s = _
  rw [execRemoteTimeout, event_run]
  simp only [h]

theorem exec_remoteTimeout (h : s.occ = .num n) : exec .remoteTimeout s = .next ((s.remoteTimeout n false).getD s) := by
  show execRemoteTimeout s = _
  rw [execRemoteTimeout, event_run]
  simp only [h]

theorem exec_remoteTimeout_dropped (h : s.occ = .nums [n]) : exec .remoteTimeout s = .next ((s.remoteTimeout n true).getD s) := by
  show execRemoteTimeout s = _
  rw [execRemoteTimeout, event_run]
  simp only [h]

theorem exec_ladleDone_own (h : s.occ = .num n) : exec .ladleDone s = .next ((s.ladleDone n).getD s) := by
  show execLadleDone s = _
  rw [execLadleDone, event_run]
  simp only [h]

theorem exec_ladleCommit_own (h : s.occ = .num n) : exec .ladleCommit s = .next ((s.ladleCommit n).getD s) := by
  show execLadleCommit s = _
  rw [execLadleCommit, event_run]
  simp only [h]

/-- LADLE_FINISHED of a plan of this device. -/
def State.ladleFinished (s : State) (n : Nat) : Option State :=
  (s.plans.find n).bind (fun p => match p.stage with
    | .ending st f code => some (s.planEnd n p st f code)
    | _ => if s.running p.ctx && p.coord == s.mgmt.fid then s.ladleFinish n p else none)

theorem exec_ladleFinished_own (h : s.occ = .num n) : exec .ladleFinished s = .next ((s.ladleFinished n).getD s) := by
  show execLadleFinished s = _
  rw [execLadleFinished, event_run]
  simp only [h]
  rfl

/-- What a message of the agreement round that has come does. -/
def State.roundHeard (i : Instr) (s : State) (src : Nat) (tag : W64) : Option State :=
  match i with
  | .ladleDone => s.ladleHear src tag
  | .ladleCommit => s.ladleCommitted tag
  | .ladlePublished => s.ladlePublished src tag
  | .ladleFinished => (s.planTagged tag).bind (fun q => if q.2.coord == s.mgmt.fid then none else s.ladleFinish q.1 q.2)
  | _ => none

theorem exec_ladleRound {i : Instr} (hi : i ∈ [Instr.ladleDone, .ladleCommit, .ladlePublished, .ladleFinished])
    (h : s.occ = .ladle src tag) : exec i s = .next ((s.roundMsg src tag (s.roundHeard i src tag)).getD s) := by
  simp only [List.mem_cons, List.not_mem_nil, or_false] at hi
  rcases hi with rfl | rfl | rfl | rfl
  · show execLadleDone s = _
    rw [execLadleDone, event_run]
    simp only [h]
    rfl
  · show execLadleCommit s = _
    rw [execLadleCommit, event_run]
    simp only [h]
    rfl
  · show execLadlePublished s = _
    rw [execLadlePublished, event_run]
    simp only [h]
    rfl
  · show execLadleFinished s = _
    rw [execLadleFinished, event_run]
    simp only [h]
    rfl

theorem exec_ladleRound_ready {i : Instr} (hi : i ∈ [Instr.ladleDone, .ladleCommit, .ladlePublished, .ladleFinished])
    (h : s.occ = .ladle src tag) (hf : s.mgmt.fidSet = true) : exec i s = .next ((s.roundHeard i src tag).getD s) := by
  rw [exec_ladleRound hi h, State.roundMsg, if_pos hf]

/-! Chunks. -/

section
variable (hn : s.plans.find n = some p) (hg : p.regionOf s.mgmt.fid g = some r)
include hn hg

section
variable (hrun : s.running p.ctx = true) (hst : p.stage = .sending)
  (hsrc : (p.src.devs.getD r.s (0, 0)).1 = s.mgmt.fid) (hbit : p.bits.has (r.local' + (g - r.first)) = false)
  (hsend : ∀ x, p.send.find g = some x → x.awaited = false ∧ x.clock ≤ s.now)
  (hread : s.chunkRead n p (p.src.devs.getD r.s (0, 0)).2 (TLR.elem p.dst.tlr) (p.elems r g) 0 s [] [] = .ok data bad t)
include hrun hst hsrc hbit hsend hread

/-- A chunk that may go, once it is read. -/
theorem ladleSendChunk_eq : s.ladleSendChunk n g =
    if (p.dst.devs.getD r.d (0, 0)).1 = s.mgmt.fid then
      match t.takeChunk n p r g data bad with
      | (some u, _, _) => some u
      | (none, true, _) => some (s.planFail n p 0x99)
      | (none, false, u) => some u
    else
      match t.ladleSend n (p.dst.devs.getD r.d (0, 0)).1 clsRequest (.chunk (p.dst.devs.getD r.d (0, 0)).1 p.tag p.digest g data bad) with
      | none => some (s.planFail n p 0x97)
      | some u => some (u.modPlan n (fun q =>
        { q with send := q.send.put g { awaited := true, clock := s.now, backoff := (p.send.find g).elim 512 (·.backoff) } })) := by
  have hready : (match p.send.find g with
      | some x => !x.awaited && decide (x.clock ≤ s.now)
      | none => true) = true := by
    cases hx : p.send.find g with
    | none => rfl
    | some x =>
      obtain ⟨ha, hc⟩ := hsend x hx
      simp only [ha, Bool.not_false, Bool.true_and, decide_eq_true hc]
  have hguard : (!s.running p.ctx || p.stage != .sending || (p.src.devs.getD r.s (0, 0)).1 != s.mgmt.fid ||
      p.bits.has (r.local' + (g - r.first)) || !(match p.send.find g with
      | some x => !x.awaited && decide (x.clock ≤ s.now)
      | none => true)) = false := by
    rw [hready, hrun, hst, hsrc, hbit]
    simp
  unfold State.ladleSendChunk
  simp only [hn, hg]
  rw [if_neg (by exact Bool.eq_false_iff.1 hguard)]
  simp only [hread] <;> (split <;> rfl)

end

/-- A chunk whose receiver was busy. -/
def State.backedOff (s : State) (x : Sending) : Sending :=
  { awaited := false, clock := s.now + min (2 * x.backoff) (2 ^ 20), backoff := min (2 * x.backoff) (2 ^ 20) }

theorem ladleAnswer_eq (hx : p.send.find g = some x) (hrun : s.planRuns p = true) (haw : x.awaited = true) :
    s.ladleAnswer n g a = match a with
      | .busy => some (s.modPlan n (fun p => { p with send := p.send.put g (s.backedOff x) }))
      | .parked => some (s.modPlan n (fun p => { p with send := p.send.put g { x with parked := true } }))
      | .mismatch => some (s.planFail n p 0x96)
      | .remote => some (s.planFail n p 0x97)
      | .ack => some (s.ladleAck n g p r) := by
  simp only [State.ladleAnswer, hn, hx, hg, hrun, haw, Bool.not_true, Bool.or_self, Bool.false_eq_true, if_false] <;> rfl

theorem ladleKept_eq (hx : p.send.find g = some x) (hrun : s.planRuns p = true) (hack : x.acked = true) :
    s.ladleKept n g = some (s.ladleAck n g p r) := by
  simp only [State.ladleKept, hn, hx, hg, hrun, hack, Bool.and_self, if_true]

end

theorem ladleAck_ok (h : s.setChunk n p (r.local' + (g - r.first)) g false = .ok t) : s.ladleAck n g p r = t := by
  simp only [State.ladleAck, h]

theorem ladleAck_wait (h : s.setChunk n p (r.local' + (g - r.first)) g false = .wait t) : s.ladleAck n g p r =
    t.modPlan n (fun p => { p with send := p.send.alter g (fun x => { x with acked := true }) }) := by
  simp only [State.ladleAck, h]

/-- The running plans with a tag. -/
def State.plansTagged (s : State) (tag : W64) : Assoc Plan := s.plans.filter (fun q => q.2.tag == tag && s.planRuns q.2)

theorem ladleChunk_busy (h : s.plansTagged tag = []) :
    s.ladleChunk src tag digest g data bad = s.sendBack src (.answer src tag g .busy) := by
  have h' : s.plans.filter (fun q => q.2.tag == tag && s.planRuns q.2) = [] := h
  simp only [State.ladleChunk, h', List.find?_nil, List.isEmpty_nil, if_true]

theorem ladleChunk_mismatch (h : s.plansTagged tag ≠ []) (hd : ∀ q ∈ s.plansTagged tag, q.2.digest ≠ digest) :
    s.ladleChunk src tag digest g data bad = s.sendBack src (.answer src tag g .mismatch) := by
  have hf : (s.plans.filter (fun q => q.2.tag == tag && s.planRuns q.2)).find? (fun q => q.2.digest == digest) = none :=
    List.find?_eq_none.2 (fun q hq => by simpa using hd q hq)
  have he : (s.plans.filter (fun q => q.2.tag == tag && s.planRuns q.2)).isEmpty = false :=
    Bool.eq_false_iff.2 (fun h0 => h (List.isEmpty_iff.1 h0))
  simp only [State.ladleChunk, hf, he, Bool.false_eq_true, if_false]

section
variable (hp : (s.plansTagged tag).find? (fun q => q.2.digest == digest) = some (n, p)) (hg : p.regionOf s.mgmt.fid g = some r)
  (hdst : (p.dst.devs.getD r.d (0, 0)).1 = s.mgmt.fid)
include hp hg hdst

theorem ladleChunk_again (hbit : p.bits.has (r.local' + (g - r.first)) = true) :
    s.ladleChunk src tag digest g data bad = s.sendBack src (.answer src tag g .ack) := by
  have hp' : (s.plans.filter (fun q => q.2.tag == tag && s.planRuns q.2)).find? (fun q => q.2.digest == digest) = some (n, p) := hp
  simp only [State.ladleChunk, hp', hg, hdst, hbit, ne_eq, not_true_eq_false, if_false, if_true]

variable (hbit : p.bits.has (r.local' + (g - r.first)) = false)
include hbit

theorem ladleChunk_lands (ht : s.takeChunk n p r g data bad = (some t, false, t)) :
    s.ladleChunk src tag digest g data bad = t.sendBack src (.answer src tag g .ack) := by
  have hp' : (s.plans.filter (fun q => q.2.tag == tag && s.planRuns q.2)).find? (fun q => q.2.digest == digest) = some (n, p) := hp
  simp only [State.ladleChunk, hp', hg, hdst, hbit, ht, ne_eq, not_true_eq_false, Bool.false_eq_true, if_false]

theorem ladleChunk_parks (ht : s.takeChunk n p r g data bad = (none, false, t)) (hx : ∀ x ∈ p.inbox, x.index ≠ g) :
    s.ladleChunk src tag digest g data bad =
      (t.modPlan n (fun p => { p with inbox := p.inbox ++ [⟨src, g, data, bad⟩] })).sendBack src (.answer src tag g .parked) := by
  have hp' : (s.plans.filter (fun q => q.2.tag == tag && s.planRuns q.2)).find? (fun q => q.2.digest == digest) = some (n, p) := hp
  have hany : p.inbox.any (fun x => x.index == g) = false := List.any_eq_false.2 (fun x h => by simpa using hx x h)
  simp only [State.ladleChunk, hp', hg, hdst, hbit, ht, hany, ne_eq, not_true_eq_false, Bool.false_eq_true, if_false]

end

theorem ladleInbox_eq {x : Inbox} (hn : s.plans.find n = some p) (hrun : s.planRuns p = true)
    (hx : p.inbox.find? (fun x => x.index == g) = some x) :
    s.ladleInbox n g = some (s.ladleChunk x.src p.tag p.digest g x.data x.bad) := by
  simp only [State.ladleInbox, hn, hrun, Bool.not_true, Bool.false_eq_true, if_false, hx, Option.map_some]

theorem ladleLate_eq (hn : s.plans.find n = some p) (hx : p.send.find g = some x) (hrun : s.planRuns p = true) (haw : x.awaited = true) :
    s.ladleLate n g = if x.parked = false ∧ x.acked = false ∧ x.clock + 4194304 ≤ s.now then some (s.planFail n p 0x97) else none := by
  simp only [State.ladleLate, hn, hx, hrun, haw, remoteLimit, true_and, Bool.not_eq_true]

/-! Requests to another device. -/

section
variable {q : Req} {dev ia dl link : Nat} (hq : s.reqs.find n = some q)
include hq

theorem remoteTimeout_remote {dropped : Bool} (hph : q.phase = .remote dev ia dl link) (hdl : dl ≤ s.now) :
    s.remoteTimeout n dropped = some { s with reqs := s.reqs.put n { q with phase := .failed { tinfo 0x50 2 with
      handle := BitVec.ofNat 8 q.handle, loc := BitVec.ofNat 64 ia, lane := q.laneNo } } } := by
  simp only [State.remoteTimeout, hq, Option.bind_some, hph, if_pos hdl]
  rfl

theorem remoteTimeout_parked (hph : q.phase = .remoteParked dev ia link) (dropped : Bool) :
    s.remoteTimeout n dropped = if dropped then some { s with reqs := s.reqs.put n { q with phase := .failed { tinfo 0x50 2 with
      handle := BitVec.ofNat 8 q.handle, loc := BitVec.ofNat 64 ia, lane := q.laneNo } } } else none := by
  simp only [State.remoteTimeout, hq, Option.bind_some, hph]
  rfl

end

/-! The agreement round. -/

theorem ladleDone_eq (hn : s.plans.find n = some p) (hrun : s.running p.ctx = true) (hst : p.stage = .sending)
    (hbits : p.bits.length = p.total) (hr : s.recPuts n p [putField 10 1 3] s = .ok t) :
    s.ladleDone n = if p.coord = s.mgmt.fid then
        some ((t.modPlan n (fun _ => { p with stage := .agreeing })).heardDone n { p with stage := .agreeing } s.mgmt.fid)
      else match (t.modPlan n (fun _ => { p with stage := .agreeing })).ladleSend n p.coord clsRequest (.done p.coord p.tag) with
        | some u => some u
        | none => some (s.planFail n { p with stage := .agreeing } 0x97) := by
  simp only [State.ladleDone, hn, hrun, hst, hbits, hr, Bool.not_true, bne_self_eq_false, Bool.or_self, Bool.false_eq_true, if_false] <;> rfl

theorem ladleHear_none (h : s.planTagged tag = none) :
    (s.ladleHear src tag).getD s = if (src, tag) ∈ s.dones then s else { s with dones := s.dones ++ [(src, tag)] } := by
  have hany : s.dones.any (· == (src, tag)) = decide ((src, tag) ∈ s.dones) := by
    rw [Bool.eq_iff_iff]
    simp
  simp only [State.ladleHear, h, hany, decide_eq_true_eq]
  split <;> rfl

theorem mem_natSet_add {k j : Nat} : ∀ {m : NatSet}, j ∈ m.add k ↔ j ∈ m ∨ j = k
  | [] => by simp [NatSet.add]
  | i :: m => by
    rw [NatSet.add]
    split
    · next h =>
      subst h
      simp only [List.mem_cons]
      tauto
    · split
      · simp only [List.mem_cons]
        tauto
      · simp only [List.mem_cons, mem_natSet_add (m := m)]
        tauto

theorem mem_foldl_add {α : Type} (f : α → Nat) {j : Nat} : ∀ {l : List α} {m : NatSet},
    j ∈ l.foldl (fun h x => h.add (f x)) m ↔ j ∈ m ∨ ∃ x ∈ l, f x = j
  | [], m => by simp
  | y :: l, m => by
    rw [List.foldl_cons, mem_foldl_add f (l := l), mem_natSet_add]
    simp only [List.mem_cons, exists_eq_or_imp]
    tauto

/-- The coordinator's plan takes up what came before it began. -/
theorem takeDones_spec (hn : s.plans.find n = some p) (hc : p.coord = s.mgmt.fid) : ∃ q, (s.takeDones n p).plans.find n = some q ∧
    { q with heard := p.heard } = p ∧ (src ∈ p.devices → (src, p.tag) ∈ s.dones → src ∈ q.heard) ∧
    ∀ x ∈ (s.takeDones n p).dones, x ∈ s.dones ∧ ¬(x.2 = p.tag ∧ x.1 ∈ p.devices) := by
  rw [State.takeDones, if_neg (not_not.2 hc)]
  refine ⟨_, Assoc.find_alter_some _ hn, rfl, fun hd hm => ?_, fun x hx => ?_⟩
  · refine (mem_foldl_add Prod.fst).2 (.inr ⟨(src, p.tag), List.mem_filter.2 ⟨hm, ?_⟩, rfl⟩)
    simpa using hd
  · obtain ⟨hx, hmine⟩ := List.mem_filter.1 hx
    refine ⟨hx, fun ⟨h1, h2⟩ => ?_⟩
    simp [h1, h2] at hmine

section
variable (h : s.planTagged tag = some (n, p))
include h

theorem ladleHear_some (hc : p.coord = s.mgmt.fid) (hd : src ∈ p.devices) : s.ladleHear src tag = some (s.heardDone n p src) := by
  simp only [State.ladleHear, h, hc, hd, ne_eq, not_true_eq_false, or_self, if_false]

theorem ladlePublished_some (hc : p.coord = s.mgmt.fid) (hd : src ∈ p.devices) :
    s.ladlePublished src tag = some (s.heardPublished n p src) := by
  simp only [State.ladlePublished, h, hc, hd, ne_eq, not_true_eq_false, or_self, if_false]

theorem ladleCommitted_agreeing (hc : p.coord ≠ s.mgmt.fid) (hst : p.stage = .agreeing) :
    s.ladleCommitted tag = some (((s.modPlan n (fun p => { p with stage := .committed })).ladleCommit n).getD
      (s.modPlan n (fun p => { p with stage := .committed }))) := by
  simp only [State.ladleCommitted, h, beq_eq_false_iff_ne.2 hc, hst, bne_self_eq_false, Bool.false_eq_true, reduceCtorEq, if_false]

end

theorem ladleFinish_eq (hst : p.stage = .published) (hall : p.coord = s.mgmt.fid → ∀ d ∈ p.devices, p.answered.has d = true) :
    s.ladleFinish n p = some (s.planEnd n p 4 none (if p.pois then 0x11 else 0)) := by
  have hguard : (p.coord == s.mgmt.fid && !p.devices.all p.answered.has) = false := by
    by_cases hc : p.coord = s.mgmt.fid
    · rw [List.all_eq_true.2 (hall hc), Bool.not_true, Bool.and_false]
    · rw [beq_eq_false_iff_ne.2 hc, Bool.false_and]
  simp only [State.ladleFinish, hst, hguard, bne_self_eq_false, Bool.false_eq_true, if_false]

/-! What the coordinator does with done and published. -/

theorem heardDone_agreeing (hst : p.stage = .agreeing) : s.heardDone n p src =
    if p.devices.all (fun d => (p.heard.add src).has d) then
      match (s.modPlan n (fun _ => { p with heard := p.heard.add src })).tellAll n { p with heard := p.heard.add src }
          (fun d => .commit d p.tag) with
      | some t => t.modPlan n (fun p => { p with stage := .committed })
      | none => (s.modPlan n (fun _ => { p with heard := p.heard.add src })).planFail n { p with heard := p.heard.add src } 0x97
    else s.modPlan n (fun _ => { p with heard := p.heard.add src }) := by
  have h1 : ¬(p.stage = .committed ∨ p.stage = .published) := by simp [hst]
  refine (if_neg h1).trans ?_
  by_cases hall : p.devices.all (fun d => (p.heard.add src).has d) = true
  · exact (if_pos (by exact ⟨hst, hall⟩)).trans (if_pos hall).symm
  · exact (if_neg (fun h => hall (And.right h))).trans (if_neg hall).symm

theorem heardDone_partial (hst : p.stage = .agreeing) (hall : p.devices.all (fun d => (p.heard.add src).has d) = false) :
    s.heardDone n p src = s.modPlan n (fun _ => { p with heard := p.heard.add src }) := by
  rw [heardDone_agreeing hst, hall, if_neg Bool.false_ne_true]

theorem heardDone_all (hst : p.stage = .agreeing) (hall : p.devices.all (fun d => (p.heard.add src).has d) = true)
    (ht : (s.modPlan n (fun _ => { p with heard := p.heard.add src })).tellAll n { p with heard := p.heard.add src }
      (fun d => .commit d p.tag) = some t) :
    s.heardDone n p src = t.modPlan n (fun p => { p with stage := .committed }) := by
  rw [heardDone_agreeing hst, if_pos hall, ht]

theorem heardDone_again (hst : p.stage ∈ [PlanStage.committed, .published])
    (ht : (s.modPlan n (fun _ => { p with heard := p.heard.add src })).ladleSend n src clsRequest (.commit src p.tag) = some t) :
    s.heardDone n p src = t := by
  simp only [List.mem_cons, List.not_mem_nil, or_false] at hst
  simp only [State.heardDone, if_pos hst, ht, Option.getD_some]

theorem heardPublished_partial (hall : p.devices.all (fun d => (p.answered.add src).has d) = false) :
    s.heardPublished n p src = s.modPlan n (fun _ => { p with answered := p.answered.add src }) :=
  if_neg (Bool.eq_false_iff.1 hall)

theorem heardPublished_all (hall : p.devices.all (fun d => (p.answered.add src).has d) = true)
    (ht : (s.modPlan n (fun _ => { p with answered := p.answered.add src })).tellAll n { p with answered := p.answered.add src }
      (fun d => .finished d p.tag) = some t) : s.heardPublished n p src = t :=
  (if_pos (by exact hall)).trans (by exact congrArg (fun o : Option State => o.getD _) ht)

/-! A device publishes its pair. -/

/-- A plan that has published tells its coordinator. -/
def State.sayPublished (s : State) (n : Nat) (p : Plan) (t : State) : State :=
  let r := t.modPlan n (fun _ => { p with stage := .published })
  if p.coord = s.mgmt.fid then r.heardPublished n { p with stage := .published } s.mgmt.fid
  else (r.ladleSend n p.coord clsRequest (.published p.coord p.tag)).getD r

section
variable (hn : s.plans.find n = some p) (hrun : s.running p.ctx = true) (hst : p.stage = .committed)
include hn hrun hst

theorem ladleCommit_away (hd : ∀ d ∈ p.dst.devs, d.1 ≠ s.mgmt.fid) : s.ladleCommit n = some (s.sayPublished n p s) := by
  have hany : p.dst.devs.any (fun d => d.1 == s.mgmt.fid) = false := List.any_eq_false.2 (fun d h => by simpa using hd d h)
  simp only [State.ladleCommit, hn, hrun, hst, hany, Bool.not_true, bne_self_eq_false, Bool.or_self, Bool.false_eq_true, if_false]
  rfl

variable (hd : ∃ d ∈ p.dst.devs, d.1 = s.mgmt.fid)
include hd

theorem ladleCommit_done (hp : s.publish p.ctx p.pair = .done 0 t) : s.ladleCommit n = some (s.sayPublished n p t) := by
  have hany : p.dst.devs.any (fun d => d.1 == s.mgmt.fid) = true := by simpa using hd
  simp only [State.ladleCommit, hn, hrun, hst, hany, hp, Bool.not_true, bne_self_eq_false, Bool.or_self, Bool.false_eq_true, if_false, if_true]
  rfl

theorem ladleCommit_fails (hcode : code ≠ 0) (hp : s.publish p.ctx p.pair = .done code t) :
    s.ladleCommit n = some (t.planFail n p code) := by
  have hany : p.dst.devs.any (fun d => d.1 == s.mgmt.fid) = true := by simpa using hd
  simp only [State.ladleCommit, hn, hrun, hst, hany, hp, Bool.not_true, bne_self_eq_false, Bool.or_self, Bool.false_eq_true, if_false, if_true]

end

/-! The tiling of chunks. -/

/-- The pieces of one length that a range is cut into are the range. -/
theorem flatMap_pieces {α : Type} (f : Nat → α) (per N : Nat) : ∀ k,
    (List.range k).flatMap (fun c => (List.range (min per (N - c * per))).map (fun i => f (c * per + i))) =
      (List.range (min N (k * per))).map f
  | 0 => by simp
  | k + 1 => by
    have hsplit : min N ((k + 1) * per) = min N (k * per) + min per (N - k * per) := by
      rw [Nat.succ_mul]
      omega
    rw [List.range_succ, List.flatMap_append, flatMap_pieces f per N k, hsplit, List.range_add, List.map_append, List.map_map]
    congr 1
    rw [List.flatMap_cons, List.flatMap_nil, List.append_nil]
    refine List.map_congr_left (fun i hi => ?_)
    have hpos : k * per ≤ N := by
      have hi := List.mem_range.1 hi
      omega
    rw [Function.comp, Nat.min_eq_right hpos]

theorem le_ceil_mul {N per : Nat} (h : 1 ≤ per) : N ≤ (N + per - 1) / per * per := by
  have h1 := Nat.div_add_mod (N + per - 1) per
  have h2 := Nat.mod_lt (N + per - 1) (show 0 < per by omega)
  rw [Nat.mul_comm] at h1
  omega

theorem chunks_tile (h : 1 ≤ 2 ^ p.csz / TLR.elem p.dst.tlr)
    (hr : r.n = (boxSize r.box + 2 ^ p.csz / TLR.elem p.dst.tlr - 1) / (2 ^ p.csz / TLR.elem p.dst.tlr)) :
    (List.range r.n).flatMap (fun c => p.elems r (r.first + c)) =
      (List.range (boxSize r.box)).map (fun i => (TLR.place p.src.tlr r.s (boxElem r.box i), TLR.place p.dst.tlr r.d (boxElem r.box i))) := by
  have hall : min (boxSize r.box) (r.n * (2 ^ p.csz / TLR.elem p.dst.tlr)) = boxSize r.box := Nat.min_eq_left (hr ▸ le_ceil_mul h)
  have hpieces := flatMap_pieces (fun i => (TLR.place p.src.tlr r.s (boxElem r.box i), TLR.place p.dst.tlr r.d (boxElem r.box i)))
    (2 ^ p.csz / TLR.elem p.dst.tlr) (boxSize r.box) r.n
  rw [hall] at hpieces
  rw [← hpieces]
  refine congrArg (fun F => (List.range r.n).flatMap F) (funext fun c => ?_)
  simp only [Plan.elems, Nat.add_sub_cancel_left]

end Sys2Proof.Machine
end

section open Sys2Proof Machine

/-- Settles O43: each clause by the equation of its event on the occurrence it names; the tiling by cutting a range into pieces. -/
theorem ladleEventsComplete : Obligations.LadleEventsComplete := by
  unfold Obligations.LadleEventsComplete
  refine ⟨?_, ?_, ?_, ?_, ?_, ?_, ?_, ?_, ?_, ?_, ?_, ?_, ?_, ?_, ?_, ?_, ?_, ?_, ?_, fun p r h hr => chunks_tile h hr⟩
  · intro s t u n g p r data bad src dst back hocc hn hg hrun hst hsrc hbit hsend hread
    have heq := ladleSendChunk_eq hn hg hrun hst hsrc hbit hsend hread
    refine ⟨fun hd ht => ?_, fun hd ht => ?_⟩
    · rw [exec_ladleBusyRetry hocc, heq, if_pos hd, ht]
      rfl
    · rw [exec_ladleBusyRetry hocc, heq, if_neg hd, ht]
      rfl
  · intro s src g tag digest data bad mine hocc
    have hexec := exec_ladleChunkArrival_chunk hocc
    refine ⟨fun hf => ?_, fun hf => ⟨fun h => ?_, fun h hd => ?_, fun n p r hp hg hdst => ⟨fun hb => ?_, fun t hb ht => ?_, fun t hb ht hx => ?_⟩⟩⟩
    · rw [hexec, if_neg (by rw [hf]; exact Bool.false_ne_true)]
    · rw [hexec, if_pos hf, ladleChunk_busy h]
    · rw [hexec, if_pos hf, ladleChunk_mismatch h hd]
    · rw [hexec, if_pos hf, ladleChunk_again hp hg hdst hb]
    · rw [hexec, if_pos hf, ladleChunk_lands hp hg hdst hb ht]
    · rw [hexec, if_pos hf, ladleChunk_parks hp hg hdst hb ht hx]
  · intro s n g p x hocc hn hrun hx
    rw [exec_ladleChunkArrival_kept hocc, ladleInbox_eq hn hrun hx, Option.getD_some]
  · intro s n g p x r a hocc hn hx hg hrun haw b
    have hexec := exec_ladleChunkAnswer hocc
    rw [ladleAnswer_eq hn hg hx hrun haw] at hexec
    refine ⟨fun h => ?_, fun h => ?_, fun h => ?_, fun h => ?_, fun t h ht => ?_, fun t h ht => ?_⟩ <;> subst h <;> rw [hexec]
    · rfl
    · rfl
    · rfl
    · rfl
    · exact congrArg Host.Outcome.next (ladleAck_ok ht)
    · exact congrArg Host.Outcome.next (ladleAck_wait ht)
  · intro s t n g p x r hocc hn hx hg hrun hack ht
    rw [exec_ladleChunkAnswer_kept hocc, ladleKept_eq hn hg hx hrun hack, Option.getD_some, ladleAck_ok ht]
  · intro s n g p x hocc hn hx hrun haw
    have hexec := exec_remoteTimeout_chunk hocc
    rw [ladleLate_eq hn hx hrun haw] at hexec
    refine ⟨fun hp ha hl => ?_, fun h => ?_⟩
    · rw [hexec, if_pos ⟨hp, ha, hl⟩, Option.getD_some]
    · rw [hexec, if_neg, Option.getD_none]
      rintro ⟨hp, ha, hl⟩
      rcases h with h | h | h
      · exact Bool.false_ne_true (hp.symm.trans h)
      · exact Bool.false_ne_true (ha.symm.trans h)
      · omega
  · intro s n dev ia dl link r hocc hr hph hdl
    rw [exec_remoteTimeout hocc, remoteTimeout_remote hr hph hdl, Option.getD_some]
  · intro s n dev ia link r hr hph
    refine ⟨fun hocc => ?_, fun hocc => ?_⟩
    · rw [exec_remoteTimeout hocc, remoteTimeout_parked hr hph]
      rfl
    · rw [exec_remoteTimeout_dropped hocc, remoteTimeout_parked hr hph]
      rfl
  · intro s n st code f p hocc hn hst
    rw [exec_ladleFinished_own hocc]
    simp only [State.ladleFinished, hn, Option.bind_some, hst, Option.getD_some]
  · intro s t n p p' r hocc hn hrun hst hbits hr
    have hexec := exec_ladleDone_own hocc
    rw [ladleDone_eq hn hrun hst hbits hr] at hexec
    refine ⟨fun hc => ?_, fun z hc hz => ?_⟩
    · rw [hexec, if_pos hc]
      rfl
    · rw [hexec, if_neg hc, hz]
      rfl
  · intro i hi s src tag hocc hf
    rw [exec_ladleRound hi hocc, State.roundMsg, hf]
    rfl
  · intro s src tag hocc hf hnone
    rw [exec_ladleRound_ready (by simp) hocc hf]
    exact congrArg Host.Outcome.next (ladleHear_none hnone)
  · intro s n src p hn hc
    exact takeDones_spec hn hc
  · intro s src n tag p hocc hf hp hc hd
    refine ⟨?_, ?_⟩
    · rw [exec_ladleRound_ready (by simp) hocc hf]
      exact congrArg (fun o : Option State => Host.Outcome.next (o.getD s)) (ladleHear_some hp hc hd)
    · rw [exec_ladleRound_ready (by simp) hocc hf]
      exact congrArg (fun o : Option State => Host.Outcome.next (o.getD s)) (ladlePublished_some hp hc hd)
  · intro s n src p p' r all
    exact ⟨fun hst h => heardDone_partial hst h, fun t hst h ht => heardDone_all hst h ht, fun t hst ht => heardDone_again hst ht⟩
  · intro s n src p p' r all
    exact ⟨fun h => heardPublished_partial h, fun t h ht => heardPublished_all h ht⟩
  · intro s src n tag p hocc hf hp hc
    refine ⟨fun hst => ?_, fun hst => ?_⟩
    · rw [exec_ladleRound_ready (by simp) hocc hf]
      exact congrArg (fun o : Option State => Host.Outcome.next (o.getD s)) (ladleCommitted_agreeing hp hc hst)
    · rw [exec_ladleRound_ready (by simp) hocc hf, State.roundHeard, hp, Option.bind_some, if_neg (by simpa using hc),
        ladleFinish_eq hst (fun h => absurd h hc), Option.getD_some]
  · intro s n p p' say hocc hn hrun hst
    have hexec := exec_ladleCommit_own hocc
    refine ⟨fun hd => ?_, fun t hd hp => ?_, fun code t hcode hd hp => ?_⟩
    · rw [hexec, ladleCommit_away hn hrun hst hd]
      rfl
    · rw [hexec, ladleCommit_done hn hrun hst hd hp]
      rfl
    · rw [hexec, ladleCommit_fails hn hrun hst hd hcode hp, Option.getD_some]
  · intro s n p hocc hn hrun hc hst hall
    rw [exec_ladleFinished_own hocc]
    simp only [State.ladleFinished, hn, Option.bind_some, hst, hrun, hc, beq_self_eq_true, Bool.and_self, if_true]
    rw [ladleFinish_eq hst (fun _ => hall), Option.getD_some]

end

section
/-! SUPPORT. A launch whose handle table lies on a page in transit, with port words kept although its record has no port table. -/

namespace Sys2Proof.Machine

/-- A partition of context 0, engine 0 and core 0, whose first gigabyte is a domain; its page table is empty. -/
def launchPart : Partition :=
  { desc := 1#2048 <<< 768 ||| 1#2048 <<< 662 ||| 1#2048 <<< 648,
    domains := [{ v := true, dbase := 0, dend := 1 }] }

/-- Context 0 with a range register that may be read, for the first 2 MiB. -/
def launchContext : Context := { v := true, ranges := [1#192 <<< 3 ||| 1#192 <<< 2 ||| 1#192 <<< 85] }

/-- That partition and context on a device that is otherwise as reset leaves it. -/
def launchState : State := { State.reset with parts := [(0, launchPart)], ctxs := [(0, launchContext)] }

/-- A record without a port table and with one handle, its table at offset 0. -/
def portlessRecord : BitVec 1024 := 1#1024 <<< 192 ||| 1#1024 <<< 288

/-- A launch of that record that has a port word among what it has read. -/
def portlessLaunch : Launching := { record := portlessRecord, lrec := 0, count := some 0, ports := [1] }

/-- Whether a launch parks with no port word kept. -/
def LaunchOut.parksEmpty : LaunchOut → Bool
  | .park k _ _ _ => k.ports == []
  | _ => false

theorem exists_park_of_parksEmpty {o : LaunchOut} (h : o.parksEmpty = true) :
    ∃ k page cause sz, o = .park k page cause sz ∧ k.ports = [] := by
  cases o with
  | ok hs ps t => cases h
  | fails code detail t => cases h
  | park k page cause sz =>
    have hk : k.ports = [] := by simpa only [LaunchOut.parksEmpty, beq_iff_eq] using h
    exact ⟨k, page, cause, sz, rfl, hk⟩

/-- The handle table's page is in transit, and the launch parks there. -/
theorem portlessLaunch_parks : (launchState.launchChecks 0 0 portlessLaunch 0).parksEmpty = true := by decide +kernel

end Sys2Proof.Machine
end

section open Sys2Proof Machine

/-- Refutes O44: its third part says of every k that a launch that parks keeps the port words that k has, but a record with portoff 0 has
no port table, and where its handle table lies on a page in transit the launch parks with no port words, whatever k had. -/
theorem not_launchesComplete : ¬ Obligations.LaunchesComplete := by
  unfold Obligations.LaunchesComplete
  rintro ⟨-, -, hkeeps, -⟩
  obtain ⟨k', page, cause, sz, hpark, hports⟩ := exists_park_of_parksEmpty portlessLaunch_parks
  obtain ⟨-, -, -, hprefix, -⟩ := hkeeps _ _ _ _ _ _ _ _ _ hpark
  rw [hports] at hprefix
  exact absurd (List.prefix_nil.1 hprefix) (by decide)

end

section
/-! SUPPORT. Instructions of queue programs (R335 to R337). -/

namespace Sys2Proof.Machine

variable {s t r : State} {n code : Nat} {v : Opnds} {sh : Shape} {i : Instr} {body : M Unit} {e : Engine}

/-- A queue engine has no guard: an instruction is its body, past it. -/
theorem insn_run_qe (hcur : s.cur = some (.qe n)) : insn i sh body s = body (s.past (.qe n)) := by
  simp only [insn, insnWith, M.bind_run, M.ops_run, M.unit_run hcur, M.advance_run hcur]

theorem insn_next_qe (hcur : s.cur = some (.qe n)) (hb : body (s.past (.qe n)) = .ok ((), t)) : meaning (insn i sh body) s = .next t := by
  simp only [meaning, hcur, runUnit, insn_run_qe hcur, hb]

theorem insn_waits_qe {w : Wait} (hcur : s.cur = some (.qe n)) (hb : body (s.past (.qe n)) = .error (.wait w)) :
    meaning (insn i sh body) s = .next (s.setWait (.qe n) w) := by
  simp only [meaning, hcur, runUnit, insn_run_qe hcur, hb]

theorem pageCheck_calm (q : Req) : Keeps Calm (pageCheck q) := by
  have hf := Calm.frames
  refine Keeps.bind hf (Keeps.get hf) (fun s => ?_)
  split
  · exact Keeps.stopTrap _
  · split
    · exact Keeps.throw _
    · exact Keeps.stopTrap _
    · exact Keeps.pure hf _

theorem programAt_calm : Keeps Calm programAt := by
  have hf := Calm.frames
  refine Keeps.bind hf (Keeps.ops hf) (fun o => Keeps.bind hf (fetch_calm _ _) (fun v => Keeps.bind hf (spots_calm _ _ _ _ _ _) (fun ps => ?_)))
  split
  · exact Keeps.bind hf (Keeps.trapIf hf _ _ _) (fun _ => Keeps.bind hf (Keeps.orTrap hf _) (fun _ => Keeps.bind hf (Keeps.get hf)
      (fun _ => Keeps.bind hf (Keeps.unit hf) (fun _ => Keeps.bind hf (Keeps.orTrap hf _) (fun _ => Keeps.bind hf (Keeps.here hf)
        (fun _ => Keeps.bind hf (pageCheck_calm _) (fun _ => Keeps.pure hf _)))))))
  · exact Keeps.throw _

/-- An engine in the program at a location. -/
def Engine.entered (e : Engine) (loc space : Nat) : Engine :=
  { e with prog := true, base := loc, fspace := space, ctl := { e.ctl with pc := loc } }

theorem enterProgram_run (hcur : s.cur = some (.qe n)) (loc space : Nat) :
    enterProgram loc space s = .ok ((), s.modEngine n (fun e => e.entered loc space)) := by
  simp only [enterProgram, M.bind_run, M.unit_run hcur]
  rfl

/-- An engine at an instruction that has not issued. -/
def Engine.heldAt (e : Engine) (a words : Nat) : Engine :=
  { e with ctl := { e.ctl with pc := a }, left := if e.prog then e.left else e.left + words }

/-- The engine halts at the instruction, which is then not behind it. -/
theorem haltHere_run (he : Executes s (.qe n) sh) (hpc : s.pcAt (.qe n) < 2 ^ 64) (hcalm : Calm (s.past (.qe n)) t)
    (ht : t.engines.find n = some e) (code : Nat) : ∃ r d, haltHere n code t = .ok ((), r) ∧ r.engines.find n = some d ∧ d.state = 3 ∧
      d.code = code ∧ d.ctl.pc = s.pcAt (.qe n) ∧ d.frames = e.frames := by
  have hrun : haltHere n code t =
      .ok ((), (t.modEngine n (fun e => e.heldAt (s.pcAt (.qe n)) (t.ir.form.bytes / 4))).haltEngine n code) := by
    simp only [haltHere, M.bind_run, M.here_calm he hpc hcalm, M.ops_run, M.modify_run]
    rfl
  exact ⟨_, _, hrun, Assoc.find_alter_some _ (Assoc.find_alter_some _ ht), rfl, rfl, rfl, rfl⟩

/-! The instructions. -/

section
variable (hcur : s.cur = some (.qe n)) (ht : t.cur = some (.qe n))
include hcur ht

theorem semw_completes (hd : Delivers s (.qe n) qAB .int v t)
    (h : (heldVal (v.b 0)).bits.toNat ≤ (t.sem (t.ctxOf (.qe n)) ((v.a 0).bits.toNat % 4096)).toNat) : exec .semw s = .next t := by
  have hfetch : fetch qAB .int (s.past (.qe n)) = .ok (v, t) := hd
  refine insn_next_qe hcur ?_
  simp only [M.bind_run, hfetch, M.get_run, M.unit_run ht, decide_eq_true h, M.waitUnless_true, M.pure_run]

theorem semw_waits (hd : Delivers s (.qe n) qAB .int v t)
    (h : (t.sem (t.ctxOf (.qe n)) ((v.a 0).bits.toNat % 4096)).toNat < (heldVal (v.b 0)).bits.toNat) :
    exec .semw s = .next (s.setWait (.qe n) (.sem ((v.a 0).bits.toNat % 4096) (heldVal (v.b 0)).bits)) := by
  have hfetch : fetch qAB .int (s.past (.qe n)) = .ok (v, t) := hd
  refine insn_waits_qe hcur ?_
  simp only [M.bind_run, hfetch, M.get_run, M.unit_run ht, decide_eq_false (Nat.not_le.2 h)]
  rfl

theorem semPut_completes (f : W64 → W64 → W64) (hd : Delivers s (.qe n) qAB .int v t) (hb : (v.b 0).poison = false)
    (hr : release t = .ok ((), t)) : meaning (semPutOp i f) s = .next (t.setSem (t.ctxOf (.qe n)) ((v.a 0).bits.toNat % 4096)
      (f (t.sem (t.ctxOf (.qe n)) ((v.a 0).bits.toNat % 4096)) (v.b 0).bits)) := by
  have hfetch : fetch qAB .int (s.past (.qe n)) = .ok (v, t) := hd
  refine insn_next_qe hcur ?_
  simp only [M.bind_run, hfetch, hb, M.trapIf_false, M.pure_run, hr, M.unit_run ht, M.modify_run]

theorem kickq_completes (hd : Delivers s (.qe n) qAB .int v t) (hb : (v.b 0).poison = false) (hr : release t = .ok ((), t)) :
    exec .kickq s = .next
      (if (t.engineRec ((v.a 0).bits.toNat % 32)).en && (t.engineRec ((v.a 0).bits.toNat % 32)).ctx == t.ctxOf (.qe n) then
        t.kick ((v.a 0).bits.toNat % 32) ((v.b 0).bits.setWidth 32) else t) := by
  have hfetch : fetch qAB .int (s.past (.qe n)) = .ok (v, t) := hd
  refine insn_next_qe hcur ?_
  simp only [M.bind_run, hfetch, hb, M.trapIf_false, M.pure_run, hr, M.unit_run ht, M.modify_run]

omit ht in
theorem irq_completes (hd : Delivers s (.qe n) qB .int v t) (hr : release t = .ok ((), t)) :
    exec .irq s = .next { t with irqs := (v.b 0).bits.toNat % 2048 :: t.irqs } := by
  have hfetch : fetch qB .int (s.past (.qe n)) = .ok (v, t) := hd
  refine insn_next_qe hcur ?_
  simp only [M.bind_run, hfetch, hr, M.modify_run]

section
variable {loc space : Nat} (hp : programAt (s.past (.qe n)) = .ok ((loc, space), t))
include hp

theorem jmpq_completes : exec .jmpq s = .next (t.modEngine n (fun e => e.entered loc space)) := by
  refine insn_next_qe hcur ?_
  simp only [M.bind_run, hp, enterProgram_run ht]

variable (he : t.engines.find n = some e)
include he

theorem callq_completes (hroom : e.frames.length < 8) : exec .callq s = .next
    ((t.modEngine n (fun e => { e with frames := (e.prog, e.fspace, e.base, e.ctl.pc) :: e.frames })).modEngine n
      (fun e => e.entered loc space)) := by
  have ht' : (t.modEngine n (fun e => { e with frames := (e.prog, e.fspace, e.base, e.ctl.pc) :: e.frames })).cur = some (.qe n) := ht
  refine insn_next_qe hcur ?_
  simp only [M.bind_run, hp, M.engine_run ht he, M.unit_run ht, if_neg (Nat.not_le.2 hroom), M.modify_run, enterProgram_run ht']

theorem callq_halts (hx : Executes s (.qe n) qB) (hfull : 8 ≤ e.frames.length) (hpc : s.pcAt (.qe n) < 2 ^ 64) :
    ∃ r d, exec .callq s = .next r ∧ r.engines.find n = some d ∧ d.state = 3 ∧ d.code = 5 ∧ d.ctl.pc = s.pcAt (.qe n) ∧
      d.frames = e.frames := by
  obtain ⟨r, d, hrun, hd⟩ := haltHere_run hx hpc (programAt_calm _ _ _ hp) he 5
  refine ⟨r, d, insn_next_qe hcur ?_, hd⟩
  simp only [M.bind_run, hp, M.engine_run ht he, M.unit_run ht, if_pos hfull, hrun]

end

end

section
variable (hx : Executes s (.qe n) noShape) (he : (s.past (.qe n)).engines.find n = some e)
include hx he

theorem retq_completes {prog : Bool} {fspace base pc : Nat} {rest : List (Bool × Nat × Nat × Nat)}
    (hf : e.frames = (prog, fspace, base, pc) :: rest) : exec .retq s = .next ((s.past (.qe n)).modEngine n (fun e =>
      { e with prog, fspace, base, frames := rest, ctl := { e.ctl with pc } })) := by
  refine insn_next_qe hx.1 ?_
  simp only [M.bind_run, M.engine_run hx.past_cur he, M.unit_run hx.past_cur, hf, M.modify_run]

theorem retq_halts (hf : e.frames = []) (hpc : s.pcAt (.qe n) < 2 ^ 64) :
    ∃ r d, exec .retq s = .next r ∧ r.engines.find n = some d ∧ d.state = 3 ∧ d.code = 5 ∧ d.ctl.pc = s.pcAt (.qe n) := by
  obtain ⟨r, d, hrun, hd, h3, h5, hp, -⟩ := haltHere_run hx hpc (Calm.refl _) he 5
  refine ⟨r, d, insn_next_qe hx.1 ?_, hd, h3, h5, hp⟩
  simp only [M.bind_run, M.engine_run hx.past_cur he, M.unit_run hx.past_cur, hf, hrun]

theorem fenceq_completes (hfen : (s.past (.qe n)).fenced (.qe n) 0x7F 0 = true) (hdef : e.ctl.deferred = []) :
    exec .fenceq s = .next (s.past (.qe n)) := by
  have hctl : (s.past (.qe n)).ctl (.qe n) = some e.ctl := congrArg (Option.map Engine.ctl) he
  refine insn_next_qe hx.1 ?_
  simp only [M.bind_run, M.get_run, M.unit_run hx.past_cur, hfen, M.waitUnless_true, M.pure_run,
    M.takeDeferred_nil (fun _ => true) hx.past_cur hctl hdef]

theorem haltq_completes (hbuf : e.ctl.sbuf = []) (hun : e.ctl.unack.all (· == 0) = true) :
    exec .haltq s = .next ((s.past (.qe n)).haltEngine n 1) := by
  have hctl : (s.past (.qe n)).ctl (.qe n) = some e.ctl := congrArg (Option.map Engine.ctl) he
  have hready : (e.ctl.sbuf.isEmpty && e.ctl.unack.all (· == 0)) = true := by rw [hbuf, hun]; rfl
  refine insn_next_qe hx.1 ?_
  simp only [awaitStores, M.bind_run, M.ctl_run hx.past_cur hctl, hready, M.waitUnless_true, M.pure_run, M.unit_run hx.past_cur,
    M.modify_run]

end

end Sys2Proof.Machine
end

section open Sys2Proof Machine

/-- Settles O45: each instruction by its body, which an engine runs without a guard. -/
theorem queueProgramsComplete : Obligations.QueueProgramsComplete := by
  unfold Obligations.QueueProgramsComplete
  refine ⟨?_, ?_, ?_, ?_, ?_⟩
  · intro s t n v u i x b he hd
    have ht := hd.sameUnit.1.trans he.past_cur
    exact ⟨semw_completes he.1 ht hd, semw_waits he.1 ht hd, fun hb hr =>
      ⟨semPut_completes he.1 ht (fun _ v => v) hd hb hr, semPut_completes he.1 ht (fun x v => x + v) hd hb hr⟩⟩
  · intro s t n v u he hd hr
    exact irq_completes he.1 hd hr
  · intro s t n loc sp e u enter hx hp he
    have ht := (programAt_calm _ _ _ hp).cur.trans hx.past_cur
    exact ⟨jmpq_completes hx.1 ht hp, callq_completes hx.1 ht hp he, callq_halts hx.1 ht hp he hx⟩
  · intro s n e u hx he
    exact ⟨fun prog fspace base pc rest hf => retq_completes hx he hf, retq_halts hx he, fenceq_completes hx he, haltq_completes hx he⟩
  · intro s t n v u m e he hd hb hr
    exact kickq_completes he.1 (hd.sameUnit.1.trans he.past_cur) hd hb hr

end

section
/-! SUPPORT. What a load leaves alone: everything but memory, the caches, counts and numbers. -/

namespace Sys2Proof.Machine

variable {s t r : State} {α : Type}

/-- Only memory, the caches, the device's counts and the next number differ. -/
def MemorySide (s t : State) : Prop :=
  { t with mem := s.mem, poison := s.poison, tags := s.tags, tagBad := s.tagBad, keys := s.keys, l2 := s.l2, walkc := s.walkc, cores := s.cores,
           mgmt := s.mgmt, fresh := s.fresh } = s

namespace MemorySide

theorem refl (s : State) : MemorySide s s := rfl

theorem trans (h1 : MemorySide s t) (h2 : MemorySide t r) : MemorySide s r := by
  unfold MemorySide at *
  exact (congrArg (fun q : State => { q with mem := s.mem, poison := s.poison, tags := s.tags, tagBad := s.tagBad, keys := s.keys, l2 := s.l2, walkc := s.walkc, cores := s.cores, mgmt := s.mgmt, fresh := s.fresh }) h2).trans h1

theorem frames : Frames MemorySide := ⟨refl, trans⟩

theorem engines (h : MemorySide s t) : t.engines = s.engines := by
  unfold MemorySide at h
  have he := congrArg State.engines h
  exact he

theorem l2 (s : State) (m : Assoc L2Sector) : MemorySide s { s with l2 := m } := rfl

end MemorySide

theorem writeStore_memorySide (s : State) (k n v : Nat) (p : Bool) : MemorySide s (s.writeStore k n v p) := rfl

theorem toMemory_memorySide (s : State) (x : L2Sector) : MemorySide s (s.toMemory x) := by
  unfold State.toMemory
  split
  · exact writeStore_memorySide _ _ _ _ _
  · rfl

theorem writeBack_memorySide (s : State) (n : Nat) : MemorySide s (s.writeBack n) := by
  unfold State.writeBack
  split
  · next x _ =>
    split
    · exact (toMemory_memorySide s x).trans (MemorySide.l2 _ _)
    · exact MemorySide.refl s
  · exact MemorySide.refl s

theorem dropSector_memorySide (s : State) (n : Nat) : MemorySide s (s.dropSector n) := by
  unfold State.dropSector
  split
  · exact MemorySide.refl s
  · exact (writeBack_memorySide s n).trans (MemorySide.l2 _ _)

theorem l2Fit_memorySide (s : State) (ia : Nat) (v : Via) : MemorySide s (s.l2Fit ia v) := by
  unfold State.l2Fit
  dsimp only
  split
  · exact MemorySide.refl s
  · exact MemorySide.frames.foldl (f := State.dropSector) dropSector_memorySide _ s

theorem l2Keep_memorySide (s : State) (n : Nat) (x : L2Sector) (v : Via) : MemorySide s (s.l2Keep n x v) := by
  have hroom : MemorySide s (s.l2Room x.slice (n / 2)) := by
    unfold State.l2Room
    dsimp only
    split
    · exact MemorySide.refl s
    · split
      · exact (dropSector_memorySide s _).trans (dropSector_memorySide _ _)
      · exact MemorySide.refl s
  exact hroom.trans (MemorySide.l2 _ _)

theorem readL2_memorySide (s : State) (ia n : Nat) (v : Via) : MemorySide s (s.readL2 ia n v).2 := by
  unfold State.readL2
  dsimp only
  split
  · exact l2Fit_memorySide s ia v
  · exact (l2Fit_memorySide s ia v).trans (l2Keep_memorySide _ _ _ _)

theorem readLocal_memorySide (s : State) (ia n : Nat) (v : Via) : MemorySide s (s.readLocal ia n v).2 := by
  rw [readLocal_eq]
  exact foldl_snd MemorySide.frames (f := readPart ia v) (fun x q => readL2_memorySide x.2 (ia + q.1) q.2 (v.plus q.1)) _ ((0, false), s)

theorem serve_load_memorySide {pi : Nat} {p : Partition} {w : Walk} {x : Req} {v : Nat} {b : Bool} (hk : x.kind = .load)
    (h : s.serve pi p w x = .ok v b t) : MemorySide s t := by
  have hleaf : ∀ (q : State) (ia leaf page : Nat), MemorySide q (q.holdLeaf pi p ia leaf page) := fun _ _ _ _ => rfl
  unfold State.serve at h
  split at h
  · cases h
  · split at h
    · cases h
    · cases h
    · cases h
      exact MemorySide.refl _
    · split at h
      · cases h
      · split at h
        · cases h
        · cases h
          simp only [State.atLeaf, hk]
          exact (readLocal_memorySide s _ _ _).trans (hleaf _ _ _ _)

theorem doGlobalN_load_memorySide {q : Req} (hk : q.kind = .load) : Keeps MemorySide (doGlobalN q) := by
  have hf := MemorySide.frames
  refine Keeps.bind hf (Keeps.awaitOrder hf _) (fun _ => Keeps.bind hf (Keeps.unit hf) (fun u => Keeps.of_from (fun s => From.get_bind ?_)))
  cases hp : s.partOf q.ctx with
  | none => exact From.stopTrap s _
  | some x =>
    dsimp only
    split
    · next h =>
      have hs := serve_load_memorySide hk h
      refine From.bind hf (From.set (hs.trans ?_)) (fun _ => Keeps.pure hf _)
      cases u with
      | ap tm sp => rfl
      | _ => exact hf.refl _
    · exact From.throw s _
    · exact From.stopTrap s _
    · exact From.stopTrap s _
    · exact From.of_keeps (Keeps.wait _) s
    · exact From.of_keeps (Keeps.wait _) s

theorem freshId_memorySide : Keeps MemorySide freshId := by
  rintro s a t ⟨⟩
  rfl

/-- A fetch of code or of a packet header. -/
theorem codeRead_memorySide (space va : Nat) (need : Need) : Keeps MemorySide (codeRead space va need) := by
  have hf := MemorySide.frames
  refine Keeps.bind hf (Keeps.unit hf) (fun u => Keeps.bind hf (Keeps.get hf) (fun s => ?_))
  refine Keeps.bind hf (Keeps.ite (Keeps.stopTrap _) (Keeps.pure hf _)) (fun _ => Keeps.bind hf (Keeps.orTrap hf _) (fun a => ?_))
  refine Keeps.bind hf (Keeps.bind hf (doGlobalN_load_memorySide rfl) (fun _ => Keeps.pure hf _)) (fun v => ?_)
  split
  · exact Keeps.bind hf freshId_memorySide (fun _ => Keeps.pure hf _)
  · exact Keeps.pure hf _

end Sys2Proof.Machine
end

section
/-! SUPPORT. Kick, enable, disable and ring fetch of a queue engine (R322 to R325). -/

namespace Sys2Proof.Machine

variable {s t z : State} {n : Nat} {v : W64} {e : Engine}

/-! Host writes of an engine's registers. -/

theorem exec_kick (h : s.occ = .write n v) :
    exec .kick s = .next (if n < 32 ∧ ¬s.mgmt.recov then s.kick n (v.setWidth 32) else s) := by
  show execKick s = _
  rw [execKick, event_run]
  simp only [h]
  split <;> rfl

theorem exec_engineEnable (h : s.occ = .write n v) :
    exec .engineEnable s = .next (if n < 32 ∧ v.getLsbD 5 ∧ ¬s.mgmt.recov then s.writeEngineCtl n v else s) := by
  show execEngineEnable s = _
  rw [execEngineEnable, event_run]
  simp only [h]
  split <;> rfl

theorem exec_engineDisable (h : s.occ = .write n v) :
    exec .engineDisable s = .next (if n < 32 ∧ ¬v.getLsbD 5 ∧ ¬s.mgmt.recov then s.writeEngineCtl n v else s) := by
  show execEngineDisable s = _
  rw [execEngineDisable, event_run]
  simp only [h]
  split <;> rfl

theorem engineRec_put (s : State) (n : Nat) (e : Engine) : (s.putEngine n e).engineRec n = e := Assoc.get_put_self _ _ _ _

theorem find_putEngine (s : State) (n : Nat) (e : Engine) : (s.putEngine n e).engines.find n = some e := Assoc.find_put_self _ _ _

theorem engineRec_of_find (h : s.engines.find n = some e) : s.engineRec n = e := by
  rw [State.engineRec, Assoc.get, h]
  rfl

/-- The engine as a write of doubleword 1 configures it. -/
def Engine.configured (e : Engine) (v : W64) : Engine :=
  { e with rlog := fld v 4 0, sup := v.getLsbD 6, ctx := fld v 15 8, hvec := fld v 26 16 }

section
variable (hen : v.getLsbD 5 = true)
include hen

theorem writeEngineCtl_enables (h : (s.engineRec n).en = false) :
    s.writeEngineCtl n v = (s.putEngine n ((s.engineRec n).configured v)).enableEngine n := by
  simp only [State.writeEngineCtl, Engine.configured, hen, h, if_true, Bool.false_eq_true, and_false, if_false]

theorem writeEngineCtl_resumes (h : (s.engineRec n).en = true) (h3 : (s.engineRec n).state = 3) : s.writeEngineCtl n v =
    (s.putEngine n (s.engineRec n)).putEngine n { s.engineRec n with code := 0, state := 1 } := by
  simp only [State.writeEngineCtl, hen, h, h3, if_true, and_self]

theorem writeEngineCtl_enabled (h : (s.engineRec n).en = true) (h3 : (s.engineRec n).state ≠ 3) :
    s.writeEngineCtl n v = s.putEngine n (s.engineRec n) := by
  simp only [State.writeEngineCtl, hen, h, h3, if_true, false_and, if_false]

end

theorem enableEngine_refused (h : s.engineConfigOk n = false) : s.enableEngine n = s.refuseEngine n 7 0 := by
  simp only [State.enableEngine, h, Bool.not_false, if_true]

section
variable {es : List Nat} (h : s.engineConfigOk n = true) (hrec : s.engineRec n = e)
include h hrec

theorem enableEngine_bad {i : Nat} (ht : s.readTable e.ctx e.htab 32 (handleOk (2 ^ 64)) 0 e.hcnt = .bad i t) :
    s.enableEngine n = t.refuseEngine n 4 i := by
  simp only [State.enableEngine, h, hrec, ht, Bool.not_true, Bool.false_eq_true, if_false]

theorem enableEngine_parks {page cause sz : Nat} (ht : s.readTable e.ctx e.htab 32 (handleOk (2 ^ 64)) 0 e.hcnt = .park es page cause sz t) :
    s.enableEngine n = (t.noteFault e.ctx page cause sz false).refuseEngine n 4 es.length := by
  simp only [State.enableEngine, h, hrec, ht, Bool.not_true, Bool.false_eq_true, if_false]

end

/-- What an engine that starts or stops leaves behind: no completion record and no plan that waits for a slot (R323). -/
def State.cleared (s : State) (n : Nat) : State := ((s.forgetGrids n).dropLandings n).unqueue (.qe n)

theorem cleared_grids (s : State) (n : Nat) : ∀ g ∈ (s.cleared n).grids, ¬(g.2.engine = n ∧ g.2.status.isSome = true) := by
  intro g hg
  have h : (!(g.2.engine == n && g.2.status.isSome)) = true := (List.mem_filter.1 hg).2
  rintro ⟨h1, h2⟩
  simp [h1, h2] at h

theorem cleared_plans (s : State) (n : Nat) : ∀ q ∈ (s.cleared n).plans, ¬(q.2.owner = .qe n ∧ q.2.stage = .queued) := by
  intro q hq
  have h : (!(q.2.owner == Agent.qe n && q.2.stage == PlanStage.queued)) = true := (List.mem_filter.1 hq).2
  rintro ⟨h1, h2⟩
  simp [h1, h2] at h

theorem enableEngine_starts {es : List Nat} (h : s.engineConfigOk n = true) (hrec : s.engineRec n = e)
    (ht : s.readTable e.ctx e.htab 32 (handleOk (2 ^ 64)) 0 e.hcnt = .ok es t) : s.enableEngine n =
      (t.cleared n).putEngine n (((t.cleared n).engineRec n).started (es.map (BitVec.ofNat 256))) := by
  simp only [State.enableEngine, h, hrec, ht, Bool.not_true, Bool.false_eq_true, if_false]
  rfl

/-- An engine that has become idle (R323). -/
def Engine.stopped (e : Engine) : Engine := { e with en := false, state := 0, wpend := 0, sysop := none, stopping := false, launch := none }

theorem stopEngine_eq (s : State) (n : Nat) : s.stopEngine n = (s.cleared n).putEngine n ((s.cleared n).engineRec n).stopped := rfl

theorem stopEngine_spec (s : State) (n : Nat) : ∃ d, (s.stopEngine n).engines.find n = some d ∧ d.en = false ∧ d.state = 0 ∧
    (∀ g ∈ (s.stopEngine n).grids, ¬(g.2.engine = n ∧ g.2.status.isSome = true)) ∧ (s.stopEngine n).mem = s.mem ∧
    (s.stopEngine n).teams = s.teams ∧ ∀ q ∈ (s.stopEngine n).plans, ¬(q.2.owner = .qe n ∧ q.2.stage = .queued) :=
  ⟨_, find_putEngine _ n _, rfl, rfl, cleared_grids s n, rfl, rfl, cleared_plans s n⟩

section
variable (hen : v.getLsbD 5 = false) (hon : (s.engineRec n).en = true)
include hen hon

theorem writeEngineCtl_stops (h : (s.engineRec n).sysop = none) :
    s.writeEngineCtl n v = (s.putEngine n (s.engineRec n)).stopEngine n := by
  simp only [State.writeEngineCtl, hen, hon, h, Bool.false_eq_true, if_false, if_true, Option.isSome_none]

theorem writeEngineCtl_stopping (h : (s.engineRec n).sysop.isSome = true) :
    s.writeEngineCtl n v = (s.putEngine n (s.engineRec n)).putEngine n { s.engineRec n with stopping := true } := by
  simp only [State.writeEngineCtl, hen, hon, h, Bool.false_eq_true, if_false, if_true]

end

/-! The ring. -/

theorem bit_toNat (x : W32) (i : Nat) : bit x.toNat i = x.getLsbD i := by
  rw [bit_eq_testBit, BitVec.testBit_toNat]

theorem exec_ringPacket (h : s.occ = .num n) : exec .ringPacket s = .next ((s.ringPacket n).getD s) := event1_run State.ringPacket h

theorem exec_ringIdle (h : s.occ = .num n) : exec .ringIdleTimeout s = .next ((s.ringIdle n).getD s) := event1_run State.ringIdle h

section
variable {va hdr : Nat} (he : s.engines.find n = some e)
include he

theorem packetHeader_lap (h : bit hdr 31 = bit e.rptr e.rlog) : s.packetHeader n va hdr = s := by
  simp only [State.packetHeader, engineRec_of_find he, h, beq_self_eq_true, if_true]

section
variable (hlap : bit hdr 31 ≠ bit e.rptr e.rlog)
include hlap

theorem packetHeader_bad (h : bits hdr 30 4 ≠ 0) : s.packetHeader n va hdr = s.haltEngine n 6 := by
  simp only [State.packetHeader, engineRec_of_find he, beq_eq_false_iff_ne.2 hlap, Bool.false_eq_true, if_false, if_pos h]

/-- An engine at the first word of a packet. -/
def Engine.atPacket (e : Engine) (va hdr : Nat) : Engine :=
  { e with inPkt := true, left := hdr % 16, ctl := { e.ctl with pc := (va + 4) % 2 ^ 64 } }

/-- An engine whose packet has no words left goes behind it. -/
def Engine.pastEmpty (e : Engine) : Engine :=
  if !e.prog && e.inPkt && e.left == 0 then { e with inPkt := false, rptr := (e.rptr + 64) % 2 ^ 32 } else e

theorem packetHeader_enters (h : bits hdr 30 4 = 0) :
    (s.packetHeader n va hdr).engines.find n = some (e.atPacket va hdr).pastEmpty := by
  have hrun : s.packetHeader n va hdr = (s.putEngine n (e.atPacket va hdr)).modEngine n Engine.pastEmpty := by
    simp only [State.packetHeader, engineRec_of_find he, beq_eq_false_iff_ne.2 hlap, Bool.false_eq_true, if_false, h, ne_eq, not_true]
    rfl
  rw [hrun]
  exact Assoc.find_alter_some _ (find_putEngine s n _)

end

end

/-- The engine's packet: it holds words, or is passed. -/
theorem packet_words (e : Engine) (va : Nat) {hdr : Nat} (hw : hdr % 16 ≠ 0) : (e.atPacket va hdr).pastEmpty.inPkt = true ∧
    (e.atPacket va hdr).pastEmpty.left = hdr % 16 ∧ (e.atPacket va hdr).pastEmpty.rptr = e.rptr ∧
    (e.atPacket va hdr).pastEmpty.ctl.pc = (va + 4) % 2 ^ 64 := by
  have hsame : (e.atPacket va hdr).pastEmpty = e.atPacket va hdr := by
    simp only [Engine.pastEmpty, Engine.atPacket, beq_eq_false_iff_ne.2 hw, Bool.and_false, Bool.false_eq_true, if_false]
  rw [hsame]
  exact ⟨rfl, rfl, rfl, rfl⟩

theorem packet_empty (hp : e.prog = false) (va : Nat) {hdr : Nat} (hw : hdr % 16 = 0) : (e.atPacket va hdr).pastEmpty.inPkt = false ∧
    (e.atPacket va hdr).pastEmpty.rptr = (e.rptr + 64) % 2 ^ 32 := by
  have hpast : (e.atPacket va hdr).pastEmpty =
      { e.atPacket va hdr with inPkt := false, rptr := ((e.atPacket va hdr).rptr + 64) % 2 ^ 32 } := by
    refine if_pos ?_
    simp only [Engine.atPacket, hp, hw, Bool.not_false, beq_self_eq_true, Bool.and_self]
  rw [hpast]
  exact ⟨rfl, rfl⟩

theorem packet_state (e : Engine) (va hdr : Nat) : (e.atPacket va hdr).pastEmpty.state = e.state := by
  unfold Engine.pastEmpty
  split <;> rfl

theorem ringPacket_sleeps {o : Option State} (hring : s.ringPacket n = if (e.kick + 2 ^ 32 - e.rptr) % 2 ^ 32 > 2 ^ e.rlog then some (s.haltEngine n 2)
      else if (e.kick + 2 ^ 32 - e.rptr) % 2 ^ 32 = 0 then some (s.putEngine n { e with state := 2 }) else o)
    (h : (e.kick + 2 ^ 32 - e.rptr) % 2 ^ 32 = 0) : s.ringPacket n = some (s.putEngine n { e with state := 2 }) := by
  rw [hring, h, if_neg (Nat.not_lt_zero _), if_pos rfl]

/-- An engine in ring mode between packets, in a context that runs, that finds a header announced. -/
structure RingReads (s : State) (n : Nat) (e : Engine) (hdr : W32) (t : State) : Prop where
  found : s.engines.find n = some e
  en : e.en = true
  run : e.state = 1
  ring : e.prog = false
  between : e.inPkt = false
  ctx : s.running e.ctx = true
  some : 0 < (e.kick + 2 ^ 32 - e.rptr) % 2 ^ 32
  few : (e.kick + 2 ^ 32 - e.rptr) % 2 ^ 32 ≤ 2 ^ e.rlog
  read : s.ringHeader n e = .ok (hdr, t)

theorem ringPacket_eq (he : s.engines.find n = some e) (hen : e.en = true) (hst : e.state = 1) (hp : e.prog = false) (hi : e.inPkt = false)
    (hrun : s.running e.ctx = true) : s.ringPacket n =
      if (e.kick + 2 ^ 32 - e.rptr) % 2 ^ 32 > 2 ^ e.rlog then some (s.haltEngine n 2)
      else if (e.kick + 2 ^ 32 - e.rptr) % 2 ^ 32 = 0 then some (s.putEngine n { e with state := 2 })
      else match s.ringHeader n e with
        | .ok (hdr, t) => some (({ t with ir := s.ir, cur := s.cur } : State).packetHeader n ((e.rbase + e.rptr % 2 ^ e.rlog) % 2 ^ 64) hdr.toNat)
        | .error (.trap t) => some ((s.modCtl (.qe n) (fun c => { c with pc := (e.rbase + e.rptr % 2 ^ e.rlog) % 2 ^ 64 })).takeTrap (.qe n) t 0)
        | .error (.park page cause sz wr) => some (s.noteOnce (2 ^ 64 + n) e.ctx page cause sz wr)
        | .error _ => none := by
  simp only [State.ringPacket, he, hen, hst, hp, hi, hrun, Bool.not_true, bne_self_eq_false, Bool.or_self, Bool.false_eq_true, if_false] <;> rfl

/-- The state after a header's read, once the unit that runs stands again. -/
def State.headerRead (s t : State) : State := { t with ir := s.ir, cur := s.cur }

/-- The read of a header leaves the engines alone. -/
theorem headerRead_engines {hdr : W32} (h : s.ringHeader n e = .ok (hdr, t)) : (s.headerRead t).engines = s.engines :=
  (codeRead_memorySide _ _ _ { s with cur := some (.qe n), ir := noOps } _ _ h).engines

namespace RingReads

variable {hdr : W32} (h : RingReads s n e hdr t)
include h

theorem packet : s.ringPacket n = Option.some ((s.headerRead t).packetHeader n ((e.rbase + e.rptr % 2 ^ e.rlog) % 2 ^ 64) hdr.toNat) := by
  rw [ringPacket_eq h.found h.en h.run h.ring h.between h.ctx, if_neg (Nat.not_lt.2 h.few), if_neg (Nat.pos_iff_ne_zero.1 h.some), h.read]
  rfl

theorem found' : (s.headerRead t).engines.find n = Option.some e := by rw [headerRead_engines h.read, h.found]

theorem idle_eq {f : Engine} (hf : ((s.headerRead t).packetHeader n ((e.rbase + e.rptr % 2 ^ e.rlog) % 2 ^ 64) hdr.toNat).engines.find n = Option.some f) :
    s.ringIdle n = if f.state = 2 then s.ringPacket n
      else if e.kickAt + 1024 ≤ s.now ∧ f.state = 1 ∧ ¬f.inPkt ∧ f.rptr = e.rptr then
        Option.some (((s.headerRead t).packetHeader n ((e.rbase + e.rptr % 2 ^ e.rlog) % 2 ^ 64) hdr.toNat).putEngine n { f with state := 2 })
      else none := by
  have hseen : s.headerSeen n = true := by simp only [State.headerSeen, engineRec_of_find h.found, h.read]
  simp only [State.ringIdle, h.found, h.packet, engineRec_of_find hf, hseen, and_true]

variable (hocc : s.occ = .num n)
include hocc

theorem packet_lap (hl : hdr.getLsbD 31 = bit e.rptr e.rlog) : exec .ringPacket s = .next (s.headerRead t) := by
  rw [exec_ringPacket hocc, h.packet, Option.getD_some, packetHeader_lap h.found' ((bit_toNat hdr 31).trans hl)]

theorem idle_lap (hl : hdr.getLsbD 31 = bit e.rptr e.rlog) (hk : e.kickAt + 1024 ≤ s.now) :
    exec .ringIdleTimeout s = .next ((s.headerRead t).putEngine n { e with state := 2 }) := by
  have hph : (s.headerRead t).packetHeader n ((e.rbase + e.rptr % 2 ^ e.rlog) % 2 ^ 64) hdr.toNat = s.headerRead t :=
    packetHeader_lap h.found' ((bit_toNat hdr 31).trans hl)
  rw [exec_ringIdle hocc, h.idle_eq (f := e) (by rw [hph]; exact h.found'), h.run, if_neg (by decide),
    if_pos ⟨hk, rfl, by rw [h.between]; exact Bool.false_ne_true, rfl⟩, hph, Option.getD_some]

section
variable (hl : ¬hdr.getLsbD 31 = bit e.rptr e.rlog)
include hl

theorem packet_bad (hb : bits hdr.toNat 30 4 ≠ 0) : exec .ringPacket s = .next ((s.headerRead t).haltEngine n 6) := by
  rw [exec_ringPacket hocc, h.packet, Option.getD_some, packetHeader_bad h.found' (by rwa [bit_toNat]) hb]

theorem packet_enters (hb : bits hdr.toNat 30 4 = 0) (hw : hdr.toNat % 16 ≠ 0) : ∃ w d, exec .ringPacket s = .next w ∧
    w.engines.find n = Option.some d ∧ d.inPkt = true ∧ d.left = hdr.toNat % 16 ∧ d.rptr = e.rptr ∧
    d.ctl.pc = ((e.rbase + e.rptr % 2 ^ e.rlog) % 2 ^ 64 + 4) % 2 ^ 64 :=
  ⟨_, _, (exec_ringPacket hocc).trans (by rw [h.packet, Option.getD_some]), packetHeader_enters h.found' (by rwa [bit_toNat]) hb,
    packet_words e _ hw⟩

end

/-- An engine does not sleep before 1024 clocks have passed. -/
theorem idle_early (hk : s.now < e.kickAt + 1024) : exec .ringIdleTimeout s = .next s := by
  obtain ⟨f, hf, h2⟩ : ∃ f, ((s.headerRead t).packetHeader n ((e.rbase + e.rptr % 2 ^ e.rlog) % 2 ^ 64) hdr.toNat).engines.find n =
      Option.some f ∧ f.state ≠ 2 := by
    by_cases hl : bit hdr.toNat 31 = bit e.rptr e.rlog
    · rw [packetHeader_lap h.found' hl]
      exact ⟨e, h.found', by rw [h.run]; decide⟩
    · by_cases hb : bits hdr.toNat 30 4 = 0
      · exact ⟨_, packetHeader_enters h.found' hl hb, by rw [packet_state, h.run]; decide⟩
      · rw [packetHeader_bad h.found' hl hb]
        exact ⟨_, Assoc.find_alter_some _ h.found', (by decide : (3 : Nat) ≠ 2)⟩
  rw [exec_ringIdle hocc, h.idle_eq hf, if_neg h2, if_neg (fun h => absurd h.1 (Nat.not_le.2 hk)), Option.getD_none]

end RingReads

end Sys2Proof.Machine
end

section open Sys2Proof Machine

/-- Settles O46: the host's writes by the branch of `writeEngineCtl` that they take; the ring by what the read of a header leaves. -/
theorem engineEventsComplete : Obligations.EngineEventsComplete := by
  unfold Obligations.EngineEventsComplete
  refine ⟨?_, ?_, ?_, ?_, ?_, ?_⟩
  · intro s n v hocc hrec
    have h1 : ¬(n < 32 ∧ ¬s.mgmt.recov = true) := fun h => h.2 hrec
    have h2 : ∀ p : Prop, ¬(n < 32 ∧ p ∧ ¬s.mgmt.recov = true) := fun p h => h.2.2 hrec
    refine ⟨?_, ?_, ?_⟩
    · rw [exec_kick hocc, if_neg h1]
    · rw [exec_engineEnable hocc, if_neg (h2 _)]
    · rw [exec_engineDisable hocc, if_neg (h2 _)]
  · intro s n v hocc hn hrec e woken kept
    rw [exec_kick hocc, if_pos ⟨hn, by rw [hrec]; exact Bool.false_ne_true⟩, State.kick, BitVec.toNat_setWidth]
  · intro s n v hocc hn hrec hv e e' r
    have hexec := exec_engineEnable hocc
    rw [if_pos ⟨hn, hv, by rw [hrec]; exact Bool.false_ne_true⟩] at hexec
    have hr : r.engineRec n = e' := engineRec_put s n e'
    refine ⟨fun he hc => ?_, fun i t he hc ht => ?_, fun es page cause sz t he hc ht => ?_, fun es t he hc ht => ?_, fun he h3 => ?_, fun he h3 => ?_⟩
    · rw [hexec, writeEngineCtl_enables hv he]
      exact congrArg Host.Outcome.next (enableEngine_refused hc)
    · rw [hexec, writeEngineCtl_enables hv he]
      exact congrArg Host.Outcome.next (enableEngine_bad hc hr ht)
    · rw [hexec, writeEngineCtl_enables hv he]
      exact congrArg Host.Outcome.next (enableEngine_parks hc hr ht)
    · refine ⟨_, _, ?_, find_putEngine (t.cleared n) n (((t.cleared n).engineRec n).started (es.map (BitVec.ofNat 256))), rfl, rfl, rfl, rfl, rfl, rfl, rfl, rfl,
        fun x hx => List.eq_of_mem_replicate hx, cleared_grids t n, cleared_plans t n⟩
      rw [hexec, writeEngineCtl_enables hv he]
      exact congrArg Host.Outcome.next (enableEngine_starts hc hr ht)
    · rw [hexec, writeEngineCtl_resumes hv he h3]
    · rw [hexec, writeEngineCtl_enabled hv he h3]
  · intro s n v hocc hn hrec hv hon e
    have hexec := exec_engineDisable hocc
    rw [if_pos ⟨hn, by rw [hv]; exact Bool.false_ne_true, by rw [hrec]; exact Bool.false_ne_true⟩] at hexec
    refine ⟨fun hs => ?_, fun hs => ?_⟩
    · rw [writeEngineCtl_stops hv hon hs] at hexec
      obtain ⟨d, hd, hrest⟩ := stopEngine_spec (s.putEngine n (s.engineRec n)) n
      exact ⟨_, d, hexec, hd, hrest⟩
    · rw [hexec, writeEngineCtl_stopping hv hon hs]
  · intro s n e hocc he hen hst hp hi hrun room va
    have hring := ringPacket_eq he hen hst hp hi hrun
    refine ⟨fun h => ?_, fun h => ?_, fun h => ?_, fun hdr t h0 h1 hread => ?_⟩
    · rw [exec_ringPacket hocc, hring, if_pos h, Option.getD_some]
    · rw [exec_ringPacket hocc, ringPacket_sleeps hring h, Option.getD_some]
    · rw [exec_ringIdle hocc]
      simp only [State.ringIdle, he, ringPacket_sleeps hring h, engineRec_put, if_true, Option.getD_some]
    · have hr : RingReads s n e hdr t := ⟨he, hen, hst, hp, hi, hrun, h0, h1, hread⟩
      have hrec : (s.headerRead t).engineRec n = e := engineRec_of_find hr.found'
      intro z lap
      refine ⟨hr.packet_lap hocc, hr.packet_bad hocc, fun hl hb hw => ?_, fun hl _ _ _ hk => ?_, fun hk _ => hr.idle_early hocc hk⟩
      · obtain ⟨w, d, hexec, hd, h1, h2, h3, h4⟩ := hr.packet_enters hocc hl hb hw
        exact ⟨w, d, hexec, hd, h1, h2, h3.trans (congrArg Engine.rptr hrec.symm), h4⟩
      · refine (hr.idle_lap hocc hl hk).trans ?_
        rw [← hrec]
        rfl
  · intro s n va hdr e he hp hi
    exact ⟨packetHeader_lap he, packetHeader_bad he, fun hl hb => ⟨_, packetHeader_enters he hl hb, fun hw => packet_words e va hw,
      fun hw => packet_empty hp va hw⟩⟩

end

section
/-! SUPPORT. Special and system registers as instructions reach them (R303, R373 to R376). -/

namespace Sys2Proof.Machine

variable {s t t' r : State} {n pi : Nat} {p : Partition} {v : Opnds} {u : Agent} {sh : Shape} {i : Instr} {body : M Unit}

theorem insn_traps_qe {x : TrapInfo} (hcur : s.cur = some (.qe n)) (hb : body (s.past (.qe n)) = .error (.trap x)) :
    meaning (insn i sh body) s = .next (s.takeTrap (.qe n) x (len0Of s.ir.form)) := by
  simp only [meaning, hcur, runUnit, insn_run_qe hcur, hb]

/-! MOVS. -/

/-- The width that MOVS reads a special register with: two words for the clock. -/
def movsWidth (o : Ops) : Nat := if o.x8.toNat % 128 = 8 then 2 else 1

/-- The shape of MOVS, reading. -/
def movsShape (o : Ops) : Shape := { d := movsWidth o, a := 0, b := 0, c := 0 }

/-- The body of MOVS, reading. -/
def movsReadBody (o : Ops) : M Unit := do
  let _ ← fetch (movsShape o) .int
  let s ← get
  let v := Val.of (BitVec.ofNat 64 (s.specialReg (← unit) (o.x8.toNat % 128)))
  writeD (movsWidth o) (fun _ => v)

theorem exec_movsRead : exec .movsRead s = meaning (insn .movsRead (movsShape s.ir) (movsReadBody s.ir)) s := meaning_read (M.ops_run s)

theorem movsRead_completes (he : Executes s u (movsShape s.ir)) (hd : Delivers s u (movsShape s.ir) .int v t)
    (hw : Writes t s.ir.d (movsWidth s.ir) (fun _ => Val.of (BitVec.ofNat 64 (t.specialReg u (s.ir.x8.toNat % 128)))) t') :
    exec .movsRead s = .next (s.closed t' u .movsRead (movsShape s.ir)) := by
  have hfetch : fetch (movsShape s.ir) .int (s.past u) = .ok (v, t) := hd
  refine exec_movsRead.trans (insn_completes_of_sameUnit he ?_ (hd.sameUnit.trans hw.sameUnit))
  simp only [movsReadBody, M.bind_run, hfetch, M.get_run, M.unit_run (hd.sameUnit.1.trans he.past_cur)]
  exact M.writeD_of_writes hd.ir hw

theorem specialRegs_ex {tm tid : Nat} {g : Team} {x : ExThread} (hg : s.teams.find tm = some g)
    (hx : s.exs.find (exKey tm tid) = some x) : (List.range 12).map (s.specialReg (.ex tm tid)) =
      [tid, tid / 16, tid % 16, g.team, g.cohort, g.gid % 2 ^ 32, placeOf (g.coreOf (tid / 16)), g.ctx,
       (s.now + (s.core (g.coreOf (tid / 16))).skew) % 2 ^ 64, x.ctl.tinfo.toNat,
       x.eos.toNat + s.boundPorts (stripKey tm (tid / 16)) * 2 ^ 16, 0] := by
  have hteam : s.teamOf (.ex tm tid) = some g := hg
  have hcore : s.coreOf (.ex tm tid) = some (g.coreOf (tid / 16)) := by rw [State.coreOf, hteam]; rfl
  have hctl : s.ctl (.ex tm tid) = some x.ctl := congrArg (Option.map ExThread.ctl) hx
  have hctx : s.ctxOf (.ex tm tid) = g.ctx := congrArg (fun o : Option Team => o.elim 0 (·.ctx)) hg
  have hrange : List.range 12 = [0, 1, 2, 3, 4, 5, 6, 7, 8, 9, 10, 11] := rfl
  simp only [hrange, List.map_cons, List.map_nil, State.specialReg, hteam, hcore, hctl, hctx, hx, State.clockOf, Option.elim_some, stripOf]

theorem movsWrite_completes {tm tid : Nat} (he : Executes s (.ex tm tid) { d := 0, b := 0, c := 0 })
    (hd : Delivers s (.ex tm tid) { d := 0, b := 0, c := 0 } .int v t) : exec .movsWrite s =
      .next (s.closed (if (v.a 0).poison then t
        else t.modEx tm tid (fun x => { x with eos := x.eos &&& ~~~((v.a 0).bits.setWidth 16) })) (.ex tm tid) .movsWrite
          { d := 0, b := 0, c := 0 }) := by
  have hfetch : fetch { d := 0, b := 0, c := 0 } .int (s.past (.ex tm tid)) = .ok (v, t) := hd
  have hct := hd.sameUnit.1.trans he.past_cur
  by_cases hp : (v.a 0).poison = true
  · rw [if_pos hp]
    refine insn_completes_of_sameUnit he ?_ hd.sameUnit
    simp only [M.bind_run, hfetch, M.unit_run hct, if_pos hp, M.pure_run]
  · rw [if_neg hp]
    refine insn_completes_of_sameUnit he ?_ (hd.sameUnit.trans (t := t)
      (r := t.modEx tm tid (fun x => { x with eos := x.eos &&& ~~~((v.a 0).bits.setWidth 16) })) ?_)
    · simp only [M.bind_run, hfetch, M.unit_run hct, if_neg hp, M.modify_run]
    · exact sameUnit_local.ex t tm tid _

/-! RDSYS and WRSYS. -/

theorem M.enginePart_run (hcur : t.cur = some (.qe n)) (hp : t.partOfEngine n = some (pi, p)) : enginePart t = .ok ((n, pi, p), t) := by
  simp only [enginePart, M.bind_run, M.unit_run hcur, M.get_run, hp, M.pure_run]

section
variable (hcur : s.cur = some (.qe n)) (ht : t.cur = some (.qe n)) (hp : t.partOfEngine n = some (pi, p))
include hcur ht hp

section
variable (hd : Delivers s (.qe n) { b := 0, c := 0 } .int v t)
include hd

theorem rdsys_selector (h : selBad (v.a 0).bits false = true) :
    exec .rdsys s = .next (s.takeTrap (.qe n) (tinfo 2 3) (len0Of s.ir.form)) := by
  have hfetch : fetch { b := 0, c := 0 } .int (s.past (.qe n)) = .ok (v, t) := hd
  refine insn_traps_qe hcur ?_
  simp only [M.bind_run, hfetch, M.enginePart_run ht hp, h, M.trapIf_true, M.trap_run]

variable (hok : selBad (v.a 0).bits false = false)
include hok

theorem rdsys_context (h : t.selCtxOk p (v.a 0).bits false = false) :
    exec .rdsys s = .next (s.takeTrap (.qe n) (tinfo 2 1) (len0Of s.ir.form)) := by
  have hfetch : fetch { b := 0, c := 0 } .int (s.past (.qe n)) = .ok (v, t) := hd
  refine insn_traps_qe hcur ?_
  simp only [M.bind_run, hfetch, M.enginePart_run ht hp, hok, M.trapIf_false, M.pure_run, M.get_run, h, Bool.not_false, M.trapIf_true,
    M.trap_run]

theorem rdsys_reads (h : t.selCtxOk p (v.a 0).bits false = true)
    (hw : Writes t s.ir.d 1 (fun _ => heldVal ⟨t.sysRead p (v.a 0).bits, (v.a 0).poison⟩) t') : exec .rdsys s = .next t' := by
  have hfetch : fetch { b := 0, c := 0 } .int (s.past (.qe n)) = .ok (v, t) := hd
  refine insn_next_qe hcur ?_
  simp only [M.bind_run, hfetch, M.enginePart_run ht hp, hok, M.trapIf_false, M.pure_run, M.get_run, h, Bool.not_true]
  exact M.writeD_of_writes hd.ir hw

end

variable (hd : Delivers s (.qe n) qAB .int v t)
include hd

theorem wrsys_selector (h : selBad (v.a 0).bits true = true) :
    exec .wrsys s = .next (s.takeTrap (.qe n) (tinfo 2 3) (len0Of s.ir.form)) := by
  have hfetch : fetch qAB .int (s.past (.qe n)) = .ok (v, t) := hd
  refine insn_traps_qe hcur ?_
  simp only [M.bind_run, hfetch, M.enginePart_run ht hp, h, M.trapIf_true, M.trap_run]

variable (hok : selBad (v.a 0).bits true = false)
include hok

theorem wrsys_context (h : t.selCtxOk p (v.a 0).bits ((v.b 0).bits.getLsbD 0) = false) :
    exec .wrsys s = .next (s.takeTrap (.qe n) (tinfo 2 1) (len0Of s.ir.form)) := by
  have hfetch : fetch qAB .int (s.past (.qe n)) = .ok (v, t) := hd
  refine insn_traps_qe hcur ?_
  simp only [M.bind_run, hfetch, M.enginePart_run ht hp, hok, M.trapIf_false, M.pure_run, M.get_run, h, Bool.not_false, M.trapIf_true,
    M.trap_run]

variable (hctx : t.selCtxOk p (v.a 0).bits ((v.b 0).bits.getLsbD 0) = true)
include hctx

theorem wrsys_stages (h : Sel.stages (v.a 0).bits = true) : exec .wrsys s =
    .next (t.modEngine n (fun e => { e with staged := e.staged.put ((v.a 0).bits.toNat % 2 ^ 32) (v.b 0).bits })) := by
  have hfetch : fetch qAB .int (s.past (.qe n)) = .ok (v, t) := hd
  refine insn_next_qe hcur ?_
  simp only [M.bind_run, hfetch, M.enginePart_run ht hp, hok, M.trapIf_false, M.pure_run, M.get_run, hctx, Bool.not_true, h, if_true,
    M.modify_run]

variable (hst : Sel.stages (v.a 0).bits = false)
include hst

theorem wrsys_refused (h : t.sysRefused n p (v.a 0).bits (v.b 0).bits = true) :
    exec .wrsys s = .next (s.takeTrap (.qe n) (tinfo 2 2) (len0Of s.ir.form)) := by
  have hfetch : fetch qAB .int (s.past (.qe n)) = .ok (v, t) := hd
  refine insn_traps_qe hcur ?_
  simp only [M.bind_run, hfetch, M.enginePart_run ht hp, hok, M.trapIf_false, M.pure_run, M.get_run, hctx, Bool.not_true, hst,
    Bool.false_eq_true, if_false, h, M.trapIf_true, M.trap_run]

variable (href : t.sysRefused n p (v.a 0).bits (v.b 0).bits = false)
include href

theorem wrsys_plain (h : t.plainWrite (v.a 0).bits (v.b 0).bits = true) :
    exec .wrsys s = .next (t.sysWrite n pi p (v.a 0).bits (v.b 0).bits) := by
  have hfetch : fetch qAB .int (s.past (.qe n)) = .ok (v, t) := hd
  refine insn_next_qe hcur ?_
  simp only [M.bind_run, hfetch, M.enginePart_run ht hp, hok, M.trapIf_false, M.pure_run, M.get_run, hctx, Bool.not_true, hst,
    Bool.false_eq_true, if_false, href, h, if_true, M.modify_run]

/-- An engine at a WRSYS whose operation has begun. -/
def Engine.atSysop (e : Engine) (a now : Nat) (f : Form) : Engine :=
  { e with ctl := { e.ctl with pc := a, status := .waiting .sysop now, len := len0Of f },
           left := if e.prog then e.left else e.left + f.bytes / 4 }

omit hcur hp hd hok hctx hst href in
theorem stayQ_run {a : Nat} (hhere : here t = .ok (a, t)) :
    stayQ t = .ok ((), t.modEngine n (fun e => e.atSysop a t.now t.ir.form)) := by
  simp only [stayQ, M.bind_run, hhere, M.ops_run, M.get_run, M.unit_run ht, M.modify_run]
  rfl

theorem wrsys_waits (he : Executes s (.qe n) qAB) (hpc : s.pcAt (.qe n) < 2 ^ 64)
    (h : t.plainWrite (v.a 0).bits (v.b 0).bits = false) : ∃ z d, exec .wrsys s = .next z ∧ z.engines.find n = some d ∧
      d.sysop = some ((v.a 0).bits, (v.b 0).bits) ∧ d.ctl.status = .waiting .sysop t.now ∧ d.ctl.pc = s.pcAt (.qe n) ∧ z.ctxs = t.ctxs ∧
      z.parts = t.parts := by
  have hfetch : fetch qAB .int (s.past (.qe n)) = .ok (v, t) := hd
  obtain ⟨e, hte⟩ : ∃ e, t.engines.find n = some e := by
    have h1 : (t.ctl (.qe n)).isSome := hd.isSome he
    simpa only [State.ctl, Option.isSome_map, Option.isSome_iff_exists] using h1
  have hcur' : (t.modEngine n (fun e => { e with sysop := some ((v.a 0).bits, (v.b 0).bits) })).cur = some (.qe n) := ht
  have hhere := M.here_calm he hpc hd.calm
  have hhere' : here (t.modEngine n (fun e => { e with sysop := some ((v.a 0).bits, (v.b 0).bits) })) =
      .ok (s.pcAt (.qe n), t.modEngine n (fun e => { e with sysop := some ((v.a 0).bits, (v.b 0).bits) })) := by
    refine M.here_congr hhere ht (hd.isSome he) rfl rfl ?_
    simp only [State.ctl, State.modEngine_engines, Assoc.find_alter_self, hte, Option.map_some]
  have hrun : exec .wrsys s = .next ((t.modEngine n (fun e => { e with sysop := some ((v.a 0).bits, (v.b 0).bits) })).modEngine n
      (fun e => e.atSysop (s.pcAt (.qe n)) t.now t.ir.form)) := by
    refine insn_next_qe hcur ?_
    simp only [M.bind_run, hfetch, M.enginePart_run ht hp, hok, M.trapIf_false, M.pure_run, M.get_run, hctx, Bool.not_true, hst,
      Bool.false_eq_true, if_false, href, h, M.modify_run]
    exact stayQ_run hcur' hhere'
  exact ⟨_, _, hrun, Assoc.find_alter_some _ (Assoc.find_alter_some _ hte), rfl, rfl, rfl, rfl, rfl⟩

end

/-! WBR and INVR. -/

theorem rangeFence_outside (hcur : t.cur = some (.qe n)) (hd : Delivers s (.qe n) qAB .int v t) (hp : t.partOfEngine n = some (pi, p))
    (hb : (v.b 0).bits.toNat ≠ 0) (h : (v.a 0).bits.toNat < Desc.iabase p.desc ∨ Desc.iaend p.desc < (v.a 0).bits.toNat + (v.b 0).bits.toNat ∨
      2 ^ 52 < (v.a 0).bits.toNat + (v.b 0).bits.toNat) : rangeFence (s.past (.qe n)) = .error (.trap (tinfo 2 1)) := by
  have hfetch : fetch qAB .int (s.past (.qe n)) = .ok (v, t) := hd
  have hout : p.inIA (v.a 0).bits.toNat ((v.a 0).bits.toNat + (v.b 0).bits.toNat) = false := by
    refine decide_eq_false (fun ⟨h1, h2, h3⟩ => ?_)
    rcases h with h | h | h
    · exact Nat.not_lt.2 h1 h
    · exact Nat.not_lt.2 h2 h
    · exact Nat.not_lt.2 h3 h
  simp only [rangeFence, M.bind_run, hfetch, M.enginePart_run hcur hp, hout, bne_iff_ne.2 hb, Bool.not_false, Bool.and_self, M.trapIf_true,
    M.trap_run]

theorem range_traps {x : TrapInfo} (hcur : s.cur = some (.qe n)) (h : rangeFence (s.past (.qe n)) = .error (.trap x)) :
    ∀ i ∈ [Instr.wbr, .invr], exec i s = .next (s.takeTrap (.qe n) x (len0Of s.ir.form)) := by
  simp only [List.forall_mem_cons, List.not_mem_nil, false_implies, implies_true, and_true]
  refine ⟨insn_traps_qe hcur ?_, insn_traps_qe hcur ?_⟩ <;> simp only [M.bind_run, h]

section
variable {a b : Nat} (hcur : s.cur = some (.qe n)) (h : rangeFence (s.past (.qe n)) = .ok ((a, b, pi, p), t))
include hcur h

theorem wbr_completes : exec .wbr s = .next (if b = 0 then t else t.l2.foldl (fun s x =>
    if a / 64 ≤ x.1 / 2 ∧ x.1 / 2 ≤ (a + b - 1) / 64 then s.writeBack x.1 else s) t) := by
  by_cases hb : b = 0
  · rw [if_pos hb]
    refine insn_next_qe hcur ?_
    simp only [M.bind_run, h, if_pos hb, M.pure_run]
  · rw [if_neg hb]
    refine insn_next_qe hcur ?_
    simp only [M.bind_run, h, if_neg hb, M.modify_run]

theorem invr_completes : exec .invr s = .next (if b = 0 then t else t.invalidate pi a b) := by
  by_cases hb : b = 0
  · rw [if_pos hb]
    refine insn_next_qe hcur ?_
    simp only [M.bind_run, h, if_pos hb, M.pure_run]
  · rw [if_neg hb]
    refine insn_next_qe hcur ?_
    simp only [M.bind_run, h, if_neg hb, M.modify_run]

end

end Sys2Proof.Machine
end

section open Sys2Proof Machine

/-- Settles O47: each clause by the body of its instruction, run to where it traps, writes or waits. -/
theorem systemInstructionsComplete : Obligations.SystemInstructionsComplete := by
  unfold Obligations.SystemInstructionsComplete
  refine ⟨?_, ?_, ?_, ?_, ?_, ?_, ?_⟩
  · intro s t t' u v n w sh he hd hw
    exact movsRead_completes he hd hw
  · intro s tm tid g x hg hx
    exact specialRegs_ex hg hx
  · intro s t tm tid v u sh he hd
    exact movsWrite_completes he hd
  · intro s t t' n pi p v u sh sel he hd hp
    have ht := hd.sameUnit.1.trans he.past_cur
    exact ⟨fun h1 h2 hw => rdsys_reads he.1 ht hp hd h1 h2 hw, rdsys_selector he.1 ht hp hd, rdsys_context he.1 ht hp hd⟩
  · intro s t n pi p v u sel x he hd hp
    have ht := hd.sameUnit.1.trans he.past_cur
    exact ⟨wrsys_selector he.1 ht hp hd, wrsys_context he.1 ht hp hd, fun h1 h2 =>
      ⟨wrsys_stages he.1 ht hp hd h1 h2, wrsys_refused he.1 ht hp hd h1 h2, wrsys_plain he.1 ht hp hd h1 h2,
        fun h3 h4 h5 hpc => wrsys_waits he.1 ht hp hd h1 h2 h3 h4 he hpc h5⟩⟩
  · intro i hi s t n pi p v u a b he hd hp hb h
    exact range_traps he.1 (rangeFence_outside (hd.sameUnit.1.trans he.past_cur) hd hp hb h) i hi
  · intro s t n pi a b p u he h
    exact ⟨wbr_completes he.1 h, invr_completes he.1 h⟩

end

section
/-! SUPPORT. RESUMET (R393). -/

namespace Sys2Proof.Machine

variable {s t t' z : State} {n op code : Nat} {v : Opnds} {i : Instr} {u : Agent} {r : TrapRec} {x8 : BitVec 8} {x : Val}

theorem abandon_sameUnit (s : State) (tm : Nat) : SameUnit s (s.abandon tm) := by
  unfold State.abandon
  split
  · exact SameUnit.refl s
  · split
    · exact SameUnit.refl s
    · dsimp only
      refine SameUnit.trans ?_ (sameUnit_local.toFrames.foldl (fun q _ => takeTrap_sameUnit q _ _ _) _ _)
      exact sameUnit_of_units rfl rfl rfl rfl rfl

theorem leaveMma_sameUnit (s : State) (u : Agent) : SameUnit s (s.leaveMma u) := by
  unfold State.leaveMma
  split
  · split
    · exact abandon_sameUnit s _
    · exact SameUnit.refl s
  · exact SameUnit.refl s

theorem resume_sameUnit (s : State) (u : Agent) (r : TrapRec) (op pc : Nat) : SameUnit s (s.resume u r op pc) := sameUnit_local.modCtl s u _

theorem wregOp_sameUnit (u : Agent) (x8 : BitVec 8) (x : Val) : Keeps SameUnit (wregOp u x8 x) := by
  have hf := sameUnit_local.toFrames
  have hmodEx : ∀ (tm tid : Nat) (f : ExThread → ExThread), Keeps SameUnit (modify (fun s => s.modEx tm tid f) : M Unit) :=
    fun tm tid f s _ _ h => by
      cases h
      exact sameUnit_local.ex s tm tid f
  have hmodAp : ∀ (tm sp : Nat) (f : ApThread → ApThread), Keeps SameUnit (modify (fun s => s.modAp tm sp f) : M Unit) :=
    fun tm sp f s _ _ h => by
      cases h
      exact sameUnit_local.ap s tm sp f
  have hpure : ∀ b : Bool, Keeps SameUnit (pure b : M Bool) := fun b => Keeps.pure hf b
  cases u with
  | ex tm tid =>
    exact Keeps.ite (Keeps.ite (hpure _) (Keeps.bind hf (hmodEx _ _ _) (fun _ => hpure _)))
      (Keeps.ite (hpure _) (Keeps.bind hf (Keeps.writeRegs sameUnit_local _ _ _ _ _) (fun _ => hpure _)))
  | ap tm sp =>
    exact Keeps.ite (Keeps.ite (hpure _) (Keeps.bind hf (hmodAp _ _ _) (fun _ => hpure _)))
      (Keeps.ite (Keeps.bind hf (hmodAp _ _ _) (fun _ => hpure _))
        (Keeps.ite (Keeps.bind hf (hmodAp _ _ _) (fun _ => hpure _)) (hpure _)))
  | qe m => exact hpure _

/-! What each operation does to the thread found. -/

theorem resumeOp_wreg {b : Bool} (h : wregOp u x8 x t = .ok (b, z)) : resumeOp 0 x8 x u r t = .ok (if b then 0 else 3, z) := by
  simp only [resumeOp, M.bind_run, h, M.pure_run]

theorem resumeOp_retry_done (h : r.info.done = true) : resumeOp 1 x8 x u r t = .ok (2, t) := by
  simp only [resumeOp, h, if_true, M.pure_run]

theorem resumeOp_retry (h : r.info.done = false) : resumeOp 1 x8 x u r t = .ok (0, (t.seenBy u).resume u r 1 r.pc.toNat) := by
  simp only [resumeOp, h, Bool.false_eq_true, if_false, M.bind_run, M.modify_run, M.pure_run]

theorem resumeOp_skip_long (h : r.len0 = 3) : resumeOp 2 x8 x u r t = .ok (2, t) := by
  simp only [resumeOp, if_pos h, M.pure_run]

theorem resumeOp_skip (h : r.len0 ≠ 3) : resumeOp 2 x8 x u r t =
    .ok (0, ((t.leaveMma u).seenBy u).resume u r 2 ((r.pc.toNat + 4 * (r.len0.toNat + 1)) % 2 ^ 64)) := by
  simp only [resumeOp, if_neg h, M.bind_run, M.modify_run, M.pure_run]

theorem resumeOp_repl_other (h : r.info.code ≠ 0x30 ∨ r.info.deferred = true) : resumeOp 3 x8 x u r t = .ok (2, t) := by
  simp only [resumeOp, if_pos h, M.pure_run]

theorem resumeOp_repl (h : ¬(r.info.code ≠ 0x30 ∨ r.info.deferred = true)) : resumeOp 3 x8 x u r t =
    .ok (0, ((t.seenBy u).resume u r 3 r.pc.toNat).modCtl u (fun c =>
      { c with repl := c.repl.put (replKey (r.info.port.getD 0) r.info.pos.toNat) x })) := by
  simp only [resumeOp, if_neg h, M.bind_run, M.modify_run, M.pure_run]

theorem resumeOp_jump_odd (h : x.bits.toNat % 4 ≠ 0) : resumeOp 4 x8 x u r t = .ok (5, t) := by
  simp only [resumeOp, if_pos h, M.pure_run]

theorem resumeOp_jump (h : ¬x.bits.toNat % 4 ≠ 0) : resumeOp 4 x8 x u r t =
    .ok (0, ((t.leaveMma u).seenBy u).resume u r 4 ((t.baseOf u + x.bits.toNat % 2 ^ 32) % 2 ^ 64)) := by
  simp only [resumeOp, if_neg h, M.bind_run, M.modify_run, M.pure_run]

/-- A thread that RESUMET makes exit. -/
def State.killed (t : State) (u : Agent) : State :=
  let z := (t.leaveMma u).modCtl u (fun c => { c with deferred := [], skip := none })
  match u with
  | .ex tm tid => z.exitEx tm tid
  | .ap tm sp => z.exitAp tm sp
  | .qe _ => z

theorem resumeOp_kill : resumeOp 5 x8 x u r t = .ok (0, t.killed u) := by
  cases u <;> simp only [resumeOp, M.bind_run, M.modify_run, M.pure_run, State.killed]

theorem killed_sameUnit (t : State) (u : Agent) : SameUnit t (t.killed u) := by
  have h := (leaveMma_sameUnit t u).trans (sameUnit_local.modCtl (t.leaveMma u) u (fun c => { c with deferred := [], skip := none }))
  cases u with
  | ex tm tid => exact h.trans (sameUnit_local.exitEx _ _ _)
  | ap tm sp => exact h.trans (sameUnit_local.exitAp _ _ _)
  | qe m => exact h

/-! The instruction. -/

/-- The shape of RESUMET. -/
def resumetShape (op : Nat) : Shape := { b := if op = 0 ∨ op = 3 ∨ op = 4 then 1 else 0, c := 0 }

/-- The status of RESUMET, with its effect. -/
def State.resumetStatus (s : State) (op : Nat) (x8 : BitVec 8) (v : Opnds) (ctx : Nat) : M Nat :=
  if !s.running ctx then pure 4
  else match s.stoppedUnder ctx (v.a 0).bits with
    | none => pure 1
    | some (u, r) => resumeOp op x8 (v.b 0) u r

/-- The body of RESUMET. -/
def resumetBody (op : Nat) (x8 : BitVec 8) : M Unit := do
  let v ← fetch (resumetShape op) .int
  release
  let s ← get
  let ctx := s.ctxOf (← unit)
  let st ← s.resumetStatus op x8 v ctx
  writeD 1 (fun _ => heldVal ⟨BitVec.ofNat 64 st, (v.a 0).poison || (v.b 0).poison⟩)

theorem resumetOp_eq (i : Instr) (op : Nat) : meaning (resumetOp i op) s = meaning (insn i (resumetShape op) (resumetBody op s.ir.x8)) s :=
  meaning_read (M.ops_run s)

theorem exec_resumet : ∀ q ∈ [(Instr.resumetWreg, 0), (.resumetRetry, 1), (.resumetSkip, 2), (.resumetRepl, 3), (.resumetJump, 4), (.resumetKill, 5)],
    exec q.1 s = meaning (insn q.1 (resumetShape q.2) (resumetBody q.2 s.ir.x8)) s := by
  simp only [List.forall_mem_cons, List.not_mem_nil, false_implies, implies_true, and_true]
  exact ⟨resumetOp_eq _ 0, resumetOp_eq _ 1, resumetOp_eq _ 2, resumetOp_eq _ 3, resumetOp_eq _ 4, resumetOp_eq _ 5⟩

section
variable (he : Executes s (.qe n) (resumetShape op)) (hd : Delivers s (.qe n) (resumetShape op) .int v t) (hr : release t = .ok ((), t))
include he hd hr

/-- RESUMET writes the status that its effect gives. -/
theorem resumet_ends (hst : t.resumetStatus op s.ir.x8 v (t.ctxOf (.qe n)) t = .ok (code, z)) (hz : SameUnit t z)
    (hw : Writes z s.ir.d 1 (fun _ => heldVal ⟨BitVec.ofNat 64 code, (v.a 0).poison || (v.b 0).poison⟩) t') :
    meaning (insn i (resumetShape op) (resumetBody op s.ir.x8)) s = .next t' := by
  have hfetch : fetch (resumetShape op) .int (s.past (.qe n)) = .ok (v, t) := hd
  refine insn_next_qe he.1 ?_
  simp only [resumetBody, M.bind_run, hfetch, hr, M.get_run, M.unit_run (hd.sameUnit.1.trans he.past_cur), hst]
  exact M.writeD_of_writes (hz.2.1.trans hd.ir) hw

end

theorem resumetStatus_halted {ctx : Nat} (h : s.running ctx = false) : s.resumetStatus op x8 v ctx s = .ok (4, s) := by
  simp only [State.resumetStatus, h, Bool.not_false, if_true, M.pure_run]

section
variable {ctx : Nat} (h : s.running ctx = true)
include h

theorem resumetStatus_none (hn : s.stoppedUnder ctx (v.a 0).bits = none) : s.resumetStatus op x8 v ctx s = .ok (1, s) := by
  simp only [State.resumetStatus, h, Bool.not_true, Bool.false_eq_true, if_false, hn, M.pure_run]

theorem resumetStatus_found (hu : s.stoppedUnder ctx (v.a 0).bits = some (u, r)) :
    s.resumetStatus op x8 v ctx s = resumeOp op x8 (v.b 0) u r s := by
  simp only [State.resumetStatus, h, Bool.not_true, Bool.false_eq_true, if_false, hu]

end

end Sys2Proof.Machine
end

section open Sys2Proof Machine

/-- Settles O48: the status and the effect of each operation on the thread found, and the write of the status. -/
theorem resumeComplete : Obligations.ResumeComplete := by
  unfold Obligations.ResumeComplete
  intro q hq s t t' n v i op e sh x ends he hd hr
  have hends : ∀ {z : State} {code : Nat}, t.resumetStatus op s.ir.x8 v (t.ctxOf e) t = .ok (code, z) → SameUnit t z → ends z code :=
    fun hst hz hw => (exec_resumet q hq).trans (resumet_ends he hd hr hst hz hw)
  refine ⟨fun h => hends (resumetStatus_halted h) (SameUnit.refl t), fun h hn => hends (resumetStatus_none h hn) (SameUnit.refl t),
    fun u r h hu => ?_⟩
  have hst : ∀ {z : State} {code : Nat}, resumeOp op s.ir.x8 (v.b 0) u r t = .ok (code, z) → SameUnit t z → ends z code :=
    fun hrun hz => hends ((resumetStatus_found h hu).trans hrun) hz
  have hseen := seenBy_sameUnit t u
  have hleft := (leaveMma_sameUnit t u).trans (seenBy_sameUnit _ u)
  refine ⟨fun hop b z hw => ?_, fun hop => ?_, fun hop => ?_, fun hop => ?_, fun hop => ?_, fun hop => ?_⟩ <;> rw [hop] at hst
  · exact hst (resumeOp_wreg hw) (wregOp_sameUnit u _ _ _ _ _ hw)
  · split
    · next hdone => exact hst (resumeOp_retry_done hdone) (SameUnit.refl t)
    · next hdone => exact hst (resumeOp_retry (Bool.eq_false_iff.2 hdone)) (hseen.trans (resume_sameUnit _ _ _ _ _))
  · split
    · next hlen => exact hst (resumeOp_skip_long hlen) (SameUnit.refl t)
    · next hlen => exact hst (resumeOp_skip hlen) (hleft.trans (resume_sameUnit _ _ _ _ _))
  · split
    · next hcode => exact hst (resumeOp_repl_other hcode) (SameUnit.refl t)
    · next hcode => exact hst (resumeOp_repl hcode) ((hseen.trans (resume_sameUnit _ _ _ _ _)).trans (sameUnit_local.modCtl _ _ _))
  · split
    · next hodd => exact hst (resumeOp_jump_odd hodd) (SameUnit.refl t)
    · next hodd => exact hst (resumeOp_jump hodd) (hleft.trans (resume_sameUnit _ _ _ _ _))
  · exact hst resumeOp_kill (killed_sameUnit t u)

end

section
/-! SUPPORT. What a write of a system register does (R366 to R368, R377, R389). -/

namespace Sys2Proof.Machine

variable {s t : State} {n pi c : Nat} {p : Partition} {e : Engine} {v x : W64}

theorem Assoc.find_map {α β : Type} (f : Nat → α → β) (k : Nat) : ∀ m : Assoc α,
    Assoc.find (m.map (fun q => (q.1, f q.1 q.2))) k = (m.find k).map (f k)
  | [] => rfl
  | (j, y) :: m => by
    rw [List.map_cons, Assoc.find, Assoc.find]
    split
    · next h =>
      subst h
      rfl
    · split
      · rfl
      · exact Assoc.find_map f k m

theorem context_modCtx (s : State) (c : Nat) (f : Context → Context) : (s.modCtx c f).context c = f (s.context c) :=
  Assoc.get_put_self _ _ _ _

/-! The parts and cores that a destroyed context leaves. -/

/-- The cores and the partitions are those of before. -/
def SameFloor (s t : State) : Prop := t.cores = s.cores ∧ t.parts = s.parts

theorem sameFloor_frames : Frames SameFloor := ⟨fun _ => ⟨rfl, rfl⟩, fun h1 h2 => ⟨h2.1.trans h1.1, h2.2.trans h1.2⟩⟩

/-- A request of an engine that is gone is no longer waited for. -/
def State.unawait (s : State) (q : Nat × Req) : State :=
  match q.2.owner with
  | .unit (.qe n) => if q.2.returns then s else s.modEngine n (fun e => { e with ctl := e.ctl.bumpCls q.2.cls (-1) })
  | _ => s

theorem forget_sameFloor (s : State) (gone : Req → Bool) : SameFloor s (s.forget gone) := by
  have hstep : ∀ (r : State) (q : Nat × Req), SameFloor r (r.unawait q) := by
    intro r q
    unfold State.unawait
    split
    · split
      · exact ⟨rfl, rfl⟩
      · exact ⟨rfl, rfl⟩
    · exact ⟨rfl, rfl⟩
  have hfold := sameFloor_frames.foldl (f := State.unawait) hstep (s.reqs.filter (fun q => gone q.2))
    { s with reqs := s.reqs.filter (fun q => !gone q.2) }
  exact ⟨hfold.1, hfold.2⟩

/-- A core whose broadcast constant store nobody owns. -/
def Core.unowned (k : Core) : Core := { k with bcsOwner := none }

theorem unowned_owner (k : Core) : k.unowned.bcsOwner = none := rfl

/-- One core's broadcast constant store taken from a context. -/
def State.clearCore (ctx : Nat) (s : State) (c : Nat × Core) : State :=
  if c.2.bcsOwner == some ctx then (s.zeroStore (Loc.bcs c.1 0).key 16384).modCore c.1 Core.unowned else s

theorem clearBcs_eq (s : State) (ctx : Nat) : s.clearBcs ctx = s.cores.foldl (State.clearCore ctx) s := rfl

theorem zeroStore_core (s : State) (key n k : Nat) : (s.zeroStore key n).core k = s.core k := rfl

theorem modCore_core (s : State) (c k : Nat) (f : Core → Core) : (s.modCore c f).core k = if k = c then f (s.core c) else s.core k := by
  split
  · next h => rw [h, core_modCore]
  · next h => exact Assoc.get_put_of_ne _ _ _ h

theorem clearCore_core (ctx : Nat) (s : State) (c : Nat × Core) (k : Nat) :
    (s.clearCore ctx c).core k = s.core k ∨ ((s.clearCore ctx c).core k).bcsOwner = none := by
  unfold State.clearCore
  split
  · rw [modCore_core]
    split
    · exact .inr (unowned_owner _)
    · exact .inl (zeroStore_core _ _ _ _)
  · exact .inl rfl

/-- No core's store belongs to the context once all cores have been gone through. -/
theorem clearCores_owner (ctx k : Nat) : ∀ (l : List (Nat × Core)) (s : State),
    ((s.core k).bcsOwner = some ctx → ∃ y, (k, y) ∈ l ∧ y.bcsOwner = some ctx) →
    ((l.foldl (State.clearCore ctx) s).core k).bcsOwner ≠ some ctx
  | [], s, h => fun hc => by
    obtain ⟨y, hy, _⟩ := h hc
    cases hy
  | a :: l, s, h => by
    refine clearCores_owner ctx k l (s.clearCore ctx a) (fun hc => ?_)
    rcases clearCore_core ctx s a k with hsame | hnone
    · rw [hsame] at hc
      obtain ⟨y, hy, hown⟩ := h hc
      rcases List.mem_cons.1 hy with rfl | hy
      · have hgone : ((s.clearCore ctx (k, y)).core k).bcsOwner = none := by
          rw [State.clearCore, if_pos (beq_iff_eq.2 hown), core_modCore, unowned_owner]
        rw [hsame, hc] at hgone
        cases hgone
      · exact ⟨y, hy, hown⟩
    · rw [hnone] at hc
      cases hc

theorem clearBcs_owner (s : State) (ctx k : Nat) : ((s.clearBcs ctx).core k).bcsOwner ≠ some ctx := by
  rw [clearBcs_eq]
  refine clearCores_owner ctx k s.cores s (fun h => ?_)
  cases hf : s.cores.find k with
  | none =>
    rw [State.core, Assoc.get, hf] at h
    cases h
  | some y =>
    rw [State.core, Assoc.get, hf] at h
    exact ⟨y, Assoc.mem_of_find hf, h⟩

theorem zeroStore_parts (s : State) (key n : Nat) : (s.zeroStore key n).parts = s.parts := rfl

theorem clearBcs_parts (s : State) (ctx : Nat) : (s.clearBcs ctx).parts = s.parts := by
  have hf : Frames (fun s t : State => t.parts = s.parts) := ⟨fun _ => rfl, fun h1 h2 => h2.trans h1⟩
  rw [clearBcs_eq]
  refine hf.foldl (f := State.clearCore ctx) (fun r q => ?_) _ s
  unfold State.clearCore
  split
  · rw [State.modCore_parts, zeroStore_parts]
  · rfl

/-- A core that a context was the last to own has another last owner. -/
def Core.forgotten (k : Core) (c : Nat) : Core :=
  { k with lastCtx := if k.lastCtx = some c then some 256 else k.lastCtx,
           windows := k.windows.map (fun w => if w.2.2 = c then (w.1, w.2.1, 256) else w) }

theorem forgetOwner_core (s : State) (c k : Nat) : (s.forgetOwner c).core k = (s.core k).forgotten c := by
  have h : (s.forgetOwner c).cores.find k = (s.cores.find k).map (fun y => y.forgotten c) := by
    have hmap := Assoc.find_map (fun (_ : Nat) (y : Core) => y.forgotten c) k s.cores
    exact hmap
  rw [State.core, State.core, Assoc.get, Assoc.get, h]
  cases s.cores.find k <;> rfl

theorem destroyCtx_sameFloor (s : State) (c : Nat) : SameFloor (((s.clearBcs c).closePairs c).forgetOwner c) (s.destroyCtx c) := by
  have h := forget_sameFloor ((((((s.clearBcs c).closePairs c).forgetOwner c).dropOps c).emptyBuffers c).dropStaged c) (fun r => r.ctx == c)
  exact ⟨h.1, h.2⟩

theorem destroyCtx_core (s : State) (hc : c < 256) (k : Nat) :
    ((s.destroyCtx c).core k).bcsOwner ≠ some c ∧ ((s.destroyCtx c).core k).lastCtx ≠ some c := by
  have hcore : (s.destroyCtx c).core k = ((s.clearBcs c).core k).forgotten c := by
    have h : (s.destroyCtx c).core k = (((s.clearBcs c).closePairs c).forgetOwner c).core k := by
      rw [State.core, State.core, (destroyCtx_sameFloor s c).1]
    exact h.trans (forgetOwner_core _ _ _)
  rw [hcore]
  refine ⟨clearBcs_owner s c k, fun h => ?_⟩
  simp only [Core.forgotten] at h
  split at h
  · have := Option.some.inj h
    omega
  · next hne => exact hne h

theorem destroyCtx_parts (s : State) (c : Nat) (hp : s.parts.find pi = some p) :
    (s.destroyCtx c).parts.find pi = some { p with pairs := p.pairs.filter (fun o => o.ctx != c) } := by
  have h : (s.destroyCtx c).parts = ((s.clearBcs c).closePairs c).parts := (destroyCtx_sameFloor s c).2
  rw [h]
  refine (Assoc.find_map (fun _ (y : Partition) => { y with pairs := y.pairs.filter (fun o => o.ctx != c) }) pi (s.clearBcs c).parts).trans ?_
  rw [clearBcs_parts, hp]
  rfl

/-! A word of a description replaced. -/

theorem word_below {lo y a j : Nat} (h : j + 64 ≤ a) : (lo + y * 2 ^ a) / 2 ^ j % 2 ^ 64 = lo / 2 ^ j % 2 ^ 64 := by
  have hsplit : y * 2 ^ a = y * 2 ^ (a - j - 64) * 2 ^ 64 * 2 ^ j := by
    rw [Nat.mul_assoc, Nat.mul_assoc, ← Nat.pow_add, ← Nat.pow_add]
    congr 2
    omega
  rw [hsplit, Nat.add_mul_div_right _ _ (Nat.two_pow_pos j), Nat.add_mul_mod_self_right]

theorem word_above {lo m y a j : Nat} (hlo : lo < 2 ^ a) (hm : m < 2 ^ 64) (h : a + 64 ≤ j) :
    (lo + (m + y * 2 ^ 64) * 2 ^ a) / 2 ^ j = y / 2 ^ (j - (a + 64)) := by
  have hj : 2 ^ j = 2 ^ a * 2 ^ 64 * 2 ^ (j - (a + 64)) := by
    rw [← Nat.pow_add, ← Nat.pow_add]
    congr 1
    omega
  rw [hj, ← Nat.div_div_eq_div_mul, ← Nat.div_div_eq_div_mul, Nat.add_mul_div_right _ _ (Nat.two_pow_pos a), Nat.div_eq_of_lt hlo,
    Nat.zero_add, Nat.add_mul_div_right _ _ (Nat.two_pow_pos 64), Nat.div_eq_of_lt hm, Nat.zero_add]

theorem word_at {lo m y a : Nat} (hlo : lo < 2 ^ a) (hm : m < 2 ^ 64) : (lo + (m + y * 2 ^ 64) * 2 ^ a) / 2 ^ a % 2 ^ 64 = m := by
  rw [Nat.add_mul_div_right _ _ (Nat.two_pow_pos a), Nat.div_eq_of_lt hlo, Nat.zero_add, Nat.add_mul_mod_self_right, Nat.mod_eq_of_lt hm]

/-- A description with another root of its page table. -/
def withRoot (d : BitVec 2048) (m : Nat) : BitVec 2048 := BitVec.ofNat 2048 (d.toNat - Desc.ptroot d * 2 ^ 704 + m * 2 ^ 704)

/-- A number with the middle of its three parts replaced. -/
theorem replace_middle {N a b c m : Nat} (hN : N < 2 ^ (a + b + c)) (hm : m < 2 ^ b) : ∃ lo y r, lo < 2 ^ a ∧ r < 2 ^ b ∧
    N = lo + (r + y * 2 ^ b) * 2 ^ a ∧ N - N / 2 ^ a % 2 ^ b * 2 ^ a + m * 2 ^ a = lo + (m + y * 2 ^ b) * 2 ^ a ∧
    lo + (m + y * 2 ^ b) * 2 ^ a < 2 ^ (a + b + c) := by
  have hA := Nat.two_pow_pos a
  have hB := Nat.two_pow_pos b
  rw [Nat.pow_add, Nat.pow_add] at hN ⊢
  generalize 2 ^ a = A at *
  generalize 2 ^ b = B at *
  generalize 2 ^ c = C at *
  have h1 := Nat.div_add_mod N A
  have h2 := Nat.div_add_mod (N / A) B
  have hy : N / A / B < C := by
    rw [Nat.div_div_eq_div_mul]
    exact Nat.div_lt_of_lt_mul hN
  have hlo := Nat.mod_lt N hA
  have hr := Nat.mod_lt (N / A) hB
  generalize N % A = lo at *
  generalize N / A % B = r at *
  generalize N / A / B = y at *
  have hN' : N = lo + (r + y * B) * A := by
    rw [← h1, ← h2]
    ring
  refine ⟨lo, y, r, hlo, hr, hN', ?_, ?_⟩
  · rw [hN', Nat.add_mul, Nat.add_mul]
    omega
  · have hup : (y + 1) * B ≤ C * B := Nat.mul_le_mul_right _ hy
    rw [Nat.add_mul, Nat.one_mul] at hup
    have hup2 : (m + y * B + 1) * A ≤ C * B * A := Nat.mul_le_mul_right _ (by omega)
    rw [Nat.add_mul _ 1, Nat.one_mul] at hup2
    have hperm : A * B * C = C * B * A := by ring
    omega

theorem withRoot_toNat (d : BitVec 2048) {m : Nat} (hm : m < 2 ^ 64) : ∃ lo y r, lo < 2 ^ 704 ∧ r < 2 ^ 64 ∧
    d.toNat = lo + (r + y * 2 ^ 64) * 2 ^ 704 ∧ (withRoot d m).toNat = lo + (m + y * 2 ^ 64) * 2 ^ 704 := by
  have hlt : d.toNat < 2 ^ (704 + 64 + 1280) := d.isLt
  obtain ⟨lo, y, r, hlo, hr, hd, hnew, hlt⟩ := replace_middle hlt hm
  refine ⟨lo, y, r, hlo, hr, hd, ?_⟩
  have hroot : Desc.ptroot d = d.toNat / 2 ^ 704 % 2 ^ 64 := rfl
  rw [withRoot, BitVec.toNat_ofNat, hroot, hnew]
  exact Nat.mod_eq_of_lt hlt

theorem withRoot_root (d : BitVec 2048) {m : Nat} (hm : m < 2 ^ 64) : Desc.ptroot (withRoot d m) = m := by
  obtain ⟨lo, y, r, hlo, hr, hd, hnew⟩ := withRoot_toNat d hm
  have hroot : Desc.ptroot (withRoot d m) = (withRoot d m).toNat / 2 ^ 704 % 2 ^ 64 := rfl
  rw [hroot, hnew, word_at hlo hm]

theorem withRoot_word (d : BitVec 2048) {m j : Nat} (hm : m < 2 ^ 64) (hj : j ≠ 11) : wordAt (withRoot d m) j = wordAt d j := by
  obtain ⟨lo, y, r, hlo, hr, hd, hnew⟩ := withRoot_toNat d hm
  rw [wordAt, wordAt, hnew, hd]
  refine BitVec.eq_of_toNat_eq ?_
  rw [BitVec.toNat_ofNat, BitVec.toNat_ofNat]
  rcases Nat.lt_or_gt_of_ne hj with h | h
  · rw [word_below (by omega), word_below (by omega)]
  · rw [word_above hlo hm (by omega), word_above hlo hr (by omega)]

end Sys2Proof.Machine
end

section
/-! SUPPORT. The commits of system registers, word by word. -/

namespace Sys2Proof.Machine

variable {s t : State} {n pi c : Nat} {p r : Partition} {e : Engine} {v x : W64}

theorem sel_ctx_lt (v : W64) : Sel.ctx v < 256 := Nat.mod_lt _ (by norm_num)

theorem unstage_context (s : State) (n : Nat) (v : W64) (c : Nat) : (s.unstage n v).context c = s.context c := rfl
theorem unstage_parts (s : State) (n : Nat) (v : W64) : (s.unstage n v).parts = s.parts := rfl

/-- A domain whose switch begins (R378). -/
def Domain.switched (old d : Domain) : Domain :=
  { d with gen := (old.gen + 1) % 256, busy := true, was := if old.v then some (old.hmr, old.dbase, old.dend) else none }

/-- A domain as a commit leaves it: with its switch in progress where its map has changed (R378). -/
def Domain.committed (old d : Domain) : Domain :=
  if old.hmr != d.hmr || old.v != d.v || old.dbase != d.dbase || old.dend != d.dend then old.switched d else d

/-- The domain that a commit of these words gives a partition. -/
def Partition.domainCommit (p : Partition) (i : Nat) (l : List W64) : Domain :=
  (p.domains.getD i {}).committed (domainOfWords (p.domains.getD i {}) l)

section
variable (he : s.engines.find n = some e)
include he

theorem sysWrite_range (hg : Sel.group v = 1) : s.sysWrite n pi p v x =
    (s.modCtx (Sel.ctx v) (fun k => { k with ranges := k.ranges.set (Sel.index v) (BitVec.ofNat 192 (joinWords (s.staged p e v x))) })).unstage n v := by
  simp only [State.sysWrite, hg, engineRec_of_find he]

theorem sysWrite_domain (hg : Sel.group v = 2) : s.sysWrite n pi p v x =
    (s.modPart pi (fun q => { q with domains := q.domains.set (Sel.index v) (p.domainCommit (Sel.index v) (s.staged p e v x)) })).unstage n v := by
  simp only [State.sysWrite, hg, engineRec_of_find he]
  rfl

theorem sysWrite_export (hg : Sel.group v = 3) : s.sysWrite n pi p v x =
    (s.modPart pi (fun q => { q with exports := q.exports.set (Sel.index v) (BitVec.ofNat 128 (joinWords (s.staged p e v x))) })).unstage n v := by
  simp only [State.sysWrite, hg, engineRec_of_find he]

end

theorem sysWrite_root (hg : Sel.group v = 5) : s.sysWrite n pi p v x = s.modPart pi (fun q => { q with desc := withRoot q.desc x.toNat }) := by
  simp only [State.sysWrite, hg]
  rfl

section
variable (hg : Sel.group v = 4)
include hg

theorem sysWrite_create (hw : Sel.word v = 0) (hx : x.getLsbD 0 = true) (hv : (s.context (Sel.ctx v)).v = false) :
    s.sysWrite n pi p v x = s.createCtx (Sel.ctx v) := by
  simp only [State.sysWrite, hg, hw, hx, hv, Bool.not_false, Bool.and_self, if_true]

theorem sysWrite_destroy (hw : Sel.word v = 0) (hx : x.getLsbD 0 = false) (hv : (s.context (Sel.ctx v)).v = true) :
    s.sysWrite n pi p v x = s.destroyCtx (Sel.ctx v) := by
  simp only [State.sysWrite, hg, hw, hx, hv, Bool.not_false, Bool.and_self, if_true, Bool.false_and, Bool.false_eq_true, if_false]

theorem sysWrite_faultRing (hw : Sel.word v = 1) : s.sysWrite n pi p v x = s.modCtx (Sel.ctx v) (fun k =>
    { k with frlog := bits x.toNat 4 0, frbase := bits x.toNat 51 8, fvec := bits x.toNat 62 52 }) := by
  simp only [State.sysWrite, hg, hw]

theorem sysWrite_faultHead (hw : Sel.word v = 2) :
    s.sysWrite n pi p v x = s.modCtx (Sel.ctx v) (fun k => { k with frhead := x.setWidth 32 }) := by
  simp only [State.sysWrite, hg, hw]

theorem sysWrite_trapRing (hw : Sel.word v = 3) : s.sysWrite n pi p v x = s.modCtx (Sel.ctx v) (fun k =>
    { k with trlog := bits x.toNat 4 0, trbase := bits x.toNat 52 8, tvec := bits x.toNat 63 53 }) := by
  simp only [State.sysWrite, hg, hw]

theorem sysWrite_trapHead (hw : Sel.word v = 4) :
    s.sysWrite n pi p v x = s.modCtx (Sel.ctx v) (fun k => { k with trhead := x.setWidth 32 }) := by
  simp only [State.sysWrite, hg, hw]

theorem sysWrite_saveArea (hw : Sel.word v = 6) : s.sysWrite n pi p v x = s.modCtx (Sel.ctx v) (fun k =>
    { k with sasize := bits x.toNat 11 0, sabase := bits x.toNat 43 12 }) := by
  simp only [State.sysWrite, hg, hw]

end

/-- What a write makes of its partition, apart from the groups that act on one. -/
theorem sysWrite_part_other (hp : s.parts.find pi = some p) (h2 : Sel.group v ≠ 2) (h3 : Sel.group v ≠ 3) (h5 : Sel.group v ≠ 5) :
    ∃ r, (s.sysWrite n pi p v x).parts.find pi = some r := by
  unfold State.sysWrite
  dsimp only
  split
  · exact ⟨p, hp⟩
  · next h => exact absurd h h2
  · next h => exact absurd h h3
  · split
    · exact ⟨p, hp⟩
    · split
      · exact ⟨_, destroyCtx_parts s _ hp⟩
      · exact ⟨p, hp⟩
  · exact ⟨p, hp⟩
  · exact ⟨p, hp⟩
  · exact ⟨p, hp⟩
  · exact ⟨p, hp⟩
  · exact ⟨p, hp⟩
  · exact ⟨p, hp⟩
  · exact absurd (by assumption) h5
  · exact ⟨p, hp⟩

theorem sysWrite_part (he : s.engines.find n = some e) (hp : s.parts.find pi = some p) : ∃ r, (s.sysWrite n pi p v x).parts.find pi = some r ∧
    (Sel.group v = 3 → r.exports = p.exports.set (Sel.index v) (BitVec.ofNat 128 (joinWords (s.staged p e v x)))) ∧
    (Sel.group v = 5 → Desc.ptroot r.desc = x.toNat ∧ ∀ j < 32, j ≠ 11 → wordAt r.desc j = wordAt p.desc j) := by
  by_cases h3 : Sel.group v = 3
  · rw [sysWrite_export he h3]
    exact ⟨_, Assoc.find_alter_some _ hp, fun _ => rfl, fun h5 => by omega⟩
  · by_cases h5 : Sel.group v = 5
    · rw [sysWrite_root h5]
      exact ⟨_, Assoc.find_alter_some _ hp, fun h => absurd h h3, fun _ => ⟨withRoot_root _ x.isLt, fun j _ hj => withRoot_word _ x.isLt hj⟩⟩
    · by_cases h2 : Sel.group v = 2
      · rw [sysWrite_domain he h2]
        exact ⟨_, Assoc.find_alter_some _ hp, fun h => absurd h h3, fun h => absurd h h5⟩
      · obtain ⟨r, hr⟩ := sysWrite_part_other (n := n) (x := x) hp h2 h3 h5
        exact ⟨r, hr, fun h => absurd h h3, fun h => absurd h h5⟩

/-! The events of a WRSYS. -/

/-- Which operations each commit event takes up. -/
def commitPick (i : Instr) (g w : Nat) (v x : W64) : Bool :=
  match i with
  | .contextCreate => isWord 4 0 v x && x.getLsbD 0
  | .contextDestroy => isWord 4 0 v x && !x.getLsbD 0
  | _ => isWord g w v x

theorem exec_commit (hocc : s.occ = .num n) : ∀ q ∈ [(Instr.rangeRegisterCommit, 1, 0), (.exportCommit, 3, 0), (.ptrootWrite, 5, 11),
      (.faultRingSet, 4, 1), (.frheadWrite, 4, 2), (.trapRingSet, 4, 3), (.trheadWrite, 4, 4), (.saveAreaSet, 4, 6), (.contextCreate, 4, 0),
      (.contextDestroy, 4, 0)], exec q.1 s = .next ((s.sysEvent n (commitPick q.1 q.2.1 q.2.2)).getD s) := by
  simp only [List.forall_mem_cons, List.not_mem_nil, false_implies, implies_true, and_true]
  have hexec : ∀ pick, event1 (fun s n => s.sysEvent n pick) s = .next ((s.sysEvent n pick).getD s) := fun pick => event1_run _ hocc
  exact ⟨hexec (isWord 1 0), hexec (isWord 3 0), hexec (isWord 5 11), hexec (isWord 4 1), hexec (isWord 4 2), hexec (isWord 4 3),
    hexec (isWord 4 4), hexec (isWord 4 6), hexec (fun v x => isWord 4 0 v x && x.getLsbD 0), hexec (fun v x => isWord 4 0 v x && !x.getLsbD 0)⟩

section
variable {pick : W64 → W64 → Bool} (he : s.engines.find n = some e) (hp : s.partOfEngine n = some (pi, p)) (hs : e.sysop = some (v, x))
  (hpick : pick v x = true) (hrun : s.running e.ctx = true) (hfirst : v.getLsbD 63 = false)
include he hp hs hpick hrun hfirst

theorem sysEvent_eq : s.sysEvent n pick =
    if s.sysRefused n p v x then some (s.refuseQ n)
    else if Sel.group v = 2 then
      if (p.domains.getD (Sel.index v) {}).busy then none
      else if (((s.sysWrite n pi p v x).parts.find pi).elim false (fun p => (p.domains.getD (Sel.index v) {}).busy)) then
        some ((s.sysWrite n pi p v x).modEngine n (fun e => { e with sysop := some (switching v, x) }))
      else some ((s.sysWrite n pi p v x).finishQ n)
    else some ((s.sysWrite n pi p v x).finishQ n) := by
  simp only [State.sysEvent, he, hp, hs, hpick, hrun, hfirst, Bool.not_true, Bool.or_self, Bool.false_eq_true, if_false]

end

theorem refuseQ_eq (he : s.engines.find n = some e) : s.refuseQ n =
    ((s.modEngine n (fun e => { e with sysop := none })).takeTrap (.qe n) (tinfo 2 2) e.ctl.len).atBoundary n := by
  rw [State.refuseQ, engineRec_of_find he]

/-! The commit of a domain. -/

theorem committed_same {old d : Domain} (h : old.hmr = d.hmr ∧ old.v = d.v ∧ old.dbase = d.dbase ∧ old.dend = d.dend) : old.committed d = d := by
  obtain ⟨h1, h2, h3, h4⟩ := h
  simp only [Domain.committed, h1, h2, h3, h4, bne_self_eq_false, Bool.or_self, Bool.false_eq_true, if_false]

theorem committed_switch {old d : Domain} (h : ¬(old.hmr = d.hmr ∧ old.v = d.v ∧ old.dbase = d.dbase ∧ old.dend = d.dend)) :
    old.committed d = old.switched d := by
  refine if_pos ?_
  simpa only [Bool.or_eq_true, bne_iff_ne, ne_eq, not_and_or, or_assoc] using h

section
variable (hocc : s.occ = .num n) (he : s.engines.find n = some e) (hp : s.partOfEngine n = some (pi, p)) (hpi : s.parts.find pi = some p)
  (hs : e.sysop = some (v, x)) (hg : Sel.group v = 2) (hw : Sel.word v = 8) (hi : Sel.index v < p.domains.length) (hrun : s.running e.ctx = true)
  (hfirst : v.getLsbD 63 = false) (hbusy : (p.domains.getD (Sel.index v) {}).busy = false) (href : s.sysRefused n p v x = false)
include he hpi hg hi

omit hpi hi in
theorem domainCommit_part (hpi : s.parts.find pi = some p) (hi : Sel.index v < p.domains.length) :
    ∃ r, (s.sysWrite n pi p v x).parts.find pi = some r ∧
      r.domains.getD (Sel.index v) {} = p.domainCommit (Sel.index v) (s.staged p e v x) := by
  rw [sysWrite_domain he hg]
  refine ⟨_, Assoc.find_alter_some _ hpi, ?_⟩
  simp only [List.getD_eq_getElem?_getD, List.getElem?_set_self hi, Option.getD_some]

include hocc hp hs hw hrun hfirst hbusy href

theorem domainCommit_runs : exec .domainCommit s = .next (
    if (p.domainCommit (Sel.index v) (s.staged p e v x)).busy then
      (s.sysWrite n pi p v x).modEngine n (fun e => { e with sysop := some (switching v, x) })
    else (s.sysWrite n pi p v x).finishQ n) := by
  obtain ⟨r, hr, hd⟩ := domainCommit_part (pi := pi) (x := x) he hg hpi hi
  have hpick : isWord 2 8 v x = true := by simp only [isWord, hg, hw, beq_self_eq_true, Bool.and_self]
  have hexec : exec .domainCommit s = .next ((s.sysEvent n (isWord 2 8)).getD s) := event1_run (fun s n => s.sysEvent n (isWord 2 8)) hocc
  rw [hexec, sysEvent_eq he hp hs hpick hrun hfirst, if_neg (by rw [href]; exact Bool.false_ne_true), if_pos hg,
    if_neg (by rw [hbusy]; exact Bool.false_ne_true), hr, Option.elim_some, hd]
  split <;> rfl

end

/-! The switch of a domain completes. -/

/-- Whether a sector of a partition's lines has moved to another slice, or out of every domain. -/
def Partition.moved (p : Partition) (x : Nat × L2Sector) : Bool :=
  p.inIA (32 * x.1) (32 * x.1 + 32) && match p.domainOf (32 * x.1) with
    | some d => d.slice (32 * x.1) != x.2.slice
    | none => true

/-- A WRSYS that waits for the switch of a domain goes on. -/
def State.endSwitch (p : Partition) (i : Nat) (s : State) (e : Nat × Engine) : State :=
  match e.2.sysop with
  | some (v, _) =>
    if v.getLsbD 63 && Sel.index v == i && decide (Desc.qebase p.desc ≤ e.1 ∧ e.1 < Desc.qebase p.desc + Desc.qecount p.desc) then
      s.finishQ e.1
    else s
  | none => s

/-- Requests that a slice accepted before the switch are injected again. -/
def State.nackEarlier (s : State) (pi : Nat) (d : Domain) : State :=
  { s with reqs := s.reqs.map (fun (q : Nat × Req) => (q.1, if s.acceptedBefore pi d q.2 then { q.2 with phase := .nacked } else q.2)) }

/-- What the end of a switch makes of memory and of the requests. -/
def State.switched (s : State) (pi i : Nat) (p : Partition) : State :=
  let q := s.nackEarlier pi (p.domains.getD i {})
  let r := (q.l2.filter p.moved).foldl (fun s x => s.dropSector x.1) q
  let r := r.modPart pi (fun p => { p with domains := p.domains.modify i (fun d => { d with busy := false, was := none }) })
  r.serveAgain (fun q => q.part == pi && q.page.isNone)

section
variable {i : Nat} (hocc : s.occ = .num2 pi i) (hp : s.parts.find pi = some p) (hbusy : (p.domains.getD i {}).busy = true)
include hocc hp hbusy

theorem switchComplete_eq : exec .domainSwitchComplete s = .next ((
    if s.reqs.any (fun q => s.acceptedBefore pi (p.domains.getD i {}) q.2 && (q.2.phase == .snoop || (s.walkRequest q.1 false).isSome)) then none
    else if s.l2.any (fun x => p.moved x && s.mustKeep x.2) then none
    else some ((s.switched pi i p).engines.foldl (State.endSwitch p i) (s.switched pi i p))).getD s) := by
  have hexec : exec .domainSwitchComplete s = .next ((s.switchComplete pi i).getD s) := by
    show execDomainSwitchComplete s = _
    rw [execDomainSwitchComplete, event2, event_run]
    simp only [hocc]
  rw [hexec]
  refine congrArg (fun o : Option State => Host.Outcome.next (o.getD s)) ?_
  unfold State.switchComplete
  rw [hp]
  dsimp only
  rw [hbusy, Bool.not_true, if_neg Bool.false_ne_true]
  rfl

theorem switchComplete_waits
    (h : (∃ x ∈ s.reqs, s.acceptedBefore pi (p.domains.getD i {}) x.2 = true ∧ (x.2.phase = .snoop ∨ (s.walkRequest x.1 false).isSome = true)) ∨
      (∃ x ∈ s.l2, p.moved x = true ∧ s.mustKeep x.2 = true)) : exec .domainSwitchComplete s = .next s := by
  rw [switchComplete_eq hocc hp hbusy]
  by_cases hreq : s.reqs.any (fun q => s.acceptedBefore pi (p.domains.getD i {}) q.2 && (q.2.phase == .snoop || (s.walkRequest q.1 false).isSome)) = true
  · rw [if_pos hreq, Option.getD_none]
  · have hl2 : s.l2.any (fun x => p.moved x && s.mustKeep x.2) = true := by
      refine h.elim (fun h => absurd ?_ hreq) (fun h => ?_)
      · obtain ⟨x, hx, hacc, hph⟩ := h
        refine List.any_eq_true.2 ⟨x, hx, ?_⟩
        rw [hacc, Bool.true_and, Bool.or_eq_true, beq_iff_eq]
        exact hph
      · obtain ⟨x, hx, hm, hk⟩ := h
        exact List.any_eq_true.2 ⟨x, hx, by rw [hm, hk]; rfl⟩
    rw [if_neg hreq, if_pos hl2, Option.getD_none]

theorem switchComplete_ends
    (hreq : ∀ x ∈ s.reqs, s.acceptedBefore pi (p.domains.getD i {}) x.2 = true → x.2.phase ≠ .snoop ∧ s.walkRequest x.1 false = none)
    (hl2 : ∀ x ∈ s.l2, p.moved x = true → s.mustKeep x.2 = false) : exec .domainSwitchComplete s =
      .next ((s.switched pi i p).engines.foldl (State.endSwitch p i) (s.switched pi i p)) := by
  have h1 : ¬s.reqs.any (fun q => s.acceptedBefore pi (p.domains.getD i {}) q.2 && (q.2.phase == .snoop || (s.walkRequest q.1 false).isSome)) = true := by
    intro h
    obtain ⟨x, hx, hb⟩ := List.any_eq_true.1 h
    rw [Bool.and_eq_true, Bool.or_eq_true, beq_iff_eq] at hb
    obtain ⟨hn, hw⟩ := hreq x hx hb.1
    rw [hw] at hb
    exact hb.2.elim hn (fun h => Bool.false_ne_true h)
  have h2 : ¬s.l2.any (fun x => p.moved x && s.mustKeep x.2) = true := by
    intro h
    obtain ⟨x, hx, hb⟩ := List.any_eq_true.1 h
    rw [Bool.and_eq_true] at hb
    exact Bool.false_ne_true ((hl2 x hx hb.1).symm.trans hb.2)
  rw [switchComplete_eq hocc hp hbusy, if_neg h1, if_neg h2, Option.getD_some]

end

/-! The rings. -/

section
variable {ctx : Nat} {r : TrapRec} {rest : List TrapRec} (hocc : s.occ = .num ctx) (ht : (s.context ctx).traps = r :: rest)
  (hlog : (s.context ctx).trlog ≠ 0) (hroom : ((s.context ctx).trtail - (s.context ctx).trhead).toNat ≠ 2 ^ (s.context ctx).trlog)
include hocc ht hlog hroom

theorem postTrap_writes (hw : s.structWrite ctx ((s.context ctx).trbase * 128 + 128 * ((s.context ctx).trtail.toNat % 2 ^ (s.context ctx).trlog))
    r.bits 128 = .ok t) : exec .trapRecordPost s = .next (
      if (s.context ctx).trtail = (s.context ctx).trhead then
        { t.modCtx ctx (fun c => { c with traps := rest, trtail := c.trtail + 1, ntrap := c.ntrap + 1 }) with irqs := (s.context ctx).tvec :: t.irqs }
      else t.modCtx ctx (fun c => { c with traps := rest, trtail := c.trtail + 1, ntrap := c.ntrap + 1 })) := by
  have hexec : exec .trapRecordPost s = .next ((s.postTrap ctx).getD s) := event1_run State.postTrap hocc
  have hpost : s.postTrap ctx = some (if (s.context ctx).trtail = (s.context ctx).trhead then
        { t.modCtx ctx (fun c => { c with traps := rest, trtail := c.trtail + 1, ntrap := c.ntrap + 1 }) with irqs := (s.context ctx).tvec :: t.irqs }
      else t.modCtx ctx (fun c => { c with traps := rest, trtail := c.trtail + 1, ntrap := c.ntrap + 1 })) := by
    simp only [State.postTrap, ht, if_neg (not_or.2 ⟨hlog, hroom⟩), hw, Except.map, State.structEvent]
    rfl
  rw [hexec, hpost, Option.getD_some]

theorem postTrap_held {lo hi : Nat} {w : Bool}
    (hw : s.structWrite ctx ((s.context ctx).trbase * 128 + 128 * ((s.context ctx).trtail.toNat % 2 ^ (s.context ctx).trlog)) r.bits 128 =
      .error (.page lo hi w)) :
    exec .trapRecordPost s = .next (s.modCtx ctx (fun c => { c with stuck := (lo, hi, w) :: c.stuck })) := by
  have hexec : exec .trapRecordPost s = .next ((s.postTrap ctx).getD s) := event1_run State.postTrap hocc
  have hpost : s.postTrap ctx = some (s.modCtx ctx (fun c => { c with stuck := (lo, hi, w) :: c.stuck })) := by
    simp only [State.postTrap, ht, if_neg (not_or.2 ⟨hlog, hroom⟩), hw, Except.map, State.structEvent]
  rw [hexec, hpost, Option.getD_some]

end

/-- The fault records once the oldest of a context stands in its ring. -/
def State.recordsAfter (t : State) (f : FaultRec) (n : W32) : List FaultRec :=
  if f.closed then t.frecs.erase f else replaceFirst (· == f) (fun f => { f with slot := some n }) t.frecs

/-- A context's fault ring with one record more. -/
def State.faultPosted (t : State) (ctx : Nat) (f : FaultRec) (n : W32) : State :=
  ({ t with frecs := t.recordsAfter f n } : State).modCtx ctx (fun c => { c with frtail := c.frtail + 1 })

theorem postFault_writes {ctx : Nat} {f : FaultRec} (hocc : s.occ = .num ctx)
    (hf : (heldRecords s.frecs).find? (fun f => f.ctx == ctx && f.slot.isNone) = some f) (hlog : (s.context ctx).frlog ≠ 0)
    (hroom : ((s.context ctx).frtail - (s.context ctx).frhead).toNat ≠ 2 ^ (s.context ctx).frlog)
    (hw : s.structWrite ctx ((s.context ctx).faultAt (s.context ctx).frtail) f.bits 32 = .ok t) : exec .faultRecordPost s = .next (
      if (s.context ctx).frtail = (s.context ctx).frhead then
        { t.faultPosted ctx f (s.context ctx).frtail with irqs := (s.context ctx).fvec :: t.irqs }
      else t.faultPosted ctx f (s.context ctx).frtail) := by
  have hexec : exec .faultRecordPost s = .next ((s.postFault ctx).getD s) := event1_run State.postFault hocc
  have hpost : s.postFault ctx = some (if (s.context ctx).frtail = (s.context ctx).frhead then
        { t.faultPosted ctx f (s.context ctx).frtail with irqs := (s.context ctx).fvec :: t.irqs }
      else t.faultPosted ctx f (s.context ctx).frtail) := by
    simp only [State.postFault, hf, if_neg (not_or.2 ⟨hlog, hroom⟩), hw, Except.map, State.structEvent]
    rfl
  rw [hexec, hpost, Option.getD_some]

end Sys2Proof.Machine
end

section open Sys2Proof Machine

/-- Settles O49: each commit by `sysEvent` and the branch of `sysWrite` that its selector takes; the rings by their one write. -/
theorem systemEventsComplete : Obligations.SystemEventsComplete := by
  unfold Obligations.SystemEventsComplete
  refine ⟨?_, ?_, ?_, ?_, ?_, ?_, ?_, ?_⟩
  · intro q hq s n pi p e v x hocc he hp hs hg hw hrun hfirst hcreate hdestroy
    have hexec := exec_commit hocc q hq
    have hpick : commitPick q.1 q.2.1 q.2.2 v x = true := by
      unfold commitPick
      simp only [List.mem_cons, List.not_mem_nil, or_false] at hq
      rcases hq with rfl | rfl | rfl | rfl | rfl | rfl | rfl | rfl | rfl | rfl <;>
        simp_all only [isWord, beq_self_eq_true, Bool.and_self, Bool.not_false, forall_const]
    have hg2 : Sel.group v ≠ 2 := by
      rw [hg]
      simp only [List.mem_cons, List.not_mem_nil, or_false] at hq
      rcases hq with rfl | rfl | rfl | rfl | rfl | rfl | rfl | rfl | rfl | rfl <;> decide
    rw [sysEvent_eq he hp hs hpick hrun hfirst] at hexec
    refine ⟨fun href => ?_, fun href => ?_⟩
    · rw [hexec, if_neg (by rw [href]; exact Bool.false_ne_true), if_neg hg2, Option.getD_some]
    · rw [hexec, if_pos href, Option.getD_some, refuseQ_eq he]
  · intro s n
    refine ⟨fun h => if_neg (by rw [h]; exact Bool.false_ne_true), fun h => ?_⟩
    obtain ⟨d, hd, hen, hst, -⟩ := stopEngine_spec s n
    exact ⟨d, by rw [State.atBoundary, if_pos h]; exact hd, hen, hst⟩
  · intro s n pi p e v x i old d same t hocc he hp hpi hs hg hw hi hrun hfirst hbusy href
    have hexec := domainCommit_runs hocc he hp hpi hs hg hw hi hrun hfirst hbusy href
    obtain ⟨r, hr, hd⟩ := domainCommit_part (pi := pi) (x := x) he hg hpi hi
    refine ⟨fun hsame => ?_, fun hsame => ?_⟩
    · have hnot : (p.domainCommit (Sel.index v) (s.staged p e v x)).busy = false := by
        rw [Partition.domainCommit, committed_same hsame]
        exact hbusy
      rw [hexec, hnot, if_neg Bool.false_ne_true]
    · have hsw : p.domainCommit (Sel.index v) (s.staged p e v x) = old.switched d := committed_switch hsame
      refine ⟨?_, r, hr, hd.trans hsw⟩
      rw [hexec, hsw]
      rfl
  · intro s n pi p e v x he c m r k
    refine ⟨fun hg => ?_, sysWrite_part he, fun hg hw hx hv => ?_, fun hg hw hx hv => ?_, fun hg hw => ?_, fun hg hw => ?_, fun hg hw => ?_,
      fun hg hw => ?_, fun hg hw => ?_⟩
    · simp only [k, sysWrite_range he hg, unstage_context, c, context_modCtx, r]
    · simp only [k, sysWrite_create hg hw hx hv]
      exact Assoc.get_put_self _ _ _ _
    · simp only [k, sysWrite_destroy hg hw hx hv]
      exact ⟨Assoc.get_put_self _ _ _ _, fun core => destroyCtx_core s (sel_ctx_lt v) core⟩
    · simp only [k, sysWrite_faultRing hg hw, c, context_modCtx]
      exact ⟨by simp [bits, m], rfl, rfl⟩
    · simp only [k, sysWrite_faultHead hg hw, c, context_modCtx]
      rfl
    · simp only [k, sysWrite_trapRing hg hw, c, context_modCtx]
      exact ⟨by simp [bits, m], rfl, rfl⟩
    · simp only [k, sysWrite_trapHead hg hw, c, context_modCtx]
      rfl
    · simp only [k, sysWrite_saveArea hg hw, c, context_modCtx]
      exact ⟨by simp [bits, m], rfl⟩
  · intro s pi i p moved d q r1 r2 r3 hocc hp hbusy
    exact ⟨switchComplete_waits hocc hp hbusy, fun h1 h2 => switchComplete_ends hocc hp hbusy h1 h2⟩
  · intro s t ctx r rest c z hocc ht hlog hroom hw
    exact postTrap_writes hocc ht hlog hroom hw
  · intro s t ctx f c todo recs z hocc hf hlog hroom hw
    exact postFault_writes hocc hf hlog hroom hw
  · intro s ctx lo hi w r rest c hocc ht hlog hroom hw
    exact postTrap_held hocc ht hlog hroom hw

end

section
/-! SUPPORT. A walk whose leaf is of another class than the request's space, so that its request fails and keeps the leaf. -/

namespace Sys2Proof.Machine

/-- Memory whose page table has its root at 0 and maps the first gigabyte by one leaf of host memory, 65. -/
def hostLeafMemory : State := { launchState with mem := Memory.writeN (Memory.writeN State.reset.mem 0 256 8) 256 65 8 }

/-- A load of space 0 at IA 0 that a slice has handed to its walk unit. -/
def walkingLoad : Req :=
  { owner := .eng 0, ctx := 0, core := 0, sgen := 0, space := 0, handle := 0, order := 0, cache := 0, loc := 0, size := 8, ia := 0,
    host := false, peer := false, ptag := none, kind := .load, cls := 0, attr := none, gen := 0, iaddr := 0, lane := 0, rst := false,
    tagen := false, issue := 0, landing := .none, pusher := [], phase := .walking }

/-- That request, numbered 0, in that state. -/
def walkingState : State := { hostLeafMemory with reqs := [(0, walkingLoad)], occ := .num 0 }

/-- The leaf that request 0 has kept after an event. -/
def keptLeaf (o : Host.Outcome State Fault Refusal) : Option Nat :=
  match o with
  | .next t => (t.reqs.find 0).map (·.leaf)
  | _ => none

/-- Whether a request has failed at its memory side. -/
def Served.isFail : Served → Bool
  | .fail _ => true
  | _ => false

theorem Served.exists_of_isFail {x : Served} (h : x.isFail = true) : ∃ t, x = .fail t := by
  cases x with
  | fail t => exact ⟨t, rfl⟩
  | _ => cases h

theorem walkingState_walk {gen ia : Nat} (hgen : gen = 0) (hia : ia = 0) : walkingState.walk (launchPart.under gen ia) ia = .leaf 65 30 := by
  subst hgen hia
  decide +kernel

/-- The walk unit notes the leaf it has found in the request. -/
theorem walkRequest_keeps_leaf : keptLeaf (exec .walkRequest walkingState) = some 65 := by decide +kernel

theorem walkingLoad_fails :
    (walkingState.serve 0 (launchPart.under 0 0) (.leaf 65 30)
      { walkingLoad with attr := some (attrOf 0 65), page := 30 }).isFail = true := by decide +kernel

end Sys2Proof.Machine
end

section open Sys2Proof Machine

/-- Refutes O50: its fourth part says that a request whose walk has found a leaf takes on the order and page of the leaf and is otherwise
as before, but it keeps the leaf too (R151). The load above fails under the leaf 65, which it then holds in place of 0. -/
theorem not_requestEventsComplete : ¬ Obligations.RequestEventsComplete := by
  unfold Obligations.RequestEventsComplete
  rintro ⟨-, -, -, hwalk, -⟩
  obtain ⟨hfail, -⟩ := hwalk walkingState 0 0 walkingLoad launchPart rfl (by decide +kernel) false (.inl ⟨rfl, rfl, rfl⟩)
  obtain ⟨t, ht⟩ := Served.exists_of_isFail walkingLoad_fails
  have hleaf := hfail t
  simp only [Bool.false_eq_true, ↓reduceIte, walkingState_walk (gen := walkingLoad.gen) (ia := walkingLoad.ia) rfl rfl] at hleaf
  have hkept := congrArg keptLeaf (hleaf ht)
  rw [walkRequest_keeps_leaf] at hkept
  have hzero : some 65 = some 0 := hkept.trans rfl
  exact absurd hzero (by decide)

end

section
/-! SUPPORT. What a request of another device meets here, and what the fabric does with a packet for another device. -/

namespace Sys2Proof.Machine

variable {s : State} {p : Packet} {t : Transit} {pi fctx n dev ia dl l : Nat} {part : Partition} {r : Req}

/-- What becomes of an admitted request that is no publish, by what its memory side says (R256, R257). -/
def State.remoteServed (s : State) (p : Packet) (pi fctx : Nat) : Served → State
  | .ok v po t => t.answer p (.ok v po)
  | .fail t => s.answer p (failReply t t.loc.toNat)
  | .park page cause sz =>
    let t := if s.countedHere p page then s else s.noteFault fctx page cause (sizeCode sz) (remoteWrites p.kind)
    ({ t with inbound := s.inbound ++ [⟨p, pi, fctx, some page⟩] } : State).notice p
  | .peer _ _ _ => s.answer p (failReply (prot 4) p.ia)
  | .busy | .snoop => { s with inbound := s.inbound ++ [⟨p, pi, fctx, none⟩] }

theorem serveRemote_unnumbered (hfid : s.mgmt.fidSet = false) (again : Bool) :
    s.serveRemote p again = s.answer p (.fail 0x50 4 p.ia) := by
  rw [State.serveRemote, hfid]
  rfl

theorem serveRemote_refused (hfid : s.mgmt.fidSet = true) (hadm : s.admitAll p = none) (again : Bool) :
    s.serveRemote p again = s.answer p (.fail 0x50 3 p.ia) := by
  rw [State.serveRemote, hfid, hadm]
  rfl

theorem serveRemote_pair (hfid : s.mgmt.fidSet = true) (hadm : s.admitAll p = some (pi, part, fctx)) {a t d}
    (hkind : p.kind = .pair a t d) (again : Bool) :
    s.serveRemote p again = { s with inbound := s.inbound ++ [⟨p, pi, fctx, none⟩] } := by
  rw [State.serveRemote, hfid, hadm, hkind]
  rfl

theorem serveRemote_admitted (hfid : s.mgmt.fidSet = true) (hadm : s.admitAll p = some (pi, part, fctx))
    (hkind : ∀ a t d, p.kind ≠ .pair a t d) :
    s.serveRemote p false = s.remoteServed p pi fctx (s.serve pi part (s.walk part p.ia) (reqOfPacket p fctx)) := by
  have hserve : s.serveRemote p false =
      match s.serve pi part (s.walk part p.ia) (reqOfPacket p fctx) with
      | .ok v po t => t.answer p (.ok v po)
      | .fail t => s.answer p (failReply t t.loc.toNat)
      | .park page cause sz =>
        let t := if s.countedHere p page then s else s.noteFault fctx page cause (sizeCode sz) (remoteWrites p.kind)
        let t := { t with inbound := s.inbound ++ [⟨p, pi, fctx, some page⟩] }
        if false then t else t.notice p
      | .peer _ _ _ => s.answer p (failReply (prot 4) p.ia)
      | .busy | .snoop => { s with inbound := s.inbound ++ [⟨p, pi, fctx, none⟩] } := by
    rw [State.serveRemote, hfid, hadm]
    cases hk : p.kind with
    | pair a t d => exact absurd hk (hkind a t d)
    | load => rfl
    | store v po => rfl
    | atomic op w v c => rfl
  rw [hserve]
  cases s.serve pi part (s.walk part p.ia) (reqOfPacket p fctx) <;> rfl

/-- The endpoint takes in loads and stores, the fabric every request. -/
theorem exec_arrival {i : Instr} (hi : i ∈ [Instr.remoteRequestArrival, .scaleOutRma]) (hocc : s.occ = .packet p)
    (hkind : i = .scaleOutRma → p.kind = .load ∨ ∃ v po, p.kind = .store v po) : exec i s = .next (s.serveRemote p false) := by
  simp only [List.mem_cons, List.not_mem_nil, or_false] at hi
  rcases hi with rfl | rfl
  · show execRemoteRequestArrival s = _
    rw [execRemoteRequestArrival, event_run]
    simp only [hocc, Option.getD_some]
  · show execScaleOutRma s = _
    rw [execScaleOutRma, event_run]
    rcases hkind rfl with hk | ⟨v, po, hk⟩ <;> simp only [hocc, hk, Option.getD_some]

/-- Every window of an admitted packet is exported, by the partition that admits the packet. -/
theorem admitOf_of_admitAll {q : Nat × Partition × Nat} (h : s.admitAll p = some q) :
    ∀ w ∈ packetWindows p, ∃ y, s.admitOf w = some y ∧ y.1 = q.1 := by
  intro w hw
  rw [State.admitAll] at h
  have hmem : s.admitOf w ∈ (packetWindows p).map s.admitOf := List.mem_map_of_mem hw
  revert h hmem
  cases (packetWindows p).map s.admitOf with
  | nil => intro h; cases h
  | cons x rest =>
    cases x with
    | none => intro h; cases h
    | some z =>
      dsimp only
      intro h hmem
      split at h
      next hall =>
        obtain rfl := Option.some.inj h
        rcases List.mem_cons.1 hmem with hz | hrest
        · exact ⟨z, hz, rfl⟩
        · have hsame := List.all_eq_true.1 hall _ hrest
          cases hy : s.admitOf w with
          | none => rw [hy] at hsame; cases hsame
          | some y =>
            rw [hy] at hsame
            exact ⟨y, rfl, by simpa using hsame⟩
      next => cases h

theorem remoteWrites_of_ne_load {k : RemoteKind} (h : k ≠ .load) : remoteWrites k = true := by
  cases k with
  | load => exact absurd rfl h
  | store d po => rfl
  | atomic op w v c => rfl
  | pair a t d => rfl

/-- A request is admitted by a valid export of the partition to its device, over its bytes (R367). -/
theorem export_of_admitOf (h : s.admitOf p = some (pi, part, fctx)) :
    ∃ e ∈ part.exports, Export.v e = true ∧ Export.rdev e = p.src ∧ Export.iabase e ≤ p.ia ∧ p.ia + p.size ≤ Export.iaend e ∧
      (p.kind ≠ .load → Export.wr e = true) ∧ fctx = Export.fctx e := by
  obtain ⟨q, -, hq⟩ := List.exists_of_findSome?_eq_some h
  obtain ⟨e, he, hx⟩ := Option.map_eq_some_iff.1 hq
  obtain ⟨-, rfl, rfl⟩ : q.1 = pi ∧ q.2 = part ∧ Export.fctx e = fctx := by simpa only [Prod.mk.injEq] using hx
  have hadm := List.find?_some he
  simp only [Export.admits, Bool.and_eq_true, beq_iff_eq, decide_eq_true_eq, Bool.or_eq_true, Bool.not_eq_true'] at hadm
  obtain ⟨⟨⟨hv, hdev⟩, hbase, hend⟩, hwr⟩ := hadm
  refine ⟨e, List.mem_of_find?_eq_some he, hv, hdev, hbase, hend, fun hk => ?_, rfl⟩
  exact hwr.resolve_left (by rw [remoteWrites_of_ne_load hk]; exact Bool.noConfusion)

theorem exec_parkNotice (hocc : s.occ = .num n) (hr : s.reqs.find n = some r) (hph : r.phase = .remote dev ia dl l) :
    exec .parkNotice s = .next { s with reqs := s.reqs.put n { r with phase := .remoteParked dev ia l } } := by
  show execParkNotice s = _
  rw [execParkNotice, event1_run _ hocc]
  simp only [hr, Option.bind_some, hph, Option.getD_some]

/-- What a reply leaves in the L2: what a load brought (R258). -/
def State.keptReply (s : State) (r : Req) (res : RemoteResult) : State :=
  match res, r.kind with
  | .ok d po, .load => s.keepPeer r d po
  | _, _ => s

/-- A reply reaches a request that still waits for one (R261). -/
theorem exec_remoteReply {res : RemoteResult} (hocc : s.occ = .remote n res) (hr : s.reqs.find n = some r)
    (hph : (∃ a b c d, r.phase = .remote a b c d) ∨ ∃ a b c, r.phase = .remoteParked a b c) :
    exec .remoteReply s =
      .next { s.keptReply r res with reqs := (s.keptReply r res).reqs.put n { r with phase := s.answered n r res } } := by
  show execRemoteReply s = _
  rw [execRemoteReply, event_run]
  rcases hph with ⟨a, b, c, d, hph⟩ | ⟨a, b, c, hph⟩ <;> simp only [hocc, hr, Option.bind_some, hph, Option.getD_some] <;> rfl

theorem exec_remoteReply_fail {code sub : BitVec 8} {loc : Nat} (hocc : s.occ = .remote n (.fail code sub loc))
    (hr : s.reqs.find n = some r) (hph : (∃ a b c d, r.phase = .remote a b c d) ∨ ∃ a b c, r.phase = .remoteParked a b c) :
    let f : TrapInfo := { code, sub, handle := BitVec.ofNat 8 r.handle, loc := BitVec.ofNat 64 loc, lane := r.laneNo }
    exec .remoteReply s = .next { s with reqs := s.reqs.put n { r with phase := .failed f } } :=
  exec_remoteReply hocc hr hph

theorem exec_remoteReply_ok {d : Nat} {po : Bool} (hocc : s.occ = .remote n (.ok d po)) (hr : s.reqs.find n = some r)
    (hph : (∃ a b c d, r.phase = .remote a b c d) ∨ ∃ a b c, r.phase = .remoteParked a b c) :
    let v := if r.loads && !r.writes then s.forward n r (d, po) else (d, po)
    let z := if r.kind = .load then s.keepPeer r d po else s
    exec .remoteReply s = .next { z with reqs := z.reqs.put n { r with phase := .done v.1 v.2 } } := by
  have hkeep : s.keptReply r (.ok d po) = if r.kind = .load then s.keepPeer r d po else s := by
    cases hk : r.kind <;> simp only [State.keptReply, hk, reduceCtorEq, ↓reduceIte]
  have hans : s.answered n r (.ok d po) = (let v := if r.loads && !r.writes then s.forward n r (d, po) else (d, po); .done v.1 v.2) := by
    rw [State.answered]
    split <;> rfl
  intro v z
  rw [exec_remoteReply hocc hr hph, hans, hkeep]

/-! ### A packet for another device -/

theorem isSelf_unnumbered (hfid : s.mgmt.fidSet = false) (d : Nat) : s.isSelf d = false := by rw [State.isSelf, hfid, Bool.false_and]

theorem forward_unnumbered (hocc : s.occ = .packet p) (hfid : s.mgmt.fidSet = false) :
    exec .fabricPacketForward s = .next (s.replyTo p.src p.ia p.thread (.reply p.src p.rid (.fail 0x50 4 p.ia))) := by
  show execFabricPacketForward s = _
  rw [execFabricPacketForward, event_run]
  simp only [hocc, hfid, isSelf_unnumbered hfid, Bool.false_eq_true, ↓reduceIte, Bool.not_false, Option.getD_some]
  rfl

theorem forward_link (hocc : s.occ = .packet p) (hfid : s.mgmt.fidSet = true) (hself : s.isSelf p.dst = false)
    (hl : s.route p = .link l) : exec .fabricPacketForward s = .next (s.sendLink l clsRequest p.hop (.request p)) := by
  show execFabricPacketForward s = _
  rw [execFabricPacketForward, event_run]
  simp only [hocc, hfid, hself, hl, Bool.false_eq_true, ↓reduceIte, Bool.not_true, Option.getD_some]

theorem forward_routeless (hocc : s.occ = .packet p) (hfid : s.mgmt.fidSet = true) (hself : s.isSelf p.dst = false)
    (hl : s.route p = .none) :
    exec .fabricPacketForward s = .next (s.replyTo p.src p.ia p.thread (.reply p.src p.rid (.fail 0x50 1 p.ia))) := by
  show execFabricPacketForward s = _
  rw [execFabricPacketForward, event_run]
  simp only [hocc, hfid, hself, hl, Bool.false_eq_true, ↓reduceIte, Bool.not_true, Option.getD_some]
  rfl

theorem transit_unready (hocc : s.occ = .transit t) (hfid : s.mgmt.fidSet = false) (hk : t.kind = .message) :
    exec .fabricPacketForward s = .next (s.replyTo t.src t.ia t.thread (.unready t.src t.body)) := by
  show execFabricPacketForward s = _
  rw [execFabricPacketForward, event_run]
  simp only [hocc, hfid, hk, isSelf_unnumbered hfid, Bool.false_eq_true, ↓reduceIte, Bool.not_false, beq_self_eq_true, Bool.and_self,
    Option.getD_some]

/-- Only a message of a device without a fabric id goes no further. -/
theorem transit_ready (h : s.mgmt.fidSet = true ∨ t.kind = .answer) : (!s.mgmt.fidSet && t.kind == .message) = false := by
  rcases h with h | h <;> rw [h]
  · rfl
  · exact Bool.and_false _

theorem transit_link (hocc : s.occ = .transit t) (hself : s.isSelf t.dst = false) (hready : s.mgmt.fidSet = true ∨ t.kind = .answer)
    (hl : s.route (transitPacket t) = .link l) :
    exec .fabricPacketForward s = .next (s.sendLink l (if t.kind = .answer then clsReply else clsRequest) t.hop (.passing t)) := by
  show execFabricPacketForward s = _
  rw [execFabricPacketForward, event_run]
  simp only [hocc, hself, transit_ready hready, hl, Bool.false_eq_true, ↓reduceIte]
  cases t.kind <;> rfl

theorem transit_routeless (hocc : s.occ = .transit t) (hself : s.isSelf t.dst = false)
    (hready : s.mgmt.fidSet = true ∨ t.kind = .answer) (hl : s.route (transitPacket t) = .none) :
    exec .fabricPacketForward s = .next (if t.kind = .answer then s.replyTo t.dst t.ia t.thread (.noRoute t.dst t.body)
      else s.replyTo t.src t.ia t.thread (.noRoute t.src t.body)) := by
  show execFabricPacketForward s = _
  rw [execFabricPacketForward, event_run]
  simp only [hocc, hself, transit_ready hready, hl, Bool.false_eq_true, ↓reduceIte]
  cases t.kind <;> rfl

end Sys2Proof.Machine
end

section open Sys2Proof Machine

/-- Settles O51: a request meets the checks of R256 in their order; an answer and a notice reach the request they name, and a packet in
transit takes its route. -/
theorem fabricEventsComplete : Obligations.FabricEventsComplete := by
  unfold Obligations.FabricEventsComplete
  refine ⟨?_, fun s p q h => admitOf_of_admitAll h, fun s p pi fctx part h => export_of_admitOf h,
    fun s n dev ia dl l r hocc hr hph => exec_parkNotice hocc hr hph,
    fun s n loc code sub r hocc hr hph => exec_remoteReply_fail hocc hr hph,
    fun s n d po r hocc hr hph => exec_remoteReply_ok hocc hr hph, fun s p hocc hfid _ => forward_unnumbered hocc hfid,
    fun s p hocc hfid hself => ⟨fun l hl => forward_link hocc hfid hself hl, fun hl => forward_routeless hocc hfid hself hl⟩,
    fun s t hocc hfid hk => transit_unready hocc hfid hk,
    fun s t hocc hself hready => ⟨fun l hl => transit_link hocc hself hready hl, fun hl => transit_routeless hocc hself hready hl⟩⟩
  intro i hi s p hocc hkind
  rw [exec_arrival hi hocc hkind]
  refine ⟨fun hfid => by rw [serveRemote_unnumbered hfid], fun hfid hadm => by rw [serveRemote_refused hfid hadm], ?_⟩
  intro pi part fctx hfid hadm
  refine ⟨fun a t d hk => by rw [serveRemote_pair hfid hadm hk], fun hk => ?_⟩
  rw [serveRemote_admitted hfid hadm hk]
  refine ⟨fun v po t h => by rw [h]; rfl, fun t h => by rw [h]; rfl, fun h => ?_, fun page cause sz h => by rw [h]; rfl⟩
  simp only [List.mem_cons, List.not_mem_nil, or_false] at h
  rcases h with h | h <;> rw [h] <;> rfl

end

section
/-! SUPPORT. A team that has ended while operations of its matrix engine, saved with it, have not been granted an engine again. -/

namespace Sys2Proof.Machine

/-- A team of core 0 whose threads have all exited, in a slot whose bind record stands in state 5. -/
def exitedTeam : Team :=
  { gid := 0, ctx := 0, cohort := 0, tix := 0, team := 0, core := 0, pair := false, placed := true, started := true, slot := 0,
    spbase := 0, strips := 0, qmem := [], peng := [] }

/-- An operation of that team in its engine's queue. -/
def savedOperation : MatOp := { id := 0, team := 0, tid := 0, insn := ⟨.mzero, .w64, 0, false, 0, .none, .none, .none, .none, 0, 0⟩, va := 0, vb := 0, vc := 0, landing := .none }

/-- The team in a running context. Its engine's operations are saved, and no engine takes them up. -/
def savedOpsState : State :=
  { State.reset with occ := .num 0, teams := [(0, exitedTeam)], ctxs := [(0, { cstate := 1 })], slots := [(0, 5)],
                     cores := [(savedCore 0 0, { saved := some [savedOperation] })] }

/-- Whether a team still has its place after an event. -/
def stillPlaced (o : Host.Outcome State Fault Refusal) (tm : Nat) : Option Bool :=
  match o with
  | .next t => (t.teams.find tm).map (·.placed)
  | _ => none

/-- Its slot waits for the saved operations. -/
theorem slotFree_waits_opsSaved : stillPlaced (exec .slotFree savedOpsState) 0 = some true := by decide +kernel

end Sys2Proof.Machine
end

section open Sys2Proof Machine

/-- Refutes O52: its ninth part frees an ended team's slot once its pool is back, its engines are released and no store is buffered, but the
slot also waits while operations of the team stand saved. In the state above they do, and everything else is over. -/
theorem not_placementComplete : ¬ Obligations.PlacementComplete := by
  unfold Obligations.PlacementComplete
  rintro ⟨-, -, -, -, -, -, -, -, hslot, -⟩
  obtain ⟨-, hfree, -⟩ := hslot savedOpsState 0 exitedTeam rfl rfl rfl rfl (by decide +kernel) (by decide +kernel)
  have hgone := congrArg (fun o => stillPlaced o 0) (hfree (by decide +kernel) ⟨by decide +kernel, by decide +kernel, by decide +kernel⟩)
  have hplaced : some true = some false := slotFree_waits_opsSaved.symm.trans (hgone.trans rfl)
  exact absurd hplaced (by decide)

end

section
/-! SUPPORT. What the events of the clock do once their time has come, and what a clock counts. -/

namespace Sys2Proof.Machine

/-! ### Events about two numbers, and about a unit -/

theorem event2_run (f : State → Nat → Nat → Option State) {s : State} {m n : Nat} (hocc : s.occ = .num2 m n) :
    event2 f s = .next ((f s m n).getD s) := by
  rw [event2, event_run]
  simp only [hocc]

theorem eventU_run (f : State → Agent → Option State) {s : State} {u : Agent} (hocc : s.occ = .unit u) :
    eventU f s = .next ((f s u).getD s) := by
  rw [eventU, event_run]
  simp only [hocc]

/-- A choice whose condition does not hold leaves the state. -/
theorem getD_of_not {s t : State} {p : Prop} [Decidable p] (h : ¬p) : (if p then some t else none).getD s = s := by
  rw [if_neg h]
  rfl

theorem getD_of {s t : State} {p : Prop} [Decidable p] (h : p) : (if p then some t else none).getD s = t := by
  rw [if_pos h]
  rfl

section
variable {s : State} {tm sp id key n : Nat} {t : Team} {x : Strip} {u : Agent} {c : Ctl}

/-! ### Stalls -/

theorem exec_stripRegisterFree {r : SReg} (hocc : s.occ = .num3 tm sp id) (hx : s.strips.find (stripKey tm sp) = some x)
    (hr : r ∈ x.regs) (hid : r.id = id) (hlive : r.live = 0) (hpend : r.pend = 0) :
    exec .stripRegisterFree s = .next (s.modStrip tm sp (fun t => { t with regs := t.regs.filter (fun r => r.id != id) })) := by
  have hany : x.regs.any (fun r => r.id == id && r.live == 0 && r.pend == 0) = true :=
    List.any_eq_true.2 ⟨r, hr, by rw [hid, hlive, hpend, beq_self_eq_true]; rfl⟩
  show execStripRegisterFree s = _
  rw [execStripRegisterFree, event_run]
  simp only [hocc, State.registerFree, hx]
  rw [if_pos hany, Option.getD_some]

/-- The threads of a team that wait for the register pool take REGPOOL 0x01. -/
def State.poolTraps (s : State) (tm : Nat) (t : Team) : State :=
  ((List.range (16 * t.strips)).foldl (fun s i => match s.ctl (.ex tm i) with
    | some c => (match c.status with
      | .waiting .pool _ => s.takeTrap (.ex tm i) (tinfo 0x40 1) c.len
      | _ => s)
    | none => s) s).modTeam tm (fun t => { t with poolSince := none })

theorem poolTrap_eq (ht : s.teams.find tm = some t) (hrun : s.running t.ctx = true) (hst : s.poolStalled tm t = true)
    (hn : t.poolSince = some n) : s.poolTrap tm = if n + 256 ≤ s.now then some (s.poolTraps tm t) else none := by
  unfold State.poolTrap State.poolTraps
  simp only [ht, hrun, hst, hn, Option.elim_some, Bool.true_and, decide_eq_true_eq] <;> rfl

theorem exec_regpoolStall (hocc : s.occ = .num tm) (ht : s.teams.find tm = some t) (hrun : s.running t.ctx = true)
    (hst : s.poolStalled tm t = true) (hn : t.poolSince = some n) :
    exec .regpoolStall s = .next ((if n + 256 ≤ s.now then some (s.poolTraps tm t) else none).getD s) := by
  show execRegpoolStall s = _
  rw [execRegpoolStall, event1_run _ hocc, poolTrap_eq ht hrun hst hn]

/-- Every party of a strip takes DECOUPLE, and the strip is no longer blocked. -/
def State.decoupled (s : State) (key : Nat) : State :=
  ((s.parties key).foldl (fun s q => s.decoupleTrap q.1 q.2) s).modStrip (key / 128) (key % 128)
    (fun x => { x with op := none, blocked := none })

theorem exec_decoupleTimeout (hocc : s.occ = .num key) (hx : s.strips.find key = some x) (ht : s.teams.find (key / 128) = some t)
    (hrun : s.running t.ctx = true) (hbl : s.stripBlocked key = true) (hn : x.blocked = some n) :
    exec .decoupleTimeout s = .next ((if n + 2048 ≤ s.now then some (s.decoupled key) else none).getD s) := by
  show execDecoupleTimeout s = _
  rw [execDecoupleTimeout, event1_run _ hocc]
  simp only [State.decouple, hx, ht, hrun, hbl, hn, Option.elim_some, Bool.true_and, decide_eq_true_eq]
  rfl

theorem decoupleTrap_port (hc : s.ctl u = some c) (m : Nat) (b : Bool) :
    s.decoupleTrap u (.waiting (.port n b) m) = s.takeTrap u { tinfo 0x33 1 with port := some n } c.len := by
  rw [State.decoupleTrap, hc]
  rfl

theorem decoupleTrap_stripOp (hc : s.ctl u = some c) (m : Nat) :
    s.decoupleTrap u (.waiting .stripOp m) = s.takeTrap u (tinfo 0x33 1) c.len := by
  cases u <;> simp only [State.decoupleTrap, hc, Option.elim_some]

theorem decoupleTrap_latch {tid m : Nat} {l : Latch} (ht : s.teams.find tm = some t) (hl : t.latch = some l) :
    s.decoupleTrap (.ex tm tid) (.waiting .latch m) =
      s.trapAtLatch tm tid l.insn { tinfo 0x33 1 with port := (s.latchRows tm t tid).head?.map (fun q => q.1 % 16) } := by
  rw [State.decoupleTrap, ht]
  simp only [Option.bind_some, hl, Option.elim_some]

/-! ### Meetings -/

/-- A held thread goes on past its meeting. -/
def ExThread.released (now : Nat) (x : ExThread) : ExThread :=
  { x with meet := none, ctl := { x.ctl with status := .ready, readySince := now } }

theorem now_foldl_modEx (f : State → ExThread → ExThread) (l : List Nat) :
    ∀ s : State, (l.foldl (fun s j => s.modEx tm j (f s)) s).now = s.now := by
  induction l with
  | nil => exact fun s => rfl
  | cons j l ih => exact fun s => ih _

theorem released_idem (now : Nat) (x : ExThread) : (x.released now).released now = x.released now := rfl

/-- A thread among those released stands released, whatever the order. -/
theorem find_foldl_released {j : Nat} (l : List Nat) : ∀ (s : State) (x : ExThread), s.exs.find (exKey tm j) = some x →
    ((l.foldl (fun s j => s.modEx tm j (ExThread.released s.now)) s).exs.find (exKey tm j)) =
      some (if j ∈ l then x.released s.now else x) := by
  induction l with
  | nil => intro s x hx; rw [if_neg (List.not_mem_nil)]; exact hx
  | cons i l ih =>
    intro s x hx
    rw [List.foldl_cons]
    by_cases hij : exKey tm j = exKey tm i
    · have hji : j = i := Nat.add_left_cancel hij
      have hstep : (s.modEx tm i (ExThread.released s.now)).exs.find (exKey tm j) = some (x.released s.now) := by
        rw [hij] at hx ⊢
        exact Assoc.find_alter_some _ hx
      rw [ih _ _ hstep, if_pos (List.mem_cons.2 (.inl hji))]
      exact congrArg some (ite_eq_right_iff.2 fun _ => rfl)
    · have hji : j ≠ i := fun h => hij (by rw [h])
      have hstep : (s.modEx tm i (ExThread.released s.now)).exs.find (exKey tm j) = some x :=
        (Assoc.find_alter_of_ne _ _ hij).trans hx
      rw [ih _ _ hstep]
      simp only [List.mem_cons, hji, false_or]
      rfl

/-- The threads of a span whose meeting is complete. -/
def State.meetingSpan (s : State) (tm tid : Nat) : List Nat :=
  ((List.range 64).map (fun b => tid / 64 * 64 + b)).filter (s.meetingDone tm)

theorem mem_meetingSpan {tid j : Nat} {x : ExThread} {target : W32} {mask : W64} (hj : j / 64 = tid / 64)
    (hx : s.exs.find (exKey tm j) = some x) (hheld : x.ctl.status = .held) (hmeet : x.meet = some (target, mask))
    (hmiss : s.missingAt tm j target mask = []) : j ∈ s.meetingSpan tm tid := by
  refine List.mem_filter.2 ⟨List.mem_map.2 ⟨j % 64, List.mem_range.2 (Nat.mod_lt _ (by decide)), ?_⟩, ?_⟩
  · rw [← hj]
    exact Nat.div_add_mod' j 64
  · simp only [State.meetingDone, hx, hheld, hmeet, hmiss, List.isEmpty_nil]

theorem exec_meetingRelease {tid j : Nat} {x : ExThread} {target : W32} {mask : W64} (hocc : s.occ = .num2 tm tid)
    (ht : s.teams.find tm = some t) (hrun : s.running t.ctx = true) (hj : j / 64 = tid / 64)
    (hx : s.exs.find (exKey tm j) = some x) (hheld : x.ctl.status = .held) (hmeet : x.meet = some (target, mask))
    (hmiss : s.missingAt tm j target mask = []) :
    ∃ r, exec .meetingRelease s = .next r ∧ r.exs.find (exKey tm j) = some (x.released s.now) := by
  have hmem := mem_meetingSpan hj hx hheld hmeet hmiss
  have hne : (s.meetingSpan tm tid).isEmpty = false := List.isEmpty_eq_false_iff.2 (List.ne_nil_of_mem hmem)
  have hrel : s.meetingRelease tm tid =
      some ((s.meetingSpan tm tid).foldl (fun s j => s.modEx tm j (ExThread.released s.now)) s) := by
    rw [State.meetingRelease, ht]
    show (if (s.meetingSpan tm tid).isEmpty || !(s.running t.ctx) then none else _) = _
    rw [hne, hrun]
    rfl
  have hexec : exec .meetingRelease s =
      .next ((s.meetingSpan tm tid).foldl (fun s j => s.modEx tm j (ExThread.released s.now)) s) := by
    show execMeetingRelease s = _
    rw [execMeetingRelease, event2_run _ hocc, hrel, Option.getD_some]
  exact ⟨_, hexec, by rw [find_foldl_released _ s x hx, if_pos hmem]⟩

/-! ### Sleeps, polled waits and the Kettle -/

theorem exec_sleepExpiry (hocc : s.occ = .unit u) (hc : s.ctl u = some c) (hst : c.status = .sleeping n)
    (hrun : s.running (s.ctxOf u) = true) : exec .sleepExpiry s = .next ((if n ≤ s.now then some (s.wake u) else none).getD s) := by
  show execSleepExpiry s = _
  rw [execSleepExpiry, eventU_run _ hocc]
  simp only [State.sleepEnd, hc, Option.map_some, hst, hrun, and_true]

theorem exec_waitwRepoll {d : Nat} (hocc : s.occ = .unit u) (hc : s.ctl u = some c) (hst : c.status = .waiting (.word d) n)
    (hrun : s.running (s.ctxOf u) = true) : exec .waitwRepoll s = .next (s.wake u) := by
  show execWaitwRepoll s = _
  rw [execWaitwRepoll, eventU_run _ hocc]
  simp only [State.repoll, hc, Option.map_some, hst, hrun, ↓reduceIte, Option.getD_some]

theorem exec_kettleBeatPeriod (hocc : s.occ = .num tm) (ht : s.teams.find tm = some t)
    (hdue : LRec.pers (s.recordOf t) = true ∧ LRec.beat (s.recordOf t) ≠ 0 ∧ LRec.beat (s.recordOf t) ≤ t.active) :
    exec .kettleBeatPeriod s = .next (s.modTeam tm (fun t' => t'.endPeriods (LRec.beat (s.recordOf t)))) := by
  show execKettleBeatPeriod s = _
  rw [execKettleBeatPeriod, event1_run _ hocc]
  simp only [State.beatPeriod, ht]
  rw [if_pos hdue, Option.getD_some]

theorem exec_kettleIdleLimit (hocc : s.occ = .num tm) (ht : s.teams.find tm = some t)
    (hpers : LRec.pers (s.recordOf t) = false) (hidle : 2 ^ 24 ≤ t.idle) (hhung : t.hung = false) :
    exec .kettleIdleLimit s = .next (s.modTeam tm (fun t => { t with hung := true })) := by
  have hdue : ¬LRec.pers (s.recordOf t) = true ∧ 2 ^ 24 ≤ t.idle ∧ ¬t.hung = true :=
    ⟨by rw [hpers]; exact Bool.noConfusion, hidle, by rw [hhung]; exact Bool.noConfusion⟩
  show execKettleIdleLimit s = _
  rw [execKettleIdleLimit, event1_run _ hocc]
  simp only [State.idleLimit, ht]
  rw [if_pos hdue, Option.getD_some]

/-! ### A clock -/

/-- What some clocks change of a team. -/
def State.clockTeam (s : State) (n k : Nat) (t : Team) : Team :=
  if !(t.placed && t.started && s.running t.ctx) then t
  else
    let on := s.teamActive k t
    let pers := LRec.pers (s.recordOf t)
    { t with poolSince := stamp (s.poolStalled k t) t.poolSince s.now, active := if on && pers then t.active + n else t.active,
             idle := if on && !pers then t.idle + n else t.idle }

/-- What a clock changes of a strip. -/
def State.clockStrip (s : State) (k : Nat) (x : Strip) : Strip :=
  { x with blocked := if (s.teams.find (k / 128)).elim false (fun t => t.placed && t.started && s.running t.ctx) then
      stamp (s.stripBlocked k) x.blocked s.now else none }

theorem clock_teams (s : State) (n : Nat) : (s.clock n).teams = s.teams.map (fun x => (x.1, s.clockTeam n x.1 x.2)) := by
  refine List.map_congr_left fun x _ => ?_
  unfold State.clockTeam
  split <;> rfl

theorem clock_strips (s : State) (n : Nat) : (s.clock n).strips = s.strips.map (fun x => (x.1, s.clockStrip x.1 x.2)) := by
  refine List.map_congr_left fun x _ => ?_
  unfold State.clockStrip
  split <;> rfl

theorem clockTeam_eq (s : State) (n k : Nat) (t : Team) :
    s.clockTeam n k t = { t with poolSince := (s.clockTeam n k t).poolSince, active := (s.clockTeam n k t).active,
                                 idle := (s.clockTeam n k t).idle } := by
  rw [State.clockTeam]
  split <;> rfl

theorem clock_find_team (h : (s.clock n).teams.find key = some t) :
    ∃ g, s.teams.find key = some g ∧ t = { g with poolSince := t.poolSince, active := t.active, idle := t.idle } := by
  rw [clock_teams, Assoc.find_map (fun k t => s.clockTeam n k t)] at h
  obtain ⟨g, hg, rfl⟩ := Option.map_eq_some_iff.1 h
  exact ⟨g, hg, clockTeam_eq s n key g⟩

theorem clock_find_strip (h : (s.clock n).strips.find key = some x) :
    ∃ g, s.strips.find key = some g ∧ x = { g with blocked := x.blocked } := by
  rw [clock_strips, Assoc.find_map (fun k x => s.clockStrip k x)] at h
  obtain ⟨g, hg, rfl⟩ := Option.map_eq_some_iff.1 h
  exact ⟨g, hg, rfl⟩

/-- Power's counting of a hot die touches one counter. -/
theorem warm_rest (s : State) (n : Nat) :
    { s.warm n with mgmt := s.mgmt } = s ∧ { (s.warm n).mgmt with counters := s.mgmt.counters } = s.mgmt ∧
      (s.mgmt.on = false → (s.warm n).mgmt = s.mgmt) := by
  unfold State.warm
  split
  next hon => exact ⟨rfl, rfl, fun hoff => absurd (hon.symm.trans hoff) (by decide)⟩
  next => exact ⟨rfl, rfl, fun _ => rfl⟩

theorem clock_rest (s : State) (n : Nat) :
    { s.clock n with now := s.now, teams := s.teams, strips := s.strips, mgmt := s.mgmt } = s ∧
      { (s.clock n).mgmt with counters := s.mgmt.counters } = s.mgmt ∧ (s.mgmt.on = false → (s.clock n).mgmt = s.mgmt) := by
  obtain ⟨hrest, hmgmt, hoff⟩ := warm_rest s n
  exact ⟨congrArg (fun t : State => { t with now := s.now, teams := s.teams, strips := s.strips }) hrest, hmgmt, hoff⟩

end

end Sys2Proof.Machine
end

section open Sys2Proof Machine

/-- Settles O53: each event's bound decides it, a meeting releases its whole span, and a clock changes only what is counted in it. -/
theorem clockEventsComplete : Obligations.ClockEventsComplete := by
  unfold Obligations.ClockEventsComplete
  refine ⟨fun s tm sp id t r hocc hx hr hid hlive hpend => exec_stripRegisterFree hocc hx hr hid hlive hpend, ?_, ?_,
    fun s u c n m b hc => ⟨decoupleTrap_port hc m b, decoupleTrap_stripOp hc m⟩,
    fun s tm tid m t l ht hl => decoupleTrap_latch ht hl,
    fun s tm tid j t x target mask hocc ht hrun hj hx hheld hmeet hmiss =>
      exec_meetingRelease hocc ht hrun hj hx hheld hmeet hmiss, ?_,
    fun s u c d n hocc hc hst hrun => exec_waitwRepoll hocc hc hst hrun,
    fun s tm t hocc ht => ⟨fun hpers hp hdue => exec_kettleBeatPeriod hocc ht ⟨hpers, hp, hdue⟩,
      fun hpers hidle hhung => exec_kettleIdleLimit hocc ht hpers hidle hhung⟩, ?_⟩
  · intro s tm n t hocc ht hrun hst hn
    rw [exec_regpoolStall hocc ht hrun hst hn]
    exact ⟨fun h => by rw [getD_of_not (Nat.not_le.2 h)], fun h => by rw [getD_of h]; rfl⟩
  · intro s key n x t hocc hx ht hrun hbl hn
    rw [exec_decoupleTimeout hocc hx ht hrun hbl hn]
    exact ⟨fun h => by rw [getD_of_not (Nat.not_le.2 h)], fun h => by rw [getD_of h]; rfl⟩
  · intro s u c n hocc hc hst hrun
    rw [exec_sleepExpiry hocc hc hst hrun]
    exact ⟨fun h => by rw [getD_of h]; rfl, fun h => by rw [getD_of_not (Nat.not_le.2 h)]⟩
  · intro s n
    obtain ⟨hrest, hmgmt, hoff⟩ := clock_rest s n
    refine ⟨rfl, hrest, hmgmt, hoff, ?_, ?_, fun k t h => clock_find_team h, fun k x h => clock_find_strip h⟩
    · rw [clock_teams, List.map_map]; rfl
    · rw [clock_strips, List.map_map]; rfl

end

section
/-! SUPPORT. A link's receiver and sender, and its training: what each step leaves of the link and of what goes out. -/

namespace Sys2Proof.Machine

section
variable {s : State} {n seq errs depth : Nat} {c : Cargo}

/-! ### Links -/

theorem link_modLink (s : State) (n : Nat) (f : Link → Link) : (s.modLink n f).link n = f (s.link n) := Assoc.get_put_self _ _ _ _

/-- A link that has just been written. -/
theorem link_of_put {t : State} {m : Assoc Link} {l : Link} (h : t.links = m.put n l) : t.link n = l := by
  rw [State.link, h, Assoc.get_put_self]

theorem flush_links (s : State) : s.flush.links = s.links := by
  unfold State.flush
  split <;> rfl

/-- An event about three numbers. -/
theorem event3_run (f : State → Nat → Nat → Nat → Option State) {s : State} {l m n : Nat} (hocc : s.occ = .num3 l m n) :
    event3 f s = .next ((f s l m n).getD s) := by
  rw [event3, event_run]
  simp only [hocc]

theorem eventFlit_run (f : State → Nat → Nat → Nat → Cargo → Option State) (hocc : s.occ = .flit n seq errs c.ch c.row c.occ) :
    eventFlit f s = .next ((f s n seq errs c).getD s) := by
  rw [eventFlit, event_run]
  simp only [hocc]

/-! ### The receiver -/

/-- With nothing behind it, a flit is the last that is taken. -/
theorem takeBehind_nil (h : (s.link n).behind = []) : ∀ k, s.takeBehind n k = s
  | 0 => rfl
  | k + 1 => by
    rw [State.takeBehind, h]
    split
    · rfl
    · rfl

theorem takeBehind_held (h : (s.link n).held ≠ 0) : ∀ k, s.takeBehind n k = s
  | 0 => rfl
  | k + 1 => by rw [State.takeBehind]; exact if_pos h

theorem deliverFlit_link (s : State) (n depth : Nat) (c : Cargo) :
    (s.deliverFlit n depth c).link n =
      { s.link n with expect := (s.link n).expect + 1, held := 0, holding := none, replays := 0, inq := (s.link n).inq ++ [c],
                      depths := (s.link n).depths.modify (if (s.link n).replays = 0 then depth else 3) (· + 1) } :=
  link_of_put rfl

theorem deliverFlit_inTurn (hb : (s.link n).behind = []) (depth : Nat) (c : Cargo) :
    (s.deliverFlit n depth c).inTurn n = (s.deliverFlit n depth c).arrivals n := by
  have hlast : ((s.deliverFlit n depth c).link n).behind = [] := by rw [deliverFlit_link]; exact hb
  rw [State.inTurn, takeBehind_nil hlast]

/-- The flit in turn held, with further check symbols asked for. -/
def State.heldFlit (s : State) (n : Nat) (c : Cargo) : State := (s.askParity n 1).modLink n (fun l => { l with holding := some c })

theorem heldFlit_inTurn (s : State) (n : Nat) (c : Cargo) : (s.heldFlit n c).inTurn n = (s.heldFlit n c).arrivals n := by
  have hheld : ((s.heldFlit n c).link n).held = 1 := by
    rw [State.heldFlit, link_modLink]
    exact congrArg Link.held (link_of_put (t := s.askParity n 1) rfl)
  rw [State.inTurn, takeBehind_held (by rw [hheld]; decide)]

theorem takeFlit_few (hb : (s.link n).behind = []) (he : errs ≤ 4) :
    (s.takeFlit n errs c).inTurn n = (s.deliverFlit n 0 c).arrivals n := by
  rw [State.takeFlit, if_pos he, deliverFlit_inTurn hb]

theorem takeFlit_many (he : 4 < errs) : (s.takeFlit n errs c).inTurn n = (s.heldFlit n c).arrivals n := by
  rw [State.takeFlit, if_neg (Nat.not_le.2 he)]
  exact heldFlit_inTurn s n c

theorem flitReceive_inTurn (hocc : s.occ = .flit n seq errs c.ch c.row c.occ) (hup : (s.link n).up = true) (hok : c.ok = true)
    (hseq : seq = (s.link n).expect) (hheld : (s.link n).held = 0) : exec .flitReceive s = .next ((s.takeFlit n errs c).inTurn n) := by
  show execFlitReceive s = _
  rw [execFlitReceive, eventFlit_run _ hocc]
  simp only [State.flitReceive, hup, hok, Bool.not_true, Bool.or_self, Bool.false_eq_true, ↓reduceIte]
  rw [if_pos ⟨hseq, hheld⟩, Option.getD_some]

theorem flitReceive_behind (hocc : s.occ = .flit n seq errs c.ch c.row c.occ) (hok : c.ok = true) (hup : (s.link n).up = true)
    (hheld : (s.link n).held ≠ 0) (hseq : (s.link n).expect < seq) (hroom : (s.link n).behind.length < 64) :
    exec .flitReceive s = .next (s.modLink n (fun l => { l with behind := l.behind.put seq (errs, c) })) := by
  show execFlitReceive s = _
  rw [execFlitReceive, eventFlit_run _ hocc]
  simp only [State.flitReceive, hup, hok, Bool.not_true, Bool.or_self, Bool.false_eq_true, ↓reduceIte]
  rw [if_neg (fun h => hheld h.2), if_pos ⟨hseq, hheld, .inl hroom⟩, Option.getD_some]

theorem flitReplayArrival_run (hocc : s.occ = .flit n seq errs c.ch c.row c.occ) (hup : (s.link n).up = true) (hok : c.ok = true)
    (hseq : seq = (s.link n).expect) (hheld : (s.link n).held = 3) :
    exec .flitReplayArrival s = .next ((s.takeFlit n errs c).inTurn n) := by
  show execFlitReplayArrival s = _
  rw [execFlitReplayArrival, eventFlit_run _ hocc]
  simp only [State.replayArrival, hup, hok, hheld, ← hseq, beq_self_eq_true, Bool.and_self, ↓reduceIte, Option.getD_some]

/-- What further check symbols bring, by the depth that was asked for (R410). -/
theorem parityArrival_run (hocc : s.occ = .num3 n seq errs) (hup : (s.link n).up = true) (hseq : seq = (s.link n).expect)
    (hc : (s.link n).holding = some c) :
    ((s.link n).held = 1 → exec .parityArrival s =
      .next (if errs ≤ 12 then (s.deliverFlit n 1 c).inTurn n else s.askParity n 2)) ∧
    ((s.link n).held = 2 → exec .parityArrival s =
      .next (if errs ≤ 24 then (s.deliverFlit n 2 c).inTurn n else s.askReplay n)) := by
  have hrun : exec .parityArrival s = .next ((s.parityArrival n seq errs).getD s) := by
    show execParityArrival s = _
    rw [execParityArrival, event3_run _ hocc]
  rw [hrun]
  constructor <;> intro hheld <;>
    simp only [State.parityArrival, hc, hup, hheld, ← hseq, Bool.not_true, bne_self_eq_false, Bool.or_self, Bool.false_eq_true, ↓reduceIte,
      OfNat.ofNat_ne_one, Option.getD_some]

theorem askReplay_link (h : (s.link n).replays < 8) :
    (s.askReplay n).link n =
      { s.link n with held := 3, holding := none, replays := (s.link n).replays + 1, deadline := s.now + 1024 } ∧
    (s.askReplay n).out = .replayAsk n (s.link n).expect :: s.out := by
  rw [State.askReplay, if_neg (Nat.not_le.2 h)]
  exact ⟨link_of_put rfl, rfl⟩

/-- The eighth replay that fails takes the link out of service. -/
theorem askReplay_down (h : 8 ≤ (s.link n).replays) :
    ((s.askReplay n).link n).up = false ∧ ((s.askReplay n).link n).fell = true := by
  have hdown : (s.askReplay n).link n = (s.linkDown n).link n := by rw [State.askReplay, if_pos h]
  rw [hdown, link_of_put (t := s.linkDown n) (flush_links _)]
  exact ⟨rfl, rfl⟩

theorem arrivals_spec (s : State) (n : Nat) :
    (s.arrivals n).agenda = (s.link n).inq.map (fun c => Choice.run c.row c.occ) ++ s.agenda ∧ ((s.arrivals n).link n).inq = [] :=
  ⟨rfl, congrArg Link.inq (link_of_put (t := s.arrivals n) rfl)⟩

theorem exec_flitRecoveryTimeout (hocc : s.occ = .num n) (hup : (s.link n).up = true) (hheld : (s.link n).held ≠ 0) :
    exec .flitRecoveryTimeout s = .next ((if (s.link n).deadline ≤ s.now then some (s.askReplay n) else none).getD s) := by
  show execFlitRecoveryTimeout s = _
  rw [execFlitRecoveryTimeout, event1_run _ hocc]
  simp only [State.flitTimeout, hup, ne_eq, hheld, not_false_eq_true, true_and]

/-! ### The sender -/

theorem kept_iff (l : Link) (seq : Nat) : l.kept seq = true ↔ l.acked ≤ seq ∧ seq < l.next := decide_eq_true_iff

theorem exec_parityRequest (hocc : s.occ = .num3 n seq depth) (hup : (s.link n).up = true) (hd : depth = 1 ∨ depth = 2) :
    exec .parityRequest s = .next ((if (s.link n).kept seq = true then some { s with out := .parity n seq depth :: s.out } else none).getD s) := by
  show execParityRequest s = _
  rw [execParityRequest, event3_run _ hocc]
  rcases hd with rfl | rfl <;> simp only [State.parityRequest, hup, Bool.true_and] <;> cases (s.link n).kept seq <;> rfl

theorem exec_replayRequest (hocc : s.occ = .num2 n seq) (hup : (s.link n).up = true) (hkept : (s.link n).kept seq = true) :
    ∃ t, exec .replayRequest s = .next t ∧ (∀ k o, seq ≤ k → k < (s.link n).next →
      (s.link n).buffer.find k = some o → Outgoing.flit n k o ∈ t.out) ∧ t.links = s.links := by
  have hrun : exec .replayRequest s = .next { s with out := ((List.range ((s.link n).next - seq)).filterMap (fun i =>
      ((s.link n).buffer.find (seq + i)).map (Outgoing.flit n (seq + i)))).reverse ++ s.out } := by
    show execReplayRequest s = _
    rw [execReplayRequest, event2_run _ hocc]
    simp only [State.replayRequest, hup, hkept, Bool.and_self, ↓reduceIte, Option.getD_some]
  refine ⟨_, hrun, fun k o hlo hhi ho => ?_, rfl⟩
  refine List.mem_append_left _ (List.mem_reverse.2 (List.mem_filterMap.2 ⟨k - seq, List.mem_range.2 (by omega), ?_⟩))
  rw [Nat.add_sub_cancel' hlo, ho]
  rfl

theorem exec_flitAck (hocc : s.occ = .num2 n seq) (hup : (s.link n).up = true) (hkept : (s.link n).kept seq = true)
    (hw : (s.link n).waitq = []) :
    exec .flitAck s = .next (s.modLink n (fun l => { l with acked := seq + 1, buffer := l.buffer.filter (fun x => seq < x.1) })) := by
  show execFlitAck s = _
  rw [execFlitAck, event2_run _ hocc]
  simp only [State.flitAck, hup, hkept, hw, Bool.and_self, ↓reduceIte, Option.getD_some, List.length_nil, State.pumpLink]

theorem exec_linkCreditReturn {cls ch : Nat} (hocc : s.occ = .num3 n cls ch) (hcls : cls < 2) (hch : ch < 6)
    (hup : (s.link n).up = true) (hw : (s.link n).waitq = []) :
    exec .linkCreditReturn s = .next ((if (s.link n).covered < (s.link n).acked + 65 then some (s.modLink n (fun l =>
      { l with credits := l.credits.put (cls * 8 + ch) (l.credits.get (cls * 8 + ch) 0 + 1) })) else none).getD s) := by
  show execLinkCreditReturn s = _
  rw [execLinkCreditReturn, event3_run _ hocc]
  simp only [State.creditReturn, hcls, hch, hup, hw, true_and, List.length_nil, State.pumpLink]

theorem sendLink_untold {cls ch : Nat} {o : Outgoing} (hp : (s.link n).peerFid = none) (ho : o.notReady = false) :
    s.sendLink n cls ch o = s.modLink n (fun l => { l with waitq := l.waitq ++ [(cls * 8 + ch, o)] }) := by
  have hcarry : (s.link n).carries o = false := by rw [Link.carries, hp, ho]; rfl
  rw [State.sendLink]
  simp only [hcarry, Bool.and_false, Bool.false_and, Bool.false_eq_true, ↓reduceIte]

/-! ### Training -/

theorem exec_linkTraining {r : LaneResult} (hocc : s.occ = .lanes n r) : exec .linkTraining s = .next ((s.linkTraining n r).getD s) := by
  show execLinkTraining s = _
  rw [execLinkTraining, event_run]
  simp only [hocc]

/-- A link as its training leaves it in service. -/
def Link.trained (l : Link) (r : LaneResult) (now : Nat) : Link :=
  { l with up := true, training := false, wide := if r.low && r.high then 8 else 4, reversed := r.reversed, fell := false,
           failed := false, trainAt := now, peerFid := none, next := 0, acked := 0, buffer := [], credits := [], waitq := [],
           expect := 0, held := 0, holding := none, behind := [], inq := [], replays := 0 }

/-- A link trained, with its lanes kept and its trainings counted. -/
def State.trainedLink (s : State) (n : Nat) (r : LaneResult) : State :=
  ((s.modLink n (fun l => l.trained r s.now)).count (ctrTraining n (s.mgmt.counters.get (ctrLink n 6) 0)) (laneCode r)).count (ctrLink n 6) 1

theorem linkTraining_up {r : LaneResult} (hmask : bit s.mgmt.linkMask n = true) (hup : (s.link n).up = false)
    (hdis : (s.link n).disabled = false) (htr : (s.link n).training = true) (hr : r.low = true ∨ r.high = true) :
    s.linkTraining n r = some ((s.trainedLink n r).tellFid n) := by
  have hany : (r.low || r.high) = true := Bool.or_eq_true_iff.2 hr
  simp only [State.linkTraining, hmask, hup, hdis, htr, hany, Bool.not_true, Bool.or_self, Bool.false_eq_true, ↓reduceIte]
  rfl

theorem linkTraining_down {r : LaneResult} (hmask : bit s.mgmt.linkMask n = true) (hup : (s.link n).up = false)
    (hdis : (s.link n).disabled = false) (htr : (s.link n).training = true) (hlow : r.low = false) (hhigh : r.high = false) :
    s.linkTraining n r = some (s.modLink n (fun l => { l with training := false, failed := true, trainAt := s.now })) := by
  simp only [State.linkTraining, hmask, hup, hdis, htr, hlow, hhigh, Bool.not_true, Bool.or_self, Bool.false_eq_true, ↓reduceIte]

theorem tellFid_eq (s : State) (n : Nat) :
    s.tellFid n = { s with out := if s.mgmt.fidSet then .fid n s.mgmt.fid :: s.out else s.out } := by
  unfold State.tellFid
  split <;> rfl

/-- What a training leaves: the link, the counters, and the fid on its way to the partner (R419, R412). -/
theorem trainedLink_spec (s : State) (n : Nat) (r : LaneResult) :
    let t := (s.trainedLink n r).tellFid n
    (t.link n).up = true ∧ (t.link n).wide = (if r.low ∧ r.high then 8 else 4) ∧ (t.link n).reversed = r.reversed ∧
      (t.link n).peerFid = none ∧
      t.mgmt.counters =
        ((s.count (ctrTraining n (s.mgmt.counters.get (ctrLink n 6) 0)) (laneCode r)).count (ctrLink n 6) 1).mgmt.counters ∧
      (s.mgmt.fidSet = true → t.out = .fid n s.mgmt.fid :: s.out) ∧ (s.mgmt.fidSet = false → t.out = s.out) := by
  intro t
  have hlink : t.link n = (s.link n).trained r s.now := by
    rw [show t = _ from tellFid_eq _ n]
    exact link_of_put rfl
  rw [hlink, show t = _ from tellFid_eq _ n]
  refine ⟨rfl, ?_, rfl, rfl, rfl, fun h => if_pos h, fun h => if_neg (by rw [show (s.trainedLink n r).mgmt.fidSet = false from h]; decide)⟩
  simp only [Link.trained, Bool.and_eq_true]

theorem laneCode_bits (r : LaneResult) :
    laneCode r % 16 = (if r.low ∧ r.high then 8 else 4) ∧ bit (laneCode r) 4 = r.low ∧ bit (laneCode r) 5 = r.high ∧
      bit (laneCode r) 6 = r.reversed := by
  obtain ⟨low, high, reversed⟩ := r
  revert low high reversed
  decide

/-- Trainings of a link by itself within the last ten minutes (R419). -/
def State.recentTrainings (s : State) (n : Nat) : List Nat := (s.link n).retrainAt.filter (fun t => decide (s.now < t + 600 * second))

/-- What a retry does to a link whose time has come. -/
def State.retried (s : State) (n : Nat) : State :=
  if (s.link n).fell then
    if 3 ≤ (s.recentTrainings n).length then s.modLink n (fun l => { l with disabled := true })
    else (s.modLink n (fun l =>
      { l with training := true, retrainAt := s.now :: s.recentTrainings n, retrains := l.retrains + 1 })).count (ctrLink n 5) 1
  else s.modLink n (fun l => { l with training := true })

/-- A link that left service may be tried again at once, and any link a second after it was last trained. -/
theorem exec_linkTrainRetry (hocc : s.occ = .num n) (hmask : bit s.mgmt.linkMask n = true) (hup : (s.link n).up = false)
    (htr : (s.link n).training = false) (hdis : (s.link n).disabled = false) (hst : 4 ≤ s.mgmt.stage) (hne : s.mgmt.stage ≠ 15) :
    let due := ((s.link n).fell = true ∧ (s.link n).failed = false) ∨ (s.link n).trainAt + second ≤ s.now
    (¬due → exec .linkTrainRetry s = .next s) ∧ (due → exec .linkTrainRetry s = .next (s.retried n)) := by
  have hrun : exec .linkTrainRetry s = .next ((s.trainRetry n).getD s) := by
    show execLinkTrainRetry s = _
    rw [execLinkTrainRetry, event1_run _ hocc]
  have hstage : decide (s.mgmt.stage < 4) = false := decide_eq_false (Nat.not_lt.2 hst)
  have hfail : (s.mgmt.stage == 15) = false := beq_eq_false_iff_ne.2 hne
  rw [hrun, State.trainRetry]
  simp only [hmask, hup, htr, hdis, hstage, hfail, Bool.not_true, Bool.or_self, Bool.false_or]
  refine ⟨fun h => ?_, fun h => ?_⟩
  · have hearly : ((!(s.link n).fell || (s.link n).failed) && decide (s.now < (s.link n).trainAt + second)) = true := by
      obtain ⟨hnf, hlate⟩ := not_or.1 h
      rw [Bool.and_eq_true, decide_eq_true_eq]
      refine ⟨?_, Nat.not_le.1 hlate⟩
      cases hf : (s.link n).fell with
      | false => rfl
      | true =>
        cases hd : (s.link n).failed with
        | true => rfl
        | false => exact absurd ⟨hf, hd⟩ hnf
    rw [if_pos hearly]
    rfl
  · have hdue : ((!(s.link n).fell || (s.link n).failed) && decide (s.now < (s.link n).trainAt + second)) = false := by
      rcases h with ⟨hf, hd⟩ | hlate
      · rw [hf, hd]; rfl
      · rw [decide_eq_false (Nat.not_lt.2 hlate), Bool.and_false]
    rw [hdue, State.retried, State.recentTrainings]
    cases (s.link n).fell with
    | false => rfl
    | true =>
      simp only [Bool.false_eq_true, ↓reduceIte]
      split <;> rfl

theorem exec_fidExchange {fid : Nat} (hocc : s.occ = .num2 n fid) (hup : (s.link n).up = true) (hfid : fid < 4096) :
    exec .fidExchange s = .next ((s.modLink n (fun l => { l with peerFid := some fid })).pumpLink n (s.link n).waitq.length) := by
  show execFidExchange s = _
  rw [execFidExchange, event2_run _ hocc, State.fidExchange, if_pos ⟨hup, hfid⟩, Option.getD_some]

end
end Sys2Proof.Machine
end

section open Sys2Proof Machine

/-- Settles O55: a flit in turn is delivered or held by its errors, the sender keeps what is not acknowledged, and a training decides by its
lanes and the link's past. -/
theorem linkEventsComplete : Obligations.LinkEventsComplete := by
  unfold Obligations.LinkEventsComplete
  refine ⟨?_, fun s n seq errs c hocc hok hup hheld hseq hroom => flitReceive_behind hocc hok hup hheld hseq hroom,
    fun s n depth c => ⟨deliverFlit_link s n depth c, rfl, (arrivals_spec s n).1, (arrivals_spec s n).2, askReplay_link, askReplay_down⟩,
    ?_, ?_, ?_, ?_, fun s n cls ch o hp ho => sendLink_untold hp ho, ?_, laneCode_bits, ?_,
    fun s n fid hocc hup hfid => exec_fidExchange hocc hup hfid⟩
  · intro s n seq errs c l hup hb hseq hok asked held
    have hasked : ∀ d, s.askParity n d = asked d := fun d => by rw [State.askParity, ← hseq]
    have hheld : (s.heldFlit n c).arrivals n = held := by rw [State.heldFlit, hasked]
    refine ⟨fun hocc => ⟨fun h he => ?_, fun h he => ?_, fun h he => ?_, fun h he => ?_⟩,
      fun hocc hc => ⟨fun h he => ?_, fun h he => ?_, fun h he => ?_, fun h he => ?_⟩⟩
    · rw [flitReceive_inTurn hocc hup hok hseq h, takeFlit_few hb he]
    · rw [flitReceive_inTurn hocc hup hok hseq h, takeFlit_many he, hheld]
    · rw [flitReplayArrival_run hocc hup hok hseq h, takeFlit_few hb he]
    · rw [flitReplayArrival_run hocc hup hok hseq h, takeFlit_many he, hheld]
    · rw [(parityArrival_run hocc hup hseq hc).1 h, if_pos he, deliverFlit_inTurn hb]
    · rw [(parityArrival_run hocc hup hseq hc).1 h, if_neg (Nat.not_le.2 he), hasked]
    · rw [(parityArrival_run hocc hup hseq hc).2 h, if_pos he, deliverFlit_inTurn hb]
    · rw [(parityArrival_run hocc hup hseq hc).2 h, if_neg (Nat.not_le.2 he)]
  · intro s n hocc hup hheld
    rw [exec_flitRecoveryTimeout hocc hup hheld]
    exact ⟨fun h => by rw [getD_of h], fun h => by rw [getD_of_not (Nat.not_le.2 h)]⟩
  · intro s n seq depth hocc hup hd
    rw [exec_parityRequest hocc hup hd]
    refine ⟨fun hlo hhi => by rw [getD_of ((kept_iff _ _).2 ⟨hlo, hhi⟩)], fun h => ?_⟩
    rw [getD_of_not]
    rw [kept_iff]
    omega
  · intro s n seq hocc hup hlo hhi
    have hkept := (kept_iff _ _).2 ⟨hlo, hhi⟩
    exact ⟨exec_replayRequest hocc hup hkept, exec_flitAck hocc hup hkept⟩
  · intro s n cls ch hocc hcls hch hup hw
    rw [exec_linkCreditReturn hocc hcls hch hup hw]
    exact ⟨fun h => by rw [getD_of h], fun h => by rw [getD_of_not (Nat.not_lt.2 h)]⟩
  · intro s n r l hocc hmask hup hdis htr
    rw [exec_linkTraining hocc]
    refine ⟨fun hr => ?_, fun hlow hhigh => ?_⟩
    · rw [linkTraining_up hmask hup hdis htr hr]
      exact ⟨_, rfl, trainedLink_spec s n r⟩
    · rw [linkTraining_down hmask hup hdis htr hlow hhigh, Option.getD_some]
  · intro s n l recent hocc hmask hup htr hdis hst hne due
    obtain ⟨hearly, hdue⟩ := exec_linkTrainRetry hocc hmask hup htr hdis hst hne
    have hrecent : s.recentTrainings n = recent := rfl
    refine ⟨hearly, fun h hf hr => ?_, fun h hf hr => ?_, fun h hf => ?_⟩
    · rw [hdue h, State.retried, if_pos hf, hrecent, if_pos hr]
    · rw [hdue h, State.retried, if_pos hf, hrecent, if_neg (Nat.not_le.2 hr)]
    · rw [hdue h, State.retried, if_neg (by rw [hf]; decide)]

end

section
/-! SUPPORT. What a host write changes, window by window. -/

namespace Sys2Proof.Machine

variable {s : State} {bar off size : Nat} {v : W64}

theorem exec_registerWrite (hocc : s.occ = .reg bar off size v) : exec .registerWrite s = .next (s.barWrite bar off size v) := by
  show execRegisterWrite s = _
  rw [execRegisterWrite, event_run]
  simp only [hocc, Option.getD_some]

/-! ### The windows -/

theorem barWrite_unaligned (h : size ≠ 8 ∨ off % 8 ≠ 0) : s.barWrite bar off size v = s := by
  rw [State.barWrite, if_pos h]

theorem barRead_unaligned (h : size ≠ 8 ∨ off % 8 ≠ 0) : s.barRead bar off size = 0 := by
  rw [State.barRead, if_pos (or_assoc.1 (.inl h))]

theorem aligned (h : off % 8 = 0) : ¬((8 : Nat) ≠ 8 ∨ off % 8 ≠ 0) := by simp [h]

theorem barWrite_recovery (hr : s.mgmt.recov = true) (h : bar ≠ 0 ∨ 0x10000 ≤ off) : s.barWrite bar off size v = s := by
  by_cases hd : size ≠ 8 ∨ off % 8 ≠ 0
  · exact barWrite_unaligned hd
  · have hout : ¬(bar = 0 ∧ off < 0x10000) := by omega
    rw [State.barWrite, if_neg hd, if_neg hout, if_pos hr]

theorem barWrite_management (k : Nat) (hk : k < 0x2000) : s.barWrite 0 (8 * k) 8 v = s.writeMgmt k v := by
  rw [State.barWrite, if_neg (aligned (Nat.mul_mod_right 8 k)), if_pos ⟨rfl, by omega⟩, Nat.mul_div_cancel_left k (by decide)]

/-- Past the management window, outside recovery mode, bar 0 is shared by the engines, the routes and the endpoint. -/
theorem barWrite_beyond (hr : s.mgmt.recov = false) (ho : 0x10000 ≤ off) (ha : off % 8 = 0) :
    s.barWrite 0 off 8 v =
      if off < 0x10800 then s.writeEngineReg ((off - 0x10000) / 64) (off % 64 / 8) v
      else if 0x20000 ≤ off ∧ off < 0x30000 then s.writeRoute (off - 0x20000) v
      else if 0x40000 ≤ off ∧ off < 0x41000 then s.writeEther (off - 0x40000) v
      else s := by
  rw [State.barWrite, if_neg (aligned ha), if_neg (by omega), hr, if_neg Bool.false_ne_true, if_pos rfl]

theorem barWrite_engine (hr : s.mgmt.recov = false) {n k : Nat} (hn : n < 32) (hk : k < 8) :
    s.barWrite 0 (0x10000 + 64 * n + 8 * k) 8 v = s.writeEngineReg n k v := by
  have hreg : (0x10000 + 64 * n + 8 * k - 0x10000) / 64 = n ∧ (0x10000 + 64 * n + 8 * k) % 64 / 8 = k := by omega
  rw [barWrite_beyond hr (by omega) (by omega), if_pos (by omega), hreg.1, hreg.2]

theorem barWrite_kick (hr : s.mgmt.recov = false) {n : Nat} (hn : n < 32) :
    s.barWrite 2 (4096 * n) 8 v = s.kick n (v.setWidth 32) := by
  rw [State.barWrite, if_neg (aligned (by omega)), if_neg (by omega), hr, if_neg Bool.false_ne_true, if_neg (by decide),
    if_pos ⟨rfl, by omega, by omega⟩, Nat.mul_div_cancel_left n (by decide)]

theorem barWrite_routeWindow (hr : s.mgmt.recov = false) {o : Nat} (ho : o < 0x10000) (ha : o % 8 = 0) :
    s.barWrite 0 (0x20000 + o) 8 v = s.writeRoute o v := by
  rw [barWrite_beyond hr (by omega) (by omega), if_neg (by omega), if_pos (by omega), Nat.add_sub_cancel_left]

theorem writeRoute_entry {n : Nat} (hn : n < 4096) (hst : s.mgmt.stage = 5 ∨ s.mgmt.stage = 6) :
    s.writeRoute (8 * n) v = { s with routes := s.routes.put n (BitVec.ofNat 64 (v.toNat % 2 ^ 36 + v.toNat / 2 ^ 48 * 2 ^ 48)) } := by
  rw [State.writeRoute, if_neg (by omega), if_pos (by omega), Nat.mul_div_cancel_left n (by decide)]

theorem writeRoute_shut (o : Nat) (h5 : s.mgmt.stage ≠ 5) (h6 : s.mgmt.stage ≠ 6) : s.writeRoute o v = s := if_pos ⟨h5, h6⟩

theorem writeFid_shut (h5 : s.mgmt.stage ≠ 5) (h6 : s.mgmt.stage ≠ 6) : s.writeFid v = s := if_pos ⟨h5, h6⟩

theorem writeRoute_fid : s.writeRoute 0x8000 v = s.writeFid v := by
  by_cases h : s.mgmt.stage ≠ 5 ∧ s.mgmt.stage ≠ 6
  · rw [writeRoute_shut _ h.1 h.2, writeFid_shut h.1 h.2]
  · rw [State.writeRoute, if_neg h, if_neg (by decide), if_pos rfl]

/-! ### The management window -/

theorem writeMgmt_args {k : Nat} (h5 : 5 ≤ k) (h12 : k ≤ 12) :
    s.writeMgmt k v = s.modMgmt (fun m => { m with marg := m.marg.set (k - 5) v }) := by
  rw [State.writeMgmt.eq_3 s k v (by omega) (by omega), if_pos ⟨h5, h12⟩]

theorem writeMgmt_other {k : Nat} (h2 : k ≠ 2) (h4 : k ≠ 4) (h : k < 5 ∨ 12 < k) : s.writeMgmt k v = s := by
  rw [State.writeMgmt.eq_3 s k v h2 h4, if_neg (by omega)]

theorem clampPower_eq (n : Nat) : clampPower n = if n < 1200 then 1200 else if 2300 < n then 2300 else n := by
  unfold clampPower
  split
  · omega
  · split <;> omega

/-! ### The fabric id -/

/-- Telling the links leaves the management registers and memory. -/
theorem tellLinks_rest (l : List (Nat × Link)) : ∀ s : State,
    (l.foldl (fun s l => if l.2.up then s.tellFid l.1 else s) s).mgmt = s.mgmt ∧
      (l.foldl (fun s l => if l.2.up then s.tellFid l.1 else s) s).mem = s.mem := by
  induction l with
  | nil => exact fun s => ⟨rfl, rfl⟩
  | cons x l ih =>
    intro s
    have hstep : (if x.2.up then s.tellFid x.1 else s).mgmt = s.mgmt ∧ (if x.2.up then s.tellFid x.1 else s).mem = s.mem := by
      split
      · rw [tellFid_eq]; exact ⟨rfl, rfl⟩
      · exact ⟨rfl, rfl⟩
    obtain ⟨hmgmt, hmem⟩ := ih (if x.2.up then s.tellFid x.1 else s)
    exact ⟨hmgmt.trans hstep.1, hmem.trans hstep.2⟩

theorem writeFid_spec (hst : s.mgmt.stage = 5 ∨ s.mgmt.stage = 6) :
    (s.writeFid v).mgmt.fid = v.toNat % 2 ^ 12 ∧ (s.writeFid v).mgmt.fidSet = v.getLsbD 31 ∧
      (s.writeFid v).mgmt.stage = (if v.getLsbD 31 then 6 else s.mgmt.stage) ∧ (s.writeFid v).mem = s.mem := by
  have hfid : fld v 11 0 = v.toNat % 2 ^ 12 := by simp [fld, bits]
  rw [State.writeFid, if_neg (by omega)]
  obtain ⟨hmgmt, hmem⟩ := tellLinks_rest s.links
    (s.modMgmt (fun m => { m with fid := fld v 11 0, fidSet := v.getLsbD 31, stage := if v.getLsbD 31 then 6 else m.stage }))
  refine ⟨(congrArg Mgmt.fid hmgmt).trans hfid, congrArg Mgmt.fidSet hmgmt, congrArg Mgmt.stage hmgmt, hmem⟩

theorem exec_fabricIdWrite {n : Nat} (hocc : s.occ = .write n v) : exec .fabricIdWrite s = .next (s.writeFid v) := by
  show execFabricIdWrite s = _
  rw [execFabricIdWrite, event_run]
  simp only [hocc, Option.getD_some]

end Sys2Proof.Machine
end

section open Sys2Proof Machine

/-- Settles O56: a write that is no aligned doubleword is discarded, and each window takes the doublewords of its range. -/
theorem hostWritesComplete : Obligations.HostWritesComplete := by
  unfold Obligations.HostWritesComplete
  refine ⟨fun s bar off size v hocc => ?_, fun s bar off size h => barRead_unaligned h, fun s k v hocc => ?_, clampPower_eq,
    fun s n k v hr => ⟨fun hocc hn hk => ?_, fun hocc hn => ?_, fun hocc hn => ?_, fun hocc => ?_⟩, fun s n v hocc => ?_⟩
  · rw [exec_registerWrite hocc]
    exact ⟨fun h => by rw [barWrite_unaligned h], fun hr h => by rw [barWrite_recovery hr h]⟩
  · rw [exec_registerWrite hocc]
    refine ⟨fun h => ?_, fun h hm => ?_, fun h hm => ?_, fun h5 h12 => ?_, fun hk h2 h4 h => ?_⟩
    · subst h
      rw [barWrite_management 2 (by decide)]
      rfl
    · subst h
      rw [barWrite_management 4 (by decide), State.writeMgmt, if_pos hm]
    · subst h
      rw [barWrite_management 4 (by decide), State.writeMgmt, if_neg hm]
    · rw [barWrite_management k (by omega), writeMgmt_args h5 h12]
    · rw [barWrite_management k hk, writeMgmt_other h2 h4 h]
  · rw [exec_registerWrite hocc, barWrite_engine hr hn hk]
  · rw [exec_registerWrite hocc, barWrite_kick hr hn]
  · rw [exec_registerWrite hocc, barWrite_routeWindow hr (by omega) (by omega)]
    exact ⟨fun hst => by rw [writeRoute_entry hn hst], fun h5 h6 => by rw [writeRoute_shut _ h5 h6]⟩
  · rw [exec_registerWrite hocc, ← writeRoute_fid]
    exact congrArg _ (barWrite_routeWindow (o := 0x8000) hr (by decide) (by decide))
  · rw [exec_fabricIdWrite hocc]
    exact ⟨fun h5 h6 => by rw [writeFid_shut h5 h6], fun hst => ⟨_, rfl, writeFid_spec hst⟩⟩

end

section
/-! SUPPORT. The mailbox commands: whether one is in progress, and what each answers. -/

namespace Sys2Proof.Machine

variable {s : State}

theorem bits_lt (v hi lo : Nat) : bits v hi lo < 2 ^ (hi + 1 - lo) := Nat.mod_lt _ (Nat.two_pow_pos _)

/-! ### The catalogue and partitions -/

theorem exec_reportCatalogue (h : s.asked 1 = true) :
    exec .reportCatalogue s = .next (s.modMgmt (fun m => { m with marg := (List.range 8).map Config.catalogue, mcode := 0 })) := by
  show execReportCatalogue s = _
  rw [execReportCatalogue, event_run, State.reportCatalogue, if_pos h]
  rfl

/-- The number of the partition that a command's second argument gives, and its image (R417). -/
def State.cmdArg (s : State) (i : Nat) : Nat := (s.mgmt.marg.getD i 0).toNat
def State.cmdImage (s : State) : Nat × Bool := s.readStore (Loc.host (s.cmdArg 0)).key 256
def State.cmdDesc (s : State) : BitVec 2048 := BitVec.ofNat 2048 s.cmdImage.1

/-- What PARTITION_CREATE answers once it is performed, by the refusals in their order (log entry 13). -/
def State.created (s : State) : State :=
  if s.cmdArg 1 / 16 ≠ 0 ∨ s.cmdArg 0 % 256 ≠ 0 ∨ s.cmdImage.2 = true then s.refuseCmd 4
  else if (s.parts.find (s.cmdArg 1 % 16)).elim false s.inUse = true then s.refuseCmd 3
  else if descMalformed s.cmdDesc = true then s.refuseCmd 4
  else if s.descAbsent s.cmdDesc = true then s.refuseCmd 2
  else if (s.parts.filter (fun p => p.1 != s.cmdArg 1 % 16)).any (fun p => descsMeet s.cmdDesc p.2.desc) = true then s.refuseCmd 1
  else (s.putPart (s.cmdArg 1 % 16) s.cmdDesc).doneCmd

theorem exec_partitionCreate (h : s.asked 2 = true) (hst : s.mgmt.stage = 6) (hc : s.cacheShut = false) :
    exec .partitionCreate s = .next s.created := by
  show execPartitionCreate s = _
  rw [execPartitionCreate, event_run, State.partitionCreate, h, hst, hc]
  rfl

theorem elim_inUse_iff (i : Nat) : (s.parts.find i).elim false s.inUse = true ↔ ∃ p, s.parts.find i = some p ∧ s.inUse p = true := by
  cases s.parts.find i with
  | none => exact ⟨fun h => absurd h Bool.false_ne_true, fun ⟨p, hp, _⟩ => absurd hp (by simp)⟩
  | some q =>
    refine ⟨fun h => ⟨q, rfl, h⟩, ?_⟩
    rintro ⟨p, hp, hu⟩
    exact Option.some.inj hp ▸ hu

theorem any_meets_iff (l : List (Nat × Partition)) (i : Nat) (d : BitVec 2048) :
    (l.filter (fun p => p.1 != i)).any (fun p => descsMeet d p.2.desc) = true ↔
      ∃ q ∈ l, q.1 ≠ i ∧ descsMeet d q.2.desc = true := by
  simp only [List.any_eq_true, List.mem_filter, bne_iff_ne, ne_eq, and_assoc]

/-- A partition that is put stands under its number with the description given, but for ptroot (R362). -/
theorem putPart_desc (s : State) (i : Nat) (d : BitVec 2048) :
    ∃ p, (s.putPart i d).parts.find i = some p ∧ ∀ k < 32, k ≠ 11 → wordAt p.desc k = wordAt d k := by
  unfold State.putPart
  cases hold : s.parts.find i with
  | none => exact ⟨_, Assoc.find_put_self _ _ _, fun k _ hk => withRoot_word d (Nat.two_pow_pos 64) hk⟩
  | some p =>
    have hroot : Desc.ptroot p.desc < 2 ^ 64 := bits_lt _ 767 704
    exact ⟨_, Assoc.find_put_self _ _ _, fun k _ hk => withRoot_word d hroot hk⟩

/-- PARTITION_DESTROY of a partition whose lines can leave the caches. -/
theorem exec_partitionDestroy (h : s.asked 3 = true) (hl : s.canLeave (s.cmdArg 1 % 16) = true) :
    (16 ≤ s.cmdArg 1 → exec .partitionDestroy s = .next (s.refuseCmd 4)) ∧
    (s.cmdArg 1 < 16 → s.parts.find (s.cmdArg 1) = none → exec .partitionDestroy s = .next (s.refuseCmd 5)) ∧
    ∀ p, s.cmdArg 1 < 16 → s.parts.find (s.cmdArg 1) = some p →
      (s.inUse p = true → exec .partitionDestroy s = .next (s.refuseCmd 3)) ∧
      (s.inUse p = false → let t := (s.leavePart (s.cmdArg 1) p).leaveEngines (hasEngine p.desc)
        exec .partitionDestroy s = .next ({ t with parts := t.parts.del (s.cmdArg 1) } : State).doneCmd) := by
  have hrun : exec .partitionDestroy s = .next ((s.partitionDestroy).getD s) := event_run _ s
  have hready : ¬(!s.asked 3 || !s.canLeave (s.cmdArg 1 % 16)) = true := by rw [h, hl]; exact Bool.false_ne_true
  rw [hrun, State.partitionDestroy]
  show _ ∧ _
  simp only [show (s.mgmt.marg.getD 1 0).toNat = s.cmdArg 1 from rfl]
  rw [if_neg hready, Option.getD_some]
  refine ⟨fun h16 => by rw [if_pos (by omega)], fun hb hp => ?_, fun p hb hp => ⟨fun hu => ?_, fun hu => ?_⟩⟩
  · rw [if_neg (by omega), Nat.mod_eq_of_lt hb, hp]
  · rw [if_neg (by omega), Nat.mod_eq_of_lt hb, hp]
    exact congrArg _ (if_pos hu)
  · rw [if_neg (by omega), Nat.mod_eq_of_lt hb, hp]
    exact congrArg _ (if_neg (by rw [hu]; exact Bool.false_ne_true))

/-! ### Decoders, IDE and images -/

/-- DECODER_PROGRAM's answers in their order (R417). -/
theorem exec_decoderProgram {i base len part ia key : Nat} (hocc : s.occ = .nums [i, base, len, part, ia, key]) (h : s.asked 4 = true) :
    exec .decoderProgram s = .next (
      if 16 ≤ i then s.refuseCmd 4
      else if len = 0 then s.modMgmt (fun m => { m with decoders := m.decoders.del i, mcode := 0 })
      else match s.parts.find part with
        | none => s.refuseCmd 2
        | some p =>
          if !p.inIA ia (ia + len) || !bit (Desc.keys p.desc) key ||
              (s.mgmt.decoders.filter (fun d => d.1 != i)).any (fun d => meets base len d.2.1 d.2.2.1) then s.refuseCmd 7
          else s.modMgmt (fun m => { m with decoders := m.decoders.put i (base, len, part, ia, key), mcode := 0 })) := by
  show execDecoderProgram s = _
  rw [execDecoderProgram, event_run]
  simp only [hocc, State.decoderProgram, h, Bool.not_true, Bool.false_eq_true, ↓reduceIte, Option.getD_some]
  rfl

theorem conflict_iff (p : Partition) (others : List (Nat × Nat × Nat × Nat × Nat × Nat)) (ia len key base : Nat) :
    (!p.inIA ia (ia + len) || !bit (Desc.keys p.desc) key || others.any (fun d => meets base len d.2.1 d.2.2.1)) = true ↔
      p.inIA ia (ia + len) = false ∨ bit (Desc.keys p.desc) key = false ∨ ∃ d ∈ others, meets base len d.2.1 d.2.2.1 = true := by
  simp only [Bool.or_eq_true, Bool.not_eq_true', List.any_eq_true, or_assoc]

theorem exec_ideRequire {need able : Bool} (hocc : s.occ = .flags need able) (h : s.asked 5 = true) :
    exec .ideRequire s = .next (if able = true then
      s.modMgmt (fun m => { m with ideNeed := need, ideUp := need && m.ideUp, mcode := 0 }) else s.refuseCmd 8) := by
  show execIdeRequire s = _
  rw [execIdeRequire, event_run]
  simp only [hocc, State.ideRequire, h]
  cases able <;> rfl

theorem exec_imageWrite {i : FwImage} (hocc : s.occ = .image i) (h : s.asked 0x10 = true) :
    exec .imageWrite s = .next (if imageOk i = true then (s.modMgmt (fun m =>
      if m.slot = 0 then { m with flashB := some i, mcode := 0 } else { m with flashA := some i, mcode := 0 })) else s.refuseCmd 6) := by
  show execImageWrite s = _
  rw [execImageWrite, event_run]
  simp only [hocc, State.imageWrite, h, Bool.not_true, Bool.false_eq_true, ↓reduceIte]
  cases imageOk i with
  | false => rfl
  | true =>
    simp only [Bool.not_true, Bool.false_eq_true, ↓reduceIte, Option.getD_some, State.doneCmd, State.modMgmt]
    split <;> rfl

/-! ### Links -/

/-- A link out of service keeps the retrainings that it made by itself. -/
theorem linkDown_link (s : State) (n : Nat) : ((s.linkDown n).link n).up = false ∧ ((s.linkDown n).link n).retrainAt = (s.link n).retrainAt := by
  rw [link_of_put (t := s.linkDown n) (flush_links _)]
  exact ⟨rfl, rfl⟩

/-- A link taken out of service, when it was in it. -/
theorem down_link (s : State) (n : Nat) : let t := if (s.link n).up then s.linkDown n else s
    (t.link n).up = false ∧ (t.link n).retrainAt = (s.link n).retrainAt := by
  intro t
  cases hup : (s.link n).up with
  | true =>
    rw [show t = s.linkDown n from if_pos hup]
    exact linkDown_link s n
  | false =>
    rw [show t = s from if_neg (by rw [hup]; exact Bool.false_ne_true)]
    exact ⟨hup, rfl⟩

theorem exec_linkRetrain (h : s.asked 0x11 = true) :
    (16 ≤ s.cmdArg 0 → exec .linkRetrain s = .next (s.refuseCmd 4)) ∧
    (s.cmdArg 0 < 16 → bit s.mgmt.linkMask (s.cmdArg 0) = false → exec .linkRetrain s = .next (s.refuseCmd 2)) ∧
    (s.cmdArg 0 < 16 → bit s.mgmt.linkMask (s.cmdArg 0) = true → ∃ t, exec .linkRetrain s = .next t ∧ t.mgmt.mcode = 0 ∧
      (t.link (s.cmdArg 0)).up = false ∧ (t.link (s.cmdArg 0)).training = true ∧ (t.link (s.cmdArg 0)).disabled = false ∧
      (t.link (s.cmdArg 0)).retrainAt = (s.link (s.cmdArg 0)).retrainAt) := by
  have hrun : exec .linkRetrain s = .next ((s.linkRetrain).getD s) := event_run _ s
  rw [hrun, State.linkRetrain, h]
  simp only [show (s.mgmt.marg.getD 0 0).toNat = s.cmdArg 0 from rfl, Bool.not_true, Bool.false_eq_true, ↓reduceIte, Option.getD_some]
  refine ⟨fun h16 => by rw [if_pos h16], fun hn hm => ?_, fun hn hm => ?_⟩
  · rw [if_neg (Nat.not_le.2 hn), hm]
    rfl
  · rw [if_neg (Nat.not_le.2 hn), hm]
    obtain ⟨hup, hre⟩ := down_link s (s.cmdArg 0)
    refine ⟨_, rfl, rfl, ?_⟩
    rw [link_of_put rfl]
    exact ⟨hup, rfl, rfl, hre⟩

/-! ### Commands there are not -/

theorem exec_unknownCommand (hon : s.mgmt.on = true) (hst : s.mgmt.stage ≠ 0) (hm : s.mgmt.mcode = 1)
    (hcmd : s.mgmt.mcmd ∉ [1, 2, 3, 4, 5, 0x10, 0x11] ∨ (s.mgmt.recov = true ∧ s.mgmt.mcmd ≠ 0x10)) :
    exec .unknownCommand s = .next (s.modMgmt (fun m => { m with mcode := 3 })) := by
  have hrun : exec .unknownCommand s = .next ((s.unknownCmd).getD s) := event_run _ s
  rw [hrun, State.unknownCmd, if_pos ⟨hon, hst, hm, hcmd⟩, Option.getD_some]

end Sys2Proof.Machine
end

section open Sys2Proof Machine

/-- Settles O57: each command's refusals are met in their order, and what is left performs it. -/
theorem mailboxComplete : Obligations.MailboxComplete := by
  unfold Obligations.MailboxComplete
  refine ⟨fun s h => exec_reportCatalogue h, ?_, putPart_desc, fun s h => exec_partitionDestroy h, ?_, ?_, ?_,
    fun s h => exec_linkRetrain h, fun s hon hst hm hcmd => exec_unknownCommand hon hst hm hcmd, fun s n => ⟨rfl, rfl, rfl⟩⟩
  · intro s h hst hc a b x d used met refused
    have hrun : ∀ t, s.created = t → exec .partitionCreate s = .next t := fun t ht => ht ▸ exec_partitionCreate h hst hc
    have hno : ∀ {c : Bool}, c = false → ¬c = true := fun h => by rw [h]; exact Bool.false_ne_true
    have hused : (s.parts.find (s.cmdArg 1 % 16)).elim false s.inUse = true ↔ used := elim_inUse_iff _
    have hd : s.cmdDesc = d := rfl
    have hmet : _ ↔ met := any_meets_iff s.parts (s.cmdArg 1 % 16) d
    refine ⟨fun hbad => hrun _ (if_pos ?_), fun hb ha hx => ?_⟩
    · exact hbad.imp (fun hb => Nat.div_ne_zero_iff.2 ⟨by decide, hb⟩) id
    · have hgood : ¬(s.cmdArg 1 / 16 ≠ 0 ∨ s.cmdArg 0 % 256 ≠ 0 ∨ s.cmdImage.2 = true) := by
        rintro (hne | hne | ht)
        · exact hne (Nat.div_eq_of_lt hb)
        · exact hne ha
        · exact Bool.false_ne_true (hx.symm.trans ht)
      have hlt : s.cmdArg 1 % 16 = b := Nat.mod_eq_of_lt hb
      refine ⟨fun hu => hrun _ ?_, fun hu hm => hrun _ ?_, fun hu hm hn => hrun _ ?_, fun hu hm hn ht => hrun _ ?_,
        fun hu hm hn ht => hrun _ ?_⟩ <;> rw [State.created, if_neg hgood, hd]
      · rw [if_pos (hused.2 hu)]
      · rw [if_neg (fun h => hu (hused.1 h)), if_pos hm]
      · rw [if_neg (fun h => hu (hused.1 h)), if_neg (hno hm), if_pos hn]
      · rw [if_neg (fun h => hu (hused.1 h)), if_neg (hno hm), if_neg (hno hn), if_pos (hmet.2 ht)]
      · rw [if_neg (fun h => hu (hused.1 h)), if_neg (hno hm), if_neg (hno hn), if_neg (fun h => ht (hmet.1 h)), hlt]
  · intro s i base len part ia key hocc h others conflict
    rw [exec_decoderProgram hocc h]
    refine ⟨fun hi => by rw [if_pos hi], fun hi hl => by rw [if_neg (Nat.not_le.2 hi), if_pos hl], fun p hi hl hp => ?_⟩
    have hconf : _ ↔ conflict p := conflict_iff p others ia len key base
    rw [if_neg (Nat.not_le.2 hi), if_neg hl, hp]
    exact ⟨fun hc => congrArg _ (if_pos (hconf.2 hc)), fun hc => congrArg _ (if_neg (fun hm => hc (hconf.1 hm)))⟩
  · intro s need able hocc h
    rw [exec_ideRequire hocc h]
    exact ⟨fun ha => by rw [if_pos ha], fun ha => by rw [ha]; rfl⟩
  · intro s i hocc h
    rw [exec_imageWrite hocc h]
    exact ⟨fun hi => by rw [hi]; rfl, fun hi => by rw [if_pos hi]⟩

end

section
/-! SUPPORT. What each event of bring-up, of the host's accesses, of attestation, of the patrol and of power leaves. -/

namespace Sys2Proof.Machine

variable {s : State}

/-! ### Power-good and the stages (R414, R415) -/

theorem exec_powerGood (hon : s.mgmt.on = false) :
    exec .powerGood s = .next (
      let up (slot : Nat) : State := s.modMgmt (fun m =>
        { m with on := true, stageSince := s.now, stage := 1, slot, running := some (s.imageIn slot) })
      if imageOk (s.imageIn 0) = true then up 0
      else if imageOk (s.imageIn 1) = true then up 1
      else s.modMgmt (fun m => { m with on := true, stageSince := s.now, stage := 15, err := 1, recov := true })) := by
  have hrun : exec .powerGood s = .next ((s.powerGood).getD s) := event_run _ s
  rw [hrun, State.powerGood, hon]
  rfl

theorem atStage_of (hon : s.mgmt.on = true) {n : Nat} (hst : s.mgmt.stage = n) : s.atStage n = true := by
  rw [State.atStage, hon, hst, beq_self_eq_true]
  rfl

/-- Counting repaired rows touches the counters alone. -/
theorem repaired_rest (l : List Nat) : ∀ t : State, let r := l.foldl (fun t st => t.count (ctrStack st 128) 1) t
    r.mgmt.stage = t.mgmt.stage ∧ r.mgmt.cores = t.mgmt.cores ∧ r.mgmt.linkMask = t.mgmt.linkMask := by
  induction l with
  | nil => exact fun t => ⟨rfl, rfl, rfl⟩
  | cons x l ih => exact fun t => ih (t.count (ctrStack x 128) 1)

theorem exec_firmwareStart {r : BringUp} (hocc : s.occ = .report r) : exec .firmwareStart s = .next ((s.firmwareStart r).getD s) := by
  show execFirmwareStart s = _
  rw [execFirmwareStart, event_run]
  simp only [hocc]

theorem firmwareStart_eq {r : BringUp} (hon : s.mgmt.on = true) (hst : s.mgmt.stage = 1)
    (hcores : ∀ n ∈ [r.cores0, r.cores1, r.cores2, r.cores3], n % 16 = 0 ∧ n ≤ 16 * Config.gridRows)
    (hrep : ∀ n ∈ r.repaired, n < Config.hbmStacks Config.kind) :
    s.firmwareStart r =
      if !r.store then some (s.failStage 2)
      else some (r.repaired.foldl (fun t st => t.count (ctrStack st 128) 1)
        (s.modMgmt (fun m => { m with stage := 2, counters := m.store, cores := [r.cores0, r.cores1, r.cores2, r.cores3], flushAt := s.now,
                                      linkMask := r.links % 2 ^ Config.links Config.kind }))) := by
  have hok : [r.cores0, r.cores1, r.cores2, r.cores3].all coresOk = true := List.all_eq_true.2 fun n hn => by
    rw [coresOk, Bool.and_eq_true, beq_iff_eq, decide_eq_true_eq]
    exact hcores n hn
  have hin : r.repaired.any (fun st => decide (Config.hbmStacks Config.kind ≤ st)) = false := List.any_eq_false.2 fun n hn => by
    rw [decide_eq_true_eq]
    exact Nat.not_le.2 (hrep n hn)
  have hready : ¬(!s.atStage 1 || !List.all [r.cores0, r.cores1, r.cores2, r.cores3] coresOk ||
      r.repaired.any (fun st => decide (Config.hbmStacks Config.kind ≤ st))) = true := by
    rw [atStage_of hon hst, hok, hin]
    exact Bool.false_ne_true
  exact if_neg hready

theorem exec_hbmTrainingDone {m : Nat} (hocc : s.occ = .num m) (hon : s.mgmt.on = true) (hst : s.mgmt.stage = 2) :
    exec .hbmTrainingDone s = .next (if m % 2 ^ Config.hbmStacks Config.kind = 0 then s.failStage 3
      else s.modMgmt (fun g => { g with stage := 3, stackMask := m % 2 ^ Config.hbmStacks Config.kind })) := by
  show execHbmTrainingDone s = _
  rw [execHbmTrainingDone, event1_run _ hocc, State.hbmTraining, atStage_of hon hst]
  simp only [Bool.not_true, Bool.false_eq_true, ↓reduceIte]
  split <;> rfl

theorem eventB_run (f : State → Bool → Option State) {b : Bool} (hocc : s.occ = .flag b) : eventB f s = .next ((f s b).getD s) := by
  rw [eventB, event_run]
  simp only [hocc]

theorem exec_cxlTrainingDone {ok : Bool} (hocc : s.occ = .flag ok) : exec .cxlTrainingDone s = .next ((s.cxlTraining ok).getD s) := by
  show execCxlTrainingDone s = _
  rw [execCxlTrainingDone, eventB_run _ hocc]

/-- The links of a mask among some put to train. -/
def State.trainAll (s : State) (l : List Nat) : State :=
  l.foldl (fun s n => if bit s.mgmt.linkMask n then s.modLink n (fun l => { l with training := true }) else s) s

theorem trainAll_spec (l : List Nat) : ∀ s : State, (s.trainAll l).mgmt = s.mgmt ∧ ∀ n, bit s.mgmt.linkMask n = true →
    n ∈ l ∨ (s.link n).training = true → ((s.trainAll l).link n).training = true := by
  induction l with
  | nil => exact fun s => ⟨rfl, fun n _ h => h.resolve_left List.not_mem_nil⟩
  | cons x l ih =>
    intro s
    have hfold : s.trainAll (x :: l) =
        (if bit s.mgmt.linkMask x then s.modLink x (fun l => { l with training := true }) else s).trainAll l := rfl
    rw [hfold]
    split
    next hx =>
      obtain ⟨hmgmt, htr⟩ := ih (s.modLink x (fun l => { l with training := true }))
      refine ⟨hmgmt, fun n hn h => htr n hn ?_⟩
      by_cases hnx : n = x
      · subst hnx
        exact .inr (by rw [link_modLink])
      · refine h.imp (fun hm => (List.mem_cons.1 hm).resolve_left hnx) (fun ht => ?_)
        have hlink : (s.modLink x (fun l => { l with training := true })).link n = s.link n := Assoc.get_put_of_ne _ _ _ hnx
        rw [hlink]
        exact ht
    next hx =>
      obtain ⟨hmgmt, htr⟩ := ih s
      refine ⟨hmgmt, fun n hn h => htr n hn (h.imp_left fun hm => (List.mem_cons.1 hm).resolve_left ?_)⟩
      rintro rfl
      exact hx hn

theorem cxlTraining_up (hon : s.mgmt.on = true) (hr : s.mgmt.recov = false) (hst : s.mgmt.stage = 3) :
    s.cxlTraining true = some ((s.modMgmt (fun m => { m with stage := 4, cxlUp := true })).trainAll (List.range 16)) := by
  rw [State.cxlTraining, hr, atStage_of hon hst]
  rfl

theorem cxlTraining_fails (hon : s.mgmt.on = true) (hr : s.mgmt.recov = false) (hst : s.mgmt.stage = 3) :
    s.cxlTraining false = some (s.failStage 4) := by
  rw [State.cxlTraining, hr, atStage_of hon hst]
  rfl

theorem cxlTraining_recovery (hr : s.mgmt.recov = true) (ok : Bool) :
    s.cxlTraining ok = some (s.modMgmt (fun m => { m with cxlUp := ok })) := by
  rw [State.cxlTraining, hr]
  rfl

theorem exec_umturTrainingDone (hon : s.mgmt.on = true) (hst : s.mgmt.stage = 4) (hl : ∀ l ∈ s.links, l.2.training = false) :
    exec .umturTrainingDone s = .next (s.modMgmt (fun m => { m with stage := 5 })) := by
  have hrun : exec .umturTrainingDone s = .next ((s.umturTraining).getD s) := event_run _ s
  have hall : s.links.all (fun l => !l.2.training) = true := List.all_eq_true.2 fun l h => by rw [hl l h]; rfl
  rw [hrun, State.umturTraining, atStage_of hon hst, hall]
  rfl

theorem stageTimeout_run {n bound : Nat} (hon : s.mgmt.on = true) (hst : s.mgmt.stage = n) (hn : n ≤ 4) (hb : stageBound n = bound) :
    (s.mgmt.stageSince + second * bound ≤ s.now →
      exec .stageTimeout s = .next (if n = 4 then s.modMgmt (fun m => { m with stage := 5 }) else s.failStage (n + 1))) ∧
    (s.now < s.mgmt.stageSince + second * bound → exec .stageTimeout s = .next s) := by
  have hrun : exec .stageTimeout s = .next ((s.stageTimeout).getD s) := event_run _ s
  rw [hrun, State.stageTimeout]
  simp only [hon, hst, hb, not_true_eq_false, false_or, Nat.not_lt.2 hn]
  refine ⟨fun h => ?_, fun h => by rw [if_pos h, Option.getD_none]⟩
  rw [if_neg (Nat.not_lt.2 h)]
  split <;> rfl

/-! ### CXL.mem (R379) -/

section
variable {a : CxlAccess}

theorem exec_cxlMemAccess (hocc : s.occ = .cxl a) : exec .cxlMemAccess s = .next ((s.cxlAccess a).getD s) := by
  show execCxlMemAccess s = _
  rw [execCxlMemAccess, event_run]
  simp only [hocc]

/-- A host access under its decoder and its partition, by what the memory side says. -/
def State.cxlServed (s : State) (a : CxlAccess) (p : Partition) (ia key : Nat) (side : Side2) : Option State :=
  match side with
  | .fail _ => some (s.cxlReply a 0 true)
  | .park _ _ _ => none
  | .zeros => some (s.cxlReply a 0 false)
  | .go leaf phys page =>
    if (p.domainOf ia).elim false (·.moves ia) then none
    else
      let s := s.hostTakes ia
      let via : Via := ⟨leaf - Leaf.key leaf * 2 ^ 10 + key * 2 ^ 10, phys, page, p.sliceOf ia, 0⟩
      match a.data with
      | some v => some ((s.writeLocal ia a.size v false via).cxlReply a 0 false)
      | none =>
        let x := s.readLocal ia a.size via
        some (x.2.cxlReply a x.1.1 x.1.2)

variable (hsize : a.size ≠ 0) (hline : a.addr / 64 = (a.addr + a.size - 1) / 64)
include hsize hline

theorem cxlAccess_shut (hc : s.cacheShut = true) : s.cxlAccess a = some (s.cxlReply a 0 true) := by
  rw [State.cxlAccess, if_neg (fun h => h.elim hsize (fun h => h hline)), if_pos hc]

theorem cxlAccess_outside (hc : s.cacheShut = false) (hd : s.decoderOf a = none) : s.cxlAccess a = some (s.cxlReply a 0 true) := by
  rw [State.cxlAccess, if_neg (fun h => h.elim hsize (fun h => h hline)), hc, if_neg Bool.false_ne_true, hd]

theorem cxlAccess_decoded {base len part ia0 key : Nat} {p : Partition} (hc : s.cacheShut = false)
    (hd : s.decoderOf a = some (base, len, part, ia0, key)) (hp : s.parts.find part = some p) :
    let ia := ia0 + (a.addr - base)
    s.cxlAccess a = s.cxlServed a p ia key (s.memSide p (s.walk p ia) ia a.size 0 false false a.data.isSome false none) := by
  intro ia
  rw [State.cxlAccess, if_neg (fun h => h.elim hsize (fun h => h hline)), hc, if_neg Bool.false_ne_true, hd]
  simp only [hp]
  show (match s.memSide p (s.walk p ia) ia a.size 0 false false a.data.isSome false none with
    | .fail _ => some (s.cxlReply a 0 true)
    | .park _ _ _ => none
    | .zeros => some (s.cxlReply a 0 false)
    | .go leaf phys page => _) = _
  cases s.memSide p (s.walk p ia) ia a.size 0 false false a.data.isSome false none <;> rfl

end

theorem domain_stays {p : Partition} {ia : Nat} (h : ∀ d, p.domainOf ia = some d → d.moves ia = false) :
    (p.domainOf ia).elim false (·.moves ia) = false := by
  cases hd : p.domainOf ia with
  | none => rfl
  | some d => exact h d hd

/-! ### Attestation (R382) -/

theorem length_beBytes (v n : Nat) : (beBytes v n).length = n := by rw [beBytes, List.length_map, List.length_range]

theorem length_p384Sign (key : Nat) (digest : BitVec 384) (secret : Nat) : (p384Sign key digest secret).length = 96 := by
  rw [p384Sign, List.length_append, length_beBytes, length_beBytes]

theorem length_spdmSign (s : State) (purpose : String) (ms : List Byte) : (s.spdmSign purpose ms).length = 96 := length_p384Sign _ _ _

theorem length_measurementBlocks (s : State) : s.measurementBlocks.length = 4 := by
  rw [State.measurementBlocks, List.length_map, List.length_zipIdx]
  rfl

/-- The answer with all four blocks and a nonce, before a signature. -/
def State.measureAnswer (s : State) (nonce : List Byte) : List Byte :=
  [0x12, 0x60, 0, 0, 4] ++ byteList s.measurementBlocks.flatten.length 3 ++ s.measurementBlocks.flatten ++ nonce ++ [0, 0]

theorem spdmAnswer_measure {q : Spdm} {m : List Byte} (h0 : m.getD 0 0 = 0x12) (h1 : m.getD 1 0 = 0xE0) (hst : q.stage = 3) :
    s.spdmAnswer q m = s.spdmMeasure q m := by
  simp only [State.spdmAnswer, h0, h1]
  rw [if_neg (by decide), if_neg (by decide), if_neg (by decide), if_neg (by decide), if_neg (by decide), if_neg (not_not.2 hst),
    if_neg (by decide), if_pos (by decide)]

/-- What GET_MEASUREMENTS for all blocks answers, with what is kept of it. -/
theorem spdmMeasure_all {q : Spdm} {m : List Byte} (h2 : m.getD 2 0 = 0) (h3 : m.getD 3 0 = 0xFF) (hlen : 4 ≤ m.length) :
    let answer := s.measureAnswer (beBytes (Config.nonce s.fresh).toNat 32)
    s.spdmMeasure q m = (answer, { q with measured := q.measured ++ m ++ answer }) := by
  have hsigned : (0 : Byte).getLsbD 0 = false := rfl
  have hall : (0xFF : Byte).toNat = 0xFF := rfl
  simp only [State.spdmMeasure, h2, h3, hsigned, hall, State.measureAnswer, length_measurementBlocks, ↓reduceIte, Bool.false_eq_true, ne_eq,
    not_true_eq_false, and_false, false_or]
  rw [if_neg (by omega)]
  rfl

theorem spdmMeasure_signed {q : Spdm} {m : List Byte} (h2 : m.getD 2 0 = 1) (h3 : m.getD 3 0 = 0xFF) (hlen : 37 ≤ m.length) :
    let answer := s.measureAnswer (beBytes (Config.nonce s.fresh).toNat 32)
    s.spdmMeasure q m = (answer ++ s.spdmSign "responder-measurements signing" (q.agreed ++ (q.measured ++ m ++ answer)),
      { q with measured := [] }) := by
  have hsigned : (1 : Byte).getLsbD 0 = true := rfl
  have hall : (0xFF : Byte).toNat = 0xFF := rfl
  simp only [State.spdmMeasure, h2, h3, hsigned, hall, State.measureAnswer, length_measurementBlocks, ↓reduceIte, ne_eq, not_true_eq_false,
    and_false, false_or]
  rw [if_neg (by omega)]
  rfl

theorem spdmAnswer_early {q : Spdm} {m : List Byte} (hst : q.stage ≠ 3) (hm : m.headD 0 ∈ ([0x81, 0x82, 0x83, 0xE0] : List Byte)) :
    s.spdmAnswer q (0x12 :: m) = ([0x12, 0x7F, 4, 0], { q with measured := [] }) := by
  have h0 : ((0x12 : Byte) :: m).getD 0 0 = 0x12 := rfl
  have h1 : ((0x12 : Byte) :: m).getD 1 0 = m.headD 0 := by cases m <;> rfl
  simp only [List.mem_cons, List.not_mem_nil, or_false] at hm
  rcases hm with hm | hm | hm | hm <;> simp only [State.spdmAnswer, h0, h1, hm] <;>
    rw [if_neg (by decide), if_neg (by decide), if_neg (by decide), if_neg (by decide), if_neg (by decide), if_pos hst] <;> rfl

theorem exec_doeRequest {r : DoeRequest} (hocc : s.occ = .doe r) : exec .doeRequest s = .next (s.doeRequest r) := by
  show execDoeRequest s = _
  rw [execDoeRequest, event_run]
  simp only [hocc, Option.getD_some]

/-- A message is answered, and what is kept of the exchange is as the answer says. -/
theorem doeRequest_spdm {m a : List Byte} {q : Spdm} (hocc : s.occ = .doe (.spdm m)) (h : s.spdmAnswer s.mgmt.spdm m = (a, q)) :
    exec .doeRequest s =
      .next { s.modMgmt (fun g => { g with spdm := q }) with fresh := s.fresh + 1, out := .spdm a :: s.out } := by
  rw [exec_doeRequest hocc, State.doeRequest, h]

/-! ### Counters, the patrol and power -/

theorem exec_counterFlush : exec .counterFlush s = .next ((s.counterFlush).getD s) := event_run _ s

theorem flush_loaded (h : s.mgmt.loaded = true) : s.flush = s.modMgmt (fun m => { m with store := m.counters, flushAt := s.now }) := if_pos h

theorem flush_rest (s : State) : s.flush.mem = s.mem ∧ s.flush.poison = s.poison := by
  unfold State.flush
  split <;> exact ⟨rfl, rfl⟩

/-- Ending a pass over a stack is counted, and no more. -/
def State.scrubPassed (s : State) (sector : Nat) : State :=
  if (32 * sector + 32) % Config.stackBytes = 0 then s.count (ctrStack (32 * sector / Config.stackBytes) 129) 1 else s

theorem scrubPassed_rest (s : State) (n : Nat) :
    (s.scrubPassed n).mem = s.mem ∧ (s.scrubPassed n).poison = s.poison ∧ (s.scrubPassed n).mgmt.loaded = s.mgmt.loaded := by
  unfold State.scrubPassed
  split <;> exact ⟨rfl, rfl, rfl⟩

theorem patrol_eq (s : State) (n : Nat) (r : ScrubResult) :
    s.patrol n r = match r with
      | .clean => s.scrubPassed n
      | .corrected => (s.scrubPassed n).count (ctrStack (32 * n / Config.stackBytes) (64 + hbmChannel n)) 1
      | .uncorrectable =>
        ({ s.scrubPassed n with poison := setPoison (s.scrubPassed n).poison ((Loc.hbm (32 * n)).key / 4) true 8 }.count
          (ctrStack (32 * n / Config.stackBytes) (hbmChannel n)) 1).flush := by
  cases r <;> rfl

theorem exec_patrolScrub {n : Nat} {r : ScrubResult} (hocc : s.occ = .scrub n r) : exec .patrolScrub s = .next (s.patrol n r) := by
  show execPatrolScrub s = _
  rw [execPatrolScrub, event_run]
  simp only [hocc, Option.getD_some]

/-- Poison noted and counted, and the counters flushed. -/
theorem poisoned_rest (t : State) (ps : NatSet) (k : Nat) : let u := (({ t with poison := ps } : State).count k 1).flush
    u.mem = t.mem ∧ u.poison = ps ∧ (t.mgmt.loaded = true → u.mgmt.store = u.mgmt.counters) := by
  intro u
  obtain ⟨hmem, hpoison⟩ := flush_rest (({ t with poison := ps } : State).count k 1)
  refine ⟨hmem, hpoison, fun hl => ?_⟩
  have hl' : (({ t with poison := ps } : State).count k 1).mgmt.loaded = true := hl
  rw [show u = _ from flush_loaded hl']
  rfl

theorem patrol_spec (s : State) (n : Nat) (r : ScrubResult) :
    (s.patrol n r).mem = s.mem ∧ (r ≠ .uncorrectable → (s.patrol n r).poison = s.poison) ∧
      (r = .uncorrectable → (s.patrol n r).poison = setPoison s.poison ((Loc.hbm (32 * n)).key / 4) true 8 ∧
        (s.mgmt.loaded = true → (s.patrol n r).mgmt.store = (s.patrol n r).mgmt.counters)) := by
  obtain ⟨hmem, hpoison, hloaded⟩ := scrubPassed_rest s n
  rw [patrol_eq]
  cases r with
  | clean => exact ⟨hmem, fun _ => hpoison, fun h => by cases h⟩
  | corrected => exact ⟨hmem, fun _ => hpoison, fun h => by cases h⟩
  | uncorrectable =>
    obtain ⟨hm, hp, hstore⟩ := poisoned_rest (s.scrubPassed n) (setPoison (s.scrubPassed n).poison ((Loc.hbm (32 * n)).key / 4) true 8)
      (ctrStack (32 * n / Config.stackBytes) (hbmChannel n))
    exact ⟨hm.trans hmem, fun h => absurd rfl h, fun _ => ⟨hp.trans (by rw [hpoison]), fun hl => hstore (hloaded.trans hl)⟩⟩

theorem exec_powerThrottle {slow pnow : Nat} (hocc : s.occ = .num2 slow pnow) :
    exec .powerThrottle s = .next ((if slow ≤ 224 ∧ pnow ≤ s.mgmt.plimit then
      some (s.modMgmt (fun m => { m with slow, pnow })) else none).getD s) := by
  show execPowerThrottle s = _
  rw [execPowerThrottle, event2_run _ hocc, State.throttle]

/-- What a power loss keeps: the flash, the store, and the host's memory (R412). -/
theorem powerLoss_spec (s : State) (orderly : Bool) : let t := s.powerLoss orderly
    t.exs = [] ∧ t.engines = [] ∧ t.parts = [] ∧ t.ctxs = [] ∧ t.mgmt.on = false ∧ t.mgmt.stage = 0 ∧
      t.mgmt.flashA = s.mgmt.flashA ∧ t.mgmt.flashB = s.mgmt.flashB ∧
      t.mgmt.store = (if orderly ∧ s.mgmt.loaded then s.mgmt.counters else s.mgmt.store) ∧
      t.mem = s.mem.filter (fun x => decide (2 ^ 64 ≤ x.1 ∧ x.1 < 2 * 2 ^ 64)) := by
  intro t
  refine ⟨rfl, rfl, rfl, rfl, rfl, rfl, ?_⟩
  cases orderly with
  | false => exact ⟨rfl, rfl, (if_neg (fun h => Bool.false_ne_true h.1)).symm, rfl⟩
  | true =>
    cases hl : s.mgmt.loaded with
    | false =>
      have hflush : s.flush = s := if_neg (by rw [hl]; exact Bool.false_ne_true)
      have ht : t = s.powerLoss false := congrArg (fun z => State.powerLoss z false) hflush
      rw [ht]
      exact ⟨rfl, rfl, (if_neg (fun h => Bool.false_ne_true h.2)).symm, rfl⟩
    | true =>
      have ht : t = (s.modMgmt (fun m => { m with store := m.counters, flushAt := s.now })).powerLoss false :=
        congrArg (fun z => State.powerLoss z false) (flush_loaded hl)
      rw [ht]
      exact ⟨rfl, rfl, (if_pos ⟨rfl, rfl⟩).symm, rfl⟩

theorem exec_powerLoss {orderly : Bool} (hocc : s.occ = .flag orderly) : exec .powerLoss s = .next (s.powerLoss orderly) := by
  show execPowerLoss s = _
  rw [execPowerLoss, eventB_run _ hocc, Option.getD_some]

end Sys2Proof.Machine
end

section open Sys2Proof Machine

/-- Settles O58: each event is performed in the stage or the standing it belongs to, and touches what its rule names. -/
theorem managementEventsComplete : Obligations.ManagementEventsComplete := by
  unfold Obligations.ManagementEventsComplete
  refine ⟨fun s hon => ?_, fun s hon => ⟨fun r hocc hst hcores hrep => ?_, fun m hocc hst => ?_, fun hr hst => ?_,
      fun hst hl => exec_umturTrainingDone hon hst hl, fun n bound hnb hst => ?_⟩, fun s ok hocc hr => ?_, fun s code => rfl,
    fun s a hocc hsize hline => ?_, fun s => ?_, fun s n r hocc => ⟨_, exec_patrolScrub hocc, patrol_spec s n r⟩,
    fun s slow pnow hocc => ?_, fun s orderly hocc => ⟨_, exec_powerLoss hocc, powerLoss_spec s orderly⟩⟩
  · have hno : ∀ {c : Bool}, c = false → ¬c = true := fun h => by rw [h]; exact Bool.false_ne_true
    rw [exec_powerGood hon]
    exact ⟨fun ha => congrArg _ (if_pos ha), fun ha hb => congrArg _ ((if_neg (hno ha)).trans (if_pos hb)),
      fun ha hb => congrArg _ ((if_neg (hno ha)).trans (if_neg (hno hb)))⟩
  · rw [exec_firmwareStart hocc, firmwareStart_eq hon hst hcores hrep]
    refine ⟨fun hs => ?_, fun hs => by rw [hs]; rfl⟩
    rw [hs]
    obtain ⟨hstage, hcs, hlinks⟩ := repaired_rest r.repaired (s.modMgmt (fun m =>
      { m with stage := 2, counters := m.store, cores := [r.cores0, r.cores1, r.cores2, r.cores3], flushAt := s.now,
               linkMask := r.links % 2 ^ Config.links Config.kind }))
    exact ⟨_, rfl, hstage, hcs, fun h => by rw [h]; rfl, hlinks⟩
  · rw [exec_hbmTrainingDone hocc hon hst]
    exact ⟨fun h => by rw [if_neg h], fun h => by rw [if_pos h]⟩
  · refine ⟨fun hocc => ?_, fun hocc => by rw [exec_cxlTrainingDone hocc, cxlTraining_fails hon hr hst, Option.getD_some]⟩
    rw [exec_cxlTrainingDone hocc, cxlTraining_up hon hr hst]
    obtain ⟨hmgmt, htr⟩ := trainAll_spec (List.range 16) (s.modMgmt (fun m => { m with stage := 4, cxlUp := true }))
    exact ⟨_, rfl, congrArg Mgmt.stage hmgmt, congrArg Mgmt.cxlUp hmgmt, fun n hn hb => htr n hb (.inl (List.mem_range.2 hn))⟩
  · simp only [List.mem_cons, Prod.mk.injEq, List.not_mem_nil, or_false] at hnb
    rcases hnb with ⟨rfl, rfl⟩ | ⟨rfl, rfl⟩ | ⟨rfl, rfl⟩ | ⟨rfl, rfl⟩ | ⟨rfl, rfl⟩ <;>
      exact stageTimeout_run hon hst (by decide) rfl
  · rw [exec_cxlTrainingDone hocc, cxlTraining_recovery hr, Option.getD_some]
  · rw [exec_cxlMemAccess hocc]
    refine ⟨fun hc => by rw [cxlAccess_shut hsize hline hc]; rfl, fun hc => ⟨fun hd => by rw [cxlAccess_outside hsize hline hc hd]; rfl, ?_⟩⟩
    intro base len part ia0 key p hd hp ia side
    rw [cxlAccess_decoded hsize hline hc hd hp]
    refine ⟨fun t h => ?_, fun h => ?_, fun leaf phys page h hdom => ?_⟩
    · rw [show s.memSide p _ _ _ _ _ _ _ _ _ = _ from h]; rfl
    · rw [show s.memSide p _ _ _ _ _ _ _ _ _ = _ from h]; rfl
    · rw [show s.memSide p _ _ _ _ _ _ _ _ _ = _ from h]
      have hstay : ¬(p.domainOf ia).elim false (·.moves ia) = true := by rw [domain_stays hdom]; exact Bool.false_ne_true
      simp only [State.cxlServed]
      rw [if_neg hstay]
      exact ⟨fun v hv => by rw [hv]; rfl, fun hv => by rw [hv]; rfl⟩
  · intro fw values blocks said answer
    refine ⟨fun hst hocc => ?_, fun rest hst hrest hocc => ?_, fun m hst hm hocc => ?_, fun hocc => by rw [exec_doeRequest hocc]; rfl,
      fun hocc => by rw [exec_doeRequest hocc]; rfl, fun hl hdue => ?_, fun h => ?_⟩
    · exact ⟨_, beBytes (Config.nonce s.fresh).toNat 32, length_beBytes _ _,
        doeRequest_spdm hocc ((spdmAnswer_measure rfl rfl hst).trans (spdmMeasure_all rfl rfl (Nat.le_refl 4)))⟩
    · have hlen : 37 ≤ (([0x12, 0xE0, 1, 0xFF] : List Byte) ++ rest).length := by rw [List.length_append, hrest]; decide
      exact ⟨_, beBytes (Config.nonce s.fresh).toNat 32, _, length_beBytes _ _, length_spdmSign _ _ _,
        doeRequest_spdm hocc ((spdmAnswer_measure rfl rfl hst).trans (spdmMeasure_signed rfl rfl hlen))⟩
    · exact doeRequest_spdm hocc (spdmAnswer_early hst hm)
    · have hready : (s.mgmt.loaded && decide (s.mgmt.flushAt + 60 * second ≤ s.now)) = true := by rw [hl, decide_eq_true hdue]; rfl
      rw [exec_counterFlush, State.counterFlush, if_pos hready, Option.getD_some, flush_loaded hl]
    · have hready : (s.mgmt.loaded && decide (s.mgmt.flushAt + 60 * second ≤ s.now)) = false := by
        rcases h with hl | hearly
        · rw [hl]; rfl
        · rw [decide_eq_false (Nat.not_le.2 hearly), Bool.and_false]
      rw [exec_counterFlush, State.counterFlush, hready]
      rfl
  · rw [exec_powerThrottle hocc]
    exact ⟨fun hs hp => by rw [getD_of ⟨hs, hp⟩], fun h => by rw [getD_of_not (by omega)]⟩

end

section
/-! SUPPORT. A context halted, saved, restored and killed: what each of these leaves of the records that its rules speak of. -/

namespace Sys2Proof.Machine

section
variable {s t : State} {c n : Nat}

/-! ### What moves on cores and in slots leaves the records alone -/

/-- Contexts, requests, grids, copies, partitions and plans are those of before. -/
structure SameRecords (s t : State) : Prop where
  ctxs : t.ctxs = s.ctxs
  reqs : t.reqs = s.reqs
  grids : t.grids = s.grids
  copies : t.copies = s.copies
  parts : t.parts = s.parts
  plans : t.plans = s.plans

/-- Those, and the engines. -/
structure SameStanding (s t : State) : Prop extends SameRecords s t where
  engines : t.engines = s.engines

theorem sameRecords_frames : Frames SameRecords :=
  ⟨fun _ => ⟨rfl, rfl, rfl, rfl, rfl, rfl⟩, fun h1 h2 => ⟨h2.ctxs.trans h1.ctxs, h2.reqs.trans h1.reqs, h2.grids.trans h1.grids,
    h2.copies.trans h1.copies, h2.parts.trans h1.parts, h2.plans.trans h1.plans⟩⟩

theorem sameStanding_frames : Frames SameStanding :=
  ⟨fun _ => ⟨⟨rfl, rfl, rfl, rfl, rfl, rfl⟩, rfl⟩,
    fun h1 h2 => ⟨sameRecords_frames.trans h1.toSameRecords h2.toSameRecords, h2.engines.trans h1.engines⟩⟩

theorem freeSlots_sameStanding (s : State) (l : List Nat) : SameStanding s (s.freeSlots l) := ⟨⟨rfl, rfl, rfl, rfl, rfl, rfl⟩, rfl⟩

theorem dropTeams_sameStanding (s : State) (g : Nat) : SameStanding s (s.dropTeams g) := ⟨⟨rfl, rfl, rfl, rfl, rfl, rfl⟩, rfl⟩

theorem withdraw_sameStanding (s : State) (c : Nat) : SameStanding s (s.withdraw c) := by
  have hfold := sameStanding_frames.foldl
    (f := fun (t : State) (p : Nat × Proposal) => t.freeSlots (p.2.place.flatMap (placeSlots (LRec.pair (s.propRecord p.2)))))
    (fun t p => freeSlots_sameStanding t _) (s.props.filter (fun p => (s.grids.find p.2.gid).elim false (fun g => g.ctx == c))) s
  obtain ⟨⟨hctxs, hreqs, hgrids, hcopies, hparts, hplans⟩, hengines⟩ := hfold
  exact ⟨⟨hctxs, hreqs, hgrids, hcopies, hparts, hplans⟩, hengines⟩

theorem zeroStore_sameStanding (s : State) (key n : Nat) : SameStanding s (s.zeroStore key n) := ⟨⟨rfl, rfl, rfl, rfl, rfl, rfl⟩, rfl⟩

theorem modCore_sameStanding (s : State) (k : Nat) (f : Core → Core) : SameStanding s (s.modCore k f) :=
  ⟨⟨rfl, rfl, rfl, rfl, rfl, rfl⟩, rfl⟩

theorem clearBcs_sameStanding (s : State) (c : Nat) : SameStanding s (s.clearBcs c) := by
  rw [clearBcs_eq]
  refine sameStanding_frames.foldl (f := State.clearCore c) (fun r q => ?_) _ s
  unfold State.clearCore
  split
  · exact sameStanding_frames.trans (zeroStore_sameStanding r _ _) (modCore_sameStanding _ _ _)
  · exact sameStanding_frames.refl r

/-- Requests that are forgotten leave engines' counters, and no other record. -/
theorem forget_sameRecords (s : State) (gone : Req → Bool) :
    SameRecords { s with reqs := s.reqs.filter (fun q => !gone q.2) } (s.forget gone) := by
  refine sameRecords_frames.foldl (f := State.unawait) (fun r q => ?_) (s.reqs.filter (fun q => gone q.2)) _
  unfold State.unawait
  split
  · split
    · exact sameRecords_frames.refl r
    · exact ⟨rfl, rfl, rfl, rfl, rfl, rfl⟩
  · exact sameRecords_frames.refl r

/-- A context that has just been written. -/
theorem context_of_put {m : Assoc Context} {k : Context} (h : t.ctxs = m.put c k) : t.context c = k := by
  rw [State.context, h, Assoc.get_put_self]

/-! ### Plans -/

section
variable (hplans : ∀ p ∈ s.plans, p.2.ctx ≠ c)
include hplans

theorem no_plan_of : s.plans.filter (fun p => p.2.ctx == c) = [] :=
  List.filter_eq_nil_iff.2 fun p hp => by rw [beq_iff_eq]; exact hplans p hp

theorem dropQueued_none : s.dropQueued c = s := by
  have hall : s.plans.filter (fun p => !(p.2.ctx == c && p.2.stage == .queued)) = s.plans :=
    List.filter_eq_self.2 fun p hp => by rw [beq_eq_false_iff_ne.2 (hplans p hp)]; rfl
  rw [State.dropQueued, hall]

/-- A context without plans has none to stop. -/
theorem stopPlans_none : s.stopPlans c = s := by
  rw [State.stopPlans, dropQueued_none hplans]
  show (s.plans.filter (fun p => p.2.ctx == c)).foldl _ s = s
  rw [no_plan_of hplans]
  rfl

theorem killPlans_none : s.killPlans c = s := by
  have hmap : s.plans.map (fun p => if p.2.ctx = c then (p.1, { p.2 with landing := Landing.none }) else p) = s.plans :=
    (List.map_congr_left fun p hp => if_neg (hplans p hp)).trans (List.map_id' _)
  rw [State.killPlans, hmap]
  exact stopPlans_none hplans

end

/-! ### The halt (R398, R350) -/

theorem running_iff (s : State) (c : Nat) : s.running c = true ↔ (s.context c).cstate = 1 := beq_iff_eq

theorem exec_kettleFire (hocc : s.occ = .num c) (hrun : s.running c = true) (hung : s.hungTeams c ≠ []) :
    exec .kettleFire s = .next (s.preempt c true) := by
  show execKettleFire s = _
  rw [execKettleFire, event1_run _ hocc, State.kettleFire, if_pos ⟨hrun, hung⟩, Option.getD_some]

/-- A context as it halts. -/
def Context.halted (k : Context) (hung : Bool) (l : List (Nat × Nat)) (now : Nat) : Context :=
  { k with cstate := 2, hung, hangs := l.take 64, nhang := l.length, haltAt := now }

theorem withdraw_rest (s : State) (c : Nat) :
    (s.withdraw c).mem = s.mem ∧ (s.withdraw c).teams = s.teams ∧ (s.withdraw c).exs = s.exs := by
  have hf : Frames (fun s t : State => t.mem = s.mem ∧ t.teams = s.teams ∧ t.exs = s.exs) :=
    ⟨fun _ => ⟨rfl, rfl, rfl⟩, fun h1 h2 => ⟨h2.1.trans h1.1, h2.2.1.trans h1.2.1, h2.2.2.trans h1.2.2⟩⟩
  exact hf.foldl
    (f := fun (t : State) (p : Nat × Proposal) => t.freeSlots (p.2.place.flatMap (placeSlots (LRec.pair (s.propRecord p.2)))))
    (fun t p => ⟨rfl, rfl, rfl⟩) (s.props.filter (fun p => (s.grids.find p.2.gid).elim false (fun g => g.ctx == c))) s

theorem preempt_eq (hplans : ∀ p ∈ s.plans, p.2.ctx ≠ c) (hfin : s.finishChunks c = s) (hung : Bool) :
    s.preempt c hung = (s.modCtx c (fun k => k.halted hung (s.hungTeams c) s.now)).withdraw c := by
  rw [State.preempt, hfin]
  refine stopPlans_none (s := (s.modCtx c (fun k => k.halted hung (s.hungTeams c) s.now)).withdraw c) ?_
  rw [(withdraw_sameStanding _ c).plans]
  exact hplans

theorem preempt_spec (hplans : ∀ p ∈ s.plans, p.2.ctx ≠ c) (hfin : s.finishChunks c = s) (hung : Bool) :
    (s.preempt c hung).context c = (s.context c).halted hung (s.hungTeams c) s.now ∧ (s.preempt c hung).mem = s.mem ∧
      (s.preempt c hung).teams = s.teams ∧ (s.preempt c hung).exs = s.exs ∧ (s.preempt c hung).grids = s.grids := by
  rw [preempt_eq hplans hfin hung]
  have hsame := withdraw_sameStanding (s.modCtx c (fun k => k.halted hung (s.hungTeams c) s.now)) c
  obtain ⟨hmem, hteams, hexs⟩ := withdraw_rest (s.modCtx c (fun k => k.halted hung (s.hungTeams c) s.now)) c
  refine ⟨?_, hmem, hteams, hexs, hsame.grids⟩
  rw [State.context, hsame.ctxs]
  exact context_modCtx s c _

theorem finishChunks_head {core : Nat} {k : Core} {op z : MatOp} {g : Team} (hcores : s.cores = [(core, k)])
    (hhead : k.queue.head? = some op) (hop : op.insn.op = .mma) (hready : op.ready = true) (hg : s.teams.find op.team = some g)
    (hc : g.ctx = c) (hchunk : s.mmaChunk core = some t) (hz : (t.core core).queue.head? = some z) (hid : z.id = op.id)
    (hnext : z.chunk = op.chunk + 1) : s.finishChunks c = t := by
  obtain ⟨rest, hq⟩ : ∃ rest, k.queue = op :: rest := by
    cases hk : k.queue with
    | nil => rw [hk] at hhead; cases hhead
    | cons x rest => rw [hk] at hhead; exact ⟨rest, by rw [Option.some.inj hhead]⟩
  rw [State.finishChunks, hcores]
  simp only [List.foldl_cons, List.foldl_nil, hq, hop, hready, hg, hc, hchunk, hz, hid, hnext, Option.elim_some, beq_self_eq_true,
    Bool.and_self, and_self, ↓reduceIte]

/-! ### Requests by a system register (R389) -/

section
variable {pi : Nat} {p : Partition} {e : Engine} {v x : W64} {pick : W64 → Bool} {f : State → Nat → W64 → Option State}

theorem ctlEvent_eq (he : s.engines.find n = some e) (hp : s.partOfEngine n = some (pi, p)) (hs : e.sysop = some (v, x))
    (hg : Sel.group v = 4) (hw : Sel.word v = 5) (hrun : s.running e.ctx = true) (hfirst : v.getLsbD 63 = false)
    (hpick : pick x = true) :
    s.ctlEvent n pick f = f ((s.sysWrite n pi p v x).finishQ n) (Sel.ctx v) x := by
  have hword : (isWord 4 5 v x && pick x) = true := by rw [isWord, hg, hw, hpick]; rfl
  have href : s.sysRefused n p v x = false := by simp only [State.sysRefused, hg, hw]
  have hev : s.sysEvent n (fun v x => isWord 4 5 v x && pick x) = some ((s.sysWrite n pi p v x).finishQ n) := by
    rw [sysEvent_eq (pick := fun v x => isWord 4 5 v x && pick x) he hp hs hword hrun hfirst, href, if_neg Bool.false_ne_true,
      if_neg (by rw [hg]; decide)]
  rw [State.ctlEvent, he]
  simp only [Option.bind_some, hs]
  rw [hev, Option.bind_some]

end

theorem exec_contextKill (hocc : s.occ = .num n) :
    exec .contextKill s = .next ((s.ctlEvent n (fun x => bit x.toNat 6) (fun t c _ => some (t.askKill c))).getD s) := by
  show execContextKill s = _
  rw [execContextKill, event1_run _ hocc]

theorem exec_preemptRequest (hocc : s.occ = .num n) :
    exec .preemptRequest s =
      .next ((s.ctlEvent n (fun x => bits x.toNat 6 4 == 1) (fun t c _ => some (t.askPreempt c))).getD s) := by
  show execPreemptRequest s = _
  rw [execPreemptRequest, event1_run _ hocc]

theorem exec_restoreRequest (hocc : s.occ = .num n) :
    exec .restoreRequest s = .next ((s.ctlEvent n (fun x => bits x.toNat 6 5 == 1) (fun t c x =>
      s.structEvent c ((t.askRestore c).map (fun t => t.askPreemptWith c x)))).getD s) := by
  show execRestoreRequest s = _
  rw [execRestoreRequest, event1_run _ hocc]

theorem askPreempt_running (h : (s.context c).cstate = 1) : s.askPreempt c = s.preempt c false := if_pos h

theorem askPreempt_restoring (h : (s.context c).cstate = 4) : s.askPreempt c = s.modCtx c (fun k => { k with preqPending := true }) := by
  rw [State.askPreempt, if_neg (by omega), if_pos h]

theorem askPreempt_other (h1 : (s.context c).cstate ≠ 1) (h4 : (s.context c).cstate ≠ 4) : s.askPreempt c = s := by
  rw [State.askPreempt, if_neg h1, if_neg h4]

/-- Bits 6 to lo of a control word when those above lo are clear. -/
theorem bits_6_5 {x : Nat} (h6 : bit x 6 = false) (h5 : bit x 5 = true) : (bits x 6 5 == 1) = true := by
  simp only [bit, bits, beq_eq_false_iff_ne, beq_iff_eq, ne_eq] at *
  omega

theorem bits_6_4 {x : Nat} (h6 : bit x 6 = false) (h5 : bit x 5 = false) (h4 : bit x 4 = true) : (bits x 6 4 == 1) = true := by
  simp only [bit, bits, beq_eq_false_iff_ne, beq_iff_eq, ne_eq] at *
  omega

section
variable {x : W64}

theorem askPreemptWith_asked (h : bit x.toNat 4 = true) : s.askPreemptWith c x = s.askPreempt c := if_pos h

theorem askPreemptWith_none (h : bit x.toNat 4 = false) : s.askPreemptWith c x = s := if_neg (by rw [h]; exact Bool.false_ne_true)

theorem askRestore_other (h : (s.context c).cstate ≠ 3) : s.askRestore c = .ok s := if_pos h

theorem askRestore_right (h : (s.context c).cstate = 3) (hr : s.headerRight c = .ok true) :
    s.askRestore c = .ok (s.modCtx c (fun k => { k with cstate := 4 })) := by
  rw [State.askRestore, if_neg (not_not.2 h), hr]
  rfl

/-- A restore refused: cause 1, and the save vector. -/
def State.restoreRefused (s : State) (c : Nat) : State :=
  { s.modCtx c (fun k => { k with cause := 1 }) with irqs := (s.context c).svec :: s.irqs }

theorem restoreRefused_cstate (s : State) (c : Nat) : ((s.restoreRefused c).context c).cstate = (s.context c).cstate := by
  rw [context_of_put (t := s.restoreRefused c) rfl]

theorem askRestore_wrong (h : (s.context c).cstate = 3) (hr : s.headerRight c = .ok false) :
    s.askRestore c = .ok (s.restoreRefused c) := by
  rw [State.askRestore, if_neg (not_not.2 h), hr]
  rfl

/-- Where a context neither runs nor restores, nothing is to be pre-empted. -/
theorem askPreemptWith_idle (h1 : (s.context c).cstate ≠ 1) (h4 : (s.context c).cstate ≠ 4) : s.askPreemptWith c x = s := by
  cases hb : bit x.toNat 4 with
  | false => exact askPreemptWith_none hb
  | true => rw [askPreemptWith_asked hb, askPreempt_other h1 h4]

/-- A context whose restore begins is in cstate 4, and a pre-emption asked for with it waits. -/
theorem restoring_spec (s : State) (c : Nat) (x : W64) :
    let r := (s.modCtx c (fun k => { k with cstate := 4 })).askPreemptWith c x
    r.ctxs.find c = some { s.context c with cstate := 4, preqPending := (s.context c).preqPending || bit x.toNat 4 } ∧
      r.mem = s.mem ∧ r.teams = s.teams := by
  intro r
  cases hb : bit x.toNat 4 with
  | false =>
    rw [show r = _ from askPreemptWith_none hb, Bool.or_false]
    exact ⟨Assoc.find_put_self _ _ _, rfl, rfl⟩
  | true =>
    have h4 : ((s.modCtx c (fun k => { k with cstate := 4 })).context c).cstate = 4 := by rw [context_modCtx]
    rw [show r = _ from (askPreemptWith_asked hb).trans (askPreempt_restoring h4), Bool.or_true]
    refine ⟨(Assoc.find_put_self _ _ _).trans ?_, rfl, rfl⟩
    rw [context_modCtx]

end

/-! ### The save area (R399, R402) -/

theorem structEvent_ok (s t : State) (c : Nat) : s.structEvent c (.ok t) = some t := rfl

theorem exec_saveComplete {a : State} (hocc : s.occ = .num c) (hst : (s.context c).cstate = 2) (hleft : s.localLeft c = false)
    (hplans : ∀ p ∈ s.plans, p.2.ctx ≠ c) :
    let ts := s.resident c
    let z := s.modCtx c (fun k => { k with corelist := (ts.flatMap (fun t => t.2.coreList)).eraseDups })
    (ts.foldl (fun s t => s.leaveTeam c t.1 t.2) z).putArea c ts = .ok a →
    let r := (a.modCtx c (fun k => { k with cstate := 3, saved := ts.map (·.1), written := k.log.length })).takePairs c
    exec .saveComplete s = .next { r with irqs := (r.context c).svec :: r.irqs } := by
  intro ts z ha r
  have hno : s.plans.any (fun p => p.2.ctx == c) = false := List.any_eq_false.2 fun p hp => by rw [beq_iff_eq]; exact hplans p hp
  have hready : ¬((s.context c).cstate ≠ 2 ∨ s.localLeft c = true) := by rw [hst, hleft]; decide
  have hsave : s.saveComplete c = some { r with irqs := (r.context c).svec :: r.irqs } := by
    rw [State.saveComplete, if_neg hready]
    show (if (s.stopPlans c).plans.any _ then _ else _) = _
    rw [stopPlans_none hplans, hno, if_neg Bool.false_ne_true]
    show s.structEvent c (((ts.foldl (fun s t => s.leaveTeam c t.1 t.2) z).putArea c ts).map _) = _
    rw [ha]
    rfl
  show execSaveComplete s = _
  rw [execSaveComplete, event1_run _ hocc, hsave, Option.getD_some]

/-! ### Pairs (R254) -/

section
variable {pi : Nat} {p : Partition} (hp : s.parts.find pi = some p)
include hp

theorem mem_takePairs {o : OpenPair} (hc : o.ctx = c) (ho : o ∈ p.pairs) : (pi, o) ∈ ((s.takePairs c).context c).pairs := by
  have hpairs : ((s.takePairs c).context c).pairs =
      s.parts.flatMap (fun p => (p.2.pairs.filter (fun o => o.ctx == c)).map (fun o => (p.1, o))) :=
    congrArg Context.pairs (context_of_put (t := s.takePairs c) rfl)
  rw [hpairs]
  refine List.mem_flatMap.2 ⟨(pi, p), Assoc.mem_of_find hp, List.mem_map.2 ⟨o, List.mem_filter.2 ⟨ho, beq_iff_eq.2 hc⟩, rfl⟩⟩

theorem takePairs_part : ∃ q, (s.takePairs c).parts.find pi = some q ∧ ∀ o ∈ q.pairs, o.ctx ≠ c := by
  have hfind : (s.takePairs c).parts.find pi = some { p with pairs := p.pairs.filter (fun o => o.ctx != c) } := by
    refine (Assoc.find_map (fun _ (y : Partition) => { y with pairs := y.pairs.filter (fun o => o.ctx != c) }) pi s.parts).trans ?_
    rw [hp]
    rfl
  exact ⟨_, hfind, fun o ho => bne_iff_ne.1 (List.mem_filter.1 ho).2⟩

end

/-- Pairs put into the publish tables of their partitions. -/
def State.placePairs (s : State) (l : List (Nat × OpenPair)) : State :=
  l.foldl (fun s q => s.modPart q.1 (fun p => { p with pairs := p.pairs ++ [q.2] })) s

theorem placePairs_part {pi : Nat} (o : OpenPair) (l : List (Nat × OpenPair)) : ∀ (s : State) (p : Partition), s.parts.find pi = some p →
    ∃ q, (s.placePairs l).parts.find pi = some q ∧ (o ∈ q.pairs ↔ o ∈ p.pairs ∨ (pi, o) ∈ l) := by
  induction l with
  | nil => exact fun s p hp => ⟨p, hp, by simp⟩
  | cons x l ih =>
    intro s p hp
    by_cases hx : pi = x.1
    · have hstep : (s.modPart x.1 (fun p => { p with pairs := p.pairs ++ [x.2] })).parts.find pi = some { p with pairs := p.pairs ++ [x.2] } := by
        rw [hx] at hp ⊢
        exact Assoc.find_alter_some _ hp
      obtain ⟨q, hq, hiff⟩ := ih _ _ hstep
      refine ⟨q, hq, hiff.trans ?_⟩
      have hpair : (pi, o) = x ↔ o = x.2 := by rw [Prod.ext_iff]; simp [hx]
      rw [List.mem_append, List.mem_singleton, List.mem_cons, hpair, or_assoc]
    · have hstep : (s.modPart x.1 (fun p => { p with pairs := p.pairs ++ [x.2] })).parts.find pi = some p :=
        (Assoc.find_alter_of_ne _ _ hx).trans hp
      obtain ⟨q, hq, hiff⟩ := ih _ _ hstep
      have hpair : (pi, o) ≠ x := fun h => hx (congrArg Prod.fst h)
      exact ⟨q, hq, hiff.trans (by rw [List.mem_cons, or_iff_right hpair])⟩

theorem givePairs_part {pi : Nat} {p : Partition} (hp : s.parts.find pi = some p) (o : OpenPair) :
    ∃ q, (s.givePairs c).parts.find pi = some q ∧ (o ∈ q.pairs ↔ o ∈ p.pairs ∨ (pi, o) ∈ (s.context c).pairs) :=
  placePairs_part o (s.context c).pairs s p hp

/-! ### The header (R402) -/

theorem headerBits_fields (sgen fid crc ncores nhang nlog : Nat) (hung : Bool) : let h := headerBits sgen fid hung crc ncores nhang nlog
    bits h 15 0 = 1 ∧ bits h 31 16 = sgen % 2 ^ 16 ∧ bits h 43 32 = fid % 2 ^ 12 ∧ bit h 44 = hung ∧ bits h 63 45 = 0 ∧
      bits h 127 64 = crc % 2 ^ 64 ∧ bits h 143 128 = ncores % 2 ^ 16 ∧ bits h 159 144 = nhang % 2 ^ 16 ∧
      bits h 191 160 = nlog % 2 ^ 32 ∧ h < 2 ^ 192 := by
  have hs : sgen % 2 ^ 16 < 2 ^ 16 := Nat.mod_lt _ (Nat.two_pow_pos _)
  have hf : fid % 2 ^ 12 < 2 ^ 12 := Nat.mod_lt _ (Nat.two_pow_pos _)
  have hr : crc % 2 ^ 64 < 2 ^ 64 := Nat.mod_lt _ (Nat.two_pow_pos _)
  have hn : ncores % 2 ^ 16 < 2 ^ 16 := Nat.mod_lt _ (Nat.two_pow_pos _)
  have hh : nhang % 2 ^ 16 < 2 ^ 16 := Nat.mod_lt _ (Nat.two_pow_pos _)
  have hl : nlog % 2 ^ 32 < 2 ^ 32 := Nat.mod_lt _ (Nat.two_pow_pos _)
  unfold headerBits
  generalize sgen % 2 ^ 16 = a at *
  generalize fid % 2 ^ 12 = b at *
  generalize crc % 2 ^ 64 = d at *
  generalize ncores % 2 ^ 16 = e at *
  generalize nhang % 2 ^ 16 = g at *
  generalize nlog % 2 ^ 32 = k at *
  cases hung <;> simp only [bits, bit, Bool.false_eq_true, ↓reduceIte, beq_eq_false_iff_ne, beq_iff_eq, ne_eq] <;> omega

/-! ### Late replies (R401) -/

section
variable {r : Req}

/-- What becomes of an answered request of a context that does not run. -/
def State.lateAnswer (s : State) (n : Nat) (r : Req) : Option State :=
  let st := (s.context r.ctx).cstate
  if st = 5 ∨ st = 6 ∨ st = 0 then some { s with reqs := s.reqs.del n }
  else if r.idempotent then (if r.failedHere then none else some { s with reqs := s.reqs.put n { r with phase := .halted } })
  else if st = 4 then none
  else s.logReply r.ctx n r

theorem exec_lateReply (hocc : s.occ = .num n) (hr : s.reqs.find n = some r) (hopen : r.open = false)
    (hown : r.engineOwned = false) (hst : (s.context r.ctx).cstate ≠ 1) : exec .lateReply s = .next ((s.lateAnswer n r).getD s) := by
  have hrun : s.running r.ctx = false := beq_eq_false_iff_ne.2 hst
  have hlate : s.lateReply n = s.lateAnswer n r := by
    simp only [State.lateReply, hr, hopen, hrun, hown, Bool.false_eq_true, or_self, ↓reduceIte]
    rfl
  show execLateReply s = _
  rw [execLateReply, event_run]
  simp only [hocc, hlate]

/-- A request that is gone, and one whose reply stands in the log of its context. -/
def State.dropReq (s : State) (n : Nat) : State := { s with reqs := s.reqs.del n }
def State.logged (s : State) (n : Nat) (r : Req) : State :=
  (s.dropReq n).modCtx r.ctx (fun k => { k with log := k.log ++ [Logged.req r] })

theorem logReply_eq (s : State) (n : Nat) (r : Req) : s.logReply r.ctx n r = s.structEvent r.ctx ((s.logged n r).putRest r.ctx) := rfl

theorem logged_cstate (s : State) (n : Nat) (r : Req) : ((s.logged n r).context r.ctx).cstate = (s.context r.ctx).cstate := by
  rw [State.logged, context_modCtx]
  rfl

/-- What a late reply does, by the standing of its context and by whether it only reads. -/
theorem lateReply_spec (hocc : s.occ = .num n) (hr : s.reqs.find n = some r) (hopen : r.open = false) (hown : r.engineOwned = false) :
    ((s.context r.ctx).cstate = 0 ∨ (s.context r.ctx).cstate = 5 ∨ (s.context r.ctx).cstate = 6 →
      exec .lateReply s = .next (s.dropReq n)) ∧
    ((s.context r.ctx).cstate = 2 ∨ (s.context r.ctx).cstate = 3 ∨ (s.context r.ctx).cstate = 4 → r.idempotent = true →
      r.failedHere = false → exec .lateReply s = .next { s with reqs := s.reqs.put n { r with phase := .halted } }) ∧
    ((s.context r.ctx).cstate = 4 → r.idempotent = false → exec .lateReply s = .next s) ∧
    ((s.context r.ctx).cstate = 2 → r.idempotent = false → exec .lateReply s = .next (s.logged n r)) ∧
    ∀ t, (s.context r.ctx).cstate = 3 → r.idempotent = false → (s.logged n r).putRest r.ctx = .ok t → exec .lateReply s = .next t := by
  have hlate := fun hst => exec_lateReply hocc hr hopen hown (s := s) hst
  refine ⟨fun h => ?_, fun h hi hf => ?_, fun h hi => ?_, fun h hi => ?_, fun t h hi ht => ?_⟩ <;>
    rw [hlate (by omega), State.lateAnswer]
  · rw [if_pos (by omega), Option.getD_some]
    rfl
  · rw [if_neg (by omega), if_pos hi, hf]
    rfl
  · rw [if_neg (by omega), hi, if_neg Bool.false_ne_true, if_pos h]
    rfl
  · have hrest : (s.logged n r).putRest r.ctx = .ok (s.logged n r) :=
      if_neg (by rw [logged_cstate, h]; decide)
    rw [if_neg (by omega), hi, if_neg Bool.false_ne_true, if_neg (by omega), logReply_eq, hrest]
    rfl
  · have hrest : (s.logged n r).putRest r.ctx = .ok t := ht
    rw [if_neg (by omega), hi, if_neg Bool.false_ne_true, if_neg (by omega), logReply_eq, hrest]
    rfl

end

/-! ### Restore (R404) -/

theorem exec_restoreComplete {a : State} (hocc : s.occ = .num c) (hst : (s.context c).cstate = 4) (hsaved : (s.context c).saved = [])
    (ha : (s.returned c).foldlM (fun (z : State) (t : Nat × Team) =>
      t.2.halves.foldlM (fun z h => z.loadHalf c (s.returned c) t.1 t.2 h) z) s = .ok a) :
    let k := s.context c
    let ts := s.returned c
    let r := k.log.foldl State.applyLog a
    let r := ts.foldl (fun s t => s.rejoin t.1 t.2) (r.goOn c (r.now - k.haltAt) ts)
    let z := (r.modCtx c (fun k =>
      { k with cstate := 1, hung := false, sgen := (k.sgen + 1) % 2 ^ 16, log := [], written := 0, preqPending := false })).givePairs c
    exec .restoreComplete s = .next (if k.preqPending then z.preempt c false else z) := by
  intro k ts r r' z
  have hready : ¬((s.context c).cstate ≠ 4 ∨ (s.context c).saved ≠ []) := by rw [hst, hsaved]; simp
  have hrest : s.restoreComplete c = some (if k.preqPending then z.preempt c false else z) := by
    rw [State.restoreComplete, if_neg hready]
    show s.structEvent c (((s.returned c).foldlM (fun (z : State) (t : Nat × Team) =>
      t.2.halves.foldlM (fun z h => z.loadHalf c (s.returned c) t.1 t.2 h) z) s).map _) = _
    rw [ha]
    rfl
  show execRestoreComplete s = _
  rw [execRestoreComplete, event1_run _ hocc, hrest, Option.getD_some]

/-- A restored request keeps all but its place. -/
theorem movedReq_eq (s : State) (ts : List (Nat × Team)) (r : Req) : ∃ core ia, s.movedReq ts r = { r with core, ia } := by
  unfold State.movedReq
  dsimp only
  split
  · exact ⟨_, r.ia, rfl⟩
  · split
    · split
      · split
        · exact ⟨_, _, rfl⟩
        · exact ⟨_, _, rfl⟩
      · exact ⟨r.core, r.ia, rfl⟩
    · exact ⟨r.core, r.ia, rfl⟩

/-- A request of a context as it goes on under the next sgen. -/
def State.redone (s : State) (ts : List (Nat × Team)) (gen : Nat) (r : Req) : Req :=
  let q : Req := { s.movedReq ts r with sgen := gen }
  if q.idempotent && !q.failedHere then { q with phase := .sent, gen := s.genOf q } else q

theorem goOn_find {d : Nat} {ts : List (Nat × Team)} {r : Req} (hr : s.reqs.find n = some r) (hc : r.ctx = c)
    (hown : r.engineOwned = false) :
    (s.goOn c d ts).reqs.find n = some (s.redone ts (((s.context c).sgen + 1) % 2 ^ 16) r) := by
  have hmine : (r.ctx != c || r.engineOwned) = false := by rw [hc, hown, bne_self_eq_false]; rfl
  refine (Assoc.find_map (fun _ (r : Req) => if (r.ctx != c || r.engineOwned) = true then r else
    s.redone ts (((s.context c).sgen + 1) % 2 ^ 16) r) n s.reqs).trans ?_
  rw [hr, Option.map_some, hmine, if_neg Bool.false_ne_true]

/-- A read goes out again; a write, and what failed at its issue, stands as it did. -/
theorem redone_spec (s : State) (ts : List (Nat × Team)) (gen : Nat) (r : Req) :
    (s.redone ts gen r).sgen = gen ∧ (s.redone ts gen r).landing = r.landing ∧ (s.redone ts gen r).order = r.order ∧
      (r.idempotent = true → r.failedHere = false → (s.redone ts gen r).phase = .sent) ∧
      (r.idempotent = false ∨ r.failedHere = true → (s.redone ts gen r).phase = r.phase) := by
  obtain ⟨core, ia, hmoved⟩ := movedReq_eq s ts r
  have hcond : ∀ q : Req, q = { r with core, ia, sgen := gen } → q.idempotent = r.idempotent ∧ q.failedHere = r.failedHere := by
    rintro q rfl
    exact ⟨rfl, rfl⟩
  obtain ⟨hi, hf⟩ := hcond _ rfl
  rw [State.redone, hmoved]
  dsimp only
  rw [hi, hf]
  cases r.idempotent <;> cases r.failedHere <;> simp

/-! ### The kill and the failure of a context (R395, R408) -/

/-- What a context has in flight ends: its requests but for the writes on their way, its operations and its engines. -/
theorem dropWork_spec (s : State) (c : Nat) :
    (s.dropWork c).ctxs = s.ctxs ∧ (s.dropWork c).grids = s.grids ∧ (s.dropWork c).parts = s.parts ∧
      (s.dropWork c).reqs = s.reqs.filter (fun q => q.2.survives c) ∧
      (s.dropWork c).copies = s.copies.filter (fun q => q.2.ctx != c) ∧
      ∀ e ∈ (s.dropWork c).engines, e.2.ctx = c → e.2.en = false ∧ e.2.state = 0 := by
  have hsame := forget_sameRecords ((s.dropOps c).emptyBuffers c) (fun r => !r.survives c)
  refine ⟨hsame.ctxs, hsame.grids, hsame.parts, ?_, hsame.copies, fun e he hc => ?_⟩
  · refine hsame.reqs.trans ?_
    simp only [Bool.not_not]
    rfl
  · obtain ⟨x, -, rfl⟩ := List.mem_map.1 he
    by_cases hx : x.2.ctx = c
    · rw [if_pos (beq_iff_eq.2 hx)]
      exact ⟨rfl, rfl⟩
    · rw [if_neg (fun h => hx (beq_iff_eq.1 h))] at hc
      exact absurd hc hx

/-- The slots of a context's teams freed, and the engines that they own or wait for. -/
def State.coresLeft (s : State) (c : Nat) : State :=
  let gone := (s.teams.filter (fun t => t.2.ctx == c)).map (·.1)
  let s := (s.resident c).foldl (fun s t => s.freeSlots t.2.slotList) s
  { s with cores := s.cores.map (fun (k : Nat × Core) =>
    (k.1, if k.2.owner.elim false gone.contains then { k.2 with owner := none, queue := [], waiting := k.2.waiting.filter (fun t => !gone.contains t) }
          else { k.2 with waiting := k.2.waiting.filter (fun t => !gone.contains t) })) }

theorem coresLeft_sameStanding (s : State) (c : Nat) : SameStanding s (s.coresLeft c) := by
  obtain ⟨⟨hctxs, hreqs, hgrids, hcopies, hparts, hplans⟩, hengines⟩ := sameStanding_frames.foldl
    (f := fun (s : State) (t : Nat × Team) => s.freeSlots t.2.slotList) (fun s t => freeSlots_sameStanding s _) (s.resident c) s
  exact ⟨⟨hctxs, hreqs, hgrids, hcopies, hparts, hplans⟩, hengines⟩

/-- The records of the teams of a context's grids gone. -/
def State.teamsLeft (s : State) (c : Nat) : State := (s.grids.filter (fun g => g.2.ctx == c)).foldl (fun s g => s.dropTeams g.1) s

theorem teamsLeft_sameStanding (s : State) (c : Nat) : SameStanding s (s.teamsLeft c) :=
  sameStanding_frames.foldl (f := fun (s : State) (g : Nat × Grid) => s.dropTeams g.1) (fun s g => dropTeams_sameStanding s g.1) _ s

/-- Teams and grids of a context leave what the other records say. -/
theorem dropGrids_eq (s : State) (c : Nat) :
    ∃ u, SameStanding s u ∧ s.dropGrids c = { u with grids := s.grids.filter (fun g => g.2.ctx != c) } := by
  have hsame := sameStanding_frames.trans (coresLeft_sameStanding s c) (teamsLeft_sameStanding (s.coresLeft c) c)
  refine ⟨(s.coresLeft c).teamsLeft c, hsame, ?_⟩
  rw [← hsame.grids]
  rfl

theorem survives_iff {r : Req} (hc : r.ctx = c) (h : r.survives c = true) : r.writes = true ∧ globalSpace r.space = true := by
  simp only [Req.survives, hc, bne_self_eq_false, Bool.false_or, Bool.and_eq_true] at h
  obtain ⟨⟨⟨⟨hspace, -⟩, hwrites⟩, -⟩, -⟩ := h
  exact ⟨hwrites, hspace⟩

/-- What a context has on cores and in records is taken from it, its own record aside. -/
def State.emptied (s : State) (c : Nat) : State := (((s.dropWork c).dropGrids c).closePairs c).clearBcs c

theorem emptied_spec (s : State) (c : Nat) : let z := s.emptied c
    z.ctxs = s.ctxs ∧ (∀ q ∈ z.reqs, q.2.ctx = c → q.2.writes = true ∧ globalSpace q.2.space = true) ∧
      (∀ e ∈ z.engines, e.2.ctx = c → e.2.en = false ∧ e.2.state = 0) ∧ (∀ g ∈ z.grids, g.2.ctx ≠ c) ∧ (∀ x ∈ z.copies, x.2.ctx ≠ c) ∧
      (∀ p ∈ z.parts, ∀ o ∈ p.2.pairs, o.ctx ≠ c) := by
  intro z
  obtain ⟨hctxs, hgrids, hparts, hreqs, hcopies, hengines⟩ := dropWork_spec s c
  obtain ⟨u, hu, hdrop⟩ := dropGrids_eq (s.dropWork c) c
  have hz : SameStanding (((s.dropWork c).dropGrids c).closePairs c) z := clearBcs_sameStanding _ c
  rw [hdrop] at hz
  have hzreqs : z.reqs = s.reqs.filter (fun q => q.2.survives c) := hz.reqs.trans (hu.reqs.trans hreqs)
  have hzengines : z.engines = (s.dropWork c).engines := hz.engines.trans hu.engines
  have hzgrids : z.grids = (s.dropWork c).grids.filter (fun g => g.2.ctx != c) := hz.grids
  have hzcopies : z.copies = s.copies.filter (fun q => q.2.ctx != c) := hz.copies.trans (hu.copies.trans hcopies)
  have hzparts : z.parts = u.parts.map (fun p => (p.1, { p.2 with pairs := p.2.pairs.filter (fun o => o.ctx != c) })) := hz.parts
  refine ⟨hz.ctxs.trans (hu.ctxs.trans hctxs), fun q hq hc => ?_, fun e he => ?_, fun g hg => ?_, fun x hx => ?_, fun p hp o ho => ?_⟩
  · rw [hzreqs] at hq
    exact survives_iff hc (List.mem_filter.1 hq).2
  · rw [hzengines] at he
    exact hengines e he
  · rw [hzgrids] at hg
    exact bne_iff_ne.1 (List.mem_filter.1 hg).2
  · rw [hzcopies] at hx
    exact bne_iff_ne.1 (List.mem_filter.1 hx).2
  · rw [hzparts] at hp
    obtain ⟨y, -, rfl⟩ := List.mem_map.1 hp
    exact bne_iff_ne.1 (List.mem_filter.1 ho).2

/-- A context as it begins to stop, and as it has stopped. -/
def Context.stopping (k : Context) (st old : Nat) : Context := { k with cstate := st, dying := if st = 5 then some old else none }
def Context.stopped' (k : Context) : Context :=
  { k with traps := [], log := [], written := 0, saved := [], hangs := [], pairs := [], preqPending := false }

theorem stopCtx_eq (st : Nat) (hplans : ∀ p ∈ s.plans, p.2.ctx ≠ c) :
    s.stopCtx c st = ((((s.modCtx c (fun k => k.stopping st (s.context c).cstate)).withdraw c).emptied c).modCtx c Context.stopped') := by
  have hwd := withdraw_sameStanding (s.modCtx c (fun k => k.stopping st (s.context c).cstate)) c
  have hkill := killPlans_none (s := (s.modCtx c (fun k => k.stopping st (s.context c).cstate)).withdraw c) (c := c)
    (by rw [hwd.plans]; exact hplans)
  show (((((((s.modCtx c (fun k => k.stopping st (s.context c).cstate)).withdraw c).killPlans c).dropWork c).dropGrids c).closePairs
    c).clearBcs c).modCtx c Context.stopped' = _
  rw [hkill]
  rfl

/-- A context that stops is in its new state with nothing logged, its semaphores and its save area stay, and nothing else of it is left but
writes on their way to memory. -/
theorem stopCtx_spec (st : Nat) (hplans : ∀ p ∈ s.plans, p.2.ctx ≠ c) :
    let z := s.stopCtx c st
    let k := z.context c
    k.cstate = st ∧ k.traps = [] ∧ k.log = [] ∧ k.sems = (s.context c).sems ∧ k.sabase = (s.context c).sabase ∧
      (∀ q ∈ z.reqs, q.2.ctx = c → q.2.writes = true ∧ globalSpace q.2.space = true) ∧
      (∀ e ∈ z.engines, e.2.ctx = c → e.2.en = false ∧ e.2.state = 0) ∧ (∀ g ∈ z.grids, g.2.ctx ≠ c) ∧ (∀ x ∈ z.copies, x.2.ctx ≠ c) ∧
      (∀ p ∈ z.parts, ∀ o ∈ p.2.pairs, o.ctx ≠ c) := by
  intro z k
  have hz : z = _ := stopCtx_eq st hplans
  obtain ⟨hctxs, hrest⟩ := emptied_spec ((s.modCtx c (fun k => k.stopping st (s.context c).cstate)).withdraw c) c
  have hctx : ((((s.modCtx c (fun k => k.stopping st (s.context c).cstate)).withdraw c).emptied c).context c) =
      (s.context c).stopping st (s.context c).cstate := by
    rw [State.context, hctxs, (withdraw_sameStanding _ c).ctxs]
    exact context_modCtx s c _
  have hk : k = ((s.context c).stopping st (s.context c).cstate).stopped' := by
    rw [show k = (s.stopCtx c st).context c from rfl, stopCtx_eq st hplans, context_modCtx, hctx]
  rw [hk, hz]
  exact ⟨rfl, rfl, rfl, rfl, rfl, hrest⟩

theorem exec_killComplete (hocc : s.occ = .num c) (hst : (s.context c).cstate = 5) (hdy : (s.context c).dying.isSome = true)
    (hplans : ∀ p ∈ s.plans, p.2.ctx ≠ c)
    (hreqs : ∀ q ∈ s.reqs, q.2.ctx = c → q.2.open = true → ∃ a b d, q.2.phase = .remoteParked a b d) :
    exec .killComplete s = .next (s.modCtx c (fun k => { k with dying := none })) := by
  have hp : s.plans.any (fun p => p.2.ctx == c) = false := List.any_eq_false.2 fun p hp => by rw [beq_iff_eq]; exact hplans p hp
  have hr : s.reqs.any (fun q => q.2.ctx == c && q.2.open && (match q.2.phase with
      | .remoteParked _ _ _ => false
      | _ => true)) = false := List.any_eq_false.2 fun q hq h => by
    rw [Bool.and_eq_true, Bool.and_eq_true, beq_iff_eq] at h
    obtain ⟨⟨hc, hopen⟩, hph⟩ := h
    obtain ⟨a, b, d, hd⟩ := hreqs q hq hc hopen
    rw [hd] at hph
    exact Bool.false_ne_true hph
  have hkill : s.killComplete c = some (s.modCtx c (fun k => { k with dying := none })) := by
    unfold State.killComplete
    refine if_pos ⟨hst, hdy, fun h => ?_⟩
    rcases Bool.or_eq_true_iff.1 h with h | h
    · exact Bool.false_ne_true (hp.symm.trans h)
    · exact Bool.false_ne_true (hr.symm.trans h)
  show execKillComplete s = _
  rw [execKillComplete, event1_run _ hocc, hkill, Option.getD_some]

theorem askKill_eq (s : State) (c : Nat) :
    s.askKill c = if 1 ≤ (s.context c).cstate ∧ (s.context c).cstate ≤ 4 then s.stopCtx c 5 else s := rfl

/-! ### Errors of control state (R408) -/

theorem exec_controlStateError_unit {kind : Nat} (hocc : s.occ = .num2 kind n) :
    exec .controlStateError s = .next (((List.range 256).filter (fun c =>
      s.parts.any (fun p => p.2.uses kind n && p.2.ownsCtx c))).foldl State.failCtx
        ((s.count (ctrControl kind n false) 1).count (ctrModule 0) 1).flush) := by
  show execControlStateError s = _
  rw [execControlStateError, event_run]
  simp only [hocc, Option.getD_some]
  rfl

theorem exec_controlStateError_ctx {z : State} {kind : Nat}
    (h : s.occ = .num c ∧ z = s ∨ s.occ = .num3 kind n c ∧ z = s.count (ctrControl kind n false) 1) :
    exec .controlStateError s = .next (z.noteControl.failCtx c) ∧ z.ctxs = s.ctxs := by
  have hrun : exec .controlStateError s = execControlStateError s := rfl
  rw [hrun, execControlStateError, event_run]
  rcases h with ⟨hocc, rfl⟩ | ⟨hocc, rfl⟩
  · exact ⟨by simp only [hocc, Option.getD_some], rfl⟩
  · exact ⟨by simp only [hocc, Option.getD_some], rfl⟩

theorem noteControl_context (s : State) (c : Nat) : s.noteControl.context c = s.context c := by
  have hctxs : s.noteControl.ctxs = s.ctxs := by
    unfold State.noteControl State.flush
    split <;> rfl
  rw [State.context, hctxs]
  rfl

theorem failCtx_live (h : 1 ≤ (s.context c).cstate ∧ (s.context c).cstate ≤ 4) :
    let t := (s.stopCtx c 6).modCtx c (fun k => { k with cause := 2 })
    s.failCtx c = (({ t with irqs := (s.context c).svec :: t.irqs } : State).count (ctrModule 1) 1).flush := if_pos h

theorem failCtx_gone (h : ¬(1 ≤ (s.context c).cstate ∧ (s.context c).cstate ≤ 4)) : s.failCtx c = s := if_neg h

end
end Sys2Proof.Machine
end

section open Sys2Proof Machine

/-- Settles O54: a context halts, is saved, restored, killed or fails as its control word, its cstate and its header say, and each of these
leaves its records as its rules say. -/
theorem preemptionComplete : Obligations.PreemptionComplete := by
  unfold Obligations.PreemptionComplete
  refine ⟨fun s c hocc hrun hung => exec_kettleFire hocc hrun hung, fun s c hung hplans hfin => ?_,
    fun s t c core k op z g hcores hhead hop hready hg hc hchunk hz hid hnext =>
      finishChunks_head hcores hhead hop hready hg hc hchunk hz hid hnext, ?_,
    fun s t c hocc hst hleft hplans => exec_saveComplete hocc hst hleft hplans,
    fun s c pi p o hp => ⟨fun hc ho => mem_takePairs hp hc ho, takePairs_part hp, givePairs_part hp o⟩, headerBits_fields, ?_,
    fun s t c hocc hst hsaved ht => exec_restoreComplete hocc hst hsaved ht,
    fun s c d n ts r hr hc hown => ⟨_, goOn_find hr hc hown, redone_spec s ts _ r⟩,
    fun s c st hplans => stopCtx_spec st hplans,
    fun s c hocc hst hdy hplans hreqs => exec_killComplete hocc hst hdy hplans hreqs,
    fun s kind n hocc => exec_controlStateError_unit hocc, ?_⟩
  · obtain ⟨hctx, hmem, hteams, hexs, hgrids⟩ := preempt_spec hplans hfin hung
    intro t k
    rw [show k = _ from hctx]
    exact ⟨rfl, rfl, rfl, rfl, rfl, hmem, hteams, hexs, hgrids⟩
  · intro s n pi p e v x hocc he hp hs hg hw hrun hfirst t c st b
    have hev : ∀ (pick : W64 → Bool) (f : State → Nat → W64 → Option State), pick x = true → s.ctlEvent n pick f = f t c x :=
      fun pick f hx => ctlEvent_eq he hp hs hg hw hrun hfirst hx
    have hkill : bit x.toNat 6 = true → exec .contextKill s = .next (t.askKill c) := fun hb => by
      rw [exec_contextKill hocc, hev _ _ hb, Option.getD_some]
    have hpre : (bits x.toNat 6 4 == 1) = true → exec .preemptRequest s = .next (t.askPreempt c) := fun hb => by
      rw [exec_preemptRequest hocc, hev _ _ hb, Option.getD_some]
    have hres : (bits x.toNat 6 5 == 1) = true → ∀ a, t.askRestore c = .ok a →
        exec .restoreRequest s = .next (a.askPreemptWith c x) := fun hb a ha => by
      rw [exec_restoreRequest hocc, hev _ _ hb, ha]
      rfl
    refine ⟨fun h6 => hkill h6, fun h6 h5 h4 => ?_, fun h6 h5 => ?_⟩
    · rw [hpre (bits_6_4 h6 h5 h4)]
      exact ⟨fun h => by rw [askPreempt_running h], fun h => by rw [askPreempt_restoring h],
        fun h1 h4 => by rw [askPreempt_other h1 h4]⟩
    · have hres := hres (bits_6_5 h6 h5)
      refine ⟨fun h3 h => ?_, fun h1 h4 => ?_, fun h1 h4 => ?_, fun h3 hh => ?_, fun h3 hh => ?_⟩
      · rw [hres t (askRestore_other h3)]
        rcases h with h | ⟨h1, h4⟩
        · rw [askPreemptWith_none h]
        · rw [askPreemptWith_idle h1 h4]
      · rw [hres t (askRestore_other (by rw [show (t.context c).cstate = 1 from h1]; decide)), askPreemptWith_asked h4,
          askPreempt_running h1]
      · rw [hres t (askRestore_other (by rw [show (t.context c).cstate = 4 from h1]; decide)), askPreemptWith_asked h4,
          askPreempt_restoring h1]
      · obtain ⟨hfind, hmem, hteams⟩ := restoring_spec t c x
        exact ⟨_, _, hres _ (askRestore_right h3 hh), hfind, rfl, hmem, hteams⟩
      · have h3' : ((t.restoreRefused c).context c).cstate = 3 := (restoreRefused_cstate t c).trans h3
        rw [hres _ (askRestore_wrong h3 hh), askPreemptWith_idle (by rw [h3']; decide) (by rw [h3']; decide)]
        rfl
  · intro s n r hocc hr hopen hown k gone log
    exact lateReply_spec hocc hr hopen hown
  · intro s z c kind n h w st t
    obtain ⟨hrun, hctxs⟩ := exec_controlStateError_ctx h
    have hctx : w.context c = s.context c := (noteControl_context z c).trans (by rw [State.context, hctxs]; rfl)
    rw [hrun]
    refine ⟨fun hlive => ?_, fun hgone => ?_⟩
    · have hfail := failCtx_live (s := w) (c := c) (by rw [hctx]; exact hlive)
      rw [hctx] at hfail
      exact congrArg _ hfail
    · exact congrArg _ (failCtx_gone (s := w) (c := c) (by rw [hctx]; exact hgone))

end
